-- ==== Sys2Proof/Word.lean ====
section
/-! DEFINITION. The word types of the block: 32-bit register words, bytes, and the sparse store in one canonical
form that holds registers, memory and per-unit state. -/
namespace Sys2Proof

/-- A 32-bit word of a register page or of the Pacer. -/
abbrev Word := BitVec 32

/-- The smallest addressable unit. -/
abbrev Byte := BitVec 8

/-- Keyed plain data: keys strictly rising, no entry equal to what an unlisted key reads as. -/
abbrev Sparse (α : Type) := List (Nat × α)

end Sys2Proof
end

