-- ==== Sys2Proof/Syntax.lean ====
section
/-! DEFINITION. The commands of the block, one constructor per row of spec/opcode_table.json, and the plain data
their operands are made of. -/
namespace Sys2Proof

/-- The sources of an access to the register pages (R45 `REJ.SRC`, R112): the two Pacer contexts, remote
access by requester entry, and the debug port. -/
inductive Src
  | service
  | stride
  | remote (q : Nat)
  | debug
  deriving DecidableEq, Repr

/-- The output units of the power dies, numbered over the whole module. -/
inductive OutU
  | ls (n : Nat)
  | vd (n : Nat)
  | bank (b : Nat)
  | hb (n : Nat)
  | so (n : Nat)
  | led (n : Nat)
  | row (n : Nat)
  | lf (n : Nat)
  deriving DecidableEq, Repr

/-- The diagnoses of the power units whose filter time or evaluation ends at an event (R212, R290, R316,
R333, R348, R374, R375, R515). -/
inductive Diag
  | open | short | stg | stb | ovl | lowhr | unattr | bol | feedGround | rowOpen
  deriving DecidableEq, Repr

/-- How a power die answered a frame of the Lane link (R694). -/
inductive LinkResult
  | valid | failed | silent
  deriving DecidableEq, Repr

/-- The blocks whose off-state tests run channel by channel (R213, R316, R375). -/
inductive TestBlock
  | loadSwitches | bridges | signals
  deriving DecidableEq, Repr

/-- A junction temperature in steps of 0.125 °C (R202). -/
structure Temp where
  unit : OutU
  tj : Int
  deriving DecidableEq, Repr

/-- A sense conversion of one unit: current and voltage in the unit's own steps, and for a load switch or a bank
switch the on-resistance in 10 µΩ steps (R215, R238, R298, R321, R352, R379). -/
structure Sense where
  unit : OutU
  i : Int
  v : Int
  ron : Nat
  deriving DecidableEq, Repr

/-- A CAN frame: the identifier field of R421 (a base identifier in bits 28 to 18), its format bits, and its data. -/
structure CanFrame where
  id : Nat
  ide : Bool
  rtr : Bool
  esi : Bool
  fdf : Bool
  brs : Bool
  dlc : Nat
  data : List Byte
  deriving DecidableEq, Repr

/-- The clocks that the monitors of R600 watch, and the IRO they run on. -/
inductive ClockMon
  | xosc | rclk | pll | domain | lowPower | iro
  deriving DecidableEq, Repr

/-- How the entry of an event or a trap goes: `bad` where a stack write or the vector read fails, and the access, counted from 0,
in whose cycle the two cores disagree (R125, R145). -/
structure EntryLoss where
  bad : Bool
  mis : Option Nat
  deriving DecidableEq, Repr

/-- What a timer unit counts: an edge of a pin, rising or not, or with none a cycle of a clock (R384). -/
structure CountEdge where
  unit : Nat
  edge : Option (Nat × Bool)
  deriving DecidableEq, Repr

/-- An instruction of the Pacer as it is fetched: bits [9:0] of its opcode word (SZ, FORM and SUB; OP is the command's own), the
bytes after that word as they stand in memory, the half-word and the data access (each counted from 0) that meet an
uncorrectable ECC error, the data access in whose cycle the two cores disagree (one past the last access: a cycle without
one), and the number of corrected ECC errors met (R125, R142, R155, R156). -/
structure PacIns where
  low : Nat
  tail : List Byte
  badFetch : Option Nat
  badAccess : Option Nat
  mismatch : Option Nat
  corrected : Nat
  deriving DecidableEq, Repr

/-- The commands. Operand `t` is the instant of a command in ns of the part's own timer clock (log entry 1); a command
without `t` is the end of a running timer and acts at its deadline. `src` is the source of a register access, `p` and `off`
its page and offset, `v` and `m` the word written and the bits that the write names; the other operands are explained at the
meaning. -/
inductive Instr
  /-- REGISTER_WRITE (R54). -/
  | registerWrite (t : Nat) (src : Src) (p off : Nat) (v m : Word)
  /-- REJ_CLEAR (R45). -/
  | rejClear (t : Nat) (src : Src) (p : Nat) (v m : Word)
  /-- LOCK_KEY_WRITE (R53). -/
  | lockKeyWrite (t : Nat) (src : Src) (p key : Nat)
  /-- LOCK_EXPIRY (R53). -/
  | lockExpiry (p : Nat)
  /-- PAGE_ENABLE (R57). -/
  | pageEnable (t : Nat) (src : Src) (p : Nat) (en : Bool) (v m : Word)
  /-- PAGE_SOFT_RESET (R58). -/
  | pageSoftReset (t : Nat) (src : Src) (p : Nat) (v m : Word)
  /-- UNIT_STOP_COMPLETE (R57). -/
  | unitStopComplete (t p : Nat)
  /-- SOFT_RESET (R71). -/
  | softReset (t : Nat) (src : Src) (pac : Bool) (v m : Word)
  /-- PAC_ENABLE (R131). -/
  | pacEnable (t : Nat) (src : Src) (v m : Word)
  /-- TICK (R73). -/
  | tick
  /-- CUT_OFF (R78). -/
  | cutOff
  /-- STAGING_COMPLETE (R73). -/
  | stagingComplete (t : Nat)
  /-- OVERRUN (R92). -/
  | overrun
  /-- RSRC_LEARN (R250). -/
  | rsrcLearn
  /-- REPLAY_ENTER (R106). -/
  | replayEnter (t : Nat) (src : Src) (v m : Word)
  /-- REPLAY_STEP (R107). -/
  | replayStep (t : Nat) (src : Src) (v m : Word)
  /-- BATON_PUSH (R113). -/
  | batonPush (t : Nat) (src : Src) (tl k : Nat)
  /-- QUEUE_ADVANCE (R116). -/
  | queueAdvance (t : Nat) (src : Src) (k : Nat)
  /-- QUEUE_FLUSH (R122). -/
  | queueFlush (t : Nat) (src : Src) (k : Nat)
  /-- MOV (R163). -/
  | mov (t : Nat) (e : PacIns)
  /-- MOVZ (R163). -/
  | movz (t : Nat) (e : PacIns)
  /-- MOVS (R163). -/
  | movs (t : Nat) (e : PacIns)
  /-- LEA (R164). -/
  | lea (t : Nat) (e : PacIns)
  /-- PUSH (R184). -/
  | push (t : Nat) (e : PacIns)
  /-- POP (R184). -/
  | pop (t : Nat) (e : PacIns)
  /-- CLR (R163). -/
  | clr (t : Nat) (e : PacIns)
  /-- ADD (R166). -/
  | add (t : Nat) (e : PacIns)
  /-- ADDC (R166). -/
  | addc (t : Nat) (e : PacIns)
  /-- SUB (R166). -/
  | sub (t : Nat) (e : PacIns)
  /-- SUBC (R166). -/
  | subc (t : Nat) (e : PacIns)
  /-- ADD_S (R168). -/
  | addS (t : Nat) (e : PacIns)
  /-- SUB_S (R168). -/
  | subS (t : Nat) (e : PacIns)
  /-- NEG (R167). -/
  | neg (t : Nat) (e : PacIns)
  /-- NEG_S (R168). -/
  | negS (t : Nat) (e : PacIns)
  /-- ABS (R167). -/
  | abs (t : Nat) (e : PacIns)
  /-- ABS_S (R168). -/
  | absS (t : Nat) (e : PacIns)
  /-- MUL (R169). -/
  | mul (t : Nat) (e : PacIns)
  /-- MULHU (R163). -/
  | mulhu (t : Nat) (e : PacIns)
  /-- MULHS (R163). -/
  | mulhs (t : Nat) (e : PacIns)
  /-- DIV (R171). -/
  | div (t : Nat) (e : PacIns)
  /-- DIVS (R170). -/
  | divs (t : Nat) (e : PacIns)
  /-- REM (R171). -/
  | rem (t : Nat) (e : PacIns)
  /-- REMS (R170). -/
  | rems (t : Nat) (e : PacIns)
  /-- CMP (R163). -/
  | cmp (t : Nat) (e : PacIns)
  /-- TST (R163). -/
  | tst (t : Nat) (e : PacIns)
  /-- AND (R163). -/
  | andOp (t : Nat) (e : PacIns)
  /-- OR (R163). -/
  | orOp (t : Nat) (e : PacIns)
  /-- XOR (R163). -/
  | xor (t : Nat) (e : PacIns)
  /-- BIC (R163). -/
  | bic (t : Nat) (e : PacIns)
  /-- NOT (R163). -/
  | notOp (t : Nat) (e : PacIns)
  /-- SHL (R174). -/
  | shl (t : Nat) (e : PacIns)
  /-- SHR (R174). -/
  | shr (t : Nat) (e : PacIns)
  /-- SAR (R174). -/
  | sar (t : Nat) (e : PacIns)
  /-- ROL (R175). -/
  | rol (t : Nat) (e : PacIns)
  /-- ROR (R175). -/
  | ror (t : Nat) (e : PacIns)
  /-- CLZ (R176). -/
  | clz (t : Nat) (e : PacIns)
  /-- MIN (R163). -/
  | minOp (t : Nat) (e : PacIns)
  /-- MAX (R163). -/
  | maxOp (t : Nat) (e : PacIns)
  /-- MINS (R163). -/
  | mins (t : Nat) (e : PacIns)
  /-- MAXS (R163). -/
  | maxs (t : Nat) (e : PacIns)
  /-- JMP (R178). -/
  | jmp (t : Nat) (e : PacIns)
  /-- CALL (R184). -/
  | call (t : Nat) (e : PacIns)
  /-- BCC (R165). -/
  | bcc (t : Nat) (e : PacIns)
  /-- DJNZ (R163). -/
  | djnz (t : Nat) (e : PacIns)
  /-- NOP (R179). -/
  | nop (t : Nat) (e : PacIns)
  /-- FIN (R180). -/
  | fin (t : Nat) (e : PacIns)
  /-- WAIT (R181). -/
  | wait (t : Nat) (e : PacIns)
  /-- RET (R179). -/
  | ret (t : Nat) (e : PacIns)
  /-- RETE (R182). -/
  | rete (t : Nat) (e : PacIns)
  /-- REP (R187). -/
  | rep (t : Nat) (e : PacIns) (op : Nat) (i : PacIns) (n : Nat)
  /-- REPL (R187). -/
  | repl (t : Nat) (e : PacIns) (op : Nat) (i : PacIns) (n : Nat)
  /-- BKPT (R179). -/
  | bkpt (t : Nat) (e : PacIns)
  /-- TRAP (R179). -/
  | trap (t : Nat) (e : PacIns)
  /-- EI (R183). -/
  | ei (t : Nat) (e : PacIns)
  /-- DI (R183). -/
  | di (t : Nat) (e : PacIns)
  /-- SERVICE_EVENT_ENTRY (R148). -/
  | serviceEventEntry (t : Nat) (bad : EntryLoss)
  /-- SAFE_TRAP (R142). -/
  | safeTrap (t : Nat) (bad : EntryLoss)
  /-- LOCKSTEP_INJECT (R126). -/
  | lockstepInject (t : Nat) (src : Src) (v m : Word)
  /-- LANE_LINK_SLOT (R694). -/
  | laneLinkSlot (t : Nat) (a b : LinkResult)
  /-- LANE_LINK_RESYNC (R694). -/
  | laneLinkResync (t d : Nat)
  /-- LANE_WATCHDOG_EXPIRY (R232). -/
  | laneWatchdogExpiry (d : Nat)
  /-- FAILSAFE_HEAT (R234). -/
  | failsafeHeat (d : Nat)
  /-- LH_SELECT_CHANGE (R231). -/
  | lhSelectChange (t d sel : Nat)
  /-- TEMPERATURE_CONVERSION (R202). -/
  | temperatureConversion (t d : Nat) (ref : Int) (temps : List Temp)
  /-- SENSE_CONVERSION (R238). -/
  | senseConversion (t : Nat) (ss : List Sense)
  /-- CURRENT_LIMIT_ENTRY (R200). -/
  | currentLimitEntry (t : Nat) (u : OutU)
  /-- INRUSH_WINDOW_END (R195). -/
  | inrushWindowEnd (u : OutU)
  /-- RETRY_INTERVAL_EXPIRY (R204). -/
  | retryIntervalExpiry (u : OutU)
  /-- DEFERRAL_LIMIT_EXPIRY (R204). -/
  | deferralLimitExpiry (u : OutU)
  /-- RETRY_RELOAD_TIMER (R197). -/
  | retryReloadTimer (u : OutU)
  /-- DEMAG_DUMP (R219). -/
  | demagDump (u : OutU)
  /-- DIAG_FILTER_EXPIRY (R212). -/
  | diagFilterExpiry (t : Nat) (u : OutU) (d : Diag) (holds : Bool)
  /-- OFF_STATE_TEST (R213). -/
  | offStateTest (t : Nat) (b : TestBlock)
  /-- OFF_TEST_PHASE_END (R213). -/
  | offTestPhaseEnd (u : OutU) (high : Nat)
  /-- CHANNEL_FAULT_CLEAR (R205). -/
  | channelFaultClear (t : Nat) (src : Src) (u : OutU) (v m : Word)
  /-- PWM_PERIOD_START (R216). -/
  | pwmPeriodStart (t k : Nat)
  /-- CAMSYNC_EDGE (R224). -/
  | camsyncEdge (t g : Nat) (begins : Bool)
  /-- STROBE_SCHEDULE_INSTANT (R224). -/
  | strobeScheduleInstant (t g : Nat)
  /-- SPRINT_PULSE (R227). -/
  | sprintPulse (t g : Nat)
  /-- SPRINT_PULSE_END (R226). -/
  | sprintPulseEnd (n : Nat)
  /-- PULSE_LATE_EXPIRY (R228). -/
  | pulseLateExpiry (n : Nat)
  /-- REVERSE_BATTERY (R667). -/
  | reverseBattery (t : Nat)
  /-- GROUND_LOSS (R669). -/
  | groundLoss (t d : Nat)
  /-- GROUND_RETURN (R669). -/
  | groundReturn (t d : Nat)
  /-- PEAK_PHASE_END (R273). -/
  | peakPhaseEnd (n : Nat)
  /-- VALVE_PWM_PERIOD (R275). -/
  | valvePwmPeriod (t n imeas duty : Nat)
  /-- VALVE_RAMP_END (R273). -/
  | valveRampEnd (n : Nat)
  /-- SLOW_DECAY_TIMEOUT (R285). -/
  | slowDecayTimeout (n : Nat)
  /-- VALVE_OVERCURRENT_TRIP (R286). -/
  | valveOvercurrentTrip (t n : Nat) (clamp : Bool)
  /-- BANK_OFF_DELAY_EXPIRY (R280). -/
  | bankOffDelayExpiry (b : Nat)
  /-- BANK_OFF_STATE_TEST (R292). -/
  | bankOffStateTest (t b : Nat)
  /-- REVERSE_BRAKE_END (R309). -/
  | reverseBrakeEnd (t n : Nat) (below : Bool)
  /-- PARK_INPUT_REACHED (R315). -/
  | parkInputReached (t n : Nat)
  /-- PARK_TIMEOUT (R315). -/
  | parkTimeout (n : Nat)
  /-- CHOP_LIMIT (R311). -/
  | chopLimit (t n : Nat)
  /-- OVERLOAD_TRIP (R311). -/
  | overloadTrip (t n : Nat)
  /-- SHORT_CIRCUIT_TRIP (R311). -/
  | shortCircuitTrip (t n : Nat) (high low bothLegs : Bool)
  /-- STALL_DETECT (R312). -/
  | stallDetect (t n : Nat)
  /-- RIPPLE_CROSSING (R313). -/
  | rippleCrossing (t n : Nat)
  /-- OUTPUT_STOP_COMPLETE (R310). -/
  | outputStopComplete (t : Nat) (u : OutU)
  /-- SCAN_START (R341). -/
  | scanStart (t : Nat)
  /-- ROW_SLOT_START (R341). -/
  | rowSlotStart (t : Nat)
  /-- MSYNC_EDGE (R342). -/
  | msyncEdge (t : Nat) (rising : Bool)
  /-- MSYNC_TIMEOUT (R342). -/
  | msyncTimeout
  /-- HEADROOM_CONVERSION (R335). -/
  | headroomConversion (t : Nat) (vs : List (Nat × Nat))
  /-- DEBOUNCED_CHANGE (R363). -/
  | debouncedChange (t n : Nat)
  /-- INPUT_RAW_CHANGE (R364). -/
  | inputRawChange (t n mv : Nat)
  /-- INPUT_INIT_SAMPLE (R366). -/
  | inputInitSample (p : Nat)
  /-- WETTING_PULSE (R362). -/
  | wettingPulse (t p : Nat) (volts : List (Nat × Nat))
  /-- TIMER_COUNT_STEP (R385). -/
  | timerCountStep (t : Nat) (u : CountEdge)
  /-- CAPTURE_EDGE (R397). -/
  | captureEdge (t tin : Nat) (rising : Bool)
  /-- TSTAG_GO (R406). -/
  | tstagGo (t : Nat) (src : Src) (units : Nat)
  /-- CAN_FRAME_RECEIVED (R425). -/
  | canFrameReceived (t x sof : Nat) (f : CanFrame)
  /-- CAN_FRAME_SENT (R435). -/
  | canFrameSent (t x sof : Nat)
  /-- CAN_ARBITRATION_LOST (R433). -/
  | canArbitrationLost (t x sof : Nat)
  /-- CAN_ERROR (R414). -/
  | canError (t x code tec rec_ sof : Nat) (sending : Bool)
  /-- CAN_INTEGRATION_COMPLETE (R414). -/
  | canIntegrationComplete (t x : Nat)
  /-- CAN_RECOVERY_COMPLETE (R414). -/
  | canRecoveryComplete (t x : Nat)
  /-- CAN_PROTOCOL_EXCEPTION (R444). -/
  | canProtocolException (t x : Nat)
  /-- CAN_TX_PUT (R429). -/
  | canTxPut (t : Nat) (src : Src) (x f : Nat)
  /-- CAN_TX_FETCH (R429). -/
  | canTxFetch (t x f : Nat)
  /-- CAN_RX_ACK (R426). -/
  | canRxAck (t : Nat) (src : Src) (x f : Nat)
  /-- CAN_TX_FLUSH (R436). -/
  | canTxFlush (t : Nat) (src : Src) (x f : Nat)
  /-- CAN_MANUAL_RECOVER (R417). -/
  | canManualRecover (t : Nat) (src : Src) (x : Nat)
  /-- CAN_AUTO_RETURN_ENABLE (R419). -/
  | canAutoReturnEnable (t : Nat) (src : Src) (v m : Word)
  /-- CAN_STOP_TIMEOUT (R415). -/
  | canStopTimeout (x : Nat)
  /-- CAN_TXD_TIMEOUT (R440). -/
  | canTxdTimeout (t x : Nat)
  /-- CAN_BUS_WAKE (R454). -/
  | canBusWake (t x : Nat)
  /-- NM_ENABLE (R449). -/
  | nmEnable (t : Nat) (src : Src) (x : Nat) (en : Bool) (v m : Word)
  /-- NM_KEEPALIVE_SEND (R446). -/
  | nmKeepaliveSend (x : Nat)
  /-- NM_REPEAT_EXPIRY (R449). -/
  | nmRepeatExpiry (x : Nat)
  /-- NM_TIMEOUT_EXPIRY (R449). -/
  | nmTimeoutExpiry (x : Nat)
  /-- NM_WAITBS_EXPIRY (R451). -/
  | nmWaitbsExpiry (x : Nat)
  /-- FALSE_START_WINDOW (R455). -/
  | falseStartWindow (x : Nat)
  /-- FALSE_START_MASK_HOLD (R456). -/
  | falseStartMaskHold (x : Nat)
  /-- RING_LAP_START (R462). -/
  | ringLapStart (t : Nat)
  /-- BATON (R462). -/
  | baton (t : Nat) (payload : List Byte)
  /-- DISSENT (R462). -/
  | dissent (t : Nat) (payload : List Byte)
  /-- COMMIT (R462). -/
  | commit (t : Nat) (payload : List Byte)
  /-- RING_COMMIT_RESEND (R462). -/
  | ringCommitResend
  /-- RING_CONSENT_LOST (R462). -/
  | ringConsentLost (t : Nat)
  /-- RING_LAP_TIMEOUT (R462). -/
  | ringLapTimeout
  /-- RING_COMMIT_TIMEOUT (R462). -/
  | ringCommitTimeout
  /-- ETH_FRAME_RECEIVED (R475). -/
  | ethFrameReceived (t p : Nat) (octets : List Byte) (fcsOk : Bool)
  /-- ETH_TRANSMIT_OPPORTUNITY (R483). -/
  | ethTransmitOpportunity (t p : Nat)
  /-- PORT_LINK_CHANGE (R471). -/
  | portLinkChange (t p : Nat) (up usable : Bool)
  /-- MDIO_WRITE (R473). -/
  | mdioWrite (t : Nat) (src : Src) (v : Word)
  /-- MDIO_READ (R473). -/
  | mdioRead (t : Nat) (src : Src) (v : Word)
  /-- MDIO_ADDRESS (R473). -/
  | mdioAddress (t : Nat) (src : Src) (v : Word)
  /-- MDIO_COMPLETE (R473). -/
  | mdioComplete (t data : Nat) (turnaround : Bool)
  /-- MAC_READ (R506). -/
  | macRead (t : Nat) (src : Src) (i : Nat)
  /-- MAC_WRITE (R506). -/
  | macWrite (t : Nat) (src : Src) (i : Nat)
  /-- MAC_DELETE (R506). -/
  | macDelete (t : Nat) (src : Src) (i : Nat)
  /-- MAC_FLUSH_DYNAMIC (R506). -/
  | macFlushDynamic (t : Nat) (src : Src) (i : Nat)
  /-- MAC_AGE_EXPIRY (R477). -/
  | macAgeExpiry (t i : Nat)
  /-- TAS_CFGCHG (R485). -/
  | tasCfgchg (t : Nat) (src : Src) (p : Nat) (v m : Word)
  /-- TAS_CONFIG_CHANGE (R485). -/
  | tasConfigChange (t p : Nat)
  /-- GATE_INTERVAL_END (R485). -/
  | gateIntervalEnd (t p : Nat)
  /-- PREEMPT_VERIFY (R487). -/
  | preemptVerify (t p : Nat) (ok : Bool)
  /-- FRER_RESET_TIMEOUT (R491). -/
  | frerResetTimeout (i : Nat)
  /-- SFL_SELECT (R511). -/
  | sflSelect (t : Nat) (src : Src) (i : Nat)
  /-- SFL_STORE (R511). -/
  | sflStore (t : Nat) (src : Src) (i : Nat)
  /-- HOST_TX_DESCRIPTOR (R497). -/
  | hostTxDescriptor (t r : Nat)
  /-- GPTP_SYNC_RECEIVED (R495). -/
  | gptpSyncReceived (t p gm master : Nat) (rate : Int)
  /-- GPTP_SYNC_TIMEOUT (R495). -/
  | gptpSyncTimeout
  /-- GPTP_PDELAY (R493). -/
  | gptpPdelay (t p delay : Nat)
  /-- ACCESS_CYCLE_START (R517). -/
  | accessCycleStart
  /-- LF_BURSTS_END (R514). -/
  | lfBurstsEnd (peaks : List (Nat × Nat)) (shorts hot : List Nat)
  /-- UWB_POLL (R520). -/
  | uwbPoll (t : Nat) (ok : Bool)
  /-- UWB_RESP_RECEIVED (R522). -/
  | uwbRespReceived (t k : Nat) (frame : Option (List Byte)) (round : Nat) (eps : Int)
  /-- ACCESS_SELECTION (R524). -/
  | accessSelection (t : Nat)
  /-- ACCESS_CYCLE_END (R529). -/
  | accessCycleEnd (t : Nat)
  /-- LOCKOUT_END (R528). -/
  | lockoutEnd
  /-- PERMIT_CLOSE (R530). -/
  | permitClose
  /-- ENROL (R532). -/
  | enrol (t : Nat) (src : Src)
  /-- REVOKE (R532). -/
  | revoke (t : Nat) (src : Src)
  /-- KEYLOAD (R532). -/
  | keyload (t : Nat) (src : Src)
  /-- VAULT_CMD_COMPLETE (R532). -/
  | vaultCmdComplete (t : Nat) (nvOk : Bool)
  /-- FAULT_RAISE (R548). -/
  | faultRaise (t src unit : Nat)
  /-- FAULT_ACK (R552). -/
  | faultAck (t : Nat) (src : Src) (i : Nat)
  /-- GRACE_EXPIRY (R552). -/
  | graceExpiry (src : Nat)
  /-- FAULT_UNHOLD (R547). -/
  | faultUnhold (t : Nat) (src : Src) (i u : Nat)
  /-- FAULT_CLEAR (R555). -/
  | faultClear (t : Nat) (src : Src) (i : Nat)
  /-- SAFE_RELEASE (R557). -/
  | safeRelease (t : Nat) (src : Src)
  /-- CANARY_SWEEP (R561). -/
  | canarySweep (t m0 m1 m2 m3 rosc : Nat)
  /-- REPLAN_POINT (R566). -/
  | replanPoint (t : Nat)
  /-- OPERATING_MINUTE (R564). -/
  | operatingMinute (t : Nat) (cd a b : Int)
  /-- RECORD_CODE_PUT (R573). -/
  | recordCodePut (t : Nat) (src : Src) (c : Nat)
  /-- RECORD_QUEUE_ENTRY (R573). -/
  | recordQueueEntry (t k : Nat)
  /-- TOKEN_REFILL (R575). -/
  | tokenRefill (t c : Nat)
  /-- CODE_CLASS_ASSIGN (R575). -/
  | codeClassAssign (t : Nat) (src : Src) (c cls : Nat)
  /-- FEED_PUT (R577). -/
  | feedPut (t : Nat) (src : Src) (k : Nat)
  /-- FEED_CLEAR (R577). -/
  | feedClear (t : Nat) (src : Src) (k : Nat)
  /-- FLUSH_PERIOD (R580). -/
  | flushPeriod (t : Nat)
  /-- FLUSH_COMMAND (R580). -/
  | flushCommand (t : Nat) (src : Src) (v m : Word)
  /-- ARCHIVE_SECTOR_WRITTEN (R581). -/
  | archiveSectorWritten (t : Nat) (ok : Bool)
  /-- RECORD_READ (R585). -/
  | recordRead (t : Nat) (src : Src)
  /-- RECORD_WIPE (R586). -/
  | recordWipe (t : Nat) (src : Src) (key : Nat)
  /-- XOSC_START_WAIT (R592). -/
  | xoscStartWait (ok : Bool)
  /-- PLL_LOCK (R592). -/
  | pllLock (t : Nat) (ok : Bool)
  /-- RAMP_STEP (R594). -/
  | rampStep
  /-- REFERENCE_SELECT (R596). -/
  | referenceSelect (t : Nat) (src : Src) (rclk : Bool) (v m : Word)
  /-- REFERENCE_SLEW_COMPLETE (R596). -/
  | referenceSlewComplete (t diff : Nat)
  /-- CLOCK_MONITOR_FAIL (R600). -/
  | clockMonitorFail (t : Nat) (c : ClockMon)
  /-- HOLDOVER_EXPIRY (R599). -/
  | holdoverExpiry
  /-- CLOCK_WAIT_END (R602). -/
  | clockWaitEnd
  /-- XOSC_RETRY (R598). -/
  | xoscRetry
  /-- RCLK_RETURN (R597). -/
  | rclkReturn
  /-- LPXO_CHANGEOVER (R605). -/
  | lpxoChangeover (t : Nat) (ok : Bool)
  /-- QUIESCE_TIMEOUT (R617). -/
  | quiesceTimeout (t : Nat) (kinds : List Nat)
  /-- DOZE_WAKE (R615). -/
  | dozeWake (t : Nat) (decay : List (Nat × Byte))
  /-- COOLDOWN_ARM_TIMEOUT (R618). -/
  | cooldownArmTimeout
  /-- COOLDOWN_UNITS_STOPPED (R619). -/
  | cooldownUnitsStopped (t : Nat)
  /-- COOLDOWN_TIMEOUT (R619). -/
  | cooldownTimeout
  /-- COOLDOWN_FLUSH_END (R619). -/
  | cooldownFlushEnd (t : Nat)
  /-- WAKE_INPUT_FILTER (R622). -/
  | wakeInputFilter (t j : Nat)
  /-- PARK_WAKE (R624). -/
  | parkWake (t : Nat)
  /-- PG_TIMEOUT (R624). -/
  | pgTimeout
  /-- PAD_RELEASE (R623). -/
  | padRelease (t : Nat) (src : Src)
  /-- WAKE_TIMER_WRITE (R626). -/
  | wakeTimerWrite (t : Nat) (src : Src) (v : Word)
  /-- WAKE_TIMER_EXPIRY (R626). -/
  | wakeTimerExpiry
  /-- REGULATOR_REQUEST (R629). -/
  | regulatorRequest (t : Nat) (ack : Bool)
  /-- REGULATOR_CHECK (R629). -/
  | regulatorCheck (status : Option Nat) (pg : Bool)
  /-- REGULATOR_RETRY (R629). -/
  | regulatorRetry (ack : Bool)
  /-- REGULATOR_TIMEOUT (R629). -/
  | regulatorTimeout
  /-- PG_FALL (R629). -/
  | pgFall (t : Nat)
  /-- POWER_ON_RESET (R670). -/
  | powerOnReset (t : Nat) (vbat : Bool)
  /-- RAIL_LOSS (R671). -/
  | railLoss (t : Nat)
  /-- DEVICE_RESET_RELEASE (R634). -/
  | deviceResetRelease
  /-- WARM_UP (R655). -/
  | warmUp (factory : Bool) (bad : List Nat) (voutMode : Nat)
  /-- FIRMWARE_VERIFY (R643). -/
  | firmwareVerify (t : Nat) (eccA eccB : Bool)
  /-- WARM_UP_COMPLETE (R655). -/
  | warmUpComplete (t : Nat)
  /-- NV_PROGRAM (R639). -/
  | nvProgram (t : Nat) (src : Src)
  /-- NV_PROGRAM_COMPLETE (R639). -/
  | nvProgramComplete (t : Nat) (ok : Bool)
  /-- SV_COMMIT (R644). -/
  | svCommit (t : Nat) (src : Src)
  /-- LIFECYCLE_CHANGE (R645). -/
  | lifecycleChange (t : Nat) (src : Src) (key : Nat)
  /-- VBAT_CONVERSION (R673). -/
  | vbatConversion (t : Nat) (a b : Int)
  /-- FREEZE_RECOVERY (R255). -/
  | freezeRecovery
  /-- POWER_DIE_LOCKOUT (R665). -/
  | powerDieLockout (t d : Nat)
  /-- POWER_DIE_RESTART (R665). -/
  | powerDieRestart (t d : Nat)
  /-- RAIL_CONVERSION (R672). -/
  | railConversion (t vcore vser vio keep : Nat) (tcd tbp : Int)
  /-- VBAT_MINMAX_CLEAR (R681). -/
  | vbatMinmaxClear (t : Nat) (src : Src)
  /-- EXTEST (R648). -/
  | extest (t : Nat) (levels shift : List Bool)
  /-- SAMPLE_PRELOAD (R648). -/
  | samplePreload (t : Nat) (levels shift : List Bool)
  /-- IDCODE (R647). -/
  | idcode (t : Nat)
  /-- BYPASS (R647). -/
  | bypass (t : Nat)
  /-- TEST_LOGIC_RESET (R647). -/
  | testLogicReset (t : Nat) (trst : Bool)
  /-- DEBUG_READ_WORD (R649). -/
  | debugReadWord (t a : Nat) (inc : Bool)
  /-- DEBUG_WRITE_WORD (R649). -/
  | debugWriteWord (t a v : Nat) (inc : Bool)
  /-- DSTAT (R650). -/
  | dstat (t : Nat)
  /-- ATTACH (R650). -/
  | attach (t : Nat) (on : Bool)
  /-- HALT (R651). -/
  | halt (t : Nat) (att : Bool)
  /-- RESUME (R651). -/
  | resume (t : Nat) (att : Bool)
  /-- STEP (R651). -/
  | step (t : Nat) (att : Bool)
  /-- DEBUG_RESET (R653). -/
  | debugReset (t : Nat) (att : Bool)
  /-- MARSHAL_RELEASE_POINT (R245). -/
  | marshalReleasePoint (i : Nat)
  /-- LIMITING_EPISODE_END (R200). -/
  | limitingEpisodeEnd (t : Nat) (u : OutU)
  /-- BRIDGE_PWM_PERIOD (R307). -/
  | bridgePwmPeriod (t n : Nat)
  /-- POSUNC (R314). -/
  | posunc (t n : Nat)
  /-- PARK_BRAKE_END (R315). -/
  | parkBrakeEnd (n : Nat)
  /-- LPXO_RETRY (R606). -/
  | lpxoRetry
  /-- CLOCK_GATING (R604). -/
  | clockGating (t p : Nat)
  /-- PG_RISE (R624). -/
  | pgRise (t : Nat)
  /-- VBAT_LOSS (R664). -/
  | vbatLoss (t : Nat)
  /-- UNDEFINED_OPCODE (R157). -/
  | undefinedOpcode (t op : Nat) (e : PacIns)
  deriving DecidableEq, Repr

end Sys2Proof
end

