-- ==== Sys2Proof/WellFormed.lean ====
section
/-! DEFINITION. Well-formed commands: every operand lies in the range that the spec gives it. The machine is total on
ill-formed commands too; no command from outside is one. -/
namespace Sys2Proof

/-- An output unit that the module has. -/
def OutU.ok : OutU → Bool
  | .ls n => decide (n < 56)
  | .vd n => decide (n < 16)
  | .bank b => decide (b < 4)
  | .hb n => decide (n < 12)
  | .so n => decide (n < 16)
  | .led n => decide (n < 48)
  | .row n => decide (n < 16)
  | .lf n => decide (n < 6)

/-- A source: remote access has 8 requester entries. -/
def Src.ok : Src → Bool
  | .service => true
  | .stride => true
  | .remote q => decide (q < 8)
  | .debug => true

/-- The fields of an opcode word fit their bits, and at most 16 bytes follow it (R155, R156). -/
def PacIns.ok (e : PacIns) : Bool := decide (e.low < 1024) && decide (e.tail.length ≤ 16)

/-- A CAN frame: identifier of 29 bits, DLC of 4 bits, at most 64 data bytes (R421). -/
def CanFrame.ok (f : CanFrame) : Bool := decide (f.id < 2 ^ 29) && decide (f.dlc < 16) && decide (f.data.length ≤ 64)

/-- A well-formed command. -/
def Instr.ok : Instr → Bool
  | .registerWrite _ src p off _ _ => src.ok && decide (p < 256) && decide (off < 4096)
  | .rejClear _ src p _ _ => src.ok && decide (p < 256)
  | .lockKeyWrite _ src p key => src.ok && decide (p < 256) && decide (key < 65536)
  | .lockExpiry p => decide (p < 256)
  | .pageEnable _ src p _ _ _ => src.ok && decide (p < 256)
  | .pageSoftReset _ src p _ _ => src.ok && decide (p < 256)
  | .unitStopComplete _ p => decide (p < 256)
  | .softReset _ src _ _ _ => src.ok
  | .pacEnable _ src _ _ => src.ok
  | .tick => true
  | .cutOff => true
  | .stagingComplete _ => true
  | .overrun => true
  | .rsrcLearn => true
  | .replayEnter _ src _ _ => src.ok
  | .replayStep _ src _ _ => src.ok
  | .batonPush _ src tl k => src.ok && decide (tl < 65536) && decide (k < 32)
  | .queueAdvance _ src k => src.ok && decide (k < 32)
  | .queueFlush _ src k => src.ok && decide (k < 32)
  | .mov _ e => e.ok
  | .movz _ e => e.ok
  | .movs _ e => e.ok
  | .lea _ e => e.ok
  | .push _ e => e.ok
  | .pop _ e => e.ok
  | .clr _ e => e.ok
  | .add _ e => e.ok
  | .addc _ e => e.ok
  | .sub _ e => e.ok
  | .subc _ e => e.ok
  | .addS _ e => e.ok
  | .subS _ e => e.ok
  | .neg _ e => e.ok
  | .negS _ e => e.ok
  | .abs _ e => e.ok
  | .absS _ e => e.ok
  | .mul _ e => e.ok
  | .mulhu _ e => e.ok
  | .mulhs _ e => e.ok
  | .div _ e => e.ok
  | .divs _ e => e.ok
  | .rem _ e => e.ok
  | .rems _ e => e.ok
  | .cmp _ e => e.ok
  | .tst _ e => e.ok
  | .andOp _ e => e.ok
  | .orOp _ e => e.ok
  | .xor _ e => e.ok
  | .bic _ e => e.ok
  | .notOp _ e => e.ok
  | .shl _ e => e.ok
  | .shr _ e => e.ok
  | .sar _ e => e.ok
  | .rol _ e => e.ok
  | .ror _ e => e.ok
  | .clz _ e => e.ok
  | .minOp _ e => e.ok
  | .maxOp _ e => e.ok
  | .mins _ e => e.ok
  | .maxs _ e => e.ok
  | .jmp _ e => e.ok
  | .call _ e => e.ok
  | .bcc _ e => e.ok
  | .djnz _ e => e.ok
  | .nop _ e => e.ok
  | .fin _ e => e.ok
  | .wait _ e => e.ok
  | .ret _ e => e.ok
  | .rete _ e => e.ok
  | .rep _ e op i _ => e.ok && decide (op < 64) && i.ok
  | .repl _ e op i _ => e.ok && decide (op < 64) && i.ok
  | .bkpt _ e => e.ok
  | .trap _ e => e.ok
  | .ei _ e => e.ok
  | .di _ e => e.ok
  | .serviceEventEntry _ _ => true
  | .safeTrap _ _ => true
  | .lockstepInject _ src _ _ => src.ok
  | .laneLinkSlot _ _ _ => true
  | .laneLinkResync _ d => decide (d < 2)
  | .laneWatchdogExpiry d => decide (d < 2)
  | .failsafeHeat d => decide (d < 2)
  | .lhSelectChange _ d sel => decide (d < 2) && decide (sel < 4)
  | .temperatureConversion _ d _ temps => decide (d < 2) && temps.all (fun x => x.unit.ok)
  | .senseConversion _ ss => ss.all (fun x => x.unit.ok)
  | .currentLimitEntry _ u => u.ok
  | .inrushWindowEnd u => u.ok
  | .retryIntervalExpiry u => u.ok
  | .deferralLimitExpiry u => u.ok
  | .retryReloadTimer u => u.ok
  | .demagDump u => u.ok
  | .diagFilterExpiry _ u _ _ => u.ok
  | .offStateTest _ _ => true
  | .offTestPhaseEnd u high => u.ok && decide (high < 65536)
  | .channelFaultClear _ src u _ _ => src.ok && u.ok
  | .pwmPeriodStart _ k => decide (k < 4)
  | .camsyncEdge _ g _ => decide (g < 4)
  | .strobeScheduleInstant _ g => decide (g < 4)
  | .sprintPulse _ g => decide (g < 4)
  | .sprintPulseEnd n => decide (n < 56)
  | .pulseLateExpiry n => decide (n < 56)
  | .reverseBattery _ => true
  | .groundLoss _ d => decide (d < 2)
  | .groundReturn _ d => decide (d < 2)
  | .peakPhaseEnd n => decide (n < 16)
  | .valvePwmPeriod _ n _ _ => decide (n < 16)
  | .valveRampEnd n => decide (n < 16)
  | .slowDecayTimeout n => decide (n < 16)
  | .valveOvercurrentTrip _ n _ => decide (n < 16)
  | .bankOffDelayExpiry b => decide (b < 4)
  | .bankOffStateTest _ b => decide (b < 4)
  | .reverseBrakeEnd _ n _ => decide (n < 12)
  | .parkInputReached _ n => decide (n < 12)
  | .parkTimeout n => decide (n < 12)
  | .chopLimit _ n => decide (n < 12)
  | .overloadTrip _ n => decide (n < 12)
  | .shortCircuitTrip _ n _ _ _ => decide (n < 12)
  | .stallDetect _ n => decide (n < 12)
  | .rippleCrossing _ n => decide (n < 12)
  | .outputStopComplete _ u => u.ok
  | .scanStart _ => true
  | .rowSlotStart _ => true
  | .msyncEdge _ _ => true
  | .msyncTimeout => true
  | .headroomConversion _ vs => vs.all (fun e => decide (e.1 < 48))
  | .debouncedChange _ n => decide (n < 64)
  | .inputRawChange _ n _ => decide (n < 64)
  | .inputInitSample p => decide (p < 2)
  | .wettingPulse _ p volts => decide (p < 2) && volts.all (fun e => decide (e.1 < 32))
  | .timerCountStep _ u => decide (u.unit < 4) && u.edge.all (fun e => decide (e.1 < 8))
  | .captureEdge _ tin _ => decide (tin < 8)
  | .tstagGo _ src units => src.ok && decide (units < 16)
  | .canFrameReceived _ x _ f => decide (x < 8) && f.ok
  | .canFrameSent _ x _ => decide (x < 8)
  | .canArbitrationLost _ x _ => decide (x < 8)
  | .canError _ x code _ _ _ _ => decide (x < 8) && decide (code < 8)
  | .canIntegrationComplete _ x => decide (x < 8)
  | .canRecoveryComplete _ x => decide (x < 8)
  | .canProtocolException _ x => decide (x < 8)
  | .canTxPut _ src x f => src.ok && decide (x < 8) && decide (f < 2)
  | .canTxFetch _ x f => decide (x < 8) && decide (f < 2)
  | .canRxAck _ src x f => src.ok && decide (x < 8) && decide (f < 2)
  | .canTxFlush _ src x f => src.ok && decide (x < 8) && decide (f < 2)
  | .canManualRecover _ src x => src.ok && decide (x < 8)
  | .canAutoReturnEnable _ src _ _ => src.ok
  | .canStopTimeout x => decide (x < 8)
  | .canTxdTimeout _ x => decide (x < 8)
  | .canBusWake _ x => decide (x < 8)
  | .nmEnable _ src x _ _ _ => src.ok && decide (x < 8)
  | .nmKeepaliveSend x => decide (x < 8)
  | .nmRepeatExpiry x => decide (x < 8)
  | .nmTimeoutExpiry x => decide (x < 8)
  | .nmWaitbsExpiry x => decide (x < 8)
  | .falseStartWindow x => decide (x < 8)
  | .falseStartMaskHold x => decide (x < 8)
  | .ringLapStart _ => true
  | .baton _ _ => true
  | .dissent _ _ => true
  | .commit _ _ => true
  | .ringCommitResend => true
  | .ringConsentLost _ => true
  | .ringLapTimeout => true
  | .ringCommitTimeout => true
  | .ethFrameReceived _ p octets _ => decide (p < 6) && decide (octets.length ≤ 2000)
  | .ethTransmitOpportunity _ p => decide (p < 6)
  | .portLinkChange _ p _ _ => decide (p < 6)
  | .mdioWrite _ src _ => src.ok
  | .mdioRead _ src _ => src.ok
  | .mdioAddress _ src _ => src.ok
  | .mdioComplete _ data _ => decide (data < 65536)
  | .macRead _ src i => src.ok && decide (i < 4096)
  | .macWrite _ src i => src.ok && decide (i < 4096)
  | .macDelete _ src i => src.ok && decide (i < 4096)
  | .macFlushDynamic _ src i => src.ok && decide (i < 4096)
  | .macAgeExpiry _ i => decide (i < 4096)
  | .tasCfgchg _ src p _ _ => src.ok && decide (p < 6)
  | .tasConfigChange _ p => decide (p < 6)
  | .gateIntervalEnd _ p => decide (p < 6)
  | .preemptVerify _ p _ => decide (p < 6)
  | .frerResetTimeout i => decide (i < 256)
  | .sflSelect _ src i => src.ok && decide (i < 256)
  | .sflStore _ src i => src.ok && decide (i < 256)
  | .hostTxDescriptor _ r => (decide (4 ≤ r) && decide (r < 8))
  | .gptpSyncReceived _ p _ _ _ => decide (p < 6)
  | .gptpSyncTimeout => true
  | .gptpPdelay _ p _ => decide (p < 6)
  | .accessCycleStart => true
  | .lfBurstsEnd _ _ _ => true
  | .uwbPoll _ _ => true
  | .uwbRespReceived _ _ _ _ _ => true
  | .accessSelection _ => true
  | .accessCycleEnd _ => true
  | .lockoutEnd => true
  | .permitClose => true
  | .enrol _ src => src.ok
  | .revoke _ src => src.ok
  | .keyload _ src => src.ok
  | .vaultCmdComplete _ _ => true
  | .faultRaise _ src unit => decide (src < 0xD4) && decide (unit < 256)
  | .faultAck _ src i => src.ok && decide (i < 256)
  | .graceExpiry src => decide (src < 0xD4)
  | .faultUnhold _ src i u => src.ok && decide (i < 256) && decide (u < 256)
  | .faultClear _ src i => src.ok && decide (i < 0xD4)
  | .safeRelease _ src => src.ok
  | .canarySweep _ _ _ _ _ _ => true
  | .replanPoint _ => true
  | .operatingMinute _ _ _ _ => true
  | .recordCodePut _ src c => src.ok && decide (c < 4096)
  | .recordQueueEntry _ k => decide (k < 32)
  | .tokenRefill _ c => decide (c < 16)
  | .codeClassAssign _ src c cls => src.ok && decide (c < 4096) && decide (cls < 16)
  | .feedPut _ src k => src.ok && decide (k < 512)
  | .feedClear _ src k => src.ok && decide (k < 512)
  | .flushPeriod _ => true
  | .flushCommand _ src _ _ => src.ok
  | .archiveSectorWritten _ _ => true
  | .recordRead _ src => src.ok
  | .recordWipe _ src key => src.ok && decide (key < 65536)
  | .xoscStartWait _ => true
  | .pllLock _ _ => true
  | .rampStep => true
  | .referenceSelect _ src _ _ _ => src.ok
  | .referenceSlewComplete _ _ => true
  | .clockMonitorFail _ _ => true
  | .holdoverExpiry => true
  | .clockWaitEnd => true
  | .xoscRetry => true
  | .rclkReturn => true
  | .lpxoChangeover _ _ => true
  | .quiesceTimeout _ kinds => kinds.all (fun k => decide (k < 5))
  | .dozeWake _ _ => true
  | .cooldownArmTimeout => true
  | .cooldownUnitsStopped _ => true
  | .cooldownTimeout => true
  | .cooldownFlushEnd _ => true
  | .wakeInputFilter _ j => decide (j < 8)
  | .parkWake _ => true
  | .pgTimeout => true
  | .padRelease _ src => src.ok
  | .wakeTimerWrite _ src _ => src.ok
  | .wakeTimerExpiry => true
  | .regulatorRequest _ _ => true
  | .regulatorCheck _ _ => true
  | .regulatorRetry _ => true
  | .regulatorTimeout => true
  | .pgFall _ => true
  | .powerOnReset _ _ => true
  | .railLoss _ => true
  | .deviceResetRelease => true
  | .warmUp _ _ voutMode => decide (voutMode < 256)
  | .firmwareVerify _ _ _ => true
  | .warmUpComplete _ => true
  | .nvProgram _ src => src.ok
  | .nvProgramComplete _ _ => true
  | .svCommit _ src => src.ok
  | .lifecycleChange _ src key => src.ok && decide (key < 65536)
  | .vbatConversion _ _ _ => true
  | .freezeRecovery => true
  | .powerDieLockout _ d => decide (d < 2)
  | .powerDieRestart _ d => decide (d < 2)
  | .railConversion _ _ _ _ _ _ _ => true
  | .vbatMinmaxClear _ src => src.ok
  | .extest _ levels shift => decide (levels.length = 32) && decide (shift.length = 96)
  | .samplePreload _ levels shift => decide (levels.length = 32) && decide (shift.length = 96)
  | .idcode _ => true
  | .bypass _ => true
  | .testLogicReset _ _ => true
  | .debugReadWord _ a _ => decide (a < 2 ^ 32)
  | .debugWriteWord _ a v _ => decide (a < 2 ^ 32) && decide (v < 2 ^ 32)
  | .dstat _ => true
  | .attach _ _ => true
  | .halt _ _ => true
  | .resume _ _ => true
  | .step _ _ => true
  | .debugReset _ _ => true
  | .marshalReleasePoint i => decide (i < 92)
  | .limitingEpisodeEnd _ u => u.ok
  | .bridgePwmPeriod _ n => decide (n < 12)
  | .posunc _ n => decide (n < 12)
  | .parkBrakeEnd n => decide (n < 12)
  | .lpxoRetry => true
  | .clockGating _ p => decide (p < 256)
  | .pgRise _ => true
  | .vbatLoss _ => true
  | .undefinedOpcode _ op e => decide (op < 64) && e.ok && (decide (0x2E ≤ op) || (decide (op = 0) && decide (0x0B ≤ e.low % 64)))

end Sys2Proof
end

