-- ==== Sys2Proof/Config.lean ====
section
/-! DEFINITION. What the spec leaves open and what it takes from public standards by name: constants without a
body, so that no proof can see their values. -/
namespace Sys2Proof.Config

/-- The value the spec leaves open at the `n`-th such point of a run (log entry 3). -/
opaque freeValue : Nat → Nat

/-- The boot ROM's bytes, which the manual does not specify (R41, log entry 4). -/
opaque romByte : Nat → Byte

/-- The factory identity words (serial number, date of final test, host MAC address), R36 and R641. -/
opaque factoryWord : Nat → Nat

/-- The on-resistance baseline RON0 of a unit, from the factory area (R561, R641). -/
opaque factoryRon0 : Nat → Nat

/-- AES-CMAC of a message under a key, 16 bytes, named by the spec and not spelt out (R60, R463, R521, log entry 5): byte `i`
in bits [8i+7:8i]. -/
opaque aesCmac : List Byte → List Byte → BitVec 128

/-- RFC 3394 key unwrap under the wrapping key of a slot; `none` where the integrity check fails (R531, R532). -/
opaque keyUnwrap : List Byte → List Byte → Option (List Byte)

/-- SHA-256, 32 bytes, named by the spec (R642, R643): byte `i` in bits [8i+7:8i]. -/
opaque sha256 : List Byte → BitVec 256

/-- ECDSA P-256 verification: key, digest, signature (R643). -/
opaque ecdsaVerify : List Byte → List Byte → List Byte → Bool

/-- A random challenge or other random octets of the part (R517, R521), by use. -/
opaque random : Nat → Nat

/-- The threshold of an input's comparator, by input, type and direction: the electrical limits of R369 bound it (R360, log
entry 90). -/
opaque inputThreshold : Nat → Nat → Bool → Nat

/-- Whether the load of an unpaired half-bridge is wired to VBAT: the wiring is the board's (R316, log entry 73). -/
opaque loadAtVbat : Nat → Bool

/-- Whether the bus of a controller is idle at an instant: no command tells (R415, log entry 75). -/
opaque canBusIdle : Nat → Nat → Bool

/-- The start of the frame that a controller has on the bus at an instant, if it has one: no command tells (R436, log entry
75). -/
opaque canOnAir : Nat → Nat → Option Nat

/-- The bucket of the MAC table that an address and VLAN index fall into: R477 gives 1024 buckets and no hash. -/
opaque macBucket : Nat → Nat → Nat

/-- The firmware key of the factory area, X then Y (R641). -/
opaque factoryKey : List Byte

/-- The manufacturer identity code of the factory area (R641, R647). -/
opaque factoryMfr : Nat

end Sys2Proof.Config
end

