-- ==== Sys2Proof/Machine/Bits.lean ====
section
/-! DEFINITION. Bit-field, byte-order and sign helpers, and the operations of the sparse store. -/
namespace Sys2Proof.Machine

/-- The `width` bits of `w` from bit `lo` up. -/
def bitsOf (w : Word) (lo width : Nat) : Nat := (w.toNat >>> lo) % 2 ^ width

/-- Ones in `width` bits from bit `lo` up. -/
def maskOf (lo width : Nat) : Word := BitVec.ofNat 32 ((2 ^ width - 1) <<< lo)

/-- `w` with the `width` bits from `lo` replaced by those of `v`. -/
def withBits (w : Word) (lo width v : Nat) : Word :=
  (w &&& ~~~ maskOf lo width) ||| BitVec.ofNat 32 ((v % 2 ^ width) <<< lo)

/-- Bit `i` of a number. -/
def bitAt (v i : Nat) : Bool := v.testBit i

/-- `v` with bit `i` set. -/
def setBit (v i : Nat) : Nat := v ||| (1 <<< i)

/-- `v` with bit `i` cleared. -/
def clrBit (v i : Nat) : Nat := if v.testBit i then v - (1 <<< i) else v

/-- The bits of `v` outside `m`. -/
def clrMask (v m : Nat) : Nat := v - (v &&& m)

/-- The value of a `width`-bit two's complement number. -/
def signedOf (width v : Nat) : Int :=
  if v % 2 ^ width < 2 ^ (width - 1) then Int.ofNat (v % 2 ^ width) else Int.ofNat (v % 2 ^ width) - Int.ofNat (2 ^ width)

/-- A signed number in `width` bits of two's complement. -/
def unsignedOf (width : Nat) (v : Int) : Nat := (v % Int.ofNat (2 ^ width)).toNat

/-- One or zero. -/
def b2n (b : Bool) : Nat := if b then 1 else 0

/-- The `n` bytes of `v`, least significant first. -/
def leBytes : Nat → Nat → List Byte
  | 0, _ => []
  | n + 1, v => BitVec.ofNat 8 v :: leBytes n (v / 256)

/-- The number whose bytes, least significant first, are given. -/
def leVal : List Byte → Nat
  | [] => 0
  | b :: bs => b.toNat + 256 * leVal bs

/-- The number whose bytes, most significant first, are given (network order, R59). -/
def beVal (bs : List Byte) : Nat := bs.foldl (fun a b => 256 * a + b.toNat) 0

/-- The `n` bytes of `v`, most significant first. -/
def beBytes (n v : Nat) : List Byte := (leBytes n v).reverse

/-- One bit of the reflected CRC-32 (R103). -/
def crcBit (c : Nat) : Nat := if c % 2 = 1 then (c / 2) ^^^ 0xEDB88320 else c / 2

/-- One byte of the reflected CRC-32 (R103). -/
def crcByte (c : Nat) (b : Byte) : Nat :=
  crcBit (crcBit (crcBit (crcBit (crcBit (crcBit (crcBit (crcBit (c ^^^ b.toNat))))))))

/-- CRC-32 of IEEE 802.3: initial value and final XOR all ones (R103). -/
def crc32 (bs : List Byte) : Nat := (bs.foldl crcByte 0xFFFFFFFF) ^^^ 0xFFFFFFFF

/-- What key `k` reads as. -/
def look {α : Type} (d : α) : Sparse α → Nat → α
  | [], _ => d
  | (a, v) :: r, k => if a = k then v else look d r k

/-- Insertion in ascending key order, replacing an entry of the same key. -/
def ins {α : Type} (k : Nat) (v : α) : Sparse α → Sparse α
  | [] => [(k, v)]
  | (a, w) :: r => if k < a then (k, v) :: (a, w) :: r else if a = k then (k, v) :: r else (a, w) :: ins k v r

/-- Removal of a key. -/
def del {α : Type} (k : Nat) (m : Sparse α) : Sparse α := m.filter (fun e => decide (e.1 ≠ k))

/-- Writes `v` at `k`, where `d` is what an unlisted `k` reads as: the form stays canonical. -/
def store {α : Type} [DecidableEq α] (d : α) (k : Nat) (v : α) (m : Sparse α) : Sparse α :=
  if v = d then del k m else ins k v m

/-- The canonical form, for defaults `d` by key. -/
def canonB {α : Type} [DecidableEq α] (d : Nat → α) : Sparse α → Bool
  | [] => true
  | [(a, v)] => decide (v ≠ d a)
  | (a, v) :: (b, w) :: r => decide (a < b) && decide (v ≠ d a) && canonB d ((b, w) :: r)

/-- Successive stores of a list of values from key `k` up. -/
def storeRun {α : Type} [DecidableEq α] (d : α) : Nat → List α → Sparse α → Sparse α
  | _, [], m => m
  | k, v :: vs, m => storeRun d (k + 1) vs (store d k v m)

end Sys2Proof.Machine
end

