-- ==== Sys2Proof/Machine/RegMap.lean ====
section
/-! DEFINITION. The register fields of the pages as the tables of spec/ list them (R34, R36, R45, R66 and the
register tables of every chapter): one row per field for the write rules, and one named field per row. -/
namespace Sys2Proof.Machine

/-- Access types of R46. -/
inductive RegTy | ro | rw | w1c | wo | rws | rwl
  deriving DecidableEq, Repr

/-- One field of a register table: `n` copies `stride` apart, and `n2` groups `stride2` apart. -/
structure RegRow where
  off : Nat
  n : Nat
  stride : Nat
  n2 : Nat
  stride2 : Nat
  lo : Nat
  width : Nat
  ty : RegTy
  rst : Nat
  img : Bool
  deriving DecidableEq, Repr

/-- A field of one register word: page index, byte offset, lowest bit, width. -/
structure Fld where
  page : Nat
  off : Nat
  lo : Nat
  width : Nat
  deriving DecidableEq, Repr

/-- The field rows of the SYS page (R34, R36). -/
def rowsSYS0 : List RegRow := [
  ⟨0x100, 9, 0x4, 1, 0x4, 0, 32, .ro, 0x0, false⟩,
  ⟨0x124, 1, 0x4, 1, 0x4, 0, 4, .ro, 0x0, false⟩,
  ⟨0x124, 1, 0x4, 1, 0x4, 8, 8, .ro, 0x0, false⟩,
  ⟨0x128, 1, 0x4, 1, 0x4, 0, 32, .ro, 0x0, false⟩,
  ⟨0x12c, 1, 0x4, 1, 0x4, 0, 16, .ro, 0x0, false⟩,
  ⟨0x130, 1, 0x4, 1, 0x4, 1, 9, .rwl, 0x0, false⟩,
  ⟨0x4, 1, 0x4, 1, 0x4, 0, 8, .ro, 0x0, false⟩,
  ⟨0x4, 1, 0x4, 1, 0x4, 8, 8, .ro, 0x44, false⟩,
  ⟨0x4, 1, 0x4, 1, 0x4, 16, 8, .ro, 0x9, false⟩,
  ⟨0x4, 1, 0x4, 1, 0x4, 24, 1, .ro, 0x1, false⟩,
  ⟨0x20, 1, 0x4, 1, 0x4, 0, 1, .w1c, 0x0, false⟩,
  ⟨0x140, 1, 0x4, 1, 0x4, 0, 32, .ro, 0x0, false⟩,
  ⟨0x144, 1, 0x4, 1, 0x4, 0, 32, .ro, 0x0, false⟩,
  ⟨0x148, 1, 0x4, 1, 0x4, 0, 32, .ro, 0x0, false⟩,
  ⟨0x150, 1, 0x4, 1, 0x4, 0, 32, .ro, 0xffffffff, false⟩,
  ⟨0x154, 1, 0x4, 1, 0x4, 0, 32, .ro, 0x7ff1f77, false⟩,
  ⟨0x158, 1, 0x4, 1, 0x4, 0, 32, .ro, 0x30fff, false⟩,
  ⟨0x15c, 5, 0x4, 1, 0x4, 0, 32, .ro, 0x0, false⟩]
def rowsSYS : List RegRow := rowsSYS0

/-- The field rows of the RRA page (R66). -/
def rowsRRA0 : List RegRow := [
  ⟨0x4, 1, 0x4, 1, 0x4, 0, 8, .ro, 0x8, false⟩,
  ⟨0x4, 1, 0x4, 1, 0x4, 8, 8, .ro, 0x20, false⟩,
  ⟨0x4, 1, 0x4, 1, 0x4, 16, 1, .ro, 0x1, false⟩,
  ⟨0x20, 1, 0x4, 1, 0x4, 0, 2, .w1c, 0x0, false⟩,
  ⟨0x100, 8, 0x10, 1, 0x4, 0, 32, .rwl, 0x0, true⟩,
  ⟨0x104, 8, 0x10, 1, 0x4, 0, 16, .rwl, 0x0, true⟩,
  ⟨0x104, 8, 0x10, 1, 0x4, 16, 12, .rwl, 0x0, true⟩,
  ⟨0x108, 8, 0x10, 1, 0x4, 0, 1, .rwl, 0x0, true⟩,
  ⟨0x108, 8, 0x10, 1, 0x4, 1, 3, .rwl, 0x0, true⟩,
  ⟨0x108, 8, 0x10, 1, 0x4, 4, 1, .rwl, 0x1, true⟩,
  ⟨0x108, 8, 0x10, 1, 0x4, 8, 4, .rwl, 0x0, true⟩,
  ⟨0x10c, 8, 0x10, 1, 0x4, 0, 32, .ro, 0x0, false⟩,
  ⟨0x200, 256, 0x4, 1, 0x4, 0, 3, .rwl, 0x0, true⟩,
  ⟨0x200, 256, 0x4, 1, 0x4, 4, 3, .rwl, 0x0, true⟩,
  ⟨0x600, 1, 0x4, 1, 0x4, 0, 32, .w1c, 0x0, false⟩]
def rowsRRA : List RegRow := rowsRRA0

/-- The field rows of the STR page (R119, R120). -/
def rowsSTR0 : List RegRow := [
  ⟨0x4, 1, 0x4, 1, 0x4, 8, 1, .ro, 0x1, false⟩,
  ⟨0x4, 1, 0x4, 1, 0x4, 9, 1, .ro, 0x1, false⟩,
  ⟨0x4, 1, 0x4, 1, 0x4, 10, 1, .ro, 0x1, false⟩,
  ⟨0x4, 1, 0x4, 1, 0x4, 16, 16, .ro, 0x100, false⟩,
  ⟨0x20, 1, 0x4, 1, 0x4, 0, 10, .w1c, 0x0, false⟩,
  ⟨0x100, 1, 0x4, 1, 0x4, 0, 22, .rwl, 0x3d090, true⟩,
  ⟨0x104, 1, 0x4, 1, 0x4, 0, 15, .rwl, 0x1388, true⟩,
  ⟨0x108, 1, 0x4, 1, 0x4, 0, 7, .rwl, 0x50, true⟩,
  ⟨0x10c, 1, 0x4, 1, 0x4, 0, 4, .rwl, 0x3, true⟩,
  ⟨0x110, 1, 0x4, 1, 0x4, 0, 1, .rwl, 0x0, true⟩,
  ⟨0x110, 1, 0x4, 1, 0x4, 1, 1, .rwl, 0x0, true⟩,
  ⟨0x110, 1, 0x4, 1, 0x4, 8, 8, .rwl, 0x19, true⟩,
  ⟨0x114, 1, 0x4, 1, 0x4, 0, 16, .rwl, 0x9c4, true⟩,
  ⟨0x118, 1, 0x4, 1, 0x4, 0, 5, .rw, 0x0, true⟩,
  ⟨0x118, 1, 0x4, 1, 0x4, 7, 1, .rw, 0x0, true⟩,
  ⟨0x11c, 1, 0x4, 1, 0x4, 0, 1, .ro, 0x0, false⟩,
  ⟨0x11c, 1, 0x4, 1, 0x4, 1, 1, .ro, 0x0, false⟩,
  ⟨0x11c, 1, 0x4, 1, 0x4, 2, 1, .ro, 0x0, false⟩,
  ⟨0x11c, 1, 0x4, 1, 0x4, 3, 1, .ro, 0x0, false⟩,
  ⟨0x11c, 1, 0x4, 1, 0x4, 4, 1, .ro, 0x0, false⟩,
  ⟨0x11c, 1, 0x4, 1, 0x4, 5, 1, .ro, 0x0, false⟩,
  ⟨0x120, 1, 0x4, 1, 0x4, 0, 22, .ro, 0x3d090, false⟩,
  ⟨0x124, 1, 0x4, 1, 0x4, 0, 32, .ro, 0x0, false⟩,
  ⟨0x128, 1, 0x4, 1, 0x4, 0, 16, .ro, 0x0, false⟩]
def rowsSTR1 : List RegRow := [
  ⟨0x12c, 1, 0x4, 1, 0x4, 0, 32, .ro, 0x0, false⟩,
  ⟨0x130, 1, 0x4, 1, 0x4, 0, 32, .ro, 0x0, false⟩,
  ⟨0x134, 1, 0x4, 1, 0x4, 0, 32, .ro, 0x0, false⟩,
  ⟨0x138, 1, 0x4, 1, 0x4, 0, 22, .ro, 0x0, false⟩,
  ⟨0x13c, 1, 0x4, 1, 0x4, 0, 22, .rw, 0x0, false⟩,
  ⟨0x140, 1, 0x4, 1, 0x4, 0, 32, .ro, 0x0, false⟩,
  ⟨0x144, 1, 0x4, 1, 0x4, 0, 4, .ro, 0x0, false⟩,
  ⟨0x148, 1, 0x4, 1, 0x4, 0, 32, .ro, 0x0, false⟩,
  ⟨0x14c, 1, 0x4, 1, 0x4, 0, 32, .ro, 0x0, false⟩,
  ⟨0x150, 1, 0x4, 1, 0x4, 0, 32, .ro, 0x0, false⟩,
  ⟨0x154, 1, 0x4, 1, 0x4, 0, 32, .ro, 0x0, false⟩,
  ⟨0x160, 1, 0x4, 1, 0x4, 0, 1, .rw, 0x0, false⟩,
  ⟨0x160, 1, 0x4, 1, 0x4, 1, 1, .rw, 0x0, false⟩,
  ⟨0x160, 1, 0x4, 1, 0x4, 2, 1, .wo, 0x0, false⟩,
  ⟨0x160, 1, 0x4, 1, 0x4, 3, 1, .rw, 0x0, false⟩,
  ⟨0x164, 1, 0x4, 1, 0x4, 0, 32, .rw, 0x0, false⟩,
  ⟨0x168, 1, 0x4, 1, 0x4, 0, 16, .rw, 0x0, false⟩,
  ⟨0x16c, 1, 0x4, 1, 0x4, 0, 32, .rw, 0x0, false⟩,
  ⟨0x170, 1, 0x4, 1, 0x4, 0, 32, .rw, 0x0, false⟩,
  ⟨0x174, 1, 0x4, 1, 0x4, 0, 4, .w1c, 0x0, false⟩,
  ⟨0x178, 1, 0x4, 1, 0x4, 0, 32, .ro, 0x0, false⟩]
def rowsSTR : List RegRow := rowsSTR0 ++ rowsSTR1

/-- The field rows of the BQ page (R121, R122). -/
def rowsBQ0 : List RegRow := [
  ⟨0x4, 1, 0x4, 1, 0x4, 8, 14, .ro, 0x2000, false⟩,
  ⟨0x800, 1, 0x4, 1, 0x4, 0, 32, .wo, 0x0, false⟩,
  ⟨0x804, 1, 0x4, 1, 0x4, 0, 32, .wo, 0x0, false⟩,
  ⟨0x808, 1, 0x4, 1, 0x4, 0, 16, .wo, 0x0, false⟩,
  ⟨0x808, 1, 0x4, 1, 0x4, 16, 5, .wo, 0x0, false⟩,
  ⟨0x80c, 1, 0x4, 1, 0x4, 0, 1, .ro, 0x0, false⟩,
  ⟨0x80c, 1, 0x4, 1, 0x4, 1, 1, .ro, 0x0, false⟩,
  ⟨0x80c, 1, 0x4, 1, 0x4, 2, 1, .ro, 0x0, false⟩,
  ⟨0x80c, 1, 0x4, 1, 0x4, 3, 1, .ro, 0x0, false⟩,
  ⟨0x80c, 1, 0x4, 1, 0x4, 4, 1, .ro, 0x0, false⟩,
  ⟨0x80c, 1, 0x4, 1, 0x4, 5, 1, .ro, 0x0, false⟩,
  ⟨0x100, 32, 0x20, 1, 0x4, 0, 9, .rw, 0x100, true⟩,
  ⟨0x100, 32, 0x20, 1, 0x4, 9, 1, .rw, 0x0, true⟩,
  ⟨0x100, 32, 0x20, 1, 0x4, 10, 1, .rw, 0x1, true⟩,
  ⟨0x100, 32, 0x20, 1, 0x4, 16, 8, .rw, 0x0, true⟩,
  ⟨0x100, 32, 0x20, 1, 0x4, 24, 8, .rw, 0x0, true⟩,
  ⟨0x104, 32, 0x20, 1, 0x4, 0, 9, .ro, 0x0, false⟩,
  ⟨0x104, 32, 0x20, 1, 0x4, 16, 1, .w1c, 0x0, false⟩,
  ⟨0x104, 32, 0x20, 1, 0x4, 17, 1, .ro, 0x0, false⟩,
  ⟨0x108, 32, 0x20, 1, 0x4, 0, 32, .rw, 0x0, false⟩,
  ⟨0x10c, 32, 0x20, 1, 0x4, 0, 1, .wo, 0x0, false⟩,
  ⟨0x10c, 32, 0x20, 1, 0x4, 1, 1, .wo, 0x0, false⟩,
  ⟨0x110, 32, 0x20, 1, 0x4, 0, 32, .ro, 0x0, false⟩,
  ⟨0x114, 32, 0x20, 1, 0x4, 0, 32, .ro, 0x0, false⟩]
def rowsBQ1 : List RegRow := [
  ⟨0x118, 32, 0x20, 1, 0x4, 0, 32, .ro, 0x0, false⟩,
  ⟨0x11c, 32, 0x20, 1, 0x4, 0, 32, .ro, 0x0, false⟩]
def rowsBQ : List RegRow := rowsBQ0 ++ rowsBQ1

/-- The field rows of the PAC page (R153, R154). -/
def rowsPAC0 : List RegRow := [
  ⟨0x4, 1, 0x4, 1, 0x4, 0, 8, .ro, 0x0, false⟩,
  ⟨0x4, 1, 0x4, 1, 0x4, 8, 1, .ro, 0x1, false⟩,
  ⟨0x4, 1, 0x4, 1, 0x4, 16, 8, .ro, 0x40, false⟩,
  ⟨0x4, 1, 0x4, 1, 0x4, 24, 8, .ro, 0x50, false⟩,
  ⟨0x20, 1, 0x4, 1, 0x4, 0, 3, .w1c, 0x0, false⟩,
  ⟨0x100, 1, 0x4, 1, 0x4, 9, 23, .rwl, 0x0, true⟩,
  ⟨0x104, 1, 0x4, 1, 0x4, 9, 23, .rwl, 0x1, true⟩,
  ⟨0x108, 1, 0x4, 1, 0x4, 1, 31, .rwl, 0x200, true⟩,
  ⟨0x10c, 1, 0x4, 1, 0x4, 2, 30, .rwl, 0x60000, true⟩,
  ⟨0x110, 1, 0x4, 1, 0x4, 8, 1, .rwl, 0x0, true⟩,
  ⟨0x110, 1, 0x4, 1, 0x4, 9, 1, .rwl, 0x0, true⟩,
  ⟨0x114, 1, 0x4, 1, 0x4, 12, 20, .rwl, 0x40000, true⟩,
  ⟨0x118, 4, 0x4, 1, 0x4, 0, 32, .rw, 0x0, true⟩,
  ⟨0x128, 1, 0x4, 1, 0x4, 0, 32, .ro, 0x0, false⟩,
  ⟨0x12c, 1, 0x4, 1, 0x4, 0, 32, .ro, 0x0, false⟩,
  ⟨0x130, 1, 0x4, 1, 0x4, 0, 32, .ro, 0x0, false⟩,
  ⟨0x134, 1, 0x4, 1, 0x4, 0, 7, .ro, 0x0, false⟩,
  ⟨0x134, 1, 0x4, 1, 0x4, 8, 1, .ro, 0x0, false⟩,
  ⟨0x138, 1, 0x4, 1, 0x4, 0, 32, .ro, 0x0, false⟩,
  ⟨0x13c, 1, 0x4, 1, 0x4, 0, 32, .ro, 0x0, false⟩,
  ⟨0x140, 1, 0x4, 1, 0x4, 0, 1, .rwl, 0x0, false⟩,
  ⟨0x140, 1, 0x4, 1, 0x4, 1, 1, .ro, 0x0, false⟩,
  ⟨0x144, 1, 0x4, 1, 0x4, 0, 22, .ro, 0x0, false⟩,
  ⟨0x148, 1, 0x4, 1, 0x4, 0, 22, .rw, 0x0, false⟩]
def rowsPAC : List RegRow := rowsPAC0

/-- The field rows of the LNK page (R236, R695). -/
def rowsLNK0 : List RegRow := [
  ⟨0x100, 1, 0x4, 1, 0x4, 0, 5, .rwl, 0x5, true⟩,
  ⟨0x4, 1, 0x4, 1, 0x4, 0, 8, .ro, 0x2, false⟩,
  ⟨0x4, 1, 0x4, 1, 0x4, 8, 8, .ro, 0x2, false⟩,
  ⟨0x20, 1, 0x4, 1, 0x4, 0, 4, .w1c, 0x0, false⟩,
  ⟨0x104, 1, 0x4, 1, 0x4, 0, 1, .ro, 0x0, false⟩,
  ⟨0x104, 1, 0x4, 1, 0x4, 1, 1, .ro, 0x0, false⟩,
  ⟨0x104, 1, 0x4, 1, 0x4, 2, 1, .ro, 0x0, false⟩,
  ⟨0x104, 1, 0x4, 1, 0x4, 3, 1, .ro, 0x0, false⟩,
  ⟨0x108, 1, 0x4, 1, 0x4, 0, 16, .ro, 0x0, false⟩,
  ⟨0x108, 1, 0x4, 1, 0x4, 16, 16, .ro, 0x0, false⟩,
  ⟨0x10c, 1, 0x4, 1, 0x4, 0, 16, .ro, 0x0, false⟩,
  ⟨0x10c, 1, 0x4, 1, 0x4, 16, 16, .ro, 0x0, false⟩]
def rowsLNK : List RegRow := rowsLNK0

/-- The field rows of the LSW pages (R239, R240). -/
def rowsLSW0 : List RegRow := [
  ⟨0x4, 1, 0x4, 1, 0x4, 0, 8, .ro, 0x8, false⟩,
  ⟨0x4, 1, 0x4, 1, 0x4, 8, 2, .ro, 0x0, false⟩,
  ⟨0x4, 1, 0x4, 1, 0x4, 10, 1, .ro, 0x0, false⟩,
  ⟨0x4, 1, 0x4, 1, 0x4, 11, 1, .ro, 0x1, false⟩,
  ⟨0x4, 1, 0x4, 1, 0x4, 16, 8, .ro, 0x0, false⟩,
  ⟨0x20, 1, 0x4, 1, 0x4, 0, 8, .w1c, 0x0, false⟩,
  ⟨0x100, 8, 0x80, 1, 0x4, 0, 1, .rws, 0x0, false⟩,
  ⟨0x100, 8, 0x80, 1, 0x4, 1, 2, .rws, 0x0, false⟩,
  ⟨0x100, 8, 0x80, 1, 0x4, 3, 1, .rw, 0x1, true⟩,
  ⟨0x100, 8, 0x80, 1, 0x4, 4, 1, .rw, 0x0, true⟩,
  ⟨0x100, 8, 0x80, 1, 0x4, 5, 1, .rwl, 0x1, true⟩,
  ⟨0x100, 8, 0x80, 1, 0x4, 6, 2, .rwl, 0x1, true⟩,
  ⟨0x100, 8, 0x80, 1, 0x4, 8, 2, .rw, 0x0, true⟩,
  ⟨0x104, 8, 0x80, 1, 0x4, 0, 13, .rws, 0x0, false⟩,
  ⟨0x104, 8, 0x80, 1, 0x4, 16, 2, .rw, 0x0, true⟩,
  ⟨0x104, 8, 0x80, 1, 0x4, 18, 1, .rw, 0x1, true⟩,
  ⟨0x104, 8, 0x80, 1, 0x4, 20, 12, .rw, 0x0, true⟩,
  ⟨0x108, 8, 0x80, 1, 0x4, 0, 4, .rwl, 0x8, true⟩,
  ⟨0x108, 8, 0x80, 1, 0x4, 8, 8, .rwl, 0x0, true⟩,
  ⟨0x108, 8, 0x80, 1, 0x4, 16, 4, .rwl, 0x3, true⟩,
  ⟨0x108, 8, 0x80, 1, 0x4, 24, 8, .rwl, 0xa, true⟩,
  ⟨0x10c, 8, 0x80, 1, 0x4, 0, 8, .rwl, 0x0, true⟩,
  ⟨0x10c, 8, 0x80, 1, 0x4, 8, 8, .rwl, 0xa, true⟩,
  ⟨0x10c, 8, 0x80, 1, 0x4, 16, 8, .rwl, 0x14, true⟩]
def rowsLSW1 : List RegRow := [
  ⟨0x110, 8, 0x80, 1, 0x4, 0, 4, .ro, 0x0, false⟩,
  ⟨0x110, 8, 0x80, 1, 0x4, 4, 4, .ro, 0x3, false⟩,
  ⟨0x110, 8, 0x80, 1, 0x4, 8, 1, .ro, 0x0, false⟩,
  ⟨0x110, 8, 0x80, 1, 0x4, 9, 1, .ro, 0x0, false⟩,
  ⟨0x110, 8, 0x80, 1, 0x4, 10, 1, .ro, 0x0, false⟩,
  ⟨0x110, 8, 0x80, 1, 0x4, 11, 1, .ro, 0x0, false⟩,
  ⟨0x110, 8, 0x80, 1, 0x4, 12, 1, .ro, 0x0, false⟩,
  ⟨0x114, 8, 0x80, 1, 0x4, 0, 13, .w1c, 0x0, false⟩,
  ⟨0x118, 8, 0x80, 1, 0x4, 0, 16, .ro, 0x0, false⟩,
  ⟨0x118, 8, 0x80, 1, 0x4, 16, 16, .ro, 0x0, false⟩,
  ⟨0x11c, 8, 0x80, 1, 0x4, 0, 16, .ro, 0x0, false⟩,
  ⟨0x11c, 8, 0x80, 1, 0x4, 16, 16, .ro, 0x0, false⟩,
  ⟨0x120, 8, 0x80, 1, 0x4, 0, 16, .ro, 0x0, false⟩,
  ⟨0x120, 8, 0x80, 1, 0x4, 16, 16, .ro, 0x0, false⟩,
  ⟨0x124, 8, 0x80, 1, 0x4, 0, 16, .ro, 0x0, false⟩]
def rowsLSW : List RegRow := rowsLSW0 ++ rowsLSW1

/-- The field rows of the LSWC page (R242). -/
def rowsLSWC0 : List RegRow := [
  ⟨0x4, 1, 0x4, 1, 0x4, 0, 8, .ro, 0x0, false⟩,
  ⟨0x4, 1, 0x4, 1, 0x4, 8, 8, .ro, 0x38, false⟩,
  ⟨0x4, 1, 0x4, 1, 0x4, 16, 4, .ro, 0x4, false⟩,
  ⟨0x4, 1, 0x4, 1, 0x4, 20, 4, .ro, 0x4, false⟩,
  ⟨0x100, 4, 0x10, 4, 0x4, 0, 32, .rwl, 0x0, true⟩,
  ⟨0x140, 1, 0x4, 1, 0x4, 0, 26, .rwl, 0x0, true⟩,
  ⟨0x144, 1, 0x4, 1, 0x4, 0, 13, .rwl, 0x0, true⟩,
  ⟨0x148, 1, 0x4, 1, 0x4, 0, 8, .rwl, 0xa, true⟩,
  ⟨0x148, 1, 0x4, 1, 0x4, 8, 8, .rwl, 0x19, true⟩,
  ⟨0x14c, 1, 0x4, 1, 0x4, 0, 4, .rwl, 0x0, true⟩,
  ⟨0x150, 4, 0x10, 1, 0x4, 0, 2, .rw, 0x0, true⟩,
  ⟨0x150, 4, 0x10, 1, 0x4, 2, 1, .rw, 0x0, true⟩,
  ⟨0x150, 4, 0x10, 1, 0x4, 3, 1, .rw, 0x0, true⟩,
  ⟨0x150, 4, 0x10, 1, 0x4, 8, 8, .rw, 0x14, true⟩,
  ⟨0x150, 4, 0x10, 1, 0x4, 16, 16, .rw, 0x0, true⟩,
  ⟨0x154, 4, 0x10, 1, 0x4, 0, 13, .rw, 0x1f4, true⟩,
  ⟨0x158, 4, 0x10, 1, 0x4, 0, 20, .rw, 0x9c40, true⟩,
  ⟨0x15c, 4, 0x10, 1, 0x4, 0, 20, .rw, 0x0, true⟩,
  ⟨0x190, 4, 0x4, 1, 0x4, 0, 16, .ro, 0x0, false⟩,
  ⟨0x190, 4, 0x4, 1, 0x4, 16, 16, .ro, 0x0, false⟩]
def rowsLSWC : List RegRow := rowsLSWC0

/-- The field rows of the MSH page (R266, R267). -/
def rowsMSH0 : List RegRow := [
  ⟨0x4, 1, 0x4, 1, 0x4, 0, 8, .ro, 0x0, false⟩,
  ⟨0x4, 1, 0x4, 1, 0x4, 8, 8, .ro, 0x5c, false⟩,
  ⟨0x4, 1, 0x4, 1, 0x4, 16, 4, .ro, 0x4, false⟩,
  ⟨0x20, 1, 0x4, 1, 0x4, 0, 6, .w1c, 0x0, false⟩,
  ⟨0x100, 1, 0x4, 1, 0x4, 0, 8, .rwl, 0xf0, true⟩,
  ⟨0x104, 1, 0x4, 1, 0x4, 0, 10, .rwl, 0x12c, true⟩,
  ⟨0x108, 1, 0x4, 1, 0x4, 0, 12, .rwl, 0x708, true⟩,
  ⟨0x10c, 1, 0x4, 1, 0x4, 0, 12, .rwl, 0x640, true⟩,
  ⟨0x10c, 1, 0x4, 1, 0x4, 16, 12, .rwl, 0x6a4, true⟩,
  ⟨0x110, 1, 0x4, 1, 0x4, 0, 8, .rwl, 0x5, true⟩,
  ⟨0x114, 1, 0x4, 1, 0x4, 0, 12, .rwl, 0x50, true⟩,
  ⟨0x114, 1, 0x4, 1, 0x4, 16, 1, .rwl, 0x1, true⟩,
  ⟨0x118, 1, 0x4, 1, 0x4, 0, 12, .ro, 0x50, false⟩,
  ⟨0x11c, 1, 0x4, 1, 0x4, 0, 8, .rwl, 0x4b, true⟩,
  ⟨0x11c, 1, 0x4, 1, 0x4, 8, 8, .rwl, 0x1e, true⟩,
  ⟨0x11c, 1, 0x4, 1, 0x4, 16, 8, .rwl, 0x9, true⟩,
  ⟨0x120, 1, 0x4, 1, 0x4, 0, 8, .rwl, 0x14, true⟩,
  ⟨0x120, 1, 0x4, 1, 0x4, 8, 8, .rwl, 0x64, true⟩,
  ⟨0x120, 1, 0x4, 1, 0x4, 16, 8, .rwl, 0x2, true⟩,
  ⟨0x120, 1, 0x4, 1, 0x4, 24, 4, .rwl, 0x0, true⟩,
  ⟨0x124, 1, 0x4, 1, 0x4, 0, 16, .rwl, 0x32, true⟩,
  ⟨0x128, 1, 0x4, 1, 0x4, 0, 1, .ro, 0x0, false⟩,
  ⟨0x128, 1, 0x4, 1, 0x4, 1, 1, .ro, 0x0, false⟩,
  ⟨0x128, 1, 0x4, 1, 0x4, 2, 1, .ro, 0x0, false⟩]
def rowsMSH1 : List RegRow := [
  ⟨0x128, 1, 0x4, 1, 0x4, 8, 8, .ro, 0x0, false⟩,
  ⟨0x12c, 1, 0x4, 1, 0x4, 0, 10, .ro, 0x0, false⟩,
  ⟨0x12c, 1, 0x4, 1, 0x4, 16, 9, .ro, 0x0, false⟩,
  ⟨0x130, 1, 0x4, 1, 0x4, 0, 32, .ro, 0x0, false⟩,
  ⟨0x134, 1, 0x4, 1, 0x4, 0, 32, .ro, 0x0, false⟩,
  ⟨0x138, 1, 0x4, 1, 0x4, 0, 16, .ro, 0x0, false⟩,
  ⟨0x140, 6, 0x4, 1, 0x4, 0, 32, .rwl, 0x55555555, true⟩]
def rowsMSH : List RegRow := rowsMSH0 ++ rowsMSH1

/-- The field rows of the VDB pages (R300, R301). -/
def rowsVDB0 : List RegRow := [
  ⟨0x4, 1, 0x4, 1, 0x4, 0, 8, .ro, 0x4, false⟩,
  ⟨0x4, 1, 0x4, 1, 0x4, 8, 1, .ro, 0x1, false⟩,
  ⟨0x4, 1, 0x4, 1, 0x4, 9, 1, .ro, 0x0, false⟩,
  ⟨0x4, 1, 0x4, 1, 0x4, 16, 8, .ro, 0xc, false⟩,
  ⟨0x20, 1, 0x4, 1, 0x4, 0, 5, .w1c, 0x0, false⟩,
  ⟨0x40, 1, 0x4, 1, 0x4, 0, 2, .rwl, 0x1, true⟩,
  ⟨0x40, 1, 0x4, 1, 0x4, 8, 7, .rwl, 0x78, true⟩,
  ⟨0x40, 1, 0x4, 1, 0x4, 16, 8, .rwl, 0xa, true⟩,
  ⟨0x40, 1, 0x4, 1, 0x4, 24, 1, .rw, 0x0, true⟩,
  ⟨0x40, 1, 0x4, 1, 0x4, 25, 1, .rw, 0x0, true⟩,
  ⟨0x44, 1, 0x4, 1, 0x4, 0, 4, .rwl, 0x3, true⟩,
  ⟨0x44, 1, 0x4, 1, 0x4, 8, 8, .rwl, 0xa, true⟩,
  ⟨0x44, 1, 0x4, 1, 0x4, 16, 8, .rwl, 0x14, true⟩,
  ⟨0x44, 1, 0x4, 1, 0x4, 24, 8, .rwl, 0xa, true⟩,
  ⟨0x48, 1, 0x4, 1, 0x4, 0, 4, .ro, 0x0, false⟩,
  ⟨0x48, 1, 0x4, 1, 0x4, 4, 4, .ro, 0x0, false⟩,
  ⟨0x48, 1, 0x4, 1, 0x4, 8, 4, .ro, 0x0, false⟩,
  ⟨0x48, 1, 0x4, 1, 0x4, 12, 4, .ro, 0x0, false⟩,
  ⟨0x48, 1, 0x4, 1, 0x4, 16, 4, .ro, 0x3, false⟩,
  ⟨0x48, 1, 0x4, 1, 0x4, 20, 1, .ro, 0x0, false⟩,
  ⟨0x4c, 1, 0x4, 1, 0x4, 0, 11, .w1c, 0x0, false⟩,
  ⟨0x50, 1, 0x4, 1, 0x4, 0, 13, .ro, 0x0, false⟩,
  ⟨0x50, 1, 0x4, 1, 0x4, 16, 16, .ro, 0x0, false⟩,
  ⟨0x54, 1, 0x4, 1, 0x4, 0, 16, .ro, 0x0, false⟩]
def rowsVDB1 : List RegRow := [
  ⟨0x54, 1, 0x4, 1, 0x4, 16, 8, .ro, 0x0, false⟩,
  ⟨0x58, 1, 0x4, 1, 0x4, 0, 16, .ro, 0x0, false⟩,
  ⟨0x58, 1, 0x4, 1, 0x4, 16, 16, .ro, 0x0, false⟩,
  ⟨0x100, 4, 0x80, 1, 0x4, 0, 1, .rws, 0x0, false⟩,
  ⟨0x100, 4, 0x80, 1, 0x4, 1, 2, .rws, 0x0, false⟩,
  ⟨0x100, 4, 0x80, 1, 0x4, 3, 6, .rws, 0x0, false⟩,
  ⟨0x100, 4, 0x80, 1, 0x4, 9, 1, .rw, 0x0, true⟩,
  ⟨0x100, 4, 0x80, 1, 0x4, 10, 1, .rw, 0x1, true⟩,
  ⟨0x100, 4, 0x80, 1, 0x4, 12, 1, .rw, 0x1, true⟩,
  ⟨0x104, 4, 0x80, 1, 0x4, 0, 12, .rws, 0x0, false⟩,
  ⟨0x104, 4, 0x80, 1, 0x4, 16, 13, .rws, 0x0, false⟩,
  ⟨0x108, 4, 0x80, 1, 0x4, 0, 8, .rw, 0x0, true⟩,
  ⟨0x108, 4, 0x80, 1, 0x4, 8, 9, .rw, 0x0, true⟩,
  ⟨0x108, 4, 0x80, 1, 0x4, 17, 1, .rw, 0x0, true⟩,
  ⟨0x108, 4, 0x80, 1, 0x4, 18, 2, .rw, 0x0, true⟩,
  ⟨0x10c, 4, 0x80, 1, 0x4, 0, 9, .rw, 0xa0, true⟩,
  ⟨0x10c, 4, 0x80, 1, 0x4, 16, 3, .rw, 0x3, true⟩,
  ⟨0x110, 4, 0x80, 1, 0x4, 0, 4, .rwl, 0x3, true⟩,
  ⟨0x110, 4, 0x80, 1, 0x4, 8, 8, .rwl, 0xa, true⟩,
  ⟨0x110, 4, 0x80, 1, 0x4, 16, 8, .rwl, 0x14, true⟩,
  ⟨0x110, 4, 0x80, 1, 0x4, 24, 8, .rwl, 0xa, true⟩,
  ⟨0x114, 4, 0x80, 1, 0x4, 0, 4, .ro, 0x0, false⟩,
  ⟨0x114, 4, 0x80, 1, 0x4, 4, 4, .ro, 0x3, false⟩,
  ⟨0x114, 4, 0x80, 1, 0x4, 8, 1, .ro, 0x0, false⟩]
def rowsVDB2 : List RegRow := [
  ⟨0x114, 4, 0x80, 1, 0x4, 9, 1, .ro, 0x0, false⟩,
  ⟨0x114, 4, 0x80, 1, 0x4, 10, 1, .ro, 0x0, false⟩,
  ⟨0x118, 4, 0x80, 1, 0x4, 0, 16, .w1c, 0x0, false⟩,
  ⟨0x11c, 4, 0x80, 1, 0x4, 0, 13, .ro, 0x0, false⟩,
  ⟨0x11c, 4, 0x80, 1, 0x4, 16, 13, .ro, 0x0, false⟩,
  ⟨0x120, 4, 0x80, 1, 0x4, 0, 16, .ro, 0x0, false⟩,
  ⟨0x120, 4, 0x80, 1, 0x4, 16, 16, .ro, 0x0, false⟩,
  ⟨0x124, 4, 0x80, 1, 0x4, 0, 16, .ro, 0x0, false⟩,
  ⟨0x124, 4, 0x80, 1, 0x4, 16, 16, .ro, 0x0, false⟩]
def rowsVDB : List RegRow := rowsVDB0 ++ rowsVDB1 ++ rowsVDB2

/-- The field rows of the VDC page (R302). -/
def rowsVDC0 : List RegRow := [
  ⟨0x4, 1, 0x4, 1, 0x4, 0, 8, .ro, 0x0, false⟩,
  ⟨0x4, 1, 0x4, 1, 0x4, 8, 8, .ro, 0x10, false⟩,
  ⟨0x4, 1, 0x4, 1, 0x4, 16, 4, .ro, 0x4, false⟩,
  ⟨0x4, 1, 0x4, 1, 0x4, 20, 8, .ro, 0x40, false⟩,
  ⟨0x100, 1, 0x4, 1, 0x4, 0, 8, .rwl, 0x0, true⟩,
  ⟨0x104, 1, 0x4, 1, 0x4, 0, 8, .rwl, 0xa, true⟩,
  ⟨0x104, 1, 0x4, 1, 0x4, 8, 8, .rwl, 0x14, true⟩,
  ⟨0x108, 1, 0x4, 1, 0x4, 0, 6, .rwl, 0x0, true⟩,
  ⟨0x108, 1, 0x4, 1, 0x4, 8, 12, .rwl, 0x0, true⟩,
  ⟨0x110, 4, 0x4, 1, 0x4, 0, 32, .rwl, 0x0, true⟩,
  ⟨0x120, 1, 0x4, 1, 0x4, 0, 6, .ro, 0x0, false⟩,
  ⟨0x120, 1, 0x4, 1, 0x4, 8, 4, .ro, 0x0, false⟩]
def rowsVDC : List RegRow := rowsVDC0

/-- The field rows of the HB pages (R323, R324). -/
def rowsHB0 : List RegRow := [
  ⟨0x4, 1, 0x4, 1, 0x4, 0, 8, .ro, 0x6, false⟩,
  ⟨0x4, 1, 0x4, 1, 0x4, 8, 1, .ro, 0x1, false⟩,
  ⟨0x4, 1, 0x4, 1, 0x4, 9, 1, .ro, 0x0, false⟩,
  ⟨0x20, 1, 0x4, 1, 0x4, 0, 6, .w1c, 0x0, false⟩,
  ⟨0x100, 6, 0x80, 1, 0x4, 0, 3, .rws, 0x0, false⟩,
  ⟨0x100, 6, 0x80, 1, 0x4, 3, 1, .rw, 0x1, true⟩,
  ⟨0x100, 6, 0x80, 1, 0x4, 4, 1, .rw, 0x0, true⟩,
  ⟨0x100, 6, 0x80, 1, 0x4, 5, 1, .rw, 0x1, true⟩,
  ⟨0x100, 6, 0x80, 1, 0x4, 6, 2, .rwl, 0x1, true⟩,
  ⟨0x104, 6, 0x80, 1, 0x4, 0, 13, .rws, 0x0, false⟩,
  ⟨0x104, 6, 0x80, 1, 0x4, 16, 13, .rw, 0x1000, true⟩,
  ⟨0x108, 6, 0x80, 1, 0x4, 0, 8, .rw, 0xc8, true⟩,
  ⟨0x108, 6, 0x80, 1, 0x4, 8, 4, .rwl, 0x4, true⟩,
  ⟨0x10c, 6, 0x80, 1, 0x4, 0, 32, .rwl, 0xa140a03, true⟩,
  ⟨0x110, 6, 0x80, 1, 0x4, 0, 8, .rw, 0x14, true⟩,
  ⟨0x110, 6, 0x80, 1, 0x4, 8, 8, .rw, 0x32, true⟩,
  ⟨0x110, 6, 0x80, 1, 0x4, 16, 8, .rw, 0x28, true⟩,
  ⟨0x110, 6, 0x80, 1, 0x4, 24, 8, .rw, 0xa, true⟩,
  ⟨0x114, 6, 0x80, 1, 0x4, 0, 6, .rw, 0x0, true⟩,
  ⟨0x114, 6, 0x80, 1, 0x4, 6, 1, .rw, 0x0, true⟩,
  ⟨0x114, 6, 0x80, 1, 0x4, 7, 1, .rw, 0x0, true⟩,
  ⟨0x114, 6, 0x80, 1, 0x4, 8, 8, .rw, 0x64, true⟩,
  ⟨0x118, 6, 0x80, 1, 0x4, 0, 8, .rw, 0xa, true⟩,
  ⟨0x118, 6, 0x80, 1, 0x4, 8, 5, .rw, 0x4, true⟩]
def rowsHB1 : List RegRow := [
  ⟨0x118, 6, 0x80, 1, 0x4, 13, 1, .rw, 0x0, true⟩,
  ⟨0x118, 6, 0x80, 1, 0x4, 14, 1, .rw, 0x1, true⟩,
  ⟨0x11c, 6, 0x80, 1, 0x4, 0, 15, .ro, 0x30, false⟩,
  ⟨0x120, 6, 0x80, 1, 0x4, 0, 15, .w1c, 0x0, false⟩,
  ⟨0x124, 6, 0x80, 1, 0x4, 0, 32, .ro, 0x0, false⟩,
  ⟨0x128, 6, 0x80, 1, 0x4, 0, 16, .ro, 0x0, false⟩,
  ⟨0x12c, 6, 0x80, 1, 0x4, 0, 32, .ro, 0x0, false⟩,
  ⟨0x130, 6, 0x80, 1, 0x4, 0, 32, .rws, 0x0, false⟩,
  ⟨0x134, 6, 0x80, 1, 0x4, 0, 1, .rws, 0x0, false⟩,
  ⟨0x138, 6, 0x80, 1, 0x4, 0, 16, .ro, 0x0, false⟩,
  ⟨0x138, 6, 0x80, 1, 0x4, 16, 16, .ro, 0x0, false⟩,
  ⟨0x13c, 6, 0x80, 1, 0x4, 0, 32, .ro, 0x0, false⟩]
def rowsHB : List RegRow := rowsHB0 ++ rowsHB1

/-- The field rows of the HBC page (R325). -/
def rowsHBC0 : List RegRow := [
  ⟨0x4, 1, 0x4, 1, 0x4, 8, 8, .ro, 0xc, false⟩,
  ⟨0x100, 1, 0x4, 1, 0x4, 0, 6, .rwl, 0x0, true⟩,
  ⟨0x104, 4, 0x4, 1, 0x4, 0, 24, .rwl, 0x0, true⟩,
  ⟨0x114, 1, 0x4, 1, 0x4, 0, 8, .rwl, 0xa, true⟩]
def rowsHBC : List RegRow := rowsHBC0

/-- The field rows of the LDS page (R354, R355). -/
def rowsLDS0 : List RegRow := [
  ⟨0x4, 1, 0x4, 1, 0x4, 0, 8, .ro, 0x30, false⟩,
  ⟨0x4, 1, 0x4, 1, 0x4, 8, 8, .ro, 0x18, false⟩,
  ⟨0x30, 1, 0x4, 1, 0x4, 0, 16, .w1c, 0x0, false⟩,
  ⟨0x30, 1, 0x4, 1, 0x4, 16, 1, .w1c, 0x0, false⟩,
  ⟨0x34, 1, 0x4, 1, 0x4, 0, 17, .rw, 0x0, true⟩,
  ⟨0x38, 1, 0x4, 1, 0x4, 0, 16, .w1c, 0x0, false⟩,
  ⟨0x3c, 1, 0x4, 1, 0x4, 0, 8, .rwl, 0xff, true⟩,
  ⟨0x40, 1, 0x4, 1, 0x4, 0, 32, .rw, 0xffffffff, true⟩,
  ⟨0x44, 1, 0x4, 1, 0x4, 0, 16, .rw, 0xffff, true⟩,
  ⟨0x48, 1, 0x4, 1, 0x4, 0, 16, .ro, 0xffff, false⟩,
  ⟨0x48, 1, 0x4, 1, 0x4, 16, 6, .ro, 0x0, false⟩,
  ⟨0x48, 1, 0x4, 1, 0x4, 24, 1, .ro, 0x0, false⟩,
  ⟨0x4c, 1, 0x4, 1, 0x4, 0, 12, .rw, 0x3c, true⟩,
  ⟨0x50, 1, 0x4, 1, 0x4, 0, 8, .rwl, 0xa, true⟩,
  ⟨0x60, 4, 0x10, 3, 0x4, 0, 32, .rwl, 0x0, true⟩,
  ⟨0x100, 48, 0x40, 1, 0x4, 0, 1, .rws, 0x0, false⟩,
  ⟨0x100, 48, 0x40, 1, 0x4, 1, 1, .rw, 0x1, true⟩,
  ⟨0x100, 48, 0x40, 1, 0x4, 2, 1, .rw, 0x1, true⟩,
  ⟨0x100, 48, 0x40, 1, 0x4, 3, 1, .rw, 0x1, true⟩,
  ⟨0x100, 48, 0x40, 1, 0x4, 4, 2, .rw, 0x0, true⟩,
  ⟨0x100, 48, 0x40, 1, 0x4, 8, 8, .rw, 0x0, true⟩,
  ⟨0x100, 48, 0x40, 1, 0x4, 16, 12, .rw, 0x0, true⟩,
  ⟨0x104, 48, 0x40, 1, 0x4, 0, 10, .rws, 0x0, false⟩,
  ⟨0x104, 48, 0x40, 1, 0x4, 16, 16, .rws, 0x0, false⟩]
def rowsLDS1 : List RegRow := [
  ⟨0x108, 48, 0x40, 1, 0x4, 0, 8, .rw, 0x3c, true⟩,
  ⟨0x108, 48, 0x40, 1, 0x4, 8, 8, .rw, 0xa, true⟩,
  ⟨0x10c, 48, 0x40, 1, 0x4, 0, 8, .ro, 0x0, false⟩,
  ⟨0x110, 48, 0x40, 1, 0x4, 0, 6, .w1c, 0x0, false⟩,
  ⟨0x114, 48, 0x40, 1, 0x4, 0, 12, .ro, 0x0, false⟩,
  ⟨0x114, 48, 0x40, 1, 0x4, 16, 16, .ro, 0x0, false⟩,
  ⟨0x118, 48, 0x40, 1, 0x4, 0, 16, .ro, 0x0, false⟩,
  ⟨0x11c, 48, 0x40, 1, 0x4, 0, 10, .ro, 0x0, false⟩]
def rowsLDS : List RegRow := rowsLDS0 ++ rowsLDS1

/-- The field rows of the LMX page (R356, R357). -/
def rowsLMX0 : List RegRow := [
  ⟨0x4, 1, 0x4, 1, 0x4, 0, 8, .ro, 0x10, false⟩,
  ⟨0x4, 1, 0x4, 1, 0x4, 8, 8, .ro, 0x20, false⟩,
  ⟨0x4, 1, 0x4, 1, 0x4, 16, 8, .ro, 0x40, false⟩,
  ⟨0x20, 1, 0x4, 1, 0x4, 0, 19, .w1c, 0x0, false⟩,
  ⟨0x30, 1, 0x4, 1, 0x4, 0, 5, .rwl, 0x0, true⟩,
  ⟨0x30, 1, 0x4, 1, 0x4, 8, 6, .rwl, 0x0, true⟩,
  ⟨0x30, 1, 0x4, 1, 0x4, 16, 2, .rwl, 0x0, true⟩,
  ⟨0x30, 1, 0x4, 1, 0x4, 18, 1, .rwl, 0x0, true⟩,
  ⟨0x34, 1, 0x4, 1, 0x4, 0, 14, .rwl, 0x271, true⟩,
  ⟨0x34, 1, 0x4, 1, 0x4, 16, 8, .rwl, 0x14, true⟩,
  ⟨0x38, 1, 0x4, 1, 0x4, 0, 8, .rw, 0xa, true⟩,
  ⟨0x3c, 1, 0x4, 1, 0x4, 0, 32, .rwl, 0xa140a03, true⟩,
  ⟨0x40, 1, 0x4, 1, 0x4, 0, 16, .ro, 0x0, false⟩,
  ⟨0x50, 4, 0x4, 1, 0x4, 0, 32, .rwl, 0x0, true⟩,
  ⟨0x100, 16, 0x80, 1, 0x4, 0, 1, .rws, 0x0, false⟩,
  ⟨0x104, 16, 0x80, 1, 0x4, 0, 11, .ro, 0x30, false⟩,
  ⟨0x108, 16, 0x80, 1, 0x4, 0, 8, .w1c, 0x0, false⟩,
  ⟨0x10c, 16, 0x80, 1, 0x4, 0, 12, .ro, 0x0, false⟩,
  ⟨0x10c, 16, 0x80, 1, 0x4, 16, 16, .ro, 0x0, false⟩,
  ⟨0x110, 16, 0x80, 1, 0x4, 0, 16, .ro, 0x0, false⟩,
  ⟨0x140, 1, 0x80, 1, 0x4, 0, 6, .rws, 0x0, false⟩,
  ⟨0x140, 1, 0x80, 1, 0x4, 8, 1, .rws, 0x0, false⟩,
  ⟨0x140, 1, 0x80, 1, 0x4, 9, 1, .rws, 0x0, false⟩,
  ⟨0x144, 1, 0x80, 1, 0x4, 0, 25, .rws, 0x0, false⟩]
def rowsLMX1 : List RegRow := [
  ⟨0x148, 1, 0x80, 1, 0x4, 0, 6, .ro, 0x0, false⟩]
def rowsLMX : List RegRow := rowsLMX0 ++ rowsLMX1

/-- The field rows of the LCAL page (R358). -/
def rowsLCAL0 : List RegRow := [
  ⟨0x4, 1, 0x4, 1, 0x4, 16, 9, .ro, 0x100, false⟩,
  ⟨0x20, 1, 0x4, 1, 0x4, 0, 1, .w1c, 0x0, false⟩,
  ⟨0x100, 1, 0x4, 1, 0x4, 0, 1, .rw, 0x0, true⟩,
  ⟨0x100, 1, 0x4, 1, 0x4, 1, 1, .rw, 0x0, true⟩,
  ⟨0x104, 1, 0x4, 1, 0x4, 0, 8, .ro, 0x0, false⟩,
  ⟨0x104, 1, 0x4, 1, 0x4, 16, 16, .ro, 0x0, false⟩]
def rowsLCAL : List RegRow := rowsLCAL0

/-- The field rows of the DIN pages (R371, R372). -/
def rowsDIN0 : List RegRow := [
  ⟨0x4, 1, 0x4, 1, 0x4, 0, 8, .ro, 0x20, false⟩,
  ⟨0x4, 1, 0x4, 1, 0x4, 8, 1, .ro, 0x0, false⟩,
  ⟨0x4, 1, 0x4, 1, 0x4, 9, 1, .ro, 0x1, false⟩,
  ⟨0x4, 1, 0x4, 1, 0x4, 10, 1, .ro, 0x1, false⟩,
  ⟨0x20, 1, 0x4, 1, 0x4, 0, 32, .w1c, 0x0, false⟩,
  ⟨0x30, 1, 0x4, 1, 0x4, 0, 32, .ro, 0x0, false⟩,
  ⟨0x34, 1, 0x4, 1, 0x4, 0, 32, .ro, 0x0, false⟩,
  ⟨0x38, 1, 0x4, 1, 0x4, 0, 5, .rw, 0x0, true⟩,
  ⟨0x38, 1, 0x4, 1, 0x4, 7, 1, .rw, 0x0, true⟩,
  ⟨0x3c, 1, 0x4, 1, 0x4, 0, 10, .rw, 0x64, true⟩,
  ⟨0x3c, 1, 0x4, 1, 0x4, 16, 8, .rw, 0xa, true⟩,
  ⟨0x100, 32, 0x10, 1, 0x4, 0, 2, .rw, 0x0, true⟩,
  ⟨0x100, 32, 0x10, 1, 0x4, 2, 1, .rw, 0x0, true⟩,
  ⟨0x100, 32, 0x10, 1, 0x4, 3, 2, .rw, 0x0, true⟩,
  ⟨0x100, 32, 0x10, 1, 0x4, 5, 2, .rw, 0x0, true⟩,
  ⟨0x100, 32, 0x10, 1, 0x4, 7, 1, .rw, 0x0, true⟩,
  ⟨0x100, 32, 0x10, 1, 0x4, 8, 2, .rw, 0x0, true⟩,
  ⟨0x100, 32, 0x10, 1, 0x4, 16, 16, .rw, 0x3e8, true⟩,
  ⟨0x104, 32, 0x10, 1, 0x4, 0, 1, .ro, 0x0, false⟩,
  ⟨0x104, 32, 0x10, 1, 0x4, 1, 1, .ro, 0x0, false⟩,
  ⟨0x104, 32, 0x10, 1, 0x4, 2, 1, .ro, 0x0, false⟩,
  ⟨0x108, 32, 0x10, 1, 0x4, 0, 16, .rw, 0x0, false⟩]
def rowsDIN : List RegRow := rowsDIN0

/-- The field rows of the DOUT page (R381, R382). -/
def rowsDOUT0 : List RegRow := [
  ⟨0x4, 1, 0x4, 1, 0x4, 0, 8, .ro, 0x10, false⟩,
  ⟨0x4, 1, 0x4, 1, 0x4, 8, 1, .ro, 0x1, false⟩,
  ⟨0x4, 1, 0x4, 1, 0x4, 16, 8, .ro, 0x8, false⟩,
  ⟨0x20, 1, 0x4, 1, 0x4, 0, 16, .w1c, 0x0, false⟩,
  ⟨0x30, 1, 0x4, 1, 0x4, 0, 5, .ro, 0x0, false⟩,
  ⟨0x34, 1, 0x4, 1, 0x4, 0, 8, .rwl, 0x0, true⟩,
  ⟨0x38, 1, 0x4, 1, 0x4, 0, 8, .rwl, 0xa, true⟩,
  ⟨0x40, 4, 0x4, 1, 0x4, 0, 32, .rwl, 0x0, true⟩,
  ⟨0x100, 16, 0x80, 1, 0x4, 0, 1, .rws, 0x0, false⟩,
  ⟨0x100, 16, 0x80, 1, 0x4, 1, 1, .rw, 0x1, true⟩,
  ⟨0x100, 16, 0x80, 1, 0x4, 2, 1, .rw, 0x0, true⟩,
  ⟨0x104, 16, 0x80, 1, 0x4, 0, 32, .rwl, 0xa140a03, true⟩,
  ⟨0x108, 16, 0x80, 1, 0x4, 0, 8, .rwl, 0x5, true⟩,
  ⟨0x10c, 16, 0x80, 1, 0x4, 0, 12, .ro, 0x30, false⟩,
  ⟨0x110, 16, 0x80, 1, 0x4, 0, 9, .w1c, 0x0, false⟩,
  ⟨0x114, 16, 0x80, 1, 0x4, 0, 32, .ro, 0x0, false⟩,
  ⟨0x118, 16, 0x80, 1, 0x4, 0, 16, .ro, 0x0, false⟩]
def rowsDOUT : List RegRow := rowsDOUT0

/-- The field rows of the TMR pages (R407, R408). -/
def rowsTMR0 : List RegRow := [
  ⟨0x4, 1, 0x4, 1, 0x4, 0, 8, .ro, 0x8, false⟩,
  ⟨0x4, 1, 0x4, 1, 0x4, 8, 1, .ro, 0x1, false⟩,
  ⟨0x4, 1, 0x4, 1, 0x4, 9, 1, .ro, 0x1, false⟩,
  ⟨0x4, 1, 0x4, 1, 0x4, 16, 8, .ro, 0x20, false⟩,
  ⟨0x20, 1, 0x4, 1, 0x4, 0, 10, .w1c, 0x0, false⟩,
  ⟨0x100, 1, 0x4, 1, 0x4, 0, 3, .rw, 0x0, true⟩,
  ⟨0x100, 1, 0x4, 1, 0x4, 3, 3, .rw, 0x0, true⟩,
  ⟨0x100, 1, 0x4, 1, 0x4, 6, 2, .rw, 0x0, true⟩,
  ⟨0x100, 1, 0x4, 1, 0x4, 8, 1, .rw, 0x0, true⟩,
  ⟨0x100, 1, 0x4, 1, 0x4, 9, 1, .rw, 0x1, true⟩,
  ⟨0x100, 1, 0x4, 1, 0x4, 12, 3, .rw, 0x0, true⟩,
  ⟨0x100, 1, 0x4, 1, 0x4, 15, 2, .rw, 0x0, true⟩,
  ⟨0x100, 1, 0x4, 1, 0x4, 17, 2, .rw, 0x0, true⟩,
  ⟨0x100, 1, 0x4, 1, 0x4, 19, 3, .rw, 0x0, true⟩,
  ⟨0x104, 1, 0x4, 1, 0x4, 0, 32, .rw, 0x10000, true⟩,
  ⟨0x108, 1, 0x4, 1, 0x4, 0, 32, .rws, 0xffffffff, false⟩,
  ⟨0x10c, 1, 0x4, 1, 0x4, 0, 1, .rws, 0x0, false⟩,
  ⟨0x10c, 1, 0x4, 1, 0x4, 1, 1, .rws, 0x0, false⟩,
  ⟨0x110, 1, 0x4, 1, 0x4, 0, 32, .rws, 0x0, false⟩,
  ⟨0x114, 1, 0x4, 1, 0x4, 0, 32, .ro, 0x0, false⟩,
  ⟨0x118, 1, 0x4, 1, 0x4, 0, 1, .ro, 0x0, false⟩,
  ⟨0x118, 1, 0x4, 1, 0x4, 1, 1, .w1c, 0x0, false⟩,
  ⟨0x118, 1, 0x4, 1, 0x4, 2, 1, .ro, 0x0, false⟩,
  ⟨0x140, 8, 0x20, 1, 0x4, 0, 2, .rw, 0x0, true⟩]
def rowsTMR1 : List RegRow := [
  ⟨0x140, 8, 0x20, 1, 0x4, 2, 1, .rw, 0x1, true⟩,
  ⟨0x140, 8, 0x20, 1, 0x4, 3, 1, .rw, 0x0, true⟩,
  ⟨0x140, 8, 0x20, 1, 0x4, 4, 3, .rw, 0x0, true⟩,
  ⟨0x140, 8, 0x20, 1, 0x4, 7, 2, .rw, 0x0, true⟩,
  ⟨0x140, 8, 0x20, 1, 0x4, 9, 1, .rw, 0x0, true⟩,
  ⟨0x140, 8, 0x20, 1, 0x4, 10, 5, .rw, 0x0, true⟩,
  ⟨0x144, 8, 0x20, 1, 0x4, 0, 32, .rws, 0x0, false⟩,
  ⟨0x148, 8, 0x20, 1, 0x4, 0, 32, .ro, 0x0, false⟩,
  ⟨0x14c, 8, 0x20, 1, 0x4, 0, 1, .w1c, 0x0, false⟩,
  ⟨0x14c, 8, 0x20, 1, 0x4, 1, 1, .w1c, 0x0, false⟩,
  ⟨0x14c, 8, 0x20, 1, 0x4, 3, 1, .ro, 0x0, false⟩,
  ⟨0x14c, 8, 0x20, 1, 0x4, 4, 1, .ro, 0x0, false⟩,
  ⟨0x150, 8, 0x20, 1, 0x4, 0, 16, .ro, 0x0, false⟩]
def rowsTMR : List RegRow := rowsTMR0 ++ rowsTMR1

/-- The field rows of the STG page (R409). -/
def rowsSTG0 : List RegRow := [
  ⟨0x4, 1, 0x4, 1, 0x4, 0, 8, .ro, 0x4, false⟩,
  ⟨0x4, 1, 0x4, 1, 0x4, 8, 1, .ro, 0x1, false⟩,
  ⟨0x20, 1, 0x4, 1, 0x4, 0, 5, .w1c, 0x0, false⟩,
  ⟨0x100, 4, 0x10, 1, 0x4, 0, 22, .rwl, 0x0, true⟩,
  ⟨0x104, 4, 0x10, 1, 0x4, 0, 1, .rwl, 0x1, true⟩,
  ⟨0x108, 4, 0x10, 1, 0x4, 0, 8, .ro, 0x0, false⟩,
  ⟨0x108, 4, 0x10, 1, 0x4, 16, 16, .ro, 0x0, false⟩,
  ⟨0x140, 1, 0x4, 1, 0x4, 0, 4, .rw, 0x0, false⟩,
  ⟨0x140, 1, 0x4, 1, 0x4, 4, 1, .wo, 0x0, false⟩]
def rowsSTG : List RegRow := rowsSTG0

/-- The field rows of the CAN pages (R443, R444). -/
def rowsCAN0 : List RegRow := [
  ⟨0x4, 1, 0x4, 1, 0x4, 0, 8, .ro, 0x1, false⟩,
  ⟨0x4, 1, 0x4, 1, 0x4, 8, 1, .ro, 0x1, false⟩,
  ⟨0x4, 1, 0x4, 1, 0x4, 9, 1, .ro, 0x1, false⟩,
  ⟨0x4, 1, 0x4, 1, 0x4, 10, 1, .ro, 0x1, false⟩,
  ⟨0x4, 1, 0x4, 1, 0x4, 16, 8, .ro, 0x80, false⟩,
  ⟨0x4, 1, 0x4, 1, 0x4, 24, 8, .ro, 0x20, false⟩,
  ⟨0x20, 1, 0x4, 1, 0x4, 0, 12, .w1c, 0x0, false⟩,
  ⟨0x100, 1, 0x4, 1, 0x4, 0, 2, .rwl, 0x0, true⟩,
  ⟨0x100, 1, 0x4, 1, 0x4, 2, 1, .rwl, 0x0, true⟩,
  ⟨0x100, 1, 0x4, 1, 0x4, 3, 1, .rwl, 0x1, true⟩,
  ⟨0x100, 1, 0x4, 1, 0x4, 4, 1, .rwl, 0x1, true⟩,
  ⟨0x100, 1, 0x4, 1, 0x4, 5, 1, .rwl, 0x1, true⟩,
  ⟨0x100, 1, 0x4, 1, 0x4, 8, 2, .rwl, 0x0, true⟩,
  ⟨0x100, 1, 0x4, 1, 0x4, 10, 1, .rwl, 0x0, true⟩,
  ⟨0x100, 1, 0x4, 1, 0x4, 16, 8, .rwl, 0x0, true⟩,
  ⟨0x104, 1, 0x4, 1, 0x4, 0, 32, .rwl, 0x27279e01, true⟩,
  ⟨0x108, 1, 0x4, 1, 0x4, 0, 32, .rwl, 0x4041201, true⟩,
  ⟨0x10c, 1, 0x4, 1, 0x4, 0, 8, .rwl, 0x28, true⟩,
  ⟨0x110, 1, 0x4, 1, 0x4, 0, 8, .rws, 0xfe, true⟩,
  ⟨0x114, 1, 0x4, 1, 0x4, 0, 16, .rw, 0x0, true⟩,
  ⟨0x114, 1, 0x4, 1, 0x4, 16, 8, .rw, 0x0, true⟩,
  ⟨0x118, 1, 0x4, 1, 0x4, 0, 5, .rw, 0x0, true⟩,
  ⟨0x118, 1, 0x4, 1, 0x4, 7, 1, .rw, 0x0, true⟩,
  ⟨0x118, 1, 0x4, 1, 0x4, 8, 5, .rw, 0x0, true⟩]
def rowsCAN1 : List RegRow := [
  ⟨0x118, 1, 0x4, 1, 0x4, 15, 1, .rw, 0x0, true⟩,
  ⟨0x118, 1, 0x4, 1, 0x4, 16, 5, .rw, 0x0, true⟩,
  ⟨0x118, 1, 0x4, 1, 0x4, 23, 1, .rw, 0x0, true⟩,
  ⟨0x11c, 1, 0x4, 1, 0x4, 0, 3, .ro, 0x0, false⟩,
  ⟨0x11c, 1, 0x4, 1, 0x4, 3, 1, .ro, 0x0, false⟩,
  ⟨0x11c, 1, 0x4, 1, 0x4, 4, 3, .ro, 0x7, false⟩,
  ⟨0x11c, 1, 0x4, 1, 0x4, 16, 8, .ro, 0x0, false⟩,
  ⟨0x120, 1, 0x4, 1, 0x4, 0, 9, .ro, 0x0, false⟩,
  ⟨0x120, 1, 0x4, 1, 0x4, 16, 8, .ro, 0x0, false⟩,
  ⟨0x124, 1, 0x4, 1, 0x4, 0, 7, .ro, 0x0, false⟩,
  ⟨0x124, 1, 0x4, 1, 0x4, 8, 6, .ro, 0x0, false⟩,
  ⟨0x124, 1, 0x4, 1, 0x4, 16, 7, .ro, 0x0, false⟩,
  ⟨0x124, 1, 0x4, 1, 0x4, 24, 6, .ro, 0x0, false⟩,
  ⟨0x128, 1, 0x4, 1, 0x4, 0, 2, .wo, 0x0, false⟩,
  ⟨0x12c, 1, 0x4, 1, 0x4, 0, 6, .ro, 0x0, false⟩,
  ⟨0x12c, 1, 0x4, 1, 0x4, 8, 5, .ro, 0x0, false⟩,
  ⟨0x12c, 1, 0x4, 1, 0x4, 16, 6, .ro, 0x0, false⟩,
  ⟨0x12c, 1, 0x4, 1, 0x4, 24, 5, .ro, 0x0, false⟩,
  ⟨0x130, 1, 0x4, 1, 0x4, 0, 2, .wo, 0x0, false⟩,
  ⟨0x134, 1, 0x4, 1, 0x4, 0, 1, .wo, 0x0, false⟩,
  ⟨0x134, 1, 0x4, 1, 0x4, 1, 1, .wo, 0x0, false⟩,
  ⟨0x134, 1, 0x4, 1, 0x4, 8, 1, .wo, 0x0, false⟩,
  ⟨0x138, 1, 0x4, 1, 0x4, 0, 32, .ro, 0x0, false⟩,
  ⟨0x13c, 1, 0x4, 1, 0x4, 0, 32, .ro, 0x0, false⟩]
def rowsCAN2 : List RegRow := [
  ⟨0x140, 1, 0x4, 1, 0x4, 0, 16, .ro, 0x0, false⟩,
  ⟨0x140, 1, 0x4, 1, 0x4, 16, 16, .ro, 0x0, false⟩,
  ⟨0x144, 1, 0x4, 1, 0x4, 0, 16, .ro, 0x0, false⟩,
  ⟨0x144, 1, 0x4, 1, 0x4, 16, 16, .ro, 0x0, false⟩,
  ⟨0x148, 1, 0x4, 1, 0x4, 0, 16, .ro, 0x0, false⟩,
  ⟨0x148, 1, 0x4, 1, 0x4, 16, 16, .ro, 0x0, false⟩,
  ⟨0x14c, 1, 0x4, 1, 0x4, 0, 6, .rw, 0x0, true⟩,
  ⟨0x14c, 1, 0x4, 1, 0x4, 8, 6, .rw, 0x0, true⟩]
def rowsCAN : List RegRow := rowsCAN0 ++ rowsCAN1 ++ rowsCAN2

/-- The field rows of the CANC page (R445). -/
def rowsCANC0 : List RegRow := [
  ⟨0x4, 1, 0x4, 1, 0x4, 0, 8, .ro, 0x0, false⟩,
  ⟨0x4, 1, 0x4, 1, 0x4, 8, 8, .ro, 0x8, false⟩,
  ⟨0x20, 1, 0x4, 1, 0x4, 0, 16, .w1c, 0x0, false⟩,
  ⟨0x100, 1, 0x4, 1, 0x4, 0, 8, .rw, 0xff, true⟩,
  ⟨0x104, 1, 0x4, 1, 0x4, 0, 4, .rwl, 0x8, true⟩,
  ⟨0x104, 1, 0x4, 1, 0x4, 8, 8, .rwl, 0x3c, true⟩,
  ⟨0x108, 1, 0x4, 1, 0x4, 0, 8, .ro, 0x0, false⟩,
  ⟨0x10c, 1, 0x4, 1, 0x4, 0, 32, .ro, 0x0, false⟩]
def rowsCANC : List RegRow := rowsCANC0

/-- The field rows of the NMK page (R467, R468). -/
def rowsNMK0 : List RegRow := [
  ⟨0x4, 1, 0x4, 1, 0x4, 0, 8, .ro, 0x8, false⟩,
  ⟨0x4, 1, 0x4, 1, 0x4, 8, 8, .ro, 0x1, false⟩,
  ⟨0x20, 1, 0x4, 1, 0x4, 0, 17, .w1c, 0x0, false⟩,
  ⟨0x30, 1, 0x4, 1, 0x4, 0, 8, .rw, 0x0, true⟩,
  ⟨0x34, 1, 0x4, 1, 0x4, 0, 1, .ro, 0x0, false⟩,
  ⟨0x100, 8, 0x20, 1, 0x4, 0, 1, .rw, 0x0, true⟩,
  ⟨0x100, 8, 0x20, 1, 0x4, 1, 1, .rws, 0x0, false⟩,
  ⟨0x100, 8, 0x20, 1, 0x4, 2, 1, .rw, 0x1, true⟩,
  ⟨0x100, 8, 0x20, 1, 0x4, 3, 2, .rw, 0x2, true⟩,
  ⟨0x100, 8, 0x20, 1, 0x4, 5, 1, .rw, 0x1, true⟩,
  ⟨0x104, 8, 0x20, 1, 0x4, 0, 16, .rw, 0x64, true⟩,
  ⟨0x104, 8, 0x20, 1, 0x4, 16, 16, .rw, 0x3e8, true⟩,
  ⟨0x108, 8, 0x20, 1, 0x4, 0, 16, .rw, 0x5dc, true⟩,
  ⟨0x108, 8, 0x20, 1, 0x4, 16, 16, .rw, 0x1f4, true⟩,
  ⟨0x10c, 8, 0x20, 1, 0x4, 0, 5, .rw, 0x0, true⟩,
  ⟨0x10c, 8, 0x20, 1, 0x4, 8, 6, .rw, 0x0, true⟩,
  ⟨0x10c, 8, 0x20, 1, 0x4, 16, 8, .rw, 0x0, true⟩,
  ⟨0x110, 8, 0x20, 1, 0x4, 0, 30, .rw, 0x0, true⟩,
  ⟨0x114, 8, 0x20, 1, 0x4, 0, 29, .rw, 0x0, true⟩,
  ⟨0x118, 8, 0x20, 1, 0x4, 0, 3, .ro, 0x0, false⟩,
  ⟨0x118, 8, 0x20, 1, 0x4, 8, 8, .ro, 0x0, false⟩,
  ⟨0x11c, 8, 0x20, 1, 0x4, 0, 16, .ro, 0x0, false⟩,
  ⟨0x11c, 8, 0x20, 1, 0x4, 16, 16, .ro, 0x0, false⟩]
def rowsNMK : List RegRow := rowsNMK0

/-- The field rows of the NMB page (R469). -/
def rowsNMB0 : List RegRow := [
  ⟨0x4, 1, 0x4, 1, 0x4, 8, 5, .ro, 0x10, false⟩,
  ⟨0x20, 1, 0x4, 1, 0x4, 0, 5, .w1c, 0x0, false⟩,
  ⟨0x100, 1, 0x4, 1, 0x4, 0, 4, .rwl, 0x0, true⟩,
  ⟨0x100, 1, 0x4, 1, 0x4, 4, 5, .rwl, 0x2, true⟩,
  ⟨0x100, 1, 0x4, 1, 0x4, 16, 8, .rwl, 0x0, true⟩,
  ⟨0x100, 1, 0x4, 1, 0x4, 24, 4, .rwl, 0x0, true⟩,
  ⟨0x104, 1, 0x4, 1, 0x4, 0, 12, .rwl, 0x0, true⟩,
  ⟨0x108, 1, 0x4, 1, 0x4, 0, 32, .rwl, 0x0, true⟩,
  ⟨0x10c, 1, 0x4, 1, 0x4, 0, 16, .rwl, 0x0, true⟩,
  ⟨0x110, 1, 0x4, 1, 0x4, 0, 8, .rwl, 0x14, true⟩,
  ⟨0x110, 1, 0x4, 1, 0x4, 8, 8, .rwl, 0xa, true⟩,
  ⟨0x110, 1, 0x4, 1, 0x4, 16, 8, .rwl, 0x32, true⟩,
  ⟨0x114, 1, 0x4, 1, 0x4, 0, 1, .rws, 0x0, false⟩,
  ⟨0x118, 1, 0x4, 1, 0x4, 0, 2, .ro, 0x0, false⟩,
  ⟨0x118, 1, 0x4, 1, 0x4, 16, 16, .ro, 0x0, false⟩,
  ⟨0x11c, 1, 0x4, 1, 0x4, 0, 32, .ro, 0x0, false⟩,
  ⟨0x120, 1, 0x4, 1, 0x4, 0, 16, .ro, 0x0, false⟩,
  ⟨0x120, 1, 0x4, 1, 0x4, 16, 16, .ro, 0x0, false⟩,
  ⟨0x124, 1, 0x4, 1, 0x4, 0, 16, .ro, 0x0, false⟩,
  ⟨0x124, 1, 0x4, 1, 0x4, 16, 16, .ro, 0x0, false⟩]
def rowsNMB : List RegRow := rowsNMB0

/-- The field rows of the SWC page (R506). -/
def rowsSWC0 : List RegRow := [
  ⟨0x4, 1, 0x4, 1, 0x4, 8, 8, .ro, 0x7, false⟩,
  ⟨0x4, 1, 0x4, 1, 0x4, 16, 8, .ro, 0x40, false⟩,
  ⟨0x4, 1, 0x4, 1, 0x4, 24, 4, .ro, 0x8, false⟩,
  ⟨0x4, 1, 0x4, 1, 0x4, 28, 1, .ro, 0x1, false⟩,
  ⟨0x20, 1, 0x4, 1, 0x4, 0, 4, .w1c, 0x0, false⟩,
  ⟨0x30, 1, 0x4, 1, 0x4, 0, 13, .ro, 0x1000, false⟩,
  ⟨0x100, 1, 0x4, 1, 0x4, 0, 1, .rw, 0x1, true⟩,
  ⟨0x100, 1, 0x4, 1, 0x4, 1, 1, .rw, 0x1, true⟩,
  ⟨0x100, 1, 0x4, 1, 0x4, 8, 8, .rw, 0x1e, true⟩,
  ⟨0x100, 1, 0x4, 1, 0x4, 16, 14, .rwl, 0x5f6, true⟩,
  ⟨0x104, 1, 0x4, 1, 0x4, 0, 32, .ro, 0x0, false⟩,
  ⟨0x108, 1, 0x4, 1, 0x4, 0, 16, .ro, 0x0, false⟩,
  ⟨0x10c, 1, 0x4, 1, 0x4, 0, 6, .rws, 0x3f, false⟩,
  ⟨0x110, 1, 0x4, 1, 0x4, 0, 16, .rw, 0x0, true⟩,
  ⟨0x110, 1, 0x4, 1, 0x4, 16, 5, .rw, 0x0, true⟩,
  ⟨0x114, 1, 0x4, 1, 0x4, 0, 16, .rw, 0x0, true⟩,
  ⟨0x114, 1, 0x4, 1, 0x4, 16, 8, .rw, 0x0, true⟩,
  ⟨0x118, 1, 0x4, 1, 0x4, 0, 16, .ro, 0x0, false⟩,
  ⟨0x11c, 1, 0x4, 1, 0x4, 0, 16, .rw, 0x0, true⟩,
  ⟨0x11c, 1, 0x4, 1, 0x4, 16, 3, .rw, 0x7, true⟩,
  ⟨0x11c, 1, 0x4, 1, 0x4, 20, 12, .rw, 0x0, true⟩,
  ⟨0x120, 1, 0x4, 1, 0x4, 0, 32, .rw, 0x0, true⟩,
  ⟨0x124, 1, 0x4, 1, 0x4, 0, 16, .rw, 0x0, true⟩,
  ⟨0x128, 1, 0x4, 1, 0x4, 0, 5, .rw, 0x0, false⟩]
def rowsSWC1 : List RegRow := [
  ⟨0x128, 1, 0x4, 1, 0x4, 5, 1, .rw, 0x0, false⟩,
  ⟨0x128, 1, 0x4, 1, 0x4, 6, 2, .rw, 0x0, false⟩,
  ⟨0x128, 1, 0x4, 1, 0x4, 8, 5, .rw, 0x0, false⟩,
  ⟨0x128, 1, 0x4, 1, 0x4, 16, 16, .rw, 0x0, false⟩,
  ⟨0x12c, 1, 0x4, 1, 0x4, 0, 16, .rw, 0x0, false⟩,
  ⟨0x12c, 1, 0x4, 1, 0x4, 16, 1, .ro, 0x0, false⟩,
  ⟨0x12c, 1, 0x4, 1, 0x4, 17, 1, .ro, 0x0, false⟩,
  ⟨0x130, 1, 0x4, 1, 0x4, 0, 2, .wo, 0x0, false⟩,
  ⟨0x130, 1, 0x4, 1, 0x4, 2, 12, .rw, 0x0, false⟩,
  ⟨0x130, 1, 0x4, 1, 0x4, 31, 1, .ro, 0x0, false⟩,
  ⟨0x134, 1, 0x4, 1, 0x4, 0, 32, .rw, 0x0, false⟩,
  ⟨0x138, 1, 0x4, 1, 0x4, 0, 16, .rw, 0x0, false⟩,
  ⟨0x138, 1, 0x4, 1, 0x4, 16, 6, .rw, 0x0, false⟩,
  ⟨0x138, 1, 0x4, 1, 0x4, 27, 1, .rw, 0x0, false⟩,
  ⟨0x138, 1, 0x4, 1, 0x4, 28, 1, .rw, 0x0, false⟩,
  ⟨0x13c, 1, 0x4, 1, 0x4, 0, 7, .rw, 0x0, false⟩,
  ⟨0x13c, 1, 0x4, 1, 0x4, 8, 8, .ro, 0x0, false⟩,
  ⟨0x140, 1, 0x4, 1, 0x4, 0, 13, .ro, 0x0, false⟩,
  ⟨0x140, 1, 0x4, 1, 0x4, 16, 16, .ro, 0x0, false⟩,
  ⟨0x144, 1, 0x4, 1, 0x4, 0, 14, .ro, 0x1be0, false⟩,
  ⟨0x200, 64, 0x8, 1, 0x4, 0, 12, .rwl, 0x0, true⟩,
  ⟨0x200, 64, 0x8, 1, 0x4, 15, 1, .rwl, 0x0, true⟩,
  ⟨0x200, 64, 0x8, 1, 0x4, 16, 7, .rwl, 0x0, true⟩,
  ⟨0x204, 64, 0x8, 1, 0x4, 0, 7, .rwl, 0x0, true⟩]
def rowsSWC : List RegRow := rowsSWC0 ++ rowsSWC1

/-- The field rows of the PT pages (R507). -/
def rowsPT0 : List RegRow := [
  ⟨0x4, 1, 0x4, 1, 0x4, 0, 8, .ro, 0x1, false⟩,
  ⟨0x4, 1, 0x4, 1, 0x4, 8, 1, .ro, 0x0, false⟩,
  ⟨0x4, 1, 0x4, 1, 0x4, 9, 1, .ro, 0x1, false⟩,
  ⟨0x4, 1, 0x4, 1, 0x4, 16, 9, .ro, 0x100, false⟩,
  ⟨0x4, 1, 0x4, 1, 0x4, 28, 4, .ro, 0x0, false⟩,
  ⟨0x20, 1, 0x4, 1, 0x4, 0, 5, .w1c, 0x0, false⟩,
  ⟨0x100, 1, 0x4, 1, 0x4, 0, 12, .rw, 0x1, true⟩,
  ⟨0x100, 1, 0x4, 1, 0x4, 12, 3, .rw, 0x0, true⟩,
  ⟨0x100, 1, 0x4, 1, 0x4, 16, 2, .rw, 0x0, true⟩,
  ⟨0x100, 1, 0x4, 1, 0x4, 18, 1, .rwl, 0x0, true⟩,
  ⟨0x104, 1, 0x4, 1, 0x4, 0, 32, .rw, 0x76543210, true⟩,
  ⟨0x108, 1, 0x4, 1, 0x4, 0, 1, .ro, 0x0, false⟩,
  ⟨0x10c, 1, 0x4, 1, 0x4, 0, 16, .rw, 0x0, true⟩,
  ⟨0x10c, 1, 0x4, 1, 0x4, 16, 16, .rw, 0x0, true⟩,
  ⟨0x140, 8, 0x10, 1, 0x4, 0, 10, .rwl, 0x0, true⟩,
  ⟨0x140, 8, 0x10, 1, 0x4, 16, 13, .rwl, 0x800, true⟩,
  ⟨0x144, 8, 0x10, 1, 0x4, 0, 13, .ro, 0x0, false⟩,
  ⟨0x148, 8, 0x10, 1, 0x4, 0, 32, .ro, 0x0, false⟩,
  ⟨0x14c, 8, 0x10, 1, 0x4, 0, 32, .ro, 0x0, false⟩,
  ⟨0x1c0, 1, 0x4, 1, 0x4, 0, 24, .rw, 0x0, true⟩,
  ⟨0x1c4, 1, 0x4, 1, 0x4, 0, 24, .rw, 0x0, true⟩,
  ⟨0x1d0, 1, 0x4, 1, 0x4, 0, 8, .rw, 0x80, true⟩,
  ⟨0x1d0, 1, 0x4, 1, 0x4, 8, 1, .rw, 0x0, true⟩,
  ⟨0x1d0, 1, 0x4, 1, 0x4, 9, 2, .rw, 0x0, true⟩]
def rowsPT1 : List RegRow := [
  ⟨0x1d4, 1, 0x4, 1, 0x4, 0, 2, .ro, 0x0, false⟩,
  ⟨0x1d4, 1, 0x4, 1, 0x4, 2, 1, .ro, 0x0, false⟩,
  ⟨0x1d8, 1, 0x4, 1, 0x4, 0, 32, .ro, 0x0, false⟩,
  ⟨0x1e0, 1, 0x4, 1, 0x4, 0, 32, .ro, 0x0, false⟩,
  ⟨0x1e4, 1, 0x4, 1, 0x4, 0, 32, .ro, 0x0, false⟩,
  ⟨0x1e8, 1, 0x4, 1, 0x4, 0, 32, .ro, 0x0, false⟩,
  ⟨0x1ec, 1, 0x4, 1, 0x4, 0, 16, .ro, 0x0, false⟩,
  ⟨0x1ec, 1, 0x4, 1, 0x4, 16, 16, .ro, 0x0, false⟩,
  ⟨0x1f0, 1, 0x4, 1, 0x4, 0, 16, .rw, 0x0, false⟩,
  ⟨0x1f4, 1, 0x4, 1, 0x4, 0, 32, .ro, 0x0, false⟩]
def rowsPT : List RegRow := rowsPT0 ++ rowsPT1

/-- The field rows of the PH page (R508). -/
def rowsPH0 : List RegRow := [
  ⟨0x4, 1, 0x4, 1, 0x4, 8, 8, .ro, 0x4, false⟩,
  ⟨0x4, 1, 0x4, 1, 0x4, 16, 8, .ro, 0x4, false⟩,
  ⟨0x20, 1, 0x4, 1, 0x4, 0, 8, .w1c, 0x0, false⟩,
  ⟨0x100, 8, 0x10, 1, 0x4, 0, 32, .rw, 0x0, true⟩,
  ⟨0x104, 8, 0x10, 1, 0x4, 0, 11, .rw, 0x0, true⟩,
  ⟨0x104, 8, 0x10, 1, 0x4, 16, 1, .rw, 0x0, true⟩,
  ⟨0x108, 8, 0x10, 1, 0x4, 0, 10, .ro, 0x0, false⟩,
  ⟨0x180, 1, 0x4, 1, 0x4, 0, 16, .rw, 0xfa50, true⟩,
  ⟨0x184, 1, 0x4, 1, 0x4, 0, 12, .rw, 0x0, true⟩,
  ⟨0x188, 1, 0x4, 1, 0x4, 0, 32, .ro, 0x0, false⟩]
def rowsPH : List RegRow := rowsPH0

/-- The field rows of the TSY page (R509). -/
def rowsTSY0 : List RegRow := [
  ⟨0x4, 1, 0x4, 1, 0x4, 8, 1, .ro, 0x1, false⟩,
  ⟨0x4, 1, 0x4, 1, 0x4, 9, 1, .ro, 0x0, false⟩,
  ⟨0x20, 1, 0x4, 1, 0x4, 0, 3, .w1c, 0x0, false⟩,
  ⟨0x100, 1, 0x4, 1, 0x4, 0, 1, .rwl, 0x1, true⟩,
  ⟨0x100, 1, 0x4, 1, 0x4, 1, 3, .rwl, 0x0, true⟩,
  ⟨0x100, 1, 0x4, 1, 0x4, 8, 3, .rwl, 0x3, true⟩,
  ⟨0x100, 1, 0x4, 1, 0x4, 12, 3, .rwl, 0x0, true⟩,
  ⟨0x100, 1, 0x4, 1, 0x4, 16, 4, .rwl, 0x3, true⟩,
  ⟨0x100, 1, 0x4, 1, 0x4, 24, 8, .rwl, 0x32, true⟩,
  ⟨0x104, 1, 0x4, 1, 0x4, 0, 6, .rwl, 0x3, true⟩,
  ⟨0x108, 1, 0x4, 1, 0x4, 0, 1, .ro, 0x0, false⟩,
  ⟨0x108, 1, 0x4, 1, 0x4, 1, 1, .ro, 0x0, false⟩,
  ⟨0x108, 1, 0x4, 1, 0x4, 2, 1, .ro, 0x0, false⟩,
  ⟨0x108, 1, 0x4, 1, 0x4, 4, 3, .ro, 0x0, false⟩,
  ⟨0x10c, 1, 0x4, 1, 0x4, 0, 32, .ro, 0x0, false⟩,
  ⟨0x110, 1, 0x4, 1, 0x4, 0, 32, .ro, 0x0, false⟩,
  ⟨0x114, 1, 0x4, 1, 0x4, 0, 32, .ro, 0x0, false⟩,
  ⟨0x118, 1, 0x4, 1, 0x4, 0, 32, .ro, 0x0, false⟩,
  ⟨0x11c, 1, 0x4, 1, 0x4, 0, 32, .ro, 0x0, false⟩,
  ⟨0x120, 6, 0x4, 1, 0x4, 0, 16, .ro, 0x0, false⟩,
  ⟨0x140, 1, 0x4, 1, 0x4, 0, 32, .ro, 0x0, false⟩]
def rowsTSY : List RegRow := rowsTSY0

/-- The field rows of the TAS page (R510). -/
def rowsTAS0 : List RegRow := [
  ⟨0x4, 1, 0x4, 1, 0x4, 8, 8, .ro, 0x6, false⟩,
  ⟨0x20, 1, 0x4, 1, 0x4, 0, 6, .w1c, 0x0, false⟩,
  ⟨0x100, 6, 0x40, 1, 0x4, 0, 1, .rw, 0x0, true⟩,
  ⟨0x100, 6, 0x40, 1, 0x4, 1, 1, .wo, 0x0, false⟩,
  ⟨0x104, 6, 0x40, 1, 0x4, 0, 32, .rw, 0x0, true⟩,
  ⟨0x108, 6, 0x40, 1, 0x4, 0, 32, .rw, 0x0, true⟩,
  ⟨0x10c, 6, 0x40, 1, 0x4, 0, 30, .rw, 0xf4240, true⟩,
  ⟨0x110, 6, 0x40, 1, 0x4, 0, 9, .rw, 0x0, true⟩,
  ⟨0x114, 6, 0x40, 1, 0x4, 0, 9, .ro, 0x0, false⟩,
  ⟨0x118, 6, 0x40, 1, 0x4, 0, 1, .ro, 0x0, false⟩,
  ⟨0x118, 6, 0x40, 1, 0x4, 1, 1, .w1c, 0x0, false⟩,
  ⟨0x118, 6, 0x40, 1, 0x4, 2, 1, .ro, 0x0, false⟩,
  ⟨0x118, 6, 0x40, 1, 0x4, 8, 8, .ro, 0xff, false⟩,
  ⟨0x300, 1, 0x4, 1, 0x4, 0, 3, .rw, 0x0, false⟩,
  ⟨0x300, 1, 0x4, 1, 0x4, 3, 1, .rw, 0x0, false⟩,
  ⟨0x300, 1, 0x4, 1, 0x4, 8, 8, .rw, 0x0, false⟩,
  ⟨0x304, 1, 0x4, 1, 0x4, 0, 8, .rw, 0xff, false⟩,
  ⟨0x304, 1, 0x4, 1, 0x4, 8, 24, .rw, 0x0, false⟩]
def rowsTAS : List RegRow := rowsTAS0

/-- The field rows of the SFL page (R511). -/
def rowsSFL0 : List RegRow := [
  ⟨0x4, 1, 0x4, 1, 0x4, 8, 8, .ro, 0xff, false⟩,
  ⟨0x4, 1, 0x4, 1, 0x4, 16, 8, .ro, 0x40, false⟩,
  ⟨0x20, 1, 0x4, 1, 0x4, 0, 2, .w1c, 0x0, false⟩,
  ⟨0x100, 1, 0x4, 1, 0x4, 0, 8, .rw, 0x0, false⟩,
  ⟨0x100, 1, 0x4, 1, 0x4, 8, 1, .wo, 0x0, false⟩,
  ⟨0x110, 1, 0x4, 1, 0x4, 0, 32, .rw, 0x0, true⟩,
  ⟨0x114, 1, 0x4, 1, 0x4, 0, 16, .rw, 0x0, true⟩,
  ⟨0x114, 1, 0x4, 1, 0x4, 16, 12, .rw, 0x0, true⟩,
  ⟨0x114, 1, 0x4, 1, 0x4, 28, 1, .rw, 0x0, true⟩,
  ⟨0x114, 1, 0x4, 1, 0x4, 31, 1, .rw, 0x0, true⟩,
  ⟨0x118, 1, 0x4, 1, 0x4, 0, 14, .rw, 0x0, true⟩,
  ⟨0x118, 1, 0x4, 1, 0x4, 14, 1, .rw, 0x0, true⟩,
  ⟨0x118, 1, 0x4, 1, 0x4, 15, 1, .w1c, 0x0, false⟩,
  ⟨0x118, 1, 0x4, 1, 0x4, 16, 1, .rw, 0x0, true⟩,
  ⟨0x118, 1, 0x4, 1, 0x4, 17, 2, .rw, 0x0, true⟩,
  ⟨0x118, 1, 0x4, 1, 0x4, 19, 5, .rw, 0x1f, true⟩,
  ⟨0x118, 1, 0x4, 1, 0x4, 24, 8, .rw, 0x64, true⟩,
  ⟨0x11c, 1, 0x4, 1, 0x4, 0, 24, .rw, 0x0, true⟩,
  ⟨0x11c, 1, 0x4, 1, 0x4, 24, 8, .rw, 0x0, true⟩,
  ⟨0x120, 1, 0x4, 1, 0x4, 0, 32, .ro, 0x0, false⟩,
  ⟨0x124, 1, 0x4, 1, 0x4, 0, 32, .ro, 0x0, false⟩,
  ⟨0x128, 1, 0x4, 1, 0x4, 0, 16, .ro, 0x0, false⟩,
  ⟨0x128, 1, 0x4, 1, 0x4, 16, 16, .ro, 0x0, false⟩,
  ⟨0x12c, 1, 0x4, 1, 0x4, 0, 16, .ro, 0x0, false⟩]
def rowsSFL1 : List RegRow := [
  ⟨0x12c, 1, 0x4, 1, 0x4, 16, 1, .ro, 0x0, false⟩]
def rowsSFL : List RegRow := rowsSFL0 ++ rowsSFL1

/-- The field rows of the LF page (R536). -/
def rowsLF0 : List RegRow := [
  ⟨0x4, 1, 0x4, 1, 0x4, 0, 8, .ro, 0x6, false⟩,
  ⟨0x4, 1, 0x4, 1, 0x4, 8, 8, .ro, 0xf, false⟩,
  ⟨0x20, 1, 0x4, 1, 0x4, 0, 6, .w1c, 0x0, false⟩,
  ⟨0x100, 6, 0x80, 1, 0x4, 0, 1, .rw, 0x0, true⟩,
  ⟨0x100, 6, 0x80, 1, 0x4, 1, 1, .rw, 0x0, true⟩,
  ⟨0x100, 6, 0x80, 1, 0x4, 8, 4, .rw, 0xa, true⟩,
  ⟨0x104, 6, 0x80, 1, 0x4, 0, 4, .w1c, 0x0, false⟩,
  ⟨0x108, 6, 0x80, 1, 0x4, 0, 12, .ro, 0x0, false⟩]
def rowsLF : List RegRow := rowsLF0

/-- The field rows of the ACC page (R537). -/
def rowsACC0 : List RegRow := [
  ⟨0x4, 1, 0x4, 1, 0x4, 8, 8, .ro, 0x8, false⟩,
  ⟨0x4, 1, 0x4, 1, 0x4, 16, 8, .ro, 0x10, false⟩,
  ⟨0x20, 1, 0x4, 1, 0x4, 0, 5, .w1c, 0x0, false⟩,
  ⟨0x100, 1, 0x4, 1, 0x4, 0, 1, .rws, 0x0, false⟩,
  ⟨0x100, 1, 0x4, 1, 0x4, 1, 2, .rws, 0x0, false⟩,
  ⟨0x104, 1, 0x4, 1, 0x4, 0, 16, .rwl, 0x0, true⟩,
  ⟨0x108, 1, 0x4, 1, 0x4, 0, 8, .rwl, 0x28, true⟩,
  ⟨0x10c, 1, 0x4, 1, 0x4, 0, 32, .rwl, 0x0, true⟩,
  ⟨0x110, 1, 0x4, 1, 0x4, 0, 4, .rwl, 0x0, true⟩,
  ⟨0x110, 1, 0x4, 1, 0x4, 4, 4, .rwl, 0x0, true⟩,
  ⟨0x114, 1, 0x4, 1, 0x4, 0, 32, .rw, 0x200000, true⟩,
  ⟨0x118, 1, 0x4, 1, 0x4, 0, 4, .rw, 0x8, true⟩,
  ⟨0x118, 1, 0x4, 1, 0x4, 4, 1, .rw, 0x0, true⟩,
  ⟨0x11c, 1, 0x4, 1, 0x4, 0, 5, .rw, 0x0, true⟩,
  ⟨0x11c, 1, 0x4, 1, 0x4, 8, 6, .rw, 0x0, true⟩,
  ⟨0x120, 1, 0x4, 1, 0x4, 0, 32, .rw, 0x200000, true⟩,
  ⟨0x124, 1, 0x4, 1, 0x4, 0, 1, .rwl, 0x0, true⟩,
  ⟨0x124, 1, 0x4, 1, 0x4, 8, 6, .rwl, 0x0, true⟩,
  ⟨0x124, 1, 0x4, 1, 0x4, 16, 16, .rwl, 0x64, true⟩,
  ⟨0x140, 8, 0x10, 1, 0x4, 0, 8, .rwl, 0x0, true⟩,
  ⟨0x140, 8, 0x10, 1, 0x4, 8, 8, .rwl, 0xff, true⟩,
  ⟨0x140, 8, 0x10, 1, 0x4, 16, 8, .rwl, 0x0, true⟩,
  ⟨0x140, 8, 0x10, 1, 0x4, 24, 8, .rwl, 0xff, true⟩,
  ⟨0x144, 8, 0x10, 1, 0x4, 0, 32, .rwl, 0xff00ff00, true⟩]
def rowsACC1 : List RegRow := [
  ⟨0x148, 8, 0x10, 1, 0x4, 0, 32, .rwl, 0xff00ff00, true⟩,
  ⟨0x14c, 8, 0x10, 1, 0x4, 0, 1, .rwl, 0x0, true⟩,
  ⟨0x14c, 8, 0x10, 1, 0x4, 1, 3, .rwl, 0x0, true⟩,
  ⟨0x1c0, 1, 0x4, 1, 0x4, 0, 3, .ro, 0x0, false⟩,
  ⟨0x1c0, 1, 0x4, 1, 0x4, 8, 4, .ro, 0x0, false⟩,
  ⟨0x1c0, 1, 0x4, 1, 0x4, 12, 1, .ro, 0x0, false⟩,
  ⟨0x1c0, 1, 0x4, 1, 0x4, 13, 1, .ro, 0x0, false⟩,
  ⟨0x1c0, 1, 0x4, 1, 0x4, 14, 1, .ro, 0x0, false⟩,
  ⟨0x1c4, 1, 0x4, 1, 0x4, 0, 23, .ro, 0x0, false⟩,
  ⟨0x1c4, 1, 0x4, 1, 0x4, 24, 3, .ro, 0x0, false⟩,
  ⟨0x1c8, 1, 0x4, 1, 0x4, 0, 16, .ro, 0x0, false⟩,
  ⟨0x1c8, 1, 0x4, 1, 0x4, 16, 16, .ro, 0x0, false⟩,
  ⟨0x1cc, 1, 0x4, 1, 0x4, 0, 16, .ro, 0x0, false⟩,
  ⟨0x1cc, 1, 0x4, 1, 0x4, 16, 16, .ro, 0x0, false⟩,
  ⟨0x1d0, 1, 0x4, 1, 0x4, 0, 32, .ro, 0x0, false⟩]
def rowsACC : List RegRow := rowsACC0 ++ rowsACC1

/-- The field rows of the VLT page (R538). -/
def rowsVLT0 : List RegRow := [
  ⟨0x4, 1, 0x4, 1, 0x4, 0, 8, .ro, 0x10, false⟩,
  ⟨0x4, 1, 0x4, 1, 0x4, 8, 8, .ro, 0x10, false⟩,
  ⟨0x4, 1, 0x4, 1, 0x4, 16, 8, .ro, 0x40, false⟩,
  ⟨0x20, 1, 0x4, 1, 0x4, 0, 2, .w1c, 0x0, false⟩,
  ⟨0x30, 1, 0x4, 1, 0x4, 0, 7, .ro, 0x40, false⟩,
  ⟨0x34, 1, 0x4, 1, 0x4, 0, 32, .ro, 0x0, false⟩,
  ⟨0x40, 6, 0x4, 1, 0x4, 0, 32, .wo, 0x0, false⟩,
  ⟨0x58, 1, 0x4, 1, 0x4, 0, 4, .rw, 0x0, false⟩,
  ⟨0x58, 1, 0x4, 1, 0x4, 4, 2, .rw, 0x0, false⟩,
  ⟨0x5c, 1, 0x4, 1, 0x4, 0, 32, .rw, 0x0, false⟩,
  ⟨0x60, 1, 0x4, 1, 0x4, 0, 2, .wo, 0x0, false⟩,
  ⟨0x64, 1, 0x4, 1, 0x4, 0, 1, .ro, 0x0, false⟩,
  ⟨0x64, 1, 0x4, 1, 0x4, 1, 3, .ro, 0x0, false⟩,
  ⟨0x100, 16, 0x10, 1, 0x4, 0, 1, .ro, 0x0, false⟩,
  ⟨0x100, 16, 0x10, 1, 0x4, 1, 2, .ro, 0x0, false⟩,
  ⟨0x104, 16, 0x10, 1, 0x4, 0, 32, .ro, 0x0, false⟩,
  ⟨0x108, 16, 0x10, 1, 0x4, 0, 7, .ro, 0x0, false⟩,
  ⟨0x10c, 16, 0x10, 1, 0x4, 0, 32, .ro, 0x0, false⟩]
def rowsVLT : List RegRow := rowsVLT0

/-- The field rows of the FCR page (R560). -/
def rowsFCR0 : List RegRow := [
  ⟨0x4, 1, 0x4, 1, 0x4, 0, 8, .ro, 0x0, false⟩,
  ⟨0x4, 1, 0x4, 1, 0x4, 8, 8, .ro, 0xd4, false⟩,
  ⟨0x4, 1, 0x4, 1, 0x4, 16, 4, .ro, 0x5, false⟩,
  ⟨0x4, 1, 0x4, 1, 0x4, 20, 8, .ro, 0x20, false⟩,
  ⟨0x20, 1, 0x4, 1, 0x4, 0, 5, .w1c, 0x0, false⟩,
  ⟨0x100, 5, 0x4, 1, 0x4, 0, 3, .rwl, 0x0, true⟩,
  ⟨0x100, 5, 0x4, 1, 0x4, 4, 3, .rwl, 0x0, true⟩,
  ⟨0x100, 5, 0x4, 1, 0x4, 8, 16, .rwl, 0x0, true⟩,
  ⟨0x120, 1, 0x4, 1, 0x4, 0, 8, .rwl, 0x14, true⟩,
  ⟨0x124, 1, 0x4, 1, 0x4, 0, 1, .wo, 0x0, false⟩,
  ⟨0x128, 1, 0x4, 1, 0x4, 0, 1, .ro, 0x0, false⟩,
  ⟨0x128, 1, 0x4, 1, 0x4, 1, 1, .ro, 0x0, false⟩,
  ⟨0x128, 1, 0x4, 1, 0x4, 8, 8, .ro, 0x0, false⟩,
  ⟨0x128, 1, 0x4, 1, 0x4, 16, 8, .ro, 0x0, false⟩,
  ⟨0x12c, 1, 0x4, 1, 0x4, 0, 32, .ro, 0x0, false⟩,
  ⟨0x130, 1, 0x4, 1, 0x4, 0, 5, .rw, 0x0, false⟩,
  ⟨0x134, 1, 0x4, 1, 0x4, 0, 8, .ro, 0x0, false⟩,
  ⟨0x134, 1, 0x4, 1, 0x4, 8, 8, .ro, 0x0, false⟩,
  ⟨0x134, 1, 0x4, 1, 0x4, 16, 3, .ro, 0x0, false⟩,
  ⟨0x134, 1, 0x4, 1, 0x4, 20, 3, .ro, 0x0, false⟩,
  ⟨0x134, 1, 0x4, 1, 0x4, 24, 6, .ro, 0x0, false⟩,
  ⟨0x138, 1, 0x4, 1, 0x4, 0, 32, .ro, 0x0, false⟩,
  ⟨0x13c, 1, 0x4, 1, 0x4, 0, 32, .ro, 0x0, false⟩,
  ⟨0x140, 1, 0x4, 1, 0x4, 0, 8, .wo, 0x0, false⟩]
def rowsFCR1 : List RegRow := [
  ⟨0x144, 1, 0x4, 1, 0x4, 0, 8, .wo, 0x0, false⟩,
  ⟨0x144, 1, 0x4, 1, 0x4, 8, 8, .wo, 0x0, false⟩,
  ⟨0x148, 1, 0x4, 1, 0x4, 0, 32, .ro, 0x0, false⟩,
  ⟨0x180, 16, 0x4, 1, 0x4, 0, 8, .rwl, 0x0, true⟩,
  ⟨0x180, 16, 0x4, 1, 0x4, 8, 8, .rwl, 0x0, true⟩,
  ⟨0x180, 16, 0x4, 1, 0x4, 16, 8, .rwl, 0x0, true⟩,
  ⟨0x180, 16, 0x4, 1, 0x4, 24, 8, .rwl, 0x0, true⟩,
  ⟨0x200, 212, 0x4, 1, 0x4, 0, 3, .rwl, 0x0, true⟩,
  ⟨0x600, 212, 0x4, 1, 0x4, 0, 1, .w1c, 0x0, false⟩,
  ⟨0x600, 212, 0x4, 1, 0x4, 1, 1, .ro, 0x0, false⟩,
  ⟨0x600, 212, 0x4, 1, 0x4, 2, 1, .ro, 0x0, false⟩,
  ⟨0x600, 212, 0x4, 1, 0x4, 8, 8, .ro, 0x0, false⟩,
  ⟨0x600, 212, 0x4, 1, 0x4, 16, 8, .ro, 0x0, false⟩,
  ⟨0x600, 212, 0x4, 1, 0x4, 24, 3, .ro, 0x0, false⟩]
def rowsFCR : List RegRow := rowsFCR0 ++ rowsFCR1

/-- The field rows of the AGE page (R571). -/
def rowsAGE0 : List RegRow := [
  ⟨0x4, 1, 0x4, 1, 0x4, 0, 8, .ro, 0x0, false⟩,
  ⟨0x4, 1, 0x4, 1, 0x4, 8, 8, .ro, 0x3c, false⟩,
  ⟨0x4, 1, 0x4, 1, 0x4, 16, 4, .ro, 0x8, false⟩,
  ⟨0x4, 1, 0x4, 1, 0x4, 20, 4, .ro, 0x4, false⟩,
  ⟨0x20, 1, 0x4, 1, 0x4, 0, 4, .w1c, 0x0, false⟩,
  ⟨0x100, 1, 0x4, 1, 0x4, 0, 8, .rwl, 0xa, true⟩,
  ⟨0x100, 1, 0x4, 1, 0x4, 8, 8, .rwl, 0x18, true⟩,
  ⟨0x100, 1, 0x4, 1, 0x4, 16, 1, .rwl, 0x1, true⟩,
  ⟨0x100, 1, 0x4, 1, 0x4, 17, 1, .rwl, 0x0, true⟩,
  ⟨0x100, 1, 0x4, 1, 0x4, 18, 1, .rwl, 0x1, true⟩,
  ⟨0x104, 1, 0x4, 1, 0x4, 0, 8, .rwl, 0x8, true⟩,
  ⟨0x104, 1, 0x4, 1, 0x4, 8, 8, .rwl, 0x10, true⟩,
  ⟨0x104, 1, 0x4, 1, 0x4, 16, 8, .rwl, 0x3, true⟩,
  ⟨0x108, 1, 0x4, 1, 0x4, 0, 10, .rwl, 0x2d0, true⟩,
  ⟨0x108, 1, 0x4, 1, 0x4, 16, 10, .rwl, 0x3b6, true⟩,
  ⟨0x10c, 1, 0x4, 1, 0x4, 0, 4, .rwl, 0x2, true⟩,
  ⟨0x110, 1, 0x4, 1, 0x4, 0, 8, .rwl, 0x14, true⟩,
  ⟨0x110, 1, 0x4, 1, 0x4, 8, 8, .rwl, 0x5a, true⟩,
  ⟨0x114, 1, 0x4, 1, 0x4, 0, 10, .ro, 0x352, false⟩,
  ⟨0x118, 1, 0x4, 1, 0x4, 0, 8, .ro, 0x0, false⟩,
  ⟨0x118, 1, 0x4, 1, 0x4, 8, 4, .ro, 0x0, false⟩,
  ⟨0x118, 1, 0x4, 1, 0x4, 16, 8, .ro, 0x0, false⟩,
  ⟨0x11c, 1, 0x4, 1, 0x4, 0, 32, .ro, 0x0, false⟩,
  ⟨0x120, 1, 0x4, 1, 0x4, 0, 16, .ro, 0x0, false⟩]
def rowsAGE1 : List RegRow := [
  ⟨0x120, 1, 0x4, 1, 0x4, 16, 16, .ro, 0x0, false⟩,
  ⟨0x124, 1, 0x4, 1, 0x4, 0, 16, .ro, 0x0, false⟩,
  ⟨0x128, 1, 0x4, 1, 0x4, 0, 32, .ro, 0x0, false⟩,
  ⟨0x12c, 1, 0x4, 1, 0x4, 0, 4, .ro, 0x0, false⟩,
  ⟨0x12c, 1, 0x4, 1, 0x4, 8, 8, .ro, 0x0, false⟩,
  ⟨0x130, 1, 0x4, 1, 0x4, 0, 32, .ro, 0x0, false⟩,
  ⟨0x134, 1, 0x4, 1, 0x4, 0, 16, .ro, 0x0, false⟩,
  ⟨0x140, 1, 0x4, 1, 0x4, 0, 6, .rw, 0x0, false⟩,
  ⟨0x144, 1, 0x4, 1, 0x4, 0, 16, .ro, 0x0, false⟩,
  ⟨0x144, 1, 0x4, 1, 0x4, 16, 16, .ro, 0x0, false⟩,
  ⟨0x148, 1, 0x4, 1, 0x4, 0, 16, .ro, 0x0, false⟩,
  ⟨0x148, 1, 0x4, 1, 0x4, 16, 3, .ro, 0x0, false⟩,
  ⟨0x148, 1, 0x4, 1, 0x4, 19, 1, .ro, 0x0, false⟩,
  ⟨0x150, 8, 0x4, 1, 0x4, 0, 32, .ro, 0x0, false⟩]
def rowsAGE : List RegRow := rowsAGE0 ++ rowsAGE1

/-- The field rows of the REC page (R587). -/
def rowsREC0 : List RegRow := [
  ⟨0x4, 1, 0x4, 1, 0x4, 0, 8, .ro, 0x0, false⟩,
  ⟨0x4, 1, 0x4, 1, 0x4, 8, 8, .ro, 0xff, false⟩,
  ⟨0x4, 1, 0x4, 1, 0x4, 16, 8, .ro, 0x40, false⟩,
  ⟨0x4, 1, 0x4, 1, 0x4, 24, 8, .ro, 0x10, false⟩,
  ⟨0x20, 1, 0x4, 1, 0x4, 0, 4, .w1c, 0x0, false⟩,
  ⟨0x100, 1, 0x4, 1, 0x4, 0, 1, .wo, 0x0, false⟩,
  ⟨0x100, 1, 0x4, 1, 0x4, 8, 8, .rwl, 0xf, true⟩,
  ⟨0x104, 1, 0x4, 1, 0x4, 0, 1, .ro, 0x0, false⟩,
  ⟨0x104, 1, 0x4, 1, 0x4, 1, 1, .ro, 0x0, false⟩,
  ⟨0x104, 1, 0x4, 1, 0x4, 2, 1, .ro, 0x0, false⟩,
  ⟨0x104, 1, 0x4, 1, 0x4, 4, 3, .ro, 0x0, false⟩,
  ⟨0x104, 1, 0x4, 1, 0x4, 8, 8, .ro, 0x0, false⟩,
  ⟨0x104, 1, 0x4, 1, 0x4, 16, 16, .ro, 0x0, false⟩,
  ⟨0x108, 1, 0x4, 1, 0x4, 0, 32, .ro, 0x0, false⟩,
  ⟨0x10c, 1, 0x4, 1, 0x4, 0, 32, .rw, 0x0, false⟩,
  ⟨0x110, 1, 0x4, 1, 0x4, 0, 16, .rw, 0x0, false⟩,
  ⟨0x114, 1, 0x4, 1, 0x4, 0, 12, .wo, 0x0, false⟩,
  ⟨0x118, 1, 0x4, 1, 0x4, 0, 12, .wo, 0x0, false⟩,
  ⟨0x118, 1, 0x4, 1, 0x4, 12, 4, .wo, 0x0, false⟩,
  ⟨0x120, 16, 0x4, 1, 0x4, 0, 8, .rwl, 0xff, true⟩,
  ⟨0x120, 16, 0x4, 1, 0x4, 8, 16, .rwl, 0x1, true⟩,
  ⟨0x120, 16, 0x4, 1, 0x4, 24, 4, .rwl, 0x1, true⟩,
  ⟨0x160, 1, 0x4, 1, 0x4, 0, 9, .rw, 0x0, false⟩,
  ⟨0x164, 1, 0x4, 1, 0x4, 0, 2, .rw, 0x0, false⟩]
def rowsREC1 : List RegRow := [
  ⟨0x164, 1, 0x4, 1, 0x4, 2, 2, .rw, 0x0, false⟩,
  ⟨0x164, 1, 0x4, 1, 0x4, 4, 1, .rw, 0x0, false⟩,
  ⟨0x164, 1, 0x4, 1, 0x4, 8, 4, .rw, 0xa, false⟩,
  ⟨0x164, 1, 0x4, 1, 0x4, 16, 16, .rw, 0x0, false⟩,
  ⟨0x168, 1, 0x4, 1, 0x4, 0, 32, .rw, 0x0, false⟩,
  ⟨0x16c, 1, 0x4, 1, 0x4, 0, 32, .rw, 0x1, false⟩,
  ⟨0x170, 1, 0x4, 1, 0x4, 0, 9, .wo, 0x0, false⟩,
  ⟨0x174, 1, 0x4, 1, 0x4, 0, 32, .wo, 0x0, false⟩,
  ⟨0x178, 1, 0x4, 1, 0x4, 0, 9, .wo, 0x0, false⟩,
  ⟨0x17c, 1, 0x4, 1, 0x4, 2, 17, .rw, 0x0, false⟩,
  ⟨0x180, 1, 0x4, 1, 0x4, 0, 32, .ro, 0x0, false⟩,
  ⟨0x184, 1, 0x4, 1, 0x4, 0, 16, .rwl, 0x0, false⟩,
  ⟨0x188, 1, 0x4, 1, 0x4, 0, 16, .ro, 0x0, false⟩,
  ⟨0x188, 1, 0x4, 1, 0x4, 16, 16, .ro, 0x0, false⟩]
def rowsREC : List RegRow := rowsREC0 ++ rowsREC1

/-- The field rows of the CLK page (R608, R609). -/
def rowsCLK0 : List RegRow := [
  ⟨0x4, 1, 0x4, 1, 0x4, 0, 8, .ro, 0x0, false⟩,
  ⟨0x4, 1, 0x4, 1, 0x4, 8, 1, .ro, 0x1, false⟩,
  ⟨0x4, 1, 0x4, 1, 0x4, 9, 1, .ro, 0x1, false⟩,
  ⟨0x4, 1, 0x4, 1, 0x4, 16, 8, .ro, 0xfa, false⟩,
  ⟨0x20, 1, 0x4, 1, 0x4, 0, 5, .w1c, 0x0, false⟩,
  ⟨0x100, 1, 0x4, 1, 0x4, 0, 8, .rwl, 0xf, true⟩,
  ⟨0x100, 1, 0x4, 1, 0x4, 8, 1, .rwl, 0x0, true⟩,
  ⟨0x104, 1, 0x4, 1, 0x4, 0, 1, .rw, 0x0, true⟩,
  ⟨0x104, 1, 0x4, 1, 0x4, 1, 1, .rw, 0x1, true⟩,
  ⟨0x104, 1, 0x4, 1, 0x4, 8, 8, .rwl, 0xa, true⟩,
  ⟨0x108, 1, 0x4, 1, 0x4, 0, 8, .rwl, 0x14, true⟩,
  ⟨0x10c, 1, 0x4, 1, 0x4, 0, 8, .rwl, 0xa, true⟩,
  ⟨0x10c, 1, 0x4, 1, 0x4, 8, 8, .rwl, 0x14, true⟩,
  ⟨0x110, 1, 0x4, 1, 0x4, 0, 1, .rwl, 0x0, true⟩,
  ⟨0x114, 1, 0x4, 1, 0x4, 0, 2, .ro, 0x0, false⟩,
  ⟨0x114, 1, 0x4, 1, 0x4, 2, 1, .ro, 0x0, false⟩,
  ⟨0x114, 1, 0x4, 1, 0x4, 4, 3, .ro, 0x0, false⟩,
  ⟨0x114, 1, 0x4, 1, 0x4, 8, 1, .ro, 0x0, false⟩,
  ⟨0x114, 1, 0x4, 1, 0x4, 9, 1, .ro, 0x0, false⟩,
  ⟨0x114, 1, 0x4, 1, 0x4, 10, 1, .ro, 0x0, false⟩,
  ⟨0x114, 1, 0x4, 1, 0x4, 11, 1, .ro, 0x0, false⟩,
  ⟨0x118, 1, 0x4, 1, 0x4, 0, 32, .ro, 0x0, false⟩,
  ⟨0x11c, 1, 0x4, 1, 0x4, 0, 8, .ro, 0x0, false⟩,
  ⟨0x120, 3, 0x4, 1, 0x4, 0, 32, .ro, 0x0, false⟩]
def rowsCLK1 : List RegRow := [
  ⟨0x12c, 1, 0x4, 1, 0x4, 0, 1, .rwl, 0x0, false⟩]
def rowsCLK : List RegRow := rowsCLK0 ++ rowsCLK1

/-- The field rows of the PWR page (R632, R633). -/
def rowsPWR0 : List RegRow := [
  ⟨0x4, 1, 0x4, 1, 0x4, 0, 8, .ro, 0x0, false⟩,
  ⟨0x4, 1, 0x4, 1, 0x4, 8, 8, .ro, 0x8, false⟩,
  ⟨0x4, 1, 0x4, 1, 0x4, 16, 8, .ro, 0x8, false⟩,
  ⟨0x20, 1, 0x4, 1, 0x4, 0, 7, .w1c, 0x0, false⟩,
  ⟨0x100, 1, 0x4, 1, 0x4, 0, 2, .rw, 0x0, false⟩,
  ⟨0x104, 1, 0x4, 1, 0x4, 0, 8, .rw, 0x77, true⟩,
  ⟨0x108, 1, 0x4, 1, 0x4, 0, 8, .w1c, 0x0, false⟩,
  ⟨0x10c, 1, 0x4, 1, 0x4, 0, 8, .rwl, 0xa, true⟩,
  ⟨0x110, 1, 0x4, 1, 0x4, 0, 16, .ro, 0x0, false⟩,
  ⟨0x110, 1, 0x4, 1, 0x4, 16, 5, .w1c, 0x0, false⟩,
  ⟨0x114, 1, 0x4, 1, 0x4, 0, 1, .ro, 0x0, false⟩,
  ⟨0x114, 1, 0x4, 1, 0x4, 1, 1, .w1c, 0x0, false⟩,
  ⟨0x114, 1, 0x4, 1, 0x4, 2, 1, .ro, 0x0, false⟩,
  ⟨0x114, 1, 0x4, 1, 0x4, 3, 1, .w1c, 0x0, false⟩,
  ⟨0x118, 1, 0x4, 1, 0x4, 0, 8, .rwl, 0xa, true⟩,
  ⟨0x118, 1, 0x4, 1, 0x4, 8, 8, .rwl, 0xa, true⟩,
  ⟨0x118, 1, 0x4, 1, 0x4, 16, 1, .rwl, 0x1, true⟩,
  ⟨0x11c, 1, 0x4, 1, 0x4, 0, 7, .rwl, 0x40, true⟩,
  ⟨0x11c, 1, 0x4, 1, 0x4, 8, 8, .rwl, 0x0, true⟩,
  ⟨0x11c, 1, 0x4, 1, 0x4, 16, 1, .rwl, 0x1, true⟩,
  ⟨0x11c, 1, 0x4, 1, 0x4, 17, 1, .rwl, 0x1, true⟩,
  ⟨0x11c, 1, 0x4, 1, 0x4, 18, 1, .rwl, 0x1, true⟩,
  ⟨0x11c, 1, 0x4, 1, 0x4, 24, 8, .rwl, 0x14, true⟩,
  ⟨0x120, 1, 0x4, 1, 0x4, 0, 8, .rwl, 0xa, true⟩]
def rowsPWR1 : List RegRow := [
  ⟨0x120, 1, 0x4, 1, 0x4, 8, 8, .rwl, 0x14, true⟩,
  ⟨0x124, 1, 0x4, 1, 0x4, 0, 8, .ro, 0x0, false⟩,
  ⟨0x124, 1, 0x4, 1, 0x4, 16, 16, .ro, 0x0, false⟩,
  ⟨0x128, 1, 0x4, 1, 0x4, 0, 12, .w1c, 0x0, false⟩,
  ⟨0x140, 1, 0x4, 1, 0x4, 0, 8, .rw, 0x0, true⟩,
  ⟨0x140, 1, 0x4, 1, 0x4, 8, 8, .rw, 0x0, true⟩,
  ⟨0x140, 1, 0x4, 1, 0x4, 16, 8, .rw, 0xa, true⟩,
  ⟨0x144, 1, 0x4, 1, 0x4, 0, 1, .rw, 0x1, true⟩,
  ⟨0x144, 1, 0x4, 1, 0x4, 1, 1, .rw, 0x0, true⟩,
  ⟨0x144, 1, 0x4, 1, 0x4, 2, 1, .rw, 0x0, true⟩,
  ⟨0x148, 1, 0x4, 1, 0x4, 0, 32, .rw, 0x0, false⟩,
  ⟨0x14c, 1, 0x4, 1, 0x4, 0, 1, .wo, 0x0, false⟩,
  ⟨0x14c, 1, 0x4, 1, 0x4, 1, 1, .ro, 0x0, false⟩,
  ⟨0x150, 1, 0x4, 1, 0x4, 0, 8, .rw, 0x32, true⟩,
  ⟨0x150, 1, 0x4, 1, 0x4, 8, 4, .rw, 0x4, true⟩,
  ⟨0x150, 1, 0x4, 1, 0x4, 16, 8, .rw, 0x3c, true⟩,
  ⟨0x154, 1, 0x4, 1, 0x4, 0, 32, .ro, 0x0, false⟩,
  ⟨0x158, 1, 0x4, 1, 0x4, 0, 8, .rw, 0x0, false⟩]
def rowsPWR : List RegRow := rowsPWR0 ++ rowsPWR1

/-- The field rows of the NVC page (R639, R640). -/
def rowsNVC0 : List RegRow := [
  ⟨0x100, 1, 0x4, 1, 0x4, 0, 32, .rw, 0x10000000, false⟩,
  ⟨0x104, 1, 0x4, 1, 0x4, 0, 32, .rw, 0x200000, false⟩,
  ⟨0x108, 1, 0x4, 1, 0x4, 0, 1, .wo, 0x0, false⟩,
  ⟨0x10c, 1, 0x4, 1, 0x4, 0, 1, .ro, 0x0, false⟩,
  ⟨0x10c, 1, 0x4, 1, 0x4, 1, 1, .w1c, 0x0, false⟩,
  ⟨0x10c, 1, 0x4, 1, 0x4, 16, 16, .ro, 0x0, false⟩,
  ⟨0x4, 1, 0x4, 1, 0x4, 0, 8, .ro, 0x0, false⟩,
  ⟨0x4, 1, 0x4, 1, 0x4, 8, 8, .ro, 0x4, false⟩,
  ⟨0x4, 1, 0x4, 1, 0x4, 16, 8, .ro, 0x8, false⟩,
  ⟨0x4, 1, 0x4, 1, 0x4, 24, 1, .ro, 0x1, false⟩,
  ⟨0x20, 1, 0x4, 1, 0x4, 0, 2, .w1c, 0x0, false⟩]
def rowsNVC : List RegRow := rowsNVC0

/-- The field rows of the DBG page (R654). -/
def rowsDBG0 : List RegRow := [
  ⟨0x4, 1, 0x4, 1, 0x4, 0, 8, .ro, 0x0, false⟩,
  ⟨0x4, 1, 0x4, 1, 0x4, 8, 4, .ro, 0x4, false⟩,
  ⟨0x4, 1, 0x4, 1, 0x4, 12, 1, .ro, 0x1, false⟩,
  ⟨0x4, 1, 0x4, 1, 0x4, 13, 1, .ro, 0x1, false⟩,
  ⟨0x20, 1, 0x4, 1, 0x4, 0, 3, .w1c, 0x0, false⟩,
  ⟨0x100, 1, 0x4, 1, 0x4, 0, 1, .ro, 0x0, false⟩,
  ⟨0x100, 1, 0x4, 1, 0x4, 1, 1, .ro, 0x0, false⟩,
  ⟨0x100, 1, 0x4, 1, 0x4, 2, 1, .ro, 0x0, false⟩,
  ⟨0x100, 1, 0x4, 1, 0x4, 3, 3, .ro, 0x0, false⟩,
  ⟨0x100, 1, 0x4, 1, 0x4, 6, 2, .ro, 0x0, false⟩,
  ⟨0x104, 1, 0x4, 1, 0x4, 0, 1, .rw, 0x0, false⟩,
  ⟨0x108, 1, 0x4, 1, 0x4, 0, 32, .ro, 0x0, false⟩,
  ⟨0x10c, 1, 0x4, 1, 0x4, 0, 32, .ro, 0x0, false⟩,
  ⟨0x110, 1, 0x4, 1, 0x4, 0, 4, .rw, 0x0, false⟩,
  ⟨0x110, 1, 0x4, 1, 0x4, 4, 1, .rw, 0x0, false⟩,
  ⟨0x114, 1, 0x4, 1, 0x4, 0, 32, .rw, 0x0, false⟩,
  ⟨0x120, 4, 0x8, 1, 0x4, 0, 32, .rw, 0x0, false⟩,
  ⟨0x124, 4, 0x8, 1, 0x4, 0, 1, .rw, 0x0, false⟩,
  ⟨0x124, 4, 0x8, 1, 0x4, 1, 2, .rw, 0x0, false⟩,
  ⟨0x124, 4, 0x8, 1, 0x4, 3, 2, .rw, 0x0, false⟩]
def rowsDBG : List RegRow := rowsDBG0

/-- The field rows of the BOOT page (R661). -/
def rowsBOOT0 : List RegRow := [
  ⟨0x4, 1, 0x4, 1, 0x4, 0, 8, .ro, 0x0, false⟩,
  ⟨0x4, 1, 0x4, 1, 0x4, 8, 2, .ro, 0x2, false⟩,
  ⟨0x4, 1, 0x4, 1, 0x4, 10, 2, .ro, 0x2, false⟩,
  ⟨0x20, 1, 0x4, 1, 0x4, 0, 2, .w1c, 0x0, false⟩,
  ⟨0x100, 1, 0x4, 1, 0x4, 0, 4, .ro, 0x1, false⟩,
  ⟨0x100, 1, 0x4, 1, 0x4, 4, 1, .ro, 0x0, false⟩,
  ⟨0x100, 1, 0x4, 1, 0x4, 8, 8, .ro, 0x0, false⟩,
  ⟨0x104, 1, 0x4, 1, 0x4, 0, 16, .ro, 0x0, false⟩,
  ⟨0x108, 1, 0x4, 1, 0x4, 0, 1, .ro, 0x0, false⟩,
  ⟨0x108, 1, 0x4, 1, 0x4, 1, 1, .ro, 0x0, false⟩,
  ⟨0x108, 1, 0x4, 1, 0x4, 2, 1, .ro, 0x0, false⟩,
  ⟨0x108, 1, 0x4, 1, 0x4, 4, 1, .ro, 0x0, false⟩,
  ⟨0x108, 1, 0x4, 1, 0x4, 8, 1, .ro, 0x0, false⟩,
  ⟨0x108, 1, 0x4, 1, 0x4, 9, 1, .ro, 0x0, false⟩,
  ⟨0x10c, 1, 0x4, 1, 0x4, 0, 32, .ro, 0x0, false⟩,
  ⟨0x110, 1, 0x4, 1, 0x4, 0, 16, .ro, 0x0, false⟩,
  ⟨0x110, 1, 0x4, 1, 0x4, 16, 16, .ro, 0xffff, false⟩,
  ⟨0x114, 1, 0x4, 1, 0x4, 0, 32, .ro, 0x0, false⟩,
  ⟨0x118, 1, 0x4, 1, 0x4, 0, 6, .ro, 0x0, false⟩,
  ⟨0x118, 1, 0x4, 1, 0x4, 8, 6, .ro, 0x0, false⟩,
  ⟨0x11c, 1, 0x4, 1, 0x4, 0, 1, .wo, 0x0, false⟩,
  ⟨0x120, 1, 0x4, 1, 0x4, 0, 16, .rwl, 0x0, false⟩,
  ⟨0x124, 1, 0x4, 1, 0x4, 0, 4, .ro, 0x6, false⟩,
  ⟨0x124, 1, 0x4, 1, 0x4, 4, 4, .ro, 0x6, false⟩]
def rowsBOOT1 : List RegRow := [
  ⟨0x128, 1, 0x4, 1, 0x4, 0, 16, .ro, 0x0, false⟩,
  ⟨0x12c, 1, 0x4, 1, 0x4, 0, 16, .ro, 0x0, false⟩]
def rowsBOOT : List RegRow := rowsBOOT0 ++ rowsBOOT1

/-- The field rows of the SUP page (R680, R681). -/
def rowsSUP0 : List RegRow := [
  ⟨0x4, 1, 0x4, 1, 0x4, 0, 8, .ro, 0x0, false⟩,
  ⟨0x4, 1, 0x4, 1, 0x4, 8, 8, .ro, 0x2, false⟩,
  ⟨0x4, 1, 0x4, 1, 0x4, 16, 8, .ro, 0x2, false⟩,
  ⟨0x20, 1, 0x4, 1, 0x4, 0, 8, .w1c, 0x0, false⟩,
  ⟨0x100, 1, 0x4, 1, 0x4, 0, 16, .ro, 0x0, false⟩,
  ⟨0x100, 1, 0x4, 1, 0x4, 16, 16, .ro, 0x0, false⟩,
  ⟨0x104, 1, 0x4, 1, 0x4, 0, 16, .ro, 0x0, false⟩,
  ⟨0x104, 1, 0x4, 1, 0x4, 16, 16, .ro, 0x0, false⟩,
  ⟨0x108, 1, 0x4, 1, 0x4, 0, 16, .ro, 0x0, false⟩,
  ⟨0x108, 1, 0x4, 1, 0x4, 16, 16, .ro, 0x0, false⟩,
  ⟨0x10c, 1, 0x4, 1, 0x4, 0, 16, .ro, 0x0, false⟩,
  ⟨0x10c, 1, 0x4, 1, 0x4, 16, 16, .ro, 0x0, false⟩,
  ⟨0x110, 1, 0x4, 1, 0x4, 0, 1, .ro, 0x0, false⟩,
  ⟨0x110, 1, 0x4, 1, 0x4, 1, 1, .ro, 0x0, false⟩,
  ⟨0x110, 1, 0x4, 1, 0x4, 2, 1, .ro, 0x0, false⟩,
  ⟨0x110, 1, 0x4, 1, 0x4, 3, 1, .ro, 0x0, false⟩,
  ⟨0x110, 1, 0x4, 1, 0x4, 4, 4, .ro, 0x0, false⟩,
  ⟨0x110, 1, 0x4, 1, 0x4, 8, 1, .ro, 0x0, false⟩,
  ⟨0x110, 1, 0x4, 1, 0x4, 9, 1, .ro, 0x0, false⟩,
  ⟨0x110, 1, 0x4, 1, 0x4, 10, 1, .ro, 0x0, false⟩,
  ⟨0x110, 1, 0x4, 1, 0x4, 11, 1, .ro, 0x0, false⟩,
  ⟨0x110, 1, 0x4, 1, 0x4, 12, 1, .ro, 0x0, false⟩,
  ⟨0x110, 1, 0x4, 1, 0x4, 13, 1, .ro, 0x0, false⟩,
  ⟨0x114, 1, 0x4, 1, 0x4, 0, 16, .ro, 0x7fff, false⟩]
def rowsSUP1 : List RegRow := [
  ⟨0x114, 1, 0x4, 1, 0x4, 16, 16, .ro, 0x8000, false⟩,
  ⟨0x118, 1, 0x4, 1, 0x4, 0, 1, .wo, 0x0, false⟩,
  ⟨0x11c, 1, 0x4, 1, 0x4, 0, 16, .ro, 0x0, false⟩,
  ⟨0x11c, 1, 0x4, 1, 0x4, 16, 16, .ro, 0x0, false⟩,
  ⟨0x120, 1, 0x4, 1, 0x4, 0, 16, .ro, 0x0, false⟩,
  ⟨0x120, 1, 0x4, 1, 0x4, 16, 16, .ro, 0x0, false⟩,
  ⟨0x124, 1, 0x4, 1, 0x4, 0, 16, .ro, 0x0, false⟩]
def rowsSUP : List RegRow := rowsSUP0 ++ rowsSUP1

/-- The common header rows of R45 that read or write; `EVT`, `FLT` and `OWN` are narrowed by `hdrMask`. -/
def rowsHdr : List RegRow := [
  ⟨0x0, 1, 4, 1, 4, 8, 8, .ro, 0x1, false⟩,
  ⟨0x8, 1, 4, 1, 4, 0, 1, .rw, 0x0, true⟩,
  ⟨0x8, 1, 4, 1, 4, 1, 1, .rw, 0x0, false⟩,
  ⟨0x8, 1, 4, 1, 4, 2, 1, .rw, 0x0, true⟩,
  ⟨0x8, 1, 4, 1, 4, 3, 1, .wo, 0x0, false⟩,
  ⟨0xc, 1, 4, 1, 4, 0, 1, .ro, 0x0, false⟩,
  ⟨0xc, 1, 4, 1, 4, 1, 1, .ro, 0x0, false⟩,
  ⟨0xc, 1, 4, 1, 4, 2, 1, .ro, 0x0, false⟩,
  ⟨0xc, 1, 4, 1, 4, 3, 1, .ro, 0x0, false⟩,
  ⟨0x10, 1, 4, 1, 4, 0, 32, .w1c, 0x0, false⟩,
  ⟨0x18, 1, 4, 1, 4, 0, 12, .ro, 0x0, false⟩,
  ⟨0x18, 1, 4, 1, 4, 12, 4, .ro, 0x0, false⟩,
  ⟨0x18, 1, 4, 1, 4, 16, 2, .ro, 0x0, false⟩,
  ⟨0x18, 1, 4, 1, 4, 24, 8, .ro, 0x0, false⟩,
  ⟨0x1c, 1, 4, 1, 4, 0, 16, .wo, 0x0, false⟩,
  ⟨0x1c, 1, 4, 1, 4, 16, 1, .ro, 0x0, false⟩,
  ⟨0x1c, 1, 4, 1, 4, 17, 2, .ro, 0x0, false⟩,
  ⟨0x20, 1, 4, 1, 4, 0, 32, .w1c, 0x0, false⟩,
  ⟨0x24, 1, 4, 1, 4, 0, 32, .rw, 0x0, true⟩,
  ⟨0x28, 1, 4, 1, 4, 0, 32, .rwl, 0x0, true⟩,
  ⟨0x2c, 1, 4, 1, 4, 0, 16, .rwl, 0x0, true⟩]

namespace Hdr
abbrev EN (p : Nat) : Fld := ⟨p, 0x8, 0, 1⟩
abbrev SRST (p : Nat) : Fld := ⟨p, 0x8, 1, 1⟩
abbrev FRZ (p : Nat) : Fld := ⟨p, 0x8, 2, 1⟩
abbrev RJC (p : Nat) : Fld := ⟨p, 0x8, 3, 1⟩
abbrev READY (p : Nat) : Fld := ⟨p, 0xc, 0, 1⟩
abbrev BUSY (p : Nat) : Fld := ⟨p, 0xc, 1, 1⟩
abbrev STOPPING (p : Nat) : Fld := ⟨p, 0xc, 2, 1⟩
abbrev PENDEN (p : Nat) : Fld := ⟨p, 0xc, 3, 1⟩
abbrev FLT (p : Nat) : Fld := ⟨p, 0x10, 0, 32⟩
abbrev REJ_OFF (p : Nat) : Fld := ⟨p, 0x18, 0, 12⟩
abbrev REJ_CAUSE (p : Nat) : Fld := ⟨p, 0x18, 12, 4⟩
abbrev REJ_SRC (p : Nat) : Fld := ⟨p, 0x18, 16, 2⟩
abbrev REJ_COUNT (p : Nat) : Fld := ⟨p, 0x18, 24, 8⟩
abbrev LOCK_KEY (p : Nat) : Fld := ⟨p, 0x1c, 0, 16⟩
abbrev LOCK_OPEN (p : Nat) : Fld := ⟨p, 0x1c, 16, 1⟩
abbrev LOCK_HOLDER (p : Nat) : Fld := ⟨p, 0x1c, 17, 2⟩
abbrev EVT (p : Nat) : Fld := ⟨p, 0x20, 0, 32⟩
abbrev EVTEN (p : Nat) : Fld := ⟨p, 0x24, 0, 32⟩
abbrev OWN (p : Nat) : Fld := ⟨p, 0x28, 0, 32⟩
abbrev OWN2 (p : Nat) : Fld := ⟨p, 0x2c, 0, 16⟩
end Hdr

namespace SYS
abbrev COUNT (k : Nat) : Fld := ⟨0x0, 0x100 + 0x4 * k, 0, 32⟩
abbrev GUAR : Fld := ⟨0x0, 0x124, 0, 4⟩
abbrev CAUSE : Fld := ⟨0x0, 0x124, 8, 8⟩
abbrev LAPL : Fld := ⟨0x0, 0x128, 0, 32⟩
abbrev LAPH : Fld := ⟨0x0, 0x12c, 0, 16⟩
abbrev CLR : Fld := ⟨0x0, 0x130, 1, 9⟩
abbrev SERIALL : Fld := ⟨0x0, 0x140, 0, 32⟩
abbrev SERIALH : Fld := ⟨0x0, 0x144, 0, 32⟩
abbrev TESTDATE : Fld := ⟨0x0, 0x148, 0, 32⟩
abbrev PRESENT0_PRESENT : Fld := ⟨0x0, 0x150, 0, 32⟩
abbrev PRESENT1_PRESENT : Fld := ⟨0x0, 0x154, 0, 32⟩
abbrev PRESENT2_PRESENT : Fld := ⟨0x0, 0x158, 0, 32⟩
abbrev PRESENTw (k : Nat) : Fld := ⟨0x0, 0x15c + 0x4 * k, 0, 32⟩
end SYS

namespace RRA
abbrev MACHI (q : Nat) : Fld := ⟨0x4b, 0x100 + 0x10 * q, 0, 32⟩
abbrev MACLO (q : Nat) : Fld := ⟨0x4b, 0x104 + 0x10 * q, 0, 16⟩
abbrev VID (q : Nat) : Fld := ⟨0x4b, 0x104 + 0x10 * q, 16, 12⟩
abbrev VALID (q : Nat) : Fld := ⟨0x4b, 0x108 + 0x10 * q, 0, 1⟩
abbrev LEVEL (q : Nat) : Fld := ⟨0x4b, 0x108 + 0x10 * q, 1, 3⟩
abbrev AUTH (q : Nat) : Fld := ⟨0x4b, 0x108 + 0x10 * q, 4, 1⟩
abbrev KEY (q : Nat) : Fld := ⟨0x4b, 0x108 + 0x10 * q, 8, 4⟩
abbrev FRESH (q : Nat) : Fld := ⟨0x4b, 0x10c + 0x10 * q, 0, 32⟩
abbrev RDLVL (p : Nat) : Fld := ⟨0x4b, 0x200 + 0x4 * p, 0, 3⟩
abbrev WRLVL (p : Nat) : Fld := ⟨0x4b, 0x200 + 0x4 * p, 4, 3⟩
abbrev DROPCNT : Fld := ⟨0x4b, 0x600, 0, 32⟩
end RRA

namespace STR
abbrev LEN : Fld := ⟨0x9, 0x100, 0, 22⟩
abbrev MARK : Fld := ⟨0x9, 0x104, 0, 15⟩
abbrev BUDGET : Fld := ⟨0x9, 0x108, 0, 7⟩
abbrev OVRLIM : Fld := ⟨0x9, 0x10c, 0, 4⟩
abbrev ALIGN_EN : Fld := ⟨0x9, 0x110, 0, 1⟩
abbrev LAPSYNC : Fld := ⟨0x9, 0x110, 1, 1⟩
abbrev SLEW : Fld := ⟨0x9, 0x110, 8, 8⟩
abbrev STEPLIM : Fld := ⟨0x9, 0x114, 0, 16⟩
abbrev QUEUE : Fld := ⟨0x9, 0x118, 0, 5⟩
abbrev DIGQ_EN : Fld := ⟨0x9, 0x118, 7, 1⟩
abbrev ALIGNED : Fld := ⟨0x9, 0x11c, 0, 1⟩
abbrev HOLDOVER : Fld := ⟨0x9, 0x11c, 1, 1⟩
abbrev SSTAT_REPLAY : Fld := ⟨0x9, 0x11c, 2, 1⟩
abbrev INSTRIDE : Fld := ⟨0x9, 0x11c, 3, 1⟩
abbrev STAGED : Fld := ⟨0x9, 0x11c, 4, 1⟩
abbrev LENPEND : Fld := ⟨0x9, 0x11c, 5, 1⟩
abbrev LENACT : Fld := ⟨0x9, 0x120, 0, 22⟩
abbrev LAPL : Fld := ⟨0x9, 0x124, 0, 32⟩
abbrev LAPH : Fld := ⟨0x9, 0x128, 0, 16⟩
abbrev SPLITL : Fld := ⟨0x9, 0x12c, 0, 32⟩
abbrev SPLITH : Fld := ⟨0x9, 0x130, 0, 32⟩
abbrev TICKSPL : Fld := ⟨0x9, 0x134, 0, 32⟩
abbrev FINOFF : Fld := ⟨0x9, 0x138, 0, 22⟩
abbrev FINMAX : Fld := ⟨0x9, 0x13c, 0, 22⟩
abbrev OVRCNT : Fld := ⟨0x9, 0x140, 0, 32⟩
abbrev OVRSEQ : Fld := ⟨0x9, 0x144, 0, 4⟩
abbrev LATECNT : Fld := ⟨0x9, 0x148, 0, 32⟩
abbrev SDIG : Fld := ⟨0x9, 0x14c, 0, 32⟩
abbrev CDIG : Fld := ⟨0x9, 0x150, 0, 32⟩
abbrev ALIGNOFF : Fld := ⟨0x9, 0x154, 0, 32⟩
abbrev RPLCTRL_EN : Fld := ⟨0x9, 0x160, 0, 1⟩
abbrev APPLY : Fld := ⟨0x9, 0x160, 1, 1⟩
abbrev STEP : Fld := ⟨0x9, 0x160, 2, 1⟩
abbrev CMPEN : Fld := ⟨0x9, 0x160, 3, 1⟩
abbrev RPLLAPL : Fld := ⟨0x9, 0x164, 0, 32⟩
abbrev RPLLAPH : Fld := ⟨0x9, 0x168, 0, 16⟩
abbrev RPLSEXP : Fld := ⟨0x9, 0x16c, 0, 32⟩
abbrev RPLCEXP : Fld := ⟨0x9, 0x170, 0, 32⟩
abbrev RPLSTAT : Fld := ⟨0x9, 0x174, 0, 4⟩
abbrev RPLMIS : Fld := ⟨0x9, 0x178, 0, 32⟩
end STR

namespace BQ
abbrev PUSHP0 : Fld := ⟨0xa, 0x800, 0, 32⟩
abbrev PUSHP1 : Fld := ⟨0xa, 0x804, 0, 32⟩
abbrev TL : Fld := ⟨0xa, 0x808, 0, 16⟩
abbrev QUEUE : Fld := ⟨0xa, 0x808, 16, 5⟩
abbrev OK : Fld := ⟨0xa, 0x80c, 0, 1⟩
abbrev FULL : Fld := ⟨0xa, 0x80c, 1, 1⟩
abbrev BADTL : Fld := ⟨0xa, 0x80c, 2, 1⟩
abbrev BADREF : Fld := ⟨0xa, 0x80c, 3, 1⟩
abbrev OFF : Fld := ⟨0xa, 0x80c, 4, 1⟩
abbrev STAGED : Fld := ⟨0xa, 0x80c, 5, 1⟩
abbrev DEPTH (k : Nat) : Fld := ⟨0xa, 0x100 + 0x20 * k, 0, 9⟩
abbrev FULLPOL (k : Nat) : Fld := ⟨0xa, 0x100 + 0x20 * k, 9, 1⟩
abbrev REFCOPY (k : Nat) : Fld := ⟨0xa, 0x100 + 0x20 * k, 10, 1⟩
abbrev THR (k : Nat) : Fld := ⟨0xa, 0x100 + 0x20 * k, 16, 8⟩
abbrev HWC (k : Nat) : Fld := ⟨0xa, 0x100 + 0x20 * k, 24, 8⟩
abbrev COUNT (k : Nat) : Fld := ⟨0xa, 0x104 + 0x20 * k, 0, 9⟩
abbrev OVF (k : Nat) : Fld := ⟨0xa, 0x104 + 0x20 * k, 16, 1⟩
abbrev HELD (k : Nat) : Fld := ⟨0xa, 0x104 + 0x20 * k, 17, 1⟩
abbrev OVFCNT (k : Nat) : Fld := ⟨0xa, 0x108 + 0x20 * k, 0, 32⟩
abbrev ADV (k : Nat) : Fld := ⟨0xa, 0x10c + 0x20 * k, 0, 1⟩
abbrev FLUSH (k : Nat) : Fld := ⟨0xa, 0x10c + 0x20 * k, 1, 1⟩
abbrev HEAD0 (k : Nat) : Fld := ⟨0xa, 0x110 + 0x20 * k, 0, 32⟩
abbrev HEAD1 (k : Nat) : Fld := ⟨0xa, 0x114 + 0x20 * k, 0, 32⟩
abbrev HEAD2 (k : Nat) : Fld := ⟨0xa, 0x118 + 0x20 * k, 0, 32⟩
abbrev HEAD3 (k : Nat) : Fld := ⟨0xa, 0x11c + 0x20 * k, 0, 32⟩
end BQ

namespace PAC
abbrev VBAR : Fld := ⟨0xb, 0x100, 9, 23⟩
abbrev SVBAR : Fld := ⟨0xb, 0x104, 9, 23⟩
abbrev STRENTRY : Fld := ⟨0xb, 0x108, 1, 31⟩
abbrev STRSP : Fld := ⟨0xb, 0x10c, 2, 30⟩
abbrev DZT : Fld := ⟨0xb, 0x110, 8, 1⟩
abbrev VT : Fld := ⟨0xb, 0x110, 9, 1⟩
abbrev STRPG : Fld := ⟨0xb, 0x114, 12, 20⟩
abbrev LVL (j : Nat) : Fld := ⟨0xb, 0x118 + 0x4 * j, 0, 32⟩
abbrev EVPEND0_PEND : Fld := ⟨0xb, 0x128, 0, 32⟩
abbrev EVPEND1_PEND : Fld := ⟨0xb, 0x12c, 0, 32⟩
abbrev TRAPCNT : Fld := ⟨0xb, 0x130, 0, 32⟩
abbrev VEC : Fld := ⟨0xb, 0x134, 0, 7⟩
abbrev CTX : Fld := ⟨0xb, 0x134, 8, 1⟩
abbrev LASTPC : Fld := ⟨0xb, 0x138, 0, 32⟩
abbrev ECCCNT : Fld := ⟨0xb, 0x13c, 0, 32⟩
abbrev INJ : Fld := ⟨0xb, 0x140, 0, 1⟩
abbrev TDONE : Fld := ⟨0xb, 0x140, 1, 1⟩
abbrev STRCYC : Fld := ⟨0xb, 0x144, 0, 22⟩
abbrev STRCYCMAX : Fld := ⟨0xb, 0x148, 0, 22⟩
end PAC

namespace LNK
abbrev TIME : Fld := ⟨0x51, 0x100, 0, 5⟩
abbrev PDAOK : Fld := ⟨0x51, 0x104, 0, 1⟩
abbrev PDBOK : Fld := ⟨0x51, 0x104, 1, 1⟩
abbrev PDAFS : Fld := ⟨0x51, 0x104, 2, 1⟩
abbrev PDBFS : Fld := ⟨0x51, 0x104, 3, 1⟩
abbrev CRCA : Fld := ⟨0x51, 0x108, 0, 16⟩
abbrev CRCB : Fld := ⟨0x51, 0x108, 16, 16⟩
abbrev LOSSA : Fld := ⟨0x51, 0x10c, 0, 16⟩
abbrev LOSSB : Fld := ⟨0x51, 0x10c, 16, 16⟩
end LNK

namespace LSW
abbrev EN (n : Nat) : Fld := ⟨0x10 + n / 8, 0x100 + 0x80 * (n % 8), 0, 1⟩
abbrev MODE (n : Nat) : Fld := ⟨0x10 + n / 8, 0x100 + 0x80 * (n % 8), 1, 2⟩
abbrev OLONEN (n : Nat) : Fld := ⟨0x10 + n / 8, 0x100 + 0x80 * (n % 8), 3, 1⟩
abbrev OFFDIAG (n : Nat) : Fld := ⟨0x10 + n / 8, 0x100 + 0x80 * (n % 8), 4, 1⟩
abbrev RVON (n : Nat) : Fld := ⟨0x10 + n / 8, 0x100 + 0x80 * (n % 8), 5, 1⟩
abbrev SLEW (n : Nat) : Fld := ⟨0x10 + n / 8, 0x100 + 0x80 * (n % 8), 6, 2⟩
abbrev SG (n : Nat) : Fld := ⟨0x10 + n / 8, 0x100 + 0x80 * (n % 8), 8, 2⟩
abbrev DUTY (n : Nat) : Fld := ⟨0x10 + n / 8, 0x104 + 0x80 * (n % 8), 0, 13⟩
abbrev PWMB (n : Nat) : Fld := ⟨0x10 + n / 8, 0x104 + 0x80 * (n % 8), 16, 2⟩
abbrev STAG (n : Nat) : Fld := ⟨0x10 + n / 8, 0x104 + 0x80 * (n % 8), 18, 1⟩
abbrev PHASE (n : Nat) : Fld := ⟨0x10 + n / 8, 0x104 + 0x80 * (n % 8), 20, 12⟩
abbrev SSCALE (n : Nat) : Fld := ⟨0x10 + n / 8, 0x108 + 0x80 * (n % 8), 0, 4⟩
abbrev INRWIN (n : Nat) : Fld := ⟨0x10 + n / 8, 0x108 + 0x80 * (n % 8), 8, 8⟩
abbrev RETRY (n : Nat) : Fld := ⟨0x10 + n / 8, 0x108 + 0x80 * (n % 8), 16, 4⟩
abbrev RTRINT (n : Nat) : Fld := ⟨0x10 + n / 8, 0x108 + 0x80 * (n % 8), 24, 8⟩
abbrev OLTH (n : Nat) : Fld := ⟨0x10 + n / 8, 0x10c + 0x80 * (n % 8), 0, 8⟩
abbrev OLTIME (n : Nat) : Fld := ⟨0x10 + n / 8, 0x10c + 0x80 * (n % 8), 8, 8⟩
abbrev DEFLIM (n : Nat) : Fld := ⟨0x10 + n / 8, 0x10c + 0x80 * (n % 8), 16, 8⟩
abbrev STATE (n : Nat) : Fld := ⟨0x10 + n / 8, 0x110 + 0x80 * (n % 8), 0, 4⟩
abbrev RETRYREM (n : Nat) : Fld := ⟨0x10 + n / 8, 0x110 + 0x80 * (n % 8), 4, 4⟩
abbrev PENDEN (n : Nat) : Fld := ⟨0x10 + n / 8, 0x110 + 0x80 * (n % 8), 8, 1⟩
abbrev LATCH (n : Nat) : Fld := ⟨0x10 + n / 8, 0x110 + 0x80 * (n % 8), 9, 1⟩
abbrev LIMITING (n : Nat) : Fld := ⟨0x10 + n / 8, 0x110 + 0x80 * (n % 8), 10, 1⟩
abbrev DERATED (n : Nat) : Fld := ⟨0x10 + n / 8, 0x110 + 0x80 * (n % 8), 11, 1⟩
abbrev FSACT (n : Nat) : Fld := ⟨0x10 + n / 8, 0x110 + 0x80 * (n % 8), 12, 1⟩
abbrev FLT (n : Nat) : Fld := ⟨0x10 + n / 8, 0x114 + 0x80 * (n % 8), 0, 13⟩
abbrev IOUT (n : Nat) : Fld := ⟨0x10 + n / 8, 0x118 + 0x80 * (n % 8), 0, 16⟩
abbrev VOUT (n : Nat) : Fld := ⟨0x10 + n / 8, 0x118 + 0x80 * (n % 8), 16, 16⟩
abbrev TJ (n : Nat) : Fld := ⟨0x10 + n / 8, 0x11c + 0x80 * (n % 8), 0, 16⟩
abbrev TDIFF (n : Nat) : Fld := ⟨0x10 + n / 8, 0x11c + 0x80 * (n % 8), 16, 16⟩
abbrev TRIPS (n : Nat) : Fld := ⟨0x10 + n / 8, 0x120 + 0x80 * (n % 8), 0, 16⟩
abbrev LIMEPS (n : Nat) : Fld := ⟨0x10 + n / 8, 0x120 + 0x80 * (n % 8), 16, 16⟩
abbrev RON (n : Nat) : Fld := ⟨0x10 + n / 8, 0x124 + 0x80 * (n % 8), 0, 16⟩
end LSW

namespace LSWC
abbrev FSPAT (p w : Nat) : Fld := ⟨0x17, 0x100 + 0x10 * p + 0x4 * w, 0, 32⟩
abbrev PAIR : Fld := ⟨0x17, 0x140, 0, 26⟩
abbrev QUAD : Fld := ⟨0x17, 0x144, 0, 13⟩
abbrev DIAGPER : Fld := ⟨0x17, 0x148, 0, 8⟩
abbrev PULSEMARGIN : Fld := ⟨0x17, 0x148, 8, 8⟩
abbrev PODLEN : Fld := ⟨0x17, 0x14c, 0, 4⟩
abbrev SRC (g : Nat) : Fld := ⟨0x17, 0x150 + 0x10 * g, 0, 2⟩
abbrev EN (g : Nat) : Fld := ⟨0x17, 0x150 + 0x10 * g, 2, 1⟩
abbrev POL (g : Nat) : Fld := ⟨0x17, 0x150 + 0x10 * g, 3, 1⟩
abbrev LATEMAX (g : Nat) : Fld := ⟨0x17, 0x150 + 0x10 * g, 8, 8⟩
abbrev DELAY (g : Nat) : Fld := ⟨0x17, 0x150 + 0x10 * g, 16, 16⟩
abbrev WIDTH (g : Nat) : Fld := ⟨0x17, 0x154 + 0x10 * g, 0, 13⟩
abbrev PER (g : Nat) : Fld := ⟨0x17, 0x158 + 0x10 * g, 0, 20⟩
abbrev PHASE (g : Nat) : Fld := ⟨0x17, 0x15c + 0x10 * g, 0, 20⟩
abbrev FIRED (g : Nat) : Fld := ⟨0x17, 0x190 + 0x4 * g, 0, 16⟩
abbrev SKIPPED (g : Nat) : Fld := ⟨0x17, 0x190 + 0x4 * g, 16, 16⟩
end LSWC

namespace MSH
abbrev ICONT : Fld := ⟨0xc, 0x100, 0, 8⟩
abbrev PKMAX : Fld := ⟨0xc, 0x104, 0, 10⟩
abbrev VFLOOR : Fld := ⟨0xc, 0x108, 0, 12⟩
abbrev VSAG : Fld := ⟨0xc, 0x10c, 0, 12⟩
abbrev VRECOV : Fld := ⟨0xc, 0x10c, 16, 12⟩
abbrev TIME : Fld := ⟨0xc, 0x110, 0, 8⟩
abbrev RSRC : Fld := ⟨0xc, 0x114, 0, 12⟩
abbrev LEARN : Fld := ⟨0xc, 0x114, 16, 1⟩
abbrev RLEARN : Fld := ⟨0xc, 0x118, 0, 12⟩
abbrev HEAVY : Fld := ⟨0xc, 0x11c, 0, 8⟩
abbrev MEDIUM : Fld := ⟨0xc, 0x11c, 8, 8⟩
abbrev LIGHT : Fld := ⟨0xc, 0x11c, 16, 8⟩
abbrev HBPK : Fld := ⟨0xc, 0x120, 0, 8⟩
abbrev HBREL : Fld := ⟨0xc, 0x120, 8, 8⟩
abbrev WAKEW : Fld := ⟨0xc, 0x120, 16, 8⟩
abbrev WAKESLOT : Fld := ⟨0xc, 0x120, 24, 4⟩
abbrev AGELIM : Fld := ⟨0xc, 0x124, 0, 16⟩
abbrev FREEZE : Fld := ⟨0xc, 0x128, 0, 1⟩
abbrev OVSUSP : Fld := ⟨0xc, 0x128, 1, 1⟩
abbrev FALLBACK : Fld := ⟨0xc, 0x128, 2, 1⟩
abbrev WAITING : Fld := ⟨0xc, 0x128, 8, 8⟩
abbrev PKUSE : Fld := ⟨0xc, 0x12c, 0, 10⟩
abbrev CONTUSE : Fld := ⟨0xc, 0x12c, 16, 9⟩
abbrev HEATS : Fld := ⟨0xc, 0x130, 0, 32⟩
abbrev DEFER : Fld := ⟨0xc, 0x134, 0, 32⟩
abbrev FREEZES : Fld := ⟨0xc, 0x138, 0, 16⟩
abbrev PRIO (w : Nat) : Fld := ⟨0xc, 0x140 + 0x4 * w, 0, 32⟩
end MSH

namespace VDB
abbrev POLICY (p : Nat) : Fld := ⟨0x18 + p, 0x40, 0, 2⟩
abbrev PKBUD (p : Nat) : Fld := ⟨0x18 + p, 0x40, 8, 7⟩
abbrev BOFFDLY (p : Nat) : Fld := ⟨0x18 + p, 0x40, 16, 8⟩
abbrev OFFDIAG (p : Nat) : Fld := ⟨0x18 + p, 0x40, 24, 1⟩
abbrev BPULSE (p : Nat) : Fld := ⟨0x18 + p, 0x40, 25, 1⟩
abbrev BANKLIM_RETRY (p : Nat) : Fld := ⟨0x18 + p, 0x44, 0, 4⟩
abbrev BANKLIM_RTRINT (p : Nat) : Fld := ⟨0x18 + p, 0x44, 8, 8⟩
abbrev BANKLIM_DEFLIM (p : Nat) : Fld := ⟨0x18 + p, 0x44, 16, 8⟩
abbrev BANKLIM_OLTIME (p : Nat) : Fld := ⟨0x18 + p, 0x44, 24, 8⟩
abbrev BSTATE (p : Nat) : Fld := ⟨0x18 + p, 0x48, 0, 4⟩
abbrev ACTIVE (p : Nat) : Fld := ⟨0x18 + p, 0x48, 4, 4⟩
abbrev BANKSTAT_PEAKS (p : Nat) : Fld := ⟨0x18 + p, 0x48, 8, 4⟩
abbrev BWAIT (p : Nat) : Fld := ⟨0x18 + p, 0x48, 12, 4⟩
abbrev BANKSTAT_RETRYREM (p : Nat) : Fld := ⟨0x18 + p, 0x48, 16, 4⟩
abbrev BANKSTAT_LATCH (p : Nat) : Fld := ⟨0x18 + p, 0x48, 20, 1⟩
abbrev BANKFLT (p : Nat) : Fld := ⟨0x18 + p, 0x4c, 0, 11⟩
abbrev IBANK (p : Nat) : Fld := ⟨0x18 + p, 0x50, 0, 13⟩
abbrev VBANK (p : Nat) : Fld := ⟨0x18 + p, 0x50, 16, 16⟩
abbrev BANKTEMP_TJ (p : Nat) : Fld := ⟨0x18 + p, 0x54, 0, 16⟩
abbrev DEMAND (p : Nat) : Fld := ⟨0x18 + p, 0x54, 16, 8⟩
abbrev BANKCNT_TRIPS (p : Nat) : Fld := ⟨0x18 + p, 0x58, 0, 16⟩
abbrev PKDLY (p : Nat) : Fld := ⟨0x18 + p, 0x58, 16, 16⟩
abbrev EN (n : Nat) : Fld := ⟨0x18 + n / 4, 0x100 + 0x80 * (n % 4), 0, 1⟩
abbrev MODE (n : Nat) : Fld := ⟨0x18 + n / 4, 0x100 + 0x80 * (n % 4), 1, 2⟩
abbrev PROF (n : Nat) : Fld := ⟨0x18 + n / 4, 0x100 + 0x80 * (n % 4), 3, 6⟩
abbrev OFFDECAY (n : Nat) : Fld := ⟨0x18 + n / 4, 0x100 + 0x80 * (n % 4), 9, 1⟩
abbrev OLONEN (n : Nat) : Fld := ⟨0x18 + n / 4, 0x100 + 0x80 * (n % 4), 10, 1⟩
abbrev STAG (n : Nat) : Fld := ⟨0x18 + n / 4, 0x100 + 0x80 * (n % 4), 12, 1⟩
abbrev SET (n : Nat) : Fld := ⟨0x18 + n / 4, 0x104 + 0x80 * (n % 4), 0, 12⟩
abbrev DUTY (n : Nat) : Fld := ⟨0x18 + n / 4, 0x104 + 0x80 * (n % 4), 16, 13⟩
abbrev DAMP (n : Nat) : Fld := ⟨0x18 + n / 4, 0x108 + 0x80 * (n % 4), 0, 8⟩
abbrev DFREQ (n : Nat) : Fld := ⟨0x18 + n / 4, 0x108 + 0x80 * (n % 4), 8, 9⟩
abbrev DSHAPE (n : Nat) : Fld := ⟨0x18 + n / 4, 0x108 + 0x80 * (n % 4), 17, 1⟩
abbrev DPHASE (n : Nat) : Fld := ⟨0x18 + n / 4, 0x108 + 0x80 * (n % 4), 18, 2⟩
abbrev PWMF (n : Nat) : Fld := ⟨0x18 + n / 4, 0x10c + 0x80 * (n % 4), 0, 9⟩
abbrev GAIN (n : Nat) : Fld := ⟨0x18 + n / 4, 0x10c + 0x80 * (n % 4), 16, 3⟩
abbrev CHLIM_RETRY (n : Nat) : Fld := ⟨0x18 + n / 4, 0x110 + 0x80 * (n % 4), 0, 4⟩
abbrev CHLIM_RTRINT (n : Nat) : Fld := ⟨0x18 + n / 4, 0x110 + 0x80 * (n % 4), 8, 8⟩
abbrev CHLIM_DEFLIM (n : Nat) : Fld := ⟨0x18 + n / 4, 0x110 + 0x80 * (n % 4), 16, 8⟩
abbrev CHLIM_OLTIME (n : Nat) : Fld := ⟨0x18 + n / 4, 0x110 + 0x80 * (n % 4), 24, 8⟩
abbrev STATE (n : Nat) : Fld := ⟨0x18 + n / 4, 0x114 + 0x80 * (n % 4), 0, 4⟩
abbrev CHSTAT_RETRYREM (n : Nat) : Fld := ⟨0x18 + n / 4, 0x114 + 0x80 * (n % 4), 4, 4⟩
abbrev PENDEN (n : Nat) : Fld := ⟨0x18 + n / 4, 0x114 + 0x80 * (n % 4), 8, 1⟩
abbrev CHSTAT_LATCH (n : Nat) : Fld := ⟨0x18 + n / 4, 0x114 + 0x80 * (n % 4), 9, 1⟩
abbrev SLAVE (n : Nat) : Fld := ⟨0x18 + n / 4, 0x114 + 0x80 * (n % 4), 10, 1⟩
abbrev FLT (n : Nat) : Fld := ⟨0x18 + n / 4, 0x118 + 0x80 * (n % 4), 0, 16⟩
abbrev IMEAS (n : Nat) : Fld := ⟨0x18 + n / 4, 0x11c + 0x80 * (n % 4), 0, 13⟩
abbrev DUTYACT (n : Nat) : Fld := ⟨0x18 + n / 4, 0x11c + 0x80 * (n % 4), 16, 13⟩
abbrev CHTEMP_TJ (n : Nat) : Fld := ⟨0x18 + n / 4, 0x120 + 0x80 * (n % 4), 0, 16⟩
abbrev PULLIN (n : Nat) : Fld := ⟨0x18 + n / 4, 0x120 + 0x80 * (n % 4), 16, 16⟩
abbrev CHCNT_TRIPS (n : Nat) : Fld := ⟨0x18 + n / 4, 0x124 + 0x80 * (n % 4), 0, 16⟩
abbrev CHCNT_PEAKS (n : Nat) : Fld := ⟨0x18 + n / 4, 0x124 + 0x80 * (n % 4), 16, 16⟩
end VDB

namespace VDC
abbrev PAIR : Fld := ⟨0x1c, 0x100, 0, 8⟩
abbrev DIAGPER : Fld := ⟨0x1c, 0x104, 0, 8⟩
abbrev SLOWMAX : Fld := ⟨0x1c, 0x104, 8, 8⟩
abbrev FSPROF : Fld := ⟨0x1c, 0x108, 0, 6⟩
abbrev FSHOLD : Fld := ⟨0x1c, 0x108, 8, 12⟩
abbrev FSPAT (p : Nat) : Fld := ⟨0x1c, 0x110 + 0x4 * p, 0, 32⟩
abbrev PROF : Fld := ⟨0x1c, 0x120, 0, 6⟩
abbrev CHAN : Fld := ⟨0x1c, 0x120, 8, 4⟩
end VDC

namespace HB
abbrev CMD (n : Nat) : Fld := ⟨0x1d + n / 6, 0x100 + 0x80 * (n % 6), 0, 3⟩
abbrev OLONEN (n : Nat) : Fld := ⟨0x1d + n / 6, 0x100 + 0x80 * (n % 6), 3, 1⟩
abbrev OFFDIAG (n : Nat) : Fld := ⟨0x1d + n / 6, 0x100 + 0x80 * (n % 6), 4, 1⟩
abbrev STALLACT (n : Nat) : Fld := ⟨0x1d + n / 6, 0x100 + 0x80 * (n % 6), 5, 1⟩
abbrev SLEW (n : Nat) : Fld := ⟨0x1d + n / 6, 0x100 + 0x80 * (n % 6), 6, 2⟩
abbrev DUTY (n : Nat) : Fld := ⟨0x1d + n / 6, 0x104 + 0x80 * (n % 6), 0, 13⟩
abbrev PDUTY (n : Nat) : Fld := ⟨0x1d + n / 6, 0x104 + 0x80 * (n % 6), 16, 13⟩
abbrev PWMF (n : Nat) : Fld := ⟨0x1d + n / 6, 0x108 + 0x80 * (n % 6), 0, 8⟩
abbrev DEADT (n : Nat) : Fld := ⟨0x1d + n / 6, 0x108 + 0x80 * (n % 6), 8, 4⟩
abbrev LIM (n : Nat) : Fld := ⟨0x1d + n / 6, 0x10c + 0x80 * (n % 6), 0, 32⟩
abbrev REVBRK (n : Nat) : Fld := ⟨0x1d + n / 6, 0x110 + 0x80 * (n % 6), 0, 8⟩
abbrev STALLT (n : Nat) : Fld := ⟨0x1d + n / 6, 0x110 + 0x80 * (n % 6), 8, 8⟩
abbrev STALLI (n : Nat) : Fld := ⟨0x1d + n / 6, 0x110 + 0x80 * (n % 6), 16, 8⟩
abbrev OLTH (n : Nat) : Fld := ⟨0x1d + n / 6, 0x110 + 0x80 * (n % 6), 24, 8⟩
abbrev IN (n : Nat) : Fld := ⟨0x1d + n / 6, 0x114 + 0x80 * (n % 6), 0, 6⟩
abbrev PLVL (n : Nat) : Fld := ⟨0x1d + n / 6, 0x114 + 0x80 * (n % 6), 6, 1⟩
abbrev PEN (n : Nat) : Fld := ⟨0x1d + n / 6, 0x114 + 0x80 * (n % 6), 7, 1⟩
abbrev PARKTO (n : Nat) : Fld := ⟨0x1d + n / 6, 0x114 + 0x80 * (n % 6), 8, 8⟩
abbrev RIPMIN (n : Nat) : Fld := ⟨0x1d + n / 6, 0x118 + 0x80 * (n % 6), 0, 8⟩
abbrev RPHYS (n : Nat) : Fld := ⟨0x1d + n / 6, 0x118 + 0x80 * (n % 6), 8, 5⟩
abbrev RIPEN (n : Nat) : Fld := ⟨0x1d + n / 6, 0x118 + 0x80 * (n % 6), 13, 1⟩
abbrev INSEN (n : Nat) : Fld := ⟨0x1d + n / 6, 0x118 + 0x80 * (n % 6), 14, 1⟩
abbrev STAT (n : Nat) : Fld := ⟨0x1d + n / 6, 0x11c + 0x80 * (n % 6), 0, 15⟩
abbrev FLT (n : Nat) : Fld := ⟨0x1d + n / 6, 0x120 + 0x80 * (n % 6), 0, 15⟩
abbrev SENSE (n : Nat) : Fld := ⟨0x1d + n / 6, 0x124 + 0x80 * (n % 6), 0, 32⟩
abbrev TJ (n : Nat) : Fld := ⟨0x1d + n / 6, 0x128 + 0x80 * (n % 6), 0, 16⟩
abbrev POS (n : Nat) : Fld := ⟨0x1d + n / 6, 0x12c + 0x80 * (n % 6), 0, 32⟩
abbrev VALUE (n : Nat) : Fld := ⟨0x1d + n / 6, 0x130 + 0x80 * (n % 6), 0, 32⟩
abbrev SEQ (n : Nat) : Fld := ⟨0x1d + n / 6, 0x134 + 0x80 * (n % 6), 0, 1⟩
abbrev RIPPER (n : Nat) : Fld := ⟨0x1d + n / 6, 0x138 + 0x80 * (n % 6), 0, 16⟩
abbrev INSERTED (n : Nat) : Fld := ⟨0x1d + n / 6, 0x138 + 0x80 * (n % 6), 16, 16⟩
abbrev CNT (n : Nat) : Fld := ⟨0x1d + n / 6, 0x13c + 0x80 * (n % 6), 0, 32⟩
end HB

namespace HBC
abbrev HPAIR : Fld := ⟨0x1f, 0x100, 0, 6⟩
abbrev FSPAT (p : Nat) : Fld := ⟨0x1f, 0x104 + 0x4 * p, 0, 24⟩
abbrev DIAGPER : Fld := ⟨0x1f, 0x114, 0, 8⟩
end HBC

namespace LDS
abbrev EVT2 : Fld := ⟨0x20, 0x30, 0, 16⟩
abbrev HRLOW : Fld := ⟨0x20, 0x30, 16, 1⟩
abbrev EVTEN2 : Fld := ⟨0x20, 0x34, 0, 17⟩
abbrev FLT2 : Fld := ⟨0x20, 0x38, 0, 16⟩
abbrev GFS : Fld := ⟨0x20, 0x3c, 0, 8⟩
abbrev HRSEL0 : Fld := ⟨0x20, 0x40, 0, 32⟩
abbrev HRSEL1 : Fld := ⟨0x20, 0x44, 0, 16⟩
abbrev VMIN : Fld := ⟨0x20, 0x48, 0, 16⟩
abbrev SINK : Fld := ⟨0x20, 0x48, 16, 6⟩
abbrev VALID : Fld := ⟨0x20, 0x48, 24, 1⟩
abbrev LOWTH : Fld := ⟨0x20, 0x4c, 0, 12⟩
abbrev FSCUR : Fld := ⟨0x20, 0x50, 0, 8⟩
abbrev FSPAT (p w : Nat) : Fld := ⟨0x20, 0x60 + 0x10 * p + 0x4 * w, 0, 32⟩
abbrev EN (n : Nat) : Fld := ⟨0x20, 0x100 + 0x40 * n, 0, 1⟩
abbrev SHORTOFF (n : Nat) : Fld := ⟨0x20, 0x100 + 0x40 * n, 1, 1⟩
abbrev STAG (n : Nat) : Fld := ⟨0x20, 0x100 + 0x40 * n, 2, 1⟩
abbrev OLONEN (n : Nat) : Fld := ⟨0x20, 0x100 + 0x40 * n, 3, 1⟩
abbrev PWMB (n : Nat) : Fld := ⟨0x20, 0x100 + 0x40 * n, 4, 2⟩
abbrev BIN (n : Nat) : Fld := ⟨0x20, 0x100 + 0x40 * n, 8, 8⟩
abbrev PHASE (n : Nat) : Fld := ⟨0x20, 0x100 + 0x40 * n, 16, 12⟩
abbrev VAL (n : Nat) : Fld := ⟨0x20, 0x104 + 0x40 * n, 0, 10⟩
abbrev DUTY (n : Nat) : Fld := ⟨0x20, 0x104 + 0x40 * n, 16, 16⟩
abbrev SHTH (n : Nat) : Fld := ⟨0x20, 0x108 + 0x40 * n, 0, 8⟩
abbrev OLTIME (n : Nat) : Fld := ⟨0x20, 0x108 + 0x40 * n, 8, 8⟩
abbrev STAT (n : Nat) : Fld := ⟨0x20, 0x10c + 0x40 * n, 0, 8⟩
abbrev FLT (n : Nat) : Fld := ⟨0x20, 0x110 + 0x40 * n, 0, 6⟩
abbrev IOUT (n : Nat) : Fld := ⟨0x20, 0x114 + 0x40 * n, 0, 12⟩
abbrev VSINK (n : Nat) : Fld := ⟨0x20, 0x114 + 0x40 * n, 16, 16⟩
abbrev TJ (n : Nat) : Fld := ⟨0x20, 0x118 + 0x40 * n, 0, 16⟩
abbrev VALEFF (n : Nat) : Fld := ⟨0x20, 0x11c + 0x40 * n, 0, 10⟩
end LDS

namespace LMX
abbrev ROWS : Fld := ⟨0x21, 0x30, 0, 5⟩
abbrev COLS : Fld := ⟨0x21, 0x30, 8, 6⟩
abbrev SYNC : Fld := ⟨0x21, 0x30, 16, 2⟩
abbrev MPOL : Fld := ⟨0x21, 0x30, 18, 1⟩
abbrev SLOT : Fld := ⟨0x21, 0x34, 0, 14⟩
abbrev BLANK : Fld := ⟨0x21, 0x34, 16, 8⟩
abbrev MSYNCTO : Fld := ⟨0x21, 0x38, 0, 8⟩
abbrev ROWLIM : Fld := ⟨0x21, 0x3c, 0, 32⟩
abbrev TRUNC : Fld := ⟨0x21, 0x40, 0, 16⟩
abbrev FSPAT (p : Nat) : Fld := ⟨0x21, 0x50 + 0x4 * p, 0, 32⟩
abbrev EN (n : Nat) : Fld := ⟨0x21, 0x100 + 0x80 * n, 0, 1⟩
abbrev STAT (n : Nat) : Fld := ⟨0x21, 0x104 + 0x80 * n, 0, 11⟩
abbrev FLT (n : Nat) : Fld := ⟨0x21, 0x108 + 0x80 * n, 0, 8⟩
abbrev IROW (n : Nat) : Fld := ⟨0x21, 0x10c + 0x80 * n, 0, 12⟩
abbrev VROW (n : Nat) : Fld := ⟨0x21, 0x10c + 0x80 * n, 16, 16⟩
abbrev TJ (n : Nat) : Fld := ⟨0x21, 0x110 + 0x80 * n, 0, 16⟩
abbrev FRAME (n : Nat) : Fld := ⟨0x21, 0x140 + 0x80 * n, 0, 6⟩
abbrev RLD (n : Nat) : Fld := ⟨0x21, 0x140 + 0x80 * n, 8, 1⟩
abbrev SEQEN (n : Nat) : Fld := ⟨0x21, 0x140 + 0x80 * n, 9, 1⟩
abbrev SEQ (n : Nat) : Fld := ⟨0x21, 0x144 + 0x80 * n, 0, 25⟩
abbrev FRAMEACT (n : Nat) : Fld := ⟨0x21, 0x148 + 0x80 * n, 0, 6⟩
end LMX

namespace LCAL
abbrev EN : Fld := ⟨0x22, 0x100, 0, 1⟩
abbrev PIXEN : Fld := ⟨0x22, 0x100, 1, 1⟩
abbrev BIN : Fld := ⟨0x22, 0x104, 0, 8⟩
abbrev COUNT : Fld := ⟨0x22, 0x104, 16, 16⟩
end LCAL

namespace DIN
abbrev LEVEL (p : Nat) : Fld := ⟨0x24 + p, 0x30, 0, 32⟩
abbrev RAW (p : Nat) : Fld := ⟨0x24 + p, 0x34, 0, 32⟩
abbrev QUEUE (p : Nat) : Fld := ⟨0x24 + p, 0x38, 0, 5⟩
abbrev EN (p : Nat) : Fld := ⟨0x24 + p, 0x38, 7, 1⟩
abbrev PW (p : Nat) : Fld := ⟨0x24 + p, 0x3c, 0, 10⟩
abbrev PER (p : Nat) : Fld := ⟨0x24 + p, 0x3c, 16, 8⟩
abbrev TYPE (n : Nat) : Fld := ⟨0x24 + n / 32, 0x100 + 0x10 * (n % 32), 0, 2⟩
abbrev INV (n : Nat) : Fld := ⟨0x24 + n / 32, 0x100 + 0x10 * (n % 32), 2, 1⟩
abbrev WET (n : Nat) : Fld := ⟨0x24 + n / 32, 0x100 + 0x10 * (n % 32), 3, 2⟩
abbrev WCUR (n : Nat) : Fld := ⟨0x24 + n / 32, 0x100 + 0x10 * (n % 32), 5, 2⟩
abbrev WDIR (n : Nat) : Fld := ⟨0x24 + n / 32, 0x100 + 0x10 * (n % 32), 7, 1⟩
abbrev EDGEQ (n : Nat) : Fld := ⟨0x24 + n / 32, 0x100 + 0x10 * (n % 32), 8, 2⟩
abbrev DEB (n : Nat) : Fld := ⟨0x24 + n / 32, 0x100 + 0x10 * (n % 32), 16, 16⟩
abbrev CHSTAT_RAW (n : Nat) : Fld := ⟨0x24 + n / 32, 0x104 + 0x10 * (n % 32), 0, 1⟩
abbrev CHSTAT_LEVEL (n : Nat) : Fld := ⟨0x24 + n / 32, 0x104 + 0x10 * (n % 32), 1, 1⟩
abbrev VALID (n : Nat) : Fld := ⟨0x24 + n / 32, 0x104 + 0x10 * (n % 32), 2, 1⟩
abbrev GLITCH (n : Nat) : Fld := ⟨0x24 + n / 32, 0x108 + 0x10 * (n % 32), 0, 16⟩
end DIN

namespace DOUT
abbrev SUM : Fld := ⟨0x26, 0x30, 0, 5⟩
abbrev PAIR : Fld := ⟨0x26, 0x34, 0, 8⟩
abbrev DIAGPER : Fld := ⟨0x26, 0x38, 0, 8⟩
abbrev FSPAT (p : Nat) : Fld := ⟨0x26, 0x40 + 0x4 * p, 0, 32⟩
abbrev EN (n : Nat) : Fld := ⟨0x26, 0x100 + 0x80 * n, 0, 1⟩
abbrev OLONEN (n : Nat) : Fld := ⟨0x26, 0x100 + 0x80 * n, 1, 1⟩
abbrev OFFDIAG (n : Nat) : Fld := ⟨0x26, 0x100 + 0x80 * n, 2, 1⟩
abbrev LIM (n : Nat) : Fld := ⟨0x26, 0x104 + 0x80 * n, 0, 32⟩
abbrev OLTH (n : Nat) : Fld := ⟨0x26, 0x108 + 0x80 * n, 0, 8⟩
abbrev STAT (n : Nat) : Fld := ⟨0x26, 0x10c + 0x80 * n, 0, 12⟩
abbrev FLT (n : Nat) : Fld := ⟨0x26, 0x110 + 0x80 * n, 0, 9⟩
abbrev SENSE (n : Nat) : Fld := ⟨0x26, 0x114 + 0x80 * n, 0, 32⟩
abbrev TJ (n : Nat) : Fld := ⟨0x26, 0x118 + 0x80 * n, 0, 16⟩
end DOUT

namespace TMR
abbrev SRC (p : Nat) : Fld := ⟨0x28 + p, 0x100, 0, 3⟩
abbrev TIN (p : Nat) : Fld := ⟨0x28 + p, 0x100, 3, 3⟩
abbrev EDGE (p : Nat) : Fld := ⟨0x28 + p, 0x100, 6, 2⟩
abbrev DIR (p : Nat) : Fld := ⟨0x28 + p, 0x100, 8, 1⟩
abbrev TCFG_PRE (p : Nat) : Fld := ⟨0x28 + p, 0x100, 9, 1⟩
abbrev FOLLOW (p : Nat) : Fld := ⟨0x28 + p, 0x100, 12, 3⟩
abbrev LEAD (p : Nat) : Fld := ⟨0x28 + p, 0x100, 15, 2⟩
abbrev LOUT (p : Nat) : Fld := ⟨0x28 + p, 0x100, 17, 2⟩
abbrev LCH (p : Nat) : Fld := ⟨0x28 + p, 0x100, 19, 3⟩
abbrev PSC (p : Nat) : Fld := ⟨0x28 + p, 0x104, 0, 32⟩
abbrev PER (p : Nat) : Fld := ⟨0x28 + p, 0x108, 0, 32⟩
abbrev RUN (p : Nat) : Fld := ⟨0x28 + p, 0x10c, 0, 1⟩
abbrev LOAD (p : Nat) : Fld := ⟨0x28 + p, 0x10c, 1, 1⟩
abbrev CNTLD (p : Nat) : Fld := ⟨0x28 + p, 0x110, 0, 32⟩
abbrev CNT (p : Nat) : Fld := ⟨0x28 + p, 0x114, 0, 32⟩
abbrev RUNNING (p : Nat) : Fld := ⟨0x28 + p, 0x118, 0, 1⟩
abbrev ROLLOV (p : Nat) : Fld := ⟨0x28 + p, 0x118, 1, 1⟩
abbrev PERPEND (p : Nat) : Fld := ⟨0x28 + p, 0x118, 2, 1⟩
abbrev MODE (n : Nat) : Fld := ⟨0x28 + n / 8, 0x140 + 0x20 * (n % 8), 0, 2⟩
abbrev CHCTL_PRE (n : Nat) : Fld := ⟨0x28 + n / 8, 0x140 + 0x20 * (n % 8), 2, 1⟩
abbrev IMATCH (n : Nat) : Fld := ⟨0x28 + n / 8, 0x140 + 0x20 * (n % 8), 3, 1⟩
abbrev CSRC (n : Nat) : Fld := ⟨0x28 + n / 8, 0x140 + 0x20 * (n % 8), 4, 3⟩
abbrev CEDGE (n : Nat) : Fld := ⟨0x28 + n / 8, 0x140 + 0x20 * (n % 8), 7, 2⟩
abbrev QEN (n : Nat) : Fld := ⟨0x28 + n / 8, 0x140 + 0x20 * (n % 8), 9, 1⟩
abbrev QUEUE (n : Nat) : Fld := ⟨0x28 + n / 8, 0x140 + 0x20 * (n % 8), 10, 5⟩
abbrev CMP (n : Nat) : Fld := ⟨0x28 + n / 8, 0x144 + 0x20 * (n % 8), 0, 32⟩
abbrev CAP (n : Nat) : Fld := ⟨0x28 + n / 8, 0x148 + 0x20 * (n % 8), 0, 32⟩
abbrev MATCH (n : Nat) : Fld := ⟨0x28 + n / 8, 0x14c + 0x20 * (n % 8), 0, 1⟩
abbrev CAPT (n : Nat) : Fld := ⟨0x28 + n / 8, 0x14c + 0x20 * (n % 8), 1, 1⟩
abbrev OUTRNG (n : Nat) : Fld := ⟨0x28 + n / 8, 0x14c + 0x20 * (n % 8), 3, 1⟩
abbrev CMPPEND (n : Nat) : Fld := ⟨0x28 + n / 8, 0x14c + 0x20 * (n % 8), 4, 1⟩
abbrev CCNT (n : Nat) : Fld := ⟨0x28 + n / 8, 0x150 + 0x20 * (n % 8), 0, 16⟩
end TMR

namespace STG
abbrev PER (k : Nat) : Fld := ⟨0x2c, 0x100 + 0x10 * k, 0, 22⟩
abbrev TICKSYNC (k : Nat) : Fld := ⟨0x2c, 0x104 + 0x10 * k, 0, 1⟩
abbrev MEMBERS (k : Nat) : Fld := ⟨0x2c, 0x108 + 0x10 * k, 0, 8⟩
abbrev CUT (k : Nat) : Fld := ⟨0x2c, 0x108 + 0x10 * k, 16, 16⟩
abbrev TSTAG_UNITS : Fld := ⟨0x2c, 0x140, 0, 4⟩
abbrev GO : Fld := ⟨0x2c, 0x140, 4, 1⟩
end STG

namespace CAN
abbrev MODE (p : Nat) : Fld := ⟨0x30 + p, 0x100, 0, 2⟩
abbrev ONESHOT (p : Nat) : Fld := ⟨0x30 + p, 0x100, 2, 1⟩
abbrev EXCINT (p : Nat) : Fld := ⟨0x30 + p, 0x100, 3, 1⟩
abbrev TDCEN (p : Nat) : Fld := ⟨0x30 + p, 0x100, 4, 1⟩
abbrev FDEN (p : Nat) : Fld := ⟨0x30 + p, 0x100, 5, 1⟩
abbrev NOMATCH (p : Nat) : Fld := ⟨0x30 + p, 0x100, 8, 2⟩
abbrev RXPOL (p : Nat) : Fld := ⟨0x30 + p, 0x100, 10, 1⟩
abbrev NUMFILT (p : Nat) : Fld := ⟨0x30 + p, 0x100, 16, 8⟩
abbrev NBT (p : Nat) : Fld := ⟨0x30 + p, 0x104, 0, 32⟩
abbrev DBT (p : Nat) : Fld := ⟨0x30 + p, 0x108, 0, 32⟩
abbrev SSPOFF (p : Nat) : Fld := ⟨0x30 + p, 0x10c, 0, 8⟩
abbrev NODEADDR (p : Nat) : Fld := ⟨0x30 + p, 0x110, 0, 8⟩
abbrev BASE (p : Nat) : Fld := ⟨0x30 + p, 0x114, 0, 16⟩
abbrev COUNT (p : Nat) : Fld := ⟨0x30 + p, 0x114, 16, 8⟩
abbrev F0Q (p : Nat) : Fld := ⟨0x30 + p, 0x118, 0, 5⟩
abbrev F0BQ (p : Nat) : Fld := ⟨0x30 + p, 0x118, 7, 1⟩
abbrev F1Q (p : Nat) : Fld := ⟨0x30 + p, 0x118, 8, 5⟩
abbrev F1BQ (p : Nat) : Fld := ⟨0x30 + p, 0x118, 15, 1⟩
abbrev EVQ (p : Nat) : Fld := ⟨0x30 + p, 0x118, 16, 5⟩
abbrev EVEN (p : Nat) : Fld := ⟨0x30 + p, 0x118, 23, 1⟩
abbrev STATE (p : Nat) : Fld := ⟨0x30 + p, 0x11c, 0, 3⟩
abbrev EWARN (p : Nat) : Fld := ⟨0x30 + p, 0x11c, 3, 1⟩
abbrev LEC (p : Nat) : Fld := ⟨0x30 + p, 0x11c, 4, 3⟩
abbrev TDCV (p : Nat) : Fld := ⟨0x30 + p, 0x11c, 16, 8⟩
abbrev TEC (p : Nat) : Fld := ⟨0x30 + p, 0x120, 0, 9⟩
abbrev REC (p : Nat) : Fld := ⟨0x30 + p, 0x120, 16, 8⟩
abbrev F0FILL (p : Nat) : Fld := ⟨0x30 + p, 0x124, 0, 7⟩
abbrev F0GET (p : Nat) : Fld := ⟨0x30 + p, 0x124, 8, 6⟩
abbrev F1FILL (p : Nat) : Fld := ⟨0x30 + p, 0x124, 16, 7⟩
abbrev F1GET (p : Nat) : Fld := ⟨0x30 + p, 0x124, 24, 6⟩
abbrev ACK (p : Nat) : Fld := ⟨0x30 + p, 0x128, 0, 2⟩
abbrev T0FILL (p : Nat) : Fld := ⟨0x30 + p, 0x12c, 0, 6⟩
abbrev T0PUT (p : Nat) : Fld := ⟨0x30 + p, 0x12c, 8, 5⟩
abbrev T1FILL (p : Nat) : Fld := ⟨0x30 + p, 0x12c, 16, 6⟩
abbrev T1PUT (p : Nat) : Fld := ⟨0x30 + p, 0x12c, 24, 5⟩
abbrev PUT (p : Nat) : Fld := ⟨0x30 + p, 0x130, 0, 2⟩
abbrev F0FLUSH (p : Nat) : Fld := ⟨0x30 + p, 0x134, 0, 1⟩
abbrev F1FLUSH (p : Nat) : Fld := ⟨0x30 + p, 0x134, 1, 1⟩
abbrev RECOVER (p : Nat) : Fld := ⟨0x30 + p, 0x134, 8, 1⟩
abbrev RXCNT (p : Nat) : Fld := ⟨0x30 + p, 0x138, 0, 32⟩
abbrev TXCNT (p : Nat) : Fld := ⟨0x30 + p, 0x13c, 0, 32⟩
abbrev RXLOST (p : Nat) : Fld := ⟨0x30 + p, 0x140, 0, 16⟩
abbrev POOLMISS (p : Nat) : Fld := ⟨0x30 + p, 0x140, 16, 16⟩
abbrev TXDROP (p : Nat) : Fld := ⟨0x30 + p, 0x144, 0, 16⟩
abbrev TXFAIL (p : Nat) : Fld := ⟨0x30 + p, 0x144, 16, 16⟩
abbrev BOCNT (p : Nat) : Fld := ⟨0x30 + p, 0x148, 0, 16⟩
abbrev PXECNT (p : Nat) : Fld := ⟨0x30 + p, 0x148, 16, 16⟩
abbrev RXF0 (p : Nat) : Fld := ⟨0x30 + p, 0x14c, 0, 6⟩
abbrev RXF1 (p : Nat) : Fld := ⟨0x30 + p, 0x14c, 8, 6⟩
end CAN

namespace CANC
abbrev AREN : Fld := ⟨0x38, 0x100, 0, 8⟩
abbrev COUNT : Fld := ⟨0x38, 0x104, 0, 4⟩
abbrev WIN : Fld := ⟨0x38, 0x104, 8, 8⟩
abbrev HALT : Fld := ⟨0x38, 0x108, 0, 8⟩
abbrev BOWIN : Fld := ⟨0x38, 0x10c, 0, 32⟩
end CANC

namespace NMK
abbrev SLPSET : Fld := ⟨0x39, 0x30, 0, 8⟩
abbrev DONE : Fld := ⟨0x39, 0x34, 0, 1⟩
abbrev NMEN (n : Nat) : Fld := ⟨0x39, 0x100 + 0x20 * n, 0, 1⟩
abbrev NEED (n : Nat) : Fld := ⟨0x39, 0x100 + 0x20 * n, 1, 1⟩
abbrev KAONLY (n : Nat) : Fld := ⟨0x39, 0x100 + 0x20 * n, 2, 1⟩
abbrev WFLT (n : Nat) : Fld := ⟨0x39, 0x100 + 0x20 * n, 3, 2⟩
abbrev WAKEEN (n : Nat) : Fld := ⟨0x39, 0x100 + 0x20 * n, 5, 1⟩
abbrev KAPER (n : Nat) : Fld := ⟨0x39, 0x104 + 0x20 * n, 0, 16⟩
abbrev TIMEOUT (n : Nat) : Fld := ⟨0x39, 0x104 + 0x20 * n, 16, 16⟩
abbrev REPTIME (n : Nat) : Fld := ⟨0x39, 0x108 + 0x20 * n, 0, 16⟩
abbrev WAITBS (n : Nat) : Fld := ⟨0x39, 0x108 + 0x20 * n, 16, 16⟩
abbrev TXQ (n : Nat) : Fld := ⟨0x39, 0x10c + 0x20 * n, 0, 5⟩
abbrev TPL (n : Nat) : Fld := ⟨0x39, 0x10c + 0x20 * n, 8, 6⟩
abbrev NODE (n : Nat) : Fld := ⟨0x39, 0x10c + 0x20 * n, 16, 8⟩
abbrev KAID (n : Nat) : Fld := ⟨0x39, 0x110 + 0x20 * n, 0, 30⟩
abbrev KAMASK (n : Nat) : Fld := ⟨0x39, 0x114 + 0x20 * n, 0, 29⟩
abbrev STATE (n : Nat) : Fld := ⟨0x39, 0x118 + 0x20 * n, 0, 3⟩
abbrev LASTNODE (n : Nat) : Fld := ⟨0x39, 0x118 + 0x20 * n, 8, 8⟩
abbrev SLEEPS (n : Nat) : Fld := ⟨0x39, 0x11c + 0x20 * n, 0, 16⟩
abbrev ABORTS (n : Nat) : Fld := ⟨0x39, 0x11c + 0x20 * n, 16, 16⟩
end NMK

namespace NMB
abbrev POS : Fld := ⟨0x3a, 0x100, 0, 4⟩
abbrev COUNT : Fld := ⟨0x3a, 0x100, 4, 5⟩
abbrev RING : Fld := ⟨0x3a, 0x100, 16, 8⟩
abbrev KEY : Fld := ⟨0x3a, 0x100, 24, 4⟩
abbrev VID : Fld := ⟨0x3a, 0x104, 0, 12⟩
abbrev GRPMACHI : Fld := ⟨0x3a, 0x108, 0, 32⟩
abbrev GRPMACLO : Fld := ⟨0x3a, 0x10c, 0, 16⟩
abbrev LAPTO : Fld := ⟨0x3a, 0x110, 0, 8⟩
abbrev LAPDLY : Fld := ⟨0x3a, 0x110, 8, 8⟩
abbrev CMTTO : Fld := ⟨0x3a, 0x110, 16, 8⟩
abbrev CONSENT : Fld := ⟨0x3a, 0x114, 0, 1⟩
abbrev STATE : Fld := ⟨0x3a, 0x118, 0, 2⟩
abbrev LAPMASK : Fld := ⟨0x3a, 0x118, 16, 16⟩
abbrev LASTSEQ : Fld := ⟨0x3a, 0x11c, 0, 32⟩
abbrev LAPS : Fld := ⟨0x3a, 0x120, 0, 16⟩
abbrev FAILS : Fld := ⟨0x3a, 0x120, 16, 16⟩
abbrev DISSENTS : Fld := ⟨0x3a, 0x124, 0, 16⟩
abbrev DROPS : Fld := ⟨0x3a, 0x124, 16, 16⟩
end NMB

namespace SWC
abbrev MACENT : Fld := ⟨0x40, 0x30, 0, 13⟩
abbrev LEARN : Fld := ⟨0x40, 0x100, 0, 1⟩
abbrev CTEN : Fld := ⟨0x40, 0x100, 1, 1⟩
abbrev AGE : Fld := ⟨0x40, 0x100, 8, 8⟩
abbrev MAXLEN : Fld := ⟨0x40, 0x100, 16, 14⟩
abbrev HOSTMACHI : Fld := ⟨0x40, 0x104, 0, 32⟩
abbrev HOSTMACLO : Fld := ⟨0x40, 0x108, 0, 16⟩
abbrev PHYRST : Fld := ⟨0x40, 0x10c, 0, 6⟩
abbrev ETYPE : Fld := ⟨0x40, 0x110, 0, 16⟩
abbrev QUEUE : Fld := ⟨0x40, 0x110, 16, 5⟩
abbrev BASE : Fld := ⟨0x40, 0x114, 0, 16⟩
abbrev COUNT : Fld := ⟨0x40, 0x114, 16, 8⟩
abbrev DROPS : Fld := ⟨0x40, 0x118, 0, 16⟩
abbrev PER : Fld := ⟨0x40, 0x11c, 0, 16⟩
abbrev PCP : Fld := ⟨0x40, 0x11c, 16, 3⟩
abbrev HB_VID : Fld := ⟨0x40, 0x11c, 20, 12⟩
abbrev HBMACHI : Fld := ⟨0x40, 0x120, 0, 32⟩
abbrev HBMACLO : Fld := ⟨0x40, 0x124, 0, 16⟩
abbrev PHYAD : Fld := ⟨0x40, 0x128, 0, 5⟩
abbrev C45 : Fld := ⟨0x40, 0x128, 5, 1⟩
abbrev MDIOCMD_OP : Fld := ⟨0x40, 0x128, 6, 2⟩
abbrev DEVAD : Fld := ⟨0x40, 0x128, 8, 5⟩
abbrev REG : Fld := ⟨0x40, 0x128, 16, 16⟩
abbrev DATA : Fld := ⟨0x40, 0x12c, 0, 16⟩
abbrev MDIODATA_BUSY : Fld := ⟨0x40, 0x12c, 16, 1⟩
abbrev ERR : Fld := ⟨0x40, 0x12c, 17, 1⟩
abbrev MACCMD_OP : Fld := ⟨0x40, 0x130, 0, 2⟩
abbrev INDEX : Fld := ⟨0x40, 0x130, 2, 12⟩
abbrev MACCMD_BUSY : Fld := ⟨0x40, 0x130, 31, 1⟩
abbrev MAC0 : Fld := ⟨0x40, 0x134, 0, 32⟩
abbrev MAC1 : Fld := ⟨0x40, 0x138, 0, 16⟩
abbrev FID : Fld := ⟨0x40, 0x138, 16, 6⟩
abbrev STATIC : Fld := ⟨0x40, 0x138, 27, 1⟩
abbrev MACD1_VALID : Fld := ⟨0x40, 0x138, 28, 1⟩
abbrev MACD2_PORTS : Fld := ⟨0x40, 0x13c, 0, 7⟩
abbrev AGECNT : Fld := ⟨0x40, 0x13c, 8, 8⟩
abbrev ENTRIES : Fld := ⟨0x40, 0x140, 0, 13⟩
abbrev LEARNFAIL : Fld := ⟨0x40, 0x140, 16, 16⟩
abbrev FREE : Fld := ⟨0x40, 0x144, 0, 14⟩
abbrev VLAN_VID (v : Nat) : Fld := ⟨0x40, 0x200 + 0x8 * v, 0, 12⟩
abbrev VLAN_VALID (v : Nat) : Fld := ⟨0x40, 0x200 + 0x8 * v, 15, 1⟩
abbrev MEMBER (v : Nat) : Fld := ⟨0x40, 0x200 + 0x8 * v, 16, 7⟩
abbrev UNTAG (v : Nat) : Fld := ⟨0x40, 0x204 + 0x8 * v, 0, 7⟩
end SWC

namespace PT
abbrev PVID (p : Nat) : Fld := ⟨0x41 + p, 0x100, 0, 12⟩
abbrev DPRIO (p : Nat) : Fld := ⟨0x41 + p, 0x100, 12, 3⟩
abbrev ACCEPT (p : Nat) : Fld := ⟨0x41 + p, 0x100, 16, 2⟩
abbrev BLOCKNF (p : Nat) : Fld := ⟨0x41 + p, 0x100, 18, 1⟩
abbrev PCPMAP (p : Nat) : Fld := ⟨0x41 + p, 0x104, 0, 32⟩
abbrev UP (p : Nat) : Fld := ⟨0x41 + p, 0x108, 0, 1⟩
abbrev TXLAT (p : Nat) : Fld := ⟨0x41 + p, 0x10c, 0, 16⟩
abbrev RXLAT (p : Nat) : Fld := ⟨0x41 + p, 0x10c, 16, 16⟩
abbrev RES (p q : Nat) : Fld := ⟨0x41 + p, 0x140 + 0x10 * q, 0, 10⟩
abbrev MAX (p q : Nat) : Fld := ⟨0x41 + p, 0x140 + 0x10 * q, 16, 13⟩
abbrev FILL (p q : Nat) : Fld := ⟨0x41 + p, 0x144 + 0x10 * q, 0, 13⟩
abbrev DROPS (p q : Nat) : Fld := ⟨0x41 + p, 0x148 + 0x10 * q, 0, 32⟩
abbrev TXFR (p q : Nat) : Fld := ⟨0x41 + p, 0x14c + 0x10 * q, 0, 32⟩
abbrev CBS5_IDLESLOPE (p : Nat) : Fld := ⟨0x41 + p, 0x1c0, 0, 24⟩
abbrev CBS6_IDLESLOPE (p : Nat) : Fld := ⟨0x41 + p, 0x1c4, 0, 24⟩
abbrev EXPRESS (p : Nat) : Fld := ⟨0x41 + p, 0x1d0, 0, 8⟩
abbrev EN (p : Nat) : Fld := ⟨0x41 + p, 0x1d0, 8, 1⟩
abbrev ADDFRAG (p : Nat) : Fld := ⟨0x41 + p, 0x1d0, 9, 2⟩
abbrev VERIFY (p : Nat) : Fld := ⟨0x41 + p, 0x1d4, 0, 2⟩
abbrev ACTIVE (p : Nat) : Fld := ⟨0x41 + p, 0x1d4, 2, 1⟩
abbrev PREEMPTED (p : Nat) : Fld := ⟨0x41 + p, 0x1d8, 0, 32⟩
abbrev RXFRAMES (p : Nat) : Fld := ⟨0x41 + p, 0x1e0, 0, 32⟩
abbrev TXFRAMES (p : Nat) : Fld := ⟨0x41 + p, 0x1e4, 0, 32⟩
abbrev RXDROP (p : Nat) : Fld := ⟨0x41 + p, 0x1e8, 0, 32⟩
abbrev CRCERR (p : Nat) : Fld := ⟨0x41 + p, 0x1ec, 0, 16⟩
abbrev TXDROP (p : Nat) : Fld := ⟨0x41 + p, 0x1ec, 16, 16⟩
abbrev C7MAX (p : Nat) : Fld := ⟨0x41 + p, 0x1f0, 0, 16⟩
abbrev C7OVER (p : Nat) : Fld := ⟨0x41 + p, 0x1f4, 0, 32⟩
end PT

namespace PH
abbrev BASE (r : Nat) : Fld := ⟨0x47, 0x100 + 0x10 * r, 0, 32⟩
abbrev SIZE (r : Nat) : Fld := ⟨0x47, 0x104 + 0x10 * r, 0, 11⟩
abbrev EN (r : Nat) : Fld := ⟨0x47, 0x104 + 0x10 * r, 16, 1⟩
abbrev NEXT (r : Nat) : Fld := ⟨0x47, 0x108 + 0x10 * r, 0, 10⟩
abbrev RXMAP : Fld := ⟨0x47, 0x180, 0, 16⟩
abbrev TXCLS : Fld := ⟨0x47, 0x184, 0, 12⟩
abbrev RXDROP : Fld := ⟨0x47, 0x188, 0, 32⟩
end PH

namespace TSY
abbrev EXTCFG : Fld := ⟨0x48, 0x100, 0, 1⟩
abbrev SLAVEPORT : Fld := ⟨0x48, 0x100, 1, 3⟩
abbrev SYNCLOG : Fld := ⟨0x48, 0x100, 8, 3⟩
abbrev PDLOG : Fld := ⟨0x48, 0x100, 12, 3⟩
abbrev TIMEOUT : Fld := ⟨0x48, 0x100, 16, 4⟩
abbrev LOCKTH : Fld := ⟨0x48, 0x100, 24, 8⟩
abbrev PORTEN : Fld := ⟨0x48, 0x104, 0, 6⟩
abbrev LOCK : Fld := ⟨0x48, 0x108, 0, 1⟩
abbrev HOLDOVER : Fld := ⟨0x48, 0x108, 1, 1⟩
abbrev RCLKOK : Fld := ⟨0x48, 0x108, 2, 1⟩
abbrev SLAVE : Fld := ⟨0x48, 0x108, 4, 3⟩
abbrev OFFSET : Fld := ⟨0x48, 0x10c, 0, 32⟩
abbrev TIMEL : Fld := ⟨0x48, 0x110, 0, 32⟩
abbrev TIMEH : Fld := ⟨0x48, 0x114, 0, 32⟩
abbrev GMIDHI : Fld := ⟨0x48, 0x118, 0, 32⟩
abbrev GMIDLO : Fld := ⟨0x48, 0x11c, 0, 32⟩
abbrev PDELAY (p : Nat) : Fld := ⟨0x48, 0x120 + 0x4 * p, 0, 16⟩
abbrev RATE : Fld := ⟨0x48, 0x140, 0, 32⟩
end TSY

namespace TAS
abbrev EN (p : Nat) : Fld := ⟨0x49, 0x100 + 0x40 * p, 0, 1⟩
abbrev CFGCHG (p : Nat) : Fld := ⟨0x49, 0x100 + 0x40 * p, 1, 1⟩
abbrev ADMBTL (p : Nat) : Fld := ⟨0x49, 0x104 + 0x40 * p, 0, 32⟩
abbrev ADMBTH (p : Nat) : Fld := ⟨0x49, 0x108 + 0x40 * p, 0, 32⟩
abbrev ADMCYC (p : Nat) : Fld := ⟨0x49, 0x10c + 0x40 * p, 0, 30⟩
abbrev ADMLEN (p : Nat) : Fld := ⟨0x49, 0x110 + 0x40 * p, 0, 9⟩
abbrev OPERLEN (p : Nat) : Fld := ⟨0x49, 0x114 + 0x40 * p, 0, 9⟩
abbrev CFGPEND (p : Nat) : Fld := ⟨0x49, 0x118 + 0x40 * p, 0, 1⟩
abbrev CHGERR (p : Nat) : Fld := ⟨0x49, 0x118 + 0x40 * p, 1, 1⟩
abbrev FREE (p : Nat) : Fld := ⟨0x49, 0x118 + 0x40 * p, 2, 1⟩
abbrev PSTAT_GATES (p : Nat) : Fld := ⟨0x49, 0x118 + 0x40 * p, 8, 8⟩
abbrev PORT : Fld := ⟨0x49, 0x300, 0, 3⟩
abbrev OPER : Fld := ⟨0x49, 0x300, 3, 1⟩
abbrev INDEX : Fld := ⟨0x49, 0x300, 8, 8⟩
abbrev GCLDATA_GATES : Fld := ⟨0x49, 0x304, 0, 8⟩
abbrev INTERVAL : Fld := ⟨0x49, 0x304, 8, 24⟩
end TAS

namespace SFL
abbrev INDEX : Fld := ⟨0x4a, 0x100, 0, 8⟩
abbrev STORE : Fld := ⟨0x4a, 0x100, 8, 1⟩
abbrev MACHI : Fld := ⟨0x4a, 0x110, 0, 32⟩
abbrev MACLO : Fld := ⟨0x4a, 0x114, 0, 16⟩
abbrev VID : Fld := ⟨0x4a, 0x114, 16, 12⟩
abbrev MODE : Fld := ⟨0x4a, 0x114, 28, 1⟩
abbrev VALID : Fld := ⟨0x4a, 0x114, 31, 1⟩
abbrev MAXSDU : Fld := ⟨0x4a, 0x118, 0, 14⟩
abbrev BLOCKOS : Fld := ⟨0x4a, 0x118, 14, 1⟩
abbrev BLOCKED : Fld := ⟨0x4a, 0x118, 15, 1⟩
abbrev METEN : Fld := ⟨0x4a, 0x118, 16, 1⟩
abbrev FUNC : Fld := ⟨0x4a, 0x118, 17, 2⟩
abbrev HISTLEN : Fld := ⟨0x4a, 0x118, 19, 5⟩
abbrev RESETTO : Fld := ⟨0x4a, 0x118, 24, 8⟩
abbrev CIR : Fld := ⟨0x4a, 0x11c, 0, 24⟩
abbrev CBSZ : Fld := ⟨0x4a, 0x11c, 24, 8⟩
abbrev MATCHED : Fld := ⟨0x4a, 0x120, 0, 32⟩
abbrev DROPPED : Fld := ⟨0x4a, 0x124, 0, 32⟩
abbrev LOST : Fld := ⟨0x4a, 0x128, 0, 16⟩
abbrev ROGUE : Fld := ⟨0x4a, 0x128, 16, 16⟩
abbrev RESETS : Fld := ⟨0x4a, 0x12c, 0, 16⟩
abbrev ONEWAY : Fld := ⟨0x4a, 0x12c, 16, 1⟩
end SFL

namespace LF
abbrev EN (k : Nat) : Fld := ⟨0xf, 0x100 + 0x80 * k, 0, 1⟩
abbrev WAKE (k : Nat) : Fld := ⟨0xf, 0x100 + 0x80 * k, 1, 1⟩
abbrev ICUR (k : Nat) : Fld := ⟨0xf, 0x100 + 0x80 * k, 8, 4⟩
abbrev FLT (k : Nat) : Fld := ⟨0xf, 0x104 + 0x80 * k, 0, 4⟩
abbrev IPK (k : Nat) : Fld := ⟨0xf, 0x108 + 0x80 * k, 0, 12⟩
end LF

namespace ACC
abbrev SEQ : Fld := ⟨0xe, 0x100, 0, 1⟩
abbrev PURPOSE : Fld := ⟨0xe, 0x100, 1, 2⟩
abbrev WAKEID : Fld := ⟨0xe, 0x104, 0, 16⟩
abbrev BOUND : Fld := ⟨0xe, 0x108, 0, 8⟩
abbrev ANTDLY : Fld := ⟨0xe, 0x10c, 0, 32⟩
abbrev STS : Fld := ⟨0xe, 0x110, 0, 4⟩
abbrev REL : Fld := ⟨0xe, 0x110, 4, 4⟩
abbrev XTBASE : Fld := ⟨0xe, 0x114, 0, 32⟩
abbrev SCLK : Fld := ⟨0xe, 0x118, 0, 4⟩
abbrev CHAN : Fld := ⟨0xe, 0x118, 4, 1⟩
abbrev QUEUE : Fld := ⟨0xe, 0x11c, 0, 5⟩
abbrev TPL : Fld := ⟨0xe, 0x11c, 8, 6⟩
abbrev RELBUF : Fld := ⟨0xe, 0x120, 0, 32⟩
abbrev EN : Fld := ⟨0xe, 0x124, 0, 1⟩
abbrev CH : Fld := ⟨0xe, 0x124, 8, 6⟩
abbrev PTIME : Fld := ⟨0xe, 0x124, 16, 16⟩
abbrev MIN0 (z : Nat) : Fld := ⟨0xe, 0x140 + 0x10 * z, 0, 8⟩
abbrev MAX0 (z : Nat) : Fld := ⟨0xe, 0x140 + 0x10 * z, 8, 8⟩
abbrev MIN1 (z : Nat) : Fld := ⟨0xe, 0x140 + 0x10 * z, 16, 8⟩
abbrev MAX1 (z : Nat) : Fld := ⟨0xe, 0x140 + 0x10 * z, 24, 8⟩
abbrev MIN2MAX3 (z : Nat) : Fld := ⟨0xe, 0x144 + 0x10 * z, 0, 32⟩
abbrev MIN4MAX5 (z : Nat) : Fld := ⟨0xe, 0x148 + 0x10 * z, 0, 32⟩
abbrev ZEN (z : Nat) : Fld := ⟨0xe, 0x14c + 0x10 * z, 0, 1⟩
abbrev PMASK (z : Nat) : Fld := ⟨0xe, 0x14c + 0x10 * z, 1, 3⟩
abbrev STATE : Fld := ⟨0xe, 0x1c0, 0, 3⟩
abbrev RESULT : Fld := ⟨0xe, 0x1c0, 8, 4⟩
abbrev FAR : Fld := ⟨0xe, 0x1c0, 12, 1⟩
abbrev PEND : Fld := ⟨0xe, 0x1c0, 13, 1⟩
abbrev LOCKED : Fld := ⟨0xe, 0x1c0, 14, 1⟩
abbrev LOREM : Fld := ⟨0xe, 0x1c4, 0, 23⟩
abbrev LOCOUNT : Fld := ⟨0xe, 0x1c4, 24, 3⟩
abbrev COLL : Fld := ⟨0xe, 0x1c8, 0, 16⟩
abbrev UNKNOWN : Fld := ⟨0xe, 0x1c8, 16, 16⟩
abbrev FARCNT : Fld := ⟨0xe, 0x1cc, 0, 16⟩
abbrev RELDROP : Fld := ⟨0xe, 0x1cc, 16, 16⟩
abbrev FAILS : Fld := ⟨0xe, 0x1d0, 0, 32⟩
end ACC

namespace VLT
abbrev ENRREM : Fld := ⟨0xd, 0x30, 0, 7⟩
abbrev RELCNT : Fld := ⟨0xd, 0x34, 0, 32⟩
abbrev WRAP (i : Nat) : Fld := ⟨0xd, 0x40 + 0x4 * i, 0, 32⟩
abbrev SLOT : Fld := ⟨0xd, 0x58, 0, 4⟩
abbrev CMDARG_PRIV : Fld := ⟨0xd, 0x58, 4, 2⟩
abbrev CMDTID_TID : Fld := ⟨0xd, 0x5c, 0, 32⟩
abbrev OP : Fld := ⟨0xd, 0x60, 0, 2⟩
abbrev BUSY : Fld := ⟨0xd, 0x64, 0, 1⟩
abbrev STATUS : Fld := ⟨0xd, 0x64, 1, 3⟩
abbrev VALID (s : Nat) : Fld := ⟨0xd, 0x100 + 0x10 * s, 0, 1⟩
abbrev SLOT_PRIV (s : Nat) : Fld := ⟨0xd, 0x100 + 0x10 * s, 1, 2⟩
abbrev SLOT_TID (s : Nat) : Fld := ⟨0xd, 0x104 + 0x10 * s, 0, 32⟩
abbrev SEQ (s : Nat) : Fld := ⟨0xd, 0x108 + 0x10 * s, 0, 7⟩
abbrev LASTUSE (s : Nat) : Fld := ⟨0xd, 0x10c + 0x10 * s, 0, 32⟩
end VLT

namespace FCR
abbrev INIT (c : Nat) : Fld := ⟨0x6, 0x100 + 0x4 * c, 0, 3⟩
abbrev ESC (c : Nat) : Fld := ⟨0x6, 0x100 + 0x4 * c, 4, 3⟩
abbrev GRACE (c : Nat) : Fld := ⟨0x6, 0x100 + 0x4 * c, 8, 16⟩
abbrev TIME : Fld := ⟨0x6, 0x120, 0, 8⟩
abbrev REL : Fld := ⟨0x6, 0x124, 0, 1⟩
abbrev SAFE : Fld := ⟨0x6, 0x128, 0, 1⟩
abbrev ERRN : Fld := ⟨0x6, 0x128, 1, 1⟩
abbrev UNACK : Fld := ⟨0x6, 0x128, 8, 8⟩
abbrev UNCLR : Fld := ⟨0x6, 0x128, 16, 8⟩
abbrev CONSEQCNT : Fld := ⟨0x6, 0x12c, 0, 32⟩
abbrev INDEX : Fld := ⟨0x6, 0x130, 0, 5⟩
abbrev LOG0_SRC : Fld := ⟨0x6, 0x134, 0, 8⟩
abbrev LOG0_UNIT : Fld := ⟨0x6, 0x134, 8, 8⟩
abbrev LOG0_HURDLE : Fld := ⟨0x6, 0x134, 16, 3⟩
abbrev LOG0_CLASS : Fld := ⟨0x6, 0x134, 20, 3⟩
abbrev FLAGS : Fld := ⟨0x6, 0x134, 24, 6⟩
abbrev LAPL : Fld := ⟨0x6, 0x138, 0, 32⟩
abbrev SPLIT : Fld := ⟨0x6, 0x13c, 0, 32⟩
abbrev ACK_SRC : Fld := ⟨0x6, 0x140, 0, 8⟩
abbrev UNHOLD_SRC : Fld := ⟨0x6, 0x144, 0, 8⟩
abbrev UNHOLD_UNIT : Fld := ⟨0x6, 0x144, 8, 8⟩
abbrev LOGCNT : Fld := ⟨0x6, 0x148, 0, 32⟩
abbrev TPAGE (k : Nat) : Fld := ⟨0x6, 0x180 + 0x4 * k, 0, 8⟩
abbrev TUNIT (k : Nat) : Fld := ⟨0x6, 0x180 + 0x4 * k, 8, 8⟩
abbrev DSRC (k : Nat) : Fld := ⟨0x6, 0x180 + 0x4 * k, 16, 8⟩
abbrev DUNIT (k : Nat) : Fld := ⟨0x6, 0x180 + 0x4 * k, 24, 8⟩
abbrev SRC_CLASS (i : Nat) : Fld := ⟨0x6, 0x200 + 0x4 * i, 0, 3⟩
abbrev RAISED (i : Nat) : Fld := ⟨0x6, 0x600 + 0x4 * i, 0, 1⟩
abbrev ACKED (i : Nat) : Fld := ⟨0x6, 0x600 + 0x4 * i, 1, 1⟩
abbrev HELD (i : Nat) : Fld := ⟨0x6, 0x600 + 0x4 * i, 2, 1⟩
abbrev SSTAT_UNIT (i : Nat) : Fld := ⟨0x6, 0x600 + 0x4 * i, 8, 8⟩
abbrev COUNT (i : Nat) : Fld := ⟨0x6, 0x600 + 0x4 * i, 16, 8⟩
abbrev SSTAT_HURDLE (i : Nat) : Fld := ⟨0x6, 0x600 + 0x4 * i, 24, 3⟩
end FCR

namespace AGE
abbrev CPER : Fld := ⟨0x8, 0x100, 0, 8⟩
abbrev RPPER : Fld := ⟨0x8, 0x100, 8, 8⟩
abbrev DREN : Fld := ⟨0x8, 0x100, 16, 1⟩
abbrev SLEWEN : Fld := ⟨0x8, 0x100, 17, 1⟩
abbrev VEN : Fld := ⟨0x8, 0x100, 18, 1⟩
abbrev MLO : Fld := ⟨0x8, 0x104, 0, 8⟩
abbrev MHI : Fld := ⟨0x8, 0x104, 8, 8⟩
abbrev MCRIT : Fld := ⟨0x8, 0x104, 16, 8⟩
abbrev VMIN : Fld := ⟨0x8, 0x108, 0, 10⟩
abbrev VMAX : Fld := ⟨0x8, 0x108, 16, 10⟩
abbrev STEP : Fld := ⟨0x8, 0x10c, 0, 4⟩
abbrev RONLIM : Fld := ⟨0x8, 0x110, 0, 8⟩
abbrev LIFELIM : Fld := ⟨0x8, 0x110, 8, 8⟩
abbrev VREQ : Fld := ⟨0x8, 0x114, 0, 10⟩
abbrev MARGIN : Fld := ⟨0x8, 0x118, 0, 8⟩
abbrev WORST : Fld := ⟨0x8, 0x118, 8, 4⟩
abbrev ROSCMIN : Fld := ⟨0x8, 0x118, 16, 8⟩
abbrev MINUTES : Fld := ⟨0x8, 0x11c, 0, 32⟩
abbrev CTRL : Fld := ⟨0x8, 0x120, 0, 16⟩
abbrev PDA : Fld := ⟨0x8, 0x120, 16, 16⟩
abbrev PDB : Fld := ⟨0x8, 0x124, 0, 16⟩
abbrev RPCNT : Fld := ⟨0x8, 0x128, 0, 32⟩
abbrev KIND : Fld := ⟨0x8, 0x12c, 0, 4⟩
abbrev UNIT : Fld := ⟨0x8, 0x12c, 8, 8⟩
abbrev LAPL : Fld := ⟨0x8, 0x130, 0, 32⟩
abbrev LAPH : Fld := ⟨0x8, 0x134, 0, 16⟩
abbrev INDEX : Fld := ⟨0x8, 0x140, 0, 6⟩
abbrev RON0 : Fld := ⟨0x8, 0x144, 0, 16⟩
abbrev DRIFT : Fld := ⟨0x8, 0x144, 16, 16⟩
abbrev LIFE : Fld := ⟨0x8, 0x148, 0, 16⟩
abbrev DERATE : Fld := ⟨0x8, 0x148, 16, 3⟩
abbrev SLEWUP : Fld := ⟨0x8, 0x148, 19, 1⟩
abbrev COUNT (b : Nat) : Fld := ⟨0x8, 0x150 + 0x4 * b, 0, 32⟩
end AGE

namespace REC
abbrev FLUSH : Fld := ⟨0x7, 0x100, 0, 1⟩
abbrev PERIOD : Fld := ⟨0x7, 0x100, 8, 8⟩
abbrev BUSY : Fld := ⟨0x7, 0x104, 0, 1⟩
abbrev HELD : Fld := ⟨0x7, 0x104, 1, 1⟩
abbrev UNCLEAN : Fld := ⟨0x7, 0x104, 2, 1⟩
abbrev REASON : Fld := ⟨0x7, 0x104, 4, 3⟩
abbrev BLOCKS : Fld := ⟨0x7, 0x104, 8, 8⟩
abbrev FAILS : Fld := ⟨0x7, 0x104, 16, 16⟩
abbrev SEQ : Fld := ⟨0x7, 0x108, 0, 32⟩
abbrev ARG0 : Fld := ⟨0x7, 0x10c, 0, 32⟩
abbrev ARG1 : Fld := ⟨0x7, 0x110, 0, 16⟩
abbrev CPUT_CODE : Fld := ⟨0x7, 0x114, 0, 12⟩
abbrev CODECFG_CODE : Fld := ⟨0x7, 0x118, 0, 12⟩
abbrev CLASS : Fld := ⟨0x7, 0x118, 12, 4⟩
abbrev BURST (c : Nat) : Fld := ⟨0x7, 0x120 + 0x4 * c, 0, 8⟩
abbrev REFILL (c : Nat) : Fld := ⟨0x7, 0x120 + 0x4 * c, 8, 16⟩
abbrev DETAIL (c : Nat) : Fld := ⟨0x7, 0x120 + 0x4 * c, 24, 4⟩
abbrev FSEL_FEED : Fld := ⟨0x7, 0x160, 0, 9⟩
abbrev SRC : Fld := ⟨0x7, 0x164, 0, 2⟩
abbrev SIZE : Fld := ⟨0x7, 0x164, 2, 2⟩
abbrev SIGNED : Fld := ⟨0x7, 0x164, 4, 1⟩
abbrev DECIM : Fld := ⟨0x7, 0x164, 8, 4⟩
abbrev OFFSET : Fld := ⟨0x7, 0x164, 16, 16⟩
abbrev LO : Fld := ⟨0x7, 0x168, 0, 32⟩
abbrev BINW : Fld := ⟨0x7, 0x16c, 0, 32⟩
abbrev FCLR_FEED : Fld := ⟨0x7, 0x170, 0, 9⟩
abbrev VAL : Fld := ⟨0x7, 0x174, 0, 32⟩
abbrev FPUT_FEED : Fld := ⟨0x7, 0x178, 0, 9⟩
abbrev ADDR : Fld := ⟨0x7, 0x17c, 2, 17⟩
abbrev DATA : Fld := ⟨0x7, 0x180, 0, 32⟩
abbrev KEY : Fld := ⟨0x7, 0x184, 0, 16⟩
abbrev BADPUT : Fld := ⟨0x7, 0x188, 0, 16⟩
abbrev DDROP : Fld := ⟨0x7, 0x188, 16, 16⟩
end REC

namespace CLK
abbrev XSTART : Fld := ⟨0x1, 0x100, 0, 8⟩
abbrev BYPASS : Fld := ⟨0x1, 0x100, 8, 1⟩
abbrev REFSEL : Fld := ⟨0x1, 0x104, 0, 1⟩
abbrev AUTOREF : Fld := ⟨0x1, 0x104, 1, 1⟩
abbrev REFSLEW : Fld := ⟨0x1, 0x104, 8, 8⟩
abbrev DWELL : Fld := ⟨0x1, 0x108, 0, 8⟩
abbrev HOLDMAX : Fld := ⟨0x1, 0x10c, 0, 8⟩
abbrev WAIT : Fld := ⟨0x1, 0x10c, 8, 8⟩
abbrev LPSRC : Fld := ⟨0x1, 0x110, 0, 1⟩
abbrev ROOTSRC : Fld := ⟨0x1, 0x114, 0, 2⟩
abbrev LOCK : Fld := ⟨0x1, 0x114, 2, 1⟩
abbrev RAMPSTEP : Fld := ⟨0x1, 0x114, 4, 3⟩
abbrev LPACT : Fld := ⟨0x1, 0x114, 8, 1⟩
abbrev XOK : Fld := ⟨0x1, 0x114, 9, 1⟩
abbrev SLEWING : Fld := ⟨0x1, 0x114, 10, 1⟩
abbrev FAILWAIT : Fld := ⟨0x1, 0x114, 11, 1⟩
abbrev DIFF : Fld := ⟨0x1, 0x118, 0, 32⟩
abbrev TRIES : Fld := ⟨0x1, 0x11c, 0, 8⟩
abbrev GATED (w : Nat) : Fld := ⟨0x1, 0x120 + 0x4 * w, 0, 32⟩
abbrev GATEDIS : Fld := ⟨0x1, 0x12c, 0, 1⟩
end CLK

namespace PWR
abbrev MODE : Fld := ⟨0x2, 0x100, 0, 2⟩
abbrev RETSEL : Fld := ⟨0x2, 0x104, 0, 8⟩
abbrev RETFAIL : Fld := ⟨0x2, 0x108, 0, 8⟩
abbrev QTO : Fld := ⟨0x2, 0x10c, 0, 8⟩
abbrev ABORTCNT : Fld := ⟨0x2, 0x110, 0, 16⟩
abbrev ABORTKIND : Fld := ⟨0x2, 0x110, 16, 5⟩
abbrev COOLARM : Fld := ⟨0x2, 0x114, 0, 1⟩
abbrev DOZEREF : Fld := ⟨0x2, 0x114, 1, 1⟩
abbrev REGBUSY : Fld := ⟨0x2, 0x114, 2, 1⟩
abbrev STAT_COOLTO : Fld := ⟨0x2, 0x114, 3, 1⟩
abbrev ARMTO : Fld := ⟨0x2, 0x118, 0, 8⟩
abbrev COOLCFG_COOLTO : Fld := ⟨0x2, 0x118, 8, 8⟩
abbrev NEEDAGREE : Fld := ⟨0x2, 0x118, 16, 1⟩
abbrev ADDR : Fld := ⟨0x2, 0x11c, 0, 7⟩
abbrev PAGE : Fld := ⟨0x2, 0x11c, 8, 8⟩
abbrev PAGEEN : Fld := ⟨0x2, 0x11c, 16, 1⟩
abbrev PEC : Fld := ⟨0x2, 0x11c, 17, 1⟩
abbrev FAST : Fld := ⟨0x2, 0x11c, 18, 1⟩
abbrev TIMEOUT : Fld := ⟨0x2, 0x11c, 24, 8⟩
abbrev SLEW : Fld := ⟨0x2, 0x120, 0, 8⟩
abbrev PGSETTLE : Fld := ⟨0x2, 0x120, 8, 8⟩
abbrev VOUTMODE : Fld := ⟨0x2, 0x124, 0, 8⟩
abbrev LASTSW : Fld := ⟨0x2, 0x124, 16, 16⟩
abbrev WAKEFLAG : Fld := ⟨0x2, 0x128, 0, 12⟩
abbrev EN : Fld := ⟨0x2, 0x140, 0, 8⟩
abbrev POL : Fld := ⟨0x2, 0x140, 8, 8⟩
abbrev FLT : Fld := ⟨0x2, 0x140, 16, 8⟩
abbrev CAN0EN : Fld := ⟨0x2, 0x144, 0, 1⟩
abbrev TMREN : Fld := ⟨0x2, 0x144, 1, 1⟩
abbrev DBGEN : Fld := ⟨0x2, 0x144, 2, 1⟩
abbrev WKTMR : Fld := ⟨0x2, 0x148, 0, 32⟩
abbrev REL : Fld := ⟨0x2, 0x14c, 0, 1⟩
abbrev LATCHED : Fld := ⟨0x2, 0x14c, 1, 1⟩
abbrev WIN : Fld := ⟨0x2, 0x150, 0, 8⟩
abbrev LIM : Fld := ⟨0x2, 0x150, 8, 4⟩
abbrev HOLD : Fld := ⟨0x2, 0x150, 16, 8⟩
abbrev FSCNT : Fld := ⟨0x2, 0x154, 0, 32⟩
abbrev FSMASK : Fld := ⟨0x2, 0x158, 0, 8⟩
end PWR

namespace NVC
abbrev DST : Fld := ⟨0x5, 0x100, 0, 32⟩
abbrev SRC : Fld := ⟨0x5, 0x104, 0, 32⟩
abbrev GO : Fld := ⟨0x5, 0x108, 0, 1⟩
abbrev BUSY : Fld := ⟨0x5, 0x10c, 0, 1⟩
abbrev ERR : Fld := ⟨0x5, 0x10c, 1, 1⟩
abbrev ECCCNT : Fld := ⟨0x5, 0x10c, 16, 16⟩
end NVC

namespace DBG
abbrev ATTACHED : Fld := ⟨0x50, 0x100, 0, 1⟩
abbrev HALTED : Fld := ⟨0x50, 0x100, 1, 1⟩
abbrev STAT_CTX : Fld := ⟨0x50, 0x100, 2, 1⟩
abbrev CAUSE : Fld := ⟨0x50, 0x100, 3, 3⟩
abbrev BP : Fld := ⟨0x50, 0x100, 6, 2⟩
abbrev HALTBOOT : Fld := ⟨0x50, 0x104, 0, 1⟩
abbrev HALTCNT : Fld := ⟨0x50, 0x108, 0, 32⟩
abbrev HALTPC : Fld := ⟨0x50, 0x10c, 0, 32⟩
abbrev REG : Fld := ⟨0x50, 0x110, 0, 4⟩
abbrev RSEL_CTX : Fld := ⟨0x50, 0x110, 4, 1⟩
abbrev RDATA : Fld := ⟨0x50, 0x114, 0, 32⟩
abbrev ADDR (k : Nat) : Fld := ⟨0x50, 0x120 + 0x8 * k, 0, 32⟩
abbrev EN (k : Nat) : Fld := ⟨0x50, 0x124 + 0x8 * k, 0, 1⟩
abbrev KIND (k : Nat) : Fld := ⟨0x50, 0x124 + 0x8 * k, 1, 2⟩
abbrev CTXSEL (k : Nat) : Fld := ⟨0x50, 0x124 + 0x8 * k, 3, 2⟩
end DBG

namespace BOOT
abbrev CAUSE : Fld := ⟨0x4, 0x100, 0, 4⟩
abbrev NESTED : Fld := ⟨0x4, 0x100, 4, 1⟩
abbrev SRC : Fld := ⟨0x4, 0x100, 8, 8⟩
abbrev WAKESRC : Fld := ⟨0x4, 0x104, 0, 16⟩
abbrev IMGFB : Fld := ⟨0x4, 0x108, 0, 1⟩
abbrev CFGSEL : Fld := ⟨0x4, 0x108, 1, 1⟩
abbrev FWSEL : Fld := ⟨0x4, 0x108, 2, 1⟩
abbrev LCS : Fld := ⟨0x4, 0x108, 4, 1⟩
abbrev WUDONE : Fld := ⟨0x4, 0x108, 8, 1⟩
abbrev RECOVERY : Fld := ⟨0x4, 0x108, 9, 1⟩
abbrev CFGSEQ : Fld := ⟨0x4, 0x10c, 0, 32⟩
abbrev COUNT : Fld := ⟨0x4, 0x110, 0, 16⟩
abbrev FIRST : Fld := ⟨0x4, 0x110, 16, 16⟩
abbrev FWVER : Fld := ⟨0x4, 0x114, 0, 32⟩
abbrev SV : Fld := ⟨0x4, 0x118, 0, 6⟩
abbrev SVMIN : Fld := ⟨0x4, 0x118, 8, 6⟩
abbrev GO : Fld := ⟨0x4, 0x11c, 0, 1⟩
abbrev KEY : Fld := ⟨0x4, 0x120, 0, 16⟩
abbrev A : Fld := ⟨0x4, 0x124, 0, 4⟩
abbrev B : Fld := ⟨0x4, 0x124, 4, 4⟩
abbrev WUTIME : Fld := ⟨0x4, 0x128, 0, 16⟩
abbrev RSTCNT : Fld := ⟨0x4, 0x12c, 0, 16⟩
end BOOT

namespace SUP
abbrev VBATA : Fld := ⟨0x3, 0x100, 0, 16⟩
abbrev VBATB : Fld := ⟨0x3, 0x100, 16, 16⟩
abbrev VCORE : Fld := ⟨0x3, 0x104, 0, 16⟩
abbrev VSER : Fld := ⟨0x3, 0x104, 16, 16⟩
abbrev VIO : Fld := ⟨0x3, 0x108, 0, 16⟩
abbrev VKEEP : Fld := ⟨0x3, 0x108, 16, 16⟩
abbrev TCD : Fld := ⟨0x3, 0x10c, 0, 16⟩
abbrev TBP : Fld := ⟨0x3, 0x10c, 16, 16⟩
abbrev UV : Fld := ⟨0x3, 0x110, 0, 1⟩
abbrev OV : Fld := ⟨0x3, 0x110, 1, 1⟩
abbrev HV : Fld := ⟨0x3, 0x110, 2, 1⟩
abbrev VBINV : Fld := ⟨0x3, 0x110, 3, 1⟩
abbrev RAILOUT : Fld := ⟨0x3, 0x110, 4, 4⟩
abbrev TEMPCD : Fld := ⟨0x3, 0x110, 8, 1⟩
abbrev TEMPBP : Fld := ⟨0x3, 0x110, 9, 1⟩
abbrev UVLOA : Fld := ⟨0x3, 0x110, 10, 1⟩
abbrev UVLOB : Fld := ⟨0x3, 0x110, 11, 1⟩
abbrev GNDLOSS : Fld := ⟨0x3, 0x110, 12, 1⟩
abbrev REVERSE : Fld := ⟨0x3, 0x110, 13, 1⟩
abbrev VBATMIN : Fld := ⟨0x3, 0x114, 0, 16⟩
abbrev VBATMAX : Fld := ⟨0x3, 0x114, 16, 16⟩
abbrev MMCLR : Fld := ⟨0x3, 0x118, 0, 1⟩
abbrev UVCNT : Fld := ⟨0x3, 0x11c, 0, 16⟩
abbrev HVCNT : Fld := ⟨0x3, 0x11c, 16, 16⟩
abbrev REVCNT : Fld := ⟨0x3, 0x120, 0, 16⟩
abbrev GNDCNT : Fld := ⟨0x3, 0x120, 16, 16⟩
abbrev UVLOCNT : Fld := ⟨0x3, 0x124, 0, 16⟩
end SUP

/-! Sub-fields that a table gives in words of one row (R324, R355, R357, R382). -/
namespace HB
abbrev STATE (n : Nat) : Fld := ⟨0x1d + n / 6, 0x11c + 0x80 * (n % 6), 0, 4⟩
abbrev RETRYREM (n : Nat) : Fld := ⟨0x1d + n / 6, 0x11c + 0x80 * (n % 6), 4, 4⟩
abbrev PENDEN (n : Nat) : Fld := ⟨0x1d + n / 6, 0x11c + 0x80 * (n % 6), 8, 1⟩
abbrev LATCH (n : Nat) : Fld := ⟨0x1d + n / 6, 0x11c + 0x80 * (n % 6), 9, 1⟩
abbrev CHOPPING (n : Nat) : Fld := ⟨0x1d + n / 6, 0x11c + 0x80 * (n % 6), 10, 1⟩
abbrev SLAVE (n : Nat) : Fld := ⟨0x1d + n / 6, 0x11c + 0x80 * (n % 6), 11, 1⟩
abbrev DIR (n : Nat) : Fld := ⟨0x1d + n / 6, 0x11c + 0x80 * (n % 6), 12, 2⟩
abbrev POSUNC (n : Nat) : Fld := ⟨0x1d + n / 6, 0x11c + 0x80 * (n % 6), 14, 1⟩
abbrev RETRY (n : Nat) : Fld := ⟨0x1d + n / 6, 0x10c + 0x80 * (n % 6), 0, 4⟩
abbrev RTRINT (n : Nat) : Fld := ⟨0x1d + n / 6, 0x10c + 0x80 * (n % 6), 8, 8⟩
abbrev DEFLIM (n : Nat) : Fld := ⟨0x1d + n / 6, 0x10c + 0x80 * (n % 6), 16, 8⟩
abbrev OLTIME (n : Nat) : Fld := ⟨0x1d + n / 6, 0x10c + 0x80 * (n % 6), 24, 8⟩
abbrev IOUT (n : Nat) : Fld := ⟨0x1d + n / 6, 0x124 + 0x80 * (n % 6), 0, 16⟩
abbrev VOUT (n : Nat) : Fld := ⟨0x1d + n / 6, 0x124 + 0x80 * (n % 6), 16, 16⟩
abbrev TRIPS (n : Nat) : Fld := ⟨0x1d + n / 6, 0x13c + 0x80 * (n % 6), 0, 16⟩
abbrev STALLS (n : Nat) : Fld := ⟨0x1d + n / 6, 0x13c + 0x80 * (n % 6), 16, 16⟩
end HB

namespace LDS
abbrev STATE (n : Nat) : Fld := ⟨0x20, 0x10c + 0x40 * n, 0, 4⟩
abbrev PENDEN (n : Nat) : Fld := ⟨0x20, 0x10c + 0x40 * n, 4, 1⟩
abbrev LATCH (n : Nat) : Fld := ⟨0x20, 0x10c + 0x40 * n, 5, 1⟩
abbrev FOLDING (n : Nat) : Fld := ⟨0x20, 0x10c + 0x40 * n, 6, 1⟩
abbrev COLUMN (n : Nat) : Fld := ⟨0x20, 0x10c + 0x40 * n, 7, 1⟩
end LDS

namespace LMX
abbrev STATE (n : Nat) : Fld := ⟨0x21, 0x104 + 0x80 * n, 0, 4⟩
abbrev RETRYREM (n : Nat) : Fld := ⟨0x21, 0x104 + 0x80 * n, 4, 4⟩
abbrev PENDEN (n : Nat) : Fld := ⟨0x21, 0x104 + 0x80 * n, 8, 1⟩
abbrev LATCH (n : Nat) : Fld := ⟨0x21, 0x104 + 0x80 * n, 9, 1⟩
abbrev LIMITING (n : Nat) : Fld := ⟨0x21, 0x104 + 0x80 * n, 10, 1⟩
abbrev RETRY : Fld := ⟨0x21, 0x3c, 0, 4⟩
abbrev RTRINT : Fld := ⟨0x21, 0x3c, 8, 8⟩
abbrev DEFLIM : Fld := ⟨0x21, 0x3c, 16, 8⟩
abbrev OLTIME : Fld := ⟨0x21, 0x3c, 24, 8⟩
abbrev FIRST : Fld := ⟨0x21, 0x144, 0, 6⟩
abbrev LAST : Fld := ⟨0x21, 0x144, 8, 6⟩
abbrev HOLD : Fld := ⟨0x21, 0x144, 16, 8⟩
abbrev LOOP : Fld := ⟨0x21, 0x144, 24, 1⟩
end LMX

namespace DOUT
abbrev STATE (n : Nat) : Fld := ⟨0x26, 0x10c + 0x80 * n, 0, 4⟩
abbrev RETRYREM (n : Nat) : Fld := ⟨0x26, 0x10c + 0x80 * n, 4, 4⟩
abbrev PENDEN (n : Nat) : Fld := ⟨0x26, 0x10c + 0x80 * n, 8, 1⟩
abbrev LATCH (n : Nat) : Fld := ⟨0x26, 0x10c + 0x80 * n, 9, 1⟩
abbrev LIMITING (n : Nat) : Fld := ⟨0x26, 0x10c + 0x80 * n, 10, 1⟩
abbrev SLAVE (n : Nat) : Fld := ⟨0x26, 0x10c + 0x80 * n, 11, 1⟩
abbrev RETRY (n : Nat) : Fld := ⟨0x26, 0x104 + 0x80 * n, 0, 4⟩
abbrev RTRINT (n : Nat) : Fld := ⟨0x26, 0x104 + 0x80 * n, 8, 8⟩
abbrev DEFLIM (n : Nat) : Fld := ⟨0x26, 0x104 + 0x80 * n, 16, 8⟩
abbrev OLTIME (n : Nat) : Fld := ⟨0x26, 0x104 + 0x80 * n, 24, 8⟩
abbrev IOUT (n : Nat) : Fld := ⟨0x26, 0x114 + 0x80 * n, 0, 16⟩
abbrev VOUT (n : Nat) : Fld := ⟨0x26, 0x114 + 0x80 * n, 16, 16⟩
end DOUT

end Sys2Proof.Machine
end

