-- ==== Sys2Proof/Machine/State.lean ====
section
/-! DEFINITION. The state of the block as plain data: register words, memory, queues, and the state the register
pages do not show. -/
namespace Sys2Proof.Machine

/-- Why a command stops the machine with a fault. No command of this part does; the type has the one
constructor a total model needs. -/
inductive Fault
  /-- Raised by nothing: every command of the spec has an effect. Safe. -/
  | none
  deriving DecidableEq, Repr

/-- Why a command is refused by the model. -/
inductive Refusal
  /-- Raised by the dispatch of a command that has no meaning yet. Safe. -/
  | notModelled (mnemonic : String)
  deriving DecidableEq, Repr

/-- The phases of the power units (R194, R278, R300, R308, R329, R348, R373), under one name each. -/
inductive Phase
  | off | wait | start | on | stopping | tripped | deferred | lockoff | failsafe
  | bwait | refused | bankoff | brake | revbrk | parking | stalled | offdly | shorted | column
  deriving DecidableEq, Repr

/-- A running timer of the part; its deadline stands in `State.timers`. -/
inductive Timer
  | lock (p : Nat)
  | grace (src : Nat)
  | inrush (u : OutU) | retry (u : OutU) | defer (u : OutU) | reload (u : OutU) | demag (u : OutU)
  | testPhase (u : OutU)
  | peak (n : Nat) | ramp (n : Nat) | slow (n : Nat) | bankOff (b : Nat)
  | revbrk (n : Nat) | park (n : Nat) | parkBrake (n : Nat)
  | release (item : Nat) | learn | recover
  | fsHeat (die : Nat) | watchdog (die : Nat) | lateMax (n : Nat) | pulseEnd (n : Nat)
  | msync | inputInit (p : Nat)
  | canStop (x : Nat)
  | nmRepeat (x : Nat) | nmTimeout (x : Nat) | nmWait (x : Nat) | nmKeep (x : Nat)
  | falseStart (x : Nat) | maskHold (x : Nat)
  | lap | lapDelay | commitTo | resend
  | frerReset (i : Nat) | gptp
  | lfEnd | lockout | permit
  | xstart | dwell | holdover | clockWait | xretry | rclk | lpxoRetry
  | quiesce | coolArm | coolTo | pg | wake | regSettle | regRetry | regTimeout
  | resetHold
  deriving DecidableEq, Repr

/-- A Baton entry (R110); `split` is the unwrapped split count, `arr` the instant its enqueue completed. -/
structure BqEntry where
  split : Nat
  src : Nat
  tl : Nat
  p0 : Nat
  p1 : Nat
  arr : Nat
  deriving DecidableEq, Repr

/-- A queue: its entries, oldest first, whether one was dropped since the last capture (R115), and the head entry that a
Service-context consumer still sees although the full policy has dropped it (R116, log entry 60). -/
structure QueueSt where
  entries : List BqEntry
  ovf : Bool
  shown : Option BqEntry
  deriving DecidableEq, Repr

/-- A digital input beside its registers (R360 to R367): voltage at its pin in mV, comparator reading before INV, the reading of its
last sample, start of the debounce run, a return of the raw level that no sample has shown yet (the instant of that sample, the run
it ended and the glitches before it), the instant from which DEB is compared, and the changes of the window. -/
structure DinSt where
  mv : Nat
  pin : Bool
  sample : Bool
  run : Option Nat
  undo : Option (Nat × Nat × Nat)
  debAt : Nat
  changes : Nat
  rise : Bool
  fall : Bool
  lastChanges : Nat
  lastRise : Bool
  lastFall : Bool
  latched : Bool
  deriving DecidableEq, Repr

/-- An event whose split is that of the next tick or later, reported before that tick's command: a debounced change of an input, or
an edge at a capture pin (R76, R77, R364). -/
inductive Ahead
  | level (t n : Nat)
  | capture (t tin : Nat) (rising : Bool)
  deriving DecidableEq, Repr

/-- The push latches of one source (R113). -/
structure PushLatch where
  p0 : Nat
  p1 : Nat
  go : Nat
  st : Nat
  deriving DecidableEq, Repr

/-- The Stride engine beside its registers (R67 to R109): whether ticks run and the Stride context is started; ticks as
split counts, with the tick of the latest cut-off and the split that Mark and B count from (log entry 45); Mark and budget in force; how far the stride has come; the bridge in
progress and its new length; entries staged, captured and carried; the halt that suspends ticks; the source that entered
replay; the bank being assembled, the current and the previous bank; a release of the safe state that waits for a tick;
whether the last tick entered DOZE, so that no lap has opened since (R613). -/
structure StrideSt where
  running : Bool
  started : Bool
  tick : Nat
  nextTick : Nat
  prevTick : Nat
  base : Nat
  markAct : Nat
  budAct : Nat
  cut : Bool
  fin : Bool
  ovr : Bool
  prevOvr : Bool
  bridging : Bool
  bridgeStep : Bool
  newLen : Option Nat
  firstLock : Bool
  staged : List (Nat × BqEntry)
  captured : List (Nat × BqEntry)
  carry : List (Nat × BqEntry)
  suspended : Option Nat
  replaySrc : Option Src
  prep : Sparse Byte
  snap : Sparse Byte
  snapPrev : Sparse Byte
  safeRel : Bool
  dozed : Bool
  deriving DecidableEq, Repr

/-- One fault event that FCR keeps until its source is cleared (R549 to R552). -/
structure FcrEvent where
  src : Nat
  unit : Nat
  cls : Nat
  acked : Bool
  deriving DecidableEq, Repr

/-- One log entry of FCR (R560). -/
structure FcrLog where
  src : Nat
  unit : Nat
  hurdle : Nat
  cls : Nat
  flags : Nat
  lap : Nat
  split : Nat
  deriving DecidableEq, Repr

/-- A shadow window (R553): its opening, and the page and unit held or the cluster reset. -/
structure ShadowWin where
  opened : Nat
  page : Nat
  unit : Nat
  cluster : Option Nat
  deriving DecidableEq, Repr

/-- Fault collection beside its registers. `holds` lists source, page and unit of each hold in force. -/
structure FcrSt where
  events : List FcrEvent
  log : List FcrLog
  holds : List (Nat × Nat × Nat)
  ending : List (Nat × Nat × Nat)
  shadows : List ShadowWin
  /-- Detections on their way to FCR: source and unit (R548). -/
  inbox : List (Nat × Nat)
  deriving DecidableEq, Repr

/-- A power unit beside its registers: fail-safe and the phase under it, the tests that last showed their fault (`bad`: bit k the
on-state test of flag k, bit 16 + k its off-state test), off-state test, applied duty; of a sink
its on-time in a period or slot in split steps (R328, R341); of a load switch channel whether it runs in strobe mode, and its base
duty once a pulse has set it (R226). `hold` is set while pattern code 0b10 holds it, with the mode and value it had (R297, R349). -/
structure OutSt where
  fs : Bool
  under : Phase
  fsWant : Bool
  fromOff : Bool
  lim : Bool
  bad : Nat
  offValid : Bool
  test : Nat
  uHigh : Nat
  dHigh : Nat
  dutyAct : Nat
  onAct : Nat
  phaseAct : Nat
  pcount : Nat
  since : Nat
  ronDue : Bool
  revOn : Bool
  stopping : Bool
  drating : Nat
  strobe : Bool
  base : Option Nat
  hold : Bool
  kept : Nat × Nat
  deriving DecidableEq, Repr

/-- A profile entry as the power die copied it (R270, R271). -/
structure ValveProf where
  peak : Nat
  peakt : Nat
  flags : Nat
  rampt : Nat
  dipmin : Nat
  dipth : Nat
  deriving DecidableEq, Repr

/-- A valve channel's regulation (R272 to R277): its profile copy, whether its start still waits for its bank's verdict (R246,
R279), the highest current measured,
the peak phase's start and whether it is still at full duty, and the dither's zero. -/
structure ValveSt where
  prof : ValveProf
  ask : Bool
  highest : Nat
  start : Nat
  full : Bool
  firstPwm : Bool
  ramp : Bool
  slow : Bool
  dither0 : Option Nat
  target : Nat
  bwaitLap : Nat
  deriving DecidableEq, Repr

/-- A bridge (R306 to R315): drive in force, ripple history and chopping; `cut` while a trip in STALLED has opened its switches
(R311). -/
structure BridgeSt where
  cmd : Nat
  dirLast : Nat
  lastRipple : Option Nat
  intervals : List Nat
  chopSince : Option Nat
  phaseOpen : Bool
  revStart : Nat
  parkBrake : Bool
  seqSeen : Nat
  cut : Bool
  deriving DecidableEq, Repr

/-- The matrix scan (R341 to R344): whether a scan runs, its next slot, the instant at which its last one began and its length in ns, a scan
start that waits for the slot in progress, the displayed frame, the frame of the back buffers and the one that staging has
loaded for the next tick, as pixel values, and the scans started in the window. -/
structure ScanSt where
  scanning : Bool
  row : Nat
  slotAt : Nat
  slotLen : Nat
  startDue : Bool
  front : List Nat
  back : Option (Nat × List Nat)
  staged : Option (Nat × List Nat)
  rldSeen : Nat
  frameSeen : Nat
  msyncLost : Bool
  scans : Nat
  lastScans : Nat
  deriving DecidableEq, Repr

/-- The frame sequence (R344). -/
structure SeqSt where
  on : Bool
  seen : Nat
  restart : Bool
  pos : Nat
  scans : Nat
  ended : Bool
  deriving DecidableEq, Repr

/-- Calibration gains as staged and as applied, of sinks and of pixels, and the matrix size they were staged for (R337, R338);
the headroom window (R335). -/
structure CalSt where
  gainNext : List Nat
  gain : List Nat
  pixNext : List Nat
  pix : List Nat
  size : Nat × Nat
  hrMin : Option (Nat × Nat)
  deriving DecidableEq, Repr

/-- The Marathon monitor's record of one switch (R561 to R568): normalised mean on-resistance, swing bins, junction
extremes, derating, raised slew, PWM use, and the limits already reported. -/
structure AgeUnit where
  mean : Nat
  loaded : Bool
  bins : List Nat
  ext : Option Int
  last : Int
  up : Option Bool
  d : Nat
  slewUp : Bool
  ranPwm : Bool
  ronOver : Bool
  lifeOver : Bool
  deriving DecidableEq, Repr

/-- A power die (R9): why it applies its pattern, the selection it filtered, its fail-safe starts in hand and the instant of
its last heat. -/
structure DieSt where
  wdog : Bool
  safe : Bool
  clus : Bool
  replay : Bool
  reset : Bool
  lockout : Bool
  gnd : Bool
  sel : Nat
  heats : List OutU
  lastHeat : Option Nat
  ref : Int
  misses : Nat
  deriving DecidableEq, Repr

/-- A strobe group (R224 to R228): the last starts of an exposure, newest first, whether an exposure is signalled, and the
intended instants of the pulses to come. -/
structure StrobeSt where
  edges : List Nat
  level : Bool
  due : List Nat
  deriving DecidableEq, Repr

/-- One start in the Marshal's list (R251): item, the sinks or rows of items 84 and 85, lap once a decision has
considered it, and whether its deferral has been counted (R263). -/
structure MshWait where
  item : Nat
  units : List Nat
  lap : Option Nat
  counted : Bool
  deriving DecidableEq, Repr

/-- A heat whose sag is measured (R250): the end of its 500 µs, the conversion before its strobe, the lowest since and the
current then, the highest current, and its starts. Currents are in steps of 0.05 mA. -/
structure LearnSt where
  due : Nat
  vpre : Int
  vmin : Int
  dI : Nat
  max : Nat
  items : List MshWait
  deriving DecidableEq, Repr

/-- What a bank decided for a valve start (R279, R282). -/
inductive BankPlan
  | pass | bwait | refuse | profErr
  deriving DecidableEq, Repr

/-- A timer channel beside its registers (R388 to R398): compare value in force, matches or captures of the window,
a capture since the enable. -/
structure TmrCh where
  cmp : Nat
  hits : Nat
  cap : Bool
  deriving DecidableEq, Repr

/-- A timer counter beside its registers (R385 to R400): prescaler accumulator, period in force, RUN and LOAD as last
applied, RUN before its last change and that instant, a SINGLE follower that waits, the window's updates and rollover, and the
instant of its last restart by a pulse. -/
structure TmrSt where
  lead : Bool
  leadAt : Nat
  pulseAt : Option Nat
  acc : Nat
  per : Nat
  run : Bool
  load : Nat
  waiting : Bool
  updates : Nat
  roll : Bool
  deriving DecidableEq, Repr

/-- The PWM time bases (R402 to R406): start of the period in progress, the Stagger members as of the last tick, and the units a
pending Stagger loads. -/
structure StgSt where
  starts : List (Option Nat)
  members : List (List OutU)
  tstag : Option Nat
  deriving DecidableEq, Repr

/-- A frame in the switch: VLAN, priority, class, the R-TAG sequence number if it carries one, the octets of
destination, source, EtherType and payload without tags, the ingress port, the instant of its last bit at ingress,
whether it leaves untagged, and whether its FCS is inverted (R475 to R491). -/
structure EthFrame where
  vid : Nat
  prio : Nat
  cls : Nat
  rtag : Option Nat
  body : List Byte
  ingress : Nat
  last : Nat
  untag : Bool
  bad : Bool
  deriving DecidableEq, Repr

/-- A frame in transmission: the instant it ends if nothing preempts it. -/
structure EthTx where
  frame : EthFrame
  ends : Nat
  deriving DecidableEq, Repr

/-- An egress port (R483 to R487): queues by class, the frame in transmission, the preempted frame and the time it has
left, credits of classes 5 and 6 in kbit/s × ns, and the counts of the window. -/
structure PortSt where
  queues : List (List EthFrame)
  cur : Option EthTx
  held : Option (EthFrame × Nat)
  cutShort : Bool
  credit5 : Int
  credit6 : Int
  creditAt : Nat
  rxWin : Nat
  dropWin : Nat
  deriving DecidableEq, Repr

/-- An entry of the MAC table (R477). -/
structure MacEnt where
  mac : Nat
  fid : Nat
  ports : Nat
  fixed : Bool
  seen : Nat
  deriving DecidableEq, Repr

/-- A stream entry (R488 to R492): its four words, its counters, and the state of its meter, generation and recovery. -/
structure SflEnt where
  w0 : Nat
  w1 : Nat
  w2 : Nat
  w3 : Nat
  matched : Nat
  dropped : Nat
  lost : Nat
  rogue : Nat
  resets : Nat
  oneway : Bool
  seq : Nat
  takeAny : Bool
  hist : List Bool
  tokens : Nat
  tokensAt : Nat
  port : Option (Nat × Nat)
  deriving DecidableEq, Repr

/-- The operational gate list of a port (R485): entries of gates and interval, cycle in ns, start of the cycle in
progress, position, gPTP instant at which its entry ends, and the base time of a pending change. -/
structure TasSt where
  oper : List (Nat × Nat)
  cycle : Nat
  start : Nat
  pos : Nat
  due : Nat
  pend : Option Nat
  deriving DecidableEq, Repr

/-- The local gPTP time (R493 to R495): its value at an instant, the rate ratio less 1 in 10⁻¹² steps, good Sync
messages in a row, and the grand master followed. -/
structure TsySt where
  base : Nat
  at_ : Nat
  rate : Int
  good : Nat
  gm : Option Nat
  deriving DecidableEq, Repr

/-- The switch beside its registers. -/
structure SwSt where
  ports : Sparse PortSt
  macs : Sparse MacEnt
  sfl : Sparse SflEnt
  gcl : Sparse (Nat × Nat)
  tas : Sparse TasSt
  tsy : TsySt
  mbLast : Nat
  mbEntries : Nat
  mbDrops : Nat
  lostWin : Nat
  deriving DecidableEq, Repr

/-- Power states (R610, R619), with the exit from DOZE, the phases of Cool-down and the wait for PG. -/
inductive PwrState
  | run | idle | doze | dozeExit | cooldown | quiesce | flush | park | waking
  deriving DecidableEq, Repr

/-- A request of the regulator link (R629): VCORE in the steps of VREQ, what it serves (0 a re-plan, 1 DOZE entry,
2 DOZE exit), and the tries made. -/
structure RegReq where
  volt : Nat
  use : Nat
  tries : Nat
  deriving DecidableEq, Repr

/-- Power states beside their registers: a WAIT that asks for PARK, a DOZE that begins at the next tick, retention
CRCs by bank, wake bits latched, regulator requests in order, the VOUT_COMMAND value last written, whether VOUT_MODE is
supported, PG, REGEN, and whether a transfer was aborted since the last exit from DOZE or Warm-up (R613 to R630). -/
structure PwrSt where
  state : PwrState
  waitPark : Bool
  dozeNext : Bool
  crcs : List (Nat × Nat)
  wakes : Nat
  reg : List RegReq
  vout : Nat
  regOk : Bool
  pg : Bool
  regen : Bool
  qto : Bool
  deriving DecidableEq, Repr

/-- A keep-alive channel beside its registers (R446 to R457): keep-alives and bus wakes of the window, a wake that waits for a
valid frame, the ends of the windows of wakes that came after it, and a mask set in PARK that is still to be raised. -/
structure NmSt where
  seen : Nat
  wake : Bool
  pend : Bool
  later : List Nat
  owed : Bool
  deriving DecidableEq, Repr

/-- The Baton ring (R458 to R463): the lap's SEQ and CONSENT, whether a lap delay has passed, COMMITs still to send,
whether an INLAP member or leader. -/
structure RingSt where
  seq : Nat
  mask : Nat
  resend : Nat
  deriving DecidableEq, Repr

/-- A CAN controller beside its registers (R414 to R441): the
instants at which the elements of the two transmit FIFOs came in, the start of frame of their heads' latest attempts,
the pool buffer last taken, the splits of past bus-offs and their count under R418 at the latest, the window's counts, the split
of the latest bus-off, and the applied addresses of the past with the instants until which they held. -/
structure CanSt where
  bos : Nat
  addrs : List (Nat × Nat)
  enq0 : List Nat
  enq1 : List Nat
  try0 : Nat
  try1 : Nat
  poolLast : Nat
  history : List Nat
  rx : Nat
  tx : Nat
  lost : Nat
  boSplit : Nat
  deriving DecidableEq, Repr

/-- A token slot of the Vault (R528 to R530). -/
structure VltSlot where
  valid : Bool
  priv : Nat
  tid : Nat
  seq : Nat
  lastUse : Nat
  key : List Byte
  deriving DecidableEq, Repr

/-- A Vault command in progress (R532): code, slot, privilege, token, the key where the unwrap succeeded, and the
status found at its start. -/
structure VltCmd where
  code : Nat
  slot : Nat
  priv : Nat
  tid : Nat
  key : Option (List Byte)
  status : Nat
  deriving DecidableEq, Repr

/-- The Vault's non-volatile contents and its command in progress (R528 to R533): token slots, key slots, enrolments
used, release counter, and the length of a lock-out recorded as active. -/
structure VltSt where
  slots : Sparse VltSlot
  keys : Sparse (List Byte)
  used : Nat
  relCnt : Nat
  lockRec : Option Nat
  cmd : Option VltCmd
  deriving DecidableEq, Repr

/-- A response with a correct MAC_T (R524): slot, distance in mm, zone, privilege and RSSI vector. -/
structure AccResp where
  slot : Nat
  dist : Int
  zone : Nat
  priv : Nat
  rssi : List Nat
  chal : List Byte
  deriving DecidableEq, Repr

/-- The access cycle and what it keeps (R513, R517 to R530): starts applied at ticks that wait for their cycle, the running
cycle's purpose, challenge, marker instant, token slots as they were at its start, responses and failures, the result
it carries to its end, the LF telegram and the UWB frame last sent, the last cycle's record, failures and lock-outs by
instant, whether a lock-out is due at the cycle's end, and the permit. -/
structure AccSt where
  starts : List (Nat × Nat)
  seqSeen : Nat
  held : Option Nat
  purpose : Nat
  chal : List Byte
  lfOut : List Byte
  uwbOut : List Byte
  poll : Nat
  slots : Sparse VltSlot
  resps : List AccResp
  failed : Nat
  result : Nat
  chosen : Option AccResp
  recSlot : Nat
  recZone : Nat
  recDist : Int
  recPriv : Nat
  recSent : Bool
  recRssi : List Nat
  recEnd : Nat
  ended : Nat
  fails : List Nat
  locks : List Nat
  lockEnd : Nat
  lockDue : Bool
  opening : Bool
  openTill : Option Nat
  closing : Bool
  deriving DecidableEq, Repr

/-- A flush of the Record book (R580 to R583): the frozen image, reason, lap and split of its start, blocks still to
write, the map of the new commit, sectors it has written, the sector being written, whether that is a retry, and the
blocks written. -/
structure RecFlush where
  image : List Host.Cell
  reason : Nat
  lap : Nat
  split : Nat
  todo : List Nat
  map : Sparse Nat
  used : List Nat
  target : Nat
  retried : Bool
  wrote : Nat
  deriving DecidableEq, Repr

/-- The Record book beside its registers and its SRAM: the flush in progress, the reason held, the instant that the
period counts from, whether the first tick after a reset owes a flush, the current commit sector, the sector last
written, and the instant of Warm-up that refills count from. -/
structure RecSt where
  flush : Option RecFlush
  held : Option Nat
  since : Nat
  resetDue : Bool
  commit : Option Nat
  cursor : Nat
  warm : Nat
  deriving DecidableEq, Repr

/-- The Marathon monitor beside its registers and its switches: time-temperature life of control die, PD-A and PD-B
in 2⁻²⁴ of a step, re-plans that await a tick (kind, unit, value), the operating minute of the next re-plan point,
and the dies whose life has been reported. -/
structure AgeSt where
  lifeCd : Nat
  lifeA : Nat
  lifeB : Nat
  pend : List (Nat × Nat × Nat)
  nextAt : Nat
  diesOver : List Nat
  deriving DecidableEq, Repr

/-- The Marshal beside its registers (R243 to R263): list, decided heat with its reserve-only flags, peak and
steady weights in force, sinks and rows lit by each start, those before their release point (`glow`), pulses in hand and waiting,
bank verdicts, the last conversion (`vprev` where it was valid),
and the heat under measurement (R250). -/
structure MshSt where
  waiting : List MshWait
  heat : List MshWait
  peak : List (Nat × Nat)
  steady : List (Nat × Nat)
  lit : List (Nat × List Nat)
  glow : List (Nat × List Nat)
  pulses : List (Nat × Nat)
  late : List (Nat × Nat)
  plan : List (Nat × BankPlan)
  vbat : Int
  vprev : Option Int
  contOver : Bool
  ovLow : Bool
  learns : List LearnSt
  notBefore : Nat
  deriving DecidableEq, Repr

/-- A context of the Pacer (R127, R135), and whether a double trap stopped it (R145). -/
structure CtxSt where
  pc : Nat
  sp : Nat
  fp : Nat
  pg : Nat
  fl : Nat
  rc : Nat
  stopped : Bool
  deriving DecidableEq, Repr

/-- The Pacer (R127 to R154, R651): both contexts, whether the Service context has been started, whether it waits in WAIT,
a SAFE trap that is pending, the instant of the latest cut-off, the Stride vector table in force, an address that the
comparators let pass because the Pacer was resumed there, whether a single step runs, and when the Pacer last halted. -/
structure PacSt where
  svc : CtxSt
  str : CtxSt
  started : Bool
  waiting : Bool
  safePend : Bool
  cutAt : Nat
  svbar : Nat
  passPc : Option Nat
  replAt : List (Nat × Nat)
  mismatch : Bool
  stepping : Bool
  haltAt : Nat
  deriving DecidableEq, Repr

/-- The debug port (R647 to R650): instruction register, boundary-scan cells from TDI on, the covered pins as last
sampled, the DACC capture (status, next address, data), and the word captured last by IDCODE, BYPASS or DSTAT. -/
structure TapSt where
  ir : Nat
  cells : List Bool
  pins : List Bool
  st : Nat
  addr : Nat
  data : Nat
  out : Nat
  deriving DecidableEq, Repr

/-- Clocks beside their registers (R600, R605): the counts of LPXO that passed in a row, and the instant at which the low-power
clock in use last failed its monitor. -/
structure ClkSt where
  lpGood : Nat
  lpFail : Option Nat
  deriving DecidableEq, Repr

/-- Supply monitors beside their registers (R662, R664 to R673, R679): starts of the unbroken runs outside a window by
quantity, start of the run in which the channels agree, lowest and highest VBAT of the window, its condition bits, and
the start of the latest excursion above 48 V. -/
structure SupSt where
  runs : Sparse Nat
  agree : Option Nat
  lowest : Option Int
  highest : Option Int
  cond0 : Nat
  cond1 : Nat
  surge : Option Nat
  deriving DecidableEq, Repr

/-- Phases of a reset and of Warm-up (R634, R655, R656). -/
inductive BootPhase
  | held | rom | clock | verify | verified | failed | done | recovery
  deriving DecidableEq, Repr

/-- Boot beside its registers (R634 to R656): the phase, the instant of the release, a reset that waits for an NV program
with its cause and source, lifecycle Field, the security floor, the image being started, and the sector program in
progress: its address and data. -/
structure BootSt where
  phase : BootPhase
  w0 : Nat
  want : Option (Nat × Nat)
  field : Bool
  svmin : Nat
  image : Nat
  nv : Option (Nat × List Byte)
  deriving DecidableEq, Repr

/-- The state of the block. -/
structure State where
  /-- Commands that wait, first in, first out. -/
  pending : List Instr
  /-- Instant of the latest command, in ns of a clock that never stops. -/
  now : Nat
  /-- Instant at which the split counter stood at 0 (R67). -/
  splitZero : Nat
  /-- The model's own counter of free values (log entry 3). -/
  fresh : Nat
  /-- Register words that differ from their factory reset value, by page × 0x1000 + offset. -/
  regs : Sparse Word
  /-- Reset values that the configuration image changed (R58, R659). -/
  img : Sparse Word
  /-- RWS shadows written since the last tick (R50). -/
  shadow : Sparse Word
  /-- Registers that reach their blocks only at a tick, as the last tick applied them (R52, R242, R302, R356). -/
  cfgAct : Sparse Word
  /-- Memory outside snapshot memory, packet buffer and register pages (R41). -/
  mem : List Host.Cell
  timers : List (Timer × Nat)
  /-- Yield episodes open: guarantee, cause, unit key (R32). -/
  episodes : List (Nat × Nat × Nat)
  /-- First LOCK key word of a page: page, source, instant (R53). -/
  lockFirst : List (Nat × Src × Nat)
  /-- Pages whose soft reset waits for a stop (R58), and pages whose enable waits (R57). -/
  resetWait : List Nat
  enableWait : List Nat
  stride : StrideSt
  queues : Sparse QueueSt
  latches : List (Src × PushLatch)
  fcr : FcrSt
  outs : Sparse OutSt
  valves : Sparse ValveSt
  bridges : Sparse BridgeSt
  scan : ScanSt
  seq : SeqSt
  cal : CalSt
  strobes : Sparse StrobeSt
  dins : Sparse DinSt
  ahead : List Ahead
  /-- PHY reset lines asserted, bit p for port p (R472). -/
  phyLines : Nat
  age : Sparse AgeUnit
  /-- Start of the reverse battery in progress (R667). -/
  reverseAt : Option Nat
  dies : Sparse DieSt
  msh : MshSt
  tmrs : Sparse TmrSt
  tchs : Sparse TmrCh
  stg : StgSt
  sw : SwSt
  pwr : PwrSt
  nms : Sparse NmSt
  ring : RingSt
  cans : Sparse CanSt
  vault : VltSt
  acc : AccSt
  book : RecSt
  ageing : AgeSt
  pac : PacSt
  tap : TapSt
  clk : ClkSt
  sup : SupSt
  boot : BootSt
  deriving DecidableEq, Repr

/-! Reset values. -/

/-- A context before its start. -/
def ctxReset : CtxSt := { pc := 0, sp := 0, fp := 0, pg := 0, fl := 0, rc := 0, stopped := false }

/-- The Stride engine at reset. -/
def strideReset : StrideSt :=
  { running := false, started := false, tick := 0, nextTick := 0, prevTick := 0, base := 0, markAct := 0, budAct := 0, cut := false, fin := false,
    ovr := false, prevOvr := false, bridging := false, bridgeStep := false, newLen := none,
    firstLock := true, staged := [], captured := [], carry := [], suspended := none,
    replaySrc := none, prep := [], snap := [], snapPrev := [], safeRel := false, dozed := false }

/-- The Marshal at reset. -/
def mshReset : MshSt :=
  { waiting := [], heat := [], peak := [], steady := [], lit := [], glow := [], pulses := [], late := [], plan := [], vbat := 0, vprev := none,
    contOver := false, ovLow := false, learns := [], notBefore := 0 }

/-- The access cycle at reset. -/
def accReset : AccSt :=
  { starts := [], seqSeen := 0, held := none, purpose := 0, chal := [], lfOut := [], uwbOut := [], poll := 0, slots := [], resps := [],
    failed := 0, result := 0, chosen := none, recSlot := 0xFF, recZone := 0xF, recDist := 0, recPriv := 0, recSent := false,
    recRssi := [0, 0, 0, 0, 0, 0], recEnd := 0, ended := 0, fails := [], locks := [], lockEnd := 0, lockDue := false, opening := false,
    openTill := none, closing := false }

/-- Power states at reset; the board holds PG and REGEN high. -/
def pwrReset : PwrSt :=
  { state := .run, waitPark := false, dozeNext := false, crcs := [], wakes := 0, reg := [], vout := 0, regOk := true, pg := true, regen := true,
    qto := false }

/-- The switch at reset. -/
def swReset : SwSt :=
  { ports := [], macs := [], sfl := [], gcl := [], tas := [],
    tsy := { base := 0, at_ := 0, rate := 0, good := 0, gm := none }, mbLast := 0, mbEntries := 0, mbDrops := 0,
    lostWin := 0 }

/-- The scan and the frame sequence at reset. -/
def scanReset : ScanSt :=
  { scanning := false, row := 0, slotAt := 0, slotLen := 0, startDue := false, front := [], back := none, staged := none, rldSeen := 0, frameSeen := 0, msyncLost := false,
    scans := 0, lastScans := 0 }

/-- The frame sequence at reset. -/
def seqReset : SeqSt := { on := false, seen := 0, restart := false, pos := 0, scans := 0, ended := false }

/-- The Pacer at reset. -/
def pacReset : PacSt :=
  { svc := ctxReset, str := ctxReset, started := false, waiting := false, safePend := false, cutAt := 0, svbar := 0x200,
    passPc := none, replAt := [], mismatch := false, stepping := false, haltAt := 0 }

/-- A part as it comes from the factory, at the release of its power-on reset (w0 of R655): every register at its reset
value, NV and memory with nothing listed, both power dies under their all-off patterns (R635), and nothing pending.
The values that no rule states are those of log entry 6. -/
def State.reset : State :=
  { pending := [], now := 0, splitZero := 0, fresh := 0, regs := [], img := [], shadow := [], cfgAct := [], mem := [], timers := [],
    episodes := [], lockFirst := [], resetWait := [], enableWait := [], stride := strideReset, queues := [], latches := [],
    fcr := { events := [], log := [], holds := [], ending := [], shadows := [], inbox := [] }, outs := [], valves := [],
    bridges := [], scan := scanReset, seq := seqReset,
    cal := { gainNext := [], gain := [], pixNext := [], pix := [], size := (0, 0), hrMin := none }, strobes := [], dins := [], ahead := [], phyLines := 0x3F,
    age := [], reverseAt := none, dies := [], msh := mshReset, tmrs := [], tchs := [],
    stg := { starts := [none, none, none, none], members := [[], [], [], []], tstag := none }, sw := swReset, pwr := pwrReset, nms := [],
    ring := { seq := 0, mask := 0, resend := 0 }, cans := [],
    vault := { slots := [], keys := [], used := 0, relCnt := 0, lockRec := none, cmd := none }, acc := accReset,
    book := { flush := none, held := none, since := 0, resetDue := true, commit := none, cursor := 0, warm := 0 },
    ageing := { lifeCd := 0, lifeA := 0, lifeB := 0, pend := [], nextAt := 0, diesOver := [] }, pac := pacReset,
    tap := { ir := 2, cells := List.replicate 96 false, pins := List.replicate 32 false, st := 0, addr := 0, data := 0, out := 0 },
    clk := { lpGood := 0, lpFail := none },
    sup := { runs := [], agree := none, lowest := none, highest := none, cond0 := 0, cond1 := 0, surge := none },
    boot := { phase := .rom, w0 := 0, want := none, field := false, svmin := 0, image := 0, nv := none } }

end Sys2Proof.Machine
end

