-- ==== Sys2Proof/Machine/Ops.lean ====
section
/-! DEFINITION. The named operations over registers, memory, timers, yields and the Record book that every
meaning is written with. -/
namespace Sys2Proof.Machine

/-- The first eight bytes of AES-CMAC, which every truncated tag of the part takes (R60, R463, R521). -/
def macOf (key msg : List Byte) : List Byte := leBytes 8 (Config.aesCmac key msg).toNat

/-- The 32 bytes of SHA-256 (R642, R643). -/
def shaOf (msg : List Byte) : List Byte := leBytes 32 (Config.sha256 msg).toNat

/-- The local gPTP time in ns at an instant (R494, R495). -/
def State.gptp (s : State) (t : Nat) : Nat :=
  let y := s.sw.tsy
  (Int.ofNat y.base + Int.ofNat (t - y.at_) + Int.ofNat (t - y.at_) * y.rate / 1000000000000).toNat

/-! The grid of periodic activities. -/

/-- Whether an instant lies on the grid of a period in split steps (R698). -/
def State.onGrid (s : State) (t period : Nat) : Bool :=
  decide (s.splitZero ≤ t) && decide ((t - s.splitZero) % (4 * period) = 0)

/-! Register tables and reset values. -/

/-- The pages present and their table rows (R43). -/
def rowsOf (p : Nat) : List RegRow :=
  match p with
  | 0x00 => rowsSYS | 0x01 => rowsCLK | 0x02 => rowsPWR | 0x03 => rowsSUP | 0x04 => rowsBOOT | 0x05 => rowsNVC
  | 0x06 => rowsFCR | 0x07 => rowsREC | 0x08 => rowsAGE | 0x09 => rowsSTR | 0x0A => rowsBQ | 0x0B => rowsPAC
  | 0x0C => rowsMSH | 0x0D => rowsVLT | 0x0E => rowsACC | 0x0F => rowsLF
  | 0x10 | 0x11 | 0x12 | 0x13 | 0x14 | 0x15 | 0x16 => rowsLSW
  | 0x17 => rowsLSWC | 0x18 | 0x19 | 0x1A | 0x1B => rowsVDB | 0x1C => rowsVDC | 0x1D | 0x1E => rowsHB
  | 0x1F => rowsHBC | 0x20 => rowsLDS | 0x21 => rowsLMX | 0x22 => rowsLCAL | 0x24 | 0x25 => rowsDIN
  | 0x26 => rowsDOUT | 0x28 | 0x29 | 0x2A | 0x2B => rowsTMR | 0x2C => rowsSTG
  | 0x30 | 0x31 | 0x32 | 0x33 | 0x34 | 0x35 | 0x36 | 0x37 => rowsCAN
  | 0x38 => rowsCANC | 0x39 => rowsNMK | 0x3A => rowsNMB | 0x40 => rowsSWC
  | 0x41 | 0x42 | 0x43 | 0x44 | 0x45 | 0x46 => rowsPT
  | 0x47 => rowsPH | 0x48 => rowsTSY | 0x49 => rowsTAS | 0x4A => rowsSFL | 0x4B => rowsRRA | 0x50 => rowsDBG
  | 0x51 => rowsLNK
  | _ => []

/-- Whether page index `p` is present (R43, R44). -/
def pagePresent (p : Nat) : Bool := !(rowsOf p).isEmpty

/-- Block type of a page (R43, `PID.TYPE`). -/
def pageType (p : Nat) : Nat :=
  if p ≤ 0x0F then p + 1
  else if p ≤ 0x16 then 0x11 else if p = 0x17 then 0x12 else if p ≤ 0x1B then 0x13 else if p = 0x1C then 0x14
  else if p ≤ 0x1E then 0x15 else if p ≤ 0x22 then p - 9 else if p ≤ 0x25 then 0x1A else if p = 0x26 then 0x1B
  else if p ≤ 0x2B then 0x1C else if p = 0x2C then 0x1D else if p ≤ 0x37 then 0x1E else if p ≤ 0x3A then p - 0x19
  else if p = 0x40 then 0x22 else if p ≤ 0x42 then 0x23 else if p ≤ 0x46 then 0x24 else if p ≤ 0x4B then p - 0x22
  else if p = 0x50 then 0x2A else 0x2B

/-- Instance of a page among those of its type (R43, `PID.INST`). -/
def pageInst (p : Nat) : Nat :=
  if 0x10 ≤ p ∧ p ≤ 0x16 then p - 0x10 else if 0x18 ≤ p ∧ p ≤ 0x1B then p - 0x18
  else if p = 0x1E ∨ p = 0x25 ∨ p = 0x42 then 1 else if 0x28 ≤ p ∧ p ≤ 0x2B then p - 0x28
  else if 0x30 ≤ p ∧ p ≤ 0x37 then p - 0x30 else if 0x43 ≤ p ∧ p ≤ 0x46 then p - 0x43 else 0

/-- Number of units of a page (R45 `CAPS.UNITS`). -/
def pageUnits (p : Nat) : Nat :=
  if p = 0x0A then 32 else if p = 0x0D then 16 else if p = 0x0F then 6
  else if 0x10 ≤ p ∧ p ≤ 0x16 then 8 else if 0x18 ≤ p ∧ p ≤ 0x1B then 4 else if p = 0x1D ∨ p = 0x1E then 6
  else if p = 0x20 then 48 else if p = 0x21 then 16 else if p = 0x24 ∨ p = 0x25 then 32 else if p = 0x26 then 16
  else if 0x28 ≤ p ∧ p ≤ 0x2B then 8 else if p = 0x2C then 4 else if 0x30 ≤ p ∧ p ≤ 0x37 then 1
  else if p = 0x39 then 8 else if 0x41 ≤ p ∧ p ≤ 0x47 then 1 else if p = 0x4B then 8 else if p = 0x51 then 2 else 0

/-- Levels of R13. -/
inductive Cluster | device | core | net | power | sense | safe
  deriving DecidableEq, Repr

/-- The level a page belongs to (R13). -/
def clusterOf (p : Nat) : Cluster :=
  if p = 0x00 ∨ p = 0x01 ∨ p = 0x02 ∨ p = 0x04 ∨ p = 0x05 ∨ p = 0x50 ∨ p = 0x51 then .device
  else if p = 0x09 ∨ p = 0x0A ∨ p = 0x0B ∨ (0x28 ≤ p ∧ p ≤ 0x2C) then .core
  else if (0x30 ≤ p ∧ p ≤ 0x3A) ∨ (0x40 ≤ p ∧ p ≤ 0x4B) then .net
  else if p = 0x24 ∨ p = 0x25 ∨ p = 0x03 then .sense
  else if p = 0x06 ∨ p = 0x07 ∨ p = 0x08 ∨ p = 0x0D ∨ p = 0x0E then .safe
  else .power

/-- The class of a load switch channel: 0 heavy, 1 medium, 2 light (R192). -/
def lsClass (n : Nat) : Nat := if n < 8 then 0 else if n < 24 then 1 else 2

/-- Default class of each fault source (R541, R95, R125, R126, R145, R237, R265, R299, R322, R353, R380, R442,
R466, R504, R535). -/
def srcClass (i : Nat) : Nat :=
  if i < 0x2C then
    ([3, 3, 3, 2, 1, 3, 1, 3, 2, 1, 1, 3, 2, 3, 2, 2, 1, 1, 1, 2, 1, 3, 3, 0, 3, 1, 3, 4, 0, 3, 0, 4, 0, 1, 1, 0, 1,
      3, 0, 1, 0, 0, 1, 2] : List Nat).getD i 0
  else if i < 0x64 then ([1, 2, 1, 1, 0, 0, 0, 0] : List Nat).getD ((i - 0x2C) % 8) 0
  else if i < 0x84 then ([1, 1, 2, 0, 2, 2, 1, 0] : List Nat).getD ((i - 0x64) % 8) 0
  else if i < 0x92 then ([1, 1, 1, 2, 0, 0, 0] : List Nat).getD ((i - 0x84) % 7) 0
  else if i < 0x9F then ([0, 0, 1, 1, 1, 1, 2, 0, 0, 1, 1, 2, 0] : List Nat).getD (i - 0x92) 0
  else if i < 0xC7 then ([1, 0, 0, 0, 1] : List Nat).getD ((i - 0x9F) % 5) 0
  else ([2, 0, 0, 1, 1, 0, 1, 1, 1, 2, 1, 0, 1] : List Nat).getD (i - 0xC7) 0

/-- Reset values that a table gives per page, class, index or from the factory area. -/
def resetSpecial (p off lo : Nat) : Option Nat :=
  if p = 0 then
    if off = 0x140 then some (Config.factoryWord 0) else if off = 0x144 then some (Config.factoryWord 1)
    else if off = 0x148 then some (Config.factoryWord 2) else none
  else if p = 0x40 then
    if off = 0x104 then some (Config.factoryWord 3) else if off = 0x108 then some (Config.factoryWord 4)
    else if off = 0x200 then some (if lo = 0 then 1 else if lo = 15 then 1 else 0x7F)
    else if off = 0x204 then some 0x7F else none
  else if p = 0x4B then
    if 0x200 ≤ off ∧ off < 0x600 then
      let q := (off - 0x200) / 4
      if lo = 0 then some (if q = 0x0D then 3 else 1)
      else some (if q = 0 ∨ q = 4 ∨ q = 5 ∨ q = 0x0D ∨ q = 0x50 ∨ q = 0x51 ∨ q = 0x4B then 4 else 3)
    else none
  else if 0x10 ≤ p ∧ p ≤ 0x16 then
    let c := lsClass (8 * (p - 0x10))
    if off = 4 ∧ lo = 8 then some c else if off = 4 ∧ lo = 10 then some (b2n (p = 0x16))
    else if off = 4 ∧ lo = 16 then some (([0xF0, 0, 0xFF, 0, 0, 0xFF, 0xFF] : List Nat).getD (p - 0x10) 0)
    else if 0x100 ≤ off ∧ off % 0x80 = 8 ∧ lo = 8 then some (([0x32, 0x14, 0x0A] : List Nat).getD c 0)
    else if 0x100 ≤ off ∧ off % 0x80 = 0x0C ∧ lo = 0 then some (([0x64, 0x19, 0x05] : List Nat).getD c 0)
    else none
  else if 0x18 ≤ p ∧ p ≤ 0x1B then (if off = 4 ∧ lo = 9 then some (b2n (0x1A ≤ p)) else none)
  else if p = 0x1E then (if off = 4 ∧ lo = 9 then some 1 else none)
  else if p = 0x25 then (if off = 4 ∧ lo = 8 then some 1 else none)
  else if p = 0x2C then
    if 0x100 ≤ off ∧ off < 0x140 ∧ off % 0x10 = 0 then
      some (([0x1E848, 0x3D090, 0xF424, 0x61A8] : List Nat).getD ((off - 0x100) / 0x10) 0) else none
  else if 0x41 ≤ p ∧ p ≤ 0x46 then
    if off = 4 ∧ lo = 8 then some (b2n (p ≤ 0x42)) else if off = 4 ∧ lo = 28 then some (if p ≤ 0x42 then 0xA else 1)
    else if 0x140 ≤ off ∧ off < 0x1C0 ∧ off % 0x10 = 0 ∧ lo = 0 then some (if off = 0x1B0 then 0x40 else 0x10)
    else none
  else if p = 0x06 then
    if 0x100 ≤ off ∧ off < 0x114 then
      some (bitsOf (BitVec.ofNat 32 (([0, 0x6421, 0x1F432, 0xA41, 0x1454] : List Nat).getD ((off - 0x100) / 4) 0)) lo
        (if lo = 8 then 16 else 3))
    else if 0x200 ≤ off ∧ off < 0x550 then some (srcClass ((off - 0x200) / 4)) else none
  else if p = 0x08 then (if off = 0x144 ∧ lo = 0 then some (Config.factoryRon0 0) else none)
  else none

/-- Whether a row covers the word at `off`. -/
def RegRow.covers (r : RegRow) (off : Nat) : Bool :=
  decide (r.off ≤ off) && decide (off % 4 = 0) &&
    (List.range r.n2).any (fun j =>
      decide (r.off + j * r.stride2 ≤ off) && decide ((off - r.off - j * r.stride2) % r.stride = 0)
        && decide ((off - r.off - j * r.stride2) / r.stride < r.n))

/-- Pages whose `CTRL.EN` resets to 1 (R45). -/
def runsAlways (p : Nat) : Bool := p ≤ 5 || p = 0x50

/-- The rows of the word at `off` of page `p`: those of the page's table, else those of the header (R45). -/
def rowsAt (p off : Nat) : List RegRow :=
  match (rowsOf p).filter (·.covers off) with
  | [] => if pagePresent p ∧ off ≤ 0x2C then rowsHdr.filter (·.covers off) else []
  | rs => rs

/-- The factory reset value of a register word. `CAPS.UNITS` is the number of units of the page (R45, R121, R508); the minor
version of `PID`, which the spec leaves to the page, reads 0 (log entry 55). -/
def resetWord (p off : Nat) : Word :=
  if off = 0 then
    if pagePresent p then BitVec.ofNat 32 (0x100 + pageInst p * 0x10000 + pageType p * 0x1000000) else 0
  else if off = 8 then if runsAlways p then 1 else 0
  else
    let w := (rowsAt p off).foldl (fun w r => withBits w r.lo r.width ((resetSpecial p off r.lo).getD r.rst)) 0
    if off = 4 then withBits w 0 8 (pageUnits p) else w

/-- The key of a register word. -/
def regKey (p off : Nat) : Nat := p * 0x1000 + off

/-! Register access of the model itself: no access rule applies here. -/

/-- The stored word of a register. -/
def State.rd (s : State) (p off : Nat) : Word := look (resetWord p off) s.regs (regKey p off)

/-- Stores a register word. -/
def State.wr (s : State) (p off : Nat) (w : Word) : State :=
  { s with regs := store (resetWord p off) (regKey p off) w s.regs }

/-- The value of a field. -/
def State.get (s : State) (f : Fld) : Nat := bitsOf (s.rd f.page f.off) f.lo f.width

/-- A field as a flag. -/
def State.flag (s : State) (f : Fld) : Bool := s.get f != 0

/-- Sets a field; values wider than the field lose their upper bits. -/
def State.put (s : State) (f : Fld) (v : Nat) : State :=
  s.wr f.page f.off (withBits (s.rd f.page f.off) f.lo f.width v)

/-- Adds to a counter that saturates. -/
def State.count (s : State) (f : Fld) (k : Nat := 1) : State := s.put f (min (s.get f + k) (2 ^ f.width - 1))

/-- A field as the last tick, or a reset, handed it to its block. -/
def State.act (s : State) (f : Fld) : Nat :=
  bitsOf (look (look (resetWord f.page f.off) s.img (regKey f.page f.off)) s.cfgAct (regKey f.page f.off)) f.lo f.width

/-- Sets a bit of a page's `EVT`. -/
def State.evt (s : State) (p bit : Nat) : State :=
  s.put (Hdr.EVT p) (setBit (s.get (Hdr.EVT p)) bit)

/-- Sets bit `bit` of a field of flags. -/
def State.setFlag (s : State) (f : Fld) (bit : Nat) : State := s.put f (setBit (s.get f) bit)

/-- Clears bit `bit` of a field of flags. -/
def State.clrFlag (s : State) (f : Fld) (bit : Nat) : State := s.put f (clrBit (s.get f) bit)

/-- The value an RWS field takes at the next tick: its shadow, or the applied value (R50). -/
def State.next (s : State) (f : Fld) : Nat :=
  bitsOf (look (s.rd f.page f.off) s.shadow (regKey f.page f.off)) f.lo f.width

/-! Time. -/

/-- The split count of an instant (R67). -/
def State.splitAt (s : State) (t : Nat) : Nat := (t - s.splitZero) / 4

/-- Whether an instant lies at or past the next tick, whose command has not run yet: an event of that instant belongs to the window
that the tick opens (R76, R77; log entry 1). -/
def State.tickPast (s : State) (t : Nat) : Bool :=
  s.stride.running && s.stride.suspended.isNone && !s.flag STR.RPLCTRL_EN && decide (s.stride.nextTick ≤ s.splitAt t)

/-- The lap count. -/
def State.lap (s : State) : Nat := s.get STR.LAPL + 2 ^ 32 * s.get STR.LAPH

/-- Sets the lap count, modulo 2^48. -/
def State.setLap (s : State) (n : Nat) : State := (s.put STR.LAPL n).put STR.LAPH (n / 2 ^ 32)

/-- The instant of the latest command never goes back. -/
def State.reach (s : State) (t : Nat) : State := { s with now := max s.now t }

/-- The deadline of a running timer. -/
def State.due (s : State) (k : Timer) : Option Nat := (s.timers.find? (fun e => decide (e.1 = k))).map (·.2)

/-- Stops a timer. -/
def State.disarm (s : State) (k : Timer) : State := { s with timers := s.timers.filter (fun e => decide (e.1 ≠ k)) }

/-- Starts or restarts a timer. -/
def State.arm (s : State) (k : Timer) (t : Nat) : State :=
  { s with timers := (k, t) :: s.timers.filter (fun e => decide (e.1 ≠ k)) }

/-- What an expiry command does: nothing if its timer does not run, else the effect at the deadline. -/
def State.onExpiry (s : State) (k : Timer) (f : Nat → State → State) : State :=
  match s.due k with
  | none => s
  | some t => f t ((s.disarm k).reach t)

/-- One millisecond and one microsecond in the model's time unit. -/
def ms (n : Nat) : Nat := n * 1000000
/-- Microseconds. -/
def us (n : Nat) : Nat := n * 1000

/-! Memory (R41). -/

/-- A byte that nothing has written reads as zero (log entry 2). -/
def State.byte (s : State) (a : Nat) : Byte := look 0 s.mem a

/-- Writes one byte. -/
def State.setByte (s : State) (a : Nat) (b : Byte) : State := { s with mem := store 0 a b s.mem }

/-- `n` bytes from address `a` up. -/
def State.bytes (s : State) (a n : Nat) : List Byte := (List.range n).map (fun i => s.byte (a + i))

/-- Writes bytes from address `a` up. -/
def State.setBytes (s : State) (a : Nat) (bs : List Byte) : State := { s with mem := storeRun 0 a bs s.mem }

/-- A little-endian number of `n` bytes. -/
def State.le (s : State) (a n : Nat) : Nat := leVal (s.bytes a n)

/-- Writes a little-endian number of `n` bytes. -/
def State.setLe (s : State) (a n v : Nat) : State := s.setBytes a (leBytes n v)

/-- Zeroes the bytes of [a, b). -/
def State.zero (s : State) (a b : Nat) : State :=
  { s with mem := s.mem.filter (fun c => decide (c.1 < a) || decide (b ≤ c.1)) }

/-- The canonical form of the memory. -/
abbrev Memory.wf (m : List Host.Cell) : Prop := canonB (fun _ => (0 : Byte)) m = true

/-- A free value, and the counter advanced (log entry 3). -/
def State.free (s : State) : Nat × State := (Config.freeValue s.fresh, { s with fresh := s.fresh + 1 })

/-! Detections, episodes, yields and the Record book. -/

/-- A detection sets out for FCR (R548); it is raised by FAULT_RAISE. -/
def State.detect (s : State) (src unit : Nat) : State :=
  { s with fcr := { s.fcr with inbox := s.fcr.inbox ++ [(src, unit)] } }

/-- Where code `c`'s counter entry lies in the Record book SRAM (R572). -/
def recCounter (c : Nat) : Nat := 0x401000 + 8 * c

/-- Number of detail records the detail region holds (R572, R576). -/
def recDetails : Nat := 13056

/-- The counters and last-yield words of R31, without the Record book's part. -/
def State.yieldRegs (s : State) (g cause : Nat) : State :=
  let s := (s.count (SYS.COUNT (g - 1))).evt 0 0
  let s := (s.put SYS.GUAR g).put SYS.CAUSE cause
  (s.put SYS.LAPL s.lap).put SYS.LAPH (s.lap / 2 ^ 32)

/-- A recording of code `c` (R574 to R576). A yield of G9 that it begins is itself recorded; `fuel` bounds that
nesting, which ends because an episode counts once (R32). -/
def State.record : Nat → Nat → Nat → Nat → Nat → Nat → State → State
  | 0, _, _, _, _, _, s => s
  | fuel + 1, c, t, unit, aux, arg, s =>
    let a := recCounter c
    let tokens := s.le (a + 6) 1
    let cls := s.le (a + 7) 1 % 16
    let done := s.le (a + 7) 1 / 16
    if tokens = 0 then
      let s := s.setLe (a + 4) 2 (min (s.le (a + 4) 2 + 1) 0xFFFF)
      if (9, 9, c) ∈ s.episodes then s
      else
        let s := { s with episodes := (9, 9, c) :: s.episodes }
        State.record fuel 0x109 t 0 9 0 ((s.yieldRegs 9 9).evt 0x07 3)
    else
      let s := { s with episodes := s.episodes.filter (fun e => decide (e ≠ (9, 9, c))) }
      let s := (s.setLe (a + 6) 1 (tokens - 1)).setLe a 4 (min (s.le a 4 + 1) 0xFFFFFFFF)
      if done < s.get (REC.DETAIL cls) then
        let k := s.le 0x400000 4
        if k ≥ recDetails then s.count REC.DDROP
        else
          let b := 0x41A000 + 32 * k
          let s := s.setBytes b (leBytes 2 c ++ leBytes 1 unit ++ leBytes 1 aux ++ leBytes 6 s.lap ++ leBytes 2 0
            ++ leBytes 4 (s.splitAt t) ++ leBytes 6 arg ++ leBytes 10 0)
          let s := (s.setLe 0x400000 4 (k + 1)).setLe (a + 7) 1 (cls + 16 * (done + 1))
          if k + 1 = recDetails then
            let s := (s.setLe 0x400004 1 (setBit (s.le 0x400004 1) 0)).evt 0x07 2
            State.record fuel 0x109 t 0 9 0 ((s.yieldRegs 9 9).detect 0x20 0)
          else s
      else s

/-- A recording by a hardware source at instant `t`. -/
def State.recEvent (s : State) (c t unit aux : Nat) : State := State.record 4 c t unit aux 0 s

/-- One yield episode that begins and ends at once (R31, R32). -/
def State.yieldOnce (s : State) (g cause unit t : Nat) : State :=
  (s.yieldRegs g cause).recEvent (0x100 + g) t unit cause

/-- Begins a yield episode of a continuous condition at one unit, unless it is open already (R32). -/
def State.yieldOpen (s : State) (g cause key unit t : Nat) : State :=
  if (g, cause, key) ∈ s.episodes then s
  else { s with episodes := (g, cause, key) :: s.episodes }.yieldOnce g cause unit t

/-- Ends a yield episode. -/
def State.yieldClose (s : State) (g cause key : Nat) : State :=
  { s with episodes := s.episodes.filter (fun e => decide (e ≠ (g, cause, key))) }

end Sys2Proof.Machine
end

