-- ==== Sys2Proof/Machine/Baton.lean ====
section
/-! DEFINITION. The Baton queues (R110 to R118, R121 to R123). -/
namespace Sys2Proof.Machine

/-- An empty queue. -/
def queueInit : QueueSt := { entries := [], ovf := false, shown := none }

/-- A queue. -/
def State.queue (s : State) (k : Nat) : QueueSt := look queueInit s.queues k

/-- Updates a queue. -/
def State.setQueue (s : State) (k : Nat) (q : QueueSt) : State := { s with queues := store queueInit k q s.queues }

/-- Whether the Stride consumes queue `k`, by the ownership in force (R52, R121). -/
def State.strideQueue (s : State) (k : Nat) : Bool := bitAt (s.act (Hdr.OWN 0x0A)) k

/-- A dropped entry (R115): the count, the directory flag and, on a Stride-owned queue, BQ_OVF (R541). -/
def State.qOverflow (s : State) (k : Nat) : State :=
  let s := ((s.count (BQ.OVFCNT k)).put (BQ.OVF k) 1).setQueue k { s.queue k with ovf := true }
  if s.strideQueue k then s.detect 0x1E k else s

/-- Whether queue `k` is full. -/
def State.qFull (s : State) (k : Nat) : Bool := decide ((s.queue k).entries.length ≥ s.get (BQ.DEPTH k))

/-- Whether the Service context consumes queue `k`: neither the Stride nor a hardware consumer does (R116, R117). -/
def State.serviceQueue (s : State) (k : Nat) : Bool := !s.strideQueue k && decide (s.get (BQ.HWC k) = 0)

/-- What is left of a queue once its oldest entry is dropped for a new one (R115): a Service-context consumer goes on
reading the head that it had (R116, log entry 60). -/
def QueueSt.displace (q : QueueSt) (service : Bool) (e : BqEntry) : QueueSt :=
  { q with entries := q.entries.drop 1 ++ [e], shown := if service then q.shown.orElse (fun _ => q.entries.head?) else none }

/-- Queues an entry under the full policy and the threshold event (R115, R117). A queue of depth 0 takes none and counts
none (DESIGN CHOICE, log entry 61). -/
def State.qPush (s : State) (k : Nat) (e : BqEntry) : State :=
  if s.get (BQ.DEPTH k) = 0 then s
  else if s.qFull k then
    let s := s.qOverflow k
    if s.flag (BQ.FULLPOL k) then
      s.setQueue k ((s.queue k).displace (s.serviceQueue k) e)
    else s
  else
    let q := s.queue k
    let s := s.setQueue k { q with entries := q.entries ++ [e] }
    if s.get (BQ.THR k) = q.entries.length + 1 ∧ s.serviceQueue k then s.evt 0x0A k else s

/-- The SRC that a push carries (R112). -/
def srcCode : Src → Nat
  | .service => 0x0B00 | .stride => 0x0B01 | .remote q => 0x4B00 + q | .debug => 0x5000

/-- A source's push latches. -/
def State.latch (s : State) (w : Src) : PushLatch :=
  ((s.latches.find? (fun e => decide (e.1 = w))).map (·.2)).getD { p0 := 0, p1 := 0, go := 0, st := 0 }

/-- Sets a source's push latches. -/
def State.setLatch (s : State) (w : Src) (l : PushLatch) : State :=
  { s with latches := (w, l) :: s.latches.filter (fun e => decide (e.1 ≠ w)) }

/-- Whether a TL is valid for a push (R110, R113). -/
def tlOk (tl : Nat) : Bool :=
  decide (tl / 2 ^ 14 ≠ 3) && decide (tl % 16 ≤ 8) && !(decide (tl / 2 ^ 14 = 1) && decide (tl % 16 ≠ 8)) && !bitAt tl 13 && !bitAt tl 12

/-- Whether a reference buffer follows R111 and reads OWNER 1. -/
def State.refOk (s : State) (a : Nat) : Bool :=
  let h := s.le a 4
  decide (0x200000 ≤ a) && decide (a % 16 = 0) && decide (1 ≤ h % 65536) && decide (h % 65536 ≤ 65532)
    && decide (a + 4 + h % 65536 ≤ 0x2E0000) && bitAt h 31

/-- The payload of a pushed entry (R110): inline bytes beyond LEN and the upper half of a reference are zero; a system entry
keeps all eight bytes (DESIGN CHOICE, log entry 62). -/
def PushLatch.payload (l : PushLatch) (tl : Nat) : Nat :=
  match tl / 2 ^ 14 with
  | 0 => (l.p0 + 2 ^ 32 * l.p1) % 2 ^ (8 * (tl % 16))
  | 1 => l.p0
  | _ => l.p0 + 2 ^ 32 * l.p1

/-- A push by a source: refused by name in PUSHST, staged for the Stride context, or queued (R113, R114). -/
def State.pushGo (s : State) (w : Src) (tl k t : Nat) : State :=
  let l := s.latch w
  let st := (if tlOk tl then 0 else 4)
    + (if tl / 2 ^ 14 = 1 ∧ ¬ s.refOk l.p0 then 8 else 0) + (if s.get (BQ.DEPTH k) = 0 then 16 else 0)
  if st ≠ 0 then s.setLatch w { l with st := st }
  else
    let pay := l.payload tl
    let e : BqEntry := { split := s.splitAt t, src := srcCode w, tl := tl, p0 := pay % 2 ^ 32, p1 := pay / 2 ^ 32, arr := t }
    if w = .stride then
      { s with stride := { s.stride with staged := s.stride.staged ++ [(k, e)] } }.setLatch w { l with st := 32 }
    else
      let full := s.qFull k
      let queued := !full || s.flag (BQ.FULLPOL k)
      (s.qPush k e).setLatch w { l with st := b2n queued + 2 * b2n full }

/-- An entry of a hardware producer (R112): inline bytes, delivered at instant `t` with the split of its event. R79 leaves the
delivery 10 µs: the model delivers as the command of the event runs (DESIGN CHOICE, log entry 93). -/
def State.hwPush (s : State) (k page unit ty : Nat) (bytes : List Byte) (split t : Nat) : State :=
  let v := leVal bytes
  s.qPush k { split := split, src := 256 * page + unit, tl := 16 * ty + bytes.length, p0 := v % 2 ^ 32, p1 := v / 2 ^ 32, arr := t }

/-- A reference entry of a hardware producer. -/
def State.hwRef (s : State) (k page unit ty addr split t : Nat) : State :=
  s.qPush k { split := split, src := 256 * page + unit, tl := 0x4000 + 16 * ty + 8, p0 := addr, p1 := 0, arr := t }

/-- The consumer of an entry returns its buffer to the producer (R111). -/
def State.freeBuffer (s : State) (e : BqEntry) : State :=
  if e.tl / 2 ^ 14 = 1 then s.setLe e.p0 4 (s.le e.p0 4 % 2 ^ 31) else s

/-- A hardware consumer removes the head entry (R116). -/
def State.qRemove (s : State) (k : Nat) : State :=
  let q := s.queue k
  s.setQueue k { q with entries := q.entries.drop 1, shown := none }

/-- The Service-context consumer is done with the head entry that it reads: it is removed, unless the full policy has
dropped it already (R116, log entry 60). -/
def State.qAdvance (s : State) (k : Nat) : State :=
  let q := s.queue k
  s.setQueue k { q with entries := if q.shown.isSome then q.entries else q.entries.drop 1, shown := none }

/-- Removes every entry; reference buffers stay with their consumer (R122). -/
def State.qFlush (s : State) (k : Nat) : State := s.setQueue k { s.queue k with entries := [], shown := none }

/-- The head entry as `BQ.QkHEAD0` to `BQ.QkHEAD3` show it (R116). -/
def QueueSt.headShown (q : QueueSt) : Option BqEntry := q.shown.orElse (fun _ => q.entries.head?)

/-- A page reset of BQ empties the queues and clears the latches; staged entries stay (R123). -/
def State.bqReset (s : State) : State := { s with queues := [], latches := [] }

end Sys2Proof.Machine
end

