-- ==== Sys2Proof/Machine/Units.lean ====
section
/-! DEFINITION. The power units: numbers, dies, pages, state codes, register sets and groups. -/
namespace Sys2Proof.Machine

/-- One number for every power unit of the module. -/
def uidx : OutU → Nat
  | .ls n => n | .vd n => 56 + n | .bank b => 72 + b | .hb n => 76 + n | .so n => 88 + n | .led n => 104 + n
  | .row n => 152 + n | .lf n => 168 + n

/-- The units with a state machine of their own, in ascending order of each kind. -/
def allUnits : List OutU :=
  (List.range 56).map .ls ++ (List.range 16).map .vd ++ (List.range 4).map .bank ++ (List.range 12).map .hb
    ++ (List.range 16).map .so ++ (List.range 48).map .led ++ (List.range 16).map .row

/-- The power die of a unit: 0 PD-A, 1 PD-B (R9, R192, R268, R304, R326, R373). -/
def udie : OutU → Nat
  | .ls n => if n < 4 ∨ (8 ≤ n ∧ n < 16) ∨ (24 ≤ n ∧ n < 40) then 0 else 1
  | .vd n => n / 8 | .bank b => b / 2 | .hb n => n / 6 | .so n => n / 8 | .led n => n / 24 | .row n => n / 8
  | .lf n => n / 3

/-- Page and unit number within it; a bank has the bit after its four channels (R300). -/
def upage : OutU → Nat × Nat
  | .ls n => (0x10 + n / 8, n % 8) | .vd n => (0x18 + n / 4, n % 4) | .bank b => (0x18 + b, 4)
  | .hb n => (0x1D + n / 6, n % 6) | .so n => (0x26, n) | .led n => (0x20, n) | .row n => (0x21, n)
  | .lf n => (0x0F, n)

/-- The states of a unit in the order of their codes (R194, R278, R300, R308, R329, R348, R373). -/
def phasesOf : OutU → List Phase
  | .ls _ => [.off, .wait, .start, .on, .stopping, .tripped, .deferred, .lockoff, .failsafe]
  | .vd _ => [.off, .bwait, .wait, .start, .on, .stopping, .tripped, .deferred, .lockoff, .refused, .bankoff, .failsafe]
  | .bank _ => [.off, .on, .offdly, .tripped, .deferred, .lockoff, .failsafe]
  | .hb _ => [.off, .wait, .on, .brake, .revbrk, .parking, .stopping, .tripped, .deferred, .lockoff, .stalled, .failsafe]
  | .so _ => [.off, .on, .stopping, .tripped, .deferred, .lockoff, .failsafe]
  | .led _ => [.off, .wait, .on, .tripped, .shorted, .column, .failsafe]
  | .row _ => [.off, .wait, .on, .tripped, .deferred, .lockoff, .failsafe]
  | .lf _ => [.off]

/-- The code of a state. -/
def phaseCode (u : OutU) (p : Phase) : Nat := (phasesOf u).findIdx (fun q => decide (q = p))

/-- A field that no register shows. -/
def noFld : Fld := ⟨0xFFF, 0, 0, 0⟩

/-- The state field of a unit. -/
def fState : OutU → Fld
  | .ls n => LSW.STATE n | .vd n => VDB.STATE n | .bank b => VDB.BSTATE b | .hb n => HB.STATE n | .so n => DOUT.STATE n
  | .led n => LDS.STATE n | .row n => LMX.STATE n | .lf _ => noFld

/-- Retries remaining. A sink has none (R329). -/
def fRem : OutU → Fld
  | .ls n => LSW.RETRYREM n | .vd n => VDB.CHSTAT_RETRYREM n | .bank b => VDB.BANKSTAT_RETRYREM b | .hb n => HB.RETRYREM n
  | .so n => DOUT.RETRYREM n | .row n => LMX.RETRYREM n | .led _ | .lf _ => noFld

/-- Start pending behind a stop. -/
def fPend : OutU → Fld
  | .ls n => LSW.PENDEN n | .vd n => VDB.PENDEN n | .hb n => HB.PENDEN n | .so n => DOUT.PENDEN n | .led n => LDS.PENDEN n
  | .row n => LMX.PENDEN n | .bank _ | .lf _ => noFld

/-- Thermal latch. -/
def fLatch : OutU → Fld
  | .ls n => LSW.LATCH n | .vd n => VDB.CHSTAT_LATCH n | .bank b => VDB.BANKSTAT_LATCH b | .hb n => HB.LATCH n
  | .so n => DOUT.LATCH n | .led n => LDS.LATCH n | .row n => LMX.LATCH n | .lf _ => noFld

/-- Fault flags. -/
def fFlt : OutU → Fld
  | .ls n => LSW.FLT n | .vd n => VDB.FLT n | .bank b => VDB.BANKFLT b | .hb n => HB.FLT n | .so n => DOUT.FLT n
  | .led n => LDS.FLT n | .row n => LMX.FLT n | .lf n => LF.FLT n

/-- Retries, retry interval in 10 ms and deferral limit in 100 ms. -/
def fRetry : OutU → Fld
  | .ls n => LSW.RETRY n | .vd n => VDB.CHLIM_RETRY n | .bank b => VDB.BANKLIM_RETRY b | .hb n => HB.RETRY n
  | .so n => DOUT.RETRY n | .row _ => LMX.RETRY | .led _ | .lf _ => noFld
/-- Retry interval. -/
def fRtrint : OutU → Fld
  | .ls n => LSW.RTRINT n | .vd n => VDB.CHLIM_RTRINT n | .bank b => VDB.BANKLIM_RTRINT b | .hb n => HB.RTRINT n
  | .so n => DOUT.RTRINT n | .row _ => LMX.RTRINT | .led _ | .lf _ => noFld
/-- Deferral limit. -/
def fDeflim : OutU → Fld
  | .ls n => LSW.DEFLIM n | .vd n => VDB.CHLIM_DEFLIM n | .bank b => VDB.BANKLIM_DEFLIM b | .hb n => HB.DEFLIM n
  | .so n => DOUT.DEFLIM n | .row _ => LMX.DEFLIM | .led _ | .lf _ => noFld

/-- Trip counter, where the unit has one. -/
def fTrips : OutU → Fld
  | .ls n => LSW.TRIPS n | .vd n => VDB.CHCNT_TRIPS n | .bank b => VDB.BANKCNT_TRIPS b | .hb n => HB.TRIPS n
  | .so _ | .led _ | .row _ | .lf _ => noFld

/-- The bit that shows fail-safe, where a register has one (R240). -/
def fFsact : OutU → Fld
  | .ls n => LSW.FSACT n | _ => noFld

/-- The limiting bit, where a register shows it. -/
def fLim : OutU → Fld
  | .ls n => LSW.LIMITING n | .so n => DOUT.LIMITING n | .row n => LMX.LIMITING n | .led n => LDS.FOLDING n
  | .hb n => HB.CHOPPING n | .vd _ | .bank _ | .lf _ => noFld

/-- The junction temperature of a unit. -/
def fTj : OutU → Fld
  | .ls n => LSW.TJ n | .vd n => VDB.CHTEMP_TJ n | .bank b => VDB.BANKTEMP_TJ b | .hb n => HB.TJ n | .so n => DOUT.TJ n
  | .led n => LDS.TJ n | .row n => LMX.TJ n | .lf _ => noFld

/-- Bits of the fault flags that protection sets: OTDIFF, OTABS, RTXHAUST, DEFEXP, LNKFS, LIMIT. -/
structure ProtBits where
  otdiff : Nat
  otabs : Nat
  rtx : Nat
  defexp : Nat
  lnkfs : Nat
  limit : Nat
  deriving DecidableEq, Repr

/-- The places of the protection flags (R240, R300, R301, R324, R355, R357, R382); 31 where a unit has none. -/
def protBits : OutU → ProtBits
  | .ls _ => ⟨4, 5, 8, 9, 12, 6⟩ | .vd _ => ⟨5, 6, 7, 8, 12, 31⟩ | .bank _ => ⟨2, 3, 7, 8, 9, 1⟩
  | .hb _ => ⟨6, 7, 8, 9, 13, 14⟩ | .so _ => ⟨4, 3, 5, 6, 7, 8⟩ | .led _ => ⟨31, 3, 31, 31, 5, 4⟩
  | .row _ => ⟨3, 2, 5, 6, 7, 1⟩ | .lf _ => ⟨31, 31, 31, 31, 31, 31⟩

/-- The fault source that a flag raises (R237, R299, R322, R353, R380). -/
def flagSrc (u : OutU) (bit : Nat) : Option Nat :=
  let at' := fun (l : List (Option Nat)) (base : Nat) => (l.getD bit none).map (base + ·)
  match u with
  | .ls n => at' [some 4, some 4, some 2, some 3, some 0, some 0, some 5, some 6, none, none, some 7, some 7, none]
      (0x2C + 8 * (n / 8))
  | .vd n => at' [some 3, some 3, some 4, some 0, some 0, some 1, some 1, none, none, some 7, none, none, none, none, none,
      some 7] (0x64 + 8 * (n / 4))
  | .bank b => at' [some 3, some 6, some 1, some 1, none, some 4, some 5, none, none, none, some 4] (0x64 + 8 * b)
  | .hb n => at' [some 5, some 5, some 0, some 0, some 0, some 1, some 2, some 2, none, none, some 4, some 6] (0x84 + 7 * (n / 6))
  | .led _ => at' [some 0, some 1, some 2, some 3] 0x92
  | .row _ => at' [some 0, some 0, some 1, some 1, some 3] 0x96
  | .so _ => at' [some 3, some 0, some 0, some 1, some 1] 0x9B
  | .lf _ => at' [some 0, some 0, some 0, some 0] 0x28

/-- The source that entry to LOCKOFF raises. -/
def lockSrc : OutU → Option Nat
  | .ls n => some (0x2D + 8 * (n / 8)) | .vd n => some (0x66 + 8 * (n / 4)) | .bank b => some (0x66 + 8 * b)
  | .hb n => some (0x87 + 7 * (n / 6)) | .row _ => some 0x98 | .so _ => some 0x9D | .led _ | .lf _ => none

/-- A unit beside its registers at its reset. -/
def outInit : OutSt :=
  { fs := false, under := .off, fsWant := false, fromOff := false, lim := false, bad := 0, offValid := false, test := 0,
    uHigh := 0, dHigh := 0, dutyAct := 0, onAct := 0, phaseAct := 0, pcount := 0, since := 0, ronDue := false, revOn := false, stopping := false,
    drating := 0, strobe := false, base := none, hold := false, kept := (0, 0) }

/-- A unit beside its registers. -/
def State.out (s : State) (u : OutU) : OutSt := look outInit s.outs (uidx u)

/-- Updates a unit beside its registers. -/
def State.setOut (s : State) (u : OutU) (f : OutSt → OutSt) : State :=
  { s with outs := store outInit (uidx u) (f (s.out u)) s.outs }

/-- A monitored switch with nothing measured. -/
def ageInit : AgeUnit :=
  { mean := 0, loaded := false, bins := [0, 0, 0, 0, 0, 0, 0, 0], ext := none, last := 0, up := none, d := 0, slewUp := false,
    ranPwm := false, ronOver := false, lifeOver := false }

/-- The Marathon monitor's record of switch `i` (R561). -/
def State.ageOf (s : State) (i : Nat) : AgeUnit := look ageInit s.age i

/-- Updates the record of switch `i`. -/
def State.setAge (s : State) (i : Nat) (f : AgeUnit → AgeUnit) : State := { s with age := store ageInit i (f (s.ageOf i)) s.age }

/-- A power die at its power-on: its pattern is in force from the start, all-off until Warm-up loads it (R635). -/
def dieInit : DieSt :=
  { wdog := false, safe := false, clus := false, replay := false, reset := true, lockout := false, gnd := false, sel := 0,
    heats := [], lastHeat := none, ref := 0, misses := 0 }

/-- A power die. -/
def State.die (s : State) (d : Nat) : DieSt := look dieInit s.dies d

/-- Updates a power die. -/
def State.setDie (s : State) (d : Nat) (f : DieSt → DieSt) : State :=
  { s with dies := store dieInit d (f (s.die d)) s.dies }

/-- Whether a power die applies its fail-safe pattern (R232, R665, R669). -/
def DieSt.inFs (d : DieSt) : Bool := d.wdog || d.safe || d.clus || d.replay || d.reset || d.lockout || d.gnd

/-- The members of the group of a unit, lowest first (R208, R289, R305, R376). -/
def State.members (s : State) : OutU → List OutU
  | .ls n =>
    if bitAt (s.act LSWC.QUAD) (n / 4) then (List.range 4).map (fun i => .ls (4 * (n / 4) + i))
    else if bitAt (s.act LSWC.PAIR) (n / 2) then [.ls (2 * (n / 2)), .ls (2 * (n / 2) + 1)] else [.ls n]
  | .vd n => if bitAt (s.act VDC.PAIR) (n / 2) then [.vd (2 * (n / 2)), .vd (2 * (n / 2) + 1)] else [.vd n]
  | .hb n => if bitAt (s.act HBC.HPAIR) (n / 2) then [.hb (2 * (n / 2)), .hb (2 * (n / 2) + 1)] else [.hb n]
  | .so n => if bitAt (s.act DOUT.PAIR) (n / 2) then [.so (2 * (n / 2)), .so (2 * (n / 2) + 1)] else [.so n]
  | u => [u]

/-- The master of a unit's group: its lowest-numbered member. -/
def State.master (s : State) (u : OutU) : OutU := (s.members u).headD u

/-- The number of the channel that commands a load switch channel's group (R209). -/
def State.lsMaster (s : State) (n : Nat) : Nat :=
  match s.master (.ls n) with
  | .ls m => m
  | _ => n

/-- The number of the channel that commands a valve channel's pair (R289). -/
def State.vdMaster (s : State) (n : Nat) : Nat :=
  match s.master (.vd n) with
  | .vd m => m
  | _ => n

/-- A valve channel that no start has touched, and a valve channel beside its registers. -/
def valveInit : ValveSt :=
  { prof := ⟨0, 0, 0, 0, 0, 0⟩, ask := false, highest := 0, start := 0, full := false, firstPwm := false, ramp := false, slow := false,
    dither0 := none, target := 0, bwaitLap := 0 }

/-- A valve channel beside its registers. -/
def State.valve (s : State) (n : Nat) : ValveSt := look valveInit s.valves n

/-- Updates a valve channel beside its registers. -/
def State.setValve (s : State) (n : Nat) (f : ValveSt → ValveSt) : State :=
  { s with valves := store valveInit n (f (s.valve n)) s.valves }

/-- A bridge beside its registers, at reset. -/
def bridgeInit : BridgeSt :=
  { cmd := 0, dirLast := 1, lastRipple := none, intervals := [], chopSince := none, phaseOpen := false, revStart := 0,
    parkBrake := false, seqSeen := 0, cut := false }

/-- A bridge beside its registers. -/
def State.bridge (s : State) (n : Nat) : BridgeSt := look bridgeInit s.bridges n

/-- Updates a bridge beside its registers. -/
def State.setBridge (s : State) (n : Nat) (f : BridgeSt → BridgeSt) : State :=
  { s with bridges := store bridgeInit n (f (s.bridge n)) s.bridges }

/-- The number of the channel that commands a signal output's pair (R376). -/
def State.soMaster (s : State) (n : Nat) : Nat :=
  match s.master (.so n) with
  | .so m => m
  | _ => n

/-- Whether a load switch channel feeds a PoDL line (R230). -/
def State.podl (s : State) (n : Nat) : Bool := decide (52 ≤ n) && bitAt (s.act LSWC.PODLEN) (n - 52)

/-- Whether pattern code 0b10 holds a unit in its last applied state (R231). -/
def State.keeps (s : State) (u : OutU) : Bool := (s.out u).fs && (s.out u).hold

/-- The duty of a unit: the one applied at fail-safe entry while a pattern holds it, else `live` (R231, R297, R349). -/
def State.keptDuty (s : State) (u : OutU) (live : Nat) : Nat := if s.keeps u then (s.out u).kept.2 else live

/-- The mode of a load switch channel, by its group's master (R209); a PoDL feed runs in MODE 0b00 alone (R230). A pattern that
sets the channel on applies it without PWM, one that holds it keeps its mode (R231; DEDUCED, log entry 87). -/
def State.lsMode (s : State) (n : Nat) : Nat :=
  let m := OutU.ls (s.lsMaster n)
  if s.podl n then 0
  else if (s.out m).fs then (if (s.out m).hold then (s.out m).kept.1 else 0)
  else s.get (LSW.MODE (s.lsMaster n))

/-- Whether a unit is the master of a group of more than one. -/
def State.pairMaster (s : State) (u : OutU) : Bool := decide ((s.members u).length > 1) && decide (s.master u = u)

/-- Whether a half-bridge is part of an H-bridge (R305). -/
def State.hbPaired (s : State) (n : Nat) : Bool := bitAt (s.act HBC.HPAIR) (n / 2)

/-- The half-bridge that commands a bridge (R305). -/
def State.hbMaster (s : State) (n : Nat) : Nat := if s.hbPaired n then 2 * (n / 2) else n

/-- Whether command `c` is a start of bridge `n` (R306). -/
def State.hbStarts (s : State) (n c : Nat) : Bool :=
  if s.hbPaired n then decide (c = 1) || decide (c = 2) else decide (c = 1) || decide (c = 3)

/-- Whether command `c` brakes bridge `n` (R306). -/
def State.hbBrakes (s : State) (n c : Nat) : Bool :=
  if s.hbPaired n then decide (c = 3) || decide (c = 4) else decide (c = 2)

/-- The state a unit is in, under the pattern where a fail-safe pattern applies (R233). -/
def State.phase (s : State) (u : OutU) : Phase :=
  if (s.out u).fs then (s.out u).under else (phasesOf u).getD (s.get (fState u)) .off

/-- Puts one unit into a state; under a fail-safe pattern its state code stays FAILSAFE. -/
def State.putPhase (s : State) (u : OutU) (p : Phase) : State :=
  if (s.out u).fs then s.setOut u (fun o => { o with under := p }) else s.put (fState u) (phaseCode u p)

/-- Puts a unit's whole group into a state at instant `t`. -/
def State.setPhase (s : State) (u : OutU) (p : Phase) (t : Nat) : State :=
  (s.members u).foldl (fun s v => (s.putPhase v p).setOut v (fun o => { o with since := t })) s

/-- Whether any member of the group holds its thermal latch (R209). -/
def State.latched (s : State) (u : OutU) : Bool := (s.members u).any (fun v => s.flag (fLatch v))

/-- Whether the unit's output conducts. -/
def Phase.conducts : Phase → Bool
  | .start | .on | .brake | .revbrk | .parking | .stalled | .offdly | .column => true
  | _ => false

/-- Whether a hold is in force on the unit or a member of its group; a hold on a bank holds its channels (R546). -/
def State.held (s : State) (u : OutU) : Bool :=
  (s.members u).any (fun v => s.fcr.holds.any (fun h => decide (h.2 = upage v) || (match v with
    | .vd n => decide (h.2 = upage (.bank (n / 4)))
    | _ => false)))

/-- Whether a hold is in force on unit `u` of page `p` (R546). -/
def State.unitHeld (s : State) (p u : Nat) : Bool := s.fcr.holds.any (fun h => decide (h.2 = (p, u)))

/-- Whether the start permit holds a load switch channel off (R530). -/
def State.noPermit (s : State) : OutU → Bool
  | .ls n => s.flag ACC.EN && decide (s.get ACC.CH = n) && s.acc.openTill.isNone
  | _ => false

/-- Whether Cool-down takes every power unit and driver as off (R619). -/
def State.cooling (s : State) : Bool :=
  match s.pwr.state with
  | .cooldown => !s.stride.running
  | .quiesce | .flush | .park | .waking => true
  | _ => false

/-- The applied command of a unit: on or off (R546: a held unit is taken as off; a page that is not enabled
commands nothing). A bank has no enable of its own; it is wanted while a member is. -/
def State.cmdOn (s : State) (u : OutU) : Bool :=
  let en := fun (v : OutU) => match v with
    | .ls n => s.flag (LSW.EN n) | .vd n => s.flag (VDB.EN n) | .hb n => s.flag (HB.CMD n) | .so n => s.flag (DOUT.EN n)
    | .led n => s.flag (LDS.EN n) | .row n => s.flag (LMX.EN n)
    | .bank b => (List.range 4).any (fun k => s.flag (VDB.EN (4 * b + k)))
    | .lf n => s.flag (LF.EN n)
  s.flag (Hdr.EN (upage u).1) && en (s.master u) && !s.cooling && !s.held u && !(s.members u).any s.noPermit

/-- The set current of a sink in mA × 255 × 1023: 150 mA × GFS × VE; under a pattern FSCUR, or for one that it holds the current it
had (R327, R349). -/
def State.sinkSet (s : State) (n : Nat) : Nat :=
  let o := s.out (.led n)
  if o.fs then (if o.hold then o.kept.1 else s.get LDS.FSCUR * 255 * 1023) else 150 * s.get LDS.GFS * s.get (LDS.VALEFF n)

/-- The sixteen bits of a temperature or voltage register as a number. -/
def State.signed (s : State) (f : Fld) : Int := signedOf f.width (s.get f)

/-- The current that a sink regulates to, in mA × 255 × 1023 × 160: from 150 °C it folds back linearly to 50 % of the set
current at 160 °C (R327, R332). -/
def State.sinkRegulates (s : State) (n : Nat) : Nat :=
  let past := (s.signed (LDS.TJ n) - 1200).toNat
  s.sinkSet n * (160 - (if s.flag (LDS.FOLDING n) then min past 80 else 0))

/-- Whether VBAT lies below PGND as last measured, or by more than 2 V: the reverse-blocking switches are open (R317, R350,
R377, R667). -/
def State.below (s : State) : Bool := s.flag SUP.REVERSE || decide (s.signed SUP.VBATA < 0)

/-- Whether a unit's output carries current in its own direction: it conducts, and behind a reverse-blocking switch VBAT does not
lie below PGND. -/
def State.drives (s : State) (u : OutU) : Bool :=
  (s.phase u).conducts && (match u with
    | .hb _ | .so _ | .led _ | .row _ | .lf _ => !s.below
    | .ls _ | .vd _ | .bank _ => !s.flag SUP.REVERSE)

/-- What governs a unit: the pattern under fail-safe, else its applied command. -/
def State.wants (s : State) (u : OutU) : Bool := if (s.out u).fs then (s.out u).fsWant else s.cmdOn u

/-- What a unit applies as its die enters fail-safe, which code 0b10 keeps: mode and duty of a load switch channel, mode and
setpoint or duty of a valve, set current and duty of a sink, the duties of a parking run and of a bridge (R231, R297, R349). -/
def State.keptOf (s : State) : OutU → Nat × Nat
  | .ls n => (s.lsMode n, s.get (LSW.DUTY (s.lsMaster n)))
  | .vd n =>
    let m := s.vdMaster n
    (s.get (VDB.MODE m), if s.get (VDB.MODE m) = 1 then s.get (VDB.DUTY m) else s.get (VDB.SET m))
  | .led n => (s.sinkSet n, s.get (LDS.DUTY n))
  | .hb n => (s.get (HB.PDUTY (s.hbMaster n)), s.get (HB.DUTY (s.hbMaster n)))
  | _ => (0, 0)

/-- The key of a unit's yield episodes: one for its latch, one for its limiting (R201, R32). -/
def latchKey (u : OutU) : Nat := 4 * uidx u
/-- The key of a limiting episode. -/
def limitKey (u : OutU) : Nat := 4 * uidx u + 1

end Sys2Proof.Machine
end

