-- ==== Sys2Proof/Machine/DigitalIn.lean ====
section
/-! DEFINITION. Digital inputs (R359 to R372). -/
namespace Sys2Proof.Machine

/-- An input beside its registers, at reset. -/
def dinInit : DinSt :=
  { mv := 0, pin := false, sample := false, run := none, undo := none, debAt := 0, changes := 0, rise := false, fall := false, lastChanges := 0, lastRise := false,
    lastFall := false, latched := false }

/-- An input beside its registers. -/
def State.din (s : State) (n : Nat) : DinSt := look dinInit s.dins n

/-- Updates an input beside its registers. -/
def State.setDin (s : State) (n : Nat) (f : DinSt → DinSt) : State := { s with dins := store dinInit n (f (s.din n)) s.dins }

/-- Whether the page of an input samples: it is enabled, and the part is not in PARK (R366, R368). -/
def State.dinRuns (s : State) (n : Nat) : Bool :=
  s.flag (Hdr.EN (0x24 + n / 32)) && decide (s.pwr.state ≠ .park) && decide (s.pwr.state ≠ .waking)

/-- Limits of an input's thresholds by TYPE, rising then falling: in mV, or of a ratiometric input in thousandths of VBAT (R360,
R369). -/
def pinLimits (ty : Nat) : (Nat × Nat) × Nat × Nat :=
  if ty = 0 then ((10000, 12000), 8500, 10500) else if ty = 1 then ((7000, 9000), 5800, 7200) else ((500, 600), 400, 500)

/-- What the comparator of an input reads at a pin voltage in mV (R360): 1 from its rising threshold on, 0 down to its falling one,
between them what it read before. Where the threshold lies within its limits is left open (log entry 90); a ratiometric input
follows VBAT as last measured. -/
def State.comparator (s : State) (n mv : Nat) (was : Bool) : Bool :=
  let ty := s.get (DIN.TYPE n)
  let l := pinLimits ty
  let k := if ty = 2 then (s.signed SUP.VBATA).toNat else 1
  let v := if ty = 2 then 100 * mv else mv
  let at' := fun (r : Nat × Nat) (up : Bool) => max r.1 (min r.2 (Config.inputThreshold n ty up))
  if k = 0 then was
  else if l.1.2 * k ≤ v then true
  else if v ≤ l.2.1 * k then false
  else if at' l.1 true * k ≤ v then true
  else if v ≤ at' l.2 false * k then false
  else was

/-- The raw level that a comparator reading gives (R360). -/
def State.rawOf (s : State) (n : Nat) (pin : Bool) : Bool := pin != s.flag (DIN.INV n)

/-- The comparator reading that gives an input's raw level: in pulsed wetting that of the last sample (R362). -/
def State.reading (s : State) (n : Nat) : Bool := if s.get (DIN.WET n) = 2 then (s.din n).sample else (s.din n).pin

/-- The first sample at or after an instant: raw levels are sampled at the start of each peripheral cycle (R363). -/
def State.sampleAt (s : State) (t : Nat) : Nat := if t ≤ s.splitZero then t else s.splitZero + (t - s.splitZero + 9) / 10 * 10

/-- A raw level: a run starts at the first sample that shows it, goes on, or ends as a glitch; an excursion or a return that no
sample shows is none (R363, R364). -/
def State.rawSample (s : State) (n t : Nat) (raw : Bool) : State :=
  if ¬ s.dinRuns n then s
  else
    let s := s.put (DIN.CHSTAT_RAW n) (b2n raw)
    let q := if s.get (DIN.WET n) = 2 then t else s.sampleAt t
    if ¬ s.flag (DIN.VALID n) then s
    else match (s.din n).run with
    | some r =>
      if raw ≠ s.flag (DIN.CHSTAT_LEVEL n) then s
      else if t ≤ r then s.setDin n (fun d => { d with run := none, undo := none })
      else
        let g := s.get (DIN.GLITCH n)
        (s.count (DIN.GLITCH n)).setDin n (fun d => { d with run := none, undo := if s.get (DIN.WET n) = 2 then none else some (q, r, g) })
    | none =>
      if raw = s.flag (DIN.CHSTAT_LEVEL n) then s
      else match (s.din n).undo with
        | some (p, r, g) =>
          if t ≤ p then (s.put (DIN.GLITCH n) g).setDin n (fun d => { d with run := some r, undo := none })
          else s.setDin n (fun d => { d with run := some q, undo := none })
        | none => s.setDin n (fun d => { d with run := some q })

/-- The comparator of an input reads its pin anew, at a voltage; a pulsed input is sampled by its pulses alone (R360, R362). -/
def State.dinPin (s : State) (n mv t : Nat) : State :=
  let pin := s.comparator n mv (s.din n).pin
  let s := s.setDin n (fun d => { d with mv := mv, pin := pin })
  if s.get (DIN.WET n) = 2 then s
  else (s.setDin n (fun d => { d with sample := pin })).rawSample n t (s.rawOf n pin)

/-- VBAT has been measured: ratiometric inputs compare with it (R360). -/
def State.dinVbat (s : State) (t : Nat) : State :=
  (List.range 64).foldl (fun s n => if s.get (DIN.TYPE n) = 2 then s.dinPin n (s.din n).mv t else s) s

/-- A write to TYPE, INV, WET, WCUR or WDIR restarts the run; the ended run is no glitch (R365). -/
def State.dinRestart (s : State) (n t : Nat) : State :=
  let pin := s.comparator n (s.din n).mv (s.din n).pin
  let s := s.setDin n (fun d => { d with pin := pin })
  let raw := s.rawOf n (s.reading n)
  let s := if s.dinRuns n then s.put (DIN.CHSTAT_RAW n) (b2n raw) else s
  let on := s.dinRuns n && s.flag (DIN.VALID n) && raw != s.flag (DIN.CHSTAT_LEVEL n)
  s.setDin n (fun d => { d with run := if on then some t else none, undo := none })

/-- A DIN page stops: no run, LEVEL and VALID read 0 (R366). -/
def State.dinStop (s : State) (p : Nat) : State :=
  ((List.range 32).foldl (fun s k =>
    let n := 32 * p + k
    ((s.put (DIN.CHSTAT_LEVEL n) 0).put (DIN.VALID n) 0).setDin n (fun d => { d with run := none, undo := none })) s).disarm (.inputInit p)

/-- A DIN page is enabled: sampling starts, and the levels initialise 20 µs later (R366). -/
def State.dinEnable (s : State) (p t : Nat) : State :=
  ((List.range 32).foldl (fun s k =>
    let n := 32 * p + k
    let pin := s.comparator n (s.din n).mv (s.din n).pin
    let s := s.setDin n (fun d => { d with pin := pin, sample := pin })
    s.put (DIN.CHSTAT_RAW n) (b2n (s.rawOf n pin))) s).arm (.inputInit p) (t + us 20)

/-- The tick latches the levels and closes the window of changes (R77, R370). -/
def State.dinTick (s : State) : State :=
  (List.range 64).foldl (fun s n =>
    let d := s.din n
    let lv := s.flag (DIN.CHSTAT_LEVEL n)
    if d.changes = 0 ∧ d.lastChanges = 0 ∧ lv = d.latched then s
    else s.setDin n (fun d =>
      { d with
        lastChanges := d.changes, lastRise := d.rise, lastFall := d.fall, changes := 0, rise := false, fall := false, latched := lv })) s

/-! Commands. -/

/-- INPUT_RAW_CHANGE: the voltage at the pin of an input comes to `mv`, in mV (R360, R362 to R364). -/
def execInputRawChange (t n mv : Nat) (s : State) : Host.Outcome State Fault Refusal := .next ((s.reach t).dinPin n mv t)

/-- Whether a page's wetting pulse is sampled at an instant: 2 µs before the end of a pulse that began on the grid of PER (R362,
R698). -/
def State.wetSample (s : State) (p t : Nat) : Bool :=
  decide (us (s.get (DIN.PW p)) ≤ t + us 2) && s.onGrid (t + us 2 - us (s.get (DIN.PW p))) (250000 * s.get (DIN.PER p))

/-- WETTING_PULSE: the sample 2 µs before the end of a page's pulse; `volts` gives pins of its channels in mV, and a channel that it
does not name keeps its comparator's reading (R362). -/
def execWettingPulse (t p : Nat) (volts : List (Nat × Nat)) (s : State) : Host.Outcome State Fault Refusal :=
  .next (
    let s := s.reach t
    if !s.wetSample p t then s
    else (List.range 32).foldl (fun s k =>
      let n := 32 * p + k
      if s.get (DIN.WET n) = 2 && s.dinRuns n then
        let pin := match volts.find? (fun e => decide (e.1 = k)) with
          | some e => s.comparator n e.2 (s.din n).pin
          | none => (s.din n).pin
        (s.setDin n (fun d => { d with pin := pin, sample := pin })).rawSample n t (s.rawOf n pin)
      else s) s)

/-- INPUT_INIT_SAMPLE: 20 µs after the enable the levels take the raw levels (R366). -/
def execInputInitSample (p : Nat) (s : State) : Host.Outcome State Fault Refusal :=
  .next (s.onExpiry (.inputInit p) (fun _ s =>
    (List.range 32).foldl (fun s k =>
      let n := 32 * p + k
      let raw := s.rawOf n (s.reading n)
      (((s.put (DIN.CHSTAT_RAW n) (b2n raw)).put (DIN.CHSTAT_LEVEL n) (b2n raw)).put (DIN.VALID n) 1).setDin n
        (fun d => { d with run := none, undo := none })) s))

/-- The sample at which the run of an input reaches DEB and its change takes effect: the first one at or after the end of DEB, and
after a write of DEB the next one at least (R363, R365). -/
def State.debEnds (s : State) (n r : Nat) : Nat := s.sampleAt (max (r + us (s.get (DIN.DEB n))) (s.din n).debAt)

/-- A debounced change at its sample `t`: the level, its window and the edge (R363, R364, R367, R371). -/
def State.debounced (s : State) (n r t : Nat) : State :=
  let p := n / 32
  let lv := !s.flag (DIN.CHSTAT_LEVEL n)
  let s := (s.put (DIN.CHSTAT_LEVEL n) (b2n lv)).evt (0x24 + p) (n % 32)
  let s := s.setDin n (fun d =>
    { d with run := none, undo := none, changes := min (d.changes + 1) 255, rise := d.rise || lv, fall := d.fall || !lv })
  if s.flag (DIN.EN p) ∧ bitAt (s.get (DIN.EDGEQ n)) (if lv then 0 else 1) then
    let b := [BitVec.ofNat 8 (b2n lv + 2 * b2n (s.get (DIN.WET n) = 2)), BitVec.ofNat 8 n] ++ leBytes 2 (s.get (DIN.DEB n))
      ++ leBytes 4 (s.splitAt r)
    s.hwPush (s.get (DIN.QUEUE p)) (0x24 + p) (n % 32) 0x10 b (s.splitAt t) t
  else s

/-- A debounced change of an input that is reported at `t`: it takes effect at its own sample, with that split; one that lies at or
past the next tick waits for the tick, whose window and snapshot it is not part of (R364). -/
def State.debounceAt (s : State) (t n : Nat) : State :=
  match (s.din n).run with
  | none => s
  | some r =>
    let e := s.debEnds n r
    if ¬ s.dinRuns n ∨ t < e then s
    else if s.tickPast e then { s with ahead := s.ahead ++ [.level t n] }
    else s.debounced n r e

/-- DEBOUNCED_CHANGE: a run has reached DEB; the level changes and a selected edge is pushed (R363, R364, R367, R371). -/
def execDebouncedChange (t n : Nat) (s : State) : Host.Outcome State Fault Refusal := .next ((s.reach t).debounceAt t n)

end Sys2Proof.Machine
end

