-- ==== Sys2Proof/Machine/Protect.lean ====
section
/-! DEFINITION. Protection shared by the power units: fault flags, trips, latches, retries, deferral, stops, and the
entry to and exit from fail-safe (R195 to R207, R231 to R235). -/
namespace Sys2Proof.Machine

/-- Sets a fault flag of a unit, its event bit, and raises its source (R239, R237 and the other blocks' tables). -/
def State.setFault (s : State) (u : OutU) (bit t : Nat) : State :=
  if bit = 31 then s
  else
    let pu := upage u
    let s := (s.reach t).setFlag (fFlt u) bit
    let s := if pu.1 = 0x20 ∧ 32 ≤ pu.2 then s.setFlag LDS.EVT2 (pu.2 - 32) else s.evt pu.1 pu.2
    match flagSrc u bit with
    | some src => s.detect src pu.2
    | none => s

/-- Test `k` of a unit is evaluated without its fault: the on-state test of flag `k`, or the off-state test of flag `k` − 16. A flag
may be cleared once the tests that showed it no longer do (R214, R294, R334). -/
def State.evalGood (s : State) (u : OutU) (k : Nat) : State := s.setOut u (fun o => { o with bad := clrBit o.bad k })

/-- Test `k` shows its fault. -/
def State.evalBad (s : State) (u : OutU) (k t : Nat) : State :=
  (s.setOut u (fun o => { o with bad := setBit o.bad k })).setFault u (k % 16) t

/-- A member of the bank is active while in WAIT, PEAK, HOLD or DECAY (R279). -/
def State.vdActive (s : State) (n : Nat) : Bool :=
  match s.phase (.vd n) with
  | .wait | .start | .on | .stopping => true
  | _ => false

/-- Whether a bank has an active member. -/
def State.bankActive (s : State) (b : Nat) : Bool := (List.range 4).any (fun k => s.vdActive (4 * b + k))

/-- Whether a bank switch has a reason to stay on: an active member, or one in BANKOFF that is still commanded and so comes up
as a new start (R280, R288). -/
def State.bankNeeded (s : State) (b : Nat) : Bool :=
  s.bankActive b || (List.range 4).any (fun k => decide (s.phase (.vd (4 * b + k)) = .bankoff) && s.wants (.vd (4 * b + k)))

/-- The bank switch starts its turn-off delay when its last member is no longer active (R280). The switch stays on through it, so
that the time since it turned on goes on (R290). -/
def State.bankCheck (s : State) (b t : Nat) : State :=
  if s.phase (.bank b) = .on ∧ ¬ s.bankNeeded b then
    (s.putPhase (.bank b) .offdly).arm (.bankOff b) (t + ms (s.get (VDB.BOFFDLY b)))
  else s

/-- `bankCheck` for the bank of a valve; nothing for another unit. -/
def State.bankOf (s : State) (u : OutU) (t : Nat) : State :=
  match u with
  | .vd n => s.bankCheck (n / 4) t
  | _ => s

/-- The Marshal item of a unit (R243). -/
def itemOf : OutU → Option Nat
  | .ls n => some n | .vd n => some (56 + n) | .hb n => some (72 + n)
  | .led _ => some 84 | .row _ => some 85 | .bank _ | .so _ | .lf _ => none

/-- A unit's number within item 84 or 85. -/
def litUnit : OutU → Option Nat
  | .led n | .row n => some n
  | _ => none

/-- A start leaves the Marshal's lists (R254). -/
def State.mshRemove (s : State) (u : OutU) : State :=
  match itemOf (s.master u) with
  | none => s
  | some i =>
    let drop := fun (l : List MshWait) => match litUnit u with
      | none => l.filter (fun w => decide (w.item ≠ i))
      | some k => (l.map (fun w => if w.item = i then { w with units := w.units.filter (fun x => decide (x ≠ k)) } else w)).filter
          (fun w => decide (w.item ≠ i) || !w.units.isEmpty)
    { s with msh := { s.msh with waiting := drop s.msh.waiting, heat := drop s.msh.heat } }

/-- An item reaches its release point, or ends before it (R245). -/
def State.mshRelease (s : State) (i : Nat) : State :=
  { s with msh := { s.msh with
      peak := s.msh.peak.filter (fun e => decide (e.1 ≠ i)), steady := s.msh.steady.filter (fun e => decide (e.1 ≠ i)) } }

/-- A sink or a row is before its release point no longer (R245). -/
def State.glowEnd (s : State) (i k : Nat) : State :=
  let l := s.msh.glow.map (fun (e : Nat × List Nat) => if e.1 = i then (i, e.2.filter (fun x => decide (x ≠ k))) else e)
  { s with msh := { s.msh with glow := l.filter (fun (e : Nat × List Nat) => !e.2.isEmpty) } }

/-- The release of a unit's own item, or of its part in item 84 or 85. -/
def State.mshReleaseOf (s : State) (u : OutU) : State :=
  match u with
  | .ls _ | .vd _ | .hb _ =>
    match itemOf (s.master u) with
    | some i => (s.mshRelease i).disarm (.release i)
    | none => s
  | .led n => s.glowEnd 84 n
  | .row n => s.glowEnd 85 n
  | _ => s

/-- PHY reset lines are asserted: a start of the port before its release point ends (R243, R245, R472). -/
def State.phyAssert (s : State) (m : Nat) : State :=
  let s := (List.range 6).foldl (fun s p =>
    if bitAt m p && !bitAt s.phyLines p then (s.mshRelease (86 + p)).disarm (.release (86 + p)) else s) s
  { s with phyLines := s.phyLines ||| m }

/-- Sinks or rows light with one start: it weighs its peak until the next tick, and counts as steady in the place of any earlier
start of the same units (R243, R245, R260). -/
def State.lightUp (s : State) (i : Nat) (ks : List Nat) : State :=
  if ks.isEmpty then s
  else
    let rest := fun (l : List (Nat × List Nat)) => (l.map (fun (e : Nat × List Nat) =>
      if e.1 = i then (i, e.2.filter (fun x => !ks.contains x)) else e)).filter (fun (e : Nat × List Nat) => !e.2.isEmpty)
    { s with msh := { s.msh with glow := rest s.msh.glow ++ [(i, ks)], lit := rest s.msh.lit ++ [(i, ks)] } }

/-- A start joins the Marshal's list; a decision gives it its lap (R251). -/
def State.mshEnlist (s : State) (u : OutU) : State :=
  match itemOf (s.master u) with
  | none => s
  | some i =>
    let k := (litUnit u).toList
    if (s.msh.waiting ++ s.msh.heat).any (fun w => decide (w.item = i) && k.all (· ∈ w.units)) then s
    else { s with msh := { s.msh with waiting := s.msh.waiting ++ [⟨i, k, none, false⟩] } }

/-- A bridge that leaves its drive for a trip, a stop or a pattern drives in no direction and chops no longer (R309, R311). -/
def State.hbOpen (s : State) (u : OutU) : State :=
  (s.members u).foldl (fun s v => match v with
    | .hb n => (s.put (HB.DIR n) 0).setBridge n (fun b =>
        { b with chopSince := none, phaseOpen := false, parkBrake := false, cut := false })
    | _ => s) s

/-- A valve decays fast (R286, R287). -/
def State.fastDecay (s : State) (u : OutU) : State :=
  match u with
  | .vd n => s.setValve n (fun v => { v with slow := false })
  | _ => s

/-- A limiting episode of a unit ends (R200). -/
def State.endLimit (s : State) (u : OutU) : State :=
  ((s.put (fLim u) 0).setOut u (fun o => { o with lim := false })).yieldClose 5 2 (limitKey u)

/-- Stops every timer of a unit's protection and start, and any pulse of a load switch channel. -/
def State.quiet (s : State) (u : OutU) : State :=
  let mine := fun (e : Nat × Nat) => decide (OutU.ls e.1 = u)
  { s with
    msh := { s.msh with pulses := s.msh.pulses.filter (fun e => !mine e), late := s.msh.late.filter (fun e => !mine e) },
    timers := s.timers.filter (fun e => !(match e.1 with
      | .inrush v | .retry v | .defer v | .reload v | .demag v | .testPhase v => decide (v = u)
      | .lateMax n | .pulseEnd n => decide (OutU.ls n = u)
      | .peak n | .ramp n | .slow n => decide (OutU.vd n = u)
      | .revbrk n | .park n | .parkBrake n => decide (OutU.hb n = u)
      | _ => false)) }

/-- RETRYREM reloads (R197). -/
def State.reloadRetry (s : State) (u : OutU) : State := s.put (fRem (s.master u)) (s.get (fRetry (s.master u)))

/-- A unit enters its on-state; 10 s in it reload the retries (R197). A load switch then takes the derating decided
for it (R568), and its on-resistance is due (R215). -/
def State.enterOn (s : State) (u : OutU) (t : Nat) : State :=
  let s := (s.members u).foldl (fun s v => match v with
    | .ls n => s.setOut v (fun o => { o with drating := (s.ageOf n).d, ronDue := true })
    | _ => s) s
  ((s.setPhase u .on t).disarm (.inrush (s.master u))).arm (.reload (s.master u)) (t + ms 10000)

/-- A committed on-state that protection keeps from its pin is one G5 yield per episode (R201, R331, R374). -/
def State.g5 (s : State) (u : OutU) (key t : Nat) : State :=
  if !(s.out u).fs && s.cmdOn u then s.yieldOpen 5 2 key (upage u).2 t else s

/-- The episode of a group's thermal latch (R201, R209). -/
def State.g5Latch (s : State) (u : OutU) (t : Nat) : State := s.g5 u (latchKey (s.master u)) t

/-- A trip is an episode of its own where it sets no latch (R201, R32). -/
def State.g5Trip (s : State) (u : OutU) (thermal : Bool) (t : Nat) : State :=
  if thermal then s.g5Latch u t
  else if !(s.out u).fs && s.cmdOn u then s.yieldOnce 5 2 (upage u).2 t else s

/-- A latch, a limiting, a fold-back or a sink switched off for a short in progress when an on-state is committed is an episode as
well (R201, R235, R331). -/
def State.g5Standing (s : State) (u : OutU) (t : Nat) : State :=
  (s.members u).foldl (fun s v =>
    let s := if s.flag (fLatch v) then s.g5Latch v t else s
    match v with
    | .led n =>
      let s := if s.flag (LDS.FOLDING n) then s.g5 v (limitKey v) t else s
      if s.phase v = .shorted then s.g5 v (latchKey v + 2) t else s
    | _ => if (s.out v).lim then s.g5 v (limitKey v) t else s) s

/-- The next heat of a die that has none in hand: at once, but 200 µs after its last one (R234). -/
def State.armHeat (s : State) (d t : Nat) : State :=
  if (s.due (.fsHeat d)).isSome then s
  else s.arm (.fsHeat d) (match (s.die d).lastHeat with | some h => max t (h + us 200) | none => t)

/-- A start joins its die's fail-safe heats (R234). -/
def State.heatJoin (s : State) (u : OutU) (t : Nat) : State :=
  (s.setDie (udie u) (fun x => if u ∈ x.heats then x else { x with heats := x.heats ++ [u] })).armHeat (udie u) t

/-- Pattern code 0b01 of a bridge: its low side on, or BRAKEL of an H-bridge, in the place of its drive (R318). -/
def State.patternBrake (s : State) (u : OutU) (t : Nat) : State :=
  match u with
  | .hb n =>
    ((((s.endLimit u).mshReleaseOf u).hbOpen u).setBridge n (fun b => { b with cmd := if s.hbPaired n then 3 else 2 })).setPhase u .brake t
  | _ => s

/-- A bank switch that is on again under a pattern: its members in BANKOFF that the pattern wants on are new starts (R288,
R297). -/
def State.bankRejoin (s : State) (b t : Nat) : State :=
  (List.range 4).foldl (fun s k =>
    let u := OutU.vd (4 * b + k)
    if s.master u = u ∧ (s.out u).fs ∧ (s.out u).fsWant ∧ s.phase u = .bankoff ∧ ¬ s.latched u then
      ((s.setPhase u .wait t).setValve (4 * b + k) (fun v => { v with ask := true })).heatJoin u t
    else s) s

/-- A start of the unit waits for its release: the Marshal's, or under a pattern its die's fail-safe heats (R234). A valve's
start waits for its bank's verdict first (R246). A signal output turns on at once (R373), a bank switch too (R288), and a
bridge whose command is a brake brakes (R306). Under a pattern a bridge takes the brake that the pattern gives it; a RUN that the
pattern held does not start again (R318; DEDUCED, log entry 85). -/
def State.startWait (s : State) (u : OutU) (t : Nat) : State :=
  let m := s.master u
  let s := (s.members m).foldl (fun s v => s.quiet v) s
  match m with
  | .so _ => if (s.out m).fs then (s.setPhase m .wait t).heatJoin m t else s.enterOn m t
  | .bank b => (s.enterOn m t).bankRejoin b t
  | .hb n =>
    if (s.out m).fs then
      if !(s.out m).fsWant then s.setPhase m .off t
      else if !(s.out m).hold then s.patternBrake m t
      else s.setPhase m (if s.hbBrakes n (s.bridge n).cmd then .brake else .off) t
    else if s.hbStarts n (s.get (HB.CMD n)) then (s.setPhase m .wait t).mshEnlist m else s.setPhase m .brake t
  | _ =>
    let s := s.setPhase m .wait t
    let s := match m with
      | .vd n => (s.setValve n (fun v => { v with ask := true })).disarm (.testPhase (.bank (n / 4)))
      | _ => s
    if (s.out m).fs then (if (s.out m).fsWant then s.heatJoin m t else s)
    else match m with
      | .vd _ => s
      | _ => s.mshEnlist u

/-- A deferred start whose latch is clear goes ahead where it is wanted: it takes a retry, but for one that came from OFF
(R195, R196; DEDUCED, log entry 80). -/
def State.deferGo (s : State) (m : OutU) (t : Nat) : State :=
  if s.phase m = .deferred ∧ ¬ s.latched m ∧ s.wants m ∧ ((s.out m).fromOff ∨ s.get (fRem m) > 0) then
    (if (s.out m).fromOff then s else s.put (fRem m) (s.get (fRem m) - 1)).startWait m t
  else s

/-- DEFERRED: the deferral limit starts (R195, R204). -/
def State.enterDeferred (s : State) (u : OutU) (fromOff : Bool) (t : Nat) : State :=
  let m := s.master u
  let s := (s.members m).foldl (fun s v => s.quiet v) s
  let s := ((s.setPhase u .deferred t).setOut m (fun o => { o with fromOff := fromOff }))
  (s.arm (.defer m) (t + ms (100 * s.get (fDeflim m)))).g5Latch u t

/-- An on-command or the end of a stop takes the unit from OFF (R195, R196). -/
def State.fromOff (s : State) (u : OutU) (t : Nat) : State :=
  match u with
  | .led _ => if s.latched u then s.setPhase u .tripped t else s.startWait u t
  | .vd n =>
    if s.latched u then s.enterDeferred u true t
    else if (s.out u).fs then s.startWait u t
    else (s.setPhase u .off t).setValve n (fun v => { v with ask := true })
  | _ => if s.latched u then s.enterDeferred u true t else s.startWait u t

/-- LOCKOFF, by the flag that names its cause. -/
def State.lockoff (s : State) (u : OutU) (bit t : Nat) : State :=
  let m := s.master u
  let s := ((s.quiet m).setPhase u .lockoff t).setFault m bit t
  match lockSrc m with
  | some src => s.detect src (upage m).2
  | none => s

/-- A trip of unit `u`: its flags, the latch if it is thermal, the count, and the retry interval or LOCKOFF of its
group (R195, R202, R209). Each flag raises its source for itself, so that a conversion that sets OTABS and OTDIFF reports twice
(DESIGN CHOICE, log entry 81). -/
def State.trip (s : State) (u : OutU) (flags : List Nat) (thermal : Bool) (t : Nat) : State :=
  let m := s.master u
  let s := flags.foldl (fun s b => s.setFault u b t) s
  let s := if thermal then s.put (fLatch u) 1 else s
  let s := (s.count (fTrips u)).g5Trip u thermal t
  let s := (s.members u).foldl (fun s v => (((s.endLimit v).quiet v).fastDecay v).setOut v (fun o => { o with stopping := false })) s
  let s := ((s.mshRemove m).mshReleaseOf m).hbOpen m
  let s :=
    match u with
    | .led _ => s.setPhase u .tripped t
    | _ =>
      if s.get (fRem m) > 0 then (s.setPhase u .tripped t).arm (.retry m) (t + ms (10 * s.get (fRtrint m)))
      else s.lockoff m (protBits m).rtx t
  s.bankOf u t

/-- The retry interval ends (R204). -/
def State.retryDue (s : State) (u : OutU) (t : Nat) : State :=
  if s.phase u ≠ .tripped then s
  else if s.latched u then s.enterDeferred u false t
  else (s.put (fRem u) (s.get (fRem u) - 1)).startWait u t

/-- The deferral limit expires: LOCKOFF where the latch is still set (R204). -/
def State.deferDue (s : State) (u : OutU) (t : Nat) : State :=
  if s.phase u = .deferred ∧ s.latched u then s.lockoff u (protBits u).defexp t else s

/-- A unit's thermal latch clears; a deferred start takes its retry (R195, R203, R329). -/
def State.latchClear (s : State) (u : OutU) (t : Nat) : State :=
  let m := s.master u
  let s := s.put (fLatch u) 0
  let s := if s.latched u then s else (s.yieldClose 5 2 (latchKey u)).yieldClose 5 2 (latchKey m)
  match u with
  | .led n =>
    if s.phase u = .tripped then
      s.setPhase u (if s.flag (LDS.COLUMN n) then .column else if s.wants u then .on else .off) t
    else s
  | _ => s.deferGo m t

/-- The output of a unit turns off and its stop begins (R195, R285, R309, R329). -/
def State.beginStop (s : State) (u : OutU) (t : Nat) : State :=
  let m := s.master u
  let s := (s.members u).foldl (fun s v => (s.endLimit v).quiet v) s
  let s := (s.mshReleaseOf m).hbOpen m
  match m with
  | .ls _ | .so _ => (s.setPhase m .stopping t).arm (.demag m) (t + ms 50)
  | .vd n =>
    let slow := s.flag (VDB.OFFDECAY n)
    let s := (s.setPhase m .stopping t).setValve n (fun v => { v with slow := slow, ask := false })
    if slow then s.arm (.slow n) (t + ms (s.get VDC.SLOWMAX)) else s
  | .led _ => s.setOut m (fun o => { o with stopping := true })
  | .bank b => (s.putPhase m .offdly).arm (.bankOff b) (t + ms (s.get (VDB.BOFFDLY b)))
  | .row _ => s.setPhase m .off t
  | .hb _ => s.setPhase m .stopping t
  | .lf _ => s

/-- A stop ends; a start pending behind it begins (R57, R195). -/
def State.stopDone (s : State) (u : OutU) (t : Nat) : State :=
  let m := s.master u
  let s := (s.quiet m).setOut m (fun o => { o with stopping := false })
  let pend := s.flag (fPend m)
  let s := (s.put (fPend m) 0).setPhase m .off t
  (if pend && s.wants m then s.fromOff m t else s).bankOf m t

/-- An on-command in force at a tick (R195); HB and VD channels add their own rules. -/
def State.applyOn (s : State) (u : OutU) (t : Nat) : State :=
  if (s.out u).stopping then s.put (fPend u) 1
  else match s.phase u with
    | .off => s.fromOff u t
    | .stopping => s.put (fPend u) 1
    | .deferred => s.deferGo u t
    | _ => s

/-- An off-command in force at a tick (R195 to R197). -/
def State.applyOff (s : State) (u : OutU) (t : Nat) : State :=
  let m := s.master u
  let sink := match m with
    | .led _ => true
    | _ => false
  if (s.out m).stopping then s.put (fPend m) 0
  else if sink && (decide (s.phase m = .tripped) || decide (s.phase m = .shorted)) then s
  else match s.phase m with
    | .off | .lockoff | .failsafe | .column | .offdly => s
    | .stopping => s.put (fPend m) 0
    | .wait | .bwait | .refused | .bankoff => ((s.mshRemove m).quiet m).setPhase m .off t
    | .tripped => ((s.quiet m).setPhase m .off t).reloadRetry m
    | .deferred => ((s.quiet m).setPhase m .off t).reloadRetry m
    | .shorted => s
    | .start | .on | .brake | .revbrk | .parking | .stalled => (s.beginStop m t).reloadRetry m

/-- A command in force at a tick; EN = 0 applied reloads the retries in every state (R195 to R197). -/
def State.applyCmd (s : State) (u : OutU) (t : Nat) : State :=
  if s.cmdOn u then (s.applyOn u t).g5Standing u t else (s.applyOff u t).reloadRetry u

/-! Fail-safe. -/

/-- The two-bit code of a unit in pattern `p` (R231, R297, R318, R349, R377), as last applied to its die. A bank has
none: it follows its members. -/
def State.patCode (s : State) (u : OutU) (p : Nat) : Nat :=
  let two := fun (w i : Nat) => (w >>> (2 * i)) % 4
  match s.master u with
  | .ls n => two (s.act (LSWC.FSPAT p (n / 16))) (n % 16)
  | .vd n => two (s.act (VDC.FSPAT p)) n
  | .hb n => two (s.act (HBC.FSPAT p)) n
  | .so n => two (s.act (DOUT.FSPAT p)) n
  | .led n =>
    let c := two (s.act (LDS.FSPAT p (n / 16))) (n % 16)
    if c = 2 ∧ s.flag (LDS.COLUMN n) then 0 else c
  | .row n => two (s.act (LMX.FSPAT p)) n
  | .bank _ | .lf _ => 2


/-- Applies a pattern code to a unit that is under fail-safe: off stops it, on starts it in the die's heats, hold keeps
what conducts (R231, R234). A half-bridge code 0b01 is its low side or brake (R318). -/
def State.patternTo (s : State) (u : OutU) (code t : Nat) : State :=
  let m := s.master u
  let live := (s.phase m).conducts
  let s := (s.members m).foldl (fun s v => s.setOut v (fun o => { o with hold := decide (code = 2) })) s
  match m with
  | .bank _ => s
  | .hb _ =>
    if code = 2 then s.setOut m (fun o => { o with fsWant := live })
    else
      let s := s.setOut m (fun o => { o with fsWant := decide (code = 1) })
      match s.phase m with
      | .tripped | .deferred | .lockoff => s
      | _ => if code = 1 then (s.quiet m).patternBrake m t else if live then s.beginStop m t
          else if s.phase m = .stopping then s else (s.quiet m).setPhase m .off t
  | _ =>
    if code = 2 then
      let s := s.setOut m (fun o => { o with fsWant := live })
      match s.phase m with
      | .bwait | .refused | .bankoff | .shorted => s.setPhase m .off t
      | _ => s
    else if code = 1 then
      let s := s.setOut m (fun o => { o with fsWant := true })
      match s.phase m with
      | .off | .wait | .bwait | .refused | .bankoff | .shorted => if s.latched m then s.enterDeferred m true t else s.startWait m t
      | .column => s
      | .deferred => s.deferGo m t
      | .stopping => s.put (fPend m) 1
      | _ => if (s.out m).stopping then s.put (fPend m) 1 else s
    else
      let s := (s.setOut m (fun o => { o with fsWant := false })).put (fPend m) 0
      let s := s.setDie (udie m) (fun d => { d with heats := d.heats.filter (fun v => decide (v ≠ m)) })
      match s.phase m with
      | .start | .on => s.beginStop m t
      | .wait | .bwait | .refused | .bankoff | .shorted => (s.setPhase m .off t).bankOf m t
      | _ => s

/-- A unit enters FAILSAFE (R195, R232): its state code, the Marshal's list, and the pattern. -/
def State.enterFs (s : State) (u : OutU) : State :=
  if (s.out u).fs then s
  else
    let p := s.phase u
    let k := s.keptOf u
    let s := (s.mshRemove u).disarm (.testPhase u)
    let s := s.setOut u (fun o => { o with fs := true, under := p, fsWant := p.conducts, hold := false, kept := k })
    let s := s.put (fState u) (phaseCode u .failsafe)
    match u with
    | .ls n => s.put (LSW.FSACT n) 1
    | _ => s

/-- The units of a die. -/
def unitsOf (d : Nat) : List OutU := allUnits.filter (fun u => decide (udie u = d))

/-- Lane link status bits of a die. -/
def fFsBit (d : Nat) : Fld := if d = 0 then LNK.PDAFS else LNK.PDBFS
/-- Whether a die answers. -/
def fOkBit (d : Nat) : Fld := if d = 0 then LNK.PDAOK else LNK.PDBOK

/-- A die applies its selected pattern to its masters (R232). -/
def State.diePattern (s : State) (d t : Nat) : State :=
  (unitsOf d).foldl (fun s u => if s.master u = u then s.patternTo u (s.patCode u (s.die d).sel) t else s) s

/-- A change of a pattern that a tick applies reaches the dies under it that answer (R231, R242; log entry 46). -/
def State.repattern (s old : State) (t : Nat) : State :=
  (List.range 2).foldl (fun s d =>
    let x := s.die d
    if x.inFs && !x.lockout && !x.gnd && s.flag (fOkBit d) then
      (unitsOf d).foldl (fun s u =>
        if s.master u = u ∧ s.patCode u x.sel ≠ old.patCode u x.sel then s.patternTo u (s.patCode u x.sel) t else s) s
    else s) s

/-- A die enters fail-safe for a reason that `f` notes in it; its first fail-safe heat is due at once (R234). -/
def State.dieFailsafe (s : State) (d t : Nat) (f : DieSt → DieSt) : State :=
  let was := (s.die d).inFs
  let s := s.setDie d f
  if was then s
  else
    let s := s.put (fFsBit d) 1
    let s := (unitsOf d).foldl (fun s u => s.enterFs u) s
    (s.diePattern d t).armHeat d t

/-- A unit leaves FAILSAFE at the first commit (R235): it shows the state it holds, and its applied command governs. -/
def State.exitFs (s : State) (u : OutU) : State :=
  if ¬ (s.out u).fs then s
  else
    let p := match s.phase u with
      | .wait | .bwait | .refused => Phase.off
      | q => q
    let s := s.setOut u (fun o => { o with fs := false, fsWant := false })
    let s := (s.put (fPend u) 0).put (fState u) (phaseCode u p)
    match u with
    | .ls n => s.put (LSW.FSACT n) 0
    | _ => s

/-- A unit that protection has left without a latch, tripped or locked off, as its pattern ends: a committed on-state that it
keeps from its pin is an episode (R201, R235, R374). -/
def State.g5Exit (s : State) (u : OutU) (t : Nat) : State :=
  match s.phase u with
  | .tripped | .lockoff => if s.master u = u ∧ ¬ s.latched u ∧ s.cmdOn u then s.yieldOnce 5 2 (upage u).2 t else s
  | _ => s

/-- A die leaves its pattern. The commands are applied by the tick that releases it. -/
def State.dieRelease (s : State) (d t : Nat) : State :=
  let s := (s.setDie d (fun x => { x with heats := [] })).disarm (.fsHeat d)
  (unitsOf d).foldl (fun s u => if (s.out u).fs then (s.exitFs u).g5Exit u t else s) (s.put (fFsBit d) 0)

/-- Every output of a die turns off at once: lock-out, loss of ground (R665, R669). -/
def State.dieOff (s : State) (d t : Nat) : State :=
  (unitsOf d).foldl (fun s u => (((((s.quiet u).endLimit u).mshRemove u).mshReleaseOf u).hbOpen u).putPhase u .off) (s.reach t)

/-- A die restarts as at its own power-on: channel states reset, retries reloaded, latches and pending starts clear,
under its selected pattern (R665, R669). -/
def State.dieRestart (s : State) (d t : Nat) : State :=
  let s := (unitsOf d).foldl (fun s u =>
    (((s.putPhase u .off).reloadRetry u).put (fLatch u) 0).put (fPend u) 0 |>.yieldClose 5 2 (latchKey u)) s
  let s := s.setDie d (fun x => { x with lockout := false, gnd := false, reset := true, heats := [], lastHeat := none })
  (s.diePattern d t).armHeat d t

end Sys2Proof.Machine
end

