-- ==== Sys2Proof/Machine/Lighting.lean ====
section
/-! DEFINITION. LED sinks, calibration, and the matrix (R326 to R358). -/
namespace Sys2Proof.Machine

/-- The gain of bin code `b`, and whether its entry is above 0x8000 (R336). -/
def State.binGain (s : State) (b : Nat) : Nat × Bool :=
  let g := s.le (0x390200 + 2 * b) 2
  (min g 0x8000, decide (g > 0x8000))

/-- One use of a bin: the gain, and the record of an entry above 0x8000 (R336, R353). -/
def State.useBin (s : State) (b t : Nat) : Nat × State :=
  let g := s.binGain b
  (g.1, if g.2 then ((((s.reach t).evt 0x22 0).put LCAL.BIN b).count LCAL.COUNT).detect 0x9A 0 else s)

/-- Reads the gains of a list of bins; 1.0 where there is none. -/
def State.useBins (s : State) (bins : List (Option Nat)) (t : Nat) : List Nat × State :=
  bins.foldl (fun acc b => match b with
    | some b => let r := acc.2.useBin b t; (acc.1 ++ [r.1], r.2)
    | none => (acc.1 ++ [0x8000], acc.2)) ([], s)

/-- Matrix rows and columns in force (R339). -/
def State.mxRows (s : State) : Nat := min (s.act LMX.ROWS) 16
/-- Columns in force. -/
def State.mxCols (s : State) : Nat := min (s.act LMX.COLS) 32

/-- Staging reads the bin table and the pixel bin map: at FIN, or at B after an overrun (R338). -/
def State.stageCal (s : State) (t : Nat) : State :=
  if ¬ s.flag LCAL.EN then { s with cal := { s.cal with gainNext := [], pixNext := [] } }
  else
    let pixen := s.flag LCAL.PIXEN
    let rows := min (s.get LMX.ROWS) 16
    let cols := min (s.get LMX.COLS) 32
    let r := s.useBins ((List.range 48).map (fun n => if pixen && decide (n < cols) then none else some (s.get (LDS.BIN n)))) t
    let q := if pixen then
        r.2.useBins ((List.range 512).map (fun k =>
          if k / 32 < rows ∧ k % 32 < cols then some (s.byte (0x390000 + k)).toNat else none)) t
      else ([], r.2)
    { q.2 with cal := { q.2.cal with gainNext := r.1, pixNext := q.1, size := (rows, cols) } }

/-- The calibrated current value of a sink (R327, R337). -/
def State.sinkVE (s : State) (n : Nat) : Nat :=
  match s.cal.gain[n]? with
  | some g => s.get (LDS.VAL n) * g / 0x8000
  | none => s.get (LDS.VAL n)

/-- The tick applies the staged gains (R338). Where the tick changes the matrix size that they were staged for, they are staged anew
for the size that it applies (R337, R339; DESIGN CHOICE, log entry 86). -/
def State.applyCal (s : State) (t : Nat) : State :=
  let s := if s.cal.gainNext ≠ [] ∧ s.cal.size ≠ (s.mxRows, s.mxCols) then s.stageCal t else s
  let s := { s with cal := { s.cal with gain := s.cal.gainNext, pix := s.cal.pixNext } }
  (List.range 48).foldl (fun s n => s.put (LDS.VALEFF n) (s.sinkVE n)) s

/-- Frame `f` of the store: its 16 rows of 32 pixels (R340). -/
def State.loadFrame (s : State) (f : Nat) : List Nat :=
  (List.range 512).map (fun k => s.le (0x380000 + 0x400 * f + 2 * k) 2 % 1024)

/-- Staging loads a newly commanded frame (R343). -/
def State.stageFrame (s : State) : State :=
  let f := s.next (LMX.FRAME 0)
  let r := s.next (LMX.RLD 0)
  if f = s.scan.frameSeen ∧ r = s.scan.rldSeen then s
  else if s.next (LMX.SEQEN 0) = 1 then { s with scan := { s.scan with frameSeen := f, rldSeen := r } }
  else { s with scan := { s.scan with staged := some (f, s.loadFrame f), frameSeen := f, rldSeen := r } }

/-- A tick puts the frame that was staged for it into the back buffers; a change of FRAME or RLD that came after staging is loaded
with the tick that applies it (R343). -/
def State.applyFrame (s : State) : State :=
  let s := s.stageFrame
  { s with scan := { s.scan with back := s.scan.staged.or s.scan.back, staged := none } }

/-- A change of SEQEN or SEQ applied at a tick restarts the sequence (R344). -/
def State.applySeq (s : State) : State :=
  let on := s.flag (LMX.SEQEN 0)
  let q := s.get (LMX.SEQ 0)
  if on = s.seq.on ∧ q = s.seq.seen then s
  else
    { s with seq := { on := on, seen := q, restart := on, pos := s.get LMX.FIRST, scans := 0, ended := false } }

/-- The frame that follows in the sequence, if another follows (R344). -/
def State.seqNext (s : State) : Option Nat :=
  if s.seq.pos ≠ s.get LMX.LAST then some ((s.seq.pos + 1) % 64)
  else if s.flag LMX.LOOP then some (s.get LMX.FIRST) else none

/-- The sequence loads its next frame at the start of the last slot before the swap (R344). -/
def State.seqLoad (s : State) : State :=
  if s.seq.on ∧ ¬ s.seq.restart ∧ s.seq.scans ≥ s.get LMX.HOLD ∧ ¬ s.seq.ended then
    match s.seqNext with
    | some f => { s with scan := { s.scan with back := some (f, s.loadFrame f) }, seq := { s.seq with pos := f, scans := 0 } }
    | none => { s with seq := { s.seq with ended := true } }.evt 0x21 18
  else s

/-- Whether the last slot that began still lasts (R341). -/
def State.slotLasts (s : State) (t : Nat) : Bool := decide (t < s.scan.slotAt + s.scan.slotLen)

/-- Whether a scan is in progress: rows are to come, or the last row's slot lasts (R341). -/
def State.scanBusy (s : State) (t : Nat) : Bool := s.scan.scanning && (decide (s.scan.row < s.mxRows) || s.slotLasts t)

/-- The scan in progress ends: its columns are dark, and one that is `early` counts (R341, R342). -/
def State.scanEnd (s : State) (early : Bool) : State :=
  let s := if early then (s.count LMX.TRUNC).evt 0x21 17 else s
  let s := (List.range 48).foldl (fun s n => if s.flag (LDS.COLUMN n) then s.setOut (.led n) (fun o => { o with onAct := 0 }) else s) s
  { s with scan := { s.scan with scanning := false, startDue := false } }

/-- A scan starts: one in progress ends early, a loaded frame is swapped in, or a restarted sequence shows its first frame
(R341 to R344). -/
def State.scanStart (s : State) (early : Bool) (t : Nat) : State :=
  if s.mxRows = 0 then s
  else
    let s := s.scanEnd early
    let s := if s.seq.restart then
        { s with scan := { s.scan with back := some (s.seq.pos, s.loadFrame s.seq.pos) }, seq := { s.seq with restart := false } }
      else s
    let s := match s.scan.back with
      | some (f, px) => { s with scan := { s.scan with front := px, back := none } }.put (LMX.FRAMEACT 0) f
      | none => s
    { s with
      scan := { s.scan with
        scanning := true, row := 0, slotAt := t, slotLen := 100 * s.act LMX.SLOT, startDue := false, scans := s.scan.scans + 1 },
      seq := { s.seq with scans := s.seq.scans + b2n s.seq.on } }

/-- While a die applies a pattern scanning stops on it; its rows and columns follow the pattern, and no scan runs where both dies
apply theirs (R349). -/
def State.scanAllowed (s : State) : Bool := s.flag (Hdr.EN 0x21) && !((s.die 0).inFs && (s.die 1).inFs)

/-- A die of `was` that no longer applies a pattern scans again, with the committed frame (R349). -/
def State.scanResume (s : State) (was : List Nat) : State :=
  if was.any (fun d => !(s.die d).inFs) && !s.flag (LMX.SEQEN 0) then
    let f := s.get (LMX.FRAME 0)
    { s with scan := { s.scan with back := some (f, s.loadFrame f) } }
  else s

/-- The matrix configuration as a tick applies it: column sinks enter COLUMN from OFF, freed ones leave it (R329, R339). -/
def State.applyColumns (s : State) (t : Nat) : State :=
  (List.range 48).foldl (fun s n =>
    let col := decide (n < s.mxCols)
    let was := s.flag (LDS.COLUMN n)
    let s := s.put (LDS.COLUMN n) (b2n col)
    if col && decide (s.phase (.led n) = .off) then
      (s.setPhase (.led n) .column t).setOut (.led n) (fun o => { o with dutyAct := 0, onAct := 0 })
    else if !col && was then s.setPhase (.led n) .off t
    else s) s

/-- The pixel value of a cell after calibration (R337, R341). -/
def State.pixel (s : State) (row col : Nat) : Nat :=
  let k := 32 * row + col
  let p := s.scan.front.getD k 0
  match s.cal.pix[k]? with
  | some g => p * g / 0x8000
  | none => p

/-- The on-time of a column in its row's slot, in split steps (R341). -/
def State.columnOn (s : State) (row col : Nat) : Nat :=
  s.pixel row col * (25 * (s.act LMX.SLOT - s.act LMX.BLANK)) / 1023

/-- Whether a row that its pattern sets on conducts, so that the columns coded on are lit (R349). -/
def State.patternRow (s : State) : Bool :=
  (List.range 16).any (fun r => (s.out (.row r)).fs && (s.out (.row r)).fsWant && decide (s.phase (.row r) = .on))

/-- Whether a sink conducts for more than `least` split steps in its period or slot, or is on under its pattern (R328, R333,
R349). -/
def State.sinkLit (s : State) (n least : Nat) : Bool :=
  let o := s.out (.led n)
  s.drives (.led n)
    && (if o.fs && !o.hold then o.fsWant && (!s.flag (LDS.COLUMN n) || s.patternRow) else decide (least < o.onAct))

/-- Whether instant `t` lies in the on-time of a sink: in its PWM period, or in its slot after blanking; under a pattern that sets
it on, always (R328, R335, R341, R349). -/
def State.sinkOnAt (s : State) (n t : Nat) : Bool :=
  let o := s.out (.led n)
  s.sinkLit n 0 && (
    if o.fs && !o.hold then true
    else if s.flag (LDS.COLUMN n) then
      let b := s.scan.slotAt + 100 * s.act LMX.BLANK
      decide (b ≤ t) && decide (t < b + 4 * o.onAct)
    else match s.stg.starts.getD (s.get (LDS.PWMB n)) none with
      | some b =>
        let d := (t - b) / 4
        (decide (o.phaseAct ≤ d) && decide (d < o.phaseAct + o.onAct))
          || decide (d + s.act (STG.PER (s.get (LDS.PWMB n))) < o.phaseAct + o.onAct)
      | none => false)

/-- Whether a pixel of a row has a value of at least 64 (R348). -/
def State.rowLit (s : State) (n : Nat) : Bool := (List.range s.mxCols).any (fun c => decide (64 ≤ s.pixel n c))

/-! Commands. -/

/-- SCAN_START: a scan starts back to back with the one before it, or as FREE after a loss of MSYNC (R341, R342). -/
def execScanStart (t : Nat) (s : State) : Host.Outcome State Fault Refusal :=
  .next (
    let s := s.reach t
    if !s.scanAllowed || s.scanBusy t || (decide (s.act LMX.SYNC = 1) && !s.scan.msyncLost) then s else s.scanStart false t)

/-- ROW_SLOT_START: the next row's slot begins; in the last slot a sequence loads what follows (R341, R344). -/
def execRowSlotStart (t : Nat) (s : State) : Host.Outcome State Fault Refusal :=
  .next (
    let s := s.reach t
    if ¬ s.scan.scanning then s
    else if !s.scanAllowed then s.scanEnd (s.scanBusy t)
    else if s.scan.startDue then s.scanStart (s.scanBusy t) t
    else
      let r := s.scan.row
      if r < s.mxRows then
        let s := (List.range s.mxCols).foldl (fun s c =>
          let lit := decide (s.phase (.row r) = .on) && !(s.out (.row r)).fs && !(s.out (.led c)).fs
          s.setOut (.led c) (fun o => { o with onAct := if lit then s.columnOn r c else 0 })) s
        let s := if r + 1 = s.mxRows then s.seqLoad else s
        { s with scan := { s.scan with row := r + 1, slotAt := t, slotLen := 100 * s.act LMX.SLOT } }
      else s.scanEnd false)

/-- MSYNC_EDGE: an edge of the selected polarity starts a scan, or ends the one in progress after its slot (R342). -/
def execMsyncEdge (t : Nat) (rising : Bool) (s : State) : Host.Outcome State Fault Refusal :=
  .next (
    let s := s.reach t
    if s.act LMX.SYNC = 1 ∧ rising = decide (s.act LMX.MPOL = 0) ∧ s.mxRows > 0 then
      let s := { s with scan := { s.scan with msyncLost := false } }.arm .msync (t + ms (s.get LMX.MSYNCTO))
      if ¬ s.scanAllowed then s
      else if s.scanBusy t then { s with scan := { s.scan with startDue := true } }
      else s.scanStart false t
    else s)

/-- MSYNC_TIMEOUT: without an edge the matrix scans as FREE (R342). -/
def execMsyncTimeout (s : State) : Host.Outcome State Fault Refusal :=
  .next (s.onExpiry .msync (fun _ s =>
    if s.act LMX.SYNC = 1 then { s with scan := { s.scan with msyncLost := true } }.evt 0x21 16 else s))

/-- HEADROOM_CONVERSION: the lowest voltage of the selected sinks that conduct, in the window (R335). -/
def execHeadroomConversion (t : Nat) (vs : List (Nat × Nat)) (s : State) : Host.Outcome State Fault Refusal :=
  .next (
    vs.foldl (fun s e =>
      let sel := if e.1 < 32 then bitAt (s.get LDS.HRSEL0) e.1 else bitAt (s.get LDS.HRSEL1) (e.1 - 32)
      let s := s.put (LDS.VSINK e.1) e.2
      if sel && s.sinkOnAt e.1 t then
        match s.cal.hrMin with
        | some (v, _) => if e.2 < v then { s with cal := { s.cal with hrMin := some (e.2, e.1) } } else s
        | none => { s with cal := { s.cal with hrMin := some (e.2, e.1) } }
      else s) (s.reach t))

/-- The headroom window closes at a tick (R335). -/
def State.headroomTick (s : State) : State :=
  let s := match s.cal.hrMin with
    | some (v, n) =>
      let s := ((s.put LDS.VMIN v).put LDS.SINK n).put LDS.VALID 1
      if v < s.get LDS.LOWTH then s.put LDS.HRLOW 1 else s
    | none => ((s.put LDS.VMIN 0xFFFF).put LDS.SINK 0).put LDS.VALID 0
  { s with cal := { s.cal with hrMin := none } }

/-- The matrix at a tick: the window's scans, in TICK mode the scan that the strobe starts, ending the one that it found `busy`, and
in MSYNC mode the wait for an edge (R342, R352). -/
def State.scanTick (s : State) (busy : Bool) (t : Nat) : State :=
  let s := { s with scan := { s.scan with lastScans := s.scan.scans, scans := 0 } }
  if s.act LMX.SYNC ≠ 1 then
    let s := { s with scan := { s.scan with msyncLost := false, startDue := false } }.disarm .msync
    if s.act LMX.SYNC = 0 ∧ s.scanAllowed then s.scanStart busy t else s
  else if s.scan.msyncLost || (s.due .msync).isSome || decide (s.mxRows = 0) then s
  else s.arm .msync (t + ms (s.get LMX.MSYNCTO))

end Sys2Proof.Machine
end

