-- ==== Sys2Proof/Machine/Timers.lean ====
section
/-! DEFINITION. Timers, Stagger and the PWM time bases (R383 to R409). -/
namespace Sys2Proof.Machine

/-- A counter beside its registers, at reset. -/
def tmrInit : TmrSt :=
  { lead := false, leadAt := 0, acc := 0, per := 0xFFFFFFFF, run := false, load := 0, waiting := false, updates := 0, roll := false, pulseAt := none }

/-- A channel beside its registers, at reset. -/
def tchInit : TmrCh := { cmp := 0, hits := 0, cap := false }

/-- A counter beside its registers. -/
def State.tmr (s : State) (u : Nat) : TmrSt := look tmrInit s.tmrs u

/-- Updates a counter beside its registers. -/
def State.setTmr (s : State) (u : Nat) (f : TmrSt → TmrSt) : State := { s with tmrs := store tmrInit u (f (s.tmr u)) s.tmrs }

/-- A channel beside its registers. -/
def State.tch (s : State) (n : Nat) : TmrCh := look tchInit s.tchs n

/-- Updates a channel beside its registers. -/
def State.setTch (s : State) (n : Nat) (f : TmrCh → TmrCh) : State := { s with tchs := store tchInit n (f (s.tch n)) s.tchs }

/-- The status fields that follow from the counter (R388, R392, R400, R407). -/
def State.tmrStat (s : State) (u : Nat) : State :=
  let r := s.tmr u
  let s := s.put (TMR.RUNNING u) (b2n (r.run && s.flag (Hdr.EN (0x28 + u)) && !r.waiting))
  (List.range 8).foldl (fun s j =>
    s.put (TMR.OUTRNG (8 * u + j)) (b2n (s.get (TMR.MODE (8 * u + j)) = 1 && decide (r.per < (s.tch (8 * u + j)).cmp)))) s

/-- Whether a counter runs: RUN as applied, page enabled, not frozen by a halt (R395, R396). -/
def State.tmrRuns (s : State) (u : Nat) : Bool :=
  (s.tmr u).run && s.flag (Hdr.EN (0x28 + u)) && !(s.flag (Hdr.FRZ (0x28 + u)) && s.flag DBG.HALTED)

/-- The level of a unit that its followers see at `t`: RUN as applied, 4 ns after it changes (R400). -/
def State.tmrLevel (s : State) (u t : Nat) : Bool := if t < (s.tmr u).leadAt + 4 then (s.tmr u).lead else (s.tmr u).run

/-- Whether the counter counts at `t`: it runs, is not held by its leader and does not wait (R400). -/
def State.tmrCounts (s : State) (u t : Nat) : Bool :=
  s.tmrRuns u && !(s.tmr u).waiting && !(decide (s.get (TMR.FOLLOW u) = 1) && !s.tmrLevel (s.get (TMR.LEAD u)) t)

/-- A match or capture pushes its entry (R398): `c` the count, `sp` its split. -/
def State.tmrEntry (s : State) (n ty c sp t : Nat) : State :=
  if s.flag (TMR.QEN n) then
    s.hwPush (s.get (TMR.QUEUE n)) (0x28 + n / 8) (n % 8) ty (leBytes 4 n ++ leBytes 4 c) sp t
  else s

/-- A match of channel `n` (R388). -/
def State.tmrMatch (s : State) (n t : Nat) : State :=
  let s := (s.put (TMR.MATCH n) 1).evt (0x28 + n / 8) (n % 8)
  (s.setTch n (fun c => { c with hits := min (c.hits + 1) 255 })).tmrEntry n 0x20 (s.get (TMR.CNT (n / 8))) (s.splitAt t) t

/-- The channels of unit `u` whose compare value in force equals the count (R388, R392). -/
def State.tmrMatches (s : State) (u : Nat) : List Nat :=
  (List.range 8).filter (fun j =>
    decide (s.get (TMR.MODE (8 * u + j)) = 1) && decide ((s.tch (8 * u + j)).cmp = s.get (TMR.CNT u))
      && decide ((s.tch (8 * u + j)).cmp ≤ (s.tmr u).per))

/-- The preloaded values take effect at an update event (R389, R393). -/
def State.tmrPreload (s : State) (u : Nat) : State :=
  let s := if s.flag (TMR.PERPEND u) then (s.setTmr u (fun r => { r with per := s.get (TMR.PER u) })).put (TMR.PERPEND u) 0 else s
  (List.range 8).foldl (fun s j =>
    let n := 8 * u + j
    if s.flag (TMR.CMPPEND n) then (s.setTch n (fun c => { c with cmp := s.get (TMR.CMP n) })).put (TMR.CMPPEND n) 0 else s) s

/-- The count after the current step, and whether the step is an update (R386, R393, R394). -/
def State.tmrAdvance (s : State) (u : Nat) (restart : Bool) : State × Bool :=
  let c := s.get (TMR.CNT u)
  let down := s.flag (TMR.DIR u)
  let above := decide ((s.tmr u).per < c)
  let upd := restart || above || (if down then decide (c = 0) else decide (c = (s.tmr u).per))
  if upd then
    let s := s.tmrPreload u
    let s := (s.put (TMR.CNT u) (if down then (s.tmr u).per else 0)).evt (0x28 + u) 8
    let s := s.setTmr u (fun r => { r with updates := min (r.updates + 1) 65535, roll := r.roll || (above && !restart) })
    (if above && !restart then (s.put (TMR.ROLLOV u) 1).evt (0x28 + u) 9 else s, true)
  else (s.put (TMR.CNT u) (if down then c - 1 else c + 1), false)

/-- The followers that pulses of unit `u` reach (R400). -/
def State.tmrFollowers (s : State) (u : Nat) : List Nat :=
  (List.range 4).filter (fun v => decide (v ≠ u) && decide (s.get (TMR.LEAD v) = u) && decide (2 ≤ s.get (TMR.FOLLOW v)))

/-- One count step of a unit, or its restart by a pulse, and whether it sends a link pulse (R386 to R400). -/
def State.tmrStep (s : State) (u t : Nat) (restart : Bool) : State × Bool :=
  let a := s.tmrAdvance u restart
  let s := a.1
  let single := decide (s.get (TMR.FOLLOW u) = 4)
  let s := if single then s.setTmr u (fun r => { r with waiting := a.2 && !restart }) else s
  let hits := s.tmrMatches u
  let s := (hits.foldl (fun s j => s.tmrMatch (8 * u + j) t) s).tmrStat u
  (s, (decide (s.get (TMR.LOUT u) = 0) && a.2) || (decide (s.get (TMR.LOUT u) = 2) && decide (s.get (TMR.LCH u) ∈ hits)))

/-- One event of a unit's prescaler: a count step where it has filled (R385). -/
def State.tmrEvent (s : State) (u t : Nat) : State × Bool :=
  let acc := (s.tmr u).acc + 0x10000
  let psc := s.get (TMR.PSC u)
  if psc ≤ acc then (s.setTmr u (fun r => { r with acc := acc - psc })).tmrStep u t false
  else (s.setTmr u (fun r => { r with acc := acc }), false)

/-- A link pulse reaches a follower at `t` (R400). -/
def State.tmrFollow (s : State) (v t : Nat) : State × Bool :=
  if s.get (TMR.FOLLOW v) = 3 then (if s.tmrCounts v t then s.tmrEvent v t else (s, false))
  else if s.tmrRuns v then (s.setTmr v (fun r => { r with acc := 0, waiting := false, pulseAt := some t })).tmrStep v t true
  else (s, false)

/-- The pulses of units reach their followers at `t`, and those that followers send theirs 4 ns later (R400). `fuel` bounds the
chain: units that restart one another in a ring would go on for ever (DESIGN CHOICE, log entry 26). -/
def State.tmrPulses : Nat → List Nat → Nat → State → State
  | 0, _, _, s => s
  | fuel + 1, us, t, s =>
    let r := (us.flatMap s.tmrFollowers).foldl (fun (acc : State × List Nat) v =>
      let x := acc.1.tmrFollow v t
      (x.1, if x.2 then acc.2 ++ [v] else acc.2)) (s, [])
    if r.2.isEmpty then r.1 else State.tmrPulses fuel r.2 (t + 4) r.1

/-- Whether the last restart of a unit lies in the timer-clock cycle of an instant: the restart acts in the place of a step (R401).
The pulses of a step are delivered with it, so that the commands of one instant come with followers first (log entry 26). -/
def State.tmrRestarted (s : State) (u t : Nat) : Bool :=
  match (s.tmr u).pulseAt with
  | some r => decide (t < r + 4)
  | none => false

/-- Source events of units at one instant, and the pulses they cause (R384, R385, R400); `sent` are units that have sent a pulse
at that instant already. -/
def State.tmrSource (s : State) (us sent : List Nat) (t : Nat) : State :=
  let r := us.foldl (fun (acc : State × List Nat) u =>
    if acc.1.tmrCounts u t && !acc.1.tmrRestarted u t then
      let x := acc.1.tmrEvent u t
      (x.1, if x.2 then acc.2 ++ [u] else acc.2)
    else acc) (s, sent)
  if r.2.isEmpty then r.1 else State.tmrPulses 8 r.2 (t + 4) r.1

/-- The channels of a unit whose compare value matches as it is applied (R390); `keys` are the register words that were applied. -/
def State.tmrImmediate (s : State) (u : Nat) (keys : List Nat) : List Nat :=
  (List.range 8).filter (fun j =>
    let n := 8 * u + j
    decide (regKey (TMR.CMP n).page (TMR.CMP n).off ∈ keys) && !s.flag (TMR.CHCTL_PRE n) && s.flag (TMR.IMATCH n)
      && decide (s.get (TMR.MODE n) = 1) && decide (s.get (TMR.CMP n) = s.get (TMR.CNT u)) && decide (s.get (TMR.CMP n) ≤ (s.tmr u).per))

/-- The fields applied at a tick reach a counter, before any count step of that tick (R387, R389, R390, R393, R394,
R395); `keys` are the register words that were applied. -/
def State.tmrApply (s : State) (u : Nat) (keys : List Nat) (t : Nat) : State :=
  let wrote := fun (f : Fld) => decide (regKey f.page f.off ∈ keys)
  let run := s.flag (TMR.RUN u)
  let s := if run ∧ ¬ (s.tmr u).run then (s.setTmr u (fun r => { r with acc := 0, waiting := false })).put (TMR.CNT u) 0 else s
  let s := s.setTmr u (fun r => if run = r.run then r else { r with run := run, lead := r.run, leadAt := t })
  let s :=
    if ¬ wrote (TMR.PER u) then s
    else if s.flag (TMR.TCFG_PRE u) then s.put (TMR.PERPEND u) 1
    else (s.setTmr u (fun r => { r with per := s.get (TMR.PER u) })).put (TMR.PERPEND u) 0
  let ld := s.get (TMR.LOAD u)
  let s := if ld ≠ (s.tmr u).load then (s.put (TMR.CNT u) (s.get (TMR.CNTLD u))).setTmr u (fun r => { r with load := ld }) else s
  let s := (List.range 8).foldl (fun s j =>
    let n := 8 * u + j
    if ¬ wrote (TMR.CMP n) then s
    else if s.flag (TMR.CHCTL_PRE n) then s.put (TMR.CMPPEND n) 1
    else (s.setTch n (fun c => { c with cmp := s.get (TMR.CMP n) })).put (TMR.CMPPEND n) 0) s
  ((s.tmrImmediate u keys).foldl (fun s j => s.tmrMatch (8 * u + j) t) s).tmrStat u

/-- The pending Stagger loads its units (R406). -/
def State.tmrStagger (s : State) : State :=
  match s.stg.tstag with
  | none => s
  | some m =>
    let us := (List.range 4).filter (bitAt m)
    let s := us.zipIdx.foldl (fun s (e : Nat × Nat) =>
      let per := (s.tmr e.1).per
      let o := e.2 * (per + 1) / us.length
      s.put (TMR.CNT e.1) (if s.flag (TMR.DIR e.1) then per - o else o)) s
    { s with stg := { s.stg with tstag := none } }.evt 0x2C 4

/-- The timers at a tick: what it applies, the pending Stagger, then the events of the tick source and the pulses of the tick (R384,
R387, R390, R400, R406). -/
def State.tmrTick (s : State) (keys : List Nat) (t : Nat) : State :=
  let s := (List.range 4).foldl (fun s u => s.tmrApply u keys t) s
  let sent := (List.range 4).filter (fun u => decide (s.get (TMR.LOUT u) = 2) && decide (s.get (TMR.LCH u) ∈ s.tmrImmediate u keys))
  s.tmrStagger.tmrSource ((List.range 4).filter (fun u => decide (s.get (TMR.SRC u) = 3) && decide (s.get (TMR.FOLLOW u) ≠ 3))) sent t

/-- A timer's snapshot records at T(n) (R399): the channels, or the counters. -/
def State.tmrRecord (s : State) : List Byte :=
  (List.range 32).flatMap (fun n =>
    let c := s.tch n
    leBytes 4 (if s.get (TMR.MODE n) = 1 then c.cmp else s.get (TMR.CAP n)) ++ leBytes 1 c.hits
      ++ leBytes 1 (b2n c.cap + 2 * s.get (TMR.OUTRNG n) + 4 * s.get (TMR.CMPPEND n)))
  ++ (List.range 4).flatMap (fun u =>
    leBytes 4 (s.get (TMR.CNT u)) ++ leBytes 2 (s.tmr u).updates
      ++ leBytes 1 (s.get (TMR.RUNNING u) + 2 * b2n (s.tmr u).roll) ++ leBytes 1 0)

/-- The window counts start anew at the tick (R77, R399). -/
def State.tmrWindow (s : State) : State :=
  let s := (List.range 32).foldl (fun s n => if (s.tch n).hits = 0 then s else s.setTch n (fun c => { c with hits := 0 })) s
  (List.range 4).foldl (fun s u =>
    if (s.tmr u).updates = 0 ∧ ¬ (s.tmr u).roll then s else s.setTmr u (fun r => { r with updates := 0, roll := false })) s

/-! PWM time bases and Stagger. -/

/-- The Stagger members of base `k`, in rank order (R405). -/
def State.stagMembers (s : State) (k : Nat) : List OutU :=
  ((List.range 56).filter (fun n =>
    s.flag (LSW.STAG n) && decide (s.get (LSW.PWMB n) = k) && decide (s.get (LSW.MODE n) = 1) && s.cmdOn (.ls n)
      && decide (s.lsMaster n = n))).map .ls
  ++ ((List.range 48).filter (fun n =>
    s.flag (LDS.STAG n) && decide (s.get (LDS.PWMB n) = k) && decide (s.mxCols ≤ n) && s.cmdOn (.led n))).map .led

/-- The phase offset of a channel on base `k` in split steps, by its rank among the members as of the last tick (R216, R328,
R405). -/
def State.phaseOffset (s : State) (u : OutU) (k : Nat) : Nat :=
  let per := s.act (STG.PER k)
  let ms := s.stg.members.getD k []
  let r := ms.findIdx (fun v => decide (v = u))
  if r < ms.length then r * per / ms.length
  else match u with
  | .ls n => s.get (LSW.PHASE n) * per / 4096
  | .led n => s.get (LDS.PHASE n) * per / 4096
  | _ => 0

/-- The duty of a load switch in a period of `per` steps: below 20 µs of on-time it stays off, below 20 µs of off-time on
(R216). -/
def lsPwmDuty (d per : Nat) : Nat :=
  let on := d * per / 4096
  if on < 5000 then 0 else if per - on < 5000 then 4096 else d

/-- The on-time of a sink in a period of `per` steps (R328). -/
def ledPwmOn (d per : Nat) : Nat :=
  if d = 65535 then per else let on := (2 * d * per + 65535) / 131070; if on < 50 then 0 else on

/-- A period of base `k` begins at `t`: newly applied duties and offsets take effect (R216, R328, R405). -/
def State.periodStart (s : State) (k t : Nat) : State :=
  let per := s.act (STG.PER k)
  let s := { s with stg := { s.stg with starts := s.stg.starts.set k (some t) } }
  let s := (List.range 56).foldl (fun s n =>
    if s.lsMode n = 1 ∧ s.get (LSW.PWMB (s.lsMaster n)) = k then
      let o := s.phaseOffset (.ls (s.lsMaster n)) k
      let s := if s.cmdOn (.ls n) then s.setAge n (fun a => { a with ranPwm := true }) else s
      let d := s.keptDuty (.ls (s.lsMaster n)) (s.get (LSW.DUTY (s.lsMaster n)))
      s.setOut (.ls n) (fun r => { r with dutyAct := lsPwmDuty d per, phaseAct := o })
    else s) s
  (List.range 48).foldl (fun s n =>
    if s.mxCols ≤ n ∧ s.get (LDS.PWMB n) = k then
      let o := s.phaseOffset (.led n) k
      let d := s.keptDuty (.led n) (s.get (LDS.DUTY n))
      s.setOut (.led n) (fun r => { r with dutyAct := d, onAct := ledPwmOn d per, phaseAct := o })
    else s) s

/-- A tick at the PWM bases (R403, R405): a synchronised base restarts, its period in progress cut where it is not whole;
a free base restarts where its period or mode is new. `per` and `syn` are the values before the tick. -/
def State.stgTick (s : State) (per syn : List Nat) (t : Nat) : State :=
  if ¬ s.flag (Hdr.EN 0x2C) then s
  else (List.range 4).foldl (fun s k =>
    let us := s.stagMembers k
    let s := s.put (STG.MEMBERS k) us.length
    let s := { s with stg := { s.stg with members := s.stg.members.set k us } }
    let p := per.getD k 0
    let restart := decide (s.act (STG.TICKSYNC k) = 1) || decide (s.act (STG.PER k) ≠ p)
      || decide (s.act (STG.TICKSYNC k) ≠ syn.getD k 0)
    if restart then
      let cut := match s.stg.starts.getD k none with
        | some b => decide (s.act (STG.TICKSYNC k) = 1) && decide ((t - b) % (4 * p) ≠ 0)
        | none => false
      let s := if cut then (s.count (STG.CUT k)).evt 0x2C k else s
      s.periodStart k t
    else s) s

/-! Commands. -/

/-- PWM_PERIOD_START: a period of a base begins within the stride (R216, R328, R402, R405). -/
def execPwmPeriodStart (t k : Nat) (s : State) : Host.Outcome State Fault Refusal :=
  .next (let s := s.reach t; if k < 4 ∧ s.flag (Hdr.EN 0x2C) then s.periodStart k t else s)

/-- Whether a coded edge selection takes an edge (R384, R397). -/
def edgeTaken (sel : Nat) (rising : Bool) : Bool := decide (sel = 2) || decide (sel = if rising then 0 else 1)

/-- Whether a unit's source has an event with an edge of a pin, or for a clock with none (R384). -/
def State.tmrEdge (s : State) (u : Nat) (edge : Option (Nat × Bool)) : Bool :=
  match edge with
  | some (tin, rising) => decide (s.get (TMR.SRC u) = 4) && decide (s.get (TMR.TIN u) = tin) && edgeTaken (s.get (TMR.EDGE u)) rising
  | none => decide (s.get (TMR.SRC u) < 3)

/-- TIMER_COUNT_STEP: an event of the unit's source: a cycle of its clock, or an edge of pin TIN (R384 to R400). The tick source and a
leader's pulses act with the commands that make them. -/
def execTimerCountStep (t : Nat) (u : CountEdge) (s : State) : Host.Outcome State Fault Refusal :=
  .next (
    let s := s.reach t
    if !s.tmrEdge u.unit u.edge ∨ s.get (TMR.FOLLOW u.unit) = 3 ∨ 4 ≤ u.unit then s else s.tmrSource [u.unit] [] t)

/-- A selected edge of TIN is captured at `t`, 2 timer clocks after it; the entry carries the split of the edge (R397, R398). -/
def State.capture (s : State) (t tin : Nat) (rising : Bool) : State :=
  (List.range 32).foldl (fun s n =>
    if s.get (TMR.MODE n) = 2 ∧ s.get (TMR.CSRC n) = tin ∧ edgeTaken (s.get (TMR.CEDGE n)) rising ∧ s.flag (Hdr.EN (0x28 + n / 8)) then
      let c := s.get (TMR.CNT (n / 8))
      let s := ((s.put (TMR.CAP n) c).put (TMR.CAPT n) 1).count (TMR.CCNT n)
      let s := (s.evt (0x28 + n / 8) (n % 8)).setTch n (fun h => { h with hits := min (h.hits + 1) 255, cap := true })
      s.tmrEntry n 0x21 c (s.splitAt (t - 8)) t
    else s) s

/-- An edge that is captured at `t`; one whose split is that of the next tick or later waits for the tick (R76, R77). -/
def State.captureAt (s : State) (t tin : Nat) (rising : Bool) : State :=
  if s.tickPast (t - 8) then { s with ahead := s.ahead ++ [.capture t tin rising] } else s.capture t tin rising

/-- CAPTURE_EDGE: an edge of TIN; the command comes at the latch, 2 timer clocks later, so the count in force is the one latched
(R397, R398). -/
def execCaptureEdge (t tin : Nat) (rising : Bool) (s : State) : Host.Outcome State Fault Refusal :=
  .next ((s.reach t).captureAt t tin rising)

/-- Events that were reported before the tick they follow take effect behind it (R76, R77, R364). -/
def State.aheadDue (s : State) : State :=
  s.ahead.foldl (fun s e => match e with
    | .level t n => s.debounceAt t n
    | .capture t tin rising => s.captureAt t tin rising) { s with ahead := [] }

end Sys2Proof.Machine
end

