-- ==== Sys2Proof/Machine/Switch.lean ====
section
/-! DEFINITION. The switch: buffer, MAC table, streams, gates, egress selection and gPTP time (R470 to R511). -/
namespace Sys2Proof.Machine

/-- A port at reset. -/
def portInit : PortSt :=
  { queues := [[], [], [], [], [], [], [], []], cur := none, held := none, cutShort := false, credit5 := 0, credit6 := 0, creditAt := 0, rxWin := 0,
    dropWin := 0 }

/-- A port beside its registers. -/
def State.port (s : State) (p : Nat) : PortSt := look portInit s.sw.ports p

/-- Updates a port. -/
def State.setPort (s : State) (p : Nat) (f : PortSt → PortSt) : State :=
  { s with sw := { s.sw with ports := store portInit p (f (s.port p)) s.sw.ports } }

/-- A free way of the MAC table. -/
def macInit : MacEnt := { mac := 0, fid := 0, ports := 0, fixed := false, seen := 0 }

/-- A stream entry at reset (R511). -/
def sflInit : SflEnt :=
  { w0 := 0, w1 := 0, w2 := 0x64F80000, w3 := 0, matched := 0, dropped := 0, lost := 0, rogue := 0, resets := 0, oneway := false,
    seq := 0, takeAny := true, hist := [], tokens := 0, tokensAt := 0, port := none }

/-- A stream entry. -/
def State.stream (s : State) (i : Nat) : SflEnt := look sflInit s.sw.sfl i

/-- Updates a stream entry. -/
def State.setStream (s : State) (i : Nat) (f : SflEnt → SflEnt) : State :=
  { s with sw := { s.sw with sfl := store sflInit i (f (s.stream i)) s.sw.sfl } }

/-- Entry 0 of the stream table takes the window's image values (log entry 39). -/
def State.loadStream (s : State) : State :=
  let w := fun i => (s.rd 0x4A (0x110 + 4 * i)).toNat
  s.setStream 0 (fun e => { e with w0 := w 0, w1 := w 1, w2 := w 2, w3 := w 3 })

/-- A bit field of a stream word. -/
def wbits (w lo width : Nat) : Nat := (w >>> lo) % 2 ^ width

/-- The function of an entry (R490, R491). -/
def SflEnt.func (e : SflEnt) : Nat := wbits e.w2 17 2

/-- A port's list before any change. -/
def tasInit : TasSt := { oper := [], cycle := 1000000, start := 0, pos := 0, due := 0, pend := none }

/-- The list of a port. -/
def State.tas (s : State) (p : Nat) : TasSt := look tasInit s.sw.tas p

/-- Updates the list of a port. -/
def State.setTas (s : State) (p : Nat) (f : TasSt → TasSt) : State :=
  { s with sw := { s.sw with tas := store tasInit p (f (s.tas p)) s.sw.tas } }


/-! Gates and credits (R484, R485). -/

/-- The line rate of a port in Mbit/s. -/
def portRate (p : Nat) : Nat := if p < 2 then 10000 else 1000

/-- Whether the gate of a class is open (R485). -/
def State.gateOpen (s : State) (p c : Nat) : Bool :=
  if s.flag (TAS.EN p) ∧ s.flag (Hdr.EN 0x49) then bitAt (s.get (TAS.PSTAT_GATES p)) c else true

/-- The credit of a shaped class after the time since its last update (R484). -/
def creditStep (slope rate c : Int) (dt : Nat) (sending waiting gate : Bool) : Int :=
  if !gate then c
  else if sending then c + (slope - rate) * Int.ofNat dt
  else if waiting then c + slope * Int.ofNat dt
  else if c < 0 then min 0 (c + slope * Int.ofNat dt) else 0

/-- Credits up to `t`, over a time in which gates, queues and the frame in transmission stayed as they are; a preempted frame
counts as sending (R484). -/
def State.creditTo (s : State) (p t : Nat) : State :=
  let r := s.port p
  let dt := t - r.creditAt
  let rate : Int := Int.ofNat (1000 * portRate p)
  let step := fun (c : Int) (slope q : Nat) =>
    let sending := (match r.cur with | some x => decide (x.frame.cls = q) | none => false)
      || (match r.held with | some x => decide (x.1.cls = q) | none => false)
    if slope = 0 then 0 else creditStep (Int.ofNat slope) rate c dt sending (!(r.queues.getD q []).isEmpty) (s.gateOpen p q)
  let c5 := step r.credit5 (s.get (PT.CBS5_IDLESLOPE p)) 5
  let c6 := step r.credit6 (s.get (PT.CBS6_IDLESLOPE p)) 6
  s.setPort p (fun r => { r with credit5 := c5, credit6 := c6, creditAt := max t r.creditAt })

/-! Buffer (R481). -/

/-- The length of a frame on the wire at an egress, FCS included. -/
def EthFrame.len (f : EthFrame) : Nat :=
  max 64 (f.body.length + 4 + (if f.untag then 0 else 4) + (if f.rtag.isSome then 6 else 0))

/-- Cells a frame takes. -/
def EthFrame.cells (f : EthFrame) : Nat := (f.len + 255) / 256

/-- Cells that a fill draws from the shared pool. -/
def sharedUse (res fill : Nat) : Nat := fill - res

/-- The shared cells free: the total less all reservations and shared use. -/
def State.swFree (s : State) : State :=
  let used := (List.range 6).foldl (fun a p => (List.range 8).foldl (fun a q =>
    a + s.get (PT.RES p q) + sharedUse (s.get (PT.RES p q)) (s.get (PT.FILL p q))) a) 0
  let s := s.put SWC.FREE (8192 - used)
  if 8192 - used < 256 then s.evt 0x40 2 else s

/-- Whether a port forwards: its page, the switch's page and NET run. -/
def State.portOn (s : State) (p : Nat) : Bool := s.flag (Hdr.EN (0x41 + p)) && s.flag (Hdr.EN 0x40) && !s.unitHeld (0x41 + p) p && !s.flag CLK.FAILWAIT

/-- Queues a frame at an egress of the ring or zone, or drops it at the tail; the credits are settled before (R481, R484). -/
def State.swEnqueue (s : State) (p : Nat) (f : EthFrame) : State :=
  let s := s.creditTo p f.last
  let q := f.cls
  let fill := s.get (PT.FILL p q)
  let res := s.get (PT.RES p q)
  let n := f.cells
  if fill + n ≤ s.get (PT.MAX p q) ∧ sharedUse res (fill + n) ≤ sharedUse res fill + s.get SWC.FREE then
    ((s.put (PT.FILL p q) (fill + n)).setPort p (fun r => { r with queues := r.queues.set q (r.queues.getD q [] ++ [f]) })).swFree
  else
    let s := (s.count (PT.DROPS p q)).setPort p (fun r => { r with dropWin := min (r.dropWin + 1) 65535 })
    if q = 7 ∧ s.get (PT.FILL p q) + n ≤ s.get (PT.MAX p q) then s.detect 0xCF p else s

/-! MAC table (R477). -/

/-- The ways of the bucket of an address. -/
def macWays (mac fid : Nat) : List Nat := (List.range 4).map (fun w => 4 * (Config.macBucket mac fid % 1024) + w)

/-- The entry of an address in a VLAN. -/
def State.macFind (s : State) (mac fid : Nat) : Option (Nat × MacEnt) :=
  s.sw.macs.find? (fun (e : Nat × MacEnt) => decide (e.2.mac = mac) && decide (e.2.fid = fid))

/-- Puts an entry of the MAC table. -/
def State.setMac (s : State) (i : Nat) (e : Option MacEnt) : State :=
  let m := match e with | some v => ins i v s.sw.macs | none => del i s.sw.macs
  ({ s with sw := { s.sw with macs := m } }).put SWC.ENTRIES m.length

/-- Learns a source address (R477). -/
def State.macLearn (s : State) (mac fid p t : Nat) : State :=
  if ¬ s.flag SWC.LEARN ∨ bitAt (mac / 2 ^ 40) 0 then s
  else match s.macFind mac fid with
    | some (i, e) =>
      if e.fixed then s
      else
        let s := if e.ports = 1 <<< p then s else s.evt 0x40 1
        s.setMac i (some { e with ports := 1 <<< p, seen := t })
    | none =>
      match (macWays mac fid).find? (fun w => s.sw.macs.all (fun (e : Nat × MacEnt) => decide (e.1 ≠ w))) with
      | some w => s.setMac w (some { mac := mac, fid := fid, ports := 1 <<< p, fixed := false, seen := t })
      | none => (s.count SWC.LEARNFAIL).evt 0x40 0

/-! Streams (R488 to R492). -/

/-- The first valid entry whose identification matches (R488). A stopped page filters and replicates nothing (R474). -/
def State.sflFind (s : State) (dst src vid : Nat) : Option Nat :=
  if ¬ s.flag (Hdr.EN 0x4A) then none
  else (s.sw.sfl.find? (fun (x : Nat × SflEnt) =>
    bitAt x.2.w1 31 && decide (wbits x.2.w1 16 12 = vid)
      && decide (x.2.w0 * 65536 + wbits x.2.w1 0 16 = if bitAt x.2.w1 28 then src else dst))).map (·.1)

/-- Saturating count of a stream's counter. -/
def sat (width n : Nat) : Nat := min n (2 ^ width - 1)

/-- The ingress filters of a stream on a frame of `len` bytes at `t` (R489): whether it passes. -/
def State.sflFilter (s : State) (i len t : Nat) : State × Bool :=
  let e := s.stream i
  let s := s.setStream i (fun e => { e with matched := sat 32 (e.matched + 1) })
  let drop := fun (s : State) => s.setStream i (fun e => { e with dropped := sat 32 (e.dropped + 1) })
  let sdu := wbits e.w2 0 14
  if bitAt e.w2 14 ∧ bitAt e.w2 15 then (drop s, false)
  else if sdu ≠ 0 ∧ sdu < len then
    let s := drop s
    if bitAt e.w2 14 then
      (((s.setStream i (fun e => { e with w2 := setBit e.w2 15 })).evt 0x4A 0).detect 0xD2 i, false)
    else (s, false)
  else if bitAt e.w2 16 then
    let cap := 256 * wbits e.w3 24 8 * 8000000
    let have_ := min cap (e.tokens + (t - e.tokensAt) * wbits e.w3 0 24)
    let need := len * 8000000
    if have_ < need then (drop (s.setStream i (fun e => { e with tokens := have_, tokensAt := t })), false)
    else (s.setStream i (fun e => { e with tokens := have_ - need, tokensAt := t }), true)
  else (s, true)

/-- The vector recovery of IEEE 802.1CB that R491 names: whether a sequence number is delivered. -/
def State.frerAccept (s : State) (i seq t : Nat) : State × Bool :=
  let e := s.stream i
  let n := wbits e.w2 19 5 + 1
  let arm := fun (s : State) => s.arm (.frerReset i) (t + ms (wbits e.w2 24 8))
  if e.takeAny then
    (arm (s.setStream i (fun e => { e with takeAny := false, seq := seq, hist := true :: List.replicate (n - 1) false })), true)
  else
    let d := (seq + 65536 - e.seq) % 65536
    if d = 0 then (s, false)
    else if d < 32768 then
      if n ≤ d then (s.setStream i (fun e => { e with rogue := sat 16 (e.rogue + 1) }), false)
      else
        let full := true :: (List.replicate (d - 1) false ++ e.hist)
        let out := ((full.drop n).filter (fun b => !b)).length
        let s := s.setStream i (fun e => { e with seq := seq, hist := full.take n, lost := sat 16 (e.lost + out) })
        (arm { s with sw := { s.sw with lostWin := s.sw.lostWin + out } }, true)
    else
      let b := 65536 - d
      if n ≤ b then (s.setStream i (fun e => { e with rogue := sat 16 (e.rogue + 1) }), false)
      else if e.hist.getD b false then (s, false)
      else (arm (s.setStream i (fun e => { e with hist := e.hist.set b true })), true)

/-- A replica of a recovering stream arrives on B port `p`: ONEWAY (R492). -/
def State.frerPath (s : State) (i p t : Nat) : State :=
  let e := s.stream i
  match e.port with
  | none => s.setStream i (fun e => { e with port := some (p, t) })
  | some (q, since) =>
    if p ≠ q then s.setStream i (fun e => { e with port := some (p, t), oneway := false })
    else if t ≥ since + ms (wbits e.w2 24 8) ∧ ¬ e.oneway then
      ((s.setStream i (fun e => { e with oneway := true })).evt 0x4A 1).detect 0xD3 i
    else s

/-! Host port (R480, R497, R498). -/

/-- The octets of a frame from the destination address on, tagged where it leaves tagged, padded to the minimum. -/
def EthFrame.octets (f : EthFrame) : List Byte :=
  let tag := if f.untag then [] else beBytes 2 0x8100 ++ beBytes 2 (f.prio * 8192 + f.vid)
  let rt := match f.rtag with | some q => beBytes 2 0xF1C1 ++ beBytes 2 0 ++ beBytes 2 q | none => []
  let b := f.body.take 12 ++ tag ++ rt ++ f.body.drop 12
  b ++ List.replicate (60 - b.length) 0

/-- The EtherType of a frame. -/
def EthFrame.etype (f : EthFrame) : Nat := beVal ((f.body.drop 12).take 2)

/-- Writes a frame to a receive ring (R497). -/
def State.hostReceive (s : State) (f : EthFrame) : State :=
  let r := wbits (s.get PH.RXMAP) (2 * f.cls) 2
  let drop := s.count PH.RXDROP
  if ¬ (s.flag (PH.EN r) ∧ s.flag (Hdr.EN 0x47)) ∨ s.get (PH.SIZE r) = 0 then drop
  else
    let d := s.get (PH.BASE r) + 16 * s.get (PH.NEXT r)
    let bs := f.octets
    let buf := s.le d 4
    if ¬ bitAt (s.le (d + 12) 1) 0 ∨ s.le (d + 4) 2 < bs.length ∨ buf < 0x200000 ∨ 0x2E0000 < buf + bs.length then drop
    else
      let s := s.setBytes buf bs
      let s := s.setBytes (d + 6) (leBytes 2 bs.length ++ leBytes 4 (s.splitAt f.last)
        ++ [0, BitVec.ofNat 8 f.cls, BitVec.ofNat 8 f.ingress, 0])
      (s.put (PH.NEXT r) ((s.get (PH.NEXT r) + 1) % s.get (PH.SIZE r))).evt 0x47 r

/-- A pool buffer whose OWNER is 0, taken after the last one in ascending order (R428, R498). -/
def State.poolTake (s : State) (base count size last : Nat) : Option Nat :=
  ((List.range count).map (fun k => (last + 1 + k) % count)).find? (fun k => !bitAt (s.le (base + size * k) 4) 31)

/-- Delivers a frame to the mailbox, its entry written at `t` (R498). -/
def State.mailbox (s : State) (f : EthFrame) (t : Nat) : State :=
  let drop := fun (s : State) =>
    ({ s with sw := { s.sw with mbDrops := min (s.sw.mbDrops + 1) 65535 } }.count SWC.DROPS).evt 0x40 3
  let base := 0x200000 + 16 * s.get SWC.BASE
  let k := s.get SWC.QUEUE
  let bs := f.octets
  match s.poolTake base (s.get SWC.COUNT) 272 s.sw.mbLast with
  | none => drop s
  | some b =>
    if s.get (BQ.DEPTH k) = 0 ∨ (s.qFull k ∧ ¬ s.flag (BQ.FULLPOL k)) then drop (s.hwRef k 0x47 f.ingress 0x40 0 (s.splitAt t) t)
    else
      let a := base + 272 * b
      let s := (s.setLe a 4 (bs.length + 2 ^ 31)).setBytes (a + 4) bs
      let s := { s with sw := { s.sw with mbLast := b, mbEntries := min (s.sw.mbEntries + 1) 65535 } }
      s.hwRef k 0x47 f.ingress 0x40 a (s.splitAt t) t

/-! Forwarding (R476 to R480, R490, R491). -/

/-- The VLAN table index of a VID. -/
def State.vlanOf (s : State) (vid : Nat) : Option Nat :=
  (List.range 64).find? (fun v => s.flag (SWC.VLAN_VALID v) && decide (s.get (SWC.VLAN_VID v) = vid))

/-- The destination address of a frame. -/
def EthFrame.dst (f : EthFrame) : Nat := beVal (f.body.take 6)
/-- The source address of a frame. -/
def EthFrame.src (f : EthFrame) : Nat := beVal ((f.body.drop 6).take 6)

/-- The switch's own address (R480). -/
def State.hostMac (s : State) : Nat := s.get SWC.HOSTMACHI * 65536 + s.get SWC.HOSTMACLO

/-- The destination ports of a frame in VLAN entry `v` (R478). -/
def State.destPorts (s : State) (f : EthFrame) (v : Nat) : List Nat :=
  let member := s.get (SWC.MEMBER v)
  let known := s.macFind f.dst v
  let mask := if f.dst = s.hostMac then 64 else match known with
    | some (_, e) => if bitAt (f.dst / 2 ^ 40) 0 ∧ ¬ e.fixed then member else e.ports
    | none => member
  (List.range 7).filter (fun p => bitAt mask p && bitAt member p && decide (p ≠ f.ingress))

/-- Whether a frame is a request of remote access (R480). -/
def State.isRra (s : State) (f : EthFrame) : Bool := decide (f.dst = s.hostMac) && decide (f.etype = 0x88B5)

/-- Delivers a frame to the host port: the mailbox or a ring. Requests of remote access are RRA's (R480). -/
def State.hostDeliver (s : State) (f : EthFrame) (t : Nat) : State :=
  if ¬ s.flag (Hdr.EN 0x47) ∨ s.isRra f then s
  else if f.etype = s.get SWC.ETYPE ∧ f.etype ≠ 0 ∧ f.etype ≠ 0x88B5 ∧ f.cls = 7 ∧ f.len ≤ 256 then s.mailbox f t
  else s.hostReceive f

/-- Sends a frame to the ports of `dests` that its stream entry leaves it, untagged at those of the mask `untag` (R476, R479,
R490, R491). -/
def State.swSpread (s : State) (f : EthFrame) (dests : List Nat) (untag : Nat) (stream : Option Nat) (t : Nat) : State :=
  let func := match stream with | some i => (s.stream i).func | none => 0
  let ring := decide (f.ingress < 2)
  let deliver := fun (s : State) (f : EthFrame) (ps : List Nat) => ps.foldl (fun s p =>
    if p = 6 then s.hostDeliver { f with untag := bitAt untag 6 } t
    else if s.portOn p then s.swEnqueue p { f with untag := bitAt untag p } else s) s
  match stream, func with
  | some i, 1 =>
    let q := (s.stream i).seq
    let s := s.setStream i (fun e => { e with seq := (e.seq + 1) % 65536 })
    let s := deliver s { f with rtag := some q } [0, 1]
    deliver s f (dests.filter (2 ≤ ·))
  | some i, 2 =>
    match ring, f.rtag with
    | true, some q =>
      let s := deliver (s.frerPath i f.ingress t) f [1 - f.ingress]
      let a := s.frerAccept i q t
      if a.2 then deliver a.1 { f with rtag := none } (dests.filter (2 ≤ ·)) else a.1
    | _, _ => deliver s f dests
  | _, _ => deliver s f (dests.filter (fun p => decide (2 ≤ p) || s.get (PT.BLOCKNF p) = 0))

/-- Sends a frame to its egress ports and the host (R478); `stream` is its stream entry. -/
def State.swForward (s : State) (f : EthFrame) (stream : Option Nat) (t : Nat) : State :=
  match s.vlanOf f.vid with
  | none => s
  | some v => s.swSpread f (s.destPorts f v) (s.get (SWC.UNTAG v)) stream t

/-- A frame whose FCS proves bad has left by cut-through, with an inverted FCS, at every egress where the conditions of R482
held; elsewhere it is dropped. A frame that needs an R-TAG or a check of its SDU takes no cut-through, and no frame to H does.
The filters of its stream and the recovery that leaves it to the local members have acted on it before the FCS came (log
entry 28). -/
def State.cutThrough (s : State) (f : EthFrame) (v len t : Nat) : State :=
  let stream := s.sflFind f.dst f.src f.vid
  let e := match stream with | some i => s.stream i | none => sflInit
  let dests := s.destPorts f v
  let replica := decide (e.func = 2) && decide (f.ingress < 2) && f.rtag.isSome
  let ports : List Nat := match e.func with
    | 1 => if f.ingress < 2 then [] else dests.filter (2 ≤ ·)
    | 2 => if replica then [1 - f.ingress] ++ dests.filter (2 ≤ ·) else dests
    | _ => if f.ingress < 2 ∧ s.flag (PT.BLOCKNF f.ingress) then []
        else dests.filter (fun p => decide (2 ≤ p) || s.get (PT.BLOCKNF p) = 0)
  let ports : List Nat := ports.filter (fun p => decide (p < 6) && s.portOn p && (decide (2 ≤ p) || decide (f.ingress < 2))
      && ((s.port p).queues.getD f.cls []).isEmpty)
  if ¬ s.flag SWC.CTEN ∨ wbits e.w2 0 14 ≠ 0 ∨ ports.isEmpty then s
  else
    let r := match stream with | some i => s.sflFilter i len t | none => (s, true)
    if ¬ r.2 then r.1
    else
      let a := match stream, f.rtag with
        | some i, some q => if replica then (r.1.frerPath i f.ingress t).frerAccept i q t else (r.1, true)
        | _, _ => (r.1, true)
      (ports.filter (fun p => a.2 || decide (p < 2))).foldl
        (fun s p => s.swEnqueue p { f with untag := bitAt (s.get (SWC.UNTAG v)) p, bad := true,
                                           rtag := if replica && decide (2 ≤ p) then none else f.rtag }) a.1

/-- A frame that the part itself sends into the switch at class 7 priority `prio` (R460, R499, R62). VID 0 sends it untagged:
on the ports of VLAN 1, as an untagged frame of the host, or on every port where VLAN 1 is not in use (R469, R506; DESIGN
CHOICE, log entry 97). -/
def State.swOriginate (s : State) (dst vid prio etype : Nat) (payload : List Byte) (t : Nat) : State :=
  if ¬ s.flag (Hdr.EN 0x40) then s
  else
    let b := beBytes 6 dst ++ beBytes 6 s.hostMac ++ beBytes 2 etype ++ payload
    let f : EthFrame :=
      { vid := vid, prio := prio, cls := prio, rtag := none, body := b ++ List.replicate (60 - b.length) 0, ingress := 6, last := t,
        untag := false, bad := false }
    let stream := s.sflFind f.dst f.src f.vid
    if vid ≠ 0 then s.swForward f stream t
    else s.swSpread f (match s.vlanOf 1 with | some v => s.destPorts f v | none => List.range 6) 0x7F stream t

/-- The heartbeat at a tick (R499). -/
def State.heartbeat (s : State) (errn : Bool) (t : Nat) : State :=
  let per := s.get SWC.PER
  if per = 0 ∨ s.lap % per ≠ 0 then s
  else
    let b7 := b2n errn + 2 * b2n (s.flag FCR.SAFE) + 4 * b2n s.stride.prevOvr
    s.swOriginate (s.get SWC.HBMACHI * 65536 + s.get SWC.HBMACLO) (s.get SWC.HB_VID) (s.get SWC.PCP) 0x88B6
      ([0x14] ++ beBytes 6 s.lap ++ [BitVec.ofNat 8 b7]) t

/-! Egress (R482 to R487, R502). -/

/-- Wire time of a frame in ns with preamble and inter-frame gap (R486). -/
def wireTime (p len : Nat) : Nat := ((len + 20) * 8000 + portRate p - 1) / portRate p

/-- The inter-frame gap that ends a wire time, in ns. -/
def frameGap (p : Nat) : Nat := 96000 / portRate p

/-- The gates of a list with the time each entry lasts in a cycle of `left` ns: a list whose intervals of 8 ns steps fall short
fills the rest with its last entry, and one that exceeds the cycle is cut (R485). -/
def fillCycle : List (Nat × Nat) → Nat → List (Nat × Nat)
  | [], _ => []
  | [e], left => [(e.1, left)]
  | e :: r, left => (e.1, min (8 * e.2) left) :: fillCycle r (left - 8 * e.2)

/-- Time until the gate of an open class closes; `none` where it never does (R486). -/
def State.gateLeft (s : State) (p c t : Nat) : Option Nat :=
  if ¬ (s.flag (TAS.EN p) ∧ s.flag (Hdr.EN 0x49)) then none
  else
    let r := s.tas p
    let spans := fillCycle r.oper r.cycle
    let rest := (spans.drop (r.pos + 1) ++ spans).filter (fun e => decide (0 < e.2))
    if rest.all (fun e => bitAt e.1 c) then none
    else some ((r.due - s.gptp t) + ((rest.takeWhile (fun e => bitAt e.1 c)).map (·.2)).sum)

/-- The end of a frame whose transmission is over by `t`, and the credits up to `t` (R484, R502). -/
def State.portSettle (s : State) (p t : Nat) : State :=
  match (s.port p).cur with
  | none => s.creditTo p t
  | some x =>
    if t < x.ends then s.creditTo p t
    else
      let f := x.frame
      let s := (s.creditTo p x.ends).setPort p (fun r => { r with cur := none })
      let s := ((s.put (PT.FILL p f.cls) (s.get (PT.FILL p f.cls) - f.cells)).count (PT.TXFR p f.cls)).count (PT.TXFRAMES p)
      let s := s.swFree
      let s := if f.cls = 7 then
          let res := x.ends - frameGap p - f.last
          let s := if res > s.get (PT.C7MAX p) then s.put (PT.C7MAX p) (min res 65535) else s
          if res > 2400 then ((s.count (PT.C7OVER p)).evt (0x41 + p) 4).detect 0xCE p else s
        else s
      s.creditTo p t

/-- The class whose head may start now: the highest of those that `ok` names that its gate, the fit and its credit allow (R483,
R486). -/
def State.eligible (s : State) (p t : Nat) (ok : Nat → Bool) : Option Nat :=
  [7, 6, 5, 4, 3, 2, 1, 0].find? (fun c => ok c &&
    match (s.port p).queues.getD c [] with
    | [] => false
    | f :: _ =>
      s.gateOpen p c
        && (match s.gateLeft p c t with | some d => decide (wireTime p f.len ≤ d) | none => true)
        && (if c = 5 ∧ s.get (PT.CBS5_IDLESLOPE p) ≠ 0 then decide (0 ≤ (s.port p).credit5) else true)
        && (if c = 6 ∧ s.get (PT.CBS6_IDLESLOPE p) ≠ 0 then decide (0 ≤ (s.port p).credit6) else true))

/-- Starts the head of a class. -/
def State.startTx (s : State) (p c t : Nat) : State :=
  match (s.port p).queues.getD c [] with
  | [] => s
  | f :: rest =>
    s.setPort p (fun r => { r with
      queues := r.queues.set c rest, cur := some { frame := f, ends := t + wireTime p f.len },
      cutShort := r.cutShort && r.held.isSome })

/-- Whether a class is express on a port (R487). -/
def State.isExpress (s : State) (p c : Nat) : Bool := !s.flag (PT.ACTIVE p) || bitAt (s.get (PT.EXPRESS p)) c

/-- One transmission opportunity (R483, R487). Only an express class starts over a preemptable frame, in transmission or
preempted. A frame that is preempted more than once is one yield (R32). -/
def State.transmit (s : State) (p t : Nat) : State :=
  let s := s.portSettle p t
  let r := s.port p
  let express := s.eligible p t (s.isExpress p)
  match r.cur with
  | some x =>
    match express with
    | some c =>
      let left := x.ends - t
      let min_ := wireTime p (64 * (1 + s.get (PT.ADDFRAG p)))
      if s.flag (PT.ACTIVE p) ∧ ¬ s.isExpress p x.frame.cls ∧ min_ ≤ left ∧ r.held.isNone then
        let s := (s.count (PT.PREEMPTED p)).setPort p (fun r => { r with cur := none, held := some (x.frame, left), cutShort := true })
        let s := if (x.frame.cls = 5 ∨ x.frame.cls = 6) ∧ ¬ r.cutShort then s.yieldOnce 8 7 p t else s
        s.startTx p c t
      else s
    | none => s
  | none =>
    match r.held, express with
    | some _, some c => s.startTx p c t
    | some h, none => s.setPort p (fun r => { r with held := none, cur := some { frame := h.1, ends := t + h.2 } })
    | none, _ =>
      match s.eligible p t (fun _ => true) with
      | some c => s.startTx p c t
      | none => s

/-- The stop of a port discards its queues; the frame in transmission ends first (R474). -/
def State.portStop (s : State) (p t : Nat) : State :=
  let s := s.portSettle p t
  let n := ((s.port p).queues.map List.length).sum
  let s := (s.count (PT.TXDROP p) n).setPort p (fun r => { r with queues := portInit.queues })
  let keep := fun (q : Nat) =>
    (match (s.port p).cur with | some x => if x.frame.cls = q then x.frame.cells else 0 | none => 0)
      + (match (s.port p).held with | some x => if x.1.cls = q then x.1.cells else 0 | none => 0)
  ((List.range 8).foldl (fun s q => s.put (PT.FILL p q) (keep q)) s).swFree

/-- Whether a port still transmits at its stop. -/
def State.portBusy (s : State) (p : Nat) : Bool := (s.port p).cur.isSome || (s.port p).held.isSome

/-! Gate lists (R485). -/

/-- The first cycle start at which an administrative list takes effect. -/
def tasStart (bt cyc now : Nat) : Nat := if now ≤ bt then bt else bt + ((now - bt) / cyc + 1 + b2n ((now - bt) % cyc ≠ 0)) * cyc

/-- A write of CFGCHG (R485, R510). -/
def State.tasCfgchg (s : State) (p t : Nat) : State :=
  if s.get (TAS.ADMLEN p) = 0 then s.put (TAS.CHGERR p) 1
  else
    let bt := s.get (TAS.ADMBTL p) + 2 ^ 32 * s.get (TAS.ADMBTH p)
    (s.put (TAS.CFGPEND p) 1).setTas p (fun r => { r with pend := some (tasStart bt (s.get (TAS.ADMCYC p)) (s.gptp t)) })

/-- The administrative entry `i` of port `p`. -/
def State.gclEntry (s : State) (p i : Nat) : Nat × Nat := look (0xFF, 0) s.sw.gcl (256 * p + i)

/-- FREE of a port: its list runs while TSY has no lock (R485). -/
def State.tasFree (s : State) (p : Nat) : State := s.put (TAS.FREE p) (b2n (!(s.tas p).oper.isEmpty && !s.flag TSY.LOCK))

/-- Puts entry `k` of a port's list in force from gPTP instant `g`. -/
def State.tasEnter (s : State) (p k g : Nat) : State :=
  match (fillCycle (s.tas p).oper (s.tas p).cycle)[k]? with
  | none => s
  | some e =>
    let s := s.setTas p (fun r => { r with pos := k, start := if k = 0 then g else r.start, due := g + e.2 })
    (s.put (TAS.PSTAT_GATES p) e.1).tasFree p


/-! Stops and tables. -/

/-- The snapshot's switch record (R503). -/
def State.swRecord (s : State) : List Byte :=
  (List.range 6).flatMap (fun p =>
    let held := ((List.range 8).map (fun q => s.get (PT.FILL p q))).sum
    leBytes 1 (s.get (PT.UP p) + 2 * s.get (PT.ACTIVE p) + 4 * s.get (TAS.FREE p)) ++ leBytes 1 0
      ++ leBytes 2 (s.port p).rxWin ++ leBytes 2 (s.port p).dropWin ++ leBytes 2 held)
  ++ leBytes 2 s.sw.mbEntries ++ leBytes 2 s.sw.mbDrops ++ leBytes 4 0
  ++ leBytes 1 (s.get TSY.LOCK + 2 * s.get TSY.HOLDOVER + 4 * s.get TSY.RCLKOK) ++ leBytes 1 (s.get TSY.SLAVE) ++ leBytes 2 0
  ++ leBytes 4 (s.get TSY.OFFSET)
  ++ leBytes 2 ((s.sw.sfl.filter (fun (e : Nat × SflEnt) => e.2.oneway)).length) ++ leBytes 2 (min s.sw.lostWin 65535) ++ leBytes 4 0

/-- The window counts of the switch start anew (R503). -/
def State.swWindow (s : State) : State :=
  let s := (List.range 6).foldl (fun s p =>
    if (s.port p).rxWin = 0 ∧ (s.port p).dropWin = 0 then s else s.setPort p (fun r => { r with rxWin := 0, dropWin := 0 })) s
  { s with sw := { s.sw with mbEntries := 0, mbDrops := 0, lostWin := 0 } }

/-- Entry to holdover (R495, R504). -/
def State.holdover (s : State) : State :=
  if s.flag TSY.HOLDOVER then s else ((s.put TSY.HOLDOVER 1).evt 0x48 1).detect 0xD1 0

/-- The loss of the grand master is reported (R101, R495): the local time goes on at the last measured rate. -/
def State.gmLoss (s : State) : State :=
  let s := ({ s with sw := { s.sw with tsy := { s.sw.tsy with good := 0 } } }.put TSY.LOCK 0).holdover
  let s := (List.range 6).foldl (fun s p => s.tasFree p) s
  ((s.put STR.ALIGNED 0).put STR.HOLDOVER 1).evt 0x09 4

/-! Commands. -/

/-- ETH_TRANSMIT_OPPORTUNITY: an egress port selects its next frame (R483 to R487). -/
def execEthTransmitOpportunity (t p : Nat) (s : State) : Host.Outcome State Fault Refusal :=
  .next (let s := s.reach t; if p < 6 ∧ s.flag (PT.UP p) ∧ (s.portOn p ∨ s.portBusy p) then s.transmit p t else s)

/-- PREEMPT_VERIFY: verification ends (R487). -/
def execPreemptVerify (t p : Nat) (ok : Bool) (s : State) : Host.Outcome State Fault Refusal :=
  .next (
    let s := s.reach t
    if ¬ (p < 2 ∧ s.flag (PT.EN p) ∧ s.get (PT.VERIFY p) = 1) then s
    else if ok then ((s.put (PT.VERIFY p) 2).put (PT.ACTIVE p) 1).evt (0x41 + p) 2
    else (((s.put (PT.VERIFY p) 3).put (PT.ACTIVE p) 0).evt (0x41 + p) 3).detect 0xCD p)

/-- MDIO_COMPLETE: the transaction ends (R473). -/
def execMdioComplete (t data : Nat) (turnaround : Bool) (s : State) : Host.Outcome State Fault Refusal :=
  .next (
    let s := s.reach t
    if ¬ s.flag SWC.MDIODATA_BUSY then s
    else
      let s := s.put SWC.MDIODATA_BUSY 0
      if s.get SWC.MDIOCMD_OP = 1 then
        (if turnaround then s.put SWC.DATA data else s).put SWC.ERR (b2n !turnaround)
      else s.put SWC.ERR 0)

/-- MAC_AGE_EXPIRY: a dynamic entry not refreshed within the ageing time is removed (R477). -/
def execMacAgeExpiry (t i : Nat) (s : State) : Host.Outcome State Fault Refusal :=
  .next (
    let s := s.reach t
    match s.sw.macs.find? (fun (e : Nat × MacEnt) => decide (e.1 = i)) with
    | some (_, e) => if ¬ e.fixed ∧ e.seen + ms (10000 * s.get SWC.AGE) ≤ t then s.setMac i none else s
    | none => s)

/-- TAS_CONFIG_CHANGE: the scheduled base time arrives (R485). -/
def execTasConfigChange (t p : Nat) (s : State) : Host.Outcome State Fault Refusal :=
  .next (
    let s := s.reach t
    match (s.tas p).pend with
    | none => s
    | some g =>
      if s.gptp t < g then s
      else
        let cyc := s.get (TAS.ADMCYC p)
        let list := (List.range (s.get (TAS.ADMLEN p))).map (s.gclEntry p)
        let s := (s.creditTo p t).setTas p (fun r => { r with oper := list, cycle := cyc, start := g, pos := 0, pend := none })
        ((s.put (TAS.CFGPEND p) 0).put (TAS.OPERLEN p) (s.get (TAS.ADMLEN p))).evt 0x49 p |>.tasEnter p 0 g)

/-- GATE_INTERVAL_END: the next gate states apply; a new cycle begins after ADMCYC (R485). -/
def execGateIntervalEnd (t p : Nat) (s : State) : Host.Outcome State Fault Refusal :=
  .next (
    let s := s.reach t
    let r := s.tas p
    if r.oper.isEmpty ∨ s.gptp t < r.due then s
    else if r.start + r.cycle ≤ r.due then (s.creditTo p t).tasEnter p 0 (r.start + r.cycle)
    else (s.creditTo p t).tasEnter p (r.pos + 1) r.due)

/-- FRER_RESET_TIMEOUT: no frame for RESETTO resets a stream's recovery (R491). -/
def execFrerResetTimeout (i : Nat) (s : State) : Host.Outcome State Fault Refusal :=
  .next (s.onExpiry (.frerReset i) (fun _ s =>
    s.setStream i (fun e => { e with takeAny := true, hist := [], port := none, resets := sat 16 (e.resets + 1) })))

/-- The Sync interval of a code in ns (R509). -/
def syncInterval (n : Nat) : Nat := 1000000000 / 2 ^ n

/-- The local time follows the master's; the lock comes with the eighth good Sync in a row (R495). -/
def State.gptpFollow (s : State) (t gm master good : Nat) (rate off : Int) : State :=
  let s := { s with sw := { s.sw with tsy := { s.sw.tsy with base := master, at_ := t, rate := rate, good := min good 8, gm := some gm } } }
  let s := ((s.put TSY.OFFSET (unsignedOf 32 off)).put TSY.RATE (unsignedOf 32 rate)).put TSY.GMIDHI (gm / 2 ^ 32)
  let s := (s.put TSY.GMIDLO gm).arm .gptp (t + s.get TSY.TIMEOUT * syncInterval (s.get TSY.SYNCLOG))
  if decide (8 ≤ good) && !s.flag TSY.LOCK then
    (List.range 6).foldl (fun s p => s.tasFree p) (((s.put TSY.LOCK 1).put TSY.HOLDOVER 0).evt 0x48 0)
  else s

/-- Whether a Sync on a port is heeded (R493). -/
def State.syncPort (s : State) (p : Nat) : Bool :=
  s.flag (Hdr.EN 0x48) && bitAt (s.get TSY.PORTEN) p && !(s.flag TSY.EXTCFG && decide (s.get TSY.SLAVEPORT ≠ p))

/-- The slave port and the grand master in use (R493, R495). -/
def State.gptpRole (s : State) (p gm : Nat) : State :=
  let s := if s.get TSY.SLAVE = p then s else (s.put TSY.SLAVE p).evt 0x48 2
  match s.sw.tsy.gm with
  | some g => if g = gm then s else s.gmLoss
  | none => s

/-- GPTP_SYNC_RECEIVED: a Sync message on the slave port: the master's identity, its time at the reception, and the
measured rate ratio less 1 (R493 to R495). -/
def execGptpSyncReceived (t p gm master : Nat) (rate : Int) (s : State) : Host.Outcome State Fault Refusal :=
  let s := s.reach t
  if s.syncPort p then
    let s := s.gptpRole p gm
    let off : Int := Int.ofNat (s.gptp t) - Int.ofNat master
    .next (s.gptpFollow t gm master (if off.natAbs ≤ s.get TSY.LOCKTH then s.sw.tsy.good + 1 else 0) rate off)
  else .next s

/-- GPTP_SYNC_TIMEOUT: TIMEOUT sync intervals pass without Sync (R495). -/
def execGptpSyncTimeout (s : State) : Host.Outcome State Fault Refusal :=
  .next (s.onExpiry .gptp (fun _ s => s.gmLoss))

/-- GPTP_PDELAY: a peer delay exchange of a port completes with a mean link delay in ns (R493, R509). -/
def execGptpPdelay (t p delay : Nat) (s : State) : Host.Outcome State Fault Refusal :=
  .next (let s := s.reach t; if p < 6 ∧ bitAt (s.get TSY.PORTEN) p ∧ s.flag (Hdr.EN 0x48) then s.put (TSY.PDELAY p) delay else s)

end Sys2Proof.Machine
end

