-- ==== Sys2Proof/Machine/Sleep.lean ====
section
/-! DEFINITION. Network sleep and wake: keep-alive management, false starts, the Baton ring, and the wake sources
(R446 to R466, R615, R618, R621). -/
namespace Sys2Proof.Machine

/-! Wakes and the arming of Cool-down. -/

/-- Starts Cool-down (R618, R619): the Stride context is no longer started, and the wake inputs are watched. -/
def State.coolStart (s : State) (t : Nat) : State :=
  match s.pwr.state with
  | .run | .idle =>
    { s with pwr := { s.pwr with state := .cooldown, waitPark := false } }.disarm .coolArm
      |>.arm .coolTo (t + ms (100 * s.get PWR.COOLCFG_COOLTO))
  | _ => s

/-- Sleep agreement arms Cool-down (R464, R618). -/
def State.coolArm (s : State) (t : Nat) : State :=
  let s := (s.put PWR.COOLARM 1).evt 0x02 1
  if s.pwr.waitPark then s.coolStart t else s.arm .coolArm (t + ms (10 * s.get PWR.ARMTO))

/-- A wake source becomes active (R615, R621, R622, R624); `bit` is its place in `BOOT.WAKESRC`. -/
def State.wakeSource (s : State) (bit : Nat) : State :=
  match s.pwr.state with
  | .doze | .dozeExit => (s.setFlag PWR.WAKEFLAG bit).evt 0x02 0
  | .park => { s with pwr := { s.pwr with wakes := setBit s.pwr.wakes bit } }
  | .waking => s
  | .run | .idle =>
    if s.flag PWR.COOLARM then { s with pwr := { s.pwr with wakes := setBit (setBit s.pwr.wakes bit) 10 } } else s
  | _ => { s with pwr := { s.pwr with wakes := setBit (setBit s.pwr.wakes bit) 10 } }

/-- Whether sleep agreement has armed Cool-down, or Cool-down runs: a wake is then latched for PARK (R464, R621). -/
def State.goesDown (s : State) : Bool :=
  match s.pwr.state with
  | .cooldown | .quiesce | .flush => true
  | .run | .idle => s.flag PWR.COOLARM
  | _ => false

/-- A wake without a bit of its own in `BOOT.WAKESRC` after agreement: bit 10 alone (R463, R464, R624; DEDUCED, log entry 79). -/
def State.wakeLatch (s : State) : State :=
  if s.goesDown then { s with pwr := { s.pwr with wakes := setBit s.pwr.wakes 10 } } else s

/-! Keep-alive management. -/

/-- A channel beside its registers, at reset. -/
def nmInit : NmSt := { seen := 0, wake := false, pend := false, later := [], owed := false }

/-- A channel beside its registers. -/
def State.nm (s : State) (x : Nat) : NmSt := look nmInit s.nms x

/-- Updates a channel beside its registers. -/
def State.setNm (s : State) (x : Nat) (f : NmSt → NmSt) : State := { s with nms := store nmInit x (f (s.nm x)) s.nms }

/-- What a reset of every level but KEEP leaves of the channels: wakes that wait for a valid frame, and masks to report
(R16, R455, R457). -/
def State.nmsKeep (s : State) : State :=
  { s with nms := (s.nms.filter (fun (e : Nat × NmSt) => e.2.pend || e.2.owed)).map (fun (e : Nat × NmSt) =>
      (e.1, { nmInit with pend := e.2.pend, later := e.2.later, owed := e.2.owed })) }

/-- Whether sleep agreement is met (R464). -/
def State.agreed (s : State) : Bool :=
  let sel := (List.range 8).filter (fun x => bitAt (s.get NMK.SLPSET) x && decide (s.get (NMK.STATE x) ≠ 0))
  sel.all (fun x => decide (s.get (NMK.STATE x) = 5))
    && (if s.flag (Hdr.EN 0x3A) then decide (s.get NMB.STATE = 2) else !sel.isEmpty)

/-- Signals sleep agreement where it is met and has not been signalled (R464). -/
def State.agreeCheck (s : State) (t : Nat) : State :=
  if s.agreed && !s.flag NMK.DONE then ((s.put NMK.DONE 1).evt 0x39 16).coolArm t else s

/-- Pushes a keep-alive frame (R446). -/
def State.keepAlive (s : State) (x t : Nat) : State :=
  s.hwPush (s.get (NMK.TXQ x)) 0x39 x (s.get (NMK.TPL x)) (leBytes 1 (s.get (NMK.NODE x)) ++ leBytes 1 (s.get (NMK.NEED x)))
    (s.splitAt t) t

/-- A channel enters a state at `t`, with the timer and the keep-alives of that state (R448). -/
def State.nmEnter (s : State) (x st t : Nat) : State :=
  let s := (((s.disarm (.nmRepeat x)).disarm (.nmTimeout x)).disarm (.nmWait x)).disarm (.nmKeep x)
  let s := s.put (NMK.STATE x) st
  match st with
  | 1 => ((s.keepAlive x t).arm (.nmKeep x) (t + ms (s.get (NMK.KAPER x)))).arm (.nmRepeat x) (t + ms (s.get (NMK.REPTIME x)))
  | 2 => (s.keepAlive x t).arm (.nmKeep x) (t + ms (s.get (NMK.KAPER x)))
  | 3 => s.arm (.nmTimeout x) (t + ms (s.get (NMK.TIMEOUT x)))
  | 4 => s.arm (.nmWait x) (t + ms (s.get (NMK.WAITBS x)))
  | 5 => ((s.count (NMK.SLEEPS x)).evt 0x39 x).agreeCheck t
  | _ => s.agreeCheck t

/-- Expiries of TIMEOUT and WAITBS that lie at or before `t` come first (R450, R451). -/
def State.nmExpire (s : State) (x t : Nat) : State :=
  let s := match s.due (.nmTimeout x) with
    | some d => if d ≤ t then s.nmEnter x 4 d else s
    | none => s
  match s.due (.nmWait x) with
  | some d => if d ≤ t then s.nmEnter x 5 d else s
  | none => s

/-- Whether a channel manages its bus: its page is enabled. -/
def State.nmOn (s : State) (x : Nat) : Bool := s.flag (Hdr.EN 0x39) && s.flag (NMK.NMEN x) && !s.unitHeld 0x39 x

/-- NMEN or the page's enable was written (R449). -/
def State.nmEnable (s : State) (x t : Nat) : State :=
  if s.nmOn x then (if s.get (NMK.STATE x) = 0 then s.nmEnter x 1 t else s)
  else if s.get (NMK.STATE x) = 0 then s else s.nmEnter x 0 t

/-- NEED as applied at a tick (R449, R451). -/
def State.nmNeed (s : State) (x t : Nat) : State :=
  if s.get (NMK.STATE x) = 0 then s
  else
    let s := s.nmExpire x t
    let need := s.flag (NMK.NEED x)
    match s.get (NMK.STATE x) with
    | 2 => if need then s else s.nmEnter x 3 t
    | 3 => if need then s.nmEnter x 2 t else s
    | 4 => if need then (s.count (NMK.ABORTS x)).nmEnter x 2 t else s
    | 5 => if need then (s.nmEnter x 1 t).wakeLatch else s
    | _ => s

/-- Whether a frame counts as a keep-alive (R447). -/
def State.isKeepAlive (s : State) (x id : Nat) (ide : Bool) (data : List Byte) : Bool :=
  let ka := s.get (NMK.KAID x)
  let m := s.get (NMK.KAMASK x)
  !s.flag (NMK.KAONLY x)
    || (decide (ide = bitAt ka 29) && decide ((id ^^^ ka) &&& m = 0) && bitAt ((data.getD 1 0).toNat) 0)

/-- Whether a dominant phase on a bus can wake (R453, R456, R615, R622). -/
def State.wakeWatched (s : State) (x : Nat) : Bool :=
  !bitAt (s.get PWR.FSMASK) x && s.flag (NMK.WAKEEN x)
    && (match s.pwr.state with
      | .park => decide (x = 0) && s.flag PWR.CAN0EN
      | .waking => false
      | .doze => decide (s.get (CAN.STATE x) = 0) || decide (s.get (NMK.STATE x) = 5)
      | .run | .idle => decide (s.get (NMK.STATE x) = 5)
      | _ => decide (s.get (NMK.STATE x) = 5) || decide (x = 0))

/-- A valid frame of a controller reaches its channel (R447 to R451, R455, R456). -/
def State.nmFrame (s : State) (x id : Nat) (ide : Bool) (data : List Byte) (t : Nat) : State :=
  let s := if (s.nm x).pend then
      ((s.setNm x (fun n => { n with pend := false, later := [] })).disarm (.falseStart x)).put ⟨2, 0x154, 4 * x, 4⟩ 0
    else s
  if s.get (NMK.STATE x) = 0 then s
  else
    let ka := s.isKeepAlive x id ide data
    let s := if ka then
        let s := s.setNm x (fun n => { n with seen := min (n.seen + 1) 65535 })
        match data with | b :: _ => s.put (NMK.LASTNODE x) b.toNat | [] => s
      else s
    let s := s.nmExpire x t
    match s.get (NMK.STATE x) with
    | 3 => if ka then s.arm (.nmTimeout x) (t + ms (s.get (NMK.TIMEOUT x))) else s
    | 4 => (s.count (NMK.ABORTS x)).nmEnter x 3 t
    | 5 => if s.wakeWatched x then (s.nmEnter x 3 t).wakeLatch else s
    | _ => s

/-- Warm-up ends: the windows of the wakes that led to it start, and masks set in PARK are raised (R455, R457). -/
def State.falseStarts (s : State) (t : Nat) : State :=
  let s := ((List.range 8).filter (fun x => (s.nm x).pend && (s.due (.falseStart x)).isNone)).foldl
    (fun s x => s.arm (.falseStart x) (t + ms (10 * s.get PWR.WIN))) s
  ((List.range 8).filter (fun x => (s.nm x).owed)).foldl
    (fun s x => (s.setNm x (fun n => { n with owed := false })).detect 0xC8 x) s

/-- The snapshot record of network management (R465). -/
def State.nmRecord (s : State) (t : Nat) : List Byte :=
  (List.range 8).flatMap (fun x =>
    let left := [Timer.nmRepeat x, Timer.nmTimeout x, Timer.nmWait x].findSome? (fun k => s.due k)
    leBytes 1 (s.get (NMK.STATE x))
      ++ leBytes 1 (s.get (NMK.NEED x) + 2 * b2n (s.nm x).wake + 4 * b2n (bitAt (s.get PWR.FSMASK) x))
      ++ leBytes 2 (s.nm x).seen ++ leBytes 4 ((left.getD t - t) / 1000000))

/-! The Baton ring. -/

/-- Local consent (R459). -/
def State.consent (s : State) : Bool :=
  s.flag NMB.CONSENT && s.flag TSY.LOCK && s.flag (Hdr.EN 0x3A)
    && (List.range 8).all (fun x => !bitAt (s.get NMK.SLPSET) x || !(decide (s.get (NMK.STATE x) = 1) || decide (s.get (NMK.STATE x) = 2)))

/-- Local gPTP time in ms, modulo 2³². -/
def State.ringMs (s : State) (t : Nat) : Nat := s.gptp t / 1000000 % 2 ^ 32

/-- The first 12 octets of a ring frame (R460). -/
def ringHead (ty ring sender dest seq mask : Nat) : List Byte :=
  leBytes 1 (0x10 + ty) ++ leBytes 1 ring ++ leBytes 1 sender ++ leBytes 1 dest ++ beBytes 4 seq ++ beBytes 2 mask ++ [0, 0]

/-- The tag of a ring frame: AES-CMAC under the ring's key, first 64 bits (R460). -/
def State.ringTag (s : State) (head : List Byte) : List Byte :=
  macOf (look [] s.vault.keys (s.get NMB.KEY)) head

/-- Sends a ring frame (R460). -/
def State.ringSend (s : State) (ty dest seq mask t : Nat) : State :=
  let h := ringHead ty (s.get NMB.RING) (s.get NMB.POS) dest seq mask
  s.swOriginate (s.get NMB.GRPMACHI * 65536 + s.get NMB.GRPMACLO) (s.get NMB.VID) 7 0x88B6 (h ++ s.ringTag h) t

/-- An accepted ring frame's fields: addressed position, SEQ and CONSENT. -/
structure RingMsg where
  dest : Nat
  seq : Nat
  mask : Nat
  deriving DecidableEq, Repr

/-- The checks of a ring frame of type `ty`; a frame that fails one is dropped and counted (R460, R461). -/
def State.ringCheck (s : State) (ty : Nat) (p : List Byte) (t : Nat) : State × Option RingMsg :=
  let seq := beVal ((p.drop 4).take 4)
  let age := (s.ringMs t + 2 ^ 32 - seq) % 2 ^ 32
  let good := decide (20 ≤ p.length) && decide ((p.getD 0 0).toNat = 0x10 + ty) && decide ((p.getD 1 0).toNat = s.get NMB.RING)
    && decide (s.ringTag (p.take 12) = (p.drop 12).take 8) && decide (s.get NMB.LASTSEQ ≤ seq) && decide (age ≤ s.get NMB.LAPTO + 3)
  if good then
    (s.put NMB.LASTSEQ seq, some { dest := (p.getD 3 0).toNat, seq := seq, mask := beVal ((p.drop 8).take 2) })
  else (s.count NMB.DROPS, none)

/-- A lap ends at a member or the leader. -/
def State.lapEnd (s : State) (t : Nat) : State :=
  let s := ((s.put NMB.STATE 0).disarm .lap).disarm .commitTo
  if s.get NMB.POS = 0 then s.arm .lapDelay (t + ms (100 * s.get NMB.LAPDLY)) else s

/-- A party of the ring enters COMMITTED; where it has lost its consent its wake request stays latched (R462 to R464; DEDUCED,
log entry 79). -/
def State.ringCommitted (s : State) (t : Nat) : State :=
  let s := (((((s.put NMB.STATE 2).disarm .lap).disarm .commitTo).evt 0x3A 2)).agreeCheck t
  if s.consent then s else { s with pwr := { s.pwr with wakes := setBit s.pwr.wakes 10 } }

/-- Counts a dissent sent or received. -/
def State.ringDissent (s : State) : State := (s.count NMB.DISSENTS).evt 0x3A 1

/-- Sends DISSENT to all for a lap. -/
def State.sendDissent (s : State) (seq t : Nat) : State := (s.ringSend 2 0xFF seq s.ring.mask t).ringDissent

/-- Joins or starts a lap. -/
def State.ringJoin (s : State) (seq mask : Nat) : State :=
  (((s.put NMB.STATE 1).count NMB.LAPS).evt 0x3A 0).put NMB.LAPMASK mask |> fun s =>
    { s with ring := { s.ring with seq := seq, mask := mask } }

/-- Whether the ring takes frames: its page runs. -/
def State.ringOn (s : State) : Bool := s.flag (Hdr.EN 0x3A)

/-- NMB takes a ring frame of type BATON (R461 to R463). -/
def State.ringBatonFrame (s : State) (payload : List Byte) (t : Nat) : State :=
  if ¬ s.ringOn then s
  else match s.ringCheck 1 payload t with
  | (s, none) => s
  | (s, some m) =>
    let pos := s.get NMB.POS
    if m.dest ≠ pos then s
    else if pos = 0 then
      let all := 2 ^ s.get NMB.COUNT - 1
      if s.get NMB.STATE = 1 ∧ m.seq = s.ring.seq ∧ m.mask &&& all = all then
        let s := { s.put NMB.LAPMASK m.mask with ring := { s.ring with mask := m.mask, resend := 2 } }.ringCommitted t
        (s.ringSend 3 0xFF m.seq m.mask t).arm .resend (t + ms 1)
      else s
    else if s.get NMB.STATE ≠ 0 then s
    else if s.consent then
      let mask := setBit m.mask pos
      let s := (s.ringJoin m.seq mask).ringSend 1 ((pos + 1) % s.get NMB.COUNT) m.seq mask t
      s.arm .commitTo (t + ms (s.get NMB.CMTTO))
    else { s with ring := { s.ring with mask := m.mask } }.sendDissent m.seq t

/-- NMB takes a ring frame of type DISSENT (R462, R463). -/
def State.ringDissentFrame (s : State) (payload : List Byte) (t : Nat) : State :=
  if ¬ s.ringOn then s
  else match s.ringCheck 2 payload t with
  | (s, none) => s
  | (s, some m) =>
    let s := s.ringDissent
    if s.get NMB.STATE = 1 ∧ m.seq = s.ring.seq then s.lapEnd t else s

/-- NMB takes a ring frame of type COMMIT (R462, R464). -/
def State.ringCommitFrame (s : State) (payload : List Byte) (t : Nat) : State :=
  if ¬ s.ringOn then s
  else match s.ringCheck 3 payload t with
  | (s, none) => s
  | (s, some m) =>
    if s.get NMB.POS ≠ 0 ∧ s.get NMB.STATE ≠ 2 ∧ bitAt m.mask (s.get NMB.POS) then (s.put NMB.LAPMASK m.mask).ringCommitted t
    else s

/-- A frame to the ring's group address reaches NMB: by its type, others dropped (R460, R480). -/
def State.ringFrame (s : State) (payload : List Byte) (t : Nat) : State :=
  match (payload.getD 0 0).toNat with
  | 0x11 => s.ringBatonFrame payload t
  | 0x12 => s.ringDissentFrame payload t
  | 0x13 => s.ringCommitFrame payload t
  | _ => s

/-! Commands. -/

/-- NM_KEEPALIVE_SEND: KAPER passes in REPEAT or NORMAL (R446, R448). -/
def execNmKeepaliveSend (x : Nat) (s : State) : Host.Outcome State Fault Refusal :=
  .next (s.onExpiry (.nmKeep x) (fun t s => (s.keepAlive x t).arm (.nmKeep x) (t + ms (s.get (NMK.KAPER x)))))

/-- NM_REPEAT_EXPIRY (R449). -/
def execNmRepeatExpiry (x : Nat) (s : State) : Host.Outcome State Fault Refusal :=
  .next (s.onExpiry (.nmRepeat x) (fun t s => s.nmEnter x (if s.flag (NMK.NEED x) then 2 else 3) t))

/-- NM_TIMEOUT_EXPIRY (R449, R450). -/
def execNmTimeoutExpiry (x : Nat) (s : State) : Host.Outcome State Fault Refusal :=
  .next (s.onExpiry (.nmTimeout x) (fun t s => s.nmEnter x 4 t))

/-- NM_WAITBS_EXPIRY: the commit point of the channel (R451, R464). -/
def execNmWaitbsExpiry (x : Nat) (s : State) : Host.Outcome State Fault Refusal :=
  .next (s.onExpiry (.nmWait x) (fun t s => s.nmEnter x 5 t))

/-- CAN_BUS_WAKE: a dominant phase outlasts the wake filter; `t` is the end of the filter time (R449, R453 to R456). -/
def execCanBusWake (t x : Nat) (s : State) : Host.Outcome State Fault Refusal :=
  .next (
    let s := s.reach t
    if ¬ s.wakeWatched x then s
    else
      let st := s.pwr.state
      let down := s.goesDown
      let parked := decide (st = .park) || decide (st = .waking)
      let s := if parked then s else (s.evt 0x39 (8 + x)).setNm x (fun n => { n with wake := true })
      let s := if parked || down then s.setNm x (fun n => { n with pend := true })
        else if (s.due (.falseStart x)).isSome then s.setNm x (fun n => { n with later := n.later ++ [t + ms (10 * s.get PWR.WIN)] })
        else (s.setNm x (fun n => { n with pend := true })).arm (.falseStart x) (t + ms (10 * s.get PWR.WIN))
      let s := if s.get (NMK.STATE x) = 5 ∧ ¬ parked then s.nmEnter x 3 t else s
      if x = 0 ∨ st = .doze then s.wakeSource 8 else if down then { s with pwr := { s.pwr with wakes := setBit s.pwr.wakes 10 } } else s)

/-- The window of a wake that came while another's ran goes on (R455). -/
def State.nextWindow (s : State) (x : Nat) : State :=
  match (s.nm x).later with
  | [] => s.setNm x (fun n => { n with pend := false })
  | d :: ds => (s.setNm x (fun n => { n with later := ds })).arm (.falseStart x) d

/-- FALSE_START_WINDOW: no valid frame came after a wake (R455 to R457); a mask set in PARK is raised at the next Warm-up. -/
def execFalseStartWindow (x : Nat) (s : State) : Host.Outcome State Fault Refusal :=
  .next (s.onExpiry (.falseStart x) (fun t s =>
    if ¬ (s.nm x).pend then s
    else
      let f : Fld := ⟨2, 0x154, 4 * x, 4⟩
      let s := (s.nextWindow x).count f
      if s.get f < s.get PWR.LIM ∨ bitAt (s.get PWR.FSMASK) x then s
      else
        let s := s.setFlag PWR.FSMASK x
        let s := if s.pwr.state = .park ∨ s.pwr.state = .waking then s.setNm x (fun n => { n with owed := true }) else s.detect 0xC8 x
        s.arm (.maskHold x) (t + ms (60000 * s.get PWR.HOLD))))

/-- FALSE_START_MASK_HOLD: a mask bit has been set for HOLD minutes; with HOLD 0 it stays until cleared (R456). -/
def execFalseStartMaskHold (x : Nat) (s : State) : Host.Outcome State Fault Refusal :=
  .next (if s.get PWR.HOLD = 0 then s else s.onExpiry (.maskHold x) (fun _ s => s.clrFlag PWR.FSMASK x))

/-- RING_LAP_START: the leader starts a lap (R462). -/
def execRingLapStart (t : Nat) (s : State) : Host.Outcome State Fault Refusal :=
  .next (
    let s := s.reach t
    let waited := match s.due .lapDelay with | some d => decide (d ≤ t) | none => true
    if s.ringOn && decide (s.get NMB.POS = 0) && decide (s.get NMB.STATE = 0) && s.consent && waited then
      let q := s.ringMs t
      let s := ((s.disarm .lapDelay).ringJoin q 1).ringSend 1 1 q 1 t
      s.arm .lap (t + ms (s.get NMB.LAPTO))
    else s)

/-- BATON: a ring frame of type BATON (R461 to R463). -/
def execBaton (t : Nat) (payload : List Byte) (s : State) : Host.Outcome State Fault Refusal :=
  .next ((s.reach t).ringBatonFrame payload t)

/-- DISSENT: a ring frame of type DISSENT (R462, R463). -/
def execDissent (t : Nat) (payload : List Byte) (s : State) : Host.Outcome State Fault Refusal :=
  .next ((s.reach t).ringDissentFrame payload t)

/-- COMMIT: a ring frame of type COMMIT (R462, R464). -/
def execCommit (t : Nat) (payload : List Byte) (s : State) : Host.Outcome State Fault Refusal :=
  .next ((s.reach t).ringCommitFrame payload t)

/-- RING_COMMIT_RESEND: the leader sends COMMIT again, three times in all (R462). -/
def execRingCommitResend (s : State) : Host.Outcome State Fault Refusal :=
  .next (s.onExpiry .resend (fun t s =>
    if s.ring.resend = 0 then s
    else
      let n := s.ring.resend - 1
      let s := { s.ringSend 3 0xFF s.ring.seq s.ring.mask t with ring := { s.ring with resend := n } }
      if n = 0 then s else s.arm .resend (t + ms 1)))

/-- RING_CONSENT_LOST: a member in a lap loses local consent (R462). -/
def execRingConsentLost (t : Nat) (s : State) : Host.Outcome State Fault Refusal :=
  .next (
    let s := s.reach t
    if s.ringOn && decide (s.get NMB.POS ≠ 0) && decide (s.get NMB.STATE = 1) && !s.consent then
      (s.sendDissent s.ring.seq t).lapEnd t
    else s)

/-- RING_LAP_TIMEOUT: LAPTO expires at the leader (R462). -/
def execRingLapTimeout (s : State) : Host.Outcome State Fault Refusal :=
  .next (s.onExpiry .lap (fun t s => (((s.count NMB.FAILS).evt 0x3A 3).detect 0xC9 0).lapEnd t))

/-- RING_COMMIT_TIMEOUT: CMTTO expires at a member (R462). -/
def execRingCommitTimeout (s : State) : Host.Outcome State Fault Refusal :=
  .next (s.onExpiry .commitTo (fun t s => ((s.evt 0x3A 4).detect 0xCA 0).lapEnd t))

end Sys2Proof.Machine
end

