-- ==== Sys2Proof/Machine/Can.lean ====
section
/-! DEFINITION. The CAN FD cluster (R411 to R445). -/
namespace Sys2Proof.Machine

/-- A controller beside its registers, at reset. -/
def canInit : CanSt :=
  { bos := 0, addrs := [], enq0 := [], enq1 := [], try0 := 0, try1 := 0, poolLast := 0, history := [], rx := 0, tx := 0, lost := 0,
    boSplit := 0 }

/-- A controller beside its registers. -/
def State.can (s : State) (x : Nat) : CanSt := look canInit s.cans x

/-- Updates a controller beside its registers. -/
def State.setCan (s : State) (x : Nat) (f : CanSt → CanSt) : State := { s with cans := store canInit x (f (s.can x)) s.cans }

/-- Where a controller's message RAM lies (R420). -/
def canRam (x : Nat) : Nat := 0x3C0000 + 0x8000 * x

/-- The fault source `k` of controller `x` (R442). -/
def canSrc (x k : Nat) : Nat := 0x9F + 5 * x + k

/-- One nominal bit in ns (R412). -/
def State.canBit (s : State) (x : Nat) : Nat :=
  let w := s.get (CAN.NBT x)
  10 * (wbits w 0 5 + 1) * (3 + wbits w 8 8 + wbits w 16 7)

/-- Fill and put index of transmit FIFO `f`. -/
def txFill (x f : Nat) : Fld := if f = 0 then CAN.T0FILL x else CAN.T1FILL x
/-- Put index of transmit FIFO `f`. -/
def txPut (x f : Nat) : Fld := if f = 0 then CAN.T0PUT x else CAN.T1PUT x
/-- Fill of receive FIFO `f`. -/
def rxFill (x f : Nat) : Fld := if f = 0 then CAN.F0FILL x else CAN.F1FILL x
/-- Get index of receive FIFO `f`. -/
def rxGet (x f : Nat) : Fld := if f = 0 then CAN.F0GET x else CAN.F1GET x
/-- The queue that feeds transmit FIFO `f`. -/
def txQueue (x f : Nat) : Fld := if f = 0 then CAN.F0Q x else CAN.F1Q x
/-- Whether a queue feeds transmit FIFO `f`. -/
def txFed (x f : Nat) : Fld := if f = 0 then CAN.F0BQ x else CAN.F1BQ x

/-- Where element `e` of transmit FIFO `f` lies (R420). -/
def txAddr (x f e : Nat) : Nat := canRam x + 0x3000 + 0xA00 * f + 80 * e
/-- Where element `e` of receive FIFO `f` lies (R420). -/
def rxAddr (x f e : Nat) : Nat := canRam x + 0x800 + 0x1400 * f + 80 * e

/-- The instants at which the elements of FIFO `f` came in. -/
def CanSt.enq (c : CanSt) (f : Nat) : List Nat := if f = 0 then c.enq0 else c.enq1
/-- Replaces them. -/
def CanSt.setEnq (c : CanSt) (f : Nat) (l : List Nat) : CanSt := if f = 0 then { c with enq0 := l } else { c with enq1 := l }
/-- The latest attempt of the head of FIFO `f`. -/
def CanSt.tried (c : CanSt) (f : Nat) : Nat := if f = 0 then c.try0 else c.try1
/-- Replaces it. -/
def CanSt.setTried (c : CanSt) (f t : Nat) : CanSt := if f = 0 then { c with try0 := t } else { c with try1 := t }

/-- Index of the head element of FIFO `f`. -/
def State.txHead (s : State) (x f : Nat) : Nat := (s.get (txPut x f) + 32 - s.get (txFill x f)) % 32

/-! States (R414 to R419). -/

/-- A stopped controller whose page is enabled starts, unless a hold is in force on it (R414, R546). -/
def State.canStart (s : State) (x : Nat) : State :=
  if s.flag (Hdr.EN (0x30 + x)) && !s.unitHeld (0x30 + x) x && decide (s.get (CAN.STATE x) = 0) then s.put (CAN.STATE x) 1 else s

/-- The stop of a controller is complete; a pending enable starts it (R57, R414, R415). -/
def State.canStopped (s : State) (x : Nat) : State :=
  let s := ((s.put (CAN.STATE x) 0).put (Hdr.STOPPING (0x30 + x)) 0).disarm (.canStop x)
  let s := if s.flag (Hdr.PENDEN (0x30 + x)) then (s.put (Hdr.PENDEN (0x30 + x)) 0).put (Hdr.EN (0x30 + x)) 1 else s
  s.canStart x

/-- EN = 0: the stop completes at once in BUSOFF and RECOVERING and where the bus is idle, which no command tells and
`Config.canBusIdle` leaves open (R415, log entry 75). -/
def State.canStop (s : State) (x t : Nat) : State :=
  let st := s.get (CAN.STATE x)
  if st = 0 then s
  else if st = 4 ∨ st = 5 ∨ (st ≠ 6 ∧ Config.canBusIdle x t) then s.canStopped x
  else ((s.put (CAN.STATE x) 6).put (Hdr.STOPPING (0x30 + x)) 1).arm (.canStop x) (t + 800 * s.canBit x)

/-- A frame or error frame ends while the controller stops (R415). -/
def State.canFrameEnd (s : State) (x : Nat) : State := if s.get (CAN.STATE x) = 6 then s.canStopped x else s

/-- The bus-offs that R418 counts: this one at split `now` and the earlier ones less than WIN seconds before it. -/
def State.busOffs (s : State) (x now : Nat) : Nat :=
  ((s.can x).history.filter (fun h => decide (now < h + 250000000 * s.get CANC.WIN))).length + 1

/-- Entry to BUSOFF: the history of splits, kept as far back as WIN can reach, the limit, and automatic return (R417, R418). -/
def State.canBusOff (s : State) (x t : Nat) : State :=
  let s := (((s.put (CAN.STATE x) 4).count (CAN.BOCNT x)).evt (0x30 + x) 6).detect (canSrc x 0) x
  let now := s.splitAt t
  let n := s.busOffs x now
  let s := s.setCan x (fun c => { c with
    history := now :: c.history.filter (fun h => decide (now < h + 250000000 * 255)), bos := min n 255, boSplit := now % 2 ^ 32 })
  let s := s.put ⟨0x38, 0x10C, 4 * x, 4⟩ (min n 15)
  if s.get CANC.COUNT ≤ n then ((s.setFlag CANC.HALT x).evt 0x38 x).detect 0xC7 x
  else if bitAt (s.get CANC.AREN) x ∧ ¬ bitAt (s.get CANC.HALT) x then s.put (CAN.STATE x) 5
  else s

/-- What the error counters make of the state (R414). -/
def State.canErrors (s : State) (x t : Nat) : State :=
  let tec := s.get (CAN.TEC x)
  let rec_ := s.get (CAN.REC x)
  let warn := decide (96 ≤ tec) || decide (96 ≤ rec_)
  let s := if warn ∧ ¬ s.flag (CAN.EWARN x) then s.evt (0x30 + x) 4 else s
  let s := s.put (CAN.EWARN x) (b2n warn)
  let st := s.get (CAN.STATE x)
  if st ≠ 2 ∧ st ≠ 3 then s
  else if 255 < tec then s.canBusOff x t
  else if (128 ≤ tec ∨ 128 ≤ rec_) ∧ st = 2 then ((s.put (CAN.STATE x) 3).evt (0x30 + x) 5).detect (canSrc x 1) x
  else if tec < 128 ∧ rec_ < 128 ∧ st = 3 then (s.put (CAN.STATE x) 2).evt (0x30 + x) 7
  else s

/-- Whether a controller takes part in frames. -/
def State.canLive (s : State) (x : Nat) : Bool :=
  (decide (s.get (CAN.STATE x) = 2) || decide (s.get (CAN.STATE x) = 3) || decide (s.get (CAN.STATE x) = 6)) && !s.flag CLK.FAILWAIT

/-- A count of lost frames of the window (R441). -/
def State.canLost (s : State) (x : Nat) : State := s.setCan x (fun c => { c with lost := min (c.lost + 1) 65535 })

/-! Reception (R421 to R428). -/

/-- The element of a received frame (R421): `filt` its byte 6, splits of the start of frame and of validity. -/
def canElement (f : CanFrame) (filt sof valid : Nat) : List Byte :=
  leBytes 4 (f.id % 2 ^ 29 + 2 ^ 29 * b2n f.ide + 2 ^ 30 * b2n f.rtr + 2 ^ 31 * b2n f.esi)
    ++ leBytes 1 (f.dlc % 16 + 16 * b2n f.fdf + 32 * b2n f.brs) ++ leBytes 1 f.data.length ++ leBytes 1 filt ++ leBytes 1 0
    ++ leBytes 4 sof ++ leBytes 4 valid ++ f.data ++ List.replicate (64 - f.data.length) 0

/-- Whether a frame matches filter `n` (R423 to R425). An ACT of skip takes no frame. -/
def State.canMatch (s : State) (x n : Nat) (f : CanFrame) : Bool :=
  let a := canRam x + 16 * n
  let w0 := s.le a 4
  let w1 := s.le (a + 4) 4
  let act := s.le (a + 8) 1
  let fdsel := s.le (a + 10) 1 % 4
  let da := bitAt (s.le (a + 10) 1) 2
  let rtr := bitAt (s.le (a + 10) 1) 3
  let wellFormed := decide (wbits w0 30 2 = 0) && decide (wbits w1 29 3 = 0) && decide (1 ≤ act) && decide (act ≤ 5)
    && decide (s.le (a + 9) 1 < 32) && decide (fdsel ≠ 3) && decide (s.le (a + 10) 1 < 16) && decide (s.le (a + 11) 5 = 0)
  let ide := bitAt w0 29
  let id := wbits w0 0 29
  let mask := if ide then wbits w1 0 29 else wbits w1 18 11 * 2 ^ 18
  let own := !da || (f.ide && (decide (0xF0 ≤ wbits f.id 16 8) || decide (wbits f.id 8 8 = s.get (CAN.NODEADDR x))
    || decide (wbits f.id 8 8 = 0xFF)))
  wellFormed && (ide || decide (wbits id 0 18 = 0)) && !(rtr && decide (fdsel = 2)) && decide (f.ide = ide)
    && decide ((f.id ^^^ id) &&& mask = 0) && (decide (fdsel = 0) || decide (f.fdf = decide (fdsel = 2))) && decide (f.rtr = rtr) && own

/-- A frame for receive FIFO `f` (R426). -/
def State.rxPush (s : State) (x f : Nat) (el : List Byte) : State :=
  let fill := s.get (rxFill x f)
  let get := s.get (rxGet x f)
  if fill < 64 then
    let s := (s.setBytes (rxAddr x f ((get + fill) % 64)) el).put (rxFill x f) (fill + 1)
    let thr := s.get (if f = 0 then CAN.RXF0 x else CAN.RXF1 x)
    if thr = fill + 1 then s.evt (0x30 + x) f else s
  else
    let s := (((s.count (CAN.RXLOST x)).evt (0x30 + x) 8).detect (canSrc x 2) x).canLost x
    if s.flag (CAN.RXPOL x) then (s.setBytes (rxAddr x f get) el).put (rxGet x f) (get + 1) else s

/-- A frame for a Baton queue by reference (R427, R428). -/
def State.rxRef (s : State) (x k unit : Nat) (el : List Byte) (t : Nat) : State :=
  let base := 0x200000 + 16 * s.get (CAN.BASE x)
  match s.poolTake base (s.get (CAN.COUNT x)) 96 (s.can x).poolLast with
  | none =>
    ((((s.count (CAN.POOLMISS x)).count (CAN.RXLOST x)).evt (0x30 + x) 8).detect (canSrc x 2) x).canLost x
  | some b =>
    let a := base + 96 * b
    let s := ((s.setLe a 4 (80 + 2 ^ 31)).setBytes (a + 4) el).setCan x (fun c => { c with poolLast := b })
    s.hwRef k (0x30 + x) unit 0x32 a (s.splitAt t) t

/-- The route of a valid frame (R423 to R427). -/
def State.canRoute (s : State) (x : Nat) (f : CanFrame) (sof t : Nat) : State :=
  let el := fun (b : Nat) => canElement f b (s.splitAt sof) (s.splitAt t)
  match (List.range (min (s.get (CAN.NUMFILT x)) 128)).find? (fun n => s.canMatch x n f) with
  | some n =>
    let a := canRam x + 16 * n
    let k := s.le (a + 9) 1 % 32
    match s.le (a + 8) 1 with
    | 2 => s.rxPush x 0 (el n)
    | 3 => s.rxPush x 1 (el n)
    | 4 =>
      if f.data.length ≤ 8 then
        s.hwPush k (0x30 + x) n (if f.fdf then 0x31 else 0x30) f.data (s.splitAt t) t
      else s.rxRef x k n (el n) t
    | 5 => s.rxRef x k n (el n) t
    | _ => s
  | none =>
    match s.get (CAN.NOMATCH x) with
    | 1 => s.rxPush x 0 (el 0x80)
    | 2 => s.rxPush x 1 (el 0x80)
    | _ => s

/-! Transmission (R429 to R436). -/

/-- A transmit event (R435): `ty` its TYPE, `tag` the element's TAG, `sof` the start of its latest attempt. -/
def State.txEvent (s : State) (x f ty tag sof t : Nat) : State :=
  if s.flag (CAN.EVEN x) then
    s.hwPush (s.get (CAN.EVQ x)) (0x30 + x) f ty (leBytes 4 tag ++ leBytes 4 sof) (s.splitAt t) t
  else s

/-- Whether an element is bad (R430). -/
def State.txBad (s : State) (x : Nat) (el : List Byte) : Bool :=
  let w := leVal (el.take 4)
  let b := (el.getD 4 0).toNat
  let fdf := bitAt b 4
  (fdf && !s.flag (CAN.FDEN x)) || (bitAt b 5 && !fdf) || (bitAt w 30 && fdf) || (decide (8 < b % 16) && !fdf)

/-- An element enters transmit FIFO `f` behind the others, or is discarded as bad (R429, R430). -/
def State.txEnter (s : State) (x f : Nat) (el : List Byte) (t : Nat) : State :=
  if s.txBad x el then s.txEvent x f 0x3B (leVal ((el.drop 8).take 4)) 0 t
  else
    let put := s.get (txPut x f)
    let s := s.setBytes (txAddr x f put) el
    let s := (s.put (txFill x f) (s.get (txFill x f) + 1)).put (txPut x f) (put + 1)
    s.setCan x (fun c => c.setEnq f (c.enq f ++ [t]))

/-- A write of TXFPUT for FIFO `f` (R429). A FIFO that a queue feeds takes no put. -/
def State.txPutGo (s : State) (x f t : Nat) : State :=
  if s.flag (txFed x f) then s
  else if s.get (txFill x f) = 32 then
    (((s.count (CAN.TXDROP x)).evt (0x30 + x) 3).detect (canSrc x 2) x).canLost x
  else s.txEnter x f (s.bytes (txAddr x f (s.get (txPut x f))) 80) t

/-- The element of a Baton entry (R429): by template, or from a reference buffer. -/
def State.txElement (s : State) (x : Nat) (e : BqEntry) : List Byte :=
  if e.tl / 2 ^ 14 = 1 then s.bytes (e.p0 + 4) 80
  else
    let n := e.tl % 16
    let a := canRam x + 0x4400 + 8 * (wbits e.tl 4 8 % 64)
    let m := s.le (a + 4) 1
    s.bytes a 4 ++ leBytes 1 (n + 16 * wbits m 4 1 + 32 * wbits m 5 1) ++ leBytes 1 0
      ++ leBytes 1 (wbits m 6 1 + 2 * wbits m 7 1) ++ leBytes 1 0 ++ leBytes 8 0
      ++ (leBytes 4 e.p0 ++ leBytes 4 e.p1) ++ List.replicate 56 0

/-- A tick that changes an applied NODEADDR leaves a note of the address that was in force until then (R434). -/
def State.addrTick (s old : State) (t : Nat) : State :=
  (List.range 8).foldl (fun s x =>
    if s.get (CAN.NODEADDR x) = old.get (CAN.NODEADDR x) then s
    else s.setCan x (fun c => { c with addrs := c.addrs ++ [(t, old.get (CAN.NODEADDR x))] })) s

/-- The NODEADDR in force at `sof`, the start of an attempt (R434). -/
def State.nodeAddr (s : State) (x sof : Nat) : Nat :=
  match (s.can x).addrs.find? (fun e => decide (sof < e.1)) with
  | some e => e.2
  | none => s.get (CAN.NODEADDR x)

/-- The arbitration field of an element as transmitted in an attempt that starts at `sof`, smaller values winning (R431,
R434). -/
def State.arbField (s : State) (x a sof : Nat) : Nat :=
  let w := s.le a 4
  let id := if bitAt (s.le (a + 6) 1) 0 then wbits w 8 21 * 256 + s.nodeAddr x sof else wbits w 0 29
  let r := wbits w 30 1
  if bitAt w 29 then (id / 2 ^ 18) * 2 ^ 21 + 2 ^ 20 + 2 ^ 19 + (id % 2 ^ 18) * 2 + r else (id / 2 ^ 18) * 2 ^ 21 + r * 2 ^ 20

/-- The FIFO whose head the controller offers in an arbitration that starts at `sof` (R431). A controller in bus monitoring
mode sends nothing (R438), and one frozen by a debug halt starts no new transmission (R439). -/
def State.txChoice (s : State) (x sof : Nat) : Option Nat :=
  if decide (s.get (CAN.MODE x) = 1) || (s.flag (Hdr.FRZ (0x30 + x)) && s.flag DBG.HALTED && decide (s.pac.haltAt < sof)) then none else
  let has := fun (f : Nat) => match (s.can x).enq f with | h :: _ => decide (h ≤ sof) | [] => false
  match has 0, has 1 with
  | true, true =>
    if s.arbField x (txAddr x 1 (s.txHead x 1)) sof < s.arbField x (txAddr x 0 (s.txHead x 0)) sof then some 1 else some 0
  | true, false => some 0
  | false, true => some 1
  | false, false => none

/-- An attempt of the head of FIFO `f` that started at `sof`: with SAINS the controller has written the address into the
element's identifier (R434, R437). -/
def State.txAttempt (s : State) (x f sof : Nat) : State :=
  let a := txAddr x f (s.txHead x f)
  if bitAt (s.le (a + 6) 1) 0 then s.setLe a 1 (s.nodeAddr x sof) else s

/-- Takes the head of FIFO `f` out. -/
def State.txPop (s : State) (x f : Nat) : State :=
  (s.put (txFill x f) (s.get (txFill x f) - 1)).setCan x (fun c =>
    (c.setEnq f ((c.enq f).drop 1)).setTried f 0)

/-- Heads that the configuration no longer allows are discarded as bad: an FD element that waited while FDEN was cleared (R430;
DESIGN CHOICE, log entry 98). A FIFO holds at most `n` of them. -/
def State.txPurge (x f t : Nat) : Nat → State → State
  | 0, s => s
  | n + 1, s =>
    let a := txAddr x f (s.txHead x f)
    if s.get (txFill x f) = 0 ∨ ¬ s.txBad x (s.bytes a 80) then s
    else State.txPurge x f t n ((s.txPop x f).txEvent x f 0x3B (s.le (a + 8) 4) ((s.can x).tried f) t)

/-- An attempt ends without success: one-shot removes the frame, else it is retried (R433). -/
def State.txFailed (s : State) (x f ty sof t : Nat) : State :=
  if s.flag (CAN.ONESHOT x) then
    let tag := s.le (txAddr x f (s.txHead x f) + 8) 4
    let s := (((s.txPop x f).count (CAN.TXFAIL x)).evt (0x30 + x) 3).canLost x
    State.txPurge x f t 32 (s.txEvent x f ty tag (s.splitAt sof) t)
  else s.setCan x (fun c => c.setTried f (s.splitAt sof))

/-- Whether the head of FIFO `f` is being transmitted at `t`: only where the controller offered it at the frame's start, which
has no command and which `Config.canOnAir` leaves open (R436, log entry 75). -/
def State.txOnAir (s : State) (x f t : Nat) : Bool :=
  s.canLive x && (match Config.canOnAir x t with
    | some sof => decide (sof ≤ t) && decide (s.txChoice x sof = some f)
    | none => false)

/-- A flush of FIFO `f` spares the element in transmission (R436). -/
def State.txFlush (s : State) (x f t : Nat) : State :=
  let keep := if s.txOnAir x f t then 1 else 0
  let n := s.get (txFill x f)
  let h := s.txHead x f
  let s := (List.range (n - keep)).foldl (fun s i =>
    let a := txAddr x f ((h + keep + i) % 32)
    s.txEvent x f 0x3C (s.le (a + 8) 4) (if i + keep = 0 then (s.can x).tried f else 0) t) s
  let left := min n keep
  ((s.put (txFill x f) left).put (txPut x f) (h + left)).setCan x (fun c =>
    let c := c.setEnq f ((c.enq f).take left)
    if left = 0 then c.setTried f 0 else c)

/-- An acknowledge of receive FIFO `f` (R426). -/
def State.rxAck (s : State) (x f : Nat) : State :=
  if s.get (rxFill x f) = 0 then s
  else (s.put (rxFill x f) (s.get (rxFill x f) - 1)).put (rxGet x f) (s.get (rxGet x f) + 1)

/-- A write of RECOVER (R417). -/
def State.canRecover (s : State) (x : Nat) : State := if s.get (CAN.STATE x) = 4 then s.put (CAN.STATE x) 5 else s

/-- A write of `CANC.AREN`, which leaves `v` there and writes the bits of `ones` to 1 (R419). -/
def State.canAren (s : State) (v ones : Nat) : State :=
  let s := s.put CANC.AREN v
  (List.range 8).foldl (fun s x =>
    if bitAt ones x ∧ bitAt (s.get CANC.HALT) x then
      let s := ((s.clrFlag CANC.HALT x).put ⟨0x38, 0x10C, 4 * x, 4⟩ 0).setCan x (fun c => { c with history := [], bos := 0 })
      s.canRecover x
    else s) s

/-- The snapshot record of the controllers (R441). -/
def State.canRecord (s : State) : List Byte :=
  (List.range 8).flatMap (fun x =>
    let c := s.can x
    leBytes 1 (s.get (CAN.STATE x) + 8 * s.get (CAN.EWARN x) + 16 * b2n (bitAt (s.get CANC.HALT) x)) ++ leBytes 1 (min 255 (s.get (CAN.TEC x)))
      ++ leBytes 1 (s.get (CAN.REC x)) ++ leBytes 1 (s.get (CAN.LEC x)) ++ leBytes 2 c.rx ++ leBytes 2 c.tx ++ leBytes 2 c.lost
      ++ leBytes 1 (s.get (CAN.T0FILL x)) ++ leBytes 1 (s.get (CAN.T1FILL x)) ++ leBytes 1 (s.get (CAN.F0FILL x))
      ++ leBytes 1 (s.get (CAN.F1FILL x)) ++ leBytes 1 c.bos ++ leBytes 1 (s.get (CAN.NODEADDR x))
      ++ leBytes 4 c.boSplit ++ leBytes 12 0)

/-- The window's counts start anew (R441). -/
def State.canWindow (s : State) : State :=
  (List.range 8).foldl (fun s x =>
    if (s.can x).rx = 0 ∧ (s.can x).tx = 0 ∧ (s.can x).lost = 0 then s
    else s.setCan x (fun c => { c with rx := 0, tx := 0, lost := 0 })) s

/-! Commands. -/

/-- The controller takes a valid frame in (R414, R422 to R428, R447). -/
def State.canTake (s : State) (x sof : Nat) (f : CanFrame) (t : Nat) : State :=
  let s := (s.count (CAN.RXCNT x)).setCan x (fun c => { c with rx := min (c.rx + 1) 65535 })
  let r := s.get (CAN.REC x)
  let a := if r ≤ 127 then (r - 1, s) else (119 + s.free.1 % 9, s.free.2)
  let s := ((a.2.put (CAN.REC x) a.1).put (CAN.LEC x) 0).canErrors x t
  let s := s.canRoute x f sof t
  s.nmFrame x f.id f.ide f.data t

/-- CAN_FRAME_RECEIVED: a frame of the bus that began at `sof` is valid at `t`. A controller in internal loopback hears no bus
(R438), and one with FDEN 0 takes no FD frame, which is a protocol exception there (R411). -/
def execCanFrameReceived (t x sof : Nat) (f : CanFrame) (s : State) : Host.Outcome State Fault Refusal :=
  .next (
    let s := s.reach t
    if ¬ s.canLive x ∨ s.get (CAN.MODE x) = 2 ∨ (f.fdf ∧ ¬ s.flag (CAN.FDEN x)) then s
    else (s.canTake x sof f t).canFrameEnd x)

/-- The data length of a DLC (R421). -/
def dlcLen (dlc : Nat) : Nat := if dlc ≤ 8 then dlc else [12, 16, 20, 24, 32, 48, 64].getD (dlc - 9) 64

/-- The frame that an element makes on the bus (R421). The transmitter sends its own ESI, recessive in ERRACTIVE. -/
def State.elementFrame (s : State) (x a : Nat) : CanFrame :=
  let w := s.le a 4
  let b := s.le (a + 4) 1
  let rtr := bitAt w 30
  { id := wbits w 0 29, ide := bitAt w 29, rtr := rtr, esi := bitAt b 4 && decide (s.get (CAN.STATE x) = 3), fdf := bitAt b 4, brs := bitAt b 5,
    dlc := b % 16, data := if rtr then [] else s.bytes (a + 16) (dlcLen (b % 16)) }

/-- A frame with a data phase measures the transceiver's loop delay, which the spec bounds at 255 ns and does not fix
(R411, R440, R444, log entry 75). -/
def State.tdcMeasure (s : State) (x a : Nat) : State :=
  if s.flag (CAN.TDCEN x) ∧ bitAt (s.le (a + 4) 1) 5 then s.free.2.put (CAN.TDCV x) (s.free.1 % 26) else s

/-- CAN_FRAME_SENT: the head offered at `sof` is sent; `t` is the sample point of the seventh end-of-frame bit
(R431, R434, R435). In internal loopback the controller receives it as if from the bus (R438). -/
def execCanFrameSent (t x sof : Nat) (s : State) : Host.Outcome State Fault Refusal :=
  .next (
    let s := s.reach t
    match s.txChoice x sof with
    | none => s
    | some f =>
      if ¬ s.canLive x then s
      else
        let s := s.txAttempt x f sof
        let a := txAddr x f (s.txHead x f)
        let tag := s.le (a + 8) 4
        let ev := bitAt (s.le (a + 6) 1) 1
        let own := s.elementFrame x a
        let s := (((s.tdcMeasure x a).txPop x f).count (CAN.TXCNT x)).setCan x (fun c => { c with tx := min (c.tx + 1) 65535 })
        let s := ((s.put (CAN.TEC x) (s.get (CAN.TEC x) - 1)).put (CAN.LEC x) 0).evt (0x30 + x) 2
        let s := s.canErrors x t
        let s := if ev then s.txEvent x f 0x38 tag (s.splitAt sof) t else s
        let s := State.txPurge x f t 32 s
        (if s.get (CAN.MODE x) = 2 then s.canTake x sof own t else s).canFrameEnd x)

/-- CAN_ARBITRATION_LOST: the head offered at `sof` loses (R431, R433). -/
def execCanArbitrationLost (t x sof : Nat) (s : State) : Host.Outcome State Fault Refusal :=
  .next (
    let s := s.reach t
    match s.txChoice x sof with
    | none => s
    | some f => if s.canLive x then (s.txAttempt x f sof).txFailed x f 0x39 sof t else s)

/-- CAN_ERROR: an error of code `code`, with what ISO 11898-1 adds to TEC and REC for it; `sending` where the controller
was transmitting a frame begun at `sof` (R414, R418, R433). -/
def execCanError (t x code tec rec_ sof : Nat) (sending : Bool) (s : State) : Host.Outcome State Fault Refusal :=
  .next (
    let s := s.reach t
    if ¬ s.canLive x then s
    else
      let s := ((s.put (CAN.LEC x) code).put (CAN.TEC x) (min 511 (s.get (CAN.TEC x) + tec))).put (CAN.REC x) (min 255 (s.get (CAN.REC x) + rec_))
      let s := match sending, s.txChoice x sof with
        | true, some f => (s.txAttempt x f sof).txFailed x f 0x3A sof t
        | _, _ => s
      (s.canErrors x t).canFrameEnd x)

/-- CAN_INTEGRATION_COMPLETE (R414). -/
def execCanIntegrationComplete (t x : Nat) (s : State) : Host.Outcome State Fault Refusal :=
  .next (
    let s := s.reach t
    if s.get (CAN.STATE x) = 1 then ((s.put (CAN.STATE x) 2).evt (0x30 + x) 7).canErrors x t else s)

/-- CAN_RECOVERY_COMPLETE (R414, R445). -/
def execCanRecoveryComplete (t x : Nat) (s : State) : Host.Outcome State Fault Refusal :=
  .next (
    let s := s.reach t
    if s.get (CAN.STATE x) = 5 then
      let s := ((s.put (CAN.STATE x) 2).put (CAN.TEC x) 0).put (CAN.REC x) 0
      ((s.evt (0x30 + x) 7).evt 0x38 (8 + x)).canErrors x t
    else s)

/-- CAN_PROTOCOL_EXCEPTION: the event, or a form error where EXCINT is 0 (R414, R444). -/
def execCanProtocolException (t x : Nat) (s : State) : Host.Outcome State Fault Refusal :=
  .next (
    let s := s.reach t
    if ¬ s.canLive x then s
    else if s.flag (CAN.EXCINT x) then
      let s := ((s.count (CAN.PXECNT x)).evt (0x30 + x) 9).detect (canSrc x 3) x
      if s.get (CAN.STATE x) = 6 then s else s.put (CAN.STATE x) 1
    else (((s.put (CAN.LEC x) 2).put (CAN.REC x) (min 255 (s.get (CAN.REC x) + 1))).canErrors x t).canFrameEnd x)

/-- CAN_TX_FETCH: the controller moves the head of its feeding queue into FIFO `f` (R429). -/
def execCanTxFetch (t x f : Nat) (s : State) : Host.Outcome State Fault Refusal :=
  .next (
    let s := s.reach t
    let k := s.get (txQueue x f)
    if ¬ (s.flag (txFed x f) ∧ s.get (BQ.HWC k) = 0x30 + x ∧ s.get (txFill x f) < 32) ∨ s.strideQueue k then s
    else match (s.queue k).entries with
      | [] => s
      | e :: _ =>
        let el := s.txElement x e
        ((s.qRemove k).txEnter x f el t).freeBuffer e)

/-- CAN_STOP_TIMEOUT: no frame end came within 800 bit times (R415). -/
def execCanStopTimeout (x : Nat) (s : State) : Host.Outcome State Fault Refusal :=
  .next (s.onExpiry (.canStop x) (fun _ s => (s.evt (0x30 + x) 11).canStopped x))

/-- CAN_TXD_TIMEOUT (R440). -/
def execCanTxdTimeout (t x : Nat) (s : State) : Host.Outcome State Fault Refusal :=
  .next (let s := s.reach t; if s.canLive x then (s.evt (0x30 + x) 10).detect (canSrc x 4) x else s)

end Sys2Proof.Machine
end

