-- ==== Sys2Proof/Machine/Bridge.lean ====
section
/-! DEFINITION. Motor half-bridges and H-bridges (R304 to R325). -/
namespace Sys2Proof.Machine

/-- What one output of a bridge does (R306): both switches off, a side on, or the PWM of both at a duty. -/
inductive HbPin
  | off | low | high
  | pwm (duty : Nat)
  deriving DecidableEq, Repr

/-- The direction a start command drives: 1 forward, 2 reverse (R306, R313). -/
def State.hbDir (s : State) (n c : Nat) : Nat := if s.hbPaired n && decide (c = 2) then 2 else 1

/-- The applied command of a bridge; a held or disabled one is taken as OFF (R546). -/
def State.hbCmd (s : State) (n : Nat) : Nat := if s.cmdOn (.hb n) then s.get (HB.CMD n) else 0

/-- The duty of a period: DUTY, or PDUTY in a parking run; an on-time or off-time below twice the dead time is omitted (R306, R307,
R315). -/
def State.hbDuty (s : State) (n : Nat) : Nat :=
  let d := if s.phase (.hb n) = .parking then (if s.keeps (.hb n) then (s.out (.hb n)).kept.1 else s.get (HB.PDUTY n))
    else if !s.hbPaired n && decide ((s.bridge n).cmd = 1) then 4096 else s.keptDuty (.hb n) (s.get (HB.DUTY n))
  let least := 200 * s.get (HB.DEADT n) * 4096 * s.get (HB.PWMF n)
  if d * 10000000 < least then 0 else if (4096 - d) * 10000000 < least then 4096 else d

/-- What output `n` does (R306, R309, R311, R315, R317): the drive of its bridge's state, where a chopped switch is open and the
opposite one carries the current. Behind an open reverse-blocking switch, and after a trip, both switches are off. -/
def State.hbPin (s : State) (n : Nat) : HbPin :=
  let m := s.hbMaster n
  let b := s.bridge m
  let chopped := (s.bridge n).phaseOpen
  let side := if chopped then HbPin.high else .low
  let pwm := if chopped then HbPin.low else .pwm (s.out (.hb m)).dutyAct
  let run := if s.hbPaired n then (if decide (b.dirLast = 1) = decide (n = m) then pwm else side) else pwm
  if s.below || b.cut then .off
  else match s.phase (.hb m) with
    | .on => run
    | .parking => if b.parkBrake then side else run
    | .brake => if decide (b.cmd = 4) = chopped then .low else .high
    | .revbrk | .stalled => side
    | _ => .off

/-- A released start drives the bridge (R309). -/
def State.startRun (s : State) (n t : Nat) : State :=
  let c := s.get (HB.CMD n)
  let d := s.hbDir n c
  let s := (s.enterOn (.hb n) t).setBridge n (fun b =>
    { b with
      cmd := c, dirLast := d, lastRipple := none, intervals := [], chopSince := none, phaseOpen := false, parkBrake := false,
      cut := false })
  let s := (s.put (HB.DIR n) d).setOut (.hb n) (fun o => { o with dutyAct := s.hbDuty n })
  s.arm (.release (72 + n)) (t + ms (s.get MSH.HBREL))

/-- The debounced level of the park input stands at PLVL (R315). -/
def State.atPark (s : State) (n : Nat) : Bool := decide (s.get (DIN.CHSTAT_LEVEL (s.get (HB.IN n))) = s.get (HB.PLVL n))

/-- Leaves the drive for a brake; a pending start is no longer wanted. -/
def State.hbBrake (s : State) (n c t : Nat) : State :=
  let s := ((s.mshRemove (.hb n)).mshReleaseOf (.hb n)).put (HB.PENDEN n) 0
  (((s.quiet (.hb n)).setPhase (.hb n) .brake t).put (HB.DIR n) 0).setBridge n (fun b => { b with cmd := c, cut := false })

/-- Leaves the drive for the stop. -/
def State.hbStop (s : State) (n t : Nat) : State :=
  ((s.beginStop (.hb n) t).put (HB.PENDEN n) 0).setBridge n (fun b => { b with cmd := 0 })

/-- The bridge brakes low after a parking run for REVBRK (R315). -/
def State.parkBrake (s : State) (n t : Nat) : State :=
  ((s.disarm (.park n)).setBridge n (fun b => { b with parkBrake := true })).arm (.parkBrake n) (t + ms (s.get (HB.REVBRK n)))

/-- The command of a bridge at a tick (R306, R309). -/
def State.applyBridge (s : State) (n t : Nat) : State :=
  let u := OutU.hb n
  let c := s.hbCmd n
  let was := (s.bridge n).cmd
  let changed := decide (c ≠ was)
  let isStart := s.hbStarts n c
  let isBrake := s.hbBrakes n c
  let s := s.setBridge n (fun b => { b with cmd := c })
  let s := if c = 0 then s.reloadRetry u else s
  match s.phase u with
  | .off => if isStart then s.fromOff u t else if isBrake then s.hbBrake n c t else s
  | .brake => if isStart then s.fromOff u t else if isBrake then s else s.hbStop n t
  | .wait => if isStart then s else if isBrake then s.hbBrake n c t else (s.mshRemove u).setPhase u .off t
  | .on =>
    if isStart then
      if s.hbPaired n ∧ s.hbDir n c ≠ (s.bridge n).dirLast then
        let s := (s.mshReleaseOf u).quiet u
        ((s.setPhase u .revbrk t).setBridge n (fun b => { b with revStart := t })).arm (.revbrk n) (t + ms (s.get (HB.REVBRK n)))
      else s
    else if isBrake then s.hbBrake n c t
    else if s.flag (HB.PEN n) ∧ ¬ s.atPark n then
      ((s.setPhase u .parking t).disarm (.reload u)).arm (.park n) (t + ms (10 * s.get (HB.PARKTO n)))
    else s.hbStop n t
  | .revbrk =>
    if isBrake then s.hbBrake n c t else if c = 0 then s.hbStop n t
    else if isStart && changed then s.put (HB.PENDEN n) 1 else s
  | .parking => if isStart then (if changed then s.put (HB.PENDEN n) 1 else s) else s.put (HB.PENDEN n) 0
  | .stopping => s.put (HB.PENDEN n) (b2n isStart)
  | .stalled => if isBrake then s.hbBrake n c t else if c = 0 then s.hbStop n t else s
  | .tripped | .deferred => if c = 0 then s.applyOff u t else s
  | _ => s

/-- A change of POSLD.SEQ applied at a tick loads POS and clears POSUNC (R314). -/
def State.applyPosLoad (s : State) (n : Nat) : State :=
  if s.get (HB.SEQ n) = (s.bridge n).seqSeen then s
  else ((s.put (HB.POS n) (s.get (HB.VALUE n))).put (HB.POSUNC n) 0).setBridge n (fun b => { b with seqSeen := s.get (HB.SEQ n) })

/-- A trip of a stalled bridge, which takes no trip out of its state (R309): its flags and its count, and every switch opens
(R311). -/
def State.hbCut (s : State) (n : Nat) (flags : List Nat) (t : Nat) : State :=
  ((flags.foldl (fun s b => s.setFault (.hb n) b t) s).count (HB.TRIPS n)).setBridge (s.hbMaster n) (fun b => { b with cut := true })

/-- A trip of an H-bridge turns all of it off (R311). -/
def State.hbTrip (s : State) (n : Nat) (flags : List Nat) (t : Nat) : State :=
  match s.phase (.hb n) with
  | .on | .parking | .revbrk | .brake => s.trip (.hb n) flags false t
  | .stalled => if (s.bridge (s.hbMaster n)).cut then s else s.hbCut n flags t
  | _ => s

/-! Commands. -/

/-- REVERSE_BRAKE_END: REVBRK has elapsed with the current below 0.5 A, or 4 × REVBRK has (R309). -/
def execReverseBrakeEnd (t n : Nat) (below : Bool) (s : State) : Host.Outcome State Fault Refusal :=
  .next (
    let s := s.reach t
    let rs := (s.bridge n).revStart
    let rb := ms (s.get (HB.REVBRK n))
    let late := decide (rs + 4 * rb ≤ t)
    if s.phase (.hb n) ≠ .revbrk then s
    else if (below && decide (rs + rb ≤ t)) || late then
      let s := if below && !late then s else s.setFault (.hb n) 12 t
      (((s.disarm (.revbrk n)).put (HB.PENDEN n) 0).put (HB.DIR n) 0).startWait (.hb n) t
    else s)

/-- PARK_INPUT_REACHED: the debounced park input reaches PLVL in PARKING (R315). -/
def execParkInputReached (t n : Nat) (s : State) : Host.Outcome State Fault Refusal :=
  .next (
    let s := s.reach t
    if s.phase (.hb n) = .parking ∧ ¬ (s.bridge n).parkBrake then s.parkBrake n t else s)

/-- PARK_TIMEOUT: PARKTO has passed without the park level (R315). -/
def execParkTimeout (n : Nat) (s : State) : Host.Outcome State Fault Refusal :=
  .next (s.onExpiry (.park n) (fun t s =>
    if s.phase (.hb n) = .parking then (s.setFault (.hb n) 11 t).parkBrake n t else s))

/-- PARK_BRAKE_END: the brake after a parking run ends in STOPPING (R315). -/
def execParkBrakeEnd (n : Nat) (s : State) : Host.Outcome State Fault Refusal :=
  .next (s.onExpiry (.parkBrake n) (fun t s =>
    if s.phase (.hb n) = .parking then
      let pend := s.get (HB.PENDEN n)
      (s.hbStop n t).put (HB.PENDEN n) pend
    else s))

/-- CHOP_LIMIT: the conducting switch opens for the rest of the period; an episode sets CHOP once (R311). -/
def execChopLimit (t n : Nat) (s : State) : Host.Outcome State Fault Refusal :=
  .next (
    let s := s.reach t
    if (s.phase (.hb n)).conducts then
      let s := if (s.bridge n).chopSince.isNone then
          ((s.setFault (.hb n) 14 t).put (HB.CHOPPING n) 1).setBridge n (fun b => { b with chopSince := some t })
        else s
      s.setBridge n (fun b => { b with phaseOpen := true })
    else s)

/-- BRIDGE_PWM_PERIOD: the applied DUTY takes effect and a chopped switch closes again, of either output of an H-bridge (R305,
R307, R311). -/
def execBridgePwmPeriod (t n : Nat) (s : State) : Host.Outcome State Fault Refusal :=
  .next (
    let s := s.reach t
    let m := s.hbMaster n
    let d := s.hbDuty m
    (s.members (.hb n)).foldl (fun s v => match v with
      | .hb k =>
        let s := if (s.bridge k).phaseOpen then s else (s.put (HB.CHOPPING k) 0).setBridge k (fun b => { b with chopSince := none })
        s.setBridge k (fun b => { b with phaseOpen := false })
      | _ => s) (s.setOut (.hb m) (fun o => { o with dutyAct := d })))

/-- OVERLOAD_TRIP: the I² integral reaches 33.6 A²s (R311). -/
def execOverloadTrip (t n : Nat) (s : State) : Host.Outcome State Fault Refusal :=
  .next ((s.reach t).hbTrip n [5] t)

/-- SHORT_CIRCUIT_TRIP: a high-side short sets STG, a low-side one STB, both legs of an H-bridge SCLD (R311). -/
def execShortCircuitTrip (t n : Nat) (high low bothLegs : Bool) (s : State) : Host.Outcome State Fault Refusal :=
  .next (
    let s := s.reach t
    let s := if (s.phase (.hb n)).conducts then s.setOut (.hb n) (fun o => { o with bad := o.bad ||| (4 * b2n high + 8 * b2n low) }) else s
    s.hbTrip n ((if high then [2] else []) ++ (if low then [3] else []) ++ (if bothLegs && s.hbPaired n then [4] else [])) t)

/-- Whether a stall shows: a bridge that has chopped for STALLT, or one at STALLI or more whose counter has counted no ripple for
STALLT of its run (R312). -/
def State.stalls (s : State) (n t : Nat) : Bool :=
  let b := s.bridge n
  let d := ms (s.get (HB.STALLT n))
  (s.members (.hb n)).any (fun v => match v with
    | .hb k => (s.bridge k).chopSince.any (fun c => decide (c + d ≤ t))
    | _ => false)
  || (s.flag (HB.RIPEN n) && decide (10 * s.get (HB.STALLI n) ≤ (s.signed (HB.IOUT n)).natAbs)
      && decide (max (s.out (.hb n)).since (b.lastRipple.getD 0) + d ≤ t))

/-- STALL_DETECT: no ripple, or chopping, for STALLT in RUN (R312). -/
def execStallDetect (t n : Nat) (s : State) : Host.Outcome State Fault Refusal :=
  .next (
    let s := s.reach t
    if s.phase (.hb n) ≠ .on || !s.stalls n t then s
    else
      let s := (s.setFault (.hb n) 10 t).count (HB.STALLS n)
      if s.flag (HB.STALLACT n) then
        let s := ((s.mshReleaseOf (.hb n)).quiet (.hb n)).setPhase (.hb n) .stalled t
        (s.put (HB.DIR n) 0).yieldOnce 5 2 (upage (.hb n)).2 t
      else s)

/-- Whether ripples of a bridge are counted: RIPEN, and the current as last measured at RIPMIN or above (R313). -/
def State.ripples (s : State) (n : Nat) : Bool :=
  s.flag (HB.RIPEN n) && decide (s.get (HB.RIPMIN n) ≤ (s.signed (HB.IOUT n)).natAbs)

/-- RIPPLE_CROSSING: one ripple, its interval, and the ripples that insertion adds (R313). A crossing less than 200 µs after the
last ripple lies above 5 kHz and is none; one more than 50 ms after it lies below 20 Hz, counts nothing, and begins a new run of
intervals. -/
def execRippleCrossing (t n : Nat) (s : State) : Host.Outcome State Fault Refusal :=
  .next (
    let s := s.reach t
    let near := (s.bridge n).lastRipple.any (fun l => decide (t < l + us 200))
    let far := (s.bridge n).lastRipple.any (fun l => decide (l + ms 50 < t))
    if !s.ripples n || near then s
    else if far then s.setBridge n (fun b => { b with lastRipple := some t, intervals := [] })
    else
      let b := s.bridge n
      let iv := b.lastRipple.map (fun l => t - l)
      let mean4 := b.intervals.sum
      let extra := match iv with
        | some i =>
          if s.flag (HB.INSEN n) ∧ b.intervals.length = 4 ∧ 10 * 4 * i > 16 * mean4 ∧ mean4 > 0 then
            min ((2 * 4 * i + mean4) / (2 * mean4) - 1) 2
          else 0
        | none => 0
      let step := 1 + extra
      let pos := s.get (HB.POS n)
      let s := s.put (HB.POS n) (if b.dirLast = 2 then pos + 2 ^ 32 - step else pos + step)
      let s := s.count (HB.INSERTED n) extra
      let s := match iv with
        | some i => s.put (HB.RIPPER n) (min (i / 4000) 0xFFFF)
        | none => s
      s.setBridge n (fun b => { b with lastRipple := some t, intervals := (iv.toList ++ b.intervals).take 4 }))

/-- POSUNC: the current falls below RIPMIN after an interval shorter than STALLT (R314). -/
def execPosunc (t n : Nat) (s : State) : Host.Outcome State Fault Refusal :=
  .next (
    let s := s.reach t
    match (s.bridge n).intervals.head? with
    | some i =>
      if i < ms (s.get (HB.STALLT n)) then
        (s.put (HB.POSUNC n) 1).setBridge n (fun b => { b with lastRipple := none, intervals := [] })
      else s
    | none => s)

end Sys2Proof.Machine
end

