-- ==== Sys2Proof/Machine/Valve.lean ====
section
/-! DEFINITION. Valve channels and their banks (R268 to R303). -/
namespace Sys2Proof.Machine

/-- A profile that no entry gives. -/
def profInit : ValveProf := ⟨0, 0, 0, 0, 0, 0⟩

/-- Profile entry `p` of the profile table (R270). -/
def State.profile (s : State) (p : Nat) : ValveProf :=
  let a := 0x3BFC00 + 16 * p
  ⟨s.le a 2, s.le (a + 2) 1, s.le (a + 3) 1, s.le (a + 4) 1, s.le (a + 5) 1, s.le (a + 6) 2⟩

/-- PEND, DECAY, RAMP and VALID of a profile. -/
def ValveProf.pend (p : ValveProf) : Bool := bitAt p.flags 0
/-- Fast decay at the step to hold. -/
def ValveProf.decay (p : ValveProf) : Bool := bitAt p.flags 1
/-- Ramp to hold. -/
def ValveProf.ramps (p : ValveProf) : Bool := bitAt p.flags 2

/-- Whether a profile entry is valid (R271). -/
def State.profOk (s : State) (p : Nat) : Bool :=
  let e := s.profile p
  bitAt e.flags 7 && decide ((e.flags >>> 3) % 16 = 0) && decide (e.peak ≤ 4000) && decide (1 ≤ e.peakt)
    && decide (s.le (0x3BFC00 + 16 * p + 8) 8 = 0) && !(e.ramps && e.decay)
    && (if e.ramps then decide (1 ≤ e.rampt) else decide (e.rampt = 0))
    && (if e.pend then decide (1 ≤ e.dipth ∧ e.dipth ≤ 4000) else decide (e.dipth = 0))

/-- The members that command channel `n` sums over: 2 for the master of a pair. -/
def State.vdSize (s : State) (n : Nat) : Nat := (s.members (.vd n)).length

/-- Whether channel `n` runs at a fixed duty, by its pair's master (R277, R289). Under a pattern every channel that it sets on
regulates (R297). -/
def State.vdFixed (s : State) (n : Nat) : Bool :=
  let o := s.out (.vd (s.vdMaster n))
  if o.fs then o.hold && decide (o.kept.1 = 1) else decide (s.get (VDB.MODE (s.vdMaster n)) = 1)

/-- The hold setpoint of a channel, in 1.5 mA steps per member (R274, R289): under a pattern FSHOLD, or for a channel that it holds
the setpoint that it had (R297). -/
def State.vdSet (s : State) (n : Nat) : Nat :=
  let o := s.out (.vd (s.vdMaster n))
  if o.fs then (if o.hold then o.kept.2 else s.act VDC.FSHOLD) else s.get (VDB.SET (s.vdMaster n))

/-- The peak current of a start: the greater of its profile's peak and the setpoint in force (R272); at a fixed duty the 3 A of
R277. -/
def State.vdPeak (s : State) (n : Nat) : Nat :=
  if s.vdFixed n then 2000 else max (s.valve (s.vdMaster n)).prof.peak (s.vdSet n)

/-- The peak current that a start will have once this stride's values are applied (R251, R272, R277). -/
def State.vdPeakNext (s : State) (n : Nat) : Nat :=
  if s.next (VDB.MODE n) = 1 then 2000 else max (s.valve n).prof.peak (s.next (VDB.SET n))

/-- The setpoint in force at `t`, peak and ramp included, without dither (R272, R273). A ramp leads from the peak current to
the hold setpoint (DEDUCED, log entry 71). -/
def State.vdForce (s : State) (n t : Nat) : Nat :=
  match s.phase (.vd n) with
  | .start => s.vdPeak n
  | .on =>
    let p := s.vdPeak n
    let h := s.vdSet n
    match (s.valve (s.vdMaster n)).ramp, s.due (.ramp (s.vdMaster n)) with
    | true, some d => h + (p - h) * (d - t) / (100000 * (s.valve (s.vdMaster n)).prof.rampt)
    | _, _ => h
  | _ => 0

/-- The dither of a channel at `t`, in 1.5 mA steps (R276): a triangle that starts upwards, or a square that starts high
(DESIGN CHOICE, log entry 72), from the zero of its phase. `x` is the phase in quarter-periods of 10⁹ parts. -/
def State.dither (s : State) (n t : Nat) : Int :=
  let m := s.vdMaster n
  match (s.valve m).dither0 with
  | none => 0
  | some z =>
    let x : Int := Int.ofNat ((4 * (t - z) * s.get (VDB.DFREQ m) + 1000000000 * s.get (VDB.DPHASE m)) % 4000000000)
    let a := Int.ofNat (s.get (VDB.DAMP m))
    if s.flag (VDB.DSHAPE m) then (if x < 2000000000 then a else -a)
    else a * (if x < 1000000000 then x else if x < 3000000000 then 2000000000 - x else x - 4000000000) / 1000000000

/-- Whether dither runs on a channel: in HOLD, not during the ramp (R273, R276). -/
def State.dithers (s : State) (n : Nat) : Bool :=
  let v := s.valve (s.vdMaster n)
  decide (s.phase (.vd n) = .on) && !s.vdFixed n && !v.ramp && decide (s.get (VDB.DFREQ (s.vdMaster n)) ≠ 0) && v.dither0.isSome

/-- What the regulator aims at, at `t`: the setpoint in force, with its dither within 0 to 3 A (R276). -/
def State.vdTarget (s : State) (n t : Nat) : Nat :=
  let f := s.vdForce n t
  if s.dithers n then (min (Int.ofNat f + s.dither n t) 2000).toNat else f

/-- The offset of a channel's regulator periods within its bank, in split steps (R275). -/
def State.vdOffset (s : State) (n : Nat) : Nat :=
  let m := s.vdMaster n
  if s.flag (VDB.STAG m) then m % 4 * 625000 / s.get (VDB.PWMF m) else 0

/-- The phase of the dither is zero at the tick that ends the peak phase: the first tick at or after its end (R276; DEDUCED, log
entry 72). -/
def State.ditherTick (s : State) (t : Nat) : State :=
  (List.range 16).foldl (fun s n =>
    if s.phase (.vd n) = .on ∧ (s.valve n).dither0 = none then s.setValve n (fun v => { v with dither0 := some t }) else s) s

/-- A channel's share of its bank's demand, in 1.5 mA steps with a pair at its total (R281). A start that its bank has not
passed adds nothing. -/
def State.vdDemand (s : State) (n : Nat) : Nat :=
  if s.master (.vd n) ≠ .vd n then 0
  else s.vdSize n * (match s.phase (.vd n) with
    | .wait => if (s.valve n).ask then 0 else s.vdPeak n
    | .start => s.vdPeak n
    | .on | .stopping => if s.vdFixed n then 2000 else s.vdSet n
    | _ => 0)

/-- The bank demand, in 1.5 mA steps (R281). -/
def State.bankDemand (s : State) (b : Nat) : Nat := ((List.range 4).map (fun k => s.vdDemand (4 * b + k))).sum

/-- Turns a bank switch on, or keeps it on through its turn-off delay (R280); one with its latch set is deferred (R195, R288). -/
def State.bankOn (s : State) (b t : Nat) : State :=
  match s.phase (.bank b) with
  | .off =>
    if s.latched (.bank b) then s.enterDeferred (.bank b) true t
    else (s.enterOn (.bank b) t).setOut (.bank b) (fun o => { o with ronDue := true })
  | .offdly => (s.disarm (.bankOff b)).putPhase (.bank b) .on
  | _ => s

/-- A released valve start: PEAK with the copied profile, or in MODE 0b01 regulation-free running (R272, R277, R280). Where the bank
switch cannot turn on, the channel waits for it in BANKOFF (R288; DEDUCED, log entry 84). -/
def State.startPeak (s : State) (n t : Nat) : State :=
  let s := (s.bankOn (n / 4) t).disarm (.testPhase (.bank (n / 4)))
  if s.phase (.bank (n / 4)) ≠ .on then (s.mshReleaseOf (.vd n)).setPhase (.vd n) .bankoff t
  else if s.vdFixed n then
    (s.enterOn (.vd n) t).setValve n (fun v => { v with firstPwm := true, ramp := false, slow := false })
  else
    let v := s.valve n
    let s := (s.setPhase (.vd n) .start t).count (VDB.CHCNT_PEAKS n)
    let first := decide (v.prof.peak ≤ s.vdSet n)
    let s := s.setValve n (fun v =>
      { v with start := t, highest := 0, full := true, ramp := false, slow := false, firstPwm := first, dither0 := none })
    s.arm (.peak n) (t + 100000 * v.prof.peakt)

/-- The peak phase ends: HOLD, by slow or fast decay or over a ramp, and the release point of its item (R273, R279). -/
def State.endPeak (s : State) (n t : Nat) : State :=
  let s := (s.mshReleaseOf (.vd n)).disarm (.peak n)
  let s := s.enterOn (.vd n) t
  let r := (s.valve n).prof.ramps
  let s := s.setValve n (fun v => { v with ramp := r, slow := !r && !v.prof.decay, full := false, firstPwm := false, dither0 := none })
  if r then s.arm (.ramp n) (t + 100000 * (s.valve n).prof.rampt) else s

/-- Copies the profile of a start that a decision considers (R271). -/
def State.copyProf (s : State) (n p : Nat) : State :=
  let e := s.profile p
  s.setValve n (fun v => { v with prof := e })

/-- Whether channel `n` will be commanded on once this stride's values are applied. -/
def State.vdNext (s : State) (n : Nat) : Bool :=
  s.flag (Hdr.EN (0x18 + n / 4)) && decide (s.next (VDB.EN n) = 1) && !s.held (.vd n) && !(s.out (.vd n)).fs
    && decide (s.master (.vd n) = .vd n)

/-- One candidate under its bank's policy, with the demand and stop flag of the check so far (R281 to R284). -/
def State.bankCandidate (acc : State × Nat × Bool) (n m : Nat) : State × Nat × Bool :=
  let s := acc.1
  let b := n / 4
  let fixed := decide (s.next (VDB.MODE n) = 1)
  let prof := s.next (VDB.PROF n)
  let add := fun (s : State) (v : BankPlan) => { s with msh := { s.msh with plan := s.msh.plan ++ [(n, v)] } }
  if !fixed && !s.profOk prof then
    (add ((s.put VDC.PROF prof).put VDC.CHAN n) .profErr, acc.2)
  else
    let s := if fixed then s.setValve n (fun v => { v with prof := profInit }) else s.copyProf n prof
    let need := s.vdSize n * s.vdPeakNext n
    let fits := decide (15 * (acc.2.1 + need) ≤ 1000 * s.get (VDB.PKBUD b))
    let pol := s.get (VDB.POLICY b)
    if pol = 0 ∨ (fits ∧ !(decide (pol = 1) && acc.2.2)) then (add s .pass, acc.2.1 + need, acc.2.2)
    else if pol = 2 then (add (s.count (VDB.PKDLY b)) .refuse, acc.2)
    else
      let s := if s.phase (.vd n) = .bwait then s
        else ((s.count (VDB.PKDLY b)).setValve n (fun v => { v with bwaitLap := m }))
      (add s .bwait, acc.2.1, true)

/-- Whether the start of a channel is up for its bank's verdict at a decision: a start that the stride commits, with `new`, or
one that came about in another way (R246, R251, R279, R288). -/
def State.vdAsks (s : State) (n : Nat) (new : Bool) : Bool :=
  s.vdNext n && !s.latched (.vd n) && (match s.phase (.vd n) with
    | .off => new || (s.valve n).ask
    | .wait => (s.valve n).ask
    | .bankoff => decide (s.phase (.bank (n / 4)) = .on)
    | _ => false)

/-- The bank check of a decision for tick lap `m`: BWAIT members by lap, then new starts, each by channel (R283). -/
def State.bankDecide (s : State) (b m : Nat) (newStarts : Bool) : State :=
  let ns := (List.range 4).map (fun k => 4 * b + k)
  let waits := (ns.filter (fun n => decide (s.phase (.vd n) = .bwait) && s.vdNext n)).mergeSort
    (fun x y => decide ((s.valve x).bwaitLap ≤ (s.valve y).bwaitLap))
  let fresh := ns.filter (fun n => s.vdAsks n newStarts)
  ((waits ++ fresh).foldl (fun acc n => State.bankCandidate acc n m) (s, s.bankDemand b, false)).1

/-- The bank's verdict on a start takes effect at the tick (R279, R282, R292); a start without one waits for the next
decision, and one in BANKOFF stays there. -/
def State.applyVerdict (s : State) (n t : Nat) : State :=
  let u := OutU.vd n
  let told := fun (s : State) =>
    (if s.phase u = .off then s.disarm (.testPhase (.bank (n / 4))) else s).setValve n (fun v => { v with ask := false })
  match s.msh.plan.find? (fun e => decide (e.1 = n)) with
  | some (_, .pass) => ((told s).disarm (.testPhase (.bank (n / 4)))).setPhase u .wait t
  | some (_, .bwait) => if s.phase u = .bwait then s else ((told s).setPhase u .bwait t).setFault u 10 t
  | some (_, .refuse) => ((told s).setPhase u .refused t).setFault u 9 t
  | some (_, .profErr) => ((told s).setPhase u .refused t).setFault u 15 t
  | none => if s.phase u = .off then s.setValve n (fun v => { v with ask := true }) else s

/-- The command of a valve channel at a tick (R279): its start follows the bank's verdict. -/
def State.applyValve (s : State) (n t : Nat) : State :=
  let u := OutU.vd n
  if ¬ s.cmdOn u then ((s.setValve n (fun v => { v with ask := false })).applyCmd u t).bankCheck (n / 4) t
  else
    let s := match s.phase u with
      | .off => if s.latched u then s.enterDeferred u true t else s.applyVerdict n t
      | .wait => if (s.valve n).ask then s.applyVerdict n t else s
      | .bwait | .bankoff => s.applyVerdict n t
      | _ => s.applyOn u t
    s.g5Standing u t

/-- A bank switch at a tick: a bank that nothing commands leaves its retries behind (R195, R288). -/
def State.applyBank (s : State) (b t : Nat) : State :=
  match s.phase (.bank b) with
  | .tripped | .deferred => if s.wants (.bank b) then s else ((s.quiet (.bank b)).setPhase (.bank b) .off t).reloadRetry (.bank b)
  | .off => s.reloadRetry (.bank b)
  | _ => s

/-- A tripped bank switch drops its members into BANKOFF (R279, R288). -/
def State.bankTrip (s : State) (b : Nat) (flags : List Nat) (t : Nat) : State :=
  let s := (s.trip (.bank b) flags true t).detect (0x6A + 8 * b) 4
  (List.range 4).foldl (fun s k =>
    let u := OutU.vd (4 * b + k)
    if s.master u = u ∧ (s.vdActive (4 * b + k) ∨ s.phase u = .bwait) then
      (((((s.mshRemove u).mshReleaseOf u).quiet u).setPhase u .bankoff t).setFault u 11 t).setValve (4 * b + k)
        (fun v => { v with ask := false, slow := false })
    else s) s

/-! Commands. -/

/-- PEAK_PHASE_END: PEAKT has passed since the peak phase began (R273). -/
def execPeakPhaseEnd (n : Nat) (s : State) : Host.Outcome State Fault Refusal :=
  .next (s.onExpiry (.peak n) (fun t s =>
    let s := if (s.valve n).prof.pend then (s.setFault (.vd n) 14 t).put (VDB.PULLIN n) 0 else s
    s.endPeak n t))

/-- VALVE_PWM_PERIOD: current and corrected duty of one period; pull-in dip (R272, R273, R275). A period in which no over-current
trips the channel shows no STB (R290, R294). The slave of a pair runs in phase with its master, whose period decides (R289). -/
def execValvePwmPeriod (t n imeas duty : Nat) (s : State) : Host.Outcome State Fault Refusal :=
  .next (
    let s := s.reach t
    let v := s.valve (s.vdMaster n)
    let slave := decide (s.master (.vd n) ≠ .vd n)
    let total := if s.master (.vd n) = .vd n then s.vdSize n * imeas else imeas
    let s := s.put (VDB.IMEAS n) total
    let target := s.vdTarget n t
    let s := s.setValve n (fun v => { v with target := target })
    let off := s.vdOffset n
    let s := s.setOut (.vd n) (fun o => { o with phaseAct := off })
    match s.phase (.vd n) with
    | .start =>
      let s := s.evalGood (.vd n) 3
      let dip := v.prof.pend && v.full && decide (v.start + 100000 * v.prof.dipmin ≤ t)
        && decide (imeas + v.prof.dipth ≤ v.highest)
      let full := v.full && (slave || decide (imeas < s.vdPeak n))
      let s := s.put (VDB.DUTYACT n) (if full then 4096 else min duty 4096)
      let s := if slave then s else s.setValve n (fun v => { v with highest := max v.highest imeas, full := full })
      if slave then s
      else if dip then (s.put (VDB.PULLIN n) (min ((t - v.start) / 1000) 0xFFFF)).endPeak n t
      else if v.firstPwm then s.endPeak n t else s
    | .on =>
      let s := s.evalGood (.vd n) 3
      if s.vdFixed n then
        let s := s.put (VDB.DUTYACT n) (s.keptDuty (.vd (s.vdMaster n)) (s.get (VDB.DUTY (s.vdMaster n))))
        if v.firstPwm && !slave then (s.mshReleaseOf (.vd n)).setValve n (fun v => { v with firstPwm := false }) else s
      else s.put (VDB.DUTYACT n) (min duty 4096)
    | _ => s.put (VDB.DUTYACT n) 0)

/-- VALVE_RAMP_END: the ramp to hold has lasted RAMPT (R273). -/
def execValveRampEnd (n : Nat) (s : State) : Host.Outcome State Fault Refusal :=
  .next (s.onExpiry (.ramp n) (fun _ s => s.setValve n (fun v => { v with ramp := false })))

/-- SLOW_DECAY_TIMEOUT: a slow decay changes to fast (R285). -/
def execSlowDecayTimeout (n : Nat) (s : State) : Host.Outcome State Fault Refusal :=
  .next (s.onExpiry (.slow n) (fun t s => (s.setValve n (fun v => { v with slow := false })).setFault (.vd n) 13 t))

/-- VALVE_OVERCURRENT_TRIP: OC if the pin rises into its clamp, STB if it stays below VBAT + 5 V (R286, R290). -/
def execValveOvercurrentTrip (t n : Nat) (clamp : Bool) (s : State) : Host.Outcome State Fault Refusal :=
  .next (
    let s := s.reach t
    match s.phase (.vd n) with
    | .start | .on =>
      if (s.out (.vd n)).revOn then s
      else
        let s := if clamp then s.evalGood (.vd n) 3 else s.setOut (.vd n) (fun o => { o with bad := setBit o.bad 3 })
        s.trip (.vd n) [if clamp then 4 else 3] false t
    | _ => s)

/-- BANK_OFF_DELAY_EXPIRY: the bank switch turns off if no member has become active (R280). -/
def execBankOffDelayExpiry (b : Nat) (s : State) : Host.Outcome State Fault Refusal :=
  .next (s.onExpiry (.bankOff b) (fun t s =>
    if s.phase (.bank b) = .offdly then
      if s.bankActive b then s.putPhase (.bank b) .on
      else ((s.disarm (.reload (.bank b))).setPhase (.bank b) .off t)
    else s))

/-- BANK_OFF_STATE_TEST: at a grid instant of DIAGPER phase U begins on an idle bank with OFFDIAG (R222, R292, R698). The bank switch
is off as R292 asks in BSTATE OFF; a bank that waits to restart or is locked off is not tested (DESIGN CHOICE, log entry 88). -/
def execBankOffStateTest (t b : Nat) (s : State) : Host.Outcome State Fault Refusal :=
  .next (
    let s := s.reach t
    if s.onGrid t (2500000 * s.get VDC.DIAGPER) ∧ s.flag (Hdr.EN (0x18 + b)) ∧ s.flag (VDB.OFFDIAG b) ∧ s.phase (.bank b) = .off
        ∧ ¬ s.bankActive b ∧ ¬ (s.out (.bank b)).fs ∧ ¬ s.flag SUP.REVERSE then
      (s.setOut (.bank b) (fun o => { o with test := 1 })).arm (.testPhase (.bank b)) (t + us 500)
    else s)

end Sys2Proof.Machine
end

