-- ==== Sys2Proof/Machine/Marshal.lean ====
section
/-! DEFINITION. The Marshal start budget (R243 to R267). Weights are whole amperes. -/
namespace Sys2Proof.Machine

/-- `a / b` rounded up to the next whole number. -/
def ceilDiv (a b : Nat) : Nat := (a + b - 1) / b

/-- The derating steps in force on a load switch channel (R568). -/
def State.deratingOf (s : State) (n : Nat) : Nat := (s.out (.ls n)).drating

/-- The steady limit in force of one channel, in steps of 0.5 mA, with its master's scale (R198, R209, R568). -/
def State.steadyLimit (s : State) (n : Nat) : Nat :=
  let c := ([5000, 2000, 625] : List Nat).getD (lsClass n) 0
  c * max (8 + s.get (LSW.SSCALE (s.lsMaster n)) - s.deratingOf n) (if s.deratingOf n = 0 then 8 else 4)

/-- What a pulse of a channel weighs: the steady limit in force of its group, in whole amperes (R209, R258, R259). -/
def State.pulseWeight (s : State) (n : Nat) : Nat :=
  ceilDiv (((s.members (.ls n)).map (fun v => match v with
    | .ls k => s.steadyLimit k
    | _ => 0)).sum) 2000

/-- Duty applied of a load switch channel: its group's (R209, R226, R238). -/
def State.lsDuty (s : State) (n : Nat) : Nat :=
  let m := s.lsMaster n
  if !(s.phase (.ls n)).conducts then 0
  else match s.lsMode n with
    | 1 => (s.out (.ls m)).dutyAct
    | 2 => if s.msh.pulses.any (fun e => decide (e.1 = m)) then 4096
        else (s.out (.ls m)).base.getD (s.keptDuty (.ls m) (s.get (LSW.DUTY m)))
    | _ => 4096

/-- The class inrush limit of a channel, in amperes (R192, R234). -/
def inrushLimit (n : Nat) : Nat := ([75, 30, 9] : List Nat).getD (lsClass n) 0

/-- Peak weight of a start (R243, R244). -/
def State.peakWeight (s : State) (w : MshWait) : Nat :=
  let i := w.item
  if i < 56 then (([s.get MSH.HEAVY, s.get MSH.MEDIUM, s.get MSH.LIGHT] : List Nat).getD (lsClass i) 0)
      * (s.members (.ls i)).length
  else if i < 72 then
    let n := i - 56
    ceilDiv (15 * s.vdSize n * s.vdPeakNext n) 10000
  else if i < 84 then s.get MSH.HBPK
  else if i = 84 then ceilDiv (15 * w.units.length) 100
  else if i = 85 then w.units.length
  else s.get MSH.WAKEW

/-- Steady weight of a start (R243). -/
def State.steadyWeight (s : State) (w : MshWait) : Nat :=
  let i := w.item
  if i < 56 then (([25, 10, 3] : List Nat).getD (lsClass i) 0) * (s.members (.ls i)).length
  else if i < 72 then
    let n := i - 56
    if s.next (VDB.MODE n) = 1 then 3 * s.vdSize n else ceilDiv (15 * s.vdSize n * s.next (VDB.SET n)) 10000
  else if i < 84 then 8
  else s.peakWeight w

/-- PKUSE (R247). -/
def State.pkuse (s : State) : Nat :=
  (s.msh.peak.map (·.2)).sum + (s.msh.glow.map (fun (e : Nat × List Nat) => s.peakWeight ⟨e.1, e.2, none, false⟩)).sum
    + (s.msh.pulses.map (·.2)).sum

/-- The measured current of an item's unit, in whole amperes (R244, R245). -/
def State.measured (s : State) (i : Nat) : Nat :=
  if i < 56 then if (s.phase (.ls i)).conducts then ceilDiv (2 * s.get (LSW.IOUT i)) 1000 else 0
  else if i < 72 then if (s.phase (.vd (i - 56))).conducts then ceilDiv (15 * s.get (VDB.IMEAS (i - 56))) 10000 else 0
  else if i < 84 then
    if (s.phase (.hb (i - 72))).conducts then ceilDiv (10 * (s.signed (HB.IOUT (i - 72))).natAbs) 1000 else 0
  else 0

/-- Whether a sink, row or port that a start switched on is still enabled (R245). -/
def State.litStill (s : State) (i k : Nat) : Bool :=
  if i = 84 then s.wants (.led k) else if i = 85 then s.wants (.row k) else !bitAt s.phyLines (i - 86)

/-- CONTUSE: steady weights until the release point, measured currents after it (R245, R248). -/
def State.contuse (s : State) : Nat :=
  let pre := (s.msh.steady.map (·.2)).sum
  let run := ((List.range 84).map (fun i => if s.msh.steady.any (fun e => decide (e.1 = i)) then 0 else
    if (s.master (if i < 56 then .ls i else if i < 72 then .vd (i - 56) else .hb (i - 72)))
      = (if i < 56 then .ls i else if i < 72 then .vd (i - 56) else .hb (i - 72)) then s.measured i else 0)).sum
  let lit := (s.msh.lit.map (fun e =>
    let k := (e.2.filter (s.litStill e.1)).length
    if e.1 = 84 then ceilDiv (15 * k) 100 else if e.1 = 85 then k else s.get MSH.WAKEW)).sum
  pre + run + lit

/-- The source resistance in use (R247). -/
def State.rsrc (s : State) : Nat := if s.flag MSH.LEARN then max (s.get MSH.RSRC) (s.get MSH.RLEARN) else s.get MSH.RSRC

/-- The headroom current (R247). -/
def State.headroom (s : State) : Nat :=
  let d := (s.msh.vbat - Int.ofNat (s.get MSH.VFLOOR)).toNat
  100 * d / max s.rsrc 1

/-- The pulse reserve (R258). -/
def State.pulseReserve (s : State) : Nat :=
  ((List.range 56).map (fun n =>
    if s.get (LSW.MODE n) = 2 ∧ s.lsMaster n = n ∧ s.phase (.ls n) = .on ∧ ¬ (s.out (.ls n)).fs ∧ s.flag (LSWC.EN (s.get (LSW.SG n)))
      then s.pulseWeight n else 0)).sum

/-- What a pulse may take at an instant (R259). -/
def State.pulseBudget (s : State) : Nat := min (s.get MSH.PKMAX - s.pkuse) s.headroom

/-- The heat budget with a given reserve (R247). -/
def State.heatBudget (s : State) (reserve : Nat) : Nat := s.pulseBudget - reserve

/-- The priority class of an item (R252). -/
def State.prioOf (s : State) (i : Nat) : Nat := (s.get (MSH.PRIO (i / 16)) >>> (2 * (i % 16))) % 4

/-- Whether a start is promoted at the decision for lap `m` (R253). -/
def State.promoted (s : State) (w : MshWait) (m : Nat) : Bool :=
  let a := s.get MSH.AGELIM
  decide (a ≠ 0) && decide (a ≤ m - w.lap.getD m)

/-- Candidate order: class with promotion, lap, item (R252). -/
def State.before (s : State) (m : Nat) (a b : MshWait) : Bool :=
  let k := fun (w : MshWait) => if s.promoted w m then 0 else s.prioOf w.item
  if k a ≠ k b then decide (k a < k b)
  else if a.lap.getD m ≠ b.lap.getD m then decide (a.lap.getD m < b.lap.getD m) else decide (a.item ≤ b.item)

/-- What an admission pass has used: peak and steady amperes. -/
structure Used where
  peak : Nat
  steady : Nat
  stop : Bool
  deriving DecidableEq, Repr

/-- One pass over the ordered candidates: those that fit, up to the first that does not (R252, R248, R249, R261). -/
def State.admitted (s : State) (budget cont : Nat) (fallback : Bool) (ws : List MshWait) : List MshWait :=
  (ws.foldl (fun (acc : List MshWait × Used) w =>
    let u := acc.2
    let pk := if fallback then (if w.item < 56 then inrushLimit w.item * (s.members (.ls w.item)).length else s.peakWeight w)
      else s.peakWeight w
    let st := s.steadyWeight w
    let fits := decide (u.peak + pk ≤ budget)
      && (fallback || (if cont > s.get MSH.ICONT then decide (st = 0) else decide (cont + u.steady + st ≤ s.get MSH.ICONT)))
    if u.stop then acc
    else if fits then (acc.1 ++ [w], ⟨u.peak + pk, u.steady + st, false⟩)
    else (acc.1, { u with stop := true })) ([], ⟨0, 0, false⟩)).1

/-- The commanded enable of a unit after this stride's values are applied, where it would start from OFF. -/
def State.startsNext (s : State) (u : OutU) : Bool :=
  let en := match u with
    | .ls n => decide (s.next (LSW.EN n) = 1)
    | .led n => decide (s.next (LDS.EN n) = 1)
    | .row n => decide (s.next (LMX.EN n) = 1)
    | .hb n => s.hbStarts n (s.next (HB.CMD n))
    | _ => false
  let fromHere := match u with
    | .hb _ => decide (s.phase u = .off) || decide (s.phase u = .brake)
    | _ => decide (s.phase u = .off)
  en && fromHere && decide (s.master u = u) && s.flag (Hdr.EN (upage u).1) && !s.held u && !s.latched u && !(s.out u).fs
    && !(s.out u).stopping

/-- The starts that the frozen commit brings (R251), with lap `m`. -/
def State.newStarts (s : State) (m : Nat) : List MshWait :=
  let one := fun (u : OutU) (i : Nat) => if s.startsNext u then [(⟨i, [], some m, false⟩ : MshWait)] else []
  let lsw := (List.range 56).flatMap (fun n => one (.ls n) n)
  let vd := (s.msh.plan.filter (fun e => decide (e.2 = .pass))).map (fun e => (⟨56 + e.1, [], some m, false⟩ : MshWait))
  let hb := (List.range 12).flatMap (fun n => one (.hb n) (72 + n))
  let many := fun (i k : Nat) (mk : Nat → OutU) =>
    match (List.range k).filter (fun n => s.startsNext (mk n)) with
    | [] => []
    | us => [(⟨i, us, some m, false⟩ : MshWait)]
  let phy := (List.range 6).flatMap (fun p =>
    if bitAt s.phyLines p && !bitAt (s.next SWC.PHYRST) p then [(⟨86 + p, [], some m, false⟩ : MshWait)] else [])
  lsw ++ vd ++ hb ++ many 84 48 .led ++ many 85 16 .row ++ phy

/-- A start that is not released at the tick of its lap is one G7 yield (R263). -/
def State.deferStart (s : State) (w : MshWait) (cause t : Nat) : State × MshWait :=
  if w.counted then (s, w)
  else (((s.yieldOnce 7 cause w.item t).count MSH.DEFER).evt 0x0C 2, { w with counted := true })

/-- The decision for the tick of lap `m`, due at `tick` (R251 to R263): with `fresh`, the committed starts join. -/
def State.mshDecide (s : State) (t m tick : Nat) (fresh : Bool) : State :=
  let s := { s with msh := { s.msh with plan := [] } }
  let s := (List.range 4).foldl (fun s b => s.bankDecide b m fresh) s
  let cont := s.contuse
  let s := s.put MSH.CONTUSE (min cont 511)
  let s : State := if cont > s.get MSH.ICONT ∧ ¬ s.msh.contOver then s.detect 0x2A 0 else s
  let inv : Bool := s.flag SUP.VBINV
  let s := if inv then s else s.put MSH.FALLBACK 0
  let s := if s.flag MSH.OVSUSP ∧ s.msh.ovLow then s.put MSH.OVSUSP 0 else s
  let old := (s.msh.waiting.map (fun w => { w with lap := some (w.lap.getD m) }))
  let vdBwait := s.msh.plan.filterMap (fun e => if e.2 = .pass then some (56 + e.1) else none)
  let news := (if fresh then s.newStarts m else vdBwait.map (fun i => (⟨i, [], some m, false⟩ : MshWait))).filter
    (fun w => !old.any (fun o => decide (o.item = w.item) && decide (w.item < 84 ∨ 86 ≤ w.item)))
  let ws := (old ++ news).mergeSort (s.before m)
  let s := if ws.any (fun w => s.promoted w m) then s.evt 0x0C 5 else s
  let blocked := s.flag MSH.OVSUSP || (s.flag MSH.FREEZE && !inv) || decide (tick < s.msh.notBefore)
  let heat := if blocked then [] else if inv then s.admitted 75 0 true ws else s.admitted (s.heatBudget s.pulseReserve) cont false ws
  let without := if blocked ∨ inv then heat else s.admitted (s.heatBudget 0) cont false ws
  let rest := ws.filter (fun w => !heat.any (fun h => decide (h = w)))
  let r := rest.foldl (fun (acc : State × List MshWait) w =>
    let d := acc.1.deferStart w (if without.any (fun h => decide (h = w)) then 6 else 5) t
    (d.1, acc.2 ++ [d.2])) (s, [])
  let s := r.1
  { s with msh := { s.msh with waiting := r.2, heat := heat, contOver := decide (cont > s.get MSH.ICONT) } }

/-- A released PHY reset item: its port leaves PHY reset 10 ms before its release point (R243, R472). -/
def State.releasePhy (s : State) (i t : Nat) : State :=
  ({ s with phyLines := clrBit s.phyLines (i - 86) }.arm (.release i) (t + ms 10))

/-- A released load switch start (R195). -/
def State.startInrush (s : State) (n t : Nat) : State :=
  (((s.disarm (.testPhase (.ls n))).setPhase (.ls n) .start t).arm (.inrush (.ls n)) (t + ms (s.get (LSW.INRWIN n))))

/-- One start of a heat reaches its unit (R245). -/
def State.releaseStart (s : State) (w : MshWait) (t : Nat) : State :=
  let i := w.item
  let pk := s.peakWeight w
  let st := s.steadyWeight w
  let weigh := fun (s : State) => { s with msh := { s.msh with peak := s.msh.peak ++ [(i, pk)], steady := s.msh.steady ++ [(i, st)] } }
  let port := fun (s : State) => { s with msh := { s.msh with
      peak := s.msh.peak ++ [(i, pk)], lit := s.msh.lit.filter (fun (e : Nat × List Nat) => decide (e.1 ≠ i)) ++ [(i, [0])] } }
  let waits := fun (u : OutU) => decide (s.phase u = .wait) && !(s.out u).fs
  if i < 56 then if waits (.ls i) then (weigh s).startInrush i t else s
  else if i < 72 then if waits (.vd (i - 56)) then (weigh s).startPeak (i - 56) t else s
  else if i < 84 then if waits (.hb (i - 72)) then (weigh s).startRun (i - 72) t else s
  else if i = 84 then
    let ks := w.units.filter (fun n => waits (.led n))
    ks.foldl (fun s n => s.enterOn (.led n) t) (s.lightUp 84 ks)
  else if i = 85 then
    let ks := w.units.filter (fun n => waits (.row n))
    ks.foldl (fun s n => s.enterOn (.row n) t) (s.lightUp 85 ks)
  else (port s).releasePhy i t

/-- The starts that still wait for their release once a tick has applied its commands. -/
def State.stillWaits (s : State) (w : MshWait) : Bool :=
  let ok := fun (u : OutU) => decide (s.phase u = .wait) && !(s.out u).fs
  let i := w.item
  if i < 56 then ok (.ls i) else if i < 72 then ok (.vd (i - 56)) else if i < 84 then ok (.hb (i - 72))
  else if i = 84 then w.units.any (fun n => ok (.led n)) else if i = 85 then w.units.any (fun n => ok (.row n))
  else bitAt s.phyLines (i - 86) && !bitAt (s.get SWC.PHYRST) (i - 86)

/-- Whether the die of a unit answers, so that a value staged for it reaches it (R19, R694). -/
def State.linked (s : State) (u : OutU) : Bool := s.flag (fOkBit (udie u))

/-- The part of a start whose die answers, or with `b` false the part whose die does not (R19). -/
def State.linkedPart (s : State) (b : Bool) (w : MshWait) : Option MshWait :=
  let i := w.item
  let one := fun (u : OutU) => if s.linked u = b then some w else none
  let many := fun (mk : Nat → OutU) =>
    let ks := w.units.filter (fun n => decide (s.linked (mk n) = b))
    if ks.isEmpty then none else some { w with units := ks }
  if i < 56 then one (.ls i) else if i < 72 then one (.vd (i - 56)) else if i < 84 then one (.hb (i - 72))
  else if i = 84 then many .led else if i = 85 then many .row else if b then some w else none

/-- The tick releases the decided heat, or under a freeze or over-voltage returns it whole (R251, R256, R257). A start whose die
does not answer goes on waiting (R19). Learning starts with the heat (R250). Sinks and rows of the last tick reach their release
point. -/
def State.mshTick (s : State) (t : Nat) : State :=
  let s := { s with msh := { s.msh with
      glow := [],
      lit := (s.msh.lit.map (fun (e : Nat × List Nat) => (e.1, e.2.filter (s.litStill e.1)))).filter
        (fun (e : Nat × List Nat) => !e.2.isEmpty) } }
  let all : List MshWait := s.msh.heat.filter s.stillWaits
  let heat := all.filterMap (s.linkedPart true)
  let s := { s with msh := { s.msh with
      heat := [], waiting := s.msh.waiting.filter s.stillWaits ++ all.filterMap (s.linkedPart false) } }
  if (s.flag MSH.FREEZE && !s.flag MSH.FALLBACK) || s.flag MSH.OVSUSP then
    let r := heat.foldl (fun (acc : State × List MshWait) w =>
      let d := acc.1.deferStart w 5 t
      (d.1, acc.2 ++ [d.2])) (s, [])
    { r.1 with msh := { r.1.msh with waiting := r.1.msh.waiting ++ r.2 } }
  else if heat.isEmpty then s
  else
    let s := heat.foldl (fun s w => s.releaseStart w t) (s.count MSH.HEATS)
    if s.flag MSH.LEARN ∧ ¬ s.flag MSH.FALLBACK then
      let l : LearnSt := { due := t + us 500, vpre := s.msh.vbat, vmin := 0x7FFF, dI := 0, max := 0, items := heat }
      let s := { s with msh := { s.msh with learns := s.msh.learns ++ [l] } }
      if (s.due .learn).isSome then s else s.arm .learn l.due
    else s

/-- The sensed current of a heat's starts, in steps of 0.05 mA (R250). -/
def State.heatCurrent (s : State) (ws : List MshWait) : Nat :=
  (ws.map (fun w =>
    let i := w.item
    if i < 56 then 40 * s.get (LSW.IOUT i) else if i < 72 then 30 * s.get (VDB.IMEAS (i - 56))
    else if i < 84 then 200 * (s.signed (HB.IOUT (i - 72))).natAbs
    else if i = 84 then (w.units.map (fun n => s.get (LDS.IOUT n))).sum
    else if i = 85 then (w.units.map (fun n => 20 * s.get (LMX.IROW n))).sum else 0)).sum

/-- A conversion within a heat's 500 µs: its highest current, and its lowest voltage with the current then (R250). -/
def LearnSt.convert (l : LearnSt) (v : Int) (c : Nat) : LearnSt :=
  let l := { l with max := Nat.max l.max c }
  if v < l.vmin then { l with vmin := v, dI := c } else l

/-- `a / b` rounded to the nearest whole number, halves away from zero. -/
def roundDiv (a : Int) (b : Nat) : Int :=
  if 0 ≤ a then (2 * a + b) / (2 * b) else -((2 * -a + b) / (2 * b))

/-- The Marshal's part of a VBAT conversion: sag freeze, recovery, over-voltage, fallback, learning (R250, R255, R257, R261). -/
def State.mshVbat (s : State) (t : Nat) (v : Int) : State :=
  let vsag := Int.ofNat (s.get MSH.VSAG)
  let twice := decide (v < vsag) && s.msh.vprev.any (fun p => decide (p < vsag))
  let s := { s with msh := { s.msh with
      vprev := if s.flag SUP.VBINV then none else some v, vbat := v, ovLow := decide (v ≤ 3500) || (s.msh.ovLow && decide (v ≤ 3600))
      learns := s.msh.learns.map (fun (l : LearnSt) =>
        if t ≤ l.due then l.convert v (s.heatCurrent l.items) else l) } }
  let s := if v > 3600 ∧ ¬ s.flag MSH.OVSUSP then (s.put MSH.OVSUSP 1).evt 0x0C 3 else s
  if s.flag SUP.VBINV then
    if s.flag MSH.FALLBACK then s else ((s.put MSH.FALLBACK 1).evt 0x0C 4).detect 0x2B 0
  else if s.flag MSH.FREEZE then
    if v < Int.ofNat (s.get MSH.VRECOV) then s.disarm .recover
    else if (s.due .recover).isSome then s else s.arm .recover (t + ms (s.get MSH.TIME))
  else if twice && !s.flag MSH.FALLBACK then
    ((((s.put MSH.FREEZE 1).evt 0x0C 0).count MSH.FREEZES).detect 0x29 0).disarm .recover
  else s

/-! Commands. -/

/-- STAGING_COMPLETE: the Marshal decides the heat of the next tick (R73, R252). -/
def execStagingComplete (t : Nat) (s : State) : Host.Outcome State Fault Refusal :=
  .next ((s.reach t).mshDecide t (s.lap + 1) s.stride.nextTick true)

/-- A heat's measurement, if it qualifies, updates RLEARN (R250). -/
def State.learnFrom (s : State) (l : LearnSt) : State :=
  if l.max ≥ 400000 ∧ l.dI > 0 ∧ ¬ s.flag MSH.FALLBACK then
    let r := Int.ofNat (7 * s.get MSH.RLEARN * l.dI) + 2000000 * (l.vpre - l.vmin)
    s.put MSH.RLEARN (min (roundDiv r (8 * l.dI)).toNat 4095)
  else s

/-- The first measurement ends and the next goes on (R250). -/
def State.learnEnd (s : State) : State :=
  match s.msh.learns with
  | [] => s
  | l :: ls =>
    let s := ({ s with msh := { s.msh with learns := ls } } : State).learnFrom l
    match ls with
    | n :: _ => s.arm .learn n.due
    | [] => s

/-- RSRC_LEARN: a qualifying heat's sag updates RLEARN (R250). -/
def execRsrcLearn (s : State) : Host.Outcome State Fault Refusal :=
  .next (s.onExpiry .learn (fun _ s => s.learnEnd))

/-- FREEZE_RECOVERY: VBAT has held at or above VRECOV for the recovery time (R255). -/
def execFreezeRecovery (s : State) : Host.Outcome State Fault Refusal :=
  .next (s.onExpiry .recover (fun _ s => if s.flag MSH.FREEZE then (s.put MSH.FREEZE 0).evt 0x0C 1 else s))

/-- MARSHAL_RELEASE_POINT: a half-bridge or PHY item reaches its release point (R245). -/
def execMarshalReleasePoint (i : Nat) (s : State) : Host.Outcome State Fault Refusal :=
  .next (s.onExpiry (.release i) (fun _ s => s.mshRelease i))

end Sys2Proof.Machine
end

