-- ==== Sys2Proof/Machine/Access.lean ====
section
/-! DEFINITION. Access and immobiliser: the aerials, the access cycle, lock-out, release, permit and the Vault
(R512 to R538). -/
namespace Sys2Proof.Machine

/-- An empty token slot. -/
def slotInit : VltSlot := { valid := false, priv := 0, tid := 0, seq := 0, lastUse := 0, key := [] }

/-- Updates the access cycle. -/
def State.setAcc (s : State) (f : AccSt → AccSt) : State := { s with acc := f s.acc }

/-- Updates the Vault. -/
def State.setVault (s : State) (f : VltSt → VltSt) : State := { s with vault := f s.vault }

/-! Codes of results (R534). -/
/-- A grant. -/
def resGranted : Nat := 1
/-- No token. -/
def resNoToken : Nat := 2
/-- A locked-out cycle. -/
def resLocked : Nat := 6
/-- A transceiver failure. -/
def resXcvr : Nat := 8
/-- An aborted cycle. -/
def resAborted : Nat := 9
/-- A cycle without supply for its drivers. -/
def resSupply : Nat := 10

/-- Failures whose splits lie within the 10 min before `t` (R528, R76). -/
def State.recentFails (s : State) (t : Nat) : List Nat := s.acc.fails.filter (fun f => decide (t < f + ms 600000))

/-- Lock-outs started within the 24 h before `t` (R528). -/
def State.recentLocks (s : State) (t : Nat) : List Nat := s.acc.locks.filter (fun f => decide (t < f + ms 86400000))

/-- Whether a lock-out is active at `t`. -/
def State.lockedOut (s : State) (t : Nat) : Bool := decide (t < s.acc.lockEnd)

/-- The length of the `k`-th lock-out of a day in ns (R528). -/
def lockLength (k : Nat) : Nat := ms 60000 * min 80 (5 * 2 ^ (k - 1))

/-- Starts a lock-out of a given length at `t` (R528). -/
def State.startLockout (s : State) (len t : Nat) : State :=
  let s := s.setAcc (fun a => { a with lockEnd := t + len, fails := [], locks := t :: s.recentLocks t })
  let s := (s.setVault (fun v => { v with lockRec := some len })).arm .lockout (t + len)
  (((s.put ACC.LOCKED 1).put ACC.LOCOUNT (min 7 s.acc.locks.length)).evt 0x0E 3).detect 0x26 0

/-! The cycle (R517). -/

/-- Ends a cycle with result `r`: results are written, what ran of its timers stops, and a lock-out that the cycle's failures
made due starts (R528). -/
def State.accFinish (s : State) (r t : Nat) : State :=
  let old := s
  let c := if r = resGranted then s.acc.chosen else none
  let s := (s.disarm .lfEnd).setAcc (fun a =>
    { a with
      recSlot := match c with | some x => x.slot | none => 0xFF
      recZone := match c with | some x => x.zone | none => 0xF
      recDist := match c with | some x => roundDiv x.dist 10 | none => 0
      recPriv := match c with | some x => x.priv | none => 0
      recRssi := match c with | some x => x.rssi | none => [0, 0, 0, 0, 0, 0]
      recSent := false, recEnd := s.splitAt t % 2 ^ 32, ended := min (a.ended + 1) 255, resps := [], chosen := none, failed := 0,
      result := 0, lockDue := false })
  let due := old.acc.lockDue
  let s := ((s.put ACC.STATE 0).put ACC.RESULT r).evt 0x0E 0
  if due then s.startLockout (lockLength ((s.recentLocks t).length + 1)) t else s

/-- CRC-8 of R513: polynomial 0x07, initial value 0x00, most significant bit first. -/
def crc8 (bs : List Byte) : Nat :=
  bs.foldl (fun c b => (List.range 8).foldl (fun c _ => (2 * c % 256) ^^^ (if 128 ≤ c then 0x07 else 0)) (c ^^^ b.toNat)) 0

/-- The 96 bits of the LF telegram, most significant bit first (R513): SYNC, WAKEID, CHAL, CRC. -/
def State.lfTelegram (s : State) (chal : List Byte) : List Byte :=
  let b := beBytes 2 (s.get ACC.WAKEID) ++ chal.reverse
  [0x96] ++ b ++ leBytes 1 (crc8 b)

/-- The payload of POLL (R521). -/
def State.pollFrame (s : State) : List Byte := [0x50] ++ leBytes 2 (s.get ACC.WAKEID) ++ s.acc.chal

/-- The payload of CONF to a chosen token: MAC_S under the key of its slot (R521, R524). -/
def State.confFrame (s : State) (c : AccResp) : List Byte :=
  let b := leBytes 1 c.slot ++ leBytes 1 resGranted ++ leBytes 1 s.acc.purpose
  let key := (look slotInit s.acc.slots c.slot).key
  [0x43] ++ b ++ macOf key ([0x43] ++ leBytes 2 (s.get ACC.WAKEID) ++ c.chal ++ s.acc.chal ++ b)

/-- Whether the aerials' supply keeps the drivers silent (R516, R664); VBAT in 10 mV. -/
def State.lfNoSupply (s : State) : Bool := decide (3600 ≤ s.msh.vbat) || decide (s.msh.vbat < 900) || s.reverseAt.isSome

/-- The enabled aerials and the wake aerials. -/
def State.aerials (s : State) : List Nat := (List.range 6).filter (fun k => s.flag (Hdr.EN 0x0F) && s.flag (LF.EN k) && !s.unitHeld 0x0F k && !s.cooling)

/-- Starts a cycle of a purpose at `t` (R513, R514, R516, R517, R532). -/
def State.accStart (s : State) (purpose t : Nat) : State :=
  if s.lockedOut t then s.accFinish resLocked t
  else
    let wake := (List.range 6).any (fun k => s.flag (LF.WAKE k))
    if s.lfNoSupply ∧ (wake ∨ s.aerials ≠ []) then s.accFinish resSupply t
    else
      let c := leBytes 8 (Config.random s.fresh)
      let s := { s with fresh := s.fresh + 1 }.setAcc (fun a =>
        { a with purpose := purpose, chal := c, lfOut := if wake then s.lfTelegram c else a.lfOut, poll := 0, slots := s.vault.slots,
                 resps := [], failed := 0, result := 0, chosen := none })
      ((s.put ACC.STATE 1).put ACC.FAR 0).arm .lfEnd (t + us 26576 + us 1500 * s.aerials.length)

/-- Takes up the cycle that is held, if one is (R517). -/
def State.accHeld (s : State) (t : Nat) : State :=
  match s.acc.held with
  | none => s
  | some p => ((s.setAcc (fun a => { a with held := none })).put ACC.PEND 0).accStart p t

/-- The cycle ends early with a result, and a held one follows. -/
def State.accQuit (s : State) (r t : Nat) : State :=
  let s := if r = resXcvr then s.detect 0x27 0 else s
  (s.accFinish r t).accHeld t

/-- A stop of ACC aborts the cycle at its next phase boundary (R517). -/
def State.accAborts (s : State) : Bool := s.flag (Hdr.STOPPING 0x0E)

/-- The stop of ACC is complete. -/
def State.accStopped (s : State) (t : Nat) : State :=
  let s := if s.get ACC.STATE ≠ 0 then s.accFinish resAborted t else s
  let s := ((s.setAcc (fun a => { a with held := none, starts := [] })).put ACC.PEND 0).put (Hdr.STOPPING 0x0E) 0
  if s.flag (Hdr.PENDEN 0x0E) then (s.put (Hdr.PENDEN 0x0E) 0).put (Hdr.EN 0x0E) 1 else s

/-- The tick sees a change of `ACC.CMD.SEQ` and moves the permit (R517, R530). -/
def State.accTick (s : State) (t : Nat) : State :=
  let q := s.get ACC.SEQ
  let s := if q = s.acc.seqSeen then s
    else s.setAcc (fun a => { a with
      seqSeen := q, starts := if s.flag (Hdr.EN 0x0E) then a.starts ++ [(t, s.get ACC.PURPOSE)] else a.starts })
  let ended := s.acc.closing || (match s.acc.openTill with | some d => decide (d ≤ t) | none => false)
  let s := if ended ∧ ¬ s.acc.opening then s.setAcc (fun a => { a with openTill := none, closing := false }) else s
  if s.acc.opening then
    let till := t + ms (100 * s.get ACC.PTIME)
    (s.setAcc (fun a => { a with opening := false, closing := false, openTill := some till })).arm .permit till
  else s

/-! Ranging (R518 to R527). -/

/-- Whether operation `op` of the adaptation table runs to its END over known codes (R520). -/
def State.xtOk (s : State) (op : Nat) : Bool :=
  let base := s.get ACC.XTBASE
  let first := s.le (base + op) 1
  let codes := (List.range 256).map (fun i => s.le (base + 8 * (first + i)) 1)
  match codes.find? (fun c => decide (c = 0) || decide (5 < c)) with
  | some c => decide (c = 0)
  | none => false

/-- The distance in mm of R525: `round` T_round and `drd` in transceiver units, `eps` ε in 10⁻¹² steps. -/
def State.accDistance (s : State) (round drd : Nat) (eps : Int) : Int :=
  let n : Int := Int.ofNat round * 1000000000000 - Int.ofNat drd * (1000000000000 - eps) - Int.ofNat (s.get ACC.ANTDLY) * 1000000000000
  roundDiv (n * 299792458) (2 * 1000000000000 * 63897600)

/-- The RSSI range of aerial `k` in zone `z` (R527, R537). -/
def State.zoneRange (s : State) (z k : Nat) : Nat × Nat :=
  let w := s.get ⟨0x0E, 0x140 + 0x10 * z + 4 * (k / 2), 0, 32⟩
  (wbits w (16 * (k % 2)) 8, wbits w (16 * (k % 2) + 8) 8)

/-- The zone of a token (R527). -/
def State.zoneOf (s : State) (rssi : List Nat) : Nat :=
  ((List.range 8).find? (fun z => s.flag (ACC.ZEN z) && s.aerials.all (fun k =>
    decide ((s.zoneRange z k).1 ≤ rssi.getD k 0) && decide (rssi.getD k 0 ≤ (s.zoneRange z k).2)))).getD 0xF

/-- Whether a distance lies inside the bound (R526). -/
def State.inBound (s : State) (d : Int) : Bool := decide (-500 ≤ d) && decide (d ≤ Int.ofNat (100 * s.get ACC.BOUND))

/-- The MAC_T that a token's key gives (R521). -/
def State.macT (s : State) (key f : List Byte) : List Byte :=
  macOf key ([0x52] ++ leBytes 2 (s.get ACC.WAKEID) ++ s.acc.chal ++ (f.drop 1).take 23)

/-- A well-formed RESP in slot `k` (R522 to R526). A failure that makes five within 10 min makes a lock-out due (R528). -/
def State.accRespond (s : State) (k : Nat) (f : List Byte) (round : Nat) (eps : Int) (t : Nat) : State :=
  let tok := look slotInit s.acc.slots k
  if ¬ tok.valid ∨ leVal ((f.drop 2).take 4) ≠ tok.tid then s.count ACC.UNKNOWN
  else if s.macT tok.key f ≠ f.drop 24 then
    let s := s.setAcc (fun a => { a with
      failed := a.failed + 1, fails := t :: s.recentFails t, lockDue := a.lockDue || decide (4 ≤ (s.recentFails t).length) })
    (s.count ACC.FAILS).evt 0x0E 2
  else
    let d := s.accDistance round (leVal ((f.drop 20).take 4)) eps
    let rssi := ((f.drop 6).take 6).map BitVec.toNat
    let s := if s.inBound d then s else (s.put ACC.FAR 1).count ACC.FARCNT
    let resp : AccResp :=
      { slot := k, dist := d, zone := s.zoneOf rssi, priv := tok.priv, rssi := rssi, chal := (f.drop 12).take 8 }
    s.setAcc (fun a => { a with resps := a.resps ++ [resp] })

/-- Whether candidate `a` is chosen before `b` (R524). -/
def AccResp.before (a b : AccResp) : Bool :=
  if a.priv ≠ b.priv then decide (b.priv < a.priv) else if a.dist ≠ b.dist then decide (a.dist < b.dist) else decide (a.slot < b.slot)

/-- The choice of R524: the token chosen, or the reason for none. -/
def State.accSelect (s : State) : Nat × Option AccResp :=
  let p := s.acc.purpose
  let r1 := s.acc.resps.filter (fun r => s.inBound r.dist)
  let r2 := r1.filter (fun r => decide (r.zone < 8) && bitAt (s.get (ACC.PMASK r.zone)) p)
  let r3 := r2.filter (fun r => decide (p + 1 ≤ r.priv))
  match r3 with
  | c :: cs => (resGranted, some (cs.foldl (fun a b => if b.before a then b else a) c))
  | [] =>
    if 0 < s.acc.failed ∧ s.acc.resps = [] then (7, none)
    else if r1.length < s.acc.resps.length then (3, none)
    else if r2.length < r1.length then (4, none)
    else if r3.length < r2.length then (5, none)
    else (resNoToken, none)

/-- The release of a GRANTED START cycle (R529). -/
def State.accRelease (s : State) (c : AccResp) (t : Nat) : State :=
  let s := s.setVault (fun v => { v with relCnt := (v.relCnt + 1) % 2 ^ 32 })
  let head := leBytes 4 s.vault.relCnt ++ leBytes 1 (1 + 4 * c.priv) ++ leBytes 1 c.slot ++ leBytes 2 (s.get ACC.PTIME)
  let mac := macOf (look [] s.vault.keys (s.get ACC.REL)) (leBytes 2 (s.get ACC.WAKEID) ++ head)
  let b := s.get ACC.RELBUF
  match [b, b + 32].find? (fun a => !bitAt (s.le a 4) 31) with
  | none => s.count ACC.RELDROP
  | some a =>
    let s := ((s.setLe a 4 (16 + 2 ^ 31)).setBytes (a + 4) (head ++ mac)).setAcc (fun r => { r with recSent := true })
    s.hwRef (s.get ACC.QUEUE) 0x0E 0 (s.get ACC.TPL) a (s.splitAt t) t

/-- The access record (R534). -/
def State.accRecord (s : State) (t : Nat) : List Byte :=
  let a := s.acc
  leBytes 1 (s.get ACC.STATE) ++ leBytes 1 (s.get ACC.RESULT) ++ leBytes 1 a.recSlot ++ leBytes 1 a.recZone
    ++ leBytes 2 (unsignedOf 16 a.recDist)
    ++ leBytes 1 (a.recPriv + 4 * b2n a.openTill.isSome + 8 * b2n (s.lockedOut t) + 16 * b2n a.recSent) ++ leBytes 1 a.ended
    ++ leBytes 4 a.recEnd ++ leBytes 4 ((a.lockEnd - t) / 1000000) ++ (a.recRssi.map (BitVec.ofNat 8))
    ++ leBytes 1 (s.recentFails t).length

/-! The Vault (R531 to R533). -/

/-- The unwrapped key in the WRAP registers under key slot 0 (R531). -/
def State.vltUnwrap (s : State) : Option (List Byte) :=
  let w := (List.range 6).flatMap (fun i => leBytes 4 (s.get (VLT.WRAP i)))
  Config.keyUnwrap (look [] s.vault.keys 0) w

/-- A write of OP to `VLT.CMD` (R532): what it finds, its effect falling at its completion. -/
def State.vltStart (s : State) (op : Nat) : State :=
  let slot := s.get VLT.SLOT
  let plain := (List.range 4).flatMap (fun i => leBytes 4 (s.get (VLT.WRAP i)))
  let key := if op = 3 ∧ slot = 0 then some plain else s.vltUnwrap
  let noKek := decide (look [] s.vault.keys 0 = []) && !(decide (op = 3) && decide (slot = 0))
  let st := if op = 2 then 0 else if op = 1 ∧ 64 ≤ s.vault.used then 1 else if noKek then 3 else if key = none then 2 else 0
  let c : VltCmd :=
    { code := op, slot := slot, priv := s.get VLT.CMDARG_PRIV, tid := s.get VLT.CMDTID_TID, key := key, status := st }
  (s.setVault (fun v => { v with cmd := some c })).put VLT.BUSY 1

/-- The effect of a command that ends without error (R532). -/
def VltSt.carry (v : VltSt) (c : VltCmd) : VltSt :=
  match c.code with
  | 1 =>
    { v with
      used := v.used + 1
      slots := store slotInit c.slot
        { valid := true, priv := c.priv, tid := c.tid, seq := v.used + 1, lastUse := 0, key := c.key.getD [] } v.slots }
  | 2 => { v with slots := store slotInit c.slot { look slotInit v.slots c.slot with valid := false, tid := 0, key := [] } v.slots }
  | _ => { v with keys := store [] c.slot (c.key.getD []) v.keys }

/-! Commands. -/

/-- ACCESS_CYCLE_START: a start applied at a tick begins, is held, or meets the lock-out (R517, R528). -/
def execAccessCycleStart (s : State) : Host.Outcome State Fault Refusal :=
  .next (match s.acc.starts with
    | [] => s
    | (t, p) :: rest =>
      let s := (s.reach t).setAcc (fun a => { a with starts := rest })
      if s.get ACC.STATE ≠ 0 then (s.setAcc (fun a => { a with held := some p })).put ACC.PEND 1
      else s.accStart p t)

/-- LF_BURSTS_END: the bursts end; peak currents in mA by aerial, and the aerials that a short stopped or that tripped
(R514, R515). -/
def execLfBurstsEnd (peaks : List (Nat × Nat)) (shorts hot : List Nat) (s : State) : Host.Outcome State Fault Refusal :=
  .next (s.onExpiry .lfEnd (fun t s =>
    let s := s.aerials.foldl (fun s k =>
      match peaks.find? (fun (e : Nat × Nat) => decide (e.1 = k)) with
      | none => s
      | some (_, i) =>
        let set := 100 * s.get (LF.ICUR k)
        let bits := b2n (decide (10 * i < set)) + 2 * b2n (decide (k ∈ shorts)) + 4 * b2n (decide (set ≤ 10 * i) && decide (10 * i ≤ 7 * set))
          + 8 * b2n (decide (k ∈ hot))
        let s := (s.put (LF.IPK k) i).setOut (.lf k) (fun o => { o with bad := bits })
        if bits = 0 then s
        else ((s.put (LF.FLT k) (s.get (LF.FLT k) ||| bits)).evt 0x0F k).detect 0x28 k) s
    if s.accAborts then (s.accFinish resAborted t).accStopped t
    else if s.lfNoSupply ∧ (s.aerials ≠ [] ∨ (List.range 6).any (fun k => s.flag (LF.WAKE k))) then s.accQuit resSupply t
    else s))

/-- UWB_POLL: the POLL frame's marker leaves at `t`; `ok` where the transceiver followed its table (R517, R518, R520). -/
def execUwbPoll (t : Nat) (ok : Bool) (s : State) : Host.Outcome State Fault Refusal :=
  .next (
    let s := s.reach t
    if s.get ACC.STATE ≠ 1 ∨ (s.due .lfEnd).isSome then s
    else if s.accAborts then (s.accFinish resAborted t).accStopped t
    else if ok && s.xtOk 0 && s.xtOk 1 then (s.setAcc (fun a => { a with poll := t, uwbOut := s.pollFrame })).put ACC.STATE 2
    else s.accQuit resXcvr t)

/-- UWB_RESP_RECEIVED: what arrived in slot `k` at `t`: the frame where its STS and check were good, T_round in
transceiver units, and the clock offset in 10⁻¹² steps (R518, R522, R523). -/
def execUwbRespReceived (t k : Nat) (frame : Option (List Byte)) (round : Nat) (eps : Int) (s : State) : Host.Outcome State Fault Refusal :=
  .next (
    let s := s.reach t
    if ¬ (s.get ACC.STATE = 2 ∨ s.get ACC.STATE = 3) then s
    else
      let s := s.put ACC.STATE 3
      match frame with
      | none => s.count ACC.COLL
      | some f =>
        let late : Int := Int.ofNat (10000 * round) - Int.ofNat ((t - s.acc.poll) * 638976)
        if ¬ (s.xtOk 2 ∧ s.xtOk 3 ∧ s.xtOk 4) ∨ late.natAbs > 8 * 638976 then s.accQuit resXcvr t
        else if f.length = 32 ∧ (f.getD 0 0).toNat = 0x52 ∧ (f.getD 1 0).toNat = k then s.accRespond k f round eps t
        else s.count ACC.COLL)

/-- ACCESS_SELECTION: the selection point; CONF goes to the chosen token (R524). -/
def execAccessSelection (t : Nat) (s : State) : Host.Outcome State Fault Refusal :=
  .next (
    let s := s.reach t
    if ¬ (s.get ACC.STATE = 2 ∨ s.get ACC.STATE = 3) then s
    else if s.accAborts then (s.accFinish resAborted t).accStopped t
    else
      let r := s.accSelect
      let sent := match r.2 with | some c => s.confFrame c | none => s.acc.uwbOut
      (s.setAcc (fun a => { a with result := r.1, chosen := r.2, uwbOut := sent })).put ACC.STATE 4)

/-- ACCESS_CYCLE_END: results, lock-out, release and permit; then the held cycle (R517, R528 to R530). -/
def execAccessCycleEnd (t : Nat) (s : State) : Host.Outcome State Fault Refusal :=
  .next (
    let s := s.reach t
    if s.get ACC.STATE ≠ 4 then s
    else
      let a := s.acc
      let s := s.accFinish a.result t
      let s := match a.chosen with
        | some c =>
          let s := (s.setVault (fun v =>
            { v with slots := store slotInit c.slot { look slotInit v.slots c.slot with lastUse := s.lap % 2 ^ 32 } v.slots })).evt 0x0E 1
          if a.purpose = 1 then
            let s := s.accRelease c t
            if s.flag ACC.EN then s.setAcc (fun a => { a with opening := true }) else s
          else s
        | none => s
      if s.accAborts then s.accStopped t else s.accHeld t)

/-- LOCKOUT_END: the lock-out's duration passes (R528). -/
def execLockoutEnd (s : State) : Host.Outcome State Fault Refusal :=
  .next (s.onExpiry .lockout (fun _ s =>
    ((s.setVault (fun v => { v with lockRec := none })).put ACC.LOCKED 0).evt 0x0E 4))

/-- PERMIT_CLOSE: the permit time passes; the permit closes at the first tick from then on (R530). -/
def execPermitClose (s : State) : Host.Outcome State Fault Refusal :=
  .next (s.onExpiry .permit (fun _ s => s.setAcc (fun a => { a with closing := true })))

end Sys2Proof.Machine
end

