-- ==== Sys2Proof/Machine/LoadSwitch.lean ====
section
/-! DEFINITION. Events of the power channels at large: limiting, inrush, retries, stops, diagnostics and off-state
tests (R192 to R241 and the blocks that follow their rules). -/
namespace Sys2Proof.Machine

/-- A channel's pulse fires, late if it has waited for the Marshal (R227, R228). -/
def State.firePulse (s : State) (n t : Nat) (late : Bool) : State :=
  let g := s.get (LSW.SG n)
  let rest := fun (l : List (Nat × Nat)) => l.filter (fun e => decide (e.1 ≠ n))
  let s := { s with msh := { s.msh with pulses := rest s.msh.pulses ++ [(n, s.pulseWeight n)], late := rest s.msh.late } }
  let s := (s.disarm (.lateMax n)).setOut (.ls n) (fun o => { o with pcount := (o.pcount + 1) % 2 ^ 32 })
  let s := s.count (LSWC.FIRED g)
  let s := if late then (s.setFault (.ls n) 11 t).yieldOnce 6 4 n t else s
  s.arm (.pulseEnd n) (t + us (s.get (LSWC.WIDTH g)))

/-- A pulse is skipped (R227, R228, R263). -/
def State.skipPulse (s : State) (n t : Nat) : State :=
  let s := { s with msh := { s.msh with late := s.msh.late.filter (fun e => decide (e.1 ≠ n)) } }.disarm (.lateMax n)
  ((s.setFault (.ls n) 10 t).count (LSWC.SKIPPED (s.get (LSW.SG n)))).yieldOnce 6 4 n t

/-- Whether the Marshal admits a pulse now (R259, R261). -/
def State.pulseFits (s : State) (n : Nat) : Bool :=
  !s.flag MSH.FREEZE && !s.flag MSH.OVSUSP && !s.flag MSH.FALLBACK
    && decide (s.pulseWeight n ≤ s.pulseBudget)

/-- The channel's own condition for a pulse, which every member of a group meets (R209, R227). -/
def State.pulseReady (s : State) (n : Nat) : Bool :=
  decide (s.phase (.ls n) = .on) && !(s.out (.ls n)).fs
    && (s.members (.ls n)).all (fun v => !s.flag (fLim v) && decide (s.signed (fTj v) + 8 * s.get LSWC.PULSEMARGIN ≤ 1320))

/-- Whether a strobe group may fire at all: on the gPTP schedule only while TSY reports lock (R225). -/
def State.strobeLocked (s : State) (g : Nat) : Bool := decide (s.get (LSWC.SRC g) ≠ 2) || s.flag TSY.LOCK

/-- Pulses that wait are taken up where the budget may have grown (R259). -/
def State.pulseRetry (s : State) (t : Nat) : State :=
  s.msh.late.foldl (fun s e =>
    if s.pulseFits e.1 && s.pulseReady e.1 && s.strobeLocked (s.get (LSW.SG e.1)) then s.firePulse e.1 t true else s) s

/-- A clear of fault flags: refused as a whole while its cause persists (R205, R214, R294, R334), else the flags clear,
and a cleared LOCKOFF or SHORTED cause lets the channel go on (R195, R197, R329). A group of which another member is still
latched then waits in DEFERRED, as from OFF (R209; DEDUCED, log entry 68). -/
def State.clearFaults (s : State) (u : OutU) (mask t : Nat) : Option State :=
  let cur := s.get (fFlt u)
  let bits := cur &&& mask
  let b := protBits u
  let latchBits := [b.otdiff, b.otabs, b.rtx, b.defexp].filter (fun i => decide (i < 31))
  let evalBits : List Nat := match u with
    | .ls _ | .vd _ | .hb _ => [0, 1, 2, 3] | .bank _ => [0, 4, 5, 6, 10] | .led _ => [0, 1, 2] | .row _ => [0, 4]
    | .so _ => [0, 2] | .lf _ => [0, 1, 2]
  let persists := latchBits.any (fun i => bitAt bits i && s.flag (fLatch u))
    || evalBits.any (fun i => bitAt bits i && (bitAt (s.out u).bad i || bitAt (s.out u).bad (16 + i)))
  if persists then none
  else
    let s := s.put (fFlt u) (clrMask cur bits)
    let m := s.master u
    let cause := (bitAt bits b.rtx || bitAt bits b.defexp) && b.rtx != 31
    let s := if cause then s.reloadRetry m else s
    if decide (s.phase m = .lockoff) && cause then
      let on := match m with
        | .bank bk => (List.range 4).any (fun k => s.wants (.vd (4 * bk + k)))
        | _ => s.wants m
      some (if !on then s.setPhase m .off t else if s.latched m then s.enterDeferred m true t else s.startWait m t)
    else match u with
      | .led _ =>
        if bitAt bits 2 ∧ s.phase u = .shorted then
          let s := s.yieldClose 5 2 (latchKey u + 2)
          some (if s.wants u then s.startWait u t else s.setPhase u .off t)
        else some s
      | _ => some s

/-- The flag that a diagnosis sets on a unit. -/
def diagBit (u : OutU) (d : Diag) : Option Nat :=
  match u, d with
  | .ls _, .open => some 0 | .ls _, .stg => some 2
  | .vd _, .open => some 0 | .vd _, .stg => some 2
  | .bank _, .bol => some 0 | .bank _, .unattr => some 6 | .bank _, .feedGround => some 10
  | .hb _, .open => some 0 | .hb _, .stg => some 2 | .hb _, .stb => some 3
  | .so _, .open => some 0 | .so _, .ovl => some 1
  | .led _, .open => some 0 | .led _, .lowhr => some 1 | .led _, .short => some 2
  | .row _, .stg => some 0 | .row _, .rowOpen => some 4
  | _, _ => none

/-- Whether the on-phase of a load switch channel lasts at least 100 µs, where it runs in PWM (R217, R226). -/
def State.longPhase (s : State) (n : Nat) : Bool :=
  let m := s.lsMaster n
  s.lsMode n = 0 || decide (25000 * 4096 ≤ s.lsDuty n * s.act (STG.PER (s.get (LSW.PWMB m))))

/-- The one active member of a bank, if there is just one; a pair counts as one (R289, R291; DESIGN CHOICE, log entry 82). -/
def State.loneMember (s : State) (b : Nat) : Option Nat :=
  match (((List.range 4).map (fun k => 4 * b + k)).filter (fun n => s.vdActive n && decide (s.master (.vd n) = .vd n))) with
  | [n] => some n
  | _ => none

/-- Whether a setpoint in force of a valve channel is at least 200 mA (R290). -/
def State.setLarge (s : State) (n t : Nat) : Bool := decide (2000 ≤ 15 * s.vdForce n t)

/-- The measured current of a sink in mA × 255 × 1023 × 20, twenty times the unit of its set current. -/
def State.sinkCurrent (s : State) (n : Nat) : Nat := s.get (LDS.IOUT n) * 255 * 1023

/-- Whether a member of a group carries less than 25 % of the group's average, while the group is ON (R211): `f` holds the
members' own currents but for the master's, which holds the total. -/
def State.memberOpen (s : State) (u : OutU) (f : OutU → Fld) : Bool :=
  let m := s.master u
  let total := s.get (f m)
  let slaves := ((s.members u).map (fun v => if v = m then 0 else s.get (f v))).sum
  let own := if u = m then total - slaves else s.get (f u)
  decide (s.phase m = .on) && decide (4 * (s.members u).length * own < total)

/-- Where a load switch or a signal output shows its current. -/
def fCurrent : OutU → Fld
  | .ls n => LSW.IOUT n | .so n => DOUT.IOUT n | _ => noFld

/-- What a fault shows in the last measurements that the state holds, beside what its filter found (R211, R290, R333, R348). An
open group shows in its total on the master, an open member pin in that member's share. -/
def State.diagShows (s : State) (u : OutU) (d : Diag) (t : Nat) : Bool :=
  match u, d with
  | .ls n, .open =>
    decide (s.master u = u) && decide (s.get (LSW.IOUT n) < s.get (LSW.OLTH n)) || decide ((s.members u).length ≠ 1) && s.memberOpen u fCurrent
  | .hb n, .open => decide ((s.signed (HB.IOUT n)).natAbs < s.get (HB.OLTH n))
  | .so n, .open =>
    decide (s.master u = u) && decide (s.get (DOUT.IOUT n) < s.get (DOUT.OLTH n)) || decide ((s.members u).length ≠ 1) && s.memberOpen u fCurrent
  | .vd n, .open =>
    decide (95 * 4096 ≤ 100 * s.get (VDB.DUTYACT n)) && decide (2 * s.get (VDB.IMEAS n) < s.vdForce n t * (if s.master u = u then s.vdSize n else 1))
  | .bank b, .bol => decide (4 * s.get (VDB.IBANK b) < 50)
  | .bank b, .unattr =>
    let sum := ((List.range 4).map (fun k =>
      if s.master (.vd (4 * b + k)) = .vd (4 * b + k) then s.get (VDB.IMEAS (4 * b + k)) else 0)).sum
    decide (3000 < (Int.ofNat (40 * s.get (VDB.IBANK b)) - Int.ofNat (15 * sum)).natAbs)
  | .bank b, .feedGround => (s.out (.bank b)).lim && decide (s.signed (VDB.VBANK b) < 150)
  | .led n, .open => decide (s.sinkCurrent n * 10 < 20 * s.sinkSet n) && decide (s.get (LDS.VSINK n) < 20)
  | .led n, .lowhr => decide (20 * s.sinkSet n ≤ s.sinkCurrent n * 10) && decide (s.sinkCurrent n * 10 ≤ 180 * s.sinkSet n)
  | .led n, .short => decide (10 * s.get (LDS.SHTH n) < s.get (LDS.VSINK n))
  | .row n, .stg => s.flag (LMX.LIMITING n) && decide (s.get (LMX.VROW n) < 150)
  | .row n, .rowOpen => decide (s.get (LMX.IROW n) < 5)
  | _, _ => true


/-- Whether a diagnosis is evaluated now (R212, R217, R290, R291, R316, R333, R348, R375, R222). -/
def State.diagOn (s : State) (u : OutU) (d : Diag) (t : Nat) : Bool :=
  let live := s.drives u && !(s.out u).revOn && !s.flag SUP.REVERSE
  match u, d with
  | .ls n, .open => live && s.flag (LSW.OLONEN (s.lsMaster n)) && s.longPhase n
  | .ls n, .stg => live && s.flag (LSW.LIMITING n)
  | .vd n, .open => live && s.flag (VDB.OLONEN (s.vdMaster n)) && s.setLarge n t
  | .vd n, .stg => live && decide (1250 * 4096 * s.get (VDB.PWMF (s.vdMaster n)) ≤ (4096 - s.get (VDB.DUTYACT n)) * 2500000)
  | .hb n, .open => (decide (s.phase u = .on) || decide (s.phase u = .brake)) && !s.below && s.flag (HB.OLONEN n)
  | .so n, .open => live && s.flag (DOUT.OLONEN (s.soMaster n))
  | .so n, .ovl => live && s.flag (DOUT.LIMITING n)
  | .led n, .open => s.sinkLit n 500 && s.flag (LDS.OLONEN n) && decide (2 * 255 * 1023 ≤ s.sinkSet n)
  | .led n, _ => s.sinkLit n 500
  | .row n, .rowOpen => live && s.rowLit n
  | .bank b, .bol => live && (match s.loneMember b with
      | some n => decide (s.phase (.vd n) = .on) && s.setLarge n t
      | none => false)
  | .bank b, .unattr => live && decide ((s.out (.bank b)).since + ms 2 < t)
  | _, _ => live

/-- The off-state result of a channel with one output (R212, R316, R375). The fault of a half-bridge to ground shows on a load
wired to VBAT (R316, log entry 73). -/
def State.offResult (s : State) (u : OutU) (uh dh t : Nat) : State :=
  let s := s.setOut u (fun o => { o with test := 0, offValid := true })
  let openBit := match u with
    | .so _ => 0
    | _ => 1
  let stbBit := match u with
    | .so _ => 2
    | _ => 3
  let isOpen := match u with
    | .hb n => s.hbPaired n && decide (uh % 4 = 1)
    | _ => bitAt uh 0 && !bitAt dh 0
  let isStb := bitAt uh 0 && bitAt dh 0
  let s := match u with
    | .hb n =>
      if s.hbPaired n || !Config.loadAtVbat n then s
      else if !bitAt uh 0 && !bitAt dh 0 then s.evalBad u 18 t else s.evalGood u 18
    | _ => s
  let s := if isOpen then s.evalBad u (16 + openBit) t else s.evalGood u (16 + openBit)
  if isStb then s.evalBad u (16 + stbBit) t else s.evalGood u (16 + stbBit)

/-- The off-state result of a bank, with phase P where it ran (R293). Bit 4 is the bank node. -/
def State.bankResult (s : State) (b uh dh : Nat) (ph : Option Nat) (t : Nat) : State :=
  let u := OutU.bank b
  let s := s.setOut u (fun o => { o with test := 0, offValid := true })
  let node := bitAt uh 4
  let s := if node && bitAt dh 4 then s.evalBad u 20 t else s.evalGood u 20
  let s := if node then s.evalGood u 21 else s.evalBad u 21 t
  let s := match ph with
    | some p => if !node && !bitAt p 4 then s.evalBad u 26 t else s.evalGood u 26
    | none => s
  (List.range 4).foldl (fun s k =>
    let v := OutU.vd (4 * b + k)
    let s := s.setOut v (fun o => { o with offValid := true })
    let s := if node && !bitAt dh 4 && !bitAt uh k then s.evalBad v 17 t else if node then s.evalGood v 17 else s
    match ph with
    | some p => if !node && bitAt p 4 && !bitAt p k then s.evalBad v 18 t else s.evalGood v 18
    | none => s) s

/-! Commands. -/

/-- The units with a current limit: load switches, bank switches, matrix rows and signal outputs (R200, R288, R348, R374). -/
def limits : OutU → Bool
  | .ls _ | .bank _ | .row _ | .so _ => true
  | _ => false

/-- CURRENT_LIMIT_ENTRY: a limiting episode begins (R200, R201, R288, R348, R374). -/
def execCurrentLimitEntry (t : Nat) (u : OutU) (s : State) : Host.Outcome State Fault Refusal :=
  .next (
    let s := s.reach t
    if !limits u || !s.drives u || (s.out u).lim then s
    else
      let s := (s.setOut u (fun o => { o with lim := true })).put (fLim u) 1
      let s := s.setFault u (protBits u).limit t
      let s := match u with
        | .ls n => s.count (LSW.LIMEPS n)
        | _ => s
      s.g5 u (limitKey u) t)

/-- LIMITING_EPISODE_END: the current falls below the limit in force (R200). -/
def execLimitingEpisodeEnd (t : Nat) (u : OutU) (s : State) : Host.Outcome State Fault Refusal :=
  .next ((s.reach t).endLimit u)

/-- INRUSH_WINDOW_END: the steady limit applies; the release point of the item (R195, R245). -/
def execInrushWindowEnd (u : OutU) (s : State) : Host.Outcome State Fault Refusal :=
  .next (s.onExpiry (.inrush u) (fun t s =>
    if s.phase u = .start then ((s.mshReleaseOf u).enterOn u t).pulseRetry t else s))

/-- RETRY_INTERVAL_EXPIRY (R204). -/
def execRetryIntervalExpiry (u : OutU) (s : State) : Host.Outcome State Fault Refusal :=
  .next (s.onExpiry (.retry u) (fun t s => s.retryDue u t))

/-- DEFERRAL_LIMIT_EXPIRY (R204). -/
def execDeferralLimitExpiry (u : OutU) (s : State) : Host.Outcome State Fault Refusal :=
  .next (s.onExpiry (.defer u) (fun t s => s.deferDue u t))

/-- RETRY_RELOAD_TIMER: 10 s without a trip reload the retries (R197). -/
def execRetryReloadTimer (u : OutU) (s : State) : Host.Outcome State Fault Refusal :=
  .next (s.onExpiry (.reload u) (fun _ s => if s.phase u = .on then s.reloadRetry u else s))

/-- DEMAG_DUMP: a demagnetisation of 50 ms ends in a dump and a trip with OTABS, without a retry (R219). -/
def execDemagDump (u : OutU) (s : State) : Host.Outcome State Fault Refusal :=
  .next (s.onExpiry (.demag u) (fun t s =>
    if s.phase u = .stopping then
      ((((s.setFault u (protBits u).otabs t).put (fLatch u) 1).count (fTrips u)).g5Latch u t).stopDone u t
    else s))

/-- OUTPUT_STOP_COMPLETE: the current of a stopping output falls below its threshold (R195, R287, R310, R330). -/
def execOutputStopComplete (t : Nat) (u : OutU) (s : State) : Host.Outcome State Fault Refusal :=
  .next (
    let s := s.reach t
    if s.phase u = .stopping ∨ (s.out u).stopping then s.stopDone u t else s)

/-- DIAG_FILTER_EXPIRY: a diagnosis is evaluated over its filter time: it shows its fault, or it does not (R212, R290,
R316, R333, R348, R375). -/
def execDiagFilterExpiry (t : Nat) (u : OutU) (d : Diag) (holds : Bool) (s : State) : Host.Outcome State Fault Refusal :=
  .next (
    let s := s.reach t
    match diagBit u d with
    | none => s
    | some bit =>
      if !s.diagOn u d t then s
      else if !(holds && s.diagShows u d t) then s.evalGood u bit
      else
        let s := s.evalBad u bit t
        match u, d with
        | .bank _, .feedGround => s.setFault u 1 t
        | .bank b, .bol => (List.range 4).foldl (fun s k =>
            if s.phase (.vd (4 * b + k)) = .on then s.evalBad (.vd (4 * b + k)) 0 t else s) s
        | .row _, .stg => s.setFault u 1 t
        | .led n, .short =>
          if s.flag (LDS.SHORTOFF n) ∧ s.phase u = .on then
            (s.setPhase u .shorted t).g5 u (latchKey u + 2) t
          else s
        | _, _ => s)

/-- The units of a block with an off-state test, and its period in 10 ms (R213, R316, R375). -/
def State.testBlock (s : State) : TestBlock → List OutU × Nat
  | .loadSwitches => ((List.range 56).map .ls, s.get LSWC.DIAGPER)
  | .bridges => ((List.range 12).map .hb, s.get HBC.DIAGPER)
  | .signals => ((List.range 16).map .so, s.get DOUT.DIAGPER)


/-- Whether a channel qualifies for its off-state test (R212, R213, R222, R316, R375). -/
def State.qualifies (s : State) (u : OutU) : Bool :=
  let idle := decide (s.phase u = .off) && !(s.out u).stopping
  let sel := match u with
    | .ls n => s.flag (LSW.OFFDIAG (s.lsMaster n)) && (idle || decide (s.phase u = .lockoff))
    | .hb n => s.flag (HB.OFFDIAG n) && idle && decide (s.master u = u)
    | .so n => s.flag (DOUT.OFFDIAG (s.soMaster n)) && idle
    | _ => false
  sel && s.flag (Hdr.EN (upage u).1) && !(s.out u).fs && !s.flag SUP.REVERSE

/-- OFF_STATE_TEST: at a grid instant of the block's period phase U begins on every qualifying channel (R213, R316, R375,
R698). -/
def execOffStateTest (t : Nat) (b : TestBlock) (s : State) : Host.Outcome State Fault Refusal :=
  .next (
    let s := s.reach t
    let x := s.testBlock b
    if !s.onGrid t (x.2 * 2500000) then s
    else x.1.foldl (fun s u =>
      if s.qualifies u then (s.setOut u (fun o => { o with test := 1 })).arm (.testPhase u) (t + 500000) else s) s)

/-- OFF_TEST_PHASE_END: the comparison of a phase, and the next phase or the result (R213, R292, R293). Bits of `high`
are the outputs read high: the channel's, the slave's of an H-bridge, or a bank's four pins and its node. -/
def execOffTestPhaseEnd (u : OutU) (high : Nat) (s : State) : Host.Outcome State Fault Refusal :=
  .next (s.onExpiry (.testPhase u) (fun t s =>
    let o := s.out u
    if o.test = 1 then
      (s.setOut u (fun o => { o with test := 2, uHigh := high })).arm (.testPhase u) (t + 500000)
    else match u with
      | .bank b =>
        if o.test = 2 then
          if s.flag (VDB.BPULSE b) ∧ ¬ bitAt high 4 then
            (s.setOut u (fun o => { o with test := 3, dHigh := high })).arm (.testPhase u) (t + 200000)
          else s.bankResult b o.uHigh high none t
        else s.bankResult b o.uHigh o.dHigh (some high) t
      | _ => s.offResult u o.uHigh high t))

end Sys2Proof.Machine
end

