-- ==== Sys2Proof/Machine/FailSafe.lean ====
section
/-! DEFINITION. Fail-safe on the power dies, the Lane link, battery and ground events at the dies, and Sprint pulses
(R222 to R236, R665 to R669, R694). -/
namespace Sys2Proof.Machine

/-- The peak weight of a valve start under its pattern, in whole amperes (R243, R244, R297). -/
def State.fsPeak (s : State) (n : Nat) : Nat := ceilDiv (15 * s.vdSize n * s.vdPeak n) 10000

/-- The start of one channel in a fail-safe heat, and what the Marshal counts for it (R234, R243, R260, R297). -/
def State.heatStart (s : State) (u : OutU) (t : Nat) : State :=
  let weigh := fun (s : State) (i pk st : Nat) =>
    { s with msh := { s.msh with peak := s.msh.peak ++ [(i, pk)], steady := s.msh.steady ++ [(i, st)] } }
  match u with
  | .ls n => (weigh s n (s.peakWeight ⟨n, [], none, false⟩) (s.steadyWeight ⟨n, [], none, false⟩)).startInrush n t
  | .vd n => (weigh s (56 + n) (s.fsPeak n) (ceilDiv (15 * s.vdSize n * s.vdSet n) 10000)).startPeak n t
  | _ => s.enterOn u t

/-- What a fail-safe start weighs against the 75 A of its heat; none for outputs that take no share (R234, R297, R349,
R377). -/
def State.heatWeight (s : State) (u : OutU) : Option Nat :=
  match u with
  | .ls n => some (inrushLimit n * (s.members u).length)
  | .vd n => some (s.fsPeak n)
  | _ => none

/-- Whether a valve's peak fits its bank under fail-safe: 12 A (R297). -/
def State.fsBankFits (s : State) (n : Nat) : Bool :=
  decide (15 * (s.bankDemand (n / 4) + s.vdSize n * s.vdPeak n) ≤ 12000 * 10)

/-- What a heat has come to: its state, amperes, whether a start that does not fit has closed it, the banks that a peak
which does not fit has closed, and the starts left over. -/
structure HeatRun where
  st : State
  used : Nat
  closed : Bool
  banks : List Nat
  rest : List OutU
  deriving DecidableEq, Repr

/-- A start that its bank allows joins the heat, or closes it (R234). -/
def HeatRun.join (r : HeatRun) (u : OutU) (t : Nat) : HeatRun :=
  match r.st.heatWeight u with
  | none => { r with st := r.st.heatStart u t }
  | some w =>
    if !r.closed && (decide (r.used + w ≤ 75) || decide (r.used = 0)) then { r with st := r.st.heatStart u t, used := r.used + w }
    else { r with closed := true, rest := r.rest ++ [u] }

/-- One start is considered. A valve start reads the fail-safe profile and is refused with it, or passes its bank by STAGGER
with 12 A, before it joins (R271, R282 to R284, R297). -/
def HeatRun.consider (r : HeatRun) (u : OutU) (t : Nat) : HeatRun :=
  match u with
  | .vd n =>
    let p := r.st.act VDC.FSPROF
    if ¬ (r.st.valve n).ask then r.join u t
    else if ¬ r.st.profOk p then
      { r with st := (((r.st.setPhase u .refused t).put VDC.PROF p).put VDC.CHAN n).setFault u 15 t }
    else
      let s := r.st.copyProf n p
      if n / 4 ∈ r.banks ∨ ¬ s.fsBankFits n then
        let s := if s.phase u = .bwait then s else ((s.setPhase u .bwait t).count (VDB.PKDLY (n / 4))).setFault u 10 t
        { r with st := s, banks := n / 4 :: r.banks, rest := r.rest ++ [u] }
      else { r with st := (s.setValve n (fun v => { v with ask := false })).setPhase u .wait t }.join u t
  | _ => r.join u t


/-- One fail-safe heat: channels in ascending order while their sum stays at or below 75 A; a group whose own sum lies
above it takes a heat alone (log entry 21). Valves follow the load switches, those that their bank has delayed first. -/
def State.heat (s : State) (d t : Nat) : State :=
  let ready := (s.die d).heats.filter (fun u => (decide (s.phase u = .wait) || decide (s.phase u = .bwait)) && (s.out u).fs && (s.out u).fsWant)
  let key := fun (u : OutU) => uidx u + (match u with | .vd _ => if s.phase u = .bwait then 0 else 16 | .ls _ => 0 | _ => 32)
  let ws := ready.mergeSort (fun a b => decide (key a ≤ key b))
  let r := ws.foldl (fun (r : HeatRun) u => r.consider u t) { st := s, used := 0, closed := false, banks := [], rest := [] }
  let s := (r.st.lightUp 84 (ready.filterMap (fun u => match u with | .led n => some n | _ => none))).lightUp 85
    (ready.filterMap (fun u => match u with | .row n => some n | _ => none))
  let s := s.setDie d (fun x => { x with heats := r.rest, lastHeat := if ready.isEmpty then x.lastHeat else some t })
  if r.rest.isEmpty then s else s.arm (.fsHeat d) (t + us 200)

/-- A die stops answering (R12, R669, R694); below 6.0 V the loss is reported as SUP_VBATUV (R665). -/
def State.linkLost (s : State) (d : Nat) (report : Bool) : State :=
  let s := ((s.put (fOkBit d) 0).evt 0x51 d).count (if d = 0 then LNK.LOSSA else LNK.LOSSB)
  if report then s.detect (if s.msh.vbat < 600 then 0x09 else 0x15 + d) 0 else s

/-- The watchdog of a die restarts at a valid frame (R236). -/
def State.feedWatchdog (s : State) (d t : Nat) : State := s.arm (.watchdog d) (t + ms (s.get LNK.TIME))

/-- A die answers again; after a watchdog expiry its channels set LNKFS (R232, R694). -/
def State.linkBack (s : State) (d t : Nat) : State :=
  let s := if (s.die d).wdog then (unitsOf d).foldl (fun s u => s.setFault u (protBits u).lnkfs t) s else s
  (((s.put (fOkBit d) 1).evt 0x51 (2 + d)).setDie d (fun x => { x with misses := 0 })).feedWatchdog d t

/-- One die's frame of a slot (R694). -/
def State.linkFrame (s : State) (d t : Nat) (r : LinkResult) : State :=
  let x := s.die d
  let miss := fun (s : State) =>
    let s := s.setDie d (fun x => { x with misses := min (x.misses + 1) 8 })
    if x.misses = 7 ∧ s.flag (fOkBit d) then s.linkLost d (!(x.lockout || x.gnd)) else s
  match r with
  | .valid => if s.flag (fOkBit d) then (s.setDie d (fun x => { x with misses := 0 })).feedWatchdog d t else s
  | .failed => miss ((s.count (if d = 0 then LNK.CRCA else LNK.CRCB)).detect 0x17 d)
  | .silent => miss s

/-- A commit under firmware control ends the reasons for the pattern that have passed; a die without a reason left
releases it (R18, R40, R232, R557, R694). -/
def State.releaseDies (s : State) (commit safeEnds replayHolds : Bool) (t : Nat) : State :=
  (List.range 2).foldl (fun s d =>
    let was := (s.die d).inFs
    let ok := commit && s.flag (fOkBit d)
    let s := s.setDie d (fun x =>
      { x with
        wdog := x.wdog && !ok, clus := x.clus && !ok, reset := x.reset && !ok,
        safe := x.safe && !safeEnds, replay := x.replay && (replayHolds || !ok) })
    if was && !(s.die d).inFs then s.dieRelease d t else s) s

/-- Eight exposure periods of a group in ns, once eight intervals have been seen (R226). -/
def strobePeriod (edges : List Nat) : Option Nat :=
  if edges.length = 9 then some (edges.headD 0 - edges.getLastD 0) else none

/-- A strobe group beside its registers. -/
def strobeInit : StrobeSt := { edges := [], level := false, due := [] }

/-- A strobe group beside its registers: `level` is the pin's. -/
def State.strobe (s : State) (g : Nat) : StrobeSt := look strobeInit s.strobes g

/-- Updates a strobe group. -/
def State.setStrobe (s : State) (g : Nat) (f : StrobeSt → StrobeSt) : State :=
  { s with strobes := store strobeInit g (f (s.strobe g)) s.strobes }

/-- Eight times the period that governs a group's base duty, in ns (R226). -/
def State.groupPeriod (s : State) (g : Nat) : Option Nat :=
  if s.get (LSWC.SRC g) = 2 then some (8 * us (s.get (LSWC.PER g))) else strobePeriod (s.strobe g).edges

/-- The base duty floor((D × P − 4096 × W) / (P − W)) within 0 to D (R226), for `p` eight periods and `w` eight widths. A
period below the width gives at least D; where they are equal the spec states no result, and the value is free (DESIGN
CHOICE, log entry 69). -/
def baseOf (d p w free : Nat) : Nat :=
  if w < p then min ((d * p - 4096 * w) / (p - w)) d else if p < w then d else free % (d + 1)

/-- The base duty D_b of a channel in strobe mode (R226). W is the WIDTH register, also where a pulse in SRC 0b01 ends before it
(DESIGN CHOICE, log entry 83). -/
def State.baseDuty (s : State) (n : Nat) : Nat :=
  let g := s.get (LSW.SG n)
  let d := s.get (LSW.DUTY n)
  match s.groupPeriod g with
  | some p => baseOf d p (8 * us (s.get (LSWC.WIDTH g))) (Config.freeValue s.fresh)
  | none => d

/-- The pulse of a channel ends, and its base duty is set anew (R226). -/
def State.endPulse (s : State) (n : Nat) : State :=
  let d := s.baseDuty n
  let s := { s with msh := { s.msh with pulses := s.msh.pulses.filter (fun (e : Nat × Nat) => decide (e.1 ≠ n)) } }
  let s := { s with fresh := s.fresh + 1 }
  (s.disarm (.pulseEnd n)).setOut (.ls n) (fun o => { o with base := some d })

/-- The channels of a group in strobe mode (R224). -/
def State.strobeChannels (s : State) (g : Nat) : List Nat :=
  (List.range 56).filter (fun n => decide (s.lsMode n = 2) && decide (s.get (LSW.SG n) = g)
    && s.cmdOn (.ls n) && decide (s.master (.ls n) = .ls n))

/-! Commands. -/

/-- LANE_LINK_SLOT: one frame with each power die (R694). -/
def execLaneLinkSlot (t : Nat) (a b : LinkResult) (s : State) : Host.Outcome State Fault Refusal :=
  .next (((s.reach t).linkFrame 0 t a).linkFrame 1 t b)

/-- LANE_LINK_RESYNC: a die answers again (R232, R694). -/
def execLaneLinkResync (t d : Nat) (s : State) : Host.Outcome State Fault Refusal := .next ((s.reach t).linkBack d t)

/-- LANE_WATCHDOG_EXPIRY: the die applies its selected pattern (R232). -/
def execLaneWatchdogExpiry (d : Nat) (s : State) : Host.Outcome State Fault Refusal :=
  .next (s.onExpiry (.watchdog d) (fun t s => s.dieFailsafe d t (fun x => { x with wdog := true })))

/-- FAILSAFE_HEAT: the die starts the next channels of its pattern (R234). -/
def execFailsafeHeat (d : Nat) (s : State) : Host.Outcome State Fault Refusal :=
  .next (s.onExpiry (.fsHeat d) (fun t s => if (s.die d).lockout || (s.die d).gnd then s else s.heat d t))

/-- LH_SELECT_CHANGE: a filtered change of LH1:LH0; an applied pattern follows it (R231). -/
def execLhSelectChange (t d sel : Nat) (s : State) : Host.Outcome State Fault Refusal :=
  .next (
    let s := (s.reach t).setDie d (fun x => { x with sel := sel % 4 })
    if (s.die d).inFs ∧ ¬ (s.die d).lockout ∧ ¬ (s.die d).gnd then s.diePattern d t else s)

/-- Strobe mode begins with the tick that applies it, and the pulse count with it; the tick that ends it ends a pulse in
progress (R226, R238). -/
def State.strobeTick (s : State) : State :=
  (List.range 56).foldl (fun s n =>
    let on := decide (s.lsMode n = 2)
    if on = (s.out (.ls n)).strobe then s
    else
      let s := s.setOut (.ls n) (fun o => { o with strobe := on, base := none, pcount := 0 })
      if on then s
      else
        let drop := fun (l : List (Nat × Nat)) => l.filter (fun e => decide (e.1 ≠ n))
        ({ s with msh := { s.msh with pulses := drop s.msh.pulses, late := drop s.msh.late } }.disarm (.pulseEnd n)).disarm
          (.lateMax n)) s

/-- REVERSE_BATTERY: VBAT lies more than 2 V below PGND (R222, R667). Limiting and diagnostics stop acting. -/
def execReverseBattery (t : Nat) (s : State) : Host.Outcome State Fault Refusal :=
  .next (
    let s := s.reach t
    if s.flag SUP.REVERSE then s
    else
      let s := { (s.put SUP.REVERSE 1).count SUP.REVCNT with reverseAt := some t }
      let s := { s with timers := s.timers.filter (fun e => match e.1 with | .testPhase _ => false | _ => true) }
      allUnits.foldl (fun s u =>
        let s := if (s.out u).lim then s.endLimit u else s
        let on := match u with
          | .ls n => s.flag (LSW.RVON (s.lsMaster n))
          | .vd _ | .bank _ => true
          | _ => false
        if on then s.setOut u (fun o => { o with revOn := true }) else s) s)

/-- GROUND_LOSS: a die whose ground has moved turns its outputs off and stops answering (R223, R669). -/
def execGroundLoss (t d : Nat) (s : State) : Host.Outcome State Fault Refusal :=
  .next (
    let s := s.reach t
    if (s.die d).gnd then s
    else
      let s := s.dieFailsafe d t (fun x => { x with gnd := true })
      let s := (s.dieOff d t).setDie d (fun x => { x with heats := [] })
      ((s.put SUP.GNDLOSS 1).count SUP.GNDCNT).linkLost d true)

/-- GROUND_RETURN: the die restarts (R669). -/
def execGroundReturn (t d : Nat) (s : State) : Host.Outcome State Fault Refusal :=
  .next (
    let s := s.reach t
    if (s.die d).gnd then
      let s := s.dieRestart d t
      if (s.die 0).gnd ∨ (s.die 1).gnd then s else s.put SUP.GNDLOSS 0
    else s)

/-- The lock-out bit of a die. -/
def fUvlo (d : Nat) : Fld := if d = 0 then SUP.UVLOA else SUP.UVLOB

/-- POWER_DIE_LOCKOUT: VBAT below the die's lockout turns every output off (R665). -/
def execPowerDieLockout (t d : Nat) (s : State) : Host.Outcome State Fault Refusal :=
  .next (
    let s := s.reach t
    if (s.die d).lockout then s
    else
      let s := s.dieFailsafe d t (fun x => { x with lockout := true })
      let s := (s.dieOff d t).setDie d (fun x => { x with heats := [] })
      let s := ((s.put (fUvlo d) 1).count SUP.UVLOCNT).yieldOnce 5 2 d t
      s.linkLost d true)

/-- POWER_DIE_RESTART: VBAT above 5.5 V; the die restarts as at power-on (R665). -/
def execPowerDieRestart (t d : Nat) (s : State) : Host.Outcome State Fault Refusal :=
  .next (
    let s := s.reach t
    if (s.die d).lockout then (s.put (fUvlo d) 0).dieRestart d t else s)

/-- The exposure of a group that strobes by level ends: pulses in progress end, pulses that wait for the Marshal are skipped,
and pulses not yet due are no longer (R224; DEDUCED, log entry 70). -/
def State.exposureEnds (s : State) (g t : Nat) : State :=
  let s := s.setStrobe g (fun x => { x with due := [] })
  let s := (s.strobeChannels g).foldl (fun s n =>
    let s := if s.msh.pulses.any (fun (e : Nat × Nat) => decide (e.1 = n)) then s.endPulse n else s
    if s.msh.late.any (fun (e : Nat × Nat) => decide (e.1 = n)) then s.skipPulse n t else s) s
  s.pulseRetry t

/-- CAMSYNC_EDGE: pin CAMSYNCg takes a level. By POL that starts an exposure, which schedules a pulse, or ends it (R224, R226). -/
def execCamsyncEdge (t g : Nat) (high : Bool) (s : State) : Host.Outcome State Fault Refusal :=
  .next (
    let s := s.reach t
    let begins := high != s.flag (LSWC.POL g)
    let was := (s.strobe g).level
    let s := s.setStrobe g (fun x => { x with level := high })
    let src := s.get (LSWC.SRC g)
    if !s.flag (LSWC.EN g) || decide (2 ≤ src) || decide (high = was) then s
    else if begins then
      s.setStrobe g (fun x =>
        let es := (t :: x.edges).take 9
        { x with edges := es, due := if es.length = 9 then x.due ++ [t + us (s.get (LSWC.DELAY g))] else x.due })
    else if src = 1 then s.exposureEnds g t
    else s)

/-- Whether the local gPTP time reaches PHASE + k × PER of a group at `t` (R224). -/
def State.schedHits (s : State) (g t : Nat) : Bool :=
  let k := fun (x : Nat) => let y := s.gptp x; if us (s.get (LSWC.PHASE g)) ≤ y then (y - us (s.get (LSWC.PHASE g))) / us (s.get (LSWC.PER g)) + 1 else 0
  decide (0 < t) && decide (k (t - 1) < k t)

/-- STROBE_SCHEDULE_INSTANT: a gPTP instant of a group falls due; without lock it counts as skipped (R224, R225). -/
def execStrobeScheduleInstant (t g : Nat) (s : State) : Host.Outcome State Fault Refusal :=
  .next (
    let s := s.reach t
    if !s.flag (LSWC.EN g) || decide (s.get (LSWC.SRC g) ≠ 2) || !s.schedHits g t then s
    else if s.flag TSY.LOCK then s.setStrobe g (fun x => { x with due := x.due ++ [t] })
    else s.count (LSWC.SKIPPED g))

/-- SPRINT_PULSE: at its intended instant each channel's pulse fires, waits or is skipped; a pulse that waits is taken
up again. An instant of the gPTP schedule without lock counts as skipped (R225, R227, R228, R259). -/
def execSprintPulse (t g : Nat) (s : State) : Host.Outcome State Fault Refusal :=
  .next (
    let s := s.reach t
    match (s.strobe g).due with
    | [] => s.pulseRetry t
    | d :: ds =>
      if t < d then s.pulseRetry t
      else
        let s := s.setStrobe g (fun x => { x with due := ds })
        if ¬ s.strobeLocked g then s.count (LSWC.SKIPPED g) else (s.strobeChannels g).foldl (fun s n =>
          if !s.pulseReady n then s.skipPulse n d
          else if s.pulseFits n then s.firePulse n d false
          else
            let s := { s with msh := { s.msh with late := s.msh.late.filter (fun (e : Nat × Nat) => decide (e.1 ≠ n)) ++ [(n, d)] } }
            s.arm (.lateMax n) (d + us (s.get (LSWC.LATEMAX g)))) s)

/-- SPRINT_PULSE_END: the pulse width ends; the channel returns to its base duty (R226). -/
def execSprintPulseEnd (n : Nat) (s : State) : Host.Outcome State Fault Refusal :=
  .next (s.onExpiry (.pulseEnd n) (fun t s => (s.endPulse n).pulseRetry t))

/-- PULSE_LATE_EXPIRY: a waiting pulse passes LATEMAX and is skipped (R228). -/
def execPulseLateExpiry (n : Nat) (s : State) : Host.Outcome State Fault Refusal :=
  .next (s.onExpiry (.lateMax n) (fun t s => s.skipPulse n t))

end Sys2Proof.Machine
end

