-- ==== Sys2Proof/Machine/Thermal.lean ====
section
/-! DEFINITION. Temperature and sense conversions, thermal protection, and what the Marathon monitor measures from them
(R202 to R207, R215, R238, R332, R561 to R563). Temperatures are in steps of 0.125 °C. -/
namespace Sys2Proof.Machine

/-- The Marathon unit of a power unit (R561). -/
def ageUnitOf : OutU → Option Nat
  | .ls n => some n | .bank b => some (56 + b) | _ => none

/-- The swing bin of a half-cycle, or none below 10 K (R563). -/
def swingBin (dT : Nat) : Option Nat :=
  if dT < 80 then none
  else some ((([160, 320, 480, 640, 800, 960, 1120] : List Nat).filter (fun x => decide (x ≤ dT))).length)

/-- Cycles to end of life of each bin (R563). -/
def binLife : List Nat := [100000000, 20000000, 5000000, 1500000, 600000, 250000, 120000, 60000]

/-- The cycle life that a unit's bins have consumed, in steps of 1/65 536 (R563, R564). -/
def AgeUnit.cycleLife (a : AgeUnit) : Nat :=
  min (((a.bins.zip binLife).map (fun e => 65536 * e.1 / (2 * e.2))).sum) 0xFFFF

/-- One half-cycle counted in its bin (R563). -/
def AgeUnit.halfCycle (a : AgeUnit) (hi lo : Int) : AgeUnit :=
  match swingBin (hi - lo).natAbs with
  | some b => { a with bins := a.bins.set b (min (a.bins.getD b 0 + 1) 0xFFFFFFFF) }
  | none => a

/-- A junction conversion: a reversal of at least 5 K from the last extreme ends a half-cycle (R563). -/
def AgeUnit.swing (a : AgeUnit) (tj : Int) : AgeUnit :=
  match a.ext, a.up with
  | none, _ => { a with ext := some tj, last := tj }
  | some e, none => if tj ≥ e + 40 then { a with up := some true, last := tj }
      else if tj + 40 ≤ e then { a with up := some false, last := tj } else a
  | some e, some true =>
    if tj > a.last then { a with last := tj }
    else if tj + 40 ≤ a.last then { a.halfCycle a.last e with ext := some a.last, last := tj, up := some false }
    else a
  | some e, some false =>
    if tj < a.last then { a with last := tj }
    else if tj ≥ a.last + 40 then { a.halfCycle e a.last with ext := some a.last, last := tj, up := some true }
    else a

/-- A trip ends a half-cycle at its peak (R563). -/
def AgeUnit.tripPeak (a : AgeUnit) (tj : Int) : AgeUnit :=
  match a.ext, a.up with
  | some e, some true => { a.halfCycle (max a.last tj) e with ext := some (max a.last tj), last := tj, up := some false }
  | _, _ => a

/-- Updates a power unit's Marathon record, where it has one. -/
def State.ageMap (s : State) (u : OutU) (f : AgeUnit → AgeUnit) : State :=
  match ageUnitOf u with
  | some i => s.setAge i f
  | none => s

/-- Resistance normalised to 25 °C, and the running mean (R562). -/
def AgeUnit.measure (a : AgeUnit) (r : Nat) (tj : Int) : AgeUnit :=
  if tj < 200 ∨ tj > 1200 then a
  else
    let r25 := (roundDiv (8000 * r) (6800 + 6 * tj).toNat).toNat
    if a.loaded then { a with mean := (roundDiv (15 * a.mean + r25) 16).toNat } else { a with mean := r25, loaded := true }

/-- Absolute trip, differential trip and clear thresholds of a unit (R202, R203, R332, R568). -/
def State.tripAt (s : State) (u : OutU) : Int :=
  match u with
  | .ls n => 1320 - 40 * s.deratingOf n
  | _ => 1320

/-- Whether a unit trips on its difference from the die reference; a sink does not (R332). -/
def hasDiff : OutU → Bool
  | .led _ => false
  | _ => true

/-- The fold-back of a sink from 150 °C (R331, R332). -/
def State.fold (s : State) (u : OutU) (tj : Int) (t : Nat) : State :=
  match u with
  | .led n =>
    if 1200 ≤ tj ∧ (s.phase u).conducts then
      if s.flag (LDS.FOLDING n) then s
      else ((s.put (LDS.FOLDING n) 1).setFault u 4 t).g5 u (limitKey u) t
    else (s.put (LDS.FOLDING n) 0).yieldClose 5 2 (limitKey u)
  | _ => s

/-- A thermal trip of a unit by its kind (R195, R286, R288, R311, R329). A stalled bridge keeps its state and takes the flags and
the latch (R309). -/
def State.thermalTrip (s : State) (u : OutU) (flags : List Nat) (t : Nat) : State :=
  match u with
  | .bank b => s.bankTrip b flags t
  | .hb n =>
    if s.phase u ≠ .stalled then s.trip u flags true t
    else if s.flag (fLatch u) then s else (s.put (fLatch u) 1).hbCut n flags t
  | _ => s.trip u flags true t

/-- A member of a group that reaches its trip at the conversion at which a partner has already turned the group off: its own
flags, latch and count (R202, R209). -/
def State.tripAlso (s : State) (u : OutU) (flags : List Nat) (t : Nat) : State :=
  let s := flags.foldl (fun s b => s.setFault u b t) s
  (((s.put (fLatch u) 1).count (fTrips u)).g5Latch u t)

/-- One junction of a temperature conversion (R202, R203, R222, R332); `was` tells whether the unit conducted as the conversion
was made. -/
def State.thermal (s : State) (ref : Int) (x : Temp) (was : Bool) (t : Nat) : State :=
  let u := x.unit
  let s := s.put (fTj u) (unsignedOf 16 x.tj)
  let s := match u with
    | .ls n => s.put (LSW.TDIFF n) (unsignedOf 16 (x.tj - ref))
    | _ => s
  let s := s.ageMap u (fun a => a.swing x.tj)
  let absolute := decide (s.tripAt u ≤ x.tj)
  let differs := hasDiff u && decide (ref + 480 ≤ x.tj)
  let b := protBits u
  let s := s.fold u x.tj t
  if (s.out u).revOn then (if 1320 ≤ x.tj then s.setOut u (fun o => { o with revOn := false }) else s)
  else if (absolute || differs) && (s.phase u).conducts then
    (s.ageMap u (fun a => a.tripPeak x.tj)).thermalTrip u
      ((if absolute then [b.otabs] else []) ++ (if differs then [b.otdiff] else [])) t
  else if (absolute || differs) && was && decide ((s.members u).length ≠ 1) && !s.flag (fLatch u) then
    (s.ageMap u (fun a => a.tripPeak x.tj)).tripAlso u
      ((if absolute then [b.otabs] else []) ++ (if differs then [b.otdiff] else [])) t
  else if s.flag (fLatch u) && decide (x.tj < s.tripAt u - 160) && (!hasDiff u || decide (x.tj - ref < 320)) then s.latchClear u t
  else s

/-- The collateral cut of a die whose reference is at or above 150 °C: every channel of it in INRUSH sets COLLOT and leaves
for ON (R206, R207). -/
def State.collateral (s : State) (d : Nat) (t : Nat) : State :=
  let us := ((List.range 56).map OutU.ls).filter (fun u => decide (udie u = d) && decide (s.phase u = .start))
  let s := us.foldl (fun s u => s.setFault u 7 t) s
  us.foldl (fun s u => if s.master u = u then (s.mshReleaseOf u).enterOn u t else s) s

/-- The on-resistance of a load switch at the first conversion 2 ms after it enters ON (R215). -/
def State.ronLs (s : State) (n ron t : Nat) : State :=
  let u := OutU.ls n
  let o := s.out u
  if ¬ o.ronDue ∨ s.phase u ≠ .on ∨ t < o.since + ms 2 then s
  else
    let s := s.setOut u (fun o => { o with ronDue := false })
    let i := 2 * s.get (LSW.IOUT n)
    let lim := s.steadyLimit n
    if 20 * i ≥ lim ∧ 20 * i ≤ 9 * lim ∧ ¬ s.flag (LSW.LIMITING n) ∧ s.lsMode n = 0 then
      (s.put (LSW.RON n) ron).setAge n (fun a => a.measure ron (s.signed (LSW.TJ n)))
    else s

/-- The on-resistance of a bank switch (R561). -/
def State.ronBank (s : State) (b ron t : Nat) : State :=
  let u := OutU.bank b
  let o := s.out u
  if ¬ o.ronDue ∨ s.phase u ≠ .on ∨ t < o.since + ms 2 then s
  else
    let s := s.setOut u (fun o => { o with ronDue := false })
    let i := 4 * s.get (VDB.IBANK b)
    if 1000 ≤ i ∧ i ≤ 10000 then s.setAge (56 + b) (fun a => a.measure ron (s.signed (VDB.BANKTEMP_TJ b))) else s

/-- One unit of a sense conversion. -/
def State.sense (s : State) (x : Sense) (t : Nat) : State :=
  let i16 := unsignedOf 16 x.i
  let v16 := unsignedOf 16 x.v
  match x.unit with
  | .ls n => ((s.put (LSW.IOUT n) i16).put (LSW.VOUT n) v16).ronLs n x.ron t
  | .bank b => ((s.put (VDB.IBANK b) i16).put (VDB.VBANK b) v16).ronBank b x.ron t
  | .vd n => s.put (VDB.IMEAS n) i16
  | .hb n => (s.put (HB.IOUT n) i16).put (HB.VOUT n) v16
  | .so n => (s.put (DOUT.IOUT n) i16).put (DOUT.VOUT n) v16
  | .led n => (s.put (LDS.IOUT n) i16).put (LDS.VSINK n) v16
  | .row n => (s.put (LMX.IROW n) i16).put (LMX.VROW n) v16
  | .lf _ => s

/-- The current of a master that was converted is its group's total (R211, R301). -/
def State.groupSense (s : State) (us : List OutU) : State :=
  us.foldl (fun s u =>
    if !s.pairMaster u then s
    else
      let total := fun (f : Nat → Fld) => ((s.members u).map (fun v => match v with
        | .ls k | .vd k | .so k => s.get (f k)
        | _ => 0)).sum
      match u with
      | .ls n => s.put (LSW.IOUT n) (min (total LSW.IOUT) 0xFFFF)
      | .vd n => s.put (VDB.IMEAS n) (min (total VDB.IMEAS) 0x1FFF)
      | .so n => s.put (DOUT.IOUT n) (min (total DOUT.IOUT) 0xFFFF)
      | _ => s) s

/-! Commands. -/

/-- TEMPERATURE_CONVERSION: junctions of one die against its reference (R202, R203, R206). -/
def execTemperatureConversion (t d : Nat) (ref : Int) (temps : List Temp) (s : State) : Host.Outcome State Fault Refusal :=
  .next (
    let s := (s.reach t).setDie d (fun x => { x with ref := ref })
    let s0 := s
    let s := temps.foldl (fun s x => if udie x.unit = d then s.thermal ref x (s0.phase x.unit).conducts t else s) s
    if 1200 ≤ ref then s.collateral d t else s)

/-- SENSE_CONVERSION: currents, voltages and on-resistances (R215, R238). -/
def execSenseConversion (t : Nat) (ss : List Sense) (s : State) : Host.Outcome State Fault Refusal :=
  .next ((ss.foldl (fun s x => s.sense x t) (s.reach t)).groupSense (ss.map (fun x => x.unit)))

end Sys2Proof.Machine
end

