-- ==== Sys2Proof/Machine/Record.lean ====
section
/-! DEFINITION. The Record book: firmware codes, feeds, refills, flush and archive (R572 to R587), and the Marathon image
it saves (R565). -/
namespace Sys2Proof.Machine

/-- Where the Record book SRAM lies. -/
def recBase : Nat := 0x400000

/-- Where archive sector `j` lies (R582). -/
def archSector (j : Nat) : Nat := 0x10630000 + 4096 * j

/-! Codes and feeds. -/

/-- Whether a code is a firmware code (R573). -/
def fwCode (c : Nat) : Bool := decide (0xA00 ≤ c) && decide (c ≤ 0xFFF)

/-- Records a firmware code with its argument (R573, R574). -/
def State.recPut (s : State) (c arg t : Nat) : State := State.record 4 c t 0 0 arg s

/-- Where a feed's entry lies. -/
def feedAddr (k : Nat) : Nat := if k < 256 then 0x409000 + 256 * k else 0x419000 + 32 * (k - 256)

/-- Where a feed keeps its copy of `FCFG0`. -/
def feedCfg (k : Nat) : Nat := if k < 256 then feedAddr k + 0x90 else feedAddr k + 24

/-- `FCFG0` of a feed; an entry never configured reads as the reset value (R577, R587). -/
def State.feedCfg0 (s : State) (k : Nat) : Nat :=
  let w := s.le (feedCfg k) 4
  if w = 0 then 0xA00 else w

/-- Whether a feed holds samples: its configuration is then fixed (R577). -/
def State.feedBusy (s : State) (k : Nat) : Bool :=
  if k < 256 then decide (s.le (feedAddr k + 0x80) 4 ≠ 0) else decide (s.le (feedAddr k + 10) 1 % 2 = 1)

/-- The bin of a value (R578). -/
def binOf (v lo : Int) (w : Nat) : Nat :=
  if v < lo then 0 else min 31 (((v - lo) / Int.ofNat (max w 1)).toNat + 1)

/-- A histogram overflows or the detail region fills: REC_FULL and one G9 episode (R576, R578). -/
def State.recFull (s : State) (unit t : Nat) : State := (((s.evt 0x07 2).detect 0x20 0).yieldOnce 9 9 unit t)

/-- One sample of a feed at split instant `t`, `raw` in the feed's width of `width` bits (R577 to R579). -/
def State.feedSample (s : State) (k raw width t : Nat) : State :=
  let a := feedAddr k
  let cfg := s.feedCfg0 k
  let val := fun (w n : Nat) => if bitAt cfg 4 then signedOf w n else Int.ofNat (n % 2 ^ w)
  let v := val width raw
  if k < 256 then
    if s.le (a + 0x8A) 1 % 2 = 1 then s
    else
      let b := binOf v (val 32 (s.le (a + 0x94) 4)) (s.le (a + 0x98) 4)
      let n := s.le (a + 0x80) 4
      let s := if n = 0 then s.setLe (a + 0x84) 6 s.lap else s
      let s := (s.setLe (a + 0x80) 4 (min (n + 1) 0xFFFFFFFF)).setLe (a + 4 * b) 4 (s.le (a + 4 * b) 4 + 1)
      if s.le (a + 4 * b) 4 = 0xFFFFFFFF then (s.setLe (a + 0x8A) 1 1).recFull 0 t else s
  else
    let first := s.le (a + 10) 1 % 2 = 0
    let word := unsignedOf 32 v
    let s := if first ∨ v < val 32 (s.le a 4) then ((s.setLe a 4 word).setLe (a + 4) 6 s.lap) else s
    let s := if first ∨ val 32 (s.le (a + 12) 4) < v then ((s.setLe (a + 12) 4 word).setLe (a + 16) 6 s.lap) else s
    s.setLe (a + 10) 1 1

/-- A firmware sample (R577). -/
def State.feedPut (s : State) (k v t : Nat) : State :=
  if k < 320 ∧ s.feedCfg0 k % 4 = 2 then s.feedSample k v 32 t else s

/-- A feed's content is cleared, its configuration kept (R577). -/
def State.feedClear (s : State) (k : Nat) : State :=
  let a := feedAddr k
  if k < 256 then (s.zero a (a + 0x90)).zero (a + 0x9C) (a + 0x100) else (s.zero a (a + 24)).zero (a + 28) (a + 32)

/-- At the cut-off every snapshot feed samples its field of the snapshot; `snap` reads the bank, `t` is the tick (R577). -/
def State.feedSnapshot (s : State) (snap : Nat → Byte) (t : Nat) : State :=
  (List.range 320).foldl (fun s k =>
    let cfg := s.le (feedCfg k) 4
    if cfg % 4 ≠ 1 then s
    else if k < 256 ∧ s.lap % 2 ^ wbits cfg 8 4 ≠ 0 then s
    else
      let n := 2 ^ wbits cfg 2 2
      s.feedSample k (leVal ((List.range n).map (fun i => snap (wbits cfg 16 16 + i)))) (8 * n) t) s

/-! The Marathon image (R565, R572). -/

/-- The drift of a unit in 0.1 % steps (R562). -/
def State.drift (s : State) (u : Nat) : Int :=
  let m := (s.ageOf u).mean
  if m = 0 then 0 else roundDiv (Int.ofNat (1000 * m)) (Config.factoryRon0 u) - 1000

/-- Time-temperature life in steps of 1/65 536 (R564). -/
def lifeSteps (a : Nat) : Nat := min (a / 2 ^ 24) 0xFFFF

/-- Time-temperature life of die `d` (0 PD-A, 1 PD-B). -/
def State.dieTime (s : State) (d : Nat) : Nat := lifeSteps (if d = 0 then s.ageing.lifeA else s.ageing.lifeB)

/-- The power die of a Marathon unit. -/
def ageDie (u : Nat) : Nat := if u < 56 then udie (.ls u) else udie (.bank (u - 56))

/-- The consumed life of a Marathon unit (R564). -/
def State.unitLife (s : State) (u : Nat) : Nat := max (s.ageOf u).cycleLife (s.dieTime (ageDie u))

/-- The consumed life of a power die (R564). -/
def State.dieLife (s : State) (d : Nat) : Nat :=
  (List.range 60).foldl (fun m u => if ageDie u = d then max m (s.ageOf u).cycleLife else m) (s.dieTime d)

/-- The Marathon image in the Record book SRAM (R572). -/
def State.ageSave (s : State) : State :=
  let s := (List.range 60).foldl (fun s u =>
    let a := s.ageOf u
    s.setBytes (recBase + 0x100 + 48 * u) (leBytes 2 a.mean ++ leBytes 2 (unsignedOf 16 (s.drift u)) ++ leBytes 2 (s.unitLife u)
      ++ leBytes 1 a.d ++ leBytes 1 0 ++ a.bins.flatMap (leBytes 4) ++ leBytes 8 0)) s
  s.setBytes (recBase + 0xC40) (leBytes 4 (s.get AGE.MINUTES) ++ leBytes 2 (lifeSteps s.ageing.lifeCd) ++ leBytes 2 (s.dieLife 0)
    ++ leBytes 2 (s.dieLife 1) ++ leBytes 2 (s.get AGE.VREQ) ++ leBytes 4 (s.get AGE.RPCNT))

/-- The Marathon state as the image holds it (R565). -/
def State.ageLoad (s : State) : State :=
  let s := (List.range 60).foldl (fun s u =>
    let a := recBase + 0x100 + 48 * u
    s.setAge u (fun r => { r with
      mean := s.le a 2, loaded := false, d := s.le (a + 6) 1, bins := (List.range 8).map (fun b => s.le (a + 8 + 4 * b) 4) })) s
  let a := recBase + 0xC40
  let s := (s.put AGE.MINUTES (s.le a 4)).put AGE.RPCNT (s.le (a + 12) 4)
  { s with ageing := { s.ageing with
      lifeCd := s.le (a + 4) 2 * 2 ^ 24, lifeA := s.le (a + 6) 2 * 2 ^ 24, lifeB := s.le (a + 8) 2 * 2 ^ 24 } }

/-! Flush and archive (R580 to R584). -/

/-- Updates the flush. -/
def State.setBook (s : State) (f : RecSt → RecSt) : State := { s with book := f s.book }

/-- The sector that a commit maps for block `b`; 0xFFFF for all zeros. -/
def State.commitMap (s : State) (b : Nat) : Nat :=
  match s.book.commit with
  | some c => s.le (archSector c + 0x20 + 8 * b) 2
  | none => 0xFFFF

/-- Block `b` of a frozen image. -/
def imageBlock (img : List Host.Cell) (b : Nat) : List Byte := (List.range 4096).map (fun i => look 0 img (recBase + 4096 * b + i))

/-- Block `b` as the current commit maps it. -/
def State.commitBlock (s : State) (b : Nat) : List Byte :=
  if s.commitMap b = 0xFFFF then List.replicate 4096 0 else s.bytes (archSector (s.commitMap b)) 4096

/-- Whether every byte is zero. -/
def allZero (bs : List Byte) : Bool := bs.all (fun b => decide (b = 0))

/-- The next sector in ring order after `last` that the current commit neither maps nor occupies and the flush has not
used (R581). -/
def State.freeSector (s : State) (last : Nat) (used : List Nat) : Option Nat :=
  ((List.range 256).map (fun k => (last + 1 + k) % 256)).find? (fun j =>
    decide (s.book.commit ≠ some j) && (List.range 128).all (fun b => decide (s.commitMap b ≠ j)) && !used.contains j)

/-- Starts a flush for a reason at `t` (R580, R581). -/
def State.flushStart (s : State) (reason t : Nat) : State :=
  let s := s.ageSave
  let img := s.mem.filter (fun c => decide (recBase ≤ c.1) && decide (c.1 < recBase + 0x80000))
  let changed := (List.range 128).filter (fun b => decide (imageBlock img b ≠ s.commitBlock b))
  let todo := changed.filter (fun b => !allZero (imageBlock img b))
  let map := (List.range 128).foldl (fun m b =>
    if b ∈ changed then m else if s.commitMap b = 0xFFFF then m else ins b (s.commitMap b) m) []
  match s.freeSector s.book.cursor [] with
  | none => (((s.evt 0x07 1).count REC.FAILS).detect 0x21 0)
  | some j =>
    let f : RecFlush :=
      { image := img, reason := reason, lap := s.lap, split := s.splitAt t % 2 ^ 32, todo := todo, map := map, used := [j], target := j,
        retried := false, wrote := 0 }
    (s.setBook (fun r => { r with flush := some f, since := t })).put REC.BUSY 1

/-- A flush trigger: it starts, or is held with the latest reason (R580). -/
def State.flushTrigger (s : State) (reason t : Nat) : State :=
  if s.book.flush.isSome then (s.setBook (fun r => { r with held := some reason })).put REC.HELD 1
  else s.flushStart reason t

/-- The commit sector of a flush (R582). -/
def commitSector (f : RecFlush) (seq : Nat) : List Byte :=
  let entry := fun (b : Nat) => leBytes 2 (look 0xFFFF f.map b) ++ leBytes 2 0 ++ leBytes 4 (crc32 (imageBlock f.image b))
  let body := leBytes 4 0x31424B52 ++ leBytes 4 seq ++ leBytes 6 f.lap ++ leBytes 1 f.reason ++ leBytes 1 0 ++ leBytes 4 f.split
    ++ leBytes 12 0 ++ (List.range 128).flatMap entry ++ List.replicate (0xFFC - 0x420) 0
  body ++ leBytes 4 (crc32 body)

/-- The flush is over; a held one follows (R580). -/
def State.flushOver (s : State) (t : Nat) : State :=
  let s := (s.setBook (fun r => { r with flush := none })).put REC.BUSY 0
  match s.book.held with
  | some r => ((s.setBook (fun b => { b with held := none })).put REC.HELD 0).flushStart r t
  | none => s

/-- The flush is abandoned (R583). -/
def State.flushAbandon (s : State) (t : Nat) : State := (((s.evt 0x07 1).count REC.FAILS).detect 0x21 0).flushOver t

/-- Goes on to another sector, or abandons the flush where none is free. -/
def State.flushNext (s : State) (f : RecFlush) (t : Nat) : State :=
  match s.freeSector f.target f.used with
  | some j => s.setBook (fun r => { r with flush := some { f with target := j, used := j :: f.used } })
  | none => s.flushAbandon t

/-- A sector of the flush has been written (R581). -/
def State.flushWrote (s : State) (f : RecFlush) (t : Nat) : State :=
  match f.todo with
  | b :: rest =>
    let s := s.setBytes (archSector f.target) (imageBlock f.image b)
    s.flushNext { f with todo := rest, map := ins b f.target f.map, retried := false, wrote := f.wrote + 1 } t
  | [] =>
    let seq := (match s.book.commit with | some j => s.le (archSector j + 4) 4 | none => 0) + 1
    let s := s.setBytes (archSector f.target) (commitSector f seq)
    let s := s.setBook (fun r => { r with commit := some f.target, cursor := f.target })
    let s := ((s.setLe (recBase + 8) 4 seq).setLe (recBase + 0x10) 8 f.lap).put REC.SEQ seq
    (((s.put REC.REASON f.reason).put REC.BLOCKS f.wrote).evt 0x07 0).flushOver t

/-- Whether a commit sector and every block it maps are valid (R584). -/
def State.commitValid (s : State) (j : Nat) : Bool :=
  let a := archSector j
  decide (s.le a 4 = 0x31424B52) && decide (s.le (a + 0xFFC) 4 = crc32 (s.bytes a 0xFFC))
    && (List.range 128).all (fun b =>
      let m := s.le (a + 0x20 + 8 * b) 2
      let bs := if m = 0xFFFF then List.replicate 4096 0 else s.bytes (archSector m) 4096
      decide (crc32 bs = s.le (a + 0x24 + 8 * b) 4))

/-- Every bucket is filled to BURST of its class (R575). -/
def State.fillBuckets (s : State) : State :=
  (List.range 4096).foldl (fun s c => s.setLe (recCounter c + 6) 1 (s.get (REC.BURST (s.le (recCounter c + 7) 1 % 16)))) s

/-- The book after power-on or a wake from PARK (R584). -/
def State.bookReload (s : State) (t : Nat) : State :=
  let s := s.zero recBase (recBase + 0x80000)
  let best := (List.range 256).foldl (fun m j =>
    if s.commitValid j then
      match m with
      | some k => if s.le (archSector k + 4) 4 < s.le (archSector j + 4) 4 then some j else m
      | none => some j
    else m) none
  match best with
  | none => (s.setBook (fun r => { r with commit := none })).fillBuckets
  | some j =>
    let s := s.setBook (fun r => { r with commit := some j, cursor := j })
    let s := (List.range 128).foldl (fun s b =>
      if s.commitMap b = 0xFFFF then s else s.setBytes (recBase + 4096 * b) (s.bytes (archSector (s.commitMap b)) 4096)) s
    let reason := s.le (archSector j + 0xE) 1
    let s := ((s.put REC.SEQ (s.le (archSector j + 4) 4)).put REC.REASON reason).ageLoad.fillBuckets
    if reason = 2 then s
    else ((s.put REC.UNCLEAN 1).setLe (recBase + 4) 1 (setBit (s.le (recBase + 4) 1) 1)).yieldOnce 9 9 0 t

/-- A wipe (R586): every region but the header flags and the Marathon image. -/
def State.recWipe (s : State) (t : Nat) : State :=
  (((s.zero recBase (recBase + 4)).zero (recBase + 8) (recBase + 0x100)).zero (recBase + 0x1000) (recBase + 0x80000)).flushTrigger 3 t

/-- A read of `REC.RDDATA`: the word at RDADDR, which advances (R585). -/
def State.recRead (s : State) : State :=
  let a := s.get REC.ADDR
  (s.put REC.DATA (s.le (recBase + 4 * a) 4)).put REC.ADDR (a + 1)

/-! Commands. -/

/-- RECORD_QUEUE_ENTRY: the Record book consumes the head of a queue whose HWC is REC (R573). -/
def execRecordQueueEntry (t k : Nat) (s : State) : Host.Outcome State Fault Refusal :=
  .next (
    let s := s.reach t
    if s.get (BQ.HWC k) ≠ 7 ∨ s.strideQueue k then s
    else match (s.queue k).entries with
      | [] => s
      | e :: _ =>
        let s := (s.qRemove k).freeBuffer e
        let at_ := s.splitZero + 4 * e.split
        let n := e.p0 % 65536
        if e.tl % 2 ^ 13 = 0x708 ∧ e.tl / 2 ^ 14 = 0 ∧ fwCode n then s.recPut n (e.p0 / 65536 + 65536 * e.p1) at_
        else if e.tl % 2 ^ 13 = 0x718 ∧ e.tl / 2 ^ 14 = 0 ∧ n < 320 then s.feedPut n e.p1 at_
        else s.count REC.BADPUT)

/-- TOKEN_REFILL: a refill instant of class `c`: every bucket of the class gains a token (R575). -/
def execTokenRefill (t c : Nat) (s : State) : Host.Outcome State Fault Refusal :=
  .next (
    let s := s.reach t
    let per := ms (s.get (REC.REFILL c))
    if per = 0 ∨ t < s.book.warm ∨ (t - s.book.warm) % per ≠ 0 then s
    else (List.range 4096).foldl (fun s k =>
      let a := recCounter k
      if s.le (a + 7) 1 % 16 = c then s.setLe (a + 6) 1 (min (s.le (a + 6) 1 + 1) (s.get (REC.BURST c))) else s) s)

/-- FLUSH_PERIOD: PERIOD minutes of RUN or IDLE have passed since the last flush (R580). -/
def execFlushPeriod (t : Nat) (s : State) : Host.Outcome State Fault Refusal :=
  .next (
    let s := s.reach t
    if (s.pwr.state = .run ∨ s.pwr.state = .idle) ∧ s.book.since + ms (60000 * s.get REC.PERIOD) ≤ t then s.flushTrigger 1 t else s)

end Sys2Proof.Machine
end

