-- ==== Sys2Proof/Machine/Ageing.lean ====
section
/-! DEFINITION. The Marathon monitor's sweeps, minutes and re-plans (R561 to R571). -/
namespace Sys2Proof.Machine

/-- Updates the Marathon monitor. -/
def State.setAgeing (s : State) (f : AgeSt → AgeSt) : State := { s with ageing := f s.ageing }

/-- A re-plan awaits the next tick. -/
def State.replan (s : State) (kind unit value : Nat) : State :=
  s.setAgeing (fun a => { a with pend := a.pend.filter (fun e => decide (e.1 ≠ kind ∨ e.2.1 ≠ unit)) ++ [(kind, unit, value)] })

/-- Whether measurements run: RUN and IDLE only (R561). -/
def State.ageRuns (s : State) : Bool := decide (s.pwr.state = .run) || decide (s.pwr.state = .idle)

/-- 2^(k/80) in 2⁻³⁰ steps for k below 80, from the powers for its binary digits (R564, log entry 31). -/
def pow80 (k : Nat) : Nat :=
  ([(0, 1083085507), (1, 1092510500), (2, 1111607247), (3, 1150807992), (4, 1233405466), (5, 1416810830), (6, 1869493099)] : List (Nat × Nat)).foldl
    (fun v e => if bitAt k e.1 then v * e.2 / 2 ^ 30 else v) (2 ^ 30)

/-- The life of one minute at `d` eighths of a kelvin above the reference, in 2⁻²⁴ of a step of 1/65 536: the rate at the
reference is 2^40 / 4 800 000 (R564). -/
def minuteLife (d : Int) : Nat :=
  let q := d / 80
  let m := 229064 * pow80 (d % 80).toNat / 2 ^ 30
  if 0 ≤ q then m * 2 ^ min q.toNat 40 else m / 2 ^ (-q).toNat

/-- The derating D that a unit's drift and life call for (R568). -/
def State.deratingFor (s : State) (u : Nat) : Nat :=
  let d := s.drift u
  min 4 (b2n (decide (100 ≤ d)) + b2n (decide (200 ≤ d)) + b2n (decide (300 ≤ d)) + b2n (decide (49152 ≤ s.unitLife u)))

/-- Whether a unit's drift has reached RONLIM (R570). -/
def State.ronOver (s : State) (u : Nat) : Bool := decide (Int.ofNat (10 * s.get AGE.RONLIM) ≤ s.drift u)

/-- Whether a consumed life has reached LIFELIM (R570). -/
def State.lifeOver (s : State) (life : Nat) : Bool := decide (65536 * s.get AGE.LIFELIM ≤ 100 * life)

/-- The dies as Marathon reports them: unit number and consumed life (R570). -/
def State.ageDies (s : State) : List (Nat × Nat) := [(0xF0, lifeSteps s.ageing.lifeCd), (0xF1, s.dieLife 0), (0xF2, s.dieLife 1)]

/-- Whether AGE_RON or AGE_LIFE persists (R570). -/
def State.agePersists (s : State) (src : Nat) : Bool :=
  if src = 0x23 then (List.range 60).any s.ronOver
  else if src = 0x24 then (List.range 60).any (fun u => s.lifeOver (s.unitLife u)) || s.ageDies.any (fun e => s.lifeOver e.2)
  else false

/-- The limits reported at a re-plan point (R570). -/
def State.ageReport (s : State) : State :=
  let s := (List.range 60).foldl (fun s u =>
    let hit := s.ronOver u
    let s := if hit ∧ ¬ (s.ageOf u).ronOver then (s.evt 0x08 2).detect 0x23 u else s
    let life := s.lifeOver (s.unitLife u)
    let s := if life ∧ ¬ (s.ageOf u).lifeOver then (s.evt 0x08 3).detect 0x24 u else s
    s.setAge u (fun a => { a with ronOver := hit, lifeOver := life })) s
  let dies := s.ageDies.filter (fun e => s.lifeOver e.2)
  let s := dies.foldl (fun s e => if e.1 ∈ s.ageing.diesOver then s else (s.evt 0x08 3).detect 0x24 e.1) s
  s.setAgeing (fun a => { a with diesOver := dies.map (·.1) })

/-- The re-plans that a point decides (R566, R568). -/
def State.agePlan (s : State) : State :=
  let v := s.get AGE.VREQ
  let down := 5 * s.get AGE.STEP
  let s := if s.flag AGE.VEN ∧ s.get AGE.MHI < s.get AGE.MARGIN ∧ s.get AGE.VMIN < v then s.replan 2 0xFF (max (s.get AGE.VMIN) (v - down)) else s
  let s := if s.flag AGE.DREN then
      (List.range 56).foldl (fun s u => if (s.ageOf u).d < s.deratingFor u then s.replan 3 u (s.deratingFor u) else s) s
    else s
  let s := if s.flag AGE.SLEWEN then
      (List.range 56).foldl (fun s u =>
        let a := s.ageOf u
        if 2 ≤ a.d ∧ a.ranPwm ∧ ¬ a.slewUp then s.replan 4 u 1 else s) s
    else s
  (List.range 56).foldl (fun s u => if (s.ageOf u).ranPwm then s.setAge u (fun a => { a with ranPwm := false }) else s) s

/-- The decided re-plans take effect at a tick, before the committed values (R566, R569); so does a derating that the archive
gave back at Warm-up (R199, R575). -/
def State.replanApply (s : State) (t : Nat) : State :=
  let ps := s.ageing.pend
  let s := s.setAgeing (fun a => { a with pend := [] })
  let s := ps.foldl (fun s p => match p.1 with
    | 3 =>
      s.setAge p.2.1 (fun a => { a with d := max a.d p.2.2 })
    | 4 => s.setAge p.2.1 (fun a => { a with slewUp := true })
    | _ => { s with pwr := { s.pwr with reg := s.pwr.reg ++ [{ volt := p.2.2, use := 0, tries := 0 }] } }) s
  let s := (List.range 56).foldl (fun s n =>
    if s.phase (.ls n) = .start ∨ (s.out (.ls n)).drating = (s.ageOf n).d then s
    else s.setOut (.ls n) (fun o => { o with drating := (s.ageOf n).d })) s
  [1, 2, 3, 4].foldl (fun s k =>
    match ps.find? (fun (p : Nat × Nat × Nat) => decide (p.1 = k)) with
    | none => s
    | some p =>
      let s := (((s.count AGE.RPCNT).put AGE.KIND k).put AGE.UNIT p.2.1).evt 0x08 0
      ((s.put AGE.LAPL s.lap).put AGE.LAPH (s.lap / 2 ^ 32)).recEvent (0x800 + k) t p.2.1 k) s

/-! Commands. -/

/-- CANARY_SWEEP: the margins of the four paths in taps and the slowest ring oscillator (R561, R566, R567). -/
def execCanarySweep (t m0 m1 m2 m3 rosc : Nat) (s : State) : Host.Outcome State Fault Refusal :=
  .next (
    let s := s.reach t
    if ¬ s.ageRuns then s
    else
      let ms := [m0, m1, m2, m3]
      let m := min (min m0 m1) (min m2 m3)
      let s := ((s.put AGE.MARGIN (min m 255)).put AGE.WORST (ms.findIdx (fun x => decide (x = m)))).put AGE.ROSCMIN rosc
      let v := s.get AGE.VREQ
      let s :=
        if m < s.get AGE.MLO then
          let s := s.evt 0x08 1
          if s.flag AGE.VEN ∧ v < s.get AGE.VMAX then s.replan 1 0xFF (min (s.get AGE.VMAX) (v + 5 * s.get AGE.STEP)) else s
        else s
      if (m < s.get AGE.MLO ∧ v = s.get AGE.VMAX) ∨ m < s.get AGE.MCRIT then s.detect 0x22 0 else s)

/-- REPLAN_POINT: the first tick after Warm-up, and every RPPER operating hours (R566, R568, R570). -/
def execReplanPoint (t : Nat) (s : State) : Host.Outcome State Fault Refusal :=
  .next (
    let s := s.reach t
    if s.get AGE.MINUTES < s.ageing.nextAt then s
    else
      let s := s.setAgeing (fun a => { a with nextAt := s.get AGE.MINUTES + 60 * s.get AGE.RPPER })
      s.ageReport.agePlan)

/-- OPERATING_MINUTE: mean temperatures of the minute in 0.125 °C, control die and both die references (R564). -/
def execOperatingMinute (t : Nat) (cd a b : Int) (s : State) : Host.Outcome State Fault Refusal :=
  .next (
    let s := s.reach t
    if s.ageRuns || decide (s.pwr.state = .doze) then
      (s.count AGE.MINUTES).setAgeing (fun r => { r with
        lifeCd := r.lifeCd + minuteLife (cd - 800), lifeA := r.lifeA + minuteLife (a - 1000), lifeB := r.lifeB + minuteLife (b - 1000) })
    else s)

end Sys2Proof.Machine
end

