-- ==== Sys2Proof/Machine/Pages.lean ====
section
/-! DEFINITION. Pages as a whole: enable, stop, soft reset, and the resets of clusters (R13 to R18, R45, R57, R58). -/
namespace Sys2Proof.Machine

/-- The output units of a page. -/
def pageOutputs (p : Nat) : List OutU := allUnits.filter (fun u => decide ((upage u).1 = p))

/-- The command of a unit takes effect: at a tick, or at an enable of its page. A pattern in force governs instead, a die whose
link is lost hears of no command (R19), and a group's master commands for its other members (R209, R289, R305, R376). -/
def State.applyUnit (s : State) (u : OutU) (t : Nat) : State :=
  if (s.out u).fs || !s.flag (fOkBit (udie u)) || decide (s.master u ≠ u) then s else match u with
  | .vd n => s.applyValve n t
  | .hb n => s.applyBridge n t
  | .bank b => s.applyBank b t
  | .lf _ => s
  | v => s.applyCmd v t

/-- Whether a unit's stop is in progress; a sink's shows beside its state (R329, R330). -/
def State.unitStops (s : State) (u : OutU) : Bool :=
  match s.phase u with
  | .stopping | .revbrk | .parking => true
  | _ => (s.out u).stopping

/-- Whether the stop of a page is still in progress (R57, R287, R310, R330, R415, R474, R517, R640). -/
def State.pageStops (s : State) (p : Nat) : Bool :=
  if p = 0x05 then s.boot.nv.isSome
  else if p = 0x07 then s.book.flush.isSome
  else if p = 0x0D then s.vault.cmd.isSome
  else if p = 0x0E then decide (s.get ACC.STATE ≠ 0)
  else if 0x30 ≤ p ∧ p ≤ 0x37 then decide (s.get (CAN.STATE (p - 0x30)) = 6)
  else if p = 0x21 then s.scan.scanning
  else if p = 0x40 then (List.range 6).any s.portBusy
  else if 0x41 ≤ p ∧ p ≤ 0x46 then s.portBusy (p - 0x41)
  else (pageOutputs p).any s.unitStops

/-- The ring leaves its lap. -/
def State.ringStop (s : State) : State :=
  ((((s.disarm .lap).disarm .lapDelay).disarm .commitTo).disarm .resend).put NMB.STATE 0

/-- What `CTRL.EN` = 0 does to the units of a page (R45, R57). -/
def State.pageStop (s : State) (p t : Nat) : State :=
  if p = 0x24 ∨ p = 0x25 then s.dinStop (p - 0x24)
  else if 0x28 ≤ p ∧ p ≤ 0x2B then s.tmrStat (p - 0x28)
  else if 0x30 ≤ p ∧ p ≤ 0x37 then s.canStop (p - 0x30) t
  else if p = 0x39 then (List.range 8).foldl (fun s x => s.nmEnable x t) s
  else if p = 0x3A then s.ringStop.agreeCheck t
  else if p = 0x40 then (List.range 6).foldl (fun s q => s.portStop q t) s
  else if 0x41 ≤ p ∧ p ≤ 0x46 then s.portStop (p - 0x41) t
  else if p = 0x48 then (if s.flag TSY.LOCK then s.gmLoss else s).disarm .gptp
  else if p = 0x49 then ((List.range 6).foldl (fun s q => s.creditTo q t) (s.put (Hdr.EN p) 1)).put (Hdr.EN p) 0
  else (pageOutputs p).foldl (fun s u => s.applyUnit u t) s

/-- What the start of a page does (R45, R366, R414, R449, R604). -/
def State.pageStart (s : State) (p t : Nat) : State :=
  let s := s.clrFlag (CLK.GATED (p / 32)) (p % 32)
  if p = 0x24 ∨ p = 0x25 then s.dinEnable (p - 0x24) t
  else if 0x28 ≤ p ∧ p ≤ 0x2B then
    ((List.range 8).foldl (fun s j => s.setTch (8 * (p - 0x28) + j) (fun c => { c with cap := false })) s).tmrStat (p - 0x28)
  else if 0x30 ≤ p ∧ p ≤ 0x37 then s.canStart (p - 0x30)
  else if p = 0x39 then (List.range 8).foldl (fun s x => s.nmEnable x t) s
  else if p = 0x49 then ((List.range 6).foldl (fun s q => s.creditTo q t) (s.put (Hdr.EN p) 0)).put (Hdr.EN p) 1
  else s

/-- Fields that show what a page reset leaves as it is: measurements, links, counts since power-on, and what the power dies
hold of their units. -/
def liveFields (p : Nat) : List Fld :=
  if p = 0x03 then [⟨3, 0x120, 0, 32⟩, SUP.UVLOA, SUP.UVLOB, SUP.GNDLOSS, SUP.REVERSE]
  else if p = 0x05 then [NVC.BUSY]
  else if p = 0x06 then [FCR.SAFE]
  else if p = 0x07 then [REC.BUSY, REC.HELD]
  else if p = 0x08 then [AGE.VREQ, AGE.MINUTES, AGE.RPCNT]
  else if p = 0x0E then [ACC.FAILS, ACC.LOCKED, ACC.LOCOUNT]
  else if p = 0x50 then [⟨0x50, 0x100, 0, 32⟩, DBG.HALTBOOT, DBG.HALTCNT]
  else if p = 0x51 then [LNK.PDAOK, LNK.PDBOK, LNK.PDAFS, LNK.PDBFS]
  else if 0x41 ≤ p ∧ p ≤ 0x46 then [PT.UP (p - 0x41)]
  else (pageOutputs p).flatMap (fun u => [fState u, fLatch u, fLim u, fRem u, fFsact u]
    ++ (match u with | .hb n => [HB.DIR n] | _ => []))

/-- The registers of pages that satisfy `f` return to their reset values, those of the image included, but for `keep`. -/
def State.restoreRegs (s : State) (f : Nat → Bool) (keep : List Fld) : State :=
  let old := s
  let out := fun (e : Nat × Word) => !f (e.1 / 0x1000)
  let s := { s with
    regs := s.regs.filter out, shadow := s.shadow.filter out, cfgAct := s.cfgAct.filter out,
    lockFirst := s.lockFirst.filter (fun e => !f e.1) }
  let s := (s.img.filter (fun e => f (e.1 / 0x1000))).foldl (fun s e => s.wr (e.1 / 0x1000) (e.1 % 0x1000) e.2) s
  keep.foldl (fun s x => s.put x (old.get x)) s

/-- The page that a timer of the control die belongs to; none for timers of the power dies, of the KEEP domain and of the
device level, which no reset of a page or cluster stops (R14, R16, R18). -/
def Timer.page : Timer → Option Nat
  | .lock p => some p
  | .grace _ => some 0x06
  | .permit => some 0x0E
  | .release _ | .learn | .recover => some 0x0C
  | .lateMax _ => some 0x17
  | .msync => some 0x21
  | .inputInit k => some (0x24 + k)
  | .canStop x => some (0x30 + x)
  | .nmRepeat _ | .nmTimeout _ | .nmWait _ | .nmKeep _ => some 0x39
  | .lap | .lapDelay | .commitTo | .resend => some 0x3A
  | .gptp => some 0x48
  | .frerReset _ => some 0x4A
  | .lfEnd => some 0x0F
  | _ => none

/-- What lies behind the registers of a page returns to its reset state, and its timers stop; a power unit keeps what its die
holds. -/
def State.clearHidden (s : State) (p : Nat) : State :=
  let s := { s with timers := s.timers.filter (fun e => decide (e.1.page ≠ some p)) }
  if p = 0x03 then { s with sup := State.reset.sup }
  else if p = 0x06 then { s with fcr := { s.fcr with events := [], log := [], ending := s.fcr.holds } }
  else if p = 0x0A then s.bqReset
  else if p = 0x0C then { s with msh := { mshReset with vbat := s.msh.vbat, vprev := s.msh.vprev } }
  else if p = 0x0D then { s with vault := { s.vault with cmd := none } }
  else if p = 0x0E then { s with acc := { accReset with fails := s.acc.fails, locks := s.acc.locks, lockEnd := s.acc.lockEnd } }
  else if p = 0x20 ∨ p = 0x22 then { s with cal := State.reset.cal }
  else if p = 0x21 then { s with scan := scanReset, seq := seqReset }
  else if p = 0x17 then
    let s := { s with strobes := [] }
    { s with msh := { s.msh with late := [] } }
  else if p = 0x1D ∨ p = 0x1E then
    (List.range 6).foldl (fun s k => s.setBridge (6 * (p - 0x1D) + k) (fun b => { b with seqSeen := 0 })) s
  else if p = 0x24 ∨ p = 0x25 then
    (List.range 32).foldl (fun s k =>
      let n := 32 * (p - 0x24) + k
      let mv := (s.din n).mv
      let pin := s.comparator n mv (s.din n).pin
      (s.setDin n (fun _ => { dinInit with mv := mv, pin := pin, sample := pin })).put (DIN.CHSTAT_RAW n) (b2n (s.rawOf n pin))) s
  else if 0x28 ≤ p ∧ p ≤ 0x2B then
    (List.range 8).foldl (fun s j => s.setTch (8 * (p - 0x28) + j) (fun _ => tchInit)) (s.setTmr (p - 0x28) (fun _ => tmrInit))
  else if p = 0x2C then { s with stg := State.reset.stg }
  else if 0x30 ≤ p ∧ p ≤ 0x37 then s.setCan (p - 0x30) (fun c => { canInit with history := c.history, bos := c.bos })
  else if p = 0x38 then (List.range 8).foldl (fun s x => s.setCan x (fun c => { c with history := [], bos := 0 })) s
  else if p = 0x39 then s.nmsKeep
  else if p = 0x3A then { s with ring := State.reset.ring }
  else if p = 0x40 then
    { s with sw := { s.sw with macs := [], mbLast := 0, mbEntries := 0, mbDrops := 0 }, phyLines := s.phyLines }.phyAssert (s.get SWC.PHYRST)
  else if 0x41 ≤ p ∧ p ≤ 0x46 then s.setPort (p - 0x41) (fun _ => portInit)
  else if p = 0x48 then { s with sw := { s.sw with tsy := swReset.tsy } }
  else if p = 0x49 then { s with sw := { s.sw with gcl := [], tas := [] } }
  else if p = 0x4A then { s with sw := { s.sw with sfl := [] } }.loadStream
  else s

/-- A unit at the end of its page's reset: OFF without latch, a bank switch at once (R58, R287). One under a pattern stays
with it. -/
def State.unitReset (s : State) (u : OutU) (t : Nat) : State :=
  if (s.out u).fs || decide (s.phase u = .column) then s
  else
    let s := match u with
      | .bank b => s.disarm (.bankOff b)
      | .vd n => s.setValve n (fun _ => valveInit)
      | .hb n => (s.put (HB.DIR n) 0).setBridge n (fun _ => bridgeInit)
      | _ => s
    (((((s.quiet u).endLimit u).putPhase u .off).put (fLatch u) 0).yieldClose 5 2 (latchKey u) |>.reloadRetry u).setOut u
      (fun o => { outInit with revOn := o.revOn, drating := o.drating, since := t })

/-- The end of a page's soft reset (R58): registers restored, `SRST` clear, and the page enabled if its `EN` resets to 1. -/
def State.pageClear (s : State) (p t : Nat) : State :=
  let s := (s.restoreRegs (fun q => decide (q = p)) (liveFields p)).clearHidden p
  let s := (pageOutputs p).foldl (fun s u => s.unitReset u t) s
  let s := { s with resetWait := s.resetWait.filter (fun q => decide (q ≠ p)) }
  let s := if 0x40 ≤ p ∧ p ≤ 0x46 then s.swFree else s
  if s.flag (Hdr.EN p) then s.pageStart p t else s

/-- The stop of a page is complete: a soft reset that waited goes on, else a pending enable starts the page (R57, R58). -/
def State.pageStopped (s : State) (p t : Nat) : State :=
  let s := s.put (Hdr.STOPPING p) 0
  if p ∈ s.resetWait then s.pageClear p t
  else if s.flag (Hdr.PENDEN p) then ((s.put (Hdr.PENDEN p) 0).put (Hdr.EN p) 1).pageStart p t
  else s

/-- A write of `CTRL.EN` that is not refused (R57). -/
def State.pageEnable (s : State) (p : Nat) (v : Bool) (t : Nat) : State :=
  if v then
    if s.flag (Hdr.EN p) then s
    else if s.flag (Hdr.STOPPING p) then s.put (Hdr.PENDEN p) 1
    else (s.put (Hdr.EN p) 1).pageStart p t
  else
    let s := s.put (Hdr.PENDEN p) 0
    if ¬ s.flag (Hdr.EN p) then s
    else
      let s := (s.put (Hdr.EN p) 0).pageStop p t
      if s.pageStops p then s.put (Hdr.STOPPING p) 1 else s

/-- A write of 1 to `CTRL.SRST` (R58): a stop in progress is awaited, a pending enable cancelled, every unit stopped; valve
channels decay fast (R287). -/
def State.pageReset (s : State) (p t : Nat) : State :=
  let s := (s.put (Hdr.PENDEN p) 0).put (Hdr.SRST p) 1
  let s := { s with resetWait := p :: s.resetWait.filter (fun q => decide (q ≠ p)) }
  let s := if s.flag (Hdr.EN p) && !runsAlways p then (s.put (Hdr.EN p) 0).pageStop p t else s
  let s := if 0x18 ≤ p ∧ p ≤ 0x1B then (List.range 4).foldl (fun s k =>
      let n := 4 * (p - 0x18) + k
      if (s.out (.vd n)).fs then s else (s.disarm (.slow n)).fastDecay (.vd n)) s else s
  if s.pageStops p then s.put (Hdr.STOPPING p) 1 else s.pageStopped p t

/-- The pages of a cluster (R13). -/
def clusterPages (c : Cluster) : List Nat := (List.range 0x52).filter (fun p => pagePresent p && decide (clusterOf p = c))

/-- A reset of a cluster (R14, R18, R543, R545): POWER puts both dies under their patterns, SAFE spares FCR. A reset of
CORE or of the device level is a device reset and the caller's. The spec gives a cluster reset no duration: it begins and ends
at its instant, so no access finds a cluster in reset (log entry 58). -/
def State.clusterReset (s : State) (c : Cluster) (t : Nat) : State :=
  let ps := (clusterPages c).filter (fun p => decide (p ≠ 0x06))
  let s := if c = .power then (List.range 2).foldl (fun s d => s.dieFailsafe d t (fun x => { x with clus := true })) s else s
  let s := if c = .net then (((if s.flag TSY.LOCK then s.gmLoss else s).ringStop).disarm .gptp) else s
  let s := s.restoreRegs (fun q => ps.contains q) (ps.flatMap liveFields)
  let s := ps.foldl (fun s p => s.clearHidden p) s
  let s := { s with resetWait := s.resetWait.filter (fun q => !ps.contains q) }
  let s := if c = .net then s.swFree else s
  ps.foldl (fun s p => if s.flag (Hdr.EN p) then s.pageStart p t else s) s

/-- UNIT_STOP_COMPLETE: the stop of page `p` ends at `t` (R57, R58, R415, R474). A controller's bus is idle, a port's frame
has left, or the unit has stopped. -/
def execUnitStopComplete (t p : Nat) (s : State) : Host.Outcome State Fault Refusal :=
  .next (
    let s := s.reach t
    if !s.flag (Hdr.STOPPING p) && !s.resetWait.contains p then s
    else
      let s := if 0x30 ≤ p ∧ p ≤ 0x37 then (if s.get (CAN.STATE (p - 0x30)) = 6 then s.canStopped (p - 0x30) else s)
        else if p = 0x0E ∧ s.flag (Hdr.STOPPING p) then s.accStopped t
        else if p = 0x40 then (List.range 6).foldl (fun s q => s.portSettle q t) s
        else if 0x41 ≤ p ∧ p ≤ 0x46 then s.portSettle (p - 0x41) t
        else if p = 0x21 ∧ s.scan.scanning ∧ ¬ s.slotLasts t then s.scanEnd (s.scanBusy t) else s
      if s.pageStops p then s
      else if s.resetWait.contains p then s.pageClear p t
      else if s.flag (Hdr.STOPPING p) then s.pageStopped p t
      else s)

end Sys2Proof.Machine
end

