-- ==== Sys2Proof/Machine/Reset.lean ====
section
/-! DEFINITION. Device resets: causes, scope, and the programs of NV that delay them (R16, R35, R634 to R639). -/
namespace Sys2Proof.Machine

/-- Causes of a reset (R634). -/
def causeVpor : Nat := 1
/-- Low-voltage rails return. -/
def causeRpor : Nat := 2
/-- Wake from PARK. -/
def causeWake : Nat := 3
/-- Hurdle H5. -/
def causeFcr : Nat := 4
/-- End of the clock wait. -/
def causeClk : Nat := 5
/-- Retention failure of a TCM. -/
def causeRetfail : Nat := 6
/-- DOZE exit request failed. -/
def causeReg : Nat := 7
/-- Soft reset of STR or PAC. -/
def causeSoft : Nat := 8
/-- Debug reset. -/
def causeDebug : Nat := 9
/-- Lifecycle change. -/
def causeLcs : Nat := 10

/-- Registers of the KEEP domain (R16, R565, R606, R633, R681) and the lock-out state (R528). -/
def keepFields : List Fld :=
  [CLK.LPSRC, CLK.LPACT, PWR.STAT_COOLTO, ⟨2, 0x140, 0, 32⟩, ⟨2, 0x144, 0, 32⟩, ⟨2, 0x148, 0, 32⟩, ⟨2, 0x150, 0, 32⟩,
    ⟨2, 0x154, 0, 32⟩, ⟨2, 0x158, 0, 32⟩, ⟨3, 0x120, 0, 32⟩, AGE.VREQ, AGE.MINUTES, AGE.RPCNT, ACC.LOCKED, ACC.LOCOUNT]

/-- Registers that every reset but a power-on leaves (R609, R623, R538, R650, R653, R654). -/
def warmFields : List Fld :=
  [CLK.TRIES, PWR.LATCHED, ACC.FAILS, DBG.ATTACHED, DBG.HALTBOOT, DBG.HALTCNT, BOOT.RSTCNT]

/-- The yield registers (R34, R35). -/
def yieldFields : List Fld := (List.range 12).map (fun i => ⟨0, 0x100 + 4 * i, 0, 32⟩)

/-- What the power dies hold and a reset of the control die does not reach (R18, R40, R635). -/
def dieFields : List Fld :=
  [LNK.PDAFS, LNK.PDBFS] ++ (List.range 12).map (fun n => HB.DIR n) ++ allUnits.flatMap (fun u => [fState u, fRem u, fPend u, fLatch u, fLim u, fTj u, fFsact u])

/-- Timers that run on the power dies or in the KEEP domain. -/
def Timer.outlives : Timer → Bool
  | .inrush _ | .retry _ | .defer _ | .reload _ | .demag _ | .peak _ | .ramp _ | .slow _ | .bankOff _ | .revbrk _ | .park _
  | .parkBrake _ | .fsHeat _ | .watchdog _ | .falseStart _ | .maskHold _ | .lockout | .wake | .lpxoRetry => true
  | _ => false

/-- Timers of the KEEP domain alone. -/
def Timer.keeps : Timer → Bool
  | .falseStart _ | .maskHold _ | .lockout | .wake | .lpxoRetry => true
  | _ => false

/-- The configuration that the power dies hold, pages 0x10 to 0x26, as a table over factory reset values. -/
def State.dieConfig (s : State) : Sparse Word :=
  let keys := ((s.img.map (·.1)) ++ (s.cfgAct.map (·.1))).filter (fun k => decide (0x10000 ≤ k) && decide (k < 0x27000))
  keys.foldl (fun m k =>
    let p := k / 0x1000
    let o := k % 0x1000
    store (resetWord p o) k (look (look (resetWord p o) s.img k) s.cfgAct k) m) []

/-- A sector of which a program was left incomplete: nothing says what it holds (R636). -/
def State.breakSector (s : State) (a : Nat) : State :=
  { s with fresh := s.fresh + 4096 }.setBytes a ((List.range 4096).map (fun i => BitVec.ofNat 8 (Config.freeValue (s.fresh + i))))

/-- Programs of NV that a loss of power leaves incomplete (R636). -/
def State.breakNv (s : State) : State :=
  let s := match s.boot.nv with
    | some (a, _) => s.breakSector a
    | none => s
  match s.book.flush with
  | some f => s.breakSector (archSector f.target)
  | none => s

/-- A unit of a die that starts from its own power-on. -/
def State.unitsOff (s : State) (t : Nat) : State := (s.dieOff 0 t).dieOff 1 t

/-- What a device reset of a cause leaves of a state before KEEP and warm registers are put back (R16 to R18, R40, R634, R635). -/
def State.afterReset (s : State) (cause t : Nat) : State :=
  let kept := fun (c : Host.Cell) => decide (0x10000000 ≤ c.1)
    || (decide (causeFcr ≤ cause) && decide (recBase ≤ c.1) && decide (c.1 < recBase + 0x80000))
  let power := decide (cause ≤ causeRpor)
  let v := decide (cause = causeVpor)
  let r := State.reset
  { r with
    pending := s.pending, now := max s.now t, splitZero := s.splitZero, fresh := s.fresh, mem := s.mem.filter kept,
    timers := s.timers.filter (fun e => if v then false else e.1.outlives),
    episodes := if v then [] else s.episodes.filter (fun e => decide (e.2.1 ≠ 3)),
    cfgAct := if v then [] else s.dieConfig,
    outs := if v then [] else s.outs, valves := if v then [] else s.valves,
    bridges := if v then [] else s.bridges.map (fun (e : Nat × BridgeSt) => (e.1, { e.2 with seqSeen := 0 })),
    dies := if v then [] else s.dies, dins := (s.dins.map (fun (e : Nat × DinSt) => (e.1, { dinInit with mv := e.2.mv, pin := e.2.pin, sample := e.2.pin }))).filter
      (fun (e : Nat × DinSt) => decide (e.2 ≠ dinInit)),
    age := if v then [] else s.age, reverseAt := s.reverseAt,
    pwr := { pwrReset with
      pg := s.pwr.pg, regen := s.pwr.regen, qto := s.pwr.qto && !v, wakes := if v then 0 else s.pwr.wakes,
      crcs := if v then [] else s.pwr.crcs },
    nms := if v then [] else s.nmsKeep.nms,
    vault := { s.vault with cmd := none },
    acc := if v then accReset else { accReset with fails := s.acc.fails, locks := s.acc.locks, lockEnd := s.acc.lockEnd },
    book := if causeFcr ≤ cause then { s.book with flush := none, held := none } else r.book,
    ageing := if v then r.ageing else { s.ageing with pend := [] },
    tap := if power then r.tap else s.tap,
    boot := { r.boot with phase := .held, field := s.boot.field, svmin := s.boot.svmin, w0 := t } }

/-- A device reset is asserted at `t` with its cause and, for Hurdle H5, the source (R634, R635, R637). -/
def State.assertReset (s : State) (cause src t : Nat) : State :=
  let ph := s.boot.phase
  let nested := decide (ph ≠ .done) && decide (ph ≠ .recovery) && decide (ph ≠ .held) && decide (cause ≠ causeVpor)
  let s := if causeFcr ≤ cause ∧ s.flag (Hdr.EN 0x40) then s.yieldOnce 3 8 0 t else s
  let s := if causeWake ≤ cause then
      (List.range 2).foldl (fun s d => s.dieFailsafe d t (fun x => { x with reset := true, safe := false, clus := false, replay := false })) s
    else if cause = causeVpor then (s.unitsOff t).breakNv else s.breakNv
  let old := s
  let power := decide (cause ≤ causeRpor)
  let v := decide (cause = causeVpor)
  let s := s.afterReset cause t
  let s := (if v then [] else keepFields ++ dieFields).foldl (fun s x => s.put x (old.get x)) s
  let s := (if power then [] else warmFields).foldl (fun s x => s.put x (old.get x)) s
  let s := (if causeFcr ≤ cause then yieldFields else []).foldl (fun s x => s.put x (old.get x)) s
  let s := ((s.put BOOT.CAUSE cause).put BOOT.NESTED (b2n nested)).put BOOT.SRC (if cause = causeFcr then src else 0)
  if power then s else s.count BOOT.RSTCNT

/-- Whether a program of an NV sector is in progress (R636). -/
def State.nvBusy (s : State) : Bool := s.boot.nv.isSome || s.book.flush.isSome || s.vault.cmd.isSome

/-- A cause arises: the reset is asserted, or waits for a program of NV to end (R634, R636). Causes 4 to 10 are released
2 µs later. -/
def State.deviceReset (s : State) (cause src t : Nat) : State :=
  if causeRpor < cause ∧ s.nvBusy then { s with boot := { s.boot with want := some (s.boot.want.getD (cause, src)) } }
  else
    let s := s.assertReset cause src t
    if causeFcr ≤ cause then s.arm .resetHold (t + us 2) else s

/-- The end of the last program of NV lets a reset that waited for it go ahead (R636). -/
def State.resetAwaited (s : State) (t : Nat) : State :=
  match s.boot.want with
  | none => s
  | some (cause, src) => if s.nvBusy then s else
    let s := s.assertReset cause src t
    if causeFcr ≤ cause then s.arm .resetHold (t + us 2) else s

/-- The release of the reset is the instant w0, and the first tick after it flushes the Record book (R580, R634, R655; DEDUCED, log
entry 94). -/
def State.releaseReset (s : State) (t : Nat) : State :=
  let s := { s with boot := { s.boot with phase := .rom, w0 := t } }
  { s with book := { s.book with resetDue := true } }

/-! Commands. -/

/-- DEVICE_RESET_RELEASE: a reset of causes 4 to 10 has been held for 2 µs (R634). -/
def execDeviceResetRelease (s : State) : Host.Outcome State Fault Refusal :=
  .next (s.onExpiry .resetHold (fun t s => s.releaseReset t))

/-- POWER_ON_RESET: the rails have stayed above their thresholds for 100 µs and VBAT lies above 3.5 V (R634, R670, R671);
`vbat` tells whether VBAT itself had been away. -/
def execPowerOnReset (t : Nat) (vbat : Bool) (s : State) : Host.Outcome State Fault Refusal :=
  .next (
    let s := s.reach t
    let c := if vbat then causeVpor else causeRpor
    (if s.boot.phase = .held ∧ s.get BOOT.CAUSE = c then s else s.assertReset c 0 t).releaseReset t)

/-- RAIL_LOSS: a rail falls below its power-on threshold outside PARK; the reset is asserted until the rails return (R671). -/
def execRailLoss (t : Nat) (s : State) : Host.Outcome State Fault Refusal :=
  .next (
    let s := s.reach t
    if s.pwr.state = .park ∨ s.pwr.state = .waking then s else s.assertReset causeRpor 0 t)

/-- VBAT_LOSS: VBAT falls below 3.0 V: the KEEP domain is reset, the pattern latches clear, and every output is off
(R16, R664, R665). -/
def execVbatLoss (t : Nat) (s : State) : Host.Outcome State Fault Refusal :=
  .next ((s.reach t).assertReset causeVpor 0 t)

/-- NV_PROGRAM_COMPLETE: a sector program ends with its read-back, which matched or not (R636, R639). -/
def execNvProgramComplete (t : Nat) (ok : Bool) (s : State) : Host.Outcome State Fault Refusal :=
  .next (
    let s := s.reach t
    match s.boot.nv with
    | none => s
    | some (a, bs) =>
      let s := ({ s with boot := { s.boot with nv := none } }.put NVC.BUSY 0)
      let s := if ok then ((s.setBytes a bs).put NVC.ERR 0).evt 0x05 0
        else ((((s.breakSector a).put NVC.ERR 1).evt 0x05 0).evt 0x05 1).detect 0x14 0
      s.resetAwaited t)

/-- ARCHIVE_SECTOR_WRITTEN: a sector's program ends, well or not (R581 to R583, R636). -/
def execArchiveSectorWritten (t : Nat) (ok : Bool) (s : State) : Host.Outcome State Fault Refusal :=
  .next (
    let s := s.reach t
    match s.book.flush with
    | none => s
    | some f =>
      (if ok then s.flushWrote f t
      else if f.retried then s.flushAbandon t
      else s.flushNext { f with retried := true } t).resetAwaited t)

/-- VAULT_CMD_COMPLETE: the command ends, its NV write good or not (R532, R533, R636). -/
def execVaultCmdComplete (t : Nat) (nvOk : Bool) (s : State) : Host.Outcome State Fault Refusal :=
  .next (
    let s := s.reach t
    match s.vault.cmd with
    | none => s
    | some c =>
      let st := if c.status ≠ 0 then c.status else if nvOk then 0 else 4
      let s := s.setVault (fun v => { (if st = 0 then v.carry c else v) with cmd := none })
      (((s.put VLT.BUSY 0).put VLT.STATUS st).evt 0x0D 0).resetAwaited t)

end Sys2Proof.Machine
end

