-- ==== Sys2Proof/Machine/Fcr.lean ====
section
/-! DEFINITION. Fault collection and reaction: sources, Hurdles, holds, shadow windows, clears and ERR_N (R540 to R560). -/
namespace Sys2Proof.Machine

/-- The page whose table owns source `i` (R540, R541). -/
def srcPage (i : Nat) : Nat :=
  if i < 0x05 then 0x01 else if i < 0x09 then 0x02 else if i < 0x11 then 0x03 else if i < 0x13 then 0x04
  else if i < 0x15 then 0x05 else if i < 0x18 then 0x51 else if i = 0x18 then 0x00 else if i < 0x1B then 0x09
  else if i < 0x1E then 0x0B else if i = 0x1E then 0x0A else if i = 0x1F then 0x06 else if i < 0x22 then 0x07
  else if i < 0x25 then 0x08 else if i = 0x25 then 0x0D else if i < 0x28 then 0x0E else if i = 0x28 then 0x0F
  else if i < 0x2C then 0x0C else if i < 0x64 then 0x10 + (i - 0x2C) / 8 else if i < 0x84 then 0x18 + (i - 0x64) / 8
  else if i < 0x92 then 0x1D + (i - 0x84) / 7 else if i < 0x96 then 0x20 else if i < 0x9A then 0x21
  else if i = 0x9A then 0x22 else if i < 0x9F then 0x26 else if i < 0xC7 then 0x30 + (i - 0x9F) / 5
  else if i = 0xC7 then 0x38 else if i = 0xC8 then 0x39 else if i < 0xCB then 0x3A else if i < 0xD1 then 0x40
  else if i = 0xD1 then 0x48 else 0x4A

/-- The page of the unit that H2 holds off; none where the source's page has no units (R545). A port stands under its
own page (DEDUCED, log entry 34). -/
def holdPage (src unit : Nat) : Option Nat :=
  if 0xCB ≤ src ∧ src ≤ 0xD0 then (if unit < 6 then some (0x41 + unit) else none)
  else if pageUnits (srcPage src) = 0 then none else some (srcPage src)

/-- The Hurdle carried out for a selected one (R545). -/
def effHurdle (src unit h : Nat) : Nat :=
  if h = 2 ∧ (holdPage src unit).isNone then 1
  else if h = 3 ∧ (clusterOf (srcPage src) = .device ∨ clusterOf (srcPage src) = .core) then 5
  else h

/-- A number for each level of R13. -/
def clusterCode : Cluster → Nat
  | .device => 0 | .core => 1 | .net => 2 | .power => 3 | .sense => 4 | .safe => 5

/-- The current class of a source (R542). -/
def State.cls (s : State) (i : Nat) : Nat := s.get (FCR.SRC_CLASS i)

/-- Whether some source of class `c` or above is raised. -/
def State.raisedFrom (s : State) (c : Nat) : Bool :=
  (List.range 0xD4).any (fun i => s.flag (FCR.RAISED i) && decide (c ≤ s.cls i))

/-- Whether ERR_N is driven high (R556, R601, R623). -/
def State.errN (s : State) : Bool :=
  s.flag BOOT.WUDONE && !s.raisedFrom 1 && !s.flag CLK.FAILWAIT && !s.flag PWR.LATCHED
    && decide (s.pwr.state ≠ .park) && decide (s.pwr.state ≠ .waking)

/-- Sources raised and not acknowledged. -/
def State.unacked (s : State) : Nat :=
  (List.range 0xD4).countP (fun i => s.flag (FCR.RAISED i) && !s.flag (FCR.ACKED i))

/-- Sources of class C1 or higher that are raised. -/
def State.uncleared (s : State) : Nat :=
  (List.range 0xD4).countP (fun i => s.flag (FCR.RAISED i) && decide (1 ≤ s.cls i))

/-- Updates fault collection. -/
def State.setFcr (s : State) (f : FcrSt → FcrSt) : State := { s with fcr := f s.fcr }

/-- A log entry, with its effect on the depth of 32 (R560). -/
def State.fcrLog (s : State) (src unit h cls flags t : Nat) : State :=
  let e : FcrLog := { src := src, unit := unit, hurdle := h, cls := cls, flags := flags, lap := s.lap, split := s.splitAt t % 2 ^ 32 }
  let s := if s.fcr.log.length = 32 then s.evt 0x06 4 else s
  (s.setFcr (fun r => { r with log := (e :: r.log).take 32 })).count FCR.LOGCNT

/-! Shadow windows (R553, R554). -/

/-- Whether unit `v` of page `p` is the unit `u` or in one group with it. -/
def State.sameGroup (s : State) (p u v : Nat) : Bool :=
  decide (u = v) || (pageOutputs p).any (fun x => decide ((upage x).2 = u) && (s.members x).any (fun y => decide (upage y = (p, v))))

/-- Whether the hold of unit `u` of page `p` covers a detection (R553). -/
def State.holdCovers (s : State) (p u src unit : Nat) : Bool :=
  let own :=
    if 0x18 ≤ p ∧ p ≤ 0x1B then decide (srcPage src = p)
    else if 0x30 ≤ p ∧ p ≤ 0x37 then decide (srcPage src = p) || ((decide (src = 0xC7) || decide (src = 0xC8)) && decide (unit = u))
    else if 0x41 ≤ p ∧ p ≤ 0x46 then
      (decide (0xCB ≤ src) && decide (src ≤ 0xD0) && decide (unit = u)) || decide (src = 0xD3) || decide (src = 0xD1)
    else decide (srcPage src = p) && s.sameGroup p u unit
  own || (List.range 16).any (fun k =>
    decide (s.get (FCR.TPAGE k) ≠ 0) && decide (s.get (FCR.TPAGE k) = p) && decide (s.get (FCR.TUNIT k) = u)
      && decide (s.get (FCR.DSRC k) = src) && (decide (s.get (FCR.DUNIT k) = 0xFF) || decide (s.get (FCR.DUNIT k) = unit)))

/-- Whether a window is open at `t`. -/
def State.winOpen (s : State) (w : ShadowWin) (t : Nat) : Bool := decide (w.opened ≤ t) && decide (t < w.opened + us 100 * s.get FCR.TIME)

/-- Whether a detection at `t` is consequential (R553, R554). -/
def State.inShadow (s : State) (src unit t : Nat) : Bool :=
  s.fcr.shadows.any (fun w => s.winOpen w t &&
    match w.cluster with
    | some c => decide (clusterCode (clusterOf (srcPage src)) = c) || (decide (c = 3) && decide (srcPage src = 0x51))
    | none => s.holdCovers w.page w.unit src unit)

/-! Hurdles (R543 to R546). -/

/-- The unit stops in the ordinary way of its block; a bank with its channels (R546). -/
def State.holdStop (s : State) (p u t : Nat) : State :=
  if 0x30 ≤ p ∧ p ≤ 0x37 then s.canStop u t
  else if 0x41 ≤ p ∧ p ≤ 0x46 then s.portStop u t
  else if p = 0x39 then s.nmEnable u t
  else
    let bank := decide (0x18 ≤ p) && decide (p ≤ 0x1B) && decide (u = 4)
    ((pageOutputs p).filter (fun x => decide ((upage x).2 = u) || bank)).foldl
      (fun s x => (s.members x).foldl (fun s y => s.applyUnit y t) s) s

/-- Whether a hold on a unit or on a partner of its group stays in force: one that has been lifted no longer counts (R546, R547,
R552). -/
def State.holdStands (s : State) (p u : Nat) : Bool :=
  s.fcr.holds.any (fun h => decide (h.2.1 = p) && s.sameGroup p h.2.2 u && !s.fcr.ending.contains h)

/-- H2 (R546): the hold is registered and the unit's stop begins. -/
def State.fcrHold (s : State) (src p u t : Nat) : State :=
  let h := (src, p, u)
  let s := s.setFcr (fun r => { r with
    holds := if h ∈ r.holds then r.holds else r.holds ++ [h], ending := r.ending.filter (fun e => decide (e ≠ h)) })
  (s.put (FCR.HELD src) 1).holdStop p u (t + us 20)

/-- Whether a stress outside the ratings is in progress (R33, R662). -/
def State.outsideRatings (s : State) : Bool := decide ((1, 0x0A, 0) ∈ s.episodes) || decide ((1, 0x0A, 1) ∈ s.episodes)

/-- Whether the fail-safe command reaches a die: it answers and its supply and ground stand (R665, R669, R694). -/
def State.dieHears (s : State) (d : Nat) : Bool := s.flag (fOkBit d) && !(s.die d).lockout && !(s.die d).gnd

/-- H4: safe state (R543, R557, R558). Where the ratings are exceeded and a die does not hear of it, the entry is incomplete: a G2
yield with cause 0x0B (R33, log entry 59). -/
def State.enterSafe (s : State) (t : Nat) : State :=
  let s := (((s.put FCR.SAFE 1).evt 0x06 2).yieldOpen 5 3 0 0 t)
  let s := if s.outsideRatings && !(s.dieHears 0 && s.dieHears 1) then s.yieldOnce 2 0x0B 0 t else s
  let s := { s with pac := { s.pac with safePend := true }, stride := { s.stride with safeRel := false } }
  (List.range 2).foldl (fun s d => s.dieFailsafe d t (fun x => { x with safe := true })) s

/-- FCR takes a Hurdle for one event (R543, R545, R552, R558). The record, the log and the status follow the raise at
once; the hold, the cluster reset and safe state 20 µs later, a device reset 50 µs later. -/
def State.fcrTake (s : State) (src unit h cls flags t : Nat) : State :=
  let e := effHurdle src unit h
  let upper := decide (2 ≤ e) && decide (e ≤ 4)
  let hold := match holdPage src unit with
    | some p => if upper && !s.holdStands p unit then some p else none
    | none => none
  let safe := decide (e = 4) && !s.flag FCR.SAFE
  let inForce := upper && hold.isNone && !decide (e = 3) && !safe
  let flags := if inForce then setBit flags 5 else flags
  let s := (s.fcrLog src unit e cls flags t).recEvent (0x400 + src) t unit e
  let s := s.put (FCR.SSTAT_HURDLE src) (max (s.get (FCR.SSTAT_HURDLE src)) e)
  let s := if 1 ≤ e ∧ ¬ (inForce ∧ cls = 0) then s.evt 0x06 0 else s
  let s := match hold with
    | some p =>
      (s.setFcr (fun r => { r with shadows := r.shadows ++ [{ opened := t, page := p, unit := unit, cluster := none }] })).fcrHold src p unit t
    | none => s
  let c := clusterOf (srcPage src)
  let s := if e = 3 then
      (s.setFcr (fun r => { r with
        shadows := r.shadows ++ [{ opened := t, page := srcPage src, unit := unit, cluster := some (clusterCode c) }] })).clusterReset c (t + us 20) |>.resetAwaited (t + us 20)
    else s
  let s := if safe then s.enterSafe (t + us 20) else s
  if e = 5 then s.deviceReset causeFcr src (t + us 50) else s

/-- The status of a source at a raise: the unit is that of its first event. -/
def State.fcrStatus (s : State) (src unit cls : Nat) : State :=
  let s := if s.get (FCR.COUNT src) = 0 then s.put (FCR.SSTAT_UNIT src) unit else s
  let s := ((s.put (FCR.RAISED src) 1).put (FCR.ACKED src) 0).count (FCR.COUNT src)
  s.setFcr (fun r => { r with events := r.events ++ [{ src := src, unit := unit, cls := cls, acked := false }] })

/-- A detection that is raised (R549 to R551). -/
def State.fcrRaise (s : State) (src unit t : Nat) : State :=
  let c := s.cls src
  let init := s.get (FCR.INIT c)
  let second := decide (1 ≤ c) && s.fcr.events.any (fun e => decide (e.cls = c) && !e.acked)
  let rep := s.flag (FCR.RAISED src) && s.flag (FCR.ACKED src)
  let h := if second then min (init + 1) 5 else init
  let s := s.fcrStatus src unit c
  let s := if !second && !rep && decide (init < s.get (FCR.ESC c)) && (s.due (.grace src)).isNone then
      s.arm (.grace src) (t + ms (s.get (FCR.GRACE c))) else s
  s.fcrTake src unit h c (2 * b2n second + 8 * b2n rep) t

/-- A consequential detection (R554). -/
def State.fcrConseq (s : State) (src unit t : Nat) : State :=
  (((s.fcrLog src unit 0 (s.cls src) 4 t).count FCR.CONSEQCNT).evt 0x06 3).recEvent (0x600 + src) t unit 0

/-- A failure of the root: the raised source is logged with H4 and flag SAFE, whatever its class (R601). -/
def State.fcrRoot (s : State) (src t : Nat) : State :=
  (s.fcrStatus src 0 (s.cls src)).fcrTake src 0 4 (s.cls src) 16 t

/-! Clearing, acknowledgement and release (R547, R552, R555, R557). -/

/-- The grace timer of a source ends: the escalation Hurdle is taken once, on the unit of its first event not acknowledged
(R552). -/
def State.graceEnd (s : State) (src t : Nat) : State :=
  match s.fcr.events.find? (fun e => decide (e.src = src) && !e.acked) with
  | some e => (s.evt 0x06 1).fcrTake src e.unit (s.get (FCR.ESC (s.cls src))) (s.cls src) 1 t
  | none => s

/-- A grace timer whose deadline lies at or before `t` has ended: what comes then does not prevent the escalation (R552). -/
def State.gracePast (s : State) (i t : Nat) : State :=
  match s.due (.grace i) with
  | some d => if d ≤ t then s.onExpiry (.grace i) (fun d s => s.graceEnd i d) else s
  | none => s

/-- Acknowledges every event of a raised source and stops its grace timer (R552). -/
def State.fcrAck (s : State) (i t : Nat) : State :=
  let s := s.gracePast i t
  if s.flag (FCR.RAISED i) then
    ((s.put (FCR.ACKED i) 1).disarm (.grace i)).setFcr (fun r =>
      { r with events := r.events.map (fun e => if e.src = i then { e with acked := true } else e) })
  else s

/-- Whether an unhold is refused: its source is raised and not acknowledged (R547). -/
def State.unholdPersists (s : State) (i : Nat) : Bool := decide (i < 0xD4) && s.flag (FCR.RAISED i) && !s.flag (FCR.ACKED i)

/-- Marks holds to end at the next tick (R546). -/
def State.holdsEnd (s : State) (f : Nat × Nat × Nat → Bool) : State :=
  let s := s.setFcr (fun r => { r with ending := r.ending ++ r.holds.filter (fun h => f h && !r.ending.contains h) })
  (s.fcr.holds.filter f).foldl (fun s h =>
    s.put (FCR.HELD h.1) (b2n (s.fcr.holds.any (fun g => decide (g.1 = h.1) && !s.fcr.ending.contains g)))) s

/-- An accepted unhold (R547). -/
def State.fcrUnhold (s : State) (i u : Nat) : State := s.holdsEnd (fun h => decide (h.1 = i) && decide (h.2.2 = u))

/-- An accepted clear, which acknowledges as well (R552, R555). -/
def State.fcrClear (s : State) (i t : Nat) : State :=
  let s := s.gracePast i t
  let s := (s.disarm (.grace i)).setFcr (fun r => { r with events := r.events.filter (fun e => decide (e.src ≠ i)) })
  let s := s.holdsEnd (fun h => decide (h.1 = i))
  ((((((s.put (FCR.RAISED i) 0).put (FCR.ACKED i) 0).put (FCR.HELD i) 0).put (FCR.SSTAT_UNIT i) 0).put (FCR.COUNT i) 0).put
    (FCR.SSTAT_HURDLE i) 0)

/-- Whether a unit flag that raises the source is set on any unit (R555). -/
def State.flagPersists (s : State) (i : Nat) : Bool :=
  (allUnits ++ (List.range 6).map OutU.lf).any (fun u =>
    (List.range 16).any (fun b => decide (flagSrc u b = some i) && bitAt (s.get (fFlt u)) b)
    || (decide (lockSrc u = some i) && (bitAt (s.get (fFlt u)) (protBits u).rtx || bitAt (s.get (fFlt u)) (protBits u).defexp)))

/-- Whether the condition of a source of the platform still holds at `t` (R541, R555, R597, R600, R629, R672): a low-power clock
that failed its monitor, until a count of 31.25 ms has passed without another failure; the regulator, while PG is low (DEDUCED, log entry 95). -/
def State.platformHolds (s : State) (i t : Nat) : Bool :=
  match i with
  | 0x00 => !s.flag CLK.XOK
  | 0x01 | 0x02 => s.flag CLK.FAILWAIT
  | 0x03 => (s.flag CLK.LPSRC && !s.flag CLK.LPACT)
      || (match s.clk.lpFail with | some d => decide (t < d + 31250000) | none => false)
  | 0x04 => s.flag CLK.REFSEL && decide (s.get CLK.ROOTSRC ≠ 2)
  | 0x05 => s.flag PWR.RETFAIL
  | 0x08 => !s.pwr.pg
  | 0x09 => s.flag SUP.UV
  | 0x0A => s.flag SUP.OV
  | 0x0B => bitAt (s.get SUP.RAILOUT) 0
  | 0x0C => bitAt (s.get SUP.RAILOUT) 1
  | 0x0D => bitAt (s.get SUP.RAILOUT) 2
  | 0x0E => bitAt (s.get SUP.RAILOUT) 3
  | 0x0F => s.flag SUP.TEMPCD
  | 0x10 => s.flag SUP.TEMPBP
  | 0x11 => s.flag BOOT.IMGFB
  | 0x14 => s.flag NVC.ERR
  | 0x15 => !s.flag LNK.PDAOK
  | 0x16 => !s.flag LNK.PDBOK
  | _ => false

/-- Whether the condition or flag of a source of the other blocks still holds (R265, R353, R442, R466, R504, R555). -/
def State.blockHolds (s : State) (i : Nat) : Bool :=
  match i with
  | 0x29 => s.flag MSH.FREEZE
  | 0x2A => s.msh.contOver
  | 0x2B => s.flag MSH.FALLBACK
  | 0x9A => bitAt (s.get (Hdr.EVT 0x22)) 0
  | 0xC7 => s.flag CANC.HALT
  | 0xC8 => s.flag PWR.FSMASK
  | 0xCB => (List.range 2).any (fun p => s.portOn p && !s.flag (PT.UP p))
  | 0xCC => (List.range 4).any (fun p => s.portOn (2 + p) && !s.flag (PT.UP (2 + p)))
  | 0xCD => (List.range 6).any (fun p => decide (s.get (PT.VERIFY p) = 3))
  | 0xD1 => s.flag TSY.HOLDOVER
  | 0xD2 => s.sw.sfl.any (fun e => e.2.w2.testBit 15)
  | 0xD3 => s.sw.sfl.any (fun e => e.2.oneway)
  | _ => false

/-- Whether a clear of source `i` at `t` is refused with PERSIST (R555). -/
def State.fcrPersists (s : State) (i t : Nat) : Bool := s.flagPersists i || s.platformHolds i t || s.blockHolds i || s.agePersists i

/-- The end of holds at a tick: each unit follows its applied enable again (R546). -/
def State.liftHolds (s : State) (t : Nat) : State :=
  let gone := s.fcr.ending
  let s := s.setFcr (fun r => { r with holds := r.holds.filter (fun h => !r.ending.contains h), ending := [] })
  gone.foldl (fun s h =>
    if 0x30 ≤ h.2.1 ∧ h.2.1 ≤ 0x37 then s.canStart h.2.2
    else if h.2.1 = 0x39 then s.nmEnable h.2.2 t else s) s

/-- The end of safe state at the tick after its release (R557). -/
def State.endSafe (s : State) : State :=
  { (s.put FCR.SAFE 0).yieldClose 5 3 0 with stride := { s.stride with safeRel := false } }

/-- The log entry that `FCR.LOGSEL` selects (R560). -/
def State.logEntry (s : State) : FcrLog :=
  s.fcr.log.getD (s.get FCR.INDEX) { src := 0, unit := 0, hurdle := 0, cls := 0, flags := 0, lap := 0, split := 0 }

/-- The fault summary at T(n) (R559). -/
def State.faultRecord (s : State) (t : Nat) : List Byte :=
  let held := (s.fcr.holds.map (fun h => (h.1, h.2.2))).mergeSort (fun a b => decide (a.1 < b.1) || (decide (a.1 = b.1) && decide (a.2 ≤ b.2)))
  let raised := (List.range 0xD4).filter (fun i => s.flag (FCR.RAISED i))
  let bits := fun (f : Nat → Bool) => leBytes 28 ((List.range 0xD4).foldl (fun a i => if f i then setBit a i else a) 0)
  let flags := s.get FCR.SAFE + 2 * b2n s.errN + 4 * b2n (s.fcr.shadows.any (fun w => s.winOpen w t)) + 8 * b2n (decide (16 < held.length))
  leBytes 1 flags ++ leBytes 1 (if raised.isEmpty then 0xFF else raised.foldl (fun a i => max a (s.cls i)) 0)
    ++ leBytes 2 s.unacked ++ bits (fun i => s.flag (FCR.RAISED i)) ++ bits (fun i => s.flag (FCR.ACKED i)) ++ leBytes 4 0
    ++ ((List.range 16).flatMap (fun k => match held[k]? with
        | some e => leBytes 1 e.1 ++ leBytes 1 e.2
        | none => leBytes 2 0xFFFF)) ++ leBytes 160 0

/-! Commands. -/

/-- FCR receives a detection at `t`: consequential under an open window, else raised (R548 to R554). -/
def State.fcrReceive (s : State) (src unit t : Nat) : State :=
  let s := s.setFcr (fun r => { r with shadows := r.shadows.filter (fun w => s.winOpen w t) })
  if s.inShadow src unit t then s.fcrConseq src unit t else s.fcrRaise src unit t

/-- FCR receives at once every detection that is on its way, lowest source first and lowest unit first within one (R27, R548,
R614). -/
def State.fcrDrain (s : State) (t : Nat) : State :=
  (s.fcr.inbox.mergeSort (fun a b => decide (a.1 < b.1) || (decide (a.1 = b.1) && decide (a.2 ≤ b.2)))).foldl
    (fun s e => s.fcrReceive e.1 e.2 t) (s.setFcr (fun r => { r with inbox := [] }))

/-- FAULT_RAISE: a detection reaches FCR (R548, R549 to R554); in DOZE it stays held in the Lane link (R614). -/
def execFaultRaise (t src unit : Nat) (s : State) : Host.Outcome State Fault Refusal :=
  .next (
    let s := (s.reach t).setFcr (fun r => { r with inbox := r.inbox.erase (src, unit) })
    if 0xD4 ≤ src ∨ s.boot.phase = .held then s
    else if s.pwr.state = .doze ∨ s.pwr.state = .dozeExit then s.detect src unit
    else s.fcrReceive src unit t)

/-- GRACE_EXPIRY: the escalation Hurdle is taken once, on the unit of the first event not acknowledged (R552). -/
def execGraceExpiry (src : Nat) (s : State) : Host.Outcome State Fault Refusal :=
  .next (s.onExpiry (.grace src) (fun t s => s.graceEnd src t))

end Sys2Proof.Machine
end

