-- ==== Sys2Proof/Machine/Clocks.lean ====
section
/-! DEFINITION. Clock generation: start of the crystal, the root and its reference, holdover, monitors, failure of the
root, gating and the low-power clock (R588 to R609). -/
namespace Sys2Proof.Machine

/-- Starts the crystal at `t`: the wait XSTART runs (R592). -/
def State.xoscStart (s : State) (t : Nat) : State := s.arm .xstart (t + us 250 * (s.get CLK.XSTART + 1))

/-- A failed start of the crystal or lock of the PLL (R593). -/
def State.xoscFailed (s : State) (t : Nat) : State := ((s.put CLK.XOK 0).count CLK.TRIES).xoscStart (t + ms 1)

/-- The PLL takes a reference: 1 XOSC, 2 RCLK; it slews to it (R591, R596). -/
def State.takeRef (s : State) (r : Nat) : State :=
  if s.get CLK.ROOTSRC = r then s else ((s.put CLK.ROOTSRC r).put CLK.SLEWING 1).disarm .holdover

/-- The PLL enters holdover (R597 to R599). -/
def State.enterHoldover (s : State) (t : Nat) : State :=
  (((s.put CLK.ROOTSRC 3).put CLK.SLEWING 0).evt 0x01 2).arm .holdover (t + ms 100 * s.get CLK.HOLDMAX)

/-- The wait of R597 for RCLK to stay usable starts, or stops. -/
def State.rclkWait (s : State) (t : Nat) : State :=
  if s.flag TSY.RCLKOK && s.flag CLK.REFSEL && s.flag CLK.AUTOREF && decide (s.get CLK.ROOTSRC ≠ 2) then
    (if (s.due .rclk).isSome then s else s.arm .rclk (t + ms 1000))
  else s.disarm .rclk

/-- Ticks stop, and the Stride context with them (R72, R601, R602). -/
def State.ticksStop (s : State) : State :=
  { s with stride := { s.stride with running := false, started := false, cut := true, staged := [] } }

/-- The root has failed (R601 to R603); `src` is the raised source. -/
def State.rootFailed (s : State) (src t : Nat) : State :=
  if s.flag CLK.FAILWAIT then ((s.fcrStatus src 0 (s.cls src)).fcrLog src 0 0 (s.cls src) 0 t).recEvent (0x400 + src) t 0 0
  else if s.get CLK.RAMPSTEP = 0 then s
  else
    let s := (((s.put CLK.RAMPSTEP 0).put CLK.ROOTSRC 0).put CLK.LOCK 0).put CLK.SLEWING 0
    let s := (((s.disarm .dwell).disarm .holdover).disarm .rclk).ticksStop
    let s := s.phyAssert 0x3F
    ((s.put CLK.FAILWAIT 1).arm .clockWait (t + ms (s.get CLK.WAIT))).fcrRoot src t

/-- XOSC fails its monitor (R598). -/
def State.xoscLost (s : State) (t : Nat) : State :=
  if ¬ s.flag CLK.XOK then s
  else
    let s := ((((s.put CLK.XOK 0).put CLK.DIFF 0).evt 0x01 4).detect 0x00 0).arm .xretry (t + ms 100)
    if s.get CLK.ROOTSRC ≠ 1 then s
    else
      let s := s.enterHoldover t
      if s.flag CLK.AUTOREF && s.flag TSY.RCLKOK then s.takeRef 2 else s

/-- RCLK fails its monitor (R597). -/
def State.rclkLost (s : State) (t : Nat) : State :=
  let s := (((s.put TSY.RCLKOK 0).put CLK.DIFF 0).evt 0x01 4).disarm .rclk
  if s.get CLK.ROOTSRC ≠ 2 then s
  else
    let s := (s.detect 0x04 0).enterHoldover t
    if s.flag CLK.AUTOREF && s.flag CLK.XOK then s.takeRef 1 else s

/-- The low-power clock changes its source (R605). -/
def State.lpSwitch (s : State) (v : Nat) : State := if s.get CLK.LPACT = v then s else (s.put CLK.LPACT v).evt 0x01 3

/-- LPXO fails a count: the clock returns to LPRC, and LPXO is tried again 10 s later (R605, R606). In PARK no detection
reaches fault collection. -/
def State.lpxoFailed (s : State) (t : Nat) : State :=
  let s := { s with clk := { s.clk with lpGood := 0 } }
  let s := if s.flag CLK.LPSRC then s.arm .lpxoRetry (t + ms 10000) else s
  if s.flag CLK.LPACT ∧ s.pwr.state ≠ .park then (s.lpSwitch 0).detect 0x03 0 else s.lpSwitch 0

/-- A write of LPCFG (R605). -/
def State.lpConfig (s : State) : State :=
  let s := { s with clk := { s.clk with lpGood := 0 } }
  if s.flag CLK.LPSRC then s else (s.disarm .lpxoRetry).lpSwitch 0

/-- Whether the refusal RESV meets a write of REFSEL (R596). -/
def State.refselRefused (s : State) (v : Nat) : Bool := decide (v = 1) && !s.flag TSY.RCLKOK

/-- An accepted write of REFSEL (R596): a request written during a slew replaces its target. -/
def State.refSelect (s : State) (v t : Nat) : State :=
  let s := s.put CLK.REFSEL v
  if s.get CLK.ROOTSRC = 0 then s
  else if v = 1 then (s.takeRef 2).rclkWait t
  else if s.flag CLK.XOK then (s.takeRef 1).rclkWait t
  else s.rclkWait t

/-- The PLL locks on XOSC: ramp step 1, and split 0 (R592, R594, R595). -/
def State.pllLocked (s : State) (t : Nat) : State :=
  let s := (((s.put CLK.LOCK 1).put CLK.ROOTSRC 1).put CLK.RAMPSTEP 1).evt 0x01 0
  { s with splitZero := t }.arm .dwell (t + us (s.get CLK.DWELL))

/-- Whether the start of the clocks waits for the PLL. -/
def State.awaitsLock (s : State) : Bool := decide (s.boot.phase = .clock) && s.flag CLK.XOK && !s.flag CLK.LOCK

/-- Whether an operation of a page is in progress, `STAT.BUSY` (R45). -/
def State.pageBusy (s : State) (p : Nat) : Bool :=
  match p with
  | 0x01 => s.flag CLK.SLEWING
  | 0x02 => s.flag PWR.REGBUSY
  | 0x05 => s.flag NVC.BUSY
  | 0x07 => s.flag REC.BUSY
  | 0x0D => s.flag VLT.BUSY
  | 0x0E => decide (s.get ACC.STATE ≠ 0)
  | 0x40 => s.flag SWC.MDIODATA_BUSY
  | _ => false

/-! Commands. -/

/-- XOSC_START_WAIT: XSTART ends and the count over 20 µs lies within the window or not (R592, R593, R598). -/
def execXoscStartWait (ok : Bool) (s : State) : Host.Outcome State Fault Refusal :=
  .next (s.onExpiry .xstart (fun t s =>
    let t := t + us 20
    if s.boot.phase = .clock then (if ok then s.put CLK.XOK 1 else s.xoscFailed t)
    else if ok then
      let s := (s.put CLK.XOK 1).disarm .xretry
      if ¬ s.flag CLK.REFSEL ∨ s.get CLK.ROOTSRC = 3 then s.takeRef 1 else s
    else s.count CLK.TRIES))

/-- PLL_LOCK: the root PLL locks on XOSC, or fails to (R592, R593). -/
def execPllLock (t : Nat) (ok : Bool) (s : State) : Host.Outcome State Fault Refusal :=
  .next (
    let s := s.reach t
    if ¬ s.awaitsLock then s else if ok then s.pllLocked t else s.xoscFailed t)

/-- REFERENCE_SLEW_COMPLETE: the root reaches its new reference; `diff` is RCLK against XOSC as last measured (R596,
R609). -/
def execReferenceSlewComplete (t diff : Nat) (s : State) : Host.Outcome State Fault Refusal :=
  .next (
    let s := s.reach t
    let s := s.put CLK.DIFF (if s.flag CLK.XOK && s.flag TSY.RCLKOK then diff else 0)
    if s.flag CLK.SLEWING then (s.put CLK.SLEWING 0).evt 0x01 1 else s)

/-- CLOCK_MONITOR_FAIL: a clock leaves its window (R597, R598, R600, R606). -/
def execClockMonitorFail (t : Nat) (c : ClockMon) (s : State) : Host.Outcome State Fault Refusal :=
  .next (
    let s := s.reach t
    match c with
    | .xosc => s.xoscLost t
    | .rclk => s.rclkLost t
    | .pll => if s.get CLK.ROOTSRC = 3 then s else (s.evt 0x01 4).rootFailed 0x01 t
    | .domain | .iro => (s.evt 0x01 4).rootFailed 0x02 t
    | .lowPower => if s.flag CLK.LPACT then (s.evt 0x01 4).lpxoFailed t else if s.pwr.state = .park then s
        else ({ s with clk := { s.clk with lpFail := some t } }.evt 0x01 4).detect 0x03 0)

/-- HOLDOVER_EXPIRY: holdover has lasted HOLDMAX; the reference that was lost is the raised source (R599, R601). -/
def execHoldoverExpiry (s : State) : Host.Outcome State Fault Refusal :=
  .next (s.onExpiry .holdover (fun t s => s.rootFailed (if s.flag CLK.XOK then 0x04 else 0x00) t))

/-- CLOCK_WAIT_END: the wait ends in a device reset (R602). -/
def execClockWaitEnd (s : State) : Host.Outcome State Fault Refusal :=
  .next (s.onExpiry .clockWait (fun t s => s.deviceReset causeClk 0 t))

/-- XOSC_RETRY: the crystal is restarted, and again 100 ms later until it is accepted (R598). -/
def execXoscRetry (s : State) : Host.Outcome State Fault Refusal :=
  .next (s.onExpiry .xretry (fun t s => (s.xoscStart t).arm .xretry (t + ms 100)))

/-- RCLK_RETURN: RCLKOK has held for 1 s (R597). -/
def execRclkReturn (s : State) : Host.Outcome State Fault Refusal :=
  .next (s.onExpiry .rclk (fun _ s => if s.flag TSY.RCLKOK && s.flag CLK.REFSEL && s.flag CLK.AUTOREF then s.takeRef 2 else s))

/-- LPXO_CHANGEOVER: a count of LPXO over its window passes or fails (R605, R606). -/
def execLpxoChangeover (t : Nat) (ok : Bool) (s : State) : Host.Outcome State Fault Refusal :=
  .next (
    let s := s.reach t
    if ¬ s.flag CLK.LPSRC ∨ (s.due .lpxoRetry).isSome then s
    else if ¬ ok then s.lpxoFailed t
    else if s.clk.lpGood = 0 then { s with clk := { s.clk with lpGood := 1 } }
    else s.lpSwitch 1)

/-- LPXO_RETRY: 10 s after a failure LPXO is tried again (R606). -/
def execLpxoRetry (s : State) : Host.Outcome State Fault Refusal :=
  .next (s.onExpiry .lpxoRetry (fun _ s => s))

/-- CLOCK_GATING: the clock of a page that has been disabled and at rest for 16 cycles is gated (R604). -/
def execClockGating (t p : Nat) (s : State) : Host.Outcome State Fault Refusal :=
  .next (
    let s := s.reach t
    if pagePresent p && !s.flag (Hdr.EN p) && !s.pageBusy p && !s.flag (Hdr.STOPPING p) && !s.flag CLK.GATEDIS then
      s.setFlag (CLK.GATED (p / 32)) (p % 32)
    else s)

end Sys2Proof.Machine
end

