-- ==== Sys2Proof/Machine/Power.lean ====
section
/-! DEFINITION. Power states, the regulator link, Cool-down, PARK and wake (R610 to R633). -/
namespace Sys2Proof.Machine

/-- Updates the power states. -/
def State.setPwr (s : State) (f : PwrSt → PwrSt) : State := { s with pwr := f s.pwr }

/-! The regulator link (R627 to R630). -/

/-- A request arises, behind those that wait (R629). No request is made where VOUT_MODE is not supported (R628). -/
def State.regAsk (s : State) (volt use : Nat) : State :=
  s.setPwr (fun p => { p with reg := p.reg ++ [{ volt := volt, use := use, tries := 0 }] })

/-- The PMBus bit time in ns. -/
def State.busBit (s : State) : Nat := if s.flag PWR.FAST then 2500 else 10000

/-- From the start of a transaction to the end of its STATUS_WORD read: the writes, the ramp over the change in mV, and
PGSETTLE (R629). Without PEC each transaction is one byte shorter (log entry 36). -/
def State.regTime (s : State) (volt : Nat) : Nat :=
  let k := if s.flag PWR.PEC then 0 else 9
  let page := if s.flag PWR.PAGEEN then 38 - k else 0
  let v := s.get AGE.VREQ
  let dv := if v < volt then volt - v else v - volt
  s.busBit * (page + (47 - k) + (57 - k)) + us 10 * dv / max 1 (s.get PWR.SLEW) + us (s.get PWR.PGSETTLE)

/-- The request at the front ends; `ok` where it was acknowledged (R629, R630). -/
def State.regDone (s : State) (ok : Bool) (t : Nat) : State :=
  match s.pwr.reg with
  | [] => s
  | r :: rest =>
    let s := ((s.setPwr (fun p => { p with reg := rest })).put PWR.REGBUSY 0)
    let s := ((s.disarm .regSettle).disarm .regRetry).disarm .regTimeout
    let s := if ok then s.evt 0x02 3 else s
    if r.use = 2 then
      (if ok then (s.put CLK.RAMPSTEP 1).arm .dwell (t + us (s.get CLK.DWELL)) else s.deviceReset causeReg 0 t)
    else if r.use = 0 && ok then s.put AGE.VREQ r.volt
    else s

/-- A failed request (R629): REGERR, and its source. The failure of a DOZE exit ends in a reset (R630), so FCR receives it and
what the Lane link held at once, before the reset (R27, R614). -/
def State.regFail (s : State) (src t : Nat) : State :=
  let last := s.pwr.reg.head?.any (fun r => decide (r.use = 2))
  let s := (s.evt 0x02 4).detect src 0
  (if last then s.fcrDrain t else s).regDone false t

/-- The VOUT_COMMAND value of a voltage in mV: round(V × 2^(−N)) with halves up, N the signed exponent of VOUT_MODE (R628). -/
def State.voutCode (s : State) (mv : Nat) : Nat :=
  let n := s.get PWR.VOUTMODE % 32
  if n < 16 then (2 * mv + 1000 * 2 ^ n) / (2000 * 2 ^ n) else (2 * mv * 2 ^ (32 - n) + 1000) / 2000

/-- The transaction of the front request runs, or is answered with NACK: retried once after 100 µs (R629). -/
def State.regSend (s : State) (ack : Bool) (t : Nat) : State :=
  match s.pwr.reg with
  | [] => s
  | r :: rest =>
    let s := s.setPwr (fun p => { p with vout := s.voutCode r.volt })
    if ack then s.arm .regSettle (t + s.regTime r.volt)
    else if r.tries = 0 then (s.setPwr (fun p => { p with reg := { r with tries := 1 } :: rest })).arm .regRetry (t + us 100)
    else s

/-! Transfers in flight (R617). -/

/-- One transfer aborted whole with ABORT_PWR; kind 4 is the program of a sector, which is left unused. -/
def State.abortOne (s : State) (k : Nat) : State :=
  let s := (((s.count PWR.ABORTCNT).setFlag PWR.ABORTKIND k).evt 0x02 6).setPwr (fun p => { p with qto := true })
  if k ≠ 4 then s
  else if s.boot.nv.isSome then { s with boot := { s.boot with nv := none } }.put NVC.BUSY 0
  else if s.book.flush.isSome then (s.setBook (fun r => { r with flush := none })).put REC.BUSY 0
  else s

/-- PWR_QTO at the next exit from DOZE or Warm-up (R617). -/
def State.qtoReport (s : State) : State :=
  if s.pwr.qto then (s.setPwr (fun p => { p with qto := false })).detect 0x06 0 else s

/-! DOZE (R612 to R616). -/

/-- The retention banks of R616 that lie in the memory map: first address and end (R41). -/
def retBank (b : Nat) : Nat × Nat :=
  match b with
  | 0 => (0x0, 0x100000) | 1 => (0x100000, 0x180000) | 2 => (0x200000, 0x2E0000) | 4 => (0x380000, 0x3C0000)
  | 5 => (0x3C0000, 0x400000) | 6 => (0x400000, 0x480000) | _ => (0, 0)

/-- The bytes of a retention bank. Snapshot memory is held apart (R83); the packet buffer holds frames, and DOZE is
entered only with the switch off (R612). -/
def State.bankBytes (s : State) (b : Nat) : List Byte :=
  if b = 3 then (List.range 0x2000).map (fun i => look 0 s.stride.snap i)
  else s.bytes (retBank b).1 ((retBank b).2 - (retBank b).1)

/-- Zero-fills a bank. -/
def State.zeroBank (s : State) (b : Nat) : State :=
  if b = 3 then { s with stride := { s.stride with snap := [], snapPrev := [] } } else s.zero (retBank b).1 (retBank b).2

/-- The domains stop: retention CRCs, and the request for 0.72 V (R613, R616). -/
def State.dozeSleep (s : State) : State :=
  let keep := (List.range 8).filter (fun b => bitAt (s.get PWR.RETSEL) b)
  let s := s.setPwr (fun p => { p with crcs := keep.map (fun b => (b, crc32 (s.bankBytes b))) })
  if s.pwr.regOk then s.regAsk 720 1 else s

/-- DOZE begins at a tick: ticks are suspended, and transfers in flight end or are waited for (R613, R617). -/
def State.dozeEnter (s : State) (t : Nat) : State :=
  let s := s.ticksStop.setPwr (fun p => { p with state := .doze, dozeNext := false })
  if s.nvBusy then s.arm .quiesce (t + us 10 * s.get PWR.QTO) else s.dozeSleep

/-- The end of the exit: the retention check, then ticks from LENACT later on (R615, R616). -/
def State.dozeResume (s : State) (t : Nat) : State :=
  let crcs := s.pwr.crcs
  let bad : List Nat := (crcs.filter (fun e => decide (crc32 (s.bankBytes e.1) ≠ e.2))).map (·.1)
  let s := bad.foldl (fun s b => (s.setFlag PWR.RETFAIL b).zeroBank b) s
  let s := if bad.isEmpty then s else s.evt 0x02 5
  if 0 ∈ bad ∨ 1 ∈ bad then
    let w := s.get PWR.WAKEFLAG
    (((s.detect 0x05 0).fcrDrain t).deviceReset causeRetfail 0 t).put BOOT.WAKESRC w
  else
    let s := ((List.range 8).filter (fun b => crcs.all (fun e => decide (e.1 ≠ b)))).foldl (fun s b => s.zeroBank b) s
    let s := (if bad.isEmpty then s else s.detect 0x05 0).setPwr (fun p => { p with state := .idle, crcs := [] })
    { s with stride := { s.stride with
        running := true, nextTick := s.splitAt t + s.get STR.LENACT, bridging := false, bridgeStep := false, newLen := none } }.qtoReport

/-- Whether WAIT may enter DOZE, for a level FL.LVL (R612). -/
def State.dozeAllowed (s : State) (lvl : Nat) : Bool :=
  !s.flag (Hdr.EN 0x40) && (List.range 8).all (fun x => decide (s.get (CAN.STATE x) = 0)) && s.vault.cmd.isNone
    && decide (lvl < s.get (PAC.LVL 0) / 16 % 4)

/-- What a retired WAIT does to the power state (R611, R612, R618). -/
def State.waitEnter (s : State) (lvl t : Nat) : State :=
  let idle := fun (s : State) => if s.pwr.state = .run then s.setPwr (fun p => { p with state := .idle }) else s
  match s.get PWR.MODE with
  | 1 =>
    if s.dozeAllowed lvl then idle (s.setPwr (fun p => { p with dozeNext := true }))
    else idle ((s.put PWR.DOZEREF 1).evt 0x02 2)
  | 2 =>
    if s.flag PWR.COOLARM || !s.flag PWR.NEEDAGREE then s.coolStart t
    else idle (s.setPwr (fun p => { p with waitPark := true }))
  | _ => idle s

/-! Cool-down and PARK (R618 to R624). -/

/-- Whether every power unit is off. -/
def State.unitsRest (s : State) : Bool := allUnits.all (fun u => !(s.phase u).conducts && !s.unitStops u)

/-- The flush of Cool-down (R619). -/
def State.coolFlush (s : State) (t : Nat) : State := (s.setPwr (fun p => { p with state := .flush })).flushTrigger 2 t

/-- Buses, PHYs, switch and controllers stop, and the flush follows (R619). -/
def State.coolQuiesce (s : State) (t : Nat) : State :=
  let s := (s.disarm .coolTo).setPwr (fun p => { p with state := .quiesce })
  let s := s.phyAssert 0x3F
  let s := (List.range 8).foldl (fun s x => s.canStop x t) s
  let s := (List.range 6).foldl (fun s q => s.portStop q t) s
  if s.nvBusy then s.arm .quiesce (t + us 10 * s.get PWR.QTO) else s.coolFlush t

/-- PARK: pads latched, power dies off, REGEN low (R619, R620, R623). -/
def State.parkEnter (s : State) (t : Nat) : State :=
  let s := (s.put PWR.LATCHED 1).setPwr (fun p => { p with state := .park, regen := false })
  let t := t + us 30
  (List.range 2).foldl (fun s d => ((s.dieOff d t).setDie d (fun x => { x with heats := [] })).disarm (.watchdog d)) s

/-- Restarts or stops the wake timer, which counts 1/1024 s (R626). -/
def State.wakeTimer (s : State) (v t : Nat) : State := if v = 0 then s.disarm .wake else s.arm .wake (t + v * 1953125 / 2)

/-- The remaining count of the wake timer (R626). -/
def State.wakeLeft (s : State) (t : Nat) : Nat :=
  match s.due .wake with
  | some d => (2 * (d - t) + 1953124) / 1953125
  | none => 0

/-! Commands. -/

/-- QUIESCE_TIMEOUT: the wait for transfers in flight ends, at `t` or at its limit; `kinds` are the transfers aborted
(R617). A wait that ends early leaves none. -/
def execQuiesceTimeout (t : Nat) (kinds : List Nat) (s : State) : Host.Outcome State Fault Refusal :=
  .next (
    let s := s.reach t
    match s.due .quiesce with
    | none => s
    | some d =>
      if t < d ∧ (s.nvBusy ∨ kinds ≠ []) then s
      else
        let s := (kinds.filter (fun k => decide (k < 5) && decide (k ≠ 4))).foldl (fun s k => s.abortOne k) (s.disarm .quiesce)
        let s := if s.boot.nv.isSome || s.book.flush.isSome then s.abortOne 4 else s
        if s.pwr.state = .doze then s.dozeSleep else if s.pwr.state = .quiesce then s.coolFlush (min t d) else s)

/-- DOZE_WAKE: a wake source ends DOZE; VCORE is requested back (R615). `decay` are bytes of retained memory that have
changed since the entry (R616). -/
def execDozeWake (t : Nat) (decay : List (Nat × Byte)) (s : State) : Host.Outcome State Fault Refusal :=
  .next (
    let s := s.reach t
    if s.pwr.state = .doze && (s.flag PWR.WAKEFLAG || !s.fcr.inbox.isEmpty) && (s.due .quiesce).isNone then
      let s := (decay.foldl (fun s e => s.setByte e.1 e.2) s).evt 0x02 0
      let s := s.setPwr (fun p => { p with state := .dozeExit })
      if s.pwr.regOk then s.regAsk (s.get AGE.VREQ) 2
      else (s.put CLK.RAMPSTEP 1).arm .dwell (t + us (s.get CLK.DWELL))
    else s)

/-- COOLDOWN_ARM_TIMEOUT: ARMTO after the arming (R618). -/
def execCooldownArmTimeout (s : State) : Host.Outcome State Fault Refusal :=
  .next (s.onExpiry .coolArm (fun t s => s.coolStart t))

/-- COOLDOWN_UNITS_STOPPED: all power units are off (R619). -/
def execCooldownUnitsStopped (t : Nat) (s : State) : Host.Outcome State Fault Refusal :=
  .next (
    let s := s.reach t
    if s.pwr.state = .cooldown && !s.stride.running && s.unitsRest then s.coolQuiesce t else s)

/-- COOLDOWN_TIMEOUT: COOLTO passes; the power dies' own turn-off completes the stop (R619, R620). -/
def execCooldownTimeout (s : State) : Host.Outcome State Fault Refusal :=
  .next (s.onExpiry .coolTo (fun t s => if s.pwr.state = .cooldown then (s.ticksStop.put PWR.STAT_COOLTO 1).coolQuiesce t else s))

/-- COOLDOWN_FLUSH_END: the flush has ended or failed; the pads latch and PARK follows (R619). -/
def execCooldownFlushEnd (t : Nat) (s : State) : Host.Outcome State Fault Refusal :=
  .next (
    let s := s.reach t
    if s.pwr.state = .flush && s.book.flush.isNone then s.parkEnter t else s)

/-- WAKE_INPUT_FILTER: wake input 56 + `j` has held its level for FLT (R622). -/
def execWakeInputFilter (t j : Nat) (s : State) : Host.Outcome State Fault Refusal :=
  .next (
    let s := s.reach t
    if ¬ (j < 8 ∧ bitAt (s.get PWR.EN) j) then s
    else match s.pwr.state with
      | .run | .idle => s
      | _ => s.wakeSource j)

/-- PARK_WAKE: a wake source drives REGEN high (R621, R624). -/
def execParkWake (t : Nat) (s : State) : Host.Outcome State Fault Refusal :=
  .next (
    let s := s.reach t
    if s.pwr.state = .park && decide (s.pwr.wakes ≠ 0) then
      (s.setPwr (fun p => { p with state := .waking, regen := true })).arm .pg (t + ms 100)
    else s)

/-- PG_TIMEOUT: PG has not come within 100 ms, or REGEN has been low for 100 ms (R624). -/
def execPgTimeout (s : State) : Host.Outcome State Fault Refusal :=
  .next (s.onExpiry .pg (fun t s => (s.setPwr (fun p => { p with regen := !p.regen })).arm .pg (t + ms 100)))

/-- PG_RISE: PG comes; after a wake from PARK every level but KEEP is reset, and Warm-up follows (R624, R634). -/
def execPgRise (t : Nat) (s : State) : Host.Outcome State Fault Refusal :=
  .next (
    let s := (s.reach t).setPwr (fun p => { p with pg := true })
    if s.pwr.state = .waking && s.pwr.regen then
      let w := s.pwr.wakes
      ((((s.disarm .pg).assertReset causeWake 0 t).put BOOT.WAKESRC w).setPwr (fun p => { p with wakes := 0 })).releaseReset t
    else s)

/-- PG_FALL: outside a request the fall raises PWR_REGSTAT (R629). -/
def execPgFall (t : Nat) (s : State) : Host.Outcome State Fault Refusal :=
  .next (
    let s := (s.reach t).setPwr (fun p => { p with pg := false })
    if s.flag PWR.REGBUSY || !s.pwr.regen then s else (s.evt 0x02 4).detect 0x08 0)

/-- WAKE_TIMER_EXPIRY: the timer reaches 0 (R626). -/
def execWakeTimerExpiry (s : State) : Host.Outcome State Fault Refusal :=
  .next (s.onExpiry .wake (fun _ s => if s.flag PWR.TMREN then s.wakeSource 9 else s))

/-- REGULATOR_REQUEST: the request at the front starts; `ack` where the regulator answers its writes (R629). -/
def execRegulatorRequest (t : Nat) (ack : Bool) (s : State) : Host.Outcome State Fault Refusal :=
  .next (
    let s := s.reach t
    if s.pwr.regOk && !s.flag PWR.REGBUSY && !s.pwr.reg.isEmpty then
      ((s.put PWR.REGBUSY 1).arm .regTimeout (t + us 100 * s.get PWR.TIMEOUT)).regSend ack t
    else s)

/-- REGULATOR_CHECK: STATUS_WORD as read, none for a NACK; `pg` where PG stayed high throughout settling (R629). -/
def execRegulatorCheck (status : Option Nat) (pg : Bool) (s : State) : Host.Outcome State Fault Refusal :=
  .next (s.onExpiry .regSettle (fun t s =>
    match status with
    | none => s.regSend false t
    | some w =>
      let s := s.put PWR.LASTSW w
      if w &&& 0xE87E ≠ 0 then s.regFail 0x08 t else if pg then s.regDone true t else s))

/-- REGULATOR_RETRY: 100 µs after a NACK the transaction is sent again (R629). -/
def execRegulatorRetry (ack : Bool) (s : State) : Host.Outcome State Fault Refusal :=
  .next (s.onExpiry .regRetry (fun t s => s.regSend ack t))

/-- REGULATOR_TIMEOUT: no acknowledgement within TIMEOUT (R629). -/
def execRegulatorTimeout (s : State) : Host.Outcome State Fault Refusal :=
  .next (s.onExpiry .regTimeout (fun t s => s.regFail 0x07 t))

end Sys2Proof.Machine
end

