-- ==== Sys2Proof/Machine/RegCheck.lean ====
section
/-! DEFINITION. Which encodings a register accepts (R55): field ranges by page, words of several fields, and the rules
that relate fields to one another. Writes and the configuration image (R659) share them. A value outside the range that a
table states for a field is an undefined encoding of it (log entry 38). -/
namespace Sys2Proof.Machine

/-- A field's accepted values: row offset, lowest bit, least and greatest value, and whether 0 is accepted as well. -/
structure FldRule where
  off : Nat
  lo : Nat
  least : Nat
  most : Nat
  zero : Bool
  deriving DecidableEq, Repr

/-- Field rules of the load switch pages (R240, R242). -/
def rulesLsw (p : Nat) : List FldRule :=
  if p = 0x17 then [⟨0x148, 0, 1, 255, false⟩, ⟨0x148, 8, 5, 60, false⟩, ⟨0x150, 0, 0, 2, false⟩, ⟨0x154, 0, 10, 5000, false⟩,
    ⟨0x158, 0, 1000, 1000000, false⟩]
  else [⟨0x100, 1, 0, 2, false⟩, ⟨0x100, 6, 0, 2, false⟩, ⟨0x104, 0, 0, 4096, false⟩, ⟨0x108, 0, 0, 8, false⟩,
    ⟨0x108, 8, 1, 255, false⟩, ⟨0x108, 24, 1, 255, false⟩, ⟨0x10C, 0, 1, 255, false⟩, ⟨0x10C, 8, 1, 255, false⟩,
    ⟨0x10C, 16, 1, 255, false⟩]

/-- Field rules of MSH (R267). -/
def rulesMsh : List FldRule :=
  [⟨0x100, 0, 1, 240, false⟩, ⟨0x104, 0, 10, 600, false⟩, ⟨0x108, 0, 600, 3600, false⟩, ⟨0x110, 0, 1, 255, false⟩,
    ⟨0x114, 0, 1, 4095, false⟩, ⟨0x11C, 0, 1, 75, false⟩, ⟨0x11C, 8, 1, 30, false⟩, ⟨0x11C, 16, 1, 9, false⟩,
    ⟨0x120, 0, 1, 20, false⟩, ⟨0x120, 8, 1, 255, false⟩, ⟨0x120, 16, 1, 20, false⟩]

/-- Field rules of the valve pages (R300 to R302). -/
def rulesVd (p : Nat) : List FldRule :=
  if p = 0x1C then [⟨0x104, 0, 1, 255, false⟩, ⟨0x104, 8, 1, 255, false⟩, ⟨0x108, 8, 0, 2000, false⟩]
  else [⟨0x40, 0, 0, 2, false⟩, ⟨0x40, 8, 10, 120, false⟩, ⟨0x44, 8, 1, 255, false⟩, ⟨0x44, 16, 1, 255, false⟩,
    ⟨0x44, 24, 1, 255, false⟩, ⟨0x100, 1, 0, 1, false⟩, ⟨0x104, 0, 0, 2000, false⟩, ⟨0x104, 16, 0, 4096, false⟩,
    ⟨0x108, 8, 25, 400, true⟩, ⟨0x10C, 0, 40, 400, false⟩, ⟨0x110, 8, 1, 255, false⟩, ⟨0x110, 16, 1, 255, false⟩,
    ⟨0x110, 24, 1, 255, false⟩]

/-- Field rules of the half-bridge pages (R324, R325). -/
def rulesHb (p : Nat) : List FldRule :=
  if p = 0x1F then [⟨0x114, 0, 1, 255, false⟩]
  else [⟨0x100, 0, 0, 4, false⟩, ⟨0x100, 6, 0, 2, false⟩, ⟨0x104, 0, 0, 4096, false⟩, ⟨0x104, 16, 0, 4096, false⟩,
    ⟨0x108, 0, 10, 250, false⟩, ⟨0x108, 8, 1, 15, false⟩, ⟨0x110, 0, 1, 255, false⟩, ⟨0x110, 8, 1, 255, false⟩,
    ⟨0x110, 16, 1, 200, false⟩, ⟨0x110, 24, 1, 255, false⟩, ⟨0x114, 8, 1, 255, false⟩, ⟨0x118, 8, 1, 31, false⟩]

/-- Field rules of the lighting pages (R354 to R357). -/
def rulesLight (p : Nat) : List FldRule :=
  if p = 0x20 then [⟨0x50, 0, 0, 150, false⟩, ⟨0x108, 0, 10, 250, false⟩, ⟨0x108, 8, 1, 255, false⟩]
  else if p = 0x21 then [⟨0x30, 0, 0, 16, false⟩, ⟨0x30, 8, 0, 32, false⟩, ⟨0x30, 16, 0, 2, false⟩, ⟨0x34, 0, 100, 10000, false⟩,
    ⟨0x34, 16, 5, 80, false⟩, ⟨0x38, 0, 1, 255, false⟩]
  else []

/-- Field rules of the digital input and output pages (R371, R372, R381, R382). -/
def rulesDio (p : Nat) : List FldRule :=
  if p = 0x26 then [⟨0x38, 0, 1, 255, false⟩, ⟨0x108, 0, 1, 255, false⟩]
  else [⟨0x3C, 0, 20, 1000, false⟩, ⟨0x3C, 16, 1, 255, false⟩, ⟨0x100, 0, 0, 2, false⟩, ⟨0x100, 3, 0, 2, false⟩,
    ⟨0x100, 5, 0, 2, false⟩, ⟨0x100, 16, 1, 65535, false⟩, ⟨0x108, 0, 0, 0, false⟩]

/-- Field rules of the timer pages (R384, R385, R397, R400, R402, R407 to R409). -/
def rulesTmr (p : Nat) : List FldRule :=
  if p = 0x2C then [⟨0x100, 0, 25000, 2500000, false⟩]
  else [⟨0x100, 0, 0, 4, false⟩, ⟨0x100, 6, 0, 2, false⟩, ⟨0x100, 12, 0, 4, false⟩, ⟨0x100, 17, 0, 2, false⟩,
    ⟨0x104, 0, 0x10000, 0xFFFFFFFF, false⟩, ⟨0x140, 0, 0, 2, false⟩, ⟨0x140, 7, 0, 2, false⟩]

/-- Field rules of the CAN and network-management pages (R425, R444, R445, R454, R468, R469). -/
def rulesCan (p : Nat) : List FldRule :=
  if p = 0x38 then [⟨0x104, 0, 2, 15, false⟩, ⟨0x104, 8, 10, 255, false⟩]
  else if p = 0x39 then [⟨0x100, 3, 0, 2, false⟩, ⟨0x104, 0, 10, 65535, false⟩, ⟨0x108, 0, 1, 65535, false⟩,
    ⟨0x108, 16, 1, 65535, false⟩]
  else if p = 0x3A then [⟨0x100, 4, 2, 16, false⟩, ⟨0x110, 0, 1, 255, false⟩, ⟨0x110, 8, 1, 255, false⟩]
  else [⟨0x100, 0, 0, 2, false⟩, ⟨0x100, 8, 0, 2, false⟩, ⟨0x100, 16, 0, 128, false⟩]

/-- Field rules of the switch pages and of RRA (R66, R506 to R511). -/
def rulesSw (p : Nat) : List FldRule :=
  if p = 0x40 then [⟨0x100, 8, 1, 255, false⟩, ⟨0x100, 16, 1522, 9216, false⟩, ⟨0x128, 6, 0, 2, false⟩]
  else if 0x41 ≤ p ∧ p ≤ 0x46 then [⟨0x100, 16, 0, 2, false⟩, ⟨0x140, 16, 1, 8192, false⟩, ⟨0x1F0, 0, 0, 0, false⟩]
  else if p = 0x47 then [⟨0x104, 0, 2, 1024, true⟩]
  else if p = 0x48 then [⟨0x100, 1, 0, 5, false⟩, ⟨0x100, 8, 0, 5, false⟩, ⟨0x100, 12, 0, 3, false⟩, ⟨0x100, 16, 2, 15, false⟩,
    ⟨0x100, 24, 10, 255, false⟩]
  else if p = 0x49 then [⟨0x10C, 0, 1000, 1000000000, false⟩, ⟨0x110, 0, 0, 256, false⟩, ⟨0x300, 0, 0, 5, false⟩,
    ⟨0x304, 8, 4, 0xFFFFFF, false⟩]
  else if p = 0x4A then [⟨0x118, 17, 0, 2, false⟩, ⟨0x118, 24, 1, 255, false⟩]
  else if p = 0x4B then [⟨0x108, 1, 0, 4, false⟩, ⟨0x200, 0, 0, 4, false⟩, ⟨0x200, 4, 0, 4, false⟩]
  else []

/-- Field rules of the access pages (R512, R517, R536 to R538). -/
def rulesAcc (p : Nat) : List FldRule :=
  if p = 0x0F then [⟨0x100, 8, 1, 15, false⟩]
  else if p = 0x0E then [⟨0x100, 1, 0, 2, false⟩, ⟨0x108, 0, 5, 255, false⟩, ⟨0x118, 0, 1, 12, false⟩, ⟨0x124, 8, 0, 55, false⟩,
    ⟨0x124, 16, 1, 65535, false⟩]
  else [⟨0x60, 0, 1, 3, false⟩]

/-- Field rules of the remaining SAFE pages and of the CORE and device pages (R120, R122, R154, R236, R542, R560, R571,
R577, R587, R609, R611, R633, R654). -/
def rulesDev (p : Nat) : List FldRule :=
  if p = 0x01 then [⟨0x104, 8, 1, 255, false⟩, ⟨0x108, 0, 5, 255, false⟩, ⟨0x10C, 0, 1, 255, false⟩, ⟨0x10C, 8, 1, 255, false⟩]
  else if p = 0x02 then [⟨0x100, 0, 0, 2, false⟩, ⟨0x10C, 0, 1, 255, false⟩, ⟨0x118, 0, 1, 255, false⟩, ⟨0x118, 8, 1, 255, false⟩,
    ⟨0x11C, 24, 5, 255, false⟩, ⟨0x120, 0, 1, 255, false⟩, ⟨0x120, 8, 1, 255, false⟩, ⟨0x140, 16, 1, 255, false⟩,
    ⟨0x150, 0, 1, 255, false⟩, ⟨0x150, 8, 1, 15, false⟩]
  else if p = 0x06 then [⟨0x120, 0, 5, 200, false⟩, ⟨0x140, 0, 0, 0xD3, false⟩, ⟨0x180, 16, 0, 0xD3, false⟩, ⟨0x200, 0, 0, 4, false⟩]
  else if p = 0x07 then [⟨0x100, 8, 1, 255, false⟩, ⟨0x114, 0, 0xA00, 0xFFF, false⟩, ⟨0x120, 0, 1, 255, false⟩,
    ⟨0x120, 8, 1, 65535, false⟩, ⟨0x160, 0, 0, 319, false⟩, ⟨0x164, 0, 0, 2, false⟩, ⟨0x164, 2, 0, 2, false⟩,
    ⟨0x16C, 0, 1, 0x7FFFFFFF, false⟩, ⟨0x170, 0, 0, 319, false⟩, ⟨0x178, 0, 0, 319, false⟩, ⟨0x184, 0, 0xC1EA, 0xC1EA, false⟩]
  else if p = 0x08 then [⟨0x100, 0, 1, 255, false⟩, ⟨0x100, 8, 1, 255, false⟩, ⟨0x108, 0, 720, 950, false⟩,
    ⟨0x108, 16, 720, 950, false⟩, ⟨0x10C, 0, 1, 4, false⟩, ⟨0x110, 0, 5, 100, false⟩, ⟨0x110, 8, 50, 100, false⟩,
    ⟨0x140, 0, 0, 59, false⟩]
  else if p = 0x09 then [⟨0x100, 0, 62500, 2500000, false⟩, ⟨0x104, 0, 500, 25000, false⟩, ⟨0x108, 0, 50, 95, false⟩,
    ⟨0x10C, 0, 1, 15, false⟩, ⟨0x110, 8, 1, 250, false⟩, ⟨0x114, 0, 25, 62500, false⟩, ⟨0x13C, 0, 0, 0, false⟩]
  else if p = 0x0A then [⟨0x100, 0, 0, 256, false⟩, ⟨0x108, 0, 0, 0, false⟩]
  else if p = 0x0B then [⟨0x148, 0, 0, 0, false⟩]
  else if p = 0x50 then [⟨0x124, 3, 0, 2, false⟩]
  else if p = 0x51 then [⟨0x100, 0, 1, 20, false⟩]
  else []

/-- The field rules of a page. -/
def fldRules (p : Nat) : List FldRule :=
  if 0x0D ≤ p ∧ p ≤ 0x0F then rulesAcc p
  else if p = 0x0C then rulesMsh
  else if p ≤ 0x0B ∨ p = 0x50 ∨ p = 0x51 then rulesDev p
  else if p ≤ 0x17 then rulesLsw p
  else if p ≤ 0x1C then rulesVd p
  else if p ≤ 0x1F then rulesHb p
  else if p ≤ 0x22 then rulesLight p
  else if p ≤ 0x26 then rulesDio p
  else if p ≤ 0x2C then rulesTmr p
  else if p ≤ 0x3A then rulesCan p
  else rulesSw p

/-- Whether a field's value is accepted. -/
def FldRule.accepts (r : FldRule) (v : Nat) : Bool :=
  (r.zero && decide (v = 0)) || (decide (r.least ≤ v) && decide (v ≤ r.most))

/-- Whether a row's field of a word holds an accepted value. -/
def rowOk (p : Nat) (r : RegRow) (w : Word) : Bool :=
  (fldRules p).all (fun f => decide (f.off ≠ r.off) || decide (f.lo ≠ r.lo) || f.accepts (bitsOf w r.lo r.width))

/-! Words of several fields. -/

/-- Two-bit codes of a fail-safe pattern: no code reaches `bad` (R231, R297, R318, R349, R377). -/
def codesBelow (bad : Nat) (w : Word) : Bool := (List.range 16).all (fun j => decide (bitsOf w (2 * j) 2 < bad))

/-- Whether the word at an offset holds fail-safe codes, and the lowest code it refuses. -/
def patCode (p off : Nat) : Option Nat :=
  if p = 0x17 then (if 0x100 ≤ off ∧ off < 0x140 then some 3 else none)
  else if p = 0x1C then (if 0x110 ≤ off ∧ off < 0x120 then some 3 else none)
  else if p = 0x1F then (if 0x104 ≤ off ∧ off < 0x114 then some 3 else none)
  else if p = 0x20 then (if 0x60 ≤ off ∧ off < 0xA0 ∧ off % 16 < 12 then some 3 else none)
  else if p = 0x21 then (if 0x50 ≤ off ∧ off < 0x60 then some 2 else none)
  else if p = 0x26 then (if 0x40 ≤ off ∧ off < 0x50 then some 3 else none)
  else none

/-- Whether the word at an offset holds RETRY, RTRINT, DEFLIM and OLTIME as one field (R324, R356, R382). -/
def isLim (p off : Nat) : Bool :=
  ((p = 0x1D || p = 0x1E) && decide (0x100 ≤ off) && decide (off % 0x80 = 0x0C)) || (p = 0x21 && off = 0x3C)
    || (p = 0x26 && decide (0x100 ≤ off) && decide (off % 0x80 = 4))

/-- The bits of a word that the module holds where one row covers reserved bits as well; the rest read zero
(R242, R267, R301, R357, R444). -/
def heldBits (p off : Nat) : Word :=
  if isLim p off then 0xFFFFFF0F
  else if p = 0x17 ∧ off < 0x140 ∧ off % 16 = 12 then 0x0000FFFF
  else if p = 0x0C ∧ off = 0x154 then 0x00FFFFFF
  else if 0x30 ≤ p ∧ p ≤ 0x37 ∧ off = 0x104 then 0x7F7FFF1F
  else if 0x30 ≤ p ∧ p ≤ 0x37 ∧ off = 0x108 then 0x0F0F1F1F
  else if p = 0x21 ∧ off = 0x144 then 0x01FF3F3F
  else if 0x41 ≤ p ∧ p ≤ 0x46 ∧ off = 0x104 then 0x77777777
  else if 0x43 ≤ p ∧ p ≤ 0x46 ∧ off = 0x1D0 then 0
  else 0xFFFFFFFF

/-- Whether an address lies in a region with fetch access (R41). -/
def canFetch (a : Nat) : Bool :=
  decide (a < 0x100000) || (decide (0x200000 ≤ a) && decide (a < 0x2E0000))
    || (decide (0x10000000 ≤ a) && decide (a < 0x10800000)) || (decide (0x20000000 ≤ a) && decide (a < 0x20010000))

/-- Pages that can consume a Baton queue (R429, R573). -/
def canConsume (p : Nat) : Bool := p = 0 || p = 7 || (decide (0x30 ≤ p) && decide (p ≤ 0x37))

/-- Whether a class configuration is accepted (R544). -/
def clsCfgOk (c ini esc grace : Nat) : Bool :=
  decide (ini ≤ 5) && decide (esc ≤ 5) && decide (ini ≤ esc) && (c = 0 || decide (1 ≤ ini)) && (c ≠ 3 || decide (4 ≤ esc))
    && (c ≠ 4 || ini = 4) && (decide (esc ≤ ini) || decide (0 < grace))

/-- Whether a pool of buffers fits below 0x002E_0000: offset in 16-byte units, count, and buffer size. -/
def poolFits (base count size : Nat) : Bool := count = 0 || decide (0x200000 + 16 * base + count * size ≤ 0x2E0000)

/-- Whether a word whose fields interlock is accepted (R154, R412, R428, R487, R508, R510, R537, R544, R577). -/
def wordOk (p off : Nat) (w : Word) : Bool :=
  (match patCode p off with
    | some bad => codesBelow bad (w &&& heldBits p off)
    | none => true)
  && (!isLim p off || (decide (0 < bitsOf w 8 8) && decide (0 < bitsOf w 16 8) && decide (0 < bitsOf w 24 8)))
  && (if p = 0x06 ∧ 0x100 ≤ off ∧ off < 0x114 then
        clsCfgOk ((off - 0x100) / 4) (bitsOf w 0 3) (bitsOf w 4 3) (bitsOf w 8 16)
      else if p = 0x06 ∧ (off = 0x200 + 4 * 0x1B ∨ off = 0x200 + 4 * 0x1F) then bitsOf w 0 3 = 4
      else if p = 0x07 ∧ off = 0x164 then
        decide (0x100 ≤ bitsOf w 16 16) && decide (bitsOf w 16 16 ≤ 0x1FFF) && decide (bitsOf w 16 16 % 2 ^ bitsOf w 2 2 = 0)
      else if p = 0x07 ∧ off = 0x118 then true
      else if p = 0x0A ∧ 0x100 ≤ off ∧ off < 0x500 ∧ off % 0x20 = 0 then canConsume (bitsOf w 24 8)
      else if p = 0x0B ∧ (off = 0x100 ∨ off = 0x104) then canFetch (w.toNat / 512 * 512)
      else if p = 0x0B ∧ off = 0x108 then canFetch (w.toNat / 2 * 2)
      else if p = 0x0E ∧ off = 0x114 then
        decide (w.toNat % 8 = 0) && decide (0x200000 ≤ w.toNat) && decide (w.toNat < 0x2E0000)
      else if p = 0x0E ∧ off = 0x120 then
        decide (w.toNat % 16 = 0) && decide (0x200000 ≤ w.toNat) && decide (w.toNat < 0x2DFFC0)
      else if p = 0x21 ∧ off = 0x144 then decide (0 < bitsOf w 16 8)
      else if 0x30 ≤ p ∧ p ≤ 0x37 ∧ off = 0x104 then decide (0 < bitsOf w 8 8) && decide (0 < bitsOf w 16 7)
      else if 0x30 ≤ p ∧ p ≤ 0x37 ∧ off = 0x114 then poolFits (bitsOf w 0 16) (bitsOf w 16 8) 96
      else if p = 0x40 ∧ off = 0x114 then poolFits (bitsOf w 0 16) (bitsOf w 16 8) 272
      else if p = 0x40 ∧ off = 0x128 then decide (bitsOf w 6 2 ≠ 2) || decide (bitsOf w 5 1 = 1)
      else if 0x41 ≤ p ∧ p ≤ 0x42 ∧ off = 0x1D0 then bitAt w.toNat 7
      else if 0x43 ≤ p ∧ p ≤ 0x46 ∧ off = 0x100 then !bitAt w.toNat 18
      else if p = 0x47 ∧ 0x100 ≤ off ∧ off < 0x180 ∧ off % 16 = 0 then
        decide (w.toNat % 16 = 0) && decide (0x200000 ≤ w.toNat) && decide (w.toNat < 0x2E0000)
      else true)

/-- Whether a page's `OWN` accepts only 0 (R36, R66, R119, R153, R266, R404, R505, R536, R538, R560, R571, R587, R608, R632,
R640, R654, R661, R680, R695). -/
def ownFixed (p : Nat) : Bool :=
  p ≤ 0x09 || p = 0x0B || p = 0x0C || p = 0x0D || p = 0x0F || p = 0x2C || (decide (0x40 ≤ p) && decide (p ≤ 0x51))

/-- The bits of `OWN` that a page holds (R45, R383). -/
def ownBits (p : Nat) : Word :=
  if 0x28 ≤ p ∧ p ≤ 0x2B then 0x1FF
  else if p = 0x0D ∨ p = 0x0F then 1
  else if 32 ≤ pageUnits p then 0xFFFFFFFF
  else maskOf 0 (max 1 (pageUnits p))

/-- Whether the fields of a page's header hold accepted values (R45 and the chapters' pages). -/
def hdrOk (p off : Nat) (w : Word) : Bool :=
  if off = 0x28 then !ownFixed p || (w &&& ownBits p) = 0
  else if off = 8 ∧ p = 0x2C then !bitAt w.toNat 2
  else true

/-- Whether every field of a word that `m` touches holds an accepted encoding. -/
def encOk (p off : Nat) (w m : Word) : Bool :=
  ((rowsAt p off).filter (fun r => decide (m &&& maskOf r.lo r.width ≠ 0))).all (fun r => rowOk p r w)
    && wordOk p off w && hdrOk p off w

/-! Rules that relate fields of several words. -/

/-- A rule between fields: the words whose write it is checked at, the fields it names, and whether it holds. -/
structure Relation where
  at_ : List (Nat × Nat)
  flds : (Fld → Nat) → List Fld
  ok : (Fld → Nat) → Bool

/-- The words of some fields. -/
def wordsOf (fs : List Fld) : List (Nat × Nat) := fs.map (fun f => (f.page, f.off))

/-- A relation that is checked at every word of its fields. -/
def rel (fs : List Fld) (ok : (Fld → Nat) → Bool) : Relation := { at_ := wordsOf fs, flds := fun _ => fs, ok := ok }

/-- `2 ^ n` bits: whether a number is among those below it. -/
def nodup (l : List Nat) : Bool := decide (l.Nodup)

/-- Who a unit's followers step: following the leaders of STEP units from `u` returns to `u` (R401). -/
def stepLoop (v : Fld → Nat) (u : Nat) : Bool :=
  let next := fun (x : Option Nat) => match x with
    | some y => if v (TMR.FOLLOW y) = 3 then some (v (TMR.LEAD y)) else none
    | none => none
  let a := next (some u)
  let b := next a
  let c := next b
  let d := next c
  (a = some u) || (b = some u) || (c = some u) || (d = some u)

/-- The configuration rules between timers (R401). -/
def tmrCfgOk (v : Fld → Nat) : Bool :=
  (List.range 4).all (fun u =>
    (v (TMR.FOLLOW u) = 0 || v (TMR.LEAD u) ≠ u) && !stepLoop v u
      && (v (TMR.FOLLOW u) ≠ 1 || v (TMR.LOUT (v (TMR.LEAD u))) = 1)
      && (!bitAt (v STG.TSTAG_UNITS) u || v (TMR.FOLLOW u) = 0))

/-- Whether a CAN controller's bit timing can be enabled (R412, R413), rates compared as products over 100 MHz. -/
def canRatesOk (v : Fld → Nat) (x : Nat) : Bool :=
  let n := BitVec.ofNat 32 (v (CAN.NBT x))
  let d := BitVec.ofNat 32 (v (CAN.DBT x))
  let nt := (bitsOf n 0 5 + 1) * (3 + bitsOf n 8 8 + bitsOf n 16 7)
  let dt := (bitsOf d 0 5 + 1) * (3 + bitsOf d 8 5 + bitsOf d 16 4)
  let fd := v (CAN.FDEN x) = 1
  decide (100 ≤ nt) && decide (nt ≤ 10000) && decide (bitsOf n 24 7 ≤ bitsOf n 16 7) && decide (bitsOf d 24 4 ≤ bitsOf d 16 4)
    && (!fd || (decide (20 ≤ dt) && decide (dt ≤ nt) && (decide (100 ≤ dt) || v (CAN.TDCEN x) = 1)))

/-- Rules of POWER and SENSE pages (R208, R242, R267, R346, R356, R361). -/
def relPower : List Relation :=
  [ rel [MSH.VSAG, MSH.VRECOV, MSH.VFLOOR]
      (fun v => decide (v MSH.VSAG < v MSH.VRECOV) && decide (v MSH.VRECOV ≤ v MSH.VFLOOR)),
    rel [LSWC.PAIR, LSWC.QUAD] (fun v => (List.range 26).all (fun j => !bitAt (v LSWC.PAIR) j || !bitAt (v LSWC.QUAD) (j / 2))),
    rel [LMX.SLOT, LMX.BLANK] (fun v => decide (4 * v LMX.BLANK ≤ v LMX.SLOT)),
    { at_ := [(0x21, 0x28)], flds := fun _ => [LMX.ROWS, Hdr.OWN 0x21],
      ok := fun v => let m := v (Hdr.OWN 0x21) % 2 ^ v LMX.ROWS; m = 0 || m = 2 ^ v LMX.ROWS - 1 } ]
  ++ (List.range 4).map (fun g => rel [LSWC.PER g, LSWC.PHASE g] (fun v => decide (v (LSWC.PHASE g) < v (LSWC.PER g))))
  ++ (List.range 64).map (fun i => rel [DIN.TYPE i, DIN.WET i] (fun v => v (DIN.WET i) = 0 || v (DIN.TYPE i) = 2))

/-- Rules of NET and CORE pages (R401, R413, R446, R452, R469, R481, R506, R511). -/
def relNet : List Relation :=
  [ rel [NMB.LAPTO, NMB.CMTTO] (fun v => decide (v NMB.LAPTO ≤ v NMB.CMTTO)),
    rel ((List.range 6).flatMap (fun p => (List.range 8).map (fun q => PT.RES p q)))
      (fun v => decide (((List.range 6).flatMap (fun p => (List.range 8).map (fun q => v (PT.RES p q)))).sum ≤ 8192)),
    rel ((List.range 64).flatMap (fun i => [SWC.VLAN_VID i, SWC.VLAN_VALID i]))
      (fun v => nodup (((List.range 64).filter (fun i => v (SWC.VLAN_VALID i) = 1)).map (fun i => v (SWC.VLAN_VID i)))),
    { at_ := (List.range 4).map (fun u => (0x28 + u, 0x100)),
      flds := fun _ => (List.range 4).flatMap (fun u => [TMR.FOLLOW u, TMR.LEAD u, TMR.LOUT u]), ok := tmrCfgOk },
    { at_ := [], flds := fun _ => [SFL.METEN, SFL.CBSZ], ok := fun v => v SFL.METEN = 0 || v SFL.CBSZ ≠ 0 } ]
  ++ (List.range 8).map (fun x => rel [NMK.KAPER x, NMK.TIMEOUT x] (fun v => decide (2 * v (NMK.KAPER x) ≤ v (NMK.TIMEOUT x))))
  ++ (List.range 8).map (fun x =>
    { at_ := [(0x39, 0x100 + 0x20 * x)], flds := fun v => [NMK.NMEN x, NMK.TXQ x, BQ.HWC (v (NMK.TXQ x))],
      ok := fun v => v (NMK.NMEN x) = 0 || v (BQ.HWC (v (NMK.TXQ x))) = 0x30 + x })
  ++ (List.range 8).map (fun x =>
    { at_ := [(0x30 + x, 8)], flds := fun _ => [Hdr.EN (0x30 + x), CAN.FDEN x, CAN.TDCEN x, CAN.NBT x, CAN.DBT x],
      ok := fun v => v (Hdr.EN (0x30 + x)) = 0 || canRatesOk v x })

/-- Rules of SAFE pages (R571). -/
def relSafe : List Relation :=
  [ rel [AGE.MCRIT, AGE.MLO, AGE.MHI] (fun v => decide (v AGE.MCRIT < v AGE.MLO) && decide (v AGE.MLO < v AGE.MHI)),
    rel [AGE.VMIN, AGE.VMAX] (fun v => decide (v AGE.VMIN ≤ v AGE.VMAX)) ]

/-- Every rule between fields. -/
def relations : List Relation := relPower ++ relNet ++ relSafe

/-- The rules between fields that a write of a word is checked against. -/
def relOk (p off : Nat) (v : Fld → Nat) : Bool :=
  relations.all (fun r => !((p, off) ∈ r.at_ : Bool) || r.ok v)

end Sys2Proof.Machine
end

