-- ==== Sys2Proof/Machine/Boot.lean ====
section
/-! DEFINITION. Warm-up: factory area, configuration image, clock ramp, firmware images, and the embedded NV
(R592 to R595, R638 to R661). -/
namespace Sys2Proof.Machine

/-! The configuration image (R657 to R660). -/

/-- The addresses of configuration copies A and B (R638). -/
def cfgCopy (i : Nat) : Nat := if i = 0 then 0x10600000 else 0x10610000

/-- SEQ and record count of a copy, where it is valid (R657, R658). -/
def State.cfgValid (s : State) (a : Nat) : Option (Nat × Nat) :=
  let n := s.le (a + 0xC) 4
  let l := s.le (a + 0x10) 4
  let seq := s.le (a + 8) 4
  if s.le a 4 = 0x4746435A ∧ s.le (a + 4) 2 = 1 ∧ s.le (a + 6) 2 = 0x20 ∧ 1 ≤ seq ∧ seq ≤ 0xFFFFFFFE ∧ n ≤ 5458
      ∧ l = 36 + 12 * n ∧ s.le (a + 0x14) 4 = 0x0101 ∧ s.le (a + 0x1C) 4 = 0 ∧ s.le (a + l - 4) 4 = crc32 (s.bytes a (l - 4)) then
    some (seq, n)
  else none

/-- The copy that Warm-up applies: the valid one of higher SEQ, A where they are equal (R658). -/
def State.cfgChoice (s : State) : Option (Nat × Nat × Nat) :=
  match s.cfgValid (cfgCopy 0), s.cfgValid (cfgCopy 1) with
  | some a, some b => if a.1 < b.1 then some (1, b) else some (0, a)
  | some a, none => some (0, a)
  | none, some b => some (1, b)
  | none, none => none

/-- A record of the image (R657). -/
structure ImgRec where
  index : Nat
  page : Nat
  zero : Nat
  off : Nat
  value : Word
  mask : Word
  deriving DecidableEq, Repr

/-- The records of a copy. -/
def State.imgRecs (s : State) (a n : Nat) : List ImgRec :=
  (List.range n).map (fun r =>
    let b := a + 0x20 + 12 * r
    { index := r, page := s.le b 1, zero := s.le (b + 1) 1, off := s.le (b + 2) 2, value := BitVec.ofNat 32 (s.le (b + 4) 4),
      mask := BitVec.ofNat 32 (s.le (b + 8) 4) })

/-- The bits of a word that the image can carry (R659, R660). -/
def imgBits (p off : Nat) : Word :=
  let w := ((rowsAt p off).filter (·.img)).foldl (fun m r => m ||| maskOf r.lo r.width) 0
  let w := w &&& heldBits p off
  if off = 0x28 then w &&& ownBits p else if off = 0x2C ∧ p ≠ 0x20 then 0 else w

/-- The word of a record over the values applied before it. -/
def ImgRec.over_ (r : ImgRec) (img : Sparse Word) : Word :=
  (look (resetWord r.page r.off) img (regKey r.page r.off) &&& ~~~ r.mask) ||| (r.value &&& r.mask)

/-- Whether a record is skipped (R659, step 2). A page that refuses a write of 0 to its EN refuses it here as well. -/
def ImgRec.skip (r : ImgRec) (img : Sparse Word) : Bool :=
  let w := r.over_ img
  !pagePresent r.page || decide (r.zero ≠ 0) || decide (r.off % 4 ≠ 0) || decide (r.mask &&& ~~~ imgBits r.page r.off ≠ 0)
    || !encOk r.page r.off w r.mask || (decide (r.off = 8) && runsAlways r.page && !bitAt w.toNat 0)

/-- Steps 1 and 2 of R659: the reset values that the records set, and the records skipped. -/
def applyRecs (rs : List ImgRec) : Sparse Word × List Nat :=
  rs.foldl (fun (acc : Sparse Word × List Nat) r =>
    if r.skip acc.1 then (acc.1, acc.2 ++ [r.index])
    else (store (resetWord r.page r.off) (regKey r.page r.off) (r.over_ acc.1) acc.1, acc.2)) ([], [])

/-- A field under the image. -/
def imgFld (img : Sparse Word) (f : Fld) : Nat := bitsOf (look (resetWord f.page f.off) img (regKey f.page f.off)) f.lo f.width

/-- Step 3 of R659: the fields of a rule that the result breaks keep their factory values, and the records that set them
count as skipped. -/
def applyRels (rs : List ImgRec) (acc : Sparse Word × List Nat) : Sparse Word × List Nat :=
  relations.foldl (fun (acc : Sparse Word × List Nat) (r : Relation) =>
    if r.ok (imgFld acc.1) then acc
    else
      let fs := r.flds (imgFld acc.1)
      let img := fs.foldl (fun m f =>
        let w := look (resetWord f.page f.off) m (regKey f.page f.off)
        store (resetWord f.page f.off) (regKey f.page f.off)
          (withBits w f.lo f.width (bitsOf (resetWord f.page f.off) f.lo f.width)) m) acc.1
      let bad := (rs.filter (fun r => fs.any (fun f => decide (f.page = r.page) && decide (f.off = r.off)
        && decide (r.mask &&& maskOf f.lo f.width ≠ 0)))).map (·.index)
      (img, acc.2 ++ bad.filter (fun i => !acc.2.contains i))) acc

/-- The image's reset values reach the registers; those of the KEEP domain keep what they hold unless power has been
away (R16, R659). -/
def State.loadImg (s : State) : State :=
  let kept := fun (e : Nat × Word) => decide (s.get BOOT.CAUSE ≠ causeVpor)
    && keepFields.any (fun f => decide (regKey f.page f.off = e.1))
  s.img.foldl (fun s e => if kept e then s else s.wr (e.1 / 0x1000) (e.1 % 0x1000) e.2) s

/-- The image is chosen and applied; without a valid copy the factory values stand (R658, R659). RLEARN starts from RSRC
(R250). -/
def State.applyImage (s : State) : State :=
  match s.cfgChoice with
  | none => (s.put BOOT.IMGFB 1).detect 0x11 0
  | some (i, seq, n) =>
    let rs := s.imgRecs (cfgCopy i) n
    let r := applyRels rs (applyRecs rs)
    let s := ((s.put BOOT.CFGSEL i).put BOOT.CFGSEQ seq).put BOOT.COUNT r.2.length
    let s := if r.2.isEmpty then s else (s.put BOOT.FIRST (r.2.foldl min 0xFFFF)).evt 0x04 1
    let s := { s with img := r.1 }.loadImg.loadStream
    s.put MSH.RLEARN (s.get MSH.RSRC)

/-! Factory area, Vault and Lane link (R528, R531, R641, R655). -/

/-- Vault records that fail their CRC: token slots 0 to 15, key slots from 16 on (R531). -/
def State.vaultCheck (s : State) (bad : List Nat) : State :=
  bad.foldl (fun s k =>
    let s := s.setVault (fun v =>
      if k < 16 then { v with slots := v.slots.filter (fun e => decide (e.1 ≠ k)) }
      else { v with keys := v.keys.filter (fun e => decide (e.1 ≠ k - 16)) })
    s.detect 0x25 (k % 16)) s

/-- Both power dies take the patterns of the image, and the Lane link resynchronises (R40, R655). -/
def State.loadDies (s : State) (t : Nat) : State :=
  (List.range 2).foldl (fun s d =>
    let s := (s.setDie d (fun x => { x with reset := true, safe := false, clus := false, replay := false })).put (fFsBit d) 1
    let s := (unitsOf d).foldl (fun s u => s.enterFs u) s
    let s := if (s.die d).lockout || (s.die d).gnd then s else (s.diePattern d t).armHeat d t
    if (s.die d).lockout || (s.die d).gnd then s else s.linkBack d t) s

/-- VREQ as the archive holds it, where a commit is valid (R565, R572, R628). -/
def State.archivedVreq (s : State) : Option Nat :=
  let s := { s with regs := [] }
  let b := s.bookReload 0
  match b.book.commit with
  | some _ => some (b.le (recBase + 0xC4A) 2)
  | none => none

/-- VOUT_MODE is read, and VCORE requested (R628, R655). -/
def State.regWarm (s : State) (mode t : Nat) : State :=
  let ok := decide (mode / 32 = 0)
  let s := (s.put PWR.VOUTMODE mode).setPwr (fun p => { p with regOk := ok })
  let v := if s.get BOOT.CAUSE = causeVpor then s.archivedVreq.getD (s.get AGE.VREQ) else s.get AGE.VREQ
  if ok then s.regAsk v 0 else ((s.evt 0x02 4).detect 0x08 0).reach t

/-- Warm-up ends in recovery (R656). -/
def State.recover (s : State) : State := { s.put BOOT.RECOVERY 1 with boot := { s.boot with phase := .recovery } }

/-! Firmware images (R642 to R644). -/

/-- The address of firmware image A or B (R638). -/
def fwImage (i : Nat) : Nat := if i = 0 then 0x10000000 else 0x10300000

/-- The segments of an image: destination, offset and length (R642). -/
def State.fwSegs (s : State) (a : Nat) : List (Nat × Nat × Nat) :=
  (List.range (s.le (a + 0x14) 1)).map (fun k => (s.le (a + 0x30 + 12 * k) 4, s.le (a + 0x34 + 12 * k) 4, s.le (a + 0x38 + 12 * k) 4))

/-- Whether a segment may be copied to [d, d + n) (R643). -/
def segPlace (d n : Nat) : Bool :=
  decide (d + n ≤ 0x100000) || (decide (0x100000 ≤ d) && decide (d + n ≤ 0x180000)) || (decide (0x200000 ≤ d) && decide (d + n ≤ 0x2E0000))

/-- Whether the bytes of [a, b) are zero. -/
def State.zeros (s : State) (a n : Nat) : Bool := (s.bytes a n).all (fun b => decide (b = 0))

/-- The header check (R642, R643). -/
def State.fwHeaderOk (s : State) (a : Nat) : Bool :=
  let plen := s.le (a + 8) 4
  let n := s.le (a + 0x14) 1
  let segs := s.fwSegs a
  decide (s.le a 4 = 0x46575A53) && decide (s.le (a + 4) 2 = 1) && decide (s.le (a + 6) 2 = 0x100) && decide (plen % 16 = 0)
    && decide (plen ≤ 3145472) && decide (s.le (a + 0xC) 1 ≤ 63) && s.zeros (a + 0xD) 3 && decide (1 ≤ n) && decide (n ≤ 8)
    && s.zeros (a + 0x15) 3 && s.zeros (a + 0x2C) 4 && s.zeros (a + 0x30 + 12 * n) (0x60 - 12 * n) && s.zeros (a + 0xF0) 16
    && segs.all (fun g => decide (g.2.2 % 4 = 0) && decide (g.2.1 + g.2.2 ≤ plen) && segPlace g.1 g.2.2)
    && (List.range n).all (fun i => (List.range n).all (fun j => decide (i ≤ j)
      || (match segs[i]?, segs[j]? with
          | some g, some h => decide (g.1 + g.2.2 ≤ h.1) || decide (h.1 + h.2.2 ≤ g.1)
          | _, _ => true)))
    && decide (s.le (a + 0x18) 4 % 2 = 0) && canFetch (s.le (a + 0x18) 4)
    && decide (s.le (a + 0x1C) 4 % 512 = 0) && canFetch (s.le (a + 0x1C) 4)
    && decide (s.le (a + 0x20) 4 % 512 = 0) && canFetch (s.le (a + 0x20) 4)
    && decide (s.le (a + 0x24) 4 % 2 = 0) && canFetch (s.le (a + 0x24) 4) && decide (s.le (a + 0x28) 4 % 4 = 0)

/-- The segments reach their destinations. -/
def State.fwCopy (s : State) (a : Nat) : State :=
  (s.fwSegs a).foldl (fun s g => s.setBytes g.1 (s.bytes (a + 0x100 + g.2.1) g.2.2)) s

/-- Their destinations are zero-filled. -/
def State.fwErase (s : State) (a : Nat) : State := (s.fwSegs a).foldl (fun s g => s.zero g.1 (g.1 + g.2.2)) s

/-- One image is tried: its code of R643, and the state with its segments copied or zero-filled. -/
def State.fwTry (s : State) (i : Nat) (ecc : Bool) : Nat × State :=
  let a := fwImage i
  let fail := fun (c : Nat) (s : State) => (c, s.fwErase a)
  if !s.fwHeaderOk a then (if ecc then (5, s.detect 0x13 0) else (1, s))
  else if ecc then fail 5 (s.detect 0x13 0)
  else if s.le (a + 0xC) 1 < s.boot.svmin then (2, s)
  else if shaOf (s.bytes (a + 0x100) (s.le (a + 8) 4)) ≠ s.bytes (a + 0x90) 32 then fail 3 s
  else if !Config.ecdsaVerify Config.factoryKey (shaOf (s.bytes a 0xB0)) (s.bytes (a + 0xB0) 64) then fail 4 s
  else (0, s.fwCopy a)

/-- An image is accepted. -/
def State.fwAccept (s : State) (i : Nat) : State :=
  let a := fwImage i
  let s := ((s.put BOOT.FWSEL i).put BOOT.FWVER (s.le (a + 0x10) 4)).put BOOT.SV (s.le (a + 0xC) 1)
  { s with boot := { s.boot with phase := .verified, image := i } }

/-! The start of the Service context (R655). -/

/-- The Pacer halts with a cause of R650. Whether ticks are suspended rests on `FRZ` as it stands at the halt: a later write
changes nothing for a halt in progress (R72; DESIGN CHOICE, log entry 76). -/
def State.pacHalt (s : State) (ctx cause pc t : Nat) : State :=
  let s := ((s.put DBG.HALTED 1).put DBG.STAT_CTX ctx).put DBG.CAUSE cause
  let s := (s.count DBG.HALTCNT).put DBG.HALTPC pc
  let s := { s with pac := { s.pac with haltAt := t } }
  if s.flag (Hdr.FRZ 0x09) then { s with stride := { s.stride with suspended := some t } } else s

/-- Warm-up completes: the PAC registers from the image's header, the Service context at SVCENTRY, ticks from LENACT
later (R655). -/
def State.startService (s : State) (t : Nat) : State :=
  let a := fwImage s.boot.image
  let pc := s.le (a + 0x24) 4
  let sp := s.le (a + 0x28) 4
  let s := ((s.put PAC.STRENTRY (s.le (a + 0x18) 4 / 2)).put PAC.VBAR (s.le (a + 0x1C) 4 / 512)).put PAC.SVBAR (s.le (a + 0x20) 4 / 512)
  let s := (s.put (Hdr.EN 0x09) 1).put STR.LENACT (s.get STR.LEN)
  let s := { s with
    pac := { pacReset with svc := { ctxReset with pc := pc, sp := sp, fp := sp, pg := 0x40000000 }, started := true,
                           svbar := s.le (a + 0x20) 4 },
    stride := { s.stride with running := true, nextTick := s.splitAt t + s.get STR.LENACT },
    boot := { s.boot with phase := .done } }
  if s.flag DBG.HALTBOOT then s.pacHalt 0 5 pc t else s

/-! NV and lifecycle (R638, R639, R644, R645). -/

/-- Whether GO is refused with RESV (R639). -/
def State.nvRefused (s : State) : Bool :=
  let d := s.get NVC.DST
  let a := s.get NVC.SRC
  let ok := (decide (0x10000000 ≤ d) && decide (d < 0x10620000))
    || (decide (0x10730000 ≤ d) && decide (d < 0x107B0000) && !s.boot.field)
  decide (d % 4096 ≠ 0) || !ok || decide (a < 0x200000) || decide (0x2DEFFF < a) || decide (a % 16 ≠ 0) || s.flag NVC.BUSY

/-- An accepted GO: the sector and its data as they stand (R639). -/
def State.nvGo (s : State) : State :=
  { s.put NVC.BUSY 1 with boot := { s.boot with nv := some (s.get NVC.DST, s.bytes (s.get NVC.SRC) 4096) } }

/-- SVCOMMIT: SVMIN rises to the running image's SV (R644). -/
def State.svCommit (s : State) : State :=
  let v := max s.boot.svmin (s.get BOOT.SV)
  { s.put BOOT.SVMIN v with boot := { s.boot with svmin := v } }

/-- LCREQ: the lifecycle becomes Field, and a device reset follows (R645). -/
def State.toField (s : State) (t : Nat) : State :=
  { s.put BOOT.LCS 1 with boot := { s.boot with field := true } }.deviceReset causeLcs 0 t

/-! Commands. -/

/-- WARM_UP: the boot ROM from the release of the reset to the start of the crystal: `factory` where every factory record
passes its CRC, Vault records that fail theirs, and VOUT_MODE as read (R655). -/
def execWarmUp (factory : Bool) (bad : List Nat) (voutMode : Nat) (s : State) : Host.Outcome State Fault Refusal :=
  .next (
    if s.boot.phase ≠ .rom then s
    else
      let t := s.boot.w0
      let s := (s.put BOOT.LCS (b2n s.boot.field)).put BOOT.SVMIN s.boot.svmin
      if ¬ factory then (s.detect 0x13 0).recover
      else
        let s := (s.applyImage).reach (t + us 450)
        let s := ({ s with cfgAct := [] }.loadDies (t + us 450)).vaultCheck bad
        let s := match s.vault.lockRec with
          | some n => if s.get BOOT.CAUSE = causeVpor then s.startLockout n (t + us 450) else s
          | none => s
        let s := ((List.range 0x52).filter (fun p => pagePresent p && s.flag (Hdr.EN p))).foldl (fun s p => s.pageStart p (t + us 400)) s
        let s := (s.regWarm voutMode (t + us 450)).swFree
        { s with boot := { s.boot with phase := .clock } }.xoscStart (t + us 450))

/-- RAMP_STEP: a dwell ends (R594, R615, R655). -/
def execRampStep (s : State) : Host.Outcome State Fault Refusal :=
  .next (s.onExpiry .dwell (fun t s =>
    let n := s.get CLK.RAMPSTEP + 1
    let s := s.put CLK.RAMPSTEP n
    if n < 4 then s.arm .dwell (t + us (s.get CLK.DWELL))
    else if s.boot.phase = .clock then { s with boot := { s.boot with phase := .verify } }
    else if s.pwr.state = .dozeExit then s.dozeResume t
    else s))

/-- FIRMWARE_VERIFY: image A is tried, then B if A fails; an NV read of an image may fail (R643, R644). -/
def execFirmwareVerify (t : Nat) (eccA eccB : Bool) (s : State) : Host.Outcome State Fault Refusal :=
  .next (
    let s := s.reach t
    if s.boot.phase ≠ .verify then s
    else
      let a := s.fwTry 0 eccA
      let s := a.2.put BOOT.A a.1
      if a.1 = 0 then s.fwAccept 0
      else
        let b := s.fwTry 1 eccB
        let s := b.2.put BOOT.B b.1
        if b.1 = 0 then (s.detect 0x12 0).fwAccept 1
        else { s with boot := { s.boot with phase := .failed } })

/-- WARM_UP_COMPLETE: the long-term records are reloaded and the Service context starts, or recovery holds
(R575, R584, R655, R656). -/
def execWarmUpComplete (t : Nat) (s : State) : Host.Outcome State Fault Refusal :=
  .next (
    let s := s.reach t
    match s.boot.phase with
    | .failed => s.recover
    | .verified =>
      let s := if s.get BOOT.CAUSE ≤ causeWake then s.bookReload t else s
      let s := s.setBook (fun r => { r with warm := t, since := t })
      let s := (List.range 60).foldl (fun s i => s.setAge i (fun a => { a with loaded := false })) s
      let s := s.setAgeing (fun a => { a with nextAt := s.get AGE.MINUTES })
      let s := ((s.put BOOT.WUDONE 1).evt 0x04 0).put BOOT.WUTIME (min 0xFFFF ((t - s.boot.w0) / 10000))
      ((s.startService t).falseStarts t).qtoReport
    | _ => s)

end Sys2Proof.Machine
end

