-- ==== Sys2Proof/Machine/Supplies.lean ====
section
/-! DEFINITION. Supply monitors (R662 to R673, R679 to R681). -/
namespace Sys2Proof.Machine

/-- Updates the supply monitors. -/
def State.setSup (s : State) (f : SupSt → SupSt) : State := { s with sup := f s.sup }

/-- One conversion of quantity `k` with its filter time in ns: whether it detects, and the run of conversions outside the
window (R672). Quantities 0 UV, 1 OV, 2 VCORE, 3 VSER, 4 VIO, 5 KEEP, 6 control die, 7 baseplate, 8 difference of the
channels, 9 above 48 V. -/
def State.filterRun (s : State) (k : Nat) (outside : Bool) (f t : Nat) : Bool × State :=
  if ¬ outside then (false, s.setSup (fun r => { r with runs := del k r.runs }))
  else match s.sup.runs.find? (fun (e : Nat × Nat) => decide (e.1 = k)) with
    | some e => (decide (e.2 + f ≤ t), s)
    | none => (decide (f = 0), s.setSup (fun r => { r with runs := ins k t r.runs }))

/-- A condition of SUP: begun by a detection, which sets its event bit and raises its source; ended by `inside` (R672). -/
def State.supCond (s : State) (fld : Fld) (bit src evt : Nat) (hit inside : Bool) : State :=
  if bitAt (s.get fld) bit then (if inside then s.clrFlag fld bit else s)
  else if hit then ((s.setFlag fld bit).evt 0x03 evt).detect src 0
  else s

/-- One quantity of R672: filter, then condition. -/
def State.monitor (s : State) (k : Nat) (outside inside : Bool) (f t : Nat) (fld : Fld) (bit src evt : Nat) : State :=
  let r := s.filterRun k outside f t
  r.2.supCond fld bit src evt r.1 inside

/-- A measured VBAT saturates (R673); steps of 10 mV. -/
def satVbat (v : Int) : Int := max (-4000) (min 6000 v)

/-- Stresses outside the ratings: one G1 episode with cause 0x0A (R662, R664, R667). -/
def State.ratings (s : State) (v : Int) (t : Nat) : State :=
  let was := (s.sup.runs.find? (fun (e : Nat × Nat) => decide (e.1 = 9))).map (fun (e : Nat × Nat) => e.2)
  let surge48 := decide (4800 < v)
  let early := surge48 && was.isNone && (match s.sup.surge with | some a => decide (t < a + ms 60000) | none => false)
  let r := s.filterRun 9 surge48 (ms 400 + 1) t
  let s := if surge48 && was.isNone then r.2.setSup (fun q => { q with surge := some t }) else r.2
  let s := if decide (5800 < v) || r.1 || early then s.yieldOpen 1 0x0A 0 0 t else if surge48 then s else s.yieldClose 1 0x0A 0
  let reversed := match s.reverseAt with | some a => decide (a + ms 60000 < t) | none => false
  if decide (v < -3600) || reversed then s.yieldOpen 1 0x0A 1 0 t else if s.reverseAt.isSome then s else s.yieldClose 1 0x0A 1

/-- Validity of the measurement (R673); `raw` tells whether a channel lies outside −40 V to 60 V. -/
def State.vbatValid (s : State) (a b : Int) (raw : Bool) (t : Nat) : State :=
  let d := (a - b).natAbs
  let r := s.filterRun 8 (decide (50 < d)) (us 100) t
  let s := r.2
  let bad := r.1 || raw || ((s.flag SUP.UVLOA || s.flag SUP.UVLOB) && decide (600 ≤ a))
  let s := s.setSup (fun q => { q with agree := if bad || decide (30 < d) then none else some (q.agree.getD t) })
  if bad then (if s.flag SUP.VBINV then s else (s.put SUP.VBINV 1).evt 0x03 3)
  else match s.sup.agree with
    | some g => if g + ms 10 ≤ t then s.put SUP.VBINV 0 else s
    | none => s

/-- The reverse battery ends (R667). -/
def State.reverseEnds (s : State) (v : Int) : State :=
  if s.flag SUP.REVERSE ∧ -200 ≤ v then
    let s := { s.put SUP.REVERSE 0 with reverseAt := none }
    allUnits.foldl (fun s u => if (s.out u).revOn then s.setOut u (fun o => { o with revOn := false }) else s) s
  else s

/-- Extremes of VBAT since cleared and in the window (R679, R681). -/
def State.vbatExtremes (s : State) (v : Int) : State :=
  let s := if v < s.signed SUP.VBATMIN then s.put SUP.VBATMIN (unsignedOf 16 v) else s
  let s := if s.signed SUP.VBATMAX < v then s.put SUP.VBATMAX (unsignedOf 16 v) else s
  s.setSup (fun q => { q with lowest := some (min v (q.lowest.getD v)), highest := some (max v (q.highest.getD v)) })

/-- The condition byte at 0x1014 of the snapshot as a conversion finds it (R679). -/
def State.supCond0 (s : State) : Nat :=
  s.get SUP.UV + 2 * s.get SUP.OV + 4 * s.get SUP.HV + 8 * s.get SUP.VBINV + 16 * s.get SUP.REVERSE + 32 * s.get SUP.UVLOA
    + 64 * s.get SUP.UVLOB + 128 * s.get SUP.GNDLOSS

/-- Whether the monitors run: their domain is clocked and out of reset. -/
def State.supRuns (s : State) : Bool :=
  decide (s.boot.phase ≠ .held) && (match s.pwr.state with | .doze | .dozeExit | .park | .waking => false | _ => true)

/-- The edges of the VCORE window, which follow both requests while one runs (R672). -/
def State.vcoreEdges (s : State) : Nat × Nat :=
  let v := s.get AGE.VREQ
  match s.flag PWR.REGBUSY, s.pwr.reg with
  | true, r :: _ => (min v r.volt, max v r.volt)
  | _, _ => (v, v)

/-- The supply and temperature record at T(n) (R679). -/
def State.supRecord (s : State) : List Byte :=
  let v := s.signed SUP.VBATA
  let ext := fun (o : Option Int) => leBytes 2 (unsignedOf 16 (o.getD v))
  leBytes 2 (s.get SUP.VBATA) ++ leBytes 2 (s.get SUP.VBATB) ++ leBytes 2 (s.get SUP.VCORE) ++ leBytes 2 (s.get SUP.VSER)
    ++ leBytes 2 (s.get SUP.VIO) ++ leBytes 2 (s.get SUP.VKEEP) ++ leBytes 2 (s.get SUP.TCD) ++ leBytes 2 (s.get SUP.TBP)
    ++ ext s.sup.lowest ++ ext s.sup.highest ++ leBytes 1 s.sup.cond0 ++ leBytes 1 s.sup.cond1 ++ leBytes 234 0

/-- A new window of the record. -/
def State.supWindow (s : State) : State := s.setSup (fun q => { q with lowest := none, highest := none, cond0 := 0, cond1 := 0 })

/-- A write of `SUP.MMCLR` (R681). -/
def State.mmClear (s : State) : State := (s.put SUP.VBATMIN 0x7FFF).put SUP.VBATMAX 0x8000

/-! Commands. -/

/-- VBAT_CONVERSION: both channels in 10 mV steps (R664, R665, R672, R673). -/
def execVbatConversion (t : Nat) (a b : Int) (s : State) : Host.Outcome State Fault Refusal :=
  .next (
    let s := s.reach t
    if ¬ s.supRuns then s
    else
      let raw := decide (a < -4000) || decide (6000 < a) || decide (b < -4000) || decide (6000 < b)
      let v := satVbat a
      let s := (s.put SUP.VBATA (unsignedOf 16 v)).put SUP.VBATB (unsignedOf 16 (satVbat b))
      let uv := s.get SUP.UV
      let s := s.monitor 0 (decide (v < 900)) (decide (930 < v)) (us 100) t SUP.UV 0 0x09 0
      let s := if uv = 0 ∧ s.flag SUP.UV then s.count SUP.UVCNT else s
      let s := s.monitor 1 (decide (3200 < v)) (decide (v < 3170)) (us 100) t SUP.OV 0 0x0A 1
      let hv := decide (3600 < v)
      let s := if hv && !s.flag SUP.HV then (s.evt 0x03 2).count SUP.HVCNT else s
      let s := (((s.put SUP.HV (b2n hv)).reverseEnds v).vbatValid v (satVbat b) raw t).ratings v t
      let s := ((s.vbatExtremes v).mshVbat t v).dinVbat t
      let s := s.setSup (fun q => { q with cond0 := q.cond0 ||| s.supCond0 })
      s.pulseRetry t)

/-- RAIL_CONVERSION: rails in mV, temperatures in 0.125 °C (R672). -/
def execRailConversion (t vcore vser vio keep : Nat) (tcd tbp : Int) (s : State) : Host.Outcome State Fault Refusal :=
  .next (
    let s := s.reach t
    if ¬ s.supRuns then s
    else
      let e := s.vcoreEdges
      let s := (((s.put SUP.VCORE vcore).put SUP.VSER vser).put SUP.VIO vio).put SUP.VKEEP keep
      let s := (s.put SUP.TCD (unsignedOf 16 tcd)).put SUP.TBP (unsignedOf 16 tbp)
      let s := s.monitor 2 (decide (100 * vcore < 95 * e.1) || decide (105 * e.2 < 100 * vcore))
        (decide (96 * e.1 ≤ 100 * vcore) && decide (100 * vcore ≤ 104 * e.2)) (us 10) t SUP.RAILOUT 0 0x0B 4
      let s := s.monitor 3 (decide (vser < 855) || decide (945 < vser)) (decide (865 ≤ vser) && decide (vser ≤ 935)) (us 10) t
        SUP.RAILOUT 1 0x0C 4
      let s := s.monitor 4 (decide (vio < 1710) || decide (1890 < vio)) (decide (1730 ≤ vio) && decide (vio ≤ 1870)) (us 10) t
        SUP.RAILOUT 2 0x0D 4
      let s := s.monitor 5 (decide (keep < 1100) || decide (1300 < keep)) (decide (1120 ≤ keep) && decide (keep ≤ 1280)) (us 100) t
        SUP.RAILOUT 3 0x0E 4
      let s := s.monitor 6 (decide (1000 < tcd)) (decide (tcd ≤ 960)) (ms 1) t SUP.TEMPCD 0 0x0F 5
      let s := s.monitor 7 (decide (840 < tbp)) (decide (tbp ≤ 800)) (ms 1) t SUP.TEMPBP 0 0x10 5
      s.setSup (fun q => { q with cond1 := q.cond1 ||| (s.get SUP.RAILOUT + 16 * s.get SUP.TEMPCD + 32 * s.get SUP.TEMPBP) }))

end Sys2Proof.Machine
end

