-- ==== Sys2Proof/Machine/View.lean ====
section
/-! DEFINITION. What a register reads as: the stored word with the fields that the module computes (R45, R46, R50 and the
register tables), by page. -/
namespace Sys2Proof.Machine

/-- Computed fields as lowest bit, width and value, written over a word. -/
def overlay (w : Word) (fs : List (Nat × Nat × Nat)) : Word := fs.foldl (fun w f => withBits w f.1 f.2.1 f.2.2) w

/-- Units as a bit mask. -/
def bitMask (n : Nat) (f : Nat → Bool) : Nat := (List.range n).foldl (fun a k => if f k then setBit a k else a) 0

/-- The 64 fault flags or fewer of the power page that unit numbers of `FLT` stand for; a bank is bit 4 (R45, R300). -/
def State.unitFlt (s : State) (p : Nat) : Nat :=
  if p = 0x0F then bitMask 6 (fun k => s.get (LF.FLT k) != 0)
  else ((pageOutputs p).filter (fun u => s.get (fFlt u) != 0)).foldl (fun a u => setBit a (upage u).2) 0

/-- The fault summary of a page (R45, R560, R680). On a page whose chapter states no fault flag it reads 0 (log entry 40). -/
def State.pageFlt (s : State) (p : Nat) : Nat :=
  let raised := fun (i : Nat) => s.flag (FCR.RAISED i) && decide (1 ≤ s.cls i)
  if p = 0x06 then b2n ((List.range 0xD4).any raised)
  else if p = 0x03 then b2n ((List.range 0xD4).any (fun i => decide (srcPage i = 3) && raised i))
  else s.unitFlt p

/-- `STAT.READY`: enabled and running (R45). -/
def State.pageReady (s : State) (p : Nat) : Bool := s.flag (Hdr.EN p) && (p != 0x09 || s.stride.running)

/-- Which page feeds which event line (R147). -/
def linePages (j : Nat) : List Nat :=
  if j ≤ 0x1F then [j] else if j ≤ 34 then [j] else if j ≤ 37 then [j + 1] else if j ≤ 42 then [j + 2] else if j ≤ 53 then [j + 5]
  else if j = 54 then [0x40] else if j = 55 then [0x41] else if j = 56 then [0x42] else if j = 57 then [0x43, 0x44, 0x45, 0x46]
  else if j = 58 then [0x47] else if j = 59 then [0x48] else if j = 60 then [0x49, 0x4A] else if j = 61 then [0x4B]
  else if j = 62 then [0x50] else [0x51]

/-- Whether a page asserts its event line (R45, R354). -/
def State.pageLine (s : State) (p : Nat) : Bool :=
  s.get (Hdr.EVT p) &&& s.get (Hdr.EVTEN p) != 0 || (p = 0x20 && s.get LDS.EVT2 &&& s.get LDS.EVTEN2 != 0)

/-- Whether an event line is asserted (R147). -/
def State.line (s : State) (j : Nat) : Bool := (linePages j).any s.pageLine

/-- The bytes of a queue entry as its four words (R110). -/
def BqEntry.words (e : BqEntry) : List Nat := [e.split % 2 ^ 32, e.src + 65536 * e.tl, e.p0, e.p1]

/-- Members of bank `b` for which `f` holds. -/
def bankMask (b : Nat) (f : Nat → Bool) : Nat := bitMask 4 (fun k => f (4 * b + k))

/-- A bank's demand in 100 mA steps (R281, R300). -/
def State.demandReg (s : State) (b : Nat) : Nat := min (s.bankDemand b * 15 / 1000) 255

/-- The duty in force of a valve channel: 0 while its low side is off (R298, R301). -/
def State.vdDuty (s : State) (n : Nat) : Nat :=
  match s.phase (.vd n) with
  | .start | .on => s.get (VDB.DUTYACT n)
  | _ => 0

/-- Whether a channel is a group member other than its master. -/
def State.slave (s : State) (u : OutU) : Bool := decide (s.master u ≠ u)

/-- Computed fields of the BQ page (R116, R121, R122). -/
def State.viewBq (s : State) (off : Nat) (src : Src) : List (Nat × Nat × Nat) :=
  if off = 0x80C then [(0, 6, (s.latch src).st)]
  else if 0x100 ≤ off ∧ off < 0x500 then
    let k := (off - 0x100) / 0x20
    let r := (off - 0x100) % 0x20
    if r = 4 then [(0, 9, (s.queue k).entries.length)]
    else if 0x10 ≤ r then [(0, 32, (((s.queue k).headShown.map BqEntry.words).getD []).getD ((r - 0x10) / 4) 0)]
    else []
  else []

/-- Computed fields of the STR, MSH and PAC pages (R120, R154, R267). -/
def State.viewCore (s : State) (p off t : Nat) : List (Nat × Nat × Nat) :=
  if p = 0x09 then
    if off = 0x11C then [(2, 1, s.get STR.RPLCTRL_EN), (3, 1, b2n s.stride.started), (4, 1, b2n s.stride.fin)]
    else if off = 0x12C then [(0, 32, s.splitAt t)]
    else []
  else if p = 0x0B then
    if off = 0x128 then [(0, 32, bitMask 32 s.line)]
    else if off = 0x12C then [(0, 32, bitMask 32 (fun j => s.line (32 + j)))]
    else []
  else if off = 0x128 then [(8, 8, s.msh.waiting.length)]
  else if off = 0x12C then [(0, 10, min s.pkuse 1023)]
  else []

/-- Computed fields of the power pages: group members, banks, summaries (R240, R300, R301, R324, R371, R381, R382). -/
def State.viewPower (s : State) (p off : Nat) : List (Nat × Nat × Nat) :=
  if 0x10 ≤ p ∧ p ≤ 0x16 then
    if 0x100 ≤ off ∧ off % 0x80 = 0x10 then
      let n := 8 * (p - 0x10) + (off - 0x100) / 0x80
      [(11, 1, b2n (decide (s.deratingOf n ≠ 0)))]
    else []
  else if 0x18 ≤ p ∧ p ≤ 0x1B then
    let b := p - 0x18
    if off = 0x48 then
      [(4, 4, bankMask b s.vdActive), (8, 4, bankMask b (fun n => decide (s.phase (.vd n) = .start))),
        (12, 4, bankMask b (fun n => decide (s.phase (.vd n) = .bwait)))]
    else if off = 0x54 then [(16, 8, s.demandReg b)]
    else if 0x100 ≤ off ∧ off % 0x80 = 0x14 then
      [((VDB.SLAVE 0).lo, 1, b2n (s.slave (.vd (4 * b + (off - 0x100) / 0x80))))]
    else if 0x100 ≤ off ∧ off % 0x80 = 0x1C then
      [((VDB.DUTYACT 0).lo, 13, s.vdDuty (4 * b + (off - 0x100) / 0x80))]
    else []
  else if p = 0x1D ∨ p = 0x1E then
    if 0x100 ≤ off ∧ off % 0x80 = 0x1C then [((HB.SLAVE 0).lo, 1, b2n (s.slave (.hb (6 * (p - 0x1D) + (off - 0x100) / 0x80))))]
    else []
  else if p = 0x26 then
    if off = 0x30 then
      let f := fun (m : Nat) => b2n ((List.range 16).any (fun n => s.get (DOUT.FLT n) &&& m != 0))
      [(0, 5, f 0x1FF + 2 * f 0x006 + 4 * f 0x001 + 8 * f 0x018 + 16 * f 0x060)]
    else if 0x100 ≤ off ∧ off % 0x80 = 0x0C then [((DOUT.SLAVE 0).lo, 1, b2n (s.slave (.so ((off - 0x100) / 0x80))))]
    else []
  else if p = 0x24 ∨ p = 0x25 then
    let n := 32 * (p - 0x24)
    if off = 0x30 then [(0, 32, bitMask 32 (fun k => s.flag (DIN.CHSTAT_LEVEL (n + k))))]
    else if off = 0x34 then [(0, 32, bitMask 32 (fun k => s.flag (DIN.CHSTAT_RAW (n + k))))]
    else []
  else []

/-- Computed fields of the Vault and of ACC (R533, R537, R538). -/
def State.viewAcc (s : State) (p off t : Nat) : List (Nat × Nat × Nat) :=
  if p = 0x0E then
    (if off = 0x1C4 then [(0, 23, (s.acc.lockEnd - t) / 1000000),
      (24, 3, min 7 (s.acc.locks.filter (fun f => decide (t < f + ms 86400000))).length)] else [])
  else if off = 0x30 then [(0, 7, 64 - s.vault.used)]
  else if off = 0x34 then [(0, 32, s.vault.relCnt)]
  else if 0x100 ≤ off ∧ off < 0x200 then
    let v := look { valid := false, priv := 0, tid := 0, seq := 0, lastUse := 0, key := [] } s.vault.slots ((off - 0x100) / 16)
    let r := off % 16
    if r = 0 then [(0, 1, b2n v.valid), (1, 2, v.priv)] else if r = 4 then [(0, 32, v.tid)]
    else if r = 8 then [(0, 32, v.seq)] else [(0, 32, v.lastUse)]
  else []

/-- Computed fields of FCR (R557, R558, R560): summaries and the log entry selected. -/
def State.viewFcr (s : State) (off : Nat) : List (Nat × Nat × Nat) :=
  let e := s.logEntry
  if off = 0x128 then [(1, 1, b2n s.errN), (8, 8, min s.unacked 255), (16, 8, min s.uncleared 255)]
  else if off = 0x134 then [(0, 8, e.src), (8, 8, e.unit), (16, 3, e.hurdle), (20, 3, e.cls), (24, 6, e.flags)]
  else if off = 0x138 then [(0, 32, e.lap)]
  else if off = 0x13C then [(0, 32, e.split)]
  else []

/-- Computed fields of AGE (R571). -/
def State.viewAge (s : State) (off : Nat) : List (Nat × Nat × Nat) :=
  let u := s.get AGE.INDEX
  let a := s.ageOf u
  if off = 0x120 then [(0, 16, lifeSteps s.ageing.lifeCd), (16, 16, s.dieLife 0)]
  else if off = 0x124 then [(0, 16, s.dieLife 1)]
  else if off = 0x144 then [(0, 16, Config.factoryRon0 u), (16, 16, unsignedOf 16 (s.drift u))]
  else if off = 0x148 then [(0, 16, s.unitLife u), (16, 3, if u < 56 then a.d else 0), (19, 1, b2n a.slewUp)]
  else if 0x150 ≤ off ∧ off < 0x170 then [(0, 32, a.bins.getD ((off - 0x150) / 4) 0)]
  else []

/-- Computed fields of REC (R577): the configuration of the feed selected. -/
def State.viewRec (s : State) (off : Nat) : List (Nat × Nat × Nat) :=
  let k := s.get REC.FSEL_FEED
  if off = 0x180 then [(0, 32, s.le (recBase + 4 * s.get REC.ADDR) 4)]
  else if off = 0x164 then [(0, 32, s.feedCfg0 k)]
  else if off = 0x168 then [(0, 32, if k < 256 then s.le (feedCfg k + 4) 4 else 0)]
  else if off = 0x16C then [(0, 32, if k < 256 then max 1 (s.le (feedCfg k + 8) 4) else 0)]
  else []

/-- Computed fields of TAS (R485, R510): the gates of a port whose list is not enabled, which are all open, and the list entry
selected, of the running list or the administrative one. -/
def State.viewTas (s : State) (off : Nat) : List (Nat × Nat × Nat) :=
  if 0x100 ≤ off ∧ off < 0x280 ∧ off % 0x40 = 0x18 then
    (if s.flag (TAS.EN ((off - 0x100) / 0x40)) && s.flag (Hdr.EN 0x49) then [] else [(8, 8, 0xFF)])
  else if off = 0x304 then
    let p := s.get TAS.PORT
    let i := s.get TAS.INDEX
    let e := if s.flag TAS.OPER then ((s.tas p).oper.getD i (0xFF, 0)) else s.gclEntry p i
    [(0, 8, e.1), (8, 24, e.2)]
  else []

/-- `n` bytes of a bank from offset `o`. -/
def bankRun (b : Sparse Byte) (o n : Nat) : List Byte := (List.range n).map (fun i => look 0 b (o + i))

/-- The lap that the current bank presents (R84, R106). -/
def State.bankLap (s : State) : Nat := leVal (bankRun s.stride.snap 0 8)

/-- The split of T(n) that the current bank presents. -/
def State.bankSplit (s : State) : Nat := leVal (bankRun s.stride.snap 8 4)

/-! The Pacer's registers, which `DBG.RDATA` shows (R135 to R137, R654). -/

/-- A context's registers. -/
def State.ctx (s : State) (stride : Bool) : CtxSt := if stride then s.pac.str else s.pac.svc

/-- Updates a context. -/
def State.setCtx (s : State) (stride : Bool) (f : CtxSt → CtxSt) : State :=
  { s with pac := if stride then { s.pac with str := f s.pac.str } else { s.pac with svc := f s.pac.svc } }

/-- Whether a value may be written to FL in a context (R135, R137). -/
def flOk (stride : Bool) (v : Nat) : Bool :=
  decide (v &&& 0xFFFC7CE0 = 0) && (!stride || decide (v &&& 0x38000 = 0))

/-- Whether a value may be written to special register `n` (R135, R137). -/
def specialOk (stride : Bool) (n v : Nat) : Bool :=
  match n with
  | 1 => decide (v % 4 = 0)
  | 2 => true
  | 3 => decide (v % 4096 = 0)
  | 4 => flOk stride v
  | 5 => true
  | _ => false

/-- Special register `n` as a context reads it at `t` (R135, R136). -/
def State.special (s : State) (stride : Bool) (n t : Nat) : Nat :=
  let c := s.ctx stride
  match n with
  | 0 => c.pc | 1 => c.sp | 2 => c.fp | 3 => c.pg | 4 => c.fl | 5 => c.rc
  | 6 => (if stride then s.bankLap else s.lap) % 2 ^ 32
  | 7 => (if stride then s.bankLap else s.lap) / 2 ^ 32
  | 8 => if stride then s.bankSplit else s.splitAt t % 2 ^ 32
  | _ => 0

/-- Writes special register `n` of a context. -/
def CtxSt.setSpecial (c : CtxSt) (n v : Nat) : CtxSt :=
  match n with
  | 0 => { c with pc := v } | 1 => { c with sp := v } | 2 => { c with fp := v } | 3 => { c with pg := v }
  | 4 => { c with fl := v } | 5 => { c with rc := v } | _ => c

/-- Computed fields of SFL (R489, R492, R511): the status of the entry selected. -/
def State.viewSfl (s : State) (off : Nat) : List (Nat × Nat × Nat) :=
  let e := s.stream (s.get SFL.INDEX)
  if off = 0x118 then [(15, 1, b2n (bitAt e.w2 15))]
  else if off = 0x120 then [(0, 32, e.matched)]
  else if off = 0x124 then [(0, 32, e.dropped)]
  else if off = 0x128 then [(0, 16, e.lost), (16, 16, e.rogue)]
  else if off = 0x12C then [(0, 16, e.resets), (16, 1, b2n e.oneway)]
  else []

/-- Computed fields of SYS, PWR, TSY and the rest. -/
def State.viewDev (s : State) (p off t : Nat) : List (Nat × Nat × Nat) :=
  if p = 0x00 then
    if off = 0x150 then [(0, 32, 0xFFFFFFFF)] else if off = 0x154 then [(0, 32, bitMask 32 (fun i => pagePresent (0x20 + i)))]
    else if off = 0x158 then [(0, 32, bitMask 32 (fun i => pagePresent (0x40 + i)))] else []
  else if p = 0x02 then (if off = 0x148 then [(0, 32, s.wakeLeft t)] else [])
  else if p = 0x40 then (if off = 0x10C then [(0, 6, s.phyLines)] else [])
  else if p = 0x48 then (if off = 0x110 then [(0, 32, s.gptp t)] else [])
  else if p = 0x4A then s.viewSfl off
  else if p = 0x50 then (if off = 0x114 then [(0, 32, s.special (s.flag DBG.RSEL_CTX) (s.get DBG.REG) t)] else [])
  else []

/-- The computed fields of a unit or block register. -/
def State.computed (s : State) (p off t : Nat) (src : Src) : List (Nat × Nat × Nat) :=
  if p = 0x0A then s.viewBq off src
  else if p = 0x09 ∨ p = 0x0B ∨ p = 0x0C then s.viewCore p off t
  else if 0x10 ≤ p ∧ p ≤ 0x26 then s.viewPower p off
  else if p = 0x0D ∨ p = 0x0E then s.viewAcc p off t
  else if p = 0x06 then s.viewFcr off
  else if p = 0x08 then s.viewAge off
  else if p = 0x07 then s.viewRec off
  else if p = 0x49 then s.viewTas off
  else s.viewDev p off t

/-- The bits of a word whose rows satisfy `f`. -/
def typeMask (p off : Nat) (f : RegTy → Bool) : Word :=
  ((rowsAt p off).filter (fun r => f r.ty)).foldl (fun m r => m ||| maskOf r.lo r.width) 0

/-- What a source reads at a register (R45, R46, R50): the Stride context sees the shadows of RWS fields, write-only
fields read 0, and the module computes the rest. -/
def State.view (s : State) (p off t : Nat) (src : Src) : Word :=
  let w := s.rd p off
  let rws := typeMask p off (fun y => decide (y = .rws))
  let w := if src = .stride then (w &&& ~~~rws) ||| (look w s.shadow (regKey p off) &&& rws) else w
  let w := w &&& ~~~typeMask p off (fun y => decide (y = .wo))
  if off = 0x0C then overlay w [(0, 1, b2n (s.pageReady p)), (1, 1, b2n (s.pageBusy p))]
  else if off = 0x10 then overlay w [(0, 32, s.pageFlt p)]
  else if p = 0x20 ∧ off = 0x38 then overlay w [(0, 16, s.pageFlt p / 2 ^ 32)]
  else overlay w (s.computed p off t src)

/-- A read of a register by a source, with what the read itself does (R120 SPLITH, R509 TIMEH, R444 LEC, R585 RDADDR). -/
def State.readReg (s : State) (p off t : Nat) (src : Src) : Word × State :=
  let w := s.view p off t src
  let s :=
    if p = 0x09 ∧ off = 0x12C then s.put STR.SPLITH (s.splitAt t / 2 ^ 32)
    else if p = 0x48 ∧ off = 0x110 then s.put TSY.TIMEH (s.gptp t / 2 ^ 32)
    else if 0x30 ≤ p ∧ p ≤ 0x37 ∧ off = (CAN.LEC 0).off then s.put (CAN.LEC (p - 0x30)) 7
    else if p = 0x07 ∧ off = 0x180 then s.recRead
    else s
  (w, s)

end Sys2Proof.Machine
end

