-- ==== Sys2Proof/Machine/Snapshot.lean ====
section
/-! DEFINITION. The fixed records of a snapshot bank, as they stand at T(n) (R77, R83, R84 and the records of the
chapters). -/
namespace Sys2Proof.Machine

/-- Bytes at consecutive addresses, those that are not zero. -/
def cellsAt (o : Nat) (bs : List Byte) : List Host.Cell :=
  (bs.zipIdx o).filterMap (fun e => if e.1 = 0 then none else some (e.2, e.1))


/-- State code and retries of a unit in one byte. -/
def State.stateByte (s : State) (u : OutU) : List Byte := leBytes 1 (s.get (fState u) + 16 * s.get (fRem u))

/-- A load switch record (R238). -/
def State.lsRecord (s : State) (n : Nat) : List Byte :=
  let u := OutU.ls n
  s.stateByte u
    ++ leBytes 1 (s.get (LSW.LATCH n) + 2 * s.get (LSW.LIMITING n) + 4 * b2n (s.out u).fs
        + 8 * b2n (decide (s.deratingOf n ≠ 0)) + 16 * b2n (s.out u).offValid)
    ++ leBytes 2 (s.get (LSW.FLT n)) ++ leBytes 2 (s.get (LSW.IOUT n)) ++ leBytes 2 (s.get (LSW.VOUT n)) ++ leBytes 2 (s.get (LSW.TJ n))
    ++ leBytes 2 (s.lsDuty n) ++ leBytes 4 (if s.lsMode n = 2 then (s.out u).pcount else 0)

/-- The die records (R238). -/
def State.dieRecord (s : State) : List Byte :=
  leBytes 2 (unsignedOf 16 (s.die 0).ref) ++ leBytes 2 (unsignedOf 16 (s.die 1).ref)
    ++ leBytes 1 (b2n (s.die 0).inFs + 2 * b2n (s.die 1).inFs + 4 * (s.die 0).sel)

/-- A valve record (R298). -/
def State.vdRecord (s : State) (t n : Nat) : List Byte :=
  let u := OutU.vd n
  s.stateByte u
    ++ leBytes 1 (s.get (VDB.CHSTAT_LATCH n) + 2 * b2n (decide (s.phase u = .start)) + 4 * b2n (s.out u).fs + 8 * b2n (s.dithers n)
        + 16 * b2n (s.out u).offValid + 32 * b2n (s.pairMaster u))
    ++ leBytes 2 (s.get (VDB.FLT n)) ++ leBytes 2 (s.get (VDB.IMEAS n)) ++ leBytes 2 (s.vdForce n t) ++ leBytes 2 (s.vdDuty n)
    ++ leBytes 2 (s.get (VDB.PULLIN n))

/-- A bank record (R298). -/
def State.bankRecord (s : State) (b : Nat) : List Byte :=
  leBytes 1 (s.get (VDB.BSTATE b))
    ++ leBytes 1 (bankMask b s.vdActive + 16 * bankMask b (fun n => decide (s.phase (.vd n) = .start)))
    ++ leBytes 2 (s.get (VDB.BANKFLT b)) ++ leBytes 2 (s.get (VDB.IBANK b)) ++ leBytes 2 (s.get (VDB.VBANK b)) ++ leBytes 1 (s.demandReg b)
    ++ leBytes 1 (bankMask b (fun n => decide (s.phase (.vd n) = .bwait))) ++ leBytes 2 (s.get (VDB.BANKTEMP_TJ b)) ++ leBytes 4 0

/-- A half-bridge record (R321). -/
def State.hbRecord (s : State) (n : Nat) : List Byte :=
  let u := OutU.hb n
  s.stateByte u
    ++ leBytes 1 (s.get (HB.LATCH n) + 2 * s.get (HB.CHOPPING n) + 4 * b2n (s.out u).fs + 8 * s.get (HB.POSUNC n) + 16 * s.get (HB.DIR n)
        + 64 * b2n (s.pairMaster u) + 128 * b2n (s.atPark n))
    ++ leBytes 2 (s.get (HB.FLT n)) ++ leBytes 2 (s.get (HB.IOUT n)) ++ leBytes 4 (s.get (HB.POS n)) ++ leBytes 2 (s.get (HB.RIPPER n))
    ++ leBytes 2 (s.get (HB.TJ n)) ++ leBytes 2 0

/-- The duty applied of a sink: full where a pattern sets it on, none of a column, whose DUTY is ignored (R339, R349, log entry
74). -/
def State.ledDuty (s : State) (n : Nat) : Nat :=
  let u := OutU.led n
  if !(s.phase u).conducts then 0
  else if (s.out u).fs && !(s.out u).hold then (if (s.out u).fsWant then 65535 else 0)
  else (s.out u).dutyAct

/-- A sink record (R352). -/
def State.ledRecord (s : State) (n : Nat) : List Byte :=
  let u := OutU.led n
  leBytes 1 (s.get (fState u))
    ++ leBytes 1 (b2n (s.latched u) + 2 * s.get (LDS.FOLDING n) + 4 * b2n (s.out u).fs + 8 * s.get (LDS.COLUMN n))
    ++ leBytes 2 (s.get (LDS.FLT n)) ++ leBytes 2 (s.get (LDS.IOUT n)) ++ leBytes 2 (s.get (LDS.VSINK n)) ++ leBytes 2 (s.get (LDS.TJ n))
    ++ leBytes 2 (s.ledDuty n)

/-- A row record (R352). -/
def State.rowRecord (s : State) (n : Nat) : List Byte :=
  let u := OutU.row n
  leBytes 1 (s.get (fState u)) ++ leBytes 1 (b2n (s.latched u) + 2 * s.get (LMX.LIMITING n)) ++ leBytes 2 (s.get (LMX.FLT n))
    ++ leBytes 2 (s.get (LMX.IROW n)) ++ leBytes 2 (s.get (LMX.TJ n))

/-- The frame and headroom records (R352). -/
def State.mxRecord (s : State) : List Byte :=
  leBytes 1 (s.get (LMX.FRAMEACT 0)) ++ leBytes 1 (b2n (s.seq.on && !s.seq.ended) + 2 * b2n s.scan.msyncLost) ++ leBytes 2 s.scan.scans
    ++ leBytes 2 (s.get LDS.VMIN) ++ leBytes 1 (s.get LDS.SINK) ++ leBytes 1 (s.get LDS.VALID)

/-- A signal output record (R379). -/
def State.soRecord (s : State) (n : Nat) : List Byte :=
  let u := OutU.so n
  s.stateByte u
    ++ leBytes 1 (s.get (DOUT.LATCH n) + 2 * s.get (DOUT.LIMITING n) + 4 * b2n (s.out u).fs + 8 * b2n (s.pairMaster u))
    ++ leBytes 2 (s.get (DOUT.FLT n)) ++ leBytes 2 (s.get (DOUT.IOUT n)) ++ leBytes 2 (s.get (DOUT.TJ n))

/-- The input record (R370), once the window has closed. -/
def State.dinRecord (s : State) : List Byte :=
  leBytes 8 (bitMask 64 (fun n => (s.din n).latched)) ++ leBytes 8 (bitMask 64 (fun n => (s.din n).lastRise))
    ++ leBytes 8 (bitMask 64 (fun n => (s.din n).lastFall)) ++ leBytes 8 (bitMask 64 (fun n => s.flag (DIN.VALID n)))
    ++ (List.range 64).flatMap (fun n => leBytes 1 (min 255 (s.din n).lastChanges))

/-- The ring's record (R465). -/
def State.ringRecord (s : State) : List Byte :=
  leBytes 1 (s.get NMB.STATE) ++ leBytes 1 (b2n s.consent + 2 * s.get NMK.DONE) ++ leBytes 2 (s.get NMB.LAPMASK) ++ leBytes 4 (s.get NMB.LASTSEQ)

/-- The Marshal's record (R264). -/
def State.mshRecord (s : State) : List Byte :=
  leBytes 1 (s.get MSH.FREEZE + 2 * s.get MSH.OVSUSP + 4 * s.get MSH.FALLBACK) ++ leBytes 1 0 ++ leBytes 2 s.msh.waiting.length
    ++ leBytes 2 s.pkuse ++ leBytes 2 (s.get MSH.CONTUSE) ++ leBytes 2 (unsignedOf 16 s.msh.vbat) ++ leBytes 2 (s.get MSH.RLEARN)
    ++ leBytes 12 (bitMask 92 (fun i => s.msh.waiting.any (fun w => decide (w.item = i))))

/-- The header of snapshot `n` but for the flags that the cut-off finds (R84). -/
def State.snapHeader (s : State) (lap tick len : Nat) (bridge : Bool) : List Byte :=
  let t := s.splitZero + 4 * tick
  let al := s.flag STR.ALIGNED
  leBytes 8 lap ++ leBytes 4 tick ++ leBytes 4 len
    ++ leBytes 4 (b2n al + 2 * s.get STR.HOLDOVER + 4 * b2n s.stride.prevOvr + 128 * b2n bridge + 256 * s.get FCR.SAFE)
    ++ leBytes 4 (s.get STR.OVRSEQ) ++ leBytes 8 (if al then s.gptp t else 0)

/-- The fixed records of the bank (R83), with the header of the stride that opens. -/
def State.snapFixed (s : State) (head : List Byte) (t : Nat) : Sparse Byte :=
  cellsAt 0 head ++ cellsAt 0x100 s.dinRecord ++ cellsAt 0x180 ((List.range 16).flatMap s.soRecord)
    ++ cellsAt 0x200 ((List.range 56).flatMap s.lsRecord) ++ cellsAt 0x580 s.dieRecord
    ++ cellsAt 0x600 ((List.range 16).flatMap (s.vdRecord t)) ++ cellsAt 0x6C0 ((List.range 4).flatMap s.bankRecord)
    ++ cellsAt 0x700 ((List.range 12).flatMap s.hbRecord)
    ++ cellsAt 0x800 ((List.range 48).flatMap s.ledRecord) ++ cellsAt 0xA40 ((List.range 16).flatMap s.rowRecord)
    ++ cellsAt 0xAC0 s.mxRecord ++ cellsAt 0xC00 s.tmrRecord ++ cellsAt 0xD00 s.canRecord
    ++ cellsAt 0xE00 (s.nmRecord t) ++ cellsAt 0xE40 s.ringRecord ++ cellsAt 0xE80 s.swRecord ++ cellsAt 0xF00 (s.accRecord t)
    ++ cellsAt 0xF80 s.mshRecord ++ cellsAt 0x1000 s.supRecord ++ cellsAt 0x1100 (s.faultRecord t)

end Sys2Proof.Machine
end

