-- ==== Sys2Proof/Machine/Stride.lean ====
section
/-! DEFINITION. The Stride engine: ownership and shadows, cut-off, commit, overrun, tick, alignment and replay
(R47 to R52, R67 to R109, R128 to R131). -/
namespace Sys2Proof.Machine

/-- Updates the Stride engine. -/
def State.setStride (s : State) (f : StrideSt → StrideSt) : State := { s with stride := f s.stride }

/-! Ownership (R47, R383, R444, R469, R537). -/

/-- Where the unit blocks of a page lie: first offset, spacing and number. -/
def unitBlocks (p : Nat) : Nat × Nat × Nat :=
  if p = 0x0A then (0x100, 0x20, 32)
  else if p = 0x20 then (0x100, 0x40, 48)
  else if p = 0x24 ∨ p = 0x25 then (0x100, 0x10, 32)
  else if (0x10 ≤ p ∧ p ≤ 0x16) ∨ p = 0x21 ∨ p = 0x26 ∨ (0x18 ≤ p ∧ p ≤ 0x1B) ∨ p = 0x1D ∨ p = 0x1E then (0x100, 0x80, pageUnits p)
  else if 0x28 ≤ p ∧ p ≤ 0x2B then (0x140, 0x20, 8)
  else if 0x30 ≤ p ∧ p ≤ 0x37 then (0x100, 0xF00, 1)
  else if p = 0x39 then (0x100, 0x20, 8)
  else (0, 0, 0)

/-- Whether a word holds an RWS field. -/
def hasRws (p off : Nat) : Bool := typeMask p off (fun y => decide (y = .rws)) != 0

/-- The unit that a register belongs to; none for header and block-common registers. A timer's counter block is unit 8, and
on a page without units the registers with RWS fields are unit 0. -/
def regUnit (p off : Nat) : Option Nat :=
  let b := unitBlocks p
  if off < 0x100 then none
  else if 0x28 ≤ p ∧ p ≤ 0x2B ∧ off < 0x140 then some 8
  else if b.2.2 = 0 then (if pageUnits p = 0 ∧ hasRws p off then some 0 else none)
  else if b.1 ≤ off ∧ (off - b.1) / b.2.1 < b.2.2 then some ((off - b.1) / b.2.1)
  else none

/-- Whether the Stride owns a unit of a page, as the last tick applied it (R52). -/
def State.ownsUnit (s : State) (p k : Nat) : Bool :=
  if p = 0x20 ∧ 32 ≤ k then bitAt (s.act (Hdr.OWN2 p)) (k - 32) else bitAt (s.act (Hdr.OWN p)) k

/-- Whether a register is Stride-owned. -/
def State.strideReg (s : State) (p off : Nat) : Bool :=
  match regUnit p off with
  | some k => s.ownsUnit p k
  | none => false

/-! Registers that reach their blocks at a tick. -/

/-- Offsets of the registers of a page that apply at a tick, in ascending order (R52, R231, R242, R302, R325, R349, R356,
R381, R402, R403). -/
def tickOffs (p : Nat) : List Nat :=
  let pats := (List.range 0x50).filterMap (fun i => if (patCode p (4 * i)).isSome then some (4 * i) else none)
  (if pagePresent p then [0x28] else []) ++ (if p = 0x20 then [0x2C] else [])
    ++ (if p = 0x21 then [0x30, 0x34] else []) ++ (if p = 0x26 then [0x34] else [])
    ++ (if p = 0x1C then [0x100, 0x108] else []) ++ (if p = 0x1F then [0x100] else []) ++ pats
    ++ (if p = 0x17 then [0x140, 0x144, 0x14C] else [])
    ++ (if p = 0x2C then (List.range 4).flatMap (fun k => [0x100 + 0x10 * k, 0x104 + 0x10 * k]) else [])

/-- The tick applies the registers that wait for one. -/
def State.applyConfig (s : State) : State :=
  let keys := (List.range 0x52).flatMap (fun p => (tickOffs p).map (fun o => (p, o)))
  { s with cfgAct := keys.filterMap (fun k =>
      let w := s.rd k.1 k.2
      if w = look (resetWord k.1 k.2) s.img (regKey k.1 k.2) then none else some (regKey k.1 k.2, w)) }

/-- The tick applies the shadows (R50, R51): the keys written and the new state. -/
def State.applyShadows (s : State) : State :=
  { s.shadow.foldl (fun s e =>
      let p := e.1 / 0x1000
      let off := e.1 % 0x1000
      let m := typeMask p off (fun y => decide (y = .rws))
      s.wr p off ((s.rd p off &&& ~~~m) ||| (e.2 &&& m))) s with shadow := [] }

/-! Digests (R103, R104). -/

/-- The registers of Stride-owned units that hold RWS fields, in ascending address order. -/
def State.commitRegs (s : State) : List (Nat × Nat) :=
  ((List.range 0x52).filter (fun p => s.act (Hdr.OWN p) != 0 || (p == 0x20 && s.act (Hdr.OWN2 p) != 0))).flatMap (fun p =>
    ((List.range 960).map (fun i => 0x100 + 4 * i)).filterMap (fun o => if s.strideReg p o && hasRws p o then some (p, o) else none))

/-- The 16 bytes of an entry with a given split (R110). -/
def BqEntry.image (e : BqEntry) (split : Nat) : List Byte :=
  leBytes 4 split ++ leBytes 2 e.src ++ leBytes 2 e.tl ++ leBytes 4 e.p0 ++ leBytes 4 e.p1

/-- The commit record of the stride (R104). -/
def State.commitRecord (s : State) : List Byte :=
  leBytes 8 s.bankLap
    ++ s.commitRegs.flatMap (fun r =>
        let m := typeMask r.1 r.2 (fun y => decide (y = .rws))
        leBytes 4 (0x40000000 + regKey r.1 r.2) ++ leBytes 4 ((look (s.rd r.1 r.2) s.shadow (regKey r.1 r.2) &&& m).toNat))
    ++ s.stride.staged.flatMap (fun e => e.2.image 0)

/-! Cut-off (R78 to R88, R128 to R131). -/

/-- What a capture has built: state, number of entries, cells of entries and bulk, next bulk offset, end of the last copy,
bulk space that carried buffers still need (log entry 44), directory bytes, captured entries and header flags. -/
structure Capture where
  st : State
  count : Nat
  cells : List Host.Cell
  bulk : List Host.Cell
  free : Nat
  used : Nat
  reserve : Nat
  dir : List Byte
  taken : List (Nat × BqEntry)
  flags : Nat
  deriving DecidableEq, Repr

/-- The bytes of a referenced buffer, header word included, where the entry's address now points (R88, R94). -/
def State.refBytes (s : State) (a : Nat) : List Byte :=
  let rd := fun (i : Nat) => if 0x300000 ≤ a then look 0 s.stride.snap (a - 0x300000 + i) else s.byte (a + i)
  let h := leVal ((List.range 4).map rd)
  (List.range (4 + h % 65536)).map rd

/-- Whether an entry is copied with its buffer: a reference under `REFCOPY`, or one whose copy is carried. -/
def copies (refcopy : Bool) (e : BqEntry) : Bool := decide (e.tl / 2 ^ 14 = 1) && (refcopy || decide (0x300000 ≤ e.p0))

/-- A length rounded up to 16 bytes. -/
def up16 (n : Nat) : Nat := (n + 15) / 16 * 16

/-- Bulk space that the carried buffers need (R94). -/
def State.carryNeed (s : State) : Nat :=
  ((s.stride.carry.filter (fun e => copies false e.2)).map (fun e => up16 (s.refBytes e.2.p0).length)).sum

/-- Adds an entry of queue `k` to the capture. -/
def Capture.put (c : Capture) (k : Nat) (e : BqEntry) : Capture :=
  { c with cells := c.cells ++ cellsAt (0x2000 + 16 * c.count) (e.image e.split), count := c.count + 1, taken := c.taken ++ [(k, e)] }

/-- One entry is captured; none where its buffer does not fit (R86, R88). -/
def Capture.take (c : Capture) (k : Nat) (refcopy carried : Bool) (e : BqEntry) : Option Capture :=
  if copies refcopy e then
    let bs := c.st.refBytes e.p0
    let c := if carried then { c with reserve := c.reserve - up16 bs.length } else c
    if !carried && decide (0x40000 < c.free + bs.length + c.reserve) then none
    else
      let st := if e.p0 < 0x300000 then c.st.setByte (e.p0 + 3) (c.st.byte (e.p0 + 3) &&& 0x7F) else c.st
      some ({ c with st := st, bulk := c.bulk ++ cellsAt c.free bs, used := c.free + bs.length,
                     free := c.free + up16 bs.length }.put k { e with p0 := 0x300000 + c.free })
  else some (c.put k e)

/-- Entries in order until one does not fit: the capture, and how many of them it took. -/
def Capture.takeAll (k : Nat) (refcopy : Bool) : List BqEntry → Capture → Nat → Capture × Nat
  | [], c, n => (c, n)
  | e :: es, c, n => match c.take k refcopy false e with
    | some c => Capture.takeAll k refcopy es c (n + 1)
    | none => ({ c with flags := setBit c.flags 5 }, n)

/-- The order of R86 between two entries, by the split count that does not wrap (log entry 63). -/
def BqEntry.le (a b : BqEntry) : Bool := decide (a.split < b.split) || (decide (a.split = b.split) && decide (a.src ≤ b.src))

/-- Queue `k` is captured: carried entries first, then the eligible ones up to DEPTH (R78, R86, R87, R94). What the overrun
stride had captured of a queue that the Stride owns no longer is dropped (DESIGN CHOICE, log entry 64). -/
def Capture.queue (c : Capture) (k cut : Nat) : Capture :=
  let s := c.st
  if ¬ s.strideQueue k then { c with st := s.put (BQ.HELD k) 0, dir := c.dir ++ leBytes 8 0 }
  else
    let q := s.queue k
    let refcopy := s.flag (BQ.REFCOPY k)
    let carry := (s.stride.carry.filter (fun e => decide (e.1 = k))).map (·.2)
    let tagged := q.entries.zipIdx
    let elig := (tagged.filter (fun e => decide (e.1.split < s.stride.tick) && decide (e.1.arr < cut))).mergeSort
      (fun a b => a.1.le b.1)
    let new := elig.take (s.get (BQ.DEPTH k) - carry.length)
    let c1 := carry.foldl (fun c e => (c.take k refcopy true e).getD c) c
    let r := Capture.takeAll k refcopy (new.map (·.1)) c1 0
    let gone := (new.take r.2).map (·.2)
    let stay := (tagged.filter (fun e => !gone.contains e.2)).map (·.1)
    let held := decide (r.2 < elig.length)
    let got := (r.1.taken.drop c.taken.length).map (·.2)
    let late := got.any (fun e => bitAt e.tl 13)
    let carried := decide (carry ≠ [])
    { r.1 with
      st := (r.1.st.setQueue k { entries := stay, ovf := false, shown := none }).put (BQ.HELD k) (b2n held)
      dir := c.dir ++ leBytes 2 got.length ++ leBytes 2 (b2n q.ovf + 2 * b2n held + 4 * b2n late + 8 * b2n carried)
        ++ leBytes 4 (if got = [] then 0 else 0x2000 + 16 * c.count)
      flags := r.1.flags ||| (8 * b2n carried + 16 * b2n late) }

/-- The peripheral cycle of 10 ns that holds an instant (R78, R595). -/
def State.cycleOf (s : State) (t : Nat) : Nat := s.splitZero + (t - s.splitZero) / 10 * 10

/-- Entries that came too late for the cut-off that owed them are marked, counted and reported at the next cut-off, which
captures them (R80; DESIGN CHOICE, log entry 77). -/
def State.markLate (s : State) : State :=
  let prev := s.cycleOf s.pac.cutAt
  (List.range 32).foldl (fun s k =>
    if ¬ s.strideQueue k then s
    else
      let q := s.queue k
      let late := fun (e : BqEntry) => decide (e.split < s.stride.prevTick) && decide (prev ≤ e.arr) && !bitAt e.tl 13
      let n := (q.entries.filter late).length
      if n = 0 then s
      else ((s.setQueue k { q with entries := q.entries.map (fun e => if late e then { e with tl := setBit e.tl 13 } else e) }).count
        STR.LATECNT n).evt 0x09 3) s

/-- The Stride context's registers at a cut-off (R129). -/
def State.strideInit (s : State) : CtxSt :=
  { ctxReset with
    pc := 2 * s.get PAC.STRENTRY, sp := 4 * s.get PAC.STRSP, fp := 4 * s.get PAC.STRSP, pg := 4096 * s.get PAC.STRPG,
    fl := 2 ^ 8 * s.get PAC.DZT + 2 ^ 9 * s.get PAC.VT }

/-- The Stride context starts (R128, R129). -/
def State.startStride (s : State) (t : Nat) : State :=
  let s := s.setStride (fun r => { r with started := true })
  { s with pac := { s.pac with str := s.strideInit, cutAt := t, svbar := 512 * s.get PAC.SVBAR } }

/-- Whether the cut-off starts a Stride context: `PAC.CTRL.EN`, and no Cool-down (R131, R619). -/
def State.strideStarts (s : State) : Bool := s.flag (Hdr.EN 0x0B) && decide (s.pwr.state ≠ .cooldown)

/-- The cut-off of stride n at `t` (R73, R78, R82 to R88, R128 to R131, R577). -/
def State.cutOff (s : State) (t : Nat) : State :=
  let s := (s.reach t).markLate
  let go := s.strideStarts
  let c0 : Capture :=
    { st := s, count := 0, cells := [], bulk := [], free := 0x22000, used := 0x22000,
      reserve := s.carryNeed, dir := [], taken := [], flags := 0 }
  let c := if go then (List.range 32).foldl (fun c k => c.queue k (s.cycleOf t)) c0
    else { c0 with st := (List.range 32).foldl (fun s k => s.put (BQ.HELD k) 0) s }
  let s := if bitAt c.flags 5 then c.st.evt 0x09 8 else c.st
  let head := leVal (bankRun s.stride.prep 0x10 4) ||| c.flags
  let fixed := s.stride.prep
  let bank := cellsAt 0 (bankRun fixed 0 0x10 ++ leBytes 4 head ++ bankRun fixed 0x14 0x2C)
    ++ fixed.filter (fun e => decide (0x40 ≤ e.1)) ++ cellsAt 0x1200 c.dir ++ c.cells ++ c.bulk
  let dig := crc32 (bankRun bank 0 (0x2000 + 16 * c.count) ++ bankRun bank 0x22000 (c.used - 0x22000))
  let s := (s.put STR.SDIG dig).setStride (fun r =>
    { r with cut := true, prevTick := r.tick, prep := [], snap := bank, snapPrev := r.snap, captured := c.taken, carry := [] })
  let s := s.feedSnapshot (fun a => look 0 s.stride.snap a) t
  if go then s.startStride t else { s with pac := { s.pac with cutAt := t } }

/-! End of the Stride context (R89, R92 to R95, R107). -/

/-- A replay mismatch: bit `b` of RPLSTAT (R107). -/
def State.replayMiss (s : State) (b : Nat) : State := ((s.setFlag STR.RPLSTAT b).count STR.RPLMIS).evt 0x09 9

/-- Whether the stride in progress replays a loaded snapshot: its bank carries REPLAY (R106). -/
def State.replayed (s : State) : Bool := bitAt (leVal (bankRun s.stride.snap 0x10 4)) 6

/-- The replayed stride has been evaluated (R107). -/
def State.replayDone (s : State) (over_ : Bool) : State :=
  if !s.replayed || !s.flag STR.CMPEN then s
  else
    let s := if over_ then s.replayMiss 2 else if s.get STR.CDIG = s.get STR.RPLCEXP then s else s.replayMiss 1
    s.setFlag STR.RPLSTAT 3

/-- The split at which the budget point B of the stride lies (R69). -/
def State.budgetPoint (s : State) : Nat := s.stride.base + s.get STR.LENACT * s.stride.budAct / 100

/-- FIN retires at `t` (R73, R89, R95, R104, R338, R343): the commit is frozen and staged. -/
def State.finStride (s : State) (t : Nat) : State :=
  let off := s.splitAt t - s.stride.tick
  let cyc := (t - s.pac.cutAt) * 5 / 12
  let s := (((s.put STR.FINOFF off).put STR.FINMAX (max off (s.get STR.FINMAX))).put STR.OVRSEQ 0).evt 0x09 1
  let s := (s.put PAC.STRCYC cyc).put PAC.STRCYCMAX (max cyc (s.get PAC.STRCYCMAX))
  let s := s.put STR.CDIG (crc32 s.commitRecord)
  let s := (s.stageCal t).stageFrame
  (s.setStride (fun r => { r with started := false, fin := true, captured := [] })).replayDone false

/-- The Stride context has not reached FIN at B (R92, R94, R95): shadows and entries of the Stride are discarded. STR_OVRSEQ
is raised whenever the count equals OVRLIM after an overrun (DESIGN CHOICE, log entry 65). -/
def State.overrunAt (s : State) (t : Nat) : State :=
  let s := { s with shadow := s.shadow.filter (fun e => !s.strideReg (e.1 / 0x1000) (e.1 % 0x1000)) }
  let s := s.setStride (fun r =>
    { r with started := false, ovr := true, staged := [], carry := r.captured, captured := [] })
  let s := ((((s.count STR.OVRCNT).count STR.OVRSEQ).evt 0x09 2).detect 0x19 0).yieldOnce 5 1 0 t
  let s := if s.get STR.OVRSEQ = s.get STR.OVRLIM then s.detect 0x1A 0 else s
  let s := (s.stageCal t).stageFrame
  (s.replayDone true).mshDecide t (s.lap + 1) s.stride.nextTick false

/-! Alignment (R97 to R102). -/

/-- The local gPTP time at a split. -/
def State.gptpAt (s : State) (x : Nat) : Nat := s.gptp (s.splitZero + 4 * x)

/-- The signed distance in ns of a split from the nearest whole multiple of a length in splits (R97). -/
def State.alignOff (s : State) (x len : Nat) : Int :=
  let m := s.gptpAt x % (4 * len)
  if 2 * len < m then Int.ofNat m - Int.ofNat (4 * len) else Int.ofNat m

/-- Splits until the local gPTP time has advanced by at least `d` ns, at its measured rate: the tick of a bridge takes the
first split at or after its ideal instant (R97, R100; DESIGN CHOICE, log entry 66). -/
def State.splitsFor (s : State) (d : Nat) : Nat :=
  let r := 4 * (Int.ofNat 1000000000000 + s.sw.tsy.rate).toNat
  (d * 1000000000000 + (r - 1)) / r

/-- The first split at or after `x` at which the local gPTP time is a whole multiple of a length. -/
def State.idealFrom (s : State) (x len : Nat) : Nat :=
  let m := s.gptpAt x % (4 * len)
  if m = 0 then x else x + s.splitsFor (4 * len - m)

/-- Whether ticks follow the local gPTP time. -/
def State.tracks (s : State) : Bool := s.flag STR.ALIGN_EN && (s.flag TSY.LOCK || s.flag STR.HOLDOVER)

/-- Whether the measured offset at the stride's tick calls for a bridge (R99). -/
def State.offTooFar (s : State) : Bool :=
  s.flag STR.ALIGN_EN && s.flag TSY.LOCK
    && decide (4 * s.get STR.STEPLIM < (s.alignOff s.stride.tick (s.get STR.LENACT)).natAbs)

/-- The end of the stride in progress (R68, R97 to R99, R101, R102). A tick that slews takes the split nearest its ideal
instant, halves to the earlier tick (DESIGN CHOICE, log entry 66). A new length found with the ticks not aligned lands on the grid
of splits, and then corrects no offset. No tick is planned before the split `from_`. -/
def State.planTick (s : State) (from_ : Nat) : State :=
  let len := s.get STR.LENACT
  let x := max from_ (s.stride.base + len)
  let far := s.offTooFar
  let set := fun (n : Nat) (br step : Bool) (nl : Option Nat) =>
    s.setStride (fun r => { r with nextTick := n, bridging := br, bridgeStep := step, newLen := nl })
  if s.flag STR.LENPEND then
    let l := s.get STR.LEN
    let al := s.flag STR.ALIGNED
    set (if al then s.idealFrom x l else (x + l - 1) / l * l) true (far && al) (some l)
  else if far then set (s.idealFrom x len) true true none
  else if s.tracks then
    let lim := Int.ofNat (s.get STR.SLEW)
    let c := max (-lim) (min lim (roundDiv (s.alignOff x len) 4))
    set (Int.ofNat x - c).toNat false false none
  else set x false false none

/-- The bound within which an aligned tick lies, in ns (R97). -/
def State.alignBound (s : State) : Nat := if s.get CLK.ROOTSRC = 2 then 8 else 16

/-- The offset of a tick is measured: ALIGNED stands while it lies within the bound of R97 (R97, R101). -/
def State.measureTick (s : State) : State :=
  if ¬ s.tracks then s.put STR.ALIGNED 0
  else
    let o := s.alignOff s.stride.tick (s.get STR.LENACT)
    let s := s.put STR.ALIGNOFF (unsignedOf 32 o)
    if ¬ s.flag TSY.LOCK then s
    else if o.natAbs ≤ s.alignBound then
      if s.flag STR.ALIGNED then s else ((s.put STR.ALIGNED 1).put STR.HOLDOVER 0).evt 0x09 5
    else s.put STR.ALIGNED 0

/-! The tick (R73, R89, R91). -/

/-- The tick opens a stride: lap count, length, alignment and the events of a bridge (R96, R99, R100, R102). -/
def State.openStride (s : State) : State :=
  let r := s.stride
  let first := decide (r.tick = 0)
  let tick := r.nextTick
  let s := s.setStride (fun q => { q with tick := tick, base := tick, markAct := s.get STR.MARK, budAct := s.get STR.BUDGET })
  let s := match r.newLen with
    | some l => (if s.get STR.LEN = l then s.put STR.LENPEND 0 else s).put STR.LENACT l |>.evt 0x09 7
    | none => s
  let s := if r.bridgeStep then s.evt 0x09 6 else s
  let sync := s.gptpAt tick / (4 * s.get STR.LENACT) % 2 ^ 48
  let load := r.bridgeStep && r.firstLock && s.flag STR.LAPSYNC && decide (s.lap < sync)
  let s := s.setLap (if load then sync else if first then 0 else s.lap + 1)
  let s := if r.bridgeStep then s.setStride (fun q => { q with firstLock := false }) else s
  let s := if first ∧ s.get BOOT.CAUSE = 3 then
      { s with msh := { s.msh with notBefore := tick + 500000 * s.get MSH.WAKESLOT } } else s
  ((s.put STR.TICKSPL tick).evt 0x09 0).measureTick

/-- The windows that close at a tick (R76, R335, R370, R399, R441, R465, R503, R534). -/
def State.closeWindows (s : State) : State :=
  let s := s.tmrWindow.canWindow.swWindow.supWindow
  let s := (List.range 8).foldl (fun s x => s.setNm x (fun n => { n with seen := 0, wake := false })) s
  s.setAcc (fun a => { a with ended := 0 })

/-- An on-command that a tick applies ends an off-state test of its channel, in LOCKOFF too; no result is recorded (R213). -/
def State.testsEnd (s old : State) : State :=
  s.timers.foldl (fun s e => match e.1 with
    | .testPhase u => if s.cmdOn u && !old.cmdOn u then (s.disarm (.testPhase u)).setOut u (fun o => { o with test := 0 }) else s
    | _ => s) s

/-- The staged values and the shadows take effect (R50 to R52, R89, R338, R343, R387, R404 to R406, R446, R472, R517, R546,
R557). -/
def State.applyCommit (s : State) (t : Nat) : State :=
  let hold := s.flag STR.RPLCTRL_EN && !s.flag STR.APPLY
  let commit := s.stride.fin && !hold
  let safeEnds := s.stride.safeRel
  let busy := s.scanBusy t
  let per := (List.range 4).map (fun k => s.act (STG.PER k))
  let syn := (List.range 4).map (fun k => s.act (STG.TICKSYNC k))
  let keys := s.shadow.map (·.1)
  let old := s
  let s := ((s.applyShadows.applyConfig).addrTick old t).repattern old t
  let s := s.tmrTick keys t
  let s := (List.range 8).foldl (fun s x => s.nmNeed x t) s
  let s := s.phyAssert (s.get SWC.PHYRST)
  let held := (List.range 2).filter (fun d => (s.die d).inFs)
  let s := (((s.accTick t).applyColumns t).applyCal t).applySeq.applyFrame
  let s := (s.stgTick per syn t).liftHolds t
  let s := if safeEnds then s.endSafe else s
  let s := (((s.releaseDies commit safeEnds hold t).scanResume held).strobeTick).ditherTick t
  let s := s.testsEnd old
  let s := (List.range 12).foldl (fun s n => s.applyPosLoad n) s
  let s := allUnits.foldl (fun s u => s.applyUnit u t) s
  (s.mshTick t).scanTick busy t

/-- Stride-produced entries are released with split T(n+1), in push order (R91). -/
def State.releaseStaged (s : State) (t : Nat) : State :=
  let es := if s.stride.fin then s.stride.staged else []
  let s := s.setStride (fun r => { r with staged := [] })
  es.foldl (fun s e => s.qPush e.1 { e.2 with split := s.splitAt t, arr := t }) s

/-- The digest entry of the stride that a tick closes, behind the entries that the tick releases (R105; DESIGN CHOICE, log
entry 67). -/
def State.pushDigest (s : State) (t : Nat) : State :=
  let r := s.stride
  if !s.flag STR.DIGQ_EN || !(r.fin || r.ovr) then s
  else
    s.qPush (s.get STR.QUEUE)
      { split := s.splitAt t, src := 0x0900, tl := 0x8000 + (if r.fin then 0x18 else 0x28), p0 := s.get STR.SDIG,
        p1 := if r.fin then s.get STR.CDIG else 0, arr := t }

/-- Whether the stride that a tick closes overran; the tick that entered DOZE has opened no lap, so that the stride before
it still counts (R84, R613). -/
def State.closeStride (s : State) : State :=
  s.setStride (fun r => { r with prevOvr := if r.dozed then r.prevOvr else r.ovr, dozed := false })

/-- The flags of a stride that opens. -/
def State.newStride (s : State) : State :=
  s.setStride (fun r => { r with started := false, cut := false, fin := false, ovr := false })

/-- What every tick does to the outputs and the queues: the commit, the entries of the stride, its digest (R73, R91, R105). -/
def State.commitTick (s : State) (t : Nat) : State := (((s.applyCommit t).releaseStaged t).pushDigest t).newStride

/-- The tick that closes the stride in progress and opens the next (R73). -/
def State.tickAt (s : State) (t : Nat) : State :=
  let s := s.reach t
  let s := if s.stride.started then s.overrunAt (s.splitZero + 4 * s.budgetPoint) else s
  let s := s.dinTick.headroomTick.closeStride
  if s.pwr.dozeNext then ((s.commitTick t).setStride (fun r => { r with cut := true, dozed := true })).dozeEnter t
  else
    let bridge := s.stride.bridging
    let cool := decide (s.pwr.state = .cooldown)
    let s := s.openStride
    let head := s.snapHeader s.lap s.stride.tick (s.get STR.LENACT) bridge
    let s := s.setStride (fun r => { r with prep := s.snapFixed head t })
    let s := if cool then s.setStride (fun r => { r with running := false }) else s
    let s := ((s.closeWindows).replanApply t).commitTick t
    let s := s.heartbeat s.errN t
    let s := if s.book.resetDue then (s.setBook (fun b => { b with resetDue := false })).flushTrigger 4 t else s
    if cool then s.ticksStop else s.planTick 0

/-! Replay (R106 to R109). -/

/-- APPLY is 0: both power dies take their patterns (R106). -/
def State.replayHold (s : State) (t : Nat) : State :=
  (List.range 2).foldl (fun s d => s.dieFailsafe d t (fun x => { x with replay := true })) s

/-- A write of 1 to `RPLCTRL.EN`: live ticks and capture stop, and without APPLY the power dies take their patterns. A stride
in progress goes on to its FIN or its B, and the first step closes it. -/
def State.replayEnter (s : State) (src : Src) (apply : Bool) (t : Nat) : State :=
  let s := (s.put STR.RPLCTRL_EN 1).setStride (fun r => { r with running := false, cut := true, replaySrc := some src })
  if apply then s else s.replayHold t

/-- How many entries the directory of a bank counts (R85). -/
def bankCount (b : Sparse Byte) : Nat := ((List.range 32).map (fun k => leVal (bankRun b (0x1200 + 8 * k) 2))).sum

/-- The end of the last buffer copy of a bank: the copies of its reference entries that point into the bulk area, header
word included (R88, R103). -/
def bankUsed (b : Sparse Byte) : Nat :=
  (List.range (bankCount b)).foldl (fun m i =>
    let a := leVal (bankRun b (0x2000 + 16 * i + 8) 4)
    if bitsOf (BitVec.ofNat 32 (leVal (bankRun b (0x2000 + 16 * i + 4) 4))) 30 2 = 1 ∧ 0x322000 ≤ a ∧ a < 0x340000 then
      max m (a - 0x300000 + 4 + leVal (bankRun b (a - 0x300000) 2))
    else m) 0x22000

/-- The snapshot digest of a bank (R103). -/
def bankDigest (b : Sparse Byte) : Nat :=
  crc32 (bankRun b 0 (0x2000 + 16 * bankCount b) ++ bankRun b 0x22000 (bankUsed b - 0x22000))

/-- A write of 1 to `RPLCTRL.STEP`: the tick strobe, the load buffer as the current bank, and the Stride context. The digest
is that of the snapshot as it was loaded (R107, R108). A STEP while the stride in progress still runs overruns it at the STEP's
instant (R106, R107; DESIGN CHOICE, log entry 78); what an overrun stride had captured is gone with its bank (log entry 78). -/
def State.replayStep (s : State) (t : Nat) : State :=
  let s := (if s.stride.started then s.overrunAt t else s).closeStride
  let first := decide (s.stride.tick = 0)
  let s := s.setStride (fun r =>
    { r with tick := s.splitAt t, base := s.splitAt t, markAct := s.get STR.MARK, budAct := s.get STR.BUDGET, captured := [], carry := [] })
  let s := ((s.setLap (if first then 0 else s.lap + 1)).put STR.TICKSPL s.stride.tick).evt 0x09 0
  let s := s.commitTick t
  let buf := s.stride.snapPrev
  let bank := cellsAt 0 (leBytes 8 (s.get STR.RPLLAPL + 2 ^ 32 * s.get STR.RPLLAPH) ++ bankRun buf 8 8
      ++ leBytes 4 (setBit (leVal (bankRun buf 0x10 4)) 6)) ++ buf.filter (fun e => decide (0x14 ≤ e.1))
  let dig := bankDigest buf
  let s := (s.put STR.SDIG dig).setStride (fun r => { r with snap := bank, cut := true })
  let s := if s.flag STR.CMPEN && decide (dig ≠ s.get STR.RPLSEXP) then s.replayMiss 0 else s
  if s.flag (Hdr.EN 0x0B) then s.startStride t else s

/-! Commands. -/

/-- TICK: the tick strobe at the instant that the Stride engine has set (R73). -/
def execTick (s : State) : Host.Outcome State Fault Refusal :=
  .next (
    if !s.stride.running || s.stride.suspended.isSome || s.flag STR.RPLCTRL_EN then s
    else (s.tickAt (s.splitZero + 4 * s.stride.nextTick)).aheadDue)

/-- CUT_OFF: the Mark of the stride in progress (R78, R128). -/
def execCutOff (s : State) : Host.Outcome State Fault Refusal :=
  .next (
    if !s.stride.running || s.stride.suspended.isSome || s.stride.cut || decide (s.stride.tick = 0) then s
    else s.cutOff (s.splitZero + 4 * (s.stride.base + s.stride.markAct)))

/-- OVERRUN: the budget point of the stride in progress, FIN not having retired (R92). -/
def execOverrun (s : State) : Host.Outcome State Fault Refusal :=
  .next (
    if !s.stride.started || s.stride.suspended.isSome then s
    else
      let t := s.splitZero + 4 * s.budgetPoint
      (s.reach t).overrunAt t)

end Sys2Proof.Machine
end

