-- ==== Sys2Proof/Machine/RegWrite.lean ====
section
/-! DEFINITION. Writes of registers: whether a write lands, what it leaves, and what it sets going (R45 to R58, R64). -/
namespace Sys2Proof.Machine

/-- Why a write is refused (R64), the least first (R55). -/
inductive Cause | badop | nopage | priv | inreset | owned | locked | resv | persist
  deriving DecidableEq, Repr

/-- The code of a refusal (R64). -/
def Cause.code : Cause → Nat
  | .badop => 9 | .nopage => 0xB | .priv => 3 | .inreset => 0xA | .owned => 4 | .locked => 6 | .resv => 5 | .persist => 7

/-- The two-bit code of a source (R45 `REJ.SRC`). -/
def srcRej : Src → Nat
  | .service => 0 | .stride => 1 | .remote _ => 2 | .debug => 3

/-- A write: its register, the word found and the word it would leave, the bits it names that can be written and their values,
the bits it names, source, instant. -/
structure Wr where
  p : Nat
  off : Nat
  old : Word
  new : Word
  v : Word
  m : Word
  named : Word
  src : Src
  t : Nat
  deriving DecidableEq, Repr

/-- A field as the write would leave it, as it found it, and whether a 1 is written to its lowest bit. -/
def Wr.to_ (w : Wr) (f : Fld) : Nat := bitsOf w.new f.lo f.width
/-- A field as the write found it. -/
def Wr.was (w : Wr) (f : Fld) : Nat := bitsOf w.old f.lo f.width
/-- Whether the write carries a 1 for a bit. -/
def Wr.one (w : Wr) (lo : Nat) : Bool := bitAt (w.v &&& w.m).toNat lo
/-- Whether the write carries a 1 for a bit, reserved or not. -/
def Wr.names (w : Wr) (lo : Nat) : Bool := bitAt (w.v &&& w.named).toNat lo
/-- Whether the write carries a 0 for a bit. -/
def Wr.nil (w : Wr) (lo : Nat) : Bool := bitAt w.m.toNat lo && !bitAt w.v.toNat lo
/-- Whether a field changes. -/
def Wr.alters (w : Wr) (f : Fld) : Bool := decide (w.to_ f ≠ w.was f)
/-- The bits that change. -/
def Wr.diff (w : Wr) : Nat := (w.new ^^^ w.old).toNat

/-! What a write would leave. -/

/-- Whether a register shows a store behind it, which it reads and writes through (R485, R577, R654). -/
def isWindow (p off : Nat) : Bool :=
  (p = 0x07 && decide (0x164 ≤ off) && decide (off ≤ 0x16C)) || (p = 0x49 && off = 0x304) || (p = 0x50 && off = 0x114)

/-- The bits of a word that a write can set. -/
def writable (p off : Nat) : Word :=
  let m := typeMask p off (fun y => decide (y ≠ .ro))
  if off = 0x28 then m else if off = 0x2C ∧ p ≠ 0x20 then 0 else m

/-- The word that a write finds: shadows for RWS fields (R50). -/
def State.found (s : State) (p off t : Nat) (src : Src) : Word :=
  let rws := typeMask p off (fun y => decide (y = .rws))
  let w := if isWindow p off then s.view p off t src else s.rd p off
  (w &&& ~~~rws) ||| (look w s.shadow (regKey p off) &&& rws)

/-- The write of `v` under mask `m`: bits not written keep their value, W1C bits written 1 clear, bits the module does not
hold stay 0 (R46). -/
def State.wrOf (s : State) (src : Src) (p off : Nat) (v m : Word) (t : Nat) : Wr :=
  let old := s.found p off t src
  let set := m &&& typeMask p off (fun y => decide (y = .rw) || decide (y = .rwl) || decide (y = .rws) || decide (y = .wo))
  let w1c := typeMask p off (fun y => decide (y = .w1c))
  let w := ((old &&& ~~~set) ||| (v &&& set)) &&& ~~~(v &&& m &&& w1c) &&& heldBits p off
  { p := p, off := off, old := old, new := w, v := v, m := m &&& writable p off, named := m, src := src, t := t }

/-! Locks (R53). -/

/-- Whether a page's lock is open at `t`. -/
def State.lockOpen (s : State) (p t : Nat) : Bool :=
  s.flag (Hdr.LOCK_OPEN p) && (match s.due (.lock p) with | some d => decide (t < d) | none => false)

/-- The lock closes. -/
def State.lockClose (s : State) (p : Nat) : State := ((s.disarm (.lock p)).put (Hdr.LOCK_OPEN p) 0).put (Hdr.LOCK_HOLDER p) 0

/-- The lock opens to a source, or its 1 ms starts anew. -/
def State.lockGive (s : State) (p c t : Nat) : State :=
  ((s.put (Hdr.LOCK_OPEN p) 1).put (Hdr.LOCK_HOLDER p) c).arm (.lock p) (t + ms 1)

/-- A word written to `LOCK.KEY`. While the lock is open the words of other sources have no effect. -/
def State.lockKey (s : State) (src : Src) (p key t : Nat) : State :=
  let c := srcRej src
  let isOpen := s.lockOpen p t
  if isOpen && s.get (Hdr.LOCK_HOLDER p) != c then s
  else
    let first := s.lockFirst.find? (fun e => decide (e.1 = p))
    let s := { s with lockFirst := s.lockFirst.filter (fun e => decide (e.1 ≠ p)) }
    if key = 0 then (if isOpen then s.lockClose p else s)
    else if key = 0x5AFE then { s with lockFirst := (p, src, t) :: s.lockFirst }
    else if key = 0xA501 then
      match first with
      | some (_, src0, t0) => if srcRej src0 = c ∧ t < t0 + 640 then s.lockGive p c t else s
      | none => s
    else s

/-! Privilege, ownership and lock (R47 to R49, R53, R65, R106, R116, R645, R654). -/

/-- The level at which a requester acts (R65). -/
def State.remoteLevel (s : State) (q : Nat) : Nat := min (s.get (RRA.LEVEL q)) (if s.boot.field then 3 else 4)

/-- Whether a source may use the functions kept for the debug port and the factory (R106). -/
def State.factoryOnly (s : State) (src : Src) : Bool :=
  match src with
  | .debug => true
  | .remote q => decide (s.remoteLevel q = 4)
  | _ => false

/-- Whether a remote requester's level lies below the page's level for writes (R65). -/
def State.belowWrite (s : State) (src : Src) (p : Nat) : Bool :=
  match src with | .remote q => decide (s.remoteLevel q < s.get (RRA.WRLVL p)) | _ => false

/-- Whether a write lacks the privilege. -/
def State.lacksPriv (s : State) (src : Src) (p off : Nat) : Bool :=
  s.belowWrite src p
    || (p = 0x50 && off != 0x20 && off != 0x24 && decide (src ≠ .debug))
    || (p = 0x09 && decide (0x160 ≤ off) && decide (off ≤ 0x170) && !s.factoryOnly src)
    || (p = 0x04 && off = 0x120 && (s.boot.field || (match src with
          | .debug => true | .remote q => decide (s.remoteLevel q < 4) | _ => false)))

/-- Whether a write breaches ownership. The push registers take a write of any source. -/
def State.breachesOwner (s : State) (src : Src) (p off : Nat) : Bool :=
  if p = 0x0A ∧ 0x800 ≤ off then false
  else if p = 0x0A ∧ 0x100 ≤ off ∧ off < 0x500 ∧ off % 0x20 = 0x0C then
    decide (src = .stride) || s.ownsUnit p ((off - 0x100) / 0x20) || s.get (BQ.HWC ((off - 0x100) / 0x20)) != 0
  else decide (src = .stride) != s.strideReg p off

/-- Whether a write changes an RWL bit while the lock is not open to its source. -/
def State.meetsLock (s : State) (w : Wr) : Bool :=
  let rwl := typeMask w.p w.off (fun y => decide (y = .rwl)) &&& (if w.off = 0x28 then ownBits w.p else 0xFFFFFFFF)
  decide ((w.new ^^^ w.old) &&& rwl ≠ 0)
    && !(s.lockOpen w.p w.t && decide (s.get (Hdr.LOCK_HOLDER w.p) = srcRej w.src))

/-! Refusals that rest on the state (R55 and the chapters). -/

/-- A `CTRL` write that the page refuses (R36, R71, R131, R565, R608, R632, R640, R654, R661, R680). -/
def State.ctrlRefused (s : State) (w : Wr) : Bool :=
  (w.nil 0 && (runsAlways w.p || w.p = 0x09 || (w.p = 0x0B && s.flag (Hdr.EN 0x0B))))
    || (w.one 1 && (decide (w.p ≤ 0x04) || w.p = 0x08))

/-- Whether groups of `k` neighbours whose bits change are all in OFF; under a pattern their state is FAILSAFE. -/
def State.groupsOff (s : State) (diff k : Nat) (u : Nat → OutU) : Bool :=
  (List.range 26).all (fun j => !bitAt diff j || (List.range k).all (fun i =>
    decide (s.phase (u (k * j + i)) = .off) && !(s.out (u (k * j + i))).fs))

/-- A matrix size may change: rows in OFF, columns old and new in OFF or columns already (R339, log entry 48). -/
def State.matrixIdle (s : State) (w : Wr) : Bool :=
  (List.range 16).all (fun r => decide (s.phase (.row r) = .off) && !(s.out (.row r)).fs)
    && (List.range (max (w.was LMX.COLS) (w.to_ LMX.COLS))).all (fun n =>
        (decide (s.phase (.led n) = .off) || decide (s.phase (.led n) = .column)) && !(s.out (.led n)).fs)

/-- Refusals of the power pages (R208, R209, R230, R289, R305, R306, R339, R376). -/
def State.powerRefused (s : State) (w : Wr) : Bool :=
  let r := (w.off - 0x100) % 0x80
  let k := (w.off - 0x100) / 0x80
  if 0x10 ≤ w.p ∧ w.p ≤ 0x16 ∧ 0x100 ≤ w.off then
    let n := 8 * (w.p - 0x10) + k
    if r = 0 then (w.one 0 && s.slave (.ls n))
      || (decide (52 ≤ n) && (s.podl n || bitAt (s.get LSWC.PODLEN) (n - 52)) && (w.one 1 || w.one 2))
    else if r = 4 then s.slave (.ls n) && (w.v &&& w.m).toNat % 8192 != 0
    else false
  else if w.p = 0x17 then
    if w.off = 0x140 then !s.groupsOff w.diff 2 OutU.ls || (w.names 26 || w.names 27)
    else if w.off = 0x144 then !s.groupsOff w.diff 4 OutU.ls || w.names 13
    else false
  else if 0x18 ≤ w.p ∧ w.p ≤ 0x1B ∧ 0x100 ≤ w.off ∧ r = 0 then w.one 0 && s.slave (.vd (4 * (w.p - 0x18) + k))
  else if w.p = 0x1C ∧ w.off = 0x100 then !s.groupsOff w.diff 2 OutU.vd
  else if (w.p = 0x1D ∨ w.p = 0x1E) ∧ 0x100 ≤ w.off ∧ r = 0 then
    let n := 6 * (w.p - 0x1D) + k
    ((w.one 0 || w.one 1 || w.one 2) && s.slave (.hb n)) || (w.one 2 && !s.hbPaired n)
  else if w.p = 0x1F ∧ w.off = 0x100 then !s.groupsOff w.diff 2 OutU.hb
  else if w.p = 0x20 ∧ 0x100 ≤ w.off ∧ (w.off - 0x100) % 0x40 = 0 then
    w.one 0 && decide ((w.off - 0x100) / 0x40 < s.act LMX.COLS)
  else if w.p = 0x21 then
    if w.off = 0x30 then (w.alters LMX.ROWS || w.alters LMX.COLS) && !s.matrixIdle w
    else decide (0x100 ≤ w.off) && r = 0 && w.one 0 && decide (s.act LMX.ROWS ≤ k)
  else if w.p = 0x26 then
    if w.off = 0x34 then !s.groupsOff w.diff 2 OutU.so
    else decide (0x100 ≤ w.off) && r = 0 && w.one 0 && s.slave (.so k)
  else false

/-- Refusals of the NET pages (R413, R452, R473, R484, R508, R511). -/
def State.netRefused (s : State) (w : Wr) : Bool :=
  if 0x30 ≤ w.p ∧ w.p ≤ 0x37 then decide (0x100 ≤ w.off) && decide (w.off ≤ 0x10C) && s.get (CAN.STATE (w.p - 0x30)) != 0
  else if w.p = 0x39 ∧ 0x100 ≤ w.off then
    ((w.off - 0x100) % 0x20 = 4 || (w.off - 0x100) % 0x20 = 8) && s.flag (NMK.NMEN ((w.off - 0x100) / 0x20))
  else if w.p = 0x40 then w.off = 0x128 && s.flag SWC.MDIODATA_BUSY
  else if 0x41 ≤ w.p ∧ w.p ≤ 0x46 then
    let q := w.p - 0x41
    let other := if w.off = 0x1C0 then s.get (PT.CBS6_IDLESLOPE q) else s.get (PT.CBS5_IDLESLOPE q)
    (w.off = 0x1C0 || w.off = 0x1C4) && decide (portRate q * 750 < bitsOf w.new 0 24 + other)
      || (decide (0x43 ≤ w.p) && w.off = 0x100 && w.one 18)
  else if w.p = 0x47 ∧ 0x100 ≤ w.off ∧ w.off < 0x180 then
    let r := (w.off - 0x100) / 0x10
    s.flag (PH.EN r) && ((w.off % 0x10 = 0 && w.diff != 0) || (w.off % 0x10 = 4 && w.alters (PH.SIZE r)))
  else if w.p = 0x4A ∧ w.off = 0x100 then
    let k := bitsOf w.new 0 8
    let funcs := ((List.range 256).filter (fun i => decide (i ≠ k) && (s.stream i).func != 0)).length
    w.one 8 && ((s.flag SFL.METEN && s.get SFL.CBSZ = 0) || s.get SFL.FUNC = 3 || s.get SFL.RESETTO = 0
      || (s.get SFL.FUNC != 0 && decide (64 ≤ funcs)))
  else false

/-- Refusals of the remaining pages (R118, R395, R406, R577, R538, R596, R633, R639, R654). -/
def State.devRefused (s : State) (w : Wr) : Bool :=
  if w.p = 0x01 then w.off = 0x104 && w.one 0 && s.refselRefused 1
  else if w.p = 0x02 then w.off = 0x158 && (w.v &&& w.m).toNat % 256 != 0
  else if w.p = 0x05 then w.off = 0x108 && w.one 0 && s.nvRefused
  else if w.p = 0x07 then decide (0x164 ≤ w.off) && decide (w.off ≤ 0x16C) && s.feedBusy (s.get REC.FSEL_FEED)
  else if w.p = 0x0A then
    decide (0x100 ≤ w.off) && decide (w.off < 0x500) && (w.off - 0x100) % 0x20 = 0 && w.alters (BQ.DEPTH 0)
      && !(s.queue ((w.off - 0x100) / 0x20)).entries.isEmpty
  else if w.p = 0x0D then
    w.off = 0x60 && ((bitsOf w.new 0 2 = 1 && s.get VLT.CMDARG_PRIV = 0) || (bitsOf w.new 0 2 = 3 && s.get VLT.SLOT = 0 && s.boot.field))
  else if 0x28 ≤ w.p ∧ w.p ≤ 0x2B then (w.off = 0x100 || w.off = 0x104) && s.flag (TMR.RUN (w.p - 0x28))
  else if w.p = 0x2C then
    let us := (List.range 4).filter (bitAt (bitsOf w.new 0 4))
    let same := fun (f : Nat → Fld) => us.all (fun u => decide (s.get (f u) = s.get (f (us.headD 0))))
    w.off = 0x140 && w.one 4 && !(same TMR.PER && same TMR.DIR && same TMR.SRC)
  else if w.p = 0x50 then
    w.off = 0x114 && !(s.flag DBG.HALTED && (if s.get DBG.REG = 0 then bitsOf w.new 0 1 = 0
      else specialOk (s.flag DBG.RSEL_CTX) (s.get DBG.REG) w.new.toNat))
  else false

/-- The value of a field once the write has landed. -/
def State.after (s : State) (w : Wr) (f : Fld) : Nat := if f.page = w.p ∧ f.off = w.off then w.to_ f else s.get f

/-- Whether the write meets a refusal RESV. -/
def State.meetsResv (s : State) (w : Wr) : Bool :=
  !encOk w.p w.off w.new w.m || !relOk w.p w.off (s.after w) || (w.off = 8 && s.ctrlRefused w)
    || s.powerRefused w || s.netRefused w || s.devRefused w

/-- The power unit whose fault flags a word holds. -/
def fltUnit (p off : Nat) : Option OutU :=
  (allUnits ++ (List.range 6).map OutU.lf).find? (fun u => decide ((fFlt u).page = p) && decide ((fFlt u).off = off))

/-- The source whose status word lies at an offset of FCR (R560). -/
def fcrSource (p off : Nat) : Option Nat := if p = 0x06 ∧ 0x600 ≤ off ∧ off < 0x600 + 4 * 0xD4 then some ((off - 0x600) / 4) else none

/-- Whether the write meets a refusal PERSIST (R205, R214, R547, R555, R557). -/
def State.meetsPersist (s : State) (w : Wr) : Bool :=
  let bits := (w.v &&& w.m).toNat
  if w.off = 0x10 then bits &&& s.pageFlt w.p != 0
  else if w.p = 0x20 ∧ w.off = 0x38 then bits &&& (s.pageFlt w.p / 2 ^ 32) != 0
  else match fltUnit w.p w.off with
    | some u => (s.clearFaults u (bits >>> (fFlt u).lo) w.t).isNone
    | none =>
      match fcrSource w.p w.off with
      | some i => w.one 0 && s.flag (FCR.RAISED i) && s.fcrPersists i w.t
      | none =>
        if w.p = 0x06 ∧ w.off = 0x124 then w.one 0 && (List.range 0xD4).any (fun i => s.flag (FCR.RAISED i) && decide (3 ≤ s.cls i))
        else w.p = 0x06 && w.off = 0x144 && s.unholdPersists (bitsOf w.new 0 8)

/-- The first cause for which a write is refused (R54, R55). An aligned offset of a page is the caller's but for remote
access. -/
def State.refusal (s : State) (w : Wr) : Option Cause :=
  if w.off % 4 ≠ 0 ∨ 0xFFC < w.off then some .badop
  else if ¬ pagePresent w.p then some .nopage
  else if s.lacksPriv w.src w.p w.off then some .priv
  else if s.boot.phase = .held then some .inreset
  else if s.breachesOwner w.src w.p w.off then some .owned
  else if s.meetsLock w then some .locked
  else if s.meetsResv w then some .resv
  else if s.meetsPersist w then some .persist
  else none

/-- The record of a refused write (R45, R54). -/
def State.reject (s : State) (w : Wr) (c : Cause) : State :=
  if c = .badop ∨ c = .nopage then s
  else
    let s := ((s.put (Hdr.REJ_OFF w.p) w.off).put (Hdr.REJ_CAUSE w.p) c.code).put (Hdr.REJ_SRC w.p) (srcRej w.src)
    s.count (Hdr.REJ_COUNT w.p)

/-! Effects of writes that land. -/

/-- CTRL (R45, R57, R58, R71, R131). -/
def State.ctrlWrite (s : State) (w : Wr) : State :=
  let s := s.put (Hdr.FRZ w.p) (bitsOf w.new 2 1)
  let s := if w.one 3 then s.wr w.p 0x18 0 else s
  if w.one 1 then (if w.p = 0x09 ∨ w.p = 0x0B then s.deviceReset causeSoft 0 w.t else s.pageReset w.p w.t)
  else if w.one 0 then s.pageEnable w.p true w.t
  else if w.nil 0 then s.pageEnable w.p false w.t
  else s

/-- The word that a write leaves in a push latch, whose register reads as 0 (R60, R113). -/
def Wr.mix (w : Wr) (old : Nat) : Nat := ((BitVec.ofNat 32 old &&& ~~~w.m) ||| (w.v &&& w.m)).toNat

/-- A write of PUSHGO: its latch, then the push (R113). -/
def State.pushWrite (s : State) (w : Wr) : State :=
  let go := w.mix (s.latch w.src).go
  (s.setLatch w.src { s.latch w.src with go := go }).pushGo w.src (go % 2 ^ 16) (go / 2 ^ 16 % 32) w.t

/-- EN and APPLY of RPLCTRL are written (R106). -/
def State.replayMode (s : State) (w : Wr) : State :=
  if w.was STR.RPLCTRL_EN = 1 then
    let s := s.put STR.RPLCTRL_EN 1
    if w.alters STR.APPLY ∧ ¬ w.one 1 then s.replayHold w.t else s
  else if w.one 0 then s.replayEnter w.src (w.one 1) w.t
  else s

/-- Effects on the pages of the device level and of CORE. -/
def State.devEffect (s : State) (w : Wr) : State :=
  if w.p = 0x00 then
    if w.off = 0x130 then
      let s := s.put SYS.CLR 0
      (List.range 9).foldl (fun s k => if w.one (k + 1) then s.put (SYS.COUNT k) 0 else s) s
    else s
  else if w.p = 0x01 then
    if w.off = 0x104 then
      let v := w.to_ CLK.REFSEL
      if w.alters CLK.REFSEL ∨ (w.one 0 ∧ s.get CLK.ROOTSRC ≠ 2) then s.refSelect v w.t else s
    else if w.off = 0x110 then (if w.alters CLK.LPSRC then s.lpConfig else s)
    else if w.off = 0x12C then
      if w.to_ CLK.GATEDIS = 1 then ((s.put (CLK.GATED 0) 0).put (CLK.GATED 1) 0).put (CLK.GATED 2) 0 else s
    else s
  else if w.p = 0x02 then
    if w.off = 0x148 then s.wakeTimer w.new.toNat w.t
    else if w.off = 0x14C then (if w.one 0 then s.put PWR.LATCHED 0 else s)
    else if w.off = 0x150 then
      let was := ms (60000 * w.was PWR.HOLD)
      let new := ms (60000 * w.to_ PWR.HOLD)
      (List.range 8).foldl (fun s x => match s.due (.maskHold x) with
        | some d => s.arm (.maskHold x) (d - was + new)
        | none => s) s
    else if w.off = 0x158 then
      (List.range 8).foldl (fun s x => if bitAt w.new.toNat x then s else s.disarm (.maskHold x)) s
    else s
  else if w.p = 0x03 then (if w.off = 0x118 ∧ w.one 0 then s.mmClear else s)
  else if w.p = 0x04 then
    if w.off = 0x11C then (if w.one 0 then s.svCommit else s)
    else if w.off = 0x120 then (s.put BOOT.KEY 0).toField w.t
    else s
  else if w.p = 0x05 then (if w.off = 0x108 ∧ w.one 0 then s.nvGo else s)
  else if w.p = 0x09 then
    if w.off = 0x100 then
      let s := s.put STR.LENPEND 1
      if s.stride.running && decide (s.stride.tick ≠ 0) && !s.stride.dozed then s.planTick (s.splitAt w.t + 1) else s
    else if w.off = 0x160 then
      let s := s.replayMode w
      if w.one 2 ∧ s.flag STR.RPLCTRL_EN ∧ s.stride.suspended.isNone then s.replayStep w.t else s
    else s
  else if w.p = 0x0A then
    let l := s.latch w.src
    if w.off = 0x800 then s.setLatch w.src { l with p0 := w.mix l.p0 }
    else if w.off = 0x804 then s.setLatch w.src { l with p1 := w.mix l.p1 }
    else if w.off = 0x808 then s.pushWrite w
    else if 0x100 ≤ w.off ∧ w.off < 0x500 ∧ w.off % 0x20 = 0x0C then
      let k := (w.off - 0x100) / 0x20
      let s := if w.one 0 then s.qAdvance k else s
      if w.one 1 then s.qFlush k else s
    else s
  else if w.p = 0x0B then
    if w.off = 0x140 ∧ w.one 0 then (((s.put PAC.INJ 0).put PAC.TDONE 1).evt 0x0B 1).detect 0x1C 0
    else if w.off = 0x140 ∧ w.nil 0 then s.put PAC.TDONE 0
    else s
  else if w.p = 0x2C then
    if w.off = 0x140 ∧ w.one 4 then { s with stg := { s.stg with tstag := some (bitsOf w.new 0 4) } } else s
  else if w.p = 0x50 ∧ w.off = 0x114 then
    s.setCtx (s.flag DBG.RSEL_CTX) (fun c => c.setSpecial (s.get DBG.REG) w.new.toNat)
  else s

/-- Effects on the SAFE pages. -/
def State.safeEffect (s : State) (w : Wr) : State :=
  if w.p = 0x06 then
    if w.off = 0x124 then (if w.one 0 then s.setStride (fun r => { r with safeRel := true }) else s)
    else if w.off = 0x140 then s.fcrAck (bitsOf w.new 0 8) w.t
    else if w.off = 0x144 then s.fcrUnhold (bitsOf w.new 0 8) (bitsOf w.new 8 8)
    else match fcrSource w.p w.off with
      | some i => if w.one 0 ∧ w.was (FCR.RAISED 0) = 1 then s.fcrClear i w.t else s
      | none => s
  else if w.p = 0x07 then
    let k := s.get REC.FSEL_FEED
    if w.off = 0x100 then (if w.one 0 then s.flushTrigger 0 w.t else s)
    else if w.off = 0x114 then s.recPut (bitsOf w.new 0 12) (s.get REC.ARG0 + 2 ^ 32 * s.get REC.ARG1) w.t
    else if w.off = 0x118 then s.setLe (recCounter (bitsOf w.new 0 12) + 7) 1
      (s.le (recCounter (bitsOf w.new 0 12) + 7) 1 / 16 * 16 + bitsOf w.new 12 4)
    else if w.off = 0x164 then s.setLe (feedCfg k) 4 w.new.toNat
    else if w.off = 0x168 ∨ w.off = 0x16C then (if k < 256 then s.setLe (feedCfg k + (w.off - 0x164)) 4 w.new.toNat else s)
    else if w.off = 0x170 then s.feedClear (bitsOf w.new 0 9)
    else if w.off = 0x178 then s.feedPut (bitsOf w.new 0 9) (s.get REC.VAL) w.t
    else if w.off = 0x184 then (s.put REC.KEY 0).recWipe w.t
    else s
  else if w.p = 0x0D then (if w.off = 0x60 then s.vltStart (bitsOf w.new 0 2) else s)
  else s

/-- A MAC table command: read, write, delete or flush (R477, R506). -/
def State.macCmd (s : State) (op : Nat) : State :=
  let i := s.get SWC.INDEX
  let e := s.sw.macs.find? (fun (e : Nat × MacEnt) => decide (e.1 = i))
  match op with
  | 0 =>
    let m := (e.map (·.2)).getD macInit
    (((((s.put SWC.MAC0 (m.mac / 65536)).put SWC.MAC1 m.mac).put SWC.FID m.fid).put SWC.STATIC (b2n m.fixed)).put
      SWC.MACD1_VALID (b2n e.isSome)).put SWC.MACD2_PORTS m.ports
  | 1 =>
    if s.flag SWC.MACD1_VALID then
      s.setMac i (some { mac := s.get SWC.MAC0 * 65536 + s.get SWC.MAC1, fid := s.get SWC.FID, ports := s.get SWC.MACD2_PORTS,
                         fixed := s.flag SWC.STATIC, seen := s.now })
    else s.setMac i none
  | 2 => s.setMac i none
  | _ => (s.sw.macs.filter (fun (e : Nat × MacEnt) => !e.2.fixed)).foldl (fun s (e : Nat × MacEnt) => s.setMac e.1 none) s

/-- The stream window takes an entry, or is stored to it (R511). The status bit BLOCKED stays the entry's own. -/
def State.sflSelect (s : State) (k : Nat) (store_ : Bool) : State :=
  let w := fun i => (s.rd 0x4A (0x110 + 4 * i)).toNat
  if store_ then
    s.setStream k (fun e => { e with
      w0 := w 0, w1 := w 1, w2 := clrBit (w 2) 15 + (if bitAt e.w2 15 then 2 ^ 15 else 0), w3 := w 3 })
  else
    let e := s.stream k
    let put := fun (s : State) (i v : Nat) => s.wr 0x4A (0x110 + 4 * i) (BitVec.ofNat 32 v)
    put (put (put (put s 0 e.w0) 1 e.w1) 2 (clrBit e.w2 15)) 3 e.w3

/-- The credits of a port up to a write that changes its slopes or its gates, under the register as it was (R484). -/
def State.creditBefore (s : State) (w : Wr) (q : Nat) : State := ((s.wr w.p w.off w.old).creditTo q w.t).wr w.p w.off (s.rd w.p w.off)

/-- Effects on the NET pages. -/
def State.netEffect (s : State) (w : Wr) : State :=
  if 0x30 ≤ w.p ∧ w.p ≤ 0x37 then
    let x := w.p - 0x30
    let each := fun (g : State → Nat → State) => (List.range 2).foldl (fun s f => if w.one f then g s f else s) s
    if w.off = 0x100 then (if w.alters (CAN.FDEN x) then State.txPurge x 1 w.t 32 (State.txPurge x 0 w.t 32 s) else s)
    else if w.off = 0x128 then each (fun s f => s.rxAck x f)
    else if w.off = 0x130 then each (fun s f => s.txPutGo x f w.t)
    else if w.off = 0x134 then
      let s := each (fun s f => s.txFlush x f w.t)
      if w.one 8 then s.canRecover x else s
    else s
  else if w.p = 0x38 then (if w.off = 0x100 then s.canAren w.new.toNat (w.v &&& w.m).toNat else s)
  else if w.p = 0x39 then
    if w.off = 0x30 then s.agreeCheck w.t
    else if 0x100 ≤ w.off ∧ (w.off - 0x100) % 0x20 = 0 then s.nmEnable ((w.off - 0x100) / 0x20) w.t else s
  else if w.p = 0x40 then
    if w.off = 0x128 then s.put SWC.MDIODATA_BUSY 1
    else if w.off = 0x130 then s.macCmd (bitsOf w.new 0 2)
    else s
  else if 0x41 ≤ w.p ∧ w.p ≤ 0x46 then
    let q := w.p - 0x41
    if q < 2 ∧ w.off = 0x1D0 ∧ w.alters (PT.EN q) then (s.put (PT.VERIFY q) (w.to_ (PT.EN q))).put (PT.ACTIVE q) 0
    else if w.off = 0x1C0 ∨ w.off = 0x1C4 then s.creditBefore w q
    else if 0x140 ≤ w.off ∧ w.off < 0x1C0 ∧ w.off % 0x10 = 0 then s.swFree else s
  else if w.p = 0x49 then
    if w.off = 0x304 then
      if s.flag TAS.OPER then s
      else
        let k := 256 * s.get TAS.PORT + s.get TAS.INDEX
        { s with sw := { s.sw with gcl := store (0xFF, 0) k (bitsOf w.new 0 8, bitsOf w.new 8 24) s.sw.gcl } }
    else if 0x100 ≤ w.off ∧ w.off < 0x280 ∧ w.off % 0x40 = 0 then
      let q := (w.off - 0x100) / 0x40
      let s := s.creditBefore w q
      if w.one 1 then s.tasCfgchg q w.t else s
    else s
  else if w.p = 0x4A then
    if w.off = 0x100 then s.sflSelect (bitsOf w.new 0 8) (w.one 8)
    else if w.off = 0x118 ∧ w.one 15 then s.setStream (s.get SFL.INDEX) (fun e => { e with w2 := clrBit e.w2 15 })
    else s
  else if w.p = 0x4B then
    if 0x100 ≤ w.off ∧ w.off < 0x180 ∧ w.off % 0x10 = 8 ∧ w.was (RRA.VALID 0) = 0 ∧ w.to_ (RRA.VALID 0) = 1 then
      s.put (RRA.FRESH ((w.off - 0x100) / 0x10)) 0
    else s
  else s

/-- Effects on the pages of power and sense: a write that names TYPE, INV, WET, WCUR or WDIR of an input restarts its run, also with
the values they have (DEDUCED, log entry 89), and one that names DEB alone compares the run from the next sample on (R365); a timer
channel's mode shows in its status (R392). -/
def State.ioEffect (s : State) (w : Wr) : State :=
  if (w.p = 0x24 ∨ w.p = 0x25) ∧ 0x100 ≤ w.off ∧ (w.off - 0x100) % 0x10 = 0 then
    let n := 32 * (w.p - 0x24) + (w.off - 0x100) / 0x10
    let s := if w.m.toNat / 0x10000 = 0 then s else s.setDin n (fun d => { d with debAt := w.t + 1 })
    if w.m &&& 0xFF = 0 then s else s.dinRestart n w.t
  else if 0x28 ≤ w.p ∧ w.p ≤ 0x2B ∧ 0x140 ≤ w.off then s.tmrStat (w.p - 0x28)
  else s

/-- Which write-only registers hold what was written for a later command (R532, R573). -/
def holdsWo (p off : Nat) : Bool := (p = 0x0D && decide (0x40 ≤ off) && decide (off ≤ 0x54)) || (p = 0x07 && off = 0x174)

/-- The word is stored, RWS fields in their shadow (R46, R50). -/
def State.land (s : State) (w : Wr) : State :=
  let rws := typeMask w.p w.off (fun y => decide (y = .rws))
  let wo := if holdsWo w.p w.off then 0 else typeMask w.p w.off (fun y => decide (y = .wo))
  let now := s.rd w.p w.off
  let s := if isWindow w.p w.off then s else s.wr w.p w.off (((w.new &&& ~~~rws) ||| (now &&& rws)) &&& ~~~wo)
  if rws &&& w.m = 0 then s else { s with shadow := ins (regKey w.p w.off) w.new s.shadow }

/-- A write that lands: fault words by their own rule, CTRL, the lock, else the stored word and its effects. -/
def State.landed (s : State) (w : Wr) : State :=
  if w.off = 8 then s.ctrlWrite w
  else if w.off = 0x1C then (if w.m = 0 then s else s.lockKey w.src w.p (bitsOf w.new 0 16) w.t)
  else if w.off = 0x10 ∨ (w.p = 0x20 ∧ w.off = 0x38) then s
  else match fltUnit w.p w.off with
    | some u => (s.clearFaults u ((w.v &&& w.m).toNat >>> (fFlt u).lo) w.t).getD s
    | none =>
      let s := if (fcrSource w.p w.off).isSome then s else s.land { w with new := if w.off = 0x28 then w.new &&& ownBits w.p else w.new }
      if w.p ≤ 5 ∨ (0x09 ≤ w.p ∧ w.p ≤ 0x0B) ∨ w.p = 0x2C ∨ w.p = 0x50 then s.devEffect w
      else if w.p ≤ 0x0D then s.safeEffect w
      else if 0x30 ≤ w.p then s.netEffect w
      else s.ioEffect w


/-- A write of a register by a source at `t`: the state, and the cause if it was refused (R54). A word without a writable
field ignores it and records nothing (R46, log entry 47); a requester that lacks the page's level learns so there too (R65, log entry 96). -/
def State.busWrite (s : State) (src : Src) (p off : Nat) (v m : Word) (t : Nat) : State × Option Cause :=
  let s := s.reach t
  if off % 4 = 0 ∧ off ≤ 0xFFC ∧ pagePresent p ∧ writable p off = 0 then
    (s, if s.belowWrite src p then some .priv else none)
  else
    let w := s.wrOf src p off v m t
    match s.refusal w with
    | some c => (s.reject w c, some c)
    | none => (s.landed w, none)

/-- A read of a register by a source at `t`: the word, the state, and the cause if a requester lacks the level (R44, R48,
R65). An absent page reads 0 by remote access and by the debug port; the Pacer's trap is the Pacer's. -/
def State.busRead (s : State) (src : Src) (p off t : Nat) : Word × State × Option Cause :=
  let s := s.reach t
  let low := match src with | .remote q => decide (s.remoteLevel q < s.get (RRA.RDLVL p)) | _ => false
  if off % 4 ≠ 0 ∨ 0xFFC < off then (0, s, some .badop)
  else if low then (0, s, some .priv)
  else if ¬ pagePresent p then (0, s, none)
  else
    let r := s.readReg p off t src
    (r.1, r.2, none)

end Sys2Proof.Machine
end

