-- ==== Sys2Proof/Machine/Commands.lean ====
section
/-! DEFINITION. The commands that are writes or reads of one register: each goes the way of every register access
(R46 to R55). A mask names the bits written; the Pacer and the debug port write all 32. -/
namespace Sys2Proof.Machine

/-- REGISTER_WRITE: the value `v` under mask `m`; the Pacer writes whole words (R54). -/
def execRegisterWrite (t : Nat) (src : Src) (p off : Nat) (v m : Word) (s : State) : Host.Outcome State Fault Refusal :=
  .next ((s.busWrite src p off v m t).1)

/-- REJ_CLEAR: CTRL with RJC = 1 (R45). -/
def execRejClear (t : Nat) (src : Src) (p : Nat) (v m : Word) (s : State) : Host.Outcome State Fault Refusal :=
  .next ((s.busWrite src p 8 (v ||| 8) (m ||| 8) t).1)

/-- LOCK_KEY_WRITE: a word to LOCK.KEY (R53). -/
def execLockKeyWrite (t : Nat) (src : Src) (p key : Nat) (s : State) : Host.Outcome State Fault Refusal :=
  .next ((s.busWrite src p 0x1C (BitVec.ofNat 32 (key % 65536)) 0xFFFFFFFF t).1)

/-- LOCK_EXPIRY: the 1 ms of the lock ends (R53). -/
def execLockExpiry (p : Nat) (s : State) : Host.Outcome State Fault Refusal :=
  .next (s.onExpiry (.lock p) (fun _ s => s.lockClose p))

/-- PAGE_ENABLE: CTRL with EN as given (R45, R57). -/
def execPageEnable (t : Nat) (src : Src) (p : Nat) (en : Bool) (v m : Word) (s : State) : Host.Outcome State Fault Refusal :=
  .next ((s.busWrite src p 8 ((v &&& 0xFFFFFFFE) ||| BitVec.ofNat 32 (b2n en)) (m ||| 1) t).1)

/-- PAGE_SOFT_RESET: CTRL with SRST = 1 (R58). -/
def execPageSoftReset (t : Nat) (src : Src) (p : Nat) (v m : Word) (s : State) : Host.Outcome State Fault Refusal :=
  .next ((s.busWrite src p 8 (v ||| 2) (m ||| 2) t).1)

/-- SOFT_RESET: CTRL of PAC or STR with SRST = 1 (R71, R131). -/
def execSoftReset (t : Nat) (src : Src) (pac : Bool) (v m : Word) (s : State) : Host.Outcome State Fault Refusal :=
  .next ((s.busWrite src (if pac then 0x0B else 0x09) 8 (v ||| 2) (m ||| 2) t).1)

/-- PAC_ENABLE: PAC.CTRL with EN = 1 (R131). -/
def execPacEnable (t : Nat) (src : Src) (v m : Word) (s : State) : Host.Outcome State Fault Refusal :=
  .next ((s.busWrite src 0x0B 8 (v ||| 1) (m ||| 1) t).1)

/-- REPLAY_ENTER: STR.RPLCTRL with EN = 1 (R106). -/
def execReplayEnter (t : Nat) (src : Src) (v m : Word) (s : State) : Host.Outcome State Fault Refusal :=
  .next ((s.busWrite src 0x09 0x160 (v ||| 1) (m ||| 1) t).1)

/-- REPLAY_STEP: STR.RPLCTRL with STEP = 1 (R106 to R108). -/
def execReplayStep (t : Nat) (src : Src) (v m : Word) (s : State) : Host.Outcome State Fault Refusal :=
  .next ((s.busWrite src 0x09 0x160 (v ||| 4) (m ||| 4) t).1)

/-- BATON_PUSH: BQ.PUSHGO with TL and queue (R113). -/
def execBatonPush (t : Nat) (src : Src) (tl k : Nat) (s : State) : Host.Outcome State Fault Refusal :=
  .next ((s.busWrite src 0x0A 0x808 (BitVec.ofNat 32 (tl % 65536 + 65536 * (k % 32))) 0xFFFFFFFF t).1)

/-- QUEUE_ADVANCE: BQ.QkADV with ADV = 1 (R116). -/
def execQueueAdvance (t : Nat) (src : Src) (k : Nat) (s : State) : Host.Outcome State Fault Refusal :=
  .next ((s.busWrite src 0x0A (0x10C + 0x20 * (k % 32)) 1 0xFFFFFFFF t).1)

/-- QUEUE_FLUSH: BQ.QkADV with FLUSH = 1 (R122). -/
def execQueueFlush (t : Nat) (src : Src) (k : Nat) (s : State) : Host.Outcome State Fault Refusal :=
  .next ((s.busWrite src 0x0A (0x10C + 0x20 * (k % 32)) 2 0xFFFFFFFF t).1)

/-- LOCKSTEP_INJECT: PAC.LSCTRL with INJ = 1 (R126). -/
def execLockstepInject (t : Nat) (src : Src) (v m : Word) (s : State) : Host.Outcome State Fault Refusal :=
  .next ((s.busWrite src 0x0B 0x140 (v ||| 1) (m ||| 1) t).1)

/-- CHANNEL_FAULT_CLEAR: a unit's fault flags (R205, R214, R294, R334). -/
def execChannelFaultClear (t : Nat) (src : Src) (u : OutU) (v m : Word) (s : State) : Host.Outcome State Fault Refusal :=
  .next ((s.busWrite src (fFlt u).page (fFlt u).off v m t).1)

/-- TSTAG_GO: STG.TSTAG with GO = 1 (R406). -/
def execTstagGo (t : Nat) (src : Src) (units : Nat) (s : State) : Host.Outcome State Fault Refusal :=
  .next ((s.busWrite src 0x2C 0x140 (BitVec.ofNat 32 (units % 16 + 16)) 0xFFFFFFFF t).1)

/-- CAN_TX_PUT: CANx.TXFPUT bit f (R429). -/
def execCanTxPut (t : Nat) (src : Src) (x f : Nat) (s : State) : Host.Outcome State Fault Refusal :=
  .next ((s.busWrite src (0x30 + x % 8) 0x130 (BitVec.ofNat 32 (1 <<< (f % 2))) 0xFFFFFFFF t).1)

/-- CAN_RX_ACK: CANx.RXFACK bit f (R426). -/
def execCanRxAck (t : Nat) (src : Src) (x f : Nat) (s : State) : Host.Outcome State Fault Refusal :=
  .next ((s.busWrite src (0x30 + x % 8) 0x128 (BitVec.ofNat 32 (1 <<< (f % 2))) 0xFFFFFFFF t).1)

/-- CAN_TX_FLUSH: CANx.TXFCTL F0FLUSH or F1FLUSH (R436). -/
def execCanTxFlush (t : Nat) (src : Src) (x f : Nat) (s : State) : Host.Outcome State Fault Refusal :=
  .next ((s.busWrite src (0x30 + x % 8) 0x134 (BitVec.ofNat 32 (1 <<< (f % 2))) 0xFFFFFFFF t).1)

/-- CAN_MANUAL_RECOVER: CANx.TXFCTL.RECOVER (R417). -/
def execCanManualRecover (t : Nat) (src : Src) (x : Nat) (s : State) : Host.Outcome State Fault Refusal :=
  .next ((s.busWrite src (0x30 + x % 8) 0x134 0x100 0xFFFFFFFF t).1)

/-- CAN_AUTO_RETURN_ENABLE: CANC.AREN (R419). -/
def execCanAutoReturnEnable (t : Nat) (src : Src) (v m : Word) (s : State) : Host.Outcome State Fault Refusal :=
  .next ((s.busWrite src 0x38 0x100 v m t).1)

/-- NM_ENABLE: NMK.CHxCTRL with NMEN as given (R446, R449). -/
def execNmEnable (t : Nat) (src : Src) (x : Nat) (en : Bool) (v m : Word) (s : State) : Host.Outcome State Fault Refusal :=
  .next ((s.busWrite src 0x39 (0x100 + 0x20 * (x % 8)) ((v &&& 0xFFFFFFFE) ||| BitVec.ofNat 32 (b2n en)) (m ||| 1) t).1)

/-- MDIO_WRITE: SWC.MDIOCMD with OP 0 (R473). -/
def execMdioWrite (t : Nat) (src : Src) (v : Word) (s : State) : Host.Outcome State Fault Refusal :=
  .next ((s.busWrite src 0x40 0x128 ((v &&& 0xFFFFFF3F) ||| 0x0) 0xFFFFFFFF t).1)

/-- MDIO_READ: SWC.MDIOCMD with OP 1 (R473). -/
def execMdioRead (t : Nat) (src : Src) (v : Word) (s : State) : Host.Outcome State Fault Refusal :=
  .next ((s.busWrite src 0x40 0x128 ((v &&& 0xFFFFFF3F) ||| 0x40) 0xFFFFFFFF t).1)

/-- MDIO_ADDRESS: SWC.MDIOCMD with OP 2 (R473). -/
def execMdioAddress (t : Nat) (src : Src) (v : Word) (s : State) : Host.Outcome State Fault Refusal :=
  .next ((s.busWrite src 0x40 0x128 ((v &&& 0xFFFFFF3F) ||| 0x80) 0xFFFFFFFF t).1)

/-- MAC_READ: SWC.MACCMD with OP 0 (R506). -/
def execMacRead (t : Nat) (src : Src) (i : Nat) (s : State) : Host.Outcome State Fault Refusal :=
  .next ((s.busWrite src 0x40 0x130 (BitVec.ofNat 32 (0 + 4 * (i % 4096))) 0xFFFFFFFF t).1)

/-- MAC_WRITE: SWC.MACCMD with OP 1 (R506). -/
def execMacWrite (t : Nat) (src : Src) (i : Nat) (s : State) : Host.Outcome State Fault Refusal :=
  .next ((s.busWrite src 0x40 0x130 (BitVec.ofNat 32 (1 + 4 * (i % 4096))) 0xFFFFFFFF t).1)

/-- MAC_DELETE: SWC.MACCMD with OP 2 (R506). -/
def execMacDelete (t : Nat) (src : Src) (i : Nat) (s : State) : Host.Outcome State Fault Refusal :=
  .next ((s.busWrite src 0x40 0x130 (BitVec.ofNat 32 (2 + 4 * (i % 4096))) 0xFFFFFFFF t).1)

/-- MAC_FLUSH_DYNAMIC: SWC.MACCMD with OP 3 (R506). -/
def execMacFlushDynamic (t : Nat) (src : Src) (i : Nat) (s : State) : Host.Outcome State Fault Refusal :=
  .next ((s.busWrite src 0x40 0x130 (BitVec.ofNat 32 (3 + 4 * (i % 4096))) 0xFFFFFFFF t).1)

/-- TAS_CFGCHG: TAS.PpCTRL with CFGCHG = 1 (R485). -/
def execTasCfgchg (t : Nat) (src : Src) (p : Nat) (v m : Word) (s : State) : Host.Outcome State Fault Refusal :=
  .next ((s.busWrite src 0x49 (0x100 + 0x40 * (p % 6)) (v ||| 2) (m ||| 2) t).1)

/-- SFL_SELECT: SFL.SEL without STORE (R511). -/
def execSflSelect (t : Nat) (src : Src) (i : Nat) (s : State) : Host.Outcome State Fault Refusal :=
  .next ((s.busWrite src 0x4A 0x100 (BitVec.ofNat 32 (i % 256)) 0xFFFFFFFF t).1)

/-- SFL_STORE: SFL.SEL with STORE = 1 (R511). -/
def execSflStore (t : Nat) (src : Src) (i : Nat) (s : State) : Host.Outcome State Fault Refusal :=
  .next ((s.busWrite src 0x4A 0x100 (BitVec.ofNat 32 (i % 256 + 256)) 0xFFFFFFFF t).1)

/-- ENROL: VLT.CMD with OP 1 (R532). -/
def execEnrol (t : Nat) (src : Src) (s : State) : Host.Outcome State Fault Refusal :=
  .next ((s.busWrite src 0x0D 0x60 1 0xFFFFFFFF t).1)

/-- REVOKE: VLT.CMD with OP 2 (R532). -/
def execRevoke (t : Nat) (src : Src) (s : State) : Host.Outcome State Fault Refusal :=
  .next ((s.busWrite src 0x0D 0x60 2 0xFFFFFFFF t).1)

/-- KEYLOAD: VLT.CMD with OP 3 (R532). -/
def execKeyload (t : Nat) (src : Src) (s : State) : Host.Outcome State Fault Refusal :=
  .next ((s.busWrite src 0x0D 0x60 3 0xFFFFFFFF t).1)

/-- FAULT_ACK: FCR.ACK (R552). -/
def execFaultAck (t : Nat) (src : Src) (i : Nat) (s : State) : Host.Outcome State Fault Refusal :=
  .next ((s.busWrite src 0x06 0x140 (BitVec.ofNat 32 (i % 256)) 0xFFFFFFFF t).1)

/-- FAULT_UNHOLD: FCR.UNHOLD (R547). -/
def execFaultUnhold (t : Nat) (src : Src) (i u : Nat) (s : State) : Host.Outcome State Fault Refusal :=
  .next ((s.busWrite src 0x06 0x144 (BitVec.ofNat 32 (i % 256 + 256 * (u % 256))) 0xFFFFFFFF t).1)

/-- FAULT_CLEAR: FCR.SSTATi.RAISED = 1 (R555). -/
def execFaultClear (t : Nat) (src : Src) (i : Nat) (s : State) : Host.Outcome State Fault Refusal :=
  .next ((s.busWrite src 0x06 (0x600 + 4 * i) 1 0xFFFFFFFF t).1)

/-- SAFE_RELEASE: FCR.SAFEREL.REL = 1 (R557). -/
def execSafeRelease (t : Nat) (src : Src) (s : State) : Host.Outcome State Fault Refusal :=
  .next ((s.busWrite src 0x06 0x124 1 0xFFFFFFFF t).1)

/-- RECORD_CODE_PUT: REC.CPUT (R573). -/
def execRecordCodePut (t : Nat) (src : Src) (c : Nat) (s : State) : Host.Outcome State Fault Refusal :=
  .next ((s.busWrite src 0x07 0x114 (BitVec.ofNat 32 (c % 4096)) 0xFFFFFFFF t).1)

/-- CODE_CLASS_ASSIGN: REC.CODECFG (R575). -/
def execCodeClassAssign (t : Nat) (src : Src) (c cls : Nat) (s : State) : Host.Outcome State Fault Refusal :=
  .next ((s.busWrite src 0x07 0x118 (BitVec.ofNat 32 (c % 4096 + 4096 * (cls % 16))) 0xFFFFFFFF t).1)

/-- FEED_PUT: REC.FPUT (R577). -/
def execFeedPut (t : Nat) (src : Src) (k : Nat) (s : State) : Host.Outcome State Fault Refusal :=
  .next ((s.busWrite src 0x07 0x178 (BitVec.ofNat 32 (k % 512)) 0xFFFFFFFF t).1)

/-- FEED_CLEAR: REC.FCLR (R577). -/
def execFeedClear (t : Nat) (src : Src) (k : Nat) (s : State) : Host.Outcome State Fault Refusal :=
  .next ((s.busWrite src 0x07 0x170 (BitVec.ofNat 32 (k % 512)) 0xFFFFFFFF t).1)

/-- FLUSH_COMMAND: REC.FCTRL with FLUSH = 1 (R580). -/
def execFlushCommand (t : Nat) (src : Src) (v m : Word) (s : State) : Host.Outcome State Fault Refusal :=
  .next ((s.busWrite src 0x07 0x100 (v ||| 1) (m ||| 1) t).1)

/-- RECORD_READ: a read of REC.RDDATA (R585). -/
def execRecordRead (t : Nat) (src : Src) (s : State) : Host.Outcome State Fault Refusal :=
  .next ((s.busRead src 0x07 0x180 t).2.1)

/-- RECORD_WIPE: REC.WIPE (R586). -/
def execRecordWipe (t : Nat) (src : Src) (key : Nat) (s : State) : Host.Outcome State Fault Refusal :=
  .next ((s.busWrite src 0x07 0x184 (BitVec.ofNat 32 (key % 65536)) 0xFFFFFFFF t).1)

/-- REFERENCE_SELECT: CLK.REFCFG with REFSEL as given (R596). -/
def execReferenceSelect (t : Nat) (src : Src) (rclk : Bool) (v m : Word) (s : State) : Host.Outcome State Fault Refusal :=
  .next ((s.busWrite src 0x01 0x104 ((v &&& 0xFFFFFFFE) ||| BitVec.ofNat 32 (b2n rclk)) (m ||| 1) t).1)

/-- PAD_RELEASE: PWR.PADREL.REL = 1 (R623). -/
def execPadRelease (t : Nat) (src : Src) (s : State) : Host.Outcome State Fault Refusal :=
  .next ((s.busWrite src 0x02 0x14C 1 0xFFFFFFFF t).1)

/-- WAKE_TIMER_WRITE: PWR.WKTMR (R626). -/
def execWakeTimerWrite (t : Nat) (src : Src) (v : Word) (s : State) : Host.Outcome State Fault Refusal :=
  .next ((s.busWrite src 0x02 0x148 v 0xFFFFFFFF t).1)

/-- NV_PROGRAM: NVC.CMD.GO = 1 (R639). -/
def execNvProgram (t : Nat) (src : Src) (s : State) : Host.Outcome State Fault Refusal :=
  .next ((s.busWrite src 0x05 0x108 1 0xFFFFFFFF t).1)

/-- SV_COMMIT: BOOT.SVCOMMIT.GO = 1 (R644). -/
def execSvCommit (t : Nat) (src : Src) (s : State) : Host.Outcome State Fault Refusal :=
  .next ((s.busWrite src 0x04 0x11C 1 0xFFFFFFFF t).1)

/-- LIFECYCLE_CHANGE: BOOT.LCREQ.KEY (R645). -/
def execLifecycleChange (t : Nat) (src : Src) (key : Nat) (s : State) : Host.Outcome State Fault Refusal :=
  .next ((s.busWrite src 0x04 0x120 (BitVec.ofNat 32 (key % 65536)) 0xFFFFFFFF t).1)

/-- VBAT_MINMAX_CLEAR: SUP.MMCLR = 1 (R681). -/
def execVbatMinmaxClear (t : Nat) (src : Src) (s : State) : Host.Outcome State Fault Refusal :=
  .next ((s.busWrite src 0x03 0x118 1 0xFFFFFFFF t).1)

end Sys2Proof.Machine
end

