-- ==== Sys2Proof/Machine/Bus.lean ====
section
/-! DEFINITION. Accesses to the address map by the Pacer and the debug port (R41, R42, R44, R81, R82, R106). -/
namespace Sys2Proof.Machine

/-- Whether an address lies in a register page's range. -/
def isPage (a : Nat) : Bool := decide (0x40000000 ≤ a) && decide (a < 0x40100000)

/-- Whether memory at an address can be read by bytes (R41). -/
def readable (a : Nat) : Bool :=
  decide (a < 0x180000) || (decide (0x200000 ≤ a) && decide (a < 0x2E0000)) || (decide (0x300000 ≤ a) && decide (a < 0x480000))
    || (decide (0x10000000 ≤ a) && decide (a < 0x10800000)) || (decide (0x20000000 ≤ a) && decide (a < 0x20010000))

/-- Whether memory at an address can be written by bytes (R41). -/
def writableMem (a : Nat) : Bool :=
  decide (a < 0x180000) || (decide (0x200000 ≤ a) && decide (a < 0x2E0000)) || (decide (0x380000 ≤ a) && decide (a < 0x400000))

/-- A byte of snapshot memory by its offset: the current bank below, above it the previous bank from the cut-off on, or the
load buffer of replay (R81, R82, R106). -/
def State.snapByte (s : State) (o : Nat) : Byte :=
  if o < 0x40000 then look 0 s.stride.snap o
  else if s.flag STR.RPLCTRL_EN || s.stride.cut then look 0 s.stride.snapPrev (o - 0x40000)
  else 0

/-- A byte that a read finds in memory. -/
def State.memByte (s : State) (a : Nat) : Byte :=
  if 0x300000 ≤ a ∧ a < 0x380000 then s.snapByte (a - 0x300000)
  else if 0x20000000 ≤ a then Config.romByte (a - 0x20000000)
  else s.byte a

/-- A read of `size` bytes at an aligned address: the value and the state after it, or none where the map has no such access.
The packet buffer's window shows words that the manual does not lay out (log entry 52). -/
def State.peek (s : State) (src : Src) (a size t : Nat) : Option (Nat × State) :=
  if isPage a then
    if size = 4 ∧ pagePresent ((a - 0x40000000) / 0x1000) then
      let r := s.readReg ((a - 0x40000000) / 0x1000) (a % 0x1000) t src
      some (r.1.toNat, r.2)
    else none
  else if 0x800000 ≤ a ∧ a < 0xA00000 then
    if size = 4 then let f := s.free; some (f.1 % 2 ^ 32, f.2) else none
  else if readable a then some (leVal ((List.range size).map (fun i => s.memByte (a + i))), s)
  else none

/-- A write of `size` bytes at an aligned address: the state after it and why a page refused it, or none where the map has no
such access. In replay the source that entered it loads the upper snapshot window by words (R106). -/
def State.poke (s : State) (src : Src) (a size v t : Nat) : Option (State × Option Cause) :=
  if isPage a then
    if size = 4 ∧ pagePresent ((a - 0x40000000) / 0x1000) then
      some (s.busWrite src ((a - 0x40000000) / 0x1000) (a % 0x1000) (BitVec.ofNat 32 v) 0xFFFFFFFF t)
    else none
  else if 0x340000 ≤ a ∧ a < 0x380000 ∧ size = 4 ∧ s.flag STR.RPLCTRL_EN ∧ s.stride.replaySrc = some src then
    some (s.setStride (fun r => { r with snapPrev := storeRun 0 (a - 0x340000) (leBytes 4 v) r.snapPrev }), none)
  else if writableMem a then some (s.setLe a size v, none)
  else none

end Sys2Proof.Machine
end

