-- ==== Sys2Proof/Machine/Flags.lean ====
section
/-! DEFINITION. Arithmetic of the Pacer at the operand size, and the flags it sets (R163, R166 to R176). Operands and results
are numbers below 2^w, where w is 8, 16 or 32. -/
namespace Sys2Proof.Machine

/-- A result, the flags it sets (none: unchanged), and whether a division by zero occurred. -/
structure Alu where
  val : Nat
  n : Option Bool
  z : Option Bool
  c : Option Bool
  v : Option Bool
  dz : Bool
  deriving DecidableEq, Repr

/-- A result that sets N and Z, and C and V as given. -/
def aluOf (w val : Nat) (c v : Option Bool) : Alu :=
  { val := val, n := some (bitAt val (w - 1)), z := some (decide (val = 0)), c := c, v := v, dz := false }

/-- A result that leaves every flag. -/
def aluPlain (val : Nat) : Alu := { val := val, n := none, z := none, c := none, v := none, dz := false }

/-- Whether an exact signed result lies outside the signed range of the size (R166). -/
def outside (w : Nat) (x : Int) : Bool := decide (x < -(2 ^ (w - 1) : Int)) || decide ((2 ^ (w - 1) : Int) ≤ x)

/-- The signed limit nearest to an exact result, or the result (R168). -/
def saturate (w : Nat) (x : Int) : Int := max (-(2 ^ (w - 1) : Int)) (min ((2 ^ (w - 1) : Int) - 1) x)

/-- ADD and ADDC (R166). -/
def aluAdd (w a b c : Nat) : Alu :=
  aluOf w ((a + b + c) % 2 ^ w) (some (decide (2 ^ w ≤ a + b + c)))
    (some (outside w (signedOf w a + signedOf w b + Int.ofNat c)))

/-- SUB, SUBC and CMP (R166). -/
def aluSub (w a b c : Nat) : Alu :=
  aluOf w (unsignedOf w (Int.ofNat a - Int.ofNat b - Int.ofNat c)) (some (decide (a < b + c)))
    (some (outside w (signedOf w a - signedOf w b - Int.ofNat c)))

/-- ADD.S (R168). -/
def aluAddS (w a b : Nat) : Alu :=
  let x := signedOf w a + signedOf w b
  aluOf w (unsignedOf w (saturate w x)) (some (decide (2 ^ w ≤ a + b))) (some (outside w x))

/-- SUB.S (R168). -/
def aluSubS (w a b : Nat) : Alu :=
  let x := signedOf w a - signedOf w b
  aluOf w (unsignedOf w (saturate w x)) (some (decide (a < b))) (some (outside w x))

/-- NEG (R167). -/
def aluNeg (w a : Nat) : Alu :=
  aluOf w (unsignedOf w (-(Int.ofNat a))) (some (decide (a ≠ 0))) (some (decide (a = 2 ^ (w - 1))))

/-- NEG.S (R168). -/
def aluNegS (w a : Nat) : Alu :=
  let x := -(signedOf w a)
  aluOf w (unsignedOf w (saturate w x)) (some (decide (a ≠ 0))) (some (outside w x))

/-- ABS (R167). -/
def aluAbs (w a : Nat) : Alu :=
  aluOf w (if signedOf w a < 0 then unsignedOf w (-(Int.ofNat a)) else a) (some false) (some (decide (a = 2 ^ (w - 1))))

/-- ABS.S (R168). -/
def aluAbsS (w a : Nat) : Alu :=
  let x := Int.ofNat (signedOf w a).natAbs
  aluOf w (unsignedOf w (saturate w x)) (some false) (some (outside w x))

/-- MUL (R169). -/
def aluMul (w a b : Nat) : Alu :=
  aluOf w (a * b % 2 ^ w) (some (decide (2 ^ w ≤ a * b))) (some (outside w (signedOf w a * signedOf w b)))

/-- MULHU. -/
def aluMulhu (w a b : Nat) : Alu := aluOf w (a * b / 2 ^ w) (some false) (some false)

/-- MULHS. -/
def aluMulhs (w a b : Nat) : Alu :=
  aluOf w (unsignedOf w (signedOf w a * signedOf w b / (2 ^ w : Int))) (some false) (some false)

/-- DIV (R171). -/
def aluDiv (w a b : Nat) : Alu :=
  if b = 0 then { aluOf w (2 ^ w - 1) (some false) (some false) with dz := true } else aluOf w (a / b) (some false) (some false)

/-- Whether a signed division overflows (R170). -/
def divOverflows (w a b : Nat) : Bool := decide (a = 2 ^ (w - 1)) && decide (b = 2 ^ w - 1)

/-- DIVS (R170, R171). -/
def aluDivs (w a b : Nat) : Alu :=
  if b = 0 then
    { aluOf w (if signedOf w a < 0 then 1 else 2 ^ w - 1) (some false) (some false) with dz := true }
  else if divOverflows w a b then aluOf w a (some false) (some true)
  else aluOf w (unsignedOf w ((signedOf w a).tdiv (signedOf w b))) (some false) (some false)

/-- REM (R171). -/
def aluRem (w a b : Nat) : Alu :=
  if b = 0 then { aluOf w a (some false) (some false) with dz := true } else aluOf w (a % b) (some false) (some false)

/-- REMS (R170, R171). -/
def aluRems (w a b : Nat) : Alu :=
  if b = 0 then { aluOf w a (some false) (some false) with dz := true }
  else if divOverflows w a b then aluOf w 0 (some false) (some true)
  else aluOf w (unsignedOf w ((signedOf w a).tmod (signedOf w b))) (some false) (some false)

/-- A result that sets N and Z alone. -/
def aluNz (w val : Nat) : Alu := aluOf w val none none

/-- TST. -/
def aluTst (w a : Nat) : Alu := aluOf w a (some false) (some false)

/-- SHL (R174). -/
def aluShl (w a k : Nat) : Alu :=
  if k = 0 then aluOf w a none (some false)
  else if k < w then aluOf w (a * 2 ^ k % 2 ^ w) (some (bitAt a (w - k))) (some false)
  else aluOf w 0 (some (decide (k = w) && bitAt a 0)) (some false)

/-- SHR (R174). -/
def aluShr (w a k : Nat) : Alu :=
  if k = 0 then aluOf w a none (some false)
  else if k < w then aluOf w (a / 2 ^ k) (some (bitAt a (k - 1))) (some false)
  else aluOf w 0 (some (decide (k = w) && bitAt a (w - 1))) (some false)

/-- SAR (R174). -/
def aluSar (w a k : Nat) : Alu :=
  if k = 0 then aluOf w a none (some false)
  else if k < w then aluOf w (unsignedOf w (signedOf w a / (2 ^ k : Int))) (some (bitAt a (k - 1))) (some false)
  else aluOf w (if bitAt a (w - 1) then 2 ^ w - 1 else 0) (some (bitAt a (w - 1))) (some false)

/-- ROL (R175). -/
def aluRol (w a k : Nat) : Alu :=
  let n := k % w
  let r := a * 2 ^ n % 2 ^ w + a / 2 ^ (w - n)
  if n = 0 then aluOf w a none (some false) else aluOf w r (some (bitAt r 0)) (some false)

/-- ROR (R175). -/
def aluRor (w a k : Nat) : Alu :=
  let n := k % w
  let r := a / 2 ^ n + a * 2 ^ (w - n) % 2 ^ w
  if n = 0 then aluOf w a none (some false) else aluOf w r (some (bitAt r (w - 1))) (some false)

/-- CLZ (R176). -/
def aluClz (w a : Nat) : Alu :=
  let n := if a = 0 then w else w - 1 - a.log2
  aluOf w n (some (decide (a = 0))) (some false)

/-- The signed smaller of two operands, or the larger. -/
def pickSigned (w a b : Nat) (smaller : Bool) : Nat :=
  if decide (signedOf w a < signedOf w b) = smaller then a else b

/-- Whether a condition of Bcc holds in FL (R165). -/
def condHolds (cc fl : Nat) : Bool :=
  let n := bitAt fl 0
  let z := bitAt fl 1
  let c := bitAt fl 2
  let v := bitAt fl 3
  match cc with
  | 0 => z | 1 => !z | 2 => c | 3 => !c | 4 => n | 5 => !n | 6 => v | 7 => !v
  | 8 => !c && !z | 9 => c || z | 10 => n == v | 11 => n != v | 12 => !z && n == v | 13 => z || n != v | _ => true

/-- A flag bit of FL set, cleared or left. -/
def flBit (fl i : Nat) (b : Option Bool) : Nat :=
  match b with | some true => setBit fl i | some false => clrBit fl i | none => fl

/-- FL after a result: N, Z, C, V, and the sticky DZ (R137, R172). -/
def Alu.flags (x : Alu) (fl : Nat) : Nat :=
  let fl := flBit (flBit (flBit (flBit fl 0 x.n) 1 x.z) 2 x.c) 3 x.v
  if x.dz then setBit fl 4 else fl

end Sys2Proof.Machine
end

