-- ==== Sys2Proof/Machine/Operands.lean ====
section
/-! DEFINITION. Instructions of the Pacer as encodings, and their operands: decoding, addresses, reads and writes
(R135, R138 to R141, R155 to R164, R178, R191). -/
namespace Sys2Proof

/-! Encodings. The opcode word holds OP in [15:10], SZ in [9:8], FORM in [7:6] and SUB in [5:0] (R155). -/

/-- The opcode word of an operation (R155). -/
def PacIns.word (op : Nat) (e : PacIns) : Nat := 1024 * op + e.low

/-- SZ (R155). -/
def PacIns.sz (e : PacIns) : Nat := e.low / 256 % 4

/-- FORM (R155). -/
def PacIns.form (e : PacIns) : Nat := e.low / 64 % 4

/-- SUB (R155). -/
def PacIns.sub (e : PacIns) : Nat := e.low % 64

end Sys2Proof

namespace Sys2Proof.Machine

/-! Encodings. -/

/-- What an operation does with an operand. -/
inductive Role | src | dst | rw | addr | target
  deriving DecidableEq, Repr

/-- An operand as encoded: mode, low nibble of the mode byte, extension bytes. -/
structure Opd where
  mode : Nat
  nib : Nat
  ext : List Byte
  deriving DecidableEq, Repr

/-- Roles of an operation's operands in a form, none where the form is not permitted (R163). -/
def rolesOf (op form : Nat) : Option (List Role) :=
  let unary := op = 1 ∨ op = 2 ∨ op = 3 ∨ op = 0x0E ∨ op = 0x0F ∨ op = 0x10 ∨ op = 0x11 ∨ op = 0x1F ∨ op = 0x25
  let binary := (8 ≤ op ∧ op ≤ 0x0D) ∨ (0x12 ≤ op ∧ op ≤ 0x18) ∨ (0x1B ≤ op ∧ op ≤ 0x1E) ∨ (0x20 ≤ op ∧ op ≤ 0x24)
    ∨ (0x26 ≤ op ∧ op ≤ 0x29)
  match form with
  | 0 => if unary then some [.src, .dst] else if binary then some [.src, .rw] else if op = 4 then some [.addr, .dst]
    else if op = 0x19 then some [.src, .src] else if op = 0x2D then some [.target, .rw] else none
  | 1 => if binary then some [.src, .src, .dst] else none
  | 2 => if op = 0 then some [] else if op = 5 ∨ op = 0x1A then some [.src] else if op = 6 ∨ op = 7 then some [.dst]
    else if 0x2A ≤ op ∧ op ≤ 0x2C then some [.target] else none
  | _ => none

/-- Whether a size is permitted for an operation (R163). -/
def sizeOk (op sz : Nat) : Bool :=
  if op = 2 ∨ op = 3 then decide (sz ≤ 1)
  else if op = 0 ∨ (4 ≤ op ∧ op ≤ 6) ∨ (0x2A ≤ op ∧ op ≤ 0x2C) then decide (sz = 2)
  else decide (sz ≤ 2)

/-- Whether SUB is permitted (R155, R165, R191). -/
def subOk (op sub : Nat) : Bool := if op = 0x2C then decide (sub < 15) else op = 0 || sub = 0

/-- Whether the operation code, or the system group's SUB, is undefined (R157). -/
def isUndef (op sub : Nat) : Bool := decide (0x2E ≤ op) || (op = 0 && decide (0x0B ≤ sub))

/-- The bytes of operand `k` of an operation in a form (R161). -/
def sizeOfOpd (op sz form k : Nat) : Nat :=
  if 0x20 ≤ op ∧ op ≤ 0x24 then (if k = (if form = 1 then 1 else 0) ∧ form ≠ 2 then 4 else 2 ^ sz)
  else if op = 2 ∨ op = 3 then (if k = 0 then 2 ^ sz else 4)
  else if 0x2A ≤ op ∧ op ≤ 0x2D ∧ k = 0 then 4
  else 2 ^ sz

/-- Extension bytes of a mode (R138). -/
def extLen (mode size : Nat) : Nat :=
  match mode with
  | 0 | 3 | 4 | 5 | 6 | 0xB => 1
  | 1 | 7 | 0xA => 2
  | 2 => 4
  | 8 => size
  | _ => 0

/-- Operands from mode bytes and the extension bytes that follow them, with their sizes. -/
def partOpds : List (Nat × Byte) → List Byte → List (Nat × Opd) × List Byte
  | [], ext => ([], ext)
  | (size, m) :: ms, ext =>
    let mode := m.toNat / 16
    let n := extLen mode size
    let r := partOpds ms (ext.drop n)
    ((size, { mode := mode, nib := m.toNat % 16, ext := (List.range n).map (fun i => ext.getD i 0) }) :: r.1, r.2)

/-- Whether an operand breaks R135, R138, R139, R164 or R178. -/
def opdBad (role : Role) (size : Nat) (o : Opd) : Bool :=
  let writes := role = .dst || role = .rw
  decide (0xD ≤ o.mode) || (o.nib != 0 && o.mode != 3 && o.mode != 9 && o.mode != 0xC)
    || (writes && (o.mode = 8 || o.mode = 9))
    || (o.mode = 0xC && (decide (9 ≤ o.nib) || size != 4 || (writes && (o.nib = 0 || decide (6 ≤ o.nib)))))
    || (role = .addr && (o.mode = 8 || o.mode = 9 || o.mode = 0xC))
    || (role = .target && o.mode = 9)

/-- A decoded instruction: its fields and its operands with role and size. -/
structure Decoded where
  op : Nat
  sz : Nat
  form : Nat
  sub : Nat
  opds : List (Role × Nat × Opd)
  deriving DecidableEq, Repr

/-- Vectors of R142. -/
def vecMemerr : Nat := 2
/-- Vector BUS. -/
def vecBus : Nat := 3
/-- Vector ALIGN. -/
def vecAlign : Nat := 4
/-- Vector UNDEF. -/
def vecUndef : Nat := 5
/-- Vector RESV. -/
def vecResv : Nat := 6
/-- Vector CTX. -/
def vecCtx : Nat := 7

/-- Decoding of an operation code with its instruction's bytes: half-words fetched, and the operands or the trap
(R155 to R159, R191). -/
def decodePac (op : Nat) (e : PacIns) : Nat × Except Nat Decoded :=
  if isUndef op e.sub then (1, .error vecUndef)
  else if 3 ≤ e.sz ∨ 3 ≤ e.form then (1, .error vecResv)
  else
    let n := if e.form = 0 then 2 else if e.form = 1 then 3 else if op = 0 then 0 else 1
    let modes := (List.range n).map (fun k => (sizeOfOpd op e.sz e.form k, e.tail.getD k 0))
    match modes.findIdx? (fun m => decide (0xD0 ≤ m.2.toNat)) with
    | some k => (2 + k / 2, .error vecResv)
    | none =>
      let ext := e.tail.drop n
      let r := partOpds modes ext
      let used := n + (r.1.map (fun o => o.2.ext.length)).sum
      let words := 1 + (used + 1) / 2
      let padBad := decide (used % 2 = 1) && e.tail.getD used 0 != 0
      match rolesOf op e.form with
      | none => (words, .error vecResv)
      | some roles =>
        let os := (roles.zip r.1).map (fun x => (x.1, x.2.1, x.2.2))
        if padBad ∨ ¬ sizeOk op e.sz ∨ ¬ subOk op e.sub ∨ os.any (fun o => opdBad o.1 o.2.1 o.2.2) then (words, .error vecResv)
        else (words, .ok { op := op, sz := e.sz, form := e.form, sub := e.sub, opds := os })

/-! Execution of one instruction. -/

/-- An instruction under way: state, context, instant, address of its opcode word and of the next instruction, accesses made,
the one that meets an ECC error and the one that a mismatch of the cores suppresses, words accessed (true: written), the trap
it has met, the trap that follows its completion, and whether the device went into reset or the cores stopped, or the Pacer
halts at its end. -/
structure Run where
  st : State
  str : Bool
  t : Nat
  pc : Nat
  npc : Nat
  acc : Nat
  bad : Option Nat
  mis : Option Nat
  log : List (Nat × Bool)
  trap : Option Nat
  post : Option Nat
  gone : Bool
  halt : Bool
  deriving DecidableEq, Repr

/-- Whether the instruction has come to its end by a trap or a reset. -/
def Run.quit (r : Run) : Bool := r.trap.isSome || r.gone

/-- Traps. -/
def Run.fail (r : Run) (v : Nat) : Run := if r.quit then r else { r with trap := some v }

/-- The context's registers. -/
def Run.ctx (r : Run) : CtxSt := r.st.ctx r.str

/-- Updates them. -/
def Run.setCtx (r : Run) (f : CtxSt → CtxSt) : Run := { r with st := r.st.setCtx r.str f }

/-- The source of the context's accesses. -/
def Run.source (r : Run) : Src := if r.str then .stride else .service

/-- The cores of the Pacer disagree: both stop and the source is raised (R125). -/
def State.lockstep (s : State) : State := { s with pac := { s.pac with mismatch := true } }.detect 0x1B 0

/-- The cycle of an access does not compare: it does not leave the pair (R125). -/
def Run.split (r : Run) : Run := { r with st := r.st.lockstep, gone := true }

/-- A data read (R125, R140, R141, R143). -/
def Run.load (r : Run) (a size : Nat) : Nat × Run :=
  if r.quit then (0, r)
  else if r.mis = some r.acc then (0, r.split)
  else
    let hit := decide (r.bad = some r.acc)
    let r := { r with acc := r.acc + 1, log := r.log ++ [(a, false)] }
    if a % size ≠ 0 then (0, r.fail vecAlign)
    else match r.st.peek r.source a size r.t with
      | none => (0, r.fail vecBus)
      | some (v, s) => if hit && !isPage a then (0, r.fail vecMemerr) else (v, { r with st := s })

/-- A data write. A write that resets the device ends the instruction. -/
def Run.save (r : Run) (a size v : Nat) : Run :=
  if r.quit then r
  else if r.mis = some r.acc then r.split
  else
    let r := { r with acc := r.acc + 1, log := r.log ++ [(a, true)] }
    if a % size ≠ 0 then r.fail vecAlign
    else match r.st.poke r.source a size v r.t with
      | none => r.fail vecBus
      | some (s, _) => { r with st := s, gone := decide (s.boot.phase ≠ .done) }

/-- An address plus a signed displacement of `width` bits, modulo 2^32 (R138). -/
def plus (a width d : Nat) : Nat := (a + unsignedOf 32 (signedOf width d)) % 2 ^ 32

/-- The address of a memory operand of a size, with its slot reads and updates (R138, R140). -/
def Run.address (r : Run) (o : Opd) (size : Nat) : Nat × Run :=
  let c := r.ctx
  let v := leVal o.ext
  let slot := plus c.fp 8 v
  match o.mode with
  | 0 => (slot, r)
  | 1 => (plus c.fp 16 v, r)
  | 2 => (v, r)
  | 3 => ((c.pg + 256 * o.nib + v) % 2 ^ 32, r)
  | 4 => r.load slot 4
  | 5 =>
    let p := r.load slot 4
    (p.1, p.2.save slot 4 ((p.1 + size) % 2 ^ 32))
  | 6 =>
    let p := r.load slot 4
    let q := (p.1 + 2 ^ 32 - size) % 2 ^ 32
    (q, p.2.save slot 4 q)
  | 7 =>
    let p := r.load (plus c.fp 8 (v % 256)) 4
    let i := p.2.load (plus c.fp 8 (v / 256)) 4
    ((p.1 + i.1 * size) % 2 ^ 32, i.2)
  | 0xA => (plus r.pc 16 v, r)
  | _ => ((c.sp + 4 * v) % 2 ^ 32, r)

/-- An operand as processed: where it lies, its size, its address and its value. -/
structure Got where
  opd : Opd
  size : Nat
  addr : Nat
  val : Nat
  deriving DecidableEq, Repr

/-- The value of an operand that makes no access, if it makes none (R135, R138). -/
def Run.direct (r : Run) (o : Opd) (size : Nat) : Option Nat :=
  match o.mode with
  | 8 => some (leVal o.ext)
  | 9 => some (unsignedOf (8 * size) (signedOf 4 o.nib))
  | 0xC => some (if o.nib = 0 then r.pc else r.st.special r.str o.nib r.t)
  | _ => none

/-- One operand is processed in its turn (R140, R160, R164, R178). -/
def Run.operand (r : Run) (role : Role) (size : Nat) (o : Opd) : Got × Run :=
  match r.direct o size with
  | some v => ({ opd := o, size := size, addr := 0, val := v }, r)
  | none =>
    let a := r.address o size
    let got := fun (v : Nat) => ({ opd := o, size := size, addr := a.1, val := v } : Got)
    match role with
    | .dst => (got 0, a.2)
    | .addr => (got a.1, a.2)
    | .target => if o.mode = 0xA then (got a.1, a.2) else let v := a.2.load a.1 4; (got v.1, v.2)
    | .src | .rw => let v := a.2.load a.1 size; (got v.1, v.2)

/-- The operands in encoding order (R140). -/
def Run.operands (r : Run) : List (Role × Nat × Opd) → List Got × Run
  | [] => ([], r)
  | o :: os =>
    let g := r.operand o.1 o.2.1 o.2.2
    let gs := Run.operands g.2 os
    (g.1 :: gs.1, gs.2)

/-- The destination is written (R135, R140, R162). -/
def Run.put (r : Run) (g : Got) (v : Nat) : Run :=
  if g.opd.mode = 0xC then
    if r.quit then r
    else if specialOk r.str g.opd.nib v then r.setCtx (fun c => c.setSpecial g.opd.nib v) else r.fail vecResv
  else r.save g.addr g.size v

end Sys2Proof.Machine
end

