-- ==== Sys2Proof/Machine/Pacer.lean ====
section
/-! DEFINITION. The Pacer's instructions, repeat prefixes, traps and events (R127 to R146, R148 to R191). The bytes of an
instruction come with its command (log entry 8). -/
namespace Sys2Proof.Machine

/-! Traps and halts. -/

/-- The entry into a trap or an event handler (R144, R145): `ins` is the address of the instruction under way, `level` the
level of an event, `bad` whether the vector read meets an uncorrectable ECC error, `mis` the access at which the cores disagree: the
three stack writes, then the vector read (R125). A fault on the way is a double trap. -/
def State.enterHandler (s : State) (str : Bool) (vec saved ins : Nat) (level : Option Nat) (bad : Bool) (mis : Option Nat) (t : Nat) :
    State :=
  let c := s.ctx str
  let at4 := fun (k : Nat) => (c.sp + 2 ^ 32 - k) % 2 ^ 32
  let r : Run := { st := s, str := str, t := t, pc := ins, npc := saved, acc := 0, bad := if bad then some 3 else none,
                   mis := mis, log := [], trap := none, post := none, gone := false, halt := false }
  let r := ((r.save (at4 4) 4 saved).save (at4 8) 4 c.fl).save (at4 12) 4 c.rc
  let h := r.load (((if str then s.pac.svbar else 512 * s.get PAC.VBAR) + 4 * vec) % 2 ^ 32) 4
  let s := h.2.st
  if h.2.gone then s
  else if mis.isSome then s.lockstep
  else if h.2.trap.isSome ∨ h.1 % 2 = 1 ∨ canFetch h.1 = false then
    let s := (s.setCtx str (fun c => { c with stopped := true, pc := ins })).detect 0x1D 0
    if vec = 1 ∧ str = false then { s with pac := { s.pac with started := false } } else s
  else
    let fl := if str then c.fl
      else match level with
      | some l => clrBit (c.fl % 65536) 15 + 65536 * l
      | none => clrBit c.fl 15
    s.setCtx str (fun c => { c with pc := h.1, sp := at4 12, fl := fl, stopped := false })

/-- A trap is taken (R142, R144, R146, R154). -/
def State.takeTrap (s : State) (str : Bool) (vec saved ins : Nat) (bad : Bool) (mis : Option Nat) (t : Nat) : State :=
  let s := ((s.put PAC.VEC vec).put PAC.CTX (b2n str)).put PAC.LASTPC saved
  let s := if str then (s.count PAC.TRAPCNT).evt 0x0B 0 else s
  s.enterHandler str vec saved ins none bad mis t

/-- The Service context leaves WAIT (R133, R181). -/
def State.leaveWait (s : State) : State :=
  let s := { s with pac := { s.pac with waiting := false } }
  s.setPwr (fun p => { p with state := if p.state = .idle then .run else p.state, waitPark := false, dozeNext := false })

/-- The SAFE trap is taken in a context (R142, R145). -/
def State.takeSafe (s : State) (str bad : Bool) (mis : Option Nat) (t : Nat) : State :=
  let s := { s with pac := { s.pac with safePend := false } }
  let s := if str then s else s.leaveWait
  let pc := (s.ctx str).pc
  s.takeTrap str 1 pc pc bad mis t

/-- The Pacer halts after an instruction of a context, or before one, with a cause (R651). -/
def State.haltIn (s : State) (str : Bool) (cause t : Nat) : State :=
  let str := str && s.stride.started
  let s := { s with pac := { s.pac with stepping := false, passPc := none } }
  s.pacHalt (b2n str) cause (s.ctx str).pc t

/-- Whether comparator `k` is armed for a context (R652). -/
def State.bpArmed (s : State) (str : Bool) (k : Nat) : Bool :=
  let sel := s.get (DBG.CTXSEL k)
  s.flag DBG.ATTACHED && s.flag (DBG.EN k) && (sel = 0 || sel = (if str then 2 else 1))

/-- The comparator that matches a fetch at an address. -/
def State.fetchHit (s : State) (str : Bool) (a : Nat) : Option Nat :=
  (List.range 4).find? (fun k => s.bpArmed str k && s.get (DBG.KIND k) = 0 && s.get (DBG.ADDR k) = a)

/-- The comparator that matches a data access. -/
def State.dataHit (s : State) (str : Bool) (log : List (Nat × Bool)) : Option Nat :=
  (List.range 4).find? (fun k =>
    s.bpArmed str k && log.any (fun x => x.1 / 4 = s.get (DBG.ADDR k) / 4 && bitAt (s.get (DBG.KIND k)) (b2n x.2)))

/-- The context that executes instructions at `t`, if one does (R74, R92, R125, R127, R128, R130, R133, R145, R651). -/
def State.runs (s : State) (t : Nat) : Option Bool :=
  let service := if s.pac.started && !s.pac.svc.stopped && !s.pac.waiting && s.pwr.state = .run then some false else none
  let task := if s.pac.str.stopped || decide (s.splitZero + 4 * s.budgetPoint ≤ t) then none else some true
  if s.boot.phase ≠ .done || s.pac.mismatch then none
  else if s.pac.stepping then (if s.flag DBG.STAT_CTX && s.stride.started then task else service)
  else if s.flag DBG.HALTED then none
  else if s.stride.started then task
  else service

/-! One instruction. -/

/-- The fault that the fetch of `n` half-words meets first (R143, R157). -/
def fetchFault (pc n : Nat) (bad : Option Nat) : Option Nat :=
  (List.range n).findSome? (fun i =>
    let a := (pc + 2 * i) % 2 ^ 32
    if a % 2 = 1 then some vecAlign else if canFetch a = false then some vecBus else if bad = some i then some vecMemerr else none)

/-- The end of an instruction or of a run of iterations: a mismatch of the cores outside its accesses, or in the entry of the trap
that it takes, whose accesses follow its own (R125), traps, the next address, corrected errors, comparators, halts
(R143, R144, R154, R651, R652). -/
def Run.finish (r : Run) (corrected : Nat) : State :=
  let mis := r.mis.map (fun k => k - r.acc)
  if r.gone then r.st
  else if r.mis.isSome && r.trap.isNone && r.post.isNone then r.st.lockstep
  else
    let pc := r.ctx.pc
    let bad := decide (r.bad = some (r.acc + 3))
    let s := { r.st with pac := { r.st.pac with passPc := none } }
    let s := if corrected = 0 then s else (s.count PAC.ECCCNT corrected).evt 0x0B 2
    let hit := if r.trap.isSome then none else s.dataHit r.str r.log
    let s := match r.trap with
      | some v => s.takeTrap r.str v pc pc bad mis r.t
      | none =>
        let s := s.setCtx r.str (fun c => { c with pc := r.npc })
        match r.post with
        | some v => s.takeTrap r.str v r.npc pc bad mis r.t
        | none => s
    if s.pac.mismatch then s
    else if s.pac.stepping then s.haltIn r.str 3 r.t
    else if r.halt then s.haltIn r.str 2 r.t
    else match hit with
      | some k => (s.put DBG.BP k).haltIn r.str 4 r.t
      | none => s

/-- What stands before every instruction: a context that runs, no SAFE trap, no fetch comparator (R143, R652). -/
def State.begin (s : State) (t corrected words : Nat) (f : Run → Run) : State :=
  let s := s.reach t
  match s.runs t with
  | none => s
  | some str =>
    let c := s.ctx str
    if s.pac.safePend then
      let s := s.takeSafe str false none t
      if s.pac.stepping then s.haltIn str 3 t else s
    else match (if s.pac.passPc = some c.pc then none else (List.range words).findSome? (fun i => s.fetchHit str (c.pc + 2 * i))) with
      | some k =>
        let s := (s.put DBG.BP k).haltIn str 4 t
        { s with pac := { s.pac with passPc := some c.pc } }
      | none =>
        (f { st := s, str := str, t := t, pc := c.pc, npc := c.pc, acc := 0, bad := none, mis := none, log := [], trap := none, post := none,
             gone := false, halt := false }).finish corrected

/-- An instruction of one operation code: fetch, decoding, and its own effect (R143, R157). -/
def State.pacExec (s : State) (t op : Nat) (e : PacIns) (body : Run → Decoded → Run) : State :=
  s.begin t e.corrected 1 (fun r =>
    let d := decodePac op e
    let r := { r with bad := e.badAccess, mis := e.mismatch, npc := (r.pc + 2 * d.1) % 2 ^ 32 }
    match fetchFault r.pc d.1 e.badFetch with
    | some v => r.fail v
    | none => match d.2 with
      | .error v => r.fail v
      | .ok d => body r d)

/-- The encoding of an instruction of the system group with its own SUB (R179). -/
def withSub (e : PacIns) (n : Nat) : PacIns := { e with low := e.low / 64 * 64 + n }

/-! Shared shapes of instructions. -/

/-- The operands are processed, and what follows acts on them. -/
def Run.onOperands (r : Run) (d : Decoded) (f : Run → List Got → Run) : Run :=
  let g := r.operands d.opds
  if g.2.quit then g.2 else f g.2 g.1

/-- The operand at a place of the encoding. -/
def nth (gs : List Got) (k : Nat) : Got := gs.getD k { opd := { mode := 9, nib := 0, ext := [] }, size := 4, addr := 0, val := 0 }

/-- Flags follow a result, and DIVZ or OVF follows them (R143, R171 to R173). -/
def Run.flagged (r : Run) (x : Alu) : Run :=
  let fl := r.ctx.fl
  let r := r.setCtx (fun c => { c with fl := x.flags fl })
  if x.dz && bitAt fl 8 then { r with post := some 8 }
  else if x.v = some true && bitAt fl 9 then { r with post := some 9 }
  else r

/-- The destination is written, and the flags set unless FL is the destination (R140, R172). -/
def Run.retire (r : Run) (g : Got) (x : Alu) : Run :=
  let r := r.put g x.val
  if r.quit || (g.opd.mode = 0xC && g.opd.nib = 4) then r else r.flagged x

/-- The width in bits of an instruction's data. -/
def Decoded.width (d : Decoded) : Nat := 8 * 2 ^ d.sz

/-- A binary operation d ← a op b, of width, a, b and the carry (R159). -/
def Run.binary (r : Run) (d : Decoded) (f : Nat → Nat → Nat → Nat → Alu) : Run :=
  r.onOperands d (fun r gs =>
    let three := d.form = 1
    let a := if three then nth gs 0 else nth gs 1
    let b := if three then nth gs 1 else nth gs 0
    let g := if three then nth gs 2 else nth gs 1
    r.retire g (f d.width a.val b.val (b2n (bitAt r.ctx.fl 2))))

/-- A unary operation d ← op a, of width and a (R159). -/
def Run.unary (r : Run) (d : Decoded) (f : Nat → Nat → Alu) : Run :=
  r.onOperands d (fun r gs => r.retire (nth gs 1) (f d.width (nth gs 0).val))

/-- SP moved by a multiple of a word, modulo 2^32. -/
def CtxSt.moveSp (c : CtxSt) (k : Nat) : CtxSt := { c with sp := (c.sp + k) % 2 ^ 32 }

/-- A word is pushed; SP moves only where the store meets no trap (R163, R184). -/
def Run.push (r : Run) (v : Nat) : Run :=
  let r := r.save ((r.ctx.sp + 2 ^ 32 - 4) % 2 ^ 32) 4 v
  if r.quit then r else r.setCtx (fun c => c.moveSp (2 ^ 32 - 4))

/-! What each operation does. -/

/-- MOV: d ← a; flags stay. -/
def bodyMov (r : Run) (d : Decoded) : Run := r.unary d (fun _ a => aluPlain a)
/-- MOVZ: d ← a zero-extended to W. -/
def bodyMovz (r : Run) (d : Decoded) : Run := r.unary d (fun _ a => aluPlain a)
/-- MOVS: d ← a sign-extended to W. -/
def bodyMovs (r : Run) (d : Decoded) : Run := r.unary d (fun w a => aluPlain (unsignedOf 32 (signedOf w a)))
/-- LEA: d ← address of o1 (R164). -/
def bodyLea (r : Run) (d : Decoded) : Run := r.unary d (fun _ a => aluPlain a)
/-- PUSH: o1 is read before SP decreases (R184). -/
def bodyPush (r : Run) (d : Decoded) : Run := r.onOperands d (fun r gs => r.push (nth gs 0).val)
/-- POP: SP increases before o1 is written; a trap leaves SP (R184, log entry 51). The address of o1 is found, with its slot
accesses, before the stack is read and SP increases (DESIGN CHOICE, log entry 92). -/
def bodyPop (r : Run) (d : Decoded) : Run :=
  r.onOperands d (fun r gs =>
    let sp := r.ctx.sp
    let v := r.load sp 4
    if v.2.quit then v.2
    else
      let w := (v.2.setCtx (fun c => c.moveSp 4)).put (nth gs 0) v.1
      if w.quit then w.setCtx (fun c => { c with sp := sp }) else w)
/-- CLR: o1 ← 0. -/
def bodyClr (r : Run) (d : Decoded) : Run := r.onOperands d (fun r gs => r.retire (nth gs 0) (aluPlain 0))
/-- ADD. -/
def bodyAdd (r : Run) (d : Decoded) : Run := r.binary d (fun w a b _ => aluAdd w a b 0)
/-- ADDC: the carry goes in. -/
def bodyAddc (r : Run) (d : Decoded) : Run := r.binary d aluAdd
/-- SUB. -/
def bodySub (r : Run) (d : Decoded) : Run := r.binary d (fun w a b _ => aluSub w a b 0)
/-- SUBC: the borrow goes in. -/
def bodySubc (r : Run) (d : Decoded) : Run := r.binary d aluSub
/-- ADD.S. -/
def bodyAddS (r : Run) (d : Decoded) : Run := r.binary d (fun w a b _ => aluAddS w a b)
/-- SUB.S. -/
def bodySubS (r : Run) (d : Decoded) : Run := r.binary d (fun w a b _ => aluSubS w a b)
/-- NEG. -/
def bodyNeg (r : Run) (d : Decoded) : Run := r.unary d aluNeg
/-- NEG.S. -/
def bodyNegS (r : Run) (d : Decoded) : Run := r.unary d aluNegS
/-- ABS. -/
def bodyAbs (r : Run) (d : Decoded) : Run := r.unary d aluAbs
/-- ABS.S. -/
def bodyAbsS (r : Run) (d : Decoded) : Run := r.unary d aluAbsS
/-- MUL. -/
def bodyMul (r : Run) (d : Decoded) : Run := r.binary d (fun w a b _ => aluMul w a b)
/-- MULHU. -/
def bodyMulhu (r : Run) (d : Decoded) : Run := r.binary d (fun w a b _ => aluMulhu w a b)
/-- MULHS. -/
def bodyMulhs (r : Run) (d : Decoded) : Run := r.binary d (fun w a b _ => aluMulhs w a b)
/-- DIV. -/
def bodyDiv (r : Run) (d : Decoded) : Run := r.binary d (fun w a b _ => aluDiv w a b)
/-- DIVS. -/
def bodyDivs (r : Run) (d : Decoded) : Run := r.binary d (fun w a b _ => aluDivs w a b)
/-- REM. -/
def bodyRem (r : Run) (d : Decoded) : Run := r.binary d (fun w a b _ => aluRem w a b)
/-- REMS. -/
def bodyRems (r : Run) (d : Decoded) : Run := r.binary d (fun w a b _ => aluRems w a b)
/-- CMP: the flags of o1 − o2; nothing is written. -/
def bodyCmp (r : Run) (d : Decoded) : Run :=
  r.onOperands d (fun r gs => r.flagged (aluSub d.width (nth gs 0).val (nth gs 1).val 0))
/-- TST: the flags of o1; nothing is written. -/
def bodyTst (r : Run) (d : Decoded) : Run := r.onOperands d (fun r gs => r.flagged (aluTst d.width (nth gs 0).val))
/-- AND. -/
def bodyAnd (r : Run) (d : Decoded) : Run := r.binary d (fun w a b _ => aluNz w (a &&& b))
/-- OR. -/
def bodyOr (r : Run) (d : Decoded) : Run := r.binary d (fun w a b _ => aluNz w (a ||| b))
/-- XOR. -/
def bodyXor (r : Run) (d : Decoded) : Run := r.binary d (fun w a b _ => aluNz w (a ^^^ b))
/-- BIC: a AND NOT b. -/
def bodyBic (r : Run) (d : Decoded) : Run := r.binary d (fun w a b _ => aluNz w (a &&& (2 ^ w - 1 - b % 2 ^ w)))
/-- NOT. -/
def bodyNot (r : Run) (d : Decoded) : Run := r.unary d (fun w a => aluNz w (2 ^ w - 1 - a % 2 ^ w))
/-- SHL. -/
def bodyShl (r : Run) (d : Decoded) : Run := r.binary d (fun w a b _ => aluShl w a b)
/-- SHR. -/
def bodyShr (r : Run) (d : Decoded) : Run := r.binary d (fun w a b _ => aluShr w a b)
/-- SAR. -/
def bodySar (r : Run) (d : Decoded) : Run := r.binary d (fun w a b _ => aluSar w a b)
/-- ROL. -/
def bodyRol (r : Run) (d : Decoded) : Run := r.binary d (fun w a b _ => aluRol w a b)
/-- ROR. -/
def bodyRor (r : Run) (d : Decoded) : Run := r.binary d (fun w a b _ => aluRor w a b)
/-- CLZ. -/
def bodyClz (r : Run) (d : Decoded) : Run := r.unary d aluClz
/-- MIN. -/
def bodyMin (r : Run) (d : Decoded) : Run := r.binary d (fun w a b _ => aluNz w (min a b))
/-- MAX. -/
def bodyMax (r : Run) (d : Decoded) : Run := r.binary d (fun w a b _ => aluNz w (max a b))
/-- MINS. -/
def bodyMins (r : Run) (d : Decoded) : Run := r.binary d (fun w a b _ => aluNz w (pickSigned w a b true))
/-- MAXS. -/
def bodyMaxs (r : Run) (d : Decoded) : Run := r.binary d (fun w a b _ => aluNz w (pickSigned w a b false))
/-- JMP: PC ← target. -/
def bodyJmp (r : Run) (d : Decoded) : Run := r.onOperands d (fun r gs => { r with npc := (nth gs 0).val })
/-- CALL: the address of the next instruction is pushed, then PC ← target (R184). The target is read before the push moves SP
(DESIGN CHOICE, log entry 92). -/
def bodyCall (r : Run) (d : Decoded) : Run :=
  r.onOperands d (fun r gs =>
    let r := r.push r.npc
    if r.quit then r else { r with npc := (nth gs 0).val })
/-- Bcc: the target is read whether the condition holds or not (R165, R178, R185). -/
def bodyBcc (r : Run) (d : Decoded) : Run :=
  r.onOperands d (fun r gs => if condHolds d.sub r.ctx.fl then { r with npc := (nth gs 0).val } else r)
/-- DJNZ: o2 ← o2 − 1, and PC ← target while o2 is not zero (R163). -/
def bodyDjnz (r : Run) (d : Decoded) : Run :=
  r.onOperands d (fun r gs =>
    let v := ((nth gs 1).val + 2 ^ d.width - 1) % 2 ^ d.width
    let r := r.put (nth gs 1) v
    if r.quit || v = 0 then r else { r with npc := (nth gs 0).val })
/-- NOP. -/
def bodyNop (r : Run) (_ : Decoded) : Run := r
/-- FIN ends the Stride task; in the Service context it traps CTX (R132, R180). -/
def bodyFin (r : Run) (_ : Decoded) : Run := if r.str then { r with st := r.st.finStride r.t } else r.fail vecCtx
/-- WAIT: the Service context waits; in the Stride context it traps CTX (R132, R133, R181). -/
def bodyWait (r : Run) (_ : Decoded) : Run :=
  if r.str then r.fail vecCtx
  else
    let s := { r.st with pac := { r.st.pac with waiting := true } }
    { r with st := s.waitEnter (r.ctx.fl / 65536 % 4) r.t }
/-- RET: PC ← [SP]; SP ← SP + 4. -/
def bodyRet (r : Run) (_ : Decoded) : Run :=
  let v := r.load r.ctx.sp 4
  if v.2.quit then v.2 else { v.2.setCtx (fun c => c.moveSp 4) with npc := v.1 }
/-- RETE: RC, FL and PC come from the stack; a value of FL that is not valid traps RESV (R179, R182). -/
def bodyRete (r : Run) (_ : Decoded) : Run :=
  let sp := r.ctx.sp
  let rc := r.load sp 4
  let fl := rc.2.load ((sp + 4) % 2 ^ 32) 4
  let pc := fl.2.load ((sp + 8) % 2 ^ 32) 4
  if pc.2.quit then pc.2
  else if flOk r.str fl.1 then
    { pc.2.setCtx (fun c => { c.moveSp 12 with rc := rc.1, fl := fl.1 }) with npc := pc.1 }
  else pc.2.fail vecResv
/-- BKPT halts the Pacer if the debug port is attached; otherwise it traps BKPT (R179). -/
def bodyBkpt (r : Run) (_ : Decoded) : Run := if r.st.flag DBG.ATTACHED then { r with halt := true } else r.fail 11
/-- TRAP. -/
def bodyTrap (r : Run) (_ : Decoded) : Run := { r with post := some 10 }
/-- EI: events are enabled; in the Stride context it traps RESV (R183). -/
def bodyEi (r : Run) (_ : Decoded) : Run :=
  if r.str then r.fail vecResv else r.setCtx (fun c => { c with fl := setBit c.fl 15 })
/-- DI: events are disabled; in the Stride context FL stays (R183). -/
def bodyDi (r : Run) (_ : Decoded) : Run := r.setCtx (fun c => { c with fl := clrBit c.fl 15 })

/-- The operations that a prefix can repeat, by operation code (R163, R188). -/
def bodyOf (op : Nat) : Run → Decoded → Run :=
  match op with
  | 1 => bodyMov | 2 => bodyMovz | 3 => bodyMovs | 4 => bodyLea | 5 => bodyPush | 6 => bodyPop | 7 => bodyClr | 8 => bodyAdd
  | 9 => bodyAddc | 0x0A => bodySub | 0x0B => bodySubc | 0x0C => bodyAddS | 0x0D => bodySubS | 0x0E => bodyNeg
  | 0x0F => bodyNegS | 0x10 => bodyAbs | 0x11 => bodyAbsS | 0x12 => bodyMul | 0x13 => bodyMulhu | 0x14 => bodyMulhs
  | 0x15 => bodyDiv | 0x16 => bodyDivs | 0x17 => bodyRem | 0x18 => bodyRems | 0x19 => bodyCmp | 0x1A => bodyTst
  | 0x1B => bodyAnd | 0x1C => bodyOr | 0x1D => bodyXor | 0x1E => bodyBic | 0x1F => bodyNot | 0x20 => bodyShl
  | 0x21 => bodyShr | 0x22 => bodySar | 0x23 => bodyRol | 0x24 => bodyRor | 0x25 => bodyClz | 0x26 => bodyMin
  | 0x27 => bodyMax | 0x28 => bodyMins | 0x29 => bodyMaxs
  | _ => bodyNop

/-! Repeat prefixes. -/

/-- Whether a prefix cannot repeat an instruction (R188). -/
def Decoded.unrepeatable (d : Decoded) : Bool :=
  d.op = 0 || (decide (0x2A ≤ d.op) && decide (d.op ≤ 0x2D)) || d.opds.any (fun o => o.2.2.mode = 0xC && o.2.2.nib = 5)

/-- At most `n` iterations: each evaluates its operands anew, then RC decreases. A trap, a comparator or the end of RC
stops them (R187, R190, R652). -/
def Run.iterate (d : Decoded) : Nat → Run → Run
  | 0, r => r
  | n + 1, r =>
    if r.ctx.rc = 0 then r
    else
      let r := bodyOf d.op { r with log := [] } d
      if r.quit then r
      else
        let r := r.setCtx (fun c => { c with rc := c.rc - 1 })
        if r.post.isSome || (r.st.dataHit r.str r.log).isSome then r else Run.iterate d n r

/-- Whether a REPL of the Service context is left between two of its iterations: until it goes on and completes, no event is
taken there (R134, R148, R189). `replAt` holds its address and SP, and so tells it from one that a handler runs meanwhile. -/
def Run.noteRepl (q : Run) (locked : Bool) (r : Run) : Run :=
  if !locked || q.str || q.gone then q
  else
    let here := (r.ctx.pc, r.ctx.sp)
    let rest := q.st.pac.replAt.filter (fun e => decide (e ≠ here))
    let left := decide (q.ctx.rc ≠ 0) && (decide (here ∈ q.st.pac.replAt) || decide (q.ctx.rc < r.ctx.rc))
    { q with st := { q.st with pac := { q.st.pac with replAt := if left then (r.ctx.pc, q.ctx.sp) :: rest else rest } } }

/-- A prefix and the instruction that follows it, for at most `n` iterations (R187 to R190); a single step takes one (R651).
The following instruction's opcode word gives its own address to PC-relative operands. -/
def State.pacRepeat (s : State) (t : Nat) (locked : Bool) (e : PacIns) (op : Nat) (i : PacIns) (n : Nat) : State :=
  s.begin t (e.corrected + i.corrected) 2 (fun r =>
    let p := decodePac 0 (withSub e (if locked then 6 else 5))
    match fetchFault r.pc p.1 e.badFetch with
    | some v => r.fail v
    | none => match p.2 with
      | .error v => r.fail v
      | .ok _ =>
        let d := decodePac op i
        let ins := (r.pc + 2) % 2 ^ 32
        match fetchFault ins d.1 i.badFetch with
        | some v => r.fail v
        | none => match d.2 with
          | .error v => r.fail v
          | .ok x =>
            if x.unrepeatable || (locked && decide (256 < r.ctx.rc)) then r.fail vecResv
            else
              let q := Run.iterate x (if r.st.pac.stepping then 1 else n) { r with pc := ins, bad := i.badAccess, mis := i.mismatch }
              { q.noteRepl locked r with npc := if q.ctx.rc = 0 then (ins + 2 * d.1) % 2 ^ 32 else r.ctx.pc })

/-! Commands. -/

/-- MOV (R163). -/
def execMov (t : Nat) (e : PacIns) (s : State) : Host.Outcome State Fault Refusal :=
  .next (s.pacExec t 1 e bodyMov)

/-- MOVZ (R163). -/
def execMovz (t : Nat) (e : PacIns) (s : State) : Host.Outcome State Fault Refusal :=
  .next (s.pacExec t 2 e bodyMovz)

/-- MOVS (R163). -/
def execMovs (t : Nat) (e : PacIns) (s : State) : Host.Outcome State Fault Refusal :=
  .next (s.pacExec t 3 e bodyMovs)

/-- LEA (R164). -/
def execLea (t : Nat) (e : PacIns) (s : State) : Host.Outcome State Fault Refusal :=
  .next (s.pacExec t 4 e bodyLea)

/-- PUSH (R184). -/
def execPush (t : Nat) (e : PacIns) (s : State) : Host.Outcome State Fault Refusal :=
  .next (s.pacExec t 5 e bodyPush)

/-- POP (R184). -/
def execPop (t : Nat) (e : PacIns) (s : State) : Host.Outcome State Fault Refusal :=
  .next (s.pacExec t 6 e bodyPop)

/-- CLR (R163). -/
def execClr (t : Nat) (e : PacIns) (s : State) : Host.Outcome State Fault Refusal :=
  .next (s.pacExec t 7 e bodyClr)

/-- ADD (R166). -/
def execAdd (t : Nat) (e : PacIns) (s : State) : Host.Outcome State Fault Refusal :=
  .next (s.pacExec t 8 e bodyAdd)

/-- ADDC (R166). -/
def execAddc (t : Nat) (e : PacIns) (s : State) : Host.Outcome State Fault Refusal :=
  .next (s.pacExec t 9 e bodyAddc)

/-- SUB (R166). -/
def execSub (t : Nat) (e : PacIns) (s : State) : Host.Outcome State Fault Refusal :=
  .next (s.pacExec t 0x0A e bodySub)

/-- SUBC (R166). -/
def execSubc (t : Nat) (e : PacIns) (s : State) : Host.Outcome State Fault Refusal :=
  .next (s.pacExec t 0x0B e bodySubc)

/-- ADD_S (R168). -/
def execAddS (t : Nat) (e : PacIns) (s : State) : Host.Outcome State Fault Refusal :=
  .next (s.pacExec t 0x0C e bodyAddS)

/-- SUB_S (R168). -/
def execSubS (t : Nat) (e : PacIns) (s : State) : Host.Outcome State Fault Refusal :=
  .next (s.pacExec t 0x0D e bodySubS)

/-- NEG (R167). -/
def execNeg (t : Nat) (e : PacIns) (s : State) : Host.Outcome State Fault Refusal :=
  .next (s.pacExec t 0x0E e bodyNeg)

/-- NEG_S (R168). -/
def execNegS (t : Nat) (e : PacIns) (s : State) : Host.Outcome State Fault Refusal :=
  .next (s.pacExec t 0x0F e bodyNegS)

/-- ABS (R167). -/
def execAbs (t : Nat) (e : PacIns) (s : State) : Host.Outcome State Fault Refusal :=
  .next (s.pacExec t 0x10 e bodyAbs)

/-- ABS_S (R168). -/
def execAbsS (t : Nat) (e : PacIns) (s : State) : Host.Outcome State Fault Refusal :=
  .next (s.pacExec t 0x11 e bodyAbsS)

/-- MUL (R169). -/
def execMul (t : Nat) (e : PacIns) (s : State) : Host.Outcome State Fault Refusal :=
  .next (s.pacExec t 0x12 e bodyMul)

/-- MULHU (R163). -/
def execMulhu (t : Nat) (e : PacIns) (s : State) : Host.Outcome State Fault Refusal :=
  .next (s.pacExec t 0x13 e bodyMulhu)

/-- MULHS (R163). -/
def execMulhs (t : Nat) (e : PacIns) (s : State) : Host.Outcome State Fault Refusal :=
  .next (s.pacExec t 0x14 e bodyMulhs)

/-- DIV (R171). -/
def execDiv (t : Nat) (e : PacIns) (s : State) : Host.Outcome State Fault Refusal :=
  .next (s.pacExec t 0x15 e bodyDiv)

/-- DIVS (R170). -/
def execDivs (t : Nat) (e : PacIns) (s : State) : Host.Outcome State Fault Refusal :=
  .next (s.pacExec t 0x16 e bodyDivs)

/-- REM (R171). -/
def execRem (t : Nat) (e : PacIns) (s : State) : Host.Outcome State Fault Refusal :=
  .next (s.pacExec t 0x17 e bodyRem)

/-- REMS (R170). -/
def execRems (t : Nat) (e : PacIns) (s : State) : Host.Outcome State Fault Refusal :=
  .next (s.pacExec t 0x18 e bodyRems)

/-- CMP (R163). -/
def execCmp (t : Nat) (e : PacIns) (s : State) : Host.Outcome State Fault Refusal :=
  .next (s.pacExec t 0x19 e bodyCmp)

/-- TST (R163). -/
def execTst (t : Nat) (e : PacIns) (s : State) : Host.Outcome State Fault Refusal :=
  .next (s.pacExec t 0x1A e bodyTst)

/-- AND (R163). -/
def execAndOp (t : Nat) (e : PacIns) (s : State) : Host.Outcome State Fault Refusal :=
  .next (s.pacExec t 0x1B e bodyAnd)

/-- OR (R163). -/
def execOrOp (t : Nat) (e : PacIns) (s : State) : Host.Outcome State Fault Refusal :=
  .next (s.pacExec t 0x1C e bodyOr)

/-- XOR (R163). -/
def execXor (t : Nat) (e : PacIns) (s : State) : Host.Outcome State Fault Refusal :=
  .next (s.pacExec t 0x1D e bodyXor)

/-- BIC (R163). -/
def execBic (t : Nat) (e : PacIns) (s : State) : Host.Outcome State Fault Refusal :=
  .next (s.pacExec t 0x1E e bodyBic)

/-- NOT (R163). -/
def execNotOp (t : Nat) (e : PacIns) (s : State) : Host.Outcome State Fault Refusal :=
  .next (s.pacExec t 0x1F e bodyNot)

/-- SHL (R174). -/
def execShl (t : Nat) (e : PacIns) (s : State) : Host.Outcome State Fault Refusal :=
  .next (s.pacExec t 0x20 e bodyShl)

/-- SHR (R174). -/
def execShr (t : Nat) (e : PacIns) (s : State) : Host.Outcome State Fault Refusal :=
  .next (s.pacExec t 0x21 e bodyShr)

/-- SAR (R174). -/
def execSar (t : Nat) (e : PacIns) (s : State) : Host.Outcome State Fault Refusal :=
  .next (s.pacExec t 0x22 e bodySar)

/-- ROL (R175). -/
def execRol (t : Nat) (e : PacIns) (s : State) : Host.Outcome State Fault Refusal :=
  .next (s.pacExec t 0x23 e bodyRol)

/-- ROR (R175). -/
def execRor (t : Nat) (e : PacIns) (s : State) : Host.Outcome State Fault Refusal :=
  .next (s.pacExec t 0x24 e bodyRor)

/-- CLZ (R176). -/
def execClz (t : Nat) (e : PacIns) (s : State) : Host.Outcome State Fault Refusal :=
  .next (s.pacExec t 0x25 e bodyClz)

/-- MIN (R163). -/
def execMinOp (t : Nat) (e : PacIns) (s : State) : Host.Outcome State Fault Refusal :=
  .next (s.pacExec t 0x26 e bodyMin)

/-- MAX (R163). -/
def execMaxOp (t : Nat) (e : PacIns) (s : State) : Host.Outcome State Fault Refusal :=
  .next (s.pacExec t 0x27 e bodyMax)

/-- MINS (R163). -/
def execMins (t : Nat) (e : PacIns) (s : State) : Host.Outcome State Fault Refusal :=
  .next (s.pacExec t 0x28 e bodyMins)

/-- MAXS (R163). -/
def execMaxs (t : Nat) (e : PacIns) (s : State) : Host.Outcome State Fault Refusal :=
  .next (s.pacExec t 0x29 e bodyMaxs)

/-- JMP (R178). -/
def execJmp (t : Nat) (e : PacIns) (s : State) : Host.Outcome State Fault Refusal :=
  .next (s.pacExec t 0x2A e bodyJmp)

/-- CALL (R184). -/
def execCall (t : Nat) (e : PacIns) (s : State) : Host.Outcome State Fault Refusal :=
  .next (s.pacExec t 0x2B e bodyCall)

/-- BCC (R165). -/
def execBcc (t : Nat) (e : PacIns) (s : State) : Host.Outcome State Fault Refusal :=
  .next (s.pacExec t 0x2C e bodyBcc)

/-- DJNZ (R163). -/
def execDjnz (t : Nat) (e : PacIns) (s : State) : Host.Outcome State Fault Refusal :=
  .next (s.pacExec t 0x2D e bodyDjnz)

/-- NOP (R179). -/
def execNop (t : Nat) (e : PacIns) (s : State) : Host.Outcome State Fault Refusal :=
  .next (s.pacExec t 0 (withSub e 0) bodyNop)

/-- FIN (R180). -/
def execFin (t : Nat) (e : PacIns) (s : State) : Host.Outcome State Fault Refusal :=
  .next (s.pacExec t 0 (withSub e 1) bodyFin)

/-- WAIT (R181). -/
def execWait (t : Nat) (e : PacIns) (s : State) : Host.Outcome State Fault Refusal :=
  .next (s.pacExec t 0 (withSub e 2) bodyWait)

/-- RET (R179). -/
def execRet (t : Nat) (e : PacIns) (s : State) : Host.Outcome State Fault Refusal :=
  .next (s.pacExec t 0 (withSub e 3) bodyRet)

/-- RETE (R182). -/
def execRete (t : Nat) (e : PacIns) (s : State) : Host.Outcome State Fault Refusal :=
  .next (s.pacExec t 0 (withSub e 4) bodyRete)

/-- BKPT (R179). -/
def execBkpt (t : Nat) (e : PacIns) (s : State) : Host.Outcome State Fault Refusal :=
  .next (s.pacExec t 0 (withSub e 7) bodyBkpt)

/-- TRAP (R179). -/
def execTrap (t : Nat) (e : PacIns) (s : State) : Host.Outcome State Fault Refusal :=
  .next (s.pacExec t 0 (withSub e 8) bodyTrap)

/-- EI (R183). -/
def execEi (t : Nat) (e : PacIns) (s : State) : Host.Outcome State Fault Refusal :=
  .next (s.pacExec t 0 (withSub e 9) bodyEi)

/-- DI (R183). -/
def execDi (t : Nat) (e : PacIns) (s : State) : Host.Outcome State Fault Refusal :=
  .next (s.pacExec t 0 (withSub e 10) bodyDi)

/-- REP and the instruction that follows it (R187). -/
def execRep (t : Nat) (e : PacIns) (op : Nat) (i : PacIns) (n : Nat) (s : State) : Host.Outcome State Fault Refusal :=
  .next (s.pacRepeat t false e op i n)

/-- REPL and the instruction that follows it (R187). -/
def execRepl (t : Nat) (e : PacIns) (op : Nat) (i : PacIns) (n : Nat) (s : State) : Host.Outcome State Fault Refusal :=
  .next (s.pacRepeat t true e op i n)

/-- UNDEFINED_OPCODE: an operation code that R163 does not list, or an undefined SUB of the system group, traps UNDEF (R157).
An operation code that is defined has its own command: its word here has no effect. -/
def execUndefinedOpcode (t op : Nat) (e : PacIns) (s : State) : Host.Outcome State Fault Refusal :=
  .next (if isUndef op e.sub then s.pacExec t op e bodyNop else s)

/-- The pending line that the Service context takes: highest level above FL.LVL, then lowest number (R148). -/
def State.eventDue (s : State) : Option (Nat × Nat) :=
  let lvl := s.pac.svc.fl / 65536 % 4
  let level := fun (j : Nat) => s.get (PAC.LVL (j / 16)) / 4 ^ (j % 16) % 4
  ([3, 2, 1] : List Nat).findSome? (fun l =>
    if lvl < l then ((List.range 64).find? (fun j => decide (level j = l) && s.line j)).map (fun j => (j, l)) else none)

/-- Whether a REPL that waits for its next iteration keeps events out (R134, R148). -/
def State.replHolds (s : State) : Bool := decide ((s.pac.svc.pc, s.pac.svc.sp) ∈ s.pac.replAt) && decide (s.pac.svc.rc ≠ 0)

/-- SERVICE_EVENT_ENTRY: the Service context takes a pending event, or with events disabled leaves WAIT (R130, R133, R144,
R148, R181). -/
def execServiceEventEntry (t : Nat) (bad : EntryLoss) (s : State) : Host.Outcome State Fault Refusal :=
  .next (
    let s := s.reach t
    if s.boot.phase ≠ .done ∨ s.flag DBG.HALTED ∨ s.stride.started ∨ ¬ s.pac.started ∨ s.pac.svc.stopped
      ∨ (s.pwr.state ≠ .run ∧ s.pwr.state ≠ .idle) ∨ s.pac.mismatch ∨ s.replHolds then s
    else match s.eventDue with
      | none => s
      | some (j, l) =>
        if bitAt s.pac.svc.fl 15 then s.leaveWait.enterHandler false (16 + j) s.pac.svc.pc s.pac.svc.pc (some l) bad.bad bad.mis t
        else if s.pac.waiting then s.leaveWait
        else s)

/-- SAFE_TRAP: the pending SAFE trap is taken in the Stride context while it runs, else in the Service context, which it
restarts after a double trap (R142, R145). One entry into H4 pends one trap: where the Stride context takes it, a Service context
that a double trap has stopped stays stopped until the next entry (DESIGN CHOICE, log entry 91). -/
def execSafeTrap (t : Nat) (bad : EntryLoss) (s : State) : Host.Outcome State Fault Refusal :=
  .next (
    let s := s.reach t
    if s.boot.phase ≠ .done ∨ s.flag DBG.HALTED ∨ ¬ s.pac.safePend ∨ s.pac.mismatch then s
    else if s.stride.started then (if s.pac.str.stopped ∨ s.splitZero + 4 * s.budgetPoint ≤ t then s else s.takeSafe true bad.bad bad.mis t)
    else if s.pac.started ∧ (s.pwr.state = .run ∨ s.pwr.state = .idle) then s.takeSafe false bad.bad bad.mis t
    else s)

end Sys2Proof.Machine
end

