-- ==== Sys2Proof/Machine/Debug.lean ====
section
/-! DEFINITION. The debug port: test access port, boundary scan, debug access and debug control (R646 to R653). -/
namespace Sys2Proof.Machine

/-- Updates the port. -/
def State.setTap (s : State) (f : TapSt → TapSt) : State := { s with tap := f s.tap }

/-- Whether the lifecycle state lets the port answer more than BYPASS and IDCODE (R646). -/
def State.debugOpen (s : State) : Bool := !s.boot.field

/-- An instruction is shifted in: in the Field state every one but IDCODE selects BYPASS (R646, R647). -/
def State.tapSelect (s : State) (code : Nat) : State :=
  s.setTap (fun r => { r with ir := if s.debugOpen || code = 2 then code else 0x3F })

/-- What a cell group drives on covered pin `k` while EXTEST is selected: none where the pin is not driven. PG (pin 18 of
the order of R648) follows no cell; REGEN (19) is driven low or released. -/
def TapSt.drives (r : TapSt) (k : Nat) : Option Bool :=
  if r.ir ≠ 0 ∨ k = 18 ∨ ¬ r.cells.getD (3 * k + 2) false then none
  else if k = 19 then (if r.cells.getD (3 * k + 1) false then none else some false)
  else some (r.cells.getD (3 * k + 1) false)

/-- Whether the port has a supply: neither VBAT nor the low-voltage rails are away (R37, R617). -/
def State.portLives (s : State) : Bool :=
  decide (s.pwr.state ≠ .park) && decide (s.pwr.state ≠ .waking)
    && !(decide (s.boot.phase = .held) && (decide (s.get BOOT.CAUSE = causeVpor) || decide (s.get BOOT.CAUSE = causeRpor)))

/-- An instruction of the port, where it has a supply; without one its pins are at high impedance (R37). -/
def State.tapRun (s : State) (code t : Nat) (f : State → State) : State :=
  let s := s.reach t
  if s.portLives then f (s.tapSelect code) else s

/-- The debug port is attached (R615, R650). -/
def State.attachPort (s : State) : State :=
  let s := if s.flag DBG.ATTACHED then s else (s.put DBG.ATTACHED 1).evt 0x50 0
  if s.pwr.state = .doze ∧ s.flag PWR.DBGEN then s.wakeSource 11 else s

/-- The halted context runs on (R651): with ticks suspended, what lay ahead in the stride moves by the length of the halt,
and the next tick falls LENACT after the resume (R72, log entry 45). -/
def State.resumePacer (s : State) (t : Nat) : State :=
  if ¬ s.flag DBG.HALTED then s
  else
    let s := { s with pac := { s.pac with stepping := false } }
    let s := (((s.put DBG.HALTED 0).put DBG.CAUSE 0).put DBG.STAT_CTX 0).evt 0x50 2
    match s.stride.suspended with
    | none => s
    | some h =>
      s.setStride (fun r => { r with
        suspended := none, base := r.base + (s.splitAt t - s.splitAt h), nextTick := s.splitAt t + s.get STR.LENACT,
        bridging := false, bridgeStep := false, newLen := none })

/-- The port is detached; a halted Pacer runs on (R650). -/
def State.detachPort (s : State) (t : Nat) : State :=
  if s.flag DBG.ATTACHED then (((s.put DBG.ATTACHED 0).evt 0x50 1).resumePacer t) else s

/-- A write of DCTL with bit ATTACH as given, and what it commands while the port is attached (R650, log entry 53). -/
def State.dctl (s : State) (att : Bool) (t : Nat) (f : State → State) : State :=
  s.tapRun 0x21 t (fun s =>
    if ¬ s.debugOpen then s
    else if att then f s.attachPort
    else s.detachPort t)

/-! Debug access (R649). -/

/-- Whether accesses complete at once with ST busy: the device is in reset, Warm-up has not completed, or the clocks of the
bus stand still. -/
def State.daccIdle (s : State) : Bool :=
  decide (s.boot.phase ≠ .done) || s.pwr.state = .park || s.pwr.state = .waking || s.pwr.state = .doze || s.pwr.state = .dozeExit

/-- The capture after an operation: its status and data, and the address of the next operation. -/
def State.daccEnd (s : State) (a : Nat) (inc : Bool) (st data : Nat) : State :=
  s.setTap (fun r => { r with st := st, addr := if inc then (a + 4) % 2 ^ 32 else a % 2 ^ 32, data := data })

/-- The capture of a refused operation: the code stands in the lowest four bits of the data (R649). -/
def State.daccRefuse (s : State) (a : Nat) (inc : Bool) (code : Nat) : State :=
  s.daccEnd a inc 2 (s.tap.data / 16 * 16 + code)

/-- One operation of DACC, with what it does at an aligned address. -/
def State.dacc (s : State) (a : Nat) (inc : Bool) (t : Nat) (f : State → State) : State :=
  s.tapRun 0x20 t (fun s =>
    if ¬ s.debugOpen then s
    else if s.daccIdle then s.daccEnd a inc 1 s.tap.data
    else if a % 4 ≠ 0 then s.daccRefuse a inc Cause.badop.code
    else f s)

/-- Whether an address is that of an absent page (R44). -/
def absentPage (a : Nat) : Bool := isPage a && !pagePresent ((a - 0x40000000) / 0x1000)

/-- A pass of the boundary-scan register (R646, R648). -/
def State.boundaryScan (s : State) (levels shift : List Bool) : State :=
  if s.debugOpen then
    s.setTap (fun r => { r with
      pins := (List.range 32).map (fun i => levels.getD i false), cells := (List.range 96).map (fun i => shift.getD i false) })
  else s

/-! Commands. -/

/-- EXTEST: `levels` are the levels of the 32 covered pins, `shift` the 96 cells shifted in (R647, R648). -/
def execExtest (t : Nat) (levels shift : List Bool) (s : State) : Host.Outcome State Fault Refusal :=
  .next (s.tapRun 0 t (fun s => s.boundaryScan levels shift))

/-- SAMPLE_PRELOAD: the pins are sampled and the cells loaded; the pages keep driving the pins (R647, R648). -/
def execSamplePreload (t : Nat) (levels shift : List Bool) (s : State) : Host.Outcome State Fault Refusal :=
  .next (s.tapRun 1 t (fun s => s.boundaryScan levels shift))

/-- IDCODE: the device identification register is captured (R647). -/
def execIdcode (t : Nat) (s : State) : Host.Outcome State Fault Refusal :=
  .next (s.tapRun 2 t (fun s => s.setTap (fun r => { r with
    out := 0x10000000 + 0x0A09 * 4096 + Config.factoryMfr % 2048 * 2 + 1 })))

/-- BYPASS: the one-bit register captures 0 (R647). -/
def execBypass (t : Nat) (s : State) : Host.Outcome State Fault Refusal :=
  .next (s.tapRun 0x3F t (fun s => s.setTap (fun r => { r with out := 0 })))

/-- TEST_LOGIC_RESET: IDCODE is selected; TRST_N low also detaches the port (R647, R650). -/
def execTestLogicReset (t : Nat) (trst : Bool) (s : State) : Host.Outcome State Fault Refusal :=
  .next (s.tapRun 2 t (fun s => if trst then s.detachPort t else s))

/-- DEBUG_READ_WORD: OP 0b01 of DACC (R649). -/
def execDebugReadWord (t a : Nat) (inc : Bool) (s : State) : Host.Outcome State Fault Refusal :=
  .next (s.dacc a inc t (fun s =>
    if absentPage a then s.daccEnd a inc 0 0
    else match s.peek .debug a 4 t with
      | some (v, s) => s.daccEnd a inc 0 v
      | none => s.daccEnd a inc 3 s.tap.data))

/-- DEBUG_WRITE_WORD: OP 0b10 of DACC (R649). A write that resets the device leaves the operation busy. -/
def execDebugWriteWord (t a v : Nat) (inc : Bool) (s : State) : Host.Outcome State Fault Refusal :=
  .next (s.dacc a inc t (fun s =>
    if absentPage a then s.daccRefuse a inc Cause.nopage.code
    else match s.poke .debug a 4 (v % 2 ^ 32) t with
      | some (s, none) => s.daccEnd a inc 0 s.tap.data
      | some (s, some c) => s.daccRefuse a inc c.code
      | none => s.daccEnd a inc 3 s.tap.data))

/-- DSTAT: the debug status is captured (R650). -/
def execDstat (t : Nat) (s : State) : Host.Outcome State Fault Refusal :=
  .next (s.tapRun 0x22 t (fun s =>
    if s.debugOpen then
      let v := s.get DBG.ATTACHED + 2 * s.get DBG.HALTED + 4 * s.get DBG.STAT_CTX + 8 * s.get DBG.CAUSE + 64 * s.get DBG.BP
        + 256 * b2n (decide (s.boot.phase ≠ .done)) + 512 * s.get STR.RPLCTRL_EN + 1024 * s.get BOOT.RECOVERY
      s.setTap (fun r => { r with out := v })
    else s))

/-- ATTACH: a DCTL write with no command beside bit ATTACH; in PARK the level of TRST_N is the debug wake (R615, R622, R650,
R653). -/
def execAttach (t : Nat) (on : Bool) (s : State) : Host.Outcome State Fault Refusal :=
  .next (
    if s.pwr.state = .park then
      let s := s.reach t
      if on && s.flag PWR.DBGEN && s.debugOpen then s.wakeSource 11 else s
    else s.dctl on t id)

/-- HALT: the Pacer halts between instructions in the context that runs (R651). -/
def execHalt (t : Nat) (att : Bool) (s : State) : Host.Outcome State Fault Refusal :=
  .next (s.dctl att t (fun s =>
    if s.flag DBG.HALTED ∨ s.boot.phase ≠ .done then s else s.haltIn s.stride.started 1 t))

/-- RESUME: the halted context goes on at the halt point (R651). -/
def execResume (t : Nat) (att : Bool) (s : State) : Host.Outcome State Fault Refusal :=
  .next (s.dctl att t (fun s => s.resumePacer t))

/-- STEP: the next instruction or iteration of the halted context runs, and the Pacer halts again (R651). -/
def execStep (t : Nat) (att : Bool) (s : State) : Host.Outcome State Fault Refusal :=
  .next (s.dctl att t (fun s =>
    if s.flag DBG.HALTED then
      let pc := (s.ctx (s.flag DBG.STAT_CTX)).pc
      { s with pac := { s.pac with stepping := true, passPc := some pc } }
    else s))

/-- DEBUG_RESET: a device reset with cause DEBUG, in the Factory state only (R653). -/
def execDebugReset (t : Nat) (att : Bool) (s : State) : Host.Outcome State Fault Refusal :=
  .next (s.dctl att t (fun s => s.deviceReset causeDebug 0 t))

end Sys2Proof.Machine
end

