-- ==== Sys2Proof/Machine/Ethernet.lean ====
section
/-! DEFINITION. Frames as they arrive: acceptance, classification, remote register access, links and the host's transmit
rings (R59 to R66, R471, R475 to R480, R497). -/
namespace Sys2Proof.Machine

/-! Remote register access (R59 to R65). -/

/-- The requester of a source address and VLAN: the lowest enabled entry that matches (R62). -/
def State.requester (s : State) (mac vid : Nat) : Option Nat :=
  (List.range 8).find? (fun q => s.flag (RRA.VALID q) && decide (s.get (RRA.MACHI q) * 65536 + s.get (RRA.MACLO q) = mac)
    && decide (s.get (RRA.VID q) = vid))

/-- The first 64 bits of the CMAC under a requester's key slot, or zero without AUTH (R60, R61). -/
def State.rraTag (s : State) (q : Nat) (msg : List Byte) : List Byte :=
  if s.flag (RRA.AUTH q) then macOf (look [] s.vault.keys (s.get (RRA.KEY q))) msg else List.replicate 8 0

/-- The status code of an access (R64). -/
def statusOf (c : Option Cause) : Nat := match c with | none => 0 | some x => x.code

/-- What a result carries for a write: the register's value, 0 where the operation names no register (R61). -/
def State.rraData (s : State) (q p off t : Nat) : Nat :=
  if pagePresent p ∧ off % 4 = 0 ∧ off ≤ 0xFFC then (s.view p off t (.remote q)).toNat else 0

/-- One operation of a request, `bad` where the request's own reserved bits are set: state, status, and data (R60, R61,
R64, R65). -/
def State.rraOp (s : State) (q : Nat) (op : List Byte) (bad : Bool) (t : Nat) : State × Nat × Nat :=
  let code := (op.getD 0 0).toNat
  let p := (op.getD 1 0).toNat
  let off := beVal ((op.drop 2).take 2)
  let v := beVal ((op.drop 4).take 4)
  let m := beVal ((op.drop 8).take 4)
  if bad ∨ off % 4 ≠ 0 ∨ 0xFFC < off then (s, 9, if code = 2 then s.rraData q p off t else 0)
  else if code = 1 then
    if v ≠ 0 ∨ m ≠ 0 then (s, 9, 0)
    else
      let r := s.busRead (.remote q) p off t
      (r.2.1, statusOf r.2.2, r.1.toNat)
  else if code = 2 then
    let r := s.busWrite (.remote q) p off (BitVec.ofNat 32 v) (BitVec.ofNat 32 m) t
    (r.1, statusOf r.2, r.1.rraData q p off t)
  else (s, 9, 0)

/-- The operations of a request in order: state, whether one failed, and the result bytes (R60 to R63). The DATA of an
operation that is skipped, for which the spec gives none, is 0 (log entry 57). -/
def State.rraOps (q t : Nat) (stop bad : Bool) : Nat → List Byte → State × Bool × List Byte → State × Bool × List Byte
  | 0, _, a => a
  | n + 1, ops, (s, failed, out) =>
    let op := ops.take 12
    let r := if stop && failed then (s, 8, 0) else s.rraOp q op bad t
    let res := [op.getD 0 0, BitVec.ofNat 8 r.2.1, op.getD 1 0, 0] ++ beBytes 4 r.2.2
    State.rraOps q t stop bad n (ops.drop 12) (r.1, failed || decide (r.2.1 ≠ 0), out ++ res)

/-- A request is dropped (R62). -/
def State.rraDrop (s : State) : State := (s.count RRA.DROPCNT).evt 0x4B 0

/-- A request in a frame whose VLAN on the wire was `vid` (R60 to R64): the tag covers the operations that COUNT names, and a
COUNT that the frame does not hold leaves a requester with AUTH without a tag (log entry 49). A requester with AUTH 0 has no
tag to be wrong, so its TAG bytes are not checked (log entry 56). The response is answered under the request's own key. -/
def State.rraRequest (s : State) (f : EthFrame) (vid t : Nat) : State :=
  let pay := f.body.drop 14
  match s.requester f.src vid with
  | none => s.rraDrop
  | some q =>
    let n := (pay.getD 2 0).toNat
    let fresh := beVal ((pay.drop 4).take 4)
    let holds := decide (8 + 12 * n + 8 ≤ pay.length)
    let tagOk := !s.flag (RRA.AUTH q) || (holds && decide ((pay.drop (8 + 12 * n)).take 8 = s.rraTag q (pay.take (8 + 12 * n))))
    if ¬ s.flag (Hdr.EN 0x4B) ∨ pay.getD 0 0 ≠ 0x11 ∨ ¬ tagOk ∨ fresh ≤ s.get (RRA.FRESH q) then s.rraDrop
    else
      let s := s.put (RRA.FRESH q) fresh
      let flags := (pay.getD 1 0).toNat
      let bad := decide (1 < flags) || decide (pay.getD 3 0 ≠ 0)
      let badLen := decide (n = 0) || decide (32 < n) || !holds
      let r := if badLen then (s, true, []) else State.rraOps q t (bitAt flags 0) bad n (pay.drop 8) (s, false, [])
      let status : Nat := if badLen then 2 else if r.2.1 then 1 else 0
      let msg := [(0x12 : Byte)] ++ (pay.drop 1).take 7 ++ [BitVec.ofNat 8 status, 0, 0, 0] ++ r.2.2
      (if status = 1 then r.1.evt 0x4B 1 else r.1).swOriginate f.src f.vid f.prio 0x88B5 (msg ++ s.rraTag q msg) t

/-! Reception (R475 to R480, R488 to R491). -/

/-- A received frame parted into tags and the rest: whether it carries a VLAN tag, its VID and PCP, its R-TAG's sequence
number, and the octets without tags (R475, R476, R490). -/
def parseFrame (octets : List Byte) : Bool × Nat × Nat × Option Nat × List Byte :=
  let addr := octets.take 12
  let rest := octets.drop 12
  let tagged := decide (beVal (rest.take 2) = 0x8100)
  let tci := if tagged then beVal ((rest.drop 2).take 2) else 0
  let rest := if tagged then rest.drop 4 else rest
  let hasR := decide (beVal (rest.take 2) = 0xF1C1)
  (tagged, tci % 4096, tci / 8192, if hasR then some (beVal ((rest.drop 4).take 2)) else none,
    addr ++ (if hasR then rest.drop 6 else rest))

/-- A frame that the port drops (R475). -/
def State.rxDrop (s : State) (p : Nat) (crc : Bool) : State :=
  (s.count (if crc then PT.CRCERR p else PT.RXDROP p)).setPort p (fun r => { r with dropWin := min (r.dropWin + 1) 65535 })

/-- Whether a recovering entry delivers a replica that came in on the ring, or the frame is of another kind (R491). -/
def State.delivers (s : State) (f : EthFrame) (stream : Option Nat) (t : Nat) : Bool :=
  match stream, f.rtag with
  | some i, some q => !(decide ((s.stream i).func = 2) && decide (f.ingress < 2)) || ((s.frerPath i f.ingress t).frerAccept i q t).2
  | _, _ => true

/-- An accepted frame: learned, filtered, forwarded, and handed to RRA where it is a request, to NMB where it is a ring frame
(R477 to R480, R489). -/
def State.rxAccepted (s : State) (f : EthFrame) (v wireVid len t : Nat) : State :=
  let stream := s.sflFind f.dst f.src f.vid
  let func := match stream with | some i => (s.stream i).func | none => 0
  let blocked := decide (f.ingress < 2) && (decide (func = 1) || (decide (func = 0) && s.flag (PT.BLOCKNF f.ingress)))
  if blocked then s
  else
    let s := s.macLearn f.src v f.ingress t
    let r := match stream with | some i => s.sflFilter i len t | none => (s, true)
    if ¬ r.2 then r.1
    else
      let s := r.1
      let take := s.isRra f && s.flag (Hdr.EN 0x47) && (s.destPorts f v).contains 6 && s.delivers f stream t
      let group := decide (f.ingress < 6) && decide (f.etype = 0x88B6)
        && decide (f.dst = s.get NMB.GRPMACHI * 65536 + s.get NMB.GRPMACLO) && s.delivers f stream t
      let s := s.swForward f stream t
      if take then s.rraRequest f wireVid t else if group then s.ringFrame (f.body.drop 14) t else s

/-- The frame that port `p` makes of the octets received, with its VLAN entry and the VID on the wire; none where R475 drops
it for its length, its tagging or its VLAN (R475, R476). -/
def State.rxFrame (s : State) (p : Nat) (octets : List Byte) (t : Nat) : Option (EthFrame × Nat × Nat) :=
  let (tagged, vid, pcp, rtag, body) := parseFrame octets
  let acc := s.get (PT.ACCEPT p)
  let own := tagged && decide (vid ≠ 0)
  let vid' := if own then vid else s.get (PT.PVID p)
  let prio := if own then pcp else s.get (PT.DPRIO p)
  if octets.length + 4 < 64 ∨ s.get SWC.MAXLEN < octets.length + 4 ∨ (acc = 1 ∧ ¬ own) ∨ (acc = 2 ∧ own) then none
  else match s.vlanOf vid' with
    | none => none
    | some v =>
      if ¬ bitAt (s.get (SWC.MEMBER v)) p then none
      else some ({ vid := vid', prio := prio, cls := wbits (s.get (PT.PCPMAP p)) (4 * prio) 3, rtag := rtag, body := body, ingress := p,
                   last := t, untag := false, bad := false }, v, vid)

/-- Whether octets are a gPTP frame, which is link-local and no frame of the switch (R493). -/
def isGptp (octets : List Byte) : Bool := decide (beVal (((parseFrame octets).2.2.2.2.drop 12).take 2) = 0x88F7)

/-- ETH_FRAME_RECEIVED: the last bit of a frame arrives on port `p` (R475 to R480). `octets` run from the destination address
to the FCS, which they leave out; gPTP frames are the commands of TSY. -/
def execEthFrameReceived (t p : Nat) (octets : List Byte) (fcsOk : Bool) (s : State) : Host.Outcome State Fault Refusal :=
  .next (
    let s := s.reach t
    if ¬ (p < 6 ∧ s.portOn p ∧ s.flag (PT.UP p)) then s
    else
      let s := (s.count (PT.RXFRAMES p)).setPort p (fun r => { r with rxWin := min (r.rxWin + 1) 65535 })
      if fcsOk && isGptp octets && decide (64 ≤ octets.length + 4) then s
      else match s.rxFrame p octets t with
        | none => s.rxDrop p (!fcsOk)
        | some (f, v, vid) =>
          if fcsOk then s.rxAccepted f v vid (octets.length + 4) t else (s.cutThrough f v (octets.length + 4) t).rxDrop p true)

/-- PORT_LINK_CHANGE: the link of port `p` goes up or down, `usable` where B0's recovered clock can be used (R471, R496,
R504). -/
def execPortLinkChange (t p : Nat) (up usable : Bool) (s : State) : Host.Outcome State Fault Refusal :=
  .next (
    let s := s.reach t
    if 6 ≤ p then s
    else
      let s := if up = s.flag (PT.UP p) then s
        else
          let s := (s.put (PT.UP p) (b2n up)).evt (0x41 + p) (if up then 0 else 1)
          if !up && s.flag (Hdr.EN (0x41 + p)) then s.detect (if p < 2 then 0xCB else 0xCC) p else s
      if p = 0 then (s.put TSY.RCLKOK (b2n (up && usable))).rclkWait t else s)

/-- HOST_TX_DESCRIPTOR: the switch sends the next descriptor of transmit ring `r`, 4 to 7 (R497). One whose length or buffer
lies outside what R497 allows is passed over (log entry 50). -/
def execHostTxDescriptor (t r : Nat) (s : State) : Host.Outcome State Fault Refusal :=
  .next (
    let s := s.reach t
    if ¬ (4 ≤ r ∧ r < 8 ∧ s.flag (PH.EN r) ∧ s.flag (Hdr.EN 0x47) ∧ s.flag (Hdr.EN 0x40)) ∨ s.get (PH.SIZE r) = 0 then s
    else
      let d := s.get (PH.BASE r) + 16 * s.get (PH.NEXT r)
      let ctl := s.le (d + 12) 1
      if ¬ bitAt ctl 0 then s
      else
        let buf := s.le d 4
        let n := s.le (d + 4) 2
        let octets := s.bytes buf n
        let s := (s.setLe (d + 12) 1 (clrBit ctl 0)).put (PH.NEXT r) ((s.get (PH.NEXT r) + 1) % s.get (PH.SIZE r))
        let s := s.evt 0x47 r
        if n < 60 ∨ s.get SWC.MAXLEN < n + 4 ∨ buf < 0x200000 ∨ 0x2E0000 < buf + n then s
        else
          let s := if bitAt ctl 1 then s.setLe (d + 8) 4 (s.splitAt t) else s
          let (tagged, vid, pcp, rtag, body) := parseFrame octets
          let cls := wbits (s.get PH.TXCLS) (3 * (r - 4)) 3
          let vid' := if tagged && decide (vid ≠ 0) then vid else 1
          match s.vlanOf vid' with
          | none => s
          | some v =>
            if ¬ bitAt (s.get (SWC.MEMBER v)) 6 then s
            else
              let f : EthFrame :=
                { vid := vid', prio := if tagged then pcp else cls, cls := cls, rtag := rtag, body := body, ingress := 6, last := t,
                  untag := false, bad := false }
              s.rxAccepted f v vid (n + 4) t)

end Sys2Proof.Machine
end

