-- ==== Sys2Proof/Machine/Dispatch.lean ====
section
/-! DEFINITION. The meaning of every command, one arm per row of the command table. -/
namespace Sys2Proof.Machine

/-- The effect of a command on everything but the queue. -/
def exec (i : Instr) (s : State) : Host.Outcome State Fault Refusal :=
  match i with
  | .registerWrite t src p off v m => Sys2Proof.Machine.execRegisterWrite t src p off v m s
  | .rejClear t src p v m => Sys2Proof.Machine.execRejClear t src p v m s
  | .lockKeyWrite t src p key => Sys2Proof.Machine.execLockKeyWrite t src p key s
  | .lockExpiry p => Sys2Proof.Machine.execLockExpiry p s
  | .pageEnable t src p en v m => Sys2Proof.Machine.execPageEnable t src p en v m s
  | .pageSoftReset t src p v m => Sys2Proof.Machine.execPageSoftReset t src p v m s
  | .unitStopComplete t p => Sys2Proof.Machine.execUnitStopComplete t p s
  | .softReset t src pac v m => Sys2Proof.Machine.execSoftReset t src pac v m s
  | .pacEnable t src v m => Sys2Proof.Machine.execPacEnable t src v m s
  | .tick => Sys2Proof.Machine.execTick s
  | .cutOff => Sys2Proof.Machine.execCutOff s
  | .stagingComplete t => Sys2Proof.Machine.execStagingComplete t s
  | .overrun => Sys2Proof.Machine.execOverrun s
  | .rsrcLearn => Sys2Proof.Machine.execRsrcLearn s
  | .replayEnter t src v m => Sys2Proof.Machine.execReplayEnter t src v m s
  | .replayStep t src v m => Sys2Proof.Machine.execReplayStep t src v m s
  | .batonPush t src tl k => Sys2Proof.Machine.execBatonPush t src tl k s
  | .queueAdvance t src k => Sys2Proof.Machine.execQueueAdvance t src k s
  | .queueFlush t src k => Sys2Proof.Machine.execQueueFlush t src k s
  | .mov t e => Sys2Proof.Machine.execMov t e s
  | .movz t e => Sys2Proof.Machine.execMovz t e s
  | .movs t e => Sys2Proof.Machine.execMovs t e s
  | .lea t e => Sys2Proof.Machine.execLea t e s
  | .push t e => Sys2Proof.Machine.execPush t e s
  | .pop t e => Sys2Proof.Machine.execPop t e s
  | .clr t e => Sys2Proof.Machine.execClr t e s
  | .add t e => Sys2Proof.Machine.execAdd t e s
  | .addc t e => Sys2Proof.Machine.execAddc t e s
  | .sub t e => Sys2Proof.Machine.execSub t e s
  | .subc t e => Sys2Proof.Machine.execSubc t e s
  | .addS t e => Sys2Proof.Machine.execAddS t e s
  | .subS t e => Sys2Proof.Machine.execSubS t e s
  | .neg t e => Sys2Proof.Machine.execNeg t e s
  | .negS t e => Sys2Proof.Machine.execNegS t e s
  | .abs t e => Sys2Proof.Machine.execAbs t e s
  | .absS t e => Sys2Proof.Machine.execAbsS t e s
  | .mul t e => Sys2Proof.Machine.execMul t e s
  | .mulhu t e => Sys2Proof.Machine.execMulhu t e s
  | .mulhs t e => Sys2Proof.Machine.execMulhs t e s
  | .div t e => Sys2Proof.Machine.execDiv t e s
  | .divs t e => Sys2Proof.Machine.execDivs t e s
  | .rem t e => Sys2Proof.Machine.execRem t e s
  | .rems t e => Sys2Proof.Machine.execRems t e s
  | .cmp t e => Sys2Proof.Machine.execCmp t e s
  | .tst t e => Sys2Proof.Machine.execTst t e s
  | .andOp t e => Sys2Proof.Machine.execAndOp t e s
  | .orOp t e => Sys2Proof.Machine.execOrOp t e s
  | .xor t e => Sys2Proof.Machine.execXor t e s
  | .bic t e => Sys2Proof.Machine.execBic t e s
  | .notOp t e => Sys2Proof.Machine.execNotOp t e s
  | .shl t e => Sys2Proof.Machine.execShl t e s
  | .shr t e => Sys2Proof.Machine.execShr t e s
  | .sar t e => Sys2Proof.Machine.execSar t e s
  | .rol t e => Sys2Proof.Machine.execRol t e s
  | .ror t e => Sys2Proof.Machine.execRor t e s
  | .clz t e => Sys2Proof.Machine.execClz t e s
  | .minOp t e => Sys2Proof.Machine.execMinOp t e s
  | .maxOp t e => Sys2Proof.Machine.execMaxOp t e s
  | .mins t e => Sys2Proof.Machine.execMins t e s
  | .maxs t e => Sys2Proof.Machine.execMaxs t e s
  | .jmp t e => Sys2Proof.Machine.execJmp t e s
  | .call t e => Sys2Proof.Machine.execCall t e s
  | .bcc t e => Sys2Proof.Machine.execBcc t e s
  | .djnz t e => Sys2Proof.Machine.execDjnz t e s
  | .nop t e => Sys2Proof.Machine.execNop t e s
  | .fin t e => Sys2Proof.Machine.execFin t e s
  | .wait t e => Sys2Proof.Machine.execWait t e s
  | .ret t e => Sys2Proof.Machine.execRet t e s
  | .rete t e => Sys2Proof.Machine.execRete t e s
  | .rep t e op ix n => Sys2Proof.Machine.execRep t e op ix n s
  | .repl t e op ix n => Sys2Proof.Machine.execRepl t e op ix n s
  | .bkpt t e => Sys2Proof.Machine.execBkpt t e s
  | .trap t e => Sys2Proof.Machine.execTrap t e s
  | .ei t e => Sys2Proof.Machine.execEi t e s
  | .di t e => Sys2Proof.Machine.execDi t e s
  | .serviceEventEntry t bad => Sys2Proof.Machine.execServiceEventEntry t bad s
  | .safeTrap t bad => Sys2Proof.Machine.execSafeTrap t bad s
  | .lockstepInject t src v m => Sys2Proof.Machine.execLockstepInject t src v m s
  | .laneLinkSlot t a b => Sys2Proof.Machine.execLaneLinkSlot t a b s
  | .laneLinkResync t d => Sys2Proof.Machine.execLaneLinkResync t d s
  | .laneWatchdogExpiry d => Sys2Proof.Machine.execLaneWatchdogExpiry d s
  | .failsafeHeat d => Sys2Proof.Machine.execFailsafeHeat d s
  | .lhSelectChange t d sel => Sys2Proof.Machine.execLhSelectChange t d sel s
  | .temperatureConversion t d ref temps => Sys2Proof.Machine.execTemperatureConversion t d ref temps s
  | .senseConversion t ss => Sys2Proof.Machine.execSenseConversion t ss s
  | .currentLimitEntry t u => Sys2Proof.Machine.execCurrentLimitEntry t u s
  | .inrushWindowEnd u => Sys2Proof.Machine.execInrushWindowEnd u s
  | .retryIntervalExpiry u => Sys2Proof.Machine.execRetryIntervalExpiry u s
  | .deferralLimitExpiry u => Sys2Proof.Machine.execDeferralLimitExpiry u s
  | .retryReloadTimer u => Sys2Proof.Machine.execRetryReloadTimer u s
  | .demagDump u => Sys2Proof.Machine.execDemagDump u s
  | .diagFilterExpiry t u d holds => Sys2Proof.Machine.execDiagFilterExpiry t u d holds s
  | .offStateTest t b => Sys2Proof.Machine.execOffStateTest t b s
  | .offTestPhaseEnd u high => Sys2Proof.Machine.execOffTestPhaseEnd u high s
  | .channelFaultClear t src u v m => Sys2Proof.Machine.execChannelFaultClear t src u v m s
  | .pwmPeriodStart t k => Sys2Proof.Machine.execPwmPeriodStart t k s
  | .camsyncEdge t g begins => Sys2Proof.Machine.execCamsyncEdge t g begins s
  | .strobeScheduleInstant t g => Sys2Proof.Machine.execStrobeScheduleInstant t g s
  | .sprintPulse t g => Sys2Proof.Machine.execSprintPulse t g s
  | .sprintPulseEnd n => Sys2Proof.Machine.execSprintPulseEnd n s
  | .pulseLateExpiry n => Sys2Proof.Machine.execPulseLateExpiry n s
  | .reverseBattery t => Sys2Proof.Machine.execReverseBattery t s
  | .groundLoss t d => Sys2Proof.Machine.execGroundLoss t d s
  | .groundReturn t d => Sys2Proof.Machine.execGroundReturn t d s
  | .peakPhaseEnd n => Sys2Proof.Machine.execPeakPhaseEnd n s
  | .valvePwmPeriod t n imeas duty => Sys2Proof.Machine.execValvePwmPeriod t n imeas duty s
  | .valveRampEnd n => Sys2Proof.Machine.execValveRampEnd n s
  | .slowDecayTimeout n => Sys2Proof.Machine.execSlowDecayTimeout n s
  | .valveOvercurrentTrip t n clamp => Sys2Proof.Machine.execValveOvercurrentTrip t n clamp s
  | .bankOffDelayExpiry b => Sys2Proof.Machine.execBankOffDelayExpiry b s
  | .bankOffStateTest t b => Sys2Proof.Machine.execBankOffStateTest t b s
  | .reverseBrakeEnd t n below => Sys2Proof.Machine.execReverseBrakeEnd t n below s
  | .parkInputReached t n => Sys2Proof.Machine.execParkInputReached t n s
  | .parkTimeout n => Sys2Proof.Machine.execParkTimeout n s
  | .chopLimit t n => Sys2Proof.Machine.execChopLimit t n s
  | .overloadTrip t n => Sys2Proof.Machine.execOverloadTrip t n s
  | .shortCircuitTrip t n high low bothLegs => Sys2Proof.Machine.execShortCircuitTrip t n high low bothLegs s
  | .stallDetect t n => Sys2Proof.Machine.execStallDetect t n s
  | .rippleCrossing t n => Sys2Proof.Machine.execRippleCrossing t n s
  | .outputStopComplete t u => Sys2Proof.Machine.execOutputStopComplete t u s
  | .scanStart t => Sys2Proof.Machine.execScanStart t s
  | .rowSlotStart t => Sys2Proof.Machine.execRowSlotStart t s
  | .msyncEdge t rising => Sys2Proof.Machine.execMsyncEdge t rising s
  | .msyncTimeout => Sys2Proof.Machine.execMsyncTimeout s
  | .headroomConversion t vs => Sys2Proof.Machine.execHeadroomConversion t vs s
  | .debouncedChange t n => Sys2Proof.Machine.execDebouncedChange t n s
  | .inputRawChange t n mv => Sys2Proof.Machine.execInputRawChange t n mv s
  | .inputInitSample p => Sys2Proof.Machine.execInputInitSample p s
  | .wettingPulse t p volts => Sys2Proof.Machine.execWettingPulse t p volts s
  | .timerCountStep t u => Sys2Proof.Machine.execTimerCountStep t u s
  | .captureEdge t tin rising => Sys2Proof.Machine.execCaptureEdge t tin rising s
  | .tstagGo t src units => Sys2Proof.Machine.execTstagGo t src units s
  | .canFrameReceived t x sof f => Sys2Proof.Machine.execCanFrameReceived t x sof f s
  | .canFrameSent t x sof => Sys2Proof.Machine.execCanFrameSent t x sof s
  | .canArbitrationLost t x sof => Sys2Proof.Machine.execCanArbitrationLost t x sof s
  | .canError t x code tec rec_ sof sending => Sys2Proof.Machine.execCanError t x code tec rec_ sof sending s
  | .canIntegrationComplete t x => Sys2Proof.Machine.execCanIntegrationComplete t x s
  | .canRecoveryComplete t x => Sys2Proof.Machine.execCanRecoveryComplete t x s
  | .canProtocolException t x => Sys2Proof.Machine.execCanProtocolException t x s
  | .canTxPut t src x f => Sys2Proof.Machine.execCanTxPut t src x f s
  | .canTxFetch t x f => Sys2Proof.Machine.execCanTxFetch t x f s
  | .canRxAck t src x f => Sys2Proof.Machine.execCanRxAck t src x f s
  | .canTxFlush t src x f => Sys2Proof.Machine.execCanTxFlush t src x f s
  | .canManualRecover t src x => Sys2Proof.Machine.execCanManualRecover t src x s
  | .canAutoReturnEnable t src v m => Sys2Proof.Machine.execCanAutoReturnEnable t src v m s
  | .canStopTimeout x => Sys2Proof.Machine.execCanStopTimeout x s
  | .canTxdTimeout t x => Sys2Proof.Machine.execCanTxdTimeout t x s
  | .canBusWake t x => Sys2Proof.Machine.execCanBusWake t x s
  | .nmEnable t src x en v m => Sys2Proof.Machine.execNmEnable t src x en v m s
  | .nmKeepaliveSend x => Sys2Proof.Machine.execNmKeepaliveSend x s
  | .nmRepeatExpiry x => Sys2Proof.Machine.execNmRepeatExpiry x s
  | .nmTimeoutExpiry x => Sys2Proof.Machine.execNmTimeoutExpiry x s
  | .nmWaitbsExpiry x => Sys2Proof.Machine.execNmWaitbsExpiry x s
  | .falseStartWindow x => Sys2Proof.Machine.execFalseStartWindow x s
  | .falseStartMaskHold x => Sys2Proof.Machine.execFalseStartMaskHold x s
  | .ringLapStart t => Sys2Proof.Machine.execRingLapStart t s
  | .baton t payload => Sys2Proof.Machine.execBaton t payload s
  | .dissent t payload => Sys2Proof.Machine.execDissent t payload s
  | .commit t payload => Sys2Proof.Machine.execCommit t payload s
  | .ringCommitResend => Sys2Proof.Machine.execRingCommitResend s
  | .ringConsentLost t => Sys2Proof.Machine.execRingConsentLost t s
  | .ringLapTimeout => Sys2Proof.Machine.execRingLapTimeout s
  | .ringCommitTimeout => Sys2Proof.Machine.execRingCommitTimeout s
  | .ethFrameReceived t p octets fcsOk => Sys2Proof.Machine.execEthFrameReceived t p octets fcsOk s
  | .ethTransmitOpportunity t p => Sys2Proof.Machine.execEthTransmitOpportunity t p s
  | .portLinkChange t p up usable => Sys2Proof.Machine.execPortLinkChange t p up usable s
  | .mdioWrite t src v => Sys2Proof.Machine.execMdioWrite t src v s
  | .mdioRead t src v => Sys2Proof.Machine.execMdioRead t src v s
  | .mdioAddress t src v => Sys2Proof.Machine.execMdioAddress t src v s
  | .mdioComplete t data turnaround => Sys2Proof.Machine.execMdioComplete t data turnaround s
  | .macRead t src ix => Sys2Proof.Machine.execMacRead t src ix s
  | .macWrite t src ix => Sys2Proof.Machine.execMacWrite t src ix s
  | .macDelete t src ix => Sys2Proof.Machine.execMacDelete t src ix s
  | .macFlushDynamic t src ix => Sys2Proof.Machine.execMacFlushDynamic t src ix s
  | .macAgeExpiry t ix => Sys2Proof.Machine.execMacAgeExpiry t ix s
  | .tasCfgchg t src p v m => Sys2Proof.Machine.execTasCfgchg t src p v m s
  | .tasConfigChange t p => Sys2Proof.Machine.execTasConfigChange t p s
  | .gateIntervalEnd t p => Sys2Proof.Machine.execGateIntervalEnd t p s
  | .preemptVerify t p ok => Sys2Proof.Machine.execPreemptVerify t p ok s
  | .frerResetTimeout ix => Sys2Proof.Machine.execFrerResetTimeout ix s
  | .sflSelect t src ix => Sys2Proof.Machine.execSflSelect t src ix s
  | .sflStore t src ix => Sys2Proof.Machine.execSflStore t src ix s
  | .hostTxDescriptor t r => Sys2Proof.Machine.execHostTxDescriptor t r s
  | .gptpSyncReceived t p gm master rate => Sys2Proof.Machine.execGptpSyncReceived t p gm master rate s
  | .gptpSyncTimeout => Sys2Proof.Machine.execGptpSyncTimeout s
  | .gptpPdelay t p delay => Sys2Proof.Machine.execGptpPdelay t p delay s
  | .accessCycleStart => Sys2Proof.Machine.execAccessCycleStart s
  | .lfBurstsEnd peaks shorts hot => Sys2Proof.Machine.execLfBurstsEnd peaks shorts hot s
  | .uwbPoll t ok => Sys2Proof.Machine.execUwbPoll t ok s
  | .uwbRespReceived t k frame round eps => Sys2Proof.Machine.execUwbRespReceived t k frame round eps s
  | .accessSelection t => Sys2Proof.Machine.execAccessSelection t s
  | .accessCycleEnd t => Sys2Proof.Machine.execAccessCycleEnd t s
  | .lockoutEnd => Sys2Proof.Machine.execLockoutEnd s
  | .permitClose => Sys2Proof.Machine.execPermitClose s
  | .enrol t src => Sys2Proof.Machine.execEnrol t src s
  | .revoke t src => Sys2Proof.Machine.execRevoke t src s
  | .keyload t src => Sys2Proof.Machine.execKeyload t src s
  | .vaultCmdComplete t nvOk => Sys2Proof.Machine.execVaultCmdComplete t nvOk s
  | .faultRaise t src unit => Sys2Proof.Machine.execFaultRaise t src unit s
  | .faultAck t src ix => Sys2Proof.Machine.execFaultAck t src ix s
  | .graceExpiry src => Sys2Proof.Machine.execGraceExpiry src s
  | .faultUnhold t src ix u => Sys2Proof.Machine.execFaultUnhold t src ix u s
  | .faultClear t src ix => Sys2Proof.Machine.execFaultClear t src ix s
  | .safeRelease t src => Sys2Proof.Machine.execSafeRelease t src s
  | .canarySweep t m0 m1 m2 m3 rosc => Sys2Proof.Machine.execCanarySweep t m0 m1 m2 m3 rosc s
  | .replanPoint t => Sys2Proof.Machine.execReplanPoint t s
  | .operatingMinute t cd a b => Sys2Proof.Machine.execOperatingMinute t cd a b s
  | .recordCodePut t src c => Sys2Proof.Machine.execRecordCodePut t src c s
  | .recordQueueEntry t k => Sys2Proof.Machine.execRecordQueueEntry t k s
  | .tokenRefill t c => Sys2Proof.Machine.execTokenRefill t c s
  | .codeClassAssign t src c cls => Sys2Proof.Machine.execCodeClassAssign t src c cls s
  | .feedPut t src k => Sys2Proof.Machine.execFeedPut t src k s
  | .feedClear t src k => Sys2Proof.Machine.execFeedClear t src k s
  | .flushPeriod t => Sys2Proof.Machine.execFlushPeriod t s
  | .flushCommand t src v m => Sys2Proof.Machine.execFlushCommand t src v m s
  | .archiveSectorWritten t ok => Sys2Proof.Machine.execArchiveSectorWritten t ok s
  | .recordRead t src => Sys2Proof.Machine.execRecordRead t src s
  | .recordWipe t src key => Sys2Proof.Machine.execRecordWipe t src key s
  | .xoscStartWait ok => Sys2Proof.Machine.execXoscStartWait ok s
  | .pllLock t ok => Sys2Proof.Machine.execPllLock t ok s
  | .rampStep => Sys2Proof.Machine.execRampStep s
  | .referenceSelect t src rclk v m => Sys2Proof.Machine.execReferenceSelect t src rclk v m s
  | .referenceSlewComplete t diff => Sys2Proof.Machine.execReferenceSlewComplete t diff s
  | .clockMonitorFail t c => Sys2Proof.Machine.execClockMonitorFail t c s
  | .holdoverExpiry => Sys2Proof.Machine.execHoldoverExpiry s
  | .clockWaitEnd => Sys2Proof.Machine.execClockWaitEnd s
  | .xoscRetry => Sys2Proof.Machine.execXoscRetry s
  | .rclkReturn => Sys2Proof.Machine.execRclkReturn s
  | .lpxoChangeover t ok => Sys2Proof.Machine.execLpxoChangeover t ok s
  | .quiesceTimeout t kinds => Sys2Proof.Machine.execQuiesceTimeout t kinds s
  | .dozeWake t decay => Sys2Proof.Machine.execDozeWake t decay s
  | .cooldownArmTimeout => Sys2Proof.Machine.execCooldownArmTimeout s
  | .cooldownUnitsStopped t => Sys2Proof.Machine.execCooldownUnitsStopped t s
  | .cooldownTimeout => Sys2Proof.Machine.execCooldownTimeout s
  | .cooldownFlushEnd t => Sys2Proof.Machine.execCooldownFlushEnd t s
  | .wakeInputFilter t j => Sys2Proof.Machine.execWakeInputFilter t j s
  | .parkWake t => Sys2Proof.Machine.execParkWake t s
  | .pgTimeout => Sys2Proof.Machine.execPgTimeout s
  | .padRelease t src => Sys2Proof.Machine.execPadRelease t src s
  | .wakeTimerWrite t src v => Sys2Proof.Machine.execWakeTimerWrite t src v s
  | .wakeTimerExpiry => Sys2Proof.Machine.execWakeTimerExpiry s
  | .regulatorRequest t ack => Sys2Proof.Machine.execRegulatorRequest t ack s
  | .regulatorCheck status pg => Sys2Proof.Machine.execRegulatorCheck status pg s
  | .regulatorRetry ack => Sys2Proof.Machine.execRegulatorRetry ack s
  | .regulatorTimeout => Sys2Proof.Machine.execRegulatorTimeout s
  | .pgFall t => Sys2Proof.Machine.execPgFall t s
  | .powerOnReset t vbat => Sys2Proof.Machine.execPowerOnReset t vbat s
  | .railLoss t => Sys2Proof.Machine.execRailLoss t s
  | .deviceResetRelease => Sys2Proof.Machine.execDeviceResetRelease s
  | .warmUp factory bad voutMode => Sys2Proof.Machine.execWarmUp factory bad voutMode s
  | .firmwareVerify t eccA eccB => Sys2Proof.Machine.execFirmwareVerify t eccA eccB s
  | .warmUpComplete t => Sys2Proof.Machine.execWarmUpComplete t s
  | .nvProgram t src => Sys2Proof.Machine.execNvProgram t src s
  | .nvProgramComplete t ok => Sys2Proof.Machine.execNvProgramComplete t ok s
  | .svCommit t src => Sys2Proof.Machine.execSvCommit t src s
  | .lifecycleChange t src key => Sys2Proof.Machine.execLifecycleChange t src key s
  | .vbatConversion t a b => Sys2Proof.Machine.execVbatConversion t a b s
  | .freezeRecovery => Sys2Proof.Machine.execFreezeRecovery s
  | .powerDieLockout t d => Sys2Proof.Machine.execPowerDieLockout t d s
  | .powerDieRestart t d => Sys2Proof.Machine.execPowerDieRestart t d s
  | .railConversion t vcore vser vio keep tcd tbp => Sys2Proof.Machine.execRailConversion t vcore vser vio keep tcd tbp s
  | .vbatMinmaxClear t src => Sys2Proof.Machine.execVbatMinmaxClear t src s
  | .extest t levels shift => Sys2Proof.Machine.execExtest t levels shift s
  | .samplePreload t levels shift => Sys2Proof.Machine.execSamplePreload t levels shift s
  | .idcode t => Sys2Proof.Machine.execIdcode t s
  | .bypass t => Sys2Proof.Machine.execBypass t s
  | .testLogicReset t trst => Sys2Proof.Machine.execTestLogicReset t trst s
  | .debugReadWord t a inc => Sys2Proof.Machine.execDebugReadWord t a inc s
  | .debugWriteWord t a v inc => Sys2Proof.Machine.execDebugWriteWord t a v inc s
  | .dstat t => Sys2Proof.Machine.execDstat t s
  | .attach t on => Sys2Proof.Machine.execAttach t on s
  | .halt t att => Sys2Proof.Machine.execHalt t att s
  | .resume t att => Sys2Proof.Machine.execResume t att s
  | .step t att => Sys2Proof.Machine.execStep t att s
  | .debugReset t att => Sys2Proof.Machine.execDebugReset t att s
  | .marshalReleasePoint ix => Sys2Proof.Machine.execMarshalReleasePoint ix s
  | .limitingEpisodeEnd t u => Sys2Proof.Machine.execLimitingEpisodeEnd t u s
  | .bridgePwmPeriod t n => Sys2Proof.Machine.execBridgePwmPeriod t n s
  | .posunc t n => Sys2Proof.Machine.execPosunc t n s
  | .parkBrakeEnd n => Sys2Proof.Machine.execParkBrakeEnd n s
  | .lpxoRetry => Sys2Proof.Machine.execLpxoRetry s
  | .clockGating t p => Sys2Proof.Machine.execClockGating t p s
  | .pgRise t => Sys2Proof.Machine.execPgRise t s
  | .vbatLoss t => Sys2Proof.Machine.execVbatLoss t s
  | .undefinedOpcode t op e => Sys2Proof.Machine.execUndefinedOpcode t op e s

end Sys2Proof.Machine
end

