-- ==== Sys2Proof/Safety.lean ====
section
/-! DEFINITION. What counts as a sound state and a safe step. -/
namespace Sys2Proof.Machine

/-- The keys of a table rise strictly, so that each key is listed once. -/
def risingB {α : Type} : Sparse α → Bool
  | [] => true
  | [_] => true
  | a :: b :: r => decide (a.1 < b.1) && risingB (b :: r)

/-- A sound state: memory stands in its canonical form, and every register word is listed at most once. -/
def State.Sound (s : State) : Prop := Memory.wf s.mem ∧ risingB s.regs = true

/-- A command answers a next state, and what holds of it. -/
abbrev Completes (i : Instr) (s : State) (q : State → Prop) : Prop := ∃ u, exec i s = .next u ∧ q u

/-- The register word has a writable field, and no cause of R54 refuses the write of `v` under mask `m` by a source at `t`. -/
def State.Accepts (s : State) (src : Src) (p off : Nat) (v m : Word) (t : Nat) : Prop :=
  writable p off ≠ 0 ∧ (s.reach t).refusal ((s.reach t).wrOf src p off v m t) = none

/-- Whether a write meets a cause of refusal, whatever other causes it meets (R55, R64). -/
def State.meets (s : State) (w : Wr) : Cause → Bool
  | .badop => decide (w.off % 4 ≠ 0) || decide (0xFFC < w.off)
  | .nopage => !pagePresent w.p
  | .priv => s.lacksPriv w.src w.p w.off
  | .inreset => decide (s.boot.phase = .held)
  | .owned => s.breachesOwner w.src w.p w.off
  | .locked => s.meetsLock w
  | .resv => s.meetsResv w
  | .persist => s.meetsPersist w

/-- The place of a cause in the order of R55. -/
def Cause.rank : Cause → Nat
  | .badop => 0 | .nopage => 1 | .priv => 2 | .inreset => 3 | .owned => 4 | .locked => 5 | .resv => 6 | .persist => 7

/-- The bits of a register word that are of one access type and of no other. -/
def bitsOfKind (p off : Nat) (y : RegTy) : Word :=
  typeMask p off (fun x => decide (x = y)) &&& ~~~typeMask p off (fun x => decide (x ≠ y)) &&& heldBits p off

/-- Registers of pages whose accepted writes have no effect beside the stored word: those of AGE, MSH, ACC, LF, the power
pages but the inputs, and the timers, outside the header words with a rule of their own and the fault words. -/
def plainReg (p off : Nat) : Bool :=
  (p = 0x08 || p = 0x0C || (decide (0x0E ≤ p) && decide (p ≤ 0x2B) && p != 0x24 && p != 0x25))
    && !(decide (0x28 ≤ p) && decide (p ≤ 0x2B) && decide (0x140 ≤ off))
    && off != 8 && off != 0x1C && off != 0x10 && off != 0x28 && !(p = 0x20 && off = 0x38) && (fltUnit p off).isNone

/-- What no step takes back: time, free values used, the Field lifecycle state (R644), the security version (R643). -/
structure Lasting (s s' : State) : Prop where
  now : s.now ≤ s'.now
  fresh : s.fresh ≤ s'.fresh
  field : s.boot.field = true → s'.boot.field = true
  svmin : s.boot.svmin ≤ s'.boot.svmin

end Sys2Proof.Machine
end

