-- ==== Sys2Proof/Terms.lean ====
section
/-! DEFINITION. The terms of the statements that the model itself does not need. -/
namespace Sys2Proof.Machine

/-- A page without power units, controllers, ports or engines of its own: its stop is complete at once. -/
def quietPage (p : Nat) : Bool := p = 0x0A || p = 0x0C || p = 0x17 || p = 0x1C || p = 0x22 || p = 0x2C || p = 0x38

/-! The Pacer: an instruction whose operands are processed without a trap, and what it then leaves. -/

/-- How an instruction takes its operands (R158, R159, R163): `a` and `b` from two or three operands, `a` and a destination,
two sources, or one operand. -/
inductive Shape | binary | unary | compare | single
  deriving DecidableEq, Repr

/-- An instruction whose operands are processed: its context and decoding, the run that follows them, its operands `a` and
`b`, its destination, the address of the next instruction, and whether the Pacer halts at its end. -/
structure Ready where
  str : Bool
  d : Decoded
  run : Run
  npc : Nat
  a : Nat
  b : Nat
  dst : Got
  deriving DecidableEq, Repr

/-- The instruction at the front of its context: nothing stands before it, it decodes, it is fetched, and its operands are
processed without a trap or a mismatch of the cores (R125, R140, R143, R157 to R160). -/
def State.ready (s : State) (t op : Nat) (e : PacIns) (shape : Shape) : Option Ready :=
  let s := s.reach t
  match s.runs t, (decodePac op e).2 with
  | some str, .ok d =>
    let n := (decodePac op e).1
    let c := s.ctx str
    let npc := (c.pc + 2 * n) % 2 ^ 32
    let r : Run := { st := s, str := str, t := t, pc := c.pc, npc := npc, acc := 0, bad := e.badAccess, mis := none, log := [],
                     trap := none, post := none, gone := false, halt := false }
    let g := r.operands d.opds
    let three := decide (d.form = 1)
    if s.pac.safePend = false ∧ (s.pac.passPc = some c.pc ∨ s.fetchHit str c.pc = none) ∧ fetchFault c.pc n e.badFetch = none
        ∧ e.mismatch = none ∧ g.2.quit = false then
      some { str := str, d := d, run := g.2, npc := npc,
             a := (nth g.1 (if shape = .binary ∧ three = false then 1 else 0)).val,
             b := (nth g.1 (if shape = .compare ∨ (shape = .binary ∧ three = true) then 1 else 0)).val,
             dst := nth g.1 (if shape = .binary ∧ three = true then 2 else if shape = .single then 0 else 1) }
    else none
  | _, _ => none

/-- The width of the instruction's data in bits. -/
def Ready.w (r : Ready) : Nat := 8 * 2 ^ r.d.sz
/-- Flag `i` of FL as the instruction finds it. -/
def Ready.flag (r : Ready) (i : Nat) : Bool := bitAt r.run.ctx.fl i
/-- Whether FL is the destination. -/
def Ready.toFl (r : Ready) : Bool := decide (r.dst.opd.mode = 0xC ∧ r.dst.opd.nib = 4)

/-- A result and its flags: N and Z follow the result, C and V as given or left, DZ set. -/
structure Effect where
  val : Nat
  c : Option Bool := none
  v : Option Bool := none
  dz : Bool := false
  deriving DecidableEq, Repr

/-- The result can be written, and no OVF or DIVZ follows it (R143, R171 to R173). -/
def Ready.Fits (r : Ready) (x : Effect) : Prop :=
  (r.run.put r.dst x.val).quit = false
    ∧ (r.toFl = true ∨ ((x.v = some true → r.flag 9 = false) ∧ (x.dz = true → r.flag 8 = false)))

/-- FL after a result of width `w`: N, Z, C, V, DZ, and every other bit as it was (R163, R171). -/
def flagsAre (w fl fl' : Nat) (x : Effect) : Prop :=
  bitAt fl' 0 = bitAt x.val (w - 1) ∧ bitAt fl' 1 = decide (x.val = 0) ∧ bitAt fl' 2 = x.c.getD (bitAt fl 2)
    ∧ bitAt fl' 3 = x.v.getD (bitAt fl 3) ∧ bitAt fl' 4 = (x.dz || bitAt fl 4) ∧ fl' / 32 = fl / 32

/-- The destination holds the result, the context goes on at the next instruction, and FL shows the flags unless it is the
destination itself (R140, R162, R172). -/
def Ready.Did (r : Ready) (x : Effect) (u : State) : Prop :=
  let p := r.run.put r.dst x.val
  u.mem = p.st.mem ∧ u.queues = p.st.queues ∧ u.shadow = p.st.shadow
    ∧ u.ctx r.str = { p.ctx with pc := r.npc, fl := (u.ctx r.str).fl }
    ∧ (if r.toFl = true then (u.ctx r.str).fl = x.val else flagsAre r.w r.run.ctx.fl (u.ctx r.str).fl x)

/-- The three words that a trap of the run's context pushes lie outside the register pages, so that the entry writes no register. -/
def stackOk (r : Run) : Bool := ([4, 8, 12] : List Nat).all (fun k => !isPage ((r.ctx.sp + 2 ^ 32 - k) % 2 ^ 32))

/-- The result can be written, and FL, which is not the destination, has trap bit `i` set (R143, R171, R173). -/
def Ready.Arms (r : Ready) (x : Effect) (i : Nat) : Prop :=
  (r.run.put r.dst x.val).quit = false ∧ r.toFl = false ∧ r.flag i = true ∧ stackOk (r.run.put r.dst x.val) = true

/-- The result is written, and the context takes a trap of vector `vec` behind it, saving the next address (R143, R144). -/
def Ready.Trapped (r : Ready) (vec : Nat) (u : State) : Prop :=
  u.get PAC.VEC = vec ∧ u.get PAC.CTX = b2n r.str ∧ u.get PAC.LASTPC = r.npc

/-- The context whose next instruction is at the front at `t`, with nothing before it: no SAFE trap pending, no comparator at
its first `words` half-words (R143, R652). -/
def State.front (s : State) (t words : Nat) : Option Bool :=
  let s := s.reach t
  match s.runs t with
  | some str =>
    let pc := (s.ctx str).pc
    if s.pac.safePend = false ∧ (s.pac.passPc = some pc ∨ (List.range words).all (fun i => (s.fetchHit str (pc + 2 * i)).isNone) = true)
    then some str else none
  | none => none

/-- A run's writes stand and its context goes on at `pc`. -/
def Run.Went (r : Run) (pc : Nat) (u : State) : Prop := u.mem = r.st.mem ∧ u.ctx r.str = { r.ctx with pc := pc }

/-- A context meets a trap of vector `vec` at its instruction at `pc`, which is the address saved (R143, R144). -/
def TrappedAt (str : Bool) (vec pc : Nat) (u : State) : Prop := u.get PAC.VEC = vec ∧ u.get PAC.CTX = b2n str ∧ u.get PAC.LASTPC = pc

end Sys2Proof.Machine
end

