-- ==== Sys2Proof/Certificates/Slice0/Obligations.lean ====
section
/-! DEFINITION. The statements about the block, by family. In each statement `u` is the state that a command answers. -/
open Sys2Proof Sys2Proof.Machine

/-- A step of a state with a command at the front of its queue is that command on the state with the queue's rest; on an
empty queue the block idles (log entry 7, the model's choice). -/
def Obligations.StepRunsTheFrontCommand : Prop :=
  (∀ (c : Instr) (q : List Instr) (s : State), step { s with pending := c :: q } = exec c { s with pending := q })
    ∧ ∀ s : State, s.pending = [] → step s = .next s

/-- Every command answers a next state, and the queue of commands that wait stays as the command found it. -/
def Obligations.CommandsLeaveTheQueue : Prop :=
  ∀ (c : Instr) (s : State), Completes c s (fun u => u.pending = s.pending)

/-- The state after reset is sound: its memory has the canonical form, and no register word is listed twice. -/
def Obligations.ResetIsSound : Prop := State.reset.Sound

/-- Every step keeps the state sound, from every sound state and not only along runs from reset. -/
def Obligations.EveryStepKeepsSound : Prop := ∀ s u : State, s.Sound → step s = .next u → u.Sound

/-- Whatever command a step takes, time does not go back, a part in the Field lifecycle state stays in it, and the security
version never falls: no reset and no loss of power undoes them. -/
def Obligations.NoStepTakesBack : Prop := ∀ s u : State, step s = .next u → Lasting s u

/-- A refused write leaves every register word but the page's `REJ`, which records it, and every other part of the state. -/
def Obligations.RefusedWriteUpdatesOnlyRej : Prop :=
  ∀ (t : Nat) (src : Src) (p off : Nat) (v m : Word) (s : State) (c : Cause),
    (off % 4 = 0 → off ≤ 0xFFC → pagePresent p = true → writable p off ≠ 0) →
    (s.reach t).refusal ((s.reach t).wrOf src p off v m t) = some c →
    Completes (.registerWrite t src p off v m) s (fun u =>
      u = { s with now := max s.now t, regs := u.regs }
      ∧ (∀ q o, regKey q o ≠ regKey p 0x18 → u.rd q o = s.rd q o)
      ∧ (c = .badop ∨ c = .nopage → u.regs = s.regs)
      ∧ (c ≠ .badop → c ≠ .nopage →
          u.get (Hdr.REJ_OFF p) = off ∧ u.get (Hdr.REJ_CAUSE p) = c.code ∧ u.get (Hdr.REJ_SRC p) = srcRej src
          ∧ u.get (Hdr.REJ_COUNT p) = min (s.get (Hdr.REJ_COUNT p) + 1) 255))

/-- A write is refused with the first cause it meets in the order of R55, and with none where it meets none. -/
def Obligations.FirstCauseRefuses : Prop :=
  ∀ (s : State) (w : Wr),
    (∀ c, s.refusal w = some c ↔ s.meets w c = true ∧ ∀ d : Cause, d.rank < c.rank → s.meets w d = false)
    ∧ (s.refusal w = none ↔ ∀ c, s.meets w c = false)

/-- An accepted write of a plain register (R46, R50): each bit by its access type, and everything else as before. -/
def Obligations.PlainWriteSetsNamedBits : Prop :=
  ∀ (t : Nat) (src : Src) (p off : Nat) (v m : Word) (s : State),
    plainReg p off = true → s.Accepts src p off v m t →
    Completes (.registerWrite t src p off v m) s (fun u =>
      (∀ y, y = .rw ∨ y = .rwl →
        u.rd p off &&& bitsOfKind p off y = ((s.rd p off &&& ~~~m) ||| (v &&& m)) &&& bitsOfKind p off y)
      ∧ u.rd p off &&& bitsOfKind p off .w1c = s.rd p off &&& ~~~(v &&& m) &&& bitsOfKind p off .w1c
      ∧ u.rd p off &&& bitsOfKind p off .ro = s.rd p off &&& bitsOfKind p off .ro
      ∧ u.rd p off &&& bitsOfKind p off .rws = s.rd p off &&& bitsOfKind p off .rws
      ∧ look (u.rd p off) u.shadow (regKey p off) &&& bitsOfKind p off .rws
        = ((look (s.rd p off) s.shadow (regKey p off) &&& ~~~m) ||| (v &&& m)) &&& bitsOfKind p off .rws
      ∧ (∀ q o, regKey q o ≠ regKey p off → u.rd q o = s.rd q o)
      ∧ (∀ d k, k ≠ regKey p off → look d u.shadow k = look d s.shadow k)
      ∧ u = { s with now := max s.now t, regs := u.regs, shadow := u.shadow })

/-- Accepted commands to PAC, STG, CLK, PWR and SUP (R126, R406, R596, R623, R626, R681). -/
def Obligations.DeviceWritesTakeEffect : Prop :=
  ∀ (s : State) (src : Src) (t : Nat),
    (∀ v m, s.Accepts src 0x0B 0x140 (v ||| 1) (m ||| 1) t → Completes (.lockstepInject t src v m) s (fun u =>
      u.get PAC.TDONE = 1 ∧ u.get PAC.INJ = 0 ∧ bitAt (u.get (Hdr.EVT 0x0B)) 1 = true ∧ u.fcr.inbox = s.fcr.inbox ++ [(0x1C, 0)]))
    ∧ (∀ us, s.Accepts src 0x2C 0x140 (BitVec.ofNat 32 (us % 16 + 16)) 0xFFFFFFFF t → Completes (.tstagGo t src us) s (fun u =>
      u.stg = { s.stg with tstag := some (us % 16) }))
    ∧ (s.Accepts src 0x03 0x118 1 0xFFFFFFFF t → Completes (.vbatMinmaxClear t src) s (fun u =>
      u.get SUP.VBATMIN = 0x7FFF ∧ u.get SUP.VBATMAX = 0x8000))
    ∧ (s.Accepts src 0x02 0x14C 1 0xFFFFFFFF t → Completes (.padRelease t src) s (fun u => u.get PWR.LATCHED = 0))
    ∧ (∀ v, s.Accepts src 0x02 0x148 v 0xFFFFFFFF t → Completes (.wakeTimerWrite t src v) s (fun u =>
      u.due .wake = if v = 0 then none else some (t + v.toNat * 1953125 / 2)))
    ∧ (∀ rclk v m, s.Accepts src 0x01 0x104 ((v &&& 0xFFFFFFFE) ||| BitVec.ofNat 32 (b2n rclk)) (m ||| 1) t →
      Completes (.referenceSelect t src rclk v m) s (fun u =>
        let root := s.get CLK.ROOTSRC
        u.get CLK.REFSEL = b2n rclk
        ∧ (s.get CLK.REFSEL ≠ b2n rclk → root ≠ 0 →
            (rclk = true → u.get CLK.ROOTSRC = 2 ∧ (root ≠ 2 → u.get CLK.SLEWING = 1))
            ∧ (rclk = false → s.get CLK.XOK = 1 → u.get CLK.ROOTSRC = 1 ∧ (root ≠ 1 → u.get CLK.SLEWING = 1)))))

/-- Accepted commands to NVC and BOOT (R636, R639, R644, R645). -/
def Obligations.ImageWritesTakeEffect : Prop :=
  ∀ (s : State) (src : Src) (t : Nat),
    (s.Accepts src 0x05 0x108 1 0xFFFFFFFF t → Completes (.nvProgram t src) s (fun u =>
      u.boot = { s.boot with nv := some (s.get NVC.DST, s.bytes (s.get NVC.SRC) 4096) } ∧ u.get NVC.BUSY = 1))
    ∧ (s.Accepts src 0x04 0x11C 1 0xFFFFFFFF t → Completes (.svCommit t src) s (fun u =>
      u.boot = { s.boot with svmin := max s.boot.svmin (s.get BOOT.SV) }))
    ∧ (∀ k, s.Accepts src 0x04 0x120 (BitVec.ofNat 32 (k % 65536)) 0xFFFFFFFF t → Completes (.lifecycleChange t src k) s (fun u =>
      u.boot.field = true
      ∧ (s.nvBusy = false → u.get BOOT.CAUSE = 10 ∧ u.boot.phase = .held ∧ u.due .resetHold = some (t + 2000) ∧ u.pac = pacReset)
      ∧ (s.nvBusy = true → u.boot = { s.boot with field := true, want := some (s.boot.want.getD (10, 0)) } ∧ u.pac = s.pac)))

/-- CTRL writes (R45, R57, R58, R71, R131). -/
def Obligations.ControlWritesTakeEffect : Prop :=
  ∀ (t : Nat) (src : Src) (p : Nat) (v m : Word) (s : State),
    (m &&& 3 = 0 → s.Accepts src p 8 (v ||| 8) (m ||| 8) t → Completes (.rejClear t src p v m) s (fun u =>
      u.rd p 0x18 = 0 ∧ ∀ q o, regKey q o ≠ regKey p 0x18 → regKey q o ≠ regKey p 8 → u.rd q o = s.rd q o))
    ∧ ((v &&& m).getLsbD 1 = false → s.Accepts src p 8 ((v &&& 0xFFFFFFFE) ||| 1) (m ||| 1) t →
      Completes (.pageEnable t src p true v m) s (fun u =>
        (s.get (Hdr.EN p) = 0 → s.get (Hdr.STOPPING p) = 1 → u.get (Hdr.PENDEN p) = 1 ∧ u.get (Hdr.EN p) = 0)
        ∧ (s.get (Hdr.EN p) = 0 → s.get (Hdr.STOPPING p) = 0 → p ≠ 0x39 → u.get (Hdr.EN p) = 1)
        ∧ (s.get (Hdr.EN p) = 1 → u.get (Hdr.EN p) = 1)))
    ∧ ((v &&& m).getLsbD 1 = false → s.Accepts src p 8 (v &&& 0xFFFFFFFE) (m ||| 1) t →
      Completes (.pageEnable t src p false v m) s (fun u =>
        (s.get (Hdr.EN p) = 0 → u.get (Hdr.PENDEN p) = 0 ∧ u.get (Hdr.EN p) = 0)
        ∧ (quietPage p = true → u.get (Hdr.EN p) = 0 ∧ u.get (Hdr.PENDEN p) = 0 ∧ u.get (Hdr.STOPPING p) = s.get (Hdr.STOPPING p))))
    ∧ ((v &&& m).getLsbD 1 = false → s.Accepts src 0x0B 8 (v ||| 1) (m ||| 1) t → Completes (.pacEnable t src v m) s (fun u =>
      s.get (Hdr.STOPPING 0x0B) = 0 → u.get (Hdr.EN 0x0B) = 1))
    ∧ (quietPage p = true → s.Accepts src p 8 (v ||| 2) (m ||| 2) t → Completes (.pageSoftReset t src p v m) s (fun u =>
      ∀ o < 4096, (∀ e ∈ s.img, e.1 ≠ regKey p o) → u.rd p o = resetWord p o))
    ∧ (∀ pac : Bool, s.nvBusy = false → s.Accepts src (if pac then 0x0B else 0x09) 8 (v ||| 2) (m ||| 2) t →
      Completes (.softReset t src pac v m) s (fun u =>
        u.get BOOT.CAUSE = causeSoft ∧ u.boot.phase = .held ∧ u.due .resetHold = some (t + us 2)))

/-- The page lock (R53): LOCK.KEY words, the expiry, and what the lock guards. -/
def Obligations.PageLockFollowsItsKeys : Prop :=
  (∀ (t : Nat) (src : Src) (p k : Nat) (s : State), k < 65536 → s.Accepts src p 0x1C (BitVec.ofNat 32 k) 0xFFFFFFFF t →
    Completes (.lockKeyWrite t src p k) s (fun u =>
      let first := s.lockFirst.find? (fun e => decide (e.1 = p))
      let lock := fun (x : State) => (x.get (Hdr.LOCK_OPEN p), x.get (Hdr.LOCK_HOLDER p), x.due (.lock p))
      (∀ q o, regKey q o ≠ regKey p 0x1C → u.rd q o = s.rd q o)
      ∧ u = { s with now := max s.now t, regs := u.regs, timers := u.timers, lockFirst := u.lockFirst }
      ∧ (s.lockOpen p t = true → s.get (Hdr.LOCK_HOLDER p) ≠ srcRej src → lock u = lock s ∧ u.lockFirst = s.lockFirst)
      ∧ (¬ (s.lockOpen p t = true ∧ s.get (Hdr.LOCK_HOLDER p) ≠ srcRej src) →
          (k = 0x5AFE → lock u = lock s ∧ u.lockFirst.find? (fun e => decide (e.1 = p)) = some (p, src, t))
          ∧ (k ≠ 0x5AFE → u.lockFirst.find? (fun e => decide (e.1 = p)) = none)
          ∧ (∀ src0 t0, k = 0xA501 → first = some (p, src0, t0) → srcRej src0 = srcRej src → t < t0 + 640 →
              lock u = (1, srcRej src, some (t + 1000000)))
          ∧ (∀ src0 t0, k = 0xA501 → first = some (p, src0, t0) → srcRej src0 ≠ srcRej src ∨ t0 + 640 ≤ t → lock u = lock s)
          ∧ (k = 0xA501 → first = none → lock u = lock s)
          ∧ (k = 0 → s.lockOpen p t = true → lock u = (0, 0, none))
          ∧ (k ≠ 0 → k ≠ 0xA501 → k ≠ 0x5AFE → lock u = lock s))))
  ∧ (∀ (p d : Nat) (s : State), s.due (.lock p) = some d → Completes (.lockExpiry p) s (fun u =>
      u.get (Hdr.LOCK_OPEN p) = 0 ∧ u.get (Hdr.LOCK_HOLDER p) = 0 ∧ u.due (.lock p) = none ∧ u.now = max s.now d
        ∧ ∀ q o, regKey q o ≠ regKey p 0x1C → u.rd q o = s.rd q o))
  ∧ (∀ (s : State) (w : Wr), s.meetsLock w = true → ∃ c : Cause, s.refusal w = some c ∧ c.rank ≤ Cause.locked.rank)

/-- What a push carries (R110, R112, R113): the split of its instant, the source code, TL, the latched payload. -/
def Obligations.PushesEnterTheirQueue : Prop :=
  let entry := fun (s : State) (src : Src) (tl t : Nat) =>
    let l := s.latch src
    let pay := if tl / 2 ^ 14 = 0 then (l.p0 + 2 ^ 32 * l.p1) % 2 ^ (8 * (tl % 16))
      else if tl / 2 ^ 14 = 1 then l.p0 else l.p0 + 2 ^ 32 * l.p1
    ({ split := s.splitAt t, src := srcCode src, tl := tl, p0 := pay % 2 ^ 32, p1 := pay / 2 ^ 32, arr := t } : BqEntry)
  let faults := fun (s : State) (src : Src) (tl k : Nat) => (if tlOk tl then 0 else 4)
    + (if tl / 2 ^ 14 = 1 ∧ ¬ s.refOk (s.latch src).p0 then 8 else 0) + (if s.get (BQ.DEPTH k) = 0 then 16 else 0)
  let shows := fun (u s : State) (src : Src) (tl k st : Nat) =>
    u.latch src = { s.latch src with go := tl + 65536 * k, st := st } ∧ ∀ j, j ≠ k → u.queue j = s.queue j
  (∀ (t : Nat) (src : Src) (tl k : Nat) (s : State), tl < 65536 → k < 32 →
    s.Accepts src 0x0A 0x808 (BitVec.ofNat 32 (tl + 65536 * k)) 0xFFFFFFFF t →
      (faults s src tl k = 0 → src ≠ .stride → s.qFull k = false →
        Completes (.batonPush t src tl k) s (fun u => shows u s src tl k 1
          ∧ u.queue k = { s.queue k with entries := (s.queue k).entries ++ [entry s src tl t] } ∧ u.stride.staged = s.stride.staged))
      ∧ (faults s src tl k = 0 → src = .stride →
          Completes (.batonPush t src tl k) s (fun u => shows u s src tl k 32 ∧ u.queue k = s.queue k
            ∧ u.stride.staged = s.stride.staged ++ [(k, entry s src tl t)]))
      ∧ (faults s src tl k = 0 → src ≠ .stride → s.qFull k = true →
          Completes (.batonPush t src tl k) s (fun u => shows u s src tl k (if s.flag (BQ.FULLPOL k) then 3 else 2)
            ∧ (u.queue k).entries = (if s.flag (BQ.FULLPOL k) then (s.queue k).entries.drop 1 ++ [entry s src tl t] else (s.queue k).entries)
            ∧ (u.queue k).ovf = true
            ∧ u.get (BQ.OVFCNT k) = min (s.get (BQ.OVFCNT k) + 1) 0xFFFFFFFF ∧ u.get (BQ.OVF k) = 1
            ∧ u.stride.staged = s.stride.staged))
      ∧ (faults s src tl k ≠ 0 →
          Completes (.batonPush t src tl k) s (fun u => shows u s src tl k (faults s src tl k) ∧ u.queue k = s.queue k
            ∧ u.stride.staged = s.stride.staged)))
  ∧ (∀ (t : Nat) (src : Src) (k : Nat) (s : State), k < 32 → s.Accepts src 0x0A (0x10C + 0x20 * k) 1 0xFFFFFFFF t →
      Completes (.queueAdvance t src k) s (fun u =>
        u.queue k = { s.queue k with entries := if (s.queue k).shown.isSome then (s.queue k).entries else (s.queue k).entries.drop 1, shown := none }
        ∧ ∀ j, j ≠ k → u.queue j = s.queue j))
  ∧ (∀ (t : Nat) (src : Src) (k : Nat) (s : State), k < 32 → s.Accepts src 0x0A (0x10C + 0x20 * k) 2 0xFFFFFFFF t →
      Completes (.queueFlush t src k) s (fun u =>
        u.queue k = { s.queue k with entries := [], shown := none } ∧ ∀ j, j ≠ k → u.queue j = s.queue j))

/-- The Stride engine from one stride to the next (R73, R78, R92, R106, R107). -/
def Obligations.StrideEngineAdvances : Prop :=
  ∀ (s : State),
    (s.stride.running = true → s.stride.suspended = none → s.get STR.RPLCTRL_EN = 0 → s.pwr.dozeNext = false →
      Completes .tick s (fun u =>
        u.stride.tick = s.stride.nextTick ∧ u.stride.base = s.stride.nextTick ∧ u.stride.started = false
        ∧ u.stride.fin = false ∧ u.stride.ovr = false ∧ u.stride.staged = [] ∧ u.shadow = []
        ∧ u.stride.running = decide (s.pwr.state ≠ .cooldown) ∧ u.stride.cut = decide (s.pwr.state = .cooldown)))
    ∧ (s.stride.running = true → s.stride.suspended = none → s.stride.cut = false → s.stride.tick ≠ 0 →
      Completes .cutOff s (fun u =>
        u.stride.cut = true ∧ u.stride.prevTick = s.stride.tick ∧ u.stride.prep = [] ∧ u.stride.snapPrev = s.stride.snap
        ∧ u.stride.carry = []
        ∧ u.pac.cutAt = s.splitZero + 4 * (s.stride.base + s.stride.markAct)
        ∧ (s.get (Hdr.EN 0x0B) = 1 → s.pwr.state ≠ .cooldown → u.stride.started = true ∧ u.pac.str.stopped = false
            ∧ u.pac.str.pc = 2 * u.get PAC.STRENTRY ∧ u.pac.str.sp = 4 * u.get PAC.STRSP ∧ u.pac.str.pg = 4096 * u.get PAC.STRPG)))
    ∧ (s.stride.started = true → s.stride.suspended = none → Completes .overrun s (fun u =>
        u.stride = { s.stride with started := false, ovr := true, staged := [], carry := if s.flag STR.RPLCTRL_EN then [] else s.stride.captured, captured := [] }
        ∧ u.shadow = s.shadow.filter (fun e => !s.strideReg (e.1 / 0x1000) (e.1 % 0x1000))))
    ∧ (∀ (t : Nat) (src : Src) (v m : Word), s.get STR.RPLCTRL_EN = 0 → (v &&& m).getLsbD 2 = false →
        s.Accepts src 0x09 0x160 (v ||| 1) (m ||| 1) t → Completes (.replayEnter t src v m) s (fun u =>
          u.get STR.RPLCTRL_EN = 1 ∧ u.stride = { s.stride with running := false, cut := true, replaySrc := some src }))
    ∧ (∀ (t : Nat) (src : Src) (v m : Word), s.get STR.RPLCTRL_EN = 1 → s.stride.started = false →
        s.Accepts src 0x09 0x160 (v ||| 4) (m ||| 4) t → Completes (.replayStep t src v m) s (fun u =>
          u.stride.tick = s.splitAt t ∧ u.stride.base = s.splitAt t ∧ u.stride.cut = true ∧ u.stride.fin = false
          ∧ u.stride.staged = []))

/-- Firmware's writes to CAN controllers and keep-alive channels (R417, R419, R426, R429, R436, R449). -/
def Obligations.CanWritesTakeEffect : Prop :=
  ∀ (s : State) (src : Src) (t x f : Nat), x < 8 → f < 2 →
    (s.Accepts src (0x30 + x) 0x130 (BitVec.ofNat 32 (1 <<< f)) 0xFFFFFFFF t →
      let n := s.get (txFill x f)
      let el := s.bytes (txAddr x f (s.get (txPut x f))) 80
      (s.flag (txFed x f) = false → n < 32 → s.txBad x el = false → Completes (.canTxPut t src x f) s (fun u =>
          u.get (txFill x f) = n + 1 ∧ u.get (txPut x f) = (s.get (txPut x f) + 1) % 32 ∧ (u.can x).enq f = (s.can x).enq f ++ [t]))
      ∧ (s.flag (txFed x f) = true ∨ (n < 32 ∧ s.txBad x el = true) → Completes (.canTxPut t src x f) s (fun u =>
          u.get (txFill x f) = n ∧ u.get (txPut x f) = s.get (txPut x f)))
      ∧ (s.flag (txFed x f) = false → n = 32 → Completes (.canTxPut t src x f) s (fun u =>
          u.get (txFill x f) = 32 ∧ u.get (CAN.TXDROP x) = min (s.get (CAN.TXDROP x) + 1) 65535)))
    ∧ (s.Accepts src (0x30 + x) 0x128 (BitVec.ofNat 32 (1 <<< f)) 0xFFFFFFFF t → Completes (.canRxAck t src x f) s (fun u =>
      u.get (rxFill x f) = s.get (rxFill x f) - 1
      ∧ u.get (rxGet x f) = if s.get (rxFill x f) = 0 then s.get (rxGet x f) else (s.get (rxGet x f) + 1) % 64))
    ∧ (s.Accepts src (0x30 + x) 0x134 (BitVec.ofNat 32 (1 <<< f)) 0xFFFFFFFF t → Completes (.canTxFlush t src x f) s (fun u =>
      u.get (txFill x f) = (if s.txOnAir x f t then min (s.get (txFill x f)) 1 else 0)
      ∧ (u.can x).enq f = ((s.can x).enq f).take (if s.txOnAir x f t then min (s.get (txFill x f)) 1 else 0)))
    ∧ (s.Accepts src (0x30 + x) 0x134 0x100 0xFFFFFFFF t → Completes (.canManualRecover t src x) s (fun u =>
      u.get (CAN.STATE x) = if s.get (CAN.STATE x) = 4 then 5 else s.get (CAN.STATE x)))
    ∧ (∀ v m, s.Accepts src 0x38 0x100 v m t → Completes (.canAutoReturnEnable t src v m) s (fun u =>
      let a := bitsOf ((s.rd 0x38 0x100 &&& ~~~m) ||| (v &&& m)) 0 8
      let b := bitAt (v &&& m).toNat x && bitAt (s.get CANC.HALT) x
      u.get CANC.AREN = a
      ∧ bitAt (u.get CANC.HALT) x = (bitAt (s.get CANC.HALT) x && !b)
      ∧ (u.can x).history = (if b then [] else (s.can x).history)
      ∧ u.get (CAN.STATE x) = if b = true ∧ s.get (CAN.STATE x) = 4 then 5 else s.get (CAN.STATE x)))
    ∧ (∀ v m, s.Accepts src 0x39 (0x100 + 0x20 * x) ((v &&& 0xFFFFFFFE) ||| 1) (m ||| 1) t →
        s.get (Hdr.EN 0x39) = 1 → s.unitHeld 0x39 x = false → s.get (NMK.STATE x) = 0 →
        Completes (.nmEnable t src x true v m) s (fun u =>
          u.get (NMK.STATE x) = 1 ∧ u.due (.nmRepeat x) = some (t + ms (s.get (NMK.REPTIME x)))
          ∧ u.due (.nmKeep x) = some (t + ms (s.get (NMK.KAPER x)))))
    ∧ (∀ v m, s.Accepts src 0x39 (0x100 + 0x20 * x) (v &&& 0xFFFFFFFE) (m ||| 1) t → s.get (NMK.STATE x) ≠ 0 →
        Completes (.nmEnable t src x false v m) s (fun u =>
          u.get (NMK.STATE x) = 0 ∧ u.due (.nmRepeat x) = none ∧ u.due (.nmTimeout x) = none ∧ u.due (.nmWait x) = none
          ∧ u.due (.nmKeep x) = none))

/-- Commands to the switch that are register writes (R473, R477, R485, R506, R511). -/
def Obligations.SwitchWritesTakeEffect : Prop :=
  ∀ (s : State) (src : Src) (t : Nat),
    (∀ v, s.Accepts src 0x40 0x128 ((v &&& 0xFFFFFF3F) ||| 0x0) 0xFFFFFFFF t → Completes (.mdioWrite t src v) s (fun u =>
      u.get SWC.MDIODATA_BUSY = 1 ∧ u.get SWC.MDIOCMD_OP = 0))
    ∧ (∀ v, s.Accepts src 0x40 0x128 ((v &&& 0xFFFFFF3F) ||| 0x40) 0xFFFFFFFF t → Completes (.mdioRead t src v) s (fun u =>
      u.get SWC.MDIODATA_BUSY = 1 ∧ u.get SWC.MDIOCMD_OP = 1))
    ∧ (∀ v, s.Accepts src 0x40 0x128 ((v &&& 0xFFFFFF3F) ||| 0x80) 0xFFFFFFFF t → Completes (.mdioAddress t src v) s (fun u =>
      u.get SWC.MDIODATA_BUSY = 1 ∧ u.get SWC.MDIOCMD_OP = 2))
    ∧ (∀ i, i < 4096 → s.Accepts src 0x40 0x130 (BitVec.ofNat 32 (4 * i)) 0xFFFFFFFF t → Completes (.macRead t src i) s (fun u =>
      u.sw = s.sw
      ∧ (s.sw.macs.find? (fun e => decide (e.1 = i)) = none → u.get SWC.MACD1_VALID = 0)
      ∧ (∀ e, s.sw.macs.find? (fun e => decide (e.1 = i)) = some e →
          u.get SWC.MACD1_VALID = 1 ∧ u.get SWC.MAC0 = e.2.mac / 65536 % 2 ^ 32 ∧ u.get SWC.MAC1 = e.2.mac % 65536
          ∧ u.get SWC.FID = e.2.fid % 64 ∧ u.get SWC.STATIC = b2n e.2.fixed ∧ u.get SWC.MACD2_PORTS = e.2.ports % 128)))
    ∧ (∀ i, i < 4096 → s.Accepts src 0x40 0x130 (BitVec.ofNat 32 (1 + 4 * i)) 0xFFFFFFFF t → Completes (.macWrite t src i) s (fun u =>
      (s.get SWC.MACD1_VALID = 0 → u.sw.macs = del i s.sw.macs)
      ∧ (s.get SWC.MACD1_VALID = 1 → u.sw.macs = ins i { mac := s.get SWC.MAC0 * 65536 + s.get SWC.MAC1, fid := s.get SWC.FID, ports := s.get SWC.MACD2_PORTS, fixed := s.flag SWC.STATIC, seen := max s.now t }
            s.sw.macs)
      ∧ u.get SWC.ENTRIES = u.sw.macs.length % 8192))
    ∧ (∀ i, i < 4096 → s.Accepts src 0x40 0x130 (BitVec.ofNat 32 (2 + 4 * i)) 0xFFFFFFFF t → Completes (.macDelete t src i) s (fun u =>
      u.sw.macs = del i s.sw.macs ∧ u.get SWC.ENTRIES = u.sw.macs.length % 8192))
    ∧ (∀ i, i < 4096 → s.Accepts src 0x40 0x130 (BitVec.ofNat 32 (3 + 4 * i)) 0xFFFFFFFF t → Completes (.macFlushDynamic t src i) s (fun u =>
      (∀ e ∈ u.sw.macs, e ∈ s.sw.macs ∧ e.2.fixed = true)
      ∧ ∀ e ∈ s.sw.macs, e.2.fixed = true → (∀ d ∈ s.sw.macs, d.2.fixed = false → d.1 ≠ e.1) → e ∈ u.sw.macs))
    ∧ (∀ p v m, p < 6 → s.Accepts src 0x49 (0x100 + 0x40 * p) (v ||| 2) (m ||| 2) t → Completes (.tasCfgchg t src p v m) s (fun u =>
      (s.get (TAS.ADMLEN p) = 0 → u.get (TAS.CHGERR p) = 1 ∧ u.tas p = s.tas p)
      ∧ (s.get (TAS.ADMLEN p) ≠ 0 → u.get (TAS.CFGPEND p) = 1 ∧ (u.tas p).pend =
          some (tasStart (s.get (TAS.ADMBTL p) + 2 ^ 32 * s.get (TAS.ADMBTH p)) (s.get (TAS.ADMCYC p)) (s.gptp t)))))
    ∧ (∀ i, i < 256 → s.Accepts src 0x4A 0x100 (BitVec.ofNat 32 i) 0xFFFFFFFF t → Completes (.sflSelect t src i) s (fun u =>
      u.sw = s.sw ∧ u.rd 0x4A 0x110 = BitVec.ofNat 32 (s.stream i).w0 ∧ u.rd 0x4A 0x114 = BitVec.ofNat 32 (s.stream i).w1
      ∧ u.rd 0x4A 0x118 = BitVec.ofNat 32 (clrBit (s.stream i).w2 15) ∧ u.rd 0x4A 0x11C = BitVec.ofNat 32 (s.stream i).w3))
    ∧ (∀ i, i < 256 → s.Accepts src 0x4A 0x100 (BitVec.ofNat 32 (i + 256)) 0xFFFFFFFF t → Completes (.sflStore t src i) s (fun u =>
      u.stream i = { s.stream i with w0 := (s.rd 0x4A 0x110).toNat, w1 := (s.rd 0x4A 0x114).toNat, w3 := (s.rd 0x4A 0x11C).toNat, w2 := clrBit (s.rd 0x4A 0x118).toNat 15 + (if bitAt (s.stream i).w2 15 then 2 ^ 15 else 0) }
      ∧ ∀ j, j ≠ i → u.stream j = s.stream j))

/-- Ports of the switch: reception, forwarding, transmission, links, and the host's transmit rings. -/
def Obligations.PortsMoveFrames : Prop :=
  ∀ (s : State) (t p : Nat),
    (∀ octets fcsOk, p < 6 → s.portOn p = true → s.get (PT.UP p) = 1 →
      (fcsOk = false → Completes (.ethFrameReceived t p octets fcsOk) s (fun u =>
        u.get (PT.RXFRAMES p) = min (s.get (PT.RXFRAMES p) + 1) 0xFFFFFFFF ∧ u.get (PT.CRCERR p) = min (s.get (PT.CRCERR p) + 1) 65535
        ∧ u.sw.macs = s.sw.macs ∧ (s.get SWC.CTEN = 0 → ∀ q, (u.port q).queues = (s.port q).queues)))
      ∧ (fcsOk = true → octets.length + 4 < 64 ∨ (s.get SWC.MAXLEN < octets.length + 4 ∧ isGptp octets = false) → Completes (.ethFrameReceived t p octets fcsOk) s (fun u =>
        u.get (PT.RXFRAMES p) = min (s.get (PT.RXFRAMES p) + 1) 0xFFFFFFFF ∧ u.get (PT.RXDROP p) = min (s.get (PT.RXDROP p) + 1) 0xFFFFFFFF
        ∧ u.sw.macs = s.sw.macs ∧ ∀ q, (u.port q).queues = (s.port q).queues)))
    ∧ (∀ octets : List Byte, p < 6 → s.portOn p = true → s.get (PT.UP p) = 1 →
        64 ≤ octets.length + 4 → octets.length + 4 ≤ s.get SWC.MAXLEN →
        let vid := (parseFrame octets).2.1
        let f : EthFrame := { vid := vid, prio := (parseFrame octets).2.2.1, cls := wbits (s.get (PT.PCPMAP p)) (4 * (parseFrame octets).2.2.1) 3,
                              rtag := none, body := (parseFrame octets).2.2.2.2, ingress := p, last := t, untag := false, bad := false }
        (parseFrame octets).1 = true → vid ≠ 0 → (parseFrame octets).2.2.2.1 = none → s.get (PT.ACCEPT p) ≠ 2 →
        f.etype ≠ 0x88F7 → f.etype ≠ 0x88B5 → ∀ v, s.vlanOf vid = some v → bitAt (s.get (SWC.MEMBER v)) p = true →
        s.sflFind f.dst f.src vid = none → s.get (PT.BLOCKNF p) = 0 →
        (∀ x, s.macFind f.src v = some x → s.get SWC.LEARN = 1 → bitAt (f.src / 2 ^ 40) 0 = false → x.2.fixed = false →
          Completes (.ethFrameReceived t p octets true) s (fun u => u.sw.macs = ins x.1 { x.2 with ports := 1 <<< p, seen := t } s.sw.macs))
        ∧ (∀ x, s.macFind f.dst v = some x → ∀ q, s.get SWC.LEARN = 0 → f.dst ≠ s.hostMac → bitAt (f.dst / 2 ^ 40) 0 = false →
          q < 6 → q ≠ p → x.2.ports = 1 <<< q → bitAt (s.get (SWC.MEMBER v)) q = true → s.portOn q = true → s.get (PT.BLOCKNF q) = 0 →
          let g := { f with untag := bitAt (s.get (SWC.UNTAG v)) q }
          s.get (PT.FILL q f.cls) + g.cells ≤ s.get (PT.MAX q f.cls) →
          sharedUse (s.get (PT.RES q f.cls)) (s.get (PT.FILL q f.cls) + g.cells)
            ≤ sharedUse (s.get (PT.RES q f.cls)) (s.get (PT.FILL q f.cls)) + s.get SWC.FREE →
          Completes (.ethFrameReceived t p octets true) s (fun u =>
            (u.port q).queues = (s.port q).queues.set f.cls ((s.port q).queues.getD f.cls [] ++ [g])
            ∧ u.get (PT.FILL q f.cls) = s.get (PT.FILL q f.cls) + g.cells)))
    ∧ (p < 6 → s.get (PT.UP p) = 1 → s.portOn p = true →
        (∀ f, ((s.port p).queues.getD 7 []).head? = some f → (s.port p).cur = none → (s.port p).held = none → s.get (TAS.EN p) = 0 →
          Completes (.ethTransmitOpportunity t p) s (fun u =>
            (u.port p).cur = some { frame := f, ends := t + wireTime p f.len } ∧ (u.port p).queues.getD 7 [] = ((s.port p).queues.getD 7 []).tail))
        ∧ (∀ x, (s.port p).cur = some x → x.ends ≤ t → x.frame.cls < 8 →
          Completes (.ethTransmitOpportunity t p) s (fun u => u.get (PT.TXFRAMES p) = min (s.get (PT.TXFRAMES p) + 1) 0xFFFFFFFF)))
    ∧ (∀ up usable, p < 6 → Completes (.portLinkChange t p up usable) s (fun u =>
        u.get (PT.UP p) = b2n up ∧ (p = 0 → u.get TSY.RCLKOK = b2n (up && usable))
        ∧ (s.get (PT.UP p) = 1 → up = false → bitAt (u.get (Hdr.EVT (0x41 + p))) 1 = true)))
    ∧ (∀ r, 4 ≤ r → r < 8 → s.get (PH.EN r) = 1 → s.get (Hdr.EN 0x47) = 1 → s.get (Hdr.EN 0x40) = 1 → s.get (PH.SIZE r) ≠ 0 →
        let d := s.get (PH.BASE r) + 16 * s.get (PH.NEXT r)
        bitAt (s.le (d + 12) 1) 0 = true → Completes (.hostTxDescriptor t r) s (fun u =>
          bitAt (u.le (d + 12) 1) 0 = false ∧ u.get (PH.NEXT r) = (s.get (PH.NEXT r) + 1) % s.get (PH.SIZE r) % 1024
          ∧ bitAt (u.get (Hdr.EVT 0x47)) r = true))

/-- Ends and switches of the switch's engines. -/
def Obligations.SwitchEnginesAdvance : Prop :=
  ∀ (s : State) (t p : Nat), p < 6 →
    (∀ data turn, s.get SWC.MDIODATA_BUSY = 1 → Completes (.mdioComplete t data turn) s (fun u =>
        u.get SWC.MDIODATA_BUSY = 0 ∧ u.get SWC.ERR = b2n (decide (s.get SWC.MDIOCMD_OP = 1) && !turn)
        ∧ u.get SWC.DATA = if s.get SWC.MDIOCMD_OP = 1 ∧ turn = true then data % 65536 else s.get SWC.DATA))
    ∧ (∀ i, ∀ e, s.sw.macs.find? (fun (e : Nat × MacEnt) => decide (e.1 = i)) = some e → Completes (.macAgeExpiry t i) s (fun u =>
        u.sw.macs = if e.2.fixed = false ∧ e.2.seen + ms (10000 * s.get SWC.AGE) ≤ t then del i s.sw.macs else s.sw.macs))
    ∧ (∀ g, (s.tas p).pend = some g → g ≤ s.gptp t → Completes (.tasConfigChange t p) s (fun u =>
        u.get (TAS.CFGPEND p) = 0 ∧ u.get (TAS.OPERLEN p) = s.get (TAS.ADMLEN p) ∧ (u.tas p).pend = none
        ∧ (u.tas p).cycle = s.get (TAS.ADMCYC p) ∧ (u.tas p).pos = 0 ∧ (u.tas p).start = g
        ∧ (s.get (TAS.ADMLEN p) ≠ 0 → u.get (TAS.PSTAT_GATES p) = (s.gclEntry p 0).1 % 256)))
    ∧ (let r := s.tas p
       let spans := fillCycle r.oper r.cycle
       r.oper ≠ [] → spans.map (·.1) = r.oper.map (·.1) ∧ (spans.map (·.2)).sum = r.cycle
        ∧ (s.gptp t < r.due → Completes (.gateIntervalEnd t p) s (fun u => u = s.reach t))
        ∧ (∀ e, spans[r.pos + 1]? = some e → r.due ≤ s.gptp t → r.due < r.start + r.cycle → Completes (.gateIntervalEnd t p) s (fun u =>
          (u.tas p).pos = r.pos + 1 ∧ (u.tas p).start = r.start ∧ (u.tas p).due = r.due + e.2 ∧ u.get (TAS.PSTAT_GATES p) = e.1 % 256))
        ∧ (∀ e, spans[0]? = some e → r.due ≤ s.gptp t → r.start + r.cycle ≤ r.due → Completes (.gateIntervalEnd t p) s (fun u =>
          (u.tas p).pos = 0 ∧ (u.tas p).start = r.start + r.cycle ∧ (u.tas p).due = r.start + r.cycle + e.2
          ∧ u.get (TAS.PSTAT_GATES p) = e.1 % 256)))
    ∧ (∀ ok, p < 2 → s.get (PT.EN p) = 1 → s.get (PT.VERIFY p) = 1 → Completes (.preemptVerify t p ok) s (fun u =>
        u.get (PT.VERIFY p) = (if ok then 2 else 3) ∧ u.get (PT.ACTIVE p) = b2n ok
        ∧ u.fcr.inbox = s.fcr.inbox ++ (if ok then [] else [(0xCD, p)])))
    ∧ (∀ i d, s.due (.frerReset i) = some d → Completes (.frerResetTimeout i) s (fun u =>
        u.stream i = { s.stream i with takeAny := true, hist := [], resets := min ((s.stream i).resets + 1) 65535 }
        ∧ u.due (.frerReset i) = none))
    ∧ (∀ gm master rate, s.syncPort p = true → (s.sw.tsy.gm = none ∨ s.sw.tsy.gm = some gm) →
        let off : Int := Int.ofNat (s.gptp t) - Int.ofNat master
        Completes (.gptpSyncReceived t p gm master rate) s (fun u =>
          u.get TSY.SLAVE = p ∧ u.sw.tsy.base = master ∧ u.sw.tsy.at_ = t ∧ u.sw.tsy.rate = rate ∧ u.sw.tsy.gm = some gm
          ∧ u.get TSY.OFFSET = unsignedOf 32 off
          ∧ u.sw.tsy.good = (if off.natAbs ≤ s.get TSY.LOCKTH then min (s.sw.tsy.good + 1) 8 else 0)
          ∧ u.get TSY.LOCK = if off.natAbs ≤ s.get TSY.LOCKTH ∧ 7 ≤ s.sw.tsy.good then 1 else s.get TSY.LOCK))
    ∧ (∀ d, s.due .gptp = some d → s.get TSY.LOCK = 1 → Completes .gptpSyncTimeout s (fun u =>
        u.get TSY.LOCK = 0 ∧ u.get TSY.HOLDOVER = 1 ∧ u.sw.tsy.good = 0
        ∧ (s.get TSY.HOLDOVER = 0 → u.fcr.inbox = s.fcr.inbox ++ [(0xD1, 0)]) ∧ u.get STR.ALIGNED = 0 ∧ u.get STR.HOLDOVER = 1))
    ∧ (∀ delay, bitAt (s.get TSY.PORTEN) p = true → s.get (Hdr.EN 0x48) = 1 → Completes (.gptpPdelay t p delay) s (fun u =>
        u.get (TSY.PDELAY p) = delay % 65536))

/-- Fault collection (R547 to R557). -/
def Obligations.FaultsAreCollected : Prop :=
  ∀ (s : State) (t i : Nat), i < 0xD4 →
    (∀ unit, unit < 256 → s.boot.phase ≠ .held →
      let c := s.cls i
      let second := decide (1 ≤ c) && s.fcr.events.any (fun e => decide (e.cls = c) && !e.acked)
      let h := effHurdle i unit (if second then min (s.get (FCR.INIT c) + 1) 5 else s.get (FCR.INIT c))
      (s.pwr.state = .doze → Completes (.faultRaise t i unit) s (fun u =>
        u.regs = s.regs ∧ u.fcr = { s.fcr with inbox := s.fcr.inbox.erase (i, unit) ++ [(i, unit)] }))
      ∧ (s.pwr.state ≠ .doze → s.pwr.state ≠ .dozeExit → s.inShadow i unit t = true → Completes (.faultRaise t i unit) s (fun u =>
        u.get FCR.CONSEQCNT = min (s.get FCR.CONSEQCNT + 1) 0xFFFFFFFF ∧ u.get (FCR.RAISED i) = s.get (FCR.RAISED i)
        ∧ u.fcr.events = s.fcr.events ∧ (u.fcr.log.head?).map (fun l => (l.src, l.unit, l.hurdle, l.flags)) = some (i, unit, 0, 4)))
      ∧ (s.pwr.state ≠ .doze → s.pwr.state ≠ .dozeExit → s.inShadow i unit t = false → h ≠ 5 → Completes (.faultRaise t i unit) s (fun u =>
        u.get (FCR.RAISED i) = 1 ∧ u.get (FCR.ACKED i) = 0 ∧ u.get (FCR.COUNT i) = min (s.get (FCR.COUNT i) + 1) (2 ^ (FCR.COUNT i).width - 1)
        ∧ u.fcr.events = s.fcr.events ++ [{ src := i, unit := unit, cls := c, acked := false }]
        ∧ (u.fcr.log.head?).map (fun l => (l.src, l.unit, l.hurdle, l.cls)) = some (i, unit, h, c)
        ∧ u.get (FCR.SSTAT_HURDLE i) = max (s.get (FCR.SSTAT_HURDLE i)) h
        ∧ (h = 4 → u.get FCR.SAFE = 1)
        ∧ (∀ p, holdPage i unit = some p → 2 ≤ h → h ≤ 4 → u.fcr.holds.any (fun x => decide (x.2 = (p, unit))) = true)))
      ∧ (s.pwr.state ≠ .doze → s.pwr.state ≠ .dozeExit → s.inShadow i unit t = false → h = 5 → s.nvBusy = false →
        Completes (.faultRaise t i unit) s (fun u => u.boot.phase = .held ∧ u.get BOOT.CAUSE = causeFcr)))
    ∧ (∀ d, s.due (.grace i) = some d → Completes (.graceExpiry i) s (fun u =>
        let e := s.fcr.events.find? (fun e => decide (e.src = i) && !e.acked)
        (e = none → u.fcr = s.fcr ∧ u.regs = s.regs)
        ∧ (∀ x, e = some x → effHurdle i x.unit (s.get (FCR.ESC (s.cls i))) ≠ 5 →
            (u.fcr.log.head?).map (fun l => (l.src, l.unit, l.hurdle)) = some (i, x.unit, effHurdle i x.unit (s.get (FCR.ESC (s.cls i))))
            ∧ u.get (FCR.SSTAT_HURDLE i) = max (s.get (FCR.SSTAT_HURDLE i)) (effHurdle i x.unit (s.get (FCR.ESC (s.cls i))))
            ∧ bitAt (u.get (Hdr.EVT 0x06)) 1 = true ∧ u.fcr.events = s.fcr.events)))
    ∧ (∀ src : Src,
        (s.Accepts src 0x06 0x140 (BitVec.ofNat 32 i) 0xFFFFFFFF t → (∀ d, s.due (.grace i) = some d → t < d) → Completes (.faultAck t src i) s (fun u =>
          (s.get (FCR.RAISED i) = 1 → u.get (FCR.ACKED i) = 1 ∧ u.due (.grace i) = none
            ∧ u.fcr = { s.fcr with events := s.fcr.events.map (fun e => if e.src = i then { e with acked := true } else e) })
          ∧ (s.get (FCR.RAISED i) = 0 → u.fcr = s.fcr ∧ u.timers = s.timers ∧ u.get (FCR.ACKED i) = s.get (FCR.ACKED i))))
        ∧ (∀ unit, unit < 256 → s.Accepts src 0x06 0x144 (BitVec.ofNat 32 (i + 256 * unit)) 0xFFFFFFFF t →
            Completes (.faultUnhold t src i unit) s (fun u =>
              u.fcr.holds = s.fcr.holds ∧ u.fcr.events = s.fcr.events
              ∧ ∀ h ∈ s.fcr.holds, h.1 = i → h.2.2 = unit → h ∈ u.fcr.ending))
        ∧ (s.Accepts src 0x06 (0x600 + 4 * i) 1 0xFFFFFFFF t → (∀ d, s.due (.grace i) = some d → t < d) → Completes (.faultClear t src i) s (fun u =>
            (s.get (FCR.RAISED i) = 1 → u.get (FCR.RAISED i) = 0 ∧ u.get (FCR.ACKED i) = 0 ∧ u.get (FCR.HELD i) = 0 ∧ u.get (FCR.COUNT i) = 0
              ∧ u.get (FCR.SSTAT_HURDLE i) = 0 ∧ u.due (.grace i) = none
              ∧ u.fcr.events = s.fcr.events.filter (fun e => decide (e.src ≠ i)) ∧ ∀ h ∈ s.fcr.holds, h.1 = i → h ∈ u.fcr.ending)
            ∧ (s.get (FCR.RAISED i) = 0 → u.fcr = s.fcr ∧ u.timers = s.timers ∧ u.get (FCR.COUNT i) = s.get (FCR.COUNT i))))
        ∧ (s.Accepts src 0x06 0x124 1 0xFFFFFFFF t → Completes (.safeRelease t src) s (fun u =>
            u.stride = { s.stride with safeRel := true } ∧ u.fcr = s.fcr)))

/-- Register commands of the Record book (R573 to R586). -/
def Obligations.RecordWritesTakeEffect : Prop :=
  ∀ (s : State) (src : Src) (t : Nat),
    (∀ c, fwCode c = true → s.Accepts src 0x07 0x114 (BitVec.ofNat 32 c) 0xFFFFFFFF t → Completes (.recordCodePut t src c) s (fun u =>
      let a := recCounter c
      (s.le (a + 6) 1 ≠ 0 → u.le a 4 = min (s.le a 4 + 1) 0xFFFFFFFF ∧ u.le (a + 6) 1 = s.le (a + 6) 1 - 1)
      ∧ (s.le (a + 6) 1 = 0 → u.le a 4 = s.le a 4 ∧ u.le (a + 4) 2 = min (s.le (a + 4) 2 + 1) 0xFFFF)))
    ∧ (∀ c cls, c < 4096 → cls < 16 → s.Accepts src 0x07 0x118 (BitVec.ofNat 32 (c + 4096 * cls)) 0xFFFFFFFF t →
      Completes (.codeClassAssign t src c cls) s (fun u =>
        u.le (recCounter c + 7) 1 = s.le (recCounter c + 7) 1 / 16 * 16 + cls ∧ ∀ a, a ≠ recCounter c + 7 → u.byte a = s.byte a))
    ∧ (∀ k, k < 320 → s.feedCfg0 k % 4 = 2 → s.Accepts src 0x07 0x178 (BitVec.ofNat 32 k) 0xFFFFFFFF t → Completes (.feedPut t src k) s (fun u =>
      let a := feedAddr k
      let v := s.get REC.VAL
      let first := s.le (a + 10) 1 % 2 = 0
      (k < 256 → s.le (a + 0x8A) 1 % 2 = 0 → u.le (a + 0x80) 4 = min (s.le (a + 0x80) 4 + 1) 0xFFFFFFFF)
      ∧ (256 ≤ k → bitAt (s.feedCfg0 k) 4 = false →
          u.le a 4 = (if first then v else min (s.le a 4) v) ∧ u.le (a + 12) 4 = (if first then v else max (s.le (a + 12) 4) v)
          ∧ u.le (a + 10) 1 = 1)))
    ∧ (∀ k, k < 320 → s.Accepts src 0x07 0x170 (BitVec.ofNat 32 k) 0xFFFFFFFF t → Completes (.feedClear t src k) s (fun u =>
      let n := if k < 256 then 0x90 else 24
      let m := if k < 256 then 12 else 4
      (∀ i, i < n → u.byte (feedAddr k + i) = 0) ∧ (∀ i, n ≤ i → i < n + m → u.byte (feedAddr k + i) = s.byte (feedAddr k + i))))
    ∧ (∀ v m, s.Accepts src 0x07 0x100 (v ||| 1) (m ||| 1) t → Completes (.flushCommand t src v m) s (fun u =>
      (s.book.flush.isSome = true → u.book = { s.book with held := some 0 } ∧ u.get REC.HELD = 1)
      ∧ (∀ j, s.freeSector s.book.cursor [] = some j → s.book.flush = none →
          (u.book.flush.map (fun f => (f.reason, f.lap, f.target, f.retried, f.wrote))) = some (0, s.lap, j, false, 0) ∧ u.get REC.BUSY = 1)))
    ∧ ((s.busRead src 0x07 0x180 t).2.2 = none → Completes (.recordRead t src) s (fun u =>
      u.get REC.DATA = s.le (recBase + 4 * s.get REC.ADDR) 4 ∧ u.get REC.ADDR = (s.get REC.ADDR + 1) % 2 ^ 17 ∧ u.mem = s.mem))
    ∧ (∀ k, k < 65536 → s.Accepts src 0x07 0x184 (BitVec.ofNat 32 k) 0xFFFFFFFF t → Completes (.recordWipe t src k) s (fun u =>
      (∀ a, recBase + 0x1000 ≤ a → a < recBase + 0x80000 → u.byte a = 0)
      ∧ (s.book.flush.isSome = true → u.book = { s.book with held := some 3 } ∧ u.get REC.HELD = 1)))

/-- Events of the Record book (R573, R575, R580 to R583). -/
def Obligations.RecordBookAdvances : Prop :=
  ∀ (s : State) (t : Nat),
    (∀ k, k < 32 → s.get (BQ.HWC k) = 7 → ∀ e, (s.queue k).entries.head? = some e → Completes (.recordQueueEntry t k) s (fun u =>
      (u.queue k).entries = (s.queue k).entries.tail
      ∧ (e.tl % 2 ^ 13 = 0x708 → e.tl / 2 ^ 14 = 0 → fwCode (e.p0 % 65536) = true → s.le (recCounter (e.p0 % 65536) + 6) 1 ≠ 0 →
          u.le (recCounter (e.p0 % 65536)) 4 = min (s.le (recCounter (e.p0 % 65536)) 4 + 1) 0xFFFFFFFF)
      ∧ (e.tl % 2 ^ 13 ≠ 0x708 → e.tl % 2 ^ 13 ≠ 0x718 → u.get REC.BADPUT = min (s.get REC.BADPUT + 1) 65535 ∧ u.mem = s.mem)))
    ∧ (∀ c, c < 16 → s.get (REC.REFILL c) ≠ 0 → s.book.warm ≤ t → (t - s.book.warm) % ms (s.get (REC.REFILL c)) = 0 →
      Completes (.tokenRefill t c) s (fun u => ∀ k, k < 4096 →
        u.le (recCounter k + 6) 1 = if s.le (recCounter k + 7) 1 % 16 = c then min (s.le (recCounter k + 6) 1 + 1) (s.get (REC.BURST c))
          else s.le (recCounter k + 6) 1))
    ∧ (s.pwr.state = .run ∨ s.pwr.state = .idle → s.book.since + ms (60000 * s.get REC.PERIOD) ≤ t → Completes (.flushPeriod t) s (fun u =>
      (s.book.flush.isSome = true → u.book = { s.book with held := some 1 } ∧ u.get REC.HELD = 1)
      ∧ (∀ j, s.freeSector s.book.cursor [] = some j → s.book.flush = none →
          (u.book.flush.map (fun f => (f.reason, f.target))) = some (1, j) ∧ u.book.since = t ∧ u.get REC.BUSY = 1)))
    ∧ (∀ f, s.book.flush = some f → s.boot.want = none → s.book.held = none →
      (∀ j, s.freeSector f.target f.used = some j → f.todo ≠ [] → f.target < 256 → Completes (.archiveSectorWritten t true) s (fun u =>
        u.bytes (archSector f.target) 4096 = imageBlock f.image (f.todo.headD 0)
        ∧ (u.book.flush.map (fun g => (g.todo, g.target, g.wrote))).isSome = true))
      ∧ (f.todo = [] → Completes (.archiveSectorWritten t true) s (fun u =>
          u.book.flush = none ∧ u.book.commit = some f.target ∧ u.get REC.SEQ = (s.get REC.SEQ + 1) % 2 ^ 32 ∧ u.get REC.BUSY = 0
          ∧ u.get REC.BLOCKS = f.wrote % 256))
      ∧ (∀ j, s.freeSector f.target f.used = some j → f.retried = false → Completes (.archiveSectorWritten t false) s (fun u =>
          u.book.flush = some { f with retried := true, target := j, used := j :: f.used } ∧ u.mem = s.mem))
      ∧ (f.retried = true → Completes (.archiveSectorWritten t false) s (fun u =>
          u.book.flush = none ∧ u.get REC.BUSY = 0 ∧ u.get REC.FAILS = min (s.get REC.FAILS + 1) 65535
          ∧ u.fcr.inbox = s.fcr.inbox ++ [(0x21, 0)])))

/-- The access cycle (R513 to R530). -/
def Obligations.AccessCyclesRun : Prop :=
  ∀ (s : State) (t : Nat),
    (∀ x, s.acc.starts.head? = some x →
      (s.get ACC.STATE ≠ 0 → Completes .accessCycleStart s (fun u =>
        u.acc = { s.acc with starts := s.acc.starts.tail, held := some x.2 } ∧ u.get ACC.PEND = 1 ∧ u.get ACC.STATE = s.get ACC.STATE))
      ∧ (s.get ACC.STATE = 0 → s.lockedOut x.1 = true → Completes .accessCycleStart s (fun u =>
        u.get ACC.STATE = 0 ∧ u.get ACC.RESULT = 6 ∧ u.acc.starts = s.acc.starts.tail))
      ∧ (s.get ACC.STATE = 0 → s.lockedOut x.1 = false → s.lfNoSupply = false → Completes .accessCycleStart s (fun u =>
        u.get ACC.STATE = 1 ∧ u.acc.purpose = x.2 ∧ u.acc.slots = s.vault.slots ∧ u.acc.resps = []
        ∧ u.due .lfEnd = some (x.1 + us 26576 + us 1500 * s.aerials.length))))
    ∧ (∀ d, s.due .lfEnd = some d → ∀ peaks shorts hot k i, k ∈ s.aerials → peaks.find? (fun (e : Nat × Nat) => decide (e.1 = k)) = some (k, i) →
        s.get (Hdr.STOPPING 0x0E) = 0 → s.lfNoSupply = false → Completes (.lfBurstsEnd peaks shorts hot) s (fun u =>
          u.get (LF.IPK k) = i % 4096 ∧ (10 * i < 100 * s.get (LF.ICUR k) → bitAt (u.get (LF.FLT k)) 0 = true) ∧ u.due .lfEnd = none))
    ∧ (s.get (Hdr.STOPPING 0x0E) = 0 → s.get ACC.STATE = 1 → s.due .lfEnd = none →
        (s.xtOk 0 = true → s.xtOk 1 = true → Completes (.uwbPoll t true) s (fun u => u.get ACC.STATE = 2 ∧ u.acc = { s.acc with poll := t, uwbOut := s.pollFrame }))
        ∧ (s.acc.held = none → s.acc.lockDue = false → Completes (.uwbPoll t false) s (fun u =>
          u.get ACC.STATE = 0 ∧ u.get ACC.RESULT = 8 ∧ u.fcr.inbox = s.fcr.inbox ++ [(0x27, 0)])))
    ∧ (s.get ACC.STATE = 2 ∨ s.get ACC.STATE = 3 →
        (∀ k round eps, Completes (.uwbRespReceived t k none round eps) s (fun u =>
          u.get ACC.STATE = 3 ∧ u.get ACC.COLL = min (s.get ACC.COLL + 1) 65535 ∧ u.acc = s.acc))
        ∧ (∀ (k : Nat) (f : List Byte) (round : Nat) (eps : Int), s.xtOk 2 = true → s.xtOk 3 = true → s.xtOk 4 = true →
            (Int.ofNat (10000 * round) - Int.ofNat ((t - s.acc.poll) * 638976)).natAbs ≤ 8 * 638976 →
            f.length = 32 → (f.getD 0 0).toNat = 0x52 → (f.getD 1 0).toNat = k →
            let tok := look slotInit s.acc.slots k
            let known := tok.valid && decide (leVal ((f.drop 2).take 4) = tok.tid)
            (known = false → Completes (.uwbRespReceived t k (some f) round eps) s (fun u =>
              u.get ACC.UNKNOWN = min (s.get ACC.UNKNOWN + 1) 65535 ∧ u.acc = s.acc))
            ∧ (known = true → s.macT tok.key f ≠ f.drop 24 → Completes (.uwbRespReceived t k (some f) round eps) s (fun u =>
              u.get ACC.FAILS = min (s.get ACC.FAILS + 1) 0xFFFFFFFF ∧ u.acc.failed = s.acc.failed + 1 ∧ u.acc.fails = t :: s.recentFails t
              ∧ u.acc.lockDue = (s.acc.lockDue || decide (5 ≤ (t :: s.recentFails t).length))))
            ∧ (known = true → s.macT tok.key f = f.drop 24 → Completes (.uwbRespReceived t k (some f) round eps) s (fun u =>
              (u.acc.resps.map (fun r => (r.slot, r.dist, r.priv))) = (s.acc.resps.map (fun r => (r.slot, r.dist, r.priv)))
                ++ [(k, s.accDistance round (leVal ((f.drop 20).take 4)) eps, tok.priv)]))))
    ∧ (s.get ACC.STATE = 2 ∨ s.get ACC.STATE = 3 → s.get (Hdr.STOPPING 0x0E) = 0 → Completes (.accessSelection t) s (fun u =>
        let good := fun (r : AccResp) => s.inBound r.dist && decide (r.zone < 8) && bitAt (s.get (ACC.PMASK r.zone)) s.acc.purpose
          && decide (s.acc.purpose + 1 ≤ r.priv)
        u.get ACC.STATE = 4
        ∧ (s.acc.resps.any good = false → u.acc.chosen = none ∧ u.acc.result ≠ resGranted)
        ∧ (s.acc.resps.any good = true → u.acc.result = resGranted
            ∧ u.acc.chosen.any (fun c => decide (c ∈ s.acc.resps) && good c && s.acc.resps.all (fun r => !good r || !r.before c)) = true)))
    ∧ (s.get ACC.STATE = 4 → s.acc.held = none → s.get (Hdr.STOPPING 0x0E) = 0 → Completes (.accessCycleEnd t) s (fun u =>
        u.get ACC.STATE = 0 ∧ u.get ACC.RESULT = s.acc.result % 16 ∧ u.acc.resps = []
        ∧ (s.acc.lockDue = true → u.get ACC.LOCKED = 1 ∧ u.acc.fails = []
            ∧ u.acc.lockEnd = t + lockLength ((s.recentLocks t).length + 1) ∧ u.due .lockout = some u.acc.lockEnd)
        ∧ (s.acc.chosen.isSome = true → s.acc.purpose = 1 →
            u.vault.relCnt = (s.vault.relCnt + 1) % 2 ^ 32 ∧ (s.get ACC.EN = 1 → u.acc.opening = true))))
    ∧ (∀ d, s.due .lockout = some d → Completes .lockoutEnd s (fun u =>
        u.get ACC.LOCKED = 0 ∧ u.vault = { s.vault with lockRec := none } ∧ u.due .lockout = none))
    ∧ (∀ d, s.due .permit = some d → Completes .permitClose s (fun u => u.acc = { s.acc with closing := true } ∧ u.due .permit = none))

/-- Commands of the Vault (R531 to R533). -/
def Obligations.VaultCommandsRun : Prop :=
  ∀ (s : State) (t : Nat),
    (∀ src : Src,
      let began := fun (u : State) (op : Nat) => u.get VLT.BUSY = 1 ∧ u.vault = { s.vault with cmd := u.vault.cmd }
        ∧ u.vault.cmd.any (fun c => decide (c.code = op ∧ c.slot = s.get VLT.SLOT ∧ c.priv = s.get VLT.CMDARG_PRIV ∧ c.tid = s.get VLT.CMDTID_TID)) = true
      let noKek := look [] s.vault.keys 0 = []
      let status := fun (u : State) => (u.vault.cmd.map (·.status)).getD 9
      (s.Accepts src 0x0D 0x60 1 0xFFFFFFFF t → Completes (.enrol t src) s (fun u => began u 1
        ∧ status u = (if 64 ≤ s.vault.used then 1 else if noKek then 3 else if s.vltUnwrap = none then 2 else 0)))
      ∧ (s.Accepts src 0x0D 0x60 2 0xFFFFFFFF t → Completes (.revoke t src) s (fun u => began u 2 ∧ status u = 0))
      ∧ (s.Accepts src 0x0D 0x60 3 0xFFFFFFFF t → s.get VLT.SLOT ≠ 0 → Completes (.keyload t src) s (fun u => began u 3
        ∧ status u = (if noKek then 3 else if s.vltUnwrap = none then 2 else 0)))
      ∧ (s.Accepts src 0x0D 0x60 3 0xFFFFFFFF t → s.get VLT.SLOT = 0 → Completes (.keyload t src) s (fun u => began u 3 ∧ status u = 0)))
    ∧ (∀ c, s.vault.cmd = some c → s.boot.want = none → ∀ nvOk, Completes (.vaultCmdComplete t nvOk) s (fun u =>
        let st := if c.status ≠ 0 then c.status else if nvOk then 0 else 4
        let slot := look slotInit u.vault.slots c.slot
        u.get VLT.BUSY = 0 ∧ u.get VLT.STATUS = st % 8 ∧ u.vault.cmd = none
        ∧ (st ≠ 0 → u.vault = { s.vault with cmd := none })
        ∧ (st = 0 → c.code = 1 → slot.valid = true ∧ slot.priv = c.priv ∧ slot.tid = c.tid ∧ slot.key = c.key.getD [] ∧ u.vault.used = s.vault.used + 1)
        ∧ (st = 0 → c.code = 2 → slot.valid = false ∧ slot.key = [] ∧ u.vault.used = s.vault.used ∧ u.vault.keys = s.vault.keys)
        ∧ (st = 0 → c.code = 3 → look [] u.vault.keys c.slot = c.key.getD [] ∧ u.vault.slots = s.vault.slots)))

/-- Protection and stops of the power units (R57, R195 to R205, R214, R219). -/
def Obligations.PowerUnitsProtect : Prop :=
  ∀ (s : State) (u : OutU) (t : Nat),
    (limits u = true → (s.phase u).conducts = true → s.get SUP.REVERSE = 0 → (s.out u).lim = false → Completes (.currentLimitEntry t u) s (fun x =>
        (x.out u).lim = true ∧ x.phase u = s.phase u
        ∧ ((protBits u).limit ≠ 31 → bitAt (x.get (fFlt u)) (protBits u).limit = true)
        ∧ ((fLim u).width = 1 → x.get (fLim u) = 1)
        ∧ (∀ n, u = .ls n → n < 56 → x.get (LSW.LIMEPS n) = min (s.get (LSW.LIMEPS n) + 1) 65535)
        ∧ x.get (SYS.COUNT 4) = (if (s.out u).fs = false ∧ s.cmdOn u = true ∧ (5, 2, limitKey u) ∉ s.episodes
            then min (s.get (SYS.COUNT 4) + 1) 65535 else s.get (SYS.COUNT 4))))
    ∧ (¬ (limits u = true ∧ (s.phase u).conducts = true ∧ s.get SUP.REVERSE = 0 ∧ (s.out u).lim = false) → Completes (.currentLimitEntry t u) s (fun x => x = s.reach t))
    ∧ Completes (.limitingEpisodeEnd t u) s (fun x => (x.out u).lim = false ∧ x.get (fLim u) = 0 ∧ (5, 2, limitKey u) ∉ x.episodes ∧ x.phase u = s.phase u)
    ∧ (∀ d, s.due (.inrush u) = some d → Completes (.inrushWindowEnd u) s (fun x =>
        (s.phase u = .start → (s.members u).all (fun v => decide (x.phase v = .on)) = true ∧ x.due (.reload (s.master u)) = some (d + ms 10000)
          ∧ x.due (.inrush u) = none)
        ∧ (s.phase u ≠ .start → x = (s.disarm (.inrush u)).reach d)))
    ∧ (∀ d, s.due (.retry u) = some d → Completes (.retryIntervalExpiry u) s (fun x =>
        (s.phase u ≠ .tripped → x = (s.disarm (.retry u)).reach d)
        ∧ (s.phase u = .tripped → s.latched u = true → Phase.deferred ∈ phasesOf u → (s.members u).all (fun v => decide (x.phase v = .deferred)) = true
            ∧ x.due (.defer (s.master u)) = some (d + ms (100 * s.get (fDeflim (s.master u)))) ∧ x.get (fRem u) = s.get (fRem u))
        ∧ (s.phase u = .tripped → s.latched u = false → x.get (fRem u) = s.get (fRem u) - 1)))
    ∧ (∀ n, n < 56 → ∀ d, s.due (.retry (.ls n)) = some d → s.phase (.ls n) = .tripped → s.latched (.ls n) = false →
        Completes (.retryIntervalExpiry (.ls n)) s (fun x => (s.members (.ls n)).all (fun v => decide (x.phase v = .wait)) = true))
    ∧ (∀ d, s.due (.defer u) = some d → Completes (.deferralLimitExpiry u) s (fun x =>
        (s.phase u ≠ .deferred ∨ s.latched u = false → x = (s.disarm (.defer u)).reach d)
        ∧ (s.phase u = .deferred → s.latched u = true → (s.members u).all (fun v => decide (x.phase v = .lockoff)) = true
            ∧ bitAt (x.get (fFlt (s.master u))) (protBits (s.master u)).defexp = true)))
    ∧ (∀ d, s.due (.reload u) = some d → Completes (.retryReloadTimer u) s (fun x =>
        (s.phase u = .on → x.get (fRem (s.master u)) = s.get (fRetry (s.master u)) % 2 ^ (fRem (s.master u)).width)
        ∧ (s.phase u ≠ .on → x = (s.disarm (.reload u)).reach d)))
    ∧ (∀ d, s.due (.demag u) = some d → u ∈ (List.range 56).map OutU.ls ++ (List.range 16).map OutU.so → Completes (.demagDump u) s (fun x =>
        (s.phase u ≠ .stopping → x = (s.disarm (.demag u)).reach d)
        ∧ (s.phase u = .stopping → bitAt (x.get (fFlt u)) (protBits u).otabs = true ∧ x.get (fLatch u) = 1
            ∧ x.get (fTrips u) = min (s.get (fTrips u) + 1) (2 ^ (fTrips u).width - 1)
            ∧ x.phase u = (if s.flag (fPend (s.master u)) = true ∧ s.wants (s.master u) = true then .deferred else .off))))
    ∧ ((s.phase u = .stopping ∨ (s.out u).stopping = true) → Completes (.outputStopComplete t u) s (fun x =>
        s.flag (fPend (s.master u)) = false → x.phase u = .off))
    ∧ (∀ n, n < 56 → s.phase (.ls n) = .stopping → Completes (.outputStopComplete t (.ls n)) s (fun x =>
        let m := s.master (.ls n)
        x.get (fPend m) = 0 ∧ x.phase (.ls n) =
          (if s.flag (fPend m) = true ∧ s.wants m = true then (if s.latched m = true then .deferred else .wait) else .off)))
    ∧ (s.phase u ≠ .stopping → (s.out u).stopping = false → Completes (.outputStopComplete t u) s (fun x => x = s.reach t))
    ∧ (∀ (src : Src) (v m : Word), s.Accepts src (fFlt u).page (fFlt u).off v m t → u ∈ allUnits ++ (List.range 6).map OutU.lf →
        Completes (.channelFaultClear t src u v m) s (fun x =>
          x.get (fFlt u) = clrMask (s.get (fFlt u)) ((v &&& m).toNat >>> (fFlt u).lo)))

/-- Diagnosis of the power units (R212, R213, R290 to R293, R316, R333, R348, R375). -/
def Obligations.PowerUnitsDiagnose : Prop :=
  ∀ (s : State) (t : Nat),
    (∀ u d holds, diagBit u d = none ∨ s.diagOn u d t = false → Completes (.diagFilterExpiry t u d holds) s (fun x => x = s.reach t))
    ∧ (∀ u d, s.diagOn u d t = true → ∀ b, diagBit u d = some b →
        (∀ holds, holds = false ∨ s.diagShows u d t = false → Completes (.diagFilterExpiry t u d holds) s (fun x => bitAt (x.out u).bad b = false ∧ x.get (fFlt u) = s.get (fFlt u) ∧ x.fcr = s.fcr))
        ∧ (s.diagShows u d t = true → Completes (.diagFilterExpiry t u d true) s (fun x => bitAt (x.out u).bad b = true ∧ bitAt (x.get (fFlt u)) b = true
            ∧ (∀ n, flagSrc u b = some n → (n, (upage u).2) ∈ x.fcr.inbox)
            ∧ (d = .short → ∀ n, u = .led n → s.flag (LDS.SHORTOFF n) = true → s.phase u = .on → x.phase u = .shorted))))
    ∧ (∀ (blk : TestBlock) (u : OutU),
        let idle := decide (s.phase u = .off) && !(s.out u).stopping
        let sel := (match blk, u with
          | .loadSwitches, .ls n => decide (n < 56) && s.flag (LSW.OFFDIAG (s.lsMaster n)) && (idle || decide (s.phase u = .lockoff))
          | .bridges, .hb n => decide (n < 12) && s.flag (HB.OFFDIAG n) && idle && decide (s.master u = u)
          | .signals, .so n => decide (n < 16) && s.flag (DOUT.OFFDIAG (s.soMaster n)) && idle
          | _, _ => false) && s.flag (Hdr.EN (upage u).1) && !(s.out u).fs && !s.flag SUP.REVERSE
        let per := s.get (match blk with | .loadSwitches => LSWC.DIAGPER | .bridges => HBC.DIAGPER | .signals => DOUT.DIAGPER)
        (s.onGrid t (per * 2500000) = true → Completes (.offStateTest t blk) s (fun x =>
          (sel = true → x.out u = { s.out u with test := 1 } ∧ x.due (.testPhase u) = some (t + us 500))
          ∧ (sel = false → x.out u = s.out u ∧ x.due (.testPhase u) = s.due (.testPhase u))
          ∧ x.regs = s.regs))
        ∧ (s.onGrid t (per * 2500000) = false → Completes (.offStateTest t blk) s (fun x => x = s.reach t)))
    ∧ (∀ u d, s.due (.testPhase u) = some d → ∀ high,
        ((s.out u).test = 1 → Completes (.offTestPhaseEnd u high) s (fun x =>
          x.out u = { s.out u with test := 2, uHigh := high } ∧ x.due (.testPhase u) = some (d + us 500) ∧ x.regs = s.regs))
        ∧ (∀ n, u = .ls n → n < 56 → (s.out u).test ≠ 1 → Completes (.offTestPhaseEnd u high) s (fun x =>
          let up := bitAt (s.out u).uHigh 0
          let dn := bitAt high 0
          (x.out u).test = 0 ∧ (x.out u).offValid = true ∧ x.due (.testPhase u) = none
          ∧ bitAt (x.get (LSW.FLT n)) 1 = (bitAt (s.get (LSW.FLT n)) 1 || (up && !dn))
          ∧ bitAt (x.get (LSW.FLT n)) 3 = (bitAt (s.get (LSW.FLT n)) 3 || (up && dn))))
        ∧ (∀ b, u = .bank b → b < 4 → (s.out u).test = 2 →
          (s.flag (VDB.BPULSE b) = true → bitAt high 4 = false → Completes (.offTestPhaseEnd u high) s (fun x =>
            x.out u = { s.out u with test := 3, dHigh := high } ∧ x.due (.testPhase u) = some (d + us 200)))
          ∧ (s.flag (VDB.BPULSE b) = false ∨ bitAt high 4 = true → Completes (.offTestPhaseEnd u high) s (fun x =>
            let node := bitAt (s.out u).uHigh 4
            (x.out u).test = 0 ∧ bitAt (x.get (VDB.BANKFLT b)) 4 = (bitAt (s.get (VDB.BANKFLT b)) 4 || (node && bitAt high 4))
            ∧ bitAt (x.get (VDB.BANKFLT b)) 5 = (bitAt (s.get (VDB.BANKFLT b)) 5 || !node)
            ∧ ∀ k, k < 4 → bitAt (x.get (VDB.FLT (4 * b + k))) 1 =
                (bitAt (s.get (VDB.FLT (4 * b + k))) 1 || (node && !bitAt high 4 && !bitAt (s.out u).uHigh k))))))
    ∧ (∀ b, s.due (.testPhase (.bank b)) = none →
        let go := s.onGrid t (2500000 * s.get VDC.DIAGPER) = true ∧ s.flag (Hdr.EN (0x18 + b)) = true ∧ s.flag (VDB.OFFDIAG b) = true
          ∧ s.phase (.bank b) = .off ∧ s.bankActive b = false ∧ (s.out (.bank b)).fs = false ∧ s.flag SUP.REVERSE = false
        (go → Completes (.bankOffStateTest t b) s (fun x =>
          x.out (.bank b) = { s.out (.bank b) with test := 1 } ∧ x.due (.testPhase (.bank b)) = some (t + us 500) ∧ x.regs = s.regs))
        ∧ (¬ go → Completes (.bankOffStateTest t b) s (fun x => x = s.reach t)))

/-- Valve channels (R272 to R290). -/
def Obligations.ValvesRegulate : Prop :=
  ∀ (s : State) (n t : Nat), n < 16 →
    let u := OutU.vd n
    let v := s.valve n
    (∀ d, s.due (.peak n) = some d → Completes (.peakPhaseEnd n) s (fun x =>
        x.phase u = .on ∧ x.due (.peak n) = none ∧ (x.valve n).ramp = v.prof.ramps ∧ (x.valve n).dither0 = none ∧ (x.valve n).full = false
        ∧ (v.prof.ramps = true → x.due (.ramp n) = some (d + us 100 * v.prof.rampt))
        ∧ (v.prof.pend = true → x.get (VDB.PULLIN n) = 0 ∧ bitAt (x.get (VDB.FLT n)) 14 = true)
        ∧ (v.prof.pend = false → x.get (VDB.PULLIN n) = s.get (VDB.PULLIN n))))
    ∧ (∀ i duty,
        let dip := v.prof.pend = true ∧ v.full = true ∧ v.start + us 100 * v.prof.dipmin ≤ t ∧ i + v.prof.dipth ≤ v.highest
        let measured := fun (x : State) => x.get (VDB.IMEAS n) = (if s.master u = u then s.vdSize n * i else i) % 2 ^ (VDB.IMEAS n).width
        let m := s.valve (s.vdMaster n)
        (s.phase u = .start → s.master u = u → Completes (.valvePwmPeriod t n i duty) s (fun x => measured x
          ∧ x.get (VDB.DUTYACT n) = (if v.full = true ∧ i < s.vdPeak n then 4096 else min duty 4096)
          ∧ (dip → x.phase u = .on ∧ x.get (VDB.PULLIN n) = min ((t - v.start) / 1000) 65535)
          ∧ (¬ dip → x.phase u = (if v.firstPwm = true then .on else .start) ∧ (x.valve n).highest = max v.highest i
              ∧ x.get (VDB.PULLIN n) = s.get (VDB.PULLIN n))))
        ∧ (s.phase u = .start → s.master u ≠ u → Completes (.valvePwmPeriod t n i duty) s (fun x => measured x
          ∧ x.get (VDB.DUTYACT n) = (if m.full = true then 4096 else min duty 4096)
          ∧ x.phase u = .start ∧ x.get (VDB.PULLIN n) = s.get (VDB.PULLIN n)
          ∧ (x.valve (s.vdMaster n)).highest = m.highest ∧ (x.valve (s.vdMaster n)).full = m.full))
        ∧ (s.phase u = .on → Completes (.valvePwmPeriod t n i duty) s (fun x => measured x ∧ x.phase u = .on
            ∧ (x.valve n).target = s.vdTarget n t
            ∧ x.get (VDB.DUTYACT n) = (if s.vdFixed n = true then s.keptDuty (.vd (s.vdMaster n)) (s.get (VDB.DUTY (s.vdMaster n))) else min duty 4096)))
        ∧ (s.phase u ≠ .start → s.phase u ≠ .on → Completes (.valvePwmPeriod t n i duty) s (fun x => measured x ∧ x.get (VDB.DUTYACT n) = 0)))
    ∧ (∀ d, s.due (.ramp n) = some d → Completes (.valveRampEnd n) s (fun x =>
        x.valve n = { v with ramp := false } ∧ x.regs = s.regs ∧ x.due (.ramp n) = none))
    ∧ (∀ d, s.due (.slow n) = some d → Completes (.slowDecayTimeout n) s (fun x =>
        bitAt (x.get (VDB.FLT n)) 13 = true ∧ x.phase u = s.phase u ∧ (x.valve n).slow = false ∧ x.due (.slow n) = none))
    ∧ (∀ clamp, (s.phase u = .start ∨ s.phase u = .on) → (s.out u).revOn = false → Completes (.valveOvercurrentTrip t n clamp) s (fun x =>
        bitAt (x.get (VDB.FLT n)) (if clamp = true then 4 else 3) = true
        ∧ x.get (VDB.CHCNT_TRIPS n) = min (s.get (VDB.CHCNT_TRIPS n) + 1) (2 ^ (VDB.CHCNT_TRIPS n).width - 1)
        ∧ (s.get (fRem (s.master u)) ≠ 0 → x.phase u = .tripped ∧ x.due (.retry (s.master u)) = some (t + ms (10 * s.get (fRtrint (s.master u)))))
        ∧ (s.get (fRem (s.master u)) = 0 → x.phase u = .lockoff ∧ bitAt (x.get (fFlt (s.master u))) 7 = true)))
    ∧ (∀ clamp, ¬ ((s.phase u = .start ∨ s.phase u = .on) ∧ (s.out u).revOn = false) →
        Completes (.valveOvercurrentTrip t n clamp) s (fun x => x = s.reach t))
    ∧ (∀ d, s.due (.bankOff (n / 4)) = some d → Completes (.bankOffDelayExpiry (n / 4)) s (fun x =>
        x.due (.bankOff (n / 4)) = none ∧ x.phase (.bank (n / 4)) =
          (if s.phase (.bank (n / 4)) = .offdly then (if s.bankActive (n / 4) = true then .on else .off) else s.phase (.bank (n / 4)))))

/-- Bridges (R307 to R315). -/
def Obligations.BridgesRun : Prop :=
  ∀ (s : State) (n t : Nat), n < 12 →
    let u := OutU.hb n
    let b := s.bridge n
    let rb := ms (s.get (HB.REVBRK n))
    let driven := s.phase u = .on ∨ s.phase u = .parking ∨ s.phase u = .revbrk ∨ s.phase u = .brake
    let m := s.hbMaster n
    let held := driven ∨ (s.phase u = .stalled ∧ (s.bridge m).cut = false)
    let asked := if s.phase (.hb m) = .parking then (if s.keeps (.hb m) = true then (s.out (.hb m)).kept.1 else s.get (HB.PDUTY m))
      else if s.hbPaired m = false ∧ (s.bridge m).cmd = 1 then 4096 else s.keptDuty (.hb m) (s.get (HB.DUTY m))
    let short := fun (d : Nat) => d * 10000000 < 200 * s.get (HB.DEADT m) * 4096 * s.get (HB.PWMF m)
    let shown := if short asked then 0 else if short (4096 - asked) then 4096 else asked
    let chopped := (s.members u).any (fun v => match v with
      | .hb k => (s.bridge k).chopSince.any (fun c => decide (c + ms (s.get (HB.STALLT n)) ≤ t))
      | _ => false) = true
    let counted := s.flag (HB.RIPEN n) = true ∧ s.get (HB.RIPMIN n) ≤ (s.signed (HB.IOUT n)).natAbs
    let near := b.lastRipple.any (fun l => decide (t < l + us 200)) = true
    let far := b.lastRipple.any (fun l => decide (l + ms 50 < t)) = true
    let cut := fun (x : State) => x.phase u = .stalled ∧ (x.bridge m).cut = true ∧ x.get (HB.TRIPS n) = min (s.get (HB.TRIPS n) + 1) (2 ^ (HB.TRIPS n).width - 1)
    let silent := s.flag (HB.RIPEN n) = true ∧ 10 * s.get (HB.STALLI n) ≤ (s.signed (HB.IOUT n)).natAbs
        ∧ max (s.out u).since (b.lastRipple.getD 0) + ms (s.get (HB.STALLT n)) ≤ t
    let tripped := fun (x : State) => x.get (HB.DIR n) = 0
        ∧ (s.get (fRem (s.master u)) ≠ 0 → x.phase u = .tripped ∧ x.due (.retry (s.master u)) = some (t + ms (10 * s.get (fRtrint (s.master u)))))
        ∧ (s.get (fRem (s.master u)) = 0 → x.phase u = .lockoff)
    (∀ below, Completes (.reverseBrakeEnd t n below) s (fun x =>
        let late := b.revStart + 4 * rb ≤ t
        (s.phase u = .revbrk → (below = true ∧ b.revStart + rb ≤ t) ∨ late → x.phase u ≠ .revbrk ∧ x.get (HB.DIR n) = 0 ∧ x.get (HB.PENDEN n) = 0
          ∧ (late → bitAt (x.get (HB.FLT n)) 12 = true) ∧ (¬ late → x.get (HB.FLT n) = s.get (HB.FLT n))
          ∧ ((s.out u).fs = false → s.master u = u → x.phase u = (if s.hbStarts n (s.get (HB.CMD n)) = true then .wait else .brake)))
        ∧ (¬ (s.phase u = .revbrk ∧ ((below = true ∧ b.revStart + rb ≤ t) ∨ late)) → x = s.reach t)))
    ∧ Completes (.parkInputReached t n) s (fun x =>
        if s.phase u = .parking ∧ b.parkBrake = false then (x.bridge n).parkBrake = true ∧ x.due (.parkBrake n) = some (t + rb) ∧ x.due (.park n) = none
          ∧ x.regs = s.regs
        else x = s.reach t)
    ∧ (∀ d, s.due (.park n) = some d → s.phase u = .parking → Completes (.parkTimeout n) s (fun x =>
        bitAt (x.get (HB.FLT n)) 11 = true ∧ (x.bridge n).parkBrake = true ∧ x.due (.parkBrake n) = some (d + rb) ∧ x.phase u = .parking))
    ∧ (∀ d, s.due (.parkBrake n) = some d → s.phase u = .parking → Completes (.parkBrakeEnd n) s (fun x =>
        x.phase u = .stopping ∧ x.get (HB.DIR n) = 0 ∧ x.get (HB.PENDEN n) = s.get (HB.PENDEN n) ∧ (x.bridge n).cmd = 0))
    ∧ Completes (.chopLimit t n) s (fun x =>
        ((s.phase u).conducts = true → (x.bridge n).phaseOpen = true ∧ (x.bridge n).chopSince = (if b.chopSince = none then some t else b.chopSince)
          ∧ (b.chopSince = none → x.get (HB.CHOPPING n) = 1 ∧ bitAt (x.get (HB.FLT n)) 14 = true)
          ∧ (b.chopSince.isSome = true → x.regs = s.regs))
        ∧ ((s.phase u).conducts = false → x = s.reach t))
    ∧ Completes (.bridgePwmPeriod t n) s (fun x =>
        (x.out (.hb m)).dutyAct = shown ∧ (x.bridge n).phaseOpen = false
        ∧ (b.phaseOpen = true → (x.bridge n).chopSince = b.chopSince ∧ x.get (HB.CHOPPING n) = s.get (HB.CHOPPING n))
        ∧ (b.phaseOpen = false → (x.bridge n).chopSince = none ∧ x.get (HB.CHOPPING n) = 0))
    ∧ Completes (.overloadTrip t n) s (fun x =>
        (held → bitAt (x.get (HB.FLT n)) 5 = true) ∧ (driven → tripped x) ∧ (held → ¬ driven → cut x) ∧ (¬ held → x = s.reach t))
    ∧ (∀ hi lo both, Completes (.shortCircuitTrip t n hi lo both) s (fun x =>
        (held → (hi = true → bitAt (x.get (HB.FLT n)) 2 = true) ∧ (lo = true → bitAt (x.get (HB.FLT n)) 3 = true)
          ∧ (both = true → s.hbPaired n = true → bitAt (x.get (HB.FLT n)) 4 = true))
        ∧ (driven → tripped x) ∧ (held → ¬ driven → cut x) ∧ (¬ held → x.regs = s.regs)))
    ∧ Completes (.stallDetect t n) s (fun x =>
        (s.phase u = .on → chopped ∨ silent → bitAt (x.get (HB.FLT n)) 10 = true ∧ x.get (HB.STALLS n) = min (s.get (HB.STALLS n) + 1) (2 ^ (HB.STALLS n).width - 1)
          ∧ x.phase u = (if s.flag (HB.STALLACT n) = true then .stalled else .on)
          ∧ (s.flag (HB.STALLACT n) = true → x.get (HB.DIR n) = 0))
        ∧ (s.phase u ≠ .on ∨ ¬ (chopped ∨ silent) → x = s.reach t))
    ∧ Completes (.rippleCrossing t n) s (fun x =>
        (¬ counted ∨ near → x = s.reach t)
        ∧ (counted → ¬ near → far → x.regs = s.regs ∧ (x.bridge n).lastRipple = some t ∧ (x.bridge n).intervals = [])
        ∧ (counted → ¬ near → ¬ far → (x.bridge n).lastRipple = some t
          ∧ (s.flag (HB.INSEN n) = false ∨ b.intervals.length ≠ 4 → x.get (HB.INSERTED n) = s.get (HB.INSERTED n)
            ∧ x.get (HB.POS n) = (if b.dirLast = 2 then s.get (HB.POS n) + 2 ^ 32 - 1 else s.get (HB.POS n) + 1) % 2 ^ 32)
          ∧ (x.get (HB.POS n) + 2 ^ 32 - s.get (HB.POS n)) % 2 ^ 32 ∈ (if b.dirLast = 2 then [2 ^ 32 - 1, 2 ^ 32 - 2, 2 ^ 32 - 3] else [1, 2, 3])))
    ∧ Completes (.posunc t n) s (fun x =>
        (∀ i, b.intervals.head? = some i → i < ms (s.get (HB.STALLT n)) → x.get (HB.POSUNC n) = 1 ∧ (x.bridge n).lastRipple = none ∧ (x.bridge n).intervals = [])
        ∧ (∀ i, b.intervals.head? = some i → ms (s.get (HB.STALLT n)) ≤ i → x = s.reach t))

/-- The matrix and the headroom of the sinks (R335, R339 to R344). -/
def Obligations.MatrixScans : Prop :=
  ∀ (s : State) (t : Nat),
    let rows := min (s.act LMX.ROWS) 16
    let cols := min (s.act LMX.COLS) 32
    let sc := s.scan
    let q := s.seq
    let allowed := s.flag (Hdr.EN 0x21) = true ∧ ¬ ((s.die 0).inFs = true ∧ (s.die 1).inFs = true)
    let busy := sc.scanning = true ∧ (sc.row < rows ∨ t < sc.slotAt + 100 * s.act LMX.SLOT)
    let free := s.act LMX.SYNC ≠ 1 ∨ sc.msyncLost = true
    let begun := fun (x : State) =>
        x.scan.scanning = true ∧ x.scan.row = 0 ∧ x.scan.slotAt = t ∧ x.scan.startDue = false ∧ x.scan.scans = sc.scans + 1
        ∧ x.seq.restart = false ∧ x.outs = s.outs
        ∧ (q.restart = true → x.scan.front = s.loadFrame q.pos ∧ x.get (LMX.FRAMEACT 0) = q.pos % 64)
        ∧ (q.restart = false → ∀ b, sc.back = some b → x.scan.front = b.2 ∧ x.scan.back = none ∧ x.get (LMX.FRAMEACT 0) = b.1 % 64)
        ∧ (q.restart = false → sc.back = none → x.scan.front = sc.front ∧ x.get (LMX.FRAMEACT 0) = s.get (LMX.FRAMEACT 0))
    (allowed → rows ≠ 0 → ¬ busy → free → Completes (.scanStart t) s (fun x => begun x ∧ x.get LMX.TRUNC = s.get LMX.TRUNC))
    ∧ (¬ allowed ∨ rows = 0 ∨ busy ∨ ¬ free → Completes (.scanStart t) s (fun x => x = s.reach t))
    ∧ (sc.scanning = false → Completes (.rowSlotStart t) s (fun x => x = s.reach t))
    ∧ (sc.scanning = true → ¬ allowed → Completes (.rowSlotStart t) s (fun x => x.scan = { sc with scanning := false, startDue := false } ∧ x.outs = s.outs))
    ∧ (sc.scanning = true → allowed → sc.startDue = true → rows ≠ 0 → Completes (.rowSlotStart t) s (fun x =>
        begun x ∧ (busy → x.get LMX.TRUNC = min (s.get LMX.TRUNC + 1) (2 ^ LMX.TRUNC.width - 1) ∧ bitAt (x.get (Hdr.EVT 0x21)) 17 = true)
        ∧ (¬ busy → x.get LMX.TRUNC = s.get LMX.TRUNC)))
    ∧ (sc.scanning = true → allowed → sc.startDue = false → rows ≤ sc.row → Completes (.rowSlotStart t) s (fun x =>
        x.scan = { sc with scanning := false } ∧ x.outs = s.outs))
    ∧ (sc.scanning = true → allowed → sc.startDue = false → sc.row < rows → Completes (.rowSlotStart t) s (fun x =>
        let ends := q.on = true ∧ q.restart = false ∧ s.get LMX.HOLD ≤ q.scans ∧ q.ended = false
        let shows := fun (f : Nat) => x.scan.back = some (f, s.loadFrame f) ∧ x.seq.pos = f ∧ x.seq.scans = 0
        x.scan.row = sc.row + 1 ∧ x.scan.slotAt = t ∧ x.scan.scanning = true ∧ x.scan.front = sc.front
        ∧ (∀ c, c < cols →
            let p := sc.front.getD (32 * sc.row + c) 0
            let v := (s.cal.pix[32 * sc.row + c]?).elim p (fun g => p * g / 0x8000)
            (x.out (.led c)).onAct = if s.phase (.row sc.row) = .on ∧ (s.out (.row sc.row)).fs = false ∧ (s.out (.led c)).fs = false
              then v * (25 * (s.act LMX.SLOT - s.act LMX.BLANK)) / 1023 else 0)
        ∧ (∀ c, cols ≤ c → x.out (.led c) = s.out (.led c))
        ∧ (sc.row + 1 = rows → ends → q.pos ≠ s.get LMX.LAST → shows ((q.pos + 1) % 64))
        ∧ (sc.row + 1 = rows → ends → q.pos = s.get LMX.LAST → s.flag LMX.LOOP = true → shows (s.get LMX.FIRST))
        ∧ (sc.row + 1 = rows → ends → q.pos = s.get LMX.LAST → s.flag LMX.LOOP = false → x.seq.ended = true ∧ bitAt (x.get (Hdr.EVT 0x21)) 18 = true)
        ∧ (sc.row + 1 ≠ rows ∨ ¬ ends → x.seq = q ∧ x.scan.back = sc.back)))
    ∧ (∀ rising, Completes (.msyncEdge t rising) s (fun x =>
        let sel := s.act LMX.SYNC = 1 ∧ (rising = true ↔ s.act LMX.MPOL = 0) ∧ rows ≠ 0
        (sel → x.scan.msyncLost = false ∧ x.due .msync = some (t + ms (s.get LMX.MSYNCTO)))
        ∧ (sel → allowed → busy → x.scan.startDue = true ∧ x.scan.row = sc.row)
        ∧ (sel → allowed → ¬ busy → begun x)
        ∧ (sel → ¬ allowed → x.scan.scanning = sc.scanning ∧ x.scan.row = sc.row)
        ∧ (¬ sel → x = s.reach t)))
    ∧ (∀ d, s.due .msync = some d → Completes .msyncTimeout s (fun x =>
        x.due .msync = none ∧ (s.act LMX.SYNC = 1 → x.scan.msyncLost = true ∧ bitAt (x.get (Hdr.EVT 0x21)) 16 = true)
        ∧ (s.act LMX.SYNC ≠ 1 → x.scan = s.scan ∧ x.regs = s.regs)))
    ∧ (∀ n v, n < 48 → Completes (.headroomConversion t [(n, v)]) s (fun x =>
        let lit := s.sinkOnAt n t = true
        let sel := (if n < 32 then bitAt (s.get LDS.HRSEL0) n else bitAt (s.get LDS.HRSEL1) (n - 32)) = true ∧ lit
        x.get (LDS.VSINK n) = v % 2 ^ (LDS.VSINK n).width
        ∧ (¬ sel → x.cal = s.cal) ∧ ((s.phase (.led n)).conducts = false ∨ ((s.out (.led n)).fs = false ∧ (s.out (.led n)).onAct = 0) → x.cal = s.cal)
        ∧ (sel → s.cal.hrMin = none → x.cal.hrMin = some (v, n))
        ∧ (sel → ∀ m, s.cal.hrMin = some m → x.cal.hrMin = some (if v < m.1 then (v, n) else m))))

/-- Digital inputs (R360 to R371). -/
def Obligations.InputsDebounce : Prop :=
  ∀ (s : State) (t : Nat),
    let grid := fun (q : Nat) => if q ≤ s.splitZero then q else s.splitZero + (q - s.splitZero + 9) / 10 * 10
    let sampled := fun (n from0 : Nat) (raw : Bool) (x : State) =>
      let live := s.dinRuns n = true ∧ s.flag (DIN.VALID n) = true
      let same := raw = s.flag (DIN.CHSTAT_LEVEL n)
      let d := s.din n
      x.get (DIN.CHSTAT_RAW n) = (if s.dinRuns n = true then b2n raw else s.get (DIN.CHSTAT_RAW n))
      ∧ x.get (DIN.CHSTAT_LEVEL n) = s.get (DIN.CHSTAT_LEVEL n)
      ∧ (¬ live → (x.din n).run = d.run ∧ x.get (DIN.GLITCH n) = s.get (DIN.GLITCH n))
      ∧ (live → same → (x.din n).run = none ∧ x.get (DIN.GLITCH n) =
          if d.run.isSome = true ∧ (∀ r, d.run = some r → r < t) then min (s.get (DIN.GLITCH n) + 1) (2 ^ (DIN.GLITCH n).width - 1) else s.get (DIN.GLITCH n))
      ∧ (live → ¬ same →
          (∀ r, d.run = some r → (x.din n).run = some r ∧ x.get (DIN.GLITCH n) = s.get (DIN.GLITCH n))
          ∧ (d.run = none → d.undo = none → (x.din n).run = some from0 ∧ x.get (DIN.GLITCH n) = s.get (DIN.GLITCH n))
          ∧ (∀ q r g, d.run = none → d.undo = some (q, r, g) →
              (x.din n).run = some (if t ≤ q then r else from0)
              ∧ x.get (DIN.GLITCH n) = if t ≤ q then g % 2 ^ (DIN.GLITCH n).width else s.get (DIN.GLITCH n)))
    (∀ n mv, n < 64 → Completes (.inputRawChange t n mv) s (fun x =>
        let pin := s.comparator n mv (s.din n).pin
        let vb := (s.signed SUP.VBATA).toNat
        (x.din n).mv = mv ∧ (x.din n).pin = pin
        ∧ (s.get (DIN.TYPE n) = 0 → (12000 ≤ mv → pin = true) ∧ (mv ≤ 8500 → pin = false))
        ∧ (s.get (DIN.TYPE n) = 1 → (9000 ≤ mv → pin = true) ∧ (mv ≤ 5800 → pin = false))
        ∧ (s.get (DIN.TYPE n) = 2 → 0 < vb → (6 * vb ≤ mv → pin = true) ∧ (mv ≤ 4 * vb → pin = false))
        ∧ (s.get (DIN.WET n) ≠ 2 → (x.din n).sample = pin ∧ sampled n (grid t) (pin != s.flag (DIN.INV n)) x)
        ∧ (s.get (DIN.WET n) = 2 → x.regs = s.regs)))
    ∧ (∀ p volts k, p < 2 → k < 32 →
        let n := 32 * p + k
        let point := us (s.get (DIN.PW p)) ≤ t + us 2 ∧ s.onGrid (t + us 2 - us (s.get (DIN.PW p))) (250000 * s.get (DIN.PER p)) = true
        let pin := match volts.find? (fun e => decide (e.1 = k)) with
          | some e => s.comparator n e.2 (s.din n).pin
          | none => (s.din n).pin
        (¬ point → Completes (.wettingPulse t p volts) s (fun x => x = s.reach t))
        ∧ (point → Completes (.wettingPulse t p volts) s (fun x =>
            (s.get (DIN.WET n) = 2 → s.dinRuns n = true → (x.din n).sample = pin ∧ (x.din n).pin = pin ∧ sampled n t (pin != s.flag (DIN.INV n)) x)
            ∧ (s.get (DIN.WET n) ≠ 2 ∨ s.dinRuns n = false → x.din n = s.din n ∧ x.get (DIN.CHSTAT_RAW n) = s.get (DIN.CHSTAT_RAW n)))))
    ∧ (∀ p k, p < 2 → k < 32 → ∀ d, s.due (.inputInit p) = some d → Completes (.inputInitSample p) s (fun x =>
        let n := 32 * p + k
        let raw := b2n ((if s.get (DIN.WET n) = 2 then (s.din n).sample else (s.din n).pin) != s.flag (DIN.INV n))
        x.get (DIN.CHSTAT_RAW n) = raw ∧ x.get (DIN.CHSTAT_LEVEL n) = raw ∧ x.get (DIN.VALID n) = 1 ∧ (x.din n).run = none
        ∧ x.due (.inputInit p) = none))
    ∧ (∀ n, n < 64 →
        let done := fun r => grid (max (r + us (s.get (DIN.DEB n))) (s.din n).debAt)
        (∀ r, (s.din n).run = some r → s.dinRuns n = true → done r ≤ t → s.tickPast (done r) = false → Completes (.debouncedChange t n) s (fun x =>
          let lv := !s.flag (DIN.CHSTAT_LEVEL n)
          let d := s.din n
          x.get (DIN.CHSTAT_LEVEL n) = b2n lv ∧ bitAt (x.get (Hdr.EVT (0x24 + n / 32))) (n % 32) = true
          ∧ x.din n = { d with run := none, undo := none, changes := min (d.changes + 1) 255, rise := d.rise || lv, fall := d.fall || !lv }
          ∧ (s.flag (DIN.EN (n / 32)) = false ∨ bitAt (s.get (DIN.EDGEQ n)) (if lv then 0 else 1) = false → x.queues = s.queues)))
        ∧ (∀ r, (s.din n).run = some r → s.dinRuns n = true → done r ≤ t → s.tickPast (done r) = true → Completes (.debouncedChange t n) s (fun x =>
            x = { s.reach t with ahead := s.ahead ++ [.level t n] }))
        ∧ ((s.din n).run = none → Completes (.debouncedChange t n) s (fun x => x = s.reach t))
        ∧ (∀ r, (s.din n).run = some r → s.dinRuns n = false ∨ t < done r →
            Completes (.debouncedChange t n) s (fun x => x = s.reach t)))

/-- Timers and PWM bases (R216, R328, R384 to R405). -/
def Obligations.TimersCount : Prop :=
  ∀ (s : State) (t : Nat),
    (∀ u edge,
      let acc := (s.tmr u).acc + 0x10000
      let per := if s.flag (TMR.PERPEND u) then s.get (TMR.PER u) else (s.tmr u).per
      let c := s.get (TMR.CNT u)
      let above := (s.tmr u).per < c
      let down := s.get (TMR.DIR u) = 1
      let source := (match edge with
        | some (tin, rising) => decide (s.get (TMR.SRC u) = 4 ∧ s.get (TMR.TIN u) = tin
            ∧ (s.get (TMR.EDGE u) = 2 ∨ s.get (TMR.EDGE u) = if rising then 0 else 1))
        | none => decide (s.get (TMR.SRC u) < 3)) = true
      (4 ≤ u ∨ ¬ source ∨ s.get (TMR.FOLLOW u) = 3 ∨ s.tmrCounts u t = false ∨ s.tmrRestarted u t = true →
        Completes (.timerCountStep t ⟨u, edge⟩) s (fun x => x = s.reach t))
      ∧ (u < 4 → source → s.get (TMR.FOLLOW u) ≠ 3 → s.tmrCounts u t = true → s.tmrRestarted u t = false →
        (acc < s.get (TMR.PSC u) → Completes (.timerCountStep t ⟨u, edge⟩) s (fun x => (x.tmr u).acc = acc ∧ x.regs = s.regs))
        ∧ (s.get (TMR.PSC u) ≤ acc → s.tmrFollowers u = [] →
          Completes (.timerCountStep t ⟨u, edge⟩) s (fun x =>
            let upd := above ∨ (if down then c = 0 else c = (s.tmr u).per)
            (x.tmr u).acc = acc - s.get (TMR.PSC u)
            ∧ (upd → x.get (TMR.CNT u) = (if down then per else 0) ∧ bitAt (x.get (Hdr.EVT (0x28 + u))) 8 = true
                ∧ (x.tmr u).per = per ∧ x.get (TMR.PERPEND u) = 0 ∧ (x.tmr u).updates = min ((s.tmr u).updates + 1) 65535)
            ∧ (above → x.get (TMR.ROLLOV u) = 1 ∧ bitAt (x.get (Hdr.EVT (0x28 + u))) 9 = true)
            ∧ (¬ upd → x.get (TMR.CNT u) = (if down then c - 1 else c + 1) ∧ (x.tmr u).per = (s.tmr u).per)
            ∧ (s.get (TMR.FOLLOW u) = 4 → ((x.tmr u).waiting = true ↔ upd))))))
    ∧ (∀ tin rising, s.tickPast (t - 8) = true → Completes (.captureEdge t tin rising) s (fun x =>
        x = { s.reach t with ahead := s.ahead ++ [.capture t tin rising] }))
    ∧ (∀ tin rising n, n < 32 → s.tickPast (t - 8) = false → Completes (.captureEdge t tin rising) s (fun x =>
        let e := s.get (TMR.CEDGE n)
        let sel := s.get (TMR.MODE n) = 2 ∧ s.get (TMR.CSRC n) = tin ∧ (e = 2 ∨ e = (if rising then 0 else 1)) ∧ s.flag (Hdr.EN (0x28 + n / 8)) = true
        (sel → x.get (TMR.CAP n) = s.get (TMR.CNT (n / 8)) ∧ x.get (TMR.CAPT n) = 1
          ∧ x.get (TMR.CCNT n) = min (s.get (TMR.CCNT n) + 1) (2 ^ (TMR.CCNT n).width - 1) ∧ bitAt (x.get (Hdr.EVT (0x28 + n / 8))) (n % 8) = true)
        ∧ (¬ sel → x.get (TMR.CAP n) = s.get (TMR.CAP n) ∧ x.get (TMR.CCNT n) = s.get (TMR.CCNT n) ∧ x.tch n = s.tch n)))
    ∧ (∀ k, k < 4 → s.flag (Hdr.EN 0x2C) = true → Completes (.pwmPeriodStart t k) s (fun x =>
        let per := s.act (STG.PER k)
        (∀ n, n < 56 → s.lsMode n = 1 → s.get (LSW.PWMB (s.lsMaster n)) = k →
          let d := s.keptDuty (.ls (s.lsMaster n)) (s.get (LSW.DUTY (s.lsMaster n)))
          let on := d * per / 4096
          (x.out (.ls n)).dutyAct = (if on < 5000 then 0 else if per - on < 5000 then 4096 else d)
          ∧ (x.out (.ls n)).phaseAct = s.phaseOffset (.ls (s.lsMaster n)) k)
        ∧ (∀ n, n < 56 → s.lsMode n ≠ 1 ∨ s.get (LSW.PWMB (s.lsMaster n)) ≠ k → x.out (.ls n) = s.out (.ls n))
        ∧ (∀ n, n < 48 → s.mxCols ≤ n → s.get (LDS.PWMB n) = k →
          let d := s.keptDuty (.led n) (s.get (LDS.DUTY n))
          let on := (2 * d * per + 65535) / 131070
          (x.out (.led n)).dutyAct = d ∧ (x.out (.led n)).onAct = (if d = 65535 then per else if on < 50 then 0 else on)
          ∧ (x.out (.led n)).phaseAct = s.phaseOffset (.led n) k)
        ∧ x.regs = s.regs ∧ (k < s.stg.starts.length → x.stg.starts.getD k none = some t)))
    ∧ (∀ k, s.flag (Hdr.EN 0x2C) = false ∨ 4 ≤ k → Completes (.pwmPeriodStart t k) s (fun x => x = s.reach t))

/-- The Marshal (R243 to R261). -/
def Obligations.MarshalKeepsItsBudget : Prop :=
  ∀ (s : State) (t : Nat),
    Completes (.stagingComplete t) s (fun x =>
      (s.get SUP.VBINV = 0 → (x.msh.heat.map x.peakWeight).sum ≤ x.heatBudget x.pulseReserve ∧ x.get MSH.FALLBACK = 0)
      ∧ (s.get SUP.VBINV = 1 → ((x.msh.heat.filter (fun w => decide (w.item < 56))).map
            (fun w => inrushLimit w.item * (x.members (.ls w.item)).length)).sum ≤ 75 ∧ x.get MSH.FALLBACK = s.get MSH.FALLBACK)
      ∧ (x.get MSH.OVSUSP = 1 ∨ (s.get MSH.FREEZE = 1 ∧ s.get SUP.VBINV = 0) ∨ s.stride.nextTick < s.msh.notBefore → x.msh.heat = [])
      ∧ s.msh.waiting.all (fun w => (x.msh.heat ++ x.msh.waiting).any (fun v => decide (v.item = w.item ∧ v.units = w.units))) = true
      ∧ x.get MSH.CONTUSE = min s.contuse 511 ∧ x.msh.peak = s.msh.peak ∧ x.msh.steady = s.msh.steady)
    ∧ (∀ d, s.due .learn = some d → ∀ l, s.msh.learns.head? = some l → Completes .rsrcLearn s (fun x =>
        x.msh.learns = s.msh.learns.tail ∧ x.due .learn = s.msh.learns.tail.head?.map (·.due)
        ∧ (400000 ≤ l.max → 0 < l.dI → s.get MSH.FALLBACK = 0 →
            x.get MSH.RLEARN = min (roundDiv (7 * s.get MSH.RLEARN * l.dI + 2000000 * (l.vpre - l.vmin)) (8 * l.dI)).toNat 4095)
        ∧ (l.max < 400000 ∨ l.dI = 0 ∨ s.get MSH.FALLBACK = 1 → x.regs = s.regs)))
    ∧ (∀ d, s.due .recover = some d → Completes .freezeRecovery s (fun x =>
        x.due .recover = none ∧ x.get MSH.FREEZE = 0 ∧ (s.get MSH.FREEZE = 1 → bitAt (x.get (Hdr.EVT 0x0C)) 1 = true)
        ∧ (s.get MSH.FREEZE = 0 → x.regs = s.regs)))
    ∧ (∀ i d, s.due (.release i) = some d → Completes (.marshalReleasePoint i) s (fun x =>
        x.due (.release i) = none ∧ x.regs = s.regs
        ∧ x.msh = { s.msh with peak := s.msh.peak.filter (fun e => e.1 != i), steady := s.msh.steady.filter (fun e => e.1 != i) }))

/-- The Lane link and the patterns of the power dies (R231 to R236, R694). -/
def Obligations.DiesFailSafe : Prop :=
  ∀ (s : State) (t d : Nat), d < 2 →
    let ok := if d = 0 then LNK.PDAOK else LNK.PDBOK
    let loss := if d = 0 then LNK.LOSSA else LNK.LOSSB
    let crc := if d = 0 then LNK.CRCA else LNK.CRCB
    let die := s.die d
    let units := allUnits.filter (fun u => decide (udie u = d))
    (∀ a b, Completes (.laneLinkSlot t a b) s (fun x =>
        let r := if d = 0 then a else b
        let lost := r ≠ .valid ∧ die.misses = 7 ∧ s.get ok = 1
        (r = .valid → s.get ok = 1 → (x.die d).misses = 0 ∧ x.due (.watchdog d) = some (t + ms (s.get LNK.TIME)) ∧ x.get ok = 1)
        ∧ (r ≠ .valid → (x.die d).misses = min (die.misses + 1) 8 ∧ x.due (.watchdog d) = s.due (.watchdog d))
        ∧ (lost → x.get ok = 0 ∧ bitAt (x.get (Hdr.EVT 0x51)) d = true ∧ x.get loss = min (s.get loss + 1) (2 ^ loss.width - 1))
        ∧ (¬ lost → x.get ok = s.get ok ∧ x.get loss = s.get loss)
        ∧ x.get crc = (if r = .failed then min (s.get crc + 1) (2 ^ crc.width - 1) else s.get crc)))
    ∧ Completes (.laneLinkResync t d) s (fun x =>
        x.get ok = 1 ∧ bitAt (x.get (Hdr.EVT 0x51)) (2 + d) = true ∧ (x.die d).misses = 0 ∧ x.due (.watchdog d) = some (t + ms (s.get LNK.TIME))
        ∧ (die.wdog = true → units.all (fun u => decide ((protBits u).lnkfs = 31) || bitAt (x.get (fFlt u)) (protBits u).lnkfs) = true))
    ∧ (∀ e, s.due (.watchdog d) = some e → Completes (.laneWatchdogExpiry d) s (fun x =>
        (x.die d).wdog = true
        ∧ (die.inFs = false → units.all (fun u => (x.out u).fs) = true ∧ x.due (.fsHeat d) = some e ∧ x.get (fFsBit d) = 1
            ∧ (∀ n, n < 56 → udie (.ls n) = d → (s.out (.ls n)).fs = false → x.get (LSW.STATE n) = phaseCode (.ls n) .failsafe ∧ x.get (LSW.FSACT n) = 1))
        ∧ (die.inFs = true → x.outs = s.outs ∧ x.regs = s.regs)))
    ∧ (∀ sel, Completes (.lhSelectChange t d sel) s (fun x =>
        (x.die d).sel = sel % 4
        ∧ (die.inFs = true → die.lockout = false → die.gnd = false → ∀ n, n < 56 → udie (.ls n) = d → s.master (.ls n) = .ls n →
            let code := (s.act (LSWC.FSPAT (sel % 4) (n / 16)) >>> (2 * (n % 16))) % 4
            (code = 1 → (x.out (.ls n)).fsWant = true) ∧ (code = 0 → (x.out (.ls n)).fsWant = false ∧ (x.phase (.ls n)).conducts = false))
        ∧ (die.inFs = false ∨ die.lockout = true ∨ die.gnd = true → x.outs = s.outs ∧ x.regs = s.regs)))
    ∧ (∀ e, s.due (.fsHeat d) = some e → die.lockout = false → die.gnd = false → Completes (.failsafeHeat d) s (fun x =>
        let ready := die.heats.filter (fun u => decide (s.phase u = .wait) && (s.out u).fs && (s.out u).fsWant)
        let began := (ready.filter (fun u => decide (u ∉ (x.die d).heats))).filterMap (fun u => match u with
          | .ls n => some (inrushLimit n * (s.members u).length)
          | _ => none)
        (began.sum ≤ 75 ∨ began.length ≤ 1) ∧ (x.die d).heats.all (fun u => decide (u ∈ ready)) = true
        ∧ x.due (.fsHeat d) = (if (x.die d).heats = [] then none else some (e + us 200))))
    ∧ (∀ e, s.due (.fsHeat d) = some e → die.lockout = true ∨ die.gnd = true → Completes (.failsafeHeat d) s (fun x =>
        x = (s.disarm (.fsHeat d)).reach e))

/-- Reverse battery, loss of ground and lockout of the power dies (R222, R665 to R669). -/
def Obligations.DiesLoseSupply : Prop :=
  ∀ (s : State) (t d : Nat), d < 2 →
    let ok := if d = 0 then LNK.PDAOK else LNK.PDBOK
    let loss := if d = 0 then LNK.LOSSA else LNK.LOSSB
    let die := s.die d
    let units := allUnits.filter (fun u => decide (udie u = d))
    let off := fun (x : State) => units.all (fun u => decide (x.phase u = .off)) = true ∧ x.get ok = 0 ∧ x.get loss = min (s.get loss + 1) (2 ^ loss.width - 1)
    let restarted := fun (x : State) => units.all (fun u => !x.latched u && decide (s.master u = u → x.get (fRem u) = s.get (fRetry u) % 2 ^ (fRem u).width)) = true
        ∧ (x.die d).lockout = false ∧ (x.die d).gnd = false ∧ (x.die d).reset = true ∧ (x.due (.fsHeat d)).isSome = true
    (s.get SUP.REVERSE = 1 → Completes (.reverseBattery t) s (fun x => x = s.reach t))
    ∧ (s.get SUP.REVERSE = 0 → Completes (.reverseBattery t) s (fun x =>
        x.get SUP.REVERSE = 1 ∧ x.get SUP.REVCNT = min (s.get SUP.REVCNT + 1) (2 ^ SUP.REVCNT.width - 1) ∧ x.reverseAt = some t
        ∧ (∀ n, n < 56 → (x.out (.ls n)).revOn = ((s.out (.ls n)).revOn || s.flag (LSW.RVON n)))
        ∧ (∀ n, n < 16 → (x.out (.vd n)).revOn = true ∧ (n < 12 → (x.out (.hb n)).revOn = (s.out (.hb n)).revOn))
        ∧ (∀ b, b < 4 → (x.out (.bank b)).revOn = true)
        ∧ allUnits.all (fun u => !(x.out u).lim && (x.due (.testPhase u)).isNone && decide (x.phase u = s.phase u)) = true))
    ∧ Completes (.groundLoss t d) s (fun x =>
        if die.gnd = true then x = s.reach t else off x ∧ (x.die d).gnd = true ∧ x.get SUP.GNDLOSS = 1
          ∧ x.get SUP.GNDCNT = min (s.get SUP.GNDCNT + 1) (2 ^ SUP.GNDCNT.width - 1))
    ∧ Completes (.groundReturn t d) s (fun x =>
        if die.gnd = true then restarted x ∧ x.get SUP.GNDLOSS = (if (s.die (1 - d)).gnd = true then s.get SUP.GNDLOSS else 0) else x = s.reach t)
    ∧ Completes (.powerDieLockout t d) s (fun x =>
        if die.lockout = true then x = s.reach t else off x ∧ (x.die d).lockout = true
          ∧ x.get SUP.UVLOCNT = min (s.get SUP.UVLOCNT + 1) (2 ^ SUP.UVLOCNT.width - 1) ∧ x.get (if d = 0 then SUP.UVLOA else SUP.UVLOB) = 1)
    ∧ Completes (.powerDieRestart t d) s (fun x =>
        if die.lockout = true then restarted x ∧ x.get (if d = 0 then SUP.UVLOA else SUP.UVLOB) = 0 else x = s.reach t)

/-- The saturating instructions (R168). -/
def Obligations.SaturatingResults : Prop :=
  ∀ (s : State) (t : Nat) (e : PacIns),
    let sgn := fun (r : Ready) (x : Nat) => (BitVec.ofNat r.w x).toInt
    let lo := fun (r : Ready) => -((2 : Int) ^ (r.w - 1))
    let hi := fun (r : Ready) => (2 : Int) ^ (r.w - 1) - 1
    let sat := fun (r : Ready) (x : Int) (c : Bool) =>
      ({ val := (BitVec.ofInt r.w (if x < lo r then lo r else if hi r < x then hi r else x)).toNat, c := some c,
         v := some (decide (x < lo r ∨ hi r < x)) } : Effect)
    let holds := fun (i : Instr) (r : Ready) (x : Effect) =>
      (r.Fits x → Completes i s (r.Did x))
      ∧ (r.Arms x 9 → x.v = some true → Completes i s (r.Trapped 9))
    (∀ r, s.ready t 0x0C e .binary = some r → holds (.addS t e) r (sat r (sgn r r.a + sgn r r.b) (decide (2 ^ r.w ≤ r.a + r.b))))
    ∧ (∀ r, s.ready t 0x0D e .binary = some r → holds (.subS t e) r (sat r (sgn r r.a - sgn r r.b) (decide (r.a < r.b))))
    ∧ (∀ r, s.ready t 0x0F e .unary = some r → holds (.negS t e) r (sat r (-sgn r r.a) (decide (r.a ≠ 0))))
    ∧ (∀ r, s.ready t 0x11 e .unary = some r → holds (.absS t e) r (sat r (Int.ofNat (sgn r r.a).natAbs) false))

/-- Shifts (R174). -/
def Obligations.ShiftResults : Prop :=
  ∀ (s : State) (t : Nat) (e : PacIns),
    let done := fun (i : Instr) (r : Ready) (x : Effect) => r.Fits x → Completes i s (r.Did x)
    let bits := fun (r : Ready) => BitVec.ofNat r.w r.a
    let eff := fun (v : Nat) (c : Option Bool) => ({ val := v, c := c, v := some false } : Effect)
    (∀ r, s.ready t 0x20 e .binary = some r → done (.shl t e) r
      (if r.b = 0 then eff r.a none
       else if r.b < r.w then eff (bits r <<< r.b).toNat (some ((bits r).getLsbD (r.w - r.b)))
       else if r.b = r.w then eff 0 (some ((bits r).getLsbD 0)) else eff 0 (some false)))
    ∧ (∀ r, s.ready t 0x21 e .binary = some r → done (.shr t e) r
      (if r.b = 0 then eff r.a none
       else if r.b < r.w then eff (bits r >>> r.b).toNat (some ((bits r).getLsbD (r.b - 1)))
       else if r.b = r.w then eff 0 (some ((bits r).getLsbD (r.w - 1))) else eff 0 (some false)))
    ∧ (∀ r, s.ready t 0x22 e .binary = some r → done (.sar t e) r
      (if r.b = 0 then eff r.a none
       else if r.b < r.w then eff ((bits r).sshiftRight r.b).toNat (some ((bits r).getLsbD (r.b - 1)))
       else eff (if (bits r).msb then 2 ^ r.w - 1 else 0) (some (bits r).msb)))

/-- Rotations and leading zeros (R175, R176). -/
def Obligations.RotateResults : Prop :=
  ∀ (s : State) (t : Nat) (e : PacIns),
    let done := fun (i : Instr) (r : Ready) (x : Effect) => r.Fits x → Completes i s (r.Did x)
    let bits := fun (r : Ready) => BitVec.ofNat r.w r.a
    let eff := fun (v : Nat) (c : Option Bool) => ({ val := v, c := c, v := some false } : Effect)
    (∀ r, s.ready t 0x23 e .binary = some r → done (.rol t e) r
      (let x := (bits r).rotateLeft (r.b % r.w); if r.b % r.w = 0 then eff r.a none else eff x.toNat (some (x.getLsbD 0))))
    ∧ (∀ r, s.ready t 0x24 e .binary = some r → done (.ror t e) r
      (let x := (bits r).rotateRight (r.b % r.w); if r.b % r.w = 0 then eff r.a none else eff x.toNat (some (x.getLsbD (r.w - 1)))))
    ∧ (∀ r, s.ready t 0x25 e .unary = some r → done (.clz t e) r
      (if r.a = 0 then eff r.w (some true)
       else eff ((List.range r.w).findIdx (fun i => bitAt r.a (r.w - 1 - i))) (some false)))

/-- Divisions (R170, R171). -/
def Obligations.DivisionResults : Prop :=
  ∀ (s : State) (t : Nat) (e : PacIns),
    let sgn := fun (r : Ready) (x : Nat) => (BitVec.ofNat r.w x).toInt
    let holds := fun (i : Instr) (r : Ready) (x : Effect) =>
      (r.Fits x → Completes i s (r.Did x))
      ∧ (r.Arms x 8 → x.dz = true → Completes i s (r.Trapped 8))
    let eff := fun (v : Nat) (o z : Bool) => ({ val := v, c := some false, v := some o, dz := z } : Effect)
    let minByM1 := fun (r : Ready) => sgn r r.a = -((2 : Int) ^ (r.w - 1)) ∧ sgn r r.b = -1
    let bitsOfInt := fun (r : Ready) (x : Int) => (BitVec.ofInt r.w x).toNat
    (∀ r, s.ready t 0x15 e .binary = some r → holds (.div t e) r
      (if r.b = 0 then eff (2 ^ r.w - 1) false true else eff (r.a / r.b) false false))
    ∧ (∀ r, s.ready t 0x16 e .binary = some r → holds (.divs t e) r
      (if r.b = 0 then eff (bitsOfInt r (if 0 ≤ sgn r r.a then -1 else 1)) false true
       else if minByM1 r then eff r.a true false else eff (bitsOfInt r ((sgn r r.a).tdiv (sgn r r.b))) false false))
    ∧ (∀ r, s.ready t 0x17 e .binary = some r → holds (.rem t e) r
      (if r.b = 0 then eff r.a false true else eff (r.a % r.b) false false))
    ∧ (∀ r, s.ready t 0x18 e .binary = some r → holds (.rems t e) r
      (if r.b = 0 then eff r.a false true
       else if minByM1 r then eff 0 true false else eff (bitsOfInt r ((sgn r r.a).tmod (sgn r r.b))) false false))

/-- Arithmetic, logic and comparisons of the Pacer (R163, R166, R167, R169, R173). -/
def Obligations.ArithmeticResults : Prop :=
  ∀ (s : State) (t : Nat) (e : PacIns),
    let sgn := fun (r : Ready) (x : Nat) => (BitVec.ofNat r.w x).toInt
    let out := fun (r : Ready) (x : Int) => some (decide (x < -((2 : Int) ^ (r.w - 1)) ∨ (2 : Int) ^ (r.w - 1) ≤ x))
    let holds := fun (i : Instr) (r : Ready) (x : Effect) =>
      (r.Fits x → Completes i s (r.Did x))
      ∧ (r.Arms x 9 → x.v = some true → Completes i s (r.Trapped 9))
    let done := fun (i : Instr) (r : Ready) (x : Effect) => r.Fits x → Completes i s (r.Did x)
    let eff := fun (r : Ready) (v : Int) (c o : Option Bool) => ({ val := (BitVec.ofInt r.w v).toNat, c := c, v := o } : Effect)
    let nz := fun (r : Ready) (x : BitVec r.w) => ({ val := x.toNat } : Effect)
    let c := fun (r : Ready) => b2n (r.flag 2)
    let sum := fun (r : Ready) (k : Nat) => eff r (r.a + r.b + k) (some (decide (2 ^ r.w ≤ r.a + r.b + k))) (out r (sgn r r.a + sgn r r.b + k))
    let diff := fun (r : Ready) (k : Nat) => eff r ((r.a : Int) - r.b - k) (some (decide (r.a < r.b + k))) (out r (sgn r r.a - sgn r r.b - k))
    (∀ r, s.ready t 0x08 e .binary = some r → holds (.add t e) r (sum r 0))
    ∧ (∀ r, s.ready t 0x09 e .binary = some r → holds (.addc t e) r (sum r (c r)))
    ∧ (∀ r, s.ready t 0x0A e .binary = some r → holds (.sub t e) r (diff r 0))
    ∧ (∀ r, s.ready t 0x0B e .binary = some r → holds (.subc t e) r (diff r (c r)))
    ∧ (∀ r, s.ready t 0x0E e .unary = some r → holds (.neg t e) r (eff r (-(r.a : Int)) (some (decide (r.a ≠ 0))) (out r (-sgn r r.a))))
    ∧ (∀ r, s.ready t 0x10 e .unary = some r → holds (.abs t e) r
        (eff r (Int.ofNat (sgn r r.a).natAbs) (some false) (out r (Int.ofNat (sgn r r.a).natAbs))))
    ∧ (∀ r, s.ready t 0x12 e .binary = some r → holds (.mul t e) r
        (eff r (r.a * r.b) (some (decide (2 ^ r.w ≤ r.a * r.b))) (out r (sgn r r.a * sgn r r.b))))
    ∧ (∀ r, s.ready t 0x13 e .binary = some r → done (.mulhu t e) r (eff r (r.a * r.b / 2 ^ r.w) (some false) (some false)))
    ∧ (∀ r, s.ready t 0x14 e .binary = some r → done (.mulhs t e) r
        (eff r ((sgn r r.a * sgn r r.b) / (2 : Int) ^ r.w) (some false) (some false)))
    ∧ (∀ r, s.ready t 0x1B e .binary = some r → done (.andOp t e) r (nz r (BitVec.ofNat r.w r.a &&& BitVec.ofNat r.w r.b)))
    ∧ (∀ r, s.ready t 0x1C e .binary = some r → done (.orOp t e) r (nz r (BitVec.ofNat r.w r.a ||| BitVec.ofNat r.w r.b)))
    ∧ (∀ r, s.ready t 0x1D e .binary = some r → done (.xor t e) r (nz r (BitVec.ofNat r.w r.a ^^^ BitVec.ofNat r.w r.b)))
    ∧ (∀ r, s.ready t 0x1E e .binary = some r → done (.bic t e) r (nz r (BitVec.ofNat r.w r.a &&& ~~~BitVec.ofNat r.w r.b)))
    ∧ (∀ r, s.ready t 0x1F e .unary = some r → done (.notOp t e) r (nz r (~~~BitVec.ofNat r.w r.a)))
    ∧ (∀ r, s.ready t 0x26 e .binary = some r → done (.minOp t e) r { val := if r.a < r.b then r.a else r.b })
    ∧ (∀ r, s.ready t 0x27 e .binary = some r → done (.maxOp t e) r { val := if r.a < r.b then r.b else r.a })
    ∧ (∀ r, s.ready t 0x28 e .binary = some r → done (.mins t e) r { val := if sgn r r.a < sgn r r.b then r.a else r.b })
    ∧ (∀ r, s.ready t 0x29 e .binary = some r → done (.maxs t e) r { val := if sgn r r.a < sgn r r.b then r.b else r.a })
    ∧ (∀ r, s.ready t 0x19 e .compare = some r →
        let x := diff r 0
        (r.flag 9 = false ∨ x.v = some false → Completes (.cmp t e) s (fun u => u.mem = r.run.st.mem
          ∧ u.ctx r.str = { r.run.ctx with pc := r.npc, fl := (u.ctx r.str).fl } ∧ flagsAre r.w r.run.ctx.fl (u.ctx r.str).fl x))
        ∧ (r.flag 9 = true → stackOk r.run = true → x.v = some true → Completes (.cmp t e) s (r.Trapped 9)))
    ∧ (∀ r, s.ready t 0x1A e .single = some r → Completes (.tst t e) s (fun u => u.mem = r.run.st.mem
          ∧ u.ctx r.str = { r.run.ctx with pc := r.npc, fl := (u.ctx r.str).fl }
          ∧ flagsAre r.w r.run.ctx.fl (u.ctx r.str).fl { val := r.a, c := some false, v := some false }))

/-- Moves, stack and control transfers (R163 to R165, R178, R179, R182 to R184). -/
def Obligations.MovesAndJumps : Prop :=
  ∀ (s : State) (t : Nat) (e : PacIns),
    let moved := fun (i : Instr) (r : Ready) (v : Nat) => (r.run.put r.dst v).quit = false → Completes i s ((r.run.put r.dst v).Went r.npc)
    let down := fun (r : Ready) => (r.run.ctx.sp + 2 ^ 32 - 4) % 2 ^ 32
    let pushed := fun (i : Instr) (r : Ready) (v pc : Nat) => (r.run.save (down r) 4 v).quit = false →
      Completes i s (((r.run.save (down r) 4 v).setCtx (fun c => { c with sp := down r })).Went pc)
    let up := fun (r : Run) (k : Nat) => r.setCtx (fun c => { c with sp := (c.sp + k) % 2 ^ 32 })
    (∀ r, s.ready t 0x01 e .unary = some r → moved (.mov t e) r r.a)
    ∧ (∀ r, s.ready t 0x02 e .unary = some r → moved (.movz t e) r r.a)
    ∧ (∀ r, s.ready t 0x03 e .unary = some r → moved (.movs t e) r (((BitVec.ofNat r.w r.a).signExtend 32).toNat))
    ∧ (∀ r, s.ready t 0x04 e .unary = some r → moved (.lea t e) r r.a)
    ∧ (∀ r, s.ready t 0x07 e .single = some r → moved (.clr t e) r 0)
    ∧ (∀ r, s.ready t 0x05 e .single = some r → pushed (.push t e) r r.a r.npc)
    ∧ (∀ r, s.ready t 0x06 e .single = some r →
        let v := r.run.load r.run.ctx.sp 4
        v.2.quit = false → ((up v.2 4).put r.dst v.1).quit = false → Completes (.pop t e) s (((up v.2 4).put r.dst v.1).Went r.npc))
    ∧ (∀ r, s.ready t 0x2A e .single = some r → Completes (.jmp t e) s (r.run.Went r.a))
    ∧ (∀ r, s.ready t 0x2B e .single = some r → pushed (.call t e) r r.npc r.a)
    ∧ (∀ r, s.ready t 0x2C e .single = some r →
        let n := r.flag 0
        let z := r.flag 1
        let c := r.flag 2
        let v := r.flag 3
        let cond := ([z, !z, c, !c, n, !n, v, !v, !c && !z, c || z, n == v, n != v, !z && n == v, z || n != v, true] : List Bool).getD r.d.sub false
        Completes (.bcc t e) s (r.run.Went (if cond = true then r.a else r.npc)))
    ∧ (∀ r, s.ready t 0x2D e .unary = some r →
        let v := (BitVec.ofNat r.w r.dst.val - 1).toNat
        (r.run.put r.dst v).quit = false → Completes (.djnz t e) s ((r.run.put r.dst v).Went (if v = 0 then r.npc else r.a)))
    ∧ (∀ r, s.ready t 0 (withSub e 3) .single = some r →
        let v := r.run.load r.run.ctx.sp 4
        v.2.quit = false → Completes (.ret t e) s ((up v.2 4).Went v.1))
    ∧ (∀ r, s.ready t 0 (withSub e 4) .single = some r →
        let rc := r.run.load r.run.ctx.sp 4
        let fl := rc.2.load ((r.run.ctx.sp + 4) % 2 ^ 32) 4
        let pc := fl.2.load ((r.run.ctx.sp + 8) % 2 ^ 32) 4
        let valid := fl.1 &&& 0xFFFC7CE0 = 0 ∧ (r.str = true → fl.1 &&& 0x38000 = 0)
        pc.2.quit = false →
          (valid → Completes (.rete t e) s (((up pc.2 12).setCtx (fun c => { c with rc := rc.1, fl := fl.1 })).Went pc.1))
          ∧ (¬ valid → stackOk pc.2 = true → Completes (.rete t e) s (TrappedAt r.str 6 r.run.pc)))

/-- The system group, events and SAFE (R142 to R148, R157, R179 to R183). -/
def Obligations.SystemGroupActs : Prop :=
  ∀ (s : State) (t : Nat) (e : PacIns),
    (∀ r, s.ready t 0 (withSub e 0) .single = some r → Completes (.nop t e) s (r.run.Went r.npc))
    ∧ (∀ r, s.ready t 0 (withSub e 9) .single = some r →
        (r.str = false → Completes (.ei t e) s ((r.run.setCtx (fun c => { c with fl := setBit c.fl 15 })).Went r.npc))
        ∧ (r.str = true → stackOk r.run = true → Completes (.ei t e) s (TrappedAt true 6 r.run.pc)))
    ∧ (∀ r, s.ready t 0 (withSub e 10) .single = some r → Completes (.di t e) s (fun u =>
        u.mem = s.mem ∧ bitAt (u.ctx r.str).fl 15 = false ∧ u.ctx r.str = { r.run.ctx with pc := r.npc, fl := (u.ctx r.str).fl }
        ∧ (bitAt r.run.ctx.fl 15 = false → (u.ctx r.str).fl = r.run.ctx.fl)))
    ∧ (∀ r, s.ready t 0 (withSub e 8) .single = some r → stackOk r.run = true → Completes (.trap t e) s (TrappedAt r.str 10 r.npc))
    ∧ (∀ r, s.ready t 0 (withSub e 7) .single = some r →
        (s.get DBG.ATTACHED = 1 → Completes (.bkpt t e) s (fun u => u.get DBG.HALTED = 1 ∧ u.get DBG.CAUSE = (if s.pac.stepping then 3 else 2)
          ∧ u.ctx r.str = { r.run.ctx with pc := r.npc }))
        ∧ (s.get DBG.ATTACHED = 0 → stackOk r.run = true → Completes (.bkpt t e) s (TrappedAt r.str 11 r.run.pc)))
    ∧ (∀ r, s.ready t 0 (withSub e 1) .single = some r →
        (r.str = true → Completes (.fin t e) s (fun u => u.stride.started = false ∧ u.stride.fin = true
          ∧ u.get STR.FINOFF = ((s.reach t).splitAt t - s.stride.tick) % 2 ^ STR.FINOFF.width ∧ u.get STR.OVRSEQ = 0))
        ∧ (r.str = false → stackOk r.run = true → Completes (.fin t e) s (TrappedAt false 7 r.run.pc)))
    ∧ (∀ r, s.ready t 0 (withSub e 2) .single = some r →
        (r.str = false → Completes (.wait t e) s (fun u => u.pac.waiting = true ∧ u.pwr.state ≠ .run ∧ u.ctx false = { r.run.ctx with pc := r.npc }))
        ∧ (r.str = true → stackOk r.run = true → Completes (.wait t e) s (TrappedAt true 7 r.run.pc)))
    ∧ (∀ op str, 0x2E ≤ op ∨ (op = 0 ∧ 11 ≤ e.sub) → s.front t 1 = some str → e.badFetch ≠ some 0 → e.mismatch = none →
        let pc := (s.ctx str).pc
        pc % 2 = 0 → canFetch (pc % 2 ^ 32) = true → ([4, 8, 12] : List Nat).all (fun k => !isPage (((s.ctx str).sp + 2 ^ 32 - k) % 2 ^ 32)) = true →
        Completes (.undefinedOpcode t op e) s (TrappedAt str 5 pc))
    ∧ (∀ j, j < 64 →
        let lv := fun (k : Nat) => if s.line k then s.get (PAC.LVL (k / 16)) / 4 ^ (k % 16) % 4 else 0
        let c := s.pac.svc
        s.boot.phase = .done → s.get DBG.HALTED = 0 → s.stride.started = false → s.pac.started = true → c.stopped = false
          → s.pac.mismatch = false → s.pwr.state = .run ∨ s.pwr.state = .idle → c.fl / 65536 % 4 < lv j
          → (List.range 64).all (fun k => decide (lv k < lv j ∨ (lv k = lv j ∧ j ≤ k))) = true →
        let held := (c.pc, c.sp) ∈ s.pac.replAt ∧ c.rc ≠ 0
        (held → Completes (.serviceEventEntry t ⟨false, none⟩) s (fun u => u = s.reach t))
        ∧ (¬ held → bitAt c.fl 15 = true → c.sp % 4 = 0 → 12 ≤ c.sp → c.sp ≤ 0x180000 →
          let v := (512 * s.get PAC.VBAR + 4 * (16 + j)) % 2 ^ 32
          let m := ((s.setLe (c.sp - 4) 4 c.pc).setLe (c.sp - 8) 4 c.fl).setLe (c.sp - 12) 4 c.rc
          v < 0x180000 → m.le v 4 % 2 = 0 → canFetch (m.le v 4) = true →
          Completes (.serviceEventEntry t ⟨false, none⟩) s (fun u => u.mem = m.mem ∧ u.pac.waiting = false
            ∧ u.ctx false = { c with pc := m.le v 4, sp := c.sp - 12, fl := clrBit (c.fl % 65536) 15 + 65536 * lv j }))
        ∧ (¬ held → bitAt c.fl 15 = false → s.pac.waiting = true → Completes (.serviceEventEntry t ⟨false, none⟩) s (fun u =>
            u.pac = { s.pac with waiting := false } ∧ u.pwr.state = .run ∧ u.mem = s.mem))
        ∧ (¬ held → bitAt c.fl 15 = false → s.pac.waiting = false → Completes (.serviceEventEntry t ⟨false, none⟩) s (fun u => u = s.reach t)))
    ∧ (s.boot.phase = .done → s.get DBG.HALTED = 0 → s.pac.mismatch = false → s.pac.safePend = true →
        let str := s.stride.started
        (if str then s.pac.str.stopped = false ∧ t < s.splitZero + 4 * s.budgetPoint else s.pac.started = true ∧ (s.pwr.state = .run ∨ s.pwr.state = .idle))
        → ([4, 8, 12] : List Nat).all (fun k => !isPage (((s.ctx str).sp + 2 ^ 32 - k) % 2 ^ 32)) = true →
        Completes (.safeTrap t ⟨false, none⟩) s (fun u => TrappedAt str 1 (s.ctx str).pc u ∧ u.pac.safePend = false))

/-- Repeat prefixes (R187 to R190). -/
def Obligations.PrefixesRepeat : Prop :=
  ∀ (s : State) (t : Nat) (e i : PacIns) (locked : Bool) (n : Nat), i.mismatch = none →
    let cmd := fun (op k : Nat) => if locked = true then Instr.repl t e op i k else Instr.rep t e op i k
    ∀ b, s.front t 2 = some b →
    let c := s.ctx b
    let ins := (c.pc + 2) % 2 ^ 32
    fetchFault c.pc 1 e.badFetch = none → (decodePac 0 (withSub e (if locked = true then 6 else 5))).2.toOption.isSome = true →
    (∀ op, fetchFault ins (decodePac op i).1 i.badFetch = none →
      let after := (ins + 2 * (decodePac op i).1) % 2 ^ 32
      ∀ d, (decodePac op i).2.toOption = some d →
        let barred := d.op = 0 ∨ (0x2A ≤ d.op ∧ d.op ≤ 0x2D) ∨ d.opds.any (fun o => decide (o.2.2.mode = 0xC ∧ o.2.2.nib = 5)) = true ∨ (locked = true ∧ 256 < c.rc)
        (¬ barred → c.rc = 0 → Completes (cmd op n) s (fun u => u.ctx b = { c with pc := after } ∧ u.mem = s.mem))
        ∧ (barred → ([4, 8, 12] : List Nat).all (fun k => !isPage ((c.sp + 2 ^ 32 - k) % 2 ^ 32)) = true →
            Completes (cmd op n) s (fun u => TrappedAt b 6 c.pc u ∧ (u.ctx b).rc = c.rc)))
    ∧ (fetchFault ins (decodePac 1 i).1 i.badFetch = none → ∀ d, (decodePac 1 i).2.toOption = some d → c.rc ≠ 0 → (locked = true → c.rc ≤ 256) →
        d.opds.any (fun o => decide (o.2.2.mode = 0xC ∧ o.2.2.nib = 5)) = false →
        let r : Run := { st := s.reach t, str := b, t := t, pc := ins, npc := c.pc, acc := 0, bad := i.badAccess, mis := none, log := [], trap := none, post := none,
                         gone := false, halt := false }
        let g := r.operands d.opds
        let p := g.2.put (nth g.1 1) (nth g.1 0).val
        g.2.quit = false → p.quit = false →
          Completes (cmd 1 1) s (fun u => u.mem = p.st.mem ∧ u.ctx b =
            { p.ctx with rc := p.ctx.rc - 1, pc := if p.ctx.rc = 1 then (ins + 2 * (decodePac 1 i).1) % 2 ^ 32 else c.pc }))

/-- Strobe groups (R224 to R228, R259). Where the exposure period equals the pulse width the base duty is a free value up to
DUTY (the model's choice, log entry 69); an exposure that ends drops pulses to come (DEDUCED, log entry 70). -/
def Obligations.StrobePulses : Prop :=
  ∀ (s : State) (t g : Nat), g < 4 →
    let grp := s.strobe g
    let src := s.get (LSWC.SRC g)
    let chans := s.strobeChannels g
    let has := fun (l : List (Nat × Nat)) (n : Nat) => l.any (fun e => decide (e.1 = n))
    let fits := fun (n : Nat) => s.get MSH.FREEZE = 0 ∧ s.get MSH.OVSUSP = 0 ∧ s.get MSH.FALLBACK = 0
        ∧ s.pulseWeight n ≤ min (s.get MSH.PKMAX - s.pkuse) s.headroom
    let ready := fun (n : Nat) => s.phase (.ls n) = .on ∧ (s.out (.ls n)).fs = false
        ∧ (s.members (.ls n)).all (fun v => decide (s.get (fLim v) = 0 ∧ s.signed (fTj v) + 8 * s.get LSWC.PULSEMARGIN ≤ 1320)) = true
    let locked := fun (k : Nat) => s.get (LSWC.SRC k) ≠ 2 ∨ s.get TSY.LOCK = 1
    let fired := fun (x : State) (n d : Nat) => has x.msh.pulses n = true ∧ has x.msh.late n = false ∧ x.due (.lateMax n) = none
        ∧ x.due (.pulseEnd n) = some (d + us (s.get (LSWC.WIDTH (s.get (LSW.SG n)))))
        ∧ (x.out (.ls n)).pcount = ((s.out (.ls n)).pcount + 1) % 2 ^ 32
    let skipped := fun (x : State) (n : Nat) => bitAt (x.get (fFlt (.ls n))) 10 = true ∧ has x.msh.late n = false ∧ x.due (.lateMax n) = none
    let base := fun (n : Nat) (b : Option Nat) =>
        let d := s.get (LSW.DUTY n)
        let w := 8 * us (s.get (LSWC.WIDTH (s.get (LSW.SG n))))
        (s.groupPeriod (s.get (LSW.SG n)) = none → b = some d)
        ∧ (∀ p, s.groupPeriod (s.get (LSW.SG n)) = some p →
            (w < p → b = some (min ((d * p - 4096 * w) / (p - w)) d)) ∧ (p < w → b = some d) ∧ (p = w → b.any (fun k => decide (k ≤ d)) = true))
    (∀ high, Completes (.camsyncEdge t g high) s (fun x =>
        let begins := high != s.flag (LSWC.POL g)
        let acts := s.flag (LSWC.EN g) = true ∧ src < 2 ∧ high ≠ grp.level
        let es := (t :: grp.edges).take 9
        (x.strobe g).level = high
        ∧ (¬ acts ∨ (begins = false ∧ src = 0) → x.strobe g = { grp with level := high } ∧ x.regs = s.regs ∧ x.msh = s.msh)
        ∧ (acts → begins = true → x.strobe g =
            { edges := es, level := high, due := if es.length = 9 then grp.due ++ [t + us (s.get (LSWC.DELAY g))] else grp.due } ∧ x.regs = s.regs)
        ∧ (acts → begins = false → src = 1 → (x.strobe g).due = [] ∧ (x.strobe g).edges = grp.edges
          ∧ chans.all (fun n => !has s.msh.late n || bitAt (x.get (fFlt (.ls n))) 10) = true
          ∧ chans.all (fun n => !has x.msh.late n) = true
          ∧ (s.msh.late = [] → chans.all (fun n => !has x.msh.pulses n && (!has s.msh.pulses n || (x.due (.pulseEnd n)).isNone)) = true))))
    ∧ Completes (.strobeScheduleInstant t g) s (fun x =>
        let hit := s.flag (LSWC.EN g) = true ∧ src = 2 ∧ s.schedHits g t = true
        (hit → s.get TSY.LOCK = 1 → (x.strobe g).due = grp.due ++ [t] ∧ x.regs = s.regs)
        ∧ (hit → s.get TSY.LOCK = 0 → x.strobe g = grp ∧ x.get (LSWC.SKIPPED g) = min (s.get (LSWC.SKIPPED g) + 1) (2 ^ (LSWC.SKIPPED g).width - 1))
        ∧ (¬ hit → x = s.reach t))
    ∧ (∀ d, grp.due.head? = some d → d ≤ t → ¬ locked g → Completes (.sprintPulse t g) s (fun x =>
        (x.strobe g).due = grp.due.tail ∧ x.msh = s.msh ∧ x.get (LSWC.SKIPPED g) = min (s.get (LSWC.SKIPPED g) + 1) (2 ^ (LSWC.SKIPPED g).width - 1)))
    ∧ (∀ d, grp.due.head? = some d → d ≤ t → locked g → Completes (.sprintPulse t g) s (fun x =>
        (x.strobe g).due = grp.due.tail
        ∧ (∀ n, n ∈ chans → ¬ ready n → skipped x n)
        ∧ (∀ n, n ∈ chans → ready n → fired x n d ∨ ((n, d) ∈ x.msh.late ∧ x.due (.lateMax n) = some (d + us (s.get (LSWC.LATEMAX g)))))
        ∧ (∀ n, chans.head? = some n → ready n → (fits n → fired x n d) ∧ (¬ fits n → (n, d) ∈ x.msh.late))
        ∧ x.get (LSWC.SKIPPED g) = min (s.get (LSWC.SKIPPED g) + (chans.filter (fun n => decide (¬ ready n))).length) (2 ^ (LSWC.SKIPPED g).width - 1)))
    ∧ (grp.due = [] ∨ grp.due.any (fun d => decide (d ≤ t)) = false → Completes (.sprintPulse t g) s (fun x =>
        x.strobes = s.strobes
        ∧ (s.msh.late = [] → x = s.reach t)
        ∧ (∀ e, s.msh.late.head? = some e →
            (fits e.1 ∧ ready e.1 ∧ locked (s.get (LSW.SG e.1)) → fired x e.1 t ∧ bitAt (x.get (fFlt (.ls e.1))) 11 = true)
            ∧ (s.msh.late.length = 1 → ¬ (fits e.1 ∧ ready e.1 ∧ locked (s.get (LSW.SG e.1))) → x = s.reach t))))
    ∧ (∀ n, n < 56 → ∀ d, s.due (.pulseEnd n) = some d → Completes (.sprintPulseEnd n) s (fun x =>
        base n (x.out (.ls n)).base
        ∧ (s.msh.late = [] → x.msh.pulses = s.msh.pulses.filter (fun e => decide (e.1 ≠ n)) ∧ x.due (.pulseEnd n) = none ∧ x.regs = s.regs)))
    ∧ (∀ n, n < 56 → ∀ d, s.due (.lateMax n) = some d → Completes (.pulseLateExpiry n) s (fun x =>
        skipped x n ∧ x.msh.pulses = s.msh.pulses
        ∧ x.get (LSWC.SKIPPED (s.get (LSW.SG n))) = min (s.get (LSWC.SKIPPED (s.get (LSW.SG n))) + 1) (2 ^ (LSWC.SKIPPED (s.get (LSW.SG n))).width - 1)))

/-- Conversions of temperature and of currents and voltages (R202 to R207, R211, R215, R222, R238, R332). -/
def Obligations.ConversionsAct : Prop :=
  ∀ (s : State) (t d : Nat) (ref : Int), d < 2 →
    let others := fun (s : State) (f : Nat → Fld) (u : OutU) => ((s.members u).map (fun w => if w = u then 0 else match w with
          | .ls k | .vd k => s.get (f k)
          | _ => 0)).sum
    (∀ u tj, udie u ≠ d → ref < 1200 → Completes (.temperatureConversion t d ref [⟨u, tj⟩]) s (fun x =>
        x.regs = s.regs ∧ x.outs = s.outs ∧ (x.die d).ref = ref))
    ∧ (∀ u tj, u ∈ allUnits → udie u = d → ref < 1200 → Completes (.temperatureConversion t d ref [⟨u, tj⟩]) s (fun x =>
        let b := protBits u
        let limit : Int := match u with
          | .ls n => 1320 - 40 * (s.out (.ls n)).drating
          | _ => 1320
        let sink := match u with
          | .led _ => true
          | _ => false
        let high := limit ≤ tj
        let differs := sink = false ∧ ref + 480 ≤ tj
        let runs := (s.phase u).conducts = true ∧ (s.out u).revOn = false ∧ s.phase (s.master u) ≠ .failsafe
        x.get (fTj u) = unsignedOf 16 tj % 2 ^ (fTj u).width ∧ (x.die d).ref = ref
        ∧ (∀ n, u = .ls n → x.get (LSW.TDIFF n) = unsignedOf 16 (tj - ref) % 2 ^ (LSW.TDIFF n).width)
        ∧ (runs → high → x.get (fLatch u) = 1 ∧ bitAt (x.get (fFlt u)) b.otabs = true)
        ∧ (runs → differs → x.get (fLatch u) = 1 ∧ bitAt (x.get (fFlt u)) b.otdiff = true)
        ∧ (runs → ¬ high → ¬ differs → s.get (fLatch u) = 0 → x.phase u = s.phase u ∧ x.get (fLatch u) = 0)
        ∧ ((s.phase u).conducts = false → (s.out u).revOn = false → s.get (fLatch u) = 1 →
            (tj < limit - 160 → sink = true ∨ tj - ref < 320 → x.get (fLatch u) = 0)
            ∧ (limit - 160 ≤ tj ∨ (sink = false ∧ 320 ≤ tj - ref) → x.get (fLatch u) = 1 ∧ x.phase u = s.phase u))
        ∧ ((s.out u).revOn = true → (x.out u).revOn = decide (tj < 1320) ∧ x.phase u = s.phase u)))
    ∧ (∀ n tj, n < 48 → ref < 1200 → Completes (.temperatureConversion t (udie (.led n)) ref [⟨.led n, tj⟩]) s (fun x =>
        ((s.phase (.led n)).conducts = true ∧ 1200 ≤ tj ∧ tj < 1320 → x.get (LDS.FOLDING n) = 1)
        ∧ ((s.phase (.led n)).conducts = false ∨ tj < 1200 → x.get (LDS.FOLDING n) = 0)))
    ∧ (1200 ≤ ref → Completes (.temperatureConversion t d ref []) s (fun x =>
        ∀ n, n < 56 → (udie (.ls n) = d → s.phase (.ls n) = .start → s.phase (s.master (.ls n)) = .start →
            x.phase (.ls n) = .on ∧ bitAt (x.get (fFlt (.ls n))) 7 = true)
          ∧ (udie (.ls n) ≠ d → x.phase (.ls n) = s.phase (.ls n))))
    ∧ (∀ n i v ron, n < 56 → Completes (.senseConversion t [⟨.ls n, i, v, ron⟩]) s (fun x =>
        let u := OutU.ls n
        let j := unsignedOf 16 i
        let lim := s.steadyLimit n
        let due := (s.out u).ronDue = true ∧ s.phase u = .on ∧ (s.out u).since + ms 2 ≤ t
        let fits := lim ≤ 40 * j ∧ 40 * j ≤ 9 * lim ∧ s.get (LSW.LIMITING n) = 0 ∧ s.lsMode n = 0
        x.get (LSW.VOUT n) = unsignedOf 16 v
        ∧ x.get (LSW.IOUT n) = (if s.pairMaster u = true then min (j + others s LSW.IOUT u) 0xFFFF else j)
        ∧ (due → fits → x.get (LSW.RON n) = ron % 2 ^ (LSW.RON n).width)
        ∧ (due → (x.out u).ronDue = false)
        ∧ (¬ due ∨ ¬ fits → x.get (LSW.RON n) = s.get (LSW.RON n))))
    ∧ (∀ n i v ron, n < 16 → unsignedOf 16 i < 0x2000 → Completes (.senseConversion t [⟨.vd n, i, v, ron⟩]) s (fun x =>
        x.get (VDB.IMEAS n) = (if s.pairMaster (.vd n) = true then min (unsignedOf 16 i + others s VDB.IMEAS (.vd n)) 0x1FFF else unsignedOf 16 i)))
    ∧ (∀ n i v ron, n < 12 → Completes (.senseConversion t [⟨.hb n, i, v, ron⟩]) s (fun x =>
        x.get (HB.IOUT n) = unsignedOf 16 i ∧ x.get (HB.VOUT n) = unsignedOf 16 v))
    ∧ (∀ n i v ron, n < 48 → Completes (.senseConversion t [⟨.led n, i, v, ron⟩]) s (fun x =>
        x.get (LDS.IOUT n) = unsignedOf 16 i ∧ x.get (LDS.VSINK n) = unsignedOf 16 v))
    ∧ (∀ b i v ron, b < 4 → Completes (.senseConversion t [⟨.bank b, i, v, ron⟩]) s (fun x =>
        x.get (VDB.IBANK b) = unsignedOf 16 i % 2 ^ (VDB.IBANK b).width ∧ x.get (VDB.VBANK b) = unsignedOf 16 v % 2 ^ (VDB.VBANK b).width))

/-- Ends of page stops, and the Marathon monitor (R57, R58, R561 to R570). -/
def Obligations.StopsEndAndMonitorActs : Prop :=
  ∀ (s : State) (t : Nat),
    let awake := s.pwr.state = .run ∨ s.pwr.state = .idle
    (∀ p, p < 0x52 →
      let stopping := s.get (Hdr.STOPPING p) = 1
      let waits := p ∈ s.resetWait
      let plain := p ≠ 0x0E ∧ p ≠ 0x21 ∧ (p < 0x30 ∨ 0x37 < p) ∧ (p < 0x40 ∨ 0x46 < p)
      let ended := fun (x : State) => x.get (Hdr.STOPPING p) = 0
          ∧ (¬ waits → x.get (Hdr.PENDEN p) = 0 ∧ (s.get (Hdr.PENDEN p) = 1 → p ≠ 0x39 → x.get (Hdr.EN p) = 1)
              ∧ (s.get (Hdr.PENDEN p) = 0 → x.get (Hdr.EN p) = s.get (Hdr.EN p)))
          ∧ (waits → p ∉ x.resetWait ∧ ((∀ e ∈ s.img, e.1 / 0x1000 ≠ p) → x.get (Hdr.SRST p) = 0))
      (¬ stopping → ¬ waits → Completes (.unitStopComplete t p) s (fun x => x = s.reach t))
      ∧ (stopping ∨ waits → plain → s.pageStops p = true → Completes (.unitStopComplete t p) s (fun x => x = s.reach t))
      ∧ (stopping ∨ waits → plain → s.pageStops p = false → Completes (.unitStopComplete t p) s ended)
      ∧ (stopping → ¬ waits → p = 0x21 → s.scan.scanning = true → s.scan.slotAt + s.scan.slotLen ≤ t →
          Completes (.unitStopComplete t p) s (fun x => ended x ∧ x.scan.scanning = false))
      ∧ (stopping → ¬ waits → p = 0x21 → s.scan.scanning = true → t < s.scan.slotAt + s.scan.slotLen →
          Completes (.unitStopComplete t p) s (fun x => x = s.reach t)))
    ∧ (∀ k, k < 8 → s.get (CAN.STATE k) = 6 → s.get (Hdr.STOPPING (0x30 + k)) = 1 → 0x30 + k ∉ s.resetWait → s.get (Hdr.PENDEN (0x30 + k)) = 0 →
        s.get (Hdr.EN (0x30 + k)) = 0 → Completes (.unitStopComplete t (0x30 + k)) s (fun x =>
          x.get (CAN.STATE k) = 0 ∧ x.get (Hdr.STOPPING (0x30 + k)) = 0 ∧ x.get (Hdr.EN (0x30 + k)) = 0))
    ∧ (∀ m0 m1 m2 m3 r, ¬ awake → Completes (.canarySweep t m0 m1 m2 m3 r) s (fun x => x = s.reach t))
    ∧ (∀ m0 m1 m2 m3 r, awake → Completes (.canarySweep t m0 m1 m2 m3 r) s (fun x =>
        let m := min (min m0 m1) (min m2 m3)
        let v := s.get AGE.VREQ
        let low := m < s.get AGE.MLO
        let up := (1, 0xFF, min (s.get AGE.VMAX) (v + 5 * s.get AGE.STEP))
        x.get AGE.MARGIN = min m 255 ∧ x.get AGE.ROSCMIN = r % 2 ^ AGE.ROSCMIN.width
        ∧ ([m0, m1, m2, m3] : List Nat).getD (x.get AGE.WORST) 0 = m
        ∧ (low → bitAt (x.get (Hdr.EVT 8)) 1 = true)
        ∧ (low → s.get AGE.VEN = 1 → v < s.get AGE.VMAX → up ∈ x.ageing.pend)
        ∧ (¬ low ∨ s.get AGE.VEN = 0 ∨ s.get AGE.VMAX ≤ v → x.ageing = s.ageing)
        ∧ ((low ∧ v = s.get AGE.VMAX) ∨ m < s.get AGE.MCRIT → x.fcr.inbox = s.fcr.inbox ++ [(0x22, 0)])
        ∧ (¬ low → ¬ m < s.get AGE.MCRIT → x.fcr = s.fcr)))
    ∧ (s.get AGE.MINUTES < s.ageing.nextAt → Completes (.replanPoint t) s (fun x => x = s.reach t))
    ∧ (s.ageing.nextAt ≤ s.get AGE.MINUTES → Completes (.replanPoint t) s (fun x =>
        x.ageing.nextAt = s.get AGE.MINUTES + 60 * s.get AGE.RPPER
        ∧ (s.get AGE.DREN = 0 → s.get AGE.VEN = 0 → s.get AGE.SLEWEN = 0 → x.ageing.pend = s.ageing.pend)
        ∧ (s.get AGE.DREN = 0 → s.get AGE.SLEWEN = 0 → s.get AGE.VEN = 1 → s.get AGE.MHI < s.get AGE.MARGIN → s.get AGE.VMIN < s.get AGE.VREQ →
            (2, 0xFF, max (s.get AGE.VMIN) (s.get AGE.VREQ - 5 * s.get AGE.STEP)) ∈ x.ageing.pend)
        ∧ (s.get AGE.SLEWEN = 0 → s.get AGE.DREN = 1 → ∀ n, n < 56 →
            let k := min 4 (b2n (decide (100 ≤ s.drift n)) + b2n (decide (200 ≤ s.drift n)) + b2n (decide (300 ≤ s.drift n)) + b2n (decide (49152 ≤ s.unitLife n)))
            (s.ageOf n).d < k → (3, n, k) ∈ x.ageing.pend)))
    ∧ (∀ cd a b, Completes (.operatingMinute t cd a b) s (fun x =>
        (awake ∨ s.pwr.state = .doze → x.get AGE.MINUTES = min (s.get AGE.MINUTES + 1) (2 ^ AGE.MINUTES.width - 1)
          ∧ x.ageing.lifeCd = s.ageing.lifeCd + minuteLife (cd - 800) ∧ x.ageing.lifeA = s.ageing.lifeA + minuteLife (a - 1000)
          ∧ x.ageing.lifeB = s.ageing.lifeB + minuteLife (b - 1000))
        ∧ (¬ (awake ∨ s.pwr.state = .doze) → x = s.reach t)))

/-- Frames and errors on a CAN bus (R414 to R435, R444). After a reception from above 127 REC is a free value within 119 to 127. -/
def Obligations.CanFramesAct : Prop :=
  ∀ (s : State) (t x sof : Nat), x < 8 →
    let st := s.get (CAN.STATE x)
    let live := (st = 2 ∨ st = 3 ∨ st = 6) ∧ s.get CLK.FAILWAIT = 0
    let tec := s.get (CAN.TEC x)
    let rec_ := s.get (CAN.REC x)
    let plus := fun (f : Fld) (k : Nat) => min (s.get f + k) (2 ^ f.width - 1)
    let next := fun (f : Nat) => s.bytes (txAddr x f ((s.txHead x f + 1) % 32)) 80
    let popped := fun (y : State) (f : Nat) => s.get (txFill x f) ≤ 1 ∨ s.txBad x (next f) = false →
      y.get (txFill x f) = s.get (txFill x f) - 1 ∧ (y.can x).enq f = ((s.can x).enq f).tail
    let failed := fun (y : State) (f : Nat) =>
      if s.get (CAN.ONESHOT x) = 1 then popped y f ∧ y.get (CAN.TXFAIL x) = plus (CAN.TXFAIL x) 1 ∧ bitAt (y.get (Hdr.EVT (0x30 + x))) 3 = true
      else y.get (txFill x f) = s.get (txFill x f) ∧ (y.can x).enq f = (s.can x).enq f ∧ (y.can x).tried f = s.splitAt sof
          ∧ y.get (CAN.TXFAIL x) = s.get (CAN.TXFAIL x)
    let mode := fun (y : State) (te re : Nat) =>
      (st = 2 ∨ st = 3 → te ≤ 255 → y.get (CAN.STATE x) = (if 128 ≤ te ∨ 128 ≤ re then 3 else 2))
      ∧ (st = 2 ∨ st = 3 → 255 < te → y.get (CAN.BOCNT x) = plus (CAN.BOCNT x) 1 ∧ (y.get (CAN.STATE x) = 4 ∨ y.get (CAN.STATE x) = 5)
          ∧ (bitAt (s.get CANC.AREN) x = false → y.get (CAN.STATE x) = 4))
      ∧ (st = 6 → s.get (Hdr.PENDEN (0x30 + x)) = 0 → s.get (Hdr.EN (0x30 + x)) = 0 → y.get (CAN.STATE x) = 0)
    let takes := fun (f : CanFrame) => live ∧ s.get (CAN.MODE x) ≠ 2 ∧ (f.fdf = true → s.get (CAN.FDEN x) = 1)
    (¬ live → (∀ f, Completes (.canFrameReceived t x sof f) s (fun y => y = s.reach t))
      ∧ Completes (.canFrameSent t x sof) s (fun y => y = s.reach t)
      ∧ Completes (.canArbitrationLost t x sof) s (fun y => y = s.reach t)
      ∧ ∀ code te re b, Completes (.canError t x code te re sof b) s (fun y => y = s.reach t))
    ∧ (∀ f, ¬ takes f → Completes (.canFrameReceived t x sof f) s (fun y => y = s.reach t))
    ∧ (∀ f, takes f → Completes (.canFrameReceived t x sof f) s (fun y =>
        let a := canRam x
        let hit := (List.range (min (s.get (CAN.NUMFILT x)) 128)).find? (fun n => s.canMatch x n f)
        let fifo := fun (k b : Nat) =>
          let n := s.get (rxFill x k)
          let i := (s.get (rxGet x k) + n) % 64
          let el := canElement f b (s.splitAt sof) (s.splitAt t)
          (n < 64 → y.get (rxFill x k) = n + 1 ∧ (f.data.length ≤ 64 → y.bytes (rxAddr x k i) 80 = el))
          ∧ (64 ≤ n → y.get (rxFill x k) = n ∧ y.get (CAN.RXLOST x) = plus (CAN.RXLOST x) 1 ∧ bitAt (y.get (Hdr.EVT (0x30 + x))) 8 = true)
        y.get (CAN.RXCNT x) = plus (CAN.RXCNT x) 1 ∧ (y.can x).rx = min ((s.can x).rx + 1) 65535 ∧ y.get (CAN.LEC x) = 0
        ∧ (rec_ ≤ 127 → y.get (CAN.REC x) = rec_ - 1) ∧ (127 < rec_ → 119 ≤ y.get (CAN.REC x) ∧ y.get (CAN.REC x) ≤ 127)
        ∧ (∀ n, hit = some n → s.le (a + 16 * n + 8) 1 = 2 → fifo 0 n)
        ∧ (∀ n, hit = some n → s.le (a + 16 * n + 8) 1 = 3 → fifo 1 n)
        ∧ (hit = none → s.get (CAN.NOMATCH x) = 1 → fifo 0 0x80)
        ∧ (hit = none → s.get (CAN.NOMATCH x) = 2 → fifo 1 0x80)
        ∧ (hit = none → s.get (CAN.NOMATCH x) = 0 → y.get (rxFill x 0) = s.get (rxFill x 0) ∧ y.get (rxFill x 1) = s.get (rxFill x 1))))
    ∧ (live → s.txChoice x sof = none → Completes (.canFrameSent t x sof) s (fun y => y = s.reach t))
    ∧ (live → ∀ f, s.txChoice x sof = some f → Completes (.canFrameSent t x sof) s (fun y =>
        popped y f ∧ y.get (CAN.TXCNT x) = plus (CAN.TXCNT x) 1 ∧ y.get (CAN.TEC x) = tec - 1 ∧ y.get (CAN.LEC x) = 0
        ∧ bitAt (y.get (Hdr.EVT (0x30 + x))) 2 = true
        ∧ (s.get (CAN.MODE x) ≠ 2 → mode y (tec - 1) rec_ ∧ y.get (CAN.RXCNT x) = s.get (CAN.RXCNT x))
        ∧ (s.get (CAN.MODE x) = 2 → y.get (CAN.RXCNT x) = plus (CAN.RXCNT x) 1)
        ∧ (s.get (CAN.EVEN x) = 0 → s.get (CAN.MODE x) ≠ 2 → y.queues = s.queues)))
    ∧ (live → s.txChoice x sof = none → Completes (.canArbitrationLost t x sof) s (fun y => y = s.reach t))
    ∧ (live → ∀ f, s.txChoice x sof = some f → Completes (.canArbitrationLost t x sof) s (fun y =>
        failed y f ∧ y.get (CAN.STATE x) = st ∧ y.get (CAN.TEC x) = tec ∧ y.get (CAN.REC x) = rec_))
    ∧ (live → ∀ code te re b, Completes (.canError t x code te re sof b) s (fun y =>
        let te' := min 511 (tec + te)
        let re' := min 255 (rec_ + re)
        y.get (CAN.LEC x) = code % 8 ∧ y.get (CAN.TEC x) = te' ∧ y.get (CAN.REC x) = re' ∧ mode y te' re'
        ∧ (∀ f, s.txChoice x sof = some f → b = true → failed y f)
        ∧ (s.txChoice x sof = none ∨ b = false → y.get (txFill x 0) = s.get (txFill x 0) ∧ y.get (txFill x 1) = s.get (txFill x 1)
          ∧ y.get (CAN.TXFAIL x) = s.get (CAN.TXFAIL x))))
    ∧ (∀ f, f < 2 →
        let k := s.get (txQueue x f)
        let may := s.get (txFed x f) = 1 ∧ s.get (BQ.HWC k) = 0x30 + x ∧ s.get (txFill x f) < 32 ∧ s.strideQueue k = false
        (¬ may ∨ (s.queue k).entries = [] → Completes (.canTxFetch t x f) s (fun y => y = s.reach t))
        ∧ (may → ∀ e, (s.queue k).entries.head? = some e → s.txBad x (s.txElement x e) = false → Completes (.canTxFetch t x f) s (fun y =>
            (y.queue k).entries = (s.queue k).entries.tail ∧ y.get (txFill x f) = s.get (txFill x f) + 1
            ∧ y.get (txPut x f) = (s.get (txPut x f) + 1) % 32 ∧ (y.can x).enq f = (s.can x).enq f ++ [t])))

/-- States of CAN controllers and keep-alive channels (R414, R415, R440, R444 to R457). -/
def Obligations.CanStatesAndSleep : Prop :=
  ∀ (s : State) (t x : Nat), x < 8 →
    let pg := 0x30 + x
    let st := s.get (CAN.STATE x)
    let nm := s.get (NMK.STATE x)
    let live := (st = 2 ∨ st = 3 ∨ st = 6) ∧ s.get CLK.FAILWAIT = 0
    let tec := s.get (CAN.TEC x)
    let rec_ := s.get (CAN.REC x)
    let plus := fun (f : Fld) (k : Nat) => min (s.get f + k) (2 ^ f.width - 1)
    let evt := fun (y : State) (p i : Nat) => bitAt (y.get (Hdr.EVT p)) i = true
    Completes (.canIntegrationComplete t x) s (fun y =>
        (st = 1 → evt y pg 7 ∧ y.get (CAN.TEC x) = tec ∧ y.get (CAN.REC x) = rec_
          ∧ (tec < 256 → y.get (CAN.STATE x) = (if 128 ≤ tec ∨ 128 ≤ rec_ then 3 else 2)))
        ∧ (st ≠ 1 → y = s.reach t))
    ∧ Completes (.canRecoveryComplete t x) s (fun y =>
        (st = 5 → y.get (CAN.STATE x) = 2 ∧ y.get (CAN.TEC x) = 0 ∧ y.get (CAN.REC x) = 0 ∧ evt y pg 7 ∧ evt y 0x38 (8 + x))
        ∧ (st ≠ 5 → y = s.reach t))
    ∧ Completes (.canProtocolException t x) s (fun y =>
        (live → s.get (CAN.EXCINT x) = 1 → y.get (CAN.PXECNT x) = plus (CAN.PXECNT x) 1 ∧ evt y pg 9
          ∧ y.get (CAN.STATE x) = (if st = 6 then 6 else 1) ∧ y.fcr.inbox = s.fcr.inbox ++ [(canSrc x 3, x)])
        ∧ (live → s.get (CAN.EXCINT x) = 0 → y.get (CAN.LEC x) = 2 ∧ y.get (CAN.REC x) = min 255 (rec_ + 1) ∧ y.get (CAN.TEC x) = tec)
        ∧ (¬ live → y = s.reach t))
    ∧ (∀ d, s.due (.canStop x) = some d → Completes (.canStopTimeout x) s (fun y =>
        evt y pg 11 ∧ y.due (.canStop x) = none ∧ y.get (Hdr.STOPPING pg) = 0 ∧ y.get (Hdr.PENDEN pg) = 0
        ∧ (s.get (Hdr.PENDEN pg) = 0 → s.get (Hdr.EN pg) = 0 → y.get (CAN.STATE x) = 0)
        ∧ (s.get (Hdr.PENDEN pg) = 1 → s.unitHeld pg x = false → y.get (CAN.STATE x) = 1 ∧ y.get (Hdr.EN pg) = 1)))
    ∧ Completes (.canTxdTimeout t x) s (fun y =>
        (live → evt y pg 10 ∧ y.fcr.inbox = s.fcr.inbox ++ [(canSrc x 4, x)]) ∧ (¬ live → y = s.reach t))
    ∧ (∀ d, s.due (.nmKeep x) = some d → Completes (.nmKeepaliveSend x) s (fun y =>
        y.due (.nmKeep x) = some (d + ms (s.get (NMK.KAPER x))) ∧ y.get (NMK.STATE x) = nm
        ∧ (s.get (BQ.DEPTH (s.get (NMK.TXQ x))) ≠ 0 → s.qFull (s.get (NMK.TXQ x)) = false →
          let view := fun (z : State) => (z.queue (s.get (NMK.TXQ x))).entries.map (fun e => (e.src, e.tl, e.p0, e.p1))
          view y = view s ++ [(0x3900 + x, 16 * s.get (NMK.TPL x) + 2, s.get (NMK.NODE x) + 256 * s.get (NMK.NEED x), 0)])))
    ∧ (∀ d, s.due (.nmRepeat x) = some d → Completes (.nmRepeatExpiry x) s (fun y =>
        y.get (NMK.STATE x) = (if s.get (NMK.NEED x) = 1 then 2 else 3) ∧ y.due (.nmRepeat x) = none
        ∧ (s.get (NMK.NEED x) = 1 → y.due (.nmKeep x) = some (d + ms (s.get (NMK.KAPER x))) ∧ y.due (.nmTimeout x) = none)
        ∧ (s.get (NMK.NEED x) = 0 → y.due (.nmKeep x) = none ∧ y.due (.nmTimeout x) = some (d + ms (s.get (NMK.TIMEOUT x))))))
    ∧ (∀ d, s.due (.nmTimeout x) = some d → Completes (.nmTimeoutExpiry x) s (fun y =>
        y.get (NMK.STATE x) = 4 ∧ y.due (.nmTimeout x) = none ∧ y.due (.nmWait x) = some (d + ms (s.get (NMK.WAITBS x)))))
    ∧ (∀ d, s.due (.nmWait x) = some d → Completes (.nmWaitbsExpiry x) s (fun y =>
        y.get (NMK.STATE x) = 5 ∧ y.due (.nmWait x) = none ∧ y.get (NMK.SLEEPS x) = plus (NMK.SLEEPS x) 1 ∧ evt y 0x39 x))
    ∧ (s.wakeWatched x = false → Completes (.canBusWake t x) s (fun y => y = s.reach t))
    ∧ (s.wakeWatched x = true → Completes (.canBusWake t x) s (fun y =>
        let win := t + ms (10 * s.get PWR.WIN)
        let waits := s.pwr.state = .park ∨ s.goesDown = true
        (waits → (y.nm x).pend = true ∧ y.due (.falseStart x) = s.due (.falseStart x))
        ∧ (¬ waits → s.due (.falseStart x) = none → (y.nm x).pend = true ∧ y.due (.falseStart x) = some win)
        ∧ (¬ waits → ∀ d, s.due (.falseStart x) = some d → y.due (.falseStart x) = some d ∧ (y.nm x).later = (s.nm x).later ++ [win])
        ∧ (s.pwr.state ≠ .park → evt y 0x39 (8 + x) ∧ (y.nm x).wake = true
          ∧ (nm = 5 → y.get (NMK.STATE x) = 3 ∧ y.due (.nmTimeout x) = some (t + ms (s.get (NMK.TIMEOUT x)))) ∧ (nm ≠ 5 → y.get (NMK.STATE x) = nm))
        ∧ (s.pwr.state = .park → y.pwr.wakes = setBit s.pwr.wakes 8 ∧ y.regs = s.regs)
        ∧ (s.pwr.state = .doze → bitAt (y.get PWR.WAKEFLAG) 8 = true ∧ evt y 2 0)))
    ∧ (∀ d, s.due (.falseStart x) = some d → Completes (.falseStartWindow x) s (fun y =>
        let f : Fld := ⟨2, 0x154, 4 * x, 4⟩
        let full := s.get PWR.LIM ≤ min (s.get f + 1) 15 ∧ bitAt (s.get PWR.FSMASK) x = false
        let parked := s.pwr.state = .park ∨ s.pwr.state = .waking
        ((s.nm x).pend = false → y.regs = s.regs ∧ y.due (.falseStart x) = none)
        ∧ ((s.nm x).pend = true → y.due (.falseStart x) = (s.nm x).later.head? ∧ (y.nm x).later = (s.nm x).later.tail
          ∧ ((y.nm x).pend = false ↔ (s.nm x).later = []) ∧ y.get f = min (s.get f + 1) 15
          ∧ (full → bitAt (y.get PWR.FSMASK) x = true ∧ y.due (.maskHold x) = some (d + ms (60000 * s.get PWR.HOLD))
            ∧ (¬ parked → y.fcr.inbox = s.fcr.inbox ++ [(0xC8, x)]) ∧ (parked → y.fcr.inbox = s.fcr.inbox ∧ (y.nm x).owed = true))
          ∧ (¬ full → y.get PWR.FSMASK = s.get PWR.FSMASK ∧ y.fcr.inbox = s.fcr.inbox))))
    ∧ (∀ d, s.due (.maskHold x) = some d → Completes (.falseStartMaskHold x) s (fun y =>
        (s.get PWR.HOLD ≠ 0 → y.get PWR.FSMASK = clrBit (s.get PWR.FSMASK) x ∧ y.due (.maskHold x) = none) ∧ (s.get PWR.HOLD = 0 → y = s)))

/-- The Baton ring (R459 to R464). -/
def Obligations.RingActs : Prop :=
  ∀ (s : State) (t : Nat),
    let on := s.get (Hdr.EN 0x3A) = 1
    let pos := s.get NMB.POS
    let st := s.get NMB.STATE
    let agrees := s.get NMB.CONSENT = 1 ∧ s.get TSY.LOCK = 1 ∧ on
        ∧ (List.range 8).all (fun x => decide (bitAt (s.get NMK.SLPSET) x = false ∨ (s.get (NMK.STATE x) ≠ 1 ∧ s.get (NMK.STATE x) ≠ 2))) = true
    let now := s.gptp t / 1000000 % 2 ^ 32
    let plus := fun (f : Fld) => min (s.get f + 1) (2 ^ f.width - 1)
    let evt := fun (y : State) (i : Nat) => bitAt (y.get (Hdr.EVT 0x3A)) i = true
    let seq := fun (p : List Byte) => beVal ((p.drop 4).take 4)
    let mask := fun (p : List Byte) => beVal ((p.drop 8).take 2)
    let good := fun (ty : Nat) (p : List Byte) => 20 ≤ p.length ∧ (p.getD 0 0).toNat = 0x10 + ty ∧ (p.getD 1 0).toNat = s.get NMB.RING
        ∧ (p.drop 12).take 8 = macOf (look [] s.vault.keys (s.get NMB.KEY)) (p.take 12)
        ∧ s.get NMB.LASTSEQ ≤ seq p ∧ (now + 2 ^ 32 - seq p) % 2 ^ 32 ≤ s.get NMB.LAPTO + 3
    let dropped := fun (y : State) => y.get NMB.DROPS = plus NMB.DROPS ∧ y.get NMB.STATE = st ∧ y.ring = s.ring ∧ y.timers = s.timers
        ∧ y.get NMB.LASTSEQ = s.get NMB.LASTSEQ
    let ended := fun (y : State) (d : Nat) => y.get NMB.STATE = 0 ∧ y.due .lap = none ∧ y.due .commitTo = none
        ∧ (pos = 0 → y.due .lapDelay = some (d + ms (100 * s.get NMB.LAPDLY)))
    let dissents := fun (y : State) => y.get NMB.DISSENTS = plus NMB.DISSENTS ∧ evt y 1
    let starts := on ∧ pos = 0 ∧ st = 0 ∧ agrees ∧ (s.due .lapDelay).all (fun d => decide (d ≤ t)) = true
    let lost := on ∧ pos ≠ 0 ∧ st = 1 ∧ ¬ agrees
    (starts → Completes (.ringLapStart t) s (fun y =>
        y.get NMB.STATE = 1 ∧ y.get NMB.LAPS = plus NMB.LAPS ∧ evt y 0 ∧ y.ring.seq = now ∧ y.ring.mask = 1 ∧ y.get NMB.LAPMASK = 1
        ∧ y.due .lapDelay = none ∧ y.due .lap = some (t + ms (s.get NMB.LAPTO))))
    ∧ (¬ starts → Completes (.ringLapStart t) s (fun y => y = s.reach t))
    ∧ (∀ p, ¬ on → Completes (.baton t p) s (fun y => y = s.reach t) ∧ Completes (.dissent t p) s (fun y => y = s.reach t)
        ∧ Completes (.commit t p) s (fun y => y = s.reach t))
    ∧ (∀ p, on → (¬ good 1 p → Completes (.baton t p) s dropped) ∧ (¬ good 2 p → Completes (.dissent t p) s dropped)
        ∧ (¬ good 3 p → Completes (.commit t p) s dropped))
    ∧ (∀ p, on → good 1 p → Completes (.baton t p) s (fun y =>
        let mine := (p.getD 3 0).toNat = pos
        y.get NMB.LASTSEQ = seq p ∧ y.get NMB.DROPS = s.get NMB.DROPS
        ∧ (mine → pos ≠ 0 → st = 0 → agrees → y.get NMB.STATE = 1 ∧ y.get NMB.LAPS = plus NMB.LAPS ∧ evt y 0 ∧ y.ring.seq = seq p
          ∧ y.ring.mask = setBit (mask p) pos ∧ y.due .commitTo = some (t + ms (s.get NMB.CMTTO)))
        ∧ (mine → pos ≠ 0 → st = 0 → ¬ agrees → dissents y ∧ y.get NMB.STATE = 0)
        ∧ (mine → pos = 0 → st = 1 → seq p = s.ring.seq → mask p &&& (2 ^ s.get NMB.COUNT - 1) = 2 ^ s.get NMB.COUNT - 1 →
            y.get NMB.STATE = 2 ∧ evt y 2 ∧ y.ring.resend = 2 ∧ y.due .resend = some (t + ms 1) ∧ y.due .lap = none)
        ∧ (¬ mine ∨ (pos ≠ 0 ∧ st ≠ 0) ∨ (pos = 0 ∧ st ≠ 1) → y.get NMB.STATE = st ∧ y.ring = s.ring ∧ y.timers = s.timers)))
    ∧ (∀ p, on → good 2 p → Completes (.dissent t p) s (fun y =>
        y.get NMB.LASTSEQ = seq p ∧ dissents y
        ∧ (st = 1 ∧ seq p = s.ring.seq → ended y t) ∧ (¬ (st = 1 ∧ seq p = s.ring.seq) → y.get NMB.STATE = st ∧ y.timers = s.timers)))
    ∧ (∀ p, on → good 3 p → Completes (.commit t p) s (fun y =>
        let takes := pos ≠ 0 ∧ st ≠ 2 ∧ bitAt (mask p) pos = true
        y.get NMB.LASTSEQ = seq p
        ∧ (takes → y.get NMB.STATE = 2 ∧ evt y 2 ∧ y.get NMB.LAPMASK = mask p % 2 ^ NMB.LAPMASK.width ∧ y.due .lap = none ∧ y.due .commitTo = none)
        ∧ (¬ takes → y.get NMB.STATE = st ∧ y.timers = s.timers)))
    ∧ (∀ d, s.due .resend = some d → Completes .ringCommitResend s (fun y =>
        y.ring.resend = s.ring.resend - 1 ∧ y.get NMB.STATE = st
        ∧ y.due .resend = (if 2 ≤ s.ring.resend then some (d + ms 1) else none)))
    ∧ (lost → Completes (.ringConsentLost t) s (fun y => dissents y ∧ ended y t))
    ∧ (¬ lost → Completes (.ringConsentLost t) s (fun y => y = s.reach t))
    ∧ (∀ d, s.due .lap = some d → Completes .ringLapTimeout s (fun y =>
        ended y d ∧ y.get NMB.FAILS = plus NMB.FAILS ∧ evt y 3 ∧ y.fcr.inbox = s.fcr.inbox ++ [(0xC9, 0)]))
    ∧ (∀ d, s.due .commitTo = some d → Completes .ringCommitTimeout s (fun y =>
        ended y d ∧ evt y 4 ∧ y.fcr.inbox = s.fcr.inbox ++ [(0xCA, 0)]))

/-- Starts, slews and returns of the clocks, and gating (R592 to R598, R604 to R606, R609). -/
def Obligations.ClocksAct : Prop :=
  ∀ (s : State) (t : Nat),
    let root := s.get CLK.ROOTSRC
    let xok := s.get CLK.XOK = 1
    let rok := s.get TSY.RCLKOK = 1
    let auto := s.get CLK.AUTOREF = 1
    let plus := fun (f : Fld) => min (s.get f + 1) (2 ^ f.width - 1)
    let evt := fun (y : State) (i : Nat) => bitAt (y.get (Hdr.EVT 1)) i = true
    let start := fun (y : State) (d : Nat) => y.due .xstart = some (d + us 250 * (s.get CLK.XSTART + 1))
    let takes := fun (y : State) (r : Nat) => y.get CLK.ROOTSRC = r ∧ (root ≠ r → y.get CLK.SLEWING = 1 ∧ y.due .holdover = none)
    (∀ d, s.due .xstart = some d → s.boot.phase = .clock → Completes (.xoscStartWait true) s (fun y => y.get CLK.XOK = 1 ∧ y.due .xstart = none)
        ∧ Completes (.xoscStartWait false) s (fun y => y.get CLK.XOK = 0 ∧ y.get CLK.TRIES = plus CLK.TRIES ∧ start y (d + us 20 + ms 1)))
    ∧ (∀ d, s.due .xstart = some d → s.boot.phase ≠ .clock →
        Completes (.xoscStartWait true) s (fun y => y.get CLK.XOK = 1 ∧ y.due .xretry = none
          ∧ (s.get CLK.REFSEL = 0 ∨ root = 3 → takes y 1) ∧ (¬ (s.get CLK.REFSEL = 0 ∨ root = 3) → y.get CLK.ROOTSRC = root))
        ∧ Completes (.xoscStartWait false) s (fun y => y.get CLK.XOK = s.get CLK.XOK ∧ y.get CLK.TRIES = plus CLK.TRIES
          ∧ y.due .xretry = s.due .xretry))
    ∧ (s.boot.phase = .clock ∧ xok ∧ s.get CLK.LOCK = 0 →
        Completes (.pllLock t true) s (fun y => y.get CLK.LOCK = 1 ∧ y.get CLK.ROOTSRC = 1 ∧ y.get CLK.RAMPSTEP = 1 ∧ evt y 0 ∧ y.splitZero = t
          ∧ y.due .dwell = some (t + us (s.get CLK.DWELL)))
        ∧ Completes (.pllLock t false) s (fun y => y.get CLK.XOK = 0 ∧ y.get CLK.TRIES = plus CLK.TRIES ∧ start y (t + ms 1)))
    ∧ (¬ (s.boot.phase = .clock ∧ xok ∧ s.get CLK.LOCK = 0) → ∀ ok, Completes (.pllLock t ok) s (fun y => y = s.reach t))
    ∧ (∀ diff, Completes (.referenceSlewComplete t diff) s (fun y =>
        y.get CLK.DIFF = (if xok ∧ rok then diff % 2 ^ CLK.DIFF.width else 0) ∧ y.get CLK.SLEWING = 0
        ∧ (s.get CLK.SLEWING = 1 → evt y 1) ∧ (s.get CLK.SLEWING = 0 → y.get (Hdr.EVT 1) = s.get (Hdr.EVT 1))))
    ∧ (∀ d, s.due .xretry = some d → Completes .xoscRetry s (fun y => start y d ∧ y.due .xretry = some (d + ms 100) ∧ y.regs = s.regs))
    ∧ (∀ d, s.due .rclk = some d → Completes .rclkReturn s (fun y =>
        y.due .rclk = none ∧ (rok ∧ s.get CLK.REFSEL = 1 ∧ auto → takes y 2) ∧ (¬ (rok ∧ s.get CLK.REFSEL = 1 ∧ auto) → y.regs = s.regs)))
    ∧ (∀ ok, s.get CLK.LPSRC = 0 ∨ (s.due .lpxoRetry).isSome = true → Completes (.lpxoChangeover t ok) s (fun y => y = s.reach t))
    ∧ (s.get CLK.LPSRC = 1 → s.due .lpxoRetry = none →
        Completes (.lpxoChangeover t true) s (fun y => y.clk.lpGood ≠ 0
          ∧ (s.clk.lpGood = 0 → y.get CLK.LPACT = s.get CLK.LPACT) ∧ (s.clk.lpGood ≠ 0 → y.get CLK.LPACT = 1 ∧ (s.get CLK.LPACT = 0 → evt y 3)))
        ∧ Completes (.lpxoChangeover t false) s (fun y => y.clk.lpGood = 0 ∧ y.get CLK.LPACT = 0 ∧ y.due .lpxoRetry = some (t + ms 10000)))
    ∧ (∀ d, s.due .lpxoRetry = some d → Completes .lpxoRetry s (fun y => y = (s.disarm .lpxoRetry).reach d))
    ∧ (∀ p, p < 0x60 → Completes (.clockGating t p) s (fun y =>
        let rests := pagePresent p = true ∧ s.get (Hdr.EN p) = 0 ∧ s.pageBusy p = false ∧ s.get (Hdr.STOPPING p) = 0 ∧ s.get CLK.GATEDIS = 0
        (rests → bitAt (y.get (CLK.GATED (p / 32))) (p % 32) = true) ∧ (¬ rests → y = s.reach t)))

/-- Failures of the clocks (R597 to R602, R605, R606). -/
def Obligations.ClocksFail : Prop :=
  ∀ (s : State) (t : Nat),
    let root := s.get CLK.ROOTSRC
    let xok := s.get CLK.XOK = 1
    let rok := s.get TSY.RCLKOK = 1
    let auto := s.get CLK.AUTOREF = 1
    let evt := fun (y : State) (i : Nat) => bitAt (y.get (Hdr.EVT 1)) i = true
    let holds := fun (y : State) => y.get CLK.ROOTSRC = 3 ∧ y.get CLK.SLEWING = 0 ∧ evt y 2 ∧ y.due .holdover = some (t + ms 100 * s.get CLK.HOLDMAX)
    let dead := fun (y : State) (d : Nat) => y.get CLK.RAMPSTEP = 0 ∧ y.get CLK.ROOTSRC = 0 ∧ y.get CLK.LOCK = 0 ∧ y.get CLK.SLEWING = 0
        ∧ y.get CLK.FAILWAIT = 1 ∧ y.due .clockWait = some (d + ms (s.get CLK.WAIT)) ∧ y.stride.running = false ∧ y.phyLines = 0x3F
        ∧ y.due .holdover = none ∧ y.due .dwell = none
    (xok → Completes (.clockMonitorFail t .xosc) s (fun y =>
        y.get CLK.XOK = 0 ∧ y.get CLK.DIFF = 0 ∧ evt y 4 ∧ y.fcr.inbox = s.fcr.inbox ++ [(0x00, 0)] ∧ y.due .xretry = some (t + ms 100)
        ∧ (root ≠ 1 → y.get CLK.ROOTSRC = root)
        ∧ (root = 1 → ¬ (auto ∧ rok) → holds y)
        ∧ (root = 1 → auto ∧ rok → y.get CLK.ROOTSRC = 2 ∧ y.get CLK.SLEWING = 1 ∧ evt y 2 ∧ y.due .holdover = none)))
    ∧ (¬ xok → Completes (.clockMonitorFail t .xosc) s (fun y => y = s.reach t))
    ∧ Completes (.clockMonitorFail t .rclk) s (fun y =>
        y.get TSY.RCLKOK = 0 ∧ y.get CLK.DIFF = 0 ∧ evt y 4 ∧ y.due .rclk = none
        ∧ (root ≠ 2 → y.get CLK.ROOTSRC = root ∧ y.fcr.inbox = s.fcr.inbox)
        ∧ (root = 2 → y.fcr.inbox = s.fcr.inbox ++ [(0x04, 0)])
        ∧ (root = 2 → ¬ (auto ∧ xok) → holds y)
        ∧ (root = 2 → auto ∧ xok → y.get CLK.ROOTSRC = 1 ∧ y.get CLK.SLEWING = 1 ∧ evt y 2 ∧ y.due .holdover = none))
    ∧ (s.get CLK.FAILWAIT = 0 → s.get CLK.RAMPSTEP ≠ 0 →
        (root ≠ 3 → Completes (.clockMonitorFail t .pll) s (fun y => dead y t))
        ∧ Completes (.clockMonitorFail t .domain) s (fun y => dead y t) ∧ Completes (.clockMonitorFail t .iro) s (fun y => dead y t)
        ∧ (∀ d, s.due .holdover = some d → Completes .holdoverExpiry s (fun y => dead y d)))
    ∧ (root = 3 → Completes (.clockMonitorFail t .pll) s (fun y => y = s.reach t))
    ∧ (s.get CLK.LPACT = 1 → Completes (.clockMonitorFail t .lowPower) s (fun y =>
        y.get CLK.LPACT = 0 ∧ y.clk.lpGood = 0 ∧ evt y 3 ∧ evt y 4 ∧ (s.get CLK.LPSRC = 1 → y.due .lpxoRetry = some (t + ms 10000))
        ∧ y.fcr.inbox = s.fcr.inbox ++ (if s.pwr.state = .park then [] else [(0x03, 0)])))
    ∧ (∀ d, s.due .clockWait = some d → s.nvBusy = false → Completes .clockWaitEnd s (fun y =>
        y.get BOOT.CAUSE = causeClk ∧ y.boot.phase = .held ∧ y.due .resetHold = some (d + us 2)))

/-- DOZE and Cool-down (R612 to R620, R623). -/
def Obligations.PowerStatesAct : Prop :=
  ∀ (s : State) (t : Nat),
    let st := s.pwr.state
    let busy := s.boot.nv.isSome = true ∨ s.book.flush.isSome = true ∨ s.vault.cmd.isSome = true
    let plus := fun (f : Fld) (k : Nat) => min (s.get f + k) (2 ^ f.width - 1)
    let evt := fun (y : State) (i : Nat) => bitAt (y.get (Hdr.EVT 2)) i = true
    let cooling := fun (y : State) (d : Nat) => y.pwr.state = .cooldown ∧ y.pwr.waitPark = false ∧ y.due .coolArm = none
        ∧ y.due .coolTo = some (d + ms (100 * s.get PWR.COOLCFG_COOLTO))
    let stopping := fun (y : State) (d : Nat) => y.phyLines = 0x3F ∧ y.due .coolTo = none
        ∧ (busy → y.pwr.state = .quiesce ∧ y.due .quiesce = some (d + us 10 * s.get PWR.QTO)) ∧ (¬ busy → y.pwr.state = .flush)
    (∀ kinds, s.due .quiesce = none → Completes (.quiesceTimeout t kinds) s (fun y => y = s.reach t))
    ∧ (∀ d, s.due .quiesce = some d → ∀ kinds, t < d → (busy ∨ kinds ≠ []) → Completes (.quiesceTimeout t kinds) s (fun y => y = s.reach t))
    ∧ (∀ d, s.due .quiesce = some d → (d ≤ t ∨ ¬ busy) → Completes (.quiesceTimeout t []) s (fun y =>
        y.due .quiesce = none ∧ y.boot.nv = none
        ∧ (s.boot.nv.isSome = true → y.get PWR.ABORTCNT = plus PWR.ABORTCNT 1 ∧ bitAt (y.get PWR.ABORTKIND) 4 = true ∧ evt y 6 ∧ y.pwr.qto = true
          ∧ y.get NVC.BUSY = 0)
        ∧ (s.boot.nv = none → s.book.flush = none → y.get PWR.ABORTCNT = s.get PWR.ABORTCNT)
        ∧ (st = .doze → y.pwr.state = .doze ∧ y.pwr.reg = s.pwr.reg ++ (if s.pwr.regOk = true then [{ volt := 720, use := 1, tries := 0 }] else []))
        ∧ (st = .quiesce → y.pwr.state = .flush)))
    ∧ (let wakes := st = .doze ∧ (s.get PWR.WAKEFLAG ≠ 0 ∨ s.fcr.inbox ≠ []) ∧ s.due .quiesce = none
       ∀ decay, (wakes → Completes (.dozeWake t decay) s (fun y =>
          y.pwr.state = .dozeExit ∧ evt y 0
          ∧ (s.pwr.regOk = true → y.pwr.reg = s.pwr.reg ++ [{ volt := s.get AGE.VREQ, use := 2, tries := 0 }])
          ∧ (s.pwr.regOk = false → y.get CLK.RAMPSTEP = 1 ∧ y.due .dwell = some (t + us (s.get CLK.DWELL)))))
        ∧ (¬ wakes → Completes (.dozeWake t decay) s (fun y => y = s.reach t)))
    ∧ (∀ d, s.due .coolArm = some d → Completes .cooldownArmTimeout s (fun y =>
        (st = .run ∨ st = .idle → cooling y d) ∧ (st ≠ .run → st ≠ .idle → y.pwr = s.pwr ∧ y.due .coolArm = none)))
    ∧ (let rests := st = .cooldown ∧ s.stride.running = false
          ∧ allUnits.all (fun u => !(s.phase u).conducts && !s.unitStops u) = true
       (rests → Completes (.cooldownUnitsStopped t) s (fun y => stopping y t))
       ∧ (¬ rests → Completes (.cooldownUnitsStopped t) s (fun y => y = s.reach t)))
    ∧ (∀ d, s.due .coolTo = some d → Completes .cooldownTimeout s (fun y =>
        (st = .cooldown → stopping y d ∧ y.get PWR.STAT_COOLTO = 1 ∧ y.stride.running = false)
        ∧ (st ≠ .cooldown → y.pwr = s.pwr ∧ y.regs = s.regs)))
    ∧ (st = .flush ∧ s.book.flush = none → Completes (.cooldownFlushEnd t) s (fun y =>
        y.get PWR.LATCHED = 1 ∧ y.pwr.state = .park ∧ y.pwr.regen = false ∧ y.due (.watchdog 0) = none ∧ y.due (.watchdog 1) = none
        ∧ allUnits.all (fun u => decide (y.phase u = .off)) = true))
    ∧ (¬ (st = .flush ∧ s.book.flush = none) → Completes (.cooldownFlushEnd t) s (fun y => y = s.reach t))

/-- Wakes, PG and loss of VBAT (R16, R621 to R626, R629, R634, R665). -/
def Obligations.WakesAct : Prop :=
  ∀ (s : State) (t : Nat),
    let st := s.pwr.state
    let evt := fun (y : State) (i : Nat) => bitAt (y.get (Hdr.EVT 2)) i = true
    let noted := fun (y : State) (b : Nat) => (st = .park → y.pwr.wakes = setBit s.pwr.wakes b ∧ y.regs = s.regs)
        ∧ (st = .doze ∨ st = .dozeExit → bitAt (y.get PWR.WAKEFLAG) b = true ∧ evt y 0)
    (∀ j, (j < 8 → bitAt (s.get PWR.EN) j = true → Completes (.wakeInputFilter t j) s (fun y => noted y j))
        ∧ (8 ≤ j ∨ bitAt (s.get PWR.EN) j = false ∨ st = .run ∨ st = .idle → Completes (.wakeInputFilter t j) s (fun y => y = s.reach t)))
    ∧ (∀ d, s.due .wake = some d → Completes .wakeTimerExpiry s (fun y =>
        y.due .wake = none ∧ (s.get PWR.TMREN = 1 → noted y 9) ∧ (s.get PWR.TMREN = 0 → y.regs = s.regs ∧ y.pwr = s.pwr)))
    ∧ (st = .park ∧ s.pwr.wakes ≠ 0 → Completes (.parkWake t) s (fun y =>
        y.pwr = { s.pwr with state := .waking, regen := true } ∧ y.due .pg = some (t + ms 100) ∧ y.regs = s.regs))
    ∧ (¬ (st = .park ∧ s.pwr.wakes ≠ 0) → Completes (.parkWake t) s (fun y => y = s.reach t))
    ∧ (∀ d, s.due .pg = some d → Completes .pgTimeout s (fun y =>
        y.pwr = { s.pwr with regen := !s.pwr.regen } ∧ y.due .pg = some (d + ms 100) ∧ y.regs = s.regs))
    ∧ (st = .waking ∧ s.pwr.regen = true → Completes (.pgRise t) s (fun y =>
        y.get BOOT.CAUSE = causeWake ∧ y.get BOOT.WAKESRC = s.pwr.wakes % 2 ^ BOOT.WAKESRC.width ∧ y.pwr.wakes = 0 ∧ y.pwr.pg = true
        ∧ y.boot.phase = .rom ∧ y.boot.w0 = t ∧ y.due .pg = none))
    ∧ (¬ (st = .waking ∧ s.pwr.regen = true) → Completes (.pgRise t) s (fun y => y = { s with pwr := { s.pwr with pg := true } }.reach t))
    ∧ Completes (.pgFall t) s (fun y =>
        y.pwr = { s.pwr with pg := false }
        ∧ (s.get PWR.REGBUSY = 0 → s.pwr.regen = true → evt y 4 ∧ y.fcr.inbox = s.fcr.inbox ++ [(0x08, 0)])
        ∧ (s.get PWR.REGBUSY = 1 ∨ s.pwr.regen = false → y.regs = s.regs ∧ y.fcr = s.fcr))
    ∧ Completes (.vbatLoss t) s (fun y =>
        y.get BOOT.CAUSE = causeVpor ∧ y.boot.phase = .held ∧ y.timers = [] ∧ y.pwr.wakes = 0 ∧ y.pending = s.pending
        ∧ allUnits.all (fun u => decide (y.phase u = .off)) = true)

/-- The regulator link (R628 to R630). -/
def Obligations.RegulatorActs : Prop :=
  ∀ (s : State) (t : Nat),
    let q := s.pwr.reg
    let exp := s.get PWR.VOUTMODE % 32
    let code := fun (mv : Nat) => if exp < 16 then (2 * mv + 1000 * 2 ^ exp) / (2000 * 2 ^ exp) else (2 * mv * 2 ^ (32 - exp) + 1000) / 2000
    let evt := fun (y : State) (i : Nat) => bitAt (y.get (Hdr.EVT 2)) i = true
    let idle := s.boot.nv = none ∧ s.book.flush = none ∧ s.vault.cmd = none
    let sent := fun (y : State) (ack : Bool) (d : Nat) => ∀ r, q.head? = some r →
        y.pwr.vout = code r.volt
        ∧ (ack = true → y.due .regSettle = some (d + s.regTime r.volt) ∧ y.pwr.reg = q)
        ∧ (ack = false → r.tries = 0 → y.due .regRetry = some (d + us 100) ∧ y.pwr.reg = { r with tries := 1 } :: q.tail)
        ∧ (ack = false → r.tries ≠ 0 → y.pwr.reg = q)
    let gone := fun (y : State) => y.due .regSettle = none ∧ y.due .regRetry = none ∧ y.due .regTimeout = none
    let done := fun (y : State) (d : Nat) => ∀ r, q.head? = some r → gone y ∧ y.pwr.reg = q.tail ∧ y.get PWR.REGBUSY = 0 ∧ evt y 3
        ∧ (r.use = 0 → y.get AGE.VREQ = r.volt % 2 ^ AGE.VREQ.width) ∧ (r.use ≠ 0 → y.get AGE.VREQ = s.get AGE.VREQ)
        ∧ (r.use = 2 → y.get CLK.RAMPSTEP = 1 ∧ y.due .dwell = some (d + us (s.get CLK.DWELL)))
    let failed := fun (y : State) (src : Nat) => ∀ r, q.head? = some r →
        (r.use ≠ 2 → gone y ∧ y.pwr.reg = q.tail ∧ y.get PWR.REGBUSY = 0 ∧ evt y 4 ∧ y.fcr.inbox = s.fcr.inbox ++ [(src, 0)]
          ∧ y.get AGE.VREQ = s.get AGE.VREQ)
        ∧ (r.use = 2 → idle → y.boot.phase = .held ∧ (y.get BOOT.CAUSE = causeReg ∨ y.get BOOT.CAUSE = causeFcr))
    let may := s.pwr.regOk = true ∧ s.get PWR.REGBUSY = 0 ∧ q ≠ []
    (∀ ack, (may → Completes (.regulatorRequest t ack) s (fun y =>
          sent y ack t ∧ y.get PWR.REGBUSY = 1 ∧ y.due .regTimeout = some (t + us 100 * s.get PWR.TIMEOUT)))
        ∧ (¬ may → Completes (.regulatorRequest t ack) s (fun y => y = s.reach t)))
    ∧ (∀ d, s.due .regSettle = some d → ∀ pg,
        Completes (.regulatorCheck none pg) s (fun y => sent y false d ∧ y.get PWR.LASTSW = s.get PWR.LASTSW)
        ∧ ∀ w, (w &&& 0xE87E ≠ 0 → Completes (.regulatorCheck (some w) pg) s (fun y => failed y 0x08))
          ∧ (w &&& 0xE87E = 0 → pg = true → Completes (.regulatorCheck (some w) pg) s (fun y => done y d ∧ y.get PWR.LASTSW = w % 2 ^ PWR.LASTSW.width))
          ∧ (w &&& 0xE87E = 0 → pg = false → Completes (.regulatorCheck (some w) pg) s (fun y =>
              y.pwr = s.pwr ∧ y.due .regSettle = none ∧ y.due .regTimeout = s.due .regTimeout ∧ y.get PWR.LASTSW = w % 2 ^ PWR.LASTSW.width)))
    ∧ (∀ d, s.due .regRetry = some d → ∀ ack, Completes (.regulatorRetry ack) s (fun y => sent y ack d))
    ∧ (∀ d, s.due .regTimeout = some d → Completes .regulatorTimeout s (fun y => failed y 0x07))

/-- Supply monitors (R255, R257, R664, R667, R672, R673, R681). -/
def Obligations.SuppliesMonitored : Prop :=
  ∀ (s : State) (t : Nat),
    let runs := s.boot.phase ≠ .held ∧ s.pwr.state ≠ .doze ∧ s.pwr.state ≠ .dozeExit ∧ s.pwr.state ≠ .park ∧ s.pwr.state ≠ .waking
    let lim := fun (v : Int) => max (-4000) (min 6000 v)
    let plus := fun (f : Fld) => min (s.get f + 1) (2 ^ f.width - 1)
    let evt := fun (y : State) (p i : Nat) => bitAt (y.get (Hdr.EVT p)) i = true
    let long := fun (k f : Nat) => (s.sup.runs.find? (fun e => decide (e.1 = k))).any (fun e => decide (e.2 + f ≤ t)) = true
    let cond := fun (y : State) (f : Fld) (bit k flt src ev : Nat) (outside inside : Prop) =>
        (bitAt (s.get f) bit = false → outside ∧ long k flt → bitAt (y.get f) bit = true ∧ evt y 3 ev ∧ (src, 0) ∈ y.fcr.inbox)
        ∧ (bitAt (s.get f) bit = false → ¬ (outside ∧ long k flt) → bitAt (y.get f) bit = false)
        ∧ (bitAt (s.get f) bit = true → inside → bitAt (y.get f) bit = false)
        ∧ (bitAt (s.get f) bit = true → ¬ inside → bitAt (y.get f) bit = true)
    (¬ runs → (∀ a b, Completes (.vbatConversion t a b) s (fun y => y = s.reach t))
      ∧ ∀ a b c d e f, Completes (.railConversion t a b c d e f) s (fun y => y = s.reach t))
    ∧ (runs → ∀ a b, Completes (.vbatConversion t a b) s (fun y =>
        let v := lim a
        y.get SUP.VBATA = unsignedOf 16 v ∧ y.get SUP.VBATB = unsignedOf 16 (lim b) ∧ y.msh.vbat = v ∧ y.msh.vprev = (if y.get SUP.VBINV = 1 then none else some v)
        ∧ y.signed SUP.VBATMIN = min v (s.signed SUP.VBATMIN) ∧ y.signed SUP.VBATMAX = max v (s.signed SUP.VBATMAX)
        ∧ cond y SUP.UV 0 0 (us 100) 0x09 0 (v < 900) (930 < v) ∧ cond y SUP.OV 0 1 (us 100) 0x0A 1 (3200 < v) (v < 3170)
        ∧ (y.get SUP.UVCNT = if s.get SUP.UV = 0 ∧ y.get SUP.UV = 1 then plus SUP.UVCNT else s.get SUP.UVCNT)
        ∧ y.get SUP.HV = b2n (decide (3600 < v)) ∧ (3600 < v → s.get SUP.HV = 0 → evt y 3 2 ∧ y.get SUP.HVCNT = plus SUP.HVCNT)
        ∧ (s.get SUP.REVERSE = 1 → y.get SUP.REVERSE = (if -200 ≤ v then 0 else 1))
        ∧ (s.get SUP.REVERSE = 1 → -200 ≤ v → y.reverseAt = none ∧ allUnits.all (fun u => !(y.out u).revOn) = true)
        ∧ (a < -4000 ∨ 6000 < a ∨ b < -4000 ∨ 6000 < b → y.get SUP.VBINV = 1 ∧ (s.get SUP.VBINV = 0 → evt y 3 3))
        ∧ (3600 < v → y.get MSH.OVSUSP = 1 ∧ (s.get MSH.OVSUSP = 0 → evt y 0x0C 3))
        ∧ (v ≤ 3600 → y.get MSH.OVSUSP = s.get MSH.OVSUSP)
        ∧ (y.get SUP.VBINV = 1 → y.get MSH.FALLBACK = 1 ∧ y.get MSH.FREEZE = s.get MSH.FREEZE)
        ∧ (y.get SUP.VBINV = 0 → s.get MSH.FREEZE = 0 →
            let sag := v < s.get MSH.VSAG ∧ s.msh.vprev.any (fun p => decide (p < Int.ofNat (s.get MSH.VSAG))) = true ∧ s.get MSH.FALLBACK = 0
            (sag → y.get MSH.FREEZE = 1 ∧ y.get MSH.FREEZES = plus MSH.FREEZES ∧ evt y 0x0C 0 ∧ (0x29, 0) ∈ y.fcr.inbox)
            ∧ (¬ sag → y.get MSH.FREEZE = 0))
        ∧ (y.get SUP.VBINV = 0 → s.get MSH.FREEZE = 1 → y.get MSH.FREEZE = 1
            ∧ (v < s.get MSH.VRECOV → y.due .recover = none)
            ∧ (s.get MSH.VRECOV ≤ v → s.due .recover = none → y.due .recover = some (t + ms (s.get MSH.TIME))))))
    ∧ (runs → ∀ vc vs vi kp tcd tbp, Completes (.railConversion t vc vs vi kp tcd tbp) s (fun y =>
        let now := s.get AGE.VREQ
        let lo := if s.get PWR.REGBUSY = 1 then (s.pwr.reg.head?.map (fun r => min now r.volt)).getD now else now
        let hi := if s.get PWR.REGBUSY = 1 then (s.pwr.reg.head?.map (fun r => max now r.volt)).getD now else now
        y.get SUP.VCORE = vc % 2 ^ SUP.VCORE.width ∧ y.get SUP.VSER = vs % 2 ^ SUP.VSER.width ∧ y.get SUP.VIO = vi % 2 ^ SUP.VIO.width
        ∧ y.get SUP.VKEEP = kp % 2 ^ SUP.VKEEP.width ∧ y.get SUP.TCD = unsignedOf 16 tcd ∧ y.get SUP.TBP = unsignedOf 16 tbp
        ∧ cond y SUP.RAILOUT 0 2 (us 10) 0x0B 4 (100 * vc < 95 * lo ∨ 105 * hi < 100 * vc) (96 * lo ≤ 100 * vc ∧ 100 * vc ≤ 104 * hi)
        ∧ cond y SUP.RAILOUT 1 3 (us 10) 0x0C 4 (vs < 855 ∨ 945 < vs) (865 ≤ vs ∧ vs ≤ 935)
        ∧ cond y SUP.RAILOUT 2 4 (us 10) 0x0D 4 (vi < 1710 ∨ 1890 < vi) (1730 ≤ vi ∧ vi ≤ 1870)
        ∧ cond y SUP.RAILOUT 3 5 (us 100) 0x0E 4 (kp < 1100 ∨ 1300 < kp) (1120 ≤ kp ∧ kp ≤ 1280)
        ∧ cond y SUP.TEMPCD 0 6 (ms 1) 0x0F 5 (1000 < tcd) (tcd ≤ 960)
        ∧ cond y SUP.TEMPBP 0 7 (ms 1) 0x10 5 (840 < tbp) (tbp ≤ 800)))

/-- Device resets (R16, R634, R635, R637, R644, R671). -/
def Obligations.ResetsLeaveWhatTheyKeep : Prop :=
  ∀ (s : State) (t : Nat),
    let rom := fun (y : State) (w : Nat) => y.boot.phase = .rom ∧ y.boot.w0 = w ∧ y.book.resetDue = true
    let lasts := fun (y : State) => y.pending = s.pending ∧ y.boot.field = s.boot.field ∧ y.boot.svmin = s.boot.svmin
        ∧ y.splitZero = s.splitZero ∧ y.vault.slots = s.vault.slots ∧ y.vault.keys = s.vault.keys
    let held := fun (c : Nat) => s.boot.phase = .held ∧ s.get BOOT.CAUSE = c
    let dead := fun (y : State) => y.boot.phase = .held ∧ y.stride.running = false ∧ y.pac = pacReset ∧ y.shadow = [] ∧ y.queues = []
        ∧ y.fcr.inbox = [] ∧ y.fcr.events = [] ∧ y.boot.nv = none ∧ y.boot.want = none
    (Completes (.powerOnReset t true) s (fun y => rom y t ∧ lasts y ∧ y.get BOOT.CAUSE = 1
        ∧ (¬ held 1 → y.get BOOT.NESTED = 0 ∧ y.get BOOT.RSTCNT = 0 ∧ y.timers = [] ∧ y.pwr.wakes = 0 ∧ y.dies = [] ∧ y.cfgAct = []
          ∧ (∀ f, f.page < 0x52 → f.off < 0x1000 → (f.page = 4 → f.off = 0x100 → False) → y.get f = State.reset.get f)
          ∧ (∀ a, a < 0x10000000 → y.memByte a = State.reset.memByte a)
          ∧ allUnits.all (fun u => decide (y.phase u = .off)) = true)))
    ∧ Completes (.powerOnReset t false) s (fun y => rom y t ∧ lasts y ∧ y.get BOOT.CAUSE = 2
        ∧ (¬ held 2 → y.get BOOT.RSTCNT = 0 ∧ y.dies = s.dies ∧ y.get CLK.LPSRC = s.get CLK.LPSRC ∧ y.get AGE.VREQ = s.get AGE.VREQ
          ∧ y.get ACC.LOCKED = s.get ACC.LOCKED ∧ y.pwr.wakes = s.pwr.wakes
          ∧ allUnits.all (fun u => decide (y.get (fState u) = s.get (fState u)) && decide (y.get (fLatch u) = s.get (fLatch u))) = true
          ∧ (∀ a, a < 0x10000000 → y.memByte a = State.reset.memByte a)))
    ∧ (s.pwr.state = .park ∨ s.pwr.state = .waking → Completes (.railLoss t) s (fun y => y = s.reach t))
    ∧ (s.pwr.state ≠ .park → s.pwr.state ≠ .waking → Completes (.railLoss t) s (fun y => dead y ∧ lasts y
        ∧ y.get BOOT.CAUSE = 2 ∧ y.get BOOT.RSTCNT = 0 ∧ y.get CLK.LPSRC = s.get CLK.LPSRC ∧ y.get AGE.VREQ = s.get AGE.VREQ ∧ y.dies = s.dies
        ∧ (y.get BOOT.NESTED = 1 ↔ s.boot.phase ≠ .done ∧ s.boot.phase ≠ .recovery ∧ s.boot.phase ≠ .held)
        ∧ allUnits.all (fun u => decide (y.get (fState u) = s.get (fState u)) && decide (y.get (fLatch u) = s.get (fLatch u))) = true))
    ∧ (s.due .resetHold = none → Completes .deviceResetRelease s (fun y => y = s))
    ∧ (∀ d, s.due .resetHold = some d → Completes .deviceResetRelease s (fun y => rom y d ∧ lasts y ∧ y.regs = s.regs
        ∧ y.mem = s.mem ∧ y.due .resetHold = none))

/-- Warm-up (R594, R636, R639, R643, R644, R653, R655 to R659). -/
def Obligations.WarmUpActs : Prop :=
  ∀ (s : State) (t : Nat),
    let evt := fun (y : State) (p i : Nat) => bitAt (y.get (Hdr.EVT p)) i = true
    let recovers := fun (y : State) => y.get BOOT.RECOVERY = 1 ∧ y.boot.phase = .recovery
    let w := s.boot.w0
    let code := fun (i : Nat) (ecc : Bool) =>
        let a := fwImage i
        if s.fwHeaderOk a = false then (if ecc then 5 else 1)
        else if ecc then 5
        else if s.le (a + 0xC) 1 < s.boot.svmin then 2
        else if ¬ shaOf (s.bytes (a + 0x100) (s.le (a + 8) 4)) = s.bytes (a + 0x90) 32 then 3
        else if Config.ecdsaVerify Config.factoryKey (shaOf (s.bytes a 0xB0)) (s.bytes (a + 0xB0) 64) = false then 4 else 0
    let accepts := fun (y : State) (i : Nat) => y.boot.phase = .verified ∧ y.boot.image = i ∧ y.get BOOT.FWSEL = i
        ∧ y.get BOOT.FWVER = s.le (fwImage i + 0x10) 4 ∧ y.get BOOT.SV = s.le (fwImage i + 0xC) 1 % 2 ^ BOOT.SV.width
    (s.boot.nv = none → ∀ ok, Completes (.nvProgramComplete t ok) s (fun y => y = s.reach t))
    ∧ (∀ v, s.boot.nv = some v → s.boot.want = none →
        Completes (.nvProgramComplete t true) s (fun y => y.boot.nv = none ∧ y.get NVC.BUSY = 0 ∧ y.get NVC.ERR = 0 ∧ evt y 5 0
          ∧ y.fcr = s.fcr ∧ y.mem = (s.setBytes v.1 v.2).mem)
        ∧ Completes (.nvProgramComplete t false) s (fun y => y.boot.nv = none ∧ y.get NVC.BUSY = 0 ∧ y.get NVC.ERR = 1 ∧ evt y 5 0 ∧ evt y 5 1
          ∧ y.fcr.inbox = s.fcr.inbox ++ [(0x14, 0)]))
    ∧ (∀ v, s.boot.nv = some v → ∀ r, s.boot.want = some r → ∀ ok, Completes (.nvProgramComplete t ok) s (fun y =>
          y.boot.phase = .held ∧ y.get BOOT.CAUSE = r.1 % 2 ^ BOOT.CAUSE.width ∧ y.boot.nv = none ∧ y.boot.want = none
          ∧ (4 ≤ r.1 → y.due .resetHold = some (t + us 2))))
    ∧ (¬ s.boot.phase = .rom → ∀ fac bad mode, Completes (.warmUp fac bad mode) s (fun y => y = s))
    ∧ (s.boot.phase = .rom → ∀ bad mode,
        Completes (.warmUp false bad mode) s (fun y => recovers y ∧ y.get BOOT.LCS = b2n s.boot.field
          ∧ y.get BOOT.SVMIN = s.boot.svmin % 2 ^ BOOT.SVMIN.width ∧ y.fcr.inbox = s.fcr.inbox ++ [(0x13, 0)])
        ∧ Completes (.warmUp true bad mode) s (fun y => y.boot.phase = .clock ∧ y.get BOOT.LCS = b2n s.boot.field
          ∧ y.get BOOT.SVMIN = s.boot.svmin % 2 ^ BOOT.SVMIN.width ∧ y.cfgAct = []
          ∧ y.due .xstart = some (w + us 450 + us 250 * (y.get CLK.XSTART + 1))
          ∧ (∀ d, d < 2 → y.get (fFsBit d) = 1 ∧ (y.die d).reset = true)
          ∧ (s.cfgChoice = none → y.get BOOT.IMGFB = 1 ∧ y.img = s.img ∧ y.fcr.inbox.contains (0x11, 0) = true)
          ∧ (∀ c, s.cfgChoice = some c →
              let rs := s.imgRecs (cfgCopy c.1) c.2.2
              let r := applyRels rs (applyRecs rs)
              y.get BOOT.CFGSEL = c.1 % 2 ∧ y.get BOOT.CFGSEQ = c.2.1 % 2 ^ 32 ∧ y.img = r.1 ∧ y.get BOOT.COUNT = r.2.length % 2 ^ BOOT.COUNT.width
              ∧ y.get MSH.RLEARN = y.get MSH.RSRC ∧ (r.2.isEmpty = false → evt y 4 1))))
    ∧ (s.due .dwell = none → Completes .rampStep s (fun y => y = s))
    ∧ (∀ d, s.due .dwell = some d →
        let k := s.get CLK.RAMPSTEP
        (k < 3 → Completes .rampStep s (fun y => y.get CLK.RAMPSTEP = k + 1 ∧ y.due .dwell = some (d + us (s.get CLK.DWELL)) ∧ y.boot = s.boot))
        ∧ (k = 3 → s.boot.phase = .clock → Completes .rampStep s (fun y =>
            y.get CLK.RAMPSTEP = 4 ∧ y.due .dwell = none ∧ y.boot = { s.boot with phase := .verify })))
    ∧ (¬ s.boot.phase = .verify → ∀ ea eb, Completes (.firmwareVerify t ea eb) s (fun y => y = s.reach t))
    ∧ (s.boot.phase = .verify → ∀ ea eb,
        (code 0 ea = 0 → Completes (.firmwareVerify t ea eb) s (fun y => accepts y 0 ∧ y.get BOOT.A = 0 ∧ y.get BOOT.B = s.get BOOT.B ∧ y.fcr = s.fcr))
        ∧ (¬ code 0 ea = 0 → code 1 eb = 0 → Completes (.firmwareVerify t ea eb) s (fun y => accepts y 1 ∧ y.get BOOT.A = code 0 ea ∧ y.get BOOT.B = 0
            ∧ y.fcr.inbox = s.fcr.inbox ++ (if ea then [(0x13, 0)] else []) ++ [(0x12, 0)]))
        ∧ (¬ code 0 ea = 0 → ¬ code 1 eb = 0 → Completes (.firmwareVerify t ea eb) s (fun y =>
            y.boot = { s.boot with phase := .failed } ∧ y.get BOOT.A = code 0 ea ∧ y.get BOOT.B = code 1 eb
            ∧ y.fcr.inbox = s.fcr.inbox ++ (if ea then [(0x13, 0)] else []) ++ (if eb then [(0x13, 0)] else []))))
    ∧ (s.boot.phase = .failed → Completes (.warmUpComplete t) s (fun y => recovers y ∧ y.pac = s.pac ∧ y.stride = s.stride))
    ∧ (¬ s.boot.phase = .failed → ¬ s.boot.phase = .verified → Completes (.warmUpComplete t) s (fun y => y = s.reach t))
    ∧ (s.boot.phase = .verified → 4 ≤ s.get BOOT.CAUSE → Completes (.warmUpComplete t) s (fun y =>
        let a := fwImage s.boot.image
        y.boot = { s.boot with phase := .done } ∧ y.get BOOT.WUDONE = 1 ∧ evt y 4 0
        ∧ y.get BOOT.WUTIME = min 0xFFFF ((t - w) / 10000) ∧ y.get (Hdr.EN 9) = 1
        ∧ y.stride.running = true ∧ y.stride.nextTick = s.splitAt t + s.get STR.LEN
        ∧ y.get STR.LENACT = s.get STR.LEN ∧ y.pac.started = true
        ∧ y.pac.svc = { ctxReset with pc := s.le (a + 0x24) 4, sp := s.le (a + 0x28) 4, fp := s.le (a + 0x28) 4, pg := 0x40000000 }
        ∧ y.get PAC.STRENTRY = s.le (a + 0x18) 4 / 2 % 2 ^ PAC.STRENTRY.width
        ∧ y.get PAC.VBAR = s.le (a + 0x1C) 4 / 512 % 2 ^ PAC.VBAR.width
        ∧ y.get PAC.SVBAR = s.le (a + 0x20) 4 / 512 % 2 ^ PAC.SVBAR.width
        ∧ (s.get DBG.HALTBOOT = 1 → y.get DBG.HALTED = 1 ∧ y.get DBG.CAUSE = 5)
        ∧ (s.get DBG.HALTBOOT = 0 → y.get DBG.HALTED = s.get DBG.HALTED)))

/-- Boundary scan, identification and debug access (R37, R646 to R649). -/
def Obligations.DebugPortAccesses : Prop :=
  ∀ (s : State) (t : Nat),
    let lives := s.portLives = true
    let fact := s.boot.field = false
    let sel := fun (code : Nat) => { s.reach t with tap := { s.tap with ir := code } }
    let next := fun (a : Nat) (inc : Bool) => if inc then (a + 4) % 2 ^ 32 else a % 2 ^ 32
    let ended := fun (x : State) (a : Nat) (inc : Bool) (st d : Nat) => { x with tap := { x.tap with st := st, addr := next a inc, data := d } }
    let code := fun (c : Nat) => s.tap.data / 16 * 16 + c
    let scanned := fun (ir : Nat) (lv sh : List Bool) =>
        { s.reach t with tap := { s.tap with
            ir := ir, pins := (List.range 32).map (fun i => lv.getD i false), cells := (List.range 96).map (fun i => sh.getD i false) } }
    let idle := s.boot.phase ≠ .done ∨ s.pwr.state = .doze ∨ s.pwr.state = .dozeExit
    (lives → ∀ lv sh,
      (fact → Completes (.extest t lv sh) s (fun y => y = scanned 0 lv sh
          ∧ (∀ k, k < 32 → k ≠ 18 → k ≠ 19 →
              y.tap.drives k = (if sh.getD (3 * k + 2) false = true then some (sh.getD (3 * k + 1) false) else none))
          ∧ y.tap.drives 18 = none
          ∧ y.tap.drives 19 = (if sh.getD 59 false = true ∧ sh.getD 58 false = false then some false else none)))
      ∧ (fact → Completes (.samplePreload t lv sh) s (fun y => y = scanned 1 lv sh ∧ (∀ k, k < 32 → y.tap.drives k = none)))
      ∧ (¬ fact → Completes (.extest t lv sh) s (fun y => y = sel 0x3F) ∧ Completes (.samplePreload t lv sh) s (fun y => y = sel 0x3F)))
    ∧ (lives →
      Completes (.idcode t) s (fun y => y = { sel 2 with tap := { (sel 2).tap with
          out := 0x1 * 2 ^ 28 + 0x0A09 * 2 ^ 12 + Config.factoryMfr % 2048 * 2 + 1 } })
      ∧ Completes (.bypass t) s (fun y => y = { sel 0x3F with tap := { (sel 0x3F).tap with out := 0 } }))
    ∧ (lives → fact → ∀ a inc v,
      let x := sel 0x20
      let page := (a - 0x40000000) / 0x1000
      let present := isPage a = true ∧ pagePresent page = true
      let absent := isPage a = true ∧ pagePresent page = false
      (idle → Completes (.debugReadWord t a inc) s (fun y => y = ended x a inc 1 s.tap.data)
          ∧ Completes (.debugWriteWord t a v inc) s (fun y => y = ended x a inc 1 s.tap.data))
      ∧ (¬ idle → a % 4 ≠ 0 → Completes (.debugReadWord t a inc) s (fun y => y = ended x a inc 2 (code Cause.badop.code))
          ∧ Completes (.debugWriteWord t a v inc) s (fun y => y = ended x a inc 2 (code Cause.badop.code)))
      ∧ (¬ idle → a % 4 = 0 →
        (absent → Completes (.debugReadWord t a inc) s (fun y => y = ended x a inc 0 0)
          ∧ Completes (.debugWriteWord t a v inc) s (fun y => y = ended x a inc 2 (code Cause.nopage.code)))
        ∧ (present → Completes (.debugReadWord t a inc) s (fun y =>
            let r := x.readReg page (a % 0x1000) t .debug
            y = ended r.2 a inc 0 r.1.toNat))
        ∧ (present → Completes (.debugWriteWord t a v inc) s (fun y =>
            let r := x.busWrite .debug page (a % 0x1000) (BitVec.ofNat 32 (v % 2 ^ 32)) 0xFFFFFFFF t
            (r.2 = none → y = ended r.1 a inc 0 r.1.tap.data)
            ∧ (∀ c, r.2 = some c → y = ended r.1 a inc 2 (r.1.tap.data / 16 * 16 + c.code))))
        ∧ (isPage a = false → readable a = true → (a < 0x800000 ∨ 0xA00000 ≤ a) →
            Completes (.debugReadWord t a inc) s (fun y => y = ended x a inc 0 (leVal ((List.range 4).map (fun i => s.memByte (a + i))))))
        ∧ (isPage a = false → readable a = false → (a < 0x800000 ∨ 0xA00000 ≤ a) →
            Completes (.debugReadWord t a inc) s (fun y => y = ended x a inc 3 s.tap.data))
        ∧ (isPage a = false → writableMem a = true → (a < 0x340000 ∨ 0x380000 ≤ a) →
            Completes (.debugWriteWord t a v inc) s (fun y => y = ended (x.setLe a 4 (v % 2 ^ 32)) a inc 0 s.tap.data))
        ∧ (isPage a = false → writableMem a = false → (a < 0x340000 ∨ 0x380000 ≤ a) →
            Completes (.debugWriteWord t a v inc) s (fun y => y = ended x a inc 3 s.tap.data))))
    ∧ (lives → ¬ fact → ∀ a inc v, Completes (.debugReadWord t a inc) s (fun y => y = sel 0x3F)
        ∧ Completes (.debugWriteWord t a v inc) s (fun y => y = sel 0x3F))
    ∧ (¬ lives → ∀ lv sh a inc v,
      Completes (.extest t lv sh) s (fun y => y = s.reach t) ∧ Completes (.samplePreload t lv sh) s (fun y => y = s.reach t)
      ∧ Completes (.idcode t) s (fun y => y = s.reach t) ∧ Completes (.bypass t) s (fun y => y = s.reach t)
      ∧ Completes (.debugReadWord t a inc) s (fun y => y = s.reach t) ∧ Completes (.debugWriteWord t a v inc) s (fun y => y = s.reach t))

/-- Debug control and status (R37, R615, R622, R636, R646, R650 to R654). -/
def Obligations.DebugControlActs : Prop :=
  ∀ (s : State) (t : Nat),
    let lives := s.portLives = true
    let fact := s.boot.field = false
    let evt := fun (y : State) (i : Nat) => bitAt (y.get (Hdr.EVT 0x50)) i = true
    let sel := fun (code : Nat) => { s.reach t with tap := { s.tap with ir := code } }
    let ran := fun (y : State) =>
        y.get DBG.HALTED = 0
        ∧ (s.get DBG.HALTED = 1 → evt y 2 ∧ y.get DBG.CAUSE = 0 ∧ y.get DBG.STAT_CTX = 0 ∧ y.pac = { s.pac with stepping := false }
          ∧ (s.stride.suspended = none → y.stride = s.stride)
          ∧ (∀ h, s.stride.suspended = some h → y.stride = { s.stride with
              suspended := none, base := s.stride.base + (s.splitAt t - s.splitAt h), nextTick := s.splitAt t + s.get STR.LENACT,
              bridging := false, bridgeStep := false, newLen := none }))
        ∧ (s.get DBG.HALTED = 0 → y.pac = s.pac ∧ y.stride = s.stride)
    let detached := fun (y : State) =>
        y.get DBG.ATTACHED = 0 ∧ (s.get DBG.ATTACHED = 1 → evt y 1 ∧ ran y) ∧ (s.get DBG.ATTACHED = 0 → y.regs = s.regs ∧ y.pac = s.pac)
    let attached := fun (y : State) =>
        y.get DBG.ATTACHED = 1 ∧ (s.get DBG.ATTACHED = 0 → evt y 0)
        ∧ (s.pwr.state = .doze ∧ s.get PWR.DBGEN = 1 → bitAt (y.get PWR.WAKEFLAG) 11 = true ∧ bitAt (y.get (Hdr.EVT 2)) 0 = true)
        ∧ (¬ (s.pwr.state = .doze ∧ s.get PWR.DBGEN = 1) → y.get PWR.WAKEFLAG = s.get PWR.WAKEFLAG)
    let x := s.ctx s.stride.started
    (lives → Completes (.testLogicReset t false) s (fun y => y = sel 2)
        ∧ Completes (.testLogicReset t true) s (fun y => y.tap = (sel 2).tap ∧ detached y))
    ∧ (lives → fact →
      (s.pwr.state ≠ .park → Completes (.attach t true) s (fun y => y.tap = (sel 0x21).tap ∧ attached y ∧ y.pac = s.pac ∧ y.stride = s.stride))
      ∧ (s.pwr.state ≠ .park → Completes (.attach t false) s (fun y => y.tap = (sel 0x21).tap ∧ detached y))
      ∧ Completes (.halt t false) s (fun y => y.tap = (sel 0x21).tap ∧ detached y)
      ∧ Completes (.resume t false) s (fun y => y.tap = (sel 0x21).tap ∧ detached y)
      ∧ Completes (.step t false) s (fun y => y.tap = (sel 0x21).tap ∧ detached y)
      ∧ Completes (.debugReset t false) s (fun y => y.tap = (sel 0x21).tap ∧ detached y)
      ∧ Completes (.halt t true) s (fun y => attached y
          ∧ (s.get DBG.HALTED = 1 ∨ s.boot.phase ≠ .done → y.pac = s.pac ∧ y.stride = s.stride ∧ y.get DBG.HALTED = s.get DBG.HALTED)
          ∧ (s.get DBG.HALTED = 0 → s.boot.phase = .done → y.get DBG.HALTED = 1 ∧ y.get DBG.CAUSE = 1 ∧ y.get DBG.HALTPC = x.pc % 2 ^ 32
            ∧ y.get DBG.STAT_CTX = b2n s.stride.started ∧ y.get DBG.HALTCNT = min (s.get DBG.HALTCNT + 1) (2 ^ 32 - 1)
            ∧ y.stride = { s.stride with
                suspended := if s.get (Hdr.FRZ 0x09) = 1 then some t else s.stride.suspended }))
      ∧ Completes (.resume t true) s (fun y => attached y ∧ ran y)
      ∧ Completes (.step t true) s (fun y => attached y ∧ y.stride = s.stride ∧ y.get DBG.HALTED = s.get DBG.HALTED
          ∧ (s.get DBG.HALTED = 0 → y.pac = s.pac)
          ∧ (s.get DBG.HALTED = 1 →
              y.pac = { s.pac with stepping := true, passPc := some (s.ctx (decide (s.get DBG.STAT_CTX = 1))).pc }))
      ∧ (s.nvBusy = false → Completes (.debugReset t true) s (fun y =>
          y.get BOOT.CAUSE = 9 ∧ y.boot.phase = .held ∧ y.due .resetHold = some (t + us 2) ∧ y.get DBG.ATTACHED = 1))
      ∧ (s.nvBusy = true → Completes (.debugReset t true) s (fun y =>
          attached y ∧ y.boot = { s.boot with want := some (s.boot.want.getD (9, 0)) }))
      ∧ Completes (.dstat t) s (fun y => y = { sel 0x22 with tap := { (sel 0x22).tap with
          out := s.get DBG.ATTACHED + 2 * s.get DBG.HALTED + 4 * s.get DBG.STAT_CTX + 8 * s.get DBG.CAUSE + 64 * s.get DBG.BP
            + (if s.boot.phase = .done then 0 else 256) + 512 * s.get STR.RPLCTRL_EN + 1024 * s.get BOOT.RECOVERY } }))
    ∧ (lives → ¬ fact → ∀ att,
      (s.pwr.state ≠ .park → Completes (.attach t att) s (fun y => y = sel 0x3F)) ∧ Completes (.halt t att) s (fun y => y = sel 0x3F)
      ∧ Completes (.resume t att) s (fun y => y = sel 0x3F) ∧ Completes (.step t att) s (fun y => y = sel 0x3F)
      ∧ Completes (.debugReset t att) s (fun y => y = sel 0x3F) ∧ Completes (.dstat t) s (fun y => y = sel 0x3F))
    ∧ (¬ lives → ∀ att,
      (s.pwr.state ≠ .park → Completes (.attach t att) s (fun y => y = s.reach t)) ∧ Completes (.halt t att) s (fun y => y = s.reach t)
      ∧ Completes (.resume t att) s (fun y => y = s.reach t) ∧ Completes (.step t att) s (fun y => y = s.reach t)
      ∧ Completes (.debugReset t att) s (fun y => y = s.reach t) ∧ Completes (.dstat t) s (fun y => y = s.reach t)
      ∧ Completes (.testLogicReset t att) s (fun y => y = s.reach t))
    ∧ (s.pwr.state = .park →
      (s.get PWR.DBGEN = 1 → fact → Completes (.attach t true) s (fun y =>
          y = { s.reach t with pwr := { s.pwr with wakes := setBit s.pwr.wakes 11 } }))
      ∧ (s.get PWR.DBGEN = 0 ∨ ¬ fact → Completes (.attach t true) s (fun y => y = s.reach t))
      ∧ Completes (.attach t false) s (fun y => y = s.reach t))
end

