-- ==== Sys2Proof/Laws/Blind.lean ====
section
/-! SUPPORT. Properties that do not depend on one field of the state, and what keeps them through the shapes of which the
meanings are built. A lemma `f_keeps` says of an operation `f` which fields it may change: every property that does not depend on
those fields survives it. Frames and invariants are instances. -/
namespace Sys2Proof.Machine

/-- Independent of the registers, as long as each stays listed at most once. -/
abbrev Blind.regs (P : State → Prop) : Prop := ∀ s m, (risingB s.regs = true → risingB m = true) → P s → P { s with regs := m }
/-- Independent of the memory, as long as it keeps its canonical form. -/
abbrev Blind.mem (P : State → Prop) : Prop := ∀ s m, (Memory.wf s.mem → Memory.wf m) → P s → P { s with mem := m }
/-- Independent of the instant, which never goes back. -/
abbrev Blind.now (P : State → Prop) : Prop := ∀ s n, s.now ≤ n → P s → P { s with now := n }
/-- Independent of the counter of free values, which never goes back. -/
abbrev Blind.fresh (P : State → Prop) : Prop := ∀ s n, s.fresh ≤ n → P s → P { s with fresh := n }
/-- Independent of the boot state, whose Field state lasts and whose security version never falls. -/
abbrev Blind.boot (P : State → Prop) : Prop :=
  ∀ s b, (s.boot.field = true → b.field = true) → s.boot.svmin ≤ b.svmin → P s → P { s with boot := b }
/-- Independent of `splitZero`. -/
abbrev Blind.splitZero (P : State → Prop) : Prop := ∀ s v, P s → P { s with splitZero := v }
/-- Independent of `img`. -/
abbrev Blind.img (P : State → Prop) : Prop := ∀ s v, P s → P { s with img := v }
/-- Independent of `shadow`. -/
abbrev Blind.shadow (P : State → Prop) : Prop := ∀ s v, P s → P { s with shadow := v }
/-- Independent of `cfgAct`. -/
abbrev Blind.cfgAct (P : State → Prop) : Prop := ∀ s v, P s → P { s with cfgAct := v }
/-- Independent of `timers`. -/
abbrev Blind.timers (P : State → Prop) : Prop := ∀ s v, P s → P { s with timers := v }
/-- Independent of `episodes`. -/
abbrev Blind.episodes (P : State → Prop) : Prop := ∀ s v, P s → P { s with episodes := v }
/-- Independent of `lockFirst`. -/
abbrev Blind.lockFirst (P : State → Prop) : Prop := ∀ s v, P s → P { s with lockFirst := v }
/-- Independent of `resetWait`. -/
abbrev Blind.resetWait (P : State → Prop) : Prop := ∀ s v, P s → P { s with resetWait := v }
/-- Independent of `enableWait`. -/
abbrev Blind.enableWait (P : State → Prop) : Prop := ∀ s v, P s → P { s with enableWait := v }
/-- Independent of `stride`. -/
abbrev Blind.stride (P : State → Prop) : Prop := ∀ s v, P s → P { s with stride := v }
/-- Independent of `queues`. -/
abbrev Blind.queues (P : State → Prop) : Prop := ∀ s v, P s → P { s with queues := v }
/-- Independent of `latches`. -/
abbrev Blind.latches (P : State → Prop) : Prop := ∀ s v, P s → P { s with latches := v }
/-- Independent of `fcr`. -/
abbrev Blind.fcr (P : State → Prop) : Prop := ∀ s v, P s → P { s with fcr := v }
/-- Independent of `outs`. -/
abbrev Blind.outs (P : State → Prop) : Prop := ∀ s v, P s → P { s with outs := v }
/-- Independent of `valves`. -/
abbrev Blind.valves (P : State → Prop) : Prop := ∀ s v, P s → P { s with valves := v }
/-- Independent of `bridges`. -/
abbrev Blind.bridges (P : State → Prop) : Prop := ∀ s v, P s → P { s with bridges := v }
/-- Independent of `scan`. -/
abbrev Blind.scan (P : State → Prop) : Prop := ∀ s v, P s → P { s with scan := v }
/-- Independent of `seq`. -/
abbrev Blind.seq (P : State → Prop) : Prop := ∀ s v, P s → P { s with seq := v }
/-- Independent of `cal`. -/
abbrev Blind.cal (P : State → Prop) : Prop := ∀ s v, P s → P { s with cal := v }
/-- Independent of `strobes`. -/
abbrev Blind.strobes (P : State → Prop) : Prop := ∀ s v, P s → P { s with strobes := v }
/-- Independent of `dins`. -/
abbrev Blind.dins (P : State → Prop) : Prop := ∀ s v, P s → P { s with dins := v }
/-- Independent of `ahead`. -/
abbrev Blind.ahead (P : State → Prop) : Prop := ∀ s v, P s → P { s with ahead := v }
/-- Independent of `phyLines`. -/
abbrev Blind.phyLines (P : State → Prop) : Prop := ∀ s v, P s → P { s with phyLines := v }
/-- Independent of `age`. -/
abbrev Blind.age (P : State → Prop) : Prop := ∀ s v, P s → P { s with age := v }
/-- Independent of `reverseAt`. -/
abbrev Blind.reverseAt (P : State → Prop) : Prop := ∀ s v, P s → P { s with reverseAt := v }
/-- Independent of `dies`. -/
abbrev Blind.dies (P : State → Prop) : Prop := ∀ s v, P s → P { s with dies := v }
/-- Independent of `msh`. -/
abbrev Blind.msh (P : State → Prop) : Prop := ∀ s v, P s → P { s with msh := v }
/-- Independent of `tmrs`. -/
abbrev Blind.tmrs (P : State → Prop) : Prop := ∀ s v, P s → P { s with tmrs := v }
/-- Independent of `tchs`. -/
abbrev Blind.tchs (P : State → Prop) : Prop := ∀ s v, P s → P { s with tchs := v }
/-- Independent of `stg`. -/
abbrev Blind.stg (P : State → Prop) : Prop := ∀ s v, P s → P { s with stg := v }
/-- Independent of `sw`. -/
abbrev Blind.sw (P : State → Prop) : Prop := ∀ s v, P s → P { s with sw := v }
/-- Independent of `pwr`. -/
abbrev Blind.pwr (P : State → Prop) : Prop := ∀ s v, P s → P { s with pwr := v }
/-- Independent of `nms`. -/
abbrev Blind.nms (P : State → Prop) : Prop := ∀ s v, P s → P { s with nms := v }
/-- Independent of `ring`. -/
abbrev Blind.ring (P : State → Prop) : Prop := ∀ s v, P s → P { s with ring := v }
/-- Independent of `cans`. -/
abbrev Blind.cans (P : State → Prop) : Prop := ∀ s v, P s → P { s with cans := v }
/-- Independent of `vault`. -/
abbrev Blind.vault (P : State → Prop) : Prop := ∀ s v, P s → P { s with vault := v }
/-- Independent of `acc`. -/
abbrev Blind.acc (P : State → Prop) : Prop := ∀ s v, P s → P { s with acc := v }
/-- Independent of `book`. -/
abbrev Blind.book (P : State → Prop) : Prop := ∀ s v, P s → P { s with book := v }
/-- Independent of `ageing`. -/
abbrev Blind.ageing (P : State → Prop) : Prop := ∀ s v, P s → P { s with ageing := v }
/-- Independent of `pac`. -/
abbrev Blind.pac (P : State → Prop) : Prop := ∀ s v, P s → P { s with pac := v }
/-- Independent of `tap`. -/
abbrev Blind.tap (P : State → Prop) : Prop := ∀ s v, P s → P { s with tap := v }
/-- Independent of `clk`. -/
abbrev Blind.clk (P : State → Prop) : Prop := ∀ s v, P s → P { s with clk := v }
/-- Independent of `sup`. -/
abbrev Blind.sup (P : State → Prop) : Prop := ∀ s v, P s → P { s with sup := v }

/-- Independent of everything but the queue, with what no step takes back. -/
structure Blind.All (P : State → Prop) : Prop where
  splitZero : Blind.splitZero P
  regs : Blind.regs P
  img : Blind.img P
  shadow : Blind.shadow P
  cfgAct : Blind.cfgAct P
  mem : Blind.mem P
  timers : Blind.timers P
  episodes : Blind.episodes P
  lockFirst : Blind.lockFirst P
  resetWait : Blind.resetWait P
  enableWait : Blind.enableWait P
  stride : Blind.stride P
  queues : Blind.queues P
  latches : Blind.latches P
  fcr : Blind.fcr P
  outs : Blind.outs P
  valves : Blind.valves P
  bridges : Blind.bridges P
  scan : Blind.scan P
  seq : Blind.seq P
  cal : Blind.cal P
  strobes : Blind.strobes P
  dins : Blind.dins P
  ahead : Blind.ahead P
  phyLines : Blind.phyLines P
  age : Blind.age P
  reverseAt : Blind.reverseAt P
  dies : Blind.dies P
  msh : Blind.msh P
  tmrs : Blind.tmrs P
  tchs : Blind.tchs P
  stg : Blind.stg P
  sw : Blind.sw P
  pwr : Blind.pwr P
  nms : Blind.nms P
  ring : Blind.ring P
  cans : Blind.cans P
  vault : Blind.vault P
  acc : Blind.acc P
  book : Blind.book P
  ageing : Blind.ageing P
  pac : Blind.pac P
  tap : Blind.tap P
  clk : Blind.clk P
  sup : Blind.sup P
  boot : Blind.boot P
  now : Blind.now P
  fresh : Blind.fresh P

/-- A command answers a next state with a property. -/
def Next (P : State → Prop) (o : Host.Outcome State Fault Refusal) : Prop :=
  match o with
  | .next s => P s
  | _ => False

theorem Next.of {P : State → Prop} {s : State} (h : P s) : Next P (.next s) := h

theorem Next.elim {P : State → Prop} {o : Host.Outcome State Fault Refusal} (h : Next P o) : ∃ s, o = .next s ∧ P s := by
  cases o with
  | next s => exact ⟨s, rfl, h⟩
  | fault => exact absurd h id
  | refused => exact absurd h id

/-! Shapes. -/

theorem ite_keeps {P : State → Prop} {c : Prop} [Decidable c] {a b : State} (ha : P a) (hb : P b) : P (if c then a else b) := by
  split <;> assumption

theorem nextIte_keeps {P : State → Prop} {c : Prop} [Decidable c] {a b : Host.Outcome State Fault Refusal}
    (ha : Next P a) (hb : Next P b) : Next P (if c then a else b) := by
  split <;> assumption

theorem foldl_keeps {P : State → Prop} {α : Type} {f : State → α → State} {l : List α} {s : State} (h : P s)
    (hf : ∀ s x, P s → P (f s x)) : P (l.foldl f s) := by
  induction l generalizing s with
  | nil => exact h
  | cons x l ih => exact ih (hf s x h)

theorem foldl_inv {σ α : Type} {Q : σ → Prop} {f : σ → α → σ} {l : List α} {a : σ} (h : Q a) (hf : ∀ a x, Q a → Q (f a x)) :
    Q (l.foldl f a) := by
  induction l generalizing a with
  | nil => exact h
  | cons x l ih => exact ih (hf a x h)

theorem foldlFst_keeps {P : State → Prop} {α β : Type} {f : State × β → α → State × β} {l : List α} {a : State × β} (h : P a.1)
    (hf : ∀ a x, P a.1 → P (f a x).1) : P (l.foldl f a).1 := foldl_inv (Q := fun (a : State × β) => P a.1) h hf

theorem foldlSnd_keeps {P : State → Prop} {α β : Type} {f : β × State → α → β × State} {l : List α} {a : β × State} (h : P a.2)
    (hf : ∀ a x, P a.2 → P (f a x).2) : P (l.foldl f a).2 := foldl_inv (Q := fun (a : β × State) => P a.2) h hf

theorem getD_keeps {P : State → Prop} {o : Option State} {s : State} (h : P s) (ho : ∀ x, o = some x → P x) : P (o.getD s) := by
  cases o with
  | none => exact h
  | some x => exact ho x rfl

/-! Updates of several fields at once. -/

theorem with_msh_timers {P : State → Prop} (c1 : Blind.msh P) (c2 : Blind.timers P) {s : State} (h : P s) (x y) :
    P { s with msh := x, timers := y } := c1 { s with timers := y } x (c2 s y h)

theorem with_reverseAt_timers {P : State → Prop} (c1 : Blind.reverseAt P) (c2 : Blind.timers P) {s : State} (h : P s) (x y) :
    P { s with reverseAt := x, timers := y } := c1 { s with timers := y } x (c2 s y h)

theorem with_strobes_msh {P : State → Prop} (c1 : Blind.strobes P) (c2 : Blind.msh P) {s : State} (h : P s) (x y) :
    P { s with strobes := x, msh := y } := c1 { s with msh := y } x (c2 s y h)

theorem with_msh_fresh {P : State → Prop} (c1 : Blind.msh P) (c2 : Blind.fresh P) {s : State} (h : P s) (x y) (hy : s.fresh ≤ y) :
    P { s with msh := x, fresh := y } := c1 { s with fresh := y } x (c2 s y hy h)

theorem with_boot_book {P : State → Prop} (c1 : Blind.boot P) (c2 : Blind.book P) {s : State} (h : P s) (b y)
    (hf : s.boot.field = true → b.field = true) (hv : s.boot.svmin ≤ b.svmin) : P { s with boot := b, book := y } :=
  c2 { s with boot := b } y (c1 s b hf hv h)

theorem with_scan_seq {P : State → Prop} (c1 : Blind.scan P) (c2 : Blind.seq P) {s : State} (h : P s) (x y) :
    P { s with scan := x, seq := y } := c1 { s with seq := y } x (c2 s y h)

theorem with_queues_latches {P : State → Prop} (c1 : Blind.queues P) (c2 : Blind.latches P) {s : State} (h : P s) (x y) :
    P { s with queues := x, latches := y } := c1 { s with latches := y } x (c2 s y h)

theorem with_fcr_timers {P : State → Prop} (c1 : Blind.fcr P) (c2 : Blind.timers P) {s : State} (h : P s) (x y) :
    P { s with fcr := x, timers := y } := c1 { s with timers := y } x (c2 s y h)

theorem with_sw_phyLines {P : State → Prop} (c1 : Blind.sw P) (c2 : Blind.phyLines P) {s : State} (h : P s) (x y) :
    P { s with sw := x, phyLines := y } := c1 { s with phyLines := y } x (c2 s y h)

theorem with_pac_stride {P : State → Prop} (c1 : Blind.pac P) (c2 : Blind.stride P) {s : State} (h : P s) (x y) :
    P { s with pac := x, stride := y } := c1 { s with stride := y } x (c2 s y h)

theorem with_pac_stride_boot {P : State → Prop} (c1 : Blind.pac P) (c2 : Blind.stride P) (c3 : Blind.boot P) {s : State} (h : P s) (x y b)
    (hf : s.boot.field = true → b.field = true) (hv : s.boot.svmin ≤ b.svmin) : P { s with pac := x, stride := y, boot := b } :=
  c1 { s with stride := y, boot := b } x (c2 { s with boot := b } y (c3 s b hf hv h))

theorem with_regs_shadow_cfgAct_lockFirst {P : State → Prop} (c1 : Blind.regs P) (c2 : Blind.shadow P) (c3 : Blind.cfgAct P)
    (c4 : Blind.lockFirst P) {s : State} (h : P s) (m x y z) (hm : risingB s.regs = true → risingB m = true) :
    P { s with regs := m, shadow := x, cfgAct := y, lockFirst := z } :=
  c1 { s with shadow := x, cfgAct := y, lockFirst := z } m hm
    (c2 { s with cfgAct := y, lockFirst := z } x (c3 { s with lockFirst := z } y (c4 s z h)))

/-- Everything but the queue may change, as long as nothing is taken back. -/
theorem Blind.All.any {P : State → Prop} (o : Blind.All P) {s t : State} (h : P s) (hp : t.pending = s.pending)
    (hn : s.now ≤ t.now) (hf : s.fresh ≤ t.fresh) (hr : risingB s.regs = true → risingB t.regs = true)
    (hm : Memory.wf s.mem → Memory.wf t.mem) (hb : s.boot.field = true → t.boot.field = true)
    (hv : s.boot.svmin ≤ t.boot.svmin) : P t := by
  obtain ⟨a_pending, a_now, a_splitZero, a_fresh, a_regs, a_img, a_shadow, a_cfgAct, a_mem, a_timers, a_episodes, a_lockFirst,
    a_resetWait, a_enableWait, a_stride, a_queues, a_latches, a_fcr, a_outs, a_valves, a_bridges, a_scan, a_seq, a_cal,
    a_strobes, a_dins, a_phyLines, a_age, a_reverseAt, a_dies, a_msh, a_tmrs, a_tchs, a_stg, a_sw, a_pwr, a_nms, a_ring,
    a_cans, a_vault, a_acc, a_book, a_ageing, a_pac, a_tap, a_clk, a_sup, a_boot⟩ := s
  obtain ⟨b_pending, b_now, b_splitZero, b_fresh, b_regs, b_img, b_shadow, b_cfgAct, b_mem, b_timers, b_episodes, b_lockFirst,
    b_resetWait, b_enableWait, b_stride, b_queues, b_latches, b_fcr, b_outs, b_valves, b_bridges, b_scan, b_seq, b_cal,
    b_strobes, b_dins, b_ahead, b_phyLines, b_age, b_reverseAt, b_dies, b_msh, b_tmrs, b_tchs, b_stg, b_sw, b_pwr, b_nms, b_ring,
    b_cans, b_vault, b_acc, b_book, b_ageing, b_pac, b_tap, b_clk, b_sup, b_boot⟩ := t
  dsimp only at hp hn hf hr hm hb hv
  subst hp
  have k := o.now _ b_now (by exact hn) h
  replace k := o.fresh _ b_fresh (by exact hf) k
  dsimp only at k
  replace k := o.regs _ b_regs (by exact hr) k
  dsimp only at k
  replace k := o.mem _ b_mem (by exact hm) k
  dsimp only at k
  replace k := o.boot _ b_boot (by exact hb) (by exact hv) k
  dsimp only at k
  replace k := o.splitZero _ b_splitZero k
  dsimp only at k
  replace k := o.img _ b_img k
  dsimp only at k
  replace k := o.shadow _ b_shadow k
  dsimp only at k
  replace k := o.cfgAct _ b_cfgAct k
  dsimp only at k
  replace k := o.timers _ b_timers k
  dsimp only at k
  replace k := o.episodes _ b_episodes k
  dsimp only at k
  replace k := o.lockFirst _ b_lockFirst k
  dsimp only at k
  replace k := o.resetWait _ b_resetWait k
  dsimp only at k
  replace k := o.enableWait _ b_enableWait k
  dsimp only at k
  replace k := o.stride _ b_stride k
  dsimp only at k
  replace k := o.queues _ b_queues k
  dsimp only at k
  replace k := o.latches _ b_latches k
  dsimp only at k
  replace k := o.fcr _ b_fcr k
  dsimp only at k
  replace k := o.outs _ b_outs k
  dsimp only at k
  replace k := o.valves _ b_valves k
  dsimp only at k
  replace k := o.bridges _ b_bridges k
  dsimp only at k
  replace k := o.scan _ b_scan k
  dsimp only at k
  replace k := o.seq _ b_seq k
  dsimp only at k
  replace k := o.cal _ b_cal k
  dsimp only at k
  replace k := o.strobes _ b_strobes k
  dsimp only at k
  replace k := o.dins _ b_dins k
  dsimp only at k
  replace k := o.ahead _ b_ahead k
  dsimp only at k
  replace k := o.phyLines _ b_phyLines k
  dsimp only at k
  replace k := o.age _ b_age k
  dsimp only at k
  replace k := o.reverseAt _ b_reverseAt k
  dsimp only at k
  replace k := o.dies _ b_dies k
  dsimp only at k
  replace k := o.msh _ b_msh k
  dsimp only at k
  replace k := o.tmrs _ b_tmrs k
  dsimp only at k
  replace k := o.tchs _ b_tchs k
  dsimp only at k
  replace k := o.stg _ b_stg k
  dsimp only at k
  replace k := o.sw _ b_sw k
  dsimp only at k
  replace k := o.pwr _ b_pwr k
  dsimp only at k
  replace k := o.nms _ b_nms k
  dsimp only at k
  replace k := o.ring _ b_ring k
  dsimp only at k
  replace k := o.cans _ b_cans k
  dsimp only at k
  replace k := o.vault _ b_vault k
  dsimp only at k
  replace k := o.acc _ b_acc k
  dsimp only at k
  replace k := o.book _ b_book k
  dsimp only at k
  replace k := o.ageing _ b_ageing k
  dsimp only at k
  replace k := o.pac _ b_pac k
  dsimp only at k
  replace k := o.tap _ b_tap k
  dsimp only at k
  replace k := o.clk _ b_clk k
  dsimp only at k
  replace k := o.sup _ b_sup k
  dsimp only at k
  exact k

/-! Tables. -/

theorem rising_cons {α : Type} {k : Nat} {v : α} {r : Sparse α} :
    risingB ((k, v) :: r) = true ↔ (∀ e ∈ r.head?, k < e.1) ∧ risingB r = true := by
  cases r with
  | nil => simp [risingB]
  | cons b r => simp [risingB]

theorem ins_head {α : Type} (k : Nat) (v : α) (m : Sparse α) :
    ∀ e ∈ (ins k v m).head?, e.1 = k ∨ ∃ f ∈ m.head?, e.1 = f.1 := by
  cases m with
  | nil => simp [ins]
  | cons a r =>
    obtain ⟨a, w⟩ := a
    simp only [ins]
    split
    · simp
    · split
      · simp
      · simp

theorem ins_rising {α : Type} (k : Nat) (v : α) (m : Sparse α) (h : risingB m = true) : risingB (ins k v m) = true := by
  induction m with
  | nil => rfl
  | cons a r ih =>
    obtain ⟨a, w⟩ := a
    rw [rising_cons] at h
    simp only [ins]
    split
    · rw [rising_cons]; exact ⟨by simpa using ‹k < a›, by rw [rising_cons]; exact h⟩
    · split
      · subst_vars; rw [rising_cons]; exact h
      · rw [rising_cons]
        refine ⟨fun e he => ?_, ih h.2⟩
        rcases ins_head k v r e he with hk | ⟨f, hf, hk⟩
        · omega
        · rw [hk]; exact h.1 f hf

theorem filter_rising {α : Type} (f : Nat × α → Bool) (m : Sparse α) (h : risingB m = true) :
    risingB (m.filter f) = true ∧ ∀ j, (∀ e ∈ m.head?, j < e.1) → ∀ e ∈ (m.filter f).head?, j < e.1 := by
  induction m with
  | nil => exact ⟨rfl, fun _ h => h⟩
  | cons a r ih =>
    obtain ⟨a, w⟩ := a
    rw [rising_cons] at h
    rw [List.filter_cons]
    split
    · refine ⟨?_, fun j hj => by simpa using hj⟩
      rw [rising_cons]
      exact ⟨(ih h.2).2 a h.1, (ih h.2).1⟩
    · refine ⟨(ih h.2).1, fun j hj => (ih h.2).2 j (fun e he => ?_)⟩
      have := h.1 e he
      have := hj (a, w) (by simp)
      simp only at *
      omega

theorem store_rising {α : Type} [DecidableEq α] (d : α) (k : Nat) (v : α) (m : Sparse α) (h : risingB m = true) :
    risingB (store d k v m) = true := by
  unfold store
  split
  · exact (filter_rising _ m h).1
  · exact ins_rising k v m h

/-- The canonical form is a rising list without entries at the default. -/
theorem canon_iff {α : Type} [DecidableEq α] (d : Nat → α) (m : Sparse α) :
    canonB d m = true ↔ risingB m = true ∧ ∀ e ∈ m, e.2 ≠ d e.1 := by
  induction m with
  | nil => simp [canonB, risingB]
  | cons a r ih =>
    cases r with
    | nil => simp [canonB, risingB]
    | cons b r =>
      simp only [canonB, risingB, Bool.and_eq_true, decide_eq_true_eq, ih, List.mem_cons, forall_eq_or_imp]
      tauto

theorem mem_ins {α : Type} {k : Nat} {v : α} {m : Sparse α} {e : Nat × α} (h : e ∈ ins k v m) : e = (k, v) ∨ e ∈ m := by
  induction m with
  | nil => simpa [ins] using h
  | cons a r ih =>
    obtain ⟨a, w⟩ := a
    simp only [ins] at h
    split at h
    · simpa using h
    · split at h
      · simp only [List.mem_cons] at h ⊢; tauto
      · simp only [List.mem_cons] at h ⊢
        rcases h with h | h
        · tauto
        · rcases ih h with h | h <;> tauto

theorem mem_del {α : Type} {k : Nat} {m : Sparse α} {e : Nat × α} (h : e ∈ del k m) : e ∈ m := List.mem_of_mem_filter h

theorem store_canon {α : Type} [DecidableEq α] (d : α) (k : Nat) (v : α) (m : Sparse α) (h : canonB (fun _ => d) m = true) :
    canonB (fun _ => d) (store d k v m) = true := by
  rw [canon_iff] at h ⊢
  refine ⟨store_rising d k v m h.1, fun e he => ?_⟩
  unfold store at he
  split at he
  · exact h.2 e (mem_del he)
  · rcases mem_ins he with rfl | he
    · assumption
    · exact h.2 e he

theorem storeRun_canon {α : Type} [DecidableEq α] (d : α) (k : Nat) (vs : List α) (m : Sparse α)
    (h : canonB (fun _ => d) m = true) : canonB (fun _ => d) (storeRun d k vs m) = true := by
  induction vs generalizing k m with
  | nil => exact h
  | cons v vs ih => exact ih (k + 1) _ (store_canon d k v m h)

theorem filter_canon {α : Type} [DecidableEq α] (d : α) (f : Nat × α → Bool) (m : Sparse α)
    (h : canonB (fun _ => d) m = true) : canonB (fun _ => d) (m.filter f) = true := by
  rw [canon_iff] at h ⊢
  exact ⟨(filter_rising f m h.1).1, fun e he => h.2 e (List.mem_of_mem_filter he)⟩

end Sys2Proof.Machine
end

