-- ==== Sys2Proof/Laws/KeepsOps.lean ====
section
/-! SUPPORT. What the operations of Machine/Ops.lean keep. -/
namespace Sys2Proof.Machine

theorem State.wr_keeps {P : State → Prop} (cRegs : Blind.regs P) {s : State} (h : P s) (p off : Nat) (w : Word) :
    P (State.wr s p off w) := cRegs s _ (fun hr => store_rising _ _ _ _ hr) h

theorem State.put_keeps {P : State → Prop} (cRegs : Blind.regs P) {s : State} (h : P s) (f : Fld) (v : Nat) :
    P (State.put s f v) := by
  unfold State.put
  repeat' (first | with_reducible assumption | intro _ | with_reducible apply State.wr_keeps | with_reducible apply ite_keeps
                           | with_reducible apply foldl_keeps | with_reducible apply foldlFst_keeps
                           | with_reducible apply foldlSnd_keeps | split | dsimp only)

theorem State.count_keeps {P : State → Prop} (cRegs : Blind.regs P) {s : State} (h : P s) (f : Fld) (k : Nat) :
    P (State.count s f k) := by
  unfold State.count
  repeat' (first | with_reducible assumption | intro _ | with_reducible apply State.put_keeps | with_reducible apply ite_keeps
                           | with_reducible apply foldl_keeps | with_reducible apply foldlFst_keeps
                           | with_reducible apply foldlSnd_keeps | split | dsimp only)

theorem State.evt_keeps {P : State → Prop} (cRegs : Blind.regs P) {s : State} (h : P s) (p : Nat) (bit : Nat) :
    P (State.evt s p bit) := by
  unfold State.evt
  repeat' (first | with_reducible assumption | intro _ | with_reducible apply State.put_keeps | with_reducible apply ite_keeps
                           | with_reducible apply foldl_keeps | with_reducible apply foldlFst_keeps
                           | with_reducible apply foldlSnd_keeps | split | dsimp only)

theorem State.setFlag_keeps {P : State → Prop} (cRegs : Blind.regs P) {s : State} (h : P s) (f : Fld) (bit : Nat) :
    P (State.setFlag s f bit) := by
  unfold State.setFlag
  repeat' (first | with_reducible assumption | intro _ | with_reducible apply State.put_keeps | with_reducible apply ite_keeps
                           | with_reducible apply foldl_keeps | with_reducible apply foldlFst_keeps
                           | with_reducible apply foldlSnd_keeps | split | dsimp only)

theorem State.clrFlag_keeps {P : State → Prop} (cRegs : Blind.regs P) {s : State} (h : P s) (f : Fld) (bit : Nat) :
    P (State.clrFlag s f bit) := by
  unfold State.clrFlag
  repeat' (first | with_reducible assumption | intro _ | with_reducible apply State.put_keeps | with_reducible apply ite_keeps
                           | with_reducible apply foldl_keeps | with_reducible apply foldlFst_keeps
                           | with_reducible apply foldlSnd_keeps | split | dsimp only)

theorem State.setLap_keeps {P : State → Prop} (cRegs : Blind.regs P) {s : State} (h : P s) (n : Nat) :
    P (State.setLap s n) := by
  unfold State.setLap
  repeat' (first | with_reducible assumption | intro _ | with_reducible apply State.put_keeps | with_reducible apply ite_keeps
                           | with_reducible apply foldl_keeps | with_reducible apply foldlFst_keeps
                           | with_reducible apply foldlSnd_keeps | split | dsimp only)

theorem State.reach_keeps {P : State → Prop} (cNow : Blind.now P) {s : State} (h : P s) (t : Nat) : P (State.reach s t) :=
  cNow s _ (Nat.le_max_left _ _) h

theorem State.disarm_keeps {P : State → Prop} (cTimers : Blind.timers P) {s : State} (h : P s) (k : Timer) :
    P (State.disarm s k) := by
  unfold State.disarm
  repeat' (first | with_reducible assumption | intro _ | with_reducible apply ite_keeps | with_reducible apply foldl_keeps
                           | with_reducible apply foldlFst_keeps | with_reducible apply foldlSnd_keeps | split | dsimp only
                           | with_reducible apply cTimers)

theorem State.arm_keeps {P : State → Prop} (cTimers : Blind.timers P) {s : State} (h : P s) (k : Timer) (t : Nat) :
    P (State.arm s k t) := by
  unfold State.arm
  repeat' (first | with_reducible assumption | intro _ | with_reducible apply ite_keeps | with_reducible apply foldl_keeps
                           | with_reducible apply foldlFst_keeps | with_reducible apply foldlSnd_keeps | split | dsimp only
                           | with_reducible apply cTimers)

theorem State.onExpiry_keeps {P : State → Prop} (cTimers : Blind.timers P) (cNow : Blind.now P) {s : State} (h : P s) (k : Timer)
    (f : Nat → State → State) (hf : ∀ t x, P x → P (f t x)) : P (State.onExpiry s k f) := by
  unfold State.onExpiry
  split
  · exact h
  · exact hf _ _ (State.reach_keeps cNow (State.disarm_keeps cTimers h _) _)

theorem State.setByte_keeps {P : State → Prop} (cMem : Blind.mem P) {s : State} (h : P s) (a : Nat) (b : Byte) :
    P (State.setByte s a b) := cMem s _ (fun hm => store_canon _ _ _ _ hm) h

theorem State.setBytes_keeps {P : State → Prop} (cMem : Blind.mem P) {s : State} (h : P s) (a : Nat) (bs : List Byte) :
    P (State.setBytes s a bs) := cMem s _ (fun hm => storeRun_canon _ _ _ _ hm) h

theorem State.setLe_keeps {P : State → Prop} (cMem : Blind.mem P) {s : State} (h : P s) (a : Nat) (n : Nat) (v : Nat) :
    P (State.setLe s a n v) := by
  unfold State.setLe
  repeat' (first | with_reducible assumption | intro _ | with_reducible apply State.setBytes_keeps
                           | with_reducible apply ite_keeps | with_reducible apply foldl_keeps
                           | with_reducible apply foldlFst_keeps | with_reducible apply foldlSnd_keeps | split | dsimp only)

theorem State.zero_keeps {P : State → Prop} (cMem : Blind.mem P) {s : State} (h : P s) (a b : Nat) :
    P (State.zero s a b) := cMem s _ (fun hm => filter_canon _ _ _ hm) h

theorem State.free_keeps {P : State → Prop} (cFresh : Blind.fresh P) {s : State} (h : P s) : P (State.free s).2 :=
  cFresh s _ (Nat.le_succ _) h

theorem State.detect_keeps {P : State → Prop} (cFcr : Blind.fcr P) {s : State} (h : P s) (src : Nat) (unit : Nat) :
    P (State.detect s src unit) := by
  unfold State.detect
  repeat' (first | with_reducible assumption | intro _ | with_reducible apply ite_keeps | with_reducible apply foldl_keeps
                           | with_reducible apply foldlFst_keeps | with_reducible apply foldlSnd_keeps | split | dsimp only
                           | with_reducible apply cFcr)

theorem State.yieldRegs_keeps {P : State → Prop} (cRegs : Blind.regs P) {s : State} (h : P s) (g : Nat) (cause : Nat) :
    P (State.yieldRegs s g cause) := by
  unfold State.yieldRegs
  repeat' (first | with_reducible assumption | intro _ | with_reducible apply State.evt_keeps
                           | with_reducible apply State.count_keeps | with_reducible apply State.put_keeps
                           | with_reducible apply ite_keeps | with_reducible apply foldl_keeps
                           | with_reducible apply foldlFst_keeps | with_reducible apply foldlSnd_keeps | split | dsimp only)

theorem State.record_keeps {P : State → Prop} (cRegs : Blind.regs P) (cMem : Blind.mem P) (cEpisodes : Blind.episodes P)
    (cFcr : Blind.fcr P) (fuel c t unit aux arg : Nat) {s : State} (h : P s) : P (State.record fuel c t unit aux arg s) := by
  induction fuel generalizing c t unit aux arg s with
  | zero => exact h
  | succ n ih =>
    unfold State.record
    repeat' (first | with_reducible assumption | with_reducible apply ih | with_reducible apply ih | with_reducible apply State.evt_keeps | with_reducible apply State.setLe_keeps
                    | with_reducible apply State.yieldRegs_keeps | with_reducible apply State.detect_keeps
                    | with_reducible apply State.setBytes_keeps | with_reducible apply State.count_keeps
                    | with_reducible apply ite_keeps | (fail_if_no_progress with_reducible apply cEpisodes))

theorem State.recEvent_keeps {P : State → Prop} (cRegs : Blind.regs P) (cMem : Blind.mem P) (cEpisodes : Blind.episodes P)
    (cFcr : Blind.fcr P) {s : State} (h : P s) (c t unit aux : Nat) : P (State.recEvent s c t unit aux) :=
  State.record_keeps cRegs cMem cEpisodes cFcr _ _ _ _ _ _ h

theorem State.yieldOnce_keeps {P : State → Prop} (cRegs : Blind.regs P) (cMem : Blind.mem P) (cEpisodes : Blind.episodes P)
    (cFcr : Blind.fcr P) {s : State} (h : P s) (g : Nat) (cause : Nat) (unit : Nat) (t : Nat) :
    P (State.yieldOnce s g cause unit t) := by
  unfold State.yieldOnce
  repeat' (first | with_reducible assumption | intro _ | with_reducible apply State.recEvent_keeps
                           | with_reducible apply State.yieldRegs_keeps | with_reducible apply ite_keeps
                           | with_reducible apply foldl_keeps | with_reducible apply foldlFst_keeps
                           | with_reducible apply foldlSnd_keeps | split | dsimp only)

theorem State.yieldOpen_keeps {P : State → Prop} (cRegs : Blind.regs P) (cMem : Blind.mem P) (cEpisodes : Blind.episodes P)
    (cFcr : Blind.fcr P) {s : State} (h : P s) (g : Nat) (cause : Nat) (key : Nat) (unit : Nat) (t : Nat) :
    P (State.yieldOpen s g cause key unit t) := by
  unfold State.yieldOpen
  repeat' (first | with_reducible assumption | intro _ | with_reducible apply State.yieldOnce_keeps
                           | with_reducible apply ite_keeps | with_reducible apply foldl_keeps
                           | with_reducible apply foldlFst_keeps | with_reducible apply foldlSnd_keeps | split | dsimp only
                           | with_reducible apply cEpisodes)

theorem State.yieldClose_keeps {P : State → Prop} (cEpisodes : Blind.episodes P) {s : State} (h : P s) (g : Nat) (cause : Nat)
    (key : Nat) :
    P (State.yieldClose s g cause key) := by
  unfold State.yieldClose
  repeat' (first | with_reducible assumption | intro _ | with_reducible apply ite_keeps | with_reducible apply foldl_keeps
                           | with_reducible apply foldlFst_keeps | with_reducible apply foldlSnd_keeps | split | dsimp only
                           | with_reducible apply cEpisodes)

end Sys2Proof.Machine
end

