-- ==== Sys2Proof/Laws/KeepsUnits.lean ====
section
/-! SUPPORT. What the operations of Machine/Units.lean keep. -/
namespace Sys2Proof.Machine

theorem State.setOut_keeps {P : State → Prop} (cOuts : Blind.outs P) {s : State} (h : P s) (u : OutU) (f : OutSt → OutSt) :
    P (State.setOut s u f) := by
  unfold State.setOut
  repeat' (first | with_reducible assumption | intro _ | with_reducible apply ite_keeps | with_reducible apply foldl_keeps
                           | with_reducible apply foldlFst_keeps | with_reducible apply foldlSnd_keeps | split | dsimp only
                           | with_reducible apply cOuts)

theorem State.setAge_keeps {P : State → Prop} (cAge : Blind.age P) {s : State} (h : P s) (i : Nat) (f : AgeUnit → AgeUnit) :
    P (State.setAge s i f) := by
  unfold State.setAge
  repeat' (first | with_reducible assumption | intro _ | with_reducible apply ite_keeps | with_reducible apply foldl_keeps
                           | with_reducible apply foldlFst_keeps | with_reducible apply foldlSnd_keeps | split | dsimp only
                           | with_reducible apply cAge)

theorem State.setDie_keeps {P : State → Prop} (cDies : Blind.dies P) {s : State} (h : P s) (d : Nat) (f : DieSt → DieSt) :
    P (State.setDie s d f) := by
  unfold State.setDie
  repeat' (first | with_reducible assumption | intro _ | with_reducible apply ite_keeps | with_reducible apply foldl_keeps
                           | with_reducible apply foldlFst_keeps | with_reducible apply foldlSnd_keeps | split | dsimp only
                           | with_reducible apply cDies)

theorem State.setValve_keeps {P : State → Prop} (cValves : Blind.valves P) {s : State} (h : P s) (n : Nat)
    (f : ValveSt → ValveSt) :
    P (State.setValve s n f) := by
  unfold State.setValve
  repeat' (first | with_reducible assumption | intro _ | with_reducible apply ite_keeps | with_reducible apply foldl_keeps
                           | with_reducible apply foldlFst_keeps | with_reducible apply foldlSnd_keeps | split | dsimp only
                           | with_reducible apply cValves)

theorem State.setBridge_keeps {P : State → Prop} (cBridges : Blind.bridges P) {s : State} (h : P s) (n : Nat)
    (f : BridgeSt → BridgeSt) :
    P (State.setBridge s n f) := by
  unfold State.setBridge
  repeat' (first | with_reducible assumption | intro _ | with_reducible apply ite_keeps | with_reducible apply foldl_keeps
                           | with_reducible apply foldlFst_keeps | with_reducible apply foldlSnd_keeps | split | dsimp only
                           | with_reducible apply cBridges)

theorem State.putPhase_keeps {P : State → Prop} (cRegs : Blind.regs P) (cOuts : Blind.outs P) {s : State} (h : P s) (u : OutU)
    (p : Phase) :
    P (State.putPhase s u p) := by
  unfold State.putPhase
  repeat' (first | with_reducible assumption | intro _ | with_reducible apply State.setOut_keeps
                           | with_reducible apply State.put_keeps | with_reducible apply ite_keeps
                           | with_reducible apply foldl_keeps | with_reducible apply foldlFst_keeps
                           | with_reducible apply foldlSnd_keeps | split | dsimp only)

theorem State.setPhase_keeps {P : State → Prop} (cRegs : Blind.regs P) (cOuts : Blind.outs P) {s : State} (h : P s) (u : OutU)
    (p : Phase) (t : Nat) :
    P (State.setPhase s u p t) := by
  unfold State.setPhase
  repeat' (first | with_reducible assumption | intro _ | with_reducible apply State.putPhase_keeps
                           | with_reducible apply State.setOut_keeps | with_reducible apply ite_keeps
                           | with_reducible apply foldl_keeps | with_reducible apply foldlFst_keeps
                           | with_reducible apply foldlSnd_keeps | split | dsimp only)

end Sys2Proof.Machine
end

