-- ==== Sys2Proof/Laws/KeepsProtect.lean ====
section
/-! SUPPORT. What the operations of Machine/Protect.lean keep. -/
namespace Sys2Proof.Machine

theorem State.setFault_keeps {P : State → Prop} (cRegs : Blind.regs P) (cFcr : Blind.fcr P) (cNow : Blind.now P) {s : State}
    (h : P s) (u : OutU) (bit : Nat) (t : Nat) :
    P (State.setFault s u bit t) := by
  unfold State.setFault
  repeat' (first | with_reducible assumption | intro _ | with_reducible apply State.detect_keeps
                           | with_reducible apply State.reach_keeps | with_reducible apply State.setFlag_keeps
                           | with_reducible apply State.evt_keeps | with_reducible apply ite_keeps
                           | with_reducible apply foldl_keeps | with_reducible apply foldlFst_keeps
                           | with_reducible apply foldlSnd_keeps | split | dsimp only)

theorem State.evalGood_keeps {P : State → Prop} (cOuts : Blind.outs P) {s : State} (h : P s) (u : OutU) (k : Nat) :
    P (State.evalGood s u k) := by
  unfold State.evalGood
  repeat' (first | with_reducible assumption | intro _ | with_reducible apply State.setOut_keeps
                           | with_reducible apply ite_keeps | with_reducible apply foldl_keeps
                           | with_reducible apply foldlFst_keeps | with_reducible apply foldlSnd_keeps | split | dsimp only)

theorem State.evalBad_keeps {P : State → Prop} (cRegs : Blind.regs P) (cFcr : Blind.fcr P) (cOuts : Blind.outs P)
    (cNow : Blind.now P) {s : State} (h : P s) (u : OutU) (k : Nat) (t : Nat) :
    P (State.evalBad s u k t) := by
  unfold State.evalBad
  repeat' (first | with_reducible assumption | intro _ | with_reducible apply State.setFault_keeps
                           | with_reducible apply State.setOut_keeps | with_reducible apply ite_keeps
                           | with_reducible apply foldl_keeps | with_reducible apply foldlFst_keeps
                           | with_reducible apply foldlSnd_keeps | split | dsimp only)

theorem State.bankCheck_keeps {P : State → Prop} (cRegs : Blind.regs P) (cTimers : Blind.timers P)
    (cOuts : Blind.outs P) {s : State} (h : P s) (b : Nat) (t : Nat) :
    P (State.bankCheck s b t) := by
  unfold State.bankCheck
  repeat' (first | with_reducible assumption | intro _ | with_reducible apply State.putPhase_keeps
                           | with_reducible apply State.arm_keeps | with_reducible apply ite_keeps
                           | with_reducible apply foldl_keeps | with_reducible apply foldlFst_keeps
                           | with_reducible apply foldlSnd_keeps | split | dsimp only)

theorem State.bankOf_keeps {P : State → Prop} (cRegs : Blind.regs P) (cTimers : Blind.timers P)
    (cOuts : Blind.outs P) {s : State} (h : P s) (u : OutU) (t : Nat) :
    P (State.bankOf s u t) := by
  unfold State.bankOf
  repeat' (first | with_reducible assumption | intro _ | with_reducible apply State.bankCheck_keeps
                           | with_reducible apply ite_keeps | with_reducible apply foldl_keeps
                           | with_reducible apply foldlFst_keeps | with_reducible apply foldlSnd_keeps | split | dsimp only)

theorem State.mshRemove_keeps {P : State → Prop} (cMsh : Blind.msh P) {s : State} (h : P s) (u : OutU) :
    P (State.mshRemove s u) := by
  unfold State.mshRemove
  repeat' (first | with_reducible assumption | intro _ | with_reducible apply ite_keeps | with_reducible apply foldl_keeps
                           | with_reducible apply foldlFst_keeps | with_reducible apply foldlSnd_keeps | split | dsimp only
                           | with_reducible apply cMsh)

theorem State.mshRelease_keeps {P : State → Prop} (cMsh : Blind.msh P) {s : State} (h : P s) (i : Nat) :
    P (State.mshRelease s i) := by
  unfold State.mshRelease
  repeat' (first | with_reducible assumption | intro _ | with_reducible apply ite_keeps | with_reducible apply foldl_keeps
                           | with_reducible apply foldlFst_keeps | with_reducible apply foldlSnd_keeps | split | dsimp only
                           | with_reducible apply cMsh)

theorem State.glowEnd_keeps {P : State → Prop} (cMsh : Blind.msh P) {s : State} (h : P s) (i : Nat) (k : Nat) :
    P (State.glowEnd s i k) := by
  unfold State.glowEnd
  repeat' (first | with_reducible assumption | intro _ | with_reducible apply ite_keeps | with_reducible apply foldl_keeps
                           | with_reducible apply foldlFst_keeps | with_reducible apply foldlSnd_keeps | split | dsimp only
                           | with_reducible apply cMsh)

theorem State.mshReleaseOf_keeps {P : State → Prop} (cTimers : Blind.timers P) (cMsh : Blind.msh P) {s : State} (h : P s)
    (u : OutU) :
    P (State.mshReleaseOf s u) := by
  unfold State.mshReleaseOf
  repeat' (first | with_reducible assumption | intro _ | with_reducible apply State.glowEnd_keeps
                           | with_reducible apply State.mshRelease_keeps | with_reducible apply State.disarm_keeps
                           | with_reducible apply ite_keeps | with_reducible apply foldl_keeps
                           | with_reducible apply foldlFst_keeps | with_reducible apply foldlSnd_keeps | split | dsimp only)

theorem State.phyAssert_keeps {P : State → Prop} (cTimers : Blind.timers P) (cPhyLines : Blind.phyLines P)
    (cMsh : Blind.msh P) {s : State} (h : P s) (m : Nat) :
    P (State.phyAssert s m) := by
  unfold State.phyAssert
  repeat' (first | with_reducible assumption | intro _ | with_reducible apply State.mshRelease_keeps
                           | with_reducible apply State.disarm_keeps | with_reducible apply ite_keeps
                           | with_reducible apply foldl_keeps | with_reducible apply foldlFst_keeps
                           | with_reducible apply foldlSnd_keeps | split | dsimp only | with_reducible apply cPhyLines)

theorem State.lightUp_keeps {P : State → Prop} (cMsh : Blind.msh P) {s : State} (h : P s) (i : Nat) (ks : List Nat) :
    P (State.lightUp s i ks) := by
  unfold State.lightUp
  repeat' (first | with_reducible assumption | intro _ | with_reducible apply ite_keeps | with_reducible apply foldl_keeps
                           | with_reducible apply foldlFst_keeps | with_reducible apply foldlSnd_keeps | split | dsimp only
                           | with_reducible apply cMsh)

theorem State.mshEnlist_keeps {P : State → Prop} (cMsh : Blind.msh P) {s : State} (h : P s) (u : OutU) :
    P (State.mshEnlist s u) := by
  unfold State.mshEnlist
  repeat' (first | with_reducible assumption | intro _ | with_reducible apply ite_keeps | with_reducible apply foldl_keeps
                           | with_reducible apply foldlFst_keeps | with_reducible apply foldlSnd_keeps | split | dsimp only
                           | with_reducible apply cMsh)

theorem State.hbOpen_keeps {P : State → Prop} (cRegs : Blind.regs P) (cBridges : Blind.bridges P) {s : State} (h : P s)
    (u : OutU) :
    P (State.hbOpen s u) := by
  unfold State.hbOpen
  repeat' (first | with_reducible assumption | intro _ | with_reducible apply State.setBridge_keeps
                           | with_reducible apply State.put_keeps | with_reducible apply ite_keeps
                           | with_reducible apply foldl_keeps | with_reducible apply foldlFst_keeps
                           | with_reducible apply foldlSnd_keeps | split | dsimp only)

theorem State.fastDecay_keeps {P : State → Prop} (cValves : Blind.valves P) {s : State} (h : P s) (u : OutU) :
    P (State.fastDecay s u) := by
  unfold State.fastDecay
  repeat' (first | with_reducible assumption | intro _ | with_reducible apply State.setValve_keeps
                           | with_reducible apply ite_keeps | with_reducible apply foldl_keeps
                           | with_reducible apply foldlFst_keeps | with_reducible apply foldlSnd_keeps | split | dsimp only)

theorem State.endLimit_keeps {P : State → Prop} (cRegs : Blind.regs P) (cEpisodes : Blind.episodes P)
    (cOuts : Blind.outs P) {s : State} (h : P s) (u : OutU) :
    P (State.endLimit s u) := by
  unfold State.endLimit
  repeat' (first | with_reducible assumption | intro _ | with_reducible apply State.setOut_keeps
                           | with_reducible apply State.yieldClose_keeps | with_reducible apply State.put_keeps
                           | with_reducible apply ite_keeps | with_reducible apply foldl_keeps
                           | with_reducible apply foldlFst_keeps | with_reducible apply foldlSnd_keeps | split | dsimp only)

theorem State.quiet_keeps {P : State → Prop} (cTimers : Blind.timers P) (cMsh : Blind.msh P) {s : State} (h : P s) (u : OutU) :
    P (State.quiet s u) := by
  unfold State.quiet
  repeat' (first | with_reducible assumption | intro _ | with_reducible apply ite_keeps | with_reducible apply foldl_keeps
                           | with_reducible apply foldlFst_keeps | with_reducible apply foldlSnd_keeps | split | dsimp only
                           | with_reducible apply with_msh_timers | with_reducible apply cTimers | with_reducible apply cMsh)

theorem State.reloadRetry_keeps {P : State → Prop} (cRegs : Blind.regs P) {s : State} (h : P s) (u : OutU) :
    P (State.reloadRetry s u) := by
  unfold State.reloadRetry
  repeat' (first | with_reducible assumption | intro _ | with_reducible apply State.put_keeps | with_reducible apply ite_keeps
                           | with_reducible apply foldl_keeps | with_reducible apply foldlFst_keeps
                           | with_reducible apply foldlSnd_keeps | split | dsimp only)

theorem State.enterOn_keeps {P : State → Prop} (cRegs : Blind.regs P) (cTimers : Blind.timers P)
    (cOuts : Blind.outs P) {s : State} (h : P s) (u : OutU) (t : Nat) :
    P (State.enterOn s u t) := by
  unfold State.enterOn
  repeat' (first | with_reducible assumption | intro _ | with_reducible apply State.setPhase_keeps
                           | with_reducible apply State.setOut_keeps | with_reducible apply State.arm_keeps
                           | with_reducible apply State.disarm_keeps | with_reducible apply ite_keeps
                           | with_reducible apply foldl_keeps | with_reducible apply foldlFst_keeps
                           | with_reducible apply foldlSnd_keeps | split | dsimp only)

theorem State.g5_keeps {P : State → Prop} (cRegs : Blind.regs P) (cMem : Blind.mem P) (cEpisodes : Blind.episodes P)
    (cFcr : Blind.fcr P) {s : State} (h : P s) (u : OutU) (key : Nat) (t : Nat) :
    P (State.g5 s u key t) := by
  unfold State.g5
  repeat' (first | with_reducible assumption | intro _ | with_reducible apply State.yieldOpen_keeps
                           | with_reducible apply ite_keeps | with_reducible apply foldl_keeps
                           | with_reducible apply foldlFst_keeps | with_reducible apply foldlSnd_keeps | split | dsimp only)

theorem State.g5Latch_keeps {P : State → Prop} (cRegs : Blind.regs P) (cMem : Blind.mem P) (cEpisodes : Blind.episodes P)
    (cFcr : Blind.fcr P) {s : State} (h : P s) (u : OutU) (t : Nat) :
    P (State.g5Latch s u t) := by
  unfold State.g5Latch
  repeat' (first | with_reducible assumption | intro _ | with_reducible apply State.g5_keeps | with_reducible apply ite_keeps
                           | with_reducible apply foldl_keeps | with_reducible apply foldlFst_keeps
                           | with_reducible apply foldlSnd_keeps | split | dsimp only)

theorem State.g5Trip_keeps {P : State → Prop} (cRegs : Blind.regs P) (cMem : Blind.mem P) (cEpisodes : Blind.episodes P)
    (cFcr : Blind.fcr P) {s : State} (h : P s) (u : OutU) (thermal : Bool) (t : Nat) :
    P (State.g5Trip s u thermal t) := by
  unfold State.g5Trip
  repeat' (first | with_reducible assumption | intro _ | with_reducible apply State.g5Latch_keeps
                           | with_reducible apply State.yieldOnce_keeps | with_reducible apply ite_keeps
                           | with_reducible apply foldl_keeps | with_reducible apply foldlFst_keeps
                           | with_reducible apply foldlSnd_keeps | split | dsimp only)

theorem State.g5Standing_keeps {P : State → Prop} (cRegs : Blind.regs P) (cMem : Blind.mem P) (cEpisodes : Blind.episodes P)
    (cFcr : Blind.fcr P) {s : State} (h : P s) (u : OutU) (t : Nat) :
    P (State.g5Standing s u t) := by
  unfold State.g5Standing
  repeat' (first | with_reducible assumption | intro _ | with_reducible apply State.g5Latch_keeps
                           | with_reducible apply State.g5_keeps | with_reducible apply ite_keeps
                           | with_reducible apply foldl_keeps | with_reducible apply foldlFst_keeps
                           | with_reducible apply foldlSnd_keeps | split | dsimp only)

theorem State.armHeat_keeps {P : State → Prop} (cTimers : Blind.timers P) {s : State} (h : P s) (d : Nat) (t : Nat) :
    P (State.armHeat s d t) := by
  unfold State.armHeat
  repeat' (first | with_reducible assumption | intro _ | with_reducible apply State.arm_keeps | with_reducible apply ite_keeps
                           | with_reducible apply foldl_keeps | with_reducible apply foldlFst_keeps
                           | with_reducible apply foldlSnd_keeps | split | dsimp only)

theorem State.heatJoin_keeps {P : State → Prop} (cTimers : Blind.timers P) (cDies : Blind.dies P) {s : State} (h : P s)
    (u : OutU) (t : Nat) :
    P (State.heatJoin s u t) := by
  unfold State.heatJoin
  repeat' (first | with_reducible assumption | intro _ | with_reducible apply State.armHeat_keeps
                           | with_reducible apply State.setDie_keeps | with_reducible apply ite_keeps
                           | with_reducible apply foldl_keeps | with_reducible apply foldlFst_keeps
                           | with_reducible apply foldlSnd_keeps | split | dsimp only)

theorem State.patternBrake_keeps {P : State → Prop} (cRegs : Blind.regs P) (cTimers : Blind.timers P)
    (cEpisodes : Blind.episodes P) (cOuts : Blind.outs P) (cBridges : Blind.bridges P) (cMsh : Blind.msh P) {s : State}
    (h : P s) (u : OutU) (t : Nat) :
    P (State.patternBrake s u t) := by
  unfold State.patternBrake
  repeat' (first | with_reducible assumption | intro _ | with_reducible apply State.endLimit_keeps
                           | with_reducible apply State.hbOpen_keeps | with_reducible apply State.mshReleaseOf_keeps
                           | with_reducible apply State.setPhase_keeps | with_reducible apply State.setBridge_keeps
                           | with_reducible apply ite_keeps | with_reducible apply foldl_keeps
                           | with_reducible apply foldlFst_keeps | with_reducible apply foldlSnd_keeps | split | dsimp only)

theorem State.bankRejoin_keeps {P : State → Prop} (cRegs : Blind.regs P) (cTimers : Blind.timers P) (cOuts : Blind.outs P)
    (cValves : Blind.valves P) (cDies : Blind.dies P) {s : State} (h : P s) (b : Nat) (t : Nat) :
    P (State.bankRejoin s b t) := by
  unfold State.bankRejoin
  repeat' (first | with_reducible assumption | intro _ | with_reducible apply State.heatJoin_keeps
                           | with_reducible apply State.setPhase_keeps | with_reducible apply State.setValve_keeps
                           | with_reducible apply ite_keeps | with_reducible apply foldl_keeps
                           | with_reducible apply foldlFst_keeps | with_reducible apply foldlSnd_keeps | split | dsimp only)

theorem State.startWait_keeps {P : State → Prop} (cRegs : Blind.regs P) (cTimers : Blind.timers P)
    (cEpisodes : Blind.episodes P) (cOuts : Blind.outs P) (cValves : Blind.valves P) (cBridges : Blind.bridges P)
    (cDies : Blind.dies P) (cMsh : Blind.msh P) {s : State} (h : P s) (u : OutU) (t : Nat) :
    P (State.startWait s u t) := by
  unfold State.startWait
  repeat' (first | with_reducible assumption | intro _ | with_reducible apply State.bankRejoin_keeps
                           | with_reducible apply State.patternBrake_keeps | with_reducible apply State.heatJoin_keeps
                           | with_reducible apply State.enterOn_keeps | with_reducible apply State.quiet_keeps
                           | with_reducible apply State.mshEnlist_keeps | with_reducible apply State.setPhase_keeps
                           | with_reducible apply State.setValve_keeps | with_reducible apply State.disarm_keeps
                           | with_reducible apply ite_keeps | with_reducible apply foldl_keeps
                           | with_reducible apply foldlFst_keeps | with_reducible apply foldlSnd_keeps | split | dsimp only)

theorem State.deferGo_keeps {P : State → Prop} (cRegs : Blind.regs P) (cTimers : Blind.timers P) (cEpisodes : Blind.episodes P)
    (cOuts : Blind.outs P) (cValves : Blind.valves P) (cBridges : Blind.bridges P) (cDies : Blind.dies P)
    (cMsh : Blind.msh P) {s : State} (h : P s) (m : OutU) (t : Nat) :
    P (State.deferGo s m t) := by
  unfold State.deferGo
  repeat' (first | with_reducible assumption | intro _ | with_reducible apply State.startWait_keeps
                           | with_reducible apply State.put_keeps | with_reducible apply ite_keeps
                           | with_reducible apply foldl_keeps | with_reducible apply foldlFst_keeps
                           | with_reducible apply foldlSnd_keeps | split | dsimp only)

theorem State.enterDeferred_keeps {P : State → Prop} (cRegs : Blind.regs P) (cMem : Blind.mem P) (cTimers : Blind.timers P)
    (cEpisodes : Blind.episodes P) (cFcr : Blind.fcr P) (cOuts : Blind.outs P) (cMsh : Blind.msh P) {s : State} (h : P s)
    (u : OutU) (fromOff : Bool) (t : Nat) :
    P (State.enterDeferred s u fromOff t) := by
  unfold State.enterDeferred
  repeat' (first | with_reducible assumption | intro _ | with_reducible apply State.g5Latch_keeps
                           | with_reducible apply State.quiet_keeps | with_reducible apply State.setPhase_keeps
                           | with_reducible apply State.setOut_keeps | with_reducible apply State.arm_keeps
                           | with_reducible apply ite_keeps | with_reducible apply foldl_keeps
                           | with_reducible apply foldlFst_keeps | with_reducible apply foldlSnd_keeps | split | dsimp only)

theorem State.fromOff_keeps {P : State → Prop} (cRegs : Blind.regs P) (cMem : Blind.mem P) (cTimers : Blind.timers P)
    (cEpisodes : Blind.episodes P) (cFcr : Blind.fcr P) (cOuts : Blind.outs P) (cValves : Blind.valves P)
    (cBridges : Blind.bridges P) (cDies : Blind.dies P) (cMsh : Blind.msh P) {s : State} (h : P s) (u : OutU) (t : Nat) :
    P (State.fromOff s u t) := by
  unfold State.fromOff
  repeat' (first | with_reducible assumption | intro _ | with_reducible apply State.enterDeferred_keeps
                           | with_reducible apply State.startWait_keeps | with_reducible apply State.setPhase_keeps
                           | with_reducible apply State.setValve_keeps | with_reducible apply ite_keeps
                           | with_reducible apply foldl_keeps | with_reducible apply foldlFst_keeps
                           | with_reducible apply foldlSnd_keeps | split | dsimp only)

theorem State.lockoff_keeps {P : State → Prop} (cRegs : Blind.regs P) (cTimers : Blind.timers P) (cFcr : Blind.fcr P)
    (cOuts : Blind.outs P) (cMsh : Blind.msh P) (cNow : Blind.now P) {s : State} (h : P s) (u : OutU) (bit : Nat) (t : Nat) :
    P (State.lockoff s u bit t) := by
  unfold State.lockoff
  repeat' (first | with_reducible assumption | intro _ | with_reducible apply State.quiet_keeps
                           | with_reducible apply State.setFault_keeps | with_reducible apply State.setPhase_keeps
                           | with_reducible apply State.detect_keeps | with_reducible apply ite_keeps
                           | with_reducible apply foldl_keeps | with_reducible apply foldlFst_keeps
                           | with_reducible apply foldlSnd_keeps | split | dsimp only)

theorem State.trip_keeps {P : State → Prop} (cRegs : Blind.regs P) (cMem : Blind.mem P) (cTimers : Blind.timers P)
    (cEpisodes : Blind.episodes P) (cFcr : Blind.fcr P) (cOuts : Blind.outs P) (cValves : Blind.valves P)
    (cBridges : Blind.bridges P) (cMsh : Blind.msh P) (cNow : Blind.now P) {s : State} (h : P s) (u : OutU) (flags : List Nat)
    (thermal : Bool) (t : Nat) :
    P (State.trip s u flags thermal t) := by
  unfold State.trip
  repeat' (first | with_reducible assumption | intro _ | with_reducible apply State.lockoff_keeps
                           | with_reducible apply State.g5Trip_keeps | with_reducible apply State.quiet_keeps
                           | with_reducible apply State.endLimit_keeps | with_reducible apply State.fastDecay_keeps
                           | with_reducible apply State.hbOpen_keeps | with_reducible apply State.mshReleaseOf_keeps
                           | with_reducible apply State.mshRemove_keeps | with_reducible apply State.bankOf_keeps
                           | with_reducible apply State.setFault_keeps | with_reducible apply State.setPhase_keeps
                           | with_reducible apply State.setOut_keeps | with_reducible apply State.arm_keeps
                           | with_reducible apply State.count_keeps | with_reducible apply State.put_keeps
                           | with_reducible apply ite_keeps | with_reducible apply foldl_keeps
                           | with_reducible apply foldlFst_keeps | with_reducible apply foldlSnd_keeps | split | dsimp only)

theorem State.retryDue_keeps {P : State → Prop} (cRegs : Blind.regs P) (cMem : Blind.mem P) (cTimers : Blind.timers P)
    (cEpisodes : Blind.episodes P) (cFcr : Blind.fcr P) (cOuts : Blind.outs P) (cValves : Blind.valves P)
    (cBridges : Blind.bridges P) (cDies : Blind.dies P) (cMsh : Blind.msh P) {s : State} (h : P s) (u : OutU) (t : Nat) :
    P (State.retryDue s u t) := by
  unfold State.retryDue
  repeat' (first | with_reducible assumption | intro _ | with_reducible apply State.enterDeferred_keeps
                           | with_reducible apply State.startWait_keeps | with_reducible apply State.put_keeps
                           | with_reducible apply ite_keeps | with_reducible apply foldl_keeps
                           | with_reducible apply foldlFst_keeps | with_reducible apply foldlSnd_keeps | split | dsimp only)

theorem State.deferDue_keeps {P : State → Prop} (cRegs : Blind.regs P) (cTimers : Blind.timers P) (cFcr : Blind.fcr P)
    (cOuts : Blind.outs P) (cMsh : Blind.msh P) (cNow : Blind.now P) {s : State} (h : P s) (u : OutU) (t : Nat) :
    P (State.deferDue s u t) := by
  unfold State.deferDue
  repeat' (first | with_reducible assumption | intro _ | with_reducible apply State.lockoff_keeps
                           | with_reducible apply ite_keeps | with_reducible apply foldl_keeps
                           | with_reducible apply foldlFst_keeps | with_reducible apply foldlSnd_keeps | split | dsimp only)

theorem State.latchClear_keeps {P : State → Prop} (cRegs : Blind.regs P) (cTimers : Blind.timers P)
    (cEpisodes : Blind.episodes P) (cOuts : Blind.outs P) (cValves : Blind.valves P) (cBridges : Blind.bridges P)
    (cDies : Blind.dies P) (cMsh : Blind.msh P) {s : State} (h : P s) (u : OutU) (t : Nat) :
    P (State.latchClear s u t) := by
  unfold State.latchClear
  repeat' (first | with_reducible assumption | intro _ | with_reducible apply State.deferGo_keeps
                           | with_reducible apply State.setPhase_keeps | with_reducible apply State.yieldClose_keeps
                           | with_reducible apply State.put_keeps | with_reducible apply ite_keeps
                           | with_reducible apply foldl_keeps | with_reducible apply foldlFst_keeps
                           | with_reducible apply foldlSnd_keeps | split | dsimp only)

theorem State.beginStop_keeps {P : State → Prop} (cRegs : Blind.regs P) (cTimers : Blind.timers P)
    (cEpisodes : Blind.episodes P) (cOuts : Blind.outs P) (cValves : Blind.valves P) (cBridges : Blind.bridges P)
    (cMsh : Blind.msh P) {s : State} (h : P s) (u : OutU) (t : Nat) :
    P (State.beginStop s u t) := by
  unfold State.beginStop
  repeat' (first | with_reducible assumption | intro _ | with_reducible apply State.quiet_keeps
                           | with_reducible apply State.endLimit_keeps | with_reducible apply State.hbOpen_keeps
                           | with_reducible apply State.mshReleaseOf_keeps | with_reducible apply State.setPhase_keeps
                           | with_reducible apply State.putPhase_keeps | with_reducible apply State.setValve_keeps
                           | with_reducible apply State.setOut_keeps | with_reducible apply State.arm_keeps
                           | with_reducible apply ite_keeps | with_reducible apply foldl_keeps
                           | with_reducible apply foldlFst_keeps | with_reducible apply foldlSnd_keeps | split | dsimp only)

theorem State.stopDone_keeps {P : State → Prop} (cRegs : Blind.regs P) (cMem : Blind.mem P) (cTimers : Blind.timers P)
    (cEpisodes : Blind.episodes P) (cFcr : Blind.fcr P) (cOuts : Blind.outs P) (cValves : Blind.valves P)
    (cBridges : Blind.bridges P) (cDies : Blind.dies P) (cMsh : Blind.msh P) {s : State} (h : P s) (u : OutU) (t : Nat) :
    P (State.stopDone s u t) := by
  unfold State.stopDone
  repeat' (first | with_reducible assumption | intro _ | with_reducible apply State.fromOff_keeps
                           | with_reducible apply State.quiet_keeps | with_reducible apply State.bankOf_keeps
                           | with_reducible apply State.setPhase_keeps | with_reducible apply State.setOut_keeps
                           | with_reducible apply State.put_keeps | with_reducible apply ite_keeps
                           | with_reducible apply foldl_keeps | with_reducible apply foldlFst_keeps
                           | with_reducible apply foldlSnd_keeps | split | dsimp only)

theorem State.applyOn_keeps {P : State → Prop} (cRegs : Blind.regs P) (cMem : Blind.mem P) (cTimers : Blind.timers P)
    (cEpisodes : Blind.episodes P) (cFcr : Blind.fcr P) (cOuts : Blind.outs P) (cValves : Blind.valves P)
    (cBridges : Blind.bridges P) (cDies : Blind.dies P) (cMsh : Blind.msh P) {s : State} (h : P s) (u : OutU) (t : Nat) :
    P (State.applyOn s u t) := by
  unfold State.applyOn
  repeat' (first | with_reducible assumption | intro _ | with_reducible apply State.fromOff_keeps
                           | with_reducible apply State.deferGo_keeps | with_reducible apply State.put_keeps
                           | with_reducible apply ite_keeps | with_reducible apply foldl_keeps
                           | with_reducible apply foldlFst_keeps | with_reducible apply foldlSnd_keeps | split | dsimp only)

theorem State.applyOff_keeps {P : State → Prop} (cRegs : Blind.regs P) (cTimers : Blind.timers P) (cEpisodes : Blind.episodes P)
    (cFcr : Blind.fcr P) (cOuts : Blind.outs P) (cValves : Blind.valves P) (cBridges : Blind.bridges P) (cMsh : Blind.msh P)
    (cNow : Blind.now P) {s : State} (h : P s) (u : OutU) (t : Nat) :
    P (State.applyOff s u t) := by
  unfold State.applyOff
  repeat' (first | with_reducible assumption | intro _ | with_reducible apply State.beginStop_keeps
                           | with_reducible apply State.lockoff_keeps | with_reducible apply State.reloadRetry_keeps
                           | with_reducible apply State.quiet_keeps | with_reducible apply State.mshRemove_keeps
                           | with_reducible apply State.setPhase_keeps | with_reducible apply State.put_keeps
                           | with_reducible apply ite_keeps | with_reducible apply foldl_keeps
                           | with_reducible apply foldlFst_keeps | with_reducible apply foldlSnd_keeps | split | dsimp only)

theorem State.applyCmd_keeps {P : State → Prop} (cRegs : Blind.regs P) (cMem : Blind.mem P) (cTimers : Blind.timers P)
    (cEpisodes : Blind.episodes P) (cFcr : Blind.fcr P) (cOuts : Blind.outs P) (cValves : Blind.valves P)
    (cBridges : Blind.bridges P) (cDies : Blind.dies P) (cMsh : Blind.msh P) (cNow : Blind.now P) {s : State} (h : P s)
    (u : OutU) (t : Nat) :
    P (State.applyCmd s u t) := by
  unfold State.applyCmd
  repeat' (first | with_reducible assumption | intro _ | with_reducible apply State.applyOff_keeps
                           | with_reducible apply State.applyOn_keeps | with_reducible apply State.g5Standing_keeps
                           | with_reducible apply State.reloadRetry_keeps | with_reducible apply ite_keeps
                           | with_reducible apply foldl_keeps | with_reducible apply foldlFst_keeps
                           | with_reducible apply foldlSnd_keeps | split | dsimp only)

theorem State.patternTo_keeps {P : State → Prop} (cRegs : Blind.regs P) (cMem : Blind.mem P) (cTimers : Blind.timers P)
    (cEpisodes : Blind.episodes P) (cFcr : Blind.fcr P) (cOuts : Blind.outs P) (cValves : Blind.valves P)
    (cBridges : Blind.bridges P) (cDies : Blind.dies P) (cMsh : Blind.msh P) (cNow : Blind.now P) {s : State} (h : P s)
    (u : OutU) (code : Nat) (t : Nat) :
    P (State.patternTo s u code t) := by
  unfold State.patternTo
  repeat' (first | with_reducible assumption | intro _ | with_reducible apply State.beginStop_keeps
                           | with_reducible apply State.lockoff_keeps | with_reducible apply State.enterDeferred_keeps
                           | with_reducible apply State.deferGo_keeps | with_reducible apply State.startWait_keeps
                           | with_reducible apply State.patternBrake_keeps | with_reducible apply State.quiet_keeps
                           | with_reducible apply State.bankOf_keeps | with_reducible apply State.setPhase_keeps
                           | with_reducible apply State.setDie_keeps | with_reducible apply State.setOut_keeps
                           | with_reducible apply State.put_keeps | with_reducible apply ite_keeps
                           | with_reducible apply foldl_keeps | with_reducible apply foldlFst_keeps
                           | with_reducible apply foldlSnd_keeps | split | dsimp only)

theorem State.enterFs_keeps {P : State → Prop} (cRegs : Blind.regs P) (cTimers : Blind.timers P) (cOuts : Blind.outs P)
    (cMsh : Blind.msh P) {s : State} (h : P s) (u : OutU) :
    P (State.enterFs s u) := by
  unfold State.enterFs
  repeat' (first | with_reducible assumption | intro _ | with_reducible apply State.mshRemove_keeps
                           | with_reducible apply State.setOut_keeps | with_reducible apply State.disarm_keeps
                           | with_reducible apply State.put_keeps | with_reducible apply ite_keeps
                           | with_reducible apply foldl_keeps | with_reducible apply foldlFst_keeps
                           | with_reducible apply foldlSnd_keeps | split | dsimp only)

theorem State.diePattern_keeps {P : State → Prop} (cRegs : Blind.regs P) (cMem : Blind.mem P) (cTimers : Blind.timers P)
    (cEpisodes : Blind.episodes P) (cFcr : Blind.fcr P) (cOuts : Blind.outs P) (cValves : Blind.valves P)
    (cBridges : Blind.bridges P) (cDies : Blind.dies P) (cMsh : Blind.msh P) (cNow : Blind.now P) {s : State} (h : P s)
    (d : Nat) (t : Nat) :
    P (State.diePattern s d t) := by
  unfold State.diePattern
  repeat' (first | with_reducible assumption | intro _ | with_reducible apply State.patternTo_keeps
                           | with_reducible apply ite_keeps | with_reducible apply foldl_keeps
                           | with_reducible apply foldlFst_keeps | with_reducible apply foldlSnd_keeps | split | dsimp only)

theorem State.repattern_keeps {P : State → Prop} (cRegs : Blind.regs P) (cMem : Blind.mem P) (cTimers : Blind.timers P)
    (cEpisodes : Blind.episodes P) (cFcr : Blind.fcr P) (cOuts : Blind.outs P) (cValves : Blind.valves P)
    (cBridges : Blind.bridges P) (cDies : Blind.dies P) (cMsh : Blind.msh P) (cNow : Blind.now P) {s : State} (h : P s)
    (old : State) (t : Nat) :
    P (State.repattern s old t) := by
  unfold State.repattern
  repeat' (first | with_reducible assumption | intro _ | with_reducible apply State.patternTo_keeps
                           | with_reducible apply ite_keeps | with_reducible apply foldl_keeps
                           | with_reducible apply foldlFst_keeps | with_reducible apply foldlSnd_keeps | split | dsimp only)

theorem State.dieFailsafe_keeps {P : State → Prop} (cRegs : Blind.regs P) (cMem : Blind.mem P) (cTimers : Blind.timers P)
    (cEpisodes : Blind.episodes P) (cFcr : Blind.fcr P) (cOuts : Blind.outs P) (cValves : Blind.valves P)
    (cBridges : Blind.bridges P) (cDies : Blind.dies P) (cMsh : Blind.msh P) (cNow : Blind.now P) {s : State} (h : P s)
    (d : Nat) (t : Nat) (f : DieSt → DieSt) :
    P (State.dieFailsafe s d t f) := by
  unfold State.dieFailsafe
  repeat' (first | with_reducible assumption | intro _ | with_reducible apply State.diePattern_keeps
                           | with_reducible apply State.enterFs_keeps | with_reducible apply State.armHeat_keeps
                           | with_reducible apply State.setDie_keeps | with_reducible apply State.put_keeps
                           | with_reducible apply ite_keeps | with_reducible apply foldl_keeps
                           | with_reducible apply foldlFst_keeps | with_reducible apply foldlSnd_keeps | split | dsimp only)

theorem State.exitFs_keeps {P : State → Prop} (cRegs : Blind.regs P) (cOuts : Blind.outs P) {s : State} (h : P s) (u : OutU) :
    P (State.exitFs s u) := by
  unfold State.exitFs
  repeat' (first | with_reducible assumption | intro _ | with_reducible apply State.setOut_keeps
                           | with_reducible apply State.put_keeps | with_reducible apply ite_keeps
                           | with_reducible apply foldl_keeps | with_reducible apply foldlFst_keeps
                           | with_reducible apply foldlSnd_keeps | split | dsimp only)

theorem State.g5Exit_keeps {P : State → Prop} (cRegs : Blind.regs P) (cMem : Blind.mem P) (cTimers : Blind.timers P)
    (cEpisodes : Blind.episodes P) (cFcr : Blind.fcr P) (cOuts : Blind.outs P) (cMsh : Blind.msh P)
    (cNow : Blind.now P) {s : State} (h : P s) (u : OutU) (t : Nat) :
    P (State.g5Exit s u t) := by
  unfold State.g5Exit
  repeat' (first | with_reducible assumption | intro _ | with_reducible apply State.lockoff_keeps
                           | with_reducible apply State.yieldOnce_keeps | with_reducible apply ite_keeps
                           | with_reducible apply foldl_keeps | with_reducible apply foldlFst_keeps
                           | with_reducible apply foldlSnd_keeps | split | dsimp only)

theorem State.dieRelease_keeps {P : State → Prop} (cRegs : Blind.regs P) (cMem : Blind.mem P) (cTimers : Blind.timers P)
    (cEpisodes : Blind.episodes P) (cFcr : Blind.fcr P) (cOuts : Blind.outs P) (cDies : Blind.dies P) (cMsh : Blind.msh P)
    (cNow : Blind.now P) {s : State} (h : P s) (d : Nat) (t : Nat) :
    P (State.dieRelease s d t) := by
  unfold State.dieRelease
  repeat' (first | with_reducible assumption | intro _ | with_reducible apply State.g5Exit_keeps
                           | with_reducible apply State.exitFs_keeps | with_reducible apply State.setDie_keeps
                           | with_reducible apply State.disarm_keeps | with_reducible apply State.put_keeps
                           | with_reducible apply ite_keeps | with_reducible apply foldl_keeps
                           | with_reducible apply foldlFst_keeps | with_reducible apply foldlSnd_keeps | split | dsimp only)

theorem State.dieOff_keeps {P : State → Prop} (cRegs : Blind.regs P) (cTimers : Blind.timers P) (cEpisodes : Blind.episodes P)
    (cOuts : Blind.outs P) (cBridges : Blind.bridges P) (cMsh : Blind.msh P) (cNow : Blind.now P) {s : State} (h : P s)
    (d : Nat) (t : Nat) :
    P (State.dieOff s d t) := by
  unfold State.dieOff
  repeat' (first | with_reducible assumption | intro _ | with_reducible apply State.quiet_keeps
                           | with_reducible apply State.endLimit_keeps | with_reducible apply State.hbOpen_keeps
                           | with_reducible apply State.mshReleaseOf_keeps | with_reducible apply State.mshRemove_keeps
                           | with_reducible apply State.putPhase_keeps | with_reducible apply State.reach_keeps
                           | with_reducible apply ite_keeps | with_reducible apply foldl_keeps
                           | with_reducible apply foldlFst_keeps | with_reducible apply foldlSnd_keeps | split | dsimp only)

theorem State.dieRestart_keeps {P : State → Prop} (cRegs : Blind.regs P) (cMem : Blind.mem P) (cTimers : Blind.timers P)
    (cEpisodes : Blind.episodes P) (cFcr : Blind.fcr P) (cOuts : Blind.outs P) (cValves : Blind.valves P)
    (cBridges : Blind.bridges P) (cDies : Blind.dies P) (cMsh : Blind.msh P) (cNow : Blind.now P) {s : State} (h : P s)
    (d : Nat) (t : Nat) :
    P (State.dieRestart s d t) := by
  unfold State.dieRestart
  repeat' (first | with_reducible assumption | intro _ | with_reducible apply State.diePattern_keeps
                           | with_reducible apply State.armHeat_keeps | with_reducible apply State.reloadRetry_keeps
                           | with_reducible apply State.putPhase_keeps | with_reducible apply State.setDie_keeps
                           | with_reducible apply State.yieldClose_keeps | with_reducible apply State.put_keeps
                           | with_reducible apply ite_keeps | with_reducible apply foldl_keeps
                           | with_reducible apply foldlFst_keeps | with_reducible apply foldlSnd_keeps | split | dsimp only)

end Sys2Proof.Machine
end

