-- ==== Sys2Proof/Laws/KeepsValve.lean ====
section
/-! SUPPORT. What the operations of Machine/Valve.lean keep. -/
namespace Sys2Proof.Machine

theorem State.ditherTick_keeps {P : State → Prop} (cValves : Blind.valves P) {s : State} (h : P s) (t : Nat) :
    P (State.ditherTick s t) := by
  unfold State.ditherTick
  repeat' (first | with_reducible assumption | intro _ | with_reducible apply State.setValve_keeps
                           | with_reducible apply ite_keeps | with_reducible apply foldl_keeps
                           | with_reducible apply foldlFst_keeps | with_reducible apply foldlSnd_keeps | split | dsimp only)

theorem State.bankOn_keeps {P : State → Prop} (cRegs : Blind.regs P) (cMem : Blind.mem P) (cTimers : Blind.timers P)
    (cEpisodes : Blind.episodes P) (cFcr : Blind.fcr P) (cOuts : Blind.outs P) (cMsh : Blind.msh P) {s : State} (h : P s)
    (b : Nat) (t : Nat) :
    P (State.bankOn s b t) := by
  unfold State.bankOn
  repeat' (first | with_reducible assumption | intro _ | with_reducible apply State.enterDeferred_keeps
                           | with_reducible apply State.enterOn_keeps | with_reducible apply State.putPhase_keeps
                           | with_reducible apply State.setOut_keeps | with_reducible apply State.disarm_keeps
                           | with_reducible apply ite_keeps | with_reducible apply foldl_keeps
                           | with_reducible apply foldlFst_keeps | with_reducible apply foldlSnd_keeps | split | dsimp only)

theorem State.startPeak_keeps {P : State → Prop} (cRegs : Blind.regs P) (cMem : Blind.mem P) (cTimers : Blind.timers P)
    (cEpisodes : Blind.episodes P) (cFcr : Blind.fcr P) (cOuts : Blind.outs P) (cValves : Blind.valves P)
    (cMsh : Blind.msh P) {s : State} (h : P s) (n : Nat) (t : Nat) :
    P (State.startPeak s n t) := by
  unfold State.startPeak
  repeat' (first | with_reducible assumption | intro _ | with_reducible apply State.bankOn_keeps
                           | with_reducible apply State.enterOn_keeps | with_reducible apply State.mshReleaseOf_keeps
                           | with_reducible apply State.setPhase_keeps | with_reducible apply State.setValve_keeps
                           | with_reducible apply State.arm_keeps | with_reducible apply State.disarm_keeps
                           | with_reducible apply State.count_keeps | with_reducible apply ite_keeps
                           | with_reducible apply foldl_keeps | with_reducible apply foldlFst_keeps
                           | with_reducible apply foldlSnd_keeps | split | dsimp only)

theorem State.endPeak_keeps {P : State → Prop} (cRegs : Blind.regs P) (cTimers : Blind.timers P) (cOuts : Blind.outs P)
    (cValves : Blind.valves P) (cMsh : Blind.msh P) {s : State} (h : P s) (n : Nat) (t : Nat) :
    P (State.endPeak s n t) := by
  unfold State.endPeak
  repeat' (first | with_reducible assumption | intro _ | with_reducible apply State.enterOn_keeps
                           | with_reducible apply State.mshReleaseOf_keeps | with_reducible apply State.setValve_keeps
                           | with_reducible apply State.arm_keeps | with_reducible apply State.disarm_keeps
                           | with_reducible apply ite_keeps | with_reducible apply foldl_keeps
                           | with_reducible apply foldlFst_keeps | with_reducible apply foldlSnd_keeps | split | dsimp only)

theorem State.copyProf_keeps {P : State → Prop} (cValves : Blind.valves P) {s : State} (h : P s) (n : Nat) (p : Nat) :
    P (State.copyProf s n p) := by
  unfold State.copyProf
  repeat' (first | with_reducible assumption | intro _ | with_reducible apply State.setValve_keeps
                           | with_reducible apply ite_keeps | with_reducible apply foldl_keeps
                           | with_reducible apply foldlFst_keeps | with_reducible apply foldlSnd_keeps | split | dsimp only)

theorem State.bankCandidate_keeps {P : State → Prop} (cRegs : Blind.regs P) (cMem : Blind.mem P) (cValves : Blind.valves P)
    (cMsh : Blind.msh P) {acc : State × Nat × Bool} (h : P acc.1) (n m : Nat) : P (State.bankCandidate acc n m).1 := by
  unfold State.bankCandidate
  repeat' (first | with_reducible assumption | with_reducible apply State.put_keeps | with_reducible apply State.count_keeps
                 | with_reducible apply State.setValve_keeps | with_reducible apply State.copyProf_keeps
                 | with_reducible apply ite_keeps | split | dsimp only | with_reducible apply cMsh)

theorem State.bankDecide_keeps {P : State → Prop} (cRegs : Blind.regs P) (cMem : Blind.mem P) (cValves : Blind.valves P)
    (cMsh : Blind.msh P) {s : State} (h : P s) (b m : Nat) (newStarts : Bool) : P (State.bankDecide s b m newStarts) :=
  foldlFst_keeps h (fun _ _ ha => State.bankCandidate_keeps cRegs cMem cValves cMsh ha _ _)

theorem State.applyVerdict_keeps {P : State → Prop} (cRegs : Blind.regs P) (cTimers : Blind.timers P) (cFcr : Blind.fcr P)
    (cOuts : Blind.outs P) (cValves : Blind.valves P) (cNow : Blind.now P) {s : State} (h : P s) (n : Nat) (t : Nat) :
    P (State.applyVerdict s n t) := by
  unfold State.applyVerdict
  repeat' (first | with_reducible assumption | intro _ | with_reducible apply State.setFault_keeps
                           | with_reducible apply State.setPhase_keeps | with_reducible apply State.setValve_keeps
                           | with_reducible apply State.disarm_keeps | with_reducible apply ite_keeps
                           | with_reducible apply foldl_keeps | with_reducible apply foldlFst_keeps
                           | with_reducible apply foldlSnd_keeps | split | dsimp only)

theorem State.applyValve_keeps {P : State → Prop} (cRegs : Blind.regs P) (cMem : Blind.mem P) (cTimers : Blind.timers P)
    (cEpisodes : Blind.episodes P) (cFcr : Blind.fcr P) (cOuts : Blind.outs P) (cValves : Blind.valves P)
    (cBridges : Blind.bridges P) (cDies : Blind.dies P) (cMsh : Blind.msh P) (cNow : Blind.now P) {s : State} (h : P s)
    (n : Nat) (t : Nat) :
    P (State.applyValve s n t) := by
  unfold State.applyValve
  repeat' (first | with_reducible assumption | intro _ | with_reducible apply State.applyVerdict_keeps
                           | with_reducible apply State.applyCmd_keeps | with_reducible apply State.applyOn_keeps
                           | with_reducible apply State.enterDeferred_keeps | with_reducible apply State.g5Standing_keeps
                           | with_reducible apply State.bankCheck_keeps | with_reducible apply State.setValve_keeps
                           | with_reducible apply ite_keeps | with_reducible apply foldl_keeps
                           | with_reducible apply foldlFst_keeps | with_reducible apply foldlSnd_keeps | split | dsimp only)

theorem State.applyBank_keeps {P : State → Prop} (cRegs : Blind.regs P) (cTimers : Blind.timers P) (cOuts : Blind.outs P)
    (cMsh : Blind.msh P) {s : State} (h : P s) (b : Nat) (t : Nat) :
    P (State.applyBank s b t) := by
  unfold State.applyBank
  repeat' (first | with_reducible assumption | intro _ | with_reducible apply State.reloadRetry_keeps
                           | with_reducible apply State.quiet_keeps | with_reducible apply State.setPhase_keeps
                           | with_reducible apply ite_keeps | with_reducible apply foldl_keeps
                           | with_reducible apply foldlFst_keeps | with_reducible apply foldlSnd_keeps | split | dsimp only)

theorem State.bankTrip_keeps {P : State → Prop} (cRegs : Blind.regs P) (cMem : Blind.mem P) (cTimers : Blind.timers P)
    (cEpisodes : Blind.episodes P) (cFcr : Blind.fcr P) (cOuts : Blind.outs P) (cValves : Blind.valves P)
    (cBridges : Blind.bridges P) (cMsh : Blind.msh P) (cNow : Blind.now P) {s : State} (h : P s) (b : Nat) (flags : List Nat)
    (t : Nat) :
    P (State.bankTrip s b flags t) := by
  unfold State.bankTrip
  repeat' (first | with_reducible assumption | intro _ | with_reducible apply State.trip_keeps
                           | with_reducible apply State.quiet_keeps | with_reducible apply State.mshReleaseOf_keeps
                           | with_reducible apply State.mshRemove_keeps | with_reducible apply State.setFault_keeps
                           | with_reducible apply State.setPhase_keeps | with_reducible apply State.setValve_keeps
                           | with_reducible apply State.detect_keeps | with_reducible apply ite_keeps
                           | with_reducible apply foldl_keeps | with_reducible apply foldlFst_keeps
                           | with_reducible apply foldlSnd_keeps | split | dsimp only)

theorem execPeakPhaseEnd_keeps {P : State → Prop} (cRegs : Blind.regs P) (cTimers : Blind.timers P) (cFcr : Blind.fcr P)
    (cOuts : Blind.outs P) (cValves : Blind.valves P) (cMsh : Blind.msh P) (cNow : Blind.now P) {s : State} (h : P s) (n : Nat) :
    Next P (execPeakPhaseEnd n s) := by
  unfold execPeakPhaseEnd
  repeat' (first | with_reducible assumption | intro _ | with_reducible apply State.endPeak_keeps
                           | with_reducible apply State.setFault_keeps | with_reducible apply State.onExpiry_keeps
                           | with_reducible apply State.put_keeps | with_reducible apply Next.of
                           | with_reducible apply nextIte_keeps | with_reducible apply ite_keeps
                           | with_reducible apply foldl_keeps | with_reducible apply foldlFst_keeps
                           | with_reducible apply foldlSnd_keeps | split | dsimp only)

theorem execValvePwmPeriod_keeps {P : State → Prop} (cRegs : Blind.regs P) (cTimers : Blind.timers P) (cOuts : Blind.outs P)
    (cValves : Blind.valves P) (cMsh : Blind.msh P) (cNow : Blind.now P) {s : State} (h : P s) (t : Nat) (n : Nat) (imeas : Nat)
    (duty : Nat) :
    Next P (execValvePwmPeriod t n imeas duty s) := by
  unfold execValvePwmPeriod
  repeat' (first | with_reducible assumption | intro _ | with_reducible apply State.endPeak_keeps
                           | with_reducible apply State.mshReleaseOf_keeps | with_reducible apply State.evalGood_keeps
                           | with_reducible apply State.setValve_keeps | with_reducible apply State.setOut_keeps
                           | with_reducible apply State.reach_keeps | with_reducible apply State.put_keeps
                           | with_reducible apply Next.of | with_reducible apply nextIte_keeps | with_reducible apply ite_keeps
                           | with_reducible apply foldl_keeps | with_reducible apply foldlFst_keeps
                           | with_reducible apply foldlSnd_keeps | split | dsimp only)

theorem execValveRampEnd_keeps {P : State → Prop} (cTimers : Blind.timers P) (cValves : Blind.valves P)
    (cNow : Blind.now P) {s : State} (h : P s) (n : Nat) :
    Next P (execValveRampEnd n s) := by
  unfold execValveRampEnd
  repeat' (first | with_reducible assumption | intro _ | with_reducible apply State.setValve_keeps
                           | with_reducible apply State.onExpiry_keeps | with_reducible apply Next.of
                           | with_reducible apply nextIte_keeps | with_reducible apply ite_keeps
                           | with_reducible apply foldl_keeps | with_reducible apply foldlFst_keeps
                           | with_reducible apply foldlSnd_keeps | split | dsimp only)

theorem execSlowDecayTimeout_keeps {P : State → Prop} (cRegs : Blind.regs P) (cTimers : Blind.timers P) (cFcr : Blind.fcr P)
    (cValves : Blind.valves P) (cNow : Blind.now P) {s : State} (h : P s) (n : Nat) :
    Next P (execSlowDecayTimeout n s) := by
  unfold execSlowDecayTimeout
  repeat' (first | with_reducible assumption | intro _ | with_reducible apply State.setFault_keeps
                           | with_reducible apply State.setValve_keeps | with_reducible apply State.onExpiry_keeps
                           | with_reducible apply Next.of | with_reducible apply nextIte_keeps | with_reducible apply ite_keeps
                           | with_reducible apply foldl_keeps | with_reducible apply foldlFst_keeps
                           | with_reducible apply foldlSnd_keeps | split | dsimp only)

theorem execValveOvercurrentTrip_keeps {P : State → Prop} (cRegs : Blind.regs P) (cMem : Blind.mem P) (cTimers : Blind.timers P)
    (cEpisodes : Blind.episodes P) (cFcr : Blind.fcr P) (cOuts : Blind.outs P) (cValves : Blind.valves P)
    (cBridges : Blind.bridges P) (cMsh : Blind.msh P) (cNow : Blind.now P) {s : State} (h : P s) (t : Nat) (n : Nat)
    (clamp : Bool) :
    Next P (execValveOvercurrentTrip t n clamp s) := by
  unfold execValveOvercurrentTrip
  repeat' (first | with_reducible assumption | intro _ | with_reducible apply State.trip_keeps
                           | with_reducible apply State.evalGood_keeps | with_reducible apply State.setOut_keeps
                           | with_reducible apply State.reach_keeps | with_reducible apply Next.of
                           | with_reducible apply nextIte_keeps | with_reducible apply ite_keeps
                           | with_reducible apply foldl_keeps | with_reducible apply foldlFst_keeps
                           | with_reducible apply foldlSnd_keeps | split | dsimp only)

theorem execBankOffDelayExpiry_keeps {P : State → Prop} (cRegs : Blind.regs P) (cTimers : Blind.timers P) (cOuts : Blind.outs P)
    (cNow : Blind.now P) {s : State} (h : P s) (b : Nat) :
    Next P (execBankOffDelayExpiry b s) := by
  unfold execBankOffDelayExpiry
  repeat' (first | with_reducible assumption | intro _ | with_reducible apply State.setPhase_keeps
                           | with_reducible apply State.putPhase_keeps | with_reducible apply State.onExpiry_keeps
                           | with_reducible apply State.disarm_keeps | with_reducible apply Next.of
                           | with_reducible apply nextIte_keeps | with_reducible apply ite_keeps
                           | with_reducible apply foldl_keeps | with_reducible apply foldlFst_keeps
                           | with_reducible apply foldlSnd_keeps | split | dsimp only)

theorem execBankOffStateTest_keeps {P : State → Prop} (cTimers : Blind.timers P) (cOuts : Blind.outs P)
    (cNow : Blind.now P) {s : State} (h : P s) (t : Nat) (b : Nat) :
    Next P (execBankOffStateTest t b s) := by
  unfold execBankOffStateTest
  repeat' (first | with_reducible assumption | intro _ | with_reducible apply State.setOut_keeps
                           | with_reducible apply State.arm_keeps | with_reducible apply State.reach_keeps
                           | with_reducible apply Next.of | with_reducible apply nextIte_keeps | with_reducible apply ite_keeps
                           | with_reducible apply foldl_keeps | with_reducible apply foldlFst_keeps
                           | with_reducible apply foldlSnd_keeps | split | dsimp only)

end Sys2Proof.Machine
end

