-- ==== Sys2Proof/Laws/KeepsBridge.lean ====
section
/-! SUPPORT. What the operations of Machine/Bridge.lean keep. -/
namespace Sys2Proof.Machine

theorem State.startRun_keeps {P : State → Prop} (cRegs : Blind.regs P) (cTimers : Blind.timers P) (cOuts : Blind.outs P)
    (cBridges : Blind.bridges P) {s : State} (h : P s) (n : Nat) (t : Nat) :
    P (State.startRun s n t) := by
  unfold State.startRun
  repeat' (first | with_reducible assumption | intro _ | with_reducible apply State.enterOn_keeps
                           | with_reducible apply State.setBridge_keeps | with_reducible apply State.setOut_keeps
                           | with_reducible apply State.arm_keeps | with_reducible apply State.put_keeps
                           | with_reducible apply ite_keeps | with_reducible apply foldl_keeps
                           | with_reducible apply foldlFst_keeps | with_reducible apply foldlSnd_keeps | split | dsimp only)

theorem State.hbBrake_keeps {P : State → Prop} (cRegs : Blind.regs P) (cTimers : Blind.timers P) (cOuts : Blind.outs P)
    (cBridges : Blind.bridges P) (cMsh : Blind.msh P) {s : State} (h : P s) (n : Nat) (c : Nat) (t : Nat) :
    P (State.hbBrake s n c t) := by
  unfold State.hbBrake
  repeat' (first | with_reducible assumption | intro _ | with_reducible apply State.quiet_keeps
                           | with_reducible apply State.mshReleaseOf_keeps | with_reducible apply State.mshRemove_keeps
                           | with_reducible apply State.setPhase_keeps | with_reducible apply State.setBridge_keeps
                           | with_reducible apply State.put_keeps | with_reducible apply ite_keeps
                           | with_reducible apply foldl_keeps | with_reducible apply foldlFst_keeps
                           | with_reducible apply foldlSnd_keeps | split | dsimp only)

theorem State.hbStop_keeps {P : State → Prop} (cRegs : Blind.regs P) (cTimers : Blind.timers P) (cEpisodes : Blind.episodes P)
    (cOuts : Blind.outs P) (cValves : Blind.valves P) (cBridges : Blind.bridges P) (cMsh : Blind.msh P) {s : State} (h : P s)
    (n : Nat) (t : Nat) :
    P (State.hbStop s n t) := by
  unfold State.hbStop
  repeat' (first | with_reducible assumption | intro _ | with_reducible apply State.beginStop_keeps
                           | with_reducible apply State.setBridge_keeps | with_reducible apply State.put_keeps
                           | with_reducible apply ite_keeps | with_reducible apply foldl_keeps
                           | with_reducible apply foldlFst_keeps | with_reducible apply foldlSnd_keeps | split | dsimp only)

theorem State.parkBrake_keeps {P : State → Prop} (cTimers : Blind.timers P) (cBridges : Blind.bridges P) {s : State} (h : P s)
    (n : Nat) (t : Nat) :
    P (State.parkBrake s n t) := by
  unfold State.parkBrake
  repeat' (first | with_reducible assumption | intro _ | with_reducible apply State.setBridge_keeps
                           | with_reducible apply State.arm_keeps | with_reducible apply State.disarm_keeps
                           | with_reducible apply ite_keeps | with_reducible apply foldl_keeps
                           | with_reducible apply foldlFst_keeps | with_reducible apply foldlSnd_keeps | split | dsimp only)

theorem State.applyBridge_keeps {P : State → Prop} (cRegs : Blind.regs P) (cMem : Blind.mem P) (cTimers : Blind.timers P)
    (cEpisodes : Blind.episodes P) (cFcr : Blind.fcr P) (cOuts : Blind.outs P) (cValves : Blind.valves P)
    (cBridges : Blind.bridges P) (cDies : Blind.dies P) (cMsh : Blind.msh P) (cNow : Blind.now P) {s : State} (h : P s)
    (n : Nat) (t : Nat) :
    P (State.applyBridge s n t) := by
  unfold State.applyBridge
  repeat' (first | with_reducible assumption | intro _ | with_reducible apply State.hbStop_keeps
                           | with_reducible apply State.hbBrake_keeps | with_reducible apply State.applyOff_keeps
                           | with_reducible apply State.fromOff_keeps | with_reducible apply State.reloadRetry_keeps
                           | with_reducible apply State.quiet_keeps | with_reducible apply State.mshReleaseOf_keeps
                           | with_reducible apply State.mshRemove_keeps | with_reducible apply State.setPhase_keeps
                           | with_reducible apply State.setBridge_keeps | with_reducible apply State.arm_keeps
                           | with_reducible apply State.disarm_keeps | with_reducible apply State.put_keeps
                           | with_reducible apply ite_keeps | with_reducible apply foldl_keeps
                           | with_reducible apply foldlFst_keeps | with_reducible apply foldlSnd_keeps | split | dsimp only)

theorem State.applyPosLoad_keeps {P : State → Prop} (cRegs : Blind.regs P) (cBridges : Blind.bridges P) {s : State} (h : P s)
    (n : Nat) :
    P (State.applyPosLoad s n) := by
  unfold State.applyPosLoad
  repeat' (first | with_reducible assumption | intro _ | with_reducible apply State.setBridge_keeps
                           | with_reducible apply State.put_keeps | with_reducible apply ite_keeps
                           | with_reducible apply foldl_keeps | with_reducible apply foldlFst_keeps
                           | with_reducible apply foldlSnd_keeps | split | dsimp only)

theorem State.hbCut_keeps {P : State → Prop} (cRegs : Blind.regs P) (cFcr : Blind.fcr P) (cBridges : Blind.bridges P)
    (cNow : Blind.now P) {s : State} (h : P s) (n : Nat) (flags : List Nat) (t : Nat) :
    P (State.hbCut s n flags t) := by
  unfold State.hbCut
  repeat' (first | with_reducible assumption | intro _ | with_reducible apply State.setFault_keeps
                           | with_reducible apply State.setBridge_keeps | with_reducible apply State.count_keeps
                           | with_reducible apply ite_keeps | with_reducible apply foldl_keeps
                           | with_reducible apply foldlFst_keeps | with_reducible apply foldlSnd_keeps | split | dsimp only)

theorem State.hbTrip_keeps {P : State → Prop} (cRegs : Blind.regs P) (cMem : Blind.mem P) (cTimers : Blind.timers P)
    (cEpisodes : Blind.episodes P) (cFcr : Blind.fcr P) (cOuts : Blind.outs P) (cValves : Blind.valves P)
    (cBridges : Blind.bridges P) (cMsh : Blind.msh P) (cNow : Blind.now P) {s : State} (h : P s) (n : Nat) (flags : List Nat)
    (t : Nat) :
    P (State.hbTrip s n flags t) := by
  unfold State.hbTrip
  repeat' (first | with_reducible assumption | intro _ | with_reducible apply State.hbCut_keeps
                           | with_reducible apply State.trip_keeps | with_reducible apply ite_keeps
                           | with_reducible apply foldl_keeps | with_reducible apply foldlFst_keeps
                           | with_reducible apply foldlSnd_keeps | split | dsimp only)

theorem execReverseBrakeEnd_keeps {P : State → Prop} (cRegs : Blind.regs P) (cTimers : Blind.timers P)
    (cEpisodes : Blind.episodes P) (cFcr : Blind.fcr P) (cOuts : Blind.outs P) (cValves : Blind.valves P)
    (cBridges : Blind.bridges P) (cDies : Blind.dies P) (cMsh : Blind.msh P) (cNow : Blind.now P) {s : State} (h : P s)
    (t : Nat) (n : Nat) (below : Bool) :
    Next P (execReverseBrakeEnd t n below s) := by
  unfold execReverseBrakeEnd
  repeat' (first | with_reducible assumption | intro _ | with_reducible apply State.startWait_keeps
                           | with_reducible apply State.setFault_keeps | with_reducible apply State.disarm_keeps
                           | with_reducible apply State.reach_keeps | with_reducible apply State.put_keeps
                           | with_reducible apply Next.of | with_reducible apply nextIte_keeps | with_reducible apply ite_keeps
                           | with_reducible apply foldl_keeps | with_reducible apply foldlFst_keeps
                           | with_reducible apply foldlSnd_keeps | split | dsimp only)

theorem execParkInputReached_keeps {P : State → Prop} (cTimers : Blind.timers P) (cBridges : Blind.bridges P)
    (cNow : Blind.now P) {s : State} (h : P s) (t : Nat) (n : Nat) :
    Next P (execParkInputReached t n s) := by
  unfold execParkInputReached
  repeat' (first | with_reducible assumption | intro _ | with_reducible apply State.parkBrake_keeps
                           | with_reducible apply State.reach_keeps | with_reducible apply Next.of
                           | with_reducible apply nextIte_keeps | with_reducible apply ite_keeps
                           | with_reducible apply foldl_keeps | with_reducible apply foldlFst_keeps
                           | with_reducible apply foldlSnd_keeps | split | dsimp only)

theorem execParkTimeout_keeps {P : State → Prop} (cRegs : Blind.regs P) (cTimers : Blind.timers P) (cFcr : Blind.fcr P)
    (cBridges : Blind.bridges P) (cNow : Blind.now P) {s : State} (h : P s) (n : Nat) :
    Next P (execParkTimeout n s) := by
  unfold execParkTimeout
  repeat' (first | with_reducible assumption | intro _ | with_reducible apply State.parkBrake_keeps
                           | with_reducible apply State.setFault_keeps | with_reducible apply State.onExpiry_keeps
                           | with_reducible apply Next.of | with_reducible apply nextIte_keeps | with_reducible apply ite_keeps
                           | with_reducible apply foldl_keeps | with_reducible apply foldlFst_keeps
                           | with_reducible apply foldlSnd_keeps | split | dsimp only)

theorem execParkBrakeEnd_keeps {P : State → Prop} (cRegs : Blind.regs P) (cTimers : Blind.timers P)
    (cEpisodes : Blind.episodes P) (cOuts : Blind.outs P) (cValves : Blind.valves P) (cBridges : Blind.bridges P)
    (cMsh : Blind.msh P) (cNow : Blind.now P) {s : State} (h : P s) (n : Nat) :
    Next P (execParkBrakeEnd n s) := by
  unfold execParkBrakeEnd
  repeat' (first | with_reducible assumption | intro _ | with_reducible apply State.parkBrake_keeps
                           | with_reducible apply State.hbStop_keeps | with_reducible apply State.onExpiry_keeps
                           | with_reducible apply State.put_keeps | with_reducible apply Next.of
                           | with_reducible apply nextIte_keeps | with_reducible apply ite_keeps
                           | with_reducible apply foldl_keeps | with_reducible apply foldlFst_keeps
                           | with_reducible apply foldlSnd_keeps | split | dsimp only)

theorem execChopLimit_keeps {P : State → Prop} (cRegs : Blind.regs P) (cFcr : Blind.fcr P) (cBridges : Blind.bridges P)
    (cNow : Blind.now P) {s : State} (h : P s) (t : Nat) (n : Nat) :
    Next P (execChopLimit t n s) := by
  unfold execChopLimit
  repeat' (first | with_reducible assumption | intro _ | with_reducible apply State.setFault_keeps
                           | with_reducible apply State.setBridge_keeps | with_reducible apply State.reach_keeps
                           | with_reducible apply State.put_keeps | with_reducible apply Next.of
                           | with_reducible apply nextIte_keeps | with_reducible apply ite_keeps
                           | with_reducible apply foldl_keeps | with_reducible apply foldlFst_keeps
                           | with_reducible apply foldlSnd_keeps | split | dsimp only)

theorem execBridgePwmPeriod_keeps {P : State → Prop} (cRegs : Blind.regs P) (cOuts : Blind.outs P) (cBridges : Blind.bridges P)
    (cNow : Blind.now P) {s : State} (h : P s) (t : Nat) (n : Nat) :
    Next P (execBridgePwmPeriod t n s) := by
  unfold execBridgePwmPeriod
  repeat' (first | with_reducible assumption | intro _ | with_reducible apply State.setBridge_keeps
                           | with_reducible apply State.setOut_keeps | with_reducible apply State.reach_keeps
                           | with_reducible apply State.put_keeps | with_reducible apply Next.of
                           | with_reducible apply nextIte_keeps | with_reducible apply ite_keeps
                           | with_reducible apply foldl_keeps | with_reducible apply foldlFst_keeps
                           | with_reducible apply foldlSnd_keeps | split | dsimp only)

theorem execOverloadTrip_keeps {P : State → Prop} (cRegs : Blind.regs P) (cMem : Blind.mem P) (cTimers : Blind.timers P)
    (cEpisodes : Blind.episodes P) (cFcr : Blind.fcr P) (cOuts : Blind.outs P) (cValves : Blind.valves P)
    (cBridges : Blind.bridges P) (cMsh : Blind.msh P) (cNow : Blind.now P) {s : State} (h : P s) (t : Nat) (n : Nat) :
    Next P (execOverloadTrip t n s) := by
  unfold execOverloadTrip
  repeat' (first | with_reducible assumption | intro _ | with_reducible apply State.hbTrip_keeps
                           | with_reducible apply State.reach_keeps | with_reducible apply Next.of
                           | with_reducible apply nextIte_keeps | with_reducible apply ite_keeps
                           | with_reducible apply foldl_keeps | with_reducible apply foldlFst_keeps
                           | with_reducible apply foldlSnd_keeps | split | dsimp only)

theorem execShortCircuitTrip_keeps {P : State → Prop} (cRegs : Blind.regs P) (cMem : Blind.mem P) (cTimers : Blind.timers P)
    (cEpisodes : Blind.episodes P) (cFcr : Blind.fcr P) (cOuts : Blind.outs P) (cValves : Blind.valves P)
    (cBridges : Blind.bridges P) (cMsh : Blind.msh P) (cNow : Blind.now P) {s : State} (h : P s) (t : Nat) (n : Nat)
    (high : Bool) (low : Bool) (bothLegs : Bool) :
    Next P (execShortCircuitTrip t n high low bothLegs s) := by
  unfold execShortCircuitTrip
  repeat' (first | with_reducible assumption | intro _ | with_reducible apply State.hbTrip_keeps
                           | with_reducible apply State.setOut_keeps | with_reducible apply State.reach_keeps
                           | with_reducible apply Next.of | with_reducible apply nextIte_keeps | with_reducible apply ite_keeps
                           | with_reducible apply foldl_keeps | with_reducible apply foldlFst_keeps
                           | with_reducible apply foldlSnd_keeps | split | dsimp only)

theorem execStallDetect_keeps {P : State → Prop} (cRegs : Blind.regs P) (cMem : Blind.mem P) (cTimers : Blind.timers P)
    (cEpisodes : Blind.episodes P) (cFcr : Blind.fcr P) (cOuts : Blind.outs P) (cMsh : Blind.msh P)
    (cNow : Blind.now P) {s : State} (h : P s) (t : Nat) (n : Nat) :
    Next P (execStallDetect t n s) := by
  unfold execStallDetect
  repeat' (first | with_reducible assumption | intro _ | with_reducible apply State.quiet_keeps
                           | with_reducible apply State.mshReleaseOf_keeps | with_reducible apply State.setFault_keeps
                           | with_reducible apply State.setPhase_keeps | with_reducible apply State.yieldOnce_keeps
                           | with_reducible apply State.reach_keeps | with_reducible apply State.count_keeps
                           | with_reducible apply State.put_keeps | with_reducible apply Next.of
                           | with_reducible apply nextIte_keeps | with_reducible apply ite_keeps
                           | with_reducible apply foldl_keeps | with_reducible apply foldlFst_keeps
                           | with_reducible apply foldlSnd_keeps | split | dsimp only)

theorem execRippleCrossing_keeps {P : State → Prop} (cRegs : Blind.regs P) (cBridges : Blind.bridges P)
    (cNow : Blind.now P) {s : State} (h : P s) (t : Nat) (n : Nat) :
    Next P (execRippleCrossing t n s) := by
  unfold execRippleCrossing
  repeat' (first | with_reducible assumption | intro _ | with_reducible apply State.setBridge_keeps
                           | with_reducible apply State.reach_keeps | with_reducible apply State.count_keeps
                           | with_reducible apply State.put_keeps | with_reducible apply Next.of
                           | with_reducible apply nextIte_keeps | with_reducible apply ite_keeps
                           | with_reducible apply foldl_keeps | with_reducible apply foldlFst_keeps
                           | with_reducible apply foldlSnd_keeps | split | dsimp only)

theorem execPosunc_keeps {P : State → Prop} (cRegs : Blind.regs P) (cBridges : Blind.bridges P) (cNow : Blind.now P) {s : State}
    (h : P s) (t : Nat) (n : Nat) :
    Next P (execPosunc t n s) := by
  unfold execPosunc
  repeat' (first | with_reducible assumption | intro _ | with_reducible apply State.setBridge_keeps
                           | with_reducible apply State.reach_keeps | with_reducible apply State.put_keeps
                           | with_reducible apply Next.of | with_reducible apply nextIte_keeps | with_reducible apply ite_keeps
                           | with_reducible apply foldl_keeps | with_reducible apply foldlFst_keeps
                           | with_reducible apply foldlSnd_keeps | split | dsimp only)

end Sys2Proof.Machine
end

