-- ==== Sys2Proof/Laws/KeepsLighting.lean ====
section
/-! SUPPORT. What the operations of Machine/Lighting.lean keep. -/
namespace Sys2Proof.Machine

theorem State.useBin_keeps {P : State → Prop} (cRegs : Blind.regs P) (cFcr : Blind.fcr P) (cNow : Blind.now P) {s : State}
    (h : P s) (b : Nat) (t : Nat) :
    P (State.useBin s b t).2 := by
  unfold State.useBin
  repeat' (first | with_reducible assumption | intro _ | with_reducible apply State.detect_keeps
                           | with_reducible apply State.reach_keeps | with_reducible apply State.evt_keeps
                           | with_reducible apply State.count_keeps | with_reducible apply State.put_keeps
                           | with_reducible apply ite_keeps | with_reducible apply foldl_keeps
                           | with_reducible apply foldlFst_keeps | with_reducible apply foldlSnd_keeps | split | dsimp only)

theorem State.useBins_keeps {P : State → Prop} (cRegs : Blind.regs P) (cFcr : Blind.fcr P) (cNow : Blind.now P) {s : State}
    (h : P s) (bins : List (Option Nat)) (t : Nat) :
    P (State.useBins s bins t).2 := by
  unfold State.useBins
  repeat' (first | with_reducible assumption | intro _ | with_reducible apply State.useBin_keeps
                           | with_reducible apply ite_keeps | with_reducible apply foldl_keeps
                           | with_reducible apply foldlFst_keeps | with_reducible apply foldlSnd_keeps | split | dsimp only)

theorem State.stageCal_keeps {P : State → Prop} (cRegs : Blind.regs P) (cFcr : Blind.fcr P) (cCal : Blind.cal P)
    (cNow : Blind.now P) {s : State} (h : P s) (t : Nat) :
    P (State.stageCal s t) := by
  unfold State.stageCal
  repeat' (first | with_reducible assumption | intro _ | with_reducible apply State.useBins_keeps
                           | with_reducible apply ite_keeps | with_reducible apply foldl_keeps
                           | with_reducible apply foldlFst_keeps | with_reducible apply foldlSnd_keeps | split | dsimp only
                           | with_reducible apply cCal)

theorem State.applyCal_keeps {P : State → Prop} (cRegs : Blind.regs P) (cFcr : Blind.fcr P) (cCal : Blind.cal P)
    (cNow : Blind.now P) {s : State} (h : P s) (t : Nat) :
    P (State.applyCal s t) := by
  unfold State.applyCal
  repeat' (first | with_reducible assumption | intro _ | with_reducible apply State.stageCal_keeps
                           | with_reducible apply State.put_keeps | with_reducible apply ite_keeps
                           | with_reducible apply foldl_keeps | with_reducible apply foldlFst_keeps
                           | with_reducible apply foldlSnd_keeps | split | dsimp only | with_reducible apply cCal)

theorem State.stageFrame_keeps {P : State → Prop} (cScan : Blind.scan P) {s : State} (h : P s)  :
    P (State.stageFrame s) := by
  unfold State.stageFrame
  repeat' (first | with_reducible assumption | intro _ | with_reducible apply ite_keeps | with_reducible apply foldl_keeps
                           | with_reducible apply foldlFst_keeps | with_reducible apply foldlSnd_keeps | split | dsimp only
                           | with_reducible apply cScan)

theorem State.applyFrame_keeps {P : State → Prop} (cScan : Blind.scan P) {s : State} (h : P s)  :
    P (State.applyFrame s) := by
  unfold State.applyFrame
  repeat' (first | with_reducible assumption | intro _ | with_reducible apply State.stageFrame_keeps
                           | with_reducible apply ite_keeps | with_reducible apply foldl_keeps
                           | with_reducible apply foldlFst_keeps | with_reducible apply foldlSnd_keeps | split | dsimp only
                           | with_reducible apply cScan)

theorem State.applySeq_keeps {P : State → Prop} (cSeq : Blind.seq P) {s : State} (h : P s)  :
    P (State.applySeq s) := by
  unfold State.applySeq
  repeat' (first | with_reducible assumption | intro _ | with_reducible apply ite_keeps | with_reducible apply foldl_keeps
                           | with_reducible apply foldlFst_keeps | with_reducible apply foldlSnd_keeps | split | dsimp only
                           | with_reducible apply cSeq)

theorem State.seqLoad_keeps {P : State → Prop} (cRegs : Blind.regs P) (cScan : Blind.scan P) (cSeq : Blind.seq P) {s : State}
    (h : P s)  :
    P (State.seqLoad s) := by
  unfold State.seqLoad
  repeat' (first | with_reducible assumption | intro _ | with_reducible apply State.evt_keeps | with_reducible apply ite_keeps
                           | with_reducible apply foldl_keeps | with_reducible apply foldlFst_keeps
                           | with_reducible apply foldlSnd_keeps | split | dsimp only | with_reducible apply with_scan_seq
                           | with_reducible apply cScan | with_reducible apply cSeq)

theorem State.scanEnd_keeps {P : State → Prop} (cRegs : Blind.regs P) (cOuts : Blind.outs P) (cScan : Blind.scan P) {s : State}
    (h : P s) (early : Bool) :
    P (State.scanEnd s early) := by
  unfold State.scanEnd
  repeat' (first | with_reducible assumption | intro _ | with_reducible apply State.setOut_keeps
                           | with_reducible apply State.evt_keeps | with_reducible apply State.count_keeps
                           | with_reducible apply ite_keeps | with_reducible apply foldl_keeps
                           | with_reducible apply foldlFst_keeps | with_reducible apply foldlSnd_keeps | split | dsimp only
                           | with_reducible apply cScan)

theorem State.scanStart_keeps {P : State → Prop} (cRegs : Blind.regs P) (cOuts : Blind.outs P) (cScan : Blind.scan P)
    (cSeq : Blind.seq P) {s : State} (h : P s) (early : Bool) (t : Nat) :
    P (State.scanStart s early t) := by
  unfold State.scanStart
  repeat' (first | with_reducible assumption | intro _ | with_reducible apply State.scanEnd_keeps
                           | with_reducible apply State.put_keeps | with_reducible apply ite_keeps
                           | with_reducible apply foldl_keeps | with_reducible apply foldlFst_keeps
                           | with_reducible apply foldlSnd_keeps | split | dsimp only | with_reducible apply with_scan_seq
                           | with_reducible apply with_scan_seq | with_reducible apply cScan | with_reducible apply cSeq)

theorem State.scanResume_keeps {P : State → Prop} (cScan : Blind.scan P) {s : State} (h : P s) (was : List Nat) :
    P (State.scanResume s was) := by
  unfold State.scanResume
  repeat' (first | with_reducible assumption | intro _ | with_reducible apply ite_keeps | with_reducible apply foldl_keeps
                           | with_reducible apply foldlFst_keeps | with_reducible apply foldlSnd_keeps | split | dsimp only
                           | with_reducible apply cScan)

theorem State.applyColumns_keeps {P : State → Prop} (cRegs : Blind.regs P) (cOuts : Blind.outs P) {s : State} (h : P s)
    (t : Nat) :
    P (State.applyColumns s t) := by
  unfold State.applyColumns
  repeat' (first | with_reducible assumption | intro _ | with_reducible apply State.setPhase_keeps
                           | with_reducible apply State.setOut_keeps | with_reducible apply State.put_keeps
                           | with_reducible apply ite_keeps | with_reducible apply foldl_keeps
                           | with_reducible apply foldlFst_keeps | with_reducible apply foldlSnd_keeps | split | dsimp only)

theorem execScanStart_keeps {P : State → Prop} (cRegs : Blind.regs P) (cOuts : Blind.outs P) (cScan : Blind.scan P)
    (cSeq : Blind.seq P) (cNow : Blind.now P) {s : State} (h : P s) (t : Nat) :
    Next P (execScanStart t s) := by
  unfold execScanStart
  repeat' (first | with_reducible assumption | intro _ | with_reducible apply State.scanStart_keeps
                           | with_reducible apply State.reach_keeps | with_reducible apply Next.of
                           | with_reducible apply nextIte_keeps | with_reducible apply ite_keeps
                           | with_reducible apply foldl_keeps | with_reducible apply foldlFst_keeps
                           | with_reducible apply foldlSnd_keeps | split | dsimp only)

theorem execRowSlotStart_keeps {P : State → Prop} (cRegs : Blind.regs P) (cOuts : Blind.outs P) (cScan : Blind.scan P)
    (cSeq : Blind.seq P) (cNow : Blind.now P) {s : State} (h : P s) (t : Nat) :
    Next P (execRowSlotStart t s) := by
  unfold execRowSlotStart
  repeat' (first | with_reducible assumption | intro _ | with_reducible apply State.scanStart_keeps
                           | with_reducible apply State.scanEnd_keeps | with_reducible apply State.seqLoad_keeps
                           | with_reducible apply State.setOut_keeps | with_reducible apply State.reach_keeps
                           | with_reducible apply Next.of | with_reducible apply nextIte_keeps | with_reducible apply ite_keeps
                           | with_reducible apply foldl_keeps | with_reducible apply foldlFst_keeps
                           | with_reducible apply foldlSnd_keeps | split | dsimp only | with_reducible apply cScan)

theorem execMsyncEdge_keeps {P : State → Prop} (cRegs : Blind.regs P) (cTimers : Blind.timers P) (cOuts : Blind.outs P)
    (cScan : Blind.scan P) (cSeq : Blind.seq P) (cNow : Blind.now P) {s : State} (h : P s) (t : Nat) (rising : Bool) :
    Next P (execMsyncEdge t rising s) := by
  unfold execMsyncEdge
  repeat' (first | with_reducible assumption | intro _ | with_reducible apply State.scanStart_keeps
                           | with_reducible apply State.arm_keeps | with_reducible apply State.reach_keeps
                           | with_reducible apply Next.of | with_reducible apply nextIte_keeps | with_reducible apply ite_keeps
                           | with_reducible apply foldl_keeps | with_reducible apply foldlFst_keeps
                           | with_reducible apply foldlSnd_keeps | split | dsimp only | with_reducible apply cScan)

theorem execMsyncTimeout_keeps {P : State → Prop} (cRegs : Blind.regs P) (cTimers : Blind.timers P) (cScan : Blind.scan P)
    (cNow : Blind.now P) {s : State} (h : P s)  :
    Next P (execMsyncTimeout s) := by
  unfold execMsyncTimeout
  repeat' (first | with_reducible assumption | intro _ | with_reducible apply State.onExpiry_keeps
                           | with_reducible apply State.evt_keeps | with_reducible apply Next.of
                           | with_reducible apply nextIte_keeps | with_reducible apply ite_keeps
                           | with_reducible apply foldl_keeps | with_reducible apply foldlFst_keeps
                           | with_reducible apply foldlSnd_keeps | split | dsimp only | with_reducible apply cScan)

theorem execHeadroomConversion_keeps {P : State → Prop} (cRegs : Blind.regs P) (cCal : Blind.cal P)
    (cNow : Blind.now P) {s : State} (h : P s) (t : Nat) (vs : List (Nat × Nat)) :
    Next P (execHeadroomConversion t vs s) := by
  unfold execHeadroomConversion
  repeat' (first | with_reducible assumption | intro _ | with_reducible apply State.reach_keeps
                           | with_reducible apply State.put_keeps | with_reducible apply Next.of
                           | with_reducible apply nextIte_keeps | with_reducible apply ite_keeps
                           | with_reducible apply foldl_keeps | with_reducible apply foldlFst_keeps
                           | with_reducible apply foldlSnd_keeps | split | dsimp only | with_reducible apply cCal)

theorem State.headroomTick_keeps {P : State → Prop} (cRegs : Blind.regs P) (cCal : Blind.cal P) {s : State} (h : P s)  :
    P (State.headroomTick s) := by
  unfold State.headroomTick
  repeat' (first | with_reducible assumption | intro _ | with_reducible apply State.put_keeps | with_reducible apply ite_keeps
                           | with_reducible apply foldl_keeps | with_reducible apply foldlFst_keeps
                           | with_reducible apply foldlSnd_keeps | split | dsimp only | with_reducible apply cCal)

theorem State.scanTick_keeps {P : State → Prop} (cRegs : Blind.regs P) (cTimers : Blind.timers P) (cOuts : Blind.outs P)
    (cScan : Blind.scan P) (cSeq : Blind.seq P) {s : State} (h : P s) (busy : Bool) (t : Nat) :
    P (State.scanTick s busy t) := by
  unfold State.scanTick
  repeat' (first | with_reducible assumption | intro _ | with_reducible apply State.scanStart_keeps
                           | with_reducible apply State.arm_keeps | with_reducible apply State.disarm_keeps
                           | with_reducible apply ite_keeps | with_reducible apply foldl_keeps
                           | with_reducible apply foldlFst_keeps | with_reducible apply foldlSnd_keeps | split | dsimp only
                           | with_reducible apply cScan)

end Sys2Proof.Machine
end

