-- ==== Sys2Proof/Laws/KeepsMarshal.lean ====
section
/-! SUPPORT. What the operations of Machine/Marshal.lean keep. -/
namespace Sys2Proof.Machine

theorem State.deferStart_keeps {P : State → Prop} (cRegs : Blind.regs P) (cMem : Blind.mem P) (cEpisodes : Blind.episodes P)
    (cFcr : Blind.fcr P) {s : State} (h : P s) (w : MshWait) (cause : Nat) (t : Nat) :
    P (State.deferStart s w cause t).1 := by
  unfold State.deferStart
  repeat' (first | with_reducible assumption | intro _ | with_reducible apply State.yieldOnce_keeps
                           | with_reducible apply State.evt_keeps | with_reducible apply State.count_keeps
                           | with_reducible apply ite_keeps | with_reducible apply foldl_keeps
                           | with_reducible apply foldlFst_keeps | with_reducible apply foldlSnd_keeps | split | dsimp only)

theorem State.mshDecide_keeps {P : State → Prop} (cRegs : Blind.regs P) (cMem : Blind.mem P) (cEpisodes : Blind.episodes P)
    (cFcr : Blind.fcr P) (cValves : Blind.valves P) (cMsh : Blind.msh P) {s : State} (h : P s) (t : Nat) (m : Nat) (tick : Nat)
    (fresh : Bool) :
    P (State.mshDecide s t m tick fresh) := by
  unfold State.mshDecide
  repeat' (first | with_reducible assumption | intro _ | with_reducible apply State.deferStart_keeps
                           | with_reducible apply State.bankDecide_keeps | with_reducible apply State.detect_keeps
                           | with_reducible apply State.evt_keeps | with_reducible apply State.put_keeps
                           | with_reducible apply ite_keeps | with_reducible apply foldl_keeps
                           | with_reducible apply foldlFst_keeps | with_reducible apply foldlSnd_keeps | split | dsimp only
                           | with_reducible apply cMsh)

theorem State.releasePhy_keeps {P : State → Prop} (cTimers : Blind.timers P) (cPhyLines : Blind.phyLines P) {s : State}
    (h : P s) (i : Nat) (t : Nat) :
    P (State.releasePhy s i t) := by
  unfold State.releasePhy
  repeat' (first | with_reducible assumption | intro _ | with_reducible apply State.arm_keeps | with_reducible apply ite_keeps
                           | with_reducible apply foldl_keeps | with_reducible apply foldlFst_keeps
                           | with_reducible apply foldlSnd_keeps | split | dsimp only | with_reducible apply cPhyLines)

theorem State.startInrush_keeps {P : State → Prop} (cRegs : Blind.regs P) (cTimers : Blind.timers P)
    (cOuts : Blind.outs P) {s : State} (h : P s) (n : Nat) (t : Nat) :
    P (State.startInrush s n t) := by
  unfold State.startInrush
  repeat' (first | with_reducible assumption | intro _ | with_reducible apply State.setPhase_keeps
                           | with_reducible apply State.arm_keeps | with_reducible apply State.disarm_keeps
                           | with_reducible apply ite_keeps | with_reducible apply foldl_keeps
                           | with_reducible apply foldlFst_keeps | with_reducible apply foldlSnd_keeps | split | dsimp only)

theorem State.releaseStart_keeps {P : State → Prop} (cRegs : Blind.regs P) (cMem : Blind.mem P) (cTimers : Blind.timers P)
    (cEpisodes : Blind.episodes P) (cFcr : Blind.fcr P) (cOuts : Blind.outs P) (cValves : Blind.valves P)
    (cBridges : Blind.bridges P) (cPhyLines : Blind.phyLines P) (cMsh : Blind.msh P) {s : State} (h : P s) (w : MshWait)
    (t : Nat) :
    P (State.releaseStart s w t) := by
  unfold State.releaseStart
  repeat' (first | with_reducible assumption | intro _ | with_reducible apply State.startInrush_keeps
                           | with_reducible apply State.releasePhy_keeps | with_reducible apply State.startRun_keeps
                           | with_reducible apply State.startPeak_keeps | with_reducible apply State.enterOn_keeps
                           | with_reducible apply State.lightUp_keeps | with_reducible apply ite_keeps
                           | with_reducible apply foldl_keeps | with_reducible apply foldlFst_keeps
                           | with_reducible apply foldlSnd_keeps | split | dsimp only | with_reducible apply cMsh)

theorem State.mshTick_keeps {P : State → Prop} (cRegs : Blind.regs P) (cMem : Blind.mem P) (cTimers : Blind.timers P)
    (cEpisodes : Blind.episodes P) (cFcr : Blind.fcr P) (cOuts : Blind.outs P) (cValves : Blind.valves P)
    (cBridges : Blind.bridges P) (cPhyLines : Blind.phyLines P) (cMsh : Blind.msh P) {s : State} (h : P s) (t : Nat) :
    P (State.mshTick s t) := by
  unfold State.mshTick
  repeat' (first | with_reducible assumption | intro _ | with_reducible apply State.releaseStart_keeps
                           | with_reducible apply State.deferStart_keeps | with_reducible apply State.arm_keeps
                           | with_reducible apply State.count_keeps | with_reducible apply ite_keeps
                           | with_reducible apply foldl_keeps | with_reducible apply foldlFst_keeps
                           | with_reducible apply foldlSnd_keeps | split | dsimp only | with_reducible apply cMsh)

theorem State.mshVbat_keeps {P : State → Prop} (cRegs : Blind.regs P) (cTimers : Blind.timers P) (cFcr : Blind.fcr P)
    (cMsh : Blind.msh P) {s : State} (h : P s) (t : Nat) (v : Int) :
    P (State.mshVbat s t v) := by
  unfold State.mshVbat
  repeat' (first | with_reducible assumption | intro _ | with_reducible apply State.detect_keeps
                           | with_reducible apply State.arm_keeps | with_reducible apply State.disarm_keeps
                           | with_reducible apply State.evt_keeps | with_reducible apply State.count_keeps
                           | with_reducible apply State.put_keeps | with_reducible apply ite_keeps
                           | with_reducible apply foldl_keeps | with_reducible apply foldlFst_keeps
                           | with_reducible apply foldlSnd_keeps | split | dsimp only | with_reducible apply cMsh)

theorem execStagingComplete_keeps {P : State → Prop} (cRegs : Blind.regs P) (cMem : Blind.mem P) (cEpisodes : Blind.episodes P)
    (cFcr : Blind.fcr P) (cValves : Blind.valves P) (cMsh : Blind.msh P) (cNow : Blind.now P) {s : State} (h : P s) (t : Nat) :
    Next P (execStagingComplete t s) := by
  unfold execStagingComplete
  repeat' (first | with_reducible assumption | intro _ | with_reducible apply State.mshDecide_keeps
                           | with_reducible apply State.reach_keeps | with_reducible apply Next.of
                           | with_reducible apply nextIte_keeps | with_reducible apply ite_keeps
                           | with_reducible apply foldl_keeps | with_reducible apply foldlFst_keeps
                           | with_reducible apply foldlSnd_keeps | split | dsimp only)

theorem State.learnFrom_keeps {P : State → Prop} (cRegs : Blind.regs P) {s : State} (h : P s) (l : LearnSt) :
    P (State.learnFrom s l) := by
  unfold State.learnFrom
  repeat' (first | with_reducible assumption | intro _ | with_reducible apply State.put_keeps | with_reducible apply ite_keeps
                           | with_reducible apply foldl_keeps | with_reducible apply foldlFst_keeps
                           | with_reducible apply foldlSnd_keeps | split | dsimp only)

theorem State.learnEnd_keeps {P : State → Prop} (cRegs : Blind.regs P) (cTimers : Blind.timers P)
    (cMsh : Blind.msh P) {s : State} (h : P s)  :
    P (State.learnEnd s) := by
  unfold State.learnEnd
  repeat' (first | with_reducible assumption | intro _ | with_reducible apply State.learnFrom_keeps
                           | with_reducible apply State.arm_keeps | with_reducible apply ite_keeps
                           | with_reducible apply foldl_keeps | with_reducible apply foldlFst_keeps
                           | with_reducible apply foldlSnd_keeps | split | dsimp only | with_reducible apply cMsh)

theorem execRsrcLearn_keeps {P : State → Prop} (cRegs : Blind.regs P) (cTimers : Blind.timers P) (cMsh : Blind.msh P)
    (cNow : Blind.now P) {s : State} (h : P s)  :
    Next P (execRsrcLearn s) := by
  unfold execRsrcLearn
  repeat' (first | with_reducible assumption | intro _ | with_reducible apply State.learnEnd_keeps
                           | with_reducible apply State.onExpiry_keeps | with_reducible apply Next.of
                           | with_reducible apply nextIte_keeps | with_reducible apply ite_keeps
                           | with_reducible apply foldl_keeps | with_reducible apply foldlFst_keeps
                           | with_reducible apply foldlSnd_keeps | split | dsimp only)

theorem execFreezeRecovery_keeps {P : State → Prop} (cRegs : Blind.regs P) (cTimers : Blind.timers P)
    (cNow : Blind.now P) {s : State} (h : P s)  :
    Next P (execFreezeRecovery s) := by
  unfold execFreezeRecovery
  repeat' (first | with_reducible assumption | intro _ | with_reducible apply State.onExpiry_keeps
                           | with_reducible apply State.evt_keeps | with_reducible apply State.put_keeps
                           | with_reducible apply Next.of | with_reducible apply nextIte_keeps | with_reducible apply ite_keeps
                           | with_reducible apply foldl_keeps | with_reducible apply foldlFst_keeps
                           | with_reducible apply foldlSnd_keeps | split | dsimp only)

theorem execMarshalReleasePoint_keeps {P : State → Prop} (cTimers : Blind.timers P) (cMsh : Blind.msh P)
    (cNow : Blind.now P) {s : State} (h : P s) (i : Nat) :
    Next P (execMarshalReleasePoint i s) := by
  unfold execMarshalReleasePoint
  repeat' (first | with_reducible assumption | intro _ | with_reducible apply State.mshRelease_keeps
                           | with_reducible apply State.onExpiry_keeps | with_reducible apply Next.of
                           | with_reducible apply nextIte_keeps | with_reducible apply ite_keeps
                           | with_reducible apply foldl_keeps | with_reducible apply foldlFst_keeps
                           | with_reducible apply foldlSnd_keeps | split | dsimp only)

end Sys2Proof.Machine
end

