-- ==== Sys2Proof/Laws/KeepsLoadSwitch.lean ====
section
/-! SUPPORT. What the operations of Machine/LoadSwitch.lean keep. -/
namespace Sys2Proof.Machine

theorem State.firePulse_keeps {P : State → Prop} (cRegs : Blind.regs P) (cMem : Blind.mem P) (cTimers : Blind.timers P)
    (cEpisodes : Blind.episodes P) (cFcr : Blind.fcr P) (cOuts : Blind.outs P) (cMsh : Blind.msh P)
    (cNow : Blind.now P) {s : State} (h : P s) (n : Nat) (t : Nat) (late : Bool) :
    P (State.firePulse s n t late) := by
  unfold State.firePulse
  repeat' (first | with_reducible assumption | intro _ | with_reducible apply State.setFault_keeps
                           | with_reducible apply State.setOut_keeps | with_reducible apply State.yieldOnce_keeps
                           | with_reducible apply State.arm_keeps | with_reducible apply State.disarm_keeps
                           | with_reducible apply State.count_keeps | with_reducible apply ite_keeps
                           | with_reducible apply foldl_keeps | with_reducible apply foldlFst_keeps
                           | with_reducible apply foldlSnd_keeps | split | dsimp only | with_reducible apply cMsh)

theorem State.skipPulse_keeps {P : State → Prop} (cRegs : Blind.regs P) (cMem : Blind.mem P) (cTimers : Blind.timers P)
    (cEpisodes : Blind.episodes P) (cFcr : Blind.fcr P) (cMsh : Blind.msh P) (cNow : Blind.now P) {s : State} (h : P s)
    (n : Nat) (t : Nat) :
    P (State.skipPulse s n t) := by
  unfold State.skipPulse
  repeat' (first | with_reducible assumption | intro _ | with_reducible apply State.setFault_keeps
                           | with_reducible apply State.yieldOnce_keeps | with_reducible apply State.disarm_keeps
                           | with_reducible apply State.count_keeps | with_reducible apply ite_keeps
                           | with_reducible apply foldl_keeps | with_reducible apply foldlFst_keeps
                           | with_reducible apply foldlSnd_keeps | split | dsimp only | with_reducible apply cMsh)

theorem State.pulseRetry_keeps {P : State → Prop} (cRegs : Blind.regs P) (cMem : Blind.mem P) (cTimers : Blind.timers P)
    (cEpisodes : Blind.episodes P) (cFcr : Blind.fcr P) (cOuts : Blind.outs P) (cMsh : Blind.msh P)
    (cNow : Blind.now P) {s : State} (h : P s) (t : Nat) :
    P (State.pulseRetry s t) := by
  unfold State.pulseRetry
  repeat' (first | with_reducible assumption | intro _ | with_reducible apply State.firePulse_keeps
                           | with_reducible apply ite_keeps | with_reducible apply foldl_keeps
                           | with_reducible apply foldlFst_keeps | with_reducible apply foldlSnd_keeps | split | dsimp only)

theorem State.clearFaults_keeps {P : State → Prop} (cRegs : Blind.regs P) (cMem : Blind.mem P) (cTimers : Blind.timers P)
    (cEpisodes : Blind.episodes P) (cFcr : Blind.fcr P) (cOuts : Blind.outs P) (cValves : Blind.valves P)
    (cBridges : Blind.bridges P) (cDies : Blind.dies P) (cMsh : Blind.msh P) (cNow : Blind.now P) {s : State} (h : P s)
    (u : OutU) (mask t : Nat) :
    ∀ x, State.clearFaults s u mask t = some x → P x := by
  intro x hx
  unfold State.clearFaults at hx
  dsimp only at hx
  repeat' (split at hx)
  all_goals cases hx
  all_goals repeat' (first | with_reducible assumption | intro _ | with_reducible apply State.lockoff_keeps
                           | with_reducible apply State.enterDeferred_keeps | with_reducible apply State.startWait_keeps
                           | with_reducible apply State.reloadRetry_keeps | with_reducible apply State.setPhase_keeps
                           | with_reducible apply State.yieldClose_keeps | with_reducible apply State.put_keeps
                           | with_reducible apply ite_keeps | with_reducible apply foldl_keeps
                           | with_reducible apply foldlFst_keeps | with_reducible apply foldlSnd_keeps | split | dsimp only)

theorem State.offResult_keeps {P : State → Prop} (cRegs : Blind.regs P) (cFcr : Blind.fcr P) (cOuts : Blind.outs P)
    (cNow : Blind.now P) {s : State} (h : P s) (u : OutU) (uh : Nat) (dh : Nat) (t : Nat) :
    P (State.offResult s u uh dh t) := by
  unfold State.offResult
  repeat' (first | with_reducible assumption | intro _ | with_reducible apply State.evalBad_keeps
                           | with_reducible apply State.evalGood_keeps | with_reducible apply State.setOut_keeps
                           | with_reducible apply ite_keeps | with_reducible apply foldl_keeps
                           | with_reducible apply foldlFst_keeps | with_reducible apply foldlSnd_keeps | split | dsimp only)

theorem State.bankResult_keeps {P : State → Prop} (cRegs : Blind.regs P) (cFcr : Blind.fcr P) (cOuts : Blind.outs P)
    (cNow : Blind.now P) {s : State} (h : P s) (b : Nat) (uh : Nat) (dh : Nat) (ph : Option Nat) (t : Nat) :
    P (State.bankResult s b uh dh ph t) := by
  unfold State.bankResult
  repeat' (first | with_reducible assumption | intro _ | with_reducible apply State.evalBad_keeps
                           | with_reducible apply State.evalGood_keeps | with_reducible apply State.setOut_keeps
                           | with_reducible apply ite_keeps | with_reducible apply foldl_keeps
                           | with_reducible apply foldlFst_keeps | with_reducible apply foldlSnd_keeps | split | dsimp only)

theorem execCurrentLimitEntry_keeps {P : State → Prop} (cRegs : Blind.regs P) (cMem : Blind.mem P)
    (cEpisodes : Blind.episodes P) (cFcr : Blind.fcr P) (cOuts : Blind.outs P) (cNow : Blind.now P) {s : State} (h : P s)
    (t : Nat) (u : OutU) :
    Next P (execCurrentLimitEntry t u s) := by
  unfold execCurrentLimitEntry
  repeat' (first | with_reducible assumption | intro _ | with_reducible apply State.g5_keeps
                           | with_reducible apply State.setFault_keeps | with_reducible apply State.setOut_keeps
                           | with_reducible apply State.reach_keeps | with_reducible apply State.count_keeps
                           | with_reducible apply State.put_keeps | with_reducible apply Next.of
                           | with_reducible apply nextIte_keeps | with_reducible apply ite_keeps
                           | with_reducible apply foldl_keeps | with_reducible apply foldlFst_keeps
                           | with_reducible apply foldlSnd_keeps | split | dsimp only)

theorem execLimitingEpisodeEnd_keeps {P : State → Prop} (cRegs : Blind.regs P) (cEpisodes : Blind.episodes P)
    (cOuts : Blind.outs P) (cNow : Blind.now P) {s : State} (h : P s) (t : Nat) (u : OutU) :
    Next P (execLimitingEpisodeEnd t u s) := by
  unfold execLimitingEpisodeEnd
  repeat' (first | with_reducible assumption | intro _ | with_reducible apply State.endLimit_keeps
                           | with_reducible apply State.reach_keeps | with_reducible apply Next.of
                           | with_reducible apply nextIte_keeps | with_reducible apply ite_keeps
                           | with_reducible apply foldl_keeps | with_reducible apply foldlFst_keeps
                           | with_reducible apply foldlSnd_keeps | split | dsimp only)

theorem execInrushWindowEnd_keeps {P : State → Prop} (cRegs : Blind.regs P) (cMem : Blind.mem P) (cTimers : Blind.timers P)
    (cEpisodes : Blind.episodes P) (cFcr : Blind.fcr P) (cOuts : Blind.outs P) (cMsh : Blind.msh P)
    (cNow : Blind.now P) {s : State} (h : P s) (u : OutU) :
    Next P (execInrushWindowEnd u s) := by
  unfold execInrushWindowEnd
  repeat' (first | with_reducible assumption | intro _ | with_reducible apply State.pulseRetry_keeps
                           | with_reducible apply State.enterOn_keeps | with_reducible apply State.mshReleaseOf_keeps
                           | with_reducible apply State.onExpiry_keeps | with_reducible apply Next.of
                           | with_reducible apply nextIte_keeps | with_reducible apply ite_keeps
                           | with_reducible apply foldl_keeps | with_reducible apply foldlFst_keeps
                           | with_reducible apply foldlSnd_keeps | split | dsimp only)

theorem execRetryIntervalExpiry_keeps {P : State → Prop} (cRegs : Blind.regs P) (cMem : Blind.mem P) (cTimers : Blind.timers P)
    (cEpisodes : Blind.episodes P) (cFcr : Blind.fcr P) (cOuts : Blind.outs P) (cValves : Blind.valves P)
    (cBridges : Blind.bridges P) (cDies : Blind.dies P) (cMsh : Blind.msh P) (cNow : Blind.now P) {s : State} (h : P s)
    (u : OutU) :
    Next P (execRetryIntervalExpiry u s) := by
  unfold execRetryIntervalExpiry
  repeat' (first | with_reducible assumption | intro _ | with_reducible apply State.retryDue_keeps
                           | with_reducible apply State.onExpiry_keeps | with_reducible apply Next.of
                           | with_reducible apply nextIte_keeps | with_reducible apply ite_keeps
                           | with_reducible apply foldl_keeps | with_reducible apply foldlFst_keeps
                           | with_reducible apply foldlSnd_keeps | split | dsimp only)

theorem execDeferralLimitExpiry_keeps {P : State → Prop} (cRegs : Blind.regs P) (cTimers : Blind.timers P) (cFcr : Blind.fcr P)
    (cOuts : Blind.outs P) (cMsh : Blind.msh P) (cNow : Blind.now P) {s : State} (h : P s) (u : OutU) :
    Next P (execDeferralLimitExpiry u s) := by
  unfold execDeferralLimitExpiry
  repeat' (first | with_reducible assumption | intro _ | with_reducible apply State.deferDue_keeps
                           | with_reducible apply State.onExpiry_keeps | with_reducible apply Next.of
                           | with_reducible apply nextIte_keeps | with_reducible apply ite_keeps
                           | with_reducible apply foldl_keeps | with_reducible apply foldlFst_keeps
                           | with_reducible apply foldlSnd_keeps | split | dsimp only)

theorem execRetryReloadTimer_keeps {P : State → Prop} (cRegs : Blind.regs P) (cTimers : Blind.timers P)
    (cNow : Blind.now P) {s : State} (h : P s) (u : OutU) :
    Next P (execRetryReloadTimer u s) := by
  unfold execRetryReloadTimer
  repeat' (first | with_reducible assumption | intro _ | with_reducible apply State.reloadRetry_keeps
                           | with_reducible apply State.onExpiry_keeps | with_reducible apply Next.of
                           | with_reducible apply nextIte_keeps | with_reducible apply ite_keeps
                           | with_reducible apply foldl_keeps | with_reducible apply foldlFst_keeps
                           | with_reducible apply foldlSnd_keeps | split | dsimp only)

theorem execDemagDump_keeps {P : State → Prop} (cRegs : Blind.regs P) (cMem : Blind.mem P) (cTimers : Blind.timers P)
    (cEpisodes : Blind.episodes P) (cFcr : Blind.fcr P) (cOuts : Blind.outs P) (cValves : Blind.valves P)
    (cBridges : Blind.bridges P) (cDies : Blind.dies P) (cMsh : Blind.msh P) (cNow : Blind.now P) {s : State} (h : P s)
    (u : OutU) :
    Next P (execDemagDump u s) := by
  unfold execDemagDump
  repeat' (first | with_reducible assumption | intro _ | with_reducible apply State.stopDone_keeps
                           | with_reducible apply State.g5Latch_keeps | with_reducible apply State.setFault_keeps
                           | with_reducible apply State.onExpiry_keeps | with_reducible apply State.count_keeps
                           | with_reducible apply State.put_keeps | with_reducible apply Next.of
                           | with_reducible apply nextIte_keeps | with_reducible apply ite_keeps
                           | with_reducible apply foldl_keeps | with_reducible apply foldlFst_keeps
                           | with_reducible apply foldlSnd_keeps | split | dsimp only)

theorem execOutputStopComplete_keeps {P : State → Prop} (cRegs : Blind.regs P) (cMem : Blind.mem P) (cTimers : Blind.timers P)
    (cEpisodes : Blind.episodes P) (cFcr : Blind.fcr P) (cOuts : Blind.outs P) (cValves : Blind.valves P)
    (cBridges : Blind.bridges P) (cDies : Blind.dies P) (cMsh : Blind.msh P) (cNow : Blind.now P) {s : State} (h : P s)
    (t : Nat) (u : OutU) :
    Next P (execOutputStopComplete t u s) := by
  unfold execOutputStopComplete
  repeat' (first | with_reducible assumption | intro _ | with_reducible apply State.stopDone_keeps
                           | with_reducible apply State.reach_keeps | with_reducible apply Next.of
                           | with_reducible apply nextIte_keeps | with_reducible apply ite_keeps
                           | with_reducible apply foldl_keeps | with_reducible apply foldlFst_keeps
                           | with_reducible apply foldlSnd_keeps | split | dsimp only)

theorem execDiagFilterExpiry_keeps {P : State → Prop} (cRegs : Blind.regs P) (cMem : Blind.mem P) (cEpisodes : Blind.episodes P)
    (cFcr : Blind.fcr P) (cOuts : Blind.outs P) (cNow : Blind.now P) {s : State} (h : P s) (t : Nat) (u : OutU) (d : Diag)
    (holds : Bool) :
    Next P (execDiagFilterExpiry t u d holds s) := by
  unfold execDiagFilterExpiry
  repeat' (first | with_reducible assumption | intro _ | with_reducible apply State.g5_keeps
                           | with_reducible apply State.evalBad_keeps | with_reducible apply State.evalGood_keeps
                           | with_reducible apply State.setFault_keeps | with_reducible apply State.setPhase_keeps
                           | with_reducible apply State.reach_keeps | with_reducible apply Next.of
                           | with_reducible apply nextIte_keeps | with_reducible apply ite_keeps
                           | with_reducible apply foldl_keeps | with_reducible apply foldlFst_keeps
                           | with_reducible apply foldlSnd_keeps | split | dsimp only)

theorem execOffStateTest_keeps {P : State → Prop} (cTimers : Blind.timers P) (cOuts : Blind.outs P)
    (cNow : Blind.now P) {s : State} (h : P s) (t : Nat) (b : TestBlock) :
    Next P (execOffStateTest t b s) := by
  unfold execOffStateTest
  repeat' (first | with_reducible assumption | intro _ | with_reducible apply State.setOut_keeps
                           | with_reducible apply State.arm_keeps | with_reducible apply State.reach_keeps
                           | with_reducible apply Next.of | with_reducible apply nextIte_keeps | with_reducible apply ite_keeps
                           | with_reducible apply foldl_keeps | with_reducible apply foldlFst_keeps
                           | with_reducible apply foldlSnd_keeps | split | dsimp only)

theorem execOffTestPhaseEnd_keeps {P : State → Prop} (cRegs : Blind.regs P) (cTimers : Blind.timers P) (cFcr : Blind.fcr P)
    (cOuts : Blind.outs P) (cNow : Blind.now P) {s : State} (h : P s) (u : OutU) (high : Nat) :
    Next P (execOffTestPhaseEnd u high s) := by
  unfold execOffTestPhaseEnd
  repeat' (first | with_reducible assumption | intro _ | with_reducible apply State.bankResult_keeps
                           | with_reducible apply State.offResult_keeps | with_reducible apply State.setOut_keeps
                           | with_reducible apply State.onExpiry_keeps | with_reducible apply State.arm_keeps
                           | with_reducible apply Next.of | with_reducible apply nextIte_keeps | with_reducible apply ite_keeps
                           | with_reducible apply foldl_keeps | with_reducible apply foldlFst_keeps
                           | with_reducible apply foldlSnd_keeps | split | dsimp only)

end Sys2Proof.Machine
end

