-- ==== Sys2Proof/Laws/KeepsFailSafe.lean ====
section
/-! SUPPORT. What the operations of Machine/FailSafe.lean keep. -/
namespace Sys2Proof.Machine

theorem State.heatStart_keeps {P : State → Prop} (cRegs : Blind.regs P) (cMem : Blind.mem P) (cTimers : Blind.timers P)
    (cEpisodes : Blind.episodes P) (cFcr : Blind.fcr P) (cOuts : Blind.outs P) (cValves : Blind.valves P)
    (cMsh : Blind.msh P) {s : State} (h : P s) (u : OutU) (t : Nat) :
    P (State.heatStart s u t) := by
  unfold State.heatStart
  repeat' (first | with_reducible assumption | intro _ | with_reducible apply State.startInrush_keeps
                           | with_reducible apply State.startPeak_keeps | with_reducible apply State.enterOn_keeps
                           | with_reducible apply ite_keeps | with_reducible apply foldl_keeps
                           | with_reducible apply foldlFst_keeps | with_reducible apply foldlSnd_keeps | split | dsimp only
                           | with_reducible apply cMsh)

theorem HeatRun.join_keeps {P : State → Prop} (cRegs : Blind.regs P) (cMem : Blind.mem P) (cTimers : Blind.timers P)
    (cEpisodes : Blind.episodes P) (cFcr : Blind.fcr P) (cOuts : Blind.outs P) (cValves : Blind.valves P) (cMsh : Blind.msh P)
    {r : HeatRun} (h : P r.st) (u : OutU) (t : Nat) : P (r.join u t).st := by
  have h1 := State.heatStart_keeps cRegs cMem cTimers cEpisodes cFcr cOuts cValves cMsh h u t
  unfold HeatRun.join
  split
  · exact h1
  · split
    · exact h1
    · exact h

theorem HeatRun.consider_keeps {P : State → Prop} (cRegs : Blind.regs P) (cMem : Blind.mem P) (cTimers : Blind.timers P)
    (cEpisodes : Blind.episodes P) (cFcr : Blind.fcr P) (cOuts : Blind.outs P) (cValves : Blind.valves P) (cMsh : Blind.msh P)
    (cNow : Blind.now P) {r : HeatRun} (h : P r.st) (u : OutU) (t : Nat) : P (r.consider u t).st := by
  have hj := HeatRun.join_keeps cRegs cMem cTimers cEpisodes cFcr cOuts cValves cMsh h u t
  unfold HeatRun.consider
  split
  · dsimp only
    split
    · exact hj
    · split
      · dsimp only
        exact State.setFault_keeps cRegs cFcr cNow (State.put_keeps cRegs (State.put_keeps cRegs
            (State.setPhase_keeps cRegs cOuts h _ _ _) _ _) _ _) _ _ _
      · have hc := fun n p => State.copyProf_keeps cValves h n p
        split
        · dsimp only
          split
          · exact hc _ _
          · exact State.setFault_keeps cRegs cFcr cNow (State.count_keeps cRegs (State.setPhase_keeps cRegs cOuts
              (hc _ _) _ _ _) _ _) _ _ _
        · refine HeatRun.join_keeps cRegs cMem cTimers cEpisodes cFcr cOuts cValves cMsh ?_ _ _
          dsimp only
          exact (State.setPhase_keeps cRegs cOuts (State.setValve_keeps cValves (hc _ _) _ _) _ _ _)
  · exact hj

theorem State.heat_keeps {P : State → Prop} (cRegs : Blind.regs P) (cMem : Blind.mem P) (cTimers : Blind.timers P)
    (cEpisodes : Blind.episodes P) (cFcr : Blind.fcr P) (cOuts : Blind.outs P) (cValves : Blind.valves P) (cDies : Blind.dies P)
    (cMsh : Blind.msh P) (cNow : Blind.now P) {s : State} (h : P s) (d t : Nat) : P (State.heat s d t) := by
  unfold State.heat
  have hr : ∀ l : List OutU, P (l.foldl (fun (r : HeatRun) u => r.consider u t)
      { st := s, used := 0, closed := false, banks := [], rest := [] }).st := fun l =>
    foldl_inv (Q := fun r : HeatRun => P r.st) h
      (fun r u hr => HeatRun.consider_keeps cRegs cMem cTimers cEpisodes cFcr cOuts cValves cMsh cNow hr u t)
  dsimp only
  have hd := fun x y z => State.setDie_keeps cDies (State.lightUp_keeps cMsh (State.lightUp_keeps cMsh (hr x) 84 y) 85 z) d
  split
  · exact hd _ _ _ _
  · exact State.arm_keeps cTimers (hd _ _ _ _) _ _

theorem State.linkLost_keeps {P : State → Prop} (cRegs : Blind.regs P) (cFcr : Blind.fcr P) {s : State} (h : P s) (d : Nat)
    (report : Bool) :
    P (State.linkLost s d report) := by
  unfold State.linkLost
  repeat' (first | with_reducible assumption | intro _ | with_reducible apply State.detect_keeps
                           | with_reducible apply State.evt_keeps | with_reducible apply State.count_keeps
                           | with_reducible apply State.put_keeps | with_reducible apply ite_keeps
                           | with_reducible apply foldl_keeps | with_reducible apply foldlFst_keeps
                           | with_reducible apply foldlSnd_keeps | split | dsimp only)

theorem State.feedWatchdog_keeps {P : State → Prop} (cTimers : Blind.timers P) {s : State} (h : P s) (d : Nat) (t : Nat) :
    P (State.feedWatchdog s d t) := by
  unfold State.feedWatchdog
  repeat' (first | with_reducible assumption | intro _ | with_reducible apply State.arm_keeps | with_reducible apply ite_keeps
                           | with_reducible apply foldl_keeps | with_reducible apply foldlFst_keeps
                           | with_reducible apply foldlSnd_keeps | split | dsimp only)

theorem State.linkBack_keeps {P : State → Prop} (cRegs : Blind.regs P) (cTimers : Blind.timers P) (cFcr : Blind.fcr P)
    (cDies : Blind.dies P) (cNow : Blind.now P) {s : State} (h : P s) (d : Nat) (t : Nat) :
    P (State.linkBack s d t) := by
  unfold State.linkBack
  repeat' (first | with_reducible assumption | intro _ | with_reducible apply State.feedWatchdog_keeps
                           | with_reducible apply State.setFault_keeps | with_reducible apply State.setDie_keeps
                           | with_reducible apply State.evt_keeps | with_reducible apply State.put_keeps
                           | with_reducible apply ite_keeps | with_reducible apply foldl_keeps
                           | with_reducible apply foldlFst_keeps | with_reducible apply foldlSnd_keeps | split | dsimp only)

theorem State.linkFrame_keeps {P : State → Prop} (cRegs : Blind.regs P) (cTimers : Blind.timers P) (cFcr : Blind.fcr P)
    (cDies : Blind.dies P) {s : State} (h : P s) (d : Nat) (t : Nat) (r : LinkResult) :
    P (State.linkFrame s d t r) := by
  unfold State.linkFrame
  repeat' (first | with_reducible assumption | intro _ | with_reducible apply State.feedWatchdog_keeps
                           | with_reducible apply State.linkLost_keeps | with_reducible apply State.setDie_keeps
                           | with_reducible apply State.detect_keeps | with_reducible apply State.count_keeps
                           | with_reducible apply ite_keeps | with_reducible apply foldl_keeps
                           | with_reducible apply foldlFst_keeps | with_reducible apply foldlSnd_keeps | split | dsimp only)

theorem State.releaseDies_keeps {P : State → Prop} (cRegs : Blind.regs P) (cMem : Blind.mem P) (cTimers : Blind.timers P)
    (cEpisodes : Blind.episodes P) (cFcr : Blind.fcr P) (cOuts : Blind.outs P) (cDies : Blind.dies P) (cMsh : Blind.msh P)
    (cNow : Blind.now P) {s : State} (h : P s) (commit : Bool) (safeEnds : Bool) (replayHolds : Bool) (t : Nat) :
    P (State.releaseDies s commit safeEnds replayHolds t) := by
  unfold State.releaseDies
  repeat' (first | with_reducible assumption | intro _ | with_reducible apply State.dieRelease_keeps
                           | with_reducible apply State.setDie_keeps | with_reducible apply ite_keeps
                           | with_reducible apply foldl_keeps | with_reducible apply foldlFst_keeps
                           | with_reducible apply foldlSnd_keeps | split | dsimp only)

theorem State.setStrobe_keeps {P : State → Prop} (cStrobes : Blind.strobes P) {s : State} (h : P s) (g : Nat)
    (f : StrobeSt → StrobeSt) :
    P (State.setStrobe s g f) := by
  unfold State.setStrobe
  repeat' (first | with_reducible assumption | intro _ | with_reducible apply ite_keeps | with_reducible apply foldl_keeps
                           | with_reducible apply foldlFst_keeps | with_reducible apply foldlSnd_keeps | split | dsimp only
                           | with_reducible apply cStrobes)

theorem State.endPulse_keeps {P : State → Prop} (cTimers : Blind.timers P) (cOuts : Blind.outs P) (cMsh : Blind.msh P)
    (cFresh : Blind.fresh P) {s : State} (h : P s) (n : Nat) :
    P (State.endPulse s n) := by
  unfold State.endPulse
  repeat' (first | with_reducible assumption | intro _ | with_reducible apply State.setOut_keeps
                           | with_reducible apply State.disarm_keeps | with_reducible apply ite_keeps
                           | with_reducible apply foldl_keeps | with_reducible apply foldlFst_keeps
                           | with_reducible apply foldlSnd_keeps | exact Nat.le_refl _ | exact Nat.le_succ _
                           | exact Nat.le_add_right _ _ | exact Nat.le_max_left _ _ | rfl | split | dsimp only
                           | with_reducible apply with_msh_fresh | with_reducible apply cMsh | with_reducible apply cFresh)

theorem execLaneLinkSlot_keeps {P : State → Prop} (cRegs : Blind.regs P) (cTimers : Blind.timers P) (cFcr : Blind.fcr P)
    (cDies : Blind.dies P) (cNow : Blind.now P) {s : State} (h : P s) (t : Nat) (a : LinkResult) (b : LinkResult) :
    Next P (execLaneLinkSlot t a b s) := by
  unfold execLaneLinkSlot
  repeat' (first | with_reducible assumption | intro _ | with_reducible apply State.linkFrame_keeps
                           | with_reducible apply State.reach_keeps | with_reducible apply Next.of
                           | with_reducible apply nextIte_keeps | with_reducible apply ite_keeps
                           | with_reducible apply foldl_keeps | with_reducible apply foldlFst_keeps
                           | with_reducible apply foldlSnd_keeps | split | dsimp only)

theorem execLaneLinkResync_keeps {P : State → Prop} (cRegs : Blind.regs P) (cTimers : Blind.timers P) (cFcr : Blind.fcr P)
    (cDies : Blind.dies P) (cNow : Blind.now P) {s : State} (h : P s) (t : Nat) (d : Nat) :
    Next P (execLaneLinkResync t d s) := by
  unfold execLaneLinkResync
  repeat' (first | with_reducible assumption | intro _ | with_reducible apply State.linkBack_keeps
                           | with_reducible apply State.reach_keeps | with_reducible apply Next.of
                           | with_reducible apply nextIte_keeps | with_reducible apply ite_keeps
                           | with_reducible apply foldl_keeps | with_reducible apply foldlFst_keeps
                           | with_reducible apply foldlSnd_keeps | split | dsimp only)

theorem execLaneWatchdogExpiry_keeps {P : State → Prop} (cRegs : Blind.regs P) (cMem : Blind.mem P) (cTimers : Blind.timers P)
    (cEpisodes : Blind.episodes P) (cFcr : Blind.fcr P) (cOuts : Blind.outs P) (cValves : Blind.valves P)
    (cBridges : Blind.bridges P) (cDies : Blind.dies P) (cMsh : Blind.msh P) (cNow : Blind.now P) {s : State} (h : P s)
    (d : Nat) :
    Next P (execLaneWatchdogExpiry d s) := by
  unfold execLaneWatchdogExpiry
  repeat' (first | with_reducible assumption | intro _ | with_reducible apply State.dieFailsafe_keeps
                           | with_reducible apply State.onExpiry_keeps | with_reducible apply Next.of
                           | with_reducible apply nextIte_keeps | with_reducible apply ite_keeps
                           | with_reducible apply foldl_keeps | with_reducible apply foldlFst_keeps
                           | with_reducible apply foldlSnd_keeps | split | dsimp only)

theorem execFailsafeHeat_keeps {P : State → Prop} (cRegs : Blind.regs P) (cMem : Blind.mem P) (cTimers : Blind.timers P)
    (cEpisodes : Blind.episodes P) (cFcr : Blind.fcr P) (cOuts : Blind.outs P) (cValves : Blind.valves P) (cDies : Blind.dies P)
    (cMsh : Blind.msh P) (cNow : Blind.now P) {s : State} (h : P s) (d : Nat) :
    Next P (execFailsafeHeat d s) := by
  unfold execFailsafeHeat
  repeat' (first | with_reducible assumption | intro _ | with_reducible apply State.heat_keeps
                           | with_reducible apply State.onExpiry_keeps | with_reducible apply Next.of
                           | with_reducible apply nextIte_keeps | with_reducible apply ite_keeps
                           | with_reducible apply foldl_keeps | with_reducible apply foldlFst_keeps
                           | with_reducible apply foldlSnd_keeps | split | dsimp only)

theorem execLhSelectChange_keeps {P : State → Prop} (cRegs : Blind.regs P) (cMem : Blind.mem P) (cTimers : Blind.timers P)
    (cEpisodes : Blind.episodes P) (cFcr : Blind.fcr P) (cOuts : Blind.outs P) (cValves : Blind.valves P)
    (cBridges : Blind.bridges P) (cDies : Blind.dies P) (cMsh : Blind.msh P) (cNow : Blind.now P) {s : State} (h : P s)
    (t : Nat) (d : Nat) (sel : Nat) :
    Next P (execLhSelectChange t d sel s) := by
  unfold execLhSelectChange
  repeat' (first | with_reducible assumption | intro _ | with_reducible apply State.diePattern_keeps
                           | with_reducible apply State.setDie_keeps | with_reducible apply State.reach_keeps
                           | with_reducible apply Next.of | with_reducible apply nextIte_keeps | with_reducible apply ite_keeps
                           | with_reducible apply foldl_keeps | with_reducible apply foldlFst_keeps
                           | with_reducible apply foldlSnd_keeps | split | dsimp only)

theorem State.strobeTick_keeps {P : State → Prop} (cTimers : Blind.timers P) (cOuts : Blind.outs P)
    (cMsh : Blind.msh P) {s : State} (h : P s)  :
    P (State.strobeTick s) := by
  unfold State.strobeTick
  repeat' (first | with_reducible assumption | intro _ | with_reducible apply State.setOut_keeps
                           | with_reducible apply State.disarm_keeps | with_reducible apply ite_keeps
                           | with_reducible apply foldl_keeps | with_reducible apply foldlFst_keeps
                           | with_reducible apply foldlSnd_keeps | split | dsimp only | with_reducible apply cMsh)

theorem execReverseBattery_keeps {P : State → Prop} (cRegs : Blind.regs P) (cTimers : Blind.timers P)
    (cEpisodes : Blind.episodes P) (cOuts : Blind.outs P) (cReverseAt : Blind.reverseAt P) (cNow : Blind.now P) {s : State}
    (h : P s) (t : Nat) :
    Next P (execReverseBattery t s) := by
  unfold execReverseBattery
  repeat' (first | with_reducible assumption | intro _ | with_reducible apply State.endLimit_keeps
                           | with_reducible apply State.setOut_keeps | with_reducible apply State.reach_keeps
                           | with_reducible apply State.count_keeps | with_reducible apply State.put_keeps
                           | with_reducible apply Next.of | with_reducible apply nextIte_keeps | with_reducible apply ite_keeps
                           | with_reducible apply foldl_keeps | with_reducible apply foldlFst_keeps
                           | with_reducible apply foldlSnd_keeps | split | dsimp only
                           | with_reducible apply with_reverseAt_timers | with_reducible apply cTimers
                           | with_reducible apply cReverseAt)

theorem execGroundLoss_keeps {P : State → Prop} (cRegs : Blind.regs P) (cMem : Blind.mem P) (cTimers : Blind.timers P)
    (cEpisodes : Blind.episodes P) (cFcr : Blind.fcr P) (cOuts : Blind.outs P) (cValves : Blind.valves P)
    (cBridges : Blind.bridges P) (cDies : Blind.dies P) (cMsh : Blind.msh P) (cNow : Blind.now P) {s : State} (h : P s)
    (t : Nat) (d : Nat) :
    Next P (execGroundLoss t d s) := by
  unfold execGroundLoss
  repeat' (first | with_reducible assumption | intro _ | with_reducible apply State.linkLost_keeps
                           | with_reducible apply State.dieOff_keeps | with_reducible apply State.dieFailsafe_keeps
                           | with_reducible apply State.setDie_keeps | with_reducible apply State.reach_keeps
                           | with_reducible apply State.count_keeps | with_reducible apply State.put_keeps
                           | with_reducible apply Next.of | with_reducible apply nextIte_keeps | with_reducible apply ite_keeps
                           | with_reducible apply foldl_keeps | with_reducible apply foldlFst_keeps
                           | with_reducible apply foldlSnd_keeps | split | dsimp only)

theorem execGroundReturn_keeps {P : State → Prop} (cRegs : Blind.regs P) (cMem : Blind.mem P) (cTimers : Blind.timers P)
    (cEpisodes : Blind.episodes P) (cFcr : Blind.fcr P) (cOuts : Blind.outs P) (cValves : Blind.valves P)
    (cBridges : Blind.bridges P) (cDies : Blind.dies P) (cMsh : Blind.msh P) (cNow : Blind.now P) {s : State} (h : P s)
    (t : Nat) (d : Nat) :
    Next P (execGroundReturn t d s) := by
  unfold execGroundReturn
  repeat' (first | with_reducible assumption | intro _ | with_reducible apply State.dieRestart_keeps
                           | with_reducible apply State.reach_keeps | with_reducible apply State.put_keeps
                           | with_reducible apply Next.of | with_reducible apply nextIte_keeps | with_reducible apply ite_keeps
                           | with_reducible apply foldl_keeps | with_reducible apply foldlFst_keeps
                           | with_reducible apply foldlSnd_keeps | split | dsimp only)

theorem execPowerDieLockout_keeps {P : State → Prop} (cRegs : Blind.regs P) (cMem : Blind.mem P) (cTimers : Blind.timers P)
    (cEpisodes : Blind.episodes P) (cFcr : Blind.fcr P) (cOuts : Blind.outs P) (cValves : Blind.valves P)
    (cBridges : Blind.bridges P) (cDies : Blind.dies P) (cMsh : Blind.msh P) (cNow : Blind.now P) {s : State} (h : P s)
    (t : Nat) (d : Nat) :
    Next P (execPowerDieLockout t d s) := by
  unfold execPowerDieLockout
  repeat' (first | with_reducible assumption | intro _ | with_reducible apply State.linkLost_keeps
                           | with_reducible apply State.dieOff_keeps | with_reducible apply State.dieFailsafe_keeps
                           | with_reducible apply State.setDie_keeps | with_reducible apply State.yieldOnce_keeps
                           | with_reducible apply State.reach_keeps | with_reducible apply State.count_keeps
                           | with_reducible apply State.put_keeps | with_reducible apply Next.of
                           | with_reducible apply nextIte_keeps | with_reducible apply ite_keeps
                           | with_reducible apply foldl_keeps | with_reducible apply foldlFst_keeps
                           | with_reducible apply foldlSnd_keeps | split | dsimp only)

theorem execPowerDieRestart_keeps {P : State → Prop} (cRegs : Blind.regs P) (cMem : Blind.mem P) (cTimers : Blind.timers P)
    (cEpisodes : Blind.episodes P) (cFcr : Blind.fcr P) (cOuts : Blind.outs P) (cValves : Blind.valves P)
    (cBridges : Blind.bridges P) (cDies : Blind.dies P) (cMsh : Blind.msh P) (cNow : Blind.now P) {s : State} (h : P s)
    (t : Nat) (d : Nat) :
    Next P (execPowerDieRestart t d s) := by
  unfold execPowerDieRestart
  repeat' (first | with_reducible assumption | intro _ | with_reducible apply State.dieRestart_keeps
                           | with_reducible apply State.reach_keeps | with_reducible apply State.put_keeps
                           | with_reducible apply Next.of | with_reducible apply nextIte_keeps | with_reducible apply ite_keeps
                           | with_reducible apply foldl_keeps | with_reducible apply foldlFst_keeps
                           | with_reducible apply foldlSnd_keeps | split | dsimp only)

theorem State.exposureEnds_keeps {P : State → Prop} (cRegs : Blind.regs P) (cMem : Blind.mem P) (cTimers : Blind.timers P)
    (cEpisodes : Blind.episodes P) (cFcr : Blind.fcr P) (cOuts : Blind.outs P) (cStrobes : Blind.strobes P) (cMsh : Blind.msh P)
    (cNow : Blind.now P) (cFresh : Blind.fresh P) {s : State} (h : P s) (g : Nat) (t : Nat) :
    P (State.exposureEnds s g t) := by
  unfold State.exposureEnds
  repeat' (first | with_reducible assumption | intro _ | with_reducible apply State.endPulse_keeps
                           | with_reducible apply State.setStrobe_keeps | with_reducible apply State.pulseRetry_keeps
                           | with_reducible apply State.skipPulse_keeps | with_reducible apply ite_keeps
                           | with_reducible apply foldl_keeps | with_reducible apply foldlFst_keeps
                           | with_reducible apply foldlSnd_keeps | split | dsimp only)

theorem execCamsyncEdge_keeps {P : State → Prop} (cRegs : Blind.regs P) (cMem : Blind.mem P) (cTimers : Blind.timers P)
    (cEpisodes : Blind.episodes P) (cFcr : Blind.fcr P) (cOuts : Blind.outs P) (cStrobes : Blind.strobes P) (cMsh : Blind.msh P)
    (cNow : Blind.now P) (cFresh : Blind.fresh P) {s : State} (h : P s) (t : Nat) (g : Nat) (high : Bool) :
    Next P (execCamsyncEdge t g high s) := by
  unfold execCamsyncEdge
  repeat' (first | with_reducible assumption | intro _ | with_reducible apply State.exposureEnds_keeps
                           | with_reducible apply State.setStrobe_keeps | with_reducible apply State.reach_keeps
                           | with_reducible apply Next.of | with_reducible apply nextIte_keeps | with_reducible apply ite_keeps
                           | with_reducible apply foldl_keeps | with_reducible apply foldlFst_keeps
                           | with_reducible apply foldlSnd_keeps | split | dsimp only)

theorem execStrobeScheduleInstant_keeps {P : State → Prop} (cRegs : Blind.regs P) (cStrobes : Blind.strobes P)
    (cNow : Blind.now P) {s : State} (h : P s) (t : Nat) (g : Nat) :
    Next P (execStrobeScheduleInstant t g s) := by
  unfold execStrobeScheduleInstant
  repeat' (first | with_reducible assumption | intro _ | with_reducible apply State.setStrobe_keeps
                           | with_reducible apply State.reach_keeps | with_reducible apply State.count_keeps
                           | with_reducible apply Next.of | with_reducible apply nextIte_keeps | with_reducible apply ite_keeps
                           | with_reducible apply foldl_keeps | with_reducible apply foldlFst_keeps
                           | with_reducible apply foldlSnd_keeps | split | dsimp only)

theorem execSprintPulse_keeps {P : State → Prop} (cRegs : Blind.regs P) (cMem : Blind.mem P) (cTimers : Blind.timers P)
    (cEpisodes : Blind.episodes P) (cFcr : Blind.fcr P) (cOuts : Blind.outs P) (cStrobes : Blind.strobes P) (cMsh : Blind.msh P)
    (cNow : Blind.now P) {s : State} (h : P s) (t : Nat) (g : Nat) :
    Next P (execSprintPulse t g s) := by
  unfold execSprintPulse
  repeat' (first | with_reducible assumption | intro _ | with_reducible apply State.setStrobe_keeps
                           | with_reducible apply State.pulseRetry_keeps | with_reducible apply State.skipPulse_keeps
                           | with_reducible apply State.firePulse_keeps | with_reducible apply State.arm_keeps
                           | with_reducible apply State.reach_keeps | with_reducible apply State.count_keeps
                           | with_reducible apply Next.of | with_reducible apply nextIte_keeps | with_reducible apply ite_keeps
                           | with_reducible apply foldl_keeps | with_reducible apply foldlFst_keeps
                           | with_reducible apply foldlSnd_keeps | split | dsimp only | with_reducible apply cMsh)

theorem execSprintPulseEnd_keeps {P : State → Prop} (cRegs : Blind.regs P) (cMem : Blind.mem P) (cTimers : Blind.timers P)
    (cEpisodes : Blind.episodes P) (cFcr : Blind.fcr P) (cOuts : Blind.outs P) (cMsh : Blind.msh P) (cNow : Blind.now P)
    (cFresh : Blind.fresh P) {s : State} (h : P s) (n : Nat) :
    Next P (execSprintPulseEnd n s) := by
  unfold execSprintPulseEnd
  repeat' (first | with_reducible assumption | intro _ | with_reducible apply State.endPulse_keeps
                           | with_reducible apply State.pulseRetry_keeps | with_reducible apply State.onExpiry_keeps
                           | with_reducible apply Next.of | with_reducible apply nextIte_keeps | with_reducible apply ite_keeps
                           | with_reducible apply foldl_keeps | with_reducible apply foldlFst_keeps
                           | with_reducible apply foldlSnd_keeps | split | dsimp only)

theorem execPulseLateExpiry_keeps {P : State → Prop} (cRegs : Blind.regs P) (cMem : Blind.mem P) (cTimers : Blind.timers P)
    (cEpisodes : Blind.episodes P) (cFcr : Blind.fcr P) (cMsh : Blind.msh P) (cNow : Blind.now P) {s : State} (h : P s)
    (n : Nat) :
    Next P (execPulseLateExpiry n s) := by
  unfold execPulseLateExpiry
  repeat' (first | with_reducible assumption | intro _ | with_reducible apply State.skipPulse_keeps
                           | with_reducible apply State.onExpiry_keeps | with_reducible apply Next.of
                           | with_reducible apply nextIte_keeps | with_reducible apply ite_keeps
                           | with_reducible apply foldl_keeps | with_reducible apply foldlFst_keeps
                           | with_reducible apply foldlSnd_keeps | split | dsimp only)

end Sys2Proof.Machine
end

