-- ==== Sys2Proof/Laws/KeepsThermal.lean ====
section
/-! SUPPORT. What the operations of Machine/Thermal.lean keep. -/
namespace Sys2Proof.Machine

theorem State.ageMap_keeps {P : State → Prop} (cAge : Blind.age P) {s : State} (h : P s) (u : OutU) (f : AgeUnit → AgeUnit) :
    P (State.ageMap s u f) := by
  unfold State.ageMap
  repeat' (first | with_reducible assumption | intro _ | with_reducible apply State.setAge_keeps
                           | with_reducible apply ite_keeps | with_reducible apply foldl_keeps
                           | with_reducible apply foldlFst_keeps | with_reducible apply foldlSnd_keeps | split | dsimp only)

theorem State.fold_keeps {P : State → Prop} (cRegs : Blind.regs P) (cMem : Blind.mem P) (cEpisodes : Blind.episodes P)
    (cFcr : Blind.fcr P) (cNow : Blind.now P) {s : State} (h : P s) (u : OutU) (tj : Int) (t : Nat) :
    P (State.fold s u tj t) := by
  unfold State.fold
  repeat' (first | with_reducible assumption | intro _ | with_reducible apply State.g5_keeps
                           | with_reducible apply State.setFault_keeps | with_reducible apply State.yieldClose_keeps
                           | with_reducible apply State.put_keeps | with_reducible apply ite_keeps
                           | with_reducible apply foldl_keeps | with_reducible apply foldlFst_keeps
                           | with_reducible apply foldlSnd_keeps | split | dsimp only)

theorem State.thermalTrip_keeps {P : State → Prop} (cRegs : Blind.regs P) (cMem : Blind.mem P) (cTimers : Blind.timers P)
    (cEpisodes : Blind.episodes P) (cFcr : Blind.fcr P) (cOuts : Blind.outs P) (cValves : Blind.valves P)
    (cBridges : Blind.bridges P) (cMsh : Blind.msh P) (cNow : Blind.now P) {s : State} (h : P s) (u : OutU) (flags : List Nat)
    (t : Nat) :
    P (State.thermalTrip s u flags t) := by
  unfold State.thermalTrip
  repeat' (first | with_reducible assumption | intro _ | with_reducible apply State.hbCut_keeps
                           | with_reducible apply State.bankTrip_keeps | with_reducible apply State.trip_keeps
                           | with_reducible apply State.put_keeps | with_reducible apply ite_keeps
                           | with_reducible apply foldl_keeps | with_reducible apply foldlFst_keeps
                           | with_reducible apply foldlSnd_keeps | split | dsimp only)

theorem State.tripAlso_keeps {P : State → Prop} (cRegs : Blind.regs P) (cMem : Blind.mem P) (cEpisodes : Blind.episodes P)
    (cFcr : Blind.fcr P) (cNow : Blind.now P) {s : State} (h : P s) (u : OutU) (flags : List Nat) (t : Nat) :
    P (State.tripAlso s u flags t) := by
  unfold State.tripAlso
  repeat' (first | with_reducible assumption | intro _ | with_reducible apply State.g5Latch_keeps
                           | with_reducible apply State.setFault_keeps | with_reducible apply State.count_keeps
                           | with_reducible apply State.put_keeps | with_reducible apply ite_keeps
                           | with_reducible apply foldl_keeps | with_reducible apply foldlFst_keeps
                           | with_reducible apply foldlSnd_keeps | split | dsimp only)

theorem State.thermal_keeps {P : State → Prop} (cRegs : Blind.regs P) (cMem : Blind.mem P) (cTimers : Blind.timers P)
    (cEpisodes : Blind.episodes P) (cFcr : Blind.fcr P) (cOuts : Blind.outs P) (cValves : Blind.valves P)
    (cBridges : Blind.bridges P) (cAge : Blind.age P) (cDies : Blind.dies P) (cMsh : Blind.msh P)
    (cNow : Blind.now P) {s : State} (h : P s) (ref : Int) (x : Temp) (was : Bool) (t : Nat) :
    P (State.thermal s ref x was t) := by
  unfold State.thermal
  repeat' (first | with_reducible assumption | intro _ | with_reducible apply State.tripAlso_keeps
                           | with_reducible apply State.thermalTrip_keeps | with_reducible apply State.fold_keeps
                           | with_reducible apply State.ageMap_keeps | with_reducible apply State.latchClear_keeps
                           | with_reducible apply State.setOut_keeps | with_reducible apply State.put_keeps
                           | with_reducible apply ite_keeps | with_reducible apply foldl_keeps
                           | with_reducible apply foldlFst_keeps | with_reducible apply foldlSnd_keeps | split | dsimp only)

theorem State.collateral_keeps {P : State → Prop} (cRegs : Blind.regs P) (cTimers : Blind.timers P) (cFcr : Blind.fcr P)
    (cOuts : Blind.outs P) (cMsh : Blind.msh P) (cNow : Blind.now P) {s : State} (h : P s) (d : Nat) (t : Nat) :
    P (State.collateral s d t) := by
  unfold State.collateral
  repeat' (first | with_reducible assumption | intro _ | with_reducible apply State.enterOn_keeps
                           | with_reducible apply State.mshReleaseOf_keeps | with_reducible apply State.setFault_keeps
                           | with_reducible apply ite_keeps | with_reducible apply foldl_keeps
                           | with_reducible apply foldlFst_keeps | with_reducible apply foldlSnd_keeps | split | dsimp only)

theorem State.ronLs_keeps {P : State → Prop} (cRegs : Blind.regs P) (cOuts : Blind.outs P) (cAge : Blind.age P) {s : State}
    (h : P s) (n : Nat) (ron : Nat) (t : Nat) :
    P (State.ronLs s n ron t) := by
  unfold State.ronLs
  repeat' (first | with_reducible assumption | intro _ | with_reducible apply State.setAge_keeps
                           | with_reducible apply State.setOut_keeps | with_reducible apply State.put_keeps
                           | with_reducible apply ite_keeps | with_reducible apply foldl_keeps
                           | with_reducible apply foldlFst_keeps | with_reducible apply foldlSnd_keeps | split | dsimp only)

theorem State.ronBank_keeps {P : State → Prop} (cOuts : Blind.outs P) (cAge : Blind.age P) {s : State} (h : P s) (b : Nat)
    (ron : Nat) (t : Nat) :
    P (State.ronBank s b ron t) := by
  unfold State.ronBank
  repeat' (first | with_reducible assumption | intro _ | with_reducible apply State.setAge_keeps
                           | with_reducible apply State.setOut_keeps | with_reducible apply ite_keeps
                           | with_reducible apply foldl_keeps | with_reducible apply foldlFst_keeps
                           | with_reducible apply foldlSnd_keeps | split | dsimp only)

theorem State.sense_keeps {P : State → Prop} (cRegs : Blind.regs P) (cOuts : Blind.outs P) (cAge : Blind.age P) {s : State}
    (h : P s) (x : Sense) (t : Nat) :
    P (State.sense s x t) := by
  unfold State.sense
  repeat' (first | with_reducible assumption | intro _ | with_reducible apply State.ronBank_keeps
                           | with_reducible apply State.ronLs_keeps | with_reducible apply State.put_keeps
                           | with_reducible apply ite_keeps | with_reducible apply foldl_keeps
                           | with_reducible apply foldlFst_keeps | with_reducible apply foldlSnd_keeps | split | dsimp only)

theorem State.groupSense_keeps {P : State → Prop} (cRegs : Blind.regs P) {s : State} (h : P s) (us : List OutU) :
    P (State.groupSense s us) := by
  unfold State.groupSense
  repeat' (first | with_reducible assumption | intro _ | with_reducible apply State.put_keeps | with_reducible apply ite_keeps
                           | with_reducible apply foldl_keeps | with_reducible apply foldlFst_keeps
                           | with_reducible apply foldlSnd_keeps | split | dsimp only)

theorem execTemperatureConversion_keeps {P : State → Prop} (cRegs : Blind.regs P) (cMem : Blind.mem P)
    (cTimers : Blind.timers P) (cEpisodes : Blind.episodes P) (cFcr : Blind.fcr P) (cOuts : Blind.outs P)
    (cValves : Blind.valves P) (cBridges : Blind.bridges P) (cAge : Blind.age P) (cDies : Blind.dies P) (cMsh : Blind.msh P)
    (cNow : Blind.now P) {s : State} (h : P s) (t : Nat) (d : Nat) (ref : Int) (temps : List Temp) :
    Next P (execTemperatureConversion t d ref temps s) := by
  unfold execTemperatureConversion
  repeat' (first | with_reducible assumption | intro _ | with_reducible apply State.collateral_keeps
                           | with_reducible apply State.thermal_keeps | with_reducible apply State.setDie_keeps
                           | with_reducible apply State.reach_keeps | with_reducible apply Next.of
                           | with_reducible apply nextIte_keeps | with_reducible apply ite_keeps
                           | with_reducible apply foldl_keeps | with_reducible apply foldlFst_keeps
                           | with_reducible apply foldlSnd_keeps | split | dsimp only)

theorem execSenseConversion_keeps {P : State → Prop} (cRegs : Blind.regs P) (cOuts : Blind.outs P) (cAge : Blind.age P)
    (cNow : Blind.now P) {s : State} (h : P s) (t : Nat) (ss : List Sense) :
    Next P (execSenseConversion t ss s) := by
  unfold execSenseConversion
  repeat' (first | with_reducible assumption | intro _ | with_reducible apply State.groupSense_keeps
                           | with_reducible apply State.sense_keeps | with_reducible apply State.reach_keeps
                           | with_reducible apply Next.of | with_reducible apply nextIte_keeps | with_reducible apply ite_keeps
                           | with_reducible apply foldl_keeps | with_reducible apply foldlFst_keeps
                           | with_reducible apply foldlSnd_keeps | split | dsimp only)

end Sys2Proof.Machine
end

