-- ==== Sys2Proof/Laws/KeepsBaton.lean ====
section
/-! SUPPORT. What the operations of Machine/Baton.lean keep. -/
namespace Sys2Proof.Machine

theorem State.setQueue_keeps {P : State → Prop} (cQueues : Blind.queues P) {s : State} (h : P s) (k : Nat) (q : QueueSt) :
    P (State.setQueue s k q) := by
  unfold State.setQueue
  repeat' (first | with_reducible assumption | intro _ | with_reducible apply ite_keeps | with_reducible apply foldl_keeps
                           | with_reducible apply foldlFst_keeps | with_reducible apply foldlSnd_keeps | split | dsimp only
                           | with_reducible apply cQueues)

theorem State.qOverflow_keeps {P : State → Prop} (cRegs : Blind.regs P) (cQueues : Blind.queues P)
    (cFcr : Blind.fcr P) {s : State} (h : P s) (k : Nat) :
    P (State.qOverflow s k) := by
  unfold State.qOverflow
  repeat' (first | with_reducible assumption | intro _ | with_reducible apply State.setQueue_keeps
                           | with_reducible apply State.detect_keeps | with_reducible apply State.count_keeps
                           | with_reducible apply State.put_keeps | with_reducible apply ite_keeps
                           | with_reducible apply foldl_keeps | with_reducible apply foldlFst_keeps
                           | with_reducible apply foldlSnd_keeps | split | dsimp only)

theorem State.qPush_keeps {P : State → Prop} (cRegs : Blind.regs P) (cQueues : Blind.queues P) (cFcr : Blind.fcr P) {s : State}
    (h : P s) (k : Nat) (e : BqEntry) :
    P (State.qPush s k e) := by
  unfold State.qPush
  repeat' (first | with_reducible assumption | intro _ | with_reducible apply State.qOverflow_keeps
                           | with_reducible apply State.setQueue_keeps | with_reducible apply State.evt_keeps
                           | with_reducible apply ite_keeps | with_reducible apply foldl_keeps
                           | with_reducible apply foldlFst_keeps | with_reducible apply foldlSnd_keeps | split | dsimp only)

theorem State.setLatch_keeps {P : State → Prop} (cLatches : Blind.latches P) {s : State} (h : P s) (w : Src) (l : PushLatch) :
    P (State.setLatch s w l) := by
  unfold State.setLatch
  repeat' (first | with_reducible assumption | intro _ | with_reducible apply ite_keeps | with_reducible apply foldl_keeps
                           | with_reducible apply foldlFst_keeps | with_reducible apply foldlSnd_keeps | split | dsimp only
                           | with_reducible apply cLatches)

theorem State.pushGo_keeps {P : State → Prop} (cRegs : Blind.regs P) (cStride : Blind.stride P) (cQueues : Blind.queues P)
    (cLatches : Blind.latches P) (cFcr : Blind.fcr P) {s : State} (h : P s) (w : Src) (tl : Nat) (k : Nat) (t : Nat) :
    P (State.pushGo s w tl k t) := by
  unfold State.pushGo
  repeat' (first | with_reducible assumption | intro _ | with_reducible apply State.setLatch_keeps
                           | with_reducible apply State.qPush_keeps | with_reducible apply ite_keeps
                           | with_reducible apply foldl_keeps | with_reducible apply foldlFst_keeps
                           | with_reducible apply foldlSnd_keeps | split | dsimp only | with_reducible apply cStride)

theorem State.hwPush_keeps {P : State → Prop} (cRegs : Blind.regs P) (cQueues : Blind.queues P) (cFcr : Blind.fcr P) {s : State}
    (h : P s) (k : Nat) (page : Nat) (unit : Nat) (ty : Nat) (bytes : List Byte) (split : Nat) (t : Nat) :
    P (State.hwPush s k page unit ty bytes split t) := by
  unfold State.hwPush
  repeat' (first | with_reducible assumption | intro _ | with_reducible apply State.qPush_keeps
                           | with_reducible apply ite_keeps | with_reducible apply foldl_keeps
                           | with_reducible apply foldlFst_keeps | with_reducible apply foldlSnd_keeps | split | dsimp only)

theorem State.hwRef_keeps {P : State → Prop} (cRegs : Blind.regs P) (cQueues : Blind.queues P) (cFcr : Blind.fcr P) {s : State}
    (h : P s) (k : Nat) (page : Nat) (unit : Nat) (ty : Nat) (addr : Nat) (split : Nat) (t : Nat) :
    P (State.hwRef s k page unit ty addr split t) := by
  unfold State.hwRef
  repeat' (first | with_reducible assumption | intro _ | with_reducible apply State.qPush_keeps
                           | with_reducible apply ite_keeps | with_reducible apply foldl_keeps
                           | with_reducible apply foldlFst_keeps | with_reducible apply foldlSnd_keeps | split | dsimp only)

theorem State.freeBuffer_keeps {P : State → Prop} (cMem : Blind.mem P) {s : State} (h : P s) (e : BqEntry) :
    P (State.freeBuffer s e) := by
  unfold State.freeBuffer
  repeat' (first | with_reducible assumption | intro _ | with_reducible apply State.setLe_keeps
                           | with_reducible apply ite_keeps | with_reducible apply foldl_keeps
                           | with_reducible apply foldlFst_keeps | with_reducible apply foldlSnd_keeps | split | dsimp only)

theorem State.qRemove_keeps {P : State → Prop} (cQueues : Blind.queues P) {s : State} (h : P s) (k : Nat) :
    P (State.qRemove s k) := by
  unfold State.qRemove
  repeat' (first | with_reducible assumption | intro _ | with_reducible apply State.setQueue_keeps
                           | with_reducible apply ite_keeps | with_reducible apply foldl_keeps
                           | with_reducible apply foldlFst_keeps | with_reducible apply foldlSnd_keeps | split | dsimp only)

theorem State.qAdvance_keeps {P : State → Prop} (cQueues : Blind.queues P) {s : State} (h : P s) (k : Nat) :
    P (State.qAdvance s k) := by
  unfold State.qAdvance
  repeat' (first | with_reducible assumption | intro _ | with_reducible apply State.setQueue_keeps
                           | with_reducible apply ite_keeps | with_reducible apply foldl_keeps
                           | with_reducible apply foldlFst_keeps | with_reducible apply foldlSnd_keeps | split | dsimp only)

theorem State.qFlush_keeps {P : State → Prop} (cQueues : Blind.queues P) {s : State} (h : P s) (k : Nat) :
    P (State.qFlush s k) := by
  unfold State.qFlush
  repeat' (first | with_reducible assumption | intro _ | with_reducible apply State.setQueue_keeps
                           | with_reducible apply ite_keeps | with_reducible apply foldl_keeps
                           | with_reducible apply foldlFst_keeps | with_reducible apply foldlSnd_keeps | split | dsimp only)

theorem State.bqReset_keeps {P : State → Prop} (cQueues : Blind.queues P) (cLatches : Blind.latches P) {s : State} (h : P s)  :
    P (State.bqReset s) := by
  unfold State.bqReset
  repeat' (first | with_reducible assumption | intro _ | with_reducible apply ite_keeps | with_reducible apply foldl_keeps
                           | with_reducible apply foldlFst_keeps | with_reducible apply foldlSnd_keeps | split | dsimp only
                           | with_reducible apply with_queues_latches | with_reducible apply cQueues
                           | with_reducible apply cLatches)

end Sys2Proof.Machine
end

