-- ==== Sys2Proof/Laws/KeepsDigitalIn.lean ====
section
/-! SUPPORT. What the operations of Machine/DigitalIn.lean keep. -/
namespace Sys2Proof.Machine

theorem State.setDin_keeps {P : State → Prop} (cDins : Blind.dins P) {s : State} (h : P s) (n : Nat) (f : DinSt → DinSt) :
    P (State.setDin s n f) := by
  unfold State.setDin
  repeat' (first | with_reducible assumption | intro _ | with_reducible apply ite_keeps | with_reducible apply foldl_keeps
                           | with_reducible apply foldlFst_keeps | with_reducible apply foldlSnd_keeps | split | dsimp only
                           | with_reducible apply cDins)

theorem State.rawSample_keeps {P : State → Prop} (cRegs : Blind.regs P) (cDins : Blind.dins P) {s : State} (h : P s) (n : Nat)
    (t : Nat) (raw : Bool) :
    P (State.rawSample s n t raw) := by
  unfold State.rawSample
  repeat' (first | with_reducible assumption | intro _ | with_reducible apply State.setDin_keeps
                           | with_reducible apply State.count_keeps | with_reducible apply State.put_keeps
                           | with_reducible apply ite_keeps | with_reducible apply foldl_keeps
                           | with_reducible apply foldlFst_keeps | with_reducible apply foldlSnd_keeps | split | dsimp only)

theorem State.dinPin_keeps {P : State → Prop} (cRegs : Blind.regs P) (cDins : Blind.dins P) {s : State} (h : P s) (n : Nat)
    (mv : Nat) (t : Nat) :
    P (State.dinPin s n mv t) := by
  unfold State.dinPin
  repeat' (first | with_reducible assumption | intro _ | with_reducible apply State.rawSample_keeps
                           | with_reducible apply State.setDin_keeps | with_reducible apply ite_keeps
                           | with_reducible apply foldl_keeps | with_reducible apply foldlFst_keeps
                           | with_reducible apply foldlSnd_keeps | split | dsimp only)

theorem State.dinVbat_keeps {P : State → Prop} (cRegs : Blind.regs P) (cDins : Blind.dins P) {s : State} (h : P s) (t : Nat) :
    P (State.dinVbat s t) := by
  unfold State.dinVbat
  repeat' (first | with_reducible assumption | intro _ | with_reducible apply State.dinPin_keeps
                           | with_reducible apply ite_keeps | with_reducible apply foldl_keeps
                           | with_reducible apply foldlFst_keeps | with_reducible apply foldlSnd_keeps | split | dsimp only)

theorem State.dinRestart_keeps {P : State → Prop} (cRegs : Blind.regs P) (cDins : Blind.dins P) {s : State} (h : P s) (n : Nat)
    (t : Nat) :
    P (State.dinRestart s n t) := by
  unfold State.dinRestart
  repeat' (first | with_reducible assumption | intro _ | with_reducible apply State.setDin_keeps
                           | with_reducible apply State.put_keeps | with_reducible apply ite_keeps
                           | with_reducible apply foldl_keeps | with_reducible apply foldlFst_keeps
                           | with_reducible apply foldlSnd_keeps | split | dsimp only)

theorem State.dinStop_keeps {P : State → Prop} (cRegs : Blind.regs P) (cTimers : Blind.timers P)
    (cDins : Blind.dins P) {s : State} (h : P s) (p : Nat) :
    P (State.dinStop s p) := by
  unfold State.dinStop
  repeat' (first | with_reducible assumption | intro _ | with_reducible apply State.setDin_keeps
                           | with_reducible apply State.disarm_keeps | with_reducible apply State.put_keeps
                           | with_reducible apply ite_keeps | with_reducible apply foldl_keeps
                           | with_reducible apply foldlFst_keeps | with_reducible apply foldlSnd_keeps | split | dsimp only)

theorem State.dinEnable_keeps {P : State → Prop} (cRegs : Blind.regs P) (cTimers : Blind.timers P)
    (cDins : Blind.dins P) {s : State} (h : P s) (p : Nat) (t : Nat) :
    P (State.dinEnable s p t) := by
  unfold State.dinEnable
  repeat' (first | with_reducible assumption | intro _ | with_reducible apply State.setDin_keeps
                           | with_reducible apply State.arm_keeps | with_reducible apply State.put_keeps
                           | with_reducible apply ite_keeps | with_reducible apply foldl_keeps
                           | with_reducible apply foldlFst_keeps | with_reducible apply foldlSnd_keeps | split | dsimp only)

theorem State.dinTick_keeps {P : State → Prop} (cDins : Blind.dins P) {s : State} (h : P s)  :
    P (State.dinTick s) := by
  unfold State.dinTick
  repeat' (first | with_reducible assumption | intro _ | with_reducible apply State.setDin_keeps
                           | with_reducible apply ite_keeps | with_reducible apply foldl_keeps
                           | with_reducible apply foldlFst_keeps | with_reducible apply foldlSnd_keeps | split | dsimp only)

theorem execInputRawChange_keeps {P : State → Prop} (cRegs : Blind.regs P) (cDins : Blind.dins P)
    (cNow : Blind.now P) {s : State} (h : P s) (t : Nat) (n : Nat) (mv : Nat) :
    Next P (execInputRawChange t n mv s) := by
  unfold execInputRawChange
  repeat' (first | with_reducible assumption | intro _ | with_reducible apply State.dinPin_keeps
                           | with_reducible apply State.reach_keeps | with_reducible apply Next.of
                           | with_reducible apply nextIte_keeps | with_reducible apply ite_keeps
                           | with_reducible apply foldl_keeps | with_reducible apply foldlFst_keeps
                           | with_reducible apply foldlSnd_keeps | split | dsimp only)

theorem execWettingPulse_keeps {P : State → Prop} (cRegs : Blind.regs P) (cDins : Blind.dins P) (cNow : Blind.now P) {s : State}
    (h : P s) (t : Nat) (p : Nat) (volts : List (Nat × Nat)) :
    Next P (execWettingPulse t p volts s) := by
  unfold execWettingPulse
  repeat' (first | with_reducible assumption | intro _ | with_reducible apply State.rawSample_keeps
                           | with_reducible apply State.setDin_keeps | with_reducible apply State.reach_keeps
                           | with_reducible apply Next.of | with_reducible apply nextIte_keeps | with_reducible apply ite_keeps
                           | with_reducible apply foldl_keeps | with_reducible apply foldlFst_keeps
                           | with_reducible apply foldlSnd_keeps | split | dsimp only)

theorem execInputInitSample_keeps {P : State → Prop} (cRegs : Blind.regs P) (cTimers : Blind.timers P) (cDins : Blind.dins P)
    (cNow : Blind.now P) {s : State} (h : P s) (p : Nat) :
    Next P (execInputInitSample p s) := by
  unfold execInputInitSample
  repeat' (first | with_reducible assumption | intro _ | with_reducible apply State.setDin_keeps
                           | with_reducible apply State.onExpiry_keeps | with_reducible apply State.put_keeps
                           | with_reducible apply Next.of | with_reducible apply nextIte_keeps | with_reducible apply ite_keeps
                           | with_reducible apply foldl_keeps | with_reducible apply foldlFst_keeps
                           | with_reducible apply foldlSnd_keeps | split | dsimp only)

theorem State.debounced_keeps {P : State → Prop} (cRegs : Blind.regs P) (cQueues : Blind.queues P) (cFcr : Blind.fcr P)
    (cDins : Blind.dins P) {s : State} (h : P s) (n : Nat) (r : Nat) (t : Nat) :
    P (State.debounced s n r t) := by
  unfold State.debounced
  repeat' (first | with_reducible assumption | intro _ | with_reducible apply State.setDin_keeps
                           | with_reducible apply State.hwPush_keeps | with_reducible apply State.evt_keeps
                           | with_reducible apply State.put_keeps | with_reducible apply ite_keeps
                           | with_reducible apply foldl_keeps | with_reducible apply foldlFst_keeps
                           | with_reducible apply foldlSnd_keeps | split | dsimp only)

theorem State.debounceAt_keeps {P : State → Prop} (cRegs : Blind.regs P) (cQueues : Blind.queues P) (cFcr : Blind.fcr P)
    (cDins : Blind.dins P) (cAhead : Blind.ahead P) {s : State} (h : P s) (t : Nat) (n : Nat) :
    P (State.debounceAt s t n) := by
  unfold State.debounceAt
  repeat' (first | with_reducible assumption | intro _ | with_reducible apply State.debounced_keeps
                           | with_reducible apply ite_keeps | with_reducible apply foldl_keeps
                           | with_reducible apply foldlFst_keeps | with_reducible apply foldlSnd_keeps | split | dsimp only
                           | with_reducible apply cAhead)

theorem execDebouncedChange_keeps {P : State → Prop} (cRegs : Blind.regs P) (cQueues : Blind.queues P) (cFcr : Blind.fcr P)
    (cDins : Blind.dins P) (cAhead : Blind.ahead P) (cNow : Blind.now P) {s : State} (h : P s) (t : Nat) (n : Nat) :
    Next P (execDebouncedChange t n s) := by
  unfold execDebouncedChange
  repeat' (first | with_reducible assumption | intro _ | with_reducible apply State.debounceAt_keeps
                           | with_reducible apply State.reach_keeps | with_reducible apply Next.of
                           | with_reducible apply nextIte_keeps | with_reducible apply ite_keeps
                           | with_reducible apply foldl_keeps | with_reducible apply foldlFst_keeps
                           | with_reducible apply foldlSnd_keeps | split | dsimp only)

end Sys2Proof.Machine
end

