-- ==== Sys2Proof/Laws/KeepsTimers.lean ====
section
/-! SUPPORT. What the operations of Machine/Timers.lean keep. -/
namespace Sys2Proof.Machine

theorem State.setTmr_keeps {P : State → Prop} (cTmrs : Blind.tmrs P) {s : State} (h : P s) (u : Nat) (f : TmrSt → TmrSt) :
    P (State.setTmr s u f) := by
  unfold State.setTmr
  repeat' (first | with_reducible assumption | intro _ | with_reducible apply ite_keeps | with_reducible apply foldl_keeps
                           | with_reducible apply foldlFst_keeps | with_reducible apply foldlSnd_keeps | split | dsimp only
                           | with_reducible apply cTmrs)

theorem State.setTch_keeps {P : State → Prop} (cTchs : Blind.tchs P) {s : State} (h : P s) (n : Nat) (f : TmrCh → TmrCh) :
    P (State.setTch s n f) := by
  unfold State.setTch
  repeat' (first | with_reducible assumption | intro _ | with_reducible apply ite_keeps | with_reducible apply foldl_keeps
                           | with_reducible apply foldlFst_keeps | with_reducible apply foldlSnd_keeps | split | dsimp only
                           | with_reducible apply cTchs)

theorem State.tmrStat_keeps {P : State → Prop} (cRegs : Blind.regs P) {s : State} (h : P s) (u : Nat) :
    P (State.tmrStat s u) := by
  unfold State.tmrStat
  repeat' (first | with_reducible assumption | intro _ | with_reducible apply State.put_keeps | with_reducible apply ite_keeps
                           | with_reducible apply foldl_keeps | with_reducible apply foldlFst_keeps
                           | with_reducible apply foldlSnd_keeps | split | dsimp only)

theorem State.tmrEntry_keeps {P : State → Prop} (cRegs : Blind.regs P) (cQueues : Blind.queues P)
    (cFcr : Blind.fcr P) {s : State} (h : P s) (n : Nat) (ty : Nat) (c : Nat) (sp : Nat) (t : Nat) :
    P (State.tmrEntry s n ty c sp t) := by
  unfold State.tmrEntry
  repeat' (first | with_reducible assumption | intro _ | with_reducible apply State.hwPush_keeps
                           | with_reducible apply ite_keeps | with_reducible apply foldl_keeps
                           | with_reducible apply foldlFst_keeps | with_reducible apply foldlSnd_keeps | split | dsimp only)

theorem State.tmrMatch_keeps {P : State → Prop} (cRegs : Blind.regs P) (cQueues : Blind.queues P) (cFcr : Blind.fcr P)
    (cTchs : Blind.tchs P) {s : State} (h : P s) (n : Nat) (t : Nat) :
    P (State.tmrMatch s n t) := by
  unfold State.tmrMatch
  repeat' (first | with_reducible assumption | intro _ | with_reducible apply State.tmrEntry_keeps
                           | with_reducible apply State.setTch_keeps | with_reducible apply State.evt_keeps
                           | with_reducible apply State.put_keeps | with_reducible apply ite_keeps
                           | with_reducible apply foldl_keeps | with_reducible apply foldlFst_keeps
                           | with_reducible apply foldlSnd_keeps | split | dsimp only)

theorem State.tmrPreload_keeps {P : State → Prop} (cRegs : Blind.regs P) (cTmrs : Blind.tmrs P)
    (cTchs : Blind.tchs P) {s : State} (h : P s) (u : Nat) :
    P (State.tmrPreload s u) := by
  unfold State.tmrPreload
  repeat' (first | with_reducible assumption | intro _ | with_reducible apply State.setTch_keeps
                           | with_reducible apply State.setTmr_keeps | with_reducible apply State.put_keeps
                           | with_reducible apply ite_keeps | with_reducible apply foldl_keeps
                           | with_reducible apply foldlFst_keeps | with_reducible apply foldlSnd_keeps | split | dsimp only)

theorem State.tmrAdvance_keeps {P : State → Prop} (cRegs : Blind.regs P) (cTmrs : Blind.tmrs P)
    (cTchs : Blind.tchs P) {s : State} (h : P s) (u : Nat) (restart : Bool) :
    P (State.tmrAdvance s u restart).1 := by
  unfold State.tmrAdvance
  repeat' (first | with_reducible assumption | intro _ | with_reducible apply State.tmrPreload_keeps
                           | with_reducible apply State.setTmr_keeps | with_reducible apply State.evt_keeps
                           | with_reducible apply State.put_keeps | with_reducible apply ite_keeps
                           | with_reducible apply foldl_keeps | with_reducible apply foldlFst_keeps
                           | with_reducible apply foldlSnd_keeps | split | dsimp only)

theorem State.tmrStep_keeps {P : State → Prop} (cRegs : Blind.regs P) (cQueues : Blind.queues P) (cFcr : Blind.fcr P)
    (cTmrs : Blind.tmrs P) (cTchs : Blind.tchs P) {s : State} (h : P s) (u : Nat) (t : Nat) (restart : Bool) :
    P (State.tmrStep s u t restart).1 := by
  unfold State.tmrStep
  repeat' (first | with_reducible assumption | intro _ | with_reducible apply State.tmrAdvance_keeps
                           | with_reducible apply State.tmrMatch_keeps | with_reducible apply State.tmrStat_keeps
                           | with_reducible apply State.setTmr_keeps | with_reducible apply ite_keeps
                           | with_reducible apply foldl_keeps | with_reducible apply foldlFst_keeps
                           | with_reducible apply foldlSnd_keeps | split | dsimp only)

theorem State.tmrEvent_keeps {P : State → Prop} (cRegs : Blind.regs P) (cQueues : Blind.queues P) (cFcr : Blind.fcr P)
    (cTmrs : Blind.tmrs P) (cTchs : Blind.tchs P) {s : State} (h : P s) (u : Nat) (t : Nat) :
    P (State.tmrEvent s u t).1 := by
  unfold State.tmrEvent
  repeat' (first | with_reducible assumption | intro _ | with_reducible apply State.tmrStep_keeps
                           | with_reducible apply State.setTmr_keeps | with_reducible apply ite_keeps
                           | with_reducible apply foldl_keeps | with_reducible apply foldlFst_keeps
                           | with_reducible apply foldlSnd_keeps | split | dsimp only)

theorem State.tmrFollow_keeps {P : State → Prop} (cRegs : Blind.regs P) (cQueues : Blind.queues P) (cFcr : Blind.fcr P)
    (cTmrs : Blind.tmrs P) (cTchs : Blind.tchs P) {s : State} (h : P s) (v : Nat) (t : Nat) :
    P (State.tmrFollow s v t).1 := by
  unfold State.tmrFollow
  repeat' (first | with_reducible assumption | intro _ | with_reducible apply State.tmrEvent_keeps
                           | with_reducible apply State.tmrStep_keeps | with_reducible apply State.setTmr_keeps
                           | with_reducible apply ite_keeps | with_reducible apply foldl_keeps
                           | with_reducible apply foldlFst_keeps | with_reducible apply foldlSnd_keeps | split | dsimp only)

theorem State.tmrPulses_keeps {P : State → Prop} (cRegs : Blind.regs P) (cQueues : Blind.queues P) (cFcr : Blind.fcr P)
    (cTmrs : Blind.tmrs P) (cTchs : Blind.tchs P) (fuel : Nat) (us : List Nat) (t : Nat) {s : State} (h : P s) :
    P (State.tmrPulses fuel us t s) := by
  induction fuel generalizing us t s with
  | zero => exact h
  | succ n ih =>
    unfold State.tmrPulses
    have hf := foldl_inv (Q := fun a : State × List Nat => P a.1) (a := ((s, []) : State × List Nat)) h
      (f := fun (acc : State × List Nat) v =>
        let x := acc.1.tmrFollow v t
        (x.1, if x.2 then acc.2 ++ [v] else acc.2))
      (fun a v ha => State.tmrFollow_keeps cRegs cQueues cFcr cTmrs cTchs ha v t) (l := us.flatMap s.tmrFollowers)
    dsimp only at hf ⊢
    split
    · exact hf
    · exact ih _ _ hf

theorem State.tmrSource_keeps {P : State → Prop} (cRegs : Blind.regs P) (cQueues : Blind.queues P) (cFcr : Blind.fcr P)
    (cTmrs : Blind.tmrs P) (cTchs : Blind.tchs P) {s : State} (h : P s) (us sent : List Nat) (t : Nat) :
    P (State.tmrSource s us sent t) := by
  unfold State.tmrSource
  have hf := foldl_inv (Q := fun a : State × List Nat => P a.1) (a := (s, sent)) h
    (f := fun (acc : State × List Nat) u =>
      if acc.1.tmrCounts u t && !acc.1.tmrRestarted u t then
        let x := acc.1.tmrEvent u t
        (x.1, if x.2 then acc.2 ++ [u] else acc.2)
      else acc)
    (fun a u ha => by
      dsimp only
      split
      · exact State.tmrEvent_keeps cRegs cQueues cFcr cTmrs cTchs ha u t
      · exact ha) (l := us)
  dsimp only at hf ⊢
  split
  · exact hf
  · exact State.tmrPulses_keeps cRegs cQueues cFcr cTmrs cTchs _ _ _ hf

theorem State.tmrApply_keeps {P : State → Prop} (cRegs : Blind.regs P) (cQueues : Blind.queues P) (cFcr : Blind.fcr P)
    (cTmrs : Blind.tmrs P) (cTchs : Blind.tchs P) {s : State} (h : P s) (u : Nat) (keys : List Nat) (t : Nat) :
    P (State.tmrApply s u keys t) := by
  unfold State.tmrApply
  repeat' (first | with_reducible assumption | intro _ | with_reducible apply State.tmrMatch_keeps
                           | with_reducible apply State.tmrStat_keeps | with_reducible apply State.setTch_keeps
                           | with_reducible apply State.setTmr_keeps | with_reducible apply State.put_keeps
                           | with_reducible apply ite_keeps | with_reducible apply foldl_keeps
                           | with_reducible apply foldlFst_keeps | with_reducible apply foldlSnd_keeps | split | dsimp only)

theorem State.tmrStagger_keeps {P : State → Prop} (cRegs : Blind.regs P) (cStg : Blind.stg P) {s : State} (h : P s)  :
    P (State.tmrStagger s) := by
  unfold State.tmrStagger
  repeat' (first | with_reducible assumption | intro _ | with_reducible apply State.evt_keeps
                           | with_reducible apply State.put_keeps | with_reducible apply ite_keeps
                           | with_reducible apply foldl_keeps | with_reducible apply foldlFst_keeps
                           | with_reducible apply foldlSnd_keeps | split | dsimp only | with_reducible apply cStg)

theorem State.tmrTick_keeps {P : State → Prop} (cRegs : Blind.regs P) (cQueues : Blind.queues P) (cFcr : Blind.fcr P)
    (cTmrs : Blind.tmrs P) (cTchs : Blind.tchs P) (cStg : Blind.stg P) {s : State} (h : P s) (keys : List Nat) (t : Nat) :
    P (State.tmrTick s keys t) := by
  unfold State.tmrTick
  repeat' (first | with_reducible assumption | intro _ | with_reducible apply State.tmrStagger_keeps
                           | with_reducible apply State.tmrApply_keeps | with_reducible apply State.tmrSource_keeps
                           | with_reducible apply ite_keeps | with_reducible apply foldl_keeps
                           | with_reducible apply foldlFst_keeps | with_reducible apply foldlSnd_keeps | split | dsimp only)

theorem State.tmrWindow_keeps {P : State → Prop} (cTmrs : Blind.tmrs P) (cTchs : Blind.tchs P) {s : State} (h : P s)  :
    P (State.tmrWindow s) := by
  unfold State.tmrWindow
  repeat' (first | with_reducible assumption | intro _ | with_reducible apply State.setTch_keeps
                           | with_reducible apply State.setTmr_keeps | with_reducible apply ite_keeps
                           | with_reducible apply foldl_keeps | with_reducible apply foldlFst_keeps
                           | with_reducible apply foldlSnd_keeps | split | dsimp only)

theorem State.periodStart_keeps {P : State → Prop} (cOuts : Blind.outs P) (cAge : Blind.age P) (cStg : Blind.stg P) {s : State}
    (h : P s) (k : Nat) (t : Nat) :
    P (State.periodStart s k t) := by
  unfold State.periodStart
  repeat' (first | with_reducible assumption | intro _ | with_reducible apply State.setAge_keeps
                           | with_reducible apply State.setOut_keeps | with_reducible apply ite_keeps
                           | with_reducible apply foldl_keeps | with_reducible apply foldlFst_keeps
                           | with_reducible apply foldlSnd_keeps | split | dsimp only | with_reducible apply cStg)

theorem State.stgTick_keeps {P : State → Prop} (cRegs : Blind.regs P) (cOuts : Blind.outs P) (cAge : Blind.age P)
    (cStg : Blind.stg P) {s : State} (h : P s) (per : List Nat) (syn : List Nat) (t : Nat) :
    P (State.stgTick s per syn t) := by
  unfold State.stgTick
  repeat' (first | with_reducible assumption | intro _ | with_reducible apply State.periodStart_keeps
                           | with_reducible apply State.evt_keeps | with_reducible apply State.count_keeps
                           | with_reducible apply State.put_keeps | with_reducible apply ite_keeps
                           | with_reducible apply foldl_keeps | with_reducible apply foldlFst_keeps
                           | with_reducible apply foldlSnd_keeps | split | dsimp only | with_reducible apply cStg)

theorem execPwmPeriodStart_keeps {P : State → Prop} (cOuts : Blind.outs P) (cAge : Blind.age P) (cStg : Blind.stg P)
    (cNow : Blind.now P) {s : State} (h : P s) (t : Nat) (k : Nat) :
    Next P (execPwmPeriodStart t k s) := by
  unfold execPwmPeriodStart
  repeat' (first | with_reducible assumption | intro _ | with_reducible apply State.periodStart_keeps
                           | with_reducible apply State.reach_keeps | with_reducible apply Next.of
                           | with_reducible apply nextIte_keeps | with_reducible apply ite_keeps
                           | with_reducible apply foldl_keeps | with_reducible apply foldlFst_keeps
                           | with_reducible apply foldlSnd_keeps | split | dsimp only)

theorem execTimerCountStep_keeps {P : State → Prop} (cRegs : Blind.regs P) (cQueues : Blind.queues P) (cFcr : Blind.fcr P)
    (cTmrs : Blind.tmrs P) (cTchs : Blind.tchs P) (cNow : Blind.now P) {s : State} (h : P s) (t : Nat) (u : CountEdge) :
    Next P (execTimerCountStep t u s) := by
  unfold execTimerCountStep
  repeat' (first | with_reducible assumption | intro _ | with_reducible apply State.tmrSource_keeps
                           | with_reducible apply State.reach_keeps | with_reducible apply Next.of
                           | with_reducible apply nextIte_keeps | with_reducible apply ite_keeps
                           | with_reducible apply foldl_keeps | with_reducible apply foldlFst_keeps
                           | with_reducible apply foldlSnd_keeps | split | dsimp only)

theorem State.capture_keeps {P : State → Prop} (cRegs : Blind.regs P) (cQueues : Blind.queues P) (cFcr : Blind.fcr P)
    (cTchs : Blind.tchs P) {s : State} (h : P s) (t : Nat) (tin : Nat) (rising : Bool) :
    P (State.capture s t tin rising) := by
  unfold State.capture
  repeat' (first | with_reducible assumption | intro _ | with_reducible apply State.tmrEntry_keeps
                           | with_reducible apply State.setTch_keeps | with_reducible apply State.evt_keeps
                           | with_reducible apply State.count_keeps | with_reducible apply State.put_keeps
                           | with_reducible apply ite_keeps | with_reducible apply foldl_keeps
                           | with_reducible apply foldlFst_keeps | with_reducible apply foldlSnd_keeps | split | dsimp only)

theorem State.captureAt_keeps {P : State → Prop} (cRegs : Blind.regs P) (cQueues : Blind.queues P) (cFcr : Blind.fcr P)
    (cAhead : Blind.ahead P) (cTchs : Blind.tchs P) {s : State} (h : P s) (t : Nat) (tin : Nat) (rising : Bool) :
    P (State.captureAt s t tin rising) := by
  unfold State.captureAt
  repeat' (first | with_reducible assumption | intro _ | with_reducible apply State.capture_keeps
                           | with_reducible apply ite_keeps | with_reducible apply foldl_keeps
                           | with_reducible apply foldlFst_keeps | with_reducible apply foldlSnd_keeps | split | dsimp only
                           | with_reducible apply cAhead)

theorem execCaptureEdge_keeps {P : State → Prop} (cRegs : Blind.regs P) (cQueues : Blind.queues P) (cFcr : Blind.fcr P)
    (cAhead : Blind.ahead P) (cTchs : Blind.tchs P) (cNow : Blind.now P) {s : State} (h : P s) (t : Nat) (tin : Nat)
    (rising : Bool) :
    Next P (execCaptureEdge t tin rising s) := by
  unfold execCaptureEdge
  repeat' (first | with_reducible assumption | intro _ | with_reducible apply State.captureAt_keeps
                           | with_reducible apply State.reach_keeps | with_reducible apply Next.of
                           | with_reducible apply nextIte_keeps | with_reducible apply ite_keeps
                           | with_reducible apply foldl_keeps | with_reducible apply foldlFst_keeps
                           | with_reducible apply foldlSnd_keeps | split | dsimp only)

theorem State.aheadDue_keeps {P : State → Prop} (cRegs : Blind.regs P) (cQueues : Blind.queues P) (cFcr : Blind.fcr P)
    (cDins : Blind.dins P) (cAhead : Blind.ahead P) (cTchs : Blind.tchs P) {s : State} (h : P s)  :
    P (State.aheadDue s) := by
  unfold State.aheadDue
  repeat' (first | with_reducible assumption | intro _ | with_reducible apply State.captureAt_keeps
                           | with_reducible apply State.capture_keeps | with_reducible apply State.debounceAt_keeps
                           | with_reducible apply ite_keeps | with_reducible apply foldl_keeps
                           | with_reducible apply foldlFst_keeps | with_reducible apply foldlSnd_keeps | split | dsimp only
                           | with_reducible apply cAhead)

end Sys2Proof.Machine
end

