-- ==== Sys2Proof/Laws/KeepsSwitch.lean ====
section
/-! SUPPORT. What the operations of Machine/Switch.lean keep. -/
namespace Sys2Proof.Machine

theorem State.setPort_keeps {P : State → Prop} (cSw : Blind.sw P) {s : State} (h : P s) (p : Nat) (f : PortSt → PortSt) :
    P (State.setPort s p f) := by
  unfold State.setPort
  repeat' (first | with_reducible assumption | intro _ | with_reducible apply ite_keeps | with_reducible apply foldl_keeps
                           | with_reducible apply foldlFst_keeps | with_reducible apply foldlSnd_keeps | split | dsimp only
                           | with_reducible apply cSw)

theorem State.setStream_keeps {P : State → Prop} (cSw : Blind.sw P) {s : State} (h : P s) (i : Nat) (f : SflEnt → SflEnt) :
    P (State.setStream s i f) := by
  unfold State.setStream
  repeat' (first | with_reducible assumption | intro _ | with_reducible apply ite_keeps | with_reducible apply foldl_keeps
                           | with_reducible apply foldlFst_keeps | with_reducible apply foldlSnd_keeps | split | dsimp only
                           | with_reducible apply cSw)

theorem State.loadStream_keeps {P : State → Prop} (cSw : Blind.sw P) {s : State} (h : P s)  :
    P (State.loadStream s) := by
  unfold State.loadStream
  repeat' (first | with_reducible assumption | intro _ | with_reducible apply State.setStream_keeps
                           | with_reducible apply ite_keeps | with_reducible apply foldl_keeps
                           | with_reducible apply foldlFst_keeps | with_reducible apply foldlSnd_keeps | split | dsimp only)

theorem State.setTas_keeps {P : State → Prop} (cSw : Blind.sw P) {s : State} (h : P s) (p : Nat) (f : TasSt → TasSt) :
    P (State.setTas s p f) := by
  unfold State.setTas
  repeat' (first | with_reducible assumption | intro _ | with_reducible apply ite_keeps | with_reducible apply foldl_keeps
                           | with_reducible apply foldlFst_keeps | with_reducible apply foldlSnd_keeps | split | dsimp only
                           | with_reducible apply cSw)

theorem State.creditTo_keeps {P : State → Prop} (cSw : Blind.sw P) {s : State} (h : P s) (p : Nat) (t : Nat) :
    P (State.creditTo s p t) := by
  unfold State.creditTo
  repeat' (first | with_reducible assumption | intro _ | with_reducible apply State.setPort_keeps
                           | with_reducible apply ite_keeps | with_reducible apply foldl_keeps
                           | with_reducible apply foldlFst_keeps | with_reducible apply foldlSnd_keeps | split | dsimp only)

theorem State.swFree_keeps {P : State → Prop} (cRegs : Blind.regs P) {s : State} (h : P s)  :
    P (State.swFree s) := by
  unfold State.swFree
  repeat' (first | with_reducible assumption | intro _ | with_reducible apply State.evt_keeps
                           | with_reducible apply State.put_keeps | with_reducible apply ite_keeps
                           | with_reducible apply foldl_keeps | with_reducible apply foldlFst_keeps
                           | with_reducible apply foldlSnd_keeps | split | dsimp only)

theorem State.swEnqueue_keeps {P : State → Prop} (cRegs : Blind.regs P) (cFcr : Blind.fcr P) (cSw : Blind.sw P) {s : State}
    (h : P s) (p : Nat) (f : EthFrame) :
    P (State.swEnqueue s p f) := by
  unfold State.swEnqueue
  repeat' (first | with_reducible assumption | intro _ | with_reducible apply State.swFree_keeps
                           | with_reducible apply State.creditTo_keeps | with_reducible apply State.setPort_keeps
                           | with_reducible apply State.detect_keeps | with_reducible apply State.count_keeps
                           | with_reducible apply State.put_keeps | with_reducible apply ite_keeps
                           | with_reducible apply foldl_keeps | with_reducible apply foldlFst_keeps
                           | with_reducible apply foldlSnd_keeps | split | dsimp only)

theorem State.setMac_keeps {P : State → Prop} (cRegs : Blind.regs P) (cSw : Blind.sw P) {s : State} (h : P s) (i : Nat)
    (e : Option MacEnt) :
    P (State.setMac s i e) := by
  unfold State.setMac
  repeat' (first | with_reducible assumption | intro _ | with_reducible apply State.put_keeps | with_reducible apply ite_keeps
                           | with_reducible apply foldl_keeps | with_reducible apply foldlFst_keeps
                           | with_reducible apply foldlSnd_keeps | split | dsimp only | with_reducible apply cSw)

theorem State.macLearn_keeps {P : State → Prop} (cRegs : Blind.regs P) (cSw : Blind.sw P) {s : State} (h : P s) (mac : Nat)
    (fid : Nat) (p : Nat) (t : Nat) :
    P (State.macLearn s mac fid p t) := by
  unfold State.macLearn
  repeat' (first | with_reducible assumption | intro _ | with_reducible apply State.setMac_keeps
                           | with_reducible apply State.evt_keeps | with_reducible apply State.count_keeps
                           | with_reducible apply ite_keeps | with_reducible apply foldl_keeps
                           | with_reducible apply foldlFst_keeps | with_reducible apply foldlSnd_keeps | split | dsimp only)

theorem State.sflFilter_keeps {P : State → Prop} (cRegs : Blind.regs P) (cFcr : Blind.fcr P) (cSw : Blind.sw P) {s : State}
    (h : P s) (i : Nat) (len : Nat) (t : Nat) :
    P (State.sflFilter s i len t).1 := by
  unfold State.sflFilter
  repeat' (first | with_reducible assumption | intro _ | with_reducible apply State.setStream_keeps
                           | with_reducible apply State.detect_keeps | with_reducible apply State.evt_keeps
                           | with_reducible apply ite_keeps | with_reducible apply foldl_keeps
                           | with_reducible apply foldlFst_keeps | with_reducible apply foldlSnd_keeps | split | dsimp only)

theorem State.frerAccept_keeps {P : State → Prop} (cTimers : Blind.timers P) (cSw : Blind.sw P) {s : State} (h : P s) (i : Nat)
    (seq : Nat) (t : Nat) :
    P (State.frerAccept s i seq t).1 := by
  unfold State.frerAccept
  repeat' (first | with_reducible assumption | intro _ | with_reducible apply State.setStream_keeps
                           | with_reducible apply State.arm_keeps | with_reducible apply ite_keeps
                           | with_reducible apply foldl_keeps | with_reducible apply foldlFst_keeps
                           | with_reducible apply foldlSnd_keeps | split | dsimp only | with_reducible apply cSw)

theorem State.frerPath_keeps {P : State → Prop} (cRegs : Blind.regs P) (cFcr : Blind.fcr P) (cSw : Blind.sw P) {s : State}
    (h : P s) (i : Nat) (p : Nat) (t : Nat) :
    P (State.frerPath s i p t) := by
  unfold State.frerPath
  repeat' (first | with_reducible assumption | intro _ | with_reducible apply State.setStream_keeps
                           | with_reducible apply State.detect_keeps | with_reducible apply State.evt_keeps
                           | with_reducible apply ite_keeps | with_reducible apply foldl_keeps
                           | with_reducible apply foldlFst_keeps | with_reducible apply foldlSnd_keeps | split | dsimp only)

theorem State.hostReceive_keeps {P : State → Prop} (cRegs : Blind.regs P) (cMem : Blind.mem P) {s : State} (h : P s)
    (f : EthFrame) :
    P (State.hostReceive s f) := by
  unfold State.hostReceive
  repeat' (first | with_reducible assumption | intro _ | with_reducible apply State.setBytes_keeps
                           | with_reducible apply State.evt_keeps | with_reducible apply State.count_keeps
                           | with_reducible apply State.put_keeps | with_reducible apply ite_keeps
                           | with_reducible apply foldl_keeps | with_reducible apply foldlFst_keeps
                           | with_reducible apply foldlSnd_keeps | split | dsimp only)

theorem State.mailbox_keeps {P : State → Prop} (cRegs : Blind.regs P) (cMem : Blind.mem P) (cQueues : Blind.queues P)
    (cFcr : Blind.fcr P) (cSw : Blind.sw P) {s : State} (h : P s) (f : EthFrame) (t : Nat) :
    P (State.mailbox s f t) := by
  unfold State.mailbox
  repeat' (first | with_reducible assumption | intro _ | with_reducible apply State.hwRef_keeps
                           | with_reducible apply State.setLe_keeps | with_reducible apply State.setBytes_keeps
                           | with_reducible apply State.evt_keeps | with_reducible apply State.count_keeps
                           | with_reducible apply ite_keeps | with_reducible apply foldl_keeps
                           | with_reducible apply foldlFst_keeps | with_reducible apply foldlSnd_keeps | split | dsimp only
                           | with_reducible apply cSw)

theorem State.hostDeliver_keeps {P : State → Prop} (cRegs : Blind.regs P) (cMem : Blind.mem P) (cQueues : Blind.queues P)
    (cFcr : Blind.fcr P) (cSw : Blind.sw P) {s : State} (h : P s) (f : EthFrame) (t : Nat) :
    P (State.hostDeliver s f t) := by
  unfold State.hostDeliver
  repeat' (first | with_reducible assumption | intro _ | with_reducible apply State.mailbox_keeps
                           | with_reducible apply State.hostReceive_keeps | with_reducible apply ite_keeps
                           | with_reducible apply foldl_keeps | with_reducible apply foldlFst_keeps
                           | with_reducible apply foldlSnd_keeps | split | dsimp only)

theorem State.swSpread_keeps {P : State → Prop} (cRegs : Blind.regs P) (cMem : Blind.mem P) (cTimers : Blind.timers P)
    (cQueues : Blind.queues P) (cFcr : Blind.fcr P) (cSw : Blind.sw P) {s : State} (h : P s) (f : EthFrame) (dests : List Nat)
    (untag : Nat) (stream : Option Nat) (t : Nat) :
    P (State.swSpread s f dests untag stream t) := by
  unfold State.swSpread
  repeat' (first | with_reducible assumption | intro _ | with_reducible apply State.hostDeliver_keeps
                           | with_reducible apply State.frerPath_keeps | with_reducible apply State.frerAccept_keeps
                           | with_reducible apply State.swEnqueue_keeps | with_reducible apply State.setStream_keeps
                           | with_reducible apply ite_keeps | with_reducible apply foldl_keeps
                           | with_reducible apply foldlFst_keeps | with_reducible apply foldlSnd_keeps | split | dsimp only)

theorem State.swForward_keeps {P : State → Prop} (cRegs : Blind.regs P) (cMem : Blind.mem P) (cTimers : Blind.timers P)
    (cQueues : Blind.queues P) (cFcr : Blind.fcr P) (cSw : Blind.sw P) {s : State} (h : P s) (f : EthFrame)
    (stream : Option Nat) (t : Nat) :
    P (State.swForward s f stream t) := by
  unfold State.swForward
  repeat' (first | with_reducible assumption | intro _ | with_reducible apply State.swSpread_keeps
                           | with_reducible apply ite_keeps | with_reducible apply foldl_keeps
                           | with_reducible apply foldlFst_keeps | with_reducible apply foldlSnd_keeps | split | dsimp only)

theorem State.cutThrough_keeps {P : State → Prop} (cRegs : Blind.regs P) (cTimers : Blind.timers P) (cFcr : Blind.fcr P)
    (cSw : Blind.sw P) {s : State} (h : P s) (f : EthFrame) (v : Nat) (len : Nat) (t : Nat) :
    P (State.cutThrough s f v len t) := by
  unfold State.cutThrough
  repeat' (first | with_reducible assumption | intro _ | with_reducible apply State.frerPath_keeps
                           | with_reducible apply State.frerAccept_keeps | with_reducible apply State.sflFilter_keeps
                           | with_reducible apply State.swEnqueue_keeps | with_reducible apply ite_keeps
                           | with_reducible apply foldl_keeps | with_reducible apply foldlFst_keeps
                           | with_reducible apply foldlSnd_keeps | split | dsimp only)

theorem State.swOriginate_keeps {P : State → Prop} (cRegs : Blind.regs P) (cMem : Blind.mem P) (cTimers : Blind.timers P)
    (cQueues : Blind.queues P) (cFcr : Blind.fcr P) (cSw : Blind.sw P) {s : State} (h : P s) (dst : Nat) (vid : Nat)
    (prio : Nat) (etype : Nat) (payload : List Byte) (t : Nat) :
    P (State.swOriginate s dst vid prio etype payload t) := by
  unfold State.swOriginate
  repeat' (first | with_reducible assumption | intro _ | with_reducible apply State.swForward_keeps
                           | with_reducible apply State.swSpread_keeps | with_reducible apply ite_keeps
                           | with_reducible apply foldl_keeps | with_reducible apply foldlFst_keeps
                           | with_reducible apply foldlSnd_keeps | split | dsimp only)

theorem State.heartbeat_keeps {P : State → Prop} (cRegs : Blind.regs P) (cMem : Blind.mem P) (cTimers : Blind.timers P)
    (cQueues : Blind.queues P) (cFcr : Blind.fcr P) (cSw : Blind.sw P) {s : State} (h : P s) (errn : Bool) (t : Nat) :
    P (State.heartbeat s errn t) := by
  unfold State.heartbeat
  repeat' (first | with_reducible assumption | intro _ | with_reducible apply State.swOriginate_keeps
                           | with_reducible apply ite_keeps | with_reducible apply foldl_keeps
                           | with_reducible apply foldlFst_keeps | with_reducible apply foldlSnd_keeps | split | dsimp only)

theorem State.portSettle_keeps {P : State → Prop} (cRegs : Blind.regs P) (cFcr : Blind.fcr P) (cSw : Blind.sw P) {s : State}
    (h : P s) (p : Nat) (t : Nat) :
    P (State.portSettle s p t) := by
  unfold State.portSettle
  repeat' (first | with_reducible assumption | intro _ | with_reducible apply State.swFree_keeps
                           | with_reducible apply State.creditTo_keeps | with_reducible apply State.setPort_keeps
                           | with_reducible apply State.detect_keeps | with_reducible apply State.evt_keeps
                           | with_reducible apply State.count_keeps | with_reducible apply State.put_keeps
                           | with_reducible apply ite_keeps | with_reducible apply foldl_keeps
                           | with_reducible apply foldlFst_keeps | with_reducible apply foldlSnd_keeps | split | dsimp only)

theorem State.startTx_keeps {P : State → Prop} (cSw : Blind.sw P) {s : State} (h : P s) (p : Nat) (c : Nat) (t : Nat) :
    P (State.startTx s p c t) := by
  unfold State.startTx
  repeat' (first | with_reducible assumption | intro _ | with_reducible apply State.setPort_keeps
                           | with_reducible apply ite_keeps | with_reducible apply foldl_keeps
                           | with_reducible apply foldlFst_keeps | with_reducible apply foldlSnd_keeps | split | dsimp only)

theorem State.transmit_keeps {P : State → Prop} (cRegs : Blind.regs P) (cMem : Blind.mem P) (cEpisodes : Blind.episodes P)
    (cFcr : Blind.fcr P) (cSw : Blind.sw P) {s : State} (h : P s) (p : Nat) (t : Nat) :
    P (State.transmit s p t) := by
  unfold State.transmit
  repeat' (first | with_reducible assumption | intro _ | with_reducible apply State.startTx_keeps
                           | with_reducible apply State.portSettle_keeps | with_reducible apply State.setPort_keeps
                           | with_reducible apply State.yieldOnce_keeps | with_reducible apply State.count_keeps
                           | with_reducible apply ite_keeps | with_reducible apply foldl_keeps
                           | with_reducible apply foldlFst_keeps | with_reducible apply foldlSnd_keeps | split | dsimp only)

theorem State.portStop_keeps {P : State → Prop} (cRegs : Blind.regs P) (cFcr : Blind.fcr P) (cSw : Blind.sw P) {s : State}
    (h : P s) (p : Nat) (t : Nat) :
    P (State.portStop s p t) := by
  unfold State.portStop
  repeat' (first | with_reducible assumption | intro _ | with_reducible apply State.portSettle_keeps
                           | with_reducible apply State.swFree_keeps | with_reducible apply State.setPort_keeps
                           | with_reducible apply State.count_keeps | with_reducible apply State.put_keeps
                           | with_reducible apply ite_keeps | with_reducible apply foldl_keeps
                           | with_reducible apply foldlFst_keeps | with_reducible apply foldlSnd_keeps | split | dsimp only)

theorem State.tasCfgchg_keeps {P : State → Prop} (cRegs : Blind.regs P) (cSw : Blind.sw P) {s : State} (h : P s) (p : Nat)
    (t : Nat) :
    P (State.tasCfgchg s p t) := by
  unfold State.tasCfgchg
  repeat' (first | with_reducible assumption | intro _ | with_reducible apply State.setTas_keeps
                           | with_reducible apply State.put_keeps | with_reducible apply ite_keeps
                           | with_reducible apply foldl_keeps | with_reducible apply foldlFst_keeps
                           | with_reducible apply foldlSnd_keeps | split | dsimp only)

theorem State.tasFree_keeps {P : State → Prop} (cRegs : Blind.regs P) {s : State} (h : P s) (p : Nat) :
    P (State.tasFree s p) := by
  unfold State.tasFree
  repeat' (first | with_reducible assumption | intro _ | with_reducible apply State.put_keeps | with_reducible apply ite_keeps
                           | with_reducible apply foldl_keeps | with_reducible apply foldlFst_keeps
                           | with_reducible apply foldlSnd_keeps | split | dsimp only)

theorem State.tasEnter_keeps {P : State → Prop} (cRegs : Blind.regs P) (cSw : Blind.sw P) {s : State} (h : P s) (p : Nat)
    (k : Nat) (g : Nat) :
    P (State.tasEnter s p k g) := by
  unfold State.tasEnter
  repeat' (first | with_reducible assumption | intro _ | with_reducible apply State.tasFree_keeps
                           | with_reducible apply State.setTas_keeps | with_reducible apply State.put_keeps
                           | with_reducible apply ite_keeps | with_reducible apply foldl_keeps
                           | with_reducible apply foldlFst_keeps | with_reducible apply foldlSnd_keeps | split | dsimp only)

theorem State.swWindow_keeps {P : State → Prop} (cSw : Blind.sw P) {s : State} (h : P s)  :
    P (State.swWindow s) := by
  unfold State.swWindow
  repeat' (first | with_reducible assumption | intro _ | with_reducible apply State.setPort_keeps
                           | with_reducible apply ite_keeps | with_reducible apply foldl_keeps
                           | with_reducible apply foldlFst_keeps | with_reducible apply foldlSnd_keeps | split | dsimp only
                           | with_reducible apply cSw)

theorem State.holdover_keeps {P : State → Prop} (cRegs : Blind.regs P) (cFcr : Blind.fcr P) {s : State} (h : P s)  :
    P (State.holdover s) := by
  unfold State.holdover
  repeat' (first | with_reducible assumption | intro _ | with_reducible apply State.detect_keeps
                           | with_reducible apply State.evt_keeps | with_reducible apply State.put_keeps
                           | with_reducible apply ite_keeps | with_reducible apply foldl_keeps
                           | with_reducible apply foldlFst_keeps | with_reducible apply foldlSnd_keeps | split | dsimp only)

theorem State.gmLoss_keeps {P : State → Prop} (cRegs : Blind.regs P) (cFcr : Blind.fcr P) (cSw : Blind.sw P) {s : State}
    (h : P s)  :
    P (State.gmLoss s) := by
  unfold State.gmLoss
  repeat' (first | with_reducible assumption | intro _ | with_reducible apply State.holdover_keeps
                           | with_reducible apply State.tasFree_keeps | with_reducible apply State.evt_keeps
                           | with_reducible apply State.put_keeps | with_reducible apply ite_keeps
                           | with_reducible apply foldl_keeps | with_reducible apply foldlFst_keeps
                           | with_reducible apply foldlSnd_keeps | split | dsimp only | with_reducible apply cSw)

theorem execEthTransmitOpportunity_keeps {P : State → Prop} (cRegs : Blind.regs P) (cMem : Blind.mem P)
    (cEpisodes : Blind.episodes P) (cFcr : Blind.fcr P) (cSw : Blind.sw P) (cNow : Blind.now P) {s : State} (h : P s) (t : Nat)
    (p : Nat) :
    Next P (execEthTransmitOpportunity t p s) := by
  unfold execEthTransmitOpportunity
  repeat' (first | with_reducible assumption | intro _ | with_reducible apply State.transmit_keeps
                           | with_reducible apply State.reach_keeps | with_reducible apply Next.of
                           | with_reducible apply nextIte_keeps | with_reducible apply ite_keeps
                           | with_reducible apply foldl_keeps | with_reducible apply foldlFst_keeps
                           | with_reducible apply foldlSnd_keeps | split | dsimp only)

theorem execPreemptVerify_keeps {P : State → Prop} (cRegs : Blind.regs P) (cFcr : Blind.fcr P) (cNow : Blind.now P) {s : State}
    (h : P s) (t : Nat) (p : Nat) (ok : Bool) :
    Next P (execPreemptVerify t p ok s) := by
  unfold execPreemptVerify
  repeat' (first | with_reducible assumption | intro _ | with_reducible apply State.detect_keeps
                           | with_reducible apply State.reach_keeps | with_reducible apply State.evt_keeps
                           | with_reducible apply State.put_keeps | with_reducible apply Next.of
                           | with_reducible apply nextIte_keeps | with_reducible apply ite_keeps
                           | with_reducible apply foldl_keeps | with_reducible apply foldlFst_keeps
                           | with_reducible apply foldlSnd_keeps | split | dsimp only)

theorem execMdioComplete_keeps {P : State → Prop} (cRegs : Blind.regs P) (cNow : Blind.now P) {s : State} (h : P s) (t : Nat)
    (data : Nat) (turnaround : Bool) :
    Next P (execMdioComplete t data turnaround s) := by
  unfold execMdioComplete
  repeat' (first | with_reducible assumption | intro _ | with_reducible apply State.reach_keeps
                           | with_reducible apply State.put_keeps | with_reducible apply Next.of
                           | with_reducible apply nextIte_keeps | with_reducible apply ite_keeps
                           | with_reducible apply foldl_keeps | with_reducible apply foldlFst_keeps
                           | with_reducible apply foldlSnd_keeps | split | dsimp only)

theorem execMacAgeExpiry_keeps {P : State → Prop} (cRegs : Blind.regs P) (cSw : Blind.sw P) (cNow : Blind.now P) {s : State}
    (h : P s) (t : Nat) (i : Nat) :
    Next P (execMacAgeExpiry t i s) := by
  unfold execMacAgeExpiry
  repeat' (first | with_reducible assumption | intro _ | with_reducible apply State.setMac_keeps
                           | with_reducible apply State.reach_keeps | with_reducible apply Next.of
                           | with_reducible apply nextIte_keeps | with_reducible apply ite_keeps
                           | with_reducible apply foldl_keeps | with_reducible apply foldlFst_keeps
                           | with_reducible apply foldlSnd_keeps | split | dsimp only)

theorem execTasConfigChange_keeps {P : State → Prop} (cRegs : Blind.regs P) (cSw : Blind.sw P) (cNow : Blind.now P) {s : State}
    (h : P s) (t : Nat) (p : Nat) :
    Next P (execTasConfigChange t p s) := by
  unfold execTasConfigChange
  repeat' (first | with_reducible assumption | intro _ | with_reducible apply State.tasEnter_keeps
                           | with_reducible apply State.creditTo_keeps | with_reducible apply State.setTas_keeps
                           | with_reducible apply State.reach_keeps | with_reducible apply State.evt_keeps
                           | with_reducible apply State.put_keeps | with_reducible apply Next.of
                           | with_reducible apply nextIte_keeps | with_reducible apply ite_keeps
                           | with_reducible apply foldl_keeps | with_reducible apply foldlFst_keeps
                           | with_reducible apply foldlSnd_keeps | split | dsimp only)

theorem execGateIntervalEnd_keeps {P : State → Prop} (cRegs : Blind.regs P) (cSw : Blind.sw P) (cNow : Blind.now P) {s : State}
    (h : P s) (t : Nat) (p : Nat) :
    Next P (execGateIntervalEnd t p s) := by
  unfold execGateIntervalEnd
  repeat' (first | with_reducible assumption | intro _ | with_reducible apply State.tasEnter_keeps
                           | with_reducible apply State.creditTo_keeps | with_reducible apply State.reach_keeps
                           | with_reducible apply Next.of | with_reducible apply nextIte_keeps | with_reducible apply ite_keeps
                           | with_reducible apply foldl_keeps | with_reducible apply foldlFst_keeps
                           | with_reducible apply foldlSnd_keeps | split | dsimp only)

theorem execFrerResetTimeout_keeps {P : State → Prop} (cTimers : Blind.timers P) (cSw : Blind.sw P)
    (cNow : Blind.now P) {s : State} (h : P s) (i : Nat) :
    Next P (execFrerResetTimeout i s) := by
  unfold execFrerResetTimeout
  repeat' (first | with_reducible assumption | intro _ | with_reducible apply State.setStream_keeps
                           | with_reducible apply State.onExpiry_keeps | with_reducible apply Next.of
                           | with_reducible apply nextIte_keeps | with_reducible apply ite_keeps
                           | with_reducible apply foldl_keeps | with_reducible apply foldlFst_keeps
                           | with_reducible apply foldlSnd_keeps | split | dsimp only)

theorem State.gptpFollow_keeps {P : State → Prop} (cRegs : Blind.regs P) (cTimers : Blind.timers P)
    (cSw : Blind.sw P) {s : State} (h : P s) (t : Nat) (gm : Nat) (master : Nat) (good : Nat) (rate : Int) (off : Int) :
    P (State.gptpFollow s t gm master good rate off) := by
  unfold State.gptpFollow
  repeat' (first | with_reducible assumption | intro _ | with_reducible apply State.tasFree_keeps
                           | with_reducible apply State.arm_keeps | with_reducible apply State.evt_keeps
                           | with_reducible apply State.put_keeps | with_reducible apply ite_keeps
                           | with_reducible apply foldl_keeps | with_reducible apply foldlFst_keeps
                           | with_reducible apply foldlSnd_keeps | split | dsimp only | with_reducible apply cSw)

theorem State.gptpRole_keeps {P : State → Prop} (cRegs : Blind.regs P) (cFcr : Blind.fcr P) (cSw : Blind.sw P) {s : State}
    (h : P s) (p : Nat) (gm : Nat) :
    P (State.gptpRole s p gm) := by
  unfold State.gptpRole
  repeat' (first | with_reducible assumption | intro _ | with_reducible apply State.gmLoss_keeps
                           | with_reducible apply State.evt_keeps | with_reducible apply State.put_keeps
                           | with_reducible apply ite_keeps | with_reducible apply foldl_keeps
                           | with_reducible apply foldlFst_keeps | with_reducible apply foldlSnd_keeps | split | dsimp only)

theorem execGptpSyncReceived_keeps {P : State → Prop} (cRegs : Blind.regs P) (cTimers : Blind.timers P) (cFcr : Blind.fcr P)
    (cSw : Blind.sw P) (cNow : Blind.now P) {s : State} (h : P s) (t : Nat) (p : Nat) (gm : Nat) (master : Nat) (rate : Int) :
    Next P (execGptpSyncReceived t p gm master rate s) := by
  unfold execGptpSyncReceived
  repeat' (first | with_reducible assumption | intro _ | with_reducible apply State.gptpRole_keeps
                           | with_reducible apply State.gptpFollow_keeps | with_reducible apply State.reach_keeps
                           | with_reducible apply Next.of | with_reducible apply nextIte_keeps | with_reducible apply ite_keeps
                           | with_reducible apply foldl_keeps | with_reducible apply foldlFst_keeps
                           | with_reducible apply foldlSnd_keeps | split | dsimp only)

theorem execGptpSyncTimeout_keeps {P : State → Prop} (cRegs : Blind.regs P) (cTimers : Blind.timers P) (cFcr : Blind.fcr P)
    (cSw : Blind.sw P) (cNow : Blind.now P) {s : State} (h : P s)  :
    Next P (execGptpSyncTimeout s) := by
  unfold execGptpSyncTimeout
  repeat' (first | with_reducible assumption | intro _ | with_reducible apply State.gmLoss_keeps
                           | with_reducible apply State.onExpiry_keeps | with_reducible apply Next.of
                           | with_reducible apply nextIte_keeps | with_reducible apply ite_keeps
                           | with_reducible apply foldl_keeps | with_reducible apply foldlFst_keeps
                           | with_reducible apply foldlSnd_keeps | split | dsimp only)

theorem execGptpPdelay_keeps {P : State → Prop} (cRegs : Blind.regs P) (cNow : Blind.now P) {s : State} (h : P s) (t : Nat)
    (p : Nat) (delay : Nat) :
    Next P (execGptpPdelay t p delay s) := by
  unfold execGptpPdelay
  repeat' (first | with_reducible assumption | intro _ | with_reducible apply State.reach_keeps
                           | with_reducible apply State.put_keeps | with_reducible apply Next.of
                           | with_reducible apply nextIte_keeps | with_reducible apply ite_keeps
                           | with_reducible apply foldl_keeps | with_reducible apply foldlFst_keeps
                           | with_reducible apply foldlSnd_keeps | split | dsimp only)

end Sys2Proof.Machine
end

