-- ==== Sys2Proof/Laws/KeepsSleep.lean ====
section
/-! SUPPORT. What the operations of Machine/Sleep.lean keep. -/
namespace Sys2Proof.Machine

theorem State.coolStart_keeps {P : State → Prop} (cTimers : Blind.timers P) (cPwr : Blind.pwr P) {s : State} (h : P s) (t : Nat) :
    P (State.coolStart s t) := by
  unfold State.coolStart
  repeat' (first | with_reducible assumption | intro _ | with_reducible apply State.arm_keeps
                           | with_reducible apply State.disarm_keeps | with_reducible apply ite_keeps
                           | with_reducible apply foldl_keeps | with_reducible apply foldlFst_keeps
                           | with_reducible apply foldlSnd_keeps | split | dsimp only | with_reducible apply cPwr)

theorem State.coolArm_keeps {P : State → Prop} (cRegs : Blind.regs P) (cTimers : Blind.timers P)
    (cPwr : Blind.pwr P) {s : State} (h : P s) (t : Nat) :
    P (State.coolArm s t) := by
  unfold State.coolArm
  repeat' (first | with_reducible assumption | intro _ | with_reducible apply State.coolStart_keeps
                           | with_reducible apply State.arm_keeps | with_reducible apply State.evt_keeps
                           | with_reducible apply State.put_keeps | with_reducible apply ite_keeps
                           | with_reducible apply foldl_keeps | with_reducible apply foldlFst_keeps
                           | with_reducible apply foldlSnd_keeps | split | dsimp only)

theorem State.wakeSource_keeps {P : State → Prop} (cRegs : Blind.regs P) (cPwr : Blind.pwr P) {s : State} (h : P s) (bit : Nat) :
    P (State.wakeSource s bit) := by
  unfold State.wakeSource
  repeat' (first | with_reducible assumption | intro _ | with_reducible apply State.setFlag_keeps
                           | with_reducible apply State.evt_keeps | with_reducible apply ite_keeps
                           | with_reducible apply foldl_keeps | with_reducible apply foldlFst_keeps
                           | with_reducible apply foldlSnd_keeps | split | dsimp only | with_reducible apply cPwr)

theorem State.wakeLatch_keeps {P : State → Prop} (cPwr : Blind.pwr P) {s : State} (h : P s)  :
    P (State.wakeLatch s) := by
  unfold State.wakeLatch
  repeat' (first | with_reducible assumption | intro _ | with_reducible apply ite_keeps | with_reducible apply foldl_keeps
                           | with_reducible apply foldlFst_keeps | with_reducible apply foldlSnd_keeps | split | dsimp only
                           | with_reducible apply cPwr)

theorem State.setNm_keeps {P : State → Prop} (cNms : Blind.nms P) {s : State} (h : P s) (x : Nat) (f : NmSt → NmSt) :
    P (State.setNm s x f) := by
  unfold State.setNm
  repeat' (first | with_reducible assumption | intro _ | with_reducible apply ite_keeps | with_reducible apply foldl_keeps
                           | with_reducible apply foldlFst_keeps | with_reducible apply foldlSnd_keeps | split | dsimp only
                           | with_reducible apply cNms)

theorem State.nmsKeep_keeps {P : State → Prop} (cNms : Blind.nms P) {s : State} (h : P s)  :
    P (State.nmsKeep s) := by
  unfold State.nmsKeep
  repeat' (first | with_reducible assumption | intro _ | with_reducible apply ite_keeps | with_reducible apply foldl_keeps
                           | with_reducible apply foldlFst_keeps | with_reducible apply foldlSnd_keeps | split | dsimp only
                           | with_reducible apply cNms)

theorem State.agreeCheck_keeps {P : State → Prop} (cRegs : Blind.regs P) (cTimers : Blind.timers P)
    (cPwr : Blind.pwr P) {s : State} (h : P s) (t : Nat) :
    P (State.agreeCheck s t) := by
  unfold State.agreeCheck
  repeat' (first | with_reducible assumption | intro _ | with_reducible apply State.coolArm_keeps
                           | with_reducible apply State.evt_keeps | with_reducible apply State.put_keeps
                           | with_reducible apply ite_keeps | with_reducible apply foldl_keeps
                           | with_reducible apply foldlFst_keeps | with_reducible apply foldlSnd_keeps | split | dsimp only)

theorem State.keepAlive_keeps {P : State → Prop} (cRegs : Blind.regs P) (cQueues : Blind.queues P)
    (cFcr : Blind.fcr P) {s : State} (h : P s) (x : Nat) (t : Nat) :
    P (State.keepAlive s x t) := by
  unfold State.keepAlive
  repeat' (first | with_reducible assumption | intro _ | with_reducible apply State.hwPush_keeps
                           | with_reducible apply ite_keeps | with_reducible apply foldl_keeps
                           | with_reducible apply foldlFst_keeps | with_reducible apply foldlSnd_keeps | split | dsimp only)

theorem State.nmEnter_keeps {P : State → Prop} (cRegs : Blind.regs P) (cTimers : Blind.timers P) (cQueues : Blind.queues P)
    (cFcr : Blind.fcr P) (cPwr : Blind.pwr P) {s : State} (h : P s) (x : Nat) (st : Nat) (t : Nat) :
    P (State.nmEnter s x st t) := by
  unfold State.nmEnter
  repeat' (first | with_reducible assumption | intro _ | with_reducible apply State.keepAlive_keeps
                           | with_reducible apply State.agreeCheck_keeps | with_reducible apply State.arm_keeps
                           | with_reducible apply State.disarm_keeps | with_reducible apply State.evt_keeps
                           | with_reducible apply State.count_keeps | with_reducible apply State.put_keeps
                           | with_reducible apply ite_keeps | with_reducible apply foldl_keeps
                           | with_reducible apply foldlFst_keeps | with_reducible apply foldlSnd_keeps | split | dsimp only)

theorem State.nmExpire_keeps {P : State → Prop} (cRegs : Blind.regs P) (cTimers : Blind.timers P) (cQueues : Blind.queues P)
    (cFcr : Blind.fcr P) (cPwr : Blind.pwr P) {s : State} (h : P s) (x : Nat) (t : Nat) :
    P (State.nmExpire s x t) := by
  unfold State.nmExpire
  repeat' (first | with_reducible assumption | intro _ | with_reducible apply State.nmEnter_keeps
                           | with_reducible apply ite_keeps | with_reducible apply foldl_keeps
                           | with_reducible apply foldlFst_keeps | with_reducible apply foldlSnd_keeps | split | dsimp only)

theorem State.nmEnable_keeps {P : State → Prop} (cRegs : Blind.regs P) (cTimers : Blind.timers P) (cQueues : Blind.queues P)
    (cFcr : Blind.fcr P) (cPwr : Blind.pwr P) {s : State} (h : P s) (x : Nat) (t : Nat) :
    P (State.nmEnable s x t) := by
  unfold State.nmEnable
  repeat' (first | with_reducible assumption | intro _ | with_reducible apply State.nmEnter_keeps
                           | with_reducible apply ite_keeps | with_reducible apply foldl_keeps
                           | with_reducible apply foldlFst_keeps | with_reducible apply foldlSnd_keeps | split | dsimp only)

theorem State.nmNeed_keeps {P : State → Prop} (cRegs : Blind.regs P) (cTimers : Blind.timers P) (cQueues : Blind.queues P)
    (cFcr : Blind.fcr P) (cPwr : Blind.pwr P) {s : State} (h : P s) (x : Nat) (t : Nat) :
    P (State.nmNeed s x t) := by
  unfold State.nmNeed
  repeat' (first | with_reducible assumption | intro _ | with_reducible apply State.nmExpire_keeps
                           | with_reducible apply State.nmEnter_keeps | with_reducible apply State.wakeLatch_keeps
                           | with_reducible apply State.count_keeps | with_reducible apply ite_keeps
                           | with_reducible apply foldl_keeps | with_reducible apply foldlFst_keeps
                           | with_reducible apply foldlSnd_keeps | split | dsimp only)

theorem State.nmFrame_keeps {P : State → Prop} (cRegs : Blind.regs P) (cTimers : Blind.timers P) (cQueues : Blind.queues P)
    (cFcr : Blind.fcr P) (cPwr : Blind.pwr P) (cNms : Blind.nms P) {s : State} (h : P s) (x : Nat) (id : Nat) (ide : Bool)
    (data : List Byte) (t : Nat) :
    P (State.nmFrame s x id ide data t) := by
  unfold State.nmFrame
  repeat' (first | with_reducible assumption | intro _ | with_reducible apply State.nmExpire_keeps
                           | with_reducible apply State.nmEnter_keeps | with_reducible apply State.setNm_keeps
                           | with_reducible apply State.wakeLatch_keeps | with_reducible apply State.arm_keeps
                           | with_reducible apply State.disarm_keeps | with_reducible apply State.count_keeps
                           | with_reducible apply State.put_keeps | with_reducible apply ite_keeps
                           | with_reducible apply foldl_keeps | with_reducible apply foldlFst_keeps
                           | with_reducible apply foldlSnd_keeps | split | dsimp only)

theorem State.falseStarts_keeps {P : State → Prop} (cTimers : Blind.timers P) (cFcr : Blind.fcr P)
    (cNms : Blind.nms P) {s : State} (h : P s) (t : Nat) :
    P (State.falseStarts s t) := by
  unfold State.falseStarts
  repeat' (first | with_reducible assumption | intro _ | with_reducible apply State.setNm_keeps
                           | with_reducible apply State.detect_keeps | with_reducible apply State.arm_keeps
                           | with_reducible apply ite_keeps | with_reducible apply foldl_keeps
                           | with_reducible apply foldlFst_keeps | with_reducible apply foldlSnd_keeps | split | dsimp only)

theorem State.ringSend_keeps {P : State → Prop} (cRegs : Blind.regs P) (cMem : Blind.mem P) (cTimers : Blind.timers P)
    (cQueues : Blind.queues P) (cFcr : Blind.fcr P) (cSw : Blind.sw P) {s : State} (h : P s) (ty : Nat) (dest : Nat) (seq : Nat)
    (mask : Nat) (t : Nat) :
    P (State.ringSend s ty dest seq mask t) := by
  unfold State.ringSend
  repeat' (first | with_reducible assumption | intro _ | with_reducible apply State.swOriginate_keeps
                           | with_reducible apply ite_keeps | with_reducible apply foldl_keeps
                           | with_reducible apply foldlFst_keeps | with_reducible apply foldlSnd_keeps | split | dsimp only)

theorem State.ringCheck_keeps {P : State → Prop} (cRegs : Blind.regs P) {s : State} (h : P s) (ty : Nat) (p : List Byte)
    (t : Nat) :
    P (State.ringCheck s ty p t).1 := by
  unfold State.ringCheck
  repeat' (first | with_reducible assumption | intro _ | with_reducible apply State.count_keeps
                           | with_reducible apply State.put_keeps | with_reducible apply ite_keeps
                           | with_reducible apply foldl_keeps | with_reducible apply foldlFst_keeps
                           | with_reducible apply foldlSnd_keeps | split | dsimp only)

theorem State.lapEnd_keeps {P : State → Prop} (cRegs : Blind.regs P) (cTimers : Blind.timers P) {s : State} (h : P s) (t : Nat) :
    P (State.lapEnd s t) := by
  unfold State.lapEnd
  repeat' (first | with_reducible assumption | intro _ | with_reducible apply State.arm_keeps
                           | with_reducible apply State.disarm_keeps | with_reducible apply State.put_keeps
                           | with_reducible apply ite_keeps | with_reducible apply foldl_keeps
                           | with_reducible apply foldlFst_keeps | with_reducible apply foldlSnd_keeps | split | dsimp only)

theorem State.ringCommitted_keeps {P : State → Prop} (cRegs : Blind.regs P) (cTimers : Blind.timers P)
    (cPwr : Blind.pwr P) {s : State} (h : P s) (t : Nat) :
    P (State.ringCommitted s t) := by
  unfold State.ringCommitted
  repeat' (first | with_reducible assumption | intro _ | with_reducible apply State.agreeCheck_keeps
                           | with_reducible apply State.disarm_keeps | with_reducible apply State.evt_keeps
                           | with_reducible apply State.put_keeps | with_reducible apply ite_keeps
                           | with_reducible apply foldl_keeps | with_reducible apply foldlFst_keeps
                           | with_reducible apply foldlSnd_keeps | split | dsimp only | with_reducible apply cPwr)

theorem State.ringDissent_keeps {P : State → Prop} (cRegs : Blind.regs P) {s : State} (h : P s)  :
    P (State.ringDissent s) := by
  unfold State.ringDissent
  repeat' (first | with_reducible assumption | intro _ | with_reducible apply State.evt_keeps
                           | with_reducible apply State.count_keeps | with_reducible apply ite_keeps
                           | with_reducible apply foldl_keeps | with_reducible apply foldlFst_keeps
                           | with_reducible apply foldlSnd_keeps | split | dsimp only)

theorem State.sendDissent_keeps {P : State → Prop} (cRegs : Blind.regs P) (cMem : Blind.mem P) (cTimers : Blind.timers P)
    (cQueues : Blind.queues P) (cFcr : Blind.fcr P) (cSw : Blind.sw P) {s : State} (h : P s) (seq : Nat) (t : Nat) :
    P (State.sendDissent s seq t) := by
  unfold State.sendDissent
  repeat' (first | with_reducible assumption | intro _ | with_reducible apply State.ringDissent_keeps
                           | with_reducible apply State.ringSend_keeps | with_reducible apply ite_keeps
                           | with_reducible apply foldl_keeps | with_reducible apply foldlFst_keeps
                           | with_reducible apply foldlSnd_keeps | split | dsimp only)

theorem State.ringJoin_keeps {P : State → Prop} (cRegs : Blind.regs P) (cSeq : Blind.seq P) (cRing : Blind.ring P) {s : State}
    (h : P s) (seq : Nat) (mask : Nat) :
    P (State.ringJoin s seq mask) := by
  unfold State.ringJoin
  repeat' (first | with_reducible assumption | intro _ | with_reducible apply State.evt_keeps
                           | with_reducible apply State.count_keeps | with_reducible apply State.put_keeps
                           | with_reducible apply ite_keeps | with_reducible apply foldl_keeps
                           | with_reducible apply foldlFst_keeps | with_reducible apply foldlSnd_keeps | split | dsimp only
                           | with_reducible apply cSeq | with_reducible apply cRing)

theorem State.ringBatonFrame_keeps {P : State → Prop} (cRegs : Blind.regs P) (cMem : Blind.mem P) (cTimers : Blind.timers P)
    (cQueues : Blind.queues P) (cFcr : Blind.fcr P) (cSeq : Blind.seq P) (cSw : Blind.sw P) (cPwr : Blind.pwr P)
    (cRing : Blind.ring P) {s : State} (h : P s) (payload : List Byte) (t : Nat) :
    P (State.ringBatonFrame s payload t) := by
  unfold State.ringBatonFrame
  have h1 := State.ringCheck_keeps cRegs h 1 payload t
  try dsimp only
  generalize State.ringCheck s 1 payload t = c at h1 ⊢
  obtain ⟨a, _ | m⟩ := c
  all_goals dsimp only at h1 ⊢
  all_goals repeat' (first | with_reducible assumption | intro _ | with_reducible apply State.ringJoin_keeps
                           | with_reducible apply State.sendDissent_keeps | with_reducible apply State.ringCommitted_keeps
                           | with_reducible apply State.ringCheck_keeps | with_reducible apply State.ringSend_keeps
                           | with_reducible apply State.arm_keeps | with_reducible apply State.put_keeps
                           | with_reducible apply ite_keeps | with_reducible apply foldl_keeps
                           | with_reducible apply foldlFst_keeps | with_reducible apply foldlSnd_keeps | split | dsimp only
                           | with_reducible apply cRing)

theorem State.ringDissentFrame_keeps {P : State → Prop} (cRegs : Blind.regs P) (cTimers : Blind.timers P) {s : State} (h : P s)
    (payload : List Byte) (t : Nat) :
    P (State.ringDissentFrame s payload t) := by
  unfold State.ringDissentFrame
  have h1 := State.ringCheck_keeps cRegs h 2 payload t
  try dsimp only
  generalize State.ringCheck s 2 payload t = c at h1 ⊢
  obtain ⟨a, _ | m⟩ := c
  all_goals dsimp only at h1 ⊢
  all_goals repeat' (first | with_reducible assumption | intro _ | with_reducible apply State.ringDissent_keeps
                           | with_reducible apply State.lapEnd_keeps | with_reducible apply State.ringCheck_keeps
                           | with_reducible apply ite_keeps | with_reducible apply foldl_keeps
                           | with_reducible apply foldlFst_keeps | with_reducible apply foldlSnd_keeps | split | dsimp only)

theorem State.ringCommitFrame_keeps {P : State → Prop} (cRegs : Blind.regs P) (cTimers : Blind.timers P)
    (cPwr : Blind.pwr P) {s : State} (h : P s) (payload : List Byte) (t : Nat) :
    P (State.ringCommitFrame s payload t) := by
  unfold State.ringCommitFrame
  have h1 := State.ringCheck_keeps cRegs h 3 payload t
  try dsimp only
  generalize State.ringCheck s 3 payload t = c at h1 ⊢
  obtain ⟨a, _ | m⟩ := c
  all_goals dsimp only at h1 ⊢
  all_goals repeat' (first | with_reducible assumption | intro _ | with_reducible apply State.ringCommitted_keeps
                           | with_reducible apply State.ringCheck_keeps | with_reducible apply State.put_keeps
                           | with_reducible apply ite_keeps | with_reducible apply foldl_keeps
                           | with_reducible apply foldlFst_keeps | with_reducible apply foldlSnd_keeps | split | dsimp only)

theorem State.ringFrame_keeps {P : State → Prop} (cRegs : Blind.regs P) (cMem : Blind.mem P) (cTimers : Blind.timers P)
    (cQueues : Blind.queues P) (cFcr : Blind.fcr P) (cSeq : Blind.seq P) (cSw : Blind.sw P) (cPwr : Blind.pwr P)
    (cRing : Blind.ring P) {s : State} (h : P s) (payload : List Byte) (t : Nat) :
    P (State.ringFrame s payload t) := by
  unfold State.ringFrame
  repeat' (first | with_reducible assumption | intro _ | with_reducible apply State.ringCommitFrame_keeps
                           | with_reducible apply State.ringDissentFrame_keeps
                           | with_reducible apply State.ringBatonFrame_keeps | with_reducible apply ite_keeps
                           | with_reducible apply foldl_keeps | with_reducible apply foldlFst_keeps
                           | with_reducible apply foldlSnd_keeps | split | dsimp only)

theorem execNmKeepaliveSend_keeps {P : State → Prop} (cRegs : Blind.regs P) (cTimers : Blind.timers P)
    (cQueues : Blind.queues P) (cFcr : Blind.fcr P) (cNow : Blind.now P) {s : State} (h : P s) (x : Nat) :
    Next P (execNmKeepaliveSend x s) := by
  unfold execNmKeepaliveSend
  repeat' (first | with_reducible assumption | intro _ | with_reducible apply State.keepAlive_keeps
                           | with_reducible apply State.onExpiry_keeps | with_reducible apply State.arm_keeps
                           | with_reducible apply Next.of | with_reducible apply nextIte_keeps | with_reducible apply ite_keeps
                           | with_reducible apply foldl_keeps | with_reducible apply foldlFst_keeps
                           | with_reducible apply foldlSnd_keeps | split | dsimp only)

theorem execNmRepeatExpiry_keeps {P : State → Prop} (cRegs : Blind.regs P) (cTimers : Blind.timers P) (cQueues : Blind.queues P)
    (cFcr : Blind.fcr P) (cPwr : Blind.pwr P) (cNow : Blind.now P) {s : State} (h : P s) (x : Nat) :
    Next P (execNmRepeatExpiry x s) := by
  unfold execNmRepeatExpiry
  repeat' (first | with_reducible assumption | intro _ | with_reducible apply State.nmEnter_keeps
                           | with_reducible apply State.onExpiry_keeps | with_reducible apply Next.of
                           | with_reducible apply nextIte_keeps | with_reducible apply ite_keeps
                           | with_reducible apply foldl_keeps | with_reducible apply foldlFst_keeps
                           | with_reducible apply foldlSnd_keeps | split | dsimp only)

theorem execNmTimeoutExpiry_keeps {P : State → Prop} (cRegs : Blind.regs P) (cTimers : Blind.timers P)
    (cQueues : Blind.queues P) (cFcr : Blind.fcr P) (cPwr : Blind.pwr P) (cNow : Blind.now P) {s : State} (h : P s) (x : Nat) :
    Next P (execNmTimeoutExpiry x s) := by
  unfold execNmTimeoutExpiry
  repeat' (first | with_reducible assumption | intro _ | with_reducible apply State.nmEnter_keeps
                           | with_reducible apply State.onExpiry_keeps | with_reducible apply Next.of
                           | with_reducible apply nextIte_keeps | with_reducible apply ite_keeps
                           | with_reducible apply foldl_keeps | with_reducible apply foldlFst_keeps
                           | with_reducible apply foldlSnd_keeps | split | dsimp only)

theorem execNmWaitbsExpiry_keeps {P : State → Prop} (cRegs : Blind.regs P) (cTimers : Blind.timers P) (cQueues : Blind.queues P)
    (cFcr : Blind.fcr P) (cPwr : Blind.pwr P) (cNow : Blind.now P) {s : State} (h : P s) (x : Nat) :
    Next P (execNmWaitbsExpiry x s) := by
  unfold execNmWaitbsExpiry
  repeat' (first | with_reducible assumption | intro _ | with_reducible apply State.nmEnter_keeps
                           | with_reducible apply State.onExpiry_keeps | with_reducible apply Next.of
                           | with_reducible apply nextIte_keeps | with_reducible apply ite_keeps
                           | with_reducible apply foldl_keeps | with_reducible apply foldlFst_keeps
                           | with_reducible apply foldlSnd_keeps | split | dsimp only)

theorem execCanBusWake_keeps {P : State → Prop} (cRegs : Blind.regs P) (cTimers : Blind.timers P) (cQueues : Blind.queues P)
    (cFcr : Blind.fcr P) (cPwr : Blind.pwr P) (cNms : Blind.nms P) (cNow : Blind.now P) {s : State} (h : P s) (t : Nat)
    (x : Nat) :
    Next P (execCanBusWake t x s) := by
  unfold execCanBusWake
  repeat' (first | with_reducible assumption | intro _ | with_reducible apply State.nmEnter_keeps
                           | with_reducible apply State.setNm_keeps | with_reducible apply State.wakeSource_keeps
                           | with_reducible apply State.arm_keeps | with_reducible apply State.reach_keeps
                           | with_reducible apply State.evt_keeps | with_reducible apply Next.of
                           | with_reducible apply nextIte_keeps | with_reducible apply ite_keeps
                           | with_reducible apply foldl_keeps | with_reducible apply foldlFst_keeps
                           | with_reducible apply foldlSnd_keeps | split | dsimp only | with_reducible apply cPwr)

theorem State.nextWindow_keeps {P : State → Prop} (cTimers : Blind.timers P) (cNms : Blind.nms P) {s : State} (h : P s)
    (x : Nat) :
    P (State.nextWindow s x) := by
  unfold State.nextWindow
  repeat' (first | with_reducible assumption | intro _ | with_reducible apply State.setNm_keeps
                           | with_reducible apply State.arm_keeps | with_reducible apply ite_keeps
                           | with_reducible apply foldl_keeps | with_reducible apply foldlFst_keeps
                           | with_reducible apply foldlSnd_keeps | split | dsimp only)

theorem execFalseStartWindow_keeps {P : State → Prop} (cRegs : Blind.regs P) (cTimers : Blind.timers P) (cFcr : Blind.fcr P)
    (cNms : Blind.nms P) (cNow : Blind.now P) {s : State} (h : P s) (x : Nat) :
    Next P (execFalseStartWindow x s) := by
  unfold execFalseStartWindow
  repeat' (first | with_reducible assumption | intro _ | with_reducible apply State.nextWindow_keeps
                           | with_reducible apply State.setNm_keeps | with_reducible apply State.detect_keeps
                           | with_reducible apply State.onExpiry_keeps | with_reducible apply State.arm_keeps
                           | with_reducible apply State.setFlag_keeps | with_reducible apply State.count_keeps
                           | with_reducible apply Next.of | with_reducible apply nextIte_keeps | with_reducible apply ite_keeps
                           | with_reducible apply foldl_keeps | with_reducible apply foldlFst_keeps
                           | with_reducible apply foldlSnd_keeps | split | dsimp only)

theorem execFalseStartMaskHold_keeps {P : State → Prop} (cRegs : Blind.regs P) (cTimers : Blind.timers P)
    (cNow : Blind.now P) {s : State} (h : P s) (x : Nat) :
    Next P (execFalseStartMaskHold x s) := by
  unfold execFalseStartMaskHold
  repeat' (first | with_reducible assumption | intro _ | with_reducible apply State.onExpiry_keeps
                           | with_reducible apply State.clrFlag_keeps | with_reducible apply Next.of
                           | with_reducible apply nextIte_keeps | with_reducible apply ite_keeps
                           | with_reducible apply foldl_keeps | with_reducible apply foldlFst_keeps
                           | with_reducible apply foldlSnd_keeps | split | dsimp only)

theorem execRingLapStart_keeps {P : State → Prop} (cRegs : Blind.regs P) (cMem : Blind.mem P) (cTimers : Blind.timers P)
    (cQueues : Blind.queues P) (cFcr : Blind.fcr P) (cSeq : Blind.seq P) (cSw : Blind.sw P) (cRing : Blind.ring P)
    (cNow : Blind.now P) {s : State} (h : P s) (t : Nat) :
    Next P (execRingLapStart t s) := by
  unfold execRingLapStart
  repeat' (first | with_reducible assumption | intro _ | with_reducible apply State.ringJoin_keeps
                           | with_reducible apply State.ringSend_keeps | with_reducible apply State.arm_keeps
                           | with_reducible apply State.disarm_keeps | with_reducible apply State.reach_keeps
                           | with_reducible apply Next.of | with_reducible apply nextIte_keeps | with_reducible apply ite_keeps
                           | with_reducible apply foldl_keeps | with_reducible apply foldlFst_keeps
                           | with_reducible apply foldlSnd_keeps | split | dsimp only)

theorem execBaton_keeps {P : State → Prop} (cRegs : Blind.regs P) (cMem : Blind.mem P) (cTimers : Blind.timers P)
    (cQueues : Blind.queues P) (cFcr : Blind.fcr P) (cSeq : Blind.seq P) (cSw : Blind.sw P) (cPwr : Blind.pwr P)
    (cRing : Blind.ring P) (cNow : Blind.now P) {s : State} (h : P s) (t : Nat) (payload : List Byte) :
    Next P (execBaton t payload s) := by
  unfold execBaton
  repeat' (first | with_reducible assumption | intro _ | with_reducible apply State.ringBatonFrame_keeps
                           | with_reducible apply State.reach_keeps | with_reducible apply Next.of
                           | with_reducible apply nextIte_keeps | with_reducible apply ite_keeps
                           | with_reducible apply foldl_keeps | with_reducible apply foldlFst_keeps
                           | with_reducible apply foldlSnd_keeps | split | dsimp only)

theorem execDissent_keeps {P : State → Prop} (cRegs : Blind.regs P) (cTimers : Blind.timers P) (cNow : Blind.now P) {s : State}
    (h : P s) (t : Nat) (payload : List Byte) :
    Next P (execDissent t payload s) := by
  unfold execDissent
  repeat' (first | with_reducible assumption | intro _ | with_reducible apply State.ringDissentFrame_keeps
                           | with_reducible apply State.reach_keeps | with_reducible apply Next.of
                           | with_reducible apply nextIte_keeps | with_reducible apply ite_keeps
                           | with_reducible apply foldl_keeps | with_reducible apply foldlFst_keeps
                           | with_reducible apply foldlSnd_keeps | split | dsimp only)

theorem execCommit_keeps {P : State → Prop} (cRegs : Blind.regs P) (cTimers : Blind.timers P) (cPwr : Blind.pwr P)
    (cNow : Blind.now P) {s : State} (h : P s) (t : Nat) (payload : List Byte) :
    Next P (execCommit t payload s) := by
  unfold execCommit
  repeat' (first | with_reducible assumption | intro _ | with_reducible apply State.ringCommitFrame_keeps
                           | with_reducible apply State.reach_keeps | with_reducible apply Next.of
                           | with_reducible apply nextIte_keeps | with_reducible apply ite_keeps
                           | with_reducible apply foldl_keeps | with_reducible apply foldlFst_keeps
                           | with_reducible apply foldlSnd_keeps | split | dsimp only)

theorem execRingCommitResend_keeps {P : State → Prop} (cRegs : Blind.regs P) (cMem : Blind.mem P) (cTimers : Blind.timers P)
    (cQueues : Blind.queues P) (cFcr : Blind.fcr P) (cSw : Blind.sw P) (cRing : Blind.ring P) (cNow : Blind.now P) {s : State}
    (h : P s)  :
    Next P (execRingCommitResend s) := by
  unfold execRingCommitResend
  repeat' (first | with_reducible assumption | intro _ | with_reducible apply State.ringSend_keeps
                           | with_reducible apply State.onExpiry_keeps | with_reducible apply State.arm_keeps
                           | with_reducible apply Next.of | with_reducible apply nextIte_keeps | with_reducible apply ite_keeps
                           | with_reducible apply foldl_keeps | with_reducible apply foldlFst_keeps
                           | with_reducible apply foldlSnd_keeps | split | dsimp only | with_reducible apply cRing)

theorem execRingConsentLost_keeps {P : State → Prop} (cRegs : Blind.regs P) (cMem : Blind.mem P) (cTimers : Blind.timers P)
    (cQueues : Blind.queues P) (cFcr : Blind.fcr P) (cSw : Blind.sw P) (cNow : Blind.now P) {s : State} (h : P s) (t : Nat) :
    Next P (execRingConsentLost t s) := by
  unfold execRingConsentLost
  repeat' (first | with_reducible assumption | intro _ | with_reducible apply State.sendDissent_keeps
                           | with_reducible apply State.lapEnd_keeps | with_reducible apply State.reach_keeps
                           | with_reducible apply Next.of | with_reducible apply nextIte_keeps | with_reducible apply ite_keeps
                           | with_reducible apply foldl_keeps | with_reducible apply foldlFst_keeps
                           | with_reducible apply foldlSnd_keeps | split | dsimp only)

theorem execRingLapTimeout_keeps {P : State → Prop} (cRegs : Blind.regs P) (cTimers : Blind.timers P) (cFcr : Blind.fcr P)
    (cNow : Blind.now P) {s : State} (h : P s)  :
    Next P (execRingLapTimeout s) := by
  unfold execRingLapTimeout
  repeat' (first | with_reducible assumption | intro _ | with_reducible apply State.lapEnd_keeps
                           | with_reducible apply State.detect_keeps | with_reducible apply State.onExpiry_keeps
                           | with_reducible apply State.evt_keeps | with_reducible apply State.count_keeps
                           | with_reducible apply Next.of | with_reducible apply nextIte_keeps | with_reducible apply ite_keeps
                           | with_reducible apply foldl_keeps | with_reducible apply foldlFst_keeps
                           | with_reducible apply foldlSnd_keeps | split | dsimp only)

theorem execRingCommitTimeout_keeps {P : State → Prop} (cRegs : Blind.regs P) (cTimers : Blind.timers P) (cFcr : Blind.fcr P)
    (cNow : Blind.now P) {s : State} (h : P s)  :
    Next P (execRingCommitTimeout s) := by
  unfold execRingCommitTimeout
  repeat' (first | with_reducible assumption | intro _ | with_reducible apply State.lapEnd_keeps
                           | with_reducible apply State.detect_keeps | with_reducible apply State.onExpiry_keeps
                           | with_reducible apply State.evt_keeps | with_reducible apply Next.of
                           | with_reducible apply nextIte_keeps | with_reducible apply ite_keeps
                           | with_reducible apply foldl_keeps | with_reducible apply foldlFst_keeps
                           | with_reducible apply foldlSnd_keeps | split | dsimp only)

end Sys2Proof.Machine
end

