-- ==== Sys2Proof/Laws/KeepsCan.lean ====
section
/-! SUPPORT. What the operations of Machine/Can.lean keep. -/
namespace Sys2Proof.Machine

theorem State.setCan_keeps {P : State → Prop} (cCans : Blind.cans P) {s : State} (h : P s) (x : Nat) (f : CanSt → CanSt) :
    P (State.setCan s x f) := by
  unfold State.setCan
  repeat' (first | with_reducible assumption | intro _ | with_reducible apply ite_keeps | with_reducible apply foldl_keeps
                           | with_reducible apply foldlFst_keeps | with_reducible apply foldlSnd_keeps | split | dsimp only
                           | with_reducible apply cCans)

theorem State.canStart_keeps {P : State → Prop} (cRegs : Blind.regs P) {s : State} (h : P s) (x : Nat) :
    P (State.canStart s x) := by
  unfold State.canStart
  repeat' (first | with_reducible assumption | intro _ | with_reducible apply State.put_keeps | with_reducible apply ite_keeps
                           | with_reducible apply foldl_keeps | with_reducible apply foldlFst_keeps
                           | with_reducible apply foldlSnd_keeps | split | dsimp only)

theorem State.canStopped_keeps {P : State → Prop} (cRegs : Blind.regs P) (cTimers : Blind.timers P) {s : State} (h : P s)
    (x : Nat) :
    P (State.canStopped s x) := by
  unfold State.canStopped
  repeat' (first | with_reducible assumption | intro _ | with_reducible apply State.canStart_keeps
                           | with_reducible apply State.disarm_keeps | with_reducible apply State.put_keeps
                           | with_reducible apply ite_keeps | with_reducible apply foldl_keeps
                           | with_reducible apply foldlFst_keeps | with_reducible apply foldlSnd_keeps | split | dsimp only)

theorem State.canStop_keeps {P : State → Prop} (cRegs : Blind.regs P) (cTimers : Blind.timers P) {s : State} (h : P s) (x : Nat)
    (t : Nat) :
    P (State.canStop s x t) := by
  unfold State.canStop
  repeat' (first | with_reducible assumption | intro _ | with_reducible apply State.canStopped_keeps
                           | with_reducible apply State.arm_keeps | with_reducible apply State.put_keeps
                           | with_reducible apply ite_keeps | with_reducible apply foldl_keeps
                           | with_reducible apply foldlFst_keeps | with_reducible apply foldlSnd_keeps | split | dsimp only)

theorem State.canFrameEnd_keeps {P : State → Prop} (cRegs : Blind.regs P) (cTimers : Blind.timers P) {s : State} (h : P s)
    (x : Nat) :
    P (State.canFrameEnd s x) := by
  unfold State.canFrameEnd
  repeat' (first | with_reducible assumption | intro _ | with_reducible apply State.canStopped_keeps
                           | with_reducible apply ite_keeps | with_reducible apply foldl_keeps
                           | with_reducible apply foldlFst_keeps | with_reducible apply foldlSnd_keeps | split | dsimp only)

theorem State.canBusOff_keeps {P : State → Prop} (cRegs : Blind.regs P) (cFcr : Blind.fcr P) (cCans : Blind.cans P) {s : State}
    (h : P s) (x : Nat) (t : Nat) :
    P (State.canBusOff s x t) := by
  unfold State.canBusOff
  repeat' (first | with_reducible assumption | intro _ | with_reducible apply State.setCan_keeps
                           | with_reducible apply State.detect_keeps | with_reducible apply State.setFlag_keeps
                           | with_reducible apply State.evt_keeps | with_reducible apply State.count_keeps
                           | with_reducible apply State.put_keeps | with_reducible apply ite_keeps
                           | with_reducible apply foldl_keeps | with_reducible apply foldlFst_keeps
                           | with_reducible apply foldlSnd_keeps | split | dsimp only)

theorem State.canErrors_keeps {P : State → Prop} (cRegs : Blind.regs P) (cFcr : Blind.fcr P) (cCans : Blind.cans P) {s : State}
    (h : P s) (x : Nat) (t : Nat) :
    P (State.canErrors s x t) := by
  unfold State.canErrors
  repeat' (first | with_reducible assumption | intro _ | with_reducible apply State.canBusOff_keeps
                           | with_reducible apply State.detect_keeps | with_reducible apply State.evt_keeps
                           | with_reducible apply State.put_keeps | with_reducible apply ite_keeps
                           | with_reducible apply foldl_keeps | with_reducible apply foldlFst_keeps
                           | with_reducible apply foldlSnd_keeps | split | dsimp only)

theorem State.canLost_keeps {P : State → Prop} (cCans : Blind.cans P) {s : State} (h : P s) (x : Nat) :
    P (State.canLost s x) := by
  unfold State.canLost
  repeat' (first | with_reducible assumption | intro _ | with_reducible apply State.setCan_keeps
                           | with_reducible apply ite_keeps | with_reducible apply foldl_keeps
                           | with_reducible apply foldlFst_keeps | with_reducible apply foldlSnd_keeps | split | dsimp only)

theorem State.rxPush_keeps {P : State → Prop} (cRegs : Blind.regs P) (cMem : Blind.mem P) (cFcr : Blind.fcr P)
    (cCans : Blind.cans P) {s : State} (h : P s) (x : Nat) (f : Nat) (el : List Byte) :
    P (State.rxPush s x f el) := by
  unfold State.rxPush
  repeat' (first | with_reducible assumption | intro _ | with_reducible apply State.canLost_keeps
                           | with_reducible apply State.detect_keeps | with_reducible apply State.setBytes_keeps
                           | with_reducible apply State.evt_keeps | with_reducible apply State.count_keeps
                           | with_reducible apply State.put_keeps | with_reducible apply ite_keeps
                           | with_reducible apply foldl_keeps | with_reducible apply foldlFst_keeps
                           | with_reducible apply foldlSnd_keeps | split | dsimp only)

theorem State.rxRef_keeps {P : State → Prop} (cRegs : Blind.regs P) (cMem : Blind.mem P) (cQueues : Blind.queues P)
    (cFcr : Blind.fcr P) (cCans : Blind.cans P) {s : State} (h : P s) (x : Nat) (k : Nat) (unit : Nat) (el : List Byte)
    (t : Nat) :
    P (State.rxRef s x k unit el t) := by
  unfold State.rxRef
  repeat' (first | with_reducible assumption | intro _ | with_reducible apply State.canLost_keeps
                           | with_reducible apply State.setCan_keeps | with_reducible apply State.hwRef_keeps
                           | with_reducible apply State.detect_keeps | with_reducible apply State.setLe_keeps
                           | with_reducible apply State.setBytes_keeps | with_reducible apply State.evt_keeps
                           | with_reducible apply State.count_keeps | with_reducible apply ite_keeps
                           | with_reducible apply foldl_keeps | with_reducible apply foldlFst_keeps
                           | with_reducible apply foldlSnd_keeps | split | dsimp only)

theorem State.canRoute_keeps {P : State → Prop} (cRegs : Blind.regs P) (cMem : Blind.mem P) (cQueues : Blind.queues P)
    (cFcr : Blind.fcr P) (cCans : Blind.cans P) {s : State} (h : P s) (x : Nat) (f : CanFrame) (sof : Nat) (t : Nat) :
    P (State.canRoute s x f sof t) := by
  unfold State.canRoute
  repeat' (first | with_reducible assumption | intro _ | with_reducible apply State.rxRef_keeps
                           | with_reducible apply State.rxPush_keeps | with_reducible apply State.hwPush_keeps
                           | with_reducible apply ite_keeps | with_reducible apply foldl_keeps
                           | with_reducible apply foldlFst_keeps | with_reducible apply foldlSnd_keeps | split | dsimp only)

theorem State.txEvent_keeps {P : State → Prop} (cRegs : Blind.regs P) (cQueues : Blind.queues P)
    (cFcr : Blind.fcr P) {s : State} (h : P s) (x : Nat) (f : Nat) (ty : Nat) (tag : Nat) (sof : Nat) (t : Nat) :
    P (State.txEvent s x f ty tag sof t) := by
  unfold State.txEvent
  repeat' (first | with_reducible assumption | intro _ | with_reducible apply State.hwPush_keeps
                           | with_reducible apply ite_keeps | with_reducible apply foldl_keeps
                           | with_reducible apply foldlFst_keeps | with_reducible apply foldlSnd_keeps | split | dsimp only)

theorem State.txEnter_keeps {P : State → Prop} (cRegs : Blind.regs P) (cMem : Blind.mem P) (cQueues : Blind.queues P)
    (cFcr : Blind.fcr P) (cCans : Blind.cans P) {s : State} (h : P s) (x : Nat) (f : Nat) (el : List Byte) (t : Nat) :
    P (State.txEnter s x f el t) := by
  unfold State.txEnter
  repeat' (first | with_reducible assumption | intro _ | with_reducible apply State.txEvent_keeps
                           | with_reducible apply State.setCan_keeps | with_reducible apply State.setBytes_keeps
                           | with_reducible apply State.put_keeps | with_reducible apply ite_keeps
                           | with_reducible apply foldl_keeps | with_reducible apply foldlFst_keeps
                           | with_reducible apply foldlSnd_keeps | split | dsimp only)

theorem State.txPutGo_keeps {P : State → Prop} (cRegs : Blind.regs P) (cMem : Blind.mem P) (cQueues : Blind.queues P)
    (cFcr : Blind.fcr P) (cCans : Blind.cans P) {s : State} (h : P s) (x : Nat) (f : Nat) (t : Nat) :
    P (State.txPutGo s x f t) := by
  unfold State.txPutGo
  repeat' (first | with_reducible assumption | intro _ | with_reducible apply State.txEnter_keeps
                           | with_reducible apply State.canLost_keeps | with_reducible apply State.detect_keeps
                           | with_reducible apply State.evt_keeps | with_reducible apply State.count_keeps
                           | with_reducible apply ite_keeps | with_reducible apply foldl_keeps
                           | with_reducible apply foldlFst_keeps | with_reducible apply foldlSnd_keeps | split | dsimp only)

theorem State.addrTick_keeps {P : State → Prop} (cCans : Blind.cans P) {s : State} (h : P s) (old : State) (t : Nat) :
    P (State.addrTick s old t) := by
  unfold State.addrTick
  repeat' (first | with_reducible assumption | intro _ | with_reducible apply State.setCan_keeps
                           | with_reducible apply ite_keeps | with_reducible apply foldl_keeps
                           | with_reducible apply foldlFst_keeps | with_reducible apply foldlSnd_keeps | split | dsimp only)

theorem State.txAttempt_keeps {P : State → Prop} (cMem : Blind.mem P) {s : State} (h : P s) (x : Nat) (f : Nat) (sof : Nat) :
    P (State.txAttempt s x f sof) := by
  unfold State.txAttempt
  repeat' (first | with_reducible assumption | intro _ | with_reducible apply State.setLe_keeps
                           | with_reducible apply ite_keeps | with_reducible apply foldl_keeps
                           | with_reducible apply foldlFst_keeps | with_reducible apply foldlSnd_keeps | split | dsimp only)

theorem State.txPop_keeps {P : State → Prop} (cRegs : Blind.regs P) (cCans : Blind.cans P) {s : State} (h : P s) (x : Nat)
    (f : Nat) :
    P (State.txPop s x f) := by
  unfold State.txPop
  repeat' (first | with_reducible assumption | intro _ | with_reducible apply State.setCan_keeps
                           | with_reducible apply State.put_keeps | with_reducible apply ite_keeps
                           | with_reducible apply foldl_keeps | with_reducible apply foldlFst_keeps
                           | with_reducible apply foldlSnd_keeps | split | dsimp only)

theorem State.txPurge_keeps {P : State → Prop} (cRegs : Blind.regs P) (cQueues : Blind.queues P) (cFcr : Blind.fcr P)
    (cCans : Blind.cans P) (x f t n : Nat) {s : State} (h : P s) :
    P (State.txPurge x f t n s) := by
  induction n generalizing s with
  | zero => exact h
  | succ n ih =>
    unfold State.txPurge
    dsimp only
    split
    · exact h
    · exact ih (State.txEvent_keeps cRegs cQueues cFcr (State.txPop_keeps cRegs cCans h _ _) _ _ _ _ _ _)

theorem State.txFailed_keeps {P : State → Prop} (cRegs : Blind.regs P) (cQueues : Blind.queues P) (cFcr : Blind.fcr P)
    (cCans : Blind.cans P) {s : State} (h : P s) (x : Nat) (f : Nat) (ty : Nat) (sof : Nat) (t : Nat) :
    P (State.txFailed s x f ty sof t) := by
  unfold State.txFailed
  repeat' (first | with_reducible assumption | intro _ | with_reducible apply State.txPurge_keeps
                           | with_reducible apply State.txPop_keeps | with_reducible apply State.txEvent_keeps
                           | with_reducible apply State.canLost_keeps | with_reducible apply State.setCan_keeps
                           | with_reducible apply State.evt_keeps | with_reducible apply State.count_keeps
                           | with_reducible apply ite_keeps | with_reducible apply foldl_keeps
                           | with_reducible apply foldlFst_keeps | with_reducible apply foldlSnd_keeps | split | dsimp only)

theorem State.txFlush_keeps {P : State → Prop} (cRegs : Blind.regs P) (cQueues : Blind.queues P) (cFcr : Blind.fcr P)
    (cCans : Blind.cans P) {s : State} (h : P s) (x : Nat) (f : Nat) (t : Nat) :
    P (State.txFlush s x f t) := by
  unfold State.txFlush
  repeat' (first | with_reducible assumption | intro _ | with_reducible apply State.txEvent_keeps
                           | with_reducible apply State.setCan_keeps | with_reducible apply State.put_keeps
                           | with_reducible apply ite_keeps | with_reducible apply foldl_keeps
                           | with_reducible apply foldlFst_keeps | with_reducible apply foldlSnd_keeps | split | dsimp only)

theorem State.rxAck_keeps {P : State → Prop} (cRegs : Blind.regs P) {s : State} (h : P s) (x : Nat) (f : Nat) :
    P (State.rxAck s x f) := by
  unfold State.rxAck
  repeat' (first | with_reducible assumption | intro _ | with_reducible apply State.put_keeps | with_reducible apply ite_keeps
                           | with_reducible apply foldl_keeps | with_reducible apply foldlFst_keeps
                           | with_reducible apply foldlSnd_keeps | split | dsimp only)

theorem State.canRecover_keeps {P : State → Prop} (cRegs : Blind.regs P) {s : State} (h : P s) (x : Nat) :
    P (State.canRecover s x) := by
  unfold State.canRecover
  repeat' (first | with_reducible assumption | intro _ | with_reducible apply State.put_keeps | with_reducible apply ite_keeps
                           | with_reducible apply foldl_keeps | with_reducible apply foldlFst_keeps
                           | with_reducible apply foldlSnd_keeps | split | dsimp only)

theorem State.canAren_keeps {P : State → Prop} (cRegs : Blind.regs P) (cCans : Blind.cans P) {s : State} (h : P s) (v : Nat)
    (ones : Nat) :
    P (State.canAren s v ones) := by
  unfold State.canAren
  repeat' (first | with_reducible assumption | intro _ | with_reducible apply State.canRecover_keeps
                           | with_reducible apply State.setCan_keeps | with_reducible apply State.clrFlag_keeps
                           | with_reducible apply State.put_keeps | with_reducible apply ite_keeps
                           | with_reducible apply foldl_keeps | with_reducible apply foldlFst_keeps
                           | with_reducible apply foldlSnd_keeps | split | dsimp only)

theorem State.canWindow_keeps {P : State → Prop} (cCans : Blind.cans P) {s : State} (h : P s)  :
    P (State.canWindow s) := by
  unfold State.canWindow
  repeat' (first | with_reducible assumption | intro _ | with_reducible apply State.setCan_keeps
                           | with_reducible apply ite_keeps | with_reducible apply foldl_keeps
                           | with_reducible apply foldlFst_keeps | with_reducible apply foldlSnd_keeps | split | dsimp only)

theorem State.canTake_keeps {P : State → Prop} (cRegs : Blind.regs P) (cMem : Blind.mem P) (cTimers : Blind.timers P)
    (cQueues : Blind.queues P) (cFcr : Blind.fcr P) (cPwr : Blind.pwr P) (cNms : Blind.nms P) (cCans : Blind.cans P)
    (cFresh : Blind.fresh P) {s : State} (h : P s) (x : Nat) (sof : Nat) (f : CanFrame) (t : Nat) :
    P (State.canTake s x sof f t) := by
  unfold State.canTake
  repeat' (first | with_reducible assumption | intro _ | with_reducible apply State.canRoute_keeps
                           | with_reducible apply State.canErrors_keeps | with_reducible apply State.setCan_keeps
                           | with_reducible apply State.nmFrame_keeps | with_reducible apply State.free_keeps
                           | with_reducible apply State.count_keeps | with_reducible apply State.put_keeps
                           | with_reducible apply ite_keeps | with_reducible apply foldl_keeps
                           | with_reducible apply foldlFst_keeps | with_reducible apply foldlSnd_keeps | split | dsimp only)

theorem execCanFrameReceived_keeps {P : State → Prop} (cRegs : Blind.regs P) (cMem : Blind.mem P) (cTimers : Blind.timers P)
    (cQueues : Blind.queues P) (cFcr : Blind.fcr P) (cPwr : Blind.pwr P) (cNms : Blind.nms P) (cCans : Blind.cans P)
    (cNow : Blind.now P) (cFresh : Blind.fresh P) {s : State} (h : P s) (t : Nat) (x : Nat) (sof : Nat) (f : CanFrame) :
    Next P (execCanFrameReceived t x sof f s) := by
  unfold execCanFrameReceived
  repeat' (first | with_reducible assumption | intro _ | with_reducible apply State.canTake_keeps
                           | with_reducible apply State.canFrameEnd_keeps | with_reducible apply State.reach_keeps
                           | with_reducible apply Next.of | with_reducible apply nextIte_keeps | with_reducible apply ite_keeps
                           | with_reducible apply foldl_keeps | with_reducible apply foldlFst_keeps
                           | with_reducible apply foldlSnd_keeps | split | dsimp only)

theorem State.tdcMeasure_keeps {P : State → Prop} (cRegs : Blind.regs P) (cFresh : Blind.fresh P) {s : State} (h : P s)
    (x : Nat) (a : Nat) :
    P (State.tdcMeasure s x a) := by
  unfold State.tdcMeasure
  repeat' (first | with_reducible assumption | intro _ | with_reducible apply State.free_keeps
                           | with_reducible apply State.put_keeps | with_reducible apply ite_keeps
                           | with_reducible apply foldl_keeps | with_reducible apply foldlFst_keeps
                           | with_reducible apply foldlSnd_keeps | split | dsimp only)

theorem execCanFrameSent_keeps {P : State → Prop} (cRegs : Blind.regs P) (cMem : Blind.mem P) (cTimers : Blind.timers P)
    (cQueues : Blind.queues P) (cFcr : Blind.fcr P) (cPwr : Blind.pwr P) (cNms : Blind.nms P) (cCans : Blind.cans P)
    (cNow : Blind.now P) (cFresh : Blind.fresh P) {s : State} (h : P s) (t : Nat) (x : Nat) (sof : Nat) :
    Next P (execCanFrameSent t x sof s) := by
  unfold execCanFrameSent
  repeat' (first | with_reducible assumption | intro _ | with_reducible apply State.tdcMeasure_keeps
                           | with_reducible apply State.canTake_keeps | with_reducible apply State.txPurge_keeps
                           | with_reducible apply State.txPop_keeps | with_reducible apply State.txAttempt_keeps
                           | with_reducible apply State.txEvent_keeps | with_reducible apply State.canErrors_keeps
                           | with_reducible apply State.canFrameEnd_keeps | with_reducible apply State.setCan_keeps
                           | with_reducible apply State.reach_keeps | with_reducible apply State.evt_keeps
                           | with_reducible apply State.count_keeps | with_reducible apply State.put_keeps
                           | with_reducible apply Next.of | with_reducible apply nextIte_keeps | with_reducible apply ite_keeps
                           | with_reducible apply foldl_keeps | with_reducible apply foldlFst_keeps
                           | with_reducible apply foldlSnd_keeps | split | dsimp only)

theorem execCanArbitrationLost_keeps {P : State → Prop} (cRegs : Blind.regs P) (cMem : Blind.mem P) (cQueues : Blind.queues P)
    (cFcr : Blind.fcr P) (cCans : Blind.cans P) (cNow : Blind.now P) {s : State} (h : P s) (t : Nat) (x : Nat) (sof : Nat) :
    Next P (execCanArbitrationLost t x sof s) := by
  unfold execCanArbitrationLost
  repeat' (first | with_reducible assumption | intro _ | with_reducible apply State.txFailed_keeps
                           | with_reducible apply State.txAttempt_keeps | with_reducible apply State.reach_keeps
                           | with_reducible apply Next.of | with_reducible apply nextIte_keeps | with_reducible apply ite_keeps
                           | with_reducible apply foldl_keeps | with_reducible apply foldlFst_keeps
                           | with_reducible apply foldlSnd_keeps | split | dsimp only)

theorem execCanError_keeps {P : State → Prop} (cRegs : Blind.regs P) (cMem : Blind.mem P) (cTimers : Blind.timers P)
    (cQueues : Blind.queues P) (cFcr : Blind.fcr P) (cCans : Blind.cans P) (cNow : Blind.now P) {s : State} (h : P s) (t : Nat)
    (x : Nat) (code : Nat) (tec : Nat) (rec_ : Nat) (sof : Nat) (sending : Bool) :
    Next P (execCanError t x code tec rec_ sof sending s) := by
  unfold execCanError
  repeat' (first | with_reducible assumption | intro _ | with_reducible apply State.txFailed_keeps
                           | with_reducible apply State.txAttempt_keeps | with_reducible apply State.canErrors_keeps
                           | with_reducible apply State.canFrameEnd_keeps | with_reducible apply State.reach_keeps
                           | with_reducible apply State.put_keeps | with_reducible apply Next.of
                           | with_reducible apply nextIte_keeps | with_reducible apply ite_keeps
                           | with_reducible apply foldl_keeps | with_reducible apply foldlFst_keeps
                           | with_reducible apply foldlSnd_keeps | split | dsimp only)

theorem execCanIntegrationComplete_keeps {P : State → Prop} (cRegs : Blind.regs P) (cFcr : Blind.fcr P) (cCans : Blind.cans P)
    (cNow : Blind.now P) {s : State} (h : P s) (t : Nat) (x : Nat) :
    Next P (execCanIntegrationComplete t x s) := by
  unfold execCanIntegrationComplete
  repeat' (first | with_reducible assumption | intro _ | with_reducible apply State.canErrors_keeps
                           | with_reducible apply State.reach_keeps | with_reducible apply State.evt_keeps
                           | with_reducible apply State.put_keeps | with_reducible apply Next.of
                           | with_reducible apply nextIte_keeps | with_reducible apply ite_keeps
                           | with_reducible apply foldl_keeps | with_reducible apply foldlFst_keeps
                           | with_reducible apply foldlSnd_keeps | split | dsimp only)

theorem execCanRecoveryComplete_keeps {P : State → Prop} (cRegs : Blind.regs P) (cFcr : Blind.fcr P) (cCans : Blind.cans P)
    (cNow : Blind.now P) {s : State} (h : P s) (t : Nat) (x : Nat) :
    Next P (execCanRecoveryComplete t x s) := by
  unfold execCanRecoveryComplete
  repeat' (first | with_reducible assumption | intro _ | with_reducible apply State.canErrors_keeps
                           | with_reducible apply State.reach_keeps | with_reducible apply State.evt_keeps
                           | with_reducible apply State.put_keeps | with_reducible apply Next.of
                           | with_reducible apply nextIte_keeps | with_reducible apply ite_keeps
                           | with_reducible apply foldl_keeps | with_reducible apply foldlFst_keeps
                           | with_reducible apply foldlSnd_keeps | split | dsimp only)

theorem execCanProtocolException_keeps {P : State → Prop} (cRegs : Blind.regs P) (cTimers : Blind.timers P) (cFcr : Blind.fcr P)
    (cCans : Blind.cans P) (cNow : Blind.now P) {s : State} (h : P s) (t : Nat) (x : Nat) :
    Next P (execCanProtocolException t x s) := by
  unfold execCanProtocolException
  repeat' (first | with_reducible assumption | intro _ | with_reducible apply State.canErrors_keeps
                           | with_reducible apply State.canFrameEnd_keeps | with_reducible apply State.detect_keeps
                           | with_reducible apply State.reach_keeps | with_reducible apply State.evt_keeps
                           | with_reducible apply State.count_keeps | with_reducible apply State.put_keeps
                           | with_reducible apply Next.of | with_reducible apply nextIte_keeps | with_reducible apply ite_keeps
                           | with_reducible apply foldl_keeps | with_reducible apply foldlFst_keeps
                           | with_reducible apply foldlSnd_keeps | split | dsimp only)

theorem execCanTxFetch_keeps {P : State → Prop} (cRegs : Blind.regs P) (cMem : Blind.mem P) (cQueues : Blind.queues P)
    (cFcr : Blind.fcr P) (cCans : Blind.cans P) (cNow : Blind.now P) {s : State} (h : P s) (t : Nat) (x : Nat) (f : Nat) :
    Next P (execCanTxFetch t x f s) := by
  unfold execCanTxFetch
  repeat' (first | with_reducible assumption | intro _ | with_reducible apply State.txEnter_keeps
                           | with_reducible apply State.qRemove_keeps | with_reducible apply State.freeBuffer_keeps
                           | with_reducible apply State.reach_keeps | with_reducible apply Next.of
                           | with_reducible apply nextIte_keeps | with_reducible apply ite_keeps
                           | with_reducible apply foldl_keeps | with_reducible apply foldlFst_keeps
                           | with_reducible apply foldlSnd_keeps | split | dsimp only)

theorem execCanStopTimeout_keeps {P : State → Prop} (cRegs : Blind.regs P) (cTimers : Blind.timers P)
    (cNow : Blind.now P) {s : State} (h : P s) (x : Nat) :
    Next P (execCanStopTimeout x s) := by
  unfold execCanStopTimeout
  repeat' (first | with_reducible assumption | intro _ | with_reducible apply State.canStop_keeps
                           | with_reducible apply State.canStopped_keeps | with_reducible apply State.onExpiry_keeps
                           | with_reducible apply State.evt_keeps | with_reducible apply Next.of
                           | with_reducible apply nextIte_keeps | with_reducible apply ite_keeps
                           | with_reducible apply foldl_keeps | with_reducible apply foldlFst_keeps
                           | with_reducible apply foldlSnd_keeps | split | dsimp only)

theorem execCanTxdTimeout_keeps {P : State → Prop} (cRegs : Blind.regs P) (cFcr : Blind.fcr P) (cNow : Blind.now P) {s : State}
    (h : P s) (t : Nat) (x : Nat) :
    Next P (execCanTxdTimeout t x s) := by
  unfold execCanTxdTimeout
  repeat' (first | with_reducible assumption | intro _ | with_reducible apply State.detect_keeps
                           | with_reducible apply State.reach_keeps | with_reducible apply State.evt_keeps
                           | with_reducible apply Next.of | with_reducible apply nextIte_keeps | with_reducible apply ite_keeps
                           | with_reducible apply foldl_keeps | with_reducible apply foldlFst_keeps
                           | with_reducible apply foldlSnd_keeps | split | dsimp only)

end Sys2Proof.Machine
end

