-- ==== Sys2Proof/Laws/KeepsAccess.lean ====
section
/-! SUPPORT. What the operations of Machine/Access.lean keep. -/
namespace Sys2Proof.Machine

theorem State.setAcc_keeps {P : State → Prop} (cAcc : Blind.acc P) {s : State} (h : P s) (f : AccSt → AccSt) :
    P (State.setAcc s f) := by
  unfold State.setAcc
  repeat' (first | with_reducible assumption | intro _ | with_reducible apply ite_keeps | with_reducible apply foldl_keeps
                           | with_reducible apply foldlFst_keeps | with_reducible apply foldlSnd_keeps | split | dsimp only
                           | with_reducible apply cAcc)

theorem State.setVault_keeps {P : State → Prop} (cVault : Blind.vault P) {s : State} (h : P s) (f : VltSt → VltSt) :
    P (State.setVault s f) := by
  unfold State.setVault
  repeat' (first | with_reducible assumption | intro _ | with_reducible apply ite_keeps | with_reducible apply foldl_keeps
                           | with_reducible apply foldlFst_keeps | with_reducible apply foldlSnd_keeps | split | dsimp only
                           | with_reducible apply cVault)

theorem State.startLockout_keeps {P : State → Prop} (cRegs : Blind.regs P) (cTimers : Blind.timers P) (cFcr : Blind.fcr P)
    (cVault : Blind.vault P) (cAcc : Blind.acc P) {s : State} (h : P s) (len : Nat) (t : Nat) :
    P (State.startLockout s len t) := by
  unfold State.startLockout
  repeat' (first | with_reducible assumption | intro _ | with_reducible apply State.setVault_keeps
                           | with_reducible apply State.setAcc_keeps | with_reducible apply State.detect_keeps
                           | with_reducible apply State.arm_keeps | with_reducible apply State.evt_keeps
                           | with_reducible apply State.put_keeps | with_reducible apply ite_keeps
                           | with_reducible apply foldl_keeps | with_reducible apply foldlFst_keeps
                           | with_reducible apply foldlSnd_keeps | split | dsimp only)

theorem State.accFinish_keeps {P : State → Prop} (cRegs : Blind.regs P) (cTimers : Blind.timers P) (cFcr : Blind.fcr P)
    (cVault : Blind.vault P) (cAcc : Blind.acc P) {s : State} (h : P s) (r : Nat) (t : Nat) :
    P (State.accFinish s r t) := by
  unfold State.accFinish
  repeat' (first | with_reducible assumption | intro _ | with_reducible apply State.startLockout_keeps
                           | with_reducible apply State.setAcc_keeps | with_reducible apply State.disarm_keeps
                           | with_reducible apply State.evt_keeps | with_reducible apply State.put_keeps
                           | with_reducible apply ite_keeps | with_reducible apply foldl_keeps
                           | with_reducible apply foldlFst_keeps | with_reducible apply foldlSnd_keeps | split | dsimp only)

theorem State.accStart_keeps {P : State → Prop} (cRegs : Blind.regs P) (cTimers : Blind.timers P) (cFcr : Blind.fcr P)
    (cVault : Blind.vault P) (cAcc : Blind.acc P) (cFresh : Blind.fresh P) {s : State} (h : P s) (purpose : Nat) (t : Nat) :
    P (State.accStart s purpose t) := by
  unfold State.accStart
  repeat' (first | with_reducible assumption | intro _ | with_reducible apply State.accFinish_keeps
                           | with_reducible apply State.setAcc_keeps | with_reducible apply State.arm_keeps
                           | with_reducible apply State.put_keeps | with_reducible apply ite_keeps
                           | with_reducible apply foldl_keeps | with_reducible apply foldlFst_keeps
                           | with_reducible apply foldlSnd_keeps | exact Nat.le_refl _ | exact Nat.le_succ _
                           | exact Nat.le_add_right _ _ | exact Nat.le_max_left _ _ | rfl | split | dsimp only
                           | with_reducible apply cFresh)

theorem State.accHeld_keeps {P : State → Prop} (cRegs : Blind.regs P) (cTimers : Blind.timers P) (cFcr : Blind.fcr P)
    (cVault : Blind.vault P) (cAcc : Blind.acc P) (cFresh : Blind.fresh P) {s : State} (h : P s) (t : Nat) :
    P (State.accHeld s t) := by
  unfold State.accHeld
  repeat' (first | with_reducible assumption | intro _ | with_reducible apply State.accStart_keeps
                           | with_reducible apply State.setAcc_keeps | with_reducible apply State.put_keeps
                           | with_reducible apply ite_keeps | with_reducible apply foldl_keeps
                           | with_reducible apply foldlFst_keeps | with_reducible apply foldlSnd_keeps | split | dsimp only)

theorem State.accQuit_keeps {P : State → Prop} (cRegs : Blind.regs P) (cTimers : Blind.timers P) (cFcr : Blind.fcr P)
    (cVault : Blind.vault P) (cAcc : Blind.acc P) (cFresh : Blind.fresh P) {s : State} (h : P s) (r : Nat) (t : Nat) :
    P (State.accQuit s r t) := by
  unfold State.accQuit
  repeat' (first | with_reducible assumption | intro _ | with_reducible apply State.accHeld_keeps
                           | with_reducible apply State.accFinish_keeps | with_reducible apply State.detect_keeps
                           | with_reducible apply ite_keeps | with_reducible apply foldl_keeps
                           | with_reducible apply foldlFst_keeps | with_reducible apply foldlSnd_keeps | split | dsimp only)

theorem State.accStopped_keeps {P : State → Prop} (cRegs : Blind.regs P) (cTimers : Blind.timers P) (cFcr : Blind.fcr P)
    (cVault : Blind.vault P) (cAcc : Blind.acc P) {s : State} (h : P s) (t : Nat) :
    P (State.accStopped s t) := by
  unfold State.accStopped
  repeat' (first | with_reducible assumption | intro _ | with_reducible apply State.accFinish_keeps
                           | with_reducible apply State.setAcc_keeps | with_reducible apply State.put_keeps
                           | with_reducible apply ite_keeps | with_reducible apply foldl_keeps
                           | with_reducible apply foldlFst_keeps | with_reducible apply foldlSnd_keeps | split | dsimp only)

theorem State.accTick_keeps {P : State → Prop} (cTimers : Blind.timers P) (cAcc : Blind.acc P) {s : State} (h : P s) (t : Nat) :
    P (State.accTick s t) := by
  unfold State.accTick
  repeat' (first | with_reducible assumption | intro _ | with_reducible apply State.setAcc_keeps
                           | with_reducible apply State.arm_keeps | with_reducible apply ite_keeps
                           | with_reducible apply foldl_keeps | with_reducible apply foldlFst_keeps
                           | with_reducible apply foldlSnd_keeps | split | dsimp only)

theorem State.accRespond_keeps {P : State → Prop} (cRegs : Blind.regs P) (cAcc : Blind.acc P) {s : State} (h : P s) (k : Nat)
    (f : List Byte) (round : Nat) (eps : Int) (t : Nat) :
    P (State.accRespond s k f round eps t) := by
  unfold State.accRespond
  repeat' (first | with_reducible assumption | intro _ | with_reducible apply State.setAcc_keeps
                           | with_reducible apply State.evt_keeps | with_reducible apply State.count_keeps
                           | with_reducible apply State.put_keeps | with_reducible apply ite_keeps
                           | with_reducible apply foldl_keeps | with_reducible apply foldlFst_keeps
                           | with_reducible apply foldlSnd_keeps | split | dsimp only)

theorem State.accRelease_keeps {P : State → Prop} (cRegs : Blind.regs P) (cMem : Blind.mem P) (cQueues : Blind.queues P)
    (cFcr : Blind.fcr P) (cVault : Blind.vault P) (cAcc : Blind.acc P) {s : State} (h : P s) (c : AccResp) (t : Nat) :
    P (State.accRelease s c t) := by
  unfold State.accRelease
  repeat' (first | with_reducible assumption | intro _ | with_reducible apply State.setVault_keeps
                           | with_reducible apply State.setAcc_keeps | with_reducible apply State.hwRef_keeps
                           | with_reducible apply State.setLe_keeps | with_reducible apply State.setBytes_keeps
                           | with_reducible apply State.count_keeps | with_reducible apply ite_keeps
                           | with_reducible apply foldl_keeps | with_reducible apply foldlFst_keeps
                           | with_reducible apply foldlSnd_keeps | split | dsimp only)

theorem State.vltStart_keeps {P : State → Prop} (cRegs : Blind.regs P) (cVault : Blind.vault P) {s : State} (h : P s) (op : Nat) :
    P (State.vltStart s op) := by
  unfold State.vltStart
  repeat' (first | with_reducible assumption | intro _ | with_reducible apply State.setVault_keeps
                           | with_reducible apply State.put_keeps | with_reducible apply ite_keeps
                           | with_reducible apply foldl_keeps | with_reducible apply foldlFst_keeps
                           | with_reducible apply foldlSnd_keeps | split | dsimp only)

theorem execAccessCycleStart_keeps {P : State → Prop} (cRegs : Blind.regs P) (cTimers : Blind.timers P) (cFcr : Blind.fcr P)
    (cVault : Blind.vault P) (cAcc : Blind.acc P) (cNow : Blind.now P) (cFresh : Blind.fresh P) {s : State} (h : P s)  :
    Next P (execAccessCycleStart s) := by
  unfold execAccessCycleStart
  repeat' (first | with_reducible assumption | intro _ | with_reducible apply State.accStart_keeps
                           | with_reducible apply State.setAcc_keeps | with_reducible apply State.reach_keeps
                           | with_reducible apply State.put_keeps | with_reducible apply Next.of
                           | with_reducible apply nextIte_keeps | with_reducible apply ite_keeps
                           | with_reducible apply foldl_keeps | with_reducible apply foldlFst_keeps
                           | with_reducible apply foldlSnd_keeps | split | dsimp only)

theorem execLfBurstsEnd_keeps {P : State → Prop} (cRegs : Blind.regs P) (cTimers : Blind.timers P) (cFcr : Blind.fcr P)
    (cOuts : Blind.outs P) (cVault : Blind.vault P) (cAcc : Blind.acc P) (cNow : Blind.now P)
    (cFresh : Blind.fresh P) {s : State} (h : P s) (peaks : List (Nat × Nat)) (shorts : List Nat) (hot : List Nat) :
    Next P (execLfBurstsEnd peaks shorts hot s) := by
  unfold execLfBurstsEnd
  repeat' (first | with_reducible assumption | intro _ | with_reducible apply State.accStopped_keeps
                           | with_reducible apply State.accQuit_keeps | with_reducible apply State.accFinish_keeps
                           | with_reducible apply State.setOut_keeps | with_reducible apply State.detect_keeps
                           | with_reducible apply State.onExpiry_keeps | with_reducible apply State.evt_keeps
                           | with_reducible apply State.put_keeps | with_reducible apply Next.of
                           | with_reducible apply nextIte_keeps | with_reducible apply ite_keeps
                           | with_reducible apply foldl_keeps | with_reducible apply foldlFst_keeps
                           | with_reducible apply foldlSnd_keeps | split | dsimp only)

theorem execUwbPoll_keeps {P : State → Prop} (cRegs : Blind.regs P) (cTimers : Blind.timers P) (cFcr : Blind.fcr P)
    (cVault : Blind.vault P) (cAcc : Blind.acc P) (cNow : Blind.now P) (cFresh : Blind.fresh P) {s : State} (h : P s) (t : Nat)
    (ok : Bool) :
    Next P (execUwbPoll t ok s) := by
  unfold execUwbPoll
  repeat' (first | with_reducible assumption | intro _ | with_reducible apply State.accStopped_keeps
                           | with_reducible apply State.accQuit_keeps | with_reducible apply State.accFinish_keeps
                           | with_reducible apply State.setAcc_keeps | with_reducible apply State.reach_keeps
                           | with_reducible apply State.put_keeps | with_reducible apply Next.of
                           | with_reducible apply nextIte_keeps | with_reducible apply ite_keeps
                           | with_reducible apply foldl_keeps | with_reducible apply foldlFst_keeps
                           | with_reducible apply foldlSnd_keeps | split | dsimp only)

theorem execUwbRespReceived_keeps {P : State → Prop} (cRegs : Blind.regs P) (cTimers : Blind.timers P) (cFcr : Blind.fcr P)
    (cVault : Blind.vault P) (cAcc : Blind.acc P) (cNow : Blind.now P) (cFresh : Blind.fresh P) {s : State} (h : P s) (t : Nat)
    (k : Nat) (frame : Option (List Byte)) (round : Nat) (eps : Int) :
    Next P (execUwbRespReceived t k frame round eps s) := by
  unfold execUwbRespReceived
  repeat' (first | with_reducible assumption | intro _ | with_reducible apply State.accRespond_keeps
                           | with_reducible apply State.accQuit_keeps | with_reducible apply State.reach_keeps
                           | with_reducible apply State.count_keeps | with_reducible apply State.put_keeps
                           | with_reducible apply Next.of | with_reducible apply nextIte_keeps | with_reducible apply ite_keeps
                           | with_reducible apply foldl_keeps | with_reducible apply foldlFst_keeps
                           | with_reducible apply foldlSnd_keeps | split | dsimp only)

theorem execAccessSelection_keeps {P : State → Prop} (cRegs : Blind.regs P) (cTimers : Blind.timers P) (cFcr : Blind.fcr P)
    (cVault : Blind.vault P) (cAcc : Blind.acc P) (cNow : Blind.now P) {s : State} (h : P s) (t : Nat) :
    Next P (execAccessSelection t s) := by
  unfold execAccessSelection
  repeat' (first | with_reducible assumption | intro _ | with_reducible apply State.accStopped_keeps
                           | with_reducible apply State.accFinish_keeps | with_reducible apply State.setAcc_keeps
                           | with_reducible apply State.reach_keeps | with_reducible apply State.put_keeps
                           | with_reducible apply Next.of | with_reducible apply nextIte_keeps | with_reducible apply ite_keeps
                           | with_reducible apply foldl_keeps | with_reducible apply foldlFst_keeps
                           | with_reducible apply foldlSnd_keeps | split | dsimp only)

theorem execAccessCycleEnd_keeps {P : State → Prop} (cRegs : Blind.regs P) (cMem : Blind.mem P) (cTimers : Blind.timers P)
    (cQueues : Blind.queues P) (cFcr : Blind.fcr P) (cVault : Blind.vault P) (cAcc : Blind.acc P) (cNow : Blind.now P)
    (cFresh : Blind.fresh P) {s : State} (h : P s) (t : Nat) :
    Next P (execAccessCycleEnd t s) := by
  unfold execAccessCycleEnd
  repeat' (first | with_reducible assumption | intro _ | with_reducible apply State.accRelease_keeps
                           | with_reducible apply State.accStopped_keeps | with_reducible apply State.accHeld_keeps
                           | with_reducible apply State.accFinish_keeps | with_reducible apply State.setVault_keeps
                           | with_reducible apply State.setAcc_keeps | with_reducible apply State.reach_keeps
                           | with_reducible apply State.evt_keeps | with_reducible apply Next.of
                           | with_reducible apply nextIte_keeps | with_reducible apply ite_keeps
                           | with_reducible apply foldl_keeps | with_reducible apply foldlFst_keeps
                           | with_reducible apply foldlSnd_keeps | split | dsimp only)

theorem execLockoutEnd_keeps {P : State → Prop} (cRegs : Blind.regs P) (cTimers : Blind.timers P) (cVault : Blind.vault P)
    (cNow : Blind.now P) {s : State} (h : P s)  :
    Next P (execLockoutEnd s) := by
  unfold execLockoutEnd
  repeat' (first | with_reducible assumption | intro _ | with_reducible apply State.setVault_keeps
                           | with_reducible apply State.onExpiry_keeps | with_reducible apply State.evt_keeps
                           | with_reducible apply State.put_keeps | with_reducible apply Next.of
                           | with_reducible apply nextIte_keeps | with_reducible apply ite_keeps
                           | with_reducible apply foldl_keeps | with_reducible apply foldlFst_keeps
                           | with_reducible apply foldlSnd_keeps | split | dsimp only)

theorem execPermitClose_keeps {P : State → Prop} (cTimers : Blind.timers P) (cAcc : Blind.acc P)
    (cNow : Blind.now P) {s : State} (h : P s)  :
    Next P (execPermitClose s) := by
  unfold execPermitClose
  repeat' (first | with_reducible assumption | intro _ | with_reducible apply State.setAcc_keeps
                           | with_reducible apply State.onExpiry_keeps | with_reducible apply Next.of
                           | with_reducible apply nextIte_keeps | with_reducible apply ite_keeps
                           | with_reducible apply foldl_keeps | with_reducible apply foldlFst_keeps
                           | with_reducible apply foldlSnd_keeps | split | dsimp only)

end Sys2Proof.Machine
end

