-- ==== Sys2Proof/Laws/KeepsRecord.lean ====
section
/-! SUPPORT. What the operations of Machine/Record.lean keep. -/
namespace Sys2Proof.Machine

theorem State.recPut_keeps {P : State → Prop} (cRegs : Blind.regs P) (cMem : Blind.mem P) (cEpisodes : Blind.episodes P)
    (cFcr : Blind.fcr P) {s : State} (h : P s) (c arg t : Nat) : P (State.recPut s c arg t) :=
  State.record_keeps cRegs cMem cEpisodes cFcr _ _ _ _ _ _ h

theorem State.recFull_keeps {P : State → Prop} (cRegs : Blind.regs P) (cMem : Blind.mem P) (cEpisodes : Blind.episodes P)
    (cFcr : Blind.fcr P) {s : State} (h : P s) (unit : Nat) (t : Nat) :
    P (State.recFull s unit t) := by
  unfold State.recFull
  repeat' (first | with_reducible assumption | intro _ | with_reducible apply State.yieldOnce_keeps
                           | with_reducible apply State.detect_keeps | with_reducible apply State.evt_keeps
                           | with_reducible apply ite_keeps | with_reducible apply foldl_keeps
                           | with_reducible apply foldlFst_keeps | with_reducible apply foldlSnd_keeps | split | dsimp only)

theorem State.feedSample_keeps {P : State → Prop} (cRegs : Blind.regs P) (cMem : Blind.mem P) (cEpisodes : Blind.episodes P)
    (cFcr : Blind.fcr P) {s : State} (h : P s) (k : Nat) (raw : Nat) (width : Nat) (t : Nat) :
    P (State.feedSample s k raw width t) := by
  unfold State.feedSample
  repeat' (first | with_reducible assumption | intro _ | with_reducible apply State.recFull_keeps
                           | with_reducible apply State.setLe_keeps | with_reducible apply ite_keeps
                           | with_reducible apply foldl_keeps | with_reducible apply foldlFst_keeps
                           | with_reducible apply foldlSnd_keeps | split | dsimp only)

theorem State.feedPut_keeps {P : State → Prop} (cRegs : Blind.regs P) (cMem : Blind.mem P) (cEpisodes : Blind.episodes P)
    (cFcr : Blind.fcr P) {s : State} (h : P s) (k : Nat) (v : Nat) (t : Nat) :
    P (State.feedPut s k v t) := by
  unfold State.feedPut
  repeat' (first | with_reducible assumption | intro _ | with_reducible apply State.feedSample_keeps
                           | with_reducible apply ite_keeps | with_reducible apply foldl_keeps
                           | with_reducible apply foldlFst_keeps | with_reducible apply foldlSnd_keeps | split | dsimp only)

theorem State.feedClear_keeps {P : State → Prop} (cMem : Blind.mem P) {s : State} (h : P s) (k : Nat) :
    P (State.feedClear s k) := by
  unfold State.feedClear
  repeat' (first | with_reducible assumption | intro _ | with_reducible apply State.zero_keeps | with_reducible apply ite_keeps
                           | with_reducible apply foldl_keeps | with_reducible apply foldlFst_keeps
                           | with_reducible apply foldlSnd_keeps | split | dsimp only)

theorem State.feedSnapshot_keeps {P : State → Prop} (cRegs : Blind.regs P) (cMem : Blind.mem P) (cEpisodes : Blind.episodes P)
    (cFcr : Blind.fcr P) {s : State} (h : P s) (snap : Nat → Byte) (t : Nat) :
    P (State.feedSnapshot s snap t) := by
  unfold State.feedSnapshot
  repeat' (first | with_reducible assumption | intro _ | with_reducible apply State.feedSample_keeps
                           | with_reducible apply ite_keeps | with_reducible apply foldl_keeps
                           | with_reducible apply foldlFst_keeps | with_reducible apply foldlSnd_keeps | split | dsimp only)

theorem State.ageSave_keeps {P : State → Prop} (cMem : Blind.mem P) {s : State} (h : P s)  :
    P (State.ageSave s) := by
  unfold State.ageSave
  repeat' (first | with_reducible assumption | intro _ | with_reducible apply State.setBytes_keeps
                           | with_reducible apply ite_keeps | with_reducible apply foldl_keeps
                           | with_reducible apply foldlFst_keeps | with_reducible apply foldlSnd_keeps | split | dsimp only)

theorem State.ageLoad_keeps {P : State → Prop} (cRegs : Blind.regs P) (cAge : Blind.age P)
    (cAgeing : Blind.ageing P) {s : State} (h : P s)  :
    P (State.ageLoad s) := by
  unfold State.ageLoad
  repeat' (first | with_reducible assumption | intro _ | with_reducible apply State.setAge_keeps
                           | with_reducible apply State.put_keeps | with_reducible apply ite_keeps
                           | with_reducible apply foldl_keeps | with_reducible apply foldlFst_keeps
                           | with_reducible apply foldlSnd_keeps | split | dsimp only | with_reducible apply cAgeing)

theorem State.setBook_keeps {P : State → Prop} (cBook : Blind.book P) {s : State} (h : P s) (f : RecSt → RecSt) :
    P (State.setBook s f) := by
  unfold State.setBook
  repeat' (first | with_reducible assumption | intro _ | with_reducible apply ite_keeps | with_reducible apply foldl_keeps
                           | with_reducible apply foldlFst_keeps | with_reducible apply foldlSnd_keeps | split | dsimp only
                           | with_reducible apply cBook)

theorem State.flushStart_keeps {P : State → Prop} (cRegs : Blind.regs P) (cMem : Blind.mem P) (cFcr : Blind.fcr P)
    (cBook : Blind.book P) {s : State} (h : P s) (reason : Nat) (t : Nat) :
    P (State.flushStart s reason t) := by
  unfold State.flushStart
  repeat' (first | with_reducible assumption | intro _ | with_reducible apply State.setBook_keeps
                           | with_reducible apply State.ageSave_keeps | with_reducible apply State.detect_keeps
                           | with_reducible apply State.evt_keeps | with_reducible apply State.count_keeps
                           | with_reducible apply State.put_keeps | with_reducible apply ite_keeps
                           | with_reducible apply foldl_keeps | with_reducible apply foldlFst_keeps
                           | with_reducible apply foldlSnd_keeps | split | dsimp only)

theorem State.flushTrigger_keeps {P : State → Prop} (cRegs : Blind.regs P) (cMem : Blind.mem P) (cFcr : Blind.fcr P)
    (cBook : Blind.book P) {s : State} (h : P s) (reason : Nat) (t : Nat) :
    P (State.flushTrigger s reason t) := by
  unfold State.flushTrigger
  repeat' (first | with_reducible assumption | intro _ | with_reducible apply State.flushStart_keeps
                           | with_reducible apply State.setBook_keeps | with_reducible apply State.put_keeps
                           | with_reducible apply ite_keeps | with_reducible apply foldl_keeps
                           | with_reducible apply foldlFst_keeps | with_reducible apply foldlSnd_keeps | split | dsimp only)

theorem State.flushOver_keeps {P : State → Prop} (cRegs : Blind.regs P) (cMem : Blind.mem P) (cFcr : Blind.fcr P)
    (cBook : Blind.book P) {s : State} (h : P s) (t : Nat) :
    P (State.flushOver s t) := by
  unfold State.flushOver
  repeat' (first | with_reducible assumption | intro _ | with_reducible apply State.flushStart_keeps
                           | with_reducible apply State.setBook_keeps | with_reducible apply State.put_keeps
                           | with_reducible apply ite_keeps | with_reducible apply foldl_keeps
                           | with_reducible apply foldlFst_keeps | with_reducible apply foldlSnd_keeps | split | dsimp only)

theorem State.flushAbandon_keeps {P : State → Prop} (cRegs : Blind.regs P) (cMem : Blind.mem P) (cFcr : Blind.fcr P)
    (cBook : Blind.book P) {s : State} (h : P s) (t : Nat) :
    P (State.flushAbandon s t) := by
  unfold State.flushAbandon
  repeat' (first | with_reducible assumption | intro _ | with_reducible apply State.flushOver_keeps
                           | with_reducible apply State.detect_keeps | with_reducible apply State.evt_keeps
                           | with_reducible apply State.count_keeps | with_reducible apply ite_keeps
                           | with_reducible apply foldl_keeps | with_reducible apply foldlFst_keeps
                           | with_reducible apply foldlSnd_keeps | split | dsimp only)

theorem State.flushNext_keeps {P : State → Prop} (cRegs : Blind.regs P) (cMem : Blind.mem P) (cFcr : Blind.fcr P)
    (cBook : Blind.book P) {s : State} (h : P s) (f : RecFlush) (t : Nat) :
    P (State.flushNext s f t) := by
  unfold State.flushNext
  repeat' (first | with_reducible assumption | intro _ | with_reducible apply State.flushAbandon_keeps
                           | with_reducible apply State.setBook_keeps | with_reducible apply ite_keeps
                           | with_reducible apply foldl_keeps | with_reducible apply foldlFst_keeps
                           | with_reducible apply foldlSnd_keeps | split | dsimp only)

theorem State.flushWrote_keeps {P : State → Prop} (cRegs : Blind.regs P) (cMem : Blind.mem P) (cFcr : Blind.fcr P)
    (cBook : Blind.book P) {s : State} (h : P s) (f : RecFlush) (t : Nat) :
    P (State.flushWrote s f t) := by
  unfold State.flushWrote
  repeat' (first | with_reducible assumption | intro _ | with_reducible apply State.flushNext_keeps
                           | with_reducible apply State.flushOver_keeps | with_reducible apply State.setBook_keeps
                           | with_reducible apply State.setLe_keeps | with_reducible apply State.setBytes_keeps
                           | with_reducible apply State.evt_keeps | with_reducible apply State.put_keeps
                           | with_reducible apply ite_keeps | with_reducible apply foldl_keeps
                           | with_reducible apply foldlFst_keeps | with_reducible apply foldlSnd_keeps | split | dsimp only)

theorem State.fillBuckets_keeps {P : State → Prop} (cMem : Blind.mem P) {s : State} (h : P s)  :
    P (State.fillBuckets s) := by
  unfold State.fillBuckets
  repeat' (first | with_reducible assumption | intro _ | with_reducible apply State.setLe_keeps
                           | with_reducible apply ite_keeps | with_reducible apply foldl_keeps
                           | with_reducible apply foldlFst_keeps | with_reducible apply foldlSnd_keeps | split | dsimp only)

theorem State.bookReload_keeps {P : State → Prop} (cRegs : Blind.regs P) (cMem : Blind.mem P) (cEpisodes : Blind.episodes P)
    (cFcr : Blind.fcr P) (cAge : Blind.age P) (cBook : Blind.book P) (cAgeing : Blind.ageing P) {s : State} (h : P s) (t : Nat) :
    P (State.bookReload s t) := by
  unfold State.bookReload
  repeat' (first | with_reducible assumption | intro _ | with_reducible apply State.fillBuckets_keeps
                           | with_reducible apply State.setBook_keeps | with_reducible apply State.ageLoad_keeps
                           | with_reducible apply State.yieldOnce_keeps | with_reducible apply State.zero_keeps
                           | with_reducible apply State.setLe_keeps | with_reducible apply State.setBytes_keeps
                           | with_reducible apply State.put_keeps | with_reducible apply ite_keeps
                           | with_reducible apply foldl_keeps | with_reducible apply foldlFst_keeps
                           | with_reducible apply foldlSnd_keeps | split | dsimp only)

theorem State.recWipe_keeps {P : State → Prop} (cRegs : Blind.regs P) (cMem : Blind.mem P) (cFcr : Blind.fcr P)
    (cBook : Blind.book P) {s : State} (h : P s) (t : Nat) :
    P (State.recWipe s t) := by
  unfold State.recWipe
  repeat' (first | with_reducible assumption | intro _ | with_reducible apply State.flushTrigger_keeps
                           | with_reducible apply State.zero_keeps | with_reducible apply ite_keeps
                           | with_reducible apply foldl_keeps | with_reducible apply foldlFst_keeps
                           | with_reducible apply foldlSnd_keeps | split | dsimp only)

theorem State.recRead_keeps {P : State → Prop} (cRegs : Blind.regs P) {s : State} (h : P s)  :
    P (State.recRead s) := by
  unfold State.recRead
  repeat' (first | with_reducible assumption | intro _ | with_reducible apply State.put_keeps | with_reducible apply ite_keeps
                           | with_reducible apply foldl_keeps | with_reducible apply foldlFst_keeps
                           | with_reducible apply foldlSnd_keeps | split | dsimp only)

theorem execRecordQueueEntry_keeps {P : State → Prop} (cRegs : Blind.regs P) (cMem : Blind.mem P) (cEpisodes : Blind.episodes P)
    (cQueues : Blind.queues P) (cFcr : Blind.fcr P) (cNow : Blind.now P) {s : State} (h : P s) (t : Nat) (k : Nat) :
    Next P (execRecordQueueEntry t k s) := by
  unfold execRecordQueueEntry
  repeat' (first | with_reducible assumption | intro _ | with_reducible apply State.feedPut_keeps
                           | with_reducible apply State.recPut_keeps | with_reducible apply State.qRemove_keeps
                           | with_reducible apply State.freeBuffer_keeps | with_reducible apply State.reach_keeps
                           | with_reducible apply State.count_keeps | with_reducible apply Next.of
                           | with_reducible apply nextIte_keeps | with_reducible apply ite_keeps
                           | with_reducible apply foldl_keeps | with_reducible apply foldlFst_keeps
                           | with_reducible apply foldlSnd_keeps | split | dsimp only)

theorem execTokenRefill_keeps {P : State → Prop} (cMem : Blind.mem P) (cNow : Blind.now P) {s : State} (h : P s) (t : Nat)
    (c : Nat) :
    Next P (execTokenRefill t c s) := by
  unfold execTokenRefill
  repeat' (first | with_reducible assumption | intro _ | with_reducible apply State.setLe_keeps
                           | with_reducible apply State.reach_keeps | with_reducible apply Next.of
                           | with_reducible apply nextIte_keeps | with_reducible apply ite_keeps
                           | with_reducible apply foldl_keeps | with_reducible apply foldlFst_keeps
                           | with_reducible apply foldlSnd_keeps | split | dsimp only)

theorem execFlushPeriod_keeps {P : State → Prop} (cRegs : Blind.regs P) (cMem : Blind.mem P) (cFcr : Blind.fcr P)
    (cBook : Blind.book P) (cNow : Blind.now P) {s : State} (h : P s) (t : Nat) :
    Next P (execFlushPeriod t s) := by
  unfold execFlushPeriod
  repeat' (first | with_reducible assumption | intro _ | with_reducible apply State.flushTrigger_keeps
                           | with_reducible apply State.reach_keeps | with_reducible apply Next.of
                           | with_reducible apply nextIte_keeps | with_reducible apply ite_keeps
                           | with_reducible apply foldl_keeps | with_reducible apply foldlFst_keeps
                           | with_reducible apply foldlSnd_keeps | split | dsimp only)

end Sys2Proof.Machine
end

