-- ==== Sys2Proof/Laws/KeepsAgeing.lean ====
section
/-! SUPPORT. What the operations of Machine/Ageing.lean keep. -/
namespace Sys2Proof.Machine

theorem State.setAgeing_keeps {P : State → Prop} (cAgeing : Blind.ageing P) {s : State} (h : P s) (f : AgeSt → AgeSt) :
    P (State.setAgeing s f) := by
  unfold State.setAgeing
  repeat' (first | with_reducible assumption | intro _ | with_reducible apply ite_keeps | with_reducible apply foldl_keeps
                           | with_reducible apply foldlFst_keeps | with_reducible apply foldlSnd_keeps | split | dsimp only
                           | with_reducible apply cAgeing)

theorem State.replan_keeps {P : State → Prop} (cAgeing : Blind.ageing P) {s : State} (h : P s) (kind : Nat) (unit : Nat)
    (value : Nat) :
    P (State.replan s kind unit value) := by
  unfold State.replan
  repeat' (first | with_reducible assumption | intro _ | with_reducible apply State.setAgeing_keeps
                           | with_reducible apply ite_keeps | with_reducible apply foldl_keeps
                           | with_reducible apply foldlFst_keeps | with_reducible apply foldlSnd_keeps | split | dsimp only)

theorem State.ageReport_keeps {P : State → Prop} (cRegs : Blind.regs P) (cFcr : Blind.fcr P) (cAge : Blind.age P)
    (cAgeing : Blind.ageing P) {s : State} (h : P s)  :
    P (State.ageReport s) := by
  unfold State.ageReport
  repeat' (first | with_reducible assumption | intro _ | with_reducible apply State.setAgeing_keeps
                           | with_reducible apply State.setAge_keeps | with_reducible apply State.detect_keeps
                           | with_reducible apply State.evt_keeps | with_reducible apply ite_keeps
                           | with_reducible apply foldl_keeps | with_reducible apply foldlFst_keeps
                           | with_reducible apply foldlSnd_keeps | split | dsimp only)

theorem State.agePlan_keeps {P : State → Prop} (cAge : Blind.age P) (cAgeing : Blind.ageing P) {s : State} (h : P s)  :
    P (State.agePlan s) := by
  unfold State.agePlan
  repeat' (first | with_reducible assumption | intro _ | with_reducible apply State.replan_keeps
                           | with_reducible apply State.setAge_keeps | with_reducible apply ite_keeps
                           | with_reducible apply foldl_keeps | with_reducible apply foldlFst_keeps
                           | with_reducible apply foldlSnd_keeps | split | dsimp only)

theorem State.replanApply_keeps {P : State → Prop} (cRegs : Blind.regs P) (cMem : Blind.mem P) (cEpisodes : Blind.episodes P)
    (cFcr : Blind.fcr P) (cOuts : Blind.outs P) (cAge : Blind.age P) (cPwr : Blind.pwr P) (cAgeing : Blind.ageing P) {s : State}
    (h : P s) (t : Nat) :
    P (State.replanApply s t) := by
  unfold State.replanApply
  repeat' (first | with_reducible assumption | intro _ | with_reducible apply State.setAgeing_keeps
                           | with_reducible apply State.setAge_keeps | with_reducible apply State.setOut_keeps
                           | with_reducible apply State.recEvent_keeps | with_reducible apply State.evt_keeps
                           | with_reducible apply State.count_keeps | with_reducible apply State.put_keeps
                           | with_reducible apply ite_keeps | with_reducible apply foldl_keeps
                           | with_reducible apply foldlFst_keeps | with_reducible apply foldlSnd_keeps | split | dsimp only
                           | with_reducible apply cPwr)

theorem execCanarySweep_keeps {P : State → Prop} (cRegs : Blind.regs P) (cFcr : Blind.fcr P) (cAgeing : Blind.ageing P)
    (cNow : Blind.now P) {s : State} (h : P s) (t : Nat) (m0 : Nat) (m1 : Nat) (m2 : Nat) (m3 : Nat) (rosc : Nat) :
    Next P (execCanarySweep t m0 m1 m2 m3 rosc s) := by
  unfold execCanarySweep
  repeat' (first | with_reducible assumption | intro _ | with_reducible apply State.replan_keeps
                           | with_reducible apply State.detect_keeps | with_reducible apply State.reach_keeps
                           | with_reducible apply State.evt_keeps | with_reducible apply State.put_keeps
                           | with_reducible apply Next.of | with_reducible apply nextIte_keeps | with_reducible apply ite_keeps
                           | with_reducible apply foldl_keeps | with_reducible apply foldlFst_keeps
                           | with_reducible apply foldlSnd_keeps | split | dsimp only)

theorem execReplanPoint_keeps {P : State → Prop} (cRegs : Blind.regs P) (cFcr : Blind.fcr P) (cAge : Blind.age P)
    (cAgeing : Blind.ageing P) (cNow : Blind.now P) {s : State} (h : P s) (t : Nat) :
    Next P (execReplanPoint t s) := by
  unfold execReplanPoint
  repeat' (first | with_reducible assumption | intro _ | with_reducible apply State.agePlan_keeps
                           | with_reducible apply State.ageReport_keeps | with_reducible apply State.setAgeing_keeps
                           | with_reducible apply State.reach_keeps | with_reducible apply Next.of
                           | with_reducible apply nextIte_keeps | with_reducible apply ite_keeps
                           | with_reducible apply foldl_keeps | with_reducible apply foldlFst_keeps
                           | with_reducible apply foldlSnd_keeps | split | dsimp only)

theorem execOperatingMinute_keeps {P : State → Prop} (cRegs : Blind.regs P) (cAgeing : Blind.ageing P)
    (cNow : Blind.now P) {s : State} (h : P s) (t : Nat) (cd : Int) (a : Int) (b : Int) :
    Next P (execOperatingMinute t cd a b s) := by
  unfold execOperatingMinute
  repeat' (first | with_reducible assumption | intro _ | with_reducible apply State.setAgeing_keeps
                           | with_reducible apply State.reach_keeps | with_reducible apply State.count_keeps
                           | with_reducible apply Next.of | with_reducible apply nextIte_keeps | with_reducible apply ite_keeps
                           | with_reducible apply foldl_keeps | with_reducible apply foldlFst_keeps
                           | with_reducible apply foldlSnd_keeps | split | dsimp only)

end Sys2Proof.Machine
end

