-- ==== Sys2Proof/Laws/KeepsPages.lean ====
section
/-! SUPPORT. What the operations of Machine/Pages.lean keep. -/
namespace Sys2Proof.Machine

theorem State.applyUnit_keeps {P : State → Prop} (cRegs : Blind.regs P) (cMem : Blind.mem P) (cTimers : Blind.timers P)
    (cEpisodes : Blind.episodes P) (cFcr : Blind.fcr P) (cOuts : Blind.outs P) (cValves : Blind.valves P)
    (cBridges : Blind.bridges P) (cDies : Blind.dies P) (cMsh : Blind.msh P) (cNow : Blind.now P) {s : State} (h : P s)
    (u : OutU) (t : Nat) :
    P (State.applyUnit s u t) := by
  unfold State.applyUnit
  repeat' (first | with_reducible assumption | intro _ | with_reducible apply State.applyBridge_keeps
                           | with_reducible apply State.applyBank_keeps | with_reducible apply State.applyValve_keeps
                           | with_reducible apply State.applyCmd_keeps | with_reducible apply ite_keeps
                           | with_reducible apply foldl_keeps | with_reducible apply foldlFst_keeps
                           | with_reducible apply foldlSnd_keeps | split | dsimp only)

theorem State.ringStop_keeps {P : State → Prop} (cRegs : Blind.regs P) (cTimers : Blind.timers P) {s : State} (h : P s)  :
    P (State.ringStop s) := by
  unfold State.ringStop
  repeat' (first | with_reducible assumption | intro _ | with_reducible apply State.disarm_keeps
                           | with_reducible apply State.put_keeps | with_reducible apply ite_keeps
                           | with_reducible apply foldl_keeps | with_reducible apply foldlFst_keeps
                           | with_reducible apply foldlSnd_keeps | split | dsimp only)

theorem State.pageStop_keeps {P : State → Prop} (cRegs : Blind.regs P) (cMem : Blind.mem P) (cTimers : Blind.timers P)
    (cEpisodes : Blind.episodes P) (cQueues : Blind.queues P) (cFcr : Blind.fcr P) (cOuts : Blind.outs P)
    (cValves : Blind.valves P) (cBridges : Blind.bridges P) (cDins : Blind.dins P) (cDies : Blind.dies P) (cMsh : Blind.msh P)
    (cSw : Blind.sw P) (cPwr : Blind.pwr P) (cNow : Blind.now P) {s : State} (h : P s) (p : Nat) (t : Nat) :
    P (State.pageStop s p t) := by
  unfold State.pageStop
  repeat' (first | with_reducible assumption | intro _ | with_reducible apply State.ringStop_keeps
                           | with_reducible apply State.applyUnit_keeps | with_reducible apply State.canStop_keeps
                           | with_reducible apply State.nmEnable_keeps | with_reducible apply State.agreeCheck_keeps
                           | with_reducible apply State.gmLoss_keeps | with_reducible apply State.portStop_keeps
                           | with_reducible apply State.creditTo_keeps | with_reducible apply State.tmrStat_keeps
                           | with_reducible apply State.dinStop_keeps | with_reducible apply State.disarm_keeps
                           | with_reducible apply State.put_keeps | with_reducible apply ite_keeps
                           | with_reducible apply foldl_keeps | with_reducible apply foldlFst_keeps
                           | with_reducible apply foldlSnd_keeps | split | dsimp only)

theorem State.pageStart_keeps {P : State → Prop} (cRegs : Blind.regs P) (cTimers : Blind.timers P) (cQueues : Blind.queues P)
    (cFcr : Blind.fcr P) (cDins : Blind.dins P) (cTchs : Blind.tchs P) (cSw : Blind.sw P) (cPwr : Blind.pwr P) {s : State}
    (h : P s) (p : Nat) (t : Nat) :
    P (State.pageStart s p t) := by
  unfold State.pageStart
  repeat' (first | with_reducible assumption | intro _ | with_reducible apply State.canStart_keeps
                           | with_reducible apply State.nmEnable_keeps | with_reducible apply State.creditTo_keeps
                           | with_reducible apply State.tmrStat_keeps | with_reducible apply State.setTch_keeps
                           | with_reducible apply State.dinEnable_keeps | with_reducible apply State.clrFlag_keeps
                           | with_reducible apply State.put_keeps | with_reducible apply ite_keeps
                           | with_reducible apply foldl_keeps | with_reducible apply foldlFst_keeps
                           | with_reducible apply foldlSnd_keeps | split | dsimp only)

theorem State.restoreRegs_keeps {P : State → Prop} (cRegs : Blind.regs P) (cShadow : Blind.shadow P) (cCfgAct : Blind.cfgAct P)
    (cLockFirst : Blind.lockFirst P) {s : State} (h : P s) (f : Nat → Bool) (keep : List Fld) :
    P (State.restoreRegs s f keep) := by
  unfold State.restoreRegs
  repeat' (first | with_reducible assumption | (exact fun hr => (filter_rising _ _ hr).1) | intro _
                           | with_reducible apply State.put_keeps | with_reducible apply State.wr_keeps
                           | with_reducible apply ite_keeps | with_reducible apply foldl_keeps
                           | with_reducible apply foldlFst_keeps | with_reducible apply foldlSnd_keeps | split | dsimp only
                           | with_reducible apply with_regs_shadow_cfgAct_lockFirst | with_reducible apply cRegs
                           | with_reducible apply cShadow | with_reducible apply cCfgAct | with_reducible apply cLockFirst)

theorem State.clearHidden_keeps {P : State → Prop} (cRegs : Blind.regs P) (cTimers : Blind.timers P) (cQueues : Blind.queues P)
    (cLatches : Blind.latches P) (cFcr : Blind.fcr P) (cBridges : Blind.bridges P) (cScan : Blind.scan P) (cSeq : Blind.seq P)
    (cCal : Blind.cal P) (cStrobes : Blind.strobes P) (cDins : Blind.dins P) (cPhyLines : Blind.phyLines P) (cMsh : Blind.msh P)
    (cTmrs : Blind.tmrs P) (cTchs : Blind.tchs P) (cStg : Blind.stg P) (cSw : Blind.sw P) (cNms : Blind.nms P)
    (cRing : Blind.ring P) (cCans : Blind.cans P) (cVault : Blind.vault P) (cAcc : Blind.acc P) (cSup : Blind.sup P) {s : State}
    (h : P s) (p : Nat) : P (State.clearHidden s p) := by
  unfold State.clearHidden
  have h1 := cTimers s (s.timers.filter (fun e => decide (e.1.page ≠ some p))) h
  generalize ({ s with timers := s.timers.filter (fun e => decide (e.1.page ≠ some p)) } : State) = s1 at h1 ⊢
  repeat' (first | with_reducible assumption | intro _ | with_reducible apply State.setCan_keeps
                           | with_reducible apply State.nmsKeep_keeps | with_reducible apply State.loadStream_keeps
                           | with_reducible apply State.setPort_keeps | with_reducible apply State.setTch_keeps
                           | with_reducible apply State.setTmr_keeps | with_reducible apply State.setDin_keeps
                           | with_reducible apply State.bqReset_keeps | with_reducible apply State.phyAssert_keeps
                           | with_reducible apply State.setBridge_keeps | with_reducible apply State.put_keeps
                           | with_reducible apply ite_keeps | with_reducible apply foldl_keeps
                           | with_reducible apply foldlFst_keeps | with_reducible apply foldlSnd_keeps | split | dsimp only
                           | with_reducible apply with_strobes_msh | with_reducible apply with_scan_seq
                           | with_reducible apply with_sw_phyLines | with_reducible apply cTimers | with_reducible apply cFcr
                           | with_reducible apply cScan | with_reducible apply cSeq | with_reducible apply cCal
                           | with_reducible apply cStrobes | with_reducible apply cPhyLines | with_reducible apply cMsh
                           | with_reducible apply cStg | with_reducible apply cSw | with_reducible apply cRing
                           | with_reducible apply cVault | with_reducible apply cAcc | with_reducible apply cSup)

theorem State.unitReset_keeps {P : State → Prop} (cRegs : Blind.regs P) (cTimers : Blind.timers P)
    (cEpisodes : Blind.episodes P) (cOuts : Blind.outs P) (cValves : Blind.valves P) (cBridges : Blind.bridges P)
    (cMsh : Blind.msh P) {s : State} (h : P s) (u : OutU) (t : Nat) :
    P (State.unitReset s u t) := by
  unfold State.unitReset
  repeat' (first | with_reducible assumption | intro _ | with_reducible apply State.reloadRetry_keeps
                           | with_reducible apply State.quiet_keeps | with_reducible apply State.endLimit_keeps
                           | with_reducible apply State.putPhase_keeps | with_reducible apply State.setBridge_keeps
                           | with_reducible apply State.setValve_keeps | with_reducible apply State.setOut_keeps
                           | with_reducible apply State.yieldClose_keeps | with_reducible apply State.disarm_keeps
                           | with_reducible apply State.put_keeps | with_reducible apply ite_keeps
                           | with_reducible apply foldl_keeps | with_reducible apply foldlFst_keeps
                           | with_reducible apply foldlSnd_keeps | split | dsimp only)

theorem State.pageClear_keeps {P : State → Prop} (o : Blind.All P) {s : State} (h : P s) (p : Nat) (t : Nat) :
    P (State.pageClear s p t) := by
  unfold State.pageClear
  repeat' (first | with_reducible assumption | exact o | exact o.regs | exact o.shadow | exact o.cfgAct | exact o.timers
                           | exact o.episodes | exact o.lockFirst | exact o.queues | exact o.latches | exact o.fcr
                           | exact o.outs | exact o.valves | exact o.bridges | exact o.scan | exact o.seq | exact o.cal
                           | exact o.strobes | exact o.dins | exact o.phyLines | exact o.msh | exact o.tmrs | exact o.tchs
                           | exact o.stg | exact o.sw | exact o.pwr | exact o.nms | exact o.ring | exact o.cans | exact o.vault
                           | exact o.acc | exact o.sup | intro _ | with_reducible apply State.unitReset_keeps
                           | with_reducible apply State.clearHidden_keeps | with_reducible apply State.restoreRegs_keeps
                           | with_reducible apply State.pageStart_keeps | with_reducible apply State.swFree_keeps
                           | with_reducible apply ite_keeps | with_reducible apply foldl_keeps
                           | with_reducible apply foldlFst_keeps | with_reducible apply foldlSnd_keeps | split | dsimp only
                           | with_reducible apply o.resetWait)

theorem State.pageStopped_keeps {P : State → Prop} (o : Blind.All P) {s : State} (h : P s) (p : Nat) (t : Nat) :
    P (State.pageStopped s p t) := by
  unfold State.pageStopped
  repeat' (first | with_reducible assumption | exact o | exact o.regs | exact o.timers | exact o.queues | exact o.fcr
                           | exact o.dins | exact o.tchs | exact o.sw | exact o.pwr | intro _
                           | with_reducible apply State.pageClear_keeps | with_reducible apply State.pageStart_keeps
                           | with_reducible apply State.put_keeps | with_reducible apply ite_keeps
                           | with_reducible apply foldl_keeps | with_reducible apply foldlFst_keeps
                           | with_reducible apply foldlSnd_keeps | split | dsimp only)

theorem State.pageEnable_keeps {P : State → Prop} (cRegs : Blind.regs P) (cMem : Blind.mem P) (cTimers : Blind.timers P)
    (cEpisodes : Blind.episodes P) (cQueues : Blind.queues P) (cFcr : Blind.fcr P) (cOuts : Blind.outs P)
    (cValves : Blind.valves P) (cBridges : Blind.bridges P) (cDins : Blind.dins P) (cDies : Blind.dies P) (cMsh : Blind.msh P)
    (cTchs : Blind.tchs P) (cSw : Blind.sw P) (cPwr : Blind.pwr P) (cNow : Blind.now P) {s : State} (h : P s) (p : Nat)
    (v : Bool) (t : Nat) :
    P (State.pageEnable s p v t) := by
  unfold State.pageEnable
  repeat' (first | with_reducible assumption | intro _ | with_reducible apply State.pageStart_keeps
                           | with_reducible apply State.pageStop_keeps | with_reducible apply State.put_keeps
                           | with_reducible apply ite_keeps | with_reducible apply foldl_keeps
                           | with_reducible apply foldlFst_keeps | with_reducible apply foldlSnd_keeps | split | dsimp only)

theorem State.pageReset_keeps {P : State → Prop} (o : Blind.All P) {s : State} (h : P s) (p : Nat) (t : Nat) :
    P (State.pageReset s p t) := by
  unfold State.pageReset
  repeat' (first | with_reducible assumption | exact o | exact o.regs | exact o.mem | exact o.timers | exact o.episodes
                           | exact o.queues | exact o.fcr | exact o.outs | exact o.valves | exact o.bridges | exact o.dins
                           | exact o.dies | exact o.msh | exact o.sw | exact o.pwr | exact o.now | intro _
                           | with_reducible apply State.pageStopped_keeps | with_reducible apply State.pageStop_keeps
                           | with_reducible apply State.fastDecay_keeps | with_reducible apply State.disarm_keeps
                           | with_reducible apply State.put_keeps | with_reducible apply ite_keeps
                           | with_reducible apply foldl_keeps | with_reducible apply foldlFst_keeps
                           | with_reducible apply foldlSnd_keeps | split | dsimp only | with_reducible apply o.resetWait)

theorem State.clusterReset_keeps {P : State → Prop} (o : Blind.All P) {s : State} (h : P s) (c : Cluster) (t : Nat) :
    P (State.clusterReset s c t) := by
  unfold State.clusterReset
  repeat' (first | with_reducible assumption | exact o | exact o.regs | exact o.shadow | exact o.cfgAct | exact o.mem
                           | exact o.timers | exact o.episodes | exact o.lockFirst | exact o.queues | exact o.latches
                           | exact o.fcr | exact o.outs | exact o.valves | exact o.bridges | exact o.scan | exact o.seq
                           | exact o.cal | exact o.strobes | exact o.dins | exact o.phyLines | exact o.dies | exact o.msh
                           | exact o.tmrs | exact o.tchs | exact o.stg | exact o.sw | exact o.pwr | exact o.nms | exact o.ring
                           | exact o.cans | exact o.vault | exact o.acc | exact o.sup | exact o.now | intro _
                           | with_reducible apply State.clearHidden_keeps | with_reducible apply State.restoreRegs_keeps
                           | with_reducible apply State.pageStart_keeps | with_reducible apply State.ringStop_keeps
                           | with_reducible apply State.gmLoss_keeps | with_reducible apply State.swFree_keeps
                           | with_reducible apply State.dieFailsafe_keeps | with_reducible apply State.disarm_keeps
                           | with_reducible apply ite_keeps | with_reducible apply foldl_keeps
                           | with_reducible apply foldlFst_keeps | with_reducible apply foldlSnd_keeps | split | dsimp only
                           | with_reducible apply o.resetWait)

theorem execUnitStopComplete_keeps {P : State → Prop} (o : Blind.All P) {s : State} (h : P s) (t : Nat) (p : Nat) :
    Next P (execUnitStopComplete t p s) := by
  unfold execUnitStopComplete
  repeat' (first | with_reducible assumption | exact o | exact o.regs | exact o.timers | exact o.fcr | exact o.outs
                           | exact o.scan | exact o.sw | exact o.vault | exact o.acc | exact o.now | intro _
                           | with_reducible apply State.pageStopped_keeps | with_reducible apply State.pageClear_keeps
                           | with_reducible apply State.accStopped_keeps | with_reducible apply State.canStopped_keeps
                           | with_reducible apply State.portSettle_keeps | with_reducible apply State.scanEnd_keeps
                           | with_reducible apply State.reach_keeps | with_reducible apply Next.of
                           | with_reducible apply nextIte_keeps | with_reducible apply ite_keeps
                           | with_reducible apply foldl_keeps | with_reducible apply foldlFst_keeps
                           | with_reducible apply foldlSnd_keeps | split | dsimp only)

end Sys2Proof.Machine
end

