-- ==== Sys2Proof/Laws/KeepsReset.lean ====
section
/-! SUPPORT. What the operations of Machine/Reset.lean keep. -/
namespace Sys2Proof.Machine

theorem State.breakSector_keeps {P : State → Prop} (cMem : Blind.mem P) (cFresh : Blind.fresh P) {s : State} (h : P s) (a : Nat) :
    P (State.breakSector s a) := by
  unfold State.breakSector
  repeat' (first | with_reducible assumption | intro _ | with_reducible apply State.setBytes_keeps
                           | with_reducible apply ite_keeps | with_reducible apply foldl_keeps
                           | with_reducible apply foldlFst_keeps | with_reducible apply foldlSnd_keeps | exact Nat.le_refl _
                           | exact Nat.le_succ _ | exact Nat.le_add_right _ _ | exact Nat.le_max_left _ _ | rfl | split
                           | dsimp only | with_reducible apply cFresh)

theorem State.breakNv_keeps {P : State → Prop} (cMem : Blind.mem P) (cFresh : Blind.fresh P) {s : State} (h : P s)  :
    P (State.breakNv s) := by
  unfold State.breakNv
  repeat' (first | with_reducible assumption | intro _ | with_reducible apply State.breakSector_keeps
                           | with_reducible apply ite_keeps | with_reducible apply foldl_keeps
                           | with_reducible apply foldlFst_keeps | with_reducible apply foldlSnd_keeps | split | dsimp only)

theorem State.unitsOff_keeps {P : State → Prop} (cRegs : Blind.regs P) (cTimers : Blind.timers P) (cEpisodes : Blind.episodes P)
    (cOuts : Blind.outs P) (cBridges : Blind.bridges P) (cMsh : Blind.msh P) (cNow : Blind.now P) {s : State} (h : P s)
    (t : Nat) :
    P (State.unitsOff s t) := by
  unfold State.unitsOff
  repeat' (first | with_reducible assumption | intro _ | with_reducible apply State.dieOff_keeps
                           | with_reducible apply ite_keeps | with_reducible apply foldl_keeps
                           | with_reducible apply foldlFst_keeps | with_reducible apply foldlSnd_keeps | split | dsimp only)

theorem State.afterReset_keeps {P : State → Prop} (o : Blind.All P) {s : State} (h : P s) (cause t : Nat) :
    P (State.afterReset s cause t) :=
  Blind.All.any o h rfl (Nat.le_max_left _ _) (Nat.le_refl _) (fun _ => rfl) (fun hm => filter_canon _ _ _ hm) (fun hb => hb)
    (Nat.le_refl _)

theorem State.assertReset_keeps {P : State → Prop} (o : Blind.All P) {s : State} (h : P s) (cause : Nat) (src : Nat) (t : Nat) :
    P (State.assertReset s cause src t) := by
  unfold State.assertReset
  repeat' (first | with_reducible assumption | exact o | exact o.regs | exact o.mem | exact o.timers | exact o.episodes
                           | exact o.fcr | exact o.outs | exact o.valves | exact o.bridges | exact o.dies | exact o.msh
                           | exact o.now | exact o.fresh | intro _ | with_reducible apply State.afterReset_keeps
                           | with_reducible apply State.unitsOff_keeps | with_reducible apply State.breakNv_keeps
                           | with_reducible apply State.dieFailsafe_keeps | with_reducible apply State.yieldOnce_keeps
                           | with_reducible apply State.count_keeps | with_reducible apply State.put_keeps
                           | with_reducible apply ite_keeps | with_reducible apply foldl_keeps
                           | with_reducible apply foldlFst_keeps | with_reducible apply foldlSnd_keeps | split | dsimp only)

theorem State.deviceReset_keeps {P : State → Prop} (o : Blind.All P) {s : State} (h : P s) (cause : Nat) (src : Nat) (t : Nat) :
    P (State.deviceReset s cause src t) := by
  unfold State.deviceReset
  repeat' (first | with_reducible assumption | exact o | exact o.timers | (exact fun hb => hb) | intro _
                           | with_reducible apply State.assertReset_keeps | with_reducible apply State.arm_keeps
                           | with_reducible apply ite_keeps | with_reducible apply foldl_keeps
                           | with_reducible apply foldlFst_keeps | with_reducible apply foldlSnd_keeps | exact Nat.le_refl _
                           | exact Nat.le_succ _ | exact Nat.le_add_right _ _ | exact Nat.le_max_left _ _ | rfl | split
                           | dsimp only | with_reducible apply o.boot)

theorem State.resetAwaited_keeps {P : State → Prop} (o : Blind.All P) {s : State} (h : P s) (t : Nat) :
    P (State.resetAwaited s t) := by
  unfold State.resetAwaited
  repeat' (first | with_reducible assumption | exact o | exact o.timers | intro _
                           | with_reducible apply State.assertReset_keeps | with_reducible apply State.arm_keeps
                           | with_reducible apply ite_keeps | with_reducible apply foldl_keeps
                           | with_reducible apply foldlFst_keeps | with_reducible apply foldlSnd_keeps | split | dsimp only)

theorem State.releaseReset_keeps {P : State → Prop} (cBook : Blind.book P) (cBoot : Blind.boot P) {s : State} (h : P s)
    (t : Nat) :
    P (State.releaseReset s t) := by
  unfold State.releaseReset
  repeat' (first | with_reducible assumption | (exact fun hb => hb) | intro _ | with_reducible apply ite_keeps
                           | with_reducible apply foldl_keeps | with_reducible apply foldlFst_keeps
                           | with_reducible apply foldlSnd_keeps | exact Nat.le_refl _ | exact Nat.le_succ _
                           | exact Nat.le_add_right _ _ | exact Nat.le_max_left _ _ | rfl | split | dsimp only
                           | with_reducible apply with_boot_book | with_reducible apply cBook | with_reducible apply cBoot)

theorem execDeviceResetRelease_keeps {P : State → Prop} (cTimers : Blind.timers P) (cBook : Blind.book P) (cBoot : Blind.boot P)
    (cNow : Blind.now P) {s : State} (h : P s)  :
    Next P (execDeviceResetRelease s) := by
  unfold execDeviceResetRelease
  repeat' (first | with_reducible assumption | intro _ | with_reducible apply State.releaseReset_keeps
                           | with_reducible apply State.onExpiry_keeps | with_reducible apply Next.of
                           | with_reducible apply nextIte_keeps | with_reducible apply ite_keeps
                           | with_reducible apply foldl_keeps | with_reducible apply foldlFst_keeps
                           | with_reducible apply foldlSnd_keeps | split | dsimp only)

theorem execPowerOnReset_keeps {P : State → Prop} (o : Blind.All P) {s : State} (h : P s) (t : Nat) (vbat : Bool) :
    Next P (execPowerOnReset t vbat s) := by
  unfold execPowerOnReset
  repeat' (first | with_reducible assumption | exact o | exact o.book | exact o.boot | exact o.now | intro _
                           | with_reducible apply State.releaseReset_keeps | with_reducible apply State.assertReset_keeps
                           | with_reducible apply State.reach_keeps | with_reducible apply Next.of
                           | with_reducible apply nextIte_keeps | with_reducible apply ite_keeps
                           | with_reducible apply foldl_keeps | with_reducible apply foldlFst_keeps
                           | with_reducible apply foldlSnd_keeps | split | dsimp only)

theorem execRailLoss_keeps {P : State → Prop} (o : Blind.All P) {s : State} (h : P s) (t : Nat) :
    Next P (execRailLoss t s) := by
  unfold execRailLoss
  repeat' (first | with_reducible assumption | exact o | exact o.now | intro _ | with_reducible apply State.assertReset_keeps
                           | with_reducible apply State.reach_keeps | with_reducible apply Next.of
                           | with_reducible apply nextIte_keeps | with_reducible apply ite_keeps
                           | with_reducible apply foldl_keeps | with_reducible apply foldlFst_keeps
                           | with_reducible apply foldlSnd_keeps | split | dsimp only)

theorem execVbatLoss_keeps {P : State → Prop} (o : Blind.All P) {s : State} (h : P s) (t : Nat) :
    Next P (execVbatLoss t s) := by
  unfold execVbatLoss
  repeat' (first | with_reducible assumption | exact o | exact o.now | intro _ | with_reducible apply State.assertReset_keeps
                           | with_reducible apply State.reach_keeps | with_reducible apply Next.of
                           | with_reducible apply nextIte_keeps | with_reducible apply ite_keeps
                           | with_reducible apply foldl_keeps | with_reducible apply foldlFst_keeps
                           | with_reducible apply foldlSnd_keeps | split | dsimp only)

theorem execNvProgramComplete_keeps {P : State → Prop} (o : Blind.All P) {s : State} (h : P s) (t : Nat) (ok : Bool) :
    Next P (execNvProgramComplete t ok s) := by
  unfold execNvProgramComplete
  repeat' (first | with_reducible assumption | exact o | exact o.regs | exact o.mem | exact o.fcr | exact o.now | exact o.fresh
                           | (exact fun hb => hb) | intro _ | with_reducible apply State.resetAwaited_keeps
                           | with_reducible apply State.breakSector_keeps | with_reducible apply State.detect_keeps
                           | with_reducible apply State.setBytes_keeps | with_reducible apply State.reach_keeps
                           | with_reducible apply State.evt_keeps | with_reducible apply State.put_keeps
                           | with_reducible apply Next.of | with_reducible apply nextIte_keeps | with_reducible apply ite_keeps
                           | with_reducible apply foldl_keeps | with_reducible apply foldlFst_keeps
                           | with_reducible apply foldlSnd_keeps | exact Nat.le_refl _ | exact Nat.le_succ _
                           | exact Nat.le_add_right _ _ | exact Nat.le_max_left _ _ | rfl | split | dsimp only
                           | with_reducible apply o.boot)

theorem execArchiveSectorWritten_keeps {P : State → Prop} (o : Blind.All P) {s : State} (h : P s) (t : Nat) (ok : Bool) :
    Next P (execArchiveSectorWritten t ok s) := by
  unfold execArchiveSectorWritten
  repeat' (first | with_reducible assumption | exact o | exact o.regs | exact o.mem | exact o.fcr | exact o.book | exact o.now
                           | intro _ | with_reducible apply State.resetAwaited_keeps
                           | with_reducible apply State.flushWrote_keeps | with_reducible apply State.flushNext_keeps
                           | with_reducible apply State.flushAbandon_keeps | with_reducible apply State.reach_keeps
                           | with_reducible apply Next.of | with_reducible apply nextIte_keeps | with_reducible apply ite_keeps
                           | with_reducible apply foldl_keeps | with_reducible apply foldlFst_keeps
                           | with_reducible apply foldlSnd_keeps | split | dsimp only)

theorem execVaultCmdComplete_keeps {P : State → Prop} (o : Blind.All P) {s : State} (h : P s) (t : Nat) (nvOk : Bool) :
    Next P (execVaultCmdComplete t nvOk s) := by
  unfold execVaultCmdComplete
  repeat' (first | with_reducible assumption | exact o | exact o.regs | exact o.vault | exact o.now | intro _
                           | with_reducible apply State.resetAwaited_keeps | with_reducible apply State.setVault_keeps
                           | with_reducible apply State.reach_keeps | with_reducible apply State.evt_keeps
                           | with_reducible apply State.put_keeps | with_reducible apply Next.of
                           | with_reducible apply nextIte_keeps | with_reducible apply ite_keeps
                           | with_reducible apply foldl_keeps | with_reducible apply foldlFst_keeps
                           | with_reducible apply foldlSnd_keeps | split | dsimp only)

end Sys2Proof.Machine
end

