-- ==== Sys2Proof/Laws/KeepsFcr.lean ====
section
/-! SUPPORT. What the operations of Machine/Fcr.lean keep. -/
namespace Sys2Proof.Machine

theorem State.setFcr_keeps {P : State → Prop} (cFcr : Blind.fcr P) {s : State} (h : P s) (f : FcrSt → FcrSt) :
    P (State.setFcr s f) := by
  unfold State.setFcr
  repeat' (first | with_reducible assumption | intro _ | with_reducible apply ite_keeps | with_reducible apply foldl_keeps
                           | with_reducible apply foldlFst_keeps | with_reducible apply foldlSnd_keeps | split | dsimp only
                           | with_reducible apply cFcr)

theorem State.fcrLog_keeps {P : State → Prop} (cRegs : Blind.regs P) (cFcr : Blind.fcr P) {s : State} (h : P s) (src : Nat)
    (unit : Nat) (h_ : Nat) (cls : Nat) (flags : Nat) (t : Nat) :
    P (State.fcrLog s src unit h_ cls flags t) := by
  unfold State.fcrLog
  repeat' (first | with_reducible assumption | intro _ | with_reducible apply State.setFcr_keeps
                           | with_reducible apply State.evt_keeps | with_reducible apply State.count_keeps
                           | with_reducible apply ite_keeps | with_reducible apply foldl_keeps
                           | with_reducible apply foldlFst_keeps | with_reducible apply foldlSnd_keeps | split | dsimp only)

theorem State.holdStop_keeps {P : State → Prop} (cRegs : Blind.regs P) (cMem : Blind.mem P) (cTimers : Blind.timers P)
    (cEpisodes : Blind.episodes P) (cQueues : Blind.queues P) (cFcr : Blind.fcr P) (cOuts : Blind.outs P)
    (cValves : Blind.valves P) (cBridges : Blind.bridges P) (cDies : Blind.dies P) (cMsh : Blind.msh P) (cSw : Blind.sw P)
    (cPwr : Blind.pwr P) (cNow : Blind.now P) {s : State} (h : P s) (p : Nat) (u : Nat) (t : Nat) :
    P (State.holdStop s p u t) := by
  unfold State.holdStop
  repeat' (first | with_reducible assumption | intro _ | with_reducible apply State.applyUnit_keeps
                           | with_reducible apply State.canStop_keeps | with_reducible apply State.nmEnable_keeps
                           | with_reducible apply State.portStop_keeps | with_reducible apply ite_keeps
                           | with_reducible apply foldl_keeps | with_reducible apply foldlFst_keeps
                           | with_reducible apply foldlSnd_keeps | split | dsimp only)

theorem State.fcrHold_keeps {P : State → Prop} (cRegs : Blind.regs P) (cMem : Blind.mem P) (cTimers : Blind.timers P)
    (cEpisodes : Blind.episodes P) (cQueues : Blind.queues P) (cFcr : Blind.fcr P) (cOuts : Blind.outs P)
    (cValves : Blind.valves P) (cBridges : Blind.bridges P) (cDies : Blind.dies P) (cMsh : Blind.msh P) (cSw : Blind.sw P)
    (cPwr : Blind.pwr P) (cNow : Blind.now P) {s : State} (h : P s) (src : Nat) (p : Nat) (u : Nat) (t : Nat) :
    P (State.fcrHold s src p u t) := by
  unfold State.fcrHold
  repeat' (first | with_reducible assumption | intro _ | with_reducible apply State.holdStop_keeps
                           | with_reducible apply State.setFcr_keeps | with_reducible apply State.put_keeps
                           | with_reducible apply ite_keeps | with_reducible apply foldl_keeps
                           | with_reducible apply foldlFst_keeps | with_reducible apply foldlSnd_keeps | split | dsimp only)

theorem State.enterSafe_keeps {P : State → Prop} (cRegs : Blind.regs P) (cMem : Blind.mem P) (cTimers : Blind.timers P)
    (cEpisodes : Blind.episodes P) (cStride : Blind.stride P) (cFcr : Blind.fcr P) (cOuts : Blind.outs P)
    (cValves : Blind.valves P) (cBridges : Blind.bridges P) (cDies : Blind.dies P) (cMsh : Blind.msh P) (cPac : Blind.pac P)
    (cNow : Blind.now P) {s : State} (h : P s) (t : Nat) :
    P (State.enterSafe s t) := by
  unfold State.enterSafe
  repeat' (first | with_reducible assumption | intro _ | with_reducible apply State.dieFailsafe_keeps
                           | with_reducible apply State.yieldOpen_keeps | with_reducible apply State.yieldOnce_keeps
                           | with_reducible apply State.evt_keeps | with_reducible apply State.put_keeps
                           | with_reducible apply ite_keeps | with_reducible apply foldl_keeps
                           | with_reducible apply foldlFst_keeps | with_reducible apply foldlSnd_keeps | split | dsimp only
                           | with_reducible apply with_pac_stride | with_reducible apply cStride | with_reducible apply cPac)

theorem State.fcrTake_keeps {P : State → Prop} (o : Blind.All P) {s : State} (h : P s) (src : Nat) (unit : Nat) (h_ : Nat)
    (cls : Nat) (flags : Nat) (t : Nat) :
    P (State.fcrTake s src unit h_ cls flags t) := by
  unfold State.fcrTake
  repeat' (first | with_reducible assumption | exact o | exact o.regs | exact o.mem | exact o.timers | exact o.episodes
                           | exact o.stride | exact o.queues | exact o.fcr | exact o.outs | exact o.valves | exact o.bridges
                           | exact o.dies | exact o.msh | exact o.sw | exact o.pwr | exact o.pac | exact o.now | intro _
                           | with_reducible apply State.enterSafe_keeps | with_reducible apply State.fcrHold_keeps
                           | with_reducible apply State.fcrLog_keeps | with_reducible apply State.setFcr_keeps
                           | with_reducible apply State.resetAwaited_keeps | with_reducible apply State.deviceReset_keeps
                           | with_reducible apply State.clusterReset_keeps | with_reducible apply State.recEvent_keeps
                           | with_reducible apply State.evt_keeps | with_reducible apply State.put_keeps
                           | with_reducible apply ite_keeps | with_reducible apply foldl_keeps
                           | with_reducible apply foldlFst_keeps | with_reducible apply foldlSnd_keeps | split | dsimp only)

theorem State.fcrStatus_keeps {P : State → Prop} (cRegs : Blind.regs P) (cFcr : Blind.fcr P) {s : State} (h : P s) (src : Nat)
    (unit : Nat) (cls : Nat) :
    P (State.fcrStatus s src unit cls) := by
  unfold State.fcrStatus
  repeat' (first | with_reducible assumption | intro _ | with_reducible apply State.setFcr_keeps
                           | with_reducible apply State.count_keeps | with_reducible apply State.put_keeps
                           | with_reducible apply ite_keeps | with_reducible apply foldl_keeps
                           | with_reducible apply foldlFst_keeps | with_reducible apply foldlSnd_keeps | split | dsimp only)

theorem State.fcrRaise_keeps {P : State → Prop} (o : Blind.All P) {s : State} (h : P s) (src : Nat) (unit : Nat) (t : Nat) :
    P (State.fcrRaise s src unit t) := by
  unfold State.fcrRaise
  repeat' (first | with_reducible assumption | exact o | exact o.regs | exact o.timers | exact o.fcr | intro _
                           | with_reducible apply State.fcrStatus_keeps | with_reducible apply State.fcrTake_keeps
                           | with_reducible apply State.arm_keeps | with_reducible apply ite_keeps
                           | with_reducible apply foldl_keeps | with_reducible apply foldlFst_keeps
                           | with_reducible apply foldlSnd_keeps | split | dsimp only)

theorem State.fcrConseq_keeps {P : State → Prop} (cRegs : Blind.regs P) (cMem : Blind.mem P) (cEpisodes : Blind.episodes P)
    (cFcr : Blind.fcr P) {s : State} (h : P s) (src : Nat) (unit : Nat) (t : Nat) :
    P (State.fcrConseq s src unit t) := by
  unfold State.fcrConseq
  repeat' (first | with_reducible assumption | intro _ | with_reducible apply State.fcrLog_keeps
                           | with_reducible apply State.recEvent_keeps | with_reducible apply State.evt_keeps
                           | with_reducible apply State.count_keeps | with_reducible apply ite_keeps
                           | with_reducible apply foldl_keeps | with_reducible apply foldlFst_keeps
                           | with_reducible apply foldlSnd_keeps | split | dsimp only)

theorem State.fcrRoot_keeps {P : State → Prop} (o : Blind.All P) {s : State} (h : P s) (src : Nat) (t : Nat) :
    P (State.fcrRoot s src t) := by
  unfold State.fcrRoot
  repeat' (first | with_reducible assumption | exact o | exact o.regs | exact o.fcr | intro _
                           | with_reducible apply State.fcrStatus_keeps | with_reducible apply State.fcrTake_keeps
                           | with_reducible apply ite_keeps | with_reducible apply foldl_keeps
                           | with_reducible apply foldlFst_keeps | with_reducible apply foldlSnd_keeps | split | dsimp only)

theorem State.graceEnd_keeps {P : State → Prop} (o : Blind.All P) {s : State} (h : P s) (src : Nat) (t : Nat) :
    P (State.graceEnd s src t) := by
  unfold State.graceEnd
  repeat' (first | with_reducible assumption | exact o | exact o.regs | intro _ | with_reducible apply State.fcrTake_keeps
                           | with_reducible apply State.evt_keeps | with_reducible apply ite_keeps
                           | with_reducible apply foldl_keeps | with_reducible apply foldlFst_keeps
                           | with_reducible apply foldlSnd_keeps | split | dsimp only)

theorem State.gracePast_keeps {P : State → Prop} (o : Blind.All P) {s : State} (h : P s) (i : Nat) (t : Nat) :
    P (State.gracePast s i t) := by
  unfold State.gracePast
  repeat' (first | with_reducible assumption | exact o | exact o.timers | exact o.now | intro _
                           | with_reducible apply State.graceEnd_keeps | with_reducible apply State.onExpiry_keeps
                           | with_reducible apply ite_keeps | with_reducible apply foldl_keeps
                           | with_reducible apply foldlFst_keeps | with_reducible apply foldlSnd_keeps | split | dsimp only)

theorem State.fcrAck_keeps {P : State → Prop} (o : Blind.All P) {s : State} (h : P s) (i : Nat) (t : Nat) :
    P (State.fcrAck s i t) := by
  unfold State.fcrAck
  repeat' (first | with_reducible assumption | exact o | exact o.regs | exact o.timers | exact o.fcr | intro _
                           | with_reducible apply State.gracePast_keeps | with_reducible apply State.setFcr_keeps
                           | with_reducible apply State.disarm_keeps | with_reducible apply State.put_keeps
                           | with_reducible apply ite_keeps | with_reducible apply foldl_keeps
                           | with_reducible apply foldlFst_keeps | with_reducible apply foldlSnd_keeps | split | dsimp only)

theorem State.holdsEnd_keeps {P : State → Prop} (cRegs : Blind.regs P) (cFcr : Blind.fcr P) {s : State} (h : P s)
    (f : Nat × Nat × Nat → Bool) :
    P (State.holdsEnd s f) := by
  unfold State.holdsEnd
  repeat' (first | with_reducible assumption | intro _ | with_reducible apply State.setFcr_keeps
                           | with_reducible apply State.put_keeps | with_reducible apply ite_keeps
                           | with_reducible apply foldl_keeps | with_reducible apply foldlFst_keeps
                           | with_reducible apply foldlSnd_keeps | split | dsimp only)

theorem State.fcrUnhold_keeps {P : State → Prop} (cRegs : Blind.regs P) (cFcr : Blind.fcr P) {s : State} (h : P s) (i : Nat)
    (u : Nat) :
    P (State.fcrUnhold s i u) := by
  unfold State.fcrUnhold
  repeat' (first | with_reducible assumption | intro _ | with_reducible apply State.holdsEnd_keeps
                           | with_reducible apply ite_keeps | with_reducible apply foldl_keeps
                           | with_reducible apply foldlFst_keeps | with_reducible apply foldlSnd_keeps | split | dsimp only)

theorem State.fcrClear_keeps {P : State → Prop} (o : Blind.All P) {s : State} (h : P s) (i : Nat) (t : Nat) :
    P (State.fcrClear s i t) := by
  unfold State.fcrClear
  repeat' (first | with_reducible assumption | exact o | exact o.regs | exact o.timers | exact o.fcr | intro _
                           | with_reducible apply State.holdsEnd_keeps | with_reducible apply State.gracePast_keeps
                           | with_reducible apply State.setFcr_keeps | with_reducible apply State.disarm_keeps
                           | with_reducible apply State.put_keeps | with_reducible apply ite_keeps
                           | with_reducible apply foldl_keeps | with_reducible apply foldlFst_keeps
                           | with_reducible apply foldlSnd_keeps | split | dsimp only)

theorem State.liftHolds_keeps {P : State → Prop} (cRegs : Blind.regs P) (cTimers : Blind.timers P) (cQueues : Blind.queues P)
    (cFcr : Blind.fcr P) (cPwr : Blind.pwr P) {s : State} (h : P s) (t : Nat) :
    P (State.liftHolds s t) := by
  unfold State.liftHolds
  repeat' (first | with_reducible assumption | intro _ | with_reducible apply State.setFcr_keeps
                           | with_reducible apply State.canStart_keeps | with_reducible apply State.nmEnable_keeps
                           | with_reducible apply ite_keeps | with_reducible apply foldl_keeps
                           | with_reducible apply foldlFst_keeps | with_reducible apply foldlSnd_keeps | split | dsimp only)

theorem State.endSafe_keeps {P : State → Prop} (cRegs : Blind.regs P) (cEpisodes : Blind.episodes P)
    (cStride : Blind.stride P) {s : State} (h : P s)  :
    P (State.endSafe s) := by
  unfold State.endSafe
  repeat' (first | with_reducible assumption | intro _ | with_reducible apply State.yieldClose_keeps
                           | with_reducible apply State.put_keeps | with_reducible apply ite_keeps
                           | with_reducible apply foldl_keeps | with_reducible apply foldlFst_keeps
                           | with_reducible apply foldlSnd_keeps | split | dsimp only | with_reducible apply cStride)

theorem State.fcrReceive_keeps {P : State → Prop} (o : Blind.All P) {s : State} (h : P s) (src : Nat) (unit : Nat) (t : Nat) :
    P (State.fcrReceive s src unit t) := by
  unfold State.fcrReceive
  repeat' (first | with_reducible assumption | exact o | exact o.regs | exact o.mem | exact o.episodes | exact o.fcr | intro _
                           | with_reducible apply State.fcrConseq_keeps | with_reducible apply State.fcrRaise_keeps
                           | with_reducible apply State.setFcr_keeps | with_reducible apply ite_keeps
                           | with_reducible apply foldl_keeps | with_reducible apply foldlFst_keeps
                           | with_reducible apply foldlSnd_keeps | split | dsimp only)

theorem State.fcrDrain_keeps {P : State → Prop} (o : Blind.All P) {s : State} (h : P s) (t : Nat) :
    P (State.fcrDrain s t) := by
  unfold State.fcrDrain
  repeat' (first | with_reducible assumption | exact o | exact o.fcr | intro _ | with_reducible apply State.fcrReceive_keeps
                           | with_reducible apply State.setFcr_keeps | with_reducible apply ite_keeps
                           | with_reducible apply foldl_keeps | with_reducible apply foldlFst_keeps
                           | with_reducible apply foldlSnd_keeps | split | dsimp only)

theorem execFaultRaise_keeps {P : State → Prop} (o : Blind.All P) {s : State} (h : P s) (t : Nat) (src : Nat) (unit : Nat) :
    Next P (execFaultRaise t src unit s) := by
  unfold execFaultRaise
  repeat' (first | with_reducible assumption | exact o | exact o.fcr | exact o.now | intro _
                           | with_reducible apply State.fcrReceive_keeps | with_reducible apply State.setFcr_keeps
                           | with_reducible apply State.detect_keeps | with_reducible apply State.reach_keeps
                           | with_reducible apply Next.of | with_reducible apply nextIte_keeps | with_reducible apply ite_keeps
                           | with_reducible apply foldl_keeps | with_reducible apply foldlFst_keeps
                           | with_reducible apply foldlSnd_keeps | split | dsimp only)

theorem execGraceExpiry_keeps {P : State → Prop} (o : Blind.All P) {s : State} (h : P s) (src : Nat) :
    Next P (execGraceExpiry src s) := by
  unfold execGraceExpiry
  repeat' (first | with_reducible assumption | exact o | exact o.timers | exact o.now | intro _
                           | with_reducible apply State.graceEnd_keeps | with_reducible apply State.onExpiry_keeps
                           | with_reducible apply Next.of | with_reducible apply nextIte_keeps | with_reducible apply ite_keeps
                           | with_reducible apply foldl_keeps | with_reducible apply foldlFst_keeps
                           | with_reducible apply foldlSnd_keeps | split | dsimp only)

end Sys2Proof.Machine
end

