-- ==== Sys2Proof/Laws/KeepsClocks.lean ====
section
/-! SUPPORT. What the operations of Machine/Clocks.lean keep. -/
namespace Sys2Proof.Machine

theorem State.xoscStart_keeps {P : State → Prop} (cTimers : Blind.timers P) {s : State} (h : P s) (t : Nat) :
    P (State.xoscStart s t) := by
  unfold State.xoscStart
  repeat' (first | with_reducible assumption | intro _ | with_reducible apply State.arm_keeps | with_reducible apply ite_keeps
                           | with_reducible apply foldl_keeps | with_reducible apply foldlFst_keeps
                           | with_reducible apply foldlSnd_keeps | split | dsimp only)

theorem State.xoscFailed_keeps {P : State → Prop} (cRegs : Blind.regs P) (cTimers : Blind.timers P) {s : State} (h : P s)
    (t : Nat) :
    P (State.xoscFailed s t) := by
  unfold State.xoscFailed
  repeat' (first | with_reducible assumption | intro _ | with_reducible apply State.xoscStart_keeps
                           | with_reducible apply State.count_keeps | with_reducible apply State.put_keeps
                           | with_reducible apply ite_keeps | with_reducible apply foldl_keeps
                           | with_reducible apply foldlFst_keeps | with_reducible apply foldlSnd_keeps | split | dsimp only)

theorem State.takeRef_keeps {P : State → Prop} (cRegs : Blind.regs P) (cTimers : Blind.timers P)
    (cFcr : Blind.fcr P) {s : State} (h : P s) (r : Nat) :
    P (State.takeRef s r) := by
  unfold State.takeRef
  repeat' (first | with_reducible assumption | intro _ | with_reducible apply State.holdover_keeps
                           | with_reducible apply State.disarm_keeps | with_reducible apply State.put_keeps
                           | with_reducible apply ite_keeps | with_reducible apply foldl_keeps
                           | with_reducible apply foldlFst_keeps | with_reducible apply foldlSnd_keeps | split | dsimp only)

theorem State.enterHoldover_keeps {P : State → Prop} (cRegs : Blind.regs P) (cTimers : Blind.timers P)
    (cFcr : Blind.fcr P) {s : State} (h : P s) (t : Nat) :
    P (State.enterHoldover s t) := by
  unfold State.enterHoldover
  repeat' (first | with_reducible assumption | intro _ | with_reducible apply State.holdover_keeps
                           | with_reducible apply State.arm_keeps | with_reducible apply State.evt_keeps
                           | with_reducible apply State.put_keeps | with_reducible apply ite_keeps
                           | with_reducible apply foldl_keeps | with_reducible apply foldlFst_keeps
                           | with_reducible apply foldlSnd_keeps | split | dsimp only)

theorem State.rclkWait_keeps {P : State → Prop} (cTimers : Blind.timers P) {s : State} (h : P s) (t : Nat) :
    P (State.rclkWait s t) := by
  unfold State.rclkWait
  repeat' (first | with_reducible assumption | intro _ | with_reducible apply State.arm_keeps
                           | with_reducible apply State.disarm_keeps | with_reducible apply ite_keeps
                           | with_reducible apply foldl_keeps | with_reducible apply foldlFst_keeps
                           | with_reducible apply foldlSnd_keeps | split | dsimp only)

theorem State.ticksStop_keeps {P : State → Prop} (cStride : Blind.stride P) {s : State} (h : P s)  :
    P (State.ticksStop s) := by
  unfold State.ticksStop
  repeat' (first | with_reducible assumption | intro _ | with_reducible apply ite_keeps | with_reducible apply foldl_keeps
                           | with_reducible apply foldlFst_keeps | with_reducible apply foldlSnd_keeps | split | dsimp only
                           | with_reducible apply cStride)

theorem State.rootFailed_keeps {P : State → Prop} (o : Blind.All P) {s : State} (h : P s) (src : Nat) (t : Nat) :
    P (State.rootFailed s src t) := by
  unfold State.rootFailed
  repeat' (first | with_reducible assumption | exact o | exact o.regs | exact o.mem | exact o.timers | exact o.episodes
                           | exact o.stride | exact o.fcr | exact o.phyLines | exact o.msh | intro _
                           | with_reducible apply State.ticksStop_keeps | with_reducible apply State.fcrRoot_keeps
                           | with_reducible apply State.fcrStatus_keeps | with_reducible apply State.fcrLog_keeps
                           | with_reducible apply State.holdover_keeps | with_reducible apply State.phyAssert_keeps
                           | with_reducible apply State.recEvent_keeps | with_reducible apply State.arm_keeps
                           | with_reducible apply State.disarm_keeps | with_reducible apply State.put_keeps
                           | with_reducible apply ite_keeps | with_reducible apply foldl_keeps
                           | with_reducible apply foldlFst_keeps | with_reducible apply foldlSnd_keeps | split | dsimp only)

theorem State.xoscLost_keeps {P : State → Prop} (cRegs : Blind.regs P) (cTimers : Blind.timers P)
    (cFcr : Blind.fcr P) {s : State} (h : P s) (t : Nat) :
    P (State.xoscLost s t) := by
  unfold State.xoscLost
  repeat' (first | with_reducible assumption | intro _ | with_reducible apply State.enterHoldover_keeps
                           | with_reducible apply State.takeRef_keeps | with_reducible apply State.detect_keeps
                           | with_reducible apply State.arm_keeps | with_reducible apply State.evt_keeps
                           | with_reducible apply State.put_keeps | with_reducible apply ite_keeps
                           | with_reducible apply foldl_keeps | with_reducible apply foldlFst_keeps
                           | with_reducible apply foldlSnd_keeps | split | dsimp only)

theorem State.rclkLost_keeps {P : State → Prop} (cRegs : Blind.regs P) (cTimers : Blind.timers P)
    (cFcr : Blind.fcr P) {s : State} (h : P s) (t : Nat) :
    P (State.rclkLost s t) := by
  unfold State.rclkLost
  repeat' (first | with_reducible assumption | intro _ | with_reducible apply State.enterHoldover_keeps
                           | with_reducible apply State.takeRef_keeps | with_reducible apply State.detect_keeps
                           | with_reducible apply State.disarm_keeps | with_reducible apply State.evt_keeps
                           | with_reducible apply State.put_keeps | with_reducible apply ite_keeps
                           | with_reducible apply foldl_keeps | with_reducible apply foldlFst_keeps
                           | with_reducible apply foldlSnd_keeps | split | dsimp only)

theorem State.lpSwitch_keeps {P : State → Prop} (cRegs : Blind.regs P) {s : State} (h : P s) (v : Nat) :
    P (State.lpSwitch s v) := by
  unfold State.lpSwitch
  repeat' (first | with_reducible assumption | intro _ | with_reducible apply State.evt_keeps
                           | with_reducible apply State.put_keeps | with_reducible apply ite_keeps
                           | with_reducible apply foldl_keeps | with_reducible apply foldlFst_keeps
                           | with_reducible apply foldlSnd_keeps | split | dsimp only)

theorem State.lpxoFailed_keeps {P : State → Prop} (cRegs : Blind.regs P) (cTimers : Blind.timers P) (cFcr : Blind.fcr P)
    (cClk : Blind.clk P) {s : State} (h : P s) (t : Nat) :
    P (State.lpxoFailed s t) := by
  unfold State.lpxoFailed
  repeat' (first | with_reducible assumption | intro _ | with_reducible apply State.lpSwitch_keeps
                           | with_reducible apply State.detect_keeps | with_reducible apply State.arm_keeps
                           | with_reducible apply ite_keeps | with_reducible apply foldl_keeps
                           | with_reducible apply foldlFst_keeps | with_reducible apply foldlSnd_keeps | split | dsimp only
                           | with_reducible apply cClk)

theorem State.lpConfig_keeps {P : State → Prop} (cRegs : Blind.regs P) (cTimers : Blind.timers P)
    (cClk : Blind.clk P) {s : State} (h : P s)  :
    P (State.lpConfig s) := by
  unfold State.lpConfig
  repeat' (first | with_reducible assumption | intro _ | with_reducible apply State.lpSwitch_keeps
                           | with_reducible apply State.disarm_keeps | with_reducible apply ite_keeps
                           | with_reducible apply foldl_keeps | with_reducible apply foldlFst_keeps
                           | with_reducible apply foldlSnd_keeps | split | dsimp only | with_reducible apply cClk)

theorem State.refSelect_keeps {P : State → Prop} (cRegs : Blind.regs P) (cTimers : Blind.timers P)
    (cFcr : Blind.fcr P) {s : State} (h : P s) (v : Nat) (t : Nat) :
    P (State.refSelect s v t) := by
  unfold State.refSelect
  repeat' (first | with_reducible assumption | intro _ | with_reducible apply State.rclkWait_keeps
                           | with_reducible apply State.takeRef_keeps | with_reducible apply State.put_keeps
                           | with_reducible apply ite_keeps | with_reducible apply foldl_keeps
                           | with_reducible apply foldlFst_keeps | with_reducible apply foldlSnd_keeps | split | dsimp only)

theorem State.pllLocked_keeps {P : State → Prop} (cSplitZero : Blind.splitZero P) (cRegs : Blind.regs P)
    (cTimers : Blind.timers P) {s : State} (h : P s) (t : Nat) :
    P (State.pllLocked s t) := by
  unfold State.pllLocked
  repeat' (first | with_reducible assumption | intro _ | with_reducible apply State.arm_keeps
                           | with_reducible apply State.evt_keeps | with_reducible apply State.put_keeps
                           | with_reducible apply ite_keeps | with_reducible apply foldl_keeps
                           | with_reducible apply foldlFst_keeps | with_reducible apply foldlSnd_keeps | split | dsimp only
                           | with_reducible apply cSplitZero)

theorem execXoscStartWait_keeps {P : State → Prop} (cRegs : Blind.regs P) (cTimers : Blind.timers P) (cFcr : Blind.fcr P)
    (cNow : Blind.now P) {s : State} (h : P s) (ok : Bool) :
    Next P (execXoscStartWait ok s) := by
  unfold execXoscStartWait
  repeat' (first | with_reducible assumption | intro _ | with_reducible apply State.takeRef_keeps
                           | with_reducible apply State.xoscFailed_keeps | with_reducible apply State.onExpiry_keeps
                           | with_reducible apply State.disarm_keeps | with_reducible apply State.count_keeps
                           | with_reducible apply State.put_keeps | with_reducible apply Next.of
                           | with_reducible apply nextIte_keeps | with_reducible apply ite_keeps
                           | with_reducible apply foldl_keeps | with_reducible apply foldlFst_keeps
                           | with_reducible apply foldlSnd_keeps | split | dsimp only)

theorem execPllLock_keeps {P : State → Prop} (cSplitZero : Blind.splitZero P) (cRegs : Blind.regs P) (cTimers : Blind.timers P)
    (cNow : Blind.now P) {s : State} (h : P s) (t : Nat) (ok : Bool) :
    Next P (execPllLock t ok s) := by
  unfold execPllLock
  repeat' (first | with_reducible assumption | intro _ | with_reducible apply State.pllLocked_keeps
                           | with_reducible apply State.xoscFailed_keeps | with_reducible apply State.reach_keeps
                           | with_reducible apply Next.of | with_reducible apply nextIte_keeps | with_reducible apply ite_keeps
                           | with_reducible apply foldl_keeps | with_reducible apply foldlFst_keeps
                           | with_reducible apply foldlSnd_keeps | split | dsimp only)

theorem execReferenceSlewComplete_keeps {P : State → Prop} (cRegs : Blind.regs P) (cNow : Blind.now P) {s : State} (h : P s)
    (t : Nat) (diff : Nat) :
    Next P (execReferenceSlewComplete t diff s) := by
  unfold execReferenceSlewComplete
  repeat' (first | with_reducible assumption | intro _ | with_reducible apply State.reach_keeps
                           | with_reducible apply State.evt_keeps | with_reducible apply State.put_keeps
                           | with_reducible apply Next.of | with_reducible apply nextIte_keeps | with_reducible apply ite_keeps
                           | with_reducible apply foldl_keeps | with_reducible apply foldlFst_keeps
                           | with_reducible apply foldlSnd_keeps | split | dsimp only)

theorem execClockMonitorFail_keeps {P : State → Prop} (o : Blind.All P) {s : State} (h : P s) (t : Nat) (c : ClockMon) :
    Next P (execClockMonitorFail t c s) := by
  unfold execClockMonitorFail
  repeat' (first | with_reducible assumption | exact o | exact o.regs | exact o.timers | exact o.fcr | exact o.clk
                           | exact o.now | intro _ | with_reducible apply State.lpxoFailed_keeps
                           | with_reducible apply State.rclkLost_keeps | with_reducible apply State.xoscLost_keeps
                           | with_reducible apply State.rootFailed_keeps | with_reducible apply State.detect_keeps
                           | with_reducible apply State.reach_keeps | with_reducible apply State.evt_keeps
                           | with_reducible apply Next.of | with_reducible apply nextIte_keeps | with_reducible apply ite_keeps
                           | with_reducible apply foldl_keeps | with_reducible apply foldlFst_keeps
                           | with_reducible apply foldlSnd_keeps | split | dsimp only | with_reducible apply o.clk)

theorem execHoldoverExpiry_keeps {P : State → Prop} (o : Blind.All P) {s : State} (h : P s)  :
    Next P (execHoldoverExpiry s) := by
  unfold execHoldoverExpiry
  repeat' (first | with_reducible assumption | exact o | exact o.regs | exact o.timers | exact o.fcr | exact o.now | intro _
                           | with_reducible apply State.rootFailed_keeps | with_reducible apply State.holdover_keeps
                           | with_reducible apply State.onExpiry_keeps | with_reducible apply Next.of
                           | with_reducible apply nextIte_keeps | with_reducible apply ite_keeps
                           | with_reducible apply foldl_keeps | with_reducible apply foldlFst_keeps
                           | with_reducible apply foldlSnd_keeps | split | dsimp only)

theorem execClockWaitEnd_keeps {P : State → Prop} (o : Blind.All P) {s : State} (h : P s)  :
    Next P (execClockWaitEnd s) := by
  unfold execClockWaitEnd
  repeat' (first | with_reducible assumption | exact o | exact o.timers | exact o.now | intro _
                           | with_reducible apply State.deviceReset_keeps | with_reducible apply State.onExpiry_keeps
                           | with_reducible apply Next.of | with_reducible apply nextIte_keeps | with_reducible apply ite_keeps
                           | with_reducible apply foldl_keeps | with_reducible apply foldlFst_keeps
                           | with_reducible apply foldlSnd_keeps | split | dsimp only)

theorem execXoscRetry_keeps {P : State → Prop} (cTimers : Blind.timers P) (cNow : Blind.now P) {s : State} (h : P s)  :
    Next P (execXoscRetry s) := by
  unfold execXoscRetry
  repeat' (first | with_reducible assumption | intro _ | with_reducible apply State.xoscStart_keeps
                           | with_reducible apply State.onExpiry_keeps | with_reducible apply State.arm_keeps
                           | with_reducible apply Next.of | with_reducible apply nextIte_keeps | with_reducible apply ite_keeps
                           | with_reducible apply foldl_keeps | with_reducible apply foldlFst_keeps
                           | with_reducible apply foldlSnd_keeps | split | dsimp only)

theorem execRclkReturn_keeps {P : State → Prop} (cRegs : Blind.regs P) (cTimers : Blind.timers P) (cFcr : Blind.fcr P)
    (cNow : Blind.now P) {s : State} (h : P s)  :
    Next P (execRclkReturn s) := by
  unfold execRclkReturn
  repeat' (first | with_reducible assumption | intro _ | with_reducible apply State.takeRef_keeps
                           | with_reducible apply State.onExpiry_keeps | with_reducible apply Next.of
                           | with_reducible apply nextIte_keeps | with_reducible apply ite_keeps
                           | with_reducible apply foldl_keeps | with_reducible apply foldlFst_keeps
                           | with_reducible apply foldlSnd_keeps | split | dsimp only)

theorem execLpxoChangeover_keeps {P : State → Prop} (cRegs : Blind.regs P) (cTimers : Blind.timers P) (cFcr : Blind.fcr P)
    (cClk : Blind.clk P) (cNow : Blind.now P) {s : State} (h : P s) (t : Nat) (ok : Bool) :
    Next P (execLpxoChangeover t ok s) := by
  unfold execLpxoChangeover
  repeat' (first | with_reducible assumption | intro _ | with_reducible apply State.lpxoFailed_keeps
                           | with_reducible apply State.lpSwitch_keeps | with_reducible apply State.reach_keeps
                           | with_reducible apply Next.of | with_reducible apply nextIte_keeps | with_reducible apply ite_keeps
                           | with_reducible apply foldl_keeps | with_reducible apply foldlFst_keeps
                           | with_reducible apply foldlSnd_keeps | split | dsimp only | with_reducible apply cClk)

theorem execLpxoRetry_keeps {P : State → Prop} (cTimers : Blind.timers P) (cNow : Blind.now P) {s : State} (h : P s)  :
    Next P (execLpxoRetry s) := by
  unfold execLpxoRetry
  repeat' (first | with_reducible assumption | intro _ | with_reducible apply State.onExpiry_keeps
                           | with_reducible apply Next.of | with_reducible apply nextIte_keeps | with_reducible apply ite_keeps
                           | with_reducible apply foldl_keeps | with_reducible apply foldlFst_keeps
                           | with_reducible apply foldlSnd_keeps | split | dsimp only)

theorem execClockGating_keeps {P : State → Prop} (cRegs : Blind.regs P) (cNow : Blind.now P) {s : State} (h : P s) (t : Nat)
    (p : Nat) :
    Next P (execClockGating t p s) := by
  unfold execClockGating
  repeat' (first | with_reducible assumption | intro _ | with_reducible apply State.reach_keeps
                           | with_reducible apply State.setFlag_keeps | with_reducible apply Next.of
                           | with_reducible apply nextIte_keeps | with_reducible apply ite_keeps
                           | with_reducible apply foldl_keeps | with_reducible apply foldlFst_keeps
                           | with_reducible apply foldlSnd_keeps | split | dsimp only)

end Sys2Proof.Machine
end

