-- ==== Sys2Proof/Laws/KeepsPower.lean ====
section
/-! SUPPORT. What the operations of Machine/Power.lean keep. -/
namespace Sys2Proof.Machine

theorem State.setPwr_keeps {P : State → Prop} (cPwr : Blind.pwr P) {s : State} (h : P s) (f : PwrSt → PwrSt) :
    P (State.setPwr s f) := by
  unfold State.setPwr
  repeat' (first | with_reducible assumption | intro _ | with_reducible apply ite_keeps | with_reducible apply foldl_keeps
                           | with_reducible apply foldlFst_keeps | with_reducible apply foldlSnd_keeps | split | dsimp only
                           | with_reducible apply cPwr)

theorem State.regAsk_keeps {P : State → Prop} (cPwr : Blind.pwr P) {s : State} (h : P s) (volt : Nat) (use : Nat) :
    P (State.regAsk s volt use) := by
  unfold State.regAsk
  repeat' (first | with_reducible assumption | intro _ | with_reducible apply State.setPwr_keeps
                           | with_reducible apply ite_keeps | with_reducible apply foldl_keeps
                           | with_reducible apply foldlFst_keeps | with_reducible apply foldlSnd_keeps | split | dsimp only)

theorem State.regDone_keeps {P : State → Prop} (o : Blind.All P) {s : State} (h : P s) (ok : Bool) (t : Nat) :
    P (State.regDone s ok t) := by
  unfold State.regDone
  repeat' (first | with_reducible assumption | exact o | exact o.regs | exact o.timers | exact o.pwr | intro _
                           | with_reducible apply State.setPwr_keeps | with_reducible apply State.deviceReset_keeps
                           | with_reducible apply State.arm_keeps | with_reducible apply State.disarm_keeps
                           | with_reducible apply State.evt_keeps | with_reducible apply State.put_keeps
                           | with_reducible apply ite_keeps | with_reducible apply foldl_keeps
                           | with_reducible apply foldlFst_keeps | with_reducible apply foldlSnd_keeps | split | dsimp only)

theorem State.regFail_keeps {P : State → Prop} (o : Blind.All P) {s : State} (h : P s) (src : Nat) (t : Nat) :
    P (State.regFail s src t) := by
  unfold State.regFail
  repeat' (first | with_reducible assumption | exact o | exact o.regs | exact o.fcr | intro _
                           | with_reducible apply State.regDone_keeps | with_reducible apply State.fcrDrain_keeps
                           | with_reducible apply State.detect_keeps | with_reducible apply State.evt_keeps
                           | with_reducible apply ite_keeps | with_reducible apply foldl_keeps
                           | with_reducible apply foldlFst_keeps | with_reducible apply foldlSnd_keeps | split | dsimp only)

theorem State.regSend_keeps {P : State → Prop} (cTimers : Blind.timers P) (cPwr : Blind.pwr P) {s : State} (h : P s)
    (ack : Bool) (t : Nat) :
    P (State.regSend s ack t) := by
  unfold State.regSend
  repeat' (first | with_reducible assumption | intro _ | with_reducible apply State.setPwr_keeps
                           | with_reducible apply State.arm_keeps | with_reducible apply ite_keeps
                           | with_reducible apply foldl_keeps | with_reducible apply foldlFst_keeps
                           | with_reducible apply foldlSnd_keeps | split | dsimp only)

theorem State.abortOne_keeps {P : State → Prop} (cRegs : Blind.regs P) (cPwr : Blind.pwr P) (cBook : Blind.book P)
    (cBoot : Blind.boot P) {s : State} (h : P s) (k : Nat) :
    P (State.abortOne s k) := by
  unfold State.abortOne
  repeat' (first | with_reducible assumption | (exact fun hb => hb) | intro _ | with_reducible apply State.setPwr_keeps
                           | with_reducible apply State.setBook_keeps | with_reducible apply State.setFlag_keeps
                           | with_reducible apply State.evt_keeps | with_reducible apply State.count_keeps
                           | with_reducible apply State.put_keeps | with_reducible apply ite_keeps
                           | with_reducible apply foldl_keeps | with_reducible apply foldlFst_keeps
                           | with_reducible apply foldlSnd_keeps | exact Nat.le_refl _ | exact Nat.le_succ _
                           | exact Nat.le_add_right _ _ | exact Nat.le_max_left _ _ | rfl | split | dsimp only
                           | with_reducible apply cBoot)

theorem State.qtoReport_keeps {P : State → Prop} (cFcr : Blind.fcr P) (cPwr : Blind.pwr P) {s : State} (h : P s)  :
    P (State.qtoReport s) := by
  unfold State.qtoReport
  repeat' (first | with_reducible assumption | intro _ | with_reducible apply State.setPwr_keeps
                           | with_reducible apply State.detect_keeps | with_reducible apply ite_keeps
                           | with_reducible apply foldl_keeps | with_reducible apply foldlFst_keeps
                           | with_reducible apply foldlSnd_keeps | split | dsimp only)

theorem State.zeroBank_keeps {P : State → Prop} (cMem : Blind.mem P) (cStride : Blind.stride P) {s : State} (h : P s) (b : Nat) :
    P (State.zeroBank s b) := by
  unfold State.zeroBank
  repeat' (first | with_reducible assumption | intro _ | with_reducible apply State.zero_keeps | with_reducible apply ite_keeps
                           | with_reducible apply foldl_keeps | with_reducible apply foldlFst_keeps
                           | with_reducible apply foldlSnd_keeps | split | dsimp only | with_reducible apply cStride)

theorem State.dozeSleep_keeps {P : State → Prop} (cPwr : Blind.pwr P) {s : State} (h : P s)  :
    P (State.dozeSleep s) := by
  unfold State.dozeSleep
  repeat' (first | with_reducible assumption | intro _ | with_reducible apply State.regAsk_keeps
                           | with_reducible apply State.setPwr_keeps | with_reducible apply ite_keeps
                           | with_reducible apply foldl_keeps | with_reducible apply foldlFst_keeps
                           | with_reducible apply foldlSnd_keeps | split | dsimp only)

theorem State.dozeEnter_keeps {P : State → Prop} (cTimers : Blind.timers P) (cStride : Blind.stride P)
    (cPwr : Blind.pwr P) {s : State} (h : P s) (t : Nat) :
    P (State.dozeEnter s t) := by
  unfold State.dozeEnter
  repeat' (first | with_reducible assumption | intro _ | with_reducible apply State.dozeSleep_keeps
                           | with_reducible apply State.setPwr_keeps | with_reducible apply State.ticksStop_keeps
                           | with_reducible apply State.arm_keeps | with_reducible apply ite_keeps
                           | with_reducible apply foldl_keeps | with_reducible apply foldlFst_keeps
                           | with_reducible apply foldlSnd_keeps | split | dsimp only)

theorem State.dozeResume_keeps {P : State → Prop} (o : Blind.All P) {s : State} (h : P s) (t : Nat) :
    P (State.dozeResume s t) := by
  unfold State.dozeResume
  repeat' (first | with_reducible assumption | exact o | exact o.regs | exact o.mem | exact o.stride | exact o.fcr
                           | exact o.pwr | intro _ | with_reducible apply State.zeroBank_keeps
                           | with_reducible apply State.qtoReport_keeps | with_reducible apply State.setPwr_keeps
                           | with_reducible apply State.fcrDrain_keeps | with_reducible apply State.deviceReset_keeps
                           | with_reducible apply State.detect_keeps | with_reducible apply State.setFlag_keeps
                           | with_reducible apply State.evt_keeps | with_reducible apply State.put_keeps
                           | with_reducible apply ite_keeps | with_reducible apply foldl_keeps
                           | with_reducible apply foldlFst_keeps | with_reducible apply foldlSnd_keeps | split | dsimp only
                           | with_reducible apply o.stride)

theorem State.waitEnter_keeps {P : State → Prop} (cRegs : Blind.regs P) (cTimers : Blind.timers P)
    (cPwr : Blind.pwr P) {s : State} (h : P s) (lvl : Nat) (t : Nat) :
    P (State.waitEnter s lvl t) := by
  unfold State.waitEnter
  repeat' (first | with_reducible assumption | intro _ | with_reducible apply State.setPwr_keeps
                           | with_reducible apply State.coolStart_keeps | with_reducible apply State.evt_keeps
                           | with_reducible apply State.put_keeps | with_reducible apply ite_keeps
                           | with_reducible apply foldl_keeps | with_reducible apply foldlFst_keeps
                           | with_reducible apply foldlSnd_keeps | split | dsimp only)

theorem State.coolFlush_keeps {P : State → Prop} (cRegs : Blind.regs P) (cMem : Blind.mem P) (cFcr : Blind.fcr P)
    (cPwr : Blind.pwr P) (cBook : Blind.book P) {s : State} (h : P s) (t : Nat) :
    P (State.coolFlush s t) := by
  unfold State.coolFlush
  repeat' (first | with_reducible assumption | intro _ | with_reducible apply State.setPwr_keeps
                           | with_reducible apply State.flushTrigger_keeps | with_reducible apply ite_keeps
                           | with_reducible apply foldl_keeps | with_reducible apply foldlFst_keeps
                           | with_reducible apply foldlSnd_keeps | split | dsimp only)

theorem State.coolQuiesce_keeps {P : State → Prop} (cRegs : Blind.regs P) (cMem : Blind.mem P) (cTimers : Blind.timers P)
    (cFcr : Blind.fcr P) (cPhyLines : Blind.phyLines P) (cMsh : Blind.msh P) (cSw : Blind.sw P) (cPwr : Blind.pwr P)
    (cBook : Blind.book P) {s : State} (h : P s) (t : Nat) :
    P (State.coolQuiesce s t) := by
  unfold State.coolQuiesce
  repeat' (first | with_reducible assumption | intro _ | with_reducible apply State.coolFlush_keeps
                           | with_reducible apply State.setPwr_keeps | with_reducible apply State.canStop_keeps
                           | with_reducible apply State.portStop_keeps | with_reducible apply State.phyAssert_keeps
                           | with_reducible apply State.arm_keeps | with_reducible apply State.disarm_keeps
                           | with_reducible apply ite_keeps | with_reducible apply foldl_keeps
                           | with_reducible apply foldlFst_keeps | with_reducible apply foldlSnd_keeps | split | dsimp only)

theorem State.parkEnter_keeps {P : State → Prop} (cRegs : Blind.regs P) (cTimers : Blind.timers P)
    (cEpisodes : Blind.episodes P) (cOuts : Blind.outs P) (cBridges : Blind.bridges P) (cDies : Blind.dies P)
    (cMsh : Blind.msh P) (cPwr : Blind.pwr P) (cNow : Blind.now P) {s : State} (h : P s) (t : Nat) :
    P (State.parkEnter s t) := by
  unfold State.parkEnter
  repeat' (first | with_reducible assumption | intro _ | with_reducible apply State.setPwr_keeps
                           | with_reducible apply State.dieOff_keeps | with_reducible apply State.setDie_keeps
                           | with_reducible apply State.disarm_keeps | with_reducible apply State.put_keeps
                           | with_reducible apply ite_keeps | with_reducible apply foldl_keeps
                           | with_reducible apply foldlFst_keeps | with_reducible apply foldlSnd_keeps | split | dsimp only)

theorem State.wakeTimer_keeps {P : State → Prop} (cTimers : Blind.timers P) {s : State} (h : P s) (v : Nat) (t : Nat) :
    P (State.wakeTimer s v t) := by
  unfold State.wakeTimer
  repeat' (first | with_reducible assumption | intro _ | with_reducible apply State.arm_keeps
                           | with_reducible apply State.disarm_keeps | with_reducible apply ite_keeps
                           | with_reducible apply foldl_keeps | with_reducible apply foldlFst_keeps
                           | with_reducible apply foldlSnd_keeps | split | dsimp only)

theorem execQuiesceTimeout_keeps {P : State → Prop} (cRegs : Blind.regs P) (cMem : Blind.mem P) (cTimers : Blind.timers P)
    (cFcr : Blind.fcr P) (cPwr : Blind.pwr P) (cBook : Blind.book P) (cBoot : Blind.boot P) (cNow : Blind.now P) {s : State}
    (h : P s) (t : Nat) (kinds : List Nat) :
    Next P (execQuiesceTimeout t kinds s) := by
  unfold execQuiesceTimeout
  repeat' (first | with_reducible assumption | intro _ | with_reducible apply State.coolFlush_keeps
                           | with_reducible apply State.dozeSleep_keeps | with_reducible apply State.abortOne_keeps
                           | with_reducible apply State.disarm_keeps | with_reducible apply State.reach_keeps
                           | with_reducible apply Next.of | with_reducible apply nextIte_keeps | with_reducible apply ite_keeps
                           | with_reducible apply foldl_keeps | with_reducible apply foldlFst_keeps
                           | with_reducible apply foldlSnd_keeps | split | dsimp only)

theorem execDozeWake_keeps {P : State → Prop} (cRegs : Blind.regs P) (cMem : Blind.mem P) (cTimers : Blind.timers P)
    (cPwr : Blind.pwr P) (cNow : Blind.now P) {s : State} (h : P s) (t : Nat) (decay : List (Nat × Byte)) :
    Next P (execDozeWake t decay s) := by
  unfold execDozeWake
  repeat' (first | with_reducible assumption | intro _ | with_reducible apply State.regAsk_keeps
                           | with_reducible apply State.setPwr_keeps | with_reducible apply State.setByte_keeps
                           | with_reducible apply State.arm_keeps | with_reducible apply State.reach_keeps
                           | with_reducible apply State.evt_keeps | with_reducible apply State.put_keeps
                           | with_reducible apply Next.of | with_reducible apply nextIte_keeps | with_reducible apply ite_keeps
                           | with_reducible apply foldl_keeps | with_reducible apply foldlFst_keeps
                           | with_reducible apply foldlSnd_keeps | split | dsimp only)

theorem execCooldownArmTimeout_keeps {P : State → Prop} (cRegs : Blind.regs P) (cTimers : Blind.timers P) (cPwr : Blind.pwr P)
    (cNow : Blind.now P) {s : State} (h : P s)  :
    Next P (execCooldownArmTimeout s) := by
  unfold execCooldownArmTimeout
  repeat' (first | with_reducible assumption | intro _ | with_reducible apply State.coolArm_keeps
                           | with_reducible apply State.coolStart_keeps | with_reducible apply State.onExpiry_keeps
                           | with_reducible apply Next.of | with_reducible apply nextIte_keeps | with_reducible apply ite_keeps
                           | with_reducible apply foldl_keeps | with_reducible apply foldlFst_keeps
                           | with_reducible apply foldlSnd_keeps | split | dsimp only)

theorem execCooldownUnitsStopped_keeps {P : State → Prop} (cRegs : Blind.regs P) (cMem : Blind.mem P) (cTimers : Blind.timers P)
    (cFcr : Blind.fcr P) (cPhyLines : Blind.phyLines P) (cMsh : Blind.msh P) (cSw : Blind.sw P) (cPwr : Blind.pwr P)
    (cBook : Blind.book P) (cNow : Blind.now P) {s : State} (h : P s) (t : Nat) :
    Next P (execCooldownUnitsStopped t s) := by
  unfold execCooldownUnitsStopped
  repeat' (first | with_reducible assumption | intro _ | with_reducible apply State.coolQuiesce_keeps
                           | with_reducible apply State.reach_keeps | with_reducible apply Next.of
                           | with_reducible apply nextIte_keeps | with_reducible apply ite_keeps
                           | with_reducible apply foldl_keeps | with_reducible apply foldlFst_keeps
                           | with_reducible apply foldlSnd_keeps | split | dsimp only)

theorem execCooldownTimeout_keeps {P : State → Prop} (cRegs : Blind.regs P) (cMem : Blind.mem P) (cTimers : Blind.timers P)
    (cStride : Blind.stride P) (cFcr : Blind.fcr P) (cPhyLines : Blind.phyLines P) (cMsh : Blind.msh P) (cSw : Blind.sw P)
    (cPwr : Blind.pwr P) (cBook : Blind.book P) (cNow : Blind.now P) {s : State} (h : P s)  :
    Next P (execCooldownTimeout s) := by
  unfold execCooldownTimeout
  repeat' (first | with_reducible assumption | intro _ | with_reducible apply State.coolQuiesce_keeps
                           | with_reducible apply State.ticksStop_keeps | with_reducible apply State.onExpiry_keeps
                           | with_reducible apply State.put_keeps | with_reducible apply Next.of
                           | with_reducible apply nextIte_keeps | with_reducible apply ite_keeps
                           | with_reducible apply foldl_keeps | with_reducible apply foldlFst_keeps
                           | with_reducible apply foldlSnd_keeps | split | dsimp only)

theorem execCooldownFlushEnd_keeps {P : State → Prop} (cRegs : Blind.regs P) (cTimers : Blind.timers P)
    (cEpisodes : Blind.episodes P) (cOuts : Blind.outs P) (cBridges : Blind.bridges P) (cDies : Blind.dies P)
    (cMsh : Blind.msh P) (cPwr : Blind.pwr P) (cNow : Blind.now P) {s : State} (h : P s) (t : Nat) :
    Next P (execCooldownFlushEnd t s) := by
  unfold execCooldownFlushEnd
  repeat' (first | with_reducible assumption | intro _ | with_reducible apply State.parkEnter_keeps
                           | with_reducible apply State.reach_keeps | with_reducible apply Next.of
                           | with_reducible apply nextIte_keeps | with_reducible apply ite_keeps
                           | with_reducible apply foldl_keeps | with_reducible apply foldlFst_keeps
                           | with_reducible apply foldlSnd_keeps | split | dsimp only)

theorem execWakeInputFilter_keeps {P : State → Prop} (cRegs : Blind.regs P) (cPwr : Blind.pwr P)
    (cNow : Blind.now P) {s : State} (h : P s) (t : Nat) (j : Nat) :
    Next P (execWakeInputFilter t j s) := by
  unfold execWakeInputFilter
  repeat' (first | with_reducible assumption | intro _ | with_reducible apply State.wakeSource_keeps
                           | with_reducible apply State.reach_keeps | with_reducible apply Next.of
                           | with_reducible apply nextIte_keeps | with_reducible apply ite_keeps
                           | with_reducible apply foldl_keeps | with_reducible apply foldlFst_keeps
                           | with_reducible apply foldlSnd_keeps | split | dsimp only)

theorem execParkWake_keeps {P : State → Prop} (cTimers : Blind.timers P) (cPwr : Blind.pwr P) (cNow : Blind.now P) {s : State}
    (h : P s) (t : Nat) :
    Next P (execParkWake t s) := by
  unfold execParkWake
  repeat' (first | with_reducible assumption | intro _ | with_reducible apply State.setPwr_keeps
                           | with_reducible apply State.arm_keeps | with_reducible apply State.reach_keeps
                           | with_reducible apply Next.of | with_reducible apply nextIte_keeps | with_reducible apply ite_keeps
                           | with_reducible apply foldl_keeps | with_reducible apply foldlFst_keeps
                           | with_reducible apply foldlSnd_keeps | split | dsimp only)

theorem execPgTimeout_keeps {P : State → Prop} (cTimers : Blind.timers P) (cPwr : Blind.pwr P) (cNow : Blind.now P) {s : State}
    (h : P s)  :
    Next P (execPgTimeout s) := by
  unfold execPgTimeout
  repeat' (first | with_reducible assumption | intro _ | with_reducible apply State.setPwr_keeps
                           | with_reducible apply State.onExpiry_keeps | with_reducible apply State.arm_keeps
                           | with_reducible apply Next.of | with_reducible apply nextIte_keeps | with_reducible apply ite_keeps
                           | with_reducible apply foldl_keeps | with_reducible apply foldlFst_keeps
                           | with_reducible apply foldlSnd_keeps | split | dsimp only)

theorem execPgRise_keeps {P : State → Prop} (o : Blind.All P) {s : State} (h : P s) (t : Nat) :
    Next P (execPgRise t s) := by
  unfold execPgRise
  repeat' (first | with_reducible assumption | exact o | exact o.regs | exact o.timers | exact o.pwr | exact o.book
                           | exact o.boot | exact o.now | intro _ | with_reducible apply State.setPwr_keeps
                           | with_reducible apply State.releaseReset_keeps | with_reducible apply State.assertReset_keeps
                           | with_reducible apply State.disarm_keeps | with_reducible apply State.reach_keeps
                           | with_reducible apply State.put_keeps | with_reducible apply Next.of
                           | with_reducible apply nextIte_keeps | with_reducible apply ite_keeps
                           | with_reducible apply foldl_keeps | with_reducible apply foldlFst_keeps
                           | with_reducible apply foldlSnd_keeps | split | dsimp only)

theorem execPgFall_keeps {P : State → Prop} (cRegs : Blind.regs P) (cFcr : Blind.fcr P) (cPwr : Blind.pwr P)
    (cNow : Blind.now P) {s : State} (h : P s) (t : Nat) :
    Next P (execPgFall t s) := by
  unfold execPgFall
  repeat' (first | with_reducible assumption | intro _ | with_reducible apply State.setPwr_keeps
                           | with_reducible apply State.detect_keeps | with_reducible apply State.reach_keeps
                           | with_reducible apply State.evt_keeps | with_reducible apply Next.of
                           | with_reducible apply nextIte_keeps | with_reducible apply ite_keeps
                           | with_reducible apply foldl_keeps | with_reducible apply foldlFst_keeps
                           | with_reducible apply foldlSnd_keeps | split | dsimp only)

theorem execWakeTimerExpiry_keeps {P : State → Prop} (cRegs : Blind.regs P) (cTimers : Blind.timers P) (cPwr : Blind.pwr P)
    (cNow : Blind.now P) {s : State} (h : P s)  :
    Next P (execWakeTimerExpiry s) := by
  unfold execWakeTimerExpiry
  repeat' (first | with_reducible assumption | intro _ | with_reducible apply State.wakeSource_keeps
                           | with_reducible apply State.onExpiry_keeps | with_reducible apply Next.of
                           | with_reducible apply nextIte_keeps | with_reducible apply ite_keeps
                           | with_reducible apply foldl_keeps | with_reducible apply foldlFst_keeps
                           | with_reducible apply foldlSnd_keeps | split | dsimp only)

theorem execRegulatorRequest_keeps {P : State → Prop} (cRegs : Blind.regs P) (cTimers : Blind.timers P) (cPwr : Blind.pwr P)
    (cNow : Blind.now P) {s : State} (h : P s) (t : Nat) (ack : Bool) :
    Next P (execRegulatorRequest t ack s) := by
  unfold execRegulatorRequest
  repeat' (first | with_reducible assumption | intro _ | with_reducible apply State.regSend_keeps
                           | with_reducible apply State.arm_keeps | with_reducible apply State.reach_keeps
                           | with_reducible apply State.put_keeps | with_reducible apply Next.of
                           | with_reducible apply nextIte_keeps | with_reducible apply ite_keeps
                           | with_reducible apply foldl_keeps | with_reducible apply foldlFst_keeps
                           | with_reducible apply foldlSnd_keeps | split | dsimp only)

theorem execRegulatorCheck_keeps {P : State → Prop} (o : Blind.All P) {s : State} (h : P s) (status : Option Nat) (pg : Bool) :
    Next P (execRegulatorCheck status pg s) := by
  unfold execRegulatorCheck
  repeat' (first | with_reducible assumption | exact o | exact o.regs | exact o.timers | exact o.pwr | exact o.now | intro _
                           | with_reducible apply State.regSend_keeps | with_reducible apply State.regFail_keeps
                           | with_reducible apply State.regDone_keeps | with_reducible apply State.onExpiry_keeps
                           | with_reducible apply State.put_keeps | with_reducible apply Next.of
                           | with_reducible apply nextIte_keeps | with_reducible apply ite_keeps
                           | with_reducible apply foldl_keeps | with_reducible apply foldlFst_keeps
                           | with_reducible apply foldlSnd_keeps | split | dsimp only)

theorem execRegulatorRetry_keeps {P : State → Prop} (cTimers : Blind.timers P) (cPwr : Blind.pwr P)
    (cNow : Blind.now P) {s : State} (h : P s) (ack : Bool) :
    Next P (execRegulatorRetry ack s) := by
  unfold execRegulatorRetry
  repeat' (first | with_reducible assumption | intro _ | with_reducible apply State.regSend_keeps
                           | with_reducible apply State.onExpiry_keeps | with_reducible apply Next.of
                           | with_reducible apply nextIte_keeps | with_reducible apply ite_keeps
                           | with_reducible apply foldl_keeps | with_reducible apply foldlFst_keeps
                           | with_reducible apply foldlSnd_keeps | split | dsimp only)

theorem execRegulatorTimeout_keeps {P : State → Prop} (o : Blind.All P) {s : State} (h : P s)  :
    Next P (execRegulatorTimeout s) := by
  unfold execRegulatorTimeout
  repeat' (first | with_reducible assumption | exact o | exact o.timers | exact o.now | intro _
                           | with_reducible apply State.regFail_keeps | with_reducible apply State.onExpiry_keeps
                           | with_reducible apply Next.of | with_reducible apply nextIte_keeps | with_reducible apply ite_keeps
                           | with_reducible apply foldl_keeps | with_reducible apply foldlFst_keeps
                           | with_reducible apply foldlSnd_keeps | split | dsimp only)

end Sys2Proof.Machine
end

