-- ==== Sys2Proof/Laws/KeepsSupplies.lean ====
section
/-! SUPPORT. What the operations of Machine/Supplies.lean keep. -/
namespace Sys2Proof.Machine

theorem State.setSup_keeps {P : State → Prop} (cSup : Blind.sup P) {s : State} (h : P s) (f : SupSt → SupSt) :
    P (State.setSup s f) := by
  unfold State.setSup
  repeat' (first | with_reducible assumption | intro _ | with_reducible apply ite_keeps | with_reducible apply foldl_keeps
                           | with_reducible apply foldlFst_keeps | with_reducible apply foldlSnd_keeps | split | dsimp only
                           | with_reducible apply cSup)

theorem State.filterRun_keeps {P : State → Prop} (cSup : Blind.sup P) {s : State} (h : P s) (k : Nat) (outside : Bool) (f : Nat)
    (t : Nat) :
    P (State.filterRun s k outside f t).2 := by
  unfold State.filterRun
  repeat' (first | with_reducible assumption | intro _ | with_reducible apply State.setSup_keeps
                           | with_reducible apply ite_keeps | with_reducible apply foldl_keeps
                           | with_reducible apply foldlFst_keeps | with_reducible apply foldlSnd_keeps | split | dsimp only)

theorem State.supCond_keeps {P : State → Prop} (cRegs : Blind.regs P) (cFcr : Blind.fcr P) {s : State} (h : P s) (fld : Fld)
    (bit : Nat) (src : Nat) (evt : Nat) (hit : Bool) (inside : Bool) :
    P (State.supCond s fld bit src evt hit inside) := by
  unfold State.supCond
  repeat' (first | with_reducible assumption | intro _ | with_reducible apply State.detect_keeps
                           | with_reducible apply State.clrFlag_keeps | with_reducible apply State.setFlag_keeps
                           | with_reducible apply State.evt_keeps | with_reducible apply ite_keeps
                           | with_reducible apply foldl_keeps | with_reducible apply foldlFst_keeps
                           | with_reducible apply foldlSnd_keeps | split | dsimp only)

theorem State.monitor_keeps {P : State → Prop} (cRegs : Blind.regs P) (cFcr : Blind.fcr P) (cSup : Blind.sup P) {s : State}
    (h : P s) (k : Nat) (outside : Bool) (inside : Bool) (f : Nat) (t : Nat) (fld : Fld) (bit : Nat) (src : Nat) (evt : Nat) :
    P (State.monitor s k outside inside f t fld bit src evt) := by
  unfold State.monitor
  repeat' (first | with_reducible assumption | intro _ | with_reducible apply State.supCond_keeps
                           | with_reducible apply State.filterRun_keeps | with_reducible apply ite_keeps
                           | with_reducible apply foldl_keeps | with_reducible apply foldlFst_keeps
                           | with_reducible apply foldlSnd_keeps | split | dsimp only)

theorem State.ratings_keeps {P : State → Prop} (cRegs : Blind.regs P) (cMem : Blind.mem P) (cEpisodes : Blind.episodes P)
    (cFcr : Blind.fcr P) (cSup : Blind.sup P) {s : State} (h : P s) (v : Int) (t : Nat) :
    P (State.ratings s v t) := by
  unfold State.ratings
  repeat' (first | with_reducible assumption | intro _ | with_reducible apply State.filterRun_keeps
                           | with_reducible apply State.setSup_keeps | with_reducible apply State.yieldClose_keeps
                           | with_reducible apply State.yieldOpen_keeps | with_reducible apply ite_keeps
                           | with_reducible apply foldl_keeps | with_reducible apply foldlFst_keeps
                           | with_reducible apply foldlSnd_keeps | split | dsimp only)

theorem State.vbatValid_keeps {P : State → Prop} (cRegs : Blind.regs P) (cSup : Blind.sup P) {s : State} (h : P s) (a : Int)
    (b : Int) (raw : Bool) (t : Nat) :
    P (State.vbatValid s a b raw t) := by
  unfold State.vbatValid
  repeat' (first | with_reducible assumption | intro _ | with_reducible apply State.filterRun_keeps
                           | with_reducible apply State.setSup_keeps | with_reducible apply State.evt_keeps
                           | with_reducible apply State.put_keeps | with_reducible apply ite_keeps
                           | with_reducible apply foldl_keeps | with_reducible apply foldlFst_keeps
                           | with_reducible apply foldlSnd_keeps | split | dsimp only)

theorem State.reverseEnds_keeps {P : State → Prop} (cRegs : Blind.regs P) (cOuts : Blind.outs P)
    (cReverseAt : Blind.reverseAt P) {s : State} (h : P s) (v : Int) :
    P (State.reverseEnds s v) := by
  unfold State.reverseEnds
  repeat' (first | with_reducible assumption | intro _ | with_reducible apply State.setOut_keeps
                           | with_reducible apply State.put_keeps | with_reducible apply ite_keeps
                           | with_reducible apply foldl_keeps | with_reducible apply foldlFst_keeps
                           | with_reducible apply foldlSnd_keeps | split | dsimp only | with_reducible apply cReverseAt)

theorem State.vbatExtremes_keeps {P : State → Prop} (cRegs : Blind.regs P) (cSup : Blind.sup P) {s : State} (h : P s) (v : Int) :
    P (State.vbatExtremes s v) := by
  unfold State.vbatExtremes
  repeat' (first | with_reducible assumption | intro _ | with_reducible apply State.setSup_keeps
                           | with_reducible apply State.put_keeps | with_reducible apply ite_keeps
                           | with_reducible apply foldl_keeps | with_reducible apply foldlFst_keeps
                           | with_reducible apply foldlSnd_keeps | split | dsimp only)

theorem State.supWindow_keeps {P : State → Prop} (cSup : Blind.sup P) {s : State} (h : P s)  :
    P (State.supWindow s) := by
  unfold State.supWindow
  repeat' (first | with_reducible assumption | intro _ | with_reducible apply State.setSup_keeps
                           | with_reducible apply ite_keeps | with_reducible apply foldl_keeps
                           | with_reducible apply foldlFst_keeps | with_reducible apply foldlSnd_keeps | split | dsimp only)

theorem State.mmClear_keeps {P : State → Prop} (cRegs : Blind.regs P) {s : State} (h : P s)  :
    P (State.mmClear s) := by
  unfold State.mmClear
  repeat' (first | with_reducible assumption | intro _ | with_reducible apply State.put_keeps | with_reducible apply ite_keeps
                           | with_reducible apply foldl_keeps | with_reducible apply foldlFst_keeps
                           | with_reducible apply foldlSnd_keeps | split | dsimp only)

theorem execVbatConversion_keeps {P : State → Prop} (cRegs : Blind.regs P) (cMem : Blind.mem P) (cTimers : Blind.timers P)
    (cEpisodes : Blind.episodes P) (cFcr : Blind.fcr P) (cOuts : Blind.outs P) (cDins : Blind.dins P)
    (cReverseAt : Blind.reverseAt P) (cMsh : Blind.msh P) (cSup : Blind.sup P) (cNow : Blind.now P) {s : State} (h : P s)
    (t : Nat) (a : Int) (b : Int) :
    Next P (execVbatConversion t a b s) := by
  unfold execVbatConversion
  repeat' (first | with_reducible assumption | intro _ | with_reducible apply State.vbatExtremes_keeps
                           | with_reducible apply State.reverseEnds_keeps | with_reducible apply State.vbatValid_keeps
                           | with_reducible apply State.ratings_keeps | with_reducible apply State.monitor_keeps
                           | with_reducible apply State.setSup_keeps | with_reducible apply State.dinVbat_keeps
                           | with_reducible apply State.pulseRetry_keeps | with_reducible apply State.mshVbat_keeps
                           | with_reducible apply State.reach_keeps | with_reducible apply State.evt_keeps
                           | with_reducible apply State.count_keeps | with_reducible apply State.put_keeps
                           | with_reducible apply Next.of | with_reducible apply nextIte_keeps | with_reducible apply ite_keeps
                           | with_reducible apply foldl_keeps | with_reducible apply foldlFst_keeps
                           | with_reducible apply foldlSnd_keeps | split | dsimp only)

theorem execRailConversion_keeps {P : State → Prop} (cRegs : Blind.regs P) (cFcr : Blind.fcr P) (cSup : Blind.sup P)
    (cNow : Blind.now P) {s : State} (h : P s) (t : Nat) (vcore : Nat) (vser : Nat) (vio : Nat) (keep : Nat) (tcd : Int)
    (tbp : Int) :
    Next P (execRailConversion t vcore vser vio keep tcd tbp s) := by
  unfold execRailConversion
  repeat' (first | with_reducible assumption | intro _ | with_reducible apply State.monitor_keeps
                           | with_reducible apply State.setSup_keeps | with_reducible apply State.reach_keeps
                           | with_reducible apply State.put_keeps | with_reducible apply Next.of
                           | with_reducible apply nextIte_keeps | with_reducible apply ite_keeps
                           | with_reducible apply foldl_keeps | with_reducible apply foldlFst_keeps
                           | with_reducible apply foldlSnd_keeps | split | dsimp only)

end Sys2Proof.Machine
end

