-- ==== Sys2Proof/Laws/KeepsBoot.lean ====
section
/-! SUPPORT. What the operations of Machine/Boot.lean keep. -/
namespace Sys2Proof.Machine

theorem State.loadImg_keeps {P : State → Prop} (cRegs : Blind.regs P) {s : State} (h : P s)  :
    P (State.loadImg s) := by
  unfold State.loadImg
  repeat' (first | with_reducible assumption | intro _ | with_reducible apply State.wr_keeps | with_reducible apply ite_keeps
                           | with_reducible apply foldl_keeps | with_reducible apply foldlFst_keeps
                           | with_reducible apply foldlSnd_keeps | split | dsimp only)

theorem State.applyImage_keeps {P : State → Prop} (cRegs : Blind.regs P) (cImg : Blind.img P) (cFcr : Blind.fcr P)
    (cSw : Blind.sw P) {s : State} (h : P s)  :
    P (State.applyImage s) := by
  unfold State.applyImage
  repeat' (first | with_reducible assumption | intro _ | with_reducible apply State.loadImg_keeps
                           | with_reducible apply State.loadStream_keeps | with_reducible apply State.detect_keeps
                           | with_reducible apply State.evt_keeps | with_reducible apply State.put_keeps
                           | with_reducible apply ite_keeps | with_reducible apply foldl_keeps
                           | with_reducible apply foldlFst_keeps | with_reducible apply foldlSnd_keeps | split | dsimp only
                           | with_reducible apply cImg)

theorem State.vaultCheck_keeps {P : State → Prop} (cFcr : Blind.fcr P) (cVault : Blind.vault P) {s : State} (h : P s)
    (bad : List Nat) :
    P (State.vaultCheck s bad) := by
  unfold State.vaultCheck
  repeat' (first | with_reducible assumption | intro _ | with_reducible apply State.setVault_keeps
                           | with_reducible apply State.detect_keeps | with_reducible apply ite_keeps
                           | with_reducible apply foldl_keeps | with_reducible apply foldlFst_keeps
                           | with_reducible apply foldlSnd_keeps | split | dsimp only)

theorem State.loadDies_keeps {P : State → Prop} (cRegs : Blind.regs P) (cMem : Blind.mem P) (cTimers : Blind.timers P)
    (cEpisodes : Blind.episodes P) (cFcr : Blind.fcr P) (cOuts : Blind.outs P) (cValves : Blind.valves P)
    (cBridges : Blind.bridges P) (cDies : Blind.dies P) (cMsh : Blind.msh P) (cNow : Blind.now P) {s : State} (h : P s)
    (t : Nat) :
    P (State.loadDies s t) := by
  unfold State.loadDies
  repeat' (first | with_reducible assumption | intro _ | with_reducible apply State.linkBack_keeps
                           | with_reducible apply State.diePattern_keeps | with_reducible apply State.enterFs_keeps
                           | with_reducible apply State.armHeat_keeps | with_reducible apply State.setDie_keeps
                           | with_reducible apply State.put_keeps | with_reducible apply ite_keeps
                           | with_reducible apply foldl_keeps | with_reducible apply foldlFst_keeps
                           | with_reducible apply foldlSnd_keeps | split | dsimp only)

theorem State.regWarm_keeps {P : State → Prop} (cRegs : Blind.regs P) (cFcr : Blind.fcr P) (cPwr : Blind.pwr P)
    (cNow : Blind.now P) {s : State} (h : P s) (mode : Nat) (t : Nat) :
    P (State.regWarm s mode t) := by
  unfold State.regWarm
  repeat' (first | with_reducible assumption | intro _ | with_reducible apply State.regAsk_keeps
                           | with_reducible apply State.setPwr_keeps | with_reducible apply State.detect_keeps
                           | with_reducible apply State.reach_keeps | with_reducible apply State.evt_keeps
                           | with_reducible apply State.put_keeps | with_reducible apply ite_keeps
                           | with_reducible apply foldl_keeps | with_reducible apply foldlFst_keeps
                           | with_reducible apply foldlSnd_keeps | split | dsimp only)

theorem State.recover_keeps {P : State → Prop} (cRegs : Blind.regs P) (cBoot : Blind.boot P) {s : State} (h : P s)  :
    P (State.recover s) := by
  unfold State.recover
  repeat' (first | with_reducible assumption | (exact fun hb => hb) | intro _ | with_reducible apply State.put_keeps
                           | with_reducible apply ite_keeps | with_reducible apply foldl_keeps
                           | with_reducible apply foldlFst_keeps | with_reducible apply foldlSnd_keeps | exact Nat.le_refl _
                           | exact Nat.le_succ _ | exact Nat.le_add_right _ _ | exact Nat.le_max_left _ _ | rfl | split
                           | dsimp only | with_reducible apply cBoot)

theorem State.fwCopy_keeps {P : State → Prop} (cMem : Blind.mem P) {s : State} (h : P s) (a : Nat) :
    P (State.fwCopy s a) := by
  unfold State.fwCopy
  repeat' (first | with_reducible assumption | intro _ | with_reducible apply State.setBytes_keeps
                           | with_reducible apply ite_keeps | with_reducible apply foldl_keeps
                           | with_reducible apply foldlFst_keeps | with_reducible apply foldlSnd_keeps | split | dsimp only)

theorem State.fwErase_keeps {P : State → Prop} (cMem : Blind.mem P) {s : State} (h : P s) (a : Nat) :
    P (State.fwErase s a) := by
  unfold State.fwErase
  repeat' (first | with_reducible assumption | intro _ | with_reducible apply State.zero_keeps | with_reducible apply ite_keeps
                           | with_reducible apply foldl_keeps | with_reducible apply foldlFst_keeps
                           | with_reducible apply foldlSnd_keeps | split | dsimp only)

theorem State.fwTry_keeps {P : State → Prop} (cMem : Blind.mem P) (cFcr : Blind.fcr P) {s : State} (h : P s) (i : Nat)
    (ecc : Bool) :
    P (State.fwTry s i ecc).2 := by
  unfold State.fwTry
  repeat' (first | with_reducible assumption | intro _ | with_reducible apply State.fwErase_keeps
                           | with_reducible apply State.fwCopy_keeps | with_reducible apply State.detect_keeps
                           | with_reducible apply ite_keeps | with_reducible apply foldl_keeps
                           | with_reducible apply foldlFst_keeps | with_reducible apply foldlSnd_keeps | split | dsimp only)

theorem State.fwAccept_keeps {P : State → Prop} (cRegs : Blind.regs P) (cBoot : Blind.boot P) {s : State} (h : P s) (i : Nat) :
    P (State.fwAccept s i) := by
  unfold State.fwAccept
  repeat' (first | with_reducible assumption | (exact fun hb => hb) | intro _ | with_reducible apply State.put_keeps
                           | with_reducible apply ite_keeps | with_reducible apply foldl_keeps
                           | with_reducible apply foldlFst_keeps | with_reducible apply foldlSnd_keeps | exact Nat.le_refl _
                           | exact Nat.le_succ _ | exact Nat.le_add_right _ _ | exact Nat.le_max_left _ _ | rfl | split
                           | dsimp only | with_reducible apply cBoot)

theorem State.pacHalt_keeps {P : State → Prop} (cRegs : Blind.regs P) (cStride : Blind.stride P)
    (cPac : Blind.pac P) {s : State} (h : P s) (ctx : Nat) (cause : Nat) (pc : Nat) (t : Nat) :
    P (State.pacHalt s ctx cause pc t) := by
  unfold State.pacHalt
  repeat' (first | with_reducible assumption | intro _ | with_reducible apply State.count_keeps
                           | with_reducible apply State.put_keeps | with_reducible apply ite_keeps
                           | with_reducible apply foldl_keeps | with_reducible apply foldlFst_keeps
                           | with_reducible apply foldlSnd_keeps | split | dsimp only | with_reducible apply with_pac_stride
                           | with_reducible apply cStride | with_reducible apply cPac)

theorem State.startService_keeps {P : State → Prop} (cRegs : Blind.regs P) (cStride : Blind.stride P) (cPac : Blind.pac P)
    (cBoot : Blind.boot P) {s : State} (h : P s) (t : Nat) :
    P (State.startService s t) := by
  unfold State.startService
  repeat' (first | with_reducible assumption | (exact fun hb => hb) | intro _ | with_reducible apply State.pacHalt_keeps
                           | with_reducible apply State.put_keeps | with_reducible apply ite_keeps
                           | with_reducible apply foldl_keeps | with_reducible apply foldlFst_keeps
                           | with_reducible apply foldlSnd_keeps | exact Nat.le_refl _ | exact Nat.le_succ _
                           | exact Nat.le_add_right _ _ | exact Nat.le_max_left _ _ | rfl | split | dsimp only
                           | with_reducible apply with_pac_stride_boot | with_reducible apply with_pac_stride_boot
                           | with_reducible apply cStride | with_reducible apply cPac | with_reducible apply cBoot)

theorem State.nvGo_keeps {P : State → Prop} (cRegs : Blind.regs P) (cBoot : Blind.boot P) {s : State} (h : P s)  :
    P (State.nvGo s) := by
  unfold State.nvGo
  repeat' (first | with_reducible assumption | (exact fun hb => hb) | intro _ | with_reducible apply State.put_keeps
                           | with_reducible apply ite_keeps | with_reducible apply foldl_keeps
                           | with_reducible apply foldlFst_keeps | with_reducible apply foldlSnd_keeps | exact Nat.le_refl _
                           | exact Nat.le_succ _ | exact Nat.le_add_right _ _ | exact Nat.le_max_left _ _ | rfl | split
                           | dsimp only | with_reducible apply cBoot)

theorem State.svCommit_keeps {P : State → Prop} (cRegs : Blind.regs P) (cBoot : Blind.boot P) {s : State} (h : P s)  :
    P (State.svCommit s) := by
  unfold State.svCommit
  repeat' (first | with_reducible assumption | (exact fun hb => hb) | intro _ | with_reducible apply State.put_keeps
                           | with_reducible apply ite_keeps | with_reducible apply foldl_keeps
                           | with_reducible apply foldlFst_keeps | with_reducible apply foldlSnd_keeps | exact Nat.le_refl _
                           | exact Nat.le_succ _ | exact Nat.le_add_right _ _ | exact Nat.le_max_left _ _ | rfl | split
                           | dsimp only | with_reducible apply cBoot)

theorem State.toField_keeps {P : State → Prop} (o : Blind.All P) {s : State} (h : P s) (t : Nat) :
    P (State.toField s t) := by
  unfold State.toField
  repeat' (first | with_reducible assumption | exact o | exact o.regs | (exact fun hb => hb) | intro _
                           | with_reducible apply State.deviceReset_keeps | with_reducible apply State.put_keeps
                           | with_reducible apply ite_keeps | with_reducible apply foldl_keeps
                           | with_reducible apply foldlFst_keeps | with_reducible apply foldlSnd_keeps | exact Nat.le_refl _
                           | exact Nat.le_succ _ | exact Nat.le_add_right _ _ | exact Nat.le_max_left _ _ | rfl | split
                           | dsimp only | with_reducible apply o.boot)

theorem execWarmUp_keeps {P : State → Prop} (cRegs : Blind.regs P) (cImg : Blind.img P) (cCfgAct : Blind.cfgAct P)
    (cMem : Blind.mem P) (cTimers : Blind.timers P) (cEpisodes : Blind.episodes P) (cQueues : Blind.queues P)
    (cFcr : Blind.fcr P) (cOuts : Blind.outs P) (cValves : Blind.valves P) (cBridges : Blind.bridges P) (cDins : Blind.dins P)
    (cDies : Blind.dies P) (cMsh : Blind.msh P) (cTchs : Blind.tchs P) (cSw : Blind.sw P) (cPwr : Blind.pwr P)
    (cVault : Blind.vault P) (cAcc : Blind.acc P) (cBoot : Blind.boot P) (cNow : Blind.now P) {s : State} (h : P s)
    (factory : Bool) (bad : List Nat) (voutMode : Nat) :
    Next P (execWarmUp factory bad voutMode s) := by
  unfold execWarmUp
  repeat' (first | with_reducible assumption | (exact fun hb => hb) | intro _ | with_reducible apply State.recover_keeps
                           | with_reducible apply State.regWarm_keeps | with_reducible apply State.loadDies_keeps
                           | with_reducible apply State.vaultCheck_keeps | with_reducible apply State.applyImage_keeps
                           | with_reducible apply State.xoscStart_keeps | with_reducible apply State.pageStart_keeps
                           | with_reducible apply State.startLockout_keeps | with_reducible apply State.swFree_keeps
                           | with_reducible apply State.detect_keeps | with_reducible apply State.reach_keeps
                           | with_reducible apply State.put_keeps | with_reducible apply Next.of
                           | with_reducible apply nextIte_keeps | with_reducible apply ite_keeps
                           | with_reducible apply foldl_keeps | with_reducible apply foldlFst_keeps
                           | with_reducible apply foldlSnd_keeps | exact Nat.le_refl _ | exact Nat.le_succ _
                           | exact Nat.le_add_right _ _ | exact Nat.le_max_left _ _ | rfl | split | dsimp only
                           | with_reducible apply cCfgAct | with_reducible apply cBoot)

theorem execRampStep_keeps {P : State → Prop} (o : Blind.All P) {s : State} (h : P s)  :
    Next P (execRampStep s) := by
  unfold execRampStep
  repeat' (first | with_reducible assumption | exact o | exact o.regs | exact o.timers | exact o.now | (exact fun hb => hb)
                           | intro _ | with_reducible apply State.dozeResume_keeps | with_reducible apply State.onExpiry_keeps
                           | with_reducible apply State.arm_keeps | with_reducible apply State.put_keeps
                           | with_reducible apply Next.of | with_reducible apply nextIte_keeps | with_reducible apply ite_keeps
                           | with_reducible apply foldl_keeps | with_reducible apply foldlFst_keeps
                           | with_reducible apply foldlSnd_keeps | exact Nat.le_refl _ | exact Nat.le_succ _
                           | exact Nat.le_add_right _ _ | exact Nat.le_max_left _ _ | rfl | split | dsimp only
                           | with_reducible apply o.boot)

theorem execFirmwareVerify_keeps {P : State → Prop} (cRegs : Blind.regs P) (cMem : Blind.mem P) (cFcr : Blind.fcr P) (cBoot : Blind.boot P) (cNow : Blind.now P) {s : State} (h : P s) (t : Nat) (eccA eccB : Bool) :
    Next P (execFirmwareVerify t eccA eccB s) := by
  have h1 := State.reach_keeps cNow h t
  have hA := fun x (hx : P x) i b => State.fwTry_keeps (s := x) cMem cFcr hx i b
  unfold execFirmwareVerify
  apply Next.of
  dsimp only
  generalize s.reach t = s1 at h1 ⊢
  have ha := hA _ h1 0 eccA
  generalize s1.fwTry 0 eccA = a at ha ⊢
  have h2 := State.put_keeps cRegs ha BOOT.A a.1
  generalize a.2.put BOOT.A a.1 = s2 at h2 ⊢
  have hb := hA _ h2 1 eccB
  generalize s2.fwTry 1 eccB = b at hb ⊢
  have h3 := State.put_keeps cRegs hb BOOT.B b.1
  generalize b.2.put BOOT.B b.1 = s3 at h3 ⊢
  repeat' apply ite_keeps
  · exact h1
  · exact State.fwAccept_keeps cRegs cBoot h2 0
  · exact State.fwAccept_keeps cRegs cBoot (State.detect_keeps cFcr h3 _ _) 1
  · exact cBoot _ _ (fun hb => hb) (Nat.le_refl _) h3

theorem execWarmUpComplete_keeps {P : State → Prop} (cRegs : Blind.regs P) (cMem : Blind.mem P) (cTimers : Blind.timers P)
    (cEpisodes : Blind.episodes P) (cStride : Blind.stride P) (cFcr : Blind.fcr P) (cAge : Blind.age P) (cPwr : Blind.pwr P)
    (cNms : Blind.nms P) (cBook : Blind.book P) (cAgeing : Blind.ageing P) (cPac : Blind.pac P) (cBoot : Blind.boot P)
    (cNow : Blind.now P) {s : State} (h : P s) (t : Nat) :
    Next P (execWarmUpComplete t s) := by
  unfold execWarmUpComplete
  repeat' (first | with_reducible assumption | intro _ | with_reducible apply State.startService_keeps
                           | with_reducible apply State.recover_keeps | with_reducible apply State.qtoReport_keeps
                           | with_reducible apply State.setAgeing_keeps | with_reducible apply State.bookReload_keeps
                           | with_reducible apply State.setBook_keeps | with_reducible apply State.falseStarts_keeps
                           | with_reducible apply State.setAge_keeps | with_reducible apply State.reach_keeps
                           | with_reducible apply State.evt_keeps | with_reducible apply State.put_keeps
                           | with_reducible apply Next.of | with_reducible apply nextIte_keeps | with_reducible apply ite_keeps
                           | with_reducible apply foldl_keeps | with_reducible apply foldlFst_keeps
                           | with_reducible apply foldlSnd_keeps | split | dsimp only)

end Sys2Proof.Machine
end

