-- ==== Sys2Proof/Laws/KeepsView.lean ====
section
/-! SUPPORT. What the operations of Machine/View.lean keep. -/
namespace Sys2Proof.Machine

theorem State.setCtx_keeps {P : State → Prop} (cPac : Blind.pac P) {s : State} (h : P s) (stride : Bool) (f : CtxSt → CtxSt) :
    P (State.setCtx s stride f) := by
  unfold State.setCtx
  repeat' (first | with_reducible assumption | intro _ | with_reducible apply ite_keeps | with_reducible apply foldl_keeps
                           | with_reducible apply foldlFst_keeps | with_reducible apply foldlSnd_keeps | split | dsimp only
                           | with_reducible apply cPac)

theorem State.readReg_keeps {P : State → Prop} (cRegs : Blind.regs P) {s : State} (h : P s) (p : Nat) (off : Nat) (t : Nat)
    (src : Src) :
    P (State.readReg s p off t src).2 := by
  unfold State.readReg
  repeat' (first | with_reducible assumption | intro _ | with_reducible apply State.recRead_keeps
                           | with_reducible apply State.put_keeps | with_reducible apply ite_keeps
                           | with_reducible apply foldl_keeps | with_reducible apply foldlFst_keeps
                           | with_reducible apply foldlSnd_keeps | split | dsimp only)

end Sys2Proof.Machine
end

