-- ==== Sys2Proof/Laws/KeepsStride.lean ====
section
/-! SUPPORT. What the operations of Machine/Stride.lean keep. -/
namespace Sys2Proof.Machine

theorem State.setStride_keeps {P : State → Prop} (cStride : Blind.stride P) {s : State} (h : P s) (f : StrideSt → StrideSt) :
    P (State.setStride s f) := by
  unfold State.setStride
  repeat' (first | with_reducible assumption | intro _ | with_reducible apply ite_keeps | with_reducible apply foldl_keeps
                           | with_reducible apply foldlFst_keeps | with_reducible apply foldlSnd_keeps | split | dsimp only
                           | with_reducible apply cStride)

theorem State.applyConfig_keeps {P : State → Prop} (cCfgAct : Blind.cfgAct P) {s : State} (h : P s)  :
    P (State.applyConfig s) := by
  unfold State.applyConfig
  repeat' (first | with_reducible assumption | intro _ | with_reducible apply ite_keeps | with_reducible apply foldl_keeps
                           | with_reducible apply foldlFst_keeps | with_reducible apply foldlSnd_keeps | split | dsimp only
                           | with_reducible apply cCfgAct)

theorem State.applyShadows_keeps {P : State → Prop} (cRegs : Blind.regs P) (cShadow : Blind.shadow P) {s : State} (h : P s)  :
    P (State.applyShadows s) := by
  unfold State.applyShadows
  repeat' (first | with_reducible assumption | intro _ | with_reducible apply State.wr_keeps | with_reducible apply ite_keeps
                           | with_reducible apply foldl_keeps | with_reducible apply foldlFst_keeps
                           | with_reducible apply foldlSnd_keeps | split | dsimp only | with_reducible apply cShadow)

theorem Capture.put_keeps {P : State → Prop} {c : Capture} (h : P c.st) (k : Nat) (e : BqEntry) : P (Capture.put c k e).st := h

theorem Capture.take_keeps {P : State → Prop} (cMem : Blind.mem P) {c : Capture} (h : P c.st) (k : Nat) (refcopy carried : Bool)
    (e : BqEntry) : ∀ x, Capture.take c k refcopy carried e = some x → P x.st := by
  intro x hx
  unfold Capture.take at hx
  dsimp only at hx
  repeat' (split at hx)
  all_goals cases hx
  all_goals
    apply Capture.put_keeps
    repeat' (first | with_reducible assumption | with_reducible apply State.setByte_keeps | split | dsimp only)

theorem Capture.takeAll_keeps {P : State → Prop} (cMem : Blind.mem P) (k : Nat) (refcopy : Bool) (es : List BqEntry) {c : Capture}
    (h : P c.st) (n : Nat) : P (Capture.takeAll k refcopy es c n).1.st := by
  induction es generalizing c n with
  | nil => exact h
  | cons e es ih =>
    unfold Capture.takeAll
    split
    · exact ih (Capture.take_keeps cMem h k refcopy false e _ ‹_›) (n + 1)
    · exact h

theorem Capture.queue_keeps {P : State → Prop} (cRegs : Blind.regs P) (cMem : Blind.mem P)
    (cQueues : Blind.queues P) {c : Capture} (h : P c.st) (k cut : Nat) :
    P (Capture.queue c k cut).st := by
  unfold Capture.queue
  dsimp only
  split
  · exact State.put_keeps cRegs h _ _
  · refine State.put_keeps cRegs (State.setQueue_keeps cQueues (Capture.takeAll_keeps cMem _ _ _ ?_ _) _ _) _ _
    refine foldl_inv (Q := fun (c : Capture) => P c.st) h (fun d e hd => ?_)
    cases ht : d.take k (c.st.flag (BQ.REFCOPY k)) true e with
    | none => exact hd
    | some x => exact Capture.take_keeps cMem hd _ _ _ _ _ ht

theorem State.markLate_keeps {P : State → Prop} (cRegs : Blind.regs P) (cMem : Blind.mem P)
    (cQueues : Blind.queues P) {s : State} (h : P s)  :
    P (State.markLate s) := by
  unfold State.markLate
  repeat' (first | with_reducible assumption | intro _ | with_reducible apply State.setQueue_keeps
                           | with_reducible apply State.evt_keeps | with_reducible apply State.count_keeps
                           | with_reducible apply ite_keeps | with_reducible apply foldl_keeps
                           | with_reducible apply foldlFst_keeps | with_reducible apply foldlSnd_keeps | split | dsimp only)

theorem State.startStride_keeps {P : State → Prop} (cStride : Blind.stride P) (cPac : Blind.pac P) {s : State} (h : P s)
    (t : Nat) :
    P (State.startStride s t) := by
  unfold State.startStride
  repeat' (first | with_reducible assumption | intro _ | with_reducible apply State.setStride_keeps
                           | with_reducible apply ite_keeps | with_reducible apply foldl_keeps
                           | with_reducible apply foldlFst_keeps | with_reducible apply foldlSnd_keeps | split | dsimp only
                           | with_reducible apply cPac)

theorem State.cutOff_keeps {P : State → Prop} (cRegs : Blind.regs P) (cMem : Blind.mem P) (cEpisodes : Blind.episodes P)
    (cStride : Blind.stride P) (cQueues : Blind.queues P) (cFcr : Blind.fcr P) (cPac : Blind.pac P)
    (cNow : Blind.now P) {s : State} (h : P s) (t : Nat) : P (State.cutOff s t) := by
  unfold State.cutOff
  have h1 := State.markLate_keeps cRegs cMem cQueues (State.reach_keeps cNow h t)
  generalize (State.reach s t).markLate = s1 at h1 ⊢
  dsimp only
  have h2 : P (if s1.strideStarts = true then (List.range 32).foldl (fun c k => Capture.queue c k (State.cycleOf s1 t))
      { st := s1, count := 0, cells := [], bulk := [], free := 0x22000, used := 0x22000,
        reserve := s1.carryNeed, dir := [], taken := [], flags := 0 } else
      { st := (List.range 32).foldl (fun s k => s.put (BQ.HELD k) 0) s1, count := 0, cells := [], bulk := [], free := 0x22000,
        used := 0x22000, reserve := s1.carryNeed, dir := [], taken := [], flags := 0 }).st := by
    split
    · exact foldl_inv (Q := fun (c : Capture) => P c.st) h1 (fun c k hc => Capture.queue_keeps cRegs cMem cQueues hc _ _)
    · exact foldl_keeps h1 (fun _ _ hs => State.put_keeps cRegs hs _ _)
  generalize (if s1.strideStarts = true then (List.range 32).foldl _ _ else _ : Capture) = c at h2 ⊢
  repeat' (first | with_reducible assumption | intro _ | with_reducible apply State.startStride_keeps
                           | with_reducible apply State.markLate_keeps | with_reducible apply State.setStride_keeps
                           | with_reducible apply State.feedSnapshot_keeps | with_reducible apply State.reach_keeps
                           | with_reducible apply State.evt_keeps | with_reducible apply State.count_keeps
                           | with_reducible apply State.put_keeps | with_reducible apply ite_keeps
                           | with_reducible apply foldl_keeps | with_reducible apply foldlFst_keeps
                           | with_reducible apply foldlSnd_keeps | split | dsimp only | with_reducible apply cPac)

theorem State.replayMiss_keeps {P : State → Prop} (cRegs : Blind.regs P) {s : State} (h : P s) (b : Nat) :
    P (State.replayMiss s b) := by
  unfold State.replayMiss
  repeat' (first | with_reducible assumption | intro _ | with_reducible apply State.setFlag_keeps
                           | with_reducible apply State.evt_keeps | with_reducible apply State.count_keeps
                           | with_reducible apply ite_keeps | with_reducible apply foldl_keeps
                           | with_reducible apply foldlFst_keeps | with_reducible apply foldlSnd_keeps | split | dsimp only)

theorem State.replayDone_keeps {P : State → Prop} (cRegs : Blind.regs P) {s : State} (h : P s) (over_ : Bool) :
    P (State.replayDone s over_) := by
  unfold State.replayDone
  repeat' (first | with_reducible assumption | intro _ | with_reducible apply State.replayMiss_keeps
                           | with_reducible apply State.setFlag_keeps | with_reducible apply ite_keeps
                           | with_reducible apply foldl_keeps | with_reducible apply foldlFst_keeps
                           | with_reducible apply foldlSnd_keeps | split | dsimp only)

theorem State.finStride_keeps {P : State → Prop} (cRegs : Blind.regs P) (cMem : Blind.mem P) (cStride : Blind.stride P)
    (cQueues : Blind.queues P) (cFcr : Blind.fcr P) (cScan : Blind.scan P) (cCal : Blind.cal P) (cNow : Blind.now P) {s : State}
    (h : P s) (t : Nat) :
    P (State.finStride s t) := by
  unfold State.finStride
  repeat' (first | with_reducible assumption | intro _ | with_reducible apply State.replayDone_keeps
                           | with_reducible apply State.setStride_keeps | with_reducible apply State.stageFrame_keeps
                           | with_reducible apply State.stageCal_keeps | with_reducible apply State.evt_keeps
                           | with_reducible apply State.put_keeps | with_reducible apply ite_keeps
                           | with_reducible apply foldl_keeps | with_reducible apply foldlFst_keeps
                           | with_reducible apply foldlSnd_keeps | split | dsimp only)

theorem State.overrunAt_keeps {P : State → Prop} (cRegs : Blind.regs P) (cShadow : Blind.shadow P) (cMem : Blind.mem P)
    (cEpisodes : Blind.episodes P) (cStride : Blind.stride P) (cFcr : Blind.fcr P) (cValves : Blind.valves P)
    (cScan : Blind.scan P) (cCal : Blind.cal P) (cMsh : Blind.msh P) (cNow : Blind.now P) {s : State} (h : P s) (t : Nat) :
    P (State.overrunAt s t) := by
  unfold State.overrunAt
  repeat' (first | with_reducible assumption | intro _ | with_reducible apply State.replayDone_keeps
                           | with_reducible apply State.setStride_keeps | with_reducible apply State.mshDecide_keeps
                           | with_reducible apply State.stageFrame_keeps | with_reducible apply State.stageCal_keeps
                           | with_reducible apply State.yieldOnce_keeps | with_reducible apply State.detect_keeps
                           | with_reducible apply State.evt_keeps | with_reducible apply State.count_keeps
                           | with_reducible apply ite_keeps | with_reducible apply foldl_keeps
                           | with_reducible apply foldlFst_keeps | with_reducible apply foldlSnd_keeps | split | dsimp only
                           | with_reducible apply cShadow)

theorem State.planTick_keeps {P : State → Prop} (cStride : Blind.stride P) {s : State} (h : P s) (from_ : Nat) :
    P (State.planTick s from_) := by
  unfold State.planTick
  repeat' (first | with_reducible assumption | intro _ | with_reducible apply State.setStride_keeps
                           | with_reducible apply ite_keeps | with_reducible apply foldl_keeps
                           | with_reducible apply foldlFst_keeps | with_reducible apply foldlSnd_keeps | split | dsimp only)

theorem State.measureTick_keeps {P : State → Prop} (cRegs : Blind.regs P) (cMem : Blind.mem P)
    (cQueues : Blind.queues P) {s : State} (h : P s)  :
    P (State.measureTick s) := by
  unfold State.measureTick
  repeat' (first | with_reducible assumption | intro _ | with_reducible apply State.evt_keeps
                           | with_reducible apply State.put_keeps | with_reducible apply ite_keeps
                           | with_reducible apply foldl_keeps | with_reducible apply foldlFst_keeps
                           | with_reducible apply foldlSnd_keeps | split | dsimp only)

theorem State.openStride_keeps {P : State → Prop} (cRegs : Blind.regs P) (cMem : Blind.mem P) (cStride : Blind.stride P)
    (cQueues : Blind.queues P) (cMsh : Blind.msh P) {s : State} (h : P s)  :
    P (State.openStride s) := by
  unfold State.openStride
  repeat' (first | with_reducible assumption | intro _ | with_reducible apply State.measureTick_keeps
                           | with_reducible apply State.setStride_keeps | with_reducible apply State.setLap_keeps
                           | with_reducible apply State.evt_keeps | with_reducible apply State.put_keeps
                           | with_reducible apply ite_keeps | with_reducible apply foldl_keeps
                           | with_reducible apply foldlFst_keeps | with_reducible apply foldlSnd_keeps | split | dsimp only
                           | with_reducible apply cMsh)

theorem State.closeWindows_keeps {P : State → Prop} (cTmrs : Blind.tmrs P) (cTchs : Blind.tchs P) (cSw : Blind.sw P)
    (cNms : Blind.nms P) (cCans : Blind.cans P) (cAcc : Blind.acc P) (cSup : Blind.sup P) {s : State} (h : P s)  :
    P (State.closeWindows s) := by
  unfold State.closeWindows
  repeat' (first | with_reducible assumption | intro _ | with_reducible apply State.supWindow_keeps
                           | with_reducible apply State.setAcc_keeps | with_reducible apply State.canWindow_keeps
                           | with_reducible apply State.setNm_keeps | with_reducible apply State.swWindow_keeps
                           | with_reducible apply State.tmrWindow_keeps | with_reducible apply ite_keeps
                           | with_reducible apply foldl_keeps | with_reducible apply foldlFst_keeps
                           | with_reducible apply foldlSnd_keeps | split | dsimp only)

theorem State.testsEnd_keeps {P : State → Prop} (cTimers : Blind.timers P) (cOuts : Blind.outs P) {s : State} (h : P s)
    (old : State) :
    P (State.testsEnd s old) := by
  unfold State.testsEnd
  repeat' (first | with_reducible assumption | intro _ | with_reducible apply State.setOut_keeps
                           | with_reducible apply State.disarm_keeps | with_reducible apply ite_keeps
                           | with_reducible apply foldl_keeps | with_reducible apply foldlFst_keeps
                           | with_reducible apply foldlSnd_keeps | split | dsimp only)

theorem State.applyCommit_keeps {P : State → Prop} (cRegs : Blind.regs P) (cShadow : Blind.shadow P) (cCfgAct : Blind.cfgAct P)
    (cMem : Blind.mem P) (cTimers : Blind.timers P) (cEpisodes : Blind.episodes P) (cStride : Blind.stride P)
    (cQueues : Blind.queues P) (cFcr : Blind.fcr P) (cOuts : Blind.outs P) (cValves : Blind.valves P)
    (cBridges : Blind.bridges P) (cScan : Blind.scan P) (cSeq : Blind.seq P) (cCal : Blind.cal P) (cPhyLines : Blind.phyLines P)
    (cAge : Blind.age P) (cDies : Blind.dies P) (cMsh : Blind.msh P) (cTmrs : Blind.tmrs P) (cTchs : Blind.tchs P)
    (cStg : Blind.stg P) (cPwr : Blind.pwr P) (cCans : Blind.cans P) (cAcc : Blind.acc P) (cNow : Blind.now P) {s : State}
    (h : P s) (t : Nat) :
    P (State.applyCommit s t) := by
  unfold State.applyCommit
  repeat' (first | with_reducible assumption | intro _ | with_reducible apply State.testsEnd_keeps
                           | with_reducible apply State.applyShadows_keeps | with_reducible apply State.applyConfig_keeps
                           | with_reducible apply State.endSafe_keeps | with_reducible apply State.liftHolds_keeps
                           | with_reducible apply State.applyUnit_keeps | with_reducible apply State.accTick_keeps
                           | with_reducible apply State.addrTick_keeps | with_reducible apply State.nmNeed_keeps
                           | with_reducible apply State.stgTick_keeps | with_reducible apply State.tmrTick_keeps
                           | with_reducible apply State.strobeTick_keeps | with_reducible apply State.releaseDies_keeps
                           | with_reducible apply State.mshTick_keeps | with_reducible apply State.scanTick_keeps
                           | with_reducible apply State.applyColumns_keeps | with_reducible apply State.scanResume_keeps
                           | with_reducible apply State.applySeq_keeps | with_reducible apply State.applyFrame_keeps
                           | with_reducible apply State.applyCal_keeps | with_reducible apply State.applyPosLoad_keeps
                           | with_reducible apply State.ditherTick_keeps | with_reducible apply State.repattern_keeps
                           | with_reducible apply State.phyAssert_keeps | with_reducible apply ite_keeps
                           | with_reducible apply foldl_keeps | with_reducible apply foldlFst_keeps
                           | with_reducible apply foldlSnd_keeps | split | dsimp only)

theorem State.releaseStaged_keeps {P : State → Prop} (cRegs : Blind.regs P) (cStride : Blind.stride P)
    (cQueues : Blind.queues P) (cFcr : Blind.fcr P) {s : State} (h : P s) (t : Nat) :
    P (State.releaseStaged s t) := by
  unfold State.releaseStaged
  repeat' (first | with_reducible assumption | intro _ | with_reducible apply State.setStride_keeps
                           | with_reducible apply State.qPush_keeps | with_reducible apply ite_keeps
                           | with_reducible apply foldl_keeps | with_reducible apply foldlFst_keeps
                           | with_reducible apply foldlSnd_keeps | split | dsimp only)

theorem State.pushDigest_keeps {P : State → Prop} (cRegs : Blind.regs P) (cQueues : Blind.queues P)
    (cFcr : Blind.fcr P) {s : State} (h : P s) (t : Nat) :
    P (State.pushDigest s t) := by
  unfold State.pushDigest
  repeat' (first | with_reducible assumption | intro _ | with_reducible apply State.qPush_keeps
                           | with_reducible apply ite_keeps | with_reducible apply foldl_keeps
                           | with_reducible apply foldlFst_keeps | with_reducible apply foldlSnd_keeps | split | dsimp only)

theorem State.closeStride_keeps {P : State → Prop} (cStride : Blind.stride P) {s : State} (h : P s)  :
    P (State.closeStride s) := by
  unfold State.closeStride
  repeat' (first | with_reducible assumption | intro _ | with_reducible apply State.setStride_keeps
                           | with_reducible apply ite_keeps | with_reducible apply foldl_keeps
                           | with_reducible apply foldlFst_keeps | with_reducible apply foldlSnd_keeps | split | dsimp only)

theorem State.newStride_keeps {P : State → Prop} (cStride : Blind.stride P) {s : State} (h : P s)  :
    P (State.newStride s) := by
  unfold State.newStride
  repeat' (first | with_reducible assumption | intro _ | with_reducible apply State.setStride_keeps
                           | with_reducible apply ite_keeps | with_reducible apply foldl_keeps
                           | with_reducible apply foldlFst_keeps | with_reducible apply foldlSnd_keeps | split | dsimp only)

theorem State.commitTick_keeps {P : State → Prop} (cRegs : Blind.regs P) (cShadow : Blind.shadow P) (cCfgAct : Blind.cfgAct P)
    (cMem : Blind.mem P) (cTimers : Blind.timers P) (cEpisodes : Blind.episodes P) (cStride : Blind.stride P)
    (cQueues : Blind.queues P) (cFcr : Blind.fcr P) (cOuts : Blind.outs P) (cValves : Blind.valves P)
    (cBridges : Blind.bridges P) (cScan : Blind.scan P) (cSeq : Blind.seq P) (cCal : Blind.cal P) (cPhyLines : Blind.phyLines P)
    (cAge : Blind.age P) (cDies : Blind.dies P) (cMsh : Blind.msh P) (cTmrs : Blind.tmrs P) (cTchs : Blind.tchs P)
    (cStg : Blind.stg P) (cPwr : Blind.pwr P) (cCans : Blind.cans P) (cAcc : Blind.acc P) (cNow : Blind.now P) {s : State}
    (h : P s) (t : Nat) :
    P (State.commitTick s t) := by
  unfold State.commitTick
  repeat' (first | with_reducible assumption | intro _ | with_reducible apply State.newStride_keeps
                           | with_reducible apply State.pushDigest_keeps | with_reducible apply State.releaseStaged_keeps
                           | with_reducible apply State.applyCommit_keeps | with_reducible apply ite_keeps
                           | with_reducible apply foldl_keeps | with_reducible apply foldlFst_keeps
                           | with_reducible apply foldlSnd_keeps | split | dsimp only)

theorem State.tickAt_keeps {P : State → Prop} (o : Blind.All P) {s : State} (h : P s) (t : Nat) :
    P (State.tickAt s t) := by
  unfold State.tickAt
  repeat' (first | with_reducible assumption | exact o | exact o.regs | exact o.shadow | exact o.cfgAct | exact o.mem
                           | exact o.timers | exact o.episodes | exact o.stride | exact o.queues | exact o.fcr | exact o.outs
                           | exact o.valves | exact o.bridges | exact o.scan | exact o.seq | exact o.cal | exact o.dins
                           | exact o.phyLines | exact o.age | exact o.dies | exact o.msh | exact o.tmrs | exact o.tchs
                           | exact o.stg | exact o.sw | exact o.pwr | exact o.nms | exact o.cans | exact o.acc | exact o.book
                           | exact o.ageing | exact o.sup | exact o.now | intro _ | with_reducible apply State.commitTick_keeps
                           | with_reducible apply State.closeStride_keeps | with_reducible apply State.closeWindows_keeps
                           | with_reducible apply State.openStride_keeps | with_reducible apply State.planTick_keeps
                           | with_reducible apply State.overrunAt_keeps | with_reducible apply State.setStride_keeps
                           | with_reducible apply State.dozeEnter_keeps | with_reducible apply State.ticksStop_keeps
                           | with_reducible apply State.replanApply_keeps | with_reducible apply State.flushTrigger_keeps
                           | with_reducible apply State.setBook_keeps | with_reducible apply State.heartbeat_keeps
                           | with_reducible apply State.dinTick_keeps | with_reducible apply State.headroomTick_keeps
                           | with_reducible apply State.reach_keeps | with_reducible apply ite_keeps
                           | with_reducible apply foldl_keeps | with_reducible apply foldlFst_keeps
                           | with_reducible apply foldlSnd_keeps | split | dsimp only)

theorem State.replayHold_keeps {P : State → Prop} (cRegs : Blind.regs P) (cMem : Blind.mem P) (cTimers : Blind.timers P)
    (cEpisodes : Blind.episodes P) (cFcr : Blind.fcr P) (cOuts : Blind.outs P) (cValves : Blind.valves P)
    (cBridges : Blind.bridges P) (cDies : Blind.dies P) (cMsh : Blind.msh P) (cNow : Blind.now P) {s : State} (h : P s)
    (t : Nat) :
    P (State.replayHold s t) := by
  unfold State.replayHold
  repeat' (first | with_reducible assumption | intro _ | with_reducible apply State.dieFailsafe_keeps
                           | with_reducible apply ite_keeps | with_reducible apply foldl_keeps
                           | with_reducible apply foldlFst_keeps | with_reducible apply foldlSnd_keeps | split | dsimp only)

theorem State.replayEnter_keeps {P : State → Prop} (cRegs : Blind.regs P) (cMem : Blind.mem P) (cTimers : Blind.timers P)
    (cEpisodes : Blind.episodes P) (cStride : Blind.stride P) (cQueues : Blind.queues P) (cFcr : Blind.fcr P)
    (cOuts : Blind.outs P) (cValves : Blind.valves P) (cBridges : Blind.bridges P) (cDies : Blind.dies P) (cMsh : Blind.msh P)
    (cNow : Blind.now P) {s : State} (h : P s) (src : Src) (apply : Bool) (t : Nat) :
    P (State.replayEnter s src apply t) := by
  unfold State.replayEnter
  repeat' (first | with_reducible assumption | intro _ | with_reducible apply State.replayHold_keeps
                           | with_reducible apply State.setStride_keeps | with_reducible apply State.put_keeps
                           | with_reducible apply ite_keeps | with_reducible apply foldl_keeps
                           | with_reducible apply foldlFst_keeps | with_reducible apply foldlSnd_keeps | split | dsimp only)

theorem State.replayStep_keeps {P : State → Prop} (cRegs : Blind.regs P) (cShadow : Blind.shadow P) (cCfgAct : Blind.cfgAct P)
    (cMem : Blind.mem P) (cTimers : Blind.timers P) (cEpisodes : Blind.episodes P) (cStride : Blind.stride P)
    (cQueues : Blind.queues P) (cFcr : Blind.fcr P) (cOuts : Blind.outs P) (cValves : Blind.valves P)
    (cBridges : Blind.bridges P) (cScan : Blind.scan P) (cSeq : Blind.seq P) (cCal : Blind.cal P) (cPhyLines : Blind.phyLines P)
    (cAge : Blind.age P) (cDies : Blind.dies P) (cMsh : Blind.msh P) (cTmrs : Blind.tmrs P) (cTchs : Blind.tchs P)
    (cStg : Blind.stg P) (cPwr : Blind.pwr P) (cCans : Blind.cans P) (cAcc : Blind.acc P) (cPac : Blind.pac P)
    (cNow : Blind.now P) {s : State} (h : P s) (t : Nat) :
    P (State.replayStep s t) := by
  unfold State.replayStep
  repeat' (first | with_reducible assumption | intro _ | with_reducible apply State.commitTick_keeps
                           | with_reducible apply State.closeStride_keeps | with_reducible apply State.overrunAt_keeps
                           | with_reducible apply State.replayMiss_keeps | with_reducible apply State.startStride_keeps
                           | with_reducible apply State.setStride_keeps | with_reducible apply State.setLap_keeps
                           | with_reducible apply State.evt_keeps | with_reducible apply State.put_keeps
                           | with_reducible apply ite_keeps | with_reducible apply foldl_keeps
                           | with_reducible apply foldlFst_keeps | with_reducible apply foldlSnd_keeps | split | dsimp only)

theorem execTick_keeps {P : State → Prop} (o : Blind.All P) {s : State} (h : P s)  :
    Next P (execTick s) := by
  unfold execTick
  repeat' (first | with_reducible assumption | exact o | exact o.regs | exact o.queues | exact o.fcr | exact o.dins
                           | exact o.ahead | exact o.tchs | intro _ | with_reducible apply State.tickAt_keeps
                           | with_reducible apply State.aheadDue_keeps | with_reducible apply Next.of
                           | with_reducible apply nextIte_keeps | with_reducible apply ite_keeps
                           | with_reducible apply foldl_keeps | with_reducible apply foldlFst_keeps
                           | with_reducible apply foldlSnd_keeps | split | dsimp only)

theorem execCutOff_keeps {P : State → Prop} (cRegs : Blind.regs P) (cMem : Blind.mem P) (cEpisodes : Blind.episodes P)
    (cStride : Blind.stride P) (cQueues : Blind.queues P) (cFcr : Blind.fcr P) (cPac : Blind.pac P)
    (cNow : Blind.now P) {s : State} (h : P s)  :
    Next P (execCutOff s) := by
  unfold execCutOff
  repeat' (first | with_reducible assumption | intro _ | with_reducible apply State.cutOff_keeps | with_reducible apply Next.of
                           | with_reducible apply nextIte_keeps | with_reducible apply ite_keeps
                           | with_reducible apply foldl_keeps | with_reducible apply foldlFst_keeps
                           | with_reducible apply foldlSnd_keeps | split | dsimp only)

theorem execOverrun_keeps {P : State → Prop} (cRegs : Blind.regs P) (cShadow : Blind.shadow P) (cMem : Blind.mem P)
    (cEpisodes : Blind.episodes P) (cStride : Blind.stride P) (cFcr : Blind.fcr P) (cValves : Blind.valves P)
    (cScan : Blind.scan P) (cCal : Blind.cal P) (cMsh : Blind.msh P) (cNow : Blind.now P) {s : State} (h : P s)  :
    Next P (execOverrun s) := by
  unfold execOverrun
  repeat' (first | with_reducible assumption | intro _ | with_reducible apply State.overrunAt_keeps
                           | with_reducible apply State.reach_keeps | with_reducible apply Next.of
                           | with_reducible apply nextIte_keeps | with_reducible apply ite_keeps
                           | with_reducible apply foldl_keeps | with_reducible apply foldlFst_keeps
                           | with_reducible apply foldlSnd_keeps | split | dsimp only)

end Sys2Proof.Machine
end

