-- ==== Sys2Proof/Laws/KeepsRegWrite.lean ====
section
/-! SUPPORT. What the operations of Machine/RegWrite.lean keep. -/
namespace Sys2Proof.Machine

theorem State.lockClose_keeps {P : State → Prop} (cRegs : Blind.regs P) (cMem : Blind.mem P) (cTimers : Blind.timers P)
    (cQueues : Blind.queues P) {s : State} (h : P s) (p : Nat) :
    P (State.lockClose s p) := by
  unfold State.lockClose
  repeat' (first | with_reducible assumption | intro _ | with_reducible apply State.disarm_keeps
                           | with_reducible apply State.put_keeps | with_reducible apply ite_keeps
                           | with_reducible apply foldl_keeps | with_reducible apply foldlFst_keeps
                           | with_reducible apply foldlSnd_keeps | split | dsimp only)

theorem State.lockGive_keeps {P : State → Prop} (cRegs : Blind.regs P) (cMem : Blind.mem P) (cTimers : Blind.timers P)
    (cQueues : Blind.queues P) {s : State} (h : P s) (p : Nat) (c : Nat) (t : Nat) :
    P (State.lockGive s p c t) := by
  unfold State.lockGive
  repeat' (first | with_reducible assumption | intro _ | with_reducible apply State.arm_keeps
                           | with_reducible apply State.put_keeps | with_reducible apply ite_keeps
                           | with_reducible apply foldl_keeps | with_reducible apply foldlFst_keeps
                           | with_reducible apply foldlSnd_keeps | split | dsimp only)

theorem State.lockKey_keeps {P : State → Prop} (cRegs : Blind.regs P) (cMem : Blind.mem P) (cTimers : Blind.timers P)
    (cLockFirst : Blind.lockFirst P) (cQueues : Blind.queues P) {s : State} (h : P s) (src : Src) (p : Nat) (key : Nat)
    (t : Nat) :
    P (State.lockKey s src p key t) := by
  unfold State.lockKey
  repeat' (first | with_reducible assumption | intro _ | with_reducible apply State.lockGive_keeps
                           | with_reducible apply State.lockClose_keeps | with_reducible apply ite_keeps
                           | with_reducible apply foldl_keeps | with_reducible apply foldlFst_keeps
                           | with_reducible apply foldlSnd_keeps | split | dsimp only | with_reducible apply cLockFirst)

theorem State.reject_keeps {P : State → Prop} (cRegs : Blind.regs P) (cMem : Blind.mem P) (cQueues : Blind.queues P) {s : State}
    (h : P s) (w : Wr) (c : Cause) :
    P (State.reject s w c) := by
  unfold State.reject
  repeat' (first | with_reducible assumption | intro _ | with_reducible apply State.count_keeps
                           | with_reducible apply State.put_keeps | with_reducible apply ite_keeps
                           | with_reducible apply foldl_keeps | with_reducible apply foldlFst_keeps
                           | with_reducible apply foldlSnd_keeps | split | dsimp only)

theorem State.ctrlWrite_keeps {P : State → Prop} (o : Blind.All P) {s : State} (h : P s) (w : Wr) :
    P (State.ctrlWrite s w) := by
  unfold State.ctrlWrite
  repeat' (first | with_reducible assumption | exact o | exact o.regs | exact o.mem | exact o.timers | exact o.episodes
                           | exact o.queues | exact o.fcr | exact o.outs | exact o.valves | exact o.bridges | exact o.dins
                           | exact o.dies | exact o.msh | exact o.tchs | exact o.sw | exact o.pwr | exact o.now | intro _
                           | with_reducible apply State.deviceReset_keeps | with_reducible apply State.pageReset_keeps
                           | with_reducible apply State.pageEnable_keeps | with_reducible apply State.put_keeps
                           | with_reducible apply State.wr_keeps | with_reducible apply ite_keeps
                           | with_reducible apply foldl_keeps | with_reducible apply foldlFst_keeps
                           | with_reducible apply foldlSnd_keeps | split | dsimp only)

theorem State.pushWrite_keeps {P : State → Prop} (cRegs : Blind.regs P) (cStride : Blind.stride P) (cQueues : Blind.queues P)
    (cLatches : Blind.latches P) (cFcr : Blind.fcr P) {s : State} (h : P s) (w : Wr) :
    P (State.pushWrite s w) := by
  unfold State.pushWrite
  repeat' (first | with_reducible assumption | intro _ | with_reducible apply State.pushGo_keeps
                           | with_reducible apply State.setLatch_keeps | with_reducible apply ite_keeps
                           | with_reducible apply foldl_keeps | with_reducible apply foldlFst_keeps
                           | with_reducible apply foldlSnd_keeps | split | dsimp only)

theorem State.replayMode_keeps {P : State → Prop} (cRegs : Blind.regs P) (cMem : Blind.mem P) (cTimers : Blind.timers P)
    (cEpisodes : Blind.episodes P) (cStride : Blind.stride P) (cQueues : Blind.queues P) (cFcr : Blind.fcr P)
    (cOuts : Blind.outs P) (cValves : Blind.valves P) (cBridges : Blind.bridges P) (cDies : Blind.dies P) (cMsh : Blind.msh P)
    (cNow : Blind.now P) {s : State} (h : P s) (w : Wr) :
    P (State.replayMode s w) := by
  unfold State.replayMode
  repeat' (first | with_reducible assumption | intro _ | with_reducible apply State.replayEnter_keeps
                           | with_reducible apply State.replayHold_keeps | with_reducible apply State.put_keeps
                           | with_reducible apply ite_keeps | with_reducible apply foldl_keeps
                           | with_reducible apply foldlFst_keeps | with_reducible apply foldlSnd_keeps | split | dsimp only)

theorem State.devEffect_keeps {P : State → Prop} (o : Blind.All P) {s : State} (h : P s) (w : Wr) :
    P (State.devEffect s w) := by
  unfold State.devEffect
  repeat' (first | with_reducible assumption | exact o | exact o.regs | exact o.shadow | exact o.cfgAct | exact o.mem
                           | exact o.timers | exact o.episodes | exact o.stride | exact o.queues | exact o.latches
                           | exact o.fcr | exact o.outs | exact o.valves | exact o.bridges | exact o.scan | exact o.seq
                           | exact o.cal | exact o.phyLines | exact o.age | exact o.dies | exact o.msh | exact o.tmrs
                           | exact o.tchs | exact o.stg | exact o.pwr | exact o.cans | exact o.acc | exact o.pac | exact o.clk
                           | exact o.boot | exact o.now | intro _ | with_reducible apply State.replayMode_keeps
                           | with_reducible apply State.pushWrite_keeps | with_reducible apply State.replayStep_keeps
                           | with_reducible apply State.planTick_keeps | with_reducible apply State.setCtx_keeps
                           | with_reducible apply State.toField_keeps | with_reducible apply State.svCommit_keeps
                           | with_reducible apply State.nvGo_keeps | with_reducible apply State.mmClear_keeps
                           | with_reducible apply State.wakeTimer_keeps | with_reducible apply State.refSelect_keeps
                           | with_reducible apply State.lpConfig_keeps | with_reducible apply State.qFlush_keeps
                           | with_reducible apply State.qAdvance_keeps | with_reducible apply State.setLatch_keeps
                           | with_reducible apply State.detect_keeps | with_reducible apply State.arm_keeps
                           | with_reducible apply State.disarm_keeps | with_reducible apply State.evt_keeps
                           | with_reducible apply State.put_keeps | with_reducible apply ite_keeps
                           | with_reducible apply foldl_keeps | with_reducible apply foldlFst_keeps
                           | with_reducible apply foldlSnd_keeps | split | dsimp only | with_reducible apply o.stg)

theorem State.safeEffect_keeps {P : State → Prop} (o : Blind.All P) {s : State} (h : P s) (w : Wr) :
    P (State.safeEffect s w) := by
  unfold State.safeEffect
  repeat' (first | with_reducible assumption | exact o | exact o.regs | exact o.mem | exact o.episodes | exact o.stride
                           | exact o.queues | exact o.fcr | exact o.vault | exact o.book | intro _
                           | with_reducible apply State.setStride_keeps | with_reducible apply State.fcrClear_keeps
                           | with_reducible apply State.fcrUnhold_keeps | with_reducible apply State.fcrAck_keeps
                           | with_reducible apply State.recWipe_keeps | with_reducible apply State.flushTrigger_keeps
                           | with_reducible apply State.feedClear_keeps | with_reducible apply State.feedPut_keeps
                           | with_reducible apply State.recPut_keeps | with_reducible apply State.vltStart_keeps
                           | with_reducible apply State.setLe_keeps | with_reducible apply State.put_keeps
                           | with_reducible apply ite_keeps | with_reducible apply foldl_keeps
                           | with_reducible apply foldlFst_keeps | with_reducible apply foldlSnd_keeps | split | dsimp only)

theorem State.macCmd_keeps {P : State → Prop} (cRegs : Blind.regs P) (cMem : Blind.mem P) (cQueues : Blind.queues P)
    (cSw : Blind.sw P) {s : State} (h : P s) (op : Nat) :
    P (State.macCmd s op) := by
  unfold State.macCmd
  repeat' (first | with_reducible assumption | intro _ | with_reducible apply State.setMac_keeps
                           | with_reducible apply State.put_keeps | with_reducible apply ite_keeps
                           | with_reducible apply foldl_keeps | with_reducible apply foldlFst_keeps
                           | with_reducible apply foldlSnd_keeps | split | dsimp only)

theorem State.sflSelect_keeps {P : State → Prop} (cRegs : Blind.regs P) (cSw : Blind.sw P) {s : State} (h : P s) (k : Nat)
    (store_ : Bool) :
    P (State.sflSelect s k store_) := by
  unfold State.sflSelect
  repeat' (first | with_reducible assumption | intro _ | with_reducible apply State.setStream_keeps
                           | with_reducible apply State.wr_keeps | with_reducible apply ite_keeps
                           | with_reducible apply foldl_keeps | with_reducible apply foldlFst_keeps
                           | with_reducible apply foldlSnd_keeps | split | dsimp only)

theorem State.creditBefore_keeps {P : State → Prop} (cRegs : Blind.regs P) (cSw : Blind.sw P) {s : State} (h : P s) (w : Wr)
    (q : Nat) :
    P (State.creditBefore s w q) := by
  unfold State.creditBefore
  repeat' (first | with_reducible assumption | intro _ | with_reducible apply State.creditTo_keeps
                           | with_reducible apply State.wr_keeps | with_reducible apply ite_keeps
                           | with_reducible apply foldl_keeps | with_reducible apply foldlFst_keeps
                           | with_reducible apply foldlSnd_keeps | split | dsimp only)

theorem State.netEffect_keeps {P : State → Prop} (cRegs : Blind.regs P) (cMem : Blind.mem P) (cTimers : Blind.timers P)
    (cQueues : Blind.queues P) (cFcr : Blind.fcr P) (cSw : Blind.sw P) (cPwr : Blind.pwr P) (cCans : Blind.cans P) {s : State}
    (h : P s) (w : Wr) :
    P (State.netEffect s w) := by
  unfold State.netEffect
  repeat' (first | with_reducible assumption | intro _ | with_reducible apply State.creditBefore_keeps
                           | with_reducible apply State.sflSelect_keeps | with_reducible apply State.macCmd_keeps
                           | with_reducible apply State.canAren_keeps | with_reducible apply State.canRecover_keeps
                           | with_reducible apply State.rxAck_keeps | with_reducible apply State.txFlush_keeps
                           | with_reducible apply State.txPurge_keeps | with_reducible apply State.txPutGo_keeps
                           | with_reducible apply State.nmEnable_keeps | with_reducible apply State.agreeCheck_keeps
                           | with_reducible apply State.tasCfgchg_keeps | with_reducible apply State.swFree_keeps
                           | with_reducible apply State.setStream_keeps | with_reducible apply State.put_keeps
                           | with_reducible apply ite_keeps | with_reducible apply foldl_keeps
                           | with_reducible apply foldlFst_keeps | with_reducible apply foldlSnd_keeps | split | dsimp only
                           | with_reducible apply cSw)

theorem State.ioEffect_keeps {P : State → Prop} (cRegs : Blind.regs P) (cDins : Blind.dins P) {s : State} (h : P s) (w : Wr) :
    P (State.ioEffect s w) := by
  unfold State.ioEffect
  repeat' (first | with_reducible assumption | intro _ | with_reducible apply State.tmrStat_keeps
                           | with_reducible apply State.dinRestart_keeps | with_reducible apply State.setDin_keeps
                           | with_reducible apply ite_keeps | with_reducible apply foldl_keeps
                           | with_reducible apply foldlFst_keeps | with_reducible apply foldlSnd_keeps | split | dsimp only)

theorem State.land_keeps {P : State → Prop} (cRegs : Blind.regs P) (cShadow : Blind.shadow P) {s : State} (h : P s) (w : Wr) :
    P (State.land s w) := by
  unfold State.land
  repeat' (first | with_reducible assumption | intro _ | with_reducible apply State.wr_keeps | with_reducible apply ite_keeps
                           | with_reducible apply foldl_keeps | with_reducible apply foldlFst_keeps
                           | with_reducible apply foldlSnd_keeps | split | dsimp only | with_reducible apply cShadow)

theorem State.landed_keeps {P : State → Prop} (o : Blind.All P) {s : State} (h : P s) (w : Wr) :
    P (State.landed s w) := by
  unfold State.landed
  repeat' (first | with_reducible assumption | exact o | exact o.regs | exact o.shadow | exact o.mem | exact o.timers
                           | exact o.episodes | exact o.lockFirst | exact o.queues | exact o.fcr | exact o.outs
                           | exact o.valves | exact o.bridges | exact o.dins | exact o.dies | exact o.msh | exact o.sw
                           | exact o.pwr | exact o.cans | exact o.now
                           | (exact State.clearFaults_keeps o.regs o.mem o.timers o.episodes o.fcr o.outs o.valves o.bridges o.dies o.msh o.now (by with_reducible assumption) _ _ _ _ (by with_reducible assumption)) | intro _ | with_reducible apply State.land_keeps | with_reducible apply State.ioEffect_keeps | with_reducible apply State.netEffect_keeps | with_reducible apply State.safeEffect_keeps | with_reducible apply State.devEffect_keeps | with_reducible apply State.ctrlWrite_keeps | with_reducible apply State.lockKey_keeps | with_reducible apply ite_keeps | with_reducible apply foldl_keeps | with_reducible apply foldlFst_keeps | with_reducible apply foldlSnd_keeps | split | dsimp only | with_reducible apply getD_keeps)

theorem State.busWrite_keeps {P : State → Prop} (o : Blind.All P) {s : State} (h : P s) (src : Src) (p : Nat) (off : Nat)
    (v : Word) (m : Word) (t : Nat) :
    P (State.busWrite s src p off v m t).1 := by
  unfold State.busWrite
  repeat' (first | with_reducible assumption | exact o | exact o.regs | exact o.mem | exact o.queues | exact o.now | intro _
                           | with_reducible apply State.landed_keeps | with_reducible apply State.reject_keeps
                           | with_reducible apply State.reach_keeps | with_reducible apply ite_keeps
                           | with_reducible apply foldl_keeps | with_reducible apply foldlFst_keeps
                           | with_reducible apply foldlSnd_keeps | split | dsimp only)

theorem State.busRead_keeps {P : State → Prop} (cRegs : Blind.regs P) (cNow : Blind.now P) {s : State} (h : P s) (src : Src)
    (p : Nat) (off : Nat) (t : Nat) :
    P (State.busRead s src p off t).2.1 := by
  unfold State.busRead
  repeat' (first | with_reducible assumption | intro _ | with_reducible apply State.readReg_keeps
                           | with_reducible apply State.reach_keeps | with_reducible apply ite_keeps
                           | with_reducible apply foldl_keeps | with_reducible apply foldlFst_keeps
                           | with_reducible apply foldlSnd_keeps | split | dsimp only)

end Sys2Proof.Machine
end

