-- ==== Sys2Proof/Laws/KeepsCommands.lean ====
section
/-! SUPPORT. What the operations of Machine/Commands.lean keep. -/
namespace Sys2Proof.Machine

theorem execRegisterWrite_keeps {P : State → Prop} (o : Blind.All P) {s : State} (h : P s) (t : Nat) (src : Src) (p : Nat)
    (off : Nat) (v : Word) (m : Word) :
    Next P (execRegisterWrite t src p off v m s) := by
  unfold execRegisterWrite
  repeat' (first | with_reducible assumption | exact o | intro _ | with_reducible apply State.busWrite_keeps
                           | with_reducible apply Next.of | with_reducible apply nextIte_keeps | with_reducible apply ite_keeps
                           | with_reducible apply foldl_keeps | with_reducible apply foldlFst_keeps
                           | with_reducible apply foldlSnd_keeps | split | dsimp only)

theorem execRejClear_keeps {P : State → Prop} (o : Blind.All P) {s : State} (h : P s) (t : Nat) (src : Src) (p : Nat) (v : Word)
    (m : Word) :
    Next P (execRejClear t src p v m s) := by
  unfold execRejClear
  repeat' (first | with_reducible assumption | exact o | intro _ | with_reducible apply State.busWrite_keeps
                           | with_reducible apply Next.of | with_reducible apply nextIte_keeps | with_reducible apply ite_keeps
                           | with_reducible apply foldl_keeps | with_reducible apply foldlFst_keeps
                           | with_reducible apply foldlSnd_keeps | split | dsimp only)

theorem execLockKeyWrite_keeps {P : State → Prop} (o : Blind.All P) {s : State} (h : P s) (t : Nat) (src : Src) (p : Nat)
    (key : Nat) :
    Next P (execLockKeyWrite t src p key s) := by
  unfold execLockKeyWrite
  repeat' (first | with_reducible assumption | exact o | intro _ | with_reducible apply State.busWrite_keeps
                           | with_reducible apply Next.of | with_reducible apply nextIte_keeps | with_reducible apply ite_keeps
                           | with_reducible apply foldl_keeps | with_reducible apply foldlFst_keeps
                           | with_reducible apply foldlSnd_keeps | split | dsimp only)

theorem execLockExpiry_keeps {P : State → Prop} (cRegs : Blind.regs P) (cMem : Blind.mem P) (cTimers : Blind.timers P)
    (cQueues : Blind.queues P) (cNow : Blind.now P) {s : State} (h : P s) (p : Nat) :
    Next P (execLockExpiry p s) := by
  unfold execLockExpiry
  repeat' (first | with_reducible assumption | intro _ | with_reducible apply State.lockClose_keeps
                           | with_reducible apply State.onExpiry_keeps | with_reducible apply Next.of
                           | with_reducible apply nextIte_keeps | with_reducible apply ite_keeps
                           | with_reducible apply foldl_keeps | with_reducible apply foldlFst_keeps
                           | with_reducible apply foldlSnd_keeps | split | dsimp only)

theorem execPageEnable_keeps {P : State → Prop} (o : Blind.All P) {s : State} (h : P s) (t : Nat) (src : Src) (p : Nat)
    (en : Bool) (v : Word) (m : Word) :
    Next P (execPageEnable t src p en v m s) := by
  unfold execPageEnable
  repeat' (first | with_reducible assumption | exact o | intro _ | with_reducible apply State.busWrite_keeps
                           | with_reducible apply Next.of | with_reducible apply nextIte_keeps | with_reducible apply ite_keeps
                           | with_reducible apply foldl_keeps | with_reducible apply foldlFst_keeps
                           | with_reducible apply foldlSnd_keeps | split | dsimp only)

theorem execPageSoftReset_keeps {P : State → Prop} (o : Blind.All P) {s : State} (h : P s) (t : Nat) (src : Src) (p : Nat)
    (v : Word) (m : Word) :
    Next P (execPageSoftReset t src p v m s) := by
  unfold execPageSoftReset
  repeat' (first | with_reducible assumption | exact o | intro _ | with_reducible apply State.busWrite_keeps
                           | with_reducible apply Next.of | with_reducible apply nextIte_keeps | with_reducible apply ite_keeps
                           | with_reducible apply foldl_keeps | with_reducible apply foldlFst_keeps
                           | with_reducible apply foldlSnd_keeps | split | dsimp only)

theorem execSoftReset_keeps {P : State → Prop} (o : Blind.All P) {s : State} (h : P s) (t : Nat) (src : Src) (pac : Bool)
    (v : Word) (m : Word) :
    Next P (execSoftReset t src pac v m s) := by
  unfold execSoftReset
  repeat' (first | with_reducible assumption | exact o | intro _ | with_reducible apply State.busWrite_keeps
                           | with_reducible apply Next.of | with_reducible apply nextIte_keeps | with_reducible apply ite_keeps
                           | with_reducible apply foldl_keeps | with_reducible apply foldlFst_keeps
                           | with_reducible apply foldlSnd_keeps | split | dsimp only)

theorem execPacEnable_keeps {P : State → Prop} (o : Blind.All P) {s : State} (h : P s) (t : Nat) (src : Src) (v : Word)
    (m : Word) :
    Next P (execPacEnable t src v m s) := by
  unfold execPacEnable
  repeat' (first | with_reducible assumption | exact o | intro _ | with_reducible apply State.busWrite_keeps
                           | with_reducible apply Next.of | with_reducible apply nextIte_keeps | with_reducible apply ite_keeps
                           | with_reducible apply foldl_keeps | with_reducible apply foldlFst_keeps
                           | with_reducible apply foldlSnd_keeps | split | dsimp only)

theorem execReplayEnter_keeps {P : State → Prop} (o : Blind.All P) {s : State} (h : P s) (t : Nat) (src : Src) (v : Word)
    (m : Word) :
    Next P (execReplayEnter t src v m s) := by
  unfold execReplayEnter
  repeat' (first | with_reducible assumption | exact o | intro _ | with_reducible apply State.busWrite_keeps
                           | with_reducible apply Next.of | with_reducible apply nextIte_keeps | with_reducible apply ite_keeps
                           | with_reducible apply foldl_keeps | with_reducible apply foldlFst_keeps
                           | with_reducible apply foldlSnd_keeps | split | dsimp only)

theorem execReplayStep_keeps {P : State → Prop} (o : Blind.All P) {s : State} (h : P s) (t : Nat) (src : Src) (v : Word)
    (m : Word) :
    Next P (execReplayStep t src v m s) := by
  unfold execReplayStep
  repeat' (first | with_reducible assumption | exact o | intro _ | with_reducible apply State.busWrite_keeps
                           | with_reducible apply Next.of | with_reducible apply nextIte_keeps | with_reducible apply ite_keeps
                           | with_reducible apply foldl_keeps | with_reducible apply foldlFst_keeps
                           | with_reducible apply foldlSnd_keeps | split | dsimp only)

theorem execBatonPush_keeps {P : State → Prop} (o : Blind.All P) {s : State} (h : P s) (t : Nat) (src : Src) (tl : Nat)
    (k : Nat) :
    Next P (execBatonPush t src tl k s) := by
  unfold execBatonPush
  repeat' (first | with_reducible assumption | exact o | intro _ | with_reducible apply State.busWrite_keeps
                           | with_reducible apply Next.of | with_reducible apply nextIte_keeps | with_reducible apply ite_keeps
                           | with_reducible apply foldl_keeps | with_reducible apply foldlFst_keeps
                           | with_reducible apply foldlSnd_keeps | split | dsimp only)

theorem execQueueAdvance_keeps {P : State → Prop} (o : Blind.All P) {s : State} (h : P s) (t : Nat) (src : Src) (k : Nat) :
    Next P (execQueueAdvance t src k s) := by
  unfold execQueueAdvance
  repeat' (first | with_reducible assumption | exact o | intro _ | with_reducible apply State.busWrite_keeps
                           | with_reducible apply Next.of | with_reducible apply nextIte_keeps | with_reducible apply ite_keeps
                           | with_reducible apply foldl_keeps | with_reducible apply foldlFst_keeps
                           | with_reducible apply foldlSnd_keeps | split | dsimp only)

theorem execQueueFlush_keeps {P : State → Prop} (o : Blind.All P) {s : State} (h : P s) (t : Nat) (src : Src) (k : Nat) :
    Next P (execQueueFlush t src k s) := by
  unfold execQueueFlush
  repeat' (first | with_reducible assumption | exact o | intro _ | with_reducible apply State.busWrite_keeps
                           | with_reducible apply Next.of | with_reducible apply nextIte_keeps | with_reducible apply ite_keeps
                           | with_reducible apply foldl_keeps | with_reducible apply foldlFst_keeps
                           | with_reducible apply foldlSnd_keeps | split | dsimp only)

theorem execLockstepInject_keeps {P : State → Prop} (o : Blind.All P) {s : State} (h : P s) (t : Nat) (src : Src) (v : Word)
    (m : Word) :
    Next P (execLockstepInject t src v m s) := by
  unfold execLockstepInject
  repeat' (first | with_reducible assumption | exact o | intro _ | with_reducible apply State.busWrite_keeps
                           | with_reducible apply Next.of | with_reducible apply nextIte_keeps | with_reducible apply ite_keeps
                           | with_reducible apply foldl_keeps | with_reducible apply foldlFst_keeps
                           | with_reducible apply foldlSnd_keeps | split | dsimp only)

theorem execChannelFaultClear_keeps {P : State → Prop} (o : Blind.All P) {s : State} (h : P s) (t : Nat) (src : Src) (u : OutU)
    (v : Word) (m : Word) :
    Next P (execChannelFaultClear t src u v m s) := by
  unfold execChannelFaultClear
  repeat' (first | with_reducible assumption | exact o | intro _ | with_reducible apply State.busWrite_keeps
                           | with_reducible apply Next.of | with_reducible apply nextIte_keeps | with_reducible apply ite_keeps
                           | with_reducible apply foldl_keeps | with_reducible apply foldlFst_keeps
                           | with_reducible apply foldlSnd_keeps | split | dsimp only)

theorem execTstagGo_keeps {P : State → Prop} (o : Blind.All P) {s : State} (h : P s) (t : Nat) (src : Src) (units : Nat) :
    Next P (execTstagGo t src units s) := by
  unfold execTstagGo
  repeat' (first | with_reducible assumption | exact o | intro _ | with_reducible apply State.busWrite_keeps
                           | with_reducible apply Next.of | with_reducible apply nextIte_keeps | with_reducible apply ite_keeps
                           | with_reducible apply foldl_keeps | with_reducible apply foldlFst_keeps
                           | with_reducible apply foldlSnd_keeps | split | dsimp only)

theorem execCanTxPut_keeps {P : State → Prop} (o : Blind.All P) {s : State} (h : P s) (t : Nat) (src : Src) (x : Nat) (f : Nat) :
    Next P (execCanTxPut t src x f s) := by
  unfold execCanTxPut
  repeat' (first | with_reducible assumption | exact o | intro _ | with_reducible apply State.busWrite_keeps
                           | with_reducible apply Next.of | with_reducible apply nextIte_keeps | with_reducible apply ite_keeps
                           | with_reducible apply foldl_keeps | with_reducible apply foldlFst_keeps
                           | with_reducible apply foldlSnd_keeps | split | dsimp only)

theorem execCanRxAck_keeps {P : State → Prop} (o : Blind.All P) {s : State} (h : P s) (t : Nat) (src : Src) (x : Nat) (f : Nat) :
    Next P (execCanRxAck t src x f s) := by
  unfold execCanRxAck
  repeat' (first | with_reducible assumption | exact o | intro _ | with_reducible apply State.busWrite_keeps
                           | with_reducible apply Next.of | with_reducible apply nextIte_keeps | with_reducible apply ite_keeps
                           | with_reducible apply foldl_keeps | with_reducible apply foldlFst_keeps
                           | with_reducible apply foldlSnd_keeps | split | dsimp only)

theorem execCanTxFlush_keeps {P : State → Prop} (o : Blind.All P) {s : State} (h : P s) (t : Nat) (src : Src) (x : Nat)
    (f : Nat) :
    Next P (execCanTxFlush t src x f s) := by
  unfold execCanTxFlush
  repeat' (first | with_reducible assumption | exact o | intro _ | with_reducible apply State.busWrite_keeps
                           | with_reducible apply Next.of | with_reducible apply nextIte_keeps | with_reducible apply ite_keeps
                           | with_reducible apply foldl_keeps | with_reducible apply foldlFst_keeps
                           | with_reducible apply foldlSnd_keeps | split | dsimp only)

theorem execCanManualRecover_keeps {P : State → Prop} (o : Blind.All P) {s : State} (h : P s) (t : Nat) (src : Src) (x : Nat) :
    Next P (execCanManualRecover t src x s) := by
  unfold execCanManualRecover
  repeat' (first | with_reducible assumption | exact o | intro _ | with_reducible apply State.busWrite_keeps
                           | with_reducible apply Next.of | with_reducible apply nextIte_keeps | with_reducible apply ite_keeps
                           | with_reducible apply foldl_keeps | with_reducible apply foldlFst_keeps
                           | with_reducible apply foldlSnd_keeps | split | dsimp only)

theorem execCanAutoReturnEnable_keeps {P : State → Prop} (o : Blind.All P) {s : State} (h : P s) (t : Nat) (src : Src)
    (v : Word) (m : Word) :
    Next P (execCanAutoReturnEnable t src v m s) := by
  unfold execCanAutoReturnEnable
  repeat' (first | with_reducible assumption | exact o | intro _ | with_reducible apply State.busWrite_keeps
                           | with_reducible apply Next.of | with_reducible apply nextIte_keeps | with_reducible apply ite_keeps
                           | with_reducible apply foldl_keeps | with_reducible apply foldlFst_keeps
                           | with_reducible apply foldlSnd_keeps | split | dsimp only)

theorem execNmEnable_keeps {P : State → Prop} (o : Blind.All P) {s : State} (h : P s) (t : Nat) (src : Src) (x : Nat)
    (en : Bool) (v : Word) (m : Word) :
    Next P (execNmEnable t src x en v m s) := by
  unfold execNmEnable
  repeat' (first | with_reducible assumption | exact o | intro _ | with_reducible apply State.busWrite_keeps
                           | with_reducible apply Next.of | with_reducible apply nextIte_keeps | with_reducible apply ite_keeps
                           | with_reducible apply foldl_keeps | with_reducible apply foldlFst_keeps
                           | with_reducible apply foldlSnd_keeps | split | dsimp only)

theorem execMdioWrite_keeps {P : State → Prop} (o : Blind.All P) {s : State} (h : P s) (t : Nat) (src : Src) (v : Word) :
    Next P (execMdioWrite t src v s) := by
  unfold execMdioWrite
  repeat' (first | with_reducible assumption | exact o | intro _ | with_reducible apply State.busWrite_keeps
                           | with_reducible apply Next.of | with_reducible apply nextIte_keeps | with_reducible apply ite_keeps
                           | with_reducible apply foldl_keeps | with_reducible apply foldlFst_keeps
                           | with_reducible apply foldlSnd_keeps | split | dsimp only)

theorem execMdioRead_keeps {P : State → Prop} (o : Blind.All P) {s : State} (h : P s) (t : Nat) (src : Src) (v : Word) :
    Next P (execMdioRead t src v s) := by
  unfold execMdioRead
  repeat' (first | with_reducible assumption | exact o | intro _ | with_reducible apply State.busWrite_keeps
                           | with_reducible apply Next.of | with_reducible apply nextIte_keeps | with_reducible apply ite_keeps
                           | with_reducible apply foldl_keeps | with_reducible apply foldlFst_keeps
                           | with_reducible apply foldlSnd_keeps | split | dsimp only)

theorem execMdioAddress_keeps {P : State → Prop} (o : Blind.All P) {s : State} (h : P s) (t : Nat) (src : Src) (v : Word) :
    Next P (execMdioAddress t src v s) := by
  unfold execMdioAddress
  repeat' (first | with_reducible assumption | exact o | intro _ | with_reducible apply State.busWrite_keeps
                           | with_reducible apply Next.of | with_reducible apply nextIte_keeps | with_reducible apply ite_keeps
                           | with_reducible apply foldl_keeps | with_reducible apply foldlFst_keeps
                           | with_reducible apply foldlSnd_keeps | split | dsimp only)

theorem execMacRead_keeps {P : State → Prop} (o : Blind.All P) {s : State} (h : P s) (t : Nat) (src : Src) (i : Nat) :
    Next P (execMacRead t src i s) := by
  unfold execMacRead
  repeat' (first | with_reducible assumption | exact o | intro _ | with_reducible apply State.busWrite_keeps
                           | with_reducible apply Next.of | with_reducible apply nextIte_keeps | with_reducible apply ite_keeps
                           | with_reducible apply foldl_keeps | with_reducible apply foldlFst_keeps
                           | with_reducible apply foldlSnd_keeps | split | dsimp only)

theorem execMacWrite_keeps {P : State → Prop} (o : Blind.All P) {s : State} (h : P s) (t : Nat) (src : Src) (i : Nat) :
    Next P (execMacWrite t src i s) := by
  unfold execMacWrite
  repeat' (first | with_reducible assumption | exact o | intro _ | with_reducible apply State.busWrite_keeps
                           | with_reducible apply Next.of | with_reducible apply nextIte_keeps | with_reducible apply ite_keeps
                           | with_reducible apply foldl_keeps | with_reducible apply foldlFst_keeps
                           | with_reducible apply foldlSnd_keeps | split | dsimp only)

theorem execMacDelete_keeps {P : State → Prop} (o : Blind.All P) {s : State} (h : P s) (t : Nat) (src : Src) (i : Nat) :
    Next P (execMacDelete t src i s) := by
  unfold execMacDelete
  repeat' (first | with_reducible assumption | exact o | intro _ | with_reducible apply State.busWrite_keeps
                           | with_reducible apply Next.of | with_reducible apply nextIte_keeps | with_reducible apply ite_keeps
                           | with_reducible apply foldl_keeps | with_reducible apply foldlFst_keeps
                           | with_reducible apply foldlSnd_keeps | split | dsimp only)

theorem execMacFlushDynamic_keeps {P : State → Prop} (o : Blind.All P) {s : State} (h : P s) (t : Nat) (src : Src) (i : Nat) :
    Next P (execMacFlushDynamic t src i s) := by
  unfold execMacFlushDynamic
  repeat' (first | with_reducible assumption | exact o | intro _ | with_reducible apply State.busWrite_keeps
                           | with_reducible apply Next.of | with_reducible apply nextIte_keeps | with_reducible apply ite_keeps
                           | with_reducible apply foldl_keeps | with_reducible apply foldlFst_keeps
                           | with_reducible apply foldlSnd_keeps | split | dsimp only)

theorem execTasCfgchg_keeps {P : State → Prop} (o : Blind.All P) {s : State} (h : P s) (t : Nat) (src : Src) (p : Nat)
    (v : Word) (m : Word) :
    Next P (execTasCfgchg t src p v m s) := by
  unfold execTasCfgchg
  repeat' (first | with_reducible assumption | exact o | intro _ | with_reducible apply State.busWrite_keeps
                           | with_reducible apply Next.of | with_reducible apply nextIte_keeps | with_reducible apply ite_keeps
                           | with_reducible apply foldl_keeps | with_reducible apply foldlFst_keeps
                           | with_reducible apply foldlSnd_keeps | split | dsimp only)

theorem execSflSelect_keeps {P : State → Prop} (o : Blind.All P) {s : State} (h : P s) (t : Nat) (src : Src) (i : Nat) :
    Next P (execSflSelect t src i s) := by
  unfold execSflSelect
  repeat' (first | with_reducible assumption | exact o | intro _ | with_reducible apply State.busWrite_keeps
                           | with_reducible apply Next.of | with_reducible apply nextIte_keeps | with_reducible apply ite_keeps
                           | with_reducible apply foldl_keeps | with_reducible apply foldlFst_keeps
                           | with_reducible apply foldlSnd_keeps | split | dsimp only)

theorem execSflStore_keeps {P : State → Prop} (o : Blind.All P) {s : State} (h : P s) (t : Nat) (src : Src) (i : Nat) :
    Next P (execSflStore t src i s) := by
  unfold execSflStore
  repeat' (first | with_reducible assumption | exact o | intro _ | with_reducible apply State.busWrite_keeps
                           | with_reducible apply Next.of | with_reducible apply nextIte_keeps | with_reducible apply ite_keeps
                           | with_reducible apply foldl_keeps | with_reducible apply foldlFst_keeps
                           | with_reducible apply foldlSnd_keeps | split | dsimp only)

theorem execEnrol_keeps {P : State → Prop} (o : Blind.All P) {s : State} (h : P s) (t : Nat) (src : Src) :
    Next P (execEnrol t src s) := by
  unfold execEnrol
  repeat' (first | with_reducible assumption | exact o | intro _ | with_reducible apply State.busWrite_keeps
                           | with_reducible apply Next.of | with_reducible apply nextIte_keeps | with_reducible apply ite_keeps
                           | with_reducible apply foldl_keeps | with_reducible apply foldlFst_keeps
                           | with_reducible apply foldlSnd_keeps | split | dsimp only)

theorem execRevoke_keeps {P : State → Prop} (o : Blind.All P) {s : State} (h : P s) (t : Nat) (src : Src) :
    Next P (execRevoke t src s) := by
  unfold execRevoke
  repeat' (first | with_reducible assumption | exact o | intro _ | with_reducible apply State.busWrite_keeps
                           | with_reducible apply Next.of | with_reducible apply nextIte_keeps | with_reducible apply ite_keeps
                           | with_reducible apply foldl_keeps | with_reducible apply foldlFst_keeps
                           | with_reducible apply foldlSnd_keeps | split | dsimp only)

theorem execKeyload_keeps {P : State → Prop} (o : Blind.All P) {s : State} (h : P s) (t : Nat) (src : Src) :
    Next P (execKeyload t src s) := by
  unfold execKeyload
  repeat' (first | with_reducible assumption | exact o | intro _ | with_reducible apply State.busWrite_keeps
                           | with_reducible apply Next.of | with_reducible apply nextIte_keeps | with_reducible apply ite_keeps
                           | with_reducible apply foldl_keeps | with_reducible apply foldlFst_keeps
                           | with_reducible apply foldlSnd_keeps | split | dsimp only)

theorem execFaultAck_keeps {P : State → Prop} (o : Blind.All P) {s : State} (h : P s) (t : Nat) (src : Src) (i : Nat) :
    Next P (execFaultAck t src i s) := by
  unfold execFaultAck
  repeat' (first | with_reducible assumption | exact o | intro _ | with_reducible apply State.busWrite_keeps
                           | with_reducible apply Next.of | with_reducible apply nextIte_keeps | with_reducible apply ite_keeps
                           | with_reducible apply foldl_keeps | with_reducible apply foldlFst_keeps
                           | with_reducible apply foldlSnd_keeps | split | dsimp only)

theorem execFaultUnhold_keeps {P : State → Prop} (o : Blind.All P) {s : State} (h : P s) (t : Nat) (src : Src) (i : Nat)
    (u : Nat) :
    Next P (execFaultUnhold t src i u s) := by
  unfold execFaultUnhold
  repeat' (first | with_reducible assumption | exact o | intro _ | with_reducible apply State.busWrite_keeps
                           | with_reducible apply Next.of | with_reducible apply nextIte_keeps | with_reducible apply ite_keeps
                           | with_reducible apply foldl_keeps | with_reducible apply foldlFst_keeps
                           | with_reducible apply foldlSnd_keeps | split | dsimp only)

theorem execFaultClear_keeps {P : State → Prop} (o : Blind.All P) {s : State} (h : P s) (t : Nat) (src : Src) (i : Nat) :
    Next P (execFaultClear t src i s) := by
  unfold execFaultClear
  repeat' (first | with_reducible assumption | exact o | intro _ | with_reducible apply State.busWrite_keeps
                           | with_reducible apply Next.of | with_reducible apply nextIte_keeps | with_reducible apply ite_keeps
                           | with_reducible apply foldl_keeps | with_reducible apply foldlFst_keeps
                           | with_reducible apply foldlSnd_keeps | split | dsimp only)

theorem execSafeRelease_keeps {P : State → Prop} (o : Blind.All P) {s : State} (h : P s) (t : Nat) (src : Src) :
    Next P (execSafeRelease t src s) := by
  unfold execSafeRelease
  repeat' (first | with_reducible assumption | exact o | intro _ | with_reducible apply State.busWrite_keeps
                           | with_reducible apply Next.of | with_reducible apply nextIte_keeps | with_reducible apply ite_keeps
                           | with_reducible apply foldl_keeps | with_reducible apply foldlFst_keeps
                           | with_reducible apply foldlSnd_keeps | split | dsimp only)

theorem execRecordCodePut_keeps {P : State → Prop} (o : Blind.All P) {s : State} (h : P s) (t : Nat) (src : Src) (c : Nat) :
    Next P (execRecordCodePut t src c s) := by
  unfold execRecordCodePut
  repeat' (first | with_reducible assumption | exact o | intro _ | with_reducible apply State.busWrite_keeps
                           | with_reducible apply Next.of | with_reducible apply nextIte_keeps | with_reducible apply ite_keeps
                           | with_reducible apply foldl_keeps | with_reducible apply foldlFst_keeps
                           | with_reducible apply foldlSnd_keeps | split | dsimp only)

theorem execCodeClassAssign_keeps {P : State → Prop} (o : Blind.All P) {s : State} (h : P s) (t : Nat) (src : Src) (c : Nat)
    (cls : Nat) :
    Next P (execCodeClassAssign t src c cls s) := by
  unfold execCodeClassAssign
  repeat' (first | with_reducible assumption | exact o | intro _ | with_reducible apply State.busWrite_keeps
                           | with_reducible apply Next.of | with_reducible apply nextIte_keeps | with_reducible apply ite_keeps
                           | with_reducible apply foldl_keeps | with_reducible apply foldlFst_keeps
                           | with_reducible apply foldlSnd_keeps | split | dsimp only)

theorem execFeedPut_keeps {P : State → Prop} (o : Blind.All P) {s : State} (h : P s) (t : Nat) (src : Src) (k : Nat) :
    Next P (execFeedPut t src k s) := by
  unfold execFeedPut
  repeat' (first | with_reducible assumption | exact o | intro _ | with_reducible apply State.busWrite_keeps
                           | with_reducible apply Next.of | with_reducible apply nextIte_keeps | with_reducible apply ite_keeps
                           | with_reducible apply foldl_keeps | with_reducible apply foldlFst_keeps
                           | with_reducible apply foldlSnd_keeps | split | dsimp only)

theorem execFeedClear_keeps {P : State → Prop} (o : Blind.All P) {s : State} (h : P s) (t : Nat) (src : Src) (k : Nat) :
    Next P (execFeedClear t src k s) := by
  unfold execFeedClear
  repeat' (first | with_reducible assumption | exact o | intro _ | with_reducible apply State.busWrite_keeps
                           | with_reducible apply Next.of | with_reducible apply nextIte_keeps | with_reducible apply ite_keeps
                           | with_reducible apply foldl_keeps | with_reducible apply foldlFst_keeps
                           | with_reducible apply foldlSnd_keeps | split | dsimp only)

theorem execFlushCommand_keeps {P : State → Prop} (o : Blind.All P) {s : State} (h : P s) (t : Nat) (src : Src) (v : Word)
    (m : Word) :
    Next P (execFlushCommand t src v m s) := by
  unfold execFlushCommand
  repeat' (first | with_reducible assumption | exact o | intro _ | with_reducible apply State.busWrite_keeps
                           | with_reducible apply Next.of | with_reducible apply nextIte_keeps | with_reducible apply ite_keeps
                           | with_reducible apply foldl_keeps | with_reducible apply foldlFst_keeps
                           | with_reducible apply foldlSnd_keeps | split | dsimp only)

theorem execRecordRead_keeps {P : State → Prop} (cRegs : Blind.regs P) (cNow : Blind.now P) {s : State} (h : P s) (t : Nat)
    (src : Src) :
    Next P (execRecordRead t src s) := by
  unfold execRecordRead
  repeat' (first | with_reducible assumption | intro _ | with_reducible apply State.busRead_keeps
                           | with_reducible apply Next.of | with_reducible apply nextIte_keeps | with_reducible apply ite_keeps
                           | with_reducible apply foldl_keeps | with_reducible apply foldlFst_keeps
                           | with_reducible apply foldlSnd_keeps | split | dsimp only)

theorem execRecordWipe_keeps {P : State → Prop} (o : Blind.All P) {s : State} (h : P s) (t : Nat) (src : Src) (key : Nat) :
    Next P (execRecordWipe t src key s) := by
  unfold execRecordWipe
  repeat' (first | with_reducible assumption | exact o | intro _ | with_reducible apply State.busWrite_keeps
                           | with_reducible apply Next.of | with_reducible apply nextIte_keeps | with_reducible apply ite_keeps
                           | with_reducible apply foldl_keeps | with_reducible apply foldlFst_keeps
                           | with_reducible apply foldlSnd_keeps | split | dsimp only)

theorem execReferenceSelect_keeps {P : State → Prop} (o : Blind.All P) {s : State} (h : P s) (t : Nat) (src : Src) (rclk : Bool)
    (v : Word) (m : Word) :
    Next P (execReferenceSelect t src rclk v m s) := by
  unfold execReferenceSelect
  repeat' (first | with_reducible assumption | exact o | intro _ | with_reducible apply State.busWrite_keeps
                           | with_reducible apply Next.of | with_reducible apply nextIte_keeps | with_reducible apply ite_keeps
                           | with_reducible apply foldl_keeps | with_reducible apply foldlFst_keeps
                           | with_reducible apply foldlSnd_keeps | split | dsimp only)

theorem execPadRelease_keeps {P : State → Prop} (o : Blind.All P) {s : State} (h : P s) (t : Nat) (src : Src) :
    Next P (execPadRelease t src s) := by
  unfold execPadRelease
  repeat' (first | with_reducible assumption | exact o | intro _ | with_reducible apply State.busWrite_keeps
                           | with_reducible apply Next.of | with_reducible apply nextIte_keeps | with_reducible apply ite_keeps
                           | with_reducible apply foldl_keeps | with_reducible apply foldlFst_keeps
                           | with_reducible apply foldlSnd_keeps | split | dsimp only)

theorem execWakeTimerWrite_keeps {P : State → Prop} (o : Blind.All P) {s : State} (h : P s) (t : Nat) (src : Src) (v : Word) :
    Next P (execWakeTimerWrite t src v s) := by
  unfold execWakeTimerWrite
  repeat' (first | with_reducible assumption | exact o | intro _ | with_reducible apply State.busWrite_keeps
                           | with_reducible apply Next.of | with_reducible apply nextIte_keeps | with_reducible apply ite_keeps
                           | with_reducible apply foldl_keeps | with_reducible apply foldlFst_keeps
                           | with_reducible apply foldlSnd_keeps | split | dsimp only)

theorem execNvProgram_keeps {P : State → Prop} (o : Blind.All P) {s : State} (h : P s) (t : Nat) (src : Src) :
    Next P (execNvProgram t src s) := by
  unfold execNvProgram
  repeat' (first | with_reducible assumption | exact o | intro _ | with_reducible apply State.busWrite_keeps
                           | with_reducible apply Next.of | with_reducible apply nextIte_keeps | with_reducible apply ite_keeps
                           | with_reducible apply foldl_keeps | with_reducible apply foldlFst_keeps
                           | with_reducible apply foldlSnd_keeps | split | dsimp only)

theorem execSvCommit_keeps {P : State → Prop} (o : Blind.All P) {s : State} (h : P s) (t : Nat) (src : Src) :
    Next P (execSvCommit t src s) := by
  unfold execSvCommit
  repeat' (first | with_reducible assumption | exact o | intro _ | with_reducible apply State.busWrite_keeps
                           | with_reducible apply Next.of | with_reducible apply nextIte_keeps | with_reducible apply ite_keeps
                           | with_reducible apply foldl_keeps | with_reducible apply foldlFst_keeps
                           | with_reducible apply foldlSnd_keeps | split | dsimp only)

theorem execLifecycleChange_keeps {P : State → Prop} (o : Blind.All P) {s : State} (h : P s) (t : Nat) (src : Src) (key : Nat) :
    Next P (execLifecycleChange t src key s) := by
  unfold execLifecycleChange
  repeat' (first | with_reducible assumption | exact o | intro _ | with_reducible apply State.busWrite_keeps
                           | with_reducible apply Next.of | with_reducible apply nextIte_keeps | with_reducible apply ite_keeps
                           | with_reducible apply foldl_keeps | with_reducible apply foldlFst_keeps
                           | with_reducible apply foldlSnd_keeps | split | dsimp only)

theorem execVbatMinmaxClear_keeps {P : State → Prop} (o : Blind.All P) {s : State} (h : P s) (t : Nat) (src : Src) :
    Next P (execVbatMinmaxClear t src s) := by
  unfold execVbatMinmaxClear
  repeat' (first | with_reducible assumption | exact o | intro _ | with_reducible apply State.busWrite_keeps
                           | with_reducible apply Next.of | with_reducible apply nextIte_keeps | with_reducible apply ite_keeps
                           | with_reducible apply foldl_keeps | with_reducible apply foldlFst_keeps
                           | with_reducible apply foldlSnd_keeps | split | dsimp only)

end Sys2Proof.Machine
end

