-- ==== Sys2Proof/Laws/KeepsEthernet.lean ====
section
/-! SUPPORT. What the operations of Machine/Ethernet.lean keep. -/
namespace Sys2Proof.Machine

theorem State.rraOp_keeps {P : State → Prop} (o : Blind.All P) {s : State} (h : P s) (q : Nat) (op : List Byte) (bad : Bool)
    (t : Nat) :
    P (State.rraOp s q op bad t).1 := by
  unfold State.rraOp
  repeat' (first | with_reducible assumption | exact o | exact o.regs | exact o.now | intro _
                           | with_reducible apply State.busRead_keeps | with_reducible apply State.busWrite_keeps
                           | with_reducible apply ite_keeps | with_reducible apply foldl_keeps
                           | with_reducible apply foldlFst_keeps | with_reducible apply foldlSnd_keeps | split | dsimp only)

theorem State.rraOps_keeps {P : State → Prop} (o : Blind.All P) (q t : Nat) (stop bad : Bool) (n : Nat) (ops : List Byte)
    (a : State × Bool × List Byte) (h : P a.1) : P (State.rraOps q t stop bad n ops a).1 := by
  induction n generalizing ops a with
  | zero => exact h
  | succ n ih =>
    obtain ⟨s, failed, out⟩ := a
    unfold State.rraOps
    dsimp only
    apply ih
    dsimp only at h ⊢
    split
    · exact h
    · exact State.rraOp_keeps o h _ _ _ _

theorem State.rraDrop_keeps {P : State → Prop} (cRegs : Blind.regs P) {s : State} (h : P s)  :
    P (State.rraDrop s) := by
  unfold State.rraDrop
  repeat' (first | with_reducible assumption | intro _ | with_reducible apply State.evt_keeps
                           | with_reducible apply State.count_keeps | with_reducible apply ite_keeps
                           | with_reducible apply foldl_keeps | with_reducible apply foldlFst_keeps
                           | with_reducible apply foldlSnd_keeps | split | dsimp only)

theorem State.rraRequest_keeps {P : State → Prop} (o : Blind.All P) {s : State} (h : P s) (f : EthFrame) (vid : Nat) (t : Nat) :
    P (State.rraRequest s f vid t) := by
  unfold State.rraRequest
  repeat' (first | with_reducible assumption | exact o | exact o.regs | exact o.mem | exact o.timers | exact o.queues
                           | exact o.fcr | exact o.sw | intro _ | with_reducible apply State.rraDrop_keeps
                           | with_reducible apply State.swOriginate_keeps | with_reducible apply State.evt_keeps
                           | with_reducible apply State.put_keeps | with_reducible apply ite_keeps
                           | with_reducible apply foldl_keeps | with_reducible apply foldlFst_keeps
                           | with_reducible apply foldlSnd_keeps | with_reducible apply State.rraOps_keeps | split | dsimp only)

theorem State.rxDrop_keeps {P : State → Prop} (cRegs : Blind.regs P) (cSw : Blind.sw P) {s : State} (h : P s) (p : Nat)
    (crc : Bool) :
    P (State.rxDrop s p crc) := by
  unfold State.rxDrop
  repeat' (first | with_reducible assumption | intro _ | with_reducible apply State.setPort_keeps
                           | with_reducible apply State.count_keeps | with_reducible apply ite_keeps
                           | with_reducible apply foldl_keeps | with_reducible apply foldlFst_keeps
                           | with_reducible apply foldlSnd_keeps | split | dsimp only)

theorem State.rxAccepted_keeps {P : State → Prop} (o : Blind.All P) {s : State} (h : P s) (f : EthFrame) (v : Nat)
    (wireVid : Nat) (len : Nat) (t : Nat) :
    P (State.rxAccepted s f v wireVid len t) := by
  unfold State.rxAccepted
  repeat' (first | with_reducible assumption | exact o | exact o.regs | exact o.mem | exact o.timers | exact o.queues
                           | exact o.fcr | exact o.seq | exact o.sw | exact o.pwr | exact o.ring | intro _
                           | with_reducible apply State.rraRequest_keeps | with_reducible apply State.ringFrame_keeps
                           | with_reducible apply State.swForward_keeps | with_reducible apply State.sflFilter_keeps
                           | with_reducible apply State.macLearn_keeps | with_reducible apply ite_keeps
                           | with_reducible apply foldl_keeps | with_reducible apply foldlFst_keeps
                           | with_reducible apply foldlSnd_keeps | split | dsimp only)

theorem execEthFrameReceived_keeps {P : State → Prop} (o : Blind.All P) {s : State} (h : P s) (t : Nat) (p : Nat)
    (octets : List Byte) (fcsOk : Bool) :
    Next P (execEthFrameReceived t p octets fcsOk s) := by
  unfold execEthFrameReceived
  repeat' (first | with_reducible assumption | exact o | exact o.regs | exact o.timers | exact o.fcr | exact o.sw | exact o.now
                           | intro _ | with_reducible apply State.rxAccepted_keeps | with_reducible apply State.rxDrop_keeps
                           | with_reducible apply State.cutThrough_keeps | with_reducible apply State.setPort_keeps
                           | with_reducible apply State.reach_keeps | with_reducible apply State.count_keeps
                           | with_reducible apply Next.of | with_reducible apply nextIte_keeps | with_reducible apply ite_keeps
                           | with_reducible apply foldl_keeps | with_reducible apply foldlFst_keeps
                           | with_reducible apply foldlSnd_keeps | split | dsimp only)

theorem execPortLinkChange_keeps {P : State → Prop} (cRegs : Blind.regs P) (cMem : Blind.mem P) (cTimers : Blind.timers P)
    (cQueues : Blind.queues P) (cFcr : Blind.fcr P) (cNow : Blind.now P) {s : State} (h : P s) (t : Nat) (p : Nat) (up : Bool)
    (usable : Bool) :
    Next P (execPortLinkChange t p up usable s) := by
  unfold execPortLinkChange
  repeat' (first | with_reducible assumption | intro _ | with_reducible apply State.rclkWait_keeps
                           | with_reducible apply State.detect_keeps | with_reducible apply State.reach_keeps
                           | with_reducible apply State.evt_keeps | with_reducible apply State.put_keeps
                           | with_reducible apply Next.of | with_reducible apply nextIte_keeps | with_reducible apply ite_keeps
                           | with_reducible apply foldl_keeps | with_reducible apply foldlFst_keeps
                           | with_reducible apply foldlSnd_keeps | split | dsimp only)

theorem execHostTxDescriptor_keeps {P : State → Prop} (o : Blind.All P) {s : State} (h : P s) (t : Nat) (r : Nat) :
    Next P (execHostTxDescriptor t r s) := by
  unfold execHostTxDescriptor
  repeat' (first | with_reducible assumption | exact o | exact o.regs | exact o.mem | exact o.queues | exact o.now | intro _
                           | with_reducible apply State.rxAccepted_keeps | with_reducible apply State.setLe_keeps
                           | with_reducible apply State.reach_keeps | with_reducible apply State.evt_keeps
                           | with_reducible apply State.put_keeps | with_reducible apply Next.of
                           | with_reducible apply nextIte_keeps | with_reducible apply ite_keeps
                           | with_reducible apply foldl_keeps | with_reducible apply foldlFst_keeps
                           | with_reducible apply foldlSnd_keeps | split | dsimp only)

end Sys2Proof.Machine
end

