-- ==== Sys2Proof/Laws/KeepsBus.lean ====
section
/-! SUPPORT. What the operations of Machine/Bus.lean keep. -/
namespace Sys2Proof.Machine

theorem State.peek_keeps {P : State → Prop} (cRegs : Blind.regs P) (cFresh : Blind.fresh P) {s : State} (h : P s) (src : Src) (a : Nat) (size : Nat) (t : Nat) :
    ∀ x, State.peek s src a size t = some x → P x.2 := by
  intro x hx
  unfold State.peek at hx
  dsimp only at hx
  repeat' (split at hx)
  all_goals cases hx
  all_goals first | with_reducible assumption | (with_reducible apply State.free_keeps cFresh; exact h) | exact State.readReg_keeps cRegs h _ _ _ src

theorem State.poke_keeps {P : State → Prop} (o : Blind.All P) {s : State} (h : P s) (src : Src) (a : Nat) (size : Nat) (v : Nat)
    (t : Nat) : ∀ x, State.poke s src a size v t = some x → P x.1 := by
  intro x hx
  unfold State.poke at hx
  repeat' (split at hx)
  all_goals cases hx
  · exact State.busWrite_keeps o h _ _ _ _ _ _
  · dsimp only
    with_reducible apply State.setStride_keeps o.stride h
  · exact State.setLe_keeps o.mem h _ _ _

end Sys2Proof.Machine
end

