-- ==== Sys2Proof/Laws/KeepsOperands.lean ====
section
/-! SUPPORT. What the accesses of an instruction of the Pacer keep. -/
namespace Sys2Proof.Machine

theorem Run.fail_keeps {P : State → Prop} {r : Run} (h : P r.st) (v : Nat) : P (r.fail v).st := by
  unfold Run.fail
  split
  · exact h
  · exact h

theorem State.lockstep_keeps {P : State → Prop} (o : Blind.All P) {s : State} (h : P s) : P s.lockstep :=
  State.detect_keeps o.fcr (o.pac s _ h) _ _

theorem Run.split_keeps {P : State → Prop} (o : Blind.All P) {r : Run} (h : P r.st) : P r.split.st := State.lockstep_keeps o h

theorem Run.setCtx_keeps {P : State → Prop} (o : Blind.All P) {r : Run} (h : P r.st) (f : CtxSt → CtxSt) : P (r.setCtx f).st :=
  State.setCtx_keeps o.pac h _ _

theorem Run.load_keeps {P : State → Prop} (o : Blind.All P) {r : Run} (h : P r.st) (a size : Nat) : P (r.load a size).2.st := by
  unfold Run.load
  dsimp only
  split
  · exact h
  split
  · exact Run.split_keeps o h
  split
  · exact Run.fail_keeps (by exact h) _
  split
  · exact Run.fail_keeps (by exact h) _
  · rename_i ht
    split
    · exact Run.fail_keeps (by exact h) _
    · exact State.peek_keeps o.regs o.fresh h _ _ _ _ _ ht

theorem Run.save_keeps {P : State → Prop} (o : Blind.All P) {r : Run} (h : P r.st) (a size v : Nat) : P (r.save a size v).st := by
  unfold Run.save
  dsimp only
  split
  · exact h
  split
  · exact Run.split_keeps o h
  split
  · exact Run.fail_keeps (by exact h) _
  split
  · exact Run.fail_keeps (by exact h) _
  · rename_i ht
    exact State.poke_keeps o h _ _ _ _ _ _ ht

theorem Run.address_keeps {P : State → Prop} (o : Blind.All P) {r : Run} (h : P r.st) (x : Opd) (size : Nat) :
    P (r.address x size).2.st := by
  unfold Run.address
  dsimp only
  split <;> first | exact h | exact Run.load_keeps o h _ _ | exact Run.save_keeps o (Run.load_keeps o h _ _) _ _ _
                  | exact Run.load_keeps o (Run.load_keeps o h _ _) _ _

theorem Run.operand_keeps {P : State → Prop} (o : Blind.All P) {r : Run} (h : P r.st) (role : Role) (size : Nat) (x : Opd) :
    P (r.operand role size x).2.st := by
  have h1 := Run.address_keeps o h x size
  unfold Run.operand
  dsimp only
  split
  · exact h
  · split
    · exact h1
    · exact h1
    · split
      · exact h1
      · exact Run.load_keeps o h1 _ _
    · exact Run.load_keeps o h1 _ _
    · exact Run.load_keeps o h1 _ _

theorem Run.operands_keeps {P : State → Prop} (o : Blind.All P) (os : List (Role × Nat × Opd)) {r : Run} (h : P r.st) :
    P (r.operands os).2.st := by
  induction os generalizing r with
  | nil => exact h
  | cons x os ih =>
    unfold Run.operands
    exact ih (Run.operand_keeps o h _ _ _)

theorem Run.put_keeps {P : State → Prop} (o : Blind.All P) {r : Run} (h : P r.st) (g : Got) (v : Nat) : P (r.put g v).st := by
  unfold Run.put
  repeat' split
  · exact h
  · exact Run.setCtx_keeps o h _
  · exact Run.fail_keeps (by exact h) _
  · exact Run.save_keeps o h _ _ _

end Sys2Proof.Machine
end

