-- ==== Sys2Proof/Laws/KeepsPacer.lean ====
section
/-! SUPPORT. What the instructions, traps and events of the Pacer keep. -/
namespace Sys2Proof.Machine

theorem State.enterHandler_keeps {P : State → Prop} (o : Blind.All P) {s : State} (h : P s) (str : Bool) (vec saved ins : Nat)
    (level : Option Nat) (bad : Bool) (mis : Option Nat) (t : Nat) : P (s.enterHandler str vec saved ins level bad mis t) := by
  unfold State.enterHandler
  dsimp only
  generalize hq : Run.load _ _ 4 = q
  have h1 : P q.2.st := by
    rw [← hq]
    exact Run.load_keeps o (Run.save_keeps o (Run.save_keeps o (Run.save_keeps o (by exact h) _ _ _) _ _ _) _ _ _) _ _
  refine ite_keeps h1 (ite_keeps (State.lockstep_keeps o h1) (ite_keeps ?_ (State.setCtx_keeps o.pac h1 _ _)))
  have h2 := State.detect_keeps o.fcr (State.setCtx_keeps o.pac h1 str (fun c => { c with stopped := true, pc := ins })) 0x1D 0
  exact ite_keeps (o.pac _ _ h2) h2

theorem State.takeTrap_keeps {P : State → Prop} (o : Blind.All P) {s : State} (h : P s) (str : Bool) (vec saved ins : Nat)
    (bad : Bool) (mis : Option Nat) (t : Nat) : P (s.takeTrap str vec saved ins bad mis t) := by
  unfold State.takeTrap
  dsimp only
  with_reducible apply State.enterHandler_keeps o
  refine ite_keeps ?_ ?_
  all_goals
    repeat' (first | with_reducible assumption | exact o.regs | with_reducible apply State.evt_keeps
                   | with_reducible apply State.count_keeps | with_reducible apply State.put_keeps)

theorem State.leaveWait_keeps {P : State → Prop} (o : Blind.All P) {s : State} (h : P s) : P s.leaveWait := by
  unfold State.leaveWait
  exact State.setPwr_keeps o.pwr (o.pac _ _ h) _

theorem State.takeSafe_keeps {P : State → Prop} (o : Blind.All P) {s : State} (h : P s) (str bad : Bool) (mis : Option Nat) (t : Nat) :
    P (s.takeSafe str bad mis t) := by
  unfold State.takeSafe
  dsimp only
  with_reducible apply State.takeTrap_keeps o
  refine ite_keeps ?_ ?_
  · exact o.pac _ _ h
  · exact State.leaveWait_keeps o (o.pac _ _ h)

theorem State.haltIn_keeps {P : State → Prop} (o : Blind.All P) {s : State} (h : P s) (str : Bool) (cause t : Nat) :
    P (s.haltIn str cause t) := by
  unfold State.haltIn
  dsimp only
  exact State.pacHalt_keeps o.regs o.stride o.pac (o.pac _ _ h) _ _ _ _

theorem Run.finish_keeps {P : State → Prop} (o : Blind.All P) {r : Run} (h : P r.st) (corrected : Nat) :
    P (r.finish corrected) := by
  unfold Run.finish
  dsimp only
  have hh : ∀ {x : State} (_ : P x) (str : Bool) (c t : Nat), P (x.haltIn str c t) := fun hx => State.haltIn_keeps o hx
  have ht : ∀ {x : State} (_ : P x) (str : Bool) (v a b : Nat) (bad : Bool) (mis : Option Nat) (t : Nat), P (x.takeTrap str v a b bad mis t) :=
    fun hx => State.takeTrap_keeps o hx
  refine ite_keeps h (ite_keeps (State.lockstep_keeps o h) ?_)
  repeat' (first | with_reducible assumption | exact o.regs | exact o.pac | with_reducible apply hh | with_reducible apply ht
                 | with_reducible apply State.setCtx_keeps | with_reducible apply State.put_keeps
                 | with_reducible apply State.evt_keeps | with_reducible apply State.count_keeps
                 | with_reducible apply ite_keeps | split | with_reducible apply o.pac)

theorem State.begin_keeps {P : State → Prop} (o : Blind.All P) {s : State} (h : P s) (t corrected words : Nat)
    (f : Run → Run) (hf : ∀ r, P r.st → P (f r).st) : P (s.begin t corrected words f) := by
  unfold State.begin
  dsimp only
  have h1 := State.reach_keeps o.now h t
  split
  · exact h1
  · refine ite_keeps (ite_keeps (State.haltIn_keeps o ?_ _ _ _) ?_) ?_
    · exact State.takeSafe_keeps o h1 _ _ _ _
    · exact State.takeSafe_keeps o h1 _ _ _ _
    · split
      · exact o.pac _ _ (State.haltIn_keeps o (State.put_keeps o.regs h1 _ _) _ _ _)
      · exact Run.finish_keeps o (hf _ h1) _

theorem State.pacExec_keeps {P : State → Prop} (o : Blind.All P) {s : State} (h : P s) (t op : Nat) (e : PacIns)
    (body : Run → Decoded → Run) (hb : ∀ r d, P r.st → P (body r d).st) : P (s.pacExec t op e body) := by
  unfold State.pacExec
  refine State.begin_keeps o h _ _ _ _ (fun r hr => ?_)
  dsimp only
  split
  · with_reducible apply Run.fail_keeps; exact hr
  · split
    · with_reducible apply Run.fail_keeps; exact hr
    · exact hb _ _ hr

theorem Run.onOperands_keeps {P : State → Prop} (o : Blind.All P) {r : Run} (h : P r.st) (d : Decoded)
    (f : Run → List Got → Run) (hf : ∀ r gs, P r.st → P (f r gs).st) : P (r.onOperands d f).st := by
  unfold Run.onOperands
  have h1 := Run.operands_keeps o d.opds h
  dsimp only
  split
  · exact h1
  · exact hf _ _ h1

theorem Run.flagged_keeps {P : State → Prop} (o : Blind.All P) {r : Run} (h : P r.st) (x : Alu) : P (r.flagged x).st := by
  unfold Run.flagged
  have h1 := Run.setCtx_keeps o h (fun c => { c with fl := x.flags r.ctx.fl })
  dsimp only
  split
  · exact h1
  split
  · exact h1
  · exact h1

theorem Run.retire_keeps {P : State → Prop} (o : Blind.All P) {r : Run} (h : P r.st) (g : Got) (x : Alu) : P (r.retire g x).st := by
  unfold Run.retire
  dsimp only
  split
  · exact Run.put_keeps o h _ _
  · exact Run.flagged_keeps o (Run.put_keeps o h _ _) _

theorem Run.binary_keeps {P : State → Prop} (o : Blind.All P) {r : Run} (h : P r.st) (d : Decoded)
    (f : Nat → Nat → Nat → Nat → Alu) : P (r.binary d f).st :=
  Run.onOperands_keeps o h d _ (fun _ _ hr => Run.retire_keeps o hr _ _)

theorem Run.unary_keeps {P : State → Prop} (o : Blind.All P) {r : Run} (h : P r.st) (d : Decoded) (f : Nat → Nat → Alu) :
    P (r.unary d f).st :=
  Run.onOperands_keeps o h d _ (fun _ _ hr => Run.retire_keeps o hr _ _)

theorem Run.push_keeps {P : State → Prop} (o : Blind.All P) {r : Run} (h : P r.st) (v : Nat) : P (r.push v).st := by
  unfold Run.push
  have h1 := Run.save_keeps o h ((r.ctx.sp + 2 ^ 32 - 4) % 2 ^ 32) 4 v
  dsimp only
  split
  · exact h1
  · exact Run.setCtx_keeps o h1 _

theorem bodyMov_keeps {P : State → Prop} (o : Blind.All P) (r : Run) (d : Decoded) (h : P r.st) : P (bodyMov r d).st :=
  Run.unary_keeps o h _ _

theorem bodyMovz_keeps {P : State → Prop} (o : Blind.All P) (r : Run) (d : Decoded) (h : P r.st) : P (bodyMovz r d).st :=
  Run.unary_keeps o h _ _

theorem bodyMovs_keeps {P : State → Prop} (o : Blind.All P) (r : Run) (d : Decoded) (h : P r.st) : P (bodyMovs r d).st :=
  Run.unary_keeps o h _ _

theorem bodyLea_keeps {P : State → Prop} (o : Blind.All P) (r : Run) (d : Decoded) (h : P r.st) : P (bodyLea r d).st :=
  Run.unary_keeps o h _ _

theorem bodyPush_keeps {P : State → Prop} (o : Blind.All P) (r : Run) (d : Decoded) (h : P r.st) : P (bodyPush r d).st := by
  unfold bodyPush
  repeat' (first | exact h | with_reducible assumption | exact o | intro _ | with_reducible apply Run.onOperands_keeps
                 | with_reducible apply Run.push_keeps | with_reducible apply Run.retire_keeps | with_reducible apply Run.flagged_keeps
                 | with_reducible apply Run.put_keeps | with_reducible apply Run.setCtx_keeps | with_reducible apply Run.fail_keeps
                 | with_reducible apply Run.load_keeps | split | dsimp only)

theorem bodyPop_keeps {P : State → Prop} (o : Blind.All P) (r : Run) (d : Decoded) (h : P r.st) : P (bodyPop r d).st := by
  unfold bodyPop
  repeat' (first | exact h | with_reducible assumption | exact o | intro _ | with_reducible apply Run.onOperands_keeps
                 | with_reducible apply Run.push_keeps | with_reducible apply Run.retire_keeps | with_reducible apply Run.flagged_keeps
                 | with_reducible apply Run.put_keeps | with_reducible apply Run.setCtx_keeps | with_reducible apply Run.fail_keeps
                 | with_reducible apply Run.load_keeps | split | dsimp only)

theorem bodyClr_keeps {P : State → Prop} (o : Blind.All P) (r : Run) (d : Decoded) (h : P r.st) : P (bodyClr r d).st := by
  unfold bodyClr
  repeat' (first | exact h | with_reducible assumption | exact o | intro _ | with_reducible apply Run.onOperands_keeps
                 | with_reducible apply Run.push_keeps | with_reducible apply Run.retire_keeps | with_reducible apply Run.flagged_keeps
                 | with_reducible apply Run.put_keeps | with_reducible apply Run.setCtx_keeps | with_reducible apply Run.fail_keeps
                 | with_reducible apply Run.load_keeps | split | dsimp only)

theorem bodyAdd_keeps {P : State → Prop} (o : Blind.All P) (r : Run) (d : Decoded) (h : P r.st) : P (bodyAdd r d).st :=
  Run.binary_keeps o h _ _

theorem bodyAddc_keeps {P : State → Prop} (o : Blind.All P) (r : Run) (d : Decoded) (h : P r.st) : P (bodyAddc r d).st :=
  Run.binary_keeps o h _ _

theorem bodySub_keeps {P : State → Prop} (o : Blind.All P) (r : Run) (d : Decoded) (h : P r.st) : P (bodySub r d).st :=
  Run.binary_keeps o h _ _

theorem bodySubc_keeps {P : State → Prop} (o : Blind.All P) (r : Run) (d : Decoded) (h : P r.st) : P (bodySubc r d).st :=
  Run.binary_keeps o h _ _

theorem bodyAddS_keeps {P : State → Prop} (o : Blind.All P) (r : Run) (d : Decoded) (h : P r.st) : P (bodyAddS r d).st :=
  Run.binary_keeps o h _ _

theorem bodySubS_keeps {P : State → Prop} (o : Blind.All P) (r : Run) (d : Decoded) (h : P r.st) : P (bodySubS r d).st :=
  Run.binary_keeps o h _ _

theorem bodyNeg_keeps {P : State → Prop} (o : Blind.All P) (r : Run) (d : Decoded) (h : P r.st) : P (bodyNeg r d).st :=
  Run.unary_keeps o h _ _

theorem bodyNegS_keeps {P : State → Prop} (o : Blind.All P) (r : Run) (d : Decoded) (h : P r.st) : P (bodyNegS r d).st :=
  Run.unary_keeps o h _ _

theorem bodyAbs_keeps {P : State → Prop} (o : Blind.All P) (r : Run) (d : Decoded) (h : P r.st) : P (bodyAbs r d).st :=
  Run.unary_keeps o h _ _

theorem bodyAbsS_keeps {P : State → Prop} (o : Blind.All P) (r : Run) (d : Decoded) (h : P r.st) : P (bodyAbsS r d).st :=
  Run.unary_keeps o h _ _

theorem bodyMul_keeps {P : State → Prop} (o : Blind.All P) (r : Run) (d : Decoded) (h : P r.st) : P (bodyMul r d).st :=
  Run.binary_keeps o h _ _

theorem bodyMulhu_keeps {P : State → Prop} (o : Blind.All P) (r : Run) (d : Decoded) (h : P r.st) : P (bodyMulhu r d).st :=
  Run.binary_keeps o h _ _

theorem bodyMulhs_keeps {P : State → Prop} (o : Blind.All P) (r : Run) (d : Decoded) (h : P r.st) : P (bodyMulhs r d).st :=
  Run.binary_keeps o h _ _

theorem bodyDiv_keeps {P : State → Prop} (o : Blind.All P) (r : Run) (d : Decoded) (h : P r.st) : P (bodyDiv r d).st :=
  Run.binary_keeps o h _ _

theorem bodyDivs_keeps {P : State → Prop} (o : Blind.All P) (r : Run) (d : Decoded) (h : P r.st) : P (bodyDivs r d).st :=
  Run.binary_keeps o h _ _

theorem bodyRem_keeps {P : State → Prop} (o : Blind.All P) (r : Run) (d : Decoded) (h : P r.st) : P (bodyRem r d).st :=
  Run.binary_keeps o h _ _

theorem bodyRems_keeps {P : State → Prop} (o : Blind.All P) (r : Run) (d : Decoded) (h : P r.st) : P (bodyRems r d).st :=
  Run.binary_keeps o h _ _

theorem bodyCmp_keeps {P : State → Prop} (o : Blind.All P) (r : Run) (d : Decoded) (h : P r.st) : P (bodyCmp r d).st := by
  unfold bodyCmp
  repeat' (first | exact h | with_reducible assumption | exact o | intro _ | with_reducible apply Run.onOperands_keeps
                 | with_reducible apply Run.push_keeps | with_reducible apply Run.retire_keeps | with_reducible apply Run.flagged_keeps
                 | with_reducible apply Run.put_keeps | with_reducible apply Run.setCtx_keeps | with_reducible apply Run.fail_keeps
                 | with_reducible apply Run.load_keeps | split | dsimp only)

theorem bodyTst_keeps {P : State → Prop} (o : Blind.All P) (r : Run) (d : Decoded) (h : P r.st) : P (bodyTst r d).st := by
  unfold bodyTst
  repeat' (first | exact h | with_reducible assumption | exact o | intro _ | with_reducible apply Run.onOperands_keeps
                 | with_reducible apply Run.push_keeps | with_reducible apply Run.retire_keeps | with_reducible apply Run.flagged_keeps
                 | with_reducible apply Run.put_keeps | with_reducible apply Run.setCtx_keeps | with_reducible apply Run.fail_keeps
                 | with_reducible apply Run.load_keeps | split | dsimp only)

theorem bodyAnd_keeps {P : State → Prop} (o : Blind.All P) (r : Run) (d : Decoded) (h : P r.st) : P (bodyAnd r d).st :=
  Run.binary_keeps o h _ _

theorem bodyOr_keeps {P : State → Prop} (o : Blind.All P) (r : Run) (d : Decoded) (h : P r.st) : P (bodyOr r d).st :=
  Run.binary_keeps o h _ _

theorem bodyXor_keeps {P : State → Prop} (o : Blind.All P) (r : Run) (d : Decoded) (h : P r.st) : P (bodyXor r d).st :=
  Run.binary_keeps o h _ _

theorem bodyBic_keeps {P : State → Prop} (o : Blind.All P) (r : Run) (d : Decoded) (h : P r.st) : P (bodyBic r d).st :=
  Run.binary_keeps o h _ _

theorem bodyNot_keeps {P : State → Prop} (o : Blind.All P) (r : Run) (d : Decoded) (h : P r.st) : P (bodyNot r d).st :=
  Run.unary_keeps o h _ _

theorem bodyShl_keeps {P : State → Prop} (o : Blind.All P) (r : Run) (d : Decoded) (h : P r.st) : P (bodyShl r d).st :=
  Run.binary_keeps o h _ _

theorem bodyShr_keeps {P : State → Prop} (o : Blind.All P) (r : Run) (d : Decoded) (h : P r.st) : P (bodyShr r d).st :=
  Run.binary_keeps o h _ _

theorem bodySar_keeps {P : State → Prop} (o : Blind.All P) (r : Run) (d : Decoded) (h : P r.st) : P (bodySar r d).st :=
  Run.binary_keeps o h _ _

theorem bodyRol_keeps {P : State → Prop} (o : Blind.All P) (r : Run) (d : Decoded) (h : P r.st) : P (bodyRol r d).st :=
  Run.binary_keeps o h _ _

theorem bodyRor_keeps {P : State → Prop} (o : Blind.All P) (r : Run) (d : Decoded) (h : P r.st) : P (bodyRor r d).st :=
  Run.binary_keeps o h _ _

theorem bodyClz_keeps {P : State → Prop} (o : Blind.All P) (r : Run) (d : Decoded) (h : P r.st) : P (bodyClz r d).st :=
  Run.unary_keeps o h _ _

theorem bodyMin_keeps {P : State → Prop} (o : Blind.All P) (r : Run) (d : Decoded) (h : P r.st) : P (bodyMin r d).st :=
  Run.binary_keeps o h _ _

theorem bodyMax_keeps {P : State → Prop} (o : Blind.All P) (r : Run) (d : Decoded) (h : P r.st) : P (bodyMax r d).st :=
  Run.binary_keeps o h _ _

theorem bodyMins_keeps {P : State → Prop} (o : Blind.All P) (r : Run) (d : Decoded) (h : P r.st) : P (bodyMins r d).st :=
  Run.binary_keeps o h _ _

theorem bodyMaxs_keeps {P : State → Prop} (o : Blind.All P) (r : Run) (d : Decoded) (h : P r.st) : P (bodyMaxs r d).st :=
  Run.binary_keeps o h _ _

theorem bodyJmp_keeps {P : State → Prop} (o : Blind.All P) (r : Run) (d : Decoded) (h : P r.st) : P (bodyJmp r d).st := by
  unfold bodyJmp
  repeat' (first | exact h | with_reducible assumption | exact o | intro _ | with_reducible apply Run.onOperands_keeps
                 | with_reducible apply Run.push_keeps | with_reducible apply Run.retire_keeps | with_reducible apply Run.flagged_keeps
                 | with_reducible apply Run.put_keeps | with_reducible apply Run.setCtx_keeps | with_reducible apply Run.fail_keeps
                 | with_reducible apply Run.load_keeps | split | dsimp only)

theorem bodyCall_keeps {P : State → Prop} (o : Blind.All P) (r : Run) (d : Decoded) (h : P r.st) : P (bodyCall r d).st := by
  unfold bodyCall
  repeat' (first | exact h | with_reducible assumption | exact o | intro _ | with_reducible apply Run.onOperands_keeps
                 | with_reducible apply Run.push_keeps | with_reducible apply Run.retire_keeps | with_reducible apply Run.flagged_keeps
                 | with_reducible apply Run.put_keeps | with_reducible apply Run.setCtx_keeps | with_reducible apply Run.fail_keeps
                 | with_reducible apply Run.load_keeps | split | dsimp only)

theorem bodyBcc_keeps {P : State → Prop} (o : Blind.All P) (r : Run) (d : Decoded) (h : P r.st) : P (bodyBcc r d).st := by
  unfold bodyBcc
  repeat' (first | exact h | with_reducible assumption | exact o | intro _ | with_reducible apply Run.onOperands_keeps
                 | with_reducible apply Run.push_keeps | with_reducible apply Run.retire_keeps | with_reducible apply Run.flagged_keeps
                 | with_reducible apply Run.put_keeps | with_reducible apply Run.setCtx_keeps | with_reducible apply Run.fail_keeps
                 | with_reducible apply Run.load_keeps | split | dsimp only)

theorem bodyDjnz_keeps {P : State → Prop} (o : Blind.All P) (r : Run) (d : Decoded) (h : P r.st) : P (bodyDjnz r d).st := by
  unfold bodyDjnz
  repeat' (first | exact h | with_reducible assumption | exact o | intro _ | with_reducible apply Run.onOperands_keeps
                 | with_reducible apply Run.push_keeps | with_reducible apply Run.retire_keeps | with_reducible apply Run.flagged_keeps
                 | with_reducible apply Run.put_keeps | with_reducible apply Run.setCtx_keeps | with_reducible apply Run.fail_keeps
                 | with_reducible apply Run.load_keeps | split | dsimp only)

theorem bodyNop_keeps {P : State → Prop} (r : Run) (d : Decoded) (h : P r.st) : P (bodyNop r d).st := h

theorem bodyFin_keeps {P : State → Prop} (o : Blind.All P) (r : Run) (d : Decoded) (h : P r.st) : P (bodyFin r d).st := by
  unfold bodyFin
  split
  · exact State.finStride_keeps o.regs o.mem o.stride o.queues o.fcr o.scan o.cal o.now h _
  · with_reducible apply Run.fail_keeps; exact h

theorem bodyWait_keeps {P : State → Prop} (o : Blind.All P) (r : Run) (d : Decoded) (h : P r.st) : P (bodyWait r d).st := by
  unfold bodyWait
  split
  · with_reducible apply Run.fail_keeps; exact h
  · exact State.waitEnter_keeps o.regs o.timers o.pwr (o.pac _ _ h) _ _

theorem bodyRet_keeps {P : State → Prop} (o : Blind.All P) (r : Run) (d : Decoded) (h : P r.st) : P (bodyRet r d).st := by
  unfold bodyRet
  repeat' (first | exact h | with_reducible assumption | exact o | intro _ | with_reducible apply Run.onOperands_keeps
                 | with_reducible apply Run.push_keeps | with_reducible apply Run.retire_keeps | with_reducible apply Run.flagged_keeps
                 | with_reducible apply Run.put_keeps | with_reducible apply Run.setCtx_keeps | with_reducible apply Run.fail_keeps
                 | with_reducible apply Run.load_keeps | split | dsimp only)

theorem bodyRete_keeps {P : State → Prop} (o : Blind.All P) (r : Run) (d : Decoded) (h : P r.st) : P (bodyRete r d).st := by
  unfold bodyRete
  repeat' (first | exact h | with_reducible assumption | exact o | intro _ | with_reducible apply Run.onOperands_keeps
                 | with_reducible apply Run.push_keeps | with_reducible apply Run.retire_keeps | with_reducible apply Run.flagged_keeps
                 | with_reducible apply Run.put_keeps | with_reducible apply Run.setCtx_keeps | with_reducible apply Run.fail_keeps
                 | with_reducible apply Run.load_keeps | split | dsimp only)

theorem bodyBkpt_keeps {P : State → Prop} (o : Blind.All P) (r : Run) (d : Decoded) (h : P r.st) : P (bodyBkpt r d).st := by
  unfold bodyBkpt
  repeat' (first | exact h | with_reducible assumption | exact o | intro _ | with_reducible apply Run.onOperands_keeps
                 | with_reducible apply Run.push_keeps | with_reducible apply Run.retire_keeps | with_reducible apply Run.flagged_keeps
                 | with_reducible apply Run.put_keeps | with_reducible apply Run.setCtx_keeps | with_reducible apply Run.fail_keeps
                 | with_reducible apply Run.load_keeps | split | dsimp only)

theorem bodyTrap_keeps {P : State → Prop} (r : Run) (d : Decoded) (h : P r.st) : P (bodyTrap r d).st := h

theorem bodyEi_keeps {P : State → Prop} (o : Blind.All P) (r : Run) (d : Decoded) (h : P r.st) : P (bodyEi r d).st := by
  unfold bodyEi
  repeat' (first | exact h | with_reducible assumption | exact o | intro _ | with_reducible apply Run.onOperands_keeps
                 | with_reducible apply Run.push_keeps | with_reducible apply Run.retire_keeps | with_reducible apply Run.flagged_keeps
                 | with_reducible apply Run.put_keeps | with_reducible apply Run.setCtx_keeps | with_reducible apply Run.fail_keeps
                 | with_reducible apply Run.load_keeps | split | dsimp only)

theorem bodyDi_keeps {P : State → Prop} (o : Blind.All P) (r : Run) (d : Decoded) (h : P r.st) : P (bodyDi r d).st := by
  unfold bodyDi
  repeat' (first | exact h | with_reducible assumption | exact o | intro _ | with_reducible apply Run.onOperands_keeps
                 | with_reducible apply Run.push_keeps | with_reducible apply Run.retire_keeps | with_reducible apply Run.flagged_keeps
                 | with_reducible apply Run.put_keeps | with_reducible apply Run.setCtx_keeps | with_reducible apply Run.fail_keeps
                 | with_reducible apply Run.load_keeps | split | dsimp only)

theorem bodyOf_keeps {P : State → Prop} (o : Blind.All P) (op : Nat) (r : Run) (d : Decoded) (h : P r.st) :
    P (bodyOf op r d).st := by
  unfold bodyOf
  split
  · exact bodyMov_keeps o r d h
  · exact bodyMovz_keeps o r d h
  · exact bodyMovs_keeps o r d h
  · exact bodyLea_keeps o r d h
  · exact bodyPush_keeps o r d h
  · exact bodyPop_keeps o r d h
  · exact bodyClr_keeps o r d h
  · exact bodyAdd_keeps o r d h
  · exact bodyAddc_keeps o r d h
  · exact bodySub_keeps o r d h
  · exact bodySubc_keeps o r d h
  · exact bodyAddS_keeps o r d h
  · exact bodySubS_keeps o r d h
  · exact bodyNeg_keeps o r d h
  · exact bodyNegS_keeps o r d h
  · exact bodyAbs_keeps o r d h
  · exact bodyAbsS_keeps o r d h
  · exact bodyMul_keeps o r d h
  · exact bodyMulhu_keeps o r d h
  · exact bodyMulhs_keeps o r d h
  · exact bodyDiv_keeps o r d h
  · exact bodyDivs_keeps o r d h
  · exact bodyRem_keeps o r d h
  · exact bodyRems_keeps o r d h
  · exact bodyCmp_keeps o r d h
  · exact bodyTst_keeps o r d h
  · exact bodyAnd_keeps o r d h
  · exact bodyOr_keeps o r d h
  · exact bodyXor_keeps o r d h
  · exact bodyBic_keeps o r d h
  · exact bodyNot_keeps o r d h
  · exact bodyShl_keeps o r d h
  · exact bodyShr_keeps o r d h
  · exact bodySar_keeps o r d h
  · exact bodyRol_keeps o r d h
  · exact bodyRor_keeps o r d h
  · exact bodyClz_keeps o r d h
  · exact bodyMin_keeps o r d h
  · exact bodyMax_keeps o r d h
  · exact bodyMins_keeps o r d h
  · exact bodyMaxs_keeps o r d h
  · exact bodyNop_keeps r d h

theorem Run.iterate_keeps {P : State → Prop} (o : Blind.All P) (d : Decoded) (n : Nat) {r : Run} (h : P r.st) :
    P (Run.iterate d n r).st := by
  induction n generalizing r with
  | zero => exact h
  | succ n ih =>
    unfold Run.iterate
    have h1 := bodyOf_keeps o d.op { r with log := [] } d h
    dsimp only
    split
    · exact h
    split
    · exact h1
    split
    · exact Run.setCtx_keeps o h1 _
    · exact ih (Run.setCtx_keeps o h1 _)

theorem Run.noteRepl_keeps {P : State → Prop} (o : Blind.All P) {q : Run} (h : P q.st) (locked : Bool) (r : Run) :
    P (q.noteRepl locked r).st := by
  unfold Run.noteRepl
  split
  · exact h
  · exact o.pac _ _ h

theorem State.pacRepeat_keeps {P : State → Prop} (o : Blind.All P) {s : State} (h : P s) (t : Nat) (locked : Bool) (e : PacIns)
    (op : Nat) (i : PacIns) (n : Nat) : P (s.pacRepeat t locked e op i n) := by
  unfold State.pacRepeat
  refine State.begin_keeps o h _ _ _ _ (fun r hr => ?_)
  dsimp only
  split
  · exact Run.fail_keeps hr _
  split
  · exact Run.fail_keeps hr _
  split
  · exact Run.fail_keeps hr _
  split
  · exact Run.fail_keeps hr _
  split
  · exact Run.fail_keeps hr _
  · refine Run.noteRepl_keeps o ?_ _ _
    with_reducible apply Run.iterate_keeps o; exact hr

theorem execMov_keeps {P : State → Prop} (o : Blind.All P) {s : State} (h : P s) (t : Nat) (e : PacIns) : Next P (execMov t e s) :=
  Next.of (State.pacExec_keeps o h _ _ _ _ (bodyMov_keeps o))

theorem execMovz_keeps {P : State → Prop} (o : Blind.All P) {s : State} (h : P s) (t : Nat) (e : PacIns) : Next P (execMovz t e s) :=
  Next.of (State.pacExec_keeps o h _ _ _ _ (bodyMovz_keeps o))

theorem execMovs_keeps {P : State → Prop} (o : Blind.All P) {s : State} (h : P s) (t : Nat) (e : PacIns) : Next P (execMovs t e s) :=
  Next.of (State.pacExec_keeps o h _ _ _ _ (bodyMovs_keeps o))

theorem execLea_keeps {P : State → Prop} (o : Blind.All P) {s : State} (h : P s) (t : Nat) (e : PacIns) : Next P (execLea t e s) :=
  Next.of (State.pacExec_keeps o h _ _ _ _ (bodyLea_keeps o))

theorem execPush_keeps {P : State → Prop} (o : Blind.All P) {s : State} (h : P s) (t : Nat) (e : PacIns) : Next P (execPush t e s) :=
  Next.of (State.pacExec_keeps o h _ _ _ _ (bodyPush_keeps o))

theorem execPop_keeps {P : State → Prop} (o : Blind.All P) {s : State} (h : P s) (t : Nat) (e : PacIns) : Next P (execPop t e s) :=
  Next.of (State.pacExec_keeps o h _ _ _ _ (bodyPop_keeps o))

theorem execClr_keeps {P : State → Prop} (o : Blind.All P) {s : State} (h : P s) (t : Nat) (e : PacIns) : Next P (execClr t e s) :=
  Next.of (State.pacExec_keeps o h _ _ _ _ (bodyClr_keeps o))

theorem execAdd_keeps {P : State → Prop} (o : Blind.All P) {s : State} (h : P s) (t : Nat) (e : PacIns) : Next P (execAdd t e s) :=
  Next.of (State.pacExec_keeps o h _ _ _ _ (bodyAdd_keeps o))

theorem execAddc_keeps {P : State → Prop} (o : Blind.All P) {s : State} (h : P s) (t : Nat) (e : PacIns) : Next P (execAddc t e s) :=
  Next.of (State.pacExec_keeps o h _ _ _ _ (bodyAddc_keeps o))

theorem execSub_keeps {P : State → Prop} (o : Blind.All P) {s : State} (h : P s) (t : Nat) (e : PacIns) : Next P (execSub t e s) :=
  Next.of (State.pacExec_keeps o h _ _ _ _ (bodySub_keeps o))

theorem execSubc_keeps {P : State → Prop} (o : Blind.All P) {s : State} (h : P s) (t : Nat) (e : PacIns) : Next P (execSubc t e s) :=
  Next.of (State.pacExec_keeps o h _ _ _ _ (bodySubc_keeps o))

theorem execAddS_keeps {P : State → Prop} (o : Blind.All P) {s : State} (h : P s) (t : Nat) (e : PacIns) : Next P (execAddS t e s) :=
  Next.of (State.pacExec_keeps o h _ _ _ _ (bodyAddS_keeps o))

theorem execSubS_keeps {P : State → Prop} (o : Blind.All P) {s : State} (h : P s) (t : Nat) (e : PacIns) : Next P (execSubS t e s) :=
  Next.of (State.pacExec_keeps o h _ _ _ _ (bodySubS_keeps o))

theorem execNeg_keeps {P : State → Prop} (o : Blind.All P) {s : State} (h : P s) (t : Nat) (e : PacIns) : Next P (execNeg t e s) :=
  Next.of (State.pacExec_keeps o h _ _ _ _ (bodyNeg_keeps o))

theorem execNegS_keeps {P : State → Prop} (o : Blind.All P) {s : State} (h : P s) (t : Nat) (e : PacIns) : Next P (execNegS t e s) :=
  Next.of (State.pacExec_keeps o h _ _ _ _ (bodyNegS_keeps o))

theorem execAbs_keeps {P : State → Prop} (o : Blind.All P) {s : State} (h : P s) (t : Nat) (e : PacIns) : Next P (execAbs t e s) :=
  Next.of (State.pacExec_keeps o h _ _ _ _ (bodyAbs_keeps o))

theorem execAbsS_keeps {P : State → Prop} (o : Blind.All P) {s : State} (h : P s) (t : Nat) (e : PacIns) : Next P (execAbsS t e s) :=
  Next.of (State.pacExec_keeps o h _ _ _ _ (bodyAbsS_keeps o))

theorem execMul_keeps {P : State → Prop} (o : Blind.All P) {s : State} (h : P s) (t : Nat) (e : PacIns) : Next P (execMul t e s) :=
  Next.of (State.pacExec_keeps o h _ _ _ _ (bodyMul_keeps o))

theorem execMulhu_keeps {P : State → Prop} (o : Blind.All P) {s : State} (h : P s) (t : Nat) (e : PacIns) : Next P (execMulhu t e s) :=
  Next.of (State.pacExec_keeps o h _ _ _ _ (bodyMulhu_keeps o))

theorem execMulhs_keeps {P : State → Prop} (o : Blind.All P) {s : State} (h : P s) (t : Nat) (e : PacIns) : Next P (execMulhs t e s) :=
  Next.of (State.pacExec_keeps o h _ _ _ _ (bodyMulhs_keeps o))

theorem execDiv_keeps {P : State → Prop} (o : Blind.All P) {s : State} (h : P s) (t : Nat) (e : PacIns) : Next P (execDiv t e s) :=
  Next.of (State.pacExec_keeps o h _ _ _ _ (bodyDiv_keeps o))

theorem execDivs_keeps {P : State → Prop} (o : Blind.All P) {s : State} (h : P s) (t : Nat) (e : PacIns) : Next P (execDivs t e s) :=
  Next.of (State.pacExec_keeps o h _ _ _ _ (bodyDivs_keeps o))

theorem execRem_keeps {P : State → Prop} (o : Blind.All P) {s : State} (h : P s) (t : Nat) (e : PacIns) : Next P (execRem t e s) :=
  Next.of (State.pacExec_keeps o h _ _ _ _ (bodyRem_keeps o))

theorem execRems_keeps {P : State → Prop} (o : Blind.All P) {s : State} (h : P s) (t : Nat) (e : PacIns) : Next P (execRems t e s) :=
  Next.of (State.pacExec_keeps o h _ _ _ _ (bodyRems_keeps o))

theorem execCmp_keeps {P : State → Prop} (o : Blind.All P) {s : State} (h : P s) (t : Nat) (e : PacIns) : Next P (execCmp t e s) :=
  Next.of (State.pacExec_keeps o h _ _ _ _ (bodyCmp_keeps o))

theorem execTst_keeps {P : State → Prop} (o : Blind.All P) {s : State} (h : P s) (t : Nat) (e : PacIns) : Next P (execTst t e s) :=
  Next.of (State.pacExec_keeps o h _ _ _ _ (bodyTst_keeps o))

theorem execAndOp_keeps {P : State → Prop} (o : Blind.All P) {s : State} (h : P s) (t : Nat) (e : PacIns) : Next P (execAndOp t e s) :=
  Next.of (State.pacExec_keeps o h _ _ _ _ (bodyAnd_keeps o))

theorem execOrOp_keeps {P : State → Prop} (o : Blind.All P) {s : State} (h : P s) (t : Nat) (e : PacIns) : Next P (execOrOp t e s) :=
  Next.of (State.pacExec_keeps o h _ _ _ _ (bodyOr_keeps o))

theorem execXor_keeps {P : State → Prop} (o : Blind.All P) {s : State} (h : P s) (t : Nat) (e : PacIns) : Next P (execXor t e s) :=
  Next.of (State.pacExec_keeps o h _ _ _ _ (bodyXor_keeps o))

theorem execBic_keeps {P : State → Prop} (o : Blind.All P) {s : State} (h : P s) (t : Nat) (e : PacIns) : Next P (execBic t e s) :=
  Next.of (State.pacExec_keeps o h _ _ _ _ (bodyBic_keeps o))

theorem execNotOp_keeps {P : State → Prop} (o : Blind.All P) {s : State} (h : P s) (t : Nat) (e : PacIns) : Next P (execNotOp t e s) :=
  Next.of (State.pacExec_keeps o h _ _ _ _ (bodyNot_keeps o))

theorem execShl_keeps {P : State → Prop} (o : Blind.All P) {s : State} (h : P s) (t : Nat) (e : PacIns) : Next P (execShl t e s) :=
  Next.of (State.pacExec_keeps o h _ _ _ _ (bodyShl_keeps o))

theorem execShr_keeps {P : State → Prop} (o : Blind.All P) {s : State} (h : P s) (t : Nat) (e : PacIns) : Next P (execShr t e s) :=
  Next.of (State.pacExec_keeps o h _ _ _ _ (bodyShr_keeps o))

theorem execSar_keeps {P : State → Prop} (o : Blind.All P) {s : State} (h : P s) (t : Nat) (e : PacIns) : Next P (execSar t e s) :=
  Next.of (State.pacExec_keeps o h _ _ _ _ (bodySar_keeps o))

theorem execRol_keeps {P : State → Prop} (o : Blind.All P) {s : State} (h : P s) (t : Nat) (e : PacIns) : Next P (execRol t e s) :=
  Next.of (State.pacExec_keeps o h _ _ _ _ (bodyRol_keeps o))

theorem execRor_keeps {P : State → Prop} (o : Blind.All P) {s : State} (h : P s) (t : Nat) (e : PacIns) : Next P (execRor t e s) :=
  Next.of (State.pacExec_keeps o h _ _ _ _ (bodyRor_keeps o))

theorem execClz_keeps {P : State → Prop} (o : Blind.All P) {s : State} (h : P s) (t : Nat) (e : PacIns) : Next P (execClz t e s) :=
  Next.of (State.pacExec_keeps o h _ _ _ _ (bodyClz_keeps o))

theorem execMinOp_keeps {P : State → Prop} (o : Blind.All P) {s : State} (h : P s) (t : Nat) (e : PacIns) : Next P (execMinOp t e s) :=
  Next.of (State.pacExec_keeps o h _ _ _ _ (bodyMin_keeps o))

theorem execMaxOp_keeps {P : State → Prop} (o : Blind.All P) {s : State} (h : P s) (t : Nat) (e : PacIns) : Next P (execMaxOp t e s) :=
  Next.of (State.pacExec_keeps o h _ _ _ _ (bodyMax_keeps o))

theorem execMins_keeps {P : State → Prop} (o : Blind.All P) {s : State} (h : P s) (t : Nat) (e : PacIns) : Next P (execMins t e s) :=
  Next.of (State.pacExec_keeps o h _ _ _ _ (bodyMins_keeps o))

theorem execMaxs_keeps {P : State → Prop} (o : Blind.All P) {s : State} (h : P s) (t : Nat) (e : PacIns) : Next P (execMaxs t e s) :=
  Next.of (State.pacExec_keeps o h _ _ _ _ (bodyMaxs_keeps o))

theorem execJmp_keeps {P : State → Prop} (o : Blind.All P) {s : State} (h : P s) (t : Nat) (e : PacIns) : Next P (execJmp t e s) :=
  Next.of (State.pacExec_keeps o h _ _ _ _ (bodyJmp_keeps o))

theorem execCall_keeps {P : State → Prop} (o : Blind.All P) {s : State} (h : P s) (t : Nat) (e : PacIns) : Next P (execCall t e s) :=
  Next.of (State.pacExec_keeps o h _ _ _ _ (bodyCall_keeps o))

theorem execBcc_keeps {P : State → Prop} (o : Blind.All P) {s : State} (h : P s) (t : Nat) (e : PacIns) : Next P (execBcc t e s) :=
  Next.of (State.pacExec_keeps o h _ _ _ _ (bodyBcc_keeps o))

theorem execDjnz_keeps {P : State → Prop} (o : Blind.All P) {s : State} (h : P s) (t : Nat) (e : PacIns) : Next P (execDjnz t e s) :=
  Next.of (State.pacExec_keeps o h _ _ _ _ (bodyDjnz_keeps o))

theorem execNop_keeps {P : State → Prop} (o : Blind.All P) {s : State} (h : P s) (t : Nat) (e : PacIns) : Next P (execNop t e s) :=
  Next.of (State.pacExec_keeps o h _ _ _ _ (bodyNop_keeps))

theorem execFin_keeps {P : State → Prop} (o : Blind.All P) {s : State} (h : P s) (t : Nat) (e : PacIns) : Next P (execFin t e s) :=
  Next.of (State.pacExec_keeps o h _ _ _ _ (bodyFin_keeps o))

theorem execWait_keeps {P : State → Prop} (o : Blind.All P) {s : State} (h : P s) (t : Nat) (e : PacIns) : Next P (execWait t e s) :=
  Next.of (State.pacExec_keeps o h _ _ _ _ (bodyWait_keeps o))

theorem execRet_keeps {P : State → Prop} (o : Blind.All P) {s : State} (h : P s) (t : Nat) (e : PacIns) : Next P (execRet t e s) :=
  Next.of (State.pacExec_keeps o h _ _ _ _ (bodyRet_keeps o))

theorem execRete_keeps {P : State → Prop} (o : Blind.All P) {s : State} (h : P s) (t : Nat) (e : PacIns) : Next P (execRete t e s) :=
  Next.of (State.pacExec_keeps o h _ _ _ _ (bodyRete_keeps o))

theorem execBkpt_keeps {P : State → Prop} (o : Blind.All P) {s : State} (h : P s) (t : Nat) (e : PacIns) : Next P (execBkpt t e s) :=
  Next.of (State.pacExec_keeps o h _ _ _ _ (bodyBkpt_keeps o))

theorem execTrap_keeps {P : State → Prop} (o : Blind.All P) {s : State} (h : P s) (t : Nat) (e : PacIns) : Next P (execTrap t e s) :=
  Next.of (State.pacExec_keeps o h _ _ _ _ (bodyTrap_keeps))

theorem execEi_keeps {P : State → Prop} (o : Blind.All P) {s : State} (h : P s) (t : Nat) (e : PacIns) : Next P (execEi t e s) :=
  Next.of (State.pacExec_keeps o h _ _ _ _ (bodyEi_keeps o))

theorem execDi_keeps {P : State → Prop} (o : Blind.All P) {s : State} (h : P s) (t : Nat) (e : PacIns) : Next P (execDi t e s) :=
  Next.of (State.pacExec_keeps o h _ _ _ _ (bodyDi_keeps o))

theorem execRep_keeps {P : State → Prop} (o : Blind.All P) {s : State} (h : P s) (t : Nat) (e : PacIns) (op : Nat) (i : PacIns)
    (n : Nat) : Next P (execRep t e op i n s) :=
  Next.of (State.pacRepeat_keeps o h _ _ _ _ _ _)

theorem execRepl_keeps {P : State → Prop} (o : Blind.All P) {s : State} (h : P s) (t : Nat) (e : PacIns) (op : Nat) (i : PacIns)
    (n : Nat) : Next P (execRepl t e op i n s) :=
  Next.of (State.pacRepeat_keeps o h _ _ _ _ _ _)

theorem execUndefinedOpcode_keeps {P : State → Prop} (o : Blind.All P) {s : State} (h : P s) (t op : Nat) (e : PacIns) :
    Next P (execUndefinedOpcode t op e s) :=
  Next.of (ite_keeps (State.pacExec_keeps o h _ _ _ _ bodyNop_keeps) h)

theorem execServiceEventEntry_keeps {P : State → Prop} (o : Blind.All P) {s : State} (h : P s) (t : Nat) (bad : EntryLoss) :
    Next P (execServiceEventEntry t bad s) := by
  unfold execServiceEventEntry
  with_reducible apply Next.of
  have h1 := State.reach_keeps o.now h t
  dsimp only
  refine ite_keeps h1 ?_
  split
  · exact h1
  · refine ite_keeps ?_ (ite_keeps ?_ h1)
    · exact State.enterHandler_keeps o (State.leaveWait_keeps o h1) _ _ _ _ _ _ _ _
    · exact State.leaveWait_keeps o h1

theorem execSafeTrap_keeps {P : State → Prop} (o : Blind.All P) {s : State} (h : P s) (t : Nat) (bad : EntryLoss) :
    Next P (execSafeTrap t bad s) := by
  unfold execSafeTrap
  with_reducible apply Next.of
  have h1 := State.reach_keeps o.now h t
  have h2 : ∀ (str : Bool), P ((s.reach t).takeSafe str bad.bad bad.mis t) := fun _ => State.takeSafe_keeps o h1 _ _ _ _
  dsimp only
  exact ite_keeps h1 (ite_keeps (ite_keeps h1 (h2 _)) (ite_keeps (h2 _) h1))

end Sys2Proof.Machine
end

