-- ==== Sys2Proof/Laws/KeepsDebug.lean ====
section
/-! SUPPORT. What the operations of the debug port keep. -/
namespace Sys2Proof.Machine

theorem State.setTap_keeps {P : State → Prop} (o : Blind.All P) {s : State} (h : P s) (f : TapSt → TapSt) : P (s.setTap f) :=
  o.tap _ _ h

theorem State.tapSelect_keeps {P : State → Prop} (o : Blind.All P) {s : State} (h : P s) (code : Nat) : P (s.tapSelect code) :=
  State.setTap_keeps o h _

theorem State.tapRun_keeps {P : State → Prop} (o : Blind.All P) {s : State} (h : P s) (code t : Nat) (f : State → State)
    (hf : ∀ x, P x → P (f x)) : P (s.tapRun code t f) :=
  ite_keeps (hf _ (State.tapSelect_keeps o (State.reach_keeps o.now h t) code)) (State.reach_keeps o.now h t)

theorem State.boundaryScan_keeps {P : State → Prop} (o : Blind.All P) {s : State} (h : P s) (levels shift : List Bool) :
    P (s.boundaryScan levels shift) := ite_keeps (State.setTap_keeps o h _) h

theorem State.attachPort_keeps {P : State → Prop} (o : Blind.All P) {s : State} (h : P s) : P s.attachPort := by
  unfold State.attachPort
  repeat' (first | with_reducible assumption | exact o.regs | exact o.pwr | with_reducible apply State.wakeSource_keeps
                 | with_reducible apply State.evt_keeps | with_reducible apply State.put_keeps | split | dsimp only)

theorem State.resumePacer_keeps {P : State → Prop} (o : Blind.All P) {s : State} (h : P s) (t : Nat) : P (s.resumePacer t) := by
  unfold State.resumePacer
  repeat' (first | with_reducible assumption | exact o.regs | exact o.stride | with_reducible apply State.setStride_keeps
                 | with_reducible apply State.evt_keeps | with_reducible apply State.put_keeps | split | dsimp only
                 | with_reducible apply o.pac)

theorem State.detachPort_keeps {P : State → Prop} (o : Blind.All P) {s : State} (h : P s) (t : Nat) : P (s.detachPort t) := by
  unfold State.detachPort
  exact ite_keeps (State.resumePacer_keeps o (State.evt_keeps o.regs (State.put_keeps o.regs h _ _) _ _) _) h

theorem State.dctl_keeps {P : State → Prop} (o : Blind.All P) {s : State} (h : P s) (att : Bool) (t : Nat) (f : State → State)
    (hf : ∀ x, P x → P (f x)) : P (s.dctl att t f) := by
  unfold State.dctl
  exact State.tapRun_keeps o h _ _ _ (fun _ h1 =>
    ite_keeps h1 (ite_keeps (hf _ (State.attachPort_keeps o h1)) (State.detachPort_keeps o h1 t)))

theorem State.daccEnd_keeps {P : State → Prop} (o : Blind.All P) {s : State} (h : P s) (a : Nat) (inc : Bool) (st data : Nat) :
    P (s.daccEnd a inc st data) := State.setTap_keeps o h _

theorem State.daccRefuse_keeps {P : State → Prop} (o : Blind.All P) {s : State} (h : P s) (a : Nat) (inc : Bool) (code : Nat) :
    P (s.daccRefuse a inc code) := State.daccEnd_keeps o h _ _ _ _

theorem State.dacc_keeps {P : State → Prop} (o : Blind.All P) {s : State} (h : P s) (a : Nat) (inc : Bool) (t : Nat)
    (f : State → State) (hf : ∀ x, P x → P (f x)) : P (s.dacc a inc t f) := by
  unfold State.dacc
  exact State.tapRun_keeps o h _ _ _ (fun _ h1 =>
    ite_keeps h1 (ite_keeps (State.daccEnd_keeps o h1 _ _ _ _) (ite_keeps (State.daccRefuse_keeps o h1 _ _ _) (hf _ h1))))

theorem execExtest_keeps {P : State → Prop} (o : Blind.All P) {s : State} (h : P s) (t : Nat) (levels shift : List Bool) :
    Next P (execExtest t levels shift s) :=
  Next.of (State.tapRun_keeps o h _ _ _ (fun _ hx => State.boundaryScan_keeps o hx _ _))

theorem execSamplePreload_keeps {P : State → Prop} (o : Blind.All P) {s : State} (h : P s) (t : Nat) (levels shift : List Bool) :
    Next P (execSamplePreload t levels shift s) :=
  Next.of (State.tapRun_keeps o h _ _ _ (fun _ hx => State.boundaryScan_keeps o hx _ _))

theorem execIdcode_keeps {P : State → Prop} (o : Blind.All P) {s : State} (h : P s) (t : Nat) : Next P (execIdcode t s) :=
  Next.of (State.tapRun_keeps o h _ _ _ (fun _ hx => State.setTap_keeps o hx _))

theorem execBypass_keeps {P : State → Prop} (o : Blind.All P) {s : State} (h : P s) (t : Nat) : Next P (execBypass t s) :=
  Next.of (State.tapRun_keeps o h _ _ _ (fun _ hx => State.setTap_keeps o hx _))

theorem execTestLogicReset_keeps {P : State → Prop} (o : Blind.All P) {s : State} (h : P s) (t : Nat) (trst : Bool) :
    Next P (execTestLogicReset t trst s) :=
  Next.of (State.tapRun_keeps o h _ _ _ (fun _ hx => ite_keeps (State.detachPort_keeps o hx _) hx))

theorem execDebugReadWord_keeps {P : State → Prop} (o : Blind.All P) {s : State} (h : P s) (t a : Nat) (inc : Bool) :
    Next P (execDebugReadWord t a inc s) := by
  unfold execDebugReadWord
  with_reducible apply Next.of
  refine State.dacc_keeps o h _ _ _ _ (fun x hx => ite_keeps (State.daccEnd_keeps o hx _ _ _ _) ?_)
  split
  · rename_i ht
    exact State.daccEnd_keeps o (State.peek_keeps o.regs o.fresh hx _ _ _ _ _ ht) _ _ _ _
  · exact State.daccEnd_keeps o hx _ _ _ _

theorem execDebugWriteWord_keeps {P : State → Prop} (o : Blind.All P) {s : State} (h : P s) (t a v : Nat) (inc : Bool) :
    Next P (execDebugWriteWord t a v inc s) := by
  unfold execDebugWriteWord
  with_reducible apply Next.of
  refine State.dacc_keeps o h _ _ _ _ (fun x hx => ite_keeps (State.daccRefuse_keeps o hx _ _ _) ?_)
  split
  · rename_i ht
    exact State.daccEnd_keeps o (State.poke_keeps o hx _ _ _ _ _ _ ht) _ _ _ _
  · rename_i ht
    exact State.daccRefuse_keeps o (State.poke_keeps o hx _ _ _ _ _ _ ht) _ _ _
  · exact State.daccEnd_keeps o hx _ _ _ _

theorem execDstat_keeps {P : State → Prop} (o : Blind.All P) {s : State} (h : P s) (t : Nat) : Next P (execDstat t s) :=
  Next.of (State.tapRun_keeps o h _ _ _ (fun _ hx => ite_keeps (State.setTap_keeps o hx _) hx))

theorem execAttach_keeps {P : State → Prop} (o : Blind.All P) {s : State} (h : P s) (t : Nat) (on : Bool) :
    Next P (execAttach t on s) := by
  unfold execAttach
  with_reducible apply Next.of
  have h1 := State.reach_keeps o.now h t
  exact ite_keeps (ite_keeps (State.wakeSource_keeps o.regs o.pwr h1 _) h1) (State.dctl_keeps o h _ _ _ (fun _ hx => hx))

theorem execHalt_keeps {P : State → Prop} (o : Blind.All P) {s : State} (h : P s) (t : Nat) (att : Bool) :
    Next P (execHalt t att s) :=
  Next.of (State.dctl_keeps o h _ _ _ (fun _ hx => ite_keeps hx (State.haltIn_keeps o hx _ _ _)))

theorem execResume_keeps {P : State → Prop} (o : Blind.All P) {s : State} (h : P s) (t : Nat) (att : Bool) :
    Next P (execResume t att s) :=
  Next.of (State.dctl_keeps o h _ _ _ (fun _ hx => State.resumePacer_keeps o hx _))

theorem execStep_keeps {P : State → Prop} (o : Blind.All P) {s : State} (h : P s) (t : Nat) (att : Bool) :
    Next P (execStep t att s) :=
  Next.of (State.dctl_keeps o h _ _ _ (fun _ hx => ite_keeps (o.pac _ _ hx) hx))

theorem execDebugReset_keeps {P : State → Prop} (o : Blind.All P) {s : State} (h : P s) (t : Nat) (att : Bool) :
    Next P (execDebugReset t att s) :=
  Next.of (State.dctl_keeps o h _ _ _ (fun _ hx => State.deviceReset_keeps o hx _ _ _))

end Sys2Proof.Machine
end

