-- ==== Sys2Proof/Laws/Keeps.lean ====
section
/-! SUPPORT. Every command answers a next state, and what every command keeps. -/
namespace Sys2Proof.Machine

/-- A property that depends on nothing but what no command takes back survives every command. -/
theorem exec_keeps {P : State → Prop} (o : Blind.All P) {s : State} (h : P s) (i : Instr) : Next P (exec i s) := by
  cases i with
  | registerWrite t src p off v m => exact execRegisterWrite_keeps o h _ _ _ _ _ _
  | rejClear t src p v m => exact execRejClear_keeps o h _ _ _ _ _
  | lockKeyWrite t src p key => exact execLockKeyWrite_keeps o h _ _ _ _
  | lockExpiry p => exact execLockExpiry_keeps o.regs o.mem o.timers o.queues o.now h _
  | pageEnable t src p en v m => exact execPageEnable_keeps o h _ _ _ _ _ _
  | pageSoftReset t src p v m => exact execPageSoftReset_keeps o h _ _ _ _ _
  | unitStopComplete t p => exact execUnitStopComplete_keeps o h _ _
  | softReset t src pac v m => exact execSoftReset_keeps o h _ _ _ _ _
  | pacEnable t src v m => exact execPacEnable_keeps o h _ _ _ _
  | tick => exact execTick_keeps o h
  | cutOff => exact execCutOff_keeps o.regs o.mem o.episodes o.stride o.queues o.fcr o.pac o.now h
  | stagingComplete t => exact execStagingComplete_keeps o.regs o.mem o.episodes o.fcr o.valves o.msh o.now h _
  | overrun => exact execOverrun_keeps o.regs o.shadow o.mem o.episodes o.stride o.fcr o.valves o.scan o.cal o.msh o.now h
  | rsrcLearn => exact execRsrcLearn_keeps o.regs o.timers o.msh o.now h
  | replayEnter t src v m => exact execReplayEnter_keeps o h _ _ _ _
  | replayStep t src v m => exact execReplayStep_keeps o h _ _ _ _
  | batonPush t src tl k => exact execBatonPush_keeps o h _ _ _ _
  | queueAdvance t src k => exact execQueueAdvance_keeps o h _ _ _
  | queueFlush t src k => exact execQueueFlush_keeps o h _ _ _
  | mov t e => exact execMov_keeps o h _ _
  | movz t e => exact execMovz_keeps o h _ _
  | movs t e => exact execMovs_keeps o h _ _
  | lea t e => exact execLea_keeps o h _ _
  | push t e => exact execPush_keeps o h _ _
  | pop t e => exact execPop_keeps o h _ _
  | clr t e => exact execClr_keeps o h _ _
  | add t e => exact execAdd_keeps o h _ _
  | addc t e => exact execAddc_keeps o h _ _
  | sub t e => exact execSub_keeps o h _ _
  | subc t e => exact execSubc_keeps o h _ _
  | addS t e => exact execAddS_keeps o h _ _
  | subS t e => exact execSubS_keeps o h _ _
  | neg t e => exact execNeg_keeps o h _ _
  | negS t e => exact execNegS_keeps o h _ _
  | abs t e => exact execAbs_keeps o h _ _
  | absS t e => exact execAbsS_keeps o h _ _
  | mul t e => exact execMul_keeps o h _ _
  | mulhu t e => exact execMulhu_keeps o h _ _
  | mulhs t e => exact execMulhs_keeps o h _ _
  | div t e => exact execDiv_keeps o h _ _
  | divs t e => exact execDivs_keeps o h _ _
  | rem t e => exact execRem_keeps o h _ _
  | rems t e => exact execRems_keeps o h _ _
  | cmp t e => exact execCmp_keeps o h _ _
  | tst t e => exact execTst_keeps o h _ _
  | andOp t e => exact execAndOp_keeps o h _ _
  | orOp t e => exact execOrOp_keeps o h _ _
  | xor t e => exact execXor_keeps o h _ _
  | bic t e => exact execBic_keeps o h _ _
  | notOp t e => exact execNotOp_keeps o h _ _
  | shl t e => exact execShl_keeps o h _ _
  | shr t e => exact execShr_keeps o h _ _
  | sar t e => exact execSar_keeps o h _ _
  | rol t e => exact execRol_keeps o h _ _
  | ror t e => exact execRor_keeps o h _ _
  | clz t e => exact execClz_keeps o h _ _
  | minOp t e => exact execMinOp_keeps o h _ _
  | maxOp t e => exact execMaxOp_keeps o h _ _
  | mins t e => exact execMins_keeps o h _ _
  | maxs t e => exact execMaxs_keeps o h _ _
  | jmp t e => exact execJmp_keeps o h _ _
  | call t e => exact execCall_keeps o h _ _
  | bcc t e => exact execBcc_keeps o h _ _
  | djnz t e => exact execDjnz_keeps o h _ _
  | nop t e => exact execNop_keeps o h _ _
  | fin t e => exact execFin_keeps o h _ _
  | wait t e => exact execWait_keeps o h _ _
  | ret t e => exact execRet_keeps o h _ _
  | rete t e => exact execRete_keeps o h _ _
  | rep t e op ix n => exact execRep_keeps o h _ _ _ _ _
  | repl t e op ix n => exact execRepl_keeps o h _ _ _ _ _
  | bkpt t e => exact execBkpt_keeps o h _ _
  | trap t e => exact execTrap_keeps o h _ _
  | ei t e => exact execEi_keeps o h _ _
  | di t e => exact execDi_keeps o h _ _
  | serviceEventEntry t bad => exact execServiceEventEntry_keeps o h _ _
  | safeTrap t bad => exact execSafeTrap_keeps o h _ _
  | lockstepInject t src v m => exact execLockstepInject_keeps o h _ _ _ _
  | laneLinkSlot t a b => exact execLaneLinkSlot_keeps o.regs o.timers o.fcr o.dies o.now h _ _ _
  | laneLinkResync t d => exact execLaneLinkResync_keeps o.regs o.timers o.fcr o.dies o.now h _ _
  | laneWatchdogExpiry d => exact execLaneWatchdogExpiry_keeps o.regs o.mem o.timers o.episodes o.fcr o.outs o.valves o.bridges o.dies o.msh o.now h _
  | failsafeHeat d => exact execFailsafeHeat_keeps o.regs o.mem o.timers o.episodes o.fcr o.outs o.valves o.dies o.msh o.now h _
  | lhSelectChange t d sel => exact execLhSelectChange_keeps o.regs o.mem o.timers o.episodes o.fcr o.outs o.valves o.bridges o.dies o.msh o.now h _ _ _
  | temperatureConversion t d ref temps => exact execTemperatureConversion_keeps o.regs o.mem o.timers o.episodes o.fcr o.outs o.valves o.bridges o.age o.dies o.msh o.now h _ _ _ _
  | senseConversion t ss => exact execSenseConversion_keeps o.regs o.outs o.age o.now h _ _
  | currentLimitEntry t u => exact execCurrentLimitEntry_keeps o.regs o.mem o.episodes o.fcr o.outs o.now h _ _
  | inrushWindowEnd u => exact execInrushWindowEnd_keeps o.regs o.mem o.timers o.episodes o.fcr o.outs o.msh o.now h _
  | retryIntervalExpiry u => exact execRetryIntervalExpiry_keeps o.regs o.mem o.timers o.episodes o.fcr o.outs o.valves o.bridges o.dies o.msh o.now h _
  | deferralLimitExpiry u => exact execDeferralLimitExpiry_keeps o.regs o.timers o.fcr o.outs o.msh o.now h _
  | retryReloadTimer u => exact execRetryReloadTimer_keeps o.regs o.timers o.now h _
  | demagDump u => exact execDemagDump_keeps o.regs o.mem o.timers o.episodes o.fcr o.outs o.valves o.bridges o.dies o.msh o.now h _
  | diagFilterExpiry t u d holds => exact execDiagFilterExpiry_keeps o.regs o.mem o.episodes o.fcr o.outs o.now h _ _ _ _
  | offStateTest t b => exact execOffStateTest_keeps o.timers o.outs o.now h _ _
  | offTestPhaseEnd u high => exact execOffTestPhaseEnd_keeps o.regs o.timers o.fcr o.outs o.now h _ _
  | channelFaultClear t src u v m => exact execChannelFaultClear_keeps o h _ _ _ _ _
  | pwmPeriodStart t k => exact execPwmPeriodStart_keeps o.outs o.age o.stg o.now h _ _
  | camsyncEdge t g begins => exact execCamsyncEdge_keeps o.regs o.mem o.timers o.episodes o.fcr o.outs o.strobes o.msh o.now o.fresh h _ _ _
  | strobeScheduleInstant t g => exact execStrobeScheduleInstant_keeps o.regs o.strobes o.now h _ _
  | sprintPulse t g => exact execSprintPulse_keeps o.regs o.mem o.timers o.episodes o.fcr o.outs o.strobes o.msh o.now h _ _
  | sprintPulseEnd n => exact execSprintPulseEnd_keeps o.regs o.mem o.timers o.episodes o.fcr o.outs o.msh o.now o.fresh h _
  | pulseLateExpiry n => exact execPulseLateExpiry_keeps o.regs o.mem o.timers o.episodes o.fcr o.msh o.now h _
  | reverseBattery t => exact execReverseBattery_keeps o.regs o.timers o.episodes o.outs o.reverseAt o.now h _
  | groundLoss t d => exact execGroundLoss_keeps o.regs o.mem o.timers o.episodes o.fcr o.outs o.valves o.bridges o.dies o.msh o.now h _ _
  | groundReturn t d => exact execGroundReturn_keeps o.regs o.mem o.timers o.episodes o.fcr o.outs o.valves o.bridges o.dies o.msh o.now h _ _
  | peakPhaseEnd n => exact execPeakPhaseEnd_keeps o.regs o.timers o.fcr o.outs o.valves o.msh o.now h _
  | valvePwmPeriod t n imeas duty => exact execValvePwmPeriod_keeps o.regs o.timers o.outs o.valves o.msh o.now h _ _ _ _
  | valveRampEnd n => exact execValveRampEnd_keeps o.timers o.valves o.now h _
  | slowDecayTimeout n => exact execSlowDecayTimeout_keeps o.regs o.timers o.fcr o.valves o.now h _
  | valveOvercurrentTrip t n clamp => exact execValveOvercurrentTrip_keeps o.regs o.mem o.timers o.episodes o.fcr o.outs o.valves o.bridges o.msh o.now h _ _ _
  | bankOffDelayExpiry b => exact execBankOffDelayExpiry_keeps o.regs o.timers o.outs o.now h _
  | bankOffStateTest t b => exact execBankOffStateTest_keeps o.timers o.outs o.now h _ _
  | reverseBrakeEnd t n below => exact execReverseBrakeEnd_keeps o.regs o.timers o.episodes o.fcr o.outs o.valves o.bridges o.dies o.msh o.now h _ _ _
  | parkInputReached t n => exact execParkInputReached_keeps o.timers o.bridges o.now h _ _
  | parkTimeout n => exact execParkTimeout_keeps o.regs o.timers o.fcr o.bridges o.now h _
  | chopLimit t n => exact execChopLimit_keeps o.regs o.fcr o.bridges o.now h _ _
  | overloadTrip t n => exact execOverloadTrip_keeps o.regs o.mem o.timers o.episodes o.fcr o.outs o.valves o.bridges o.msh o.now h _ _
  | shortCircuitTrip t n high low bothLegs => exact execShortCircuitTrip_keeps o.regs o.mem o.timers o.episodes o.fcr o.outs o.valves o.bridges o.msh o.now h _ _ _ _ _
  | stallDetect t n => exact execStallDetect_keeps o.regs o.mem o.timers o.episodes o.fcr o.outs o.msh o.now h _ _
  | rippleCrossing t n => exact execRippleCrossing_keeps o.regs o.bridges o.now h _ _
  | outputStopComplete t u => exact execOutputStopComplete_keeps o.regs o.mem o.timers o.episodes o.fcr o.outs o.valves o.bridges o.dies o.msh o.now h _ _
  | scanStart t => exact execScanStart_keeps o.regs o.outs o.scan o.seq o.now h _
  | rowSlotStart t => exact execRowSlotStart_keeps o.regs o.outs o.scan o.seq o.now h _
  | msyncEdge t rising => exact execMsyncEdge_keeps o.regs o.timers o.outs o.scan o.seq o.now h _ _
  | msyncTimeout => exact execMsyncTimeout_keeps o.regs o.timers o.scan o.now h
  | headroomConversion t vs => exact execHeadroomConversion_keeps o.regs o.cal o.now h _ _
  | debouncedChange t n => exact execDebouncedChange_keeps o.regs o.queues o.fcr o.dins o.ahead o.now h _ _
  | inputRawChange t n level => exact execInputRawChange_keeps o.regs o.dins o.now h _ _ _
  | inputInitSample p => exact execInputInitSample_keeps o.regs o.timers o.dins o.now h _
  | wettingPulse t p levels => exact execWettingPulse_keeps o.regs o.dins o.now h _ _ _
  | timerCountStep t u => exact execTimerCountStep_keeps o.regs o.queues o.fcr o.tmrs o.tchs o.now h _ _
  | captureEdge t tin rising => exact execCaptureEdge_keeps o.regs o.queues o.fcr o.ahead o.tchs o.now h _ _ _
  | tstagGo t src units => exact execTstagGo_keeps o h _ _ _
  | canFrameReceived t x sof f => exact execCanFrameReceived_keeps o.regs o.mem o.timers o.queues o.fcr o.pwr o.nms o.cans o.now o.fresh h _ _ _ _
  | canFrameSent t x sof => exact execCanFrameSent_keeps o.regs o.mem o.timers o.queues o.fcr o.pwr o.nms o.cans o.now o.fresh h _ _ _
  | canArbitrationLost t x sof => exact execCanArbitrationLost_keeps o.regs o.mem o.queues o.fcr o.cans o.now h _ _ _
  | canError t x code tec rec_ sof sending => exact execCanError_keeps o.regs o.mem o.timers o.queues o.fcr o.cans o.now h _ _ _ _ _ _ _
  | canIntegrationComplete t x => exact execCanIntegrationComplete_keeps o.regs o.fcr o.cans o.now h _ _
  | canRecoveryComplete t x => exact execCanRecoveryComplete_keeps o.regs o.fcr o.cans o.now h _ _
  | canProtocolException t x => exact execCanProtocolException_keeps o.regs o.timers o.fcr o.cans o.now h _ _
  | canTxPut t src x f => exact execCanTxPut_keeps o h _ _ _ _
  | canTxFetch t x f => exact execCanTxFetch_keeps o.regs o.mem o.queues o.fcr o.cans o.now h _ _ _
  | canRxAck t src x f => exact execCanRxAck_keeps o h _ _ _ _
  | canTxFlush t src x f => exact execCanTxFlush_keeps o h _ _ _ _
  | canManualRecover t src x => exact execCanManualRecover_keeps o h _ _ _
  | canAutoReturnEnable t src v m => exact execCanAutoReturnEnable_keeps o h _ _ _ _
  | canStopTimeout x => exact execCanStopTimeout_keeps o.regs o.timers o.now h _
  | canTxdTimeout t x => exact execCanTxdTimeout_keeps o.regs o.fcr o.now h _ _
  | canBusWake t x => exact execCanBusWake_keeps o.regs o.timers o.queues o.fcr o.pwr o.nms o.now h _ _
  | nmEnable t src x en v m => exact execNmEnable_keeps o h _ _ _ _ _ _
  | nmKeepaliveSend x => exact execNmKeepaliveSend_keeps o.regs o.timers o.queues o.fcr o.now h _
  | nmRepeatExpiry x => exact execNmRepeatExpiry_keeps o.regs o.timers o.queues o.fcr o.pwr o.now h _
  | nmTimeoutExpiry x => exact execNmTimeoutExpiry_keeps o.regs o.timers o.queues o.fcr o.pwr o.now h _
  | nmWaitbsExpiry x => exact execNmWaitbsExpiry_keeps o.regs o.timers o.queues o.fcr o.pwr o.now h _
  | falseStartWindow x => exact execFalseStartWindow_keeps o.regs o.timers o.fcr o.nms o.now h _
  | falseStartMaskHold x => exact execFalseStartMaskHold_keeps o.regs o.timers o.now h _
  | ringLapStart t => exact execRingLapStart_keeps o.regs o.mem o.timers o.queues o.fcr o.seq o.sw o.ring o.now h _
  | baton t payload => exact execBaton_keeps o.regs o.mem o.timers o.queues o.fcr o.seq o.sw o.pwr o.ring o.now h _ _
  | dissent t payload => exact execDissent_keeps o.regs o.timers o.now h _ _
  | commit t payload => exact execCommit_keeps o.regs o.timers o.pwr o.now h _ _
  | ringCommitResend => exact execRingCommitResend_keeps o.regs o.mem o.timers o.queues o.fcr o.sw o.ring o.now h
  | ringConsentLost t => exact execRingConsentLost_keeps o.regs o.mem o.timers o.queues o.fcr o.sw o.now h _
  | ringLapTimeout => exact execRingLapTimeout_keeps o.regs o.timers o.fcr o.now h
  | ringCommitTimeout => exact execRingCommitTimeout_keeps o.regs o.timers o.fcr o.now h
  | ethFrameReceived t p octets fcsOk => exact execEthFrameReceived_keeps o h _ _ _ _
  | ethTransmitOpportunity t p => exact execEthTransmitOpportunity_keeps o.regs o.mem o.episodes o.fcr o.sw o.now h _ _
  | portLinkChange t p up usable => exact execPortLinkChange_keeps o.regs o.mem o.timers o.queues o.fcr o.now h _ _ _ _
  | mdioWrite t src v => exact execMdioWrite_keeps o h _ _ _
  | mdioRead t src v => exact execMdioRead_keeps o h _ _ _
  | mdioAddress t src v => exact execMdioAddress_keeps o h _ _ _
  | mdioComplete t data turnaround => exact execMdioComplete_keeps o.regs o.now h _ _ _
  | macRead t src ix => exact execMacRead_keeps o h _ _ _
  | macWrite t src ix => exact execMacWrite_keeps o h _ _ _
  | macDelete t src ix => exact execMacDelete_keeps o h _ _ _
  | macFlushDynamic t src ix => exact execMacFlushDynamic_keeps o h _ _ _
  | macAgeExpiry t ix => exact execMacAgeExpiry_keeps o.regs o.sw o.now h _ _
  | tasCfgchg t src p v m => exact execTasCfgchg_keeps o h _ _ _ _ _
  | tasConfigChange t p => exact execTasConfigChange_keeps o.regs o.sw o.now h _ _
  | gateIntervalEnd t p => exact execGateIntervalEnd_keeps o.regs o.sw o.now h _ _
  | preemptVerify t p ok => exact execPreemptVerify_keeps o.regs o.fcr o.now h _ _ _
  | frerResetTimeout ix => exact execFrerResetTimeout_keeps o.timers o.sw o.now h _
  | sflSelect t src ix => exact execSflSelect_keeps o h _ _ _
  | sflStore t src ix => exact execSflStore_keeps o h _ _ _
  | hostTxDescriptor t r => exact execHostTxDescriptor_keeps o h _ _
  | gptpSyncReceived t p gm master rate => exact execGptpSyncReceived_keeps o.regs o.timers o.fcr o.sw o.now h _ _ _ _ _
  | gptpSyncTimeout => exact execGptpSyncTimeout_keeps o.regs o.timers o.fcr o.sw o.now h
  | gptpPdelay t p delay => exact execGptpPdelay_keeps o.regs o.now h _ _ _
  | accessCycleStart => exact execAccessCycleStart_keeps o.regs o.timers o.fcr o.vault o.acc o.now o.fresh h
  | lfBurstsEnd peaks shorts hot => exact execLfBurstsEnd_keeps o.regs o.timers o.fcr o.outs o.vault o.acc o.now o.fresh h _ _ _
  | uwbPoll t ok => exact execUwbPoll_keeps o.regs o.timers o.fcr o.vault o.acc o.now o.fresh h _ _
  | uwbRespReceived t k frame round eps => exact execUwbRespReceived_keeps o.regs o.timers o.fcr o.vault o.acc o.now o.fresh h _ _ _ _ _
  | accessSelection t => exact execAccessSelection_keeps o.regs o.timers o.fcr o.vault o.acc o.now h _
  | accessCycleEnd t => exact execAccessCycleEnd_keeps o.regs o.mem o.timers o.queues o.fcr o.vault o.acc o.now o.fresh h _
  | lockoutEnd => exact execLockoutEnd_keeps o.regs o.timers o.vault o.now h
  | permitClose => exact execPermitClose_keeps o.timers o.acc o.now h
  | enrol t src => exact execEnrol_keeps o h _ _
  | revoke t src => exact execRevoke_keeps o h _ _
  | keyload t src => exact execKeyload_keeps o h _ _
  | vaultCmdComplete t nvOk => exact execVaultCmdComplete_keeps o h _ _
  | faultRaise t src unit => exact execFaultRaise_keeps o h _ _ _
  | faultAck t src ix => exact execFaultAck_keeps o h _ _ _
  | graceExpiry src => exact execGraceExpiry_keeps o h _
  | faultUnhold t src ix u => exact execFaultUnhold_keeps o h _ _ _ _
  | faultClear t src ix => exact execFaultClear_keeps o h _ _ _
  | safeRelease t src => exact execSafeRelease_keeps o h _ _
  | canarySweep t m0 m1 m2 m3 rosc => exact execCanarySweep_keeps o.regs o.fcr o.ageing o.now h _ _ _ _ _ _
  | replanPoint t => exact execReplanPoint_keeps o.regs o.fcr o.age o.ageing o.now h _
  | operatingMinute t cd a b => exact execOperatingMinute_keeps o.regs o.ageing o.now h _ _ _ _
  | recordCodePut t src c => exact execRecordCodePut_keeps o h _ _ _
  | recordQueueEntry t k => exact execRecordQueueEntry_keeps o.regs o.mem o.episodes o.queues o.fcr o.now h _ _
  | tokenRefill t c => exact execTokenRefill_keeps o.mem o.now h _ _
  | codeClassAssign t src c cls => exact execCodeClassAssign_keeps o h _ _ _ _
  | feedPut t src k => exact execFeedPut_keeps o h _ _ _
  | feedClear t src k => exact execFeedClear_keeps o h _ _ _
  | flushPeriod t => exact execFlushPeriod_keeps o.regs o.mem o.fcr o.book o.now h _
  | flushCommand t src v m => exact execFlushCommand_keeps o h _ _ _ _
  | archiveSectorWritten t ok => exact execArchiveSectorWritten_keeps o h _ _
  | recordRead t src => exact execRecordRead_keeps o.regs o.now h _ _
  | recordWipe t src key => exact execRecordWipe_keeps o h _ _ _
  | xoscStartWait ok => exact execXoscStartWait_keeps o.regs o.timers o.fcr o.now h _
  | pllLock t ok => exact execPllLock_keeps o.splitZero o.regs o.timers o.now h _ _
  | rampStep => exact execRampStep_keeps o h
  | referenceSelect t src rclk v m => exact execReferenceSelect_keeps o h _ _ _ _ _
  | referenceSlewComplete t diff => exact execReferenceSlewComplete_keeps o.regs o.now h _ _
  | clockMonitorFail t c => exact execClockMonitorFail_keeps o h _ _
  | holdoverExpiry => exact execHoldoverExpiry_keeps o h
  | clockWaitEnd => exact execClockWaitEnd_keeps o h
  | xoscRetry => exact execXoscRetry_keeps o.timers o.now h
  | rclkReturn => exact execRclkReturn_keeps o.regs o.timers o.fcr o.now h
  | lpxoChangeover t ok => exact execLpxoChangeover_keeps o.regs o.timers o.fcr o.clk o.now h _ _
  | quiesceTimeout t kinds => exact execQuiesceTimeout_keeps o.regs o.mem o.timers o.fcr o.pwr o.book o.boot o.now h _ _
  | dozeWake t decay => exact execDozeWake_keeps o.regs o.mem o.timers o.pwr o.now h _ _
  | cooldownArmTimeout => exact execCooldownArmTimeout_keeps o.regs o.timers o.pwr o.now h
  | cooldownUnitsStopped t => exact execCooldownUnitsStopped_keeps o.regs o.mem o.timers o.fcr o.phyLines o.msh o.sw o.pwr o.book o.now h _
  | cooldownTimeout => exact execCooldownTimeout_keeps o.regs o.mem o.timers o.stride o.fcr o.phyLines o.msh o.sw o.pwr o.book o.now h
  | cooldownFlushEnd t => exact execCooldownFlushEnd_keeps o.regs o.timers o.episodes o.outs o.bridges o.dies o.msh o.pwr o.now h _
  | wakeInputFilter t j => exact execWakeInputFilter_keeps o.regs o.pwr o.now h _ _
  | parkWake t => exact execParkWake_keeps o.timers o.pwr o.now h _
  | pgTimeout => exact execPgTimeout_keeps o.timers o.pwr o.now h
  | padRelease t src => exact execPadRelease_keeps o h _ _
  | wakeTimerWrite t src v => exact execWakeTimerWrite_keeps o h _ _ _
  | wakeTimerExpiry => exact execWakeTimerExpiry_keeps o.regs o.timers o.pwr o.now h
  | regulatorRequest t ack => exact execRegulatorRequest_keeps o.regs o.timers o.pwr o.now h _ _
  | regulatorCheck status pg => exact execRegulatorCheck_keeps o h _ _
  | regulatorRetry ack => exact execRegulatorRetry_keeps o.timers o.pwr o.now h _
  | regulatorTimeout => exact execRegulatorTimeout_keeps o h
  | pgFall t => exact execPgFall_keeps o.regs o.fcr o.pwr o.now h _
  | powerOnReset t vbat => exact execPowerOnReset_keeps o h _ _
  | railLoss t => exact execRailLoss_keeps o h _
  | deviceResetRelease => exact execDeviceResetRelease_keeps o.timers o.book o.boot o.now h
  | warmUp factory bad voutMode => exact execWarmUp_keeps o.regs o.img o.cfgAct o.mem o.timers o.episodes o.queues o.fcr o.outs o.valves o.bridges o.dins o.dies o.msh o.tchs o.sw o.pwr o.vault o.acc o.boot o.now h _ _ _
  | firmwareVerify t eccA eccB => exact execFirmwareVerify_keeps o.regs o.mem o.fcr o.boot o.now h _ _ _
  | warmUpComplete t => exact execWarmUpComplete_keeps o.regs o.mem o.timers o.episodes o.stride o.fcr o.age o.pwr o.nms o.book o.ageing o.pac o.boot o.now h _
  | nvProgram t src => exact execNvProgram_keeps o h _ _
  | nvProgramComplete t ok => exact execNvProgramComplete_keeps o h _ _
  | svCommit t src => exact execSvCommit_keeps o h _ _
  | lifecycleChange t src key => exact execLifecycleChange_keeps o h _ _ _
  | vbatConversion t a b => exact execVbatConversion_keeps o.regs o.mem o.timers o.episodes o.fcr o.outs o.dins o.reverseAt o.msh o.sup o.now h _ _ _
  | freezeRecovery => exact execFreezeRecovery_keeps o.regs o.timers o.now h
  | powerDieLockout t d => exact execPowerDieLockout_keeps o.regs o.mem o.timers o.episodes o.fcr o.outs o.valves o.bridges o.dies o.msh o.now h _ _
  | powerDieRestart t d => exact execPowerDieRestart_keeps o.regs o.mem o.timers o.episodes o.fcr o.outs o.valves o.bridges o.dies o.msh o.now h _ _
  | railConversion t vcore vser vio keep tcd tbp => exact execRailConversion_keeps o.regs o.fcr o.sup o.now h _ _ _ _ _ _ _
  | vbatMinmaxClear t src => exact execVbatMinmaxClear_keeps o h _ _
  | extest t levels shift => exact execExtest_keeps o h _ _ _
  | samplePreload t levels shift => exact execSamplePreload_keeps o h _ _ _
  | idcode t => exact execIdcode_keeps o h _
  | bypass t => exact execBypass_keeps o h _
  | testLogicReset t trst => exact execTestLogicReset_keeps o h _ _
  | debugReadWord t a inc => exact execDebugReadWord_keeps o h _ _ _
  | debugWriteWord t a v inc => exact execDebugWriteWord_keeps o h _ _ _ _
  | dstat t => exact execDstat_keeps o h _
  | attach t on => exact execAttach_keeps o h _ _
  | halt t att => exact execHalt_keeps o h _ _
  | resume t att => exact execResume_keeps o h _ _
  | step t att => exact execStep_keeps o h _ _
  | debugReset t att => exact execDebugReset_keeps o h _ _
  | marshalReleasePoint ix => exact execMarshalReleasePoint_keeps o.timers o.msh o.now h _
  | limitingEpisodeEnd t u => exact execLimitingEpisodeEnd_keeps o.regs o.episodes o.outs o.now h _ _
  | bridgePwmPeriod t n => exact execBridgePwmPeriod_keeps o.regs o.outs o.bridges o.now h _ _
  | posunc t n => exact execPosunc_keeps o.regs o.bridges o.now h _ _
  | parkBrakeEnd n => exact execParkBrakeEnd_keeps o.regs o.timers o.episodes o.outs o.valves o.bridges o.msh o.now h _
  | lpxoRetry => exact execLpxoRetry_keeps o.timers o.now h
  | clockGating t p => exact execClockGating_keeps o.regs o.now h _ _
  | pgRise t => exact execPgRise_keeps o h _
  | vbatLoss t => exact execVbatLoss_keeps o h _
  | undefinedOpcode t op e => exact execUndefinedOpcode_keeps o h _ _ _

/-- A property that depends neither on the queue nor on what a command may take back survives every step. -/
theorem step_keeps {P : State → Prop} (o : Blind.All P) (hq : ∀ s q, P s → P { s with pending := q }) {s : State} (h : P s) :
    Next P (step s) := by
  unfold step
  split
  · exact h
  · exact exec_keeps o (hq _ _ h) _

end Sys2Proof.Machine
end

