-- ==== Sys2Proof/Laws/State.lean ====
section
/-! SUPPORT. What each update of the state leaves and what it writes: tables, register fields, memory, timers. -/
namespace Sys2Proof.Machine

/-! Tables. -/

theorem look_ins {α : Type} (d v : α) (k j : Nat) (m : Sparse α) : look d (ins k v m) j = if k = j then v else look d m j := by
  induction m with
  | nil => simp [ins, look]
  | cons a r ih =>
    obtain ⟨a, w⟩ := a
    simp only [ins]
    split
    · simp [look]
    · split
      · subst_vars; by_cases h : a = j <;> simp [look, h]
      · by_cases h : a = j <;> by_cases h2 : k = j <;> simp_all [look]

theorem look_del {α : Type} (d : α) (k j : Nat) (m : Sparse α) : look d (del k m) j = if k = j then d else look d m j := by
  induction m with
  | nil => simp [del, look]
  | cons a r ih =>
    obtain ⟨a, w⟩ := a
    simp only [del] at ih ⊢
    by_cases h : a = k <;> by_cases h2 : k = j <;> by_cases h3 : a = j <;> simp_all [List.filter_cons, look]

/-- What a store changes: the key that it writes. -/
theorem look_store {α : Type} [DecidableEq α] (d v : α) (k j : Nat) (m : Sparse α) :
    look d (store d k v m) j = if k = j then v else look d m j := by
  unfold store
  split
  · rw [look_del]; simp_all
  · rw [look_ins]

theorem look_store_ne {α : Type} [DecidableEq α] (d e v : α) (k j : Nat) (m : Sparse α) (h : k ≠ j) :
    look d (store e k v m) j = look d m j := by
  unfold store
  split
  · induction m with
    | nil => simp [del, look]
    | cons a r ih =>
      obtain ⟨a, w⟩ := a
      simp only [del] at ih ⊢
      by_cases h1 : a = k <;> by_cases h3 : a = j <;> simp_all [List.filter_cons, look]
  · rw [look_ins]; simp [h]

theorem look_storeRun {α : Type} [DecidableEq α] (d : α) (k : Nat) (vs : List α) (m : Sparse α) (j : Nat) :
    look d (storeRun d k vs m) j = if k ≤ j ∧ j < k + vs.length then vs.getD (j - k) d else look d m j := by
  induction vs generalizing k m with
  | nil => simp [storeRun]
  | cons v vs ih =>
    rw [storeRun, ih, look_store]
    by_cases h : k = j
    · subst h; simp
    · by_cases h2 : k + 1 ≤ j ∧ j < k + 1 + vs.length
      · have e : j - k = (j - (k + 1)) + 1 := by omega
        rw [if_pos h2, if_pos (by simp; omega), e]; simp
      · rw [if_neg h2, if_neg h, if_neg (by simp; omega)]

/-! Register words and fields. -/

/-- Two register words at different places. -/
abbrev Fld.away (f g : Fld) : Prop := regKey f.page f.off ≠ regKey g.page g.off

/-- Fields that share no bit: of different words, or beside each other in one. -/
abbrev Fld.apart (f g : Fld) : Prop :=
  f.away g ∨ (f.page = g.page ∧ f.off = g.off ∧ (f.lo + f.width ≤ g.lo ∨ g.lo + g.width ≤ f.lo))

theorem State.rd_wr (s : State) (p off q o : Nat) (w : Word) (h : regKey p off ≠ regKey q o) : (s.wr p off w).rd q o = s.rd q o := by
  unfold State.rd State.wr
  exact look_store_ne _ _ _ _ _ _ h

@[simp] theorem State.rd_wr_same (s : State) (p off : Nat) (w : Word) : (s.wr p off w).rd p off = w := by
  unfold State.rd State.wr
  rw [look_store]; simp

theorem withBits_testBit (w : Word) (lo width v i : Nat) (h : i < 32) :
    (withBits w lo width v).toNat.testBit i
      = if lo ≤ i ∧ i < lo + width then v.testBit (i - lo) else w.toNat.testBit i := by
  unfold withBits maskOf
  rw [BitVec.testBit_toNat, BitVec.testBit_toNat]
  simp only [BitVec.getLsbD_or, BitVec.getLsbD_and, BitVec.getLsbD_not, BitVec.getLsbD_ofNat, Nat.testBit_shiftLeft,
    Nat.testBit_two_pow_sub_one, Nat.testBit_mod_two_pow, h, decide_true, Bool.true_and]
  by_cases h1 : lo ≤ i
  · by_cases h2 : i < lo + width
    · have : i - lo < width := by omega
      simp [h1, h2, this]
    · have : ¬ i - lo < width := by omega
      simp [h1, h2, this]
  · simp [h1]

theorem bitsOf_testBit (w : Word) (lo width i : Nat) :
    (bitsOf w lo width).testBit i = (decide (i < width) && w.toNat.testBit (lo + i)) := by
  unfold bitsOf
  rw [Nat.testBit_mod_two_pow, Nat.testBit_shiftRight]

theorem bitsOf_withBits (w : Word) (lo width v : Nat) (h : lo + width ≤ 32) : bitsOf (withBits w lo width v) lo width = v % 2 ^ width := by
  apply Nat.eq_of_testBit_eq
  intro i
  rw [bitsOf_testBit, Nat.testBit_mod_two_pow]
  by_cases hi : i < width
  · rw [withBits_testBit _ _ _ _ _ (by omega)]
    simp [hi]
  · simp [hi]

theorem bitsOf_withBits_apart (w : Word) (lo width v lo' width' : Nat) (h : lo + width ≤ lo' ∨ lo' + width' ≤ lo) :
    bitsOf (withBits w lo width v) lo' width' = bitsOf w lo' width' := by
  apply Nat.eq_of_testBit_eq
  intro i
  rw [bitsOf_testBit, bitsOf_testBit]
  by_cases hi : i < width'
  · by_cases h32 : lo' + i < 32
    · rw [withBits_testBit _ _ _ _ _ h32, if_neg (by omega)]
    · have e : ∀ x : Word, x.toNat.testBit (lo' + i) = false := fun x => by
        rw [BitVec.testBit_toNat]; exact BitVec.getLsbD_of_ge _ _ (by omega)
      simp [e]
  · simp [hi]

/-- A field that lies in its word reads as written, cut to its width. -/
theorem State.get_put_same (s : State) (f : Fld) (v : Nat) (h : f.lo + f.width ≤ 32) : (s.put f v).get f = v % 2 ^ f.width := by
  unfold State.get State.put
  rw [State.rd_wr_same, bitsOf_withBits _ _ _ _ h]

/-- A field that shares no bit with the field written stays. -/
theorem State.get_put_apart (s : State) (f g : Fld) (v : Nat) (h : f.apart g) : (s.put f v).get g = s.get g := by
  unfold State.get State.put
  rcases h with h | ⟨h1, h2, h3⟩
  · rw [State.rd_wr _ _ _ _ _ _ h]
  · rw [← h1, ← h2, State.rd_wr_same, bitsOf_withBits_apart _ _ _ _ _ _ h3]

/-! Fields of the state that an update leaves. -/

@[simp] theorem State.wr_pending (s : State) (p off : Nat) (w : Word) : (s.wr p off w).pending = s.pending := rfl
@[simp] theorem State.wr_now (s : State) (p off : Nat) (w : Word) : (s.wr p off w).now = s.now := rfl
@[simp] theorem State.wr_splitZero (s : State) (p off : Nat) (w : Word) : (s.wr p off w).splitZero = s.splitZero := rfl
@[simp] theorem State.wr_fresh (s : State) (p off : Nat) (w : Word) : (s.wr p off w).fresh = s.fresh := rfl
@[simp] theorem State.wr_img (s : State) (p off : Nat) (w : Word) : (s.wr p off w).img = s.img := rfl
@[simp] theorem State.wr_shadow (s : State) (p off : Nat) (w : Word) : (s.wr p off w).shadow = s.shadow := rfl
@[simp] theorem State.wr_cfgAct (s : State) (p off : Nat) (w : Word) : (s.wr p off w).cfgAct = s.cfgAct := rfl
@[simp] theorem State.wr_mem (s : State) (p off : Nat) (w : Word) : (s.wr p off w).mem = s.mem := rfl
@[simp] theorem State.wr_timers (s : State) (p off : Nat) (w : Word) : (s.wr p off w).timers = s.timers := rfl
@[simp] theorem State.wr_episodes (s : State) (p off : Nat) (w : Word) : (s.wr p off w).episodes = s.episodes := rfl
@[simp] theorem State.wr_lockFirst (s : State) (p off : Nat) (w : Word) : (s.wr p off w).lockFirst = s.lockFirst := rfl
@[simp] theorem State.wr_resetWait (s : State) (p off : Nat) (w : Word) : (s.wr p off w).resetWait = s.resetWait := rfl
@[simp] theorem State.wr_enableWait (s : State) (p off : Nat) (w : Word) : (s.wr p off w).enableWait = s.enableWait := rfl
@[simp] theorem State.wr_stride (s : State) (p off : Nat) (w : Word) : (s.wr p off w).stride = s.stride := rfl
@[simp] theorem State.wr_queues (s : State) (p off : Nat) (w : Word) : (s.wr p off w).queues = s.queues := rfl
@[simp] theorem State.wr_latches (s : State) (p off : Nat) (w : Word) : (s.wr p off w).latches = s.latches := rfl
@[simp] theorem State.wr_fcr (s : State) (p off : Nat) (w : Word) : (s.wr p off w).fcr = s.fcr := rfl
@[simp] theorem State.wr_outs (s : State) (p off : Nat) (w : Word) : (s.wr p off w).outs = s.outs := rfl
@[simp] theorem State.wr_valves (s : State) (p off : Nat) (w : Word) : (s.wr p off w).valves = s.valves := rfl
@[simp] theorem State.wr_bridges (s : State) (p off : Nat) (w : Word) : (s.wr p off w).bridges = s.bridges := rfl
@[simp] theorem State.wr_scan (s : State) (p off : Nat) (w : Word) : (s.wr p off w).scan = s.scan := rfl
@[simp] theorem State.wr_seq (s : State) (p off : Nat) (w : Word) : (s.wr p off w).seq = s.seq := rfl
@[simp] theorem State.wr_cal (s : State) (p off : Nat) (w : Word) : (s.wr p off w).cal = s.cal := rfl
@[simp] theorem State.wr_strobes (s : State) (p off : Nat) (w : Word) : (s.wr p off w).strobes = s.strobes := rfl
@[simp] theorem State.wr_dins (s : State) (p off : Nat) (w : Word) : (s.wr p off w).dins = s.dins := rfl
@[simp] theorem State.wr_ahead (s : State) (p off : Nat) (w : Word) : (s.wr p off w).ahead = s.ahead := rfl
@[simp] theorem State.wr_phyLines (s : State) (p off : Nat) (w : Word) : (s.wr p off w).phyLines = s.phyLines := rfl
@[simp] theorem State.wr_age (s : State) (p off : Nat) (w : Word) : (s.wr p off w).age = s.age := rfl
@[simp] theorem State.wr_reverseAt (s : State) (p off : Nat) (w : Word) : (s.wr p off w).reverseAt = s.reverseAt := rfl
@[simp] theorem State.wr_dies (s : State) (p off : Nat) (w : Word) : (s.wr p off w).dies = s.dies := rfl
@[simp] theorem State.wr_msh (s : State) (p off : Nat) (w : Word) : (s.wr p off w).msh = s.msh := rfl
@[simp] theorem State.wr_tmrs (s : State) (p off : Nat) (w : Word) : (s.wr p off w).tmrs = s.tmrs := rfl
@[simp] theorem State.wr_tchs (s : State) (p off : Nat) (w : Word) : (s.wr p off w).tchs = s.tchs := rfl
@[simp] theorem State.wr_stg (s : State) (p off : Nat) (w : Word) : (s.wr p off w).stg = s.stg := rfl
@[simp] theorem State.wr_sw (s : State) (p off : Nat) (w : Word) : (s.wr p off w).sw = s.sw := rfl
@[simp] theorem State.wr_pwr (s : State) (p off : Nat) (w : Word) : (s.wr p off w).pwr = s.pwr := rfl
@[simp] theorem State.wr_nms (s : State) (p off : Nat) (w : Word) : (s.wr p off w).nms = s.nms := rfl
@[simp] theorem State.wr_ring (s : State) (p off : Nat) (w : Word) : (s.wr p off w).ring = s.ring := rfl
@[simp] theorem State.wr_cans (s : State) (p off : Nat) (w : Word) : (s.wr p off w).cans = s.cans := rfl
@[simp] theorem State.wr_vault (s : State) (p off : Nat) (w : Word) : (s.wr p off w).vault = s.vault := rfl
@[simp] theorem State.wr_acc (s : State) (p off : Nat) (w : Word) : (s.wr p off w).acc = s.acc := rfl
@[simp] theorem State.wr_book (s : State) (p off : Nat) (w : Word) : (s.wr p off w).book = s.book := rfl
@[simp] theorem State.wr_ageing (s : State) (p off : Nat) (w : Word) : (s.wr p off w).ageing = s.ageing := rfl
@[simp] theorem State.wr_pac (s : State) (p off : Nat) (w : Word) : (s.wr p off w).pac = s.pac := rfl
@[simp] theorem State.wr_tap (s : State) (p off : Nat) (w : Word) : (s.wr p off w).tap = s.tap := rfl
@[simp] theorem State.wr_clk (s : State) (p off : Nat) (w : Word) : (s.wr p off w).clk = s.clk := rfl
@[simp] theorem State.wr_sup (s : State) (p off : Nat) (w : Word) : (s.wr p off w).sup = s.sup := rfl
@[simp] theorem State.wr_boot (s : State) (p off : Nat) (w : Word) : (s.wr p off w).boot = s.boot := rfl

@[simp] theorem State.put_pending (s : State) (f : Fld) (v : Nat) : (s.put f v).pending = s.pending := rfl
@[simp] theorem State.put_now (s : State) (f : Fld) (v : Nat) : (s.put f v).now = s.now := rfl
@[simp] theorem State.put_splitZero (s : State) (f : Fld) (v : Nat) : (s.put f v).splitZero = s.splitZero := rfl
@[simp] theorem State.put_fresh (s : State) (f : Fld) (v : Nat) : (s.put f v).fresh = s.fresh := rfl
@[simp] theorem State.put_img (s : State) (f : Fld) (v : Nat) : (s.put f v).img = s.img := rfl
@[simp] theorem State.put_shadow (s : State) (f : Fld) (v : Nat) : (s.put f v).shadow = s.shadow := rfl
@[simp] theorem State.put_cfgAct (s : State) (f : Fld) (v : Nat) : (s.put f v).cfgAct = s.cfgAct := rfl
@[simp] theorem State.put_mem (s : State) (f : Fld) (v : Nat) : (s.put f v).mem = s.mem := rfl
@[simp] theorem State.put_timers (s : State) (f : Fld) (v : Nat) : (s.put f v).timers = s.timers := rfl
@[simp] theorem State.put_episodes (s : State) (f : Fld) (v : Nat) : (s.put f v).episodes = s.episodes := rfl
@[simp] theorem State.put_lockFirst (s : State) (f : Fld) (v : Nat) : (s.put f v).lockFirst = s.lockFirst := rfl
@[simp] theorem State.put_resetWait (s : State) (f : Fld) (v : Nat) : (s.put f v).resetWait = s.resetWait := rfl
@[simp] theorem State.put_enableWait (s : State) (f : Fld) (v : Nat) : (s.put f v).enableWait = s.enableWait := rfl
@[simp] theorem State.put_stride (s : State) (f : Fld) (v : Nat) : (s.put f v).stride = s.stride := rfl
@[simp] theorem State.put_queues (s : State) (f : Fld) (v : Nat) : (s.put f v).queues = s.queues := rfl
@[simp] theorem State.put_latches (s : State) (f : Fld) (v : Nat) : (s.put f v).latches = s.latches := rfl
@[simp] theorem State.put_fcr (s : State) (f : Fld) (v : Nat) : (s.put f v).fcr = s.fcr := rfl
@[simp] theorem State.put_outs (s : State) (f : Fld) (v : Nat) : (s.put f v).outs = s.outs := rfl
@[simp] theorem State.put_valves (s : State) (f : Fld) (v : Nat) : (s.put f v).valves = s.valves := rfl
@[simp] theorem State.put_bridges (s : State) (f : Fld) (v : Nat) : (s.put f v).bridges = s.bridges := rfl
@[simp] theorem State.put_scan (s : State) (f : Fld) (v : Nat) : (s.put f v).scan = s.scan := rfl
@[simp] theorem State.put_seq (s : State) (f : Fld) (v : Nat) : (s.put f v).seq = s.seq := rfl
@[simp] theorem State.put_cal (s : State) (f : Fld) (v : Nat) : (s.put f v).cal = s.cal := rfl
@[simp] theorem State.put_strobes (s : State) (f : Fld) (v : Nat) : (s.put f v).strobes = s.strobes := rfl
@[simp] theorem State.put_dins (s : State) (f : Fld) (v : Nat) : (s.put f v).dins = s.dins := rfl
@[simp] theorem State.put_ahead (s : State) (f : Fld) (v : Nat) : (s.put f v).ahead = s.ahead := rfl
@[simp] theorem State.put_phyLines (s : State) (f : Fld) (v : Nat) : (s.put f v).phyLines = s.phyLines := rfl
@[simp] theorem State.put_age (s : State) (f : Fld) (v : Nat) : (s.put f v).age = s.age := rfl
@[simp] theorem State.put_reverseAt (s : State) (f : Fld) (v : Nat) : (s.put f v).reverseAt = s.reverseAt := rfl
@[simp] theorem State.put_dies (s : State) (f : Fld) (v : Nat) : (s.put f v).dies = s.dies := rfl
@[simp] theorem State.put_msh (s : State) (f : Fld) (v : Nat) : (s.put f v).msh = s.msh := rfl
@[simp] theorem State.put_tmrs (s : State) (f : Fld) (v : Nat) : (s.put f v).tmrs = s.tmrs := rfl
@[simp] theorem State.put_tchs (s : State) (f : Fld) (v : Nat) : (s.put f v).tchs = s.tchs := rfl
@[simp] theorem State.put_stg (s : State) (f : Fld) (v : Nat) : (s.put f v).stg = s.stg := rfl
@[simp] theorem State.put_sw (s : State) (f : Fld) (v : Nat) : (s.put f v).sw = s.sw := rfl
@[simp] theorem State.put_pwr (s : State) (f : Fld) (v : Nat) : (s.put f v).pwr = s.pwr := rfl
@[simp] theorem State.put_nms (s : State) (f : Fld) (v : Nat) : (s.put f v).nms = s.nms := rfl
@[simp] theorem State.put_ring (s : State) (f : Fld) (v : Nat) : (s.put f v).ring = s.ring := rfl
@[simp] theorem State.put_cans (s : State) (f : Fld) (v : Nat) : (s.put f v).cans = s.cans := rfl
@[simp] theorem State.put_vault (s : State) (f : Fld) (v : Nat) : (s.put f v).vault = s.vault := rfl
@[simp] theorem State.put_acc (s : State) (f : Fld) (v : Nat) : (s.put f v).acc = s.acc := rfl
@[simp] theorem State.put_book (s : State) (f : Fld) (v : Nat) : (s.put f v).book = s.book := rfl
@[simp] theorem State.put_ageing (s : State) (f : Fld) (v : Nat) : (s.put f v).ageing = s.ageing := rfl
@[simp] theorem State.put_pac (s : State) (f : Fld) (v : Nat) : (s.put f v).pac = s.pac := rfl
@[simp] theorem State.put_tap (s : State) (f : Fld) (v : Nat) : (s.put f v).tap = s.tap := rfl
@[simp] theorem State.put_clk (s : State) (f : Fld) (v : Nat) : (s.put f v).clk = s.clk := rfl
@[simp] theorem State.put_sup (s : State) (f : Fld) (v : Nat) : (s.put f v).sup = s.sup := rfl
@[simp] theorem State.put_boot (s : State) (f : Fld) (v : Nat) : (s.put f v).boot = s.boot := rfl

@[simp] theorem State.count_pending (s : State) (f : Fld) (k : Nat) : (s.count f k).pending = s.pending := rfl
@[simp] theorem State.count_now (s : State) (f : Fld) (k : Nat) : (s.count f k).now = s.now := rfl
@[simp] theorem State.count_splitZero (s : State) (f : Fld) (k : Nat) : (s.count f k).splitZero = s.splitZero := rfl
@[simp] theorem State.count_fresh (s : State) (f : Fld) (k : Nat) : (s.count f k).fresh = s.fresh := rfl
@[simp] theorem State.count_img (s : State) (f : Fld) (k : Nat) : (s.count f k).img = s.img := rfl
@[simp] theorem State.count_shadow (s : State) (f : Fld) (k : Nat) : (s.count f k).shadow = s.shadow := rfl
@[simp] theorem State.count_cfgAct (s : State) (f : Fld) (k : Nat) : (s.count f k).cfgAct = s.cfgAct := rfl
@[simp] theorem State.count_mem (s : State) (f : Fld) (k : Nat) : (s.count f k).mem = s.mem := rfl
@[simp] theorem State.count_timers (s : State) (f : Fld) (k : Nat) : (s.count f k).timers = s.timers := rfl
@[simp] theorem State.count_episodes (s : State) (f : Fld) (k : Nat) : (s.count f k).episodes = s.episodes := rfl
@[simp] theorem State.count_lockFirst (s : State) (f : Fld) (k : Nat) : (s.count f k).lockFirst = s.lockFirst := rfl
@[simp] theorem State.count_resetWait (s : State) (f : Fld) (k : Nat) : (s.count f k).resetWait = s.resetWait := rfl
@[simp] theorem State.count_enableWait (s : State) (f : Fld) (k : Nat) : (s.count f k).enableWait = s.enableWait := rfl
@[simp] theorem State.count_stride (s : State) (f : Fld) (k : Nat) : (s.count f k).stride = s.stride := rfl
@[simp] theorem State.count_queues (s : State) (f : Fld) (k : Nat) : (s.count f k).queues = s.queues := rfl
@[simp] theorem State.count_latches (s : State) (f : Fld) (k : Nat) : (s.count f k).latches = s.latches := rfl
@[simp] theorem State.count_fcr (s : State) (f : Fld) (k : Nat) : (s.count f k).fcr = s.fcr := rfl
@[simp] theorem State.count_outs (s : State) (f : Fld) (k : Nat) : (s.count f k).outs = s.outs := rfl
@[simp] theorem State.count_valves (s : State) (f : Fld) (k : Nat) : (s.count f k).valves = s.valves := rfl
@[simp] theorem State.count_bridges (s : State) (f : Fld) (k : Nat) : (s.count f k).bridges = s.bridges := rfl
@[simp] theorem State.count_scan (s : State) (f : Fld) (k : Nat) : (s.count f k).scan = s.scan := rfl
@[simp] theorem State.count_seq (s : State) (f : Fld) (k : Nat) : (s.count f k).seq = s.seq := rfl
@[simp] theorem State.count_cal (s : State) (f : Fld) (k : Nat) : (s.count f k).cal = s.cal := rfl
@[simp] theorem State.count_strobes (s : State) (f : Fld) (k : Nat) : (s.count f k).strobes = s.strobes := rfl
@[simp] theorem State.count_dins (s : State) (f : Fld) (k : Nat) : (s.count f k).dins = s.dins := rfl
@[simp] theorem State.count_ahead (s : State) (f : Fld) (k : Nat) : (s.count f k).ahead = s.ahead := rfl
@[simp] theorem State.count_phyLines (s : State) (f : Fld) (k : Nat) : (s.count f k).phyLines = s.phyLines := rfl
@[simp] theorem State.count_age (s : State) (f : Fld) (k : Nat) : (s.count f k).age = s.age := rfl
@[simp] theorem State.count_reverseAt (s : State) (f : Fld) (k : Nat) : (s.count f k).reverseAt = s.reverseAt := rfl
@[simp] theorem State.count_dies (s : State) (f : Fld) (k : Nat) : (s.count f k).dies = s.dies := rfl
@[simp] theorem State.count_msh (s : State) (f : Fld) (k : Nat) : (s.count f k).msh = s.msh := rfl
@[simp] theorem State.count_tmrs (s : State) (f : Fld) (k : Nat) : (s.count f k).tmrs = s.tmrs := rfl
@[simp] theorem State.count_tchs (s : State) (f : Fld) (k : Nat) : (s.count f k).tchs = s.tchs := rfl
@[simp] theorem State.count_stg (s : State) (f : Fld) (k : Nat) : (s.count f k).stg = s.stg := rfl
@[simp] theorem State.count_sw (s : State) (f : Fld) (k : Nat) : (s.count f k).sw = s.sw := rfl
@[simp] theorem State.count_pwr (s : State) (f : Fld) (k : Nat) : (s.count f k).pwr = s.pwr := rfl
@[simp] theorem State.count_nms (s : State) (f : Fld) (k : Nat) : (s.count f k).nms = s.nms := rfl
@[simp] theorem State.count_ring (s : State) (f : Fld) (k : Nat) : (s.count f k).ring = s.ring := rfl
@[simp] theorem State.count_cans (s : State) (f : Fld) (k : Nat) : (s.count f k).cans = s.cans := rfl
@[simp] theorem State.count_vault (s : State) (f : Fld) (k : Nat) : (s.count f k).vault = s.vault := rfl
@[simp] theorem State.count_acc (s : State) (f : Fld) (k : Nat) : (s.count f k).acc = s.acc := rfl
@[simp] theorem State.count_book (s : State) (f : Fld) (k : Nat) : (s.count f k).book = s.book := rfl
@[simp] theorem State.count_ageing (s : State) (f : Fld) (k : Nat) : (s.count f k).ageing = s.ageing := rfl
@[simp] theorem State.count_pac (s : State) (f : Fld) (k : Nat) : (s.count f k).pac = s.pac := rfl
@[simp] theorem State.count_tap (s : State) (f : Fld) (k : Nat) : (s.count f k).tap = s.tap := rfl
@[simp] theorem State.count_clk (s : State) (f : Fld) (k : Nat) : (s.count f k).clk = s.clk := rfl
@[simp] theorem State.count_sup (s : State) (f : Fld) (k : Nat) : (s.count f k).sup = s.sup := rfl
@[simp] theorem State.count_boot (s : State) (f : Fld) (k : Nat) : (s.count f k).boot = s.boot := rfl

@[simp] theorem State.evt_pending (s : State) (p b : Nat) : (s.evt p b).pending = s.pending := rfl
@[simp] theorem State.evt_now (s : State) (p b : Nat) : (s.evt p b).now = s.now := rfl
@[simp] theorem State.evt_splitZero (s : State) (p b : Nat) : (s.evt p b).splitZero = s.splitZero := rfl
@[simp] theorem State.evt_fresh (s : State) (p b : Nat) : (s.evt p b).fresh = s.fresh := rfl
@[simp] theorem State.evt_img (s : State) (p b : Nat) : (s.evt p b).img = s.img := rfl
@[simp] theorem State.evt_shadow (s : State) (p b : Nat) : (s.evt p b).shadow = s.shadow := rfl
@[simp] theorem State.evt_cfgAct (s : State) (p b : Nat) : (s.evt p b).cfgAct = s.cfgAct := rfl
@[simp] theorem State.evt_mem (s : State) (p b : Nat) : (s.evt p b).mem = s.mem := rfl
@[simp] theorem State.evt_timers (s : State) (p b : Nat) : (s.evt p b).timers = s.timers := rfl
@[simp] theorem State.evt_episodes (s : State) (p b : Nat) : (s.evt p b).episodes = s.episodes := rfl
@[simp] theorem State.evt_lockFirst (s : State) (p b : Nat) : (s.evt p b).lockFirst = s.lockFirst := rfl
@[simp] theorem State.evt_resetWait (s : State) (p b : Nat) : (s.evt p b).resetWait = s.resetWait := rfl
@[simp] theorem State.evt_enableWait (s : State) (p b : Nat) : (s.evt p b).enableWait = s.enableWait := rfl
@[simp] theorem State.evt_stride (s : State) (p b : Nat) : (s.evt p b).stride = s.stride := rfl
@[simp] theorem State.evt_queues (s : State) (p b : Nat) : (s.evt p b).queues = s.queues := rfl
@[simp] theorem State.evt_latches (s : State) (p b : Nat) : (s.evt p b).latches = s.latches := rfl
@[simp] theorem State.evt_fcr (s : State) (p b : Nat) : (s.evt p b).fcr = s.fcr := rfl
@[simp] theorem State.evt_outs (s : State) (p b : Nat) : (s.evt p b).outs = s.outs := rfl
@[simp] theorem State.evt_valves (s : State) (p b : Nat) : (s.evt p b).valves = s.valves := rfl
@[simp] theorem State.evt_bridges (s : State) (p b : Nat) : (s.evt p b).bridges = s.bridges := rfl
@[simp] theorem State.evt_scan (s : State) (p b : Nat) : (s.evt p b).scan = s.scan := rfl
@[simp] theorem State.evt_seq (s : State) (p b : Nat) : (s.evt p b).seq = s.seq := rfl
@[simp] theorem State.evt_cal (s : State) (p b : Nat) : (s.evt p b).cal = s.cal := rfl
@[simp] theorem State.evt_strobes (s : State) (p b : Nat) : (s.evt p b).strobes = s.strobes := rfl
@[simp] theorem State.evt_dins (s : State) (p b : Nat) : (s.evt p b).dins = s.dins := rfl
@[simp] theorem State.evt_ahead (s : State) (p b : Nat) : (s.evt p b).ahead = s.ahead := rfl
@[simp] theorem State.evt_phyLines (s : State) (p b : Nat) : (s.evt p b).phyLines = s.phyLines := rfl
@[simp] theorem State.evt_age (s : State) (p b : Nat) : (s.evt p b).age = s.age := rfl
@[simp] theorem State.evt_reverseAt (s : State) (p b : Nat) : (s.evt p b).reverseAt = s.reverseAt := rfl
@[simp] theorem State.evt_dies (s : State) (p b : Nat) : (s.evt p b).dies = s.dies := rfl
@[simp] theorem State.evt_msh (s : State) (p b : Nat) : (s.evt p b).msh = s.msh := rfl
@[simp] theorem State.evt_tmrs (s : State) (p b : Nat) : (s.evt p b).tmrs = s.tmrs := rfl
@[simp] theorem State.evt_tchs (s : State) (p b : Nat) : (s.evt p b).tchs = s.tchs := rfl
@[simp] theorem State.evt_stg (s : State) (p b : Nat) : (s.evt p b).stg = s.stg := rfl
@[simp] theorem State.evt_sw (s : State) (p b : Nat) : (s.evt p b).sw = s.sw := rfl
@[simp] theorem State.evt_pwr (s : State) (p b : Nat) : (s.evt p b).pwr = s.pwr := rfl
@[simp] theorem State.evt_nms (s : State) (p b : Nat) : (s.evt p b).nms = s.nms := rfl
@[simp] theorem State.evt_ring (s : State) (p b : Nat) : (s.evt p b).ring = s.ring := rfl
@[simp] theorem State.evt_cans (s : State) (p b : Nat) : (s.evt p b).cans = s.cans := rfl
@[simp] theorem State.evt_vault (s : State) (p b : Nat) : (s.evt p b).vault = s.vault := rfl
@[simp] theorem State.evt_acc (s : State) (p b : Nat) : (s.evt p b).acc = s.acc := rfl
@[simp] theorem State.evt_book (s : State) (p b : Nat) : (s.evt p b).book = s.book := rfl
@[simp] theorem State.evt_ageing (s : State) (p b : Nat) : (s.evt p b).ageing = s.ageing := rfl
@[simp] theorem State.evt_pac (s : State) (p b : Nat) : (s.evt p b).pac = s.pac := rfl
@[simp] theorem State.evt_tap (s : State) (p b : Nat) : (s.evt p b).tap = s.tap := rfl
@[simp] theorem State.evt_clk (s : State) (p b : Nat) : (s.evt p b).clk = s.clk := rfl
@[simp] theorem State.evt_sup (s : State) (p b : Nat) : (s.evt p b).sup = s.sup := rfl
@[simp] theorem State.evt_boot (s : State) (p b : Nat) : (s.evt p b).boot = s.boot := rfl

@[simp] theorem State.setFlag_pending (s : State) (f : Fld) (b : Nat) : (s.setFlag f b).pending = s.pending := rfl
@[simp] theorem State.setFlag_now (s : State) (f : Fld) (b : Nat) : (s.setFlag f b).now = s.now := rfl
@[simp] theorem State.setFlag_splitZero (s : State) (f : Fld) (b : Nat) : (s.setFlag f b).splitZero = s.splitZero := rfl
@[simp] theorem State.setFlag_fresh (s : State) (f : Fld) (b : Nat) : (s.setFlag f b).fresh = s.fresh := rfl
@[simp] theorem State.setFlag_img (s : State) (f : Fld) (b : Nat) : (s.setFlag f b).img = s.img := rfl
@[simp] theorem State.setFlag_shadow (s : State) (f : Fld) (b : Nat) : (s.setFlag f b).shadow = s.shadow := rfl
@[simp] theorem State.setFlag_cfgAct (s : State) (f : Fld) (b : Nat) : (s.setFlag f b).cfgAct = s.cfgAct := rfl
@[simp] theorem State.setFlag_mem (s : State) (f : Fld) (b : Nat) : (s.setFlag f b).mem = s.mem := rfl
@[simp] theorem State.setFlag_timers (s : State) (f : Fld) (b : Nat) : (s.setFlag f b).timers = s.timers := rfl
@[simp] theorem State.setFlag_episodes (s : State) (f : Fld) (b : Nat) : (s.setFlag f b).episodes = s.episodes := rfl
@[simp] theorem State.setFlag_lockFirst (s : State) (f : Fld) (b : Nat) : (s.setFlag f b).lockFirst = s.lockFirst := rfl
@[simp] theorem State.setFlag_resetWait (s : State) (f : Fld) (b : Nat) : (s.setFlag f b).resetWait = s.resetWait := rfl
@[simp] theorem State.setFlag_enableWait (s : State) (f : Fld) (b : Nat) : (s.setFlag f b).enableWait = s.enableWait := rfl
@[simp] theorem State.setFlag_stride (s : State) (f : Fld) (b : Nat) : (s.setFlag f b).stride = s.stride := rfl
@[simp] theorem State.setFlag_queues (s : State) (f : Fld) (b : Nat) : (s.setFlag f b).queues = s.queues := rfl
@[simp] theorem State.setFlag_latches (s : State) (f : Fld) (b : Nat) : (s.setFlag f b).latches = s.latches := rfl
@[simp] theorem State.setFlag_fcr (s : State) (f : Fld) (b : Nat) : (s.setFlag f b).fcr = s.fcr := rfl
@[simp] theorem State.setFlag_outs (s : State) (f : Fld) (b : Nat) : (s.setFlag f b).outs = s.outs := rfl
@[simp] theorem State.setFlag_valves (s : State) (f : Fld) (b : Nat) : (s.setFlag f b).valves = s.valves := rfl
@[simp] theorem State.setFlag_bridges (s : State) (f : Fld) (b : Nat) : (s.setFlag f b).bridges = s.bridges := rfl
@[simp] theorem State.setFlag_scan (s : State) (f : Fld) (b : Nat) : (s.setFlag f b).scan = s.scan := rfl
@[simp] theorem State.setFlag_seq (s : State) (f : Fld) (b : Nat) : (s.setFlag f b).seq = s.seq := rfl
@[simp] theorem State.setFlag_cal (s : State) (f : Fld) (b : Nat) : (s.setFlag f b).cal = s.cal := rfl
@[simp] theorem State.setFlag_strobes (s : State) (f : Fld) (b : Nat) : (s.setFlag f b).strobes = s.strobes := rfl
@[simp] theorem State.setFlag_dins (s : State) (f : Fld) (b : Nat) : (s.setFlag f b).dins = s.dins := rfl
@[simp] theorem State.setFlag_ahead (s : State) (f : Fld) (b : Nat) : (s.setFlag f b).ahead = s.ahead := rfl
@[simp] theorem State.setFlag_phyLines (s : State) (f : Fld) (b : Nat) : (s.setFlag f b).phyLines = s.phyLines := rfl
@[simp] theorem State.setFlag_age (s : State) (f : Fld) (b : Nat) : (s.setFlag f b).age = s.age := rfl
@[simp] theorem State.setFlag_reverseAt (s : State) (f : Fld) (b : Nat) : (s.setFlag f b).reverseAt = s.reverseAt := rfl
@[simp] theorem State.setFlag_dies (s : State) (f : Fld) (b : Nat) : (s.setFlag f b).dies = s.dies := rfl
@[simp] theorem State.setFlag_msh (s : State) (f : Fld) (b : Nat) : (s.setFlag f b).msh = s.msh := rfl
@[simp] theorem State.setFlag_tmrs (s : State) (f : Fld) (b : Nat) : (s.setFlag f b).tmrs = s.tmrs := rfl
@[simp] theorem State.setFlag_tchs (s : State) (f : Fld) (b : Nat) : (s.setFlag f b).tchs = s.tchs := rfl
@[simp] theorem State.setFlag_stg (s : State) (f : Fld) (b : Nat) : (s.setFlag f b).stg = s.stg := rfl
@[simp] theorem State.setFlag_sw (s : State) (f : Fld) (b : Nat) : (s.setFlag f b).sw = s.sw := rfl
@[simp] theorem State.setFlag_pwr (s : State) (f : Fld) (b : Nat) : (s.setFlag f b).pwr = s.pwr := rfl
@[simp] theorem State.setFlag_nms (s : State) (f : Fld) (b : Nat) : (s.setFlag f b).nms = s.nms := rfl
@[simp] theorem State.setFlag_ring (s : State) (f : Fld) (b : Nat) : (s.setFlag f b).ring = s.ring := rfl
@[simp] theorem State.setFlag_cans (s : State) (f : Fld) (b : Nat) : (s.setFlag f b).cans = s.cans := rfl
@[simp] theorem State.setFlag_vault (s : State) (f : Fld) (b : Nat) : (s.setFlag f b).vault = s.vault := rfl
@[simp] theorem State.setFlag_acc (s : State) (f : Fld) (b : Nat) : (s.setFlag f b).acc = s.acc := rfl
@[simp] theorem State.setFlag_book (s : State) (f : Fld) (b : Nat) : (s.setFlag f b).book = s.book := rfl
@[simp] theorem State.setFlag_ageing (s : State) (f : Fld) (b : Nat) : (s.setFlag f b).ageing = s.ageing := rfl
@[simp] theorem State.setFlag_pac (s : State) (f : Fld) (b : Nat) : (s.setFlag f b).pac = s.pac := rfl
@[simp] theorem State.setFlag_tap (s : State) (f : Fld) (b : Nat) : (s.setFlag f b).tap = s.tap := rfl
@[simp] theorem State.setFlag_clk (s : State) (f : Fld) (b : Nat) : (s.setFlag f b).clk = s.clk := rfl
@[simp] theorem State.setFlag_sup (s : State) (f : Fld) (b : Nat) : (s.setFlag f b).sup = s.sup := rfl
@[simp] theorem State.setFlag_boot (s : State) (f : Fld) (b : Nat) : (s.setFlag f b).boot = s.boot := rfl

@[simp] theorem State.clrFlag_pending (s : State) (f : Fld) (b : Nat) : (s.clrFlag f b).pending = s.pending := rfl
@[simp] theorem State.clrFlag_now (s : State) (f : Fld) (b : Nat) : (s.clrFlag f b).now = s.now := rfl
@[simp] theorem State.clrFlag_splitZero (s : State) (f : Fld) (b : Nat) : (s.clrFlag f b).splitZero = s.splitZero := rfl
@[simp] theorem State.clrFlag_fresh (s : State) (f : Fld) (b : Nat) : (s.clrFlag f b).fresh = s.fresh := rfl
@[simp] theorem State.clrFlag_img (s : State) (f : Fld) (b : Nat) : (s.clrFlag f b).img = s.img := rfl
@[simp] theorem State.clrFlag_shadow (s : State) (f : Fld) (b : Nat) : (s.clrFlag f b).shadow = s.shadow := rfl
@[simp] theorem State.clrFlag_cfgAct (s : State) (f : Fld) (b : Nat) : (s.clrFlag f b).cfgAct = s.cfgAct := rfl
@[simp] theorem State.clrFlag_mem (s : State) (f : Fld) (b : Nat) : (s.clrFlag f b).mem = s.mem := rfl
@[simp] theorem State.clrFlag_timers (s : State) (f : Fld) (b : Nat) : (s.clrFlag f b).timers = s.timers := rfl
@[simp] theorem State.clrFlag_episodes (s : State) (f : Fld) (b : Nat) : (s.clrFlag f b).episodes = s.episodes := rfl
@[simp] theorem State.clrFlag_lockFirst (s : State) (f : Fld) (b : Nat) : (s.clrFlag f b).lockFirst = s.lockFirst := rfl
@[simp] theorem State.clrFlag_resetWait (s : State) (f : Fld) (b : Nat) : (s.clrFlag f b).resetWait = s.resetWait := rfl
@[simp] theorem State.clrFlag_enableWait (s : State) (f : Fld) (b : Nat) : (s.clrFlag f b).enableWait = s.enableWait := rfl
@[simp] theorem State.clrFlag_stride (s : State) (f : Fld) (b : Nat) : (s.clrFlag f b).stride = s.stride := rfl
@[simp] theorem State.clrFlag_queues (s : State) (f : Fld) (b : Nat) : (s.clrFlag f b).queues = s.queues := rfl
@[simp] theorem State.clrFlag_latches (s : State) (f : Fld) (b : Nat) : (s.clrFlag f b).latches = s.latches := rfl
@[simp] theorem State.clrFlag_fcr (s : State) (f : Fld) (b : Nat) : (s.clrFlag f b).fcr = s.fcr := rfl
@[simp] theorem State.clrFlag_outs (s : State) (f : Fld) (b : Nat) : (s.clrFlag f b).outs = s.outs := rfl
@[simp] theorem State.clrFlag_valves (s : State) (f : Fld) (b : Nat) : (s.clrFlag f b).valves = s.valves := rfl
@[simp] theorem State.clrFlag_bridges (s : State) (f : Fld) (b : Nat) : (s.clrFlag f b).bridges = s.bridges := rfl
@[simp] theorem State.clrFlag_scan (s : State) (f : Fld) (b : Nat) : (s.clrFlag f b).scan = s.scan := rfl
@[simp] theorem State.clrFlag_seq (s : State) (f : Fld) (b : Nat) : (s.clrFlag f b).seq = s.seq := rfl
@[simp] theorem State.clrFlag_cal (s : State) (f : Fld) (b : Nat) : (s.clrFlag f b).cal = s.cal := rfl
@[simp] theorem State.clrFlag_strobes (s : State) (f : Fld) (b : Nat) : (s.clrFlag f b).strobes = s.strobes := rfl
@[simp] theorem State.clrFlag_dins (s : State) (f : Fld) (b : Nat) : (s.clrFlag f b).dins = s.dins := rfl
@[simp] theorem State.clrFlag_ahead (s : State) (f : Fld) (b : Nat) : (s.clrFlag f b).ahead = s.ahead := rfl
@[simp] theorem State.clrFlag_phyLines (s : State) (f : Fld) (b : Nat) : (s.clrFlag f b).phyLines = s.phyLines := rfl
@[simp] theorem State.clrFlag_age (s : State) (f : Fld) (b : Nat) : (s.clrFlag f b).age = s.age := rfl
@[simp] theorem State.clrFlag_reverseAt (s : State) (f : Fld) (b : Nat) : (s.clrFlag f b).reverseAt = s.reverseAt := rfl
@[simp] theorem State.clrFlag_dies (s : State) (f : Fld) (b : Nat) : (s.clrFlag f b).dies = s.dies := rfl
@[simp] theorem State.clrFlag_msh (s : State) (f : Fld) (b : Nat) : (s.clrFlag f b).msh = s.msh := rfl
@[simp] theorem State.clrFlag_tmrs (s : State) (f : Fld) (b : Nat) : (s.clrFlag f b).tmrs = s.tmrs := rfl
@[simp] theorem State.clrFlag_tchs (s : State) (f : Fld) (b : Nat) : (s.clrFlag f b).tchs = s.tchs := rfl
@[simp] theorem State.clrFlag_stg (s : State) (f : Fld) (b : Nat) : (s.clrFlag f b).stg = s.stg := rfl
@[simp] theorem State.clrFlag_sw (s : State) (f : Fld) (b : Nat) : (s.clrFlag f b).sw = s.sw := rfl
@[simp] theorem State.clrFlag_pwr (s : State) (f : Fld) (b : Nat) : (s.clrFlag f b).pwr = s.pwr := rfl
@[simp] theorem State.clrFlag_nms (s : State) (f : Fld) (b : Nat) : (s.clrFlag f b).nms = s.nms := rfl
@[simp] theorem State.clrFlag_ring (s : State) (f : Fld) (b : Nat) : (s.clrFlag f b).ring = s.ring := rfl
@[simp] theorem State.clrFlag_cans (s : State) (f : Fld) (b : Nat) : (s.clrFlag f b).cans = s.cans := rfl
@[simp] theorem State.clrFlag_vault (s : State) (f : Fld) (b : Nat) : (s.clrFlag f b).vault = s.vault := rfl
@[simp] theorem State.clrFlag_acc (s : State) (f : Fld) (b : Nat) : (s.clrFlag f b).acc = s.acc := rfl
@[simp] theorem State.clrFlag_book (s : State) (f : Fld) (b : Nat) : (s.clrFlag f b).book = s.book := rfl
@[simp] theorem State.clrFlag_ageing (s : State) (f : Fld) (b : Nat) : (s.clrFlag f b).ageing = s.ageing := rfl
@[simp] theorem State.clrFlag_pac (s : State) (f : Fld) (b : Nat) : (s.clrFlag f b).pac = s.pac := rfl
@[simp] theorem State.clrFlag_tap (s : State) (f : Fld) (b : Nat) : (s.clrFlag f b).tap = s.tap := rfl
@[simp] theorem State.clrFlag_clk (s : State) (f : Fld) (b : Nat) : (s.clrFlag f b).clk = s.clk := rfl
@[simp] theorem State.clrFlag_sup (s : State) (f : Fld) (b : Nat) : (s.clrFlag f b).sup = s.sup := rfl
@[simp] theorem State.clrFlag_boot (s : State) (f : Fld) (b : Nat) : (s.clrFlag f b).boot = s.boot := rfl

@[simp] theorem State.setLap_pending (s : State) (n : Nat) : (s.setLap n).pending = s.pending := by simp only [State.setLap, State.put_pending]
@[simp] theorem State.setLap_now (s : State) (n : Nat) : (s.setLap n).now = s.now := by simp only [State.setLap, State.put_now]
@[simp] theorem State.setLap_splitZero (s : State) (n : Nat) : (s.setLap n).splitZero = s.splitZero := by simp only [State.setLap, State.put_splitZero]
@[simp] theorem State.setLap_fresh (s : State) (n : Nat) : (s.setLap n).fresh = s.fresh := by simp only [State.setLap, State.put_fresh]
@[simp] theorem State.setLap_img (s : State) (n : Nat) : (s.setLap n).img = s.img := by simp only [State.setLap, State.put_img]
@[simp] theorem State.setLap_shadow (s : State) (n : Nat) : (s.setLap n).shadow = s.shadow := by simp only [State.setLap, State.put_shadow]
@[simp] theorem State.setLap_cfgAct (s : State) (n : Nat) : (s.setLap n).cfgAct = s.cfgAct := by simp only [State.setLap, State.put_cfgAct]
@[simp] theorem State.setLap_mem (s : State) (n : Nat) : (s.setLap n).mem = s.mem := by simp only [State.setLap, State.put_mem]
@[simp] theorem State.setLap_timers (s : State) (n : Nat) : (s.setLap n).timers = s.timers := by simp only [State.setLap, State.put_timers]
@[simp] theorem State.setLap_episodes (s : State) (n : Nat) : (s.setLap n).episodes = s.episodes := by simp only [State.setLap, State.put_episodes]
@[simp] theorem State.setLap_lockFirst (s : State) (n : Nat) : (s.setLap n).lockFirst = s.lockFirst := by simp only [State.setLap, State.put_lockFirst]
@[simp] theorem State.setLap_resetWait (s : State) (n : Nat) : (s.setLap n).resetWait = s.resetWait := by simp only [State.setLap, State.put_resetWait]
@[simp] theorem State.setLap_enableWait (s : State) (n : Nat) : (s.setLap n).enableWait = s.enableWait := by simp only [State.setLap, State.put_enableWait]
@[simp] theorem State.setLap_stride (s : State) (n : Nat) : (s.setLap n).stride = s.stride := by simp only [State.setLap, State.put_stride]
@[simp] theorem State.setLap_queues (s : State) (n : Nat) : (s.setLap n).queues = s.queues := by simp only [State.setLap, State.put_queues]
@[simp] theorem State.setLap_latches (s : State) (n : Nat) : (s.setLap n).latches = s.latches := by simp only [State.setLap, State.put_latches]
@[simp] theorem State.setLap_fcr (s : State) (n : Nat) : (s.setLap n).fcr = s.fcr := by simp only [State.setLap, State.put_fcr]
@[simp] theorem State.setLap_outs (s : State) (n : Nat) : (s.setLap n).outs = s.outs := by simp only [State.setLap, State.put_outs]
@[simp] theorem State.setLap_valves (s : State) (n : Nat) : (s.setLap n).valves = s.valves := by simp only [State.setLap, State.put_valves]
@[simp] theorem State.setLap_bridges (s : State) (n : Nat) : (s.setLap n).bridges = s.bridges := by simp only [State.setLap, State.put_bridges]
@[simp] theorem State.setLap_scan (s : State) (n : Nat) : (s.setLap n).scan = s.scan := by simp only [State.setLap, State.put_scan]
@[simp] theorem State.setLap_seq (s : State) (n : Nat) : (s.setLap n).seq = s.seq := by simp only [State.setLap, State.put_seq]
@[simp] theorem State.setLap_cal (s : State) (n : Nat) : (s.setLap n).cal = s.cal := by simp only [State.setLap, State.put_cal]
@[simp] theorem State.setLap_strobes (s : State) (n : Nat) : (s.setLap n).strobes = s.strobes := by simp only [State.setLap, State.put_strobes]
@[simp] theorem State.setLap_dins (s : State) (n : Nat) : (s.setLap n).dins = s.dins := by simp only [State.setLap, State.put_dins]
@[simp] theorem State.setLap_ahead (s : State) (n : Nat) : (s.setLap n).ahead = s.ahead := by simp only [State.setLap, State.put_ahead]
@[simp] theorem State.setLap_phyLines (s : State) (n : Nat) : (s.setLap n).phyLines = s.phyLines := by simp only [State.setLap, State.put_phyLines]
@[simp] theorem State.setLap_age (s : State) (n : Nat) : (s.setLap n).age = s.age := by simp only [State.setLap, State.put_age]
@[simp] theorem State.setLap_reverseAt (s : State) (n : Nat) : (s.setLap n).reverseAt = s.reverseAt := by simp only [State.setLap, State.put_reverseAt]
@[simp] theorem State.setLap_dies (s : State) (n : Nat) : (s.setLap n).dies = s.dies := by simp only [State.setLap, State.put_dies]
@[simp] theorem State.setLap_msh (s : State) (n : Nat) : (s.setLap n).msh = s.msh := by simp only [State.setLap, State.put_msh]
@[simp] theorem State.setLap_tmrs (s : State) (n : Nat) : (s.setLap n).tmrs = s.tmrs := by simp only [State.setLap, State.put_tmrs]
@[simp] theorem State.setLap_tchs (s : State) (n : Nat) : (s.setLap n).tchs = s.tchs := by simp only [State.setLap, State.put_tchs]
@[simp] theorem State.setLap_stg (s : State) (n : Nat) : (s.setLap n).stg = s.stg := by simp only [State.setLap, State.put_stg]
@[simp] theorem State.setLap_sw (s : State) (n : Nat) : (s.setLap n).sw = s.sw := by simp only [State.setLap, State.put_sw]
@[simp] theorem State.setLap_pwr (s : State) (n : Nat) : (s.setLap n).pwr = s.pwr := by simp only [State.setLap, State.put_pwr]
@[simp] theorem State.setLap_nms (s : State) (n : Nat) : (s.setLap n).nms = s.nms := by simp only [State.setLap, State.put_nms]
@[simp] theorem State.setLap_ring (s : State) (n : Nat) : (s.setLap n).ring = s.ring := by simp only [State.setLap, State.put_ring]
@[simp] theorem State.setLap_cans (s : State) (n : Nat) : (s.setLap n).cans = s.cans := by simp only [State.setLap, State.put_cans]
@[simp] theorem State.setLap_vault (s : State) (n : Nat) : (s.setLap n).vault = s.vault := by simp only [State.setLap, State.put_vault]
@[simp] theorem State.setLap_acc (s : State) (n : Nat) : (s.setLap n).acc = s.acc := by simp only [State.setLap, State.put_acc]
@[simp] theorem State.setLap_book (s : State) (n : Nat) : (s.setLap n).book = s.book := by simp only [State.setLap, State.put_book]
@[simp] theorem State.setLap_ageing (s : State) (n : Nat) : (s.setLap n).ageing = s.ageing := by simp only [State.setLap, State.put_ageing]
@[simp] theorem State.setLap_pac (s : State) (n : Nat) : (s.setLap n).pac = s.pac := by simp only [State.setLap, State.put_pac]
@[simp] theorem State.setLap_tap (s : State) (n : Nat) : (s.setLap n).tap = s.tap := by simp only [State.setLap, State.put_tap]
@[simp] theorem State.setLap_clk (s : State) (n : Nat) : (s.setLap n).clk = s.clk := by simp only [State.setLap, State.put_clk]
@[simp] theorem State.setLap_sup (s : State) (n : Nat) : (s.setLap n).sup = s.sup := by simp only [State.setLap, State.put_sup]
@[simp] theorem State.setLap_boot (s : State) (n : Nat) : (s.setLap n).boot = s.boot := by simp only [State.setLap, State.put_boot]

@[simp] theorem State.yieldRegs_pending (s : State) (g c : Nat) : (s.yieldRegs g c).pending = s.pending := by simp only [State.yieldRegs, State.put_pending, State.evt_pending, State.count_pending]
@[simp] theorem State.yieldRegs_now (s : State) (g c : Nat) : (s.yieldRegs g c).now = s.now := by simp only [State.yieldRegs, State.put_now, State.evt_now, State.count_now]
@[simp] theorem State.yieldRegs_splitZero (s : State) (g c : Nat) : (s.yieldRegs g c).splitZero = s.splitZero := by simp only [State.yieldRegs, State.put_splitZero, State.evt_splitZero, State.count_splitZero]
@[simp] theorem State.yieldRegs_fresh (s : State) (g c : Nat) : (s.yieldRegs g c).fresh = s.fresh := by simp only [State.yieldRegs, State.put_fresh, State.evt_fresh, State.count_fresh]
@[simp] theorem State.yieldRegs_img (s : State) (g c : Nat) : (s.yieldRegs g c).img = s.img := by simp only [State.yieldRegs, State.put_img, State.evt_img, State.count_img]
@[simp] theorem State.yieldRegs_shadow (s : State) (g c : Nat) : (s.yieldRegs g c).shadow = s.shadow := by simp only [State.yieldRegs, State.put_shadow, State.evt_shadow, State.count_shadow]
@[simp] theorem State.yieldRegs_cfgAct (s : State) (g c : Nat) : (s.yieldRegs g c).cfgAct = s.cfgAct := by simp only [State.yieldRegs, State.put_cfgAct, State.evt_cfgAct, State.count_cfgAct]
@[simp] theorem State.yieldRegs_mem (s : State) (g c : Nat) : (s.yieldRegs g c).mem = s.mem := by simp only [State.yieldRegs, State.put_mem, State.evt_mem, State.count_mem]
@[simp] theorem State.yieldRegs_timers (s : State) (g c : Nat) : (s.yieldRegs g c).timers = s.timers := by simp only [State.yieldRegs, State.put_timers, State.evt_timers, State.count_timers]
@[simp] theorem State.yieldRegs_episodes (s : State) (g c : Nat) : (s.yieldRegs g c).episodes = s.episodes := by simp only [State.yieldRegs, State.put_episodes, State.evt_episodes, State.count_episodes]
@[simp] theorem State.yieldRegs_lockFirst (s : State) (g c : Nat) : (s.yieldRegs g c).lockFirst = s.lockFirst := by simp only [State.yieldRegs, State.put_lockFirst, State.evt_lockFirst, State.count_lockFirst]
@[simp] theorem State.yieldRegs_resetWait (s : State) (g c : Nat) : (s.yieldRegs g c).resetWait = s.resetWait := by simp only [State.yieldRegs, State.put_resetWait, State.evt_resetWait, State.count_resetWait]
@[simp] theorem State.yieldRegs_enableWait (s : State) (g c : Nat) : (s.yieldRegs g c).enableWait = s.enableWait := by simp only [State.yieldRegs, State.put_enableWait, State.evt_enableWait, State.count_enableWait]
@[simp] theorem State.yieldRegs_stride (s : State) (g c : Nat) : (s.yieldRegs g c).stride = s.stride := by simp only [State.yieldRegs, State.put_stride, State.evt_stride, State.count_stride]
@[simp] theorem State.yieldRegs_queues (s : State) (g c : Nat) : (s.yieldRegs g c).queues = s.queues := by simp only [State.yieldRegs, State.put_queues, State.evt_queues, State.count_queues]
@[simp] theorem State.yieldRegs_latches (s : State) (g c : Nat) : (s.yieldRegs g c).latches = s.latches := by simp only [State.yieldRegs, State.put_latches, State.evt_latches, State.count_latches]
@[simp] theorem State.yieldRegs_fcr (s : State) (g c : Nat) : (s.yieldRegs g c).fcr = s.fcr := by simp only [State.yieldRegs, State.put_fcr, State.evt_fcr, State.count_fcr]
@[simp] theorem State.yieldRegs_outs (s : State) (g c : Nat) : (s.yieldRegs g c).outs = s.outs := by simp only [State.yieldRegs, State.put_outs, State.evt_outs, State.count_outs]
@[simp] theorem State.yieldRegs_valves (s : State) (g c : Nat) : (s.yieldRegs g c).valves = s.valves := by simp only [State.yieldRegs, State.put_valves, State.evt_valves, State.count_valves]
@[simp] theorem State.yieldRegs_bridges (s : State) (g c : Nat) : (s.yieldRegs g c).bridges = s.bridges := by simp only [State.yieldRegs, State.put_bridges, State.evt_bridges, State.count_bridges]
@[simp] theorem State.yieldRegs_scan (s : State) (g c : Nat) : (s.yieldRegs g c).scan = s.scan := by simp only [State.yieldRegs, State.put_scan, State.evt_scan, State.count_scan]
@[simp] theorem State.yieldRegs_seq (s : State) (g c : Nat) : (s.yieldRegs g c).seq = s.seq := by simp only [State.yieldRegs, State.put_seq, State.evt_seq, State.count_seq]
@[simp] theorem State.yieldRegs_cal (s : State) (g c : Nat) : (s.yieldRegs g c).cal = s.cal := by simp only [State.yieldRegs, State.put_cal, State.evt_cal, State.count_cal]
@[simp] theorem State.yieldRegs_strobes (s : State) (g c : Nat) : (s.yieldRegs g c).strobes = s.strobes := by simp only [State.yieldRegs, State.put_strobes, State.evt_strobes, State.count_strobes]
@[simp] theorem State.yieldRegs_dins (s : State) (g c : Nat) : (s.yieldRegs g c).dins = s.dins := by simp only [State.yieldRegs, State.put_dins, State.evt_dins, State.count_dins]
@[simp] theorem State.yieldRegs_ahead (s : State) (g c : Nat) : (s.yieldRegs g c).ahead = s.ahead := by simp only [State.yieldRegs, State.put_ahead, State.evt_ahead, State.count_ahead]
@[simp] theorem State.yieldRegs_phyLines (s : State) (g c : Nat) : (s.yieldRegs g c).phyLines = s.phyLines := by simp only [State.yieldRegs, State.put_phyLines, State.evt_phyLines, State.count_phyLines]
@[simp] theorem State.yieldRegs_age (s : State) (g c : Nat) : (s.yieldRegs g c).age = s.age := by simp only [State.yieldRegs, State.put_age, State.evt_age, State.count_age]
@[simp] theorem State.yieldRegs_reverseAt (s : State) (g c : Nat) : (s.yieldRegs g c).reverseAt = s.reverseAt := by simp only [State.yieldRegs, State.put_reverseAt, State.evt_reverseAt, State.count_reverseAt]
@[simp] theorem State.yieldRegs_dies (s : State) (g c : Nat) : (s.yieldRegs g c).dies = s.dies := by simp only [State.yieldRegs, State.put_dies, State.evt_dies, State.count_dies]
@[simp] theorem State.yieldRegs_msh (s : State) (g c : Nat) : (s.yieldRegs g c).msh = s.msh := by simp only [State.yieldRegs, State.put_msh, State.evt_msh, State.count_msh]
@[simp] theorem State.yieldRegs_tmrs (s : State) (g c : Nat) : (s.yieldRegs g c).tmrs = s.tmrs := by simp only [State.yieldRegs, State.put_tmrs, State.evt_tmrs, State.count_tmrs]
@[simp] theorem State.yieldRegs_tchs (s : State) (g c : Nat) : (s.yieldRegs g c).tchs = s.tchs := by simp only [State.yieldRegs, State.put_tchs, State.evt_tchs, State.count_tchs]
@[simp] theorem State.yieldRegs_stg (s : State) (g c : Nat) : (s.yieldRegs g c).stg = s.stg := by simp only [State.yieldRegs, State.put_stg, State.evt_stg, State.count_stg]
@[simp] theorem State.yieldRegs_sw (s : State) (g c : Nat) : (s.yieldRegs g c).sw = s.sw := by simp only [State.yieldRegs, State.put_sw, State.evt_sw, State.count_sw]
@[simp] theorem State.yieldRegs_pwr (s : State) (g c : Nat) : (s.yieldRegs g c).pwr = s.pwr := by simp only [State.yieldRegs, State.put_pwr, State.evt_pwr, State.count_pwr]
@[simp] theorem State.yieldRegs_nms (s : State) (g c : Nat) : (s.yieldRegs g c).nms = s.nms := by simp only [State.yieldRegs, State.put_nms, State.evt_nms, State.count_nms]
@[simp] theorem State.yieldRegs_ring (s : State) (g c : Nat) : (s.yieldRegs g c).ring = s.ring := by simp only [State.yieldRegs, State.put_ring, State.evt_ring, State.count_ring]
@[simp] theorem State.yieldRegs_cans (s : State) (g c : Nat) : (s.yieldRegs g c).cans = s.cans := by simp only [State.yieldRegs, State.put_cans, State.evt_cans, State.count_cans]
@[simp] theorem State.yieldRegs_vault (s : State) (g c : Nat) : (s.yieldRegs g c).vault = s.vault := by simp only [State.yieldRegs, State.put_vault, State.evt_vault, State.count_vault]
@[simp] theorem State.yieldRegs_acc (s : State) (g c : Nat) : (s.yieldRegs g c).acc = s.acc := by simp only [State.yieldRegs, State.put_acc, State.evt_acc, State.count_acc]
@[simp] theorem State.yieldRegs_book (s : State) (g c : Nat) : (s.yieldRegs g c).book = s.book := by simp only [State.yieldRegs, State.put_book, State.evt_book, State.count_book]
@[simp] theorem State.yieldRegs_ageing (s : State) (g c : Nat) : (s.yieldRegs g c).ageing = s.ageing := by simp only [State.yieldRegs, State.put_ageing, State.evt_ageing, State.count_ageing]
@[simp] theorem State.yieldRegs_pac (s : State) (g c : Nat) : (s.yieldRegs g c).pac = s.pac := by simp only [State.yieldRegs, State.put_pac, State.evt_pac, State.count_pac]
@[simp] theorem State.yieldRegs_tap (s : State) (g c : Nat) : (s.yieldRegs g c).tap = s.tap := by simp only [State.yieldRegs, State.put_tap, State.evt_tap, State.count_tap]
@[simp] theorem State.yieldRegs_clk (s : State) (g c : Nat) : (s.yieldRegs g c).clk = s.clk := by simp only [State.yieldRegs, State.put_clk, State.evt_clk, State.count_clk]
@[simp] theorem State.yieldRegs_sup (s : State) (g c : Nat) : (s.yieldRegs g c).sup = s.sup := by simp only [State.yieldRegs, State.put_sup, State.evt_sup, State.count_sup]
@[simp] theorem State.yieldRegs_boot (s : State) (g c : Nat) : (s.yieldRegs g c).boot = s.boot := by simp only [State.yieldRegs, State.put_boot, State.evt_boot, State.count_boot]

@[simp] theorem State.reach_pending (s : State) (t : Nat) : (s.reach t).pending = s.pending := rfl
@[simp] theorem State.reach_splitZero (s : State) (t : Nat) : (s.reach t).splitZero = s.splitZero := rfl
@[simp] theorem State.reach_fresh (s : State) (t : Nat) : (s.reach t).fresh = s.fresh := rfl
@[simp] theorem State.reach_regs (s : State) (t : Nat) : (s.reach t).regs = s.regs := rfl
@[simp] theorem State.reach_img (s : State) (t : Nat) : (s.reach t).img = s.img := rfl
@[simp] theorem State.reach_shadow (s : State) (t : Nat) : (s.reach t).shadow = s.shadow := rfl
@[simp] theorem State.reach_cfgAct (s : State) (t : Nat) : (s.reach t).cfgAct = s.cfgAct := rfl
@[simp] theorem State.reach_mem (s : State) (t : Nat) : (s.reach t).mem = s.mem := rfl
@[simp] theorem State.reach_timers (s : State) (t : Nat) : (s.reach t).timers = s.timers := rfl
@[simp] theorem State.reach_episodes (s : State) (t : Nat) : (s.reach t).episodes = s.episodes := rfl
@[simp] theorem State.reach_lockFirst (s : State) (t : Nat) : (s.reach t).lockFirst = s.lockFirst := rfl
@[simp] theorem State.reach_resetWait (s : State) (t : Nat) : (s.reach t).resetWait = s.resetWait := rfl
@[simp] theorem State.reach_enableWait (s : State) (t : Nat) : (s.reach t).enableWait = s.enableWait := rfl
@[simp] theorem State.reach_stride (s : State) (t : Nat) : (s.reach t).stride = s.stride := rfl
@[simp] theorem State.reach_queues (s : State) (t : Nat) : (s.reach t).queues = s.queues := rfl
@[simp] theorem State.reach_latches (s : State) (t : Nat) : (s.reach t).latches = s.latches := rfl
@[simp] theorem State.reach_fcr (s : State) (t : Nat) : (s.reach t).fcr = s.fcr := rfl
@[simp] theorem State.reach_outs (s : State) (t : Nat) : (s.reach t).outs = s.outs := rfl
@[simp] theorem State.reach_valves (s : State) (t : Nat) : (s.reach t).valves = s.valves := rfl
@[simp] theorem State.reach_bridges (s : State) (t : Nat) : (s.reach t).bridges = s.bridges := rfl
@[simp] theorem State.reach_scan (s : State) (t : Nat) : (s.reach t).scan = s.scan := rfl
@[simp] theorem State.reach_seq (s : State) (t : Nat) : (s.reach t).seq = s.seq := rfl
@[simp] theorem State.reach_cal (s : State) (t : Nat) : (s.reach t).cal = s.cal := rfl
@[simp] theorem State.reach_strobes (s : State) (t : Nat) : (s.reach t).strobes = s.strobes := rfl
@[simp] theorem State.reach_dins (s : State) (t : Nat) : (s.reach t).dins = s.dins := rfl
@[simp] theorem State.reach_ahead (s : State) (t : Nat) : (s.reach t).ahead = s.ahead := rfl
@[simp] theorem State.reach_phyLines (s : State) (t : Nat) : (s.reach t).phyLines = s.phyLines := rfl
@[simp] theorem State.reach_age (s : State) (t : Nat) : (s.reach t).age = s.age := rfl
@[simp] theorem State.reach_reverseAt (s : State) (t : Nat) : (s.reach t).reverseAt = s.reverseAt := rfl
@[simp] theorem State.reach_dies (s : State) (t : Nat) : (s.reach t).dies = s.dies := rfl
@[simp] theorem State.reach_msh (s : State) (t : Nat) : (s.reach t).msh = s.msh := rfl
@[simp] theorem State.reach_tmrs (s : State) (t : Nat) : (s.reach t).tmrs = s.tmrs := rfl
@[simp] theorem State.reach_tchs (s : State) (t : Nat) : (s.reach t).tchs = s.tchs := rfl
@[simp] theorem State.reach_stg (s : State) (t : Nat) : (s.reach t).stg = s.stg := rfl
@[simp] theorem State.reach_sw (s : State) (t : Nat) : (s.reach t).sw = s.sw := rfl
@[simp] theorem State.reach_pwr (s : State) (t : Nat) : (s.reach t).pwr = s.pwr := rfl
@[simp] theorem State.reach_nms (s : State) (t : Nat) : (s.reach t).nms = s.nms := rfl
@[simp] theorem State.reach_ring (s : State) (t : Nat) : (s.reach t).ring = s.ring := rfl
@[simp] theorem State.reach_cans (s : State) (t : Nat) : (s.reach t).cans = s.cans := rfl
@[simp] theorem State.reach_vault (s : State) (t : Nat) : (s.reach t).vault = s.vault := rfl
@[simp] theorem State.reach_acc (s : State) (t : Nat) : (s.reach t).acc = s.acc := rfl
@[simp] theorem State.reach_book (s : State) (t : Nat) : (s.reach t).book = s.book := rfl
@[simp] theorem State.reach_ageing (s : State) (t : Nat) : (s.reach t).ageing = s.ageing := rfl
@[simp] theorem State.reach_pac (s : State) (t : Nat) : (s.reach t).pac = s.pac := rfl
@[simp] theorem State.reach_tap (s : State) (t : Nat) : (s.reach t).tap = s.tap := rfl
@[simp] theorem State.reach_clk (s : State) (t : Nat) : (s.reach t).clk = s.clk := rfl
@[simp] theorem State.reach_sup (s : State) (t : Nat) : (s.reach t).sup = s.sup := rfl
@[simp] theorem State.reach_boot (s : State) (t : Nat) : (s.reach t).boot = s.boot := rfl

@[simp] theorem State.arm_pending (s : State) (k : Timer) (t : Nat) : (s.arm k t).pending = s.pending := rfl
@[simp] theorem State.arm_now (s : State) (k : Timer) (t : Nat) : (s.arm k t).now = s.now := rfl
@[simp] theorem State.arm_splitZero (s : State) (k : Timer) (t : Nat) : (s.arm k t).splitZero = s.splitZero := rfl
@[simp] theorem State.arm_fresh (s : State) (k : Timer) (t : Nat) : (s.arm k t).fresh = s.fresh := rfl
@[simp] theorem State.arm_regs (s : State) (k : Timer) (t : Nat) : (s.arm k t).regs = s.regs := rfl
@[simp] theorem State.arm_img (s : State) (k : Timer) (t : Nat) : (s.arm k t).img = s.img := rfl
@[simp] theorem State.arm_shadow (s : State) (k : Timer) (t : Nat) : (s.arm k t).shadow = s.shadow := rfl
@[simp] theorem State.arm_cfgAct (s : State) (k : Timer) (t : Nat) : (s.arm k t).cfgAct = s.cfgAct := rfl
@[simp] theorem State.arm_mem (s : State) (k : Timer) (t : Nat) : (s.arm k t).mem = s.mem := rfl
@[simp] theorem State.arm_episodes (s : State) (k : Timer) (t : Nat) : (s.arm k t).episodes = s.episodes := rfl
@[simp] theorem State.arm_lockFirst (s : State) (k : Timer) (t : Nat) : (s.arm k t).lockFirst = s.lockFirst := rfl
@[simp] theorem State.arm_resetWait (s : State) (k : Timer) (t : Nat) : (s.arm k t).resetWait = s.resetWait := rfl
@[simp] theorem State.arm_enableWait (s : State) (k : Timer) (t : Nat) : (s.arm k t).enableWait = s.enableWait := rfl
@[simp] theorem State.arm_stride (s : State) (k : Timer) (t : Nat) : (s.arm k t).stride = s.stride := rfl
@[simp] theorem State.arm_queues (s : State) (k : Timer) (t : Nat) : (s.arm k t).queues = s.queues := rfl
@[simp] theorem State.arm_latches (s : State) (k : Timer) (t : Nat) : (s.arm k t).latches = s.latches := rfl
@[simp] theorem State.arm_fcr (s : State) (k : Timer) (t : Nat) : (s.arm k t).fcr = s.fcr := rfl
@[simp] theorem State.arm_outs (s : State) (k : Timer) (t : Nat) : (s.arm k t).outs = s.outs := rfl
@[simp] theorem State.arm_valves (s : State) (k : Timer) (t : Nat) : (s.arm k t).valves = s.valves := rfl
@[simp] theorem State.arm_bridges (s : State) (k : Timer) (t : Nat) : (s.arm k t).bridges = s.bridges := rfl
@[simp] theorem State.arm_scan (s : State) (k : Timer) (t : Nat) : (s.arm k t).scan = s.scan := rfl
@[simp] theorem State.arm_seq (s : State) (k : Timer) (t : Nat) : (s.arm k t).seq = s.seq := rfl
@[simp] theorem State.arm_cal (s : State) (k : Timer) (t : Nat) : (s.arm k t).cal = s.cal := rfl
@[simp] theorem State.arm_strobes (s : State) (k : Timer) (t : Nat) : (s.arm k t).strobes = s.strobes := rfl
@[simp] theorem State.arm_dins (s : State) (k : Timer) (t : Nat) : (s.arm k t).dins = s.dins := rfl
@[simp] theorem State.arm_ahead (s : State) (k : Timer) (t : Nat) : (s.arm k t).ahead = s.ahead := rfl
@[simp] theorem State.arm_phyLines (s : State) (k : Timer) (t : Nat) : (s.arm k t).phyLines = s.phyLines := rfl
@[simp] theorem State.arm_age (s : State) (k : Timer) (t : Nat) : (s.arm k t).age = s.age := rfl
@[simp] theorem State.arm_reverseAt (s : State) (k : Timer) (t : Nat) : (s.arm k t).reverseAt = s.reverseAt := rfl
@[simp] theorem State.arm_dies (s : State) (k : Timer) (t : Nat) : (s.arm k t).dies = s.dies := rfl
@[simp] theorem State.arm_msh (s : State) (k : Timer) (t : Nat) : (s.arm k t).msh = s.msh := rfl
@[simp] theorem State.arm_tmrs (s : State) (k : Timer) (t : Nat) : (s.arm k t).tmrs = s.tmrs := rfl
@[simp] theorem State.arm_tchs (s : State) (k : Timer) (t : Nat) : (s.arm k t).tchs = s.tchs := rfl
@[simp] theorem State.arm_stg (s : State) (k : Timer) (t : Nat) : (s.arm k t).stg = s.stg := rfl
@[simp] theorem State.arm_sw (s : State) (k : Timer) (t : Nat) : (s.arm k t).sw = s.sw := rfl
@[simp] theorem State.arm_pwr (s : State) (k : Timer) (t : Nat) : (s.arm k t).pwr = s.pwr := rfl
@[simp] theorem State.arm_nms (s : State) (k : Timer) (t : Nat) : (s.arm k t).nms = s.nms := rfl
@[simp] theorem State.arm_ring (s : State) (k : Timer) (t : Nat) : (s.arm k t).ring = s.ring := rfl
@[simp] theorem State.arm_cans (s : State) (k : Timer) (t : Nat) : (s.arm k t).cans = s.cans := rfl
@[simp] theorem State.arm_vault (s : State) (k : Timer) (t : Nat) : (s.arm k t).vault = s.vault := rfl
@[simp] theorem State.arm_acc (s : State) (k : Timer) (t : Nat) : (s.arm k t).acc = s.acc := rfl
@[simp] theorem State.arm_book (s : State) (k : Timer) (t : Nat) : (s.arm k t).book = s.book := rfl
@[simp] theorem State.arm_ageing (s : State) (k : Timer) (t : Nat) : (s.arm k t).ageing = s.ageing := rfl
@[simp] theorem State.arm_pac (s : State) (k : Timer) (t : Nat) : (s.arm k t).pac = s.pac := rfl
@[simp] theorem State.arm_tap (s : State) (k : Timer) (t : Nat) : (s.arm k t).tap = s.tap := rfl
@[simp] theorem State.arm_clk (s : State) (k : Timer) (t : Nat) : (s.arm k t).clk = s.clk := rfl
@[simp] theorem State.arm_sup (s : State) (k : Timer) (t : Nat) : (s.arm k t).sup = s.sup := rfl
@[simp] theorem State.arm_boot (s : State) (k : Timer) (t : Nat) : (s.arm k t).boot = s.boot := rfl

@[simp] theorem State.disarm_pending (s : State) (k : Timer) : (s.disarm k).pending = s.pending := rfl
@[simp] theorem State.disarm_now (s : State) (k : Timer) : (s.disarm k).now = s.now := rfl
@[simp] theorem State.disarm_splitZero (s : State) (k : Timer) : (s.disarm k).splitZero = s.splitZero := rfl
@[simp] theorem State.disarm_fresh (s : State) (k : Timer) : (s.disarm k).fresh = s.fresh := rfl
@[simp] theorem State.disarm_regs (s : State) (k : Timer) : (s.disarm k).regs = s.regs := rfl
@[simp] theorem State.disarm_img (s : State) (k : Timer) : (s.disarm k).img = s.img := rfl
@[simp] theorem State.disarm_shadow (s : State) (k : Timer) : (s.disarm k).shadow = s.shadow := rfl
@[simp] theorem State.disarm_cfgAct (s : State) (k : Timer) : (s.disarm k).cfgAct = s.cfgAct := rfl
@[simp] theorem State.disarm_mem (s : State) (k : Timer) : (s.disarm k).mem = s.mem := rfl
@[simp] theorem State.disarm_episodes (s : State) (k : Timer) : (s.disarm k).episodes = s.episodes := rfl
@[simp] theorem State.disarm_lockFirst (s : State) (k : Timer) : (s.disarm k).lockFirst = s.lockFirst := rfl
@[simp] theorem State.disarm_resetWait (s : State) (k : Timer) : (s.disarm k).resetWait = s.resetWait := rfl
@[simp] theorem State.disarm_enableWait (s : State) (k : Timer) : (s.disarm k).enableWait = s.enableWait := rfl
@[simp] theorem State.disarm_stride (s : State) (k : Timer) : (s.disarm k).stride = s.stride := rfl
@[simp] theorem State.disarm_queues (s : State) (k : Timer) : (s.disarm k).queues = s.queues := rfl
@[simp] theorem State.disarm_latches (s : State) (k : Timer) : (s.disarm k).latches = s.latches := rfl
@[simp] theorem State.disarm_fcr (s : State) (k : Timer) : (s.disarm k).fcr = s.fcr := rfl
@[simp] theorem State.disarm_outs (s : State) (k : Timer) : (s.disarm k).outs = s.outs := rfl
@[simp] theorem State.disarm_valves (s : State) (k : Timer) : (s.disarm k).valves = s.valves := rfl
@[simp] theorem State.disarm_bridges (s : State) (k : Timer) : (s.disarm k).bridges = s.bridges := rfl
@[simp] theorem State.disarm_scan (s : State) (k : Timer) : (s.disarm k).scan = s.scan := rfl
@[simp] theorem State.disarm_seq (s : State) (k : Timer) : (s.disarm k).seq = s.seq := rfl
@[simp] theorem State.disarm_cal (s : State) (k : Timer) : (s.disarm k).cal = s.cal := rfl
@[simp] theorem State.disarm_strobes (s : State) (k : Timer) : (s.disarm k).strobes = s.strobes := rfl
@[simp] theorem State.disarm_dins (s : State) (k : Timer) : (s.disarm k).dins = s.dins := rfl
@[simp] theorem State.disarm_ahead (s : State) (k : Timer) : (s.disarm k).ahead = s.ahead := rfl
@[simp] theorem State.disarm_phyLines (s : State) (k : Timer) : (s.disarm k).phyLines = s.phyLines := rfl
@[simp] theorem State.disarm_age (s : State) (k : Timer) : (s.disarm k).age = s.age := rfl
@[simp] theorem State.disarm_reverseAt (s : State) (k : Timer) : (s.disarm k).reverseAt = s.reverseAt := rfl
@[simp] theorem State.disarm_dies (s : State) (k : Timer) : (s.disarm k).dies = s.dies := rfl
@[simp] theorem State.disarm_msh (s : State) (k : Timer) : (s.disarm k).msh = s.msh := rfl
@[simp] theorem State.disarm_tmrs (s : State) (k : Timer) : (s.disarm k).tmrs = s.tmrs := rfl
@[simp] theorem State.disarm_tchs (s : State) (k : Timer) : (s.disarm k).tchs = s.tchs := rfl
@[simp] theorem State.disarm_stg (s : State) (k : Timer) : (s.disarm k).stg = s.stg := rfl
@[simp] theorem State.disarm_sw (s : State) (k : Timer) : (s.disarm k).sw = s.sw := rfl
@[simp] theorem State.disarm_pwr (s : State) (k : Timer) : (s.disarm k).pwr = s.pwr := rfl
@[simp] theorem State.disarm_nms (s : State) (k : Timer) : (s.disarm k).nms = s.nms := rfl
@[simp] theorem State.disarm_ring (s : State) (k : Timer) : (s.disarm k).ring = s.ring := rfl
@[simp] theorem State.disarm_cans (s : State) (k : Timer) : (s.disarm k).cans = s.cans := rfl
@[simp] theorem State.disarm_vault (s : State) (k : Timer) : (s.disarm k).vault = s.vault := rfl
@[simp] theorem State.disarm_acc (s : State) (k : Timer) : (s.disarm k).acc = s.acc := rfl
@[simp] theorem State.disarm_book (s : State) (k : Timer) : (s.disarm k).book = s.book := rfl
@[simp] theorem State.disarm_ageing (s : State) (k : Timer) : (s.disarm k).ageing = s.ageing := rfl
@[simp] theorem State.disarm_pac (s : State) (k : Timer) : (s.disarm k).pac = s.pac := rfl
@[simp] theorem State.disarm_tap (s : State) (k : Timer) : (s.disarm k).tap = s.tap := rfl
@[simp] theorem State.disarm_clk (s : State) (k : Timer) : (s.disarm k).clk = s.clk := rfl
@[simp] theorem State.disarm_sup (s : State) (k : Timer) : (s.disarm k).sup = s.sup := rfl
@[simp] theorem State.disarm_boot (s : State) (k : Timer) : (s.disarm k).boot = s.boot := rfl

@[simp] theorem State.setByte_pending (s : State) (a : Nat) (b : Byte) : (s.setByte a b).pending = s.pending := rfl
@[simp] theorem State.setByte_now (s : State) (a : Nat) (b : Byte) : (s.setByte a b).now = s.now := rfl
@[simp] theorem State.setByte_splitZero (s : State) (a : Nat) (b : Byte) : (s.setByte a b).splitZero = s.splitZero := rfl
@[simp] theorem State.setByte_fresh (s : State) (a : Nat) (b : Byte) : (s.setByte a b).fresh = s.fresh := rfl
@[simp] theorem State.setByte_regs (s : State) (a : Nat) (b : Byte) : (s.setByte a b).regs = s.regs := rfl
@[simp] theorem State.setByte_img (s : State) (a : Nat) (b : Byte) : (s.setByte a b).img = s.img := rfl
@[simp] theorem State.setByte_shadow (s : State) (a : Nat) (b : Byte) : (s.setByte a b).shadow = s.shadow := rfl
@[simp] theorem State.setByte_cfgAct (s : State) (a : Nat) (b : Byte) : (s.setByte a b).cfgAct = s.cfgAct := rfl
@[simp] theorem State.setByte_timers (s : State) (a : Nat) (b : Byte) : (s.setByte a b).timers = s.timers := rfl
@[simp] theorem State.setByte_episodes (s : State) (a : Nat) (b : Byte) : (s.setByte a b).episodes = s.episodes := rfl
@[simp] theorem State.setByte_lockFirst (s : State) (a : Nat) (b : Byte) : (s.setByte a b).lockFirst = s.lockFirst := rfl
@[simp] theorem State.setByte_resetWait (s : State) (a : Nat) (b : Byte) : (s.setByte a b).resetWait = s.resetWait := rfl
@[simp] theorem State.setByte_enableWait (s : State) (a : Nat) (b : Byte) : (s.setByte a b).enableWait = s.enableWait := rfl
@[simp] theorem State.setByte_stride (s : State) (a : Nat) (b : Byte) : (s.setByte a b).stride = s.stride := rfl
@[simp] theorem State.setByte_queues (s : State) (a : Nat) (b : Byte) : (s.setByte a b).queues = s.queues := rfl
@[simp] theorem State.setByte_latches (s : State) (a : Nat) (b : Byte) : (s.setByte a b).latches = s.latches := rfl
@[simp] theorem State.setByte_fcr (s : State) (a : Nat) (b : Byte) : (s.setByte a b).fcr = s.fcr := rfl
@[simp] theorem State.setByte_outs (s : State) (a : Nat) (b : Byte) : (s.setByte a b).outs = s.outs := rfl
@[simp] theorem State.setByte_valves (s : State) (a : Nat) (b : Byte) : (s.setByte a b).valves = s.valves := rfl
@[simp] theorem State.setByte_bridges (s : State) (a : Nat) (b : Byte) : (s.setByte a b).bridges = s.bridges := rfl
@[simp] theorem State.setByte_scan (s : State) (a : Nat) (b : Byte) : (s.setByte a b).scan = s.scan := rfl
@[simp] theorem State.setByte_seq (s : State) (a : Nat) (b : Byte) : (s.setByte a b).seq = s.seq := rfl
@[simp] theorem State.setByte_cal (s : State) (a : Nat) (b : Byte) : (s.setByte a b).cal = s.cal := rfl
@[simp] theorem State.setByte_strobes (s : State) (a : Nat) (b : Byte) : (s.setByte a b).strobes = s.strobes := rfl
@[simp] theorem State.setByte_dins (s : State) (a : Nat) (b : Byte) : (s.setByte a b).dins = s.dins := rfl
@[simp] theorem State.setByte_ahead (s : State) (a : Nat) (b : Byte) : (s.setByte a b).ahead = s.ahead := rfl
@[simp] theorem State.setByte_phyLines (s : State) (a : Nat) (b : Byte) : (s.setByte a b).phyLines = s.phyLines := rfl
@[simp] theorem State.setByte_age (s : State) (a : Nat) (b : Byte) : (s.setByte a b).age = s.age := rfl
@[simp] theorem State.setByte_reverseAt (s : State) (a : Nat) (b : Byte) : (s.setByte a b).reverseAt = s.reverseAt := rfl
@[simp] theorem State.setByte_dies (s : State) (a : Nat) (b : Byte) : (s.setByte a b).dies = s.dies := rfl
@[simp] theorem State.setByte_msh (s : State) (a : Nat) (b : Byte) : (s.setByte a b).msh = s.msh := rfl
@[simp] theorem State.setByte_tmrs (s : State) (a : Nat) (b : Byte) : (s.setByte a b).tmrs = s.tmrs := rfl
@[simp] theorem State.setByte_tchs (s : State) (a : Nat) (b : Byte) : (s.setByte a b).tchs = s.tchs := rfl
@[simp] theorem State.setByte_stg (s : State) (a : Nat) (b : Byte) : (s.setByte a b).stg = s.stg := rfl
@[simp] theorem State.setByte_sw (s : State) (a : Nat) (b : Byte) : (s.setByte a b).sw = s.sw := rfl
@[simp] theorem State.setByte_pwr (s : State) (a : Nat) (b : Byte) : (s.setByte a b).pwr = s.pwr := rfl
@[simp] theorem State.setByte_nms (s : State) (a : Nat) (b : Byte) : (s.setByte a b).nms = s.nms := rfl
@[simp] theorem State.setByte_ring (s : State) (a : Nat) (b : Byte) : (s.setByte a b).ring = s.ring := rfl
@[simp] theorem State.setByte_cans (s : State) (a : Nat) (b : Byte) : (s.setByte a b).cans = s.cans := rfl
@[simp] theorem State.setByte_vault (s : State) (a : Nat) (b : Byte) : (s.setByte a b).vault = s.vault := rfl
@[simp] theorem State.setByte_acc (s : State) (a : Nat) (b : Byte) : (s.setByte a b).acc = s.acc := rfl
@[simp] theorem State.setByte_book (s : State) (a : Nat) (b : Byte) : (s.setByte a b).book = s.book := rfl
@[simp] theorem State.setByte_ageing (s : State) (a : Nat) (b : Byte) : (s.setByte a b).ageing = s.ageing := rfl
@[simp] theorem State.setByte_pac (s : State) (a : Nat) (b : Byte) : (s.setByte a b).pac = s.pac := rfl
@[simp] theorem State.setByte_tap (s : State) (a : Nat) (b : Byte) : (s.setByte a b).tap = s.tap := rfl
@[simp] theorem State.setByte_clk (s : State) (a : Nat) (b : Byte) : (s.setByte a b).clk = s.clk := rfl
@[simp] theorem State.setByte_sup (s : State) (a : Nat) (b : Byte) : (s.setByte a b).sup = s.sup := rfl
@[simp] theorem State.setByte_boot (s : State) (a : Nat) (b : Byte) : (s.setByte a b).boot = s.boot := rfl

@[simp] theorem State.setBytes_pending (s : State) (a : Nat) (bs : List Byte) : (s.setBytes a bs).pending = s.pending := rfl
@[simp] theorem State.setBytes_now (s : State) (a : Nat) (bs : List Byte) : (s.setBytes a bs).now = s.now := rfl
@[simp] theorem State.setBytes_splitZero (s : State) (a : Nat) (bs : List Byte) : (s.setBytes a bs).splitZero = s.splitZero := rfl
@[simp] theorem State.setBytes_fresh (s : State) (a : Nat) (bs : List Byte) : (s.setBytes a bs).fresh = s.fresh := rfl
@[simp] theorem State.setBytes_regs (s : State) (a : Nat) (bs : List Byte) : (s.setBytes a bs).regs = s.regs := rfl
@[simp] theorem State.setBytes_img (s : State) (a : Nat) (bs : List Byte) : (s.setBytes a bs).img = s.img := rfl
@[simp] theorem State.setBytes_shadow (s : State) (a : Nat) (bs : List Byte) : (s.setBytes a bs).shadow = s.shadow := rfl
@[simp] theorem State.setBytes_cfgAct (s : State) (a : Nat) (bs : List Byte) : (s.setBytes a bs).cfgAct = s.cfgAct := rfl
@[simp] theorem State.setBytes_timers (s : State) (a : Nat) (bs : List Byte) : (s.setBytes a bs).timers = s.timers := rfl
@[simp] theorem State.setBytes_episodes (s : State) (a : Nat) (bs : List Byte) : (s.setBytes a bs).episodes = s.episodes := rfl
@[simp] theorem State.setBytes_lockFirst (s : State) (a : Nat) (bs : List Byte) : (s.setBytes a bs).lockFirst = s.lockFirst := rfl
@[simp] theorem State.setBytes_resetWait (s : State) (a : Nat) (bs : List Byte) : (s.setBytes a bs).resetWait = s.resetWait := rfl
@[simp] theorem State.setBytes_enableWait (s : State) (a : Nat) (bs : List Byte) : (s.setBytes a bs).enableWait = s.enableWait := rfl
@[simp] theorem State.setBytes_stride (s : State) (a : Nat) (bs : List Byte) : (s.setBytes a bs).stride = s.stride := rfl
@[simp] theorem State.setBytes_queues (s : State) (a : Nat) (bs : List Byte) : (s.setBytes a bs).queues = s.queues := rfl
@[simp] theorem State.setBytes_latches (s : State) (a : Nat) (bs : List Byte) : (s.setBytes a bs).latches = s.latches := rfl
@[simp] theorem State.setBytes_fcr (s : State) (a : Nat) (bs : List Byte) : (s.setBytes a bs).fcr = s.fcr := rfl
@[simp] theorem State.setBytes_outs (s : State) (a : Nat) (bs : List Byte) : (s.setBytes a bs).outs = s.outs := rfl
@[simp] theorem State.setBytes_valves (s : State) (a : Nat) (bs : List Byte) : (s.setBytes a bs).valves = s.valves := rfl
@[simp] theorem State.setBytes_bridges (s : State) (a : Nat) (bs : List Byte) : (s.setBytes a bs).bridges = s.bridges := rfl
@[simp] theorem State.setBytes_scan (s : State) (a : Nat) (bs : List Byte) : (s.setBytes a bs).scan = s.scan := rfl
@[simp] theorem State.setBytes_seq (s : State) (a : Nat) (bs : List Byte) : (s.setBytes a bs).seq = s.seq := rfl
@[simp] theorem State.setBytes_cal (s : State) (a : Nat) (bs : List Byte) : (s.setBytes a bs).cal = s.cal := rfl
@[simp] theorem State.setBytes_strobes (s : State) (a : Nat) (bs : List Byte) : (s.setBytes a bs).strobes = s.strobes := rfl
@[simp] theorem State.setBytes_dins (s : State) (a : Nat) (bs : List Byte) : (s.setBytes a bs).dins = s.dins := rfl
@[simp] theorem State.setBytes_ahead (s : State) (a : Nat) (bs : List Byte) : (s.setBytes a bs).ahead = s.ahead := rfl
@[simp] theorem State.setBytes_phyLines (s : State) (a : Nat) (bs : List Byte) : (s.setBytes a bs).phyLines = s.phyLines := rfl
@[simp] theorem State.setBytes_age (s : State) (a : Nat) (bs : List Byte) : (s.setBytes a bs).age = s.age := rfl
@[simp] theorem State.setBytes_reverseAt (s : State) (a : Nat) (bs : List Byte) : (s.setBytes a bs).reverseAt = s.reverseAt := rfl
@[simp] theorem State.setBytes_dies (s : State) (a : Nat) (bs : List Byte) : (s.setBytes a bs).dies = s.dies := rfl
@[simp] theorem State.setBytes_msh (s : State) (a : Nat) (bs : List Byte) : (s.setBytes a bs).msh = s.msh := rfl
@[simp] theorem State.setBytes_tmrs (s : State) (a : Nat) (bs : List Byte) : (s.setBytes a bs).tmrs = s.tmrs := rfl
@[simp] theorem State.setBytes_tchs (s : State) (a : Nat) (bs : List Byte) : (s.setBytes a bs).tchs = s.tchs := rfl
@[simp] theorem State.setBytes_stg (s : State) (a : Nat) (bs : List Byte) : (s.setBytes a bs).stg = s.stg := rfl
@[simp] theorem State.setBytes_sw (s : State) (a : Nat) (bs : List Byte) : (s.setBytes a bs).sw = s.sw := rfl
@[simp] theorem State.setBytes_pwr (s : State) (a : Nat) (bs : List Byte) : (s.setBytes a bs).pwr = s.pwr := rfl
@[simp] theorem State.setBytes_nms (s : State) (a : Nat) (bs : List Byte) : (s.setBytes a bs).nms = s.nms := rfl
@[simp] theorem State.setBytes_ring (s : State) (a : Nat) (bs : List Byte) : (s.setBytes a bs).ring = s.ring := rfl
@[simp] theorem State.setBytes_cans (s : State) (a : Nat) (bs : List Byte) : (s.setBytes a bs).cans = s.cans := rfl
@[simp] theorem State.setBytes_vault (s : State) (a : Nat) (bs : List Byte) : (s.setBytes a bs).vault = s.vault := rfl
@[simp] theorem State.setBytes_acc (s : State) (a : Nat) (bs : List Byte) : (s.setBytes a bs).acc = s.acc := rfl
@[simp] theorem State.setBytes_book (s : State) (a : Nat) (bs : List Byte) : (s.setBytes a bs).book = s.book := rfl
@[simp] theorem State.setBytes_ageing (s : State) (a : Nat) (bs : List Byte) : (s.setBytes a bs).ageing = s.ageing := rfl
@[simp] theorem State.setBytes_pac (s : State) (a : Nat) (bs : List Byte) : (s.setBytes a bs).pac = s.pac := rfl
@[simp] theorem State.setBytes_tap (s : State) (a : Nat) (bs : List Byte) : (s.setBytes a bs).tap = s.tap := rfl
@[simp] theorem State.setBytes_clk (s : State) (a : Nat) (bs : List Byte) : (s.setBytes a bs).clk = s.clk := rfl
@[simp] theorem State.setBytes_sup (s : State) (a : Nat) (bs : List Byte) : (s.setBytes a bs).sup = s.sup := rfl
@[simp] theorem State.setBytes_boot (s : State) (a : Nat) (bs : List Byte) : (s.setBytes a bs).boot = s.boot := rfl

@[simp] theorem State.setLe_pending (s : State) (a n v : Nat) : (s.setLe a n v).pending = s.pending := rfl
@[simp] theorem State.setLe_now (s : State) (a n v : Nat) : (s.setLe a n v).now = s.now := rfl
@[simp] theorem State.setLe_splitZero (s : State) (a n v : Nat) : (s.setLe a n v).splitZero = s.splitZero := rfl
@[simp] theorem State.setLe_fresh (s : State) (a n v : Nat) : (s.setLe a n v).fresh = s.fresh := rfl
@[simp] theorem State.setLe_regs (s : State) (a n v : Nat) : (s.setLe a n v).regs = s.regs := rfl
@[simp] theorem State.setLe_img (s : State) (a n v : Nat) : (s.setLe a n v).img = s.img := rfl
@[simp] theorem State.setLe_shadow (s : State) (a n v : Nat) : (s.setLe a n v).shadow = s.shadow := rfl
@[simp] theorem State.setLe_cfgAct (s : State) (a n v : Nat) : (s.setLe a n v).cfgAct = s.cfgAct := rfl
@[simp] theorem State.setLe_timers (s : State) (a n v : Nat) : (s.setLe a n v).timers = s.timers := rfl
@[simp] theorem State.setLe_episodes (s : State) (a n v : Nat) : (s.setLe a n v).episodes = s.episodes := rfl
@[simp] theorem State.setLe_lockFirst (s : State) (a n v : Nat) : (s.setLe a n v).lockFirst = s.lockFirst := rfl
@[simp] theorem State.setLe_resetWait (s : State) (a n v : Nat) : (s.setLe a n v).resetWait = s.resetWait := rfl
@[simp] theorem State.setLe_enableWait (s : State) (a n v : Nat) : (s.setLe a n v).enableWait = s.enableWait := rfl
@[simp] theorem State.setLe_stride (s : State) (a n v : Nat) : (s.setLe a n v).stride = s.stride := rfl
@[simp] theorem State.setLe_queues (s : State) (a n v : Nat) : (s.setLe a n v).queues = s.queues := rfl
@[simp] theorem State.setLe_latches (s : State) (a n v : Nat) : (s.setLe a n v).latches = s.latches := rfl
@[simp] theorem State.setLe_fcr (s : State) (a n v : Nat) : (s.setLe a n v).fcr = s.fcr := rfl
@[simp] theorem State.setLe_outs (s : State) (a n v : Nat) : (s.setLe a n v).outs = s.outs := rfl
@[simp] theorem State.setLe_valves (s : State) (a n v : Nat) : (s.setLe a n v).valves = s.valves := rfl
@[simp] theorem State.setLe_bridges (s : State) (a n v : Nat) : (s.setLe a n v).bridges = s.bridges := rfl
@[simp] theorem State.setLe_scan (s : State) (a n v : Nat) : (s.setLe a n v).scan = s.scan := rfl
@[simp] theorem State.setLe_seq (s : State) (a n v : Nat) : (s.setLe a n v).seq = s.seq := rfl
@[simp] theorem State.setLe_cal (s : State) (a n v : Nat) : (s.setLe a n v).cal = s.cal := rfl
@[simp] theorem State.setLe_strobes (s : State) (a n v : Nat) : (s.setLe a n v).strobes = s.strobes := rfl
@[simp] theorem State.setLe_dins (s : State) (a n v : Nat) : (s.setLe a n v).dins = s.dins := rfl
@[simp] theorem State.setLe_ahead (s : State) (a n v : Nat) : (s.setLe a n v).ahead = s.ahead := rfl
@[simp] theorem State.setLe_phyLines (s : State) (a n v : Nat) : (s.setLe a n v).phyLines = s.phyLines := rfl
@[simp] theorem State.setLe_age (s : State) (a n v : Nat) : (s.setLe a n v).age = s.age := rfl
@[simp] theorem State.setLe_reverseAt (s : State) (a n v : Nat) : (s.setLe a n v).reverseAt = s.reverseAt := rfl
@[simp] theorem State.setLe_dies (s : State) (a n v : Nat) : (s.setLe a n v).dies = s.dies := rfl
@[simp] theorem State.setLe_msh (s : State) (a n v : Nat) : (s.setLe a n v).msh = s.msh := rfl
@[simp] theorem State.setLe_tmrs (s : State) (a n v : Nat) : (s.setLe a n v).tmrs = s.tmrs := rfl
@[simp] theorem State.setLe_tchs (s : State) (a n v : Nat) : (s.setLe a n v).tchs = s.tchs := rfl
@[simp] theorem State.setLe_stg (s : State) (a n v : Nat) : (s.setLe a n v).stg = s.stg := rfl
@[simp] theorem State.setLe_sw (s : State) (a n v : Nat) : (s.setLe a n v).sw = s.sw := rfl
@[simp] theorem State.setLe_pwr (s : State) (a n v : Nat) : (s.setLe a n v).pwr = s.pwr := rfl
@[simp] theorem State.setLe_nms (s : State) (a n v : Nat) : (s.setLe a n v).nms = s.nms := rfl
@[simp] theorem State.setLe_ring (s : State) (a n v : Nat) : (s.setLe a n v).ring = s.ring := rfl
@[simp] theorem State.setLe_cans (s : State) (a n v : Nat) : (s.setLe a n v).cans = s.cans := rfl
@[simp] theorem State.setLe_vault (s : State) (a n v : Nat) : (s.setLe a n v).vault = s.vault := rfl
@[simp] theorem State.setLe_acc (s : State) (a n v : Nat) : (s.setLe a n v).acc = s.acc := rfl
@[simp] theorem State.setLe_book (s : State) (a n v : Nat) : (s.setLe a n v).book = s.book := rfl
@[simp] theorem State.setLe_ageing (s : State) (a n v : Nat) : (s.setLe a n v).ageing = s.ageing := rfl
@[simp] theorem State.setLe_pac (s : State) (a n v : Nat) : (s.setLe a n v).pac = s.pac := rfl
@[simp] theorem State.setLe_tap (s : State) (a n v : Nat) : (s.setLe a n v).tap = s.tap := rfl
@[simp] theorem State.setLe_clk (s : State) (a n v : Nat) : (s.setLe a n v).clk = s.clk := rfl
@[simp] theorem State.setLe_sup (s : State) (a n v : Nat) : (s.setLe a n v).sup = s.sup := rfl
@[simp] theorem State.setLe_boot (s : State) (a n v : Nat) : (s.setLe a n v).boot = s.boot := rfl

@[simp] theorem State.zero_pending (s : State) (a b : Nat) : (s.zero a b).pending = s.pending := rfl
@[simp] theorem State.zero_now (s : State) (a b : Nat) : (s.zero a b).now = s.now := rfl
@[simp] theorem State.zero_splitZero (s : State) (a b : Nat) : (s.zero a b).splitZero = s.splitZero := rfl
@[simp] theorem State.zero_fresh (s : State) (a b : Nat) : (s.zero a b).fresh = s.fresh := rfl
@[simp] theorem State.zero_regs (s : State) (a b : Nat) : (s.zero a b).regs = s.regs := rfl
@[simp] theorem State.zero_img (s : State) (a b : Nat) : (s.zero a b).img = s.img := rfl
@[simp] theorem State.zero_shadow (s : State) (a b : Nat) : (s.zero a b).shadow = s.shadow := rfl
@[simp] theorem State.zero_cfgAct (s : State) (a b : Nat) : (s.zero a b).cfgAct = s.cfgAct := rfl
@[simp] theorem State.zero_timers (s : State) (a b : Nat) : (s.zero a b).timers = s.timers := rfl
@[simp] theorem State.zero_episodes (s : State) (a b : Nat) : (s.zero a b).episodes = s.episodes := rfl
@[simp] theorem State.zero_lockFirst (s : State) (a b : Nat) : (s.zero a b).lockFirst = s.lockFirst := rfl
@[simp] theorem State.zero_resetWait (s : State) (a b : Nat) : (s.zero a b).resetWait = s.resetWait := rfl
@[simp] theorem State.zero_enableWait (s : State) (a b : Nat) : (s.zero a b).enableWait = s.enableWait := rfl
@[simp] theorem State.zero_stride (s : State) (a b : Nat) : (s.zero a b).stride = s.stride := rfl
@[simp] theorem State.zero_queues (s : State) (a b : Nat) : (s.zero a b).queues = s.queues := rfl
@[simp] theorem State.zero_latches (s : State) (a b : Nat) : (s.zero a b).latches = s.latches := rfl
@[simp] theorem State.zero_fcr (s : State) (a b : Nat) : (s.zero a b).fcr = s.fcr := rfl
@[simp] theorem State.zero_outs (s : State) (a b : Nat) : (s.zero a b).outs = s.outs := rfl
@[simp] theorem State.zero_valves (s : State) (a b : Nat) : (s.zero a b).valves = s.valves := rfl
@[simp] theorem State.zero_bridges (s : State) (a b : Nat) : (s.zero a b).bridges = s.bridges := rfl
@[simp] theorem State.zero_scan (s : State) (a b : Nat) : (s.zero a b).scan = s.scan := rfl
@[simp] theorem State.zero_seq (s : State) (a b : Nat) : (s.zero a b).seq = s.seq := rfl
@[simp] theorem State.zero_cal (s : State) (a b : Nat) : (s.zero a b).cal = s.cal := rfl
@[simp] theorem State.zero_strobes (s : State) (a b : Nat) : (s.zero a b).strobes = s.strobes := rfl
@[simp] theorem State.zero_dins (s : State) (a b : Nat) : (s.zero a b).dins = s.dins := rfl
@[simp] theorem State.zero_ahead (s : State) (a b : Nat) : (s.zero a b).ahead = s.ahead := rfl
@[simp] theorem State.zero_phyLines (s : State) (a b : Nat) : (s.zero a b).phyLines = s.phyLines := rfl
@[simp] theorem State.zero_age (s : State) (a b : Nat) : (s.zero a b).age = s.age := rfl
@[simp] theorem State.zero_reverseAt (s : State) (a b : Nat) : (s.zero a b).reverseAt = s.reverseAt := rfl
@[simp] theorem State.zero_dies (s : State) (a b : Nat) : (s.zero a b).dies = s.dies := rfl
@[simp] theorem State.zero_msh (s : State) (a b : Nat) : (s.zero a b).msh = s.msh := rfl
@[simp] theorem State.zero_tmrs (s : State) (a b : Nat) : (s.zero a b).tmrs = s.tmrs := rfl
@[simp] theorem State.zero_tchs (s : State) (a b : Nat) : (s.zero a b).tchs = s.tchs := rfl
@[simp] theorem State.zero_stg (s : State) (a b : Nat) : (s.zero a b).stg = s.stg := rfl
@[simp] theorem State.zero_sw (s : State) (a b : Nat) : (s.zero a b).sw = s.sw := rfl
@[simp] theorem State.zero_pwr (s : State) (a b : Nat) : (s.zero a b).pwr = s.pwr := rfl
@[simp] theorem State.zero_nms (s : State) (a b : Nat) : (s.zero a b).nms = s.nms := rfl
@[simp] theorem State.zero_ring (s : State) (a b : Nat) : (s.zero a b).ring = s.ring := rfl
@[simp] theorem State.zero_cans (s : State) (a b : Nat) : (s.zero a b).cans = s.cans := rfl
@[simp] theorem State.zero_vault (s : State) (a b : Nat) : (s.zero a b).vault = s.vault := rfl
@[simp] theorem State.zero_acc (s : State) (a b : Nat) : (s.zero a b).acc = s.acc := rfl
@[simp] theorem State.zero_book (s : State) (a b : Nat) : (s.zero a b).book = s.book := rfl
@[simp] theorem State.zero_ageing (s : State) (a b : Nat) : (s.zero a b).ageing = s.ageing := rfl
@[simp] theorem State.zero_pac (s : State) (a b : Nat) : (s.zero a b).pac = s.pac := rfl
@[simp] theorem State.zero_tap (s : State) (a b : Nat) : (s.zero a b).tap = s.tap := rfl
@[simp] theorem State.zero_clk (s : State) (a b : Nat) : (s.zero a b).clk = s.clk := rfl
@[simp] theorem State.zero_sup (s : State) (a b : Nat) : (s.zero a b).sup = s.sup := rfl
@[simp] theorem State.zero_boot (s : State) (a b : Nat) : (s.zero a b).boot = s.boot := rfl

@[simp] theorem State.detect_pending (s : State) (i u : Nat) : (s.detect i u).pending = s.pending := rfl
@[simp] theorem State.detect_now (s : State) (i u : Nat) : (s.detect i u).now = s.now := rfl
@[simp] theorem State.detect_splitZero (s : State) (i u : Nat) : (s.detect i u).splitZero = s.splitZero := rfl
@[simp] theorem State.detect_fresh (s : State) (i u : Nat) : (s.detect i u).fresh = s.fresh := rfl
@[simp] theorem State.detect_regs (s : State) (i u : Nat) : (s.detect i u).regs = s.regs := rfl
@[simp] theorem State.detect_img (s : State) (i u : Nat) : (s.detect i u).img = s.img := rfl
@[simp] theorem State.detect_shadow (s : State) (i u : Nat) : (s.detect i u).shadow = s.shadow := rfl
@[simp] theorem State.detect_cfgAct (s : State) (i u : Nat) : (s.detect i u).cfgAct = s.cfgAct := rfl
@[simp] theorem State.detect_mem (s : State) (i u : Nat) : (s.detect i u).mem = s.mem := rfl
@[simp] theorem State.detect_timers (s : State) (i u : Nat) : (s.detect i u).timers = s.timers := rfl
@[simp] theorem State.detect_episodes (s : State) (i u : Nat) : (s.detect i u).episodes = s.episodes := rfl
@[simp] theorem State.detect_lockFirst (s : State) (i u : Nat) : (s.detect i u).lockFirst = s.lockFirst := rfl
@[simp] theorem State.detect_resetWait (s : State) (i u : Nat) : (s.detect i u).resetWait = s.resetWait := rfl
@[simp] theorem State.detect_enableWait (s : State) (i u : Nat) : (s.detect i u).enableWait = s.enableWait := rfl
@[simp] theorem State.detect_stride (s : State) (i u : Nat) : (s.detect i u).stride = s.stride := rfl
@[simp] theorem State.detect_queues (s : State) (i u : Nat) : (s.detect i u).queues = s.queues := rfl
@[simp] theorem State.detect_latches (s : State) (i u : Nat) : (s.detect i u).latches = s.latches := rfl
@[simp] theorem State.detect_outs (s : State) (i u : Nat) : (s.detect i u).outs = s.outs := rfl
@[simp] theorem State.detect_valves (s : State) (i u : Nat) : (s.detect i u).valves = s.valves := rfl
@[simp] theorem State.detect_bridges (s : State) (i u : Nat) : (s.detect i u).bridges = s.bridges := rfl
@[simp] theorem State.detect_scan (s : State) (i u : Nat) : (s.detect i u).scan = s.scan := rfl
@[simp] theorem State.detect_seq (s : State) (i u : Nat) : (s.detect i u).seq = s.seq := rfl
@[simp] theorem State.detect_cal (s : State) (i u : Nat) : (s.detect i u).cal = s.cal := rfl
@[simp] theorem State.detect_strobes (s : State) (i u : Nat) : (s.detect i u).strobes = s.strobes := rfl
@[simp] theorem State.detect_dins (s : State) (i u : Nat) : (s.detect i u).dins = s.dins := rfl
@[simp] theorem State.detect_ahead (s : State) (i u : Nat) : (s.detect i u).ahead = s.ahead := rfl
@[simp] theorem State.detect_phyLines (s : State) (i u : Nat) : (s.detect i u).phyLines = s.phyLines := rfl
@[simp] theorem State.detect_age (s : State) (i u : Nat) : (s.detect i u).age = s.age := rfl
@[simp] theorem State.detect_reverseAt (s : State) (i u : Nat) : (s.detect i u).reverseAt = s.reverseAt := rfl
@[simp] theorem State.detect_dies (s : State) (i u : Nat) : (s.detect i u).dies = s.dies := rfl
@[simp] theorem State.detect_msh (s : State) (i u : Nat) : (s.detect i u).msh = s.msh := rfl
@[simp] theorem State.detect_tmrs (s : State) (i u : Nat) : (s.detect i u).tmrs = s.tmrs := rfl
@[simp] theorem State.detect_tchs (s : State) (i u : Nat) : (s.detect i u).tchs = s.tchs := rfl
@[simp] theorem State.detect_stg (s : State) (i u : Nat) : (s.detect i u).stg = s.stg := rfl
@[simp] theorem State.detect_sw (s : State) (i u : Nat) : (s.detect i u).sw = s.sw := rfl
@[simp] theorem State.detect_pwr (s : State) (i u : Nat) : (s.detect i u).pwr = s.pwr := rfl
@[simp] theorem State.detect_nms (s : State) (i u : Nat) : (s.detect i u).nms = s.nms := rfl
@[simp] theorem State.detect_ring (s : State) (i u : Nat) : (s.detect i u).ring = s.ring := rfl
@[simp] theorem State.detect_cans (s : State) (i u : Nat) : (s.detect i u).cans = s.cans := rfl
@[simp] theorem State.detect_vault (s : State) (i u : Nat) : (s.detect i u).vault = s.vault := rfl
@[simp] theorem State.detect_acc (s : State) (i u : Nat) : (s.detect i u).acc = s.acc := rfl
@[simp] theorem State.detect_book (s : State) (i u : Nat) : (s.detect i u).book = s.book := rfl
@[simp] theorem State.detect_ageing (s : State) (i u : Nat) : (s.detect i u).ageing = s.ageing := rfl
@[simp] theorem State.detect_pac (s : State) (i u : Nat) : (s.detect i u).pac = s.pac := rfl
@[simp] theorem State.detect_tap (s : State) (i u : Nat) : (s.detect i u).tap = s.tap := rfl
@[simp] theorem State.detect_clk (s : State) (i u : Nat) : (s.detect i u).clk = s.clk := rfl
@[simp] theorem State.detect_sup (s : State) (i u : Nat) : (s.detect i u).sup = s.sup := rfl
@[simp] theorem State.detect_boot (s : State) (i u : Nat) : (s.detect i u).boot = s.boot := rfl

end Sys2Proof.Machine
end

