-- ==== Sys2Proof/Laws/Reads.lean ====
section
/-! SUPPORT. What the reads of the state find after each update: unchanged where the update writes another part, and what was
written where it writes theirs. -/
namespace Sys2Proof.Machine

/-! Parts that an update of one part leaves. -/

@[simp] theorem State.setAcc_pending (s : State) (f : AccSt → AccSt) : (s.setAcc f).pending = s.pending := rfl
@[simp] theorem State.setAcc_now (s : State) (f : AccSt → AccSt) : (s.setAcc f).now = s.now := rfl
@[simp] theorem State.setAcc_splitZero (s : State) (f : AccSt → AccSt) : (s.setAcc f).splitZero = s.splitZero := rfl
@[simp] theorem State.setAcc_fresh (s : State) (f : AccSt → AccSt) : (s.setAcc f).fresh = s.fresh := rfl
@[simp] theorem State.setAcc_regs (s : State) (f : AccSt → AccSt) : (s.setAcc f).regs = s.regs := rfl
@[simp] theorem State.setAcc_img (s : State) (f : AccSt → AccSt) : (s.setAcc f).img = s.img := rfl
@[simp] theorem State.setAcc_shadow (s : State) (f : AccSt → AccSt) : (s.setAcc f).shadow = s.shadow := rfl
@[simp] theorem State.setAcc_cfgAct (s : State) (f : AccSt → AccSt) : (s.setAcc f).cfgAct = s.cfgAct := rfl
@[simp] theorem State.setAcc_mem (s : State) (f : AccSt → AccSt) : (s.setAcc f).mem = s.mem := rfl
@[simp] theorem State.setAcc_timers (s : State) (f : AccSt → AccSt) : (s.setAcc f).timers = s.timers := rfl
@[simp] theorem State.setAcc_episodes (s : State) (f : AccSt → AccSt) : (s.setAcc f).episodes = s.episodes := rfl
@[simp] theorem State.setAcc_lockFirst (s : State) (f : AccSt → AccSt) : (s.setAcc f).lockFirst = s.lockFirst := rfl
@[simp] theorem State.setAcc_resetWait (s : State) (f : AccSt → AccSt) : (s.setAcc f).resetWait = s.resetWait := rfl
@[simp] theorem State.setAcc_enableWait (s : State) (f : AccSt → AccSt) : (s.setAcc f).enableWait = s.enableWait := rfl
@[simp] theorem State.setAcc_stride (s : State) (f : AccSt → AccSt) : (s.setAcc f).stride = s.stride := rfl
@[simp] theorem State.setAcc_queues (s : State) (f : AccSt → AccSt) : (s.setAcc f).queues = s.queues := rfl
@[simp] theorem State.setAcc_latches (s : State) (f : AccSt → AccSt) : (s.setAcc f).latches = s.latches := rfl
@[simp] theorem State.setAcc_fcr (s : State) (f : AccSt → AccSt) : (s.setAcc f).fcr = s.fcr := rfl
@[simp] theorem State.setAcc_outs (s : State) (f : AccSt → AccSt) : (s.setAcc f).outs = s.outs := rfl
@[simp] theorem State.setAcc_valves (s : State) (f : AccSt → AccSt) : (s.setAcc f).valves = s.valves := rfl
@[simp] theorem State.setAcc_bridges (s : State) (f : AccSt → AccSt) : (s.setAcc f).bridges = s.bridges := rfl
@[simp] theorem State.setAcc_scan (s : State) (f : AccSt → AccSt) : (s.setAcc f).scan = s.scan := rfl
@[simp] theorem State.setAcc_seq (s : State) (f : AccSt → AccSt) : (s.setAcc f).seq = s.seq := rfl
@[simp] theorem State.setAcc_cal (s : State) (f : AccSt → AccSt) : (s.setAcc f).cal = s.cal := rfl
@[simp] theorem State.setAcc_strobes (s : State) (f : AccSt → AccSt) : (s.setAcc f).strobes = s.strobes := rfl
@[simp] theorem State.setAcc_dins (s : State) (f : AccSt → AccSt) : (s.setAcc f).dins = s.dins := rfl
@[simp] theorem State.setAcc_ahead (s : State) (f : AccSt → AccSt) : (s.setAcc f).ahead = s.ahead := rfl
@[simp] theorem State.setAcc_phyLines (s : State) (f : AccSt → AccSt) : (s.setAcc f).phyLines = s.phyLines := rfl
@[simp] theorem State.setAcc_age (s : State) (f : AccSt → AccSt) : (s.setAcc f).age = s.age := rfl
@[simp] theorem State.setAcc_reverseAt (s : State) (f : AccSt → AccSt) : (s.setAcc f).reverseAt = s.reverseAt := rfl
@[simp] theorem State.setAcc_dies (s : State) (f : AccSt → AccSt) : (s.setAcc f).dies = s.dies := rfl
@[simp] theorem State.setAcc_msh (s : State) (f : AccSt → AccSt) : (s.setAcc f).msh = s.msh := rfl
@[simp] theorem State.setAcc_tmrs (s : State) (f : AccSt → AccSt) : (s.setAcc f).tmrs = s.tmrs := rfl
@[simp] theorem State.setAcc_tchs (s : State) (f : AccSt → AccSt) : (s.setAcc f).tchs = s.tchs := rfl
@[simp] theorem State.setAcc_stg (s : State) (f : AccSt → AccSt) : (s.setAcc f).stg = s.stg := rfl
@[simp] theorem State.setAcc_sw (s : State) (f : AccSt → AccSt) : (s.setAcc f).sw = s.sw := rfl
@[simp] theorem State.setAcc_pwr (s : State) (f : AccSt → AccSt) : (s.setAcc f).pwr = s.pwr := rfl
@[simp] theorem State.setAcc_nms (s : State) (f : AccSt → AccSt) : (s.setAcc f).nms = s.nms := rfl
@[simp] theorem State.setAcc_ring (s : State) (f : AccSt → AccSt) : (s.setAcc f).ring = s.ring := rfl
@[simp] theorem State.setAcc_cans (s : State) (f : AccSt → AccSt) : (s.setAcc f).cans = s.cans := rfl
@[simp] theorem State.setAcc_vault (s : State) (f : AccSt → AccSt) : (s.setAcc f).vault = s.vault := rfl
@[simp] theorem State.setAcc_book (s : State) (f : AccSt → AccSt) : (s.setAcc f).book = s.book := rfl
@[simp] theorem State.setAcc_ageing (s : State) (f : AccSt → AccSt) : (s.setAcc f).ageing = s.ageing := rfl
@[simp] theorem State.setAcc_pac (s : State) (f : AccSt → AccSt) : (s.setAcc f).pac = s.pac := rfl
@[simp] theorem State.setAcc_tap (s : State) (f : AccSt → AccSt) : (s.setAcc f).tap = s.tap := rfl
@[simp] theorem State.setAcc_clk (s : State) (f : AccSt → AccSt) : (s.setAcc f).clk = s.clk := rfl
@[simp] theorem State.setAcc_sup (s : State) (f : AccSt → AccSt) : (s.setAcc f).sup = s.sup := rfl
@[simp] theorem State.setAcc_boot (s : State) (f : AccSt → AccSt) : (s.setAcc f).boot = s.boot := rfl

@[simp] theorem State.setVault_pending (s : State) (f : VltSt → VltSt) : (s.setVault f).pending = s.pending := rfl
@[simp] theorem State.setVault_now (s : State) (f : VltSt → VltSt) : (s.setVault f).now = s.now := rfl
@[simp] theorem State.setVault_splitZero (s : State) (f : VltSt → VltSt) : (s.setVault f).splitZero = s.splitZero := rfl
@[simp] theorem State.setVault_fresh (s : State) (f : VltSt → VltSt) : (s.setVault f).fresh = s.fresh := rfl
@[simp] theorem State.setVault_regs (s : State) (f : VltSt → VltSt) : (s.setVault f).regs = s.regs := rfl
@[simp] theorem State.setVault_img (s : State) (f : VltSt → VltSt) : (s.setVault f).img = s.img := rfl
@[simp] theorem State.setVault_shadow (s : State) (f : VltSt → VltSt) : (s.setVault f).shadow = s.shadow := rfl
@[simp] theorem State.setVault_cfgAct (s : State) (f : VltSt → VltSt) : (s.setVault f).cfgAct = s.cfgAct := rfl
@[simp] theorem State.setVault_mem (s : State) (f : VltSt → VltSt) : (s.setVault f).mem = s.mem := rfl
@[simp] theorem State.setVault_timers (s : State) (f : VltSt → VltSt) : (s.setVault f).timers = s.timers := rfl
@[simp] theorem State.setVault_episodes (s : State) (f : VltSt → VltSt) : (s.setVault f).episodes = s.episodes := rfl
@[simp] theorem State.setVault_lockFirst (s : State) (f : VltSt → VltSt) : (s.setVault f).lockFirst = s.lockFirst := rfl
@[simp] theorem State.setVault_resetWait (s : State) (f : VltSt → VltSt) : (s.setVault f).resetWait = s.resetWait := rfl
@[simp] theorem State.setVault_enableWait (s : State) (f : VltSt → VltSt) : (s.setVault f).enableWait = s.enableWait := rfl
@[simp] theorem State.setVault_stride (s : State) (f : VltSt → VltSt) : (s.setVault f).stride = s.stride := rfl
@[simp] theorem State.setVault_queues (s : State) (f : VltSt → VltSt) : (s.setVault f).queues = s.queues := rfl
@[simp] theorem State.setVault_latches (s : State) (f : VltSt → VltSt) : (s.setVault f).latches = s.latches := rfl
@[simp] theorem State.setVault_fcr (s : State) (f : VltSt → VltSt) : (s.setVault f).fcr = s.fcr := rfl
@[simp] theorem State.setVault_outs (s : State) (f : VltSt → VltSt) : (s.setVault f).outs = s.outs := rfl
@[simp] theorem State.setVault_valves (s : State) (f : VltSt → VltSt) : (s.setVault f).valves = s.valves := rfl
@[simp] theorem State.setVault_bridges (s : State) (f : VltSt → VltSt) : (s.setVault f).bridges = s.bridges := rfl
@[simp] theorem State.setVault_scan (s : State) (f : VltSt → VltSt) : (s.setVault f).scan = s.scan := rfl
@[simp] theorem State.setVault_seq (s : State) (f : VltSt → VltSt) : (s.setVault f).seq = s.seq := rfl
@[simp] theorem State.setVault_cal (s : State) (f : VltSt → VltSt) : (s.setVault f).cal = s.cal := rfl
@[simp] theorem State.setVault_strobes (s : State) (f : VltSt → VltSt) : (s.setVault f).strobes = s.strobes := rfl
@[simp] theorem State.setVault_dins (s : State) (f : VltSt → VltSt) : (s.setVault f).dins = s.dins := rfl
@[simp] theorem State.setVault_ahead (s : State) (f : VltSt → VltSt) : (s.setVault f).ahead = s.ahead := rfl
@[simp] theorem State.setVault_phyLines (s : State) (f : VltSt → VltSt) : (s.setVault f).phyLines = s.phyLines := rfl
@[simp] theorem State.setVault_age (s : State) (f : VltSt → VltSt) : (s.setVault f).age = s.age := rfl
@[simp] theorem State.setVault_reverseAt (s : State) (f : VltSt → VltSt) : (s.setVault f).reverseAt = s.reverseAt := rfl
@[simp] theorem State.setVault_dies (s : State) (f : VltSt → VltSt) : (s.setVault f).dies = s.dies := rfl
@[simp] theorem State.setVault_msh (s : State) (f : VltSt → VltSt) : (s.setVault f).msh = s.msh := rfl
@[simp] theorem State.setVault_tmrs (s : State) (f : VltSt → VltSt) : (s.setVault f).tmrs = s.tmrs := rfl
@[simp] theorem State.setVault_tchs (s : State) (f : VltSt → VltSt) : (s.setVault f).tchs = s.tchs := rfl
@[simp] theorem State.setVault_stg (s : State) (f : VltSt → VltSt) : (s.setVault f).stg = s.stg := rfl
@[simp] theorem State.setVault_sw (s : State) (f : VltSt → VltSt) : (s.setVault f).sw = s.sw := rfl
@[simp] theorem State.setVault_pwr (s : State) (f : VltSt → VltSt) : (s.setVault f).pwr = s.pwr := rfl
@[simp] theorem State.setVault_nms (s : State) (f : VltSt → VltSt) : (s.setVault f).nms = s.nms := rfl
@[simp] theorem State.setVault_ring (s : State) (f : VltSt → VltSt) : (s.setVault f).ring = s.ring := rfl
@[simp] theorem State.setVault_cans (s : State) (f : VltSt → VltSt) : (s.setVault f).cans = s.cans := rfl
@[simp] theorem State.setVault_acc (s : State) (f : VltSt → VltSt) : (s.setVault f).acc = s.acc := rfl
@[simp] theorem State.setVault_book (s : State) (f : VltSt → VltSt) : (s.setVault f).book = s.book := rfl
@[simp] theorem State.setVault_ageing (s : State) (f : VltSt → VltSt) : (s.setVault f).ageing = s.ageing := rfl
@[simp] theorem State.setVault_pac (s : State) (f : VltSt → VltSt) : (s.setVault f).pac = s.pac := rfl
@[simp] theorem State.setVault_tap (s : State) (f : VltSt → VltSt) : (s.setVault f).tap = s.tap := rfl
@[simp] theorem State.setVault_clk (s : State) (f : VltSt → VltSt) : (s.setVault f).clk = s.clk := rfl
@[simp] theorem State.setVault_sup (s : State) (f : VltSt → VltSt) : (s.setVault f).sup = s.sup := rfl
@[simp] theorem State.setVault_boot (s : State) (f : VltSt → VltSt) : (s.setVault f).boot = s.boot := rfl

@[simp] theorem State.setAgeing_pending (s : State) (f : AgeSt → AgeSt) : (s.setAgeing f).pending = s.pending := rfl
@[simp] theorem State.setAgeing_now (s : State) (f : AgeSt → AgeSt) : (s.setAgeing f).now = s.now := rfl
@[simp] theorem State.setAgeing_splitZero (s : State) (f : AgeSt → AgeSt) : (s.setAgeing f).splitZero = s.splitZero := rfl
@[simp] theorem State.setAgeing_fresh (s : State) (f : AgeSt → AgeSt) : (s.setAgeing f).fresh = s.fresh := rfl
@[simp] theorem State.setAgeing_regs (s : State) (f : AgeSt → AgeSt) : (s.setAgeing f).regs = s.regs := rfl
@[simp] theorem State.setAgeing_img (s : State) (f : AgeSt → AgeSt) : (s.setAgeing f).img = s.img := rfl
@[simp] theorem State.setAgeing_shadow (s : State) (f : AgeSt → AgeSt) : (s.setAgeing f).shadow = s.shadow := rfl
@[simp] theorem State.setAgeing_cfgAct (s : State) (f : AgeSt → AgeSt) : (s.setAgeing f).cfgAct = s.cfgAct := rfl
@[simp] theorem State.setAgeing_mem (s : State) (f : AgeSt → AgeSt) : (s.setAgeing f).mem = s.mem := rfl
@[simp] theorem State.setAgeing_timers (s : State) (f : AgeSt → AgeSt) : (s.setAgeing f).timers = s.timers := rfl
@[simp] theorem State.setAgeing_episodes (s : State) (f : AgeSt → AgeSt) : (s.setAgeing f).episodes = s.episodes := rfl
@[simp] theorem State.setAgeing_lockFirst (s : State) (f : AgeSt → AgeSt) : (s.setAgeing f).lockFirst = s.lockFirst := rfl
@[simp] theorem State.setAgeing_resetWait (s : State) (f : AgeSt → AgeSt) : (s.setAgeing f).resetWait = s.resetWait := rfl
@[simp] theorem State.setAgeing_enableWait (s : State) (f : AgeSt → AgeSt) : (s.setAgeing f).enableWait = s.enableWait := rfl
@[simp] theorem State.setAgeing_stride (s : State) (f : AgeSt → AgeSt) : (s.setAgeing f).stride = s.stride := rfl
@[simp] theorem State.setAgeing_queues (s : State) (f : AgeSt → AgeSt) : (s.setAgeing f).queues = s.queues := rfl
@[simp] theorem State.setAgeing_latches (s : State) (f : AgeSt → AgeSt) : (s.setAgeing f).latches = s.latches := rfl
@[simp] theorem State.setAgeing_fcr (s : State) (f : AgeSt → AgeSt) : (s.setAgeing f).fcr = s.fcr := rfl
@[simp] theorem State.setAgeing_outs (s : State) (f : AgeSt → AgeSt) : (s.setAgeing f).outs = s.outs := rfl
@[simp] theorem State.setAgeing_valves (s : State) (f : AgeSt → AgeSt) : (s.setAgeing f).valves = s.valves := rfl
@[simp] theorem State.setAgeing_bridges (s : State) (f : AgeSt → AgeSt) : (s.setAgeing f).bridges = s.bridges := rfl
@[simp] theorem State.setAgeing_scan (s : State) (f : AgeSt → AgeSt) : (s.setAgeing f).scan = s.scan := rfl
@[simp] theorem State.setAgeing_seq (s : State) (f : AgeSt → AgeSt) : (s.setAgeing f).seq = s.seq := rfl
@[simp] theorem State.setAgeing_cal (s : State) (f : AgeSt → AgeSt) : (s.setAgeing f).cal = s.cal := rfl
@[simp] theorem State.setAgeing_strobes (s : State) (f : AgeSt → AgeSt) : (s.setAgeing f).strobes = s.strobes := rfl
@[simp] theorem State.setAgeing_dins (s : State) (f : AgeSt → AgeSt) : (s.setAgeing f).dins = s.dins := rfl
@[simp] theorem State.setAgeing_ahead (s : State) (f : AgeSt → AgeSt) : (s.setAgeing f).ahead = s.ahead := rfl
@[simp] theorem State.setAgeing_phyLines (s : State) (f : AgeSt → AgeSt) : (s.setAgeing f).phyLines = s.phyLines := rfl
@[simp] theorem State.setAgeing_age (s : State) (f : AgeSt → AgeSt) : (s.setAgeing f).age = s.age := rfl
@[simp] theorem State.setAgeing_reverseAt (s : State) (f : AgeSt → AgeSt) : (s.setAgeing f).reverseAt = s.reverseAt := rfl
@[simp] theorem State.setAgeing_dies (s : State) (f : AgeSt → AgeSt) : (s.setAgeing f).dies = s.dies := rfl
@[simp] theorem State.setAgeing_msh (s : State) (f : AgeSt → AgeSt) : (s.setAgeing f).msh = s.msh := rfl
@[simp] theorem State.setAgeing_tmrs (s : State) (f : AgeSt → AgeSt) : (s.setAgeing f).tmrs = s.tmrs := rfl
@[simp] theorem State.setAgeing_tchs (s : State) (f : AgeSt → AgeSt) : (s.setAgeing f).tchs = s.tchs := rfl
@[simp] theorem State.setAgeing_stg (s : State) (f : AgeSt → AgeSt) : (s.setAgeing f).stg = s.stg := rfl
@[simp] theorem State.setAgeing_sw (s : State) (f : AgeSt → AgeSt) : (s.setAgeing f).sw = s.sw := rfl
@[simp] theorem State.setAgeing_pwr (s : State) (f : AgeSt → AgeSt) : (s.setAgeing f).pwr = s.pwr := rfl
@[simp] theorem State.setAgeing_nms (s : State) (f : AgeSt → AgeSt) : (s.setAgeing f).nms = s.nms := rfl
@[simp] theorem State.setAgeing_ring (s : State) (f : AgeSt → AgeSt) : (s.setAgeing f).ring = s.ring := rfl
@[simp] theorem State.setAgeing_cans (s : State) (f : AgeSt → AgeSt) : (s.setAgeing f).cans = s.cans := rfl
@[simp] theorem State.setAgeing_vault (s : State) (f : AgeSt → AgeSt) : (s.setAgeing f).vault = s.vault := rfl
@[simp] theorem State.setAgeing_acc (s : State) (f : AgeSt → AgeSt) : (s.setAgeing f).acc = s.acc := rfl
@[simp] theorem State.setAgeing_book (s : State) (f : AgeSt → AgeSt) : (s.setAgeing f).book = s.book := rfl
@[simp] theorem State.setAgeing_pac (s : State) (f : AgeSt → AgeSt) : (s.setAgeing f).pac = s.pac := rfl
@[simp] theorem State.setAgeing_tap (s : State) (f : AgeSt → AgeSt) : (s.setAgeing f).tap = s.tap := rfl
@[simp] theorem State.setAgeing_clk (s : State) (f : AgeSt → AgeSt) : (s.setAgeing f).clk = s.clk := rfl
@[simp] theorem State.setAgeing_sup (s : State) (f : AgeSt → AgeSt) : (s.setAgeing f).sup = s.sup := rfl
@[simp] theorem State.setAgeing_boot (s : State) (f : AgeSt → AgeSt) : (s.setAgeing f).boot = s.boot := rfl

@[simp] theorem State.setQueue_pending (s : State) (k : Nat) (q : QueueSt) : (s.setQueue k q).pending = s.pending := rfl
@[simp] theorem State.setQueue_now (s : State) (k : Nat) (q : QueueSt) : (s.setQueue k q).now = s.now := rfl
@[simp] theorem State.setQueue_splitZero (s : State) (k : Nat) (q : QueueSt) : (s.setQueue k q).splitZero = s.splitZero := rfl
@[simp] theorem State.setQueue_fresh (s : State) (k : Nat) (q : QueueSt) : (s.setQueue k q).fresh = s.fresh := rfl
@[simp] theorem State.setQueue_regs (s : State) (k : Nat) (q : QueueSt) : (s.setQueue k q).regs = s.regs := rfl
@[simp] theorem State.setQueue_img (s : State) (k : Nat) (q : QueueSt) : (s.setQueue k q).img = s.img := rfl
@[simp] theorem State.setQueue_shadow (s : State) (k : Nat) (q : QueueSt) : (s.setQueue k q).shadow = s.shadow := rfl
@[simp] theorem State.setQueue_cfgAct (s : State) (k : Nat) (q : QueueSt) : (s.setQueue k q).cfgAct = s.cfgAct := rfl
@[simp] theorem State.setQueue_mem (s : State) (k : Nat) (q : QueueSt) : (s.setQueue k q).mem = s.mem := rfl
@[simp] theorem State.setQueue_timers (s : State) (k : Nat) (q : QueueSt) : (s.setQueue k q).timers = s.timers := rfl
@[simp] theorem State.setQueue_episodes (s : State) (k : Nat) (q : QueueSt) : (s.setQueue k q).episodes = s.episodes := rfl
@[simp] theorem State.setQueue_lockFirst (s : State) (k : Nat) (q : QueueSt) : (s.setQueue k q).lockFirst = s.lockFirst := rfl
@[simp] theorem State.setQueue_resetWait (s : State) (k : Nat) (q : QueueSt) : (s.setQueue k q).resetWait = s.resetWait := rfl
@[simp] theorem State.setQueue_enableWait (s : State) (k : Nat) (q : QueueSt) : (s.setQueue k q).enableWait = s.enableWait := rfl
@[simp] theorem State.setQueue_stride (s : State) (k : Nat) (q : QueueSt) : (s.setQueue k q).stride = s.stride := rfl
@[simp] theorem State.setQueue_latches (s : State) (k : Nat) (q : QueueSt) : (s.setQueue k q).latches = s.latches := rfl
@[simp] theorem State.setQueue_fcr (s : State) (k : Nat) (q : QueueSt) : (s.setQueue k q).fcr = s.fcr := rfl
@[simp] theorem State.setQueue_outs (s : State) (k : Nat) (q : QueueSt) : (s.setQueue k q).outs = s.outs := rfl
@[simp] theorem State.setQueue_valves (s : State) (k : Nat) (q : QueueSt) : (s.setQueue k q).valves = s.valves := rfl
@[simp] theorem State.setQueue_bridges (s : State) (k : Nat) (q : QueueSt) : (s.setQueue k q).bridges = s.bridges := rfl
@[simp] theorem State.setQueue_scan (s : State) (k : Nat) (q : QueueSt) : (s.setQueue k q).scan = s.scan := rfl
@[simp] theorem State.setQueue_seq (s : State) (k : Nat) (q : QueueSt) : (s.setQueue k q).seq = s.seq := rfl
@[simp] theorem State.setQueue_cal (s : State) (k : Nat) (q : QueueSt) : (s.setQueue k q).cal = s.cal := rfl
@[simp] theorem State.setQueue_strobes (s : State) (k : Nat) (q : QueueSt) : (s.setQueue k q).strobes = s.strobes := rfl
@[simp] theorem State.setQueue_dins (s : State) (k : Nat) (q : QueueSt) : (s.setQueue k q).dins = s.dins := rfl
@[simp] theorem State.setQueue_ahead (s : State) (k : Nat) (q : QueueSt) : (s.setQueue k q).ahead = s.ahead := rfl
@[simp] theorem State.setQueue_phyLines (s : State) (k : Nat) (q : QueueSt) : (s.setQueue k q).phyLines = s.phyLines := rfl
@[simp] theorem State.setQueue_age (s : State) (k : Nat) (q : QueueSt) : (s.setQueue k q).age = s.age := rfl
@[simp] theorem State.setQueue_reverseAt (s : State) (k : Nat) (q : QueueSt) : (s.setQueue k q).reverseAt = s.reverseAt := rfl
@[simp] theorem State.setQueue_dies (s : State) (k : Nat) (q : QueueSt) : (s.setQueue k q).dies = s.dies := rfl
@[simp] theorem State.setQueue_msh (s : State) (k : Nat) (q : QueueSt) : (s.setQueue k q).msh = s.msh := rfl
@[simp] theorem State.setQueue_tmrs (s : State) (k : Nat) (q : QueueSt) : (s.setQueue k q).tmrs = s.tmrs := rfl
@[simp] theorem State.setQueue_tchs (s : State) (k : Nat) (q : QueueSt) : (s.setQueue k q).tchs = s.tchs := rfl
@[simp] theorem State.setQueue_stg (s : State) (k : Nat) (q : QueueSt) : (s.setQueue k q).stg = s.stg := rfl
@[simp] theorem State.setQueue_sw (s : State) (k : Nat) (q : QueueSt) : (s.setQueue k q).sw = s.sw := rfl
@[simp] theorem State.setQueue_pwr (s : State) (k : Nat) (q : QueueSt) : (s.setQueue k q).pwr = s.pwr := rfl
@[simp] theorem State.setQueue_nms (s : State) (k : Nat) (q : QueueSt) : (s.setQueue k q).nms = s.nms := rfl
@[simp] theorem State.setQueue_ring (s : State) (k : Nat) (q : QueueSt) : (s.setQueue k q).ring = s.ring := rfl
@[simp] theorem State.setQueue_cans (s : State) (k : Nat) (q : QueueSt) : (s.setQueue k q).cans = s.cans := rfl
@[simp] theorem State.setQueue_vault (s : State) (k : Nat) (q : QueueSt) : (s.setQueue k q).vault = s.vault := rfl
@[simp] theorem State.setQueue_acc (s : State) (k : Nat) (q : QueueSt) : (s.setQueue k q).acc = s.acc := rfl
@[simp] theorem State.setQueue_book (s : State) (k : Nat) (q : QueueSt) : (s.setQueue k q).book = s.book := rfl
@[simp] theorem State.setQueue_ageing (s : State) (k : Nat) (q : QueueSt) : (s.setQueue k q).ageing = s.ageing := rfl
@[simp] theorem State.setQueue_pac (s : State) (k : Nat) (q : QueueSt) : (s.setQueue k q).pac = s.pac := rfl
@[simp] theorem State.setQueue_tap (s : State) (k : Nat) (q : QueueSt) : (s.setQueue k q).tap = s.tap := rfl
@[simp] theorem State.setQueue_clk (s : State) (k : Nat) (q : QueueSt) : (s.setQueue k q).clk = s.clk := rfl
@[simp] theorem State.setQueue_sup (s : State) (k : Nat) (q : QueueSt) : (s.setQueue k q).sup = s.sup := rfl
@[simp] theorem State.setQueue_boot (s : State) (k : Nat) (q : QueueSt) : (s.setQueue k q).boot = s.boot := rfl

@[simp] theorem State.setLatch_pending (s : State) (w : Src) (l : PushLatch) : (s.setLatch w l).pending = s.pending := rfl
@[simp] theorem State.setLatch_now (s : State) (w : Src) (l : PushLatch) : (s.setLatch w l).now = s.now := rfl
@[simp] theorem State.setLatch_splitZero (s : State) (w : Src) (l : PushLatch) : (s.setLatch w l).splitZero = s.splitZero := rfl
@[simp] theorem State.setLatch_fresh (s : State) (w : Src) (l : PushLatch) : (s.setLatch w l).fresh = s.fresh := rfl
@[simp] theorem State.setLatch_regs (s : State) (w : Src) (l : PushLatch) : (s.setLatch w l).regs = s.regs := rfl
@[simp] theorem State.setLatch_img (s : State) (w : Src) (l : PushLatch) : (s.setLatch w l).img = s.img := rfl
@[simp] theorem State.setLatch_shadow (s : State) (w : Src) (l : PushLatch) : (s.setLatch w l).shadow = s.shadow := rfl
@[simp] theorem State.setLatch_cfgAct (s : State) (w : Src) (l : PushLatch) : (s.setLatch w l).cfgAct = s.cfgAct := rfl
@[simp] theorem State.setLatch_mem (s : State) (w : Src) (l : PushLatch) : (s.setLatch w l).mem = s.mem := rfl
@[simp] theorem State.setLatch_timers (s : State) (w : Src) (l : PushLatch) : (s.setLatch w l).timers = s.timers := rfl
@[simp] theorem State.setLatch_episodes (s : State) (w : Src) (l : PushLatch) : (s.setLatch w l).episodes = s.episodes := rfl
@[simp] theorem State.setLatch_lockFirst (s : State) (w : Src) (l : PushLatch) : (s.setLatch w l).lockFirst = s.lockFirst := rfl
@[simp] theorem State.setLatch_resetWait (s : State) (w : Src) (l : PushLatch) : (s.setLatch w l).resetWait = s.resetWait := rfl
@[simp] theorem State.setLatch_enableWait (s : State) (w : Src) (l : PushLatch) : (s.setLatch w l).enableWait = s.enableWait := rfl
@[simp] theorem State.setLatch_stride (s : State) (w : Src) (l : PushLatch) : (s.setLatch w l).stride = s.stride := rfl
@[simp] theorem State.setLatch_queues (s : State) (w : Src) (l : PushLatch) : (s.setLatch w l).queues = s.queues := rfl
@[simp] theorem State.setLatch_fcr (s : State) (w : Src) (l : PushLatch) : (s.setLatch w l).fcr = s.fcr := rfl
@[simp] theorem State.setLatch_outs (s : State) (w : Src) (l : PushLatch) : (s.setLatch w l).outs = s.outs := rfl
@[simp] theorem State.setLatch_valves (s : State) (w : Src) (l : PushLatch) : (s.setLatch w l).valves = s.valves := rfl
@[simp] theorem State.setLatch_bridges (s : State) (w : Src) (l : PushLatch) : (s.setLatch w l).bridges = s.bridges := rfl
@[simp] theorem State.setLatch_scan (s : State) (w : Src) (l : PushLatch) : (s.setLatch w l).scan = s.scan := rfl
@[simp] theorem State.setLatch_seq (s : State) (w : Src) (l : PushLatch) : (s.setLatch w l).seq = s.seq := rfl
@[simp] theorem State.setLatch_cal (s : State) (w : Src) (l : PushLatch) : (s.setLatch w l).cal = s.cal := rfl
@[simp] theorem State.setLatch_strobes (s : State) (w : Src) (l : PushLatch) : (s.setLatch w l).strobes = s.strobes := rfl
@[simp] theorem State.setLatch_dins (s : State) (w : Src) (l : PushLatch) : (s.setLatch w l).dins = s.dins := rfl
@[simp] theorem State.setLatch_ahead (s : State) (w : Src) (l : PushLatch) : (s.setLatch w l).ahead = s.ahead := rfl
@[simp] theorem State.setLatch_phyLines (s : State) (w : Src) (l : PushLatch) : (s.setLatch w l).phyLines = s.phyLines := rfl
@[simp] theorem State.setLatch_age (s : State) (w : Src) (l : PushLatch) : (s.setLatch w l).age = s.age := rfl
@[simp] theorem State.setLatch_reverseAt (s : State) (w : Src) (l : PushLatch) : (s.setLatch w l).reverseAt = s.reverseAt := rfl
@[simp] theorem State.setLatch_dies (s : State) (w : Src) (l : PushLatch) : (s.setLatch w l).dies = s.dies := rfl
@[simp] theorem State.setLatch_msh (s : State) (w : Src) (l : PushLatch) : (s.setLatch w l).msh = s.msh := rfl
@[simp] theorem State.setLatch_tmrs (s : State) (w : Src) (l : PushLatch) : (s.setLatch w l).tmrs = s.tmrs := rfl
@[simp] theorem State.setLatch_tchs (s : State) (w : Src) (l : PushLatch) : (s.setLatch w l).tchs = s.tchs := rfl
@[simp] theorem State.setLatch_stg (s : State) (w : Src) (l : PushLatch) : (s.setLatch w l).stg = s.stg := rfl
@[simp] theorem State.setLatch_sw (s : State) (w : Src) (l : PushLatch) : (s.setLatch w l).sw = s.sw := rfl
@[simp] theorem State.setLatch_pwr (s : State) (w : Src) (l : PushLatch) : (s.setLatch w l).pwr = s.pwr := rfl
@[simp] theorem State.setLatch_nms (s : State) (w : Src) (l : PushLatch) : (s.setLatch w l).nms = s.nms := rfl
@[simp] theorem State.setLatch_ring (s : State) (w : Src) (l : PushLatch) : (s.setLatch w l).ring = s.ring := rfl
@[simp] theorem State.setLatch_cans (s : State) (w : Src) (l : PushLatch) : (s.setLatch w l).cans = s.cans := rfl
@[simp] theorem State.setLatch_vault (s : State) (w : Src) (l : PushLatch) : (s.setLatch w l).vault = s.vault := rfl
@[simp] theorem State.setLatch_acc (s : State) (w : Src) (l : PushLatch) : (s.setLatch w l).acc = s.acc := rfl
@[simp] theorem State.setLatch_book (s : State) (w : Src) (l : PushLatch) : (s.setLatch w l).book = s.book := rfl
@[simp] theorem State.setLatch_ageing (s : State) (w : Src) (l : PushLatch) : (s.setLatch w l).ageing = s.ageing := rfl
@[simp] theorem State.setLatch_pac (s : State) (w : Src) (l : PushLatch) : (s.setLatch w l).pac = s.pac := rfl
@[simp] theorem State.setLatch_tap (s : State) (w : Src) (l : PushLatch) : (s.setLatch w l).tap = s.tap := rfl
@[simp] theorem State.setLatch_clk (s : State) (w : Src) (l : PushLatch) : (s.setLatch w l).clk = s.clk := rfl
@[simp] theorem State.setLatch_sup (s : State) (w : Src) (l : PushLatch) : (s.setLatch w l).sup = s.sup := rfl
@[simp] theorem State.setLatch_boot (s : State) (w : Src) (l : PushLatch) : (s.setLatch w l).boot = s.boot := rfl

@[simp] theorem State.setBridge_pending (s : State) (n : Nat) (f : BridgeSt → BridgeSt) : (s.setBridge n f).pending = s.pending := rfl
@[simp] theorem State.setBridge_now (s : State) (n : Nat) (f : BridgeSt → BridgeSt) : (s.setBridge n f).now = s.now := rfl
@[simp] theorem State.setBridge_splitZero (s : State) (n : Nat) (f : BridgeSt → BridgeSt) : (s.setBridge n f).splitZero = s.splitZero := rfl
@[simp] theorem State.setBridge_fresh (s : State) (n : Nat) (f : BridgeSt → BridgeSt) : (s.setBridge n f).fresh = s.fresh := rfl
@[simp] theorem State.setBridge_regs (s : State) (n : Nat) (f : BridgeSt → BridgeSt) : (s.setBridge n f).regs = s.regs := rfl
@[simp] theorem State.setBridge_img (s : State) (n : Nat) (f : BridgeSt → BridgeSt) : (s.setBridge n f).img = s.img := rfl
@[simp] theorem State.setBridge_shadow (s : State) (n : Nat) (f : BridgeSt → BridgeSt) : (s.setBridge n f).shadow = s.shadow := rfl
@[simp] theorem State.setBridge_cfgAct (s : State) (n : Nat) (f : BridgeSt → BridgeSt) : (s.setBridge n f).cfgAct = s.cfgAct := rfl
@[simp] theorem State.setBridge_mem (s : State) (n : Nat) (f : BridgeSt → BridgeSt) : (s.setBridge n f).mem = s.mem := rfl
@[simp] theorem State.setBridge_timers (s : State) (n : Nat) (f : BridgeSt → BridgeSt) : (s.setBridge n f).timers = s.timers := rfl
@[simp] theorem State.setBridge_episodes (s : State) (n : Nat) (f : BridgeSt → BridgeSt) : (s.setBridge n f).episodes = s.episodes := rfl
@[simp] theorem State.setBridge_lockFirst (s : State) (n : Nat) (f : BridgeSt → BridgeSt) : (s.setBridge n f).lockFirst = s.lockFirst := rfl
@[simp] theorem State.setBridge_resetWait (s : State) (n : Nat) (f : BridgeSt → BridgeSt) : (s.setBridge n f).resetWait = s.resetWait := rfl
@[simp] theorem State.setBridge_enableWait (s : State) (n : Nat) (f : BridgeSt → BridgeSt) : (s.setBridge n f).enableWait = s.enableWait := rfl
@[simp] theorem State.setBridge_stride (s : State) (n : Nat) (f : BridgeSt → BridgeSt) : (s.setBridge n f).stride = s.stride := rfl
@[simp] theorem State.setBridge_queues (s : State) (n : Nat) (f : BridgeSt → BridgeSt) : (s.setBridge n f).queues = s.queues := rfl
@[simp] theorem State.setBridge_latches (s : State) (n : Nat) (f : BridgeSt → BridgeSt) : (s.setBridge n f).latches = s.latches := rfl
@[simp] theorem State.setBridge_fcr (s : State) (n : Nat) (f : BridgeSt → BridgeSt) : (s.setBridge n f).fcr = s.fcr := rfl
@[simp] theorem State.setBridge_outs (s : State) (n : Nat) (f : BridgeSt → BridgeSt) : (s.setBridge n f).outs = s.outs := rfl
@[simp] theorem State.setBridge_valves (s : State) (n : Nat) (f : BridgeSt → BridgeSt) : (s.setBridge n f).valves = s.valves := rfl
@[simp] theorem State.setBridge_scan (s : State) (n : Nat) (f : BridgeSt → BridgeSt) : (s.setBridge n f).scan = s.scan := rfl
@[simp] theorem State.setBridge_seq (s : State) (n : Nat) (f : BridgeSt → BridgeSt) : (s.setBridge n f).seq = s.seq := rfl
@[simp] theorem State.setBridge_cal (s : State) (n : Nat) (f : BridgeSt → BridgeSt) : (s.setBridge n f).cal = s.cal := rfl
@[simp] theorem State.setBridge_strobes (s : State) (n : Nat) (f : BridgeSt → BridgeSt) : (s.setBridge n f).strobes = s.strobes := rfl
@[simp] theorem State.setBridge_dins (s : State) (n : Nat) (f : BridgeSt → BridgeSt) : (s.setBridge n f).dins = s.dins := rfl
@[simp] theorem State.setBridge_ahead (s : State) (n : Nat) (f : BridgeSt → BridgeSt) : (s.setBridge n f).ahead = s.ahead := rfl
@[simp] theorem State.setBridge_phyLines (s : State) (n : Nat) (f : BridgeSt → BridgeSt) : (s.setBridge n f).phyLines = s.phyLines := rfl
@[simp] theorem State.setBridge_age (s : State) (n : Nat) (f : BridgeSt → BridgeSt) : (s.setBridge n f).age = s.age := rfl
@[simp] theorem State.setBridge_reverseAt (s : State) (n : Nat) (f : BridgeSt → BridgeSt) : (s.setBridge n f).reverseAt = s.reverseAt := rfl
@[simp] theorem State.setBridge_dies (s : State) (n : Nat) (f : BridgeSt → BridgeSt) : (s.setBridge n f).dies = s.dies := rfl
@[simp] theorem State.setBridge_msh (s : State) (n : Nat) (f : BridgeSt → BridgeSt) : (s.setBridge n f).msh = s.msh := rfl
@[simp] theorem State.setBridge_tmrs (s : State) (n : Nat) (f : BridgeSt → BridgeSt) : (s.setBridge n f).tmrs = s.tmrs := rfl
@[simp] theorem State.setBridge_tchs (s : State) (n : Nat) (f : BridgeSt → BridgeSt) : (s.setBridge n f).tchs = s.tchs := rfl
@[simp] theorem State.setBridge_stg (s : State) (n : Nat) (f : BridgeSt → BridgeSt) : (s.setBridge n f).stg = s.stg := rfl
@[simp] theorem State.setBridge_sw (s : State) (n : Nat) (f : BridgeSt → BridgeSt) : (s.setBridge n f).sw = s.sw := rfl
@[simp] theorem State.setBridge_pwr (s : State) (n : Nat) (f : BridgeSt → BridgeSt) : (s.setBridge n f).pwr = s.pwr := rfl
@[simp] theorem State.setBridge_nms (s : State) (n : Nat) (f : BridgeSt → BridgeSt) : (s.setBridge n f).nms = s.nms := rfl
@[simp] theorem State.setBridge_ring (s : State) (n : Nat) (f : BridgeSt → BridgeSt) : (s.setBridge n f).ring = s.ring := rfl
@[simp] theorem State.setBridge_cans (s : State) (n : Nat) (f : BridgeSt → BridgeSt) : (s.setBridge n f).cans = s.cans := rfl
@[simp] theorem State.setBridge_vault (s : State) (n : Nat) (f : BridgeSt → BridgeSt) : (s.setBridge n f).vault = s.vault := rfl
@[simp] theorem State.setBridge_acc (s : State) (n : Nat) (f : BridgeSt → BridgeSt) : (s.setBridge n f).acc = s.acc := rfl
@[simp] theorem State.setBridge_book (s : State) (n : Nat) (f : BridgeSt → BridgeSt) : (s.setBridge n f).book = s.book := rfl
@[simp] theorem State.setBridge_ageing (s : State) (n : Nat) (f : BridgeSt → BridgeSt) : (s.setBridge n f).ageing = s.ageing := rfl
@[simp] theorem State.setBridge_pac (s : State) (n : Nat) (f : BridgeSt → BridgeSt) : (s.setBridge n f).pac = s.pac := rfl
@[simp] theorem State.setBridge_tap (s : State) (n : Nat) (f : BridgeSt → BridgeSt) : (s.setBridge n f).tap = s.tap := rfl
@[simp] theorem State.setBridge_clk (s : State) (n : Nat) (f : BridgeSt → BridgeSt) : (s.setBridge n f).clk = s.clk := rfl
@[simp] theorem State.setBridge_sup (s : State) (n : Nat) (f : BridgeSt → BridgeSt) : (s.setBridge n f).sup = s.sup := rfl
@[simp] theorem State.setBridge_boot (s : State) (n : Nat) (f : BridgeSt → BridgeSt) : (s.setBridge n f).boot = s.boot := rfl

@[simp] theorem State.setCan_pending (s : State) (x : Nat) (f : CanSt → CanSt) : (s.setCan x f).pending = s.pending := rfl
@[simp] theorem State.setCan_now (s : State) (x : Nat) (f : CanSt → CanSt) : (s.setCan x f).now = s.now := rfl
@[simp] theorem State.setCan_splitZero (s : State) (x : Nat) (f : CanSt → CanSt) : (s.setCan x f).splitZero = s.splitZero := rfl
@[simp] theorem State.setCan_fresh (s : State) (x : Nat) (f : CanSt → CanSt) : (s.setCan x f).fresh = s.fresh := rfl
@[simp] theorem State.setCan_regs (s : State) (x : Nat) (f : CanSt → CanSt) : (s.setCan x f).regs = s.regs := rfl
@[simp] theorem State.setCan_img (s : State) (x : Nat) (f : CanSt → CanSt) : (s.setCan x f).img = s.img := rfl
@[simp] theorem State.setCan_shadow (s : State) (x : Nat) (f : CanSt → CanSt) : (s.setCan x f).shadow = s.shadow := rfl
@[simp] theorem State.setCan_cfgAct (s : State) (x : Nat) (f : CanSt → CanSt) : (s.setCan x f).cfgAct = s.cfgAct := rfl
@[simp] theorem State.setCan_mem (s : State) (x : Nat) (f : CanSt → CanSt) : (s.setCan x f).mem = s.mem := rfl
@[simp] theorem State.setCan_timers (s : State) (x : Nat) (f : CanSt → CanSt) : (s.setCan x f).timers = s.timers := rfl
@[simp] theorem State.setCan_episodes (s : State) (x : Nat) (f : CanSt → CanSt) : (s.setCan x f).episodes = s.episodes := rfl
@[simp] theorem State.setCan_lockFirst (s : State) (x : Nat) (f : CanSt → CanSt) : (s.setCan x f).lockFirst = s.lockFirst := rfl
@[simp] theorem State.setCan_resetWait (s : State) (x : Nat) (f : CanSt → CanSt) : (s.setCan x f).resetWait = s.resetWait := rfl
@[simp] theorem State.setCan_enableWait (s : State) (x : Nat) (f : CanSt → CanSt) : (s.setCan x f).enableWait = s.enableWait := rfl
@[simp] theorem State.setCan_stride (s : State) (x : Nat) (f : CanSt → CanSt) : (s.setCan x f).stride = s.stride := rfl
@[simp] theorem State.setCan_queues (s : State) (x : Nat) (f : CanSt → CanSt) : (s.setCan x f).queues = s.queues := rfl
@[simp] theorem State.setCan_latches (s : State) (x : Nat) (f : CanSt → CanSt) : (s.setCan x f).latches = s.latches := rfl
@[simp] theorem State.setCan_fcr (s : State) (x : Nat) (f : CanSt → CanSt) : (s.setCan x f).fcr = s.fcr := rfl
@[simp] theorem State.setCan_outs (s : State) (x : Nat) (f : CanSt → CanSt) : (s.setCan x f).outs = s.outs := rfl
@[simp] theorem State.setCan_valves (s : State) (x : Nat) (f : CanSt → CanSt) : (s.setCan x f).valves = s.valves := rfl
@[simp] theorem State.setCan_bridges (s : State) (x : Nat) (f : CanSt → CanSt) : (s.setCan x f).bridges = s.bridges := rfl
@[simp] theorem State.setCan_scan (s : State) (x : Nat) (f : CanSt → CanSt) : (s.setCan x f).scan = s.scan := rfl
@[simp] theorem State.setCan_seq (s : State) (x : Nat) (f : CanSt → CanSt) : (s.setCan x f).seq = s.seq := rfl
@[simp] theorem State.setCan_cal (s : State) (x : Nat) (f : CanSt → CanSt) : (s.setCan x f).cal = s.cal := rfl
@[simp] theorem State.setCan_strobes (s : State) (x : Nat) (f : CanSt → CanSt) : (s.setCan x f).strobes = s.strobes := rfl
@[simp] theorem State.setCan_dins (s : State) (x : Nat) (f : CanSt → CanSt) : (s.setCan x f).dins = s.dins := rfl
@[simp] theorem State.setCan_ahead (s : State) (x : Nat) (f : CanSt → CanSt) : (s.setCan x f).ahead = s.ahead := rfl
@[simp] theorem State.setCan_phyLines (s : State) (x : Nat) (f : CanSt → CanSt) : (s.setCan x f).phyLines = s.phyLines := rfl
@[simp] theorem State.setCan_age (s : State) (x : Nat) (f : CanSt → CanSt) : (s.setCan x f).age = s.age := rfl
@[simp] theorem State.setCan_reverseAt (s : State) (x : Nat) (f : CanSt → CanSt) : (s.setCan x f).reverseAt = s.reverseAt := rfl
@[simp] theorem State.setCan_dies (s : State) (x : Nat) (f : CanSt → CanSt) : (s.setCan x f).dies = s.dies := rfl
@[simp] theorem State.setCan_msh (s : State) (x : Nat) (f : CanSt → CanSt) : (s.setCan x f).msh = s.msh := rfl
@[simp] theorem State.setCan_tmrs (s : State) (x : Nat) (f : CanSt → CanSt) : (s.setCan x f).tmrs = s.tmrs := rfl
@[simp] theorem State.setCan_tchs (s : State) (x : Nat) (f : CanSt → CanSt) : (s.setCan x f).tchs = s.tchs := rfl
@[simp] theorem State.setCan_stg (s : State) (x : Nat) (f : CanSt → CanSt) : (s.setCan x f).stg = s.stg := rfl
@[simp] theorem State.setCan_sw (s : State) (x : Nat) (f : CanSt → CanSt) : (s.setCan x f).sw = s.sw := rfl
@[simp] theorem State.setCan_pwr (s : State) (x : Nat) (f : CanSt → CanSt) : (s.setCan x f).pwr = s.pwr := rfl
@[simp] theorem State.setCan_nms (s : State) (x : Nat) (f : CanSt → CanSt) : (s.setCan x f).nms = s.nms := rfl
@[simp] theorem State.setCan_ring (s : State) (x : Nat) (f : CanSt → CanSt) : (s.setCan x f).ring = s.ring := rfl
@[simp] theorem State.setCan_vault (s : State) (x : Nat) (f : CanSt → CanSt) : (s.setCan x f).vault = s.vault := rfl
@[simp] theorem State.setCan_acc (s : State) (x : Nat) (f : CanSt → CanSt) : (s.setCan x f).acc = s.acc := rfl
@[simp] theorem State.setCan_book (s : State) (x : Nat) (f : CanSt → CanSt) : (s.setCan x f).book = s.book := rfl
@[simp] theorem State.setCan_ageing (s : State) (x : Nat) (f : CanSt → CanSt) : (s.setCan x f).ageing = s.ageing := rfl
@[simp] theorem State.setCan_pac (s : State) (x : Nat) (f : CanSt → CanSt) : (s.setCan x f).pac = s.pac := rfl
@[simp] theorem State.setCan_tap (s : State) (x : Nat) (f : CanSt → CanSt) : (s.setCan x f).tap = s.tap := rfl
@[simp] theorem State.setCan_clk (s : State) (x : Nat) (f : CanSt → CanSt) : (s.setCan x f).clk = s.clk := rfl
@[simp] theorem State.setCan_sup (s : State) (x : Nat) (f : CanSt → CanSt) : (s.setCan x f).sup = s.sup := rfl
@[simp] theorem State.setCan_boot (s : State) (x : Nat) (f : CanSt → CanSt) : (s.setCan x f).boot = s.boot := rfl

@[simp] theorem State.setTap_pending (s : State) (f : TapSt → TapSt) : (s.setTap f).pending = s.pending := rfl
@[simp] theorem State.setTap_now (s : State) (f : TapSt → TapSt) : (s.setTap f).now = s.now := rfl
@[simp] theorem State.setTap_splitZero (s : State) (f : TapSt → TapSt) : (s.setTap f).splitZero = s.splitZero := rfl
@[simp] theorem State.setTap_fresh (s : State) (f : TapSt → TapSt) : (s.setTap f).fresh = s.fresh := rfl
@[simp] theorem State.setTap_regs (s : State) (f : TapSt → TapSt) : (s.setTap f).regs = s.regs := rfl
@[simp] theorem State.setTap_img (s : State) (f : TapSt → TapSt) : (s.setTap f).img = s.img := rfl
@[simp] theorem State.setTap_shadow (s : State) (f : TapSt → TapSt) : (s.setTap f).shadow = s.shadow := rfl
@[simp] theorem State.setTap_cfgAct (s : State) (f : TapSt → TapSt) : (s.setTap f).cfgAct = s.cfgAct := rfl
@[simp] theorem State.setTap_mem (s : State) (f : TapSt → TapSt) : (s.setTap f).mem = s.mem := rfl
@[simp] theorem State.setTap_timers (s : State) (f : TapSt → TapSt) : (s.setTap f).timers = s.timers := rfl
@[simp] theorem State.setTap_episodes (s : State) (f : TapSt → TapSt) : (s.setTap f).episodes = s.episodes := rfl
@[simp] theorem State.setTap_lockFirst (s : State) (f : TapSt → TapSt) : (s.setTap f).lockFirst = s.lockFirst := rfl
@[simp] theorem State.setTap_resetWait (s : State) (f : TapSt → TapSt) : (s.setTap f).resetWait = s.resetWait := rfl
@[simp] theorem State.setTap_enableWait (s : State) (f : TapSt → TapSt) : (s.setTap f).enableWait = s.enableWait := rfl
@[simp] theorem State.setTap_stride (s : State) (f : TapSt → TapSt) : (s.setTap f).stride = s.stride := rfl
@[simp] theorem State.setTap_queues (s : State) (f : TapSt → TapSt) : (s.setTap f).queues = s.queues := rfl
@[simp] theorem State.setTap_latches (s : State) (f : TapSt → TapSt) : (s.setTap f).latches = s.latches := rfl
@[simp] theorem State.setTap_fcr (s : State) (f : TapSt → TapSt) : (s.setTap f).fcr = s.fcr := rfl
@[simp] theorem State.setTap_outs (s : State) (f : TapSt → TapSt) : (s.setTap f).outs = s.outs := rfl
@[simp] theorem State.setTap_valves (s : State) (f : TapSt → TapSt) : (s.setTap f).valves = s.valves := rfl
@[simp] theorem State.setTap_bridges (s : State) (f : TapSt → TapSt) : (s.setTap f).bridges = s.bridges := rfl
@[simp] theorem State.setTap_scan (s : State) (f : TapSt → TapSt) : (s.setTap f).scan = s.scan := rfl
@[simp] theorem State.setTap_seq (s : State) (f : TapSt → TapSt) : (s.setTap f).seq = s.seq := rfl
@[simp] theorem State.setTap_cal (s : State) (f : TapSt → TapSt) : (s.setTap f).cal = s.cal := rfl
@[simp] theorem State.setTap_strobes (s : State) (f : TapSt → TapSt) : (s.setTap f).strobes = s.strobes := rfl
@[simp] theorem State.setTap_dins (s : State) (f : TapSt → TapSt) : (s.setTap f).dins = s.dins := rfl
@[simp] theorem State.setTap_ahead (s : State) (f : TapSt → TapSt) : (s.setTap f).ahead = s.ahead := rfl
@[simp] theorem State.setTap_phyLines (s : State) (f : TapSt → TapSt) : (s.setTap f).phyLines = s.phyLines := rfl
@[simp] theorem State.setTap_age (s : State) (f : TapSt → TapSt) : (s.setTap f).age = s.age := rfl
@[simp] theorem State.setTap_reverseAt (s : State) (f : TapSt → TapSt) : (s.setTap f).reverseAt = s.reverseAt := rfl
@[simp] theorem State.setTap_dies (s : State) (f : TapSt → TapSt) : (s.setTap f).dies = s.dies := rfl
@[simp] theorem State.setTap_msh (s : State) (f : TapSt → TapSt) : (s.setTap f).msh = s.msh := rfl
@[simp] theorem State.setTap_tmrs (s : State) (f : TapSt → TapSt) : (s.setTap f).tmrs = s.tmrs := rfl
@[simp] theorem State.setTap_tchs (s : State) (f : TapSt → TapSt) : (s.setTap f).tchs = s.tchs := rfl
@[simp] theorem State.setTap_stg (s : State) (f : TapSt → TapSt) : (s.setTap f).stg = s.stg := rfl
@[simp] theorem State.setTap_sw (s : State) (f : TapSt → TapSt) : (s.setTap f).sw = s.sw := rfl
@[simp] theorem State.setTap_pwr (s : State) (f : TapSt → TapSt) : (s.setTap f).pwr = s.pwr := rfl
@[simp] theorem State.setTap_nms (s : State) (f : TapSt → TapSt) : (s.setTap f).nms = s.nms := rfl
@[simp] theorem State.setTap_ring (s : State) (f : TapSt → TapSt) : (s.setTap f).ring = s.ring := rfl
@[simp] theorem State.setTap_cans (s : State) (f : TapSt → TapSt) : (s.setTap f).cans = s.cans := rfl
@[simp] theorem State.setTap_vault (s : State) (f : TapSt → TapSt) : (s.setTap f).vault = s.vault := rfl
@[simp] theorem State.setTap_acc (s : State) (f : TapSt → TapSt) : (s.setTap f).acc = s.acc := rfl
@[simp] theorem State.setTap_book (s : State) (f : TapSt → TapSt) : (s.setTap f).book = s.book := rfl
@[simp] theorem State.setTap_ageing (s : State) (f : TapSt → TapSt) : (s.setTap f).ageing = s.ageing := rfl
@[simp] theorem State.setTap_pac (s : State) (f : TapSt → TapSt) : (s.setTap f).pac = s.pac := rfl
@[simp] theorem State.setTap_clk (s : State) (f : TapSt → TapSt) : (s.setTap f).clk = s.clk := rfl
@[simp] theorem State.setTap_sup (s : State) (f : TapSt → TapSt) : (s.setTap f).sup = s.sup := rfl
@[simp] theorem State.setTap_boot (s : State) (f : TapSt → TapSt) : (s.setTap f).boot = s.boot := rfl

@[simp] theorem State.setDin_pending (s : State) (n : Nat) (f : DinSt → DinSt) : (s.setDin n f).pending = s.pending := rfl
@[simp] theorem State.setDin_now (s : State) (n : Nat) (f : DinSt → DinSt) : (s.setDin n f).now = s.now := rfl
@[simp] theorem State.setDin_splitZero (s : State) (n : Nat) (f : DinSt → DinSt) : (s.setDin n f).splitZero = s.splitZero := rfl
@[simp] theorem State.setDin_fresh (s : State) (n : Nat) (f : DinSt → DinSt) : (s.setDin n f).fresh = s.fresh := rfl
@[simp] theorem State.setDin_regs (s : State) (n : Nat) (f : DinSt → DinSt) : (s.setDin n f).regs = s.regs := rfl
@[simp] theorem State.setDin_img (s : State) (n : Nat) (f : DinSt → DinSt) : (s.setDin n f).img = s.img := rfl
@[simp] theorem State.setDin_shadow (s : State) (n : Nat) (f : DinSt → DinSt) : (s.setDin n f).shadow = s.shadow := rfl
@[simp] theorem State.setDin_cfgAct (s : State) (n : Nat) (f : DinSt → DinSt) : (s.setDin n f).cfgAct = s.cfgAct := rfl
@[simp] theorem State.setDin_mem (s : State) (n : Nat) (f : DinSt → DinSt) : (s.setDin n f).mem = s.mem := rfl
@[simp] theorem State.setDin_timers (s : State) (n : Nat) (f : DinSt → DinSt) : (s.setDin n f).timers = s.timers := rfl
@[simp] theorem State.setDin_episodes (s : State) (n : Nat) (f : DinSt → DinSt) : (s.setDin n f).episodes = s.episodes := rfl
@[simp] theorem State.setDin_lockFirst (s : State) (n : Nat) (f : DinSt → DinSt) : (s.setDin n f).lockFirst = s.lockFirst := rfl
@[simp] theorem State.setDin_resetWait (s : State) (n : Nat) (f : DinSt → DinSt) : (s.setDin n f).resetWait = s.resetWait := rfl
@[simp] theorem State.setDin_enableWait (s : State) (n : Nat) (f : DinSt → DinSt) : (s.setDin n f).enableWait = s.enableWait := rfl
@[simp] theorem State.setDin_stride (s : State) (n : Nat) (f : DinSt → DinSt) : (s.setDin n f).stride = s.stride := rfl
@[simp] theorem State.setDin_queues (s : State) (n : Nat) (f : DinSt → DinSt) : (s.setDin n f).queues = s.queues := rfl
@[simp] theorem State.setDin_latches (s : State) (n : Nat) (f : DinSt → DinSt) : (s.setDin n f).latches = s.latches := rfl
@[simp] theorem State.setDin_fcr (s : State) (n : Nat) (f : DinSt → DinSt) : (s.setDin n f).fcr = s.fcr := rfl
@[simp] theorem State.setDin_outs (s : State) (n : Nat) (f : DinSt → DinSt) : (s.setDin n f).outs = s.outs := rfl
@[simp] theorem State.setDin_valves (s : State) (n : Nat) (f : DinSt → DinSt) : (s.setDin n f).valves = s.valves := rfl
@[simp] theorem State.setDin_bridges (s : State) (n : Nat) (f : DinSt → DinSt) : (s.setDin n f).bridges = s.bridges := rfl
@[simp] theorem State.setDin_scan (s : State) (n : Nat) (f : DinSt → DinSt) : (s.setDin n f).scan = s.scan := rfl
@[simp] theorem State.setDin_seq (s : State) (n : Nat) (f : DinSt → DinSt) : (s.setDin n f).seq = s.seq := rfl
@[simp] theorem State.setDin_cal (s : State) (n : Nat) (f : DinSt → DinSt) : (s.setDin n f).cal = s.cal := rfl
@[simp] theorem State.setDin_strobes (s : State) (n : Nat) (f : DinSt → DinSt) : (s.setDin n f).strobes = s.strobes := rfl
@[simp] theorem State.setDin_ahead (s : State) (n : Nat) (f : DinSt → DinSt) : (s.setDin n f).ahead = s.ahead := rfl
@[simp] theorem State.setDin_phyLines (s : State) (n : Nat) (f : DinSt → DinSt) : (s.setDin n f).phyLines = s.phyLines := rfl
@[simp] theorem State.setDin_age (s : State) (n : Nat) (f : DinSt → DinSt) : (s.setDin n f).age = s.age := rfl
@[simp] theorem State.setDin_reverseAt (s : State) (n : Nat) (f : DinSt → DinSt) : (s.setDin n f).reverseAt = s.reverseAt := rfl
@[simp] theorem State.setDin_dies (s : State) (n : Nat) (f : DinSt → DinSt) : (s.setDin n f).dies = s.dies := rfl
@[simp] theorem State.setDin_msh (s : State) (n : Nat) (f : DinSt → DinSt) : (s.setDin n f).msh = s.msh := rfl
@[simp] theorem State.setDin_tmrs (s : State) (n : Nat) (f : DinSt → DinSt) : (s.setDin n f).tmrs = s.tmrs := rfl
@[simp] theorem State.setDin_tchs (s : State) (n : Nat) (f : DinSt → DinSt) : (s.setDin n f).tchs = s.tchs := rfl
@[simp] theorem State.setDin_stg (s : State) (n : Nat) (f : DinSt → DinSt) : (s.setDin n f).stg = s.stg := rfl
@[simp] theorem State.setDin_sw (s : State) (n : Nat) (f : DinSt → DinSt) : (s.setDin n f).sw = s.sw := rfl
@[simp] theorem State.setDin_pwr (s : State) (n : Nat) (f : DinSt → DinSt) : (s.setDin n f).pwr = s.pwr := rfl
@[simp] theorem State.setDin_nms (s : State) (n : Nat) (f : DinSt → DinSt) : (s.setDin n f).nms = s.nms := rfl
@[simp] theorem State.setDin_ring (s : State) (n : Nat) (f : DinSt → DinSt) : (s.setDin n f).ring = s.ring := rfl
@[simp] theorem State.setDin_cans (s : State) (n : Nat) (f : DinSt → DinSt) : (s.setDin n f).cans = s.cans := rfl
@[simp] theorem State.setDin_vault (s : State) (n : Nat) (f : DinSt → DinSt) : (s.setDin n f).vault = s.vault := rfl
@[simp] theorem State.setDin_acc (s : State) (n : Nat) (f : DinSt → DinSt) : (s.setDin n f).acc = s.acc := rfl
@[simp] theorem State.setDin_book (s : State) (n : Nat) (f : DinSt → DinSt) : (s.setDin n f).book = s.book := rfl
@[simp] theorem State.setDin_ageing (s : State) (n : Nat) (f : DinSt → DinSt) : (s.setDin n f).ageing = s.ageing := rfl
@[simp] theorem State.setDin_pac (s : State) (n : Nat) (f : DinSt → DinSt) : (s.setDin n f).pac = s.pac := rfl
@[simp] theorem State.setDin_tap (s : State) (n : Nat) (f : DinSt → DinSt) : (s.setDin n f).tap = s.tap := rfl
@[simp] theorem State.setDin_clk (s : State) (n : Nat) (f : DinSt → DinSt) : (s.setDin n f).clk = s.clk := rfl
@[simp] theorem State.setDin_sup (s : State) (n : Nat) (f : DinSt → DinSt) : (s.setDin n f).sup = s.sup := rfl
@[simp] theorem State.setDin_boot (s : State) (n : Nat) (f : DinSt → DinSt) : (s.setDin n f).boot = s.boot := rfl

@[simp] theorem State.setStrobe_pending (s : State) (g : Nat) (f : StrobeSt → StrobeSt) : (s.setStrobe g f).pending = s.pending := rfl
@[simp] theorem State.setStrobe_now (s : State) (g : Nat) (f : StrobeSt → StrobeSt) : (s.setStrobe g f).now = s.now := rfl
@[simp] theorem State.setStrobe_splitZero (s : State) (g : Nat) (f : StrobeSt → StrobeSt) : (s.setStrobe g f).splitZero = s.splitZero := rfl
@[simp] theorem State.setStrobe_fresh (s : State) (g : Nat) (f : StrobeSt → StrobeSt) : (s.setStrobe g f).fresh = s.fresh := rfl
@[simp] theorem State.setStrobe_regs (s : State) (g : Nat) (f : StrobeSt → StrobeSt) : (s.setStrobe g f).regs = s.regs := rfl
@[simp] theorem State.setStrobe_img (s : State) (g : Nat) (f : StrobeSt → StrobeSt) : (s.setStrobe g f).img = s.img := rfl
@[simp] theorem State.setStrobe_shadow (s : State) (g : Nat) (f : StrobeSt → StrobeSt) : (s.setStrobe g f).shadow = s.shadow := rfl
@[simp] theorem State.setStrobe_cfgAct (s : State) (g : Nat) (f : StrobeSt → StrobeSt) : (s.setStrobe g f).cfgAct = s.cfgAct := rfl
@[simp] theorem State.setStrobe_mem (s : State) (g : Nat) (f : StrobeSt → StrobeSt) : (s.setStrobe g f).mem = s.mem := rfl
@[simp] theorem State.setStrobe_timers (s : State) (g : Nat) (f : StrobeSt → StrobeSt) : (s.setStrobe g f).timers = s.timers := rfl
@[simp] theorem State.setStrobe_episodes (s : State) (g : Nat) (f : StrobeSt → StrobeSt) : (s.setStrobe g f).episodes = s.episodes := rfl
@[simp] theorem State.setStrobe_lockFirst (s : State) (g : Nat) (f : StrobeSt → StrobeSt) : (s.setStrobe g f).lockFirst = s.lockFirst := rfl
@[simp] theorem State.setStrobe_resetWait (s : State) (g : Nat) (f : StrobeSt → StrobeSt) : (s.setStrobe g f).resetWait = s.resetWait := rfl
@[simp] theorem State.setStrobe_enableWait (s : State) (g : Nat) (f : StrobeSt → StrobeSt) : (s.setStrobe g f).enableWait = s.enableWait := rfl
@[simp] theorem State.setStrobe_stride (s : State) (g : Nat) (f : StrobeSt → StrobeSt) : (s.setStrobe g f).stride = s.stride := rfl
@[simp] theorem State.setStrobe_queues (s : State) (g : Nat) (f : StrobeSt → StrobeSt) : (s.setStrobe g f).queues = s.queues := rfl
@[simp] theorem State.setStrobe_latches (s : State) (g : Nat) (f : StrobeSt → StrobeSt) : (s.setStrobe g f).latches = s.latches := rfl
@[simp] theorem State.setStrobe_fcr (s : State) (g : Nat) (f : StrobeSt → StrobeSt) : (s.setStrobe g f).fcr = s.fcr := rfl
@[simp] theorem State.setStrobe_outs (s : State) (g : Nat) (f : StrobeSt → StrobeSt) : (s.setStrobe g f).outs = s.outs := rfl
@[simp] theorem State.setStrobe_valves (s : State) (g : Nat) (f : StrobeSt → StrobeSt) : (s.setStrobe g f).valves = s.valves := rfl
@[simp] theorem State.setStrobe_bridges (s : State) (g : Nat) (f : StrobeSt → StrobeSt) : (s.setStrobe g f).bridges = s.bridges := rfl
@[simp] theorem State.setStrobe_scan (s : State) (g : Nat) (f : StrobeSt → StrobeSt) : (s.setStrobe g f).scan = s.scan := rfl
@[simp] theorem State.setStrobe_seq (s : State) (g : Nat) (f : StrobeSt → StrobeSt) : (s.setStrobe g f).seq = s.seq := rfl
@[simp] theorem State.setStrobe_cal (s : State) (g : Nat) (f : StrobeSt → StrobeSt) : (s.setStrobe g f).cal = s.cal := rfl
@[simp] theorem State.setStrobe_dins (s : State) (g : Nat) (f : StrobeSt → StrobeSt) : (s.setStrobe g f).dins = s.dins := rfl
@[simp] theorem State.setStrobe_ahead (s : State) (g : Nat) (f : StrobeSt → StrobeSt) : (s.setStrobe g f).ahead = s.ahead := rfl
@[simp] theorem State.setStrobe_phyLines (s : State) (g : Nat) (f : StrobeSt → StrobeSt) : (s.setStrobe g f).phyLines = s.phyLines := rfl
@[simp] theorem State.setStrobe_age (s : State) (g : Nat) (f : StrobeSt → StrobeSt) : (s.setStrobe g f).age = s.age := rfl
@[simp] theorem State.setStrobe_reverseAt (s : State) (g : Nat) (f : StrobeSt → StrobeSt) : (s.setStrobe g f).reverseAt = s.reverseAt := rfl
@[simp] theorem State.setStrobe_dies (s : State) (g : Nat) (f : StrobeSt → StrobeSt) : (s.setStrobe g f).dies = s.dies := rfl
@[simp] theorem State.setStrobe_msh (s : State) (g : Nat) (f : StrobeSt → StrobeSt) : (s.setStrobe g f).msh = s.msh := rfl
@[simp] theorem State.setStrobe_tmrs (s : State) (g : Nat) (f : StrobeSt → StrobeSt) : (s.setStrobe g f).tmrs = s.tmrs := rfl
@[simp] theorem State.setStrobe_tchs (s : State) (g : Nat) (f : StrobeSt → StrobeSt) : (s.setStrobe g f).tchs = s.tchs := rfl
@[simp] theorem State.setStrobe_stg (s : State) (g : Nat) (f : StrobeSt → StrobeSt) : (s.setStrobe g f).stg = s.stg := rfl
@[simp] theorem State.setStrobe_sw (s : State) (g : Nat) (f : StrobeSt → StrobeSt) : (s.setStrobe g f).sw = s.sw := rfl
@[simp] theorem State.setStrobe_pwr (s : State) (g : Nat) (f : StrobeSt → StrobeSt) : (s.setStrobe g f).pwr = s.pwr := rfl
@[simp] theorem State.setStrobe_nms (s : State) (g : Nat) (f : StrobeSt → StrobeSt) : (s.setStrobe g f).nms = s.nms := rfl
@[simp] theorem State.setStrobe_ring (s : State) (g : Nat) (f : StrobeSt → StrobeSt) : (s.setStrobe g f).ring = s.ring := rfl
@[simp] theorem State.setStrobe_cans (s : State) (g : Nat) (f : StrobeSt → StrobeSt) : (s.setStrobe g f).cans = s.cans := rfl
@[simp] theorem State.setStrobe_vault (s : State) (g : Nat) (f : StrobeSt → StrobeSt) : (s.setStrobe g f).vault = s.vault := rfl
@[simp] theorem State.setStrobe_acc (s : State) (g : Nat) (f : StrobeSt → StrobeSt) : (s.setStrobe g f).acc = s.acc := rfl
@[simp] theorem State.setStrobe_book (s : State) (g : Nat) (f : StrobeSt → StrobeSt) : (s.setStrobe g f).book = s.book := rfl
@[simp] theorem State.setStrobe_ageing (s : State) (g : Nat) (f : StrobeSt → StrobeSt) : (s.setStrobe g f).ageing = s.ageing := rfl
@[simp] theorem State.setStrobe_pac (s : State) (g : Nat) (f : StrobeSt → StrobeSt) : (s.setStrobe g f).pac = s.pac := rfl
@[simp] theorem State.setStrobe_tap (s : State) (g : Nat) (f : StrobeSt → StrobeSt) : (s.setStrobe g f).tap = s.tap := rfl
@[simp] theorem State.setStrobe_clk (s : State) (g : Nat) (f : StrobeSt → StrobeSt) : (s.setStrobe g f).clk = s.clk := rfl
@[simp] theorem State.setStrobe_sup (s : State) (g : Nat) (f : StrobeSt → StrobeSt) : (s.setStrobe g f).sup = s.sup := rfl
@[simp] theorem State.setStrobe_boot (s : State) (g : Nat) (f : StrobeSt → StrobeSt) : (s.setStrobe g f).boot = s.boot := rfl

@[simp] theorem State.setFcr_pending (s : State) (f : FcrSt → FcrSt) : (s.setFcr f).pending = s.pending := rfl
@[simp] theorem State.setFcr_now (s : State) (f : FcrSt → FcrSt) : (s.setFcr f).now = s.now := rfl
@[simp] theorem State.setFcr_splitZero (s : State) (f : FcrSt → FcrSt) : (s.setFcr f).splitZero = s.splitZero := rfl
@[simp] theorem State.setFcr_fresh (s : State) (f : FcrSt → FcrSt) : (s.setFcr f).fresh = s.fresh := rfl
@[simp] theorem State.setFcr_regs (s : State) (f : FcrSt → FcrSt) : (s.setFcr f).regs = s.regs := rfl
@[simp] theorem State.setFcr_img (s : State) (f : FcrSt → FcrSt) : (s.setFcr f).img = s.img := rfl
@[simp] theorem State.setFcr_shadow (s : State) (f : FcrSt → FcrSt) : (s.setFcr f).shadow = s.shadow := rfl
@[simp] theorem State.setFcr_cfgAct (s : State) (f : FcrSt → FcrSt) : (s.setFcr f).cfgAct = s.cfgAct := rfl
@[simp] theorem State.setFcr_mem (s : State) (f : FcrSt → FcrSt) : (s.setFcr f).mem = s.mem := rfl
@[simp] theorem State.setFcr_timers (s : State) (f : FcrSt → FcrSt) : (s.setFcr f).timers = s.timers := rfl
@[simp] theorem State.setFcr_episodes (s : State) (f : FcrSt → FcrSt) : (s.setFcr f).episodes = s.episodes := rfl
@[simp] theorem State.setFcr_lockFirst (s : State) (f : FcrSt → FcrSt) : (s.setFcr f).lockFirst = s.lockFirst := rfl
@[simp] theorem State.setFcr_resetWait (s : State) (f : FcrSt → FcrSt) : (s.setFcr f).resetWait = s.resetWait := rfl
@[simp] theorem State.setFcr_enableWait (s : State) (f : FcrSt → FcrSt) : (s.setFcr f).enableWait = s.enableWait := rfl
@[simp] theorem State.setFcr_stride (s : State) (f : FcrSt → FcrSt) : (s.setFcr f).stride = s.stride := rfl
@[simp] theorem State.setFcr_queues (s : State) (f : FcrSt → FcrSt) : (s.setFcr f).queues = s.queues := rfl
@[simp] theorem State.setFcr_latches (s : State) (f : FcrSt → FcrSt) : (s.setFcr f).latches = s.latches := rfl
@[simp] theorem State.setFcr_outs (s : State) (f : FcrSt → FcrSt) : (s.setFcr f).outs = s.outs := rfl
@[simp] theorem State.setFcr_valves (s : State) (f : FcrSt → FcrSt) : (s.setFcr f).valves = s.valves := rfl
@[simp] theorem State.setFcr_bridges (s : State) (f : FcrSt → FcrSt) : (s.setFcr f).bridges = s.bridges := rfl
@[simp] theorem State.setFcr_scan (s : State) (f : FcrSt → FcrSt) : (s.setFcr f).scan = s.scan := rfl
@[simp] theorem State.setFcr_seq (s : State) (f : FcrSt → FcrSt) : (s.setFcr f).seq = s.seq := rfl
@[simp] theorem State.setFcr_cal (s : State) (f : FcrSt → FcrSt) : (s.setFcr f).cal = s.cal := rfl
@[simp] theorem State.setFcr_strobes (s : State) (f : FcrSt → FcrSt) : (s.setFcr f).strobes = s.strobes := rfl
@[simp] theorem State.setFcr_dins (s : State) (f : FcrSt → FcrSt) : (s.setFcr f).dins = s.dins := rfl
@[simp] theorem State.setFcr_ahead (s : State) (f : FcrSt → FcrSt) : (s.setFcr f).ahead = s.ahead := rfl
@[simp] theorem State.setFcr_phyLines (s : State) (f : FcrSt → FcrSt) : (s.setFcr f).phyLines = s.phyLines := rfl
@[simp] theorem State.setFcr_age (s : State) (f : FcrSt → FcrSt) : (s.setFcr f).age = s.age := rfl
@[simp] theorem State.setFcr_reverseAt (s : State) (f : FcrSt → FcrSt) : (s.setFcr f).reverseAt = s.reverseAt := rfl
@[simp] theorem State.setFcr_dies (s : State) (f : FcrSt → FcrSt) : (s.setFcr f).dies = s.dies := rfl
@[simp] theorem State.setFcr_msh (s : State) (f : FcrSt → FcrSt) : (s.setFcr f).msh = s.msh := rfl
@[simp] theorem State.setFcr_tmrs (s : State) (f : FcrSt → FcrSt) : (s.setFcr f).tmrs = s.tmrs := rfl
@[simp] theorem State.setFcr_tchs (s : State) (f : FcrSt → FcrSt) : (s.setFcr f).tchs = s.tchs := rfl
@[simp] theorem State.setFcr_stg (s : State) (f : FcrSt → FcrSt) : (s.setFcr f).stg = s.stg := rfl
@[simp] theorem State.setFcr_sw (s : State) (f : FcrSt → FcrSt) : (s.setFcr f).sw = s.sw := rfl
@[simp] theorem State.setFcr_pwr (s : State) (f : FcrSt → FcrSt) : (s.setFcr f).pwr = s.pwr := rfl
@[simp] theorem State.setFcr_nms (s : State) (f : FcrSt → FcrSt) : (s.setFcr f).nms = s.nms := rfl
@[simp] theorem State.setFcr_ring (s : State) (f : FcrSt → FcrSt) : (s.setFcr f).ring = s.ring := rfl
@[simp] theorem State.setFcr_cans (s : State) (f : FcrSt → FcrSt) : (s.setFcr f).cans = s.cans := rfl
@[simp] theorem State.setFcr_vault (s : State) (f : FcrSt → FcrSt) : (s.setFcr f).vault = s.vault := rfl
@[simp] theorem State.setFcr_acc (s : State) (f : FcrSt → FcrSt) : (s.setFcr f).acc = s.acc := rfl
@[simp] theorem State.setFcr_book (s : State) (f : FcrSt → FcrSt) : (s.setFcr f).book = s.book := rfl
@[simp] theorem State.setFcr_ageing (s : State) (f : FcrSt → FcrSt) : (s.setFcr f).ageing = s.ageing := rfl
@[simp] theorem State.setFcr_pac (s : State) (f : FcrSt → FcrSt) : (s.setFcr f).pac = s.pac := rfl
@[simp] theorem State.setFcr_tap (s : State) (f : FcrSt → FcrSt) : (s.setFcr f).tap = s.tap := rfl
@[simp] theorem State.setFcr_clk (s : State) (f : FcrSt → FcrSt) : (s.setFcr f).clk = s.clk := rfl
@[simp] theorem State.setFcr_sup (s : State) (f : FcrSt → FcrSt) : (s.setFcr f).sup = s.sup := rfl
@[simp] theorem State.setFcr_boot (s : State) (f : FcrSt → FcrSt) : (s.setFcr f).boot = s.boot := rfl

@[simp] theorem State.setPwr_pending (s : State) (f : PwrSt → PwrSt) : (s.setPwr f).pending = s.pending := rfl
@[simp] theorem State.setPwr_now (s : State) (f : PwrSt → PwrSt) : (s.setPwr f).now = s.now := rfl
@[simp] theorem State.setPwr_splitZero (s : State) (f : PwrSt → PwrSt) : (s.setPwr f).splitZero = s.splitZero := rfl
@[simp] theorem State.setPwr_fresh (s : State) (f : PwrSt → PwrSt) : (s.setPwr f).fresh = s.fresh := rfl
@[simp] theorem State.setPwr_regs (s : State) (f : PwrSt → PwrSt) : (s.setPwr f).regs = s.regs := rfl
@[simp] theorem State.setPwr_img (s : State) (f : PwrSt → PwrSt) : (s.setPwr f).img = s.img := rfl
@[simp] theorem State.setPwr_shadow (s : State) (f : PwrSt → PwrSt) : (s.setPwr f).shadow = s.shadow := rfl
@[simp] theorem State.setPwr_cfgAct (s : State) (f : PwrSt → PwrSt) : (s.setPwr f).cfgAct = s.cfgAct := rfl
@[simp] theorem State.setPwr_mem (s : State) (f : PwrSt → PwrSt) : (s.setPwr f).mem = s.mem := rfl
@[simp] theorem State.setPwr_timers (s : State) (f : PwrSt → PwrSt) : (s.setPwr f).timers = s.timers := rfl
@[simp] theorem State.setPwr_episodes (s : State) (f : PwrSt → PwrSt) : (s.setPwr f).episodes = s.episodes := rfl
@[simp] theorem State.setPwr_lockFirst (s : State) (f : PwrSt → PwrSt) : (s.setPwr f).lockFirst = s.lockFirst := rfl
@[simp] theorem State.setPwr_resetWait (s : State) (f : PwrSt → PwrSt) : (s.setPwr f).resetWait = s.resetWait := rfl
@[simp] theorem State.setPwr_enableWait (s : State) (f : PwrSt → PwrSt) : (s.setPwr f).enableWait = s.enableWait := rfl
@[simp] theorem State.setPwr_stride (s : State) (f : PwrSt → PwrSt) : (s.setPwr f).stride = s.stride := rfl
@[simp] theorem State.setPwr_queues (s : State) (f : PwrSt → PwrSt) : (s.setPwr f).queues = s.queues := rfl
@[simp] theorem State.setPwr_latches (s : State) (f : PwrSt → PwrSt) : (s.setPwr f).latches = s.latches := rfl
@[simp] theorem State.setPwr_fcr (s : State) (f : PwrSt → PwrSt) : (s.setPwr f).fcr = s.fcr := rfl
@[simp] theorem State.setPwr_outs (s : State) (f : PwrSt → PwrSt) : (s.setPwr f).outs = s.outs := rfl
@[simp] theorem State.setPwr_valves (s : State) (f : PwrSt → PwrSt) : (s.setPwr f).valves = s.valves := rfl
@[simp] theorem State.setPwr_bridges (s : State) (f : PwrSt → PwrSt) : (s.setPwr f).bridges = s.bridges := rfl
@[simp] theorem State.setPwr_scan (s : State) (f : PwrSt → PwrSt) : (s.setPwr f).scan = s.scan := rfl
@[simp] theorem State.setPwr_seq (s : State) (f : PwrSt → PwrSt) : (s.setPwr f).seq = s.seq := rfl
@[simp] theorem State.setPwr_cal (s : State) (f : PwrSt → PwrSt) : (s.setPwr f).cal = s.cal := rfl
@[simp] theorem State.setPwr_strobes (s : State) (f : PwrSt → PwrSt) : (s.setPwr f).strobes = s.strobes := rfl
@[simp] theorem State.setPwr_dins (s : State) (f : PwrSt → PwrSt) : (s.setPwr f).dins = s.dins := rfl
@[simp] theorem State.setPwr_ahead (s : State) (f : PwrSt → PwrSt) : (s.setPwr f).ahead = s.ahead := rfl
@[simp] theorem State.setPwr_phyLines (s : State) (f : PwrSt → PwrSt) : (s.setPwr f).phyLines = s.phyLines := rfl
@[simp] theorem State.setPwr_age (s : State) (f : PwrSt → PwrSt) : (s.setPwr f).age = s.age := rfl
@[simp] theorem State.setPwr_reverseAt (s : State) (f : PwrSt → PwrSt) : (s.setPwr f).reverseAt = s.reverseAt := rfl
@[simp] theorem State.setPwr_dies (s : State) (f : PwrSt → PwrSt) : (s.setPwr f).dies = s.dies := rfl
@[simp] theorem State.setPwr_msh (s : State) (f : PwrSt → PwrSt) : (s.setPwr f).msh = s.msh := rfl
@[simp] theorem State.setPwr_tmrs (s : State) (f : PwrSt → PwrSt) : (s.setPwr f).tmrs = s.tmrs := rfl
@[simp] theorem State.setPwr_tchs (s : State) (f : PwrSt → PwrSt) : (s.setPwr f).tchs = s.tchs := rfl
@[simp] theorem State.setPwr_stg (s : State) (f : PwrSt → PwrSt) : (s.setPwr f).stg = s.stg := rfl
@[simp] theorem State.setPwr_sw (s : State) (f : PwrSt → PwrSt) : (s.setPwr f).sw = s.sw := rfl
@[simp] theorem State.setPwr_nms (s : State) (f : PwrSt → PwrSt) : (s.setPwr f).nms = s.nms := rfl
@[simp] theorem State.setPwr_ring (s : State) (f : PwrSt → PwrSt) : (s.setPwr f).ring = s.ring := rfl
@[simp] theorem State.setPwr_cans (s : State) (f : PwrSt → PwrSt) : (s.setPwr f).cans = s.cans := rfl
@[simp] theorem State.setPwr_vault (s : State) (f : PwrSt → PwrSt) : (s.setPwr f).vault = s.vault := rfl
@[simp] theorem State.setPwr_acc (s : State) (f : PwrSt → PwrSt) : (s.setPwr f).acc = s.acc := rfl
@[simp] theorem State.setPwr_book (s : State) (f : PwrSt → PwrSt) : (s.setPwr f).book = s.book := rfl
@[simp] theorem State.setPwr_ageing (s : State) (f : PwrSt → PwrSt) : (s.setPwr f).ageing = s.ageing := rfl
@[simp] theorem State.setPwr_pac (s : State) (f : PwrSt → PwrSt) : (s.setPwr f).pac = s.pac := rfl
@[simp] theorem State.setPwr_tap (s : State) (f : PwrSt → PwrSt) : (s.setPwr f).tap = s.tap := rfl
@[simp] theorem State.setPwr_clk (s : State) (f : PwrSt → PwrSt) : (s.setPwr f).clk = s.clk := rfl
@[simp] theorem State.setPwr_sup (s : State) (f : PwrSt → PwrSt) : (s.setPwr f).sup = s.sup := rfl
@[simp] theorem State.setPwr_boot (s : State) (f : PwrSt → PwrSt) : (s.setPwr f).boot = s.boot := rfl

@[simp] theorem State.setBook_pending (s : State) (f : RecSt → RecSt) : (s.setBook f).pending = s.pending := rfl
@[simp] theorem State.setBook_now (s : State) (f : RecSt → RecSt) : (s.setBook f).now = s.now := rfl
@[simp] theorem State.setBook_splitZero (s : State) (f : RecSt → RecSt) : (s.setBook f).splitZero = s.splitZero := rfl
@[simp] theorem State.setBook_fresh (s : State) (f : RecSt → RecSt) : (s.setBook f).fresh = s.fresh := rfl
@[simp] theorem State.setBook_regs (s : State) (f : RecSt → RecSt) : (s.setBook f).regs = s.regs := rfl
@[simp] theorem State.setBook_img (s : State) (f : RecSt → RecSt) : (s.setBook f).img = s.img := rfl
@[simp] theorem State.setBook_shadow (s : State) (f : RecSt → RecSt) : (s.setBook f).shadow = s.shadow := rfl
@[simp] theorem State.setBook_cfgAct (s : State) (f : RecSt → RecSt) : (s.setBook f).cfgAct = s.cfgAct := rfl
@[simp] theorem State.setBook_mem (s : State) (f : RecSt → RecSt) : (s.setBook f).mem = s.mem := rfl
@[simp] theorem State.setBook_timers (s : State) (f : RecSt → RecSt) : (s.setBook f).timers = s.timers := rfl
@[simp] theorem State.setBook_episodes (s : State) (f : RecSt → RecSt) : (s.setBook f).episodes = s.episodes := rfl
@[simp] theorem State.setBook_lockFirst (s : State) (f : RecSt → RecSt) : (s.setBook f).lockFirst = s.lockFirst := rfl
@[simp] theorem State.setBook_resetWait (s : State) (f : RecSt → RecSt) : (s.setBook f).resetWait = s.resetWait := rfl
@[simp] theorem State.setBook_enableWait (s : State) (f : RecSt → RecSt) : (s.setBook f).enableWait = s.enableWait := rfl
@[simp] theorem State.setBook_stride (s : State) (f : RecSt → RecSt) : (s.setBook f).stride = s.stride := rfl
@[simp] theorem State.setBook_queues (s : State) (f : RecSt → RecSt) : (s.setBook f).queues = s.queues := rfl
@[simp] theorem State.setBook_latches (s : State) (f : RecSt → RecSt) : (s.setBook f).latches = s.latches := rfl
@[simp] theorem State.setBook_fcr (s : State) (f : RecSt → RecSt) : (s.setBook f).fcr = s.fcr := rfl
@[simp] theorem State.setBook_outs (s : State) (f : RecSt → RecSt) : (s.setBook f).outs = s.outs := rfl
@[simp] theorem State.setBook_valves (s : State) (f : RecSt → RecSt) : (s.setBook f).valves = s.valves := rfl
@[simp] theorem State.setBook_bridges (s : State) (f : RecSt → RecSt) : (s.setBook f).bridges = s.bridges := rfl
@[simp] theorem State.setBook_scan (s : State) (f : RecSt → RecSt) : (s.setBook f).scan = s.scan := rfl
@[simp] theorem State.setBook_seq (s : State) (f : RecSt → RecSt) : (s.setBook f).seq = s.seq := rfl
@[simp] theorem State.setBook_cal (s : State) (f : RecSt → RecSt) : (s.setBook f).cal = s.cal := rfl
@[simp] theorem State.setBook_strobes (s : State) (f : RecSt → RecSt) : (s.setBook f).strobes = s.strobes := rfl
@[simp] theorem State.setBook_dins (s : State) (f : RecSt → RecSt) : (s.setBook f).dins = s.dins := rfl
@[simp] theorem State.setBook_ahead (s : State) (f : RecSt → RecSt) : (s.setBook f).ahead = s.ahead := rfl
@[simp] theorem State.setBook_phyLines (s : State) (f : RecSt → RecSt) : (s.setBook f).phyLines = s.phyLines := rfl
@[simp] theorem State.setBook_age (s : State) (f : RecSt → RecSt) : (s.setBook f).age = s.age := rfl
@[simp] theorem State.setBook_reverseAt (s : State) (f : RecSt → RecSt) : (s.setBook f).reverseAt = s.reverseAt := rfl
@[simp] theorem State.setBook_dies (s : State) (f : RecSt → RecSt) : (s.setBook f).dies = s.dies := rfl
@[simp] theorem State.setBook_msh (s : State) (f : RecSt → RecSt) : (s.setBook f).msh = s.msh := rfl
@[simp] theorem State.setBook_tmrs (s : State) (f : RecSt → RecSt) : (s.setBook f).tmrs = s.tmrs := rfl
@[simp] theorem State.setBook_tchs (s : State) (f : RecSt → RecSt) : (s.setBook f).tchs = s.tchs := rfl
@[simp] theorem State.setBook_stg (s : State) (f : RecSt → RecSt) : (s.setBook f).stg = s.stg := rfl
@[simp] theorem State.setBook_sw (s : State) (f : RecSt → RecSt) : (s.setBook f).sw = s.sw := rfl
@[simp] theorem State.setBook_pwr (s : State) (f : RecSt → RecSt) : (s.setBook f).pwr = s.pwr := rfl
@[simp] theorem State.setBook_nms (s : State) (f : RecSt → RecSt) : (s.setBook f).nms = s.nms := rfl
@[simp] theorem State.setBook_ring (s : State) (f : RecSt → RecSt) : (s.setBook f).ring = s.ring := rfl
@[simp] theorem State.setBook_cans (s : State) (f : RecSt → RecSt) : (s.setBook f).cans = s.cans := rfl
@[simp] theorem State.setBook_vault (s : State) (f : RecSt → RecSt) : (s.setBook f).vault = s.vault := rfl
@[simp] theorem State.setBook_acc (s : State) (f : RecSt → RecSt) : (s.setBook f).acc = s.acc := rfl
@[simp] theorem State.setBook_ageing (s : State) (f : RecSt → RecSt) : (s.setBook f).ageing = s.ageing := rfl
@[simp] theorem State.setBook_pac (s : State) (f : RecSt → RecSt) : (s.setBook f).pac = s.pac := rfl
@[simp] theorem State.setBook_tap (s : State) (f : RecSt → RecSt) : (s.setBook f).tap = s.tap := rfl
@[simp] theorem State.setBook_clk (s : State) (f : RecSt → RecSt) : (s.setBook f).clk = s.clk := rfl
@[simp] theorem State.setBook_sup (s : State) (f : RecSt → RecSt) : (s.setBook f).sup = s.sup := rfl
@[simp] theorem State.setBook_boot (s : State) (f : RecSt → RecSt) : (s.setBook f).boot = s.boot := rfl

@[simp] theorem State.setNm_pending (s : State) (x : Nat) (f : NmSt → NmSt) : (s.setNm x f).pending = s.pending := rfl
@[simp] theorem State.setNm_now (s : State) (x : Nat) (f : NmSt → NmSt) : (s.setNm x f).now = s.now := rfl
@[simp] theorem State.setNm_splitZero (s : State) (x : Nat) (f : NmSt → NmSt) : (s.setNm x f).splitZero = s.splitZero := rfl
@[simp] theorem State.setNm_fresh (s : State) (x : Nat) (f : NmSt → NmSt) : (s.setNm x f).fresh = s.fresh := rfl
@[simp] theorem State.setNm_regs (s : State) (x : Nat) (f : NmSt → NmSt) : (s.setNm x f).regs = s.regs := rfl
@[simp] theorem State.setNm_img (s : State) (x : Nat) (f : NmSt → NmSt) : (s.setNm x f).img = s.img := rfl
@[simp] theorem State.setNm_shadow (s : State) (x : Nat) (f : NmSt → NmSt) : (s.setNm x f).shadow = s.shadow := rfl
@[simp] theorem State.setNm_cfgAct (s : State) (x : Nat) (f : NmSt → NmSt) : (s.setNm x f).cfgAct = s.cfgAct := rfl
@[simp] theorem State.setNm_mem (s : State) (x : Nat) (f : NmSt → NmSt) : (s.setNm x f).mem = s.mem := rfl
@[simp] theorem State.setNm_timers (s : State) (x : Nat) (f : NmSt → NmSt) : (s.setNm x f).timers = s.timers := rfl
@[simp] theorem State.setNm_episodes (s : State) (x : Nat) (f : NmSt → NmSt) : (s.setNm x f).episodes = s.episodes := rfl
@[simp] theorem State.setNm_lockFirst (s : State) (x : Nat) (f : NmSt → NmSt) : (s.setNm x f).lockFirst = s.lockFirst := rfl
@[simp] theorem State.setNm_resetWait (s : State) (x : Nat) (f : NmSt → NmSt) : (s.setNm x f).resetWait = s.resetWait := rfl
@[simp] theorem State.setNm_enableWait (s : State) (x : Nat) (f : NmSt → NmSt) : (s.setNm x f).enableWait = s.enableWait := rfl
@[simp] theorem State.setNm_stride (s : State) (x : Nat) (f : NmSt → NmSt) : (s.setNm x f).stride = s.stride := rfl
@[simp] theorem State.setNm_queues (s : State) (x : Nat) (f : NmSt → NmSt) : (s.setNm x f).queues = s.queues := rfl
@[simp] theorem State.setNm_latches (s : State) (x : Nat) (f : NmSt → NmSt) : (s.setNm x f).latches = s.latches := rfl
@[simp] theorem State.setNm_fcr (s : State) (x : Nat) (f : NmSt → NmSt) : (s.setNm x f).fcr = s.fcr := rfl
@[simp] theorem State.setNm_outs (s : State) (x : Nat) (f : NmSt → NmSt) : (s.setNm x f).outs = s.outs := rfl
@[simp] theorem State.setNm_valves (s : State) (x : Nat) (f : NmSt → NmSt) : (s.setNm x f).valves = s.valves := rfl
@[simp] theorem State.setNm_bridges (s : State) (x : Nat) (f : NmSt → NmSt) : (s.setNm x f).bridges = s.bridges := rfl
@[simp] theorem State.setNm_scan (s : State) (x : Nat) (f : NmSt → NmSt) : (s.setNm x f).scan = s.scan := rfl
@[simp] theorem State.setNm_seq (s : State) (x : Nat) (f : NmSt → NmSt) : (s.setNm x f).seq = s.seq := rfl
@[simp] theorem State.setNm_cal (s : State) (x : Nat) (f : NmSt → NmSt) : (s.setNm x f).cal = s.cal := rfl
@[simp] theorem State.setNm_strobes (s : State) (x : Nat) (f : NmSt → NmSt) : (s.setNm x f).strobes = s.strobes := rfl
@[simp] theorem State.setNm_dins (s : State) (x : Nat) (f : NmSt → NmSt) : (s.setNm x f).dins = s.dins := rfl
@[simp] theorem State.setNm_ahead (s : State) (x : Nat) (f : NmSt → NmSt) : (s.setNm x f).ahead = s.ahead := rfl
@[simp] theorem State.setNm_phyLines (s : State) (x : Nat) (f : NmSt → NmSt) : (s.setNm x f).phyLines = s.phyLines := rfl
@[simp] theorem State.setNm_age (s : State) (x : Nat) (f : NmSt → NmSt) : (s.setNm x f).age = s.age := rfl
@[simp] theorem State.setNm_reverseAt (s : State) (x : Nat) (f : NmSt → NmSt) : (s.setNm x f).reverseAt = s.reverseAt := rfl
@[simp] theorem State.setNm_dies (s : State) (x : Nat) (f : NmSt → NmSt) : (s.setNm x f).dies = s.dies := rfl
@[simp] theorem State.setNm_msh (s : State) (x : Nat) (f : NmSt → NmSt) : (s.setNm x f).msh = s.msh := rfl
@[simp] theorem State.setNm_tmrs (s : State) (x : Nat) (f : NmSt → NmSt) : (s.setNm x f).tmrs = s.tmrs := rfl
@[simp] theorem State.setNm_tchs (s : State) (x : Nat) (f : NmSt → NmSt) : (s.setNm x f).tchs = s.tchs := rfl
@[simp] theorem State.setNm_stg (s : State) (x : Nat) (f : NmSt → NmSt) : (s.setNm x f).stg = s.stg := rfl
@[simp] theorem State.setNm_sw (s : State) (x : Nat) (f : NmSt → NmSt) : (s.setNm x f).sw = s.sw := rfl
@[simp] theorem State.setNm_pwr (s : State) (x : Nat) (f : NmSt → NmSt) : (s.setNm x f).pwr = s.pwr := rfl
@[simp] theorem State.setNm_ring (s : State) (x : Nat) (f : NmSt → NmSt) : (s.setNm x f).ring = s.ring := rfl
@[simp] theorem State.setNm_cans (s : State) (x : Nat) (f : NmSt → NmSt) : (s.setNm x f).cans = s.cans := rfl
@[simp] theorem State.setNm_vault (s : State) (x : Nat) (f : NmSt → NmSt) : (s.setNm x f).vault = s.vault := rfl
@[simp] theorem State.setNm_acc (s : State) (x : Nat) (f : NmSt → NmSt) : (s.setNm x f).acc = s.acc := rfl
@[simp] theorem State.setNm_book (s : State) (x : Nat) (f : NmSt → NmSt) : (s.setNm x f).book = s.book := rfl
@[simp] theorem State.setNm_ageing (s : State) (x : Nat) (f : NmSt → NmSt) : (s.setNm x f).ageing = s.ageing := rfl
@[simp] theorem State.setNm_pac (s : State) (x : Nat) (f : NmSt → NmSt) : (s.setNm x f).pac = s.pac := rfl
@[simp] theorem State.setNm_tap (s : State) (x : Nat) (f : NmSt → NmSt) : (s.setNm x f).tap = s.tap := rfl
@[simp] theorem State.setNm_clk (s : State) (x : Nat) (f : NmSt → NmSt) : (s.setNm x f).clk = s.clk := rfl
@[simp] theorem State.setNm_sup (s : State) (x : Nat) (f : NmSt → NmSt) : (s.setNm x f).sup = s.sup := rfl
@[simp] theorem State.setNm_boot (s : State) (x : Nat) (f : NmSt → NmSt) : (s.setNm x f).boot = s.boot := rfl

@[simp] theorem State.setStride_pending (s : State) (f : StrideSt → StrideSt) : (s.setStride f).pending = s.pending := rfl
@[simp] theorem State.setStride_now (s : State) (f : StrideSt → StrideSt) : (s.setStride f).now = s.now := rfl
@[simp] theorem State.setStride_splitZero (s : State) (f : StrideSt → StrideSt) : (s.setStride f).splitZero = s.splitZero := rfl
@[simp] theorem State.setStride_fresh (s : State) (f : StrideSt → StrideSt) : (s.setStride f).fresh = s.fresh := rfl
@[simp] theorem State.setStride_regs (s : State) (f : StrideSt → StrideSt) : (s.setStride f).regs = s.regs := rfl
@[simp] theorem State.setStride_img (s : State) (f : StrideSt → StrideSt) : (s.setStride f).img = s.img := rfl
@[simp] theorem State.setStride_shadow (s : State) (f : StrideSt → StrideSt) : (s.setStride f).shadow = s.shadow := rfl
@[simp] theorem State.setStride_cfgAct (s : State) (f : StrideSt → StrideSt) : (s.setStride f).cfgAct = s.cfgAct := rfl
@[simp] theorem State.setStride_mem (s : State) (f : StrideSt → StrideSt) : (s.setStride f).mem = s.mem := rfl
@[simp] theorem State.setStride_timers (s : State) (f : StrideSt → StrideSt) : (s.setStride f).timers = s.timers := rfl
@[simp] theorem State.setStride_episodes (s : State) (f : StrideSt → StrideSt) : (s.setStride f).episodes = s.episodes := rfl
@[simp] theorem State.setStride_lockFirst (s : State) (f : StrideSt → StrideSt) : (s.setStride f).lockFirst = s.lockFirst := rfl
@[simp] theorem State.setStride_resetWait (s : State) (f : StrideSt → StrideSt) : (s.setStride f).resetWait = s.resetWait := rfl
@[simp] theorem State.setStride_enableWait (s : State) (f : StrideSt → StrideSt) : (s.setStride f).enableWait = s.enableWait := rfl
@[simp] theorem State.setStride_queues (s : State) (f : StrideSt → StrideSt) : (s.setStride f).queues = s.queues := rfl
@[simp] theorem State.setStride_latches (s : State) (f : StrideSt → StrideSt) : (s.setStride f).latches = s.latches := rfl
@[simp] theorem State.setStride_fcr (s : State) (f : StrideSt → StrideSt) : (s.setStride f).fcr = s.fcr := rfl
@[simp] theorem State.setStride_outs (s : State) (f : StrideSt → StrideSt) : (s.setStride f).outs = s.outs := rfl
@[simp] theorem State.setStride_valves (s : State) (f : StrideSt → StrideSt) : (s.setStride f).valves = s.valves := rfl
@[simp] theorem State.setStride_bridges (s : State) (f : StrideSt → StrideSt) : (s.setStride f).bridges = s.bridges := rfl
@[simp] theorem State.setStride_scan (s : State) (f : StrideSt → StrideSt) : (s.setStride f).scan = s.scan := rfl
@[simp] theorem State.setStride_seq (s : State) (f : StrideSt → StrideSt) : (s.setStride f).seq = s.seq := rfl
@[simp] theorem State.setStride_cal (s : State) (f : StrideSt → StrideSt) : (s.setStride f).cal = s.cal := rfl
@[simp] theorem State.setStride_strobes (s : State) (f : StrideSt → StrideSt) : (s.setStride f).strobes = s.strobes := rfl
@[simp] theorem State.setStride_dins (s : State) (f : StrideSt → StrideSt) : (s.setStride f).dins = s.dins := rfl
@[simp] theorem State.setStride_ahead (s : State) (f : StrideSt → StrideSt) : (s.setStride f).ahead = s.ahead := rfl
@[simp] theorem State.setStride_phyLines (s : State) (f : StrideSt → StrideSt) : (s.setStride f).phyLines = s.phyLines := rfl
@[simp] theorem State.setStride_age (s : State) (f : StrideSt → StrideSt) : (s.setStride f).age = s.age := rfl
@[simp] theorem State.setStride_reverseAt (s : State) (f : StrideSt → StrideSt) : (s.setStride f).reverseAt = s.reverseAt := rfl
@[simp] theorem State.setStride_dies (s : State) (f : StrideSt → StrideSt) : (s.setStride f).dies = s.dies := rfl
@[simp] theorem State.setStride_msh (s : State) (f : StrideSt → StrideSt) : (s.setStride f).msh = s.msh := rfl
@[simp] theorem State.setStride_tmrs (s : State) (f : StrideSt → StrideSt) : (s.setStride f).tmrs = s.tmrs := rfl
@[simp] theorem State.setStride_tchs (s : State) (f : StrideSt → StrideSt) : (s.setStride f).tchs = s.tchs := rfl
@[simp] theorem State.setStride_stg (s : State) (f : StrideSt → StrideSt) : (s.setStride f).stg = s.stg := rfl
@[simp] theorem State.setStride_sw (s : State) (f : StrideSt → StrideSt) : (s.setStride f).sw = s.sw := rfl
@[simp] theorem State.setStride_pwr (s : State) (f : StrideSt → StrideSt) : (s.setStride f).pwr = s.pwr := rfl
@[simp] theorem State.setStride_nms (s : State) (f : StrideSt → StrideSt) : (s.setStride f).nms = s.nms := rfl
@[simp] theorem State.setStride_ring (s : State) (f : StrideSt → StrideSt) : (s.setStride f).ring = s.ring := rfl
@[simp] theorem State.setStride_cans (s : State) (f : StrideSt → StrideSt) : (s.setStride f).cans = s.cans := rfl
@[simp] theorem State.setStride_vault (s : State) (f : StrideSt → StrideSt) : (s.setStride f).vault = s.vault := rfl
@[simp] theorem State.setStride_acc (s : State) (f : StrideSt → StrideSt) : (s.setStride f).acc = s.acc := rfl
@[simp] theorem State.setStride_book (s : State) (f : StrideSt → StrideSt) : (s.setStride f).book = s.book := rfl
@[simp] theorem State.setStride_ageing (s : State) (f : StrideSt → StrideSt) : (s.setStride f).ageing = s.ageing := rfl
@[simp] theorem State.setStride_pac (s : State) (f : StrideSt → StrideSt) : (s.setStride f).pac = s.pac := rfl
@[simp] theorem State.setStride_tap (s : State) (f : StrideSt → StrideSt) : (s.setStride f).tap = s.tap := rfl
@[simp] theorem State.setStride_clk (s : State) (f : StrideSt → StrideSt) : (s.setStride f).clk = s.clk := rfl
@[simp] theorem State.setStride_sup (s : State) (f : StrideSt → StrideSt) : (s.setStride f).sup = s.sup := rfl
@[simp] theorem State.setStride_boot (s : State) (f : StrideSt → StrideSt) : (s.setStride f).boot = s.boot := rfl

@[simp] theorem State.setSup_pending (s : State) (f : SupSt → SupSt) : (s.setSup f).pending = s.pending := rfl
@[simp] theorem State.setSup_now (s : State) (f : SupSt → SupSt) : (s.setSup f).now = s.now := rfl
@[simp] theorem State.setSup_splitZero (s : State) (f : SupSt → SupSt) : (s.setSup f).splitZero = s.splitZero := rfl
@[simp] theorem State.setSup_fresh (s : State) (f : SupSt → SupSt) : (s.setSup f).fresh = s.fresh := rfl
@[simp] theorem State.setSup_regs (s : State) (f : SupSt → SupSt) : (s.setSup f).regs = s.regs := rfl
@[simp] theorem State.setSup_img (s : State) (f : SupSt → SupSt) : (s.setSup f).img = s.img := rfl
@[simp] theorem State.setSup_shadow (s : State) (f : SupSt → SupSt) : (s.setSup f).shadow = s.shadow := rfl
@[simp] theorem State.setSup_cfgAct (s : State) (f : SupSt → SupSt) : (s.setSup f).cfgAct = s.cfgAct := rfl
@[simp] theorem State.setSup_mem (s : State) (f : SupSt → SupSt) : (s.setSup f).mem = s.mem := rfl
@[simp] theorem State.setSup_timers (s : State) (f : SupSt → SupSt) : (s.setSup f).timers = s.timers := rfl
@[simp] theorem State.setSup_episodes (s : State) (f : SupSt → SupSt) : (s.setSup f).episodes = s.episodes := rfl
@[simp] theorem State.setSup_lockFirst (s : State) (f : SupSt → SupSt) : (s.setSup f).lockFirst = s.lockFirst := rfl
@[simp] theorem State.setSup_resetWait (s : State) (f : SupSt → SupSt) : (s.setSup f).resetWait = s.resetWait := rfl
@[simp] theorem State.setSup_enableWait (s : State) (f : SupSt → SupSt) : (s.setSup f).enableWait = s.enableWait := rfl
@[simp] theorem State.setSup_stride (s : State) (f : SupSt → SupSt) : (s.setSup f).stride = s.stride := rfl
@[simp] theorem State.setSup_queues (s : State) (f : SupSt → SupSt) : (s.setSup f).queues = s.queues := rfl
@[simp] theorem State.setSup_latches (s : State) (f : SupSt → SupSt) : (s.setSup f).latches = s.latches := rfl
@[simp] theorem State.setSup_fcr (s : State) (f : SupSt → SupSt) : (s.setSup f).fcr = s.fcr := rfl
@[simp] theorem State.setSup_outs (s : State) (f : SupSt → SupSt) : (s.setSup f).outs = s.outs := rfl
@[simp] theorem State.setSup_valves (s : State) (f : SupSt → SupSt) : (s.setSup f).valves = s.valves := rfl
@[simp] theorem State.setSup_bridges (s : State) (f : SupSt → SupSt) : (s.setSup f).bridges = s.bridges := rfl
@[simp] theorem State.setSup_scan (s : State) (f : SupSt → SupSt) : (s.setSup f).scan = s.scan := rfl
@[simp] theorem State.setSup_seq (s : State) (f : SupSt → SupSt) : (s.setSup f).seq = s.seq := rfl
@[simp] theorem State.setSup_cal (s : State) (f : SupSt → SupSt) : (s.setSup f).cal = s.cal := rfl
@[simp] theorem State.setSup_strobes (s : State) (f : SupSt → SupSt) : (s.setSup f).strobes = s.strobes := rfl
@[simp] theorem State.setSup_dins (s : State) (f : SupSt → SupSt) : (s.setSup f).dins = s.dins := rfl
@[simp] theorem State.setSup_ahead (s : State) (f : SupSt → SupSt) : (s.setSup f).ahead = s.ahead := rfl
@[simp] theorem State.setSup_phyLines (s : State) (f : SupSt → SupSt) : (s.setSup f).phyLines = s.phyLines := rfl
@[simp] theorem State.setSup_age (s : State) (f : SupSt → SupSt) : (s.setSup f).age = s.age := rfl
@[simp] theorem State.setSup_reverseAt (s : State) (f : SupSt → SupSt) : (s.setSup f).reverseAt = s.reverseAt := rfl
@[simp] theorem State.setSup_dies (s : State) (f : SupSt → SupSt) : (s.setSup f).dies = s.dies := rfl
@[simp] theorem State.setSup_msh (s : State) (f : SupSt → SupSt) : (s.setSup f).msh = s.msh := rfl
@[simp] theorem State.setSup_tmrs (s : State) (f : SupSt → SupSt) : (s.setSup f).tmrs = s.tmrs := rfl
@[simp] theorem State.setSup_tchs (s : State) (f : SupSt → SupSt) : (s.setSup f).tchs = s.tchs := rfl
@[simp] theorem State.setSup_stg (s : State) (f : SupSt → SupSt) : (s.setSup f).stg = s.stg := rfl
@[simp] theorem State.setSup_sw (s : State) (f : SupSt → SupSt) : (s.setSup f).sw = s.sw := rfl
@[simp] theorem State.setSup_pwr (s : State) (f : SupSt → SupSt) : (s.setSup f).pwr = s.pwr := rfl
@[simp] theorem State.setSup_nms (s : State) (f : SupSt → SupSt) : (s.setSup f).nms = s.nms := rfl
@[simp] theorem State.setSup_ring (s : State) (f : SupSt → SupSt) : (s.setSup f).ring = s.ring := rfl
@[simp] theorem State.setSup_cans (s : State) (f : SupSt → SupSt) : (s.setSup f).cans = s.cans := rfl
@[simp] theorem State.setSup_vault (s : State) (f : SupSt → SupSt) : (s.setSup f).vault = s.vault := rfl
@[simp] theorem State.setSup_acc (s : State) (f : SupSt → SupSt) : (s.setSup f).acc = s.acc := rfl
@[simp] theorem State.setSup_book (s : State) (f : SupSt → SupSt) : (s.setSup f).book = s.book := rfl
@[simp] theorem State.setSup_ageing (s : State) (f : SupSt → SupSt) : (s.setSup f).ageing = s.ageing := rfl
@[simp] theorem State.setSup_pac (s : State) (f : SupSt → SupSt) : (s.setSup f).pac = s.pac := rfl
@[simp] theorem State.setSup_tap (s : State) (f : SupSt → SupSt) : (s.setSup f).tap = s.tap := rfl
@[simp] theorem State.setSup_clk (s : State) (f : SupSt → SupSt) : (s.setSup f).clk = s.clk := rfl
@[simp] theorem State.setSup_boot (s : State) (f : SupSt → SupSt) : (s.setSup f).boot = s.boot := rfl

@[simp] theorem State.setPort_pending (s : State) (p : Nat) (f : PortSt → PortSt) : (s.setPort p f).pending = s.pending := rfl
@[simp] theorem State.setPort_now (s : State) (p : Nat) (f : PortSt → PortSt) : (s.setPort p f).now = s.now := rfl
@[simp] theorem State.setPort_splitZero (s : State) (p : Nat) (f : PortSt → PortSt) : (s.setPort p f).splitZero = s.splitZero := rfl
@[simp] theorem State.setPort_fresh (s : State) (p : Nat) (f : PortSt → PortSt) : (s.setPort p f).fresh = s.fresh := rfl
@[simp] theorem State.setPort_regs (s : State) (p : Nat) (f : PortSt → PortSt) : (s.setPort p f).regs = s.regs := rfl
@[simp] theorem State.setPort_img (s : State) (p : Nat) (f : PortSt → PortSt) : (s.setPort p f).img = s.img := rfl
@[simp] theorem State.setPort_shadow (s : State) (p : Nat) (f : PortSt → PortSt) : (s.setPort p f).shadow = s.shadow := rfl
@[simp] theorem State.setPort_cfgAct (s : State) (p : Nat) (f : PortSt → PortSt) : (s.setPort p f).cfgAct = s.cfgAct := rfl
@[simp] theorem State.setPort_mem (s : State) (p : Nat) (f : PortSt → PortSt) : (s.setPort p f).mem = s.mem := rfl
@[simp] theorem State.setPort_timers (s : State) (p : Nat) (f : PortSt → PortSt) : (s.setPort p f).timers = s.timers := rfl
@[simp] theorem State.setPort_episodes (s : State) (p : Nat) (f : PortSt → PortSt) : (s.setPort p f).episodes = s.episodes := rfl
@[simp] theorem State.setPort_lockFirst (s : State) (p : Nat) (f : PortSt → PortSt) : (s.setPort p f).lockFirst = s.lockFirst := rfl
@[simp] theorem State.setPort_resetWait (s : State) (p : Nat) (f : PortSt → PortSt) : (s.setPort p f).resetWait = s.resetWait := rfl
@[simp] theorem State.setPort_enableWait (s : State) (p : Nat) (f : PortSt → PortSt) : (s.setPort p f).enableWait = s.enableWait := rfl
@[simp] theorem State.setPort_stride (s : State) (p : Nat) (f : PortSt → PortSt) : (s.setPort p f).stride = s.stride := rfl
@[simp] theorem State.setPort_queues (s : State) (p : Nat) (f : PortSt → PortSt) : (s.setPort p f).queues = s.queues := rfl
@[simp] theorem State.setPort_latches (s : State) (p : Nat) (f : PortSt → PortSt) : (s.setPort p f).latches = s.latches := rfl
@[simp] theorem State.setPort_fcr (s : State) (p : Nat) (f : PortSt → PortSt) : (s.setPort p f).fcr = s.fcr := rfl
@[simp] theorem State.setPort_outs (s : State) (p : Nat) (f : PortSt → PortSt) : (s.setPort p f).outs = s.outs := rfl
@[simp] theorem State.setPort_valves (s : State) (p : Nat) (f : PortSt → PortSt) : (s.setPort p f).valves = s.valves := rfl
@[simp] theorem State.setPort_bridges (s : State) (p : Nat) (f : PortSt → PortSt) : (s.setPort p f).bridges = s.bridges := rfl
@[simp] theorem State.setPort_scan (s : State) (p : Nat) (f : PortSt → PortSt) : (s.setPort p f).scan = s.scan := rfl
@[simp] theorem State.setPort_seq (s : State) (p : Nat) (f : PortSt → PortSt) : (s.setPort p f).seq = s.seq := rfl
@[simp] theorem State.setPort_cal (s : State) (p : Nat) (f : PortSt → PortSt) : (s.setPort p f).cal = s.cal := rfl
@[simp] theorem State.setPort_strobes (s : State) (p : Nat) (f : PortSt → PortSt) : (s.setPort p f).strobes = s.strobes := rfl
@[simp] theorem State.setPort_dins (s : State) (p : Nat) (f : PortSt → PortSt) : (s.setPort p f).dins = s.dins := rfl
@[simp] theorem State.setPort_ahead (s : State) (p : Nat) (f : PortSt → PortSt) : (s.setPort p f).ahead = s.ahead := rfl
@[simp] theorem State.setPort_phyLines (s : State) (p : Nat) (f : PortSt → PortSt) : (s.setPort p f).phyLines = s.phyLines := rfl
@[simp] theorem State.setPort_age (s : State) (p : Nat) (f : PortSt → PortSt) : (s.setPort p f).age = s.age := rfl
@[simp] theorem State.setPort_reverseAt (s : State) (p : Nat) (f : PortSt → PortSt) : (s.setPort p f).reverseAt = s.reverseAt := rfl
@[simp] theorem State.setPort_dies (s : State) (p : Nat) (f : PortSt → PortSt) : (s.setPort p f).dies = s.dies := rfl
@[simp] theorem State.setPort_msh (s : State) (p : Nat) (f : PortSt → PortSt) : (s.setPort p f).msh = s.msh := rfl
@[simp] theorem State.setPort_tmrs (s : State) (p : Nat) (f : PortSt → PortSt) : (s.setPort p f).tmrs = s.tmrs := rfl
@[simp] theorem State.setPort_tchs (s : State) (p : Nat) (f : PortSt → PortSt) : (s.setPort p f).tchs = s.tchs := rfl
@[simp] theorem State.setPort_stg (s : State) (p : Nat) (f : PortSt → PortSt) : (s.setPort p f).stg = s.stg := rfl
@[simp] theorem State.setPort_pwr (s : State) (p : Nat) (f : PortSt → PortSt) : (s.setPort p f).pwr = s.pwr := rfl
@[simp] theorem State.setPort_nms (s : State) (p : Nat) (f : PortSt → PortSt) : (s.setPort p f).nms = s.nms := rfl
@[simp] theorem State.setPort_ring (s : State) (p : Nat) (f : PortSt → PortSt) : (s.setPort p f).ring = s.ring := rfl
@[simp] theorem State.setPort_cans (s : State) (p : Nat) (f : PortSt → PortSt) : (s.setPort p f).cans = s.cans := rfl
@[simp] theorem State.setPort_vault (s : State) (p : Nat) (f : PortSt → PortSt) : (s.setPort p f).vault = s.vault := rfl
@[simp] theorem State.setPort_acc (s : State) (p : Nat) (f : PortSt → PortSt) : (s.setPort p f).acc = s.acc := rfl
@[simp] theorem State.setPort_book (s : State) (p : Nat) (f : PortSt → PortSt) : (s.setPort p f).book = s.book := rfl
@[simp] theorem State.setPort_ageing (s : State) (p : Nat) (f : PortSt → PortSt) : (s.setPort p f).ageing = s.ageing := rfl
@[simp] theorem State.setPort_pac (s : State) (p : Nat) (f : PortSt → PortSt) : (s.setPort p f).pac = s.pac := rfl
@[simp] theorem State.setPort_tap (s : State) (p : Nat) (f : PortSt → PortSt) : (s.setPort p f).tap = s.tap := rfl
@[simp] theorem State.setPort_clk (s : State) (p : Nat) (f : PortSt → PortSt) : (s.setPort p f).clk = s.clk := rfl
@[simp] theorem State.setPort_sup (s : State) (p : Nat) (f : PortSt → PortSt) : (s.setPort p f).sup = s.sup := rfl
@[simp] theorem State.setPort_boot (s : State) (p : Nat) (f : PortSt → PortSt) : (s.setPort p f).boot = s.boot := rfl

@[simp] theorem State.setStream_pending (s : State) (i : Nat) (f : SflEnt → SflEnt) : (s.setStream i f).pending = s.pending := rfl
@[simp] theorem State.setStream_now (s : State) (i : Nat) (f : SflEnt → SflEnt) : (s.setStream i f).now = s.now := rfl
@[simp] theorem State.setStream_splitZero (s : State) (i : Nat) (f : SflEnt → SflEnt) : (s.setStream i f).splitZero = s.splitZero := rfl
@[simp] theorem State.setStream_fresh (s : State) (i : Nat) (f : SflEnt → SflEnt) : (s.setStream i f).fresh = s.fresh := rfl
@[simp] theorem State.setStream_regs (s : State) (i : Nat) (f : SflEnt → SflEnt) : (s.setStream i f).regs = s.regs := rfl
@[simp] theorem State.setStream_img (s : State) (i : Nat) (f : SflEnt → SflEnt) : (s.setStream i f).img = s.img := rfl
@[simp] theorem State.setStream_shadow (s : State) (i : Nat) (f : SflEnt → SflEnt) : (s.setStream i f).shadow = s.shadow := rfl
@[simp] theorem State.setStream_cfgAct (s : State) (i : Nat) (f : SflEnt → SflEnt) : (s.setStream i f).cfgAct = s.cfgAct := rfl
@[simp] theorem State.setStream_mem (s : State) (i : Nat) (f : SflEnt → SflEnt) : (s.setStream i f).mem = s.mem := rfl
@[simp] theorem State.setStream_timers (s : State) (i : Nat) (f : SflEnt → SflEnt) : (s.setStream i f).timers = s.timers := rfl
@[simp] theorem State.setStream_episodes (s : State) (i : Nat) (f : SflEnt → SflEnt) : (s.setStream i f).episodes = s.episodes := rfl
@[simp] theorem State.setStream_lockFirst (s : State) (i : Nat) (f : SflEnt → SflEnt) : (s.setStream i f).lockFirst = s.lockFirst := rfl
@[simp] theorem State.setStream_resetWait (s : State) (i : Nat) (f : SflEnt → SflEnt) : (s.setStream i f).resetWait = s.resetWait := rfl
@[simp] theorem State.setStream_enableWait (s : State) (i : Nat) (f : SflEnt → SflEnt) : (s.setStream i f).enableWait = s.enableWait := rfl
@[simp] theorem State.setStream_stride (s : State) (i : Nat) (f : SflEnt → SflEnt) : (s.setStream i f).stride = s.stride := rfl
@[simp] theorem State.setStream_queues (s : State) (i : Nat) (f : SflEnt → SflEnt) : (s.setStream i f).queues = s.queues := rfl
@[simp] theorem State.setStream_latches (s : State) (i : Nat) (f : SflEnt → SflEnt) : (s.setStream i f).latches = s.latches := rfl
@[simp] theorem State.setStream_fcr (s : State) (i : Nat) (f : SflEnt → SflEnt) : (s.setStream i f).fcr = s.fcr := rfl
@[simp] theorem State.setStream_outs (s : State) (i : Nat) (f : SflEnt → SflEnt) : (s.setStream i f).outs = s.outs := rfl
@[simp] theorem State.setStream_valves (s : State) (i : Nat) (f : SflEnt → SflEnt) : (s.setStream i f).valves = s.valves := rfl
@[simp] theorem State.setStream_bridges (s : State) (i : Nat) (f : SflEnt → SflEnt) : (s.setStream i f).bridges = s.bridges := rfl
@[simp] theorem State.setStream_scan (s : State) (i : Nat) (f : SflEnt → SflEnt) : (s.setStream i f).scan = s.scan := rfl
@[simp] theorem State.setStream_seq (s : State) (i : Nat) (f : SflEnt → SflEnt) : (s.setStream i f).seq = s.seq := rfl
@[simp] theorem State.setStream_cal (s : State) (i : Nat) (f : SflEnt → SflEnt) : (s.setStream i f).cal = s.cal := rfl
@[simp] theorem State.setStream_strobes (s : State) (i : Nat) (f : SflEnt → SflEnt) : (s.setStream i f).strobes = s.strobes := rfl
@[simp] theorem State.setStream_dins (s : State) (i : Nat) (f : SflEnt → SflEnt) : (s.setStream i f).dins = s.dins := rfl
@[simp] theorem State.setStream_ahead (s : State) (i : Nat) (f : SflEnt → SflEnt) : (s.setStream i f).ahead = s.ahead := rfl
@[simp] theorem State.setStream_phyLines (s : State) (i : Nat) (f : SflEnt → SflEnt) : (s.setStream i f).phyLines = s.phyLines := rfl
@[simp] theorem State.setStream_age (s : State) (i : Nat) (f : SflEnt → SflEnt) : (s.setStream i f).age = s.age := rfl
@[simp] theorem State.setStream_reverseAt (s : State) (i : Nat) (f : SflEnt → SflEnt) : (s.setStream i f).reverseAt = s.reverseAt := rfl
@[simp] theorem State.setStream_dies (s : State) (i : Nat) (f : SflEnt → SflEnt) : (s.setStream i f).dies = s.dies := rfl
@[simp] theorem State.setStream_msh (s : State) (i : Nat) (f : SflEnt → SflEnt) : (s.setStream i f).msh = s.msh := rfl
@[simp] theorem State.setStream_tmrs (s : State) (i : Nat) (f : SflEnt → SflEnt) : (s.setStream i f).tmrs = s.tmrs := rfl
@[simp] theorem State.setStream_tchs (s : State) (i : Nat) (f : SflEnt → SflEnt) : (s.setStream i f).tchs = s.tchs := rfl
@[simp] theorem State.setStream_stg (s : State) (i : Nat) (f : SflEnt → SflEnt) : (s.setStream i f).stg = s.stg := rfl
@[simp] theorem State.setStream_pwr (s : State) (i : Nat) (f : SflEnt → SflEnt) : (s.setStream i f).pwr = s.pwr := rfl
@[simp] theorem State.setStream_nms (s : State) (i : Nat) (f : SflEnt → SflEnt) : (s.setStream i f).nms = s.nms := rfl
@[simp] theorem State.setStream_ring (s : State) (i : Nat) (f : SflEnt → SflEnt) : (s.setStream i f).ring = s.ring := rfl
@[simp] theorem State.setStream_cans (s : State) (i : Nat) (f : SflEnt → SflEnt) : (s.setStream i f).cans = s.cans := rfl
@[simp] theorem State.setStream_vault (s : State) (i : Nat) (f : SflEnt → SflEnt) : (s.setStream i f).vault = s.vault := rfl
@[simp] theorem State.setStream_acc (s : State) (i : Nat) (f : SflEnt → SflEnt) : (s.setStream i f).acc = s.acc := rfl
@[simp] theorem State.setStream_book (s : State) (i : Nat) (f : SflEnt → SflEnt) : (s.setStream i f).book = s.book := rfl
@[simp] theorem State.setStream_ageing (s : State) (i : Nat) (f : SflEnt → SflEnt) : (s.setStream i f).ageing = s.ageing := rfl
@[simp] theorem State.setStream_pac (s : State) (i : Nat) (f : SflEnt → SflEnt) : (s.setStream i f).pac = s.pac := rfl
@[simp] theorem State.setStream_tap (s : State) (i : Nat) (f : SflEnt → SflEnt) : (s.setStream i f).tap = s.tap := rfl
@[simp] theorem State.setStream_clk (s : State) (i : Nat) (f : SflEnt → SflEnt) : (s.setStream i f).clk = s.clk := rfl
@[simp] theorem State.setStream_sup (s : State) (i : Nat) (f : SflEnt → SflEnt) : (s.setStream i f).sup = s.sup := rfl
@[simp] theorem State.setStream_boot (s : State) (i : Nat) (f : SflEnt → SflEnt) : (s.setStream i f).boot = s.boot := rfl

@[simp] theorem State.setTas_pending (s : State) (p : Nat) (f : TasSt → TasSt) : (s.setTas p f).pending = s.pending := rfl
@[simp] theorem State.setTas_now (s : State) (p : Nat) (f : TasSt → TasSt) : (s.setTas p f).now = s.now := rfl
@[simp] theorem State.setTas_splitZero (s : State) (p : Nat) (f : TasSt → TasSt) : (s.setTas p f).splitZero = s.splitZero := rfl
@[simp] theorem State.setTas_fresh (s : State) (p : Nat) (f : TasSt → TasSt) : (s.setTas p f).fresh = s.fresh := rfl
@[simp] theorem State.setTas_regs (s : State) (p : Nat) (f : TasSt → TasSt) : (s.setTas p f).regs = s.regs := rfl
@[simp] theorem State.setTas_img (s : State) (p : Nat) (f : TasSt → TasSt) : (s.setTas p f).img = s.img := rfl
@[simp] theorem State.setTas_shadow (s : State) (p : Nat) (f : TasSt → TasSt) : (s.setTas p f).shadow = s.shadow := rfl
@[simp] theorem State.setTas_cfgAct (s : State) (p : Nat) (f : TasSt → TasSt) : (s.setTas p f).cfgAct = s.cfgAct := rfl
@[simp] theorem State.setTas_mem (s : State) (p : Nat) (f : TasSt → TasSt) : (s.setTas p f).mem = s.mem := rfl
@[simp] theorem State.setTas_timers (s : State) (p : Nat) (f : TasSt → TasSt) : (s.setTas p f).timers = s.timers := rfl
@[simp] theorem State.setTas_episodes (s : State) (p : Nat) (f : TasSt → TasSt) : (s.setTas p f).episodes = s.episodes := rfl
@[simp] theorem State.setTas_lockFirst (s : State) (p : Nat) (f : TasSt → TasSt) : (s.setTas p f).lockFirst = s.lockFirst := rfl
@[simp] theorem State.setTas_resetWait (s : State) (p : Nat) (f : TasSt → TasSt) : (s.setTas p f).resetWait = s.resetWait := rfl
@[simp] theorem State.setTas_enableWait (s : State) (p : Nat) (f : TasSt → TasSt) : (s.setTas p f).enableWait = s.enableWait := rfl
@[simp] theorem State.setTas_stride (s : State) (p : Nat) (f : TasSt → TasSt) : (s.setTas p f).stride = s.stride := rfl
@[simp] theorem State.setTas_queues (s : State) (p : Nat) (f : TasSt → TasSt) : (s.setTas p f).queues = s.queues := rfl
@[simp] theorem State.setTas_latches (s : State) (p : Nat) (f : TasSt → TasSt) : (s.setTas p f).latches = s.latches := rfl
@[simp] theorem State.setTas_fcr (s : State) (p : Nat) (f : TasSt → TasSt) : (s.setTas p f).fcr = s.fcr := rfl
@[simp] theorem State.setTas_outs (s : State) (p : Nat) (f : TasSt → TasSt) : (s.setTas p f).outs = s.outs := rfl
@[simp] theorem State.setTas_valves (s : State) (p : Nat) (f : TasSt → TasSt) : (s.setTas p f).valves = s.valves := rfl
@[simp] theorem State.setTas_bridges (s : State) (p : Nat) (f : TasSt → TasSt) : (s.setTas p f).bridges = s.bridges := rfl
@[simp] theorem State.setTas_scan (s : State) (p : Nat) (f : TasSt → TasSt) : (s.setTas p f).scan = s.scan := rfl
@[simp] theorem State.setTas_seq (s : State) (p : Nat) (f : TasSt → TasSt) : (s.setTas p f).seq = s.seq := rfl
@[simp] theorem State.setTas_cal (s : State) (p : Nat) (f : TasSt → TasSt) : (s.setTas p f).cal = s.cal := rfl
@[simp] theorem State.setTas_strobes (s : State) (p : Nat) (f : TasSt → TasSt) : (s.setTas p f).strobes = s.strobes := rfl
@[simp] theorem State.setTas_dins (s : State) (p : Nat) (f : TasSt → TasSt) : (s.setTas p f).dins = s.dins := rfl
@[simp] theorem State.setTas_ahead (s : State) (p : Nat) (f : TasSt → TasSt) : (s.setTas p f).ahead = s.ahead := rfl
@[simp] theorem State.setTas_phyLines (s : State) (p : Nat) (f : TasSt → TasSt) : (s.setTas p f).phyLines = s.phyLines := rfl
@[simp] theorem State.setTas_age (s : State) (p : Nat) (f : TasSt → TasSt) : (s.setTas p f).age = s.age := rfl
@[simp] theorem State.setTas_reverseAt (s : State) (p : Nat) (f : TasSt → TasSt) : (s.setTas p f).reverseAt = s.reverseAt := rfl
@[simp] theorem State.setTas_dies (s : State) (p : Nat) (f : TasSt → TasSt) : (s.setTas p f).dies = s.dies := rfl
@[simp] theorem State.setTas_msh (s : State) (p : Nat) (f : TasSt → TasSt) : (s.setTas p f).msh = s.msh := rfl
@[simp] theorem State.setTas_tmrs (s : State) (p : Nat) (f : TasSt → TasSt) : (s.setTas p f).tmrs = s.tmrs := rfl
@[simp] theorem State.setTas_tchs (s : State) (p : Nat) (f : TasSt → TasSt) : (s.setTas p f).tchs = s.tchs := rfl
@[simp] theorem State.setTas_stg (s : State) (p : Nat) (f : TasSt → TasSt) : (s.setTas p f).stg = s.stg := rfl
@[simp] theorem State.setTas_pwr (s : State) (p : Nat) (f : TasSt → TasSt) : (s.setTas p f).pwr = s.pwr := rfl
@[simp] theorem State.setTas_nms (s : State) (p : Nat) (f : TasSt → TasSt) : (s.setTas p f).nms = s.nms := rfl
@[simp] theorem State.setTas_ring (s : State) (p : Nat) (f : TasSt → TasSt) : (s.setTas p f).ring = s.ring := rfl
@[simp] theorem State.setTas_cans (s : State) (p : Nat) (f : TasSt → TasSt) : (s.setTas p f).cans = s.cans := rfl
@[simp] theorem State.setTas_vault (s : State) (p : Nat) (f : TasSt → TasSt) : (s.setTas p f).vault = s.vault := rfl
@[simp] theorem State.setTas_acc (s : State) (p : Nat) (f : TasSt → TasSt) : (s.setTas p f).acc = s.acc := rfl
@[simp] theorem State.setTas_book (s : State) (p : Nat) (f : TasSt → TasSt) : (s.setTas p f).book = s.book := rfl
@[simp] theorem State.setTas_ageing (s : State) (p : Nat) (f : TasSt → TasSt) : (s.setTas p f).ageing = s.ageing := rfl
@[simp] theorem State.setTas_pac (s : State) (p : Nat) (f : TasSt → TasSt) : (s.setTas p f).pac = s.pac := rfl
@[simp] theorem State.setTas_tap (s : State) (p : Nat) (f : TasSt → TasSt) : (s.setTas p f).tap = s.tap := rfl
@[simp] theorem State.setTas_clk (s : State) (p : Nat) (f : TasSt → TasSt) : (s.setTas p f).clk = s.clk := rfl
@[simp] theorem State.setTas_sup (s : State) (p : Nat) (f : TasSt → TasSt) : (s.setTas p f).sup = s.sup := rfl
@[simp] theorem State.setTas_boot (s : State) (p : Nat) (f : TasSt → TasSt) : (s.setTas p f).boot = s.boot := rfl

@[simp] theorem State.setMac_pending (s : State) (i : Nat) (e : Option MacEnt) : (s.setMac i e).pending = s.pending := rfl
@[simp] theorem State.setMac_now (s : State) (i : Nat) (e : Option MacEnt) : (s.setMac i e).now = s.now := rfl
@[simp] theorem State.setMac_splitZero (s : State) (i : Nat) (e : Option MacEnt) : (s.setMac i e).splitZero = s.splitZero := rfl
@[simp] theorem State.setMac_fresh (s : State) (i : Nat) (e : Option MacEnt) : (s.setMac i e).fresh = s.fresh := rfl
@[simp] theorem State.setMac_img (s : State) (i : Nat) (e : Option MacEnt) : (s.setMac i e).img = s.img := rfl
@[simp] theorem State.setMac_shadow (s : State) (i : Nat) (e : Option MacEnt) : (s.setMac i e).shadow = s.shadow := rfl
@[simp] theorem State.setMac_cfgAct (s : State) (i : Nat) (e : Option MacEnt) : (s.setMac i e).cfgAct = s.cfgAct := rfl
@[simp] theorem State.setMac_mem (s : State) (i : Nat) (e : Option MacEnt) : (s.setMac i e).mem = s.mem := rfl
@[simp] theorem State.setMac_timers (s : State) (i : Nat) (e : Option MacEnt) : (s.setMac i e).timers = s.timers := rfl
@[simp] theorem State.setMac_episodes (s : State) (i : Nat) (e : Option MacEnt) : (s.setMac i e).episodes = s.episodes := rfl
@[simp] theorem State.setMac_lockFirst (s : State) (i : Nat) (e : Option MacEnt) : (s.setMac i e).lockFirst = s.lockFirst := rfl
@[simp] theorem State.setMac_resetWait (s : State) (i : Nat) (e : Option MacEnt) : (s.setMac i e).resetWait = s.resetWait := rfl
@[simp] theorem State.setMac_enableWait (s : State) (i : Nat) (e : Option MacEnt) : (s.setMac i e).enableWait = s.enableWait := rfl
@[simp] theorem State.setMac_stride (s : State) (i : Nat) (e : Option MacEnt) : (s.setMac i e).stride = s.stride := rfl
@[simp] theorem State.setMac_queues (s : State) (i : Nat) (e : Option MacEnt) : (s.setMac i e).queues = s.queues := rfl
@[simp] theorem State.setMac_latches (s : State) (i : Nat) (e : Option MacEnt) : (s.setMac i e).latches = s.latches := rfl
@[simp] theorem State.setMac_fcr (s : State) (i : Nat) (e : Option MacEnt) : (s.setMac i e).fcr = s.fcr := rfl
@[simp] theorem State.setMac_outs (s : State) (i : Nat) (e : Option MacEnt) : (s.setMac i e).outs = s.outs := rfl
@[simp] theorem State.setMac_valves (s : State) (i : Nat) (e : Option MacEnt) : (s.setMac i e).valves = s.valves := rfl
@[simp] theorem State.setMac_bridges (s : State) (i : Nat) (e : Option MacEnt) : (s.setMac i e).bridges = s.bridges := rfl
@[simp] theorem State.setMac_scan (s : State) (i : Nat) (e : Option MacEnt) : (s.setMac i e).scan = s.scan := rfl
@[simp] theorem State.setMac_seq (s : State) (i : Nat) (e : Option MacEnt) : (s.setMac i e).seq = s.seq := rfl
@[simp] theorem State.setMac_cal (s : State) (i : Nat) (e : Option MacEnt) : (s.setMac i e).cal = s.cal := rfl
@[simp] theorem State.setMac_strobes (s : State) (i : Nat) (e : Option MacEnt) : (s.setMac i e).strobes = s.strobes := rfl
@[simp] theorem State.setMac_dins (s : State) (i : Nat) (e : Option MacEnt) : (s.setMac i e).dins = s.dins := rfl
@[simp] theorem State.setMac_ahead (s : State) (i : Nat) (e : Option MacEnt) : (s.setMac i e).ahead = s.ahead := rfl
@[simp] theorem State.setMac_phyLines (s : State) (i : Nat) (e : Option MacEnt) : (s.setMac i e).phyLines = s.phyLines := rfl
@[simp] theorem State.setMac_age (s : State) (i : Nat) (e : Option MacEnt) : (s.setMac i e).age = s.age := rfl
@[simp] theorem State.setMac_reverseAt (s : State) (i : Nat) (e : Option MacEnt) : (s.setMac i e).reverseAt = s.reverseAt := rfl
@[simp] theorem State.setMac_dies (s : State) (i : Nat) (e : Option MacEnt) : (s.setMac i e).dies = s.dies := rfl
@[simp] theorem State.setMac_msh (s : State) (i : Nat) (e : Option MacEnt) : (s.setMac i e).msh = s.msh := rfl
@[simp] theorem State.setMac_tmrs (s : State) (i : Nat) (e : Option MacEnt) : (s.setMac i e).tmrs = s.tmrs := rfl
@[simp] theorem State.setMac_tchs (s : State) (i : Nat) (e : Option MacEnt) : (s.setMac i e).tchs = s.tchs := rfl
@[simp] theorem State.setMac_stg (s : State) (i : Nat) (e : Option MacEnt) : (s.setMac i e).stg = s.stg := rfl
@[simp] theorem State.setMac_pwr (s : State) (i : Nat) (e : Option MacEnt) : (s.setMac i e).pwr = s.pwr := rfl
@[simp] theorem State.setMac_nms (s : State) (i : Nat) (e : Option MacEnt) : (s.setMac i e).nms = s.nms := rfl
@[simp] theorem State.setMac_ring (s : State) (i : Nat) (e : Option MacEnt) : (s.setMac i e).ring = s.ring := rfl
@[simp] theorem State.setMac_cans (s : State) (i : Nat) (e : Option MacEnt) : (s.setMac i e).cans = s.cans := rfl
@[simp] theorem State.setMac_vault (s : State) (i : Nat) (e : Option MacEnt) : (s.setMac i e).vault = s.vault := rfl
@[simp] theorem State.setMac_acc (s : State) (i : Nat) (e : Option MacEnt) : (s.setMac i e).acc = s.acc := rfl
@[simp] theorem State.setMac_book (s : State) (i : Nat) (e : Option MacEnt) : (s.setMac i e).book = s.book := rfl
@[simp] theorem State.setMac_ageing (s : State) (i : Nat) (e : Option MacEnt) : (s.setMac i e).ageing = s.ageing := rfl
@[simp] theorem State.setMac_pac (s : State) (i : Nat) (e : Option MacEnt) : (s.setMac i e).pac = s.pac := rfl
@[simp] theorem State.setMac_tap (s : State) (i : Nat) (e : Option MacEnt) : (s.setMac i e).tap = s.tap := rfl
@[simp] theorem State.setMac_clk (s : State) (i : Nat) (e : Option MacEnt) : (s.setMac i e).clk = s.clk := rfl
@[simp] theorem State.setMac_sup (s : State) (i : Nat) (e : Option MacEnt) : (s.setMac i e).sup = s.sup := rfl
@[simp] theorem State.setMac_boot (s : State) (i : Nat) (e : Option MacEnt) : (s.setMac i e).boot = s.boot := rfl

@[simp] theorem State.setTmr_pending (s : State) (u : Nat) (f : TmrSt → TmrSt) : (s.setTmr u f).pending = s.pending := rfl
@[simp] theorem State.setTmr_now (s : State) (u : Nat) (f : TmrSt → TmrSt) : (s.setTmr u f).now = s.now := rfl
@[simp] theorem State.setTmr_splitZero (s : State) (u : Nat) (f : TmrSt → TmrSt) : (s.setTmr u f).splitZero = s.splitZero := rfl
@[simp] theorem State.setTmr_fresh (s : State) (u : Nat) (f : TmrSt → TmrSt) : (s.setTmr u f).fresh = s.fresh := rfl
@[simp] theorem State.setTmr_regs (s : State) (u : Nat) (f : TmrSt → TmrSt) : (s.setTmr u f).regs = s.regs := rfl
@[simp] theorem State.setTmr_img (s : State) (u : Nat) (f : TmrSt → TmrSt) : (s.setTmr u f).img = s.img := rfl
@[simp] theorem State.setTmr_shadow (s : State) (u : Nat) (f : TmrSt → TmrSt) : (s.setTmr u f).shadow = s.shadow := rfl
@[simp] theorem State.setTmr_cfgAct (s : State) (u : Nat) (f : TmrSt → TmrSt) : (s.setTmr u f).cfgAct = s.cfgAct := rfl
@[simp] theorem State.setTmr_mem (s : State) (u : Nat) (f : TmrSt → TmrSt) : (s.setTmr u f).mem = s.mem := rfl
@[simp] theorem State.setTmr_timers (s : State) (u : Nat) (f : TmrSt → TmrSt) : (s.setTmr u f).timers = s.timers := rfl
@[simp] theorem State.setTmr_episodes (s : State) (u : Nat) (f : TmrSt → TmrSt) : (s.setTmr u f).episodes = s.episodes := rfl
@[simp] theorem State.setTmr_lockFirst (s : State) (u : Nat) (f : TmrSt → TmrSt) : (s.setTmr u f).lockFirst = s.lockFirst := rfl
@[simp] theorem State.setTmr_resetWait (s : State) (u : Nat) (f : TmrSt → TmrSt) : (s.setTmr u f).resetWait = s.resetWait := rfl
@[simp] theorem State.setTmr_enableWait (s : State) (u : Nat) (f : TmrSt → TmrSt) : (s.setTmr u f).enableWait = s.enableWait := rfl
@[simp] theorem State.setTmr_stride (s : State) (u : Nat) (f : TmrSt → TmrSt) : (s.setTmr u f).stride = s.stride := rfl
@[simp] theorem State.setTmr_queues (s : State) (u : Nat) (f : TmrSt → TmrSt) : (s.setTmr u f).queues = s.queues := rfl
@[simp] theorem State.setTmr_latches (s : State) (u : Nat) (f : TmrSt → TmrSt) : (s.setTmr u f).latches = s.latches := rfl
@[simp] theorem State.setTmr_fcr (s : State) (u : Nat) (f : TmrSt → TmrSt) : (s.setTmr u f).fcr = s.fcr := rfl
@[simp] theorem State.setTmr_outs (s : State) (u : Nat) (f : TmrSt → TmrSt) : (s.setTmr u f).outs = s.outs := rfl
@[simp] theorem State.setTmr_valves (s : State) (u : Nat) (f : TmrSt → TmrSt) : (s.setTmr u f).valves = s.valves := rfl
@[simp] theorem State.setTmr_bridges (s : State) (u : Nat) (f : TmrSt → TmrSt) : (s.setTmr u f).bridges = s.bridges := rfl
@[simp] theorem State.setTmr_scan (s : State) (u : Nat) (f : TmrSt → TmrSt) : (s.setTmr u f).scan = s.scan := rfl
@[simp] theorem State.setTmr_seq (s : State) (u : Nat) (f : TmrSt → TmrSt) : (s.setTmr u f).seq = s.seq := rfl
@[simp] theorem State.setTmr_cal (s : State) (u : Nat) (f : TmrSt → TmrSt) : (s.setTmr u f).cal = s.cal := rfl
@[simp] theorem State.setTmr_strobes (s : State) (u : Nat) (f : TmrSt → TmrSt) : (s.setTmr u f).strobes = s.strobes := rfl
@[simp] theorem State.setTmr_dins (s : State) (u : Nat) (f : TmrSt → TmrSt) : (s.setTmr u f).dins = s.dins := rfl
@[simp] theorem State.setTmr_ahead (s : State) (u : Nat) (f : TmrSt → TmrSt) : (s.setTmr u f).ahead = s.ahead := rfl
@[simp] theorem State.setTmr_phyLines (s : State) (u : Nat) (f : TmrSt → TmrSt) : (s.setTmr u f).phyLines = s.phyLines := rfl
@[simp] theorem State.setTmr_age (s : State) (u : Nat) (f : TmrSt → TmrSt) : (s.setTmr u f).age = s.age := rfl
@[simp] theorem State.setTmr_reverseAt (s : State) (u : Nat) (f : TmrSt → TmrSt) : (s.setTmr u f).reverseAt = s.reverseAt := rfl
@[simp] theorem State.setTmr_dies (s : State) (u : Nat) (f : TmrSt → TmrSt) : (s.setTmr u f).dies = s.dies := rfl
@[simp] theorem State.setTmr_msh (s : State) (u : Nat) (f : TmrSt → TmrSt) : (s.setTmr u f).msh = s.msh := rfl
@[simp] theorem State.setTmr_tchs (s : State) (u : Nat) (f : TmrSt → TmrSt) : (s.setTmr u f).tchs = s.tchs := rfl
@[simp] theorem State.setTmr_stg (s : State) (u : Nat) (f : TmrSt → TmrSt) : (s.setTmr u f).stg = s.stg := rfl
@[simp] theorem State.setTmr_sw (s : State) (u : Nat) (f : TmrSt → TmrSt) : (s.setTmr u f).sw = s.sw := rfl
@[simp] theorem State.setTmr_pwr (s : State) (u : Nat) (f : TmrSt → TmrSt) : (s.setTmr u f).pwr = s.pwr := rfl
@[simp] theorem State.setTmr_nms (s : State) (u : Nat) (f : TmrSt → TmrSt) : (s.setTmr u f).nms = s.nms := rfl
@[simp] theorem State.setTmr_ring (s : State) (u : Nat) (f : TmrSt → TmrSt) : (s.setTmr u f).ring = s.ring := rfl
@[simp] theorem State.setTmr_cans (s : State) (u : Nat) (f : TmrSt → TmrSt) : (s.setTmr u f).cans = s.cans := rfl
@[simp] theorem State.setTmr_vault (s : State) (u : Nat) (f : TmrSt → TmrSt) : (s.setTmr u f).vault = s.vault := rfl
@[simp] theorem State.setTmr_acc (s : State) (u : Nat) (f : TmrSt → TmrSt) : (s.setTmr u f).acc = s.acc := rfl
@[simp] theorem State.setTmr_book (s : State) (u : Nat) (f : TmrSt → TmrSt) : (s.setTmr u f).book = s.book := rfl
@[simp] theorem State.setTmr_ageing (s : State) (u : Nat) (f : TmrSt → TmrSt) : (s.setTmr u f).ageing = s.ageing := rfl
@[simp] theorem State.setTmr_pac (s : State) (u : Nat) (f : TmrSt → TmrSt) : (s.setTmr u f).pac = s.pac := rfl
@[simp] theorem State.setTmr_tap (s : State) (u : Nat) (f : TmrSt → TmrSt) : (s.setTmr u f).tap = s.tap := rfl
@[simp] theorem State.setTmr_clk (s : State) (u : Nat) (f : TmrSt → TmrSt) : (s.setTmr u f).clk = s.clk := rfl
@[simp] theorem State.setTmr_sup (s : State) (u : Nat) (f : TmrSt → TmrSt) : (s.setTmr u f).sup = s.sup := rfl
@[simp] theorem State.setTmr_boot (s : State) (u : Nat) (f : TmrSt → TmrSt) : (s.setTmr u f).boot = s.boot := rfl

@[simp] theorem State.setTch_pending (s : State) (n : Nat) (f : TmrCh → TmrCh) : (s.setTch n f).pending = s.pending := rfl
@[simp] theorem State.setTch_now (s : State) (n : Nat) (f : TmrCh → TmrCh) : (s.setTch n f).now = s.now := rfl
@[simp] theorem State.setTch_splitZero (s : State) (n : Nat) (f : TmrCh → TmrCh) : (s.setTch n f).splitZero = s.splitZero := rfl
@[simp] theorem State.setTch_fresh (s : State) (n : Nat) (f : TmrCh → TmrCh) : (s.setTch n f).fresh = s.fresh := rfl
@[simp] theorem State.setTch_regs (s : State) (n : Nat) (f : TmrCh → TmrCh) : (s.setTch n f).regs = s.regs := rfl
@[simp] theorem State.setTch_img (s : State) (n : Nat) (f : TmrCh → TmrCh) : (s.setTch n f).img = s.img := rfl
@[simp] theorem State.setTch_shadow (s : State) (n : Nat) (f : TmrCh → TmrCh) : (s.setTch n f).shadow = s.shadow := rfl
@[simp] theorem State.setTch_cfgAct (s : State) (n : Nat) (f : TmrCh → TmrCh) : (s.setTch n f).cfgAct = s.cfgAct := rfl
@[simp] theorem State.setTch_mem (s : State) (n : Nat) (f : TmrCh → TmrCh) : (s.setTch n f).mem = s.mem := rfl
@[simp] theorem State.setTch_timers (s : State) (n : Nat) (f : TmrCh → TmrCh) : (s.setTch n f).timers = s.timers := rfl
@[simp] theorem State.setTch_episodes (s : State) (n : Nat) (f : TmrCh → TmrCh) : (s.setTch n f).episodes = s.episodes := rfl
@[simp] theorem State.setTch_lockFirst (s : State) (n : Nat) (f : TmrCh → TmrCh) : (s.setTch n f).lockFirst = s.lockFirst := rfl
@[simp] theorem State.setTch_resetWait (s : State) (n : Nat) (f : TmrCh → TmrCh) : (s.setTch n f).resetWait = s.resetWait := rfl
@[simp] theorem State.setTch_enableWait (s : State) (n : Nat) (f : TmrCh → TmrCh) : (s.setTch n f).enableWait = s.enableWait := rfl
@[simp] theorem State.setTch_stride (s : State) (n : Nat) (f : TmrCh → TmrCh) : (s.setTch n f).stride = s.stride := rfl
@[simp] theorem State.setTch_queues (s : State) (n : Nat) (f : TmrCh → TmrCh) : (s.setTch n f).queues = s.queues := rfl
@[simp] theorem State.setTch_latches (s : State) (n : Nat) (f : TmrCh → TmrCh) : (s.setTch n f).latches = s.latches := rfl
@[simp] theorem State.setTch_fcr (s : State) (n : Nat) (f : TmrCh → TmrCh) : (s.setTch n f).fcr = s.fcr := rfl
@[simp] theorem State.setTch_outs (s : State) (n : Nat) (f : TmrCh → TmrCh) : (s.setTch n f).outs = s.outs := rfl
@[simp] theorem State.setTch_valves (s : State) (n : Nat) (f : TmrCh → TmrCh) : (s.setTch n f).valves = s.valves := rfl
@[simp] theorem State.setTch_bridges (s : State) (n : Nat) (f : TmrCh → TmrCh) : (s.setTch n f).bridges = s.bridges := rfl
@[simp] theorem State.setTch_scan (s : State) (n : Nat) (f : TmrCh → TmrCh) : (s.setTch n f).scan = s.scan := rfl
@[simp] theorem State.setTch_seq (s : State) (n : Nat) (f : TmrCh → TmrCh) : (s.setTch n f).seq = s.seq := rfl
@[simp] theorem State.setTch_cal (s : State) (n : Nat) (f : TmrCh → TmrCh) : (s.setTch n f).cal = s.cal := rfl
@[simp] theorem State.setTch_strobes (s : State) (n : Nat) (f : TmrCh → TmrCh) : (s.setTch n f).strobes = s.strobes := rfl
@[simp] theorem State.setTch_dins (s : State) (n : Nat) (f : TmrCh → TmrCh) : (s.setTch n f).dins = s.dins := rfl
@[simp] theorem State.setTch_ahead (s : State) (n : Nat) (f : TmrCh → TmrCh) : (s.setTch n f).ahead = s.ahead := rfl
@[simp] theorem State.setTch_phyLines (s : State) (n : Nat) (f : TmrCh → TmrCh) : (s.setTch n f).phyLines = s.phyLines := rfl
@[simp] theorem State.setTch_age (s : State) (n : Nat) (f : TmrCh → TmrCh) : (s.setTch n f).age = s.age := rfl
@[simp] theorem State.setTch_reverseAt (s : State) (n : Nat) (f : TmrCh → TmrCh) : (s.setTch n f).reverseAt = s.reverseAt := rfl
@[simp] theorem State.setTch_dies (s : State) (n : Nat) (f : TmrCh → TmrCh) : (s.setTch n f).dies = s.dies := rfl
@[simp] theorem State.setTch_msh (s : State) (n : Nat) (f : TmrCh → TmrCh) : (s.setTch n f).msh = s.msh := rfl
@[simp] theorem State.setTch_tmrs (s : State) (n : Nat) (f : TmrCh → TmrCh) : (s.setTch n f).tmrs = s.tmrs := rfl
@[simp] theorem State.setTch_stg (s : State) (n : Nat) (f : TmrCh → TmrCh) : (s.setTch n f).stg = s.stg := rfl
@[simp] theorem State.setTch_sw (s : State) (n : Nat) (f : TmrCh → TmrCh) : (s.setTch n f).sw = s.sw := rfl
@[simp] theorem State.setTch_pwr (s : State) (n : Nat) (f : TmrCh → TmrCh) : (s.setTch n f).pwr = s.pwr := rfl
@[simp] theorem State.setTch_nms (s : State) (n : Nat) (f : TmrCh → TmrCh) : (s.setTch n f).nms = s.nms := rfl
@[simp] theorem State.setTch_ring (s : State) (n : Nat) (f : TmrCh → TmrCh) : (s.setTch n f).ring = s.ring := rfl
@[simp] theorem State.setTch_cans (s : State) (n : Nat) (f : TmrCh → TmrCh) : (s.setTch n f).cans = s.cans := rfl
@[simp] theorem State.setTch_vault (s : State) (n : Nat) (f : TmrCh → TmrCh) : (s.setTch n f).vault = s.vault := rfl
@[simp] theorem State.setTch_acc (s : State) (n : Nat) (f : TmrCh → TmrCh) : (s.setTch n f).acc = s.acc := rfl
@[simp] theorem State.setTch_book (s : State) (n : Nat) (f : TmrCh → TmrCh) : (s.setTch n f).book = s.book := rfl
@[simp] theorem State.setTch_ageing (s : State) (n : Nat) (f : TmrCh → TmrCh) : (s.setTch n f).ageing = s.ageing := rfl
@[simp] theorem State.setTch_pac (s : State) (n : Nat) (f : TmrCh → TmrCh) : (s.setTch n f).pac = s.pac := rfl
@[simp] theorem State.setTch_tap (s : State) (n : Nat) (f : TmrCh → TmrCh) : (s.setTch n f).tap = s.tap := rfl
@[simp] theorem State.setTch_clk (s : State) (n : Nat) (f : TmrCh → TmrCh) : (s.setTch n f).clk = s.clk := rfl
@[simp] theorem State.setTch_sup (s : State) (n : Nat) (f : TmrCh → TmrCh) : (s.setTch n f).sup = s.sup := rfl
@[simp] theorem State.setTch_boot (s : State) (n : Nat) (f : TmrCh → TmrCh) : (s.setTch n f).boot = s.boot := rfl

@[simp] theorem State.setOut_pending (s : State) (u : OutU) (f : OutSt → OutSt) : (s.setOut u f).pending = s.pending := rfl
@[simp] theorem State.setOut_now (s : State) (u : OutU) (f : OutSt → OutSt) : (s.setOut u f).now = s.now := rfl
@[simp] theorem State.setOut_splitZero (s : State) (u : OutU) (f : OutSt → OutSt) : (s.setOut u f).splitZero = s.splitZero := rfl
@[simp] theorem State.setOut_fresh (s : State) (u : OutU) (f : OutSt → OutSt) : (s.setOut u f).fresh = s.fresh := rfl
@[simp] theorem State.setOut_regs (s : State) (u : OutU) (f : OutSt → OutSt) : (s.setOut u f).regs = s.regs := rfl
@[simp] theorem State.setOut_img (s : State) (u : OutU) (f : OutSt → OutSt) : (s.setOut u f).img = s.img := rfl
@[simp] theorem State.setOut_shadow (s : State) (u : OutU) (f : OutSt → OutSt) : (s.setOut u f).shadow = s.shadow := rfl
@[simp] theorem State.setOut_cfgAct (s : State) (u : OutU) (f : OutSt → OutSt) : (s.setOut u f).cfgAct = s.cfgAct := rfl
@[simp] theorem State.setOut_mem (s : State) (u : OutU) (f : OutSt → OutSt) : (s.setOut u f).mem = s.mem := rfl
@[simp] theorem State.setOut_timers (s : State) (u : OutU) (f : OutSt → OutSt) : (s.setOut u f).timers = s.timers := rfl
@[simp] theorem State.setOut_episodes (s : State) (u : OutU) (f : OutSt → OutSt) : (s.setOut u f).episodes = s.episodes := rfl
@[simp] theorem State.setOut_lockFirst (s : State) (u : OutU) (f : OutSt → OutSt) : (s.setOut u f).lockFirst = s.lockFirst := rfl
@[simp] theorem State.setOut_resetWait (s : State) (u : OutU) (f : OutSt → OutSt) : (s.setOut u f).resetWait = s.resetWait := rfl
@[simp] theorem State.setOut_enableWait (s : State) (u : OutU) (f : OutSt → OutSt) : (s.setOut u f).enableWait = s.enableWait := rfl
@[simp] theorem State.setOut_stride (s : State) (u : OutU) (f : OutSt → OutSt) : (s.setOut u f).stride = s.stride := rfl
@[simp] theorem State.setOut_queues (s : State) (u : OutU) (f : OutSt → OutSt) : (s.setOut u f).queues = s.queues := rfl
@[simp] theorem State.setOut_latches (s : State) (u : OutU) (f : OutSt → OutSt) : (s.setOut u f).latches = s.latches := rfl
@[simp] theorem State.setOut_fcr (s : State) (u : OutU) (f : OutSt → OutSt) : (s.setOut u f).fcr = s.fcr := rfl
@[simp] theorem State.setOut_valves (s : State) (u : OutU) (f : OutSt → OutSt) : (s.setOut u f).valves = s.valves := rfl
@[simp] theorem State.setOut_bridges (s : State) (u : OutU) (f : OutSt → OutSt) : (s.setOut u f).bridges = s.bridges := rfl
@[simp] theorem State.setOut_scan (s : State) (u : OutU) (f : OutSt → OutSt) : (s.setOut u f).scan = s.scan := rfl
@[simp] theorem State.setOut_seq (s : State) (u : OutU) (f : OutSt → OutSt) : (s.setOut u f).seq = s.seq := rfl
@[simp] theorem State.setOut_cal (s : State) (u : OutU) (f : OutSt → OutSt) : (s.setOut u f).cal = s.cal := rfl
@[simp] theorem State.setOut_strobes (s : State) (u : OutU) (f : OutSt → OutSt) : (s.setOut u f).strobes = s.strobes := rfl
@[simp] theorem State.setOut_dins (s : State) (u : OutU) (f : OutSt → OutSt) : (s.setOut u f).dins = s.dins := rfl
@[simp] theorem State.setOut_ahead (s : State) (u : OutU) (f : OutSt → OutSt) : (s.setOut u f).ahead = s.ahead := rfl
@[simp] theorem State.setOut_phyLines (s : State) (u : OutU) (f : OutSt → OutSt) : (s.setOut u f).phyLines = s.phyLines := rfl
@[simp] theorem State.setOut_age (s : State) (u : OutU) (f : OutSt → OutSt) : (s.setOut u f).age = s.age := rfl
@[simp] theorem State.setOut_reverseAt (s : State) (u : OutU) (f : OutSt → OutSt) : (s.setOut u f).reverseAt = s.reverseAt := rfl
@[simp] theorem State.setOut_dies (s : State) (u : OutU) (f : OutSt → OutSt) : (s.setOut u f).dies = s.dies := rfl
@[simp] theorem State.setOut_msh (s : State) (u : OutU) (f : OutSt → OutSt) : (s.setOut u f).msh = s.msh := rfl
@[simp] theorem State.setOut_tmrs (s : State) (u : OutU) (f : OutSt → OutSt) : (s.setOut u f).tmrs = s.tmrs := rfl
@[simp] theorem State.setOut_tchs (s : State) (u : OutU) (f : OutSt → OutSt) : (s.setOut u f).tchs = s.tchs := rfl
@[simp] theorem State.setOut_stg (s : State) (u : OutU) (f : OutSt → OutSt) : (s.setOut u f).stg = s.stg := rfl
@[simp] theorem State.setOut_sw (s : State) (u : OutU) (f : OutSt → OutSt) : (s.setOut u f).sw = s.sw := rfl
@[simp] theorem State.setOut_pwr (s : State) (u : OutU) (f : OutSt → OutSt) : (s.setOut u f).pwr = s.pwr := rfl
@[simp] theorem State.setOut_nms (s : State) (u : OutU) (f : OutSt → OutSt) : (s.setOut u f).nms = s.nms := rfl
@[simp] theorem State.setOut_ring (s : State) (u : OutU) (f : OutSt → OutSt) : (s.setOut u f).ring = s.ring := rfl
@[simp] theorem State.setOut_cans (s : State) (u : OutU) (f : OutSt → OutSt) : (s.setOut u f).cans = s.cans := rfl
@[simp] theorem State.setOut_vault (s : State) (u : OutU) (f : OutSt → OutSt) : (s.setOut u f).vault = s.vault := rfl
@[simp] theorem State.setOut_acc (s : State) (u : OutU) (f : OutSt → OutSt) : (s.setOut u f).acc = s.acc := rfl
@[simp] theorem State.setOut_book (s : State) (u : OutU) (f : OutSt → OutSt) : (s.setOut u f).book = s.book := rfl
@[simp] theorem State.setOut_ageing (s : State) (u : OutU) (f : OutSt → OutSt) : (s.setOut u f).ageing = s.ageing := rfl
@[simp] theorem State.setOut_pac (s : State) (u : OutU) (f : OutSt → OutSt) : (s.setOut u f).pac = s.pac := rfl
@[simp] theorem State.setOut_tap (s : State) (u : OutU) (f : OutSt → OutSt) : (s.setOut u f).tap = s.tap := rfl
@[simp] theorem State.setOut_clk (s : State) (u : OutU) (f : OutSt → OutSt) : (s.setOut u f).clk = s.clk := rfl
@[simp] theorem State.setOut_sup (s : State) (u : OutU) (f : OutSt → OutSt) : (s.setOut u f).sup = s.sup := rfl
@[simp] theorem State.setOut_boot (s : State) (u : OutU) (f : OutSt → OutSt) : (s.setOut u f).boot = s.boot := rfl

@[simp] theorem State.setAge_pending (s : State) (i : Nat) (f : AgeUnit → AgeUnit) : (s.setAge i f).pending = s.pending := rfl
@[simp] theorem State.setAge_now (s : State) (i : Nat) (f : AgeUnit → AgeUnit) : (s.setAge i f).now = s.now := rfl
@[simp] theorem State.setAge_splitZero (s : State) (i : Nat) (f : AgeUnit → AgeUnit) : (s.setAge i f).splitZero = s.splitZero := rfl
@[simp] theorem State.setAge_fresh (s : State) (i : Nat) (f : AgeUnit → AgeUnit) : (s.setAge i f).fresh = s.fresh := rfl
@[simp] theorem State.setAge_regs (s : State) (i : Nat) (f : AgeUnit → AgeUnit) : (s.setAge i f).regs = s.regs := rfl
@[simp] theorem State.setAge_img (s : State) (i : Nat) (f : AgeUnit → AgeUnit) : (s.setAge i f).img = s.img := rfl
@[simp] theorem State.setAge_shadow (s : State) (i : Nat) (f : AgeUnit → AgeUnit) : (s.setAge i f).shadow = s.shadow := rfl
@[simp] theorem State.setAge_cfgAct (s : State) (i : Nat) (f : AgeUnit → AgeUnit) : (s.setAge i f).cfgAct = s.cfgAct := rfl
@[simp] theorem State.setAge_mem (s : State) (i : Nat) (f : AgeUnit → AgeUnit) : (s.setAge i f).mem = s.mem := rfl
@[simp] theorem State.setAge_timers (s : State) (i : Nat) (f : AgeUnit → AgeUnit) : (s.setAge i f).timers = s.timers := rfl
@[simp] theorem State.setAge_episodes (s : State) (i : Nat) (f : AgeUnit → AgeUnit) : (s.setAge i f).episodes = s.episodes := rfl
@[simp] theorem State.setAge_lockFirst (s : State) (i : Nat) (f : AgeUnit → AgeUnit) : (s.setAge i f).lockFirst = s.lockFirst := rfl
@[simp] theorem State.setAge_resetWait (s : State) (i : Nat) (f : AgeUnit → AgeUnit) : (s.setAge i f).resetWait = s.resetWait := rfl
@[simp] theorem State.setAge_enableWait (s : State) (i : Nat) (f : AgeUnit → AgeUnit) : (s.setAge i f).enableWait = s.enableWait := rfl
@[simp] theorem State.setAge_stride (s : State) (i : Nat) (f : AgeUnit → AgeUnit) : (s.setAge i f).stride = s.stride := rfl
@[simp] theorem State.setAge_queues (s : State) (i : Nat) (f : AgeUnit → AgeUnit) : (s.setAge i f).queues = s.queues := rfl
@[simp] theorem State.setAge_latches (s : State) (i : Nat) (f : AgeUnit → AgeUnit) : (s.setAge i f).latches = s.latches := rfl
@[simp] theorem State.setAge_fcr (s : State) (i : Nat) (f : AgeUnit → AgeUnit) : (s.setAge i f).fcr = s.fcr := rfl
@[simp] theorem State.setAge_outs (s : State) (i : Nat) (f : AgeUnit → AgeUnit) : (s.setAge i f).outs = s.outs := rfl
@[simp] theorem State.setAge_valves (s : State) (i : Nat) (f : AgeUnit → AgeUnit) : (s.setAge i f).valves = s.valves := rfl
@[simp] theorem State.setAge_bridges (s : State) (i : Nat) (f : AgeUnit → AgeUnit) : (s.setAge i f).bridges = s.bridges := rfl
@[simp] theorem State.setAge_scan (s : State) (i : Nat) (f : AgeUnit → AgeUnit) : (s.setAge i f).scan = s.scan := rfl
@[simp] theorem State.setAge_seq (s : State) (i : Nat) (f : AgeUnit → AgeUnit) : (s.setAge i f).seq = s.seq := rfl
@[simp] theorem State.setAge_cal (s : State) (i : Nat) (f : AgeUnit → AgeUnit) : (s.setAge i f).cal = s.cal := rfl
@[simp] theorem State.setAge_strobes (s : State) (i : Nat) (f : AgeUnit → AgeUnit) : (s.setAge i f).strobes = s.strobes := rfl
@[simp] theorem State.setAge_dins (s : State) (i : Nat) (f : AgeUnit → AgeUnit) : (s.setAge i f).dins = s.dins := rfl
@[simp] theorem State.setAge_ahead (s : State) (i : Nat) (f : AgeUnit → AgeUnit) : (s.setAge i f).ahead = s.ahead := rfl
@[simp] theorem State.setAge_phyLines (s : State) (i : Nat) (f : AgeUnit → AgeUnit) : (s.setAge i f).phyLines = s.phyLines := rfl
@[simp] theorem State.setAge_reverseAt (s : State) (i : Nat) (f : AgeUnit → AgeUnit) : (s.setAge i f).reverseAt = s.reverseAt := rfl
@[simp] theorem State.setAge_dies (s : State) (i : Nat) (f : AgeUnit → AgeUnit) : (s.setAge i f).dies = s.dies := rfl
@[simp] theorem State.setAge_msh (s : State) (i : Nat) (f : AgeUnit → AgeUnit) : (s.setAge i f).msh = s.msh := rfl
@[simp] theorem State.setAge_tmrs (s : State) (i : Nat) (f : AgeUnit → AgeUnit) : (s.setAge i f).tmrs = s.tmrs := rfl
@[simp] theorem State.setAge_tchs (s : State) (i : Nat) (f : AgeUnit → AgeUnit) : (s.setAge i f).tchs = s.tchs := rfl
@[simp] theorem State.setAge_stg (s : State) (i : Nat) (f : AgeUnit → AgeUnit) : (s.setAge i f).stg = s.stg := rfl
@[simp] theorem State.setAge_sw (s : State) (i : Nat) (f : AgeUnit → AgeUnit) : (s.setAge i f).sw = s.sw := rfl
@[simp] theorem State.setAge_pwr (s : State) (i : Nat) (f : AgeUnit → AgeUnit) : (s.setAge i f).pwr = s.pwr := rfl
@[simp] theorem State.setAge_nms (s : State) (i : Nat) (f : AgeUnit → AgeUnit) : (s.setAge i f).nms = s.nms := rfl
@[simp] theorem State.setAge_ring (s : State) (i : Nat) (f : AgeUnit → AgeUnit) : (s.setAge i f).ring = s.ring := rfl
@[simp] theorem State.setAge_cans (s : State) (i : Nat) (f : AgeUnit → AgeUnit) : (s.setAge i f).cans = s.cans := rfl
@[simp] theorem State.setAge_vault (s : State) (i : Nat) (f : AgeUnit → AgeUnit) : (s.setAge i f).vault = s.vault := rfl
@[simp] theorem State.setAge_acc (s : State) (i : Nat) (f : AgeUnit → AgeUnit) : (s.setAge i f).acc = s.acc := rfl
@[simp] theorem State.setAge_book (s : State) (i : Nat) (f : AgeUnit → AgeUnit) : (s.setAge i f).book = s.book := rfl
@[simp] theorem State.setAge_ageing (s : State) (i : Nat) (f : AgeUnit → AgeUnit) : (s.setAge i f).ageing = s.ageing := rfl
@[simp] theorem State.setAge_pac (s : State) (i : Nat) (f : AgeUnit → AgeUnit) : (s.setAge i f).pac = s.pac := rfl
@[simp] theorem State.setAge_tap (s : State) (i : Nat) (f : AgeUnit → AgeUnit) : (s.setAge i f).tap = s.tap := rfl
@[simp] theorem State.setAge_clk (s : State) (i : Nat) (f : AgeUnit → AgeUnit) : (s.setAge i f).clk = s.clk := rfl
@[simp] theorem State.setAge_sup (s : State) (i : Nat) (f : AgeUnit → AgeUnit) : (s.setAge i f).sup = s.sup := rfl
@[simp] theorem State.setAge_boot (s : State) (i : Nat) (f : AgeUnit → AgeUnit) : (s.setAge i f).boot = s.boot := rfl

@[simp] theorem State.setDie_pending (s : State) (d : Nat) (f : DieSt → DieSt) : (s.setDie d f).pending = s.pending := rfl
@[simp] theorem State.setDie_now (s : State) (d : Nat) (f : DieSt → DieSt) : (s.setDie d f).now = s.now := rfl
@[simp] theorem State.setDie_splitZero (s : State) (d : Nat) (f : DieSt → DieSt) : (s.setDie d f).splitZero = s.splitZero := rfl
@[simp] theorem State.setDie_fresh (s : State) (d : Nat) (f : DieSt → DieSt) : (s.setDie d f).fresh = s.fresh := rfl
@[simp] theorem State.setDie_regs (s : State) (d : Nat) (f : DieSt → DieSt) : (s.setDie d f).regs = s.regs := rfl
@[simp] theorem State.setDie_img (s : State) (d : Nat) (f : DieSt → DieSt) : (s.setDie d f).img = s.img := rfl
@[simp] theorem State.setDie_shadow (s : State) (d : Nat) (f : DieSt → DieSt) : (s.setDie d f).shadow = s.shadow := rfl
@[simp] theorem State.setDie_cfgAct (s : State) (d : Nat) (f : DieSt → DieSt) : (s.setDie d f).cfgAct = s.cfgAct := rfl
@[simp] theorem State.setDie_mem (s : State) (d : Nat) (f : DieSt → DieSt) : (s.setDie d f).mem = s.mem := rfl
@[simp] theorem State.setDie_timers (s : State) (d : Nat) (f : DieSt → DieSt) : (s.setDie d f).timers = s.timers := rfl
@[simp] theorem State.setDie_episodes (s : State) (d : Nat) (f : DieSt → DieSt) : (s.setDie d f).episodes = s.episodes := rfl
@[simp] theorem State.setDie_lockFirst (s : State) (d : Nat) (f : DieSt → DieSt) : (s.setDie d f).lockFirst = s.lockFirst := rfl
@[simp] theorem State.setDie_resetWait (s : State) (d : Nat) (f : DieSt → DieSt) : (s.setDie d f).resetWait = s.resetWait := rfl
@[simp] theorem State.setDie_enableWait (s : State) (d : Nat) (f : DieSt → DieSt) : (s.setDie d f).enableWait = s.enableWait := rfl
@[simp] theorem State.setDie_stride (s : State) (d : Nat) (f : DieSt → DieSt) : (s.setDie d f).stride = s.stride := rfl
@[simp] theorem State.setDie_queues (s : State) (d : Nat) (f : DieSt → DieSt) : (s.setDie d f).queues = s.queues := rfl
@[simp] theorem State.setDie_latches (s : State) (d : Nat) (f : DieSt → DieSt) : (s.setDie d f).latches = s.latches := rfl
@[simp] theorem State.setDie_fcr (s : State) (d : Nat) (f : DieSt → DieSt) : (s.setDie d f).fcr = s.fcr := rfl
@[simp] theorem State.setDie_outs (s : State) (d : Nat) (f : DieSt → DieSt) : (s.setDie d f).outs = s.outs := rfl
@[simp] theorem State.setDie_valves (s : State) (d : Nat) (f : DieSt → DieSt) : (s.setDie d f).valves = s.valves := rfl
@[simp] theorem State.setDie_bridges (s : State) (d : Nat) (f : DieSt → DieSt) : (s.setDie d f).bridges = s.bridges := rfl
@[simp] theorem State.setDie_scan (s : State) (d : Nat) (f : DieSt → DieSt) : (s.setDie d f).scan = s.scan := rfl
@[simp] theorem State.setDie_seq (s : State) (d : Nat) (f : DieSt → DieSt) : (s.setDie d f).seq = s.seq := rfl
@[simp] theorem State.setDie_cal (s : State) (d : Nat) (f : DieSt → DieSt) : (s.setDie d f).cal = s.cal := rfl
@[simp] theorem State.setDie_strobes (s : State) (d : Nat) (f : DieSt → DieSt) : (s.setDie d f).strobes = s.strobes := rfl
@[simp] theorem State.setDie_dins (s : State) (d : Nat) (f : DieSt → DieSt) : (s.setDie d f).dins = s.dins := rfl
@[simp] theorem State.setDie_ahead (s : State) (d : Nat) (f : DieSt → DieSt) : (s.setDie d f).ahead = s.ahead := rfl
@[simp] theorem State.setDie_phyLines (s : State) (d : Nat) (f : DieSt → DieSt) : (s.setDie d f).phyLines = s.phyLines := rfl
@[simp] theorem State.setDie_age (s : State) (d : Nat) (f : DieSt → DieSt) : (s.setDie d f).age = s.age := rfl
@[simp] theorem State.setDie_reverseAt (s : State) (d : Nat) (f : DieSt → DieSt) : (s.setDie d f).reverseAt = s.reverseAt := rfl
@[simp] theorem State.setDie_msh (s : State) (d : Nat) (f : DieSt → DieSt) : (s.setDie d f).msh = s.msh := rfl
@[simp] theorem State.setDie_tmrs (s : State) (d : Nat) (f : DieSt → DieSt) : (s.setDie d f).tmrs = s.tmrs := rfl
@[simp] theorem State.setDie_tchs (s : State) (d : Nat) (f : DieSt → DieSt) : (s.setDie d f).tchs = s.tchs := rfl
@[simp] theorem State.setDie_stg (s : State) (d : Nat) (f : DieSt → DieSt) : (s.setDie d f).stg = s.stg := rfl
@[simp] theorem State.setDie_sw (s : State) (d : Nat) (f : DieSt → DieSt) : (s.setDie d f).sw = s.sw := rfl
@[simp] theorem State.setDie_pwr (s : State) (d : Nat) (f : DieSt → DieSt) : (s.setDie d f).pwr = s.pwr := rfl
@[simp] theorem State.setDie_nms (s : State) (d : Nat) (f : DieSt → DieSt) : (s.setDie d f).nms = s.nms := rfl
@[simp] theorem State.setDie_ring (s : State) (d : Nat) (f : DieSt → DieSt) : (s.setDie d f).ring = s.ring := rfl
@[simp] theorem State.setDie_cans (s : State) (d : Nat) (f : DieSt → DieSt) : (s.setDie d f).cans = s.cans := rfl
@[simp] theorem State.setDie_vault (s : State) (d : Nat) (f : DieSt → DieSt) : (s.setDie d f).vault = s.vault := rfl
@[simp] theorem State.setDie_acc (s : State) (d : Nat) (f : DieSt → DieSt) : (s.setDie d f).acc = s.acc := rfl
@[simp] theorem State.setDie_book (s : State) (d : Nat) (f : DieSt → DieSt) : (s.setDie d f).book = s.book := rfl
@[simp] theorem State.setDie_ageing (s : State) (d : Nat) (f : DieSt → DieSt) : (s.setDie d f).ageing = s.ageing := rfl
@[simp] theorem State.setDie_pac (s : State) (d : Nat) (f : DieSt → DieSt) : (s.setDie d f).pac = s.pac := rfl
@[simp] theorem State.setDie_tap (s : State) (d : Nat) (f : DieSt → DieSt) : (s.setDie d f).tap = s.tap := rfl
@[simp] theorem State.setDie_clk (s : State) (d : Nat) (f : DieSt → DieSt) : (s.setDie d f).clk = s.clk := rfl
@[simp] theorem State.setDie_sup (s : State) (d : Nat) (f : DieSt → DieSt) : (s.setDie d f).sup = s.sup := rfl
@[simp] theorem State.setDie_boot (s : State) (d : Nat) (f : DieSt → DieSt) : (s.setDie d f).boot = s.boot := rfl

@[simp] theorem State.setValve_pending (s : State) (n : Nat) (f : ValveSt → ValveSt) : (s.setValve n f).pending = s.pending := rfl
@[simp] theorem State.setValve_now (s : State) (n : Nat) (f : ValveSt → ValveSt) : (s.setValve n f).now = s.now := rfl
@[simp] theorem State.setValve_splitZero (s : State) (n : Nat) (f : ValveSt → ValveSt) : (s.setValve n f).splitZero = s.splitZero := rfl
@[simp] theorem State.setValve_fresh (s : State) (n : Nat) (f : ValveSt → ValveSt) : (s.setValve n f).fresh = s.fresh := rfl
@[simp] theorem State.setValve_regs (s : State) (n : Nat) (f : ValveSt → ValveSt) : (s.setValve n f).regs = s.regs := rfl
@[simp] theorem State.setValve_img (s : State) (n : Nat) (f : ValveSt → ValveSt) : (s.setValve n f).img = s.img := rfl
@[simp] theorem State.setValve_shadow (s : State) (n : Nat) (f : ValveSt → ValveSt) : (s.setValve n f).shadow = s.shadow := rfl
@[simp] theorem State.setValve_cfgAct (s : State) (n : Nat) (f : ValveSt → ValveSt) : (s.setValve n f).cfgAct = s.cfgAct := rfl
@[simp] theorem State.setValve_mem (s : State) (n : Nat) (f : ValveSt → ValveSt) : (s.setValve n f).mem = s.mem := rfl
@[simp] theorem State.setValve_timers (s : State) (n : Nat) (f : ValveSt → ValveSt) : (s.setValve n f).timers = s.timers := rfl
@[simp] theorem State.setValve_episodes (s : State) (n : Nat) (f : ValveSt → ValveSt) : (s.setValve n f).episodes = s.episodes := rfl
@[simp] theorem State.setValve_lockFirst (s : State) (n : Nat) (f : ValveSt → ValveSt) : (s.setValve n f).lockFirst = s.lockFirst := rfl
@[simp] theorem State.setValve_resetWait (s : State) (n : Nat) (f : ValveSt → ValveSt) : (s.setValve n f).resetWait = s.resetWait := rfl
@[simp] theorem State.setValve_enableWait (s : State) (n : Nat) (f : ValveSt → ValveSt) : (s.setValve n f).enableWait = s.enableWait := rfl
@[simp] theorem State.setValve_stride (s : State) (n : Nat) (f : ValveSt → ValveSt) : (s.setValve n f).stride = s.stride := rfl
@[simp] theorem State.setValve_queues (s : State) (n : Nat) (f : ValveSt → ValveSt) : (s.setValve n f).queues = s.queues := rfl
@[simp] theorem State.setValve_latches (s : State) (n : Nat) (f : ValveSt → ValveSt) : (s.setValve n f).latches = s.latches := rfl
@[simp] theorem State.setValve_fcr (s : State) (n : Nat) (f : ValveSt → ValveSt) : (s.setValve n f).fcr = s.fcr := rfl
@[simp] theorem State.setValve_outs (s : State) (n : Nat) (f : ValveSt → ValveSt) : (s.setValve n f).outs = s.outs := rfl
@[simp] theorem State.setValve_bridges (s : State) (n : Nat) (f : ValveSt → ValveSt) : (s.setValve n f).bridges = s.bridges := rfl
@[simp] theorem State.setValve_scan (s : State) (n : Nat) (f : ValveSt → ValveSt) : (s.setValve n f).scan = s.scan := rfl
@[simp] theorem State.setValve_seq (s : State) (n : Nat) (f : ValveSt → ValveSt) : (s.setValve n f).seq = s.seq := rfl
@[simp] theorem State.setValve_cal (s : State) (n : Nat) (f : ValveSt → ValveSt) : (s.setValve n f).cal = s.cal := rfl
@[simp] theorem State.setValve_strobes (s : State) (n : Nat) (f : ValveSt → ValveSt) : (s.setValve n f).strobes = s.strobes := rfl
@[simp] theorem State.setValve_dins (s : State) (n : Nat) (f : ValveSt → ValveSt) : (s.setValve n f).dins = s.dins := rfl
@[simp] theorem State.setValve_ahead (s : State) (n : Nat) (f : ValveSt → ValveSt) : (s.setValve n f).ahead = s.ahead := rfl
@[simp] theorem State.setValve_phyLines (s : State) (n : Nat) (f : ValveSt → ValveSt) : (s.setValve n f).phyLines = s.phyLines := rfl
@[simp] theorem State.setValve_age (s : State) (n : Nat) (f : ValveSt → ValveSt) : (s.setValve n f).age = s.age := rfl
@[simp] theorem State.setValve_reverseAt (s : State) (n : Nat) (f : ValveSt → ValveSt) : (s.setValve n f).reverseAt = s.reverseAt := rfl
@[simp] theorem State.setValve_dies (s : State) (n : Nat) (f : ValveSt → ValveSt) : (s.setValve n f).dies = s.dies := rfl
@[simp] theorem State.setValve_msh (s : State) (n : Nat) (f : ValveSt → ValveSt) : (s.setValve n f).msh = s.msh := rfl
@[simp] theorem State.setValve_tmrs (s : State) (n : Nat) (f : ValveSt → ValveSt) : (s.setValve n f).tmrs = s.tmrs := rfl
@[simp] theorem State.setValve_tchs (s : State) (n : Nat) (f : ValveSt → ValveSt) : (s.setValve n f).tchs = s.tchs := rfl
@[simp] theorem State.setValve_stg (s : State) (n : Nat) (f : ValveSt → ValveSt) : (s.setValve n f).stg = s.stg := rfl
@[simp] theorem State.setValve_sw (s : State) (n : Nat) (f : ValveSt → ValveSt) : (s.setValve n f).sw = s.sw := rfl
@[simp] theorem State.setValve_pwr (s : State) (n : Nat) (f : ValveSt → ValveSt) : (s.setValve n f).pwr = s.pwr := rfl
@[simp] theorem State.setValve_nms (s : State) (n : Nat) (f : ValveSt → ValveSt) : (s.setValve n f).nms = s.nms := rfl
@[simp] theorem State.setValve_ring (s : State) (n : Nat) (f : ValveSt → ValveSt) : (s.setValve n f).ring = s.ring := rfl
@[simp] theorem State.setValve_cans (s : State) (n : Nat) (f : ValveSt → ValveSt) : (s.setValve n f).cans = s.cans := rfl
@[simp] theorem State.setValve_vault (s : State) (n : Nat) (f : ValveSt → ValveSt) : (s.setValve n f).vault = s.vault := rfl
@[simp] theorem State.setValve_acc (s : State) (n : Nat) (f : ValveSt → ValveSt) : (s.setValve n f).acc = s.acc := rfl
@[simp] theorem State.setValve_book (s : State) (n : Nat) (f : ValveSt → ValveSt) : (s.setValve n f).book = s.book := rfl
@[simp] theorem State.setValve_ageing (s : State) (n : Nat) (f : ValveSt → ValveSt) : (s.setValve n f).ageing = s.ageing := rfl
@[simp] theorem State.setValve_pac (s : State) (n : Nat) (f : ValveSt → ValveSt) : (s.setValve n f).pac = s.pac := rfl
@[simp] theorem State.setValve_tap (s : State) (n : Nat) (f : ValveSt → ValveSt) : (s.setValve n f).tap = s.tap := rfl
@[simp] theorem State.setValve_clk (s : State) (n : Nat) (f : ValveSt → ValveSt) : (s.setValve n f).clk = s.clk := rfl
@[simp] theorem State.setValve_sup (s : State) (n : Nat) (f : ValveSt → ValveSt) : (s.setValve n f).sup = s.sup := rfl
@[simp] theorem State.setValve_boot (s : State) (n : Nat) (f : ValveSt → ValveSt) : (s.setValve n f).boot = s.boot := rfl

@[simp] theorem State.setCtx_pending (s : State) (str : Bool) (f : CtxSt → CtxSt) : (s.setCtx str f).pending = s.pending := rfl
@[simp] theorem State.setCtx_now (s : State) (str : Bool) (f : CtxSt → CtxSt) : (s.setCtx str f).now = s.now := rfl
@[simp] theorem State.setCtx_splitZero (s : State) (str : Bool) (f : CtxSt → CtxSt) : (s.setCtx str f).splitZero = s.splitZero := rfl
@[simp] theorem State.setCtx_fresh (s : State) (str : Bool) (f : CtxSt → CtxSt) : (s.setCtx str f).fresh = s.fresh := rfl
@[simp] theorem State.setCtx_regs (s : State) (str : Bool) (f : CtxSt → CtxSt) : (s.setCtx str f).regs = s.regs := rfl
@[simp] theorem State.setCtx_img (s : State) (str : Bool) (f : CtxSt → CtxSt) : (s.setCtx str f).img = s.img := rfl
@[simp] theorem State.setCtx_shadow (s : State) (str : Bool) (f : CtxSt → CtxSt) : (s.setCtx str f).shadow = s.shadow := rfl
@[simp] theorem State.setCtx_cfgAct (s : State) (str : Bool) (f : CtxSt → CtxSt) : (s.setCtx str f).cfgAct = s.cfgAct := rfl
@[simp] theorem State.setCtx_mem (s : State) (str : Bool) (f : CtxSt → CtxSt) : (s.setCtx str f).mem = s.mem := rfl
@[simp] theorem State.setCtx_timers (s : State) (str : Bool) (f : CtxSt → CtxSt) : (s.setCtx str f).timers = s.timers := rfl
@[simp] theorem State.setCtx_episodes (s : State) (str : Bool) (f : CtxSt → CtxSt) : (s.setCtx str f).episodes = s.episodes := rfl
@[simp] theorem State.setCtx_lockFirst (s : State) (str : Bool) (f : CtxSt → CtxSt) : (s.setCtx str f).lockFirst = s.lockFirst := rfl
@[simp] theorem State.setCtx_resetWait (s : State) (str : Bool) (f : CtxSt → CtxSt) : (s.setCtx str f).resetWait = s.resetWait := rfl
@[simp] theorem State.setCtx_enableWait (s : State) (str : Bool) (f : CtxSt → CtxSt) : (s.setCtx str f).enableWait = s.enableWait := rfl
@[simp] theorem State.setCtx_stride (s : State) (str : Bool) (f : CtxSt → CtxSt) : (s.setCtx str f).stride = s.stride := rfl
@[simp] theorem State.setCtx_queues (s : State) (str : Bool) (f : CtxSt → CtxSt) : (s.setCtx str f).queues = s.queues := rfl
@[simp] theorem State.setCtx_latches (s : State) (str : Bool) (f : CtxSt → CtxSt) : (s.setCtx str f).latches = s.latches := rfl
@[simp] theorem State.setCtx_fcr (s : State) (str : Bool) (f : CtxSt → CtxSt) : (s.setCtx str f).fcr = s.fcr := rfl
@[simp] theorem State.setCtx_outs (s : State) (str : Bool) (f : CtxSt → CtxSt) : (s.setCtx str f).outs = s.outs := rfl
@[simp] theorem State.setCtx_valves (s : State) (str : Bool) (f : CtxSt → CtxSt) : (s.setCtx str f).valves = s.valves := rfl
@[simp] theorem State.setCtx_bridges (s : State) (str : Bool) (f : CtxSt → CtxSt) : (s.setCtx str f).bridges = s.bridges := rfl
@[simp] theorem State.setCtx_scan (s : State) (str : Bool) (f : CtxSt → CtxSt) : (s.setCtx str f).scan = s.scan := rfl
@[simp] theorem State.setCtx_seq (s : State) (str : Bool) (f : CtxSt → CtxSt) : (s.setCtx str f).seq = s.seq := rfl
@[simp] theorem State.setCtx_cal (s : State) (str : Bool) (f : CtxSt → CtxSt) : (s.setCtx str f).cal = s.cal := rfl
@[simp] theorem State.setCtx_strobes (s : State) (str : Bool) (f : CtxSt → CtxSt) : (s.setCtx str f).strobes = s.strobes := rfl
@[simp] theorem State.setCtx_dins (s : State) (str : Bool) (f : CtxSt → CtxSt) : (s.setCtx str f).dins = s.dins := rfl
@[simp] theorem State.setCtx_ahead (s : State) (str : Bool) (f : CtxSt → CtxSt) : (s.setCtx str f).ahead = s.ahead := rfl
@[simp] theorem State.setCtx_phyLines (s : State) (str : Bool) (f : CtxSt → CtxSt) : (s.setCtx str f).phyLines = s.phyLines := rfl
@[simp] theorem State.setCtx_age (s : State) (str : Bool) (f : CtxSt → CtxSt) : (s.setCtx str f).age = s.age := rfl
@[simp] theorem State.setCtx_reverseAt (s : State) (str : Bool) (f : CtxSt → CtxSt) : (s.setCtx str f).reverseAt = s.reverseAt := rfl
@[simp] theorem State.setCtx_dies (s : State) (str : Bool) (f : CtxSt → CtxSt) : (s.setCtx str f).dies = s.dies := rfl
@[simp] theorem State.setCtx_msh (s : State) (str : Bool) (f : CtxSt → CtxSt) : (s.setCtx str f).msh = s.msh := rfl
@[simp] theorem State.setCtx_tmrs (s : State) (str : Bool) (f : CtxSt → CtxSt) : (s.setCtx str f).tmrs = s.tmrs := rfl
@[simp] theorem State.setCtx_tchs (s : State) (str : Bool) (f : CtxSt → CtxSt) : (s.setCtx str f).tchs = s.tchs := rfl
@[simp] theorem State.setCtx_stg (s : State) (str : Bool) (f : CtxSt → CtxSt) : (s.setCtx str f).stg = s.stg := rfl
@[simp] theorem State.setCtx_sw (s : State) (str : Bool) (f : CtxSt → CtxSt) : (s.setCtx str f).sw = s.sw := rfl
@[simp] theorem State.setCtx_pwr (s : State) (str : Bool) (f : CtxSt → CtxSt) : (s.setCtx str f).pwr = s.pwr := rfl
@[simp] theorem State.setCtx_nms (s : State) (str : Bool) (f : CtxSt → CtxSt) : (s.setCtx str f).nms = s.nms := rfl
@[simp] theorem State.setCtx_ring (s : State) (str : Bool) (f : CtxSt → CtxSt) : (s.setCtx str f).ring = s.ring := rfl
@[simp] theorem State.setCtx_cans (s : State) (str : Bool) (f : CtxSt → CtxSt) : (s.setCtx str f).cans = s.cans := rfl
@[simp] theorem State.setCtx_vault (s : State) (str : Bool) (f : CtxSt → CtxSt) : (s.setCtx str f).vault = s.vault := rfl
@[simp] theorem State.setCtx_acc (s : State) (str : Bool) (f : CtxSt → CtxSt) : (s.setCtx str f).acc = s.acc := rfl
@[simp] theorem State.setCtx_book (s : State) (str : Bool) (f : CtxSt → CtxSt) : (s.setCtx str f).book = s.book := rfl
@[simp] theorem State.setCtx_ageing (s : State) (str : Bool) (f : CtxSt → CtxSt) : (s.setCtx str f).ageing = s.ageing := rfl
@[simp] theorem State.setCtx_tap (s : State) (str : Bool) (f : CtxSt → CtxSt) : (s.setCtx str f).tap = s.tap := rfl
@[simp] theorem State.setCtx_clk (s : State) (str : Bool) (f : CtxSt → CtxSt) : (s.setCtx str f).clk = s.clk := rfl
@[simp] theorem State.setCtx_sup (s : State) (str : Bool) (f : CtxSt → CtxSt) : (s.setCtx str f).sup = s.sup := rfl
@[simp] theorem State.setCtx_boot (s : State) (str : Bool) (f : CtxSt → CtxSt) : (s.setCtx str f).boot = s.boot := rfl

/-! Reads that an update leaves. -/

@[simp] theorem State.act_wr (s : State) (p off : Nat) (w : Word) (rg : Fld) : (s.wr p off w).act rg = s.act rg := rfl
@[simp] theorem State.byte_wr (s : State) (p off : Nat) (w : Word) (rj : Nat) : (s.wr p off w).byte rj = s.byte rj := rfl
@[simp] theorem State.bytes_wr (s : State) (p off : Nat) (w : Word) (rj rm : Nat) : (s.wr p off w).bytes rj rm = s.bytes rj rm := rfl
@[simp] theorem State.le_wr (s : State) (p off : Nat) (w : Word) (rj rm : Nat) : (s.wr p off w).le rj rm = s.le rj rm := rfl
@[simp] theorem State.due_wr (s : State) (p off : Nat) (w : Word) (rx : Timer) : (s.wr p off w).due rx = s.due rx := rfl
@[simp] theorem State.splitAt_wr (s : State) (p off : Nat) (w : Word) (rx : Nat) : (s.wr p off w).splitAt rx = s.splitAt rx := rfl
@[simp] theorem State.out_wr (s : State) (p off : Nat) (w : Word) (rx : OutU) : (s.wr p off w).out rx = s.out rx := rfl
@[simp] theorem State.die_wr (s : State) (p off : Nat) (w : Word) (rx : Nat) : (s.wr p off w).die rx = s.die rx := rfl
@[simp] theorem State.ageOf_wr (s : State) (p off : Nat) (w : Word) (rx : Nat) : (s.wr p off w).ageOf rx = s.ageOf rx := rfl
@[simp] theorem State.queue_wr (s : State) (p off : Nat) (w : Word) (rx : Nat) : (s.wr p off w).queue rx = s.queue rx := rfl
@[simp] theorem State.latch_wr (s : State) (p off : Nat) (w : Word) (rx : Src) : (s.wr p off w).latch rx = s.latch rx := rfl
@[simp] theorem State.valve_wr (s : State) (p off : Nat) (w : Word) (rx : Nat) : (s.wr p off w).valve rx = s.valve rx := rfl
@[simp] theorem State.bridge_wr (s : State) (p off : Nat) (w : Word) (rx : Nat) : (s.wr p off w).bridge rx = s.bridge rx := rfl
@[simp] theorem State.can_wr (s : State) (p off : Nat) (w : Word) (rx : Nat) : (s.wr p off w).can rx = s.can rx := rfl
@[simp] theorem State.nm_wr (s : State) (p off : Nat) (w : Word) (rx : Nat) : (s.wr p off w).nm rx = s.nm rx := rfl
@[simp] theorem State.din_wr (s : State) (p off : Nat) (w : Word) (rx : Nat) : (s.wr p off w).din rx = s.din rx := rfl
@[simp] theorem State.strobe_wr (s : State) (p off : Nat) (w : Word) (rx : Nat) : (s.wr p off w).strobe rx = s.strobe rx := rfl
@[simp] theorem State.tmr_wr (s : State) (p off : Nat) (w : Word) (rx : Nat) : (s.wr p off w).tmr rx = s.tmr rx := rfl
@[simp] theorem State.tch_wr (s : State) (p off : Nat) (w : Word) (rx : Nat) : (s.wr p off w).tch rx = s.tch rx := rfl
@[simp] theorem State.port_wr (s : State) (p off : Nat) (w : Word) (rx : Nat) : (s.wr p off w).port rx = s.port rx := rfl
@[simp] theorem State.stream_wr (s : State) (p off : Nat) (w : Word) (rx : Nat) : (s.wr p off w).stream rx = s.stream rx := rfl
@[simp] theorem State.tas_wr (s : State) (p off : Nat) (w : Word) (rx : Nat) : (s.wr p off w).tas rx = s.tas rx := rfl
@[simp] theorem State.ctx_wr (s : State) (p off : Nat) (w : Word) (rx : Bool) : (s.wr p off w).ctx rx = s.ctx rx := rfl

@[simp] theorem State.act_put (s : State) (f : Fld) (v : Nat) (rg : Fld) : (s.put f v).act rg = s.act rg := rfl
@[simp] theorem State.byte_put (s : State) (f : Fld) (v : Nat) (rj : Nat) : (s.put f v).byte rj = s.byte rj := rfl
@[simp] theorem State.bytes_put (s : State) (f : Fld) (v : Nat) (rj rm : Nat) : (s.put f v).bytes rj rm = s.bytes rj rm := rfl
@[simp] theorem State.le_put (s : State) (f : Fld) (v : Nat) (rj rm : Nat) : (s.put f v).le rj rm = s.le rj rm := rfl
@[simp] theorem State.due_put (s : State) (f : Fld) (v : Nat) (rx : Timer) : (s.put f v).due rx = s.due rx := rfl
@[simp] theorem State.splitAt_put (s : State) (f : Fld) (v : Nat) (rx : Nat) : (s.put f v).splitAt rx = s.splitAt rx := rfl
@[simp] theorem State.out_put (s : State) (f : Fld) (v : Nat) (rx : OutU) : (s.put f v).out rx = s.out rx := rfl
@[simp] theorem State.die_put (s : State) (f : Fld) (v : Nat) (rx : Nat) : (s.put f v).die rx = s.die rx := rfl
@[simp] theorem State.ageOf_put (s : State) (f : Fld) (v : Nat) (rx : Nat) : (s.put f v).ageOf rx = s.ageOf rx := rfl
@[simp] theorem State.queue_put (s : State) (f : Fld) (v : Nat) (rx : Nat) : (s.put f v).queue rx = s.queue rx := rfl
@[simp] theorem State.latch_put (s : State) (f : Fld) (v : Nat) (rx : Src) : (s.put f v).latch rx = s.latch rx := rfl
@[simp] theorem State.valve_put (s : State) (f : Fld) (v : Nat) (rx : Nat) : (s.put f v).valve rx = s.valve rx := rfl
@[simp] theorem State.bridge_put (s : State) (f : Fld) (v : Nat) (rx : Nat) : (s.put f v).bridge rx = s.bridge rx := rfl
@[simp] theorem State.can_put (s : State) (f : Fld) (v : Nat) (rx : Nat) : (s.put f v).can rx = s.can rx := rfl
@[simp] theorem State.nm_put (s : State) (f : Fld) (v : Nat) (rx : Nat) : (s.put f v).nm rx = s.nm rx := rfl
@[simp] theorem State.din_put (s : State) (f : Fld) (v : Nat) (rx : Nat) : (s.put f v).din rx = s.din rx := rfl
@[simp] theorem State.strobe_put (s : State) (f : Fld) (v : Nat) (rx : Nat) : (s.put f v).strobe rx = s.strobe rx := rfl
@[simp] theorem State.tmr_put (s : State) (f : Fld) (v : Nat) (rx : Nat) : (s.put f v).tmr rx = s.tmr rx := rfl
@[simp] theorem State.tch_put (s : State) (f : Fld) (v : Nat) (rx : Nat) : (s.put f v).tch rx = s.tch rx := rfl
@[simp] theorem State.port_put (s : State) (f : Fld) (v : Nat) (rx : Nat) : (s.put f v).port rx = s.port rx := rfl
@[simp] theorem State.stream_put (s : State) (f : Fld) (v : Nat) (rx : Nat) : (s.put f v).stream rx = s.stream rx := rfl
@[simp] theorem State.tas_put (s : State) (f : Fld) (v : Nat) (rx : Nat) : (s.put f v).tas rx = s.tas rx := rfl
@[simp] theorem State.ctx_put (s : State) (f : Fld) (v : Nat) (rx : Bool) : (s.put f v).ctx rx = s.ctx rx := rfl

@[simp] theorem State.act_count (s : State) (f : Fld) (k : Nat) (rg : Fld) : (s.count f k).act rg = s.act rg := rfl
@[simp] theorem State.byte_count (s : State) (f : Fld) (k : Nat) (rj : Nat) : (s.count f k).byte rj = s.byte rj := rfl
@[simp] theorem State.bytes_count (s : State) (f : Fld) (k : Nat) (rj rm : Nat) : (s.count f k).bytes rj rm = s.bytes rj rm := rfl
@[simp] theorem State.le_count (s : State) (f : Fld) (k : Nat) (rj rm : Nat) : (s.count f k).le rj rm = s.le rj rm := rfl
@[simp] theorem State.due_count (s : State) (f : Fld) (k : Nat) (rx : Timer) : (s.count f k).due rx = s.due rx := rfl
@[simp] theorem State.splitAt_count (s : State) (f : Fld) (k : Nat) (rx : Nat) : (s.count f k).splitAt rx = s.splitAt rx := rfl
@[simp] theorem State.out_count (s : State) (f : Fld) (k : Nat) (rx : OutU) : (s.count f k).out rx = s.out rx := rfl
@[simp] theorem State.die_count (s : State) (f : Fld) (k : Nat) (rx : Nat) : (s.count f k).die rx = s.die rx := rfl
@[simp] theorem State.ageOf_count (s : State) (f : Fld) (k : Nat) (rx : Nat) : (s.count f k).ageOf rx = s.ageOf rx := rfl
@[simp] theorem State.queue_count (s : State) (f : Fld) (k : Nat) (rx : Nat) : (s.count f k).queue rx = s.queue rx := rfl
@[simp] theorem State.latch_count (s : State) (f : Fld) (k : Nat) (rx : Src) : (s.count f k).latch rx = s.latch rx := rfl
@[simp] theorem State.valve_count (s : State) (f : Fld) (k : Nat) (rx : Nat) : (s.count f k).valve rx = s.valve rx := rfl
@[simp] theorem State.bridge_count (s : State) (f : Fld) (k : Nat) (rx : Nat) : (s.count f k).bridge rx = s.bridge rx := rfl
@[simp] theorem State.can_count (s : State) (f : Fld) (k : Nat) (rx : Nat) : (s.count f k).can rx = s.can rx := rfl
@[simp] theorem State.nm_count (s : State) (f : Fld) (k : Nat) (rx : Nat) : (s.count f k).nm rx = s.nm rx := rfl
@[simp] theorem State.din_count (s : State) (f : Fld) (k : Nat) (rx : Nat) : (s.count f k).din rx = s.din rx := rfl
@[simp] theorem State.strobe_count (s : State) (f : Fld) (k : Nat) (rx : Nat) : (s.count f k).strobe rx = s.strobe rx := rfl
@[simp] theorem State.tmr_count (s : State) (f : Fld) (k : Nat) (rx : Nat) : (s.count f k).tmr rx = s.tmr rx := rfl
@[simp] theorem State.tch_count (s : State) (f : Fld) (k : Nat) (rx : Nat) : (s.count f k).tch rx = s.tch rx := rfl
@[simp] theorem State.port_count (s : State) (f : Fld) (k : Nat) (rx : Nat) : (s.count f k).port rx = s.port rx := rfl
@[simp] theorem State.stream_count (s : State) (f : Fld) (k : Nat) (rx : Nat) : (s.count f k).stream rx = s.stream rx := rfl
@[simp] theorem State.tas_count (s : State) (f : Fld) (k : Nat) (rx : Nat) : (s.count f k).tas rx = s.tas rx := rfl
@[simp] theorem State.ctx_count (s : State) (f : Fld) (k : Nat) (rx : Bool) : (s.count f k).ctx rx = s.ctx rx := rfl

@[simp] theorem State.act_evt (s : State) (p b : Nat) (rg : Fld) : (s.evt p b).act rg = s.act rg := rfl
@[simp] theorem State.byte_evt (s : State) (p b : Nat) (rj : Nat) : (s.evt p b).byte rj = s.byte rj := rfl
@[simp] theorem State.bytes_evt (s : State) (p b : Nat) (rj rm : Nat) : (s.evt p b).bytes rj rm = s.bytes rj rm := rfl
@[simp] theorem State.le_evt (s : State) (p b : Nat) (rj rm : Nat) : (s.evt p b).le rj rm = s.le rj rm := rfl
@[simp] theorem State.due_evt (s : State) (p b : Nat) (rx : Timer) : (s.evt p b).due rx = s.due rx := rfl
@[simp] theorem State.splitAt_evt (s : State) (p b : Nat) (rx : Nat) : (s.evt p b).splitAt rx = s.splitAt rx := rfl
@[simp] theorem State.out_evt (s : State) (p b : Nat) (rx : OutU) : (s.evt p b).out rx = s.out rx := rfl
@[simp] theorem State.die_evt (s : State) (p b : Nat) (rx : Nat) : (s.evt p b).die rx = s.die rx := rfl
@[simp] theorem State.ageOf_evt (s : State) (p b : Nat) (rx : Nat) : (s.evt p b).ageOf rx = s.ageOf rx := rfl
@[simp] theorem State.queue_evt (s : State) (p b : Nat) (rx : Nat) : (s.evt p b).queue rx = s.queue rx := rfl
@[simp] theorem State.latch_evt (s : State) (p b : Nat) (rx : Src) : (s.evt p b).latch rx = s.latch rx := rfl
@[simp] theorem State.valve_evt (s : State) (p b : Nat) (rx : Nat) : (s.evt p b).valve rx = s.valve rx := rfl
@[simp] theorem State.bridge_evt (s : State) (p b : Nat) (rx : Nat) : (s.evt p b).bridge rx = s.bridge rx := rfl
@[simp] theorem State.can_evt (s : State) (p b : Nat) (rx : Nat) : (s.evt p b).can rx = s.can rx := rfl
@[simp] theorem State.nm_evt (s : State) (p b : Nat) (rx : Nat) : (s.evt p b).nm rx = s.nm rx := rfl
@[simp] theorem State.din_evt (s : State) (p b : Nat) (rx : Nat) : (s.evt p b).din rx = s.din rx := rfl
@[simp] theorem State.strobe_evt (s : State) (p b : Nat) (rx : Nat) : (s.evt p b).strobe rx = s.strobe rx := rfl
@[simp] theorem State.tmr_evt (s : State) (p b : Nat) (rx : Nat) : (s.evt p b).tmr rx = s.tmr rx := rfl
@[simp] theorem State.tch_evt (s : State) (p b : Nat) (rx : Nat) : (s.evt p b).tch rx = s.tch rx := rfl
@[simp] theorem State.port_evt (s : State) (p b : Nat) (rx : Nat) : (s.evt p b).port rx = s.port rx := rfl
@[simp] theorem State.stream_evt (s : State) (p b : Nat) (rx : Nat) : (s.evt p b).stream rx = s.stream rx := rfl
@[simp] theorem State.tas_evt (s : State) (p b : Nat) (rx : Nat) : (s.evt p b).tas rx = s.tas rx := rfl
@[simp] theorem State.ctx_evt (s : State) (p b : Nat) (rx : Bool) : (s.evt p b).ctx rx = s.ctx rx := rfl

@[simp] theorem State.act_setFlag (s : State) (f : Fld) (b : Nat) (rg : Fld) : (s.setFlag f b).act rg = s.act rg := rfl
@[simp] theorem State.byte_setFlag (s : State) (f : Fld) (b : Nat) (rj : Nat) : (s.setFlag f b).byte rj = s.byte rj := rfl
@[simp] theorem State.bytes_setFlag (s : State) (f : Fld) (b : Nat) (rj rm : Nat) : (s.setFlag f b).bytes rj rm = s.bytes rj rm := rfl
@[simp] theorem State.le_setFlag (s : State) (f : Fld) (b : Nat) (rj rm : Nat) : (s.setFlag f b).le rj rm = s.le rj rm := rfl
@[simp] theorem State.due_setFlag (s : State) (f : Fld) (b : Nat) (rx : Timer) : (s.setFlag f b).due rx = s.due rx := rfl
@[simp] theorem State.splitAt_setFlag (s : State) (f : Fld) (b : Nat) (rx : Nat) : (s.setFlag f b).splitAt rx = s.splitAt rx := rfl
@[simp] theorem State.out_setFlag (s : State) (f : Fld) (b : Nat) (rx : OutU) : (s.setFlag f b).out rx = s.out rx := rfl
@[simp] theorem State.die_setFlag (s : State) (f : Fld) (b : Nat) (rx : Nat) : (s.setFlag f b).die rx = s.die rx := rfl
@[simp] theorem State.ageOf_setFlag (s : State) (f : Fld) (b : Nat) (rx : Nat) : (s.setFlag f b).ageOf rx = s.ageOf rx := rfl
@[simp] theorem State.queue_setFlag (s : State) (f : Fld) (b : Nat) (rx : Nat) : (s.setFlag f b).queue rx = s.queue rx := rfl
@[simp] theorem State.latch_setFlag (s : State) (f : Fld) (b : Nat) (rx : Src) : (s.setFlag f b).latch rx = s.latch rx := rfl
@[simp] theorem State.valve_setFlag (s : State) (f : Fld) (b : Nat) (rx : Nat) : (s.setFlag f b).valve rx = s.valve rx := rfl
@[simp] theorem State.bridge_setFlag (s : State) (f : Fld) (b : Nat) (rx : Nat) : (s.setFlag f b).bridge rx = s.bridge rx := rfl
@[simp] theorem State.can_setFlag (s : State) (f : Fld) (b : Nat) (rx : Nat) : (s.setFlag f b).can rx = s.can rx := rfl
@[simp] theorem State.nm_setFlag (s : State) (f : Fld) (b : Nat) (rx : Nat) : (s.setFlag f b).nm rx = s.nm rx := rfl
@[simp] theorem State.din_setFlag (s : State) (f : Fld) (b : Nat) (rx : Nat) : (s.setFlag f b).din rx = s.din rx := rfl
@[simp] theorem State.strobe_setFlag (s : State) (f : Fld) (b : Nat) (rx : Nat) : (s.setFlag f b).strobe rx = s.strobe rx := rfl
@[simp] theorem State.tmr_setFlag (s : State) (f : Fld) (b : Nat) (rx : Nat) : (s.setFlag f b).tmr rx = s.tmr rx := rfl
@[simp] theorem State.tch_setFlag (s : State) (f : Fld) (b : Nat) (rx : Nat) : (s.setFlag f b).tch rx = s.tch rx := rfl
@[simp] theorem State.port_setFlag (s : State) (f : Fld) (b : Nat) (rx : Nat) : (s.setFlag f b).port rx = s.port rx := rfl
@[simp] theorem State.stream_setFlag (s : State) (f : Fld) (b : Nat) (rx : Nat) : (s.setFlag f b).stream rx = s.stream rx := rfl
@[simp] theorem State.tas_setFlag (s : State) (f : Fld) (b : Nat) (rx : Nat) : (s.setFlag f b).tas rx = s.tas rx := rfl
@[simp] theorem State.ctx_setFlag (s : State) (f : Fld) (b : Nat) (rx : Bool) : (s.setFlag f b).ctx rx = s.ctx rx := rfl

@[simp] theorem State.act_clrFlag (s : State) (f : Fld) (b : Nat) (rg : Fld) : (s.clrFlag f b).act rg = s.act rg := rfl
@[simp] theorem State.byte_clrFlag (s : State) (f : Fld) (b : Nat) (rj : Nat) : (s.clrFlag f b).byte rj = s.byte rj := rfl
@[simp] theorem State.bytes_clrFlag (s : State) (f : Fld) (b : Nat) (rj rm : Nat) : (s.clrFlag f b).bytes rj rm = s.bytes rj rm := rfl
@[simp] theorem State.le_clrFlag (s : State) (f : Fld) (b : Nat) (rj rm : Nat) : (s.clrFlag f b).le rj rm = s.le rj rm := rfl
@[simp] theorem State.due_clrFlag (s : State) (f : Fld) (b : Nat) (rx : Timer) : (s.clrFlag f b).due rx = s.due rx := rfl
@[simp] theorem State.splitAt_clrFlag (s : State) (f : Fld) (b : Nat) (rx : Nat) : (s.clrFlag f b).splitAt rx = s.splitAt rx := rfl
@[simp] theorem State.out_clrFlag (s : State) (f : Fld) (b : Nat) (rx : OutU) : (s.clrFlag f b).out rx = s.out rx := rfl
@[simp] theorem State.die_clrFlag (s : State) (f : Fld) (b : Nat) (rx : Nat) : (s.clrFlag f b).die rx = s.die rx := rfl
@[simp] theorem State.ageOf_clrFlag (s : State) (f : Fld) (b : Nat) (rx : Nat) : (s.clrFlag f b).ageOf rx = s.ageOf rx := rfl
@[simp] theorem State.queue_clrFlag (s : State) (f : Fld) (b : Nat) (rx : Nat) : (s.clrFlag f b).queue rx = s.queue rx := rfl
@[simp] theorem State.latch_clrFlag (s : State) (f : Fld) (b : Nat) (rx : Src) : (s.clrFlag f b).latch rx = s.latch rx := rfl
@[simp] theorem State.valve_clrFlag (s : State) (f : Fld) (b : Nat) (rx : Nat) : (s.clrFlag f b).valve rx = s.valve rx := rfl
@[simp] theorem State.bridge_clrFlag (s : State) (f : Fld) (b : Nat) (rx : Nat) : (s.clrFlag f b).bridge rx = s.bridge rx := rfl
@[simp] theorem State.can_clrFlag (s : State) (f : Fld) (b : Nat) (rx : Nat) : (s.clrFlag f b).can rx = s.can rx := rfl
@[simp] theorem State.nm_clrFlag (s : State) (f : Fld) (b : Nat) (rx : Nat) : (s.clrFlag f b).nm rx = s.nm rx := rfl
@[simp] theorem State.din_clrFlag (s : State) (f : Fld) (b : Nat) (rx : Nat) : (s.clrFlag f b).din rx = s.din rx := rfl
@[simp] theorem State.strobe_clrFlag (s : State) (f : Fld) (b : Nat) (rx : Nat) : (s.clrFlag f b).strobe rx = s.strobe rx := rfl
@[simp] theorem State.tmr_clrFlag (s : State) (f : Fld) (b : Nat) (rx : Nat) : (s.clrFlag f b).tmr rx = s.tmr rx := rfl
@[simp] theorem State.tch_clrFlag (s : State) (f : Fld) (b : Nat) (rx : Nat) : (s.clrFlag f b).tch rx = s.tch rx := rfl
@[simp] theorem State.port_clrFlag (s : State) (f : Fld) (b : Nat) (rx : Nat) : (s.clrFlag f b).port rx = s.port rx := rfl
@[simp] theorem State.stream_clrFlag (s : State) (f : Fld) (b : Nat) (rx : Nat) : (s.clrFlag f b).stream rx = s.stream rx := rfl
@[simp] theorem State.tas_clrFlag (s : State) (f : Fld) (b : Nat) (rx : Nat) : (s.clrFlag f b).tas rx = s.tas rx := rfl
@[simp] theorem State.ctx_clrFlag (s : State) (f : Fld) (b : Nat) (rx : Bool) : (s.clrFlag f b).ctx rx = s.ctx rx := rfl

@[simp] theorem State.act_setLap (s : State) (n : Nat) (rg : Fld) : (s.setLap n).act rg = s.act rg := by unfold State.act; simp only [State.setLap_img, State.setLap_cfgAct]
@[simp] theorem State.byte_setLap (s : State) (n : Nat) (rj : Nat) : (s.setLap n).byte rj = s.byte rj := by unfold State.byte; simp only [State.setLap_mem]
@[simp] theorem State.bytes_setLap (s : State) (n : Nat) (rj rm : Nat) : (s.setLap n).bytes rj rm = s.bytes rj rm := by simp only [State.le, State.bytes, State.byte, State.setLap_mem]
@[simp] theorem State.le_setLap (s : State) (n : Nat) (rj rm : Nat) : (s.setLap n).le rj rm = s.le rj rm := by simp only [State.le, State.bytes, State.byte, State.setLap_mem]
@[simp] theorem State.due_setLap (s : State) (n : Nat) (rx : Timer) : (s.setLap n).due rx = s.due rx := by unfold State.due; simp only [State.setLap_timers]
@[simp] theorem State.splitAt_setLap (s : State) (n : Nat) (rx : Nat) : (s.setLap n).splitAt rx = s.splitAt rx := by unfold State.splitAt; simp only [State.setLap_splitZero]
@[simp] theorem State.out_setLap (s : State) (n : Nat) (rx : OutU) : (s.setLap n).out rx = s.out rx := by unfold State.out; simp only [State.setLap_outs]
@[simp] theorem State.die_setLap (s : State) (n : Nat) (rx : Nat) : (s.setLap n).die rx = s.die rx := by unfold State.die; simp only [State.setLap_dies]
@[simp] theorem State.ageOf_setLap (s : State) (n : Nat) (rx : Nat) : (s.setLap n).ageOf rx = s.ageOf rx := by unfold State.ageOf; simp only [State.setLap_age]
@[simp] theorem State.queue_setLap (s : State) (n : Nat) (rx : Nat) : (s.setLap n).queue rx = s.queue rx := by unfold State.queue; simp only [State.setLap_queues]
@[simp] theorem State.latch_setLap (s : State) (n : Nat) (rx : Src) : (s.setLap n).latch rx = s.latch rx := by unfold State.latch; simp only [State.setLap_latches]
@[simp] theorem State.valve_setLap (s : State) (n : Nat) (rx : Nat) : (s.setLap n).valve rx = s.valve rx := by unfold State.valve; simp only [State.setLap_valves]
@[simp] theorem State.bridge_setLap (s : State) (n : Nat) (rx : Nat) : (s.setLap n).bridge rx = s.bridge rx := by unfold State.bridge; simp only [State.setLap_bridges]
@[simp] theorem State.can_setLap (s : State) (n : Nat) (rx : Nat) : (s.setLap n).can rx = s.can rx := by unfold State.can; simp only [State.setLap_cans]
@[simp] theorem State.nm_setLap (s : State) (n : Nat) (rx : Nat) : (s.setLap n).nm rx = s.nm rx := by unfold State.nm; simp only [State.setLap_nms]
@[simp] theorem State.din_setLap (s : State) (n : Nat) (rx : Nat) : (s.setLap n).din rx = s.din rx := by unfold State.din; simp only [State.setLap_dins]
@[simp] theorem State.strobe_setLap (s : State) (n : Nat) (rx : Nat) : (s.setLap n).strobe rx = s.strobe rx := by unfold State.strobe; simp only [State.setLap_strobes]
@[simp] theorem State.tmr_setLap (s : State) (n : Nat) (rx : Nat) : (s.setLap n).tmr rx = s.tmr rx := by unfold State.tmr; simp only [State.setLap_tmrs]
@[simp] theorem State.tch_setLap (s : State) (n : Nat) (rx : Nat) : (s.setLap n).tch rx = s.tch rx := by unfold State.tch; simp only [State.setLap_tchs]
@[simp] theorem State.port_setLap (s : State) (n : Nat) (rx : Nat) : (s.setLap n).port rx = s.port rx := by unfold State.port; simp only [State.setLap_sw]
@[simp] theorem State.stream_setLap (s : State) (n : Nat) (rx : Nat) : (s.setLap n).stream rx = s.stream rx := by unfold State.stream; simp only [State.setLap_sw]
@[simp] theorem State.tas_setLap (s : State) (n : Nat) (rx : Nat) : (s.setLap n).tas rx = s.tas rx := by unfold State.tas; simp only [State.setLap_sw]
@[simp] theorem State.ctx_setLap (s : State) (n : Nat) (rx : Bool) : (s.setLap n).ctx rx = s.ctx rx := by unfold State.ctx; simp only [State.setLap_pac]

@[simp] theorem State.act_yieldRegs (s : State) (g c : Nat) (rg : Fld) : (s.yieldRegs g c).act rg = s.act rg := by unfold State.act; simp only [State.yieldRegs_img, State.yieldRegs_cfgAct]
@[simp] theorem State.byte_yieldRegs (s : State) (g c : Nat) (rj : Nat) : (s.yieldRegs g c).byte rj = s.byte rj := by unfold State.byte; simp only [State.yieldRegs_mem]
@[simp] theorem State.bytes_yieldRegs (s : State) (g c : Nat) (rj rm : Nat) : (s.yieldRegs g c).bytes rj rm = s.bytes rj rm := by simp only [State.le, State.bytes, State.byte, State.yieldRegs_mem]
@[simp] theorem State.le_yieldRegs (s : State) (g c : Nat) (rj rm : Nat) : (s.yieldRegs g c).le rj rm = s.le rj rm := by simp only [State.le, State.bytes, State.byte, State.yieldRegs_mem]
@[simp] theorem State.due_yieldRegs (s : State) (g c : Nat) (rx : Timer) : (s.yieldRegs g c).due rx = s.due rx := by unfold State.due; simp only [State.yieldRegs_timers]
@[simp] theorem State.splitAt_yieldRegs (s : State) (g c : Nat) (rx : Nat) : (s.yieldRegs g c).splitAt rx = s.splitAt rx := by unfold State.splitAt; simp only [State.yieldRegs_splitZero]
@[simp] theorem State.out_yieldRegs (s : State) (g c : Nat) (rx : OutU) : (s.yieldRegs g c).out rx = s.out rx := by unfold State.out; simp only [State.yieldRegs_outs]
@[simp] theorem State.die_yieldRegs (s : State) (g c : Nat) (rx : Nat) : (s.yieldRegs g c).die rx = s.die rx := by unfold State.die; simp only [State.yieldRegs_dies]
@[simp] theorem State.ageOf_yieldRegs (s : State) (g c : Nat) (rx : Nat) : (s.yieldRegs g c).ageOf rx = s.ageOf rx := by unfold State.ageOf; simp only [State.yieldRegs_age]
@[simp] theorem State.queue_yieldRegs (s : State) (g c : Nat) (rx : Nat) : (s.yieldRegs g c).queue rx = s.queue rx := by unfold State.queue; simp only [State.yieldRegs_queues]
@[simp] theorem State.latch_yieldRegs (s : State) (g c : Nat) (rx : Src) : (s.yieldRegs g c).latch rx = s.latch rx := by unfold State.latch; simp only [State.yieldRegs_latches]
@[simp] theorem State.valve_yieldRegs (s : State) (g c : Nat) (rx : Nat) : (s.yieldRegs g c).valve rx = s.valve rx := by unfold State.valve; simp only [State.yieldRegs_valves]
@[simp] theorem State.bridge_yieldRegs (s : State) (g c : Nat) (rx : Nat) : (s.yieldRegs g c).bridge rx = s.bridge rx := by unfold State.bridge; simp only [State.yieldRegs_bridges]
@[simp] theorem State.can_yieldRegs (s : State) (g c : Nat) (rx : Nat) : (s.yieldRegs g c).can rx = s.can rx := by unfold State.can; simp only [State.yieldRegs_cans]
@[simp] theorem State.nm_yieldRegs (s : State) (g c : Nat) (rx : Nat) : (s.yieldRegs g c).nm rx = s.nm rx := by unfold State.nm; simp only [State.yieldRegs_nms]
@[simp] theorem State.din_yieldRegs (s : State) (g c : Nat) (rx : Nat) : (s.yieldRegs g c).din rx = s.din rx := by unfold State.din; simp only [State.yieldRegs_dins]
@[simp] theorem State.strobe_yieldRegs (s : State) (g c : Nat) (rx : Nat) : (s.yieldRegs g c).strobe rx = s.strobe rx := by unfold State.strobe; simp only [State.yieldRegs_strobes]
@[simp] theorem State.tmr_yieldRegs (s : State) (g c : Nat) (rx : Nat) : (s.yieldRegs g c).tmr rx = s.tmr rx := by unfold State.tmr; simp only [State.yieldRegs_tmrs]
@[simp] theorem State.tch_yieldRegs (s : State) (g c : Nat) (rx : Nat) : (s.yieldRegs g c).tch rx = s.tch rx := by unfold State.tch; simp only [State.yieldRegs_tchs]
@[simp] theorem State.port_yieldRegs (s : State) (g c : Nat) (rx : Nat) : (s.yieldRegs g c).port rx = s.port rx := by unfold State.port; simp only [State.yieldRegs_sw]
@[simp] theorem State.stream_yieldRegs (s : State) (g c : Nat) (rx : Nat) : (s.yieldRegs g c).stream rx = s.stream rx := by unfold State.stream; simp only [State.yieldRegs_sw]
@[simp] theorem State.tas_yieldRegs (s : State) (g c : Nat) (rx : Nat) : (s.yieldRegs g c).tas rx = s.tas rx := by unfold State.tas; simp only [State.yieldRegs_sw]
@[simp] theorem State.ctx_yieldRegs (s : State) (g c : Nat) (rx : Bool) : (s.yieldRegs g c).ctx rx = s.ctx rx := by unfold State.ctx; simp only [State.yieldRegs_pac]

@[simp] theorem State.rd_reach (s : State) (t : Nat) (rq ro : Nat) : (s.reach t).rd rq ro = s.rd rq ro := rfl
@[simp] theorem State.get_reach (s : State) (t : Nat) (rg : Fld) : (s.reach t).get rg = s.get rg := rfl
@[simp] theorem State.flag_reach (s : State) (t : Nat) (rg : Fld) : (s.reach t).flag rg = s.flag rg := rfl
@[simp] theorem State.act_reach (s : State) (t : Nat) (rg : Fld) : (s.reach t).act rg = s.act rg := rfl
@[simp] theorem State.next_reach (s : State) (t : Nat) (rg : Fld) : (s.reach t).next rg = s.next rg := rfl
@[simp] theorem State.byte_reach (s : State) (t : Nat) (rj : Nat) : (s.reach t).byte rj = s.byte rj := rfl
@[simp] theorem State.bytes_reach (s : State) (t : Nat) (rj rm : Nat) : (s.reach t).bytes rj rm = s.bytes rj rm := rfl
@[simp] theorem State.le_reach (s : State) (t : Nat) (rj rm : Nat) : (s.reach t).le rj rm = s.le rj rm := rfl
@[simp] theorem State.due_reach (s : State) (t : Nat) (rx : Timer) : (s.reach t).due rx = s.due rx := rfl
@[simp] theorem State.lap_reach (s : State) (t : Nat) : (s.reach t).lap = s.lap := rfl
@[simp] theorem State.splitAt_reach (s : State) (t : Nat) (rx : Nat) : (s.reach t).splitAt rx = s.splitAt rx := rfl
@[simp] theorem State.out_reach (s : State) (t : Nat) (rx : OutU) : (s.reach t).out rx = s.out rx := rfl
@[simp] theorem State.die_reach (s : State) (t : Nat) (rx : Nat) : (s.reach t).die rx = s.die rx := rfl
@[simp] theorem State.ageOf_reach (s : State) (t : Nat) (rx : Nat) : (s.reach t).ageOf rx = s.ageOf rx := rfl
@[simp] theorem State.queue_reach (s : State) (t : Nat) (rx : Nat) : (s.reach t).queue rx = s.queue rx := rfl
@[simp] theorem State.latch_reach (s : State) (t : Nat) (rx : Src) : (s.reach t).latch rx = s.latch rx := rfl
@[simp] theorem State.valve_reach (s : State) (t : Nat) (rx : Nat) : (s.reach t).valve rx = s.valve rx := rfl
@[simp] theorem State.bridge_reach (s : State) (t : Nat) (rx : Nat) : (s.reach t).bridge rx = s.bridge rx := rfl
@[simp] theorem State.can_reach (s : State) (t : Nat) (rx : Nat) : (s.reach t).can rx = s.can rx := rfl
@[simp] theorem State.nm_reach (s : State) (t : Nat) (rx : Nat) : (s.reach t).nm rx = s.nm rx := rfl
@[simp] theorem State.din_reach (s : State) (t : Nat) (rx : Nat) : (s.reach t).din rx = s.din rx := rfl
@[simp] theorem State.strobe_reach (s : State) (t : Nat) (rx : Nat) : (s.reach t).strobe rx = s.strobe rx := rfl
@[simp] theorem State.tmr_reach (s : State) (t : Nat) (rx : Nat) : (s.reach t).tmr rx = s.tmr rx := rfl
@[simp] theorem State.tch_reach (s : State) (t : Nat) (rx : Nat) : (s.reach t).tch rx = s.tch rx := rfl
@[simp] theorem State.port_reach (s : State) (t : Nat) (rx : Nat) : (s.reach t).port rx = s.port rx := rfl
@[simp] theorem State.stream_reach (s : State) (t : Nat) (rx : Nat) : (s.reach t).stream rx = s.stream rx := rfl
@[simp] theorem State.tas_reach (s : State) (t : Nat) (rx : Nat) : (s.reach t).tas rx = s.tas rx := rfl
@[simp] theorem State.ctx_reach (s : State) (t : Nat) (rx : Bool) : (s.reach t).ctx rx = s.ctx rx := rfl

@[simp] theorem State.rd_arm (s : State) (k : Timer) (t : Nat) (rq ro : Nat) : (s.arm k t).rd rq ro = s.rd rq ro := rfl
@[simp] theorem State.get_arm (s : State) (k : Timer) (t : Nat) (rg : Fld) : (s.arm k t).get rg = s.get rg := rfl
@[simp] theorem State.flag_arm (s : State) (k : Timer) (t : Nat) (rg : Fld) : (s.arm k t).flag rg = s.flag rg := rfl
@[simp] theorem State.act_arm (s : State) (k : Timer) (t : Nat) (rg : Fld) : (s.arm k t).act rg = s.act rg := rfl
@[simp] theorem State.next_arm (s : State) (k : Timer) (t : Nat) (rg : Fld) : (s.arm k t).next rg = s.next rg := rfl
@[simp] theorem State.byte_arm (s : State) (k : Timer) (t : Nat) (rj : Nat) : (s.arm k t).byte rj = s.byte rj := rfl
@[simp] theorem State.bytes_arm (s : State) (k : Timer) (t : Nat) (rj rm : Nat) : (s.arm k t).bytes rj rm = s.bytes rj rm := rfl
@[simp] theorem State.le_arm (s : State) (k : Timer) (t : Nat) (rj rm : Nat) : (s.arm k t).le rj rm = s.le rj rm := rfl
@[simp] theorem State.lap_arm (s : State) (k : Timer) (t : Nat) : (s.arm k t).lap = s.lap := rfl
@[simp] theorem State.splitAt_arm (s : State) (k : Timer) (t : Nat) (rx : Nat) : (s.arm k t).splitAt rx = s.splitAt rx := rfl
@[simp] theorem State.out_arm (s : State) (k : Timer) (t : Nat) (rx : OutU) : (s.arm k t).out rx = s.out rx := rfl
@[simp] theorem State.die_arm (s : State) (k : Timer) (t : Nat) (rx : Nat) : (s.arm k t).die rx = s.die rx := rfl
@[simp] theorem State.ageOf_arm (s : State) (k : Timer) (t : Nat) (rx : Nat) : (s.arm k t).ageOf rx = s.ageOf rx := rfl
@[simp] theorem State.queue_arm (s : State) (k : Timer) (t : Nat) (rx : Nat) : (s.arm k t).queue rx = s.queue rx := rfl
@[simp] theorem State.latch_arm (s : State) (k : Timer) (t : Nat) (rx : Src) : (s.arm k t).latch rx = s.latch rx := rfl
@[simp] theorem State.valve_arm (s : State) (k : Timer) (t : Nat) (rx : Nat) : (s.arm k t).valve rx = s.valve rx := rfl
@[simp] theorem State.bridge_arm (s : State) (k : Timer) (t : Nat) (rx : Nat) : (s.arm k t).bridge rx = s.bridge rx := rfl
@[simp] theorem State.can_arm (s : State) (k : Timer) (t : Nat) (rx : Nat) : (s.arm k t).can rx = s.can rx := rfl
@[simp] theorem State.nm_arm (s : State) (k : Timer) (t : Nat) (rx : Nat) : (s.arm k t).nm rx = s.nm rx := rfl
@[simp] theorem State.din_arm (s : State) (k : Timer) (t : Nat) (rx : Nat) : (s.arm k t).din rx = s.din rx := rfl
@[simp] theorem State.strobe_arm (s : State) (k : Timer) (t : Nat) (rx : Nat) : (s.arm k t).strobe rx = s.strobe rx := rfl
@[simp] theorem State.tmr_arm (s : State) (k : Timer) (t : Nat) (rx : Nat) : (s.arm k t).tmr rx = s.tmr rx := rfl
@[simp] theorem State.tch_arm (s : State) (k : Timer) (t : Nat) (rx : Nat) : (s.arm k t).tch rx = s.tch rx := rfl
@[simp] theorem State.port_arm (s : State) (k : Timer) (t : Nat) (rx : Nat) : (s.arm k t).port rx = s.port rx := rfl
@[simp] theorem State.stream_arm (s : State) (k : Timer) (t : Nat) (rx : Nat) : (s.arm k t).stream rx = s.stream rx := rfl
@[simp] theorem State.tas_arm (s : State) (k : Timer) (t : Nat) (rx : Nat) : (s.arm k t).tas rx = s.tas rx := rfl
@[simp] theorem State.ctx_arm (s : State) (k : Timer) (t : Nat) (rx : Bool) : (s.arm k t).ctx rx = s.ctx rx := rfl

@[simp] theorem State.rd_disarm (s : State) (k : Timer) (rq ro : Nat) : (s.disarm k).rd rq ro = s.rd rq ro := rfl
@[simp] theorem State.get_disarm (s : State) (k : Timer) (rg : Fld) : (s.disarm k).get rg = s.get rg := rfl
@[simp] theorem State.flag_disarm (s : State) (k : Timer) (rg : Fld) : (s.disarm k).flag rg = s.flag rg := rfl
@[simp] theorem State.act_disarm (s : State) (k : Timer) (rg : Fld) : (s.disarm k).act rg = s.act rg := rfl
@[simp] theorem State.next_disarm (s : State) (k : Timer) (rg : Fld) : (s.disarm k).next rg = s.next rg := rfl
@[simp] theorem State.byte_disarm (s : State) (k : Timer) (rj : Nat) : (s.disarm k).byte rj = s.byte rj := rfl
@[simp] theorem State.bytes_disarm (s : State) (k : Timer) (rj rm : Nat) : (s.disarm k).bytes rj rm = s.bytes rj rm := rfl
@[simp] theorem State.le_disarm (s : State) (k : Timer) (rj rm : Nat) : (s.disarm k).le rj rm = s.le rj rm := rfl
@[simp] theorem State.lap_disarm (s : State) (k : Timer) : (s.disarm k).lap = s.lap := rfl
@[simp] theorem State.splitAt_disarm (s : State) (k : Timer) (rx : Nat) : (s.disarm k).splitAt rx = s.splitAt rx := rfl
@[simp] theorem State.out_disarm (s : State) (k : Timer) (rx : OutU) : (s.disarm k).out rx = s.out rx := rfl
@[simp] theorem State.die_disarm (s : State) (k : Timer) (rx : Nat) : (s.disarm k).die rx = s.die rx := rfl
@[simp] theorem State.ageOf_disarm (s : State) (k : Timer) (rx : Nat) : (s.disarm k).ageOf rx = s.ageOf rx := rfl
@[simp] theorem State.queue_disarm (s : State) (k : Timer) (rx : Nat) : (s.disarm k).queue rx = s.queue rx := rfl
@[simp] theorem State.latch_disarm (s : State) (k : Timer) (rx : Src) : (s.disarm k).latch rx = s.latch rx := rfl
@[simp] theorem State.valve_disarm (s : State) (k : Timer) (rx : Nat) : (s.disarm k).valve rx = s.valve rx := rfl
@[simp] theorem State.bridge_disarm (s : State) (k : Timer) (rx : Nat) : (s.disarm k).bridge rx = s.bridge rx := rfl
@[simp] theorem State.can_disarm (s : State) (k : Timer) (rx : Nat) : (s.disarm k).can rx = s.can rx := rfl
@[simp] theorem State.nm_disarm (s : State) (k : Timer) (rx : Nat) : (s.disarm k).nm rx = s.nm rx := rfl
@[simp] theorem State.din_disarm (s : State) (k : Timer) (rx : Nat) : (s.disarm k).din rx = s.din rx := rfl
@[simp] theorem State.strobe_disarm (s : State) (k : Timer) (rx : Nat) : (s.disarm k).strobe rx = s.strobe rx := rfl
@[simp] theorem State.tmr_disarm (s : State) (k : Timer) (rx : Nat) : (s.disarm k).tmr rx = s.tmr rx := rfl
@[simp] theorem State.tch_disarm (s : State) (k : Timer) (rx : Nat) : (s.disarm k).tch rx = s.tch rx := rfl
@[simp] theorem State.port_disarm (s : State) (k : Timer) (rx : Nat) : (s.disarm k).port rx = s.port rx := rfl
@[simp] theorem State.stream_disarm (s : State) (k : Timer) (rx : Nat) : (s.disarm k).stream rx = s.stream rx := rfl
@[simp] theorem State.tas_disarm (s : State) (k : Timer) (rx : Nat) : (s.disarm k).tas rx = s.tas rx := rfl
@[simp] theorem State.ctx_disarm (s : State) (k : Timer) (rx : Bool) : (s.disarm k).ctx rx = s.ctx rx := rfl

@[simp] theorem State.rd_setByte (s : State) (a : Nat) (b : Byte) (rq ro : Nat) : (s.setByte a b).rd rq ro = s.rd rq ro := rfl
@[simp] theorem State.get_setByte (s : State) (a : Nat) (b : Byte) (rg : Fld) : (s.setByte a b).get rg = s.get rg := rfl
@[simp] theorem State.flag_setByte (s : State) (a : Nat) (b : Byte) (rg : Fld) : (s.setByte a b).flag rg = s.flag rg := rfl
@[simp] theorem State.act_setByte (s : State) (a : Nat) (b : Byte) (rg : Fld) : (s.setByte a b).act rg = s.act rg := rfl
@[simp] theorem State.next_setByte (s : State) (a : Nat) (b : Byte) (rg : Fld) : (s.setByte a b).next rg = s.next rg := rfl
@[simp] theorem State.due_setByte (s : State) (a : Nat) (b : Byte) (rx : Timer) : (s.setByte a b).due rx = s.due rx := rfl
@[simp] theorem State.lap_setByte (s : State) (a : Nat) (b : Byte) : (s.setByte a b).lap = s.lap := rfl
@[simp] theorem State.splitAt_setByte (s : State) (a : Nat) (b : Byte) (rx : Nat) : (s.setByte a b).splitAt rx = s.splitAt rx := rfl
@[simp] theorem State.out_setByte (s : State) (a : Nat) (b : Byte) (rx : OutU) : (s.setByte a b).out rx = s.out rx := rfl
@[simp] theorem State.die_setByte (s : State) (a : Nat) (b : Byte) (rx : Nat) : (s.setByte a b).die rx = s.die rx := rfl
@[simp] theorem State.ageOf_setByte (s : State) (a : Nat) (b : Byte) (rx : Nat) : (s.setByte a b).ageOf rx = s.ageOf rx := rfl
@[simp] theorem State.queue_setByte (s : State) (a : Nat) (b : Byte) (rx : Nat) : (s.setByte a b).queue rx = s.queue rx := rfl
@[simp] theorem State.latch_setByte (s : State) (a : Nat) (b : Byte) (rx : Src) : (s.setByte a b).latch rx = s.latch rx := rfl
@[simp] theorem State.valve_setByte (s : State) (a : Nat) (b : Byte) (rx : Nat) : (s.setByte a b).valve rx = s.valve rx := rfl
@[simp] theorem State.bridge_setByte (s : State) (a : Nat) (b : Byte) (rx : Nat) : (s.setByte a b).bridge rx = s.bridge rx := rfl
@[simp] theorem State.can_setByte (s : State) (a : Nat) (b : Byte) (rx : Nat) : (s.setByte a b).can rx = s.can rx := rfl
@[simp] theorem State.nm_setByte (s : State) (a : Nat) (b : Byte) (rx : Nat) : (s.setByte a b).nm rx = s.nm rx := rfl
@[simp] theorem State.din_setByte (s : State) (a : Nat) (b : Byte) (rx : Nat) : (s.setByte a b).din rx = s.din rx := rfl
@[simp] theorem State.strobe_setByte (s : State) (a : Nat) (b : Byte) (rx : Nat) : (s.setByte a b).strobe rx = s.strobe rx := rfl
@[simp] theorem State.tmr_setByte (s : State) (a : Nat) (b : Byte) (rx : Nat) : (s.setByte a b).tmr rx = s.tmr rx := rfl
@[simp] theorem State.tch_setByte (s : State) (a : Nat) (b : Byte) (rx : Nat) : (s.setByte a b).tch rx = s.tch rx := rfl
@[simp] theorem State.port_setByte (s : State) (a : Nat) (b : Byte) (rx : Nat) : (s.setByte a b).port rx = s.port rx := rfl
@[simp] theorem State.stream_setByte (s : State) (a : Nat) (b : Byte) (rx : Nat) : (s.setByte a b).stream rx = s.stream rx := rfl
@[simp] theorem State.tas_setByte (s : State) (a : Nat) (b : Byte) (rx : Nat) : (s.setByte a b).tas rx = s.tas rx := rfl
@[simp] theorem State.ctx_setByte (s : State) (a : Nat) (b : Byte) (rx : Bool) : (s.setByte a b).ctx rx = s.ctx rx := rfl

@[simp] theorem State.rd_setBytes (s : State) (a : Nat) (bs : List Byte) (rq ro : Nat) : (s.setBytes a bs).rd rq ro = s.rd rq ro := rfl
@[simp] theorem State.get_setBytes (s : State) (a : Nat) (bs : List Byte) (rg : Fld) : (s.setBytes a bs).get rg = s.get rg := rfl
@[simp] theorem State.flag_setBytes (s : State) (a : Nat) (bs : List Byte) (rg : Fld) : (s.setBytes a bs).flag rg = s.flag rg := rfl
@[simp] theorem State.act_setBytes (s : State) (a : Nat) (bs : List Byte) (rg : Fld) : (s.setBytes a bs).act rg = s.act rg := rfl
@[simp] theorem State.next_setBytes (s : State) (a : Nat) (bs : List Byte) (rg : Fld) : (s.setBytes a bs).next rg = s.next rg := rfl
@[simp] theorem State.due_setBytes (s : State) (a : Nat) (bs : List Byte) (rx : Timer) : (s.setBytes a bs).due rx = s.due rx := rfl
@[simp] theorem State.lap_setBytes (s : State) (a : Nat) (bs : List Byte) : (s.setBytes a bs).lap = s.lap := rfl
@[simp] theorem State.splitAt_setBytes (s : State) (a : Nat) (bs : List Byte) (rx : Nat) : (s.setBytes a bs).splitAt rx = s.splitAt rx := rfl
@[simp] theorem State.out_setBytes (s : State) (a : Nat) (bs : List Byte) (rx : OutU) : (s.setBytes a bs).out rx = s.out rx := rfl
@[simp] theorem State.die_setBytes (s : State) (a : Nat) (bs : List Byte) (rx : Nat) : (s.setBytes a bs).die rx = s.die rx := rfl
@[simp] theorem State.ageOf_setBytes (s : State) (a : Nat) (bs : List Byte) (rx : Nat) : (s.setBytes a bs).ageOf rx = s.ageOf rx := rfl
@[simp] theorem State.queue_setBytes (s : State) (a : Nat) (bs : List Byte) (rx : Nat) : (s.setBytes a bs).queue rx = s.queue rx := rfl
@[simp] theorem State.latch_setBytes (s : State) (a : Nat) (bs : List Byte) (rx : Src) : (s.setBytes a bs).latch rx = s.latch rx := rfl
@[simp] theorem State.valve_setBytes (s : State) (a : Nat) (bs : List Byte) (rx : Nat) : (s.setBytes a bs).valve rx = s.valve rx := rfl
@[simp] theorem State.bridge_setBytes (s : State) (a : Nat) (bs : List Byte) (rx : Nat) : (s.setBytes a bs).bridge rx = s.bridge rx := rfl
@[simp] theorem State.can_setBytes (s : State) (a : Nat) (bs : List Byte) (rx : Nat) : (s.setBytes a bs).can rx = s.can rx := rfl
@[simp] theorem State.nm_setBytes (s : State) (a : Nat) (bs : List Byte) (rx : Nat) : (s.setBytes a bs).nm rx = s.nm rx := rfl
@[simp] theorem State.din_setBytes (s : State) (a : Nat) (bs : List Byte) (rx : Nat) : (s.setBytes a bs).din rx = s.din rx := rfl
@[simp] theorem State.strobe_setBytes (s : State) (a : Nat) (bs : List Byte) (rx : Nat) : (s.setBytes a bs).strobe rx = s.strobe rx := rfl
@[simp] theorem State.tmr_setBytes (s : State) (a : Nat) (bs : List Byte) (rx : Nat) : (s.setBytes a bs).tmr rx = s.tmr rx := rfl
@[simp] theorem State.tch_setBytes (s : State) (a : Nat) (bs : List Byte) (rx : Nat) : (s.setBytes a bs).tch rx = s.tch rx := rfl
@[simp] theorem State.port_setBytes (s : State) (a : Nat) (bs : List Byte) (rx : Nat) : (s.setBytes a bs).port rx = s.port rx := rfl
@[simp] theorem State.stream_setBytes (s : State) (a : Nat) (bs : List Byte) (rx : Nat) : (s.setBytes a bs).stream rx = s.stream rx := rfl
@[simp] theorem State.tas_setBytes (s : State) (a : Nat) (bs : List Byte) (rx : Nat) : (s.setBytes a bs).tas rx = s.tas rx := rfl
@[simp] theorem State.ctx_setBytes (s : State) (a : Nat) (bs : List Byte) (rx : Bool) : (s.setBytes a bs).ctx rx = s.ctx rx := rfl

@[simp] theorem State.rd_setLe (s : State) (a n v : Nat) (rq ro : Nat) : (s.setLe a n v).rd rq ro = s.rd rq ro := rfl
@[simp] theorem State.get_setLe (s : State) (a n v : Nat) (rg : Fld) : (s.setLe a n v).get rg = s.get rg := rfl
@[simp] theorem State.flag_setLe (s : State) (a n v : Nat) (rg : Fld) : (s.setLe a n v).flag rg = s.flag rg := rfl
@[simp] theorem State.act_setLe (s : State) (a n v : Nat) (rg : Fld) : (s.setLe a n v).act rg = s.act rg := rfl
@[simp] theorem State.next_setLe (s : State) (a n v : Nat) (rg : Fld) : (s.setLe a n v).next rg = s.next rg := rfl
@[simp] theorem State.due_setLe (s : State) (a n v : Nat) (rx : Timer) : (s.setLe a n v).due rx = s.due rx := rfl
@[simp] theorem State.lap_setLe (s : State) (a n v : Nat) : (s.setLe a n v).lap = s.lap := rfl
@[simp] theorem State.splitAt_setLe (s : State) (a n v : Nat) (rx : Nat) : (s.setLe a n v).splitAt rx = s.splitAt rx := rfl
@[simp] theorem State.out_setLe (s : State) (a n v : Nat) (rx : OutU) : (s.setLe a n v).out rx = s.out rx := rfl
@[simp] theorem State.die_setLe (s : State) (a n v : Nat) (rx : Nat) : (s.setLe a n v).die rx = s.die rx := rfl
@[simp] theorem State.ageOf_setLe (s : State) (a n v : Nat) (rx : Nat) : (s.setLe a n v).ageOf rx = s.ageOf rx := rfl
@[simp] theorem State.queue_setLe (s : State) (a n v : Nat) (rx : Nat) : (s.setLe a n v).queue rx = s.queue rx := rfl
@[simp] theorem State.latch_setLe (s : State) (a n v : Nat) (rx : Src) : (s.setLe a n v).latch rx = s.latch rx := rfl
@[simp] theorem State.valve_setLe (s : State) (a n v : Nat) (rx : Nat) : (s.setLe a n v).valve rx = s.valve rx := rfl
@[simp] theorem State.bridge_setLe (s : State) (a n v : Nat) (rx : Nat) : (s.setLe a n v).bridge rx = s.bridge rx := rfl
@[simp] theorem State.can_setLe (s : State) (a n v : Nat) (rx : Nat) : (s.setLe a n v).can rx = s.can rx := rfl
@[simp] theorem State.nm_setLe (s : State) (a n v : Nat) (rx : Nat) : (s.setLe a n v).nm rx = s.nm rx := rfl
@[simp] theorem State.din_setLe (s : State) (a n v : Nat) (rx : Nat) : (s.setLe a n v).din rx = s.din rx := rfl
@[simp] theorem State.strobe_setLe (s : State) (a n v : Nat) (rx : Nat) : (s.setLe a n v).strobe rx = s.strobe rx := rfl
@[simp] theorem State.tmr_setLe (s : State) (a n v : Nat) (rx : Nat) : (s.setLe a n v).tmr rx = s.tmr rx := rfl
@[simp] theorem State.tch_setLe (s : State) (a n v : Nat) (rx : Nat) : (s.setLe a n v).tch rx = s.tch rx := rfl
@[simp] theorem State.port_setLe (s : State) (a n v : Nat) (rx : Nat) : (s.setLe a n v).port rx = s.port rx := rfl
@[simp] theorem State.stream_setLe (s : State) (a n v : Nat) (rx : Nat) : (s.setLe a n v).stream rx = s.stream rx := rfl
@[simp] theorem State.tas_setLe (s : State) (a n v : Nat) (rx : Nat) : (s.setLe a n v).tas rx = s.tas rx := rfl
@[simp] theorem State.ctx_setLe (s : State) (a n v : Nat) (rx : Bool) : (s.setLe a n v).ctx rx = s.ctx rx := rfl

@[simp] theorem State.rd_zero (s : State) (a b : Nat) (rq ro : Nat) : (s.zero a b).rd rq ro = s.rd rq ro := rfl
@[simp] theorem State.get_zero (s : State) (a b : Nat) (rg : Fld) : (s.zero a b).get rg = s.get rg := rfl
@[simp] theorem State.flag_zero (s : State) (a b : Nat) (rg : Fld) : (s.zero a b).flag rg = s.flag rg := rfl
@[simp] theorem State.act_zero (s : State) (a b : Nat) (rg : Fld) : (s.zero a b).act rg = s.act rg := rfl
@[simp] theorem State.next_zero (s : State) (a b : Nat) (rg : Fld) : (s.zero a b).next rg = s.next rg := rfl
@[simp] theorem State.due_zero (s : State) (a b : Nat) (rx : Timer) : (s.zero a b).due rx = s.due rx := rfl
@[simp] theorem State.lap_zero (s : State) (a b : Nat) : (s.zero a b).lap = s.lap := rfl
@[simp] theorem State.splitAt_zero (s : State) (a b : Nat) (rx : Nat) : (s.zero a b).splitAt rx = s.splitAt rx := rfl
@[simp] theorem State.out_zero (s : State) (a b : Nat) (rx : OutU) : (s.zero a b).out rx = s.out rx := rfl
@[simp] theorem State.die_zero (s : State) (a b : Nat) (rx : Nat) : (s.zero a b).die rx = s.die rx := rfl
@[simp] theorem State.ageOf_zero (s : State) (a b : Nat) (rx : Nat) : (s.zero a b).ageOf rx = s.ageOf rx := rfl
@[simp] theorem State.queue_zero (s : State) (a b : Nat) (rx : Nat) : (s.zero a b).queue rx = s.queue rx := rfl
@[simp] theorem State.latch_zero (s : State) (a b : Nat) (rx : Src) : (s.zero a b).latch rx = s.latch rx := rfl
@[simp] theorem State.valve_zero (s : State) (a b : Nat) (rx : Nat) : (s.zero a b).valve rx = s.valve rx := rfl
@[simp] theorem State.bridge_zero (s : State) (a b : Nat) (rx : Nat) : (s.zero a b).bridge rx = s.bridge rx := rfl
@[simp] theorem State.can_zero (s : State) (a b : Nat) (rx : Nat) : (s.zero a b).can rx = s.can rx := rfl
@[simp] theorem State.nm_zero (s : State) (a b : Nat) (rx : Nat) : (s.zero a b).nm rx = s.nm rx := rfl
@[simp] theorem State.din_zero (s : State) (a b : Nat) (rx : Nat) : (s.zero a b).din rx = s.din rx := rfl
@[simp] theorem State.strobe_zero (s : State) (a b : Nat) (rx : Nat) : (s.zero a b).strobe rx = s.strobe rx := rfl
@[simp] theorem State.tmr_zero (s : State) (a b : Nat) (rx : Nat) : (s.zero a b).tmr rx = s.tmr rx := rfl
@[simp] theorem State.tch_zero (s : State) (a b : Nat) (rx : Nat) : (s.zero a b).tch rx = s.tch rx := rfl
@[simp] theorem State.port_zero (s : State) (a b : Nat) (rx : Nat) : (s.zero a b).port rx = s.port rx := rfl
@[simp] theorem State.stream_zero (s : State) (a b : Nat) (rx : Nat) : (s.zero a b).stream rx = s.stream rx := rfl
@[simp] theorem State.tas_zero (s : State) (a b : Nat) (rx : Nat) : (s.zero a b).tas rx = s.tas rx := rfl
@[simp] theorem State.ctx_zero (s : State) (a b : Nat) (rx : Bool) : (s.zero a b).ctx rx = s.ctx rx := rfl

@[simp] theorem State.rd_detect (s : State) (i u : Nat) (rq ro : Nat) : (s.detect i u).rd rq ro = s.rd rq ro := rfl
@[simp] theorem State.get_detect (s : State) (i u : Nat) (rg : Fld) : (s.detect i u).get rg = s.get rg := rfl
@[simp] theorem State.flag_detect (s : State) (i u : Nat) (rg : Fld) : (s.detect i u).flag rg = s.flag rg := rfl
@[simp] theorem State.act_detect (s : State) (i u : Nat) (rg : Fld) : (s.detect i u).act rg = s.act rg := rfl
@[simp] theorem State.next_detect (s : State) (i u : Nat) (rg : Fld) : (s.detect i u).next rg = s.next rg := rfl
@[simp] theorem State.byte_detect (s : State) (i u : Nat) (rj : Nat) : (s.detect i u).byte rj = s.byte rj := rfl
@[simp] theorem State.bytes_detect (s : State) (i u : Nat) (rj rm : Nat) : (s.detect i u).bytes rj rm = s.bytes rj rm := rfl
@[simp] theorem State.le_detect (s : State) (i u : Nat) (rj rm : Nat) : (s.detect i u).le rj rm = s.le rj rm := rfl
@[simp] theorem State.due_detect (s : State) (i u : Nat) (rx : Timer) : (s.detect i u).due rx = s.due rx := rfl
@[simp] theorem State.lap_detect (s : State) (i u : Nat) : (s.detect i u).lap = s.lap := rfl
@[simp] theorem State.splitAt_detect (s : State) (i u : Nat) (rx : Nat) : (s.detect i u).splitAt rx = s.splitAt rx := rfl
@[simp] theorem State.out_detect (s : State) (i u : Nat) (rx : OutU) : (s.detect i u).out rx = s.out rx := rfl
@[simp] theorem State.die_detect (s : State) (i u : Nat) (rx : Nat) : (s.detect i u).die rx = s.die rx := rfl
@[simp] theorem State.ageOf_detect (s : State) (i u : Nat) (rx : Nat) : (s.detect i u).ageOf rx = s.ageOf rx := rfl
@[simp] theorem State.queue_detect (s : State) (i u : Nat) (rx : Nat) : (s.detect i u).queue rx = s.queue rx := rfl
@[simp] theorem State.latch_detect (s : State) (i u : Nat) (rx : Src) : (s.detect i u).latch rx = s.latch rx := rfl
@[simp] theorem State.valve_detect (s : State) (i u : Nat) (rx : Nat) : (s.detect i u).valve rx = s.valve rx := rfl
@[simp] theorem State.bridge_detect (s : State) (i u : Nat) (rx : Nat) : (s.detect i u).bridge rx = s.bridge rx := rfl
@[simp] theorem State.can_detect (s : State) (i u : Nat) (rx : Nat) : (s.detect i u).can rx = s.can rx := rfl
@[simp] theorem State.nm_detect (s : State) (i u : Nat) (rx : Nat) : (s.detect i u).nm rx = s.nm rx := rfl
@[simp] theorem State.din_detect (s : State) (i u : Nat) (rx : Nat) : (s.detect i u).din rx = s.din rx := rfl
@[simp] theorem State.strobe_detect (s : State) (i u : Nat) (rx : Nat) : (s.detect i u).strobe rx = s.strobe rx := rfl
@[simp] theorem State.tmr_detect (s : State) (i u : Nat) (rx : Nat) : (s.detect i u).tmr rx = s.tmr rx := rfl
@[simp] theorem State.tch_detect (s : State) (i u : Nat) (rx : Nat) : (s.detect i u).tch rx = s.tch rx := rfl
@[simp] theorem State.port_detect (s : State) (i u : Nat) (rx : Nat) : (s.detect i u).port rx = s.port rx := rfl
@[simp] theorem State.stream_detect (s : State) (i u : Nat) (rx : Nat) : (s.detect i u).stream rx = s.stream rx := rfl
@[simp] theorem State.tas_detect (s : State) (i u : Nat) (rx : Nat) : (s.detect i u).tas rx = s.tas rx := rfl
@[simp] theorem State.ctx_detect (s : State) (i u : Nat) (rx : Bool) : (s.detect i u).ctx rx = s.ctx rx := rfl

@[simp] theorem State.rd_setAcc (s : State) (f : AccSt → AccSt) (rq ro : Nat) : (s.setAcc f).rd rq ro = s.rd rq ro := rfl
@[simp] theorem State.get_setAcc (s : State) (f : AccSt → AccSt) (rg : Fld) : (s.setAcc f).get rg = s.get rg := rfl
@[simp] theorem State.flag_setAcc (s : State) (f : AccSt → AccSt) (rg : Fld) : (s.setAcc f).flag rg = s.flag rg := rfl
@[simp] theorem State.act_setAcc (s : State) (f : AccSt → AccSt) (rg : Fld) : (s.setAcc f).act rg = s.act rg := rfl
@[simp] theorem State.next_setAcc (s : State) (f : AccSt → AccSt) (rg : Fld) : (s.setAcc f).next rg = s.next rg := rfl
@[simp] theorem State.byte_setAcc (s : State) (f : AccSt → AccSt) (rj : Nat) : (s.setAcc f).byte rj = s.byte rj := rfl
@[simp] theorem State.bytes_setAcc (s : State) (f : AccSt → AccSt) (rj rm : Nat) : (s.setAcc f).bytes rj rm = s.bytes rj rm := rfl
@[simp] theorem State.le_setAcc (s : State) (f : AccSt → AccSt) (rj rm : Nat) : (s.setAcc f).le rj rm = s.le rj rm := rfl
@[simp] theorem State.due_setAcc (s : State) (f : AccSt → AccSt) (rx : Timer) : (s.setAcc f).due rx = s.due rx := rfl
@[simp] theorem State.lap_setAcc (s : State) (f : AccSt → AccSt) : (s.setAcc f).lap = s.lap := rfl
@[simp] theorem State.splitAt_setAcc (s : State) (f : AccSt → AccSt) (rx : Nat) : (s.setAcc f).splitAt rx = s.splitAt rx := rfl
@[simp] theorem State.out_setAcc (s : State) (f : AccSt → AccSt) (rx : OutU) : (s.setAcc f).out rx = s.out rx := rfl
@[simp] theorem State.die_setAcc (s : State) (f : AccSt → AccSt) (rx : Nat) : (s.setAcc f).die rx = s.die rx := rfl
@[simp] theorem State.ageOf_setAcc (s : State) (f : AccSt → AccSt) (rx : Nat) : (s.setAcc f).ageOf rx = s.ageOf rx := rfl
@[simp] theorem State.queue_setAcc (s : State) (f : AccSt → AccSt) (rx : Nat) : (s.setAcc f).queue rx = s.queue rx := rfl
@[simp] theorem State.latch_setAcc (s : State) (f : AccSt → AccSt) (rx : Src) : (s.setAcc f).latch rx = s.latch rx := rfl
@[simp] theorem State.valve_setAcc (s : State) (f : AccSt → AccSt) (rx : Nat) : (s.setAcc f).valve rx = s.valve rx := rfl
@[simp] theorem State.bridge_setAcc (s : State) (f : AccSt → AccSt) (rx : Nat) : (s.setAcc f).bridge rx = s.bridge rx := rfl
@[simp] theorem State.can_setAcc (s : State) (f : AccSt → AccSt) (rx : Nat) : (s.setAcc f).can rx = s.can rx := rfl
@[simp] theorem State.nm_setAcc (s : State) (f : AccSt → AccSt) (rx : Nat) : (s.setAcc f).nm rx = s.nm rx := rfl
@[simp] theorem State.din_setAcc (s : State) (f : AccSt → AccSt) (rx : Nat) : (s.setAcc f).din rx = s.din rx := rfl
@[simp] theorem State.strobe_setAcc (s : State) (f : AccSt → AccSt) (rx : Nat) : (s.setAcc f).strobe rx = s.strobe rx := rfl
@[simp] theorem State.tmr_setAcc (s : State) (f : AccSt → AccSt) (rx : Nat) : (s.setAcc f).tmr rx = s.tmr rx := rfl
@[simp] theorem State.tch_setAcc (s : State) (f : AccSt → AccSt) (rx : Nat) : (s.setAcc f).tch rx = s.tch rx := rfl
@[simp] theorem State.port_setAcc (s : State) (f : AccSt → AccSt) (rx : Nat) : (s.setAcc f).port rx = s.port rx := rfl
@[simp] theorem State.stream_setAcc (s : State) (f : AccSt → AccSt) (rx : Nat) : (s.setAcc f).stream rx = s.stream rx := rfl
@[simp] theorem State.tas_setAcc (s : State) (f : AccSt → AccSt) (rx : Nat) : (s.setAcc f).tas rx = s.tas rx := rfl
@[simp] theorem State.ctx_setAcc (s : State) (f : AccSt → AccSt) (rx : Bool) : (s.setAcc f).ctx rx = s.ctx rx := rfl

@[simp] theorem State.rd_setVault (s : State) (f : VltSt → VltSt) (rq ro : Nat) : (s.setVault f).rd rq ro = s.rd rq ro := rfl
@[simp] theorem State.get_setVault (s : State) (f : VltSt → VltSt) (rg : Fld) : (s.setVault f).get rg = s.get rg := rfl
@[simp] theorem State.flag_setVault (s : State) (f : VltSt → VltSt) (rg : Fld) : (s.setVault f).flag rg = s.flag rg := rfl
@[simp] theorem State.act_setVault (s : State) (f : VltSt → VltSt) (rg : Fld) : (s.setVault f).act rg = s.act rg := rfl
@[simp] theorem State.next_setVault (s : State) (f : VltSt → VltSt) (rg : Fld) : (s.setVault f).next rg = s.next rg := rfl
@[simp] theorem State.byte_setVault (s : State) (f : VltSt → VltSt) (rj : Nat) : (s.setVault f).byte rj = s.byte rj := rfl
@[simp] theorem State.bytes_setVault (s : State) (f : VltSt → VltSt) (rj rm : Nat) : (s.setVault f).bytes rj rm = s.bytes rj rm := rfl
@[simp] theorem State.le_setVault (s : State) (f : VltSt → VltSt) (rj rm : Nat) : (s.setVault f).le rj rm = s.le rj rm := rfl
@[simp] theorem State.due_setVault (s : State) (f : VltSt → VltSt) (rx : Timer) : (s.setVault f).due rx = s.due rx := rfl
@[simp] theorem State.lap_setVault (s : State) (f : VltSt → VltSt) : (s.setVault f).lap = s.lap := rfl
@[simp] theorem State.splitAt_setVault (s : State) (f : VltSt → VltSt) (rx : Nat) : (s.setVault f).splitAt rx = s.splitAt rx := rfl
@[simp] theorem State.out_setVault (s : State) (f : VltSt → VltSt) (rx : OutU) : (s.setVault f).out rx = s.out rx := rfl
@[simp] theorem State.die_setVault (s : State) (f : VltSt → VltSt) (rx : Nat) : (s.setVault f).die rx = s.die rx := rfl
@[simp] theorem State.ageOf_setVault (s : State) (f : VltSt → VltSt) (rx : Nat) : (s.setVault f).ageOf rx = s.ageOf rx := rfl
@[simp] theorem State.queue_setVault (s : State) (f : VltSt → VltSt) (rx : Nat) : (s.setVault f).queue rx = s.queue rx := rfl
@[simp] theorem State.latch_setVault (s : State) (f : VltSt → VltSt) (rx : Src) : (s.setVault f).latch rx = s.latch rx := rfl
@[simp] theorem State.valve_setVault (s : State) (f : VltSt → VltSt) (rx : Nat) : (s.setVault f).valve rx = s.valve rx := rfl
@[simp] theorem State.bridge_setVault (s : State) (f : VltSt → VltSt) (rx : Nat) : (s.setVault f).bridge rx = s.bridge rx := rfl
@[simp] theorem State.can_setVault (s : State) (f : VltSt → VltSt) (rx : Nat) : (s.setVault f).can rx = s.can rx := rfl
@[simp] theorem State.nm_setVault (s : State) (f : VltSt → VltSt) (rx : Nat) : (s.setVault f).nm rx = s.nm rx := rfl
@[simp] theorem State.din_setVault (s : State) (f : VltSt → VltSt) (rx : Nat) : (s.setVault f).din rx = s.din rx := rfl
@[simp] theorem State.strobe_setVault (s : State) (f : VltSt → VltSt) (rx : Nat) : (s.setVault f).strobe rx = s.strobe rx := rfl
@[simp] theorem State.tmr_setVault (s : State) (f : VltSt → VltSt) (rx : Nat) : (s.setVault f).tmr rx = s.tmr rx := rfl
@[simp] theorem State.tch_setVault (s : State) (f : VltSt → VltSt) (rx : Nat) : (s.setVault f).tch rx = s.tch rx := rfl
@[simp] theorem State.port_setVault (s : State) (f : VltSt → VltSt) (rx : Nat) : (s.setVault f).port rx = s.port rx := rfl
@[simp] theorem State.stream_setVault (s : State) (f : VltSt → VltSt) (rx : Nat) : (s.setVault f).stream rx = s.stream rx := rfl
@[simp] theorem State.tas_setVault (s : State) (f : VltSt → VltSt) (rx : Nat) : (s.setVault f).tas rx = s.tas rx := rfl
@[simp] theorem State.ctx_setVault (s : State) (f : VltSt → VltSt) (rx : Bool) : (s.setVault f).ctx rx = s.ctx rx := rfl

@[simp] theorem State.rd_setAgeing (s : State) (f : AgeSt → AgeSt) (rq ro : Nat) : (s.setAgeing f).rd rq ro = s.rd rq ro := rfl
@[simp] theorem State.get_setAgeing (s : State) (f : AgeSt → AgeSt) (rg : Fld) : (s.setAgeing f).get rg = s.get rg := rfl
@[simp] theorem State.flag_setAgeing (s : State) (f : AgeSt → AgeSt) (rg : Fld) : (s.setAgeing f).flag rg = s.flag rg := rfl
@[simp] theorem State.act_setAgeing (s : State) (f : AgeSt → AgeSt) (rg : Fld) : (s.setAgeing f).act rg = s.act rg := rfl
@[simp] theorem State.next_setAgeing (s : State) (f : AgeSt → AgeSt) (rg : Fld) : (s.setAgeing f).next rg = s.next rg := rfl
@[simp] theorem State.byte_setAgeing (s : State) (f : AgeSt → AgeSt) (rj : Nat) : (s.setAgeing f).byte rj = s.byte rj := rfl
@[simp] theorem State.bytes_setAgeing (s : State) (f : AgeSt → AgeSt) (rj rm : Nat) : (s.setAgeing f).bytes rj rm = s.bytes rj rm := rfl
@[simp] theorem State.le_setAgeing (s : State) (f : AgeSt → AgeSt) (rj rm : Nat) : (s.setAgeing f).le rj rm = s.le rj rm := rfl
@[simp] theorem State.due_setAgeing (s : State) (f : AgeSt → AgeSt) (rx : Timer) : (s.setAgeing f).due rx = s.due rx := rfl
@[simp] theorem State.lap_setAgeing (s : State) (f : AgeSt → AgeSt) : (s.setAgeing f).lap = s.lap := rfl
@[simp] theorem State.splitAt_setAgeing (s : State) (f : AgeSt → AgeSt) (rx : Nat) : (s.setAgeing f).splitAt rx = s.splitAt rx := rfl
@[simp] theorem State.out_setAgeing (s : State) (f : AgeSt → AgeSt) (rx : OutU) : (s.setAgeing f).out rx = s.out rx := rfl
@[simp] theorem State.die_setAgeing (s : State) (f : AgeSt → AgeSt) (rx : Nat) : (s.setAgeing f).die rx = s.die rx := rfl
@[simp] theorem State.ageOf_setAgeing (s : State) (f : AgeSt → AgeSt) (rx : Nat) : (s.setAgeing f).ageOf rx = s.ageOf rx := rfl
@[simp] theorem State.queue_setAgeing (s : State) (f : AgeSt → AgeSt) (rx : Nat) : (s.setAgeing f).queue rx = s.queue rx := rfl
@[simp] theorem State.latch_setAgeing (s : State) (f : AgeSt → AgeSt) (rx : Src) : (s.setAgeing f).latch rx = s.latch rx := rfl
@[simp] theorem State.valve_setAgeing (s : State) (f : AgeSt → AgeSt) (rx : Nat) : (s.setAgeing f).valve rx = s.valve rx := rfl
@[simp] theorem State.bridge_setAgeing (s : State) (f : AgeSt → AgeSt) (rx : Nat) : (s.setAgeing f).bridge rx = s.bridge rx := rfl
@[simp] theorem State.can_setAgeing (s : State) (f : AgeSt → AgeSt) (rx : Nat) : (s.setAgeing f).can rx = s.can rx := rfl
@[simp] theorem State.nm_setAgeing (s : State) (f : AgeSt → AgeSt) (rx : Nat) : (s.setAgeing f).nm rx = s.nm rx := rfl
@[simp] theorem State.din_setAgeing (s : State) (f : AgeSt → AgeSt) (rx : Nat) : (s.setAgeing f).din rx = s.din rx := rfl
@[simp] theorem State.strobe_setAgeing (s : State) (f : AgeSt → AgeSt) (rx : Nat) : (s.setAgeing f).strobe rx = s.strobe rx := rfl
@[simp] theorem State.tmr_setAgeing (s : State) (f : AgeSt → AgeSt) (rx : Nat) : (s.setAgeing f).tmr rx = s.tmr rx := rfl
@[simp] theorem State.tch_setAgeing (s : State) (f : AgeSt → AgeSt) (rx : Nat) : (s.setAgeing f).tch rx = s.tch rx := rfl
@[simp] theorem State.port_setAgeing (s : State) (f : AgeSt → AgeSt) (rx : Nat) : (s.setAgeing f).port rx = s.port rx := rfl
@[simp] theorem State.stream_setAgeing (s : State) (f : AgeSt → AgeSt) (rx : Nat) : (s.setAgeing f).stream rx = s.stream rx := rfl
@[simp] theorem State.tas_setAgeing (s : State) (f : AgeSt → AgeSt) (rx : Nat) : (s.setAgeing f).tas rx = s.tas rx := rfl
@[simp] theorem State.ctx_setAgeing (s : State) (f : AgeSt → AgeSt) (rx : Bool) : (s.setAgeing f).ctx rx = s.ctx rx := rfl

@[simp] theorem State.rd_setQueue (s : State) (k : Nat) (q : QueueSt) (rq ro : Nat) : (s.setQueue k q).rd rq ro = s.rd rq ro := rfl
@[simp] theorem State.get_setQueue (s : State) (k : Nat) (q : QueueSt) (rg : Fld) : (s.setQueue k q).get rg = s.get rg := rfl
@[simp] theorem State.flag_setQueue (s : State) (k : Nat) (q : QueueSt) (rg : Fld) : (s.setQueue k q).flag rg = s.flag rg := rfl
@[simp] theorem State.act_setQueue (s : State) (k : Nat) (q : QueueSt) (rg : Fld) : (s.setQueue k q).act rg = s.act rg := rfl
@[simp] theorem State.next_setQueue (s : State) (k : Nat) (q : QueueSt) (rg : Fld) : (s.setQueue k q).next rg = s.next rg := rfl
@[simp] theorem State.byte_setQueue (s : State) (k : Nat) (q : QueueSt) (rj : Nat) : (s.setQueue k q).byte rj = s.byte rj := rfl
@[simp] theorem State.bytes_setQueue (s : State) (k : Nat) (q : QueueSt) (rj rm : Nat) : (s.setQueue k q).bytes rj rm = s.bytes rj rm := rfl
@[simp] theorem State.le_setQueue (s : State) (k : Nat) (q : QueueSt) (rj rm : Nat) : (s.setQueue k q).le rj rm = s.le rj rm := rfl
@[simp] theorem State.due_setQueue (s : State) (k : Nat) (q : QueueSt) (rx : Timer) : (s.setQueue k q).due rx = s.due rx := rfl
@[simp] theorem State.lap_setQueue (s : State) (k : Nat) (q : QueueSt) : (s.setQueue k q).lap = s.lap := rfl
@[simp] theorem State.splitAt_setQueue (s : State) (k : Nat) (q : QueueSt) (rx : Nat) : (s.setQueue k q).splitAt rx = s.splitAt rx := rfl
@[simp] theorem State.out_setQueue (s : State) (k : Nat) (q : QueueSt) (rx : OutU) : (s.setQueue k q).out rx = s.out rx := rfl
@[simp] theorem State.die_setQueue (s : State) (k : Nat) (q : QueueSt) (rx : Nat) : (s.setQueue k q).die rx = s.die rx := rfl
@[simp] theorem State.ageOf_setQueue (s : State) (k : Nat) (q : QueueSt) (rx : Nat) : (s.setQueue k q).ageOf rx = s.ageOf rx := rfl
@[simp] theorem State.latch_setQueue (s : State) (k : Nat) (q : QueueSt) (rx : Src) : (s.setQueue k q).latch rx = s.latch rx := rfl
@[simp] theorem State.valve_setQueue (s : State) (k : Nat) (q : QueueSt) (rx : Nat) : (s.setQueue k q).valve rx = s.valve rx := rfl
@[simp] theorem State.bridge_setQueue (s : State) (k : Nat) (q : QueueSt) (rx : Nat) : (s.setQueue k q).bridge rx = s.bridge rx := rfl
@[simp] theorem State.can_setQueue (s : State) (k : Nat) (q : QueueSt) (rx : Nat) : (s.setQueue k q).can rx = s.can rx := rfl
@[simp] theorem State.nm_setQueue (s : State) (k : Nat) (q : QueueSt) (rx : Nat) : (s.setQueue k q).nm rx = s.nm rx := rfl
@[simp] theorem State.din_setQueue (s : State) (k : Nat) (q : QueueSt) (rx : Nat) : (s.setQueue k q).din rx = s.din rx := rfl
@[simp] theorem State.strobe_setQueue (s : State) (k : Nat) (q : QueueSt) (rx : Nat) : (s.setQueue k q).strobe rx = s.strobe rx := rfl
@[simp] theorem State.tmr_setQueue (s : State) (k : Nat) (q : QueueSt) (rx : Nat) : (s.setQueue k q).tmr rx = s.tmr rx := rfl
@[simp] theorem State.tch_setQueue (s : State) (k : Nat) (q : QueueSt) (rx : Nat) : (s.setQueue k q).tch rx = s.tch rx := rfl
@[simp] theorem State.port_setQueue (s : State) (k : Nat) (q : QueueSt) (rx : Nat) : (s.setQueue k q).port rx = s.port rx := rfl
@[simp] theorem State.stream_setQueue (s : State) (k : Nat) (q : QueueSt) (rx : Nat) : (s.setQueue k q).stream rx = s.stream rx := rfl
@[simp] theorem State.tas_setQueue (s : State) (k : Nat) (q : QueueSt) (rx : Nat) : (s.setQueue k q).tas rx = s.tas rx := rfl
@[simp] theorem State.ctx_setQueue (s : State) (k : Nat) (q : QueueSt) (rx : Bool) : (s.setQueue k q).ctx rx = s.ctx rx := rfl

@[simp] theorem State.rd_setLatch (s : State) (w : Src) (l : PushLatch) (rq ro : Nat) : (s.setLatch w l).rd rq ro = s.rd rq ro := rfl
@[simp] theorem State.get_setLatch (s : State) (w : Src) (l : PushLatch) (rg : Fld) : (s.setLatch w l).get rg = s.get rg := rfl
@[simp] theorem State.flag_setLatch (s : State) (w : Src) (l : PushLatch) (rg : Fld) : (s.setLatch w l).flag rg = s.flag rg := rfl
@[simp] theorem State.act_setLatch (s : State) (w : Src) (l : PushLatch) (rg : Fld) : (s.setLatch w l).act rg = s.act rg := rfl
@[simp] theorem State.next_setLatch (s : State) (w : Src) (l : PushLatch) (rg : Fld) : (s.setLatch w l).next rg = s.next rg := rfl
@[simp] theorem State.byte_setLatch (s : State) (w : Src) (l : PushLatch) (rj : Nat) : (s.setLatch w l).byte rj = s.byte rj := rfl
@[simp] theorem State.bytes_setLatch (s : State) (w : Src) (l : PushLatch) (rj rm : Nat) : (s.setLatch w l).bytes rj rm = s.bytes rj rm := rfl
@[simp] theorem State.le_setLatch (s : State) (w : Src) (l : PushLatch) (rj rm : Nat) : (s.setLatch w l).le rj rm = s.le rj rm := rfl
@[simp] theorem State.due_setLatch (s : State) (w : Src) (l : PushLatch) (rx : Timer) : (s.setLatch w l).due rx = s.due rx := rfl
@[simp] theorem State.lap_setLatch (s : State) (w : Src) (l : PushLatch) : (s.setLatch w l).lap = s.lap := rfl
@[simp] theorem State.splitAt_setLatch (s : State) (w : Src) (l : PushLatch) (rx : Nat) : (s.setLatch w l).splitAt rx = s.splitAt rx := rfl
@[simp] theorem State.out_setLatch (s : State) (w : Src) (l : PushLatch) (rx : OutU) : (s.setLatch w l).out rx = s.out rx := rfl
@[simp] theorem State.die_setLatch (s : State) (w : Src) (l : PushLatch) (rx : Nat) : (s.setLatch w l).die rx = s.die rx := rfl
@[simp] theorem State.ageOf_setLatch (s : State) (w : Src) (l : PushLatch) (rx : Nat) : (s.setLatch w l).ageOf rx = s.ageOf rx := rfl
@[simp] theorem State.queue_setLatch (s : State) (w : Src) (l : PushLatch) (rx : Nat) : (s.setLatch w l).queue rx = s.queue rx := rfl
@[simp] theorem State.valve_setLatch (s : State) (w : Src) (l : PushLatch) (rx : Nat) : (s.setLatch w l).valve rx = s.valve rx := rfl
@[simp] theorem State.bridge_setLatch (s : State) (w : Src) (l : PushLatch) (rx : Nat) : (s.setLatch w l).bridge rx = s.bridge rx := rfl
@[simp] theorem State.can_setLatch (s : State) (w : Src) (l : PushLatch) (rx : Nat) : (s.setLatch w l).can rx = s.can rx := rfl
@[simp] theorem State.nm_setLatch (s : State) (w : Src) (l : PushLatch) (rx : Nat) : (s.setLatch w l).nm rx = s.nm rx := rfl
@[simp] theorem State.din_setLatch (s : State) (w : Src) (l : PushLatch) (rx : Nat) : (s.setLatch w l).din rx = s.din rx := rfl
@[simp] theorem State.strobe_setLatch (s : State) (w : Src) (l : PushLatch) (rx : Nat) : (s.setLatch w l).strobe rx = s.strobe rx := rfl
@[simp] theorem State.tmr_setLatch (s : State) (w : Src) (l : PushLatch) (rx : Nat) : (s.setLatch w l).tmr rx = s.tmr rx := rfl
@[simp] theorem State.tch_setLatch (s : State) (w : Src) (l : PushLatch) (rx : Nat) : (s.setLatch w l).tch rx = s.tch rx := rfl
@[simp] theorem State.port_setLatch (s : State) (w : Src) (l : PushLatch) (rx : Nat) : (s.setLatch w l).port rx = s.port rx := rfl
@[simp] theorem State.stream_setLatch (s : State) (w : Src) (l : PushLatch) (rx : Nat) : (s.setLatch w l).stream rx = s.stream rx := rfl
@[simp] theorem State.tas_setLatch (s : State) (w : Src) (l : PushLatch) (rx : Nat) : (s.setLatch w l).tas rx = s.tas rx := rfl
@[simp] theorem State.ctx_setLatch (s : State) (w : Src) (l : PushLatch) (rx : Bool) : (s.setLatch w l).ctx rx = s.ctx rx := rfl

@[simp] theorem State.rd_setBridge (s : State) (n : Nat) (f : BridgeSt → BridgeSt) (rq ro : Nat) : (s.setBridge n f).rd rq ro = s.rd rq ro := rfl
@[simp] theorem State.get_setBridge (s : State) (n : Nat) (f : BridgeSt → BridgeSt) (rg : Fld) : (s.setBridge n f).get rg = s.get rg := rfl
@[simp] theorem State.flag_setBridge (s : State) (n : Nat) (f : BridgeSt → BridgeSt) (rg : Fld) : (s.setBridge n f).flag rg = s.flag rg := rfl
@[simp] theorem State.act_setBridge (s : State) (n : Nat) (f : BridgeSt → BridgeSt) (rg : Fld) : (s.setBridge n f).act rg = s.act rg := rfl
@[simp] theorem State.next_setBridge (s : State) (n : Nat) (f : BridgeSt → BridgeSt) (rg : Fld) : (s.setBridge n f).next rg = s.next rg := rfl
@[simp] theorem State.byte_setBridge (s : State) (n : Nat) (f : BridgeSt → BridgeSt) (rj : Nat) : (s.setBridge n f).byte rj = s.byte rj := rfl
@[simp] theorem State.bytes_setBridge (s : State) (n : Nat) (f : BridgeSt → BridgeSt) (rj rm : Nat) : (s.setBridge n f).bytes rj rm = s.bytes rj rm := rfl
@[simp] theorem State.le_setBridge (s : State) (n : Nat) (f : BridgeSt → BridgeSt) (rj rm : Nat) : (s.setBridge n f).le rj rm = s.le rj rm := rfl
@[simp] theorem State.due_setBridge (s : State) (n : Nat) (f : BridgeSt → BridgeSt) (rx : Timer) : (s.setBridge n f).due rx = s.due rx := rfl
@[simp] theorem State.lap_setBridge (s : State) (n : Nat) (f : BridgeSt → BridgeSt) : (s.setBridge n f).lap = s.lap := rfl
@[simp] theorem State.splitAt_setBridge (s : State) (n : Nat) (f : BridgeSt → BridgeSt) (rx : Nat) : (s.setBridge n f).splitAt rx = s.splitAt rx := rfl
@[simp] theorem State.out_setBridge (s : State) (n : Nat) (f : BridgeSt → BridgeSt) (rx : OutU) : (s.setBridge n f).out rx = s.out rx := rfl
@[simp] theorem State.die_setBridge (s : State) (n : Nat) (f : BridgeSt → BridgeSt) (rx : Nat) : (s.setBridge n f).die rx = s.die rx := rfl
@[simp] theorem State.ageOf_setBridge (s : State) (n : Nat) (f : BridgeSt → BridgeSt) (rx : Nat) : (s.setBridge n f).ageOf rx = s.ageOf rx := rfl
@[simp] theorem State.queue_setBridge (s : State) (n : Nat) (f : BridgeSt → BridgeSt) (rx : Nat) : (s.setBridge n f).queue rx = s.queue rx := rfl
@[simp] theorem State.latch_setBridge (s : State) (n : Nat) (f : BridgeSt → BridgeSt) (rx : Src) : (s.setBridge n f).latch rx = s.latch rx := rfl
@[simp] theorem State.valve_setBridge (s : State) (n : Nat) (f : BridgeSt → BridgeSt) (rx : Nat) : (s.setBridge n f).valve rx = s.valve rx := rfl
@[simp] theorem State.can_setBridge (s : State) (n : Nat) (f : BridgeSt → BridgeSt) (rx : Nat) : (s.setBridge n f).can rx = s.can rx := rfl
@[simp] theorem State.nm_setBridge (s : State) (n : Nat) (f : BridgeSt → BridgeSt) (rx : Nat) : (s.setBridge n f).nm rx = s.nm rx := rfl
@[simp] theorem State.din_setBridge (s : State) (n : Nat) (f : BridgeSt → BridgeSt) (rx : Nat) : (s.setBridge n f).din rx = s.din rx := rfl
@[simp] theorem State.strobe_setBridge (s : State) (n : Nat) (f : BridgeSt → BridgeSt) (rx : Nat) : (s.setBridge n f).strobe rx = s.strobe rx := rfl
@[simp] theorem State.tmr_setBridge (s : State) (n : Nat) (f : BridgeSt → BridgeSt) (rx : Nat) : (s.setBridge n f).tmr rx = s.tmr rx := rfl
@[simp] theorem State.tch_setBridge (s : State) (n : Nat) (f : BridgeSt → BridgeSt) (rx : Nat) : (s.setBridge n f).tch rx = s.tch rx := rfl
@[simp] theorem State.port_setBridge (s : State) (n : Nat) (f : BridgeSt → BridgeSt) (rx : Nat) : (s.setBridge n f).port rx = s.port rx := rfl
@[simp] theorem State.stream_setBridge (s : State) (n : Nat) (f : BridgeSt → BridgeSt) (rx : Nat) : (s.setBridge n f).stream rx = s.stream rx := rfl
@[simp] theorem State.tas_setBridge (s : State) (n : Nat) (f : BridgeSt → BridgeSt) (rx : Nat) : (s.setBridge n f).tas rx = s.tas rx := rfl
@[simp] theorem State.ctx_setBridge (s : State) (n : Nat) (f : BridgeSt → BridgeSt) (rx : Bool) : (s.setBridge n f).ctx rx = s.ctx rx := rfl

@[simp] theorem State.rd_setCan (s : State) (x : Nat) (f : CanSt → CanSt) (rq ro : Nat) : (s.setCan x f).rd rq ro = s.rd rq ro := rfl
@[simp] theorem State.get_setCan (s : State) (x : Nat) (f : CanSt → CanSt) (rg : Fld) : (s.setCan x f).get rg = s.get rg := rfl
@[simp] theorem State.flag_setCan (s : State) (x : Nat) (f : CanSt → CanSt) (rg : Fld) : (s.setCan x f).flag rg = s.flag rg := rfl
@[simp] theorem State.act_setCan (s : State) (x : Nat) (f : CanSt → CanSt) (rg : Fld) : (s.setCan x f).act rg = s.act rg := rfl
@[simp] theorem State.next_setCan (s : State) (x : Nat) (f : CanSt → CanSt) (rg : Fld) : (s.setCan x f).next rg = s.next rg := rfl
@[simp] theorem State.byte_setCan (s : State) (x : Nat) (f : CanSt → CanSt) (rj : Nat) : (s.setCan x f).byte rj = s.byte rj := rfl
@[simp] theorem State.bytes_setCan (s : State) (x : Nat) (f : CanSt → CanSt) (rj rm : Nat) : (s.setCan x f).bytes rj rm = s.bytes rj rm := rfl
@[simp] theorem State.le_setCan (s : State) (x : Nat) (f : CanSt → CanSt) (rj rm : Nat) : (s.setCan x f).le rj rm = s.le rj rm := rfl
@[simp] theorem State.due_setCan (s : State) (x : Nat) (f : CanSt → CanSt) (rx : Timer) : (s.setCan x f).due rx = s.due rx := rfl
@[simp] theorem State.lap_setCan (s : State) (x : Nat) (f : CanSt → CanSt) : (s.setCan x f).lap = s.lap := rfl
@[simp] theorem State.splitAt_setCan (s : State) (x : Nat) (f : CanSt → CanSt) (rx : Nat) : (s.setCan x f).splitAt rx = s.splitAt rx := rfl
@[simp] theorem State.out_setCan (s : State) (x : Nat) (f : CanSt → CanSt) (rx : OutU) : (s.setCan x f).out rx = s.out rx := rfl
@[simp] theorem State.die_setCan (s : State) (x : Nat) (f : CanSt → CanSt) (rx : Nat) : (s.setCan x f).die rx = s.die rx := rfl
@[simp] theorem State.ageOf_setCan (s : State) (x : Nat) (f : CanSt → CanSt) (rx : Nat) : (s.setCan x f).ageOf rx = s.ageOf rx := rfl
@[simp] theorem State.queue_setCan (s : State) (x : Nat) (f : CanSt → CanSt) (rx : Nat) : (s.setCan x f).queue rx = s.queue rx := rfl
@[simp] theorem State.latch_setCan (s : State) (x : Nat) (f : CanSt → CanSt) (rx : Src) : (s.setCan x f).latch rx = s.latch rx := rfl
@[simp] theorem State.valve_setCan (s : State) (x : Nat) (f : CanSt → CanSt) (rx : Nat) : (s.setCan x f).valve rx = s.valve rx := rfl
@[simp] theorem State.bridge_setCan (s : State) (x : Nat) (f : CanSt → CanSt) (rx : Nat) : (s.setCan x f).bridge rx = s.bridge rx := rfl
@[simp] theorem State.nm_setCan (s : State) (x : Nat) (f : CanSt → CanSt) (rx : Nat) : (s.setCan x f).nm rx = s.nm rx := rfl
@[simp] theorem State.din_setCan (s : State) (x : Nat) (f : CanSt → CanSt) (rx : Nat) : (s.setCan x f).din rx = s.din rx := rfl
@[simp] theorem State.strobe_setCan (s : State) (x : Nat) (f : CanSt → CanSt) (rx : Nat) : (s.setCan x f).strobe rx = s.strobe rx := rfl
@[simp] theorem State.tmr_setCan (s : State) (x : Nat) (f : CanSt → CanSt) (rx : Nat) : (s.setCan x f).tmr rx = s.tmr rx := rfl
@[simp] theorem State.tch_setCan (s : State) (x : Nat) (f : CanSt → CanSt) (rx : Nat) : (s.setCan x f).tch rx = s.tch rx := rfl
@[simp] theorem State.port_setCan (s : State) (x : Nat) (f : CanSt → CanSt) (rx : Nat) : (s.setCan x f).port rx = s.port rx := rfl
@[simp] theorem State.stream_setCan (s : State) (x : Nat) (f : CanSt → CanSt) (rx : Nat) : (s.setCan x f).stream rx = s.stream rx := rfl
@[simp] theorem State.tas_setCan (s : State) (x : Nat) (f : CanSt → CanSt) (rx : Nat) : (s.setCan x f).tas rx = s.tas rx := rfl
@[simp] theorem State.ctx_setCan (s : State) (x : Nat) (f : CanSt → CanSt) (rx : Bool) : (s.setCan x f).ctx rx = s.ctx rx := rfl

@[simp] theorem State.rd_setTap (s : State) (f : TapSt → TapSt) (rq ro : Nat) : (s.setTap f).rd rq ro = s.rd rq ro := rfl
@[simp] theorem State.get_setTap (s : State) (f : TapSt → TapSt) (rg : Fld) : (s.setTap f).get rg = s.get rg := rfl
@[simp] theorem State.flag_setTap (s : State) (f : TapSt → TapSt) (rg : Fld) : (s.setTap f).flag rg = s.flag rg := rfl
@[simp] theorem State.act_setTap (s : State) (f : TapSt → TapSt) (rg : Fld) : (s.setTap f).act rg = s.act rg := rfl
@[simp] theorem State.next_setTap (s : State) (f : TapSt → TapSt) (rg : Fld) : (s.setTap f).next rg = s.next rg := rfl
@[simp] theorem State.byte_setTap (s : State) (f : TapSt → TapSt) (rj : Nat) : (s.setTap f).byte rj = s.byte rj := rfl
@[simp] theorem State.bytes_setTap (s : State) (f : TapSt → TapSt) (rj rm : Nat) : (s.setTap f).bytes rj rm = s.bytes rj rm := rfl
@[simp] theorem State.le_setTap (s : State) (f : TapSt → TapSt) (rj rm : Nat) : (s.setTap f).le rj rm = s.le rj rm := rfl
@[simp] theorem State.due_setTap (s : State) (f : TapSt → TapSt) (rx : Timer) : (s.setTap f).due rx = s.due rx := rfl
@[simp] theorem State.lap_setTap (s : State) (f : TapSt → TapSt) : (s.setTap f).lap = s.lap := rfl
@[simp] theorem State.splitAt_setTap (s : State) (f : TapSt → TapSt) (rx : Nat) : (s.setTap f).splitAt rx = s.splitAt rx := rfl
@[simp] theorem State.out_setTap (s : State) (f : TapSt → TapSt) (rx : OutU) : (s.setTap f).out rx = s.out rx := rfl
@[simp] theorem State.die_setTap (s : State) (f : TapSt → TapSt) (rx : Nat) : (s.setTap f).die rx = s.die rx := rfl
@[simp] theorem State.ageOf_setTap (s : State) (f : TapSt → TapSt) (rx : Nat) : (s.setTap f).ageOf rx = s.ageOf rx := rfl
@[simp] theorem State.queue_setTap (s : State) (f : TapSt → TapSt) (rx : Nat) : (s.setTap f).queue rx = s.queue rx := rfl
@[simp] theorem State.latch_setTap (s : State) (f : TapSt → TapSt) (rx : Src) : (s.setTap f).latch rx = s.latch rx := rfl
@[simp] theorem State.valve_setTap (s : State) (f : TapSt → TapSt) (rx : Nat) : (s.setTap f).valve rx = s.valve rx := rfl
@[simp] theorem State.bridge_setTap (s : State) (f : TapSt → TapSt) (rx : Nat) : (s.setTap f).bridge rx = s.bridge rx := rfl
@[simp] theorem State.can_setTap (s : State) (f : TapSt → TapSt) (rx : Nat) : (s.setTap f).can rx = s.can rx := rfl
@[simp] theorem State.nm_setTap (s : State) (f : TapSt → TapSt) (rx : Nat) : (s.setTap f).nm rx = s.nm rx := rfl
@[simp] theorem State.din_setTap (s : State) (f : TapSt → TapSt) (rx : Nat) : (s.setTap f).din rx = s.din rx := rfl
@[simp] theorem State.strobe_setTap (s : State) (f : TapSt → TapSt) (rx : Nat) : (s.setTap f).strobe rx = s.strobe rx := rfl
@[simp] theorem State.tmr_setTap (s : State) (f : TapSt → TapSt) (rx : Nat) : (s.setTap f).tmr rx = s.tmr rx := rfl
@[simp] theorem State.tch_setTap (s : State) (f : TapSt → TapSt) (rx : Nat) : (s.setTap f).tch rx = s.tch rx := rfl
@[simp] theorem State.port_setTap (s : State) (f : TapSt → TapSt) (rx : Nat) : (s.setTap f).port rx = s.port rx := rfl
@[simp] theorem State.stream_setTap (s : State) (f : TapSt → TapSt) (rx : Nat) : (s.setTap f).stream rx = s.stream rx := rfl
@[simp] theorem State.tas_setTap (s : State) (f : TapSt → TapSt) (rx : Nat) : (s.setTap f).tas rx = s.tas rx := rfl
@[simp] theorem State.ctx_setTap (s : State) (f : TapSt → TapSt) (rx : Bool) : (s.setTap f).ctx rx = s.ctx rx := rfl

@[simp] theorem State.rd_setDin (s : State) (n : Nat) (f : DinSt → DinSt) (rq ro : Nat) : (s.setDin n f).rd rq ro = s.rd rq ro := rfl
@[simp] theorem State.get_setDin (s : State) (n : Nat) (f : DinSt → DinSt) (rg : Fld) : (s.setDin n f).get rg = s.get rg := rfl
@[simp] theorem State.flag_setDin (s : State) (n : Nat) (f : DinSt → DinSt) (rg : Fld) : (s.setDin n f).flag rg = s.flag rg := rfl
@[simp] theorem State.act_setDin (s : State) (n : Nat) (f : DinSt → DinSt) (rg : Fld) : (s.setDin n f).act rg = s.act rg := rfl
@[simp] theorem State.next_setDin (s : State) (n : Nat) (f : DinSt → DinSt) (rg : Fld) : (s.setDin n f).next rg = s.next rg := rfl
@[simp] theorem State.byte_setDin (s : State) (n : Nat) (f : DinSt → DinSt) (rj : Nat) : (s.setDin n f).byte rj = s.byte rj := rfl
@[simp] theorem State.bytes_setDin (s : State) (n : Nat) (f : DinSt → DinSt) (rj rm : Nat) : (s.setDin n f).bytes rj rm = s.bytes rj rm := rfl
@[simp] theorem State.le_setDin (s : State) (n : Nat) (f : DinSt → DinSt) (rj rm : Nat) : (s.setDin n f).le rj rm = s.le rj rm := rfl
@[simp] theorem State.due_setDin (s : State) (n : Nat) (f : DinSt → DinSt) (rx : Timer) : (s.setDin n f).due rx = s.due rx := rfl
@[simp] theorem State.lap_setDin (s : State) (n : Nat) (f : DinSt → DinSt) : (s.setDin n f).lap = s.lap := rfl
@[simp] theorem State.splitAt_setDin (s : State) (n : Nat) (f : DinSt → DinSt) (rx : Nat) : (s.setDin n f).splitAt rx = s.splitAt rx := rfl
@[simp] theorem State.out_setDin (s : State) (n : Nat) (f : DinSt → DinSt) (rx : OutU) : (s.setDin n f).out rx = s.out rx := rfl
@[simp] theorem State.die_setDin (s : State) (n : Nat) (f : DinSt → DinSt) (rx : Nat) : (s.setDin n f).die rx = s.die rx := rfl
@[simp] theorem State.ageOf_setDin (s : State) (n : Nat) (f : DinSt → DinSt) (rx : Nat) : (s.setDin n f).ageOf rx = s.ageOf rx := rfl
@[simp] theorem State.queue_setDin (s : State) (n : Nat) (f : DinSt → DinSt) (rx : Nat) : (s.setDin n f).queue rx = s.queue rx := rfl
@[simp] theorem State.latch_setDin (s : State) (n : Nat) (f : DinSt → DinSt) (rx : Src) : (s.setDin n f).latch rx = s.latch rx := rfl
@[simp] theorem State.valve_setDin (s : State) (n : Nat) (f : DinSt → DinSt) (rx : Nat) : (s.setDin n f).valve rx = s.valve rx := rfl
@[simp] theorem State.bridge_setDin (s : State) (n : Nat) (f : DinSt → DinSt) (rx : Nat) : (s.setDin n f).bridge rx = s.bridge rx := rfl
@[simp] theorem State.can_setDin (s : State) (n : Nat) (f : DinSt → DinSt) (rx : Nat) : (s.setDin n f).can rx = s.can rx := rfl
@[simp] theorem State.nm_setDin (s : State) (n : Nat) (f : DinSt → DinSt) (rx : Nat) : (s.setDin n f).nm rx = s.nm rx := rfl
@[simp] theorem State.strobe_setDin (s : State) (n : Nat) (f : DinSt → DinSt) (rx : Nat) : (s.setDin n f).strobe rx = s.strobe rx := rfl
@[simp] theorem State.tmr_setDin (s : State) (n : Nat) (f : DinSt → DinSt) (rx : Nat) : (s.setDin n f).tmr rx = s.tmr rx := rfl
@[simp] theorem State.tch_setDin (s : State) (n : Nat) (f : DinSt → DinSt) (rx : Nat) : (s.setDin n f).tch rx = s.tch rx := rfl
@[simp] theorem State.port_setDin (s : State) (n : Nat) (f : DinSt → DinSt) (rx : Nat) : (s.setDin n f).port rx = s.port rx := rfl
@[simp] theorem State.stream_setDin (s : State) (n : Nat) (f : DinSt → DinSt) (rx : Nat) : (s.setDin n f).stream rx = s.stream rx := rfl
@[simp] theorem State.tas_setDin (s : State) (n : Nat) (f : DinSt → DinSt) (rx : Nat) : (s.setDin n f).tas rx = s.tas rx := rfl
@[simp] theorem State.ctx_setDin (s : State) (n : Nat) (f : DinSt → DinSt) (rx : Bool) : (s.setDin n f).ctx rx = s.ctx rx := rfl

@[simp] theorem State.rd_setStrobe (s : State) (g : Nat) (f : StrobeSt → StrobeSt) (rq ro : Nat) : (s.setStrobe g f).rd rq ro = s.rd rq ro := rfl
@[simp] theorem State.get_setStrobe (s : State) (g : Nat) (f : StrobeSt → StrobeSt) (rg : Fld) : (s.setStrobe g f).get rg = s.get rg := rfl
@[simp] theorem State.flag_setStrobe (s : State) (g : Nat) (f : StrobeSt → StrobeSt) (rg : Fld) : (s.setStrobe g f).flag rg = s.flag rg := rfl
@[simp] theorem State.act_setStrobe (s : State) (g : Nat) (f : StrobeSt → StrobeSt) (rg : Fld) : (s.setStrobe g f).act rg = s.act rg := rfl
@[simp] theorem State.next_setStrobe (s : State) (g : Nat) (f : StrobeSt → StrobeSt) (rg : Fld) : (s.setStrobe g f).next rg = s.next rg := rfl
@[simp] theorem State.byte_setStrobe (s : State) (g : Nat) (f : StrobeSt → StrobeSt) (rj : Nat) : (s.setStrobe g f).byte rj = s.byte rj := rfl
@[simp] theorem State.bytes_setStrobe (s : State) (g : Nat) (f : StrobeSt → StrobeSt) (rj rm : Nat) : (s.setStrobe g f).bytes rj rm = s.bytes rj rm := rfl
@[simp] theorem State.le_setStrobe (s : State) (g : Nat) (f : StrobeSt → StrobeSt) (rj rm : Nat) : (s.setStrobe g f).le rj rm = s.le rj rm := rfl
@[simp] theorem State.due_setStrobe (s : State) (g : Nat) (f : StrobeSt → StrobeSt) (rx : Timer) : (s.setStrobe g f).due rx = s.due rx := rfl
@[simp] theorem State.lap_setStrobe (s : State) (g : Nat) (f : StrobeSt → StrobeSt) : (s.setStrobe g f).lap = s.lap := rfl
@[simp] theorem State.splitAt_setStrobe (s : State) (g : Nat) (f : StrobeSt → StrobeSt) (rx : Nat) : (s.setStrobe g f).splitAt rx = s.splitAt rx := rfl
@[simp] theorem State.out_setStrobe (s : State) (g : Nat) (f : StrobeSt → StrobeSt) (rx : OutU) : (s.setStrobe g f).out rx = s.out rx := rfl
@[simp] theorem State.die_setStrobe (s : State) (g : Nat) (f : StrobeSt → StrobeSt) (rx : Nat) : (s.setStrobe g f).die rx = s.die rx := rfl
@[simp] theorem State.ageOf_setStrobe (s : State) (g : Nat) (f : StrobeSt → StrobeSt) (rx : Nat) : (s.setStrobe g f).ageOf rx = s.ageOf rx := rfl
@[simp] theorem State.queue_setStrobe (s : State) (g : Nat) (f : StrobeSt → StrobeSt) (rx : Nat) : (s.setStrobe g f).queue rx = s.queue rx := rfl
@[simp] theorem State.latch_setStrobe (s : State) (g : Nat) (f : StrobeSt → StrobeSt) (rx : Src) : (s.setStrobe g f).latch rx = s.latch rx := rfl
@[simp] theorem State.valve_setStrobe (s : State) (g : Nat) (f : StrobeSt → StrobeSt) (rx : Nat) : (s.setStrobe g f).valve rx = s.valve rx := rfl
@[simp] theorem State.bridge_setStrobe (s : State) (g : Nat) (f : StrobeSt → StrobeSt) (rx : Nat) : (s.setStrobe g f).bridge rx = s.bridge rx := rfl
@[simp] theorem State.can_setStrobe (s : State) (g : Nat) (f : StrobeSt → StrobeSt) (rx : Nat) : (s.setStrobe g f).can rx = s.can rx := rfl
@[simp] theorem State.nm_setStrobe (s : State) (g : Nat) (f : StrobeSt → StrobeSt) (rx : Nat) : (s.setStrobe g f).nm rx = s.nm rx := rfl
@[simp] theorem State.din_setStrobe (s : State) (g : Nat) (f : StrobeSt → StrobeSt) (rx : Nat) : (s.setStrobe g f).din rx = s.din rx := rfl
@[simp] theorem State.tmr_setStrobe (s : State) (g : Nat) (f : StrobeSt → StrobeSt) (rx : Nat) : (s.setStrobe g f).tmr rx = s.tmr rx := rfl
@[simp] theorem State.tch_setStrobe (s : State) (g : Nat) (f : StrobeSt → StrobeSt) (rx : Nat) : (s.setStrobe g f).tch rx = s.tch rx := rfl
@[simp] theorem State.port_setStrobe (s : State) (g : Nat) (f : StrobeSt → StrobeSt) (rx : Nat) : (s.setStrobe g f).port rx = s.port rx := rfl
@[simp] theorem State.stream_setStrobe (s : State) (g : Nat) (f : StrobeSt → StrobeSt) (rx : Nat) : (s.setStrobe g f).stream rx = s.stream rx := rfl
@[simp] theorem State.tas_setStrobe (s : State) (g : Nat) (f : StrobeSt → StrobeSt) (rx : Nat) : (s.setStrobe g f).tas rx = s.tas rx := rfl
@[simp] theorem State.ctx_setStrobe (s : State) (g : Nat) (f : StrobeSt → StrobeSt) (rx : Bool) : (s.setStrobe g f).ctx rx = s.ctx rx := rfl

@[simp] theorem State.rd_setFcr (s : State) (f : FcrSt → FcrSt) (rq ro : Nat) : (s.setFcr f).rd rq ro = s.rd rq ro := rfl
@[simp] theorem State.get_setFcr (s : State) (f : FcrSt → FcrSt) (rg : Fld) : (s.setFcr f).get rg = s.get rg := rfl
@[simp] theorem State.flag_setFcr (s : State) (f : FcrSt → FcrSt) (rg : Fld) : (s.setFcr f).flag rg = s.flag rg := rfl
@[simp] theorem State.act_setFcr (s : State) (f : FcrSt → FcrSt) (rg : Fld) : (s.setFcr f).act rg = s.act rg := rfl
@[simp] theorem State.next_setFcr (s : State) (f : FcrSt → FcrSt) (rg : Fld) : (s.setFcr f).next rg = s.next rg := rfl
@[simp] theorem State.byte_setFcr (s : State) (f : FcrSt → FcrSt) (rj : Nat) : (s.setFcr f).byte rj = s.byte rj := rfl
@[simp] theorem State.bytes_setFcr (s : State) (f : FcrSt → FcrSt) (rj rm : Nat) : (s.setFcr f).bytes rj rm = s.bytes rj rm := rfl
@[simp] theorem State.le_setFcr (s : State) (f : FcrSt → FcrSt) (rj rm : Nat) : (s.setFcr f).le rj rm = s.le rj rm := rfl
@[simp] theorem State.due_setFcr (s : State) (f : FcrSt → FcrSt) (rx : Timer) : (s.setFcr f).due rx = s.due rx := rfl
@[simp] theorem State.lap_setFcr (s : State) (f : FcrSt → FcrSt) : (s.setFcr f).lap = s.lap := rfl
@[simp] theorem State.splitAt_setFcr (s : State) (f : FcrSt → FcrSt) (rx : Nat) : (s.setFcr f).splitAt rx = s.splitAt rx := rfl
@[simp] theorem State.out_setFcr (s : State) (f : FcrSt → FcrSt) (rx : OutU) : (s.setFcr f).out rx = s.out rx := rfl
@[simp] theorem State.die_setFcr (s : State) (f : FcrSt → FcrSt) (rx : Nat) : (s.setFcr f).die rx = s.die rx := rfl
@[simp] theorem State.ageOf_setFcr (s : State) (f : FcrSt → FcrSt) (rx : Nat) : (s.setFcr f).ageOf rx = s.ageOf rx := rfl
@[simp] theorem State.queue_setFcr (s : State) (f : FcrSt → FcrSt) (rx : Nat) : (s.setFcr f).queue rx = s.queue rx := rfl
@[simp] theorem State.latch_setFcr (s : State) (f : FcrSt → FcrSt) (rx : Src) : (s.setFcr f).latch rx = s.latch rx := rfl
@[simp] theorem State.valve_setFcr (s : State) (f : FcrSt → FcrSt) (rx : Nat) : (s.setFcr f).valve rx = s.valve rx := rfl
@[simp] theorem State.bridge_setFcr (s : State) (f : FcrSt → FcrSt) (rx : Nat) : (s.setFcr f).bridge rx = s.bridge rx := rfl
@[simp] theorem State.can_setFcr (s : State) (f : FcrSt → FcrSt) (rx : Nat) : (s.setFcr f).can rx = s.can rx := rfl
@[simp] theorem State.nm_setFcr (s : State) (f : FcrSt → FcrSt) (rx : Nat) : (s.setFcr f).nm rx = s.nm rx := rfl
@[simp] theorem State.din_setFcr (s : State) (f : FcrSt → FcrSt) (rx : Nat) : (s.setFcr f).din rx = s.din rx := rfl
@[simp] theorem State.strobe_setFcr (s : State) (f : FcrSt → FcrSt) (rx : Nat) : (s.setFcr f).strobe rx = s.strobe rx := rfl
@[simp] theorem State.tmr_setFcr (s : State) (f : FcrSt → FcrSt) (rx : Nat) : (s.setFcr f).tmr rx = s.tmr rx := rfl
@[simp] theorem State.tch_setFcr (s : State) (f : FcrSt → FcrSt) (rx : Nat) : (s.setFcr f).tch rx = s.tch rx := rfl
@[simp] theorem State.port_setFcr (s : State) (f : FcrSt → FcrSt) (rx : Nat) : (s.setFcr f).port rx = s.port rx := rfl
@[simp] theorem State.stream_setFcr (s : State) (f : FcrSt → FcrSt) (rx : Nat) : (s.setFcr f).stream rx = s.stream rx := rfl
@[simp] theorem State.tas_setFcr (s : State) (f : FcrSt → FcrSt) (rx : Nat) : (s.setFcr f).tas rx = s.tas rx := rfl
@[simp] theorem State.ctx_setFcr (s : State) (f : FcrSt → FcrSt) (rx : Bool) : (s.setFcr f).ctx rx = s.ctx rx := rfl

@[simp] theorem State.rd_setPwr (s : State) (f : PwrSt → PwrSt) (rq ro : Nat) : (s.setPwr f).rd rq ro = s.rd rq ro := rfl
@[simp] theorem State.get_setPwr (s : State) (f : PwrSt → PwrSt) (rg : Fld) : (s.setPwr f).get rg = s.get rg := rfl
@[simp] theorem State.flag_setPwr (s : State) (f : PwrSt → PwrSt) (rg : Fld) : (s.setPwr f).flag rg = s.flag rg := rfl
@[simp] theorem State.act_setPwr (s : State) (f : PwrSt → PwrSt) (rg : Fld) : (s.setPwr f).act rg = s.act rg := rfl
@[simp] theorem State.next_setPwr (s : State) (f : PwrSt → PwrSt) (rg : Fld) : (s.setPwr f).next rg = s.next rg := rfl
@[simp] theorem State.byte_setPwr (s : State) (f : PwrSt → PwrSt) (rj : Nat) : (s.setPwr f).byte rj = s.byte rj := rfl
@[simp] theorem State.bytes_setPwr (s : State) (f : PwrSt → PwrSt) (rj rm : Nat) : (s.setPwr f).bytes rj rm = s.bytes rj rm := rfl
@[simp] theorem State.le_setPwr (s : State) (f : PwrSt → PwrSt) (rj rm : Nat) : (s.setPwr f).le rj rm = s.le rj rm := rfl
@[simp] theorem State.due_setPwr (s : State) (f : PwrSt → PwrSt) (rx : Timer) : (s.setPwr f).due rx = s.due rx := rfl
@[simp] theorem State.lap_setPwr (s : State) (f : PwrSt → PwrSt) : (s.setPwr f).lap = s.lap := rfl
@[simp] theorem State.splitAt_setPwr (s : State) (f : PwrSt → PwrSt) (rx : Nat) : (s.setPwr f).splitAt rx = s.splitAt rx := rfl
@[simp] theorem State.out_setPwr (s : State) (f : PwrSt → PwrSt) (rx : OutU) : (s.setPwr f).out rx = s.out rx := rfl
@[simp] theorem State.die_setPwr (s : State) (f : PwrSt → PwrSt) (rx : Nat) : (s.setPwr f).die rx = s.die rx := rfl
@[simp] theorem State.ageOf_setPwr (s : State) (f : PwrSt → PwrSt) (rx : Nat) : (s.setPwr f).ageOf rx = s.ageOf rx := rfl
@[simp] theorem State.queue_setPwr (s : State) (f : PwrSt → PwrSt) (rx : Nat) : (s.setPwr f).queue rx = s.queue rx := rfl
@[simp] theorem State.latch_setPwr (s : State) (f : PwrSt → PwrSt) (rx : Src) : (s.setPwr f).latch rx = s.latch rx := rfl
@[simp] theorem State.valve_setPwr (s : State) (f : PwrSt → PwrSt) (rx : Nat) : (s.setPwr f).valve rx = s.valve rx := rfl
@[simp] theorem State.bridge_setPwr (s : State) (f : PwrSt → PwrSt) (rx : Nat) : (s.setPwr f).bridge rx = s.bridge rx := rfl
@[simp] theorem State.can_setPwr (s : State) (f : PwrSt → PwrSt) (rx : Nat) : (s.setPwr f).can rx = s.can rx := rfl
@[simp] theorem State.nm_setPwr (s : State) (f : PwrSt → PwrSt) (rx : Nat) : (s.setPwr f).nm rx = s.nm rx := rfl
@[simp] theorem State.din_setPwr (s : State) (f : PwrSt → PwrSt) (rx : Nat) : (s.setPwr f).din rx = s.din rx := rfl
@[simp] theorem State.strobe_setPwr (s : State) (f : PwrSt → PwrSt) (rx : Nat) : (s.setPwr f).strobe rx = s.strobe rx := rfl
@[simp] theorem State.tmr_setPwr (s : State) (f : PwrSt → PwrSt) (rx : Nat) : (s.setPwr f).tmr rx = s.tmr rx := rfl
@[simp] theorem State.tch_setPwr (s : State) (f : PwrSt → PwrSt) (rx : Nat) : (s.setPwr f).tch rx = s.tch rx := rfl
@[simp] theorem State.port_setPwr (s : State) (f : PwrSt → PwrSt) (rx : Nat) : (s.setPwr f).port rx = s.port rx := rfl
@[simp] theorem State.stream_setPwr (s : State) (f : PwrSt → PwrSt) (rx : Nat) : (s.setPwr f).stream rx = s.stream rx := rfl
@[simp] theorem State.tas_setPwr (s : State) (f : PwrSt → PwrSt) (rx : Nat) : (s.setPwr f).tas rx = s.tas rx := rfl
@[simp] theorem State.ctx_setPwr (s : State) (f : PwrSt → PwrSt) (rx : Bool) : (s.setPwr f).ctx rx = s.ctx rx := rfl

@[simp] theorem State.rd_setBook (s : State) (f : RecSt → RecSt) (rq ro : Nat) : (s.setBook f).rd rq ro = s.rd rq ro := rfl
@[simp] theorem State.get_setBook (s : State) (f : RecSt → RecSt) (rg : Fld) : (s.setBook f).get rg = s.get rg := rfl
@[simp] theorem State.flag_setBook (s : State) (f : RecSt → RecSt) (rg : Fld) : (s.setBook f).flag rg = s.flag rg := rfl
@[simp] theorem State.act_setBook (s : State) (f : RecSt → RecSt) (rg : Fld) : (s.setBook f).act rg = s.act rg := rfl
@[simp] theorem State.next_setBook (s : State) (f : RecSt → RecSt) (rg : Fld) : (s.setBook f).next rg = s.next rg := rfl
@[simp] theorem State.byte_setBook (s : State) (f : RecSt → RecSt) (rj : Nat) : (s.setBook f).byte rj = s.byte rj := rfl
@[simp] theorem State.bytes_setBook (s : State) (f : RecSt → RecSt) (rj rm : Nat) : (s.setBook f).bytes rj rm = s.bytes rj rm := rfl
@[simp] theorem State.le_setBook (s : State) (f : RecSt → RecSt) (rj rm : Nat) : (s.setBook f).le rj rm = s.le rj rm := rfl
@[simp] theorem State.due_setBook (s : State) (f : RecSt → RecSt) (rx : Timer) : (s.setBook f).due rx = s.due rx := rfl
@[simp] theorem State.lap_setBook (s : State) (f : RecSt → RecSt) : (s.setBook f).lap = s.lap := rfl
@[simp] theorem State.splitAt_setBook (s : State) (f : RecSt → RecSt) (rx : Nat) : (s.setBook f).splitAt rx = s.splitAt rx := rfl
@[simp] theorem State.out_setBook (s : State) (f : RecSt → RecSt) (rx : OutU) : (s.setBook f).out rx = s.out rx := rfl
@[simp] theorem State.die_setBook (s : State) (f : RecSt → RecSt) (rx : Nat) : (s.setBook f).die rx = s.die rx := rfl
@[simp] theorem State.ageOf_setBook (s : State) (f : RecSt → RecSt) (rx : Nat) : (s.setBook f).ageOf rx = s.ageOf rx := rfl
@[simp] theorem State.queue_setBook (s : State) (f : RecSt → RecSt) (rx : Nat) : (s.setBook f).queue rx = s.queue rx := rfl
@[simp] theorem State.latch_setBook (s : State) (f : RecSt → RecSt) (rx : Src) : (s.setBook f).latch rx = s.latch rx := rfl
@[simp] theorem State.valve_setBook (s : State) (f : RecSt → RecSt) (rx : Nat) : (s.setBook f).valve rx = s.valve rx := rfl
@[simp] theorem State.bridge_setBook (s : State) (f : RecSt → RecSt) (rx : Nat) : (s.setBook f).bridge rx = s.bridge rx := rfl
@[simp] theorem State.can_setBook (s : State) (f : RecSt → RecSt) (rx : Nat) : (s.setBook f).can rx = s.can rx := rfl
@[simp] theorem State.nm_setBook (s : State) (f : RecSt → RecSt) (rx : Nat) : (s.setBook f).nm rx = s.nm rx := rfl
@[simp] theorem State.din_setBook (s : State) (f : RecSt → RecSt) (rx : Nat) : (s.setBook f).din rx = s.din rx := rfl
@[simp] theorem State.strobe_setBook (s : State) (f : RecSt → RecSt) (rx : Nat) : (s.setBook f).strobe rx = s.strobe rx := rfl
@[simp] theorem State.tmr_setBook (s : State) (f : RecSt → RecSt) (rx : Nat) : (s.setBook f).tmr rx = s.tmr rx := rfl
@[simp] theorem State.tch_setBook (s : State) (f : RecSt → RecSt) (rx : Nat) : (s.setBook f).tch rx = s.tch rx := rfl
@[simp] theorem State.port_setBook (s : State) (f : RecSt → RecSt) (rx : Nat) : (s.setBook f).port rx = s.port rx := rfl
@[simp] theorem State.stream_setBook (s : State) (f : RecSt → RecSt) (rx : Nat) : (s.setBook f).stream rx = s.stream rx := rfl
@[simp] theorem State.tas_setBook (s : State) (f : RecSt → RecSt) (rx : Nat) : (s.setBook f).tas rx = s.tas rx := rfl
@[simp] theorem State.ctx_setBook (s : State) (f : RecSt → RecSt) (rx : Bool) : (s.setBook f).ctx rx = s.ctx rx := rfl

@[simp] theorem State.rd_setNm (s : State) (x : Nat) (f : NmSt → NmSt) (rq ro : Nat) : (s.setNm x f).rd rq ro = s.rd rq ro := rfl
@[simp] theorem State.get_setNm (s : State) (x : Nat) (f : NmSt → NmSt) (rg : Fld) : (s.setNm x f).get rg = s.get rg := rfl
@[simp] theorem State.flag_setNm (s : State) (x : Nat) (f : NmSt → NmSt) (rg : Fld) : (s.setNm x f).flag rg = s.flag rg := rfl
@[simp] theorem State.act_setNm (s : State) (x : Nat) (f : NmSt → NmSt) (rg : Fld) : (s.setNm x f).act rg = s.act rg := rfl
@[simp] theorem State.next_setNm (s : State) (x : Nat) (f : NmSt → NmSt) (rg : Fld) : (s.setNm x f).next rg = s.next rg := rfl
@[simp] theorem State.byte_setNm (s : State) (x : Nat) (f : NmSt → NmSt) (rj : Nat) : (s.setNm x f).byte rj = s.byte rj := rfl
@[simp] theorem State.bytes_setNm (s : State) (x : Nat) (f : NmSt → NmSt) (rj rm : Nat) : (s.setNm x f).bytes rj rm = s.bytes rj rm := rfl
@[simp] theorem State.le_setNm (s : State) (x : Nat) (f : NmSt → NmSt) (rj rm : Nat) : (s.setNm x f).le rj rm = s.le rj rm := rfl
@[simp] theorem State.due_setNm (s : State) (x : Nat) (f : NmSt → NmSt) (rx : Timer) : (s.setNm x f).due rx = s.due rx := rfl
@[simp] theorem State.lap_setNm (s : State) (x : Nat) (f : NmSt → NmSt) : (s.setNm x f).lap = s.lap := rfl
@[simp] theorem State.splitAt_setNm (s : State) (x : Nat) (f : NmSt → NmSt) (rx : Nat) : (s.setNm x f).splitAt rx = s.splitAt rx := rfl
@[simp] theorem State.out_setNm (s : State) (x : Nat) (f : NmSt → NmSt) (rx : OutU) : (s.setNm x f).out rx = s.out rx := rfl
@[simp] theorem State.die_setNm (s : State) (x : Nat) (f : NmSt → NmSt) (rx : Nat) : (s.setNm x f).die rx = s.die rx := rfl
@[simp] theorem State.ageOf_setNm (s : State) (x : Nat) (f : NmSt → NmSt) (rx : Nat) : (s.setNm x f).ageOf rx = s.ageOf rx := rfl
@[simp] theorem State.queue_setNm (s : State) (x : Nat) (f : NmSt → NmSt) (rx : Nat) : (s.setNm x f).queue rx = s.queue rx := rfl
@[simp] theorem State.latch_setNm (s : State) (x : Nat) (f : NmSt → NmSt) (rx : Src) : (s.setNm x f).latch rx = s.latch rx := rfl
@[simp] theorem State.valve_setNm (s : State) (x : Nat) (f : NmSt → NmSt) (rx : Nat) : (s.setNm x f).valve rx = s.valve rx := rfl
@[simp] theorem State.bridge_setNm (s : State) (x : Nat) (f : NmSt → NmSt) (rx : Nat) : (s.setNm x f).bridge rx = s.bridge rx := rfl
@[simp] theorem State.can_setNm (s : State) (x : Nat) (f : NmSt → NmSt) (rx : Nat) : (s.setNm x f).can rx = s.can rx := rfl
@[simp] theorem State.din_setNm (s : State) (x : Nat) (f : NmSt → NmSt) (rx : Nat) : (s.setNm x f).din rx = s.din rx := rfl
@[simp] theorem State.strobe_setNm (s : State) (x : Nat) (f : NmSt → NmSt) (rx : Nat) : (s.setNm x f).strobe rx = s.strobe rx := rfl
@[simp] theorem State.tmr_setNm (s : State) (x : Nat) (f : NmSt → NmSt) (rx : Nat) : (s.setNm x f).tmr rx = s.tmr rx := rfl
@[simp] theorem State.tch_setNm (s : State) (x : Nat) (f : NmSt → NmSt) (rx : Nat) : (s.setNm x f).tch rx = s.tch rx := rfl
@[simp] theorem State.port_setNm (s : State) (x : Nat) (f : NmSt → NmSt) (rx : Nat) : (s.setNm x f).port rx = s.port rx := rfl
@[simp] theorem State.stream_setNm (s : State) (x : Nat) (f : NmSt → NmSt) (rx : Nat) : (s.setNm x f).stream rx = s.stream rx := rfl
@[simp] theorem State.tas_setNm (s : State) (x : Nat) (f : NmSt → NmSt) (rx : Nat) : (s.setNm x f).tas rx = s.tas rx := rfl
@[simp] theorem State.ctx_setNm (s : State) (x : Nat) (f : NmSt → NmSt) (rx : Bool) : (s.setNm x f).ctx rx = s.ctx rx := rfl

@[simp] theorem State.rd_setStride (s : State) (f : StrideSt → StrideSt) (rq ro : Nat) : (s.setStride f).rd rq ro = s.rd rq ro := rfl
@[simp] theorem State.get_setStride (s : State) (f : StrideSt → StrideSt) (rg : Fld) : (s.setStride f).get rg = s.get rg := rfl
@[simp] theorem State.flag_setStride (s : State) (f : StrideSt → StrideSt) (rg : Fld) : (s.setStride f).flag rg = s.flag rg := rfl
@[simp] theorem State.act_setStride (s : State) (f : StrideSt → StrideSt) (rg : Fld) : (s.setStride f).act rg = s.act rg := rfl
@[simp] theorem State.next_setStride (s : State) (f : StrideSt → StrideSt) (rg : Fld) : (s.setStride f).next rg = s.next rg := rfl
@[simp] theorem State.byte_setStride (s : State) (f : StrideSt → StrideSt) (rj : Nat) : (s.setStride f).byte rj = s.byte rj := rfl
@[simp] theorem State.bytes_setStride (s : State) (f : StrideSt → StrideSt) (rj rm : Nat) : (s.setStride f).bytes rj rm = s.bytes rj rm := rfl
@[simp] theorem State.le_setStride (s : State) (f : StrideSt → StrideSt) (rj rm : Nat) : (s.setStride f).le rj rm = s.le rj rm := rfl
@[simp] theorem State.due_setStride (s : State) (f : StrideSt → StrideSt) (rx : Timer) : (s.setStride f).due rx = s.due rx := rfl
@[simp] theorem State.lap_setStride (s : State) (f : StrideSt → StrideSt) : (s.setStride f).lap = s.lap := rfl
@[simp] theorem State.splitAt_setStride (s : State) (f : StrideSt → StrideSt) (rx : Nat) : (s.setStride f).splitAt rx = s.splitAt rx := rfl
@[simp] theorem State.out_setStride (s : State) (f : StrideSt → StrideSt) (rx : OutU) : (s.setStride f).out rx = s.out rx := rfl
@[simp] theorem State.die_setStride (s : State) (f : StrideSt → StrideSt) (rx : Nat) : (s.setStride f).die rx = s.die rx := rfl
@[simp] theorem State.ageOf_setStride (s : State) (f : StrideSt → StrideSt) (rx : Nat) : (s.setStride f).ageOf rx = s.ageOf rx := rfl
@[simp] theorem State.queue_setStride (s : State) (f : StrideSt → StrideSt) (rx : Nat) : (s.setStride f).queue rx = s.queue rx := rfl
@[simp] theorem State.latch_setStride (s : State) (f : StrideSt → StrideSt) (rx : Src) : (s.setStride f).latch rx = s.latch rx := rfl
@[simp] theorem State.valve_setStride (s : State) (f : StrideSt → StrideSt) (rx : Nat) : (s.setStride f).valve rx = s.valve rx := rfl
@[simp] theorem State.bridge_setStride (s : State) (f : StrideSt → StrideSt) (rx : Nat) : (s.setStride f).bridge rx = s.bridge rx := rfl
@[simp] theorem State.can_setStride (s : State) (f : StrideSt → StrideSt) (rx : Nat) : (s.setStride f).can rx = s.can rx := rfl
@[simp] theorem State.nm_setStride (s : State) (f : StrideSt → StrideSt) (rx : Nat) : (s.setStride f).nm rx = s.nm rx := rfl
@[simp] theorem State.din_setStride (s : State) (f : StrideSt → StrideSt) (rx : Nat) : (s.setStride f).din rx = s.din rx := rfl
@[simp] theorem State.strobe_setStride (s : State) (f : StrideSt → StrideSt) (rx : Nat) : (s.setStride f).strobe rx = s.strobe rx := rfl
@[simp] theorem State.tmr_setStride (s : State) (f : StrideSt → StrideSt) (rx : Nat) : (s.setStride f).tmr rx = s.tmr rx := rfl
@[simp] theorem State.tch_setStride (s : State) (f : StrideSt → StrideSt) (rx : Nat) : (s.setStride f).tch rx = s.tch rx := rfl
@[simp] theorem State.port_setStride (s : State) (f : StrideSt → StrideSt) (rx : Nat) : (s.setStride f).port rx = s.port rx := rfl
@[simp] theorem State.stream_setStride (s : State) (f : StrideSt → StrideSt) (rx : Nat) : (s.setStride f).stream rx = s.stream rx := rfl
@[simp] theorem State.tas_setStride (s : State) (f : StrideSt → StrideSt) (rx : Nat) : (s.setStride f).tas rx = s.tas rx := rfl
@[simp] theorem State.ctx_setStride (s : State) (f : StrideSt → StrideSt) (rx : Bool) : (s.setStride f).ctx rx = s.ctx rx := rfl

@[simp] theorem State.rd_setSup (s : State) (f : SupSt → SupSt) (rq ro : Nat) : (s.setSup f).rd rq ro = s.rd rq ro := rfl
@[simp] theorem State.get_setSup (s : State) (f : SupSt → SupSt) (rg : Fld) : (s.setSup f).get rg = s.get rg := rfl
@[simp] theorem State.flag_setSup (s : State) (f : SupSt → SupSt) (rg : Fld) : (s.setSup f).flag rg = s.flag rg := rfl
@[simp] theorem State.act_setSup (s : State) (f : SupSt → SupSt) (rg : Fld) : (s.setSup f).act rg = s.act rg := rfl
@[simp] theorem State.next_setSup (s : State) (f : SupSt → SupSt) (rg : Fld) : (s.setSup f).next rg = s.next rg := rfl
@[simp] theorem State.byte_setSup (s : State) (f : SupSt → SupSt) (rj : Nat) : (s.setSup f).byte rj = s.byte rj := rfl
@[simp] theorem State.bytes_setSup (s : State) (f : SupSt → SupSt) (rj rm : Nat) : (s.setSup f).bytes rj rm = s.bytes rj rm := rfl
@[simp] theorem State.le_setSup (s : State) (f : SupSt → SupSt) (rj rm : Nat) : (s.setSup f).le rj rm = s.le rj rm := rfl
@[simp] theorem State.due_setSup (s : State) (f : SupSt → SupSt) (rx : Timer) : (s.setSup f).due rx = s.due rx := rfl
@[simp] theorem State.lap_setSup (s : State) (f : SupSt → SupSt) : (s.setSup f).lap = s.lap := rfl
@[simp] theorem State.splitAt_setSup (s : State) (f : SupSt → SupSt) (rx : Nat) : (s.setSup f).splitAt rx = s.splitAt rx := rfl
@[simp] theorem State.out_setSup (s : State) (f : SupSt → SupSt) (rx : OutU) : (s.setSup f).out rx = s.out rx := rfl
@[simp] theorem State.die_setSup (s : State) (f : SupSt → SupSt) (rx : Nat) : (s.setSup f).die rx = s.die rx := rfl
@[simp] theorem State.ageOf_setSup (s : State) (f : SupSt → SupSt) (rx : Nat) : (s.setSup f).ageOf rx = s.ageOf rx := rfl
@[simp] theorem State.queue_setSup (s : State) (f : SupSt → SupSt) (rx : Nat) : (s.setSup f).queue rx = s.queue rx := rfl
@[simp] theorem State.latch_setSup (s : State) (f : SupSt → SupSt) (rx : Src) : (s.setSup f).latch rx = s.latch rx := rfl
@[simp] theorem State.valve_setSup (s : State) (f : SupSt → SupSt) (rx : Nat) : (s.setSup f).valve rx = s.valve rx := rfl
@[simp] theorem State.bridge_setSup (s : State) (f : SupSt → SupSt) (rx : Nat) : (s.setSup f).bridge rx = s.bridge rx := rfl
@[simp] theorem State.can_setSup (s : State) (f : SupSt → SupSt) (rx : Nat) : (s.setSup f).can rx = s.can rx := rfl
@[simp] theorem State.nm_setSup (s : State) (f : SupSt → SupSt) (rx : Nat) : (s.setSup f).nm rx = s.nm rx := rfl
@[simp] theorem State.din_setSup (s : State) (f : SupSt → SupSt) (rx : Nat) : (s.setSup f).din rx = s.din rx := rfl
@[simp] theorem State.strobe_setSup (s : State) (f : SupSt → SupSt) (rx : Nat) : (s.setSup f).strobe rx = s.strobe rx := rfl
@[simp] theorem State.tmr_setSup (s : State) (f : SupSt → SupSt) (rx : Nat) : (s.setSup f).tmr rx = s.tmr rx := rfl
@[simp] theorem State.tch_setSup (s : State) (f : SupSt → SupSt) (rx : Nat) : (s.setSup f).tch rx = s.tch rx := rfl
@[simp] theorem State.port_setSup (s : State) (f : SupSt → SupSt) (rx : Nat) : (s.setSup f).port rx = s.port rx := rfl
@[simp] theorem State.stream_setSup (s : State) (f : SupSt → SupSt) (rx : Nat) : (s.setSup f).stream rx = s.stream rx := rfl
@[simp] theorem State.tas_setSup (s : State) (f : SupSt → SupSt) (rx : Nat) : (s.setSup f).tas rx = s.tas rx := rfl
@[simp] theorem State.ctx_setSup (s : State) (f : SupSt → SupSt) (rx : Bool) : (s.setSup f).ctx rx = s.ctx rx := rfl

@[simp] theorem State.rd_setPort (s : State) (p : Nat) (f : PortSt → PortSt) (rq ro : Nat) : (s.setPort p f).rd rq ro = s.rd rq ro := rfl
@[simp] theorem State.get_setPort (s : State) (p : Nat) (f : PortSt → PortSt) (rg : Fld) : (s.setPort p f).get rg = s.get rg := rfl
@[simp] theorem State.flag_setPort (s : State) (p : Nat) (f : PortSt → PortSt) (rg : Fld) : (s.setPort p f).flag rg = s.flag rg := rfl
@[simp] theorem State.act_setPort (s : State) (p : Nat) (f : PortSt → PortSt) (rg : Fld) : (s.setPort p f).act rg = s.act rg := rfl
@[simp] theorem State.next_setPort (s : State) (p : Nat) (f : PortSt → PortSt) (rg : Fld) : (s.setPort p f).next rg = s.next rg := rfl
@[simp] theorem State.byte_setPort (s : State) (p : Nat) (f : PortSt → PortSt) (rj : Nat) : (s.setPort p f).byte rj = s.byte rj := rfl
@[simp] theorem State.bytes_setPort (s : State) (p : Nat) (f : PortSt → PortSt) (rj rm : Nat) : (s.setPort p f).bytes rj rm = s.bytes rj rm := rfl
@[simp] theorem State.le_setPort (s : State) (p : Nat) (f : PortSt → PortSt) (rj rm : Nat) : (s.setPort p f).le rj rm = s.le rj rm := rfl
@[simp] theorem State.due_setPort (s : State) (p : Nat) (f : PortSt → PortSt) (rx : Timer) : (s.setPort p f).due rx = s.due rx := rfl
@[simp] theorem State.lap_setPort (s : State) (p : Nat) (f : PortSt → PortSt) : (s.setPort p f).lap = s.lap := rfl
@[simp] theorem State.splitAt_setPort (s : State) (p : Nat) (f : PortSt → PortSt) (rx : Nat) : (s.setPort p f).splitAt rx = s.splitAt rx := rfl
@[simp] theorem State.out_setPort (s : State) (p : Nat) (f : PortSt → PortSt) (rx : OutU) : (s.setPort p f).out rx = s.out rx := rfl
@[simp] theorem State.die_setPort (s : State) (p : Nat) (f : PortSt → PortSt) (rx : Nat) : (s.setPort p f).die rx = s.die rx := rfl
@[simp] theorem State.ageOf_setPort (s : State) (p : Nat) (f : PortSt → PortSt) (rx : Nat) : (s.setPort p f).ageOf rx = s.ageOf rx := rfl
@[simp] theorem State.queue_setPort (s : State) (p : Nat) (f : PortSt → PortSt) (rx : Nat) : (s.setPort p f).queue rx = s.queue rx := rfl
@[simp] theorem State.latch_setPort (s : State) (p : Nat) (f : PortSt → PortSt) (rx : Src) : (s.setPort p f).latch rx = s.latch rx := rfl
@[simp] theorem State.valve_setPort (s : State) (p : Nat) (f : PortSt → PortSt) (rx : Nat) : (s.setPort p f).valve rx = s.valve rx := rfl
@[simp] theorem State.bridge_setPort (s : State) (p : Nat) (f : PortSt → PortSt) (rx : Nat) : (s.setPort p f).bridge rx = s.bridge rx := rfl
@[simp] theorem State.can_setPort (s : State) (p : Nat) (f : PortSt → PortSt) (rx : Nat) : (s.setPort p f).can rx = s.can rx := rfl
@[simp] theorem State.nm_setPort (s : State) (p : Nat) (f : PortSt → PortSt) (rx : Nat) : (s.setPort p f).nm rx = s.nm rx := rfl
@[simp] theorem State.din_setPort (s : State) (p : Nat) (f : PortSt → PortSt) (rx : Nat) : (s.setPort p f).din rx = s.din rx := rfl
@[simp] theorem State.strobe_setPort (s : State) (p : Nat) (f : PortSt → PortSt) (rx : Nat) : (s.setPort p f).strobe rx = s.strobe rx := rfl
@[simp] theorem State.tmr_setPort (s : State) (p : Nat) (f : PortSt → PortSt) (rx : Nat) : (s.setPort p f).tmr rx = s.tmr rx := rfl
@[simp] theorem State.tch_setPort (s : State) (p : Nat) (f : PortSt → PortSt) (rx : Nat) : (s.setPort p f).tch rx = s.tch rx := rfl
@[simp] theorem State.ctx_setPort (s : State) (p : Nat) (f : PortSt → PortSt) (rx : Bool) : (s.setPort p f).ctx rx = s.ctx rx := rfl

@[simp] theorem State.rd_setStream (s : State) (i : Nat) (f : SflEnt → SflEnt) (rq ro : Nat) : (s.setStream i f).rd rq ro = s.rd rq ro := rfl
@[simp] theorem State.get_setStream (s : State) (i : Nat) (f : SflEnt → SflEnt) (rg : Fld) : (s.setStream i f).get rg = s.get rg := rfl
@[simp] theorem State.flag_setStream (s : State) (i : Nat) (f : SflEnt → SflEnt) (rg : Fld) : (s.setStream i f).flag rg = s.flag rg := rfl
@[simp] theorem State.act_setStream (s : State) (i : Nat) (f : SflEnt → SflEnt) (rg : Fld) : (s.setStream i f).act rg = s.act rg := rfl
@[simp] theorem State.next_setStream (s : State) (i : Nat) (f : SflEnt → SflEnt) (rg : Fld) : (s.setStream i f).next rg = s.next rg := rfl
@[simp] theorem State.byte_setStream (s : State) (i : Nat) (f : SflEnt → SflEnt) (rj : Nat) : (s.setStream i f).byte rj = s.byte rj := rfl
@[simp] theorem State.bytes_setStream (s : State) (i : Nat) (f : SflEnt → SflEnt) (rj rm : Nat) : (s.setStream i f).bytes rj rm = s.bytes rj rm := rfl
@[simp] theorem State.le_setStream (s : State) (i : Nat) (f : SflEnt → SflEnt) (rj rm : Nat) : (s.setStream i f).le rj rm = s.le rj rm := rfl
@[simp] theorem State.due_setStream (s : State) (i : Nat) (f : SflEnt → SflEnt) (rx : Timer) : (s.setStream i f).due rx = s.due rx := rfl
@[simp] theorem State.lap_setStream (s : State) (i : Nat) (f : SflEnt → SflEnt) : (s.setStream i f).lap = s.lap := rfl
@[simp] theorem State.splitAt_setStream (s : State) (i : Nat) (f : SflEnt → SflEnt) (rx : Nat) : (s.setStream i f).splitAt rx = s.splitAt rx := rfl
@[simp] theorem State.out_setStream (s : State) (i : Nat) (f : SflEnt → SflEnt) (rx : OutU) : (s.setStream i f).out rx = s.out rx := rfl
@[simp] theorem State.die_setStream (s : State) (i : Nat) (f : SflEnt → SflEnt) (rx : Nat) : (s.setStream i f).die rx = s.die rx := rfl
@[simp] theorem State.ageOf_setStream (s : State) (i : Nat) (f : SflEnt → SflEnt) (rx : Nat) : (s.setStream i f).ageOf rx = s.ageOf rx := rfl
@[simp] theorem State.queue_setStream (s : State) (i : Nat) (f : SflEnt → SflEnt) (rx : Nat) : (s.setStream i f).queue rx = s.queue rx := rfl
@[simp] theorem State.latch_setStream (s : State) (i : Nat) (f : SflEnt → SflEnt) (rx : Src) : (s.setStream i f).latch rx = s.latch rx := rfl
@[simp] theorem State.valve_setStream (s : State) (i : Nat) (f : SflEnt → SflEnt) (rx : Nat) : (s.setStream i f).valve rx = s.valve rx := rfl
@[simp] theorem State.bridge_setStream (s : State) (i : Nat) (f : SflEnt → SflEnt) (rx : Nat) : (s.setStream i f).bridge rx = s.bridge rx := rfl
@[simp] theorem State.can_setStream (s : State) (i : Nat) (f : SflEnt → SflEnt) (rx : Nat) : (s.setStream i f).can rx = s.can rx := rfl
@[simp] theorem State.nm_setStream (s : State) (i : Nat) (f : SflEnt → SflEnt) (rx : Nat) : (s.setStream i f).nm rx = s.nm rx := rfl
@[simp] theorem State.din_setStream (s : State) (i : Nat) (f : SflEnt → SflEnt) (rx : Nat) : (s.setStream i f).din rx = s.din rx := rfl
@[simp] theorem State.strobe_setStream (s : State) (i : Nat) (f : SflEnt → SflEnt) (rx : Nat) : (s.setStream i f).strobe rx = s.strobe rx := rfl
@[simp] theorem State.tmr_setStream (s : State) (i : Nat) (f : SflEnt → SflEnt) (rx : Nat) : (s.setStream i f).tmr rx = s.tmr rx := rfl
@[simp] theorem State.tch_setStream (s : State) (i : Nat) (f : SflEnt → SflEnt) (rx : Nat) : (s.setStream i f).tch rx = s.tch rx := rfl
@[simp] theorem State.ctx_setStream (s : State) (i : Nat) (f : SflEnt → SflEnt) (rx : Bool) : (s.setStream i f).ctx rx = s.ctx rx := rfl

@[simp] theorem State.rd_setTas (s : State) (p : Nat) (f : TasSt → TasSt) (rq ro : Nat) : (s.setTas p f).rd rq ro = s.rd rq ro := rfl
@[simp] theorem State.get_setTas (s : State) (p : Nat) (f : TasSt → TasSt) (rg : Fld) : (s.setTas p f).get rg = s.get rg := rfl
@[simp] theorem State.flag_setTas (s : State) (p : Nat) (f : TasSt → TasSt) (rg : Fld) : (s.setTas p f).flag rg = s.flag rg := rfl
@[simp] theorem State.act_setTas (s : State) (p : Nat) (f : TasSt → TasSt) (rg : Fld) : (s.setTas p f).act rg = s.act rg := rfl
@[simp] theorem State.next_setTas (s : State) (p : Nat) (f : TasSt → TasSt) (rg : Fld) : (s.setTas p f).next rg = s.next rg := rfl
@[simp] theorem State.byte_setTas (s : State) (p : Nat) (f : TasSt → TasSt) (rj : Nat) : (s.setTas p f).byte rj = s.byte rj := rfl
@[simp] theorem State.bytes_setTas (s : State) (p : Nat) (f : TasSt → TasSt) (rj rm : Nat) : (s.setTas p f).bytes rj rm = s.bytes rj rm := rfl
@[simp] theorem State.le_setTas (s : State) (p : Nat) (f : TasSt → TasSt) (rj rm : Nat) : (s.setTas p f).le rj rm = s.le rj rm := rfl
@[simp] theorem State.due_setTas (s : State) (p : Nat) (f : TasSt → TasSt) (rx : Timer) : (s.setTas p f).due rx = s.due rx := rfl
@[simp] theorem State.lap_setTas (s : State) (p : Nat) (f : TasSt → TasSt) : (s.setTas p f).lap = s.lap := rfl
@[simp] theorem State.splitAt_setTas (s : State) (p : Nat) (f : TasSt → TasSt) (rx : Nat) : (s.setTas p f).splitAt rx = s.splitAt rx := rfl
@[simp] theorem State.out_setTas (s : State) (p : Nat) (f : TasSt → TasSt) (rx : OutU) : (s.setTas p f).out rx = s.out rx := rfl
@[simp] theorem State.die_setTas (s : State) (p : Nat) (f : TasSt → TasSt) (rx : Nat) : (s.setTas p f).die rx = s.die rx := rfl
@[simp] theorem State.ageOf_setTas (s : State) (p : Nat) (f : TasSt → TasSt) (rx : Nat) : (s.setTas p f).ageOf rx = s.ageOf rx := rfl
@[simp] theorem State.queue_setTas (s : State) (p : Nat) (f : TasSt → TasSt) (rx : Nat) : (s.setTas p f).queue rx = s.queue rx := rfl
@[simp] theorem State.latch_setTas (s : State) (p : Nat) (f : TasSt → TasSt) (rx : Src) : (s.setTas p f).latch rx = s.latch rx := rfl
@[simp] theorem State.valve_setTas (s : State) (p : Nat) (f : TasSt → TasSt) (rx : Nat) : (s.setTas p f).valve rx = s.valve rx := rfl
@[simp] theorem State.bridge_setTas (s : State) (p : Nat) (f : TasSt → TasSt) (rx : Nat) : (s.setTas p f).bridge rx = s.bridge rx := rfl
@[simp] theorem State.can_setTas (s : State) (p : Nat) (f : TasSt → TasSt) (rx : Nat) : (s.setTas p f).can rx = s.can rx := rfl
@[simp] theorem State.nm_setTas (s : State) (p : Nat) (f : TasSt → TasSt) (rx : Nat) : (s.setTas p f).nm rx = s.nm rx := rfl
@[simp] theorem State.din_setTas (s : State) (p : Nat) (f : TasSt → TasSt) (rx : Nat) : (s.setTas p f).din rx = s.din rx := rfl
@[simp] theorem State.strobe_setTas (s : State) (p : Nat) (f : TasSt → TasSt) (rx : Nat) : (s.setTas p f).strobe rx = s.strobe rx := rfl
@[simp] theorem State.tmr_setTas (s : State) (p : Nat) (f : TasSt → TasSt) (rx : Nat) : (s.setTas p f).tmr rx = s.tmr rx := rfl
@[simp] theorem State.tch_setTas (s : State) (p : Nat) (f : TasSt → TasSt) (rx : Nat) : (s.setTas p f).tch rx = s.tch rx := rfl
@[simp] theorem State.ctx_setTas (s : State) (p : Nat) (f : TasSt → TasSt) (rx : Bool) : (s.setTas p f).ctx rx = s.ctx rx := rfl

@[simp] theorem State.act_setMac (s : State) (i : Nat) (e : Option MacEnt) (rg : Fld) : (s.setMac i e).act rg = s.act rg := rfl
@[simp] theorem State.byte_setMac (s : State) (i : Nat) (e : Option MacEnt) (rj : Nat) : (s.setMac i e).byte rj = s.byte rj := rfl
@[simp] theorem State.bytes_setMac (s : State) (i : Nat) (e : Option MacEnt) (rj rm : Nat) : (s.setMac i e).bytes rj rm = s.bytes rj rm := rfl
@[simp] theorem State.le_setMac (s : State) (i : Nat) (e : Option MacEnt) (rj rm : Nat) : (s.setMac i e).le rj rm = s.le rj rm := rfl
@[simp] theorem State.due_setMac (s : State) (i : Nat) (e : Option MacEnt) (rx : Timer) : (s.setMac i e).due rx = s.due rx := rfl
@[simp] theorem State.splitAt_setMac (s : State) (i : Nat) (e : Option MacEnt) (rx : Nat) : (s.setMac i e).splitAt rx = s.splitAt rx := rfl
@[simp] theorem State.out_setMac (s : State) (i : Nat) (e : Option MacEnt) (rx : OutU) : (s.setMac i e).out rx = s.out rx := rfl
@[simp] theorem State.die_setMac (s : State) (i : Nat) (e : Option MacEnt) (rx : Nat) : (s.setMac i e).die rx = s.die rx := rfl
@[simp] theorem State.ageOf_setMac (s : State) (i : Nat) (e : Option MacEnt) (rx : Nat) : (s.setMac i e).ageOf rx = s.ageOf rx := rfl
@[simp] theorem State.queue_setMac (s : State) (i : Nat) (e : Option MacEnt) (rx : Nat) : (s.setMac i e).queue rx = s.queue rx := rfl
@[simp] theorem State.latch_setMac (s : State) (i : Nat) (e : Option MacEnt) (rx : Src) : (s.setMac i e).latch rx = s.latch rx := rfl
@[simp] theorem State.valve_setMac (s : State) (i : Nat) (e : Option MacEnt) (rx : Nat) : (s.setMac i e).valve rx = s.valve rx := rfl
@[simp] theorem State.bridge_setMac (s : State) (i : Nat) (e : Option MacEnt) (rx : Nat) : (s.setMac i e).bridge rx = s.bridge rx := rfl
@[simp] theorem State.can_setMac (s : State) (i : Nat) (e : Option MacEnt) (rx : Nat) : (s.setMac i e).can rx = s.can rx := rfl
@[simp] theorem State.nm_setMac (s : State) (i : Nat) (e : Option MacEnt) (rx : Nat) : (s.setMac i e).nm rx = s.nm rx := rfl
@[simp] theorem State.din_setMac (s : State) (i : Nat) (e : Option MacEnt) (rx : Nat) : (s.setMac i e).din rx = s.din rx := rfl
@[simp] theorem State.strobe_setMac (s : State) (i : Nat) (e : Option MacEnt) (rx : Nat) : (s.setMac i e).strobe rx = s.strobe rx := rfl
@[simp] theorem State.tmr_setMac (s : State) (i : Nat) (e : Option MacEnt) (rx : Nat) : (s.setMac i e).tmr rx = s.tmr rx := rfl
@[simp] theorem State.tch_setMac (s : State) (i : Nat) (e : Option MacEnt) (rx : Nat) : (s.setMac i e).tch rx = s.tch rx := rfl
@[simp] theorem State.ctx_setMac (s : State) (i : Nat) (e : Option MacEnt) (rx : Bool) : (s.setMac i e).ctx rx = s.ctx rx := rfl

@[simp] theorem State.rd_setTmr (s : State) (u : Nat) (f : TmrSt → TmrSt) (rq ro : Nat) : (s.setTmr u f).rd rq ro = s.rd rq ro := rfl
@[simp] theorem State.get_setTmr (s : State) (u : Nat) (f : TmrSt → TmrSt) (rg : Fld) : (s.setTmr u f).get rg = s.get rg := rfl
@[simp] theorem State.flag_setTmr (s : State) (u : Nat) (f : TmrSt → TmrSt) (rg : Fld) : (s.setTmr u f).flag rg = s.flag rg := rfl
@[simp] theorem State.act_setTmr (s : State) (u : Nat) (f : TmrSt → TmrSt) (rg : Fld) : (s.setTmr u f).act rg = s.act rg := rfl
@[simp] theorem State.next_setTmr (s : State) (u : Nat) (f : TmrSt → TmrSt) (rg : Fld) : (s.setTmr u f).next rg = s.next rg := rfl
@[simp] theorem State.byte_setTmr (s : State) (u : Nat) (f : TmrSt → TmrSt) (rj : Nat) : (s.setTmr u f).byte rj = s.byte rj := rfl
@[simp] theorem State.bytes_setTmr (s : State) (u : Nat) (f : TmrSt → TmrSt) (rj rm : Nat) : (s.setTmr u f).bytes rj rm = s.bytes rj rm := rfl
@[simp] theorem State.le_setTmr (s : State) (u : Nat) (f : TmrSt → TmrSt) (rj rm : Nat) : (s.setTmr u f).le rj rm = s.le rj rm := rfl
@[simp] theorem State.due_setTmr (s : State) (u : Nat) (f : TmrSt → TmrSt) (rx : Timer) : (s.setTmr u f).due rx = s.due rx := rfl
@[simp] theorem State.lap_setTmr (s : State) (u : Nat) (f : TmrSt → TmrSt) : (s.setTmr u f).lap = s.lap := rfl
@[simp] theorem State.splitAt_setTmr (s : State) (u : Nat) (f : TmrSt → TmrSt) (rx : Nat) : (s.setTmr u f).splitAt rx = s.splitAt rx := rfl
@[simp] theorem State.out_setTmr (s : State) (u : Nat) (f : TmrSt → TmrSt) (rx : OutU) : (s.setTmr u f).out rx = s.out rx := rfl
@[simp] theorem State.die_setTmr (s : State) (u : Nat) (f : TmrSt → TmrSt) (rx : Nat) : (s.setTmr u f).die rx = s.die rx := rfl
@[simp] theorem State.ageOf_setTmr (s : State) (u : Nat) (f : TmrSt → TmrSt) (rx : Nat) : (s.setTmr u f).ageOf rx = s.ageOf rx := rfl
@[simp] theorem State.queue_setTmr (s : State) (u : Nat) (f : TmrSt → TmrSt) (rx : Nat) : (s.setTmr u f).queue rx = s.queue rx := rfl
@[simp] theorem State.latch_setTmr (s : State) (u : Nat) (f : TmrSt → TmrSt) (rx : Src) : (s.setTmr u f).latch rx = s.latch rx := rfl
@[simp] theorem State.valve_setTmr (s : State) (u : Nat) (f : TmrSt → TmrSt) (rx : Nat) : (s.setTmr u f).valve rx = s.valve rx := rfl
@[simp] theorem State.bridge_setTmr (s : State) (u : Nat) (f : TmrSt → TmrSt) (rx : Nat) : (s.setTmr u f).bridge rx = s.bridge rx := rfl
@[simp] theorem State.can_setTmr (s : State) (u : Nat) (f : TmrSt → TmrSt) (rx : Nat) : (s.setTmr u f).can rx = s.can rx := rfl
@[simp] theorem State.nm_setTmr (s : State) (u : Nat) (f : TmrSt → TmrSt) (rx : Nat) : (s.setTmr u f).nm rx = s.nm rx := rfl
@[simp] theorem State.din_setTmr (s : State) (u : Nat) (f : TmrSt → TmrSt) (rx : Nat) : (s.setTmr u f).din rx = s.din rx := rfl
@[simp] theorem State.strobe_setTmr (s : State) (u : Nat) (f : TmrSt → TmrSt) (rx : Nat) : (s.setTmr u f).strobe rx = s.strobe rx := rfl
@[simp] theorem State.tch_setTmr (s : State) (u : Nat) (f : TmrSt → TmrSt) (rx : Nat) : (s.setTmr u f).tch rx = s.tch rx := rfl
@[simp] theorem State.port_setTmr (s : State) (u : Nat) (f : TmrSt → TmrSt) (rx : Nat) : (s.setTmr u f).port rx = s.port rx := rfl
@[simp] theorem State.stream_setTmr (s : State) (u : Nat) (f : TmrSt → TmrSt) (rx : Nat) : (s.setTmr u f).stream rx = s.stream rx := rfl
@[simp] theorem State.tas_setTmr (s : State) (u : Nat) (f : TmrSt → TmrSt) (rx : Nat) : (s.setTmr u f).tas rx = s.tas rx := rfl
@[simp] theorem State.ctx_setTmr (s : State) (u : Nat) (f : TmrSt → TmrSt) (rx : Bool) : (s.setTmr u f).ctx rx = s.ctx rx := rfl

@[simp] theorem State.rd_setTch (s : State) (n : Nat) (f : TmrCh → TmrCh) (rq ro : Nat) : (s.setTch n f).rd rq ro = s.rd rq ro := rfl
@[simp] theorem State.get_setTch (s : State) (n : Nat) (f : TmrCh → TmrCh) (rg : Fld) : (s.setTch n f).get rg = s.get rg := rfl
@[simp] theorem State.flag_setTch (s : State) (n : Nat) (f : TmrCh → TmrCh) (rg : Fld) : (s.setTch n f).flag rg = s.flag rg := rfl
@[simp] theorem State.act_setTch (s : State) (n : Nat) (f : TmrCh → TmrCh) (rg : Fld) : (s.setTch n f).act rg = s.act rg := rfl
@[simp] theorem State.next_setTch (s : State) (n : Nat) (f : TmrCh → TmrCh) (rg : Fld) : (s.setTch n f).next rg = s.next rg := rfl
@[simp] theorem State.byte_setTch (s : State) (n : Nat) (f : TmrCh → TmrCh) (rj : Nat) : (s.setTch n f).byte rj = s.byte rj := rfl
@[simp] theorem State.bytes_setTch (s : State) (n : Nat) (f : TmrCh → TmrCh) (rj rm : Nat) : (s.setTch n f).bytes rj rm = s.bytes rj rm := rfl
@[simp] theorem State.le_setTch (s : State) (n : Nat) (f : TmrCh → TmrCh) (rj rm : Nat) : (s.setTch n f).le rj rm = s.le rj rm := rfl
@[simp] theorem State.due_setTch (s : State) (n : Nat) (f : TmrCh → TmrCh) (rx : Timer) : (s.setTch n f).due rx = s.due rx := rfl
@[simp] theorem State.lap_setTch (s : State) (n : Nat) (f : TmrCh → TmrCh) : (s.setTch n f).lap = s.lap := rfl
@[simp] theorem State.splitAt_setTch (s : State) (n : Nat) (f : TmrCh → TmrCh) (rx : Nat) : (s.setTch n f).splitAt rx = s.splitAt rx := rfl
@[simp] theorem State.out_setTch (s : State) (n : Nat) (f : TmrCh → TmrCh) (rx : OutU) : (s.setTch n f).out rx = s.out rx := rfl
@[simp] theorem State.die_setTch (s : State) (n : Nat) (f : TmrCh → TmrCh) (rx : Nat) : (s.setTch n f).die rx = s.die rx := rfl
@[simp] theorem State.ageOf_setTch (s : State) (n : Nat) (f : TmrCh → TmrCh) (rx : Nat) : (s.setTch n f).ageOf rx = s.ageOf rx := rfl
@[simp] theorem State.queue_setTch (s : State) (n : Nat) (f : TmrCh → TmrCh) (rx : Nat) : (s.setTch n f).queue rx = s.queue rx := rfl
@[simp] theorem State.latch_setTch (s : State) (n : Nat) (f : TmrCh → TmrCh) (rx : Src) : (s.setTch n f).latch rx = s.latch rx := rfl
@[simp] theorem State.valve_setTch (s : State) (n : Nat) (f : TmrCh → TmrCh) (rx : Nat) : (s.setTch n f).valve rx = s.valve rx := rfl
@[simp] theorem State.bridge_setTch (s : State) (n : Nat) (f : TmrCh → TmrCh) (rx : Nat) : (s.setTch n f).bridge rx = s.bridge rx := rfl
@[simp] theorem State.can_setTch (s : State) (n : Nat) (f : TmrCh → TmrCh) (rx : Nat) : (s.setTch n f).can rx = s.can rx := rfl
@[simp] theorem State.nm_setTch (s : State) (n : Nat) (f : TmrCh → TmrCh) (rx : Nat) : (s.setTch n f).nm rx = s.nm rx := rfl
@[simp] theorem State.din_setTch (s : State) (n : Nat) (f : TmrCh → TmrCh) (rx : Nat) : (s.setTch n f).din rx = s.din rx := rfl
@[simp] theorem State.strobe_setTch (s : State) (n : Nat) (f : TmrCh → TmrCh) (rx : Nat) : (s.setTch n f).strobe rx = s.strobe rx := rfl
@[simp] theorem State.tmr_setTch (s : State) (n : Nat) (f : TmrCh → TmrCh) (rx : Nat) : (s.setTch n f).tmr rx = s.tmr rx := rfl
@[simp] theorem State.port_setTch (s : State) (n : Nat) (f : TmrCh → TmrCh) (rx : Nat) : (s.setTch n f).port rx = s.port rx := rfl
@[simp] theorem State.stream_setTch (s : State) (n : Nat) (f : TmrCh → TmrCh) (rx : Nat) : (s.setTch n f).stream rx = s.stream rx := rfl
@[simp] theorem State.tas_setTch (s : State) (n : Nat) (f : TmrCh → TmrCh) (rx : Nat) : (s.setTch n f).tas rx = s.tas rx := rfl
@[simp] theorem State.ctx_setTch (s : State) (n : Nat) (f : TmrCh → TmrCh) (rx : Bool) : (s.setTch n f).ctx rx = s.ctx rx := rfl

@[simp] theorem State.rd_setOut (s : State) (u : OutU) (f : OutSt → OutSt) (rq ro : Nat) : (s.setOut u f).rd rq ro = s.rd rq ro := rfl
@[simp] theorem State.get_setOut (s : State) (u : OutU) (f : OutSt → OutSt) (rg : Fld) : (s.setOut u f).get rg = s.get rg := rfl
@[simp] theorem State.flag_setOut (s : State) (u : OutU) (f : OutSt → OutSt) (rg : Fld) : (s.setOut u f).flag rg = s.flag rg := rfl
@[simp] theorem State.act_setOut (s : State) (u : OutU) (f : OutSt → OutSt) (rg : Fld) : (s.setOut u f).act rg = s.act rg := rfl
@[simp] theorem State.next_setOut (s : State) (u : OutU) (f : OutSt → OutSt) (rg : Fld) : (s.setOut u f).next rg = s.next rg := rfl
@[simp] theorem State.byte_setOut (s : State) (u : OutU) (f : OutSt → OutSt) (rj : Nat) : (s.setOut u f).byte rj = s.byte rj := rfl
@[simp] theorem State.bytes_setOut (s : State) (u : OutU) (f : OutSt → OutSt) (rj rm : Nat) : (s.setOut u f).bytes rj rm = s.bytes rj rm := rfl
@[simp] theorem State.le_setOut (s : State) (u : OutU) (f : OutSt → OutSt) (rj rm : Nat) : (s.setOut u f).le rj rm = s.le rj rm := rfl
@[simp] theorem State.due_setOut (s : State) (u : OutU) (f : OutSt → OutSt) (rx : Timer) : (s.setOut u f).due rx = s.due rx := rfl
@[simp] theorem State.lap_setOut (s : State) (u : OutU) (f : OutSt → OutSt) : (s.setOut u f).lap = s.lap := rfl
@[simp] theorem State.splitAt_setOut (s : State) (u : OutU) (f : OutSt → OutSt) (rx : Nat) : (s.setOut u f).splitAt rx = s.splitAt rx := rfl
@[simp] theorem State.die_setOut (s : State) (u : OutU) (f : OutSt → OutSt) (rx : Nat) : (s.setOut u f).die rx = s.die rx := rfl
@[simp] theorem State.ageOf_setOut (s : State) (u : OutU) (f : OutSt → OutSt) (rx : Nat) : (s.setOut u f).ageOf rx = s.ageOf rx := rfl
@[simp] theorem State.queue_setOut (s : State) (u : OutU) (f : OutSt → OutSt) (rx : Nat) : (s.setOut u f).queue rx = s.queue rx := rfl
@[simp] theorem State.latch_setOut (s : State) (u : OutU) (f : OutSt → OutSt) (rx : Src) : (s.setOut u f).latch rx = s.latch rx := rfl
@[simp] theorem State.valve_setOut (s : State) (u : OutU) (f : OutSt → OutSt) (rx : Nat) : (s.setOut u f).valve rx = s.valve rx := rfl
@[simp] theorem State.bridge_setOut (s : State) (u : OutU) (f : OutSt → OutSt) (rx : Nat) : (s.setOut u f).bridge rx = s.bridge rx := rfl
@[simp] theorem State.can_setOut (s : State) (u : OutU) (f : OutSt → OutSt) (rx : Nat) : (s.setOut u f).can rx = s.can rx := rfl
@[simp] theorem State.nm_setOut (s : State) (u : OutU) (f : OutSt → OutSt) (rx : Nat) : (s.setOut u f).nm rx = s.nm rx := rfl
@[simp] theorem State.din_setOut (s : State) (u : OutU) (f : OutSt → OutSt) (rx : Nat) : (s.setOut u f).din rx = s.din rx := rfl
@[simp] theorem State.strobe_setOut (s : State) (u : OutU) (f : OutSt → OutSt) (rx : Nat) : (s.setOut u f).strobe rx = s.strobe rx := rfl
@[simp] theorem State.tmr_setOut (s : State) (u : OutU) (f : OutSt → OutSt) (rx : Nat) : (s.setOut u f).tmr rx = s.tmr rx := rfl
@[simp] theorem State.tch_setOut (s : State) (u : OutU) (f : OutSt → OutSt) (rx : Nat) : (s.setOut u f).tch rx = s.tch rx := rfl
@[simp] theorem State.port_setOut (s : State) (u : OutU) (f : OutSt → OutSt) (rx : Nat) : (s.setOut u f).port rx = s.port rx := rfl
@[simp] theorem State.stream_setOut (s : State) (u : OutU) (f : OutSt → OutSt) (rx : Nat) : (s.setOut u f).stream rx = s.stream rx := rfl
@[simp] theorem State.tas_setOut (s : State) (u : OutU) (f : OutSt → OutSt) (rx : Nat) : (s.setOut u f).tas rx = s.tas rx := rfl
@[simp] theorem State.ctx_setOut (s : State) (u : OutU) (f : OutSt → OutSt) (rx : Bool) : (s.setOut u f).ctx rx = s.ctx rx := rfl

@[simp] theorem State.rd_setAge (s : State) (i : Nat) (f : AgeUnit → AgeUnit) (rq ro : Nat) : (s.setAge i f).rd rq ro = s.rd rq ro := rfl
@[simp] theorem State.get_setAge (s : State) (i : Nat) (f : AgeUnit → AgeUnit) (rg : Fld) : (s.setAge i f).get rg = s.get rg := rfl
@[simp] theorem State.flag_setAge (s : State) (i : Nat) (f : AgeUnit → AgeUnit) (rg : Fld) : (s.setAge i f).flag rg = s.flag rg := rfl
@[simp] theorem State.act_setAge (s : State) (i : Nat) (f : AgeUnit → AgeUnit) (rg : Fld) : (s.setAge i f).act rg = s.act rg := rfl
@[simp] theorem State.next_setAge (s : State) (i : Nat) (f : AgeUnit → AgeUnit) (rg : Fld) : (s.setAge i f).next rg = s.next rg := rfl
@[simp] theorem State.byte_setAge (s : State) (i : Nat) (f : AgeUnit → AgeUnit) (rj : Nat) : (s.setAge i f).byte rj = s.byte rj := rfl
@[simp] theorem State.bytes_setAge (s : State) (i : Nat) (f : AgeUnit → AgeUnit) (rj rm : Nat) : (s.setAge i f).bytes rj rm = s.bytes rj rm := rfl
@[simp] theorem State.le_setAge (s : State) (i : Nat) (f : AgeUnit → AgeUnit) (rj rm : Nat) : (s.setAge i f).le rj rm = s.le rj rm := rfl
@[simp] theorem State.due_setAge (s : State) (i : Nat) (f : AgeUnit → AgeUnit) (rx : Timer) : (s.setAge i f).due rx = s.due rx := rfl
@[simp] theorem State.lap_setAge (s : State) (i : Nat) (f : AgeUnit → AgeUnit) : (s.setAge i f).lap = s.lap := rfl
@[simp] theorem State.splitAt_setAge (s : State) (i : Nat) (f : AgeUnit → AgeUnit) (rx : Nat) : (s.setAge i f).splitAt rx = s.splitAt rx := rfl
@[simp] theorem State.out_setAge (s : State) (i : Nat) (f : AgeUnit → AgeUnit) (rx : OutU) : (s.setAge i f).out rx = s.out rx := rfl
@[simp] theorem State.die_setAge (s : State) (i : Nat) (f : AgeUnit → AgeUnit) (rx : Nat) : (s.setAge i f).die rx = s.die rx := rfl
@[simp] theorem State.queue_setAge (s : State) (i : Nat) (f : AgeUnit → AgeUnit) (rx : Nat) : (s.setAge i f).queue rx = s.queue rx := rfl
@[simp] theorem State.latch_setAge (s : State) (i : Nat) (f : AgeUnit → AgeUnit) (rx : Src) : (s.setAge i f).latch rx = s.latch rx := rfl
@[simp] theorem State.valve_setAge (s : State) (i : Nat) (f : AgeUnit → AgeUnit) (rx : Nat) : (s.setAge i f).valve rx = s.valve rx := rfl
@[simp] theorem State.bridge_setAge (s : State) (i : Nat) (f : AgeUnit → AgeUnit) (rx : Nat) : (s.setAge i f).bridge rx = s.bridge rx := rfl
@[simp] theorem State.can_setAge (s : State) (i : Nat) (f : AgeUnit → AgeUnit) (rx : Nat) : (s.setAge i f).can rx = s.can rx := rfl
@[simp] theorem State.nm_setAge (s : State) (i : Nat) (f : AgeUnit → AgeUnit) (rx : Nat) : (s.setAge i f).nm rx = s.nm rx := rfl
@[simp] theorem State.din_setAge (s : State) (i : Nat) (f : AgeUnit → AgeUnit) (rx : Nat) : (s.setAge i f).din rx = s.din rx := rfl
@[simp] theorem State.strobe_setAge (s : State) (i : Nat) (f : AgeUnit → AgeUnit) (rx : Nat) : (s.setAge i f).strobe rx = s.strobe rx := rfl
@[simp] theorem State.tmr_setAge (s : State) (i : Nat) (f : AgeUnit → AgeUnit) (rx : Nat) : (s.setAge i f).tmr rx = s.tmr rx := rfl
@[simp] theorem State.tch_setAge (s : State) (i : Nat) (f : AgeUnit → AgeUnit) (rx : Nat) : (s.setAge i f).tch rx = s.tch rx := rfl
@[simp] theorem State.port_setAge (s : State) (i : Nat) (f : AgeUnit → AgeUnit) (rx : Nat) : (s.setAge i f).port rx = s.port rx := rfl
@[simp] theorem State.stream_setAge (s : State) (i : Nat) (f : AgeUnit → AgeUnit) (rx : Nat) : (s.setAge i f).stream rx = s.stream rx := rfl
@[simp] theorem State.tas_setAge (s : State) (i : Nat) (f : AgeUnit → AgeUnit) (rx : Nat) : (s.setAge i f).tas rx = s.tas rx := rfl
@[simp] theorem State.ctx_setAge (s : State) (i : Nat) (f : AgeUnit → AgeUnit) (rx : Bool) : (s.setAge i f).ctx rx = s.ctx rx := rfl

@[simp] theorem State.rd_setDie (s : State) (d : Nat) (f : DieSt → DieSt) (rq ro : Nat) : (s.setDie d f).rd rq ro = s.rd rq ro := rfl
@[simp] theorem State.get_setDie (s : State) (d : Nat) (f : DieSt → DieSt) (rg : Fld) : (s.setDie d f).get rg = s.get rg := rfl
@[simp] theorem State.flag_setDie (s : State) (d : Nat) (f : DieSt → DieSt) (rg : Fld) : (s.setDie d f).flag rg = s.flag rg := rfl
@[simp] theorem State.act_setDie (s : State) (d : Nat) (f : DieSt → DieSt) (rg : Fld) : (s.setDie d f).act rg = s.act rg := rfl
@[simp] theorem State.next_setDie (s : State) (d : Nat) (f : DieSt → DieSt) (rg : Fld) : (s.setDie d f).next rg = s.next rg := rfl
@[simp] theorem State.byte_setDie (s : State) (d : Nat) (f : DieSt → DieSt) (rj : Nat) : (s.setDie d f).byte rj = s.byte rj := rfl
@[simp] theorem State.bytes_setDie (s : State) (d : Nat) (f : DieSt → DieSt) (rj rm : Nat) : (s.setDie d f).bytes rj rm = s.bytes rj rm := rfl
@[simp] theorem State.le_setDie (s : State) (d : Nat) (f : DieSt → DieSt) (rj rm : Nat) : (s.setDie d f).le rj rm = s.le rj rm := rfl
@[simp] theorem State.due_setDie (s : State) (d : Nat) (f : DieSt → DieSt) (rx : Timer) : (s.setDie d f).due rx = s.due rx := rfl
@[simp] theorem State.lap_setDie (s : State) (d : Nat) (f : DieSt → DieSt) : (s.setDie d f).lap = s.lap := rfl
@[simp] theorem State.splitAt_setDie (s : State) (d : Nat) (f : DieSt → DieSt) (rx : Nat) : (s.setDie d f).splitAt rx = s.splitAt rx := rfl
@[simp] theorem State.out_setDie (s : State) (d : Nat) (f : DieSt → DieSt) (rx : OutU) : (s.setDie d f).out rx = s.out rx := rfl
@[simp] theorem State.ageOf_setDie (s : State) (d : Nat) (f : DieSt → DieSt) (rx : Nat) : (s.setDie d f).ageOf rx = s.ageOf rx := rfl
@[simp] theorem State.queue_setDie (s : State) (d : Nat) (f : DieSt → DieSt) (rx : Nat) : (s.setDie d f).queue rx = s.queue rx := rfl
@[simp] theorem State.latch_setDie (s : State) (d : Nat) (f : DieSt → DieSt) (rx : Src) : (s.setDie d f).latch rx = s.latch rx := rfl
@[simp] theorem State.valve_setDie (s : State) (d : Nat) (f : DieSt → DieSt) (rx : Nat) : (s.setDie d f).valve rx = s.valve rx := rfl
@[simp] theorem State.bridge_setDie (s : State) (d : Nat) (f : DieSt → DieSt) (rx : Nat) : (s.setDie d f).bridge rx = s.bridge rx := rfl
@[simp] theorem State.can_setDie (s : State) (d : Nat) (f : DieSt → DieSt) (rx : Nat) : (s.setDie d f).can rx = s.can rx := rfl
@[simp] theorem State.nm_setDie (s : State) (d : Nat) (f : DieSt → DieSt) (rx : Nat) : (s.setDie d f).nm rx = s.nm rx := rfl
@[simp] theorem State.din_setDie (s : State) (d : Nat) (f : DieSt → DieSt) (rx : Nat) : (s.setDie d f).din rx = s.din rx := rfl
@[simp] theorem State.strobe_setDie (s : State) (d : Nat) (f : DieSt → DieSt) (rx : Nat) : (s.setDie d f).strobe rx = s.strobe rx := rfl
@[simp] theorem State.tmr_setDie (s : State) (d : Nat) (f : DieSt → DieSt) (rx : Nat) : (s.setDie d f).tmr rx = s.tmr rx := rfl
@[simp] theorem State.tch_setDie (s : State) (d : Nat) (f : DieSt → DieSt) (rx : Nat) : (s.setDie d f).tch rx = s.tch rx := rfl
@[simp] theorem State.port_setDie (s : State) (d : Nat) (f : DieSt → DieSt) (rx : Nat) : (s.setDie d f).port rx = s.port rx := rfl
@[simp] theorem State.stream_setDie (s : State) (d : Nat) (f : DieSt → DieSt) (rx : Nat) : (s.setDie d f).stream rx = s.stream rx := rfl
@[simp] theorem State.tas_setDie (s : State) (d : Nat) (f : DieSt → DieSt) (rx : Nat) : (s.setDie d f).tas rx = s.tas rx := rfl
@[simp] theorem State.ctx_setDie (s : State) (d : Nat) (f : DieSt → DieSt) (rx : Bool) : (s.setDie d f).ctx rx = s.ctx rx := rfl

@[simp] theorem State.rd_setValve (s : State) (n : Nat) (f : ValveSt → ValveSt) (rq ro : Nat) : (s.setValve n f).rd rq ro = s.rd rq ro := rfl
@[simp] theorem State.get_setValve (s : State) (n : Nat) (f : ValveSt → ValveSt) (rg : Fld) : (s.setValve n f).get rg = s.get rg := rfl
@[simp] theorem State.flag_setValve (s : State) (n : Nat) (f : ValveSt → ValveSt) (rg : Fld) : (s.setValve n f).flag rg = s.flag rg := rfl
@[simp] theorem State.act_setValve (s : State) (n : Nat) (f : ValveSt → ValveSt) (rg : Fld) : (s.setValve n f).act rg = s.act rg := rfl
@[simp] theorem State.next_setValve (s : State) (n : Nat) (f : ValveSt → ValveSt) (rg : Fld) : (s.setValve n f).next rg = s.next rg := rfl
@[simp] theorem State.byte_setValve (s : State) (n : Nat) (f : ValveSt → ValveSt) (rj : Nat) : (s.setValve n f).byte rj = s.byte rj := rfl
@[simp] theorem State.bytes_setValve (s : State) (n : Nat) (f : ValveSt → ValveSt) (rj rm : Nat) : (s.setValve n f).bytes rj rm = s.bytes rj rm := rfl
@[simp] theorem State.le_setValve (s : State) (n : Nat) (f : ValveSt → ValveSt) (rj rm : Nat) : (s.setValve n f).le rj rm = s.le rj rm := rfl
@[simp] theorem State.due_setValve (s : State) (n : Nat) (f : ValveSt → ValveSt) (rx : Timer) : (s.setValve n f).due rx = s.due rx := rfl
@[simp] theorem State.lap_setValve (s : State) (n : Nat) (f : ValveSt → ValveSt) : (s.setValve n f).lap = s.lap := rfl
@[simp] theorem State.splitAt_setValve (s : State) (n : Nat) (f : ValveSt → ValveSt) (rx : Nat) : (s.setValve n f).splitAt rx = s.splitAt rx := rfl
@[simp] theorem State.out_setValve (s : State) (n : Nat) (f : ValveSt → ValveSt) (rx : OutU) : (s.setValve n f).out rx = s.out rx := rfl
@[simp] theorem State.die_setValve (s : State) (n : Nat) (f : ValveSt → ValveSt) (rx : Nat) : (s.setValve n f).die rx = s.die rx := rfl
@[simp] theorem State.ageOf_setValve (s : State) (n : Nat) (f : ValveSt → ValveSt) (rx : Nat) : (s.setValve n f).ageOf rx = s.ageOf rx := rfl
@[simp] theorem State.queue_setValve (s : State) (n : Nat) (f : ValveSt → ValveSt) (rx : Nat) : (s.setValve n f).queue rx = s.queue rx := rfl
@[simp] theorem State.latch_setValve (s : State) (n : Nat) (f : ValveSt → ValveSt) (rx : Src) : (s.setValve n f).latch rx = s.latch rx := rfl
@[simp] theorem State.bridge_setValve (s : State) (n : Nat) (f : ValveSt → ValveSt) (rx : Nat) : (s.setValve n f).bridge rx = s.bridge rx := rfl
@[simp] theorem State.can_setValve (s : State) (n : Nat) (f : ValveSt → ValveSt) (rx : Nat) : (s.setValve n f).can rx = s.can rx := rfl
@[simp] theorem State.nm_setValve (s : State) (n : Nat) (f : ValveSt → ValveSt) (rx : Nat) : (s.setValve n f).nm rx = s.nm rx := rfl
@[simp] theorem State.din_setValve (s : State) (n : Nat) (f : ValveSt → ValveSt) (rx : Nat) : (s.setValve n f).din rx = s.din rx := rfl
@[simp] theorem State.strobe_setValve (s : State) (n : Nat) (f : ValveSt → ValveSt) (rx : Nat) : (s.setValve n f).strobe rx = s.strobe rx := rfl
@[simp] theorem State.tmr_setValve (s : State) (n : Nat) (f : ValveSt → ValveSt) (rx : Nat) : (s.setValve n f).tmr rx = s.tmr rx := rfl
@[simp] theorem State.tch_setValve (s : State) (n : Nat) (f : ValveSt → ValveSt) (rx : Nat) : (s.setValve n f).tch rx = s.tch rx := rfl
@[simp] theorem State.port_setValve (s : State) (n : Nat) (f : ValveSt → ValveSt) (rx : Nat) : (s.setValve n f).port rx = s.port rx := rfl
@[simp] theorem State.stream_setValve (s : State) (n : Nat) (f : ValveSt → ValveSt) (rx : Nat) : (s.setValve n f).stream rx = s.stream rx := rfl
@[simp] theorem State.tas_setValve (s : State) (n : Nat) (f : ValveSt → ValveSt) (rx : Nat) : (s.setValve n f).tas rx = s.tas rx := rfl
@[simp] theorem State.ctx_setValve (s : State) (n : Nat) (f : ValveSt → ValveSt) (rx : Bool) : (s.setValve n f).ctx rx = s.ctx rx := rfl

@[simp] theorem State.rd_setCtx (s : State) (str : Bool) (f : CtxSt → CtxSt) (rq ro : Nat) : (s.setCtx str f).rd rq ro = s.rd rq ro := rfl
@[simp] theorem State.get_setCtx (s : State) (str : Bool) (f : CtxSt → CtxSt) (rg : Fld) : (s.setCtx str f).get rg = s.get rg := rfl
@[simp] theorem State.flag_setCtx (s : State) (str : Bool) (f : CtxSt → CtxSt) (rg : Fld) : (s.setCtx str f).flag rg = s.flag rg := rfl
@[simp] theorem State.act_setCtx (s : State) (str : Bool) (f : CtxSt → CtxSt) (rg : Fld) : (s.setCtx str f).act rg = s.act rg := rfl
@[simp] theorem State.next_setCtx (s : State) (str : Bool) (f : CtxSt → CtxSt) (rg : Fld) : (s.setCtx str f).next rg = s.next rg := rfl
@[simp] theorem State.byte_setCtx (s : State) (str : Bool) (f : CtxSt → CtxSt) (rj : Nat) : (s.setCtx str f).byte rj = s.byte rj := rfl
@[simp] theorem State.bytes_setCtx (s : State) (str : Bool) (f : CtxSt → CtxSt) (rj rm : Nat) : (s.setCtx str f).bytes rj rm = s.bytes rj rm := rfl
@[simp] theorem State.le_setCtx (s : State) (str : Bool) (f : CtxSt → CtxSt) (rj rm : Nat) : (s.setCtx str f).le rj rm = s.le rj rm := rfl
@[simp] theorem State.due_setCtx (s : State) (str : Bool) (f : CtxSt → CtxSt) (rx : Timer) : (s.setCtx str f).due rx = s.due rx := rfl
@[simp] theorem State.lap_setCtx (s : State) (str : Bool) (f : CtxSt → CtxSt) : (s.setCtx str f).lap = s.lap := rfl
@[simp] theorem State.splitAt_setCtx (s : State) (str : Bool) (f : CtxSt → CtxSt) (rx : Nat) : (s.setCtx str f).splitAt rx = s.splitAt rx := rfl
@[simp] theorem State.out_setCtx (s : State) (str : Bool) (f : CtxSt → CtxSt) (rx : OutU) : (s.setCtx str f).out rx = s.out rx := rfl
@[simp] theorem State.die_setCtx (s : State) (str : Bool) (f : CtxSt → CtxSt) (rx : Nat) : (s.setCtx str f).die rx = s.die rx := rfl
@[simp] theorem State.ageOf_setCtx (s : State) (str : Bool) (f : CtxSt → CtxSt) (rx : Nat) : (s.setCtx str f).ageOf rx = s.ageOf rx := rfl
@[simp] theorem State.queue_setCtx (s : State) (str : Bool) (f : CtxSt → CtxSt) (rx : Nat) : (s.setCtx str f).queue rx = s.queue rx := rfl
@[simp] theorem State.latch_setCtx (s : State) (str : Bool) (f : CtxSt → CtxSt) (rx : Src) : (s.setCtx str f).latch rx = s.latch rx := rfl
@[simp] theorem State.valve_setCtx (s : State) (str : Bool) (f : CtxSt → CtxSt) (rx : Nat) : (s.setCtx str f).valve rx = s.valve rx := rfl
@[simp] theorem State.bridge_setCtx (s : State) (str : Bool) (f : CtxSt → CtxSt) (rx : Nat) : (s.setCtx str f).bridge rx = s.bridge rx := rfl
@[simp] theorem State.can_setCtx (s : State) (str : Bool) (f : CtxSt → CtxSt) (rx : Nat) : (s.setCtx str f).can rx = s.can rx := rfl
@[simp] theorem State.nm_setCtx (s : State) (str : Bool) (f : CtxSt → CtxSt) (rx : Nat) : (s.setCtx str f).nm rx = s.nm rx := rfl
@[simp] theorem State.din_setCtx (s : State) (str : Bool) (f : CtxSt → CtxSt) (rx : Nat) : (s.setCtx str f).din rx = s.din rx := rfl
@[simp] theorem State.strobe_setCtx (s : State) (str : Bool) (f : CtxSt → CtxSt) (rx : Nat) : (s.setCtx str f).strobe rx = s.strobe rx := rfl
@[simp] theorem State.tmr_setCtx (s : State) (str : Bool) (f : CtxSt → CtxSt) (rx : Nat) : (s.setCtx str f).tmr rx = s.tmr rx := rfl
@[simp] theorem State.tch_setCtx (s : State) (str : Bool) (f : CtxSt → CtxSt) (rx : Nat) : (s.setCtx str f).tch rx = s.tch rx := rfl
@[simp] theorem State.port_setCtx (s : State) (str : Bool) (f : CtxSt → CtxSt) (rx : Nat) : (s.setCtx str f).port rx = s.port rx := rfl
@[simp] theorem State.stream_setCtx (s : State) (str : Bool) (f : CtxSt → CtxSt) (rx : Nat) : (s.setCtx str f).stream rx = s.stream rx := rfl
@[simp] theorem State.tas_setCtx (s : State) (str : Bool) (f : CtxSt → CtxSt) (rx : Nat) : (s.setCtx str f).tas rx = s.tas rx := rfl

/-! Reads of what an update writes. -/

theorem State.due_disarm (s : State) (k j : Timer) : (s.disarm k).due j = if k = j then none else s.due j := by
  unfold State.due State.disarm
  dsimp only
  by_cases h : k = j
  · rw [if_pos h, List.find?_eq_none.2, Option.map_none]
    intro e he
    rw [List.mem_filter] at he
    simp only [decide_eq_true_eq, ← h] at he ⊢
    exact he.2
  · rw [if_neg h]
    congr 1
    induction s.timers with
    | nil => rfl
    | cons e l ih =>
      by_cases h1 : e.1 = k
      · rw [List.filter_cons_of_neg (by simp [h1]), List.find?_cons_of_neg (by simp [h1, h]), ih]
      · rw [List.filter_cons_of_pos (by simp [h1])]
        by_cases h2 : e.1 = j
        · rw [List.find?_cons_of_pos (by simp [h2]), List.find?_cons_of_pos (by simp [h2])]
        · rw [List.find?_cons_of_neg (by simp [h2]), List.find?_cons_of_neg (by simp [h2]), ih]

theorem State.due_arm (s : State) (k j : Timer) (t : Nat) : (s.arm k t).due j = if k = j then some t else s.due j := by
  have h := State.due_disarm s k j
  unfold State.due State.disarm at h
  unfold State.due State.arm
  dsimp only at h ⊢
  by_cases hk : k = j
  · rw [List.find?_cons_of_pos (by simp [hk]), if_pos hk]; rfl
  · rw [List.find?_cons_of_neg (by simp [hk]), h, if_neg hk, if_neg hk]

@[simp] theorem State.due_disarm_same (s : State) (k : Timer) : (s.disarm k).due k = none := by rw [State.due_disarm, if_pos rfl]
@[simp] theorem State.due_arm_same (s : State) (k : Timer) (t : Nat) : (s.arm k t).due k = some t := by rw [State.due_arm, if_pos rfl]

@[simp] theorem State.reach_now (s : State) (t : Nat) : (s.reach t).now = max s.now t := rfl
@[simp] theorem State.detect_fcr (s : State) (i u : Nat) : (s.detect i u).fcr = { s.fcr with inbox := s.fcr.inbox ++ [(i, u)] } := rfl

theorem State.latch_setLatch (s : State) (w x : Src) (l : PushLatch) : (s.setLatch w l).latch x = if w = x then l else s.latch x := by
  unfold State.latch State.setLatch
  dsimp only
  by_cases h : w = x
  · rw [List.find?_cons_of_pos (by simp [h]), if_pos h]; rfl
  · rw [List.find?_cons_of_neg (by simp [h]), if_neg h]
    have : ∀ l : List (Src × PushLatch), (l.filter (fun e => decide (e.1 ≠ w))).find? (fun e => decide (e.1 = x)) = l.find? (fun e => decide (e.1 = x)) := by
      intro l
      induction l with
      | nil => rfl
      | cons e l ih =>
        by_cases h1 : e.1 = w
        · rw [List.filter_cons_of_neg (by simp [h1]), List.find?_cons_of_neg (by simp [h1, h]), ih]
        · rw [List.filter_cons_of_pos (by simp [h1])]
          by_cases h2 : e.1 = x
          · rw [List.find?_cons_of_pos (by simp [h2]), List.find?_cons_of_pos (by simp [h2])]
          · rw [List.find?_cons_of_neg (by simp [h2]), List.find?_cons_of_neg (by simp [h2]), ih]
    rw [this]

theorem State.byte_setByte (s : State) (a j : Nat) (b : Byte) : (s.setByte a b).byte j = if a = j then b else s.byte j := look_store 0 b a j s.mem

theorem State.byte_setBytes (s : State) (a j : Nat) (bs : List Byte) :
    (s.setBytes a bs).byte j = if a ≤ j ∧ j < a + bs.length then bs.getD (j - a) 0 else s.byte j := look_storeRun 0 a bs s.mem j

theorem leBytes_length (n v : Nat) : (leBytes n v).length = n := by
  induction n generalizing v with
  | zero => rfl
  | succ n ih => simp [leBytes, ih]

theorem leVal_leBytes (n v : Nat) : leVal (leBytes n v) = v % 256 ^ n := by
  induction n generalizing v with
  | zero => simp [leBytes, leVal, Nat.mod_one]
  | succ n ih =>
    simp only [leBytes, leVal, ih, BitVec.toNat_ofNat]
    rw [show (256 : Nat) ^ (n + 1) = 256 * 256 ^ n by rw [Nat.pow_succ, Nat.mul_comm], Nat.mod_mul]

/-- A number reads as it was written, cut to its bytes. -/
theorem State.le_setLe (s : State) (a n v : Nat) : (s.setLe a n v).le a n = v % 256 ^ n := by
  rw [← leVal_leBytes n v]
  unfold State.le State.setLe State.bytes
  congr 1
  apply List.ext_getElem
  · simp [leBytes_length]
  · intro i h1 h2
    simp only [List.length_map, List.length_range] at h1
    simp only [List.getElem_map, List.getElem_range, State.byte_setBytes]
    rw [if_pos (by rw [leBytes_length]; omega), Nat.add_sub_cancel_left, List.getD_eq_getElem _ _ h2]

/-- A number at other addresses stays. -/
theorem State.le_setLe_apart (s : State) (a n v j m : Nat) (h : a + n ≤ j ∨ j + m ≤ a) : (s.setLe a n v).le j m = s.le j m := by
  unfold State.le State.setLe State.bytes
  congr 1
  apply List.map_congr_left
  intro i hi
  rw [List.mem_range] at hi
  rw [State.byte_setBytes, if_neg (by rw [leBytes_length]; omega)]

theorem State.ctx_setCtx (s : State) (a b : Bool) (f : CtxSt → CtxSt) : (s.setCtx a f).ctx b = if a = b then f (s.ctx a) else s.ctx b := by
  cases a <;> cases b <;> rfl

theorem State.queue_setQueue (s : State) (k j : Nat) (q : QueueSt) : (s.setQueue k q).queue j = if k = j then q else s.queue j :=
  look_store queueInit q k j s.queues

theorem State.bridge_setBridge (s : State) (k j : Nat) (f : BridgeSt → BridgeSt) : (s.setBridge k f).bridge j = if k = j then f (s.bridge k) else s.bridge j :=
  look_store bridgeInit (f (s.bridge k)) k j s.bridges

theorem State.can_setCan (s : State) (k j : Nat) (f : CanSt → CanSt) : (s.setCan k f).can j = if k = j then f (s.can k) else s.can j :=
  look_store canInit (f (s.can k)) k j s.cans

theorem State.din_setDin (s : State) (k j : Nat) (f : DinSt → DinSt) : (s.setDin k f).din j = if k = j then f (s.din k) else s.din j :=
  look_store dinInit (f (s.din k)) k j s.dins

theorem State.strobe_setStrobe (s : State) (k j : Nat) (f : StrobeSt → StrobeSt) : (s.setStrobe k f).strobe j = if k = j then f (s.strobe k) else s.strobe j :=
  look_store strobeInit (f (s.strobe k)) k j s.strobes

theorem State.nm_setNm (s : State) (k j : Nat) (f : NmSt → NmSt) : (s.setNm k f).nm j = if k = j then f (s.nm k) else s.nm j :=
  look_store nmInit (f (s.nm k)) k j s.nms

theorem State.port_setPort (s : State) (k j : Nat) (f : PortSt → PortSt) : (s.setPort k f).port j = if k = j then f (s.port k) else s.port j :=
  look_store portInit (f (s.port k)) k j s.sw.ports

theorem State.stream_setStream (s : State) (k j : Nat) (f : SflEnt → SflEnt) : (s.setStream k f).stream j = if k = j then f (s.stream k) else s.stream j :=
  look_store sflInit (f (s.stream k)) k j s.sw.sfl

theorem State.tas_setTas (s : State) (k j : Nat) (f : TasSt → TasSt) : (s.setTas k f).tas j = if k = j then f (s.tas k) else s.tas j :=
  look_store tasInit (f (s.tas k)) k j s.sw.tas

theorem State.tmr_setTmr (s : State) (k j : Nat) (f : TmrSt → TmrSt) : (s.setTmr k f).tmr j = if k = j then f (s.tmr k) else s.tmr j :=
  look_store tmrInit (f (s.tmr k)) k j s.tmrs

theorem State.tch_setTch (s : State) (k j : Nat) (f : TmrCh → TmrCh) : (s.setTch k f).tch j = if k = j then f (s.tch k) else s.tch j :=
  look_store tchInit (f (s.tch k)) k j s.tchs

theorem State.ageOf_setAge (s : State) (k j : Nat) (f : AgeUnit → AgeUnit) : (s.setAge k f).ageOf j = if k = j then f (s.ageOf k) else s.ageOf j :=
  look_store ageInit (f (s.ageOf k)) k j s.age

theorem State.die_setDie (s : State) (k j : Nat) (f : DieSt → DieSt) : (s.setDie k f).die j = if k = j then f (s.die k) else s.die j :=
  look_store dieInit (f (s.die k)) k j s.dies

theorem State.valve_setValve (s : State) (k j : Nat) (f : ValveSt → ValveSt) : (s.setValve k f).valve j = if k = j then f (s.valve k) else s.valve j :=
  look_store valveInit (f (s.valve k)) k j s.valves

theorem State.out_setOut (s : State) (u w : OutU) (f : OutSt → OutSt) :
    (s.setOut u f).out w = if uidx u = uidx w then f (s.out u) else s.out w := look_store outInit (f (s.out u)) (uidx u) (uidx w) s.outs

end Sys2Proof.Machine
end

