-- ==== Sys2Proof/Laws/Access.lean ====
section
/-! SUPPORT. Register accesses: an accepted write lands, a refused one leaves the record of its refusal. -/
namespace Sys2Proof.Machine

/-- A write that is accepted lands. -/
theorem State.busWrite_accepted {s : State} {src : Src} {p off : Nat} {v m : Word} {t : Nat} (h : s.Accepts src p off v m t) :
    s.busWrite src p off v m t = ((s.reach t).landed ((s.reach t).wrOf src p off v m t), none) := by
  obtain ⟨h1, h2⟩ := h
  unfold State.busWrite
  dsimp only
  rw [if_neg (fun x => h1 x.2.2.2), h2]

/-- A bit is in a type mask if some row of such a type covers it. -/
theorem typeMask_bit (p off : Nat) (f : RegTy → Bool) (i : Nat) :
    (typeMask p off f).getLsbD i = (rowsAt p off).any (fun r => f r.ty && (maskOf r.lo r.width).getLsbD i) := by
  unfold typeMask
  have h : ∀ (l : List RegRow) (w : Word), ((l.filter (fun r => f r.ty)).foldl (fun m r => m ||| maskOf r.lo r.width) w).getLsbD i
      = (w.getLsbD i || l.any (fun r => f r.ty && (maskOf r.lo r.width).getLsbD i)) := by
    intro l
    induction l with
    | nil => intro w; simp
    | cons r l ih =>
      intro w
      rw [List.filter_cons, List.any_cons]
      split
      · rw [List.foldl_cons, ih, BitVec.getLsbD_or]; simp_all [Bool.or_assoc]
      · rw [ih]; simp_all
  rw [h]; simp

/-- A bit of one kind is in a mask of types exactly if the mask takes that kind. -/
theorem typeMask_of_kind {p off i : Nat} {y : RegTy} (h : (bitsOfKind p off y).getLsbD i = true) (f : RegTy → Bool) :
    (typeMask p off f).getLsbD i = f y := by
  unfold bitsOfKind at h
  simp only [BitVec.getLsbD_and, BitVec.getLsbD_not, Bool.and_eq_true, Bool.not_eq_true'] at h
  obtain ⟨⟨h1, h2⟩, -⟩ := h
  rw [typeMask_bit] at h1 h2 ⊢
  have h2 := h2.2
  simp only [List.any_eq_true, List.any_eq_false, Bool.and_eq_true, decide_eq_true_eq, not_and] at h1 h2
  obtain ⟨r, hr, hy, hb⟩ := h1
  cases hf : f y
  · rw [List.any_eq_false]
    intro q hq hx
    rw [Bool.and_eq_true] at hx
    by_cases hqy : q.ty = y
    · rw [hqy, hf] at hx; exact absurd hx.1 (by simp)
    · exact h2 q hq hqy hx.2
  · rw [List.any_eq_true]
    exact ⟨r, hr, by rw [hy, hf, hb]; rfl⟩

theorem held_of_kind {p off i : Nat} {y : RegTy} (h : (bitsOfKind p off y).getLsbD i = true) : (heldBits p off).getLsbD i = true := by
  unfold bitsOfKind at h
  simp only [BitVec.getLsbD_and, Bool.and_eq_true] at h
  exact h.2

/-- Two words agree on the bits of a kind if they agree on each. -/
theorem eq_on_kind {p off : Nat} {y : RegTy} {a b : Word} (h : ∀ i, (bitsOfKind p off y).getLsbD i = true → a.getLsbD i = b.getLsbD i) :
    a &&& bitsOfKind p off y = b &&& bitsOfKind p off y := by
  apply BitVec.eq_of_getLsbD_eq
  intro i hi
  simp only [BitVec.getLsbD_and]
  by_cases hk : (bitsOfKind p off y).getLsbD i = true
  · rw [h i hk]
  · simp [hk]

/-- A plain register's accepted write is stored, and that is all. -/
theorem State.landed_plain {s : State} {w : Wr} (h : plainReg w.p w.off = true) : s.landed w = s.land w := by
  unfold plainReg at h
  simp only [Bool.and_eq_true, Bool.or_eq_true, decide_eq_true_eq, bne_iff_ne, Bool.not_eq_true', Option.isNone_iff_eq_none,
    Bool.and_eq_false_iff, decide_eq_false_iff_not] at h
  obtain ⟨⟨⟨⟨⟨⟨⟨hp, ht⟩, h8⟩, h1c⟩, h10⟩, h28⟩, h38⟩, hu⟩ := h
  have h9 : ¬ (w.off = 0x10 ∨ (w.p = 0x20 ∧ w.off = 0x38)) := by omega
  have hf : fcrSource w.p w.off = none := by unfold fcrSource; rw [if_neg (by omega)]
  unfold State.landed
  rw [if_neg h8, if_neg h1c, if_neg h9, hu]
  simp only [hf, Option.isSome_none, Bool.false_eq_true, if_false, if_neg h28]
  split
  · omega
  split
  · unfold State.safeEffect
    rw [if_neg (by omega), if_neg (by omega), if_neg (by omega)]
  split
  · omega
  · unfold State.ioEffect
    rw [if_neg (by omega), if_neg (by omega)]

/-- Fault words stand on the pages of the power units and of ACC's drivers. -/
theorem fltUnit_none {p off : Nat} (h : p < 0x0F ∨ 0x26 < p) : fltUnit p off = none := by
  unfold fltUnit
  rw [List.find?_eq_none]
  intro u hu
  have k : ∀ u ∈ allUnits ++ (List.range 6).map OutU.lf, 0x0F ≤ (fFlt u).page ∧ (fFlt u).page ≤ 0x26 := by decide +kernel
  have := k u hu
  simp only [Bool.and_eq_true, decide_eq_true_eq, not_and]
  omega

/-- The bits of a mask that a write names, sets plainly and does not clear: the write leaves them as it carries them. -/
theorem State.wrOf_bits {s : State} {src : Src} {p off : Nat} {v m : Word} {t lo width : Nat}
    (h : maskOf lo width &&& typeMask p off (fun y => decide (y = .rw) || decide (y = .rwl) || decide (y = .rws) || decide (y = .wo))
        &&& ~~~typeMask p off (fun y => decide (y = .w1c)) &&& heldBits p off = maskOf lo width) (hw : lo + width ≤ 32)
    (hm : ∀ i < width, m.getLsbD (lo + i) = true) :
    bitsOf (s.wrOf src p off v m t).new lo width = bitsOf v lo width := by
  apply Nat.eq_of_testBit_eq
  intro i
  rw [bitsOf_testBit, bitsOf_testBit]
  by_cases hi : i < width
  · have hb := congrArg (fun x : Word => x.getLsbD (lo + i)) h
    have hk : (maskOf lo width).getLsbD (lo + i) = true := by
      unfold maskOf
      rw [BitVec.getLsbD_ofNat, Nat.testBit_shiftLeft, Nat.testBit_two_pow_sub_one]
      simp; omega
    have h1 := hm i hi
    simp only [BitVec.getLsbD_and, hk, Bool.true_and, BitVec.getLsbD_not, Bool.and_eq_true, Bool.not_eq_true'] at hb
    obtain ⟨⟨h2, h3, h4⟩, h5⟩ := hb
    rw [BitVec.testBit_toNat, BitVec.testBit_toNat]
    have h32 : lo + i < 32 := by omega
    simp only [State.wrOf, BitVec.getLsbD_and, BitVec.getLsbD_or, BitVec.getLsbD_not, h1, h2, h4, h5, h32, decide_true]
    simp
  · simp [hi]

/-! What the stored word leaves. -/

@[simp] theorem State.land_pending (s : State) (w : Wr) : (s.land w).pending = s.pending := by
  unfold State.land; dsimp only; split <;> split <;> rfl
@[simp] theorem State.land_now (s : State) (w : Wr) : (s.land w).now = s.now := by
  unfold State.land; dsimp only; split <;> split <;> rfl
@[simp] theorem State.land_splitZero (s : State) (w : Wr) : (s.land w).splitZero = s.splitZero := by
  unfold State.land; dsimp only; split <;> split <;> rfl
@[simp] theorem State.land_fresh (s : State) (w : Wr) : (s.land w).fresh = s.fresh := by
  unfold State.land; dsimp only; split <;> split <;> rfl
@[simp] theorem State.land_img (s : State) (w : Wr) : (s.land w).img = s.img := by
  unfold State.land; dsimp only; split <;> split <;> rfl
@[simp] theorem State.land_cfgAct (s : State) (w : Wr) : (s.land w).cfgAct = s.cfgAct := by
  unfold State.land; dsimp only; split <;> split <;> rfl
@[simp] theorem State.land_mem (s : State) (w : Wr) : (s.land w).mem = s.mem := by
  unfold State.land; dsimp only; split <;> split <;> rfl
@[simp] theorem State.land_timers (s : State) (w : Wr) : (s.land w).timers = s.timers := by
  unfold State.land; dsimp only; split <;> split <;> rfl
@[simp] theorem State.land_episodes (s : State) (w : Wr) : (s.land w).episodes = s.episodes := by
  unfold State.land; dsimp only; split <;> split <;> rfl
@[simp] theorem State.land_lockFirst (s : State) (w : Wr) : (s.land w).lockFirst = s.lockFirst := by
  unfold State.land; dsimp only; split <;> split <;> rfl
@[simp] theorem State.land_resetWait (s : State) (w : Wr) : (s.land w).resetWait = s.resetWait := by
  unfold State.land; dsimp only; split <;> split <;> rfl
@[simp] theorem State.land_enableWait (s : State) (w : Wr) : (s.land w).enableWait = s.enableWait := by
  unfold State.land; dsimp only; split <;> split <;> rfl
@[simp] theorem State.land_stride (s : State) (w : Wr) : (s.land w).stride = s.stride := by
  unfold State.land; dsimp only; split <;> split <;> rfl
@[simp] theorem State.land_queues (s : State) (w : Wr) : (s.land w).queues = s.queues := by
  unfold State.land; dsimp only; split <;> split <;> rfl
@[simp] theorem State.land_latches (s : State) (w : Wr) : (s.land w).latches = s.latches := by
  unfold State.land; dsimp only; split <;> split <;> rfl
@[simp] theorem State.land_fcr (s : State) (w : Wr) : (s.land w).fcr = s.fcr := by
  unfold State.land; dsimp only; split <;> split <;> rfl
@[simp] theorem State.land_outs (s : State) (w : Wr) : (s.land w).outs = s.outs := by
  unfold State.land; dsimp only; split <;> split <;> rfl
@[simp] theorem State.land_valves (s : State) (w : Wr) : (s.land w).valves = s.valves := by
  unfold State.land; dsimp only; split <;> split <;> rfl
@[simp] theorem State.land_bridges (s : State) (w : Wr) : (s.land w).bridges = s.bridges := by
  unfold State.land; dsimp only; split <;> split <;> rfl
@[simp] theorem State.land_scan (s : State) (w : Wr) : (s.land w).scan = s.scan := by
  unfold State.land; dsimp only; split <;> split <;> rfl
@[simp] theorem State.land_seq (s : State) (w : Wr) : (s.land w).seq = s.seq := by
  unfold State.land; dsimp only; split <;> split <;> rfl
@[simp] theorem State.land_cal (s : State) (w : Wr) : (s.land w).cal = s.cal := by
  unfold State.land; dsimp only; split <;> split <;> rfl
@[simp] theorem State.land_strobes (s : State) (w : Wr) : (s.land w).strobes = s.strobes := by
  unfold State.land; dsimp only; split <;> split <;> rfl
@[simp] theorem State.land_dins (s : State) (w : Wr) : (s.land w).dins = s.dins := by
  unfold State.land; dsimp only; split <;> split <;> rfl
@[simp] theorem State.land_ahead (s : State) (w : Wr) : (s.land w).ahead = s.ahead := by
  unfold State.land; dsimp only; split <;> split <;> rfl
@[simp] theorem State.land_phyLines (s : State) (w : Wr) : (s.land w).phyLines = s.phyLines := by
  unfold State.land; dsimp only; split <;> split <;> rfl
@[simp] theorem State.land_age (s : State) (w : Wr) : (s.land w).age = s.age := by
  unfold State.land; dsimp only; split <;> split <;> rfl
@[simp] theorem State.land_reverseAt (s : State) (w : Wr) : (s.land w).reverseAt = s.reverseAt := by
  unfold State.land; dsimp only; split <;> split <;> rfl
@[simp] theorem State.land_dies (s : State) (w : Wr) : (s.land w).dies = s.dies := by
  unfold State.land; dsimp only; split <;> split <;> rfl
@[simp] theorem State.land_msh (s : State) (w : Wr) : (s.land w).msh = s.msh := by
  unfold State.land; dsimp only; split <;> split <;> rfl
@[simp] theorem State.land_tmrs (s : State) (w : Wr) : (s.land w).tmrs = s.tmrs := by
  unfold State.land; dsimp only; split <;> split <;> rfl
@[simp] theorem State.land_tchs (s : State) (w : Wr) : (s.land w).tchs = s.tchs := by
  unfold State.land; dsimp only; split <;> split <;> rfl
@[simp] theorem State.land_stg (s : State) (w : Wr) : (s.land w).stg = s.stg := by
  unfold State.land; dsimp only; split <;> split <;> rfl
@[simp] theorem State.land_sw (s : State) (w : Wr) : (s.land w).sw = s.sw := by
  unfold State.land; dsimp only; split <;> split <;> rfl
@[simp] theorem State.land_pwr (s : State) (w : Wr) : (s.land w).pwr = s.pwr := by
  unfold State.land; dsimp only; split <;> split <;> rfl
@[simp] theorem State.land_nms (s : State) (w : Wr) : (s.land w).nms = s.nms := by
  unfold State.land; dsimp only; split <;> split <;> rfl
@[simp] theorem State.land_ring (s : State) (w : Wr) : (s.land w).ring = s.ring := by
  unfold State.land; dsimp only; split <;> split <;> rfl
@[simp] theorem State.land_cans (s : State) (w : Wr) : (s.land w).cans = s.cans := by
  unfold State.land; dsimp only; split <;> split <;> rfl
@[simp] theorem State.land_vault (s : State) (w : Wr) : (s.land w).vault = s.vault := by
  unfold State.land; dsimp only; split <;> split <;> rfl
@[simp] theorem State.land_acc (s : State) (w : Wr) : (s.land w).acc = s.acc := by
  unfold State.land; dsimp only; split <;> split <;> rfl
@[simp] theorem State.land_book (s : State) (w : Wr) : (s.land w).book = s.book := by
  unfold State.land; dsimp only; split <;> split <;> rfl
@[simp] theorem State.land_ageing (s : State) (w : Wr) : (s.land w).ageing = s.ageing := by
  unfold State.land; dsimp only; split <;> split <;> rfl
@[simp] theorem State.land_pac (s : State) (w : Wr) : (s.land w).pac = s.pac := by
  unfold State.land; dsimp only; split <;> split <;> rfl
@[simp] theorem State.land_tap (s : State) (w : Wr) : (s.land w).tap = s.tap := by
  unfold State.land; dsimp only; split <;> split <;> rfl
@[simp] theorem State.land_clk (s : State) (w : Wr) : (s.land w).clk = s.clk := by
  unfold State.land; dsimp only; split <;> split <;> rfl
@[simp] theorem State.land_sup (s : State) (w : Wr) : (s.land w).sup = s.sup := by
  unfold State.land; dsimp only; split <;> split <;> rfl
@[simp] theorem State.land_boot (s : State) (w : Wr) : (s.land w).boot = s.boot := by
  unfold State.land; dsimp only; split <;> split <;> rfl

/-- The stored word is the only register word that a landing write touches by itself. -/
theorem State.rd_land (s : State) (w : Wr) (q o : Nat) (h : regKey w.p w.off ≠ regKey q o) : (s.land w).rd q o = s.rd q o := by
  unfold State.land
  dsimp only
  split <;> split <;> first | rfl | exact State.rd_wr _ _ _ _ _ _ h

theorem State.get_land (s : State) (w : Wr) (g : Fld) (h : regKey w.p w.off ≠ regKey g.page g.off) : (s.land w).get g = s.get g := by
  unfold State.get
  rw [State.rd_land _ _ _ _ h]

/-- A field of the word written reads as the write leaves it, if its bits are not shadowed and not write-only. -/
theorem State.get_land_same {s : State} {w : Wr} {f : Fld} (hp : w.p = f.page) (ho : w.off = f.off) (hwin : isWindow w.p w.off = false)
    (h : maskOf f.lo f.width &&& (typeMask w.p w.off (fun y => decide (y = .rws)) ||| typeMask w.p w.off (fun y => decide (y = .wo))) = 0)
    (hw : f.lo + f.width ≤ 32) : (s.land w).get f = w.to_ f := by
  unfold State.get Wr.to_
  have hr : ∀ x : State, (if typeMask w.p w.off (fun y => decide (y = .rws)) &&& w.m = 0 then x else
      { x with shadow := ins (regKey w.p w.off) w.new x.shadow }).rd f.page f.off = x.rd f.page f.off := by
    intro x; split <;> rfl
  unfold State.land
  dsimp only
  rw [hr, hwin]
  simp only [Bool.false_eq_true, if_false]
  rw [← hp, ← ho, State.rd_wr_same]
  apply Nat.eq_of_testBit_eq
  intro i
  rw [bitsOf_testBit, bitsOf_testBit]
  by_cases hi : i < f.width
  · have hb := congrArg (fun x : Word => x.getLsbD (f.lo + i)) h
    have hk : (maskOf f.lo f.width).getLsbD (f.lo + i) = true := by
      unfold maskOf
      rw [BitVec.getLsbD_ofNat, Nat.testBit_shiftLeft, Nat.testBit_two_pow_sub_one]
      simp; omega
    have h32 : f.lo + i < 32 := by omega
    simp [BitVec.getLsbD_and, BitVec.getLsbD_or, hk] at hb
    obtain ⟨h1, h2⟩ := hb
    rw [BitVec.testBit_toNat, BitVec.testBit_toNat]
    split
    all_goals
      simp only [BitVec.ofNat_eq_ofNat, BitVec.getLsbD_and, BitVec.getLsbD_or, BitVec.getLsbD_not, BitVec.getLsbD_zero, h1, h2, h32,
        decide_true, Bool.not_false, Bool.and_true, Bool.and_false, Bool.or_false]
  · simp [hi]

theorem State.get_landOf (s x : State) (src : Src) (p off : Nat) (v m : Word) (t : Nat) (g : Fld)
    (h : regKey p off ≠ regKey g.page g.off) : (x.land (s.wrOf src p off v m t)).get g = x.get g := State.get_land _ _ _ h

/-- A plain field that a write names reads as the write carries it. -/
theorem State.get_landOf_same (s x : State) (src : Src) (f : Fld) (v m : Word) (t : Nat) (hwin : isWindow f.page f.off = false)
    (h : maskOf f.lo f.width &&& (typeMask f.page f.off (fun y => decide (y = .rws)) ||| typeMask f.page f.off (fun y => decide (y = .wo))) = 0)
    (hk : maskOf f.lo f.width &&& typeMask f.page f.off (fun y => decide (y = .rw) || decide (y = .rwl) || decide (y = .rws) || decide (y = .wo))
        &&& ~~~typeMask f.page f.off (fun y => decide (y = .w1c)) &&& heldBits f.page f.off = maskOf f.lo f.width) (hw : f.lo + f.width ≤ 32)
    (hm : ∀ i < f.width, m.getLsbD (f.lo + i) = true) :
    (x.land (s.wrOf src f.page f.off v m t)).get f = bitsOf v f.lo f.width :=
  (State.get_land_same (w := s.wrOf src f.page f.off v m t) rfl rfl hwin h hw).trans (State.wrOf_bits hk hw hm)

@[simp] theorem State.bytes_land (s : State) (w : Wr) (a n : Nat) : (s.land w).bytes a n = s.bytes a n := by
  unfold State.bytes State.byte
  simp

@[simp] theorem State.wrOf_p (s : State) (src : Src) (p off : Nat) (v m : Word) (t : Nat) : (s.wrOf src p off v m t).p = p := rfl
@[simp] theorem State.wrOf_off (s : State) (src : Src) (p off : Nat) (v m : Word) (t : Nat) : (s.wrOf src p off v m t).off = off := rfl
@[simp] theorem State.wrOf_src (s : State) (src : Src) (p off : Nat) (v m : Word) (t : Nat) : (s.wrOf src p off v m t).src = src := rfl
@[simp] theorem State.wrOf_t (s : State) (src : Src) (p off : Nat) (v m : Word) (t : Nat) : (s.wrOf src p off v m t).t = t := rfl
@[simp] theorem State.wrOf_v (s : State) (src : Src) (p off : Nat) (v m : Word) (t : Nat) : (s.wrOf src p off v m t).v = v := rfl

/-- Whether a write carries a 1 for a bit. -/
theorem State.wrOf_one (s : State) (src : Src) (p off : Nat) (v m : Word) (t lo : Nat) :
    (s.wrOf src p off v m t).one lo = (v.getLsbD lo && (m.getLsbD lo && (writable p off).getLsbD lo)) := by
  simp [Wr.one, State.wrOf, bitAt, BitVec.testBit_toNat]

/-- Whether a write carries a 0 for a bit. -/
theorem State.wrOf_nil (s : State) (src : Src) (p off : Nat) (v m : Word) (t lo : Nat) :
    (s.wrOf src p off v m t).nil lo = ((m.getLsbD lo && (writable p off).getLsbD lo) && !v.getLsbD lo) := by
  simp [Wr.nil, State.wrOf, bitAt, BitVec.testBit_toNat]

/-- An accepted write outside the header and the fault words is stored, and then has its page's effect. -/
theorem State.landed_effect {s : State} {w : Wr} (h : w.off ≠ 8 ∧ w.off ≠ 0x1C ∧ w.off ≠ 0x10 ∧ w.off ≠ 0x28)
    (hp : w.p < 0x0F ∨ 0x26 < w.p) (hf : fcrSource w.p w.off = none) :
    s.landed w = if w.p ≤ 5 ∨ (0x09 ≤ w.p ∧ w.p ≤ 0x0B) ∨ w.p = 0x2C ∨ w.p = 0x50 then (s.land w).devEffect w
      else if w.p ≤ 0x0D then (s.land w).safeEffect w else if 0x30 ≤ w.p then (s.land w).netEffect w else (s.land w).ioEffect w := by
  obtain ⟨h8, h1c, h10, h28⟩ := h
  unfold State.landed
  rw [if_neg h8, if_neg h1c, if_neg (by omega), fltUnit_none hp]
  simp only [hf, Option.isSome_none, Bool.false_eq_true, if_false, if_neg h28]

/-- The same for the write of a command. -/
theorem State.busWrite_effect {s : State} {src : Src} {p off : Nat} {v m : Word} {t : Nat} (ha : s.Accepts src p off v m t)
    (h : off ≠ 8 ∧ off ≠ 0x1C ∧ off ≠ 0x10 ∧ off ≠ 0x28) (hp : p < 0x0F ∨ 0x26 < p) (hf : fcrSource p off = none) :
    (s.busWrite src p off v m t).1 =
      if p ≤ 5 ∨ (0x09 ≤ p ∧ p ≤ 0x0B) ∨ p = 0x2C ∨ p = 0x50 then
        ((s.reach t).land ((s.reach t).wrOf src p off v m t)).devEffect ((s.reach t).wrOf src p off v m t)
      else if p ≤ 0x0D then ((s.reach t).land ((s.reach t).wrOf src p off v m t)).safeEffect ((s.reach t).wrOf src p off v m t)
      else if 0x30 ≤ p then ((s.reach t).land ((s.reach t).wrOf src p off v m t)).netEffect ((s.reach t).wrOf src p off v m t)
      else ((s.reach t).land ((s.reach t).wrOf src p off v m t)).ioEffect ((s.reach t).wrOf src p off v m t) := by
  rw [State.busWrite_accepted ha]
  exact State.landed_effect (w := (s.reach t).wrOf src p off v m t) h hp hf

end Sys2Proof.Machine
end

