-- ==== Sys2Proof/Laws/Effects.lean ====
section
/-! SUPPORT. The effect of each register whose write sets something going, by page and offset. -/
namespace Sys2Proof.Machine

theorem effect_rplctrl (x : State) (w : Wr) (hp : w.p = 0x09) (ho : w.off = 0x160) : x.devEffect w =
    if w.one 2 ∧ (x.replayMode w).flag STR.RPLCTRL_EN ∧ (x.replayMode w).stride.suspended.isNone then (x.replayMode w).replayStep w.t else x.replayMode w := by
  simp [State.devEffect, hp, ho]

theorem effect_pushGo (x : State) (w : Wr) (hp : w.p = 0x0A) (ho : w.off = 0x808) : x.devEffect w = x.pushWrite w := by
  simp [State.devEffect, hp, ho]

theorem effect_qkAdv (x : State) (w : Wr) (k : Nat) (hk : k < 32) (hp : w.p = 0x0A) (ho : w.off = 0x10C + 0x20 * k) :
    x.devEffect w = if w.one 1 then (if w.one 0 then x.qAdvance k else x).qFlush k else (if w.one 0 then x.qAdvance k else x) := by
  have h1 : (0x10C + 0x20 * k) % 0x20 = 0x0C := by omega
  have h2 : (0x10C + 0x20 * k - 0x100) / 0x20 = k := by omega
  have h3 : ¬ (0x10C + 0x20 * k = 0x800) := by omega
  have h4 : ¬ (0x10C + 0x20 * k = 0x804) := by omega
  have h5 : ¬ (0x10C + 0x20 * k = 0x808) := by omega
  have h6 : 0x100 ≤ 0x10C + 0x20 * k ∧ 0x10C + 0x20 * k < 0x500 ∧ (0x10C + 0x20 * k) % 0x20 = 0x0C := by omega
  unfold State.devEffect
  rw [hp, ho]
  simp only [h2, if_neg h3, if_neg h4, if_neg h5, if_pos h6]
  rfl

theorem effect_lsctrl (x : State) (w : Wr) (hp : w.p = 0x0B) (ho : w.off = 0x140) : x.devEffect w =
    if w.one 0 then (((x.put PAC.INJ 0).put PAC.TDONE 1).evt 0x0B 1).detect 0x1C 0 else if w.nil 0 then x.put PAC.TDONE 0 else x := by
  simp [State.devEffect, hp, ho]

theorem effect_tstag (x : State) (w : Wr) (hp : w.p = 0x2C) (ho : w.off = 0x140) :
    x.devEffect w = if w.one 4 then { x with stg := { x.stg with tstag := some (bitsOf w.new 0 4) } } else x := by simp [State.devEffect, hp, ho]

theorem effect_refcfg (x : State) (w : Wr) (hp : w.p = 0x01) (ho : w.off = 0x104) : x.devEffect w =
    if w.alters CLK.REFSEL ∨ (w.one 0 ∧ x.get CLK.ROOTSRC ≠ 2) then x.refSelect (w.to_ CLK.REFSEL) w.t else x := by
  simp [State.devEffect, hp, ho]

theorem effect_wktmr (x : State) (w : Wr) (hp : w.p = 0x02) (ho : w.off = 0x148) : x.devEffect w = x.wakeTimer w.new.toNat w.t := by
  simp [State.devEffect, hp, ho]

theorem effect_padrel (x : State) (w : Wr) (hp : w.p = 0x02) (ho : w.off = 0x14C) :
    x.devEffect w = if w.one 0 then x.put PWR.LATCHED 0 else x := by simp [State.devEffect, hp, ho]

theorem effect_mmclr (x : State) (w : Wr) (hp : w.p = 0x03) (ho : w.off = 0x118) :
    x.devEffect w = if w.one 0 then x.mmClear else x := by simp [State.devEffect, hp, ho]

theorem effect_svcommit (x : State) (w : Wr) (hp : w.p = 0x04) (ho : w.off = 0x11C) :
    x.devEffect w = if w.one 0 then x.svCommit else x := by simp [State.devEffect, hp, ho]

theorem effect_lcreq (x : State) (w : Wr) (hp : w.p = 0x04) (ho : w.off = 0x120) :
    x.devEffect w = (x.put BOOT.KEY 0).toField w.t := by simp [State.devEffect, hp, ho]

theorem effect_nvcmd (x : State) (w : Wr) (hp : w.p = 0x05) (ho : w.off = 0x108) :
    x.devEffect w = if w.one 0 then x.nvGo else x := by simp [State.devEffect, hp, ho]

theorem effect_saferel (x : State) (w : Wr) (hp : w.p = 0x06) (ho : w.off = 0x124) :
    x.safeEffect w = if w.one 0 then x.setStride (fun r => { r with safeRel := true }) else x := by simp [State.safeEffect, hp, ho]

theorem effect_fcrack (x : State) (w : Wr) (hp : w.p = 0x06) (ho : w.off = 0x140) : x.safeEffect w = x.fcrAck (bitsOf w.new 0 8) w.t := by
  simp [State.safeEffect, hp, ho]

theorem effect_fcrunhold (x : State) (w : Wr) (hp : w.p = 0x06) (ho : w.off = 0x144) :
    x.safeEffect w = x.fcrUnhold (bitsOf w.new 0 8) (bitsOf w.new 8 8) := by simp [State.safeEffect, hp, ho]

theorem fcrSource_at (i : Nat) (h : i < 0xD4) : fcrSource 0x06 (0x600 + 4 * i) = some i := by
  have h1 : (0x600 + 4 * i - 0x600) / 4 = i := by omega
  unfold fcrSource
  rw [if_pos (by omega), h1]

/-- What a write finds in a field that is neither shadowed nor a window: the stored field. -/
theorem State.wrOf_was (s : State) (src : Src) (p off : Nat) (v m : Word) (t : Nat) (f : Fld) (hwin : isWindow p off = false)
    (hr : typeMask p off (fun y => decide (y = .rws)) = 0) :
    (s.wrOf src p off v m t).was f = bitsOf (s.rd p off) f.lo f.width := by
  have e : s.rd p off &&& (4294967295#32) = s.rd p off := by
    apply BitVec.eq_of_getLsbD_eq
    intro i hi
    rw [BitVec.getLsbD_and]
    have : (4294967295#32).getLsbD i = true := by
      have k : ∀ j : Fin 32, (4294967295#32).getLsbD j.val = true := by decide
      exact k ⟨i, hi⟩
    rw [this, Bool.and_true]
  simp [Wr.was, State.wrOf, State.found, hwin, hr, e]

/-- A status word of FCR is not stored: a 1 to RAISED clears the source, anything else leaves it. -/
theorem State.landed_fcrStatus {s : State} {w : Wr} {i : Nat} (hi : i < 0xD4) (hp : w.p = 0x06) (ho : w.off = 0x600 + 4 * i) :
    s.landed w = if w.one 0 ∧ w.was (FCR.RAISED 0) = 1 then s.fcrClear i w.t else s := by
  unfold State.landed
  rw [if_neg (by omega), if_neg (by omega), if_neg (by omega), fltUnit_none (by omega)]
  have hf : fcrSource w.p w.off = some i := by rw [hp, ho, fcrSource_at i hi]
  simp only [hf, Option.isSome_some, if_true]
  rw [if_neg (by omega), if_pos (by omega)]
  unfold State.safeEffect
  rw [if_pos hp, if_neg (by omega), if_neg (by omega), if_neg (by omega)]
  simp only [hf]

theorem effect_fctrl (x : State) (w : Wr) (hp : w.p = 0x07) (ho : w.off = 0x100) :
    x.safeEffect w = if w.one 0 then x.flushTrigger 0 w.t else x := by simp [State.safeEffect, hp, ho]

theorem effect_cput (x : State) (w : Wr) (hp : w.p = 0x07) (ho : w.off = 0x114) :
    x.safeEffect w = x.recPut (bitsOf w.new 0 12) (x.get REC.ARG0 + 2 ^ 32 * x.get REC.ARG1) w.t := by simp [State.safeEffect, hp, ho]

theorem effect_codecfg (x : State) (w : Wr) (hp : w.p = 0x07) (ho : w.off = 0x118) :
    x.safeEffect w = x.setLe (recCounter (bitsOf w.new 0 12) + 7) 1 (x.le (recCounter (bitsOf w.new 0 12) + 7) 1 / 16 * 16 + bitsOf w.new 12 4) := by
  simp [State.safeEffect, hp, ho]

theorem effect_fclr (x : State) (w : Wr) (hp : w.p = 0x07) (ho : w.off = 0x170) : x.safeEffect w = x.feedClear (bitsOf w.new 0 9) := by
  simp [State.safeEffect, hp, ho]

theorem effect_fput (x : State) (w : Wr) (hp : w.p = 0x07) (ho : w.off = 0x178) :
    x.safeEffect w = x.feedPut (bitsOf w.new 0 9) (x.get REC.VAL) w.t := by simp [State.safeEffect, hp, ho]

theorem effect_wipe (x : State) (w : Wr) (hp : w.p = 0x07) (ho : w.off = 0x184) : x.safeEffect w = (x.put REC.KEY 0).recWipe w.t := by
  simp [State.safeEffect, hp, ho]

theorem effect_vltcmd (x : State) (w : Wr) (hp : w.p = 0x0D) (ho : w.off = 0x60) : x.safeEffect w = x.vltStart (bitsOf w.new 0 2) := by
  simp [State.safeEffect, hp, ho]

theorem effect_rxfack (x : State) (w : Wr) (n : Nat) (hn : n < 8) (hp : w.p = 0x30 + n) (ho : w.off = 0x128) :
    x.netEffect w = (List.range 2).foldl (fun s f => if w.one f then s.rxAck n f else s) x := by
  have h : 0x30 ≤ 0x30 + n ∧ 0x30 + n ≤ 0x37 := by omega
  simp [State.netEffect, hp, ho, h]

theorem effect_txfput (x : State) (w : Wr) (n : Nat) (hn : n < 8) (hp : w.p = 0x30 + n) (ho : w.off = 0x130) :
    x.netEffect w = (List.range 2).foldl (fun s f => if w.one f then s.txPutGo n f w.t else s) x := by
  have h : 0x30 ≤ 0x30 + n ∧ 0x30 + n ≤ 0x37 := by omega
  simp [State.netEffect, hp, ho, h]

theorem effect_txfctl (x : State) (w : Wr) (n : Nat) (hn : n < 8) (hp : w.p = 0x30 + n) (ho : w.off = 0x134) :
    x.netEffect w = if w.one 8 then ((List.range 2).foldl (fun s f => if w.one f then s.txFlush n f w.t else s) x).canRecover n
      else (List.range 2).foldl (fun s f => if w.one f then s.txFlush n f w.t else s) x := by
  have h : 0x30 ≤ 0x30 + n ∧ 0x30 + n ≤ 0x37 := by omega
  simp [State.netEffect, hp, ho, h]

theorem effect_aren (x : State) (w : Wr) (hp : w.p = 0x38) (ho : w.off = 0x100) : 
    x.netEffect w = x.canAren w.new.toNat (w.v &&& w.m).toNat := by
  simp [State.netEffect, hp, ho]

theorem effect_nmctrl (x : State) (w : Wr) (n : Nat) (hp : w.p = 0x39) (ho : w.off = 0x100 + 0x20 * n) : x.netEffect w = x.nmEnable n w.t := by
  have h : (0x100 + 0x20 * n - 0x100) % 0x20 = 0 := by rw [Nat.add_sub_cancel_left]; exact Nat.mul_mod_right _ _
  have h2 : (0x100 + 0x20 * n - 0x100) / 0x20 = n := by rw [Nat.add_sub_cancel_left]; exact Nat.mul_div_cancel_left _ (by decide)
  unfold State.netEffect
  rw [hp, ho]
  simp only [h, h2]
  rw [if_neg (by omega), if_neg (by omega), if_pos trivial, if_neg (by omega), if_pos ⟨by omega, trivial⟩]

theorem effect_mdiocmd (x : State) (w : Wr) (hp : w.p = 0x40) (ho : w.off = 0x128) : x.netEffect w = x.put SWC.MDIODATA_BUSY 1 := by
  simp [State.netEffect, hp, ho]

theorem effect_maccmd (x : State) (w : Wr) (hp : w.p = 0x40) (ho : w.off = 0x130) : x.netEffect w = x.macCmd (bitsOf w.new 0 2) := by
  simp [State.netEffect, hp, ho]

theorem effect_tasctrl (x : State) (w : Wr) (n : Nat) (hn : n < 6) (hp : w.p = 0x49) (ho : w.off = 0x100 + 0x40 * n) :
    x.netEffect w = if w.one 1 then (x.creditBefore w n).tasCfgchg n w.t else x.creditBefore w n := by
  have h2 : (0x100 + 0x40 * n - 0x100) / 0x40 = n := by omega
  unfold State.netEffect
  rw [hp, ho]
  simp only [h2]
  rw [if_neg (by omega), if_neg (by omega), if_neg (by omega), if_neg (by omega), if_neg (by omega), if_pos trivial, if_neg (by omega)]
  rw [if_pos ⟨by omega, by omega, by omega⟩]

theorem effect_sflsel (x : State) (w : Wr) (hp : w.p = 0x4A) (ho : w.off = 0x100) : x.netEffect w = x.sflSelect (bitsOf w.new 0 8) (w.one 8) := by
  simp [State.netEffect, hp, ho]

end Sys2Proof.Machine
end

