-- ==== Sys2Proof/Laws/Pages.lean ====
section
/-! SUPPORT. Which pages the shared operations write: the fields of every other page read as before. -/
namespace Sys2Proof.Machine

/-- A fold keeps what each of its steps keeps. -/
theorem foldKeep {α β : Type} (P : α → Prop) (f : α → β → α) (hf : ∀ a b, P a → P (f a b)) : ∀ (l : List β) (a : α), P a → P (l.foldl f a)
  | [], _, h => h
  | b :: l, a, h => foldKeep P f hf l _ (hf a b h)

theorem State.get_wr_away (s : State) (p off : Nat) (w : Word) (g : Fld) (h : regKey p off ≠ regKey g.page g.off) :
    (s.wr p off w).get g = s.get g := by unfold State.get; rw [State.rd_wr _ _ _ _ _ _ h]

/-- A field of another page, at an offset within it. -/
theorem State.get_put_page (s : State) (f g : Fld) (v : Nat) (hp : f.page ≠ g.page) (hf : f.off < 4096) (hg : g.off < 4096) :
    (s.put f v).get g = s.get g := State.get_put_apart _ _ _ _ (Or.inl (by unfold Fld.away regKey; omega))

theorem State.get_count_page (s : State) (f g : Fld) (k : Nat) (hp : f.page ≠ g.page) (hf : f.off < 4096) (hg : g.off < 4096) :
    (s.count f k).get g = s.get g := State.get_put_page _ _ _ _ hp hf hg

theorem State.get_yieldRegs (s : State) (c d : Nat) (hc : c ≤ 12) (g : Fld) (h : g.page ≠ 0) (ho : g.off < 4096) : (s.yieldRegs c d).get g = s.get g := by
  unfold State.yieldRegs State.evt
  refine (State.get_put_page _ _ _ _ (Ne.symm h) (by decide) ho).trans ?_
  refine (State.get_put_page _ _ _ _ (Ne.symm h) (by decide) ho).trans ?_
  refine (State.get_put_page _ _ _ _ (Ne.symm h) (by decide) ho).trans ?_
  refine (State.get_put_page _ _ _ _ (Ne.symm h) (by decide) ho).trans ?_
  refine (State.get_put_page _ _ _ _ (Ne.symm h) (by decide) ho).trans ?_
  exact State.get_count_page _ _ _ _ (Ne.symm h) (by show 0x100 + 4 * (c - 1) < 4096; omega) ho

/-- A recording writes the yield words of SYS, the words of REC, memory, episodes and detections. -/
theorem State.record_of {P : State → Prop} (cMem : Blind.mem P) (cEpisodes : Blind.episodes P) (cFcr : Blind.fcr P)
    (cEvt : ∀ s b, P s → P (s.evt 0x07 b)) (cDrop : ∀ s, P s → P (s.count REC.DDROP)) (cYield : ∀ s, P s → P (s.yieldRegs 9 9))
    (fuel c t unit aux arg : Nat) {s : State} (h : P s) : P (State.record fuel c t unit aux arg s) := by
  induction fuel generalizing c t unit aux arg s with
  | zero => exact h
  | succ n ih =>
    unfold State.record
    repeat' (first | with_reducible assumption | with_reducible apply ih | with_reducible apply ih | with_reducible apply cEvt | with_reducible apply State.setLe_keeps
                    | with_reducible apply cYield | with_reducible apply State.detect_keeps
                    | with_reducible apply State.setBytes_keeps | with_reducible apply cDrop
                    | with_reducible apply ite_keeps | (fail_if_no_progress with_reducible apply cEpisodes))

theorem State.get_record (n c t unit aux arg : Nat) (g : Fld) (h0 : g.page ≠ 0) (h7 : g.page ≠ 7) (ho : g.off < 4096) (s : State) :
    (State.record n c t unit aux arg s).get g = s.get g :=
  State.record_of (P := fun x => x.get g = s.get g) (fun _ _ _ h => h) (fun _ _ h => h) (fun _ _ h => h)
    (fun _ _ h => (State.get_put_page _ _ _ _ (Ne.symm h7) (by decide) ho).trans h)
    (fun _ h => (State.get_count_page _ _ _ _ (Ne.symm h7) (by decide) ho).trans h)
    (fun _ h => (State.get_yieldRegs _ _ _ (by decide) _ h0 ho).trans h) _ _ _ _ _ _ rfl

theorem State.get_recEvent (s : State) (c t unit aux : Nat) (g : Fld) (h0 : g.page ≠ 0) (h7 : g.page ≠ 7) (ho : g.off < 4096) :
    (s.recEvent c t unit aux).get g = s.get g := State.get_record _ _ _ _ _ _ _ h0 h7 ho _

theorem State.get_yieldOnce (s : State) (c d unit t : Nat) (hc : c ≤ 12) (g : Fld) (h0 : g.page ≠ 0) (h7 : g.page ≠ 7) (ho : g.off < 4096) :
    (s.yieldOnce c d unit t).get g = s.get g :=
  (State.get_recEvent _ _ _ _ _ _ h0 h7 ho).trans (State.get_yieldRegs _ _ _ hc _ h0 ho)

theorem State.get_yieldOpen (s : State) (c d key unit t : Nat) (hc : c ≤ 12) (g : Fld) (h0 : g.page ≠ 0) (h7 : g.page ≠ 7) (ho : g.off < 4096) :
    (s.yieldOpen c d key unit t).get g = s.get g := by
  unfold State.yieldOpen; split
  · rfl
  · exact State.get_yieldOnce _ _ _ _ _ hc _ h0 h7 ho

/-- A queue operation writes the words of BQ, the queue and detections. -/
theorem State.qPush_of {P : State → Prop} (cQueues : Blind.queues P) (cFcr : Blind.fcr P) (k : Nat)
    (cCount : ∀ s, P s → P (s.count (BQ.OVFCNT k))) (cPut : ∀ s, P s → P (s.put (BQ.OVF k) 1)) (cEvt : ∀ s, P s → P (s.evt 0x0A k))
    (e : BqEntry) {s : State} (h : P s) : P (s.qPush k e) := by
  unfold State.qPush State.qOverflow
  repeat' (first | with_reducible assumption | intro _ | with_reducible apply State.setQueue_keeps | with_reducible apply State.detect_keeps
                    | with_reducible apply cCount | with_reducible apply cPut | with_reducible apply cEvt
                    | with_reducible apply ite_keeps)

theorem State.get_qPush (s : State) (k : Nat) (hk : k < 64) (e : BqEntry) (g : Fld) (h : g.page ≠ 0x0A) (ho : g.off < 4096) :
    (s.qPush k e).get g = s.get g :=
  State.qPush_of (P := fun x => x.get g = s.get g) (fun _ _ h => h) (fun _ _ h => h) k
    (fun _ q => (State.get_count_page _ _ _ _ (Ne.symm h) (by show 0x108 + 0x20 * k < 4096; omega) ho).trans q)
    (fun _ q => (State.get_put_page _ _ _ _ (Ne.symm h) (by show 0x104 + 0x20 * k < 4096; omega) ho).trans q)
    (fun _ q => (State.get_put_page _ _ _ _ (Ne.symm h) (by decide) ho).trans q) e rfl

theorem State.get_hwPush (s : State) (k page unit ty : Nat) (bs : List Byte) (sp t : Nat) (hk : k < 64) (g : Fld) (h : g.page ≠ 0x0A) (ho : g.off < 4096) :
    (s.hwPush k page unit ty bs sp t).get g = s.get g := State.get_qPush _ _ hk _ _ h ho

theorem State.get_hwRef (s : State) (k page unit ty a sp t : Nat) (hk : k < 64) (g : Fld) (h : g.page ≠ 0x0A) (ho : g.off < 4096) :
    (s.hwRef k page unit ty a sp t).get g = s.get g := State.get_qPush _ _ hk _ _ h ho

/-- A field is narrower than its width. -/
theorem State.get_lt (s : State) (f : Fld) : s.get f < 2 ^ f.width := Nat.mod_lt _ (Nat.two_pow_pos _)

/-- A field counts up to its limit. -/
theorem State.get_count_same (s : State) (f : Fld) (k : Nat) (h : f.lo + f.width ≤ 32) :
    (s.count f k).get f = min (s.get f + k) (2 ^ f.width - 1) := by
  rw [State.count, State.get_put_same _ _ _ h]
  have := Nat.two_pow_pos f.width
  exact Nat.mod_eq_of_lt (by omega)

theorem State.flag_iff (s : State) (f : Fld) : s.flag f = true ↔ s.get f ≠ 0 := by simp [State.flag]

end Sys2Proof.Machine
end

