-- ==== Sys2Proof/Tests/Slice0.lean ====
section
/-! SUPPORT. Tests: the checks of well-formedness, examples of the spec, and for each statement states that meet its hypotheses. -/
namespace Sys2Proof.Tests
open Sys2Proof.Machine
set_option Elab.async false

/-- An opcode word's fields and a CAN frame that fit, and ones that do not. -/
def okIns : PacIns := { low := 0, tail := [], badFetch := none, badAccess := none, mismatch := none, corrected := 0 }
/-- The word's low bits do not fit. -/
def badIns : PacIns := { okIns with low := 1024 }
/-- An empty base frame. -/
def okFrame : CanFrame := { id := 0, ide := false, rtr := false, esi := false, fdf := false, brs := false, dlc := 0, data := [] }
/-- DLC does not fit. -/
def badFrame : CanFrame := { okFrame with dlc := 16 }

/-! Ill-formed commands, one for each check of each command, which the check refuses; and one that it accepts. -/
theorem test_well_formed : (Instr.batonPush 0 .service 8 31).ok = true := by decide
theorem test_ill_fields : [{ okIns with low := 1024 }, { okIns with tail := List.replicate 17 0 }].all (fun e => !e.ok) = true := by
  decide
theorem test_ill_frames : [{ okFrame with id := 2 ^ 29 }, { okFrame with data := List.replicate 65 0 }].all (fun f => !f.ok) = true := by decide +kernel
theorem test_ill_units : ([.ls 56, .vd 16, .bank 4, .hb 12, .so 16, .led 48, .row 16, .lf 6] : List OutU).all (fun u => !u.ok) = true := by decide
theorem test_ill_formed_1 : ([
    .registerWrite 0 (.remote 8) 0 0 0 0, .registerWrite 0 .service 256 0 0 0, .registerWrite 0 .service 0 4096 0 0,
    .rejClear 0 (.remote 8) 0 0 0, .rejClear 0 .service 256 0 0, .lockKeyWrite 0 (.remote 8) 0 0,
    .lockKeyWrite 0 .service 256 0, .lockKeyWrite 0 .service 0 65536, .lockExpiry 256, .pageEnable 0 (.remote 8) 0 false 0 0,
    .pageEnable 0 .service 256 false 0 0, .pageSoftReset 0 (.remote 8) 0 0 0, .pageSoftReset 0 .service 256 0 0,
    .unitStopComplete 0 256, .softReset 0 (.remote 8) false 0 0, .pacEnable 0 (.remote 8) 0 0,
    .replayEnter 0 (.remote 8) 0 0, .replayStep 0 (.remote 8) 0 0, .batonPush 0 (.remote 8) 0 0,
    .batonPush 0 .service 65536 0, .batonPush 0 .service 0 32, .queueAdvance 0 (.remote 8) 0, .queueAdvance 0 .service 32,
    .queueFlush 0 (.remote 8) 0, .queueFlush 0 .service 32, .mov 0 badIns, .movz 0 badIns, .movs 0 badIns, .lea 0 badIns,
    .push 0 badIns, .pop 0 badIns, .clr 0 badIns, .add 0 badIns, .addc 0 badIns, .sub 0 badIns, .subc 0 badIns,
    .addS 0 badIns, .subS 0 badIns, .neg 0 badIns, .negS 0 badIns] : List Instr).all (fun c => !c.ok) = true := by decide +kernel
theorem test_ill_formed_2 : ([
    .abs 0 badIns, .absS 0 badIns, .mul 0 badIns, .mulhu 0 badIns, .mulhs 0 badIns, .div 0 badIns, .divs 0 badIns,
    .rem 0 badIns, .rems 0 badIns, .cmp 0 badIns, .tst 0 badIns, .andOp 0 badIns, .orOp 0 badIns, .xor 0 badIns,
    .bic 0 badIns, .notOp 0 badIns, .shl 0 badIns, .shr 0 badIns, .sar 0 badIns, .rol 0 badIns, .ror 0 badIns, .clz 0 badIns,
    .minOp 0 badIns, .maxOp 0 badIns, .mins 0 badIns, .maxs 0 badIns, .jmp 0 badIns, .call 0 badIns, .bcc 0 badIns,
    .djnz 0 badIns, .nop 0 badIns, .fin 0 badIns, .wait 0 badIns, .ret 0 badIns, .rete 0 badIns, .rep 0 badIns 0 okIns 0,
    .rep 0 okIns 64 okIns 0, .rep 0 okIns 0 badIns 0, .repl 0 badIns 0 okIns 0, .repl 0 okIns 64 okIns 0] : List Instr).all (fun c => !c.ok) = true := by decide +kernel
theorem test_ill_formed_3 : ([
    .repl 0 okIns 0 badIns 0, .bkpt 0 badIns, .trap 0 badIns, .ei 0 badIns, .di 0 badIns, .lockstepInject 0 (.remote 8) 0 0,
    .laneLinkResync 0 2, .laneWatchdogExpiry 2, .failsafeHeat 2, .lhSelectChange 0 2 0, .lhSelectChange 0 0 4,
    .temperatureConversion 0 2 0 [], .temperatureConversion 0 0 0 [⟨.ls 56, 0⟩], .senseConversion 0 [⟨.ls 56, 0, 0, 0⟩],
    .currentLimitEntry 0 (.ls 56), .inrushWindowEnd (.ls 56), .retryIntervalExpiry (.ls 56), .deferralLimitExpiry (.ls 56),
    .retryReloadTimer (.ls 56), .demagDump (.ls 56), .diagFilterExpiry 0 (.ls 56) .open false, .offTestPhaseEnd (.ls 56) 0,
    .offTestPhaseEnd (.ls 0) 65536, .channelFaultClear 0 (.remote 8) (.ls 0) 0 0, .channelFaultClear 0 .service (.ls 56) 0 0,
    .pwmPeriodStart 0 4, .camsyncEdge 0 4 false, .strobeScheduleInstant 0 4, .sprintPulse 0 4, .sprintPulseEnd 56,
    .pulseLateExpiry 56, .groundLoss 0 2, .groundReturn 0 2, .peakPhaseEnd 16, .valvePwmPeriod 0 16 0 0, .valveRampEnd 16,
    .slowDecayTimeout 16, .valveOvercurrentTrip 0 16 false, .bankOffDelayExpiry 4, .bankOffStateTest 0 4] : List Instr).all (fun c => !c.ok) = true := by decide +kernel
theorem test_ill_formed_4 : ([
    .reverseBrakeEnd 0 12 false, .parkInputReached 0 12, .parkTimeout 12, .chopLimit 0 12, .overloadTrip 0 12,
    .shortCircuitTrip 0 12 false false false, .stallDetect 0 12, .rippleCrossing 0 12, .outputStopComplete 0 (.ls 56),
    .debouncedChange 0 64, .inputRawChange 0 64 0, .inputInitSample 2, .wettingPulse 0 2 [], .timerCountStep 0 ⟨4, none⟩,
    .captureEdge 0 8 false, .tstagGo 0 (.remote 8) 0, .tstagGo 0 .service 16, .canFrameReceived 0 8 0 okFrame,
    .canFrameReceived 0 0 0 badFrame, .canFrameSent 0 8 0, .canArbitrationLost 0 8 0, .canError 0 8 0 0 0 0 false,
    .canError 0 0 8 0 0 0 false, .canIntegrationComplete 0 8, .canRecoveryComplete 0 8, .canProtocolException 0 8,
    .canTxPut 0 (.remote 8) 0 0, .canTxPut 0 .service 8 0, .canTxPut 0 .service 0 2, .canTxFetch 0 8 0, .canTxFetch 0 0 2,
    .canRxAck 0 (.remote 8) 0 0, .canRxAck 0 .service 8 0, .canRxAck 0 .service 0 2, .canTxFlush 0 (.remote 8) 0 0,
    .canTxFlush 0 .service 8 0, .canTxFlush 0 .service 0 2, .canManualRecover 0 (.remote 8) 0,
    .canManualRecover 0 .service 8, .canAutoReturnEnable 0 (.remote 8) 0 0] : List Instr).all (fun c => !c.ok) = true := by decide +kernel
theorem test_ill_formed_5 : ([
    .canStopTimeout 8, .canTxdTimeout 0 8, .canBusWake 0 8, .nmEnable 0 (.remote 8) 0 false 0 0,
    .nmEnable 0 .service 8 false 0 0, .nmKeepaliveSend 8, .nmRepeatExpiry 8, .nmTimeoutExpiry 8, .nmWaitbsExpiry 8,
    .falseStartWindow 8, .falseStartMaskHold 8, .ethFrameReceived 0 6 [] false, .ethTransmitOpportunity 0 6,
    .portLinkChange 0 6 false false, .mdioWrite 0 (.remote 8) 0, .mdioRead 0 (.remote 8) 0, .mdioAddress 0 (.remote 8) 0,
    .mdioComplete 0 65536 false, .macRead 0 (.remote 8) 0, .macRead 0 .service 4096, .macWrite 0 (.remote 8) 0,
    .macWrite 0 .service 4096, .macDelete 0 (.remote 8) 0, .macDelete 0 .service 4096, .macFlushDynamic 0 (.remote 8) 0,
    .macFlushDynamic 0 .service 4096, .macAgeExpiry 0 4096, .tasCfgchg 0 (.remote 8) 0 0 0, .tasCfgchg 0 .service 6 0 0,
    .tasConfigChange 0 6, .gateIntervalEnd 0 6, .preemptVerify 0 6 false, .frerResetTimeout 256, .sflSelect 0 (.remote 8) 0,
    .sflSelect 0 .service 256, .sflStore 0 (.remote 8) 0, .sflStore 0 .service 256, .hostTxDescriptor 0 8,
    .gptpSyncReceived 0 6 0 0 0, .gptpPdelay 0 6 0] : List Instr).all (fun c => !c.ok) = true := by decide +kernel
theorem test_ill_formed_6 : ([
    .enrol 0 (.remote 8), .revoke 0 (.remote 8), .keyload 0 (.remote 8), .faultRaise 0 0xD4 0, .faultRaise 0 0 256,
    .faultAck 0 (.remote 8) 0, .faultAck 0 .service 256, .graceExpiry 0xD4, .faultUnhold 0 (.remote 8) 0 0,
    .faultUnhold 0 .service 256 0, .faultUnhold 0 .service 0 256, .faultClear 0 (.remote 8) 0, .faultClear 0 .service 0xD4,
    .safeRelease 0 (.remote 8), .recordCodePut 0 (.remote 8) 0, .recordCodePut 0 .service 4096, .recordQueueEntry 0 32,
    .tokenRefill 0 16, .codeClassAssign 0 (.remote 8) 0 0, .codeClassAssign 0 .service 4096 0,
    .codeClassAssign 0 .service 0 16, .feedPut 0 (.remote 8) 0, .feedPut 0 .service 512, .feedClear 0 (.remote 8) 0,
    .feedClear 0 .service 512, .flushCommand 0 (.remote 8) 0 0, .recordRead 0 (.remote 8), .recordWipe 0 (.remote 8) 0,
    .recordWipe 0 .service 65536, .referenceSelect 0 (.remote 8) false 0 0, .wakeInputFilter 0 8, .padRelease 0 (.remote 8),
    .wakeTimerWrite 0 (.remote 8) 0, .warmUp false [] 256, .nvProgram 0 (.remote 8), .svCommit 0 (.remote 8),
    .lifecycleChange 0 (.remote 8) 0, .lifecycleChange 0 .service 65536, .powerDieLockout 0 2, .powerDieRestart 0 2] : List Instr).all (fun c => !c.ok) = true := by decide +kernel
theorem test_ill_formed_7 : ([
    .vbatMinmaxClear 0 (.remote 8), .extest 0 [] (List.replicate 96 false), .extest 0 (List.replicate 32 false) [],
    .samplePreload 0 [] (List.replicate 96 false), .samplePreload 0 (List.replicate 32 false) [],
    .debugReadWord 0 (2 ^ 32) false, .debugWriteWord 0 (2 ^ 32) 0 false, .debugWriteWord 0 0 (2 ^ 32) false,
    .marshalReleasePoint 92, .limitingEpisodeEnd 0 (.ls 56), .bridgePwmPeriod 0 12, .posunc 0 12, .parkBrakeEnd 12,
    .clockGating 0 256, .undefinedOpcode 0 64 okIns, .undefinedOpcode 0 0x2E badIns, .headroomConversion 0 [(48, 0)],
    .ethFrameReceived 0 0 (List.replicate 2001 0) false, .hostTxDescriptor 0 3, .quiesceTimeout 0 [5],
    .wettingPulse 0 0 [(32, 0)], .timerCountStep 0 ⟨0, some (8, true)⟩, .undefinedOpcode 0 1 okIns] : List Instr).all (fun c => !c.ok) = true := by decide +kernel

/-! States that meet the hypotheses of the statements. -/

theorem test_idle : State.reset.pending = [] := by decide

theorem test_sound_state : (State.reset.setByte 7 9).Sound ∧ (State.reset.setByte 7 9).mem ≠ [] := ⟨⟨rfl, rfl⟩, by decide⟩
theorem test_sound_step : ∃ u, step { State.reset.setByte 7 9 with pending := [.idcode 3] } = .next u := ⟨_, rfl⟩

theorem test_refused_resv : writable 0x09 0x104 ≠ 0 ∧
    (State.reset.reach 5).refusal ((State.reset.reach 5).wrOf .debug 0x09 8 0 1 5) = some .resv := by decide +kernel
theorem test_refused_nopage : pagePresent 0x23 = false ∧
    (State.reset.reach 5).refusal ((State.reset.reach 5).wrOf .service 0x23 0x100 0 1 5) = some .nopage := by decide +kernel

theorem test_plain_reg : plainReg 0x10 0x104 = true ∧ writable 0x10 0x104 ≠ 0 := by decide +kernel
theorem test_plain_accepted : (State.reset.reach 5).refusal ((State.reset.reach 5).wrOf .service 0x10 0x104 0x50 0xFF0 5) = none := by
  decide +kernel

/-- Whether a write is accepted. -/
def takes (s : State) (src : Src) (p off : Nat) (v m : Word) (t : Nat) : Bool :=
  decide (writable p off ≠ 0) && decide ((s.reach t).refusal ((s.reach t).wrOf src p off v m t) = none)
/-- Such a write meets the hypothesis of the statements. -/
theorem takes_accepts (s : State) (src : Src) (p off : Nat) (v m : Word) (t : Nat) (h : takes s src p off v m t = true) :
    s.Accepts src p off v m t := by
  simp only [takes, Bool.and_eq_true, decide_eq_true_eq] at h
  exact h
/-- A part whose Warm-up is complete, with ticks. -/
def awake : State :=
  { State.reset with boot := { State.reset.boot with phase := .done }, stride := { strideReset with running := true, tick := 5, nextTick := 9 },
                     book := { State.reset.book with resetDue := false } }
/-- A part with a page's lock held by the Service context. -/
def unlocked (p : Nat) : State := ((awake.put (Hdr.LOCK_OPEN p) 1).put (Hdr.LOCK_HOLDER p) (srcRej .service)).arm (.lock p) 1000
/-- A part with a timer due at 500. -/
def dueAt (k : Timer) : State := awake.arm k 500
/-- A unit of a part in a phase. -/
def inPhase (u : OutU) (ph : Phase) : State := awake.setPhase u ph 0

theorem wit_device_writes : (takes (unlocked 0x0B) .service 0x0B 0x140 1 1 5 && takes awake .service 0x2C 0x140 0x1F 0xFFFFFFFF 5
    && takes (unlocked 5) .service 0x05 0x108 1 0xFFFFFFFF 5 && takes (unlocked 4) .service 0x04 0x11C 1 0xFFFFFFFF 5
    && takes (unlocked 4) .service 0x04 0x120 0x4649 0xFFFFFFFF 5 && takes awake .service 0x03 0x118 1 0xFFFFFFFF 5
    && takes awake .service 0x02 0x14C 1 0xFFFFFFFF 5 && takes (unlocked 2) .service 0x02 0x148 7 0xFFFFFFFF 5
    && takes (unlocked 1) .service 0x01 0x104 0 1 5) = true := by decide +kernel
theorem wit_control_writes : (takes awake .service 0x10 8 8 8 5 && takes awake .service 0x10 8 1 1 5 && takes awake .service 0x17 8 0 1 5
    && takes awake .service 0x0B 8 1 1 5 && takes (unlocked 0x22) .service 0x22 8 2 2 5 && quietPage 0x22
    && takes (unlocked 0x0B) .service 0x0B 8 2 2 5 && takes (unlocked 0x09) .service 0x09 8 2 2 5 && !awake.nvBusy) = true := by
  decide +kernel
theorem wit_lock : takes awake .service 4 0x1C 0x5AFE 0xFFFFFFFF 5 = true ∧ takes (unlocked 4) .service 4 0x1C 0 0xFFFFFFFF 5 = true
    ∧ (unlocked 4).lockOpen 4 5 = true ∧ (dueAt (.lock 4)).due (.lock 4) = some 500
    ∧ awake.meetsLock (awake.wrOf .service 0x04 0x120 0x4649 0xFFFFFFFF 5) = true := by decide +kernel
theorem wit_pushes : (takes (awake.put (BQ.DEPTH 3) 8) .service 0x0A 0x808 (BitVec.ofNat 32 (8 + 65536 * 3)) 0xFFFFFFFF 5
    && tlOk 8 && takes awake .stride 0x0A 0x808 (BitVec.ofNat 32 (8 + 65536 * 31)) 0xFFFFFFFF 5
    && takes awake .service 0x0A (0x10C + 0x20 * 31) 1 0xFFFFFFFF 5 && takes awake .service 0x0A 0x10C 2 0xFFFFFFFF 5
    && !(awake.put (BQ.DEPTH 3) 8).qFull 3) = true := by decide +kernel
theorem wit_stride : awake.stride.running = true ∧ awake.stride.suspended = none ∧ awake.get STR.RPLCTRL_EN = 0 ∧ awake.pwr.dozeNext = false
    ∧ awake.stride.cut = false ∧ awake.stride.tick ≠ 0
    ∧ { awake with stride := { awake.stride with started := true } }.stride.started = true := by decide +kernel
theorem wit_replay : takes (unlocked 9) .debug 0x09 0x160 1 1 5 = true
    ∧ takes ((unlocked 9).put STR.RPLCTRL_EN 1) .debug 0x09 0x160 4 4 5 = true := by decide +kernel
theorem wit_can_writes : (takes awake .service 0x37 0x130 2 0xFFFFFFFF 5 && takes awake .service 0x37 0x128 1 0xFFFFFFFF 5
    && takes awake .service 0x30 0x134 1 0xFFFFFFFF 5 && takes awake .service 0x30 0x134 0x100 0xFFFFFFFF 5
    && takes (unlocked 0x38) .service 0x38 0x100 1 1 5 && !awake.flag (txFed 7 1) && !awake.txBad 7 (awake.bytes (txAddr 7 1 0) 80)) = true := by
  decide +kernel
theorem wit_nm_enable : takes ((awake.put (Hdr.EN 0x39) 1).put (BQ.HWC 0) 0x30) .service 0x39 0x100 1 1 5 = true
    ∧ takes (awake.put (NMK.STATE 7) 2) .service 0x39 (0x100 + 0x20 * 7) 0 1 5 = true
    ∧ (awake.put (Hdr.EN 0x39) 1).unitHeld 0x39 0 = false := by decide +kernel
/-- A part whose switch and ports A0 and B0 run with a link, and VLAN 0 holds both for VID 5. -/
def linked : State :=
  let s := [0x40, 0x41, 0x43].foldl (fun s p => s.put (Hdr.EN p) 1) awake
  let s := [0, 2].foldl (fun (s : State) p => ((s.put (PT.UP p) 1).put (PT.MAX p 7) 9).put (PT.ACCEPT p) 0) s
  let s := ((s.put (SWC.VLAN_VALID 0) 1).put (SWC.VLAN_VID 0) 5).put (SWC.MEMBER 0) 5
  { (((s.put (PT.PCPMAP 0) 0x77777777).put SWC.LEARN 0).put SWC.FREE 9) with
    sw := { s.sw with macs := [(4, { mac := 0x020000000002, fid := 0, ports := 4, fixed := false, seen := 0 }),
                               (9, { mac := 0x020000000001, fid := 0, ports := 2, fixed := false, seen := 0 })] } }
/-- A frame with a tag of VID 5 for the first address, from the second. -/
def frame60 : List Byte := [2, 0, 0, 0, 0, 2, 2, 0, 0, 0, 0, 1, 0x81, 0, 0, 5, 8, 0] ++ List.replicate 44 1

theorem wit_switch_writes : (takes awake .service 0x40 0x128 0 0xFFFFFFFF 5 && takes awake .service 0x40 0x128 0x40 0xFFFFFFFF 5
    && takes awake .service 0x40 0x128 0xA0 0xFFFFFFFF 5 && takes awake .service 0x40 0x130 16380 0xFFFFFFFF 5
    && takes awake .service 0x40 0x130 1 0xFFFFFFFF 5 && takes awake .service 0x40 0x130 2 0xFFFFFFFF 5
    && takes awake .service 0x40 0x130 3 0xFFFFFFFF 5 && takes awake .service 0x49 0x100 2 2 5
    && takes awake .service 0x49 (0x100 + 0x40 * 5) 2 2 5 && takes awake .service 0x4A 0x100 255 0xFFFFFFFF 5
    && takes awake .service 0x4A 0x100 256 0xFFFFFFFF 5) = true := by decide +kernel
theorem wit_frames : linked.portOn 0 = true ∧ linked.get (PT.UP 0) = 1 ∧ 64 ≤ frame60.length + 4
    ∧ frame60.length + 4 ≤ linked.get SWC.MAXLEN ∧ (parseFrame frame60).1 = true ∧ (parseFrame frame60).2.1 = 5
    ∧ (parseFrame frame60).2.2.2.1 = none ∧ linked.vlanOf 5 = some 0 ∧ bitAt (linked.get (SWC.MEMBER 0)) 0 = true
    ∧ bitAt (linked.get (SWC.MEMBER 0)) 2 = true ∧ linked.portOn 2 = true
    ∧ (linked.macFind 0x020000000002 0).isSome = true ∧ (linked.macFind 0x020000000001 0).isSome = true
    ∧ linked.sflFind 0x020000000002 0x020000000001 5 = none ∧ linked.get (PT.BLOCKNF 0) = 0 ∧ linked.get (PT.BLOCKNF 2) = 0 := by decide +kernel
theorem wit_not_the_host : linked.hostMac ≠ 0x020000000002 ∨ linked.hostMac ≠ 0x020000000001 := by
  by_cases h : linked.hostMac = 0x020000000002
  · right; rw [h]; decide
  · left; exact h
theorem wit_transmit :
    let f : EthFrame := { vid := 5, prio := 0, cls := 7, rtag := none, body := frame60, ingress := 2, last := 0, untag := false, bad := false }
    let s := linked.setPort 0 (fun r => { r with queues := (List.replicate 7 []) ++ [[f]] })
    s.portOn 0 = true ∧ ((s.port 0).queues.getD 7 []).head? = some f ∧ (s.port 0).cur = none ∧ (s.port 0).held = none
      ∧ s.get (TAS.EN 0) = 0 := by decide +kernel
theorem wit_host_ring :
    let s := (((linked.put (PH.EN 7) 1).put (Hdr.EN 0x47) 1).put (PH.SIZE 7) 4).put (PH.BASE 7) 0x200000
    let s := s.setByte 0x20000C 1
    s.get (PH.EN 7) = 1 ∧ s.get (Hdr.EN 0x40) = 1 ∧ s.get (PH.SIZE 7) ≠ 0
      ∧ bitAt (s.le (s.get (PH.BASE 7) + 16 * s.get (PH.NEXT 7) + 12) 1) 0 = true := by decide +kernel
theorem wit_switch_engines :
    (linked.put SWC.MDIODATA_BUSY 1).get SWC.MDIODATA_BUSY = 1 ∧ linked.sw.macs.find? (fun e => decide (e.1 = 9)) ≠ none
    ∧ (dueAt (.frerReset 255)).due (.frerReset 255) = some 500 ∧ (dueAt .gptp).due .gptp = some 500
    ∧ ((awake.put (PT.EN 1) 1).put (PT.VERIFY 1) 1).get (PT.VERIFY 1) = 1
    ∧ (((linked.put (Hdr.EN 0x48) 1).put TSY.PORTEN 63).put TSY.EXTCFG 0).syncPort 5 = true ∧ linked.sw.tsy.gm = none := by decide +kernel
theorem wit_gates :
    let s := linked.setTas 5 (fun r => { r with oper := [(1, 4), (2, 4)], start := 0, due := 32, cycle := 100, pos := 0, pend := some 0 })
    let w := s.setTas 5 (fun r => { r with pos := 1, due := 100 })
    (s.tas 5).oper ≠ [] ∧ (fillCycle (s.tas 5).oper (s.tas 5).cycle)[1]? = some (2, 68) ∧ (s.tas 5).due ≤ s.gptp 32 ∧ s.gptp 31 < (s.tas 5).due
      ∧ (s.tas 5).due < (s.tas 5).start + (s.tas 5).cycle ∧ (w.tas 5).due ≤ w.gptp 100 ∧ (w.tas 5).start + (w.tas 5).cycle ≤ (w.tas 5).due
      ∧ (s.tas 5).pend = some 0 ∧ 0 ≤ s.gptp 0 := by decide +kernel
theorem wit_faults : awake.boot.phase ≠ .held ∧ awake.pwr.state = .run ∧ awake.inShadow 0xD3 0 5 = false ∧ awake.nvBusy = false := by
  decide +kernel
theorem wit_hurdle : effHurdle 0x1B 0 (awake.get (FCR.INIT (awake.cls 0x1B))) ≠ 5 := by decide +kernel
theorem wit_grace : (dueAt (.grace 0xD3)).due (.grace 0xD3) = some 500 := by decide +kernel
theorem wit_fault_writes : (takes awake .service 0x06 0x140 0xD3 0xFFFFFFFF 5 && takes awake .service 0x06 (0x600 + 4 * 0xD3) 1 0xFFFFFFFF 5
    && takes awake .service 0x06 0x144 (BitVec.ofNat 32 (0xD3 + 256 * 255)) 0xFFFFFFFF 5) = true := by decide +kernel
theorem wit_safe_release : takes ((unlocked 6).put FCR.SAFE 1) .service 0x06 0x124 1 0xFFFFFFFF 5 = true := by decide +kernel
theorem wit_fault_shadow :
    let s := { awake with fcr := { awake.fcr with shadows := [{ opened := 0, page := 0x10, unit := 0, cluster := some 3 }] } }
    s.inShadow 0x2C 0 5 = true := by decide +kernel
theorem wit_record_writes : (takes awake .service 0x07 0x114 0xA00 0xFFFFFFFF 5 && takes awake .service 0x07 0x118 0xFFFF 0xFFFFFFFF 5
    && takes awake .service 0x07 0x178 319 0xFFFFFFFF 5 && takes awake .service 0x07 0x170 319 0xFFFFFFFF 5
    && takes awake .service 0x07 0x100 1 1 5 && takes (unlocked 7) .service 0x07 0x184 0xC1EA 0xFFFFFFFF 5) = true := by decide +kernel
theorem wit_record_read : fwCode 0xA00 = true ∧ (awake.busRead .service 0x07 0x180 5).2.2 = none := by decide +kernel
theorem wit_flush : awake.freeSector 0 [] = some 1 ∧ awake.book.flush = none := by decide +kernel
theorem wit_feed : (awake.setByte (feedCfg 319) 2).feedCfg0 319 % 4 = 2 := by decide +kernel
/-- An entry of a Baton queue. -/
def anEntry : BqEntry := { split := 0, src := 0, tl := 0x708, p0 := 0xA00, p1 := 0, arr := 0 }
/-- A part with a queue that a hardware consumer reads. -/
def fedBy (c k : Nat) : State := (((awake.put (BQ.HWC k) c).put (BQ.DEPTH k) 8).setQueue k { queueInit with entries := [anEntry] })
/-- A flush at its last sector. -/
def lastSector : RecFlush := { reason := 0, lap := 0, split := 0, image := [], todo := [], map := [], target := 3, used := [3], retried := false, wrote := 1 }

theorem wit_record_entry : (fedBy 7 31).get (BQ.HWC 31) = 7 ∧ ((fedBy 7 31).queue 31).entries.head? = some anEntry := by decide +kernel
theorem wit_refill : awake.get (REC.REFILL 15) ≠ 0 ∧ awake.book.warm ≤ 0 ∧ (0 - awake.book.warm) % ms (awake.get (REC.REFILL 15)) = 0 := by
  decide +kernel
theorem wit_flush_period : awake.pwr.state = .run ∧ awake.book.since + ms (60000 * awake.get REC.PERIOD) ≤ ms (60000 * awake.get REC.PERIOD) := by
  decide +kernel
theorem wit_sector : { awake with book := { awake.book with flush := some lastSector } }.book.flush = some lastSector ∧ awake.boot.want = none
    ∧ awake.book.held = none ∧ lastSector.todo = [] := by decide +kernel
theorem wit_access_start :
    let s := { awake with acc := { awake.acc with starts := [(7, 1)] }, msh := { awake.msh with vbat := 1200 } }
    s.acc.starts.head? = some (7, 1) ∧ s.get ACC.STATE = 0 ∧ s.lockedOut 7 = false ∧ s.lfNoSupply = false ∧ (s.put ACC.STATE 4).get ACC.STATE ≠ 0
      ∧ { s with acc := { s.acc with lockEnd := 9 } }.lockedOut 7 = true := by decide +kernel
theorem wit_bursts : (dueAt .lfEnd).due .lfEnd = some 500 ∧ 0 ∈ (((dueAt .lfEnd).put (Hdr.EN 0x0F) 1).put (LF.EN 0) 1).aerials
    ∧ [((0 : Nat), (5 : Nat))].find? (fun e => decide (e.1 = 0)) = some (0, 5) ∧ (dueAt .lfEnd).get (Hdr.STOPPING 0x0E) = 0 := by decide +kernel
theorem wit_poll : (awake.put ACC.STATE 1).get ACC.STATE = 1 ∧ awake.due .lfEnd = none ∧ awake.acc.held = none ∧ awake.acc.lockDue = false
    ∧ (awake.put ACC.STATE 3).get ACC.STATE = 3 ∧ (awake.put ACC.STATE 4).get ACC.STATE = 4 := by decide +kernel
theorem wit_transfers : (awake.xtOk 0 && awake.xtOk 1 && awake.xtOk 2 && awake.xtOk 3 && awake.xtOk 4) = true := by decide +kernel
theorem wit_response :
    let f : List Byte := 0x52 :: 3 :: List.replicate 30 0
    f.length = 32 ∧ (f.getD 0 0).toNat = 0x52 ∧ (f.getD 1 0).toNat = 3
      ∧ (Int.ofNat (10000 * 0) - Int.ofNat ((awake.acc.poll - awake.acc.poll) * 638976)).natAbs ≤ 8 * 638976 := by decide +kernel
theorem wit_response_tag (s : State) (key : List Byte) :
    let head : List Byte := 0x52 :: 3 :: List.replicate 22 0
    ∃ tag : List Byte, s.macT key (head ++ tag) = (head ++ tag).drop 24 :=
  ⟨macOf key ([0x52] ++ leBytes 2 (s.get ACC.WAKEID) ++ s.acc.chal ++ 3 :: List.replicate 22 0), rfl⟩
theorem wit_access_timers : (dueAt .lockout).due .lockout = some 500 ∧ (dueAt .permit).due .permit = some 500 := by decide +kernel
theorem wit_vault_writes : (takes ((unlocked 0x0D).put VLT.CMDARG_PRIV 1) .service 0x0D 0x60 1 0xFFFFFFFF 5 && takes (unlocked 0x0D) .service 0x0D 0x60 2 0xFFFFFFFF 5
    && takes ((unlocked 0x0D).put VLT.SLOT 63) .service 0x0D 0x60 3 0xFFFFFFFF 5) = true := by decide +kernel
theorem wit_vault_command :
    let c : VltCmd := { code := 1, slot := 63, priv := 3, tid := 9, key := some [], status := 0 }
    { awake with vault := { awake.vault with cmd := some c } }.vault.cmd = some c := by decide +kernel
theorem wit_limit : limits (.ls 55) = true ∧ ((inPhase (.ls 55) .on).phase (.ls 55)).conducts = true ∧ (inPhase (.ls 55) .on).get SUP.REVERSE = 0
    ∧ ((inPhase (.ls 55) .on).out (.ls 55)).lim = false := by decide +kernel
theorem wit_unit_timers : (dueAt (.inrush (.ls 55))).due (.inrush (.ls 55)) = some 500 ∧ (dueAt (.retry (.hb 11))).due (.retry (.hb 11)) = some 500
    ∧ (dueAt (.defer (.vd 15))).due (.defer (.vd 15)) = some 500 ∧ (dueAt (.reload (.bank 3))).due (.reload (.bank 3)) = some 500
    ∧ (dueAt (.demag (.so 15))).due (.demag (.so 15)) = some 500 := by decide +kernel
theorem wit_stopping : (inPhase (.ls 55) .stopping).phase (.ls 55) = .stopping ∧ (inPhase (.ls 55) .tripped).phase (.ls 55) = .tripped
    ∧ (inPhase (.ls 55) .tripped).latched (.ls 55) = false := by decide +kernel
theorem wit_unit_clear : takes awake .service (fFlt (.ls 55)).page (fFlt (.ls 55)).off 1 0xFFFFFFFF 5 = true := by decide +kernel
theorem wit_diagnosis :
    let s := (inPhase (.ls 55) .on).put (LSW.LIMITING 55) 1
    diagBit (.ls 55) .stg ≠ none ∧ s.diagOn (.ls 55) .stg 5 = true ∧ awake.diagOn (.ls 55) .stg 5 = false
      ∧ awake.onGrid (2500000 * 4) 2500000 = true ∧ awake.onGrid 1 2500000 = false := by decide +kernel
theorem wit_off_test :
    let s := (dueAt (.testPhase (.ls 55))).setOut (.ls 55) (fun o => { o with test := 1 })
    s.due (.testPhase (.ls 55)) = some 500 ∧ (s.out (.ls 55)).test = 1 ∧ ((dueAt (.testPhase (.ls 55))).out (.ls 55)).test ≠ 1
      ∧ awake.due (.testPhase (.bank 3)) = none := by decide +kernel
theorem wit_bank_test :
    let s := (dueAt (.testPhase (.bank 3))).setOut (.bank 3) (fun o => { o with test := 2 })
    s.due (.testPhase (.bank 3)) = some 500 ∧ (s.out (.bank 3)).test = 2 ∧ bitAt 15 4 = false ∧ bitAt 16 4 = true
      ∧ (s.put (VDB.BPULSE 3) 1).flag (VDB.BPULSE 3) = true ∧ (s.put (VDB.BPULSE 3) 0).flag (VDB.BPULSE 3) = false := by decide +kernel
theorem wit_bank_go :
    let s := ((awake.put (Hdr.EN 0x1B) 1).put (VDB.OFFDIAG 3) 1).setOut (.bank 3) (fun o => { o with fs := false })
    s.flag (Hdr.EN 0x1B) = true ∧ s.flag (VDB.OFFDIAG 3) = true ∧ s.phase (.bank 3) = .off ∧ s.bankActive 3 = false
      ∧ s.onGrid 0 (2500000 * s.get VDC.DIAGPER) = true := by decide +kernel
theorem wit_valves : (dueAt (.peak 15)).due (.peak 15) = some 500 ∧ (dueAt (.ramp 15)).due (.ramp 15) = some 500
    ∧ (dueAt (.slow 15)).due (.slow 15) = some 500 ∧ (dueAt (.bankOff 3)).due (.bankOff 3) = some 500
    ∧ (inPhase (.vd 15) .start).phase (.vd 15) = .start ∧ (inPhase (.vd 15) .on).phase (.vd 15) = .on
    ∧ ((inPhase (.vd 15) .on).out (.vd 15)).revOn = false ∧ awake.phase (.vd 15) ≠ .start ∧ awake.phase (.vd 15) ≠ .on := by decide +kernel
theorem wit_bridges : (inPhase (.hb 11) .revbrk).phase (.hb 11) = .revbrk ∧ (inPhase (.hb 11) .parking).phase (.hb 11) = .parking
    ∧ ((inPhase (.hb 11) .parking).arm (.park 11) 500).due (.park 11) = some 500
    ∧ ((inPhase (.hb 11) .parking).arm (.parkBrake 11) 500).due (.parkBrake 11) = some 500
    ∧ (inPhase (.hb 11) .on).phase (.hb 11) = .on ∧ ((inPhase (.hb 11) .on).phase (.hb 11)).conducts = true := by decide +kernel
theorem wit_matrix :
    let s := (awake.put (Hdr.EN 0x21) 1).setDie 0 (fun d => { d with reset := false })
    let r := { s with scan := { s.scan with scanning := true } }
    s.flag (Hdr.EN 0x21) = true ∧ (s.die 0).inFs = false ∧ s.scan.scanning = false ∧ r.scan.scanning = true
      ∧ (dueAt .msync).due .msync = some 500 := by decide +kernel
theorem wit_inputs :
    let s := (((awake.put (Hdr.EN 0x25) 1).put (DIN.VALID 63) 1).setDin 63 (fun d => { d with run := some 0 }))
    s.dinRuns 63 = true ∧ (s.din 63).run = some 0 ∧ 0 + us (s.get (DIN.DEB 63)) ≤ us (s.get (DIN.DEB 63)) ∧ (awake.din 0).run = none
      ∧ (dueAt (.inputInit 1)).due (.inputInit 1) = some 500 := by decide +kernel
theorem wit_timers :
    let s := awake.put (Hdr.EN 0x2B) 1
    s.get (TMR.SRC 3) ≠ 3 ∧ s.get (TMR.FOLLOW 3) ≠ 3 ∧ s.tmrFollowers 3 = [] ∧ (awake.put (TMR.SRC 0) 3).get (TMR.SRC 0) = 3
      ∧ (awake.put (Hdr.EN 0x2C) 1).flag (Hdr.EN 0x2C) = true ∧ awake.flag (Hdr.EN 0x2C) = false := by decide +kernel
theorem wit_timer_counts : ((awake.put (Hdr.EN 0x2B) 1).setTmr 3 (fun r => { r with run := true })).tmrCounts 3 5 = true ∧ awake.tmrCounts 3 5 = false := by decide +kernel
theorem wit_marshal :
    let l : LearnSt := { due := 500, items := [], dI := 0, vpre := 0, vmin := 0, max := 0 }
    let s := { dueAt .learn with msh := { awake.msh with learns := [l] } }
    s.due .learn = some 500 ∧ s.msh.learns.head? = some l ∧ (dueAt .recover).due .recover = some 500
      ∧ (dueAt (.release 91)).due (.release 91) = some 500 := by decide +kernel
theorem wit_dies : (dueAt (.watchdog 1)).due (.watchdog 1) = some 500 ∧ (dueAt (.fsHeat 1)).due (.fsHeat 1) = some 500
    ∧ (awake.die 1).lockout = false ∧ (awake.die 1).gnd = false
    ∧ ((awake.setDie 1 (fun d => { d with lockout := true })).die 1).lockout = true
    ∧ (awake.put SUP.REVERSE 1).get SUP.REVERSE = 1 ∧ awake.get SUP.REVERSE = 0 := by decide +kernel
/-- A part whose Service context runs at 0x100, with a stack and slots in the data TCM. -/
def running : State :=
  { awake with pac := { awake.pac with started := true, svc := { ctxReset with pc := 0x100, sp := 0x120000, fp := 0x110000 } } }
/-- The opcode word's fields: 32 bits, two operands in slots. -/
def twoSlots : PacIns := { okIns with low := 0x200, tail := [0, 0, 0, 4] }
/-- One operand in a slot. -/
def oneSlot : PacIns := { okIns with low := 0x280, tail := [0, 4] }
/-- No operand. -/
def noOperand : PacIns := { okIns with low := 0x280 }
/-- The same part in its Stride context. -/
def striding : State :=
  { running with stride := { running.stride with started := true, budAct := 1000 },
                 pac := { running.pac with str := { ctxReset with pc := 0x200, sp := 0x130000, fp := 0x110000 } } }
/-- An instruction is at the front, its destination can be written, and neither OVF nor DIVZ is armed. -/
def canFit (s : State) (op : Nat) (e : PacIns) (shape : Shape) : Bool :=
  (s.ready 5 op e shape).any (fun r => !(r.run.put r.dst 0).quit && !r.flag 8 && !r.flag 9)

theorem wit_binary : ([8, 9, 0xA, 0xB, 0xC, 0xD, 0x12, 0x13, 0x14, 0x15, 0x16, 0x17, 0x18, 0x1B, 0x1C, 0x1D, 0x1E, 0x20, 0x21, 0x22, 0x23,
    0x24, 0x26, 0x27, 0x28, 0x29] : List Nat).all (fun op => canFit running op twoSlots .binary) = true := by decide +kernel
theorem wit_unary : ([1, 4, 0xE, 0xF, 0x10, 0x11, 0x1F, 0x25, 0x2D] : List Nat).all (fun op => canFit running op twoSlots .unary) = true := by
  decide +kernel
theorem wit_extend : ([2, 3] : List Nat).all (fun op => canFit running op { twoSlots with low := 0x100 } .unary) = true := by decide +kernel
theorem wit_compare : canFit running 0x19 twoSlots .compare = true := by decide +kernel
theorem wit_single : ([5, 6, 7, 0x1A, 0x2A, 0x2B, 0x2C] : List Nat).all (fun op => (running.ready 5 op oneSlot .single).isSome) = true := by
  decide +kernel
theorem wit_traps : (running.setCtx false (fun c => { c with fl := 0x300 })).ready 5 0x15 twoSlots .binary ≠ none
    ∧ ((running.setCtx false (fun c => { c with fl := 0x300 })).ready 5 0x15 twoSlots .binary).any
        (fun r => r.flag 8 && r.flag 9 && stackOk r.run && decide (r.b = 0)) = true := by decide +kernel
theorem wit_system : (List.range 11).all (fun k => decide (k = 5 ∨ k = 6) || (running.ready 5 0 (withSub noOperand k) .single).isSome) = true := by
  decide +kernel
theorem wit_system_stride : ([1, 2, 9] : List Nat).all (fun k => (striding.ready 5 0 (withSub noOperand k) .single).any
    (fun r => r.str && stackOk r.run)) = true := by decide +kernel
theorem wit_return : (running.ready 5 0 (withSub noOperand 4) .single).any (fun r => !(r.run.load r.run.ctx.sp 4).2.quit) = true := by decide +kernel
theorem wit_undefined : running.front 5 1 = some false ∧ canFetch (0x100 % 2 ^ 32) = true
    ∧ ([4, 8, 12] : List Nat).all (fun k => !isPage ((0x120000 + 2 ^ 32 - k) % 2 ^ 32)) = true := by decide +kernel
theorem wit_event :
    let s := (running.put (PAC.LVL 0) 3).put (Hdr.EVT 0) 1
    let s := (s.put (Hdr.EVTEN 0) 1).setCtx false (fun c => { c with fl := 0x8000 })
    s.boot.phase = .done ∧ s.get DBG.HALTED = 0 ∧ s.stride.started = false ∧ s.pac.started = true ∧ s.pac.svc.stopped = false
      ∧ s.pac.mismatch = false ∧ s.pac.replAt = [] ∧ bitAt s.pac.svc.fl 15 = true ∧ s.pac.svc.sp % 4 = 0 ∧ s.pac.svc.sp ≤ 0x180000 := by
  decide +kernel
theorem wit_safe_trap :
    let s := { running with pac := { running.pac with safePend := true } }
    s.pac.safePend = true ∧ s.pac.started = true ∧ s.pwr.state = .run ∧ s.stride.started = false := by decide +kernel
theorem wit_prefix : (running.front 5 2 = some false ∧ fetchFault 0x100 1 none = none ∧ fetchFault 0x102 3 none = none)
    ∧ (decodePac 0 (withSub noOperand 5)).2.toOption.isSome = true ∧ (decodePac 0 (withSub noOperand 6)).2.toOption.isSome = true
    ∧ (decodePac 1 twoSlots).2.toOption.isSome = true ∧ (running.setCtx false (fun c => { c with rc := 256 })).pac.svc.rc = 256 := by decide +kernel
theorem wit_exposures :
    let s := (awake.put (LSWC.EN 3) 1).put (LSWC.SRC 3) 1
    s.flag (LSWC.EN 3) = true ∧ s.get (LSWC.SRC 3) < 2 ∧ (true != s.flag (LSWC.POL 3)) ≠ (s.strobe 3).level
      ∧ (false != s.flag (LSWC.POL 3)) ≠ ((s.setStrobe 3 (fun x => { x with level := true })).strobe 3).level := by decide +kernel
theorem wit_schedule : ((awake.put (LSWC.SRC 0) 2).put (LSWC.PER 0) 1).schedHits 0 1000 = true ∧ awake.schedHits 0 0 = false
    ∧ (awake.put TSY.LOCK 1).get TSY.LOCK = 1 ∧ awake.get TSY.LOCK = 0 := by decide +kernel
theorem wit_pulses :
    let s := awake.setStrobe 3 (fun x => { x with due := [5] })
    (s.strobe 3).due.head? = some 5 ∧ (awake.strobe 3).due = [] ∧ (dueAt (.pulseEnd 55)).due (.pulseEnd 55) = some 500
      ∧ (dueAt (.lateMax 55)).due (.lateMax 55) = some 500 ∧ awake.groupPeriod 0 = none
      ∧ ((awake.put (LSWC.SRC 0) 2).groupPeriod 0).isSome = true := by decide +kernel
theorem wit_waiting_pulse :
    let s := { awake with msh := { awake.msh with late := [(55, 3)] } }
    s.msh.late.head? = some (55, 3) ∧ s.msh.late.length = 1 ∧ awake.msh.late = [] := by decide +kernel
theorem wit_temperatures : (List.range 2).all (fun d => allUnits.any (fun u => decide (udie u = d)) && allUnits.any (fun u => decide (udie u ≠ d))) = true
    ∧ ((inPhase (.ls 55) .on).phase (.ls 55)).conducts = true ∧ ((inPhase (.ls 55) .on).out (.ls 55)).revOn = false
    ∧ (inPhase (.ls 55) .on).phase ((inPhase (.ls 55) .on).master (.ls 55)) ≠ .failsafe
    ∧ ((awake.phase (.ls 55)).conducts = false ∧ ((awake.put (LSW.LATCH 55) 1).get (fLatch (.ls 55)) = 1)) := by decide +kernel
theorem wit_hot_reference : (inPhase (.ls 55) .start).phase (.ls 55) = .start
    ∧ (inPhase (.ls 55) .start).phase ((inPhase (.ls 55) .start).master (.ls 55)) = .start := by decide +kernel
theorem wit_sense :
    let s := (inPhase (.ls 55) .on).setOut (.ls 55) (fun o => { o with ronDue := true, since := 0 })
    (s.out (.ls 55)).ronDue = true ∧ s.phase (.ls 55) = .on ∧ (s.out (.ls 55)).since + ms 2 ≤ 2000000 ∧ s.get (LSW.LIMITING 55) = 0
      ∧ s.lsMode 55 = 0 ∧ s.steadyLimit 55 ≤ 40 * (s.steadyLimit 55 / 10) := by decide +kernel
theorem wit_stops :
    let s := awake.put (Hdr.STOPPING 0x51) 1
    s.get (Hdr.STOPPING 0x51) = 1 ∧ s.pageStops 0x51 = false ∧ 0x51 ∉ s.resetWait ∧ awake.get (Hdr.STOPPING 0x51) = 0
      ∧ ((inPhase (.ls 0) .stopping).put (Hdr.STOPPING 0x10) 1).pageStops 0x10 = true := by decide +kernel
theorem wit_scan_stops :
    let s := { awake.put (Hdr.STOPPING 0x21) 1 with scan := { awake.scan with scanning := true, slotAt := 7, slotLen := 100 } }
    s.get (Hdr.STOPPING 0x21) = 1 ∧ 0x21 ∉ s.resetWait ∧ s.scan.scanning = true ∧ s.scan.slotAt + s.scan.slotLen ≤ 107
      ∧ 106 < s.scan.slotAt + s.scan.slotLen := by decide +kernel
theorem wit_can_stops :
    let s := (awake.put (Hdr.STOPPING 0x37) 1).put (CAN.STATE 7) 6
    s.get (CAN.STATE 7) = 6 ∧ s.get (Hdr.STOPPING 0x37) = 1 ∧ s.get (Hdr.PENDEN 0x37) = 0 ∧ s.get (Hdr.EN 0x37) = 0 := by decide +kernel
theorem wit_monitor : awake.pwr.state = .run ∧ awake.ageing.nextAt ≤ awake.get AGE.MINUTES
    ∧ { awake with ageing := { awake.ageing with nextAt := 60 } }.get AGE.MINUTES < 60
    ∧ { awake with pwr := { awake.pwr with state := .park } }.pwr.state = .park := by decide +kernel
/-- A controller that takes part in frames, with a frame queued. -/
def offering : State :=
  (awake.put (CAN.STATE 7) 2).setCan 7 (fun c => { c with enq0 := [3] })
theorem wit_can_frames : offering.get (CAN.STATE 7) = 2 ∧ offering.get CLK.FAILWAIT = 0 ∧ awake.get (CAN.STATE 7) ≠ 2 ∧ awake.get (CAN.STATE 7) ≠ 3
    ∧ awake.get (CAN.STATE 7) ≠ 6 ∧ (awake.put (CAN.STATE 7) 2).txChoice 7 5 = none := by decide +kernel
theorem wit_can_choice : offering.txChoice 7 5 = some 0 := by decide +kernel
theorem wit_can_states : (awake.put (CAN.STATE 7) 1).get (CAN.STATE 7) = 1 ∧ (awake.put (CAN.STATE 7) 5).get (CAN.STATE 7) = 5
    ∧ (dueAt (.canStop 7)).due (.canStop 7) = some 500 ∧ (dueAt (.nmKeep 7)).due (.nmKeep 7) = some 500
    ∧ (dueAt (.nmRepeat 7)).due (.nmRepeat 7) = some 500 ∧ (dueAt (.nmTimeout 7)).due (.nmTimeout 7) = some 500
    ∧ (dueAt (.nmWait 7)).due (.nmWait 7) = some 500 ∧ (dueAt (.falseStart 7)).due (.falseStart 7) = some 500
    ∧ (dueAt (.maskHold 7)).due (.maskHold 7) = some 500 := by decide +kernel
theorem wit_wakes : ((awake.put (NMK.STATE 7) 5).put (NMK.WAKEEN 7) 1).wakeWatched 7 = true ∧ awake.wakeWatched 7 = false := by decide +kernel
/-- A ring member or leader whose clock is locked and which consents. -/
def ringing (pos st : Nat) : State :=
  ((((awake.put (Hdr.EN 0x3A) 1).put NMB.POS pos).put NMB.STATE st).put NMB.CONSENT 1).put TSY.LOCK 1
theorem wit_ring : (ringing 0 0).get (Hdr.EN 0x3A) = 1 ∧ (ringing 0 0).get NMB.POS = 0 ∧ (ringing 0 0).get NMB.STATE = 0
    ∧ (ringing 0 0).due .lapDelay = none ∧ (ringing 3 1).get NMB.POS ≠ 0 ∧ ((ringing 3 1).put NMB.CONSENT 0).get NMB.CONSENT ≠ 1
    ∧ (List.range 8).all (fun x => decide (bitAt ((ringing 0 0).get NMK.SLPSET) x = false)) = true
    ∧ (dueAt .resend).due .resend = some 500 ∧ (dueAt .lap).due .lap = some 500 ∧ (dueAt .commitTo).due .commitTo = some 500 := by decide +kernel
theorem wit_clock_start :
    let s := { dueAt .xstart with boot := { awake.boot with phase := .clock } }
    s.due .xstart = some 500 ∧ s.boot.phase = .clock ∧ (dueAt .xstart).boot.phase ≠ .clock
      ∧ ((s.put CLK.XOK 1).put CLK.LOCK 0).get CLK.XOK = 1 ∧ ((s.put CLK.XOK 1).put CLK.LOCK 0).get CLK.LOCK = 0 := by decide +kernel
theorem wit_clocks : (awake.put CLK.XOK 1).get CLK.XOK = 1 ∧ awake.get CLK.FAILWAIT = 0 ∧ (awake.put CLK.RAMPSTEP 4).get CLK.RAMPSTEP ≠ 0
    ∧ awake.get CLK.ROOTSRC ≠ 3 ∧ (awake.put CLK.ROOTSRC 3).get CLK.ROOTSRC = 3 ∧ (dueAt .holdover).due .holdover = some 500
    ∧ (awake.put CLK.LPACT 1).get CLK.LPACT = 1 ∧ (dueAt .clockWait).due .clockWait = some 500 ∧ (dueAt .clockWait).nvBusy = false
    ∧ (dueAt .xretry).due .xretry = some 500 ∧ (dueAt .rclk).due .rclk = some 500 ∧ (awake.put CLK.LPSRC 1).get CLK.LPSRC = 1
    ∧ awake.due .lpxoRetry = none ∧ (dueAt .lpxoRetry).due .lpxoRetry = some 500 := by decide +kernel
/-- A part in a power state. -/
def inPower (p : PwrState) : State := { awake with pwr := { awake.pwr with state := p, wakes := 1 } }
theorem wit_quiesce : (dueAt .quiesce).due .quiesce = some 500 ∧ awake.due .quiesce = none ∧ awake.boot.nv = none
    ∧ (inPower .doze).pwr.state = .doze ∧ ((inPower .doze).put PWR.WAKEFLAG 1).get PWR.WAKEFLAG ≠ 0 := by decide +kernel
theorem wit_cooldown : (dueAt .coolArm).due .coolArm = some 500 ∧ (dueAt .coolTo).due .coolTo = some 500
    ∧ (let s := { inPower .cooldown with stride := { awake.stride with running := false } }
       s.pwr.state = .cooldown ∧ s.stride.running = false
         ∧ allUnits.all (fun u => !(s.phase u).conducts && !(s.phase u == .stopping || s.phase u == .revbrk || s.phase u == .parking)) = true)
    ∧ (inPower .flush).pwr.state = .flush ∧ (inPower .flush).book.flush = none := by decide +kernel
theorem wit_wake_sources : bitAt ((awake.put PWR.EN 0x80).get PWR.EN) 7 = true ∧ (dueAt .wake).due .wake = some 500
    ∧ (inPower .park).pwr.state = .park ∧ (inPower .park).pwr.wakes ≠ 0 ∧ (dueAt .pg).due .pg = some 500
    ∧ (inPower .waking).pwr.state = .waking ∧ { awake.pwr with regen := true }.regen = true := by decide +kernel
theorem wit_regulator :
    let s := { awake with pwr := { awake.pwr with regOk := true, reg := [{ volt := 720, use := 1, tries := 0 }] } }
    s.pwr.regOk = true ∧ s.get PWR.REGBUSY = 0 ∧ s.pwr.reg ≠ [] ∧ (dueAt .regSettle).due .regSettle = some 500
      ∧ (dueAt .regRetry).due .regRetry = some 500 ∧ (dueAt .regTimeout).due .regTimeout = some 500 := by decide +kernel
theorem wit_supplies : awake.boot.phase ≠ .held ∧ awake.pwr.state = .run ∧ (inPower .doze).pwr.state = .doze := by decide +kernel
theorem wit_resets : awake.pwr.state ≠ .park ∧ (dueAt .resetHold).due .resetHold = some 500 ∧ awake.due .resetHold = none
    ∧ ¬ awake.boot.phase = .held ∧ (4 : Nat) < 0x52 := by decide +kernel
/-- A part in a phase of Warm-up. -/
def warming (p : BootPhase) : State := { awake with boot := { awake.boot with phase := p } }
theorem wit_programs :
    let s := { awake with boot := { awake.boot with nv := some (0x800000, []) } }
    s.boot.nv = some (0x800000, []) ∧ s.boot.want = none ∧ { s.boot with want := some (9, 0) }.want = some (9, 0) ∧ awake.boot.nv = none := by
  decide +kernel
theorem wit_warm_up : (warming .rom).boot.phase = .rom ∧ (dueAt .dwell).due .dwell = some 500 ∧ (dueAt .dwell).get CLK.RAMPSTEP < 3
    ∧ (((warming .clock).arm .dwell 500).put CLK.RAMPSTEP 3).get CLK.RAMPSTEP = 3 ∧ (warming .verify).boot.phase = .verify
    ∧ (warming .failed).boot.phase = .failed ∧ ((warming .verified).put BOOT.CAUSE 4).get BOOT.CAUSE = 4 := by decide +kernel
theorem wit_port : awake.portLives = true ∧ awake.boot.field = false ∧ (inPower .park).portLives = false
    ∧ { awake.boot with field := true }.field = true := by decide +kernel
theorem wit_debug_access : isPage 0x40000000 = true ∧ pagePresent 0 = true ∧ isPage 0 = false ∧ readable 0 = true ∧ writableMem 0x100000 = true := by
  decide +kernel
theorem wit_debug_control : awake.pwr.state ≠ .park ∧ awake.get DBG.HALTED = 0 ∧ awake.boot.phase = .done ∧ awake.nvBusy = false
    ∧ ((inPower .park).put PWR.DBGEN 1).get PWR.DBGEN = 1 := by decide +kernel
theorem wit_debounced :
    let s := (((awake.put (Hdr.EN 0x25) 1).put (DIN.VALID 63) 1).setDin 63 (fun d => { d with run := some 0 }))
    let w := { s with stride := { s.stride with nextTick := 2 ^ 40 } }
    w.dinRuns 63 = true ∧ w.debEnds 63 0 ≤ us (w.get (DIN.DEB 63)) ∧ w.tickPast (w.debEnds 63 0) = false
      ∧ s.tickPast (s.debEnds 63 0) = true := by decide +kernel
theorem wit_wetting : ((awake.put (DIN.PW 1) 2).put (DIN.PER 1) 1).wetSample 1 0 = true ∧ (awake.put (DIN.PW 1) 5).wetSample 1 0 = false := by
  decide +kernel
theorem wit_timer_edges :
    let s := (((awake.put (Hdr.EN 0x2B) 1).put (TMR.SRC 3) 4).put (TMR.TIN 3) 7).setTmr 3 (fun r => { r with run := true })
    s.get (TMR.SRC 3) = 4 ∧ s.get (TMR.TIN 3) = 7 ∧ edgeTaken (s.get (TMR.EDGE 3)) true = true ∧ s.tmrCounts 3 5 = true
      ∧ s.tmrRestarted 3 5 = false ∧ s.tickPast (5 - 8) = false ∧ s.tickPast 5000 = true := by decide +kernel
theorem wit_double_sag : (some (-5 : Int)).any (fun p => decide (p < Int.ofNat (awake.get MSH.VSAG))) = true ∧ awake.get MSH.VSAG ≠ 0 := by decide +kernel
theorem wit_ripples :
    let s := ((awake.put (HB.RIPEN 11) 1).put (HB.RIPMIN 11) 7).put (HB.IOUT 11) (2 ^ 16 - 7)
    let l := 1000000
    s.flag (HB.RIPEN 11) = true ∧ s.get (HB.RIPMIN 11) ≤ (s.signed (HB.IOUT 11)).natAbs ∧ l + us 200 - 1 < l + us 200 ∧ ¬ l + us 200 < l + us 200
      ∧ ¬ l + ms 50 < l + ms 50 ∧ l + ms 50 < l + ms 50 + 1
      ∧ ¬ (s.put (HB.RIPMIN 11) 8).get (HB.RIPMIN 11) ≤ (s.signed (HB.IOUT 11)).natAbs := by decide +kernel
theorem wit_stalled : (inPhase (.hb 11) .stalled).phase (.hb 11) = .stalled ∧ ((inPhase (.hb 11) .stalled).bridge 11).cut = false
    ∧ (((inPhase (.hb 11) .stalled).setBridge 11 (fun b => { b with cut := true })).bridge 11).cut = true := by decide +kernel
theorem wit_pulse_lock :
    let s := awake.put (LSWC.SRC 3) 2
    ¬ (s.get (LSWC.SRC 3) ≠ 2 ∨ s.get TSY.LOCK = 1) ∧ (s.put TSY.LOCK 1).get TSY.LOCK = 1 ∧ awake.get (LSWC.SRC 3) ≠ 2 := by decide +kernel
theorem wit_false_starts : (awake.pwr.state ≠ .park ∧ awake.goesDown = false ∧ awake.due (.falseStart 7) = none) ∧ (inPower .park).pwr.state = .park
    ∧ (awake.setNm 7 (fun n => { n with pend := true, later := [9] })).nm 7 = { awake.nm 7 with pend := true, later := [9] } := by decide +kernel
theorem wit_late_capture : awake.tickPast 5000 = true ∧ awake.tickPast 5 = false := by decide +kernel
/-- Cells of an image header with one empty segment; its hash and signature are for constants of Config to accept. -/
def header : List Host.Cell :=
  [(0x10000000, 0x53), (0x10000001, 0x5A), (0x10000002, 0x57), (0x10000003, 0x46), (0x10000004, 1), (0x10000007, 1), (0x10000014, 1)]
theorem wit_firmware :
    let s := { warming .verify with mem := header }
    s.boot.phase = .verify ∧ s.fwHeaderOk (fwImage 0) = true ∧ s.fwHeaderOk (fwImage 1) = false ∧ ¬ s.le (fwImage 0 + 0xC) 1 < s.boot.svmin
      ∧ { s.boot with svmin := 1 }.svmin = 1 := by decide +kernel

end Sys2Proof.Tests
end

/-! SUPPORT. What a register write of the Pacer leaves of the Pacer's contexts: everything, unless it resets the device. -/
namespace Sys2Proof.Machine

/-- A reset holds the device. -/
def State.Held (s : State) : Prop := s.boot.phase = .held

/-- Unless a reset holds the device, the registers of both contexts are those that `p` holds. -/
def CtxsOf (p : PacSt) (s : State) : Prop := s.Held ∨ s.pac.svc = p.svc ∧ s.pac.str = p.str

/-- The write is none for which a context of the Pacer lacks the privilege: of RDATA or of RPLCTRL (R106, R654). -/
def Wr.OfPacer (w : Wr) : Prop := ¬ (w.p = 0x50 ∧ w.off = 0x114) ∧ ¬ (w.p = 0x09 ∧ w.off = 0x160)

theorem State.assertReset_held (s : State) (cause src t : Nat) : (s.assertReset cause src t).Held := by
  have hr : Blind.regs State.Held := fun _ _ _ h => h
  unfold State.assertReset
  refine ite_keeps ?_ (State.count_keeps hr ?_ _ _)
  all_goals
    refine State.put_keeps hr (State.put_keeps hr (State.put_keeps hr ?_ _ _) _ _) _ _
    refine foldl_keeps (foldl_keeps (foldl_keeps ?_ fun s x h => ?_) fun s x h => ?_) fun s x h => ?_
    · rfl
    all_goals exact State.put_keeps hr h _ _

section
variable {p : PacSt} {s : State}

theorem CtxsOf.boot {b : BootSt} (h : CtxsOf p s) (hb : b.phase = s.boot.phase) : CtxsOf p { s with boot := b } :=
  h.imp hb.trans id

theorem CtxsOf.deviceReset (h : CtxsOf p s) (cause src t : Nat) : CtxsOf p (s.deviceReset cause src t) := by
  have ha := s.assertReset_held cause src t
  unfold State.deviceReset
  exact ite_keeps (h.boot rfl) (ite_keeps (.inl ha) (.inl ha))

theorem CtxsOf.resetAwaited (h : CtxsOf p s) (t : Nat) : CtxsOf p (s.resetAwaited t) := by
  unfold State.resetAwaited
  split
  · exact h
  · exact ite_keeps h (ite_keeps (.inl (s.assertReset_held _ _ _)) (.inl (s.assertReset_held _ _ _)))

theorem CtxsOf.pageClear (h : CtxsOf p s) (q t : Nat) : CtxsOf p (s.pageClear q t) := by
  have hw : Blind.resetWait (CtxsOf p) := fun _ _ h => h
  unfold State.pageClear
  repeat' (first | with_reducible assumption | with_reducible apply ite_keeps | with_reducible refine foldl_keeps ?_ fun _ _ _ => ?_
                 | with_reducible apply State.unitReset_keeps | with_reducible apply State.clearHidden_keeps
                 | with_reducible apply State.restoreRegs_keeps | with_reducible apply State.pageStart_keeps
                 | with_reducible apply State.swFree_keeps | with_reducible apply hw
                 | (exact fun _ _ h => h) | (exact fun _ _ _ h => h))

theorem CtxsOf.pageStopped (h : CtxsOf p s) (q t : Nat) : CtxsOf p (s.pageStopped q t) := by
  unfold State.pageStopped
  repeat' (first | with_reducible assumption | with_reducible apply ite_keeps | with_reducible apply CtxsOf.pageClear
                 | with_reducible apply State.pageStart_keeps | with_reducible apply State.put_keeps
                 | (exact fun _ _ h => h) | (exact fun _ _ _ h => h))

theorem CtxsOf.pageReset (h : CtxsOf p s) (q t : Nat) : CtxsOf p (s.pageReset q t) := by
  have hw : Blind.resetWait (CtxsOf p) := fun _ _ h => h
  unfold State.pageReset
  repeat' (first | with_reducible assumption | with_reducible apply ite_keeps | with_reducible refine foldl_keeps ?_ fun _ _ _ => ?_
                 | with_reducible apply CtxsOf.pageStopped | with_reducible apply State.pageStop_keeps
                 | with_reducible apply State.fastDecay_keeps | with_reducible apply State.disarm_keeps
                 | with_reducible apply State.put_keeps | with_reducible apply hw
                 | (exact fun _ _ h => h) | (exact fun _ _ _ h => h))

theorem CtxsOf.clusterReset (h : CtxsOf p s) (c : Cluster) (t : Nat) : CtxsOf p (s.clusterReset c t) := by
  have hw : Blind.resetWait (CtxsOf p) := fun _ _ h => h
  unfold State.clusterReset
  repeat' (first | with_reducible assumption | with_reducible apply ite_keeps | with_reducible refine foldl_keeps ?_ fun _ _ _ => ?_
                 | with_reducible apply State.clearHidden_keeps | with_reducible apply State.restoreRegs_keeps
                 | with_reducible apply State.pageStart_keeps | with_reducible apply State.ringStop_keeps
                 | with_reducible apply State.gmLoss_keeps | with_reducible apply State.swFree_keeps
                 | with_reducible apply State.dieFailsafe_keeps | with_reducible apply State.disarm_keeps
                 | with_reducible apply hw | (exact fun _ _ h => h) | (exact fun _ _ _ h => h))

theorem CtxsOf.enterSafe (h : CtxsOf p s) (t : Nat) : CtxsOf p (s.enterSafe t) := by
  have hp : ∀ {x : State}, CtxsOf p x →
      CtxsOf p { x with pac := { x.pac with safePend := true }, stride := { x.stride with safeRel := false } } := fun h => h
  unfold State.enterSafe
  repeat' (first | with_reducible assumption | with_reducible apply ite_keeps | with_reducible refine foldl_keeps ?_ fun _ _ _ => ?_
                 | with_reducible apply State.dieFailsafe_keeps | with_reducible apply State.yieldOpen_keeps
                 | with_reducible apply State.yieldOnce_keeps | with_reducible apply State.evt_keeps
                 | with_reducible apply State.put_keeps | with_reducible apply hp
                 | (exact fun _ _ h => h) | (exact fun _ _ _ h => h))

theorem CtxsOf.fcrTake (h : CtxsOf p s) (src unit hurdle cls flags t : Nat) : CtxsOf p (s.fcrTake src unit hurdle cls flags t) := by
  unfold State.fcrTake
  repeat' (first | with_reducible assumption | with_reducible apply ite_keeps
                 | with_reducible apply CtxsOf.enterSafe | with_reducible apply State.fcrHold_keeps
                 | with_reducible apply State.fcrLog_keeps | with_reducible apply State.setFcr_keeps
                 | with_reducible apply CtxsOf.resetAwaited | with_reducible apply CtxsOf.deviceReset
                 | with_reducible apply CtxsOf.clusterReset | with_reducible apply State.recEvent_keeps
                 | with_reducible apply State.evt_keeps | with_reducible apply State.put_keeps
                 | (exact fun _ _ h => h) | (exact fun _ _ _ h => h) | split)

theorem CtxsOf.graceEnd (h : CtxsOf p s) (i t : Nat) : CtxsOf p (s.graceEnd i t) := by
  unfold State.graceEnd
  split
  · exact (State.evt_keeps (fun _ _ _ h => h) h _ _ : CtxsOf p _).fcrTake _ _ _ _ _ _
  · exact h

theorem CtxsOf.gracePast (h : CtxsOf p s) (i t : Nat) : CtxsOf p (s.gracePast i t) := by
  unfold State.gracePast
  split
  · exact ite_keeps (State.onExpiry_keeps (fun _ _ h => h) (fun _ _ _ h => h) h _ _ fun _ _ h => h.graceEnd _ _) h
  · exact h

theorem CtxsOf.fcrAck (h : CtxsOf p s) (i t : Nat) : CtxsOf p (s.fcrAck i t) := by
  have hg := h.gracePast i t
  exact ite_keeps (State.setFcr_keeps (fun _ _ h => h) (State.disarm_keeps (fun _ _ h => h)
    (State.put_keeps (fun _ _ _ h => h) hg _ _) _) _) hg

theorem CtxsOf.fcrClear (h : CtxsOf p s) (i t : Nat) : CtxsOf p (s.fcrClear i t) := by
  have hg := h.gracePast i t
  unfold State.fcrClear
  repeat' (first | with_reducible assumption | with_reducible apply State.holdsEnd_keeps
                 | with_reducible apply State.setFcr_keeps | with_reducible apply State.disarm_keeps
                 | with_reducible apply State.put_keeps | (exact fun _ _ h => h) | (exact fun _ _ _ h => h))

theorem CtxsOf.ctrlWrite (h : CtxsOf p s) (w : Wr) : CtxsOf p (s.ctrlWrite w) := by
  unfold State.ctrlWrite
  repeat' (first | with_reducible assumption | with_reducible apply ite_keeps
                 | with_reducible apply CtxsOf.deviceReset | with_reducible apply CtxsOf.pageReset
                 | with_reducible apply State.pageEnable_keeps | with_reducible apply State.put_keeps
                 | with_reducible apply State.wr_keeps | (exact fun _ _ h => h) | (exact fun _ _ _ h => h))

theorem CtxsOf.nvGo (h : CtxsOf p s) : CtxsOf p s.nvGo := h

theorem CtxsOf.svCommit (h : CtxsOf p s) : CtxsOf p s.svCommit := h

theorem CtxsOf.toField (h : CtxsOf p s) (t : Nat) : CtxsOf p (s.toField t) := CtxsOf.deviceReset (by exact h) _ _ _

theorem CtxsOf.devEffect (h : CtxsOf p s) {w : Wr} (hw : w.OfPacer) : CtxsOf p (s.devEffect w) := by
  obtain ⟨h50, h09⟩ := hw
  have hs : Blind.stg (CtxsOf p) := fun _ _ h => h
  have h09 : w.p = 0x09 → w.off ≠ 0x160 := fun hp ho => h09 ⟨hp, ho⟩
  unfold State.devEffect
  rw [if_neg h50]
  by_cases h9 : w.p = 0x09
  · simp only [h9, h09 h9, Nat.reduceEqDiff, reduceIte]
    have hp : CtxsOf p (s.put STR.LENPEND 1) := h
    exact ite_keeps (ite_keeps (State.planTick_keeps (fun _ _ h => h) hp _) hp) h
  · rw [if_neg h9]
    repeat' (first | with_reducible assumption | with_reducible apply ite_keeps
                   | with_reducible refine foldl_keeps ?_ fun _ _ _ => ?_
                   | with_reducible apply State.pushWrite_keeps
                   | with_reducible apply CtxsOf.toField | with_reducible apply CtxsOf.svCommit
                   | with_reducible apply CtxsOf.nvGo | with_reducible apply State.mmClear_keeps
                   | with_reducible apply State.wakeTimer_keeps | with_reducible apply State.refSelect_keeps
                   | with_reducible apply State.lpConfig_keeps | with_reducible apply State.qFlush_keeps
                   | with_reducible apply State.qAdvance_keeps | with_reducible apply State.setLatch_keeps
                   | with_reducible apply State.detect_keeps | with_reducible apply State.arm_keeps
                   | with_reducible apply State.disarm_keeps | with_reducible apply State.evt_keeps
                   | with_reducible apply State.put_keeps
                   | (exact fun _ _ h => h) | (exact fun _ _ _ h => h) | dsimp only | split | with_reducible apply hs)

theorem CtxsOf.safeEffect (h : CtxsOf p s) (w : Wr) : CtxsOf p (s.safeEffect w) := by
  unfold State.safeEffect
  repeat' (first | with_reducible assumption | with_reducible apply ite_keeps
                 | with_reducible apply State.setStride_keeps | with_reducible apply CtxsOf.fcrClear
                 | with_reducible apply State.fcrUnhold_keeps | with_reducible apply CtxsOf.fcrAck
                 | with_reducible apply State.recWipe_keeps | with_reducible apply State.flushTrigger_keeps
                 | with_reducible apply State.feedClear_keeps | with_reducible apply State.feedPut_keeps
                 | with_reducible apply State.recPut_keeps | with_reducible apply State.vltStart_keeps
                 | with_reducible apply State.setLe_keeps | with_reducible apply State.put_keeps
                 | (exact fun _ _ h => h) | (exact fun _ _ _ h => h) | split)

theorem CtxsOf.landed (h : CtxsOf p s) {w : Wr} (hw : w.OfPacer) : CtxsOf p (s.landed w) := by
  have hc : ∀ u mask t x, s.clearFaults u mask t = some x → CtxsOf p x :=
    State.clearFaults_keeps (fun _ _ _ h => h) (fun _ _ _ h => h) (fun _ _ h => h) (fun _ _ h => h) (fun _ _ h => h) (fun _ _ h => h)
      (fun _ _ h => h) (fun _ _ h => h) (fun _ _ h => h) (fun _ _ h => h) (fun _ _ _ h => h) h
  unfold State.landed
  repeat' (first | with_reducible assumption | with_reducible apply ite_keeps | with_reducible exact getD_keeps h (hc _ _ _)
                 | with_reducible apply State.land_keeps | with_reducible apply State.ioEffect_keeps
                 | with_reducible apply State.netEffect_keeps | with_reducible apply CtxsOf.safeEffect
                 | with_reducible apply CtxsOf.devEffect | with_reducible apply CtxsOf.ctrlWrite
                 | with_reducible apply State.lockKey_keeps
                 | (exact fun _ _ h => h) | (exact fun _ _ _ h => h) | split)

/-! Accesses of the Pacer. -/

theorem State.lacksPriv_of_refusal_none {w : Wr} (h : s.refusal w = none) : s.lacksPriv w.src w.p w.off = false := by
  unfold State.refusal at h
  cases hl : s.lacksPriv w.src w.p w.off
  · rfl
  · simp only [hl, if_true] at h
    split at h
    · cases h
    · split at h <;> cases h

theorem State.ofPacer_of_refusal_none {w : Wr} {r : Run} (hs : w.src = r.source) (h : s.refusal w = none) : w.OfPacer := by
  have hl := State.lacksPriv_of_refusal_none h
  rw [hs] at hl
  constructor
  · rintro ⟨hp, ho⟩
    cases hr : r.str <;> simp [State.lacksPriv, Run.source, hp, ho, hr] at hl
  · rintro ⟨hp, ho⟩
    cases hr : r.str <;> simp [State.lacksPriv, State.factoryOnly, Run.source, hp, ho, hr] at hl

theorem CtxsOf.busWrite (h : CtxsOf p s) (r : Run) (q off : Nat) (v m : Word) (t : Nat) :
    CtxsOf p (s.busWrite r.source q off v m t).1 := by
  have hr : CtxsOf p (s.reach t) := h
  unfold State.busWrite
  dsimp only
  split
  · exact h
  · split
    · exact State.reject_keeps (fun _ _ _ h => h) (fun _ _ _ h => h) (fun _ _ h => h) hr _ _
    · rename_i hn
      exact hr.landed (State.ofPacer_of_refusal_none rfl hn)

theorem CtxsOf.poke (h : CtxsOf p s) (r : Run) (a size v t : Nat) :
    ∀ x, s.poke r.source a size v t = some x → CtxsOf p x.1 := by
  intro x hx
  unfold State.poke at hx
  repeat' (split at hx)
  all_goals cases hx
  · exact h.busWrite r _ _ _ _ _
  · exact h
  · exact h

end

end Sys2Proof.Machine

namespace Sys2Proof.Machine

/-! SUPPORT. An instruction under way: what its accesses leave, and the flags of its result. -/

/-- What the accesses of an instruction leave of it. -/
structure Run.Alike (q r : Run) : Prop where
  str : q.str = r.str
  npc : q.npc = r.npc
  mis : q.mis = r.mis
  post : q.post = r.post

theorem Run.Alike.refl (r : Run) : r.Alike r := ⟨rfl, rfl, rfl, rfl⟩

theorem Run.Alike.trans {p q r : Run} (h : p.Alike q) (g : q.Alike r) : p.Alike r :=
  ⟨h.str.trans g.str, h.npc.trans g.npc, h.mis.trans g.mis, h.post.trans g.post⟩

theorem Run.fail_alike (r : Run) (v : Nat) : (r.fail v).Alike r := by
  unfold Run.fail
  split <;> exact ⟨rfl, rfl, rfl, rfl⟩

theorem Run.load_alike (r : Run) (a size : Nat) : (r.load a size).2.Alike r := by
  unfold Run.load
  dsimp only
  repeat' split
  · exact .refl r
  · exact ⟨rfl, rfl, rfl, rfl⟩
  · exact (Run.fail_alike _ _).trans ⟨rfl, rfl, rfl, rfl⟩
  · exact (Run.fail_alike _ _).trans ⟨rfl, rfl, rfl, rfl⟩
  · exact (Run.fail_alike _ _).trans ⟨rfl, rfl, rfl, rfl⟩
  · exact ⟨rfl, rfl, rfl, rfl⟩

theorem Run.save_alike (r : Run) (a size v : Nat) : (r.save a size v).Alike r := by
  unfold Run.save
  dsimp only
  repeat' split
  · exact .refl r
  · exact ⟨rfl, rfl, rfl, rfl⟩
  · exact (Run.fail_alike _ _).trans ⟨rfl, rfl, rfl, rfl⟩
  · exact (Run.fail_alike _ _).trans ⟨rfl, rfl, rfl, rfl⟩
  · exact ⟨rfl, rfl, rfl, rfl⟩

theorem Run.address_alike (r : Run) (o : Opd) (size : Nat) : (r.address o size).2.Alike r := by
  unfold Run.address
  dsimp only
  split
  any_goals exact Run.Alike.refl r
  · exact r.load_alike _ _
  · exact (Run.save_alike _ _ _ _).trans (r.load_alike _ _)
  · exact (Run.save_alike _ _ _ _).trans (r.load_alike _ _)
  · exact (Run.load_alike _ _ _).trans (r.load_alike _ _)

theorem Run.operand_alike (r : Run) (role : Role) (size : Nat) (o : Opd) : (r.operand role size o).2.Alike r := by
  have ha := r.address_alike o size
  unfold Run.operand
  dsimp only
  split
  · exact Run.Alike.refl r
  · cases role
    case dst | addr => exact ha
    case src | rw => exact (Run.load_alike _ _ _).trans ha
    case target =>
      dsimp only
      split
      · exact ha
      · exact (Run.load_alike _ _ _).trans ha

theorem Run.operands_alike (os : List (Role × Nat × Opd)) (r : Run) : (r.operands os).2.Alike r := by
  induction os generalizing r with
  | nil => exact Run.Alike.refl r
  | cons o os ih => exact (ih _).trans (r.operand_alike _ _ _)

theorem Run.put_alike (r : Run) (g : Got) (v : Nat) : (r.put g v).Alike r := by
  unfold Run.put
  repeat' split
  · exact Run.Alike.refl r
  · exact ⟨rfl, rfl, rfl, rfl⟩
  · exact r.fail_alike _
  · exact r.save_alike _ _ _

theorem Run.fail_quit (r : Run) (v : Nat) : (r.fail v).quit = true := by
  unfold Run.fail
  split
  · assumption
  · rfl

/-- An instruction that goes on after a store finds its context as it was. -/
theorem Run.save_ctx {r : Run} {a size v : Nat} (h : (r.save a size v).quit = false) : (r.save a size v).ctx = r.ctx := by
  revert h
  unfold Run.save
  dsimp only
  split
  · exact fun _ => rfl
  split
  · exact fun h => absurd h (by simp [Run.split, Run.quit])
  split
  · exact fun h => absurd h (by rw [Run.fail_quit]; decide)
  split
  · exact fun h => absurd h (by rw [Run.fail_quit]; decide)
  · rename_i u c hp
    intro h
    simp only [Run.quit, Bool.or_eq_false_iff, decide_eq_false_iff_not, not_not] at h
    rcases CtxsOf.poke (p := r.st.pac) (.inr ⟨rfl, rfl⟩) _ _ _ _ _ _ hp with hh | ⟨hv, ht⟩
    · rw [State.Held, h.2] at hh; cases hh
    · dsimp only at hv ht
      simp only [Run.ctx, State.ctx, hv, ht]

theorem CtxSt.setSpecial_fl (c : CtxSt) (n v : Nat) : (c.setSpecial n v).fl = if n = 4 then v else c.fl := by
  unfold CtxSt.setSpecial
  split <;> simp_all

/-- An instruction that goes on after its destination is written finds FL as it was, or as written where FL is the destination. -/
theorem Run.put_fl {r : Run} {g : Got} {v : Nat} (hr : r.quit = false) (h : (r.put g v).quit = false) :
    (r.put g v).ctx.fl = if g.opd.mode = 0xC ∧ g.opd.nib = 4 then v else r.ctx.fl := by
  by_cases hm : g.opd.mode = 0xC
  · revert h
    simp only [Run.put, hm, hr, if_true, true_and, Bool.false_eq_true, if_false]
    split
    · exact fun _ => by simp [Run.ctx, Run.setCtx, State.ctx_setCtx, CtxSt.setSpecial_fl]
    · exact fun h => absurd h (by rw [Run.fail_quit]; decide)
  · simp only [Run.put, if_neg hm] at h ⊢
    simp [Run.save_ctx h, hm]

/-! FL after a result. -/

theorem setBit_testBit (v i j : Nat) : (setBit v i).testBit j = (decide (i = j) || v.testBit j) := by
  simp [setBit, Nat.one_shiftLeft, Nat.testBit_two_pow, Bool.or_comm]

theorem testBit_two_pow_add_of_lt {i j u : Nat} (h : i < j) (hu : u.testBit i = false) : (2 ^ i + u).testBit j = u.testBit j := by
  obtain ⟨k, rfl⟩ := Nat.exists_eq_add_of_lt h
  have hq : (2 ^ i + u) / 2 ^ (i + 1) = u / 2 ^ (i + 1) := by
    rw [Nat.testBit_eq_decide_div_mod_eq, decide_eq_false_iff_not] at hu
    rw [Nat.pow_succ, ← Nat.div_div_eq_div_mul, ← Nat.div_div_eq_div_mul, Nat.add_div_left _ (Nat.two_pow_pos i)]
    omega
  rw [show i + k + 1 = k + (i + 1) by omega, Nat.testBit_add, Nat.testBit_add, hq]

theorem clrBit_testBit (v i j : Nat) : (clrBit v i).testBit j = (!decide (i = j) && v.testBit j) := by
  unfold clrBit
  split
  · rename_i h
    obtain ⟨u, rfl⟩ := Nat.exists_eq_add_of_le (Nat.ge_two_pow_of_testBit h)
    have hu : u.testBit i = false := by simpa [Nat.testBit_two_pow_add_eq] using h
    rw [Nat.one_shiftLeft, Nat.add_sub_cancel_left]
    rcases Nat.lt_trichotomy i j with hj | rfl | hj
    · simp [testBit_two_pow_add_of_lt hj hu, hj.ne]
    · simp [hu]
    · simp [Nat.testBit_two_pow_add_gt hj, hj.ne']
  · by_cases h : i = j <;> simp_all

theorem flBit_testBit (fl i j : Nat) (b : Option Bool) : (flBit fl i b).testBit j = if i = j then b.getD (fl.testBit i) else fl.testBit j := by
  unfold flBit
  by_cases h : i = j <;> split <;> simp_all [setBit_testBit, clrBit_testBit]

/-- A result with its flags, as the arithmetic gives it. -/
def Effect.alu (w : Nat) (x : Effect) : Alu :=
  { val := x.val, n := some (bitAt x.val (w - 1)), z := some (decide (x.val = 0)), c := x.c, v := x.v, dz := x.dz }

/-- The trap that follows a result, where FL is `fl` (R143, R171 to R173). -/
def Effect.follows (x : Effect) (fl : Nat) : Option Nat :=
  if x.dz && bitAt fl 8 then some 8 else if x.v = some true && bitAt fl 9 then some 9 else none

@[simp] theorem Effect.alu_val (w : Nat) (x : Effect) : (x.alu w).val = x.val := rfl
@[simp] theorem Effect.alu_v (w : Nat) (x : Effect) : (x.alu w).v = x.v := rfl
@[simp] theorem Effect.alu_dz (w : Nat) (x : Effect) : (x.alu w).dz = x.dz := rfl

theorem Effect.flags_alu (w fl : Nat) (x : Effect) :
    (x.alu w).flags fl = flBit (flBit (flBit (flBit (flBit fl 0 (some (bitAt x.val (w - 1)))) 1 (some (decide (x.val = 0)))) 2 x.c) 3 x.v)
      4 (if x.dz then some true else none) := by
  cases h : x.dz <;> simp only [Alu.flags, Effect.alu_dz, h] <;> rfl

theorem Effect.flagsAre_flags (w fl : Nat) (x : Effect) : flagsAre w fl ((x.alu w).flags fl) x := by
  have bit := fun j => congrArg (fun n : Nat => n.testBit j) (Effect.flags_alu w fl x)
  simp only [flBit_testBit] at bit
  refine ⟨by simp [bitAt, bit], by simp [bitAt, bit], by simp [bitAt, bit], by simp [bitAt, bit], ?_, ?_⟩
  · cases h : x.dz <;> simp [bitAt, bit, h]
  · refine Nat.eq_of_testBit_eq fun i => ?_
    rw [show (32 : Nat) = 2 ^ 5 from rfl, ← Nat.testBit_add, ← Nat.testBit_add, bit]
    simp

/-- FL is set to `fl`, and the trap `post` is to follow. -/
def Run.withFlags (r : Run) (fl : Nat) (post : Option Nat) : Run := { r.setCtx (fun c => { c with fl := fl }) with post := post }

section
variable (r : Run) (fl : Nat) (post : Option Nat)

@[simp] theorem Run.withFlags_quit : (r.withFlags fl post).quit = r.quit := rfl
@[simp] theorem Run.withFlags_str : (r.withFlags fl post).str = r.str := rfl
@[simp] theorem Run.withFlags_npc : (r.withFlags fl post).npc = r.npc := rfl
@[simp] theorem Run.withFlags_mis : (r.withFlags fl post).mis = r.mis := rfl
@[simp] theorem Run.withFlags_post : (r.withFlags fl post).post = post := rfl
@[simp] theorem Run.withFlags_mem : (r.withFlags fl post).st.mem = r.st.mem := rfl
@[simp] theorem Run.withFlags_queues : (r.withFlags fl post).st.queues = r.st.queues := rfl
@[simp] theorem Run.withFlags_shadow : (r.withFlags fl post).st.shadow = r.st.shadow := rfl
@[simp] theorem Run.withFlags_ctx : (r.withFlags fl post).ctx = { r.ctx with fl := fl } :=
  (State.ctx_setCtx r.st r.str r.str _).trans (if_pos rfl)

end

theorem Run.flagged_alu {r : Run} (hp : r.post = none) (w : Nat) (x : Effect) :
    r.flagged (x.alu w) = r.withFlags ((x.alu w).flags r.ctx.fl) (x.follows r.ctx.fl) := by
  by_cases h8 : (x.dz && bitAt r.ctx.fl 8) = true
  · rw [show x.follows r.ctx.fl = some 8 from if_pos h8]
    exact if_pos h8
  · by_cases h9 : (decide (x.v = some true) && bitAt r.ctx.fl 9) = true
    · rw [show x.follows r.ctx.fl = some 9 from (if_neg h8).trans (if_pos h9)]
      exact (if_neg h8).trans (if_pos h9)
    · rw [show x.follows r.ctx.fl = r.post from (if_neg h8).trans ((if_neg h9).trans hp.symm)]
      exact (if_neg h8).trans (if_neg h9)

/-! The end of an instruction. -/

/-- The parts of the state that the end of an instruction leaves: memory, queues, shadows, and one context but for its pc. -/
structure State.Kept (s : State) (str : Bool) (c : CtxSt) (u : State) : Prop where
  mem : u.mem = s.mem
  queues : u.queues = s.queues
  shadow : u.shadow = s.shadow
  ctx : u.ctx str = c

@[simp] theorem State.pacHalt_mem (s : State) (ctx cause pc t : Nat) : (s.pacHalt ctx cause pc t).mem = s.mem := by
  unfold State.pacHalt; dsimp only; split <;> simp
@[simp] theorem State.pacHalt_queues (s : State) (ctx cause pc t : Nat) : (s.pacHalt ctx cause pc t).queues = s.queues := by
  unfold State.pacHalt; dsimp only; split <;> simp
@[simp] theorem State.pacHalt_shadow (s : State) (ctx cause pc t : Nat) : (s.pacHalt ctx cause pc t).shadow = s.shadow := by
  unfold State.pacHalt; dsimp only; split <;> simp
@[simp] theorem State.pacHalt_ctx (s : State) (ctx cause pc t : Nat) (str : Bool) : (s.pacHalt ctx cause pc t).ctx str = s.ctx str := by
  unfold State.pacHalt; dsimp only; split <;> simp [State.ctx]

theorem State.Kept.haltIn {s u : State} {str : Bool} {c : CtxSt} (h : s.Kept str c u) (b : Bool) (cause t : Nat) :
    s.Kept str c (u.haltIn b cause t) := by
  unfold State.haltIn
  exact ⟨by simp [h.mem], by simp [h.queues], by simp [h.shadow], (State.pacHalt_ctx _ _ _ _ _ _).trans h.ctx⟩

/-- An instruction that meets no trap writes nothing further, and its context goes on at the next address. -/
theorem Run.finish_kept {q : Run} (hq : q.quit = false) (hm : q.mis = none) (hp : q.post = none) (corrected : Nat) :
    q.st.Kept q.str { q.ctx with pc := q.npc } (q.finish corrected) := by
  obtain ⟨ht, hg⟩ : q.trap = none ∧ q.gone = false := by simpa [Run.quit] using hq
  unfold Run.finish
  simp only [hg, ht, hm, hp, Bool.false_eq_true, Option.isSome_none, Bool.false_and, if_false]
  generalize hs : State.setCtx _ _ _ = s
  have hk : q.st.Kept q.str { q.ctx with pc := q.npc } s := by
    subst hs
    refine ⟨?_, ?_, ?_, (State.ctx_setCtx _ _ _ _).trans ((if_pos rfl).trans ?_)⟩
    all_goals split <;> simp [Run.ctx, State.ctx]
  repeat' split
  · exact hk
  · exact hk.haltIn _ _ _
  · exact hk.haltIn _ _ _
  · refine State.Kept.haltIn ?_ _ _ _
    exact ⟨hk.mem, hk.queues, hk.shadow, (State.ctx_put _ _ _ _).trans hk.ctx⟩
  · exact hk

@[simp] theorem Run.fail_st (r : Run) (v : Nat) : (r.fail v).st = r.st := by
  unfold Run.fail
  split <;> rfl

/-! The entry into a trap leaves the words that name the trap. -/

section
variable {str : Bool} {vec pc : Nat} {u : State} {r : Run}

theorem TrappedAt.put (h : TrappedAt str vec pc u) {f : Fld} {v : Nat} (hp : f.page ≠ 0x0B) (ho : f.off < 4096) :
    TrappedAt str vec pc (u.put f v) := by
  obtain ⟨hvec, hctx, hpc⟩ := h
  exact ⟨(State.get_put_page _ _ _ _ hp ho (by decide)).trans hvec, (State.get_put_page _ _ _ _ hp ho (by decide)).trans hctx,
    (State.get_put_page _ _ _ _ hp ho (by decide)).trans hpc⟩

theorem TrappedAt.count (h : TrappedAt str vec pc u) {f : Fld} (k : Nat) (hp : f.page ≠ 0x0B) (ho : f.off < 4096) :
    TrappedAt str vec pc (u.count f k) := h.put hp ho

theorem TrappedAt.of_regs (h : TrappedAt str vec pc u) {v : State} (hr : v.regs = u.regs) : TrappedAt str vec pc v := by
  simp only [TrappedAt, State.get, State.rd, hr] at h ⊢
  exact h

theorem TrappedAt.pacHalt (h : TrappedAt str vec pc u) (ctx cause at_ t : Nat) : TrappedAt str vec pc (u.pacHalt ctx cause at_ t) := by
  have hput := (((h.put (f := DBG.HALTED) (v := 1) (by decide) (by decide)).put (f := DBG.STAT_CTX) (v := ctx) (by decide) (by decide)).put
    (f := DBG.CAUSE) (v := cause) (by decide) (by decide))
  have hpc := (hput.count (f := DBG.HALTCNT) 1 (by decide) (by decide)).put (f := DBG.HALTPC) (v := at_) (by decide) (by decide)
  unfold State.pacHalt
  dsimp only
  split <;> exact hpc.of_regs rfl

theorem TrappedAt.haltIn (h : TrappedAt str vec pc u) (b : Bool) (cause t : Nat) : TrappedAt str vec pc (u.haltIn b cause t) := by
  unfold State.haltIn
  refine TrappedAt.pacHalt (h.of_regs ?_) _ _ _ _
  rfl

theorem TrappedAt.readReg (h : TrappedAt str vec pc u) (p off t : Nat) (src : Src) : TrappedAt str vec pc (u.readReg p off t src).2 := by
  unfold State.readReg State.recRead
  dsimp only
  repeat' split
  · exact h.put (by decide) (by decide)
  · exact h.put (by decide) (by decide)
  · exact h.put (show 0x30 + (p - 0x30) ≠ 0x0B by omega) (show (CAN.LEC 0).off < 4096 by decide)
  · exact (h.put (by decide) (by decide)).put (by decide) (by decide)
  · exact h

theorem TrappedAt.peek (h : TrappedAt str vec pc u) {src : Src} {a size t : Nat} {o : Nat × State} (ho : u.peek src a size t = some o) :
    TrappedAt str vec pc o.2 := by
  revert ho
  unfold State.peek
  dsimp only
  repeat' split
  all_goals intro ho
  all_goals cases ho
  · exact h.readReg _ _ t src
  · exact h
  · exact h

/-- A store outside the register pages writes no register. -/
theorem TrappedAt.poke (h : TrappedAt str vec pc u) {src : Src} {a size v t : Nat} (ha : isPage a = false) {o : State × Option Cause}
    (ho : u.poke src a size v t = some o) : TrappedAt str vec pc o.1 := by
  revert ho
  unfold State.poke
  rw [ha]
  repeat' split
  all_goals intro ho
  all_goals cases ho
  · contradiction
  · exact h
  · exact h

theorem TrappedAt.load (h : TrappedAt str vec pc r.st) (a size : Nat) : TrappedAt str vec pc (r.load a size).2.st := by
  unfold Run.load
  dsimp only
  repeat' split
  · exact h
  · exact h
  · exact (congrArg (TrappedAt str vec pc) (Run.fail_st _ _)).mpr h
  · exact (congrArg (TrappedAt str vec pc) (Run.fail_st _ _)).mpr h
  · exact (congrArg (TrappedAt str vec pc) (Run.fail_st _ _)).mpr h
  · exact h.peek ‹_›

theorem TrappedAt.save (h : TrappedAt str vec pc r.st) {a : Nat} (ha : isPage a = false) (size v : Nat) :
    TrappedAt str vec pc (r.save a size v).st := by
  unfold Run.save
  dsimp only
  repeat' split
  · exact h
  · exact h
  · exact (congrArg (TrappedAt str vec pc) (Run.fail_st _ _)).mpr h
  · exact (congrArg (TrappedAt str vec pc) (Run.fail_st _ _)).mpr h
  · exact h.poke ha ‹_›

end

/-- A run of context `str` before its first access, where the cores agree. -/
def State.runAt (s : State) (str : Bool) (pc npc : Nat) (bad : Option Nat) (t : Nat) : Run :=
  { st := s, str := str, t := t, pc := pc, npc := npc, acc := 0, bad := bad, mis := none, log := [], trap := none, post := none, gone := false,
    halt := false }

/-- The accesses of an entry into a handler (R144): the saved address, FL and RC are pushed below `sp`, and the vector is read. -/
def Run.entry (r : Run) (sp saved fl rc vector : Nat) : Nat × Run :=
  (((r.save ((sp + 2 ^ 32 - 4) % 2 ^ 32) 4 saved).save ((sp + 2 ^ 32 - 8) % 2 ^ 32) 4 fl).save ((sp + 2 ^ 32 - 12) % 2 ^ 32) 4 rc).load vector 4

/-- The end of an entry whose accesses answered `h`, where the cores agree (R144, R145): the handler runs, or a double trap stops the context. -/
def State.entered (h : Nat × Run) (str : Bool) (vec ins sp fl : Nat) : State :=
  if h.2.gone then h.2.st
  else if h.2.trap.isSome ∨ h.1 % 2 = 1 ∨ canFetch h.1 = false then
    let s := (h.2.st.setCtx str (fun c => { c with stopped := true, pc := ins })).detect 0x1D 0
    if vec = 1 ∧ str = false then { s with pac := { s.pac with started := false } } else s
  else h.2.st.setCtx str (fun c => { c with pc := h.1, sp := sp, fl := fl, stopped := false })

/-- The entry into a trap is its accesses and their end. -/
theorem State.enterHandler_eq (s : State) (str : Bool) (vec saved ins : Nat) (bad : Bool) (t : Nat) :
    s.enterHandler str vec saved ins none bad none t
      = State.entered ((s.runAt str ins saved (if bad then some 3 else none) t).entry (s.ctx str).sp saved (s.ctx str).fl (s.ctx str).rc
            (((if str then s.pac.svbar else 512 * s.get PAC.VBAR) + 4 * vec) % 2 ^ 32))
          str vec ins (((s.ctx str).sp + 2 ^ 32 - 12) % 2 ^ 32) (if str then (s.ctx str).fl else clrBit (s.ctx str).fl 15) := by
  unfold State.enterHandler State.entered Run.entry State.runAt
  simp only [Option.isSome_none, Bool.false_eq_true, if_false]

section
variable {str : Bool} {vec pc : Nat} {u : State} {r : Run}

theorem TrappedAt.entry (h : TrappedAt str vec pc r.st) {sp : Nat}
    (hsp : ∀ k ∈ [4, 8, 12], isPage ((sp + 2 ^ 32 - k) % 2 ^ 32) = false) (saved fl rc vector : Nat) :
    TrappedAt str vec pc (r.entry sp saved fl rc vector).2.st := by
  have h4 := h.save (hsp 4 (by simp)) 4 saved
  have h8 := h4.save (hsp 8 (by simp)) 4 fl
  have h12 := h8.save (hsp 12 (by simp)) 4 rc
  exact h12.load _ _

theorem TrappedAt.entered {h : Nat × Run} (hh : TrappedAt str vec pc h.2.st) (b : Bool) (v ins sp fl : Nat) :
    TrappedAt str vec pc (State.entered h b v ins sp fl) := by
  unfold State.entered
  extract_lets stopped
  have hstop : TrappedAt str vec pc stopped := hh.of_regs ((State.detect_regs _ _ _).trans (State.setCtx_regs _ _ _))
  clear_value stopped
  repeat' split
  · exact hh
  · exact hstop.of_regs rfl
  · exact hstop
  · exact hh.of_regs (State.setCtx_regs _ _ _)

/-- The entry into a trap whose stack lies outside the register pages writes no word that names the trap. -/
theorem TrappedAt.enterHandler (h : TrappedAt str vec pc u) {b : Bool}
    (hsp : ∀ k ∈ [4, 8, 12], isPage (((u.ctx b).sp + 2 ^ 32 - k) % 2 ^ 32) = false) (v saved ins : Nat) (bad : Bool) (t : Nat) :
    TrappedAt str vec pc (u.enterHandler b v saved ins none bad none t) := by
  rw [State.enterHandler_eq]
  exact (TrappedAt.entry (r := u.runAt b ins saved (if bad then some 3 else none) t) h hsp _ _ _ _).entered _ _ _ _ _

/-- A trap names itself, its context and the address it saves. -/
theorem State.takeTrap_trappedAt {s : State} {str : Bool} {vec saved : Nat} (hvec : vec < 128) (hsaved : saved < 2 ^ 32)
    (hsp : ∀ k ∈ [4, 8, 12], isPage (((s.ctx str).sp + 2 ^ 32 - k) % 2 ^ 32) = false) (ins : Nat) (bad : Bool) (t : Nat) :
    TrappedAt str vec saved (s.takeTrap str vec saved ins bad none t) := by
  have hput : TrappedAt str vec saved (((s.put PAC.VEC vec).put PAC.CTX (b2n str)).put PAC.LASTPC saved) := by
    refine ⟨?_, ?_, ?_⟩
    · rw [State.get_put_apart _ _ _ _ (by decide), State.get_put_apart _ _ _ _ (by decide), State.get_put_same _ _ _ (by decide)]
      exact Nat.mod_eq_of_lt hvec
    · rw [State.get_put_apart _ _ _ _ (by decide), State.get_put_same _ _ _ (by decide)]
      cases str <;> rfl
    · rw [State.get_put_same _ _ _ (by decide)]
      exact Nat.mod_eq_of_lt hsaved
  have hcount : ∀ {x : State}, TrappedAt str vec saved x → TrappedAt str vec saved ((x.count PAC.TRAPCNT).evt 0x0B 0) := by
    rintro x ⟨h1, h2, h3⟩
    unfold State.count State.evt
    refine ⟨?_, ?_, ?_⟩ <;> rwa [State.get_put_apart _ _ _ _ (by decide), State.get_put_apart _ _ _ _ (by decide)]
  unfold State.takeTrap
  dsimp only
  split
  · exact (hcount hput).enterHandler hsp _ _ _ _ _
  · exact hput.enterHandler hsp _ _ _ _ _

/-- An instruction with a trap behind it takes the trap, which saves the next address. -/
theorem Run.finish_trappedAt {q : Run} (hq : q.quit = false) (hm : q.mis = none) {v : Nat} (hp : q.post = some v) (hv : v < 128)
    (hpc : q.npc < 2 ^ 32) (hs : stackOk q = true) (corrected : Nat) : TrappedAt q.str v q.npc (q.finish corrected) := by
  obtain ⟨ht, hg⟩ : q.trap = none ∧ q.gone = false := by simpa [Run.quit] using hq
  unfold Run.finish
  simp only [hg, ht, hm, hp, Bool.false_eq_true, Option.isSome_none, Bool.false_and, if_false, Option.map_none]
  generalize hx : State.setCtx _ _ _ = x
  have hsp : ∀ k ∈ [4, 8, 12], isPage (((x.ctx q.str).sp + 2 ^ 32 - k) % 2 ^ 32) = false := by
    have hctx : (x.ctx q.str).sp = q.ctx.sp := by
      subst hx
      rw [State.ctx_setCtx, if_pos rfl]
      split <;> rfl
    rw [hctx]
    intro k hk
    simpa using List.all_eq_true.mp hs k hk
  generalize hy : State.takeTrap _ _ _ _ _ _ _ _ = y
  have hk : TrappedAt q.str v q.npc y := hy ▸ State.takeTrap_trappedAt hv hpc hsp _ _ _
  repeat' split
  · exact hk
  · exact hk.haltIn _ _ _
  · exact hk.haltIn _ _ _
  · exact (hk.put (by decide) (by decide)).haltIn _ _ _
  · exact hk

end

/-! From the operands to the end of the instruction. -/

/-- What `State.ready` says of its instruction: a run whose operands are processed stands before it, and every body goes on from that run. -/
structure Ready.From (r : Ready) (s : State) (t op : Nat) (e : PacIns) (shape : Shape) (q : Run) : Prop where
  run : (q.operands r.d.opds).2 = r.run
  quit : r.run.quit = false
  str : q.str = r.str
  npc : q.npc = r.npc
  mis : q.mis = none
  post : q.post = none
  npcLt : r.npc < 2 ^ 32
  a : r.a = (nth (q.operands r.d.opds).1 (if shape = .binary ∧ r.d.form ≠ 1 then 1 else 0)).val
  b : r.b = (nth (q.operands r.d.opds).1 (if shape = .compare ∨ (shape = .binary ∧ r.d.form = 1) then 1 else 0)).val
  dst : r.dst = nth (q.operands r.d.opds).1 (if shape = .binary ∧ r.d.form = 1 then 2 else if shape = .single then 0 else 1)
  pacExec : ∀ body, s.pacExec t op e body = (body q r.d).finish e.corrected

theorem State.pacExec_eq {s : State} {t op : Nat} {e : PacIns} {str : Bool} {d : Decoded} (hruns : (s.reach t).runs t = some str)
    (hsafe : (s.reach t).pac.safePend = false)
    (hfetch : (s.reach t).pac.passPc = some ((s.reach t).ctx str).pc ∨ (s.reach t).fetchHit str ((s.reach t).ctx str).pc = none)
    (hfault : fetchFault ((s.reach t).ctx str).pc (decodePac op e).1 e.badFetch = none) (hmis : e.mismatch = none)
    (hd : (decodePac op e).2 = .ok d) (body : Run → Decoded → Run) :
    s.pacExec t op e body
      = (body ((s.reach t).runAt str ((s.reach t).ctx str).pc ((((s.reach t).ctx str).pc + 2 * (decodePac op e).1) % 2 ^ 32) e.badAccess t)
          d).finish e.corrected := by
  have hit : (if (s.reach t).pac.passPc = some ((s.reach t).ctx str).pc then none
      else (List.range 1).findSome? (fun i => (s.reach t).fetchHit str (((s.reach t).ctx str).pc + 2 * i))) = none := by
    split
    · rfl
    · simpa using hfetch.resolve_left ‹_›
  unfold State.pacExec State.begin State.runAt
  simp only [hruns, hsafe, Bool.false_eq_true, if_false, hit, hfault, hd, hmis]

theorem State.from_of_ready {s : State} {t op : Nat} {e : PacIns} {shape : Shape} {r : Ready} (h : s.ready t op e shape = some r) :
    ∃ q, r.From s t op e shape q := by
  revert h
  unfold State.ready
  extract_lets s'
  split
  · rename_i str d hruns hd
    extract_lets c npc q g three
    split
    · rename_i hready
      obtain ⟨hsafe, hfetch, hfault, hmis, hquit⟩ := hready
      intro h
      cases h
      refine ⟨q, ⟨rfl, hquit, rfl, rfl, rfl, rfl, Nat.mod_lt _ (by decide), ?_, ?_, ?_, fun body => ?_⟩⟩
      · simp [three, g]
      · simp [three, g]
      · simp [three, g]
      · exact State.pacExec_eq hruns hsafe hfetch hfault hmis hd body
    · exact fun h => nomatch h
  · exact fun h => nomatch h

section
variable {s : State} {t op : Nat} {e : PacIns} {shape : Shape} {r : Ready} {q : Run}

theorem Ready.From.alike (h : r.From s t op e shape q) : r.run.Alike q := h.run ▸ q.operands_alike r.d.opds

theorem Ready.From.exec_binary (h : r.From s t op e .binary q) (f : Nat → Nat → Nat → Nat → Alu) :
    s.pacExec t op e (fun q d => q.binary d f) = (r.run.retire r.dst (f r.w r.a r.b (b2n (r.flag 2)))).finish e.corrected := by
  rw [h.pacExec, h.a, h.b, h.dst]
  by_cases hf : r.d.form = 1 <;> simp [Run.binary, Run.onOperands, h.run, h.quit, hf, Ready.w, Ready.flag, Decoded.width]

theorem Ready.From.exec_unary (h : r.From s t op e .unary q) (f : Nat → Nat → Alu) :
    s.pacExec t op e (fun q d => q.unary d f) = (r.run.retire r.dst (f r.w r.a)).finish e.corrected := by
  rw [h.pacExec, h.a, h.dst]
  simp [Run.unary, Run.onOperands, h.run, h.quit, Ready.w, Decoded.width]

/-! A result is written, and its flags or its trap follow. -/

theorem Ready.retire_of_toFl {x : Effect} (h : r.toFl = true) (w : Nat) : r.run.retire r.dst (x.alu w) = r.run.put r.dst x.val := by
  have hd : (r.dst.opd.mode = 0xC && r.dst.opd.nib = 4) = true := by simpa [Ready.toFl] using h
  simp [Run.retire, hd]

theorem Ready.From.put_alike (h : r.From s t op e shape q) (v : Nat) : (r.run.put r.dst v).Alike q :=
  (r.run.put_alike _ _).trans h.alike

/-- Where the destination is not FL, FL takes the flags, and the trap that the flags ask for follows. -/
theorem Ready.From.retire_of_not_toFl (h : r.From s t op e shape q) {x : Effect} (hx : (r.run.put r.dst x.val).quit = false)
    (hfl : r.toFl = false) (w : Nat) :
    r.run.retire r.dst (x.alu w) = (r.run.put r.dst x.val).withFlags ((x.alu w).flags r.run.ctx.fl) (x.follows r.run.ctx.fl) := by
  have hd : (r.dst.opd.mode = 0xC && r.dst.opd.nib = 4) = false := by simpa [Ready.toFl] using hfl
  have hd' : ¬ (r.dst.opd.mode = 0xC ∧ r.dst.opd.nib = 4) := by simpa using hd
  have hput : (r.run.put r.dst x.val).ctx.fl = r.run.ctx.fl := (Run.put_fl h.quit hx).trans (if_neg hd')
  rw [← hput, ← Run.flagged_alu ((h.put_alike _).post.trans h.post)]
  simp [Run.retire, hx, hd]

theorem Effect.follows_of_fits {x : Effect} (h : r.Fits x) (hfl : r.toFl = false) : x.follows r.run.ctx.fl = none := by
  obtain ⟨-, hfits⟩ := h
  obtain ⟨hv, hdz⟩ := hfits.resolve_left (by simp [hfl])
  unfold Effect.follows
  rw [if_neg, if_neg]
  · intro hc
    obtain ⟨hxv, hbit⟩ := Bool.and_eq_true_iff.mp hc
    exact absurd (hv (of_decide_eq_true hxv)) (by simpa [Ready.flag] using hbit)
  · intro hc
    obtain ⟨hxdz, hbit⟩ := Bool.and_eq_true_iff.mp hc
    exact absurd (hdz hxdz) (by simpa [Ready.flag] using hbit)

/-- A result that fits is written with its flags, and its context goes on (R140, R162, R163). -/
theorem Ready.From.did (h : r.From s t op e shape q) {x : Effect} (hx : r.Fits x) (corrected : Nat) :
    r.Did x ((r.run.retire r.dst (x.alu r.w)).finish corrected) := by
  have hp := h.put_alike x.val
  have hquit := hx.1
  cases hfl : r.toFl
  · rw [h.retire_of_not_toFl hx.1 hfl, Effect.follows_of_fits hx hfl]
    obtain ⟨hmem, hqueues, hshadow, hctx⟩ := Run.finish_kept
      (q := (r.run.put r.dst x.val).withFlags ((x.alu r.w).flags r.run.ctx.fl) none) hquit (hp.mis.trans h.mis) rfl corrected
    rw [Run.withFlags_str, Run.withFlags_npc, Run.withFlags_ctx, hp.str, h.str, hp.npc, h.npc] at hctx
    refine ⟨hmem, hqueues, hshadow, ?_, ?_⟩
    · rw [hctx]
    · rw [hfl, if_neg Bool.false_ne_true, hctx]
      exact x.flagsAre_flags _ _
  · rw [Ready.retire_of_toFl hfl]
    obtain ⟨hmem, hqueues, hshadow, hctx⟩ := Run.finish_kept hquit (hp.mis.trans h.mis) (hp.post.trans h.post) corrected
    rw [hp.str, h.str, hp.npc, h.npc] at hctx
    have hd : r.dst.opd.mode = 0xC ∧ r.dst.opd.nib = 4 := by simpa [Ready.toFl] using hfl
    have hput : (r.run.put r.dst x.val).ctx.fl = x.val := (Run.put_fl h.quit hquit).trans (if_pos hd)
    refine ⟨hmem, hqueues, hshadow, ?_, ?_⟩
    · rw [hctx]
    · rw [if_pos hfl, hctx]
      exact hput

/-- A result whose flags ask for a trap is written, and the trap is taken behind it (R143, R173). -/
theorem Ready.From.trapped (h : r.From s t op e shape q) {x : Effect} {v : Nat} (hx : r.Arms x v) (hv : v < 128)
    (hfollows : x.follows r.run.ctx.fl = some v) (corrected : Nat) : r.Trapped v ((r.run.retire r.dst (x.alu r.w)).finish corrected) := by
  obtain ⟨hquit, hfl, -, hstack⟩ := hx
  have hp := h.put_alike x.val
  have hmis : (r.run.put r.dst x.val).mis = none := hp.mis.trans h.mis
  have hnpc : (r.run.put r.dst x.val).npc = r.npc := hp.npc.trans h.npc
  have htrap := Run.finish_trappedAt (q := (r.run.put r.dst x.val).withFlags ((x.alu r.w).flags r.run.ctx.fl) (some v))
    hquit hmis rfl hv (hnpc ▸ h.npcLt) (by simpa [stackOk] using hstack) corrected
  rw [Run.withFlags_str, Run.withFlags_npc, hp.str, h.str, hnpc] at htrap
  rw [h.retire_of_not_toFl hquit hfl, hfollows]
  exact htrap

end

end Sys2Proof.Machine

namespace Sys2Proof.Machine

/-! The saturating instructions (R168). -/

/-- The effect of R168: the exact result `x`, or the nearest limit of the signed range with V set. -/
def saturated (w : Nat) (x : Int) (c : Bool) : Effect :=
  let lo := -((2 : Int) ^ (w - 1))
  let hi := (2 : Int) ^ (w - 1) - 1
  { val := (BitVec.ofInt w (if x < lo then lo else if hi < x then hi else x)).toNat, c := some c, v := some (decide (x < lo ∨ hi < x)) }

theorem unsignedOf_eq_toNat_ofInt (w : Nat) (x : Int) : unsignedOf w x = (BitVec.ofInt w x).toNat := by
  rw [BitVec.toNat_ofInt]
  rfl

theorem signedOf_eq_toInt_ofNat {w : Nat} (hw : 0 < w) (a : Nat) : signedOf w a = (BitVec.ofNat w a).toInt := by
  have h2 : 2 ^ w = 2 * 2 ^ (w - 1) := (Nat.two_pow_pred_mul_two hw).symm.trans (Nat.mul_comm _ _)
  rw [BitVec.toInt_eq_toNat_cond, BitVec.toNat_ofNat]
  unfold signedOf
  split <;> split
  · rfl
  · omega
  · omega
  · rfl

theorem saturate_eq_ite (w : Nat) (x : Int) :
    saturate w x = if x < -(2 ^ (w - 1)) then -(2 ^ (w - 1)) else if 2 ^ (w - 1) - 1 < x then 2 ^ (w - 1) - 1 else x := by
  have hpos : (0 : Int) < 2 ^ (w - 1) := by positivity
  unfold saturate
  repeat' split
  all_goals omega

theorem outside_eq_decide (w : Nat) (x : Int) : outside w x = decide (x < -(2 ^ (w - 1)) ∨ 2 ^ (w - 1) - 1 < x) := by
  simp [outside]

theorem aluOf_saturate (w : Nat) (x : Int) (c : Bool) :
    aluOf w (unsignedOf w (saturate w x)) (some c) (some (outside w x)) = (saturated w x c).alu w := by
  rw [unsignedOf_eq_toNat_ofInt, saturate_eq_ite, outside_eq_decide]
  rfl

section
variable {w : Nat} (hw : 0 < w)
include hw

theorem aluAddS_eq (a b : Nat) :
    aluAddS w a b = (saturated w ((BitVec.ofNat w a).toInt + (BitVec.ofNat w b).toInt) (decide (2 ^ w ≤ a + b))).alu w := by
  rw [← aluOf_saturate, ← signedOf_eq_toInt_ofNat hw, ← signedOf_eq_toInt_ofNat hw]; rfl

theorem aluSubS_eq (a b : Nat) :
    aluSubS w a b = (saturated w ((BitVec.ofNat w a).toInt - (BitVec.ofNat w b).toInt) (decide (a < b))).alu w := by
  rw [← aluOf_saturate, ← signedOf_eq_toInt_ofNat hw, ← signedOf_eq_toInt_ofNat hw]; rfl

theorem aluNegS_eq (a : Nat) : aluNegS w a = (saturated w (-(BitVec.ofNat w a).toInt) (decide (a ≠ 0))).alu w := by
  rw [← aluOf_saturate, ← signedOf_eq_toInt_ofNat hw]; rfl

theorem aluAbsS_eq (a : Nat) : aluAbsS w a = (saturated w (Int.ofNat (BitVec.ofNat w a).toInt.natAbs) false).alu w := by
  rw [← aluOf_saturate, ← signedOf_eq_toInt_ofNat hw]; rfl

end

theorem Ready.w_pos (r : Ready) : 0 < r.w := by unfold Ready.w; positivity

/-- An instruction that retires a saturated result from the run of its operands does what R168 and R173 ask. -/
theorem Ready.From.saturates {s : State} {t op : Nat} {e : PacIns} {shape : Shape} {r : Ready} {q : Run} (h : r.From s t op e shape q)
    {i : Instr} {x : Int} {c : Bool}
    (hi : exec i s = .next ((r.run.retire r.dst ((saturated r.w x c).alu r.w)).finish e.corrected)) :
    (r.Fits (saturated r.w x c) → Completes i s (r.Did (saturated r.w x c)))
      ∧ (r.Arms (saturated r.w x c) 9 → (saturated r.w x c).v = some true → Completes i s (r.Trapped 9)) := by
  refine ⟨fun hfits => ⟨_, hi, h.did hfits _⟩, fun harms hv => ⟨_, hi, h.trapped harms (by decide) ?_ _⟩⟩
  obtain ⟨-, -, hbit, -⟩ := harms
  unfold Effect.follows
  rw [if_neg (by simp [saturated]), if_pos]
  simpa [hv, Ready.flag] using hbit

/-- Settles O34: the model's arithmetic answers the saturated result, which the run of the operands retires. -/
theorem saturatingResults : Obligations.SaturatingResults := by
  unfold Obligations.SaturatingResults
  intro s t e sgn lo hi sat holds
  refine ⟨fun r hr => ?_, fun r hr => ?_, fun r hr => ?_, fun r hr => ?_⟩
  all_goals obtain ⟨q, hq⟩ := State.from_of_ready hr
  · exact hq.saturates (congrArg Host.Outcome.next ((hq.exec_binary _).trans (by rw [aluAddS_eq r.w_pos])))
  · exact hq.saturates (congrArg Host.Outcome.next ((hq.exec_binary _).trans (by rw [aluSubS_eq r.w_pos])))
  · exact hq.saturates (congrArg Host.Outcome.next ((hq.exec_unary _).trans (by rw [aluNegS_eq r.w_pos])))
  · exact hq.saturates (congrArg Host.Outcome.next ((hq.exec_unary _).trans (by rw [aluAbsS_eq r.w_pos])))

end Sys2Proof.Machine

namespace Sys2Proof.Machine

/-! Refutations of O35, O36 and O37. A register of the hardware holds 32 bits, but the model's `CtxSt` holds any `Nat`, and
these statements speak of every `State`: in a state whose FP is 2^32 or more, which no run reaches, the operand `a` is wider
than the size, and the model's arithmetic answers otherwise than the statement. -/

/-- The Pacer runs its service context, whose FP is `fp`. -/
def fpHolds (fp : Nat) : State :=
  { State.reset with
    boot := { State.reset.boot with phase := .done }
    pac := { State.reset.pac with started := true, svc := { State.reset.pac.svc with pc := 0x100, fp := fp } } }

/-- An instruction with these words, fetched and run without a fault. -/
def fetched (low : Nat) (tail : List (BitVec 8)) : PacIns :=
  { low := low, tail := tail, badFetch := none, badAccess := none, mismatch := none, corrected := 0 }

/-- The operands of `RC ← FP op k`, `k` a short constant. -/
def fpWithToRc (k : Nat) : PacIns := fetched 0x240 [0xC2, BitVec.ofNat 8 (0x90 + k), 0xC5]

/-- The operands of `RC ← op FP`. -/
def fpToRc : PacIns := fetched 0x200 [0xC2, 0xC5]

/-- In `s` the instruction is ready, `x` of it can be written, and would leave `rc` in RC, where `i` leaves something else. -/
def refutes (s : State) (ready : Option Ready) (i : Instr) (x : Ready → Effect) (rc : Nat) : Bool :=
  ready.any (fun r => !(r.run.put r.dst (x r).val).quit && !r.flag 9 && !r.flag 8 && decide ((r.run.put r.dst (x r).val).ctx.rc = rc)
    && (match exec i s with | .next u => decide ((u.ctx r.str).rc ≠ rc) | _ => true))

/-- Where RC of the statement's result is not RC of the instruction's, the statement fails. -/
theorem not_did_of_refutes {s : State} {o : Option Ready} {i : Instr} {x : Ready → Effect} {rc : Nat} (h : refutes s o i x rc = true) :
    ¬ ∀ r, o = some r → r.Fits (x r) → Completes i s (r.Did (x r)) := by
  intro hall
  obtain ⟨r, hr, hx⟩ := Option.any_eq_true _ _ |>.mp h
  simp only [Bool.and_eq_true, Bool.not_eq_true', decide_eq_true_eq] at hx
  obtain ⟨⟨⟨⟨hq, h9⟩, h8⟩, hrc⟩, hne⟩ := hx
  obtain ⟨u, hu, -, -, -, hctx, -⟩ := hall r hr ⟨hq, .inr ⟨fun _ => h9, fun _ => h8⟩⟩
  rw [hu] at hne
  exact absurd (by rw [hctx]; exact hrc) (of_decide_eq_true hne)

/-- Refutes O35: SHR of an FP of 2^32 by 1 leaves 2^31 in RC, where the statement's 32-bit operand is 0. -/
theorem not_shiftResults : ¬ Obligations.ShiftResults := by
  intro h
  obtain ⟨-, hshr, -⟩ := h (fpHolds (2 ^ 32)) 5 (fpWithToRc 1)
  exact not_did_of_refutes (rc := 0) (by decide +kernel) hshr

/-- Refutes O36: CLZ of an FP of 2^32 leaves 0 in RC, where the statement counts 32 clear bits. -/
theorem not_rotateResults : ¬ Obligations.RotateResults := by
  intro h
  obtain ⟨-, -, hclz⟩ := h (fpHolds (2 ^ 32)) 5 fpToRc
  exact not_did_of_refutes (rc := 32) (by decide +kernel) hclz

/-- Refutes O37: DIVS of an FP of 2^32 + 2^31 by -1 leaves 2^31 in RC, where the statement writes FP itself, all 33 bits. -/
theorem not_divisionResults : ¬ Obligations.DivisionResults := by
  intro h
  obtain ⟨-, hdivs, -⟩ := h (fpHolds (2 ^ 32 + 2 ^ 31)) 5 (fpWithToRc 15)
  exact not_did_of_refutes (rc := 2 ^ 32 + 2 ^ 31) (by decide +kernel) (fun r hr => (hdivs r hr).1)

end Sys2Proof.Machine

namespace Sys2Proof.Machine

-- One declaration after another: each kernel evaluation beside others holds a thread's stack, and the whole text has one memory limit.
set_option Elab.async false

/-- The queue of commands stands outside everything that a command may change. -/
theorem blind_pending (q : List Instr) : Blind.All (fun u => u.pending = q) := by
  constructor
  case regs | mem | now | fresh => exact fun _ _ _ h => h
  case boot => exact fun _ _ _ _ h => h
  all_goals exact fun _ _ h => h

/-- No update of a field leaves the canonical form: the memory and the registers keep it by what their updates promise. -/
theorem blind_sound : Blind.All State.Sound := by
  constructor
  case regs => exact fun _ _ rises ⟨wf, rising⟩ => ⟨wf, rises rising⟩
  case mem => exact fun _ _ keeps ⟨wf, rising⟩ => ⟨keeps wf, rising⟩
  case now | fresh => exact fun _ _ _ h => h
  case boot => exact fun _ _ _ _ h => h
  all_goals exact fun _ _ h => h

/-- The marks of a state never go back under an update that moves them forward alone. -/
theorem blind_lasting (s : State) : Blind.All (Lasting s) := by
  constructor
  case now => exact fun _ _ le h => { h with now := h.now.trans le }
  case fresh => exact fun _ _ le h => { h with fresh := h.fresh.trans le }
  case boot => exact fun _ _ stays rises h => { h with field := stays ∘ h.field, svmin := h.svmin.trans rises }
  case regs | mem => exact fun _ _ _ h => ⟨h.now, h.fresh, h.field, h.svmin⟩
  all_goals exact fun _ _ h => ⟨h.now, h.fresh, h.field, h.svmin⟩

theorem Lasting.refl (s : State) : Lasting s s := ⟨le_rfl, le_rfl, id, le_rfl⟩

/-- A command that answers a next state with a property completes with it. -/
theorem Next.completes {P : State → Prop} {i : Instr} {s : State} (h : Next P (exec i s)) : Completes i s P := h.elim

/-- A step that keeps a property answers only states with it. -/
theorem Next.of_next {P : State → Prop} {o : Host.Outcome State Fault Refusal} {u : State} (h : Next P o) (e : o = .next u) : P u := by
  subst e; exact h

/-- Settles O1: by the definition of `step`, case by case of the queue. -/
theorem stepRunsTheFrontCommand : Obligations.StepRunsTheFrontCommand :=
  ⟨fun _ _ _ => rfl, fun s h => by unfold step; rw [h]⟩

/-- Settles O2: every meaning keeps what does not depend on the fields it may change, and the queue is none of them. -/
theorem commandsLeaveTheQueue : Obligations.CommandsLeaveTheQueue :=
  fun c s => (exec_keeps (blind_pending s.pending) rfl c).completes

/-- Settles O3: the memory and the table of registers are empty after reset. -/
theorem resetIsSound : Obligations.ResetIsSound := ⟨rfl, rfl⟩

/-- Settles O4: every meaning keeps soundness, and taking a command from the queue touches neither table. -/
theorem everyStepKeepsSound : Obligations.EveryStepKeepsSound :=
  fun _ _ sound e => (step_keeps blind_sound (fun _ _ h => h) sound).of_next e

/-- Settles O5: `Lasting s` holds of `s` itself and survives every update that a meaning may make. -/
theorem noStepTakesBack : Obligations.NoStepTakesBack :=
  fun s _ e => (step_keeps (blind_lasting s) (fun _ _ h => ⟨h.now, h.fresh, h.field, h.svmin⟩) (Lasting.refl s)).of_next e

end Sys2Proof.Machine

namespace Sys2Proof.Machine

-- One declaration after another: each kernel evaluation beside others holds a thread's stack, and the whole text has one memory limit.
set_option Elab.async false

/-! Refutations by one state: the model is run on it, and what the statement asks of the answer does not hold. -/

/-- The command answers a next state of which `q` holds. -/
def answers (i : Instr) (s : State) (q : State → Bool) : Bool :=
  match exec i s with
  | .next u => q u
  | _ => false

/-- What a command completes with holds of the state that it answers. -/
theorem Completes.of_answers {i : Instr} {s : State} {p : State → Prop} {q : State → Bool} (h : Completes i s p)
    (hq : answers i s q = true) : ∃ u, p u ∧ q u = true := by
  obtain ⟨u, hu, hp⟩ := h
  unfold answers at hq
  rw [hu] at hq
  exact ⟨u, hp, hq⟩

/-- The Service context's latch holds a `PUSHGO` with bit 24 set, which no push names. -/
def strayPush : State :=
  { State.reset with latches := [(.service, { p0 := 0, p1 := 0, go := 2 ^ 24, st := 0 })] }

/-- Refutes O13: in `strayPush` an accepted push of 6 bytes to queue 0 leaves bit 24 of the latched `PUSHGO` set, where the
statement has the written value alone. -/
theorem not_pushesEnterTheirQueue : ¬ Obligations.PushesEnterTheirQueue := by
  intro h
  obtain ⟨hpush, -⟩ := h
  obtain ⟨hqueued, -⟩ := hpush 4 .service 150 0 strayPush (by decide) (by decide) ⟨by decide +kernel, by decide +kernel⟩
  obtain ⟨u, ⟨⟨hu, -⟩, -⟩, hgo⟩ := (hqueued (by decide +kernel) (by decide) (by decide +kernel)).of_answers
    (q := fun u => decide ((u.latch .service).go ≠ 150)) (by decide +kernel)
  exact of_decide_eq_true hgo (congrArg PushLatch.go hu)

/-- A port with a stream whose last frame is noted, and whose recovery is due to be reset at 4. -/
def streamWaits : State :=
  ({ State.reset with sw := { State.reset.sw with sfl := [(1, { sflInit with port := some (7, 2) })] } }).arm (.frerReset 1) 4

/-- Refutes O18: the reset of a stream's recovery also forgets the port of its last frame. -/
theorem not_switchEnginesAdvance : ¬ Obligations.SwitchEnginesAdvance := by
  intro h
  obtain ⟨-, -, -, -, -, hreset, -⟩ := h streamWaits 4 0 (by decide)
  obtain ⟨u, ⟨hu, -⟩, hport⟩ := (hreset 1 4 (by decide +kernel)).of_answers (q := fun u => decide ((u.stream 1).port = none)) (by decide +kernel)
  exact absurd (congrArg SflEnt.port hu) (by rw [of_decide_eq_true hport]; decide +kernel)

/-- A scan is in progress on a disabled page, and column 0 is on for 10. -/
def scanCutOff : State :=
  ({ State.reset with scan := { State.reset.scan with scanning := true } }.put (LDS.COLUMN 0) 1).setOut (.led 0) (fun o => { o with onAct := 10 })

/-- Refutes O28: a row slot that may not start turns the columns off, where the statement keeps every output. -/
theorem not_matrixScans : ¬ Obligations.MatrixScans := by
  intro h
  obtain ⟨-, -, -, hstop, -⟩ := h scanCutOff 4
  obtain ⟨u, ⟨-, hu⟩, hout⟩ := (hstop (by decide +kernel) (by decide +kernel)).of_answers (q := fun u => decide (u.outs ≠ scanCutOff.outs)) (by decide +kernel)
  exact of_decide_eq_true hout hu

/-- Power die 1 is about to lose its Lane watchdog at 4, and its last heat started at 3. -/
def heatAtThree : State :=
  { (State.reset.arm (.watchdog 1) 4) with dies := [(1, { dieInit with reset := false, lastHeat := some 3 })] }

/-- Refutes O32: a heat that started 1 ns before the expiry puts the next one 200 us after itself, not at the expiry. -/
theorem not_diesFailSafe : ¬ Obligations.DiesFailSafe := by
  intro h
  obtain ⟨-, -, hexp, -⟩ := h heatAtThree 4 1 (by decide)
  obtain ⟨u, ⟨-, hu, -⟩, hdue⟩ := (hexp 4 (by decide +kernel)).of_answers (q := fun u => decide (u.due (.fsHeat 1) ≠ some 4)) (by decide +kernel)
  exact of_decide_eq_true hdue (hu (by decide +kernel)).2.1

/-- Refutes O43: `IOUT` of a lighting sink is narrower than 16 bits, so that a measured current of -1 does not stand in it whole. -/
theorem not_conversionsAct : ¬ Obligations.ConversionsAct := by
  intro h
  obtain ⟨-, -, -, -, -, -, -, hled, -⟩ := h State.reset 4 0 0 (by decide)
  obtain ⟨u, ⟨hu, -⟩, hcur⟩ := (hled 0 (-1) 0 0 (by decide)).of_answers (q := fun u => decide (u.get (LDS.IOUT 0) ≠ unsignedOf 16 (-1))) (by decide +kernel)
  exact of_decide_eq_true hcur hu

/-- The ramp stands at step 1, and the lines of more PHYs than the six there are lie in reset. -/
def strayPhys : State := { State.reset.put CLK.RAMPSTEP 1 with phyLines := 0xFF }

/-- Refutes O49: the failure of a domain sets the six lines in `phyLines` and leaves the other bits, where the statement has 0x3F. -/
theorem not_clocksFail : ¬ Obligations.ClocksFail := by
  intro h
  obtain ⟨-, -, -, hroot, -⟩ := h strayPhys 4
  obtain ⟨-, hdom, -⟩ := hroot (by decide +kernel) (by decide +kernel)
  obtain ⟨u, hdead, hphy⟩ := hdom.of_answers (q := fun u => decide (u.phyLines ≠ 0x3F)) (by decide +kernel)
  obtain ⟨-, -, -, -, -, -, -, hu, -⟩ := hdead
  exact of_decide_eq_true hphy hu

/-- Cool-down waits for the units, with all at rest, and the lines of more PHYs than there are lie in reset. -/
def coolsDown : State := { State.reset with phyLines := 0xFF, pwr := { State.reset.pwr with state := .cooldown } }

/-- Refutes O50: the end of the units' stop sets the six lines in `phyLines` and leaves the other bits. -/
theorem not_powerStatesAct : ¬ Obligations.PowerStatesAct := by
  intro h
  obtain ⟨-, -, -, -, -, ⟨hrest, -⟩, -⟩ := h coolsDown 4
  obtain ⟨u, ⟨hu, -⟩, hphy⟩ := (hrest (by decide +kernel)).of_answers (q := fun u => decide (u.phyLines ≠ 0x3F)) (by decide +kernel)
  exact of_decide_eq_true hphy hu

/-- A Vault command is in progress, a reset waits for its end, and source 32 of the Vault's cluster asks for the cluster's reset. -/
def vaultBusy : State :=
  { (State.reset.put (FCR.INIT 0) 3) with
    vault := { State.reset.vault with cmd := some { code := 1, slot := 0, priv := 0, tid := 0, key := none, status := 0 } }
    boot := { State.reset.boot with phase := .done, want := some (causeFcr, 0) } }

/-- Refutes O19: the cluster reset of Hurdle 3 ends the Vault's command, so that the waiting reset goes ahead and clears `RAISED`. -/
theorem not_faultsAreCollected : ¬ Obligations.FaultsAreCollected := by
  intro h
  obtain ⟨hraise, -⟩ := h vaultBusy 4 32 (by decide)
  obtain ⟨-, -, hin, -⟩ := hraise 0 (by decide) (by decide)
  obtain ⟨u, ⟨-, -, -, hu, -⟩, hnone⟩ := (hin (by decide) (by decide) (by decide +kernel) (by decide +kernel)).of_answers
    (q := fun u => u.fcr.events.isEmpty) (by decide +kernel)
  rw [hu] at hnone
  exact absurd hnone (by simp)

/-- A program of NV and a Vault command are in progress, and a reset waits for both. -/
def twoPrograms : State :=
  { vaultBusy with boot := { vaultBusy.boot with nv := some (0, []) } }

/-- Refutes O55: a reset that waited stays behind the Vault's command when the program of NV ends, where the statement asserts it. -/
theorem not_warmUpActs : ¬ Obligations.WarmUpActs := by
  intro h
  obtain ⟨-, -, hend, -⟩ := h twoPrograms 4
  obtain ⟨u, ⟨-, -, -, hu, -⟩, hwant⟩ := (hend (0, []) rfl (causeFcr, 0) rfl true).of_answers
    (q := fun u => u.boot.want.isSome) (by decide +kernel)
  rw [hu] at hwant
  exact absurd hwant (by decide)

end Sys2Proof.Machine

namespace Sys2Proof.Machine

-- One declaration after another: each kernel evaluation beside others holds a thread's stack, and the whole text has one memory limit.
set_option Elab.async false

/-! Refutations of O38 to O41. A context's registers are any `Nat` in the model, and these statements speak of every `State`: an FP
or a PC of 2^32 or more, which no run reaches, answers otherwise than a register of 32 bits would. -/

/-- Refutes O38: ABS of an FP of 2^32 leaves 2^32 in RC, where the statement's 32-bit result is 0. -/
theorem not_arithmeticResults : ¬ Obligations.ArithmeticResults := by
  intro h
  obtain ⟨-, -, -, -, -, habs, -⟩ := h (fpHolds (2 ^ 32)) 5 fpToRc
  exact not_did_of_refutes (rc := 0) (by decide +kernel) (fun r hr => (habs r hr).1)

/-- The Pacer runs its service context at the address 0x100, but its PC counts 2^32 more; FL on its stack has bit 5 set. -/
def pcBeyond : State :=
  ({ State.reset with
    boot := { State.reset.boot with phase := .done }
    pac := { State.reset.pac with started := true, svc := { State.reset.pac.svc with pc := 2 ^ 32 + 0x100, sp := 0x1000 } } }).setLe 0x1004 4 0x20

/-- A system instruction or a repetition (REP, REPL), fetched and run without a fault. -/
def systemCode : PacIns := fetched 0x280 []

/-- `LASTPC` shows no address beyond 32 bits. -/
theorem not_completes_trappedAt {i : Instr} {s : State} {q : State → Prop} {b : Bool} {v pc : Nat} (hpc : 2 ^ 32 ≤ pc)
    (hq : ∀ u, q u → TrappedAt b v pc u) : ¬ Completes i s q := by
  rintro ⟨u, -, hu⟩
  obtain ⟨-, -, hlast⟩ := hq u hu
  have hlt : u.get PAC.LASTPC < 2 ^ 32 := State.get_lt u PAC.LASTPC
  omega

/-- RETE of this instruction reads its three words, finds FL not valid, and can push three words, at a PC beyond 32 bits. -/
def reteTraps (r : Ready) : Bool :=
  let rc := r.run.load r.run.ctx.sp 4
  let fl := rc.2.load ((r.run.ctx.sp + 4) % 2 ^ 32) 4
  let pc := fl.2.load ((r.run.ctx.sp + 8) % 2 ^ 32) 4
  decide (pc.2.quit = false ∧ ¬ (fl.1 &&& 0xFFFC7CE0 = 0 ∧ (r.str = true → fl.1 &&& 0x38000 = 0)) ∧ stackOk pc.2 = true ∧ 2 ^ 32 ≤ r.run.pc)

/-- Refutes O39: RETE that finds FL not valid traps, but `LASTPC` cannot show the PC of `pcBeyond`. -/
theorem not_movesAndJumps : ¬ Obligations.MovesAndJumps := by
  intro h
  obtain ⟨-, -, -, -, -, -, -, -, -, -, -, -, hrete⟩ := h pcBeyond 5 systemCode
  obtain ⟨r, hr, hrun⟩ := (Option.any_eq_true _ _).mp (show (pcBeyond.ready 5 0 (withSub systemCode 4) .single).any reteTraps = true by decide +kernel)
  obtain ⟨hquit, hbad, hstack, hpc⟩ := of_decide_eq_true hrun
  exact not_completes_trappedAt hpc (fun _ hu => hu) ((hrete r hr hquit).2 hbad hstack)

/-- Refutes O40: BKPT with the debug port detached traps, but `LASTPC` cannot show the PC of `pcBeyond`. -/
theorem not_systemGroupActs : ¬ Obligations.SystemGroupActs := by
  intro h
  obtain ⟨-, -, -, -, hbkpt, -⟩ := h pcBeyond 5 systemCode
  obtain ⟨r, hr, hrun⟩ := (Option.any_eq_true _ _).mp (show (pcBeyond.ready 5 0 (withSub systemCode 7) .single).any
    (fun r => decide (stackOk r.run = true ∧ 2 ^ 32 ≤ r.run.pc)) = true by decide +kernel)
  obtain ⟨hstack, hpc⟩ := of_decide_eq_true hrun
  exact not_completes_trappedAt hpc (fun _ hu => hu) ((hbkpt r hr).2 (by decide +kernel) hstack)

/-- Refutes O41: REP before NOP traps, but `LASTPC` cannot show the PC of `pcBeyond`. -/
theorem not_prefixesRepeat : ¬ Obligations.PrefixesRepeat := by
  intro h
  obtain ⟨hbarred, -⟩ := h pcBeyond 5 systemCode systemCode false 1 rfl false (by decide +kernel) (by decide +kernel) (by decide +kernel)
  obtain ⟨-, htrap⟩ := hbarred 0 (by decide +kernel) { op := 0, sz := 2, form := 2, sub := 0, opds := [] } (by decide +kernel)
  exact not_completes_trappedAt (by decide +kernel) (fun u hu => hu.1) (htrap (.inl rfl) (by decide +kernel))

end Sys2Proof.Machine

namespace Sys2Proof.Machine

-- One declaration after another: each kernel evaluation beside others holds a thread's stack, and the whole text has one memory limit.
set_option Elab.async false

/-! Which cause refuses a write (O7). -/

/-- The causes of refusal in the order of R55. -/
def Cause.order : List Cause := [.badop, .nopage, .priv, .inreset, .owned, .locked, .resv, .persist]

theorem Cause.forall_iff {q : Cause → Prop} :
    (∀ c, q c) ↔ q .badop ∧ q .nopage ∧ q .priv ∧ q .inreset ∧ q .owned ∧ q .locked ∧ q .resv ∧ q .persist := by
  constructor
  · exact fun h => ⟨h _, h _, h _, h _, h _, h _, h _, h _⟩
  · rintro ⟨h0, h1, h2, h3, h4, h5, h6, h7⟩ c
    cases c <;> assumption

/-- A write is refused with the first cause of the order that it meets. -/
theorem State.refusal_eq_find? (s : State) (w : Wr) : s.refusal w = Cause.order.find? (s.meets w) := by
  unfold State.refusal
  repeat' split
  all_goals simp_all [Cause.order, State.meets]

/-- The first cause of the order with a property is the one of least rank with it. -/
theorem Cause.find?_order (f : Cause → Bool) (c : Cause) :
    Cause.order.find? f = some c ↔ f c = true ∧ ∀ d : Cause, d.rank < c.rank → f d = false := by
  rw [Cause.forall_iff]
  unfold Cause.order
  cases c <;> simp [List.find?_cons_eq_some, Cause.rank, and_assoc, and_comm, and_left_comm]

/-- Settles O7: the chain of tests of `refusal` is the search for the first cause met. -/
theorem firstCauseRefuses : Obligations.FirstCauseRefuses := by
  intro s w
  rw [State.refusal_eq_find?]
  refine ⟨fun c => Cause.find?_order _ c, ?_⟩
  rw [Cause.forall_iff, List.find?_eq_none]
  simp [Cause.order]

end Sys2Proof.Machine

namespace Sys2Proof.Machine

-- One declaration after another: each kernel evaluation beside others holds a thread's stack, and the whole text has one memory limit.
set_option Elab.async false

/-! Fields given by their place: that they share no bit, or lie in one word, is arithmetic. -/

theorem Fld.apart_mk {p o l w p' o' l' w' : Nat} (h : p * 4096 + o ≠ p' * 4096 + o' ∨ (p = p' ∧ o = o' ∧ (l + w ≤ l' ∨ l' + w' ≤ l))) :
    Fld.apart ⟨p, o, l, w⟩ ⟨p', o', l', w'⟩ := h

theorem Fld.fits_mk {p o l w : Nat} (h : l + w ≤ 32) : (⟨p, o, l, w⟩ : Fld).lo + (⟨p, o, l, w⟩ : Fld).width ≤ 32 := h

/-! A refused write (O6). -/

section
variable {s : State} {w : Wr} {c : Cause}

/-- A write refused for another cause than its address stands at a word of a page that is present. -/
theorem State.addressed_of_refusal (h : s.refusal w = some c) (hb : c ≠ .badop) (hn : c ≠ .nopage) :
    w.off % 4 = 0 ∧ w.off ≤ 0xFFC ∧ pagePresent w.p = true := by
  rw [State.refusal_eq_find?, Cause.find?_order] at h
  obtain ⟨-, hfirst⟩ := h
  have hop := hfirst .badop (by cases c <;> simp_all [Cause.rank])
  have hpage := hfirst .nopage (by cases c <;> simp_all [Cause.rank])
  simp [State.meets] at hop hpage
  exact ⟨hop.1, hop.2, hpage⟩

theorem State.reject_regs (s : State) (w : Wr) (c : Cause) : s.reject w c = { s with regs := (s.reject w c).regs } := by
  unfold State.reject
  split <;> rfl

/-- A refusal records itself in the page's `REJ` word alone. -/
theorem State.rd_reject (s : State) (w : Wr) (c : Cause) {q o : Nat} (h : regKey q o ≠ regKey w.p 0x18) :
    (s.reject w c).rd q o = s.rd q o := by
  unfold State.reject State.count State.put
  split
  · rfl
  · simp only [State.rd_wr _ _ _ _ _ _ h.symm]

theorem State.get_reject (hb : c ≠ .badop) (hn : c ≠ .nopage) :
    (s.reject w c).get (Hdr.REJ_OFF w.p) = w.off % 2 ^ 12 ∧ (s.reject w c).get (Hdr.REJ_CAUSE w.p) = c.code % 2 ^ 4
      ∧ (s.reject w c).get (Hdr.REJ_SRC w.p) = srcRej w.src % 2 ^ 2
      ∧ (s.reject w c).get (Hdr.REJ_COUNT w.p) = min (s.get (Hdr.REJ_COUNT w.p) + 1) 255 := by
  unfold State.reject
  rw [if_neg (by simp [hb, hn])]
  dsimp only
  rw [State.get_count_same _ _ _ (Fld.fits_mk (by omega))]
  simp (disch := (first | (apply Fld.apart_mk; omega) | (apply Fld.fits_mk; omega))) only [State.count, State.get_put_apart, State.get_put_same]
  exact ⟨trivial, trivial, trivial, rfl⟩

/-- A write that a cause refuses answers the record of its refusal. -/
theorem State.busWrite_refused {src : Src} {p off t : Nat} {v m : Word}
    (hw : off % 4 = 0 → off ≤ 0xFFC → pagePresent p = true → writable p off ≠ 0)
    (h : (s.reach t).refusal ((s.reach t).wrOf src p off v m t) = some c) :
    (s.busWrite src p off v m t).1 = (s.reach t).reject ((s.reach t).wrOf src p off v m t) c := by
  unfold State.busWrite
  dsimp only
  rw [if_neg fun ⟨h4, hoff, hpage, hnone⟩ => hw h4 hoff hpage hnone, h]

end

theorem Cause.code_lt (c : Cause) : c.code < 2 ^ 4 := by cases c <;> decide

theorem srcRej_lt (src : Src) : srcRej src < 2 ^ 2 := by cases src <;> simp [srcRej]

/-- Settles O6: a refused write answers `reject`, which writes the four fields of `REJ` and nothing else. -/
theorem refusedWriteUpdatesOnlyRej : Obligations.RefusedWriteUpdatesOnlyRej := by
  intro t src p off v m s c hw h
  refine ⟨_, congrArg Host.Outcome.next (State.busWrite_refused hw h), ?_, fun q o ho => ?_, fun hc => ?_, fun hb hn => ?_⟩
  · exact State.reject_regs _ _ _
  · exact State.rd_reject _ _ _ ho
  · unfold State.reject
    rw [if_pos hc]
    rfl
  · obtain ⟨hoff, hcause, hsrc, hcount⟩ := State.get_reject (s := s.reach t) (w := (s.reach t).wrOf src p off v m t) hb hn
    obtain ⟨-, hle, -⟩ := State.addressed_of_refusal h hb hn
    have hlt : off < 2 ^ 12 := by rw [State.wrOf_off] at hle; omega
    exact ⟨hoff.trans (Nat.mod_eq_of_lt hlt), hcause.trans (Nat.mod_eq_of_lt c.code_lt), hsrc.trans (Nat.mod_eq_of_lt (srcRej_lt src)), hcount⟩

end Sys2Proof.Machine

namespace Sys2Proof.Machine

-- One declaration after another: each kernel evaluation beside others holds a thread's stack, and the whole text has one memory limit.
set_option Elab.async false

/-! A plain register's write, bit by bit (O8). -/

theorem plainReg_not_window {p off : Nat} (h : plainReg p off = true) : isWindow p off = false := by
  simp only [plainReg, Bool.and_eq_true, Bool.or_eq_true, decide_eq_true_eq, bne_iff_ne] at h
  unfold isWindow
  simp only [Bool.or_eq_false_iff, Bool.and_eq_false_iff, decide_eq_false_iff_not]
  omega

/-- A register with a writable bit has every bit of a type but RO writable. -/
theorem writable_bit {p off i : Nat} {y : RegTy} (hw : writable p off ≠ 0) (hk : (bitsOfKind p off y).getLsbD i = true) :
    (writable p off).getLsbD i = decide (y ≠ .ro) := by
  revert hw
  unfold writable
  dsimp only
  repeat' split
  · exact fun _ => typeMask_of_kind hk _
  · exact fun h => absurd rfl h
  · exact fun _ => typeMask_of_kind hk _

section
variable {s : State} {src : Src} {p off t i : Nat} {v m : Word} {y : RegTy}

/-- The word that a write finds: the shadow's bits of RWS type, the register's others. -/
theorem State.found_bit (hwin : isWindow p off = false) (hk : (bitsOfKind p off y).getLsbD i = true) (hi : i < 32) :
    (s.found p off t src).getLsbD i
      = if y = .rws then (look (s.rd p off) s.shadow (regKey p off)).getLsbD i else (s.rd p off).getLsbD i := by
  have hrws := typeMask_of_kind hk (fun x => decide (x = .rws))
  unfold State.found
  by_cases hy : y = .rws
  all_goals simp only [hwin, hrws, hi, hy, BitVec.getLsbD_or, BitVec.getLsbD_and, BitVec.getLsbD_not]; simp

/-- The word that a write would leave, by the type of the bit. -/
theorem State.wrOf_new_bit (hk : (bitsOfKind p off y).getLsbD i = true) (hi : i < 32) :
    (s.wrOf src p off v m t).new.getLsbD i
      = if m.getLsbD i ∧ (y = .rw ∨ y = .rwl ∨ y = .rws ∨ y = .wo) then v.getLsbD i
        else (s.found p off t src).getLsbD i && !(decide (y = .w1c) && v.getLsbD i && m.getLsbD i) := by
  have hset := typeMask_of_kind hk (fun x => decide (x = .rw) || decide (x = .rwl) || decide (x = .rws) || decide (x = .wo))
  have hw1c := typeMask_of_kind hk (fun x => decide (x = .w1c))
  have hheld := held_of_kind hk
  unfold State.wrOf
  simp only [hset, hw1c, hheld, hi, BitVec.getLsbD_or, BitVec.getLsbD_and, BitVec.getLsbD_not]
  generalize (s.found p off t src).getLsbD i = old
  cases y <;> cases m.getLsbD i <;> cases v.getLsbD i <;> simp

/-- The word that a write stores: RWS bits stay, write-only bits read as 0. -/
theorem State.rd_land_bit {w : Wr} (hwin : isWindow w.p w.off = false) (hk : (bitsOfKind w.p w.off y).getLsbD i = true) (hi : i < 32) :
    ((s.land w).rd w.p w.off).getLsbD i
      = if y = .rws then (s.rd w.p w.off).getLsbD i else (w.new.getLsbD i && !(decide (y = .wo) && !holdsWo w.p w.off)) := by
  have hrws := typeMask_of_kind hk (fun x => decide (x = .rws))
  have hwo := typeMask_of_kind hk (fun x => decide (x = .wo))
  have hstored : (s.land w).rd w.p w.off = (s.wr w.p w.off (((w.new &&& ~~~typeMask w.p w.off (fun y => decide (y = .rws)))
      ||| (s.rd w.p w.off &&& typeMask w.p w.off (fun y => decide (y = .rws))))
      &&& ~~~(if holdsWo w.p w.off then 0 else typeMask w.p w.off (fun y => decide (y = .wo))))).rd w.p w.off := by
    unfold State.land
    simp only [hwin, Bool.false_eq_true, if_false]
    split <;> rfl
  rw [hstored, State.rd_wr_same]
  simp only [apply_ite (fun x : Word => x.getLsbD i), hrws, hwo, hi, BitVec.getLsbD_or, BitVec.getLsbD_and, BitVec.getLsbD_not]
  cases y <;> cases holdsWo w.p w.off <;> simp

end

theorem State.land_parts (s : State) (w : Wr) : s.land w = { s with regs := (s.land w).regs, shadow := (s.land w).shadow } := by
  unfold State.land
  dsimp only
  repeat' split
  all_goals rfl

theorem State.land_shadow (s : State) (w : Wr) :
    (s.land w).shadow = if typeMask w.p w.off (fun y => decide (y = .rws)) &&& w.m = 0 then s.shadow else ins (regKey w.p w.off) w.new s.shadow := by
  unfold State.land
  dsimp only
  split <;> split <;> rfl

/-- A write touches the shadow of its own register alone, and that where it names an RWS bit. -/
theorem State.look_shadow_land (s : State) (w : Wr) (d : Word) (k : Nat) :
    look d (s.land w).shadow k
      = if typeMask w.p w.off (fun y => decide (y = .rws)) &&& w.m ≠ 0 ∧ k = regKey w.p w.off then w.new else look d s.shadow k := by
  rw [State.land_shadow]
  by_cases hn : typeMask w.p w.off (fun y => decide (y = .rws)) &&& w.m = 0
  · rw [if_pos hn, if_neg fun h => h.1 hn]
  · rw [if_neg hn, look_ins]
    exact if_congr ⟨fun h => ⟨hn, h.symm⟩, fun h => h.2.symm⟩ rfl rfl

/-- A view of what a table lists or defaults to depends on the default by that view alone. -/
theorem look_congr {α β : Type} (f : α → β) {d e : α} (h : f d = f e) (m : Sparse α) (k : Nat) : f (look d m k) = f (look e m k) := by
  induction m with
  | nil => exact h
  | cons a m ih =>
    obtain ⟨j, v⟩ := a
    unfold look
    split
    · rfl
    · exact ih

section
variable {s : State} {src : Src} {p off t : Nat} {v m : Word}

/-- The RWS bits of the shadow take the written value where the mask names them, and the others stay. -/
theorem State.shadow_land_bit {i : Nat} (hw : writable p off ≠ 0) (hwin : isWindow p off = false)
    (hk : (bitsOfKind p off .rws).getLsbD i = true) (hi : i < 32) :
    (look ((s.land (s.wrOf src p off v m t)).rd p off) (s.land (s.wrOf src p off v m t)).shadow (regKey p off)).getLsbD i
      = if m.getLsbD i then v.getLsbD i else (look (s.rd p off) s.shadow (regKey p off)).getLsbD i := by
  rw [State.look_shadow_land]
  by_cases hnamed : typeMask p off (fun y => decide (y = .rws)) &&& (m &&& writable p off) = 0
  · have hm : m.getLsbD i = false := by
      have hbit := congrArg (fun x : Word => x.getLsbD i) hnamed
      simpa [BitVec.getLsbD_and, typeMask_of_kind hk, writable_bit hw hk] using hbit
    rw [if_neg fun h => h.1 hnamed, hm, if_neg Bool.false_ne_true]
    refine look_congr (fun x : Word => x.getLsbD i) ?_ s.shadow _
    exact (State.rd_land_bit (w := s.wrOf src p off v m t) hwin hk hi).trans (if_pos rfl)
  · rw [if_pos ⟨hnamed, rfl⟩, State.wrOf_new_bit hk hi, State.found_bit hwin hk hi]
    simp

end

/-- Settles O8: the write lands, and each bit of the stored word and of the shadow goes by its type. -/
theorem plainWriteSetsNamedBits : Obligations.PlainWriteSetsNamedBits := by
  intro t src p off v m s hplain hacc
  obtain ⟨hw, -⟩ := id hacc
  have hwin := plainReg_not_window hplain
  have hu : exec (.registerWrite t src p off v m) s = .next ((s.reach t).land ((s.reach t).wrOf src p off v m t)) := by
    refine congrArg Host.Outcome.next ?_
    rw [State.busWrite_accepted hacc]
    exact State.landed_plain hplain
  have hbit : ∀ {i y}, (bitsOfKind p off y).getLsbD i = true → i < 32 →
      (((s.reach t).land ((s.reach t).wrOf src p off v m t)).rd p off).getLsbD i
        = if y = .rws then (s.rd p off).getLsbD i
          else if m.getLsbD i ∧ (y = .rw ∨ y = .rwl) then v.getLsbD i
          else if y = .wo then (((s.reach t).wrOf src p off v m t).new.getLsbD i && holdsWo p off)
          else (s.rd p off).getLsbD i && !(decide (y = .w1c) && v.getLsbD i && m.getLsbD i) := by
    intro i y hk hi
    refine (State.rd_land_bit (w := (s.reach t).wrOf src p off v m t) hwin hk hi).trans ?_
    cases y <;> simp [State.wrOf_new_bit hk hi, State.found_bit hwin hk hi]
  refine ⟨_, hu, fun y hy => ?_, ?_, ?_, ?_, ?_, fun q o ho => ?_, fun d k hk => ?_, ?_⟩
  · refine eq_on_kind fun i hk => ?_
    have hi := BitVec.lt_of_getLsbD hk
    rw [hbit hk hi, BitVec.getLsbD_or, BitVec.getLsbD_and, BitVec.getLsbD_and, BitVec.getLsbD_not]
    rcases hy with rfl | rfl <;> cases m.getLsbD i <;> simp [hi]
  · refine eq_on_kind fun i hk => ?_
    have hi := BitVec.lt_of_getLsbD hk
    rw [hbit hk hi, BitVec.getLsbD_and, BitVec.getLsbD_not, BitVec.getLsbD_and]
    simp only [hi, reduceCtorEq, decide_true, or_self, and_false, if_false, Bool.true_and]
  · refine eq_on_kind fun i hk => (hbit hk (BitVec.lt_of_getLsbD hk)).trans ?_
    simp
  · exact eq_on_kind fun i hk => (hbit hk (BitVec.lt_of_getLsbD hk)).trans (if_pos rfl)
  · refine eq_on_kind fun i hk => ?_
    have hi := BitVec.lt_of_getLsbD hk
    refine (State.shadow_land_bit (s := s.reach t) hw hwin hk hi).trans ?_
    rw [BitVec.getLsbD_or, BitVec.getLsbD_and, BitVec.getLsbD_and, BitVec.getLsbD_not]
    cases hm : m.getLsbD i <;> simp only [hi, decide_true, Bool.not_false, Bool.not_true, Bool.and_true, Bool.and_false,
      Bool.or_false, Bool.false_or, if_true, if_false, Bool.false_eq_true]
    rfl
  · exact State.rd_land _ _ _ _ (Ne.symm ho)
  · exact (State.look_shadow_land _ _ _ _).trans (if_neg fun h => hk h.2)
  · exact State.land_parts _ _

end Sys2Proof.Machine

namespace Sys2Proof.Machine

-- One declaration after another: each kernel evaluation beside others holds a thread's stack, and the whole text has one memory limit.
set_option Elab.async false

/-! The page lock (O12). -/

theorem pagePresent_lt {p : Nat} (h : pagePresent p = true) : p < 0x52 := by
  by_contra hp
  have hrows : rowsOf p = [] := by
    unfold rowsOf
    split
    all_goals first | omega | rfl
  simp [pagePresent, hrows] at h

/-- `KEY` is write-only in every page's LOCK word, and nothing else of the word can be written. -/
theorem lockWord_of_present {p : Nat} (h : pagePresent p = true) :
    maskOf 0 16 &&& typeMask p 0x1C (fun y => decide (y = .rw) || decide (y = .rwl) || decide (y = .rws) || decide (y = .wo))
        &&& ~~~typeMask p 0x1C (fun y => decide (y = .w1c)) &&& heldBits p 0x1C = maskOf 0 16
      ∧ writable p 0x1C = 0xFFFF := by
  have hall : ∀ q < 0x52, pagePresent q = true →
      maskOf 0 16 &&& typeMask q 0x1C (fun y => decide (y = .rw) || decide (y = .rwl) || decide (y = .rws) || decide (y = .wo))
          &&& ~~~typeMask q 0x1C (fun y => decide (y = .w1c)) &&& heldBits q 0x1C = maskOf 0 16
        ∧ writable q 0x1C = 0xFFFF := by decide +kernel
  exact hall p (pagePresent_lt h) h

theorem State.meets_of_accepted {s : State} {w : Wr} (h : s.refusal w = none) (c : Cause) : s.meets w c = false :=
  (firstCauseRefuses s w).2.mp h c

section
variable {s : State} {src : Src} {p k t : Nat}

/-- An accepted write of LOCK.KEY hands the word written to the lock. -/
theorem State.exec_lockKey (hk : k < 65536) (ha : s.Accepts src p 0x1C (BitVec.ofNat 32 k) 0xFFFFFFFF t) :
    exec (.lockKeyWrite t src p k) s = .next ((s.reach t).lockKey src p k t) := by
  have hpage : pagePresent p = true := by
    obtain ⟨-, hacc⟩ := ha
    simpa [State.meets] using State.meets_of_accepted hacc .nopage
  obtain ⟨hmask, hwritable⟩ := lockWord_of_present hpage
  have hkey : bitsOf ((s.reach t).wrOf src p 0x1C (BitVec.ofNat 32 k) 0xFFFFFFFF t).new 0 16 = k := by
    rw [State.wrOf_bits hmask (by decide) (fun i hi => by interval_cases i <;> decide)]
    simp [bitsOf, Nat.mod_eq_of_lt hk]
  refine congrArg Host.Outcome.next ?_
  rw [Nat.mod_eq_of_lt hk, State.busWrite_accepted ha]
  unfold State.landed
  rw [if_neg (by simp), if_pos (by simp), if_neg (by simp [State.wrOf, hwritable]), hkey]
  rfl

/-- The fields of a page's lock and its timer. -/
def State.lockOf (s : State) (p : Nat) : Nat × Nat × Option Nat := (s.get (Hdr.LOCK_OPEN p), s.get (Hdr.LOCK_HOLDER p), s.due (.lock p))

theorem State.lockOf_lockGive (s : State) (p t : Nat) {c : Nat} (hc : c < 4) : (s.lockGive p c t).lockOf p = (1, c, some (t + 1000000)) := by
  unfold State.lockGive State.lockOf
  rw [State.due_arm_same, State.get_arm, State.get_arm, State.get_put_apart _ _ _ _ (Fld.apart_mk (by omega)),
    State.get_put_same _ _ _ (Fld.fits_mk (by omega)), State.get_put_same _ _ _ (Fld.fits_mk (by omega))]
  exact congrArg (fun x => (1, x, some (t + 1000000))) (Nat.mod_eq_of_lt hc)

theorem State.lockOf_lockClose (s : State) (p : Nat) : (s.lockClose p).lockOf p = (0, 0, none) := by
  unfold State.lockClose State.lockOf
  rw [State.due_put, State.due_put, State.due_disarm_same, State.get_put_apart _ _ _ _ (Fld.apart_mk (by omega)),
    State.get_put_same _ _ _ (Fld.fits_mk (by omega)), State.get_put_same _ _ _ (Fld.fits_mk (by omega))]
  rfl

theorem State.rd_put (s : State) (f : Fld) (v : Nat) {q o : Nat} (h : regKey q o ≠ regKey f.page f.off) : (s.put f v).rd q o = s.rd q o :=
  State.rd_wr _ _ _ _ _ _ h.symm

theorem State.rd_lockGive (s : State) (p c t : Nat) {q o : Nat} (h : regKey q o ≠ regKey p 0x1C) : (s.lockGive p c t).rd q o = s.rd q o := by
  unfold State.lockGive
  rw [State.rd_arm, State.rd_put _ (Hdr.LOCK_HOLDER p) _ h, State.rd_put _ (Hdr.LOCK_OPEN p) _ h]

theorem State.rd_lockClose (s : State) (p : Nat) {q o : Nat} (h : regKey q o ≠ regKey p 0x1C) : (s.lockClose p).rd q o = s.rd q o := by
  unfold State.lockClose
  rw [State.rd_put _ (Hdr.LOCK_HOLDER p) _ h, State.rd_put _ (Hdr.LOCK_OPEN p) _ h, State.rd_disarm]

/-- What the page's first word is once a word has been taken that is not the first. -/
def State.dropFirst (s : State) (p : Nat) : State := { s with lockFirst := s.lockFirst.filter (fun e => decide (e.1 ≠ p)) }

theorem State.dropFirst_first (s : State) (p : Nat) : (s.dropFirst p).lockFirst.find? (fun e => decide (e.1 = p)) = none := by
  simp [State.dropFirst]

/-- The word of a source that does not hold the open lock changes nothing. -/
theorem State.lockKey_of_held (h : s.lockOpen p t = true) (hh : s.get (Hdr.LOCK_HOLDER p) ≠ srcRej src) : s.lockKey src p k t = s := by
  unfold State.lockKey
  simp [h, hh]

/-- Every other word, by its value. -/
theorem State.lockKey_of_free (h : ¬ (s.lockOpen p t = true ∧ s.get (Hdr.LOCK_HOLDER p) ≠ srcRej src)) :
    s.lockKey src p k t =
      if k = 0 then (if s.lockOpen p t then (s.dropFirst p).lockClose p else s.dropFirst p)
      else if k = 0x5AFE then { s.dropFirst p with lockFirst := (p, src, t) :: (s.dropFirst p).lockFirst }
      else if k = 0xA501 then
        match s.lockFirst.find? (fun e => decide (e.1 = p)) with
        | some (_, src0, t0) => if srcRej src0 = srcRej src ∧ t < t0 + 640 then (s.dropFirst p).lockGive p (srcRej src) t else s.dropFirst p
        | none => s.dropFirst p
      else s.dropFirst p := by
  have hfree : ¬ (s.lockOpen p t && s.get (Hdr.LOCK_HOLDER p) != srcRej src) = true := by simpa using h
  exact (if_neg hfree).trans rfl

end

theorem State.refusal_of_meets {s : State} {w : Wr} {c : Cause} (h : s.meets w c = true) : ∃ d, s.refusal w = some d ∧ d.rank ≤ c.rank := by
  rw [State.refusal_eq_find?]
  have hsome : (Cause.order.find? (s.meets w)).isSome = true :=
    List.find?_isSome.mpr ⟨c, by cases c <;> simp [Cause.order], h⟩
  obtain ⟨d, hd⟩ := Option.isSome_iff_exists.mp hsome
  refine ⟨d, hd, ?_⟩
  by_contra hlt
  obtain ⟨-, hfirst⟩ := (Cause.find?_order _ _).mp hd
  rw [hfirst c (by omega)] at h
  cases h

/-- The state but for what the page lock writes. -/
def State.LockApart (s u : State) : Prop := ∃ r t l, u = { s with regs := r, timers := t, lockFirst := l }

theorem State.LockApart.eq {s u : State} (h : s.LockApart u) : u = { s with regs := u.regs, timers := u.timers, lockFirst := u.lockFirst } := by
  obtain ⟨r, t, l, rfl⟩ := h
  rfl

theorem State.lockApart_lockKey (s : State) (src : Src) (p k t : Nat) : s.LockApart (s.lockKey src p k t) := by
  by_cases held : s.lockOpen p t = true ∧ s.get (Hdr.LOCK_HOLDER p) ≠ srcRej src
  · rw [State.lockKey_of_held held.1 held.2]
    exact ⟨_, _, _, rfl⟩
  · rw [State.lockKey_of_free held]
    repeat' split
    all_goals exact ⟨_, _, _, rfl⟩

theorem State.rd_dropFirst (s : State) (p q o : Nat) : (s.dropFirst p).rd q o = s.rd q o := rfl

/-- Whatever word is written, no other register word than the lock's changes. -/
theorem State.rd_lockKey (s : State) (src : Src) (p k t : Nat) {q o : Nat} (h : regKey q o ≠ regKey p 0x1C) :
    (s.lockKey src p k t).rd q o = s.rd q o := by
  by_cases held : s.lockOpen p t = true ∧ s.get (Hdr.LOCK_HOLDER p) ≠ srcRej src
  · rw [State.lockKey_of_held held.1 held.2]
  · rw [State.lockKey_of_free held]
    repeat' split
    · rw [State.rd_lockClose _ _ h, State.rd_dropFirst]
    · rw [State.rd_dropFirst]
    · rfl
    · rw [State.rd_lockGive _ _ _ _ h, State.rd_dropFirst]
    all_goals rw [State.rd_dropFirst]

/-- The end of a lock's timer closes the lock at its deadline. -/
theorem State.exec_lockExpiry {s : State} {p d : Nat} (h : s.due (.lock p) = some d) :
    exec (.lockExpiry p) s = .next (((s.disarm (.lock p)).reach d).lockClose p) := by
  refine congrArg Host.Outcome.next ?_
  unfold State.onExpiry
  rw [h]

@[simp] theorem State.lockOf_reach (s : State) (t p : Nat) : (s.reach t).lockOf p = s.lockOf p := by simp [State.lockOf]
@[simp] theorem State.lockOf_dropFirst (s : State) (q p : Nat) : (s.dropFirst q).lockOf p = s.lockOf p := rfl
@[simp] theorem State.lockOpen_reach (s : State) (t p x : Nat) : (s.reach t).lockOpen p x = s.lockOpen p x := by simp [State.lockOpen]

section
variable {s : State} {src : Src} {p t : Nat} (h : ¬ (s.lockOpen p t = true ∧ s.get (Hdr.LOCK_HOLDER p) ≠ srcRej src))
include h

theorem State.lockKey_first :
    (s.lockKey src p 0x5AFE t).lockOf p = s.lockOf p
      ∧ (s.lockKey src p 0x5AFE t).lockFirst.find? (fun e => decide (e.1 = p)) = some (p, src, t) := by
  rw [State.lockKey_of_free h]
  exact ⟨rfl, List.find?_cons_of_pos (by simp)⟩

theorem State.lockFirst_lockKey {k : Nat} (hk : k ≠ 0x5AFE) :
    (s.lockKey src p k t).lockFirst.find? (fun e => decide (e.1 = p)) = none := by
  rw [State.lockKey_of_free h, if_neg hk]
  have hclose : ((s.dropFirst p).lockClose p).lockFirst = (s.dropFirst p).lockFirst := rfl
  have hgive : ((s.dropFirst p).lockGive p (srcRej src) t).lockFirst = (s.dropFirst p).lockFirst := rfl
  repeat' split
  all_goals simp only [hclose, hgive, State.dropFirst_first]

theorem State.lockKey_second {src0 : Src} {t0 : Nat} (hf : s.lockFirst.find? (fun e => decide (e.1 = p)) = some (p, src0, t0)) :
    (s.lockKey src p 0xA501 t).lockOf p
      = if srcRej src0 = srcRej src ∧ t < t0 + 640 then (1, srcRej src, some (t + 1000000)) else s.lockOf p := by
  rw [State.lockKey_of_free h, hf]
  by_cases hin : srcRej src0 = srcRej src ∧ t < t0 + 640
  · rw [if_pos hin]
    exact (congrArg (State.lockOf · p) (if_pos hin)).trans (State.lockOf_lockGive _ _ _ (srcRej_lt src))
  · rw [if_neg hin]
    exact (congrArg (State.lockOf · p) (if_neg hin)).trans (State.lockOf_dropFirst _ _ _)

theorem State.lockKey_second_alone (hf : s.lockFirst.find? (fun e => decide (e.1 = p)) = none) :
    (s.lockKey src p 0xA501 t).lockOf p = s.lockOf p := by
  rw [State.lockKey_of_free h, hf]
  exact State.lockOf_dropFirst _ _ _

theorem State.lockKey_close (hopen : s.lockOpen p t = true) : (s.lockKey src p 0 t).lockOf p = (0, 0, none) := by
  rw [State.lockKey_of_free h, if_pos rfl, if_pos hopen, State.lockOf_lockClose]

theorem State.lockKey_other {k : Nat} (h0 : k ≠ 0) (h1 : k ≠ 0xA501) (h2 : k ≠ 0x5AFE) : (s.lockKey src p k t).lockOf p = s.lockOf p := by
  rw [State.lockKey_of_free h, if_neg h0, if_neg h2, if_neg h1, State.lockOf_dropFirst]

end

/-- Settles O12: the lock's transitions by the word written, the end of its timer, and the order of the causes. -/
theorem pageLockFollowsItsKeys : Obligations.PageLockFollowsItsKeys := by
  refine ⟨fun t src p k s hk ha => ⟨_, State.exec_lockKey hk ha, ?_⟩, fun p d s hd => ⟨_, State.exec_lockExpiry hd, ?_⟩,
    fun s w h => State.refusal_of_meets (c := .locked) h⟩
  · refine ⟨fun _ _ h => State.rd_lockKey _ _ _ _ _ h, ((s.reach t).lockApart_lockKey src p k t).eq, fun hopen hholder => ?_, fun hfree => ?_⟩
    · rw [State.lockKey_of_held (s := s.reach t) (by simpa using hopen) (by simpa using hholder)]
      exact ⟨State.lockOf_reach _ _ _, rfl⟩
    · have hfree : ¬ ((s.reach t).lockOpen p t = true ∧ (s.reach t).get (Hdr.LOCK_HOLDER p) ≠ srcRej src) := by simpa using hfree
      refine ⟨fun h => ?_, fun h => State.lockFirst_lockKey hfree h, fun src0 t0 h hf hs ht => ?_, fun src0 t0 h hf hs => ?_, fun h hf => ?_,
        fun h hopen => ?_, fun h0 h1 h2 => ?_⟩
      · subst h
        obtain ⟨hlock, hfirst⟩ := State.lockKey_first hfree
        exact ⟨hlock.trans (State.lockOf_reach _ _ _), hfirst⟩
      · subst h
        exact (State.lockKey_second hfree hf).trans (if_pos ⟨hs, ht⟩)
      · subst h
        exact ((State.lockKey_second hfree hf).trans (if_neg (by omega))).trans (State.lockOf_reach _ _ _)
      · subst h
        exact (State.lockKey_second_alone hfree hf).trans (State.lockOf_reach _ _ _)
      · subst h
        exact State.lockKey_close hfree (by simpa using hopen)
      · exact (State.lockKey_other hfree h0 h1 h2).trans (State.lockOf_reach _ _ _)
  · have hlock := ((s.disarm (.lock p)).reach d).lockOf_lockClose p
    simp only [State.lockOf, Prod.mk.injEq] at hlock
    obtain ⟨hopen, hholder, hdue⟩ := hlock
    exact ⟨hopen, hholder, hdue, rfl, fun _ _ h => (State.rd_lockClose _ _ h).trans (by simp)⟩

end Sys2Proof.Machine

namespace Sys2Proof.Machine

-- One declaration after another: each kernel evaluation beside others holds a thread's stack, and the whole text has one memory limit.
set_option Elab.async false

/-! The effects of device commands (O9, O10). -/

theorem State.bitAt_evt (s : State) (p b j : Nat) :
    bitAt ((s.evt p b).get (Hdr.EVT p)) j = ((decide (b = j) && decide (j < 32)) || bitAt (s.get (Hdr.EVT p)) j) := by
  unfold State.evt
  rw [State.get_put_same _ _ _ (Fld.fits_mk (by omega))]
  have hlt : s.get (Hdr.EVT p) < 2 ^ 32 := s.get_lt _
  show (setBit (s.get (Hdr.EVT p)) b % 2 ^ 32).testBit j = _
  rw [Nat.testBit_mod_two_pow, setBit_testBit]
  by_cases hj : j < 32
  · simp [bitAt, hj]
  · have hz : (s.get (Hdr.EVT p)).testBit j = false :=
      Nat.testBit_lt_two_pow (lt_of_lt_of_le hlt (Nat.pow_le_pow_right (by decide) (by omega)))
    simp [bitAt, hj, hz]

/-- An event bit reads as 1 once it is set. -/
theorem State.bitAt_evt_same (s : State) (p : Nat) {b : Nat} (hb : b < 32) : bitAt ((s.evt p b).get (Hdr.EVT p)) b = true := by
  simp [State.bitAt_evt, hb]

theorem State.get_evt (s : State) {f : Fld} (p b : Nat) (h : Fld.apart (Hdr.EVT p) f) : (s.evt p b).get f = s.get f :=
  State.get_put_apart _ _ _ _ h

section
variable {s : State} {src : Src} {t : Nat} {v m : Word}

/-- An accepted command on a page of the device level lands, and then has its effect. -/
theorem State.exec_devEffect {i : Instr} {p off : Nat} (ha : s.Accepts src p off v m t)
    (hi : exec i s = .next (s.busWrite src p off v m t).1) (hp : p ≤ 5 ∨ (0x09 ≤ p ∧ p ≤ 0x0B) ∨ p = 0x2C ∨ p = 0x50)
    (ho : off ≠ 8 ∧ off ≠ 0x1C ∧ off ≠ 0x10 ∧ off ≠ 0x28) :
    exec i s = .next (((s.reach t).land ((s.reach t).wrOf src p off v m t)).devEffect ((s.reach t).wrOf src p off v m t)) := by
  have hf : fcrSource p off = none := by
    unfold fcrSource
    rw [if_neg (by omega)]
  rw [hi, State.busWrite_effect ha ho (by omega) hf, if_pos hp]

end

theorem bitsOf_one (w : Word) (lo : Nat) : bitsOf w lo 1 = b2n (w.getLsbD lo) := by
  unfold bitsOf
  rw [BitVec.getLsbD, Nat.testBit_eq_decide_div_mod_eq, Nat.shiftRight_eq_div_pow]
  rcases Nat.mod_two_eq_zero_or_one (w.toNat / 2 ^ lo) with h | h <;> simp [h, b2n]

/-! The reference of the root PLL. -/

theorem State.get_rclkWait (s : State) (t : Nat) (f : Fld) : (s.rclkWait t).get f = s.get f := by
  unfold State.rclkWait
  repeat' split
  · rfl
  · exact State.get_arm _ _ _ _
  · exact State.get_disarm _ _ _

/-- The PLL takes a reference, and slews to it unless it had it before. -/
theorem State.get_takeRef (s : State) {r : Nat} (hr : r < 4) :
    (s.takeRef r).get CLK.ROOTSRC = r ∧ (s.get CLK.ROOTSRC ≠ r → (s.takeRef r).get CLK.SLEWING = 1) := by
  unfold State.takeRef
  split
  · exact ⟨‹_›, fun h => absurd ‹_› h⟩
  · rw [State.get_disarm, State.get_disarm, State.get_put_apart _ _ _ _ (by decide), State.get_put_same _ _ _ (by decide),
      State.get_put_same _ _ _ (by decide)]
    exact ⟨Nat.mod_eq_of_lt hr, fun _ => rfl⟩

theorem State.get_takeRef_apart (s : State) (r : Nat) {f : Fld} (h1 : CLK.ROOTSRC.apart f) (h2 : CLK.SLEWING.apart f) :
    (s.takeRef r).get f = s.get f := by
  unfold State.takeRef
  split
  · rfl
  · rw [State.get_disarm, State.get_put_apart _ _ _ _ h2, State.get_put_apart _ _ _ _ h1]

/-- REFSEL shows the reference selected; where the root runs, RCLK is taken, or a crystal that is accepted. -/
theorem State.get_refSelect (s : State) {v : Nat} (hv : v < 2) (t : Nat) :
    (s.refSelect v t).get CLK.REFSEL = v
      ∧ (s.get CLK.ROOTSRC ≠ 0 →
          (v = 1 → (s.refSelect v t).get CLK.ROOTSRC = 2 ∧ (s.get CLK.ROOTSRC ≠ 2 → (s.refSelect v t).get CLK.SLEWING = 1))
          ∧ (v = 0 → s.get CLK.XOK = 1 →
              (s.refSelect v t).get CLK.ROOTSRC = 1 ∧ (s.get CLK.ROOTSRC ≠ 1 → (s.refSelect v t).get CLK.SLEWING = 1))) := by
  have hsel : (s.put CLK.REFSEL v).get CLK.REFSEL = v := (State.get_put_same _ _ _ (by decide)).trans (Nat.mod_eq_of_lt hv)
  have hroot : (s.put CLK.REFSEL v).get CLK.ROOTSRC = s.get CLK.ROOTSRC := State.get_put_apart _ _ _ _ (by decide)
  have hxok : (s.put CLK.REFSEL v).get CLK.XOK = s.get CLK.XOK := State.get_put_apart _ _ _ _ (by decide)
  have htake := fun r => State.get_takeRef_apart (s.put CLK.REFSEL v) r (f := CLK.REFSEL) (by decide) (by decide)
  unfold State.refSelect State.flag
  simp only [hroot, hxok]
  repeat' split
  · exact ⟨hsel, fun h => absurd ‹_› h⟩
  · refine ⟨?_, fun _ => ⟨fun _ => ?_, fun h => absurd h (by omega)⟩⟩
    · rw [State.get_rclkWait, htake, hsel]
    · rw [State.get_rclkWait, State.get_rclkWait, ← hroot]
      exact State.get_takeRef _ (by decide)
  · refine ⟨?_, fun _ => ⟨fun h => absurd h ‹_›, fun _ _ => ?_⟩⟩
    · rw [State.get_rclkWait, htake, hsel]
    · rw [State.get_rclkWait, State.get_rclkWait, ← hroot]
      exact State.get_takeRef _ (by decide)
  · exact ⟨by rw [State.get_rclkWait, hsel], fun _ => ⟨fun h => absurd h ‹_›, fun _ h => absurd h (by simp_all)⟩⟩

/-- Settles O9: each command lands, and its register's effect writes what it names. -/
theorem deviceWritesTakeEffect : Obligations.DeviceWritesTakeEffect := by
  refine fun s src t => ⟨fun v m ha => ⟨_, State.exec_devEffect ha rfl (by decide) (by decide), ?_⟩,
    fun us ha => ⟨_, State.exec_devEffect ha rfl (by decide) (by decide), ?_⟩,
    fun ha => ⟨_, State.exec_devEffect ha rfl (by decide) (by decide), ?_⟩,
    fun ha => ⟨_, State.exec_devEffect ha rfl (by decide) (by decide), ?_⟩,
    fun v ha => ⟨_, State.exec_devEffect ha rfl (by decide) (by decide), ?_⟩,
    fun rclk v m ha => ⟨_, State.exec_devEffect ha rfl (by decide) (by decide), ?_⟩⟩
  · rw [effect_lsctrl _ _ rfl rfl, State.wrOf_one, if_pos (by simp; decide +kernel)]
    refine ⟨?_, ?_, ?_, ?_⟩
    · simp (disch := (apply Fld.apart_mk; omega)) only [State.get_detect, State.get_evt]
      exact State.get_put_same _ _ _ (by decide)
    · simp (disch := (apply Fld.apart_mk; omega)) only [State.get_detect, State.get_evt, State.get_put_apart]
      exact State.get_put_same _ _ _ (by decide)
    · simp only [State.get_detect]
      exact State.bitAt_evt_same _ _ (by decide)
    · simp [State.detect]
  · have hk : us % 16 < 16 := Nat.mod_lt _ (by decide)
    generalize us % 16 = k at hk ha ⊢
    have hgo : ((BitVec.ofNat 32 (k + 16)).getLsbD 4 && ((0xFFFFFFFF : Word).getLsbD 4 && (writable 0x2C 0x140).getLsbD 4)) = true := by
      interval_cases k <;> decide +kernel
    have hbits : bitsOf (BitVec.ofNat 32 (k + 16)) 0 4 = k := by interval_cases k <;> decide +kernel
    rw [effect_tstag _ _ rfl rfl, State.wrOf_one, if_pos hgo,
      State.wrOf_bits (by decide +kernel) (by decide) (fun i hi => by interval_cases i <;> decide), hbits]
    simp
  · rw [effect_mmclr _ _ rfl rfl, State.wrOf_one, if_pos (by decide +kernel)]
    exact ⟨(State.get_put_apart _ _ _ _ (by decide)).trans (State.get_put_same _ _ _ (by decide)), State.get_put_same _ _ _ (by decide)⟩
  · rw [effect_padrel _ _ rfl rfl, State.wrOf_one, if_pos (by decide +kernel)]
    exact State.get_put_same _ _ _ (by decide)
  · have hv : ((s.reach t).wrOf src 0x02 0x148 v 0xFFFFFFFF t).new.toNat = v.toNat := by
      have hbits := State.wrOf_bits (s := s.reach t) (src := src) (p := 0x02) (off := 0x148) (v := v) (m := 0xFFFFFFFF) (t := t) (lo := 0)
        (width := 32) (by decide +kernel) (by decide) (fun i hi => by interval_cases i <;> decide)
      simpa [bitsOf, Nat.mod_eq_of_lt (BitVec.isLt _)] using hbits
    rw [effect_wktmr _ _ rfl rfl, hv]
    unfold State.wakeTimer
    by_cases h0 : v = 0
    · rw [if_pos h0, if_pos (by simp [h0])]
      exact State.due_disarm_same _ _
    · rw [if_neg h0, if_neg (by simpa [← BitVec.toNat_inj] using h0)]
      exact State.due_arm_same _ _ _
  · have hbit : bitsOf ((v &&& 0xFFFFFFFE) ||| BitVec.ofNat 32 (b2n rclk)) 0 1 = b2n rclk := by
      rw [bitsOf_one]
      cases rclk <;> simp [b2n]
    have hm : ∀ i < 1, (m ||| 1).getLsbD (0 + i) = true := fun i hi => by interval_cases i; simp
    have hto : ((s.reach t).wrOf src 0x01 0x104 ((v &&& 0xFFFFFFFE) ||| BitVec.ofNat 32 (b2n rclk)) (m ||| 1) t).to_ CLK.REFSEL = b2n rclk :=
      (State.wrOf_bits (lo := 0) (width := 1) (by decide +kernel) (by decide) hm).trans hbit
    have hwas : ((s.reach t).wrOf src 0x01 0x104 ((v &&& 0xFFFFFFFE) ||| BitVec.ofNat 32 (b2n rclk)) (m ||| 1) t).was CLK.REFSEL
        = s.get CLK.REFSEL := State.wrOf_was _ _ _ _ _ _ _ _ (by decide +kernel) (by decide +kernel)
    have hlanded : ((s.reach t).land ((s.reach t).wrOf src 0x01 0x104 ((v &&& 0xFFFFFFFE) ||| BitVec.ofNat 32 (b2n rclk)) (m ||| 1) t)).get
        CLK.REFSEL = b2n rclk :=
      (State.get_landOf_same _ _ src CLK.REFSEL _ _ t (by decide +kernel) (by decide +kernel) (by decide +kernel) (by decide) hm).trans hbit
    have hroot := State.get_landOf (s.reach t) (s.reach t) src 0x01 0x104 ((v &&& 0xFFFFFFFE) ||| BitVec.ofNat 32 (b2n rclk)) (m ||| 1) t
      CLK.ROOTSRC (by decide)
    have hxok := State.get_landOf (s.reach t) (s.reach t) src 0x01 0x104 ((v &&& 0xFFFFFFFE) ||| BitVec.ofNat 32 (b2n rclk)) (m ||| 1) t
      CLK.XOK (by decide)
    rw [State.get_reach] at hroot hxok
    rw [effect_refcfg _ _ rfl rfl, Wr.alters, hto, hwas]
    generalize State.land _ _ = x at hlanded hroot hxok ⊢
    obtain ⟨hsel, hrun⟩ := x.get_refSelect (v := b2n rclk) (by cases rclk <;> decide) t
    rw [hroot, hxok] at hrun
    split
    case isTrue => refine ⟨hsel, fun _ h0 => ⟨fun hr => (hrun h0).1 (by rw [hr]; rfl), fun hr => (hrun h0).2 (by rw [hr]; rfl)⟩⟩
    case isFalse same => exact ⟨hlanded, fun hne => absurd (Or.inl (by simpa using Ne.symm hne)) same⟩

end Sys2Proof.Machine

namespace Sys2Proof.Machine

-- One declaration after another: each kernel evaluation beside others holds a thread's stack, and the whole text has one memory limit.
set_option Elab.async false

/-! Commands to NVC and BOOT (O10). -/

theorem State.get_count_apart (s : State) (f g : Fld) (k : Nat) (h : f.apart g) : (s.count f k).get g = s.get g := State.get_put_apart _ _ _ _ h

/-- The cause is written after a reset has put back what it keeps. -/
theorem State.get_assertReset_cause (s : State) {cause : Nat} (hc : cause < 16) (src t : Nat) :
    (s.assertReset cause src t).get BOOT.CAUSE = cause := by
  unfold State.assertReset
  dsimp only
  generalize List.foldl _ _ _ = x
  have hput : ∀ v w, (((x.put BOOT.CAUSE cause).put BOOT.NESTED v).put BOOT.SRC w).get BOOT.CAUSE = cause := by
    intro v w
    rw [State.get_put_apart _ _ _ _ (by decide), State.get_put_apart _ _ _ _ (by decide), State.get_put_same _ _ _ (by decide)]
    exact Nat.mod_eq_of_lt hc
  split
  · exact hput _ _
  · rw [State.get_count_apart _ _ _ _ (by decide)]
    exact hput _ _

/-- What a reset leaves beside the registers is what the state has after a reset. -/
theorem State.assertReset_of {P : State → Prop} (hr : Blind.regs P) (cause t : Nat) (h : ∀ x : State, P (x.afterReset cause t)) (s : State)
    (src : Nat) : P (s.assertReset cause src t) := by
  unfold State.assertReset
  refine ite_keeps ?_ (State.count_keeps hr ?_ _ _)
  all_goals
    refine State.put_keeps hr (State.put_keeps hr (State.put_keeps hr ?_ _ _) _ _) _ _
    exact foldl_keeps (foldl_keeps (foldl_keeps (h _) fun s x h => State.put_keeps hr h _ _) fun s x h => State.put_keeps hr h _ _)
      fun s x h => State.put_keeps hr h _ _

theorem State.afterReset_pac (s : State) (cause t : Nat) : (s.afterReset cause t).pac = pacReset := rfl

theorem State.assertReset_pac (s : State) (cause src t : Nat) : (s.assertReset cause src t).pac = pacReset := by
  have hregs : Blind.regs (fun u : State => u.pac = pacReset) := fun _ _ _ h => h
  exact State.assertReset_of hregs cause t (fun x => x.afterReset_pac cause t) s src

/-- The Field state survives whatever does not take it back. -/
theorem blind_field : Blind.All (fun u => u.boot.field = true) := by
  constructor
  case regs | mem | now | fresh => exact fun _ _ _ h => h
  case boot => exact fun _ _ stays _ h => stays h
  all_goals exact fun _ _ h => h

/-- A reset of the device by a cause that is not a power-on: at once, held for 2 us, where no program of NV is in progress, else waiting. -/
theorem State.deviceReset_free (s : State) {cause : Nat} (hc : causeFcr ≤ cause) (h : s.nvBusy = false) (src t : Nat) :
    s.deviceReset cause src t = (s.assertReset cause src t).arm .resetHold (t + us 2) := by
  unfold State.deviceReset
  rw [if_neg (by simp [h]), if_pos hc]

theorem State.deviceReset_busy (s : State) {cause : Nat} (hc : causeRpor < cause) (h : s.nvBusy = true) (src t : Nat) :
    s.deviceReset cause src t = { s with boot := { s.boot with want := some (s.boot.want.getD (cause, src)) } } := by
  unfold State.deviceReset
  rw [if_pos ⟨hc, h⟩]

/-- Settles O10: each command lands, and then programs, raises the floor, or ends the Factory state with a reset. -/
theorem imageWritesTakeEffect : Obligations.ImageWritesTakeEffect := by
  refine fun s src t => ⟨fun ha => ⟨_, State.exec_devEffect ha rfl (by decide) (by decide), ?_⟩,
    fun ha => ⟨_, State.exec_devEffect ha rfl (by decide) (by decide), ?_⟩,
    fun k ha => ⟨_, State.exec_devEffect ha rfl (by decide) (by decide), ?_⟩⟩
  · rw [effect_nvcmd _ _ rfl rfl, State.wrOf_one, if_pos (by decide +kernel)]
    refine ⟨?_, ?_⟩
    · simp only [State.nvGo, State.bytes_land, State.land_boot, State.reach_boot, State.bytes_reach]
      rw [State.get_landOf _ _ _ _ _ _ _ _ _ (by decide), State.get_landOf _ _ _ _ _ _ _ _ _ (by decide)]
      rfl
    · exact State.get_put_same _ _ _ (by decide)
  · rw [effect_svcommit _ _ rfl rfl, State.wrOf_one, if_pos (by decide +kernel)]
    simp only [State.svCommit, State.land_boot, State.reach_boot]
    rw [State.get_landOf _ _ _ _ _ _ _ _ _ (by decide), State.get_reach]
  · rw [effect_lcreq _ _ rfl rfl]
    generalize hx : (State.land _ _).put BOOT.KEY 0 = x
    have hboot : x.boot = s.boot := by rw [← hx]; simp
    have hpac : x.pac = s.pac := by rw [← hx]; simp
    have hbusy : x.nvBusy = s.nvBusy := by rw [← hx]; simp [State.nvBusy]
    unfold State.toField
    generalize hy : ({ x.put BOOT.LCS 1 with boot := { x.boot with field := true } } : State) = y
    have hfield : y.boot.field = true := by rw [← hy]
    have hyboot : y.boot = { s.boot with field := true } := by rw [← hy, ← hboot]
    have hypac : y.pac = s.pac := by rw [← hy, ← hpac]; rfl
    have hybusy : y.nvBusy = s.nvBusy := by rw [← hy, ← hbusy]; rfl
    refine ⟨State.deviceReset_keeps blind_field hfield _ _ _, fun hfree => ?_, fun hwait => ?_⟩
    · rw [State.deviceReset_free _ (by decide) (hybusy.trans hfree), show us 2 = 2000 from rfl]
      refine ⟨?_, ?_, ?_, ?_⟩
      · rw [State.get_arm, State.get_assertReset_cause _ (by decide)]
        rfl
      · rw [State.arm_boot]
        exact State.assertReset_held _ _ _ _
      · exact State.due_arm_same _ _ _
      · rw [State.arm_pac, State.assertReset_pac]
    · rw [State.deviceReset_busy _ (by decide) (hybusy.trans hwait)]
      exact ⟨by rw [hyboot]; rfl, hypac⟩

end Sys2Proof.Machine

namespace Sys2Proof.Machine

-- One declaration after another: each kernel evaluation beside others holds a thread's stack, and the whole text has one memory limit.
set_option Elab.async false

/-! Wake sources and the way out of PARK (O51). -/

theorem State.bitAt_setFlag_same (s : State) {f : Fld} {b : Nat} (hf : f.lo + f.width ≤ 32) (hb : b < f.width) :
    bitAt ((s.setFlag f b).get f) b = true := by
  unfold State.setFlag
  rw [State.get_put_same _ _ _ hf, bitAt, Nat.testBit_mod_two_pow, setBit_testBit]
  simp [hb]

/-- What runs at the end of a timer that is due. -/
theorem State.onExpiry_due {s : State} {k : Timer} {d : Nat} (h : s.due k = some d) (f : Nat → State → State) :
    s.onExpiry k f = f d ((s.disarm k).reach d) := by
  unfold State.onExpiry
  rw [h]

/-- A wake source in PARK is noted for the wake; in DOZE and its exit its flag and event 0 are set. -/
theorem State.wakeSource_notes (s : State) {b : Nat} (hb : b < 12) :
    (s.pwr.state = .park → (s.wakeSource b).pwr.wakes = setBit s.pwr.wakes b ∧ (s.wakeSource b).regs = s.regs)
      ∧ (s.pwr.state = .doze ∨ s.pwr.state = .dozeExit →
          bitAt ((s.wakeSource b).get PWR.WAKEFLAG) b = true ∧ bitAt ((s.wakeSource b).get (Hdr.EVT 2)) 0 = true) := by
  have hdoze : bitAt (((s.setFlag PWR.WAKEFLAG b).evt 0x02 0).get PWR.WAKEFLAG) b = true
      ∧ bitAt (((s.setFlag PWR.WAKEFLAG b).evt 0x02 0).get (Hdr.EVT 2)) 0 = true := by
    rw [State.get_evt _ _ _ (by decide)]
    exact ⟨State.bitAt_setFlag_same _ (by decide) hb, State.bitAt_evt_same _ _ (by decide)⟩
  unfold State.wakeSource
  cases hs : s.pwr.state
  case park => exact ⟨fun _ => ⟨rfl, rfl⟩, fun h => absurd h (by simp)⟩
  case doze | dozeExit => exact ⟨fun h => absurd h (by simp), fun _ => hdoze⟩
  all_goals exact ⟨fun h => absurd h (by simp), fun h => absurd h (by simp)⟩

theorem State.due_wakeSource (s : State) (b : Nat) (k : Timer) : (s.wakeSource b).due k = s.due k := by
  unfold State.wakeSource
  repeat' split
  all_goals rfl

/-- A reset by the loss of VBAT writes the cause alone, over a state without registers. -/
theorem State.assertReset_vpor (s : State) (src t : Nat) : ∃ x : State, x.regs = [] ∧ s.assertReset causeVpor src t
    = ((x.put BOOT.CAUSE causeVpor).put BOOT.NESTED 0).put BOOT.SRC 0 := by
  refine ⟨State.afterReset ((s.unitsOff t).breakNv) causeVpor t, rfl, ?_⟩
  unfold State.assertReset
  simp only [show ¬ causeFcr ≤ causeVpor by decide, show ¬ causeWake ≤ causeVpor by decide, show causeVpor ≤ causeRpor by decide,
    show ¬ causeVpor = causeFcr by decide, false_and, if_false, if_true, ne_eq, not_true_eq_false, decide_false, decide_true, Bool.and_false,
    List.foldl_nil, show b2n false = 0 from rfl]

/-- A reset by the loss of VBAT leaves every field but those of its cause at its reset value. -/
theorem State.get_assertReset_vpor (s : State) (src t : Nat) {f : Fld} (h : BOOT.CAUSE.away f) :
    (s.assertReset causeVpor src t).get f = State.reset.get f := by
  obtain ⟨x, hx, heq⟩ := s.assertReset_vpor src t
  rw [heq, State.get_put_apart _ BOOT.SRC f _ (.inl h), State.get_put_apart _ BOOT.NESTED f _ (.inl h),
    State.get_put_apart _ BOOT.CAUSE f _ (.inl h)]
  unfold State.get State.rd
  rw [hx]
  rfl

/-- What of a state no output, no record and no NV program moves. -/
def State.SameRest (s x : State) : Prop :=
  x.pending = s.pending ∧ x.splitZero = s.splitZero ∧ x.pwr = s.pwr ∧ x.boot = s.boot ∧ x.vault = s.vault

theorem State.sameRest_refl (s : State) : s.SameRest s := ⟨rfl, rfl, rfl, rfl, rfl⟩

theorem State.dieFailsafe_rest (s x : State) (h : s.SameRest x) (d t : Nat) (f : DieSt → DieSt) : s.SameRest (x.dieFailsafe d t f) :=
  State.dieFailsafe_keeps (fun _ _ _ h => h) (fun _ _ _ h => h) (fun _ _ h => h) (fun _ _ h => h) (fun _ _ h => h) (fun _ _ h => h)
    (fun _ _ h => h) (fun _ _ h => h) (fun _ _ h => h) (fun _ _ h => h) (fun _ _ _ h => h) h d t f

theorem State.breakNv_rest (s x : State) (h : s.SameRest x) : s.SameRest x.breakNv :=
  State.breakNv_keeps (fun _ _ _ h => h) (fun _ _ _ h => h) h

theorem State.unitsOff_rest (s x : State) (h : s.SameRest x) (t : Nat) : s.SameRest (x.unitsOff t) :=
  State.unitsOff_keeps (fun _ _ _ h => h) (fun _ _ h => h) (fun _ _ h => h) (fun _ _ h => h) (fun _ _ h => h) (fun _ _ h => h)
    (fun _ _ _ h => h) h t

theorem State.yieldOnce_rest (s x : State) (h : s.SameRest x) (g c u t : Nat) : s.SameRest (x.yieldOnce g c u t) :=
  State.yieldOnce_keeps (fun _ _ _ h => h) (fun _ _ _ h => h) (fun _ _ h => h) (fun _ _ h => h) h g c u t

/-- A property that holds after a reset of every state that agrees with `s` outside the outputs, the memory and the registers. -/
theorem State.assertReset_from {P : State → Prop} (hr : Blind.regs P) {s : State} {cause t : Nat}
    (h : ∀ x, s.SameRest x → P (x.afterReset cause t)) (src : Nat) : P (s.assertReset cause src t) := by
  unfold State.assertReset
  dsimp only
  refine ite_keeps ?_ (State.count_keeps hr ?_ _ _)
  all_goals
    refine State.put_keeps hr (State.put_keeps hr (State.put_keeps hr ?_ _ _) _ _) _ _
    refine foldl_keeps (foldl_keeps (foldl_keeps (h _ ?_) fun s x h => State.put_keeps hr h _ _) fun s x h => State.put_keeps hr h _ _)
      fun s x h => State.put_keeps hr h _ _
    have hyield : s.SameRest (if causeFcr ≤ cause ∧ s.flag (Hdr.EN 0x40) = true then s.yieldOnce 3 8 0 t else s) :=
      ite_keeps (s.yieldOnce_rest s s.sameRest_refl 3 8 0 t) s.sameRest_refl
    exact ite_keeps (foldl_keeps hyield fun x d h => s.dieFailsafe_rest x h d t _)
      (ite_keeps (s.breakNv_rest _ (s.unitsOff_rest _ hyield t)) (s.breakNv_rest _ hyield))

/-- A timer that neither runs on a power die nor lies in the KEEP domain is over after a reset. -/
theorem State.due_afterReset_gone (s : State) {k : Timer} (hk : k.outlives = false) (cause t : Nat) : (s.afterReset cause t).due k = none := by
  unfold State.due
  rw [List.find?_eq_none.2 fun e he => ?_, Option.map_none]
  have hin : e ∈ s.timers.filter (fun e => if decide (cause = causeVpor) = true then false else e.1.outlives) := he
  rw [List.mem_filter] at hin
  rw [decide_eq_true_eq]
  rintro rfl
  rw [hk] at hin
  simp at hin

theorem State.wakes_afterReset_vpor (s : State) (t : Nat) : (s.afterReset causeVpor t).pwr.wakes = 0 := rfl

theorem State.pending_afterReset (s : State) (cause t : Nat) : (s.afterReset cause t).pending = s.pending := by
  unfold State.afterReset
  rfl

theorem State.pg_afterReset (s : State) (cause t : Nat) : (s.afterReset cause t).pwr.pg = s.pwr.pg := by
  unfold State.afterReset
  rfl

theorem State.get_releaseReset (s : State) (t : Nat) (f : Fld) : (s.releaseReset t).get f = s.get f := rfl

theorem State.out_assertReset_vpor (s : State) (src t : Nat) (u : OutU) : (s.assertReset causeVpor src t).out u = outInit := by
  have hr : Blind.regs (fun x : State => x.outs = []) := fun _ _ _ h => h
  unfold State.out
  rw [State.assertReset_of hr causeVpor t (fun _ => rfl) s src]
  rfl

/-- Every unit is off after a loss of VBAT. -/
theorem State.phase_assertReset_vpor (s : State) (src t : Nat) {u : OutU} (hu : u ∈ allUnits) : (s.assertReset causeVpor src t).phase u = .off := by
  have hoff : ∀ u ∈ allUnits, BOOT.CAUSE.away (fState u) ∧ (phasesOf u).getD (State.reset.get (fState u)) .off = .off := by decide +kernel
  obtain ⟨haway, hphase⟩ := hoff u hu
  unfold State.phase
  rw [State.out_assertReset_vpor, State.get_assertReset_vpor _ _ _ haway, hphase]
  rfl

theorem State.phase_assertReset (s : State) (cause src t : Nat) : (s.assertReset cause src t).boot.phase = .held :=
  State.assertReset_from (P := fun y => y.boot.phase = .held) (fun _ _ _ h => h) (fun _ _ => rfl) src

theorem State.timers_assertReset_vpor (s : State) (src t : Nat) : (s.assertReset causeVpor src t).timers = [] :=
  State.assertReset_from (P := fun y => y.timers = []) (fun _ _ _ h => h) (fun _ _ => List.filter_eq_nil_iff.mpr (by simp)) src

theorem State.wakes_assertReset_vpor (s : State) (src t : Nat) : (s.assertReset causeVpor src t).pwr.wakes = 0 :=
  State.assertReset_from (P := fun y => y.pwr.wakes = 0) (fun _ _ _ h => h) (fun x _ => x.wakes_afterReset_vpor t) src

theorem State.pending_assertReset (s : State) (cause src t : Nat) : (s.assertReset cause src t).pending = s.pending :=
  State.assertReset_from (P := fun y => y.pending = s.pending) (fun _ _ _ h => h) (fun x hx => (x.pending_afterReset cause t).trans hx.1) src

theorem State.pending_reach (s : State) (t : Nat) : (s.reach t).pending = s.pending := rfl

theorem State.pwr_reach (s : State) (t : Nat) : (s.reach t).pwr = s.pwr := rfl

theorem State.bitAt_get_reach (s : State) (t : Nat) (f : Fld) (j : Nat) : bitAt ((s.reach t).get f) j = bitAt (s.get f) j := by
  rw [State.get_reach]

/-- WAKE_INPUT_FILTER of an enabled input outside RUN and IDLE is a wake source. -/
theorem exec_wakeInputFilter_on {s : State} {j : Nat} (t : Nat) (hj : j < 8) (hen : bitAt (s.get PWR.EN) j = true) (hrun : s.pwr.state ≠ .run)
    (hidle : s.pwr.state ≠ .idle) : exec (.wakeInputFilter t j) s = .next ((s.reach t).wakeSource j) := by
  change execWakeInputFilter t j s = _
  unfold execWakeInputFilter
  dsimp only
  rw [State.bitAt_get_reach, if_neg (not_not_intro ⟨hj, hen⟩)]
  split
  case h_1 heq => exact absurd heq hrun
  case h_2 heq => exact absurd heq hidle
  case h_3 => rfl

/-- WAKE_INPUT_FILTER in RUN or IDLE, or of an input that is not enabled, moves time alone. -/
theorem exec_wakeInputFilter_off {s : State} {j : Nat} (t : Nat)
    (h : ¬ (j < 8 ∧ bitAt (s.get PWR.EN) j = true) ∨ s.pwr.state = .run ∨ s.pwr.state = .idle) :
    exec (.wakeInputFilter t j) s = .next (s.reach t) := by
  change execWakeInputFilter t j s = _
  unfold execWakeInputFilter
  dsimp only
  rw [State.bitAt_get_reach]
  split
  case isTrue => rfl
  case isFalse hon =>
    split
    case h_1 | h_2 => rfl
    case h_3 hrun hidle => exact (h.elim (fun h => hon h) (fun h => h.elim hrun hidle)).elim

theorem State.pg_assertReset (s : State) (cause src t : Nat) : (s.assertReset cause src t).pwr.pg = s.pwr.pg :=
  State.assertReset_from (P := fun y => y.pwr.pg = s.pwr.pg) (fun _ _ _ h => h)
    (fun y hy => (y.pg_afterReset cause t).trans (congrArg PwrSt.pg hy.2.2.1)) src

theorem State.due_assertReset_gone (s : State) {k : Timer} (hk : k.outlives = false) (cause src t : Nat) :
    (s.assertReset cause src t).due k = none :=
  State.assertReset_from (P := fun y => y.due k = none) (fun _ _ _ h => h) (fun y _ => y.due_afterReset_gone hk cause t) src

/-- What the release of a reset keeps that ends a wake from PARK with the sources `w`. -/
def State.wakeRelease (x : State) (w t : Nat) : State :=
  ((x.put BOOT.WAKESRC w).setPwr (fun p => { p with wakes := 0 })).releaseReset t

theorem State.get_wakeRelease_cause (x : State) (w t : Nat) : (x.wakeRelease w t).get BOOT.CAUSE = x.get BOOT.CAUSE := by
  unfold State.wakeRelease
  rw [State.get_releaseReset, State.get_setPwr, State.get_put_apart _ _ _ _ (by decide)]

theorem State.get_wakeRelease_sources (x : State) (w t : Nat) : (x.wakeRelease w t).get BOOT.WAKESRC = w % 2 ^ BOOT.WAKESRC.width := by
  unfold State.wakeRelease
  rw [State.get_releaseReset, State.get_setPwr, State.get_put_same _ _ _ (by decide)]

theorem State.pg_wakeRelease (x : State) (w t : Nat) : (x.wakeRelease w t).pwr.pg = x.pwr.pg := rfl

theorem State.due_wakeRelease (x : State) (w t : Nat) (k : Timer) : (x.wakeRelease w t).due k = x.due k := rfl

theorem State.wakeRelease_boots (x : State) (w t : Nat) :
    (x.wakeRelease w t).pwr.wakes = 0 ∧ (x.wakeRelease w t).boot.phase = .rom ∧ (x.wakeRelease w t).boot.w0 = t := ⟨rfl, rfl, rfl⟩

/-- PG_RISE of a wake with REGEN driven. -/
theorem exec_pgRise_wakes {s : State} (t : Nat) (hst : s.pwr.state = .waking) (hr : s.pwr.regen = true) :
    ∃ x : State, x.pwr.pg = true ∧ exec (.pgRise t) s = .next ((x.assertReset causeWake 0 t).wakeRelease s.pwr.wakes t) := by
  refine ⟨((s.reach t).setPwr fun p => { p with pg := true }).disarm .pg, rfl, ?_⟩
  change execPgRise t s = _
  unfold execPgRise State.wakeRelease
  dsimp only
  rw [if_pos (by simp [State.setPwr, hst, hr])]
  rfl

/-- Settles O51: what a wake source notes, the way out of PARK, PG, and the reset by the loss of VBAT. -/
theorem wakesAct : Obligations.WakesAct := by
  refine fun s t => ⟨fun j => ⟨fun hj hen => ?_, fun h => ?_⟩, fun d hd => ⟨_, rfl, ?_⟩, fun h => ⟨_, rfl, ?_⟩, fun h => ⟨_, rfl, ?_⟩,
    fun d hd => ⟨_, rfl, ?_⟩, fun h => ?_, fun h => ⟨_, rfl, ?_⟩, ⟨_, rfl, ?_⟩, ⟨_, rfl, ?_⟩⟩
  case refine_1 =>
    by_cases hst : s.pwr.state = .run ∨ s.pwr.state = .idle
    · exact ⟨_, exec_wakeInputFilter_off t (.inr hst), fun h => by rcases hst with hst | hst <;> simp [hst] at h,
        fun h => by rcases hst with hst | hst <;> simp [hst] at h⟩
    · obtain ⟨hrun, hidle⟩ := not_or.mp hst
      exact ⟨_, exec_wakeInputFilter_on t hj hen hrun hidle, (s.reach t).wakeSource_notes (b := j) (by omega)⟩
  case refine_2 =>
    refine ⟨_, exec_wakeInputFilter_off t ?_, rfl⟩
    rcases h with h | h | h
    · exact .inl fun hon => absurd hon.1 (by omega)
    · exact .inl fun hon => by simp [h] at hon
    · exact .inr h
  case refine_3 =>
    rw [State.onExpiry_due hd]
    have hgone : ((s.disarm .wake).reach d).due .wake = none := by rw [State.due_reach, State.due_disarm_same]
    have hflag : ((s.disarm .wake).reach d).flag PWR.TMREN = (s.get PWR.TMREN != 0) := by
      unfold State.flag
      rw [State.get_reach, State.get_disarm]
    dsimp only
    rw [hflag]
    refine ⟨?_, fun h => ?_, fun h => ?_⟩
    · split
      · rw [State.due_wakeSource, hgone]
      · exact hgone
    · rw [h, if_pos (by decide)]
      exact ((s.disarm .wake).reach d).wakeSource_notes (b := 9) (by decide)
    · rw [h, if_neg (by decide)]
      exact ⟨rfl, rfl⟩
  case refine_4 =>
    obtain ⟨hst, hw⟩ := h
    rw [if_pos (by simp [hst, hw])]
    exact ⟨rfl, State.due_arm_same _ _ _, rfl⟩
  case refine_5 =>
    refine if_neg fun hb => h ?_
    obtain ⟨hst, hw⟩ := Bool.and_eq_true_iff.mp hb
    exact ⟨of_decide_eq_true hst, of_decide_eq_true hw⟩
  case refine_6 =>
    rw [State.onExpiry_due hd]
    exact ⟨rfl, State.due_arm_same _ _ _, rfl⟩
  case refine_7 =>
    obtain ⟨hst, hr⟩ := h
    obtain ⟨x, hpg, hx⟩ := exec_pgRise_wakes t hst hr
    obtain ⟨hwakes, hphase, hw0⟩ := (x.assertReset causeWake 0 t).wakeRelease_boots s.pwr.wakes t
    refine ⟨_, hx, ?_, State.get_wakeRelease_sources _ _ _, hwakes, ?_, hphase, hw0, ?_⟩
    · rw [State.get_wakeRelease_cause, State.get_assertReset_cause _ (by decide)]
    · rw [State.pg_wakeRelease, State.pg_assertReset, hpg]
    · rw [State.due_wakeRelease, State.due_assertReset_gone _ rfl]
  case refine_8 =>
    refine if_neg fun hb => h ?_
    obtain ⟨hst, hr⟩ := Bool.and_eq_true_iff.mp hb
    exact ⟨of_decide_eq_true hst, hr⟩
  case refine_9 =>
    have hflag : ((s.reach t).setPwr fun p => { p with pg := false }).flag PWR.REGBUSY = (s.get PWR.REGBUSY != 0) := by
      unfold State.flag
      rw [State.get_setPwr, State.get_reach]
    have hregen : ((s.reach t).setPwr fun p => { p with pg := false }).pwr.regen = s.pwr.regen := rfl
    dsimp only
    rw [hflag, hregen]
    refine ⟨?_, fun h hr => ?_, fun h => ?_⟩
    · split
      all_goals rfl
    · rw [if_neg (by simp [h, hr])]
      exact ⟨State.bitAt_evt_same _ _ (by decide), rfl⟩
    · rw [if_pos (by rcases h with h | h <;> simp [h])]
      exact ⟨rfl, rfl⟩
  case refine_10 =>
    have hoff : allUnits.all (fun u => decide (((s.reach t).assertReset causeVpor 0 t).phase u = .off)) = true :=
      List.all_eq_true.mpr fun u hu => decide_eq_true ((s.reach t).phase_assertReset_vpor 0 t hu)
    rw [← State.pending_reach s t]
    exact ⟨State.get_assertReset_cause _ (by decide) _ _, (s.reach t).phase_assertReset causeVpor 0 t, (s.reach t).timers_assertReset_vpor 0 t,
      (s.reach t).wakes_assertReset_vpor 0 t, (s.reach t).pending_assertReset causeVpor 0 t, hoff⟩

end Sys2Proof.Machine

namespace Sys2Proof.Machine

-- One declaration after another: each kernel evaluation beside others holds a thread's stack, and the whole text has one memory limit.
set_option Elab.async false

/-! Power-on, loss of a rail and the release of a reset (O54). -/

/-! Fields put back as they were. -/

/-- Putting back any field as it was leaves every other one that reads as it was so. -/
theorem State.get_put_old {s old : State} {f x : Fld} (hf : f.off < 0x1000) (hx : x.off < 0x1000) (h : s.get f = old.get f) :
    (s.put x (old.get x)).get f = old.get f := by
  by_cases hk : regKey x.page x.off = regKey f.page f.off
  case neg => rw [State.get_put_apart _ _ _ _ (.inl hk), h]
  case pos =>
    have hp : x.page = f.page := by unfold regKey at hk; omega
    have ho : x.off = f.off := by unfold regKey at hk; omega
    unfold State.get State.put at *
    rw [hp, ho, State.rd_wr_same]
    refine Nat.eq_of_testBit_eq fun i => ?_
    have hi := congrArg (Nat.testBit · i) h
    simp only [bitsOf_testBit] at hi ⊢
    by_cases h32 : f.lo + i < 32
    · rw [withBits_testBit _ _ _ _ _ h32, bitsOf_testBit]
      split
      case isTrue hin =>
        rw [show x.lo + (f.lo + i - x.lo) = f.lo + i by omega]
        have hw : f.lo + i - x.lo < x.width := by omega
        simp [hw]
      case isFalse => exact hi
    · have hout : ∀ w : Word, w.toNat.testBit (f.lo + i) = false := fun w => by
        rw [BitVec.testBit_toNat]
        exact BitVec.getLsbD_of_ge _ _ (by omega)
      simp only [hout]

/-- Fields put back one after the other. -/
def State.putBack (old : State) (l : List Fld) (s : State) : State := l.foldl (fun s x => s.put x (old.get x)) s

theorem State.get_putBack_old {s old : State} {l : List Fld} {f : Fld} (hf : f.off < 0x1000) (hl : ∀ x ∈ l, x.off < 0x1000)
    (h : s.get f = old.get f) : (old.putBack l s).get f = old.get f := by
  unfold State.putBack
  induction l generalizing s with
  | nil => exact h
  | cons x l ih => exact ih (fun y hy => hl y (.tail _ hy)) (State.get_put_old hf (hl x (.head _)) h)

/-- Each of the fields put back reads as it was, whatever else is put back. -/
theorem State.get_putBack {s old : State} {l : List Fld} {f : Fld} (hl : ∀ x ∈ l, x.off < 0x1000) (hin : f ∈ l) (hw : f.lo + f.width ≤ 32) :
    (old.putBack l s).get f = old.get f := by
  induction l generalizing s with
  | nil => exact absurd hin (by simp)
  | cons x l ih =>
    have htail : ∀ y ∈ l, y.off < 0x1000 := fun y hy => hl y (.tail _ hy)
    rcases List.mem_cons.mp hin with rfl | hin
    · change (old.putBack l (s.put f (old.get f))).get f = old.get f
      refine State.get_putBack_old (hl _ (.head _)) htail ?_
      rw [State.get_put_same _ _ _ hw]
      exact Nat.mod_eq_of_lt (Nat.mod_lt _ (Nat.two_pow_pos _))
    · exact ih htail hin

theorem State.get_putBack_apart {s old : State} {l : List Fld} {f : Fld} (h : ∀ x ∈ l, x.apart f) : (old.putBack l s).get f = s.get f := by
  unfold State.putBack
  induction l generalizing s with
  | nil => rfl
  | cons x l ih => exact (ih fun y hy => h y (.tail _ hy)).trans (State.get_put_apart _ _ _ _ (h x (.head _)))

/-! The reset by the loss of a rail. -/

/-- What such a reset puts back lies in its words, and away from the reset counter and the cause. -/
theorem railKept_fields : ∀ x ∈ keepFields ++ dieFields, x.off < 0x1000 ∧ x.lo + x.width ≤ 32 ∧ x.apart BOOT.RSTCNT := by decide +kernel

theorem State.assertReset_rpor (s : State) (src t : Nat) : s.assertReset causeRpor src t
    = ((((s.breakNv.putBack (keepFields ++ dieFields) (s.breakNv.afterReset causeRpor t)).put BOOT.CAUSE causeRpor).put BOOT.NESTED
        (b2n (decide (s.boot.phase ≠ .done) && decide (s.boot.phase ≠ .recovery) && decide (s.boot.phase ≠ .held)))).put BOOT.SRC 0) := by
  unfold State.assertReset State.putBack
  simp only [show ¬ causeFcr ≤ causeRpor by decide, show ¬ causeWake ≤ causeRpor by decide, show ¬ causeRpor = causeVpor by decide,
    show ¬ causeRpor = causeFcr by decide, false_and, if_false, if_true, ne_eq, not_false_eq_true, decide_false, decide_true, Bool.and_true,
    List.foldl_nil, Nat.le_refl, Bool.false_eq_true]

theorem State.regs_breakNv (s : State) : s.breakNv.regs = s.regs :=
  State.breakNv_keeps (P := fun x => x.regs = s.regs) (fun _ _ _ h => h) (fun _ _ _ h => h) rfl

theorem State.get_breakNv (s : State) (f : Fld) : s.breakNv.get f = s.get f := by
  unfold State.get State.rd
  rw [State.regs_breakNv]

/-- A field that a loss of a rail leaves. -/
theorem State.get_assertReset_rpor_kept (s : State) (src t : Nat) {f : Fld} (hin : f ∈ keepFields ++ dieFields) (hf : BOOT.CAUSE.away f) :
    (s.assertReset causeRpor src t).get f = s.get f := by
  rw [State.assertReset_rpor, State.get_put_apart _ BOOT.SRC f _ (.inl hf), State.get_put_apart _ BOOT.NESTED f _ (.inl hf),
    State.get_put_apart _ BOOT.CAUSE f _ (.inl hf),
    State.get_putBack (fun x hx => (railKept_fields x hx).1) hin (railKept_fields f hin).2.1, State.get_breakNv]

theorem State.get_assertReset_rpor_rstcnt (s : State) (src t : Nat) : (s.assertReset causeRpor src t).get BOOT.RSTCNT = 0 := by
  rw [State.assertReset_rpor, State.get_put_apart _ _ _ _ (by decide), State.get_put_apart _ _ _ _ (by decide),
    State.get_put_apart _ _ _ _ (by decide), State.get_putBack_apart fun x hx => (railKept_fields x hx).2.2]
  rfl

theorem State.get_assertReset_rpor_nested (s : State) (src t : Nat) :
    (s.assertReset causeRpor src t).get BOOT.NESTED = 1 ↔ s.boot.phase ≠ .done ∧ s.boot.phase ≠ .recovery ∧ s.boot.phase ≠ .held := by
  rw [State.assertReset_rpor, State.get_put_apart _ _ _ _ (by decide), State.get_put_same _ _ _ (by decide)]
  cases s.boot.phase <;> decide

theorem State.afterReset_dies (s : State) (t : Nat) : (s.afterReset causeRpor t).dies = s.dies := rfl

theorem State.dies_assertReset_rpor (s : State) (src t : Nat) : (s.assertReset causeRpor src t).dies = s.dies := by
  have hput : ∀ (x : State) (f : Fld) (v : Nat), (x.put f v).dies = x.dies := fun _ _ _ => rfl
  have hback : (s.breakNv.putBack (keepFields ++ dieFields) (s.breakNv.afterReset causeRpor t)).dies = s.breakNv.dies := by
    unfold State.putBack
    exact foldl_keeps (P := fun x => x.dies = s.breakNv.dies) rfl fun x f h => h
  rw [State.assertReset_rpor, hput, hput, hput, hback]
  exact State.breakNv_keeps (P := fun x => x.dies = s.dies) (fun _ _ _ h => h) (fun _ _ _ h => h) rfl

/-! What every reset leaves. -/

/-- What a reset never undoes and what it leaves of the vault. -/
def State.Lasts (s y : State) : Prop :=
  y.pending = s.pending ∧ y.boot.field = s.boot.field ∧ y.boot.svmin = s.boot.svmin ∧ y.splitZero = s.splitZero
    ∧ y.vault.slots = s.vault.slots ∧ y.vault.keys = s.vault.keys

theorem State.afterReset_lasts (x : State) (cause t : Nat) : x.Lasts (x.afterReset cause t) := by
  unfold State.afterReset
  exact ⟨rfl, rfl, rfl, rfl, rfl, rfl⟩

theorem State.assertReset_lasts (s : State) (cause src t : Nat) : s.Lasts (s.assertReset cause src t) := by
  refine State.assertReset_from (fun _ _ _ h => h) (fun x hx => ?_) src
  obtain ⟨hpending, hsplit, -, hboot, hvault⟩ := hx
  obtain ⟨h1, h2, h3, h4, h5, h6⟩ := x.afterReset_lasts cause t
  rw [hpending] at h1
  rw [hboot] at h2 h3
  rw [hsplit] at h4
  rw [hvault] at h5 h6
  exact ⟨h1, h2, h3, h4, h5, h6⟩

theorem State.Lasts.releaseReset {s y : State} (h : s.Lasts y) (t : Nat) : s.Lasts (y.releaseReset t) := h

theorem look_filter_none {α : Type} (d : α) {m : Sparse α} {q : Nat × α → Bool} {k : Nat} (h : ∀ v, q (k, v) = false) :
    look d (m.filter q) k = d := by
  induction m with
  | nil => rfl
  | cons e m ih =>
    obtain ⟨a, v⟩ := e
    rw [List.filter_cons]
    split
    case isFalse => exact ih
    case isTrue hq =>
      have hne : a ≠ k := by
        rintro rfl
        rw [h v] at hq
        exact absurd hq (by simp)
      rw [look, if_neg hne, ih]

/-- Memory below NV reads as nothing was written to it. -/
def State.LowUnwritten (y : State) : Prop := ∀ a, a < 0x10000000 → y.memByte a = 0

theorem State.lowUnwritten_reset : State.reset.LowUnwritten := by
  intro a ha
  unfold State.memByte
  split
  case isTrue =>
    unfold State.snapByte
    repeat' split
    all_goals rfl
  case isFalse => rw [if_neg (by omega)]; rfl

theorem State.assertReset_lowUnwritten (s : State) {cause : Nat} (hc : ¬ causeFcr ≤ cause) (src t : Nat) :
    (s.assertReset cause src t).LowUnwritten := by
  have hpow : (s.assertReset cause src t).stride = strideReset ∧ ∀ a, a < 0x10000000 → (s.assertReset cause src t).byte a = 0 := by
    refine State.assertReset_from (P := fun y => y.stride = strideReset ∧ ∀ a, a < 0x10000000 → y.byte a = 0) (fun _ _ _ h => h)
      (fun x _ => ⟨rfl, fun a ha => ?_⟩) src
    refine look_filter_none (k := a) 0 fun v => ?_
    simp [hc, show ¬ 0x10000000 ≤ a by omega]
  obtain ⟨hstride, hbyte⟩ := hpow
  intro a ha
  unfold State.memByte
  split
  case isTrue =>
    unfold State.snapByte
    rw [hstride]
    repeat' split
    all_goals rfl
  case isFalse => rw [if_neg (by omega), hbyte a ha]

theorem State.lowUnwritten_releaseReset {y : State} (h : y.LowUnwritten) (t : Nat) : (y.releaseReset t).LowUnwritten := h

theorem State.LowUnwritten.eq_reset {y : State} (h : y.LowUnwritten) (a : Nat) (ha : a < 0x10000000) : y.memByte a = State.reset.memByte a :=
  (h a ha).trans (State.lowUnwritten_reset a ha).symm

theorem State.boots_releaseReset (y : State) (t : Nat) :
    (y.releaseReset t).boot.phase = .rom ∧ (y.releaseReset t).boot.w0 = t ∧ (y.releaseReset t).book.resetDue = true := ⟨rfl, rfl, rfl⟩

theorem State.wakes_assertReset_rpor (s : State) (src t : Nat) : (s.assertReset causeRpor src t).pwr.wakes = s.pwr.wakes := by
  have hafter : ∀ x : State, (x.afterReset causeRpor t).pwr.wakes = x.pwr.wakes := fun _ => rfl
  exact State.assertReset_from (P := fun y => y.pwr.wakes = s.pwr.wakes) (fun _ _ _ h => h)
    (fun x hx => (hafter x).trans (congrArg PwrSt.wakes hx.2.2.1)) src

theorem State.dies_assertReset_vpor (s : State) (src t : Nat) :
    (s.assertReset causeVpor src t).dies = [] ∧ (s.assertReset causeVpor src t).cfgAct = [] :=
  State.assertReset_from (P := fun y => y.dies = [] ∧ y.cfgAct = []) (fun _ _ _ h => h) (fun _ _ => ⟨rfl, rfl⟩) src

/-- No engine of the device runs on through a reset. -/
def State.Dead (y : State) : Prop :=
  y.boot.phase = .held ∧ y.stride.running = false ∧ y.pac = pacReset ∧ y.shadow = [] ∧ y.queues = []
    ∧ y.fcr.inbox = [] ∧ y.fcr.events = [] ∧ y.boot.nv = none ∧ y.boot.want = none

theorem State.assertReset_dead (s : State) (cause src t : Nat) : (s.assertReset cause src t).Dead :=
  State.assertReset_from (fun _ _ _ h => h) (fun _ _ => ⟨rfl, rfl, rfl, rfl, rfl, rfl, rfl, rfl, rfl⟩) src

/-- The unit fields that a loss of a rail leaves. -/
theorem unitFields_kept : ∀ u ∈ allUnits, (fState u ∈ keepFields ++ dieFields ∧ fLatch u ∈ keepFields ++ dieFields)
    ∧ BOOT.CAUSE.away (fState u) ∧ BOOT.CAUSE.away (fLatch u) := by
  have haway : ∀ u ∈ allUnits, BOOT.CAUSE.away (fState u) ∧ BOOT.CAUSE.away (fLatch u) := by decide +kernel
  refine fun u hu => ⟨⟨?_, ?_⟩, haway u hu⟩
  all_goals
    refine List.mem_append_right _ (List.mem_append_right _ (List.mem_flatMap.mpr ⟨u, hu, ?_⟩))
    simp

theorem State.units_assertReset_rpor (s : State) (src t : Nat) :
    allUnits.all (fun u => decide ((s.assertReset causeRpor src t).get (fState u) = s.get (fState u))
      && decide ((s.assertReset causeRpor src t).get (fLatch u) = s.get (fLatch u))) = true := by
  refine List.all_eq_true.mpr fun u hu => ?_
  obtain ⟨⟨hstate, hlatch⟩, hs, hl⟩ := unitFields_kept u hu
  rw [State.get_assertReset_rpor_kept s src t hstate hs, State.get_assertReset_rpor_kept s src t hlatch hl]
  simp

/-- The state that POWER_ON_RESET releases. -/
theorem exec_powerOnReset (s : State) (t : Nat) (vbat : Bool) :
    exec (.powerOnReset t vbat) s = .next ((if s.boot.phase = .held ∧ s.get BOOT.CAUSE = (if vbat then causeVpor else causeRpor) then s.reach t
      else (s.reach t).assertReset (if vbat then causeVpor else causeRpor) 0 t).releaseReset t) := by
  change execPowerOnReset t vbat s = _
  unfold execPowerOnReset
  dsimp only
  rw [State.get_reach]
  rfl

theorem exec_railLoss (s : State) (t : Nat) : exec (.railLoss t) s = .next (if s.pwr.state = .park ∨ s.pwr.state = .waking then s.reach t
      else (s.reach t).assertReset causeRpor 0 t) := rfl

theorem State.lasts_reach (s : State) (t : Nat) : s.Lasts (s.reach t) := ⟨rfl, rfl, rfl, rfl, rfl, rfl⟩

theorem State.Lasts.of_reach {s y : State} {t : Nat} (h : (s.reach t).Lasts y) : s.Lasts y := h

/-- What a power-on of VBAT clears. -/
def State.Cleared (y : State) : Prop :=
  y.get BOOT.NESTED = 0 ∧ y.get BOOT.RSTCNT = 0 ∧ y.timers = [] ∧ y.pwr.wakes = 0 ∧ y.dies = [] ∧ y.cfgAct = []
    ∧ (∀ f, f.page < 0x52 → f.off < 0x1000 → (f.page = 4 → f.off = 0x100 → False) → y.get f = State.reset.get f)
    ∧ (∀ a, a < 0x10000000 → y.memByte a = State.reset.memByte a)
    ∧ allUnits.all (fun u => decide (y.phase u = .off)) = true

theorem State.assertReset_vpor_cleared (s : State) (src t : Nat) : (s.assertReset causeVpor src t).Cleared := by
  have hoff : allUnits.all (fun u => decide ((s.assertReset causeVpor src t).phase u = .off)) = true :=
    List.all_eq_true.mpr fun u hu => decide_eq_true (s.phase_assertReset_vpor src t hu)
  have hmem := s.assertReset_lowUnwritten (cause := causeVpor) (by decide) src t
  have hget : ∀ f, BOOT.CAUSE.away f → (s.assertReset causeVpor src t).get f = State.reset.get f :=
    fun f hf => s.get_assertReset_vpor src t hf
  refine ⟨?_, (hget _ (by decide)).trans rfl, s.timers_assertReset_vpor src t, s.wakes_assertReset_vpor src t,
    (s.dies_assertReset_vpor src t).1, (s.dies_assertReset_vpor src t).2, fun f _ hf h => hget f ?_, hmem.eq_reset, hoff⟩
  · obtain ⟨x, -, heq⟩ := s.assertReset_vpor src t
    rw [heq, State.get_put_apart _ _ _ _ (by decide), State.get_put_same _ _ _ (by decide), Nat.zero_mod]
  · intro hkey
    have hkey : 4 * 0x1000 + 0x100 = f.page * 0x1000 + f.off := hkey
    exact h (by omega) (by omega)

theorem State.Cleared.releaseReset {y : State} (h : y.Cleared) (t : Nat) : (y.releaseReset t).Cleared := h

/-- What a loss of a rail leaves of `s` beside what every reset does. -/
def State.RailKept (s y : State) : Prop :=
  y.get BOOT.RSTCNT = 0 ∧ y.get CLK.LPSRC = s.get CLK.LPSRC ∧ y.get AGE.VREQ = s.get AGE.VREQ ∧ y.get ACC.LOCKED = s.get ACC.LOCKED
    ∧ y.dies = s.dies ∧ y.pwr.wakes = s.pwr.wakes ∧ y.LowUnwritten
    ∧ allUnits.all (fun u => decide (y.get (fState u) = s.get (fState u)) && decide (y.get (fLatch u) = s.get (fLatch u))) = true

theorem State.assertReset_rpor_kept (s : State) (src t : Nat) : s.RailKept (s.assertReset causeRpor src t) :=
  ⟨s.get_assertReset_rpor_rstcnt src t, s.get_assertReset_rpor_kept src t (by decide) (by decide),
    s.get_assertReset_rpor_kept src t (by decide) (by decide), s.get_assertReset_rpor_kept src t (by decide) (by decide),
    s.dies_assertReset_rpor src t, s.wakes_assertReset_rpor src t, s.assertReset_lowUnwritten (by decide) src t,
    s.units_assertReset_rpor src t⟩

theorem State.RailKept.releaseReset {s y : State} (h : s.RailKept y) (t : Nat) : s.RailKept (y.releaseReset t) := h

theorem State.RailKept.of_reach {s y : State} {t : Nat} (h : (s.reach t).RailKept y) : s.RailKept y := h

/-- The release of a reset by the loss of VBAT. -/
theorem State.powerOn_of_cleared {s y : State} (t : Nat) (hcause : y.get BOOT.CAUSE = causeVpor) (hlasts : s.Lasts y) (hclear : y.Cleared)
    (P : Prop) : ((y.releaseReset t).boot.phase = .rom ∧ (y.releaseReset t).boot.w0 = t ∧ (y.releaseReset t).book.resetDue = true)
      ∧ s.Lasts (y.releaseReset t) ∧ (y.releaseReset t).get BOOT.CAUSE = causeVpor ∧ (P → (y.releaseReset t).Cleared) :=
  ⟨y.boots_releaseReset t, hlasts.releaseReset t, hcause, fun _ => hclear.releaseReset t⟩

/-- The release of a reset by the loss of a rail. -/
theorem State.powerOn_of_kept {s y : State} (t : Nat) (hcause : y.get BOOT.CAUSE = causeRpor) (hlasts : s.Lasts y) (hkept : s.RailKept y)
    (P : Prop) : ((y.releaseReset t).boot.phase = .rom ∧ (y.releaseReset t).boot.w0 = t ∧ (y.releaseReset t).book.resetDue = true)
      ∧ s.Lasts (y.releaseReset t) ∧ (y.releaseReset t).get BOOT.CAUSE = causeRpor
      ∧ (P → (y.releaseReset t).get BOOT.RSTCNT = 0 ∧ (y.releaseReset t).dies = s.dies ∧ (y.releaseReset t).get CLK.LPSRC = s.get CLK.LPSRC
        ∧ (y.releaseReset t).get AGE.VREQ = s.get AGE.VREQ ∧ (y.releaseReset t).get ACC.LOCKED = s.get ACC.LOCKED
        ∧ (y.releaseReset t).pwr.wakes = s.pwr.wakes
        ∧ allUnits.all (fun u => decide ((y.releaseReset t).get (fState u) = s.get (fState u))
          && decide ((y.releaseReset t).get (fLatch u) = s.get (fLatch u))) = true
        ∧ (∀ a, a < 0x10000000 → (y.releaseReset t).memByte a = State.reset.memByte a)) := by
  obtain ⟨hcnt, hlpsrc, hvreq, hlocked, hdies, hwakes, hmem, hunits⟩ := hkept.releaseReset t
  exact ⟨y.boots_releaseReset t, hlasts.releaseReset t, hcause,
    fun _ => ⟨hcnt, hdies, hlpsrc, hvreq, hlocked, hwakes, hunits, hmem.eq_reset⟩⟩

/-- Settles O54: what each reset starts, keeps and clears. -/
theorem resetsLeaveWhatTheyKeep : Obligations.ResetsLeaveWhatTheyKeep := by
  refine fun s t => ⟨⟨_, exec_powerOnReset s t true, ?_⟩, ⟨_, exec_powerOnReset s t false, ?_⟩, fun h => ⟨_, exec_railLoss s t, if_pos h⟩,
    fun hp hw => ⟨_, exec_railLoss s t, ?_⟩, fun h => ⟨_, rfl, ?_⟩, fun d hd => ⟨_, rfl, ?_⟩⟩
  case refine_1 =>
    rw [if_pos rfl]
    by_cases hheld : s.boot.phase = .held ∧ s.get BOOT.CAUSE = causeVpor
    · rw [if_pos hheld]
      have hcause : ((s.reach t).releaseReset t).get BOOT.CAUSE = causeVpor := by rw [State.get_releaseReset, State.get_reach, hheld.2]
      exact ⟨State.boots_releaseReset _ t, (s.lasts_reach t).releaseReset t, hcause, fun h => absurd hheld h⟩
    · rw [if_neg hheld]
      exact State.powerOn_of_cleared t (State.get_assertReset_cause _ (by decide) 0 t) ((s.reach t).assertReset_lasts causeVpor 0 t).of_reach
        ((s.reach t).assertReset_vpor_cleared 0 t) _
  case refine_2 =>
    rw [if_neg Bool.false_ne_true]
    by_cases hheld : s.boot.phase = .held ∧ s.get BOOT.CAUSE = causeRpor
    · rw [if_pos hheld]
      have hcause : ((s.reach t).releaseReset t).get BOOT.CAUSE = causeRpor := by rw [State.get_releaseReset, State.get_reach, hheld.2]
      exact ⟨State.boots_releaseReset _ t, (s.lasts_reach t).releaseReset t, hcause, fun h => absurd hheld h⟩
    · rw [if_neg hheld]
      exact State.powerOn_of_kept t (State.get_assertReset_cause _ (by decide) 0 t) ((s.reach t).assertReset_lasts causeRpor 0 t).of_reach
        ((s.reach t).assertReset_rpor_kept 0 t).of_reach _
  case refine_3 =>
    rw [if_neg (not_or.mpr ⟨hp, hw⟩)]
    obtain ⟨hcnt, hlpsrc, hvreq, -, hdies, -, -, hunits⟩ := ((s.reach t).assertReset_rpor_kept 0 t).of_reach
    exact ⟨(s.reach t).assertReset_dead causeRpor 0 t, ((s.reach t).assertReset_lasts causeRpor 0 t).of_reach,
      State.get_assertReset_cause _ (by decide) _ _, hcnt, hlpsrc, hvreq, hdies, (s.reach t).get_assertReset_rpor_nested 0 t, hunits⟩
  case refine_4 =>
    unfold State.onExpiry
    rw [h]
  case refine_5 =>
    rw [State.onExpiry_due hd]
    refine ⟨State.boots_releaseReset _ d, State.lasts_reach (s.disarm .resetHold) d, rfl, rfl, ?_⟩
    exact State.due_disarm_same s .resetHold

end Sys2Proof.Machine

namespace Sys2Proof.Machine

-- One declaration after another: each kernel evaluation beside others holds a thread's stack, and the whole text has one memory limit.
set_option Elab.async false

/-! Starts, slews and returns of the clocks, and gating (O48). -/

theorem bitsOf_lt (w : Word) (lo width : Nat) : bitsOf w lo width < 2 ^ width := Nat.mod_lt _ (Nat.two_pow_pos _)

/-- A field of one bit as a flag. -/
theorem State.flag_one (s : State) {f : Fld} (h : f.width = 1) : s.flag f = decide (s.get f = 1) := by
  have hlt : s.get f < 2 := by simpa [State.get, h] using bitsOf_lt (s.rd f.page f.off) f.lo f.width
  unfold State.flag
  rcases (show s.get f = 0 ∨ s.get f = 1 by omega) with hf | hf <;> simp [hf]

theorem State.get_one (s : State) {f : Fld} (h : f.width = 1) : s.get f = 0 ∨ s.get f = 1 := by
  have hlt : s.get f < 2 := by simpa [State.get, h] using bitsOf_lt (s.rd f.page f.off) f.lo f.width
  omega

/-- The PLL takes a reference: a slew to it, unless it is the reference, and the end of a holdover that gives way. -/
theorem State.takeRef_takes (s : State) {r : Nat} (hr : r < 4) :
    (s.takeRef r).get CLK.ROOTSRC = r ∧ (s.get CLK.ROOTSRC ≠ r → (s.takeRef r).get CLK.SLEWING = 1 ∧ (s.takeRef r).due .holdover = none) := by
  refine ⟨(s.get_takeRef hr).1, fun h => ⟨(s.get_takeRef hr).2 h, ?_⟩⟩
  unfold State.takeRef
  rw [if_neg h]
  exact State.due_disarm_same _ _

theorem State.due_takeRef (s : State) (r : Nat) {k : Timer} (hk : k ≠ .holdover) : (s.takeRef r).due k = s.due k := by
  unfold State.takeRef
  split
  · rfl
  · rw [State.due_disarm, if_neg hk.symm]
    rfl

theorem State.awaitsLock_iff (s : State) : s.awaitsLock = true ↔ s.boot.phase = .clock ∧ s.get CLK.XOK = 1 ∧ s.get CLK.LOCK = 0 := by
  unfold State.awaitsLock
  rw [State.flag_one _ (f := CLK.XOK) rfl, State.flag_one _ (f := CLK.LOCK) rfl]
  rcases s.get_one (f := CLK.LOCK) rfl with hlock | hlock <;> simp [hlock]

theorem State.awaitsLock_reach (s : State) (t : Nat) : (s.reach t).awaitsLock = s.awaitsLock := rfl

theorem State.flag_one_iff (s : State) {f : Fld} (h : f.width = 1) : s.flag f = true ↔ s.get f = 1 := by
  rw [State.flag_one _ h, decide_eq_true_eq]

/-- RCLK is selected where it is usable, REFSEL asks for it and AUTOREF is set. -/
theorem State.rclkAsked_iff (s : State) : (s.flag TSY.RCLKOK && s.flag CLK.REFSEL && s.flag CLK.AUTOREF) = true
    ↔ s.get TSY.RCLKOK = 1 ∧ s.get CLK.REFSEL = 1 ∧ s.get CLK.AUTOREF = 1 := by
  rw [Bool.and_eq_true_iff, Bool.and_eq_true_iff, State.flag_one_iff _ rfl, State.flag_one_iff _ rfl, State.flag_one_iff _ rfl, and_assoc]

/-- Both references are good, so their difference is measured. -/
theorem State.refsGood_iff (s : State) : (s.flag CLK.XOK && s.flag TSY.RCLKOK) = true ↔ s.get CLK.XOK = 1 ∧ s.get TSY.RCLKOK = 1 := by
  rw [Bool.and_eq_true_iff, State.flag_one_iff _ rfl, State.flag_one_iff _ rfl]

/-- A lock of the PLL takes XOSC as the reference at ramp step 1 and sets the zero of the split. -/
theorem State.get_pllLocked (s : State) (t : Nat) :
    (s.pllLocked t).get CLK.LOCK = 1 ∧ (s.pllLocked t).get CLK.ROOTSRC = 1 ∧ (s.pllLocked t).get CLK.RAMPSTEP = 1
      ∧ bitAt ((s.pllLocked t).get (Hdr.EVT 1)) 0 = true ∧ (s.pllLocked t).splitZero = t
      ∧ (s.pllLocked t).due .dwell = some (t + us (s.get CLK.DWELL)) := by
  have hget : ∀ f, (s.pllLocked t).get f = ((((s.put CLK.LOCK 1).put CLK.ROOTSRC 1).put CLK.RAMPSTEP 1).evt 0x01 0).get f := fun _ => rfl
  refine ⟨?_, ?_, ?_, ?_, rfl, ?_⟩
  · simp (disch := decide) [hget, State.get_evt, State.get_put_apart, State.get_put_same]
  · simp (disch := decide) [hget, State.get_evt, State.get_put_apart, State.get_put_same]
  · simp (disch := decide) [hget, State.get_evt, State.get_put_same]
  · rw [hget, State.bitAt_evt_same _ _ (by decide)]
  · unfold State.pllLocked
    simp (disch := decide) [State.get_evt, State.get_put_apart]

/-- A slew in progress is over, with event 1. -/
theorem State.get_slewEnd (x : State) :
    let y := if x.flag CLK.SLEWING then (x.put CLK.SLEWING 0).evt 0x01 1 else x
    y.get CLK.DIFF = x.get CLK.DIFF ∧ y.get CLK.SLEWING = 0 ∧ (x.get CLK.SLEWING = 1 → bitAt (y.get (Hdr.EVT 1)) 1 = true)
      ∧ (x.get CLK.SLEWING = 0 → y.get (Hdr.EVT 1) = x.get (Hdr.EVT 1)) := by
  dsimp only
  rcases x.get_one (f := CLK.SLEWING) rfl with hslew | hslew
  · rw [if_neg (by simp [State.flag, hslew])]
    exact ⟨rfl, hslew, fun h => absurd (hslew.symm.trans h) (by decide), fun _ => rfl⟩
  · rw [if_pos ((x.flag_one_iff rfl).mpr hslew)]
    refine ⟨?_, ?_, fun _ => State.bitAt_evt_same _ _ (by decide), fun h => absurd (h.symm.trans hslew) (by decide)⟩
    · rw [State.get_evt _ _ _ (by decide), State.get_put_apart _ _ _ _ (by decide)]
    · rw [State.get_evt _ _ _ (by decide), State.get_put_same _ _ _ (by decide), Nat.zero_mod]

theorem State.get_lpSwitch (x : State) {v : Nat} (hv : v < 2) :
    (x.lpSwitch v).get CLK.LPACT = v ∧ (x.get CLK.LPACT ≠ v → bitAt ((x.lpSwitch v).get (Hdr.EVT 1)) 3 = true) := by
  unfold State.lpSwitch
  split
  case isTrue h => exact ⟨h, fun hne => absurd h hne⟩
  case isFalse h =>
    refine ⟨?_, fun _ => State.bitAt_evt_same _ _ (by decide)⟩
    rw [State.get_evt _ _ _ (by decide), State.get_put_same _ _ _ (by decide)]
    exact Nat.mod_eq_of_lt hv

theorem State.lpSwitch_leaves (x : State) (v : Nat) : (x.lpSwitch v).clk = x.clk ∧ (x.lpSwitch v).timers = x.timers := by
  unfold State.lpSwitch
  split <;> exact ⟨rfl, rfl⟩

/-- LPXO that has failed a count is left, and tried again after 10 s where it is selected. -/
theorem State.lpxoFailed_leaves (s : State) (t : Nat) (h : s.get CLK.LPSRC = 1) :
    (s.lpxoFailed t).clk.lpGood = 0 ∧ (s.lpxoFailed t).get CLK.LPACT = 0 ∧ (s.lpxoFailed t).due .lpxoRetry = some (t + ms 10000) := by
  have hsrc : ({ s with clk := { s.clk with lpGood := 0 } } : State).flag CLK.LPSRC = true := (s.flag_one_iff rfl).mpr h
  have hend : ∀ x : State, x.clk.lpGood = 0 → x.due .lpxoRetry = some (t + ms 10000) →
      (x.lpSwitch 0).clk.lpGood = 0 ∧ (x.lpSwitch 0).get CLK.LPACT = 0 ∧ (x.lpSwitch 0).due .lpxoRetry = some (t + ms 10000) := by
    intro x hgood hdue
    obtain ⟨hclk, htimers⟩ := x.lpSwitch_leaves 0
    exact ⟨by rw [hclk, hgood], (x.get_lpSwitch (by decide)).1, by rw [← hdue, State.due, htimers]; rfl⟩
  unfold State.lpxoFailed
  dsimp only
  rw [if_pos hsrc]
  split
  all_goals exact hend _ rfl (State.due_arm_same _ _ _)

/-- A crystal that is back becomes the reference where it is selected, and in holdover. -/
theorem State.xoscBack_takes {s : State} (x : State) (hx : ∀ f, CLK.XOK.apart f → x.get f = s.get f) (hok : x.get CLK.XOK = 1)
    (hretry : x.due .xretry = none) :
    let y := if ¬ x.flag CLK.REFSEL ∨ x.get CLK.ROOTSRC = 3 then x.takeRef 1 else x
    y.get CLK.XOK = 1 ∧ y.due .xretry = none
      ∧ (s.get CLK.REFSEL = 0 ∨ s.get CLK.ROOTSRC = 3 → y.get CLK.ROOTSRC = 1
        ∧ (s.get CLK.ROOTSRC ≠ 1 → y.get CLK.SLEWING = 1 ∧ y.due .holdover = none))
      ∧ (¬ (s.get CLK.REFSEL = 0 ∨ s.get CLK.ROOTSRC = 3) → y.get CLK.ROOTSRC = s.get CLK.ROOTSRC) := by
  have hcond : (¬ x.flag CLK.REFSEL ∨ x.get CLK.ROOTSRC = 3) ↔ s.get CLK.REFSEL = 0 ∨ s.get CLK.ROOTSRC = 3 := by
    rw [State.flag_iff, not_not, hx _ (by decide), hx _ (by decide)]
  intro y
  by_cases h : s.get CLK.REFSEL = 0 ∨ s.get CLK.ROOTSRC = 3
  · have hy : y = x.takeRef 1 := if_pos (hcond.mpr h)
    have htakes := x.takeRef_takes (r := 1) (by decide)
    rw [hx CLK.ROOTSRC (by decide)] at htakes
    rw [hy]
    exact ⟨by rw [State.get_takeRef_apart _ _ (by decide) (by decide), hok], by rw [State.due_takeRef _ _ (by decide), hretry],
      fun _ => htakes, fun hn => absurd h hn⟩
  · have hy : y = x := if_neg fun hc => h (hcond.mp hc)
    rw [hy]
    exact ⟨hok, hretry, fun hc => absurd hc h, fun _ => hx _ (by decide)⟩

/-- Settles O48: what each command of the clocks leaves, over the lemmas on their operations. -/
theorem clocksAct : Obligations.ClocksAct := by
  refine fun s t => ⟨fun d hd hp => ⟨⟨_, rfl, ?_⟩, ⟨_, rfl, ?_⟩⟩, fun d hd hp => ⟨⟨_, rfl, ?_⟩, ⟨_, rfl, ?_⟩⟩, fun h => ⟨⟨_, rfl, ?_⟩, ⟨_, rfl, ?_⟩⟩,
    fun h ok => ⟨_, rfl, ?_⟩, fun diff => ⟨_, rfl, ?_⟩, fun d hd => ⟨_, rfl, ?_⟩, fun d hd => ⟨_, rfl, ?_⟩,
    fun ok h => ⟨_, rfl, ?_⟩,
    fun h hd => ⟨⟨_, rfl, ?_⟩, ⟨_, rfl, ?_⟩⟩, fun d hd => ⟨_, rfl, ?_⟩, fun p hp => ⟨_, rfl, ?_⟩⟩
  case refine_1 =>
    rw [State.onExpiry_due hd]
    simp (disch := decide) [hp, State.get_put_same]
  case refine_2 =>
    rw [State.onExpiry_due hd]
    simp (disch := decide) [hp, State.xoscFailed, State.xoscStart, State.count, State.get_put_same, State.get_put_apart]
  case refine_3 =>
    rw [State.onExpiry_due hd]
    dsimp only
    have hphase : ¬ ((s.disarm .xstart).reach d).boot.phase = .clock := hp
    rw [if_neg hphase, if_pos rfl]
    have hx : ∀ f, CLK.XOK.apart f → ((((s.disarm .xstart).reach d).put CLK.XOK 1).disarm .xretry).get f = s.get f := fun f hf => by
      rw [State.get_disarm, State.get_put_apart _ _ _ _ hf, State.get_reach, State.get_disarm]
    exact State.xoscBack_takes _ hx (State.get_put_same _ _ _ (by decide)) (State.due_disarm_same _ _)
  case refine_4 =>
    rw [State.onExpiry_due hd]
    simp (disch := decide) [hp, State.count, State.get_put_same, State.get_put_apart, State.due_disarm]
  case refine_5 =>
    have hwait : s.awaitsLock = true := s.awaitsLock_iff.mpr h
    dsimp only
    rw [State.awaitsLock_reach, if_neg (not_not_intro hwait), if_pos rfl]
    exact (s.reach t).get_pllLocked t
  case refine_6 =>
    have hwait : s.awaitsLock = true := s.awaitsLock_iff.mpr h
    dsimp only
    rw [State.awaitsLock_reach, if_neg (not_not_intro hwait)]
    simp (disch := decide) [State.xoscFailed, State.xoscStart, State.count, State.get_put_same, State.get_put_apart]
  case refine_7 => exact if_pos fun hwait => h (s.awaitsLock_iff.mp hwait)
  case refine_8 =>
    obtain ⟨hdiff, hslew, hon, hoff⟩ := ((s.reach t).put CLK.DIFF (if (s.reach t).flag CLK.XOK && (s.reach t).flag TSY.RCLKOK then diff else 0)).get_slewEnd
    rw [State.get_put_apart _ _ _ _ (by decide), State.get_reach] at hon hoff
    rw [State.get_put_apart _ _ _ _ (by decide), State.get_reach] at hoff
    rw [State.get_put_same _ _ _ (by decide)] at hdiff
    refine ⟨hdiff.trans ?_, hslew, hon, hoff⟩
    by_cases hgood : s.get CLK.XOK = 1 ∧ s.get TSY.RCLKOK = 1
    · rw [if_pos hgood, if_pos ((s.reach t).refsGood_iff.mpr hgood)]
    · rw [if_neg hgood, if_neg fun h => hgood ((s.reach t).refsGood_iff.mp h), Nat.zero_mod]
  case refine_9 =>
    rw [State.onExpiry_due hd]
    simp (disch := decide) [State.xoscStart, State.due_arm]
  case refine_10 =>
    rw [State.onExpiry_due hd]
    dsimp only
    have hx : ∀ f, ((s.disarm .rclk).reach d).get f = s.get f := fun f => by rw [State.get_reach, State.get_disarm]
    have hgone : ((s.disarm .rclk).reach d).due .rclk = none := State.due_disarm_same _ _
    have hasked := ((s.disarm .rclk).reach d).rclkAsked_iff
    have htakes := ((s.disarm .rclk).reach d).takeRef_takes (r := 2) (by decide)
    rw [hx, hx, hx] at hasked
    rw [hx] at htakes
    by_cases h : s.get TSY.RCLKOK = 1 ∧ s.get CLK.REFSEL = 1 ∧ s.get CLK.AUTOREF = 1
    · rw [if_pos (hasked.mpr h)]
      exact ⟨by rw [State.due_takeRef _ _ (by decide), hgone], fun _ => htakes, fun hn => absurd h hn⟩
    · rw [if_neg fun hc => h (hasked.mp hc)]
      exact ⟨hgone, fun hc => absurd hc h, fun _ => rfl⟩
  case refine_11 =>
    refine if_pos (h.imp (fun h => ?_) id)
    rw [State.flag_iff, not_not]
    exact h
  case refine_12 =>
    have hstays : ¬ (¬ (s.reach t).flag CLK.LPSRC = true ∨ ((s.reach t).due .lpxoRetry).isSome = true) := by
      rw [State.flag_one_iff _ rfl, State.get_reach, State.due_reach, h, hd]
      simp
    dsimp only
    rw [if_neg hstays, if_neg (by simp)]
    have hsw := (s.reach t).get_lpSwitch (v := 1) (by decide)
    have hclk := ((s.reach t).lpSwitch_leaves 1).1
    rw [State.get_reach] at hsw
    by_cases hgood : s.clk.lpGood = 0
    · have hgood' : (s.reach t).clk.lpGood = 0 := hgood
      rw [if_pos hgood']
      exact ⟨by simp, fun _ => rfl, fun hn => absurd hgood hn⟩
    · have hgood' : ¬ (s.reach t).clk.lpGood = 0 := hgood
      rw [if_neg hgood', hclk]
      exact ⟨hgood, fun hz => absurd hz hgood, fun _ => ⟨hsw.1, fun hz => hsw.2 (by rw [hz]; decide)⟩⟩
  case refine_13 =>
    have hstays : ¬ (¬ (s.reach t).flag CLK.LPSRC = true ∨ ((s.reach t).due .lpxoRetry).isSome = true) := by
      rw [State.flag_one_iff _ rfl, State.get_reach, State.due_reach, h, hd]
      simp
    dsimp only
    rw [if_neg hstays, if_pos Bool.false_ne_true]
    exact (s.reach t).lpxoFailed_leaves t h
  case refine_14 => rw [State.onExpiry_due hd]
  case refine_15 =>
    have hbusy : (s.reach t).pageBusy p = s.pageBusy p := rfl
    have hrests : (pagePresent p && !(s.reach t).flag (Hdr.EN p) && !(s.reach t).pageBusy p && !(s.reach t).flag (Hdr.STOPPING p)
        && !(s.reach t).flag CLK.GATEDIS) = true ↔ pagePresent p = true ∧ s.get (Hdr.EN p) = 0 ∧ s.pageBusy p = false
          ∧ s.get (Hdr.STOPPING p) = 0 ∧ s.get CLK.GATEDIS = 0 := by
      rw [hbusy]
      simp [State.flag, and_assoc]
    dsimp only
    refine ⟨fun h => ?_, fun h => if_neg fun hc => h (hrests.mp hc)⟩
    rw [if_pos (hrests.mpr h)]
    exact State.bitAt_setFlag_same _ (Nat.le_refl 32) (Nat.mod_lt _ (by decide))

end Sys2Proof.Machine

namespace Sys2Proof.Machine

-- One declaration after another: each kernel evaluation beside others holds a thread's stack, and the whole text has one memory limit.
set_option Elab.async false

/-! A request of the regulator that fails on the way out of DOZE (O52). -/

theorem State.boot_clearHidden (s : State) (p : Nat) : (s.clearHidden p).boot = s.boot := by
  apply State.clearHidden_keeps (P := fun y => y.boot = s.boot)
  case h => rfl
  case cRegs => exact fun _ _ _ h => h
  all_goals exact fun _ _ h => h

theorem State.boot_restoreRegs (s : State) (f : Nat → Bool) (keep : List Fld) : (s.restoreRegs f keep).boot = s.boot := by
  apply State.restoreRegs_keeps (P := fun y => y.boot = s.boot)
  case h => rfl
  case cRegs => exact fun _ _ _ h => h
  all_goals exact fun _ _ h => h

theorem State.boot_pageStart (s : State) (p t : Nat) : (s.pageStart p t).boot = s.boot := by
  apply State.pageStart_keeps (P := fun y => y.boot = s.boot)
  case h => rfl
  case cRegs => exact fun _ _ _ h => h
  all_goals exact fun _ _ h => h

/-- The reset of a cluster beside POWER and NET leaves what the boot holds, a reset that waits included. -/
theorem State.boot_clusterReset (s : State) {c : Cluster} (hp : c ≠ .power) (hn : c ≠ .net) (t : Nat) : (s.clusterReset c t).boot = s.boot := by
  unfold State.clusterReset
  simp only [if_neg hp, if_neg hn]
  refine foldl_keeps (P := fun x => x.boot = s.boot) ?_ fun x p h => ?_
  · refine foldl_keeps (P := fun x => x.boot = s.boot) (s.boot_restoreRegs _ _) fun x p h => ?_
    exact (x.boot_clearHidden p).trans h
  · exact ite_keeps (P := fun x => x.boot = s.boot) ((x.boot_pageStart p t).trans h) h

theorem State.boot_fcrLog (s : State) (src unit h cls flags t : Nat) : (s.fcrLog src unit h cls flags t).boot = s.boot :=
  State.fcrLog_keeps (P := fun y => y.boot = s.boot) (fun _ _ _ h => h) (fun _ _ h => h) rfl _ _ _ _ _ _

theorem State.boot_recEvent (s : State) (c t unit aux : Nat) : (s.recEvent c t unit aux).boot = s.boot :=
  State.recEvent_keeps (P := fun y => y.boot = s.boot) (fun _ _ _ h => h) (fun _ _ _ h => h) (fun _ _ h => h) (fun _ _ h => h) rfl _ _ _ _

/-- A Hurdle 3 on a source without units ends in the reset that waits, if any. -/
theorem State.fcrTake_cluster (s : State) {src unit h : Nat} (he : effHurdle src unit h = 3) (hh : holdPage src unit = none)
    (hp : clusterOf (srcPage src) ≠ .power) (hn : clusterOf (srcPage src) ≠ .net) (cls flags t : Nat) :
    ∃ w : State, w.boot = s.boot ∧ s.fcrTake src unit h cls flags t = w.resetAwaited (t + us 20) := by
  have hlog := (s.fcrLog src unit 3 cls flags t).boot_recEvent (0x400 + src) t unit 3
  rw [State.boot_fcrLog] at hlog
  unfold State.fcrTake
  rw [he, hh]
  simp only [show ¬ (3 : Nat) = 4 by decide, show ¬ (3 : Nat) = 5 by decide, if_true, if_false, decide_true, decide_false, Bool.false_and,
    Bool.false_eq_true, Bool.not_true, Bool.and_false, false_and, not_false_eq_true, and_true, show 1 ≤ 3 by decide]
  refine ⟨_, ?_, rfl⟩
  rw [State.boot_clusterReset _ hp hn]
  exact hlog

/-- The time-out of a request for the way out of DOZE is due; source 12 (class 2, of which another event is not acknowledged, so that its
Hurdle is 3) waits in the Lane link, and a reset of cause CLK waits in the boot. -/
def dozeExitTimesOut : State :=
  { State.reset with
    timers := [(.regTimeout, 0)]
    pwr := { State.reset.pwr with reg := [{ volt := 0, use := 2, tries := 0 }] }
    fcr := { State.reset.fcr with inbox := [(12, 0)], events := [{ src := 0, unit := 0, cls := 2, acked := false }] }
    boot := { State.reset.boot with want := some (5, 0) } }

/-- Fault collection has received the failed request ... -/
def timeOutReceived : State :=
  (((((dozeExitTimesOut.disarm .regTimeout).reach 0).evt 0x02 4).detect 7 0).setFcr (fun r => { r with inbox := [] })).fcrReceive 7 0 0

/-- ... and then source 12. -/
def clusterFaultReceived : State := timeOutReceived.fcrReceive 12 0 0

theorem State.boot_setFcr (s : State) (f : FcrSt → FcrSt) : (s.setFcr f).boot = s.boot := rfl

/-- A source of class 2 that is raised while another event of its class is not acknowledged takes the Hurdle above INIT. -/
theorem State.fcrRaise_second (s : State) {src unit : Nat} (hcls : s.cls src = 2) (hinit : s.get (FCR.INIT 2) = 2)
    (hevents : s.fcr.events.any (fun e => decide (e.cls = 2) && !e.acked) = true) (t : Nat) :
    ∃ (w : State) (flags : Nat), w.boot = s.boot ∧ s.fcrRaise src unit t = w.fcrTake src unit 3 2 flags t := by
  unfold State.fcrRaise
  dsimp only
  rw [hcls, hinit, hevents]
  refine ⟨_, _, ?_, rfl⟩
  rw [if_neg (by simp)]
  unfold State.fcrStatus
  split <;> rfl

theorem clusterFaultReceived_eq : ∃ w : State, w.boot = timeOutReceived.boot ∧ clusterFaultReceived = w.resetAwaited 20000 := by
  have hclear : ∃ x : State, x.boot = timeOutReceived.boot ∧ x.cls 12 = 2 ∧ x.get (FCR.INIT 2) = 2
      ∧ x.fcr.events.any (fun e => decide (e.cls = 2) && !e.acked) = true ∧ clusterFaultReceived = x.fcrRaise 12 0 0 := by
    refine ⟨timeOutReceived.setFcr (fun r => { r with shadows := r.shadows.filter (fun w => timeOutReceived.winOpen w 0) }),
      State.boot_setFcr _ _, ?_, ?_, ?_, ?_⟩
    · decide +kernel
    · decide +kernel
    · decide +kernel
    · unfold clusterFaultReceived State.fcrReceive
      exact if_neg (by decide +kernel)
  obtain ⟨x, hx, hcls, hinit, hevents, hraise⟩ := hclear
  obtain ⟨z, flags, hz, htake⟩ := x.fcrRaise_second (src := 12) (unit := 0) hcls hinit hevents 0
  obtain ⟨w, hw, hend⟩ := z.fcrTake_cluster (src := 12) (unit := 0) (h := 3) (by decide) (by decide) (by decide) (by decide) 2 flags 0
  exact ⟨w, hw.trans (hz.trans hx), hraise.trans (htake.trans hend)⟩

theorem clusterFaultReceived_held : clusterFaultReceived.boot.phase = .held ∧ clusterFaultReceived.pwr.reg = [] := by
  decide +kernel

theorem exec_dozeExitTimesOut : exec .regulatorTimeout dozeExitTimesOut = .next (clusterFaultReceived.regDone false 0) := by
  have hsort : ([(12, 0), (7, 0)] : List (Nat × Nat)).mergeSort
      (fun a b => decide (a.1 < b.1) || (decide (a.1 = b.1) && decide (a.2 ≤ b.2))) = [(7, 0), (12, 0)] := by
    simp [List.mergeSort, List.MergeSort.Internal.splitInTwo]
  have hdrain : (((dozeExitTimesOut.disarm .regTimeout).reach 0).evt 0x02 4 |>.detect 7 0).fcrDrain 0 = clusterFaultReceived := by
    unfold State.fcrDrain
    have hin : (((dozeExitTimesOut.disarm .regTimeout).reach 0).evt 0x02 4 |>.detect 7 0).fcr.inbox = [(12, 0), (7, 0)] := rfl
    rw [hin, hsort, List.foldl_cons, List.foldl_cons, List.foldl_nil]
    unfold clusterFaultReceived timeOutReceived
    rfl
  have hdue : dozeExitTimesOut.due .regTimeout = some 0 := rfl
  change execRegulatorTimeout dozeExitTimesOut = _
  unfold execRegulatorTimeout
  rw [State.onExpiry_due hdue]
  unfold State.regFail
  dsimp only
  have hlast : (((dozeExitTimesOut.disarm .regTimeout).reach 0).pwr.reg.head?.any fun r => decide (r.use = 2)) = true := rfl
  rw [if_pos hlast, hdrain]

/-- The reset that waits is the one that comes, in place of one of cause REG. -/
theorem clusterFaultReceived_cause : clusterFaultReceived.get BOOT.CAUSE = 5 := by
  obtain ⟨w, hw, heq⟩ := clusterFaultReceived_eq
  have hboot : timeOutReceived.boot.want = some (5, 0) ∧ timeOutReceived.boot.phase ≠ .held := by decide +kernel
  have hheld := clusterFaultReceived_held.1
  rw [heq] at hheld ⊢
  unfold State.resetAwaited at hheld ⊢
  rw [hw, hboot.1] at hheld ⊢
  dsimp only at hheld ⊢
  split at hheld
  case isTrue => exact absurd ((congrArg BootSt.phase hw).symm.trans hheld) hboot.2
  case isFalse hfree =>
    rw [if_neg hfree, if_pos (show causeFcr ≤ 5 by decide), State.get_arm, w.get_assertReset_cause (show 5 < 16 by decide)]

/-- Refutes O52: a request that fails on the way out of DOZE has fault collection receive what the Lane link held; a Hurdle 3 among it
resets its cluster, and a reset that waits in the boot goes ahead, with its own cause. -/
theorem not_regulatorActs : ¬ Obligations.RegulatorActs := by
  intro h
  obtain ⟨-, -, -, htimeout⟩ := h dozeExitTimesOut 0
  obtain ⟨y, hy, hfailed⟩ := htimeout 0 (by decide)
  obtain ⟨-, hexit⟩ := hfailed { volt := 0, use := 2, tries := 0 } rfl
  obtain ⟨-, hcause⟩ := hexit rfl ⟨rfl, rfl, rfl⟩
  have hdone : clusterFaultReceived.regDone false 0 = clusterFaultReceived := by
    unfold State.regDone
    rw [clusterFaultReceived_held.2]
  rw [exec_dozeExitTimesOut, hdone] at hy
  obtain rfl : clusterFaultReceived = y := by injection hy
  rw [clusterFaultReceived_cause] at hcause
  exact absurd hcause (show ¬ (5 = causeReg ∨ 5 = causeFcr) by decide)

end Sys2Proof.Machine

namespace Sys2Proof.Machine

-- One declaration after another: each kernel evaluation beside others holds a thread's stack, and the whole text has one memory limit.
set_option Elab.async false

/-! The debug port (O56, O57). -/

/-- The port shifts in an instruction that its lifecycle state lets through. -/
def State.tapSel (s : State) (t code : Nat) : State := { s.reach t with tap := { s.tap with ir := code } }

theorem State.tapRun_dead {s : State} (h : ¬ s.portLives = true) (code t : Nat) (f : State → State) : s.tapRun code t f = s.reach t := by
  have h' : ¬ (s.reach t).portLives = true := h
  unfold State.tapRun
  dsimp only
  rw [if_neg h']

/-- With a supply, the instruction runs where the lifecycle state lets it through; IDCODE always. -/
theorem State.tapRun_open {s : State} (h : s.portLives = true) {code : Nat} (hopen : s.boot.field = false ∨ code = 2) (t : Nat)
    (f : State → State) : s.tapRun code t f = f (s.tapSel t code) := by
  have h' : (s.reach t).portLives = true := h
  have hcode : ((s.reach t).debugOpen || decide (code = 2)) = true := by
    rcases hopen with hopen | hopen
    · have : (s.reach t).debugOpen = true := by simpa [State.debugOpen] using hopen
      simp [this]
    · simp [hopen]
  unfold State.tapRun State.tapSelect
  dsimp only
  rw [if_pos h', if_pos hcode]
  rfl

/-- In the Field state every instruction but IDCODE selects BYPASS. -/
theorem State.tapRun_field {s : State} (h : s.portLives = true) {code : Nat} (hfield : ¬ s.boot.field = false) (hcode : code ≠ 2) (t : Nat)
    (f : State → State) : s.tapRun code t f = f (s.tapSel t 0x3F) := by
  have h' : (s.reach t).portLives = true := h
  have hno : ¬ ((s.reach t).debugOpen || decide (code = 2)) = true := by
    have : (s.reach t).debugOpen = false := by simpa [State.debugOpen] using hfield
    simp [this, hcode]
  unfold State.tapRun State.tapSelect
  dsimp only
  rw [if_pos h', if_neg hno]
  rfl

theorem State.debugOpen_tapSel (s : State) (t code : Nat) : (s.tapSel t code).debugOpen = !s.boot.field := rfl

theorem State.daccIdle_tapSel (s : State) (t code : Nat) : (s.tapSel t code).daccIdle = s.daccIdle := rfl

/-- The cells that drive a covered pin are the three that were shifted in for it. -/
theorem cells_getD (sh : List Bool) {i : Nat} (hi : i < 96) : ((List.range 96).map (fun i => sh.getD i false)).getD i false = sh.getD i false := by
  simp [List.getD_eq_getElem?_getD, hi]

/-- A pass of the boundary-scan register samples the pins and loads the cells. -/
theorem State.boundaryScan_tapSel {s : State} (hf : s.boot.field = false) (t code : Nat) (lv sh : List Bool) :
    (s.tapSel t code).boundaryScan lv sh = { s.reach t with tap := { s.tap with
      ir := code, pins := (List.range 32).map (fun i => lv.getD i false), cells := (List.range 96).map (fun i => sh.getD i false) } } := by
  unfold State.boundaryScan
  rw [if_pos (by rw [State.debugOpen_tapSel, hf]; rfl)]
  rfl

/-- Whether accesses by DACC complete with status busy, for a port with a supply. -/
theorem State.daccIdle_iff {s : State} (h : s.portLives = true) :
    s.daccIdle = true ↔ s.boot.phase ≠ .done ∨ s.pwr.state = .doze ∨ s.pwr.state = .dozeExit := by
  have hst : s.pwr.state ≠ .park ∧ s.pwr.state ≠ .waking := by
    unfold State.portLives at h
    simp only [Bool.and_eq_true, decide_eq_true_eq] at h
    exact h.1
  unfold State.daccIdle
  simp [hst, or_assoc]

/-- One operation of DACC of a port in the Factory state: busy, refused at an address that is not a multiple of 4, or run. -/
theorem State.dacc_open {s : State} (h : s.portLives = true) (hopen : s.boot.field = false) (a : Nat) (inc : Bool) (t : Nat) (f : State → State) :
    (s.daccIdle = true → s.dacc a inc t f = (s.tapSel t 0x20).daccEnd a inc 1 s.tap.data)
    ∧ (s.daccIdle = false → a % 4 ≠ 0 → s.dacc a inc t f = (s.tapSel t 0x20).daccRefuse a inc Cause.badop.code)
    ∧ (s.daccIdle = false → a % 4 = 0 → s.dacc a inc t f = f (s.tapSel t 0x20)) := by
  have hrun : s.dacc a inc t f = if s.daccIdle then (s.tapSel t 0x20).daccEnd a inc 1 s.tap.data
      else if a % 4 ≠ 0 then (s.tapSel t 0x20).daccRefuse a inc Cause.badop.code else f (s.tapSel t 0x20) := by
    unfold State.dacc
    rw [State.tapRun_open h (.inl hopen), if_neg (by rw [State.debugOpen_tapSel, hopen]; simp), State.daccIdle_tapSel]
    rfl
  rw [hrun]
  exact ⟨fun hi => if_pos hi, fun hi ha => by rw [hi, if_neg Bool.false_ne_true, if_pos ha],
    fun hi ha => by rw [hi, if_neg Bool.false_ne_true, if_neg (not_not_intro ha)]⟩

theorem State.dacc_field {s : State} (h : s.portLives = true) (hfield : ¬ s.boot.field = false) (a : Nat) (inc : Bool) (t : Nat) (f : State → State) :
    s.dacc a inc t f = s.tapSel t 0x3F := by
  unfold State.dacc
  rw [State.tapRun_field h hfield (by decide)]
  exact if_pos (by simpa [State.debugOpen_tapSel] using hfield)

theorem State.memByte_tapSel (s : State) (t code a : Nat) : (s.tapSel t code).memByte a = s.memByte a := rfl

theorem absentPage_iff {a : Nat} : absentPage a = true ↔ isPage a = true ∧ pagePresent ((a - 0x40000000) / 0x1000) = false := by
  simp [absentPage]

theorem absentPage_of_present {a : Nat} (h : pagePresent ((a - 0x40000000) / 0x1000) = true) : ¬ absentPage a = true := by
  simp [absentPage, h]

theorem absentPage_of_memory {a : Nat} (h : isPage a = false) : ¬ absentPage a = true := by
  simp [absentPage, h]

/-! Words at pages and in memory outside the packet buffer and the snapshot's load window. -/

theorem State.peek_page (s : State) (src : Src) (t : Nat) {a : Nat} (h : isPage a = true)
    (hp : pagePresent ((a - 0x40000000) / 0x1000) = true) : s.peek src a 4 t
      = some ((s.readReg ((a - 0x40000000) / 0x1000) (a % 0x1000) t src).1.toNat, (s.readReg ((a - 0x40000000) / 0x1000) (a % 0x1000) t src).2) := by
  unfold State.peek
  rw [if_pos h, if_pos ⟨rfl, hp⟩]

theorem State.poke_page (s : State) (src : Src) (v t : Nat) {a : Nat} (h : isPage a = true)
    (hp : pagePresent ((a - 0x40000000) / 0x1000) = true) : s.poke src a 4 v t
      = some ((s.busWrite src ((a - 0x40000000) / 0x1000) (a % 0x1000) (BitVec.ofNat 32 v) 0xFFFFFFFF t).1,
          (s.busWrite src ((a - 0x40000000) / 0x1000) (a % 0x1000) (BitVec.ofNat 32 v) 0xFFFFFFFF t).2) := by
  unfold State.poke
  rw [if_pos h, if_pos ⟨rfl, hp⟩]

theorem State.peek_memory (s : State) (src : Src) (t : Nat) {a : Nat} (h : isPage a = false) (ho : a < 0x800000 ∨ 0xA00000 ≤ a) :
    s.peek src a 4 t = if readable a then some (leVal ((List.range 4).map (fun i => s.memByte (a + i))), s) else none := by
  unfold State.peek
  rw [if_neg (by simp [h]), if_neg (by omega)]

theorem State.poke_memory (s : State) (src : Src) (v t : Nat) {a : Nat} (h : isPage a = false) (ho : a < 0x340000 ∨ 0x380000 ≤ a) :
    s.poke src a 4 v t = if writableMem a then some (s.setLe a 4 v, none) else none := by
  unfold State.poke
  rw [if_neg (by simp [h]), if_neg (by omega)]

/-- Settles O56: the port's instructions, its scans, and its accesses. -/
theorem debugPortAccesses : Obligations.DebugPortAccesses := by
  refine fun s t => ⟨fun hl lv sh => ⟨fun hf => ⟨_, rfl, ?_⟩, fun hf => ⟨_, rfl, ?_⟩, fun hf => ⟨⟨_, rfl, ?_⟩, ⟨_, rfl, ?_⟩⟩⟩,
    fun hl => ⟨⟨_, rfl, State.tapRun_open hl (.inr rfl) t _⟩, ⟨_, rfl, ?_⟩⟩,
    fun hl hf a inc v => ⟨fun hi => ⟨⟨_, rfl, ?_⟩, ⟨_, rfl, ?_⟩⟩, fun hi ha => ⟨⟨_, rfl, ?_⟩, ⟨_, rfl, ?_⟩⟩, fun hi ha => ⟨fun h => ⟨⟨_, rfl, ?_⟩, ⟨_, rfl, ?_⟩⟩,
      fun h => ⟨_, rfl, ?_⟩, fun h => ⟨_, rfl, ?_⟩, fun h1 h2 h3 => ⟨_, rfl, ?_⟩, fun h1 h2 h3 => ⟨_, rfl, ?_⟩, fun h1 h2 h3 => ⟨_, rfl, ?_⟩,
      fun h1 h2 h3 => ⟨_, rfl, ?_⟩⟩⟩,
    fun hl hf a inc v => ⟨⟨_, rfl, State.dacc_field hl hf a inc t _⟩, ⟨_, rfl, State.dacc_field hl hf a inc t _⟩⟩,
    fun hl lv sh a inc v => ⟨⟨_, rfl, State.tapRun_dead hl _ t _⟩, ⟨_, rfl, State.tapRun_dead hl _ t _⟩, ⟨_, rfl, State.tapRun_dead hl _ t _⟩,
      ⟨_, rfl, State.tapRun_dead hl _ t _⟩, ⟨_, rfl, State.tapRun_dead hl _ t _⟩, ⟨_, rfl, State.tapRun_dead hl _ t _⟩⟩⟩
  case refine_1 =>
    rw [State.tapRun_open hl (.inl hf), State.boundaryScan_tapSel hf]
    refine ⟨rfl, fun k hk hpg hregen => ?_, if_pos (.inr (.inl rfl)), ?_⟩
    · unfold TapSt.drives
      dsimp only
      rw [cells_getD sh (by omega), cells_getD sh (by omega)]
      cases sh.getD (3 * k + 2) false <;> simp [hpg, hregen]
    · unfold TapSt.drives
      dsimp only
      rw [cells_getD sh (by omega), cells_getD sh (by omega)]
      cases h59 : sh.getD 59 false <;> cases h58 : sh.getD 58 false <;> simp [h59, h58]
  case refine_2 =>
    rw [State.tapRun_open hl (.inl hf), State.boundaryScan_tapSel hf]
    exact ⟨rfl, fun k _ => if_pos (.inl Nat.one_ne_zero)⟩
  case refine_3 =>
    rw [State.tapRun_field hl hf (by decide)]
    exact if_neg (by simpa [State.debugOpen_tapSel] using hf)
  case refine_4 =>
    rw [State.tapRun_field hl hf (by decide)]
    exact if_neg (by simpa [State.debugOpen_tapSel] using hf)
  case refine_5 =>
    by_cases hf : s.boot.field = false
    · exact State.tapRun_open hl (.inl hf) t _
    · exact State.tapRun_field hl hf (by decide) t _
  case refine_6 => exact (State.dacc_open hl hf a inc t _).1 ((State.daccIdle_iff hl).mpr hi)
  case refine_7 => exact (State.dacc_open hl hf a inc t _).1 ((State.daccIdle_iff hl).mpr hi)
  case refine_8 => exact (State.dacc_open hl hf a inc t _).2.1 (by rwa [Bool.eq_false_iff, ne_eq, State.daccIdle_iff hl]) ha
  case refine_9 => exact (State.dacc_open hl hf a inc t _).2.1 (by rwa [Bool.eq_false_iff, ne_eq, State.daccIdle_iff hl]) ha
  all_goals
    have hbusy : s.daccIdle = false := by rwa [Bool.eq_false_iff, ne_eq, State.daccIdle_iff hl]
    rw [(State.dacc_open hl hf a inc t _).2.2 hbusy ha]
  case refine_10 => exact if_pos (absentPage_iff.mpr h)
  case refine_11 => exact if_pos (absentPage_iff.mpr h)
  case refine_12 =>
    dsimp only
    rw [if_neg (absentPage_of_present h.2), State.peek_page _ _ _ h.1 h.2]
    rfl
  case refine_13 =>
    dsimp only
    rw [if_neg (absentPage_of_present h.2), State.poke_page _ _ _ _ h.1 h.2]
    cases hr : ((s.tapSel t 0x20).busWrite .debug ((a - 0x40000000) / 0x1000) (a % 0x1000) (BitVec.ofNat 32 (v % 2 ^ 32)) 0xFFFFFFFF t).2 with
    | none => exact ⟨fun _ => rfl, fun c hc => absurd (hr.symm.trans hc) (by simp)⟩
    | some d =>
      refine ⟨fun hc => absurd (hr.symm.trans hc) (by simp), fun c hc => ?_⟩
      obtain rfl : d = c := Option.some.inj (hr.symm.trans hc)
      rfl
  case refine_14 =>
    dsimp only
    rw [if_neg (absentPage_of_memory h1), State.peek_memory _ _ _ h1 h3, if_pos h2]
    rfl
  case refine_15 =>
    dsimp only
    rw [if_neg (absentPage_of_memory h1), State.peek_memory _ _ _ h1 h3, if_neg (by simp [h2])]
    rfl
  case refine_16 =>
    dsimp only
    rw [if_neg (absentPage_of_memory h1), State.poke_memory _ _ _ _ h1 h3, if_pos h2]
    rfl
  case refine_17 =>
    dsimp only
    rw [if_neg (absentPage_of_memory h1), State.poke_memory _ _ _ _ h1 h3, if_neg (by simp [h2])]
    rfl

end Sys2Proof.Machine

namespace Sys2Proof.Machine

-- One declaration after another: each kernel evaluation beside others holds a thread's stack, and the whole text has one memory limit.
set_option Elab.async false

/-! Commands to the switch (O16). -/

section
variable {s : State} {src : Src} {t : Nat} {v m : Word}

/-- An accepted command on a page of NET lands, and then has its effect. -/
theorem State.exec_netEffect {i : Instr} {p off : Nat} (ha : s.Accepts src p off v m t)
    (hi : exec i s = .next (s.busWrite src p off v m t).1) (hp : 0x30 ≤ p ∧ p ≠ 0x50) (ho : off ≠ 8 ∧ off ≠ 0x1C ∧ off ≠ 0x10 ∧ off ≠ 0x28) :
    exec i s = .next (((s.reach t).land ((s.reach t).wrOf src p off v m t)).netEffect ((s.reach t).wrOf src p off v m t)) := by
  have hf : fcrSource p off = none := by
    unfold fcrSource
    rw [if_neg (by omega)]
  rw [hi, State.busWrite_effect ha ho (by omega) hf, if_neg (by omega), if_neg (by omega), if_pos (by omega)]

end

theorem bitsOf_ofNat (n lo width : Nat) (h : n < 2 ^ 32) : bitsOf (BitVec.ofNat 32 n) lo width = n / 2 ^ lo % 2 ^ width := by
  rw [bitsOf, BitVec.toNat_ofNat, Nat.mod_eq_of_lt h, Nat.shiftRight_eq_div_pow]

/-- Bits that a mask clears are those of what is put beside it. -/
theorem bitsOf_and_or (v mask c : Word) {lo width : Nat} (h : ∀ i < width, mask.getLsbD (lo + i) = false) :
    bitsOf ((v &&& mask) ||| c) lo width = bitsOf c lo width := by
  apply Nat.eq_of_testBit_eq
  intro i
  rw [bitsOf_testBit, bitsOf_testBit, BitVec.testBit_toNat, BitVec.testBit_toNat]
  by_cases hi : i < width
  · simp [hi, h i hi]
  · simp [hi]

/-- A transaction of the MDIO master: BUSY is set, and OP is the one that the write carries. -/
theorem State.mdio_starts (s : State) (src : Src) (t : Nat) (v c : Word) :
    let u := ((s.reach t).land ((s.reach t).wrOf src 0x40 0x128 ((v &&& 0xFFFFFF3F) ||| c) 0xFFFFFFFF t)).put SWC.MDIODATA_BUSY 1
    u.get SWC.MDIODATA_BUSY = 1 ∧ u.get SWC.MDIOCMD_OP = bitsOf c 6 2 := by
  refine ⟨State.get_put_same _ _ _ (by decide), ?_⟩
  rw [State.get_put_apart _ _ _ _ (by decide)]
  refine (State.get_landOf_same _ _ src SWC.MDIOCMD_OP _ _ t (by decide +kernel) (by decide +kernel) (by decide +kernel) (by decide)
    (fun i hi => by interval_cases i <;> decide)).trans ?_
  exact bitsOf_and_or _ _ _ fun i hi => by interval_cases i <;> decide

section
variable (s : State) (src : Src) (t i op : Nat)

/-- A command to the MAC table with its index and operation lands, and then runs. -/
theorem State.mac_lands (hi : i < 4096) (hop : op < 4) :
    let w := (s.reach t).wrOf src 0x40 0x130 (BitVec.ofNat 32 (op + 4 * i)) 0xFFFFFFFF t
    bitsOf w.new 0 2 = op ∧ ((s.reach t).land w).get SWC.INDEX = i := by
  refine ⟨?_, ?_⟩
  · rw [State.wrOf_bits (by decide +kernel) (by decide) (fun i hi => by interval_cases i <;> decide), bitsOf_ofNat _ _ _ (by omega)]
    omega
  · refine (State.get_landOf_same _ _ src SWC.INDEX _ _ t (by decide +kernel) (by decide +kernel) (by decide +kernel) (by decide)
      (fun i hi => by interval_cases i <;> decide)).trans ?_
    rw [bitsOf_ofNat _ _ _ (by omega)]
    change (op + 4 * i) / 4 % 4096 = i
    omega

theorem State.exec_macRead (hi : i < 4096) :
    exec (.macRead t src i) s = .next (s.busWrite src 0x40 0x130 (BitVec.ofNat 32 (4 * i)) 0xFFFFFFFF t).1 := by
  change execMacRead t src i s = _
  unfold execMacRead
  rw [Nat.mod_eq_of_lt hi, Nat.zero_add]

theorem State.exec_macWrite (hi : i < 4096) :
    exec (.macWrite t src i) s = .next (s.busWrite src 0x40 0x130 (BitVec.ofNat 32 (1 + 4 * i)) 0xFFFFFFFF t).1 := by
  change execMacWrite t src i s = _
  unfold execMacWrite
  rw [Nat.mod_eq_of_lt hi]

theorem State.exec_macDelete (hi : i < 4096) :
    exec (.macDelete t src i) s = .next (s.busWrite src 0x40 0x130 (BitVec.ofNat 32 (2 + 4 * i)) 0xFFFFFFFF t).1 := by
  change execMacDelete t src i s = _
  unfold execMacDelete
  rw [Nat.mod_eq_of_lt hi]

theorem State.exec_macFlushDynamic (hi : i < 4096) :
    exec (.macFlushDynamic t src i) s = .next (s.busWrite src 0x40 0x130 (BitVec.ofNat 32 (3 + 4 * i)) 0xFFFFFFFF t).1 := by
  change execMacFlushDynamic t src i s = _
  unfold execMacFlushDynamic
  rw [Nat.mod_eq_of_lt hi]

theorem State.exec_tasCfgchg {p : Nat} {v m : Word} (hp : p < 6) :
    exec (.tasCfgchg t src p v m) s = .next (s.busWrite src 0x49 (0x100 + 0x40 * p) (v ||| 2) (m ||| 2) t).1 := by
  change execTasCfgchg t src p v m s = _
  unfold execTasCfgchg
  rw [Nat.mod_eq_of_lt hp]

theorem State.exec_sflSelect (hi : i < 256) :
    exec (.sflSelect t src i) s = .next (s.busWrite src 0x4A 0x100 (BitVec.ofNat 32 i) 0xFFFFFFFF t).1 := by
  change execSflSelect t src i s = _
  unfold execSflSelect
  rw [Nat.mod_eq_of_lt hi]

theorem State.exec_sflStore (hi : i < 256) :
    exec (.sflStore t src i) s = .next (s.busWrite src 0x4A 0x100 (BitVec.ofNat 32 (i + 256)) 0xFFFFFFFF t).1 := by
  change execSflStore t src i s = _
  unfold execSflStore
  rw [Nat.mod_eq_of_lt hi]

end

/-- A read of the MAC table leaves the switch. -/
theorem State.macCmd_read (x : State) (i : Nat) (h : x.get SWC.INDEX = i) :
    (x.macCmd 0).sw = x.sw
      ∧ (x.sw.macs.find? (fun e => decide (e.1 = i)) = none → (x.macCmd 0).get SWC.MACD1_VALID = 0)
      ∧ (∀ e, x.sw.macs.find? (fun e => decide (e.1 = i)) = some e →
          (x.macCmd 0).get SWC.MACD1_VALID = 1 ∧ (x.macCmd 0).get SWC.MAC0 = e.2.mac / 65536 % 2 ^ 32
          ∧ (x.macCmd 0).get SWC.MAC1 = e.2.mac % 65536 ∧ (x.macCmd 0).get SWC.FID = e.2.fid % 64
          ∧ (x.macCmd 0).get SWC.STATIC = b2n e.2.fixed ∧ (x.macCmd 0).get SWC.MACD2_PORTS = e.2.ports % 128) := by
  unfold State.macCmd
  dsimp only
  rw [h]
  refine ⟨rfl, fun hn => ?_, fun e he => ?_⟩
  · rw [hn]
    simp (disch := decide) [State.get_put_apart, State.get_put_same, b2n]
  · rw [he]
    simp (disch := decide) [State.get_put_apart, State.get_put_same]
    cases e.2.fixed <;> decide

theorem State.macCmd_delete (x : State) : x.macCmd 2 = x.setMac (x.get SWC.INDEX) none := rfl

theorem State.macCmd_flush (x : State) :
    x.macCmd 3 = (x.sw.macs.filter (fun (e : Nat × MacEnt) => !e.2.fixed)).foldl (fun s (e : Nat × MacEnt) => s.setMac e.1 none) x := rfl

theorem State.setMac_macs (x : State) (i : Nat) (e : MacEnt) :
    (x.setMac i (some e)).sw.macs = ins i e x.sw.macs ∧ (x.setMac i none).sw.macs = del i x.sw.macs := ⟨rfl, rfl⟩

theorem State.get_setMac_entries (x : State) (i : Nat) (e : Option MacEnt) :
    (x.setMac i e).get SWC.ENTRIES = (x.setMac i e).sw.macs.length % 8192 := State.get_put_same _ _ _ (by decide)

/-- A write of the MAC table puts the window's entry at the index, or removes it where VALID is 0. -/
theorem State.macCmd_write {s x : State} {i t : Nat} (hidx : x.get SWC.INDEX = i) (hsw : x.sw = s.sw) (hnow : x.now = (s.reach t).now)
    (hget : ∀ f, regKey 0x40 0x130 ≠ regKey f.page f.off → x.get f = s.get f) :
    (s.get SWC.MACD1_VALID = 0 → (x.macCmd 1).sw.macs = del i s.sw.macs)
      ∧ (s.get SWC.MACD1_VALID = 1 → (x.macCmd 1).sw.macs = ins i
          { mac := s.get SWC.MAC0 * 65536 + s.get SWC.MAC1, fid := s.get SWC.FID,
            ports := s.get SWC.MACD2_PORTS, fixed := s.flag SWC.STATIC, seen := max s.now t } s.sw.macs)
      ∧ (x.macCmd 1).get SWC.ENTRIES = (x.macCmd 1).sw.macs.length % 8192 := by
  have hvalid := hget SWC.MACD1_VALID (by decide)
  have hnow : x.now = max s.now t := hnow
  unfold State.macCmd
  dsimp only
  rw [hidx, hget SWC.MAC0 (by decide), hget SWC.MAC1 (by decide), hget SWC.FID (by decide), hget SWC.MACD2_PORTS (by decide), hnow, ← hsw]
  have hfix : x.flag SWC.STATIC = s.flag SWC.STATIC := congrArg (· != 0) (hget SWC.STATIC (by decide))
  rw [hfix]
  refine ⟨fun h => ?_, fun h => ?_, ?_⟩
  · rw [if_neg (by rw [State.flag_iff, hvalid, h]; decide)]
    rfl
  · rw [if_pos (by rw [State.flag_iff, hvalid, h]; decide)]
    rfl
  · by_cases hv : x.flag SWC.MACD1_VALID = true
    · rw [if_pos hv]
      exact x.get_setMac_entries i (some _)
    · rw [if_neg hv]
      exact x.get_setMac_entries i none

/-- A flush drops every entry that shares its index with a dynamic one. -/
theorem State.flush_macs (l : List (Nat × MacEnt)) (x : State) :
    (l.foldl (fun s (e : Nat × MacEnt) => s.setMac e.1 none) x).sw.macs = x.sw.macs.filter (fun e => l.all fun d => decide (d.1 ≠ e.1)) := by
  induction l generalizing x with
  | nil => simp
  | cons d l ih =>
    rw [List.foldl_cons, ih, (x.setMac_macs d.1 macInit).2, del, List.filter_filter]
    congr 1
    funext e
    simp [Bool.and_comm, eq_comm]

/-- The credits up to a write touch neither the lists, the clock nor another word. -/
theorem State.creditBefore_leaves (x : State) (w : Wr) (q : Nat) :
    (x.creditBefore w q).sw.tas = x.sw.tas ∧ (x.creditBefore w q).sw.tsy = x.sw.tsy
      ∧ ∀ f, regKey w.p w.off ≠ regKey f.page f.off → (x.creditBefore w q).get f = x.get f := by
  have hcredit : ∀ (y : State) (f : Fld), (y.creditTo q w.t).get f = y.get f := fun _ _ => rfl
  refine ⟨rfl, rfl, fun f hf => ?_⟩
  unfold State.creditBefore
  rw [State.get_wr_away _ _ _ _ _ hf, hcredit, State.get_wr_away _ _ _ _ _ hf]

theorem State.stream_congr {x s : State} (h : x.sw = s.sw) (i : Nat) : x.stream i = s.stream i := by
  unfold State.stream
  rw [h]

/-- CFGCHG refuses an empty administrative list, and else schedules the change. -/
theorem State.tasCfgchg_plans {s x : State} {p t : Nat} (htas : x.sw.tas = s.sw.tas) (htsy : x.sw.tsy = s.sw.tsy)
    (hget : ∀ f, regKey 0x49 (0x100 + 0x40 * p) ≠ regKey f.page f.off → x.get f = s.get f) :
    (s.get (TAS.ADMLEN p) = 0 → (x.tasCfgchg p t).get (TAS.CHGERR p) = 1 ∧ (x.tasCfgchg p t).tas p = s.tas p)
      ∧ (s.get (TAS.ADMLEN p) ≠ 0 → (x.tasCfgchg p t).get (TAS.CFGPEND p) = 1 ∧ ((x.tasCfgchg p t).tas p).pend =
          some (tasStart (s.get (TAS.ADMBTL p) + 2 ^ 32 * s.get (TAS.ADMBTH p)) (s.get (TAS.ADMCYC p)) (s.gptp t))) := by
  have haway : ∀ k, 0 < k → k < 0x40 → regKey 0x49 (0x100 + 0x40 * p) ≠ regKey 0x49 (0x100 + k + 0x40 * p) := fun k h0 hk => by
    unfold regKey
    omega
  have htas : x.tas p = s.tas p := congrArg (look tasInit · p) htas
  have hgptp : x.gptp t = s.gptp t := by
    unfold State.gptp
    rw [htsy]
  unfold State.tasCfgchg
  rw [hget (TAS.ADMLEN p) (haway 0x10 (by decide) (by decide)), hget (TAS.ADMBTL p) (haway 0x4 (by decide) (by decide)),
    hget (TAS.ADMBTH p) (haway 0x8 (by decide) (by decide)), hget (TAS.ADMCYC p) (haway 0xC (by decide) (by decide)), hgptp]
  refine ⟨fun h => ?_, fun h => ?_⟩
  · rw [if_pos h]
    exact ⟨State.get_put_same _ _ _ (Fld.fits_mk (by decide)), htas⟩
  · rw [if_neg h]
    exact ⟨State.get_put_same _ _ _ (Fld.fits_mk (by decide)), by rw [State.tas_setTas, if_pos rfl]⟩

/-- A select of the stream table puts the entry's words into the window. -/
theorem State.sflSelect_reads (x : State) (i : Nat) :
    (x.sflSelect i false).sw = x.sw ∧ (x.sflSelect i false).rd 0x4A 0x110 = BitVec.ofNat 32 (x.stream i).w0
      ∧ (x.sflSelect i false).rd 0x4A 0x114 = BitVec.ofNat 32 (x.stream i).w1
      ∧ (x.sflSelect i false).rd 0x4A 0x118 = BitVec.ofNat 32 (clrBit (x.stream i).w2 15)
      ∧ (x.sflSelect i false).rd 0x4A 0x11C = BitVec.ofNat 32 (x.stream i).w3 := by
  unfold State.sflSelect
  dsimp only
  rw [if_neg Bool.false_ne_true]
  refine ⟨rfl, ?_, ?_, ?_, ?_⟩
  · rw [State.rd_wr _ _ _ _ _ _ (by decide), State.rd_wr _ _ _ _ _ _ (by decide), State.rd_wr _ _ _ _ _ _ (by decide), State.rd_wr_same]
  · rw [State.rd_wr _ _ _ _ _ _ (by decide), State.rd_wr _ _ _ _ _ _ (by decide), State.rd_wr_same]
  · rw [State.rd_wr _ _ _ _ _ _ (by decide), State.rd_wr_same]
  · rw [State.rd_wr_same]

/-- A store of the stream table writes the window's words to the entry. -/
theorem State.sflSelect_stores {s x : State} (hsw : x.sw = s.sw) (hrd : ∀ o, 0x100 < o → o < 0x1000 → x.rd 0x4A o = s.rd 0x4A o) (i : Nat) :
    (x.sflSelect i true).stream i = { s.stream i with
        w0 := (s.rd 0x4A 0x110).toNat, w1 := (s.rd 0x4A 0x114).toNat, w3 := (s.rd 0x4A 0x11C).toNat,
        w2 := clrBit (s.rd 0x4A 0x118).toNat 15 + (if bitAt (s.stream i).w2 15 then 2 ^ 15 else 0) }
      ∧ ∀ j, j ≠ i → (x.sflSelect i true).stream j = s.stream j := by
  have hstream : ∀ j, x.stream j = s.stream j := State.stream_congr hsw
  unfold State.sflSelect
  dsimp only
  rw [if_pos rfl, hrd _ (by decide) (by decide), hrd _ (by decide) (by decide), hrd _ (by decide) (by decide), hrd _ (by decide) (by decide)]
  refine ⟨?_, fun j hj => ?_⟩
  · rw [State.stream_setStream, if_pos rfl, hstream]
  · rw [State.stream_setStream, if_neg (Ne.symm hj), hstream]

/-- Settles O16. -/
theorem switchWritesTakeEffect : Obligations.SwitchWritesTakeEffect := by
  refine fun s src t => ⟨fun v ha => ⟨_, State.exec_netEffect ha rfl (by decide) (by decide), ?_⟩,
    fun v ha => ⟨_, State.exec_netEffect ha rfl (by decide) (by decide), ?_⟩,
    fun v ha => ⟨_, State.exec_netEffect ha rfl (by decide) (by decide), ?_⟩,
    fun i hi ha => ⟨_, State.exec_netEffect ha (s.exec_macRead src t i hi) (by decide) (by decide), ?_⟩,
    fun i hi ha => ⟨_, State.exec_netEffect ha (s.exec_macWrite src t i hi) (by decide) (by decide), ?_⟩,
    fun i hi ha => ⟨_, State.exec_netEffect ha (s.exec_macDelete src t i hi) (by decide) (by decide), ?_⟩,
    fun i hi ha => ⟨_, State.exec_netEffect ha (s.exec_macFlushDynamic src t i hi) (by decide) (by decide), ?_⟩,
    fun p v m hp ha => ⟨_, State.exec_netEffect ha (s.exec_tasCfgchg src t hp) (by decide) (by omega), ?_⟩,
    fun i hi ha => ⟨_, State.exec_netEffect ha (s.exec_sflSelect src t i hi) (by decide) (by decide), ?_⟩,
    fun i hi ha => ⟨_, State.exec_netEffect ha (s.exec_sflStore src t i hi) (by decide) (by decide), ?_⟩⟩
  case refine_1 =>
    rw [effect_mdiocmd _ _ rfl rfl]
    obtain ⟨hbusy, hop⟩ := s.mdio_starts src t v 0x0
    exact ⟨hbusy, hop.trans (by decide)⟩
  case refine_2 =>
    rw [effect_mdiocmd _ _ rfl rfl]
    obtain ⟨hbusy, hop⟩ := s.mdio_starts src t v 0x40
    exact ⟨hbusy, hop.trans (by decide)⟩
  case refine_3 =>
    rw [effect_mdiocmd _ _ rfl rfl]
    obtain ⟨hbusy, hop⟩ := s.mdio_starts src t v 0x80
    exact ⟨hbusy, hop.trans (by decide)⟩
  case refine_4 =>
    obtain ⟨hop, hidx⟩ := s.mac_lands src t i 0 hi (by decide)
    rw [Nat.zero_add] at hop hidx
    rw [effect_maccmd _ _ rfl rfl, hop]
    have hread := State.macCmd_read _ i hidx
    rw [State.land_sw] at hread
    exact hread
  case refine_5 =>
    obtain ⟨hop, hidx⟩ := s.mac_lands src t i 1 hi (by decide)
    have hget : ∀ f, regKey 0x40 0x130 ≠ regKey f.page f.off →
        ((s.reach t).land ((s.reach t).wrOf src 0x40 0x130 (BitVec.ofNat 32 (1 + 4 * i)) 0xFFFFFFFF t)).get f = s.get f :=
      fun f hf => (State.get_landOf _ _ _ _ _ _ _ _ _ hf).trans (State.get_reach _ _ _)
    rw [effect_maccmd _ _ rfl rfl, hop]
    exact State.macCmd_write hidx (State.land_sw _ _) (State.land_now _ _) hget
  case refine_6 =>
    obtain ⟨hop, hidx⟩ := s.mac_lands src t i 2 hi (by decide)
    rw [effect_maccmd _ _ rfl rfl, hop, State.macCmd_delete, hidx]
    refine ⟨?_, State.get_setMac_entries _ _ _⟩
    rw [(State.setMac_macs _ i macInit).2, State.land_sw]
    rfl
  case refine_7 =>
    obtain ⟨hop, hidx⟩ := s.mac_lands src t i 3 hi (by decide)
    rw [effect_maccmd _ _ rfl rfl, hop, State.macCmd_flush, State.flush_macs, State.land_sw]
    refine ⟨fun e he => ?_, fun e he hfix hdyn => List.mem_filter.mpr ⟨he, ?_⟩⟩
    · obtain ⟨hin, hall⟩ := List.mem_filter.mp he
      refine ⟨hin, Bool.of_not_eq_false fun hdyn => ?_⟩
      exact of_decide_eq_true (List.all_eq_true.mp hall e (List.mem_filter.mpr ⟨hin, by rw [hdyn]; rfl⟩)) rfl
    · refine List.all_eq_true.mpr fun d hd => decide_eq_true ?_
      obtain ⟨hin, hd⟩ := List.mem_filter.mp hd
      exact hdyn d hin (by simpa using hd)
  case refine_8 =>
    have hone : ((s.reach t).wrOf src 0x49 (0x100 + 0x40 * p) (v ||| 2) (m ||| 2) t).one 1 = true := by
      have hw : (writable 0x49 (0x100 + 0x40 * p)).getLsbD 1 = true := by interval_cases p <;> decide +kernel
      rw [State.wrOf_one, hw]
      simp
    rw [effect_tasctrl _ _ p hp rfl rfl, if_pos hone]
    obtain ⟨htas, htsy, hget⟩ := State.creditBefore_leaves ((s.reach t).land ((s.reach t).wrOf src 0x49 (0x100 + 0x40 * p) (v ||| 2) (m ||| 2) t))
      ((s.reach t).wrOf src 0x49 (0x100 + 0x40 * p) (v ||| 2) (m ||| 2) t) p
    rw [State.land_sw] at htas htsy
    exact State.tasCfgchg_plans htas htsy fun f hf =>
      (hget f hf).trans ((State.get_landOf _ _ _ _ _ _ _ _ _ hf).trans (State.get_reach _ _ _))
  case refine_9 => 
    have hsel : bitsOf ((s.reach t).wrOf src 0x4A 0x100 (BitVec.ofNat 32 i) 0xFFFFFFFF t).new 0 8 = i := by
      rw [State.wrOf_bits (by decide +kernel) (by decide) (fun i hi => by interval_cases i <;> decide), bitsOf_ofNat _ _ _ (by omega)]
      omega
    have hone : ((s.reach t).wrOf src 0x4A 0x100 (BitVec.ofNat 32 i) 0xFFFFFFFF t).one 8 = false := by
      rw [State.wrOf_one, BitVec.getLsbD_ofNat, Nat.testBit_lt_two_pow (by omega)]
      simp
    rw [effect_sflsel _ _ rfl rfl, hsel, hone]
    have hreads := State.sflSelect_reads ((s.reach t).land ((s.reach t).wrOf src 0x4A 0x100 (BitVec.ofNat 32 i) 0xFFFFFFFF t)) i
    have hstream : ((s.reach t).land ((s.reach t).wrOf src 0x4A 0x100 (BitVec.ofNat 32 i) 0xFFFFFFFF t)).stream i = s.stream i :=
      (State.stream_congr (State.land_sw (s.reach t) _) i).trans rfl
    rw [hstream, State.land_sw] at hreads
    exact hreads
  case refine_10 =>
    have hsel : bitsOf ((s.reach t).wrOf src 0x4A 0x100 (BitVec.ofNat 32 (i + 256)) 0xFFFFFFFF t).new 0 8 = i := by
      rw [State.wrOf_bits (by decide +kernel) (by decide) (fun i hi => by interval_cases i <;> decide), bitsOf_ofNat _ _ _ (by omega)]
      omega
    have hone : ((s.reach t).wrOf src 0x4A 0x100 (BitVec.ofNat 32 (i + 256)) 0xFFFFFFFF t).one 8 = true := by
      have hbit : (i + 256).testBit 8 = true := by
        rw [Nat.testBit_eq_decide_div_mod_eq]
        exact decide_eq_true (by omega)
      rw [State.wrOf_one, BitVec.getLsbD_ofNat, hbit]
      decide +kernel
    have hrd : ∀ o, 0x100 < o → o < 0x1000 →
        ((s.reach t).land ((s.reach t).wrOf src 0x4A 0x100 (BitVec.ofNat 32 (i + 256)) 0xFFFFFFFF t)).rd 0x4A o = s.rd 0x4A o := by
      intro o h1 h2
      refine (State.rd_land _ _ _ _ ?_).trans rfl
      change 0x4A * 0x1000 + 0x100 ≠ 0x4A * 0x1000 + o
      omega
    have hstream : ((s.reach t).land ((s.reach t).wrOf src 0x4A 0x100 (BitVec.ofNat 32 (i + 256)) 0xFFFFFFFF t)).sw = s.sw := State.land_sw _ _
    rw [effect_sflsel _ _ rfl rfl, hsel, hone]
    exact State.sflSelect_stores hstream hrd i

end Sys2Proof.Machine

namespace Sys2Proof.Machine

-- One declaration after another: each kernel evaluation beside others holds a thread's stack, and the whole text has one memory limit.
set_option Elab.async false

/-! The end of a page's stop (O44). -/

/-- A soft reset of page 2 waits, and the configuration image holds the page's status word with bit 2, STOPPING, at 1. -/
def imageHoldsStopping : State := { State.reset with resetWait := [2], img := [(0x200C, 4)] }

/-- Refutes O44: the soft reset that waited restores the words of the image as they stand, STOPPING among them. -/
theorem not_stopsEndAndMonitorActs : ¬ Obligations.StopsEndAndMonitorActs := by
  intro h
  obtain ⟨hpages, -⟩ := h imageHoldsStopping 0
  obtain ⟨-, -, hended, -⟩ := hpages 2 (by decide)
  obtain ⟨u, ⟨hstopping, -⟩, hone⟩ := (show Completes _ _ _ from hended (.inr (by decide)) (by decide) (by decide +kernel)).of_answers
    (q := fun u => decide (u.get (Hdr.STOPPING 2) = 1)) (by decide +kernel)
  exact absurd (hstopping.symm.trans (of_decide_eq_true hone)) (by decide)

end Sys2Proof.Machine

namespace Sys2Proof.Machine

-- One declaration after another: each kernel evaluation beside others holds a thread's stack, and the whole text has one memory limit.
set_option Elab.async false

/-! A late pulse that is listed twice (O42), and a period beyond the counter's width (O30). -/

/-- Two entries of the late list name channel 0, which may fire. -/
def pulseLateTwice : State :=
  { State.reset.put (fState (.ls 0)) (phaseCode (.ls 0) .on) with
    msh := { State.reset.msh with late := [(0, 0), (0, 0)], vbat := 100000 } }

/-- Refutes O42: a channel that the late list names twice fires once for each entry, where the statement counts one pulse. -/
theorem not_strobePulses : ¬ Obligations.StrobePulses := by
  intro h
  obtain ⟨-, -, -, -, hwaits, -⟩ := h pulseLateTwice 0 0 (by decide)
  obtain ⟨u, ⟨-, -, hlate⟩, hcount⟩ := (show Completes _ _ _ from hwaits (.inl (by decide +kernel))).of_answers
    (q := fun u => decide ((u.out (.ls 0)).pcount = 2)) (by decide +kernel)
  obtain ⟨⟨-, -, -, -, hone⟩, -⟩ := (hlate (0, 0) (by decide +kernel)).1 (by decide +kernel)
  rw [of_decide_eq_true hcount] at hone
  exact absurd hone (by decide +kernel)

/-- Unit 0 counts up from the highest value that CNT holds, towards a period that lies above it. -/
def periodAboveCount : State :=
  (State.reset.put (Hdr.EN 0x28) 1 |>.put (TMR.CNT 0) 0xFFFFFFFF).setTmr 0 (fun r => { r with run := true, per := 0x100000000, acc := 0xFFFFFFFF })

/-- Refutes O30: CNT has 32 bits, and returns to 0 without an update where the period does not fit them. -/
theorem not_timersCount : ¬ Obligations.TimersCount := by
  intro h
  obtain ⟨hstep, -⟩ := h periodAboveCount 0
  obtain ⟨-, hcounts⟩ := hstep 0 none
  obtain ⟨-, hcount⟩ := hcounts (by decide) (by decide +kernel) (by decide +kernel) (by decide +kernel) (by decide +kernel)
  obtain ⟨u, ⟨-, -, -, hup, -⟩, hzero⟩ := (show Completes _ _ _ from hcount (by decide +kernel) (by decide +kernel)).of_answers
    (q := fun u => decide (u.get (TMR.CNT 0) = 0)) (by decide +kernel)
  have hcnt := (hup (by decide +kernel)).1
  rw [of_decide_eq_true hzero] at hcnt
  exact absurd hcnt (by decide +kernel)

end Sys2Proof.Machine

namespace Sys2Proof.Machine

-- One declaration after another: each kernel evaluation beside others holds a thread's stack, and the whole text has one memory limit.
set_option Elab.async false

/-! A duty kept under a pattern that the field of the duty applied does not hold (O26). -/

/-- Valve channel 0 conducts under a pattern that holds it, at a kept duty of 8192, which has 14 bits. -/
def dutyKeptTooWide : State :=
  State.reset.setOut (.vd 0) (fun o => { o with fs := true, under := .on, hold := true, kept := (1, 8192) })

/-- Refutes O26: the field of the applied duty has 13 bits, and shows 0 for a kept duty of 8192. -/
theorem not_valvesRegulate : ¬ Obligations.ValvesRegulate := by
  intro h
  obtain ⟨-, hperiod, -⟩ := h dutyKeptTooWide 0 0 (by decide)
  obtain ⟨-, -, hon, -⟩ := hperiod 0 0
  obtain ⟨u, ⟨-, -, -, hduty⟩, hzero⟩ := (show Completes _ _ _ from hon (by decide +kernel)).of_answers
    (q := fun u => decide (u.get (VDB.DUTYACT 0) = 0)) (by decide +kernel)
  rw [of_decide_eq_true hzero] at hduty
  exact absurd hduty (by decide +kernel)

end Sys2Proof.Machine

namespace Sys2Proof.Machine

-- One declaration after another: each kernel evaluation beside others holds a thread's stack, and the whole text has one memory limit.
set_option Elab.async false

/-! Vault commands (O23). -/

/-- The unwrapped key depends on the Vault and the key registers. -/
theorem State.vltUnwrap_congr {x s : State} (hvault : x.vault = s.vault) (hget : ∀ f, regKey 0x0D 0x60 ≠ regKey f.page f.off → x.get f = s.get f) :
    x.vltUnwrap = s.vltUnwrap := by
  have hrange : List.range 6 = [0, 1, 2, 3, 4, 5] := rfl
  unfold State.vltUnwrap
  rw [hvault, hrange]
  simp (disch := decide) only [List.flatMap_cons, List.flatMap_nil, hget]

/-- What a command of the Vault holds, and what it finds at its start. -/
theorem State.vltStart_begins (x : State) (op : Nat) :
    (x.vltStart op).get VLT.BUSY = 1 ∧ ∃ c : VltCmd, (x.vltStart op).vault = { x.vault with cmd := some c }
      ∧ (c.code = op ∧ c.slot = x.get VLT.SLOT ∧ c.priv = x.get VLT.CMDARG_PRIV ∧ c.tid = x.get VLT.CMDTID_TID)
      ∧ (op = 2 → c.status = 0) ∧ (op = 3 → x.get VLT.SLOT = 0 → c.status = 0)
      ∧ (op = 1 ∨ (op = 3 ∧ x.get VLT.SLOT ≠ 0) → c.status =
          if op = 1 ∧ 64 ≤ x.vault.used then 1 else if look [] x.vault.keys 0 = [] then 3 else if x.vltUnwrap = none then 2 else 0) := by
  refine ⟨State.get_put_same _ _ _ (by decide), _, rfl, ⟨rfl, rfl, rfl, rfl⟩, fun h => ?_, fun h h0 => ?_, fun h => ?_⟩
  · exact if_pos h
  · simp [h, h0]
  · obtain h | ⟨h, hslot⟩ := h
    · simp [h]
    · simp [h, hslot]

section
variable {s : State} {src : Src} {t op : Nat}

/-- An accepted command of the Vault lands, and then starts. -/
theorem State.vltCmd_starts {i : Instr} (hop : op < 4)
    (ha : s.Accepts src 0x0D 0x60 (BitVec.ofNat 32 op) 0xFFFFFFFF t)
    (hi : exec i s = .next (s.busWrite src 0x0D 0x60 (BitVec.ofNat 32 op) 0xFFFFFFFF t).1) :
    ∃ x : State, exec i s = .next (x.vltStart op) ∧ x.vault = s.vault ∧ ∀ f, regKey 0x0D 0x60 ≠ regKey f.page f.off → x.get f = s.get f := by
  refine ⟨(s.reach t).land ((s.reach t).wrOf src 0x0D 0x60 (BitVec.ofNat 32 op) 0xFFFFFFFF t), ?_, State.land_vault _ _,
    fun f hf => (State.get_landOf _ _ _ _ _ _ _ _ _ hf).trans (State.get_reach _ _ _)⟩
  rw [hi, State.busWrite_effect ha (by decide) (by decide) rfl, if_neg (by decide), if_pos (by decide), effect_vltcmd _ _ rfl rfl,
    State.wrOf_bits (by decide +kernel) (by decide) (fun i hi => by interval_cases i <;> decide), bitsOf_ofNat _ _ _ (by omega)]
  congr 2
  omega

/-- An accepted command begins with its slot, privilege and token, and finds its status. -/
theorem State.vltCmd_begins {i : Instr} (hop : op < 4)
    (ha : s.Accepts src 0x0D 0x60 (BitVec.ofNat 32 op) 0xFFFFFFFF t)
    (hi : exec i s = .next (s.busWrite src 0x0D 0x60 (BitVec.ofNat 32 op) 0xFFFFFFFF t).1) :
    ∃ (u : State) (c : VltCmd), exec i s = .next u ∧ u.get VLT.BUSY = 1 ∧ u.vault = { s.vault with cmd := some c }
      ∧ (c.code = op ∧ c.slot = s.get VLT.SLOT ∧ c.priv = s.get VLT.CMDARG_PRIV ∧ c.tid = s.get VLT.CMDTID_TID)
      ∧ (op = 2 → c.status = 0) ∧ (op = 3 → s.get VLT.SLOT = 0 → c.status = 0)
      ∧ (op = 1 ∨ (op = 3 ∧ s.get VLT.SLOT ≠ 0) → c.status =
          if op = 1 ∧ 64 ≤ s.vault.used then 1 else if look [] s.vault.keys 0 = [] then 3 else if s.vltUnwrap = none then 2 else 0) := by
  obtain ⟨x, hx, hvault, hget⟩ := State.vltCmd_starts hop ha hi
  obtain ⟨hbusy, c, hrest⟩ := x.vltStart_begins op
  rw [State.vltUnwrap_congr hvault hget, hvault, hget VLT.SLOT (by decide), hget VLT.CMDARG_PRIV (by decide),
    hget VLT.CMDTID_TID (by decide)] at hrest
  exact ⟨_, c, hx, hbusy, hrest⟩

end

/-- The status of a command at its end. -/
def VltCmd.endStatus (c : VltCmd) (nvOk : Bool) : Nat := if c.status ≠ 0 then c.status else if nvOk then 0 else 4

/-- The end of a command shows its status, and carries the command out where that is 0. -/
theorem State.vaultCmdComplete_ends {s : State} {c : VltCmd} (hc : s.vault.cmd = some c) (hw : s.boot.want = none) (t : Nat) (nvOk : Bool) :
    Completes (.vaultCmdComplete t nvOk) s (fun u =>
      u.get VLT.BUSY = 0 ∧ u.get VLT.STATUS = c.endStatus nvOk % 8
        ∧ u.vault = { (if c.endStatus nvOk = 0 then s.vault.carry c else s.vault) with cmd := none }) := by
  have hexec : exec (.vaultCmdComplete t nvOk) s = .next (((((s.reach t).setVault (fun v =>
      { (if c.endStatus nvOk = 0 then v.carry c else v) with cmd := none })).put VLT.BUSY 0).put VLT.STATUS (c.endStatus nvOk)).evt 0x0D 0) := by
    change execVaultCmdComplete t nvOk s = _
    have hcmd : (s.reach t).vault.cmd = some c := hc
    have hwant : (s.reach t).boot.want = none := hw
    unfold execVaultCmdComplete
    dsimp only
    rw [hcmd]
    dsimp only
    rw [State.resetAwaited]
    simp only [State.evt_boot, State.put_boot, State.setVault, hwant]
    rfl
  refine ⟨_, hexec, ?_⟩
  simp (disch := decide) [State.setVault, State.get_put_same, State.get_put_apart, State.get_evt]

/-- Settles O23. -/
theorem vaultCommandsRun : Obligations.VaultCommandsRun := by
  refine fun s t => ⟨fun src => ⟨fun ha => ?_, fun ha => ?_, fun ha hslot => ?_, fun ha hslot => ?_⟩, fun c hc hw nvOk => ?_⟩
  case refine_5 =>
    obtain ⟨u, hu, hbusy, hstatus, hvault⟩ := State.vaultCmdComplete_ends hc hw t nvOk
    refine ⟨u, hu, hbusy, hstatus, congrArg VltSt.cmd hvault, fun h => ?_, fun h hcode => ?_, fun h hcode => ?_, fun h hcode => ?_⟩
    · rw [hvault, if_neg (show ¬ c.endStatus nvOk = 0 from h)]
    all_goals
      rw [if_pos (show c.endStatus nvOk = 0 from h), VltSt.carry, hcode] at hvault
      rw [hvault]
    · simp [look_store]
    · simp [look_store]
    · simp [look_store]
  case refine_1 =>
    obtain ⟨u, c, hu, hbusy, hvault, hcmd, -, -, hstatus⟩ := State.vltCmd_begins (i := .enrol t src) (op := 1) (by decide) ha rfl
    refine ⟨u, hu, ⟨hbusy, ?_, ?_⟩, ?_⟩
    · rw [hvault]
    · rw [hvault]
      exact decide_eq_true hcmd
    · dsimp only
      rw [hvault]
      simpa using hstatus (.inl rfl)
  case refine_2 =>
    obtain ⟨u, c, hu, hbusy, hvault, hcmd, hstatus, -⟩ := State.vltCmd_begins (i := .revoke t src) (op := 2) (by decide) ha rfl
    refine ⟨u, hu, ⟨hbusy, ?_, ?_⟩, ?_⟩
    · rw [hvault]
    · rw [hvault]
      exact decide_eq_true hcmd
    · dsimp only
      rw [hvault]
      exact hstatus rfl
  case refine_3 =>
    obtain ⟨u, c, hu, hbusy, hvault, hcmd, -, -, hstatus⟩ := State.vltCmd_begins (i := .keyload t src) (op := 3) (by decide) ha rfl
    refine ⟨u, hu, ⟨hbusy, ?_, ?_⟩, ?_⟩
    · rw [hvault]
    · rw [hvault]
      exact decide_eq_true hcmd
    · dsimp only
      rw [hvault]
      simpa using hstatus (.inr ⟨rfl, hslot⟩)
  case refine_4 =>
    obtain ⟨u, c, hu, hbusy, hvault, hcmd, -, hstatus, -⟩ := State.vltCmd_begins (i := .keyload t src) (op := 3) (by decide) ha rfl
    refine ⟨u, hu, ⟨hbusy, ?_, ?_⟩, ?_⟩
    · rw [hvault]
    · rw [hvault]
      exact decide_eq_true hcmd
    · dsimp only
      rw [hvault]
      exact hstatus rfl hslot

end Sys2Proof.Machine

namespace Sys2Proof.Machine

-- One declaration after another: each kernel evaluation beside others holds a thread's stack, and the whole text has one memory limit.
set_option Elab.async false

/-! The access cycle (O22). -/


/-- A lock-out sets LOCKED, its end and its timer, and clears the failures. -/
theorem State.startLockout_locks (s : State) (len t : Nat) :
    (s.startLockout len t).get ACC.LOCKED = 1 ∧ (s.startLockout len t).due .lockout = some (t + len)
      ∧ (s.startLockout len t).acc = { s.acc with lockEnd := t + len, fails := [], locks := t :: s.recentLocks t }
      ∧ (s.startLockout len t).vault = { s.vault with lockRec := some len } := by
  refine ⟨?_, ?_, rfl, rfl⟩
  · unfold State.startLockout
    simp (disch := decide) [State.get_put_same, State.get_put_apart, State.get_evt]
  · exact State.due_arm_same _ _ _

/-- A lock-out leaves the state, the result and the controls of the cycle. -/
theorem State.get_startLockout (s : State) (len t : Nat) (g : Fld) (hl : ACC.LOCKED.apart g) (hc : ACC.LOCOUNT.apart g)
    (he : (Hdr.EVT 0x0E).apart g) : (s.startLockout len t).get g = s.get g := by
  unfold State.startLockout
  rw [State.get_detect, State.get_evt _ _ _ he, State.get_put_apart _ _ _ _ hc, State.get_put_apart _ _ _ _ hl]
  rfl

/-- The end of a cycle up to the lock-out that it may bring. -/
theorem State.accFinish_eq (x : State) (r t : Nat) : ∃ y : State,
    x.accFinish r t = (if x.acc.lockDue then y.startLockout (lockLength ((y.recentLocks t).length + 1)) t else y)
      ∧ (y.get ACC.STATE = 0 ∧ y.get ACC.RESULT = r % 16 ∧ y.get ACC.EN = x.get ACC.EN ∧ y.get (Hdr.STOPPING 0x0E) = x.get (Hdr.STOPPING 0x0E))
      ∧ (y.acc.resps = [] ∧ y.acc.starts = x.acc.starts ∧ y.acc.held = x.acc.held ∧ y.acc.locks = x.acc.locks)
      ∧ y.vault = x.vault ∧ y.fcr = x.fcr := by
  refine ⟨_, rfl, ?_, ⟨rfl, rfl, rfl, rfl⟩, rfl, rfl⟩
  simp (disch := decide) [State.get_put_same, State.get_put_apart, State.get_evt]

section
variable (x : State) (r t : Nat)

/-- The end of a cycle leaves it idle with its result, and the starts that wait. -/
theorem State.accFinish_idle :
    (x.accFinish r t).get ACC.STATE = 0 ∧ (x.accFinish r t).get ACC.RESULT = r % 16 ∧ (x.accFinish r t).get ACC.EN = x.get ACC.EN
      ∧ (x.accFinish r t).get (Hdr.STOPPING 0x0E) = x.get (Hdr.STOPPING 0x0E)
      ∧ (x.accFinish r t).acc.resps = [] ∧ (x.accFinish r t).acc.starts = x.acc.starts ∧ (x.accFinish r t).acc.held = x.acc.held
      ∧ (x.accFinish r t).vault.relCnt = x.vault.relCnt := by
  obtain ⟨y, hy, ⟨hstate, hresult, hen, hstop⟩, ⟨hresps, hstarts, hheld, -⟩, hvault, -⟩ := x.accFinish_eq r t
  rw [hy]
  split
  case isTrue =>
    obtain ⟨-, -, hacc, hv⟩ := y.startLockout_locks (lockLength ((y.recentLocks t).length + 1)) t
    rw [hacc, hv, hvault]
    refine ⟨?_, ?_, ?_, ?_, hresps, hstarts, hheld, rfl⟩
    all_goals rw [State.get_startLockout _ _ _ _ (by decide) (by decide) (by decide)]
    exacts [hstate, hresult, hen, hstop]
  case isFalse => exact ⟨hstate, hresult, hen, hstop, hresps, hstarts, hheld, congrArg VltSt.relCnt hvault⟩

theorem State.accFinish_held : (x.accFinish r t).acc.held = x.acc.held := by
  obtain ⟨-, -, -, -, -, -, h, -⟩ := x.accFinish_idle r t
  exact h

/-- A cycle that ends with a lock-out due locks. -/
theorem State.accFinish_locks (h : x.acc.lockDue = true) :
    (x.accFinish r t).get ACC.LOCKED = 1 ∧ (x.accFinish r t).acc.fails = []
      ∧ (x.accFinish r t).acc.lockEnd = t + lockLength ((x.recentLocks t).length + 1)
      ∧ (x.accFinish r t).due .lockout = some (t + lockLength ((x.recentLocks t).length + 1)) := by
  obtain ⟨y, hy, -, ⟨-, -, -, hlocks⟩, -⟩ := x.accFinish_eq r t
  have hrecent : y.recentLocks t = x.recentLocks t := by
    unfold State.recentLocks
    rw [hlocks]
  obtain ⟨hlocked, hdue, hacc, -⟩ := y.startLockout_locks (lockLength ((y.recentLocks t).length + 1)) t
  rw [hy, if_pos h, hacc, ← hrecent]
  exact ⟨hlocked, rfl, rfl, hdue⟩

/-- A cycle that ends with no lock-out due detects nothing. -/
theorem State.accFinish_fcr (h : x.acc.lockDue = false) : (x.accFinish r t).fcr = x.fcr := by
  obtain ⟨y, hy, -, -, -, hfcr⟩ := x.accFinish_eq r t
  rw [hy, if_neg (by rw [h]; decide), hfcr]

end

theorem State.accHeld_none (x : State) (t : Nat) (h : x.acc.held = none) : x.accHeld t = x := by
  unfold State.accHeld
  rw [h]

/-- A start goes to the cycle that runs, or to the one that begins. -/
theorem State.accessCycleStart_runs {s : State} {x : Nat × Nat} (h : s.acc.starts.head? = some x) :
    exec .accessCycleStart s = .next (if s.get ACC.STATE ≠ 0
      then ((s.reach x.1).setAcc (fun a => { a with starts := s.acc.starts.tail, held := some x.2 })).put ACC.PEND 1
      else ((s.reach x.1).setAcc (fun a => { a with starts := s.acc.starts.tail })).accStart x.2 x.1) := by
  change execAccessCycleStart s = _
  unfold execAccessCycleStart
  obtain ⟨rest, hrest⟩ := List.head?_eq_some_iff.mp h
  rw [hrest]
  rfl

/-- A cycle that begins takes the Vault's slots as they stand. -/
theorem State.accStart_begins (s : State) (p t : Nat) (hl : s.lockedOut t = false) (hs : s.lfNoSupply = false) :
    (s.accStart p t).get ACC.STATE = 1 ∧ (s.accStart p t).acc.purpose = p ∧ (s.accStart p t).acc.slots = s.vault.slots
      ∧ (s.accStart p t).acc.resps = [] ∧ (s.accStart p t).due .lfEnd = some (t + us 26576 + us 1500 * s.aerials.length) := by
  unfold State.accStart
  rw [if_neg (by rw [hl]; decide), if_neg (by rw [hs]; simp)]
  refine ⟨?_, rfl, rfl, rfl, ?_⟩
  · simp (disch := decide) [State.get_put_same, State.get_put_apart]
  · exact State.due_arm_same _ _ _

theorem AccResp.before_iff (a b : AccResp) : a.before b = true ↔
    b.priv < a.priv ∨ (a.priv = b.priv ∧ (a.dist < b.dist ∨ (a.dist = b.dist ∧ a.slot < b.slot))) := by
  unfold AccResp.before
  split
  · rw [decide_eq_true_iff]
    omega
  · split <;> rw [decide_eq_true_iff] <;> omega

/-- One response precedes another or does not, by all that it meets between them. -/
theorem AccResp.before_weak {a b c : AccResp} (hab : a.before b = false) (hbc : b.before c = false) : a.before c = false := by
  rw [← Bool.not_eq_true, AccResp.before_iff] at *
  omega

theorem AccResp.before_asymm {a b : AccResp} (h : a.before b = true) : b.before a = false := by
  rw [← Bool.not_eq_true]
  rw [AccResp.before_iff] at *
  omega

theorem AccResp.before_irrefl (a : AccResp) : a.before a = false := by
  rw [← Bool.not_eq_true, AccResp.before_iff]
  omega

/-- A selection chooses a response that none of those in question precedes. -/
theorem AccResp.first_before (c : AccResp) (cs : List AccResp) :
    (cs.foldl (fun a b => if b.before a then b else a) c) ∈ c :: cs
      ∧ ∀ r ∈ c :: cs, r.before (cs.foldl (fun a b => if b.before a then b else a) c) = false := by
  induction cs generalizing c with
  | nil => exact ⟨List.mem_singleton_self c, fun r hr => by rw [List.mem_singleton.mp hr]; exact c.before_irrefl⟩
  | cons b bs ih =>
    rw [List.foldl_cons]
    by_cases hb : b.before c = true
    · rw [if_pos hb]
      obtain ⟨hin, hall⟩ := ih b
      refine ⟨List.mem_cons_of_mem c hin, fun r hr => ?_⟩
      obtain rfl | hr := List.mem_cons.mp hr
      · exact AccResp.before_weak (AccResp.before_asymm hb) (hall b List.mem_cons_self)
      · exact hall r hr
    · rw [if_neg hb]
      obtain ⟨hin, hall⟩ := ih c
      refine ⟨?_, fun r hr => ?_⟩
      · obtain h | h := List.mem_cons.mp hin
        · exact List.mem_cons.mpr (.inl h)
        · exact List.mem_cons_of_mem c (List.mem_cons_of_mem b h)
      · obtain rfl | hr := List.mem_cons.mp hr
        · exact hall r List.mem_cons_self
        · obtain rfl | hr := List.mem_cons.mp hr
          · exact AccResp.before_weak (Bool.not_eq_true _ ▸ hb) (hall c List.mem_cons_self)
          · exact hall r (List.mem_cons_of_mem c hr)

theorem State.accStart_locked (s : State) (p t : Nat) (h : s.lockedOut t = true) : s.accStart p t = s.accFinish resLocked t := if_pos h

theorem State.accAborts_off {s : State} (h : s.get (Hdr.STOPPING 0x0E) = 0) : s.accAborts = false := by
  unfold State.accAborts State.flag
  rw [h]
  rfl

/-- What the end of the bursts notes of one aerial. -/
def State.aerialEnds (peaks : List (Nat × Nat)) (shorts hot : List Nat) (s : State) (k : Nat) : State :=
  match peaks.find? (fun (e : Nat × Nat) => decide (e.1 = k)) with
  | none => s
  | some (_, i) =>
    let set := 100 * s.get (LF.ICUR k)
    let bits := b2n (decide (10 * i < set)) + 2 * b2n (decide (k ∈ shorts)) + 4 * b2n (decide (set ≤ 10 * i) && decide (10 * i ≤ 7 * set))
      + 8 * b2n (decide (k ∈ hot))
    let s := (s.put (LF.IPK k) i).setOut (.lf k) (fun o => { o with bad := bits })
    if bits = 0 then s
    else ((s.put (LF.FLT k) (s.get (LF.FLT k) ||| bits)).evt 0x0F k).detect 0x28 k

theorem State.lfBurstsEnd_eq {s : State} {d : Nat} (hd : s.due .lfEnd = some d) (peaks : List (Nat × Nat)) (shorts hot : List Nat) :
    exec (.lfBurstsEnd peaks shorts hot) s = .next (
      let s := (s.disarm .lfEnd).reach d
      let s := s.aerials.foldl (State.aerialEnds peaks shorts hot) s
      if s.accAborts then (s.accFinish resAborted d).accStopped d
      else if s.lfNoSupply ∧ (s.aerials ≠ [] ∨ (List.range 6).any (fun k => s.flag (LF.WAKE k))) then s.accQuit resSupply d
      else s) := by
  change execLfBurstsEnd peaks shorts hot s = _
  unfold execLfBurstsEnd
  rw [State.onExpiry_due hd]
  rfl

section
variable (peaks : List (Nat × Nat)) (shorts hot : List Nat) (s : State) (j k i : Nat)

/-- An aerial's end changes its peak, its flags and the events of the page alone. -/
theorem State.get_aerialEnds (g : Fld) (hi : (LF.IPK j).apart g) (hf : (LF.FLT j).apart g) (he : (Hdr.EVT 0x0F).apart g) :
    (s.aerialEnds peaks shorts hot j).get g = s.get g := by
  unfold State.aerialEnds
  split
  · rfl
  · dsimp only
    split
    · rw [State.get_setOut, State.get_put_apart _ _ _ _ hi]
    · rw [State.get_detect, State.get_evt _ _ _ he, State.get_put_apart _ _ _ _ hf, State.get_setOut, State.get_put_apart _ _ _ _ hi]

/-- It leaves what decides of the supply and of an abort. -/
theorem State.aerialEnds_leaves : (s.aerialEnds peaks shorts hot j).lfNoSupply = s.lfNoSupply
    ∧ (s.aerialEnds peaks shorts hot j).accAborts = s.accAborts ∧ (s.aerialEnds peaks shorts hot j).due .lfEnd = s.due .lfEnd := by
  refine ⟨?_, ?_, ?_⟩
  · unfold State.aerialEnds
    split
    · rfl
    · dsimp only
      split <;> rfl
  · exact congrArg (· != 0) (s.get_aerialEnds peaks shorts hot j (Hdr.STOPPING 0x0E) (Fld.apart_mk (by omega)) (Fld.apart_mk (by omega)) (by decide))
  · unfold State.aerialEnds
    split
    · rfl
    · dsimp only
      split <;> rfl

/-- The peak measured at an aerial is shown, and one below its setting sets bit 0. -/
theorem State.aerialEnds_shows (hpeak : peaks.find? (fun (e : Nat × Nat) => decide (e.1 = k)) = some (k, i)) :
    (s.aerialEnds peaks shorts hot k).get (LF.IPK k) = i % 4096
      ∧ (10 * i < 100 * s.get (LF.ICUR k) → bitAt ((s.aerialEnds peaks shorts hot k).get (LF.FLT k)) 0 = true) := by
  have hipk : ∀ y : State, (y.put (LF.IPK k) i).get (LF.IPK k) = i % 4096 := fun y => State.get_put_same _ _ _ (Fld.fits_mk (by decide))
  unfold State.aerialEnds
  rw [hpeak]
  dsimp only
  split
  case isTrue hbits =>
    refine ⟨by rw [State.get_setOut, hipk], fun hlow => absurd hbits ?_⟩
    rw [decide_eq_true hlow]
    simp [b2n]
  case isFalse =>
    refine ⟨?_, fun hlow => ?_⟩
    · rw [State.get_detect, State.get_evt _ _ _ (Fld.apart_mk (by omega)), State.get_put_apart _ _ _ _ (Fld.apart_mk (by omega)), State.get_setOut, hipk]
    · rw [State.get_detect, State.get_evt _ _ _ (Fld.apart_mk (by omega)), State.get_put_same _ _ _ (Fld.fits_mk (by decide)), decide_eq_true hlow]
      rw [bitAt, Nat.testBit_mod_two_pow, Nat.testBit_or, Nat.testBit_zero (x := _ + _)]
      have hodd : ∀ a b c : Nat, decide ((b2n true + 2 * a + 4 * b + 8 * c) % 2 = 1) = true := fun a b c => decide_eq_true (by simp only [b2n, if_true]; omega)
      rw [hodd, Bool.or_true]
      rfl

/-- The peak measured at an aerial in use is shown once the bursts have ended. -/
theorem State.aerialsEnd_show {l : List Nat} (hk : k ∈ l) (hpeak : peaks.find? (fun (e : Nat × Nat) => decide (e.1 = k)) = some (k, i)) :
    let y := l.foldl (State.aerialEnds peaks shorts hot) s
    y.get (LF.IPK k) = i % 4096 ∧ (10 * i < 100 * s.get (LF.ICUR k) → bitAt (y.get (LF.FLT k)) 0 = true) := by
  obtain ⟨l₁, l₂, rfl⟩ := List.append_of_mem hk
  have hset : ∀ (x : State) (j : Nat), (x.aerialEnds peaks shorts hot j).get (LF.ICUR k) = x.get (LF.ICUR k) := fun x j =>
    x.get_aerialEnds peaks shorts hot j _ (Fld.apart_mk (by omega)) (Fld.apart_mk (by omega)) (Fld.apart_mk (by omega))
  have hbefore : (l₁.foldl (State.aerialEnds peaks shorts hot) s).get (LF.ICUR k) = s.get (LF.ICUR k) :=
    foldl_keeps (P := fun x => x.get (LF.ICUR k) = s.get (LF.ICUR k)) rfl fun x j hx => (hset x j).trans hx
  have hat : ∀ x : State, x.get (LF.ICUR k) = s.get (LF.ICUR k) → (x.aerialEnds peaks shorts hot k).get (LF.ICUR k) = s.get (LF.ICUR k)
      ∧ (x.aerialEnds peaks shorts hot k).get (LF.IPK k) = i % 4096
      ∧ (10 * i < 100 * s.get (LF.ICUR k) → bitAt ((x.aerialEnds peaks shorts hot k).get (LF.FLT k)) 0 = true) := fun x hx => by
    rw [← hx]
    exact ⟨hset x k, x.aerialEnds_shows peaks shorts hot k i hpeak⟩
  rw [List.foldl_append, List.foldl_cons]
  refine (foldl_keeps (P := fun x => x.get (LF.ICUR k) = s.get (LF.ICUR k) ∧ x.get (LF.IPK k) = i % 4096
    ∧ (10 * i < 100 * s.get (LF.ICUR k) → bitAt (x.get (LF.FLT k)) 0 = true)) (hat _ hbefore) fun x j hx => ?_).2
  by_cases hj : j = k
  · subst hj
    exact hat x hx.1
  · rw [hset, x.get_aerialEnds peaks shorts hot j (LF.IPK k) (Fld.apart_mk (by omega)) (Fld.apart_mk (by omega)) (Fld.apart_mk (by omega)),
      x.get_aerialEnds peaks shorts hot j (LF.FLT k) (Fld.apart_mk (by omega)) (Fld.apart_mk (by omega)) (Fld.apart_mk (by omega))]
    exact hx

end

/-- A selection grants exactly where a response fits, and then chooses the first of those that do. -/
theorem State.accSelect_grants (s : State) :
    let good := fun (r : AccResp) => s.inBound r.dist && decide (r.zone < 8) && bitAt (s.get (ACC.PMASK r.zone)) s.acc.purpose
      && decide (s.acc.purpose + 1 ≤ r.priv)
    (s.acc.resps.any good = false → s.accSelect.2 = none ∧ s.accSelect.1 ≠ resGranted)
      ∧ (s.acc.resps.any good = true → s.accSelect.1 = resGranted
          ∧ s.accSelect.2.any (fun c => decide (c ∈ s.acc.resps) && good c && s.acc.resps.all (fun r => !good r || !r.before c)) = true) := by
  intro good
  have hgood : ((s.acc.resps.filter (fun r => s.inBound r.dist)).filter (fun r => decide (r.zone < 8) && bitAt (s.get (ACC.PMASK r.zone)) s.acc.purpose)).filter
      (fun r => decide (s.acc.purpose + 1 ≤ r.priv)) = s.acc.resps.filter good := by
    rw [List.filter_filter, List.filter_filter]
    refine List.filter_congr fun r _ => ?_
    simp only [good, Bool.and_comm, Bool.and_left_comm, Bool.and_assoc]
  unfold State.accSelect
  dsimp only
  rw [hgood]
  split
  case h_1 c cs hlist =>
    obtain ⟨hin, hall⟩ := AccResp.first_before c cs
    rw [← hlist] at hin hall
    obtain ⟨hmem, hfit⟩ := List.mem_filter.mp hin
    refine ⟨fun h => absurd h ?_, fun _ => ⟨rfl, ?_⟩⟩
    · rw [List.any_eq_true.mpr ⟨_, hmem, hfit⟩]
      decide
    · simp only [Option.any_some, Bool.and_eq_true, decide_eq_true_eq]
      refine ⟨⟨hmem, hfit⟩, List.all_eq_true.mpr fun r hr => ?_⟩
      cases hg : good r
      · rfl
      · rw [hall r (List.mem_filter.mpr ⟨hr, hg⟩)]
        rfl
  case h_2 hlist =>
    refine ⟨fun _ => ?_, fun h => ?_⟩
    · split
      · exact ⟨rfl, by decide⟩
      · split
        · exact ⟨rfl, by decide⟩
        · split
          · exact ⟨rfl, by decide⟩
          · split <;> exact ⟨rfl, by decide⟩
    · obtain ⟨r, hr, hg⟩ := List.any_eq_true.mp h
      exact absurd (List.mem_filter.mpr ⟨hr, hg⟩) (by rw [hlist]; exact List.not_mem_nil)

theorem State.xtOk_answered (s : State) (t op : Nat) : ((s.reach t).put ACC.STATE 3).xtOk op = s.xtOk op := by
  have hbase : ((s.reach t).put ACC.STATE 3).get ACC.XTBASE = s.get ACC.XTBASE := State.get_put_apart _ _ _ _ (by decide)
  unfold State.xtOk
  rw [hbase]
  rfl

theorem State.macT_answered (s : State) (t : Nat) (key f : List Byte) : ((s.reach t).put ACC.STATE 3).macT key f = s.macT key f := by
  have hid : ((s.reach t).put ACC.STATE 3).get ACC.WAKEID = s.get ACC.WAKEID := State.get_put_apart _ _ _ _ (by decide)
  unfold State.macT
  rw [hid]
  rfl

/-- A well-formed answer in its slot, on transceivers that run, is looked up. -/
theorem State.uwbResp_answered {s : State} {t k round : Nat} {f : List Byte} {eps : Int} (hstate : s.get ACC.STATE = 2 ∨ s.get ACC.STATE = 3)
    (h2 : s.xtOk 2 = true) (h3 : s.xtOk 3 = true) (h4 : s.xtOk 4 = true)
    (hlate : (Int.ofNat (10000 * round) - Int.ofNat ((t - s.acc.poll) * 638976)).natAbs ≤ 8 * 638976)
    (hlen : f.length = 32) (hty : (f.getD 0 0).toNat = 0x52) (hslot : (f.getD 1 0).toNat = k) :
    exec (.uwbRespReceived t k (some f) round eps) s = .next (((s.reach t).put ACC.STATE 3).accRespond k f round eps t) := by
  change execUwbRespReceived t k (some f) round eps s = _
  unfold execUwbRespReceived
  dsimp only
  rw [if_neg (by rw [not_not]; exact hstate), State.xtOk_answered, State.xtOk_answered, State.xtOk_answered, if_neg, if_pos ⟨hlen, hty, hslot⟩]
  rintro (h | h)
  · exact h ⟨h2, h3, h4⟩
  · exact absurd hlate (Nat.not_le.mpr h)

section
variable (x : State) {k round t : Nat} {f : List Byte} {eps : Int}

/-- An answer of an unknown token counts. -/
theorem State.accRespond_unknown
    (h : ((look slotInit x.acc.slots k).valid && decide (leVal ((f.drop 2).take 4) = (look slotInit x.acc.slots k).tid)) = false) :
    x.accRespond k f round eps t = x.count ACC.UNKNOWN := by
  refine if_pos ?_
  rw [Bool.and_eq_false_iff] at h
  simpa using h

/-- An answer with a wrong MAC counts as a failure. -/
theorem State.accRespond_fails
    (h : ((look slotInit x.acc.slots k).valid && decide (leVal ((f.drop 2).take 4) = (look slotInit x.acc.slots k).tid)) = true)
    (hmac : x.macT (look slotInit x.acc.slots k).key f ≠ f.drop 24) :
    x.accRespond k f round eps t = ((x.setAcc (fun a => { a with
      failed := a.failed + 1, fails := t :: x.recentFails t, lockDue := a.lockDue || decide (4 ≤ (x.recentFails t).length) })).count ACC.FAILS).evt 0x0E 2 := by
  unfold State.accRespond
  rw [if_neg (by simpa using h), if_pos hmac]

/-- A good answer is kept with its slot, distance and privilege. -/
theorem State.accRespond_kept
    (h : ((look slotInit x.acc.slots k).valid && decide (leVal ((f.drop 2).take 4) = (look slotInit x.acc.slots k).tid)) = true)
    (hmac : x.macT (look slotInit x.acc.slots k).key f = f.drop 24) :
    (x.accRespond k f round eps t).acc.resps.map (fun r => (r.slot, r.dist, r.priv)) = x.acc.resps.map (fun r => (r.slot, r.dist, r.priv))
      ++ [(k, x.accDistance round (leVal ((f.drop 20).take 4)) eps, (look slotInit x.acc.slots k).priv)] := by
  unfold State.accRespond
  dsimp only
  rw [if_neg (by simpa using h), if_neg (not_not.mpr hmac)]
  split <;> exact List.map_append

end

theorem State.accessSelection_selects {s : State} {t : Nat} (hstate : s.get ACC.STATE = 2 ∨ s.get ACC.STATE = 3)
    (hstop : s.get (Hdr.STOPPING 0x0E) = 0) : ∃ y, exec (.accessSelection t) s = .next y ∧ y.get ACC.STATE = 4
      ∧ y.acc.result = s.accSelect.1 ∧ y.acc.chosen = s.accSelect.2 := by
  have hexec : exec (.accessSelection t) s = .next (((s.reach t).setAcc (fun a => { a with
      result := s.accSelect.1, chosen := s.accSelect.2,
      uwbOut := match s.accSelect.2 with | some c => s.confFrame c | none => s.acc.uwbOut })).put ACC.STATE 4) := by
    change execAccessSelection t s = _
    unfold execAccessSelection
    dsimp only
    rw [if_neg (by rw [not_not]; exact hstate), if_neg (by rw [State.accAborts_off (s := s.reach t) hstop]; decide)]
    rfl
  exact ⟨_, hexec, State.get_put_same _ _ _ (by decide), rfl, rfl⟩

/-- The chosen token's last use is noted. -/
def State.accUsed (s : State) (c : AccResp) : State :=
  (s.setVault (fun v =>
    { v with slots := store slotInit c.slot { look slotInit v.slots c.slot with lastUse := s.lap % 2 ^ 32 } v.slots })).evt 0x0E 1

/-- What a granted cycle with a chosen token leads to. -/
def State.accGranted (s : State) (purpose : Nat) (c : AccResp) (t : Nat) : State :=
  if purpose = 1 then
    if ((s.accUsed c).accRelease c t).flag ACC.EN then ((s.accUsed c).accRelease c t).setAcc (fun a => { a with opening := true })
    else (s.accUsed c).accRelease c t
  else s.accUsed c

theorem State.hwRef_frame (x : State) (k page unit ty a sp t : Nat) :
    (x.hwRef k page unit ty a sp t).timers = x.timers ∧ (x.hwRef k page unit ty a sp t).vault = x.vault
      ∧ (x.hwRef k page unit ty a sp t).acc = x.acc := by
  apply State.hwRef_keeps (P := fun y => y.timers = x.timers ∧ y.vault = x.vault ∧ y.acc = x.acc)
  case h => exact ⟨rfl, rfl, rfl⟩
  case cRegs => exact fun _ _ _ h => h
  all_goals exact fun _ _ h => h

/-- A release counts, and changes no control of the cycle. -/
theorem State.accRelease_leaves (x : State) (c : AccResp) (t : Nat) :
    (∀ g : Fld, ACC.RELDROP.apart g → g.page ≠ 0x0A → g.off < 4096 → (x.accRelease c t).get g = x.get g)
      ∧ (x.accRelease c t).timers = x.timers ∧ (x.accRelease c t).vault.relCnt = (x.vault.relCnt + 1) % 2 ^ 32
      ∧ ∃ b, (x.accRelease c t).acc = { x.acc with recSent := b } := by
  unfold State.accRelease
  dsimp only
  split
  · exact ⟨fun g hg _ _ => State.get_put_apart _ _ _ _ hg, rfl, rfl, x.acc.recSent, rfl⟩
  · refine ⟨fun g _ hp ho => ?_, ?_⟩
    · rw [State.get_hwRef _ _ _ _ _ _ _ _ (lt_of_lt_of_le (State.get_lt _ _) (by decide)) _ hp ho]
      rfl
    · obtain ⟨htimers, hvault, hacc⟩ := State.hwRef_frame _ _ _ _ _ _ _ _
      rw [htimers, hvault, hacc]
      exact ⟨rfl, rfl, true, rfl⟩

/-- A grant leaves the end of the cycle as it is, and for a START gives the release and the permit. -/
theorem State.accGranted_leaves (x : State) (p : Nat) (c : AccResp) (t : Nat) :
    (∀ g : Fld, ACC.RELDROP.apart g → (Hdr.EVT 0x0E).apart g → g.page ≠ 0x0A → g.off < 4096 → (x.accGranted p c t).get g = x.get g)
      ∧ (x.accGranted p c t).timers = x.timers
      ∧ (∃ b o, (x.accGranted p c t).acc = { x.acc with recSent := b, opening := o })
      ∧ (p = 1 → (x.accGranted p c t).vault.relCnt = (x.vault.relCnt + 1) % 2 ^ 32
          ∧ (x.get ACC.EN = 1 → (x.accGranted p c t).acc.opening = true)) := by
  have hused : ∀ g : Fld, (Hdr.EVT 0x0E).apart g → (x.accUsed c).get g = x.get g := fun g hg => State.get_evt _ _ _ hg
  obtain ⟨hget, htimers, hrel, b, hacc⟩ := (x.accUsed c).accRelease_leaves c t
  have hen : ((x.accUsed c).accRelease c t).get ACC.EN = x.get ACC.EN := (hget _ (by decide) (by decide) (by decide)).trans (hused _ (by decide))
  have hone : x.get ACC.EN = 1 → ((x.accUsed c).accRelease c t).flag ACC.EN = true := fun h => by
    rw [State.flag_iff, hen, h]
    decide
  unfold State.accGranted
  by_cases hp : p = 1
  · rw [if_pos hp]
    split
    case isTrue =>
      refine ⟨fun g hg he h0 h1 => (hget g hg h0 h1).trans (hused g he), htimers, ⟨b, true, ?_⟩, fun _ => ⟨hrel, fun _ => rfl⟩⟩
      exact congrArg (fun a : AccSt => { a with opening := true }) hacc
    case isFalse h =>
      refine ⟨fun g hg he h0 h1 => (hget g hg h0 h1).trans (hused g he), htimers, ⟨b, x.acc.opening, hacc⟩, fun _ => ⟨hrel, fun hen => absurd (hone hen) h⟩⟩
  · rw [if_neg hp]
    exact ⟨fun g _ he _ _ => hused g he, rfl, ⟨x.acc.recSent, x.acc.opening, rfl⟩, fun h => absurd h hp⟩

/-- The cycle is over, with the use of the token that it chose. -/
def State.accOver (s : State) (t : Nat) : State :=
  match s.acc.chosen with
  | some c => ((s.reach t).accFinish s.acc.result t).accGranted s.acc.purpose c t
  | none => (s.reach t).accFinish s.acc.result t

theorem State.accOver_over {s : State} {t : Nat} (hheld : s.acc.held = none) (hstop : s.get (Hdr.STOPPING 0x0E) = 0) :
    (s.accOver t).get (Hdr.STOPPING 0x0E) = 0 ∧ (s.accOver t).acc.held = none := by
  obtain ⟨-, -, -, hfin, -, -, hheld', -⟩ := (s.reach t).accFinish_idle s.acc.result t
  unfold State.accOver
  cases s.acc.chosen with
  | none => exact ⟨hfin.trans hstop, hheld'.trans hheld⟩
  | some c =>
    obtain ⟨hget, -, ⟨b, o, hacc⟩, -⟩ := ((s.reach t).accFinish s.acc.result t).accGranted_leaves s.acc.purpose c t
    dsimp only
    rw [hget _ (by decide) (by decide) (by decide) (by decide), hacc]
    exact ⟨hfin.trans hstop, hheld'.trans hheld⟩

theorem State.accessCycleEnd_ends {s : State} {t : Nat} (hstate : s.get ACC.STATE = 4) (hheld : s.acc.held = none)
    (hstop : s.get (Hdr.STOPPING 0x0E) = 0) : exec (.accessCycleEnd t) s = .next (s.accOver t) := by
  obtain ⟨hover, hnone⟩ := State.accOver_over (t := t) hheld hstop
  change execAccessCycleEnd t s = _
  unfold execAccessCycleEnd
  dsimp only
  rw [if_neg (by rw [not_not]; exact hstate)]
  change Host.Outcome.next (if (s.accOver t).accAborts then (s.accOver t).accStopped t else (s.accOver t).accHeld t) = _
  rw [if_neg (by rw [State.accAborts_off hover]; decide), State.accHeld_none _ _ hnone]

/-- Settles O22. -/
theorem accessCyclesRun : Obligations.AccessCyclesRun := by
  refine fun s t => ⟨fun x hx => ⟨fun h => ?_, fun h hl => ?_, fun h hl hs => ?_⟩, fun d hd peaks shorts hot k i hk hpeak hstop hsup => ?_,
    fun hstop hstate hdue => ⟨fun h0 h1 => ?_, fun hheld hlock => ?_⟩, fun hstate => ⟨fun k round eps => ?_, ?_⟩, fun hstate hstop => ?_,
    fun hstate hheld hstop => ?_, fun d hd => ?_, fun d hd => ?_⟩
  case refine_1 =>
    refine ⟨_, State.accessCycleStart_runs hx, ?_⟩
    rw [if_pos h]
    refine ⟨rfl, State.get_put_same _ _ _ (by decide), ?_⟩
    simp (disch := decide) [State.get_put_apart]
  case refine_2 =>
    refine ⟨_, State.accessCycleStart_runs hx, ?_⟩
    have hl : ((s.reach x.1).setAcc (fun a => { a with starts := s.acc.starts.tail })).lockedOut x.1 = true := hl
    rw [if_neg (by rw [h]; decide), State.accStart_locked _ _ _ hl]
    obtain ⟨hstate, hresult, -, -, -, hstarts, -⟩ :=
      ((s.reach x.1).setAcc (fun a => { a with starts := s.acc.starts.tail })).accFinish_idle resLocked x.1
    exact ⟨hstate, hresult, hstarts⟩
  case refine_3 =>
    refine ⟨_, State.accessCycleStart_runs hx, ?_⟩
    rw [if_neg (by rw [h]; decide)]
    exact ((s.reach x.1).setAcc (fun a => { a with starts := s.acc.starts.tail })).accStart_begins x.2 x.1 hl hs
  case refine_4 =>
    refine ⟨_, State.lfBurstsEnd_eq hd peaks shorts hot, ?_⟩
    dsimp only
    obtain ⟨hsupply, habort, hdue⟩ := foldl_keeps (f := State.aerialEnds peaks shorts hot) (l := ((s.disarm .lfEnd).reach d).aerials)
      (P := fun x => x.lfNoSupply = false ∧ x.accAborts = false ∧ x.due .lfEnd = none)
      (s := (s.disarm .lfEnd).reach d) ⟨hsup, State.accAborts_off hstop, by simp⟩ (fun x j ⟨h1, h2, h3⟩ => by
        obtain ⟨l1, l2, l3⟩ := x.aerialEnds_leaves peaks shorts hot j
        exact ⟨l1.trans h1, l2.trans h2, l3.trans h3⟩)
    rw [if_neg (by rw [habort]; decide), if_neg (by rw [hsupply]; simp)]
    obtain ⟨hshow, hflag⟩ := ((s.disarm .lfEnd).reach d).aerialsEnd_show peaks shorts hot k i (l := ((s.disarm .lfEnd).reach d).aerials) hk hpeak
    exact ⟨hshow, hflag, hdue⟩
  case refine_5 =>
    refine ⟨((s.reach t).setAcc (fun a => { a with poll := t, uwbOut := s.pollFrame })).put ACC.STATE 2, ?_,
      State.get_put_same _ _ _ (by decide), rfl⟩
    change execUwbPoll t true s = _
    unfold execUwbPoll
    dsimp only
    rw [if_neg (by simp [hstate, hdue]), if_neg (by rw [State.accAborts_off (s := s.reach t) hstop]; decide), if_pos]
    · rfl
    · exact Bool.and_eq_true_iff.mpr ⟨Bool.and_eq_true_iff.mpr ⟨rfl, h0⟩, h1⟩
  case refine_6 =>
    refine ⟨((s.reach t).detect 0x27 0).accFinish resXcvr t, ?_, ?_⟩
    · change execUwbPoll t false s = _
      unfold execUwbPoll
      dsimp only
      rw [if_neg (by simp [hstate, hdue]), if_neg (by rw [State.accAborts_off (s := s.reach t) hstop]; decide), if_neg (by simp)]
      unfold State.accQuit
      dsimp only
      rw [if_pos rfl, State.accHeld_none]
      rw [State.accFinish_held]
      exact hheld
    · obtain ⟨hidle, hresult, -⟩ := ((s.reach t).detect 0x27 0).accFinish_idle resXcvr t
      exact ⟨hidle, hresult, by rw [((s.reach t).detect 0x27 0).accFinish_fcr resXcvr t hlock]; rfl⟩
  case refine_7 =>
    refine ⟨((s.reach t).put ACC.STATE 3).count ACC.COLL, ?_, ?_⟩
    · change execUwbRespReceived t k none round eps s = _
      unfold execUwbRespReceived
      dsimp only
      rw [if_neg (by rw [not_not]; exact hstate)]
    · refine ⟨?_, ?_, rfl⟩
      · simp (disch := decide) [State.count, State.get_put_same, State.get_put_apart]
      · simp (disch := decide) [State.count, State.get_put_same, State.get_put_apart]
  case refine_8 =>
    intro k f round eps h2 h3 h4 hlate hlen hty hslot
    have hexec := State.uwbResp_answered (eps := eps) hstate h2 h3 h4 hlate hlen hty hslot
    have hdist : ∀ d, ((s.reach t).put ACC.STATE 3).accDistance round d eps = s.accDistance round d eps := fun d => by
      have hdly : ((s.reach t).put ACC.STATE 3).get ACC.ANTDLY = s.get ACC.ANTDLY := State.get_put_apart _ _ _ _ (by decide)
      unfold State.accDistance
      rw [hdly]
    refine ⟨fun hknown => ⟨_, hexec, ?_⟩, fun hknown hmac => ⟨_, hexec, ?_⟩, fun hknown hmac => ⟨_, hexec, ?_⟩⟩
    · rw [State.accRespond_unknown ((s.reach t).put ACC.STATE 3) hknown]
      refine ⟨?_, rfl⟩
      simp (disch := decide) [State.get_count_same, State.get_put_apart]
    · have hmac : ((s.reach t).put ACC.STATE 3).macT (look slotInit s.acc.slots k).key f ≠ f.drop 24 := by rwa [State.macT_answered]
      rw [State.accRespond_fails ((s.reach t).put ACC.STATE 3) hknown hmac]
      refine ⟨?_, rfl, rfl, ?_⟩
      · rw [State.get_evt _ _ _ (by decide), State.get_count_same _ _ _ (by decide), State.get_setAcc, State.get_put_apart _ _ _ _ (by decide),
          State.get_reach]
        rfl
      · change (s.acc.lockDue || decide (4 ≤ (s.recentFails t).length)) = _
        simp
    · have hmac : ((s.reach t).put ACC.STATE 3).macT (look slotInit s.acc.slots k).key f = f.drop 24 := by rwa [State.macT_answered]
      refine (State.accRespond_kept ((s.reach t).put ACC.STATE 3) hknown hmac).trans ?_
      rw [hdist]
      rfl
  case refine_9 =>
    obtain ⟨y, hy, hset⟩ := State.accessSelection_selects (t := t) hstate hstop
    refine ⟨y, hy, hset.1, ?_⟩
    rw [hset.2.1, hset.2.2]
    exact s.accSelect_grants
  case refine_10 =>
    refine ⟨_, State.accessCycleEnd_ends hstate hheld hstop, ?_⟩
    obtain ⟨hidle, hresult, hen, -, hresps, -, -, hcnt⟩ := (s.reach t).accFinish_idle s.acc.result t
    have hlocks := (s.reach t).accFinish_locks s.acc.result t
    unfold State.accOver
    cases hc : s.acc.chosen with
    | none =>
      refine ⟨hidle, hresult, hresps, fun hlock => ?_, fun h => nomatch h⟩
      obtain ⟨h1, h2, h3, h4⟩ := hlocks hlock
      exact ⟨h1, h2, h3, h4.trans (congrArg some h3.symm)⟩
    | some c =>
      obtain ⟨hget, htimers, ⟨b, o, hacc⟩, hstart⟩ := ((s.reach t).accFinish s.acc.result t).accGranted_leaves s.acc.purpose c t
      dsimp only
      rw [hget _ (by decide) (by decide) (by decide) (by decide), hget _ (by decide) (by decide) (by decide) (by decide),
        hget _ (by decide) (by decide) (by decide) (by decide)]
      refine ⟨hidle, hresult, by rw [hacc]; exact hresps, fun hlock => ?_, fun _ hp => ?_⟩
      · obtain ⟨h1, h2, h3, h4⟩ := hlocks hlock
        rw [hacc, State.due, htimers]
        exact ⟨h1, h2, h3, h4.trans (congrArg some h3.symm)⟩
      · obtain ⟨hrel, hopen⟩ := hstart hp
        exact ⟨by rw [hrel, hcnt]; rfl, fun h => hopen (hen.trans h)⟩
  case refine_11 =>
    refine ⟨_, rfl, ?_⟩
    rw [State.onExpiry_due hd]
    refine ⟨?_, rfl, ?_⟩
    · simp (disch := decide) [State.get_put_same, State.get_evt]
    · simp
  case refine_12 =>
    refine ⟨_, rfl, ?_⟩
    rw [State.onExpiry_due hd]
    exact ⟨rfl, by simp⟩

end Sys2Proof.Machine

namespace Sys2Proof.Machine

-- One declaration after another: each kernel evaluation beside others holds a thread's stack, and the whole text has one memory limit.
set_option Elab.async false

/-! A frame that the part originates (R480 to R483): what it may write. -/

/-- The words that the switch, its host port and the queues write. -/
def Fld.SwitchWord (f : Fld) : Prop := (f.page = 0x0A ∨ (0x40 ≤ f.page ∧ f.page ≤ 0x47)) ∧ f.off < 4096

section
variable {P : State → Prop} (cMem : Blind.mem P) (cQueues : Blind.queues P) (cFcr : Blind.fcr P) (cSw : Blind.sw P)
  (cPut : ∀ (s : State) (f : Fld) (v : Nat), f.SwitchWord → P s → P (s.put f v))

include cPut in
theorem State.evt_of {p : Nat} (b : Nat) (hp : p = 0x0A ∨ (0x40 ≤ p ∧ p ≤ 0x47)) {s : State} (h : P s) : P (s.evt p b) :=
  cPut _ _ _ ⟨hp, by show 0x20 < 4096; decide⟩ h

include cQueues cFcr cPut in
theorem State.hwRef_of {k : Nat} (hk : k < 64) (page unit ty addr split t : Nat) {s : State} (h : P s) :
    P (s.hwRef k page unit ty addr split t) :=
  State.qPush_of cQueues cFcr k (fun _ => cPut _ _ _ ⟨.inl rfl, by show 0x108 + 0x20 * k < 4096; omega⟩)
    (fun _ => cPut _ _ _ ⟨.inl rfl, by show 0x104 + 0x20 * k < 4096; omega⟩) (fun _ => State.evt_of cPut k (.inl rfl)) _ h

include cMem cQueues cFcr cSw cPut in
theorem State.mailbox_of (f : EthFrame) (t : Nat) {s : State} (h : P s) : P (s.mailbox f t) := by
  have hk : ∀ x : State, x.get SWC.QUEUE < 64 := fun x => lt_of_lt_of_le (State.get_lt _ _) (by decide)
  have hdrop : ∀ x : State, P x → P (({ x with sw := { x.sw with mbDrops := min (x.sw.mbDrops + 1) 65535 } }.count SWC.DROPS).evt 0x40 3) :=
    fun x hx => State.evt_of cPut 3 (.inr ⟨by decide, by decide⟩) (cPut _ _ _ ⟨.inr ⟨by decide, by decide⟩, by decide⟩ (cSw _ _ hx))
  unfold State.mailbox
  dsimp only
  split
  · exact hdrop s h
  · split
    · exact hdrop _ (State.hwRef_of cQueues cFcr cPut (hk s) _ _ _ _ _ _ h)
    · exact State.hwRef_of cQueues cFcr cPut (hk s) _ _ _ _ _ _ (cSw _ _ (State.setBytes_keeps cMem (State.setLe_keeps cMem h _ _ _) _ _))

include cMem cPut in
theorem State.hostReceive_of (f : EthFrame) {s : State} (h : P s) : P (s.hostReceive f) := by
  have hr : wbits (s.get PH.RXMAP) (2 * f.cls) 2 < 4 := Nat.mod_lt _ (by decide)
  have hdrop : P (s.count PH.RXDROP) := cPut _ _ _ ⟨.inr ⟨by decide, by decide⟩, by decide⟩ h
  unfold State.hostReceive
  dsimp only
  split
  · exact hdrop
  · split
    · exact hdrop
    · refine State.evt_of cPut _ (.inr ⟨by decide, by decide⟩) (cPut _ _ _ ⟨.inr ⟨by show 0x40 ≤ 0x47; decide, by show 0x47 ≤ 0x47; decide⟩, ?_⟩
        (State.setBytes_keeps cMem (State.setBytes_keeps cMem h _ _) _ _))
      show 0x108 + 0x10 * wbits (s.get PH.RXMAP) (2 * f.cls) 2 < 4096
      omega

include cMem cQueues cFcr cSw cPut in
theorem State.hostDeliver_of (f : EthFrame) (t : Nat) {s : State} (h : P s) : P (s.hostDeliver f t) := by
  unfold State.hostDeliver
  split
  · exact h
  · split
    · exact State.mailbox_of cMem cQueues cFcr cSw cPut f t h
    · exact State.hostReceive_of cMem cPut f h

include cPut in
theorem State.swFree_of {s : State} (h : P s) : P s.swFree := by
  unfold State.swFree
  dsimp only
  split
  · exact State.evt_of cPut 2 (.inr ⟨by decide, by decide⟩) (cPut _ _ _ ⟨.inr ⟨by decide, by decide⟩, by decide⟩ h)
  · exact cPut _ _ _ ⟨.inr ⟨by decide, by decide⟩, by decide⟩ h

include cFcr cSw cPut in
theorem State.swEnqueue_of {p : Nat} (hp : p < 7) {f : EthFrame} (hf : f.cls < 8) {s : State} (h : P s) : P (s.swEnqueue p f) := by
  have hcredit : P (s.creditTo p f.last) := cSw _ _ h
  unfold State.swEnqueue
  dsimp only
  split
  · refine State.swFree_of cPut (cSw _ _ (cPut _ _ _ ⟨.inr ⟨by show 0x40 ≤ 0x41 + p; omega, by show 0x41 + p ≤ 0x47; omega⟩, ?_⟩ hcredit))
    show 0x144 + 0x10 * f.cls < 4096
    omega
  · have hcount : P ((s.creditTo p f.last).count (PT.DROPS p f.cls)) :=
      cPut _ _ _ ⟨.inr ⟨by show 0x40 ≤ 0x41 + p; omega, by show 0x41 + p ≤ 0x47; omega⟩, by show 0x148 + 0x10 * f.cls < 4096; omega⟩ hcredit
    split
    · exact cFcr _ _ (cSw _ _ hcount)
    · exact cSw _ _ hcount

/-- The deliveries of a frame to ports and to the host. -/
def State.deliverTo (s : State) (untag t : Nat) (f : EthFrame) (ps : List Nat) : State :=
  ps.foldl (fun s p =>
    if p = 6 then s.hostDeliver { f with untag := bitAt untag 6 } t
    else if s.portOn p then s.swEnqueue p { f with untag := bitAt untag p } else s) s

include cMem cQueues cFcr cSw cPut in
theorem State.deliverTo_of {untag t : Nat} {f : EthFrame} (hf : f.cls < 8) {ps : List Nat} (hps : ∀ p ∈ ps, p < 7) {s : State} (h : P s) :
    P (s.deliverTo untag t f ps) := by
  unfold State.deliverTo
  induction ps generalizing s with
  | nil => exact h
  | cons p ps ih =>
    rw [List.foldl_cons]
    refine ih (fun q hq => hps q (List.mem_cons_of_mem p hq)) ?_
    split
    · exact State.hostDeliver_of cMem cQueues cFcr cSw cPut _ t h
    · split
      · exact State.swEnqueue_of cFcr cSw cPut (f := { f with untag := bitAt untag p }) (hps p List.mem_cons_self) hf h
      · exact h

include cMem cQueues cFcr cSw cPut in
/-- A frame that came in on no ring port is replicated or delivered. -/
theorem State.swSpread_of {f : EthFrame} (hf : f.cls < 8) (hin : 2 ≤ f.ingress) {dests : List Nat} (hd : ∀ p ∈ dests, p < 7) (untag : Nat)
    (stream : Option Nat) (t : Nat) {s : State} (h : P s) : P (s.swSpread f dests untag stream t) := by
  have hfilter : ∀ g : Nat → Bool, ∀ p ∈ dests.filter g, p < 7 := fun g p hp => hd p (List.mem_filter.mp hp).1
  have hring : decide (f.ingress < 2) = false := decide_eq_false (by omega)
  unfold State.swSpread
  dsimp only
  rw [hring]
  split
  · refine State.deliverTo_of cMem cQueues cFcr cSw cPut (untag := untag) (t := t) hf (hfilter _)
      (State.deliverTo_of cMem cQueues cFcr cSw cPut (f := { f with rtag := some _ }) (untag := untag) (t := t) (ps := [0, 1]) hf (by decide) (cSw _ _ h))
  · exact State.deliverTo_of cMem cQueues cFcr cSw cPut (untag := untag) (t := t) hf hd h
  · exact State.deliverTo_of cMem cQueues cFcr cSw cPut (untag := untag) (t := t) hf (hfilter _) h

include cMem cQueues cFcr cSw cPut in
/-- A frame of the part's own may write the words of the switch, of its host port and of the queues, and memory. -/
theorem State.swOriginate_of (dst vid etype : Nat) {prio : Nat} (hp : prio < 8) (payload : List Byte) (t : Nat) {s : State} (h : P s) :
    P (s.swOriginate dst vid prio etype payload t) := by
  have hdest : ∀ (f : EthFrame) (v : Nat), ∀ p ∈ s.destPorts f v, p < 7 := fun f v p hp => List.mem_range.mp (List.mem_filter.mp hp).1
  unfold State.swOriginate
  dsimp only
  split
  · exact h
  · split
    · unfold State.swForward
      split
      · exact h
      · exact State.swSpread_of cMem cQueues cFcr cSw cPut hp (by show 2 ≤ 6; decide) (hdest _ _) _ _ t h
    · refine State.swSpread_of cMem cQueues cFcr cSw cPut hp (by show 2 ≤ 6; decide) ?_ _ _ t h
      split
      · exact hdest _ _
      · exact fun p hp => lt_trans (List.mem_range.mp hp) (by decide)

end

/-! The Baton ring (O47). -/

/-- A ring frame leaves the words of every page but those of the switch and the queues, the timers and the ring. -/
theorem State.ringSend_leaves (s : State) (ty dest seq mask t : Nat) :
    (∀ g : Fld, g.page ≠ 0x0A → g.page < 0x40 → g.off < 4096 → (s.ringSend ty dest seq mask t).get g = s.get g)
      ∧ (s.ringSend ty dest seq mask t).timers = s.timers ∧ (s.ringSend ty dest seq mask t).ring = s.ring := by
  unfold State.ringSend
  refine ⟨fun g h0 h1 ho => ?_, ?_⟩
  · refine State.swOriginate_of (P := fun y => y.get g = s.get g) (fun _ _ _ h => h) (fun _ _ h => h) (fun _ _ h => h) (fun _ _ h => h)
      (fun y f v hf hy => ?_) _ _ _ (by decide) _ _ rfl
    obtain ⟨hpage, hoff⟩ := hf
    exact (State.get_put_page _ _ _ _ (by omega) hoff ho).trans hy
  · exact State.swOriginate_of (P := fun y => y.timers = s.timers ∧ y.ring = s.ring) (fun _ _ _ h => h) (fun _ _ h => h) (fun _ _ h => h)
      (fun _ _ h => h) (fun _ _ _ _ h => h) _ _ _ (by decide) _ _ ⟨rfl, rfl⟩

theorem State.due_ringSend (s : State) (ty dest seq mask t : Nat) (k : Timer) : (s.ringSend ty dest seq mask t).due k = s.due k := by
  obtain ⟨-, htimers, -⟩ := s.ringSend_leaves ty dest seq mask t
  unfold State.due
  rw [htimers]

theorem State.get_ringSend (s : State) (ty dest seq mask t : Nat) (g : Fld) (h : g.page ≠ 0x0A ∧ g.page < 0x40 ∧ g.off < 4096) :
    (s.ringSend ty dest seq mask t).get g = s.get g := by
  obtain ⟨hget, -⟩ := s.ringSend_leaves ty dest seq mask t
  exact hget g h.1 h.2.1 h.2.2

theorem State.ring_ringSend (s : State) (ty dest seq mask t : Nat) : (s.ringSend ty dest seq mask t).ring = s.ring := by
  obtain ⟨-, -, hring⟩ := s.ringSend_leaves ty dest seq mask t
  exact hring

/-- The part's consent to a lap (R459). -/
def State.Agrees (s : State) : Prop :=
  s.get NMB.CONSENT = 1 ∧ s.get TSY.LOCK = 1 ∧ s.get (Hdr.EN 0x3A) = 1
    ∧ (List.range 8).all (fun x => decide (bitAt (s.get NMK.SLPSET) x = false ∨ (s.get (NMK.STATE x) ≠ 1 ∧ s.get (NMK.STATE x) ≠ 2))) = true

theorem State.consent_iff (s : State) : s.consent = true ↔ s.Agrees := by
  have hchannel : ∀ x, (!bitAt (s.get NMK.SLPSET) x || !(decide (s.get (NMK.STATE x) = 1) || decide (s.get (NMK.STATE x) = 2)))
      = decide (bitAt (s.get NMK.SLPSET) x = false ∨ (s.get (NMK.STATE x) ≠ 1 ∧ s.get (NMK.STATE x) ≠ 2)) := fun x => by
    by_cases hb : bitAt (s.get NMK.SLPSET) x = true
    · simp [hb]
    · simp [hb]
  unfold State.consent State.Agrees
  rw [Bool.and_eq_true_iff, Bool.and_eq_true_iff, Bool.and_eq_true_iff, State.flag_one_iff _ rfl, State.flag_one_iff _ rfl,
    State.flag_one_iff _ rfl, and_assoc, and_assoc]
  simp only [hchannel]

/-- Consent depends on words that no ring step writes. -/
theorem State.consent_congr {x s : State} (h : ∀ g : Fld, g = NMB.CONSENT ∨ g = TSY.LOCK ∨ g = Hdr.EN 0x3A ∨ g = NMK.SLPSET ∨ (∃ y, g = NMK.STATE y) →
    x.get g = s.get g) :
    x.consent = s.consent := by
  unfold State.consent State.flag
  rw [h _ (.inl rfl), h _ (.inr (.inl rfl)), h _ (.inr (.inr (.inl rfl))), h _ (.inr (.inr (.inr (.inl rfl))))]
  simp only [fun y => h (NMK.STATE y) (.inr (.inr (.inr (.inr ⟨y, rfl⟩))))]

theorem State.ringOn_iff (s : State) : s.ringOn = true ↔ s.get (Hdr.EN 0x3A) = 1 := State.flag_one_iff _ rfl

/-- The end of a lap. -/
theorem State.lapEnd_ends (s : State) (t : Nat) :
    (s.lapEnd t).get NMB.STATE = 0 ∧ (s.lapEnd t).due .lap = none ∧ (s.lapEnd t).due .commitTo = none
      ∧ (s.get NMB.POS = 0 → (s.lapEnd t).due .lapDelay = some (t + ms (100 * s.get NMB.LAPDLY)))
      ∧ (∀ g, NMB.STATE.apart g → (s.lapEnd t).get g = s.get g) ∧ (s.lapEnd t).fcr = s.fcr := by
  have hpos : (((s.put NMB.STATE 0).disarm .lap).disarm .commitTo).get NMB.POS = s.get NMB.POS := by
    simp (disch := decide) [State.get_put_apart]
  have hdly : (((s.put NMB.STATE 0).disarm .lap).disarm .commitTo).get NMB.LAPDLY = s.get NMB.LAPDLY := by
    simp (disch := decide) [State.get_put_apart]
  unfold State.lapEnd
  dsimp only
  rw [hpos, hdly]
  split
  case isTrue =>
    refine ⟨?_, ?_, ?_, fun _ => State.due_arm_same _ _ _, fun g hg => ?_, rfl⟩
    · simp (disch := decide) [State.get_put_same]
    · simp [State.due_arm, State.due_disarm]
    · simp [State.due_arm]
    · rw [State.get_arm, State.get_disarm, State.get_disarm, State.get_put_apart _ _ _ _ hg]
  case isFalse h =>
    refine ⟨?_, ?_, ?_, fun h0 => absurd h0 h, fun g hg => ?_, rfl⟩
    · simp (disch := decide) [State.get_put_same]
    · simp [State.due_disarm]
    · simp
    · rw [State.get_disarm, State.get_disarm, State.get_put_apart _ _ _ _ hg]

/-- What a ring frame must meet to be taken (R460, R461). -/
def State.RingGood (s : State) (ty : Nat) (p : List Byte) (t : Nat) : Prop :=
  20 ≤ p.length ∧ (p.getD 0 0).toNat = 0x10 + ty ∧ (p.getD 1 0).toNat = s.get NMB.RING
    ∧ (p.drop 12).take 8 = macOf (look [] s.vault.keys (s.get NMB.KEY)) (p.take 12)
    ∧ s.get NMB.LASTSEQ ≤ beVal ((p.drop 4).take 4)
    ∧ (s.gptp t / 1000000 % 2 ^ 32 + 2 ^ 32 - beVal ((p.drop 4).take 4)) % 2 ^ 32 ≤ s.get NMB.LAPTO + 3

section
variable (s : State) (ty : Nat) (p : List Byte) (t : Nat)

theorem State.ringCheck_good (h : s.RingGood ty p t) : s.ringCheck ty p t =
    (s.put NMB.LASTSEQ (beVal ((p.drop 4).take 4)),
      some { dest := (p.getD 3 0).toNat, seq := beVal ((p.drop 4).take 4), mask := beVal ((p.drop 8).take 2) }) := by
  obtain ⟨hlen, hty, hring, htag, hseq, hage⟩ := h
  unfold State.ringCheck
  refine if_pos ?_
  simp only [Bool.and_eq_true, decide_eq_true_eq]
  exact ⟨⟨⟨⟨⟨hlen, hty⟩, hring⟩, htag.symm⟩, hseq⟩, hage⟩

theorem State.ringCheck_bad (h : ¬ s.RingGood ty p t) : s.ringCheck ty p t = (s.count NMB.DROPS, none) := by
  unfold State.ringCheck
  refine if_neg fun hgood => h ?_
  simp only [Bool.and_eq_true, decide_eq_true_eq] at hgood
  obtain ⟨⟨⟨⟨⟨hlen, hty⟩, hring⟩, htag⟩, hseq⟩, hage⟩ := hgood
  exact ⟨hlen, hty, hring, htag.symm, hseq, hage⟩

end

/-- What becomes of a BATON that the checks accept (R461 to R463). -/
def State.ringBatonTaken (s : State) (m : RingMsg) (t : Nat) : State :=
  let pos := s.get NMB.POS
  if m.dest ≠ pos then s
  else if pos = 0 then
    let all := 2 ^ s.get NMB.COUNT - 1
    if s.get NMB.STATE = 1 ∧ m.seq = s.ring.seq ∧ m.mask &&& all = all then
      let s := { s.put NMB.LAPMASK m.mask with ring := { s.ring with mask := m.mask, resend := 2 } }.ringCommitted t
      (s.ringSend 3 0xFF m.seq m.mask t).arm .resend (t + ms 1)
    else s
  else if s.get NMB.STATE ≠ 0 then s
  else if s.consent then
    let mask := setBit m.mask pos
    let s := (s.ringJoin m.seq mask).ringSend 1 ((pos + 1) % s.get NMB.COUNT) m.seq mask t
    s.arm .commitTo (t + ms (s.get NMB.CMTTO))
  else { s with ring := { s.ring with mask := m.mask } }.sendDissent m.seq t

/-- The message of a frame that the checks accept. -/
def ringMsg (p : List Byte) : RingMsg :=
  { dest := (p.getD 3 0).toNat, seq := beVal ((p.drop 4).take 4), mask := beVal ((p.drop 8).take 2) }

section
variable {s : State} {p : List Byte} {t : Nat}

theorem State.ringBatonFrame_off (h : ¬ s.ringOn = true) : s.ringBatonFrame p t = s := if_pos h
theorem State.ringDissentFrame_off (h : ¬ s.ringOn = true) : s.ringDissentFrame p t = s := if_pos h
theorem State.ringCommitFrame_off (h : ¬ s.ringOn = true) : s.ringCommitFrame p t = s := if_pos h

theorem State.ringBatonFrame_bad (hon : s.ringOn = true) (h : ¬ s.RingGood 1 p t) : s.ringBatonFrame p t = s.count NMB.DROPS := by
  unfold State.ringBatonFrame
  rw [if_neg (not_not.mpr hon), State.ringCheck_bad _ _ _ _ h]

theorem State.ringDissentFrame_bad (hon : s.ringOn = true) (h : ¬ s.RingGood 2 p t) : s.ringDissentFrame p t = s.count NMB.DROPS := by
  unfold State.ringDissentFrame
  rw [if_neg (not_not.mpr hon), State.ringCheck_bad _ _ _ _ h]

theorem State.ringCommitFrame_bad (hon : s.ringOn = true) (h : ¬ s.RingGood 3 p t) : s.ringCommitFrame p t = s.count NMB.DROPS := by
  unfold State.ringCommitFrame
  rw [if_neg (not_not.mpr hon), State.ringCheck_bad _ _ _ _ h]

theorem State.ringBatonFrame_taken {y : State} {m : RingMsg} (hon : s.ringOn = true) (h : s.ringCheck 1 p t = (y, some m)) :
    s.ringBatonFrame p t = y.ringBatonTaken m t := by
  unfold State.ringBatonFrame State.ringBatonTaken
  rw [if_neg (not_not.mpr hon), h]

theorem State.ringBatonFrame_good (hon : s.ringOn = true) (h : s.RingGood 1 p t) :
    s.ringBatonFrame p t = (s.put NMB.LASTSEQ (beVal ((p.drop 4).take 4))).ringBatonTaken (ringMsg p) t :=
  State.ringBatonFrame_taken hon (State.ringCheck_good _ _ _ _ h)

theorem State.ringDissentFrame_good (hon : s.ringOn = true) (h : s.RingGood 2 p t) : s.ringDissentFrame p t =
    (if (s.put NMB.LASTSEQ (beVal ((p.drop 4).take 4))).ringDissent.get NMB.STATE = 1 ∧ beVal ((p.drop 4).take 4) = s.ring.seq
      then (s.put NMB.LASTSEQ (beVal ((p.drop 4).take 4))).ringDissent.lapEnd t
      else (s.put NMB.LASTSEQ (beVal ((p.drop 4).take 4))).ringDissent) := by
  unfold State.ringDissentFrame
  rw [if_neg (not_not.mpr hon), State.ringCheck_good _ _ _ _ h]
  rfl

theorem State.ringCommitFrame_good (hon : s.ringOn = true) (h : s.RingGood 3 p t) : s.ringCommitFrame p t =
    (if s.get NMB.POS ≠ 0 ∧ s.get NMB.STATE ≠ 2 ∧ bitAt (beVal ((p.drop 8).take 2)) (s.get NMB.POS) = true
      then ((s.put NMB.LASTSEQ (beVal ((p.drop 4).take 4))).put NMB.LAPMASK (beVal ((p.drop 8).take 2))).ringCommitted t
      else s.put NMB.LASTSEQ (beVal ((p.drop 4).take 4))) := by
  have hpos : (s.put NMB.LASTSEQ (beVal ((p.drop 4).take 4))).get NMB.POS = s.get NMB.POS := State.get_put_apart _ _ _ _ (by decide)
  have hstate : (s.put NMB.LASTSEQ (beVal ((p.drop 4).take 4))).get NMB.STATE = s.get NMB.STATE := State.get_put_apart _ _ _ _ (by decide)
  unfold State.ringCommitFrame
  rw [if_neg (not_not.mpr hon), State.ringCheck_good _ _ _ _ h]
  dsimp only
  rw [hpos, hstate]

end

theorem beVal_lt (bs : List Byte) : beVal bs < 256 ^ bs.length := by
  induction bs using List.reverseRecOn with
  | nil => exact Nat.one_pos
  | append_singleton bs b ih =>
    have hb : b.toNat < 256 := b.isLt
    unfold beVal at ih ⊢
    rw [List.foldl_append, List.foldl_cons, List.foldl_nil, List.length_append, List.length_singleton, Nat.pow_succ]
    omega

theorem beVal_take_lt (bs : List Byte) (n : Nat) : beVal (bs.take n) < 256 ^ n :=
  lt_of_lt_of_le (beVal_lt _) (Nat.pow_le_pow_right (by decide) (List.length_take_le n bs))

/-- The start of Cool-down writes no register, and two timers. -/
theorem State.coolStart_leaves (s : State) (t : Nat) :
    (∀ g, (s.coolStart t).get g = s.get g) ∧ (∀ k, k ≠ .coolArm → k ≠ .coolTo → (s.coolStart t).due k = s.due k)
      ∧ (s.coolStart t).ring = s.ring := by
  have hstart : ∀ k, k ≠ .coolArm → k ≠ .coolTo →
      ((({ s with pwr := { s.pwr with state := .cooldown, waitPark := false } } : State).disarm .coolArm).arm .coolTo
        (t + ms (100 * s.get PWR.COOLCFG_COOLTO))).due k = s.due k := fun k h1 h2 => by
    rw [State.due_arm, if_neg h2.symm, State.due_disarm, if_neg h1.symm]
    rfl
  unfold State.coolStart
  split
  · exact ⟨fun _ => rfl, hstart, rfl⟩
  · exact ⟨fun _ => rfl, hstart, rfl⟩
  · exact ⟨fun _ => rfl, fun _ _ _ => rfl, rfl⟩

/-- A Cool-down that is armed, or starts at once, writes the power page and two timers. -/
theorem State.coolArm_leaves (s : State) (t : Nat) :
    (∀ g : Fld, PWR.COOLARM.apart g → (Hdr.EVT 0x02).apart g → (s.coolArm t).get g = s.get g)
      ∧ (∀ k, k ≠ .coolArm → k ≠ .coolTo → (s.coolArm t).due k = s.due k) ∧ (s.coolArm t).ring = s.ring := by
  have hget : ∀ g : Fld, PWR.COOLARM.apart g → (Hdr.EVT 0x02).apart g → ((s.put PWR.COOLARM 1).evt 0x02 1).get g = s.get g := fun g h1 h2 => by
    rw [State.get_evt _ _ _ h2, State.get_put_apart _ _ _ _ h1]
  unfold State.coolArm
  dsimp only
  split
  · obtain ⟨hg, hdue, hring⟩ := ((s.put PWR.COOLARM 1).evt 0x02 1).coolStart_leaves t
    exact ⟨fun g h1 h2 => (hg g).trans (hget g h1 h2), hdue, hring⟩
  · exact ⟨hget, fun k h1 _ => by rw [State.due_arm, if_neg h1.symm]; rfl, rfl⟩

/-- The agreement on sleep writes the pages of network management and power, and two timers. -/
theorem State.agreeCheck_leaves (s : State) (t : Nat) :
    (∀ g : Fld, NMK.DONE.apart g → (Hdr.EVT 0x39).apart g → PWR.COOLARM.apart g → (Hdr.EVT 0x02).apart g → (s.agreeCheck t).get g = s.get g)
      ∧ (∀ k, k ≠ .coolArm → k ≠ .coolTo → (s.agreeCheck t).due k = s.due k) ∧ (s.agreeCheck t).ring = s.ring := by
  unfold State.agreeCheck
  split
  · obtain ⟨hg, hdue, hring⟩ := ((s.put NMK.DONE 1).evt 0x39 16).coolArm_leaves t
    refine ⟨fun g h1 h2 h3 h4 => ?_, hdue, hring⟩
    rw [hg g h3 h4, State.get_evt _ _ _ h2, State.get_put_apart _ _ _ _ h1]
  · exact ⟨fun _ _ _ _ _ => rfl, fun _ _ _ => rfl, rfl⟩

/-- A commit. -/
theorem State.ringCommitted_commits (s : State) (t : Nat) :
    (s.ringCommitted t).get NMB.STATE = 2 ∧ bitAt ((s.ringCommitted t).get (Hdr.EVT 0x3A)) 2 = true
      ∧ (s.ringCommitted t).due .lap = none ∧ (s.ringCommitted t).due .commitTo = none ∧ (s.ringCommitted t).ring = s.ring
      ∧ (∀ g : Fld, g.page = 0x3A → g.off < 4096 → NMB.STATE.apart g → (Hdr.EVT 0x3A).apart g → (s.ringCommitted t).get g = s.get g) := by
  obtain ⟨hget, hdue, hring⟩ := ((((s.put NMB.STATE 2).disarm .lap).disarm .commitTo).evt 0x3A 2).agreeCheck_leaves t
  have hcommit : (((((s.put NMB.STATE 2).disarm .lap).disarm .commitTo).evt 0x3A 2).agreeCheck t).get NMB.STATE = 2
      ∧ bitAt ((((((s.put NMB.STATE 2).disarm .lap).disarm .commitTo).evt 0x3A 2).agreeCheck t).get (Hdr.EVT 0x3A)) 2 = true
      ∧ (((((s.put NMB.STATE 2).disarm .lap).disarm .commitTo).evt 0x3A 2).agreeCheck t).due .lap = none
      ∧ (((((s.put NMB.STATE 2).disarm .lap).disarm .commitTo).evt 0x3A 2).agreeCheck t).due .commitTo = none
      ∧ (((((s.put NMB.STATE 2).disarm .lap).disarm .commitTo).evt 0x3A 2).agreeCheck t).ring = s.ring
      ∧ (∀ g : Fld, g.page = 0x3A → g.off < 4096 → NMB.STATE.apart g → (Hdr.EVT 0x3A).apart g →
          (((((s.put NMB.STATE 2).disarm .lap).disarm .commitTo).evt 0x3A 2).agreeCheck t).get g = s.get g) := by
    refine ⟨?_, ?_, ?_, ?_, hring, fun g hp ho hs he => ?_⟩
    · rw [hget _ (by decide) (by decide) (by decide) (by decide)]
      simp (disch := decide) [State.get_evt, State.get_put_same]
    · rw [hget _ (by decide) (by decide) (by decide) (by decide)]
      exact State.bitAt_evt_same _ _ (by decide)
    · rw [hdue _ (by decide) (by decide)]
      simp [State.due_disarm]
    · rw [hdue _ (by decide) (by decide)]
      simp
    · have hpage : ∀ f : Fld, f.page < 0x3A → f.off < 4096 → f.apart g := fun f hf ho' => .inl (by show f.page * 0x1000 + f.off ≠ g.page * 0x1000 + g.off; omega)
      rw [hget g (hpage _ (by decide) (by decide)) (hpage _ (by decide) (by decide)) (hpage _ (by decide) (by decide))
        (hpage _ (by decide) (by decide)), State.get_evt _ _ _ he, State.get_disarm, State.get_disarm, State.get_put_apart _ _ _ _ hs]
  unfold State.ringCommitted
  dsimp only
  split
  · exact hcommit
  · exact hcommit

/-- A lap that is joined or started. -/
theorem State.ringJoin_joins (s : State) (seq mask : Nat) :
    (s.ringJoin seq mask).get NMB.STATE = 1 ∧ (s.ringJoin seq mask).get NMB.LAPS = min (s.get NMB.LAPS + 1) (2 ^ NMB.LAPS.width - 1)
      ∧ bitAt ((s.ringJoin seq mask).get (Hdr.EVT 0x3A)) 0 = true ∧ (s.ringJoin seq mask).get NMB.LAPMASK = mask % 2 ^ 16
      ∧ (s.ringJoin seq mask).ring = { s.ring with seq := seq, mask := mask } ∧ (s.ringJoin seq mask).timers = s.timers
      ∧ (∀ g : Fld, NMB.STATE.apart g → NMB.LAPS.apart g → (Hdr.EVT 0x3A).apart g → NMB.LAPMASK.apart g → (s.ringJoin seq mask).get g = s.get g) := by
  have hget : ∀ g, (s.ringJoin seq mask).get g = ((((s.put NMB.STATE 1).count NMB.LAPS).evt 0x3A 0).put NMB.LAPMASK mask).get g := fun _ => rfl
  refine ⟨?_, ?_, ?_, ?_, rfl, rfl, fun g h1 h2 h3 h4 => ?_⟩
  · simp (disch := decide) [hget, State.count, State.get_put_same, State.get_put_apart, State.get_evt]
  · rw [hget, State.get_put_apart _ _ _ _ (by decide), State.get_evt _ _ _ (by decide), State.get_count_same _ _ _ (by decide),
      State.get_put_apart _ _ _ _ (by decide)]
  · rw [hget, State.get_put_apart _ _ _ _ (by decide)]
    exact State.bitAt_evt_same _ _ (by decide)
  · rw [hget, State.get_put_same _ _ _ (by decide)]
  · rw [hget, State.get_put_apart _ _ _ _ h4, State.get_evt _ _ _ h3, State.count, State.get_put_apart _ _ _ _ h2, State.get_put_apart _ _ _ _ h1]

/-- A dissent that is sent. -/
theorem State.sendDissent_sends (s : State) (seq t : Nat) :
    (s.sendDissent seq t).get NMB.DISSENTS = min (s.get NMB.DISSENTS + 1) (2 ^ NMB.DISSENTS.width - 1)
      ∧ bitAt ((s.sendDissent seq t).get (Hdr.EVT 0x3A)) 1 = true
      ∧ (∀ g : Fld, g.page = 0x3A → g.off < 4096 → NMB.DISSENTS.apart g → (Hdr.EVT 0x3A).apart g → (s.sendDissent seq t).get g = s.get g)
      ∧ (s.sendDissent seq t).timers = s.timers ∧ (s.sendDissent seq t).ring = s.ring := by
  obtain ⟨hget, htimers, hring⟩ := s.ringSend_leaves 2 0xFF seq s.ring.mask t
  unfold State.sendDissent State.ringDissent
  refine ⟨?_, State.bitAt_evt_same _ _ (by decide), fun g hp ho hd he => ?_, htimers, hring⟩
  · rw [State.get_evt _ _ _ (by decide), State.get_count_same _ _ _ (by decide), hget _ (by decide) (by decide) (by decide)]
  · rw [State.get_evt _ _ _ he, State.count, State.get_put_apart _ _ _ _ hd, hget g (by omega) (by omega) ho]

section
variable {s : State} {t : Nat}

theorem State.consent_reach_iff : (s.reach t).consent = true ↔ s.Agrees := (State.consent_iff (s.reach t)).trans Iff.rfl

/-- An idle leader that consents starts a lap. -/
theorem State.ringLapStart_starts (hon : s.get (Hdr.EN 0x3A) = 1) (hpos : s.get NMB.POS = 0) (hstate : s.get NMB.STATE = 0) (hagrees : s.Agrees)
    (hdelay : (s.due .lapDelay).all (fun d => decide (d ≤ t)) = true) :
    exec (.ringLapStart t) s = .next ((((((s.reach t).disarm .lapDelay).ringJoin (s.gptp t / 1000000 % 2 ^ 32) 1).ringSend 1 1
      (s.gptp t / 1000000 % 2 ^ 32) 1 t).arm .lap (t + ms (s.get NMB.LAPTO)))) := by
  have hwaited : (match s.due .lapDelay with | some d => decide (d ≤ t) | none => true) = true := by
    cases h : s.due .lapDelay with
    | none => rfl
    | some d => rwa [h] at hdelay
  have hlapto : ((((s.reach t).disarm .lapDelay).ringJoin (s.gptp t / 1000000 % 2 ^ 32) 1).ringSend 1 1
      (s.gptp t / 1000000 % 2 ^ 32) 1 t).get NMB.LAPTO = s.get NMB.LAPTO := by
    obtain ⟨-, -, -, -, -, -, hget⟩ := ((s.reach t).disarm .lapDelay).ringJoin_joins (s.gptp t / 1000000 % 2 ^ 32) 1
    rw [State.get_ringSend _ _ _ _ _ _ _ (by decide), hget _ (by decide) (by decide) (by decide) (by decide)]
    simp
  change execRingLapStart t s = _
  unfold execRingLapStart
  dsimp only
  rw [if_pos]
  · rw [← hlapto]
    rfl
  · rw [Bool.and_eq_true_iff, Bool.and_eq_true_iff, Bool.and_eq_true_iff, Bool.and_eq_true_iff]
    exact ⟨⟨⟨⟨(State.ringOn_iff (s.reach t)).mpr hon, decide_eq_true hpos⟩, decide_eq_true hstate⟩, State.consent_reach_iff.mpr hagrees⟩, hwaited⟩

end

/-- A lap that began in `s` ended at `d`. -/
def State.LapEnded (s y : State) (d : Nat) : Prop :=
  y.get NMB.STATE = 0 ∧ y.due .lap = none ∧ y.due .commitTo = none
    ∧ (s.get NMB.POS = 0 → y.due .lapDelay = some (d + ms (100 * s.get NMB.LAPDLY)))

theorem State.lapEnd_ended {s x : State} (d : Nat) (hpos : x.get NMB.POS = s.get NMB.POS) (hdly : x.get NMB.LAPDLY = s.get NMB.LAPDLY) :
    s.LapEnded (x.lapEnd d) d := by
  obtain ⟨h1, h2, h3, h4, -⟩ := x.lapEnd_ends d
  rw [hpos, hdly] at h4
  exact ⟨h1, h2, h3, h4⟩

theorem State.get_lapEnd (x : State) (d : Nat) (g : Fld) (h : NMB.STATE.apart g) : (x.lapEnd d).get g = x.get g := by
  obtain ⟨-, -, -, -, hget, -⟩ := x.lapEnd_ends d
  exact hget g h

theorem State.ringLapTimeout_ends {s : State} {d : Nat} (hd : s.due .lap = some d) : Completes .ringLapTimeout s (fun y =>
    s.LapEnded y d ∧ y.get NMB.FAILS = min (s.get NMB.FAILS + 1) (2 ^ NMB.FAILS.width - 1)
      ∧ bitAt (y.get (Hdr.EVT 0x3A)) 3 = true ∧ y.fcr.inbox = s.fcr.inbox ++ [(0xC9, 0)]) := by
  refine ⟨(((((s.disarm .lap).reach d).count NMB.FAILS).evt 0x3A 3).detect 0xC9 0).lapEnd d, ?_, State.lapEnd_ended d ?_ ?_, ?_, ?_, ?_⟩
  · exact congrArg Host.Outcome.next (State.onExpiry_due hd _)
  · simp (disch := decide) [State.get_evt, State.count, State.get_put_apart]
  · simp (disch := decide) [State.get_evt, State.count, State.get_put_apart]
  · rw [State.get_lapEnd _ _ _ (by decide), State.get_detect, State.get_evt _ _ _ (by decide), State.get_count_same _ _ _ (by decide)]
    simp
  · rw [State.get_lapEnd _ _ _ (by decide)]
    exact State.bitAt_evt_same _ _ (by decide)
  · obtain ⟨-, -, -, -, -, hfcr⟩ := (((((s.disarm .lap).reach d).count NMB.FAILS).evt 0x3A 3).detect 0xC9 0).lapEnd_ends d
    rw [hfcr]
    rfl

theorem State.ringCommitTimeout_ends {s : State} {d : Nat} (hd : s.due .commitTo = some d) : Completes .ringCommitTimeout s (fun y =>
    s.LapEnded y d ∧ bitAt (y.get (Hdr.EVT 0x3A)) 4 = true ∧ y.fcr.inbox = s.fcr.inbox ++ [(0xCA, 0)]) := by
  refine ⟨((((s.disarm .commitTo).reach d).evt 0x3A 4).detect 0xCA 0).lapEnd d, ?_, State.lapEnd_ended d ?_ ?_, ?_, ?_⟩
  · exact congrArg Host.Outcome.next (State.onExpiry_due hd _)
  · simp (disch := decide) [State.get_evt]
  · simp (disch := decide) [State.get_evt]
  · rw [State.get_lapEnd _ _ _ (by decide)]
    exact State.bitAt_evt_same _ _ (by decide)
  · obtain ⟨-, -, -, -, -, hfcr⟩ := ((((s.disarm .commitTo).reach d).evt 0x3A 4).detect 0xCA 0).lapEnd_ends d
    rw [hfcr]
    rfl

section
variable (x : State) (m : RingMsg) (t : Nat)

/-- A BATON for another position, or in a state that takes none, changes nothing more. -/
theorem State.ringBatonTaken_idle (h : m.dest ≠ x.get NMB.POS ∨ (x.get NMB.POS ≠ 0 ∧ x.get NMB.STATE ≠ 0) ∨ (x.get NMB.POS = 0 ∧ x.get NMB.STATE ≠ 1)) :
    x.ringBatonTaken m t = x := by
  unfold State.ringBatonTaken
  dsimp only
  by_cases hd : m.dest ≠ x.get NMB.POS
  · exact if_pos hd
  · rw [if_neg hd]
    obtain h | ⟨hp, hs⟩ | ⟨hp, hs⟩ := h
    · exact absurd h hd
    · rw [if_neg hp, if_pos hs]
    · rw [if_pos hp, if_neg fun hc => hs hc.1]

/-- A member that consents joins the lap. -/
theorem State.ringBatonTaken_joins (hd : m.dest = x.get NMB.POS) (hp : x.get NMB.POS ≠ 0) (hs : x.get NMB.STATE = 0) (hc : x.consent = true) :
    x.ringBatonTaken m t = (((x.ringJoin m.seq (setBit m.mask (x.get NMB.POS))).ringSend 1 ((x.get NMB.POS + 1) % x.get NMB.COUNT) m.seq
      (setBit m.mask (x.get NMB.POS)) t).arm .commitTo (t + ms (x.get NMB.CMTTO))) := by
  obtain ⟨-, -, -, -, -, -, hget⟩ := x.ringJoin_joins m.seq (setBit m.mask (x.get NMB.POS))
  unfold State.ringBatonTaken
  dsimp only
  rw [if_neg (not_not.mpr hd), if_neg hp, if_neg (not_not.mpr hs), if_pos hc, State.get_ringSend _ _ _ _ _ _ _ (by decide),
    hget _ (by decide) (by decide) (by decide) (by decide)]

/-- A member that does not consent dissents. -/
theorem State.ringBatonTaken_dissents (hd : m.dest = x.get NMB.POS) (hp : x.get NMB.POS ≠ 0) (hs : x.get NMB.STATE = 0) (hc : x.consent ≠ true) :
    x.ringBatonTaken m t = { x with ring := { x.ring with mask := m.mask } }.sendDissent m.seq t := by
  unfold State.ringBatonTaken
  dsimp only
  rw [if_neg (not_not.mpr hd), if_neg hp, if_neg (not_not.mpr hs), if_neg hc]

/-- The leader of the lap commits it once every member has joined. -/
theorem State.ringBatonTaken_commits (hd : m.dest = x.get NMB.POS) (hp : x.get NMB.POS = 0) (hs : x.get NMB.STATE = 1) (hq : m.seq = x.ring.seq)
    (hm : m.mask &&& (2 ^ x.get NMB.COUNT - 1) = 2 ^ x.get NMB.COUNT - 1) :
    x.ringBatonTaken m t = ((({ x.put NMB.LAPMASK m.mask with ring := { x.ring with mask := m.mask, resend := 2 } }.ringCommitted t).ringSend
      3 0xFF m.seq m.mask t).arm .resend (t + ms 1)) := by
  unfold State.ringBatonTaken
  dsimp only
  rw [if_neg (not_not.mpr hd), if_pos hp, if_pos ⟨hs, hq, hm⟩]

/-- A BATON that is taken leaves the last SEQ and the count of drops. -/
theorem State.ringBatonTaken_leaves (g : Fld) (hg : g = NMB.LASTSEQ ∨ g = NMB.DROPS) : (x.ringBatonTaken m t).get g = x.get g := by
  have hpage : g.page = 0x3A ∧ g.off < 4096 ∧ NMB.STATE.apart g ∧ NMB.LAPS.apart g ∧ (Hdr.EVT 0x3A).apart g ∧ NMB.LAPMASK.apart g
      ∧ NMB.DISSENTS.apart g := by
    obtain rfl | rfl := hg <;> decide
  obtain ⟨hp, ho, h1, h2, h3, h4, h5⟩ := hpage
  have hsend : ∀ (y : State) (ty dest seq mask : Nat), (y.ringSend ty dest seq mask t).get g = y.get g := fun y ty dest seq mask =>
    State.get_ringSend _ _ _ _ _ _ _ (by omega)
  unfold State.ringBatonTaken
  dsimp only
  split
  · rfl
  · split
    · split
      · obtain ⟨-, -, -, -, -, hget⟩ := ({ x.put NMB.LAPMASK m.mask with ring := { x.ring with mask := m.mask, resend := 2 } } : State).ringCommitted_commits t
        rw [State.get_arm, hsend, hget g hp ho h1 h3]
        exact State.get_put_apart _ _ _ _ h4
      · rfl
    · split
      · rfl
      · split
        · obtain ⟨-, -, -, -, -, -, hget⟩ := x.ringJoin_joins m.seq (setBit m.mask (x.get NMB.POS))
          rw [State.get_arm, hsend, hget g h1 h2 h3 h4]
        · obtain ⟨-, -, hget, -⟩ := ({ x with ring := { x.ring with mask := m.mask } } : State).sendDissent_sends m.seq t
          exact hget g hp ho h5 h3

end

section
variable {s : State} {p : List Byte} {t : Nat}

theorem State.baton_taken (hon : s.get (Hdr.EN 0x3A) = 1) (hgood : (s.reach t).RingGood 1 p t) : Completes (.baton t p) s (fun y =>
    let pos := s.get NMB.POS
    let st := s.get NMB.STATE
    let seq := beVal ((p.drop 4).take 4)
    let mask := beVal ((p.drop 8).take 2)
    let mine := (p.getD 3 0).toNat = pos
    y.get NMB.LASTSEQ = seq ∧ y.get NMB.DROPS = s.get NMB.DROPS
    ∧ (mine → pos ≠ 0 → st = 0 → s.Agrees → y.get NMB.STATE = 1 ∧ y.get NMB.LAPS = min (s.get NMB.LAPS + 1) (2 ^ NMB.LAPS.width - 1)
        ∧ bitAt (y.get (Hdr.EVT 0x3A)) 0 = true ∧ y.ring.seq = seq ∧ y.ring.mask = setBit mask pos
        ∧ y.due .commitTo = some (t + ms (s.get NMB.CMTTO)))
    ∧ (mine → pos ≠ 0 → st = 0 → ¬ s.Agrees → (y.get NMB.DISSENTS = min (s.get NMB.DISSENTS + 1) (2 ^ NMB.DISSENTS.width - 1)
        ∧ bitAt (y.get (Hdr.EVT 0x3A)) 1 = true) ∧ y.get NMB.STATE = 0)
    ∧ (mine → pos = 0 → st = 1 → seq = s.ring.seq → mask &&& (2 ^ s.get NMB.COUNT - 1) = 2 ^ s.get NMB.COUNT - 1 →
        y.get NMB.STATE = 2 ∧ bitAt (y.get (Hdr.EVT 0x3A)) 2 = true ∧ y.ring.resend = 2 ∧ y.due .resend = some (t + ms 1) ∧ y.due .lap = none)
    ∧ (¬ mine ∨ (pos ≠ 0 ∧ st ≠ 0) ∨ (pos = 0 ∧ st ≠ 1) → y.get NMB.STATE = st ∧ y.ring = s.ring ∧ y.timers = s.timers)) := by
  have hon : (s.reach t).ringOn = true := (State.ringOn_iff (s.reach t)).mpr hon
  have hseq : beVal ((p.drop 4).take 4) < 2 ^ 32 := beVal_take_lt _ 4
  have hget : ∀ g, NMB.LASTSEQ.apart g → ((s.reach t).put NMB.LASTSEQ (beVal ((p.drop 4).take 4))).get g = s.get g := fun g h => by
    rw [State.get_put_apart _ _ _ _ h, State.get_reach]
  have hconsent : ((s.reach t).put NMB.LASTSEQ (beVal ((p.drop 4).take 4))).consent = true ↔ s.Agrees := by
    rw [← State.consent_reach_iff (t := t), State.consent_congr (s := s.reach t)]
    rintro g (rfl | rfl | rfl | rfl | ⟨y, rfl⟩)
    · exact hget _ (by decide)
    · exact hget _ (by decide)
    · exact hget _ (by decide)
    · exact hget _ (by decide)
    · exact hget _ (Fld.apart_mk (by omega))
  refine ⟨_, congrArg Host.Outcome.next (State.ringBatonFrame_good hon hgood), ?_⟩
  dsimp only
  refine ⟨?_, ?_, fun hd hp hs ha => ?_, fun hd hp hs ha => ?_, fun hd hp hs hq hm => ?_, fun hidle => ?_⟩
  · rw [State.ringBatonTaken_leaves _ _ _ _ (.inl rfl), State.get_put_same _ _ _ (by decide), Nat.mod_eq_of_lt hseq]
  · rw [State.ringBatonTaken_leaves _ _ _ _ (.inr rfl), hget _ (by decide)]
  · rw [State.ringBatonTaken_joins _ _ _ (hd.trans (hget _ (by decide)).symm) (by rwa [hget _ (by decide)]) ((hget _ (by decide)).trans hs)
      (hconsent.mpr ha), hget NMB.POS (by decide), hget NMB.COUNT (by decide), hget NMB.CMTTO (by decide)]
    obtain ⟨h1, h2, h3, -, h5, -⟩ := ((s.reach t).put NMB.LASTSEQ (beVal ((p.drop 4).take 4))).ringJoin_joins (ringMsg p).seq
      (setBit (ringMsg p).mask (s.get NMB.POS))
    rw [State.get_arm, State.get_arm, State.get_arm, State.get_ringSend _ _ _ _ _ _ _ (by decide), State.get_ringSend _ _ _ _ _ _ _ (by decide),
      State.get_ringSend _ _ _ _ _ _ _ (by decide), State.arm_ring, State.ring_ringSend, h5]
    exact ⟨h1, h2.trans (by rw [hget _ (by decide)]), h3, rfl, rfl, State.due_arm_same _ _ _⟩
  · rw [State.ringBatonTaken_dissents _ _ _ (hd.trans (hget _ (by decide)).symm) (by rwa [hget _ (by decide)]) ((hget _ (by decide)).trans hs)
      (mt hconsent.mp ha)]
    obtain ⟨h1, h2, h3, -⟩ := ({ (s.reach t).put NMB.LASTSEQ (beVal ((p.drop 4).take 4)) with
      ring := { s.ring with mask := (ringMsg p).mask } } : State).sendDissent_sends (ringMsg p).seq t
    refine ⟨⟨h1.trans ?_, h2⟩, (h3 _ rfl (by decide) (by decide) (by decide)).trans ((hget _ (by decide)).trans hs)⟩
    exact congrArg (fun n => min (n + 1) (2 ^ NMB.DISSENTS.width - 1)) (hget _ (by decide))
  · rw [State.ringBatonTaken_commits _ _ _ (hd.trans (hget _ (by decide)).symm) ((hget _ (by decide)).trans hp) ((hget _ (by decide)).trans hs) hq
      (by rwa [hget _ (by decide)])]
    obtain ⟨h1, h2, h3, -, h5, -⟩ := ({ ((s.reach t).put NMB.LASTSEQ (beVal ((p.drop 4).take 4))).put NMB.LAPMASK (ringMsg p).mask with
      ring := { s.ring with mask := (ringMsg p).mask, resend := 2 } } : State).ringCommitted_commits t
    rw [State.get_arm, State.get_arm, State.get_ringSend _ _ _ _ _ _ _ (by decide), State.get_ringSend _ _ _ _ _ _ _ (by decide),
      State.arm_ring, State.ring_ringSend, State.due_arm_same, State.due_arm, if_neg (by decide), State.due_ringSend]
    exact ⟨h1, h2, congrArg RingSt.resend h5, rfl, h3⟩
  · rw [State.ringBatonTaken_idle, hget _ (by decide)]
    · exact ⟨rfl, rfl, rfl⟩
    · rw [hget _ (by decide), hget _ (by decide)]
      exact hidle

end

section
variable {s : State} {p : List Byte} {t : Nat}

/-- A DISSENT that is taken counts, and ends the lap that it names. -/
theorem State.dissent_taken (hon : s.get (Hdr.EN 0x3A) = 1) (hgood : (s.reach t).RingGood 2 p t) : Completes (.dissent t p) s (fun y =>
    y.get NMB.LASTSEQ = beVal ((p.drop 4).take 4)
      ∧ (y.get NMB.DISSENTS = min (s.get NMB.DISSENTS + 1) (2 ^ NMB.DISSENTS.width - 1) ∧ bitAt (y.get (Hdr.EVT 0x3A)) 1 = true)
      ∧ (s.get NMB.STATE = 1 ∧ beVal ((p.drop 4).take 4) = s.ring.seq → s.LapEnded y t)
      ∧ (¬ (s.get NMB.STATE = 1 ∧ beVal ((p.drop 4).take 4) = s.ring.seq) → y.get NMB.STATE = s.get NMB.STATE ∧ y.timers = s.timers)) := by
  have hon : (s.reach t).ringOn = true := (State.ringOn_iff (s.reach t)).mpr hon
  have hseq : beVal ((p.drop 4).take 4) < 2 ^ 32 := beVal_take_lt _ 4
  have hget : ∀ g, NMB.LASTSEQ.apart g → NMB.DISSENTS.apart g → (Hdr.EVT 0x3A).apart g →
      ((s.reach t).put NMB.LASTSEQ (beVal ((p.drop 4).take 4))).ringDissent.get g = s.get g := fun g h1 h2 h3 => by
    rw [State.ringDissent, State.get_evt _ _ _ h3, State.count, State.get_put_apart _ _ _ _ h2, State.get_put_apart _ _ _ _ h1, State.get_reach]
  have hlast : ((s.reach t).put NMB.LASTSEQ (beVal ((p.drop 4).take 4))).ringDissent.get NMB.LASTSEQ = beVal ((p.drop 4).take 4) := by
    rw [State.ringDissent, State.get_evt _ _ _ (by decide), State.count, State.get_put_apart _ _ _ _ (by decide),
      State.get_put_same _ _ _ (by decide), Nat.mod_eq_of_lt hseq]
  have hcount : ((s.reach t).put NMB.LASTSEQ (beVal ((p.drop 4).take 4))).ringDissent.get NMB.DISSENTS
      = min (s.get NMB.DISSENTS + 1) (2 ^ NMB.DISSENTS.width - 1) := by
    rw [State.ringDissent, State.get_evt _ _ _ (by decide), State.get_count_same _ _ _ (by decide), State.get_put_apart _ _ _ _ (by decide),
      State.get_reach]
  have hevt : bitAt (((s.reach t).put NMB.LASTSEQ (beVal ((p.drop 4).take 4))).ringDissent.get (Hdr.EVT 0x3A)) 1 = true :=
    State.bitAt_evt_same _ _ (by decide)
  refine ⟨_, congrArg Host.Outcome.next (State.ringDissentFrame_good hon hgood), ?_⟩
  rw [hget _ (by decide) (by decide) (by decide), State.reach_ring]
  dsimp only
  by_cases h : s.get NMB.STATE = 1 ∧ beVal ((p.drop 4).take 4) = s.ring.seq
  · rw [if_pos h, State.get_lapEnd _ _ _ (by decide), State.get_lapEnd _ _ _ (by decide), State.get_lapEnd _ _ _ (by decide)]
    exact ⟨hlast, ⟨hcount, hevt⟩, fun _ => State.lapEnd_ended t (hget _ (by decide) (by decide) (by decide)) (hget _ (by decide) (by decide) (by decide)),
      fun h' => absurd h h'⟩
  · rw [if_neg h]
    exact ⟨hlast, ⟨hcount, hevt⟩, fun h' => absurd h' h, fun _ => ⟨hget _ (by decide) (by decide) (by decide), rfl⟩⟩

/-- A COMMIT that is taken commits a member that it names. -/
theorem State.commit_taken (hon : s.get (Hdr.EN 0x3A) = 1) (hgood : (s.reach t).RingGood 3 p t) : Completes (.commit t p) s (fun y =>
    let takes := s.get NMB.POS ≠ 0 ∧ s.get NMB.STATE ≠ 2 ∧ bitAt (beVal ((p.drop 8).take 2)) (s.get NMB.POS) = true
    y.get NMB.LASTSEQ = beVal ((p.drop 4).take 4)
      ∧ (takes → y.get NMB.STATE = 2 ∧ bitAt (y.get (Hdr.EVT 0x3A)) 2 = true
          ∧ y.get NMB.LAPMASK = beVal ((p.drop 8).take 2) % 2 ^ NMB.LAPMASK.width ∧ y.due .lap = none ∧ y.due .commitTo = none)
      ∧ (¬ takes → y.get NMB.STATE = s.get NMB.STATE ∧ y.timers = s.timers)) := by
  have hon : (s.reach t).ringOn = true := (State.ringOn_iff (s.reach t)).mpr hon
  have hseq : beVal ((p.drop 4).take 4) < 2 ^ 32 := beVal_take_lt _ 4
  refine ⟨_, congrArg Host.Outcome.next (State.ringCommitFrame_good hon hgood), ?_⟩
  dsimp only
  split
  case isTrue h =>
    obtain ⟨h1, h2, h3, h4, -, h6⟩ := (((s.reach t).put NMB.LASTSEQ (beVal ((p.drop 4).take 4))).put NMB.LAPMASK (beVal ((p.drop 8).take 2))).ringCommitted_commits t
    rw [h6 NMB.LASTSEQ rfl (by decide) (by decide) (by decide), h6 NMB.LAPMASK rfl (by decide) (by decide) (by decide),
      State.get_put_same _ NMB.LAPMASK _ (by decide), State.get_put_apart _ _ _ _ (by decide), State.get_put_same _ _ _ (by decide), Nat.mod_eq_of_lt hseq]
    exact ⟨rfl, fun _ => ⟨h1, h2, rfl, h3, h4⟩, fun h' => absurd h h'⟩
  case isFalse h =>
    rw [State.get_put_same _ _ _ (by decide), Nat.mod_eq_of_lt hseq]
    refine ⟨rfl, fun h' => absurd h' h, fun _ => ⟨?_, rfl⟩⟩
    exact State.get_put_apart _ _ _ _ (by decide)

end

/-- Settles O47. -/
theorem ringActs : Obligations.RingActs := by
  intro s t on pos st agrees now plus evt seq mask good dropped ended dissents starts lost
  refine ⟨fun h => ?_, fun h => ?_, fun p hon => ?_, fun p hon => ?_, fun p hon hgood => ?_, fun p hon hgood => ?_, fun p hon hgood => ?_,
    fun d hd => ?_, fun h => ?_, fun h => ?_, fun d hd => ?_, fun d hd => ?_⟩
  case refine_1 =>
    obtain ⟨hon, hpos, hstate, hagrees, hdelay⟩ := h
    refine ⟨_, State.ringLapStart_starts hon hpos hstate hagrees hdelay, ?_⟩
    obtain ⟨h1, h2, h3, h4, h5, h6, -⟩ := ((s.reach t).disarm .lapDelay).ringJoin_joins (s.gptp t / 1000000 % 2 ^ 32) 1
    dsimp only [evt]
    simp only [State.get_arm, State.due_arm_same, State.due_arm, State.arm_ring, State.due_ringSend, State.ring_ringSend, reduceCtorEq, if_false]
    rw [State.get_ringSend _ _ _ _ _ _ _ (by decide), State.get_ringSend _ _ _ _ _ _ _ (by decide), State.get_ringSend _ _ _ _ _ _ _ (by decide),
      State.get_ringSend _ _ _ _ _ _ _ (by decide), h5]
    refine ⟨h1, h2, h3, rfl, rfl, h4, ?_, trivial⟩
    rw [State.due, h6]
    exact State.due_disarm_same _ _
  case refine_2 =>
    refine ⟨_, rfl, if_neg fun hstart => h ?_⟩
    rw [Bool.and_eq_true_iff, Bool.and_eq_true_iff, Bool.and_eq_true_iff, Bool.and_eq_true_iff] at hstart
    obtain ⟨⟨⟨⟨h1, h2⟩, h3⟩, h4⟩, h5⟩ := hstart
    refine ⟨(State.ringOn_iff (s.reach t)).mp h1, of_decide_eq_true h2, of_decide_eq_true h3, State.consent_reach_iff.mp h4, ?_⟩
    have h5 : (match s.due .lapDelay with | some d => decide (d ≤ t) | none => true) = true := h5
    cases hd : s.due .lapDelay with
    | none => rfl
    | some d => rwa [hd] at h5
  case refine_3 =>
    have hoff : ¬ (s.reach t).ringOn = true := fun h => hon ((State.ringOn_iff (s.reach t)).mp h)
    exact ⟨⟨_, rfl, State.ringBatonFrame_off hoff⟩, ⟨_, rfl, State.ringDissentFrame_off hoff⟩, ⟨_, rfl, State.ringCommitFrame_off hoff⟩⟩
  case refine_4 => 
    have hon : (s.reach t).ringOn = true := (State.ringOn_iff (s.reach t)).mpr hon
    have hdrop : dropped ((s.reach t).count NMB.DROPS) := by
      refine ⟨State.get_count_same _ _ _ (by decide), ?_, rfl, rfl, ?_⟩
      · exact State.get_put_apart _ _ _ _ (by decide)
      · exact State.get_put_apart _ _ _ _ (by decide)
    refine ⟨fun h => ⟨_, rfl, ?_⟩, fun h => ⟨_, rfl, ?_⟩, fun h => ⟨_, rfl, ?_⟩⟩
    · rw [State.ringBatonFrame_bad hon h]
      exact hdrop
    · rw [State.ringDissentFrame_bad hon h]
      exact hdrop
    · rw [State.ringCommitFrame_bad hon h]
      exact hdrop
  case refine_5 => exact State.baton_taken hon hgood
  case refine_6 => exact State.dissent_taken hon hgood
  case refine_7 => exact State.commit_taken hon hgood
  case refine_8 =>
    refine ⟨_, rfl, ?_⟩
    rw [State.onExpiry_due hd]
    have hresend : ((s.disarm .resend).reach d).ring = s.ring := rfl
    dsimp only
    rw [hresend]
    by_cases h0 : s.ring.resend = 0
    · rw [if_pos h0]
      refine ⟨?_, ?_, ?_⟩
      · rw [hresend, h0]
      · simp [st]
      · rw [if_neg (by omega)]
        simp
    · rw [if_neg h0]
      by_cases h1 : s.ring.resend - 1 = 0
      · rw [if_pos h1]
        refine ⟨rfl, ?_, ?_⟩
        · exact (State.get_ringSend _ _ _ _ _ _ _ (by decide)).trans (by simp [st])
        · rw [if_neg (by omega)]
          exact (State.due_ringSend _ _ _ _ _ _ _).trans (by simp)
      · rw [if_neg h1]
        refine ⟨rfl, ?_, ?_⟩
        · exact (State.get_ringSend _ _ _ _ _ _ _ (by decide)).trans (by simp [st])
        · rw [if_pos (by omega)]
          exact State.due_arm_same _ _ _
  case refine_9 =>
    obtain ⟨hon, hpos, hstate, hnot⟩ := h
    have hlost : ((s.reach t).ringOn && decide ((s.reach t).get NMB.POS ≠ 0) && decide ((s.reach t).get NMB.STATE = 1) && !(s.reach t).consent) = true := by
      rw [Bool.and_eq_true_iff, Bool.and_eq_true_iff, Bool.and_eq_true_iff, Bool.not_eq_true']
      exact ⟨⟨⟨(State.ringOn_iff (s.reach t)).mpr hon, decide_eq_true hpos⟩, decide_eq_true hstate⟩,
        Bool.eq_false_iff.mpr fun h => hnot (State.consent_reach_iff.mp h)⟩
    refine ⟨_, congrArg Host.Outcome.next (if_pos hlost), ?_⟩
    obtain ⟨h1, h2, h3, h4, -⟩ := (s.reach t).sendDissent_sends s.ring.seq t
    obtain ⟨e1, e2, e3, e4, e5, -⟩ := ((s.reach t).sendDissent s.ring.seq t).lapEnd_ends t
    refine ⟨⟨(e5 _ (by decide)).trans h1, ?_⟩, e1, e2, e3, fun h0 => absurd h0 hpos⟩
    dsimp only [evt]
    rw [State.reach_ring, e5 _ (by decide)]
    exact h2
  case refine_10 =>
    refine ⟨_, rfl, if_neg fun hlost => h ?_⟩
    rw [Bool.and_eq_true_iff, Bool.and_eq_true_iff, Bool.and_eq_true_iff] at hlost
    obtain ⟨⟨⟨h1, h2⟩, h3⟩, h4⟩ := hlost
    refine ⟨(State.ringOn_iff (s.reach t)).mp h1, of_decide_eq_true h2, of_decide_eq_true h3, fun ha => ?_⟩
    rw [State.consent_reach_iff.mpr ha] at h4
    exact absurd h4 (by decide)
  case refine_11 => exact State.ringLapTimeout_ends hd
  case refine_12 => exact State.ringCommitTimeout_ends hd

end Sys2Proof.Machine

namespace Sys2Proof.Machine

-- One declaration after another: each kernel evaluation beside others holds a thread's stack, and the whole text has one memory limit.
set_option Elab.async false

/-! CAN controllers' states (O46). -/

/-- An event that is set stays set when another is. -/
theorem State.bitAt_evt_keeps {s : State} {p b q c : Nat} (h : bitAt (s.get (Hdr.EVT p)) b = true) :
    bitAt ((s.evt q c).get (Hdr.EVT p)) b = true := by
  by_cases hq : q = p
  · subst hq
    rw [State.bitAt_evt, h, Bool.or_true]
  · rwa [State.get_evt _ _ _ (Fld.apart_mk (by omega))]

/-- The words that a controller's error states write, beside its events. -/
def canErrorWords (x : Nat) : List Fld :=
  [CAN.EWARN x, CAN.STATE x, CAN.BOCNT x, ⟨0x38, 0x10C, 4 * x, 4⟩, CANC.HALT]

section
variable {P : State → Prop} {x : Nat} (cCans : Blind.cans P) (cFcr : Blind.fcr P)
  (cPut : ∀ (s : State) (f : Fld) (v : Nat), f ∈ canErrorWords x → P s → P (s.put f v))
  (cEvt : ∀ (s : State) (p b : Nat), p = 0x30 + x ∨ p = 0x38 → P s → P (s.evt p b))

include cCans cFcr cPut cEvt in
theorem State.canBusOff_of (t : Nat) {s : State} (h : P s) : P (s.canBusOff x t) := by
  have hoff : ∀ y : State, P y → P ((((y.put (CAN.STATE x) 4).count (CAN.BOCNT x)).evt (0x30 + x) 6).detect (canSrc x 0) x) := fun y hy =>
    cFcr _ _ (cEvt _ _ _ (.inl rfl) (cPut _ _ _ (by simp [canErrorWords]) (cPut _ _ _ (by simp [canErrorWords]) hy)))
  unfold State.canBusOff
  dsimp only
  split
  · exact cFcr _ _ (cEvt _ _ _ (.inr rfl) (cPut _ _ _ (by simp [canErrorWords]) (cPut _ _ _ (by simp [canErrorWords]) (cCans _ _ (hoff s h)))))
  · split
    · exact cPut _ _ _ (by simp [canErrorWords]) (cPut _ _ _ (by simp [canErrorWords]) (cCans _ _ (hoff s h)))
    · exact cPut _ _ _ (by simp [canErrorWords]) (cCans _ _ (hoff s h))

include cCans cFcr cPut cEvt in
theorem State.canErrors_of (t : Nat) {s : State} (h : P s) : P (s.canErrors x t) := by
  have hwarn : ∀ w : Nat, P (s.put (CAN.EWARN x) w) ∧ P ((s.evt (0x30 + x) 4).put (CAN.EWARN x) w) := fun w =>
    ⟨cPut _ _ _ (by simp [canErrorWords]) h, cPut _ _ _ (by simp [canErrorWords]) (cEvt _ _ _ (.inl rfl) h)⟩
  have hstates : ∀ y : State, P y → P (if y.get (CAN.STATE x) ≠ 2 ∧ y.get (CAN.STATE x) ≠ 3 then y
      else if 255 < s.get (CAN.TEC x) then y.canBusOff x t
      else if (128 ≤ s.get (CAN.TEC x) ∨ 128 ≤ s.get (CAN.REC x)) ∧ y.get (CAN.STATE x) = 2 then
        ((y.put (CAN.STATE x) 3).evt (0x30 + x) 5).detect (canSrc x 1) x
      else if s.get (CAN.TEC x) < 128 ∧ s.get (CAN.REC x) < 128 ∧ y.get (CAN.STATE x) = 3 then (y.put (CAN.STATE x) 2).evt (0x30 + x) 7
      else y) := fun y hy => by
    split
    · exact hy
    · split
      · exact State.canBusOff_of cCans cFcr cPut cEvt t hy
      · split
        · exact cFcr _ _ (cEvt _ _ _ (.inl rfl) (cPut _ _ _ (by simp [canErrorWords]) hy))
        · split
          · exact cEvt _ _ _ (.inl rfl) (cPut _ _ _ (by simp [canErrorWords]) hy)
          · exact hy
  unfold State.canErrors
  dsimp only
  split
  · exact hstates _ (hwarn _).2
  · exact hstates _ (hwarn _).1

end

/-- A controller's error states leave a field apart from the words that they write. -/
theorem State.get_canErrors (s : State) (x t : Nat) {g : Fld} (hg : ∀ f ∈ canErrorWords x, f.apart g) (h1 : (Hdr.EVT (0x30 + x)).apart g)
    (h2 : (Hdr.EVT 0x38).apart g) : (s.canErrors x t).get g = s.get g :=
  State.canErrors_of (P := fun y => y.get g = s.get g) (fun _ _ h => h) (fun _ _ h => h)
    (fun _ f _ hf h => (State.get_put_apart _ _ _ _ (hg f hf)).trans h)
    (fun _ p b hp h => by obtain rfl | rfl := hp
                          · exact (State.get_evt _ _ _ h1).trans h
                          · exact (State.get_evt _ _ _ h2).trans h) t rfl

/-- They keep an event that is set. -/
theorem State.bitAt_canErrors (s : State) (x t : Nat) {p b : Nat} (hp : ∀ f ∈ canErrorWords x, f.apart (Hdr.EVT p))
    (h : bitAt (s.get (Hdr.EVT p)) b = true) : bitAt ((s.canErrors x t).get (Hdr.EVT p)) b = true :=
  State.canErrors_of (P := fun y => bitAt (y.get (Hdr.EVT p)) b = true) (fun _ _ h => h) (fun _ _ h => h)
    (fun _ f _ hf h => by rwa [State.get_put_apart _ _ _ _ (hp f hf)])
    (fun _ _ _ _ h => State.bitAt_evt_keeps h) t h

section
variable (s : State) (x t : Nat)

/-- From ERRACTIVE the error states lead to ERRPASSIVE from 128 on, below bus-off. -/
theorem State.canErrors_active (hst : s.get (CAN.STATE x) = 2) (htec : s.get (CAN.TEC x) < 256) :
    (s.canErrors x t).get (CAN.STATE x) = if 128 ≤ s.get (CAN.TEC x) ∨ 128 ≤ s.get (CAN.REC x) then 3 else 2 := by
  have hrest : ∀ y : State, y.get (CAN.STATE x) = 2 → (if y.get (CAN.STATE x) ≠ 2 ∧ y.get (CAN.STATE x) ≠ 3 then y
      else if 255 < s.get (CAN.TEC x) then y.canBusOff x t
      else if (128 ≤ s.get (CAN.TEC x) ∨ 128 ≤ s.get (CAN.REC x)) ∧ y.get (CAN.STATE x) = 2 then
        ((y.put (CAN.STATE x) 3).evt (0x30 + x) 5).detect (canSrc x 1) x
      else if s.get (CAN.TEC x) < 128 ∧ s.get (CAN.REC x) < 128 ∧ y.get (CAN.STATE x) = 3 then (y.put (CAN.STATE x) 2).evt (0x30 + x) 7
      else y).get (CAN.STATE x) = if 128 ≤ s.get (CAN.TEC x) ∨ 128 ≤ s.get (CAN.REC x) then 3 else 2 := fun y hy => by
    rw [if_neg (by omega), if_neg (by omega)]
    by_cases h : 128 ≤ s.get (CAN.TEC x) ∨ 128 ≤ s.get (CAN.REC x)
    · rw [if_pos ⟨h, hy⟩, if_pos h, State.get_detect, State.get_evt _ _ _ (Fld.apart_mk (by omega)), State.get_put_same _ _ _ (Fld.fits_mk (by decide))]
      rfl
    · rw [if_neg (fun hc => h hc.1), if_neg h, if_neg (by omega), hy]
  unfold State.canErrors
  dsimp only
  refine hrest _ ?_
  rw [State.get_put_apart _ _ _ _ (Fld.apart_mk (by omega))]
  split
  · rw [State.get_evt _ _ _ (Fld.apart_mk (by omega)), hst]
  · exact hst

theorem canErrorWords_apart {g : Fld} (h1 : (CAN.EWARN x).apart g) (h2 : (CAN.STATE x).apart g) (h3 : (CAN.BOCNT x).apart g)
    (h4 : Fld.apart ⟨0x38, 0x10C, 4 * x, 4⟩ g) (h5 : CANC.HALT.apart g) : ∀ f ∈ canErrorWords x, f.apart g := by
  intro f hf
  simp only [canErrorWords, List.mem_cons, List.not_mem_nil, or_false] at hf
  obtain rfl | rfl | rfl | rfl | rfl := hf
  exacts [h1, h2, h3, h4, h5]

/-- They leave the error counters and the last error code. -/
theorem State.canErrors_counters : (s.canErrors x t).get (CAN.TEC x) = s.get (CAN.TEC x) ∧ (s.canErrors x t).get (CAN.REC x) = s.get (CAN.REC x)
    ∧ (s.canErrors x t).get (CAN.LEC x) = s.get (CAN.LEC x) := by
  refine ⟨?_, ?_, ?_⟩
  all_goals
    refine State.get_canErrors _ _ _ (canErrorWords_apart x (Fld.apart_mk ?_) (Fld.apart_mk ?_) (Fld.apart_mk ?_) (Fld.apart_mk ?_) (Fld.apart_mk ?_))
      (Fld.apart_mk ?_) (Fld.apart_mk ?_) <;> omega

theorem canErrorWords_evt (p : Nat) : ∀ f ∈ canErrorWords x, f.apart (Hdr.EVT p) := by
  refine canErrorWords_apart x (Fld.apart_mk ?_) (Fld.apart_mk ?_) (Fld.apart_mk ?_) (Fld.apart_mk ?_) (Fld.apart_mk ?_) <;> omega

/-- A controller's end of stopping leaves its counters, and shows the state that its page asks for. -/
theorem State.canStart_leaves (g : Fld) (h : (CAN.STATE x).apart g) : (s.canStart x).get g = s.get g := by
  unfold State.canStart
  split
  · exact State.get_put_apart _ _ _ _ h
  · rfl

theorem State.canStopped_leaves (g : Fld) (h1 : (CAN.STATE x).apart g) (h2 : (Hdr.STOPPING (0x30 + x)).apart g) (h3 : (Hdr.PENDEN (0x30 + x)).apart g)
    (h4 : (Hdr.EN (0x30 + x)).apart g) : (s.canStopped x).get g = s.get g := by
  unfold State.canStopped
  dsimp only
  rw [State.canStart_leaves _ _ _ h1]
  split
  · rw [State.get_put_apart _ _ _ _ h4, State.get_put_apart _ _ _ _ h3, State.get_disarm, State.get_put_apart _ _ _ _ h2, State.get_put_apart _ _ _ _ h1]
  · rw [State.get_disarm, State.get_put_apart _ _ _ _ h2, State.get_put_apart _ _ _ _ h1]

end

/-! The clauses of the controllers. -/

theorem State.canLive_iff (s : State) (x : Nat) : s.canLive x = true
    ↔ (s.get (CAN.STATE x) = 2 ∨ s.get (CAN.STATE x) = 3 ∨ s.get (CAN.STATE x) = 6) ∧ s.get CLK.FAILWAIT = 0 := by
  simp [State.canLive, State.flag, or_assoc]

section
variable {s : State} {t x : Nat}

/-- The end of integration, and of a recovery, is in ERRACTIVE or ERRPASSIVE, with its event. -/
theorem State.canActive_leaves (y : State) (hst : y.get (CAN.STATE x) = 2) :
    bitAt (((y.evt (0x30 + x) 7).canErrors x t).get (Hdr.EVT (0x30 + x))) 7 = true
    ∧ ((y.evt (0x30 + x) 7).canErrors x t).get (CAN.TEC x) = y.get (CAN.TEC x)
    ∧ ((y.evt (0x30 + x) 7).canErrors x t).get (CAN.REC x) = y.get (CAN.REC x)
    ∧ (y.get (CAN.TEC x) < 256 → ((y.evt (0x30 + x) 7).canErrors x t).get (CAN.STATE x)
        = if 128 ≤ y.get (CAN.TEC x) ∨ 128 ≤ y.get (CAN.REC x) then 3 else 2) := by
  obtain ⟨htec, hrec, -⟩ := (y.evt (0x30 + x) 7).canErrors_counters x t
  have hev : ∀ f : Fld, Fld.apart (Hdr.EVT (0x30 + x)) f → (y.evt (0x30 + x) 7).get f = y.get f := fun f hf => State.get_evt _ _ _ hf
  have h1 := hev (CAN.TEC x) (Fld.apart_mk (by omega))
  have h2 := hev (CAN.REC x) (Fld.apart_mk (by omega))
  have h3 := hev (CAN.STATE x) (Fld.apart_mk (by omega))
  refine ⟨State.bitAt_canErrors _ _ _ (canErrorWords_evt x _) (State.bitAt_evt_same _ _ (by decide)), htec.trans h1, hrec.trans h2, fun h => ?_⟩
  rw [State.canErrors_active _ _ _ (h3.trans hst) (by omega), h1, h2]

theorem canIntegration_ends (h : s.get (CAN.STATE x) = 1) : Completes (.canIntegrationComplete t x) s (fun y =>
    bitAt (y.get (Hdr.EVT (0x30 + x))) 7 = true ∧ y.get (CAN.TEC x) = s.get (CAN.TEC x) ∧ y.get (CAN.REC x) = s.get (CAN.REC x)
      ∧ (s.get (CAN.TEC x) < 256 → y.get (CAN.STATE x) = (if 128 ≤ s.get (CAN.TEC x) ∨ 128 ≤ s.get (CAN.REC x) then 3 else 2))) := by
  refine ⟨_, congrArg Host.Outcome.next (if_pos h), ?_⟩
  have hput : ∀ f : Fld, (CAN.STATE x).apart f → ((s.reach t).put (CAN.STATE x) 2).get f = s.get f := fun f hf =>
    State.get_put_apart _ _ _ _ hf
  have hall := State.canActive_leaves (x := x) (t := t) ((s.reach t).put (CAN.STATE x) 2) (State.get_put_same _ _ _ (Fld.fits_mk (by decide)))
  rwa [hput _ (Fld.apart_mk (by omega)), hput _ (Fld.apart_mk (by omega))] at hall

theorem canRecovery_ends (hx : x < 8) (h : s.get (CAN.STATE x) = 5) : Completes (.canRecoveryComplete t x) s (fun y =>
    y.get (CAN.STATE x) = 2 ∧ y.get (CAN.TEC x) = 0 ∧ y.get (CAN.REC x) = 0 ∧ bitAt (y.get (Hdr.EVT (0x30 + x))) 7 = true
      ∧ bitAt (y.get (Hdr.EVT 0x38)) (8 + x) = true) := by
  refine ⟨_, congrArg Host.Outcome.next (if_pos h), ?_⟩
  let y := (((s.reach t).put (CAN.STATE x) 2).put (CAN.TEC x) 0).put (CAN.REC x) 0
  let e := (y.evt (0x30 + x) 7).evt 0x38 (8 + x)
  have htec : y.get (CAN.TEC x) = 0 := (State.get_put_apart _ _ _ _ (Fld.apart_mk (by omega))).trans (State.get_put_same _ _ _ (Fld.fits_mk (by decide)))
  have hrec : y.get (CAN.REC x) = 0 := State.get_put_same _ _ _ (Fld.fits_mk (by decide))
  have hst : y.get (CAN.STATE x) = 2 := by
    rw [State.get_put_apart _ _ _ _ (Fld.apart_mk (by omega)), State.get_put_apart _ _ _ _ (Fld.apart_mk (by omega)),
      State.get_put_same _ _ _ (Fld.fits_mk (by decide))]
    rfl
  have hev : ∀ f : Fld, Fld.apart (Hdr.EVT (0x30 + x)) f → Fld.apart (Hdr.EVT 0x38) f → e.get f = y.get f := fun f h1 h2 =>
    (State.get_evt _ _ _ h2).trans (State.get_evt _ _ _ h1)
  have h1 := (hev (CAN.TEC x) (Fld.apart_mk (by omega)) (Fld.apart_mk (by omega))).trans htec
  have h2 := (hev (CAN.REC x) (Fld.apart_mk (by omega)) (Fld.apart_mk (by omega))).trans hrec
  have h3 := (hev (CAN.STATE x) (Fld.apart_mk (by omega)) (Fld.apart_mk (by omega))).trans hst
  obtain ⟨c1, c2, -⟩ := e.canErrors_counters x t
  refine ⟨?_, c1.trans h1, c2.trans h2, ?_, ?_⟩
  · refine (State.canErrors_active e x t h3 (by omega)).trans ?_
    rw [h1, h2]
    rfl
  · exact State.bitAt_canErrors e _ _ (canErrorWords_evt x _) (State.bitAt_evt_keeps (State.bitAt_evt_same _ _ (by decide)))
  · exact State.bitAt_canErrors e _ _ (canErrorWords_evt x _) (State.bitAt_evt_same _ _ (by omega))

/-- An exception that integrates anew is counted and shown. -/
theorem State.canException_counts (s : State) (x : Nat) (d : State) (hd : d = ((s.count (CAN.PXECNT x)).evt (0x30 + x) 9).detect (canSrc x 3) x) :
    d.get (CAN.STATE x) = s.get (CAN.STATE x) ∧ d.get (CAN.PXECNT x) = min (s.get (CAN.PXECNT x) + 1) (2 ^ (CAN.PXECNT x).width - 1)
      ∧ bitAt (d.get (Hdr.EVT (0x30 + x))) 9 = true ∧ d.fcr.inbox = s.fcr.inbox ++ [(canSrc x 3, x)] := by
  subst hd
  refine ⟨?_, ?_, by rw [State.get_detect]; exact State.bitAt_evt_same _ _ (by decide), rfl⟩
  · rw [State.get_detect, State.get_evt _ _ _ (Fld.apart_mk (by omega)), State.count, State.get_put_apart _ _ _ _ (Fld.apart_mk (by omega))]
  · rw [State.get_detect, State.get_evt _ _ _ (Fld.apart_mk (by omega)), State.get_count_same _ _ _ (Fld.fits_mk (by decide))]

theorem canException_integrates (hl : s.canLive x = true) (h : s.get (CAN.EXCINT x) = 1) : Completes (.canProtocolException t x) s (fun y =>
    y.get (CAN.PXECNT x) = min (s.get (CAN.PXECNT x) + 1) (2 ^ (CAN.PXECNT x).width - 1) ∧ bitAt (y.get (Hdr.EVT (0x30 + x))) 9 = true
      ∧ y.get (CAN.STATE x) = (if s.get (CAN.STATE x) = 6 then 6 else 1) ∧ y.fcr.inbox = s.fcr.inbox ++ [(canSrc x 3, x)]) := by
  have hlive : ¬ ¬ (s.reach t).canLive x = true := not_not.mpr hl
  have hexc : (s.reach t).flag (CAN.EXCINT x) = true := (State.flag_one_iff _ rfl).mpr h
  obtain ⟨d, hd⟩ : ∃ d, d = (((s.reach t).count (CAN.PXECNT x)).evt (0x30 + x) 9).detect (canSrc x 3) x := ⟨_, rfl⟩
  have hrun : exec (.canProtocolException t x) s = .next (if d.get (CAN.STATE x) = 6 then d else d.put (CAN.STATE x) 1) :=
    hd ▸ congrArg Host.Outcome.next ((if_neg hlive).trans (if_pos hexc))
  obtain ⟨hst, hcnt, hevt, hbox⟩ := State.canException_counts _ x d hd
  rw [State.get_reach] at hst hcnt
  by_cases h6 : d.get (CAN.STATE x) = 6
  · rw [if_pos h6] at hrun
    refine ⟨d, hrun, hcnt, hevt, ?_, hbox⟩
    rw [if_pos (hst.symm.trans h6), h6]
  · rw [if_neg h6] at hrun
    refine ⟨_, hrun, (State.get_put_apart _ _ _ _ (Fld.apart_mk (by omega))).trans hcnt, ?_, ?_, hbox⟩
    · rwa [State.get_put_apart _ _ _ _ (Fld.apart_mk (by omega))]
    · rw [if_neg (fun h => h6 (hst.trans h)), State.get_put_same _ _ _ (Fld.fits_mk (by decide))]
      rfl

theorem canException_errs (hl : s.canLive x = true) (h : s.get (CAN.EXCINT x) = 0) : Completes (.canProtocolException t x) s (fun y =>
    y.get (CAN.LEC x) = 2 ∧ y.get (CAN.REC x) = min 255 (s.get (CAN.REC x) + 1) ∧ y.get (CAN.TEC x) = s.get (CAN.TEC x)) := by
  have hlive : ¬ ¬ (s.reach t).canLive x = true := not_not.mpr hl
  have hexc : ¬ (s.reach t).flag (CAN.EXCINT x) = true := fun hf => absurd ((State.flag_one_iff _ rfl).mp hf) (by
    rw [State.get_reach, h]
    decide)
  refine ⟨_, congrArg Host.Outcome.next ((if_neg hlive).trans (if_neg hexc)), ?_⟩
  let y := ((s.reach t).put (CAN.LEC x) 2).put (CAN.REC x) (min 255 (s.get (CAN.REC x) + 1))
  have hend : ∀ g : Fld, (CAN.STATE x).apart g → (Hdr.STOPPING (0x30 + x)).apart g → (Hdr.PENDEN (0x30 + x)).apart g → (Hdr.EN (0x30 + x)).apart g →
      ((y.canErrors x t).canFrameEnd x).get g = (y.canErrors x t).get g := fun g h1 h2 h3 h4 => by
    unfold State.canFrameEnd
    split
    · exact State.canStopped_leaves _ _ g h1 h2 h3 h4
    · rfl
  obtain ⟨htec, hrec, hlec⟩ := y.canErrors_counters x t
  refine ⟨?_, ?_, ?_⟩
  · refine (hend _ (Fld.apart_mk (by omega)) (Fld.apart_mk (by omega)) (Fld.apart_mk (by omega)) (Fld.apart_mk (by omega))).trans (hlec.trans ?_)
    exact (State.get_put_apart _ _ _ _ (Fld.apart_mk (by omega))).trans (State.get_put_same _ _ _ (Fld.fits_mk (by decide)))
  · refine (hend _ (Fld.apart_mk (by omega)) (Fld.apart_mk (by omega)) (Fld.apart_mk (by omega)) (Fld.apart_mk (by omega))).trans (hrec.trans ?_)
    exact (State.get_put_same _ _ _ (Fld.fits_mk (by decide))).trans (Nat.mod_eq_of_lt (Nat.lt_succ_of_le (Nat.min_le_left _ _)))
  · refine (hend _ (Fld.apart_mk (by omega)) (Fld.apart_mk (by omega)) (Fld.apart_mk (by omega)) (Fld.apart_mk (by omega))).trans (htec.trans ?_)
    exact (State.get_put_apart _ _ _ _ (Fld.apart_mk (by omega))).trans (State.get_put_apart _ _ _ _ (Fld.apart_mk (by omega)))

/-- The end of a controller's stop, where its page asks for no enable, and where it does. -/
theorem State.canStopped_ends (s : State) (x : Nat) :
    (s.canStopped x).due (.canStop x) = none ∧ (s.canStopped x).get (Hdr.STOPPING (0x30 + x)) = 0 ∧ (s.canStopped x).get (Hdr.PENDEN (0x30 + x)) = 0
      ∧ (s.get (Hdr.PENDEN (0x30 + x)) = 0 → s.get (Hdr.EN (0x30 + x)) = 0 → (s.canStopped x).get (CAN.STATE x) = 0)
      ∧ (s.get (Hdr.PENDEN (0x30 + x)) = 1 → s.unitHeld (0x30 + x) x = false →
          (s.canStopped x).get (CAN.STATE x) = 1 ∧ (s.canStopped x).get (Hdr.EN (0x30 + x)) = 1) := by
  obtain ⟨a, ha⟩ : ∃ a, a = ((s.put (CAN.STATE x) 0).put (Hdr.STOPPING (0x30 + x)) 0).disarm (.canStop x) := ⟨_, rfl⟩
  obtain ⟨b, hb⟩ : ∃ b, b = if a.flag (Hdr.PENDEN (0x30 + x)) then (a.put (Hdr.PENDEN (0x30 + x)) 0).put (Hdr.EN (0x30 + x)) 1 else a := ⟨_, rfl⟩
  have hrun : s.canStopped x = b.canStart x := by
    rw [hb, ha]
    rfl
  have hstate : a.get (CAN.STATE x) = 0 := by
    rw [ha, State.get_disarm, State.get_put_apart _ _ _ _ (Fld.apart_mk (by omega)), State.get_put_same _ _ _ (Fld.fits_mk (by decide))]
    rfl
  have hstop : a.get (Hdr.STOPPING (0x30 + x)) = 0 := by
    rw [ha, State.get_disarm, State.get_put_same _ _ _ (Fld.fits_mk (by decide))]
    rfl
  have hleft : ∀ g : Fld, (CAN.STATE x).apart g → (Hdr.STOPPING (0x30 + x)).apart g → a.get g = s.get g := fun g h1 h2 => by
    rw [ha, State.get_disarm, State.get_put_apart _ _ _ _ h2, State.get_put_apart _ _ _ _ h1]
  have hpend := hleft (Hdr.PENDEN (0x30 + x)) (Fld.apart_mk (by omega)) (Fld.apart_mk (by omega))
  have hen := hleft (Hdr.EN (0x30 + x)) (Fld.apart_mk (by omega)) (Fld.apart_mk (by omega))
  have hdue : a.due (.canStop x) = none := by
    rw [ha]
    exact State.due_disarm_same _ _
  have hheld : a.unitHeld (0x30 + x) x = s.unitHeld (0x30 + x) x := by
    rw [ha]
    rfl
  clear ha hleft
  have hstart : ∀ g : Fld, (CAN.STATE x).apart g → (s.canStopped x).get g = b.get g := fun g hg => by
    rw [hrun, State.canStart_leaves _ _ _ hg]
  have hduestart : (s.canStopped x).due (.canStop x) = b.due (.canStop x) := by
    rw [hrun]
    unfold State.canStart
    split <;> rfl
  by_cases hp : a.flag (Hdr.PENDEN (0x30 + x)) = true
  · rw [if_pos hp] at hb
    have hen1 : b.get (Hdr.EN (0x30 + x)) = 1 := by
      rw [hb, State.get_put_same _ _ _ (Fld.fits_mk (by decide))]
      rfl
    have hb0 : b.get (CAN.STATE x) = 0 := by
      rw [hb, State.get_put_apart _ _ _ _ (Fld.apart_mk (by omega)), State.get_put_apart _ _ _ _ (Fld.apart_mk (by omega)), hstate]
    refine ⟨?_, ?_, ?_, fun h0 _ => ?_, fun _ hu => ⟨?_, (hstart _ (Fld.apart_mk (by omega))).trans hen1⟩⟩
    · rw [hduestart, hb]
      exact hdue
    · rw [hstart _ (Fld.apart_mk (by omega)), hb, State.get_put_apart _ _ _ _ (Fld.apart_mk (by omega)), State.get_put_apart _ _ _ _ (Fld.apart_mk (by omega)), hstop]
    · rw [hstart _ (Fld.apart_mk (by omega)), hb, State.get_put_apart _ _ _ _ (Fld.apart_mk (by omega)), State.get_put_same _ _ _ (Fld.fits_mk (by decide))]
      rfl
    · exact absurd (hpend.trans h0) ((State.flag_iff _ _).mp hp)
    · have hbu : b.unitHeld (0x30 + x) x = false := by
        rw [hb]
        exact hheld.trans hu
      have hflag : b.flag (Hdr.EN (0x30 + x)) = true := (State.flag_one_iff _ rfl).mpr hen1
      rw [hrun, State.canStart, if_pos (by rw [hflag, hbu, hb0]; rfl), State.get_put_same _ _ _ (Fld.fits_mk (by decide))]
      rfl
  · rw [if_neg hp] at hb
    subst hb
    have hp0 : b.get (Hdr.PENDEN (0x30 + x)) = 0 := by
      by_contra h
      exact hp ((State.flag_iff _ _).mpr h)
    refine ⟨hduestart.trans hdue, (hstart _ (Fld.apart_mk (by omega))).trans hstop, (hstart _ (Fld.apart_mk (by omega))).trans hp0, fun _ h0 => ?_,
      fun h1 => absurd (hpend.symm.trans hp0) (by omega)⟩
    have hflag : b.flag (Hdr.EN (0x30 + x)) = false := by simpa [State.flag] using hen.trans h0
    rw [hrun, State.canStart, if_neg (by rw [hflag]; simp), hstate]

theorem canStopTimeout_stops {d : Nat} (hd : s.due (.canStop x) = some d) : Completes (.canStopTimeout x) s (fun y =>
    bitAt (y.get (Hdr.EVT (0x30 + x))) 11 = true ∧ y.due (.canStop x) = none ∧ y.get (Hdr.STOPPING (0x30 + x)) = 0 ∧ y.get (Hdr.PENDEN (0x30 + x)) = 0
      ∧ (s.get (Hdr.PENDEN (0x30 + x)) = 0 → s.get (Hdr.EN (0x30 + x)) = 0 → y.get (CAN.STATE x) = 0)
      ∧ (s.get (Hdr.PENDEN (0x30 + x)) = 1 → s.unitHeld (0x30 + x) x = false → y.get (CAN.STATE x) = 1 ∧ y.get (Hdr.EN (0x30 + x)) = 1)) := by
  refine ⟨_, rfl, ?_⟩
  rw [State.onExpiry_due hd]
  obtain ⟨e, he⟩ : ∃ e, e = ((s.disarm (.canStop x)).reach d).evt (0x30 + x) 11 := ⟨_, rfl⟩
  have hleft : ∀ g : Fld, Fld.apart (Hdr.EVT (0x30 + x)) g → e.get g = s.get g := fun g hg => by rw [he, State.get_evt _ _ _ hg]; rfl
  have hev : bitAt (e.get (Hdr.EVT (0x30 + x))) 11 = true := by
    rw [he]
    exact State.bitAt_evt_same _ _ (by decide)
  have hheld : e.unitHeld (0x30 + x) x = s.unitHeld (0x30 + x) x := by
    rw [he]
    rfl
  obtain ⟨h1, h2, h3, h4, h5⟩ := e.canStopped_ends x
  rw [hleft _ (Fld.apart_mk (by omega)), hleft _ (Fld.apart_mk (by omega))] at h4
  rw [hleft _ (Fld.apart_mk (by omega)), hheld] at h5
  rw [← he]
  refine ⟨?_, h1, h2, h3, h4, h5⟩
  rwa [State.canStopped_leaves _ _ _ (Fld.apart_mk (by omega)) (Fld.apart_mk (by omega)) (Fld.apart_mk (by omega)) (Fld.apart_mk (by omega))]

end

end Sys2Proof.Machine

namespace Sys2Proof.Machine

-- One declaration after another: each kernel evaluation beside others holds a thread's stack, and the whole text has one memory limit.
set_option Elab.async false

/-! Network management's channels (O15, O46). -/

section
variable {s : State} {t x : Nat}

/-- A push of the part's own enters a queue with room at its tail. -/
theorem State.queue_hwPush {k page unit ty : Nat} {bytes : List Byte} {split t : Nat} (hdepth : s.get (BQ.DEPTH k) ≠ 0) (hroom : s.qFull k = false) :
    (s.hwPush k page unit ty bytes split t).queue k = { s.queue k with
      entries := (s.queue k).entries ++ [BqEntry.mk split (256 * page + unit) (16 * ty + bytes.length) (leVal bytes % 2 ^ 32) (leVal bytes / 2 ^ 32) t] } := by
  unfold State.hwPush State.qPush
  dsimp only
  rw [if_neg hdepth, if_neg (Bool.eq_false_iff.mp hroom)]
  split <;> exact (State.queue_setQueue _ _ _ _).trans (if_pos rfl)

theorem State.get_keepAlive (s : State) (x t : Nat) (g : Fld) (h : g.page ≠ 0x0A) (ho : g.off < 4096) : (s.keepAlive x t).get g = s.get g :=
  State.get_hwPush _ _ _ _ _ _ _ _ (lt_of_lt_of_le (State.get_lt s (NMK.TXQ x)) (by show 2 ^ 5 ≤ 64; decide)) _ h ho

theorem State.due_keepAlive (s : State) (x t : Nat) (k : Timer) : (s.keepAlive x t).due k = s.due k :=
  State.keepAlive_keeps (P := fun y => y.due k = s.due k) (fun _ _ _ h => h) (fun _ _ h => h) (fun _ _ h => h) rfl x t

/-- The keep-alive frame that a channel sends: its node address and its need. -/
theorem State.keepAlive_sends (hdepth : s.get (BQ.DEPTH (s.get (NMK.TXQ x))) ≠ 0) (hroom : s.qFull (s.get (NMK.TXQ x)) = false) :
    ((s.keepAlive x t).queue (s.get (NMK.TXQ x))).entries.map (fun e => (e.src, e.tl, e.p0, e.p1))
      = (s.queue (s.get (NMK.TXQ x))).entries.map (fun e => (e.src, e.tl, e.p0, e.p1))
        ++ [(0x3900 + x, 16 * s.get (NMK.TPL x) + 2, s.get (NMK.NODE x) + 256 * s.get (NMK.NEED x), 0)] := by
  have hnode : s.get (NMK.NODE x) < 256 := State.get_lt s (NMK.NODE x)
  have hneed : s.get (NMK.NEED x) < 2 := State.get_lt s (NMK.NEED x)
  have hval : leVal (leBytes 1 (s.get (NMK.NODE x)) ++ leBytes 1 (s.get (NMK.NEED x))) = s.get (NMK.NODE x) + 256 * s.get (NMK.NEED x) := by
    simp only [leBytes, leVal, List.cons_append, List.nil_append, BitVec.toNat_ofNat]
    omega
  unfold State.keepAlive
  rw [State.queue_hwPush hdepth hroom, hval, List.map_append, List.map_singleton, Nat.mod_eq_of_lt (by omega), Nat.div_eq_of_lt (by omega)]
  rfl

/-- A channel enters a state: a state below 8 shows, and its timers of before are over. -/
theorem State.nmOver_leaves (s : State) (x st : Nat) (hst : st < 8) :
    ∃ a : State, a = ((((s.disarm (.nmRepeat x)).disarm (.nmTimeout x)).disarm (.nmWait x)).disarm (.nmKeep x)).put (NMK.STATE x) st
      ∧ a.get (NMK.STATE x) = st ∧ (∀ g : Fld, (NMK.STATE x).apart g → a.get g = s.get g)
      ∧ a.due (.nmRepeat x) = none ∧ a.due (.nmTimeout x) = none ∧ a.due (.nmWait x) = none ∧ a.due (.nmKeep x) = none
      ∧ (∀ k, k ≠ .nmRepeat x → k ≠ .nmTimeout x → k ≠ .nmWait x → k ≠ .nmKeep x → a.due k = s.due k) := by
  refine ⟨_, rfl, (State.get_put_same _ _ _ (Fld.fits_mk (by decide))).trans (Nat.mod_eq_of_lt hst), fun g hg => State.get_put_apart _ _ _ _ hg, ?_, ?_, ?_, ?_,
    fun k h1 h2 h3 h4 => ?_⟩
  all_goals
    rw [State.due_put]
  · rw [State.due_disarm, if_neg (by simp), State.due_disarm, if_neg (by simp), State.due_disarm, if_neg (by simp), State.due_disarm_same]
  · rw [State.due_disarm, if_neg (by simp), State.due_disarm, if_neg (by simp), State.due_disarm_same]
  · rw [State.due_disarm, if_neg (by simp), State.due_disarm_same]
  · exact State.due_disarm_same _ _
  · rw [State.due_disarm, if_neg h4.symm, State.due_disarm, if_neg h3.symm, State.due_disarm, if_neg h2.symm, State.due_disarm, if_neg h1.symm]

/-- NORMAL: the keep-alive timer runs. -/
theorem State.nmEnter_normal (s : State) (x t : Nat) (hx : x < 8) :
    (s.nmEnter x 2 t).get (NMK.STATE x) = 2 ∧ (s.nmEnter x 2 t).due (.nmRepeat x) = none ∧ (s.nmEnter x 2 t).due (.nmTimeout x) = none
      ∧ (s.nmEnter x 2 t).due (.nmKeep x) = some (t + ms (s.get (NMK.KAPER x))) := by
  obtain ⟨a, ha, hst, hleft, h1, h2, -, -, -⟩ := s.nmOver_leaves x 2 (by decide)
  have hrun : s.nmEnter x 2 t = (a.keepAlive x t).arm (.nmKeep x) (t + ms (a.get (NMK.KAPER x))) := by rw [ha, State.nmEnter]
  have hdue : ∀ k, k ≠ .nmKeep x → (s.nmEnter x 2 t).due k = a.due k := fun k hk => by
    rw [hrun, State.due_arm, if_neg hk.symm, State.due_keepAlive]
  refine ⟨?_, (hdue _ (by simp)).trans h1, (hdue _ (by simp)).trans h2, ?_⟩
  · rw [hrun, State.get_arm, State.get_keepAlive _ _ _ _ (by show (0x39 : Nat) ≠ 0x0A; decide) (by show 0x118 + 0x20 * x < 4096; omega), hst]
  · rw [hrun, State.due_arm_same, hleft _ (Fld.apart_mk (by omega))]

/-- READYSLEEP: the time-out runs, and nothing but the state's word is written. -/
theorem State.nmEnter_ready (s : State) (x t : Nat) :
    (s.nmEnter x 3 t).get (NMK.STATE x) = 3 ∧ (s.nmEnter x 3 t).due (.nmRepeat x) = none ∧ (s.nmEnter x 3 t).due (.nmKeep x) = none
      ∧ (s.nmEnter x 3 t).due (.nmTimeout x) = some (t + ms (s.get (NMK.TIMEOUT x)))
      ∧ (∀ g : Fld, (NMK.STATE x).apart g → (s.nmEnter x 3 t).get g = s.get g)
      ∧ (∀ k, k ≠ .nmRepeat x → k ≠ .nmTimeout x → k ≠ .nmWait x → k ≠ .nmKeep x → (s.nmEnter x 3 t).due k = s.due k) := by
  obtain ⟨a, ha, hst, hleft, h1, -, -, h4, hrest⟩ := s.nmOver_leaves x 3 (by decide)
  have hrun : s.nmEnter x 3 t = a.arm (.nmTimeout x) (t + ms (a.get (NMK.TIMEOUT x))) := by rw [ha, State.nmEnter]
  have hdue : ∀ k, k ≠ .nmTimeout x → (s.nmEnter x 3 t).due k = a.due k := fun k hk => by rw [hrun, State.due_arm, if_neg hk.symm]
  refine ⟨by rw [hrun, State.get_arm, hst], (hdue _ (by simp)).trans h1, (hdue _ (by simp)).trans h4, ?_, fun g hg => ?_,
    fun k k1 k2 k3 k4 => (hdue _ k2).trans (hrest k k1 k2 k3 k4)⟩
  · rw [hrun, State.due_arm_same, hleft _ (Fld.apart_mk (by omega))]
  · rw [hrun, State.get_arm, hleft g hg]

/-- WAITBS: its time runs. -/
theorem State.nmEnter_wait (s : State) (x t : Nat) :
    (s.nmEnter x 4 t).get (NMK.STATE x) = 4 ∧ (s.nmEnter x 4 t).due (.nmTimeout x) = none
      ∧ (s.nmEnter x 4 t).due (.nmWait x) = some (t + ms (s.get (NMK.WAITBS x))) := by
  obtain ⟨a, ha, hst, hleft, -, h2, -, -, -⟩ := s.nmOver_leaves x 4 (by decide)
  have hrun : s.nmEnter x 4 t = a.arm (.nmWait x) (t + ms (a.get (NMK.WAITBS x))) := by rw [ha, State.nmEnter]
  refine ⟨by rw [hrun, State.get_arm, hst], ?_, ?_⟩
  · rw [hrun, State.due_arm, if_neg (by simp), h2]
  · rw [hrun, State.due_arm_same, hleft _ (Fld.apart_mk (by omega))]

/-- The agreement on sleep keeps an event that is set. -/
theorem State.bitAt_agreeCheck (s : State) (t : Nat) {b : Nat} (h : bitAt (s.get (Hdr.EVT 0x39)) b = true) :
    bitAt ((s.agreeCheck t).get (Hdr.EVT 0x39)) b = true := by
  unfold State.agreeCheck
  split
  · obtain ⟨hget, -, -⟩ := ((s.put NMK.DONE 1).evt 0x39 16).coolArm_leaves t
    rw [hget _ (by decide) (by decide)]
    refine State.bitAt_evt_keeps ?_
    rwa [State.get_put_apart _ _ _ _ (by decide)]
  · exact h

/-- BUSSLEEP is counted and shown. -/
theorem State.nmEnter_sleep (s : State) (x t : Nat) (hx : x < 8) :
    (s.nmEnter x 5 t).get (NMK.STATE x) = 5 ∧ (s.nmEnter x 5 t).due (.nmWait x) = none
      ∧ (s.nmEnter x 5 t).get (NMK.SLEEPS x) = min (s.get (NMK.SLEEPS x) + 1) (2 ^ (NMK.SLEEPS x).width - 1)
      ∧ bitAt ((s.nmEnter x 5 t).get (Hdr.EVT 0x39)) x = true := by
  obtain ⟨a, ha, hst, hleft, -, -, h3, -, -⟩ := s.nmOver_leaves x 5 (by decide)
  obtain ⟨b, hb⟩ : ∃ b, b = (a.count (NMK.SLEEPS x)).evt 0x39 x := ⟨_, rfl⟩
  have hrun : s.nmEnter x 5 t = b.agreeCheck t := by rw [hb, ha, State.nmEnter]
  obtain ⟨hleaves, hdue, -⟩ := b.agreeCheck_leaves t
  have hget : ∀ g : Fld, NMK.DONE.apart g → (Hdr.EVT 0x39).apart g → PWR.COOLARM.apart g → (Hdr.EVT 0x02).apart g →
      (s.nmEnter x 5 t).get g = (a.count (NMK.SLEEPS x)).get g := fun g h1 h2 h3 h4 => by
    rw [hrun, hleaves g h1 h2 h3 h4, hb, State.get_evt _ _ _ h2]
  refine ⟨?_, ?_, ?_, ?_⟩
  · rw [hget _ (Fld.apart_mk (by omega)) (Fld.apart_mk (by omega)) (Fld.apart_mk (by omega)) (Fld.apart_mk (by omega)), State.count,
      State.get_put_apart _ _ _ _ (Fld.apart_mk (by omega)), hst]
  · rw [hrun, hdue _ (by simp) (by simp), hb]
    exact h3
  · rw [hget _ (Fld.apart_mk (by omega)) (Fld.apart_mk (by omega)) (Fld.apart_mk (by omega)) (Fld.apart_mk (by omega)),
      State.get_count_same _ _ _ (Fld.fits_mk (by decide)), hleft _ (Fld.apart_mk (by omega))]
  · rw [hrun]
    refine b.bitAt_agreeCheck t ?_
    rw [hb]
    exact State.bitAt_evt_same _ _ (by omega)

/-! The clauses of the channels. -/

theorem nmKeepalive_sends {d : Nat} (hx : x < 8) (hd : s.due (.nmKeep x) = some d) : Completes (.nmKeepaliveSend x) s (fun y =>
    y.due (.nmKeep x) = some (d + ms (s.get (NMK.KAPER x))) ∧ y.get (NMK.STATE x) = s.get (NMK.STATE x)
      ∧ (s.get (BQ.DEPTH (s.get (NMK.TXQ x))) ≠ 0 → s.qFull (s.get (NMK.TXQ x)) = false →
        (y.queue (s.get (NMK.TXQ x))).entries.map (fun e => (e.src, e.tl, e.p0, e.p1))
          = (s.queue (s.get (NMK.TXQ x))).entries.map (fun e => (e.src, e.tl, e.p0, e.p1))
            ++ [(0x3900 + x, 16 * s.get (NMK.TPL x) + 2, s.get (NMK.NODE x) + 256 * s.get (NMK.NEED x), 0)])) := by
  refine ⟨_, rfl, ?_⟩
  rw [State.onExpiry_due hd]
  refine ⟨State.due_arm_same _ _ _, ?_, fun hdepth hroom => ?_⟩
  · exact State.get_keepAlive _ _ _ _ (by show (0x39 : Nat) ≠ 0x0A; decide) (by show 0x118 + 0x20 * x < 4096; omega)
  · exact State.keepAlive_sends (s := (s.disarm (.nmKeep x)).reach d) hdepth hroom

theorem nmRepeat_ends {d : Nat} (hx : x < 8) (hd : s.due (.nmRepeat x) = some d) : Completes (.nmRepeatExpiry x) s (fun y =>
    y.get (NMK.STATE x) = (if s.get (NMK.NEED x) = 1 then 2 else 3) ∧ y.due (.nmRepeat x) = none
      ∧ (s.get (NMK.NEED x) = 1 → y.due (.nmKeep x) = some (d + ms (s.get (NMK.KAPER x))) ∧ y.due (.nmTimeout x) = none)
      ∧ (s.get (NMK.NEED x) = 0 → y.due (.nmKeep x) = none ∧ y.due (.nmTimeout x) = some (d + ms (s.get (NMK.TIMEOUT x))))) := by
  refine ⟨_, rfl, ?_⟩
  rw [State.onExpiry_due hd]
  dsimp only
  by_cases hneed : s.get (NMK.NEED x) = 1
  · have hflag : ((s.disarm (.nmRepeat x)).reach d).flag (NMK.NEED x) = true := (State.flag_one_iff _ rfl).mpr hneed
    rw [if_pos hflag, if_pos hneed]
    obtain ⟨h1, h2, h3, h4⟩ := State.nmEnter_normal ((s.disarm (.nmRepeat x)).reach d) x d hx
    exact ⟨h1, h2, fun _ => ⟨h4, h3⟩, fun h => absurd hneed (by omega)⟩
  · have hflag : ¬ ((s.disarm (.nmRepeat x)).reach d).flag (NMK.NEED x) = true := fun h => hneed ((State.flag_one_iff _ rfl).mp h)
    rw [if_neg hflag, if_neg hneed]
    obtain ⟨h1, h2, h3, h4, -, -⟩ := State.nmEnter_ready ((s.disarm (.nmRepeat x)).reach d) x d
    exact ⟨h1, h2, fun h => absurd h hneed, fun _ => ⟨h3, h4⟩⟩

end

end Sys2Proof.Machine

namespace Sys2Proof.Machine

-- One declaration after another: each kernel evaluation beside others holds a thread's stack, and the whole text has one memory limit.
set_option Elab.async false

/-! Wakes of a channel's bus, and false starts (O46). -/

/-- A wake's window (R455): where the part goes down the wake awaits its frame later; else a window starts, or waits behind those that run. -/
def State.busWindow (b : State) (x t : Nat) (down : Bool) : State :=
  if down then b.setNm x (fun n => { n with pend := true })
  else if (b.due (.falseStart x)).isSome then b.setNm x (fun n => { n with later := n.later ++ [t + ms (10 * b.get PWR.WIN)] })
  else (b.setNm x (fun n => { n with pend := true })).arm (.falseStart x) (t + ms (10 * b.get PWR.WIN))

/-- What a wake notes of its source, in DOZE or on the way down (R453, R454). -/
def State.busSource (y : State) (x : Nat) (st : PwrState) (down : Bool) : State :=
  if x = 0 ∨ st = .doze then y.wakeSource 8 else if down then { y with pwr := { y.pwr with wakes := setBit y.pwr.wakes 10 } } else y

section
variable {s : State} {t x : Nat}

/-- A wake's window in each case, and what it leaves. -/
theorem State.busWindow_opens (b : State) (x t : Nat) (down : Bool) :
    (b.busWindow x t down).pwr = b.pwr ∧ (b.busWindow x t down).regs = b.regs ∧ ((b.busWindow x t down).nm x).wake = (b.nm x).wake
      ∧ (down = true → ((b.busWindow x t down).nm x).pend = true ∧ (b.busWindow x t down).due (.falseStart x) = b.due (.falseStart x))
      ∧ (down = false → b.due (.falseStart x) = none →
          ((b.busWindow x t down).nm x).pend = true ∧ (b.busWindow x t down).due (.falseStart x) = some (t + ms (10 * b.get PWR.WIN)))
      ∧ (down = false → ∀ d, b.due (.falseStart x) = some d → (b.busWindow x t down).due (.falseStart x) = some d
          ∧ ((b.busWindow x t down).nm x).later = (b.nm x).later ++ [t + ms (10 * b.get PWR.WIN)]) := by
  have hset : ∀ f : NmSt → NmSt, (b.setNm x f).nm x = f (b.nm x) := fun f => (State.nm_setNm b x x f).trans (if_pos rfl)
  cases down with
  | true =>
    rw [State.busWindow, if_pos rfl]
    exact ⟨rfl, rfl, by rw [hset], fun _ => ⟨by rw [hset], rfl⟩, nofun, nofun⟩
  | false =>
    cases hd : b.due (.falseStart x) with
    | none =>
      rw [State.busWindow, if_neg (by simp), if_neg (by rw [hd]; simp)]
      exact ⟨rfl, rfl, by rw [State.nm_arm, hset], fun h => absurd h (by decide), fun _ _ => ⟨by rw [State.nm_arm, hset], State.due_arm_same _ _ _⟩, fun _ _ h => absurd h (by simp)⟩
    | some d =>
      rw [State.busWindow, if_neg (by simp), if_pos (by rw [hd]; rfl)]
      exact ⟨rfl, rfl, by rw [hset], fun h => absurd h (by decide), fun _ h => absurd h (by simp), fun _ d' h => ⟨hd.trans h, by rw [hset]⟩⟩

/-- A wake source writes no word but its flag and its event, and no channel. -/
theorem State.wakeSource_leaves (s : State) (b : Nat) :
    (∀ g : Fld, PWR.WAKEFLAG.apart g → (Hdr.EVT 2).apart g → (s.wakeSource b).get g = s.get g) ∧ (s.wakeSource b).nms = s.nms := by
  have hput : ∀ g : Fld, PWR.WAKEFLAG.apart g → (Hdr.EVT 2).apart g → ((s.setFlag PWR.WAKEFLAG b).evt 0x02 0).get g = s.get g := fun g h1 h2 =>
    (State.get_evt _ _ _ h2).trans (State.get_put_apart _ _ _ _ h1)
  unfold State.wakeSource
  split
  · exact ⟨hput, rfl⟩
  · exact ⟨hput, rfl⟩
  · exact ⟨fun _ _ _ => rfl, rfl⟩
  · exact ⟨fun _ _ _ => rfl, rfl⟩
  · split <;> exact ⟨fun _ _ _ => rfl, rfl⟩
  · split <;> exact ⟨fun _ _ _ => rfl, rfl⟩
  · exact ⟨fun _ _ _ => rfl, rfl⟩

theorem State.busSource_leaves (y : State) (x : Nat) (st : PwrState) (down : Bool) :
    (∀ g : Fld, PWR.WAKEFLAG.apart g → (Hdr.EVT 2).apart g → (y.busSource x st down).get g = y.get g)
      ∧ (y.busSource x st down).nms = y.nms ∧ (∀ k, (y.busSource x st down).due k = y.due k) := by
  obtain ⟨hget, hnm⟩ := y.wakeSource_leaves 8
  unfold State.busSource
  split
  · exact ⟨hget, hnm, y.due_wakeSource 8⟩
  · split <;> exact ⟨fun _ _ _ => rfl, rfl, fun _ => rfl⟩

/-- A channel that its bus wakes leaves its sleep; its windows stay. -/
theorem State.busLeaves_sleep (c : State) (x t : Nat) {m : State} (hm : m = if c.get (NMK.STATE x) = 5 then c.nmEnter x 3 t else c) :
    m.nms = c.nms ∧ m.pwr = c.pwr ∧ m.due (.falseStart x) = c.due (.falseStart x) ∧ m.get (Hdr.EVT 0x39) = c.get (Hdr.EVT 0x39)
      ∧ (c.get (NMK.STATE x) = 5 → m.get (NMK.STATE x) = 3 ∧ m.due (.nmTimeout x) = some (t + ms (c.get (NMK.TIMEOUT x))))
      ∧ (c.get (NMK.STATE x) ≠ 5 → m.get (NMK.STATE x) = c.get (NMK.STATE x)) := by
  by_cases h : c.get (NMK.STATE x) = 5
  · rw [if_pos h] at hm
    obtain ⟨h1, -, -, h2, h3, h4⟩ := c.nmEnter_ready x t
    obtain ⟨hnms, hpwr⟩ : (c.nmEnter x 3 t).nms = c.nms ∧ (c.nmEnter x 3 t).pwr = c.pwr := by
      rw [State.nmEnter]
      simp only [State.arm_nms, State.put_nms, State.disarm_nms, State.arm_pwr, State.put_pwr, State.disarm_pwr, and_self]
    rw [hm]
    exact ⟨hnms, hpwr, h4 _ (by simp) (by simp) (by simp) (by simp), h3 _ (Fld.apart_mk (by omega)), fun _ => ⟨h1, h2⟩, fun h5 => absurd h h5⟩
  · rw [if_neg h] at hm
    rw [hm]
    exact ⟨rfl, rfl, rfl, rfl, fun h5 => absurd h5 h, fun _ => rfl⟩

/-- A wake outside PARK, by its parts. -/
theorem canBusWake_awake {u : State} (hu : u = s.reach t) (hw : u.wakeWatched x = true) (hpark : u.pwr.state ≠ .park) (hwaking : u.pwr.state ≠ .waking) :
    ∃ c, c = ((u.evt 0x39 (8 + x)).setNm x (fun n => { n with wake := true })).busWindow x t u.goesDown
      ∧ exec (.canBusWake t x) s = .next ((if c.get (NMK.STATE x) = 5 then c.nmEnter x 3 t else c).busSource x u.pwr.state u.goesDown) := by
  refine ⟨_, rfl, ?_⟩
  show execCanBusWake t x s = _
  unfold execCanBusWake
  rw [← hu]
  dsimp only
  rw [if_neg (not_not.mpr hw), decide_eq_false hpark, decide_eq_false hwaking]
  simp only [Bool.false_eq_true, ↓reduceIte, Bool.false_or, not_false_eq_true, and_true]
  rfl

/-- A wake in PARK is noted, and no word moves. -/
theorem canBusWake_parked {u : State} (hu : u = s.reach t) (hw : u.wakeWatched x = true) (hpark : u.pwr.state = .park) :
    exec (.canBusWake t x) s = .next ((u.setNm x (fun n => { n with pend := true })).wakeSource 8) := by
  have hx : x = 0 := by
    unfold State.wakeWatched at hw
    simp only [hpark, Bool.and_eq_true, decide_eq_true_eq] at hw
    exact hw.2.1
  show execCanBusWake t x s = _
  unfold execCanBusWake
  rw [← hu]
  dsimp only
  rw [if_neg (not_not.mpr hw), decide_eq_true hpark]
  simp only [↓reduceIte, Bool.true_or, not_true_eq_false, and_false]
  rw [if_pos (.inl hx)]

theorem wakeWatched_awake (hw : s.wakeWatched x = true) : s.pwr.state ≠ .waking := by
  intro h
  simp [State.wakeWatched, h] at hw

/-- A wake of a watched bus outside PARK: its window, its event, and the channel that it takes out of its sleep. -/
theorem canBusWake_wakes (hx : x < 8) (hw : s.wakeWatched x = true) (hpark : s.pwr.state ≠ .park) : Completes (.canBusWake t x) s (fun y =>
    (s.goesDown = true → (y.nm x).pend = true ∧ y.due (.falseStart x) = s.due (.falseStart x))
    ∧ (s.goesDown = false → s.due (.falseStart x) = none → (y.nm x).pend = true ∧ y.due (.falseStart x) = some (t + ms (10 * s.get PWR.WIN)))
    ∧ (s.goesDown = false → ∀ d, s.due (.falseStart x) = some d →
        y.due (.falseStart x) = some d ∧ (y.nm x).later = (s.nm x).later ++ [t + ms (10 * s.get PWR.WIN)])
    ∧ bitAt (y.get (Hdr.EVT 0x39)) (8 + x) = true ∧ (y.nm x).wake = true
    ∧ (s.get (NMK.STATE x) = 5 → y.get (NMK.STATE x) = 3 ∧ y.due (.nmTimeout x) = some (t + ms (s.get (NMK.TIMEOUT x))))
    ∧ (s.get (NMK.STATE x) ≠ 5 → y.get (NMK.STATE x) = s.get (NMK.STATE x))
    ∧ (s.pwr.state = .doze → bitAt (y.get PWR.WAKEFLAG) 8 = true ∧ bitAt (y.get (Hdr.EVT 2)) 0 = true)) := by
  obtain ⟨u, hu⟩ : ∃ u, u = s.reach t := ⟨_, rfl⟩
  have hwu : u.wakeWatched x = true := by rw [hu]; exact hw
  have hdown : u.goesDown = s.goesDown := by rw [hu]; rfl
  have hst : u.pwr.state = s.pwr.state := by rw [hu]; rfl
  obtain ⟨c, hc, hrun⟩ := canBusWake_awake hu hwu (hst.trans_ne hpark) (wakeWatched_awake hwu)
  rw [hdown, hst] at hrun
  obtain ⟨b, hb⟩ : ∃ b, b = (u.evt 0x39 (8 + x)).setNm x (fun n => { n with wake := true }) := ⟨_, rfl⟩
  have hbget : ∀ g : Fld, (Hdr.EVT 0x39).apart g → b.get g = s.get g := fun g hg => by
    rw [hb, State.get_setNm, State.get_evt _ _ _ hg, hu]
    rfl
  have hbevt : bitAt (b.get (Hdr.EVT 0x39)) (8 + x) = true := by
    rw [hb, State.get_setNm]
    exact State.bitAt_evt_same _ _ (by omega)
  have hbnm : (b.nm x).wake = true ∧ (b.nm x).later = (s.nm x).later := by
    rw [hb, State.nm_setNm, if_pos rfl, hu]
    exact ⟨rfl, rfl⟩
  have hbdue : b.due (.falseStart x) = s.due (.falseStart x) := by
    rw [hb, hu]
    rfl
  have hbpwr : b.pwr = s.pwr := by
    rw [hb, hu]
    rfl
  obtain ⟨hpwr, hregs, hwake, h1, h2, h3⟩ := b.busWindow_opens x t s.goesDown
  rw [← hb, hdown] at hc
  rw [← hc] at hpwr hregs hwake h1 h2 h3
  clear hb hc
  have hget : ∀ g : Fld, c.get g = b.get g := fun g => by rw [State.get, State.rd, hregs]; rfl
  obtain ⟨m, hm⟩ : ∃ m, m = if c.get (NMK.STATE x) = 5 then c.nmEnter x 3 t else c := ⟨_, rfl⟩
  obtain ⟨mnm, mpwr, mdue, mevt, m5, mn5⟩ := c.busLeaves_sleep x t hm
  rw [← hm] at hrun
  obtain ⟨zget, znm, zdue⟩ := m.busSource_leaves x s.pwr.state s.goesDown
  have hnm : (m.busSource x s.pwr.state s.goesDown).nm x = c.nm x := by rw [State.nm, znm, mnm]; rfl
  have hdue : (m.busSource x s.pwr.state s.goesDown).due (.falseStart x) = c.due (.falseStart x) := (zdue _).trans mdue
  have hstate : c.get (NMK.STATE x) = s.get (NMK.STATE x) := (hget _).trans (hbget _ (Fld.apart_mk (by omega)))
  have hto : c.get (NMK.TIMEOUT x) = s.get (NMK.TIMEOUT x) := (hget _).trans (hbget _ (Fld.apart_mk (by omega)))
  have zstate := zget (NMK.STATE x) (Fld.apart_mk (by omega)) (Fld.apart_mk (by omega))
  rw [hbdue] at h1 h2 h3
  rw [hbget _ (by decide)] at h2 h3
  rw [hstate, hto] at m5
  rw [hstate] at mn5
  refine ⟨_, hrun, ?_⟩
  dsimp only
  rw [hnm, hdue, zstate, zdue, zget _ (by decide) (by decide), mevt, hget, hwake]
  refine ⟨h1, h2, fun hd d hs => ?_, hbevt, hbnm.1, m5, mn5, fun hdoze => ?_⟩
  · rw [← hbnm.2]
    exact h3 hd d hs
  · rw [State.busSource, if_pos (.inr hdoze)]
    obtain ⟨-, hnote⟩ := m.wakeSource_notes (b := 8) (by decide)
    exact hnote (.inl ((congrArg PwrSt.state (mpwr.trans (hpwr.trans hbpwr))).trans hdoze))

/-- A wake in PARK awaits its frame from the end of Warm-up, and its source is noted. -/
theorem canBusWake_notes (hw : s.wakeWatched x = true) (hpark : s.pwr.state = .park) : Completes (.canBusWake t x) s (fun y =>
    (y.nm x).pend = true ∧ y.due (.falseStart x) = s.due (.falseStart x) ∧ y.pwr.wakes = setBit s.pwr.wakes 8 ∧ y.regs = s.regs) := by
  obtain ⟨c, hc⟩ : ∃ c, c = (s.reach t).setNm x (fun n => { n with pend := true }) := ⟨_, rfl⟩
  have hrun := canBusWake_parked (s := s) (t := t) rfl hw hpark
  rw [← hc] at hrun
  have hpend : (c.nm x).pend = true := by rw [hc, State.nm_setNm, if_pos rfl]
  have hdue : c.due (.falseStart x) = s.due (.falseStart x) := by rw [hc]; rfl
  have hpwr : c.pwr = s.pwr := by rw [hc]; rfl
  have hregs : c.regs = s.regs := by rw [hc]; rfl
  obtain ⟨hnote, -⟩ := c.wakeSource_notes (b := 8) (by decide)
  obtain ⟨hwakes, hsame⟩ := hnote ((congrArg PwrSt.state hpwr).trans hpark)
  obtain ⟨-, hnm⟩ := c.wakeSource_leaves 8
  refine ⟨_, hrun, ?_, (State.due_wakeSource _ _ _).trans hdue, ?_, hsame.trans hregs⟩
  · rw [State.nm, hnm]
    exact hpend
  · rw [hwakes, hpwr]

theorem canTxdTimeout_shows (hl : s.canLive x = true) : Completes (.canTxdTimeout t x) s (fun y =>
    bitAt (y.get (Hdr.EVT (0x30 + x))) 10 = true ∧ y.fcr.inbox = s.fcr.inbox ++ [(canSrc x 4, x)]) := by
  have hl' : (s.reach t).canLive x = true := hl
  refine ⟨_, congrArg Host.Outcome.next (if_pos hl'), ?_, rfl⟩
  rw [State.get_detect]
  exact State.bitAt_evt_same _ _ (by decide)

theorem canBusWake_unwatched (hw : s.wakeWatched x = false) : exec (.canBusWake t x) s = .next (s.reach t) :=
  congrArg Host.Outcome.next (if_pos (by
    rw [show (s.reach t).wakeWatched x = false from hw]
    decide))

/-- The end of a window of a wake that awaits its frame: the next one, if any. -/
theorem State.nextWindow_next {u : State} (hd : u.due (.falseStart x) = none) (hp : (u.nm x).pend = true) :
    (u.nextWindow x).due (.falseStart x) = (u.nm x).later.head? ∧ ((u.nextWindow x).nm x).later = (u.nm x).later.tail
      ∧ (((u.nextWindow x).nm x).pend = false ↔ (u.nm x).later = []) ∧ (u.nextWindow x).regs = u.regs
      ∧ (u.nextWindow x).pwr = u.pwr ∧ (u.nextWindow x).fcr = u.fcr := by
  have hset : ∀ f : NmSt → NmSt, (u.setNm x f).nm x = f (u.nm x) := fun f => (State.nm_setNm u x x f).trans (if_pos rfl)
  unfold State.nextWindow
  cases hl : (u.nm x).later with
  | nil =>
    dsimp only
    rw [hset]
    exact ⟨hd, hl, by simp, rfl, rfl, rfl⟩
  | cons w ws =>
    dsimp only
    rw [State.nm_arm, hset]
    exact ⟨State.due_arm_same _ _ _, rfl, by simp [hp], rfl, rfl, rfl⟩

/-- A false start's window that ends without a frame: the next window, the count, and the mask from the limit on. -/
theorem falseStart_counts {d : Nat} (hx : x < 8) (hd : s.due (.falseStart x) = some d) (hp : (s.nm x).pend = true) :
    Completes (.falseStartWindow x) s (fun y =>
      y.due (.falseStart x) = (s.nm x).later.head? ∧ (y.nm x).later = (s.nm x).later.tail ∧ ((y.nm x).pend = false ↔ (s.nm x).later = [])
      ∧ y.get ⟨2, 0x154, 4 * x, 4⟩ = min (s.get ⟨2, 0x154, 4 * x, 4⟩ + 1) 15
      ∧ (s.get PWR.LIM ≤ min (s.get ⟨2, 0x154, 4 * x, 4⟩ + 1) 15 ∧ bitAt (s.get PWR.FSMASK) x = false →
          bitAt (y.get PWR.FSMASK) x = true ∧ y.due (.maskHold x) = some (d + ms (60000 * s.get PWR.HOLD))
          ∧ (¬ (s.pwr.state = .park ∨ s.pwr.state = .waking) → y.fcr.inbox = s.fcr.inbox ++ [(0xC8, x)])
          ∧ (s.pwr.state = .park ∨ s.pwr.state = .waking → y.fcr.inbox = s.fcr.inbox ∧ (y.nm x).owed = true))
      ∧ (¬ (s.get PWR.LIM ≤ min (s.get ⟨2, 0x154, 4 * x, 4⟩ + 1) 15 ∧ bitAt (s.get PWR.FSMASK) x = false) →
          y.get PWR.FSMASK = s.get PWR.FSMASK ∧ y.fcr.inbox = s.fcr.inbox)) := by
  refine ⟨_, rfl, ?_⟩
  rw [State.onExpiry_due hd]
  obtain ⟨u, hu⟩ : ∃ u, u = (s.disarm (.falseStart x)).reach d := ⟨_, rfl⟩
  have hunm : u.nm x = s.nm x := by rw [hu]; rfl
  have huget : ∀ g, u.get g = s.get g := fun g => by rw [hu]; rfl
  have hupwr : u.pwr = s.pwr := by rw [hu]; rfl
  have hufcr : u.fcr = s.fcr := by rw [hu]; rfl
  have hudue : u.due (.falseStart x) = none := by
    rw [hu]
    exact State.due_disarm_same _ _
  rw [← hu]
  clear hu
  dsimp only
  rw [if_neg (not_not.mpr (hunm ▸ hp))]
  obtain ⟨hdue, hlater, hpend, hregs, hpwr, hfcr⟩ := u.nextWindow_next hudue (hunm ▸ hp)
  rw [hunm] at hdue hlater hpend
  rw [hupwr] at hpwr
  rw [hufcr] at hfcr
  obtain ⟨n, hn⟩ : ∃ n, n = u.nextWindow x := ⟨_, rfl⟩
  rw [← hn] at hdue hlater hpend hregs hpwr hfcr ⊢
  have hnget : ∀ g, n.get g = s.get g := fun g => by rw [← huget, State.get, State.rd, hregs]; rfl
  clear hn
  obtain ⟨c, hc⟩ : ∃ c, c = n.count ⟨2, 0x154, 4 * x, 4⟩ := ⟨_, rfl⟩
  have hcnt : c.get ⟨2, 0x154, 4 * x, 4⟩ = min (s.get ⟨2, 0x154, 4 * x, 4⟩ + 1) 15 := by
    rw [hc, State.get_count_same _ _ _ (Fld.fits_mk (by omega)), hnget]
    rfl
  have hcget : ∀ g : Fld, Fld.apart ⟨2, 0x154, 4 * x, 4⟩ g → c.get g = s.get g := fun g hg => by
    rw [hc, State.count, State.get_put_apart _ _ _ _ hg, hnget]
  have hlim : c.get PWR.LIM = s.get PWR.LIM := hcget _ (Fld.apart_mk (by omega))
  have hmask : c.get PWR.FSMASK = s.get PWR.FSMASK := hcget _ (Fld.apart_mk (by omega))
  have hcdue : c.due (.falseStart x) = (s.nm x).later.head? := by rw [hc]; exact hdue
  have hcnm : c.nm x = n.nm x := by rw [hc]; rfl
  have hcpwr : c.pwr = s.pwr := by rw [hc]; exact hpwr
  have hcfcr : c.fcr = s.fcr := by rw [hc]; exact hfcr
  rw [← hc]
  clear hc
  rw [← hcnm] at hlater hpend
  clear hcnm
  by_cases hfull : c.get PWR.LIM ≤ c.get ⟨2, 0x154, 4 * x, 4⟩ ∧ bitAt (c.get PWR.FSMASK) x = false
  · obtain ⟨hle, hbit⟩ := hfull
    have hgo : ¬ (c.get ⟨2, 0x154, 4 * x, 4⟩ < c.get PWR.LIM ∨ bitAt (c.get PWR.FSMASK) x = true) := by
      rw [hbit]
      simpa using hle
    rw [if_neg hgo]
    obtain ⟨m, hm⟩ : ∃ m, m = c.setFlag PWR.FSMASK x := ⟨_, rfl⟩
    have hmbit : bitAt (m.get PWR.FSMASK) x = true := by
      rw [hm]
      exact State.bitAt_setFlag_same _ (by decide) hx
    have hmget : ∀ g : Fld, PWR.FSMASK.apart g → m.get g = c.get g := fun g hg => by rw [hm, State.setFlag, State.get_put_apart _ _ _ _ hg]
    have hmnm : m.nm x = c.nm x := by rw [hm]; rfl
    have hmdue : m.due (.falseStart x) = c.due (.falseStart x) := by rw [hm]; rfl
    have hmpwr : m.pwr = s.pwr := by rw [hm]; exact hcpwr
    have hmfcr : m.fcr = s.fcr := by rw [hm]; exact hcfcr
    rw [← hm]
    clear hm
    have hmcnt := (hmget ⟨2, 0x154, 4 * x, 4⟩ (Fld.apart_mk (by omega))).trans hcnt
    have hhold : m.get PWR.HOLD = s.get PWR.HOLD := (hmget _ (by decide)).trans (hcget _ (Fld.apart_mk (by omega)))
    have hset : ∀ f : NmSt → NmSt, (m.setNm x f).nm x = f (m.nm x) := fun f => (State.nm_setNm m x x f).trans (if_pos rfl)
    rw [hcdue] at hmdue
    rw [← hmnm] at hlater hpend
    rw [hmask] at hbit
    rw [hlim, hcnt] at hle
    by_cases hdown : m.pwr.state = .park ∨ m.pwr.state = .waking
    · rw [if_pos hdown]
      rw [hmpwr] at hdown
      refine ⟨?_, ?_, ?_, hmcnt, fun _ => ⟨hmbit, ?_, fun h => absurd hdown h, fun _ => ⟨congrArg FcrSt.inbox hmfcr, ?_⟩⟩,
        fun h => absurd ⟨hle, hbit⟩ h⟩
      · rw [State.due_arm, if_neg (by simp)]
        exact hmdue
      · rw [State.nm_arm, hset]
        exact hlater
      · rw [State.nm_arm, hset]
        exact hpend
      · rw [State.due_arm_same, State.get_setNm, hhold]
      · rw [State.nm_arm, hset]
    · rw [if_neg hdown]
      rw [hmpwr] at hdown
      refine ⟨?_, hlater, hpend, hmcnt, fun _ => ⟨hmbit, ?_, fun _ => congrArg (FcrSt.inbox · ++ [(0xC8, x)]) hmfcr, fun h => absurd h hdown⟩,
        fun h => absurd ⟨hle, hbit⟩ h⟩
      · rw [State.due_arm, if_neg (by simp)]
        exact hmdue
      · rw [State.due_arm_same, State.get_detect, hhold]
  · have hstop : c.get ⟨2, 0x154, 4 * x, 4⟩ < c.get PWR.LIM ∨ bitAt (c.get PWR.FSMASK) x = true := by
      by_contra h
      obtain ⟨h1, h2⟩ := not_or.mp h
      exact hfull ⟨Nat.le_of_not_lt h1, Bool.eq_false_iff.mpr h2⟩
    rw [if_pos hstop]
    rw [hlim, hmask, hcnt] at hfull
    exact ⟨hcdue, hlater, hpend, hcnt, fun h => absurd h hfull, fun _ => ⟨hmask, congrArg FcrSt.inbox hcfcr⟩⟩

theorem falseStart_idle {d : Nat} (hd : s.due (.falseStart x) = some d) (hp : (s.nm x).pend = false) :
    Completes (.falseStartWindow x) s (fun y => y.regs = s.regs ∧ y.due (.falseStart x) = none) := by
  have hidle : ¬ (((s.disarm (.falseStart x)).reach d).nm x).pend = true := fun h => absurd (hp.symm.trans h) (by decide)
  refine ⟨_, congrArg Host.Outcome.next ((State.onExpiry_due hd _).trans (if_pos hidle)), rfl, ?_⟩
  exact State.due_disarm_same _ _

theorem maskHold_ends {d : Nat} (hd : s.due (.maskHold x) = some d) : Completes (.falseStartMaskHold x) s (fun y =>
    (s.get PWR.HOLD ≠ 0 → y.get PWR.FSMASK = clrBit (s.get PWR.FSMASK) x ∧ y.due (.maskHold x) = none) ∧ (s.get PWR.HOLD = 0 → y = s)) := by
  by_cases h : s.get PWR.HOLD = 0
  · exact ⟨_, congrArg Host.Outcome.next (if_pos h), fun h' => absurd h h', fun _ => rfl⟩
  · refine ⟨_, congrArg Host.Outcome.next ((if_neg h).trans (State.onExpiry_due hd _)), fun _ => ⟨?_, State.due_disarm_same _ _⟩, fun h' => absurd h' h⟩
    have hle : clrBit (s.get PWR.FSMASK) x ≤ s.get PWR.FSMASK := by
      unfold clrBit
      split
      · exact Nat.sub_le _ _
      · exact le_rfl
    exact (State.get_put_same _ _ _ (by decide)).trans (Nat.mod_eq_of_lt (lt_of_le_of_lt hle (State.get_lt s PWR.FSMASK)))

end

/-- Settles O46: each event of a controller and of a channel, by what its block writes. -/
theorem canStatesAndSleep : Obligations.CanStatesAndSleep := by
  unfold Obligations.CanStatesAndSleep
  intro s t x hx pg st nm live tec rec_ plus evt
  have hlive : s.canLive x = true ↔ live := State.canLive_iff s x
  have hdead : ¬ live → ∀ f : State → State, (if ¬ (s.reach t).canLive x = true then s.reach t else f (s.reach t)) = s.reach t := fun h f =>
    if_pos (fun hl => h (hlive.mp hl))
  refine ⟨?_, ?_, ?_, fun d hd => canStopTimeout_stops hd, ?_, fun d hd => nmKeepalive_sends hx hd, fun d hd => nmRepeat_ends hx hd, fun d hd => ?_,
    fun d hd => ?_, fun hw => ⟨_, canBusWake_unwatched hw, rfl⟩, fun hw => ?_, fun d hd => ?_, fun d hd => maskHold_ends hd⟩
  case refine_1 =>
    by_cases h : st = 1
    · obtain ⟨y, hy, hq⟩ := canIntegration_ends (t := t) h
      exact ⟨y, hy, fun _ => hq, fun h' => absurd h h'⟩
    · exact ⟨_, congrArg Host.Outcome.next (if_neg h), fun h' => absurd h' h, fun _ => rfl⟩
  case refine_2 =>
    by_cases h : st = 5
    · obtain ⟨y, hy, hq⟩ := canRecovery_ends (t := t) hx h
      exact ⟨y, hy, fun _ => hq, fun h' => absurd h h'⟩
    · exact ⟨_, congrArg Host.Outcome.next (if_neg h), fun h' => absurd h' h, fun _ => rfl⟩
  case refine_3 =>
    by_cases hl : live
    · have hexc : s.get (CAN.EXCINT x) < 2 := State.get_lt s (CAN.EXCINT x)
      by_cases h : s.get (CAN.EXCINT x) = 1
      · obtain ⟨y, hy, hq⟩ := canException_integrates (t := t) (hlive.mpr hl) h
        exact ⟨y, hy, fun _ _ => hq, fun _ h' => absurd (h.symm.trans h') (by decide), fun h' => absurd hl h'⟩
      · obtain ⟨y, hy, hq⟩ := canException_errs (t := t) (hlive.mpr hl) (by omega)
        exact ⟨y, hy, fun _ h' => absurd h' h, fun _ _ => hq, fun h' => absurd hl h'⟩
    · exact ⟨_, congrArg Host.Outcome.next (if_pos (fun h => hl (hlive.mp h))), fun h => absurd h hl, fun h => absurd h hl, fun _ => rfl⟩
  case refine_4 =>
    by_cases hl : live
    · obtain ⟨y, hy, hq⟩ := canTxdTimeout_shows (t := t) (hlive.mpr hl)
      exact ⟨y, hy, fun _ => hq, fun h => absurd hl h⟩
    · exact ⟨_, congrArg Host.Outcome.next (if_neg (fun h => hl (hlive.mp h))), fun h => absurd h hl, fun _ => rfl⟩
  case refine_5 =>
    refine ⟨_, congrArg Host.Outcome.next (State.onExpiry_due hd _), ?_⟩
    exact State.nmEnter_wait ((s.disarm (.nmTimeout x)).reach d) x d
  case refine_6 =>
    refine ⟨_, congrArg Host.Outcome.next (State.onExpiry_due hd _), ?_⟩
    exact State.nmEnter_sleep ((s.disarm (.nmWait x)).reach d) x d hx
  case refine_7 =>
    by_cases hpark : s.pwr.state = .park
    · obtain ⟨y, hy, h1, h2, h3, h4⟩ := canBusWake_notes (t := t) hw hpark
      exact ⟨y, hy, fun _ => ⟨h1, h2⟩, fun h => absurd (.inl hpark) h, fun h => absurd (.inl hpark) h, fun h => absurd hpark h, fun _ => ⟨h3, h4⟩,
        fun h => absurd (hpark.symm.trans h) (by decide)⟩
    · obtain ⟨y, hy, h1, h2, h3, h4, h5, h6, h7, h8⟩ := canBusWake_wakes (t := t) hx hw hpark
      have hup : ¬ (s.pwr.state = .park ∨ s.goesDown = true) → s.goesDown = false := fun h => by
        simpa using fun hg => h (.inr hg)
      exact ⟨y, hy, fun h => h1 (h.resolve_left hpark), fun h => h2 (hup h), fun h => h3 (hup h), fun _ => ⟨h4, h5, h6, h7⟩,
        fun h => absurd h hpark, h8⟩
  case refine_8 =>
    cases hp : (s.nm x).pend with
    | false =>
      obtain ⟨y, hy, hq⟩ := falseStart_idle hd hp
      exact ⟨y, hy, fun _ => hq, fun h => absurd h (by decide)⟩
    | true =>
      obtain ⟨y, hy, h1, h2, h3, h4, h5, h6⟩ := falseStart_counts hx hd hp
      exact ⟨y, hy, fun h => absurd h (by decide), fun _ => ⟨h1, h2, h3, h4, h5, h6⟩⟩

end Sys2Proof.Machine

namespace Sys2Proof.Machine

-- One declaration after another: each kernel evaluation beside others holds a thread's stack, and the whole text has one memory limit.
set_option Elab.async false

/-! Writes to the CAN controllers and the network management (O15). -/

section
variable {s : State} {src : Src} {t x f : Nat} {v m : Word}

theorem exec_canTxPut (hx : x < 8) (hf : f < 2) : exec (.canTxPut t src x f) s
    = .next (s.busWrite src (0x30 + x) 0x130 (BitVec.ofNat 32 (1 <<< f)) 0xFFFFFFFF t).1 := by
  change execCanTxPut t src x f s = _
  rw [execCanTxPut, Nat.mod_eq_of_lt hx, Nat.mod_eq_of_lt hf]

theorem exec_canRxAck (hx : x < 8) (hf : f < 2) : exec (.canRxAck t src x f) s
    = .next (s.busWrite src (0x30 + x) 0x128 (BitVec.ofNat 32 (1 <<< f)) 0xFFFFFFFF t).1 := by
  change execCanRxAck t src x f s = _
  rw [execCanRxAck, Nat.mod_eq_of_lt hx, Nat.mod_eq_of_lt hf]

theorem exec_canTxFlush (hx : x < 8) (hf : f < 2) : exec (.canTxFlush t src x f) s
    = .next (s.busWrite src (0x30 + x) 0x134 (BitVec.ofNat 32 (1 <<< f)) 0xFFFFFFFF t).1 := by
  change execCanTxFlush t src x f s = _
  rw [execCanTxFlush, Nat.mod_eq_of_lt hx, Nat.mod_eq_of_lt hf]

theorem exec_canManualRecover (hx : x < 8) : exec (.canManualRecover t src x) s
    = .next (s.busWrite src (0x30 + x) 0x134 0x100 0xFFFFFFFF t).1 := by
  change execCanManualRecover t src x s = _
  rw [execCanManualRecover, Nat.mod_eq_of_lt hx]

theorem exec_nmEnable (hx : x < 8) (en : Bool) : exec (.nmEnable t src x en v m) s
    = .next (s.busWrite src 0x39 (0x100 + 0x20 * x) ((v &&& 0xFFFFFFFE) ||| BitVec.ofNat 32 (b2n en)) (m ||| 1) t).1 := by
  change execNmEnable t src x en v m s = _
  rw [execNmEnable, Nat.mod_eq_of_lt hx]

/-- Of the two FIFO bits of a command word, the one named is a 1. -/
theorem fifo_one {s : State} {off : Nat} (hoff : off = 0x128 ∨ off = 0x130 ∨ off = 0x134) (hx : x < 8) (hf : f < 2) (g : Nat) (hg : g < 2) :
    (s.wrOf src (0x30 + x) off (BitVec.ofNat 32 (1 <<< f)) 0xFFFFFFFF t).one g = decide (g = f) := by
  rw [State.wrOf_one]
  obtain rfl | rfl | rfl := hoff <;> interval_cases x <;> interval_cases f <;> interval_cases g <;> decide +kernel

/-- A command that names one FIFO runs for it alone. -/
theorem fifo_each {F : State → Nat → State} {w : Wr} (hf : f < 2) (h : ∀ g, g < 2 → w.one g = decide (g = f)) (y : State) :
    (List.range 2).foldl (fun s g => if w.one g then F s g else s) y = F y f := by
  have h0 := h 0 (by decide)
  have h1 := h 1 (by decide)
  show (if w.one 1 then F (if w.one 0 then F y 0 else y) 1 else (if w.one 0 then F y 0 else y)) = F y f
  rw [h0, h1]
  interval_cases f <;> rfl

end

/-! The transmit and receive FIFOs. -/

section
variable {y : State} {x f t : Nat}

theorem txFill_cases (x : Nat) {f : Nat} (hf : f < 2) : (txFill x f = CAN.T0FILL x ∧ txPut x f = CAN.T0PUT x) ∨ (txFill x f = CAN.T1FILL x ∧ txPut x f = CAN.T1PUT x) := by
  interval_cases f
  · exact .inl ⟨rfl, rfl⟩
  · exact .inr ⟨rfl, rfl⟩

/-- The fill and the put index of a transmit FIFO, by what is put into them. -/
theorem State.get_txFill_put (y : State) (hf : f < 2) (n k : Nat) :
    ((y.put (txFill x f) n).put (txPut x f) k).get (txFill x f) = n % 64 ∧ ((y.put (txFill x f) n).put (txPut x f) k).get (txPut x f) = k % 32 := by
  obtain ⟨h1, h2⟩ | ⟨h1, h2⟩ := txFill_cases x hf
  all_goals
    rw [h1, h2]
    refine ⟨(State.get_put_apart _ _ _ _ (Fld.apart_mk (by omega))).trans (State.get_put_same _ _ _ (Fld.fits_mk (by decide))),
      State.get_put_same _ _ _ (Fld.fits_mk (by decide))⟩

theorem CanSt.enq_setEnq (c : CanSt) (f : Nat) (l : List Nat) : (c.setEnq f l).enq f = l := by
  unfold CanSt.setEnq CanSt.enq
  split <;> rfl

theorem CanSt.enq_setTried (c : CanSt) (f g n : Nat) : (c.setTried g n).enq f = c.enq f := by
  unfold CanSt.setTried
  split <;> rfl

/-- A good element at the put index is queued behind the others. -/
theorem State.txPutGo_puts (hf : f < 2) (hfed : y.flag (txFed x f) = false) (hn : y.get (txFill x f) < 32)
    (hgood : y.txBad x (y.bytes (txAddr x f (y.get (txPut x f))) 80) = false) :
    (y.txPutGo x f t).get (txFill x f) = y.get (txFill x f) + 1 ∧ (y.txPutGo x f t).get (txPut x f) = (y.get (txPut x f) + 1) % 32
      ∧ ((y.txPutGo x f t).can x).enq f = (y.can x).enq f ++ [t] := by
  unfold State.txPutGo State.txEnter
  dsimp only
  rw [if_neg (Bool.eq_false_iff.mp hfed), if_neg (by omega), if_neg (Bool.eq_false_iff.mp hgood)]
  obtain ⟨h1, h2⟩ := (y.setBytes (txAddr x f (y.get (txPut x f))) (y.bytes (txAddr x f (y.get (txPut x f))) 80)).get_txFill_put (x := x) hf
    (y.get (txFill x f) + 1) (y.get (txPut x f) + 1)
  refine ⟨?_, h2, ?_⟩
  · refine h1.trans (Nat.mod_eq_of_lt ?_)
    omega
  · rw [State.can_setCan, if_pos rfl, CanSt.enq_setEnq]
    rfl

/-- A FIFO that a queue feeds takes no put, and a bad element is not queued. -/
theorem State.txEvent_leaves (y : State) (x f ty tag sof t : Nat) :
    (∀ g : Fld, g.page ≠ 0x0A → g.off < 4096 → (y.txEvent x f ty tag sof t).get g = y.get g) ∧ (y.txEvent x f ty tag sof t).cans = y.cans := by
  unfold State.txEvent
  split
  · refine ⟨fun g h ho => State.get_hwPush _ _ _ _ _ _ _ _ (lt_of_lt_of_le (State.get_lt y (CAN.EVQ x)) (by show 2 ^ 5 ≤ 64; decide)) _ h ho, ?_⟩
    exact State.hwPush_keeps (P := fun z => z.cans = y.cans) (fun _ _ _ h => h) (fun _ _ h => h) (fun _ _ h => h) rfl _ _ _ _ _ _ _
  · exact ⟨fun _ _ _ => rfl, rfl⟩

theorem txFill_page (hx : x < 8) (hf : f < 2) : ((txFill x f).page ≠ 0x0A ∧ (txFill x f).off < 4096) ∧ ((txPut x f).page ≠ 0x0A ∧ (txPut x f).off < 4096) := by
  interval_cases x <;> interval_cases f <;> decide

theorem State.txPutGo_none (hx : x < 8) (hf : f < 2) (h : y.flag (txFed x f) = true ∨ (y.get (txFill x f) < 32
      ∧ y.txBad x (y.bytes (txAddr x f (y.get (txPut x f))) 80) = true)) :
    (y.txPutGo x f t).get (txFill x f) = y.get (txFill x f) ∧ (y.txPutGo x f t).get (txPut x f) = y.get (txPut x f) := by
  obtain ⟨⟨h1, h2⟩, h3, h4⟩ := txFill_page hx hf
  unfold State.txPutGo State.txEnter
  dsimp only
  by_cases hfed : y.flag (txFed x f) = true
  · rw [if_pos hfed]
    exact ⟨rfl, rfl⟩
  · obtain ⟨hn, hbad⟩ := h.resolve_left hfed
    rw [if_neg hfed, if_neg (by omega), if_pos hbad]
    obtain ⟨hget, -⟩ := y.txEvent_leaves x f 0x3B (leVal (((y.bytes (txAddr x f (y.get (txPut x f))) 80).drop 8).take 4)) 0 t
    exact ⟨hget _ h1 h2, hget _ h3 h4⟩

/-- A full FIFO keeps its elements, and the drop is counted. -/
theorem State.txPutGo_full (hf : f < 2) (hfed : y.flag (txFed x f) = false) (hn : y.get (txFill x f) = 32) :
    (y.txPutGo x f t).get (txFill x f) = 32 ∧ (y.txPutGo x f t).get (CAN.TXDROP x) = min (y.get (CAN.TXDROP x) + 1) 65535 := by
  unfold State.txPutGo State.canLost
  rw [if_neg (Bool.eq_false_iff.mp hfed), if_pos hn, State.get_setCan, State.get_setCan, State.get_detect, State.get_detect]
  refine ⟨?_, ?_⟩
  · obtain ⟨h1, -⟩ | ⟨h1, -⟩ := txFill_cases x hf
    all_goals
      rw [h1] at hn ⊢
      rw [State.get_evt _ _ _ (Fld.apart_mk (by omega)), State.count, State.get_put_apart _ _ _ _ (Fld.apart_mk (by omega)), hn]
  · rw [State.get_evt _ _ _ (Fld.apart_mk (by omega)), State.get_count_same _ _ _ (Fld.fits_mk (by decide))]
    rfl

/-- An acknowledgement removes the element at the get index. -/
theorem State.rxAck_takes (hf : f < 2) :
    (y.rxAck x f).get (rxFill x f) = y.get (rxFill x f) - 1
      ∧ (y.rxAck x f).get (rxGet x f) = if y.get (rxFill x f) = 0 then y.get (rxGet x f) else (y.get (rxGet x f) + 1) % 64 := by
  have hcases : (rxFill x f = CAN.F0FILL x ∧ rxGet x f = CAN.F0GET x) ∨ (rxFill x f = CAN.F1FILL x ∧ rxGet x f = CAN.F1GET x) := by
    interval_cases f
    · exact .inl ⟨rfl, rfl⟩
    · exact .inr ⟨rfl, rfl⟩
  unfold State.rxAck
  by_cases h0 : y.get (rxFill x f) = 0
  · rw [if_pos h0, if_pos h0, h0]
    exact ⟨rfl, rfl⟩
  · rw [if_neg h0, if_neg h0]
    have hlt : y.get (rxFill x f) < 2 ^ (rxFill x f).width := State.get_lt _ _
    obtain ⟨h1, h2⟩ | ⟨h1, h2⟩ := hcases
    all_goals
      rw [h1] at hlt ⊢
      rw [h2]
      refine ⟨?_, State.get_put_same _ _ _ (Fld.fits_mk (by decide))⟩
      rw [State.get_put_apart _ _ _ _ (Fld.apart_mk (by omega)), State.get_put_same _ _ _ (Fld.fits_mk (by decide))]
      refine Nat.mod_eq_of_lt ?_
      exact lt_of_le_of_lt (Nat.sub_le _ _) hlt

/-- A flush leaves only the element in transmission. -/
theorem State.txFlush_leaves (hf : f < 2) :
    (y.txFlush x f t).get (txFill x f) = (if y.txOnAir x f t then min (y.get (txFill x f)) 1 else 0)
      ∧ ((y.txFlush x f t).can x).enq f = ((y.can x).enq f).take (if y.txOnAir x f t then min (y.get (txFill x f)) 1 else 0) := by
  obtain ⟨left, hleft⟩ : ∃ left, left = if y.txOnAir x f t then min (y.get (txFill x f)) 1 else 0 := ⟨_, rfl⟩
  have hmin : min (y.get (txFill x f)) (if y.txOnAir x f t then 1 else 0) = left := by
    rw [hleft]
    split <;> simp
  unfold State.txFlush
  dsimp only
  rw [hmin, ← hleft]
  have hsmall : left < 64 := by
    rw [hleft]
    split <;> omega
  generalize hz : List.foldl _ y _ = z
  have hcan : z.cans = y.cans := by
    rw [← hz]
    exact foldl_keeps (P := fun w => w.cans = y.cans) rfl fun w i hw => ((w.txEvent_leaves x f _ _ _ _).2).trans hw
  obtain ⟨hfill, -⟩ := z.get_txFill_put (x := x) hf left (y.txHead x f + left)
  refine ⟨?_, ?_⟩
  · rw [State.get_setCan]
    exact hfill.trans (Nat.mod_eq_of_lt hsmall)
  · have hkeep : ((z.put (txFill x f) left).put (txPut x f) (y.txHead x f + left)).can x = y.can x := by
      show look canInit z.cans x = look canInit y.cans x
      rw [hcan]
    rw [State.can_setCan, if_pos rfl, hkeep]
    split
    · rw [CanSt.enq_setTried, CanSt.enq_setEnq]
    · exact CanSt.enq_setEnq _ _ _

/-- A start of recovery changes the state alone, from BUSOFF to RECOVERING. -/
theorem State.get_canRecover (y : State) (x : Nat) (g : Fld) :
    (y.canRecover x).get (CAN.STATE x) = (if y.get (CAN.STATE x) = 4 then 5 else y.get (CAN.STATE x))
      ∧ ((CAN.STATE x).apart g → (y.canRecover x).get g = y.get g) ∧ (y.canRecover x).cans = y.cans := by
  unfold State.canRecover
  split
  · exact ⟨State.get_put_same _ _ _ (Fld.fits_mk (by decide)), fun h => State.get_put_apart _ _ _ _ h, rfl⟩
  · exact ⟨rfl, fun _ => rfl, rfl⟩

end

/-! What an accepted command lands on (R429, R426, R436, R417). -/

section
variable {s : State} {src : Src} {t x f : Nat} {v m : Word}

/-- A command word lands without a change to any other word. -/
theorem State.get_landed {off : Nat} (g : Fld) (h : 0x30 + x ≠ g.page ∨ off ≠ g.off) (ho : off < 4096) (hg : g.off < 4096) :
    ((s.reach t).land ((s.reach t).wrOf src (0x30 + x) off v m t)).get g = s.get g := by
  refine State.get_landOf _ _ _ _ _ _ _ _ _ ?_
  unfold regKey
  omega

/-- Whether a controller sends a FIFO's element turns on these words, the memory and the controllers alone. -/
theorem State.txOnAir_congr {y : State} (hget : ∀ g : Fld, g.off ≠ 0x134 → g.off < 4096 → y.get g = s.get g) (hcans : y.cans = s.cans)
    (hmem : y.mem = s.mem) (hpac : y.pac = s.pac) : y.txOnAir x f t = s.txOnAir x f t := by
  have hflag : ∀ g : Fld, g.off ≠ 0x134 → g.off < 4096 → y.flag g = s.flag g := fun g h1 h2 => by rw [State.flag, State.flag, hget g h1 h2]
  have hcan : y.can x = s.can x := by rw [State.can, State.can, hcans]
  have hle : ∀ a n, y.le a n = s.le a n := fun a n => by simp only [State.le, State.bytes, State.byte, hmem]
  have hnode : ∀ n, y.nodeAddr x n = s.nodeAddr x n := fun n => by
    unfold State.nodeAddr
    rw [hcan, hget (CAN.NODEADDR x) (by simp) (by simp)]
  have harb : ∀ a n, y.arbField x a n = s.arbField x a n := fun a n => by simp only [State.arbField, hle, hnode]
  have hhead : ∀ f, f < 2 → y.txHead x f = s.txHead x f := fun f hf => by
    unfold State.txHead
    rw [hget (txFill x f) (by interval_cases f <;> simp [txFill]) (by interval_cases f <;> simp [txFill]),
      hget (txPut x f) (by interval_cases f <;> simp [txPut]) (by interval_cases f <;> simp [txPut])]
  have hlive : y.canLive x = s.canLive x := by
    unfold State.canLive
    rw [hget (CAN.STATE x) (by simp) (by simp), hflag CLK.FAILWAIT (by simp) (by simp)]
  have hchoice : ∀ n, y.txChoice x n = s.txChoice x n := fun n => by
    simp only [State.txChoice, hget (CAN.MODE x) (by simp) (by simp), hflag (Hdr.FRZ (0x30 + x)) (by simp) (by simp),
      hflag DBG.HALTED (by simp) (by simp), hpac, hcan, harb, hhead 0 (by decide), hhead 1 (by decide)]
  simp only [State.txOnAir, hlive, hchoice]

/-- The parts of a state that a command's word leaves. -/
theorem State.landed_parts (off : Nat) :
    ((s.reach t).land ((s.reach t).wrOf src (0x30 + x) off v m t)).cans = s.cans
      ∧ ((s.reach t).land ((s.reach t).wrOf src (0x30 + x) off v m t)).mem = s.mem
      ∧ ((s.reach t).land ((s.reach t).wrOf src (0x30 + x) off v m t)).pac = s.pac :=
  ⟨State.land_cans _ _, State.land_mem _ _, State.land_pac _ _⟩

theorem canTxPut_puts (hx : x < 8) (hf : f < 2) (ha : s.Accepts src (0x30 + x) 0x130 (BitVec.ofNat 32 (1 <<< f)) 0xFFFFFFFF t) :
    ∃ y : State, exec (.canTxPut t src x f) s = .next (y.txPutGo x f t) ∧ (∀ g : Fld, g.off ≠ 0x130 → g.off < 4096 → y.get g = s.get g)
      ∧ y.cans = s.cans ∧ y.mem = s.mem := by
  refine ⟨(s.reach t).land ((s.reach t).wrOf src (0x30 + x) 0x130 (BitVec.ofNat 32 (1 <<< f)) 0xFFFFFFFF t), (State.exec_netEffect ha (exec_canTxPut hx hf) ⟨by omega, by omega⟩ (by decide)).trans ?_,
    fun g h hg => State.get_landed g (.inr h.symm) (by decide) hg, (State.landed_parts 0x130).1, (State.landed_parts 0x130).2.1⟩
  rw [effect_txfput _ _ x hx rfl rfl]
  exact congrArg Host.Outcome.next (fifo_each (F := fun s g => s.txPutGo x g t) hf (fifo_one (.inr (.inl rfl)) hx hf) _)

theorem canRxAck_takes (hx : x < 8) (hf : f < 2) (ha : s.Accepts src (0x30 + x) 0x128 (BitVec.ofNat 32 (1 <<< f)) 0xFFFFFFFF t) :
    ∃ y : State, exec (.canRxAck t src x f) s = .next (y.rxAck x f) ∧ (∀ g : Fld, g.off ≠ 0x128 → g.off < 4096 → y.get g = s.get g) := by
  refine ⟨(s.reach t).land ((s.reach t).wrOf src (0x30 + x) 0x128 (BitVec.ofNat 32 (1 <<< f)) 0xFFFFFFFF t), (State.exec_netEffect ha (exec_canRxAck hx hf) ⟨by omega, by omega⟩ (by decide)).trans ?_,
    fun g h hg => State.get_landed g (.inr h.symm) (by decide) hg⟩
  rw [effect_rxfack _ _ x hx rfl rfl]
  exact congrArg Host.Outcome.next (fifo_each (F := fun s g => s.rxAck x g) hf (fifo_one (.inl rfl) hx hf) _)

theorem canTxFlush_flushes (hx : x < 8) (hf : f < 2) (ha : s.Accepts src (0x30 + x) 0x134 (BitVec.ofNat 32 (1 <<< f)) 0xFFFFFFFF t) :
    ∃ y : State, exec (.canTxFlush t src x f) s = .next (y.txFlush x f t) ∧ (∀ g : Fld, g.off ≠ 0x134 → g.off < 4096 → y.get g = s.get g)
      ∧ y.cans = s.cans ∧ y.mem = s.mem ∧ y.pac = s.pac := by
  refine ⟨(s.reach t).land ((s.reach t).wrOf src (0x30 + x) 0x134 (BitVec.ofNat 32 (1 <<< f)) 0xFFFFFFFF t), (State.exec_netEffect ha (exec_canTxFlush hx hf) ⟨by omega, by omega⟩ (by decide)).trans ?_,
    fun g h hg => State.get_landed g (.inr h.symm) (by decide) hg, State.landed_parts 0x134⟩
  have hrec : ((s.reach t).wrOf src (0x30 + x) 0x134 (BitVec.ofNat 32 (1 <<< f)) 0xFFFFFFFF t).one 8 = false := by
    rw [State.wrOf_one]
    interval_cases f <;> rfl
  rw [effect_txfctl _ _ x hx rfl rfl, hrec]
  exact congrArg Host.Outcome.next (fifo_each (F := fun s g => s.txFlush x g t) hf (fifo_one (.inr (.inr rfl)) hx hf) _)

theorem canManualRecover_starts (hx : x < 8) (ha : s.Accepts src (0x30 + x) 0x134 0x100 0xFFFFFFFF t) :
    ∃ y : State, exec (.canManualRecover t src x) s = .next (y.canRecover x) ∧ (∀ g : Fld, g.off ≠ 0x134 → g.off < 4096 → y.get g = s.get g) := by
  refine ⟨(s.reach t).land ((s.reach t).wrOf src (0x30 + x) 0x134 0x100 0xFFFFFFFF t), (State.exec_netEffect ha (exec_canManualRecover hx) ⟨by omega, by omega⟩ (by decide)).trans ?_,
    fun g h hg => State.get_landed g (.inr h.symm) (by decide) hg⟩
  have hone : ((s.reach t).wrOf src (0x30 + x) 0x134 0x100 0xFFFFFFFF t).one 8 = true := by
    rw [State.wrOf_one]
    interval_cases x <;> decide +kernel
  have h0 : ∀ g, g < 2 → ((s.reach t).wrOf src (0x30 + x) 0x134 0x100 0xFFFFFFFF t).one g = false := fun g hg => by
    rw [State.wrOf_one]
    interval_cases g <;> rfl
  rw [effect_txfctl _ _ x hx rfl rfl, hone, if_pos rfl]
  refine congrArg (fun z : State => Host.Outcome.next (z.canRecover x)) ?_
  show (if _ = true then _ else (if _ = true then _ else _)) = _
  rw [h0 1 (by decide), h0 0 (by decide)]
  rfl

/-! AREN (R419). -/

end

end Sys2Proof.Machine

namespace Sys2Proof.Machine

-- One declaration after another: each kernel evaluation beside others holds a thread's stack, and the whole text has one memory limit.
set_option Elab.async false

/-! AREN (R419). -/

/-- A 1 written to AREN for a halted controller ends its halt. -/
def State.haltEnd (s : State) (ones x : Nat) : State :=
  if bitAt ones x ∧ bitAt (s.get CANC.HALT) x then
    let s := ((s.clrFlag CANC.HALT x).put ⟨0x38, 0x10C, 4 * x, 4⟩ 0).setCan x (fun c => { c with history := [], bos := 0 })
    s.canRecover x
  else s

theorem State.canAren_eq (s : State) (v ones : Nat) : s.canAren v ones = (List.range 8).foldl (fun s x => s.haltEnd ones x) (s.put CANC.AREN v) := rfl

section
variable {s : State} {x ones : Nat}

/-- The end of a halt, by the words that it writes. -/
theorem State.haltEnd_halted (h : bitAt ones x = true ∧ bitAt (s.get CANC.HALT) x = true) :
    ∃ y : State, s.haltEnd ones x = y.canRecover x ∧ (∀ g : Fld, CANC.HALT.apart g → Fld.apart ⟨0x38, 0x10C, 4 * x, 4⟩ g → y.get g = s.get g)
      ∧ (∀ j, bitAt (y.get CANC.HALT) j = (!decide (x = j) && bitAt (s.get CANC.HALT) j))
      ∧ (∀ j, y.can j = if x = j then { s.can x with
          history := []
          bos := 0 } else s.can j) := by
  refine ⟨((s.clrFlag CANC.HALT x).put ⟨0x38, 0x10C, 4 * x, 4⟩ 0).setCan x (fun c => { c with history := [], bos := 0 }), if_pos h, ?_, ?_, ?_⟩
  · intro g h1 h2
    rw [State.get_setCan, State.get_put_apart _ _ _ _ h2]
    exact State.get_put_apart _ _ _ _ h1
  · intro j
    have hle : clrBit (s.get CANC.HALT) x ≤ s.get CANC.HALT := by
      unfold clrBit
      split
      · exact Nat.sub_le _ _
      · exact le_rfl
    rw [State.get_setCan, State.get_put_apart _ _ _ _ (Fld.apart_mk (by omega)), State.clrFlag, State.get_put_same _ _ _ (by decide),
      Nat.mod_eq_of_lt (lt_of_le_of_lt hle (State.get_lt s CANC.HALT))]
    exact clrBit_testBit _ _ _
  · intro j
    exact State.can_setCan _ _ _ _

/-- The end of one controller's halt leaves AREN, the others' halt, history and state. -/
theorem State.haltEnd_other {j : Nat} (hj : x ≠ j) :
    (s.haltEnd ones x).get CANC.AREN = s.get CANC.AREN ∧ bitAt ((s.haltEnd ones x).get CANC.HALT) j = bitAt (s.get CANC.HALT) j
      ∧ ((s.haltEnd ones x).can j) = s.can j ∧ (s.haltEnd ones x).get (CAN.STATE j) = s.get (CAN.STATE j) := by
  by_cases h : bitAt ones x = true ∧ bitAt (s.get CANC.HALT) x = true
  · obtain ⟨y, hy, hget, hhalt, hcan⟩ := State.haltEnd_halted h
    rw [hy]
    refine ⟨?_, ?_, ?_, ?_⟩
    · rw [(y.get_canRecover x CANC.AREN).2.1 (Fld.apart_mk (by omega)), hget _ (by decide) (Fld.apart_mk (by omega))]
    · rw [(y.get_canRecover x CANC.HALT).2.1 (Fld.apart_mk (by omega)), hhalt, decide_eq_false hj]
      rfl
    · rw [State.can, (y.get_canRecover x CANC.HALT).2.2]
      exact (hcan j).trans (if_neg hj)
    · rw [(y.get_canRecover x (CAN.STATE j)).2.1 (Fld.apart_mk (by omega)), hget _ (Fld.apart_mk (by omega)) (Fld.apart_mk (by omega))]
  · rw [State.haltEnd, if_neg h]
    exact ⟨rfl, rfl, rfl, rfl⟩

/-- The end of a controller's own halt. -/
theorem State.haltEnd_own (s : State) (x ones : Nat) :
    (s.haltEnd ones x).get CANC.AREN = s.get CANC.AREN
      ∧ bitAt ((s.haltEnd ones x).get CANC.HALT) x = (bitAt (s.get CANC.HALT) x && !(bitAt ones x && bitAt (s.get CANC.HALT) x))
      ∧ ((s.haltEnd ones x).can x).history = (if (bitAt ones x && bitAt (s.get CANC.HALT) x) = true then [] else (s.can x).history)
      ∧ (s.haltEnd ones x).get (CAN.STATE x)
          = if (bitAt ones x && bitAt (s.get CANC.HALT) x) = true ∧ s.get (CAN.STATE x) = 4 then 5 else s.get (CAN.STATE x) := by
  by_cases h : bitAt ones x = true ∧ bitAt (s.get CANC.HALT) x = true
  · obtain ⟨y, hy, hget, hhalt, hcan⟩ := State.haltEnd_halted h
    have hst : y.get (CAN.STATE x) = s.get (CAN.STATE x) := hget _ (Fld.apart_mk (by omega)) (Fld.apart_mk (by omega))
    rw [hy, h.1, h.2]
    refine ⟨?_, ?_, ?_, ?_⟩
    · rw [(y.get_canRecover x CANC.AREN).2.1 (Fld.apart_mk (by omega)), hget _ (by decide) (Fld.apart_mk (by omega))]
    · rw [(y.get_canRecover x CANC.HALT).2.1 (Fld.apart_mk (by omega)), hhalt, decide_eq_true rfl]
      rfl
    · rw [State.can, (y.get_canRecover x CANC.HALT).2.2]
      exact congrArg CanSt.history ((hcan x).trans (if_pos rfl))
    · rw [(y.get_canRecover x CANC.HALT).1, hst]
      simp
  · have hb : (bitAt ones x && bitAt (s.get CANC.HALT) x) = false := by simpa using h
    rw [State.haltEnd, if_neg h, hb]
    simp

/-- The ends of other controllers' halts. -/
theorem State.haltEnds_other {j : Nat} (l : List Nat) (hl : j ∉ l) (s : State) :
    (l.foldl (fun s x => s.haltEnd ones x) s).get CANC.AREN = s.get CANC.AREN
      ∧ bitAt ((l.foldl (fun s x => s.haltEnd ones x) s).get CANC.HALT) j = bitAt (s.get CANC.HALT) j
      ∧ (l.foldl (fun s x => s.haltEnd ones x) s).can j = s.can j
      ∧ (l.foldl (fun s x => s.haltEnd ones x) s).get (CAN.STATE j) = s.get (CAN.STATE j) := by
  induction l generalizing s with
  | nil => exact ⟨rfl, rfl, rfl, rfl⟩
  | cons k l ih =>
    obtain ⟨h1, h2, h3, h4⟩ := ih (fun h => hl (List.mem_cons_of_mem _ h)) (s.haltEnd ones k)
    obtain ⟨e1, e2, e3, e4⟩ := State.haltEnd_other (s := s) (ones := ones) (fun h : k = j => hl (h ▸ List.mem_cons_self))
    exact ⟨h1.trans e1, h2.trans e2, h3.trans e3, h4.trans e4⟩

/-- AREN, and what its ones end. -/
theorem State.canAren_ends (y : State) (v ones : Nat) (hx : x < 8) :
    (y.canAren v ones).get CANC.AREN = v % 256
      ∧ bitAt ((y.canAren v ones).get CANC.HALT) x = (bitAt (y.get CANC.HALT) x && !(bitAt ones x && bitAt (y.get CANC.HALT) x))
      ∧ ((y.canAren v ones).can x).history = (if (bitAt ones x && bitAt (y.get CANC.HALT) x) = true then [] else (y.can x).history)
      ∧ (y.canAren v ones).get (CAN.STATE x)
          = if (bitAt ones x && bitAt (y.get CANC.HALT) x) = true ∧ y.get (CAN.STATE x) = 4 then 5 else y.get (CAN.STATE x) := by
  obtain ⟨z, hz⟩ : ∃ z, z = y.put CANC.AREN v := ⟨_, rfl⟩
  have haren : z.get CANC.AREN = v % 256 := by
    rw [hz]
    exact State.get_put_same _ _ _ (by decide)
  have hhalt : z.get CANC.HALT = y.get CANC.HALT := by rw [hz, State.get_put_apart _ _ _ _ (by decide)]
  have hstate : z.get (CAN.STATE x) = y.get (CAN.STATE x) := by rw [hz, State.get_put_apart _ _ _ _ (Fld.apart_mk (by omega))]
  have hcan : z.can x = y.can x := by rw [hz]; rfl
  have hsplit : List.range 8 = List.range x ++ x :: (List.range 8).drop (x + 1) := by interval_cases x <;> decide
  have hpost : x ∉ (List.range 8).drop (x + 1) := by interval_cases x <;> decide
  rw [State.canAren_eq, ← hz, hsplit, List.foldl_append, List.foldl_cons]
  obtain ⟨a1, a2, a3, a4⟩ := State.haltEnds_other (ones := ones) (j := x) (List.range x) (by simp) z
  obtain ⟨b1, b2, b3, b4⟩ := State.haltEnd_own ((List.range x).foldl (fun s x => s.haltEnd ones x) z) x ones
  obtain ⟨c1, c2, c3, c4⟩ := State.haltEnds_other (ones := ones) (j := x) _ hpost (((List.range x).foldl (fun s x => s.haltEnd ones x) z).haltEnd ones x)
  rw [a2, hhalt] at b2 b3 b4
  rw [a3, hcan] at b3
  rw [a4, hstate] at b4
  exact ⟨c1.trans (b1.trans (a1.trans haren)), c2.trans b2, (congrArg CanSt.history c3).trans b3, c4.trans b4⟩

end

/-! The clauses. -/

section
variable {s : State} {src : Src} {t x : Nat} {v m : Word}

/-- AREN's bits are plain: the word that a write would leave carries what it names, and the others as they were. -/
theorem State.aren_new (u : State) : (u.wrOf src 0x38 0x100 v m t).new.toNat % 256 = bitsOf ((u.rd 0x38 0x100 &&& ~~~m) ||| (v &&& m)) 0 8 := by
  have hkind : ∀ i < 8, (bitsOfKind 0x38 0x100 .rw).getLsbD i = true := by decide +kernel
  apply Nat.eq_of_testBit_eq
  intro i
  rw [bitsOf_testBit, Nat.testBit_mod_two_pow _ 8 i]
  by_cases hi : i < 8
  · have hbit := State.wrOf_new_bit (s := u) (src := src) (v := v) (m := m) (t := t) (hkind i hi) (by omega)
    have hfound := State.found_bit (s := u) (src := src) (t := t) (by decide +kernel) (hkind i hi) (by omega)
    rw [Nat.zero_add, BitVec.testBit_toNat, BitVec.testBit_toNat, hbit, hfound, BitVec.getLsbD_or, BitVec.getLsbD_and, BitVec.getLsbD_and, BitVec.getLsbD_not]
    generalize m.getLsbD i = named
    cases named <;> simp [hi, (by omega : i < 32)]
  · simp [hi]

theorem canAren_takes (hx : x < 8) (ha : s.Accepts src 0x38 0x100 v m t) : Completes (.canAutoReturnEnable t src v m) s (fun u =>
    u.get CANC.AREN = bitsOf ((s.rd 0x38 0x100 &&& ~~~m) ||| (v &&& m)) 0 8
      ∧ bitAt (u.get CANC.HALT) x = (bitAt (s.get CANC.HALT) x && !(bitAt (v &&& m).toNat x && bitAt (s.get CANC.HALT) x))
      ∧ (u.can x).history = (if (bitAt (v &&& m).toNat x && bitAt (s.get CANC.HALT) x) = true then [] else (s.can x).history)
      ∧ u.get (CAN.STATE x) = if (bitAt (v &&& m).toNat x && bitAt (s.get CANC.HALT) x) = true ∧ s.get (CAN.STATE x) = 4 then 5 else s.get (CAN.STATE x)) := by
  refine ⟨_, State.exec_netEffect ha rfl (by decide) (by decide), ?_⟩
  rw [effect_aren _ _ rfl rfl]
  obtain ⟨w, hw⟩ : ∃ w, w = (s.reach t).wrOf src 0x38 0x100 v m t := ⟨_, rfl⟩
  have hget : ∀ g : Fld, regKey 0x38 0x100 ≠ regKey g.page g.off → ((s.reach t).land w).get g = s.get g := fun g hg => by
    rw [hw]
    exact State.get_landOf _ _ _ _ _ _ _ _ _ hg
  have hcan : ((s.reach t).land w).can x = s.can x := by rw [State.can, State.land_cans]; rfl
  have hones : bitAt (w.v &&& w.m).toNat x = bitAt (v &&& m).toNat x := by
    have hwr : (writable 0x38 0x100).getLsbD x = true := by interval_cases x <;> decide +kernel
    have hv : bitAt (v &&& m).toNat x = (v.getLsbD x && m.getLsbD x) := by rw [bitAt, BitVec.testBit_toNat, BitVec.getLsbD_and]
    have hone := State.wrOf_one (s.reach t) src 0x38 0x100 v m t x
    rw [hwr, Bool.and_true] at hone
    rw [hw, hv, ← hone]
    rfl
  have hnew : w.new.toNat % 256 = bitsOf ((s.rd 0x38 0x100 &&& ~~~m) ||| (v &&& m)) 0 8 := by
    rw [hw]
    exact State.aren_new (s.reach t)
  rw [← hw]
  obtain ⟨h1, h2, h3, h4⟩ := State.canAren_ends ((s.reach t).land w) w.new.toNat (w.v &&& w.m).toNat hx
  rw [hones, hget CANC.HALT (by decide)] at h2 h3 h4
  rw [hcan] at h3
  rw [hget (CAN.STATE x) (by show 0x38 * 0x1000 + 0x100 ≠ (0x30 + x) * 0x1000 + 0x11c; omega)] at h4
  exact ⟨h1.trans hnew, h2, h3, h4⟩

/-- REPEAT: both timers run. -/
theorem State.nmEnter_repeat (y : State) (x t : Nat) (hx : x < 8) :
    (y.nmEnter x 1 t).get (NMK.STATE x) = 1 ∧ (y.nmEnter x 1 t).due (.nmRepeat x) = some (t + ms (y.get (NMK.REPTIME x)))
      ∧ (y.nmEnter x 1 t).due (.nmKeep x) = some (t + ms (y.get (NMK.KAPER x))) := by
  obtain ⟨a, ha, hst, hleft, -⟩ := y.nmOver_leaves x 1 (by decide)
  have hrun : y.nmEnter x 1 t = ((a.keepAlive x t).arm (.nmKeep x) (t + ms (a.get (NMK.KAPER x)))).arm (.nmRepeat x) (t + ms (a.get (NMK.REPTIME x))) := by
    rw [ha, State.nmEnter]
  refine ⟨?_, ?_, ?_⟩
  · rw [hrun, State.get_arm, State.get_arm, State.get_keepAlive _ _ _ _ (by show (0x39 : Nat) ≠ 0x0A; decide) (by show 0x118 + 0x20 * x < 4096; omega), hst]
  · rw [hrun, State.due_arm_same, hleft _ (Fld.apart_mk (by omega))]
  · rw [hrun, State.due_arm, if_neg (by simp), State.due_arm_same, hleft _ (Fld.apart_mk (by omega))]

/-- A stopped channel has no timer. -/
theorem State.nmEnter_stopped (y : State) (x t : Nat) :
    (y.nmEnter x 0 t).get (NMK.STATE x) = 0 ∧ (y.nmEnter x 0 t).due (.nmRepeat x) = none ∧ (y.nmEnter x 0 t).due (.nmTimeout x) = none
      ∧ (y.nmEnter x 0 t).due (.nmWait x) = none ∧ (y.nmEnter x 0 t).due (.nmKeep x) = none := by
  obtain ⟨a, ha, hst, -, h1, h2, h3, h4, -⟩ := y.nmOver_leaves x 0 (by decide)
  have hrun : y.nmEnter x 0 t = a.agreeCheck t := by rw [ha, State.nmEnter] <;> decide
  obtain ⟨hget, hdue, -⟩ := a.agreeCheck_leaves t
  rw [hrun]
  exact ⟨(hget _ (Fld.apart_mk (by omega)) (Fld.apart_mk (by omega)) (Fld.apart_mk (by omega)) (Fld.apart_mk (by omega))).trans hst,
    (hdue _ (by simp) (by simp)).trans h1, (hdue _ (by simp) (by simp)).trans h2, (hdue _ (by simp) (by simp)).trans h3, (hdue _ (by simp) (by simp)).trans h4⟩

/-- A write of a channel's control word that names NMEN leaves it there, and no other word moves. -/
theorem State.nmen_lands (hx : x < 8) (c : Word) (hm : m.getLsbD 0 = true) :
    ((s.reach t).land ((s.reach t).wrOf src 0x39 (0x100 + 0x20 * x) c m t)).get (NMK.NMEN x) = bitsOf c 0 1
      ∧ (∀ g : Fld, g.page * 0x1000 + g.off ≠ 0x39 * 0x1000 + (0x100 + 0x20 * x) →
          ((s.reach t).land ((s.reach t).wrOf src 0x39 (0x100 + 0x20 * x) c m t)).get g = s.get g) := by
  refine ⟨?_, fun g hg => State.get_landOf _ _ _ _ _ _ _ _ _ (Ne.symm hg)⟩
  refine State.get_landOf_same _ _ src (NMK.NMEN x) _ _ t ?_ ?_ ?_ (by show 0 + 1 ≤ 32; decide) (fun i hi => ?_)
  · interval_cases x <;> decide +kernel
  · interval_cases x <;> decide +kernel
  · interval_cases x <;> decide +kernel
  · obtain rfl : i = 0 := Nat.lt_one_iff.mp hi
    exact hm

/-- A write of a channel's control word, by what it lands on. -/
theorem exec_nmEnable_lands (hx : x < 8) {en : Bool} {c : Word} (hc : (v &&& 0xFFFFFFFE) ||| BitVec.ofNat 32 (b2n en) = c)
    (ha : s.Accepts src 0x39 (0x100 + 0x20 * x) c (m ||| 1) t) :
    ∃ y : State, exec (.nmEnable t src x en v m) s = .next (y.nmEnable x t) ∧ y.fcr = s.fcr ∧ y.get (NMK.NMEN x) = bitsOf c 0 1
      ∧ (∀ o lo w : Nat, o ≠ 0x100 + 0x20 * x → y.get ⟨0x39, o, lo, w⟩ = s.get ⟨0x39, o, lo, w⟩) := by
  subst hc
  obtain ⟨hnmen, hget⟩ := State.nmen_lands (s := s) (src := src) (t := t) hx ((v &&& 0xFFFFFFFE) ||| BitVec.ofNat 32 (b2n en)) (m := m ||| 1) (by simp)
  refine ⟨_, (State.exec_netEffect ha (exec_nmEnable hx en) (by decide) ⟨by omega, by omega, by omega, by omega⟩).trans
    (congrArg Host.Outcome.next (effect_nmctrl _ _ x rfl rfl)), State.land_fcr _ _, hnmen, fun o lo w ho => hget _ (by dsimp only; omega)⟩

/-- NMEN 1 of a stopped channel starts it in REPEAT with both timers. -/
theorem nmEnable_starts (hx : x < 8) (ha : s.Accepts src 0x39 (0x100 + 0x20 * x) ((v &&& 0xFFFFFFFE) ||| 1) (m ||| 1) t)
    (hen : s.get (Hdr.EN 0x39) = 1) (hheld : s.unitHeld 0x39 x = false) (hst : s.get (NMK.STATE x) = 0) :
    Completes (.nmEnable t src x true v m) s (fun u =>
      u.get (NMK.STATE x) = 1 ∧ u.due (.nmRepeat x) = some (t + ms (s.get (NMK.REPTIME x))) ∧ u.due (.nmKeep x) = some (t + ms (s.get (NMK.KAPER x)))) := by
  obtain ⟨y, hrun, hfcr, hnmen, hword⟩ := exec_nmEnable_lands hx (en := true) rfl ha
  have hon : y.nmOn x = true := by
    have hone : bitsOf ((v &&& 0xFFFFFFFE) ||| 1) 0 1 = 1 := bitsOf_and_or v 0xFFFFFFFE 1 (fun i hi => by interval_cases i; decide)
    have h1 : y.flag (Hdr.EN 0x39) = true := (State.flag_one_iff _ rfl).mpr ((hword _ _ _ (by omega)).trans hen)
    have h2 : y.flag (NMK.NMEN x) = true := (State.flag_one_iff _ rfl).mpr (hnmen.trans hone)
    have h3 : y.unitHeld 0x39 x = false := by rw [State.unitHeld, hfcr]; exact hheld
    rw [State.nmOn, h1, h2, h3]
    rfl
  have hstop : y.get (NMK.STATE x) = 0 := (hword _ _ _ (by omega)).trans hst
  rw [State.nmEnable, if_pos hon, if_pos hstop] at hrun
  obtain ⟨h1, h2, h3⟩ := y.nmEnter_repeat x t hx
  rw [hword _ _ _ (by omega)] at h2
  rw [hword _ _ _ (by omega)] at h3
  exact ⟨_, hrun, h1, h2, h3⟩

/-- NMEN 0 stops a channel. -/
theorem nmEnable_stops (hx : x < 8) (ha : s.Accepts src 0x39 (0x100 + 0x20 * x) (v &&& 0xFFFFFFFE) (m ||| 1) t) (hst : s.get (NMK.STATE x) ≠ 0) :
    Completes (.nmEnable t src x false v m) s (fun u =>
      u.get (NMK.STATE x) = 0 ∧ u.due (.nmRepeat x) = none ∧ u.due (.nmTimeout x) = none ∧ u.due (.nmWait x) = none ∧ u.due (.nmKeep x) = none) := by
  obtain ⟨y, hrun, -, hnmen, hword⟩ := exec_nmEnable_lands hx (en := false) (BitVec.or_zero (x := v &&& 0xFFFFFFFE)) ha
  have hoff : ¬ y.nmOn x = true := by
    have hnil : bitsOf ((v &&& 0xFFFFFFFE) ||| 0#32) 0 1 = 0 := bitsOf_and_or v 0xFFFFFFFE 0#32 (fun i hi => by interval_cases i; decide)
    have h2 : y.flag (NMK.NMEN x) = false := by
      rw [BitVec.or_zero] at hnil
      simpa [State.flag] using hnmen.trans hnil
    rw [State.nmOn, h2]
    simp
  have hon : ¬ y.get (NMK.STATE x) = 0 := fun h => hst ((hword _ _ _ (by omega)).symm.trans h)
  rw [State.nmEnable, if_neg hoff, if_neg hon] at hrun
  exact ⟨_, hrun, y.nmEnter_stopped x t⟩

end

/-- Settles O15: each accepted command lands, and runs for the FIFO, controller or channel that it names. -/
theorem canWritesTakeEffect : Obligations.CanWritesTakeEffect := by
  unfold Obligations.CanWritesTakeEffect
  intro s src t x f hx hf
  refine ⟨fun ha => ?_, fun ha => ?_, fun ha => ?_, fun ha => ?_, fun v m ha => canAren_takes hx ha, fun v m ha => nmEnable_starts hx ha,
    fun v m ha => nmEnable_stops hx ha⟩
  case refine_1 =>
    intro n el
    obtain ⟨y, hrun, hget, hcans, hmem⟩ := canTxPut_puts hx hf ha
    have hfill : y.get (txFill x f) = n := hget _ (by interval_cases f <;> simp [txFill]) (by interval_cases f <;> simp [txFill])
    have hput : y.get (txPut x f) = s.get (txPut x f) := hget _ (by interval_cases f <;> simp [txPut]) (by interval_cases f <;> simp [txPut])
    have hfed : y.flag (txFed x f) = s.flag (txFed x f) := by
      rw [State.flag, State.flag, hget _ (by interval_cases f <;> simp [txFed]) (by interval_cases f <;> simp [txFed])]
    have hbytes : ∀ a k, y.bytes a k = s.bytes a k := fun a k => by simp only [State.bytes, State.byte, hmem]
    have hbad : y.txBad x (y.bytes (txAddr x f (y.get (txPut x f))) 80) = s.txBad x el := by
      rw [hput, hbytes, State.txBad, State.txBad, State.flag, State.flag, hget (CAN.FDEN x) (by simp) (by simp)]
    have hcan : y.can x = s.can x := by rw [State.can, State.can, hcans]
    refine ⟨fun h1 h2 h3 => ⟨_, hrun, ?_⟩, fun h => ⟨_, hrun, ?_⟩, fun h1 h2 => ⟨_, hrun, ?_⟩⟩
    · have hall := State.txPutGo_puts (y := y) (t := t) hf (hfed.trans h1) (hfill.trans_lt h2) (hbad.trans h3)
      rwa [hfill, hput, hcan] at hall
    · have hall := State.txPutGo_none (y := y) (t := t) hx hf (h.imp hfed.trans (fun h => ⟨hfill.trans_lt h.1, hbad.trans h.2⟩))
      rwa [hfill, hput] at hall
    · have hall := State.txPutGo_full (y := y) (t := t) hf (hfed.trans h1) (hfill.trans h2)
      rwa [hget (CAN.TXDROP x) (by simp) (by simp)] at hall
  case refine_2 =>
    obtain ⟨y, hrun, hget⟩ := canRxAck_takes hx hf ha
    have hall := State.rxAck_takes (y := y) (x := x) hf
    rw [hget (rxFill x f) (by interval_cases f <;> simp [rxFill]) (by interval_cases f <;> simp [rxFill]),
      hget (rxGet x f) (by interval_cases f <;> simp [rxGet]) (by interval_cases f <;> simp [rxGet])] at hall
    exact ⟨_, hrun, hall⟩
  case refine_3 =>
    obtain ⟨y, hrun, hget, hcans, hmem, hpac⟩ := canTxFlush_flushes hx hf ha
    have hcan : y.can x = s.can x := by rw [State.can, State.can, hcans]
    have hall := State.txFlush_leaves (y := y) (x := x) (t := t) hf
    rw [hget (txFill x f) (by interval_cases f <;> simp [txFill]) (by interval_cases f <;> simp [txFill]), hcan,
      State.txOnAir_congr hget hcans hmem hpac] at hall
    exact ⟨_, hrun, hall⟩
  case refine_4 =>
    obtain ⟨y, hrun, hget⟩ := canManualRecover_starts hx ha
    have hall := (y.get_canRecover x (CAN.STATE x)).1
    rw [hget (CAN.STATE x) (by simp) (by simp)] at hall
    exact ⟨_, hrun, hall⟩

end Sys2Proof.Machine

namespace Sys2Proof.Machine

-- One declaration after another: each kernel evaluation beside others holds a thread's stack, and the whole text has one memory limit.
set_option Elab.async false

/-! A forwarded frame that is a ring frame too (O17). -/

/-- Ports 2 and 3 run in VLAN 5, the address 1 is known behind port 3 and is the ring's group address, and position 1 of the ring
does not consent. -/
def ringBehindPort : State :=
  ([(Hdr.EN 0x40, 1), (Hdr.EN 0x43, 1), (Hdr.EN 0x44, 1), (PT.UP 2, 1), (PT.UP 3, 1), (SWC.VLAN_VALID 0, 1), (SWC.VLAN_VID 0, 5), (SWC.MEMBER 0, 0xC),
    (PT.PCPMAP 2, 0x70000000), (SWC.MAXLEN, 1522), (PT.MAX 3 7, 100), (SWC.FREE, 1000), (SWC.LEARN, 0), (Hdr.EN 0x3A, 1), (NMB.GRPMACLO, 1),
    (NMB.GRPMACHI, 0), (NMB.VID, 5), (NMB.POS, 1)] : List (Fld × Nat)).foldl (fun s e => s.put e.1 e.2)
    { State.reset with
      regs := [(regKey 0x40 0x104, 0), (regKey 0x40 0x108, 9)]
      sw := { State.reset.sw with macs := [(0, { mac := 1, fid := 0, ports := 8, fixed := true, seen := 0 })] } }

/-- The head of a BATON from position 0 to position 1. -/
def batonHead : List Byte := [0x11, 0, 0, 1, 0, 0, 0, 0, 0, 0, 0, 0]

/-- A BATON from position 0 to position 1 in VLAN 5, from the destination address on. -/
def batonOctets : List Byte :=
  [0, 0, 0, 0, 0, 1, 0, 0, 0, 0, 0, 2, 0x81, 0, 0xE0, 5, 0x88, 0xB6] ++ batonHead ++ macOf [] batonHead ++ List.replicate 22 0

/-- The frame that port 2 makes of it. -/
def batonFrame : EthFrame :=
  { vid := 5, prio := 7, cls := 7, rtag := none,
    body := [0, 0, 0, 0, 0, 1, 0, 0, 0, 0, 0, 2, 0x88, 0xB6] ++ batonHead ++ macOf [] batonHead ++ List.replicate 22 0,
    ingress := 2, last := 0, untag := false, bad := false }

theorem parseFrame_baton : parseFrame batonOctets = (true, 5, 7, none, batonFrame.body) := by
  rfl

/-- A frame that a port accepts is counted and goes on. -/
theorem ethFrame_accepted {s u : State} {t p v vid : Nat} {octets : List Byte} {f : EthFrame} (hon : p < 6 ∧ s.portOn p = true ∧ s.flag (PT.UP p) = true)
    (hgptp : isGptp octets = false) (hu : u = ((s.reach t).count (PT.RXFRAMES p)).setPort p (fun r => { r with rxWin := min (r.rxWin + 1) 65535 }))
    (hf : u.rxFrame p octets t = some (f, v, vid)) :
    exec (.ethFrameReceived t p octets true) s = .next (u.rxAccepted f v vid (octets.length + 4) t) := by
  have hon' : ¬ ¬ (p < 6 ∧ (s.reach t).portOn p = true ∧ (s.reach t).flag (PT.UP p) = true) := not_not.mpr hon
  show execEthFrameReceived t p octets true s = _
  unfold execEthFrameReceived
  dsimp only
  rw [if_neg hon', hgptp, if_neg (by simp), ← hu, hf]
  rfl

/-- The state in which port 2 has counted it. -/
def batonCounted : State :=
  ((ringBehindPort.reach 0).count (PT.RXFRAMES 2)).setPort 2 (fun r => { r with rxWin := min (r.rxWin + 1) 65535 })

theorem baton_received : exec (.ethFrameReceived 0 2 batonOctets true) ringBehindPort = .next (batonCounted.rxAccepted batonFrame 0 5 64 0) := by
  have hframe : batonCounted.rxFrame 2 batonOctets 0 = some (batonFrame, 0, 5) := by
    unfold State.rxFrame
    rw [parseFrame_baton]
    dsimp only
    rw [if_neg (by decide +kernel), show batonCounted.vlanOf (if (true && decide (5 ≠ 0)) = true then 5 else batonCounted.get (PT.PVID 2)) = some 0 from by decide +kernel]
    dsimp only
    rw [if_neg (by decide +kernel)]
    have hcls : wbits (batonCounted.get (PT.PCPMAP 2)) (4 * 7) 3 = 7 := by decide +kernel
    simp only [Bool.true_and, ne_eq, OfNat.ofNat_ne_zero, not_false_eq_true, decide_true, ↓reduceIte, hcls]
    rfl
  exact ethFrame_accepted (by decide +kernel) (by decide +kernel) rfl hframe

/-- It goes to port 3, and to the ring. -/
theorem baton_forwarded : batonCounted.rxAccepted batonFrame 0 5 64 0
    = (batonCounted.swForward batonFrame none 0).ringBatonFrame (batonFrame.body.drop 14) 0 := by
  have hstream : batonCounted.sflFind batonFrame.dst batonFrame.src batonFrame.vid = none := by decide +kernel
  have hlearn : batonCounted.macLearn batonFrame.src 0 batonFrame.ingress 0 = batonCounted := if_pos (by decide +kernel)
  unfold State.rxAccepted
  dsimp only
  rw [hstream]
  dsimp only
  rw [if_neg (by decide +kernel), hlearn, if_neg (by decide), if_neg (by decide +kernel), if_pos (by decide +kernel)]
  rfl

/-- What port 2 and port 3 have made of the frame when the ring checks it. -/
def batonSent : State := batonCounted.swForward batonFrame none 0

theorem baton_good : batonSent.RingGood 1 (batonFrame.body.drop 14) 0 := by
  have hkey : look [] batonSent.vault.keys (batonSent.get NMB.KEY) = [] := by decide +kernel
  refine ⟨by decide +kernel, by decide +kernel, by decide +kernel, ?_, by decide +kernel, by decide +kernel⟩
  rw [hkey]
  rfl

/-- The ring answers with a DISSENT, which goes to port 3 too. -/
theorem baton_dissents : ∃ u, exec (.ethFrameReceived 0 2 batonOctets true) ringBehindPort = .next u ∧ ((u.port 3).queues.getD 7 []).length = 2 := by
  refine ⟨_, baton_received.trans (congrArg Host.Outcome.next (baton_forwarded.trans (State.ringBatonFrame_good (s := batonSent) (by decide +kernel) baton_good))), ?_⟩
  rw [State.ringBatonTaken_dissents _ _ _ (by decide +kernel) (by decide +kernel) (by decide +kernel) (by decide +kernel)]
  decide +kernel

/-- Refutes O17: a forwarded frame may be a BATON of the ring, whose DISSENT joins the same queue behind it. -/
theorem not_portsMoveFrames : ¬ Obligations.PortsMoveFrames := by
  intro h
  obtain ⟨-, hforward, -⟩ := h ringBehindPort 0 2
  obtain ⟨-, hqueue⟩ := hforward batonOctets (by decide) (by decide +kernel) (by decide +kernel) (by decide +kernel) (by decide +kernel) (by decide +kernel)
    (by decide +kernel) (by decide +kernel) (by decide +kernel) (by decide +kernel) (by decide +kernel) 0 (by decide +kernel) (by decide +kernel)
    (by decide +kernel) (by decide +kernel)
  obtain ⟨u, hu, hone, -⟩ := hqueue (0, { mac := 1, fid := 0, ports := 8, fixed := true, seen := 0 }) (by decide +kernel) 3 (by decide +kernel)
    (by decide +kernel) (by decide +kernel) (by decide) (by decide) (by decide) (by decide +kernel) (by decide +kernel) (by decide +kernel)
    (by decide +kernel) (by decide +kernel)
  obtain ⟨u', hu', htwo⟩ := baton_dissents
  obtain rfl : u = u' := Host.Outcome.next.inj (hu.symm.trans hu')
  rw [hone] at htwo
  exact absurd htwo (by decide +kernel)

end Sys2Proof.Machine

namespace Sys2Proof.Machine

-- One declaration after another: each kernel evaluation beside others holds a thread's stack, and the whole text has one memory limit.
set_option Elab.async false

/-! A reverse battery on a group of load switches (O33). -/

/-- Channels 0 and 1 are a pair, and the slave has no RVON. -/
def pairReverses : State := { State.reset.put (LSW.RVON 1) 0 with cfgAct := [(regKey 0x17 0x140, 1)] }

/-- Refutes O33: the slave of a pair conducts in reverse by its master's RVON, where the statement takes its own. -/
theorem not_diesLoseSupply : ¬ Obligations.DiesLoseSupply := by
  intro h
  obtain ⟨-, hrev, -⟩ := h pairReverses 4 0 (by decide)
  obtain ⟨u, ⟨-, -, -, hls, -⟩, hon⟩ := (hrev (by decide +kernel)).of_answers (q := fun u => decide ((u.out (.ls 1)).revOn = true)) (by decide +kernel)
  exact absurd ((of_decide_eq_true hon).symm.trans (hls 1 (by decide))) (by decide +kernel)

end Sys2Proof.Machine

namespace Sys2Proof.Machine

-- One declaration after another: each kernel evaluation beside others holds a thread's stack, and the whole text has one memory limit.
set_option Elab.async false

/-! Digital inputs: their samples, debounce and initialisation (O29). -/

/-- The words of input `m` lie away from a field. -/
def Fld.outside (m : Nat) (g : Fld) : Prop := (DIN.CHSTAT_RAW m).away g ∧ (DIN.GLITCH m).away g

/-- Two states that an input does not tell apart: all but the words of the other inputs agree. -/
def State.sameInput (n : Nat) (a b : State) : Prop :=
  b.din n = a.din n ∧ b.pwr = a.pwr ∧ b.timers = a.timers ∧ ∀ g : Fld, (∀ m, m < 64 → m ≠ n → g.outside m) → b.get g = a.get g

/-- What a sample of an input leaves (R362 to R364): `from0` is where a new run starts. -/
def State.Sampled (s : State) (t n from0 : Nat) (raw : Bool) (x : State) : Prop :=
  let live := s.dinRuns n = true ∧ s.flag (DIN.VALID n) = true
  let same := raw = s.flag (DIN.CHSTAT_LEVEL n)
  let d := s.din n
  x.get (DIN.CHSTAT_RAW n) = (if s.dinRuns n = true then b2n raw else s.get (DIN.CHSTAT_RAW n))
  ∧ x.get (DIN.CHSTAT_LEVEL n) = s.get (DIN.CHSTAT_LEVEL n)
  ∧ (¬ live → (x.din n).run = d.run ∧ x.get (DIN.GLITCH n) = s.get (DIN.GLITCH n))
  ∧ (live → same → (x.din n).run = none ∧ x.get (DIN.GLITCH n) =
      if d.run.isSome = true ∧ (∀ r, d.run = some r → r < t) then min (s.get (DIN.GLITCH n) + 1) (2 ^ (DIN.GLITCH n).width - 1) else s.get (DIN.GLITCH n))
  ∧ (live → ¬ same →
      (∀ r, d.run = some r → (x.din n).run = some r ∧ x.get (DIN.GLITCH n) = s.get (DIN.GLITCH n))
      ∧ (d.run = none → d.undo = none → (x.din n).run = some from0 ∧ x.get (DIN.GLITCH n) = s.get (DIN.GLITCH n))
      ∧ (∀ q r g, d.run = none → d.undo = some (q, r, g) →
          (x.din n).run = some (if t ≤ q then r else from0)
          ∧ x.get (DIN.GLITCH n) = if t ≤ q then g % 2 ^ (DIN.GLITCH n).width else s.get (DIN.GLITCH n)))

section
variable {s : State} {n t : Nat}

theorem State.din_setDin_same (s : State) (n : Nat) (f : DinSt → DinSt) : (s.setDin n f).din n = f (s.din n) :=
  (s.din_setDin n n f).trans (if_pos rfl)

theorem State.flag_of_get {a b : State} {f : Fld} (h : a.get f = b.get f) : a.flag f = b.flag f := by unfold State.flag; rw [h]

theorem b2n_mod_two (b : Bool) : b2n b % 2 = b2n b := by cases b <;> rfl

/-- A sample of a running input shows its raw level, and leaves every other word. -/
theorem State.put_raw (s : State) (n : Nat) (raw : Bool) :
    (s.put (DIN.CHSTAT_RAW n) (b2n raw)).get (DIN.CHSTAT_RAW n) = b2n raw
      ∧ ∀ g : Fld, (DIN.CHSTAT_RAW n).apart g → (s.put (DIN.CHSTAT_RAW n) (b2n raw)).get g = s.get g :=
  ⟨(State.get_put_same _ _ _ (Fld.fits_mk (by decide))).trans (b2n_mod_two raw), fun _ h => State.get_put_apart _ _ _ _ h⟩

/-- A sample in its own words (R362 to R364). -/
theorem State.rawSample_sampled (s : State) (n t : Nat) (raw : Bool) :
    s.Sampled t n (if s.get (DIN.WET n) = 2 then t else s.sampleAt t) raw (s.rawSample n t raw) := by
  unfold State.rawSample
  by_cases hr : s.dinRuns n = true
  · obtain ⟨hraw, hget⟩ := s.put_raw n raw
    rw [if_neg (not_not_intro hr)]
    dsimp only
    obtain ⟨y, hy⟩ : ∃ y, y = s.put (DIN.CHSTAT_RAW n) (b2n raw) := ⟨_, rfl⟩
    have hq : y.sampleAt t = s.sampleAt t := by rw [hy]; rfl
    have hdin : y.din n = s.din n := by rw [hy]; rfl
    rw [← hy] at hraw hget ⊢
    have hgl := hget (DIN.GLITCH n) (Fld.apart_mk (by omega))
    have hlev := hget (DIN.CHSTAT_LEVEL n) (Fld.apart_mk (by omega))
    have hwet := hget (DIN.WET n) (Fld.apart_mk (by omega))
    have hval : y.flag (DIN.VALID n) = s.flag (DIN.VALID n) := State.flag_of_get (hget (DIN.VALID n) (Fld.apart_mk (by omega)))
    have hlevf : y.flag (DIN.CHSTAT_LEVEL n) = s.flag (DIN.CHSTAT_LEVEL n) := State.flag_of_get hlev
    rw [hq, hdin, hval, hlevf, hwet, hgl]
    clear hy
    have hput : ∀ v g, (DIN.GLITCH n).apart g → (y.put (DIN.GLITCH n) v).get g = y.get g := fun v g h => State.get_put_apart _ _ _ _ h
    by_cases hv : s.flag (DIN.VALID n) = true
    · rw [if_neg (not_not_intro hv)]
      have hraw' : y.get (DIN.CHSTAT_RAW n) = if s.dinRuns n = true then b2n raw else s.get (DIN.CHSTAT_RAW n) := hraw.trans (if_pos hr).symm
      have hnot : ∀ {p : Prop}, ¬ (s.dinRuns n = true ∧ s.flag (DIN.VALID n) = true) → p := fun h => absurd ⟨hr, hv⟩ h
      cases hrun : (s.din n).run with
      | some r =>
        dsimp only
        by_cases hs : raw = s.flag (DIN.CHSTAT_LEVEL n)
        · rw [if_neg (not_not_intro hs)]
          by_cases ht : t ≤ r
          · rw [if_pos ht]
            refine ⟨hraw', hlev, hnot, fun _ _ => ⟨?_, ?_⟩, fun _ h => absurd hs h⟩
            · rw [State.din_setDin_same]
            · rw [if_neg (fun h => absurd (h.2 r hrun) (by omega))]
              exact hgl
          · rw [if_neg ht]
            have hcount : ∀ g, (DIN.GLITCH n).apart g → (y.count (DIN.GLITCH n)).get g = y.get g := fun g h => State.get_put_apart _ _ _ _ h
            refine ⟨(hcount _ (Fld.apart_mk (by omega))).trans hraw', (hcount _ (Fld.apart_mk (by omega))).trans hlev, hnot, fun _ _ => ⟨?_, ?_⟩, fun _ h => absurd hs h⟩
            · rw [State.din_setDin_same]
            · rw [State.get_setDin, State.get_count_same _ _ _ (Fld.fits_mk (by decide)), hgl]
              exact (if_pos ⟨by rw [hrun]; rfl, fun r' h => by rw [hrun, Option.some.injEq] at h; omega⟩).symm
        · rw [if_pos hs]
          refine ⟨hraw', hlev, hnot, fun _ h => absurd h hs, fun _ _ => ⟨fun r' h => ⟨(congrArg DinSt.run hdin).trans h, hgl⟩, ?_, ?_⟩⟩
          · exact fun h => absurd h (by rw [hrun]; simp)
          · exact fun _ _ _ h => absurd h (by rw [hrun]; simp)
      | none =>
        dsimp only
        by_cases hs : raw = s.flag (DIN.CHSTAT_LEVEL n)
        · rw [if_pos hs]
          exact ⟨hraw', hlev, hnot, fun _ _ => ⟨(congrArg DinSt.run hdin).trans hrun, by rw [if_neg (by rw [hrun]; simp)]; exact hgl⟩, fun _ h => absurd hs h⟩
        · rw [if_neg hs]
          have hno : ∀ {r : Nat} {p : Prop}, (s.din n).run = some r → p := fun h => absurd h (by rw [hrun]; simp)
          cases hu : (s.din n).undo with
          | none =>
            dsimp only
            refine ⟨hraw', hlev, hnot, fun _ h => absurd h hs, fun _ _ => ⟨fun _ h => hno h, fun _ _ => ⟨?_, hgl⟩, ?_⟩⟩
            · rw [State.din_setDin_same]
            · exact fun _ _ _ _ h => absurd h (by rw [hu]; simp)
          | some e =>
            obtain ⟨q, r, g⟩ := e
            dsimp only
            by_cases hq : t ≤ q
            · rw [if_pos hq]
              refine ⟨(hput _ _ (Fld.apart_mk (by omega))).trans hraw', (hput _ _ (Fld.apart_mk (by omega))).trans hlev, hnot,
                fun _ h => absurd h hs, fun _ _ => ⟨fun _ h => hno h, fun _ h => absurd h (by rw [hu]; simp), ?_⟩⟩
              intro q' r' g' _ h
              obtain ⟨rfl, rfl, rfl⟩ : q = q' ∧ r = r' ∧ g = g' := by rw [hu] at h; simpa using h
              rw [if_pos hq, if_pos hq, State.din_setDin_same, State.get_setDin, State.get_put_same _ _ _ (Fld.fits_mk (by decide))]
              exact ⟨rfl, rfl⟩
            · rw [if_neg hq]
              refine ⟨hraw', hlev, hnot, fun _ h => absurd h hs, fun _ _ => ⟨fun _ h => hno h, fun _ h => absurd h (by rw [hu]; simp), ?_⟩⟩
              intro q' r' g' _ h
              obtain ⟨rfl, rfl, rfl⟩ : q = q' ∧ r = r' ∧ g = g' := by rw [hu] at h; simpa using h
              rw [if_neg hq, if_neg hq, State.din_setDin_same]
              exact ⟨rfl, hgl⟩
    · rw [if_pos hv]
      exact ⟨hraw.trans (if_pos hr).symm, hlev, fun _ => ⟨congrArg DinSt.run hdin, hgl⟩, fun h => absurd h.2 hv, fun h => absurd h.2 hv⟩
  · rw [if_pos hr]
    exact ⟨(if_neg hr).symm, rfl, fun _ => ⟨rfl, rfl⟩, fun h => absurd h.1 hr, fun h => absurd h.1 hr⟩

/-! Inputs leave each other. -/

theorem State.sameInput.refl (n : Nat) (a : State) : a.sameInput n a := ⟨rfl, rfl, rfl, fun _ _ => rfl⟩

theorem State.sameInput.trans {n : Nat} {a b c : State} (h : a.sameInput n b) (h' : b.sameInput n c) : a.sameInput n c := by
  obtain ⟨h1, h2, h3, h4⟩ := h
  obtain ⟨k1, k2, k3, k4⟩ := h'
  exact ⟨k1.trans h1, k2.trans h2, k3.trans h3, fun g hg => (k4 g hg).trans (h4 g hg)⟩

theorem State.sameInput_setDin {m : Nat} (s : State) (h : m ≠ n) (f : DinSt → DinSt) : s.sameInput n (s.setDin m f) :=
  ⟨(s.din_setDin m n f).trans (if_neg h), rfl, rfl, fun _ _ => rfl⟩

/-- A word of another input. -/
theorem State.sameInput_put {m : Nat} (s : State) (hm : m < 64) (h : m ≠ n) {f : Fld} (v : Nat)
    (hf : (f.page = 0x24 + m / 32 ∧ f.off = 0x104 + 0x10 * (m % 32)) ∨ f = DIN.GLITCH m) : s.sameInput n (s.put f v) := by
  refine ⟨rfl, rfl, rfl, fun g hg => State.get_put_apart _ _ _ _ (Or.inl ?_)⟩
  obtain ⟨h1, h2⟩ := hg m hm h
  rcases hf with ⟨hp, ho⟩ | rfl
  · unfold Fld.away
    rw [hp, ho]
    exact h1
  · exact h2

/-- What a sample writes. -/
theorem State.rawSample_of {P : State → Prop} {m : Nat} (hput : ∀ s f v, f = DIN.CHSTAT_RAW m ∨ f = DIN.GLITCH m → P s → P (s.put f v))
    (hset : ∀ s f, (∀ d : DinSt, (f d).mv = d.mv ∧ (f d).pin = d.pin ∧ (f d).sample = d.sample) → P s → P (s.setDin m f)) (h : P s) (t : Nat) (raw : Bool) : P (s.rawSample m t raw) := by
  have hcount : ∀ s : State, P s → P (s.count (DIN.GLITCH m)) := fun s h => hput s _ _ (Or.inr rfl) h
  have hraw := hput s (DIN.CHSTAT_RAW m) (b2n raw) (Or.inl rfl) h
  unfold State.rawSample
  dsimp only
  generalize s.put (DIN.CHSTAT_RAW m) (b2n raw) = y at hraw ⊢
  split
  · exact h
  · split
    · exact hraw
    · split
      · split
        · exact hraw
        · split
          · exact hset _ _ (fun _ => ⟨rfl, rfl, rfl⟩) hraw
          · exact hset _ _ (fun _ => ⟨rfl, rfl, rfl⟩) (hcount _ hraw)
      · split
        · exact hraw
        · split
          · split
            · exact hset _ _ (fun _ => ⟨rfl, rfl, rfl⟩) (hput _ _ _ (Or.inr rfl) hraw)
            · exact hset _ _ (fun _ => ⟨rfl, rfl, rfl⟩) hraw
          · exact hset _ _ (fun _ => ⟨rfl, rfl, rfl⟩) hraw

theorem State.sameInput_rawSample {m : Nat} (s : State) (hm : m < 64) (h : m ≠ n) (t : Nat) (raw : Bool) : s.sameInput n (s.rawSample m t raw) :=
  State.rawSample_of (P := s.sameInput n)
    (fun y f v hf hy => hy.trans (y.sameInput_put hm h v (hf.imp (by rintro rfl; exact ⟨rfl, rfl⟩) id)))
    (fun y f _ hy => hy.trans (y.sameInput_setDin h f)) (State.sameInput.refl n s) t raw

/-- A fold over a range, seen by one of its members: the other steps leave what it sees. -/
theorem foldl_range_sees {σ : Type} {R : σ → σ → Prop} (hrefl : ∀ a, R a a) (htrans : ∀ {a b c}, R a b → R b c → R a c) {f : σ → Nat → σ} {k : Nat} :
    ∀ (N : Nat), k < N → (∀ a j, j < N → j ≠ k → R a (f a j)) → ∀ s, ∃ a, R s a ∧ R (f a k) ((List.range N).foldl f s)
  | 0, hk, _, _ => absurd hk (Nat.not_lt_zero k)
  | N + 1, hk, hf, s => by
    have hpre : ∀ M, M ≤ N → M ≤ k → R s ((List.range M).foldl f s) := by
      intro M hM hMk
      induction M with
      | zero => exact hrefl s
      | succ M ih =>
        rw [List.range_succ, List.foldl_append]
        exact htrans (ih (by omega) (by omega)) (hf _ M (by omega) (by omega))
    rw [List.range_succ, List.foldl_append]
    by_cases h : k = N
    · subst h
      exact ⟨_, hpre k le_rfl le_rfl, hrefl _⟩
    · obtain ⟨a, h1, h2⟩ := foldl_range_sees hrefl htrans N (by omega) (fun a j hj hjk => hf a j (by omega) hjk) s
      exact ⟨a, h1, htrans h2 (hf _ N (by omega) (fun e => h e.symm))⟩

theorem Fld.outside_mk {m p o l w : Nat} (h : (0x24 + m / 32) * 4096 + (0x104 + 0x10 * (m % 32)) ≠ p * 4096 + o)
    (h' : (0x24 + m / 32) * 4096 + (0x108 + 0x10 * (m % 32)) ≠ p * 4096 + o) : Fld.outside m ⟨p, o, l, w⟩ := ⟨h, h'⟩

theorem State.sameInput.dinRuns {a b : State} (h : a.sameInput n b) : b.dinRuns n = a.dinRuns n := by
  obtain ⟨-, hp, -, hg⟩ := h
  unfold State.dinRuns
  rw [hp, State.flag_of_get (hg (Hdr.EN (0x24 + n / 32)) (fun m hm hne => Fld.outside_mk (by omega) (by omega)))]

/-- An input's own words. -/
theorem State.sameInput.words {a b : State} (h : a.sameInput n b) (hn : n < 64) {o l w : Nat} (ho : o < 12) :
    b.get ⟨0x24 + n / 32, 0x100 + o + 0x10 * (n % 32), l, w⟩ = a.get ⟨0x24 + n / 32, 0x100 + o + 0x10 * (n % 32), l, w⟩ := by
  obtain ⟨-, -, -, hg⟩ := h
  exact hg _ (fun m hm hne => Fld.outside_mk (by omega) (by omega))

theorem State.sameInput.comparator {a b : State} (h : a.sameInput n b) (hn : n < 64) (mv : Nat) (was : Bool) : b.comparator n mv was = a.comparator n mv was := by
  have hty : b.get (DIN.TYPE n) = a.get (DIN.TYPE n) := h.words hn (o := 0) (by decide)
  obtain ⟨-, -, -, hg⟩ := h
  have hvb : b.signed SUP.VBATA = a.signed SUP.VBATA := by
    unfold State.signed
    rw [hg _ (fun m hm hne => Fld.outside_mk (by omega) (by omega))]
  unfold State.comparator
  rw [hty, hvb]

/-- A sample of one input, among those of the others. -/
theorem State.Sampled.among {a x y : State} {q : Nat} {raw : Bool} (hn : n < 64) (ha : s.sameInput n a) (h : a.Sampled t n q raw x) (hx : x.sameInput n y) :
    s.Sampled t n q raw y := by
  have hraw : y.get (DIN.CHSTAT_RAW n) = x.get (DIN.CHSTAT_RAW n) := hx.words hn (o := 4) (by decide)
  have hlev : y.get (DIN.CHSTAT_LEVEL n) = x.get (DIN.CHSTAT_LEVEL n) := hx.words hn (o := 4) (by decide)
  have hgl : y.get (DIN.GLITCH n) = x.get (DIN.GLITCH n) := hx.words hn (o := 8) (by decide)
  have araw : a.get (DIN.CHSTAT_RAW n) = s.get (DIN.CHSTAT_RAW n) := ha.words hn (o := 4) (by decide)
  have alev : a.get (DIN.CHSTAT_LEVEL n) = s.get (DIN.CHSTAT_LEVEL n) := ha.words hn (o := 4) (by decide)
  have agl : a.get (DIN.GLITCH n) = s.get (DIN.GLITCH n) := ha.words hn (o := 8) (by decide)
  have aval : a.flag (DIN.VALID n) = s.flag (DIN.VALID n) := State.flag_of_get (ha.words hn (o := 4) (by decide))
  have hruns := ha.dinRuns
  obtain ⟨adin, -, -, -⟩ := ha
  obtain ⟨xdin, -, -, -⟩ := hx
  unfold State.Sampled at h ⊢
  rw [araw, alev, agl, aval, hruns, adin, State.flag_of_get alev] at h
  rw [hraw, hlev, hgl, xdin]
  exact h

/-- A sample leaves the pin's own readings. -/
theorem State.din_rawSample (s : State) (n t : Nat) (raw : Bool) :
    ((s.rawSample n t raw).din n).mv = (s.din n).mv ∧ ((s.rawSample n t raw).din n).pin = (s.din n).pin ∧ ((s.rawSample n t raw).din n).sample = (s.din n).sample :=
  State.rawSample_of (P := fun y => (y.din n).mv = (s.din n).mv ∧ (y.din n).pin = (s.din n).pin ∧ (y.din n).sample = (s.din n).sample)
    (fun _ _ _ _ h => h)
    (fun y f hf h => by
      obtain ⟨h1, h2, h3⟩ := h
      obtain ⟨k1, k2, k3⟩ := hf (y.din n)
      rw [State.din_setDin_same]
      exact ⟨k1.trans h1, k2.trans h2, k3.trans h3⟩) ⟨rfl, rfl, rfl⟩ t raw

theorem State.Sampled.of_setDin {f : DinSt → DinSt} {x : State} {q : Nat} {raw : Bool} (hf : (f (s.din n)).run = (s.din n).run ∧ (f (s.din n)).undo = (s.din n).undo)
    (h : (s.setDin n f).Sampled t n q raw x) : s.Sampled t n q raw x := by
  unfold State.Sampled at h ⊢
  obtain ⟨hrun, hundo⟩ := hf
  rw [State.din_setDin_same] at h
  dsimp only at h
  rw [hrun, hundo] at h
  exact h

/-! The comparator's thresholds (R360). -/

theorem State.comparator_limits (s : State) (n mv : Nat) (was : Bool) {k v : Nat} {l : (Nat × Nat) × Nat × Nat} (hl : pinLimits (s.get (DIN.TYPE n)) = l)
    (hk : (if s.get (DIN.TYPE n) = 2 then (s.signed SUP.VBATA).toNat else 1) = k) (hv : (if s.get (DIN.TYPE n) = 2 then 100 * mv else mv) = v) (h0 : k ≠ 0) :
    (l.1.2 * k ≤ v → s.comparator n mv was = true) ∧ (v < l.1.2 * k → v ≤ l.2.1 * k → s.comparator n mv was = false) := by
  unfold State.comparator
  dsimp only
  rw [hl, hk, hv]
  exact ⟨fun h => by rw [if_neg h0, if_pos h], fun h h' => by rw [if_neg h0, if_neg (Nat.not_le.mpr h), if_pos h']⟩

/-- INPUT_RAW_CHANGE in its own words (R360, R362). -/
theorem State.dinPin_shows (s : State) (n mv t : Nat) :
    let pin := s.comparator n mv (s.din n).pin
    let x := s.dinPin n mv t
    (x.din n).mv = mv ∧ (x.din n).pin = pin ∧ (s.get (DIN.WET n) = 2 → x.regs = s.regs)
      ∧ (s.get (DIN.WET n) ≠ 2 → (x.din n).sample = pin ∧ s.Sampled t n (s.sampleAt t) (pin != s.flag (DIN.INV n)) x) := by
  dsimp only
  unfold State.dinPin
  dsimp only
  generalize s.comparator n mv (s.din n).pin = pin
  by_cases hw : s.get (DIN.WET n) = 2
  · rw [State.get_setDin, if_pos hw, State.din_setDin_same]
    exact ⟨rfl, rfl, fun _ => rfl, fun h => absurd hw h⟩
  · rw [State.get_setDin, if_neg hw]
    obtain ⟨y, hy⟩ : ∃ y, y = (s.setDin n (fun d => { d with mv := mv, pin := pin })).setDin n (fun d => { d with sample := pin }) := ⟨_, rfl⟩
    have hraw : (s.setDin n (fun d => { d with mv := mv, pin := pin })).rawOf n pin = (pin != s.flag (DIN.INV n)) := rfl
    have hdin : y.din n = { s.din n with mv := mv, pin := pin, sample := pin } := by rw [hy, State.din_setDin_same, State.din_setDin_same]
    rw [hraw, ← hy]
    have hs := y.rawSample_sampled n t (pin != s.flag (DIN.INV n))
    obtain ⟨hmv, hpin, hsample⟩ := y.din_rawSample n t (pin != s.flag (DIN.INV n))
    rw [hdin] at hmv hpin hsample
    have hwy : ¬ y.get (DIN.WET n) = 2 := by rw [hy]; exact hw
    rw [if_neg hwy] at hs
    refine ⟨hmv, hpin, fun h => absurd h hw, fun _ => ⟨hsample, ?_⟩⟩
    rw [hy] at hs ⊢
    exact (hs.of_setDin ⟨rfl, rfl⟩).of_setDin ⟨rfl, rfl⟩

/-- A member's step of WETTING_PULSE. -/
def State.wetStep (t p : Nat) (volts : List (Nat × Nat)) (s : State) (k : Nat) : State :=
  let n := 32 * p + k
  if s.get (DIN.WET n) = 2 && s.dinRuns n then
    let pin := match volts.find? (fun e => decide (e.1 = k)) with
      | some e => s.comparator n e.2 (s.din n).pin
      | none => (s.din n).pin
    (s.setDin n (fun d => { d with pin := pin, sample := pin })).rawSample n t (s.rawOf n pin)
  else s

theorem exec_wettingPulse (t p : Nat) (volts : List (Nat × Nat)) (s : State) :
    exec (.wettingPulse t p volts) s = .next (if (s.reach t).wetSample p t = true then (List.range 32).foldl (State.wetStep t p volts) (s.reach t) else s.reach t) := by
  have hrun : exec (.wettingPulse t p volts) s
      = .next (if (!(s.reach t).wetSample p t) = true then s.reach t else (List.range 32).foldl (State.wetStep t p volts) (s.reach t)) := rfl
  rw [hrun]
  cases (s.reach t).wetSample p t <;> rfl

/-- What a wetting pulse reads at a pin: the voltage that it names, else what the comparator reads. -/
def State.wetPin (s : State) (p k : Nat) (volts : List (Nat × Nat)) : Bool :=
  match volts.find? (fun e => decide (e.1 = k)) with
  | some e => s.comparator (32 * p + k) e.2 (s.din (32 * p + k)).pin
  | none => (s.din (32 * p + k)).pin

theorem State.wetStep_eq (t p : Nat) (volts : List (Nat × Nat)) (s : State) (k : Nat) :
    s.wetStep t p volts k = if s.get (DIN.WET (32 * p + k)) = 2 ∧ s.dinRuns (32 * p + k) = true then
      (s.setDin (32 * p + k) (fun d => { d with pin := s.wetPin p k volts, sample := s.wetPin p k volts })).rawSample (32 * p + k) t
        (s.wetPin p k volts != s.flag (DIN.INV (32 * p + k)))
    else s := by
  have hrun : s.wetStep t p volts k = if (decide (s.get (DIN.WET (32 * p + k)) = 2) && s.dinRuns (32 * p + k)) = true then
      (s.setDin (32 * p + k) (fun d => { d with pin := s.wetPin p k volts, sample := s.wetPin p k volts })).rawSample (32 * p + k) t
        (s.wetPin p k volts != s.flag (DIN.INV (32 * p + k)))
    else s := rfl
  rw [hrun]
  by_cases h : s.get (DIN.WET (32 * p + k)) = 2 <;> cases h' : s.dinRuns (32 * p + k) <;> simp [h]

theorem State.wetStep_apart {t p j : Nat} {volts : List (Nat × Nat)} (s : State) (hp : p < 2) (hj : j < 32) (h : 32 * p + j ≠ n) :
    s.sameInput n (State.wetStep t p volts s j) := by
  rw [State.wetStep_eq]
  split
  · exact (s.sameInput_setDin h _).trans (State.sameInput_rawSample _ (by omega) h _ _)
  · exact State.sameInput.refl n s

theorem State.sameInput.wetPin {a b : State} {p k : Nat} (h : a.sameInput (32 * p + k) b) (hn : 32 * p + k < 64) (volts : List (Nat × Nat)) :
    b.wetPin p k volts = a.wetPin p k volts := by
  unfold State.wetPin
  split
  · rw [h.comparator hn, h.1]
  · rw [h.1]

/-- WETTING_PULSE for an input that pulses, and for another (R362). -/
theorem State.wetFold_shows (s : State) {t p k : Nat} (volts : List (Nat × Nat)) (hp : p < 2) (hk : k < 32) :
    let n := 32 * p + k
    let x := (List.range 32).foldl (State.wetStep t p volts) s
    (s.get (DIN.WET n) = 2 → s.dinRuns n = true → (x.din n).sample = s.wetPin p k volts ∧ (x.din n).pin = s.wetPin p k volts
        ∧ s.Sampled t n t (s.wetPin p k volts != s.flag (DIN.INV n)) x)
      ∧ (s.get (DIN.WET n) ≠ 2 ∨ s.dinRuns n = false → x.din n = s.din n ∧ x.get (DIN.CHSTAT_RAW n) = s.get (DIN.CHSTAT_RAW n)) := by
  dsimp only
  have hn : 32 * p + k < 64 := by omega
  obtain ⟨a, ha, hx⟩ := foldl_range_sees (R := State.sameInput (32 * p + k)) (State.sameInput.refl _) State.sameInput.trans (f := State.wetStep t p volts) 32 hk
    (fun a j hj hne => a.wetStep_apart hp hj (by omega)) s
  generalize (List.range 32).foldl (State.wetStep t p volts) s = x at hx ⊢
  have hwet : a.get (DIN.WET (32 * p + k)) = s.get (DIN.WET (32 * p + k)) := ha.words hn (o := 0) (by decide)
  have hinv : a.flag (DIN.INV (32 * p + k)) = s.flag (DIN.INV (32 * p + k)) := State.flag_of_get (ha.words hn (o := 0) (by decide))
  have hpin := ha.wetPin hn volts
  rw [State.wetStep_eq, hwet, ha.dinRuns, hpin, hinv] at hx
  constructor
  · intro hw hr
    rw [if_pos ⟨hw, hr⟩] at hx
    obtain ⟨y, hy⟩ : ∃ y, y = a.setDin (32 * p + k) (fun d => { d with pin := s.wetPin p k volts, sample := s.wetPin p k volts }) := ⟨_, rfl⟩
    rw [← hy] at hx
    obtain ⟨-, h1, h2⟩ := y.din_rawSample (32 * p + k) t (s.wetPin p k volts != s.flag (DIN.INV (32 * p + k)))
    have hs := y.rawSample_sampled (32 * p + k) t (s.wetPin p k volts != s.flag (DIN.INV (32 * p + k)))
    have hwy : y.get (DIN.WET (32 * p + k)) = 2 := by rw [hy, State.get_setDin, hwet, hw]
    rw [if_pos hwy, hy] at hs
    rw [hy, State.din_setDin_same, ← hy] at h1 h2
    rw [← hy] at hs
    rw [hx.1]
    refine ⟨h2, h1, State.Sampled.among hn ha ?_ hx⟩
    rw [hy] at hs ⊢
    exact hs.of_setDin ⟨rfl, rfl⟩
  · intro h
    rw [if_neg (by rintro ⟨h1, h2⟩; rcases h with h | h <;> simp_all)] at hx
    have hall := ha.trans hx
    exact ⟨hall.1, hall.words hn (o := 4) (by decide)⟩

/-- The initialisation of one input (R366). -/
def State.initInput (n : Nat) (s : State) : State :=
  let raw := s.rawOf n (s.reading n)
  (((s.put (DIN.CHSTAT_RAW n) (b2n raw)).put (DIN.CHSTAT_LEVEL n) (b2n raw)).put (DIN.VALID n) 1).setDin n
    (fun d => { d with run := none, undo := none })

/-- A member's step of INPUT_INIT_SAMPLE. -/
def State.initStep (p : Nat) (s : State) (k : Nat) : State := s.initInput (32 * p + k)

theorem exec_inputInitSample {p d : Nat} (h : s.due (.inputInit p) = some d) :
    exec (.inputInitSample p) s = .next ((List.range 32).foldl (State.initStep p) ((s.disarm (.inputInit p)).reach d)) :=
  congrArg Host.Outcome.next (State.onExpiry_due h _)

theorem State.initStep_apart {p j : Nat} (s : State) (hp : p < 2) (hj : j < 32) (h : 32 * p + j ≠ n) : s.sameInput n (State.initStep p s j) :=
  (((s.sameInput_put (by omega) h _ (Or.inl ⟨rfl, rfl⟩)).trans (State.sameInput_put _ (by omega) h _ (Or.inl ⟨rfl, rfl⟩))).trans
    (State.sameInput_put _ (by omega) h _ (Or.inl ⟨rfl, rfl⟩))).trans (State.sameInput_setDin _ h _)

/-- An input's own initialisation (R366). -/
theorem State.initInput_shows (n : Nat) (s : State) :
    let raw := b2n (s.reading n != s.flag (DIN.INV n))
    let x := s.initInput n
    x.get (DIN.CHSTAT_RAW n) = raw ∧ x.get (DIN.CHSTAT_LEVEL n) = raw ∧ x.get (DIN.VALID n) = 1 ∧ (x.din n).run = none ∧ x.timers = s.timers := by
  dsimp only
  unfold State.initInput State.rawOf
  dsimp only
  generalize (s.reading n != s.flag (DIN.INV n)) = raw
  refine ⟨?_, ?_, ?_, ?_, ?_⟩
  · rw [State.get_setDin, State.get_put_apart _ _ _ _ (Fld.apart_mk (by omega)), State.get_put_apart _ _ _ _ (Fld.apart_mk (by omega)),
      State.get_put_same _ _ _ (Fld.fits_mk (by decide))]
    exact b2n_mod_two raw
  · rw [State.get_setDin, State.get_put_apart _ _ _ _ (Fld.apart_mk (by omega)), State.get_put_same _ _ _ (Fld.fits_mk (by decide))]
    exact b2n_mod_two raw
  · rw [State.get_setDin, State.get_put_same _ _ _ (Fld.fits_mk (by decide))]
    exact Nat.mod_eq_of_lt (show 1 < 2 ^ 1 by decide)
  · rw [State.din_setDin_same]
  · rw [State.setDin_timers, State.put_timers, State.put_timers, State.put_timers]

theorem State.initFold_shows (s : State) {p k : Nat} (hp : p < 2) (hk : k < 32) :
    let n := 32 * p + k
    let raw := b2n (s.reading n != s.flag (DIN.INV n))
    let x := (List.range 32).foldl (State.initStep p) s
    x.get (DIN.CHSTAT_RAW n) = raw ∧ x.get (DIN.CHSTAT_LEVEL n) = raw ∧ x.get (DIN.VALID n) = 1 ∧ (x.din n).run = none ∧ x.timers = s.timers := by
  dsimp only
  have hn : 32 * p + k < 64 := by omega
  obtain ⟨a, ha, hx⟩ := foldl_range_sees (R := State.sameInput (32 * p + k)) (State.sameInput.refl _) State.sameInput.trans (f := State.initStep p) 32 hk
    (fun a j hj hne => a.initStep_apart hp hj (by omega)) s
  generalize (List.range 32).foldl (State.initStep p) s = x at hx ⊢
  have hread : a.reading (32 * p + k) = s.reading (32 * p + k) := by
    have hwet : a.get (DIN.WET (32 * p + k)) = s.get (DIN.WET (32 * p + k)) := ha.words hn (o := 0) (by decide)
    rw [State.reading, State.reading, hwet, ha.1]
  have hinv : a.flag (DIN.INV (32 * p + k)) = s.flag (DIN.INV (32 * p + k)) := State.flag_of_get (ha.words hn (o := 0) (by decide))
  obtain ⟨h1, h2, h3, h4, h5⟩ := a.initInput_shows (32 * p + k)
  rw [hread, hinv] at h1 h2
  refine ⟨(hx.words hn (o := 4) (by decide)).trans h1, (hx.words hn (o := 4) (by decide)).trans h2, (hx.words hn (o := 4) (by decide)).trans h3,
    (congrArg DinSt.run hx.1).trans h4, ?_⟩
  obtain ⟨-, -, ht, -⟩ := ha
  obtain ⟨-, -, ht', -⟩ := hx
  exact ht'.trans (h5.trans ht)

theorem State.din_hwPush (s : State) (k page unit ty : Nat) (bytes : List Byte) (split t j : Nat) :
    (s.hwPush k page unit ty bytes split t).din j = s.din j :=
  State.hwPush_keeps (P := fun z => z.din j = s.din j) (fun _ _ _ h => h) (fun _ _ h => h) (fun _ _ h => h) rfl _ _ _ _ _ _ _

/-- A debounced change: the level, its event, its window and, where its edge is not selected, no push (R363, R364, R371). -/
theorem State.debounced_shows (s : State) (n r e : Nat) :
    let lv := !s.flag (DIN.CHSTAT_LEVEL n)
    let d := s.din n
    let x := s.debounced n r e
    x.get (DIN.CHSTAT_LEVEL n) = b2n lv ∧ bitAt (x.get (Hdr.EVT (0x24 + n / 32))) (n % 32) = true
      ∧ x.din n = { d with run := none, undo := none, changes := min (d.changes + 1) 255, rise := d.rise || lv, fall := d.fall || !lv }
      ∧ (s.flag (DIN.EN (n / 32)) = false ∨ bitAt (s.get (DIN.EDGEQ n)) (if lv then 0 else 1) = false → x.queues = s.queues) := by
  dsimp only
  unfold State.debounced
  dsimp only
  generalize (!s.flag (DIN.CHSTAT_LEVEL n)) = lv
  obtain ⟨y, hy⟩ : ∃ y, y = ((s.put (DIN.CHSTAT_LEVEL n) (b2n lv)).evt (0x24 + n / 32) (n % 32)).setDin n (fun d =>
    { d with run := none, undo := none, changes := min (d.changes + 1) 255, rise := d.rise || lv, fall := d.fall || !lv }) := ⟨_, rfl⟩
  have hlev : y.get (DIN.CHSTAT_LEVEL n) = b2n lv := by
    rw [hy, State.get_setDin, State.get_evt _ _ _ (Fld.apart_mk (by omega)), State.get_put_same _ _ _ (Fld.fits_mk (by decide))]
    exact b2n_mod_two lv
  have hevt : bitAt (y.get (Hdr.EVT (0x24 + n / 32))) (n % 32) = true := by
    rw [hy, State.get_setDin]
    exact State.bitAt_evt_same _ _ (Nat.mod_lt _ (by decide))
  have hother : ∀ {p o l w : Nat}, (0x24 + n / 32) * 4096 + (0x104 + 0x10 * (n % 32)) ≠ p * 4096 + o → (0x24 + n / 32) * 4096 + 0x20 ≠ p * 4096 + o →
      y.get ⟨p, o, l, w⟩ = s.get ⟨p, o, l, w⟩ := by
    intro p o l w h1 h2
    rw [hy, State.get_setDin, State.get_evt _ _ _ (Fld.apart_mk (Or.inl h2)), State.get_put_apart _ _ _ _ (Fld.apart_mk (Or.inl h1))]
  have hen : y.flag (DIN.EN (n / 32)) = s.flag (DIN.EN (n / 32)) := State.flag_of_get (hother (by omega) (by omega))
  have hedge : y.get (DIN.EDGEQ n) = s.get (DIN.EDGEQ n) := hother (by omega) (by omega)
  have hdin : y.din n = { s.din n with run := none, undo := none, changes := min ((s.din n).changes + 1) 255, rise := (s.din n).rise || lv, fall := (s.din n).fall || !lv } := by
    rw [hy, State.din_setDin_same]
    rfl
  have hqs : y.queues = s.queues := by rw [hy]; rfl
  rw [← hy, hen, hedge]
  clear hy
  by_cases h : s.flag (DIN.EN (n / 32)) = true ∧ bitAt (s.get (DIN.EDGEQ n)) (if lv = true then 0 else 1) = true
  · rw [if_pos h]
    obtain ⟨h1, h2⟩ := h
    have hk : y.get (DIN.QUEUE (n / 32)) < 64 := lt_of_lt_of_le (State.get_lt y (DIN.QUEUE (n / 32))) (by show 2 ^ 5 ≤ 64; decide)
    refine ⟨?_, ?_, ?_, fun h => absurd h (by rw [h1, h2]; simp)⟩
    · rw [State.get_hwPush _ _ _ _ _ _ _ _ hk _ (by show 0x24 + n / 32 ≠ 0x0A; omega) (by show 0x104 + 0x10 * (n % 32) < 4096; omega)]
      exact hlev
    · rw [State.get_hwPush _ _ _ _ _ _ _ _ hk _ (by show 0x24 + n / 32 ≠ 0x0A; omega) (by show 0x20 < 4096; decide)]
      exact hevt
    · rw [State.din_hwPush]
      exact hdin
  · rw [if_neg h]
    exact ⟨hlev, hevt, hdin, fun _ => hqs⟩

theorem State.onGrid_reach (s : State) (t q per : Nat) : (s.reach t).onGrid q per = s.onGrid q per := rfl

end

/-- Settles O29: a sample of one input leaves the others', so each input of a pulse or an initialisation shows its own. -/
theorem inputsDebounce : Obligations.InputsDebounce := by
  unfold Obligations.InputsDebounce
  intro s t
  refine ⟨?raw, ?wet, ?init, ?deb⟩
  case raw =>
    intro n mv hn
    obtain ⟨h1, h2, h3, h4⟩ := (s.reach t).dinPin_shows n mv t
    refine ⟨_, rfl, h1, h2, ?_, ?_, ?_, h4, h3⟩
    · intro hty
      obtain ⟨ha, hb⟩ := (s.reach t).comparator_limits n mv (s.din n).pin (l := pinLimits 0) (k := 1) (v := mv)
        (congrArg pinLimits hty) (if_neg (by rw [State.get_reach, hty]; decide)) (if_neg (by rw [State.get_reach, hty]; decide)) (by decide)
      exact ⟨fun h => ha h, fun h => hb (by show mv < 12000 * 1; omega) h⟩
    · intro hty
      obtain ⟨ha, hb⟩ := (s.reach t).comparator_limits n mv (s.din n).pin (l := pinLimits 1) (k := 1) (v := mv)
        (congrArg pinLimits hty) (if_neg (by rw [State.get_reach, hty]; decide)) (if_neg (by rw [State.get_reach, hty]; decide)) (by decide)
      exact ⟨fun h => ha h, fun h => hb (by show mv < 9000 * 1; omega) h⟩
    · intro hty hvb
      obtain ⟨ha, hb⟩ := (s.reach t).comparator_limits n mv (s.din n).pin (l := pinLimits 2) (congrArg pinLimits hty)
        (if_pos hty) (if_pos hty) (Nat.pos_iff_ne_zero.mp hvb)
      have hv : ((s.reach t).signed SUP.VBATA).toNat = (s.signed SUP.VBATA).toNat := rfl
      rw [hv] at ha hb
      generalize (s.signed SUP.VBATA).toNat = vb at ha hb hvb ⊢
      exact ⟨fun h => ha (by show 600 * vb ≤ 100 * mv; omega), fun h => hb (by show 100 * mv < 600 * vb; omega) (by show 100 * mv ≤ 400 * vb; omega)⟩
  case wet =>
    intro p volts k hp hk
    have hiff : (s.reach t).wetSample p t = true ↔ us (s.get (DIN.PW p)) ≤ t + us 2 ∧ s.onGrid (t + us 2 - us (s.get (DIN.PW p))) (250000 * s.get (DIN.PER p)) = true := by
      simp only [State.wetSample, Bool.and_eq_true, State.get_reach, State.onGrid_reach]
      exact and_congr_left' decide_eq_true_iff
    refine ⟨fun h => ⟨_, (exec_wettingPulse t p volts s).trans (by rw [if_neg (mt hiff.mp h)]), rfl⟩, fun h => ⟨_, (exec_wettingPulse t p volts s).trans (by rw [if_pos (hiff.mpr h)]), ?_⟩⟩
    exact (s.reach t).wetFold_shows volts hp hk
  case init =>
    intro p k hp hk d hd
    obtain ⟨h1, h2, h3, h4, h5⟩ := ((s.disarm (.inputInit p)).reach d).initFold_shows hp hk
    refine ⟨_, exec_inputInitSample hd, h1, h2, h3, h4, ?_⟩
    unfold State.due
    rw [h5]
    exact State.due_disarm_same s (.inputInit p)
  case deb =>
    intro n hn
    have hrun : exec (.debouncedChange t n) s = .next ((s.reach t).debounceAt t n) := rfl
    have hat : ∀ r, (s.din n).run = some r → (s.reach t).debounceAt t n = if ¬ s.dinRuns n ∨ t < s.debEnds n r then s.reach t
        else if s.tickPast (s.debEnds n r) then { s.reach t with ahead := s.ahead ++ [.level t n] } else (s.reach t).debounced n r (s.debEnds n r) := by
      intro r hr
      unfold State.debounceAt
      rw [State.din_reach, hr]
      rfl
    refine ⟨?_, ?_, ?_, ?_⟩
    · intro r hr hruns ht hp
      refine ⟨_, hrun, ?_⟩
      rw [hat r hr, if_neg (by rintro (h | h); exacts [h hruns, absurd h (Nat.not_lt.mpr ht)]), if_neg (show ¬ s.tickPast (s.debEnds n r) = true from Bool.eq_false_iff.mp hp)]
      exact (s.reach t).debounced_shows n r (s.debEnds n r)
    · intro r hr hruns ht hp
      refine ⟨_, hrun, ?_⟩
      rw [hat r hr, if_neg (by rintro (h | h); exacts [h hruns, absurd h (Nat.not_lt.mpr ht)])]
      exact if_pos hp
    · intro hr
      refine ⟨_, hrun, ?_⟩
      unfold State.debounceAt
      rw [State.din_reach, hr]
    · intro r hr h
      refine ⟨_, hrun, ?_⟩
      rw [hat r hr]
      exact if_pos (h.imp (fun h => by rw [h]; decide) id)

end Sys2Proof.Machine

namespace Sys2Proof.Machine

-- One declaration after another: each kernel evaluation beside others holds a thread's stack, and the whole text has one memory limit.
set_option Elab.async false

/-! Words that a die's pattern leaves: the operations of the power units write the status words of units and the words of
SYS and the Record page (O57). -/

/-- A field outside the words that units, patterns and yields write. -/
structure Fld.Free (g : Fld) : Prop where
  stat : ∀ u, (fState u).away g
  none : noFld.away g
  fs : ∀ d, (fFsBit d).away g
  sys : g.page ≠ 0
  book : g.page ≠ 7
  off : g.off < 4096

theorem State.get_quiet (s : State) (u : OutU) (g : Fld) : (s.quiet u).get g = s.get g := rfl

section
variable {g : Fld} (hg : g.Free) (s : State) (u : OutU) (t : Nat)
include hg

theorem Fld.Free.put {f : Fld} (hf : (f.page = (fState u).page ∧ f.off = (fState u).off) ∨ f = noFld) (v : Nat) : (s.put f v).get g = s.get g := by
  refine State.get_put_apart _ _ _ _ (Or.inl ?_)
  rcases hf with ⟨hp, ho⟩ | rfl
  · unfold Fld.away
    rw [hp, ho]
    exact hg.stat u
  · exact hg.none

theorem State.get_putPhase_free (p : Phase) : (s.putPhase u p).get g = s.get g := by
  unfold State.putPhase
  split
  · rfl
  · exact hg.put s u (.inl ⟨rfl, rfl⟩) _

omit hg in
theorem State.get_foldl_free {α : Type} {f : State → α → State} (hf : ∀ s x, (f s x).get g = s.get g) (l : List α) : (l.foldl f s).get g = s.get g :=
  foldl_keeps (P := fun y => y.get g = s.get g) rfl (fun y x h => (hf y x).trans h)

theorem State.get_setPhase_free (p : Phase) : (s.setPhase u p t).get g = s.get g := by
  unfold State.setPhase
  refine State.get_foldl_free s ?_ _
  exact fun y v => State.get_putPhase_free hg y v p

theorem State.get_endLimit_free : (s.endLimit u).get g = s.get g :=
  hg.put s u (by cases u <;> first | exact .inl ⟨rfl, rfl⟩ | exact .inr rfl) 0

theorem State.get_hbOpen_free : (s.hbOpen u).get g = s.get g := by
  unfold State.hbOpen
  refine State.get_foldl_free s ?_ _
  intro y v
  cases v with
  | hb n =>
    dsimp only
    rw [State.get_setBridge]
    exact hg.put y (.hb n) (f := HB.DIR n) (.inl ⟨rfl, rfl⟩) 0
  | _ => rfl

omit hg in
theorem State.get_mshReleaseOf_free : (s.mshReleaseOf u).get g = s.get g := by
  unfold State.mshReleaseOf
  split
  all_goals first | rfl | (split <;> rfl)

theorem State.get_beginStop_free : (s.beginStop u t).get g = s.get g := by
  unfold State.beginStop
  dsimp only
  have hx : ∀ m : OutU, ((((s.members u).foldl (fun s v => (s.endLimit v).quiet v) s).mshReleaseOf m).hbOpen m).get g = s.get g := by
    intro m
    refine (State.get_hbOpen_free hg _ m).trans ((State.get_mshReleaseOf_free _ m).trans (State.get_foldl_free s ?_ _))
    exact fun y v => (State.get_quiet _ _ _).trans (State.get_endLimit_free hg y v)
  have hm := hx (s.master u)
  generalize (((s.members u).foldl (fun s v => (s.endLimit v).quiet v) s).mshReleaseOf (s.master u)).hbOpen (s.master u) = x at hm ⊢
  split
  · exact (State.get_setPhase_free hg x _ t _).trans hm
  · exact (State.get_setPhase_free hg x _ t _).trans hm
  · split <;> exact (State.get_setPhase_free hg x _ t _).trans hm
  · exact hm
  · exact (State.get_putPhase_free hg x _ _).trans hm
  · exact (State.get_setPhase_free hg x _ t _).trans hm
  · exact (State.get_setPhase_free hg x _ t _).trans hm
  · exact hm

theorem State.get_g5_free (key : Nat) : (s.g5 u key t).get g = s.get g := by
  unfold State.g5
  split
  · exact State.get_yieldOpen _ _ _ _ _ _ (by decide) _ hg.sys hg.book hg.off
  · rfl

theorem State.get_enterDeferred_free (b : Bool) : (s.enterDeferred u b t).get g = s.get g := by
  unfold State.enterDeferred
  dsimp only
  refine (State.get_g5_free hg _ u t _).trans ((State.get_setPhase_free hg _ u t _).trans ?_)
  refine State.get_foldl_free s ?_ _
  exact fun y v => State.get_quiet y v g

omit hg in
theorem State.get_armHeat_free (d : Nat) : (s.armHeat d t).get g = s.get g := by
  unfold State.armHeat
  split <;> rfl

omit hg in
theorem State.get_heatJoin_free : (s.heatJoin u t).get g = s.get g := State.get_armHeat_free _ t _

theorem State.get_bankRejoin_free (b : Nat) : (s.bankRejoin b t).get g = s.get g := by
  unfold State.bankRejoin
  refine State.get_foldl_free s ?_ _
  intro y k
  dsimp only
  split
  · exact (State.get_heatJoin_free _ _ t).trans (State.get_setPhase_free hg y _ t _)
  · rfl

theorem State.get_enterOn_free : (s.enterOn u t).get g = s.get g := by
  unfold State.enterOn
  refine (State.get_setPhase_free hg _ u t _).trans (State.get_foldl_free s ?_ _)
  intro y v
  cases v <;> rfl

omit hg in
theorem State.get_mshEnlist_free : (s.mshEnlist u).get g = s.get g := by
  unfold State.mshEnlist
  split
  · rfl
  · dsimp only
    split <;> rfl

theorem State.get_patternBrake_free : (s.patternBrake u t).get g = s.get g := by
  unfold State.patternBrake
  split
  · exact (State.get_setPhase_free hg _ _ t _).trans ((State.get_hbOpen_free hg _ _).trans ((State.get_mshReleaseOf_free _ _).trans (State.get_endLimit_free hg s _)))
  · rfl

theorem State.get_startWait_free : (s.startWait u t).get g = s.get g := by
  unfold State.startWait
  dsimp only
  have hx : ((s.members (s.master u)).foldl (fun s v => s.quiet v) s).get g = s.get g := by
    refine State.get_foldl_free s ?_ _
    exact fun y v => State.get_quiet y v g
  generalize (s.members (s.master u)).foldl (fun s v => s.quiet v) s = x at hx ⊢
  have hw : ∀ m, (x.setPhase m .wait t).get g = s.get g := fun m => (State.get_setPhase_free hg x m t .wait).trans hx
  have hjoin : ∀ (y : State) (m : OutU), y.get g = s.get g → (if (y.out m).fs then (if (y.out m).fsWant then y.heatJoin m t else y) else y.mshEnlist u).get g = s.get g := by
    intro y m hy
    split
    · split
      · exact (State.get_heatJoin_free y m t).trans hy
      · exact hy
    · exact (State.get_mshEnlist_free y u).trans hy
  cases s.master u with
  | so n =>
    dsimp only
    split
    · exact (State.get_heatJoin_free _ _ t).trans (hw _)
    · exact (State.get_enterOn_free hg x _ t).trans hx
  | bank b => exact (State.get_bankRejoin_free hg _ t _).trans ((State.get_enterOn_free hg x _ t).trans hx)
  | hb n =>
    dsimp only
    split
    · split
      · exact (State.get_setPhase_free hg x _ t _).trans hx
      · split
        · exact (State.get_patternBrake_free hg x _ t).trans hx
        · exact (State.get_setPhase_free hg x _ t _).trans hx
    · split
      · exact (State.get_mshEnlist_free _ _).trans (hw _)
      · exact (State.get_setPhase_free hg x _ t _).trans hx
  | vd n =>
    dsimp only
    split
    · split
      · exact (State.get_heatJoin_free _ _ t).trans (hw _)
      · exact hw _
    · exact hw _
  | ls n => exact hjoin _ _ (hw _)
  | led n => exact hjoin _ _ (hw _)
  | row n => exact hjoin _ _ (hw _)
  | lf n => exact hjoin _ _ (hw _)

theorem State.get_deferGo_free : (s.deferGo u t).get g = s.get g := by
  unfold State.deferGo
  split
  · refine (State.get_startWait_free hg _ u t).trans ?_
    split
    · rfl
    · exact hg.put s u (by cases u <;> first | exact .inl ⟨rfl, rfl⟩ | exact .inr rfl) _
  · rfl

theorem State.get_bankOf_free : (s.bankOf u t).get g = s.get g := by
  unfold State.bankOf
  split
  · unfold State.bankCheck
    split
    · exact State.get_putPhase_free hg s _ _
    · rfl
  · rfl

theorem State.get_patternHb_free (m : OutU) (live : Bool) (p : Phase) (code : Nat) (x : State) :
    (match p with
      | .tripped | .deferred | .lockoff => x
      | _ => if code = 1 then (x.quiet m).patternBrake m t else if live then x.beginStop m t
          else if x.phase m = Phase.stopping then x else (x.quiet m).setPhase m .off t).get g = x.get g := by
  split
  · rfl
  · rfl
  · rfl
  · split
    · exact State.get_patternBrake_free hg _ m t
    · split
      · exact State.get_beginStop_free hg x m t
      · split
        · rfl
        · exact State.get_setPhase_free hg _ m t _

theorem State.get_patternOff_free (m : OutU) (x : State) :
    (match x.phase m with
      | .start | .on => x.beginStop m t
      | .wait | .bwait | .refused | .bankoff | .shorted => (x.setPhase m .off t).bankOf m t
      | _ => x).get g = x.get g := by
  have hoff : ((x.setPhase m .off t).bankOf m t).get g = x.get g := (State.get_bankOf_free hg _ m t).trans (State.get_setPhase_free hg x m t _)
  split
  · exact State.get_beginStop_free hg x m t
  · exact State.get_beginStop_free hg x m t
  · exact hoff
  · exact hoff
  · exact hoff
  · exact hoff
  · exact hoff
  · rfl

theorem State.get_fPend_free (m : OutU) (v : Nat) : (s.put (fPend m) v).get g = s.get g :=
  hg.put s m (by cases m <;> first | exact .inl ⟨rfl, rfl⟩ | exact .inr rfl) v

theorem State.get_patternOn_free (m : OutU) (x : State) :
    (match x.phase m with
      | .off | .wait | .bwait | .refused | .bankoff | .shorted => if x.latched m then x.enterDeferred m true t else x.startWait m t
      | .column => x
      | .deferred => x.deferGo m t
      | .stopping => x.put (fPend m) 1
      | _ => if (x.out m).stopping then x.put (fPend m) 1 else x).get g = x.get g := by
  have hgo : (if x.latched m then x.enterDeferred m true t else x.startWait m t).get g = x.get g := by
    split
    · exact State.get_enterDeferred_free hg x m t _
    · exact State.get_startWait_free hg x m t
  split
  · exact hgo
  · exact hgo
  · exact hgo
  · exact hgo
  · exact hgo
  · exact hgo
  · rfl
  · exact State.get_deferGo_free hg x m t
  · exact State.get_fPend_free hg x m 1
  · split
    · exact State.get_fPend_free hg x m 1
    · rfl

theorem State.get_patternTo_free (code : Nat) : (s.patternTo u code t).get g = s.get g := by
  unfold State.patternTo
  dsimp only
  have hx : ((s.members (s.master u)).foldl (fun s v => s.setOut v (fun o => { o with hold := decide (code = 2) })) s).get g = s.get g := by
    refine State.get_foldl_free s ?_ _
    exact fun _ _ => rfl
  generalize (s.members (s.master u)).foldl (fun s v => s.setOut v (fun o => { o with hold := decide (code = 2) })) s = x at hx ⊢
  generalize (s.phase (s.master u)).conducts = live
  rw [← hx]
  split
  · rfl
  · split
    · rfl
    · exact State.get_patternHb_free hg t _ live _ code _
  · split
    · split
      case h_5 => rfl
      all_goals exact State.get_setPhase_free hg _ _ t _
    · split
      · exact State.get_patternOn_free hg t _ _
      · have hp := State.get_fPend_free hg (x.setOut (s.master u) (fun o => { o with fsWant := false })) (s.master u) 0
        refine (State.get_patternOff_free hg t (s.master u) _).trans ?_
        exact hp

theorem State.get_diePattern_free (d : Nat) : (s.diePattern d t).get g = s.get g := by
  unfold State.diePattern
  refine State.get_foldl_free s ?_ _
  intro y v
  split
  · exact State.get_patternTo_free hg y v t _
  · rfl

omit hg in
theorem State.get_mshRemove_free : (s.mshRemove u).get g = s.get g := by
  unfold State.mshRemove
  split <;> rfl

theorem State.get_enterFs_free : (s.enterFs u).get g = s.get g := by
  unfold State.enterFs
  split
  · rfl
  · dsimp only
    have hx : ∀ f : OutSt → OutSt, ((((s.mshRemove u).disarm (.testPhase u)).setOut u f).put (fState u) (phaseCode u .failsafe)).get g = s.get g := fun f =>
      (hg.put _ u (.inl ⟨rfl, rfl⟩) _).trans (State.get_mshRemove_free s u)
    cases u with
    | ls n => exact (hg.put _ (.ls n) (f := LSW.FSACT n) (.inl ⟨rfl, rfl⟩) 1).trans (hx _)
    | _ => exact hx _

/-- A die that comes under its pattern writes the status words of its units. -/
theorem State.get_dieFailsafe_free (d : Nat) (f : DieSt → DieSt) : (s.dieFailsafe d t f).get g = s.get g := by
  unfold State.dieFailsafe
  dsimp only
  have hb : (((s.setDie d f).put (fFsBit d) 1)).get g = s.get g := State.get_put_apart _ _ _ _ (Or.inl (hg.fs d))
  split
  · rfl
  · refine (State.get_armHeat_free _ t d).trans ((State.get_diePattern_free hg _ t d).trans ((State.get_foldl_free _ ?_ _).trans hb))
    exact fun y v => State.get_enterFs_free hg y v

end

/-- The status word of the debug port is none of these. -/
theorem Fld.free_attached : Fld.Free DBG.ATTACHED where
  stat u := by
    cases u
    case lf => exact (show noFld.away DBG.ATTACHED by decide)
    all_goals exact (show _ ≠ _ from by unfold fState regKey; dsimp only; omega)
  none := by decide
  fs d := by
    unfold fFsBit
    split <;> decide
  sys := by decide
  book := by decide
  off := by decide

end Sys2Proof.Machine

namespace Sys2Proof.Machine

-- One declaration after another: each kernel evaluation beside others holds a thread's stack, and the whole text has one memory limit.
set_option Elab.async false

/-! Debug control (O57). -/

/-- The states that a reset passes before its registers are cleared leave the status word of the port. -/
theorem State.attached_safed (s : State) (t : Nat) (c : Prop) [Decidable c] :
    ((List.range 2).foldl (fun s d => s.dieFailsafe d t (fun x => { x with reset := true, safe := false, clus := false, replay := false }))
      (if c then s.yieldOnce 3 8 0 t else s)).get DBG.ATTACHED = s.get DBG.ATTACHED := by
  refine (State.get_foldl_free _ ?_ _).trans ?_
  · exact fun y d => State.get_dieFailsafe_free Fld.free_attached y t d _
  · split
    · exact State.get_yieldOnce _ _ _ _ _ (by decide) _ (by decide) (by decide) (by decide)
    · rfl

theorem warmFields_off : ∀ x ∈ warmFields, x.off < 0x1000 := by decide

theorem yieldFields_apart : ∀ x ∈ yieldFields, x.apart DBG.ATTACHED := by decide

/-- A debug reset leaves the port attached. -/
theorem State.assertReset_attached (s : State) (src t : Nat) : (s.assertReset causeDebug src t).get DBG.ATTACHED = s.get DBG.ATTACHED := by
  unfold State.assertReset
  simp only [show causeWake ≤ causeDebug by decide, show causeFcr ≤ causeDebug by decide, show ¬ causeDebug ≤ causeRpor by decide, show ¬ causeDebug = causeVpor by decide,
    true_and, if_true, if_false, decide_false, Bool.false_eq_true]
  have hs := s.attached_safed t (s.flag (Hdr.EN 0x40) = true)
  generalize (List.range 2).foldl (fun s d => s.dieFailsafe d t (fun x => { x with reset := true, safe := false, clus := false, replay := false }))
      (if s.flag (Hdr.EN 0x40) = true then s.yieldOnce 3 8 0 t else s) = old at hs ⊢
  rw [State.get_count_apart _ _ _ _ (by decide), State.get_put_apart _ _ _ _ (by decide), State.get_put_apart _ _ _ _ (by decide),
    State.get_put_apart _ _ _ _ (by decide), ← hs]
  exact (State.get_putBack_apart (old := old) yieldFields_apart).trans (State.get_putBack (l := warmFields) warmFields_off (by decide) (by decide))

/-! The port attaches. -/

/-- What an attachment leaves: the port attached, its event, and in DOZE with DBGEN a wake (R615, R650). -/
def State.Attached (s y : State) : Prop :=
  y.get DBG.ATTACHED = 1 ∧ (s.get DBG.ATTACHED = 0 → bitAt (y.get (Hdr.EVT 0x50)) 0 = true)
  ∧ (s.pwr.state = .doze ∧ s.get PWR.DBGEN = 1 → bitAt (y.get PWR.WAKEFLAG) 11 = true ∧ bitAt (y.get (Hdr.EVT 2)) 0 = true)
  ∧ (¬ (s.pwr.state = .doze ∧ s.get PWR.DBGEN = 1) → y.get PWR.WAKEFLAG = s.get PWR.WAKEFLAG)

section
variable {s y a b x : State} {t code : Nat}

theorem State.attached_or (s : State) : s.get DBG.ATTACHED = 0 ∨ s.get DBG.ATTACHED = 1 := by
  have := s.get_lt DBG.ATTACHED
  have h : DBG.ATTACHED.width = 1 := rfl
  rw [h] at this
  omega

theorem State.halted_or (s : State) : s.get DBG.HALTED = 0 ∨ s.get DBG.HALTED = 1 := by
  have := s.get_lt DBG.HALTED
  have h : DBG.HALTED.width = 1 := rfl
  rw [h] at this
  omega

/-- What follows an attachment without touching its words. -/
theorem State.Attached.mono (h : s.Attached a) (h1 : y.get DBG.ATTACHED = a.get DBG.ATTACHED)
    (h2 : bitAt (a.get (Hdr.EVT 0x50)) 0 = true → bitAt (y.get (Hdr.EVT 0x50)) 0 = true) (h3 : y.get PWR.WAKEFLAG = a.get PWR.WAKEFLAG)
    (h4 : y.get (Hdr.EVT 2) = a.get (Hdr.EVT 2)) : s.Attached y := by
  unfold State.Attached at h ⊢
  obtain ⟨k1, k2, k3, k4⟩ := h
  rw [h1, h3, h4]
  exact ⟨k1, fun h => h2 (k2 h), k3, k4⟩

/-- The wake of an attachment in DOZE writes the wake flags and their event alone. -/
theorem State.wakeSource_doze (h : s.pwr.state = .doze) (bit : Nat) : s.wakeSource bit = (s.setFlag PWR.WAKEFLAG bit).evt 0x02 0 := by
  unfold State.wakeSource
  rw [h]

theorem State.attachPort_shows (s : State) :
    s.Attached s.attachPort ∧ s.attachPort.tap = s.tap ∧ s.attachPort.pac = s.pac ∧ s.attachPort.stride = s.stride ∧ s.attachPort.boot = s.boot
      ∧ s.attachPort.nvBusy = s.nvBusy ∧ (∀ g : Fld, DBG.ATTACHED.apart g → (Hdr.EVT 0x50).apart g → PWR.WAKEFLAG.apart g → (Hdr.EVT 2).apart g → s.attachPort.get g = s.get g) := by
  unfold State.attachPort
  dsimp only
  obtain ⟨x, hx⟩ : ∃ x, x = if s.flag DBG.ATTACHED = true then s else (s.put DBG.ATTACHED 1).evt 0x50 0 := ⟨_, rfl⟩
  have hatt : x.get DBG.ATTACHED = 1 ∧ (s.get DBG.ATTACHED = 0 → bitAt (x.get (Hdr.EVT 0x50)) 0 = true)
      ∧ x.tap = s.tap ∧ x.pac = s.pac ∧ x.stride = s.stride ∧ x.boot = s.boot ∧ x.nvBusy = s.nvBusy ∧ x.pwr = s.pwr
      ∧ (∀ g : Fld, DBG.ATTACHED.apart g → (Hdr.EVT 0x50).apart g → x.get g = s.get g) := by
    rcases s.attached_or with h0 | h1
    · rw [if_neg (by rw [State.flag_iff]; exact not_not_intro h0)] at hx
      rw [hx]
      refine ⟨?_, fun _ => State.bitAt_evt_same _ _ (by decide), rfl, rfl, rfl, rfl, rfl, rfl, fun g h h' => ?_⟩
      · rw [State.get_evt _ _ _ (by decide), State.get_put_same _ _ _ (by decide)]
        decide
      · rw [State.get_evt _ _ _ h', State.get_put_apart _ _ _ _ h]
    · rw [if_pos (by rw [State.flag_iff, h1]; decide)] at hx
      rw [hx]
      exact ⟨h1, fun h => absurd h (by rw [h1]; decide), rfl, rfl, rfl, rfl, rfl, rfl, fun _ _ _ => rfl⟩
  obtain ⟨k1, k2, k3, k4, k5, k6, k7, k8, k9⟩ := hatt
  have hdb : x.flag PWR.DBGEN = true ↔ s.get PWR.DBGEN = 1 := by rw [State.flag_one_iff _ rfl, k9 _ (by decide) (by decide)]
  rw [← hx]
  clear hx
  by_cases hw : s.pwr.state = .doze ∧ s.get PWR.DBGEN = 1
  · rw [k8, if_pos ⟨hw.1, hdb.mpr hw.2⟩, State.wakeSource_doze (by rw [k8]; exact hw.1)]
    refine ⟨⟨?_, ?_, fun _ => ⟨?_, State.bitAt_evt_same _ _ (by decide)⟩, fun h => absurd hw h⟩, k3, k4, k5, k6, k7, fun g h1 h2 h3 h4 => ?_⟩
    · rw [State.get_evt _ _ _ (by decide)]
      exact (State.get_put_apart _ _ _ _ (by decide)).trans k1
    · intro h
      refine State.bitAt_evt_keeps ?_
      rw [State.setFlag, State.get_put_apart _ _ _ _ (by decide)]
      exact k2 h
    · rw [State.get_evt _ _ _ (by decide)]
      exact State.bitAt_setFlag_same _ (by decide) (by decide)
    · rw [State.get_evt _ _ _ h4]
      exact (State.get_put_apart _ _ _ _ h3).trans (k9 g h1 h2)
  · rw [k8, if_neg (fun h => hw ⟨h.1, hdb.mp h.2⟩)]
    exact ⟨⟨k1, k2, fun h => absurd h hw, fun _ => k9 _ (by decide) (by decide)⟩, k3, k4, k5, k6, k7, fun g h1 h2 _ _ => k9 g h1 h2⟩

theorem State.splitZero_attachPort (s : State) : s.attachPort.splitZero = s.splitZero := by
  unfold State.attachPort
  dsimp only
  have hw : ∀ y : State, y.splitZero = s.splitZero → (if y.pwr.state = .doze ∧ y.flag PWR.DBGEN = true then y.wakeSource 11 else y).splitZero = s.splitZero := by
    intro y hy
    split
    · exact State.wakeSource_keeps (P := fun y => y.splitZero = s.splitZero) (fun _ _ _ h => h) (fun _ _ h => h) hy 11
    · exact hy
  split
  · exact hw s rfl
  · exact hw _ rfl

/-! The Pacer runs on, and the port detaches. -/

/-- What a Pacer that runs on leaves (R651): one that was not halted is as before. -/
def State.Ran (s : State) (t : Nat) (y : State) : Prop :=
  y.get DBG.HALTED = 0
  ∧ (s.get DBG.HALTED = 1 → bitAt (y.get (Hdr.EVT 0x50)) 2 = true ∧ y.get DBG.CAUSE = 0 ∧ y.get DBG.STAT_CTX = 0 ∧ y.pac = { s.pac with stepping := false }
    ∧ (s.stride.suspended = none → y.stride = s.stride)
    ∧ (∀ h, s.stride.suspended = some h → y.stride = { s.stride with
        suspended := none, base := s.stride.base + (s.splitAt t - s.splitAt h), nextTick := s.splitAt t + s.get STR.LENACT,
        bridging := false, bridgeStep := false, newLen := none }))
  ∧ (s.get DBG.HALTED = 0 → y.pac = s.pac ∧ y.stride = s.stride)

theorem State.Ran.of_same (hh : b.get DBG.HALTED = s.get DBG.HALTED) (hpac : b.pac = s.pac) (hstr : b.stride = s.stride) (hz : b.splitZero = s.splitZero)
    (hlen : b.get STR.LENACT = s.get STR.LENACT) (h : b.Ran t y) : s.Ran t y := by
  unfold State.Ran State.splitAt at h ⊢
  rw [hh, hpac, hstr, hz, hlen] at h
  exact h

theorem State.resumePacer_shows (s : State) (t : Nat) :
    s.Ran t (s.resumePacer t) ∧ (s.resumePacer t).tap = s.tap
      ∧ (bitAt (s.get (Hdr.EVT 0x50)) 0 = true → bitAt ((s.resumePacer t).get (Hdr.EVT 0x50)) 0 = true)
      ∧ (bitAt (s.get (Hdr.EVT 0x50)) 1 = true → bitAt ((s.resumePacer t).get (Hdr.EVT 0x50)) 1 = true)
      ∧ (∀ g : Fld, DBG.HALTED.apart g → DBG.CAUSE.apart g → DBG.STAT_CTX.apart g → (Hdr.EVT 0x50).apart g → (s.resumePacer t).get g = s.get g) := by
  unfold State.resumePacer
  rcases s.halted_or with h0 | h1
  · rw [if_pos (by rw [State.flag_iff]; exact not_not_intro h0)]
    exact ⟨⟨h0, fun h => absurd h (by rw [h0]; decide), fun _ => ⟨rfl, rfl⟩⟩, rfl, id, id, fun _ _ _ _ _ => rfl⟩
  · rw [if_neg (by rw [State.flag_iff]; exact not_not_intro (by rw [h1]; decide))]
    dsimp only
    obtain ⟨x, hx⟩ : ∃ x, x = (((({ s with pac := { s.pac with stepping := false } } : State).put DBG.HALTED 0).put DBG.CAUSE 0).put DBG.STAT_CTX 0).evt 0x50 2 := ⟨_, rfl⟩
    have hget : ∀ g : Fld, DBG.HALTED.apart g → DBG.CAUSE.apart g → DBG.STAT_CTX.apart g → (Hdr.EVT 0x50).apart g → x.get g = s.get g := by
      intro g k1 k2 k3 k4
      rw [hx, State.get_evt _ _ _ k4, State.get_put_apart _ _ _ _ k3, State.get_put_apart _ _ _ _ k2, State.get_put_apart _ _ _ _ k1]
      rfl
    have hhal : x.get DBG.HALTED = 0 := by
      rw [hx, State.get_evt _ _ _ (by decide), State.get_put_apart _ _ _ _ (by decide), State.get_put_apart _ _ _ _ (by decide), State.get_put_same _ _ _ (by decide)]
      decide
    have hcau : x.get DBG.CAUSE = 0 := by
      rw [hx, State.get_evt _ _ _ (by decide), State.get_put_apart _ _ _ _ (by decide), State.get_put_same _ _ _ (by decide)]
      decide
    have hctx : x.get DBG.STAT_CTX = 0 := by
      rw [hx, State.get_evt _ _ _ (by decide), State.get_put_same _ _ _ (by decide)]
      decide
    have hevt : bitAt (x.get (Hdr.EVT 0x50)) 2 = true := by rw [hx]; exact State.bitAt_evt_same _ _ (by decide)
    have hkeep : ∀ i, bitAt (s.get (Hdr.EVT 0x50)) i = true → bitAt (x.get (Hdr.EVT 0x50)) i = true := by
      intro i hi
      rw [hx]
      refine State.bitAt_evt_keeps ?_
      rw [State.get_put_apart _ _ _ _ (by decide), State.get_put_apart _ _ _ _ (by decide), State.get_put_apart _ _ _ _ (by decide)]
      exact hi
    have hpac : x.pac = { s.pac with stepping := false } := by rw [hx]; rfl
    have hstr : x.stride = s.stride := by rw [hx]; rfl
    have hz : ∀ q, x.splitAt q = s.splitAt q := by rw [hx]; exact fun _ => rfl
    have htap : x.tap = s.tap := by rw [hx]; rfl
    have hlen := hget STR.LENACT (by decide) (by decide) (by decide) (by decide)
    rw [← hx, hstr]
    clear hx
    cases hsu : s.stride.suspended with
    | none =>
      exact ⟨⟨hhal, fun _ => ⟨hevt, hcau, hctx, hpac, fun _ => hstr, fun h hs => absurd hs (by rw [hsu]; simp)⟩, fun h => absurd h (by rw [h1]; decide)⟩, htap,
        hkeep 0, hkeep 1, hget⟩
    | some q =>
      refine ⟨⟨hhal, fun _ => ⟨hevt, hcau, hctx, hpac, fun h => absurd h (by rw [hsu]; simp), fun h hs => ?_⟩, fun h => absurd h (by rw [h1]; decide)⟩, htap,
        hkeep 0, hkeep 1, hget⟩
      obtain rfl : q = h := by rw [hsu] at hs; simpa using hs
      dsimp only [State.setStride]
      rw [hstr, hz, hz, hlen]

/-- What a detachment leaves (R650). -/
def State.Detached (s : State) (t : Nat) (y : State) : Prop :=
  y.get DBG.ATTACHED = 0 ∧ (s.get DBG.ATTACHED = 1 → bitAt (y.get (Hdr.EVT 0x50)) 1 = true ∧ s.Ran t y) ∧ (s.get DBG.ATTACHED = 0 → y.regs = s.regs ∧ y.pac = s.pac)

theorem State.detachPort_shows (s : State) (t : Nat) : s.Detached t (s.detachPort t) ∧ (s.detachPort t).tap = s.tap := by
  unfold State.detachPort
  rcases s.attached_or with h0 | h1
  · rw [if_neg (by rw [State.flag_iff]; exact not_not_intro h0)]
    exact ⟨⟨h0, fun h => absurd h (by rw [h0]; decide), fun _ => ⟨rfl, rfl⟩⟩, rfl⟩
  · rw [if_pos (by rw [State.flag_iff, h1]; decide)]
    obtain ⟨x, hx⟩ : ∃ x, x = (s.put DBG.ATTACHED 0).evt 0x50 1 := ⟨_, rfl⟩
    have hget : ∀ g : Fld, DBG.ATTACHED.apart g → (Hdr.EVT 0x50).apart g → x.get g = s.get g := by
      intro g k1 k2
      rw [hx, State.get_evt _ _ _ k2, State.get_put_apart _ _ _ _ k1]
    have hatt : x.get DBG.ATTACHED = 0 := by
      rw [hx, State.get_evt _ _ _ (by decide), State.get_put_same _ _ _ (by decide)]
      decide
    have hevt : bitAt (x.get (Hdr.EVT 0x50)) 1 = true := by rw [hx]; exact State.bitAt_evt_same _ _ (by decide)
    have hpac : x.pac = s.pac := by rw [hx]; rfl
    have hstr : x.stride = s.stride := by rw [hx]; rfl
    have hz : x.splitZero = s.splitZero := by rw [hx]; rfl
    have htap : x.tap = s.tap := by rw [hx]; rfl
    obtain ⟨hran, htap', -, hevt', hget'⟩ := x.resumePacer_shows t
    rw [← hx]
    refine ⟨⟨(hget' _ (by decide) (by decide) (by decide) (by decide)).trans hatt, fun _ => ⟨hevt' hevt, ?_⟩, fun h => absurd h (by rw [h1]; decide)⟩, htap'.trans htap⟩
    exact hran.of_same (hget _ (by decide) (by decide)) hpac hstr hz (hget _ (by decide) (by decide))

/-! The commands of DCTL. -/

theorem State.dctl_open (hl : s.portLives = true) (hf : s.boot.field = false) (att : Bool) (t : Nat) (f : State → State) :
    s.dctl att t f = if att = true then f (s.tapSel t 0x21).attachPort else (s.tapSel t 0x21).detachPort t := by
  unfold State.dctl
  rw [State.tapRun_open hl (.inl hf), if_neg (by rw [State.debugOpen_tapSel, hf]; simp)]

theorem State.dctl_field (hl : s.portLives = true) (hf : ¬ s.boot.field = false) (att : Bool) (t : Nat) (f : State → State) : s.dctl att t f = s.tapSel t 0x3F := by
  unfold State.dctl
  rw [State.tapRun_field hl hf (by decide), if_pos (by simpa [State.debugOpen_tapSel] using hf)]

theorem State.dctl_dead (hl : ¬ s.portLives = true) (att : Bool) (t : Nat) (f : State → State) : s.dctl att t f = s.reach t := State.tapRun_dead hl _ _ _

/-- A write of DCTL with ATTACH 0 detaches the port, whatever it commands. -/
theorem State.dctl_detaches (hl : s.portLives = true) (hf : s.boot.field = false) (t : Nat) (f : State → State) :
    (s.dctl false t f).tap = (s.tapSel t 0x21).tap ∧ s.Detached t (s.dctl false t f) := by
  rw [State.dctl_open hl hf, if_neg (by decide)]
  obtain ⟨h1, h2⟩ := (s.tapSel t 0x21).detachPort_shows t
  exact ⟨h2, h1⟩

/-- The Pacer halts (R651). -/
theorem State.haltIn_shows (s : State) (cause t : Nat) (hc : cause < 8) :
    let x := s.ctx s.stride.started
    let y := s.haltIn s.stride.started cause t
    y.get DBG.HALTED = 1 ∧ y.get DBG.CAUSE = cause ∧ y.get DBG.HALTPC = x.pc % 2 ^ 32
      ∧ y.get DBG.STAT_CTX = b2n s.stride.started ∧ y.get DBG.HALTCNT = min (s.get DBG.HALTCNT + 1) (2 ^ 32 - 1)
      ∧ y.stride = { s.stride with suspended := if s.get (Hdr.FRZ 0x09) = 1 then some t else s.stride.suspended }
      ∧ (∀ g : Fld, DBG.HALTED.apart g → DBG.STAT_CTX.apart g → DBG.CAUSE.apart g → DBG.HALTCNT.apart g → DBG.HALTPC.apart g → y.get g = s.get g) := by
  dsimp only
  unfold State.haltIn State.pacHalt
  dsimp only
  have hpc : (({ s with pac := { s.pac with stepping := false, passPc := none } } : State).ctx (s.stride.started && s.stride.started)).pc = (s.ctx s.stride.started).pc := by
    rw [Bool.and_self]
    rfl
  rw [hpc, Bool.and_self]
  generalize (s.ctx s.stride.started).pc = pc
  obtain ⟨x, hx⟩ : ∃ x, x = ((((({ s with pac := { s.pac with stepping := false, passPc := none } } : State).put DBG.HALTED 1).put DBG.STAT_CTX (b2n s.stride.started)).put DBG.CAUSE cause).count
      DBG.HALTCNT).put DBG.HALTPC pc := ⟨_, rfl⟩
  have hget : ∀ g : Fld, DBG.HALTED.apart g → DBG.STAT_CTX.apart g → DBG.CAUSE.apart g → DBG.HALTCNT.apart g → DBG.HALTPC.apart g → x.get g = s.get g := by
    intro g k1 k2 k3 k4 k5
    rw [hx, State.get_put_apart _ _ _ _ k5, State.get_count_apart _ _ _ _ k4, State.get_put_apart _ _ _ _ k3, State.get_put_apart _ _ _ _ k2, State.get_put_apart _ _ _ _ k1]
    rfl
  have hhal : x.get DBG.HALTED = 1 := by
    rw [hx, State.get_put_apart _ _ _ _ (by decide), State.get_count_apart _ _ _ _ (by decide), State.get_put_apart _ _ _ _ (by decide),
      State.get_put_apart _ _ _ _ (by decide), State.get_put_same _ _ _ (by decide)]
    decide
  have hcau : x.get DBG.CAUSE = cause := by
    rw [hx, State.get_put_apart _ _ _ _ (by decide), State.get_count_apart _ _ _ _ (by decide), State.get_put_same _ _ _ (by decide)]
    exact Nat.mod_eq_of_lt hc
  have hctx : x.get DBG.STAT_CTX = b2n s.stride.started := by
    rw [hx, State.get_put_apart _ _ _ _ (by decide), State.get_count_apart _ _ _ _ (by decide), State.get_put_apart _ _ _ _ (by decide), State.get_put_same _ _ _ (by decide)]
    exact b2n_mod_two _
  have hcnt : x.get DBG.HALTCNT = min (s.get DBG.HALTCNT + 1) (2 ^ 32 - 1) := by
    rw [hx, State.get_put_apart _ _ _ _ (by decide), State.get_count_same _ _ _ (by decide), State.get_put_apart _ _ _ _ (by decide),
      State.get_put_apart _ _ _ _ (by decide), State.get_put_apart _ _ _ _ (by decide)]
    rfl
  have hpc' : x.get DBG.HALTPC = pc % 2 ^ 32 := by
    rw [hx]
    exact State.get_put_same _ _ _ (by decide)
  have hstr : x.stride = s.stride := by rw [hx]; rfl
  have hfrz : x.flag (Hdr.FRZ 0x09) = true ↔ s.get (Hdr.FRZ 0x09) = 1 := by
    rw [State.flag_one_iff _ rfl, hget _ (by decide) (by decide) (by decide) (by decide) (by decide)]
  rw [← hx]
  clear hx
  by_cases hf : s.get (Hdr.FRZ 0x09) = 1
  · rw [show ({ x with pac := { x.pac with haltAt := t } } : State).flag (Hdr.FRZ 0x09) = x.flag (Hdr.FRZ 0x09) from rfl, if_pos (hfrz.mpr hf), if_pos hf]
    refine ⟨hhal, hcau, hpc', hctx, hcnt, ?_, hget⟩
    rw [← hstr]
  · rw [show ({ x with pac := { x.pac with haltAt := t } } : State).flag (Hdr.FRZ 0x09) = x.flag (Hdr.FRZ 0x09) from rfl, if_neg (fun h => hf (hfrz.mp h)), if_neg hf]
    exact ⟨hhal, hcau, hpc', hctx, hcnt, hstr, hget⟩

end
/-- HALT of an attached port (R651). -/
theorem execHalt_attached {s : State} (hl : s.portLives = true) (hf : s.boot.field = false) (t : Nat) :
    ∃ y, exec (.halt t true) s = .next y ∧ s.Attached y
      ∧ (s.get DBG.HALTED = 1 ∨ s.boot.phase ≠ .done → y.pac = s.pac ∧ y.stride = s.stride ∧ y.get DBG.HALTED = s.get DBG.HALTED)
      ∧ (s.get DBG.HALTED = 0 → s.boot.phase = .done → y.get DBG.HALTED = 1 ∧ y.get DBG.CAUSE = 1 ∧ y.get DBG.HALTPC = (s.ctx s.stride.started).pc % 2 ^ 32
        ∧ y.get DBG.STAT_CTX = b2n s.stride.started ∧ y.get DBG.HALTCNT = min (s.get DBG.HALTCNT + 1) (2 ^ 32 - 1)
        ∧ y.stride = { s.stride with suspended := if s.get (Hdr.FRZ 0x09) = 1 then some t else s.stride.suspended }) := by
  obtain ⟨hatt, -, hpac, hstr, hboot, -, hget⟩ := (s.tapSel t 0x21).attachPort_shows
  have hrun : exec (.halt t true) s = .next (s.dctl true t (fun s => if s.flag DBG.HALTED ∨ s.boot.phase ≠ .done then s else s.haltIn s.stride.started 1 t)) := rfl
  rw [State.dctl_open hl hf, if_pos rfl] at hrun
  generalize (s.tapSel t 0x21).attachPort = a at hatt hpac hstr hboot hget hrun
  have hh : a.get DBG.HALTED = s.get DBG.HALTED := hget _ (by decide) (by decide) (by decide) (by decide)
  refine ⟨_, hrun, ?_⟩
  by_cases hc : s.get DBG.HALTED = 1 ∨ s.boot.phase ≠ .done
  · rw [if_pos (hc.imp (fun h => by rw [State.flag_iff, hh, h]; decide) (fun h => by rw [hboot]; exact h))]
    refine ⟨hatt, fun _ => ⟨hpac, hstr, hh⟩, fun h0 h1 => ?_⟩
    rcases hc with hc | hc
    · exact absurd h0 (by rw [hc]; decide)
    · exact absurd h1 hc
  · have hno : ¬ (a.flag DBG.HALTED = true ∨ a.boot.phase ≠ .done) := by
      rintro (h | h)
      · exact hc (.inl (hh ▸ (State.flag_one_iff _ rfl).mp h))
      · exact hc (.inr (by rw [hboot] at h; exact h))
    rw [if_neg hno]
    obtain ⟨k1, k2, k3, k4, k5, k6, k7⟩ := a.haltIn_shows 1 t (by decide)
    rw [show a.ctx a.stride.started = s.ctx s.stride.started by unfold State.ctx; rw [hpac, hstr]; rfl] at k3
    rw [hstr] at k4
    rw [hget DBG.HALTCNT (by decide) (by decide) (by decide) (by decide)] at k5
    have hfrz := hget (Hdr.FRZ 0x09) (by decide) (by decide) (by decide) (by decide)
    refine ⟨State.Attached.mono hatt (k7 _ (by decide) (by decide) (by decide) (by decide) (by decide)) ?_ (k7 _ (by decide) (by decide) (by decide) (by decide) (by decide))
      (k7 _ (by decide) (by decide) (by decide) (by decide) (by decide)), fun h => absurd h hc, fun _ _ => ⟨k1, k2, k3, hstr ▸ k4, k5, k6.trans (by rw [hstr, hfrz]; rfl)⟩⟩
    rw [k7 (Hdr.EVT 0x50) (by decide) (by decide) (by decide) (by decide) (by decide)]
    exact id

theorem execResume_attached {s : State} (hl : s.portLives = true) (hf : s.boot.field = false) (t : Nat) :
    ∃ y, exec (.resume t true) s = .next y ∧ s.Attached y ∧ s.Ran t y := by
  obtain ⟨hatt, -, hpac, hstr, -, -, hget⟩ := (s.tapSel t 0x21).attachPort_shows
  have hz : (s.tapSel t 0x21).attachPort.splitZero = s.splitZero := State.splitZero_attachPort _
  have hrun : exec (.resume t true) s = .next (s.dctl true t (fun s => s.resumePacer t)) := rfl
  rw [State.dctl_open hl hf, if_pos rfl] at hrun
  generalize (s.tapSel t 0x21).attachPort = a at hatt hpac hstr hget hrun hz
  obtain ⟨hran, -, hevt, -, hother⟩ := a.resumePacer_shows t
  refine ⟨_, hrun, State.Attached.mono hatt (hother _ (by decide) (by decide) (by decide) (by decide)) hevt (hother _ (by decide) (by decide) (by decide) (by decide))
    (hother _ (by decide) (by decide) (by decide) (by decide)), ?_⟩
  exact hran.of_same (hget _ (by decide) (by decide) (by decide) (by decide)) hpac hstr hz (hget _ (by decide) (by decide) (by decide) (by decide))

theorem execStep_attached {s : State} (hl : s.portLives = true) (hf : s.boot.field = false) (t : Nat) :
    ∃ y, exec (.step t true) s = .next y ∧ s.Attached y ∧ y.stride = s.stride ∧ y.get DBG.HALTED = s.get DBG.HALTED
      ∧ (s.get DBG.HALTED = 0 → y.pac = s.pac)
      ∧ (s.get DBG.HALTED = 1 → y.pac = { s.pac with stepping := true, passPc := some (s.ctx (decide (s.get DBG.STAT_CTX = 1))).pc }) := by
  obtain ⟨hatt, -, hpac, hstr, -, -, hget⟩ := (s.tapSel t 0x21).attachPort_shows
  have hrun : exec (.step t true) s = .next (s.dctl true t (fun s =>
      if s.flag DBG.HALTED then { s with pac := { s.pac with stepping := true, passPc := some (s.ctx (s.flag DBG.STAT_CTX)).pc } } else s)) := rfl
  rw [State.dctl_open hl hf, if_pos rfl] at hrun
  generalize (s.tapSel t 0x21).attachPort = a at hatt hpac hstr hget hrun
  have hh : a.get DBG.HALTED = s.get DBG.HALTED := hget _ (by decide) (by decide) (by decide) (by decide)
  refine ⟨_, hrun, ?_⟩
  rcases s.halted_or with h0 | h1
  · rw [if_neg (by rw [State.flag_iff, hh]; exact not_not_intro h0)]
    exact ⟨hatt, hstr, hh, fun _ => hpac, fun h => absurd h (by rw [h0]; decide)⟩
  · rw [if_pos (by rw [State.flag_iff, hh, h1]; decide)]
    refine ⟨hatt, hstr, hh, fun h => absurd h (by rw [h1]; decide), fun _ => ?_⟩
    have hctx : a.flag DBG.STAT_CTX = decide (s.get DBG.STAT_CTX = 1) := by
      rw [Bool.eq_iff_iff, State.flag_one_iff _ rfl, decide_eq_true_iff, hget _ (by decide) (by decide) (by decide) (by decide)]
      rfl
    have hpc : a.ctx (a.flag DBG.STAT_CTX) = s.ctx (decide (s.get DBG.STAT_CTX = 1)) := by
      unfold State.ctx
      rw [hctx, hpac]
      rfl
    dsimp only
    rw [hpc, hpac]
    rfl

theorem exec_debugReset (s : State) (t : Nat) (att : Bool) :
    exec (.debugReset t att) s = .next (s.dctl att t (fun s => s.deviceReset causeDebug 0 t)) := rfl

theorem exec_dstat (s : State) (t : Nat) : exec (.dstat t) s = .next (s.tapRun 0x22 t (fun s =>
    if s.debugOpen then
      let v := s.get DBG.ATTACHED + 2 * s.get DBG.HALTED + 4 * s.get DBG.STAT_CTX + 8 * s.get DBG.CAUSE + 64 * s.get DBG.BP
        + 256 * b2n (decide (s.boot.phase ≠ .done)) + 512 * s.get STR.RPLCTRL_EN + 1024 * s.get BOOT.RECOVERY
      s.setTap (fun r => { r with out := v })
    else s)) := rfl

/-- DEBUG_RESET of an attached port, with no program of NV in progress (R653). -/
theorem execDebugReset_now {s : State} (hl : s.portLives = true) (hf : s.boot.field = false) (t : Nat) (hn : s.nvBusy = false) :
    ∃ y, exec (.debugReset t true) s = .next y ∧ y.get BOOT.CAUSE = causeDebug ∧ y.boot.phase = .held ∧ y.due .resetHold = some (t + us 2) ∧ y.get DBG.ATTACHED = 1 := by
  obtain ⟨hatt, -, -, -, -, hnv, -⟩ := (s.tapSel t 0x21).attachPort_shows
  have hrun := exec_debugReset s t true
  rw [State.dctl_open hl hf, if_pos rfl] at hrun
  generalize (s.tapSel t 0x21).attachPort = a at hatt hnv hrun
  rw [State.deviceReset_free _ (by decide) (hnv.trans hn)] at hrun
  obtain ⟨hatt1, -⟩ := hatt
  have hphase := State.phase_assertReset a causeDebug 0 t
  have hcause := State.get_assertReset_cause a (cause := causeDebug) (by decide) 0 t
  have hleft := (State.assertReset_attached a 0 t).trans hatt1
  generalize a.assertReset causeDebug 0 t = y at hphase hcause hleft hrun
  exact ⟨_, hrun, (State.get_arm _ _ _ _).trans hcause, (congrArg BootSt.phase (State.arm_boot _ _ _)).trans hphase, State.due_arm_same _ _ _, (State.get_arm _ _ _ _).trans hleft⟩

/-- DEBUG_RESET while a program of NV is in progress: it waits (R636). -/
theorem execDebugReset_waits {s : State} (hl : s.portLives = true) (hf : s.boot.field = false) (t : Nat) (hn : s.nvBusy = true) :
    ∃ y, exec (.debugReset t true) s = .next y ∧ s.Attached y ∧ y.boot = { s.boot with want := some (s.boot.want.getD (causeDebug, 0)) } := by
  obtain ⟨hatt, -, -, -, hboot, hnv, -⟩ := (s.tapSel t 0x21).attachPort_shows
  have hrun := exec_debugReset s t true
  rw [State.dctl_open hl hf, if_pos rfl] at hrun
  generalize (s.tapSel t 0x21).attachPort = a at hatt hboot hnv hrun
  rw [State.deviceReset_busy _ (by decide) (hnv.trans hn)] at hrun
  refine ⟨_, hrun, hatt, ?_⟩
  dsimp only
  rw [hboot]
  rfl

/-- DSTAT captures the status (R650). -/
theorem execDstat_open {s : State} (hl : s.portLives = true) (hf : s.boot.field = false) (t : Nat) :
    exec (.dstat t) s = .next { s.tapSel t 0x22 with tap := { (s.tapSel t 0x22).tap with
      out := s.get DBG.ATTACHED + 2 * s.get DBG.HALTED + 4 * s.get DBG.STAT_CTX + 8 * s.get DBG.CAUSE + 64 * s.get DBG.BP
        + (if s.boot.phase = .done then 0 else 256) + 512 * s.get STR.RPLCTRL_EN + 1024 * s.get BOOT.RECOVERY } } := by
  have hb : 256 * b2n (decide ((s.tapSel t 0x22).boot.phase ≠ .done)) = if s.boot.phase = .done then 0 else 256 := by
    by_cases h : s.boot.phase = .done
    · rw [if_pos h, show (s.tapSel t 0x22).boot.phase = s.boot.phase from rfl, h]
      rfl
    · rw [if_neg h, show (s.tapSel t 0x22).boot.phase = s.boot.phase from rfl, decide_eq_true h]
      rfl
  rw [exec_dstat, State.tapRun_open hl (.inl hf), if_pos (by rw [State.debugOpen_tapSel, hf]; rfl)]
  dsimp only
  rw [hb]
  rfl

/-- Settles O57: a port with a supply in the Factory state attaches or detaches, and then commands the Pacer or resets the device. -/
theorem debugControlActs : Obligations.DebugControlActs := by
  unfold Obligations.DebugControlActs
  intro s t
  refine ⟨fun hl => ⟨⟨_, rfl, ?_⟩, ⟨_, rfl, ?_⟩⟩, fun hl hf => ?fact, fun hl hf att => ?field, fun hl att => ?dead, fun hp => ?park⟩
  · exact State.tapRun_open hl (.inr rfl) t _
  · rw [State.tapRun_open hl (.inr rfl)]
    obtain ⟨h1, h2⟩ := (s.tapSel t 2).detachPort_shows t
    exact ⟨h2, h1⟩
  case fact =>
    refine ⟨fun hp => ⟨_, congrArg Host.Outcome.next (if_neg hp), ?_⟩, fun hp => ⟨_, congrArg Host.Outcome.next (if_neg hp), State.dctl_detaches hl hf t _⟩,
      ⟨_, rfl, State.dctl_detaches hl hf t _⟩, ⟨_, rfl, State.dctl_detaches hl hf t _⟩, ⟨_, rfl, State.dctl_detaches hl hf t _⟩,
      ⟨_, rfl, State.dctl_detaches hl hf t _⟩, execHalt_attached hl hf t, execResume_attached hl hf t, execStep_attached hl hf t,
      execDebugReset_now hl hf t, execDebugReset_waits hl hf t, ⟨_, execDstat_open hl hf t, rfl⟩⟩
    · rw [State.dctl_open hl hf, if_pos rfl]
      obtain ⟨hatt, htap, hpac, hstr, -⟩ := (s.tapSel t 0x21).attachPort_shows
      exact ⟨htap, hatt, hpac, hstr⟩
  case field =>
    refine ⟨fun hp => ⟨_, congrArg Host.Outcome.next (if_neg hp), State.dctl_field hl hf _ _ _⟩, ⟨_, rfl, State.dctl_field hl hf _ _ _⟩, ⟨_, rfl, State.dctl_field hl hf _ _ _⟩,
      ⟨_, rfl, State.dctl_field hl hf _ _ _⟩, ⟨_, rfl, State.dctl_field hl hf _ _ _⟩, ⟨_, rfl, ?_⟩⟩
    rw [State.tapRun_field hl hf (by decide)]
    exact if_neg (by simpa [State.debugOpen_tapSel] using hf)
  case dead =>
    exact ⟨fun hp => ⟨_, congrArg Host.Outcome.next (if_neg hp), State.dctl_dead hl _ _ _⟩, ⟨_, rfl, State.dctl_dead hl _ _ _⟩, ⟨_, rfl, State.dctl_dead hl _ _ _⟩,
      ⟨_, rfl, State.dctl_dead hl _ _ _⟩, ⟨_, rfl, State.dctl_dead hl _ _ _⟩, ⟨_, rfl, State.tapRun_dead hl _ _ _⟩, ⟨_, rfl, State.tapRun_dead hl _ _ _⟩⟩
  case park =>
    have hrun : ∀ on, exec (.attach t on) s = .next (if (on && s.flag PWR.DBGEN && s.debugOpen) = true then (s.reach t).wakeSource 11 else s.reach t) := fun on =>
      congrArg Host.Outcome.next (if_pos hp)
    refine ⟨fun hd hf => ⟨_, hrun true, ?_⟩, fun h => ⟨_, hrun true, ?_⟩, ⟨_, hrun false, rfl⟩⟩
    · have hopen : s.debugOpen = true := by unfold State.debugOpen; rw [hf]; rfl
      rw [if_pos (by rw [(State.flag_one_iff _ rfl).mpr hd, hopen]; rfl)]
      unfold State.wakeSource
      rw [State.reach_pwr, hp]
    · refine if_neg ?_
      rw [Bool.true_and, Bool.and_eq_true]
      rintro ⟨h1, h2⟩
      rcases h with h | h
      · exact absurd ((State.flag_one_iff _ rfl).mp h1) (by rw [h]; decide)
      · exact h (by simpa [State.debugOpen] using h2)

end Sys2Proof.Machine

namespace Sys2Proof.Machine

-- One declaration after another: each kernel evaluation beside others holds a thread's stack, and the whole text has one memory limit.
set_option Elab.async false

/-! Supplies: their monitors, the validity of VBAT and the Marshal's view of it (O53). -/

theorem find?_del {α : Type} {k j : Nat} (h : k ≠ j) : ∀ m : Sparse α, (del k m).find? (fun e => decide (e.1 = j)) = m.find? (fun e => decide (e.1 = j))
  | [] => rfl
  | (a, v) :: r => by
    have ih := find?_del h r
    unfold del at ih ⊢
    by_cases hk : a = k
    · rw [List.filter_cons_of_neg (by simpa using hk), ih, List.find?_cons_of_neg (by simpa using fun e : a = j => h (hk ▸ e))]
    · rw [List.filter_cons_of_pos (by simpa using hk), List.find?_cons, List.find?_cons, ih]

theorem find?_ins {α : Type} {k j : Nat} (h : k ≠ j) (v : α) : ∀ m : Sparse α, (ins k v m).find? (fun e => decide (e.1 = j)) = m.find? (fun e => decide (e.1 = j))
  | [] => List.find?_cons_of_neg (by simpa using h)
  | (a, w) :: r => by
    have ih := find?_ins h v r
    unfold ins
    split
    · exact List.find?_cons_of_neg (by simpa using h)
    · split
      case isTrue ha =>
        rw [List.find?_cons_of_neg (by simpa using h), List.find?_cons_of_neg (by simpa using fun e : a = j => h (ha ▸ e))]
      case isFalse => rw [List.find?_cons, List.find?_cons, ih]

/-- The words that the supplies and the Marshal show. -/
abbrev Fld.watched (g : Fld) : Prop := (g.page = 3 ∨ g.page = 0x0C) ∧ g.off < 4096

/-- From `s` to `y` only bits or fields `bits` of watched words, events of page 3, runs `ks` of the filters and detections have changed. -/
structure State.Metered (bits : List (Fld × Option Nat)) (ks : List Nat) (s y : State) : Prop where
  bit : ∀ g : Fld, g.watched → ∀ i, (∀ e ∈ bits, e.1.apart g ∨ (e.1 = g ∧ ∃ j, e.2 = some j ∧ j ≠ i)) → (Hdr.EVT 3).apart g → bitAt (y.get g) i = bitAt (s.get g) i
  evt : ∀ i, bitAt (s.get (Hdr.EVT 3)) i = true → bitAt (y.get (Hdr.EVT 3)) i = true
  inbox : ∀ e ∈ s.fcr.inbox, e ∈ y.fcr.inbox
  runs : ∀ k, k ∉ ks → y.sup.runs.find? (fun e => decide (e.1 = k)) = s.sup.runs.find? (fun e => decide (e.1 = k))
  msh : y.msh = s.msh
  timers : y.timers = s.timers

section
variable {s x y z : State} {bits bits' : List (Fld × Option Nat)} {ks ks' : List Nat} {t : Nat} {f : Fld}

/-- Fields read alike where their bits do. -/
theorem State.get_of_bits {g : Fld} (h : ∀ i, bitAt (y.get g) i = bitAt (s.get g) i) : y.get g = s.get g := Nat.eq_of_testBit_eq h

theorem State.Metered.get (h : s.Metered bits ks y) {g : Fld} (hg : g.watched) (ha : ∀ e ∈ bits, e.1.apart g) (he : (Hdr.EVT 3).apart g) : y.get g = s.get g :=
  State.get_of_bits (fun i => h.bit g hg i (fun e hm => .inl (ha e hm)) he)

theorem State.Metered.refl (s : State) : s.Metered [] [] s := ⟨fun _ _ _ _ _ => rfl, fun _ h => h, fun _ h => h, fun _ _ => rfl, rfl, rfl⟩

theorem State.Metered.trans (h : s.Metered bits ks x) (h' : x.Metered bits' ks' y) : s.Metered (bits ++ bits') (ks ++ ks') y where
  bit g hg i ha he := (h'.bit g hg i (fun e hm => ha e (List.mem_append_right _ hm)) he).trans (h.bit g hg i (fun e hm => ha e (List.mem_append_left _ hm)) he)
  evt i hi := h'.evt i (h.evt i hi)
  inbox e he := h'.inbox e (h.inbox e he)
  runs k hk := (h'.runs k (fun hm => hk (List.mem_append_right _ hm))).trans (h.runs k (fun hm => hk (List.mem_append_left _ hm)))
  msh := h'.msh.trans h.msh
  timers := h'.timers.trans h.timers

/-- A write of one field. -/
theorem State.Metered.put (s : State) (f : Fld) (v : Nat) (he : f.apart (Hdr.EVT 3)) : s.Metered [(f, none)] [] (s.put f v) where
  bit g hg i ha _ := by
    rcases ha _ (List.mem_singleton.mpr rfl) with h | ⟨-, j, h, -⟩
    · rw [State.get_put_apart _ _ _ _ h]
    · exact absurd h (by simp)
  evt i hi := by rw [State.get_put_apart _ _ _ _ he]; exact hi
  inbox _ h := h
  runs _ _ := rfl
  msh := rfl
  timers := rfl

theorem State.Metered.count (s : State) (f : Fld) (k : Nat) (he : f.apart (Hdr.EVT 3)) : s.Metered [(f, none)] [] (s.count f k) := State.Metered.put s f _ he

/-- An event of page 3. -/
theorem State.Metered.evtSup (s : State) (b : Nat) : s.Metered [] [] (s.evt 3 b) where
  bit g hg i _ he := by rw [State.get_evt _ _ _ he]
  evt i hi := State.bitAt_evt_keeps hi
  inbox _ h := h
  runs _ _ := rfl
  msh := rfl
  timers := rfl

theorem State.Metered.detect (s : State) (i u : Nat) : s.Metered [] [] (s.detect i u) where
  bit _ _ _ _ _ := rfl
  evt _ h := h
  inbox _ h := List.mem_append_left _ h
  runs _ _ := rfl
  msh := rfl
  timers := rfl

theorem State.bitAt_setFlag (s : State) {f : Fld} (hf : f.lo + f.width ≤ 32) {b : Nat} (hb : b < f.width) (i : Nat) :
    bitAt ((s.setFlag f b).get f) i = (decide (b = i) || bitAt (s.get f) i) := by
  unfold State.setFlag
  rw [State.get_put_same _ _ _ hf, bitAt, Nat.testBit_mod_two_pow, setBit_testBit]
  by_cases h : i < f.width
  · simp [h, bitAt]
  · have hout : bitAt (s.get f) i = false := Nat.testBit_lt_two_pow (lt_of_lt_of_le (s.get_lt f) (Nat.pow_le_pow_right (by decide) (by omega)))
    rw [hout]
    simp [h, show ¬ b = i by omega]

theorem State.bitAt_clrFlag (s : State) {f : Fld} (hf : f.lo + f.width ≤ 32) (b i : Nat) :
    bitAt ((s.clrFlag f b).get f) i = (!decide (b = i) && bitAt (s.get f) i) := by
  unfold State.clrFlag
  rw [State.get_put_same _ _ _ hf, bitAt, Nat.testBit_mod_two_pow, clrBit_testBit]
  by_cases h : i < f.width
  · simp [h, bitAt]
  · have hout : bitAt (s.get f) i = false := Nat.testBit_lt_two_pow (lt_of_lt_of_le (s.get_lt f) (Nat.pow_le_pow_right (by decide) (by omega)))
    simp [h, hout]

/-- The filter's run of another quantity stays (R672). -/
theorem State.Metered.filterRun (s : State) (k : Nat) (o : Bool) (flt t : Nat) : s.Metered [] [k] (s.filterRun k o flt t).2 := by
  have hrun : ∀ m : Sparse Nat, (∀ j, j ≠ k → m.find? (fun e => decide (e.1 = j)) = s.sup.runs.find? (fun e => decide (e.1 = j))) →
      s.Metered [] [k] (s.setSup (fun r => { r with runs := m })) := fun m hm =>
    ⟨fun _ _ _ _ _ => rfl, fun _ h => h, fun _ h => h, fun j hj => hm j (fun e => hj (e ▸ List.mem_singleton.mpr rfl)), rfl, rfl⟩
  unfold State.filterRun
  split
  · exact hrun _ (fun j hj => find?_del (Ne.symm hj) _)
  · split
    · exact ⟨fun _ _ _ _ _ => rfl, fun _ h => h, fun _ h => h, fun _ _ => rfl, rfl, rfl⟩
    · exact hrun _ (fun j hj => find?_ins (Ne.symm hj) _ _)

/-- Whether the conversions of a quantity have been outside for as long as its filter asks (R672). -/
def State.outLong (s : State) (k flt t : Nat) : Prop := (s.sup.runs.find? (fun e => decide (e.1 = k))).any (fun e => decide (e.2 + flt ≤ t)) = true

theorem State.filterRun_hit (s : State) (k : Nat) (o : Bool) {flt : Nat} (t : Nat) (hf : flt ≠ 0) : (s.filterRun k o flt t).1 = true ↔ o = true ∧ s.outLong k flt t := by
  unfold State.filterRun State.outLong
  cases o with
  | false => simp
  | true =>
    rw [if_neg (by simp)]
    cases s.sup.runs.find? (fun (e : Nat × Nat) => decide (e.1 = k)) <;> simp [hf]

/-- A condition begins after its filter time outside, and ends inside (R672). -/
def State.Condition (s : State) (t : Nat) (y : State) (f : Fld) (bit k flt src ev : Nat) (outside inside : Prop) : Prop :=
  (bitAt (s.get f) bit = false → outside ∧ s.outLong k flt t → bitAt (y.get f) bit = true ∧ bitAt (y.get (Hdr.EVT 3)) ev = true ∧ (src, 0) ∈ y.fcr.inbox)
  ∧ (bitAt (s.get f) bit = false → ¬ (outside ∧ s.outLong k flt t) → bitAt (y.get f) bit = false)
  ∧ (bitAt (s.get f) bit = true → inside → bitAt (y.get f) bit = false)
  ∧ (bitAt (s.get f) bit = true → ¬ inside → bitAt (y.get f) bit = true)

/-- One quantity: its condition, and what it leaves. -/
theorem State.monitor_metered (s : State) (k : Nat) (o i : Bool) {flt : Nat} (t : Nat) {f : Fld} {bit : Nat} (src ev : Nat) (hf : f.lo + f.width ≤ 32)
    (hb : bit < f.width) (he : f.apart (Hdr.EVT 3)) : s.Metered [(f, some bit)] [k] (s.monitor k o i flt t f bit src ev) := by
  have hset : ∀ (x w : State), (∀ j, j ≠ bit → bitAt (w.get f) j = bitAt (x.get f) j) → (∀ g, f.apart g → w.get g = x.get g) → w.fcr = x.fcr → w.sup = x.sup → w.msh = x.msh →
      w.timers = x.timers → x.Metered [(f, some bit)] [] w := fun x w h1 h2 h3 h4 h5 h6 =>
    { bit := fun g _ j ha _ => by
        rcases ha _ (List.mem_singleton.mpr rfl) with h | ⟨rfl, q, hq, hj⟩
        · rw [h2 g h]
        · exact h1 j (by simp only [Option.some.injEq] at hq; omega)
      evt := fun j hj => by rw [h2 _ he]; exact hj
      inbox := fun _ h => by rw [h3]; exact h
      runs := fun _ _ => by rw [h4]
      msh := h5
      timers := h6 }
  have hr := State.Metered.filterRun s k o flt t
  unfold State.monitor State.supCond
  dsimp only
  generalize s.filterRun k o flt t = r at hr ⊢
  obtain ⟨h, x⟩ := r
  dsimp only at hr ⊢
  have hkeep : s.Metered [(f, some bit)] [k] x := by simpa using (State.Metered.trans hr (hset x x (fun _ _ => rfl) (fun _ _ => rfl) rfl rfl rfl rfl))
  split
  · split
    · have hc := hset x (x.clrFlag f bit) (fun j hj => by rw [State.bitAt_clrFlag _ hf, decide_eq_false (Ne.symm hj)]; rfl)
        (fun g hg => State.get_put_apart _ _ _ _ hg) rfl rfl rfl rfl
      simpa using hr.trans hc
    · exact hkeep
  · split
    · have hc := hset x (x.setFlag f bit) (fun j hj => by rw [State.bitAt_setFlag _ hf hb, decide_eq_false (Ne.symm hj)]; rfl)
        (fun g hg => State.get_put_apart _ _ _ _ hg) rfl rfl rfl rfl
      simpa using ((hr.trans hc).trans (State.Metered.evtSup _ ev)).trans (State.Metered.detect _ src 0)
    · exact hkeep

theorem State.monitor_condition (s : State) (k : Nat) (o i : Bool) {flt : Nat} (t : Nat) {f : Fld} {bit : Nat} (src ev : Nat) (hf : f.lo + f.width ≤ 32)
    (hb : bit < f.width) (he : (Hdr.EVT 3).apart f) (hev : ev < 32) (hflt : flt ≠ 0) {outside inside : Prop} (ho : o = true ↔ outside) (hi : i = true ↔ inside) :
    s.Condition t (s.monitor k o i flt t f bit src ev) f bit k flt src ev outside inside := by
  have hhit := s.filterRun_hit k o t hflt
  have hget : (s.filterRun k o flt t).2.get f = s.get f := by
    unfold State.filterRun
    split
    · rfl
    · split <;> rfl
  unfold State.monitor State.supCond
  dsimp only
  generalize s.filterRun k o flt t = r at hhit hget ⊢
  obtain ⟨h, x⟩ := r
  dsimp only at hhit hget ⊢
  rw [ho] at hhit
  rw [hget]
  have hset : bitAt ((((x.setFlag f bit).evt 3 ev).detect src 0).get f) bit = true := by
    rw [State.get_detect, State.get_evt _ _ _ he]
    exact State.bitAt_setFlag_same _ hf hb
  refine ⟨fun h0 hl => ?_, fun h0 hl => ?_, fun h1 hin => ?_, fun h1 hin => ?_⟩
  · rw [if_neg (by rw [h0]; decide), if_pos (hhit.mpr hl)]
    refine ⟨hset, ?_, List.mem_append_right _ (List.mem_singleton.mpr rfl)⟩
    rw [State.get_detect]
    exact State.bitAt_evt_same _ _ hev
  · rw [if_neg (by rw [h0]; decide), if_neg (fun hh => hl (hhit.mp hh)), hget]
    exact h0
  · rw [if_pos h1, if_pos (hi.mpr hin), State.bitAt_clrFlag _ hf]
    simp
  · rw [if_pos h1, if_neg (fun hh => hin (hi.mp hh)), hget]
    exact h1

/-- A condition, seen from before and after what does not touch it. -/
theorem State.Condition.within {bit k flt src ev : Nat} {outside inside : Prop} (hs : s.Metered bits ks x) (h : x.Condition t y f bit k flt src ev outside inside)
    (hy : y.Metered bits' ks' z) (hw : f.watched) (he : (Hdr.EVT 3).apart f) (hk : k ∉ ks)
    (ha : ∀ e ∈ bits, e.1.apart f ∨ (e.1 = f ∧ ∃ j, e.2 = some j ∧ j ≠ bit)) (ha' : ∀ e ∈ bits', e.1.apart f ∨ (e.1 = f ∧ ∃ j, e.2 = some j ∧ j ≠ bit)) :
    s.Condition t z f bit k flt src ev outside inside := by
  have hlong : x.outLong k flt t ↔ s.outLong k flt t := by
    unfold State.outLong
    rw [hs.runs k hk]
  unfold State.Condition at h ⊢
  rw [hs.bit f hw bit ha he, hlong] at h
  rw [hy.bit f hw bit ha' he]
  obtain ⟨h1, h2, h3, h4⟩ := h
  refine ⟨fun k1 k2 => ?_, h2, h3, h4⟩
  obtain ⟨p1, p2, p3⟩ := h1 k1 k2
  exact ⟨p1, hy.evt _ p2, hy.inbox _ p3⟩

/-! Rails and temperatures. -/

theorem State.supRuns_iff (s : State) :
    s.supRuns = true ↔ s.boot.phase ≠ .held ∧ s.pwr.state ≠ .doze ∧ s.pwr.state ≠ .dozeExit ∧ s.pwr.state ≠ .park ∧ s.pwr.state ≠ .waking := by
  unfold State.supRuns
  cases h : s.pwr.state <;> simp

/-- The rails and temperatures as they are converted. -/
def State.railStored (s : State) (vc vs vi kp : Nat) (tcd tbp : Int) : State :=
  (((((s.put SUP.VCORE vc).put SUP.VSER vs).put SUP.VIO vi).put SUP.VKEEP kp).put SUP.TCD (unsignedOf 16 tcd)).put SUP.TBP (unsignedOf 16 tbp)

/-- The monitors of a rail conversion, one after the other (R672). -/
def State.railMonitors (x0 : State) (e : Nat × Nat) (vc vs vi kp : Nat) (tcd tbp : Int) (t : Nat) : State :=
  let x1 := x0.monitor 2 (decide (100 * vc < 95 * e.1) || decide (105 * e.2 < 100 * vc)) (decide (96 * e.1 ≤ 100 * vc) && decide (100 * vc ≤ 104 * e.2)) (us 10) t SUP.RAILOUT 0 0x0B 4
  let x2 := x1.monitor 3 (decide (vs < 855) || decide (945 < vs)) (decide (865 ≤ vs) && decide (vs ≤ 935)) (us 10) t SUP.RAILOUT 1 0x0C 4
  let x3 := x2.monitor 4 (decide (vi < 1710) || decide (1890 < vi)) (decide (1730 ≤ vi) && decide (vi ≤ 1870)) (us 10) t SUP.RAILOUT 2 0x0D 4
  let x4 := x3.monitor 5 (decide (kp < 1100) || decide (1300 < kp)) (decide (1120 ≤ kp) && decide (kp ≤ 1280)) (us 100) t SUP.RAILOUT 3 0x0E 4
  let x5 := x4.monitor 6 (decide (1000 < tcd)) (decide (tcd ≤ 960)) (ms 1) t SUP.TEMPCD 0 0x0F 5
  let x6 := x5.monitor 7 (decide (840 < tbp)) (decide (tbp ≤ 800)) (ms 1) t SUP.TEMPBP 0 0x10 5
  x6

theorem exec_railConversion {s : State} (h : s.supRuns = true) (t vc vs vi kp : Nat) (tcd tbp : Int) :
    exec (.railConversion t vc vs vi kp tcd tbp) s = .next ((((s.reach t).railStored vc vs vi kp tcd tbp).railMonitors s.vcoreEdges vc vs vi kp tcd tbp t).setSup (fun q =>
      { q with cond1 := q.cond1 ||| (let y := ((s.reach t).railStored vc vs vi kp tcd tbp).railMonitors s.vcoreEdges vc vs vi kp tcd tbp t
        y.get SUP.RAILOUT + 16 * y.get SUP.TEMPCD + 32 * y.get SUP.TEMPBP) })) :=
  congrArg Host.Outcome.next (if_neg (not_not_intro h))

theorem State.vcoreEdges_eq (s : State) : s.vcoreEdges
    = (if s.get PWR.REGBUSY = 1 then (s.pwr.reg.head?.map (fun r => min (s.get AGE.VREQ) r.volt)).getD (s.get AGE.VREQ) else s.get AGE.VREQ,
       if s.get PWR.REGBUSY = 1 then (s.pwr.reg.head?.map (fun r => max (s.get AGE.VREQ) r.volt)).getD (s.get AGE.VREQ) else s.get AGE.VREQ) := by
  have hb := State.flag_one_iff s (f := PWR.REGBUSY) rfl
  unfold State.vcoreEdges
  dsimp only
  by_cases h : s.get PWR.REGBUSY = 1
  · rw [if_pos h, if_pos h, hb.mpr h]
    cases s.pwr.reg <;> rfl
  · rw [if_neg h, if_neg h, Bool.eq_false_iff.mpr (fun hh => h (hb.mp hh))]

/-- Every condition of a rail conversion, among the others. -/
theorem State.railMonitors_shows (s : State) (lo hi vc vs vi kp : Nat) (tcd tbp : Int) (t : Nat) :
    let y := s.railMonitors (lo, hi) vc vs vi kp tcd tbp t
    (∃ bits ks, s.Metered bits ks y ∧ ∀ e ∈ bits, e.1 = SUP.RAILOUT ∨ e.1 = SUP.TEMPCD ∨ e.1 = SUP.TEMPBP)
    ∧ s.Condition t y SUP.RAILOUT 0 2 (us 10) 0x0B 4 (100 * vc < 95 * lo ∨ 105 * hi < 100 * vc) (96 * lo ≤ 100 * vc ∧ 100 * vc ≤ 104 * hi)
    ∧ s.Condition t y SUP.RAILOUT 1 3 (us 10) 0x0C 4 (vs < 855 ∨ 945 < vs) (865 ≤ vs ∧ vs ≤ 935)
    ∧ s.Condition t y SUP.RAILOUT 2 4 (us 10) 0x0D 4 (vi < 1710 ∨ 1890 < vi) (1730 ≤ vi ∧ vi ≤ 1870)
    ∧ s.Condition t y SUP.RAILOUT 3 5 (us 100) 0x0E 4 (kp < 1100 ∨ 1300 < kp) (1120 ≤ kp ∧ kp ≤ 1280)
    ∧ s.Condition t y SUP.TEMPCD 0 6 (ms 1) 0x0F 5 (1000 < tcd) (tcd ≤ 960)
    ∧ s.Condition t y SUP.TEMPBP 0 7 (ms 1) 0x10 5 (840 < tbp) (tbp ≤ 800) := by
  unfold State.railMonitors
  dsimp only
  have c1 := s.monitor_condition 2 (decide (100 * vc < 95 * lo) || decide (105 * hi < 100 * vc)) (decide (96 * lo ≤ 100 * vc) && decide (100 * vc ≤ 104 * hi)) (flt := us 10) t (f := SUP.RAILOUT) (bit := 0) 0x0B 4 (by decide) (by decide) (by decide) (by decide) (by decide)
    (outside := 100 * vc < 95 * lo ∨ 105 * hi < 100 * vc) (inside := 96 * lo ≤ 100 * vc ∧ 100 * vc ≤ 104 * hi) (by simp) (by simp)
  have m1 := s.monitor_metered 2 (decide (100 * vc < 95 * lo) || decide (105 * hi < 100 * vc)) (decide (96 * lo ≤ 100 * vc) && decide (100 * vc ≤ 104 * hi)) (flt := us 10) t (f := SUP.RAILOUT) (bit := 0) 0x0B 4 (by decide) (by decide) (by decide)
  generalize s.monitor 2 (decide (100 * vc < 95 * lo) || decide (105 * hi < 100 * vc)) (decide (96 * lo ≤ 100 * vc) && decide (100 * vc ≤ 104 * hi)) (us 10) t SUP.RAILOUT 0 0x0B 4 = x1 at c1 m1 ⊢
  have c2 := x1.monitor_condition 3 (decide (vs < 855) || decide (945 < vs)) (decide (865 ≤ vs) && decide (vs ≤ 935)) (flt := us 10) t (f := SUP.RAILOUT) (bit := 1) 0x0C 4 (by decide) (by decide) (by decide) (by decide) (by decide)
    (outside := vs < 855 ∨ 945 < vs) (inside := 865 ≤ vs ∧ vs ≤ 935) (by simp) (by simp)
  have m2 := x1.monitor_metered 3 (decide (vs < 855) || decide (945 < vs)) (decide (865 ≤ vs) && decide (vs ≤ 935)) (flt := us 10) t (f := SUP.RAILOUT) (bit := 1) 0x0C 4 (by decide) (by decide) (by decide)
  generalize x1.monitor 3 (decide (vs < 855) || decide (945 < vs)) (decide (865 ≤ vs) && decide (vs ≤ 935)) (us 10) t SUP.RAILOUT 1 0x0C 4 = x2 at c2 m2 ⊢
  have c3 := x2.monitor_condition 4 (decide (vi < 1710) || decide (1890 < vi)) (decide (1730 ≤ vi) && decide (vi ≤ 1870)) (flt := us 10) t (f := SUP.RAILOUT) (bit := 2) 0x0D 4 (by decide) (by decide) (by decide) (by decide) (by decide)
    (outside := vi < 1710 ∨ 1890 < vi) (inside := 1730 ≤ vi ∧ vi ≤ 1870) (by simp) (by simp)
  have m3 := x2.monitor_metered 4 (decide (vi < 1710) || decide (1890 < vi)) (decide (1730 ≤ vi) && decide (vi ≤ 1870)) (flt := us 10) t (f := SUP.RAILOUT) (bit := 2) 0x0D 4 (by decide) (by decide) (by decide)
  generalize x2.monitor 4 (decide (vi < 1710) || decide (1890 < vi)) (decide (1730 ≤ vi) && decide (vi ≤ 1870)) (us 10) t SUP.RAILOUT 2 0x0D 4 = x3 at c3 m3 ⊢
  have c4 := x3.monitor_condition 5 (decide (kp < 1100) || decide (1300 < kp)) (decide (1120 ≤ kp) && decide (kp ≤ 1280)) (flt := us 100) t (f := SUP.RAILOUT) (bit := 3) 0x0E 4 (by decide) (by decide) (by decide) (by decide) (by decide)
    (outside := kp < 1100 ∨ 1300 < kp) (inside := 1120 ≤ kp ∧ kp ≤ 1280) (by simp) (by simp)
  have m4 := x3.monitor_metered 5 (decide (kp < 1100) || decide (1300 < kp)) (decide (1120 ≤ kp) && decide (kp ≤ 1280)) (flt := us 100) t (f := SUP.RAILOUT) (bit := 3) 0x0E 4 (by decide) (by decide) (by decide)
  generalize x3.monitor 5 (decide (kp < 1100) || decide (1300 < kp)) (decide (1120 ≤ kp) && decide (kp ≤ 1280)) (us 100) t SUP.RAILOUT 3 0x0E 4 = x4 at c4 m4 ⊢
  have c5 := x4.monitor_condition 6 (decide (1000 < tcd)) (decide (tcd ≤ 960)) (flt := ms 1) t (f := SUP.TEMPCD) (bit := 0) 0x0F 5 (by decide) (by decide) (by decide) (by decide) (by decide)
    (outside := 1000 < tcd) (inside := tcd ≤ 960) (by simp) (by simp)
  have m5 := x4.monitor_metered 6 (decide (1000 < tcd)) (decide (tcd ≤ 960)) (flt := ms 1) t (f := SUP.TEMPCD) (bit := 0) 0x0F 5 (by decide) (by decide) (by decide)
  generalize x4.monitor 6 (decide (1000 < tcd)) (decide (tcd ≤ 960)) (ms 1) t SUP.TEMPCD 0 0x0F 5 = x5 at c5 m5 ⊢
  have c6 := x5.monitor_condition 7 (decide (840 < tbp)) (decide (tbp ≤ 800)) (flt := ms 1) t (f := SUP.TEMPBP) (bit := 0) 0x10 5 (by decide) (by decide) (by decide) (by decide) (by decide)
    (outside := 840 < tbp) (inside := tbp ≤ 800) (by simp) (by simp)
  have m6 := x5.monitor_metered 7 (decide (840 < tbp)) (decide (tbp ≤ 800)) (flt := ms 1) t (f := SUP.TEMPBP) (bit := 0) 0x10 5 (by decide) (by decide) (by decide)
  generalize x5.monitor 7 (decide (840 < tbp)) (decide (tbp ≤ 800)) (ms 1) t SUP.TEMPBP 0 0x10 5 = x6 at c6 m6 ⊢
  have a1 := State.Metered.refl s
  have a2 := a1.trans m1
  have a3 := a2.trans m2
  have a4 := a3.trans m3
  have a5 := a4.trans m4
  have a6 := a5.trans m5
  have b6 := State.Metered.refl x6
  have b5 := m6.trans b6
  have b4 := m5.trans b5
  have b3 := m4.trans b4
  have b2 := m3.trans b3
  have b1 := m2.trans b2
  refine ⟨⟨_, _, a6.trans m6, by decide⟩, ?_, ?_, ?_, ?_, ?_, ?_⟩
  · exact c1.within a1 b1 (by decide) (by decide) (by decide) (by decide) (by decide)
  · exact c2.within a2 b2 (by decide) (by decide) (by decide) (by decide) (by decide)
  · exact c3.within a3 b3 (by decide) (by decide) (by decide) (by decide) (by decide)
  · exact c4.within a4 b4 (by decide) (by decide) (by decide) (by decide) (by decide)
  · exact c5.within a5 b5 (by decide) (by decide) (by decide) (by decide) (by decide)
  · exact c6.within a6 b6 (by decide) (by decide) (by decide) (by decide) (by decide)

/-! VBAT: the monitors of a conversion. -/

/-- What a conversion of VBAT stores and monitors (R664, R672, R673). -/
def State.vbatMonitors (s : State) (t : Nat) (v b : Int) : State :=
  let x0 := (s.put SUP.VBATA (unsignedOf 16 v)).put SUP.VBATB (unsignedOf 16 b)
  let x1 := x0.monitor 0 (decide (v < 900)) (decide (930 < v)) (us 100) t SUP.UV 0 0x09 0
  let x2 := if x0.get SUP.UV = 0 ∧ x1.flag SUP.UV then x1.count SUP.UVCNT else x1
  let x3 := x2.monitor 1 (decide (3200 < v)) (decide (v < 3170)) (us 100) t SUP.OV 0 0x0A 1
  let x4 := if decide (3600 < v) && !x3.flag SUP.HV then (x3.evt 0x03 2).count SUP.HVCNT else x3
  x4.put SUP.HV (b2n (decide (3600 < v)))

/-- A filter counts an under-voltage where its condition begins. -/
theorem State.uvCount_shows (x : State) (uv : Nat) :
    let y := if uv = 0 ∧ x.flag SUP.UV = true then x.count SUP.UVCNT else x
    x.Metered [(SUP.UVCNT, none)] [] y
      ∧ y.get SUP.UVCNT = if uv = 0 ∧ x.get SUP.UV = 1 then min (x.get SUP.UVCNT + 1) (2 ^ SUP.UVCNT.width - 1) else x.get SUP.UVCNT := by
  dsimp only
  simp only [State.flag_one_iff x (f := SUP.UV) rfl]
  split
  · exact ⟨State.Metered.count x _ 1 (by decide), State.get_count_same _ _ _ (by decide)⟩
  · exact ⟨⟨fun _ _ _ _ _ => rfl, fun _ h => h, fun _ h => h, fun _ _ => rfl, rfl, rfl⟩, rfl⟩

/-- Above 36 V (R664). -/
theorem State.hvCount_shows (x : State) (hv : Bool) :
    let y := (if hv && !x.flag SUP.HV then (x.evt 0x03 2).count SUP.HVCNT else x).put SUP.HV (b2n hv)
    x.Metered [(SUP.HVCNT, none), (SUP.HV, none)] [] y ∧ y.get SUP.HV = b2n hv
      ∧ (hv = true → x.get SUP.HV = 0 → bitAt (y.get (Hdr.EVT 3)) 2 = true ∧ y.get SUP.HVCNT = min (x.get SUP.HVCNT + 1) (2 ^ SUP.HVCNT.width - 1)) := by
  dsimp only
  have hval : ∀ w : State, (w.put SUP.HV (b2n hv)).get SUP.HV = b2n hv := fun w => (State.get_put_same _ _ _ (by decide)).trans (b2n_mod_two hv)
  split
  case isTrue h =>
    refine ⟨((State.Metered.evtSup x 2).trans (State.Metered.count _ SUP.HVCNT 1 (by decide))).trans (State.Metered.put _ SUP.HV _ (by decide)), hval _, fun _ _ => ⟨?_, ?_⟩⟩
    · rw [State.get_put_apart _ _ _ _ (by decide), State.get_count_apart _ _ _ _ (by decide)]
      exact State.bitAt_evt_same _ _ (by decide)
    · rw [State.get_put_apart _ _ _ _ (by decide), State.get_count_same _ _ _ (by decide), State.get_evt _ _ _ (by decide)]
  case isFalse h =>
    refine ⟨?_, hval _, fun h1 h2 => absurd ?_ h⟩
    · have hm := State.Metered.put x SUP.HV (b2n hv) (by decide)
      exact ⟨fun g hg i ha he => hm.bit g hg i (fun e hm => ha e (List.mem_cons_of_mem _ hm)) he, hm.evt, hm.inbox, hm.runs, hm.msh, hm.timers⟩
    · rw [h1, Bool.true_and, Bool.not_eq_true', Bool.eq_false_iff, Ne, State.flag_iff]
      exact not_not_intro h2

theorem unsignedOf_lt (w : Int) : unsignedOf 16 w < 2 ^ 16 := by
  have h : Int.ofNat (2 ^ 16) = 65536 := rfl
  unfold unsignedOf
  rw [h]
  omega

theorem State.vbatMonitors_shows (s : State) (t : Nat) (v b : Int) :
    let y := s.vbatMonitors t v b
    s.Metered [(SUP.VBATA, none), (SUP.VBATB, none), (SUP.UV, some 0), (SUP.UVCNT, none), (SUP.OV, some 0), (SUP.HVCNT, none), (SUP.HV, none)] [0, 1] y
      ∧ y.get SUP.VBATA = unsignedOf 16 v ∧ y.get SUP.VBATB = unsignedOf 16 b
      ∧ s.Condition t y SUP.UV 0 0 (us 100) 0x09 0 (v < 900) (930 < v) ∧ s.Condition t y SUP.OV 0 1 (us 100) 0x0A 1 (3200 < v) (v < 3170)
      ∧ (y.get SUP.UVCNT = if s.get SUP.UV = 0 ∧ y.get SUP.UV = 1 then min (s.get SUP.UVCNT + 1) (2 ^ SUP.UVCNT.width - 1) else s.get SUP.UVCNT)
      ∧ y.get SUP.HV = b2n (decide (3600 < v))
      ∧ (3600 < v → s.get SUP.HV = 0 → bitAt (y.get (Hdr.EVT 3)) 2 = true ∧ y.get SUP.HVCNT = min (s.get SUP.HVCNT + 1) (2 ^ SUP.HVCNT.width - 1)) := by
  unfold State.vbatMonitors
  dsimp only
  have m0 := (State.Metered.put s SUP.VBATA (unsignedOf 16 v) (by decide)).trans (State.Metered.put (s.put SUP.VBATA (unsignedOf 16 v)) SUP.VBATB (unsignedOf 16 b) (by decide))
  have hva : ((s.put SUP.VBATA (unsignedOf 16 v)).put SUP.VBATB (unsignedOf 16 b)).get SUP.VBATA = unsignedOf 16 v := by
    rw [State.get_put_apart _ _ _ _ (by decide), State.get_put_same _ _ _ (by decide)]
    exact Nat.mod_eq_of_lt (unsignedOf_lt v)
  have hvb : ((s.put SUP.VBATA (unsignedOf 16 v)).put SUP.VBATB (unsignedOf 16 b)).get SUP.VBATB = unsignedOf 16 b := by
    rw [State.get_put_same _ _ _ (by decide)]
    exact Nat.mod_eq_of_lt (unsignedOf_lt b)
  generalize (s.put SUP.VBATA (unsignedOf 16 v)).put SUP.VBATB (unsignedOf 16 b) = x0 at m0 hva hvb ⊢
  have c1 := x0.monitor_condition 0 (decide (v < 900)) (decide (930 < v)) (flt := us 100) t (f := SUP.UV) (bit := 0) 0x09 0 (by decide) (by decide) (by decide) (by decide)
    (by decide) (outside := v < 900) (inside := 930 < v) (by simp) (by simp)
  have m1 := x0.monitor_metered 0 (decide (v < 900)) (decide (930 < v)) (flt := us 100) t (f := SUP.UV) (bit := 0) 0x09 0 (by decide) (by decide) (by decide)
  generalize x0.monitor 0 (decide (v < 900)) (decide (930 < v)) (us 100) t SUP.UV 0 0x09 0 = x1 at c1 m1 ⊢
  obtain ⟨m2, hcnt⟩ := x1.uvCount_shows (x0.get SUP.UV)
  generalize (if x0.get SUP.UV = 0 ∧ x1.flag SUP.UV = true then x1.count SUP.UVCNT else x1) = x2 at m2 hcnt ⊢
  have c3 := x2.monitor_condition 1 (decide (3200 < v)) (decide (v < 3170)) (flt := us 100) t (f := SUP.OV) (bit := 0) 0x0A 1 (by decide) (by decide) (by decide) (by decide)
    (by decide) (outside := 3200 < v) (inside := v < 3170) (by simp) (by simp)
  have m3 := x2.monitor_metered 1 (decide (3200 < v)) (decide (v < 3170)) (flt := us 100) t (f := SUP.OV) (bit := 0) 0x0A 1 (by decide) (by decide) (by decide)
  generalize x2.monitor 1 (decide (3200 < v)) (decide (v < 3170)) (us 100) t SUP.OV 0 0x0A 1 = x3 at c3 m3 ⊢
  obtain ⟨m4, hhv, hhvc⟩ := x3.hvCount_shows (decide (3600 < v))
  generalize (if (decide (3600 < v) && !x3.flag SUP.HV) = true then (x3.evt 0x03 2).count SUP.HVCNT else x3).put SUP.HV (b2n (decide (3600 < v))) = y at m4 hhv hhvc ⊢
  have a2 := (m0.trans m1).trans m2
  have a3 := a2.trans m3
  have b2 := m3.trans m4
  have b1 := m2.trans b2
  refine ⟨a3.trans m4, ?_, ?_, c1.within m0 b1 (by decide) (by decide) (by decide) (by decide) (by decide),
    c3.within a2 m4 (by decide) (by decide) (by decide) (by decide) (by decide), ?_, hhv, fun h1 h2 => ?_⟩
  · exact ((m1.trans b1).get (by decide) (by decide) (by decide)).trans hva
  · exact ((m1.trans b1).get (by decide) (by decide) (by decide)).trans hvb
  · rw [b2.get (g := SUP.UVCNT) (by decide) (by decide) (by decide), hcnt, b1.get (g := SUP.UV) (by decide) (by decide) (by decide),
      m0.get (g := SUP.UV) (by decide) (by decide) (by decide), (m0.trans m1).get (g := SUP.UVCNT) (by decide) (by decide) (by decide)]
  · have hs := a3.get (g := SUP.HV) (by decide) (by decide) (by decide)
    obtain ⟨p1, p2⟩ := hhvc (decide_eq_true h1) (hs.trans h2)
    exact ⟨p1, p2.trans (by rw [a3.get (g := SUP.HVCNT) (by decide) (by decide) (by decide)])⟩

/-! VBAT: its validity, ratings and extremes. -/

/-- A record loses no detection. -/
theorem State.inbox_record (e : Nat × Nat) : ∀ (fuel c t unit aux arg : Nat) (s : State), e ∈ s.fcr.inbox → e ∈ (State.record fuel c t unit aux arg s).fcr.inbox
  | 0, _, _, _, _, _, _, h => h
  | fuel + 1, c, t, unit, aux, arg, s, h => by
    unfold State.record
    dsimp only
    split
    · split
      · exact h
      · exact State.inbox_record e fuel _ _ _ _ _ _ h
    · split
      · split
        · exact h
        · split
          · exact State.inbox_record e fuel _ _ _ _ _ _ (List.mem_append_left _ h)
          · exact h
      · exact h

theorem State.inbox_yieldOnce (s : State) (e : Nat × Nat) (g cause unit t : Nat) (h : e ∈ s.fcr.inbox) : e ∈ (s.yieldOnce g cause unit t).fcr.inbox :=
  State.inbox_record e 4 _ _ _ _ _ _ h

/-- An episode of a yield writes SYS and the Record page alone. -/
theorem State.Metered.yieldOpen (s : State) (g cause key unit t : Nat) (hg : g ≤ 12) : s.Metered [] [] (s.yieldOpen g cause key unit t) where
  bit f hf i _ _ := by
    obtain ⟨hp, ho⟩ := hf
    rw [State.get_yieldOpen _ _ _ _ _ _ hg f (by omega) (by omega) ho]
  evt i hi := by
    rw [State.get_yieldOpen _ _ _ _ _ _ hg _ (by decide) (by decide) (by decide)]
    exact hi
  inbox e he := by
    unfold State.yieldOpen
    split
    · exact he
    · exact State.inbox_yieldOnce _ e _ _ _ _ he
  runs k _ := by
    rw [State.yieldOpen_keeps (P := fun y => y.sup = s.sup) (fun _ _ _ h => h) (fun _ _ _ h => h) (fun _ _ h => h) (fun _ _ h => h) rfl g cause key unit t]
  msh := State.yieldOpen_keeps (P := fun y => y.msh = s.msh) (fun _ _ _ h => h) (fun _ _ _ h => h) (fun _ _ h => h) (fun _ _ h => h) rfl _ _ _ _ _
  timers := State.yieldOpen_keeps (P := fun y => y.timers = s.timers) (fun _ _ _ h => h) (fun _ _ _ h => h) (fun _ _ h => h) (fun _ _ h => h) rfl _ _ _ _ _

/-- What leaves the words, the detections, the runs, the Marshal and the timers. -/
theorem State.Metered.of_eq (hr : y.regs = s.regs) (hf : y.fcr = s.fcr) (hs : y.sup.runs = s.sup.runs) (hm : y.msh = s.msh) (ht : y.timers = s.timers) :
    s.Metered [] [] y := by
  have hget : ∀ g, y.get g = s.get g := fun g => by unfold State.get State.rd; rw [hr]
  exact ⟨fun g _ _ _ _ => by rw [hget], fun _ h => by rw [hget]; exact h, fun _ h => by rw [hf]; exact h, fun _ _ => by rw [hs], hm, ht⟩

/-- Less than named may have changed. -/
theorem State.Metered.mono (h : s.Metered bits ks y) (hb : bits ⊆ bits') (hk : ks ⊆ ks') : s.Metered bits' ks' y where
  bit g hg i ha he := h.bit g hg i (fun e hm => ha e (hb hm)) he
  evt := h.evt
  inbox := h.inbox
  runs k hm := h.runs k (fun hx => hm (hk hx))
  msh := h.msh
  timers := h.timers

theorem State.ratings_metered (s : State) (v : Int) (t : Nat) : s.Metered [] [9] (s.ratings v t) := by
  unfold State.ratings
  dsimp only
  generalize (s.sup.runs.find? (fun (e : Nat × Nat) => decide (e.1 = 9))).map (fun (e : Nat × Nat) => e.2) = was
  have m1 := State.Metered.filterRun s 9 (decide (4800 < v)) (ms 400 + 1) t
  generalize s.filterRun 9 (decide (4800 < v)) (ms 400 + 1) t = r at m1 ⊢
  obtain ⟨hit, x⟩ := r
  dsimp only at m1 ⊢
  have m2 : x.Metered [] [] (if (decide (4800 < v) && was.isNone) = true then x.setSup (fun q => { q with surge := some t }) else x) := by
    split
    · exact State.Metered.of_eq rfl rfl rfl rfl rfl
    · exact State.Metered.refl x
  generalize (if (decide (4800 < v) && was.isNone) = true then x.setSup (fun q => { q with surge := some t }) else x) = y at m2 ⊢
  have m3 : ∀ c : Bool, y.Metered [] [] (if c = true then y.yieldOpen 1 0x0A 0 0 t else if decide (4800 < v) = true then y else y.yieldClose 1 0x0A 0) := by
    intro c
    split
    · exact State.Metered.yieldOpen y _ _ _ _ _ (by decide)
    · split
      · exact State.Metered.refl y
      · exact State.Metered.of_eq rfl rfl rfl rfl rfl
  have m4 : ∀ (w : State) (c : Bool), w.Metered [] [] (if c = true then w.yieldOpen 1 0x0A 1 0 t else if w.reverseAt.isSome then w else w.yieldClose 1 0x0A 1) := by
    intro w c
    split
    · exact State.Metered.yieldOpen w _ _ _ _ _ (by decide)
    · split
      · exact State.Metered.refl w
      · exact State.Metered.of_eq rfl rfl rfl rfl rfl
  exact ((m1.trans m2).trans (m3 _)).trans (m4 _ _)

/-- A channel out of range makes the measurement invalid (R673). -/
theorem State.vbatValid_shows (s : State) (a b : Int) (raw : Bool) (t : Nat) :
    s.Metered [(SUP.VBINV, none)] [8] (s.vbatValid a b raw t)
      ∧ (raw = true → (s.vbatValid a b raw t).get SUP.VBINV = 1 ∧ (s.get SUP.VBINV = 0 → bitAt ((s.vbatValid a b raw t).get (Hdr.EVT 3)) 3 = true)) := by
  unfold State.vbatValid
  dsimp only
  have m1 := State.Metered.filterRun s 8 (decide (50 < (a - b).natAbs)) (us 100) t
  generalize s.filterRun 8 (decide (50 < (a - b).natAbs)) (us 100) t = r at m1 ⊢
  obtain ⟨hit, x⟩ := r
  dsimp only at m1 ⊢
  have hbad : raw = true → (hit || raw || ((x.flag SUP.UVLOA || x.flag SUP.UVLOB) && decide (600 ≤ a))) = true := fun h => by rw [h]; simp
  generalize (hit || raw || ((x.flag SUP.UVLOA || x.flag SUP.UVLOB) && decide (600 ≤ a))) = bad at hbad ⊢
  have m2 : x.Metered [] [] (x.setSup (fun q => { q with agree := if (bad || decide (30 < (a - b).natAbs)) = true then none else some (q.agree.getD t) })) :=
    State.Metered.of_eq rfl rfl rfl rfl rfl
  generalize x.setSup (fun q => { q with agree := if (bad || decide (30 < (a - b).natAbs)) = true then none else some (q.agree.getD t) }) = y at m2 ⊢
  have hv : y.get SUP.VBINV = s.get SUP.VBINV := (m1.trans m2).get (by decide) (by decide) (by decide)
  have hlt : s.get SUP.VBINV < 2 := s.get_lt SUP.VBINV
  have hless : ∀ z : State, y.Metered [] [] z → s.Metered [(SUP.VBINV, none)] [8] z := fun z hz => ((m1.trans m2).trans hz).mono (by simp) (by simp)
  constructor
  · split
    · split
      · exact hless y (State.Metered.refl y)
      · exact (m1.trans m2).trans ((State.Metered.put y SUP.VBINV 1 (by decide)).trans (State.Metered.evtSup _ 3))
    · split
      · split
        · exact (m1.trans m2).trans (State.Metered.put y SUP.VBINV 0 (by decide))
        · exact hless y (State.Metered.refl y)
      · exact hless y (State.Metered.refl y)
  · intro hraw
    rw [if_pos (hbad hraw)]
    by_cases h0 : s.get SUP.VBINV = 0
    · rw [if_neg (by rw [State.flag_iff, hv]; exact not_not_intro h0)]
      refine ⟨?_, fun _ => State.bitAt_evt_same _ _ (by decide)⟩
      rw [State.get_evt _ _ _ (by decide), State.get_put_same _ _ _ (by decide)]
      decide
    · rw [if_pos (by rw [State.flag_iff, hv]; exact h0)]
      exact ⟨by rw [hv]; omega, fun h => absurd h h0⟩

theorem State.signed_put (s : State) {f : Fld} (hw : f.width = 16) (hf : f.lo + f.width ≤ 32) {v : Int} (hv : -4000 ≤ v ∧ v ≤ 6000) :
    (s.put f (unsignedOf 16 v)).signed f = v := by
  have h1 : Int.ofNat (2 ^ 16) = 65536 := rfl
  have hlt := unsignedOf_lt v
  unfold State.signed
  rw [State.get_put_same _ _ _ hf, hw, Nat.mod_eq_of_lt hlt]
  unfold signedOf
  rw [Nat.mod_eq_of_lt hlt, h1]
  unfold unsignedOf at hlt ⊢
  rw [h1] at hlt ⊢
  simp only [Int.ofNat_eq_natCast]
  split <;> omega

/-- The extremes follow the measurement (R681). -/
theorem State.vbatExtremes_shows (s : State) {v : Int} (hv : -4000 ≤ v ∧ v ≤ 6000) :
    s.Metered [(SUP.VBATMIN, none), (SUP.VBATMAX, none)] [] (s.vbatExtremes v)
      ∧ (s.vbatExtremes v).signed SUP.VBATMIN = min v (s.signed SUP.VBATMIN) ∧ (s.vbatExtremes v).signed SUP.VBATMAX = max v (s.signed SUP.VBATMAX) := by
  have hsame : ∀ (x w : State) (f : Fld), w.get f = x.get f → w.signed f = x.signed f := fun x w f h => by unfold State.signed; rw [h]
  unfold State.vbatExtremes
  dsimp only
  obtain ⟨x, hx⟩ : ∃ x, x = if v < s.signed SUP.VBATMIN then s.put SUP.VBATMIN (unsignedOf 16 v) else s := ⟨_, rfl⟩
  have m1 : s.Metered [(SUP.VBATMIN, none)] [] x ∧ x.signed SUP.VBATMIN = min v (s.signed SUP.VBATMIN) ∧ x.get SUP.VBATMAX = s.get SUP.VBATMAX := by
    rw [hx]
    split
    · exact ⟨State.Metered.put s _ _ (by decide), by rw [State.signed_put s rfl (by decide) hv]; omega, State.get_put_apart _ _ _ _ (by decide)⟩
    · exact ⟨(State.Metered.refl s).mono (by simp) (by simp), by omega, rfl⟩
  rw [← hx]
  clear hx
  obtain ⟨m1, h1, h2⟩ := m1
  rw [hsame s x _ h2]
  have m2 : x.Metered [(SUP.VBATMAX, none)] [] (if s.signed SUP.VBATMAX < v then x.put SUP.VBATMAX (unsignedOf 16 v) else x)
      ∧ (if s.signed SUP.VBATMAX < v then x.put SUP.VBATMAX (unsignedOf 16 v) else x).signed SUP.VBATMAX = max v (s.signed SUP.VBATMAX)
      ∧ (if s.signed SUP.VBATMAX < v then x.put SUP.VBATMAX (unsignedOf 16 v) else x).get SUP.VBATMIN = x.get SUP.VBATMIN := by
    split
    · exact ⟨State.Metered.put x _ _ (by decide), by rw [State.signed_put x rfl (by decide) hv]; omega, State.get_put_apart _ _ _ _ (by decide)⟩
    · exact ⟨(State.Metered.refl x).mono (by simp) (by simp), by rw [hsame s x _ h2]; omega, rfl⟩
  generalize (if s.signed SUP.VBATMAX < v then x.put SUP.VBATMAX (unsignedOf 16 v) else x) = y at m2 ⊢
  obtain ⟨m2, h3, h4⟩ := m2
  exact ⟨(m1.trans m2).trans (State.Metered.of_eq rfl rfl rfl rfl rfl), (hsame x y _ h4).trans h1, h3⟩

/-! VBAT: the end of a reverse battery, the Marshal, and what follows. -/

theorem State.revOn_foldl (w : OutU) : ∀ (l : List OutU) (s : State), (w ∈ l ∨ (s.out w).revOn = false) →
    ((l.foldl (fun s u => if (s.out u).revOn then s.setOut u (fun o => { o with revOn := false }) else s) s).out w).revOn = false
  | [], s, h => h.resolve_left (by simp)
  | u :: l, s, h => by
    refine State.revOn_foldl w l _ ?_
    by_cases hw : w ∈ l
    · exact .inl hw
    · right
      dsimp only
      by_cases hr : (s.out u).revOn = true
      · rw [if_pos hr, State.out_setOut]
        split
        · rfl
        case isFalse hne =>
          rcases h with h | h
          · rcases List.mem_cons.mp h with rfl | h
            · exact absurd rfl hne
            · exact absurd h hw
          · exact h
      · rw [if_neg hr]
        rcases h with h | h
        · rcases List.mem_cons.mp h with rfl | h
          · exact Bool.eq_false_iff.mpr hr
          · exact absurd h hw
        · exact h

theorem State.reverseEnds_shows (s : State) (v : Int) :
    s.Metered [(SUP.REVERSE, none)] [] (s.reverseEnds v)
      ∧ (s.get SUP.REVERSE = 1 → (s.reverseEnds v).get SUP.REVERSE = if -200 ≤ v then 0 else 1)
      ∧ (s.get SUP.REVERSE = 1 → -200 ≤ v → (s.reverseEnds v).reverseAt = none ∧ ∀ u ∈ allUnits, ((s.reverseEnds v).out u).revOn = false) := by
  have hone := State.flag_one_iff s (f := SUP.REVERSE) rfl
  unfold State.reverseEnds
  split
  case isTrue h =>
    obtain ⟨h1, h2⟩ := h
    dsimp only
    obtain ⟨x, hx⟩ : ∃ x : State, x = { s.put SUP.REVERSE 0 with reverseAt := none } := ⟨_, rfl⟩
    have m1 : s.Metered [(SUP.REVERSE, none)] [] x := by
      rw [hx]
      exact (State.Metered.put s SUP.REVERSE 0 (by decide)).trans (State.Metered.of_eq rfl rfl rfl rfl rfl)
    have hrev : x.get SUP.REVERSE = 0 := by rw [hx]; exact State.get_put_same s SUP.REVERSE 0 (by decide)
    have hat : x.reverseAt = none := by rw [hx]
    rw [← hx]
    have hkeep : ∀ P : State → Prop, (∀ y (u : OutU) f, P y → P (y.setOut u f)) → P x →
        P (allUnits.foldl (fun s u => if (s.out u).revOn then s.setOut u (fun o => { o with revOn := false }) else s) x) := by
      intro P hP hPx
      refine foldl_keeps hPx ?_
      intro y u hy
      split
      · exact hP _ _ _ hy
      · exact hy
    refine ⟨m1.trans (State.Metered.of_eq (hkeep (fun y => y.regs = x.regs) (fun _ _ _ h => h) rfl) (hkeep (fun y => y.fcr = x.fcr) (fun _ _ _ h => h) rfl)
      (hkeep (fun y => y.sup.runs = x.sup.runs) (fun _ _ _ h => h) rfl) (hkeep (fun y => y.msh = x.msh) (fun _ _ _ h => h) rfl)
      (hkeep (fun y => y.timers = x.timers) (fun _ _ _ h => h) rfl)), fun _ => ?_, fun _ _ => ⟨?_, fun u hu => State.revOn_foldl u _ _ (.inl hu)⟩⟩
    · rw [if_pos h2, hkeep (fun y => y.get SUP.REVERSE = x.get SUP.REVERSE) (fun _ _ _ h => h) rfl]
      exact hrev
    · exact hkeep (fun y => y.reverseAt = none) (fun _ _ _ h => h) hat
  case isFalse h =>
    exact ⟨(State.Metered.refl s).mono (by simp) (by simp), fun h1 => by rw [if_neg (fun h2 => h ⟨hone.mpr h1, h2⟩)]; exact h1, fun h1 h2 => absurd ⟨hone.mpr h1, h2⟩ h⟩

/-- From `s` to `y` no watched word, no reverse conduction and nothing that the Marshal keeps of VBAT has changed. -/
structure State.Aside (s y : State) : Prop where
  get : ∀ g : Fld, g.watched → y.get g = s.get g
  inbox : ∀ e ∈ s.fcr.inbox, e ∈ y.fcr.inbox
  vbat : y.msh.vbat = s.msh.vbat ∧ y.msh.vprev = s.msh.vprev
  recover : y.due .recover = s.due .recover
  rev : y.reverseAt = s.reverseAt
  revOn : ∀ u, (y.out u).revOn = (s.out u).revOn

theorem State.Aside.refl (s : State) : s.Aside s := ⟨fun _ _ => rfl, fun _ h => h, ⟨rfl, rfl⟩, rfl, rfl, fun _ => rfl⟩

theorem State.Aside.trans (h : s.Aside x) (h' : x.Aside y) : s.Aside y where
  get g hg := (h'.get g hg).trans (h.get g hg)
  inbox e he := h'.inbox e (h.inbox e he)
  vbat := ⟨h'.vbat.1.trans h.vbat.1, h'.vbat.2.trans h.vbat.2⟩
  recover := h'.recover.trans h.recover
  rev := h'.rev.trans h.rev
  revOn u := (h'.revOn u).trans (h.revOn u)

/-- The comparators of the inputs that follow VBAT. -/
theorem State.dinVbat_aside (s : State) (t : Nat) : s.Aside (s.dinVbat t) := by
  have hk : ∀ P : State → Prop, Blind.dins P → (∀ y f v, f.page ≠ 3 ∧ f.page ≠ 0x0C ∧ f.off < 4096 → P y → P (y.put f v)) → P s → P (s.dinVbat t) := by
    intro P hd hp h
    unfold State.dinVbat
    have hput : ∀ n < 64, ∀ y f v, f = DIN.CHSTAT_RAW n ∨ f = DIN.GLITCH n → P y → P (y.put f v) := by
      intro n hn y f v hf hy
      refine hp y f v ?_ hy
      rcases hf with rfl | rfl
      · exact ⟨by show 0x24 + n / 32 ≠ 3; omega, by show 0x24 + n / 32 ≠ 0x0C; omega, by show 0x104 + 0x10 * (n % 32) < 4096; omega⟩
      · exact ⟨by show 0x24 + n / 32 ≠ 3; omega, by show 0x24 + n / 32 ≠ 0x0C; omega, by show 0x108 + 0x10 * (n % 32) < 4096; omega⟩
    have hset : ∀ (y : State) n f, P y → P (y.setDin n f) := fun y n f hy => hd _ _ hy
    have hstep : ∀ l : List Nat, (∀ n ∈ l, n < 64) → ∀ y : State, P y → P (l.foldl (fun s n => if s.get (DIN.TYPE n) = 2 then s.dinPin n (s.din n).mv t else s) y) := by
      intro l
      induction l with
      | nil => exact fun _ y hy => hy
      | cons n l ih =>
        intro hl y hy
        refine ih (fun m hm => hl m (.tail _ hm)) _ ?_
        dsimp only
        split
        · unfold State.dinPin
          dsimp only
          split
          · exact hset _ _ _ hy
          · exact State.rawSample_of (hput n (hl n (.head _))) (fun w f _ hw => hset w n f hw) (hset _ _ _ (hset _ _ _ hy)) t _
        · exact hy
    exact hstep _ (fun n hn => List.mem_range.mp hn) s h
  refine ⟨fun g hg => ?_, fun e he => ?_, ⟨?_, ?_⟩, ?_, ?_, fun u => ?_⟩
  · exact hk (fun y => y.get g = s.get g) (fun _ _ h => h) (fun y f v hf h => (State.get_put_page _ _ _ _ (by obtain ⟨a, b, -⟩ := hf; obtain ⟨c | c, -⟩ := hg <;> omega) hf.2.2 hg.2).trans h) rfl
  · exact hk (fun y => e ∈ y.fcr.inbox) (fun _ _ h => h) (fun _ _ _ _ h => h) he
  · exact hk (fun y => y.msh.vbat = s.msh.vbat) (fun _ _ h => h) (fun _ _ _ _ h => h) rfl
  · exact hk (fun y => y.msh.vprev = s.msh.vprev) (fun _ _ h => h) (fun _ _ _ _ h => h) rfl
  · exact hk (fun y => y.due .recover = s.due .recover) (fun _ _ h => h) (fun _ _ _ _ h => h) rfl
  · exact hk (fun y => y.reverseAt = s.reverseAt) (fun _ _ h => h) (fun _ _ _ _ h => h) rfl
  · exact hk (fun y => (y.out u).revOn = (s.out u).revOn) (fun _ _ h => h) (fun _ _ _ _ h => h) rfl

theorem State.Aside.disarm (s : State) {k : Timer} (h : k ≠ .recover) : s.Aside (s.disarm k) :=
  ⟨fun _ _ => rfl, fun _ h => h, ⟨rfl, rfl⟩, (State.due_disarm _ _ _).trans (if_neg h), rfl, fun _ => rfl⟩

theorem State.Aside.arm (s : State) {k : Timer} (h : k ≠ .recover) (t : Nat) : s.Aside (s.arm k t) :=
  ⟨fun _ _ => rfl, fun _ h => h, ⟨rfl, rfl⟩, (State.due_arm _ _ _ _).trans (if_neg h), rfl, fun _ => rfl⟩

theorem State.Aside.setOut (s : State) (u : OutU) {f : OutSt → OutSt} (hf : ∀ o, (f o).revOn = o.revOn) : s.Aside (s.setOut u f) := by
  refine ⟨fun _ _ => rfl, fun _ h => h, ⟨rfl, rfl⟩, rfl, rfl, fun w => ?_⟩
  rw [State.out_setOut]
  split
  case isTrue h =>
    have hu : s.out u = s.out w := by unfold State.out; rw [h]
    rw [hf, hu]
  case isFalse => rfl

theorem State.Aside.setSup (s : State) (f : SupSt → SupSt) : s.Aside (s.setSup f) := ⟨fun _ _ => rfl, fun _ h => h, ⟨rfl, rfl⟩, rfl, rfl, fun _ => rfl⟩

theorem State.Aside.put (s : State) {f : Fld} (v : Nat) (hf : f.page ≠ 3 ∧ f.page ≠ 0x0C ∧ f.off < 4096) : s.Aside (s.put f v) := by
  refine ⟨fun g hg => ?_, fun _ h => h, ⟨rfl, rfl⟩, rfl, rfl, fun _ => rfl⟩
  obtain ⟨h3, h12, ho⟩ := hf
  obtain ⟨c, hgo⟩ := hg
  exact State.get_put_page _ _ _ _ (by omega) ho hgo

theorem State.Aside.detect (s : State) (i u : Nat) : s.Aside (s.detect i u) :=
  ⟨fun _ _ => rfl, fun _ h => List.mem_append_left _ h, ⟨rfl, rfl⟩, rfl, rfl, fun _ => rfl⟩

theorem State.Aside.reach (s : State) (t : Nat) : s.Aside (s.reach t) := ⟨fun _ _ => rfl, fun _ h => h, ⟨rfl, rfl⟩, rfl, rfl, fun _ => rfl⟩

/-- A fault of a load switch is shown in its own page. -/
theorem State.setFault_ls (s : State) (n bit t : Nat) (hb : bit ≠ 31) : s.setFault (.ls n) bit t =
    match flagSrc (.ls n) bit with
    | some src => (((s.reach t).setFlag (LSW.FLT n) bit).evt (0x10 + n / 8) (n % 8)).detect src (n % 8)
    | none => ((s.reach t).setFlag (LSW.FLT n) bit).evt (0x10 + n / 8) (n % 8) := by
  unfold State.setFault
  rw [if_neg hb]
  have hu : ¬ ((upage (.ls n)).1 = 0x20 ∧ 32 ≤ (upage (.ls n)).2) := fun h => by
    have h2 : 32 ≤ n % 8 := h.2
    omega
  dsimp only
  rw [if_neg hu]
  rfl

theorem State.Aside.setFault_ls (s : State) (n : Nat) {bit : Nat} (hb : bit ≠ 31) (t : Nat) : s.Aside (s.setFault (.ls n) bit t) := by
  have hset : s.Aside (((s.reach t).setFlag (LSW.FLT n) bit).evt (0x10 + n / 8) (n % 8)) := by
    refine ((State.Aside.reach s t).trans (State.Aside.put (s.reach t) _ ?_)).trans (State.Aside.put _ _ ?_)
    · exact ⟨by show 0x10 + n / 8 ≠ 3; omega, by show 0x10 + n / 8 ≠ 0x0C; omega, by show 0x114 + 0x80 * (n % 8) < 4096; omega⟩
    · exact ⟨by show 0x10 + n / 8 ≠ 3; omega, by show 0x10 + n / 8 ≠ 0x0C; omega, by show 0x20 < 4096; omega⟩
  rw [State.setFault_ls s n bit t hb]
  generalize ((s.reach t).setFlag (LSW.FLT n) bit).evt (0x10 + n / 8) (n % 8) = y at hset ⊢
  split
  · exact hset.trans (State.Aside.detect y _ _)
  · exact hset

theorem State.Aside.yieldOnce (s : State) (g cause unit t : Nat) (hg : g ≤ 12) : s.Aside (s.yieldOnce g cause unit t) := by
  have hk : ∀ P : State → Prop, Blind.regs P → Blind.mem P → Blind.episodes P → Blind.fcr P → P s → P (s.yieldOnce g cause unit t) := fun P h1 h2 h3 h4 h =>
    State.yieldOnce_keeps h1 h2 h3 h4 h g cause unit t
  refine ⟨fun f hf => ?_, fun e he => State.inbox_yieldOnce s e _ _ _ _ he, ⟨?_, ?_⟩, ?_, ?_, fun u => ?_⟩
  · obtain ⟨hp, ho⟩ := hf
    exact State.get_yieldOnce _ _ _ _ _ hg f (by omega) (by omega) ho
  · exact hk (fun y => y.msh.vbat = s.msh.vbat) (fun _ _ _ h => h) (fun _ _ _ h => h) (fun _ _ h => h) (fun _ _ h => h) rfl
  · exact hk (fun y => y.msh.vprev = s.msh.vprev) (fun _ _ _ h => h) (fun _ _ _ h => h) (fun _ _ h => h) (fun _ _ h => h) rfl
  · exact hk (fun y => y.due .recover = s.due .recover) (fun _ _ _ h => h) (fun _ _ _ h => h) (fun _ _ h => h) (fun _ _ h => h) rfl
  · exact hk (fun y => y.reverseAt = s.reverseAt) (fun _ _ _ h => h) (fun _ _ _ h => h) (fun _ _ h => h) (fun _ _ h => h) rfl
  · exact hk (fun y => (y.out u).revOn = (s.out u).revOn) (fun _ _ _ h => h) (fun _ _ _ h => h) (fun _ _ h => h) (fun _ _ h => h) rfl

/-- A pulse that fires late. -/
theorem State.firePulse_aside (s : State) (n t : Nat) : s.Aside (s.firePulse n t true) := by
  have hg4 : s.get (LSW.SG n) < 4 := s.get_lt (LSW.SG n)
  unfold State.firePulse
  dsimp only
  generalize s.get (LSW.SG n) = g at hg4 ⊢
  rw [if_pos rfl]
  obtain ⟨x, hx⟩ : ∃ x : State, x = { s with msh := { s.msh with
      pulses := s.msh.pulses.filter (fun e => decide (e.1 ≠ n)) ++ [(n, s.pulseWeight n)], late := s.msh.late.filter (fun e => decide (e.1 ≠ n)) } } := ⟨_, rfl⟩
  have ax : s.Aside x := by
    rw [hx]
    exact ⟨fun _ _ => rfl, fun _ h => h, ⟨rfl, rfl⟩, rfl, rfl, fun _ => rfl⟩
  rw [← hx]
  clear hx
  have a1 := (ax.trans (State.Aside.disarm x (k := .lateMax n) (by simp))).trans (State.Aside.setOut (x.disarm (.lateMax n)) (.ls n) (f := fun o => { o with pcount := (o.pcount + 1) % 2 ^ 32 }) (fun _ => rfl))
  generalize (x.disarm (.lateMax n)).setOut (.ls n) (fun o => { o with pcount := (o.pcount + 1) % 2 ^ 32 }) = y at a1 ⊢
  have a2 := a1.trans (State.Aside.put y (f := LSWC.FIRED g) (min (y.get (LSWC.FIRED g) + 1) (2 ^ (LSWC.FIRED g).width - 1))
    ⟨by show 0x17 ≠ 3; decide, by show 0x17 ≠ 0x0C; decide, by show 0x190 + 0x4 * g < 4096; omega⟩)
  exact ((a2.trans (State.Aside.setFault_ls _ n (by decide) t)).trans (State.Aside.yieldOnce _ 6 4 n t (by decide))).trans (State.Aside.arm _ (by simp) _)

theorem State.pulseRetry_aside (s : State) (t : Nat) : s.Aside (s.pulseRetry t) := by
  unfold State.pulseRetry
  refine foldl_keeps (P := s.Aside) (State.Aside.refl s) ?_
  intro y e hy
  split
  · exact hy.trans (y.firePulse_aside e.1 t)
  · exact hy

/-- From `s` to `y` the Marshal writes only words of its page. -/
structure State.Steady (s y : State) : Prop where
  sup : ∀ g : Fld, g.page = 3 → g.off < 4096 → y.get g = s.get g
  inbox : ∀ e ∈ s.fcr.inbox, e ∈ y.fcr.inbox
  rev : y.reverseAt = s.reverseAt
  outs : y.outs = s.outs
  vbat : y.msh.vbat = s.msh.vbat ∧ y.msh.vprev = s.msh.vprev

theorem State.Steady.trans (h : s.Steady x) (h' : x.Steady y) : s.Steady y where
  sup g hg ho := (h'.sup g hg ho).trans (h.sup g hg ho)
  inbox e he := h'.inbox e (h.inbox e he)
  rev := h'.rev.trans h.rev
  outs := h'.outs.trans h.outs
  vbat := ⟨h'.vbat.1.trans h.vbat.1, h'.vbat.2.trans h.vbat.2⟩

theorem State.Steady.refl (s : State) : s.Steady s := ⟨fun _ _ _ => rfl, fun _ h => h, rfl, rfl, rfl, rfl⟩

theorem State.Steady.put (s : State) {f : Fld} (v : Nat) (hp : f.page = 0x0C) (ho : f.off < 4096) : s.Steady (s.put f v) :=
  ⟨fun _ hg hgo => State.get_put_page _ _ _ _ (by omega) ho hgo, fun _ h => h, rfl, rfl, rfl, rfl⟩

theorem State.Steady.detect (s : State) (i u : Nat) : s.Steady (s.detect i u) := ⟨fun _ _ _ => rfl, fun _ h => List.mem_append_left _ h, rfl, rfl, rfl, rfl⟩

theorem State.Steady.timers (s : State) (k : Timer) (t : Nat) : s.Steady (s.arm k t) ∧ s.Steady (s.disarm k) :=
  ⟨⟨fun _ _ _ => rfl, fun _ h => h, rfl, rfl, rfl, rfl⟩, ⟨fun _ _ _ => rfl, fun _ h => h, rfl, rfl, rfl, rfl⟩⟩

/-- Above 36 V starts are suspended (R257). -/
def State.mshOver (s : State) (v : Int) : State := if v > 3600 ∧ ¬ s.flag MSH.OVSUSP then (s.put MSH.OVSUSP 1).evt 0x0C 3 else s

theorem State.mshOver_shows (s : State) (v : Int) :
    s.Steady (s.mshOver v) ∧ (∀ g, MSH.OVSUSP.apart g → (Hdr.EVT 0x0C).apart g → (s.mshOver v).get g = s.get g) ∧ (s.mshOver v).timers = s.timers
      ∧ (3600 < v → (s.mshOver v).get MSH.OVSUSP = 1 ∧ (s.get MSH.OVSUSP = 0 → bitAt ((s.mshOver v).get (Hdr.EVT 0x0C)) 3 = true))
      ∧ (v ≤ 3600 → (s.mshOver v).get MSH.OVSUSP = s.get MSH.OVSUSP) := by
  have hlt : s.get MSH.OVSUSP < 2 := s.get_lt MSH.OVSUSP
  have hone := State.flag_one_iff s (f := MSH.OVSUSP) rfl
  unfold State.mshOver
  split
  case isTrue h =>
    obtain ⟨h1, -⟩ := h
    refine ⟨(State.Steady.put s 1 rfl (by decide)).trans (State.Steady.put _ _ rfl (by decide)), fun g k1 k2 => ?_, rfl, fun _ => ⟨?_, fun _ => State.bitAt_evt_same _ _ (by decide)⟩,
      fun h2 => absurd h1 (by omega)⟩
    · rw [State.get_evt _ _ _ k2, State.get_put_apart _ _ _ _ k1]
    · rw [State.get_evt _ _ _ (by decide), State.get_put_same _ _ _ (by decide)]
      decide
  case isFalse h =>
    refine ⟨State.Steady.refl s, fun _ _ _ => rfl, rfl, fun h1 => ?_, fun _ => rfl⟩
    have hs : s.get MSH.OVSUSP = 1 := hone.mp (by by_contra hn; exact h ⟨h1, hn⟩)
    exact ⟨hs, fun h0 => absurd h0 (by rw [hs]; decide)⟩

/-- The Marshal's states by the voltage: fallback, freeze and recovery (R255, R261). -/
def State.mshStates (s : State) (t : Nat) (v : Int) (twice : Bool) : State :=
  if s.flag SUP.VBINV then
    if s.flag MSH.FALLBACK then s else ((s.put MSH.FALLBACK 1).evt 0x0C 4).detect 0x2B 0
  else if s.flag MSH.FREEZE then
    if v < Int.ofNat (s.get MSH.VRECOV) then s.disarm .recover
    else if (s.due .recover).isSome then s else s.arm .recover (t + ms (s.get MSH.TIME))
  else if twice && !s.flag MSH.FALLBACK then
    ((((s.put MSH.FREEZE 1).evt 0x0C 0).count MSH.FREEZES).detect 0x29 0).disarm .recover
  else s

theorem State.mshStates_shows (s : State) (t : Nat) (v : Int) (twice : Bool) :
    let y := s.mshStates t v twice
    s.Steady y ∧ y.get MSH.OVSUSP = s.get MSH.OVSUSP ∧ (bitAt (s.get (Hdr.EVT 0x0C)) 3 = true → bitAt (y.get (Hdr.EVT 0x0C)) 3 = true)
      ∧ (s.get SUP.VBINV = 1 → y.get MSH.FALLBACK = 1 ∧ y.get MSH.FREEZE = s.get MSH.FREEZE)
      ∧ (s.get SUP.VBINV = 0 → s.get MSH.FREEZE = 0 →
        (twice = true ∧ s.get MSH.FALLBACK = 0 → y.get MSH.FREEZE = 1 ∧ y.get MSH.FREEZES = min (s.get MSH.FREEZES + 1) (2 ^ MSH.FREEZES.width - 1)
          ∧ bitAt (y.get (Hdr.EVT 0x0C)) 0 = true ∧ (0x29, 0) ∈ y.fcr.inbox)
        ∧ (¬ (twice = true ∧ s.get MSH.FALLBACK = 0) → y.get MSH.FREEZE = 0))
      ∧ (s.get SUP.VBINV = 0 → s.get MSH.FREEZE = 1 → y.get MSH.FREEZE = 1 ∧ (v < s.get MSH.VRECOV → y.due .recover = none)
        ∧ (s.get MSH.VRECOV ≤ v → s.due .recover = none → y.due .recover = some (t + ms (s.get MSH.TIME)))) := by
  have hinv := State.flag_one_iff s (f := SUP.VBINV) rfl
  have hfb := State.flag_one_iff s (f := MSH.FALLBACK) rfl
  have hfz := State.flag_one_iff s (f := MSH.FREEZE) rfl
  dsimp only
  unfold State.mshStates
  by_cases h1 : s.get SUP.VBINV = 1
  · rw [if_pos (hinv.mpr h1)]
    have hno : ∀ {p : Prop}, s.get SUP.VBINV = 0 → p := fun h => absurd h (by rw [h1]; decide)
    by_cases h2 : s.get MSH.FALLBACK = 1
    · rw [if_pos (hfb.mpr h2)]
      exact ⟨State.Steady.refl s, rfl, id, fun _ => ⟨h2, rfl⟩, hno, hno⟩
    · rw [if_neg (fun h => h2 (hfb.mp h))]
      refine ⟨((State.Steady.put s 1 rfl (by decide)).trans (State.Steady.put _ _ rfl (by decide))).trans (State.Steady.detect _ _ _), ?_, fun h => ?_, fun _ => ⟨?_, ?_⟩, hno, hno⟩
      · rw [State.get_detect, State.get_evt _ _ _ (by decide), State.get_put_apart _ _ _ _ (by decide)]
      · rw [State.get_detect]
        refine State.bitAt_evt_keeps ?_
        rw [State.get_put_apart _ _ _ _ (by decide)]
        exact h
      · rw [State.get_detect, State.get_evt _ _ _ (by decide), State.get_put_same _ _ _ (by decide)]
        decide
      · rw [State.get_detect, State.get_evt _ _ _ (by decide), State.get_put_apart _ _ _ _ (by decide)]
  · rw [if_neg (fun h => h1 (hinv.mp h))]
    by_cases h2 : s.get MSH.FREEZE = 1
    · rw [if_pos (hfz.mpr h2)]
      have hno : ∀ {p : Prop}, s.get MSH.FREEZE = 0 → p := fun h => absurd h (by rw [h2]; decide)
      by_cases h3 : v < Int.ofNat (s.get MSH.VRECOV)
      · rw [if_pos h3]
        exact ⟨(State.Steady.timers s _ t).2, rfl, id, fun h => absurd h h1, fun _ => hno, fun _ _ => ⟨h2, fun _ => State.due_disarm_same _ _, fun h => absurd h (Int.not_le.mpr h3)⟩⟩
      · rw [if_neg h3]
        split
        case isTrue h4 =>
          exact ⟨State.Steady.refl s, rfl, id, fun h => absurd h h1, fun _ => hno, fun _ _ => ⟨h2, fun h => absurd h h3, fun _ h => absurd h4 (by rw [h]; decide)⟩⟩
        case isFalse h4 =>
          exact ⟨(State.Steady.timers s _ _).1, rfl, id, fun h => absurd h h1, fun _ => hno, fun _ _ => ⟨h2, fun h => absurd h h3, fun _ _ => State.due_arm_same _ _ _⟩⟩
    · rw [if_neg (fun h => h2 (hfz.mp h))]
      have hz : s.get MSH.FREEZE = 0 := by
        have : s.get MSH.FREEZE < 2 := s.get_lt MSH.FREEZE
        omega
      have hfb0 : s.flag MSH.FALLBACK = false ↔ s.get MSH.FALLBACK = 0 := by
        rw [← Bool.not_eq_true, State.flag_iff, not_not]
      split
      case isTrue h3 =>
        rw [Bool.and_eq_true, Bool.not_eq_true', hfb0] at h3
        refine ⟨((((State.Steady.put s 1 rfl (by decide)).trans (State.Steady.put _ _ rfl (by decide))).trans (State.Steady.put _ _ rfl (by decide))).trans
          (State.Steady.detect _ 0x29 0)).trans (State.Steady.timers _ _ t).2, ?_, fun h => ?_, fun h => absurd h h1, fun _ _ => ⟨fun _ => ⟨?_, ?_, ?_, ?_⟩, fun h => absurd h3 h⟩, fun _ h => absurd h h2⟩
        · rw [State.get_disarm, State.get_detect, State.get_count_apart _ _ _ _ (by decide), State.get_evt _ _ _ (by decide), State.get_put_apart _ _ _ _ (by decide)]
        · rw [State.get_disarm, State.get_detect, State.get_count_apart _ _ _ _ (by decide)]
          refine State.bitAt_evt_keeps ?_
          rw [State.get_put_apart _ _ _ _ (by decide)]
          exact h
        · rw [State.get_disarm, State.get_detect, State.get_count_apart _ _ _ _ (by decide), State.get_evt _ _ _ (by decide), State.get_put_same _ _ _ (by decide)]
          decide
        · rw [State.get_disarm, State.get_detect, State.get_count_same _ _ _ (by decide), State.get_evt _ _ _ (by decide), State.get_put_apart _ _ _ _ (by decide)]
        · rw [State.get_disarm, State.get_detect, State.get_count_apart _ _ _ _ (by decide)]
          exact State.bitAt_evt_same _ _ (by decide)
        · exact List.mem_append_right _ (List.mem_singleton.mpr rfl)
      case isFalse h3 =>
        rw [Bool.and_eq_true, Bool.not_eq_true', hfb0] at h3
        exact ⟨State.Steady.refl s, rfl, id, fun h => absurd h h1, fun _ _ => ⟨fun h => absurd h h3, fun _ => hz⟩, fun _ h => absurd h h2⟩

/-- What the Marshal keeps of a measurement (R250, R255). -/
def State.mshKept (s : State) (t : Nat) (v : Int) : State := { s with msh := { s.msh with
  vprev := if s.flag SUP.VBINV then none else some v, vbat := v, ovLow := decide (v ≤ 3500) || (s.msh.ovLow && decide (v ≤ 3600))
  learns := s.msh.learns.map (fun (l : LearnSt) => if t ≤ l.due then l.convert v (s.heatCurrent l.items) else l) } }

theorem State.mshVbat_eq (s : State) (t : Nat) (v : Int) : s.mshVbat t v = ((s.mshKept t v).mshOver v).mshStates t v
    (decide (v < Int.ofNat (s.get MSH.VSAG)) && s.msh.vprev.any (fun p => decide (p < Int.ofNat (s.get MSH.VSAG)))) := rfl

/-- The Marshal's view of a measurement (R255, R257, R261). -/
theorem State.mshVbat_shows (s : State) (t : Nat) (v : Int) :
    let y := s.mshVbat t v
    y.msh.vbat = v ∧ y.msh.vprev = (if s.get SUP.VBINV = 1 then none else some v) ∧ (∀ g : Fld, g.page = 3 → g.off < 4096 → y.get g = s.get g)
      ∧ (∀ e ∈ s.fcr.inbox, e ∈ y.fcr.inbox) ∧ y.reverseAt = s.reverseAt ∧ y.outs = s.outs
      ∧ (3600 < v → y.get MSH.OVSUSP = 1 ∧ (s.get MSH.OVSUSP = 0 → bitAt (y.get (Hdr.EVT 0x0C)) 3 = true)) ∧ (v ≤ 3600 → y.get MSH.OVSUSP = s.get MSH.OVSUSP)
      ∧ (s.get SUP.VBINV = 1 → y.get MSH.FALLBACK = 1 ∧ y.get MSH.FREEZE = s.get MSH.FREEZE)
      ∧ (s.get SUP.VBINV = 0 → s.get MSH.FREEZE = 0 →
        let sag := v < s.get MSH.VSAG ∧ s.msh.vprev.any (fun p => decide (p < Int.ofNat (s.get MSH.VSAG))) = true ∧ s.get MSH.FALLBACK = 0
        (sag → y.get MSH.FREEZE = 1 ∧ y.get MSH.FREEZES = min (s.get MSH.FREEZES + 1) (2 ^ MSH.FREEZES.width - 1)
          ∧ bitAt (y.get (Hdr.EVT 0x0C)) 0 = true ∧ (0x29, 0) ∈ y.fcr.inbox)
        ∧ (¬ sag → y.get MSH.FREEZE = 0))
      ∧ (s.get SUP.VBINV = 0 → s.get MSH.FREEZE = 1 → y.get MSH.FREEZE = 1 ∧ (v < s.get MSH.VRECOV → y.due .recover = none)
        ∧ (s.get MSH.VRECOV ≤ v → s.due .recover = none → y.due .recover = some (t + ms (s.get MSH.TIME)))) := by
  dsimp only
  rw [State.mshVbat_eq]
  obtain ⟨k, hk⟩ : ∃ k, k = s.mshKept t v := ⟨_, rfl⟩
  have hkget : ∀ g, k.get g = s.get g := by rw [hk]; exact fun _ => rfl
  have hkmsh : k.msh.vbat = v ∧ k.msh.vprev = if s.get SUP.VBINV = 1 then none else some v := by
    rw [hk]
    refine ⟨rfl, ?_⟩
    show (if s.flag SUP.VBINV = true then none else some v) = _
    simp only [State.flag_one_iff s (f := SUP.VBINV) rfl]
  have hkrest : k.fcr = s.fcr ∧ k.reverseAt = s.reverseAt ∧ k.outs = s.outs ∧ k.timers = s.timers := by rw [hk]; exact ⟨rfl, rfl, rfl, rfl⟩
  rw [← hk]
  clear hk
  obtain ⟨os, og, ot, o1, o2⟩ := k.mshOver_shows v
  generalize k.mshOver v = m at os og ot o1 o2 ⊢
  have hm : ∀ g, MSH.OVSUSP.apart g → (Hdr.EVT 0x0C).apart g → m.get g = s.get g := fun g h h' => (og g h h').trans (hkget g)
  have hdue : m.due .recover = s.due .recover := by unfold State.due; rw [ot, hkrest.2.2.2]
  generalize htw : (decide (v < Int.ofNat (s.get MSH.VSAG)) && s.msh.vprev.any (fun p => decide (p < Int.ofNat (s.get MSH.VSAG)))) = twice
  have htwice : twice = true ↔ v < s.get MSH.VSAG ∧ s.msh.vprev.any (fun p => decide (p < Int.ofNat (s.get MSH.VSAG))) = true := by
    rw [← htw, Bool.and_eq_true, decide_eq_true_iff]
    rfl
  obtain ⟨ys, y1, y2, y3, y4, y5⟩ := m.mshStates_shows t v twice
  rw [hm SUP.VBINV (by decide) (by decide), hm MSH.FREEZE (by decide) (by decide)] at y3 y4 y5
  rw [hm MSH.FALLBACK (by decide) (by decide), hm MSH.FREEZES (by decide) (by decide), htwice, and_assoc] at y4
  rw [hm MSH.VRECOV (by decide) (by decide), hm MSH.TIME (by decide) (by decide), hdue] at y5
  have hall := os.trans ys
  generalize m.mshStates t v twice = y at ys y1 y2 y3 y4 y5 hall ⊢
  refine ⟨hall.vbat.1.trans hkmsh.1, hall.vbat.2.trans hkmsh.2, fun g h h' => (hall.sup g h h').trans (hkget g), fun e he => hall.inbox e (by rw [hkrest.1]; exact he),
    hall.rev.trans hkrest.2.1, hall.outs.trans hkrest.2.2.1, fun h => ?_, fun h => y1.trans ((o2 h).trans (hkget _)), y3, y4, y5⟩
  obtain ⟨p1, p2⟩ := o1 h
  exact ⟨y1.trans p1, fun h0 => y2 (p2 ((hkget _).trans h0))⟩

theorem exec_vbatConversion {s : State} (h : s.supRuns = true) (t : Nat) (a b : Int) :
    ∃ f, exec (.vbatConversion t a b) s = .next ((((((((((s.reach t).vbatMonitors t (satVbat a) (satVbat b)).reverseEnds (satVbat a)).vbatValid (satVbat a) (satVbat b)
      (decide (a < -4000) || decide (6000 < a) || decide (b < -4000) || decide (6000 < b)) t).ratings (satVbat a) t).vbatExtremes (satVbat a)).mshVbat t (satVbat a)).dinVbat t).setSup f).pulseRetry t) :=
  ⟨_, congrArg Host.Outcome.next (if_neg (not_not_intro h))⟩

/-- From the monitors of a conversion to the Marshal: the end of a reverse battery, validity, ratings and extremes. -/
theorem State.vbatChecked_shows (x : State) (t : Nat) {v : Int} (b : Int) (raw : Bool) (hv : -4000 ≤ v ∧ v ≤ 6000) :
    let z := (((x.reverseEnds v).vbatValid v b raw t).ratings v t).vbatExtremes v
    x.Metered [(SUP.REVERSE, none), (SUP.VBINV, none), (SUP.VBATMIN, none), (SUP.VBATMAX, none)] [8, 9] z
      ∧ (x.get SUP.REVERSE = 1 → z.get SUP.REVERSE = if -200 ≤ v then 0 else 1)
      ∧ (x.get SUP.REVERSE = 1 → -200 ≤ v → z.reverseAt = none ∧ ∀ u ∈ allUnits, (z.out u).revOn = false)
      ∧ (raw = true → z.get SUP.VBINV = 1 ∧ (x.get SUP.VBINV = 0 → bitAt (z.get (Hdr.EVT 3)) 3 = true))
      ∧ z.signed SUP.VBATMIN = min v (x.signed SUP.VBATMIN) ∧ z.signed SUP.VBATMAX = max v (x.signed SUP.VBATMAX) := by
  dsimp only
  have hkeep : ∀ w : State, (((w.vbatValid v b raw t).ratings v t).vbatExtremes v).reverseAt = w.reverseAt
      ∧ ∀ u, (((w.vbatValid v b raw t).ratings v t).vbatExtremes v).out u = w.out u := by
    intro w
    have hk : ∀ P : State → Prop, Blind.regs P → Blind.mem P → Blind.episodes P → Blind.fcr P → Blind.sup P → P w → P (((w.vbatValid v b raw t).ratings v t).vbatExtremes v) :=
      fun P h1 h2 h3 h4 h5 h => State.vbatExtremes_keeps h1 h5 (State.ratings_keeps h1 h2 h3 h4 h5 (State.vbatValid_keeps h1 h5 h v b raw t) v t) v
    exact ⟨hk (fun y => y.reverseAt = w.reverseAt) (fun _ _ _ h => h) (fun _ _ _ h => h) (fun _ _ h => h) (fun _ _ h => h) (fun _ _ h => h) rfl,
      fun u => hk (fun y => y.out u = w.out u) (fun _ _ _ h => h) (fun _ _ _ h => h) (fun _ _ h => h) (fun _ _ h => h) (fun _ _ h => h) rfl⟩
  obtain ⟨m1, h1, h2⟩ := x.reverseEnds_shows v
  generalize x.reverseEnds v = x1 at m1 h1 h2 ⊢
  obtain ⟨k1, k2⟩ := hkeep x1
  obtain ⟨m2, h3⟩ := x1.vbatValid_shows v b raw t
  generalize x1.vbatValid v b raw t = x2 at m2 h3 k1 k2 ⊢
  have m3 := x2.ratings_metered v t
  generalize x2.ratings v t = x3 at m3 k1 k2 ⊢
  obtain ⟨m4, h4, h5⟩ := x3.vbatExtremes_shows hv
  generalize x3.vbatExtremes v = z at m4 h4 h5 k1 k2 ⊢
  have m34 := m3.trans m4
  have m24 := m2.trans m34
  have m13 := (m1.trans m2).trans m3
  have hsigned : ∀ f : Fld, x3.get f = x.get f → x3.signed f = x.signed f := fun f h => by unfold State.signed; rw [h]
  rw [hsigned SUP.VBATMIN (m13.get (by decide) (by decide) (by decide))] at h4
  rw [hsigned SUP.VBATMAX (m13.get (by decide) (by decide) (by decide))] at h5
  refine ⟨m1.trans m24, fun h => (m24.get (by decide) (by decide) (by decide)).trans (h1 h), fun h h' => ?_, fun h => ?_, h4, h5⟩
  · obtain ⟨p1, p2⟩ := h2 h h'
    exact ⟨k1.trans p1, fun u hu => by rw [k2 u]; exact p2 u hu⟩
  · obtain ⟨p1, p2⟩ := h3 h
    exact ⟨(m34.get (by decide) (by decide) (by decide)).trans p1, fun h0 => m34.evt _ (p2 ((m1.get (by decide) (by decide) (by decide)).trans h0))⟩

/-- A condition of page 3, seen from after what leaves that page. -/
theorem State.Condition.after {bit k flt src ev : Nat} {outside inside : Prop} (h : s.Condition t x f bit k flt src ev outside inside) (hf : y.get f = x.get f)
    (he : y.get (Hdr.EVT 3) = x.get (Hdr.EVT 3)) (hi : ∀ e ∈ x.fcr.inbox, e ∈ y.fcr.inbox) : s.Condition t y f bit k flt src ev outside inside := by
  unfold State.Condition at h ⊢
  rw [hf, he]
  obtain ⟨h1, h2⟩ := h
  refine ⟨fun k1 k2 => ?_, h2⟩
  obtain ⟨p1, p2, p3⟩ := h1 k1 k2
  exact ⟨p1, p2, hi _ p3⟩

theorem satVbat_range (a : Int) : -4000 ≤ satVbat a ∧ satVbat a ≤ 6000 := by
  unfold satVbat
  omega

end

/-- What a rail conversion stores. -/
theorem State.railStored_shows (s : State) (vc vs vi kp : Nat) (tcd tbp : Int) :
    let y := s.railStored vc vs vi kp tcd tbp
    s.Metered [(SUP.VCORE, none), (SUP.VSER, none), (SUP.VIO, none), (SUP.VKEEP, none), (SUP.TCD, none), (SUP.TBP, none)] [] y
      ∧ y.get SUP.VCORE = vc % 2 ^ SUP.VCORE.width ∧ y.get SUP.VSER = vs % 2 ^ SUP.VSER.width ∧ y.get SUP.VIO = vi % 2 ^ SUP.VIO.width
      ∧ y.get SUP.VKEEP = kp % 2 ^ SUP.VKEEP.width ∧ y.get SUP.TCD = unsignedOf 16 tcd ∧ y.get SUP.TBP = unsignedOf 16 tbp := by
  dsimp only
  unfold State.railStored
  refine ⟨((((((State.Metered.put s _ _ (by decide)).trans (State.Metered.put _ _ _ (by decide))).trans (State.Metered.put _ _ _ (by decide))).trans
    (State.Metered.put _ _ _ (by decide))).trans (State.Metered.put _ _ _ (by decide))).trans (State.Metered.put _ _ _ (by decide))), ?_, ?_, ?_, ?_, ?_, ?_⟩
  · rw [State.get_put_apart _ _ _ _ (by decide), State.get_put_apart _ _ _ _ (by decide), State.get_put_apart _ _ _ _ (by decide), State.get_put_apart _ _ _ _ (by decide),
      State.get_put_apart _ _ _ _ (by decide), State.get_put_same _ _ _ (by decide)]
  · rw [State.get_put_apart _ _ _ _ (by decide), State.get_put_apart _ _ _ _ (by decide), State.get_put_apart _ _ _ _ (by decide), State.get_put_apart _ _ _ _ (by decide),
      State.get_put_same _ _ _ (by decide)]
  · rw [State.get_put_apart _ _ _ _ (by decide), State.get_put_apart _ _ _ _ (by decide), State.get_put_apart _ _ _ _ (by decide), State.get_put_same _ _ _ (by decide)]
  · rw [State.get_put_apart _ _ _ _ (by decide), State.get_put_apart _ _ _ _ (by decide), State.get_put_same _ _ _ (by decide)]
  · rw [State.get_put_apart _ _ _ _ (by decide), State.get_put_same _ _ _ (by decide)]
    exact Nat.mod_eq_of_lt (unsignedOf_lt tcd)
  · rw [State.get_put_same _ _ _ (by decide)]
    exact Nat.mod_eq_of_lt (unsignedOf_lt tbp)

/-- A rail conversion: what it stores, and each of its conditions (R672). -/
theorem State.rail_shows (s : State) (lo hi vc vs vi kp : Nat) (tcd tbp : Int) (t : Nat) (f : SupSt → SupSt) :
    let y := ((s.railStored vc vs vi kp tcd tbp).railMonitors (lo, hi) vc vs vi kp tcd tbp t).setSup f
    y.get SUP.VCORE = vc % 2 ^ SUP.VCORE.width ∧ y.get SUP.VSER = vs % 2 ^ SUP.VSER.width ∧ y.get SUP.VIO = vi % 2 ^ SUP.VIO.width
    ∧ y.get SUP.VKEEP = kp % 2 ^ SUP.VKEEP.width ∧ y.get SUP.TCD = unsignedOf 16 tcd ∧ y.get SUP.TBP = unsignedOf 16 tbp
    ∧ s.Condition t y SUP.RAILOUT 0 2 (us 10) 0x0B 4 (100 * vc < 95 * lo ∨ 105 * hi < 100 * vc) (96 * lo ≤ 100 * vc ∧ 100 * vc ≤ 104 * hi)
    ∧ s.Condition t y SUP.RAILOUT 1 3 (us 10) 0x0C 4 (vs < 855 ∨ 945 < vs) (865 ≤ vs ∧ vs ≤ 935)
    ∧ s.Condition t y SUP.RAILOUT 2 4 (us 10) 0x0D 4 (vi < 1710 ∨ 1890 < vi) (1730 ≤ vi ∧ vi ≤ 1870)
    ∧ s.Condition t y SUP.RAILOUT 3 5 (us 100) 0x0E 4 (kp < 1100 ∨ 1300 < kp) (1120 ≤ kp ∧ kp ≤ 1280)
    ∧ s.Condition t y SUP.TEMPCD 0 6 (ms 1) 0x0F 5 (1000 < tcd) (tcd ≤ 960)
    ∧ s.Condition t y SUP.TEMPBP 0 7 (ms 1) 0x10 5 (840 < tbp) (tbp ≤ 800) := by
  dsimp only
  obtain ⟨m0, h1, h2, h3, h4, h5, h6⟩ := s.railStored_shows vc vs vi kp tcd tbp
  generalize s.railStored vc vs vi kp tcd tbp = x at m0 h1 h2 h3 h4 h5 h6 ⊢
  obtain ⟨⟨bits, ks, m1, hb⟩, c1, c2, c3, c4, c5, c6⟩ := x.railMonitors_shows lo hi vc vs vi kp tcd tbp t
  generalize x.railMonitors (lo, hi) vc vs vi kp tcd tbp t = y at m1 c1 c2 c3 c4 c5 c6 ⊢
  have hget : ∀ {g : Fld}, g.watched → SUP.RAILOUT.apart g → SUP.TEMPCD.apart g → SUP.TEMPBP.apart g → (Hdr.EVT 3).apart g → y.get g = x.get g := by
    intro g hw k1 k2 k3 k4
    refine m1.get hw (fun e he => ?_) k4
    rcases hb e he with h | h | h <;> rw [h] <;> assumption
  have hc : ∀ {g : Fld} {bit k flt src ev : Nat} {o i : Prop}, x.Condition t y g bit k flt src ev o i → g.watched → (Hdr.EVT 3).apart g →
      (∀ e ∈ [(SUP.VCORE, (none : Option Nat)), (SUP.VSER, none), (SUP.VIO, none), (SUP.VKEEP, none), (SUP.TCD, none), (SUP.TBP, none)], e.1.apart g) →
      s.Condition t (y.setSup f) g bit k flt src ev o i := fun h hw he ha =>
    (h.within m0 (State.Metered.refl y) hw he (by simp) (fun e hm => .inl (ha e hm)) (by simp)).after rfl rfl (fun _ h => h)
  refine ⟨(hget (by decide) (by decide) (by decide) (by decide) (by decide)).trans h1, (hget (by decide) (by decide) (by decide) (by decide) (by decide)).trans h2,
    (hget (by decide) (by decide) (by decide) (by decide) (by decide)).trans h3, (hget (by decide) (by decide) (by decide) (by decide) (by decide)).trans h4,
    (hget (by decide) (by decide) (by decide) (by decide) (by decide)).trans h5, (hget (by decide) (by decide) (by decide) (by decide) (by decide)).trans h6,
    hc c1 (by decide) (by decide) (by decide), hc c2 (by decide) (by decide) (by decide), hc c3 (by decide) (by decide) (by decide),
    hc c4 (by decide) (by decide) (by decide), hc c5 (by decide) (by decide) (by decide), hc c6 (by decide) (by decide) (by decide)⟩

/-- Settles O53: each quantity is filtered and decided in turn, and no later step of a conversion touches what an earlier one has shown. -/
theorem suppliesMonitored : Obligations.SuppliesMonitored := by
  unfold Obligations.SuppliesMonitored
  intro s t
  refine ⟨fun hr => ?off, fun hr a b => ?vbat, fun hr vc vs vi kp tcd tbp => ?rail⟩
  case off =>
    have h : ¬ (s.reach t).supRuns = true := fun h => hr (s.supRuns_iff.mp h)
    exact ⟨fun a b => ⟨_, congrArg Host.Outcome.next (if_pos h), rfl⟩, fun a b c d e f => ⟨_, congrArg Host.Outcome.next (if_pos h), rfl⟩⟩
  case rail =>
    refine ⟨_, exec_railConversion (s.supRuns_iff.mpr hr) t vc vs vi kp tcd tbp, ?_⟩
    rw [State.vcoreEdges_eq]
    dsimp only
    generalize (if s.get PWR.REGBUSY = 1 then (s.pwr.reg.head?.map (fun r => min (s.get AGE.VREQ) r.volt)).getD (s.get AGE.VREQ) else s.get AGE.VREQ) = lo
    generalize (if s.get PWR.REGBUSY = 1 then (s.pwr.reg.head?.map (fun r => max (s.get AGE.VREQ) r.volt)).getD (s.get AGE.VREQ) else s.get AGE.VREQ) = hi
    exact (s.reach t).rail_shows lo hi vc vs vi kp tcd tbp t _
  case vbat =>
    obtain ⟨f, hf⟩ := exec_vbatConversion (s.supRuns_iff.mpr hr) t a b
    refine ⟨_, hf, ?_⟩
    have hl : ∀ w : Int, max (-4000) (min 6000 w) = satVbat w := fun _ => rfl
    simp only [hl]
    have hv := satVbat_range a
    generalize satVbat a = v at hv ⊢
    generalize satVbat b = w
    have hraw : a < -4000 ∨ 6000 < a ∨ b < -4000 ∨ 6000 < b → (decide (a < -4000) || decide (6000 < a) || decide (b < -4000) || decide (6000 < b)) = true := by simp [or_assoc]
    generalize (decide (a < -4000) || decide (6000 < a) || decide (b < -4000) || decide (6000 < b)) = raw at hraw ⊢
    obtain ⟨mx, x1, x2, x3, x4, x5, x6, x7⟩ := (s.reach t).vbatMonitors_shows t v w
    generalize (s.reach t).vbatMonitors t v w = x at mx x1 x2 x3 x4 x5 x6 x7 ⊢
    obtain ⟨mz, z1, z2, z3, z4, z5⟩ := x.vbatChecked_shows t w raw hv
    generalize (((x.reverseEnds v).vbatValid v w raw t).ratings v t).vbatExtremes v = z at mz z1 z2 z3 z4 z5 ⊢
    have msz := mx.trans mz
    obtain ⟨w1, w2, w3, w4, w5, w6, w7, w8, w9, w10, w11⟩ := z.mshVbat_shows t v
    generalize z.mshVbat t v = u at w1 w2 w3 w4 w5 w6 w7 w8 w9 w10 w11 ⊢
    have aside : u.Aside (((u.dinVbat t).setSup f).pulseRetry t) :=
      ((u.dinVbat_aside t).trans (State.Aside.setSup _ f)).trans (State.pulseRetry_aside _ t)
    generalize ((u.dinVbat t).setSup f).pulseRetry t = y at aside ⊢
    have ysup : ∀ {o l d : Nat}, o < 4096 → y.get ⟨3, o, l, d⟩ = z.get ⟨3, o, l, d⟩ := fun ho => (aside.get _ ⟨.inl rfl, ho⟩).trans (w3 _ rfl ho)
    have ymsh : ∀ {o l d : Nat}, o < 4096 → y.get ⟨0x0C, o, l, d⟩ = u.get ⟨0x0C, o, l, d⟩ := fun ho => aside.get _ ⟨.inr rfl, ho⟩
    have yin : ∀ e ∈ z.fcr.inbox, e ∈ y.fcr.inbox := fun e he => aside.inbox e (w4 e he)
    have ysig : ∀ {o l d : Nat}, o < 4096 → y.signed ⟨3, o, l, d⟩ = z.signed ⟨3, o, l, d⟩ := fun ho => by unfold State.signed; rw [ysup ho]
    have zmsh : ∀ {o l d : Nat}, o < 4096 → z.get ⟨0x0C, o, l, d⟩ = s.get ⟨0x0C, o, l, d⟩ := fun ho =>
      msz.get ⟨.inr rfl, ho⟩ (fun e he => .inl (by
        have hp : e.1.page = 3 ∧ e.1.off < 4096 := by revert e he; decide
        unfold Fld.away regKey
        dsimp only
        omega)) (Fld.apart_mk (by omega))
    have zprev : z.msh.vprev = s.msh.vprev := by rw [msz.msh]; rfl
    have zdue : z.due .recover = s.due .recover := by unfold State.due; rw [msz.timers]; rfl
    have xsig : ∀ f : Fld, x.get f = s.get f → x.signed f = s.signed f := fun f h => by unfold State.signed; rw [h]
    have yevt : y.get (Hdr.EVT 3) = z.get (Hdr.EVT 3) := ysup (by decide)
    have yevt12 : y.get (Hdr.EVT 0x0C) = u.get (Hdr.EVT 0x0C) := ymsh (by decide)
    have yinv : y.get SUP.VBINV = z.get SUP.VBINV := ysup (by decide)
    have zrev : s.get SUP.REVERSE = 1 → x.get SUP.REVERSE = 1 := fun h => (mx.get (by decide) (by decide) (by decide)).trans h
    refine ⟨?_, ?_, ?_, ?_, ?_, ?_, ?_, ?_, ?_, ?_, ?_, ?_, ?_, ?_, ?_, ?_, ?_, ?_, ?_⟩
    · exact ((ysup (by decide)).trans (mz.get (by decide) (by decide) (by decide))).trans x1
    · exact ((ysup (by decide)).trans (mz.get (by decide) (by decide) (by decide))).trans x2
    · exact aside.vbat.1.trans w1
    · rw [yinv]
      exact aside.vbat.2.trans w2
    · rw [ysig (by decide), z4, xsig SUP.VBATMIN (mx.get (by decide) (by decide) (by decide))]
    · rw [ysig (by decide), z5, xsig SUP.VBATMAX (mx.get (by decide) (by decide) (by decide))]
    · exact (x3.within (State.Metered.refl _) mz (by decide) (by decide) (by decide) (by decide) (by decide)).after (ysup (by decide)) yevt yin
    · exact (x4.within (State.Metered.refl _) mz (by decide) (by decide) (by decide) (by decide) (by decide)).after (ysup (by decide)) yevt yin
    · have hcnt : y.get SUP.UVCNT = x.get SUP.UVCNT := (ysup (by decide)).trans (mz.get (by decide) (by decide) (by decide))
      have huv : y.get SUP.UV = x.get SUP.UV := (ysup (by decide)).trans (mz.get (by decide) (by decide) (by decide))
      rw [hcnt, huv]
      exact x5
    · exact ((ysup (by decide)).trans (mz.get (by decide) (by decide) (by decide))).trans x6
    · intro h1 h2
      obtain ⟨p1, p2⟩ := x7 h1 h2
      rw [yevt]
      exact ⟨mz.evt _ p1, ((ysup (by decide)).trans (mz.get (by decide) (by decide) (by decide))).trans p2⟩
    · exact fun h => (ysup (by decide)).trans (z1 (zrev h))
    · intro h1 h2
      obtain ⟨p1, p2⟩ := z2 (zrev h1) h2
      refine ⟨aside.rev.trans (w5.trans p1), List.all_eq_true.mpr (fun e he => ?_)⟩
      have hout : u.out e = z.out e := by unfold State.out; rw [w6]
      rw [aside.revOn, hout, p2 e he]
      rfl
    · intro h
      obtain ⟨p1, p2⟩ := z3 (hraw h)
      rw [yevt]
      exact ⟨yinv.trans p1, fun h0 => p2 ((mx.get (by decide) (by decide) (by decide)).trans h0)⟩
    · intro h
      obtain ⟨p1, p2⟩ := w7 h
      rw [yevt12]
      exact ⟨(ymsh (by decide)).trans p1, fun h0 => p2 ((zmsh (by decide)).trans h0)⟩
    · exact fun h => (ymsh (by decide)).trans ((w8 h).trans (zmsh (by decide)))
    · intro h
      obtain ⟨p1, p2⟩ := w9 (yinv ▸ h)
      exact ⟨(ymsh (by decide)).trans p1, (ymsh (by decide)).trans (p2.trans (zmsh (by decide)))⟩
    · intro h1 h2
      have hz := w10 (yinv ▸ h1) ((zmsh (by decide)).trans h2)
      dsimp only at hz
      rw [zmsh (by decide), zmsh (by decide), zmsh (by decide), zprev] at hz
      obtain ⟨p1, p2⟩ := hz
      refine ⟨fun h => ?_, fun h => (ymsh (by decide)).trans (p2 h)⟩
      obtain ⟨q1, q2, q3, q4⟩ := p1 h
      rw [yevt12]
      exact ⟨(ymsh (by decide)).trans q1, (ymsh (by decide)).trans q2, q3, aside.inbox _ q4⟩
    · intro h1 h2
      have hz := w11 (yinv ▸ h1) ((zmsh (by decide)).trans h2)
      rw [zmsh (by decide), zmsh (by decide), zdue] at hz
      obtain ⟨p1, p2, p3⟩ := hz
      exact ⟨(ymsh (by decide)).trans p1, fun h => aside.recover.trans (p2 h), fun h h' => aside.recover.trans (p3 h h')⟩

end Sys2Proof.Machine

namespace Sys2Proof.Machine

-- One declaration after another: each kernel evaluation beside others holds a thread's stack, and the whole text has one memory limit.
set_option Elab.async false

/-! The Marshal's decision (O31). -/

/-- A field that the bank check leaves (R271, R282). -/
def Fld.offBank (g : Fld) : Prop := ∀ f : Fld, (f = VDC.PROF ∨ f = VDC.CHAN ∨ ∃ q < 4, f = VDB.PKDLY q) → f.apart g

theorem Fld.offBank_mk {p o l w : Nat} (h : p * 4096 + o ≠ 0x1C * 4096 + 0x120) (h' : ∀ q < 4, p * 4096 + o ≠ (0x18 + q) * 4096 + 0x58) : Fld.offBank ⟨p, o, l, w⟩ := by
  rintro f (rfl | rfl | ⟨q, hq, rfl⟩)
  · exact Or.inl (fun e => h e.symm)
  · exact Or.inl (fun e => h e.symm)
  · exact Or.inl (fun e => h' q hq e.symm)

/-- Only what a bank check writes differs: profiles, its words and its plan. -/
structure State.Banked (a b : State) : Prop where
  get : ∀ g : Fld, g.offBank → b.get g = a.get g
  outs : b.outs = a.outs
  img : b.img = a.img
  cfgAct : b.cfgAct = a.cfgAct
  fcr : b.fcr = a.fcr
  pwr : b.pwr = a.pwr
  stride : b.stride = a.stride
  phyLines : b.phyLines = a.phyLines
  msh : b.msh = { a.msh with plan := b.msh.plan }

section
variable {s a b x y : State}

theorem State.Banked.refl (s : State) : s.Banked s := ⟨fun _ _ => rfl, rfl, rfl, rfl, rfl, rfl, rfl, rfl, rfl⟩

theorem State.Banked.trans (h : a.Banked b) (h' : b.Banked x) : a.Banked x where
  get g hg := (h'.get g hg).trans (h.get g hg)
  outs := h'.outs.trans h.outs
  img := h'.img.trans h.img
  cfgAct := h'.cfgAct.trans h.cfgAct
  fcr := h'.fcr.trans h.fcr
  pwr := h'.pwr.trans h.pwr
  stride := h'.stride.trans h.stride
  phyLines := h'.phyLines.trans h.phyLines
  msh := by rw [h'.msh, h.msh]

theorem State.Banked.put (s : State) {f : Fld} (v : Nat) (hf : f = VDC.PROF ∨ f = VDC.CHAN ∨ ∃ q < 4, f = VDB.PKDLY q) : s.Banked (s.put f v) :=
  ⟨fun _ hg => State.get_put_apart _ _ _ _ (hg f hf), rfl, rfl, rfl, rfl, rfl, rfl, rfl, rfl⟩

theorem State.Banked.setValve (s : State) (n : Nat) (f : ValveSt → ValveSt) : s.Banked (s.setValve n f) := ⟨fun _ _ => rfl, rfl, rfl, rfl, rfl, rfl, rfl, rfl, rfl⟩

theorem State.Banked.plan (s : State) (l : List (Nat × BankPlan)) : s.Banked { s with msh := { s.msh with plan := l } } := ⟨fun _ _ => rfl, rfl, rfl, rfl, rfl, rfl, rfl, rfl, rfl⟩

/-- One candidate under its bank's policy. -/
theorem State.bankCandidate_banked (acc : State × Nat × Bool) {n : Nat} (hn : n < 16) (m : Nat) : acc.1.Banked (State.bankCandidate acc n m).1 := by
  have hq : ∃ q < 4, VDB.PKDLY (n / 4) = VDB.PKDLY q := ⟨n / 4, by omega, rfl⟩
  unfold State.bankCandidate
  dsimp only
  split
  · exact ((State.Banked.put _ _ (.inl rfl)).trans (State.Banked.put _ _ (.inr (.inl rfl)))).trans (State.Banked.plan _ _)
  · have hx : acc.1.Banked (if decide (acc.1.next (VDB.MODE n) = 1) = true then acc.1.setValve n (fun v => { v with prof := profInit }) else acc.1.copyProf n (acc.1.next (VDB.PROF n))) := by
      split
      · exact State.Banked.setValve _ _ _
      · unfold State.copyProf
        exact State.Banked.setValve _ _ _
    generalize (if decide (acc.1.next (VDB.MODE n) = 1) = true then acc.1.setValve n (fun v => { v with prof := profInit }) else acc.1.copyProf n (acc.1.next (VDB.PROF n))) = x at hx ⊢
    split
    · exact hx.trans (State.Banked.plan _ _)
    · split
      · exact (hx.trans (State.Banked.put x _ (.inr (.inr hq)))).trans (State.Banked.plan _ _)
      · split
        · exact hx.trans (State.Banked.plan _ _)
        · exact ((hx.trans (State.Banked.put x _ (.inr (.inr hq)))).trans (State.Banked.setValve _ _ _)).trans (State.Banked.plan _ _)

theorem State.bankDecide_banked (s : State) {b : Nat} (hb : b < 4) (m : Nat) (fresh : Bool) : s.Banked (s.bankDecide b m fresh) := by
  unfold State.bankDecide
  dsimp only
  have hall : ∀ n ∈ ((((List.range 4).map (fun k => 4 * b + k)).filter (fun n => decide (s.phase (.vd n) = .bwait) && s.vdNext n)).mergeSort
      (fun x y => decide ((s.valve x).bwaitLap ≤ (s.valve y).bwaitLap)) ++ ((List.range 4).map (fun k => 4 * b + k)).filter (fun n => s.vdAsks n fresh)), n < 16 := by
    intro n hn
    rw [List.mem_append, List.mem_mergeSort, List.mem_filter, List.mem_filter, List.mem_map] at hn
    rcases hn with ⟨⟨k, hk, rfl⟩, -⟩ | ⟨⟨k, hk, rfl⟩, -⟩ <;> have := List.mem_range.mp hk <;> omega
  generalize ((((List.range 4).map (fun k => 4 * b + k)).filter (fun n => decide (s.phase (.vd n) = .bwait) && s.vdNext n)).mergeSort
      (fun x y => decide ((s.valve x).bwaitLap ≤ (s.valve y).bwaitLap)) ++ ((List.range 4).map (fun k => 4 * b + k)).filter (fun n => s.vdAsks n fresh)) = l at hall ⊢
  have hfold : ∀ (l : List Nat), (∀ n ∈ l, n < 16) → ∀ acc : State × Nat × Bool, s.Banked acc.1 → s.Banked (l.foldl (fun acc n => State.bankCandidate acc n m) acc).1 := by
    intro l
    induction l with
    | nil => exact fun _ _ h => h
    | cons n l ih => exact fun hl acc h => ih (fun k hk => hl k (.tail _ hk)) _ (h.trans (State.bankCandidate_banked acc (hl n (.head _)) m))
  exact hfold l hall _ (State.Banked.refl s)

/-- The four bank checks of a decision. -/
def State.banksDecide (s : State) (m : Nat) (fresh : Bool) : State := (List.range 4).foldl (fun s b => s.bankDecide b m fresh) s

theorem State.banksDecide_banked (s : State) (m : Nat) (fresh : Bool) : s.Banked (s.banksDecide m fresh) := by
  have hfold : ∀ (l : List Nat), (∀ n ∈ l, n < 4) → ∀ y : State, s.Banked y → s.Banked (l.foldl (fun s b => s.bankDecide b m fresh) y) := by
    intro l
    induction l with
    | nil => exact fun _ _ h => h
    | cons n l ih => exact fun hl y h => ih (fun k hk => hl k (.tail _ hk)) _ (h.trans (y.bankDecide_banked (hl n (.head _)) m fresh))
  exact hfold _ (fun n hn => List.mem_range.mp hn) s (State.Banked.refl s)

/-! The bank checks leave the steady use. -/

theorem State.Banked.act (h : a.Banked b) (f : Fld) : b.act f = a.act f := by
  unfold State.act
  rw [h.img, h.cfgAct]

theorem State.Banked.members (h : a.Banked b) (u : OutU) : b.members u = a.members u := by
  unfold State.members
  simp only [h.act]

theorem State.Banked.master (h : a.Banked b) (u : OutU) : b.master u = a.master u := by
  unfold State.master
  rw [h.members]

theorem State.Banked.flag (h : a.Banked b) {g : Fld} (hg : g.offBank) : b.flag g = a.flag g := State.flag_of_get (h.get g hg)

theorem State.Banked.out (h : a.Banked b) (u : OutU) : b.out u = a.out u := by
  unfold State.out
  rw [h.outs]

theorem State.Banked.phase (h : a.Banked b) {u : OutU} (hu : (fState u).offBank) : b.phase u = a.phase u := by
  unfold State.phase
  rw [h.out, h.get _ hu]

theorem State.Banked.measured (h : a.Banked b) {i : Nat} (hi : i < 84) : b.measured i = a.measured i := by
  unfold State.measured
  by_cases h1 : i < 56
  · rw [if_pos h1, if_pos h1, h.phase (u := .ls i) (Fld.offBank_mk (by omega) (by intro q hq; omega)), h.get (LSW.IOUT i) (Fld.offBank_mk (by omega) (by intro q hq; omega))]
  · rw [if_neg h1, if_neg h1]
    by_cases h2 : i < 72
    · rw [if_pos h2, if_pos h2, h.phase (u := .vd (i - 56)) (Fld.offBank_mk (by omega) (by intro q hq; omega)),
        h.get (VDB.IMEAS (i - 56)) (Fld.offBank_mk (by omega) (by intro q hq; omega))]
    · rw [if_neg h2, if_neg h2, if_pos hi, if_pos hi, h.phase (u := .hb (i - 72)) (Fld.offBank_mk (by omega) (by intro q hq; omega))]
      have hs : b.signed (HB.IOUT (i - 72)) = a.signed (HB.IOUT (i - 72)) := by
        unfold State.signed
        rw [h.get _ (Fld.offBank_mk (by omega) (by intro q hq; omega))]
      rw [hs]

theorem State.Banked.litStill (h : a.Banked b) (i k : Nat) : b.litStill i k = a.litStill i k := by
  have hheld : ∀ u, b.held u = a.held u := fun u => by unfold State.held; rw [h.members, h.fcr]
  have hcool : b.cooling = a.cooling := by unfold State.cooling; rw [h.pwr, h.stride]
  have hled : b.wants (.led k) = a.wants (.led k) := by
    have hen : b.flag (Hdr.EN 0x20) = a.flag (Hdr.EN 0x20) := h.flag (Fld.offBank_mk (by omega) (by intro q hq; omega))
    have hk : b.flag (LDS.EN k) = a.flag (LDS.EN k) := h.flag (Fld.offBank_mk (by omega) (by intro q hq; omega))
    have hcmd : ∀ y : State, y.cmdOn (.led k) = (y.flag (Hdr.EN 0x20) && y.flag (LDS.EN k) && !y.cooling && !y.held (.led k) && !false) := fun _ => rfl
    unfold State.wants
    rw [h.out, hcmd, hcmd, hen, hk, hheld, hcool]
  have hrow : b.wants (.row k) = a.wants (.row k) := by
    have hen : b.flag (Hdr.EN 0x21) = a.flag (Hdr.EN 0x21) := h.flag (Fld.offBank_mk (by omega) (by intro q hq; omega))
    have hk : b.flag (LMX.EN k) = a.flag (LMX.EN k) := h.flag (Fld.offBank_mk (by omega) (by intro q hq; omega))
    have hcmd : ∀ y : State, y.cmdOn (.row k) = (y.flag (Hdr.EN 0x21) && y.flag (LMX.EN k) && !y.cooling && !y.held (.row k) && !false) := fun _ => rfl
    unfold State.wants
    rw [h.out, hcmd, hcmd, hen, hk, hheld, hcool]
  unfold State.litStill
  rw [hled, hrow, h.phyLines]

theorem State.Banked.contuse (h : a.Banked b) : b.contuse = a.contuse := by
  have hwake : b.get MSH.WAKEW = a.get MSH.WAKEW := h.get _ (Fld.offBank_mk (by omega) (by intro q hq; omega))
  have hsteady : b.msh.steady = a.msh.steady := by rw [h.msh]
  have hlit : b.msh.lit = a.msh.lit := by rw [h.msh]
  have hstill : ∀ i, b.litStill i = a.litStill i := fun i => funext (h.litStill i)
  unfold State.contuse
  simp only [hsteady, hlit, hwake, hstill, h.master]
  have hrun : (List.range 84).map (fun i => if a.msh.steady.any (fun e => decide (e.1 = i)) then 0 else
      if a.master (if i < 56 then .ls i else if i < 72 then .vd (i - 56) else .hb (i - 72)) = (if i < 56 then .ls i else if i < 72 then .vd (i - 56) else .hb (i - 72)) then b.measured i else 0)
      = (List.range 84).map (fun i => if a.msh.steady.any (fun e => decide (e.1 = i)) then 0 else
      if a.master (if i < 56 then .ls i else if i < 72 then .vd (i - 56) else .hb (i - 72)) = (if i < 56 then .ls i else if i < 72 then .vd (i - 56) else .hb (i - 72)) then a.measured i else 0) :=
    List.map_congr_left (fun i hi => by rw [h.measured (List.mem_range.mp hi)])
  rw [hrun]

/-! What a decision admits. -/

/-- The weight that an admission pass counts of a start (R247, R261). -/
def State.passWeight (s : State) (fallback : Bool) (w : MshWait) : Nat :=
  if fallback then (if w.item < 56 then inrushLimit w.item * (s.members (.ls w.item)).length else s.peakWeight w) else s.peakWeight w

/-- One candidate of a pass (R248, R249, R252, R261). -/
def State.admitStep (s : State) (budget cont : Nat) (fallback : Bool) (acc : List MshWait × Used) (w : MshWait) : List MshWait × Used :=
  let u := acc.2
  let st := s.steadyWeight w
  let fits := decide (u.peak + s.passWeight fallback w ≤ budget)
    && (fallback || (if cont > s.get MSH.ICONT then decide (st = 0) else decide (cont + u.steady + st ≤ s.get MSH.ICONT)))
  if u.stop then acc
  else if fits then (acc.1 ++ [w], ⟨u.peak + s.passWeight fallback w, u.steady + st, false⟩)
  else (acc.1, { u with stop := true })

theorem State.admitted_eq (s : State) (budget cont : Nat) (fallback : Bool) (ws : List MshWait) :
    s.admitted budget cont fallback ws = (ws.foldl (s.admitStep budget cont fallback) ([], ⟨0, 0, false⟩)).1 := rfl

/-- What a pass has admitted weighs what it has counted, within the budget, and comes from the candidates. -/
def State.Admits (s : State) (budget : Nat) (fallback : Bool) (ws : List MshWait) (acc : List MshWait × Used) : Prop :=
  (acc.1.map (s.passWeight fallback)).sum = acc.2.peak ∧ acc.2.peak ≤ budget ∧ ∀ w ∈ acc.1, w ∈ ws

theorem State.Admits.step {budget cont : Nat} {fallback : Bool} {ws : List MshWait} {acc : List MshWait × Used} (h : s.Admits budget fallback ws acc) {w : MshWait} (hw : w ∈ ws) :
    s.Admits budget fallback ws (s.admitStep budget cont fallback acc w) := by
  obtain ⟨h1, h2, h3⟩ := h
  unfold State.admitStep
  dsimp only
  generalize (fallback || (if cont > s.get MSH.ICONT then decide (s.steadyWeight w = 0) else decide (cont + acc.2.steady + s.steadyWeight w ≤ s.get MSH.ICONT))) = c
  split
  · exact ⟨h1, h2, h3⟩
  · split
    case isTrue hf =>
      rw [Bool.and_eq_true, decide_eq_true_iff] at hf
      refine ⟨?_, hf.1, fun v hv => ?_⟩
      · rw [List.map_append, List.sum_append, h1]
        simp
      · rcases List.mem_append.mp hv with hv | hv
        · exact h3 v hv
        · exact List.mem_singleton.mp hv ▸ hw
    case isFalse => exact ⟨h1, h2, h3⟩

/-- A pass admits what fits (R252). -/
theorem State.admitted_fits (s : State) (budget cont : Nat) (fallback : Bool) (ws : List MshWait) :
    ((s.admitted budget cont fallback ws).map (s.passWeight fallback)).sum ≤ budget ∧ ∀ w ∈ s.admitted budget cont fallback ws, w ∈ ws := by
  have hfold : ∀ (l : List MshWait) (acc : List MshWait × Used), s.Admits budget fallback ws acc → (∀ w ∈ l, w ∈ ws) →
      s.Admits budget fallback ws (l.foldl (s.admitStep budget cont fallback) acc) := by
    intro l
    induction l with
    | nil => exact fun _ h _ => h
    | cons w l ih => exact fun acc h hl => ih _ (h.step (hl w (.head _))) (fun v hv => hl v (.tail _ hv))
  obtain ⟨h1, h2, h3⟩ := hfold ws ([], ⟨0, 0, false⟩) ⟨rfl, Nat.zero_le _, by simp⟩ (fun _ h => h)
  rw [State.admitted_eq, h1]
  exact ⟨h2, h3⟩

/-- The load switches of a pass in fallback (R261). -/
theorem State.admitted_fallback (s : State) (budget cont : Nat) (ws : List MshWait) :
    (((s.admitted budget cont true ws).filter (fun w => decide (w.item < 56))).map (fun w => inrushLimit w.item * (s.members (.ls w.item)).length)).sum ≤ budget := by
  refine le_trans ?_ (s.admitted_fits budget cont true ws).1
  generalize s.admitted budget cont true ws = l
  induction l with
  | nil => exact Nat.le_refl _
  | cons w l ih =>
    rw [List.map_cons, List.sum_cons]
    by_cases h : w.item < 56
    · rw [List.filter_cons_of_pos (by simpa using h), List.map_cons, List.sum_cons]
      have hp : s.passWeight true w = inrushLimit w.item * (s.members (.ls w.item)).length := if_pos h
      omega
    · rw [List.filter_cons_of_neg (by simpa using h)]
      omega

/-! The deferred starts. -/

/-- Only what the yield of a deferred start writes differs. -/
structure State.Yielded (a b : State) : Prop where
  get : ∀ g : Fld, g.page ≠ 0 → g.page ≠ 7 → g.off < 4096 → MSH.DEFER.apart g → (Hdr.EVT 0x0C).apart g → b.get g = a.get g
  outs : b.outs = a.outs
  img : b.img = a.img
  cfgAct : b.cfgAct = a.cfgAct
  shadow : b.shadow = a.shadow
  valves : b.valves = a.valves
  msh : b.msh = a.msh

theorem State.Yielded.refl (s : State) : s.Yielded s := ⟨fun _ _ _ _ _ _ => rfl, rfl, rfl, rfl, rfl, rfl, rfl⟩

theorem State.Yielded.trans (h : a.Yielded b) (h' : b.Yielded x) : a.Yielded x where
  get g h1 h2 h3 h4 h5 := (h'.get g h1 h2 h3 h4 h5).trans (h.get g h1 h2 h3 h4 h5)
  outs := h'.outs.trans h.outs
  img := h'.img.trans h.img
  cfgAct := h'.cfgAct.trans h.cfgAct
  shadow := h'.shadow.trans h.shadow
  valves := h'.valves.trans h.valves
  msh := h'.msh.trans h.msh

theorem State.deferStart_yielded (s : State) (w : MshWait) {cause : Nat} (t : Nat) :
    s.Yielded (s.deferStart w cause t).1 ∧ (s.deferStart w cause t).2.item = w.item ∧ (s.deferStart w cause t).2.units = w.units := by
  have hk : ∀ P : State → Prop, Blind.regs P → Blind.mem P → Blind.episodes P → Blind.fcr P → P s → P (s.deferStart w cause t).1 := fun P h1 h2 h3 h4 h =>
    State.deferStart_keeps h1 h2 h3 h4 h w cause t
  refine ⟨⟨?_, ?_, ?_, ?_, ?_, ?_, ?_⟩, ?_⟩
  · intro g h0 h7 ho h1 h2
    unfold State.deferStart
    split
    · rfl
    · dsimp only
      rw [State.get_evt _ _ _ h2, State.get_count_apart _ _ _ _ h1]
      exact State.get_yieldOnce _ _ _ _ _ (by decide) g h0 h7 ho
  · exact hk (fun y => y.outs = s.outs) (fun _ _ _ h => h) (fun _ _ _ h => h) (fun _ _ h => h) (fun _ _ h => h) rfl
  · exact hk (fun y => y.img = s.img) (fun _ _ _ h => h) (fun _ _ _ h => h) (fun _ _ h => h) (fun _ _ h => h) rfl
  · exact hk (fun y => y.cfgAct = s.cfgAct) (fun _ _ _ h => h) (fun _ _ _ h => h) (fun _ _ h => h) (fun _ _ h => h) rfl
  · exact hk (fun y => y.shadow = s.shadow) (fun _ _ _ h => h) (fun _ _ _ h => h) (fun _ _ h => h) (fun _ _ h => h) rfl
  · exact hk (fun y => y.valves = s.valves) (fun _ _ _ h => h) (fun _ _ _ h => h) (fun _ _ h => h) (fun _ _ h => h) rfl
  · exact hk (fun y => y.msh = s.msh) (fun _ _ _ h => h) (fun _ _ _ h => h) (fun _ _ h => h) (fun _ _ h => h) rfl
  · unfold State.deferStart
    split <;> exact ⟨rfl, rfl⟩

/-- One start that a decision leaves goes on waiting (R263). -/
def State.deferStep (without : List MshWait) (t : Nat) (acc : State × List MshWait) (w : MshWait) : State × List MshWait :=
  let d := acc.1.deferStart w (if without.any (fun h => decide (h = w)) then 6 else 5) t
  (d.1, acc.2 ++ [d.2])

theorem State.deferAll_shows (s : State) (without rest : List MshWait) (t : Nat) :
    s.Yielded (rest.foldl (State.deferStep without t) (s, [])).1
      ∧ ∀ w ∈ rest, ∃ v ∈ (rest.foldl (State.deferStep without t) (s, [])).2, v.item = w.item ∧ v.units = w.units := by
  have hfold : ∀ (l : List MshWait) (acc : State × List MshWait), s.Yielded acc.1 → s.Yielded (l.foldl (State.deferStep without t) acc).1
      ∧ ∀ w, ((∃ v ∈ acc.2, v.item = w.item ∧ v.units = w.units) ∨ w ∈ l) → ∃ v ∈ (l.foldl (State.deferStep without t) acc).2, v.item = w.item ∧ v.units = w.units := by
    intro l
    induction l with
    | nil => exact fun acc h => ⟨h, fun w hw => hw.resolve_right (by simp)⟩
    | cons u l ih =>
      intro acc h
      obtain ⟨h1, h2⟩ := acc.1.deferStart_yielded u (cause := if without.any (fun h => decide (h = u)) then 6 else 5) t
      obtain ⟨k1, k2⟩ := ih (State.deferStep without t acc u) (h.trans h1)
      refine ⟨k1, fun w hw => k2 w ?_⟩
      rcases hw with ⟨v, hv, he⟩ | hw
      · exact .inl ⟨v, List.mem_append_left _ hv, he⟩
      · rcases List.mem_cons.mp hw with rfl | hw
        · exact .inl ⟨_, List.mem_append_right _ (List.mem_singleton.mpr rfl), h2⟩
        · exact .inr hw
  obtain ⟨h1, h2⟩ := hfold rest (s, []) (State.Yielded.refl s)
  exact ⟨h1, fun w hw => h2 w (.inr hw)⟩

/-! Weights and budgets do not depend on what a deferred start writes. -/

theorem State.rd_of_get {p o : Nat} (h : b.get ⟨p, o, 0, 32⟩ = a.get ⟨p, o, 0, 32⟩) : b.rd p o = a.rd p o := by
  have hw : ∀ w : Word, bitsOf w 0 32 = w.toNat := fun w => by
    unfold bitsOf
    simp [Nat.mod_eq_of_lt w.isLt]
  unfold State.get at h
  rw [hw, hw] at h
  exact BitVec.eq_of_toNat_eq h

theorem State.Yielded.act (h : a.Yielded b) (f : Fld) : b.act f = a.act f := by
  unfold State.act
  rw [h.img, h.cfgAct]

theorem State.Yielded.members (h : a.Yielded b) (u : OutU) : b.members u = a.members u := by
  unfold State.members
  simp only [h.act]

theorem State.Yielded.word (h : a.Yielded b) {p o l w : Nat} (hp : 0x0C < p) (ho : o < 4096) : b.get ⟨p, o, l, w⟩ = a.get ⟨p, o, l, w⟩ :=
  h.get _ (by show p ≠ 0; omega) (by show p ≠ 7; omega) ho (Fld.apart_mk (by omega)) (Fld.apart_mk (by omega))

theorem State.Yielded.next (h : a.Yielded b) {p o l w : Nat} (hp : 0x0C < p) (ho : o < 4096) : b.next ⟨p, o, l, w⟩ = a.next ⟨p, o, l, w⟩ := by
  unfold State.next
  rw [State.rd_of_get (h.word hp ho), h.shadow]

theorem State.Yielded.valve (h : a.Yielded b) (n : Nat) : b.valve n = a.valve n := by
  unfold State.valve
  rw [h.valves]

/-- A word of the Marshal's page but its event and DEFER. -/
theorem State.Yielded.msh12 (h : a.Yielded b) {o l w : Nat} (ho : o < 4096) (h1 : o ≠ 0x134) (h2 : o ≠ 0x20) : b.get ⟨0x0C, o, l, w⟩ = a.get ⟨0x0C, o, l, w⟩ :=
  h.get _ (by show 0x0C ≠ 0; decide) (by show 0x0C ≠ 7; decide) ho (Fld.apart_mk (by omega)) (Fld.apart_mk (by omega))

theorem State.Yielded.peakWeight (h : a.Yielded b) (w : MshWait) : b.peakWeight w = a.peakWeight w := by
  unfold State.peakWeight
  dsimp only
  rw [h.members, h.msh12 (o := 0x11C) (l := 0) (by decide) (by decide) (by decide), h.msh12 (o := 0x11C) (l := 8) (by decide) (by decide) (by decide),
    h.msh12 (o := 0x11C) (l := 16) (by decide) (by decide) (by decide), h.msh12 (o := 0x120) (l := 0) (by decide) (by decide) (by decide),
    h.msh12 (o := 0x120) (l := 16) (by decide) (by decide) (by decide)]
  by_cases h1 : w.item < 56
  · rw [if_pos h1, if_pos h1]
  · rw [if_neg h1, if_neg h1]
    by_cases h2 : w.item < 72
    · have hv : b.vdSize (w.item - 56) * b.vdPeakNext (w.item - 56) = a.vdSize (w.item - 56) * a.vdPeakNext (w.item - 56) := by
        unfold State.vdSize State.vdPeakNext
        rw [h.members, h.valve, h.next (by omega) (by omega), h.next (by omega) (by omega)]
      rw [if_pos h2, if_pos h2, Nat.mul_assoc, Nat.mul_assoc, hv]
    · rw [if_neg h2, if_neg h2]

theorem State.Yielded.lsMaster (h : a.Yielded b) (n : Nat) : b.lsMaster n = a.lsMaster n := by
  unfold State.lsMaster State.master
  rw [h.members]

theorem State.Yielded.out (h : a.Yielded b) (u : OutU) : b.out u = a.out u := by
  unfold State.out
  rw [h.outs]

theorem State.Yielded.steadyLimit (h : a.Yielded b) (k : Nat) : b.steadyLimit k = a.steadyLimit k := by
  unfold State.steadyLimit State.deratingOf
  rw [h.out, h.lsMaster, h.word (by omega) (by omega)]

theorem State.Yielded.pulseWeight (h : a.Yielded b) (n : Nat) : b.pulseWeight n = a.pulseWeight n := by
  unfold State.pulseWeight
  simp only [h.members, h.steadyLimit]

theorem State.Yielded.pulseReserve (h : a.Yielded b) : b.pulseReserve = a.pulseReserve := by
  unfold State.pulseReserve
  refine congrArg List.sum (List.map_congr_left (fun n hn => ?_))
  have hn := List.mem_range.mp hn
  have hsg : a.get (LSW.SG n) < 4 := a.get_lt (LSW.SG n)
  have hphase : b.phase (.ls n) = a.phase (.ls n) := by
    unfold State.phase
    rw [h.out, show b.get (fState (.ls n)) = a.get (fState (.ls n)) from h.word (by omega) (by omega)]
  rw [h.word (p := 0x10 + n / 8) (by omega) (by omega), h.lsMaster, hphase, h.out, h.word (p := 0x10 + n / 8) (by omega) (by omega),
    State.flag_of_get (h.word (p := 0x17) (o := 0x150 + 0x10 * a.get (LSW.SG n)) (by decide) (by omega)), h.pulseWeight]

theorem State.Yielded.budget (h : a.Yielded b) : b.heatBudget b.pulseReserve = a.heatBudget a.pulseReserve := by
  have hpw : b.peakWeight = a.peakWeight := funext h.peakWeight
  unfold State.heatBudget State.pulseBudget State.pkuse State.headroom State.rsrc
  rw [h.pulseReserve, h.msh, hpw, h.msh12 (o := 0x104) (by decide) (by decide) (by decide), h.msh12 (o := 0x108) (by decide) (by decide) (by decide),
    State.flag_of_get (h.msh12 (o := 0x114) (by decide) (by decide) (by decide)), h.msh12 (o := 0x114) (by decide) (by decide) (by decide),
    h.msh12 (o := 0x118) (by decide) (by decide) (by decide)]


/-! The stages of a decision. -/

/-- The steady use shown, and its source over the limit (R253). -/
def State.mshMeasure (s : State) : State :=
  let cont := s.contuse
  let y := s.put MSH.CONTUSE (min cont 511)
  if cont > y.get MSH.ICONT ∧ ¬ y.msh.contOver then y.detect 0x2A 0 else y

/-- The ends of fallback and of the suspension for over-voltage (R257, R261). -/
def State.mshRecover (s : State) : State :=
  let y := if s.flag SUP.VBINV then s else s.put MSH.FALLBACK 0
  if y.flag MSH.OVSUSP ∧ y.msh.ovLow then y.put MSH.OVSUSP 0 else y

/-- The starts that a decision finds, in its order (R248). -/
def State.mshStarts (s : State) (m : Nat) (fresh : Bool) : List MshWait :=
  let old := (s.msh.waiting.map (fun w => { w with lap := some (w.lap.getD m) }))
  let vdBwait := s.msh.plan.filterMap (fun e => if e.2 = .pass then some (56 + e.1) else none)
  let news := (if fresh then s.newStarts m else vdBwait.map (fun i => (⟨i, [], some m, false⟩ : MshWait))).filter
    (fun w => !old.any (fun o => decide (o.item = w.item) && decide (w.item < 84 ∨ 86 ≤ w.item)))
  (old ++ news).mergeSort (s.before m)

/-- The event of a start that waits for long (R248). -/
def State.mshAge (s : State) (m : Nat) (ws : List MshWait) : State := if ws.any (fun w => s.promoted w m) then s.evt 0x0C 5 else s

/-- Whether no start is decided (R255, R257). -/
def State.mshBlocked (s : State) (tick : Nat) (inv : Bool) : Bool := s.flag MSH.OVSUSP || (s.flag MSH.FREEZE && !inv) || decide (tick < s.msh.notBefore)

/-- The heat that a decision chooses (R247 to R261). -/
def State.mshHeat (s : State) (tick cont : Nat) (inv : Bool) (ws : List MshWait) : List MshWait :=
  if s.mshBlocked tick inv then [] else if inv then s.admitted 75 0 true ws else s.admitted (s.heatBudget s.pulseReserve) cont false ws

/-- The heat taken and every other start deferred (R263). -/
def State.mshSettle (s : State) (t tick cont : Nat) (inv : Bool) (ws : List MshWait) : State :=
  let heat := s.mshHeat tick cont inv ws
  let without := if s.mshBlocked tick inv ∨ inv then heat else s.admitted (s.heatBudget 0) cont false ws
  let rest := ws.filter (fun w => !heat.any (fun h => decide (h = w)))
  let r := rest.foldl (State.deferStep without t) (s, [])
  let s := r.1
  { s with msh := { s.msh with waiting := r.2, heat := heat, contOver := decide (cont > s.get MSH.ICONT) } }

/-- The banks as a decision finds them. -/
def State.mshBanks (s : State) (m : Nat) (fresh : Bool) : State := State.banksDecide { s with msh := { s.msh with plan := [] } } m fresh

theorem State.mshDecide_eq (s : State) (t m tick : Nat) (fresh : Bool) :
    s.mshDecide t m tick fresh =
      (let z := s.mshBanks m fresh
      let y := z.mshMeasure.mshRecover
      let ws := y.mshStarts m fresh
      (y.mshAge m ws).mshSettle t tick z.contuse (z.mshMeasure.flag SUP.VBINV) ws) := rfl

/-! What the stages keep and show. -/

/-- The Marshal's state but its plan is as before. -/
def MshSt.sameStarts (x y : MshSt) : Prop := y.waiting = x.waiting ∧ y.peak = x.peak ∧ y.steady = x.steady ∧ y.notBefore = x.notBefore

end
end Sys2Proof.Machine

namespace Sys2Proof.Machine

-- One declaration after another: each kernel evaluation beside others holds a thread's stack, and the whole text has one memory limit.
set_option Elab.async false
section
variable {s a b x y : State}

theorem State.mshBanks_msh (s : State) (m : Nat) (fresh : Bool) : s.msh.sameStarts (s.mshBanks m fresh).msh := by
  have h := (State.banksDecide_banked { s with msh := { s.msh with plan := [] } } m fresh).msh
  unfold State.mshBanks MshSt.sameStarts
  rw [h]
  exact ⟨rfl, rfl, rfl, rfl⟩

theorem State.mshBanks_get (s : State) (m : Nat) (fresh : Bool) {g : Fld} (hg : g.offBank) : (s.mshBanks m fresh).get g = s.get g :=
  (State.banksDecide_banked { s with msh := { s.msh with plan := [] } } m fresh).get g hg

theorem State.mshBanks_contuse (s : State) (m : Nat) (fresh : Bool) : (s.mshBanks m fresh).contuse = s.contuse :=
  (State.banksDecide_banked { s with msh := { s.msh with plan := [] } } m fresh).contuse

theorem State.mshMeasure_get (s : State) {g : Fld} (hg : MSH.CONTUSE.apart g) : s.mshMeasure.get g = s.get g := by
  unfold State.mshMeasure
  dsimp only
  split
  · rw [State.get_detect]
    exact State.get_put_apart _ _ _ _ hg
  · exact State.get_put_apart _ _ _ _ hg

theorem State.mshMeasure_contuse (s : State) : s.mshMeasure.get MSH.CONTUSE = min s.contuse 511 := by
  have h : (s.put MSH.CONTUSE (min s.contuse 511)).get MSH.CONTUSE = min s.contuse 511 := by
    rw [State.get_put_same _ _ _ (by decide)]
    exact Nat.mod_eq_of_lt (show min s.contuse 511 < 2 ^ 9 by omega)
  unfold State.mshMeasure
  dsimp only
  split
  · rwa [State.get_detect]
  · exact h

theorem State.mshMeasure_msh (s : State) : s.mshMeasure.msh = s.msh := by
  unfold State.mshMeasure
  dsimp only
  split <;> rfl

theorem State.mshRecover_get (s : State) {g : Fld} (h1 : MSH.FALLBACK.apart g) (h2 : MSH.OVSUSP.apart g) : s.mshRecover.get g = s.get g := by
  have hy : (if s.flag SUP.VBINV then s else s.put MSH.FALLBACK 0).get g = s.get g := by
    split
    · rfl
    · exact State.get_put_apart _ _ _ _ h1
  unfold State.mshRecover
  dsimp only
  generalize (if s.flag SUP.VBINV then s else s.put MSH.FALLBACK 0) = y at hy ⊢
  split
  · exact (State.get_put_apart _ _ _ _ h2).trans hy
  · exact hy

theorem State.mshRecover_fallback (s : State) : s.mshRecover.get MSH.FALLBACK = if s.flag SUP.VBINV then s.get MSH.FALLBACK else 0 := by
  have hy : (if s.flag SUP.VBINV then s else s.put MSH.FALLBACK 0).get MSH.FALLBACK = if s.flag SUP.VBINV then s.get MSH.FALLBACK else 0 := by
    split
    · rfl
    · exact State.get_put_same _ _ _ (by decide)
  unfold State.mshRecover
  dsimp only
  generalize (if s.flag SUP.VBINV then s else s.put MSH.FALLBACK 0) = y at hy ⊢
  split
  · exact (State.get_put_apart _ _ _ _ (by decide)).trans hy
  · exact hy

theorem State.mshRecover_msh (s : State) : s.mshRecover.msh = s.msh := by
  have hy : (if s.flag SUP.VBINV then s else s.put MSH.FALLBACK 0).msh = s.msh := by split <;> rfl
  unfold State.mshRecover
  dsimp only
  generalize (if s.flag SUP.VBINV then s else s.put MSH.FALLBACK 0) = y at hy ⊢
  split
  · exact hy
  · exact hy

theorem State.mshAge_get (s : State) (m : Nat) (ws : List MshWait) {g : Fld} (h : (Hdr.EVT 0x0C).apart g) : (s.mshAge m ws).get g = s.get g := by
  unfold State.mshAge
  split
  · exact State.get_evt _ _ _ h
  · rfl

theorem State.mshAge_msh (s : State) (m : Nat) (ws : List MshWait) : (s.mshAge m ws).msh = s.msh := by
  unfold State.mshAge
  split <;> rfl

/-- No start that waits is missing from those a decision finds. -/
theorem State.mshStarts_waiting (s : State) (m : Nat) (fresh : Bool) {w : MshWait} (hw : w ∈ s.msh.waiting) :
    ∃ v ∈ s.mshStarts m fresh, v.item = w.item ∧ v.units = w.units := by
  refine ⟨{ w with lap := some (w.lap.getD m) }, ?_, rfl, rfl⟩
  unfold State.mshStarts
  exact List.mem_mergeSort.mpr (List.mem_append_left _ (List.mem_map.mpr ⟨w, hw, rfl⟩))

/-! What a settled decision shows. -/

section
variable (s : State) (t tick cont : Nat) (inv : Bool) (ws : List MshWait)

/-- A settled decision differs from what it found in a yield and the Marshal's starts. -/
theorem State.mshSettle_yielded : ∃ z : State, s.Yielded z ∧ ∃ wait ov, s.mshSettle t tick cont inv ws = { z with msh := { z.msh with waiting := wait, heat := s.mshHeat tick cont inv ws, contOver := ov } }
    ∧ ∀ w ∈ ws, ∃ v ∈ s.mshHeat tick cont inv ws ++ wait, v.item = w.item ∧ v.units = w.units := by
  unfold State.mshSettle
  dsimp only
  generalize (if s.mshBlocked tick inv ∨ inv then s.mshHeat tick cont inv ws else s.admitted (s.heatBudget 0) cont false ws) = without
  obtain ⟨h1, h2⟩ := s.deferAll_shows without (ws.filter (fun w => !(s.mshHeat tick cont inv ws).any (fun h => decide (h = w)))) t
  refine ⟨_, h1, _, _, rfl, fun w hw => ?_⟩
  by_cases hin : w ∈ s.mshHeat tick cont inv ws
  · exact ⟨w, List.mem_append_left _ hin, rfl, rfl⟩
  · obtain ⟨v, hv, he⟩ := h2 w (List.mem_filter.mpr ⟨hw, by
      rw [Bool.not_eq_true', List.any_eq_false]
      exact fun v hv => by simpa using fun e : v = w => hin (e ▸ hv)⟩)
    exact ⟨v, List.mem_append_right _ hv, he⟩

theorem State.mshSettle_get {g : Fld} (h0 : g.page ≠ 0) (h7 : g.page ≠ 7) (ho : g.off < 4096) (h1 : MSH.DEFER.apart g) (h2 : (Hdr.EVT 0x0C).apart g) :
    (s.mshSettle t tick cont inv ws).get g = s.get g := by
  obtain ⟨z, hz, wait, ov, he, -⟩ := s.mshSettle_yielded t tick cont inv ws
  rw [he]
  exact hz.get g h0 h7 ho h1 h2

theorem State.mshSettle_heat : (s.mshSettle t tick cont inv ws).msh.heat = s.mshHeat tick cont inv ws := rfl

theorem State.mshSettle_uses : (s.mshSettle t tick cont inv ws).msh.peak = s.msh.peak ∧ (s.mshSettle t tick cont inv ws).msh.steady = s.msh.steady := by
  obtain ⟨z, hz, wait, ov, he, -⟩ := s.mshSettle_yielded t tick cont inv ws
  rw [he]
  dsimp only
  rw [hz.msh]
  exact ⟨rfl, rfl⟩

theorem State.mshSettle_keepsStarts {w : MshWait} (hw : w ∈ ws) :
    ∃ v ∈ (s.mshSettle t tick cont inv ws).msh.heat ++ (s.mshSettle t tick cont inv ws).msh.waiting, v.item = w.item ∧ v.units = w.units := by
  obtain ⟨z, -, wait, ov, he, hall⟩ := s.mshSettle_yielded t tick cont inv ws
  rw [he]
  exact hall w hw

/-- With a valid VBAT the heat keeps its budget (R252). -/
theorem State.mshSettle_budget :
    ((s.mshSettle t tick cont false ws).msh.heat.map (s.mshSettle t tick cont false ws).peakWeight).sum
      ≤ (s.mshSettle t tick cont false ws).heatBudget (s.mshSettle t tick cont false ws).pulseReserve := by
  obtain ⟨z, hz, wait, ov, he, -⟩ := s.mshSettle_yielded t tick cont false ws
  rw [he]
  have hw : (({ z with msh := { z.msh with waiting := wait, heat := s.mshHeat tick cont false ws, contOver := ov } } : State)).peakWeight = s.peakWeight := funext hz.peakWeight
  have hb : (({ z with msh := { z.msh with waiting := wait, heat := s.mshHeat tick cont false ws, contOver := ov } } : State)).heatBudget
      (({ z with msh := { z.msh with waiting := wait, heat := s.mshHeat tick cont false ws, contOver := ov } } : State)).pulseReserve = s.heatBudget s.pulseReserve := hz.budget
  rw [hw, hb]
  show ((s.mshHeat tick cont false ws).map s.peakWeight).sum ≤ _
  unfold State.mshHeat
  split
  · exact Nat.zero_le _
  · exact (s.admitted_fits (s.heatBudget s.pulseReserve) cont false ws).1

/-- In fallback the load switches of a heat keep 75 A (R261). -/
theorem State.mshSettle_fallback :
    (((s.mshSettle t tick cont true ws).msh.heat.filter (fun w => decide (w.item < 56))).map
      (fun w => inrushLimit w.item * ((s.mshSettle t tick cont true ws).members (.ls w.item)).length)).sum ≤ 75 := by
  obtain ⟨z, hz, wait, ov, he, -⟩ := s.mshSettle_yielded t tick cont true ws
  rw [he]
  have hm : (({ z with msh := { z.msh with waiting := wait, heat := s.mshHeat tick cont true ws, contOver := ov } } : State)).members = s.members := funext hz.members
  rw [hm]
  show (((s.mshHeat tick cont true ws).filter _).map _).sum ≤ 75
  unfold State.mshHeat
  split
  · exact Nat.zero_le _
  · rw [if_pos rfl]
    exact s.admitted_fallback 75 0 ws

end

/-! A staging. -/

section
variable (s : State) (t m tick : Nat) (fresh : Bool)

/-- A word of the Marshal's that a decision leaves. -/
theorem State.mshDecide_get {p o l w : Nat} (hp : 0x0C ≤ p) (hp' : p < 0x18 ∨ 0x1C < p) (ho : o < 4096) (h1 : ¬ (p = 0x0C ∧ (o = 0x20 ∨ o = 0x128 ∨ o = 0x12C ∨ o = 0x134))) :
    (s.mshDecide t m tick fresh).get ⟨p, o, l, w⟩ = s.get ⟨p, o, l, w⟩ := by
  rw [State.mshDecide_eq]
  dsimp only
  rw [State.mshSettle_get _ _ _ _ _ _ (by show p ≠ 0; omega) (by show p ≠ 7; omega) ho (Fld.apart_mk (by omega)) (Fld.apart_mk (by omega)),
    State.mshAge_get _ _ _ (Fld.apart_mk (by omega)), State.mshRecover_get _ (Fld.apart_mk (by omega)) (Fld.apart_mk (by omega)), State.mshMeasure_get _ (Fld.apart_mk (by omega))]
  exact s.mshBanks_get m fresh (Fld.offBank_mk (by omega) (by intro q hq; omega))

theorem State.mshDecide_contuse : (s.mshDecide t m tick fresh).get MSH.CONTUSE = min s.contuse 511 := by
  rw [State.mshDecide_eq]
  dsimp only
  rw [State.mshSettle_get _ _ _ _ _ _ (by decide) (by decide) (by decide) (by decide) (by decide),
    State.mshAge_get _ _ _ (by decide), State.mshRecover_get _ (by decide) (by decide), State.mshMeasure_contuse, State.mshBanks_contuse]

/-- What a decision sees of VBAT's validity. -/
theorem State.mshBanks_valid : (s.mshBanks m fresh).mshMeasure.flag SUP.VBINV = s.flag SUP.VBINV :=
  State.flag_of_get ((State.mshMeasure_get _ (by decide)).trans (s.mshBanks_get m fresh (Fld.offBank_mk (by decide) (by intro q hq; omega))))

theorem State.mshDecide_fallbackBit : (s.mshDecide t m tick fresh).get MSH.FALLBACK = if s.flag SUP.VBINV then s.get MSH.FALLBACK else 0 := by
  rw [State.mshDecide_eq]
  dsimp only
  rw [State.mshSettle_get _ _ _ _ _ _ (by decide) (by decide) (by decide) (by decide) (by decide), State.mshAge_get _ _ _ (by decide), State.mshRecover_fallback,
    State.mshBanks_valid, State.mshMeasure_get _ (by decide), s.mshBanks_get m fresh (Fld.offBank_mk (by decide) (by intro q hq; omega))]

theorem State.mshDecide_uses : (s.mshDecide t m tick fresh).msh.peak = s.msh.peak ∧ (s.mshDecide t m tick fresh).msh.steady = s.msh.steady := by
  obtain ⟨-, h1, h2, -⟩ := s.mshBanks_msh m fresh
  rw [State.mshDecide_eq]
  dsimp only
  obtain ⟨k1, k2⟩ := State.mshSettle_uses ((s.mshBanks m fresh).mshMeasure.mshRecover.mshAge m ((s.mshBanks m fresh).mshMeasure.mshRecover.mshStarts m fresh)) t tick
    (s.mshBanks m fresh).contuse ((s.mshBanks m fresh).mshMeasure.flag SUP.VBINV) ((s.mshBanks m fresh).mshMeasure.mshRecover.mshStarts m fresh)
  rw [k1, k2, State.mshAge_msh, State.mshRecover_msh, State.mshMeasure_msh]
  exact ⟨h1, h2⟩

/-- Every start that waited waits still or is in the heat (R248). -/
theorem State.mshDecide_keepsStarts {w : MshWait} (hw : w ∈ s.msh.waiting) :
    ∃ v ∈ (s.mshDecide t m tick fresh).msh.heat ++ (s.mshDecide t m tick fresh).msh.waiting, v.item = w.item ∧ v.units = w.units := by
  obtain ⟨h1, -⟩ := s.mshBanks_msh m fresh
  have hy : w ∈ (s.mshBanks m fresh).mshMeasure.mshRecover.msh.waiting := by
    rw [State.mshRecover_msh, State.mshMeasure_msh, h1]
    exact hw
  obtain ⟨v, hv, e1, e2⟩ := State.mshStarts_waiting _ m fresh hy
  rw [State.mshDecide_eq]
  dsimp only
  obtain ⟨u, hu, f1, f2⟩ := State.mshSettle_keepsStarts ((s.mshBanks m fresh).mshMeasure.mshRecover.mshAge m ((s.mshBanks m fresh).mshMeasure.mshRecover.mshStarts m fresh)) t tick
    (s.mshBanks m fresh).contuse ((s.mshBanks m fresh).mshMeasure.flag SUP.VBINV) _ hv
  exact ⟨u, hu, f1.trans e1, f2.trans e2⟩

theorem State.mshDecide_budget (h : s.flag SUP.VBINV = false) :
    ((s.mshDecide t m tick fresh).msh.heat.map (s.mshDecide t m tick fresh).peakWeight).sum ≤ (s.mshDecide t m tick fresh).heatBudget (s.mshDecide t m tick fresh).pulseReserve := by
  rw [State.mshDecide_eq]
  dsimp only
  rw [State.mshBanks_valid, h]
  exact State.mshSettle_budget _ t tick _ _

theorem State.mshDecide_fallback (h : s.flag SUP.VBINV = true) :
    (((s.mshDecide t m tick fresh).msh.heat.filter (fun w => decide (w.item < 56))).map
      (fun w => inrushLimit w.item * ((s.mshDecide t m tick fresh).members (.ls w.item)).length)).sum ≤ 75 := by
  rw [State.mshDecide_eq]
  dsimp only
  rw [State.mshBanks_valid, h]
  exact State.mshSettle_fallback _ t tick _ _

/-- While suspended, frozen or before the earliest tick no start is decided (R255, R257). -/
theorem State.mshDecide_blocked (h : (s.mshDecide t m tick fresh).get MSH.OVSUSP = 1 ∨ (s.get MSH.FREEZE = 1 ∧ s.get SUP.VBINV = 0) ∨ tick < s.msh.notBefore) :
    (s.mshDecide t m tick fresh).msh.heat = [] := by
  obtain ⟨-, -, -, hbefore⟩ := s.mshBanks_msh m fresh
  have hov : (s.mshDecide t m tick fresh).get MSH.OVSUSP = ((s.mshBanks m fresh).mshMeasure.mshRecover.mshAge m ((s.mshBanks m fresh).mshMeasure.mshRecover.mshStarts m fresh)).get MSH.OVSUSP := by
    rw [State.mshDecide_eq]
    dsimp only
    exact State.mshSettle_get _ _ _ _ _ _ (by decide) (by decide) (by decide) (by decide) (by decide)
  rw [hov] at h
  rw [State.mshDecide_eq]
  dsimp only
  rw [State.mshSettle_heat, State.mshBanks_valid]
  refine if_pos ?_
  unfold State.mshBlocked
  rw [Bool.or_eq_true, Bool.or_eq_true, Bool.and_eq_true]
  rcases h with h | ⟨h1, h2⟩ | h
  · exact .inl (.inl ((State.flag_one_iff _ rfl).mpr h))
  · refine .inl (.inr ⟨(State.flag_one_iff _ rfl).mpr ?_, ?_⟩)
    · rw [State.mshAge_get _ _ _ (by decide), State.mshRecover_get _ (by decide) (by decide), State.mshMeasure_get _ (by decide),
        s.mshBanks_get m fresh (Fld.offBank_mk (by decide) (by intro q hq; omega)), h1]
    · unfold State.flag
      rw [h2]
      decide
  · refine .inr (decide_eq_true ?_)
    rw [State.mshAge_msh, State.mshRecover_msh, State.mshMeasure_msh, hbefore]
    exact h

end

/-! Learning, recovery and release points. -/

/-- What a heat measured moves in RLEARN (R250). -/
theorem State.learnFrom_shows (s : State) (l : LearnSt) :
    (s.learnFrom l).msh = s.msh ∧ (s.learnFrom l).timers = s.timers
      ∧ (400000 ≤ l.max → 0 < l.dI → s.get MSH.FALLBACK = 0 →
          (s.learnFrom l).get MSH.RLEARN = min (roundDiv (7 * s.get MSH.RLEARN * l.dI + 2000000 * (l.vpre - l.vmin)) (8 * l.dI)).toNat 4095)
      ∧ (l.max < 400000 ∨ l.dI = 0 ∨ s.get MSH.FALLBACK = 1 → (s.learnFrom l).regs = s.regs) := by
  unfold State.learnFrom
  by_cases h : l.max ≥ 400000 ∧ l.dI > 0 ∧ ¬ s.flag MSH.FALLBACK
  · rw [if_pos h]
    refine ⟨rfl, rfl, fun _ _ _ => ?_, fun hn => ?_⟩
    · rw [State.get_put_same _ _ _ (by decide)]
      refine (Nat.mod_eq_of_lt (show min _ 4095 < 2 ^ 12 by omega)).trans ?_
      congr 3
    · obtain ⟨h1, h2, h3⟩ := h
      rcases hn with hn | hn | hn
      · omega
      · omega
      · exact absurd ((State.flag_one_iff _ rfl).mpr hn) h3
  · rw [if_neg h]
    refine ⟨rfl, rfl, fun h1 h2 h3 => absurd ⟨h1, h2, fun hf => ?_⟩ h, fun _ => rfl⟩
    have := (State.flag_one_iff _ rfl).mp hf
    omega

/-- The end of a measured heat: the next one, if any, is due. -/
theorem State.learnEnd_cons {s y : State} {l : LearnSt} {ls : List LearnSt} (h : s.msh.learns = l :: ls)
    (hy : ({ s with msh := { s.msh with learns := ls } } : State).learnFrom l = y) : s.learnEnd = ls.head?.elim y (fun n => y.arm .learn n.due) := by
  unfold State.learnEnd
  rw [h]
  dsimp only
  rw [hy]
  cases ls <;> rfl

theorem rsrcLearn_shows (s : State) {d : Nat} (hd : s.due .learn = some d) {l : LearnSt} (hl : s.msh.learns.head? = some l) :
    Completes .rsrcLearn s (fun x =>
        x.msh.learns = s.msh.learns.tail ∧ x.due .learn = s.msh.learns.tail.head?.map (·.due)
        ∧ (400000 ≤ l.max → 0 < l.dI → s.get MSH.FALLBACK = 0 →
            x.get MSH.RLEARN = min (roundDiv (7 * s.get MSH.RLEARN * l.dI + 2000000 * (l.vpre - l.vmin)) (8 * l.dI)).toNat 4095)
        ∧ (l.max < 400000 ∨ l.dI = 0 ∨ s.get MSH.FALLBACK = 1 → x.regs = s.regs)) := by
  obtain ⟨ls, hls⟩ : ∃ ls, s.msh.learns = l :: ls := by
    cases h : s.msh.learns with
    | nil => rw [h] at hl; cases hl
    | cons a as => rw [h] at hl; exact ⟨as, by rw [Option.some.inj hl]⟩
  refine ⟨_, congrArg Host.Outcome.next (State.onExpiry_due hd _), ?_⟩
  obtain ⟨h1, h2, h3, h4⟩ := State.learnFrom_shows ({ (s.disarm .learn).reach d with msh := { s.msh with learns := ls } } : State) l
  have hnone : ({ (s.disarm .learn).reach d with msh := { s.msh with learns := ls } } : State).due .learn = none := State.due_disarm_same s .learn
  rw [hls, List.tail_cons]
  obtain ⟨y, hy⟩ : ∃ y, ({ (s.disarm .learn).reach d with msh := { s.msh with learns := ls } } : State).learnFrom l = y := ⟨_, rfl⟩
  rw [hy] at h1 h2 h3 h4
  rw [State.learnEnd_cons (s := (s.disarm .learn).reach d) hls hy]
  cases ls with
  | nil =>
    refine ⟨congrArg MshSt.learns h1, ?_, h3, h4⟩
    show y.due .learn = none
    unfold State.due at hnone ⊢
    rw [h2]
    exact hnone
  | cons n ns => exact ⟨congrArg MshSt.learns h1, State.due_arm_same _ _ _, h3, h4⟩

theorem freezeRecovery_shows (s : State) {d : Nat} (hd : s.due .recover = some d) :
    Completes .freezeRecovery s (fun x =>
        x.due .recover = none ∧ x.get MSH.FREEZE = 0 ∧ (s.get MSH.FREEZE = 1 → bitAt (x.get (Hdr.EVT 0x0C)) 1 = true)
        ∧ (s.get MSH.FREEZE = 0 → x.regs = s.regs)) := by
  refine ⟨_, congrArg Host.Outcome.next (State.onExpiry_due hd _), ?_⟩
  dsimp only
  have hnone : ((s.disarm .recover).reach d).due .recover = none := State.due_disarm_same s .recover
  have hfl : ((s.disarm .recover).reach d).flag MSH.FREEZE = s.flag MSH.FREEZE := rfl
  have hbit : s.get MSH.FREEZE < 2 := s.get_lt MSH.FREEZE
  by_cases h : s.flag MSH.FREEZE = true
  · rw [hfl, if_pos h]
    refine ⟨hnone, ?_, fun _ => State.bitAt_evt_same _ _ (by decide), fun h0 => ?_⟩
    · rw [State.get_evt _ _ _ (by decide)]
      exact State.get_put_same _ _ _ (by decide)
    · have := (State.flag_one_iff _ rfl).mp h
      omega
  · rw [hfl, if_neg h]
    have h0 : s.get MSH.FREEZE = 0 := by
      have := mt (State.flag_one_iff _ rfl).mpr h
      omega
    refine ⟨hnone, h0, fun h1 => ?_, fun _ => rfl⟩
    omega

theorem releasePoint_shows (s : State) {i d : Nat} (hd : s.due (.release i) = some d) :
    Completes (.marshalReleasePoint i) s (fun x =>
        x.due (.release i) = none ∧ x.regs = s.regs
        ∧ x.msh = { s.msh with peak := s.msh.peak.filter (fun e => e.1 != i), steady := s.msh.steady.filter (fun e => e.1 != i) }) := by
  refine ⟨_, congrArg Host.Outcome.next (State.onExpiry_due hd _), State.due_disarm_same s (.release i), rfl, ?_⟩
  have hp : (fun e : Nat × Nat => decide (e.1 ≠ i)) = (fun e => e.1 != i) := funext fun e => by
    rw [bne, decide_not]
    rfl
  unfold State.mshRelease
  rw [hp]
  rfl

end

/-- Settles O31, by the stages of the decision: the pass over the starts keeps its budget, and every start it leaves is deferred. -/
theorem marshalKeepsItsBudget : Obligations.MarshalKeepsItsBudget := by
  unfold Obligations.MarshalKeepsItsBudget
  intro s t
  refine ⟨⟨_, rfl, ?_⟩, fun d hd l hl => rsrcLearn_shows s hd hl, fun d hd => freezeRecovery_shows s hd, fun i d hd => releasePoint_shows s hd⟩
  have hvb : s.get SUP.VBINV < 2 := s.get_lt SUP.VBINV
  have hfl : (s.reach t).flag SUP.VBINV = s.flag SUP.VBINV := rfl
  refine ⟨fun h0 => ?_, fun h1 => ?_, fun h => State.mshDecide_blocked (s.reach t) t _ _ true h, ?_, State.mshDecide_contuse (s.reach t) t _ _ true,
    State.mshDecide_uses (s.reach t) t _ _ true⟩
  · have hf : s.flag SUP.VBINV = false := by
      unfold State.flag
      rw [h0]
      decide
    refine ⟨State.mshDecide_budget (s.reach t) t _ _ true hf, ?_⟩
    rw [State.mshDecide_fallbackBit, hfl, hf]
    rfl
  · have hf : s.flag SUP.VBINV = true := (State.flag_one_iff _ rfl).mpr h1
    refine ⟨State.mshDecide_fallback (s.reach t) t _ _ true hf, ?_⟩
    rw [State.mshDecide_fallbackBit, hfl, hf]
    rfl
  · refine List.all_eq_true.mpr (fun w hw => ?_)
    obtain ⟨v, hv, he⟩ := State.mshDecide_keepsStarts (s.reach t) t (s.lap + 1) s.stride.nextTick true hw
    exact List.any_eq_true.mpr ⟨v, hv, decide_eq_true he⟩

end Sys2Proof.Machine

namespace Sys2Proof.Machine

-- One declaration after another: each kernel evaluation beside others holds a thread's stack, and the whole text has one memory limit.
set_option Elab.async false

/-- The first half-bridge, off, is to be tested: its page runs and its `OFFDIAG` is set. -/
def bridgeToTest : State := (State.reset.put (Hdr.EN 0x1D) 1).put (HB.OFFDIAG 0) 1

/-- Refutes O25: the statement ranges over every unit number, and load switch 76, which no die has, would lie where half-bridge 0 does
(`uidx`), so that the test of half-bridge 0 begins on both. -/
theorem not_powerUnitsDiagnose : ¬ Obligations.PowerUnitsDiagnose := by
  intro h
  obtain ⟨-, -, htest, -⟩ := h bridgeToTest 0
  obtain ⟨hgrid, -⟩ := htest .bridges (.ls 76)
  obtain ⟨u, ⟨-, hu, -⟩, hout⟩ := (hgrid (by decide +kernel)).of_answers (q := fun u => decide (u.out (.ls 76) ≠ bridgeToTest.out (.ls 76))) (by decide +kernel)
  exact of_decide_eq_true hout (hu (by decide +kernel)).1

end Sys2Proof.Machine

namespace Sys2Proof.Machine

-- One declaration after another: each kernel evaluation beside others holds a thread's stack, and the whole text has one memory limit.
set_option Elab.async false

/-! The bridges: their members, their phases, and what opening, braking and stopping them leaves (O27). -/

/-! Pairs. -/

section
variable (s : State) (n : Nat)

theorem State.members_hb : s.members (.hb n) = if s.hbPaired n then [.hb (2 * (n / 2)), .hb (2 * (n / 2) + 1)] else [.hb n] := rfl

theorem State.hbPaired_master : s.hbPaired (s.hbMaster n) = s.hbPaired n := by
  unfold State.hbMaster
  split
  · unfold State.hbPaired
    rw [show 2 * (n / 2) / 2 = n / 2 by omega]
  · rfl

theorem State.hbMaster_master : s.hbMaster (s.hbMaster n) = s.hbMaster n := by
  have hp := s.hbPaired_master n
  unfold State.hbMaster at hp ⊢
  rw [hp]
  split
  · omega
  · rfl

theorem State.members_hbMaster : s.members (.hb (s.hbMaster n)) = s.members (.hb n) := by
  rw [State.members_hb, State.members_hb, State.hbPaired_master]
  by_cases h : s.hbPaired n = true
  · rw [if_pos h, if_pos h, show s.hbMaster n = 2 * (n / 2) from if_pos h, show 2 * (n / 2) / 2 = n / 2 by omega]
  · rw [if_neg h, if_neg h, show s.hbMaster n = n from if_neg h]

theorem State.master_hb : s.master (.hb n) = .hb (s.hbMaster n) := by
  unfold State.master State.hbMaster
  rw [State.members_hb]
  split <;> rfl

theorem State.hbMaster_lt {n : Nat} (hn : n < 12) : s.hbMaster n < 12 := by
  unfold State.hbMaster
  split <;> omega

/-- The outputs of a bridge are one or two half-bridges, and `n` is one of them. -/
theorem State.members_hb_mem : ∃ ks : List Nat, s.members (.hb n) = ks.map .hb ∧ n ∈ ks ∧ ks.Nodup := by
  rw [State.members_hb]
  split
  · exact ⟨[2 * (n / 2), 2 * (n / 2) + 1], rfl, by simp; omega, by simp⟩
  · exact ⟨[n], rfl, by simp, by simp⟩

theorem State.members_of_act {a b : State} (h : ∀ f, b.act f = a.act f) (u : OutU) : b.members u = a.members u := by
  unfold State.members
  simp only [h]

end

/-! A phase that a bridge takes. -/

theorem State.phase_of {a b : State} {u : OutU} (ho : b.outs = a.outs) (hg : b.get (fState u) = a.get (fState u)) : b.phase u = a.phase u := by
  unfold State.phase State.out
  rw [ho, hg]

/-- A phase that a half-bridge can show. -/
abbrev HbPhase (p : Phase) : Prop := p ∈ phasesOf (.hb 0)

section
variable {p : Phase} (hp : HbPhase p)

/-- One output of a bridge as it enters a phase. -/
def State.enterPhase (s : State) (v : OutU) (p : Phase) (t : Nat) : State := (s.putPhase v p).setOut v (fun o => { o with since := t })

include hp in
theorem State.phase_enterPhase (s : State) (n t : Nat) : (s.enterPhase (.hb n) p t).phase (.hb n) = p := by
  unfold State.enterPhase State.putPhase
  by_cases h : (s.out (.hb n)).fs = true
  · rw [if_pos h]
    have hout : (((s.setOut (.hb n) (fun o => { o with under := p })).setOut (.hb n) (fun o => { o with since := t })).out (.hb n)) = { s.out (.hb n) with under := p, since := t } := by
      rw [State.out_setOut, if_pos rfl, State.out_setOut, if_pos rfl]
    unfold State.phase
    rw [hout]
    exact if_pos h
  · rw [if_neg h]
    unfold State.phase
    have hout : (((s.put (fState (.hb n)) (phaseCode (.hb n) p)).setOut (.hb n) (fun o => { o with since := t })).out (.hb n)).fs = (s.out (.hb n)).fs := by
      rw [State.out_setOut, if_pos rfl, State.out_put]
    rw [hout, if_neg h]
    have hget : ((s.put (fState (.hb n)) (phaseCode (.hb n) p)).setOut (.hb n) (fun o => { o with since := t })).get (fState (.hb n)) = phaseCode (.hb n) p % 2 ^ (fState (.hb n)).width := by
      rw [State.get_setOut]
      exact State.get_put_same _ _ _ (show 0 + 4 ≤ 32 by decide)
    rw [hget]
    cases p <;> first | rfl | exact absurd hp (by decide)

theorem State.phase_enterPhase_other (s : State) {n k : Nat} (h : k ≠ n) (t : Nat) : (s.enterPhase (.hb k) p t).phase (.hb n) = s.phase (.hb n) := by
  have hu : uidx (.hb k) ≠ uidx (.hb n) := by
    show 76 + k ≠ 76 + n
    omega
  have hput : (s.putPhase (.hb k) p).out (.hb n) = s.out (.hb n) ∧ (s.putPhase (.hb k) p).get (HB.STATE n) = s.get (HB.STATE n) := by
    unfold State.putPhase
    split
    · exact ⟨(State.out_setOut _ _ _ _).trans (if_neg hu), rfl⟩
    · exact ⟨rfl, State.get_put_apart _ _ _ _ (Fld.apart_mk (by omega))⟩
  have hout : (s.enterPhase (.hb k) p t).out (.hb n) = s.out (.hb n) := ((State.out_setOut _ _ _ _).trans (if_neg hu)).trans hput.1
  have hget : (s.enterPhase (.hb k) p t).get (HB.STATE n) = s.get (HB.STATE n) := hput.2
  unfold State.phase
  rw [hout]
  exact congrArg (fun c => if (s.out (.hb n)).fs then (s.out (.hb n)).under else (phasesOf (.hb n)).getD c .off) hget

include hp in
/-- All outputs of a bridge enter a phase together. -/
theorem State.phase_foldl_enterPhase (n t : Nat) : ∀ (ks : List Nat) (s : State), ks.Nodup →
    (n ∈ ks → ((ks.map OutU.hb).foldl (fun y v => y.enterPhase v p t) s).phase (.hb n) = p)
      ∧ (n ∉ ks → ((ks.map OutU.hb).foldl (fun y v => y.enterPhase v p t) s).phase (.hb n) = s.phase (.hb n)) := by
  intro ks
  induction ks with
  | nil => exact fun s _ => ⟨fun h => absurd h (by simp), fun _ => rfl⟩
  | cons k ks ih =>
    intro s hnd
    obtain ⟨hk, hnd⟩ := List.nodup_cons.mp hnd
    obtain ⟨h1, h2⟩ := ih (s.enterPhase (.hb k) p t) hnd
    refine ⟨fun hn => ?_, fun hn => ?_⟩
    · rcases List.mem_cons.mp hn with rfl | hn
      · exact (h2 hk).trans (State.phase_enterPhase hp s n t)
      · exact h1 hn
    · rw [List.mem_cons, not_or] at hn
      exact (h2 hn.2).trans (State.phase_enterPhase_other s (Ne.symm hn.1) t)

include hp in
theorem State.phase_setPhase_hb (s : State) (n t : Nat) : (s.setPhase (.hb n) p t).phase (.hb n) = p := by
  obtain ⟨ks, hks, hn, hnd⟩ := s.members_hb_mem n
  have h := (State.phase_foldl_enterPhase hp n t ks s hnd).1 hn
  rw [← hks] at h
  exact h

end

/-- The master enters a phase with all of its bridge. -/
theorem State.setPhase_hbMaster (s : State) (n : Nat) (p : Phase) (t : Nat) : s.setPhase (.hb (s.hbMaster n)) p t = s.setPhase (.hb n) p t := by
  unfold State.setPhase
  rw [State.members_hbMaster]

/-! What the operations of a bridge write. -/

/-- A predicate that the operations of a bridge keep: they write states, ends of chopping and drives 0, besides what is no register. -/
structure BridgeBlind (P : State → Prop) : Prop where
  outs : Blind.outs P
  bridges : Blind.bridges P
  timers : Blind.timers P
  msh : Blind.msh P
  episodes : Blind.episodes P
  state : ∀ y k v, P y → P (y.put (HB.STATE k) v)
  chop : ∀ y k, P y → P (y.put (HB.CHOPPING k) 0)
  dir : ∀ y k, P y → P (y.put (HB.DIR k) 0)

/-- A field that the operations of a bridge leave. -/
structure Fld.OffBridge (g : Fld) : Prop where
  state : ∀ k, (HB.STATE k).apart g
  chop : ∀ k, (HB.CHOPPING k).apart g
  dir : ∀ k, (HB.DIR k).apart g

theorem BridgeBlind.get {g : Fld} (hg : g.OffBridge) (v : Nat) : BridgeBlind (fun y => y.get g = v) where
  outs _ _ h := h
  bridges _ _ h := h
  timers _ _ h := h
  msh _ _ h := h
  episodes _ _ h := h
  state _ k _ h := (State.get_put_apart _ _ _ _ (hg.state k)).trans h
  chop _ k h := (State.get_put_apart _ _ _ _ (hg.chop k)).trans h
  dir _ k h := (State.get_put_apart _ _ _ _ (hg.dir k)).trans h

/-- A bridge that does not drive. -/
theorem BridgeBlind.idle (n : Nat) : BridgeBlind (fun y => y.get (HB.DIR n) = 0) where
  outs _ _ h := h
  bridges _ _ h := h
  timers _ _ h := h
  msh _ _ h := h
  episodes _ _ h := h
  state y k v h := (State.get_put_apart _ _ _ _ (Fld.apart_mk (by omega))).trans h
  chop y k h := (State.get_put_apart _ _ _ _ (Fld.apart_mk (by omega))).trans h
  dir y k h := by
    by_cases hk : 0x1d + k / 6 = 0x1d + n / 6 ∧ k % 6 = n % 6
    · have he : HB.DIR k = HB.DIR n := by
        unfold HB.DIR
        rw [hk.1, hk.2]
      rw [he]
      exact State.get_put_same _ _ _ (show 12 + 2 ≤ 32 by decide)
    · exact (State.get_put_apart _ _ _ _ (Fld.apart_mk (by omega))).trans h

theorem BridgeBlind.acts (a : State) : BridgeBlind (fun y => ∀ f, y.act f = a.act f) where
  outs _ _ h := h
  bridges _ _ h := h
  timers _ _ h := h
  msh _ _ h := h
  episodes _ _ h := h
  state _ _ _ h := h
  chop _ _ h := h
  dir _ _ h := h

section
variable {P : State → Prop} (hP : BridgeBlind P) {s : State} (n t : Nat) (h : P s)
include hP h

omit hP in
theorem BridgeBlind.members {f : State → OutU → State} (hf : ∀ y k, P y → P (f y (.hb k))) (n : Nat) : P ((s.members (.hb n)).foldl f s) := by
  obtain ⟨ks, hks, -, -⟩ := s.members_hb_mem n
  rw [hks, List.foldl_map]
  exact foldl_keeps h (fun y k hy => hf y k hy)

theorem BridgeBlind.putPhase (p : Phase) : P (s.putPhase (.hb n) p) := by
  unfold State.putPhase
  split
  · exact hP.outs _ _ h
  · exact hP.state _ _ _ h

theorem BridgeBlind.setPhase (p : Phase) : P (s.setPhase (.hb n) p t) :=
  BridgeBlind.members h (fun _ k hy => hP.outs _ _ (hP.putPhase k hy p)) n

theorem BridgeBlind.endLimit : P (s.endLimit (.hb n)) := hP.episodes _ _ (hP.outs _ _ (hP.chop _ _ h))

theorem BridgeBlind.quiet (u : OutU) : P (s.quiet u) := State.quiet_keeps hP.timers hP.msh h u

theorem BridgeBlind.mshRemove (u : OutU) : P (s.mshRemove u) := State.mshRemove_keeps hP.msh h u

theorem BridgeBlind.mshReleaseOf (u : OutU) : P (s.mshReleaseOf u) := State.mshReleaseOf_keeps hP.timers hP.msh h u

theorem BridgeBlind.hbOpen : P (s.hbOpen (.hb n)) :=
  BridgeBlind.members h (fun _ k hy => hP.bridges _ _ (hP.dir _ k hy)) n

theorem BridgeBlind.mshEnlist (u : OutU) : P (s.mshEnlist u) := State.mshEnlist_keeps hP.msh h u

theorem BridgeBlind.patternBrake : P (s.patternBrake (.hb n) t) :=
  hP.setPhase n t (hP.bridges _ _ (hP.hbOpen n (hP.mshReleaseOf (hP.endLimit n h) _))) _

theorem BridgeBlind.beginStop : P (s.beginStop (.hb n) t) := by
  unfold State.beginStop
  rw [State.master_hb]
  have hq := BridgeBlind.members h (f := fun y v => (y.endLimit v).quiet v) (fun _ k hy => hP.quiet (hP.endLimit k hy) _) n
  exact hP.setPhase _ t (hP.hbOpen _ (hP.mshReleaseOf hq _)) _

theorem BridgeBlind.startWait : P (s.startWait (.hb n) t) := by
  unfold State.startWait
  rw [State.master_hb]
  dsimp only
  have hq := BridgeBlind.members h (f := fun y v => y.quiet v) (fun _ k hy => hP.quiet hy _) (s.hbMaster n)
  generalize (s.members (.hb (s.hbMaster n))).foldl (fun y v => y.quiet v) s = y at hq ⊢
  split
  · split
    · exact hP.setPhase _ t hq _
    · split
      · exact hP.patternBrake _ t hq
      · exact hP.setPhase _ t hq _
  · split
    · exact hP.mshEnlist (hP.setPhase _ t hq _) _
    · exact hP.setPhase _ t hq _

end

end Sys2Proof.Machine

namespace Sys2Proof.Machine

-- One declaration after another: each kernel evaluation beside others holds a thread's stack, and the whole text has one memory limit.
set_option Elab.async false

/-! Faults and trips of a bridge (O27). -/

section
variable {s a b x : State}

/-- From `a` to `b` faults of half-bridge `n` have been flagged. -/
structure State.Flagged (n : Nat) (a b : State) : Prop where
  get : ∀ g : Fld, (HB.FLT n).apart g → (Hdr.EVT (0x1D + n / 6)).apart g → b.get g = a.get g
  flt : ∀ k i, bitAt (a.get (HB.FLT k)) i = true → bitAt (b.get (HB.FLT k)) i = true
  outs : b.outs = a.outs
  bridges : b.bridges = a.bridges
  timers : b.timers = a.timers
  acts : ∀ f, b.act f = a.act f

theorem State.Flagged.refl (n : Nat) (s : State) : s.Flagged n s := ⟨fun _ _ _ => rfl, fun _ _ h => h, rfl, rfl, rfl, fun _ => rfl⟩

theorem State.Flagged.trans {n : Nat} (h : a.Flagged n b) (h' : b.Flagged n x) : a.Flagged n x where
  get g h1 h2 := (h'.get g h1 h2).trans (h.get g h1 h2)
  flt k i hi := h'.flt k i (h.flt k i hi)
  outs := h'.outs.trans h.outs
  bridges := h'.bridges.trans h.bridges
  timers := h'.timers.trans h.timers
  acts f := (h'.acts f).trans (h.acts f)

/-- A word of a bridge but its faults. -/
theorem State.Flagged.word {n : Nat} (h : a.Flagged n b) {p o l w : Nat} (h1 : p * 4096 + o ≠ (0x1D + n / 6) * 4096 + (0x120 + 0x80 * (n % 6)))
    (h2 : p * 4096 + o ≠ (0x1D + n / 6) * 4096 + 0x20) : b.get ⟨p, o, l, w⟩ = a.get ⟨p, o, l, w⟩ :=
  h.get _ (Fld.apart_mk (.inl (Ne.symm h1))) (Fld.apart_mk (.inl (Ne.symm h2)))

theorem State.setFault_hb (s : State) (n : Nat) {bit : Nat} (hb : bit ≠ 31) (t : Nat) : s.setFault (.hb n) bit t =
    match flagSrc (.hb n) bit with
    | some src => (((s.reach t).setFlag (HB.FLT n) bit).evt (0x1D + n / 6) (n % 6)).detect src (n % 6)
    | none => ((s.reach t).setFlag (HB.FLT n) bit).evt (0x1D + n / 6) (n % 6) := by
  unfold State.setFault
  rw [if_neg hb]
  have hu : ¬ ((upage (.hb n)).1 = 0x20 ∧ 32 ≤ (upage (.hb n)).2) := fun h => by
    have h2 : 32 ≤ n % 6 := h.2
    omega
  dsimp only
  rw [if_neg hu]
  rfl

/-- The flag and the event of a fault. -/
theorem State.Flagged.shown (s : State) (n : Nat) {bit : Nat} (hb : bit < 15) (t : Nat) :
    s.Flagged n (((s.reach t).setFlag (HB.FLT n) bit).evt (0x1D + n / 6) (n % 6)) where
  get g h1 h2 := (State.get_evt _ _ _ h2).trans (State.get_put_apart _ _ _ _ h1)
  flt k i hi := by
    rw [State.get_evt _ _ _ (Fld.apart_mk (by omega))]
    by_cases hk : k = n
    · rw [hk] at hi ⊢
      rw [State.bitAt_setFlag _ (show 0 + 15 ≤ 32 by decide) hb, State.get_reach, hi, Bool.or_true]
    · have he : ((s.reach t).setFlag (HB.FLT n) bit).get (HB.FLT k) = s.get (HB.FLT k) := State.get_put_apart _ _ _ _ (Fld.apart_mk (by omega))
      rwa [he]
  outs := rfl
  bridges := rfl
  timers := rfl
  acts _ := rfl

theorem State.bitAt_shown (s : State) (n : Nat) {bit : Nat} (hb : bit < 15) (t : Nat) :
    bitAt ((((s.reach t).setFlag (HB.FLT n) bit).evt (0x1D + n / 6) (n % 6)).get (HB.FLT n)) bit = true := by
  rw [State.get_evt _ _ _ (Fld.apart_mk (by omega))]
  exact State.bitAt_setFlag_same _ (show 0 + 15 ≤ 32 by decide) hb

theorem State.Flagged.detect {n : Nat} (h : a.Flagged n b) (src k : Nat) : a.Flagged n (b.detect src k) where
  get g h1 h2 := by
    rw [State.get_detect]
    exact h.get g h1 h2
  flt k i hi := by
    rw [State.get_detect]
    exact h.flt k i hi
  outs := h.outs
  bridges := h.bridges
  timers := h.timers
  acts := h.acts

/-- A fault of a half-bridge, flagged. -/
theorem State.setFault_flags (s : State) (n : Nat) {bit : Nat} (hb : bit < 15) (t : Nat) :
    s.Flagged n (s.setFault (.hb n) bit t) ∧ bitAt ((s.setFault (.hb n) bit t).get (HB.FLT n)) bit = true := by
  have hset := State.Flagged.shown s n hb t
  have hbit := State.bitAt_shown s n hb t
  rw [State.setFault_hb s n (by omega) t]
  generalize ((s.reach t).setFlag (HB.FLT n) bit).evt (0x1D + n / 6) (n % 6) = y at hset hbit ⊢
  split
  · refine ⟨hset.detect _ _, ?_⟩
    rwa [State.get_detect]
  · exact ⟨hset, hbit⟩

/-- The faults of a list, flagged. -/
theorem State.setFaults_flag (n t : Nat) : ∀ (fs : List Nat) (s : State), (∀ i ∈ fs, i < 15) →
    s.Flagged n (fs.foldl (fun y i => y.setFault (.hb n) i t) s) ∧ ∀ i ∈ fs, bitAt ((fs.foldl (fun y i => y.setFault (.hb n) i t) s).get (HB.FLT n)) i = true := by
  intro fs
  induction fs with
  | nil => exact fun s _ => ⟨State.Flagged.refl n s, by simp⟩
  | cons j fs ih =>
    intro s hl
    obtain ⟨h1, hj⟩ := s.setFault_flags n (hl j (.head _)) t
    obtain ⟨h2, hall⟩ := ih (s.setFault (.hb n) j t) (fun i hi => hl i (.tail _ hi))
    refine ⟨h1.trans h2, fun i hi => ?_⟩
    rcases List.mem_cons.mp hi with rfl | hi
    · exact h2.flt n i hj
    · exact hall i hi

theorem State.Flagged.phase {n : Nat} (h : a.Flagged n b) (k : Nat) : b.phase (.hb k) = a.phase (.hb k) :=
  State.phase_of h.outs (h.word (by omega) (by omega))

theorem State.Flagged.bridge {n : Nat} (h : a.Flagged n b) (k : Nat) : b.bridge k = a.bridge k := by
  unfold State.bridge
  rw [h.bridges]

theorem State.Flagged.due {n : Nat} (h : a.Flagged n b) (k : Timer) : b.due k = a.due k := by
  unfold State.due
  rw [h.timers]

theorem State.hbPaired_of_act (h : ∀ f, b.act f = a.act f) (n : Nat) : b.hbPaired n = a.hbPaired n := by
  unfold State.hbPaired
  rw [h]

theorem State.hbMaster_of_act (h : ∀ f, b.act f = a.act f) (n : Nat) : b.hbMaster n = a.hbMaster n := by
  unfold State.hbMaster
  rw [State.hbPaired_of_act h]

/-! Opening a bridge. -/

theorem State.hbOpen_hbMaster (s : State) (n : Nat) : s.hbOpen (.hb (s.hbMaster n)) = s.hbOpen (.hb n) := by
  unfold State.hbOpen
  rw [State.members_hbMaster]

/-- An opened bridge does not drive. -/
theorem State.hbOpen_idle (s : State) (n : Nat) : (s.hbOpen (.hb n)).get (HB.DIR n) = 0 := by
  obtain ⟨ks, hks, hn, -⟩ := s.members_hb_mem n
  have hfold : ∀ (l : List Nat) (y : State), (y.get (HB.DIR n) = 0 ∨ n ∈ l) → (l.foldl (fun y k => (y.put (HB.DIR k) 0).setBridge k (fun b =>
      { b with chopSince := none, phaseOpen := false, parkBrake := false, cut := false })) y).get (HB.DIR n) = 0 := by
    intro l
    induction l with
    | nil => exact fun y h => h.resolve_right (by simp)
    | cons k l ih =>
      intro y h
      refine ih _ ?_
      rcases h with h | h
      · exact .inl ((BridgeBlind.idle n).dir y k h)
      · rcases List.mem_cons.mp h with rfl | h
        · exact .inl (State.get_put_same y (HB.DIR n) 0 (show 12 + 2 ≤ 32 by decide))
        · exact .inr h
  unfold State.hbOpen
  rw [hks, List.foldl_map]
  exact hfold ks s (.inr hn)

end
end Sys2Proof.Machine

namespace Sys2Proof.Machine

-- One declaration after another: each kernel evaluation beside others holds a thread's stack, and the whole text has one memory limit.
set_option Elab.async false

/-! The clauses of the bridges that keep or leave a drive (O27). -/

section
variable {s a b x : State}

theorem BridgeBlind.beginStop_phase (s : State) (n t : Nat) : (s.beginStop (.hb n) t).phase (.hb n) = .stopping ∧ (s.beginStop (.hb n) t).get (HB.DIR n) = 0 := by
  have hq := BridgeBlind.members (P := fun y => ∀ f, y.act f = s.act f) (fun _ => rfl) (f := fun y v => (y.endLimit v).quiet v)
    (fun _ k hy => (BridgeBlind.acts s).quiet ((BridgeBlind.acts s).endLimit k hy) _) n
  have hz := (BridgeBlind.acts s).mshReleaseOf hq (.hb (s.hbMaster n))
  unfold State.beginStop
  rw [State.master_hb]
  dsimp only
  generalize ((s.members (.hb n)).foldl (fun y v => (y.endLimit v).quiet v) s).mshReleaseOf (.hb (s.hbMaster n)) = z at hz ⊢
  rw [← State.hbMaster_of_act hz n, State.hbOpen_hbMaster]
  have ho := (BridgeBlind.acts s).hbOpen n hz
  have hd := z.hbOpen_idle n
  generalize z.hbOpen (.hb n) = w at ho hd ⊢
  rw [show z.hbMaster n = w.hbMaster n from (State.hbMaster_of_act hz n).trans (State.hbMaster_of_act ho n).symm, State.setPhase_hbMaster]
  exact ⟨State.phase_setPhase_hb (by decide) w n t, (BridgeBlind.idle n).setPhase n t hd _⟩

/-- A bridge under its pattern's brake. -/
theorem State.patternBrake_phase (s : State) (n t : Nat) : (s.patternBrake (.hb (s.hbMaster n)) t).phase (.hb n) = .brake := by
  have hz := (BridgeBlind.acts s).hbOpen (s.hbMaster n) ((BridgeBlind.acts s).mshReleaseOf ((BridgeBlind.acts s).endLimit (s.hbMaster n) (fun _ => rfl)) (.hb (s.hbMaster n)))
  unfold State.patternBrake
  dsimp only
  generalize ((s.endLimit (.hb (s.hbMaster n))).mshReleaseOf (.hb (s.hbMaster n))).hbOpen (.hb (s.hbMaster n)) = z at hz ⊢
  generalize (fun b : BridgeSt => { b with cmd := if s.hbPaired (s.hbMaster n) then 3 else 2 }) = f
  have hw : (z.setBridge (s.hbMaster n) f).hbMaster n = s.hbMaster n := State.hbMaster_of_act hz n
  generalize z.setBridge (s.hbMaster n) f = w at hw ⊢
  rw [← hw, State.setPhase_hbMaster]
  exact State.phase_setPhase_hb (by decide) w n t

/-! Reversal. -/

/-- What a bridge does whose wait for a heat, or its brake, begins. -/
theorem State.startWait_hb_phase (s : State) (n t : Nat) :
    (s.startWait (.hb n) t).phase (.hb n) ≠ .revbrk
      ∧ (s.hbMaster n = n → (s.out (.hb n)).fs = false → (s.startWait (.hb n) t).phase (.hb n) = if s.hbStarts n (s.get (HB.CMD n)) = true then .wait else .brake) := by
  have hq := BridgeBlind.members (P := fun y : State => (∀ f, y.act f = s.act f) ∧ y.outs = s.outs ∧ y.regs = s.regs) (s := s) ⟨fun _ => rfl, rfl, rfl⟩ (f := fun y v => y.quiet v)
    (fun _ _ hy => hy) (s.hbMaster n)
  unfold State.startWait
  rw [State.master_hb]
  dsimp only
  generalize (s.members (.hb (s.hbMaster n))).foldl (fun y v => y.quiet v) s = y at hq ⊢
  obtain ⟨hact, houts, hregs⟩ := hq
  have hm : s.hbMaster n = y.hbMaster n := (State.hbMaster_of_act hact n).symm
  have hset : ∀ p, HbPhase p → (y.setPhase (.hb (s.hbMaster n)) p t).phase (.hb n) = p := fun p hp => by
    rw [hm, State.setPhase_hbMaster]
    exact State.phase_setPhase_hb hp y n t
  have hout : y.out (.hb n) = s.out (.hb n) := by
    unfold State.out
    rw [houts]
  by_cases hfs : (y.out (.hb (s.hbMaster n))).fs = true
  · rw [if_pos hfs]
    refine ⟨?_, fun hmn h => ?_⟩
    · split
      · rw [hset .off (by decide)]
        decide
      · split
        · rw [hm, State.patternBrake_phase]
          decide
        · by_cases hb : y.hbBrakes (s.hbMaster n) (y.bridge (s.hbMaster n)).cmd = true
          · rw [if_pos hb, hset .brake (by decide)]
            decide
          · rw [if_neg hb, hset .off (by decide)]
            decide
    · rw [hmn, hout, h] at hfs
      exact absurd hfs (by decide)
  · rw [if_neg hfs]
    have hwait : ∀ z : State, (z.mshEnlist (.hb (s.hbMaster n))).phase (.hb n) = z.phase (.hb n) := fun z =>
      State.mshEnlist_keeps (P := fun y => y.phase (.hb n) = z.phase (.hb n)) (fun _ _ h => h) rfl _
    have hstarts : y.hbStarts n (y.get (HB.CMD n)) = s.hbStarts n (s.get (HB.CMD n)) := by
      unfold State.hbStarts State.get State.rd
      rw [State.hbPaired_of_act hact, hregs]
    refine ⟨?_, fun hmn _ => ?_⟩
    · split
      · rw [hwait, hset .wait (by decide)]
        decide
      · rw [hset .brake (by decide)]
        decide
    · rw [show y.hbStarts (s.hbMaster n) (y.get (HB.CMD (s.hbMaster n))) = s.hbStarts n (s.get (HB.CMD n)) by rw [hmn]; exact hstarts]
      split
      · rw [hwait, hset .wait (by decide)]
      · rw [hset .brake (by decide)]

/-- A word of a bridge that its operations leave. -/
theorem Fld.offBridge_flt (n : Nat) : (HB.FLT n).OffBridge := ⟨fun _ => Fld.apart_mk (by omega), fun _ => Fld.apart_mk (by omega), fun _ => Fld.apart_mk (by omega)⟩

theorem Fld.offBridge_penden (n : Nat) : (HB.PENDEN n).OffBridge := ⟨fun _ => Fld.apart_mk (by omega), fun _ => Fld.apart_mk (by omega), fun _ => Fld.apart_mk (by omega)⟩

/-- The end of a reversal (R309). -/
theorem State.reverseEnd_shows (s : State) (n t : Nat) (x : State)
    (hx : x = (((s.disarm (.revbrk n)).put (HB.PENDEN n) 0).put (HB.DIR n) 0).startWait (.hb n) t) :
    x.phase (.hb n) ≠ .revbrk ∧ x.get (HB.DIR n) = 0 ∧ x.get (HB.PENDEN n) = 0 ∧ x.get (HB.FLT n) = s.get (HB.FLT n)
      ∧ (s.hbMaster n = n → (s.out (.hb n)).fs = false → x.phase (.hb n) = if s.hbStarts n (s.get (HB.CMD n)) = true then .wait else .brake) := by
  obtain ⟨y, hy⟩ : ∃ y, y = ((s.disarm (.revbrk n)).put (HB.PENDEN n) 0).put (HB.DIR n) 0 := ⟨_, rfl⟩
  rw [← hy] at hx
  have hdir : y.get (HB.DIR n) = 0 := by
    rw [hy]
    exact State.get_put_same _ _ _ (show 12 + 2 ≤ 32 by decide)
  have hpend : y.get (HB.PENDEN n) = 0 := by
    rw [hy, State.get_put_apart _ _ _ _ (Fld.apart_mk (by omega))]
    exact State.get_put_same _ _ _ (show 8 + 1 ≤ 32 by decide)
  have hflt : y.get (HB.FLT n) = s.get (HB.FLT n) := by
    rw [hy, State.get_put_apart _ _ _ _ (Fld.apart_mk (by omega)), State.get_put_apart _ _ _ _ (Fld.apart_mk (by omega))]
    rfl
  have hcmd : y.get (HB.CMD n) = s.get (HB.CMD n) := by
    rw [hy, State.get_put_apart _ _ _ _ (Fld.apart_mk (by omega)), State.get_put_apart _ _ _ _ (Fld.apart_mk (by omega))]
    rfl
  have hact : ∀ f, y.act f = s.act f := fun f => by
    rw [hy]
    rfl
  have houts : y.out (.hb n) = s.out (.hb n) := by
    rw [hy]
    rfl
  have hstarts : ∀ c, y.hbStarts n c = s.hbStarts n c := fun c => by
    unfold State.hbStarts
    rw [State.hbPaired_of_act hact]
  clear hy
  obtain ⟨h1, h2⟩ := y.startWait_hb_phase n t
  rw [State.hbMaster_of_act hact, houts, hcmd, hstarts] at h2
  rw [hx]
  exact ⟨h1, (BridgeBlind.idle n).startWait n t hdir, (BridgeBlind.get (Fld.offBridge_penden n) 0).startWait n t hpend,
    (BridgeBlind.get (Fld.offBridge_flt n) _).startWait n t hflt, h2⟩

end
end Sys2Proof.Machine

namespace Sys2Proof.Machine

-- One declaration after another: each kernel evaluation beside others holds a thread's stack, and the whole text has one memory limit.
set_option Elab.async false

/-! What each command of a bridge shows (O27). -/

section
variable (s : State) (n t : Nat)

theorem reverseBrakeEnd_shows (below : Bool) : Completes (.reverseBrakeEnd t n below) s (fun x =>
    let late := (s.bridge n).revStart + 4 * ms (s.get (HB.REVBRK n)) ≤ t
    (s.phase (.hb n) = .revbrk → (below = true ∧ (s.bridge n).revStart + ms (s.get (HB.REVBRK n)) ≤ t) ∨ late →
        x.phase (.hb n) ≠ .revbrk ∧ x.get (HB.DIR n) = 0 ∧ x.get (HB.PENDEN n) = 0
        ∧ (late → bitAt (x.get (HB.FLT n)) 12 = true) ∧ (¬ late → x.get (HB.FLT n) = s.get (HB.FLT n))
        ∧ ((s.out (.hb n)).fs = false → s.master (.hb n) = .hb n → x.phase (.hb n) = (if s.hbStarts n (s.get (HB.CMD n)) = true then .wait else .brake)))
    ∧ (¬ (s.phase (.hb n) = .revbrk ∧ ((below = true ∧ (s.bridge n).revStart + ms (s.get (HB.REVBRK n)) ≤ t) ∨ late)) → x = s.reach t)) := by
  obtain ⟨z, hz⟩ : ∃ z, z = (if (below && !decide ((s.bridge n).revStart + 4 * ms (s.get (HB.REVBRK n)) ≤ t)) = true then s.reach t else (s.reach t).setFault (.hb n) 12 t) := ⟨_, rfl⟩
  have hexec : exec (.reverseBrakeEnd t n below) s = .next (if s.phase (.hb n) ≠ .revbrk then s.reach t
      else if ((below && decide ((s.bridge n).revStart + ms (s.get (HB.REVBRK n)) ≤ t)) || decide ((s.bridge n).revStart + 4 * ms (s.get (HB.REVBRK n)) ≤ t)) = true then
        (((z.disarm (.revbrk n)).put (HB.PENDEN n) 0).put (HB.DIR n) 0).startWait (.hb n) t
      else s.reach t) := by
    rw [hz]
    rfl
  refine ⟨_, hexec, ?_⟩
  dsimp only
  generalize (s.bridge n).revStart + 4 * ms (s.get (HB.REVBRK n)) = l at hz ⊢
  generalize (s.bridge n).revStart + ms (s.get (HB.REVBRK n)) = r at hz ⊢
  have hiff : ((below && decide (r ≤ t)) || decide (l ≤ t)) = true ↔ (below = true ∧ r ≤ t) ∨ l ≤ t := by simp
  refine ⟨fun hp hc => ?_, fun hno => ?_⟩
  · rw [if_neg (not_not.mpr hp), if_pos (hiff.mpr hc)]
    obtain ⟨h1, h2, h3, h4, h5⟩ := z.reverseEnd_shows n t _ rfl
    have hflag := (s.reach t).setFault_flags n (bit := 12) (by decide) t
    have hacts : ∀ f, z.act f = s.act f := fun f => by
      rw [hz]
      split
      · rfl
      · exact hflag.1.acts f
    have hout : z.out (.hb n) = s.out (.hb n) := by
      rw [hz]
      split
      · rfl
      · exact congrArg (fun o => look outInit o (uidx (.hb n))) hflag.1.outs
    have hcmd : z.get (HB.CMD n) = s.get (HB.CMD n) := by
      rw [hz]
      split
      · rfl
      · exact hflag.1.word (by omega) (by omega)
    have hstarts : ∀ c, z.hbStarts n c = s.hbStarts n c := fun c => by
      unfold State.hbStarts
      rw [State.hbPaired_of_act hacts]
    refine ⟨h1, h2, h3, fun hl => ?_, fun hl => ?_, fun hfs hm => ?_⟩
    · rw [h4, hz, if_neg (by simp [hl])]
      exact hflag.2
    · obtain ⟨hb, -⟩ := hc.resolve_right hl
      rw [h4, hz, if_pos (by simp [hb]; omega)]
      rfl
    · rw [State.master_hb] at hm
      rw [h5 ((State.hbMaster_of_act hacts n).trans (OutU.hb.inj hm)) (by rw [hout]; exact hfs), hcmd, hstarts]
  · by_cases hp : s.phase (.hb n) = .revbrk
    · rw [if_neg (not_not.mpr hp), if_neg (fun h => hno ⟨hp, hiff.mp h⟩)]
    · rw [if_pos hp]

/-! Parking. -/

theorem State.phase_put_hb (s : State) {f : Fld} {n : Nat} (v : Nat) (hf : f.apart (HB.STATE n)) : (s.put f v).phase (.hb n) = s.phase (.hb n) :=
  State.phase_of rfl (State.get_put_apart _ _ _ _ hf)

theorem State.parkBrake_shows (n t : Nat) : ((s.parkBrake n t).bridge n).parkBrake = true ∧ (s.parkBrake n t).due (.parkBrake n) = some (t + ms (s.get (HB.REVBRK n)))
    ∧ (s.parkBrake n t).due (.park n) = none ∧ (s.parkBrake n t).regs = s.regs ∧ (s.parkBrake n t).outs = s.outs := by
  unfold State.parkBrake
  refine ⟨?_, State.due_arm_same _ _ _, ?_, rfl, rfl⟩
  · rw [State.bridge_arm, State.bridge_setBridge, if_pos rfl]
  · rw [State.due_arm, if_neg (by simp)]
    exact State.due_disarm_same s _

theorem parkInputReached_shows : Completes (.parkInputReached t n) s (fun x =>
    if s.phase (.hb n) = .parking ∧ (s.bridge n).parkBrake = false then
      (x.bridge n).parkBrake = true ∧ x.due (.parkBrake n) = some (t + ms (s.get (HB.REVBRK n))) ∧ x.due (.park n) = none ∧ x.regs = s.regs
    else x = s.reach t) := by
  refine ⟨_, rfl, ?_⟩
  dsimp only
  have hb : ((s.reach t).phase (.hb n) = .parking ∧ ¬ ((s.reach t).bridge n).parkBrake = true) ↔ s.phase (.hb n) = .parking ∧ (s.bridge n).parkBrake = false := by
    rw [Bool.not_eq_true]
    exact Iff.rfl
  by_cases h : s.phase (.hb n) = .parking ∧ (s.bridge n).parkBrake = false
  · rw [if_pos h, if_pos (hb.mpr h)]
    obtain ⟨h1, h2, h3, h4, -⟩ := (s.reach t).parkBrake_shows n t
    exact ⟨h1, h2, h3, h4⟩
  · rw [if_neg h, if_neg (mt hb.mp h)]

theorem parkTimeout_shows {d : Nat} (hd : s.due (.park n) = some d) (hp : s.phase (.hb n) = .parking) : Completes (.parkTimeout n) s (fun x =>
    bitAt (x.get (HB.FLT n)) 11 = true ∧ (x.bridge n).parkBrake = true ∧ x.due (.parkBrake n) = some (d + ms (s.get (HB.REVBRK n))) ∧ x.phase (.hb n) = .parking) := by
  refine ⟨_, congrArg Host.Outcome.next (State.onExpiry_due hd _), ?_⟩
  dsimp only
  rw [if_pos (show ((s.disarm (.park n)).reach d).phase (.hb n) = .parking from hp)]
  obtain ⟨hf, hbit⟩ := ((s.disarm (.park n)).reach d).setFault_flags n (bit := 11) (by decide) d
  generalize ((s.disarm (.park n)).reach d).setFault (.hb n) 11 d = y at hf hbit ⊢
  obtain ⟨h1, h2, -, hregs, houts⟩ := y.parkBrake_shows n d
  have hget : ∀ g, (y.parkBrake n d).get g = y.get g := fun g => by
    unfold State.get State.rd
    rw [hregs]
  refine ⟨by rw [hget]; exact hbit, h1, ?_, (State.phase_of houts (hget _)).trans ((hf.phase n).trans hp)⟩
  rw [h2, show y.get (HB.REVBRK n) = s.get (HB.REVBRK n) from hf.word (by omega) (by omega)]

theorem parkBrakeEnd_shows {d : Nat} (hd : s.due (.parkBrake n) = some d) (hp : s.phase (.hb n) = .parking) : Completes (.parkBrakeEnd n) s (fun x =>
    x.phase (.hb n) = .stopping ∧ x.get (HB.DIR n) = 0 ∧ x.get (HB.PENDEN n) = s.get (HB.PENDEN n) ∧ (x.bridge n).cmd = 0) := by
  refine ⟨_, congrArg Host.Outcome.next (State.onExpiry_due hd _), ?_⟩
  dsimp only
  rw [if_pos (show ((s.disarm (.parkBrake n)).reach d).phase (.hb n) = .parking from hp)]
  obtain ⟨h1, h2⟩ := BridgeBlind.beginStop_phase ((s.disarm (.parkBrake n)).reach d) n d
  have hpend : ((s.disarm (.parkBrake n)).reach d).get (HB.PENDEN n) = s.get (HB.PENDEN n) := rfl
  unfold State.hbStop
  rw [hpend]
  generalize ((s.disarm (.parkBrake n)).reach d).beginStop (.hb n) d = y at h1 h2 ⊢
  have hput : ∀ (z : State) v, z.phase (.hb n) = .stopping → (z.put (HB.PENDEN n) v).phase (.hb n) = .stopping := fun z v hz =>
    (State.phase_put_hb z v (Fld.apart_mk (by omega))).trans hz
  have hidle : ∀ (z : State) v, z.get (HB.DIR n) = 0 → (z.put (HB.PENDEN n) v).get (HB.DIR n) = 0 := fun z v hz =>
    (State.get_put_apart _ _ _ _ (Fld.apart_mk (by omega))).trans hz
  refine ⟨hput _ _ (hput y 0 h1), hidle _ _ (hidle y 0 h2), ?_, ?_⟩
  · rw [State.get_put_same _ _ _ (show 8 + 1 ≤ 32 by decide)]
    exact Nat.mod_eq_of_lt (s.get_lt (HB.PENDEN n))
  · rw [State.bridge_put, State.bridge_setBridge, if_pos rfl]

end
end Sys2Proof.Machine

namespace Sys2Proof.Machine

-- One declaration after another: each kernel evaluation beside others holds a thread's stack, and the whole text has one memory limit.
set_option Elab.async false

/-! Chopping and the PWM period of a bridge (O27). -/

section
variable (s : State) (n t : Nat)

theorem chopLimit_shows : Completes (.chopLimit t n) s (fun x =>
    ((s.phase (.hb n)).conducts = true → (x.bridge n).phaseOpen = true ∧ (x.bridge n).chopSince = (if (s.bridge n).chopSince = none then some t else (s.bridge n).chopSince)
      ∧ ((s.bridge n).chopSince = none → x.get (HB.CHOPPING n) = 1 ∧ bitAt (x.get (HB.FLT n)) 14 = true)
      ∧ ((s.bridge n).chopSince.isSome = true → x.regs = s.regs))
    ∧ ((s.phase (.hb n)).conducts = false → x = s.reach t)) := by
  refine ⟨_, rfl, ?_⟩
  dsimp only
  have hph : (s.reach t).phase (.hb n) = s.phase (.hb n) := rfl
  have hbr : (s.reach t).bridge n = s.bridge n := rfl
  rw [hph, hbr]
  obtain ⟨hf, hbit⟩ := (s.reach t).setFault_flags n (bit := 14) (by decide) t
  have hb0 := hf.bridge n
  generalize (s.reach t).setFault (.hb n) 14 t = z at hf hbit hb0 ⊢
  refine ⟨fun h => ?_, fun h => by rw [h]; rfl⟩
  rw [if_pos h]
  cases hc : (s.bridge n).chopSince with
  | none =>
    rw [if_pos rfl, if_pos Option.isNone_none]
    refine ⟨?_, ?_, fun _ => ⟨?_, ?_⟩, fun h => absurd h (by simp)⟩
    · rw [State.bridge_setBridge, if_pos rfl]
    · rw [State.bridge_setBridge, if_pos rfl, State.bridge_setBridge, if_pos rfl]
    · rw [State.get_setBridge, State.get_setBridge]
      exact State.get_put_same _ _ _ (show 10 + 1 ≤ 32 by decide)
    · rw [State.get_setBridge, State.get_setBridge, State.get_put_apart _ _ _ _ (Fld.apart_mk (by omega))]
      exact hbit
  | some c =>
    rw [if_neg (by simp), if_neg (by simp)]
    refine ⟨?_, ?_, fun h => absurd h (by simp), fun _ => rfl⟩
    · rw [State.bridge_setBridge, if_pos rfl]
    · rw [State.bridge_setBridge, if_pos rfl, hbr]
      exact hc

/-- One output at the start of a PWM period: an episode of chopping ends after a period without a chop. -/
def State.periodStep (y : State) (k : Nat) : State :=
  let y := if (y.bridge k).phaseOpen then y else (y.put (HB.CHOPPING k) 0).setBridge k (fun b => { b with chopSince := none })
  y.setBridge k (fun b => { b with phaseOpen := false })

theorem State.periodStep_same (y : State) (k : Nat) : ((y.periodStep k).bridge k).phaseOpen = false
    ∧ ((y.bridge k).phaseOpen = true → ((y.periodStep k).bridge k).chopSince = (y.bridge k).chopSince ∧ (y.periodStep k).get (HB.CHOPPING k) = y.get (HB.CHOPPING k))
    ∧ ((y.bridge k).phaseOpen = false → ((y.periodStep k).bridge k).chopSince = none ∧ (y.periodStep k).get (HB.CHOPPING k) = 0) := by
  unfold State.periodStep
  dsimp only
  rw [State.bridge_setBridge, if_pos rfl, State.get_setBridge]
  cases (y.bridge k).phaseOpen with
  | true => exact ⟨rfl, fun _ => ⟨rfl, rfl⟩, fun h => absurd h (by decide)⟩
  | false =>
    rw [if_neg (by decide), State.bridge_setBridge, if_pos rfl, State.get_setBridge]
    exact ⟨rfl, fun h => absurd h (by decide), fun _ => ⟨rfl, State.get_put_same _ _ _ (show 10 + 1 ≤ 32 by decide)⟩⟩

theorem State.periodStep_other (y : State) {k : Nat} (h : k ≠ n) : (y.periodStep k).bridge n = y.bridge n ∧ (y.periodStep k).get (HB.CHOPPING n) = y.get (HB.CHOPPING n) := by
  unfold State.periodStep
  dsimp only
  rw [State.bridge_setBridge, if_neg h, State.get_setBridge]
  split
  · exact ⟨rfl, rfl⟩
  · rw [State.bridge_setBridge, if_neg h, State.get_setBridge]
    exact ⟨rfl, State.get_put_apart _ _ _ _ (Fld.apart_mk (by omega))⟩

theorem State.periodStep_outs (y : State) (k : Nat) : (y.periodStep k).outs = y.outs := by
  unfold State.periodStep
  dsimp only
  split <;> rfl

/-- The outputs of a bridge at the start of a PWM period. -/
theorem State.period_shows : ∀ (ks : List Nat) (y : State), ks.Nodup →
    (n ∉ ks → (ks.foldl State.periodStep y).bridge n = y.bridge n ∧ (ks.foldl State.periodStep y).get (HB.CHOPPING n) = y.get (HB.CHOPPING n))
    ∧ (n ∈ ks → ((ks.foldl State.periodStep y).bridge n).phaseOpen = false
      ∧ ((y.bridge n).phaseOpen = true → ((ks.foldl State.periodStep y).bridge n).chopSince = (y.bridge n).chopSince
          ∧ (ks.foldl State.periodStep y).get (HB.CHOPPING n) = y.get (HB.CHOPPING n))
      ∧ ((y.bridge n).phaseOpen = false → ((ks.foldl State.periodStep y).bridge n).chopSince = none ∧ (ks.foldl State.periodStep y).get (HB.CHOPPING n) = 0)) := by
  intro ks
  induction ks with
  | nil => exact fun y _ => ⟨fun _ => ⟨rfl, rfl⟩, fun h => absurd h (by simp)⟩
  | cons k ks ih =>
    intro y hnd
    obtain ⟨hk, hnd⟩ := List.nodup_cons.mp hnd
    obtain ⟨h1, h2⟩ := ih (y.periodStep k) hnd
    rw [List.foldl_cons]
    refine ⟨fun hn => ?_, fun hn => ?_⟩
    · rw [List.mem_cons, not_or] at hn
      obtain ⟨e1, e2⟩ := y.periodStep_other n (Ne.symm hn.1)
      rw [(h1 hn.2).1, (h1 hn.2).2]
      exact ⟨e1, e2⟩
    · by_cases hkn : n = k
      · rw [← hkn] at hk h1 ⊢
        rw [(h1 hk).1, (h1 hk).2]
        exact y.periodStep_same n
      · obtain ⟨e1, e2⟩ := y.periodStep_other n (Ne.symm hkn)
        rw [e1, e2] at h2
        exact h2 ((List.mem_cons.mp hn).resolve_left hkn)

/-- The duty of a period by its parts (R307, R315). -/
theorem State.hbDuty_eq (m : Nat) : s.hbDuty m =
    (let asked := if s.phase (.hb m) = .parking then (if s.keeps (.hb m) = true then (s.out (.hb m)).kept.1 else s.get (HB.PDUTY m))
      else if s.hbPaired m = false ∧ (s.bridge m).cmd = 1 then 4096 else s.keptDuty (.hb m) (s.get (HB.DUTY m))
    let short := fun (d : Nat) => d * 10000000 < 200 * s.get (HB.DEADT m) * 4096 * s.get (HB.PWMF m)
    if short asked then 0 else if short (4096 - asked) then 4096 else asked) := by
  have hiff : (!s.hbPaired m && decide ((s.bridge m).cmd = 1)) = true ↔ s.hbPaired m = false ∧ (s.bridge m).cmd = 1 := by simp
  unfold State.hbDuty
  simp only [hiff]

theorem bridgePwmPeriod_shows (m : Nat) (hm : m = s.hbMaster n) : Completes (.bridgePwmPeriod t n) s (fun x =>
    (x.out (.hb m)).dutyAct = s.hbDuty m ∧ (x.bridge n).phaseOpen = false
    ∧ ((s.bridge n).phaseOpen = true → (x.bridge n).chopSince = (s.bridge n).chopSince ∧ x.get (HB.CHOPPING n) = s.get (HB.CHOPPING n))
    ∧ ((s.bridge n).phaseOpen = false → (x.bridge n).chopSince = none ∧ x.get (HB.CHOPPING n) = 0)) := by
  obtain ⟨ks, hks, hn, hnd⟩ := s.members_hb_mem n
  have hexec : exec (.bridgePwmPeriod t n) s = .next (ks.foldl State.periodStep ((s.reach t).setOut (.hb m) (fun o => { o with dutyAct := s.hbDuty m }))) := by
    have h : exec (.bridgePwmPeriod t n) s = .next ((s.members (.hb n)).foldl (fun y v => match v with
      | .hb k => y.periodStep k
      | _ => y) ((s.reach t).setOut (.hb (s.hbMaster n)) (fun o => { o with dutyAct := s.hbDuty (s.hbMaster n) }))) := rfl
    rw [h, hks, List.foldl_map, hm]
  have hp := (State.period_shows n ks ((s.reach t).setOut (.hb m) (fun o => { o with dutyAct := s.hbDuty m })) hnd).2 hn
  refine ⟨_, hexec, ?_, hp⟩
  have houts : (ks.foldl State.periodStep ((s.reach t).setOut (.hb m) (fun o => { o with dutyAct := s.hbDuty m }))).outs = ((s.reach t).setOut (.hb m) (fun o => { o with dutyAct := s.hbDuty m })).outs :=
    foldl_keeps (P := fun y => y.outs = ((s.reach t).setOut (.hb m) (fun o => { o with dutyAct := s.hbDuty m })).outs) rfl (fun y k h => (y.periodStep_outs k).trans h)
  have hout := State.out_setOut (s.reach t) (.hb m) (.hb m) (fun o => { o with dutyAct := s.hbDuty m })
  rw [if_pos rfl] at hout
  unfold State.out at hout ⊢
  rw [houts, hout]

end
end Sys2Proof.Machine

namespace Sys2Proof.Machine

-- One declaration after another: each kernel evaluation beside others holds a thread's stack, and the whole text has one memory limit.
set_option Elab.async false

/-! Trips of a bridge (O27). -/

section
variable {s a b x : State}

/-- The count of a trip and its yield. -/
structure State.Counted (n : Nat) (a b : State) : Prop where
  get : ∀ g : Fld, g.page ≠ 0 → g.page ≠ 7 → g.off < 4096 → (HB.TRIPS n).apart g → b.get g = a.get g
  outs : b.outs = a.outs
  acts : ∀ f, b.act f = a.act f

theorem State.countTrip_counted (s : State) (n t : Nat) : s.Counted n ((s.count (HB.TRIPS n)).g5Trip (.hb n) false t) := by
  have hc : s.Counted n (s.count (HB.TRIPS n)) := ⟨fun g _ _ _ h => State.get_count_apart _ _ _ _ h, rfl, fun _ => rfl⟩
  unfold State.g5Trip
  rw [if_neg (by decide)]
  generalize s.count (HB.TRIPS n) = y at hc ⊢
  split
  · refine ⟨fun g h0 h7 ho h => (State.get_yieldOnce y _ _ _ _ (by decide) g h0 h7 ho).trans (hc.get g h0 h7 ho h), ?_, fun f => ?_⟩
    · exact State.yieldOnce_keeps (P := fun z => z.outs = s.outs) (fun _ _ _ h => h) (fun _ _ _ h => h) (fun _ _ h => h) (fun _ _ h => h) hc.outs _ _ _ _
    · exact State.yieldOnce_keeps (P := fun z => z.act f = s.act f) (fun _ _ _ h => h) (fun _ _ _ h => h) (fun _ _ h => h) (fun _ _ h => h) (hc.acts f) _ _ _ _
  · exact hc

/-- What a trip ends before the bridge is off: limits, timers, starts and the drive. -/
def State.tripOpen (s : State) (n : Nat) : State :=
  let m := OutU.hb (s.hbMaster n)
  let y := (s.members (.hb n)).foldl (fun s v => (((s.endLimit v).quiet v).fastDecay v).setOut v (fun o => { o with stopping := false })) s
  ((y.mshRemove m).mshReleaseOf m).hbOpen m

theorem BridgeBlind.tripOpen {P : State → Prop} (hP : BridgeBlind P) (h : P s) (n : Nat) : P (s.tripOpen n) := by
  have hq := BridgeBlind.members h (f := fun y v => (((y.endLimit v).quiet v).fastDecay v).setOut v (fun o => { o with stopping := false }))
    (fun _ k hy => hP.outs _ _ (hP.quiet (hP.endLimit k hy) _)) n
  exact hP.hbOpen _ (hP.mshReleaseOf (hP.mshRemove hq _) _)

theorem State.tripOpen_idle (s : State) (n : Nat) : (s.tripOpen n).get (HB.DIR n) = 0 := by
  have hq := BridgeBlind.members (P := fun y => ∀ f, y.act f = s.act f) (fun _ => rfl) (f := fun y v => (((y.endLimit v).quiet v).fastDecay v).setOut v (fun o => { o with stopping := false }))
    (fun _ k hy => (BridgeBlind.acts s).outs _ _ ((BridgeBlind.acts s).quiet ((BridgeBlind.acts s).endLimit k hy) _)) n
  have hz := (BridgeBlind.acts s).mshReleaseOf ((BridgeBlind.acts s).mshRemove hq (.hb (s.hbMaster n))) (.hb (s.hbMaster n))
  unfold State.tripOpen
  dsimp only
  generalize (((s.members (.hb n)).foldl (fun y v => (((y.endLimit v).quiet v).fastDecay v).setOut v (fun o => { o with stopping := false })) s).mshRemove (.hb (s.hbMaster n))).mshReleaseOf
    (.hb (s.hbMaster n)) = z at hz ⊢
  rw [← State.hbMaster_of_act hz n, State.hbOpen_hbMaster]
  exact z.hbOpen_idle n

/-- The trip of a bridge by its steps. -/
theorem State.trip_hb (s : State) (n t : Nat) (flags : List Nat) (z y o : State) (hz : flags.foldl (fun y i => y.setFault (.hb n) i t) s = z)
    (hy : (z.count (HB.TRIPS n)).g5Trip (.hb n) false t = y) (hm : y.hbMaster n = s.hbMaster n) (ho : y.tripOpen n = o) :
    s.trip (.hb n) flags false t = if o.get (HB.RETRYREM (s.hbMaster n)) > 0 then
        (o.setPhase (.hb n) .tripped t).arm (.retry (.hb (s.hbMaster n))) (t + ms (10 * o.get (HB.RTRINT (s.hbMaster n))))
      else o.lockoff (.hb (s.hbMaster n)) 8 t := by
  unfold State.tripOpen at ho
  rw [hm] at ho
  unfold State.trip
  rw [State.master_hb, ← ho, ← hy, ← hz]
  rfl

/-- A bridge locked off. -/
theorem State.lockoff_shows (o : State) (n t : Nat) {bit : Nat} (hbit : bit < 15) (m : Nat) (hm : m = o.hbMaster n) (hd : o.get (HB.DIR n) = 0) :
    (o.lockoff (.hb m) bit t).phase (.hb n) = .lockoff ∧ (o.lockoff (.hb m) bit t).get (HB.DIR n) = 0
      ∧ ∀ i, bitAt (o.get (HB.FLT n)) i = true → bitAt ((o.lockoff (.hb m) bit t).get (HB.FLT n)) i = true := by
  have hself : o.hbMaster m = m := by rw [hm, State.hbMaster_master]
  unfold State.lockoff
  rw [State.master_hb, hself]
  dsimp only
  have hph : ((o.quiet (.hb m)).setPhase (.hb m) .lockoff t).phase (.hb n) = .lockoff := by
    have hq : (o.quiet (.hb m)).hbMaster n = m := hm.symm
    generalize o.quiet (.hb m) = y at hq ⊢
    rw [← hq, State.setPhase_hbMaster]
    exact State.phase_setPhase_hb (by decide) y n t
  have hdir := (BridgeBlind.idle n).setPhase m t ((BridgeBlind.idle n).quiet hd (.hb m)) .lockoff
  have hflt := (BridgeBlind.get (Fld.offBridge_flt n) (o.get (HB.FLT n))).setPhase (s := o.quiet (.hb m)) m t rfl .lockoff
  generalize (o.quiet (.hb m)).setPhase (.hb m) .lockoff t = y at hph hdir hflt ⊢
  obtain ⟨hf, -⟩ := y.setFault_flags m hbit t
  generalize y.setFault (.hb m) bit t = z at hf ⊢
  have hz : z.phase (.hb n) = .lockoff ∧ z.get (HB.DIR n) = 0 ∧ ∀ i, bitAt (o.get (HB.FLT n)) i = true → bitAt (z.get (HB.FLT n)) i = true :=
    ⟨(hf.phase n).trans hph, (hf.word (by omega) (by omega)).trans hdir, fun i hi => hf.flt n i (by rw [hflt]; exact hi)⟩
  obtain ⟨h1, h2, h3⟩ := hz
  have hdet : ∀ c k, (z.detect c k).phase (.hb n) = .lockoff ∧ (z.detect c k).get (HB.DIR n) = 0
      ∧ ∀ i, bitAt (o.get (HB.FLT n)) i = true → bitAt ((z.detect c k).get (HB.FLT n)) i = true := fun c k => by
    rw [State.get_detect, State.get_detect]
    exact ⟨(State.phase_of (b := z.detect c k) (a := z) rfl (State.get_detect z c k _)).trans h1, h2, h3⟩
  exact hdet _ _

/-- A driving bridge that trips (R309, R311). -/
theorem State.trip_shows (s : State) (n t : Nat) (flags : List Nat) (hl : ∀ i ∈ flags, i < 15) :
    (s.trip (.hb n) flags false t).get (HB.DIR n) = 0
      ∧ (s.get (HB.RETRYREM (s.hbMaster n)) ≠ 0 → (s.trip (.hb n) flags false t).phase (.hb n) = .tripped
          ∧ (s.trip (.hb n) flags false t).due (.retry (.hb (s.hbMaster n))) = some (t + ms (10 * s.get (HB.RTRINT (s.hbMaster n)))))
      ∧ (s.get (HB.RETRYREM (s.hbMaster n)) = 0 → (s.trip (.hb n) flags false t).phase (.hb n) = .lockoff)
      ∧ ∀ i ∈ flags, bitAt ((s.trip (.hb n) flags false t).get (HB.FLT n)) i = true := by
  obtain ⟨hf, hset⟩ := State.setFaults_flag n t flags s hl
  obtain ⟨z, hz⟩ : ∃ z, flags.foldl (fun y i => y.setFault (.hb n) i t) s = z := ⟨_, rfl⟩
  rw [hz] at hf hset
  have hc := z.countTrip_counted n t
  obtain ⟨y, hy⟩ : ∃ y, (z.count (HB.TRIPS n)).g5Trip (.hb n) false t = y := ⟨_, rfl⟩
  rw [hy] at hc
  have hacts : ∀ f, y.act f = s.act f := fun f => (hc.acts f).trans (hf.acts f)
  have hm := State.hbMaster_of_act hacts n
  obtain ⟨o, ho⟩ : ∃ o, y.tripOpen n = o := ⟨_, rfl⟩
  rw [State.trip_hb s n t flags z y o hz hy hm ho]
  have hidle : o.get (HB.DIR n) = 0 := by
    rw [← ho]
    exact y.tripOpen_idle n
  have hom : o.hbMaster n = s.hbMaster n := by
    rw [← ho]
    exact (State.hbMaster_of_act ((BridgeBlind.acts y).tripOpen (fun _ => rfl) n) n).trans hm
  have hrem : o.get (HB.RETRYREM (s.hbMaster n)) = s.get (HB.RETRYREM (s.hbMaster n)) := by
    rw [← ho, (BridgeBlind.get (g := HB.RETRYREM (s.hbMaster n)) ⟨fun _ => Fld.apart_mk (by omega), fun _ => Fld.apart_mk (by omega), fun _ => Fld.apart_mk (by omega)⟩ _).tripOpen rfl n,
      hc.get _ (by show 0x1d + _ ≠ 0; omega) (by show 0x1d + _ ≠ 7; omega) (by show 0x11c + 0x80 * _ < 4096; omega) (Fld.apart_mk (by omega))]
    exact hf.word (by omega) (by omega)
  have hint : o.get (HB.RTRINT (s.hbMaster n)) = s.get (HB.RTRINT (s.hbMaster n)) := by
    rw [← ho, (BridgeBlind.get (g := HB.RTRINT (s.hbMaster n)) ⟨fun _ => Fld.apart_mk (by omega), fun _ => Fld.apart_mk (by omega), fun _ => Fld.apart_mk (by omega)⟩ _).tripOpen rfl n,
      hc.get _ (by show 0x1d + _ ≠ 0; omega) (by show 0x1d + _ ≠ 7; omega) (by show 0x10c + 0x80 * _ < 4096; omega) (Fld.apart_mk (by omega))]
    exact hf.word (by omega) (by omega)
  have hflt : ∀ i ∈ flags, bitAt (o.get (HB.FLT n)) i = true := fun i hi => by
    rw [← ho, (BridgeBlind.get (Fld.offBridge_flt n) _).tripOpen rfl n,
      hc.get _ (by show 0x1d + _ ≠ 0; omega) (by show 0x1d + _ ≠ 7; omega) (by show 0x120 + 0x80 * _ < 4096; omega) (Fld.apart_mk (by omega))]
    exact hset i hi
  rw [hrem, hint]
  clear ho
  by_cases h : s.get (HB.RETRYREM (s.hbMaster n)) > 0
  · rw [if_pos h]
    refine ⟨(BridgeBlind.idle n).setPhase n t hidle .tripped, fun _ => ⟨State.phase_setPhase_hb (by decide) o n t, State.due_arm_same _ _ _⟩, fun h0 => absurd h (by omega), fun i hi => ?_⟩
    show bitAt ((o.setPhase (.hb n) .tripped t).get (HB.FLT n)) i = true
    rw [(BridgeBlind.get (Fld.offBridge_flt n) _).setPhase n t rfl .tripped]
    exact hflt i hi
  · rw [if_neg h]
    obtain ⟨h1, h2, h3⟩ := o.lockoff_shows n t (bit := 8) (by decide) (s.hbMaster n) hom.symm hidle
    exact ⟨h2, fun h0 => absurd (Nat.pos_of_ne_zero h0) h, fun _ => h1, fun i hi => h3 i (hflt i hi)⟩

end
end Sys2Proof.Machine

namespace Sys2Proof.Machine

-- One declaration after another: each kernel evaluation beside others holds a thread's stack, and the whole text has one memory limit.
set_option Elab.async false

/-! What trips and stalls show (O27). -/

/-- A bridge that drives or brakes. -/
abbrev State.HbDriven (s : State) (n : Nat) : Prop :=
  s.phase (.hb n) = .on ∨ s.phase (.hb n) = .parking ∨ s.phase (.hb n) = .revbrk ∨ s.phase (.hb n) = .brake

/-- A bridge whose switches a trip opens. -/
abbrev State.HbHeld (s : State) (n : Nat) : Prop := s.HbDriven n ∨ (s.phase (.hb n) = .stalled ∧ (s.bridge (s.hbMaster n)).cut = false)

/-- What a trip out of a drive leaves (R309, R311). -/
abbrev State.HbTripped (s : State) (n t : Nat) (x : State) : Prop :=
  x.get (HB.DIR n) = 0
    ∧ (s.get (fRem (s.master (.hb n))) ≠ 0 → x.phase (.hb n) = .tripped ∧ x.due (.retry (s.master (.hb n))) = some (t + ms (10 * s.get (fRtrint (s.master (.hb n))))))
    ∧ (s.get (fRem (s.master (.hb n))) = 0 → x.phase (.hb n) = .lockoff)

/-- What a trip leaves of a stalled bridge (R311). -/
abbrev State.HbCut (s : State) (n : Nat) (x : State) : Prop :=
  x.phase (.hb n) = .stalled ∧ (x.bridge (s.hbMaster n)).cut = true ∧ x.get (HB.TRIPS n) = min (s.get (HB.TRIPS n) + 1) (2 ^ (HB.TRIPS n).width - 1)

section
variable (s : State) (n t : Nat)

theorem State.hbTrip_driven (flags : List Nat) (h : s.HbDriven n) : s.hbTrip n flags t = s.trip (.hb n) flags false t := by
  unfold State.hbTrip
  rcases h with h | h | h | h <;> rw [h]

theorem State.hbTrip_stalled (flags : List Nat) (h : s.phase (.hb n) = .stalled) (hc : (s.bridge (s.hbMaster n)).cut = false) : s.hbTrip n flags t = s.hbCut n flags t := by
  unfold State.hbTrip
  rw [h]
  dsimp only
  rw [if_neg (by rw [hc]; decide)]

theorem State.hbTrip_loose (flags : List Nat) (h : ¬ s.HbHeld n) : s.hbTrip n flags t = s := by
  obtain ⟨hd, hs⟩ := not_or.mp h
  unfold State.hbTrip
  cases hp : s.phase (.hb n) with
  | on => exact absurd (.inl hp) hd
  | parking => exact absurd (.inr (.inl hp)) hd
  | revbrk => exact absurd (.inr (.inr (.inl hp))) hd
  | brake => exact absurd (.inr (.inr (.inr hp))) hd
  | stalled =>
    dsimp only
    cases hc : (s.bridge (s.hbMaster n)).cut with
    | true => rfl
    | false => exact absurd ⟨hp, hc⟩ hs
  | _ => rfl

theorem State.hbCut_shows (flags : List Nat) (hl : ∀ i ∈ flags, i < 15) (hp : s.phase (.hb n) = .stalled) :
    s.HbCut n (s.hbCut n flags t) ∧ ∀ i ∈ flags, bitAt ((s.hbCut n flags t).get (HB.FLT n)) i = true := by
  obtain ⟨hf, hset⟩ := State.setFaults_flag n t flags s hl
  unfold State.hbCut
  generalize flags.foldl (fun y i => y.setFault (.hb n) i t) s = z at hf hset ⊢
  refine ⟨⟨?_, ?_, ?_⟩, fun i hi => ?_⟩
  · exact (State.phase_put_hb z _ (Fld.apart_mk (by omega))).trans ((hf.phase n).trans hp)
  · rw [State.bridge_setBridge, if_pos rfl]
  · rw [State.get_setBridge, State.get_count_same _ _ _ (show 0 + 16 ≤ 32 by decide), show z.get (HB.TRIPS n) = s.get (HB.TRIPS n) from hf.word (by omega) (by omega)]
  · rw [State.get_setBridge, State.get_count_apart _ _ _ _ (Fld.apart_mk (by omega))]
    exact hset i hi

/-- A trip by the state that a bridge is in. -/
theorem State.hbTrip_shows (flags : List Nat) (hl : ∀ i ∈ flags, i < 15) :
    (s.HbHeld n → ∀ i ∈ flags, bitAt ((s.hbTrip n flags t).get (HB.FLT n)) i = true)
      ∧ (s.HbDriven n → s.HbTripped n t (s.hbTrip n flags t))
      ∧ (s.HbHeld n → ¬ s.HbDriven n → s.HbCut n (s.hbTrip n flags t))
      ∧ (¬ s.HbHeld n → s.hbTrip n flags t = s) := by
  obtain ⟨h1, h2, h3, h4⟩ := s.trip_shows n t flags hl
  refine ⟨fun h => ?_, fun h => ?_, fun h hd => ?_, s.hbTrip_loose n t flags⟩
  · rcases h with h | ⟨hp, hc⟩
    · rw [s.hbTrip_driven n t flags h]
      exact h4
    · rw [s.hbTrip_stalled n t flags hp hc]
      exact (s.hbCut_shows n t flags hl hp).2
  · rw [s.hbTrip_driven n t flags h]
    unfold State.HbTripped
    rw [State.master_hb]
    exact ⟨h1, h2, h3⟩
  · obtain ⟨hp, hc⟩ := h.resolve_left hd
    rw [s.hbTrip_stalled n t flags hp hc]
    exact (s.hbCut_shows n t flags hl hp).1

theorem overloadTrip_shows : Completes (.overloadTrip t n) s (fun x =>
    (s.HbHeld n → bitAt (x.get (HB.FLT n)) 5 = true) ∧ (s.HbDriven n → s.HbTripped n t x) ∧ (s.HbHeld n → ¬ s.HbDriven n → s.HbCut n x) ∧ (¬ s.HbHeld n → x = s.reach t)) := by
  obtain ⟨h1, h2, h3, h4⟩ := (s.reach t).hbTrip_shows n t [5] (by decide)
  exact ⟨_, rfl, fun h => h1 h 5 (.head _), h2, h3, h4⟩

theorem shortCircuitTrip_shows (hi lo both : Bool) : Completes (.shortCircuitTrip t n hi lo both) s (fun x =>
    (s.HbHeld n → (hi = true → bitAt (x.get (HB.FLT n)) 2 = true) ∧ (lo = true → bitAt (x.get (HB.FLT n)) 3 = true)
      ∧ (both = true → s.hbPaired n = true → bitAt (x.get (HB.FLT n)) 4 = true))
    ∧ (s.HbDriven n → s.HbTripped n t x) ∧ (s.HbHeld n → ¬ s.HbDriven n → s.HbCut n x) ∧ (¬ s.HbHeld n → x.regs = s.regs)) := by
  obtain ⟨y, hy⟩ : ∃ y, y = (if ((s.reach t).phase (.hb n)).conducts then (s.reach t).setOut (.hb n) (fun o => { o with bad := o.bad ||| (4 * b2n hi + 8 * b2n lo) }) else s.reach t) := ⟨_, rfl⟩
  have hexec : exec (.shortCircuitTrip t n hi lo both) s
      = .next (y.hbTrip n ((if hi then [2] else []) ++ (if lo then [3] else []) ++ (if both && y.hbPaired n then [4] else [])) t) := by
    rw [hy]
    rfl
  have hacts : ∀ f, y.act f = s.act f := fun f => by
    rw [hy]
    split <;> rfl
  have hregs : y.regs = s.regs := by
    rw [hy]
    split <;> rfl
  have hbridge : ∀ k, y.bridge k = s.bridge k := fun k => by
    rw [hy]
    split <;> rfl
  have hget : ∀ g, y.get g = s.get g := fun g => by
    unfold State.get State.rd
    rw [hregs]
  have hphase : y.phase (.hb n) = s.phase (.hb n) := by
    have hout : (y.out (.hb n)).fs = (s.out (.hb n)).fs ∧ (y.out (.hb n)).under = (s.out (.hb n)).under := by
      rw [hy]
      split
      · rw [State.out_setOut, if_pos rfl]
        exact ⟨rfl, rfl⟩
      · exact ⟨rfl, rfl⟩
    unfold State.phase
    rw [hout.1, hout.2, hget]
  have hmaster : y.hbMaster n = s.hbMaster n := State.hbMaster_of_act hacts n
  clear hy
  have hl : ∀ i ∈ (if hi then [2] else []) ++ (if lo then [3] else []) ++ (if both && y.hbPaired n then [4] else []), i < 15 := by
    intro i h
    rw [List.mem_append, List.mem_append] at h
    rcases h with (h | h) | h <;> split at h <;> simp at h <;> omega
  obtain ⟨h1, h2, h3, h4⟩ := y.hbTrip_shows n t _ hl
  have hdriven : y.HbDriven n ↔ s.HbDriven n := by
    unfold State.HbDriven
    rw [hphase]
  have hheld : y.HbHeld n ↔ s.HbHeld n := by
    unfold State.HbHeld
    rw [hdriven, hphase, hmaster, hbridge]
  have htripped : ∀ x, y.HbTripped n t x ↔ s.HbTripped n t x := fun x => by
    unfold State.HbTripped
    rw [State.master_hb, State.master_hb, hmaster, hget, hget]
  have hcut : ∀ x, y.HbCut n x ↔ s.HbCut n x := fun x => by
    unfold State.HbCut
    rw [hmaster, hget]
  refine ⟨_, hexec, fun h => ⟨fun hb => h1 (hheld.mpr h) 2 ?_, fun hb => h1 (hheld.mpr h) 3 ?_, fun hb hp => h1 (hheld.mpr h) 4 ?_⟩, fun h => (htripped _).mp (h2 (hdriven.mpr h)),
    fun h hd => (hcut _).mp (h3 (hheld.mpr h) (mt hdriven.mp hd)), fun h => ?_⟩
  · simp [hb]
  · simp [hb]
  · simp [hb, State.hbPaired_of_act hacts, hp]
  · rw [h4 (mt hheld.mp h)]
    exact hregs

end
end Sys2Proof.Machine

namespace Sys2Proof.Machine

-- One declaration after another: each kernel evaluation beside others holds a thread's stack, and the whole text has one memory limit.
set_option Elab.async false

/-! Stalls and ripples of a bridge (O27). -/

section
variable (s : State) (n t : Nat)

/-- Some output of the bridge has chopped for STALLT (R312). -/
abbrev State.HbChopped : Prop :=
  (s.members (.hb n)).any (fun v => match v with
    | .hb k => (s.bridge k).chopSince.any (fun c => decide (c + ms (s.get (HB.STALLT n)) ≤ t))
    | _ => false) = true

/-- A current at STALLI or more without a ripple for STALLT (R312). -/
abbrev State.HbSilent : Prop :=
  s.flag (HB.RIPEN n) = true ∧ 10 * s.get (HB.STALLI n) ≤ (s.signed (HB.IOUT n)).natAbs
    ∧ max (s.out (.hb n)).since ((s.bridge n).lastRipple.getD 0) + ms (s.get (HB.STALLT n)) ≤ t

theorem State.stalls_iff : s.stalls n t = true ↔ s.HbChopped n t ∨ s.HbSilent n t := by
  unfold State.stalls
  dsimp only
  refine Bool.or_eq_true_iff.trans (or_congr Iff.rfl ?_)
  rw [Bool.and_eq_true, Bool.and_eq_true, decide_eq_true_iff, decide_eq_true_iff, and_assoc]

theorem State.yieldOnce_bridge (y : State) (c d u : Nat) (hc : c ≤ 12) :
    (y.yieldOnce c d u t).phase (.hb n) = y.phase (.hb n) ∧ ∀ g : Fld, g.page ≠ 0 → g.page ≠ 7 → g.off < 4096 → (y.yieldOnce c d u t).get g = y.get g := by
  have hget : ∀ g : Fld, g.page ≠ 0 → g.page ≠ 7 → g.off < 4096 → (y.yieldOnce c d u t).get g = y.get g := fun g h0 h7 ho => State.get_yieldOnce y _ _ _ _ hc g h0 h7 ho
  have houts : (y.yieldOnce c d u t).outs = y.outs :=
    State.yieldOnce_keeps (P := fun z => z.outs = y.outs) (fun _ _ _ h => h) (fun _ _ _ h => h) (fun _ _ h => h) (fun _ _ h => h) rfl _ _ _ _
  exact ⟨State.phase_of houts (hget _ (by show 0x1d + _ ≠ 0; omega) (by show 0x1d + _ ≠ 7; omega) (by show 0x11c + 0x80 * _ < 4096; omega)), hget⟩

theorem stallDetect_shows : Completes (.stallDetect t n) s (fun x =>
    (s.phase (.hb n) = .on → s.HbChopped n t ∨ s.HbSilent n t →
        bitAt (x.get (HB.FLT n)) 10 = true ∧ x.get (HB.STALLS n) = min (s.get (HB.STALLS n) + 1) (2 ^ (HB.STALLS n).width - 1)
        ∧ x.phase (.hb n) = (if s.flag (HB.STALLACT n) = true then .stalled else .on)
        ∧ (s.flag (HB.STALLACT n) = true → x.get (HB.DIR n) = 0))
    ∧ (s.phase (.hb n) ≠ .on ∨ ¬ (s.HbChopped n t ∨ s.HbSilent n t) → x = s.reach t)) := by
  obtain ⟨z, hz⟩ : ∃ z, z = ((s.reach t).setFault (.hb n) 10 t).count (HB.STALLS n) := ⟨_, rfl⟩
  have hexec : exec (.stallDetect t n) s = .next (if (decide (s.phase (.hb n) ≠ .on) || !s.stalls n t) = true then s.reach t
      else if z.flag (HB.STALLACT n) = true then
        ((((z.mshReleaseOf (.hb n)).quiet (.hb n)).setPhase (.hb n) .stalled t).put (HB.DIR n) 0).yieldOnce 5 2 (upage (.hb n)).2 t
      else z) := by
    rw [hz]
    rfl
  refine ⟨_, hexec, ?_⟩
  dsimp only
  refine ⟨fun hp hs => ?_, fun h => ?_⟩
  · rw [if_neg (by rw [(s.stalls_iff n t).mpr hs, hp]; decide)]
    obtain ⟨hf, hbit⟩ := (s.reach t).setFault_flags n (bit := 10) (by decide) t
    have hph := (hf.phase n).trans hp
    generalize (s.reach t).setFault (.hb n) 10 t = y at hz hf hbit hph
    have hflt : bitAt (z.get (HB.FLT n)) 10 = true := by
      rw [hz, State.get_count_apart _ _ _ _ (Fld.apart_mk (by omega))]
      exact hbit
    have hcount : z.get (HB.STALLS n) = min (s.get (HB.STALLS n) + 1) (2 ^ (HB.STALLS n).width - 1) := by
      rw [hz, State.get_count_same _ _ _ (show 16 + 16 ≤ 32 by decide), show y.get (HB.STALLS n) = s.get (HB.STALLS n) from hf.word (by omega) (by omega)]
    have hact : z.flag (HB.STALLACT n) = s.flag (HB.STALLACT n) := State.flag_of_get (by
      rw [hz, State.get_count_apart _ _ _ _ (Fld.apart_mk (by omega))]
      exact hf.word (by omega) (by omega))
    have hon : z.phase (.hb n) = .on := by
      rw [hz]
      exact (State.phase_put_hb y _ (Fld.apart_mk (by omega))).trans hph
    clear hz
    rw [hact]
    by_cases ha : s.flag (HB.STALLACT n) = true
    · rw [if_pos ha, if_pos ha]
      have hoff : ∀ {g : Fld}, g.OffBridge → (((z.mshReleaseOf (.hb n)).quiet (.hb n)).setPhase (.hb n) .stalled t).get g = z.get g := fun hg =>
        (BridgeBlind.get hg _).setPhase n t ((BridgeBlind.get hg _).quiet ((BridgeBlind.get hg _).mshReleaseOf rfl (.hb n)) (.hb n)) .stalled
      have hst := State.phase_setPhase_hb (p := .stalled) (by decide) ((z.mshReleaseOf (.hb n)).quiet (.hb n)) n t
      have hf1 := hoff (Fld.offBridge_flt n)
      have hc1 := hoff (g := HB.STALLS n) ⟨fun _ => Fld.apart_mk (by omega), fun _ => Fld.apart_mk (by omega), fun _ => Fld.apart_mk (by omega)⟩
      generalize ((z.mshReleaseOf (.hb n)).quiet (.hb n)).setPhase (.hb n) .stalled t = w at hst hf1 hc1 ⊢
      obtain ⟨k1, k2⟩ := State.yieldOnce_bridge n t (w.put (HB.DIR n) 0) 5 2 (upage (.hb n)).2 (by decide)
      refine ⟨?_, ?_, k1.trans ((State.phase_put_hb w _ (Fld.apart_mk (by omega))).trans hst), fun _ => ?_⟩
      · rw [k2 _ (by show 0x1d + _ ≠ 0; omega) (by show 0x1d + _ ≠ 7; omega) (by show 0x120 + 0x80 * _ < 4096; omega), State.get_put_apart _ _ _ _ (Fld.apart_mk (by omega)), hf1]
        exact hflt
      · rw [k2 _ (by show 0x1d + _ ≠ 0; omega) (by show 0x1d + _ ≠ 7; omega) (by show 0x13c + 0x80 * _ < 4096; omega), State.get_put_apart _ _ _ _ (Fld.apart_mk (by omega)), hc1]
        exact hcount
      · rw [k2 _ (by show 0x1d + _ ≠ 0; omega) (by show 0x1d + _ ≠ 7; omega) (by show 0x11c + 0x80 * _ < 4096; omega)]
        exact State.get_put_same _ _ _ (show 12 + 2 ≤ 32 by decide)
    · rw [if_neg ha, if_neg ha]
      exact ⟨hflt, hcount, hon, fun h => absurd h ha⟩
  · rw [if_pos]
    rw [Bool.or_eq_true, decide_eq_true_iff, Bool.not_eq_true', ← Bool.not_eq_true, State.stalls_iff]
    exact h

theorem posunc_shows : Completes (.posunc t n) s (fun x =>
    (∀ i, (s.bridge n).intervals.head? = some i → i < ms (s.get (HB.STALLT n)) →
        x.get (HB.POSUNC n) = 1 ∧ (x.bridge n).lastRipple = none ∧ (x.bridge n).intervals = [])
    ∧ (∀ i, (s.bridge n).intervals.head? = some i → ms (s.get (HB.STALLT n)) ≤ i → x = s.reach t)) := by
  refine ⟨_, rfl, ?_⟩
  dsimp only
  rw [show ((s.reach t).bridge n).intervals.head? = (s.bridge n).intervals.head? from rfl]
  cases (s.bridge n).intervals.head? with
  | none => exact ⟨fun i h => absurd h (by simp), fun i h => absurd h (by simp)⟩
  | some j =>
    refine ⟨fun i hi h => ?_, fun i hi h => ?_⟩
    · obtain rfl := Option.some.inj hi
      dsimp only
      rw [if_pos (show j < ms ((s.reach t).get (HB.STALLT n)) from h)]
      refine ⟨?_, ?_, ?_⟩
      · rw [State.get_setBridge]
        exact State.get_put_same _ _ _ (show 14 + 1 ≤ 32 by decide)
      · rw [State.bridge_setBridge, if_pos rfl]
      · rw [State.bridge_setBridge, if_pos rfl]
    · obtain rfl := Option.some.inj hi
      exact if_neg (Nat.not_lt.mpr h)


/-! Ripples. -/

/-- The ripples that insertion adds (R313). -/
def State.rippleExtra (s : State) (n : Nat) (iv : Option Nat) : Nat :=
  match iv with
  | some i =>
    if s.flag (HB.INSEN n) ∧ (s.bridge n).intervals.length = 4 ∧ 10 * 4 * i > 16 * (s.bridge n).intervals.sum ∧ (s.bridge n).intervals.sum > 0 then
      min ((2 * 4 * i + (s.bridge n).intervals.sum) / (2 * (s.bridge n).intervals.sum) - 1) 2
    else 0
  | none => 0

theorem State.rippleExtra_le (iv : Option Nat) : s.rippleExtra n iv ≤ 2 := by
  unfold State.rippleExtra
  split
  · split <;> omega
  · omega

theorem State.rippleExtra_none (iv : Option Nat) (h : s.flag (HB.INSEN n) = false ∨ (s.bridge n).intervals.length ≠ 4) : s.rippleExtra n iv = 0 := by
  unfold State.rippleExtra
  split
  · refine if_neg (fun hc => ?_)
    obtain ⟨h1, h2, -⟩ := hc
    rcases h with h | h
    · rw [h] at h1
      exact absurd h1 (by decide)
    · exact h h2
  · rfl

/-- A ripple counted, with `extra` inserted ones. -/
def State.rippleCount (s : State) (n t extra : Nat) (iv : Option Nat) : State :=
  let y := (s.put (HB.POS n) (if (s.bridge n).dirLast = 2 then s.get (HB.POS n) + 2 ^ 32 - (1 + extra) else s.get (HB.POS n) + (1 + extra))).count (HB.INSERTED n) extra
  let y := match iv with
    | some i => y.put (HB.RIPPER n) (min (i / 4000) 0xFFFF)
    | none => y
  y.setBridge n (fun b => { b with lastRipple := some t, intervals := (iv.toList ++ b.intervals).take 4 })

theorem State.rippleCount_shows (extra : Nat) (iv : Option Nat) : ((s.rippleCount n t extra iv).bridge n).lastRipple = some t
    ∧ (extra = 0 → (s.rippleCount n t extra iv).get (HB.INSERTED n) = s.get (HB.INSERTED n))
    ∧ (s.rippleCount n t extra iv).get (HB.POS n) = (if (s.bridge n).dirLast = 2 then s.get (HB.POS n) + 2 ^ 32 - (1 + extra) else s.get (HB.POS n) + (1 + extra)) % 2 ^ 32 := by
  unfold State.rippleCount
  dsimp only
  generalize (if (s.bridge n).dirLast = 2 then s.get (HB.POS n) + 2 ^ 32 - (1 + extra) else s.get (HB.POS n) + (1 + extra)) = v
  rw [State.bridge_setBridge, if_pos rfl, State.get_setBridge, State.get_setBridge]
  have hins : extra = 0 → ((s.put (HB.POS n) v).count (HB.INSERTED n) extra).get (HB.INSERTED n) = s.get (HB.INSERTED n) := fun h => by
    have hp : (s.put (HB.POS n) v).get (HB.INSERTED n) = s.get (HB.INSERTED n) := State.get_put_apart _ _ _ _ (Fld.apart_mk (by omega))
    have hlt : s.get (HB.INSERTED n) < 2 ^ 16 := s.get_lt (HB.INSERTED n)
    unfold State.count
    rw [State.get_put_same _ _ _ (show 16 + 16 ≤ 32 by decide), hp, h]
    show min (s.get (HB.INSERTED n) + 0) (2 ^ 16 - 1) % 2 ^ 16 = _
    omega
  have hpos : ((s.put (HB.POS n) v).count (HB.INSERTED n) extra).get (HB.POS n) = v % 2 ^ 32 :=
    (State.get_count_apart _ _ _ _ (Fld.apart_mk (by omega))).trans (State.get_put_same s (HB.POS n) v (show 0 + 32 ≤ 32 by decide))
  generalize (s.put (HB.POS n) v).count (HB.INSERTED n) extra = y at hins hpos ⊢
  cases iv with
  | none => exact ⟨rfl, hins, hpos⟩
  | some i =>
    refine ⟨rfl, fun h => ?_, ?_⟩
    · exact (State.get_put_apart _ _ _ _ (Fld.apart_mk (by omega))).trans (hins h)
    · exact (State.get_put_apart _ _ _ _ (Fld.apart_mk (by omega))).trans hpos

/-- The steps of a position that a ripple moves with at most two inserted ones. -/
theorem rippleStep_mem {p extra : Nat} (hp : p < 2 ^ 32) (he : extra ≤ 2) :
    ((p + 2 ^ 32 - (1 + extra)) % 2 ^ 32 + 2 ^ 32 - p) % 2 ^ 32 ∈ [2 ^ 32 - 1, 2 ^ 32 - 2, 2 ^ 32 - 3]
      ∧ ((p + (1 + extra)) % 2 ^ 32 + 2 ^ 32 - p) % 2 ^ 32 ∈ [1, 2, 3] := by
  simp only [List.mem_cons, List.not_mem_nil, or_false]
  omega

/-- A current at RIPMIN or above in a bridge whose ripples are counted (R313). -/
abbrev State.HbCounted : Prop := s.flag (HB.RIPEN n) = true ∧ s.get (HB.RIPMIN n) ≤ (s.signed (HB.IOUT n)).natAbs

theorem State.ripples_iff : s.ripples n = true ↔ s.HbCounted n := by
  unfold State.ripples
  rw [Bool.and_eq_true, decide_eq_true_iff]

theorem rippleCrossing_shows : Completes (.rippleCrossing t n) s (fun x =>
    let near := (s.bridge n).lastRipple.any (fun l => decide (t < l + us 200)) = true
    let far := (s.bridge n).lastRipple.any (fun l => decide (l + ms 50 < t)) = true
    (¬ s.HbCounted n ∨ near → x = s.reach t)
    ∧ (s.HbCounted n → ¬ near → far → x.regs = s.regs ∧ (x.bridge n).lastRipple = some t ∧ (x.bridge n).intervals = [])
    ∧ (s.HbCounted n → ¬ near → ¬ far → (x.bridge n).lastRipple = some t
      ∧ (s.flag (HB.INSEN n) = false ∨ (s.bridge n).intervals.length ≠ 4 → x.get (HB.INSERTED n) = s.get (HB.INSERTED n)
        ∧ x.get (HB.POS n) = (if (s.bridge n).dirLast = 2 then s.get (HB.POS n) + 2 ^ 32 - 1 else s.get (HB.POS n) + 1) % 2 ^ 32)
      ∧ (x.get (HB.POS n) + 2 ^ 32 - s.get (HB.POS n)) % 2 ^ 32 ∈ (if (s.bridge n).dirLast = 2 then [2 ^ 32 - 1, 2 ^ 32 - 2, 2 ^ 32 - 3] else [1, 2, 3]))) := by
  obtain ⟨iv, hiv⟩ : ∃ iv, iv = (s.bridge n).lastRipple.map (fun l => t - l) := ⟨_, rfl⟩
  have hexec : exec (.rippleCrossing t n) s = .next (if (!s.ripples n || (s.bridge n).lastRipple.any (fun l => decide (t < l + us 200))) = true then s.reach t
      else if (s.bridge n).lastRipple.any (fun l => decide (l + ms 50 < t)) = true then (s.reach t).setBridge n (fun b => { b with lastRipple := some t, intervals := [] })
      else (s.reach t).rippleCount n t (s.rippleExtra n iv) iv) := by
    rw [hiv]
    rfl
  refine ⟨_, hexec, ?_⟩
  dsimp only
  generalize (s.bridge n).lastRipple.any (fun l => decide (t < l + us 200)) = near
  generalize (s.bridge n).lastRipple.any (fun l => decide (l + ms 50 < t)) = far
  have hskip : (!s.ripples n || near) = true ↔ ¬ s.HbCounted n ∨ near = true := by
    rw [Bool.or_eq_true, Bool.not_eq_true', ← Bool.not_eq_true, State.ripples_iff]
  refine ⟨fun h => if_pos (hskip.mpr h), fun hc hn hf => ?_, fun hc hn hf => ?_⟩
  · rw [if_neg (fun h => (hskip.mp h).elim (fun k => k hc) hn), if_pos hf, State.bridge_setBridge, if_pos rfl]
    exact ⟨rfl, rfl, rfl⟩
  · rw [if_neg (fun h => (hskip.mp h).elim (fun k => k hc) hn), if_neg hf]
    obtain ⟨h1, h2, h3⟩ := (s.reach t).rippleCount_shows n t (s.rippleExtra n iv) iv
    have hle := s.rippleExtra_le n iv
    have hzero := s.rippleExtra_none n iv
    generalize s.rippleExtra n iv = extra at h1 h2 h3 hle hzero ⊢
    generalize (s.reach t).rippleCount n t extra iv = x at h1 h2 h3 ⊢
    rw [show ((s.reach t).bridge n) = s.bridge n from rfl, State.get_reach] at h3
    obtain ⟨m1, m2⟩ := rippleStep_mem (s.get_lt (HB.POS n)) hle
    refine ⟨h1, fun h => ⟨h2 (hzero h), ?_⟩, ?_⟩
    · rw [h3, hzero h]
    · rw [h3]
      split
      · exact m1
      · exact m2

end
end Sys2Proof.Machine

namespace Sys2Proof.Machine

-- One declaration after another: each kernel evaluation beside others holds a thread's stack, and the whole text has one memory limit.
set_option Elab.async false

/-- Settles O27, clause by clause: each command opens, brakes, stops or counts through the operations of its bridge, whose phases and frames are the lemmas above. -/
theorem bridgesRun : Obligations.BridgesRun := by
  unfold Obligations.BridgesRun
  intro s n t _
  refine ⟨fun below => reverseBrakeEnd_shows s n t below, parkInputReached_shows s n t, fun d hd hp => parkTimeout_shows s n hd hp,
    fun d hd hp => parkBrakeEnd_shows s n hd hp, chopLimit_shows s n t, ?_, overloadTrip_shows s n t,
    fun hi lo both => shortCircuitTrip_shows s n t hi lo both, stallDetect_shows s n t, rippleCrossing_shows s n t, posunc_shows s n t⟩
  have h := bridgePwmPeriod_shows s n t (s.hbMaster n) rfl
  rw [State.hbDuty_eq] at h
  exact h

end Sys2Proof.Machine
